-- ==== Sys2Proof/Word.lean ====
section
/-! DEFINITION. The word types of the SK-64X and their plainest arithmetic: field extraction and
insertion (R9: bit 0 is the least significant bit, a range [msb:lsb] includes both ends). -/

namespace Sys2Proof

/-- One byte. -/
abbrev Byte := BitVec 8
/-- A 16-bit field: indices, tags, handles, sequence numbers of records. -/
abbrev U16 := BitVec 16
/-- A 32-bit register. -/
abbrev U32 := BitVec 32
/-- A 64-bit register. -/
abbrev U64 := BitVec 64

/-- A function: 0 is PF0, 1 to 127 are VFs (R7). -/
abbrev FuncId := Fin 128
/-- A root port (R7). -/
abbrev PortId := Fin 64
/-- A card slot; port n and slot n belong together (R7). -/
abbrev SlotId := Fin 64
/-- An ox engine (R215). -/
abbrev EngId := Fin 16
/-- A mule die; die g serves slots 16g to 16g + 15 (R1). -/
abbrev DieId := Fin 4

/-- Bit `i` of a value as a Bool. -/
def bit {w : Nat} (x : BitVec w) (i : Nat) : Bool := x.getLsbD i

/-- The field of `n` bits that starts at bit `lo`, as a number. -/
def field {w : Nat} (x : BitVec w) (lo n : Nat) : Nat := x.toNat / 2 ^ lo % 2 ^ n

/-- A Bool as the number 0 or 1. -/
def ofBool (b : Bool) : Nat := if b then 1 else 0

/-- `x` with the `n` bits from bit `lo` replaced by `v`. -/
def setField {w : Nat} (x : BitVec w) (lo n v : Nat) : BitVec w :=
  BitVec.ofNat w (x.toNat % 2 ^ lo + (v % 2 ^ n) * 2 ^ lo + x.toNat / 2 ^ (lo + n) * 2 ^ (lo + n))

/-- The number that little-endian bytes spell (R9). -/
def leNat : List Byte → Nat
  | [] => 0
  | b :: r => b.toNat + 256 * leNat r

/-- The `n` little-endian bytes of a number (R9). -/
def natLE : Nat → Nat → List Byte
  | 0, _ => []
  | n + 1, v => BitVec.ofNat 8 v :: natLE n (v / 256)

/-- `n` zero bytes. -/
def zeros (n : Nat) : List Byte := List.replicate n 0

/-- Ceiling division. -/
def cdiv (a b : Nat) : Nat := (a + b - 1) / b

end Sys2Proof
end

