-- ==== Sys2Proof/Machine/Bodies.lean ====
section
/-! DEFINITION. What the commands of the SK-64X carry: generations, places in a tree, packet headers, command bodies, error
reports and record headers. -/

namespace Sys2Proof

/-- A Noraz generation (R42). -/
inductive Gen where
  | n1 | n2 | n3 | n4 | n5
deriving DecidableEq, Repr

/-- Source of a power command to a mule die (R21). -/
inductive PowerSource where
  | ownCore | pctlB
deriving DecidableEq, Repr

/-- A slot's feed (R354). -/
inductive Feed where
  | a | b
deriving DecidableEq, Repr

/-- The two power-fail causes of R374. -/
inductive PfwCause where
  | vwarn | feedsLost
deriving DecidableEq, Repr

/-- A place where a device or hub attaches (R110): a root port, or downstream port `q` of the hub that
holds handle number `hub`. -/
inductive Loc where
  | root (p : PortId)
  | hub (hub : Fin 4096) (q : Fin 16)
deriving DecidableEq, Repr

/-- The fields of a received packet header (R49); TYPE is the row's own. -/
structure Hdr where
  addr : BitVec 7
  dir : Bool
  ep : BitVec 4
  seq : BitVec 5
  len : BitVec 11
  burst : BitVec 4
  last : Bool
  retry : Bool
  lgasp : Bool
  tspec : Byte
deriving DecidableEq, Repr

/-- The result of a control transfer of enumeration (R116, R117). -/
inductive XferResult where
  | ok | stall | xactErr
deriving DecidableEq, Repr

/-- The registers whose high word R141 and R470 latch. -/
inductive LatchReg where
  | epoch | tick
  | axState (i : Fin 4)
  | telV (n : SlotId) | telI (n : SlotId) | energy (n : SlotId) | telPeak (n : SlotId)
deriving DecidableEq, Repr

/-- The mailbox channel on which a command came (R429, R436). -/
inductive Chan where
  | nonSecure (f : FuncId) | secure | i3c
deriving DecidableEq, Repr

/-- A mailbox (R429). -/
inductive Box where
  | func (f : FuncId) | secure | i3c
  | toCores (e : EngId) | toEngine (e : EngId)
deriving DecidableEq, Repr

/-- Who sent a command: the channel, its SEQ, and PTR and REPLY_ADDR of R434. -/
structure CmdCtx where
  chan : Chan
  seq : U16
  ptr : U64
  replyAddr : U64
deriving DecidableEq, Repr

/-- The body of a topology command (R124): root port, path, handle, slot. -/
structure TopoBody where
  port : Byte
  path : List Byte
  handle : U16
  slot : Byte
deriving DecidableEq, Repr

/-- The body of ADMIT and RELEASE (R210). -/
structure AdmitBody where
  handle : U16
  epaddr : Byte
  kind : Byte
  periodK : Byte
  packets : Byte
  bytes : U32
deriving DecidableEq, Repr

/-- The body of SCRIPT_BIND and SCRIPT_UNBIND (R250). -/
structure BindBody where
  byIdentity : Byte
  number : Byte
  handle : U16
  vendor : U16
  product : U16
  revision : U16
deriving DecidableEq, Repr

/-- The function descriptor (R325). -/
structure FuncDesc where
  func : Byte
  mask : Byte
  nSQ : U16
  nCR : U16
  nVec : U16
  pages : U16
  quota : U16
  pshare : U32
  weight : Byte
  spillDepth : U16
  spillEntries : U32
  spillBase : U64
deriving DecidableEq, Repr

/-- The body of DEV_ASSIGN (R332). -/
structure AssignBody where
  handle : U16
  func : Byte
  flags : Byte
deriving DecidableEq, Repr

/-- An item that the bellwether firmware posts to the dispatcher (R222, R223): level 6 management work, or
level 7 last-gasp service, on one endpoint of one device. -/
structure PostBody where
  lastGasp : Bool
  func : FuncId
  port : PortId
  handle : U16
  epaddr : Byte
  bytes : BitVec 25
deriving DecidableEq, Repr

/-- What a scrub visit finds in a word of the buffer memory (R314, R315). -/
inductive EccResult where
  | good | correctable | uncorrectable
deriving DecidableEq, Repr

/-- KIND of `ERR.LAST`. -/
inductive ErrKind where
  | corrected | uncorrectable | parityRepaired | faultOrCrc
deriving DecidableEq, Repr

/-- The structures of R379 in which an error can be detected, each with its member. -/
inductive ErrSite where
  | bufferPage (page : Fin 4014)
  | engineMem (e : EngId)
  | engineFault (e : EngId)
  | engineXbar (e : EngId)
  | portLane (p : PortId)
  | muleLink (g : DieId)
  | muleKeepalive (g : DieId)
  | muleParity (g : DieId)
  | descriptorCache (item : Nat)
  | contextCache (num : Fin 4096) (epaddr : Byte)
  | dispatcherEntry (item : Nat)
  | dataPathPcie (item : Nat)
  | bellwetherSram
  | tableBank (entry : Fin 8192)
  | periodicTable (entry : Fin 8192)
  | eventController
  | configParity (c : Fin 7) (inst : BitVec 12)
deriving DecidableEq, Repr

/-- A detected internal error (R381, R382). -/
structure ErrReport where
  site : ErrSite
  kind : ErrKind
deriving DecidableEq, Repr

/-- The header of a received Xebirok record (R391); TYPE is the row's own. -/
structure XbkHdr where
  resent : Bool
  seq : U32
  ack : U32
  epoch : U32
deriving DecidableEq, Repr

/-- Which end of a PCTL_B line resends (R409, R410): the partner a command, the die an EVENT. -/
inductive PctlSide where
  | partner | die
deriving DecidableEq, Repr

end Sys2Proof
end

