-- ==== Sys2Proof/Machine/Records.lean ====
section
/-! DEFINITION. The records of which the machine's state consists, as plain data, by the blocks of the part. A table `Tbl α`
is a list of numbered entries in rising order; an entry that is not listed holds its reset value, which the block's reader
supplies. -/

namespace Sys2Proof.Machine

/-- A sparse numbered collection: entries in rising key order, an absent key holding its reset value. -/
abbrev Tbl (α : Type) := List (Nat × α)

/-- Byte-addressed on-chip memory: cells in strictly rising address order, none equal to 0, which is what
an unlisted byte reads as (log 5). -/
abbrev Memory := List Host.Cell

/-! ### Events, interrupts and mailboxes -/

/-- The event registers whose bits are the sources of R415, and the two kinds that are no sources. -/
inductive EvtReg where
  | port (n : Fin 64) | slot (n : Fin 64) | tb | ax (i : Fin 4) | cmpPend (k : Fin 8) | eng
  | flrDone (k : Fin 4) | vfr | dma | err | pair | q (f : FuncId) | vf (f : FuncId)
deriving DecidableEq, Repr

/-- One MSI-X table entry with its moderation (R426 to R428). -/
structure Vec where
  addr : U64 := 0
  data : U32 := 0
  /-- Vector Control; bit 0 masks, set at reset (R482). -/
  ctrl : U32 := 1
  pend : Bool := false
  /-- COUNT and TIME of `INT.VEC_MOD`. -/
  count : Byte := 1
  time : BitVec 10 := 1
  counted : Byte := 0
  /-- An interval is open. -/
  running : Bool := false
deriving DecidableEq, Repr

/-- The configuration and state of one event source (R416, R425). -/
structure Source where
  en : Bool := false
  prio : BitVec 4 := 0
  tmask : BitVec 18 := 0
  soft : Bool := false
  hvec : BitVec 11 := 0
  hosten : Bool := false
  active : Option (Fin 18) := none
deriving DecidableEq, Repr

/-- One of the 18 targets (R418). -/
structure Target where
  thr : BitVec 4 := 0
  asleep : Bool := false
  masked : Bool := false
  last : BitVec 10 := 0
deriving DecidableEq, Repr

/-- The event controller (R415 to R425) and the event registers that drive it. -/
structure Eic where
  evt : Tbl U32 := []
  /-- `SLOT[n].EVT_EN`. -/
  slotEn : Tbl U32 := []
  src : Tbl Source := []
  tgt : Tbl Target := []
  srcSel : U32 := 0
  tgtSel : U32 := 0
deriving DecidableEq, Repr

/-- A mailbox notice (R430). -/
structure Notice where
  ptr : U64
  seq : U16
  typ : Byte
deriving DecidableEq, Repr

/-- A mailbox: one slot in each direction, the notices that the firmware holds for it (R433), and the
notices taken from it whose command has no reply yet (R437). -/
structure MBox where
  inPtr : U64 := 0
  inSlot : Notice := ⟨0, 0, 0⟩
  inFull : Bool := false
  inColl : Bool := false
  outSlot : Notice := ⟨0, 0, 0⟩
  outFull : Bool := false
  outColl : Bool := false
  /-- `MBX.VEC`. -/
  vec : U32 := 0
  waiting : List Notice := []
  /-- Notices taken whose command block has still to be read. -/
  taken : List Notice := []
  /-- Commands read whose reply has still to be written. -/
  unanswered : List Notice := []
  /-- Replies that wait for Bus Master Enable: address, bytes, notice (R514). -/
  replies : List (U64 × List Byte × Notice) := []
deriving DecidableEq, Repr

/-- The mailboxes with the on-chip buffers of the secure page (R439) and of the I3C sideband (R440). -/
structure Mail where
  box : Tbl MBox := []
  secIn : Memory := []
  secOut : Memory := []
  i3cIn : Memory := []
  i3cOut : Memory := []
  /-- The inbound notice being written over I3C (offset 0x0200): PTR and SEQ bytes staged. -/
  i3cStage : Memory := []
  /-- The last offset written by an I3C write. -/
  i3cOffset : U16 := 0
  /-- The dynamic address that ENTDAA gave. -/
  i3cAddr : Option (BitVec 7) := none
deriving DecidableEq, Repr

/-! ### Ox engines and quirk scripts -/

/-- The two kinds of thread that run instructions (R217); a parked thread is one of them waiting. -/
inductive ThreadKind where
  | periodic | dispatch
deriving DecidableEq, Repr

/-- What a thread serves: nothing yet, a dispatcher item, or a periodic or event reservation. -/
inductive Work where
  | none_ | item (id : Nat) | service (res : Nat)
deriving DecidableEq, Repr

/-- What a thread waits for. -/
inductive Wait where
  | running | hold (p : Nat) | whs (mask : Byte) (offset : BitVec 14)
  | rdat (mask : Byte) (offset : BitVec 14) | dly | drn | getw
deriving DecidableEq, Repr

/-- One level of the hardware loop stack: first and last word of the body, turns still to run. -/
structure LoopFrame where
  first : BitVec 14
  last : BitVec 14
  left : Nat
deriving DecidableEq, Repr

/-- A script hook in progress (R242 to R245). -/
structure ScriptRun where
  number : Nat
  hook : Nat
  /-- The budget counter. -/
  budget : BitVec 17
  /-- Where the microcode goes on after SRET. -/
  back : BitVec 14
deriving DecidableEq, Repr

/-- The registers and the work of a thread (R215, R217). -/
structure Thread where
  kind : ThreadKind := .dispatch
  b : Tbl Byte := []
  p : Tbl (BitVec 24) := []
  pc : BitVec 14 := 0
  z : Bool := false
  n : Bool := false
  c : Bool := false
  loops : List LoopFrame := []
  calls : List (BitVec 14) := []
  work : Work := .none_
  holds : List Nat := []
  script : Option ScriptRun := none
  /-- Cycles that earlier hooks of this service or visit used (R245). -/
  used : Nat := 0
  /-- Hooks entered in this service or visit (R242). -/
  entered : List Nat := []
  /-- The script that the work's device had bound when the service or visit started (R251). -/
  bound : Nat := 0
  wait : Wait := .running
  /-- TICK at which its wait was issued (R240, R245). -/
  waitAt : Nat := 0
  /-- The DMA channel armed for the current transfer (R295). -/
  armed : Option Nat := none
  /-- The 64-byte context window (R235). -/
  win : Memory := []
deriving DecidableEq, Repr

/-- A thread in a park slot, and whether its port lane has reported (R219). -/
structure Parked where
  thread : Thread
  ready : Bool
deriving DecidableEq, Repr

/-- One ox engine (R215). -/
structure Engine where
  run : Option Thread := none
  suspended : Option Thread := none
  /-- Periodic threads that gave way to a parked thread, the last one first (R219). -/
  paused : List Thread := []
  /-- Park slots, by port. -/
  parked : Tbl Parked := []
  /-- Reservations still to be served in the rung-list walk of this microframe, in order (R195). -/
  walk : List Nat := []
  cur : Option Nat := none
  dmem : Memory := []
  scratch : Memory := []
  retired : Bool := false
  /-- Stopped by an engine reset, until it rejoins (R383). -/
  stopped : Bool := false
  /-- Held in reset until its first internal microframe boundary. -/
  inReset : Bool := true
  gated : Bool := false
deriving DecidableEq, Repr

/-- A loaded quirk script (R247, R250). -/
structure Script where
  base : Nat
  words : Nat
  hooks : Byte
  entries : List Nat
  wcCycles : Nat
  wcLineNs : Nat
  gens : Byte
  flags : Byte
  /-- The image uses a bus instruction other than DLY (rule 7). -/
  bus : Bool
deriving DecidableEq, Repr

/-- An identity rule (R251). -/
structure IdRule where
  number : Nat
  vendor : U16
  product : U16
  revision : U16
deriving DecidableEq, Repr

/-- The engines, their common script region and the script tables. -/
structure Engines where
  eng : Tbl Engine := []
  /-- The script region, word addresses 0x2000 to 0x2FFF, equal in every engine (R216). -/
  imem : Tbl U32 := []
  scripts : Tbl Script := []
  rules : List IdRule := []
  /-- `ENG.SCR_LAST` and `ENG.SCR_FAULTS`. -/
  scrLast : U32 := 0
  scrFaults : U32 := 0
deriving DecidableEq, Repr

/-! ### Admission and frame tables -/

/-- KIND of a rung-list entry (R194). -/
inductive ResKind where
  | periodic | event | float
deriving DecidableEq, Repr

/-- A translator segment on a device's path: the hub's handle number, its wire address and port. -/
structure TtPath where
  hub : Nat
  addr : Nat
  port : Nat
deriving DecidableEq, Repr

/-- A rung-list entry (R194) with what admission charged for it. -/
structure Rung where
  kind : ResKind := .periodic
  split : Bool := false
  lastGasp : Bool := false
  dirIn : Bool := false
  port : Nat := 0
  handle : U16 := 0
  ep : Nat := 0
  engine : Nat := 0
  fallback : Nat := 0
  /-- Period class in microframes, and phase. -/
  periodK : Nat := 0
  phase : Nat := 0
  hubTiers : Nat := 0
  packets : Nat := 1
  mps : Nat := 1
  tt : Option TtPath := none
  linkNs : Nat := 0
  engCyc : Nat := 0
  startPos : Nat := 0
  script : Nat := 0
  /-- Function charged, BYTES, and the staging pages of R188. -/
  func : Nat := 0
  bytes : Nat := 0
  gen : Gen := .n1
  maxBurst : Nat := 0
  pages : List Nat := []
  /-- EPOCH[31:0] of the first frame that carried it (R211). -/
  liveFrom : U32 := 0
deriving DecidableEq, Repr

/-- The periodic state table entry of a reservation (R18, R198): idle or streaming, the service last
targeted (in microframes since epoch 0), the next sequence, and the state kept for scripts. -/
structure PState where
  streaming : Bool := false
  lastSvc : Nat := 0
  /-- The SQ of the entry last bound to it. -/
  lastSq : Nat := 0
  seq : BitVec 5 := 0
  halted : Bool := false
  /-- It becomes idle once the last entry bound to it has been served (R198). -/
  ends : Bool := false
  scriptState : Memory := []
  /-- Due SPLIT-DONEs: the microframes in which they fall (R180, R195). -/
  followOn : List Nat := []
  /-- Attempts of the bound event entry that have ended in an error (R73). -/
  attempts : Nat := 0
  /-- The service that runs now: the sequence expected first, its packets stored, a packet lost, a short packet
  seen, and the packets its tokens asked for (R72). -/
  first : BitVec 5 := 0
  good : Nat := 0
  lost : Bool := false
  short : Bool := false
  tokens : Nat := 0
  /-- Its half still held data when it began: what it receives is discarded (R309). -/
  late : Bool := false
deriving DecidableEq, Repr

/-- A command whose reply waits for the swap (R196): an ADMIT or RELEASE, and its reservation. -/
structure SwapReply where
  ctx : CmdCtx
  body : AdmitBody
  res : Nat
  isAdmit : Bool
  /-- A teardown or reset has ended the reservation before it went live (R214). -/
  gone : Bool := false
deriving DecidableEq, Repr

/-- The two table banks and the state of their compilation (R193, R196, R517). -/
structure Sched where
  live : Tbl Rung := []
  /-- Accepted changes, complete and waiting for the swap when `swapPend`. -/
  shadow : Tbl Rung := []
  state : Tbl PState := []
  /-- Released reservations with a split service in progress, which completes normally (R209). -/
  leaving : Tbl Rung := []
  liveBank : Bool := false
  swapPend : Bool := false
  replies : List SwapReply := []
  compiling : Bool := false
  nm1Ok : Bool := true
  retiredEng : BitVec 4 := 0
  liveEpoch : U32 := 0
  leadMiss : U32 := 0
  /-- `SCH.PORT_CAP`. -/
  cap : Tbl U32 := []
  /-- Axis-bound transfers waiting for their port's floating reservation, oldest first (R159). -/
  floatWait : Tbl (List Nat) := []
  /-- TICK of the last floating start of a port that found no transfer waiting (R29, R203). -/
  floatIdle : Tbl Nat := []
deriving DecidableEq, Repr

/-! ### Transactions -/

/-- The types of transaction on the wire. -/
inductive TxnKind where
  | bulkIn | bulkOut | setup | perIn | perOut | evtIn | evtOut | poll | splitStart | splitDone
deriving DecidableEq, Repr

/-- The transaction in progress on a port's line (R65 to R73): what it serves, its device and endpoint,
the first sequence and packet count of the burst, and what has been received so far. -/
structure Txn where
  kind : TxnKind
  work : Work
  engine : Option Nat
  num : Nat
  ep : Nat
  dirIn : Bool
  seq0 : BitVec 5
  count : Nat
  stored : Nat := 0
  dup : Bool := false
  bad : Bool := false
  retry : Bool := false
  /-- An answer is awaited: the response window is open. -/
  waiting : Bool := true
  /-- DATA has begun to arrive. -/
  receiving : Bool := false
  /-- Packets queued behind the token for OUT, packets seen for IN. -/
  sent : Nat := 0
  /-- The burst has ended and the host's ACK is still to be sent (R63). -/
  ackDue : Bool := false
  /-- The burst brought a short packet, or the last byte asked for. -/
  final : Bool := false
  /-- TICK of its token. -/
  start : Nat := 0
deriving DecidableEq, Repr

/-- What an engine has queued on a port lane that the lane has still to send (R240): a token with its TYPE, the packets that
its register asks for, its endpoint and whether that is the work's own; a split token; DATA packets. -/
inductive LaneOp where
  | tok (typ n ep : Nat) (own retry : Bool) | spl (start retry : Bool) | sdat (n : Nat)
deriving DecidableEq, Repr

/-! ### Queues, items and completions -/

/-- A submission queue (R254 to R266). -/
structure Sq where
  created : Bool := false
  base : U64 := 0
  /-- `Q.CFG` at creation, SQ layout. -/
  cfg : U64 := 0
  /-- P, C and the fetch position F. -/
  p : U16 := 0
  c : U16 := 0
  f : U16 := 0
  stopped : Bool := false
  /-- Entries from C whose completions are written although an older one is not (R264). -/
  done : List U16 := []
  /-- Entries invalidated and still to be fetched again, each with the reservation and service that it
  targeted (R272). -/
  inval : List (U16 × Option (Nat × Nat)) := []
  /-- The producer values accepted whose entries are not all fetched, each with the microframe in which it was seen
  (R197). -/
  seenAt : List (U16 × Nat) := []
  /-- Microframe of the last kick with INVAL, from which entries fetched again are judged (R272). -/
  kickAt : Nat := 0
  /-- The front end has reads of this queue to make since its last sweep or kick (R271, R515). -/
  reading : Bool := false
deriving DecidableEq, Repr

/-- A completion that waits for room in its CR: spilled in a record, or held with its item (R282, R283).
`head` is C when it was spilled. -/
structure WaitRec where
  record : Option Nat
  item : Option Nat
  timed : Bool
  tag : U16
  sqid : BitVec 12
  status : Byte
  flags : Byte
  head : U16
  residual : BitVec 25
  stamp : U32
deriving DecidableEq, Repr

/-- A completion ring (R277, R281 to R286). -/
structure Cr where
  created : Bool := false
  base : U64 := 0
  cfg : U64 := 0
  p : U16 := 0
  c : U16 := 0
  waiting : List WaitRec := []
  spillHalt : Bool := false
deriving DecidableEq, Repr

/-- The slot of the descriptor cache that an item holds (R270). -/
inductive Slot where
  | work | timed (res : Nat) | check
deriving DecidableEq, Repr

/-- The part of an ordered flow: handle, endpoint, and direction unless the endpoint is 0 (R224). -/
structure Flow where
  handle : U16
  epaddr : Byte
deriving DecidableEq, Repr

/-- A stamp with its AXIS flag (R162, R163). -/
structure Stamp where
  axis : Bool
  value : U32
deriving DecidableEq, Repr

/-- The index table of an item: header, and the offsets read so far (R304, R305). -/
structure IdxState where
  base : U64
  size : Nat
  offsets : List Nat
  /-- The element behind them is malformed: the transfer ends there. -/
  bad : Bool := false
deriving DecidableEq, Repr

/-- An entry between its fetch and its completion, or an item that the firmware posted (R222). -/
structure Item where
  func : Nat
  sq : Nat := 0
  index : U16 := 0
  raw : BitVec 256 := 0
  /-- Posted by the bellwether firmware: no SQ. -/
  posted : Option PostBody := none
  /-- The setup bytes of a request that the part makes itself (R15, R53, R101). -/
  setup : Option U64 := none
  /-- A poll of a hub's status-change endpoint that has no reservation (R100). -/
  poll : Bool := false
  slot : Slot := .work
  level : Nat := 0
  port : Nat := 0
  /-- Flow and flow sequence; none for a NOP and a failed check. -/
  flow : Option Flow := none
  flowSeq : Nat := 0
  /-- Microframe in which it counts as seen, and the service to which it is bound. -/
  seen : Nat := 0
  service : Option Nat := none
  /-- The engine running it, if granted. -/
  granted : Option Nat := none
  /-- Offered to its affinity engine only (R228). -/
  offer : Option Nat := none
  begun : Bool := false
  /-- Its last transaction has ended on the wire (R224). -/
  wireDone : Bool := false
  /-- Bytes moved on the wire, and IN bytes written to host memory. -/
  moved : Nat := 0
  drained : Nat := 0
  errs : Nat := 0
  /-- A SPLIT-DONE of it was answered NYET (R107). -/
  nyet : Bool := false
  /-- The microframe from which the SPLIT-DONE of its split is due (R107). -/
  doneAt : Option Nat := none
  /-- An error of its last transaction, not counted until its ERROR hook has ended (R242). -/
  pendErr : Option Txn := none
  /-- Packets moved in the present visit, and whether a NAK has ended it (R207). -/
  visit : Nat := 0
  visitOver : Bool := false
  /-- Stage of a control transfer: 0 SETUP, 1 data, 2 status. For a periodic split, 1 once a SPLIT-DONE of it has
  gone out. -/
  stage : Nat := 0
  idx : Option IdxState := none
  /-- The unit on which an axis-bound entry is armed, and whether the unit fired. -/
  armed : Bool := false
  fired : Bool := false
  /-- Its compare instant (R159). -/
  firedAt : Nat := 0
  /-- OUT bytes asked of host memory, and staged. -/
  asked : Nat := 0
  staged : Nat := 0
  /-- IN byte ranges of the transfer that are staged and not yet written: position and length. -/
  segs : List (Nat × Nat) := []
  /-- Pages that stage the transfer and the offset of its byte 0 in them; no pages: the holding buffer. -/
  pages : List Nat := []
  offset : Nat := 0
  /-- The transfer's data has ended: the remainder is flushed (R298). -/
  ended : Bool := false
  status : Option Byte := none
  /-- The status was decided on the wire, and the engine has still to post it by FIN (R225). -/
  awaitFin : Bool := false
  residual : Nat := 0
  stamp : Stamp := ⟨false, 0⟩
  /-- Its completion waits for the end of the reset that aborted it (R135). -/
  parked : Option Loc := none
  /-- The status with which it ends once its transaction in progress has ended. -/
  stopAs : Option Byte := none
  /-- Written to its CR's waiting list as held: its slot stays taken. -/
  held : Bool := false
deriving DecidableEq, Repr

/-- The queue front end and the dispatcher. -/
structure Front where
  items : Tbl Item := []
  nextItem : Nat := 0
  nextFlowSeq : Nat := 0
  /-- The port last granted at each level (R227). -/
  lastPort : Tbl Nat := []
  /-- Work of the part's own that waits for room in PF0's share: handle number, and the setup bytes of a request; none for
  a poll of a hub (R15, R100, R223). -/
  requests : List (Nat × Option U64) := []
  /-- Affinity engine of each flow (R228). -/
  affinity : List (Flow × Nat) := []
  /-- Visits left in the present round: (port, function, SQ, visits) (R207). -/
  visits : List (Nat × Nat × Nat × Nat) := []
  /-- Control time used in this unit, per port, in 0.1 ns (R206). -/
  ctlUsed : Tbl Nat := []
  shareSel : U32 := 0
  ctxBase : U64 := 0
  ctxEn : Bool := false
  /-- Contexts in the on-chip cache. -/
  resident : List Nat := []
  /-- Doorbell blocks still to be read in this sweep: function and block (R41). -/
  sweep : List (Nat × Nat) := []
  /-- Microframe of the sweep in progress. -/
  sweepAt : Nat := 0
  /-- QUEUE_STOP commands whose reply follows their items' completions: items left, SQ, entries aborted. -/
  stops : List (CmdCtx × List Nat × Nat × Nat) := []
  /-- DEV_ASSIGN commands whose reply follows the completions of the old handles. -/
  assigns : List (CmdCtx × List Nat × List Byte) := []
deriving DecidableEq, Repr

/-! ### DMA engine and endpoint buffer memory -/

/-- What a DMA context does (`GLB.DMA_CH`). -/
inductive ChState where
  | idle | armed | moving | preempted
deriving DecidableEq, Repr

/-- One context of a DMA channel (R294, R295): what it is armed for, the read request that it has issued
(item and bytes), and its 1,024-byte holding buffer. -/
structure ChCtx where
  state : ChState := .idle
  work : Work := .none_
  reading : Option (Nat × Nat) := none
  /-- What the read brings is no longer wanted (R302: the request is not withdrawn). -/
  stale : Bool := false
  hold : Memory := []
deriving DecidableEq, Repr

/-- States of a pool page (R307). -/
inductive PageState where
  | free | scrubbing | carved | assigned
deriving DecidableEq, Repr

/-- A pool page: state, owner (after scrubbing, the next owner) and the endpoint it serves. -/
structure Page where
  state : PageState
  owner : Option Nat
  ep : Option (Nat × Nat)
deriving DecidableEq, Repr

/-- The DMA engine and the buffer memory. -/
structure Dma where
  /-- Contexts: key 2 * channel, plus 1 for TIMED. -/
  ctx : Tbl ChCtx := []
  /-- The channel last served in each class (R301). -/
  lastServed : Tbl Nat := []
  /-- Buffer memory, by logical page * 4,096 + offset. -/
  buf : Memory := []
  page : Tbl Page := []
  /-- Physical page of a remapped logical page (R306, R316). -/
  remap : Tbl Nat := []
  sparesUsed : Nat := 0
  retired : Byte := 0
  /-- Words known uncorrectable: logical page and word. -/
  bad : List (Nat × Nat) := []
  funcSel : U32 := 0
  chSel : U32 := 0
  /-- Max_Payload_Size of PF0, 128 at reset. -/
  maxPayload : Nat := 128
deriving DecidableEq, Repr

/-! ### Frames, axes and compare units -/

/-- An axis input (R147 to R152). Instants are values of `TB.TICK`. -/
structure Axis where
  cfg : U32 := 0x01F40100
  cpc : U32 := 0x1000
  count : Nat := 0
  /-- Position at the last count edge or crossing. -/
  pos : Nat := 0
  cycle : U16 := 0
  reverse : Bool := false
  stalled : Bool := false
  period : U32 := 0xFFFFFFFF
  /-- The last counted edge, the state of A and B at it, and the last level of A. -/
  lastEdge : Option Nat := none
  stA : Bool := false
  stB : Bool := false
  /-- The last complete interval in the current direction (R151). -/
  interval : Option Nat := none
  /-- Edges accepted since the direction changed. -/
  sameDir : Nat := 0
  /-- Start of the present cycle, if it began with a forward cycle start at the present CPC. -/
  cycleStart : Option Nat := none
  /-- Forward wraps since the last Z edge that moved forward, less those that a reverse wrap has undone (R150). -/
  wraps : Nat := 0
deriving DecidableEq, Repr

/-- A compare unit (R153 to R161). -/
structure CmpUnit where
  axis : Nat := 0
  dir : BitVec 2 := 0
  action : BitVec 2 := 0
  anyCycle : Bool := true
  port : Nat := 0
  owner : Nat := 0
  armed : Bool := false
  fired : Bool := false
  missed : Bool := false
  /-- `TB.CMP_TARGET` as written: P, W and C. -/
  pos : Nat := 0
  win : Nat := 1
  cycle : U16 := 0
  /-- WIN in use, and the qualifier in use, since the last arming. -/
  winNow : Nat := 1
  anyNow : Bool := true
  /-- TICK of the last evaluation noted, whether the position lay in the window then, and that position. -/
  evalAt : Nat := 0
  inside : Bool := false
  evalPos : Nat := 0
  time : Nat := 0
  /-- The armed entry, and the accepted entries behind it, in acceptance order (R158). -/
  entry : Option Nat := none
  queue : List Nat := []
deriving DecidableEq, Repr

/-- The lock states of R145, in the order of `TB.STS.LOCK`. -/
inductive Lock where
  | free | acquire | locked | clamped
deriving DecidableEq, Repr

/-- The frame generator (R136 to R146), axes, compare units and PTM. -/
structure Timebase where
  /-- Timebase cycles since the end of power-on reset. -/
  tick : U64 := 0
  epoch : BitVec 48 := 0
  uframe : Nat := 0
  /-- TICK at the start of the frame, and at the start of the microframe. -/
  frameAt : Nat := 0
  uframeAt : Nat := 0
  flen : Nat := 400000
  ctl : U32 := 0
  /-- MODE, AXSEL and M in effect. -/
  mode : BitVec 2 := 0
  axsel : Nat := 0
  m : Nat := 1
  freeLen : Nat := 400000
  lockPhase : U32 := 0
  lock : Lock := .free
  clampLong : Bool := false
  /-- Consecutive passes inside 64 cycles, and consecutive cycles inside the band. -/
  passes : Nat := 0
  inBand : Nat := 0
  ax : Tbl Axis := []
  cmpSel : U32 := 0
  cmp : Tbl CmpUnit := []
  /-- The phase error measured at the last pass of LOCK_PHASE (R144). -/
  phaseErr : Nat := 0
  /-- PTM Enable of PF0 (R166); no row of the table writes it (log 104). -/
  ptmEn : Bool := true
  ptmAuto : BitVec 4 := 0
  ptmBusy : Bool := false
  ptmSeq : U16 := 0
  ptmValid : Bool := false
  ptmFlen : Nat := 0
  ptmMaster : U64 := 0
  ptmTick : U64 := 0
  ptmEpoch : U64 := 0
  /-- High words latched under R141, by register. -/
  latch : Tbl U32 := []
deriving DecidableEq, Repr

/-! ### Noraz links and trees -/

/-- N4 and N5 link states, in the order of LSTATE (R84, R484). -/
inductive LinkState where
  | disabled | detect | polling | config | active | lowpower | recovery
deriving DecidableEq, Repr

/-- How far the attach of a root port or hub port has come (R111 to R116). -/
inductive Attach where
  | idle | debounce | detect | training | signalling | announce | confirm | recovery | ready
  /-- Waiting for a handle, an address, contexts or a quota place (R96, R338, R463). -/
  | refused
  /-- Debounced, and held while 16,384 reports wait (R464). -/
  | held
deriving DecidableEq, Repr

/-- The steps of enumeration (R116). -/
inductive EnumStep where
  | setAddress | addressWait | getIdent | getHub | getEps | setConfig | portPower (q : Nat) | powerWait (q : Nat)
  | clearStatus (q : Nat)
deriving DecidableEq, Repr

/-- The enumeration in progress in a tree (R90): one at a time. -/
structure Enum where
  loc : Loc
  /-- Handle number reserved, and wire address. -/
  num : Nat
  waddr : Nat
  step : EnumStep
  /-- A device reset re-addresses the device that holds `num` (R127). -/
  again : Bool := false
  ident : List Byte := []
  hubDesc : List Byte := []
  eps : List Byte := []
deriving DecidableEq, Repr

/-- A root port (R121, R484). -/
structure Port where
  /-- Power-good of the slot as the core die knows it (R22), and the two parts of the connect indication. -/
  pg : Bool := false
  bias : Bool := false
  farEnd : Bool := false
  /-- ENABLE has been written and nothing has disabled the port since (R122). -/
  admin : Bool := false
  enabled : Bool := false
  suspended : Bool := false
  resetting : Bool := false
  resuming : Bool := false
  babbleDis : Bool := false
  gen : Gen := .n1
  genMax : BitVec 3 := 4
  /-- GEN_MAX as the last reset or attach took it (R123). -/
  genUse : Nat := 4
  /-- Failed training or enumeration: attach waits for power-good or ENABLE (R113, R117; log 46). -/
  held : Bool := false
  /-- Waits for `DSP.CTX_CTL.EN` (R234). -/
  wantEnable : Bool := false
  attach : Attach := .idle
  trainings : Nat := 0
  /-- Highest announced generation confirmed. -/
  confirm : Gen := .n1
  tries : Nat := 0
  /-- A reset was commanded and its RESET_DONE is still to be reported. -/
  commanded : Bool := false
  /-- A reset waits for the end of the transaction in progress (R126). -/
  resetDue : Bool := false
  link : LinkState := .disabled
  rateN5 : Bool := false
  recoveries : Byte := 0
  capGot : Bool := false
  partnerN5 : Bool := false
  doneSent : Bool := false
  doneGot : Bool := false
  /-- A link command that awaits its reply: code and sends so far (R83). -/
  cmdWait : Option (Nat × Nat) := none
  /-- WAKE follows RECOVERY out of LOWPOWER. -/
  fromLowPower : Bool := false
  check : U16 := 0
  timeouts : U16 := 0
  babbles : U16 := 0
  linkErrTotal : U16 := 0
  /-- A root port's silence of 3 ms runs (R129). -/
  silence : Bool := false
  /-- TICK at the start of the running host resume, and its coincident wake (R131 to R133). -/
  resumeAt : Option Nat := none
  resumeEnded : Bool := false
  byDevice : Bool := false
  coincident : Bool := false
  /-- TICK of a remote wake that the port has not answered yet. -/
  wakeAt : Option Nat := none
  enum : Option Enum := none
  enumQueue : List Loc := []
  txn : Option Txn := none
  /-- The last IN transaction, ended without an ACK: a packet beyond its burst is babble (R75). -/
  ended : Option Txn := none
  /-- A late answer is still on the line (R82, R88). -/
  driven : Bool := false
  /-- Queued on the lane behind the transaction in progress: engine, work, operation (R240). -/
  lane : List (Nat × Work × LaneOp) := []
  /-- The result of an ended transaction that no wait instruction has taken: B15, B14, B13 (R238). -/
  answer : Option (Nat × Nat × Nat) := none
  /-- Crossbar: the engine that holds the port, the engines whose HOLD waits, and the engine of the open
  periodic window (R220, R221). -/
  heldBy : Option Nat := none
  holdWait : List Nat := []
  window : Option Nat := none
  sofHold : Bool := false
  lastGasp : Bool := false
deriving DecidableEq, Repr

/-- Port of a hub as the SK-64X sees it. -/
structure HubPort where
  connect : Bool := false
  enabled : Bool := false
  suspended : Bool := false
  resetting : Bool := false
  /-- Cleared by TOPO_PORT_DISABLE and babble, set by TOPO_PORT_RESET (R109, R124). -/
  admin : Bool := true
  /-- Disabled until it reports a disconnect (R91, R98, R117). -/
  held : Bool := false
  attach : Attach := .idle
  tries : Nat := 0
  commanded : Bool := false
  /-- The slot bound by TOPO_BIND_SLOT (R112). -/
  slot : Option Nat := none
  resumeAt : Option Nat := none
  resumeEnded : Bool := false
  byDevice : Bool := false
  coincident : Bool := false
  wakeAt : Option Nat := none
  gen : Gen := .n1
deriving DecidableEq, Repr

/-- An addressed device or hub, under its handle number. -/
structure Device where
  loc : Loc
  port : Nat
  /-- Tier 1 to 6, and the hub ports on the way down (R120). -/
  tier : Nat
  path : List Nat
  waddr : Nat
  gen : Gen
  isHub : Bool
  ident : List Byte
  eps : List Byte
  hubDesc : List Byte := []
  /-- The translator through which it is reached. -/
  tt : Option TtPath := none
  behindRepeater : Bool := false
  /-- Its attach report has been written (R118). -/
  reported : Bool := false
  reused : Bool := false
  script : Nat := 0
  hubPorts : Tbl HubPort := []
  /-- A hub served by polling (R100). -/
  polled : Bool := false
deriving DecidableEq, Repr

/-- What a handle number is used for (R92 to R96). -/
inductive HandleUse where
  | free | reserved | live
  /-- Torn down; waits until each recorded SQ's consumer index has passed the recorded index (R93). -/
  | waiting (rec : List (Nat × Nat × U16))
deriving DecidableEq, Repr

/-- A handle number: last generation, use, and the owner at each of its generations. -/
structure Handle where
  gen : BitVec 4 := 0xF
  use : HandleUse := .free
  owners : Tbl Nat := []
  /-- Path and identity of the last device, for reuse (R94). -/
  lastPort : Nat := 0
  lastPath : List Nat := []
  lastIdent : List Byte := []
deriving DecidableEq, Repr

/-- An endpoint context (R235), structured; `Ctx.bytes` gives its 64 bytes. -/
structure Ctx where
  handle : U16 := 0
  epaddr : Byte := 0
  /-- Transfer type, as ATTR[1:0]: 0 control, 1 bulk, 2 periodic, 3 event. -/
  typ : BitVec 2 := 0
  halted : Bool := false
  isOpen : Bool := false
  lastGasp : Bool := false
  mps : BitVec 11 := 0
  maxBurst : BitVec 4 := 0
  seq : BitVec 5 := 0
  /-- Sequence of the OUT direction of the control endpoint. -/
  seqOut : BitVec 5 := 0
  port : Nat := 0
  waddr : Nat := 0
  tiers : Nat := 0
  tt : Option TtPath := none
  gen : Gen := .n1
  errcnt : Byte := 0
  affinity : Option Nat := none
  progress : BitVec 24 := 0
  owner : Nat := 0
  script : Nat := 0
  relNext : U32 := 0
  subNext : U32 := 0
  scriptState : Memory := []
  interval : Nat := 0
  /-- Dedicated pages (R308), and a release that waits for its drain (R311). -/
  pages : List Nat := []
  releasing : Option CmdCtx := none
  /-- Index of its backing entry (R233). -/
  index : Nat := 0
deriving DecidableEq, Repr

/-- A report record (R120). -/
structure Report where
  kind : Nat
  gen : Nat := 0
  port : Nat
  tier : Nat := 0
  handle : U16 := 0
  waddr : Nat := 0
  flags : Nat := 0
  path : List Nat := []
  event : Nat := 0
  ident : List Byte := []
  eps : List Byte := []
  epoch : Nat := 0
  pos : Nat := 0
deriving DecidableEq, Repr

/-- What an accepted topology command waits for (R125). -/
inductive TopoWait where
  | reset (at_ : Loc) | device (num : Nat) | suspend (at_ : Loc) | resume (at_ : Loc) | disable (at_ : Loc)
deriving DecidableEq, Repr

/-- An accepted topology command that has not been answered. -/
structure TopoPending where
  ctx : CmdCtx
  code : Nat
  port : Byte
  handle : U16
  wait : TopoWait
  /-- A device reset that has found another identity: it waits for the ATTACH record of the new device at its place
  (R125, R127). -/
  changed : Bool := false
  /-- Reports still to be written before a disable is answered. -/
  reports : Nat := 0
deriving DecidableEq, Repr

/-- Trees, handles, contexts and the report ring. -/
structure Topo where
  port : Tbl Port := []
  dev : Tbl Device := []
  handle : Tbl Handle := []
  /-- The free list of handle numbers, the one free longest first (R94), in three parts: numbers returned
  to its head, the numbers from `fresh` to 4,095, which no device has had yet, and numbers freed. -/
  freeHead : List Nat := []
  fresh : Nat := 0
  freeTail : List Nat := []
  ctx : Tbl Ctx := []
  /-- Ports refused for want of a handle or an address, in order (R96). -/
  refused : List Loc := []
  reports : List Report := []
  base : U64 := 0
  ring : U32 := 0x40000
  prod : U16 := 0
  waiting : List TopoPending := []
  /-- Devices enumerated whose report waits until an old number is reusable: reserved number and old number
  (R94). -/
  reuse : List (Nat × Nat) := []
deriving DecidableEq, Repr

/-! ### Functions -/

/-- A function's allotments, queues and registers (R254, R321, R475). -/
structure Func where
  /-- Enabled in SR-IOV, and created with resources. -/
  enabled : Bool := false
  created : Bool := false
  ready : Bool := true
  flrBusy : Bool := false
  isoVoid : Bool := false
  bme : Bool := false
  msixEn : Bool := false
  fmask : Bool := false
  /-- FUNC descriptor (R325). -/
  nSq : Nat := 0
  nCr : Nat := 0
  nVec : Nat := 0
  quota : Nat := 0
  pshare : Nat := 0
  weight : Nat := 0
  spillDepth : Nat := 0
  spillEntries : Nat := 0
  spillBase : U64 := 0
  /-- Function window (R475). -/
  qSel : U32 := 0
  qBase : U64 := 0
  /-- `Q.CFG` as an SQ and as a CR. -/
  qCfgSq : U64 := 0x10004
  qCfgCr : U64 := 0x4
  qState : U64 := 0
  busy : Bool := false
  /-- The operation that BUSY stands for: `Q.CMD.OP`. -/
  op : Nat := 0
  result : BitVec 3 := 0
  haltCause : BitVec 2 := 0
  halted : Bool := false
  dbBase : U64 := 0
  qEvtVec : U32 := 0
  vfEvtVec : U32 := 0
  vecSel : U32 := 0
  vecs : Tbl Vec := []
  sq : Tbl Sq := []
  cr : Tbl Cr := []
  /-- Spill records in use. -/
  spilled : List Nat := []
  /-- Commands of each mailbox family that await their reply (R209, R324). -/
  admitBusy : Bool := false
  bufBusy : Bool := false
  cmdBusy : Bool := false
  /-- VFR registers. -/
  resetRpt : U64 := 0
  dirtyBase : U64 := 0
  dirtyEn : Bool := false
  dirtyOvf : Bool := false
  dirtyPages : U32 := 0
  /-- Dirty-map bytes still to be written. -/
  dirty : List Nat := []
  /-- The running reset: its start in TICK, the figures of its report, what it still waits for. -/
  flrAt : Nat := 0
  flrWritten : Nat := 0
  flrCounted : Nat := 0
  flrSpill : Nat := 0
  /-- The reset is part of VF_DESTROY, of a cleared VF Enable or of a PF0 FLR: the VF is destroyed at its
  end, and this command is answered. -/
  destroy : Bool := false
  destroyCtx : Option CmdCtx := none
deriving DecidableEq, Repr

/-- A RETURN mark (R333): handle number, generation and function. -/
structure ReturnMark where
  num : Nat
  func : Nat
deriving DecidableEq, Repr

/-- The functions and what they share. -/
structure Funcs where
  fn : Tbl Func := []
  vfEnable : Bool := false
  numVfs : Nat := 0
  returns : List ReturnMark := []
  /-- `VFR.EVT.FUNC`. -/
  evtFunc : Nat := 0
deriving DecidableEq, Repr

/-! ### Card slots and mule dies -/

/-- Slot states, in the order of `SLOT[n].STS.STATE` (R357). -/
inductive SlotState where
  | empty | debounce | off | cooldown | noFeed | ramp | on | tripped
deriving DecidableEq, Repr

/-- Results of the telemetry ADC and what follows from them (R376, R485). -/
structure Telemetry where
  v : U64 := 0
  i : U64 := 0
  energy : U64 := 0
  peak : U64 := 0x0FFF0000
deriving DecidableEq, Repr

/-- The last gate-off in RAMP or ON: its TICK, whether it was in ON, and whether the gate-rise check and a power-good loss
ran then; a trip of the same cycle is judged by it (R378). -/
structure GateCut where
  at_ : Nat
  on : Bool
  rise : Bool
  loss : Bool
deriving DecidableEq, Repr

/-- A card slot's power path in its mule die (R352 to R377, R478). -/
structure CardSlot where
  st : SlotState := .empty
  /-- `SLOT[n].CTL`: EN, FEEDA_OFF, FEEDB_OFF. -/
  en : Bool := false
  feedAOff : Bool := false
  feedBOff : Bool := false
  cfg : U32 := 0x19050130
  ith : U32 := 0x00C80000
  tmr : U32 := 0x00320014
  soa : U32 := 0x001401F4
  vth : U64 := 0x0000008C008C0096
  /-- PRSNT_n is low. -/
  present : Bool := false
  /-- The feeds' own validity, without FEEDx_OFF (R354). -/
  feedA : Bool := false
  feedB : Bool := false
  /-- The ORing FETs conduct (R355). -/
  orA : Bool := false
  orB : Bool := false
  pg : Bool := false
  gate : Bool := false
  /-- PFW_n is asserted. -/
  pfw : Bool := true
  /-- A power-fail cause of R374 holds. -/
  cause : Bool := false
  tripCode : BitVec 4 := 0
  tripBy : Bool := false
  tripRec : U64 := 0
  ignored : Byte := 0
  /-- Running timers: minimum off time (R361), the 500 ms of the output-present check (R373), and the 1 ms of a
  power-good loss (R364). -/
  minOff : Bool := false
  discharge : Bool := false
  pgLoss : Bool := false
  cut : Option GateCut := none
  /-- The ramp has ended and the gate-rise check runs (R372). -/
  gateRise : Bool := false
  /-- An ORing backup disconnect holds (R373). -/
  disconnected : Bool := false
  /-- The fault timer in µs (R366) and the SOA integrator in 0.1 mJ (R368). -/
  faultTimer : Nat := 0
  soaEnergy : Nat := 0
  tel : Telemetry := {}
  /-- Events that the die holds while it has nobody to report them to (R414, R447). -/
  kept : U32 := 0
deriving DecidableEq, Repr

/-- An EVENT frame that awaits its acknowledgement: SEQ, slot j, payload, sends so far (R410). -/
structure PctlEvent where
  seq : U16
  j : Nat
  payload : List Byte
  sends : Nat
deriving DecidableEq, Repr

/-- A mule die (R19 to R21, R408 to R410, R447). -/
structure Die where
  /-- VMULE is up. -/
  powered : Bool := true
  /-- PCTL_B holds authority. -/
  authPctl : Bool := false
  coreLost : Bool := false
  parked : Bool := false
  /-- Last SEQ acted on and the frame that answered it (R409). -/
  answered : Option (U16 × Nat × Nat × List Byte) := none
  evSeq : U16 := 0
  events : List PctlEvent := []
deriving DecidableEq, Repr

/-- The slots, their dies, and the telemetry that the core die holds. -/
structure Slots where
  slot : Tbl CardSlot := []
  die : Tbl Die := []
  /-- Telemetry received over the mule links. -/
  tel : Tbl Telemetry := []
deriving DecidableEq, Repr

/-! ### Error windows and the redundant pair -/

/-- An error class (R381, R382). -/
structure ErrClass where
  cfg : U32 := 0
  total : U32 := 0
  lasting : U16 := 0
  /-- Counts in the current window, by member; a member declared lasting has stopped counting. -/
  counts : Tbl Nat := []
  /-- The window k in which they were counted (R382). -/
  window : Nat := 0
  stopped : List Nat := []
deriving DecidableEq, Repr

/-- The Error windows block and the state of a core-die fatal error. -/
structure Errs where
  cls : Tbl ErrClass := []
  last : U64 := 0
  fatal : U64 := 0
  portFailed : U64 := 0
  muleFailed : BitVec 4 := 0
  /-- The core die holds after a fatal error (R386). -/
  held : Bool := false
  /-- Parity errors whose rewrite is pending (R380): class and member. -/
  restoring : List (Nat × Nat) := []
deriving DecidableEq, Repr

/-- Pair states, in the order of `PAIR.STS.STATE` (R394). -/
inductive PairSt where
  | single | conflict | discover | sync | standby | stale | activeAlone | active | yielded | failed
deriving DecidableEq, Repr

/-- A record in the retry buffer: SEQ, TYPE, body (R391). -/
structure Kept where
  seq : U32
  typ : Nat
  body : List Byte
deriving DecidableEq, Repr

/-- A takeover that is set: TICK from which the first frame boundary serves, and its cause. -/
structure Takeover where
  notBefore : Nat
  cause : Nat
deriving DecidableEq, Repr

/-- The Pair block and the Xebirok link (R387 to R412). -/
structure Pair where
  cfg : U32 := 0x10
  wire : U64 := 0
  st : PairSt := .single
  /-- The partner's last reported state; none while no partner has reported one. -/
  partner : Option Nat := none
  /-- PAIR.CFG.HOME of the partner, as its IDENT gave it. -/
  partnerHome : Option Nat := none
  linkUp : Bool := false
  lanes : Nat := 0
  /-- Lanes dropped since the link came up (R390). -/
  down : List Nat := []
  hbOk : Bool := false
  senseOk : Bool := false
  version : Bool := false
  takeovers : Byte := 0
  /-- Count of takeovers, SEQ of the TAKEOVER notice (R412). -/
  notices : U16 := 0
  last : U64 := 0
  /-- Xebirok: SEQ of the last record kept, last accepted, whether a NAK is outstanding. -/
  txSeq : U32 := 0
  rxSeq : U32 := 0
  nakSent : Bool := false
  retry : List Kept := []
  /-- No record has carried ACK since the last one received. -/
  ackDue : Bool := false
  /-- Gander timer: the heartbeat of this microframe arrived, misses in a row, silent windows in a row. -/
  hbGot : Bool := false
  misses : Nat := 0
  silent : Nat := 0
  hbOut : Bool := false
  actOut : Bool := false
  claimed : Bool := false
  /-- SEQ of the last SHADOW record sent, and SHADOW bodies kept as they came, by row. -/
  shadowSeq : U32 := 0
  shadow : List (Nat × List Byte) := []
  /-- Shadowed completions without confirmation of their write: function, CR, index of the slot, bytes (R400, R405). -/
  unconfirmed : List (Nat × Nat × U16 × List Byte) := []
  takeover : Option Takeover := none
  /-- The boundary at which an active part yields, as EPOCH[31:0]: of an accepted PAIR_SWITCH, or of its HANDOVER
  (R404, R411). -/
  switchAt : Option U32 := none
  /-- A handover was sent: this part yields at the next boundary (R404). -/
  yielding : Bool := false
  /-- The active's frame as TIME records give it (R399). -/
  frameLen : Nat := 400000
deriving DecidableEq, Repr

/-- A command frame on a partner-control port that awaits its answer (R409). -/
structure PctlCmd where
  seq : U16
  typ : Nat
  j : Nat
  payload : List Byte
  sends : Nat
deriving DecidableEq, Repr

/-- Partner-control port g: what this part knows of the partner's die g (R408 to R410). -/
structure PctlPort where
  seq : U16 := 0
  /-- Commands that wait for their answer, oldest first. -/
  cmds : List PctlCmd := []
  holder : Bool := false
  coreLost : Bool := false
  /-- Last WRITE result, and the last register read: offset and value. -/
  written : Option Byte := none
  readBack : Option (U16 × U64) := none
  /-- SEQ of EVENT frames acted on. -/
  seen : List U16 := []
deriving DecidableEq, Repr

/-! ### Straps, power and boot -/

/-- The straps sampled at the end of power-on reset (R4). -/
structure Straps where
  pairEn : Bool := false
  pairId : Bool := false
  secHost : Bool := false
deriving DecidableEq, Repr

/-- Power states (R442). Idle is not one of them: `PWR.STS` computes it (R443). -/
inductive PowerState where
  | run | sleep | deepSleep | watch | off
deriving DecidableEq, Repr

/-- What a Watch sample compares of a slot (R448): PRESENT, FEED_A_OK, FEED_B_OK, STATE, TRIP_CODE. -/
abbrev SlotSample := Bool × Bool × Bool × SlotState × BitVec 4

/-- The steps of a wake from Deep sleep or Watch that have been reached (R452). -/
inductive WakeStep where
  | none_ | regulator | clock | memory | logic
deriving DecidableEq, Repr

/-- The Power block, the resets and the boot (R442 to R459). -/
structure Power where
  st : PowerState := .run
  /-- `PWR.CTL`. -/
  ctl : U32 := 0x000A0000
  refuse : BitVec 3 := 0
  wakeCause : U64 := 0
  watchMask : U64 := 0
  /-- PF0 is in D3hot. -/
  d3hot : Bool := false
  /-- The state that has passed its entry checks and is being entered, until LOW_POWER_ENTER. -/
  entering : Option PowerState := none
  /-- Ports suspended by the entry, and status-change endpoints released by it. -/
  slept : List Nat := []
  snapshot : Tbl SlotSample := []
  wake : WakeStep := .none_
  /-- The wake cause and its index, from its arrival to the return to Run (R451, R461). -/
  waking : Option (Nat × Nat) := none
  /-- Places whose remote wake counts as detected at the return to Run (R450). -/
  wakes : List Loc := []
  /-- An inbound mailbox notice has woken the bellwether domain alone (R438). -/
  domainAwake : Bool := false
  /-- WAKE_OUT is driven low (R453). -/
  wakeOut : Bool := false
  /-- The core die is in power-on reset (R499). -/
  por : Bool := false
  perst : Bool := false
  /-- DMA moved something in this frame, and in the frame before; no whole frame has passed at reset (R443). -/
  moved : Bool := false
  movedBefore : Bool := true
  /-- `GLB.BOOT_STS`. -/
  ready : Bool := false
  error : Bool := false
  slotB : Bool := false
  resetKind : Byte := 0
  /-- The kind of the last reset, which the boot reports. -/
  kind : Byte := 1
  version : U32 := 0
deriving DecidableEq, Repr

/-- The quad-SPI flash (R457), as the complement of its bytes: an erased byte, 0xFF, is not listed. -/
structure Flash where
  cells : Memory := []
  /-- FW_VERIFY has passed since the inactive slot last changed. -/
  verified : Bool := false
  /-- FW_ACTIVATE has marked this slot for the next boot: false A, true B. -/
  next : Option Bool := none
deriving DecidableEq, Repr

/-! ### Shadowing (R393, R400) -/

/-- What a SHADOW record says, by the rows of R400. The bytes of its body are in the internal layout of the firmware, which
the spec does not give (R393; log 75). -/
inductive ShadowBody where
  /-- Row 0: core 0 writes an entry of the bank that is not live, or takes one out of it. -/
  | entry (res : Nat) (g : Option Rung)
  /-- Row 0: that bank is complete and its swap pends; the swap, with its epoch. -/
  | complete
  | swap (epoch : U32)
  /-- Row 1: a periodic state entry, after a service. -/
  | service (res : Nat) (x : PState)
  /-- Row 2: an endpoint context, or that it is closed. -/
  | context (key : Nat) (c : Option Ctx)
  /-- Row 3: an SQ's indices, a CR's indices, spill order and SPILL_HALT, and the halt state of a function. -/
  | sq (f q : Nat) (x : Sq)
  | cr (f r : Nat) (x : Cr)
  | halt (f : Nat) (halted : Bool) (cause : BitVec 2)
  /-- Row 4: a completion entry, with its CR and the index of its slot. -/
  | completion (f r : Nat) (index : U16) (bytes : List Byte)
  /-- Row 5: a root port, a device, a handle number with its owners and teardown record, and the free list. -/
  | rootPort (p : Nat) (x : Port)
  | device (num : Nat) (d : Option Device)
  | handle (num : Nat) (h : Handle)
  | freeHandles (head : List Nat) (fresh : Nat) (tail : List Nat)
  /-- Row 6: a function, a buffer page, a compare unit, the timebase's and an axis's configuration. -/
  | function (f : Nat) (x : Func)
  | page (n : Nat) (x : Page)
  | unit (u : Nat) (c : CmpUnit)
  | timebase (ctl : U32) (freeLen : Nat) (lockPhase : U32)
  | axis (a : Nat) (cfg cpc : U32)
  /-- Row 7: the accepted commands that have no reply yet. -/
  | topoCommands (l : List TopoPending)
  | admitCommands (l : List SwapReply)
  | box (key : Nat) (b : MBox)
  /-- Any other, kept as it came. -/
  | other (row : Fin 48) (body : List Byte)
deriving DecidableEq, Repr

end Sys2Proof.Machine
end

