-- ==== Sys2Proof/Syntax.lean ====
section
/-! DEFINITION. The commands of the SK-64X: one constructor per row of spec/opcode_table.json, with the
operands that the row's rule names. A command is one event at the part's boundary or inside it: a
packet received, a timer that ends, a register written, a command block read, an ox-engine instruction
that an engine executes. The table prints no bits for any row, so the operands are the manual's own
fields. -/

namespace Sys2Proof

/-- The commands. -/
inductive Instr where
  /-- MULE_KEEPALIVE (R13). -/
  | muleKeepalive (g : DieId)
  /-- CORE_LOST_DECLARE (R20). -/
  | coreLostDeclare (g : DieId)
  /-- HAND_OVER_COMMAND (R21). -/
  | handOverCommand (g : DieId)
  /-- MULE_POWER_COMMAND (R21). -/
  | mulePowerCommand (g : DieId) (src : PowerSource) (j : Fin 16) (offset : U16) (value : U64)
  /-- MULE_REMOVAL_EVENT (R23). -/
  | muleRemovalEvent (n : SlotId)
  /-- MULE_TRIP_EVENT (R24). -/
  | muleTripEvent (n : SlotId)
  /-- MULE_PFW_EVENT (R25). -/
  | mulePfwEvent (n : SlotId)
  /-- MULE_POWER_GOOD_EVENT (R22). -/
  | mulePowerGoodEvent (n : SlotId)
  /-- TELEMETRY_REPORT (R376). -/
  | telemetryReport (n : SlotId)
  /-- MICROFRAME_BOUNDARY (R26). -/
  | microframeBoundary (u : Fin 8)
  /-- FRAME_BOUNDARY (R137). -/
  | frameBoundary
  /-- DOORBELL_BLOCK_READ_DONE (R41). -/
  | doorbellBlockReadDone (f : FuncId) (block : Fin 512) (ok : Bool) (records : List U32)
  /-- SQ_ENTRY_FETCHED (R273). -/
  | sqEntryFetched (f : FuncId) (q : Fin 4096) (ok : Bool) (raw : BitVec 256)
  /-- Q_KICK_SQ (R269). -/
  | qKickSq (f : FuncId) (q : Fin 4096) (index : U16)
  /-- Q_KICK_SQ_INVAL (R272). -/
  | qKickSqInval (f : FuncId) (q : Fin 4096) (index : U16)
  /-- Q_KICK_CR (R269). -/
  | qKickCr (f : FuncId) (r : Fin 4096) (index : U16)
  /-- Q_CREATE (R258). -/
  | qCreate (f : FuncId)
  /-- Q_DESTROY (R259). -/
  | qDestroy (f : FuncId)
  /-- Q_READ (R257). -/
  | qRead (f : FuncId)
  /-- COMPLETION_RELEASE (R300). -/
  | completionRelease (item : Nat)
  /-- QUEUE_STOP (R292). -/
  | queueStop (ctx : CmdCtx) (q : U16)
  /-- QUEUE_START (R292). -/
  | queueStart (ctx : CmdCtx) (q : U16)
  /-- RESPONSE_TIMEOUT (R58); `driven`: an answer, too late, is on the legacy pair (R88). -/
  | responseTimeout (p : PortId) (driven : Bool)
  /-- BURST_GAP_EXPIRY (R62). -/
  | burstGapExpiry (p : PortId)
  /-- DATA_PACKET (R63). -/
  | dataPacket (p : PortId) (h : Hdr) (payload : List Byte) (crc : U32) (overrun : Bool)
  /-- ACK (R66). -/
  | ack (p : PortId) (h : Hdr)
  /-- NAK (R65). -/
  | nak (p : PortId) (h : Hdr)
  /-- STALL (R78). -/
  | stall (p : PortId) (h : Hdr)
  /-- NYET (R107). -/
  | nyet (p : PortId) (h : Hdr)
  /-- ERR (R76). -/
  | err (p : PortId) (h : Hdr)
  /-- CONTROL_TIME_LIMIT (R70). -/
  | controlTimeLimit (item : Nat)
  /-- SOF_HOLD_LIMIT (R82). -/
  | sofHoldLimit (p : PortId)
  /-- SOF_DEFERRED_SEND (R82). -/
  | sofDeferredSend (p : PortId)
  /-- TRAIN_CAP (R85). -/
  | trainCap (p : PortId) (param : BitVec 11)
  /-- TRAIN_DONE (R84). -/
  | trainDone (p : PortId)
  /-- LP_ENTER (R87). -/
  | lpEnter (p : PortId)
  /-- LP_ACCEPT (R87). -/
  | lpAccept (p : PortId)
  /-- LP_REJECT (R87). -/
  | lpReject (p : PortId)
  /-- WAKE (R83). -/
  | wake (p : PortId)
  /-- WAKE_ACK (R83). -/
  | wakeAck (p : PortId)
  /-- LINK_CMD_TIMEOUT (R83). -/
  | linkCmdTimeout (p : PortId)
  /-- DETECT_PULSE (R84). -/
  | detectPulse (p : PortId)
  /-- FAR_END_TERMINATION (R84). -/
  | farEndTermination (p : PortId)
  /-- TRAINING_SET_LOCK (R84). -/
  | trainingSetLock (p : PortId)
  /-- RECOVERY_TIMEOUT (R84). -/
  | recoveryTimeout (p : PortId)
  /-- LINK_ERROR_LIMIT (R86). -/
  | linkErrorLimit (p : PortId)
  /-- WAKE_TONE (R84). -/
  | wakeTone (p : PortId)
  /-- SUSPEND_SILENCE_EXPIRY (R129). -/
  | suspendSilenceExpiry (p : PortId)
  /-- CONNECT_CHANGE (R111). -/
  | connectChange (at_ : Loc) (present : Bool)
  /-- ATTACH_DEBOUNCE_END (R111). -/
  | attachDebounceEnd (at_ : Loc)
  /-- DETECT_WINDOW_END (R113). -/
  | detectWindowEnd (p : PortId)
  /-- RESET_SIGNALLING_END (R115). -/
  | resetSignallingEnd (at_ : Loc)
  /-- ANNOUNCE_WINDOW_END (R114). -/
  | announceWindowEnd (p : PortId) (announced : Option Gen)
  /-- GEN_CONFIRM_END (R114). -/
  | genConfirmEnd (p : PortId)
  /-- RESET_RECOVERY_END (R115). -/
  | resetRecoveryEnd (at_ : Loc)
  /-- ENUM_ADDRESS_WAIT_END (R116). -/
  | enumAddressWaitEnd (p : PortId)
  /-- HUB_POWER_ON_WAIT_END (R116). -/
  | hubPowerOnWaitEnd (p : PortId)
  /-- ENUM_TRANSFER_DONE (R116). -/
  | enumTransferDone (p : PortId) (res : XferResult) (data : List Byte)
  /-- HANDLE_REUSE_TIMEOUT (R94). -/
  | handleReuseTimeout (h : Fin 4096)
  /-- HUB_STATUS_CHANGE (R99). -/
  | hubStatusChange (hub : Fin 4096) (map : U16) (hubStatus : U32) (words : List (Fin 16 × U32))
  /-- HUB_POLLED (R100). -/
  | hubPolled (hub : Fin 4096)
  /-- HUB_ADMIT_RETRY (R100). -/
  | hubAdmitRetry (hub : Fin 4096)
  /-- REPORT_RECORD_WRITE (R118). -/
  | reportRecordWrite
  /-- TOPO_RING_WRITE (R119). -/
  | topoRingWrite (value : U32)
  /-- TOPO_BASE_WRITE (R119). -/
  | topoBaseWrite (value : U64)
  /-- PORT_RESET (R126). -/
  | portReset (p : PortId)
  /-- PORT_DISABLE (R121). -/
  | portDisable (p : PortId)
  /-- PORT_ENABLE (R122). -/
  | portEnable (p : PortId)
  /-- PORT_SUSPEND (R129). -/
  | portSuspend (p : PortId)
  /-- PORT_RESUME (R131). -/
  | portResume (p : PortId)
  /-- TOPO_PORT_RESET (R124). -/
  | topoPortReset (ctx : CmdCtx) (body : TopoBody)
  /-- TOPO_DEVICE_RESET (R127). -/
  | topoDeviceReset (ctx : CmdCtx) (body : TopoBody)
  /-- TOPO_PORT_SUSPEND (R130). -/
  | topoPortSuspend (ctx : CmdCtx) (body : TopoBody)
  /-- TOPO_PORT_RESUME (R131). -/
  | topoPortResume (ctx : CmdCtx) (body : TopoBody)
  /-- TOPO_PORT_DISABLE (R124). -/
  | topoPortDisable (ctx : CmdCtx) (body : TopoBody)
  /-- TOPO_BIND_SLOT (R112). -/
  | topoBindSlot (ctx : CmdCtx) (body : TopoBody)
  /-- LEGACY_BIAS_LOSS (R134). -/
  | legacyBiasLoss (p : PortId)
  /-- LINK_DISCONNECT_TIMEOUT (R134). -/
  | linkDisconnectTimeout (p : PortId)
  /-- REMOTE_WAKE_DETECT (R132). -/
  | remoteWakeDetect (at_ : Loc)
  /-- HOST_RESUME_END (R131). -/
  | hostResumeEnd (at_ : Loc)
  /-- TB_FREE_LEN_WRITE (R143). -/
  | tbFreeLenWrite (value : U32)
  /-- AXIS_LOCK_PHASE_PASS (R144). -/
  | axisLockPhasePass
  /-- AXIS_COUNT_EDGE (R149). -/
  | axisCountEdge (i : Fin 4) (a : Bool) (b : Bool)
  /-- AXIS_INDEX_EDGE (R150). -/
  | axisIndexEdge (i : Fin 4)
  /-- AXIS_STALL (R152). -/
  | axisStall (i : Fin 4)
  /-- AX_CPC_WRITE (R149). -/
  | axCpcWrite (i : Fin 4) (value : U32)
  /-- COMPARE_FIRE (R154). -/
  | compareFire (c : Fin 256)
  /-- COMPARE_ARM_NEXT (R158). -/
  | compareArmNext (c : Fin 256)
  /-- TB_CMP_CFG_WRITE (R161). -/
  | tbCmpCfgWrite (value : U32)
  /-- TB_CMP_TARGET_WRITE (R161). -/
  | tbCmpTargetWrite (value : U64)
  /-- PTM_START (R166). -/
  | ptmStart
  /-- PTM_RESPONSE (R167). -/
  | ptmResponse (master : U64)
  /-- PTM_TIMEOUT (R166). -/
  | ptmTimeout
  /-- EPOCH_LOW_READ (R141). -/
  | epochLowRead (r : LatchReg)
  /-- EPOCH_LATCH_EXPIRY (R141). -/
  | epochLatchExpiry (r : LatchReg)
  /-- FLOAT_START (R204). -/
  | floatStart (p : PortId)
  /-- ADMIT (R209). -/
  | admitCmd (ctx : CmdCtx) (body : AdmitBody)
  /-- RELEASE (R209). -/
  | release (ctx : CmdCtx) (body : AdmitBody)
  /-- QUERY (R212). -/
  | query (ctx : CmdCtx)
  /-- COMPILE_DONE (R196). -/
  | compileDone
  /-- NOP (R239). -/
  | nop (e : EngId)
  /-- MOV (R239). -/
  | mov (e : EngId) (rd : Fin 16) (rs : Fin 16)
  /-- MOVI (R239). -/
  | movi (e : EngId) (rd : Fin 16) (imm : Byte)
  /-- ADD (R239). -/
  | add (e : EngId) (rd : Fin 16) (rs : Fin 16)
  /-- ADDI (R239). -/
  | addi (e : EngId) (rd : Fin 16) (imm : Byte)
  /-- ADC (R239). -/
  | adc (e : EngId) (rd : Fin 16) (rs : Fin 16)
  /-- SUB (R239). -/
  | sub (e : EngId) (rd : Fin 16) (rs : Fin 16)
  /-- SUBI (R239). -/
  | subi (e : EngId) (rd : Fin 16) (imm : Byte)
  /-- ANDI (R239). -/
  | andi (e : EngId) (rd : Fin 16) (imm : Byte)
  /-- AND (R239). -/
  | and (e : EngId) (rd : Fin 16) (rs : Fin 16)
  /-- OR (R239). -/
  | or (e : EngId) (rd : Fin 16) (rs : Fin 16)
  /-- ORI (R239). -/
  | ori (e : EngId) (rd : Fin 16) (imm : Byte)
  /-- XOR (R239). -/
  | xor (e : EngId) (rd : Fin 16) (rs : Fin 16)
  /-- XORI (R239). -/
  | xori (e : EngId) (rd : Fin 16) (imm : Byte)
  /-- SHL (R239). -/
  | shl (e : EngId) (rd : Fin 16) (n : Fin 8)
  /-- SHR (R239). -/
  | shr (e : EngId) (rd : Fin 16) (n : Fin 8)
  /-- CMP (R237). -/
  | cmp (e : EngId) (rd : Fin 16) (rs : Fin 16)
  /-- CMPI (R237). -/
  | cmpi (e : EngId) (rd : Fin 16) (imm : Byte)
  /-- LDB (R239). -/
  | ldb (e : EngId) (r : Fin 16) (p : Fin 4) (offset : BitVec 12)
  /-- STB (R239). -/
  | stb (e : EngId) (r : Fin 16) (p : Fin 4) (offset : BitVec 12)
  /-- LDP (R239). -/
  | ldp (e : EngId) (p : Fin 4) (imm : BitVec 24)
  /-- ADDP (R239). -/
  | addp (e : EngId) (p : Fin 4) (rs : Fin 16)
  /-- ADDPI (R239). -/
  | addpi (e : EngId) (p : Fin 4) (imm : U16)
  /-- BR (R237). -/
  | br (e : EngId) (cond : BitVec 4) (offset : BitVec 14)
  /-- JMP (R239). -/
  | jmp (e : EngId) (target : BitVec 14)
  /-- CALL (R239). -/
  | call (e : EngId) (target : BitVec 14)
  /-- RET (R239). -/
  | ret (e : EngId)
  /-- LOOP (R239). -/
  | loop (e : EngId) (inReg : Bool) (rs : Fin 16) (imm : Byte) (len : Byte)
  /-- CLD (R233). -/
  | cld (e : EngId)
  /-- CST (R239). -/
  | cst (e : EngId)
  /-- PLD (R239). -/
  | pld (e : EngId)
  /-- PST (R239). -/
  | pst (e : EngId)
  /-- HOLD (R220). -/
  | hold (e : EngId) (p : PortId)
  /-- HOLD_GRANT (R220). -/
  | holdGrant (e : EngId) (p : PortId)
  /-- REL (R221). -/
  | rel (e : EngId) (p : PortId)
  /-- TOK (R240). -/
  | tok (e : EngId) (typ : BitVec 4) (rs : Fin 16) (retry : Bool)
  /-- SPL (R239). -/
  | spl (e : EngId) (typ : BitVec 4) (rs : Fin 16) (retry : Bool)
  /-- SDAT (R239). -/
  | sdat (e : EngId) (rd : Fin 16) (rs : Fin 16)
  /-- RDAT (R238). -/
  | rdat (e : EngId) (mask : Byte) (offset : BitVec 14)
  /-- SHS (R239). -/
  | shs (e : EngId)
  /-- WHS (R238). -/
  | whs (e : EngId) (mask : Byte) (offset : BitVec 14)
  /-- ARM (R295). -/
  | arm (e : EngId) (v : BitVec 10)
  /-- DLY (R239). -/
  | dly (e : EngId) (count : BitVec 20)
  /-- DLY_EXPIRY (R219). -/
  | dlyExpiry (e : EngId) (p : PortId)
  /-- DRN (R310). -/
  | drn (e : EngId)
  /-- GETW (R229). -/
  | getw (e : EngId)
  /-- GETW_GRANT (R227). -/
  | getwGrant (e : EngId)
  /-- AFFINITY_OFFER_EXPIRY (R228). -/
  | affinityOfferExpiry (item : Nat)
  /-- PUTW (R226). -/
  | putw (e : EngId)
  /-- FIN (R225). -/
  | fin (e : EngId) (v : BitVec 10)
  /-- EVT (R417). -/
  | evt (e : EngId) (v : BitVec 10)
  /-- SRET (R242). -/
  | sret (e : EngId) (v : BitVec 10)
  /-- SCALL (R245). -/
  | scall (e : EngId) (v : BitVec 10)
  /-- SCRIPT_BUDGET_EXPIRY (R245). -/
  | scriptBudgetExpiry (e : EngId)
  /-- PARKED_THREAD_RESUME (R219). -/
  | parkedThreadResume (e : EngId) (p : PortId)
  /-- ENGINE_INTERRUPT (R424). -/
  | engineInterrupt (e : EngId)
  /-- ITEM_POST (R223). -/
  | itemPost (post : PostBody)
  /-- SCRIPT_LOAD (R248). -/
  | scriptLoad (ctx : CmdCtx) (number : Byte) (image : List Byte)
  /-- SCRIPT_UNLOAD (R250). -/
  | scriptUnload (ctx : CmdCtx) (number : Byte)
  /-- SCRIPT_BIND (R251). -/
  | scriptBind (ctx : CmdCtx) (body : BindBody)
  /-- SCRIPT_UNBIND (R251). -/
  | scriptUnbind (ctx : CmdCtx) (body : BindBody)
  /-- DSP_CTX_CTL_WRITE (R234). -/
  | dspCtxCtlWrite (value : U32)
  /-- DMA_REQUEST (R301): one burst; `cut` is the beat in which a request of a lower class comes, 0 for none (R302). -/
  | dmaRequest (cut : Nat)
  /-- DMA_READ_COMPLETION (R299). -/
  | dmaReadCompletion (ch : Fin 144) (timed : Bool) (ok : Bool) (data : List Byte)
  /-- DRAIN_COMPLETE (R300). -/
  | drainComplete (ch : Fin 144) (timed : Bool)
  /-- INDEX_TABLE_READ_DONE (R305). -/
  | indexTableReadDone (item : Nat) (first : Nat) (ok : Bool) (bytes : List Byte)
  /-- BUF_CARVE (R311). -/
  | bufCarve (ctx : CmdCtx) (handle : U16) (epaddr : Byte)
  /-- BUF_RELEASE (R311). -/
  | bufRelease (ctx : CmdCtx) (handle : U16) (epaddr : Byte)
  /-- BUF_RELEASE_COMPLETE (R311). -/
  | bufReleaseComplete (f : FuncId) (handle : U16) (epaddr : Byte)
  /-- PAGE_SCRUB_DONE (R313). -/
  | pageScrubDone (page : Fin 3950)
  /-- ECC_SCRUB_VISIT (R314). -/
  | eccScrubVisit (page : Fin 4014) (word : Fin 512) (bad : EccResult)
  /-- VF_ENABLE_SET (R319). -/
  | vfEnableSet (numVFs : Fin 128)
  /-- VF_ENABLE_CLEAR (R319). -/
  | vfEnableClear
  /-- BUS_MASTER_ENABLE_CHANGE (R514). -/
  | busMasterEnableChange (f : FuncId) (on : Bool)
  /-- VF_CREATE (R327). -/
  | vfCreate (ctx : CmdCtx) (d : FuncDesc)
  /-- VF_DESTROY (R328). -/
  | vfDestroy (ctx : CmdCtx) (v : Byte)
  /-- FUNC_MODIFY (R329). -/
  | funcModify (ctx : CmdCtx) (d : FuncDesc)
  /-- FUNC_QUERY (R324). -/
  | funcQuery (ctx : CmdCtx) (v : Byte)
  /-- DEV_ASSIGN (R331). -/
  | devAssign (ctx : CmdCtx) (body : AssignBody)
  /-- DEV_QUERY (R335). -/
  | devQuery (ctx : CmdCtx) (func : Byte) (first : U16)
  /-- DIRTY_MAP_WRITE (R345). -/
  | dirtyMapWrite (v : FuncId) (page : Nat)
  /-- VF_FLR (R346). -/
  | vfFlr (v : FuncId)
  /-- VF_RESET_DONE (R346). -/
  | vfResetDone (v : FuncId)
  /-- PF0_FLR (R350). -/
  | pf0Flr
  /-- PRSNT_N_EDGE (R357). -/
  | prsntNEdge (n : SlotId) (high : Bool)
  /-- REMOVAL (R23). -/
  | removal (n : SlotId)
  /-- DEBOUNCE_END (R362). -/
  | debounceEnd (n : SlotId)
  /-- MIN_OFF_EXPIRY (R361). -/
  | minOffExpiry (n : SlotId)
  /-- FEED_INVALID (R354). -/
  | feedInvalid (n : SlotId) (x : Feed)
  /-- FEED_VALID (R354). -/
  | feedValid (n : SlotId) (x : Feed)
  /-- ORING_REVERSE (R355). -/
  | oringReverse (n : SlotId) (x : Feed)
  /-- ORING_FORWARD (R355). -/
  | oringForward (n : SlotId) (x : Feed)
  /-- SLOT_EN_SET (R359). -/
  | slotEnSet (n : SlotId)
  /-- SLOT_EN_CLEAR (R359). -/
  | slotEnClear (n : SlotId)
  /-- CYCLE (R359). -/
  | cycle (n : SlotId)
  /-- RAMP_END (R363). -/
  | rampEnd (n : SlotId)
  /-- POWER_GOOD (R363). -/
  | powerGood (n : SlotId)
  /-- RAMP_TIMEOUT (R369). -/
  | rampTimeout (n : SlotId) (vout : BitVec 12) (vbus : BitVec 12)
  /-- FET_GATE (R372). -/
  | fetGate (n : SlotId) (vout : BitVec 12) (vbus : BitVec 12)
  /-- PG_LOST (R364). -/
  | pgLost (n : SlotId)
  /-- PG_LOST_TIMEOUT (R364). -/
  | pgLostTimeout (n : SlotId) (vout : BitVec 12) (vbus : BitVec 12)
  /-- FAULT_TIMER_EXPIRY (R366). -/
  | faultTimerExpiry (n : SlotId) (vout : BitVec 12) (vbus : BitVec 12)
  /-- SEVERE_OC (R367). -/
  | severeOc (n : SlotId) (vout : BitVec 12) (vbus : BitVec 12)
  /-- SOA_LIMIT (R368). -/
  | soaLimit (n : SlotId) (vout : BitVec 12) (vbus : BitVec 12)
  /-- OUTPUT_PRESENT_CHECK (R373). -/
  | outputPresentCheck (n : SlotId) (vout : BitVec 12) (vbus : BitVec 12)
  /-- PFW_ASSERT (R374). -/
  | pfwAssert (n : SlotId) (cause : PfwCause)
  /-- PFW_CLEAR (R374). -/
  | pfwClear (n : SlotId)
  /-- TELEMETRY_CONVERSION (R376). -/
  | telemetryConversion (n : SlotId) (va : BitVec 12) (vb : BitVec 12) (vbus : BitVec 12) (vout : BitVec 12) (isense : BitVec 12)
  /-- TEL_PEAK_RESTART (R485). -/
  | telPeakRestart (n : SlotId)
  /-- ERROR_DETECTED (R382). -/
  | errorDetected (err : ErrReport)
  /-- ENGINE_REJOIN (R383). -/
  | engineRejoin (e : EngId)
  /-- ERROR_WINDOW_START (R382). -/
  | errorWindowStart (c : Fin 7)
  /-- ERR_CFG_WRITE (R382). -/
  | errCfgWrite (c : Fin 7) (value : U32)
  /-- ERR_PORT_FAILED_CLEAR (R384). -/
  | errPortFailedClear (mask : U64)
  /-- CONFIG_RESTORED (R380). -/
  | configRestored (c : Fin 7) (inst : BitVec 12)
  /-- CORE_WATCHDOG_EXPIRY (R386). -/
  | coreWatchdogExpiry (core : Fin 2)
  /-- XEBIROK_LINK_UP (R390). -/
  | xebirokLinkUp (lanes : Fin 5)
  /-- LANE_DOWN (R390). -/
  | laneDown (lane : Fin 4)
  /-- IDENT (R392). -/
  | ident (h : XbkHdr) (pairId : Byte) (st : Byte) (step : Byte) (version : U32) (home : Byte) (numVFs : Byte)
  /-- XBK_CLAIM (R395). -/
  | xbkClaim (h : XbkHdr) (pairId : Byte) (role : Byte)
  /-- CLAIM_ANSWER (R395). -/
  | claimAnswer (h : XbkHdr) (pairId : Byte) (result : Byte)
  /-- HEARTBEAT (R398). -/
  | heartbeat (h : XbkHdr) (st : Byte) (u : Byte) (epoch : BitVec 48) (shadowSeq : U32)
  /-- TIME (R399). -/
  | time (h : XbkHdr) (epoch : BitVec 48) (len : BitVec 24) (lock : Byte) (m1 : U16) (tick : U32)
  /-- FATAL (R404). -/
  | fatal (h : XbkHdr) (cause : Byte) (epoch : U32)
  /-- HANDOVER (R404). -/
  | handover (h : XbkHdr) (cause : Byte) (epoch : U32)
  /-- YIELD (R392). -/
  | yield (h : XbkHdr) (pairId : Byte)
  /-- XBK_NAK (R391). -/
  | xbkNak (h : XbkHdr) (seq : U32)
  /-- ACK_ONLY (R392). -/
  | ackOnly (h : XbkHdr)
  /-- ACK_ONLY_TIMER (R392). -/
  | ackOnlyTimer
  /-- SHADOW (R393). -/
  | shadow (h : XbkHdr) (body : Machine.ShadowBody)
  /-- GANDER_WINDOW_END (R398). -/
  | ganderWindowEnd (toggled : Bool)
  /-- TAKEOVER (R405). -/
  | takeover
  /-- DISCOVER_TIMEOUT (R394). -/
  | discoverTimeout
  /-- SYNC_DONE (R394). -/
  | syncDone
  /-- STALE_RESYNC_TIMER (R394). -/
  | staleResyncTimer
  /-- PAIR_ACT_CONFLICT (R401). -/
  | pairActConflict
  /-- YIELD_RESET_DONE (R394). -/
  | yieldResetDone
  /-- PCTLB_KEEPALIVE_TICK (R408). -/
  | pctlbKeepaliveTick (g : DieId)
  /-- PCTLB_KEEPALIVE_LOSS (R408). -/
  | pctlbKeepaliveLoss (g : DieId)
  /-- PCTLB_RESEND_TIMEOUT (R409). -/
  | pctlbResendTimeout (g : DieId) (side : PctlSide)
  /-- KEEPALIVE (R410). -/
  | keepalive (g : DieId) (seq : U16)
  /-- PCTLB_CLAIM (R408). -/
  | pctlbClaim (g : DieId) (seq : U16) (pairId : Byte)
  /-- PCTLB_RELEASE (R410). -/
  | pctlbRelease (g : DieId) (seq : U16)
  /-- PCTLB_WRITE (R410). -/
  | pctlbWrite (g : DieId) (j : Fin 16) (seq : U16) (offset : U16) (value : U64)
  /-- PCTLB_READ (R410). -/
  | pctlbRead (g : DieId) (j : Fin 16) (seq : U16) (offset : U16)
  /-- EVENT_ACK (R410). -/
  | eventAck (g : DieId) (evSeq : U16)
  /-- KEEPALIVE_ACK (R410). -/
  | keepaliveAck (g : DieId) (seq : U16) (auth : Bool) (coreLost : Bool)
  /-- CLAIM_ACK (R410). -/
  | claimAck (g : DieId) (seq : U16) (result : Byte) (auth : Byte)
  /-- WRITE_ACK (R410). -/
  | writeAck (g : DieId) (seq : U16) (result : Byte)
  /-- READ_DATA (R410). -/
  | readData (g : DieId) (seq : U16) (offset : U16) (value : U64)
  /-- PCTLB_EVENT (R410). -/
  | pctlbEvent (g : DieId) (j : Fin 16) (seq : U16) (bits : U16) (sts : U32)
  /-- PAIR_QUERY (R411). -/
  | pairQuery (ctx : CmdCtx)
  /-- PAIR_SWITCH (R411). -/
  | pairSwitch (ctx : CmdCtx) (epoch : U32)
  /-- PAIR_RESYNC (R411). -/
  | pairResync (ctx : CmdCtx)
  /-- EIC_CLAIM (R420). -/
  | eicClaim (t : Fin 18)
  /-- EIC_COMPLETE (R421). -/
  | eicComplete (t : Fin 18) (src : Fin 1024)
  /-- EN_SET (R417). -/
  | enSet (w : Fin 32) (v : U32)
  /-- EN_CLR (R417). -/
  | enClr (w : Fin 32) (v : U32)
  /-- PEND_SET (R417). -/
  | pendSet (w : Fin 32) (v : U32)
  /-- PEND_CLR (R417). -/
  | pendClr (w : Fin 32) (v : U32)
  /-- MSIX_INTERVAL_EXPIRY (R427). -/
  | msixIntervalExpiry (f : FuncId) (v : Fin 2048)
  /-- MSIX_UNMASK (R428). -/
  | msixUnmask (f : FuncId) (v : Fin 2048)
  /-- INT_VEC_MOD_WRITE (R428). -/
  | intVecModWrite (f : FuncId) (value : U64)
  /-- MBX_IN_COMMIT (R430). -/
  | mbxInCommit (box : Box) (seq : U16) (typ : Byte)
  /-- MBX_OUT_DONE (R432). -/
  | mbxOutDone (box : Box)
  /-- MBX_NOTICE_TAKE (R432). -/
  | mbxNoticeTake (box : Box)
  /-- MBX_COMMAND_READ (R435). -/
  | mbxCommandRead (box : Box) (ok : Bool) (hdr : BitVec 128) (body : List Byte)
  /-- MBX_OUTBOUND_POST (R433). -/
  | mbxOutboundPost (box : Box)
  /-- I3C_PRIVATE_WRITE (R440). -/
  | i3cPrivateWrite (offset : U16) (data : List Byte)
  /-- I3C_PRIVATE_READ (R440). -/
  | i3cPrivateRead (count : Nat)
  /-- ENTDAA (R440). -/
  | entdaa (addr : BitVec 7)
  /-- I3C_BUS_RESET (R440). -/
  | i3cBusReset
  /-- FW_QUERY (R459). -/
  | fwQuery (ctx : CmdCtx)
  /-- FW_WRITE (R459). -/
  | fwWrite (ctx : CmdCtx) (offset : U32) (data : List Byte)
  /-- FW_ERASE (R459). -/
  | fwErase (ctx : CmdCtx) (offset : U32) (sectors : U32)
  /-- FW_VERIFY (R459). -/
  | fwVerify (ctx : CmdCtx)
  /-- FW_ACTIVATE (R459). -/
  | fwActivate (ctx : CmdCtx)
  /-- PLAT_SENSORS (R459). -/
  | platSensors (ctx : CmdCtx) (temps : List Byte) (powers : List U16)
  /-- PWR_TARGET_WRITE (R444). -/
  | pwrTargetWrite (value : U32)
  /-- PF0_D3HOT_ENTRY (R444). -/
  | pf0D3hotEntry
  /-- PME_TURN_OFF (R444). -/
  | pmeTurnOff
  /-- LOW_POWER_ENTER (R445). -/
  | lowPowerEnter
  /-- ENGINE_CLOCK_GATE (R443). -/
  | engineClockGate (e : EngId)
  /-- WATCH_SAMPLE (R448). -/
  | watchSample (wakeIn : Bool) (wakes : U64)
  /-- PF0_D0_ENTRY (R451). -/
  | pf0D0Entry
  /-- WAKE_IN_ASSERT (R453). -/
  | wakeInAssert
  /-- WAKE_REGULATOR_READY (R452). -/
  | wakeRegulatorReady
  /-- WAKE_CLOCK_READY (R452). -/
  | wakeClockReady
  /-- WAKE_MEMORY_READY (R452). -/
  | wakeMemoryReady
  /-- WAKE_LOGIC_READY (R452). -/
  | wakeLogicReady
  /-- CORE_RESET (R454). -/
  | coreReset
  /-- POWER_ON_RESET (R454). -/
  | powerOnReset
  /-- POWER_ON_RESET_END (R498). -/
  | powerOnResetEnd (pairEn : Bool) (pairId : Bool) (secHost : Bool)
  /-- PERST_ASSERT (R454). -/
  | perstAssert
  /-- PERST_DEASSERT (R498). -/
  | perstDeassert
  /-- HOT_RESET (R454). -/
  | hotReset
  /-- BOOT_DONE (R458). -/
  | bootDone
  /-- CORE_RAIL_LOSS (R499). -/
  | coreRailLoss
  /-- VMULE_LOSS (R500). -/
  | vmuleLoss (g : DieId)
  /-- VMULE_RISE (R500). -/
  | vmuleRise (g : DieId)
  /-- REGISTER_WRITE (R469). -/
  | registerWrite (f : FuncId) (offset : Nat) (wide : Bool) (value : U64)
  /-- DISCARDED_PACKET (R52). -/
  | discardedPacket (p : PortId)
  /-- XEBIROK_RECORD_ERROR (R391). -/
  | xebirokRecordError
  /-- REMOVAL_LATCH_CLEAR (R371). -/
  | removalLatchClear (n : SlotId)
  /-- POWER_GOOD_RETURN (R364). -/
  | powerGoodReturn (n : SlotId)
  /-- TRAINING_TIMEOUT (R113). -/
  | trainingTimeout (p : PortId)
deriving DecidableEq, Repr

end Sys2Proof
end

