-- ==== Sys2Proof/Config.lean ====
section
/-! DEFINITION. What an implementation fixes, and the FREE VALUES: constants without a body, standing for
values that the manual leaves open. Nothing can be proved of a free value; a statement about one holds
for every value. Each is named in the assumption log. -/

namespace Sys2Proof.Config

/-- The ordering code: GRADE of `GLB.ID`, 1 for the SK-64X-IB and 2 for the SK-64X-CB (R2, R483).
DESIGN CHOICE (log 3): the model is of the SK-64X-IB, whose reset value R474 prints. -/
def grade : Nat := 1

/-- Stepping B1 (R3). -/
def stepping : Nat := 0xB1

/-- Free value (log 20): the frame length that the axis-lock loop asks for at a boundary, before the band
and slew limits, from T / M and the phase error. R144 says what the loop aims at, not the law by which it trims. -/
opaque lockTarget : Nat → Nat → Nat → Nat

/-- Free value (log 21): the index of the context backing entry that a newly opened endpoint takes (R233
numbers contexts and does not say which free one is taken). -/
opaque contextIndex : Nat → Nat

/-- Free value (log 22): whether an image slot of the flash passes the boot ROM's checks: digest and
signature are cryptographic (R457, R458). -/
opaque imageGood : List (Nat × Byte) → Bool

/-- Free value (log 22): the VERSION that an image slot's header holds; R457 gives no offset for it. -/
opaque imageVersion : List (Nat × Byte) → U32

/-- Free value (log 22): the lowest permitted VERSION, held in fuses (R457). -/
opaque fusedMinimum : U32

/-- Free value (log 23): bytes 1 and on of a firmware reply, whose layout R459 does not give. -/
opaque replyBytes : Nat → List Byte
/-- Free value (log 23): the same for FW_QUERY, which reports the running slot, VERSION and validity of each slot, and the
fused minimum. -/
opaque fwQueryBytes : Bool → U32 → Bool → U32 → Bool → U32 → List Byte
/-- Free value (log 23): the same for PLAT_SENSORS, which reports temperatures, powers and `PWR.STS`. -/
opaque sensorBytes : List Byte → List U16 → U32 → List Byte

/-- Free value (log 24): contents of the Basros microcode region, which the manual does not print (R215). -/
opaque microcode : Nat → U32

/-- Free value (log 25): the priority, target mask and enable that the bellwether firmware gives an event
source at boot (R416, R417 give it the means and not the values). -/
opaque sourcePrio : Nat → BitVec 4
/-- Free value (log 25). -/
opaque sourceMask : Nat → BitVec 18
/-- Free value (log 25). -/
opaque sourceEnable : Nat → Bool
/-- Free value (log 25): the threshold of a target. -/
opaque targetThreshold : Nat → BitVec 4

/-- Free value (log 26): result of an arithmetic corner that the manual leaves unstated, for example an
engine call with a full stack (R239 gives the depth, not the result). -/
opaque freeWord : Nat → U64

/-- Free value (log 27): the SEQ of an outbound notice that answers no command: the manual gives a SEQ for
replies, ABORTED and TAKEOVER only (R430, R118). -/
opaque noticeSeq : Nat → U16

/-- Free value (log 28): the START_POS that the compiler sets among those that R203 permits. -/
opaque startPos : Nat → Nat

end Sys2Proof.Config
end

