-- ==== Sys2Proof/Machine/State.lean ====
section
/-! DEFINITION. The machine state of the SK-64X, one structure per block of the part (Records.lean), what leaves the part, and
`State.reset`. -/

namespace Sys2Proof.Machine

/-- Why a step can stop with a fault. No command of this model faults: the manual gives every one of
them an effect. The type is closed with one name, raised by nobody. -/
inductive Fault where
  /-- Raised by no command; safe, since it never occurs. -/
  | none_
deriving DecidableEq, Repr

/-- Why a step can refuse. -/
inductive Refusal where
  /-- Raised by an arm of `exec` whose command has no meaning yet; safe, since the machine stops. -/
  | notModelled (mnemonic : String)
deriving DecidableEq, Repr

/-! ### What leaves the part -/

/-- Line states and tones on a port that are no packets (R46, R84, R115). -/
inductive LineState where
  | reset | resume | wakeTone | idle | detectPulse | trainingSets | confirm (g : Gen) | quiet
deriving DecidableEq, Repr

/-- Everything the part sends, in order: the observable side of a command. Memory writes and reads carry
the function whose Requester ID they use (R320). -/
inductive Output where
  /-- A packet on a Noraz port, as its bytes on the wire (R49, R55). -/
  | packet (p : Nat) (bytes : List Byte)
  | line (p : Nat) (st : LineState)
  | hostWrite (f : Nat) (addr : Nat) (data : List Byte)
  | hostRead (f : Nat) (addr : Nat) (len : Nat)
  /-- An MSI-X message of vector `v`. -/
  | msix (f : Nat) (v : Nat) (addr : U64) (data : U32)
  /-- A read of CLAIM[t] and its value (R420). -/
  | claimed (t : Nat) (value : U16)
  | i3cData (data : List Byte)
  /-- An In-Band Interrupt with its data byte (R440). -/
  | ibi (typ : Byte)
  /-- A command or a keep-alive to a mule die. -/
  | mule (g : Nat) (j : Nat) (offset : Nat) (value : Nat)
  | keepalive (g : Nat)
  | handOver (g : Nat)
  /-- An event message from a mule die to the core die in authority: slot and event bits. -/
  | muleEvent (n : Nat) (bit : Nat)
  /-- A Xebirok record (R392) and a PCTL_B frame (R410), as type and payload. -/
  | xbk (typ : Nat) (payload : List Byte)
  | pctlB (g : Nat) (code : Nat) (payload : List Byte)
  /-- A level on PAIR_HB_OUT, and one on PAIR_ACT_OUT. -/
  | sense (high : Bool)
  | act (high : Bool)
  /-- AER, PM_PME, WAKE_OUT# and the answer to PME_Turn_Off. -/
  | aer (f : Nat) | pme | wakeOut (low : Bool) | pmeAck
deriving DecidableEq, Repr

/-- The machine. -/
structure State where
  /-- Commands waiting, first in, first out. -/
  pending : List Instr := []
  /-- What the part has sent, oldest first. -/
  out : List Output := []
  /-- The model's own counter, to which free values are applied; no statement rests on it. -/
  free : Nat := 0
  eic : Eic := {}
  mail : Mail := {}
  eng : Engines := {}
  sch : Sched := {}
  front : Front := {}
  dma : Dma := {}
  tb : Timebase := {}
  topo : Topo := {}
  fns : Funcs := {}
  slots : Slots := {}
  err : Errs := {}
  pair : Pair := {}
  ctl : Tbl PctlPort := []
  straps : Straps := {}
  pwr : Power := {}
  flash : Flash := {}
deriving DecidableEq, Repr

/-- The machine at the end of a power-on reset with every strap low. -/
def State.reset : State := {}

end Sys2Proof.Machine
end

