-- ==== Sys2Proof/Machine/Ops.lean ====
section
/-! DEFINITION. Named operations over tables, memories and the blocks of the state, which every meaning uses:
reading an entry with its reset value, writing it, and appending to what the part has sent. -/

namespace Sys2Proof.Machine

/-! ### Tables -/

/-- Entry `k`, or `d` where it is not listed. -/
def tget {α : Type} (d : α) : Tbl α → Nat → α
  | [], _ => d
  | (j, v) :: r, k => if j = k then v else tget d r k

/-- Entry `k`, if it is listed. -/
def tfind {α : Type} : Tbl α → Nat → Option α
  | [], _ => none
  | (j, v) :: r, k => if j = k then some v else tfind r k

/-- Writes entry `k`, keeping the order. -/
def tput {α : Type} : Tbl α → Nat → α → Tbl α
  | [], k, v => [(k, v)]
  | (j, w) :: r, k, v =>
    if k < j then (k, v) :: (j, w) :: r else if k = j then (k, v) :: r else (j, w) :: tput r k v

/-- Removes entry `k`: it holds its reset value again. -/
def tdel {α : Type} (t : Tbl α) (k : Nat) : Tbl α := t.filter fun e => e.1 != k

/-- The keys, in order. -/
def tkeys {α : Type} (t : Tbl α) : List Nat := t.map Prod.fst

/-! ### On-chip memories -/

/-- The byte at an address. -/
def mget : Memory → Nat → Byte
  | [], _ => 0
  | (j, v) :: r, k => if j = k then v else mget r k

/-- Writes one byte, keeping the canonical form: a 0 is not listed. -/
def mput (m : Memory) (k : Nat) (b : Byte) : Memory :=
  if b = 0 then m.filter (fun c => c.1 != k) else tput m k b

/-- The `n` bytes from address `a`. -/
def mread (m : Memory) (a : Nat) : Nat → List Byte
  | 0 => []
  | n + 1 => mget m a :: mread m (a + 1) n

/-- Writes bytes from address `a` upwards. -/
def mwrite (m : Memory) (a : Nat) : List Byte → Memory
  | [] => m
  | b :: r => mwrite (mput m a b) (a + 1) r

/-- Zeroes the bytes in [lo, hi). -/
def mclear (m : Memory) (lo hi : Nat) : Memory := m.filter fun c => c.1 < lo || hi ≤ c.1

/-- The canonical form: addresses strictly rising, no listed 0. -/
def Memory.wf : Memory → Bool
  | [] => true
  | [c] => c.2 != 0
  | c :: d :: r => decide (c.1 < d.1) && c.2 != 0 && Memory.wf (d :: r)

/-! ### The state -/

/-- The outcome of a command that always completes. -/
def done (s : State) : Host.Outcome State Fault Refusal := .next s

/-- Applies `f` where the condition holds; the command has no effect otherwise. -/
def guarded (b : Bool) (s : State) (f : State → State) : Host.Outcome State Fault Refusal :=
  .next (if b then f s else s)

/-- Appends to what the part has sent. -/
def emit (o : Output) (s : State) : State := { s with out := s.out ++ [o] }

/-- Applies an operation to each element in order. -/
def each {α : Type} (l : List α) (f : α → State → State) (s : State) : State := l.foldl (fun s x => f x s) s

/-- Takes the next free value's index. -/
def freshIndex (s : State) : Nat × State := (s.free, { s with free := s.free + 1 })

/-- The code of a generation, 0 N1 to 4 N5. -/
def genCode : Gen → Nat
  | .n1 => 0 | .n2 => 1 | .n3 => 2 | .n4 => 3 | .n5 => 4

/-- The generation of a code; codes above 4 act as 4 (R123). -/
def genOf : Nat → Gen
  | 0 => .n1 | 1 => .n2 | 2 => .n3 | 3 => .n4 | _ => .n5

/-- N4 and N5. -/
def serdes (g : Gen) : Bool := 3 ≤ genCode g

/-- The reset value of a function's state: PF0 holds its allotment of R321, a VF none. -/
def funcInit (f : Nat) : Func :=
  if f = 0 then
    { enabled := true, created := true, nSq := 64, nCr := 64, nVec := 64, quota := 4096, pshare := 6016000,
      weight := 255, spillDepth := 8 }
  else {}

def fn (s : State) (f : Nat) : Func := tget (funcInit f) s.fns.fn f
def setFn (s : State) (f : Nat) (x : Func) : State := { s with fns := { s.fns with fn := tput s.fns.fn f x } }
def modFn (f : Nat) (g : Func → Func) (s : State) : State := setFn s f (g (fn s f))

def port (s : State) (p : Nat) : Port := tget {} s.topo.port p
def setPort (s : State) (p : Nat) (x : Port) : State :=
  { s with topo := { s.topo with port := tput s.topo.port p x } }
def modPort (p : Nat) (g : Port → Port) (s : State) : State := setPort s p (g (port s p))

def eng (s : State) (e : Nat) : Engine := tget {} s.eng.eng e
def setEng (s : State) (e : Nat) (x : Engine) : State := { s with eng := { s.eng with eng := tput s.eng.eng e x } }
def modEng (e : Nat) (g : Engine → Engine) (s : State) : State := setEng s e (g (eng s e))

def item? (s : State) (i : Nat) : Option Item := tfind s.front.items i
def setItem (s : State) (i : Nat) (x : Item) : State :=
  { s with front := { s.front with items := tput s.front.items i x } }
/-- Changes an item that exists. -/
def modItem (i : Nat) (g : Item → Item) (s : State) : State :=
  match item? s i with
  | some x => setItem s i (g x)
  | none => s
def delItem (s : State) (i : Nat) : State := { s with front := { s.front with items := tdel s.front.items i } }

def dev? (s : State) (h : Nat) : Option Device := tfind s.topo.dev h
def setDev (s : State) (h : Nat) (x : Device) : State := { s with topo := { s.topo with dev := tput s.topo.dev h x } }
def modDev (h : Nat) (g : Device → Device) (s : State) : State :=
  match dev? s h with
  | some x => setDev s h (g x)
  | none => s

def handle (s : State) (h : Nat) : Handle := tget {} s.topo.handle h
def setHandle (s : State) (h : Nat) (x : Handle) : State :=
  { s with topo := { s.topo with handle := tput s.topo.handle h x } }
def modHandle (h : Nat) (g : Handle → Handle) (s : State) : State := setHandle s h (g (handle s h))

/-- Key of an endpoint context: handle number, endpoint, direction. -/
def ctxKey (num ep : Nat) (dirIn : Bool) : Nat := num * 32 + 2 * ep + ofBool (dirIn && ep != 0)

def ctx? (s : State) (num ep : Nat) (dirIn : Bool) : Option Ctx := tfind s.topo.ctx (ctxKey num ep dirIn)
def setCtx (s : State) (k : Nat) (x : Ctx) : State := { s with topo := { s.topo with ctx := tput s.topo.ctx k x } }
def modCtx (k : Nat) (g : Ctx → Ctx) (s : State) : State :=
  match tfind s.topo.ctx k with
  | some x => setCtx s k (g x)
  | none => s

def box (s : State) (k : Nat) : MBox := tget {} s.mail.box k
def setBox (s : State) (k : Nat) (x : MBox) : State := { s with mail := { s.mail with box := tput s.mail.box k x } }
def modBox (k : Nat) (g : MBox → MBox) (s : State) : State := setBox s k (g (box s k))

def source (s : State) (x : Nat) : Source := tget {} s.eic.src x
def setSource (s : State) (x : Nat) (v : Source) : State := { s with eic := { s.eic with src := tput s.eic.src x v } }
def modSource (x : Nat) (g : Source → Source) (s : State) : State := setSource s x (g (source s x))

def target (s : State) (t : Nat) : Target := tget {} s.eic.tgt t
def modTarget (t : Nat) (g : Target → Target) (s : State) : State :=
  { s with eic := { s.eic with tgt := tput s.eic.tgt t (g (target s t)) } }

def pstate (s : State) (r : Nat) : PState := tget {} s.sch.state r
def setPstate (s : State) (r : Nat) (x : PState) : State := { s with sch := { s.sch with state := tput s.sch.state r x } }
def modPstate (r : Nat) (g : PState → PState) (s : State) : State := setPstate s r (g (pstate s r))

def sq (s : State) (f q : Nat) : Sq := tget {} (fn s f).sq q
def modSq (f q : Nat) (g : Sq → Sq) (s : State) : State :=
  modFn f (fun x => { x with sq := tput x.sq q (g (tget {} x.sq q)) }) s
def cr (s : State) (f r : Nat) : Cr := tget {} (fn s f).cr r
def modCr (f r : Nat) (g : Cr → Cr) (s : State) : State :=
  modFn f (fun x => { x with cr := tput x.cr r (g (tget {} x.cr r)) }) s

def vec (s : State) (f v : Nat) : Vec := tget {} (fn s f).vecs v
def modVec (f v : Nat) (g : Vec → Vec) (s : State) : State :=
  modFn f (fun x => { x with vecs := tput x.vecs v (g (tget {} x.vecs v)) }) s

def chan (s : State) (c : Nat) : ChCtx := tget {} s.dma.ctx c
def modChan (c : Nat) (g : ChCtx → ChCtx) (s : State) : State :=
  { s with dma := { s.dma with ctx := tput s.dma.ctx c (g (chan s c)) } }

def cmpUnit (s : State) (c : Nat) : CmpUnit := tget {} s.tb.cmp c
def modUnit (c : Nat) (g : CmpUnit → CmpUnit) (s : State) : State :=
  { s with tb := { s.tb with cmp := tput s.tb.cmp c (g (cmpUnit s c)) } }

def axis (s : State) (i : Nat) : Axis := tget {} s.tb.ax i
def modAxis (i : Nat) (g : Axis → Axis) (s : State) : State :=
  { s with tb := { s.tb with ax := tput s.tb.ax i (g (axis s i)) } }

def die (s : State) (g : Nat) : Die := tget {} s.slots.die g
def modDie (g : Nat) (h : Die → Die) (s : State) : State :=
  { s with slots := { s.slots with die := tput s.slots.die g (h (die s g)) } }
/-- The mule die of a slot (R1). -/
def dieOf (n : Nat) : Nat := n / 16
/-- The port's legacy transceiver is high-impedance: its die has declared its core die lost (R20). -/
def highZ (s : State) (p : Nat) : Bool := (die s (dieOf p)).coreLost && !serdes (port s p).gen

/-- The reset value of a pool page (R307): 0 to 63 CARVED to PF0, the others FREE. -/
def pageInit (p : Nat) : Page := if p < 64 then ⟨.carved, some 0, none⟩ else ⟨.free, none, none⟩
def page (s : State) (p : Nat) : Page := tget (pageInit p) s.dma.page p
def setPage (p : Nat) (x : Page) (s : State) : State := { s with dma := { s.dma with page := tput s.dma.page p x } }

end Sys2Proof.Machine
end

