-- ==== Sys2Proof/Machine/Clock.lean ====
section
/-! DEFINITION. Reading the frame generator and the axes: the instant, the in-frame position, axis positions and the
stamps. -/

namespace Sys2Proof.Machine

/-- The present instant, in timebase cycles. -/
def now (s : State) : Nat := s.tb.tick.toNat

/-- In-frame position POS (R140). -/
def posNow (s : State) : Nat := (now s - s.tb.frameAt) * 4096 / s.tb.flen % 4096

/-- The present microframe, counted from epoch 0. -/
def absUframe (s : State) : Nat := s.tb.epoch.toNat * 8 + s.tb.uframe

/-- The frame stamp of this instant: EPOCH[19:0] and POS (R162). -/
def frameStamp (s : State) : Stamp :=
  ⟨false, BitVec.ofNat 32 (s.tb.epoch.toNat % 2 ^ 20 * 4096 + posNow s)⟩

/-! ### Axis positions (R149, R151, R152) -/

/-- Positions in one axis cycle. -/
def cyclePos : Nat := 2 ^ 24

/-- `AX[i].CFG` (R152). -/
def axMode (x : Axis) : Nat := field x.cfg 0 2
def axZsync (x : Axis) : Bool := bit x.cfg 2
def axInterp (x : Axis) : Bool := bit x.cfg 3 || axMode x == 3
def axDirInv (x : Axis) : Bool := bit x.cfg 4
def axStallTo (x : Axis) : Nat := field x.cfg 16 16
/-- Counts per cycle: 0 acts as 1. -/
def axCpc (x : Axis) : Nat := max 1 (field x.cpc 0 24)
/-- The position of a count (R149). -/
def posOf (x : Axis) (count : Nat) : Nat := count * cyclePos / axCpc x

/-- The position at an instant, between edges too (R151, R152). -/
def posAt (x : Axis) (t : Nat) : Nat :=
  match x.lastEdge with
  | none => x.pos
  | some e =>
    if x.stalled || !axInterp x then x.pos
    else if axMode x = 3 then
      if x.period = 0xFFFFFFFF then x.pos else min (cyclePos - 1) ((t - e) * cyclePos / max 1 x.period.toNat)
    else
      match x.interval with
      | none => x.pos
      | some n =>
        let base := posOf x x.count
        if x.reverse then
          let span := if x.count = 0 then cyclePos - posOf x (axCpc x - 1) else base - posOf x (x.count - 1)
          (base + cyclePos - min (span - 1) ((t - e) * span / max 1 n)) % cyclePos
        else
          let span := posOf x (x.count + 1) - base
          base + min (span - 1) ((t - e) * span / max 1 n)

/-- The axis stamp of this instant (R162): cycle count, and position [23:8]. -/
def axisStamp (s : State) (i : Nat) : Stamp :=
  let x := axis s i
  ⟨true, BitVec.ofNat 32 (x.cycle.toNat * 2 ^ 16 + posAt x (now s) / 256)⟩

/-! ### Registers and spans -/

/-- `TB.EPOCH`, which is also the event stamp of R162 in its low 60 bits. -/
def epochReg (s : State) : U64 :=
  BitVec.ofNat 64 (s.tb.epoch.toNat + posNow s * 2 ^ 48 + s.tb.uframe * 2 ^ 60)

/-- EPOCH[31:0] of this frame, or of a later one. -/
def epoch32 (s : State) (ahead : Nat) : Nat := (s.tb.epoch.toNat + ahead) % 2 ^ 32

/-- Timebase cycles in a span of ns, rounded up: 2.5 ns each. -/
def ticksOf (ns : Nat) : Nat := cdiv (ns * 2) 5

/-- The core die runs: it is not in power-on reset, not in Off and not held by a fatal error (R386, R442,
R499). -/
def live (s : State) : Bool := !s.pwr.por && !s.err.held && s.pwr.st != .off

/-- The 400 MHz timebase runs: not in Deep sleep, Watch or Off (R446). -/
def timebaseRuns (s : State) : Bool :=
  !s.pwr.por && (s.pwr.st == .run || s.pwr.st == .sleep)

/-- One timebase cycle passes (log 1). -/
def cyclePasses (s : State) : State :=
  if timebaseRuns s then { s with tb := { s.tb with tick := s.tb.tick + 1 } } else s

/-- A wake cause arrives in or during the entry to a lower state: the first one is kept (R451, R461). An entry in
progress completes before the wake begins. -/
def startWake (cause index : Nat) (s : State) : State :=
  if (s.pwr.st == .sleep || s.pwr.st == .deepSleep || s.pwr.st == .watch || s.pwr.entering.isSome)
      && s.pwr.entering != some .off && s.pwr.waking.isNone then
    { s with pwr := { s.pwr with waking := some (cause, index) } }
  else s

end Sys2Proof.Machine
end

