-- ==== Sys2Proof/Machine/Operands.lean ====
section
/-! DEFINITION. Operand forms: the fields of a submission entry (R260 to R263), of `Q.CFG`, of setup data (R53),
of descriptors (R102) and of command bodies, each read at the bits that the manual gives. -/

namespace Sys2Proof.Machine

/-! ### Submission entries: byte b of the entry is bits [8b+7:8b] -/

def eOpcode (e : BitVec 256) : Nat := field e 0 8
def eFlags (e : BitVec 256) : Nat := field e 8 8
def eIdx (e : BitVec 256) : Bool := bit e 8
def eAxis (e : BitVec 256) : Bool := bit e 9
def eAnyCycle (e : BitVec 256) : Bool := bit e 10
def eTag (e : BitVec 256) : U16 := BitVec.ofNat 16 (field e 16 16)
def eHandle (e : BitVec 256) : U16 := BitVec.ofNat 16 (field e 32 16)
def eHandleNum (e : BitVec 256) : Nat := field e 32 12
def eHandleGen (e : BitVec 256) : Nat := field e 44 4
def eEpaddr (e : BitVec 256) : Byte := BitVec.ofNat 8 (field e 48 8)
def eEp (e : BitVec 256) : Nat := field e 48 4
def eDirIn (e : BitVec 256) : Bool := bit e 55
def eUnit (e : BitVec 256) : Nat := field e 56 8
def eAddr (e : BitVec 256) : Nat := field e 64 64
def eLength (e : BitVec 256) : Nat := field e 128 25
def eArg (e : BitVec 256) : Nat := field e 160 64
def ePosition (e : BitVec 256) : Nat := field e 160 24
def eCycle (e : BitVec 256) : U16 := BitVec.ofNat 16 (field e 192 16)
def eIdxCount (e : BitVec 256) : Nat := field e 224 16

/-- The entry is a CTRL transfer. -/
def eCtrl (e : BitVec 256) : Bool := eOpcode e == 1
/-- PER_OUT and PER_IN; EVT_OUT and EVT_IN. -/
def ePer (e : BitVec 256) : Bool := eOpcode e == 4 || eOpcode e == 5
def eEvt (e : BitVec 256) : Bool := eOpcode e == 6 || eOpcode e == 7
/-- The data moves to the host: BULK_IN, PER_IN, EVT_IN, or CTRL with DDIR set. -/
def eDataIn (e : BitVec 256) : Bool :=
  eOpcode e == 3 || eOpcode e == 5 || eOpcode e == 7 || (eCtrl e && bit e 175)

/-- The opcode is defined and its class is the SQ's (R255, R261). -/
def opcodeInClass (timed : Bool) (op : Nat) : Bool :=
  op == 0 || (if timed then 4 ≤ op && op ≤ 7 else 1 ≤ op && op ≤ 3)

/-- Every field marked 0 is 0, AXIS and IDX stand only where they may, and a NOP carries nothing but its TAG
(R260, R261, R263). -/
def entryZeros (e : BitVec 256) : Bool :=
  field e 11 5 == 0 && field e 52 3 == 0 && field e 153 7 == 0 && field e 240 16 == 0
  && (eAxis e || (eUnit e == 0 && !eAnyCycle e))
  && (!eAxis e || (ePer e && field e 184 8 == 0 && field e 208 16 == 0))
  && (eCtrl e || eAxis e || eArg e == 0)
  && (eIdx e || eIdxCount e == 0)
  && (eOpcode e != 0 ||
      (eFlags e == 0 && eHandle e == 0 && eEpaddr e == 0 && eAddr e == 0 && eLength e == 0))

/-! ### Setup data (R53): byte b is bits [8b+7:8b] of the 64-bit ARG -/

def suRequest (a : Nat) : Nat := a % 256
def suByte1 (a : Nat) : Nat := a / 256 % 256
def suRecip (a : Nat) : Nat := a / 256 % 4
def suClass (a : Nat) : Nat := a / 1024 % 4
def suDirIn (a : Nat) : Bool := a / 32768 % 2 == 1
def suArg0 (a : Nat) : Nat := a / 2 ^ 16 % 65536
def suArg1 (a : Nat) : Nat := a / 2 ^ 32 % 65536
def suDlen (a : Nat) : Nat := a / 2 ^ 48 % 65536

/-- The eight setup bytes of a request. -/
def setupData (request byte1 arg0 arg1 dlen : Nat) : Nat :=
  request + byte1 * 2 ^ 8 + arg0 * 2 ^ 16 + arg1 * 2 ^ 32 + dlen * 2 ^ 48

/-- The request is CLEAR-HALT with the values of R53. -/
def suClearHalt (a : Nat) : Bool :=
  suRequest a == 1 && suByte1 a == 1 && suArg0 a == 0 && suDlen a == 0

/-- The CTRL rules of R262. -/
def ctrlRules (e : BitVec 256) : Bool :=
  let a := eArg e
  suClass a != 3 && suRecip a != 3 && a / 4096 % 8 == 0 && suDlen a == eLength e && !eIdx e
  && suRequest a != 2 && suRequest a != 4

/-! ### `Q.CFG` (R258) -/

def cfgLog2 (c : U64) : Nat := field c 0 4
/-- Ring size: 2^LOG2SIZE. -/
def cfgSize (c : U64) : Nat := 2 ^ cfgLog2 c
def cfgTimed (c : U64) : Bool := bit c 4
def cfgMaint (c : U64) : Bool := bit c 5
def cfgPrio (c : U64) : Nat := field c 6 3
def cfgWeight (c : U64) : Nat := field c 16 8
/-- b_q: packets per visit. -/
def cfgBurst (c : U64) : Nat := field c 24 6 + 1
def cfgCr (c : U64) : Nat := field c 32 12
def cfgIen (c : U64) : Bool := bit c 4
def cfgVector (c : U64) : Nat := field c 16 11

/-! ### Descriptors (R102) -/

/-- Byte `i` of a descriptor as a number. -/
def dByte (d : List Byte) (i : Nat) : Nat := (d.getD i 0).toNat
/-- A 16-bit field of a descriptor. -/
def dHalf (d : List Byte) (i : Nat) : Nat := dByte d i + 256 * dByte d (i + 1)

def idVendor (d : List Byte) : Nat := dHalf d 2
def idProduct (d : List Byte) : Nat := dHalf d 4
def idRevision (d : List Byte) : Nat := dHalf d 6
def idIsHub (d : List Byte) : Bool := dByte d 8 == 9
def idNumEp (d : List Byte) : Nat := dByte d 10
/-- EP0_MPS in bytes. -/
def idEp0Mps (d : List Byte) : Nat := 8 * 2 ^ dByte d 11
def idWakeCapable (d : List Byte) : Bool := dByte d 12 % 2 == 1

/-- The endpoint descriptors, 8 bytes each. -/
def epList : Nat → List Byte → List (List Byte)
  | 0, _ => []
  | n + 1, d => if d.isEmpty then [] else d.take 8 :: epList n (d.drop 8)

def epNum (d : List Byte) : Nat := dByte d 2 % 16
def epDirIn (d : List Byte) : Bool := dByte d 2 / 128 == 1
def epType (d : List Byte) : Nat := dByte d 3 % 4
def epLastGasp (d : List Byte) : Bool := dByte d 3 / 4 % 2 == 1
def epMps (d : List Byte) : Nat := dHalf d 4
def epInterval (d : List Byte) : Nat := dByte d 6
def epMaxBurst (d : List Byte) : Nat := dByte d 7

def hubPortsOf (d : List Byte) : Nat := dByte d 2
def hubTtMap (d : List Byte) : Nat := dHalf d 4
def hubTtBuffers (d : List Byte) : Nat := dByte d 6
/-- The hub port is a translator port. -/
def hubIsTt (d : List Byte) (q : Nat) : Bool := hubTtMap d / 2 ^ q % 2 == 1

/-- An identity descriptor is well formed for a generation (R102). -/
def identOk (g : Gen) (d : List Byte) : Bool :=
  d.length == 32 && dByte d 0 == 32 && dByte d 1 == 1 && idNumEp d ≤ 30 && dByte d 12 < 4 && dByte d 13 < 5
  && 1 ≤ idEp0Mps d && idEp0Mps d ≤ (match g with | .n1 => 32 | .n2 => 64 | .n3 => 512 | _ => 1024)
  && dHalf d 14 == 0

/-- A hub descriptor is well formed (R102). -/
def hubOk (g : Gen) (d : List Byte) : Bool :=
  d.length == 16 && dByte d 0 == 16 && dByte d 1 == 9 && 1 ≤ hubPortsOf d && hubPortsOf d ≤ 15 && dByte d 3 < 4
  && (!serdes g || dByte d 3 / 2 == 1) && (hubTtMap d == 0 || (2 ≤ hubTtBuffers d && hubTtBuffers d ≤ 16))
  && hubTtMap d % 2 == 0 && hubTtMap d < 2 ^ (hubPortsOf d + 1) && (d.drop 10).all (· == 0)

/-- An endpoint descriptor is well formed for a generation (R74, R102). -/
def epOk (g : Gen) (d : List Byte) : Bool :=
  let top := match g with | .n1 => 32 | .n2 => 64 | .n3 => 512 | _ => 1024
  d.length == 8 && dByte d 0 == 8 && dByte d 1 == 2 && 1 ≤ epNum d && dByte d 2 / 16 % 8 == 0 && dByte d 3 < 8
  && 1 ≤ epMps d && epMps d ≤ top && (epType d != 3 || epMps d ≤ 64) && epMaxBurst d ≤ 15
  && (serdes g || epMaxBurst d == 0)

end Sys2Proof.Machine
end

