-- ==== Sys2Proof/Machine/Bank.lean ====
section
/-! DEFINITION. Reading the table banks: what is charged, the completion rate of R189, the services of a
reservation and the lookups that the queue front end and the engines make. -/

namespace Sys2Proof.Machine

/-- The reservations that count as admitted: the shadow bank, and live ones whose RELEASE has not swapped
yet (R517). -/
def charged (s : State) : Tbl Rung :=
  s.sch.shadow ++ s.sch.live.filter fun e => (tfind s.sch.shadow e.1).isNone

/-- Worst-case completions per frame (R189). -/
def rungRate (r : Rung) : Nat :=
  match r.kind with
  | .float => 8 * r.packets
  | _ => if genCode r.gen ≤ 1 then 1 else cdiv 8 (2 ^ r.periodK)

/-- The sum of r over a function's admitted endpoints (R189). -/
def sumRate (s : State) (f : Nat) : Nat :=
  (charged s).foldl (fun a e => if e.2.func = f then a + rungRate e.2 else a) 0

/-- The live reservation of an endpoint, of a kind. -/
def resFind (s : State) (k : ResKind) (h : U16) (ep : Nat) (dirIn : Bool) : Option (Nat × Rung) :=
  s.sch.live.find? fun e => e.2.kind == k && e.2.handle == h && e.2.ep == ep && e.2.dirIn == dirIn

/-- The entry that a service runs by: a live reservation, or a released one whose splits are in progress (R209). -/
def rungOf (s : State) (r : Nat) : Option Rung :=
  match tfind s.sch.live r with
  | some g => some g
  | none => tfind s.sch.leaving r

/-- The live floating reservation of a port. -/
def floatOf (s : State) (p : Nat) : Option (Nat × Rung) :=
  s.sch.live.find? fun e => e.2.kind == .float && e.2.port == p

/-- Microframe `m` begins a service of the reservation (R195). -/
def isService (r : Rung) (m : Nat) : Bool := m % 2 ^ r.periodK == r.phase

/-- The first service at or after microframe `m`. -/
def serviceFrom (r : Rung) (m : Nat) : Nat :=
  m + (r.phase + 2 ^ r.periodK - m % 2 ^ r.periodK) % 2 ^ r.periodK

/-- The service after service `m`. -/
def serviceAfter (r : Rung) (m : Nat) : Nat := m + 2 ^ r.periodK

/-- An endpoint of the device holds a reservation, or has an accepted ADMIT that is not yet live (R517). -/
def hasReservation (s : State) (num : Nat) : Bool := (charged s).any fun e => field e.2.handle 0 12 == num

/-- A function has an admitted endpoint (R517). -/
def funcReserved (s : State) (f : Nat) : Bool := (charged s).any fun e => e.2.func == f

/-! ### Handles -/

/-- The current handle of a number: generation and number (R92). -/
def handleWord (s : State) (num : Nat) : U16 := BitVec.ofNat 16 ((handle s num).gen.toNat * 4096 + num)

/-- The number is live at the generation that the handle names, and its attach report has been written
(R93, R118). -/
def handleCurrent (s : State) (h : U16) : Bool :=
  let r := handle s (field h 0 12)
  r.use == .live && r.gen.toNat == field h 12 4
    && (match dev? s (field h 0 12) with | some d => d.reported | none => false)

/-- The function that owned a number at a generation (R93). -/
def ownerAt (s : State) (num gen : Nat) : Option Nat := tfind (handle s num).owners gen

/-- The owner of a live device. -/
def ownerOf (s : State) (num : Nat) : Nat := (ownerAt s num (handle s num).gen.toNat).getD 0

/-- The handle names a live device, not a hub, that function `f` owns. -/
def ownsDevice (s : State) (f : Nat) (h : U16) : Bool :=
  handleCurrent s h && ownerAt s (field h 0 12) (field h 12 4) == some f
    && (match dev? s (field h 0 12) with | some d => !d.isHub | none => false)

end Sys2Proof.Machine
end

