-- ==== Sys2Proof/Machine/Events.lean ====
section
/-! DEFINITION. The event controller (R415 to R425), MSI-X messages and their moderation (R426 to R428), memory
writes with the dirty byte map (R320, R344), and the mailbox slots (R429 to R433). -/

namespace Sys2Proof.Machine

/-! ### Memory requests -/

/-- The 4 KiB pages that a request of `len` bytes at `addr` touches. -/
def pagesTouched (addr len : Nat) : List Nat :=
  (List.range ((addr + len - 1) / 4096 - addr / 4096 + 1)).map (addr / 4096 + ·)

/-- Marks one page of a VF's map, or sets OVF for a page at or beyond PAGES (R344). -/
def markPage (f page : Nat) (s : State) : State :=
  let x := fn s f
  if x.dirtyPages.toNat ≤ page then setFn s f { x with dirtyOvf := true }
  else if x.dirty.contains page then s
  else setFn s f { x with dirty := x.dirty ++ [page] }

/-- A write request with function `f`'s Requester ID (R320). While the VF's marking is enabled, the pages
touched are marked (R344). -/
def hostWrite (f addr : Nat) (data : List Byte) (s : State) : State :=
  if data.isEmpty then s else
    let s := emit (.hostWrite f addr data) s
    if f != 0 && (fn s f).dirtyEn then each (pagesTouched addr data.length) (markPage f) s else s

/-! ### MSI-X -/

/-- A message may go out: vector and function unmasked, MSI-X and Bus Master Enable set (R428). -/
def vecReady (s : State) (f v : Nat) : Bool :=
  let x := fn s f
  x.msixEn && x.bme && !x.fmask && !bit (vec s f v).ctrl 0

/-- A message falls due: it is sent, or its Pending Bit is set (R428). -/
def msixDue (f v : Nat) (s : State) : State :=
  let x := vec s f v
  let s := modVec f v (fun y => { y with counted := 0, running := false }) s
  if vecReady s f v then emit (.msix f v x.addr x.data) s
  else modVec f v (fun y => { y with pend := true }) s

/-- One event counts on vector `v` (R426, R427): it opens an interval if none is open, and the event that
brings the count to COUNT (0 acts as 1) makes the message due. While a message is held, events open no
further message (R428). -/
def countEvent (f v : Nat) (s : State) : State :=
  let x := vec s f v
  if x.pend then s
  else if max x.count.toNat 1 ≤ x.counted.toNat + 1 then msixDue f v s
  else modVec f v (fun y => { y with counted := y.counted + 1, running := true }) s

/-- Sends the message of a Pending Bit once nothing holds it (R428). -/
def msixRelease (f v : Nat) (s : State) : State :=
  let x := vec s f v
  if x.pend && vecReady s f v then
    emit (.msix f v x.addr x.data) (modVec f v (fun y => { y with pend := false }) s)
  else s

/-! ### Mailbox numbers -/

/-- The table key of a mailbox. -/
def boxKey : Box → Nat
  | .func f => f.val
  | .secure => 128
  | .i3c => 129
  | .toCores e => 130 + e.val
  | .toEngine e => 146 + e.val

/-! ### Sources -/

/-- The table key of an event register. -/
def evtKey : EvtReg → Nat
  | .port n => n.val
  | .slot n => 64 + n.val
  | .ax i => 128 + i.val
  | .cmpPend k => 132 + k.val
  | .flrDone k => 140 + k.val
  | .tb => 144 | .eng => 145 | .vfr => 146 | .dma => 147 | .err => 148 | .pair => 149
  | .q f => 256 + f.val
  | .vf f => 384 + f.val

/-- The value of an event register. -/
def evtGet (s : State) (r : EvtReg) : U32 := tget 0 s.eic.evt (evtKey r)

/-- `SLOT[n].EVT_EN`. -/
def slotEn (s : State) (n : Nat) : U32 := tget 0x1FFF s.eic.slotEn n

/-- The sources that an event register drives (R415). -/
def srcsOf : EvtReg → List Nat
  | .port n => (List.range 14).map (14 * n.val + ·)
  | .slot n => [896 + n.val]
  | .tb => [960, 961, 962, 963, 964]
  | .ax i => (List.range 5).map (965 + 5 * i.val + ·)
  | .cmpPend k => [985 + k.val]
  | .eng => [993, 994]
  | .flrDone k => [995 + k.val]
  | .vfr => [999, 1000]
  | .dma => [1001, 1002, 1003, 1004]
  | .err => [1005, 1006, 1007, 1008, 1009]
  | .pair => [1010, 1011, 1012, 1013, 1014, 1015, 1016]
  | .q _ => []
  | .vf _ => []

/-- The raw word behind key `k` of the event registers. -/
def evtWord (s : State) (k : Nat) : U32 := tget 0 s.eic.evt k

/-- The hardware condition of a source (R415). -/
def hwLevel (s : State) (x : Nat) : Bool :=
  if x < 896 then bit (evtWord s (x / 14)) (x % 14)
  else if x < 960 then (evtWord s (64 + (x - 896)) &&& slotEn s (x - 896)) != 0
  else if x < 965 then bit (evtWord s 144) (x - 960)
  else if x < 985 then bit (evtWord s (128 + (x - 965) / 5)) ((x - 965) % 5)
  else if x < 993 then evtWord s (132 + (x - 985)) != 0
  else if x < 995 then bit (evtWord s 145) (x - 993)
  else if x < 999 then evtWord s (140 + (x - 995)) != 0
  else if x < 1001 then bit (evtWord s 146) (x - 999)
  else if x < 1005 then bit (evtWord s 147) (x - 1001)
  else if x < 1010 then bit (evtWord s 148) (x - 1005)
  else if x < 1017 then bit (evtWord s 149) (x - 1010)
  else if x < 1021 then s.mail.box.any fun e => e.1 / 32 == x - 1017 && e.1 < 128 && e.2.inFull
  else if x = 1021 then s.straps.secHost && (box s 128).inFull
  else if x = 1022 then (box s 129).inFull
  else s.mail.box.any fun e => 130 ≤ e.1 && e.1 < 146 && e.2.inFull

/-- L[s]: the hardware condition or the software latch (R416). -/
def level (s : State) (x : Nat) : Bool := hwLevel s x || (source s x).soft

/-- The source is PENDING (R416). -/
def isPending (s : State) (x : Nat) : Bool :=
  let c := source s x
  c.active.isNone && level s x && c.en && c.prio != 0

/-- The engine runs a dispatch thread (R418, R424). -/
def inDispatch (s : State) (e : Nat) : Bool :=
  match (eng s e).run with
  | some t => t.kind == .dispatch
  | none => false

/-- The target takes part in routing: a retired engine does not (R418). -/
def routable (s : State) (t : Nat) : Bool := 16 ≤ t || !(eng s t).retired

/-- RUN[t] (R418). -/
def runLevel (s : State) (t : Nat) : Nat :=
  if t < 16 && !inDispatch s t then 15
  else s.eic.src.foldl
    (fun m e => if e.2.active.map Fin.val == some t then max m e.2.prio.toNat else m) (target s t).thr.toNat

/-- The target to which a PENDING source is offered: the one of TMASK with the lowest RUN, ties to the
lower number (R419). -/
def offered (s : State) (x : Nat) : Option Nat :=
  (List.range 18).foldl
    (fun best t =>
      if bit (source s x).tmask t && routable s t then
        match best with
        | none => some t
        | some b => if runLevel s t < runLevel s b then some t else best
      else best) none

/-- A PENDING source is offered to a target that `p` holds of. -/
def calls (s : State) (p : Nat → Bool) : Bool :=
  s.eic.src.any fun e => isPending s e.1 && (offered s e.1).any p

/-- An engine has a ready thread: one that runs, or a parked one whose port lane has reported. -/
def hasReady (x : Engine) : Bool := x.run.any (fun t => t.wait == .running) || x.parked.any fun p => p.2.ready

/-- Something runs on an engine's clock: a ready thread, or an interrupt that is offered to it (R443). -/
def clockNeeded (s : State) (e : Nat) : Bool := hasReady (eng s e) || calls s (· == e)

/-- The clock of an engine is gated (R443). -/
def clockGated (s : State) (e : Nat) : Bool := (eng s e).gated && !clockNeeded s e

/-- A PENDING source wakes the target to which it is offered (R423). -/
def wakeTarget (x : Nat) (s : State) : State :=
  if isPending s x then
    match offered s x with
    | some t => if (target s t).asleep then modTarget t (fun y => { y with asleep := false }) s else s
    | none => s
  else s

/-- A source has risen: it counts on PF0's vector HVEC when HOSTEN is set (R425). -/
def hostRise (x : Nat) (s : State) : State :=
  if (source s x).hosten then countEvent 0 (source s x).hvec.toNat s else s

/-- Applies `f`, which may move the levels of the listed sources, and serves each rise. -/
def withRises (xs : List Nat) (f : State → State) (s : State) : State :=
  let up := xs.filter fun x => !level s x && level (f s) x
  each xs wakeTarget (each up hostRise (f s))

/-- Writes an event register. -/
def setEvt (r : EvtReg) (v : U32) (s : State) : State :=
  withRises (srcsOf r) (fun s => { s with eic := { s.eic with evt := tput s.eic.evt (evtKey r) v } }) s

/-- The function and vector that a bit of `Q.EVT` or `VF.EVT` signals, if enabled (R426). -/
def evtVector (s : State) : EvtReg → Option (Nat × Nat)
  | .q f =>
    let v := (fn s f.val).qEvtVec
    if bit v 15 then some (f.val, field v 0 11) else none
  | .vf f =>
    let v := (fn s f.val).vfEvtVec
    if bit v 15 then some (f.val, field v 0 11) else none
  | _ => none

/-- Sets bit `b` of an event register. A bit of `Q.EVT` or `VF.EVT` that goes from 0 to 1 counts on its
vector (R426). -/
def raise (r : EvtReg) (b : Nat) (s : State) : State :=
  let old := evtGet s r
  if bit old b then s
  else
    let s := setEvt r (old ||| BitVec.ofNat 32 (2 ^ b)) s
    match evtVector s r with
    | some (f, v) => countEvent f v s
    | none => s

/-- Clears the bits of an event register that are written 1 (R11). -/
def clearEvt (r : EvtReg) (v : U32) (s : State) : State := setEvt r (evtGet s r &&& ~~~v) s

/-- A port's event, a slot's event, and the events of a function. -/
def raisePort (p b : Nat) : State → State := if h : p < 64 then raise (.port ⟨p, h⟩) b else id
def raiseSlot (n b : Nat) : State → State := if h : n < 64 then raise (.slot ⟨n, h⟩) b else id
def raiseQ (f b : Nat) : State → State := if h : f < 128 then raise (.q ⟨f, h⟩) b else id
def raiseVf (f b : Nat) : State → State :=
  if h : f < 128 then (if f = 0 then id else raise (.vf ⟨f, h⟩) b) else id

/-! ### Mailbox slots -/

/-- The sources that a mailbox's inbound slot drives. -/
def boxSrcs (k : Nat) : List Nat :=
  if k < 128 then [1017 + k / 32] else if k = 128 then [1021] else if k = 129 then [1022]
  else if k < 146 then [1023] else []

/-- Commits an inbound notice (R430, R431): FULL is set; a notice already there is replaced and COLLISION
is set. -/
def commitIn (k : Nat) (n : Notice) (s : State) : State :=
  withRises (boxSrcs k)
    (modBox k fun b => { b with inSlot := n, inColl := b.inColl || b.inFull, inFull := true }) s

/-- Puts a notice in the outbound slot, counts it on `MBX.VEC` for a function's mailbox, and raises an
In-Band Interrupt for the I3C mailbox (R426, R431, R440). -/
def commitOut (k : Nat) (n : Notice) (s : State) : State :=
  let s := modBox k (fun b => { b with outSlot := n, outColl := b.outColl || b.outFull, outFull := true }) s
  if k < 128 then
    let v := (box s k).vec
    if bit v 15 then countEvent k (field v 0 11) s else s
  else if k = 128 then
    let v := (box s k).vec
    if bit v 15 then countEvent 0 (field v 0 11) s else s
  else if k = 129 then emit (.ibi n.typ) s
  else s

/-- TYPEs that merge with an older notice of the same TYPE that still waits: TOPO_REPORT and TAKEOVER. -/
def merges (t : Byte) : Bool := t == 0x20 || t == 0x9F

/-- The firmware posts a notice: at once into an empty slot, otherwise it waits in order (R433). -/
def postOut (k : Nat) (n : Notice) (s : State) : State :=
  let b := box s k
  if b.outFull || !b.waiting.isEmpty then
    let w := if merges n.typ then b.waiting.filter (fun m => m.typ != n.typ) else b.waiting
    setBox s k { b with waiting := w ++ [n] }
  else commitOut k n s

/-- DONE: clears FULL and COLLISION of the outbound slot (R432). -/
def outDone (k : Nat) (s : State) : State := modBox k (fun b => { b with outFull := false, outColl := false }) s

/-- Posts the notice that has waited longest, once the slot is empty (R433). -/
def postWaiting (k : Nat) (s : State) : State :=
  let b := box s k
  match b.waiting with
  | n :: r => if b.outFull then s else commitOut k n (setBox s k { b with waiting := r })
  | [] => s

/-- The mailbox key of a command's channel. -/
def chanKey : Chan → Nat
  | .nonSecure f => f.val
  | .secure => 128
  | .i3c => 129

/-- The function that sent a command: secure PF0 software and the I3C controller count as PF0. -/
def sender : Chan → Nat
  | .nonSecure f => f.val
  | _ => 0

/-- The 16-byte reply header of R434, REPLY set. -/
def replyHeader (code : Nat) (seq : U16) (len status func : Nat) (addr : U64) : List Byte :=
  [BitVec.ofNat 8 code, 1] ++ natLE 2 seq.toNat ++ natLE 2 len ++ [BitVec.ofNat 8 status, BitVec.ofNat 8 func]
    ++ natLE 8 addr.toNat

/-- Writes a reply where its channel's memory lies, then posts its notice (R435). On the secure page and over
I3C the reply goes to the on-chip outbound buffer; on a function's mailbox to its memory, waiting while the
function's Bus Master Enable is clear (R514). -/
def writeReply (k : Nat) (at_ : U64) (bytes : List Byte) (n : Notice) (s : State) : State :=
  if k = 128 then
    postOut k n { s with mail := { s.mail with secOut := mwrite s.mail.secOut at_.toNat (bytes.take (2048 - at_.toNat)) } }
  else if k = 129 then
    postOut k n { s with mail := { s.mail with i3cOut := mwrite s.mail.i3cOut 0 (bytes.take 256) } }
  else if (fn s k).bme then postOut k n (hostWrite k at_.toNat bytes s)
  else modBox k (fun b => { b with replies := b.replies ++ [(at_, bytes, n)] }) s

/-- Where the reply of a command goes (R434, R439, R440). -/
def replyPlace (ctx : CmdCtx) : U64 :=
  match ctx.chan with
  | .nonSecure _ => if ctx.replyAddr = 0 then ctx.ptr else ctx.replyAddr
  | .secure => ctx.replyAddr
  | .i3c => 0

/-- A command with a reply is unanswered no longer. -/
def answeredBox (k : Nat) (seq : U16) (typ : Byte) (s : State) : State :=
  modBox k (fun b => { b with unanswered := b.unanswered.filter fun m => !(m.seq == seq && m.typ == typ) }) s

/-- Answers a command: DONE in the header, its reply body, and a notice of its TYPE and SEQ (R435). -/
def reply (ctx : CmdCtx) (code : Nat) (body : List Byte) (s : State) : State :=
  let k := chanKey ctx.chan
  let n : Notice := ⟨replyPlace ctx, ctx.seq, BitVec.ofNat 8 code⟩
  let s := if k < 128 && !(fn s k).bme then s else answeredBox k ctx.seq n.typ s
  writeReply k (replyPlace ctx) (replyHeader code ctx.seq body.length 0 (sender ctx.chan) ctx.replyAddr ++ body) n s

/-- The notice of a command, as it stands among the unanswered ones. -/
def cmdNotice (ctx : CmdCtx) (code : Nat) : Notice := ⟨ctx.ptr, ctx.seq, BitVec.ofNat 8 code⟩

/-- A command has been read and has no reply yet (R437). -/
def begun (ctx : CmdCtx) (code : Nat) (s : State) : State :=
  modBox (chanKey ctx.chan) (fun b => { b with unanswered := b.unanswered ++ [cmdNotice ctx code] }) s

/-- The function that sent a command is a VF without resources (R319). -/
def noResources (s : State) (ctx : CmdCtx) : Bool := !(fn s (sender ctx.chan)).created

/-- `ABORTED` notices for the commands in a list (R437). -/
def postAborted (k : Nat) (ns : List Notice) (s : State) : State :=
  each ns (fun n s => postOut k ⟨n.ptr, n.seq, 0x01⟩ s) s

end Sys2Proof.Machine
end

