-- ==== Sys2Proof/Machine/Queues.lean ====
section
/-! DEFINITION. Submission queues, completion rings, spill, fetch and acceptance (R254 to R293). -/

namespace Sys2Proof.Machine

/-! ### Status codes (R279) -/

def stSuccess : Byte := 0x00
def stShort : Byte := 0x01
def stStall : Byte := 0x02
def stBabble : Byte := 0x03
def stXactErr : Byte := 0x04
def stMissed : Byte := 0x05
def stMissedLead : Byte := 0x06
def stDeviceGone : Byte := 0x07
def stStale : Byte := 0x08
def stAbortedReset : Byte := 0x09
def stAbortedFlr : Byte := 0x0A
def stFailover : Byte := 0x0B
def stMalformed : Byte := 0x0C
def stNotAdmitted : Byte := 0x0D
def stOverrun : Byte := 0x0E
def stUnderrun : Byte := 0x0F
def stSpillHalt : Byte := 0x10
def stPortReset : Byte := 0x11
def stRetired : Byte := 0x12
def stScriptFault : Byte := 0x13
def stAbortedHalt : Byte := 0x14

/-- Statuses that end a transfer from outside it: its staged data is discarded. -/
def discards (st : Byte) : Bool :=
  [stDeviceGone, stStale, stAbortedReset, stAbortedFlr, stFailover, stSpillHalt, stPortReset, stRetired,
    stScriptFault, stAbortedHalt, stMissedLead, stNotAdmitted, stMalformed].contains st

/-! ### Shares of the dispatcher (R33, R222) -/

/-- The weights of the functions that share the dispatcher: PF0 and every created VF. -/
def shareFuncs (s : State) : List (Nat × Nat) :=
  (0, (fn s 0).weight) :: (s.fns.fn.filter fun e => e.1 != 0 && e.2.created).map fun e => (e.1, e.2.weight)

/-- The floor of a function's share. -/
def shareFloor (f : Nat) : Nat := if f = 0 then 64 else 8

/-- A function's share of the 4,096 work entries: its floor, its part of the rest in proportion to W_f, and
one of the entries left over, in ascending function order from PF0 (R33). -/
def share (s : State) (f : Nat) : Nat :=
  let fs := shareFuncs s
  let total := fs.foldl (fun a e => a + e.2) 0
  let rest := 4096 - fs.foldl (fun a e => a + shareFloor e.1) 0
  let part := fun w => if total = 0 then 0 else rest * w / total
  let left := rest - fs.foldl (fun a e => a + part e.2) 0
  match fs.findIdx? (fun e => e.1 == f) with
  | some i => shareFloor f + part ((fs.getD i (0, 0)).2) + (if i < left then 1 else 0)
  | none => 0

/-- Work entries that a function occupies. -/
def shareUsed (s : State) (f : Nat) : Nat :=
  (s.front.items.filter fun e => e.2.func == f && e.2.slot == .work).length

/-- All work entries in use. -/
def workUsed (s : State) : Nat := (s.front.items.filter fun e => e.2.slot == .work).length

/-- The function's share is full (R231). -/
def shareFull (s : State) (f : Nat) : Bool := share s f ≤ shareUsed s f || 4096 ≤ workUsed s

/-! ### Completions -/

/-- The bytes of a completion entry (R274); `phase` and `spilled` are added to FLAGS. -/
def completionBytes (w : WaitRec) (phase spilled : Bool) (head : U16) : List Byte :=
  natLE 2 w.tag.toNat ++ natLE 2 w.sqid.toNat
    ++ [w.status, w.flags ||| BitVec.ofNat 8 (ofBool phase + 4 * ofBool spilled)]
    ++ natLE 2 head.toNat ++ natLE 4 w.residual.toNat ++ natLE 4 w.stamp.toNat

/-- Steps C over the entries whose completions are written (R264). -/
def stepC : Nat → U16 → List U16 → U16 × List U16
  | 0, c, d => (c, d)
  | n + 1, c, d => if d.contains c then stepC n (c + 1) (d.filter (· != c)) else (c, d)

/-- The completion of entry `i` is written: C advances to the oldest entry still open (R264). -/
def retireIndex (f q : Nat) (i : U16) (s : State) : State :=
  modSq f q (fun x =>
    let r := stepC (x.done.length + 1) x.c (i :: x.done)
    { x with c := r.1, done := r.2 }) s

/-- A CR has room (R277). -/
def crRoom (x : Cr) : Bool := (x.p - x.c).toNat < cfgSize x.cfg

/-- PHASE for producer index p: the inverse of bit log2(size) of p (R278). -/
def crPhase (x : Cr) : Bool := !bit x.p (cfgLog2 x.cfg)

/-- Issues the map marks of a VF that wait: a completion is written behind the marks of its transfer (R345). Marks
carry PF0's Requester ID, and wait while PF0 may not master the bus (R320, R514). -/
def flushDirty (f : Nat) (s : State) : State :=
  if (fn s 0).bme then
    let x := fn s f
    each x.dirty (fun n s => hostWrite 0 (x.dirtyBase.toNat + n) [1] s) (setFn s f { x with dirty := [] })
  else s

/-- Writes a completion into its ring as one 16-byte write, and counts it on the CR's vector (R275, R426). -/
def crWrite (f r : Nat) (w : WaitRec) (spilled : Bool) (head : U16) (s : State) : State :=
  let s := flushDirty f s
  let x := cr s f r
  let s := hostWrite f (x.base.toNat + 16 * (x.p.toNat % cfgSize x.cfg)) (completionBytes w (crPhase x) spilled head) s
  let s := modCr f r (fun y => { y with p := y.p + 1 }) s
  if cfgIen x.cfg then countEvent f (cfgVector x.cfg) s else s

/-- A free spill record: the lowest (DESIGN CHOICE, log 30). -/
def spillFree (x : Func) : Option Nat :=
  if x.spilled.length < x.spillEntries then
    (List.range (x.spilled.length + 1)).find? fun n => !x.spilled.contains n
  else none

/-- The class rule of R283: a general completion leaves the periodic reserve free. -/
def spillAllowed (s : State) (f : Nat) (timed : Bool) : Bool :=
  let x := fn s f
  timed || x.spillDepth * sumRate s f < x.spillEntries - x.spilled.length

/-- C of an SQ. -/
def sqHead (s : State) (f q : Nat) : U16 := (sq s f q).c

/-- Removes an item from its compare unit (R158). -/
def dropFromUnit (i : Nat) (s : State) : State :=
  { s with tb := { s.tb with cmp := s.tb.cmp.map fun e =>
      (e.1, if e.2.entry == some i then { e.2 with entry := none, armed := false }
        else { e.2 with queue := e.2.queue.filter (· != i) }) } }

/-- What a read that has been issued for an item brings is no longer wanted; the request is not withdrawn (R302). -/
def dropRead (i : Nat) (s : State) : State :=
  { s with dma := { s.dma with ctx := s.dma.ctx.map fun e =>
      (e.1, if e.2.reading.map Prod.fst == some i then { e.2 with stale := true } else e.2) } }

/-- Discards what DMA contexts hold for an item: the burst stops, staged data is dropped. -/
def dropStaged (i : Nat) (s : State) : State :=
  let s := dropRead i (modItem i (fun x => { x with segs := [], ended := true }) s)
  { s with dma := { s.dma with ctx := s.dma.ctx.map fun e =>
      (e.1, { e.2 with work := if e.2.work == .item i then .none_ else e.2.work }) } }

/-- An item's staging is given up: what it had read ahead is read again. -/
def unstage (i : Nat) (s : State) : State :=
  dropRead i (modItem i (fun x => { x with pages := [], asked := x.moved, staged := x.moved }) s)

/-- Removes an item from the list that waits for a floating reservation. -/
def dropFromFloat (i : Nat) (s : State) : State :=
  { s with sch := { s.sch with floatWait := s.sch.floatWait.map fun e => (e.1, e.2.filter (· != i)) } }

/-- The stamp that a completion of an item takes at this instant (R162, R163). -/
def nowStamp (s : State) (x : Item) : Stamp :=
  if eAxis x.raw && x.posted.isNone then axisStamp s (cmpUnit s (eUnit x.raw)).axis else frameStamp s

/-- The key of the endpoint context of a flow. -/
def flowKey (f : Flow) : Nat := ctxKey (field f.handle 0 12) (field f.epaddr 0 4) (bit f.epaddr 7)

/-- An item joins its flow: SUB_NEXT counts it (R224, R235). -/
def flowIn (f : Option Flow) (s : State) : State :=
  match f with | some f => modCtx (flowKey f) (fun c => { c with subNext := c.subNext + 1 }) s | none => s

/-- An item leaves its flow to be fetched again. -/
def flowBack (f : Option Flow) (s : State) : State :=
  match f with | some f => modCtx (flowKey f) (fun c => { c with subNext := c.subNext - 1 }) s | none => s

/-- The completion of an item of the flow is released: REL_NEXT counts it (R225, R235). -/
def flowOut (f : Option Flow) (s : State) : State :=
  match f with | some f => modCtx (flowKey f) (fun c => { c with relNext := c.relNext + 1 }) s | none => s

/-- A request or a poll of the part's own: it has no completion entry. -/
def isOwn (x : Item) : Bool := x.setup.isSome || x.poll

/-- Ends an item whose completion is not yet in its entry: the completion is placed there (R225), stamped now if
no token of it was sent (R163), with the axis stamp where it is bound to an axis (R162). A request of the part's own has
no completion: it is gone. -/
def finish (i : Nat) (st : Byte) (s : State) : State :=
  match item? s i with
  | none => s
  | some x =>
    if x.status.isSome && !x.awaitFin then s
    else
      let s := setItem s i { x with
        status := some st, awaitFin := false, stamp := if x.begun then x.stamp else nowStamp s x, wireDone := true, stopAs := none }
      let s := dropFromFloat i (dropFromUnit i s)
      let s := if discards st then dropStaged i s else s
      if isOwn x then delItem (flowOut x.flow s) i else s

/-- The completion is in its entry (R225); a request of the part's own is gone with it. -/
def postItem (i : Nat) (s : State) : State :=
  match item? s i with
  | some x => if isOwn x && x.status.isSome then delItem (flowOut x.flow s) i else setItem s i { x with awaitFin := false }
  | none => s

/-- An entry of a reservation is bound to the service that runs now, or to one before it. -/
def boundTo (s : State) (r : Nat) (x : Item) : Bool :=
  x.slot == .timed r && (match x.service with | some m => decide (m ≤ absUframe s) | none => false)

/-- The entry bound to the service of a reservation that runs now: the oldest of those whose service has
begun. -/
def boundItem (s : State) (r : Nat) : Option Nat :=
  (s.front.items.find? fun e => boundTo s r e.2 && e.2.status.isNone).map Prod.fst

/-- The item that a thread serves. -/
def workItem (s : State) : Work → Option Nat
  | .item i => some i
  | .service r => boundItem s r
  | .none_ => none

/-- The items of a work whose completion is not posted: those whose status is decided, else the one that runs. -/
def openItems (s : State) (w : Work) : List Nat :=
  match w with
  | .item i => [i]
  | .service r =>
    let ended := (s.front.items.filter fun k => boundTo s r k.2 && k.2.awaitFin).map Prod.fst
    if ended.isEmpty then (boundItem s r).toList else ended
  | .none_ => []

/-- The item has a transaction on the wire. -/
def onWire (s : State) (i : Nat) : Bool :=
  s.topo.port.any fun e => match e.2.txn with | some t => workItem s t.work == some i | none => false

/-- Ends an item from outside: at once, or at the end of its transaction in progress (R126, R287, R291). -/
def stopItem (st : Byte) (i : Nat) (s : State) : State :=
  if onWire s i then
    modItem i (fun x => if x.status.isSome then x else { x with stopAs := some st }) s
  else finish i st s

/-- The items that satisfy a test, in the order they were fetched. -/
def itemsWhere (s : State) (p : Item → Bool) : List Nat := (s.front.items.filter fun e => p e.2).map Prod.fst

/-- RESIDUAL (R276): LENGTH less the bytes moved; 0 with DATA_OVERRUN. -/
def residualOf (x : Item) : Nat :=
  if x.status == some stOverrun then 0
  else eLength x.raw - (if eDataIn x.raw then x.drained else x.moved)

/-- The completion of an item, without PHASE and SQ_HEAD. -/
def recordOf (s : State) (i : Nat) (x : Item) : WaitRec :=
  { record := none, item := some i, timed := cfgTimed (sq s x.func x.sq).cfg, tag := eTag x.raw,
    sqid := BitVec.ofNat 12 x.sq, status := x.status.getD 0,
    flags := BitVec.ofNat 8 (2 * ofBool x.stamp.axis), head := 0, residual := BitVec.ofNat 25 (residualOf x),
    stamp := x.stamp.value }

/-- Entries of a TIMED SQ that have not begun; an axis-bound entry has begun once its unit has fired
(R285). -/
def notBegunTimed (x : Item) : Bool :=
  x.status.isNone && (match x.slot with | .timed _ => true | _ => false) && (if eAxis x.raw then !x.fired else !x.begun)

/-- The CR enters SPILL_HALT (R285). -/
def enterSpillHalt (f r : Nat) (s : State) : State :=
  if (cr s f r).spillHalt then s
  else
    let s := modCr f r (fun y => { y with spillHalt := true }) s
    let hit := itemsWhere s fun x => x.func == f && cfgCr (sq s f x.sq).cfg == r && notBegunTimed x
    raiseQ f 2 (each hit (finish · stSpillHalt) s)

/-- The item's entry is no longer needed: it is removed, and commands that wait for it move on. -/
def freeItem (i : Nat) (s : State) : State := delItem s i

/-- Hands a completion to its CR: into the ring, else into a spill record, else held (R282, R283, R285). While the
function is being reset it is written or counted (R291). -/
def crPut (f r : Nat) (w : WaitRec) (q : Nat) (index : Option U16) (s : State) : State :=
  let x := cr s f r
  let retire := fun s => match index with | some i => retireIndex f q i s | none => s
  let free := fun s => match w.item with | some i => freeItem i s | none => s
  if (fn s f).flrBusy then
    let s := free (retire s)
    if crRoom x && (fn s f).bme then
      crWrite f r w false (sqHead s f q)
        (modFn f (fun y => { y with flrWritten := y.flrWritten + ofBool (w.status == stAbortedFlr) }) s)
    else modFn f (fun y => { y with flrCounted := y.flrCounted + 1 }) s
  else if x.waiting.isEmpty && crRoom x && (fn s f).bme then
    let s := retire s
    free (crWrite f r w false (sqHead s f q) s)
  else
    let s := if x.waiting.isEmpty then raiseQ f 1 s else s
    match (if (fn s f).bme && spillAllowed s f w.timed then spillFree (fn s f) else none) with
    | some n =>
      let s := retire s
      let w := { w with record := some n, head := sqHead s f q }
      let s := hostWrite f ((fn s f).spillBase.toNat + 16 * n) (completionBytes w false false w.head) s
      let s := modFn f (fun y => { y with spilled := y.spilled ++ [n] }) s
      free (modCr f r (fun y => { y with waiting := y.waiting ++ [{ w with item := none }] }) s)
    | none =>
      let s := modCr f r (fun y => { y with waiting := y.waiting ++ [w] }) s
      let s := match w.item with | some i => modItem i (fun y => { y with held := true }) s | none => s
      if w.timed then enterSpillHalt f r s else s

/-- Writes the waiting completions of a CR while it has room, oldest-ready first (R284). -/
def drainLoop (f r : Nat) : Nat → State → State
  | 0, s => s
  | n + 1, s =>
    let x := cr s f r
    match x.waiting with
    | [] => s
    | w :: rest =>
      if crRoom x && (fn s f).bme then
        let s := modCr f r (fun y => { y with waiting := rest }) s
        match w.record with
        | some k =>
          let s := modFn f (fun y => { y with spilled := y.spilled.filter (· != k) }) s
          drainLoop f r n (crWrite f r w true w.head s)
        | none =>
          match w.item with
          | some i =>
            let s := match item? s i with | some y => retireIndex f w.sqid.toNat y.index s | none => s
            drainLoop f r n (freeItem i (crWrite f r w false (sqHead s f w.sqid.toNat) s))
          | none => drainLoop f r n (crWrite f r w false (sqHead s f w.sqid.toNat) s)
      else s

/-- A periodic endpoint becomes idle: at once, or once the last entry bound to it has been served (R198). -/
def idleAfter (r : Nat) (s : State) : State :=
  if s.front.items.any fun e => e.2.slot == .timed r && e.2.service.isSome && e.2.status.isNone then
    modPstate r (fun y => { y with ends := true }) s
  else modPstate r (fun y => { y with streaming := false, ends := false }) s

/-- The endpoints whose entries complete into a CR become idle when SPILL_HALT ends (R198, R286). -/
def idleEndpoints (f r : Nat) (s : State) : State :=
  each (s.sch.live.filter fun e => e.2.func == f) (fun e s =>
    if cfgCr (sq s f (pstate s e.1).lastSq).cfg == r then idleAfter e.1 s else s) s

/-- A CR that has gained room: its waiting completions are written; with none left it leaves spill and
SPILL_HALT (R284, R286). -/
def crDrain (f r : Nat) (s : State) : State :=
  let s := drainLoop f r (cr s f r).waiting.length s
  if (cr s f r).waiting.isEmpty && (cr s f r).spillHalt then
    idleEndpoints f r (modCr f r (fun y => { y with spillHalt := false }) s)
  else s

/-! ### Fetch -/

/-- The CR of an SQ. -/
def sqCr (s : State) (f q : Nat) : Nat := cfgCr (sq s f q).cfg

/-- Fetch of the SQ is paused (R231, R282, R285). -/
def fetchPaused (s : State) (f q : Nat) : Bool :=
  let c := cr s f (sqCr s f q)
  if cfgTimed (sq s f q).cfg then c.spillHalt else shareFull s f || !c.waiting.isEmpty

/-- The front end may fetch from the SQ. A stopped SQ completes a refetch in progress (R292, R293). -/
def canFetch (s : State) (f q : Nat) : Bool :=
  let x := sq s f q
  x.created && !(fn s f).halted && !(fn s f).flrBusy && (fn s f).bme
    && (!x.inval.isEmpty || (!x.stopped && x.f != x.p)) && !fetchPaused s f q

/-- The index fetched next: the first invalidated entry, else F (R272). -/
def nextIndex (x : Sq) : U16 :=
  match x.inval with
  | (i, _) :: _ => i
  | [] => x.f

/-- The read of the next entry goes out (R266, R268). -/
def readNext (f q : Nat) (s : State) : State :=
  let x := sq s f q
  emit (.hostRead f (x.base.toNat + 32 * ((nextIndex x).toNat % cfgSize x.cfg)) 32) s

/-- Issues the read of the next entry, if the front end is reading this SQ. -/
def issueFetch (f q : Nat) (s : State) : State := if (sq s f q).reading && canFetch s f q then readNext f q s else s

/-- The accepted producer value P is recorded with the microframe in which it was seen, unless a record or kick that
brought the same P has done so (R197, R265). Values whose entries are all fetched are forgotten. -/
def noteSeen (seen : Nat) (y : Sq) : List (U16 × Nat) :=
  if y.seenAt.any fun e => e.1 == y.p then y.seenAt
  else (y.seenAt.filter fun e => decide ((y.f - y.c).toNat < (e.1 - y.c).toNat)) ++ [(y.p, seen)]

/-- The microframe in which the entry fetched next counts as seen: that of the kick for one that is fetched again
(R272), else that of the first record or kick that covered it (R197). -/
def seenOf (x : Sq) : Nat :=
  if x.inval.isEmpty then
    match x.seenAt.find? fun e => decide ((x.f - x.c).toNat < (e.1 - x.c).toNat) with
    | some e => e.2
    | none => 0
  else x.kickAt

/-- The entries not yet fetched stay unread, to be seen anew (R197, R271, R515). -/
def leaveUnread (f q : Nat) (s : State) : State := modSq f q (fun y => { y with reading := false, seenAt := [] }) s

/-- A sweep or kick at microframe `seen` sets the front end reading (R197, R271); entries that it cannot fetch now stay
unread, and count as seen at the sweep or kick that brings them in (R271, R514, R515). -/
def startReading (f q seen : Nat) (s : State) : State :=
  let x := sq s f q
  if x.f != x.p || !x.inval.isEmpty then
    if canFetch s f q then
      readNext f q (modSq f q (fun y => { y with
        reading := true, seenAt := noteSeen seen y, kickAt := if y.reading then y.kickAt else seen }) s)
    else leaveUnread f q s
  else s

/-- A completion that reports a bad SQ index (R288, R289): NO_ENTRY set, TAG 0, SQ_HEAD C. -/
def noEntry (f q : Nat) (s : State) : State :=
  crPut f (sqCr s f q)
    { record := none, item := none, timed := false, tag := 0, sqid := BitVec.ofNat 12 q, status := stMalformed,
      flags := 8, head := sqHead s f q, residual := 0, stamp := (frameStamp s).value } q none s

/-- A VF halts (R287). -/
def haltFunc (f cause : Nat) (s : State) : State :=
  if (fn s f).halted then s
  else
    let s := modFn f (fun y => { y with halted := true, haltCause := BitVec.ofNat 2 cause }) s
    let s := each (itemsWhere s fun x => x.func == f && x.status.isNone && x.posted.isNone)
      (stopItem stAbortedHalt) s
    raiseQ f 0 s

/-- A bad SQ index: PF0 ignores it and raises DB_ERROR; a VF halts with cause 2 (R288, R289). -/
def badSqIndex (f q : Nat) (s : State) : State :=
  let s := noEntry f q s
  if f = 0 then raiseQ 0 3 s else haltFunc f 2 s

/-- A producer value read from a doorbell record or a kick (R265). -/
def acceptP (f q : Nat) (v : U16) (seen : Nat) (s : State) : State :=
  let x := sq s f q
  if !x.created || (fn s f).halted || (fn s f).flrBusy then s
  else if (v - x.c).toNat ≤ cfgSize x.cfg && (x.p - x.c).toNat ≤ (v - x.c).toNat then
    startReading f q seen (modSq f q (fun y => { y with p := v }) s)
  else badSqIndex f q s

/-- GENERAL SQs of a CR that has left spill are read again (R284). -/
def resumeSqs (f r seen : Nat) (s : State) : State :=
  each ((fn s f).sq.map Prod.fst) (fun q s =>
    if sqCr s f q = r && (sq s f q).created && !(sq s f q).stopped then startReading f q seen s else s) s

/-- A consumer value read from a doorbell record or a kick (R277). -/
def acceptC (f r : Nat) (v : U16) (seen : Nat) (s : State) : State :=
  let x := cr s f r
  if !x.created || (fn s f).flrBusy then s
  else if (x.p - v).toNat ≤ cfgSize x.cfg && (x.p - v).toNat ≤ (x.p - x.c).toNat then
    let s := crDrain f r (modCr f r (fun y => { y with c := v }) s)
    if (cr s f r).waiting.isEmpty && !x.waiting.isEmpty then resumeSqs f r seen s else s
  else if f = 0 then raiseQ 0 3 s else haltFunc f 3 s

/-! ### Acceptance (R273) -/

/-- What the acceptance checks decide. -/
inductive Verdict where
  | failed (st : Byte) | nop | general | per (res : Nat) | evt (res : Nat) | axis (res : Nat)
deriving DecidableEq, Repr

/-- Check 3: the number names a device, not a hub, and the function owned it at the named generation; in a
maintenance queue any function's ownership counts. -/
def ownedEver (s : State) (f q : Nat) (e : BitVec 256) : Bool :=
  match ownerAt s (eHandleNum e) (eHandleGen e) with
  | some g => g == f || cfgMaint (sq s f q).cfg
  | none => false

/-- The endpoint that an entry names is open and of the type of its opcode (check 5). -/
def entryCtx (s : State) (e : BitVec 256) : Option Ctx :=
  match ctx? s (eHandleNum e) (eEp e) (eDirIn e) with
  | some c =>
    let typ := match eOpcode e with | 1 => 0 | 2 => 1 | 3 => 1 | 4 => 2 | 5 => 2 | _ => 3
    let dir := match eOpcode e with | 3 | 5 | 7 => true | _ => false
    if c.isOpen && c.typ.toNat == typ && eDirIn e == dir then some c else none
  | none => none

/-- The acceptance checks in their order. -/
def checkEntry (s : State) (f q : Nat) (e : BitVec 256) : Verdict :=
  let op := eOpcode e
  if !(opcodeInClass (cfgTimed (sq s f q).cfg) op && entryZeros e) then .failed stMalformed
  else if op = 0 then .nop
  else if !ownedEver s f q e then .failed stMalformed
  else if !handleCurrent s (eHandle e) then .failed stStale
  else
    match entryCtx s e with
    | none => .failed stMalformed
    | some c =>
      if op = 1 && !ctrlRules e then .failed stMalformed
      else
        let res : Option (Nat × Rung) :=
          if eAxis e then
            (floatOf s c.port).bind fun x =>
              if x.2.handle == eHandle e && x.2.ep == eEp e && x.2.dirIn == eDirIn e then some x else none
          else if ePer e then resFind s .periodic (eHandle e) (eEp e) (eDirIn e)
          else if eEvt e then resFind s .event (eHandle e) (eEp e) (eDirIn e)
          else none
        if (ePer e || eEvt e) && res.isNone then .failed stNotAdmitted
        else
          let r := (res.getD (0, {})).2
          let u := cmpUnit s (eUnit e)
          if !(if ePer e then decide (eLength e ≤ r.bytes)
              else if eEvt e then decide (1 ≤ eLength e ∧ eLength e ≤ c.mps.toNat)
              else decide (eLength e ≤ 16777216)) then .failed stMalformed
          else if eAxis e && !(u.action == 2 && u.owner == f && u.port == c.port) then .failed stMalformed
          else if eIdx e && !(1 ≤ eIdxCount e && eIdxCount e ≤ 4096) then .failed stMalformed
          else if eAxis e then .axis (res.getD (0, {})).1
          else if ePer e then .per (res.getD (0, {})).1
          else if eEvt e then .evt (res.getD (0, {})).1
          else .general

/-- The entry can take its slot (R270, R271). -/
def takesSlot (s : State) (f q : Nat) (v : Verdict) : Bool :=
  if cfgTimed (sq s f q).cfg then
    match v with
    | .per r | .evt r | .axis r =>
      decide ((s.front.items.filter fun e => e.2.slot == .timed r).length < 4)
    | _ => !(s.front.items.any fun e => e.2.func == f && e.2.sq == q && e.2.slot == .check)
  else !shareFull s f

/-- The flow of an entry: both directions of the control endpoint are one flow (R224). -/
def flowOf (e : BitVec 256) : Flow := ⟨eHandle e, if eEp e = 0 then 0 else eEpaddr e⟩

/-- The affinity engine of a flow (R228). -/
def affinityOf (s : State) (f : Flow) : Option Nat := (s.front.affinity.find? fun e => e.1 == f).map Prod.snd

/-- Binds a periodic entry (R198): while idle to the first service with a lead of 2 behind those to which entries are
still bound, to the next service while streaming; a late entry completes MISSED_LEAD and consumes its service. `keep` is
the service that a refetched entry targeted. -/
def bindPeriodic (i r seen : Nat) (keep : Option Nat) (s : State) : State :=
  match tfind s.sch.live r with
  | none => finish i stNotAdmitted s
  | some g =>
    let ps := pstate s r
    let target := match keep with
      | some m => m
      | none =>
        if ps.streaming && !ps.ends then serviceAfter g ps.lastSvc
        else serviceFrom g (max (seen + 2) (ps.lastSvc + 1))
    let q := match item? s i with | some x => x.sq | none => 0
    let s := modPstate r (fun y => { y with
      streaming := true, ends := false, lastSvc := max y.lastSvc target, lastSq := q }) s
    if seen + 2 ≤ target then modItem i (fun x => { x with service := some target }) s
    else
      finish i stMissedLead { s with sch := { s.sch with leadMiss := s.sch.leadMiss + 1 } }

/-- Makes room at service `m` of an event reservation: the open entries bound to it and to those behind it that touch it
move on by one service each, in their order (R73, R200). -/
def shiftEvents (r : Nat) (g : Rung) : Nat → Nat → State → State
  | 0, _, s => s
  | n + 1, m, s =>
    match s.front.items.find? fun e => e.2.slot == .timed r && e.2.service == some m && e.2.status.isNone with
    | some e => modItem e.1 (fun x => { x with service := some (serviceAfter g m) })
        (shiftEvents r g n (serviceAfter g m) s)
    | none => s

/-- The first service at or after `m` to which no entry of the reservation is bound. -/
def freeService (s : State) (r : Nat) (g : Rung) : Nat → Nat → Nat
  | 0, m => m
  | n + 1, m =>
    if s.front.items.any fun e => e.2.slot == .timed r && e.2.service == some m && e.2.status.isNone
    then freeService s r g n (serviceAfter g m) else m

/-- Binds an event entry to the first free reservation with a lead of 2 (R200). -/
def bindEvent (i r seen : Nat) (keep : Option Nat) (s : State) : State :=
  match tfind s.sch.live r with
  | none => finish i stNotAdmitted s
  | some g =>
    let m := match keep with
      | some m => if seen + 2 ≤ m then m else freeService s r g 8 (serviceFrom g (seen + 2))
      | none => freeService s r g 8 (serviceFrom g (seen + 2))
    modItem i (fun x => { x with service := some m }) s

/-- Places an axis-bound entry behind its unit's other entries (R158). -/
def queueOnUnit (i u : Nat) (s : State) : State :=
  modUnit u (fun c => { c with queue := c.queue ++ [i] }) s

/-- Carries out the verdict on a new item. -/
def applyVerdict (i f : Nat) (e : BitVec 256) (v : Verdict) (seen : Nat) (keep : Option (Nat × Nat)) (s : State) :
    State :=
  match v with
  | .failed st =>
    let s := finish i st s
    if st == stMalformed && f != 0 then haltFunc f 1 s else s
  | .nop => finish i stSuccess s
  | .general =>
    match ctx? s (eHandleNum e) (eEp e) (eDirIn e) with
    | some c => if c.halted then finish i stStall s else s
    | none => s
  | .per r => bindPeriodic i r seen (keep.bind fun k => if k.1 = r then some k.2 else none) s
  | .evt r => bindEvent i r seen (keep.bind fun k => if k.1 = r then some k.2 else none) s
  | .axis _ => queueOnUnit i (eUnit e) s

/-- The header and the first window of an accepted entry's index table are read (R305). -/
def issueIndex (i : Nat) (s : State) : State :=
  match item? s i with
  | some x =>
    if eIdx x.raw && x.status.isNone then
      emit (.hostRead x.func (eAddr x.raw) (16 + 4 * min 64 (eIdxCount x.raw))) s
    else s
  | none => s

/-- An entry that a refetch brings into a stopped SQ completes ABORTED_RESET, and the reply of the QUEUE_STOP follows it
(R292, R293). -/
def stopFetched (i f q : Nat) (s : State) : State :=
  if f == 0 && (sq s f q).stopped then
    let open_ := match item? s i with | some x => x.status.isNone | none => false
    stopItem stAbortedReset i { s with front := { s.front with stops := s.front.stops.map fun e =>
      if e.2.2.1 == q then (e.1, e.2.1 ++ [i], q, e.2.2.2 + ofBool open_) else e } }
  else s

/-- A fetched entry arrives: it takes its slot and is checked, or stays unread with those behind it
(R271, R273, R515). -/
def fetchEntry (f q : Nat) (ok : Bool) (e : BitVec 256) (s : State) : State :=
  if !canFetch s f q then leaveUnread f q s
  else if !ok then emit (.aer f) (leaveUnread f q s)
  else
    let x := sq s f q
    let v := checkEntry s f q e
    if !takesSlot s f q v then leaveUnread f q s
    else
      let i := s.front.nextItem
      let keep := match x.inval with | (_, k) :: _ => k | [] => none
      let slot : Slot := if cfgTimed x.cfg then
          (match v with | .per r | .evt r | .axis r => .timed r | _ => .check) else .work
      let flow : Option Flow := match v with | .nop => none | _ => some (flowOf e)
      let pt := match ctx? s (eHandleNum e) (eEp e) (eDirIn e) with | some c => c.port | none => 0
      let it : Item :=
        { func := f, sq := q, index := nextIndex x, raw := e, slot := slot, level := cfgPrio x.cfg, port := pt,
          flow := flow, flowSeq := s.front.nextFlowSeq, seen := seenOf x,
          offer := flow.bind (affinityOf s) }
      let s := modSq f q (fun y =>
        match y.inval with
        | _ :: rest => { y with inval := rest }
        | [] => { y with f := y.f + 1 }) s
      let s := flowIn flow { s with front := { s.front with
        items := tput s.front.items i it, nextItem := i + 1, nextFlowSeq := s.front.nextFlowSeq + 1 } }
      issueFetch f q (issueIndex i (stopFetched i f q (applyVerdict i f e v (seenOf x) keep s)))

/-! ### Release -/

/-- The item's staged bytes have all been written to host memory (R300). -/
def itemDrained (s : State) (i : Nat) : Bool :=
  match item? s i with
  | some x => x.segs.isEmpty
  | none => true

/-- Every earlier item of the same flow has been released (R35, R225). -/
def flowFirst (s : State) (x : Item) : Bool :=
  match x.flow with
  | none => true
  | some fl => s.front.items.all fun e => e.2.flow != some fl || x.flowSeq ≤ e.2.flowSeq || e.2.held

/-- The item's completion can be written. -/
def releasable (s : State) (i : Nat) (x : Item) : Bool :=
  x.status.isSome && !x.awaitFin && !x.held && x.parked.isNone && itemDrained s i && flowFirst s x

/-- The reply of QUEUE_STOP (R292): result, entries aborted, C and P. -/
def queueReply (s : State) (res aborted q : Nat) : List Byte :=
  [BitVec.ofNat 8 res, 0] ++ natLE 2 aborted ++ natLE 2 (sq s 0 q).c.toNat ++ natLE 2 (sq s 0 q).p.toNat ++ zeros 8

/-- Answers the QUEUE_STOP and DEV_ASSIGN commands whose last item is gone; a QUEUE_STOP waits for a refetch in progress
(R293). A DEV_ASSIGN whose device has been torn
down meanwhile is answered BAD_HANDLE (R351). -/
def answerWaiters (s : State) : State :=
  let gone := fun l => l.filter fun i => (item? s i).isSome
  let stops := s.front.stops.map fun e => (e.1, gone e.2.1, e.2.2)
  let answered := fun (e : CmdCtx × List Nat × Nat × Nat) => e.2.1.isEmpty && (sq s 0 e.2.2.1).inval.isEmpty
  let assigns := s.front.assigns.map fun e => (e.1, gone e.2.1, e.2.2)
  let s := { s with front := { s.front with
    stops := stops.filter (fun e => !answered e), assigns := assigns.filter (fun e => !e.2.1.isEmpty) } }
  let s := each (stops.filter answered)
    (fun e s => reply e.1 0x60 (queueReply s 0 e.2.2.2 e.2.2.1) s) s
  each (assigns.filter fun e => e.2.1.isEmpty) (fun e s =>
    reply e.1 0x84 (if handleCurrent s (BitVec.ofNat 16 (leNat ((e.2.2.drop 2).take 2))) then e.2.2 else 2 :: zeros 15)
      (modFn 0 (fun y => { y with cmdBusy := false }) s)) s

/-! ### Work of the bellwether firmware (R15, R222, R223) -/

/-- Posts an item on an endpoint; `setup` holds the setup bytes of a request of the part's own, and `poll` marks the poll of
a hub. -/
def postWork (b : PostBody) (f : Nat) (setup : Option U64) (poll : Bool) (s : State) : State :=
  let i := s.front.nextItem
  let fl : Flow := ⟨b.handle, if field b.epaddr 0 4 = 0 then 0 else b.epaddr⟩
  let x : Item :=
    { func := f, posted := some b, setup := setup, poll := poll, slot := .work, level := if b.lastGasp then 7 else 6,
      port := b.port.val, flow := some fl, flowSeq := s.front.nextFlowSeq, seen := absUframe s, offer := affinityOf s fl }
  flowIn x.flow { s with front := { s.front with
    items := tput s.front.items i x, nextItem := i + 1, nextFlowSeq := s.front.nextFlowSeq + 1 } }

/-- The item of a request to a device, a control transfer on endpoint 0, or of the poll of a hub, an IN of 2 B on its
status-change endpoint (R100). -/
def requestBody (s : State) (num : Nat) (c : Ctx) : Option U64 → PostBody
  | some a =>
    { lastGasp := false, func := 0, port := Fin.ofNat 64 c.port, handle := handleWord s num,
      epaddr := if suDirIn a.toNat then 0x80 else 0, bytes := BitVec.ofNat 25 (suDlen a.toNat) }
  | none =>
    { lastGasp := false, func := 0, port := Fin.ofNat 64 c.port, handle := handleWord s num, epaddr := 0x81, bytes := 2 }

/-- One waiting request: it is posted while PF0's share has room and its device is there, and waits on while the share
is full (R15, R223). -/
def postRequest (r : Nat × Option U64) (s : State) : State :=
  match ctx? s r.1 0 false with
  | none => s
  | some c =>
    if shareFull s 0 then { s with front := { s.front with requests := s.front.requests ++ [r] } }
    else postWork (requestBody s r.1 c r.2) 0 r.2 r.2.isNone s

/-- Posts the waiting requests, oldest first. -/
def postRequests (s : State) : State :=
  each s.front.requests postRequest { s with front := { s.front with requests := [] } }

/-- Asks for work of the part's own on a device (R15): management work at level 6, in PF0's share. -/
def askWork (num : Nat) (setup : Option U64) (s : State) : State :=
  postRequests { s with front := { s.front with requests := s.front.requests ++ [(num, setup)] } }

/-- Asks for a control request to a device (R15, R101). -/
def request (num code byte1 arg0 arg1 dlen : Nat) (s : State) : State :=
  askWork num (some (BitVec.ofNat 64 (setupData code byte1 arg0 arg1 dlen))) s

/-- Requests to a device that have not left the dispatcher are dropped; one on the wire ends with its transaction. -/
def dropRequests (num : Nat) (s : State) : State :=
  let s := { s with front := { s.front with requests := s.front.requests.filter fun r => r.1 != num } }
  each (itemsWhere s fun x => isOwn x && (match x.posted with | some b => field b.handle 0 12 == num | none => false))
    (stopItem stDeviceGone) s

/-- Releases an item's completion to its CR; an item that the firmware posted is simply freed (R300). -/
def releaseItem (i : Nat) (s : State) : State :=
  match item? s i with
  | none => s
  | some x =>
    if releasable s i x then
      let s := flowOut x.flow s
      if x.posted.isSome then postRequests (answerWaiters (freeItem i s))
      else postRequests (answerWaiters (crPut x.func (sqCr s x.func x.sq) (recordOf s i x) x.sq (some x.index) s))
    else s

/-! ### Creating, destroying and reading queues -/

/-- Ends the operation of `Q.CMD` with a result. -/
def qResult (f r : Nat) (s : State) : State :=
  modFn f (fun x => { x with busy := false, op := 0, result := BitVec.ofNat 3 r }) s

/-- The number that `Q.SEL` names, and whether it names a CR. -/
def selNum (x : Func) : Nat := field x.qSel 0 12
def selCr (x : Func) : Bool := bit x.qSel 12

/-- RESULT of CREATE, 0 for DONE (R258, R319, R426). -/
def createResult (s : State) (f : Nat) : Nat :=
  let x := fn s f
  let n := selNum x
  if !x.created then 2
  else if x.halted then 7
  else if selCr x then
    if x.nCr ≤ n then 2
    else if (cr s f n).created then 3
    else if cfgLog2 x.qCfgCr < 4 || x.nVec ≤ cfgVector x.qCfgCr then 1
    else 0
  else
    let c := x.qCfgSq
    if x.nSq ≤ n then 2
    else if (sq s f n).created then 3
    else if cfgLog2 c < 4 || 5 < cfgPrio c || cfgWeight c = 0 || (cfgMaint c && (f != 0 || cfgTimed c)) then 1
    else if x.nCr ≤ cfgCr c || !(cr s f (cfgCr c)).created then 6
    else 0

/-- CREATE: indices 0; a CR's first pass writes PHASE 1 (R258). -/
def createQueue (f : Nat) (s : State) : State :=
  let x := fn s f
  let r := createResult s f
  let s := if r = 0 then
      if selCr x then modCr f (selNum x) (fun _ => { created := true, base := x.qBase, cfg := x.qCfgCr }) s
      else modSq f (selNum x) (fun _ => { created := true, base := x.qBase, cfg := x.qCfgSq }) s
    else s
  qResult f r s

/-- RESULT of DESTROY (R259). A completion with NO_ENTRY is none of the SQ's own entries'. -/
def destroyResult (s : State) (f : Nat) : Nat :=
  let x := fn s f
  let n := selNum x
  if !x.created then 2
  else if x.halted then 7
  else if selCr x then
    if x.nCr ≤ n then 2
    else if !(cr s f n).created then 3
    else if x.sq.any (fun e => e.2.created && cfgCr e.2.cfg == n) then 5
    else if !(cr s f n).waiting.isEmpty then 4
    else 0
  else
    if x.nSq ≤ n then 2
    else if !(sq s f n).created then 3
    else if (sq s f n).c != (sq s f n).p || (s.front.items.any fun e => e.2.func == f && e.2.sq == n && e.2.posted.isNone)
        || x.cr.any (fun e => e.2.waiting.any fun w => w.sqid.toNat == n && w.flags &&& 8 == 0) then 4
    else 0

/-- DESTROY. -/
def destroyQueue (f : Nat) (s : State) : State :=
  let x := fn s f
  let r := destroyResult s f
  let s := if r = 0 then
      if selCr x then modFn f (fun y => { y with cr := tdel y.cr (selNum x) }) s
      else modFn f (fun y => { y with sq := tdel y.sq (selNum x) }) s
    else s
  qResult f r s

/-- `Q.STATE` of the selected queue. -/
def queueState (s : State) (f : Nat) : U64 :=
  let x := fn s f
  let n := selNum x
  if selCr x then
    let c := cr s f n
    BitVec.ofNat 64 (c.p.toNat + c.c.toNat * 2 ^ 16 + ofBool c.created * 2 ^ 32
      + ofBool (!c.waiting.isEmpty) * 2 ^ 35 + ofBool c.spillHalt * 2 ^ 36)
  else
    let q := sq s f n
    BitVec.ofNat 64 (q.c.toNat + q.p.toNat * 2 ^ 16 + ofBool q.created * 2 ^ 32 + ofBool q.stopped * 2 ^ 33
      + ofBool (q.created && fetchPaused s f n) * 2 ^ 34)

/-- READ: loads `Q.BASE`, `Q.CFG` and `Q.STATE` of the selected queue; works in a halted function. -/
def readQueue (f : Nat) (s : State) : State :=
  let x := fn s f
  let n := selNum x
  let made := if selCr x then (cr s f n).created else (sq s f n).created
  let r := if !x.created || (if selCr x then x.nCr ≤ n else x.nSq ≤ n) then 2 else if !made then 3 else 0
  let s := if r = 0 then
      if selCr x then
        modFn f (fun y => { y with qBase := (cr s f n).base, qCfgCr := (cr s f n).cfg, qState := queueState s f }) s
      else
        modFn f (fun y => { y with qBase := (sq s f n).base, qCfgSq := (sq s f n).cfg, qState := queueState s f }) s
    else s
  qResult f r s

/-! ### Kicks, doorbells and queue commands -/

/-- An entry has begun (R272). -/
def hasBegun (x : Item) : Bool :=
  x.status.isSome || (match x.slot with
    | .work => x.granted.isSome || x.begun
    | .timed _ => if eAxis x.raw then x.armed || x.fired else x.begun
    | .check => false)

/-- INVAL: every cached entry of the SQ that has not begun is dropped and will be fetched again, in order
(R272). -/
def invalidate (f q seen : Nat) (s : State) : State :=
  let hit := s.front.items.filter fun e => e.2.func == f && e.2.sq == q && e.2.posted.isNone && !hasBegun e.2
  let recs := hit.map fun e =>
    (e.2.index, match e.2.slot, e.2.service with
      | .timed r, some m => some (r, m)
      | _, _ => none)
  let s := each hit (fun e s => delItem (flowBack e.2.flow (dropStaged e.1 (dropFromUnit e.1 s))) e.1) s
  startReading f q seen (modSq f q (fun y => { y with inval := recs ++ y.inval, kickAt := seen }) s)

/-- A kick of an SQ with INVAL: the index is taken as from a record, then the cached entries are invalidated (R269,
R272). -/
def kickInval (f q : Nat) (v : U16) (seen : Nat) (s : State) : State :=
  let x := sq s f q
  if !x.created || (fn s f).halted || (fn s f).flrBusy then s
  else if (v - x.c).toNat ≤ cfgSize x.cfg && (x.p - x.c).toNat ≤ (v - x.c).toNat then
    invalidate f q seen (modSq f q (fun y => { y with p := v }) s)
  else badSqIndex f q s

/-- The queue's number is assigned to the function and created. -/
def sqLive (s : State) (f q : Nat) : Bool := decide (q < (fn s f).nSq) && (sq s f q).created
def crLive (s : State) (f r : Nat) : Bool := decide (r < (fn s f).nCr) && (cr s f r).created

/-- One doorbell record, read by the sweep (R267): 16 records to a block, SQ blocks first. -/
def doorbellRecord (f block i : Nat) (v : U16) (s : State) : State :=
  let sqBlocks := cdiv (fn s f).nSq 16
  if block < sqBlocks then
    if sqLive s f (16 * block + i) then acceptP f (16 * block + i) v s.front.sweepAt s else s
  else
    let r := 16 * (block - sqBlocks) + i
    if crLive s f r then acceptC f r v s.front.sweepAt s else s

/-- Applies records in order. -/
def doorbellRecords (f block : Nat) : Nat → List U32 → State → State
  | _, [], s => s
  | i, w :: r, s => doorbellRecords f block (i + 1) r (doorbellRecord f block i (w.setWidth 16) s)

/-- QUEUE_STOP (R292). -/
def queueStopCmd (ctx : CmdCtx) (q : Nat) (s : State) : State :=
  let s := begun ctx 0x60 s
  let refuse := fun r => reply ctx 0x60 (BitVec.ofNat 8 r :: zeros 15) s
  if sender ctx.chan != 0 then refuse 4
  else if !sqLive s 0 q then refuse 1
  else if (sq s 0 q).stopped then refuse 2
  else
    let hit := itemsWhere s fun x => x.func == 0 && x.sq == q && x.posted.isNone && x.status.isNone
    let s := modSq 0 q (fun y => { y with stopped := true }) s
    let s := each hit (stopItem stAbortedReset) s
    answerWaiters { s with front := { s.front with stops := s.front.stops ++ [(ctx, hit, q, hit.length)] } }

/-- QUEUE_START (R292): reading goes on behind the entries that were fetched before (log 159). -/
def queueStartCmd (ctx : CmdCtx) (q : Nat) (s : State) : State :=
  let s := begun ctx 0x61 s
  let refuse := fun r => reply ctx 0x61 (BitVec.ofNat 8 r :: zeros 15) s
  if sender ctx.chan != 0 then refuse 4
  else if !sqLive s 0 q then refuse 1
  else if !(sq s 0 q).stopped then refuse 3
  else
    let s := modSq 0 q (fun y => { y with stopped := false, seenAt := [] }) s
    let s := startReading 0 q (absUframe s) s
    reply ctx 0x61 (queueReply s 0 0 q) s

end Sys2Proof.Machine
end

