-- ==== Sys2Proof/Machine/Dma.lean ====
section
/-! DEFINITION. The DMA engine and the endpoint buffer memory (R294 to R317). A burst moves in one step, whole or cut
at the end of the beat at which a request of a lower class pre-empts it (R302; log 106). -/

namespace Sys2Proof.Machine

/-! ### Where bytes lie -/

/-- The table key of a channel's context. -/
def ctxOf (ch : Nat) (timed : Bool) : Nat := 2 * ch + ofBool timed

/-- The channel of a port and direction (R294). -/
def portChan (p : Nat) (dirIn : Bool) : Nat := 2 * p + ofBool dirIn

/-- Address in the buffer memory of byte `pos` of a transfer staged in pages used as a ring. -/
def stageAddr (pages : List Nat) (offset pos : Nat) : Nat :=
  let a := (offset + pos) % (pages.length * 4096)
  pages.getD (a / 4096) 0 * 4096 + a % 4096

/-- Every service but control and bulk uses the TIMED context; so does last-gasp service (R295). -/
def itemTimed (x : Item) : Bool :=
  (match x.slot with | .timed _ => true | _ => false) || x.level == 7

/-- The context of an item. -/
def itemChan (x : Item) : Nat := ctxOf (portChan x.port (eDataIn x.raw)) (itemTimed x)

/-- The half in which an axis-bound entry stages before its service is known: the one that no earlier entry of its
reservation stages in (log 154). -/
def floatHalf (s : State) (x : Item) : Nat :=
  ofBool (s.front.items.any fun e => e.2.slot == x.slot && decide (e.2.flowSeq < x.flowSeq)
    && (e.2.status.isNone || !e.2.segs.isEmpty) && !e.2.pages.isEmpty && e.2.offset == 0)

/-- The endpoint of an item has dedicated pages (R308). -/
def dedicated (s : State) (x : Item) : Bool :=
  x.posted.isNone && (match ctx? s (eHandleNum x.raw) (eEp x.raw) (eDirIn x.raw) with
    | some c => !c.pages.isEmpty
    | none => false)

/-- Pages and offset that stage an item (R308 to R310): half s mod 2 of a periodic endpoint's pages, an
event endpoint's page, an endpoint's dedicated pages, the running engine's staging pages on N4 and N5, and
otherwise the holding buffer. -/
def stagePlace (s : State) (x : Item) : List Nat × Nat :=
  match x.slot with
  | .timed r =>
    match tfind s.sch.live r with
    | some g =>
      if !x.pages.isEmpty then (x.pages, x.offset)
      else if g.kind == .event then (g.pages, 0)
      else
        let n := if eAxis x.raw then floatHalf s x else x.service.getD 0 / 2 ^ g.periodK % 2
        (g.pages, n * (g.pages.length / 2) * 4096)
    | none => ([], 0)
  | _ =>
    match ctx? s (eHandleNum x.raw) (eEp x.raw) (eDirIn x.raw) with
    | some c =>
      if !c.pages.isEmpty then (c.pages, 0)
      else if serdes (port s x.port).gen then
        match x.granted with
        | some e => ([3950 + 4 * e, 3951 + 4 * e, 3952 + 4 * e, 3953 + 4 * e], 0)
        | none => ([], 0)
      else ([], 0)
    | none => ([], 0)

/-- Writes staged bytes of an item at transfer position `pos`. -/
def stageWrite (x : Item) (pos : Nat) (bytes : List Byte) (s : State) : State :=
  if x.pages.isEmpty then
    modChan (itemChan x) (fun c => { c with
      hold := (bytes.zipIdx).foldl (fun m e => mput m ((pos + e.2) % 1024) e.1) c.hold }) s
  else
    let at_ := fun k => stageAddr x.pages x.offset (pos + k)
    let words := if s.dma.bad.isEmpty then [] else
      (List.range bytes.length).map fun k => (at_ k / 4096, at_ k % 4096 / 8)
    { s with dma := { s.dma with
      bad := s.dma.bad.filter fun b => !words.contains b
      buf := (bytes.zipIdx).foldl (fun m e => mput m (at_ e.2) e.1) s.dma.buf } }

/-- Reads staged bytes of an item. -/
def stageRead (s : State) (x : Item) (pos len : Nat) : List Byte :=
  (List.range len).map fun k =>
    if x.pages.isEmpty then mget (chan s (itemChan x)).hold ((pos + k) % 1024)
    else mget s.dma.buf (stageAddr x.pages x.offset (pos + k))

/-! ### Host addresses (R303, R304) -/

/-- The host address of byte `k` of a transfer, and how many bytes follow without a break in its element;
none while the element's offset has not been read. -/
def hostSpot (x : Item) (k : Nat) : Option (Nat × Nat) :=
  if eIdx x.raw then
    match x.idx with
    | some t =>
      let n := k / max t.size 1
      match t.offsets[n]? with
      | some o => some (t.base.toNat + o + k % max t.size 1, t.size - k % max t.size 1)
      | none => none
    | none => none
  else some (eAddr x.raw + k, eLength x.raw - k)

/-- Bytes of the burst that starts at transfer byte `k`: up to the next multiple of Max_Payload_Size, the end
of the element and the end of what is there (R297). -/
def burstLen (s : State) (x : Item) (k avail : Nat) : Nat :=
  match hostSpot x k with
  | some (a, run) => min (min (s.dma.maxPayload - a % s.dma.maxPayload) run) avail
  | none => 0

/-- Byte `k` lies in the element at which a malformed table ends the transfer, or behind it (R305). -/
def atBad (x : Item) (k : Nat) : Bool :=
  match x.idx with
  | some t => eIdx x.raw && t.bad && decide (t.offsets.length ≤ k / max t.size 1)
  | none => false

/-- The item's IN data fills a burst up to the boundary, or its data has ended (R298), or a malformed element ends it. -/
def wantsIn (s : State) (x : Item) : Bool :=
  match x.segs with
  | (k, n) :: rest =>
    match hostSpot x k with
    | some (a, run) => min (s.dma.maxPayload - a % s.dma.maxPayload) run ≤ n || x.ended || !rest.isEmpty
    | none => atBad x k
  | [] => false

/-- The item heads its flow (R224). -/
def headsFlow (s : State) (x : Item) : Bool :=
  s.front.items.all fun y => y.2.flow != x.flow || x.flowSeq ≤ y.2.flowSeq || y.2.wireDone

/-- An OUT item still has bytes to read and may be read now (R299, R310): an entry bound or armed, a granted
item, or the head item of an endpoint with dedicated pages. -/
def wantsOut (s : State) (x : Item) : Bool :=
  x.status.isNone && !eDataIn x.raw && eOpcode x.raw != 0 && decide (x.asked < eLength x.raw)
    && (match x.slot with
        | .timed _ => x.service.isSome || x.armed || x.fired
        | .work => x.granted.isSome || (dedicated s x && headsFlow s x)
        | .check => false)

/-- The holding buffer of an item's context serves one transfer at a time (R295): no other one has bytes in it
(DEDUCED, log 155). -/
def holdFree (s : State) (i : Nat) (x : Item) : Bool :=
  s.front.items.all fun e => e.1 == i || itemChan e.2 != itemChan x || !e.2.pages.isEmpty
    || (e.2.segs.isEmpty && !(e.2.granted.isSome && e.2.status.isNone && decide (e.2.moved < e.2.staged)))

/-- No earlier entry of a reservation stages its data where this one would (R309). -/
def halfFree (s : State) (x : Item) : Bool :=
  s.front.items.all fun e => e.2.slot != x.slot || decide (x.flowSeq ≤ e.2.flowSeq) || e.2.status.isSome
    || (stagePlace s e.2).2 != (stagePlace s x).2

/-- The staging of an OUT item has room for a burst (R299): a service has its half to itself, a ring and the holding
buffer hold what has not gone out. -/
def outRoom (s : State) (i : Nat) (x : Item) : Bool :=
  match x.slot with
  | .timed _ => halfFree s x
  | _ =>
    let pl := (stagePlace s x).1
    if pl.isEmpty then holdFree s i x && decide (x.asked + s.dma.maxPayload ≤ x.moved + 1024)
    else decide (x.asked + s.dma.maxPayload ≤ x.moved + pl.length * 4096)

/-- The request line of a context: the item whose burst it asks for, the oldest first. -/
def requestOf (s : State) (key : Nat) : Option Nat :=
  let isIn := key / 2 % 2 == 1
  if (chan s key).reading.isSome then none
  else (s.front.items.find? fun e =>
    itemChan e.2 == key && (if isIn then wantsIn s e.2 else wantsOut s e.2 && outRoom s e.1 e.2)).map Prod.fst

/-- The port contexts with a request, as (channel, timed, item). -/
def requests (s : State) (timed : Bool) : List (Nat × Nat) :=
  (List.range 128).filterMap fun ch => (requestOf s (ctxOf ch timed)).map fun i => (ch, i)

/-- Round robin: the first channel after the one last served, in ascending order with wrap (R301). -/
def roundRobin (last : Nat) (l : List (Nat × Nat)) : Option (Nat × Nat) :=
  match l.find? fun e => last < e.1 with
  | some e => some e
  | none => l.head?

/-! ### Data lost in the buffer memory (R315) -/

/-- The status of a transfer whose staged data is lost. -/
def lostStatus (x : Item) : Byte :=
  if !eDataIn x.raw then stUnderrun
  else match x.slot with
    | .timed _ => if eEvt x.raw then stXactErr else stMissed
    | _ => stXactErr

/-- The logical page and word of a staged byte. -/
def wordAt (x : Item) (pos : Nat) : Nat × Nat :=
  let a := stageAddr x.pages x.offset pos
  (a / 4096, a % 4096 / 8)

/-- Position of the first byte of a range that lies in an uncorrectable word. -/
def firstBad (s : State) (x : Item) (pos len : Nat) : Option Nat :=
  if x.pages.isEmpty || s.dma.bad.isEmpty then none
  else (List.range len).find? fun k => s.dma.bad.contains (wordAt x (pos + k))

/-- A transfer loses staged data and ends with the status of R315. -/
def lostEnd (i : Nat) (s : State) : State :=
  match item? s i with
  | some x => finish i (lostStatus x) (modItem i (fun y => { y with segs := [], ended := true }) s)
  | none => s

/-- An uncorrectable word never leaves the buffer memory: the transfer ends at the beat before it (R315). -/
def loseData (i : Nat) (s : State) : State := raise .dma 1 (lostEnd i s)

/-- A malformed table ends the transfer: MALFORMED, and a VF halts (R305, R287). -/
def idxMalformed (i : Nat) (x : Item) (s : State) : State :=
  let s := modItem i (fun y => { y with ended := true }) s
  let s := finish i stMalformed s
  if x.func != 0 then haltFunc x.func 1 s else s

/-! ### Moving a burst -/

/-- Takes `n` bytes from the front of the staged ranges. -/
def takeSegs (n : Nat) : List (Nat × Nat) → List (Nat × Nat)
  | [] => []
  | (k, m) :: r => if m ≤ n then r else (k + n, m - n) :: r

/-- Adds a range behind the staged ranges, joining it to the last one where they touch. -/
def addSeg (k n : Nat) : List (Nat × Nat) → List (Nat × Nat)
  | [] => if n = 0 then [] else [(k, n)]
  | [(a, m)] => if a + m = k then [(a, m + n)] else if n = 0 then [(a, m)] else [(a, m), (k, n)]
  | e :: r => e :: addSeg k n r

/-- Bytes of the first `n` beats of a burst at a host address: beats end at multiples of 64 (R296). -/
def beatBytes (a n : Nat) : Nat := 64 * n - a % 64

/-- Bytes that a burst of `n` bytes moves when a request of a lower class comes in beat `cut` of it, counted from 1; with
`cut` 0, or for a burst of the lowest class, none comes, and the burst moves whole (R302). -/
def movedBytes (timed : Bool) (cut a n : Nat) : Nat := if timed || cut = 0 then n else min n (beatBytes a cut)

/-- What a context does after a burst, of which `moved` of `n` bytes went out: it is pre-empted, or armed again
(R302). -/
def afterBurst (key moved n : Nat) (s : State) : State :=
  modChan key (fun c => { c with
    state := if moved < n then .preempted else if c.state == .preempted then .armed else c.state }) s

/-- One IN burst of an item: a memory write request (R297). A pre-empted burst writes the beats moved before, and the
context keeps its position (R302). With Bus Master Enable clear the data cannot be written and the transfer ends
(R514). -/
def burstIn (key cut i : Nat) (x : Item) (s : State) : State :=
  match x.segs with
  | [] => s
  | (k, m) :: _ =>
    if !(fn s x.func).bme then lostEnd i s
    else
      match hostSpot x k with
      | none => if atBad x k then idxMalformed i x s else s
      | some (a, _) =>
        let len := burstLen s x k m
        let n := movedBytes (key % 2 == 1) cut a len
        match firstBad s x k n with
        | some b =>
          let keep := b - min b ((a + b) % 64)
          let s := hostWrite x.func a (stageRead s x k keep) s
          loseData i (modItem i (fun y => { y with drained := y.drained + keep }) s)
        | none =>
          let s := hostWrite x.func a (stageRead s x k n) s
          afterBurst key n len
            (modItem i (fun y => { y with segs := takeSegs n y.segs, drained := y.drained + n }) s)

/-- One OUT burst: a memory read request (R297), or DATA_UNDERRUN while the function may not read (R514). A request that
is issued is not withdrawn: a pre-empted context waits for its data all the same (R302). -/
def burstOut (key cut i : Nat) (x : Item) (s : State) : State :=
  if !(fn s x.func).bme then finish i stUnderrun s
  else
    match hostSpot x x.asked with
    | none => if atBad x x.asked then idxMalformed i x s else s
    | some (a, _) =>
      let n := burstLen s x x.asked (eLength x.raw - x.asked)
      let pl := stagePlace s x
      let s := emit (.hostRead x.func a n) s
      let s := modItem i (fun y => { y with asked := y.asked + n, pages := pl.1, offset := pl.2 }) s
      modChan key (fun c => { c with
        reading := some (i, n)
        state := if movedBytes (key % 2 == 1) cut a n < n then .preempted else .moving }) s

/-- The context may move: it is armed, or it reads ahead for an entry that is bound or armed, or for the endpoint's
dedicated pages (R295, R299, R310). -/
def mayMove (s : State) (key i : Nat) : Bool :=
  (chan s key).state != .idle || (match item? s i with
    | some x => !eDataIn x.raw && ((match x.slot with | .timed _ => true | _ => false) || dedicated s x)
    | none => false)

/-- The requests of contexts that may move. -/
def movable (s : State) (timed : Bool) : List (Nat × Nat) :=
  (requests s timed).filter fun e => mayMove s (ctxOf e.1 timed) e.2

/-- The burst that goes on or starts: in its class a pre-empted one resumes, else the turn is round robin (R301, R302). -/
def nextBurst (s : State) (timed : Bool) : Option (Nat × Nat) :=
  match (movable s timed).find? fun e => (chan s (ctxOf e.1 timed)).state == .preempted with
  | some e => some e
  | none => roundRobin (tget 143 s.dma.lastServed (if timed then 0 else 2)) (movable s timed)

/-- Arbitrates the request lines and moves one burst, or its beats up to beat `cut`: the lowest class first, round robin
within it, TIMED before GENERAL on one channel (R301, R302). A context that is not armed moves nothing (R295). -/
def dmaServe (cut : Nat) (s : State) : State :=
  let timed := !(movable s true).isEmpty
  let cls := if timed then 0 else 2
  match nextBurst s timed with
  | none => s
  | some (ch, i) =>
    let s := { s with
      dma := { s.dma with lastServed := tput s.dma.lastServed cls ch }, pwr := { s.pwr with moved := true } }
    match item? s i with
    | none => s
    | some x => if eDataIn x.raw then burstIn (ctxOf ch timed) cut i x s else burstOut (ctxOf ch timed) cut i x s

/-- A read completes (R299, R280): the data is staged, or the read failed and the OUT transfer ends at
once. Data of a transfer that has ended, or that is to be read again, goes nowhere. -/
def readDone (key : Nat) (ok : Bool) (data : List Byte) (s : State) : State :=
  match (chan s key).reading with
  | none => s
  | some (i, n) =>
    let old := (chan s key).stale
    let s := modChan key (fun c => { c with
      reading := none, stale := false, state := if c.work == .none_ then .idle else .armed }) s
    match item? s i with
    | none => s
    | some x =>
      if old || x.status.isSome then s
      else if !ok || data.length != n then finish i stUnderrun s
      else
        let s := stageWrite x x.staged data s
        modItem i (fun y => { y with staged := y.staged + n }) s

/-! ### Index tables (R305) -/

/-- n_i of the last element. -/
def lastElem (x : Item) (size : Nat) : Nat := eLength x.raw - (eIdxCount x.raw - 1) * size

/-- The header is good: reserved fields 0, ELEM_SIZE in range, the last element 1 to ELEM_SIZE. -/
def idxHeaderOk (x : Item) (h : List Byte) : Bool :=
  let size := leNat ((h.drop 8).take 4)
  h.length == 16 && leNat (h.drop 12) == 0 && 1 ≤ size && size ≤ 16777216
    && (eIdxCount x.raw - 1) * size < eLength x.raw && lastElem x size ≤ size

/-- The offsets of a window of elements. -/
def idxOffsets : Nat → List Byte → List Nat
  | 0, _ => []
  | n + 1, l => if l.length < 4 then [] else leNat (l.take 4) :: idxOffsets n (l.drop 4)

/-- The bytes of element `n`: n_last for the last one (R304). -/
def elemBytes (x : Item) (size n : Nat) : Nat := if n + 1 = eIdxCount x.raw then lastElem x size else size

/-- The offsets of a window from element `first` on, up to the first element that extends past the address space. -/
def idxFits (x : Item) (base size first : Nat) (os : List Nat) : List Nat :=
  ((os.zipIdx first).takeWhile fun o => decide (base + o.1 + elemBytes x size o.2 ≤ 2 ^ 64)).map Prod.fst

/-- Asks for the window of an index table from element `n` on, if there is one; a table that may not be read ends the
transfer as lost data does (R305, R514). -/
def askWindow (i n : Nat) (s : State) : State :=
  match item? s i with
  | some x =>
    if eIdxCount x.raw ≤ n then s
    else if (fn s x.func).bme then
      emit (.hostRead x.func (eAddr x.raw + 16 + 4 * n) (4 * min 64 (eIdxCount x.raw - n))) s
    else lostEnd i s
  | none => s

/-- A window of a table is taken: its elements up to a malformed one, at which the transfer ends; with all of them sound
the next window is asked for (R305). A table whose first element is malformed ends it at once. -/
def takeWindow (i : Nat) (x : Item) (d : IdxState) (os : List Nat) (s : State) : State :=
  let win := os.take (eIdxCount x.raw - d.offsets.length)
  let good := idxFits x d.base.toNat d.size d.offsets.length win
  let d' : IdxState := { d with offsets := d.offsets ++ good, bad := decide (good.length < win.length) }
  let s := setItem s i { x with idx := some d' }
  if !d'.bad then askWindow i (d.offsets.length + 64) s
  else if d'.offsets.isEmpty then idxMalformed i x s
  else s

/-- A window of an index table arrives: with element 0 the header comes first. A window that cannot be read ends the
transfer at its first element (R305). -/
def idxRead (i first : Nat) (ok : Bool) (bytes : List Byte) (s : State) : State :=
  match item? s i with
  | none => s
  | some x =>
    if !eIdx x.raw || x.status.isSome then s
    else if !ok && !(fn s x.func).bme then lostEnd i s
    else if first = 0 then
      if !ok || !idxHeaderOk x (bytes.take 16) then idxMalformed i x s
      else
        let base := leNat (bytes.take 8)
        let size := leNat ((bytes.drop 8).take 4)
        takeWindow i x ⟨BitVec.ofNat 64 base, size, [], false⟩ (idxOffsets 64 (bytes.drop 16)) s
    else
      match x.idx with
      | some d =>
        if d.offsets.length != first || d.bad then s
        else if !ok then setItem s i { x with idx := some { d with bad := true } }
        else takeWindow i x d (idxOffsets 64 bytes) s
      | none => s

/-! ### Pages -/

/-- The pool pages that satisfy a test, ascending. -/
def pagesWhere (s : State) (p : Page → Bool) : List Nat := (List.range 3950).filter fun n => p (page s n)

/-- POOL_FREE. -/
def poolFree (s : State) : Nat :=
  (List.range 3950).foldl (fun a n => if (page s n).state == .free then a + 1 else a) 0

/-- The CARVED pages of a function. -/
def carvedOf (s : State) (f : Nat) : List Nat := pagesWhere s fun p => p.state == .carved && p.owner == some f

/-- Pages that accepted ADMITs have counted and that the swap has still to assign (R188). -/
def promisedPages (s : State) : List Nat :=
  (s.sch.shadow.filter fun e => (tfind s.sch.live e.1).isNone).flatMap fun e => e.2.pages

/-- A function's CARVED pages that nothing has counted (R188, R307). -/
def freeCarve (s : State) (f : Nat) : List Nat :=
  let p := promisedPages s
  (carvedOf s f).filter fun n => !p.contains n

/-- Zeroes a page's contents. -/
def zeroPage (n : Nat) (s : State) : State :=
  { s with dma := { s.dma with buf := mclear s.dma.buf (n * 4096) (n * 4096 + 4096),
                               bad := s.dma.bad.filter fun b => b.1 != n } }

/-- Assigns pages to an endpoint. -/
def assignPages (ps : List Nat) (f : Nat) (key : Nat × Nat) (s : State) : State :=
  each ps (fun n => setPage n ⟨.assigned, some f, some key⟩) s

/-- Returns pages of a function to CARVED; they are not zeroed (R313). -/
def returnPages (ps : List Nat) (s : State) : State :=
  each ps (fun n s =>
    let x := page s n
    if x.state == .assigned then setPage n ⟨.carved, x.owner, none⟩ s else s) s

/-- Moves pages to a new owner, or to the pool, through SCRUBBING (R313). -/
def scrubPages (ps : List Nat) (dst : Option Nat) (s : State) : State :=
  each ps (fun n => setPage n ⟨.scrubbing, dst, none⟩) s

/-- A page has been zeroed: CARVED to its owner, or FREE (R307). -/
def scrubbed (n : Nat) (s : State) : State :=
  let x := page s n
  if x.state == .scrubbing then
    zeroPage n (setPage n (match x.owner with | some f => ⟨.carved, some f, none⟩ | none => ⟨.free, none, none⟩) s)
  else s

/-! ### Spares (R306, R316) -/

/-- The physical page of a logical page. -/
def physOf (s : State) (n : Nat) : Nat := tget n s.dma.remap n

/-- The transfers with data staged in a page end with the statuses of R315. -/
def endStagedIn (n : Nat) (s : State) : State :=
  each (itemsWhere s fun x => x.pages.contains n && x.status.isNone && (!x.segs.isEmpty || 0 < x.staged))
    (fun i s => match item? s i with
      | some x => finish i (lostStatus x) (dropStaged i s)
      | none => s) s

/-- Retires a page: its transfers end, and it is mapped to the lowest-numbered spare, or takes a FREE pool
page or a CARVED page of its owner; otherwise SPARES_OUT (R316). -/
def retirePage (n : Nat) (s : State) : State :=
  let s := endStagedIn n s
  let swapWith := fun (m : Nat) (s : State) =>
    let pm := physOf s m
    { s with dma := { s.dma with remap := tput s.dma.remap n pm } }
  let count := fun (s : State) => { s with dma := { s.dma with
    retired := if s.dma.retired = 255 then 255 else s.dma.retired + 1 } }
  if s.dma.sparesUsed < 82 then
    let s := { s with dma := { s.dma with
      remap := tput s.dma.remap n (4014 + s.dma.sparesUsed), sparesUsed := s.dma.sparesUsed + 1 } }
    raise .dma 2 (count (zeroPage n s))
  else
    match pagesWhere s (fun p => p.state == .free) with
    | m :: _ =>
      raise .dma 2 (count (zeroPage n (setPage m ⟨.assigned, none, none⟩ (swapWith m s))))
    | [] =>
      match (match (page s n).owner with | some f => carvedOf s f | none => []) with
      | m :: _ => raise .dma 2 (count (zeroPage n (setPage m ⟨.assigned, none, none⟩ (swapWith m s))))
      | [] => raise .dma 3 s

/-! ### BUF_CARVE and BUF_RELEASE (R311) -/

/-- The reply body. -/
def bufReply (s : State) (f res n : Nat) : List Byte :=
  [BitVec.ofNat 8 res, 0] ++ natLE 2 n ++ natLE 2 (carvedOf s f).length ++ zeros 10

/-- The pages that an endpoint's dedicated staging takes (R308). -/
def dedicatedPages (c : Ctx) : Nat :=
  let b := if field c.epaddr 0 4 = 0 then 0 else c.maxBurst.toNat
  2 * cdiv ((b + 1) * c.mps.toNat) 4096

/-- The refusal of a buffer command by its sender, handle and endpoint, 0 for none. -/
def bufRefusal (s : State) (f : Nat) (h : U16) (epaddr : Byte) : Nat :=
  if !(fn s f).created then 7
  else if (fn s f).bufBusy then 6
  else if !ownsDevice s f h then 1
  else match ctx? s (field h 0 12) (field epaddr 0 4) (bit epaddr 7) with
    | some c => if c.isOpen && c.typ.toNat ≤ 1 then 0 else 2
    | none => 2

/-- BUF_CARVE: assigns pages of the function's CARVED pages to an endpoint. -/
def bufCarveCmd (ctx : CmdCtx) (h : U16) (epaddr : Byte) (s : State) : State :=
  let s := begun ctx 0x70 s
  let f := sender ctx.chan
  let key := ctxKey (field h 0 12) (field epaddr 0 4) (bit epaddr 7)
  let refuse := fun r => reply ctx 0x70 (bufReply s f r 0) s
  if bufRefusal s f h epaddr != 0 then refuse (bufRefusal s f h epaddr)
  else
    let c : Ctx := tget {} s.topo.ctx key
    let n := dedicatedPages c
    let free := freeCarve s f
    if !c.pages.isEmpty then refuse 4
    else if free.length < n then refuse 3
    else
      let ps := free.take n
      let s := assignPages ps f (field h 0 12, key) (modCtx key (fun y => { y with pages := ps }) s)
      reply ctx 0x70 (bufReply s f 0 n) s

/-- The item stages in the dedicated pages of an endpoint. -/
def epStages (h : U16) (epaddr : Byte) (x : Item) : Bool :=
  x.slot == .work && x.posted.isNone && x.flow == some ⟨h, if field epaddr 0 4 = 0 then 0 else epaddr⟩

/-- The endpoint has no granted item and its pages have drained (R311). -/
def epQuiet (s : State) (h : U16) (epaddr : Byte) : Bool :=
  s.front.items.all fun e => !(epStages h epaddr e.2) || (e.2.granted.isNone && e.2.segs.isEmpty)

/-- Completes a release: the pages return to CARVED and the reply follows. -/
def bufReleaseFinish (f : Nat) (h : U16) (epaddr : Byte) (s : State) : State :=
  let key := ctxKey (field h 0 12) (field epaddr 0 4) (bit epaddr 7)
  let c : Ctx := tget {} s.topo.ctx key
  match c.releasing with
  | some ctx =>
    if sender ctx.chan == f && epQuiet s h epaddr then
      let n := c.pages.length
      let s := each (itemsWhere s (epStages h epaddr)) unstage s
      let s := returnPages c.pages (modCtx key (fun y => { y with pages := [], releasing := none }) s)
      let s := modFn f (fun x => { x with bufBusy := false }) s
      reply ctx 0x71 (bufReply s f 0 n) s
    else s
  | none => s

/-- BUF_RELEASE. -/
def bufReleaseCmd (ctx : CmdCtx) (h : U16) (epaddr : Byte) (s : State) : State :=
  let s := begun ctx 0x71 s
  let f := sender ctx.chan
  let key := ctxKey (field h 0 12) (field epaddr 0 4) (bit epaddr 7)
  let refuse := fun r => reply ctx 0x71 (bufReply s f r 0) s
  if bufRefusal s f h epaddr != 0 then refuse (bufRefusal s f h epaddr)
  else
    let c : Ctx := tget {} s.topo.ctx key
    if c.pages.isEmpty || c.releasing.isSome then refuse 5
    else
      let s := modFn f (fun x => { x with bufBusy := true }) s
      bufReleaseFinish f h epaddr (modCtx key (fun y => { y with releasing := some ctx }) s)

end Sys2Proof.Machine
end

