-- ==== Sys2Proof/Machine/Packet.lean ====
section
/-! DEFINITION. Noraz packets: the header of R49 and R50 with its check fields, the check codes of R54 and R55,
the durations of R56 and the timing constants of R57 and R176. Times are in units of 0.1 ns. -/

namespace Sys2Proof.Machine

/-! ### Check codes -/

/-- One bit of a reflected CRC. -/
def crcBit {w : Nat} (poly r : BitVec w) : BitVec w := if r.getLsbD 0 then (r >>> 1) ^^^ poly else r >>> 1

/-- One byte of a reflected CRC, least significant bit first. -/
def crcByte {w : Nat} (poly r : BitVec w) (b : Byte) : BitVec w :=
  (List.range 8).foldl (fun r _ => crcBit poly r) (r ^^^ b.setWidth w)

/-- A reflected CRC over bytes in wire order. -/
def crc {w : Nat} (poly init out : BitVec w) (bytes : List Byte) : BitVec w :=
  bytes.foldl (crcByte poly) init ^^^ out

/-- HCRC (R54): x^8 + x^2 + x + 1, initial value 0xFF, reflected, no final XOR. -/
def hcrc (bytes : List Byte) : Byte := crc (w := 8) 0xE0 0xFF 0 bytes

/-- The CRC-16 of R55. -/
def crc16 (bytes : List Byte) : U16 := crc (w := 16) 0xA001 0xFFFF 0xFFFF bytes

/-- The CRC-32 of R55. -/
def crc32 (bytes : List Byte) : U32 := crc (w := 32) 0xEDB88320 0xFFFFFFFF 0xFFFFFFFF bytes

/-- The payload CRC of a generation as a number, 0 for an empty payload (R55). -/
def payloadCrc (g : Gen) (bytes : List Byte) : Nat :=
  if bytes.isEmpty then 0 else if serdes g then (crc32 bytes).toNat else (crc16 bytes).toNat

/-! ### Packets -/

/-- Packet types (R50). -/
inductive PType where
  | sof | usof | in_ | out | setup | splitStart | splitDone | data | ack | nak | stall | nyet | err | link
deriving DecidableEq, Repr

/-- TYPE (R50). -/
def ptypeCode : PType → Nat
  | .sof => 1 | .usof => 2 | .in_ => 3 | .out => 4 | .setup => 5 | .splitStart => 6 | .splitDone => 7 | .data => 8
  | .ack => 9 | .nak => 10 | .stall => 11 | .nyet => 12 | .err => 13 | .link => 14

/-- The generations that use a type (R50). -/
def ptypeOn (t : PType) (g : Gen) : Bool :=
  match t with
  | .usof => 2 ≤ genCode g
  | .splitStart | .splitDone | .nyet | .link => serdes g
  | _ => true

/-- An empty header. -/
def Hdr0 : Hdr := ⟨0, false, 0, 0, 0, 0, false, false, false, 0⟩

/-- Header bits 0 to 55 (R49). -/
def hdrNat (t : PType) (h : Hdr) : Nat :=
  ptypeCode t + (15 - ptypeCode t) * 2 ^ 4 + h.addr.toNat * 2 ^ 8 + ofBool h.dir * 2 ^ 15 + h.ep.toNat * 2 ^ 16
    + h.seq.toNat * 2 ^ 20 + h.len.toNat * 2 ^ 25 + h.burst.toNat * 2 ^ 36 + ofBool h.last * 2 ^ 40
    + ofBool h.retry * 2 ^ 41 + ofBool h.lgasp * 2 ^ 42 + h.tspec.toNat * 2 ^ 48

/-- The 8 header bytes (R49). -/
def hdrBytes (t : PType) (h : Hdr) : List Byte :=
  let b := natLE 7 (hdrNat t h)
  b ++ [hcrc b]

/-- A whole packet: header, and for DATA the payload and its CRC. -/
def packetBytes (g : Gen) (t : PType) (h : Hdr) (payload : List Byte) : List Byte :=
  match t with
  | .data => hdrBytes t h ++ payload ++ natLE (if serdes g then 4 else 2) (payloadCrc g payload)
  | _ => hdrBytes t h

/-- Sends a packet on a port. How its bytes stand on the line of the generation is `onLine` (R43 to R48). -/
def send (p : Nat) (t : PType) (h : Hdr) (payload : List Byte) (s : State) : State :=
  emit (.packet p (packetBytes (port s p).gen t h payload)) s

/-- Sends a LINK packet with a command code and parameter (R83). -/
def sendLink (p code param : Nat) (s : State) : State :=
  send p .link { Hdr0 with len := BitVec.ofNat 11 param, tspec := BitVec.ofNat 8 code } [] s

/-! ### Durations and timing constants, in 0.1 ns -/

/-- Bit time of the legacy generations, byte time of the others (R57). -/
def unitTime : Gen → Nat
  | .n1 => 10000 | .n2 => 1250 | .n3 => 800 | .n4 => 40 | .n5 => 8

/-- Longest duration of a packet of `c` content bytes (R56), with worst stuffing on N1 and N2. -/
def duration (g : Gen) (c : Nat) : Nat :=
  match g with
  | .n1 | .n2 => (16 + 8 * c + 8 * c / 6) * unitTime g
  | .n3 => (c + 6) * unitTime g
  | .n4 => (c + 8) * unitTime g
  | .n5 => (4 * cdiv c 4 + 16) * unitTime g

/-- K: a header-only packet (R176). -/
def costK (g : Gen) : Nat := duration g 8
/-- D(M): a DATA packet of M bytes (R176). -/
def costD (g : Gen) (m : Nat) : Nat := duration g (8 + m + if serdes g then 4 else 2)
/-- A(h): the longest wait for the start of an answer (R176). -/
def costA : Gen → Nat → Nat
  | .n1, h => 200000 + 40000 * h
  | .n2, h => 25000 + 5000 * h
  | .n3, h => 4800 + 1600 * h
  | .n4, h => 8000 + 1600 * h
  | .n5, h => 6000 + 800 * h
/-- TO: the response timeout. -/
def costTO : Gen → Nat
  | .n1 => 400000 | .n2 => 50000 | .n3 => 12800 | .n4 => 16000 | .n5 => 10000
/-- H: the longest host answer. -/
def costH : Gen → Nat
  | .n1 => 80000 | .n2 => 10000 | .n3 => 2400 | .n4 => 2000 | .n5 => 1000
/-- G: the gap between consecutive host packets. -/
def costG : Gen → Nat
  | .n1 => 40000 | .n2 => 5000 | .n3 => 1600 | .n4 => 160 | .n5 => 0
/-- Gb: the burst gap limit. -/
def costGb : Gen → Nat
  | .n4 => 2560 | .n5 => 512 | _ => 0
/-- T_x: G and 100 ns of engine issue. -/
def costTx (g : Gen) : Nat := costG g + 1000
/-- P: the park allowance, on N1 and N2 root ports. -/
def costP : Gen → Nat
  | .n1 | .n2 => 160000 | _ => 0

/-- The consecutive-error limit of control and bulk (R57). -/
def errorLimit (g : Gen) : Nat := if serdes g then 4 else 3

/-- The largest payload of a generation (R42). -/
def maxPayload : Gen → Nat
  | .n1 => 32 | .n2 => 64 | .n3 => 512 | _ => 1024

/-- The largest burst (R42). -/
def maxBurstOf : Gen → Nat
  | .n4 => 8 | .n5 => 16 | _ => 1

/-- The sequence modulus (R59). -/
def seqMod (g : Gen) : Nat := if serdes g then 32 else 2

/-- The sequence `n` after `q` (R59). -/
def seqAdd (g : Gen) (q : BitVec 5) (n : Nat) : BitVec 5 := BitVec.ofNat 5 ((q.toNat + n) % seqMod g)

/-- Distance from `a` to `b`, modulo the sequence space. -/
def seqDist (g : Gen) (a b : BitVec 5) : Nat := (b.toNat + seqMod g - a.toNat % seqMod g) % seqMod g

/-- A received sequence is a duplicate of what came before `e` (R59). -/
def isDup (g : Gen) (e q : BitVec 5) : Bool :=
  if serdes g then 16 ≤ seqDist g e q else seqDist g e q = 1

end Sys2Proof.Machine
end

