-- ==== Sys2Proof/Machine/Tree.lean ====
section
/-! DEFINITION. Trees: paths, wire addresses, handle numbers, report records, containment domains and teardown
(R89 to R96, R118 to R120, R134, R330 to R339, R464, R465). -/

namespace Sys2Proof.Machine

/-! ### Places -/

/-- The hub that holds a handle number. -/
def hub? (s : State) (h : Nat) : Option Device := (dev? s h).bind fun d => if d.isHub then some d else none

/-- The root port of a place. -/
def locPort (s : State) : Loc → Nat
  | .root p => p.val
  | .hub h _ => match dev? s h.val with | some d => d.port | none => 0

/-- The hub ports on the way down to a place. -/
def locPath (s : State) : Loc → List Nat
  | .root _ => []
  | .hub h q => match dev? s h.val with | some d => d.path ++ [q.val] | none => [q.val]

/-- The place exists: a root port, or a port that its live hub has. -/
def locExists (s : State) : Loc → Bool
  | .root _ => true
  | .hub h q => match hub? s h.val with
    | some d => decide (1 ≤ q.val ∧ q.val ≤ hubPortsOf d.hubDesc)
    | none => false

def hubPort (s : State) (h q : Nat) : HubPort :=
  match dev? s h with
  | some d => tget {} d.hubPorts q
  | none => {}
def modHubPort (h q : Nat) (g : HubPort → HubPort) (s : State) : State :=
  modDev h (fun d => { d with hubPorts := tput d.hubPorts q (g (tget {} d.hubPorts q)) }) s

/-- The device lies at or below a place. -/
def atOrBelow (s : State) (at_ : Loc) (d : Device) : Bool :=
  d.port == locPort s at_ && (locPath s at_).isPrefixOf d.path

/-- The handle numbers at or below a place, deepest tier first. -/
def subtree (s : State) (at_ : Loc) : List Nat :=
  [6, 5, 4, 3, 2, 1].flatMap fun t =>
    (s.topo.dev.filter fun e => e.2.tier == t && atOrBelow s at_ e.2).map Prod.fst

/-- Wire addresses in use in a tree. -/
def addrsOf (s : State) (p : Nat) : List Nat :=
  ((s.topo.dev.filter fun e => e.2.port == p).map fun e => e.2.waddr)
    ++ (match (port s p).enum with | some e => if e.again then [] else [e.waddr] | none => [])

/-- The lowest free wire address of a tree (R90). -/
def freeAddr (s : State) (p : Nat) : Option Nat :=
  ((List.range 127).map (· + 1)).find? fun a => !(addrsOf s p).contains a

/-- The device or hub directly at a place. -/
def devAt (s : State) (at_ : Loc) : Option (Nat × Device) := s.topo.dev.find? fun e => e.2.loc == at_

/-- The generation at which a place runs. -/
def locGen (s : State) : Loc → Gen
  | .root p => (port s p.val).gen
  | .hub h q => (hubPort s h.val q.val).gen

/-- A request to a hub, about its port `q` (R101): those that read a status have a data stage of 4 B. -/
def hubRequest (h code byte1 arg0 q : Nat) (s : State) : State :=
  match dev? s h with
  | some _ => request h code byte1 arg0 q (if 0x80 ≤ byte1 then 4 else 0) s
  | none => s

/-- SET-PORT-FEATURE and CLEAR-PORT-FEATURE (R104). -/
def setFeature (h feature q : Nat) (s : State) : State := hubRequest h 0x22 0x06 feature q s
def clearFeature (h feature q : Nat) (s : State) : State := hubRequest h 0x23 0x06 feature q s
def clearTt (h q : Nat) (s : State) : State := hubRequest h 0x24 0x06 0 q s

/-! ### Reports -/

/-- Queues a report record, stamped now; a PORT_EVENT that repeats a waiting one is not queued again
(R120, R464). -/
def addReport (r : Report) (s : State) : State :=
  if r.kind == 3 && s.topo.reports.any (fun x => x.kind == 3 && x.port == r.port && x.event == r.event) then s
  else
    { s with topo := { s.topo with
      reports := s.topo.reports ++ [{ r with epoch := s.tb.epoch.toNat, pos := posNow s }] } }

/-- The bit of `PORT[n].EVT` that a record other than a PORT_EVENT raises; its code is one more (R120, R121). -/
def reportBit (kind : Nat) : Nat := match kind with | 1 | 4 => 0 | 2 | 5 => 1 | _ => 2

/-- Queues a record of a device or of a finished reset and raises its event (R121). -/
def addRecord (r : Report) (s : State) : State :=
  raisePort r.port (reportBit r.kind) (addReport { r with event := reportBit r.kind + 1 } s)

/-- Raises a port event and reports it with its code (R121). DESIGN CHOICE: the GEN byte of such a record, for which the
manual gives no value, is 0 (log 103). -/
def portEvent (p b : Nat) (s : State) : State := raisePort p b (addReport { kind := 3, port := p, event := b + 1 } s)

/-- The record of a device or hub. -/
def deviceReport (s : State) (kind num : Nat) (d : Device) : Report :=
  { kind := kind, gen := genCode d.gen, port := d.port, tier := d.tier, handle := handleWord s num, waddr := d.waddr,
    flags := 2 * ofBool d.reused + 4 * ofBool d.behindRepeater, path := d.path, ident := d.ident,
    eps := if d.isHub then d.hubDesc else d.eps.take 120 }

/-- The 256 bytes of a record (R120). -/
def reportBytes (r : Report) : List Byte :=
  let pad := fun (n : Nat) (l : List Byte) => (l ++ zeros n).take n
  [BitVec.ofNat 8 r.kind, BitVec.ofNat 8 r.gen, BitVec.ofNat 8 r.port, BitVec.ofNat 8 r.tier]
    ++ natLE 2 r.handle.toNat ++ [BitVec.ofNat 8 r.waddr, BitVec.ofNat 8 r.flags]
    ++ pad 5 (r.path.map (BitVec.ofNat 8)) ++ [BitVec.ofNat 8 r.event, 0, 0]
    ++ pad 32 r.ident ++ pad 120 r.eps ++ natLE 8 (r.epoch + r.pos * 2 ^ 48) ++ zeros 80

/-- Ring size: LOG2SIZE clamped to 4 to 12 (R118). -/
def ringSize (s : State) : Nat := 2 ^ min 12 (max 4 (field s.topo.ring 16 4))

/-- Records written and not consumed. -/
def ringUsed (s : State) : Nat := (s.topo.prod - s.topo.ring.setWidth 16).toNat

/-! ### Handle numbers -/

/-- Takes the number that has been free longest (R94). The spec gives neither the order of the numbers that no device
has had nor their generation: they go out in ascending order from 0, and their first use has generation 0 (DESIGN CHOICE,
log 92). -/
def takeHandle (s : State) : Option (Nat × State) :=
  match s.topo.freeHead with
  | n :: r => some (n, { s with topo := { s.topo with freeHead := r } })
  | [] =>
    if s.topo.fresh < 4096 then some (s.topo.fresh, { s with topo := { s.topo with fresh := s.topo.fresh + 1 } })
    else match s.topo.freeTail with
      | n :: r => some (n, { s with topo := { s.topo with freeTail := r } })
      | [] => none

/-- Free handle numbers. -/
def freeHandles (s : State) : Nat := s.topo.freeHead.length + (4096 - s.topo.fresh) + s.topo.freeTail.length

/-- Returns a number to the head of the free list, its generation unchanged. -/
def untakeHandle (n : Nat) (s : State) : State :=
  modHandle n (fun h => { h with use := .free })
    { s with topo := { s.topo with freeHead := n :: s.topo.freeHead } }

/-- A recorded SQ has passed: its consumer index has reached the recorded producer index, or it is no longer
created (R93). -/
def passed (s : State) (r : Nat × Nat × U16) : Bool :=
  let q := sq s r.1 r.2.1
  !q.created || decide ((q.c - r.2.2).toNat < 32768)

/-- The records of a torn-down handle: every SQ of its owner and of PF0 (R93). -/
def recordSqs (s : State) (owner : Nat) : List (Nat × Nat × U16) :=
  let of := fun f => ((fn s f).sq.filter fun e => e.2.created).map fun e => (f, e.1, e.2.p)
  if owner = 0 then of 0 else of 0 ++ of owner

/-- An SQ is destroyed or reset: it counts as passed in every record (R93). -/
def forgetSq (f q : Nat) (s : State) : State :=
  { s with topo := { s.topo with handle := s.topo.handle.map fun e =>
      (e.1, match e.2.use with
        | .waiting rec => { e.2 with use := .waiting (rec.filter fun r => !(r.1 == f && r.2.1 == q)) }
        | _ => e.2) } }

/-- Gives a number the generation after its last, for a live device, and records its owner (R94). Hubs are
recorded under no owner, so that an entry that names one is malformed (R92). -/
def enliven (n owner : Nat) (isHub : Bool) (s : State) : State :=
  modHandle n (fun h =>
    let g := h.gen + 1
    { h with gen := g, use := .live, owners := if isHub then tdel h.owners g.toNat else tput h.owners g.toNat owner }) s

/-! ### Containment domains (R336 to R339) -/

/-- The length of the prefix of a path that ends at the nearest switch-hub port. -/
def boundaryLen (s : State) (p : Nat) (path : List Nat) : Nat :=
  (List.range (path.length + 1)).foldl (fun b j =>
    if j = 0 then b
    else if s.topo.dev.any fun e => e.2.isHub && e.2.port == p && e.2.path == path.take (j - 1) && serdes e.2.gen
      then j else b) 0

/-- A device's domain: its root port and the path to the boundary. -/
def domainOf (s : State) (p : Nat) (path : List Nat) : Nat × List Nat := (p, path.take (boundaryLen s p path))

/-- The devices of a domain that have an owner, ascending by handle number. -/
def domainDevs (s : State) (k : Nat × List Nat) : List Nat :=
  (s.topo.dev.filter fun e =>
    !e.2.isHub && (handle s e.1).use == .live && domainOf s e.2.port e.2.path == k).map Prod.fst

/-- A device lies in a void domain: its domain has more than one owner (R337, R339). -/
def isVoid (s : State) (num : Nat) : Bool :=
  match dev? s num with
  | some d => (domainDevs s (domainOf s d.port d.path)).any fun m => ownerOf s m != ownerOf s num
  | none => false

/-- A function owns a device of a void domain. -/
def ownsVoid (s : State) (f : Nat) : Bool :=
  s.topo.dev.any fun e => !e.2.isHub && (handle s e.1).use == .live && ownerOf s e.1 == f && isVoid s e.1

/-- Brings ISO_VOID of every VF up to date; a change raises ISO_CHANGE (R339). -/
def refreshIso (s : State) : State :=
  each (s.fns.fn.map Prod.fst) (fun f s =>
    if f != 0 && (fn s f).isoVoid != ownsVoid s f then
      raiseVf f 2 (modFn f (fun x => { x with isoVoid := ownsVoid s f }) s)
    else s) s

/-- Handles that a function owns at their current generation (R334). -/
def ownedHandles (s : State) (f : Nat) : List Nat :=
  (s.topo.dev.filter fun e => !e.2.isHub && (handle s e.1).use == .live && ownerOf s e.1 == f).map Prod.fst

/-! ### Reservations end -/

/-- Releases the reservations that satisfy a test at the next swap (R126, R134, R346). An ADMIT of one that is not live
yet will be refused (R214). -/
def dropRes (p : Rung → Bool) (s : State) : State :=
  if s.sch.shadow.any fun e => p e.2 then
    { s with sch := { s.sch with
      shadow := s.sch.shadow.filter fun e => !p e.2, swapPend := false, compiling := true
      replies := s.sch.replies.map fun w =>
        if w.isAdmit && (match tfind s.sch.shadow w.res with | some g => p g | none => false) then { w with gone := true }
        else w } }
  else s

/-! ### Teardown -/

/-- Ends the entries and posted items of one device (R23, R126, R134). With DEVICE_GONE the lane has
stopped and they end now, and statuses decided on the wire are posted; otherwise an entry on the wire ends with its
transaction. -/
def endDevice (num : Nat) (st : Byte) (s : State) : State :=
  let hit := itemsWhere s fun x => match x.posted with
    | some b => field b.handle 0 12 == num
    | none => eOpcode x.raw != 0 && eHandle x.raw == handleWord s num && x.status.isNone
  let s := each hit (fun i s => if st == stDeviceGone then finish i st s else stopItem st i s) s
  if st == stDeviceGone then
    each (itemsWhere s fun x => x.awaitFin && (match x.posted with
      | some b => field b.handle 0 12 == num
      | none => eHandle x.raw == handleWord s num)) postItem s
  else s

/-- Gives back the dedicated pages of a context; a BUF_RELEASE that waits for them is answered (R311, R312). -/
def freeDedicated (k : Nat) (c : Ctx) (s : State) : State :=
  let s := returnPages c.pages (modCtx k (fun y => { y with pages := [], releasing := none }) s)
  match c.releasing with
  | some ctx =>
    let f := sender ctx.chan
    reply ctx 0x71 (bufReply s f 0 c.pages.length) (modFn f (fun x => { x with bufBusy := false }) s)
  | none => s

/-- Gives up the contexts of a device, with the part's own requests to it; its dedicated pages return to CARVED
(R312, R463). -/
def closeCtxs (num : Nat) (s : State) : State :=
  let s := each (s.topo.ctx.filter fun e => e.1 / 32 == num) (fun e s => freeDedicated e.1 e.2 s) (dropRequests num s)
  { s with
    topo := { s.topo with ctx := s.topo.ctx.filter fun e => e.1 / 32 != num }
    front := { s.front with resident := s.front.resident.filter fun k => k / 32 != num } }

/-- Applies a change to every context of a device. -/
def modCtxs (num : Nat) (g : Nat → Ctx → Ctx) (s : State) : State :=
  { s with topo := { s.topo with ctx := s.topo.ctx.map fun e => (e.1, if e.1 / 32 == num then g (e.1 % 32) e.2 else e.2) } }

/-- A device reset closes the device's endpoints but endpoint 0: their dedicated pages return to CARVED, and the
device keeps its contexts (R126, R312, R463). -/
def shutEps (num : Nat) (s : State) : State :=
  let s := each (s.topo.ctx.filter fun e => e.1 / 32 == num && e.1 % 32 != 0) (fun e s => freeDedicated e.1 e.2 s)
    (dropRequests num s)
  modCtxs num (fun k c => if k = 0 then c else { c with isOpen := false }) s

/-- Reset signalling has returned a device to its default state: halted marks and sequences are cleared, and what the
scripts keep is 0 (R235, R516). Endpoint 0 is back at the generation's maximum payload (R116). -/
def deviceDefault (num : Nat) (s : State) : State :=
  modCtxs num (fun k c => { c with
    halted := false, seq := 0, seqOut := 0, errcnt := 0, scriptState := []
    mps := if k = 0 then BitVec.ofNat 11 (maxPayload c.gen) else c.mps }) s

/-- Handle number of the device that an item is for. -/
def itemNum (x : Item) : Nat := match x.posted with | some b => field b.handle 0 12 | none => eHandleNum x.raw

/-- A thread's work is for a device. -/
def worksFor (s : State) (num : Nat) (t : Thread) : Bool :=
  match t.work with
  | .item i => match item? s i with | some x => itemNum x == num | none => false
  | .service r => match rungOf s r with | some g => field g.handle 0 12 == num | none => false
  | .none_ => false

/-- Ends the scripts that run for a device, without SCRIPT_FAULT (R253): the thread goes on in the microcode. -/
def endScripts (num : Nat) (s : State) : State :=
  let stop := fun (t : Thread) => if worksFor s num t then
    (match t.script with | some r => { t with script := none, pc := r.back } | none => t) else t
  { s with eng := { s.eng with eng := s.eng.eng.map fun e => (e.1, { e.2 with
      run := e.2.run.map stop, suspended := e.2.suspended.map stop, paused := e.2.paused.map stop
      parked := e.2.parked.map fun k => (k.1, { k.2 with thread := stop k.2.thread }) }) } }

/-- The ATTACH or HUB_ATTACH record of a device. -/
def attachRecord (num : Nat) (d : Device) (s : State) : State :=
  addRecord (deviceReport s (if d.isHub then 4 else 1) num d) s

/-- Tears one device or hub down: its entries end with `st`, its reservations are released, its contexts close,
its DETACH record is queued, and its handle number waits for reuse (R93, R134). A device whose ATTACH record was
withheld is reported by both records (R118). -/
def tearOne (st : Byte) (num : Nat) (s : State) : State :=
  match dev? s num with
  | none => s
  | some d =>
    let withheld := s.topo.reuse.any fun e => e.1 == num
    let s := if withheld then attachRecord num d (enliven num 0 d.isHub s) else s
    let owner := ownerOf s num
    let s := endScripts num (endDevice num st s)
    let s := dropRes (fun r => field r.handle 0 12 == num) s
    let s := closeCtxs num s
    let s := match d.tt with | some t => clearTt t.hub t.port s | none => s
    let s := addRecord (deviceReport s (if d.isHub then 5 else 2) num d) s
    let s := { s with topo := { s.topo with handle := s.topo.handle.map fun e =>
      (e.1, if e.2.lastPort == d.port && e.2.lastPath == d.path && e.2.lastIdent == d.ident then
        { e.2 with lastIdent := [] } else e.2) } }
    let s := modHandle num (fun h => { h with
      use := .waiting (recordSqs s owner), lastPort := d.port, lastPath := d.path, lastIdent := d.ident }) s
    { s with topo := { s.topo with
      dev := tdel s.topo.dev num, reuse := s.topo.reuse.filter fun e => e.1 != num } }

/-- A place lies at or below another. -/
def under (s : State) (at_ l : Loc) : Bool :=
  l == at_ || (locPort s l == locPort s at_ && (locPath s at_).isPrefixOf (locPath s l))

/-- The translator through which a place is reached (R105): the switch hub's own translator port, or the one
above a repeater. -/
def ttOf (s : State) : Loc → Option TtPath
  | .root _ => none
  | .hub h q => (dev? s h.val).bind fun d =>
    if hubIsTt d.hubDesc q.val then some ⟨h.val, d.waddr, q.val⟩ else d.tt

/-- A repeater hub stands above the place (R97). -/
def belowRepeater (s : State) : Loc → Bool
  | .root _ => false
  | .hub h _ => match dev? s h.val with | some d => !serdes d.gen || d.behindRepeater | none => false

/-- The device that an enumeration describes. -/
def enumDevice (s : State) (p : Nat) (e : Enum) : Device :=
  { loc := e.loc, port := p, tier := (locPath s e.loc).length + 1, path := locPath s e.loc, waddr := e.waddr,
    gen := locGen s e.loc, isHub := idIsHub e.ident, ident := e.ident, eps := e.eps, hubDesc := e.hubDesc,
    tt := ttOf s e.loc, behindRepeater := belowRepeater s e.loc }

/-- An enumeration at or below a place is abandoned: its number returns to the head of the free list
(R94, R134), and its translator port is cleared (R108). A device that disconnects with its identity read is reported, and
leaves with its subtree (R118, R134); one whose identity has not been read leaves no trace. The enumeration of a device
reset holds no reserved number. -/
def abandonEnum (at_ : Loc) (lost : Bool) (s : State) : State :=
  let p := locPort s at_
  let s := modPort p (fun x => { x with enumQueue := x.enumQueue.filter fun l => !under s at_ l }) s
  let s := { s with topo := { s.topo with refused := s.topo.refused.filter fun l => !under s at_ l } }
  match (port s p).enum with
  | some e =>
    if under s at_ e.loc then
      let d := enumDevice s p e
      let s := modPort p (fun x => { x with enum := none }) s
      if e.again || (dev? s e.num).isSome then s
      else if lost && !e.ident.isEmpty then attachRecord e.num d (enliven e.num 0 d.isHub (setDev s e.num d))
      else
        let s := match d.tt with | some t => clearTt t.hub t.port s | none => s
        untakeHandle e.num (closeCtxs e.num s)
    else s
  | none => s

/-- Completions that wait for the end of a reset at or below a place are let go; a disconnect makes them
DEVICE_GONE (R135). -/
def unparkAborts (at_ : Loc) (lost : Bool) (s : State) : State :=
  { s with front := { s.front with items := s.front.items.map fun e =>
      (e.1, match e.2.parked with
        | some l => if under s at_ l then { e.2 with
            parked := none
            status := if lost && e.2.status == some stPortReset then some stDeviceGone else e.2.status
            stopAs := if lost && e.2.stopAs == some stPortReset then some stDeviceGone else e.2.stopAs } else e.2
        | none => e.2) } }

/-- The place that a waiting topology command concerns. -/
def waitLoc (s : State) : TopoWait → Option Loc
  | .reset l | .suspend l | .resume l | .disable l => some l
  | .device n => (dev? s n).map fun d => d.loc

/-- The 16-byte reply of a topology command (R125). -/
def topoReply (s : State) (res : Nat) (p : Byte) (h : U16) (changed : Bool) : List Byte :=
  [BitVec.ofNat 8 res, p] ++ natLE 2 h.toNat ++ [BitVec.ofNat 8 (ofBool changed), 0, 0, 0]
    ++ natLE 4 (epoch32 s 0) ++ zeros 4

/-- Answers the waiting topology commands that satisfy a test. -/
def answerTopo (p : TopoPending → Bool) (res : Nat) (s : State) : State :=
  let hit := s.topo.waiting.filter p
  let s := { s with topo := { s.topo with waiting := s.topo.waiting.filter fun w => !p w } }
  each hit (fun w s => reply w.ctx w.code (topoReply s res w.port w.handle w.changed) s) s

/-- A disconnect abandons the resets, suspends and resumes at or below a place (R125, R135). -/
def abandonCmds (at_ : Loc) (s : State) : State :=
  let hit := fun w => match w.wait with
    | TopoWait.disable _ => false
    | x => match waitLoc s x with
      | some l => locPort s l == locPort s at_ && (locPath s at_).isPrefixOf (locPath s l)
      | none => true
  answerTopo hit 9 s

/-! ### Resets of ports (R115, R126) -/

/-- The port has its attach or reset in progress, or a device of its tree is between its reset and its address:
one device of a tree at a time (R90). -/
def treeBusy (s : State) (p : Nat) : Bool :=
  let x := port s p
  let going := fun a => [Attach.detect, .training, .signalling, .announce, .confirm, .recovery].contains a
  x.resetDue || x.resetting || going x.attach || x.enum.isSome
    || s.topo.dev.any fun e => e.2.isHub && e.2.port == p && e.2.hubPorts.any fun q => going q.2.attach

/-- The first of two places in ascending path order (R116). -/
def pathLess : List Nat → List Nat → Bool
  | [], [] => false
  | [], _ => true
  | _, [] => false
  | a :: r, b :: t => a < b || (a == b && pathLess r t)

/-- The place that comes first: the lower tier, then the lower path. -/
def firstLoc (s : State) (l : List Loc) : Option Loc :=
  l.foldl (fun best x =>
    match best with
    | none => some x
    | some b =>
      let px := locPath s x
      let pb := locPath s b
      if px.length < pb.length || (px.length == pb.length && pathLess px pb) then some x else best) none

/-- As many reports wait as the part holds: no further device is enumerated (R464). -/
def reportsFull (s : State) : Bool := 16384 ≤ s.topo.reports.length

/-- Starts the reset of a hub port: SET-PORT-FEATURE PORT_RESET, and CLEAR-TT for a translator port (R108, R115). -/
def beginHubReset (h q : Nat) (s : State) : State :=
  let s := match dev? s h with | some d => if hubIsTt d.hubDesc q then clearTt h q s else s | none => s
  let s := modHubPort h q (fun x => { x with
    attach := .signalling, resetting := true, enabled := false, suspended := false, resumeAt := none,
    resumeEnded := false, byDevice := false, coincident := false, wakeAt := none }) s
  setFeature h 2 q s

/-- Starts the next reset of the tree that waits, in ascending path order. -/
def startNext (p : Nat) (s : State) : State :=
  if (port s p).txn.isNone && !treeBusy s p && !reportsFull s then
    match firstLoc s (port s p).enumQueue with
    | some l =>
      let s := modPort p (fun x => { x with enumQueue := x.enumQueue.filter (· != l) }) s
      match l with
      | .hub h q => beginHubReset h.val q.val s
      | .root _ => s
    | none => s
  else s

/-- GEN_MAX: values 5 to 7 act as 4. -/
def genCap (x : Port) : Nat := min 4 x.genMax.toNat

/-- The port runs SerDes training in its next reset (R113, R123). -/
def serdesSide (x : Port) : Bool := decide (3 ≤ x.genUse) && x.farEnd

/-- The crossbar and the line of a port are cleared; an entry that waited for the end of its transaction ends. -/
def clearLane (p : Nat) (s : State) : State :=
  let i := match (port s p).txn with | some t => workItem s t.work | none => none
  let s := modPort p (fun x => { x with
    txn := none, ended := none, driven := false, lane := [], answer := none, heldBy := none, holdWait := [],
    window := none, sofHold := false, cmdWait := none }) s
  match i with
  | some i => match item? s i with
    | some x => match x.stopAs with | some st => finish i st s | none => s
    | none => s
  | none => s

/-- The engines' threads let go of a port; of a thread parked on it, what the line has decided is posted. -/
def unhold (p : Nat) (s : State) : State :=
  let off := fun (t : Thread) => { t with holds := t.holds.filter (· != p) }
  let works := s.eng.eng.filterMap fun e => (tfind e.2.parked p).map fun k => k.thread.work
  let s := each works (fun w s => each (openItems s w) (fun i s =>
    match item? s i with | some x => if x.awaitFin then postItem i s else s | none => s) s) s
  { s with eng := { s.eng with eng := s.eng.eng.map fun e => (e.1, { e.2 with
      run := e.2.run.map off, suspended := e.2.suspended.map off, paused := e.2.paused.map off
      parked := tdel e.2.parked p }) } }

/-- The link and the attach of a port return to their start. -/
def portIdle (x : Port) : Port :=
  { x with
    enabled := false, suspended := false, resetting := false, resuming := false, attach := .idle, link := .disabled,
    resumeAt := none, resumeEnded := false, wakeAt := none, coincident := false, byDevice := false, silence := false,
    resetDue := false, capGot := false, doneSent := false, doneGot := false,
    fromLowPower := false, rateN5 := false, trainings := 0 }

/-- Root port reset signalling begins (R115): RESET on a legacy pair, electrical idle on N4 and N5. GEN_MAX takes
effect, and a resume is dropped (R123, R135). -/
def beginRootReset (p : Nat) (s : State) : State :=
  let s := unhold p (clearLane p s)
  let s := modPort p (fun x => { portIdle x with resetting := true, attach := .signalling, genUse := genCap x }) s
  if serdesSide (port s p) then emit (.line p .idle) s else if highZ s p then s else emit (.line p .reset) s

/-- What waited for the end of the transaction in progress begins (R126). -/
def beginDue (p : Nat) (s : State) : State :=
  if (port s p).txn.isSome then s
  else if (port s p).resetDue then beginRootReset p s
  else startNext p s

/-- A root port reset is due. -/
def startRootReset (p : Nat) (s : State) : State := beginDue p (modPort p (fun x => { x with resetDue := true }) s)

/-- A hub port's reset waits for its turn. -/
def queueHub (l : Loc) (s : State) : State :=
  let p := locPort s l
  beginDue p (modPort p (fun x => { x with
    enumQueue := if x.enumQueue.contains l then x.enumQueue else x.enumQueue ++ [l] }) s)

/-- The reset of a place runs or is due. -/
def resetAt (s : State) : Loc → Bool
  | .root p => (port s p.val).resetting || (port s p.val).resetDue
  | .hub h q => (hubPort s h.val q.val).resetting || (port s (locPort s (.hub h q))).enumQueue.contains (.hub h q)

/-- Attach state of a place. -/
def locAttach (s : State) : Loc → Attach
  | .root p => (port s p.val).attach
  | .hub h q => (hubPort s h.val q.val).attach

/-- A resource has become free: the port refused first that is not being retried is reset again (R465). -/
def retryRefused (s : State) : State :=
  match s.topo.refused.find? fun l => locAttach s l == .refused with
  | some (.root p) => startRootReset p.val (modPort p.val (fun x => { x with tries := 0 }) s)
  | some (.hub h q) =>
    queueHub (.hub h q) (modHubPort h.val q.val (fun x => { x with attach := .idle, tries := 0 }) s)
  | none => s

/-! ### Places go -/

/-- The enumeration below a place that gives back a number when it is abandoned. -/
def enumHolds (s : State) (at_ : Loc) (lost : Bool) : Bool :=
  match (port s (locPort s at_)).enum with
  | some e => under s at_ e.loc && !e.again && (dev? s e.num).isNone && !(lost && !e.ident.isEmpty)
  | none => false

/-- Tears down everything at or below a place, deepest first (R134). Each device that goes frees resources, and so does
an enumeration that is abandoned (R96, R465). -/
def tearDown (at_ : Loc) (st : Byte) (s : State) : State :=
  let lost := st == stDeviceGone
  let held := enumHolds s at_ lost
  let s := abandonEnum at_ lost (unparkAborts at_ lost s)
  let ds := subtree s at_
  let s := refreshIso (each ds (tearOne st) s)
  let s := if held then retryRefused s else s
  each ds (fun _ => retryRefused) s

/-- The port is no longer enabled; its link goes to DISABLED. -/
def portOff (p : Nat) (s : State) : State :=
  modPort p (fun x => { portIdle x with commanded := false, tries := 0 }) (unhold p (clearLane p s))

/-- A root port's tree leaves with a status, and the port is disabled (R23, R24, R134). -/
def portGone (p : Nat) (st : Byte) (s : State) : State :=
  if h : p < 64 then
    let at_ : Loc := .root ⟨p, h⟩
    emit (.line p .idle) (portOff p (tearDown at_ st (abandonCmds at_ s)))
  else s

/-- A hub port's subtree leaves, and what the port had in progress is abandoned. -/
def hubPortGone (h q : Nat) (st : Byte) (s : State) : State :=
  if g : h < 4096 then if k : q < 16 then
    let at_ : Loc := .hub ⟨h, g⟩ ⟨q, k⟩
    let p := locPort s at_
    let s := tearDown at_ st (abandonCmds at_ s)
    startNext p (modHubPort h q (fun x => { x with
      enabled := false, suspended := false, resetting := false, attach := .idle, tries := 0, commanded := false,
      resumeAt := none, resumeEnded := false, byDevice := false, coincident := false, wakeAt := none }) s)
  else s else s

/-- A place leaves. -/
def locGone (at_ : Loc) (st : Byte) (s : State) : State :=
  match at_ with
  | .root p => portGone p.val st s
  | .hub h q => hubPortGone h.val q.val st s

/-- Babble at the host boundary: the port is torn down, BABBLE_DISABLE is raised and BABBLE_DIS set (R82). -/
def babbleDisable (p : Nat) (s : State) : State :=
  modPort p (fun x => { x with babbleDis := true, admin := false }) (portEvent p 11 (portGone p stDeviceGone s))

end Sys2Proof.Machine
end

