-- ==== Sys2Proof/Machine/Admission.lean ====
section
/-! DEFINITION. Periodic admission: the costs of R176 to R185, the checks of R30, the placement of R192, and the
commands ADMIT, RELEASE and QUERY (R169 to R214, R517). Costs are in units of 0.1 ns, engine charges in
cycles, and charges stand at offsets in microframes from a service's start. -/

namespace Sys2Proof.Machine

/-! ### Costs -/

/-- The burst sizes of `n` packets in bursts of at most `b` (R177). -/
def burstSizes (b : Nat) : Nat → Nat → List Nat
  | 0, _ => []
  | _ + 1, 0 => []
  | k + 1, n => min b n :: burstSizes b k (n - min b n)

/-- The transactions of a periodic service, each with its cost (R177); `p` is the park allowance. -/
def txCosts (g : Gen) (dirIn : Bool) (n m maxBurst h p : Nat) : List Nat :=
  if serdes g then
    (burstSizes (min (maxBurst + 1) (maxBurstOf g)) n n).map fun b =>
      if dirIn then costK g + costA g h + b * costD g m + (b - 1) * costGb g + costTx g
      else costK g + b * (costG g + costD g m) + costTx g
  else
    List.replicate n
      (if dirIn then costK g + costA g h + costD g m + costTx g + p else costK g + costG g + costD g m + costTx g + p)

/-- One attempt of an event reservation (R178). -/
def attemptCost (g : Gen) (dirIn : Bool) (m h p : Nat) : Nat :=
  if dirIn then costK g + max (costA g h + costD g m + costH g + costK g) (costTO g) + costTx g + p
  else costK g + costG g + costD g m + max (costA g h + costK g) (costTO g) + costTx g + p

/-- X, the longest non-periodic transaction (R179). -/
def longestX : Gen → Nat
  | .n3 => 462600 | .n4 => 372440 | .n5 => 154720 | _ => 0

/-- The costs of a split on the root link in units k, k + 2 and k + 3 (R180). -/
def splitCosts (g : Gen) (event dirIn : Bool) (m h : Nat) : Nat × Nat × Nat :=
  let done := costK g + costA g h + costD g m + costTx g
  match event, dirIn with
  | false, true => (costK g + costTx g, done, done)
  | false, false => (costK g + costG g + costD g m + costTx g, 0, 0)
  | true, true =>
    let d := costK g + max (costA g h + costD g m + costH g + costK g) (costTO g) + costTx g
    (costK g + max (costA g h + costK g) (costTO g) + costTx g, d, d)
  | true, false =>
    let d := costK g + max (costA g h + costK g) (costTO g) + costTx g
    (costK g + costG g + costD g m + max (costA g h + costK g) (costTO g) + costTx g, d, d)

/-- Microframes in the schedule unit of a generation (R171). -/
def unitLen (g : Gen) : Nat := if genCode g ≤ 1 then 8 else 1

/-- The schedule unit of a generation (R171). -/
def unitNs (g : Gen) : Nat := if genCode g ≤ 1 then 9400000 else 1175000

/-- The script bound to an entry's device. -/
def rungScript (s : State) (r : Rung) : Option Script := tfind s.eng.scripts r.script

/-- WC_LINE_NS and WC_CYCLES of an entry (R246). -/
def wcLine (s : State) (r : Rung) : Nat := match rungScript s r with | some c => 10 * c.wcLineNs | none => 0
def wcCycles (s : State) (r : Rung) : Nat := match rungScript s r with | some c => c.wcCycles | none => 0

/-- Hub tier of the translator hub of a split. -/
def ttTier (s : State) (r : Rung) : Nat :=
  match r.tt with
  | some t => match dev? s t.hub with | some d => d.tier | none => 1
  | none => 0

/-- An entry parks on its root port (R184). -/
def rungParks (r : Rung) : Bool := !r.split && genCode r.gen ≤ 1

/-- The transactions of one service on the root link, each with its cost; a split's are its tokens. -/
def rungTxs (s : State) (r : Rung) : List Nat :=
  if r.split then
    let c := splitCosts (port s r.port).gen (r.kind == .event) r.dirIn r.mps (ttTier s r - 1)
    [c.1, c.2.1, c.2.2].filter (0 < ·)
  else match r.kind with
    | .event =>
      let a := attemptCost r.gen r.dirIn r.mps r.hubTiers (costP r.gen)
      [a, a]
    | _ => txCosts r.gen r.dirIn r.packets r.mps r.maxBurst r.hubTiers (costP r.gen)

/-- The tokens of a split service: offset in microframes and cost (R180, R181). A service of n packets starts
n splits. -/
def splitTokens (s : State) (r : Rung) : List (Nat × Nat) :=
  let u := unitLen r.gen
  let c := splitCosts (port s r.port).gen (r.kind == .event) r.dirIn r.mps (ttTier s r - 1)
  let one := if r.kind == .event
    then [(0, c.1), (2 * u, c.2.1), (3 * u, c.2.2), (2 * u, c.1), (4 * u, c.2.1), (5 * u, c.2.2)]
    else if r.dirIn then [(0, c.1), (2 * u, c.2.1), (3 * u, c.2.2)] else [(0, c.1)]
  (List.replicate r.packets one).flatten

/-- Root-link charges of one service: offset and cost. -/
def rootCharges (s : State) (r : Rung) : List (Nat × Nat) :=
  if r.split then splitTokens s r else [(0, (rungTxs s r).foldl (· + ·) 0 + wcLine s r)]

/-- C_root (R190). -/
def rootCost (s : State) (r : Rung) : Nat := (rootCharges s r).foldl (fun a e => a + e.2) 0

/-- Engine cycles of one charge (R184): `c` in units of 0.1 ns. -/
def cyclesOf (s : State) (r : Rung) (c : Nat) : Nat := 150 + cdiv (8 * c) 100 + wcCycles s r

/-- Engine charges of one service: offset and cycles (R184). -/
def engCharges (s : State) (r : Rung) : List (Nat × Nat) :=
  if rungParks r then
    let c := 150 + 60 * (rungTxs s r).length + wcCycles s r
    (List.range (min (cdiv (rootCost s r) 1175000 + 1) (2 ^ r.periodK))).map fun o => (o, c)
  else (rootCharges s r).map fun e => (e.1, cyclesOf s r e.2)

/-- ENG_CYC (R194, R211). -/
def engCycOf (s : State) (r : Rung) : Nat :=
  if rungParks r then 150 + 60 * (rungTxs s r).length + wcCycles s r
  else (engCharges s r).foldl (fun a e => a + e.2) 0

/-- LINK_NS: the root-link cost per service, rounded up (R194). -/
def linkNsOf (s : State) (r : Rung) : Nat := cdiv (rootCost s r) 10

/-! ### Loads -/

/-- What a list of charges adds in microframe `m`. -/
def chargeAt (r : Rung) (l : List (Nat × Nat)) (m : Nat) : Nat :=
  l.foldl (fun a e => if (m + 64 * 2 ^ r.periodK - r.phase - e.1) % 2 ^ r.periodK = 0 then a + e.2 else a) 0

/-- Root-link load of port `p` in microframe `m`. -/
def rootLoad (s : State) (es : List Rung) (p m : Nat) : Nat :=
  es.foldl (fun a r => if r.port = p then a + chargeAt r (rootCharges s r) m else a) 0

/-- Engine charge of an entry in microframe `m`. -/
def engLoad (s : State) (r : Rung) (m : Nat) : Nat := chargeAt r (engCharges s r) m

/-- One cycle of the longest period class of a set of entries (R192). -/
def cycleLen (es : List Rung) : Nat := es.foldl (fun a r => max a (2 ^ r.periodK)) 1

/-- The device of an entry. -/
def rungDev (s : State) (r : Rung) : Option Device := dev? s (field r.handle 0 12)

/-- The SerDes segments below switch-hub ports on an entry's path, each as the path to it (R172). A split's
path ends at its translator hub. -/
def rungSegs (s : State) (r : Rung) : List (List Nat) :=
  match rungDev s r with
  | none => []
  | some d =>
    let whole := if r.split then d.path.take (ttTier s r - 1) else d.path
    (List.range whole.length).filterMap fun j =>
      if s.topo.dev.any fun e => e.2.isHub && e.2.port == r.port && e.2.path == whole.take j && serdes e.2.gen
      then some (whole.take (j + 1)) else none

/-- Load of a SerDes segment. -/
def segLoad (s : State) (es : List Rung) (p : Nat) (seg : List Nat) (m : Nat) : Nat :=
  es.foldl (fun a r => if r.port = p && (rungSegs s r).contains seg then a + chargeAt r (rootCharges s r) m else a) 0

/-- Translator charges of a split service: offset and cost of the downstream transactions, in the units
k + 1, and k + 3 for a second attempt (R182). -/
def ttCharges (s : State) (r : Rung) : List (Nat × Nat) :=
  let u := unitLen r.gen
  let h := r.hubTiers - ttTier s r
  if r.kind == .event then
    let a := attemptCost r.gen r.dirIn r.mps h 0
    [(u, a), (3 * u, a)]
  else [(u, (txCosts r.gen r.dirIn r.packets r.mps 0 h 0).foldl (· + ·) 0)]

/-- Offsets of the units in which a split holds a buffer, from start to last done (R183). -/
def ttHolds (r : Rung) : List Nat :=
  let n := if r.kind == .event then 6 else if r.dirIn then 4 else 2
  (List.range n).map (· * unitLen r.gen)

/-- Two entries use one translator port. -/
def sameTt (a b : Rung) : Bool :=
  match a.tt, b.tt with
  | some x, some y => a.split && b.split && x.hub == y.hub && x.port == y.port
  | _, _ => false

/-- Translator load in the unit that begins at microframe `m`: charges that fall anywhere in the unit. -/
def ttLoad (s : State) (es : List Rung) (r : Rung) (m : Nat) : Nat :=
  let u := unitLen r.gen
  es.foldl (fun a e => if sameTt e r then
    a + (List.range u).foldl (fun b i => b + chargeAt e (ttCharges s e) (m / u * u + i)) 0 else a) 0

/-- Buffers held on a translator port in the unit that begins at microframe `m`. -/
def ttHeld (es : List Rung) (r : Rung) (m : Nat) : Nat :=
  let u := unitLen r.gen
  es.foldl (fun a e => if sameTt e r then
    a + (List.range u).foldl (fun b i => b + chargeAt e ((ttHolds e).map fun o => (o, e.packets)) (m / u * u + i)) 0
    else a) 0

/-- TT_BUFFERS of an entry's translator. -/
def ttBuffers (s : State) (r : Rung) : Nat :=
  match r.tt with
  | some t => match dev? s t.hub with | some d => hubTtBuffers d.hubDesc | none => 0
  | none => 0

/-- The periodic share of a root port and its tree, in percent (R175). -/
def capOf (s : State) (p : Nat) : Nat := min 80 (field (tget (0x50 : U32) s.sch.cap p) 0 7)

/-! ### Engines (R184 to R187) -/

/-- The ceiling of R184. -/
def engCeiling : Nat := 79900

/-- Microframes of one cycle in which an entry is charged on its engine. -/
def engMarks (s : State) (n : Nat) (r : Rung) : List Nat := (List.range n).filter fun m => 0 < engLoad s r m

/-- The longest transaction of an entry. -/
def longestTx (s : State) (r : Rung) : Nat := (rungTxs s r).foldl max 0

/-- Two entries may not stand on one engine: a periodic transaction over 16,000 ns in a microframe in which
the other parks (R185), or one longer than X beside a floating entry (R204). -/
def clash (s : State) (n : Nat) (a b : Rung) : Bool :=
  let parkClash := fun x y => rungParks x && !rungParks y && 160000 < longestTx s y
    && (List.range n).any fun m => 0 < engLoad s x m && 0 < engLoad s y m
  let floatClash := fun x y => x.kind == .float && longestX x.gen < longestTx s y
  parkClash a b || parkClash b a || floatClash a b || floatClash b a

/-- No entry of one set clashes with one of another. -/
def clearOf (s : State) (n : Nat) (xs ys : List Rung) : Bool := xs.all fun a => ys.all fun b => !clash s n a b

/-- Sum of the charges of entries in microframe `m`. -/
def sumLoad (s : State) (es : List Rung) (m : Nat) : Nat := es.foldl (fun a r => a + engLoad s r m) 0

/-- Entries that an engine runs, and those that it would adopt from `f` (R31). -/
def named (es : List Rung) (e : Nat) : List Rung := es.filter fun r => r.engine == e
def adopts (es : List Rung) (f e : Nat) : List Rung := es.filter fun r => r.engine == f && r.fallback == e

/-- The engines that compilation may use. -/
def usable (s : State) : List Nat := (List.range 16).filter fun e => !(eng s e).retired

/-- The lowest load that a pair of engine and fallback gives the group, over its microframes (R186, R192). -/
def pairLoad (s : State) (rest grp : List Rung) (ms : List Nat) (e b : Nat) : Nat :=
  ms.foldl (fun v m =>
    let g := sumLoad s grp m
    let a := sumLoad s (named rest e) m
    if s.sch.nm1Ok then
      let f := (usable s).foldl (fun v f => if f = e then v else max v (sumLoad s (adopts rest f e) m)) 0
      max v (max (a + f) (sumLoad s (named rest b) m + sumLoad s (adopts rest e b) m) + g)
    else max v (a + g)) 0

/-- The pair keeps R185, R186 and R204 as ENGINE and as FALLBACK. -/
def pairClear (s : State) (n : Nat) (rest grp : List Rung) (e b : Nat) : Bool :=
  clearOf s n grp (named rest e)
    && (!s.sch.nm1Ok || ((usable s).all fun f => f = e || clearOf s n grp (adopts rest f e))
      && clearOf s n grp (named rest b))

/-- The pairs that compilation may give: after a retirement FALLBACK equals ENGINE (R187). -/
def pairs (s : State) : List (Nat × Nat) :=
  if s.sch.nm1Ok then (usable s).flatMap fun e => ((usable s).filter (· != e)).map fun b => (e, b)
  else (usable s).map fun e => (e, e)

/-- The pair of lowest load among some, ties to the lower numbers, with its load. -/
def lowestPair (s : State) (rest grp : List Rung) (ms : List Nat) (ps : List (Nat × Nat)) : Option (Nat × Nat × Nat) :=
  ps.foldl (fun best p =>
    let v := pairLoad s rest grp ms p.1 p.2
    match best with
    | some (w, _, _) => if v < w then some (v, p.1, p.2) else best
    | none => some (v, p.1, p.2)) none

/-- The pair of lowest load that keeps the rules. -/
def bestPair (s : State) (n : Nat) (rest grp : List Rung) (ms : List Nat) : Option (Nat × Nat × Nat) :=
  lowestPair s rest grp ms ((pairs s).filter fun p => pairClear s n rest grp p.1 p.2)

/-- The engine that an ENGINE_TIME refusal names where no pair keeps the rules: the one that would have carried the lowest
load (R211). -/
def lowestEngine (s : State) (rest grp : List Rung) (ms : List Nat) : Nat :=
  match lowestPair s rest grp ms (pairs s) with
  | some (_, e, _) => e
  | none => 0

/-- The port's entries that share a microframe with the new entry, transitively (R192): each round adds the
entries that touch the microframes gathered so far. -/
def groupOf (s : State) (n : Nat) : Nat → List (Nat × Rung) → List Nat → List (Nat × Rung)
  | 0, _, _ => []
  | k + 1, rest, ms =>
    let hit := rest.filter fun e => (engMarks s n e.2).any ms.contains
    if hit.isEmpty then []
    else
      hit ++ groupOf s n k (rest.filter fun e => !hit.any fun h => h.1 == e.1)
        (ms ++ hit.flatMap fun e => engMarks s n e.2)

/-! ### The checks of R30 -/

/-- Charge against PSHARE in units of 0.1 ns (R190). -/
def shareCharge (s : State) (r : Rung) : Nat :=
  match r.kind with
  | .float => rootCost s r
  | _ => 10 * cdiv (rootCost s r) (10 * 2 ^ r.periodK)

/-- PSHARE in use by a function. -/
def shareInUse (s : State) (f : Nat) : Nat :=
  (charged s).foldl (fun a e => if e.2.func = f then a + shareCharge s e.2 else a) 0

/-- The largest START_POS that R203 permits, if any. -/
def startLimit (s : State) (r : Rung) : Option Nat :=
  let need := longestX r.gen + rootCost s r
  if 1151500 < need then none else some (min 511 ((1151500 - need) * 4096 / 9400000))

/-- Pages that an endpoint takes (R188). -/
def pagesFor (k : ResKind) (bytes : Nat) : Nat := match k with | .event => 1 | _ => 2 * cdiv bytes 4096

/-- What the checks decide for one phase: a refusal with the number of checks passed, its code and DETAIL; or
the engines, the keys of R192, and the entries moved to the common pair. -/
inductive Fit where
  | no (passed code detail : Nat)
  | yes (peak fold cyc : Nat) (e b : Nat) (moved : List Nat)
deriving DecidableEq, Repr

/-- The checks of R30 for a phase of the new entry `r`, in order (R192, R213). -/
def checkPhase (s : State) (r : Rung) : Fit :=
  let old := charged s
  let all := r :: old.map Prod.snd
  let n := cycleLen all
  let ms := List.range n
  let cap := capOf s r.port
  let rootGen := (port s r.port).gen
  let budget := unitNs (if r.split then rootGen else r.gen) * cap / 100
  let mine := ms.filter fun m => 0 < chargeAt r (rootCharges s r) m
  let fold := mine.foldl (fun a m => max a (rootLoad s all r.port m)) 0
  let peak := ms.foldl (fun a m => max a (rootLoad s all r.port m)) 0  -- CAP bounds the port's load anywhere (R175)
  let x := fn s r.func
  if 10 * x.pshare < shareInUse s r.func + shareCharge s r then .no 0 1 0
  else if budget < peak || (r.kind == .float && (startLimit s r).isNone) then .no 1 2 r.port
  else
    match (rungSegs s r).find? fun g => ms.any fun m => 1175000 * cap / 100 < segLoad s all r.port g m with
    | some g => .no 2 3 (g.getLastD 0)
    | none =>
      let q := match r.tt with | some t => t.port | none => 0
      if r.split && ms.any fun m => unitNs r.gen * cap / 100 < ttLoad s all r m then .no 3 4 q
      else if r.split && ms.any fun m => ttBuffers s r - 1 < ttHeld all r m then .no 4 5 q
      else
        let mk := engMarks s n r
        let grp := groupOf s n old.length (old.filter fun e => e.2.port == r.port) mk
        let rest := (old.filter fun e => !grp.any fun g => g.1 == e.1).map Prod.snd
        let set := r :: grp.map Prod.snd
        let gm := ms.filter fun m => 0 < sumLoad s set m
        match (if clearOf s n set set then bestPair s n rest set gm else none) with
        | none => .no 5 6 (lowestEngine s rest set gm)
        | some (v, e, b) =>
          if engCeiling < v then .no 5 6 e
          else if (freeCarve s r.func).length < pagesFor r.kind r.bytes then .no 6 7 0
          else if x.spillEntries < x.spillDepth * (sumRate s r.func + rungRate r) then .no 7 8 0
          else if 8192 ≤ old.length then .no 8 9 0
          else .yes peak fold (mk.foldl (fun a m => max a (sumLoad s all m)) 0) e b (grp.map Prod.fst)

/-- The first of two fits by the keys of R192. -/
def fitLess : Nat × Nat × Nat → Nat × Nat × Nat → Bool
  | (a, b, c), (x, y, z) => a < x || (a == x && (b < y || (b == y && c < z)))

/-- The phases in ascending order, with what the checks decide (R191, R192). -/
def phases (s : State) (r : Rung) : List (Nat × Fit) :=
  let step := if rungParks r then 8 else 1
  (List.range (2 ^ r.periodK / step)).map fun i => (i * step, checkPhase s { r with phase := i * step })

/-- The phase that ranks first, or the refusal of the phase that passed the most checks (R192). -/
def choose (l : List (Nat × Fit)) : Nat × Fit :=
  l.foldl (fun best x =>
    match best.2, x.2 with
    | .no p _ _, .no q _ _ => if p < q then x else best
    | .no _ _ _, .yes .. => x
    | .yes .., .no _ _ _ => best
    | .yes a b c _ _ _, .yes a' b' c' _ _ _ => if fitLess (a', b', c') (a, b, c) then x else best)
    (l.headD (0, .no 0 1 0))

/-- The lowest free entry index (DESIGN CHOICE, log 31). -/
def freeRes (s : State) : Nat :=
  let used := charged s ++ s.sch.leaving
  ((List.range (used.length + 1)).find? fun i => !used.any fun e => e.1 == i).getD 0

/-- Places a new entry in the shadow bank, moving its group to the common pair; its pages are the lowest free
ones (log 32). -/
def placeRung (s : State) (r : Rung) (ph e b : Nat) (moved : List Nat) : Nat × State :=
  let id := freeRes s
  let f := freshIndex s
  let sp := match r.kind, startLimit s r with
    | .float, some l => Config.startPos f.1 % (l + 1)
    | _, _ => 0
  let r := { r with
    phase := ph, engine := e, fallback := b, linkNs := linkNsOf s r, engCyc := engCycOf s r, startPos := sp,
    pages := (freeCarve s r.func).take (pagesFor r.kind r.bytes) }
  let s := f.2
  let sh := s.sch.shadow.map fun x => (x.1, if moved.contains x.1 then { x.2 with engine := e, fallback := b } else x.2)
  (id, { s with sch := { s.sch with shadow := tput sh id r, compiling := true, swapPend := false } })

/-- Admits an entry: the reservation, or the code and DETAIL of the refusal. -/
def tryAdmit (s : State) (r : Rung) : (Nat × State) ⊕ (Nat × Nat) :=
  match choose (phases s r) with
  | (ph, .yes _ _ _ e b moved) => .inl (placeRung s r ph e b moved)
  | (_, .no _ c d) => .inr (c, d)

/-! ### Commands -/

/-- KIND of the ADMIT body. -/
def kindOf : Nat → Option ResKind
  | 0 => some .periodic | 1 => some .event | 2 => some .float | _ => none

/-- The entry that an endpoint asks for. -/
def rungFor (d : Device) (c : Ctx) (h : U16) (k : ResKind) (periodK packets bytes func : Nat) (lastGasp : Bool) : Rung :=
  let pk := match k with | .float => 0 | _ => if genCode d.gen ≤ 1 then periodK + 3 else periodK
  { kind := k, split := d.tt.isSome, lastGasp := lastGasp, dirIn := bit c.epaddr 7, port := d.port, handle := h,
    ep := field c.epaddr 0 4, periodK := pk, hubTiers := d.tier - 1, packets := packets, mps := c.mps.toNat,
    tt := d.tt, script := d.script, func := func, bytes := bytes, gen := d.gen, maxBurst := c.maxBurst.toNat }

/-- The port, or a hub port on the device's path, is suspended. -/
def pathSuspended (s : State) (d : Device) : Bool :=
  (port s d.port).suspended
    || s.topo.dev.any fun e => e.2.isHub && e.2.port == d.port && e.2.path.isPrefixOf d.path
        && (match d.path[e.2.path.length]? with | some q => (tget ({} : HubPort) e.2.hubPorts q).suspended | none => false)

/-- The refusal of an ADMIT by codes 0x0A to 0x11, or the entry to place (R213). -/
def admitCheck (s : State) (f : Nat) (b : AdmitBody) : Rung ⊕ Nat :=
  if !(fn s f).created then .inr 0x11
  else if !ownsDevice s f b.handle then .inr 0x0A
  else
    let num := field b.handle 0 12
    match dev? s num, ctx? s num (field b.epaddr 0 4) (bit b.epaddr 7), kindOf b.kind.toNat with
    | some d, some c, some k =>
      let n := b.packets.toNat
      let want := match k with | .event => 3 | _ => 2
      if field b.epaddr 4 3 != 0 || !c.isOpen || c.typ.toNat != want || n = 0 || (k == .event && n != 1)
          || b.bytes.toNat = 0 || n * c.mps.toNat < b.bytes.toNat then .inr 0x0B
      else if k != .float && ((if genCode d.gen ≤ 1 then 10 else 13) < b.periodK.toNat || c.interval < b.periodK.toNat) then
        .inr 0x0C
      else if k == .float && (genCode d.gen ≤ 1 || d.tt.isSome) then .inr 0x0D
      else if (charged s).any fun e => if k == .float then e.2.kind == .float && e.2.port == d.port
          else e.2.kind != .float && e.2.handle == b.handle && e.2.ep == field b.epaddr 0 4 && e.2.dirIn == bit b.epaddr 7
        then .inr 0x0E
      else if pathSuspended s d then .inr 0x0F
      else if (fn s f).admitBusy then .inr 0x10
      else .inl (rungFor d c b.handle k b.periodK.toNat n b.bytes.toNat f c.lastGasp)
    | _, _, _ => .inr 0x0B

/-- The 32-byte reply body of a refusal (R211). -/
def admitRefusal (b : AdmitBody) (code detail : Nat) : List Byte :=
  natLE 2 b.handle.toNat ++ [b.epaddr, b.kind, BitVec.ofNat 8 code, BitVec.ofNat 8 detail] ++ zeros 26

/-- The 32-byte reply body of an accepted command (R211). -/
def admitReply (b : AdmitBody) (id : Nat) (r : Rung) (live : Nat) : List Byte :=
  natLE 2 b.handle.toNat ++ [b.epaddr, b.kind, 0, 0] ++ natLE 2 id ++ natLE 2 r.phase
    ++ [BitVec.ofNat 8 (r.engine + 16 * r.fallback), 0] ++ natLE 2 r.startPos ++ [0, 0] ++ natLE 4 r.linkNs
    ++ natLE 4 r.engCyc ++ natLE 4 live ++ zeros 4

/-- ADMIT (R209 to R213). -/
def admitOp (ctx : CmdCtx) (b : AdmitBody) (s : State) : State :=
  let s := begun ctx 0x40 s
  let f := sender ctx.chan
  match admitCheck s f b with
  | .inr c => reply ctx 0x40 (admitRefusal b c 0) s
  | .inl r =>
    match tryAdmit s r with
    | .inr (c, d) => reply ctx 0x40 (admitRefusal b c d) s
    | .inl (id, s) =>
      modFn f (fun x => { x with admitBusy := true })
        { s with sch := { s.sch with replies := s.sch.replies ++ [{ ctx := ctx, body := b, res := id, isAdmit := true }] } }

/-- RELEASE (R209, R213). An endpoint holds its reservation from the acceptance of its ADMIT to the swap of its RELEASE
(R517); meanwhile its owner is BUSY. -/
def releaseOp (ctx : CmdCtx) (b : AdmitBody) (s : State) : State :=
  let s := begun ctx 0x41 s
  let f := sender ctx.chan
  let refuse := fun c => reply ctx 0x41 (admitRefusal b c 0) s
  if !(fn s f).created then refuse 0x11
  else if !ownsDevice s f b.handle then refuse 0x0A
  else
    let hit := (charged s).find? fun e => e.2.handle == b.handle
      && e.2.ep == field b.epaddr 0 4 && e.2.dirIn == bit b.epaddr 7 && kindOf b.kind.toNat == some e.2.kind
    match hit with
    | none => refuse 0x0B
    | some (id, _) =>
      if (fn s f).admitBusy then refuse 0x10
      else
        modFn f (fun x => { x with admitBusy := true })
          { s with sch := { s.sch with
            shadow := tdel s.sch.shadow id, compiling := true, swapPend := false,
            replies := s.sch.replies ++ [{ ctx := ctx, body := b, res := id, isAdmit := false }] } }

/-- QUERY (R212). -/
def queryOp (ctx : CmdCtx) (s : State) : State :=
  let s := begun ctx 0x42 s
  let f := sender ctx.chan
  let x := fn s f
  let res := if !x.created then 0x11 else if x.admitBusy then 0x10 else 0
  let body := if res != 0 then zeros 4 ++ [BitVec.ofNat 8 res] ++ zeros 27
    else zeros 8 ++ natLE 4 ((10 * x.pshare - shareInUse s f) / 10) ++ natLE 2 (freeCarve s f).length
      ++ natLE 2 ((charged s).filter fun e => e.2.func == f).length
      ++ natLE 4 (x.spillEntries - x.spillDepth * sumRate s f) ++ natLE 2 (8192 - (charged s).length) ++ zeros 10
  reply ctx 0x42 body s

/-! ### The swap (R196) -/

/-- The shadow bank becomes live: pages pass, entries bound to ended reservations complete NOT_ADMITTED, and
the replies of the commands it carries are posted. -/
def swapBanks (s : State) : State :=
  let old := s.sch.live
  let new := s.sch.shadow
  let gone := old.filter fun e => (tfind new e.1).isNone
  let come := new.filter fun e => (tfind old e.1).isNone
  let left := gone.filter fun e => !(pstate s e.1).followOn.isEmpty
  let s := each (gone.filter fun e => (pstate s e.1).followOn.isEmpty) (fun e s => returnPages e.2.pages s) s
  let s := each come (fun e s => assignPages e.2.pages e.2.func (field e.2.handle 0 12, ctxKey (field e.2.handle 0 12) e.2.ep e.2.dirIn) s) s
  let s := each (itemsWhere s fun x => match x.slot with
      | .timed r => (gone.any fun e => e.1 == r) && x.status.isNone && !x.begun
      | _ => false) (finish · stNotAdmitted) s
  let ends := fun (k : Nat) => (gone.any fun g => g.1 == k) && !left.any fun g => g.1 == k
  let st := come.foldl (fun t e => tput t e.1 {}) (s.sch.state.filter fun e => !ends e.1)
  let at_ := BitVec.ofNat 32 (epoch32 s 0)
  let new := new.map fun e => (e.1, if come.any fun g => g.1 == e.1 then { e.2 with liveFrom := at_ } else e.2)
  { s with sch := { s.sch with
    live := new, shadow := new, state := st, liveBank := !s.sch.liveBank, swapPend := false, replies := [],
    leaving := left.foldl (fun t e => tput t e.1 e.2) s.sch.leaving, liveEpoch := at_ } }

/-- Released reservations whose last split has been served are gone, and their pages return (R209). -/
def dropLeft (s : State) : State :=
  let ended := s.sch.leaving.filter fun e => (pstate s e.1).followOn.isEmpty
  let s := each ended (fun e s => returnPages e.2.pages s) s
  { s with sch := { s.sch with
    leaving := s.sch.leaving.filter fun e => !(ended.any fun g => g.1 == e.1)
    state := s.sch.state.filter fun e => !(ended.any fun g => g.1 == e.1) } }

/-- The reply of a command that a swap carries: an ADMIT whose reservation has gone is refused BAD_HANDLE
(R214). -/
def swapReply (w : SwapReply) (r : Option Rung) (s : State) : State :=
  let s := modFn (sender w.ctx.chan) (fun x => { x with admitBusy := false }) s
  let code := if w.isAdmit then 0x40 else 0x41
  match r with
  | some g => reply w.ctx code (admitReply w.body w.res g g.liveFrom.toNat) s
  | none => reply w.ctx code (admitRefusal w.body 0x0A 0) s

/-- The swap at a frame boundary, if one pends (R27, R196). -/
def swapIfPending (s : State) : State :=
  if s.sch.swapPend && !s.sch.compiling then
    let ws := s.sch.replies
    let old := s.sch.live
    let s := swapBanks s
    each ws (fun w s =>
      swapReply w (if w.gone then none else if w.isAdmit then tfind s.sch.live w.res else tfind old w.res) s) s
  else s

/-! ### Walks -/

/-- The entries that an engine runs in microframe `m` by its rung lists, in order: by period class, then port,
then index (R195). An engine that stands in runs the entries of the engines it has adopted (R31, R383). -/
def walkOf (s : State) (e m : Nat) : List Nat :=
  let away := fun x => (eng s x).retired || (eng s x).stopped
  let mine := fun (r : Rung) =>
    (r.engine == e && !away e) || (r.fallback == e && r.engine != e && away r.engine && !away e)
  (List.range 14).flatMap fun k =>
    let l := s.sch.live.filter fun x => x.2.kind != .float && x.2.periodK == k && isService x.2 m && mine x.2
    (List.range 64).flatMap fun p => (l.filter fun x => x.2.port == p).map Prod.fst

/-- ADMIT (R209). -/
def execAdmitCmd (ctx : CmdCtx) (body : AdmitBody) (s : State) : Host.Outcome State Fault Refusal :=
  guarded (live s) s (admitOp ctx body)

/-- RELEASE (R209). -/
def execRelease (ctx : CmdCtx) (body : AdmitBody) (s : State) : Host.Outcome State Fault Refusal :=
  guarded (live s) s (releaseOp ctx body)

/-- QUERY (R212). -/
def execQuery (ctx : CmdCtx) (s : State) : Host.Outcome State Fault Refusal := guarded (live s) s (queryOp ctx)

/-- COMPILE_DONE (R196): the shadow bank is complete and the swap pends. -/
def execCompileDone (s : State) : Host.Outcome State Fault Refusal :=
  guarded (live s && s.sch.compiling) s fun s =>
    { s with sch := { s.sch with compiling := false, swapPend := true } }

end Sys2Proof.Machine
end

