-- ==== Sys2Proof/Machine/SlotPower.lean ====
section
/-! DEFINITION. Slot power: the mule dies' slot machines, feeds, trips, power-fail warning, telemetry and authority
(R19 to R21, R352 to R378, R447, R485, R500). What no command reports of the analog circuit (currents, the rise
of VOUT) is outside the model: the commands give the instants at which it crosses a threshold. -/

namespace Sys2Proof.Machine

/-! ### Slots and dies -/

def slot (s : State) (n : Nat) : CardSlot := tget {} s.slots.slot n
def modSlot (n : Nat) (g : CardSlot → CardSlot) (s : State) : State :=
  { s with slots := { s.slots with slot := tput s.slots.slot n (g (slot s n)) } }
/-- The slot's die is powered. -/
def slotPowered (s : State) (n : Nat) : Bool := (die s (dieOf n)).powered

/-- The core die hears the die: both run, the die obeys it, and MULE is not lasting (R20, R385, R447). -/
def hears (s : State) (g : Nat) : Bool :=
  live s && (die s g).powered && !(die s g).coreLost && !(die s g).parked && !bit s.err.muleFailed g

/-- The feeds are valid (R354). -/
def feedAOk (x : CardSlot) : Bool := x.feedA && !x.feedAOff
def feedBOk (x : CardSlot) : Bool := x.feedB && !x.feedBOff
def anyFeed (x : CardSlot) : Bool := feedAOk x || feedBOk x

/-! ### Register fields -/

def cfgFetchk (x : CardSlot) : Nat := field x.cfg 0 2
def cfgOringOpen (x : CardSlot) : Bool := bit x.cfg 2
def cfgPrsntClears (x : CardSlot) : Bool := bit x.cfg 3
/-- FAULT_T in µs: 0 acts as 1 unit, above 2,000 as 2,000. -/
def faultT (x : CardSlot) : Nat := 50 * min 2000 (max 1 (field x.tmr 0 11))
/-- LIM in 0.1 mJ: 0 acts as 1. -/
def soaLim (x : CardSlot) : Nat := max 1 (field x.soa 0 16)
/-- RSENSE in 10 µΩ: 0 acts as 1. -/
def rsense (x : CardSlot) : Nat := max 1 (field x.ith 16 16)

/-- The code of a slot state (R357). -/
def slotStateCode : SlotState → Nat
  | .empty => 0 | .debounce => 1 | .off => 2 | .cooldown => 3 | .noFeed => 4 | .ramp => 5 | .on => 6 | .tripped => 7

/-- `SLOT[n].STS`. -/
def slotSts (s : State) (n : Nat) : U32 :=
  let x := slot s n
  let d := die s (dieOf n)
  BitVec.ofNat 32 (slotStateCode x.st + ofBool x.present * 2 ^ 3 + ofBool x.pg * 2 ^ 4 + ofBool x.gate * 2 ^ 5
    + ofBool (feedAOk x) * 2 ^ 6 + ofBool (feedBOk x) * 2 ^ 7 + ofBool x.orA * 2 ^ 8 + ofBool x.orB * 2 ^ 9
    + ofBool x.pfw * 2 ^ 10 + ofBool x.minOff * 2 ^ 11 + ofBool d.authPctl * 2 ^ 12 + ofBool d.coreLost * 2 ^ 13
    + x.tripCode.toNat * 2 ^ 16 + ofBool x.tripBy * 2 ^ 20 + x.ignored.toNat * 2 ^ 24)

/-! ### PCTL_B frames (R409) -/

/-- Header, payload and CRC-16 of a frame. -/
def pctlFrame (typ j : Nat) (seq : U16) (payload : List Byte) : List Byte :=
  let b := [BitVec.ofNat 8 typ, BitVec.ofNat 8 j] ++ natLE 2 seq.toNat ++ payload
  b ++ natLE 2 (crc16 b).toNat

/-- Sends a frame on PCTL_B of die g, or on partner-control port g. -/
def pctlSend (g typ j : Nat) (seq : U16) (payload : List Byte) (s : State) : State :=
  emit (.pctlB g typ (pctlFrame typ j seq payload)) s

/-- Queues and sends an EVENT frame, a removal event ahead of the others (R410). -/
def pctlEvent (n b : Nat) (s : State) : State :=
  let g := dieOf n
  let d := die s g
  let ev : PctlEvent := { seq := d.evSeq, j := n % 16, payload := natLE 2 (2 ^ b) ++ natLE 4 (slotSts s n).toNat, sends := 1 }
  let s := modDie g (fun d => { d with
    evSeq := d.evSeq + 1, events := if b = 1 then ev :: d.events else d.events ++ [ev] }) s
  pctlSend g 0x86 (n % 16) ev.seq ev.payload s

/-! ### Slot events -/

/-- The die raises bit `b` of `SLOT[n].EVT`. A parked die sends no event and keeps it; a die that nobody hears
latches it; while PCTL_B holds authority an EVENT frame carries it (R410, R414, R447). -/
def dieEvent (n b : Nat) (s : State) : State :=
  let g := dieOf n
  if (die s g).parked then modSlot n (fun x => { x with kept := x.kept ||| BitVec.ofNat 32 (2 ^ b) }) s
  else
    let s := if hears s g then
        let s := if (s.pwr.st == .deepSleep || s.pwr.entering == some .deepSleep) && bit (slotEn s n) b then startWake 3 n s else s
        raiseSlot n b s
      else { s with eic := { s.eic with
        evt := tput s.eic.evt (64 + n) (evtWord s (64 + n) ||| BitVec.ofNat 32 (2 ^ b)) } }
    if (die s g).authPctl then pctlEvent n b s else s

/-- An event message to the core die in authority (R23 to R25). -/
def tellCore (n b : Nat) (s : State) : State :=
  if hears s (dieOf n) then emit (.muleEvent n b) s else s

/-! ### What the core die does when a slot loses power -/

/-- The hub ports bound to a slot (R112). -/
def boundPorts (s : State) (n : Nat) : List Loc :=
  s.topo.dev.flatMap fun e => (e.2.hubPorts.filter fun q => q.2.slot == some n).filterMap fun q =>
    if h : e.1 < 4096 then if k : q.1 < 16 then some (.hub ⟨e.1, h⟩ ⟨q.1, k⟩) else none else none

/-- The last-gasp opportunity of a slot ends (R375). -/
def endLastGasp (n : Nat) (s : State) : State := modPort n (fun p => { p with lastGasp := false }) s

/-- Port n's tree, and the subtrees bound to slot n, leave with DEVICE_GONE; the port is disabled (R23, R360). -/
def slotTreeGone (n : Nat) (s : State) : State :=
  let s := each (boundPorts s n) (fun l s => locGone l stDeviceGone s) s
  modPort n (fun p => { p with pg := false, lastGasp := false }) (portGone n stDeviceGone s)

/-- The same, as far as the core die hears of the gate-off. -/
def coreGateOff (n : Nat) (s : State) : State := if hears s (dieOf n) then slotTreeGone n s else s

/-! ### Gate-off, trips and power-up -/

/-- The hot-swap gate turns off and the slot enters `st`: the minimum off time and the discharge window start,
PFW_n is asserted (R360, R361, R373, R374). -/
def gateOff (n : Nat) (st : SlotState) (s : State) : State :=
  let s := modSlot n (fun x => { x with
    st := st, gate := false, pg := false, pgLoss := false, gateRise := false, soaEnergy := 0, pfw := true,
    minOff := true, discharge := true
    cut := some ⟨now s, x.st == .on, x.gateRise, x.pgLoss⟩ }) s
  dieEvent n 3 s

/-- A trip: gate off, TRIPPED, code and record; TRIP and POWER_OFF are raised (R370). -/
def trip (n : Nat) (code : Nat) (bySoa : Bool) (vout vbus : BitVec 12) (s : State) : State :=
  let s := if (slot s n).gate then gateOff n .tripped s else dieEvent n 3 s
  let s := modSlot n (fun x => { x with
    st := .tripped, tripCode := BitVec.ofNat 4 code, tripBy := bySoa,
    tripRec := BitVec.ofNat 64 (vout.toNat + vbus.toNat * 2 ^ 16 + epoch32 s 0 * 2 ^ 32) }) s
  tellCore n 4 (dieEvent n 4 s)

/-- The gate-off of this very cycle, if there was one (R378, log 158). -/
def cutNow (s : State) (n : Nat) : Option GateCut := (slot s n).cut.filter fun c => c.at_ == now s

/-- A removal has turned the gate off in this very cycle, so that a trip of the cycle is latched all the same (R378). -/
def removedNow (s : State) (n : Nat) (p : GateCut → Bool) : Bool := (slot s n).st == .empty && (cutNow s n).any p

/-- A trip of this very cycle stands whose code satisfies `p`, from RAMP or from ON (R378). -/
def trippedNow (s : State) (n : Nat) (p : GateCut → Nat → Bool) : Bool :=
  (slot s n).st == .tripped && (cutNow s n).any fun c => p c (slot s n).tripCode.toNat

/-- The code of a trip in RAMP (R369). -/
def rampCode (vout vbus : BitVec 12) : Nat := if vout.toNat * 10 < vbus.toNat then 4 else 5

/-- The part is the home of the die's slots (R387, R388). -/
def homeOf (s : State) (g : Nat) : Bool := !s.straps.pairEn || bit s.pair.cfg g == s.straps.pairId

/-- Slots whose gate is off stay off: the die is parked, or has lost its core die and authority has not
returned (R377, R447); a die that is not the slot's home holds its gates off (R388). -/
def rampBlocked (s : State) (n : Nat) : Bool :=
  let d := die s (dieOf n)
  d.parked || (d.coreLost && !d.authPctl) || !homeOf s (dieOf n)

/-- The power-up check (R358). A slot that may not ramp waits in OFF (log 40). -/
def powerCheck (n : Nat) (s : State) : State :=
  let x := slot s n
  if !x.present then modSlot n (fun x => { x with st := .empty }) s
  else if x.minOff then modSlot n (fun x => { x with st := .cooldown }) s
  else if !anyFeed x then modSlot n (fun x => { x with st := .noFeed }) s
  else if rampBlocked s n then modSlot n (fun x => { x with st := .off }) s
  else modSlot n (fun x => { x with st := .ramp, gate := true, soaEnergy := 0, gateRise := false }) s

/-- Authority has returned: slots that were held off are checked again (R377). -/
def recheck (g : Nat) (s : State) : State :=
  each (List.range 16) (fun j s =>
    let n := 16 * g + j
    if (slot s n).en && (slot s n).st == .off then powerCheck n s else s) s

/-- The latch clears (R371). -/
def clearLatch (n : Nat) (s : State) : State :=
  modSlot n (fun x => { x with disconnected := false }) s

/-! ### Commands of the manager -/

/-- EN goes from 0 to 1 (R359). -/
def enSetOp (n : Nat) (s : State) : State :=
  let x := slot s n
  if x.en then s
  else
    let s := modSlot n (fun x => { x with en := true }) s
    match x.st with
    | .tripped => powerCheck n (clearLatch n s)
    | .off => powerCheck n s
    | _ => s

/-- EN is cleared (R359, R360). -/
def enClearOp (n : Nat) (s : State) : State :=
  let x := slot s n
  let s := modSlot n (fun x => { x with en := false }) s
  match x.st with
  | .ramp | .on => coreGateOff n (gateOff n .off s)
  | .cooldown | .noFeed => modSlot n (fun x => { x with st := .off }) s
  | _ => s

/-- CYCLE (R359). -/
def cycleOp (n : Nat) (s : State) : State :=
  match (slot s n).st with
  | .ramp | .on => coreGateOff n (gateOff n .cooldown s)
  | _ => s

/-- A feed has become invalid: its FET is off, the load moves to the other feed if that is valid (R354, R356);
with none valid a ramp ends in NO_FEED (R357, R378). -/
def feedLost (n : Nat) (a : Bool) (s : State) : State :=
  let s := modSlot n (fun x =>
    if a then { x with orA := false, orB := x.orB || (x.orA && feedBOk x) }
    else { x with orB := false, orA := x.orA || (x.orB && feedAOk x) }) s
  let s := dieEvent n (if a then 7 else 8) s
  if (slot s n).st == .ramp && !anyFeed (slot s n) then coreGateOff n (gateOff n .noFeed s) else s

/-- A feed has become valid; with the other FET off it carries the load (R355). -/
def feedBack (n : Nat) (a : Bool) (s : State) : State :=
  let s := modSlot n (fun x =>
    if x.disconnected then x else if a then { x with orA := x.orA || !x.orB } else { x with orB := x.orB || !x.orA }) s
  let s := dieEvent n (if a then 9 else 10) s
  if (slot s n).st == .noFeed then powerCheck n s else s

/-- Changes the feeds' own validity or FEEDx_OFF, and follows each change of validity. -/
def withFeeds (n : Nat) (g : CardSlot → CardSlot) (s : State) : State :=
  let x := slot s n
  let y := g x
  let s := modSlot n g s
  let s := if feedAOk x && !feedAOk y then feedLost n true s else if !feedAOk x && feedAOk y then feedBack n true s else s
  if feedBOk x && !feedBOk y then feedLost n false s else if !feedBOk x && feedBOk y then feedBack n false s else s

/-- The slot registers that a command may write, by their offset in the window (R478). -/
def slotWritable (off : Nat) : Bool := [0x00, 0x04, 0x08, 0x0C, 0x10, 0x18, 0x30, 0x34, 0x50].contains off

/-- `SLOT[n].TEL_PEAK.RESTART` (R485). -/
def telRestart (n : Nat) (s : State) : State :=
  let s := modSlot n (fun x => { x with tel := { x.tel with peak := 0x0FFF0000 } }) s
  { s with slots := { s.slots with tel := tput s.slots.tel n { tget ({} : Telemetry) s.slots.tel n with peak := 0x0FFF0000 } } }

/-- Writes a slot register; reserved bits stay 0 (R478). -/
def slotWrite (n off : Nat) (v : U64) (s : State) : State :=
  let w : U32 := v.setWidth 32
  match off with
  | 0x00 =>
    let s := withFeeds n (fun x => { x with feedAOff := bit v 2, feedBOff := bit v 3 }) s
    let s := if bit v 0 then enSetOp n s else if (slot s n).en then enClearOp n s else s
    if bit v 1 then cycleOp n s else s
  | 0x04 => modSlot n (fun x => { x with cfg := w &&& 0xFF3F03FF }) s
  | 0x08 => modSlot n (fun x => { x with ith := w &&& 0xFFFF007F }) s
  | 0x0C => modSlot n (fun x => { x with tmr := w &&& 0x00FF07FF }) s
  | 0x10 => modSlot n (fun x => { x with soa := w &&& 0x00FFFFFF }) s
  | 0x18 => modSlot n (fun x => { x with vth := v &&& 0x000003FF03FF03FF }) s
  | 0x30 => if h : n < 64 then clearEvt (.slot ⟨n, h⟩) w s else s
  | 0x34 => withRises [896 + n] (fun s => { s with eic := { s.eic with slotEn := tput s.eic.slotEn n (w &&& 0x1FFF) } }) s
  | 0x50 => if bit v 63 then telRestart n s else s
  | _ => s

/-- A register of the slot window as the die holds it (R410, R478). -/
def slotRead (s : State) (n off : Nat) : U64 :=
  let x := slot s n
  match off with
  | 0x00 => BitVec.ofNat 64 (ofBool x.en + 4 * ofBool x.feedAOff + 8 * ofBool x.feedBOff)
  | 0x04 => x.cfg.setWidth 64
  | 0x08 => x.ith.setWidth 64
  | 0x0C => x.tmr.setWidth 64
  | 0x10 => x.soa.setWidth 64
  | 0x18 => x.vth
  | 0x20 => (slotSts s n).setWidth 64
  | 0x28 => x.tripRec
  | 0x30 => (evtWord s (64 + n)).setWidth 64
  | 0x34 => (slotEn s n).setWidth 64
  | 0x38 => x.tel.v
  | 0x40 => x.tel.i
  | 0x48 => x.tel.energy
  | 0x50 => x.tel.peak
  | _ => 0

/-- The source holds authority over the die (R20, R21). -/
def hasAuthority (s : State) (g : Nat) (src : PowerSource) : Bool :=
  match src with
  | .ownCore => !(die s g).authPctl && !(die s g).coreLost
  | .pctlB => (die s g).authPctl

/-- A command to a slot register: obeyed from the source with authority, else ignored and counted (R21). -/
def powerCommand (g : Nat) (src : PowerSource) (j off : Nat) (v : U64) (s : State) : State :=
  if hasAuthority s g src then slotWrite (16 * g + j) off v s
  else modSlot (16 * g + j) (fun x => { x with ignored := if x.ignored = 255 then 255 else x.ignored + 1 }) s

/-! ### Power-good and presence -/

/-- Power-good is declared: ON, PFW_n released unless a cause holds (R363, R374). -/
def declareGood (n : Nat) (s : State) : State :=
  let s := modSlot n (fun x => { x with
    st := .on, pg := true, gateRise := false, faultTimer := 0, pfw := x.cause || !anyFeed x }) s
  tellCore n 2 (dieEvent n 2 s)

/-- PRSNT_n has been high for 2 µs (R23, R357, R362). -/
def removalOp (n : Nat) (s : State) : State :=
  let x := slot s n
  match x.st with
  | .empty => s
  | .debounce => modSlot n (fun x => { x with st := .empty }) s
  | .tripped => tellCore n 1 (dieEvent n 1 s)
  | .ramp | .on => tellCore n 1 (dieEvent n 1 (gateOff n .empty s))
  | _ => tellCore n 1 (dieEvent n 1 (modSlot n (fun x => { x with st := .empty }) s))

/-! ### Telemetry -/

/-- IOUT of a conversion in units of 10 mA: sense voltage over RSENSE (R376). -/
def ioutOf (x : CardSlot) (isense : Nat) : Nat := isense * 250 / rsense x

/-- A conversion (R376, R485). An IOUT that does not fit its 16 bits is a free value (log 26). -/
def convert (n : Nat) (va vb vbus vout isense : BitVec 12) (s : State) : State :=
  let x := slot s n
  let q := ioutOf x isense.toNat
  let r := if q < 65536 then (q, s) else
    let f := freshIndex s
    ((Config.freeWord f.1).toNat % 65536, f.2)
  let iout := r.1
  let s := r.2
  let on := x.st == .on
  let e := if on then vout.toNat * iout * s.tb.flen / 10000000 else 0
  modSlot n (fun x => { x with tel := {
    v := BitVec.ofNat 64 (vout.toNat + vbus.toNat * 2 ^ 16 + va.toNat * 2 ^ 32 + vb.toNat * 2 ^ 48)
    i := BitVec.ofNat 64 (isense.toNat + iout * 2 ^ 16 + epoch32 s 0 * 2 ^ 32)
    energy := x.tel.energy + BitVec.ofNat 64 e
    peak := BitVec.ofNat 64 (max iout (field x.tel.peak 0 16)
      + (if on then min vbus.toNat (field x.tel.peak 16 12) else field x.tel.peak 16 12) * 2 ^ 16) } }) s

/-! ### Commands -/

/-- What a die kept while parked is reported: events, messages to the core die, and the loss of the tree of a slot whose
gate went off (R447, R461). -/
def reportKept (n : Nat) (s : State) : State :=
  let k := (slot s n).kept
  let s := modSlot n (fun x => { x with kept := 0 }) s
  let s := each ((List.range 13).filter (bit k ·)) (fun b s =>
    let s := dieEvent n b s
    if b = 1 ∨ b = 2 ∨ b = 4 ∨ b = 5 then tellCore n b s else s) s
  if bit k 3 && !(slot s n).gate then coreGateOff n s else s

/-- A die leaves park at the first keep-alive it receives (R447). -/
def unpark (g : Nat) (s : State) : State :=
  if (die s g).parked then
    let s := modDie g (fun d => { d with parked := false }) s
    recheck g (each (List.range 16) (fun j => reportKept (16 * g + j)) s)
  else s

/-- A keep-alive of the core die; none goes to a die whose MULE fault is lasting (R385). -/
def keepAlive (g : Nat) (s : State) : State :=
  if bit s.err.muleFailed g then s else unpark g (emit (.keepalive g) s)

/-- MULE_KEEPALIVE (R13, R447): in Watch the core die sends none. -/
def execMuleKeepalive (g : DieId) (s : State) : Host.Outcome State Fault Refusal :=
  guarded (live s && s.pwr.st != .watch) s (keepAlive g.val)

/-- The legacy-pair transceivers of a die go high-impedance (R20). -/
def quietLegacy (g : Nat) (s : State) : State :=
  each ((List.range 16).map (16 * g + ·)) (fun p s =>
    if ((port s p).enabled || (port s p).resetting) && !serdes (port s p).gen then emit (.line p .quiet) s else s) s

/-- CORE_LOST_DECLARE (R20): the die has missed five keep-alives; its legacy transceivers go high-impedance. -/
def execCoreLostDeclare (g : DieId) (s : State) : Host.Outcome State Fault Refusal :=
  guarded ((die s g.val).powered && !(die s g.val).parked) s fun s =>
    modDie g.val (fun d => { d with coreLost := true }) (quietLegacy g.val s)

/-- The own core die hands authority to PCTL_B (R21). -/
def handOver (g : Nat) (s : State) : State :=
  if hears s g && !(die s g).authPctl then
    modDie g (fun d => { d with authPctl := true }) (emit (.handOver g) s)
  else s

/-- HAND_OVER_COMMAND (R21). -/
def execHandOverCommand (g : DieId) (s : State) : Host.Outcome State Fault Refusal := done (handOver g.val s)

/-- MULE_POWER_COMMAND (R21). -/
def execMulePowerCommand (g : DieId) (src : PowerSource) (j : Fin 16) (offset : U16) (value : U64) (s : State) :
    Host.Outcome State Fault Refusal :=
  guarded (die s g.val).powered s (powerCommand g.val src j.val offset.toNat value)

/-- TELEMETRY_REPORT (R376): the results reach the core die. -/
def execTelemetryReport (n : SlotId) (s : State) : Host.Outcome State Fault Refusal :=
  guarded (hears s (dieOf n.val)) s fun s =>
    { s with slots := { s.slots with tel := tput s.slots.tel n.val (slot s n.val).tel } }

/-- PRSNT_N_EDGE (R357, R371): every edge in DEBOUNCE restarts the debounce. -/
def execPrsntNEdge (n : SlotId) (high : Bool) (s : State) : Host.Outcome State Fault Refusal :=
  guarded (slotPowered s n.val) s fun s =>
    modSlot n.val (fun x => { x with
      present := !high
      st := if !high && x.st == .empty then .debounce else x.st }) s

/-- REMOVAL (R23, R362): PRSNT_n has been high for 2 µs. -/
def execRemoval (n : SlotId) (s : State) : Host.Outcome State Fault Refusal :=
  guarded (slotPowered s n.val && !(slot s n.val).present) s (removalOp n.val)

/-- DEBOUNCE_END (R362, R358). -/
def execDebounceEnd (n : SlotId) (s : State) : Host.Outcome State Fault Refusal :=
  guarded (slotPowered s n.val && (slot s n.val).st == .debounce && (slot s n.val).present) s fun s =>
    let s := dieEvent n.val 0 s
    if (slot s n.val).en then powerCheck n.val s else modSlot n.val (fun x => { x with st := .off }) s

/-- MIN_OFF_EXPIRY (R361). -/
def execMinOffExpiry (n : SlotId) (s : State) : Host.Outcome State Fault Refusal :=
  guarded (slotPowered s n.val && (slot s n.val).minOff) s fun s =>
    let s := modSlot n.val (fun x => { x with minOff := false }) s
    if (slot s n.val).st == .cooldown then powerCheck n.val s else s

/-- FEED_INVALID (R354, R356). -/
def execFeedInvalid (n : SlotId) (x : Feed) (s : State) : Host.Outcome State Fault Refusal :=
  guarded (slotPowered s n.val) s (withFeeds n.val fun y =>
    match x with | .a => { y with feedA := false } | .b => { y with feedB := false })

/-- FEED_VALID (R354). -/
def execFeedValid (n : SlotId) (x : Feed) (s : State) : Host.Outcome State Fault Refusal :=
  guarded (slotPowered s n.val) s (withFeeds n.val fun y =>
    match x with | .a => { y with feedA := true } | .b => { y with feedB := true })

/-- ORING_REVERSE (R355). -/
def execOringReverse (n : SlotId) (x : Feed) (s : State) : Host.Outcome State Fault Refusal :=
  guarded (slotPowered s n.val) s fun s =>
    match x with
    | .a => if (slot s n.val).orA then dieEvent n.val 11 (modSlot n.val (fun y => { y with orA := false }) s) else s
    | .b => if (slot s n.val).orB then dieEvent n.val 12 (modSlot n.val (fun y => { y with orB := false }) s) else s

/-- ORING_FORWARD (R355): the FET of a valid feed conducts again. -/
def execOringForward (n : SlotId) (x : Feed) (s : State) : Host.Outcome State Fault Refusal :=
  guarded (slotPowered s n.val && !(slot s n.val).disconnected) s fun s =>
    modSlot n.val (fun y =>
      match x with | .a => { y with orA := y.orA || feedAOk y } | .b => { y with orB := y.orB || feedBOk y }) s

/-- SLOT_EN_SET (R359). -/
def execSlotEnSet (n : SlotId) (s : State) : Host.Outcome State Fault Refusal :=
  guarded (slotPowered s n.val) s (enSetOp n.val)

/-- SLOT_EN_CLEAR (R359). -/
def execSlotEnClear (n : SlotId) (s : State) : Host.Outcome State Fault Refusal :=
  guarded (slotPowered s n.val) s (enClearOp n.val)

/-- CYCLE (R359). -/
def execCycle (n : SlotId) (s : State) : Host.Outcome State Fault Refusal :=
  guarded (slotPowered s n.val) s (cycleOp n.val)

/-- RAMP_END (R363): power-good follows at once unless the gate-rise check is enabled. -/
def execRampEnd (n : SlotId) (s : State) : Host.Outcome State Fault Refusal :=
  guarded (slotPowered s n.val && (slot s n.val).st == .ramp) s fun s =>
    if cfgFetchk (slot s n.val) % 2 = 1 then modSlot n.val (fun x => { x with gateRise := true }) s
    else declareGood n.val s

/-- POWER_GOOD (R363): the gate has reached VOUT + 4 V. -/
def execPowerGood (n : SlotId) (s : State) : Host.Outcome State Fault Refusal :=
  guarded (slotPowered s n.val && (slot s n.val).st == .ramp && (slot s n.val).gateRise) s (declareGood n.val)

/-- RAMP_TIMEOUT (R363, R369). -/
def execRampTimeout (n : SlotId) (vout vbus : BitVec 12) (s : State) : Host.Outcome State Fault Refusal :=
  guarded (slotPowered s n.val && ((slot s n.val).st == .ramp || removedNow s n.val fun c => !c.on)) s (trip n.val (rampCode vout vbus) false vout vbus)

/-- FET_GATE (R372). -/
def execFetGate (n : SlotId) (vout vbus : BitVec 12) (s : State) : Host.Outcome State Fault Refusal :=
  guarded (slotPowered s n.val && (((slot s n.val).st == .ramp && (slot s n.val).gateRise)
    || removedNow s n.val fun c => !c.on && c.rise)) s (trip n.val 6 false vout vbus)

/-- The core die's record of power-good: a loss disables nothing, and a debounce restarts with its return
(R22, R364). -/
def coreGood (n : Nat) (on : Bool) (s : State) : State :=
  if hears s (dieOf n) then modPort n (fun p => { p with
    pg := on
    attach := if p.attach == .debounce || p.attach == .idle then
        (if on && p.admin && !p.held && !p.enabled then .debounce else .idle)
      else p.attach }) s
  else s

/-- PG_LOST (R364, R375). -/
def execPgLost (n : SlotId) (s : State) : Host.Outcome State Fault Refusal :=
  guarded (slotPowered s n.val && (slot s n.val).st == .on && (slot s n.val).pg) s fun s =>
    let s := coreGood n.val false (modSlot n.val (fun x => { x with pg := false, pgLoss := true }) s)
    if hears s (dieOf n.val) then endLastGasp n.val s else s

/-- POWER_GOOD_RETURN (R364): without an event. -/
def execPowerGoodReturn (n : SlotId) (s : State) : Host.Outcome State Fault Refusal :=
  guarded (slotPowered s n.val && (slot s n.val).pgLoss) s fun s =>
    coreGood n.val true (modSlot n.val (fun x => { x with pg := true, pgLoss := false }) s)

/-- PG_LOST_TIMEOUT (R364). -/
def execPgLostTimeout (n : SlotId) (vout vbus : BitVec 12) (s : State) : Host.Outcome State Fault Refusal :=
  guarded (slotPowered s n.val && ((slot s n.val).pgLoss || removedNow s n.val fun c => c.loss)) s fun s =>
    if anyFeed (slot s n.val) then trip n.val 8 false vout vbus s
    else if (slot s n.val).pgLoss then coreGateOff n.val (gateOff n.val .noFeed s)
    else s

/-- FAULT_TIMER_EXPIRY (R366); it wins over the SOA integrator of the same cycle (R378). -/
def execFaultTimerExpiry (n : SlotId) (vout vbus : BitVec 12) (s : State) : Host.Outcome State Fault Refusal :=
  guarded (slotPowered s n.val && ((slot s n.val).st == .on || (removedNow s n.val fun c => c.on)
    || trippedNow s n.val fun c k => c.on && k == 3)) s fun s =>
    trip n.val 1 false vout vbus (modSlot n.val (fun x => { x with faultTimer := faultT x }) s)

/-- SEVERE_OC (R367); it wins over every other trip of the same cycle (R378). -/
def execSevereOc (n : SlotId) (vout vbus : BitVec 12) (s : State) : Host.Outcome State Fault Refusal :=
  guarded (slotPowered s n.val && ((slot s n.val).gate || (removedNow s n.val fun _ => true)
    || trippedNow s n.val fun _ k => k != 2)) s (trip n.val 2 false vout vbus)

/-- The integrator's trip lies in RAMP. -/
def soaInRamp (s : State) (n : Nat) : Bool :=
  (slot s n).st == .ramp || (!(slot s n).gate && (cutNow s n).any fun c => !c.on)

/-- SOA_LIMIT (R368, R369); with RAMP_TO in the same cycle TRIP_BY is set (R378). -/
def execSoaLimit (n : SlotId) (vout vbus : BitVec 12) (s : State) : Host.Outcome State Fault Refusal :=
  guarded (slotPowered s n.val && ((slot s n.val).gate || (removedNow s n.val fun _ => true)
    || trippedNow s n.val fun c k => !c.on && (k == 4 || k == 5))) s fun s =>
    trip n.val (if soaInRamp s n.val then rampCode vout vbus else 3) true vout vbus s

/-- OUTPUT_PRESENT_CHECK (R373): VOUT above 1.0 V trips the slot with FET_SHORT. -/
def execOutputPresentCheck (n : SlotId) (vout vbus : BitVec 12) (s : State) : Host.Outcome State Fault Refusal :=
  guarded (slotPowered s n.val && 2 ≤ cfgFetchk (slot s n.val) && !(slot s n.val).gate) s fun s =>
    let s := modSlot n.val (fun x => { x with discharge := false }) s
    let x := slot s n.val
    if 250 < vout.toNat && !(x.st == .tripped && x.tripCode == 7) then
      let s := trip n.val 7 false vout vbus s
      if cfgOringOpen x then modSlot n.val (fun x => { x with disconnected := true, orA := false, orB := false }) s else s
    else s

/-- PFW_ASSERT (R374): the cause asserts PFW_n in ON and opens the last-gasp opportunity at the core die. -/
def execPfwAssert (n : SlotId) (_cause : PfwCause) (s : State) : Host.Outcome State Fault Refusal :=
  guarded (slotPowered s n.val) s fun s =>
    let x := slot s n.val
    let s := modSlot n.val (fun x => { x with cause := true }) s
    if x.st == .on && !x.pfw then
      tellCore n.val 5 (dieEvent n.val 5 (modSlot n.val (fun x => { x with pfw := true }) s))
    else s

/-- PFW_CLEAR (R374, R375): no cause has held for 10 ms. -/
def execPfwClear (n : SlotId) (s : State) : Host.Outcome State Fault Refusal :=
  guarded (slotPowered s n.val) s fun s =>
    let x := slot s n.val
    let s := modSlot n.val (fun x => { x with cause := false }) s
    if x.st == .on && x.pfw then
      let s := dieEvent n.val 6 (modSlot n.val (fun x => { x with pfw := false }) s)
      if hears s (dieOf n.val) then endLastGasp n.val s else s
    else s

/-- TELEMETRY_CONVERSION (R376, R485). -/
def execTelemetryConversion (n : SlotId) (va vb vbus vout isense : BitVec 12) (s : State) :
    Host.Outcome State Fault Refusal :=
  guarded (slotPowered s n.val) s (convert n.val va vb vbus vout isense)

/-- TEL_PEAK_RESTART (R485). -/
def execTelPeakRestart (n : SlotId) (s : State) : Host.Outcome State Fault Refusal :=
  guarded (slotPowered s n.val) s (telRestart n.val)

/-- REMOVAL_LATCH_CLEAR (R371): PRSNT_n has been high for PRS_DEB. -/
def execRemovalLatchClear (n : SlotId) (s : State) : Host.Outcome State Fault Refusal :=
  guarded (slotPowered s n.val && (slot s n.val).st == .tripped && cfgPrsntClears (slot s n.val)
    && !(slot s n.val).present) s fun s =>
    modSlot n.val (fun x => { x with st := .empty }) (clearLatch n.val s)

/-- VMULE_LOSS (R500): every gate off, PFW_n undriven. -/
def execVmuleLoss (g : DieId) (s : State) : Host.Outcome State Fault Refusal :=
  done (each (List.range 16) (fun j s =>
    modSlot (16 * g.val + j) (fun x => { x with gate := false, pg := false, orA := false, orB := false, pfw := false }) s)
    (modDie g.val (fun d => { d with powered := false }) s))

/-- VMULE_RISE (R500, R354, R361): the die resets; its slots take their reset values, every feed starts
invalid and the minimum off time counts from here. -/
def execVmuleRise (g : DieId) (s : State) : Host.Outcome State Fault Refusal :=
  done (each (List.range 16) (fun j s =>
    let n := 16 * g.val + j
    let s := modSlot n (fun x =>
      { present := x.present, st := if x.present then .debounce else .empty, minOff := true, discharge := true }) s
    { s with eic := { s.eic with evt := tdel s.eic.evt (64 + n), slotEn := tdel s.eic.slotEn n }
             slots := { s.slots with tel := tdel s.slots.tel n } })
    (modDie g.val (fun _ => {}) s))

end Sys2Proof.Machine
end

