-- ==== Sys2Proof/Machine/Faults.lean ====
section
/-! DEFINITION. Internal errors: counting in windows, passing and lasting faults, engine reset and retirement, the
core-die fatal error, and the Xebirok records that they send (R379 to R386, R391, R404). -/

namespace Sys2Proof.Machine

/-! ### Xebirok records (R391) -/

/-- Header, body and CRC-32 of a record. -/
def xbkRecord (s : State) (typ flags : Nat) (seq : U32) (body : List Byte) : List Byte :=
  let b := [BitVec.ofNat 8 typ, BitVec.ofNat 8 flags] ++ natLE 2 body.length ++ natLE 4 seq.toNat
    ++ natLE 4 s.pair.rxSeq.toNat ++ natLE 4 (epoch32 s 0) ++ body
  b ++ natLE 4 (crc32 b).toNat

/-- Sends a record that is kept for resend: it takes the next SEQ. -/
def xbkSend (typ : Nat) (body : List Byte) (s : State) : State :=
  if s.pair.linkUp then
    let q := s.pair.txSeq + 1
    let s := emit (.xbk typ (xbkRecord s typ 0 q body)) s
    { s with pair := { s.pair with txSeq := q, retry := s.pair.retry ++ [⟨q, typ, body⟩], ackDue := false } }
  else s

/-- Sends a NO_RETRY record: it carries the SEQ of the last record kept. -/
def xbkSendOnce (typ : Nat) (body : List Byte) (s : State) : State :=
  if s.pair.linkUp then
    { emit (.xbk typ (xbkRecord s typ 2 s.pair.txSeq body)) s with
      pair := { s.pair with ackDue := false } }
  else s

/-- The pair is one of two parts that hold a role. -/
def isActive (s : State) : Bool := s.pair.st == .active || s.pair.st == .activeAlone || s.pair.st == .single

/-- This part drives the bus: it runs, holds the active role (or is a single part), and is not handing over
(R401, R404). -/
def serves (s : State) : Bool := live s && isActive s && !s.pair.yielding

/-- A write to the BAR0 of function `f` has effect: the firmware runs, the part is not a standby, and a VF is enabled and
not in reset (R348, R403, R458, R487). -/
def hostReaches (s : State) (f : Nat) : Bool :=
  serves s && s.pwr.ready && (f == 0 || ((fn s f).enabled && !(fn s f).flrBusy))

/-- Bytes 0 to 7 of FATAL and HANDOVER: a code, then EPOCH[31:0]. -/
def codeEpoch (code epoch : Nat) : List Byte := [BitVec.ofNat 8 code, 0, 0, 0] ++ natLE 4 epoch

/-- EPOCH[31:0] of the first frame boundary not less than 20 µs away (R404). -/
def boundaryAfter20us (s : State) : Nat :=
  if now s + 8000 ≤ s.tb.frameAt + s.tb.flen then epoch32 s 1 else epoch32 s 2

/-! ### Services and threads -/

/-- Every thread of an engine. -/
def threadsOf (x : Engine) : List Thread :=
  x.run.toList ++ x.suspended.toList ++ x.paused ++ x.parked.map fun p => p.2.thread

/-- The ports that an engine holds are released; a transaction of its own on them ends (R220, R383). -/
def releaseEngine (e : Nat) (s : State) : State :=
  { s with topo := { s.topo with port := s.topo.port.map fun p =>
      (p.1, { p.2 with
        txn := (match p.2.txn with | some t => if t.engine == some e then none else some t | none => none)
        lane := p.2.lane.filter fun o => o.1 != e
        heldBy := if p.2.heldBy == some e then none else p.2.heldBy
        holdWait := p.2.holdWait.filter (· != e)
        window := if p.2.window == some e then none else p.2.window }) } }

/-- Items that an engine runs or holds parked, and entries bound to services that it has not yet run in this
microframe, end with a status (R232, R383). -/
def endEngineWork (e : Nat) (st : Byte) (s : State) : State :=
  let x := eng s e
  let items := (threadsOf x).filterMap fun t => workItem s t.work
  let svc := (x.walk ++ x.cur.toList).filterMap (boundItem s)
  let s := each (items ++ svc) (finish · st) s
  let s := releaseEngine e s
  { s with front := { s.front with items := s.front.items.map fun i =>
      (i.1, if i.2.granted == some e then { i.2 with granted := none } else i.2) } }

/-- The state of an engine that has stopped: nothing runs on it. -/
def idleEngine (x : Engine) : Engine :=
  { x with run := none, suspended := none, paused := [], parked := [], walk := [], cur := none }

/-! ### Counting (R381, R382) -/

/-- `ERR[c].CFG` at reset: T and W of R381. -/
def errCfgInit : Nat → U32
  | 0 => BitVec.ofNat 32 (8 + 1000 * 256)
  | 1 => BitVec.ofNat 32 (3 + 10000 * 256)
  | 2 => BitVec.ofNat 32 (8 + 10000 * 256)
  | 3 => BitVec.ofNat 32 (32 + 1000 * 256)
  | 4 => BitVec.ofNat 32 (16 + 10000 * 256)
  | 5 => BitVec.ofNat 32 (64 + 10000 * 256)
  | _ => BitVec.ofNat 32 (255 + 100 * 256)

def errClass (s : State) (c : Nat) : ErrClass := tget { cfg := errCfgInit c } s.err.cls c
def modErr (c : Nat) (g : ErrClass → ErrClass) (s : State) : State :=
  { s with err := { s.err with cls := tput s.err.cls c (g (errClass s c)) } }

/-- T: 0 acts as 1. -/
def errT (x : ErrClass) : Nat := max 1 (field x.cfg 0 8)
/-- W in frames: 0 acts as 1. -/
def errW (x : ErrClass) : Nat := max 1 (field x.cfg 8 16)

/-- The window of a class in which the present epoch lies (R382). -/
def errWindow (s : State) (c : Nat) : Nat := s.tb.epoch.toNat / errW (errClass s c)

/-- A window of the class that begins takes its counts back to 0; an error stamped in the first frame of a window belongs to
that window, whether or not its start has been handled (R8, R382). -/
def rollWindow (c : Nat) (s : State) : State :=
  if (errClass s c).window = errWindow s c then s
  else modErr c (fun x => { x with counts := [], window := errWindow s c }) s

/-- KIND of `ERR.LAST`. -/
def errKindCode : ErrKind → Nat
  | .corrected => 0 | .uncorrectable => 1 | .parityRepaired => 2 | .faultOrCrc => 3

/-! ### Actions -/

/-- A line at electrical idle, or with its drivers high-impedance. -/
def quietPorts (s : State) : State :=
  each (s.topo.port.map Prod.fst) (fun p s => if (port s p).enabled then emit (.line p .quiet) s else s) s

/-- Every port lane stops (R386 step 1). -/
def stopLanes (s : State) : State := each (s.topo.port.map Prod.fst) clearLane (quietPorts s)

/-- A core-die fatal error (R386). -/
def fatalError (cause : Nat) (s : State) : State :=
  if s.err.held then s
  else
    let s := stopLanes s
    let s := if s.straps.pairEn then
        let b := codeEpoch cause (epoch32 s 0)
        emit (.act false) (xbkSendOnce 6 b (xbkSendOnce 6 b (xbkSendOnce 6 b s)))
      else s
    emit (.aer 0) { s with
      err := { s.err with fatal := BitVec.ofNat 64 (cause + epoch32 s 0 * 2 ^ 32), held := true }
      pair := { s.pair with actOut := false } }

/-- The active part hands over: HANDOVER, its ports and DMA stop, and it yields at the boundary (R404). -/
def sendHandover (cause : Nat) (s : State) : State :=
  let at_ := boundaryAfter20us s
  let s := stopLanes (xbkSend 7 (codeEpoch cause at_) s)
  { s with pair := { s.pair with yielding := true, switchAt := some (BitVec.ofNat 32 at_) } }

/-- A part that gives up its role enters YIELDED; its core-die reset follows (R407). -/
def enterYielded (s : State) : State :=
  let s := each (List.range 4) (fun g s => if homeOf s g then handOver g s else s) s
  let s := stopLanes s
  let s := xbkSend 8 (BitVec.ofNat 8 (ofBool s.straps.pairId) :: zeros 7) s
  emit (.act false) { s with pair := { s.pair with
    st := .yielded, actOut := false, yielding := false, switchAt := none } }

/-- The compiler's entries after a retirement, with FALLBACK equal to ENGINE in every entry (R187). That those of the lost
engine go to their fallbacks is the model's reading (log 33). -/
def recompile (e : Nat) (s : State) : State :=
  let g := fun (r : Rung) =>
    let n := if r.engine = e then r.fallback else r.engine
    { r with engine := n, fallback := n }
  { s with sch := { s.sch with
    shadow := s.sch.shadow.map (fun x => (x.1, g x.2)), compiling := true, swapPend := false } }

/-- An engine is retired: items offered to it and flows and contexts whose affinity it was lose it (R31, R232, R384). -/
def retireEngine (e : Nat) (s : State) : State :=
  let s := endEngineWork e stRetired s
  let s := modEng e (fun x => { idleEngine x with retired := true, stopped := false }) s
  { s with
    front := { s.front with
      affinity := s.front.affinity.filter fun a => a.2 != e
      items := s.front.items.map fun i => (i.1, if i.2.offer == some e then { i.2 with offer := none } else i.2) }
    topo := { s.topo with ctx := s.topo.ctx.map fun c =>
      (c.1, if c.2.affinity == some e then { c.2 with affinity := none } else c.2) } }

/-- A lasting ENGINE fault: the first engine is retired; the second hands the rack over, yields a standby, or
is fatal in a single part (R38, R384, R414). -/
def engineLasting (e : Nat) (s : State) : State :=
  if s.sch.nm1Ok then
    let s := retireEngine e s
    recompile e { s with sch := { s.sch with nm1Ok := false, retiredEng := BitVec.ofNat 4 e } }
  else
    let s := retireEngine e s
    match s.pair.st with
    | .active => sendHandover 3 s
    | .standby => enterYielded s
    | _ => fatalError 4 s

/-- A root port is torn down with PORT_RESET_ABORT and held disabled (R121, R384). -/
def disablePort (p : Nat) (s : State) : State :=
  modPort p (fun x => { x with admin := false }) (portGone p stPortReset s)

/-- A lasting PORT fault (R384). -/
def portLasting (p : Nat) (s : State) : State :=
  let s := disablePort p s
  raise .err 2 { s with err := { s.err with portFailed := s.err.portFailed ||| BitVec.ofNat 64 (2 ^ p) } }

/-- A lasting MULE fault: keep-alives to the die stop and the legacy ports of its slots leave with DEVICE_GONE
(R385). -/
def muleLasting (g : Nat) (s : State) : State :=
  let s := { s with err := { s.err with muleFailed := s.err.muleFailed ||| BitVec.ofNat 4 (2 ^ g) } }
  let s := each (List.range 16) (fun j s =>
    let p := 16 * g + j
    if (port s p).enabled && !serdes (port s p).gen then portGone p stDeviceGone s else s) s
  raise .err 3 s

/-- The Xebirok link goes down (R390, R397): a standby enters STALE, an active part is alone. -/
def linkDown (s : State) : State :=
  let s := { s with pair := { s.pair with linkUp := false, lanes := 0, retry := [], nakSent := false, hbOk := false } }
  match s.pair.st with
  | .sync | .standby => raise .pair 4 { s with pair := { s.pair with st := .stale } }
  | .active => raise .pair 2 { s with pair := { s.pair with st := .activeAlone } }
  | _ => s

/-- A lasting LINK fault: an active part with a ready standby hands over (R404); the link is taken down
(R384). -/
def linkLasting (s : State) : State :=
  linkDown (if s.pair.st == .active then sendHandover 5 s else s)

/-- The action of a lasting fault (R384). -/
def lastingAction (c inst : Nat) (s : State) : State :=
  match c with
  | 0 => retirePage inst s
  | 1 => engineLasting inst s
  | 2 => portLasting inst s
  | 3 => muleLasting inst s
  | 4 => fatalError 5 s
  | 5 => fatalError 6 s
  | _ => linkLasting s

/-- The action of a class stands and its count has stopped (R382). -/
def stoppedCounting (s : State) (c inst : Nat) : Bool := (errClass s c).stopped.contains inst

/-- Counts an error against a member of a class; at T the fault is lasting (R382). -/
def countError (c inst kind : Nat) (s : State) : State :=
  if stoppedCounting s c inst then s
  else
    let s := rollWindow c s
    let n := tget 0 (errClass s c).counts inst + 1
    let s := modErr c (fun x => { x with total := x.total + 1, counts := tput x.counts inst n }) s
    let s := { s with err := { s.err with
      last := BitVec.ofNat 64 (c + kind * 2 ^ 4 + inst * 2 ^ 8 + epoch32 s 0 * 2 ^ 32) } }
    if errT (errClass s c) ≤ n then
      let s := modErr c (fun x => { x with
        stopped := if c = 6 then x.stopped else inst :: x.stopped
        lasting := if x.lasting = 0xFFFF then x.lasting else x.lasting + 1 }) s
      lastingAction c inst (raise .err 0 s)
    else s

/-! ### Passing faults (R383) -/

/-- An engine reset. -/
def engineReset (e : Nat) (s : State) : State :=
  if (eng s e).retired then s
  else
    let s := endEngineWork e stAbortedReset s
    raise .err 1 (modEng e (fun x => { idleEngine x with stopped := true, dmem := [], scratch := [] }) s)

/-- A microcode fault of an engine (R241): counted; the engine is reset unless the fault is lasting. -/
def engineFault (e : Nat) (s : State) : State := engineReset e (countError 1 e 3 s)

/-- Class and member of a site (R381). -/
def siteClass : ErrSite → Nat × Nat
  | .bufferPage p => (0, p.val)
  | .engineMem e | .engineFault e | .engineXbar e => (1, e.val)
  | .portLane p => (2, p.val)
  | .muleLink g | .muleKeepalive g | .muleParity g => (3, g.val)
  | .descriptorCache _ | .contextCache _ _ | .dispatcherEntry _ | .dataPathPcie _ => (4, 0)
  | .bellwetherSram | .tableBank _ | .periodicTable _ | .eventController => (5, 0)
  | .configParity c i => (c.val, i.toNat)

/-- The head item of an endpoint's flow. -/
def headItem (s : State) (num : Nat) (epaddr : Byte) : Option Nat :=
  (s.front.items.find? fun e => e.2.status.isNone && e.2.slot == .work
    && (match e.2.flow with | some f => field f.handle 0 12 == num && f.epaddr == epaddr | none => false)).map Prod.fst

/-- The service of an entry in this microframe is not run; its bound entry completes MISSED (R379). -/
def skipService (r : Nat) (s : State) : State :=
  let s := match boundItem s r with | some i => finish i stMissed s | none => s
  { s with eng := { s.eng with eng := s.eng.eng.map fun e => (e.1, { e.2 with walk := e.2.walk.filter (· != r) }) } }

/-- The single-event effect of an error that could not be corrected (R379). -/
def uncorrectableEffect (site : ErrSite) (s : State) : State :=
  match site with
  | .bufferPage p => raise .dma 1 (endStagedIn p.val s)
  | .engineMem e | .engineFault e => engineReset e.val s
  | .portLane p =>
    match (port s p.val).txn with
    | some t => match workItem s t.work with | some i => lostEnd i (modPort p.val (fun x => { x with txn := none }) s) | none => s
    | none => s
  | .descriptorCache i =>
    match item? s i with
    | some x => if hasBegun x then finish i stXactErr s else invalidate x.func x.sq x.seen s
    | none => s
  | .contextCache n ep => match headItem s n.val ep with | some i => finish i stXactErr s | none => s
  | .dispatcherEntry i =>
    match item? s i with
    | some x => match x.flow with
      | some f => match headItem s (field f.handle 0 12) f.epaddr with | some h => finish h stXactErr s | none => s
      | none => s
    | none => s
  | .dataPathPcie i => match item? s i with | some x => if x.status.isNone then lostEnd i s else s | none => s
  | .bellwetherSram => fatalError 3 s
  | .tableBank r | .periodicTable r => skipService r.val s
  | _ => s

/-- A detected error: counted, then its effect; a fault of the engine or a CRC error has its effect at once, as
an uncorrectable one has (R379 to R383). -/
def detect (err : ErrReport) (s : State) : State :=
  let c := siteClass err.site
  let s := countError c.1 c.2 (errKindCode err.kind) s
  let s := match err.site with
    | .configParity k i => { s with err := { s.err with restoring := s.err.restoring ++ [(k.val, i.toNat)] } }
    | _ => s
  match err.kind with
  | .uncorrectable | .faultOrCrc => uncorrectableEffect err.site s
  | _ => s

/-- The counts of a class return to 0, and count on in the window that contains the present epoch; a member whose action
stands stays stopped (R382). -/
def clearCounts (c : Nat) (s : State) : State :=
  modErr c (fun x => { x with counts := [], window := errWindow s c }) s

/-! ### Commands -/

/-- ERROR_DETECTED (R381, R382). -/
def execErrorDetected (err : ErrReport) (s : State) : Host.Outcome State Fault Refusal :=
  guarded (live s) s (detect err)

/-- ENGINE_REJOIN (R383): the engine runs its own entries again. -/
def execEngineRejoin (e : EngId) (s : State) : Host.Outcome State Fault Refusal :=
  guarded (live s && (eng s e.val).stopped) s (modEng e.val fun x => { x with stopped := false })

/-- ERROR_WINDOW_START (R382). -/
def execErrorWindowStart (c : Fin 7) (s : State) : Host.Outcome State Fault Refusal :=
  guarded (live s) s (rollWindow c.val)

/-- Writes `ERR[c].CFG`: every count of the class is cleared (R382). -/
def errCfgWrite (c : Nat) (v : U32) (s : State) : State :=
  clearCounts c (modErr c (fun x => { x with cfg := v &&& 0x00FFFFFF }) s)

/-- ERR_CFG_WRITE (R382). -/
def execErrCfgWrite (c : Fin 7) (value : U32) (s : State) : Host.Outcome State Fault Refusal :=
  guarded (hostReaches s 0) s (errCfgWrite c.val value)

/-- Clears bits of `ERR.PORT_FAILED` and the PORT counts of those ports (R384). -/
def portFailedClear (mask : U64) (s : State) : State :=
  let hit := fun p => bit mask p && bit s.err.portFailed p
  let s' := { s with err := { s.err with portFailed := s.err.portFailed &&& ~~~mask } }
  modErr 2 (fun x => { x with
    counts := x.counts.filter (fun e => !hit e.1), stopped := x.stopped.filter fun p => !hit p }) s'

/-- ERR_PORT_FAILED_CLEAR (R384). -/
def execErrPortFailedClear (mask : U64) (s : State) : Host.Outcome State Fault Refusal :=
  guarded (hostReaches s 0) s (portFailedClear mask)

/-- CONFIG_RESTORED (R380): the field has been rewritten from the master copy. -/
def execConfigRestored (c : Fin 7) (inst : BitVec 12) (s : State) : Host.Outcome State Fault Refusal :=
  guarded (live s) s fun s =>
    raise .err 4 { s with err := { s.err with
      restoring := s.err.restoring.filter fun e => e != (c.val, inst.toNat) } }

/-- CORE_WATCHDOG_EXPIRY (R386): the loss of a bellwether core is fatal. -/
def execCoreWatchdogExpiry (core : Fin 2) (s : State) : Host.Outcome State Fault Refusal :=
  guarded (live s) s (fatalError (core.val + 1))

end Sys2Proof.Machine
end

