-- ==== Sys2Proof/Machine/Attach.lean ====
section
/-! DEFINITION. Attach: connect, debounce, detection, reset and generation announce of root and hub ports,
enumeration, handle reuse, ownership of a new device, status of hubs, and the mule events that open and close a
port (R22 to R25, R89 to R100, R110 to R117, R126 to R128, R333, R338, R463 to R465). The control transfers of
enumeration and the requests to hubs are work items that the engines run (log 45). -/

namespace Sys2Proof.Machine

/-! ### Connect and debounce (R110 to R112) -/

/-- The connect indication of a root port (R110, R123). -/
def connectOf (x : Port) : Bool :=
  x.pg && (x.bias || (x.farEnd && decide (3 ≤ if x.attach == .idle then genCap x else x.genUse)))

/-- The port attaches devices: enabled by the manager, and not held after a failure (R113, R117, R122). -/
def attaches (x : Port) : Bool := x.admin && !x.held

/-- The debounce of a root port starts or restarts; it needs power-good (R22, R111). -/
def debounceRoot (p : Nat) (s : State) : State :=
  modPort p (fun x => if x.pg && attaches x && !x.enabled && (x.attach == .idle || x.attach == .debounce)
    then { x with attach := .debounce, genUse := genCap x, tries := 0, trainings := 0 } else x) s

/-- The slot bound to a hub port, if any, reports power-good (R112). -/
def boundGood (s : State) (x : HubPort) : Bool :=
  match x.slot with
  | some n => (port s n).pg
  | none => true

/-- The debounce of a hub port starts or restarts (R111, R112). -/
def debounceHub (h q : Nat) (s : State) : State :=
  let x := hubPort s h q
  if x.connect && x.admin && !x.held && !x.enabled && boundGood s x && (x.attach == .idle || x.attach == .debounce) then
    modHubPort h q (fun x => { x with attach := .debounce, tries := 0 }) s
  else s

/-- A disconnect on an attached place, or on one whose attach is in progress (R134, R135). -/
def disconnect (at_ : Loc) (s : State) : State := locGone at_ stDeviceGone s

/-- The connect indication of a root port changes. On an enabled port only the limits of R134 make a
disconnect. -/
def rootConnect (p : PortId) (present : Bool) (s : State) : State :=
  let s := modPort p.val (fun x => { x with bias := present, farEnd := x.farEnd && (present || x.enabled) }) s
  let x := port s p.val
  if x.enabled then s
  else if !present && x.attach != .idle && x.attach != .debounce then disconnect (.root p) s
  else debounceRoot p.val s

/-- The connect indication of a hub port changes: what was attached or attaching leaves, a reset of the port that waits its
turn is abandoned, and a present device is debounced. A disconnect ends a hold (R91, R134, R135). -/
def hubConnect (h : Fin 4096) (q : Fin 16) (present : Bool) (s : State) : State :=
  let queued := (port s (locPort s (.hub h q))).enumQueue.contains (.hub h q)
  let s := match (hubPort s h.val q.val).attach with
    | .debounce | .held => s
    | .idle => if queued then disconnect (.hub h q) s else s
    | _ => disconnect (.hub h q) s
  let s := modHubPort h.val q.val (fun x => { x with
    connect := present, held := x.held && present, attach := .idle }) s
  debounceHub h.val q.val s

/-- CONNECT_CHANGE (R111). -/
def execConnectChange (at_ : Loc) (present : Bool) (s : State) : Host.Outcome State Fault Refusal :=
  guarded (serves s && locExists s at_) s fun s =>
    match at_ with
    | .root p => rootConnect p present s
    | .hub h q => hubConnect h q present s

/-! ### The mule's messages (R22 to R25) -/

/-- MULE_REMOVAL_EVENT (R23). -/
def execMuleRemovalEvent (n : SlotId) (s : State) : Host.Outcome State Fault Refusal :=
  guarded (live s) s (slotTreeGone n.val)

/-- MULE_TRIP_EVENT (R24). -/
def execMuleTripEvent (n : SlotId) (s : State) : Host.Outcome State Fault Refusal :=
  guarded (live s) s (slotTreeGone n.val)

/-- MULE_PFW_EVENT (R25, R375): the power-fail event, and the last-gasp opportunity. -/
def execMulePfwEvent (n : SlotId) (s : State) : Host.Outcome State Fault Refusal :=
  guarded (live s) s fun s => raiseSlot n.val 5 (modPort n.val (fun x => { x with lastGasp := true }) s)

/-- The core die hears of power-good: the debounce of the port, and of hub ports bound to the slot, starts (R22, R112). -/
def slotPowerGood (n : Nat) (s : State) : State :=
  let s := debounceRoot n (modPort n (fun x => { x with pg := true, held := false }) s)
  each (boundPorts s n) (fun l s => match l with
    | .hub h q => debounceHub h.val q.val s
    | .root _ => s) s

/-- MULE_POWER_GOOD_EVENT (R22, R112). -/
def execMulePowerGoodEvent (n : SlotId) (s : State) : Host.Outcome State Fault Refusal :=
  guarded (live s) s (slotPowerGood n.val)

/-! ### From debounce to reset (R111, R113, R464) -/

/-- A root port continues as a legacy port (R113). -/
def legacyReset (p : Nat) (s : State) : State :=
  beginRootReset p (modPort p (fun x => { x with farEnd := false }) s)

/-- The first reset or the training of a debounced root port (R113, R123). -/
def attachRoot (p : Nat) (s : State) : State :=
  let s := modPort p (fun x => { x with genUse := genCap x }) s
  if (port s p).genUse ≤ 2 then beginRootReset p s
  else emit (.line p .detectPulse) (modPort p (fun x => { x with attach := .detect, link := .detect }) s)

/-- ATTACH_DEBOUNCE_END (R111, R464). -/
def execAttachDebounceEnd (at_ : Loc) (s : State) : Host.Outcome State Fault Refusal :=
  guarded (serves s && locExists s at_ && locAttach s at_ == .debounce) s fun s =>
    match at_ with
    | .root p =>
      if !connectOf (port s p.val) then modPort p.val (fun x => { x with attach := .idle }) s
      else if reportsFull s then modPort p.val (fun x => { x with attach := .held }) s
      else attachRoot p.val s
    | .hub h q =>
      let s := hubRequest h.val 0x21 0x86 0 q.val s
      let s := modHubPort h.val q.val (fun x => { x with attach := .idle }) s
      if (hubPort s h.val q.val).connect then queueHub at_ s else s

/-- Room for a report has come: held ports proceed, and the trees enumerate on (R464). -/
def releaseHeld (s : State) : State :=
  if reportsFull s then s
  else
    let ps := s.topo.port.map Prod.fst
    let s := each ps (fun p s => if (port s p).attach == .held then attachRoot p s else s) s
    each ps beginDue s

/-! ### Contexts and numbers (R94, R463) -/

/-- Free endpoint contexts. -/
def freeCtxs (s : State) : Nat := 32768 - s.topo.ctx.length

/-- Opens a context of a device under enumeration; its backing index is a free value (log 21). -/
def openCtx (num : Nat) (d : Device) (ep : Nat) (dirIn : Bool) (c : Ctx) (s : State) : State :=
  let f := freshIndex s
  setCtx f.2 (ctxKey num ep dirIn) { c with
    handle := handleWord s num, epaddr := BitVec.ofNat 8 (ep + 128 * ofBool dirIn), port := d.port, waddr := d.waddr,
    tiers := d.tier - 1, tt := d.tt, gen := d.gen, index := Config.contextIndex f.1 }

/-- The context of endpoint 0 (R116): the generation's maximum payload until the identity is read. Its bursts
are the generation's (log 49). -/
def openZero (num : Nat) (d : Device) (s : State) : State :=
  openCtx num d 0 false
    { typ := 0, isOpen := true, mps := BitVec.ofNat 11 (maxPayload d.gen),
      maxBurst := BitVec.ofNat 4 (maxBurstOf d.gen - 1) } s

/-- The context of a described endpoint, opened by SET-CONFIG. -/
def openEp (num : Nat) (d : Device) (e : List Byte) (s : State) : State :=
  openCtx num d (epNum e) (epDirIn e)
    { typ := BitVec.ofNat 2 (epType e), lastGasp := epLastGasp e, mps := BitVec.ofNat 11 (epMps e),
      maxBurst := BitVec.ofNat 4 (epMaxBurst e), interval := epInterval e } s

/-- SET-CONFIG 1 has completed: every endpoint of the device is open, not halted, with SEQ 0 (R127, R516). -/
def openAll (num : Nat) (s : State) : State :=
  { s with topo := { s.topo with ctx := s.topo.ctx.map fun e =>
      (e.1, if e.1 / 32 == num then { e.2 with isOpen := true, halted := false, seq := 0, seqOut := 0 } else e.2) } }

/-- A place is put in the order of refusal; one that is there keeps its place (R465). -/
def addRefused (l : Loc) (s : State) : State :=
  if s.topo.refused.contains l then s else { s with topo := { s.topo with refused := s.topo.refused ++ [l] } }

/-- The port above a place is disabled, its attach left in a given state. -/
def shutPort (at_ : Loc) (a : Attach) (held : Bool) (s : State) : State :=
  match at_ with
  | .root p =>
    emit (.line p.val .idle) (modPort p.val (fun x => { portIdle x with attach := a, held := held, commanded := false })
      (unhold p.val (clearLane p.val s)))
  | .hub h q =>
    let s := clearFeature h.val 0 q.val s
    modHubPort h.val q.val (fun x => { x with
      attach := a, held := held, enabled := false, resetting := false, commanded := false }) s

/-- What the enumeration of a place held is free again: the port refused first is reset again (R96, R465). A place that is
in the order of refusal itself gives back only what its retry took: no other port is served by it (DESIGN CHOICE, log 93). -/
def freedBy (at_ : Loc) (s : State) : State := if s.topo.refused.contains at_ then s else retryRefused s

/-- The enumeration in progress gives back what it holds: contexts, address and handle number (R94, R463). -/
def dropEnum (p : Nat) (s : State) : State :=
  match (port s p).enum with
  | some e =>
    let s := modPort p (fun x => { x with enum := none }) s
    if e.again || (dev? s e.num).isSome then dropRequests e.num s
    else freedBy e.loc (untakeHandle e.num (closeCtxs e.num s))
  | none => s

/-- A new device is refused: the port above it is disabled and waits in the order of refusal (R96, R338, R463). -/
def refuseAt (at_ : Loc) (ev : State → State) (s : State) : State :=
  let p := locPort s at_
  startNext p (ev (addRefused at_ (shutPort at_ .refused false (dropEnum p s))))

/-- CONTEXTS_EXHAUSTED (R463): ENUM_FAIL is raised, and the record bears its own code. -/
def contextsExhausted (p : Nat) (s : State) : State :=
  raisePort p 10 (addReport { kind := 3, port := p, event := 0x0F } s)

/-! ### Failure (R117) -/

/-- Failures of a place so far. -/
def locTries (s : State) : Loc → Nat
  | .root p => (port s p.val).tries
  | .hub h q => (hubPort s h.val q.val).tries
def setTries (at_ : Loc) (n : Nat) (s : State) : State :=
  match at_ with
  | .root p => modPort p.val (fun x => { x with tries := n }) s
  | .hub h q => modHubPort h.val q.val (fun x => { x with tries := n }) s

/-- Enumeration of the device at a place has failed: retried twice, each time after a fresh reset, then the port
is disabled and ENUM_FAIL raised, and its translator port is cleared (R108, R117). A later reset or attach of the place
starts the count afresh. -/
def enumFail (at_ : Loc) (s : State) : State :=
  let p := locPort s at_
  let n := locTries s at_ + 1
  let s := setTries at_ n (dropEnum p s)
  if n < 3 then
    match at_ with
    | .root p => startRootReset p.val s
    | .hub h q => queueHub at_ (modHubPort h.val q.val (fun x => { x with attach := .idle }) s)
  else
    let s := setTries at_ 0 (abandonCmds at_ (tearDown at_ stPortReset s))
    let s := match ttOf s at_ with | some t => clearTt t.hub t.port s | none => s
    startNext p (portEvent p 10 (shutPort at_ .idle true s))

/-! ### Resets end (R114, R115, R126) -/

/-- A commanded reset has completed: its RESET_DONE record, unless a device reset writes one with the identity
(R126, R127). -/
def resetDone (at_ : Loc) (s : State) : State :=
  let p := locPort s at_
  let cmd := match at_ with | .root p => (port s p.val).commanded | .hub h q => (hubPort s h.val q.val).commanded
  let s := match at_ with
    | .root p => modPort p.val (fun x => { x with commanded := false }) s
    | .hub h q => modHubPort h.val q.val (fun x => { x with commanded := false }) s
  if cmd then addRecord { kind := 6, port := p, gen := genCode (locGen s at_), path := locPath s at_ } s else s

/-- Reset signalling at a place has ended: the device there, which keeps its handle through a device reset, is in its
default state (R516). -/
def signalled (at_ : Loc) (s : State) : State :=
  match devAt s at_ with
  | some (n, _) => deviceDefault n s
  | none => s

/-- Signalling and announce of a place have ended: completions that waited are let go, the port is enabled, and
reset recovery begins (R115, R135). The error counts of a root port restart (R484). -/
def enterRecovery (at_ : Loc) (g : Gen) (s : State) : State :=
  let s := unparkAborts at_ false s
  let s := match at_ with
    | .root p => modPort p.val (fun x => { x with
        gen := g, enabled := true, resetting := false, attach := .recovery, trainings := 0, check := 0,
        timeouts := 0, babbles := 0, linkErrTotal := 0, recoveries := 0 }) s
    | .hub h q => modHubPort h.val q.val (fun x => { x with
        gen := g, enabled := true, resetting := false, attach := .recovery }) s
  resetDone at_ s

/-- RESET_SIGNALLING_END (R115). A hub announces the end of its port's reset by C_RESET (R103), so the row
concerns a root port; for a hub port it reads the port's status. -/
def execResetSignallingEnd (at_ : Loc) (s : State) : Host.Outcome State Fault Refusal :=
  guarded (serves s && locExists s at_ && locAttach s at_ == .signalling) s fun s =>
    match at_ with
    | .root p =>
      let s := signalled at_ s
      if serdesSide (port s p.val) then
        emit (.line p.val .detectPulse) (modPort p.val (fun x => { x with attach := .detect, link := .detect }) s)
      else modPort p.val (fun x => { x with attach := .announce }) s
    | .hub h q => hubRequest h.val 0x21 0x86 0 q.val s

/-- The generation that the port confirms: the highest announced one not above GEN_MAX; N1 where there is none.
An announcement of no legacy generation fails (R114, R117, R123). -/
def confirmGen (x : Port) : Option Gen → Option Gen
  | none => some .n1
  | some g => if 2 < genCode g then none else if genCode g ≤ x.genUse then some g else some .n1

/-- ANNOUNCE_WINDOW_END (R114): with nothing attached the reset is over (R124). -/
def execAnnounceWindowEnd (p : PortId) (announced : Option Gen) (s : State) : Host.Outcome State Fault Refusal :=
  guarded (serves s && (port s p.val).attach == .announce) s fun s =>
    if !connectOf (port s p.val) then
      resetDone (.root p) (unparkAborts (.root p) false (modPort p.val portIdle s))
    else
      match confirmGen (port s p.val) announced with
      | none => enumFail (.root p) s
      | some .n1 => enterRecovery (.root p) .n1 s
      | some g => emit (.line p.val (.confirm g)) (modPort p.val (fun x => { x with attach := .confirm, confirm := g }) s)

/-- GEN_CONFIRM_END (R114). -/
def execGenConfirmEnd (p : PortId) (s : State) : Host.Outcome State Fault Refusal :=
  guarded (serves s && (port s p.val).attach == .confirm) s fun s =>
    enterRecovery (.root p) (port s p.val).confirm s

/-! ### Training ends (R113) -/

/-- Training of a root link has failed: three times, and the port is legacy or stays disabled (R113). -/
def trainingFailed (p : Nat) (s : State) : State :=
  let n := (port s p).trainings + 1
  let s := modPort p (fun x => { x with
    trainings := n, link := .detect, attach := if x.enabled then x.attach else .training, fromLowPower := false,
    capGot := false, doneSent := false, doneGot := false, cmdWait := none, rateN5 := false }) s
  if n < 3 then emit (.line p .detectPulse) s
  else if (port s p).bias then legacyReset p (if (port s p).enabled then portGone p stDeviceGone s else s)
  else portEvent p 9 (modPort p (fun x => { x with held := true }) (portGone p stDeviceGone s))

/-- DETECT_WINDOW_END (R113). -/
def execDetectWindowEnd (p : PortId) (s : State) : Host.Outcome State Fault Refusal :=
  guarded (serves s && (port s p.val).attach == .detect) s fun s =>
    let x := port s p.val
    if x.farEnd then
      emit (.line p.val .trainingSets) (modPort p.val (fun x => { x with attach := .training, link := .polling }) s)
    else if x.bias then legacyReset p.val s
    else modPort p.val portIdle s

/-- TRAINING_TIMEOUT (R113). -/
def execTrainingTimeout (p : PortId) (s : State) : Host.Outcome State Fault Refusal :=
  guarded (serves s && ((port s p.val).link == .polling || (port s p.val).link == .config
    || ((port s p.val).link == .detect && (port s p.val).attach == .training))) s (trainingFailed p.val)

/-! ### Enumeration (R90, R94, R116, R463) -/

/-- The contexts of a device name the wire address that it answers at: 0 until SET-ADDRESS has completed (R90, R116). -/
def addressAs (num a : Nat) (s : State) : State := modCtxs num (fun _ c => { c with waddr := a }) s

/-- Asks for the request of an enumeration step (R15, R116). -/
def enumStep (p : Nat) (e : Enum) (st : EnumStep) (s : State) : State :=
  let s := modPort p (fun x => { x with enum := some { e with step := st } }) s
  match st with
  | .setAddress => request e.num 0x02 0x00 e.waddr 0 0 (addressAs e.num 0 s)
  | .addressWait => addressAs e.num e.waddr s
  | .getIdent => request e.num 0x03 0x80 0x0100 0 32 s
  | .getHub => request e.num 0x03 0x80 0x0900 0 16 s
  | .getEps => request e.num 0x03 0x80 0x0200 0 (8 * idNumEp e.ident) s
  | .setConfig => request e.num 0x04 0x00 1 0 0 s
  | .portPower q => request e.num 0x22 0x06 3 q 0 s
  | _ => s

/-- The device as its enumeration begins, before anything of it is read. -/
def blankDevice (s : State) (p : Nat) (at_ : Loc) (a : Nat) : Device :=
  enumDevice s p { loc := at_, num := 0, waddr := a, step := .setAddress }

/-- Enumeration starts (R116 step 1): the device of a device reset keeps its number and address; a new one takes
the handle number longest free, the lowest free address and the context of endpoint 0. The handle is checked
first (R468). -/
def startEnum (at_ : Loc) (s : State) : State :=
  let p := locPort s at_
  match devAt s at_ with
  | some (n, d) =>
    enumStep p { loc := at_, num := n, waddr := d.waddr, step := .setAddress, again := true } .setAddress s
  | none =>
    match takeHandle s with
    | none => refuseAt at_ (portEvent p 5) s
    | some (n, t) =>
      match freeAddr s p with
      | none => refuseAt at_ (portEvent p 6) s
      | some a =>
        if freeCtxs s = 0 then refuseAt at_ (contextsExhausted p) s
        else
          let t := modHandle n (fun h => { h with use := .reserved }) t
          let t := openZero n (blankDevice t p at_ a) t
          enumStep p { loc := at_, num := n, waddr := a, step := .setAddress } .setAddress t

/-- RESET_RECOVERY_END (R115, R116). -/
def execResetRecoveryEnd (at_ : Loc) (s : State) : Host.Outcome State Fault Refusal :=
  guarded (serves s && locExists s at_ && locAttach s at_ == .recovery
    && (port s (locPort s at_)).enum.isNone) s (startEnum at_)

/-- ENUM_ADDRESS_WAIT_END (R116 steps 2 and 3). -/
def execEnumAddressWaitEnd (p : PortId) (s : State) : Host.Outcome State Fault Refusal :=
  guarded (serves s) s fun s =>
    match (port s p.val).enum with
    | some e => if e.step == .addressWait then enumStep p.val e .getIdent s else s
    | none => s

/-! ### A device joins -/

/-- The other owners of the domain that a place lies in (R336). -/
def domainOwners (s : State) (num : Nat) (d : Device) : List Nat :=
  ((domainDevs s (domainOf s d.port d.path)).filter (· != num)).map (ownerOf s)

/-- Owned handles of a function are fewer than its quota (R334). -/
def quotaRoom (s : State) (f : Nat) : Bool := decide ((ownedHandles s f).length < (fn s f).quota)

/-- Who owns a new device (R330, R333, R338): none where the VF that owns its domain has no quota left. -/
def newOwner (s : State) (num : Nat) (d : Device) (reused : Bool) : Option Nat :=
  let os := domainOwners s num d
  let back := if reused then (s.fns.returns.find? fun r => r.num == num).map fun r => r.func else none
  match back.filter fun f => (fn s f).created && !(fn s f).flrBusy && quotaRoom s f && os.all (· == f) with
  | some f => some f
  | none =>
    match os with
    | [] => some 0
    | o :: r =>
      if r.all (· == o) && o != 0 then (if quotaRoom s o then some o else none) else some 0

/-- A script's bus instructions other than DLY may not act on the device's path, or its generation is not
declared (R244, R251). -/
def bindBar (d : Device) (c : Script) : Option Nat :=
  if d.isHub then some 0x0A
  else if !bit c.gens (genCode d.gen) then some 0x07
  else if c.bus && d.tt.isSome then some 0x08
  else none

/-- An identity rule matches. -/
def ruleMatches (r : IdRule) (ident : List Byte) : Bool :=
  r.vendor.toNat == idVendor ident && r.product.toNat == idProduct ident
    && (r.revision == 0xFFFF || r.revision.toNat == idRevision ident)

/-- Applies the identity rules to a new device before its report; one that fails the checks is skipped
(R251, R252). -/
def applyRules (num : Nat) (d : Device) (s : State) : State :=
  match s.eng.rules.find? fun r => ruleMatches r d.ident with
  | none => s
  | some r =>
    match tfind s.eng.scripts r.number with
    | none => s
    | some c =>
      match bindBar d c with
      | some _ => raise .eng 1 s
      | none =>
        let s := modDev num (fun x => { x with script := r.number }) s
        { s with topo := { s.topo with ctx := s.topo.ctx.map fun e =>
            (e.1, if e.1 / 32 == num then { e.2 with script := r.number } else e.2) } }

/-- The reservation that a hub's status-change endpoint asks for (R99): a period of 1 frame, charged to PF0. -/
def statusRung (s : State) (num : Nat) (d : Device) : Option Rung :=
  (ctx? s num 1 true).map fun c =>
    rungFor d c (handleWord s num) .event (if genCode d.gen ≤ 1 then 0 else 3) 1 2 0 c.lastGasp

/-- Asks for the admission of a hub's status-change endpoint. -/
def admitStatus (num : Nat) (s : State) : Option State :=
  match dev? s num with
  | none => none
  | some d =>
    match statusRung s num d with
    | none => none
    | some r =>
      if pathSuspended s d then none
      else match tryAdmit s r with
        | .inl (_, t) => some t
        | .inr _ => none

/-- A refused hub is polled: its PORT_EVENT record has code 0x10 and its handle (R100). -/
def startPolling (num : Nat) (d : Device) (s : State) : State :=
  let s := modDev num (fun x => { x with polled := true }) s
  addReport { kind := 3, port := d.port, handle := handleWord s num, event := 0x10 } s

/-- The device of number `num` becomes live under its owner, is reported, and a hub's status endpoint is
admitted (R94, R99, R116). -/
def joinAs (num owner : Nat) (reused : Bool) (d : Device) (s : State) : State :=
  let s := enliven num owner d.isHub (modDev num (fun x => { x with reused := reused }) s)
  let s := if reused then s else { s with fns := { s.fns with returns := s.fns.returns.filter fun r => r.num != num } }
  let s := { s with topo := { s.topo with
    refused := s.topo.refused.filter (· != d.loc)
    ctx := s.topo.ctx.map fun e =>
      (e.1, if e.1 / 32 == num then { e.2 with handle := handleWord s num, owner := owner } else e.2) } }
  let s := applyRules num d s
  let s := attachRecord num { d with reused := reused } s
  let s := if owner != 0 then raiseVf owner 0 s else s
  let s := refreshIso s
  if d.isHub then
    match admitStatus num s with
    | some t => t
    | none => startPolling num d s
  else s

/-- The QUOTA_FULL event of R338, with the function that it concerns. -/
def quotaFull (f : Nat) (s : State) : State :=
  raise .vfr 0 { s with fns := { s.fns with evtFunc := f } }

/-- The device takes its owner and joins, or its domain's VF has no quota left and the port above it is
disabled. -/
def complete (num : Nat) (reused : Bool) (s : State) : State :=
  match dev? s num with
  | none => s
  | some d =>
    match (if d.isHub then some 0 else newOwner s num d reused) with
    | some f => joinAs num f reused d s
    | none =>
      let v := (domainOwners s num d).headD 0
      let s := untakeHandle num (closeCtxs num { s with topo := { s.topo with dev := tdel s.topo.dev num } })
      refuseAt d.loc (quotaFull v) (freedBy d.loc s)

/-- Renames places below the hub that held a number. -/
def locRename (r o : Nat) : Loc → Loc
  | .hub h q => if h.val = r then .hub (Fin.ofNat 4096 o) q else .hub h q
  | l => l

/-- The device of number `r` takes number `o` (R94, R331). -/
def rekey (r o : Nat) (s : State) : State :=
  let tt := fun (t : Option TtPath) => t.map fun x => if x.hub = r then { x with hub := o } else x
  let dev := s.topo.dev.foldl (fun m e => tput m (if e.1 = r then o else e.1)
    { e.2 with loc := locRename r o e.2.loc, tt := tt e.2.tt }) []
  let ctx := s.topo.ctx.foldl (fun m e => tput m (if e.1 / 32 = r then o * 32 + e.1 % 32 else e.1)
    { e.2 with tt := tt e.2.tt }) []
  let body := fun (b : PostBody) =>
    if field b.handle 0 12 = r then { b with handle := BitVec.ofNat 16 (field b.handle 12 4 * 4096 + o) } else b
  { s with front := { s.front with
    resident := s.front.resident.map (fun k => if k / 32 = r then o * 32 + k % 32 else k)
    requests := s.front.requests.map (fun e => if e.1 = r then (o, e.2) else e)
    items := s.front.items.map fun e => (e.1, { e.2 with posted := e.2.posted.map body }) }, topo := { s.topo with
    dev := dev, ctx := ctx, refused := s.topo.refused.map (locRename r o)
    port := s.topo.port.map fun e => (e.1, { e.2 with
      txn := e.2.txn.map fun x => if x.num = r then { x with num := o } else x
      enumQueue := e.2.enumQueue.map (locRename r o)
      enum := e.2.enum.map fun x => { x with loc := locRename r o x.loc } }) } }

/-- The old number that a device found again takes: same path, same identity (R94). -/
def oldNumber (s : State) (d : Device) : Option Nat :=
  (s.topo.handle.find? fun e => e.2.lastPort == d.port && e.2.lastPath == d.path && e.2.lastIdent == d.ident
    && !d.ident.isEmpty && (match e.2.use with | .free | .waiting _ => true | _ => false)).map Prod.fst

/-- The device of number `r` is reported under its old number `o`; `r` is free again (R94, R96). -/
def adopt (r o : Nat) (s : State) : State :=
  let s := { s with topo := { s.topo with
    reuse := s.topo.reuse.filter (fun e => e.1 != r)
    freeHead := s.topo.freeHead.filter (· != o), freeTail := s.topo.freeTail.filter (· != o) } }
  retryRefused (complete o true (rekey r o (untakeHandle r s)))

/-- A torn-down number whose reuse condition holds (R93). -/
def reusable (s : State) (h : Handle) : Bool :=
  match h.use with
  | .waiting rec => rec.all (passed s)
  | _ => false

/-- Numbers whose reuse condition has come to hold are taken by the devices that wait for them, or join the free
list, and refused ports are tried again (R93, R94, R96). -/
def sweepHandles (s : State) : State :=
  let hit := (s.topo.handle.filter fun e => reusable s e.2).map Prod.fst
  each hit (fun n s =>
    match s.topo.reuse.find? fun e => e.2 == n with
    | some e => adopt e.1 n s
    | none => retryRefused (modHandle n (fun h => { h with use := .free })
        { s with topo := { s.topo with freeTail := s.topo.freeTail ++ [n] } })) s

/-- Enumeration has ended: the device joins under its old number where it was here before, once that number is
reusable, else under its reserved one (R94). -/
def finishEnum (p : Nat) (e : Enum) (s : State) : State :=
  let d := enumDevice s p e
  let s := setDev (modPort p (fun x => { x with enum := none }) s) e.num d
  let s := match e.loc with
    | .root p => modPort p.val (fun x => { x with attach := .ready, tries := 0 }) s
    | .hub h q => modHubPort h.val q.val (fun x => { x with attach := .ready, tries := 0 }) s
  let s := match oldNumber s d with
    | none => complete e.num false s
    | some o =>
      if (handle s o).use == .free || reusable s (handle s o) then adopt e.num o s
      else { s with topo := { s.topo with reuse := s.topo.reuse ++ [(e.num, o)] } }
  startNext p s

/-- HANDLE_REUSE_TIMEOUT (R94): the device keeps its reserved number. -/
def execHandleReuseTimeout (h : Fin 4096) (s : State) : Host.Outcome State Fault Refusal :=
  guarded (live s && s.topo.reuse.any fun e => e.1 == h.val) s fun s =>
    complete h.val false { s with topo := { s.topo with reuse := s.topo.reuse.filter fun e => e.1 != h.val } }

/-- A device reset has ended with the same identity: its RESET_DONE record, which answers the command
(R126, R127). -/
def finishAgain (p : Nat) (e : Enum) (s : State) : State :=
  let s := openAll e.num (modPort p (fun x => { x with enum := none }) s)
  let s := match e.loc with
    | .root p => modPort p.val (fun x => { x with attach := .ready, tries := 0 }) s
    | .hub h q => modHubPort h.val q.val (fun x => { x with attach := .ready, tries := 0 }) s
  let s := match dev? s e.num with
    | some d => addRecord (deviceReport s 6 e.num d) s
    | none => s
  startNext p s

/-- A hub at tier 6 (R91). A device reset that has found it is abandoned. -/
def tierLimit (p : Nat) (at_ : Loc) (s : State) : State :=
  let s := answerTopo (fun w => w.changed && w.wait == .reset at_) 9 s
  startNext p (portEvent p 7 (shutPort at_ .idle true (dropEnum p s)))

/-- The identity is known: endpoint 0 runs at the device's EP0_MPS from now on, and the descriptors of its kind are read
(R91, R116). The spec gives no request for a device that announces no endpoint besides 0: SET-CONFIG follows at once
(DESIGN CHOICE, log 94). -/
def afterIdent (p : Nat) (e : Enum) (data : List Byte) (s : State) : State :=
  let e := { e with ident := data }
  let s := modCtx (ctxKey e.num 0 false) (fun c => { c with mps := BitVec.ofNat 11 (idEp0Mps data) }) s
  if idIsHub data then
    if 5 ≤ (locPath s e.loc).length then tierLimit p e.loc (modPort p (fun x => { x with enum := some e }) s)
    else enumStep p e .getHub s
  else if idNumEp data = 0 then enumStep p e .setConfig s
  else enumStep p e .getEps s

/-- The identity of a device reset differs: the old device leaves, and a new one is enumerated at its address
(R127). The command waits for the ATTACH record that the new device writes in place of RESET_DONE, and is then answered with
its change flag (R125; DEDUCED, log 95). -/
def identityChanged (p : Nat) (e : Enum) (data : List Byte) (s : State) : State :=
  let s := { s with topo := { s.topo with waiting := s.topo.waiting.map fun w =>
    if w.wait == (TopoWait.device e.num) then { w with wait := .reset e.loc, changed := true } else w } }
  let s := retryRefused (refreshIso (tearOne stPortReset e.num s))
  match takeHandle s with
  | none => refuseAt e.loc (portEvent p 5) s
  | some (n, t) =>
    let t := modHandle n (fun h => { h with use := .reserved }) t
    let e := { e with num := n, again := false, ident := data }
    afterIdent p e data (openZero n (enumDevice t p e) t)

/-- The identity has been read (R116 steps 3 to 5). -/
def gotIdent (p : Nat) (e : Enum) (data : List Byte) (s : State) : State :=
  if !identOk (locGen s e.loc) data then enumFail e.loc s
  else if e.again then
    match dev? s e.num with
    | some d => if d.ident == data then enumStep p e .setConfig s else identityChanged p e data s
    | none => s
  else afterIdent p e data s

/-- The endpoint descriptors are those that the identity announces, in order of endpoint, IN before OUT. -/
def epsOk (g : Gen) (n : Nat) (data : List Byte) : Bool :=
  let l := epList n data
  let key := fun d => 2 * epNum d + ofBool (!epDirIn d)
  data.length == 8 * n && l.all (epOk g) && decide ((l.map key).Pairwise (· < ·))

/-- A hub's status-change endpoint: endpoint 1, IN, event, 2 B (R99). -/
def statusCtx : List Byte := [8, 2, 0x81, 3, 2, 0, 0, 0]

/-- SET-CONFIG has completed (R116 steps 4 and 5). -/
def gotConfig (p : Nat) (e : Enum) (s : State) : State :=
  if e.again then finishAgain p e s
  else
    let s := openAll e.num s
    if idIsHub e.ident then enumStep p e (.portPower 1) s else finishEnum p e s

/-- The next hub port is powered, or the hub is complete. -/
def nextHubPort (p : Nat) (e : Enum) (q : Nat) (s : State) : State :=
  if q < hubPortsOf e.hubDesc then enumStep p e (.portPower (q + 1)) s else finishEnum p e s

/-- A control transfer of enumeration has completed (R116, R117): its item is gone. -/
def enumDone (p : Nat) (res : XferResult) (data : List Byte) (s : State) : State :=
  match (port s p).enum with
  | none => s
  | some e =>
    let s := if e.step == .addressWait then s else dropRequests e.num s
    if e.step == .addressWait || (match e.step with | .powerWait _ => true | _ => false) then s
    else if res != .ok then enumFail e.loc s
    else
      match e.step with
      | .setAddress => enumStep p e .addressWait s
      | .getIdent => gotIdent p e data s
      | .getHub =>
        if !hubOk (locGen s e.loc) data then enumFail e.loc s
        else if freeCtxs s < 1 then refuseAt e.loc (contextsExhausted p) s
        else
          let e := { e with hubDesc := data }
          enumStep p e .setConfig (openEp e.num (enumDevice s p e) statusCtx s)
      | .getEps =>
        if !epsOk (locGen s e.loc) (idNumEp e.ident) data then enumFail e.loc s
        else if freeCtxs s < idNumEp e.ident then refuseAt e.loc (contextsExhausted p) s
        else
          let e := { e with eps := data }
          let d := enumDevice s p e
          enumStep p e .setConfig (each (epList (idNumEp e.ident) data) (openEp e.num d) s)
      | .setConfig => gotConfig p e s
      | .portPower q => modPort p (fun x => { x with enum := some { e with step := .powerWait q } }) s
      | _ => s

/-- ENUM_TRANSFER_DONE (R116). -/
def execEnumTransferDone (p : PortId) (res : XferResult) (data : List Byte) (s : State) :
    Host.Outcome State Fault Refusal := guarded (serves s) s (enumDone p.val res data)

/-- HUB_POWER_ON_WAIT_END (R116). -/
def execHubPowerOnWaitEnd (p : PortId) (s : State) : Host.Outcome State Fault Refusal :=
  guarded (serves s) s fun s =>
    match (port s p.val).enum with
    | some e => match e.step with
      | .powerWait q => nextHubPort p.val e q s
      | _ => s
    | none => s

/-! ### Hub status (R99, R100, R103) -/

/-- C_RESET (R98, R115, R117). -/
def hubReset (h : Fin 4096) (q : Fin 16) (w : U32) (s : State) : State :=
  let at_ : Loc := .hub h q
  let p := locPort s at_
  if (hubPort s h.val q.val).attach != .signalling then s
  else
    let s := unparkAborts at_ false (signalled at_ s)
    if !bit w 0 then
      startNext p (resetDone at_ (modHubPort h.val q.val (fun x => { x with attach := .idle, resetting := false }) s))
    else if bit w 10 then startNext p (portEvent p 8 (shutPort at_ .idle true (resetDone at_ s)))
    else if !bit w 1 then enumFail at_ s
    else enterRecovery at_ (genOf (field w 6 3)) s

/-- C_SUSPEND with C_REMOTE_WAKE as `wake`: a resume of a hub port has ended. One that runs ends; without one, a wake that
the device of a suspended port started has been answered by the hub (R131, R132). A port in reset has none (R135). -/
def hubResumed (h : Fin 4096) (q : Fin 16) (wake : Bool) (s : State) : State :=
  if resetAt s (.hub h q) then s
  else modHubPort h.val q.val (fun x =>
    if x.resumeAt.isSome then { x with resumeEnded := true, coincident := x.coincident || (wake && !x.byDevice) }
    else if x.suspended && wake then { x with resumeAt := some (now s), resumeEnded := true, byDevice := true }
    else x) s

/-- One hub port's status word: its change bits are cleared and acted on (R99, R103, R109, R134). -/
def hubWord (h : Fin 4096) (q : Fin 16) (w : U32) (s : State) : State :=
  let at_ : Loc := .hub h q
  let p := locPort s at_
  let s := hubRequest h.val 0x21 0x86 0 q.val s
  let s := each ((List.range 7).filter fun i => bit w (16 + i)) (fun i => clearFeature h.val (0x10 + i) q.val) s
  let s := if bit w 16 || ((hubPort s h.val q.val).connect && !bit w 0) then hubConnect h q (bit w 0) s else s
  let s := if bit w 17 then modHubPort h.val q.val (fun x => { x with enabled := bit w 1 }) s else s
  let s := if bit w 18 then hubResumed h q (bit w 22) s else s
  let s := if bit w 19 && bit w 3 then portEvent p 13 s else s
  let s := if bit w 20 then hubReset h q w s else s
  if bit w 21 then
    let tt := match dev? s h.val with | some d => hubIsTt d.hubDesc q.val | none => false
    let s := hubPortGone h.val q.val stDeviceGone s
    let s := modHubPort h.val q.val (fun x => { x with admin := false }) s
    portEvent p 11 (if tt then clearTt h.val q.val s else s)
  else s

/-- HUB_STATUS_CHANGE (R99). -/
def execHubStatusChange (hub : Fin 4096) (map : U16) (hubStatus : U32) (words : List (Fin 16 × U32)) (s : State) :
    Host.Outcome State Fault Refusal :=
  guarded (serves s && (hub? s hub.val).isSome) s fun s =>
    let p := match dev? s hub.val with | some d => d.port | none => 0
    let s := if bit map 0 then
        let s := hubRequest hub.val 0x20 0x84 0 0 s
        if bit hubStatus 16 && bit hubStatus 0 then portEvent p 13 s else s
      else s
    each (words.filter fun e => bit map e.1.val && e.1.val != 0 && locExists s (.hub hub e.1))
      (fun e s => if (hub? s hub.val).isSome then hubWord hub e.1 e.2 s else s) s

/-- A poll of the hub is waiting or running. -/
def pollPending (s : State) (num : Nat) : Bool :=
  s.front.requests.contains (num, none)
    || s.front.items.any fun e => e.2.poll && (match e.2.posted with | some b => field b.handle 0 12 == num | none => false)

/-- HUB_POLLED (R100): a poll of the status endpoint is posted as management work of level 6, one IN transaction under the
bulk rules; its map is acted on when it arrives (HUB_STATUS_CHANGE). A poll that still waits is not posted again. -/
def execHubPolled (hub : Fin 4096) (s : State) : Host.Outcome State Fault Refusal :=
  guarded (serves s) s fun s =>
    match hub? s hub.val with
    | some d => if d.polled && !pollPending s hub.val then askWork hub.val none s else s
    | none => s

/-- HUB_ADMIT_RETRY (R100): once the admission is granted, polling stops. -/
def execHubAdmitRetry (hub : Fin 4096) (s : State) : Host.Outcome State Fault Refusal :=
  guarded (live s) s fun s =>
    match hub? s hub.val with
    | some d =>
      if d.polled then
        match admitStatus hub.val s with
        | some t => modDev hub.val (fun x => { x with polled := false }) t
        | none => s
      else s
    | none => s

end Sys2Proof.Machine
end

