-- ==== Sys2Proof/Machine/Flags.lean ====
section
/-! DEFINITION. The flags of an ox engine and every rule by which an instruction sets them (R237, R239). -/

namespace Sys2Proof.Machine

/-- Z, N and C after an operation. -/
structure Flags where
  z : Bool
  n : Bool
  c : Bool
deriving DecidableEq, Repr

/-- Z from the result, N from its bit 7, and a given C. -/
def flagsOf (r : Byte) (c : Bool) : Flags := ⟨r == 0, bit r 7, c⟩

/-- A sum with its carry out of bit 7. -/
def addFlags (a b : Byte) (cin : Bool) : Byte × Flags :=
  let x := a.toNat + b.toNat + ofBool cin
  (BitVec.ofNat 8 x, flagsOf (BitVec.ofNat 8 x) (decide (256 ≤ x)))

/-- A difference with its borrow. -/
def subFlags (a b : Byte) : Byte × Flags := (a - b, flagsOf (a - b) (decide (a.toNat < b.toNat)))

/-- A logical operation has no carry out of bit 7: C is 0 (log 51). -/
def logicFlags (r : Byte) : Byte × Flags := (r, flagsOf r false)

/-- A left shift; C takes the last bit out. A shift by 0 moves none out, and C is a free value (log 52). -/
def shlFlags (a : Byte) (n : Nat) (free : Bool) : Byte × Flags :=
  let r := a <<< n
  (r, flagsOf r (if n = 0 then free else bit a (8 - n)))

/-- A logical right shift; C takes the last bit out. -/
def shrFlags (a : Byte) (n : Nat) (free : Bool) : Byte × Flags :=
  let r := a >>> n
  (r, flagsOf r (if n = 0 then free else bit a (n - 1)))

/-- The condition codes of BR; codes 7 to 15 are reserved. -/
def condHolds (code : Nat) (z n c : Bool) : Option Bool :=
  match code with
  | 0 => some true
  | 1 => some !z
  | 2 => some z
  | 3 => some c
  | 4 => some !c
  | 5 => some n
  | 6 => some !n
  | _ => none

end Sys2Proof.Machine
end

