-- ==== Sys2Proof/Machine/EngineOps.lean ====
section
/-! DEFINITION. The threads of an ox engine: registers, advance and branches, results of waits, who may run what,
sandbox faults and script stops, context windows (R215 to R219, R235, R238 to R245). -/

namespace Sys2Proof.Machine

/-! ### Registers -/

def breg (t : Thread) (r : Nat) : Byte := tget 0 t.b r
def setB (r : Nat) (v : Byte) (t : Thread) : Thread := { t with b := tput t.b r v }
def preg (t : Thread) (p : Nat) : BitVec 24 := tget 0 t.p p
def setP (p : Nat) (v : BitVec 24) (t : Thread) : Thread := { t with p := tput t.p p v }
def setFlags (f : Flags) (t : Thread) : Thread := { t with z := f.z, n := f.n, c := f.c }

/-- Changes the thread that an engine runs. -/
def modRun (e : Nat) (g : Thread → Thread) (s : State) : State := modEng e (fun x => { x with run := x.run.map g }) s

/-! ### The program counter and the loop stack -/

/-- Where execution goes on after the word at `pc`, and the loop frames that remain: at the end of a body the
next turn, or the frame ends. -/
def loopEnd (pc : BitVec 14) : List LoopFrame → BitVec 14 × List LoopFrame
  | [] => (pc + 1, [])
  | f :: r =>
    if pc = f.last then
      if 1 < f.left then (f.first, { f with left := f.left - 1 } :: r) else loopEnd pc r
    else (pc + 1, f :: r)

/-- The instruction has been executed. -/
def advance (t : Thread) : Thread :=
  let x := loopEnd t.pc t.loops
  { t with pc := x.1, loops := x.2 }

/-- Execution goes on elsewhere; bodies that it leaves end. -/
def jumpTo (a : BitVec 14) (t : Thread) : Thread :=
  { t with pc := a, loops := t.loops.dropWhile fun f => !(f.first.toNat ≤ a.toNat && a.toNat ≤ f.last.toNat) }

/-- A taken branch: its offset counts from the branch itself. -/
def branchBy (offset : BitVec 14) (t : Thread) : Thread := jumpTo (t.pc + offset) t

/-! ### What a thread serves -/

/-- The handle of the device that a thread serves. -/
def workHandle (s : State) (w : Work) : U16 :=
  match w with
  | .item i => match item? s i with
    | some x => match x.posted with | some b => b.handle | none => eHandle x.raw
    | none => 0
  | .service r => match rungOf s r with | some g => g.handle | none => 0
  | .none_ => 0

/-- Its endpoint and direction. -/
def workEp (s : State) (w : Work) : Nat × Bool :=
  match w with
  | .item i => match item? s i with
    | some x => match x.posted with
      | some b => (field b.epaddr 0 4, bit b.epaddr 7)
      | none => (eEp x.raw, eDirIn x.raw)
    | none => (0, false)
  | .service r => match rungOf s r with | some g => (g.ep, g.dirIn) | none => (0, false)
  | .none_ => (0, false)

/-- The key of its context. -/
def workCtx (s : State) (w : Work) : Nat :=
  ctxKey (field (workHandle s w) 0 12) (workEp s w).1 (workEp s w).2

/-- Its port: that of the entry's endpoint context, or of the reservation. -/
def workPort (s : State) (w : Work) : Nat :=
  match w with
  | .item i => match item? s i with | some x => x.port | none => 0
  | .service r => match rungOf s r with | some g => g.port | none => 0
  | .none_ => 0

/-- The work is a periodic or event service. -/
def isServiceWork (w : Work) : Bool := match w with | .service _ => true | _ => false

/-! ### What a transfer asks for -/

/-- Requested length of an item. -/
def itemLen (x : Item) : Nat := match x.posted with | some b => b.bytes.toNat | none => eLength x.raw
/-- Its data moves to the host. -/
def itemIn (x : Item) : Bool := match x.posted with | some b => bit b.epaddr 7 | none => eDataIn x.raw
/-- It runs the stages of a control transfer. -/
def itemCtrl (x : Item) : Bool := match x.posted with | some b => field b.epaddr 0 4 == 0 | none => eCtrl x.raw
/-- Its setup bytes: of a request of the part's own, of the entry, or, for management work that the firmware posts, a free
value (log 26). -/
def itemSetup (i : Nat) (x : Item) : Nat :=
  match x.setup with
  | some a => a.toNat
  | none => if x.posted.isSome then (Config.freeWord i).toNat else eArg x.raw

/-! ### Statuses decided on the wire -/

/-- A status that the line gives an item may be taken: nothing has ended the item, or only its time limit has, and the
status is that of a completed status stage (R70). -/
def mayDecide (x : Item) (st : Byte) : Bool :=
  x.status.isNone && (match x.stopAs with
    | none => true
    | some e => e == stXactErr && itemCtrl x && x.stage == 2
        && (st == stSuccess || st == stShort || st == stOverrun))

/-- The status of an item is decided on the wire; its engine posts it by FIN (R225). -/
def decideItem (i : Nat) (st : Byte) (s : State) : State :=
  match item? s i with
  | some x =>
    if mayDecide x st then setItem s i { x with status := some st, awaitFin := true, stopAs := none, ended := true }
    else s
  | none => s

/-- Decides the status of an item whose completion is not posted, in place of one decided before. -/
def overrideItem (i : Nat) (st : Byte) (s : State) : State :=
  modItem i (fun x =>
    if x.status.isSome && !x.awaitFin then x
    else { x with status := some st, awaitFin := true, stopAs := none, ended := true }) s

/-! ### Windows (R235, R243) -/

/-- The 64 bytes of a context. -/
def ctxBytes (c : Ctx) : List Byte :=
  let scr := mread c.scriptState 0 16
  natLE 2 c.handle.toNat
    ++ [c.epaddr, BitVec.ofNat 8 (c.typ.toNat + 4 * ofBool c.halted + 8 * ofBool c.isOpen + 16 * ofBool c.lastGasp)]
    ++ natLE 2 c.mps.toNat ++ [c.maxBurst.setWidth 8, c.seq.setWidth 8, BitVec.ofNat 8 c.port, BitVec.ofNat 8 c.waddr,
      BitVec.ofNat 8 c.tiers, BitVec.ofNat 8 ((c.tt.map fun t => t.addr).getD 0),
      BitVec.ofNat 8 ((c.tt.map fun t => t.port).getD 0), BitVec.ofNat 8 (genCode c.gen), c.errcnt,
      (match c.affinity with | some e => BitVec.ofNat 8 (e + 128) | none => 0)]
    ++ natLE 4 c.progress.toNat ++ [BitVec.ofNat 8 c.owner, 0] ++ natLE 2 c.script
    ++ natLE 4 c.relNext.toNat ++ natLE 4 c.subNext.toNat ++ zeros 16 ++ scr

/-- The view of a service: SEQ and SCRIPT_STATE are the state entry's own, bytes 16 to 31 read 0. -/
def serviceBytes (s : State) (r : Nat) (c : Ctx) : List Byte :=
  let ps := pstate s r
  let b := ctxBytes { c with seq := ps.seq, halted := c.halted || ps.halted }
  b.take 16 ++ zeros 16 ++ zeros 16 ++ mread ps.scriptState 0 16

/-- The window that a thread's work shows. -/
def windowOf (s : State) (w : Work) : Memory :=
  match tfind s.topo.ctx (workCtx s w) with
  | some c => mwrite [] 0 (match w with | .service r => serviceBytes s r c | _ => ctxBytes c)
  | none => []

/-- The generation of a code. -/
def genByte (b : Byte) : Gen := genOf (field b 0 3)

/-- Stores a window into its context: every field of R235. The hub's handle number, which no byte shows, stays. -/
def storeCtx (m : Memory) (c : Ctx) : Ctx :=
  { c with
    handle := BitVec.ofNat 16 (leNat (mread m 0 2)), epaddr := mget m 2, typ := BitVec.ofNat 2 (field (mget m 3) 0 2),
    halted := bit (mget m 3) 2, isOpen := bit (mget m 3) 3, lastGasp := bit (mget m 3) 4,
    mps := BitVec.ofNat 11 (leNat (mread m 4 2)), maxBurst := BitVec.ofNat 4 (mget m 6).toNat,
    seq := (mget m 7).setWidth 5, port := (mget m 8).toNat, waddr := (mget m 9).toNat, tiers := field (mget m 10) 0 3,
    tt := if mget m 11 = 0 && mget m 12 = 0 then none
      else some ⟨(c.tt.map fun t => t.hub).getD 0, (mget m 11).toNat, (mget m 12).toNat⟩,
    gen := genByte (mget m 13), errcnt := mget m 14,
    affinity := if bit (mget m 15) 7 then some (field (mget m 15) 0 4) else none,
    owner := field (mget m 20) 0 7, script := leNat (mread m 22 2),
    progress := BitVec.ofNat 24 (leNat (mread m 16 3)), relNext := BitVec.ofNat 32 (leNat (mread m 24 4)),
    subNext := BitVec.ofNat 32 (leNat (mread m 28 4)), scriptState := mwrite [] 0 (mread m 48 16) }

/-- Stores a window into a state entry. -/
def storeState (m : Memory) (ps : PState) : PState :=
  { ps with
    halted := bit (mget m 3) 2, seq := (mget m 7).setWidth 5, scriptState := mwrite [] 0 (mread m 48 16) }

/-- Sets the sequence of a thread's endpoint in its context or state entry. -/
def setWorkSeq (w : Work) (q : BitVec 5) (s : State) : State :=
  match w with
  | .service r => modPstate r (fun x => { x with seq := q }) s
  | _ => modCtx (workCtx s w) (fun c => { c with seq := q }) s

/-- Applies a change to every thread of every engine. -/
def modThreads (g : Thread → Thread) (s : State) : State :=
  { s with eng := { s.eng with eng := s.eng.eng.map fun e => (e.1, { e.2 with
      run := e.2.run.map g, suspended := e.2.suspended.map g, paused := e.2.paused.map g
      parked := e.2.parked.map fun k => (k.1, { k.2 with thread := g k.2.thread }) }) } }

/-- Brings the windows that show a piece of work's context up to date in the bytes that change beside the engine: STATE,
SEQ, ERRCNT, OWNER and SCRIPT. -/
def refreshWin (k : Nat) (s : State) : State :=
  modThreads (fun t =>
    if t.win.isEmpty || workCtx s t.work != k then t
    else
      let m := windowOf s t.work
      { t with win := [3, 7, 14, 20, 22, 23].foldl (fun w i => mput w i (mget m i)) t.win }) s

/-! ### Scripts stop (R245) -/

/-- A script of an engine stops with SCRIPT_FAULT: the port lane stops, what the engine has queued there is dropped, the
transfer ends, and the thread goes on in the microcode. -/
def scriptStop (e cause : Nat) (s : State) : State :=
  match (eng s e).run with
  | none => s
  | some t =>
    match t.script with
    | none => s
    | some r =>
      let h := workHandle s t.work
      let s := { s with eng := { s.eng with
        scrLast := BitVec.ofNat 32 (r.number + e * 2 ^ 8 + cause * 2 ^ 12 + h.toNat * 2 ^ 16)
        scrFaults := s.eng.scrFaults + 1 } }
      let p := workPort s t.work
      let s := match workItem s t.work with | some i => finish i stScriptFault s | none => s
      let s := modPort p (fun x => { x with lane := x.lane.filter fun o => o.1 != e }) s
      let s := match (port s p).txn with
        | some x => if x.engine == some e then beginDue p (modPort p (fun x => { x with txn := none }) s) else s
        | none => s
      let s := modRun e (fun t => { t with
        script := none, pc := r.back, wait := .running, loops := t.loops.filter fun f => f.first.toNat < 0x2000 }) s
      raise .eng 0 s

/-! ### Executing an instruction -/

/-- Who may run an instruction: microcode, scripts or both (R239). -/
inductive Use where
  | m | s | ms
deriving DecidableEq, Repr

/-- The thread of engine `e` that executes instructions now. -/
def executing (s : State) (e : Nat) : Option Thread :=
  (eng s e).run.bind fun t => if t.wait == .running then some t else none

/-- The budget of a running script, less the cycles of an instruction. -/
def spend (cost : Nat) (t : Thread) : Thread :=
  { t with
    script := t.script.map fun r => { r with budget := r.budget - BitVec.ofNat 17 cost }
    used := if t.script.isSome then t.used + cost else t.used }

/-- Executes an instruction of engine `e`: `f` receives the thread and carries out the effect, having advanced or
branched. An instruction that the use column forbids is a sandbox fault in a script and a fault of the engine in
the microcode (R241, R245); so is microcode outside its region. -/
def instruction (e : EngId) (u : Use) (cost : Nat) (f : Thread → State → State) (s : State) :
    Host.Outcome State Fault Refusal :=
  guarded (live s) s fun s =>
    match executing s e.val with
    | none => s
    | some t =>
      match t.script with
      | some r =>
        if u == .m then scriptStop e.val 5 s
        else if r.budget.toNat < cost then scriptStop e.val 1 s
        else f (spend cost t) s
      | none => if u == .s || 0x2000 ≤ t.pc.toNat then engineFault e.val s else f t s

/-- Cycles that a running script has spent in its wait on N3 to N5, at 2 to a timebase cycle (R245). -/
def waitedCycles (s : State) (t : Thread) : Nat := if t.script.isSome then 2 * (now s - t.waitAt) else 0

/-- Puts the thread back as the engine's running one. -/
def setRun (e : Nat) (t : Thread) (s : State) : State := modEng e (fun x => { x with run := some t }) s

/-- A fault in the middle of an instruction: of the sandbox in a script, else of the engine. -/
def instrFault (e cause : Nat) (t : Thread) (s : State) : State :=
  if t.script.isSome then scriptStop e cause s else engineFault e s

/-! ### Waits (R219, R238) -/

/-- The registers after a result, and the branch of the wait. -/
def takeResult (mask : Byte) (offset : BitVec 14) (code b14 b13 : Nat) (t : Thread) : Thread :=
  let t := setB 15 (BitVec.ofNat 8 code) { t with wait := .running }
  let t := if code = 4 || code = 5 then setB 14 (BitVec.ofNat 8 b14) t else t
  let t := if code = 0 || code = 5 then setB 13 (BitVec.ofNat 8 b13) t else t
  if bit mask code then branchBy offset t else advance t

/-- A thread takes a result if it waits for one. -/
def giveResult (code b14 b13 : Nat) (t : Thread) : Option Thread :=
  match t.wait with
  | .whs m o | .rdat m o => some (takeResult m o code b14 b13 t)
  | _ => none

/-- The running thread goes on after a wait: a script has spent the wait, and stops where its budget does not cover it
(R245). -/
def resumeWait (e : Nat) (t : Thread) (s : State) : State :=
  let n := waitedCycles s t
  match t.script with
  | some r => if r.budget.toNat < n then scriptStop e 1 s else setRun e (spend n t) s
  | none => setRun e t s

/-- A port lane reports a result to the engine: the waiting thread takes it, parked or running; otherwise it
stays for the next wait. -/
def report (p : Nat) (e : Option Nat) (code b14 b13 : Nat) (s : State) : State :=
  let keep := modPort p (fun x => { x with answer := some (code, b14, b13) }) s
  match e with
  | none => s
  | some e =>
    match tfind (eng s e).parked p with
    | some k =>
      match giveResult code b14 b13 k.thread with
      | some t => modEng e (fun x => { x with parked := tput x.parked p ⟨t, true⟩ }) s
      | none => keep
    | none =>
      match (eng s e).run with
      | some t =>
        if t.holds.contains p then
          match giveResult code b14 b13 t with
          | some t => resumeWait e t s
          | none => keep
        else keep
      | none => keep

/-- A new thread of an engine. -/
def freshThread (k : ThreadKind) : Thread := { kind := k }

/-- What an engine does next, with nothing running: it goes on with a periodic thread that gave way, then walks its lists
on; else it resumes its suspended dispatch thread; else, with no thread parked, a new dispatch thread issues GETW (R185,
R218, R219). -/
def nextWork (e : Nat) (s : State) : State :=
  modEng e (fun x =>
    if x.run.isSome then x
    else match x.paused with
      | t :: r => { x with run := some t, paused := r }
      | [] =>
        if !x.walk.isEmpty then { x with run := some (freshThread .periodic) }
        else match x.suspended with
          | some t => { x with run := some t, suspended := none }
          | none => if x.parked.isEmpty then { x with run := some (freshThread .dispatch) } else x) s

/-- Parks the running thread of an engine on a port, and the engine goes on with other work (R219). -/
def park (e p : Nat) (ready : Bool) (t : Thread) (s : State) : State :=
  nextWork e (modEng e (fun x => { x with run := none, parked := tput x.parked p ⟨t, ready⟩ }) s)

/-- The port is one on which waits park. -/
def parksOn (s : State) (p : Nat) : Bool := genCode (port s p).gen ≤ 1

/-- A wait for an answer: the thread parks on an N1 or N2 port, and is ready at once where the result has come (R219);
elsewhere it takes a result that has come, or waits. -/
def waitAnswer (e : Nat) (w : Wait) (mask : Byte) (offset : BitVec 14) (t : Thread) (s : State) : State :=
  match t.holds.head? with
  | none => setRun e (advance t) s
  | some p =>
    match (port s p).answer with
    | some (c, b14, b13) =>
      let s := modPort p (fun x => { x with answer := none }) s
      let u := takeResult mask offset c b14 b13 t
      if parksOn s p then park e p true u s else setRun e u s
    | none =>
      let u := { t with wait := w, waitAt := now s }
      if parksOn s p then park e p false u s else setRun e u s

end Sys2Proof.Machine
end

