-- ==== Sys2Proof/Machine/Lane.lean ====
section
/-! DEFINITION. The port lane: when a transaction may start, tokens, splits and DATA packets, the queue of what engines
have asked of the lane, and the end of a transaction (R51, R65 to R68, R71 to R73, R81, R105 to R107, R126, R174, R180,
R181, R204, R207, R240). -/

namespace Sys2Proof.Machine

/-! ### The transaction in progress -/

/-- The context of a transaction. -/
def txnCtx (s : State) (t : Txn) : Ctx := ((ctx? s t.num t.ep t.dirIn).getD {})

/-- The host's sequence for a transaction: of the service, or of the context in the transaction's direction. -/
def txnSeq (s : State) (t : Txn) : BitVec 5 :=
  match t.work with
  | .service r => (pstate s r).seq
  | _ => if t.ep = 0 && !t.dirIn then (txnCtx s t).seqOut else (txnCtx s t).seq

/-- Sets it, in the windows too. -/
def setTxnSeq (t : Txn) (q : BitVec 5) (s : State) : State :=
  let k := ctxKey t.num t.ep t.dirIn
  match t.work with
  | .service r => refreshWin k (modPstate r (fun x => { x with seq := q }) s)
  | _ =>
    if t.ep = 0 && !t.dirIn then modCtx k (fun c => { c with seqOut := q }) s
    else refreshWin k (modCtx k (fun c => { c with seq := q }) s)

/-- The generation of the device that takes part. -/
def txnGen (s : State) (t : Txn) : Gen := (txnCtx s t).gen

/-- Changes the transaction in progress on a port. -/
def modTxn (p : Nat) (g : Txn → Txn) (s : State) : State := modPort p (fun x => { x with txn := x.txn.map g }) s

/-- The transaction on a port has ended: an entry that waited for this ends, and a due reset begins (R126). -/
def closeTxn (p : Nat) (s : State) : State :=
  match (port s p).txn with
  | none => s
  | some t =>
    let i := workItem s t.work
    let s := modPort p (fun x => { x with txn := none }) s
    let s := match i.bind (item? s) with
      | some x => if itemCtrl x then { s with front := { s.front with
          ctlUsed := tput s.front.ctlUsed p (tget 0 s.front.ctlUsed p + (now s - t.start) * 25) } } else s
      | none => s
    let s := match i with
      | some i => match item? s i with
        | some x => match x.stopAs with | some st => finish i st s | none => s
        | none => s
      | none => s
    beginDue p s

/-- The packets of a service: the number that its entry's LENGTH makes (R71). -/
def servicePackets (x : Item) (mps : Nat) : Nat := max 1 (cdiv (eLength x.raw) (max mps 1))

/-- The work is a periodic service, not an event. -/
def isPeriodic (s : State) (w : Work) : Bool :=
  match w with
  | .service r => (match rungOf s r with | some g => g.kind != .event | none => false)
  | _ => false

/-! ### When a transaction may start (R81, R174, R204) -/

/-- The longest a transaction can take, to the start of the next token, in 0.1 ns: `n` packets of `m` bytes at `h` hub
tiers. -/
def tokCost (g : Gen) (k : TxnKind) (n m h : Nat) : Nat :=
  match k with
  | .perOut => costK g + n * (costG g + costD g m) + costTx g
  | .perIn => costK g + max (costA g h + n * costD g m + (n - 1) * costGb g) (costTO g) + costTx g
  | .bulkOut | .evtOut =>
    costK g + n * (costG g + costD g m) + max (costA g h + costK g) (costTO g) + costTx g
  | .setup => costK g + costG g + costD g 8 + max (costA g h + costK g) (costTO g) + costTx g
  | _ => costK g + max (costA g h + n * costD g m + (n - 1) * costGb g + costH g + costK g) (costTO g) + costTx g

/-- The same of a split transaction (R180). -/
def splCost (g : Gen) (start per dirIn : Bool) (m h : Nat) : Nat :=
  let out := if dirIn then 0 else costG g + costD g m
  if start then costK g + out + (if per then 0 else max (costA g h + costK g) (costTO g)) + costTx g
  else if per then costK g + max (costA g h + costD g m) (costTO g) + costTx g
  else if dirIn then costK g + max (costA g h + costD g m + costH g + costK g) (costTO g) + costTx g
  else costK g + max (costA g h + costK g) (costTO g) + costTx g

/-- The end of the schedule unit of a port, and the length of the unit, in 0.1 ns. -/
def unitEnd (s : State) (p : Nat) : Nat :=
  if genCode (port s p).gen ≤ 1 then (s.tb.frameAt + s.tb.flen) * 25
  else s.tb.frameAt * 25 + (s.tb.uframe + 1) * s.tb.flen * 25 / 8
def unitTime' (s : State) (p : Nat) : Nat :=
  if genCode (port s p).gen ≤ 1 then s.tb.flen * 25 else s.tb.flen * 25 / 8

/-- φ of this microframe on a port with a live floating reservation (R203). -/
def floatAt (s : State) (p : Nat) : Option Nat :=
  (floatOf s p).map fun r =>
    s.tb.frameAt * 25 + s.tb.uframe * s.tb.flen * 25 / 8 + r.2.startPos * s.tb.flen * 25 / 4096

/-- A transaction of this length ends before the guard (R174); a non-periodic one also ends before φ (R204). -/
def fits (s : State) (p cost : Nat) (nonPeriodic : Bool) : Bool :=
  let t := now s * 25
  decide (t + cost ≤ unitEnd s p - unitTime' s p / 50)
    && (!nonPeriodic || match floatAt s p with | some f => decide (f ≤ t) || decide (t + cost ≤ f) | none => true)

/-- What a bound script adds to a visit (R246), in 0.1 ns. -/
def scriptTime (s : State) (num : Nat) : Nat :=
  match dev? s num with
  | some d => match tfind s.eng.scripts d.script with
    | some c => c.wcLineNs * 10 + cdiv (c.wcCycles * 25) 2
    | none => 0
  | none => 0

/-- Hub tiers that count for a token: those to the device, or to its translator hub. -/
def tokTiers (s : State) (c : Ctx) : Nat :=
  match c.tt with
  | some t => (match dev? s t.hub with | some d => d.tier - 1 | none => 0)
  | none => c.tiers

/-- Direction of the next transaction of an item: the stages of a control transfer go out, with the data, and against
it (R68). -/
def nextIn (x : Item) : Bool :=
  if itemCtrl x then
    (match x.stage with
      | 0 => false
      | 1 => itemIn x
      | _ => !itemIn x || itemLen x == 0)
  else itemIn x

/-- Kind of the next transaction of an item on its own bus. -/
def nextKind (x : Item) : TxnKind :=
  if x.poll then .poll else if itemCtrl x && x.stage == 0 then .setup else if nextIn x then .bulkIn else .bulkOut

/-- The worst case of the next transaction of an item, of one packet, with its script (R81, R246). -/
def itemCost (s : State) (x : Item) (c : Ctx) : Nat :=
  let g := (port s x.port).gen
  (if c.tt.isSome then splCost g x.doneAt.isNone false (nextIn x) c.mps.toNat (tokTiers s c)
    else tokCost g (nextKind x) 1 c.mps.toNat (tokTiers s c))
  + scriptTime s (itemNum x)

/-- The last-gasp opportunity covers a device: its port's, or that of a slot bound to a hub port above it (R375). -/
def gaspCovers (s : State) (num : Nat) : Bool :=
  match dev? s num with
  | none => false
  | some d => (port s d.port).lastGasp || s.topo.dev.any fun h =>
      h.2.isHub && h.2.port == d.port && h.2.path.length < d.path.length && d.path.take h.2.path.length == h.2.path
        && (match (hubPort s h.1 (d.path.getD h.2.path.length 0)).slot with
            | some n => (port s n).lastGasp
            | none => false)

/-- LGASP of a token: last-gasp service of a marked endpoint. -/
def gaspToken (s : State) (num : Nat) (c : Ctx) (w : Work) : Bool :=
  gaspCovers s num && (match w with
    | .service r => (match rungOf s r with | some g => g.lastGasp | none => false)
    | _ => c.lastGasp)

/-- Microframes in the schedule unit in which splits to a generation are timed (R107). -/
def splitUnit (g : Gen) : Nat := if genCode g ≤ 1 then 8 else 1

/-- The microframe with which the unit begins that lies `n` units ahead (R107). -/
def unitAhead (s : State) (g : Gen) (n : Nat) : Nat := (absUframe s / splitUnit g + n) * splitUnit g

/-- A split service may start in this microframe: in the entry's own, and for the second attempt of an event two units
later (R180, R181). -/
def splitStarts (s : State) (r : Nat) (g : Rung) (x : Item) : Bool :=
  match x.service with
  | some m => m == absUframe s
      || (g.kind == .event && 0 < (pstate s r).attempts && m + 2 * splitUnit g.gen == absUframe s)
  | none => false

/-- The entry that the present service of a reservation runs. -/
def startItem (s : State) (r : Nat) : Option Nat :=
  (s.front.items.find? fun e => boundTo s r e.2 && e.2.status.isNone
    && (match rungOf s r with | some g => !g.split || splitStarts s r g e.2 | none => false)).map Prod.fst

/-- The first token of a transfer begins it and gives its stamp (R163). -/
def beginItem (i : Nat) (s : State) : State :=
  modItem i (fun x =>
    if x.begun then x
    else { x with
      begun := true
      stamp := if eAxis x.raw && x.posted.isNone then axisStamp s (cmpUnit s (eUnit x.raw)).axis else frameStamp s }) s

/-- The work may send a token now: an item whose status is open, or a service with an entry to run; a hub's
status-change endpoint is served without one. -/
def workOpen (s : State) (w : Work) : Option (Option Nat) :=
  match w with
  | .item i => (match item? s i with
    | some x => if x.status.isNone && x.stopAs.isNone then some (some i) else none
    | none => none)
  | .service r =>
    (match startItem s r with
      | some i => some (some i)
      | none => (match dev? s (field (workHandle s w) 0 12) with
        | some d => if d.isHub then some none else none
        | none => none))
  | .none_ => none

/-! ### The line -/

/-- The line takes tokens: its port is enabled, drives its transceiver and is in no suspend, resume or reset, and an N4 or
N5 link is ACTIVE. -/
def lineOpen (s : State) (p : Nat) : Bool :=
  let x := port s p
  x.enabled && !highZ s p && !x.suspended && !x.resuming && !x.resetting && !x.resetDue
    && (!serdes x.gen || x.link == .active)

/-- No port above a device is suspended, and no reset, attach step or enumeration runs at its place (R126, R130). -/
def placeOpen (s : State) (num : Nat) (d : Device) : Bool :=
  !pathSuspended s d && !resetAt s d.loc && (locAttach s d.loc == .ready || locAttach s d.loc == .idle)
    && (port s d.port).enum.all fun e => e.num != num

/-- Work may reach its device: requests and polls of the part's own always may, other work while its place is open. -/
def workPlace (s : State) (w : Work) : Bool :=
  (match w with | .item i => (match item? s i with | some x => isOwn x | none => false) | _ => false)
    || (let num := field (workHandle s w) 0 12
        match dev? s num with | some d => placeOpen s num d | none => true)

/-- Nothing on the line holds tokens back: no SOF is held, and no late answer is on it (R82, R88). -/
def lineFree (s : State) (p : Nat) : Bool := !(port s p).sofHold && !(port s p).driven

/-- The line of a held port takes commands of this engine's thread. -/
def lineReady (s : State) (e : Nat) (t : Thread) (p : Nat) : Bool :=
  (port s p).heldBy == some e && t.holds.contains p && lineOpen s p && workPlace s t.work

/-! ### Tokens (R51, R65, R71 to R73, R207, R240, R244) -/

/-- Kind of a token. -/
def tokKind (s : State) (w : Work) (typ : Nat) : TxnKind :=
  if typ = 5 then .setup
  else match w with
    | .service r =>
      (match rungOf s r with
        | some g => if g.kind == .event then (if typ = 3 then .evtIn else .evtOut)
            else (if typ = 3 then .perIn else .perOut)
        | none => if typ = 3 then .perIn else .perOut)
    | .item i => (match item? s i with
      | some x => if x.poll then .poll else if typ = 3 then .bulkIn else .bulkOut
      | none => if typ = 3 then .bulkIn else .bulkOut)
    | .none_ => if typ = 3 then .bulkIn else .bulkOut

/-- A service counts its tokens (R72); a new event entry starts its attempts afresh (R73). -/
def countTokens (w : Work) (i : Option Nat) (q : BitVec 5) (n : Nat) (s : State) : State :=
  match w with
  | .service r =>
    let fresh := match i.bind (item? s) with | some x => !x.begun | none => true
    modPstate r (fun x => { x with
      first := if x.tokens = 0 then q else x.first, tokens := x.tokens + n,
      attempts := if fresh then 0 else x.attempts }) s
  | _ => s

/-- The staging of an item has room for `bytes` of IN data (R310): the ring of its pages, or the holding buffer, which
serves one transfer at a time. -/
def ringRoom (s : State) (i : Nat) (x : Item) (bytes : Nat) : Bool :=
  x.slot != .work || x.posted.isSome || !eDataIn x.raw || (itemCtrl x && x.stage != 1)
    || (if x.pages.isEmpty then holdFree s i x && decide (x.moved - x.drained + bytes ≤ 1024)
      else decide (x.moved - x.drained + bytes ≤ x.pages.length * 4096))

/-- The packets of an IN burst, of `n`: all of them once the staging has room for the whole burst (R310); where nothing is
left to drain, those that it has room for (DESIGN CHOICE, log 156). None: the token waits. -/
def roomCount (s : State) (i : Nat) (x : Item) (m n : Nat) : Nat :=
  if ringRoom s i x (n * m) then n
  else if wantsIn s x then 0
  else ((List.range n).reverse.find? fun k => ringRoom s i x (k * m)).getD 0

/-- The packets left to an item in its stage, and for bulk in its visit, which a NAK ends (R65, R68, R207). -/
def itemLeft (s : State) (x : Item) (m : Nat) : Nat :=
  let rest := if itemCtrl x && x.stage != 1 then 1 else max 1 (cdiv (itemLen x - x.moved) (max m 1))
  if x.visitOver then 0
  else if itemCtrl x || x.posted.isSome then rest
  else min rest (cfgBurst (sq s x.func x.sq).cfg - x.visit)

/-- The packets left for a token of a work (R65, R71). -/
def packetsLeft (s : State) (w : Work) (k : TxnKind) (x : Item) (m : Nat) : Nat :=
  match k, w with
  | .perIn, .service r | .perOut, .service r => servicePackets x m - (pstate s r).tokens
  | .evtIn, _ | .evtOut, _ | .setup, _ => 1
  | _, _ => itemLeft s x m

/-- The largest number of packets up to `n` whose burst may start now. -/
def fitCount (s : State) (p : Nat) (nonPeriodic : Bool) (cost : Nat → Nat) : Nat → Nat
  | 0 => 0
  | n + 1 => if fits s p (cost (n + 1)) nonPeriodic then n + 1 else fitCount s p nonPeriodic cost n

/-- The packets for which a token may ask, of `n` that the engine names: the least of MAX_BURST + 1, the generation's
burst, the packets left, and on N1 to N3 one. -/
def burstMost (s : State) (p : Nat) (c : Ctx) (n : Nat) (left : Option Nat) : Nat :=
  let b := if serdes (port s p).gen then min n (min (c.maxBurst.toNat + 1) (maxBurstOf (port s p).gen)) else 1
  match left with | some l => min b l | none => b

/-- A token of `count` packets leaves the lane: it opens its transaction. -/
def tokenOut (e p : Nat) (w v : Work) (i : Option Nat) (typ count ep : Nat) (k : TxnKind) (retry : Bool) (num : Nat) (c : Ctx)
    (s : State) : State :=
  let dirIn := typ == 3
  let tx0 : Txn :=
    { kind := k, work := v, engine := some e, num := num, ep := ep, dirIn := dirIn, seq0 := 0,
      count := count, retry := retry, waiting := dirIn, start := now s }
  let q := if typ = 5 then 0 else txnSeq s tx0
  let hdr := { Hdr0 with
    addr := BitVec.ofNat 7 c.waddr, dir := dirIn, ep := BitVec.ofNat 4 ep, seq := q,
    burst := if typ = 5 then 0 else BitVec.ofNat 4 (count - 1), retry := retry
    lgasp := gaspToken s num c w }
  let s := countTokens v i q count s
  let s := match i with | some i => beginItem i s | none => s
  modPort p (fun x => { x with txn := some { tx0 with seq0 := q }, answer := none, ended := none })
    (send p (if typ = 5 then .setup else if dirIn then .in_ else .out) hdr [] s)

/-- The token that an engine asks for leaves the lane. None: it does not fit before the guard or φ, or the staging has no
room, and it waits. A work that may send nothing more sends none. -/
def sendToken (e p : Nat) (w : Work) (typ n ep : Nat) (own retry : Bool) (s : State) : Option State :=
  let num := field (workHandle s w) 0 12
  let dirIn := typ == 3
  match ctx? s num ep dirIn, workOpen s w with
  | some c, some i =>
    let shut := !c.isOpen || c.halted || (match w with | .service r => own && (pstate s r).halted | _ => false)
    let v := if own || !isServiceWork w then w else .none_
    let k := tokKind s v typ
    let m := c.mps.toNat
    let x := i.bind (item? s)
    let most := burstMost s p c n (if own then some (match x with | some x => packetsLeft s w k x m | none => 1) else none)
    let cost := fun n => tokCost (port s p).gen k n m (tokTiers s c) + scriptTime s num
    let fit := fitCount s p (!isServiceWork w) cost most
    let count := match i, x with
      | some i, some x => if dirIn then roomCount s i x m fit else fit
      | _, _ => fit
    if shut || most = 0 then some s
    else if count = 0 then none
    else some (tokenOut e p w v i typ count ep k retry num c s)
  | _, _ => some s

/-! ### Splits (R105 to R107, R180, R181) -/

/-- SPLIT header fields (R51, R105). -/
def splitHdr (c : Ctx) (x : TtPath) (dirIn setup : Bool) (q : BitVec 5) (retry lgasp : Bool) : Hdr :=
  { Hdr0 with
    addr := BitVec.ofNat 7 x.addr, dir := dirIn, ep := BitVec.ofNat 4 (field c.epaddr 0 4),
    seq := BitVec.ofNat 5 (q.toNat % 2 + 2 * ofBool setup), len := BitVec.ofNat 11 c.waddr, retry := retry,
    lgasp := lgasp, tspec := BitVec.ofNat 8 (x.port + 16 * c.typ.toNat + 64 * genCode c.gen) }

/-- The first SPLIT-DONE of a periodic service opens its count; a repeat after NYET is the same token. -/
def countDone (r i : Nat) (q : BitVec 5) (s : State) : State :=
  match item? s i with
  | none => s
  | some x =>
    if x.stage = 0 then
      modPstate r (fun y => { y with good := 0, lost := false, short := false, late := false, first := q, tokens := 1 })
        (modItem i (fun y => { y with stage := 1 }) s)
    else if x.nyet then s
    else modPstate r (fun y => { y with tokens := y.tokens + 1 }) s

/-- The item of a split: of a start the entry of the present service, of a done the oldest one still open. -/
def splitItem (s : State) (w : Work) (start : Bool) : Option Nat :=
  match w with
  | .service r => if start then startItem s r else boundItem s r
  | .item i => (match item? s i with
    | some x => if x.status.isNone && x.stopAs.isNone then some i else none
    | none => none)
  | .none_ => none

/-- Direction of a split's inner transaction. -/
def splitIn (w : Work) (x : Item) : Bool := if isServiceWork w then itemIn x else nextIn x

/-- The context and the translator of a work's split. -/
def splitCtx (s : State) (w : Work) (x : Item) : Option (Ctx × TtPath) :=
  (ctx? s (field (workHandle s w) 0 12) (workEp s w).1 (splitIn w x)).bind fun c => c.tt.map fun t => (c, t)

/-- The unit of a split of a work item: a SPLIT-DONE is of a split that the hub has taken, and waits for its unit (R107;
log 96). -/
def splitTimely (s : State) (w : Work) (x : Item) (start : Bool) : Bool :=
  start || isServiceWork w || (match x.doneAt with | some m => decide (m ≤ absUframe s) | none => false)

/-- What a split token does to the count of a service. -/
def countSplit (s : State) (w : Work) (i : Nat) (x : Item) (start per dirIn : Bool) (q : BitVec 5) : State :=
  match w with
  | .service r =>
    if start then
      (if !dirIn || !per then modPstate r (fun y => { y with
        first := if x.begun then y.first else q, tokens := if x.begun then y.tokens + 1 else 1,
        attempts := if x.begun then y.attempts else 0 }) s else s)
    else if per then countDone r i q s else s
  | _ => s

/-- A split token leaves the lane; a periodic IN start, which nothing answers, notes when its done falls due. -/
def splitOut (e p : Nat) (w : Work) (i : Nat) (x : Item) (start retry : Bool) (num : Nat) (c : Ctx) (tt : TtPath)
    (s : State) : State :=
  let setup := itemCtrl x && x.stage == 0 && !isServiceWork w
  let dirIn := splitIn w x
  let per := isPeriodic s w
  let tx0 : Txn :=
    { kind := if start then .splitStart else .splitDone, work := w, engine := some e, num := num,
      ep := field c.epaddr 0 4, dirIn := dirIn, seq0 := 0, count := 1, retry := retry,
      waiting := !start || (dirIn && !per), start := now s }
  let q := if setup then 0 else txnSeq s tx0
  let hdr := splitHdr c tt dirIn setup q retry (gaspToken s num c w)
  let s := countSplit s w i x start per dirIn q
  let s := modItem i (fun y => if start then { y with nyet := false, doneAt := none } else y) (beginItem i s)
  let s := send p (if start then .splitStart else .splitDone) hdr [] s
  let opened := modPort p (fun y => { y with txn := some { tx0 with seq0 := q }, answer := none, ended := none })
  match w with
  | .service r =>
    if start && dirIn && per then modPstate r (fun y => { y with
      followOn := y.followOn ++ [absUframe s + 2 * splitUnit c.gen] }) s
    else opened s
  | _ => opened s

/-- The split token that an engine asks for leaves the lane. None: it does not fit, and waits. -/
def sendSplit (e p : Nat) (w : Work) (start retry : Bool) (s : State) : Option State :=
  match splitItem s w start with
  | none => some s
  | some i => match item? s i with
    | none => some s
    | some x => match splitCtx s w x with
      | none => some s
      | some (c, tt) =>
        let num := field (workHandle s w) 0 12
        let cost := splCost (port s p).gen start (isPeriodic s w) (splitIn w x) c.mps.toNat (tokTiers s c)
          + scriptTime s num
        if !c.isOpen || c.halted || (start && !isServiceWork w && itemLeft s x c.mps.toNat = 0)
            || !splitTimely s w x start then some s
        else if !fits s p cost (!isServiceWork w) then none
        else some (splitOut e p w i x start retry num c tt s)

/-! ### DATA packets -/

/-- Position of packet `k` of a burst in its transfer. -/
def outPos (s : State) (tx : Txn) (x : Item) (k : Nat) : Nat :=
  let m := (txnCtx s tx).mps.toNat
  match tx.work with
  | .service r => if isPeriodic s tx.work then ((pstate s r).tokens - tx.count + k) * m else k * m
  | _ => x.moved + k * m

/-- The DATA is the setup of a control transfer. -/
def isSetupData (tx : Txn) (x : Item) : Bool :=
  tx.kind == .setup || (tx.kind == .splitStart && itemCtrl x && x.stage == 0 && !isServiceWork tx.work)

/-- Packet `k` of a burst carries bytes [pos, pos + length). -/
def outLen (s : State) (tx : Txn) (x : Item) (k : Nat) : Nat :=
  if itemCtrl x && x.stage == 2 then 0
  else min (txnCtx s tx).mps.toNat (itemLen x - outPos s tx x k)

/-- The payload of packet `k`, if it is staged whole (R299). What the firmware sends in the data stage of its own
work is free (log 26). -/
def outPayload (s : State) (tx : Txn) (i : Nat) (x : Item) (k : Nat) : Option (List Byte) :=
  if isSetupData tx x then some (natLE 8 (itemSetup i x))
  else
    let n := outLen s tx x k
    let a := outPos s tx x k
    if n = 0 then some []
    else if x.posted.isSome then some ((List.range n).map fun j => (Config.freeWord (i + a + j)).setWidth 8)
    else if a + n ≤ x.staged && (firstBad s x a n).isNone then some (stageRead s x a n)
    else none

/-- Packet `k` holds a word that cannot be corrected (R315). -/
def outBad (s : State) (tx : Txn) (x : Item) (k : Nat) : Bool :=
  let a := outPos s tx x k
  let n := outLen s tx x k
  !isSetupData tx x && x.posted.isNone && decide (a + n ≤ x.staged) && (firstBad s x a n).isSome

/-- The burst has no packet `k`: it is complete, or the transfer's data has gone out. -/
def burstOver (s : State) (tx : Txn) (x : Item) (k : Nat) : Bool :=
  tx.count ≤ k || (0 < k && itemLen x ≤ outPos s tx x k)

/-- Packet `k` ends its burst. -/
def lastOfBurst (s : State) (tx : Txn) (x : Item) (k : Nat) : Bool := burstOver s tx x (k + 1)

/-- Sends up to `n` packets from packet `k` on, stopping at one that is not staged; answers the number reached. -/
def sendPackets (p : Nat) (tx : Txn) (i : Nat) (x : Item) : Nat → Nat → State → Nat × State
  | 0, k, s => (k, s)
  | n + 1, k, s =>
    if burstOver s tx x k then (k, s)
    else match outPayload s tx i x k with
      | none => (k, s)
      | some b =>
        let c := txnCtx s tx
        let a := match tx.kind, c.tt with | .splitStart, some y => y.addr | _, _ => c.waddr
        sendPackets p tx i x n (k + 1) (send p .data { Hdr0 with
          addr := BitVec.ofNat 7 a, dir := false, ep := BitVec.ofNat 4 tx.ep,
          seq := if isSetupData tx x then 0 else seqAdd (txnGen s tx) tx.seq0 k,
          len := BitVec.ofNat 11 b.length, last := lastOfBurst s tx x k } b s)

/-- The transaction ends with its DATA: a periodic OUT, which nothing answers (R71, R181). -/
def unanswered (s : State) (tx : Txn) : Bool :=
  tx.kind == .perOut || (tx.kind == .splitStart && isPeriodic s tx.work)

/-- A periodic OUT burst has gone out: the sequence moves by what the device expects, and with the last packet the
entry completes SUCCESS, or DATA_UNDERRUN where data was missing (R71, R72, R280). -/
def perOutSent (p : Nat) (tx : Txn) (i : Nat) (x : Item) (sent : Nat) (under : Bool) (s : State) : State :=
  let r := match tx.work with | .service r => r | _ => 0
  let bytes := (List.range sent).foldl (fun a k => a + outLen s tx x k) 0
  let s := setTxnSeq tx (seqAdd (txnGen s tx) tx.seq0 tx.count) s
  let s := modItem i (fun y => { y with moved := y.moved + bytes }) s
  let s := if under then decideItem i stUnderrun s
    else if servicePackets x (txnCtx s tx).mps.toNat ≤ (pstate s r).tokens then decideItem i stSuccess s
    else s
  closeTxn p s

/-- What follows the packets that could be sent, `done` of the burst, of the `k` asked for; `under` says that the next one
lacks its data, `bad` that it holds a word that cannot be corrected. The first number is how many are still to be sent. -/
def sentSome (p i k : Nat) (tx : Txn) (x : Item) (done : Nat) (under bad : Bool) (s : State) : Nat × State :=
  if bad && !isServiceWork tx.work then (0, closeTxn p (decideItem i stUnderrun s))
  else if under && !isServiceWork tx.work then (k - (done - tx.sent), s)
  else if !burstOver s tx x done && !under then (0, s)
  else if unanswered s tx then (0, perOutSent p { tx with sent := done } i x done under s)
  else (0, modTxn p (fun y => { y with waiting := true }) (if under then decideItem i stUnderrun s else s))

/-- Sends up to `n` DATA packets of the OUT transaction of engine `e`; answers the packets that wait for data that is not
staged. A service goes on without data that is missing; a packet that holds a word that cannot be corrected ends the
transfer (R315). -/
def sendData (e p n : Nat) (s : State) : Nat × State :=
  match (port s p).txn with
  | none => (0, s)
  | some tx =>
    if tx.engine != some e || tx.waiting || tx.dirIn then (0, s)
    else match (workItem s tx.work).bind fun i => (item? s i).map fun x => (i, x) with
      | none => (0, modTxn p (fun y => { y with waiting := true, sent := tx.count }) s)
      | some (i, x) =>
        if x.status.isSome then (0, closeTxn p s)
        else
          let k := min n (tx.count - tx.sent)
          let r := sendPackets p tx i x k tx.sent s
          let under := !burstOver s tx x r.1 && (outPayload s tx i x r.1).isNone
          let bad := under && outBad s tx x r.1
          let s := modTxn p (fun y => { y with sent := r.1 }) r.2
          sentSome p i k tx x r.1 under bad (if bad then raise .dma 1 s else s)

/-! ### The queue of the lane (R240) -/

/-- The lane has something to do before what is queued now. -/
def laneBusy (s : State) (p : Nat) : Bool := (port s p).txn.isSome || !(port s p).lane.isEmpty || !lineFree s p

/-- Queues an operation behind what the lane has to do. -/
def queueLane (p e : Nat) (w : Work) (op : LaneOp) (s : State) : State :=
  modPort p (fun x => { x with lane := x.lane ++ [(e, w, op)] }) s

/-- The lane sends a token that an engine asked for. -/
def laneToken (e p : Nat) (w : Work) (op : LaneOp) (s : State) : Option State :=
  match op with
  | .tok typ n ep own retry => sendToken e p w typ n ep own retry s
  | .spl start retry => sendSplit e p w start retry s
  | .sdat _ => some s

/-- The lane sends what is queued, in order, until something has to wait: for the end of a transaction, for staged data,
for a free line, for time, or for the engine to hold the port again. On a line that takes no tokens they are dropped. -/
def launch (p : Nat) : Nat → State → State
  | 0, s => s
  | n + 1, s =>
    match (port s p).lane with
    | [] => s
    | (e, w, op) :: rest =>
      let pop := modPort p (fun x => { x with lane := rest })
      match op with
      | .sdat k =>
        let r := sendData e p k s
        if r.1 = 0 then launch p n (pop r.2)
        else modPort p (fun x => { x with lane := (e, w, .sdat r.1) :: rest }) r.2
      | _ =>
        if (port s p).txn.isSome then s
        else if !(lineOpen s p && workPlace s w) then launch p n (pop s)
        else if !lineFree s p || !((port s p).heldBy.all (· == e)) then s
        else match laneToken e p w op (pop s) with
          | some t => launch p n t
          | none => s

/-- The lane goes on with what is queued. -/
def runLane (p : Nat) (s : State) : State := launch p (port s p).lane.length s

/-- The transaction on a port has ended, and the lane goes on. -/
def endTxn (p : Nat) (s : State) : State := runLane p (closeTxn p s)

/-! ### Threads give way (R204, R218, R219) -/

/-- The work is a service on an N1 or N2 port, whose unit is the frame: it goes on across the microframes of the frame
(R169). -/
def longUnit (s : State) (w : Work) : Bool :=
  match w with
  | .service r => (match rungOf s r with | some g => genCode (port s g.port).gen ≤ 1 | none => false)
  | _ => false

/-- The ports that an engine's threads hold are released, but for those of parked threads and of threads that gave way. -/
def dropHolds (e : Nat) (s : State) : State :=
  let kept := tkeys (eng s e).parked ++ (eng s e).paused.flatMap fun t => t.holds
  { s with topo := { s.topo with port := s.topo.port.map fun p =>
      (p.1, { p.2 with
        heldBy := if p.2.heldBy == some e && !kept.contains p.1 then none else p.2.heldBy
        holdWait := p.2.holdWait.filter (· != e) }) } }

/-- Step 2 of R218: a running dispatch thread is suspended; waits in DRN and HOLD start again, and GETW ends without
a grant. A periodic thread ends, unless its unit is not over: then it gives way. -/
def suspendDispatch (e : Nat) (s : State) : State :=
  dropHolds e (modEng e (fun x => match x.run with
    | some t =>
      if t.kind == .dispatch then
        let w := match t.wait with | .hold _ | .drn | .getw => Wait.running | w => w
        { x with suspended := some { t with wait := w, holds := [] }, run := none }
      else if longUnit s t.work && s.tb.uframe != 0 then { x with run := none, paused := t :: x.paused }
      else { x with run := none }
    | none => x) s)

/-- The running thread of an engine has a transaction on the wire. -/
def midTxn (s : State) (e : Nat) : Bool :=
  match (eng s e).run with
  | some t => t.holds.any fun p => (match (port s p).txn with | some x => x.engine == some e | none => false)
  | none => false

/-- The endpoint of a reservation is halted (R78). -/
def resHalted (s : State) (r : Nat) (g : Rung) : Bool :=
  (pstate s r).halted || (match ctx? s (field g.handle 0 12) g.ep g.dirIn with | some c => c.halted | none => false)

/-- A floating reservation takes the transfer that has waited longest: its engine serves it after the transaction that it
has in progress. On a halted endpoint the transfer completes STALL (R78, R159, R204). -/
def floatServe (p : Nat) (s : State) : State :=
  match floatOf s p, tget ([] : List Nat) s.sch.floatWait p with
  | some (r, g), i :: rest =>
    let m := absUframe s
    let e := if (eng s g.engine).retired || (eng s g.engine).stopped then g.fallback else g.engine
    let s := { s with sch := { s.sch with
      floatWait := tput s.sch.floatWait p rest, floatIdle := tdel s.sch.floatIdle p } }
    if resHalted s r g then finish i stStall s
    else
      let s := modItem i (fun x => { x with service := some m }) s
      let s := modPstate r (fun y => { y with
        good := 0, lost := false, short := false, tokens := 0, late := false, attempts := 0 }) s
      let s := modEng e (fun x => { x with walk := r :: x.walk }) s
      let busy : Bool := match (eng s e).run with
        | some t => t.kind == .periodic || midTxn s e
        | none => false
      if busy then s else nextWork e (suspendDispatch e s)
  | _, _ => s

end Sys2Proof.Machine
end

