-- ==== Sys2Proof/Machine/Axis.lean ====
section
/-! DEFINITION. Axis inputs, the lock state, compare units, PTM and the latched halves of consistent reads
(R141 to R161, R166, R167). A command stands for the accepted event itself: an input edge after its filter, the
moment at which a position enters a window, or a pass of LOCK_PHASE. -/

namespace Sys2Proof.Machine

/-! ### Axis registers -/

/-- `AX[i].STATE`. -/
def axisState (s : State) (i : Nat) : U64 :=
  let x := axis s i
  BitVec.ofNat 64 (posAt x (now s) + x.cycle.toNat * 2 ^ 32 + ofBool x.reverse * 2 ^ 48 + ofBool x.stalled * 2 ^ 49)

/-- Raises a bit of `AX[i].EVT`. -/
def raiseAx (i b : Nat) (s : State) : State := raise (.ax (Fin.ofNat 4 i)) b s

/-! ### The lock state (R145) -/

/-- T / M is below the band, or above it. -/
def axisFast (s : State) (x : Axis) : Bool := decide (x.period.toNat < 376000 * s.tb.m)
def axisSlow (s : State) (x : Axis) : Bool := decide (424000 * s.tb.m < x.period.toNat)
/-- The axis is stalled, has reversed, or is off. -/
def axisLost (x : Axis) : Bool := x.stalled || x.reverse || axMode x == 0
/-- The axis is out of band. -/
def axisOut (s : State) (x : Axis) : Bool := axisLost x || axisFast s x || axisSlow s x

/-- LOCKED is left for another state. -/
def loseLock (next : Lock) (s : State) : State :=
  let was := s.tb.lock
  let s := { s with tb := { s.tb with lock := next, passes := 0, inBand := 0 } }
  if was == .locked then raise .tb 1 s else s

/-- Brings the lock state up to date with its axis; `cycle` says that a cycle has just completed. -/
def lockEval (i : Nat) (cycle : Bool) (s : State) : State :=
  let x := axis s i
  if s.tb.mode != 1 || s.tb.axsel != i then s
  else
    let long := axisLost x || !axisFast s x
    match s.tb.lock with
    | .free => s
    | .clamped =>
      if axisOut s x then { s with tb := { s.tb with clampLong := long, inBand := 0 } }
      else if !cycle then s
      else if s.tb.inBand + 1 < 2 then { s with tb := { s.tb with inBand := s.tb.inBand + 1 } }
      else { s with tb := { s.tb with lock := .acquire, passes := 0, inBand := 0, clampLong := false } }
    | _ =>
      if axisOut s x then
        let s := loseLock .clamped s
        raise .tb 2 { s with tb := { s.tb with clampLong := long } }
      else s

/-- The offset of this instant from the nearest frame boundary. -/
def phaseError (s : State) : Nat :=
  let off := (now s - s.tb.frameAt) % max 1 s.tb.flen
  min off (s.tb.flen - off)

/-- The axis that the loop follows has just passed LOCK_PHASE, moving forward: it is at it, or less than half a cycle
beyond. -/
def lockPhaseHere (s : State) : Bool :=
  let x := axis s s.tb.axsel
  axMode x != 0 && !x.reverse
    && decide ((posAt x (now s) + cyclePos - field s.tb.lockPhase 0 24) % cyclePos < 2 ^ 23)

/-- A pass of LOCK_PHASE (R144 to R146): M takes effect, the phase error is measured, and moves the lock state. -/
def lockPass (s : State) : State :=
  let m := field s.tb.ctl 16 12 + 1
  let changed := m != s.tb.m
  let e := phaseError s
  let s := { s with tb := { s.tb with m := m, phaseErr := e } }
  if s.tb.mode != 1 then s
  else
    let s := match s.tb.lock with
      | .acquire =>
        let n := if e ≤ 64 then s.tb.passes + 1 else 0
        if n < 4 then { s with tb := { s.tb with passes := n } }
        else raise .tb 0 { s with tb := { s.tb with lock := .locked, passes := n } }
      | .locked => if changed || 4096 < e then loseLock .acquire s else s
      | _ => s
    lockEval s.tb.axsel false s

/-- AXIS_LOCK_PHASE_PASS (R144). -/
def execAxisLockPhasePass (s : State) : Host.Outcome State Fault Refusal :=
  guarded (live s && timebaseRuns s && lockPhaseHere s) s lockPass

/-! ### Compare units: windows and moves (R154 to R158) -/

def actEvent : BitVec 2 := 1
def actBind : BitVec 2 := 2

/-- ACTION and DIR in effect: 3 acts as 0. -/
def unitAction (u : CmpUnit) : BitVec 2 := if u.action = 3 then 0 else u.action
def unitDir (u : CmpUnit) : BitVec 2 := if u.dir = 3 then 0 else u.dir
/-- W in effect of a written WIN. -/
def winOf (w : Nat) : Nat := if w = 0 then 1 else min w (2 ^ 23)
/-- The unit's qualifier: any cycle, or cycle C. Under BIND it is the entry's. -/
def unitAny (u : CmpUnit) : Bool := if unitAction u = actBind then u.anyNow else u.anyCycle

/-- A position lies in the unit's window. -/
def inWindow (u : CmpUnit) (p : Nat) : Bool := decide ((p + cyclePos - u.pos) % cyclePos < u.winNow)

/-- The cycle to which the window at a position of cycle `c` belongs: the one in which P falls (R155). -/
def windowCycle (u : CmpUnit) (p : Nat) (c : U16) : U16 := if u.pos ≤ p then c else c - 1

/-- The unit watches a movement in this direction. -/
def watches (u : CmpUnit) (reverse : Bool) : Bool :=
  if unitDir u = 0 then !reverse else if unitDir u = 1 then reverse else true

/-- A move of `d` from `p` in cycle `c` carries the axis over the whole window: the cycle in which P was passed
(R156). -/
def carriedOver (u : CmpUnit) (p d : Nat) (c : U16) (reverse : Bool) : Option U16 :=
  if inWindow u p then none
  else if reverse then
    let far := (p + cyclePos - u.pos) % cyclePos
    if far < d then some (if u.pos ≤ p then c else c - 1) else none
  else
    let near := (u.pos + cyclePos - p) % cyclePos
    if near + u.winNow ≤ d then some (if p < u.pos then c else c + 1) else none

/-- The cycle in which the position of this instant lies: below count 0, between a reverse count and the next, it is the
cycle before (R149, R151). -/
def cycleAt (x : Axis) (t : Nat) : U16 :=
  if x.reverse && x.count == 0 && axMode x != 3 && posAt x t != 0 && x.lastEdge.isSome && axInterp x then x.cycle - 1
  else x.cycle

/-- The unit disarms after it has fired or missed, unless ANY_CYCLE of EVENT keeps it armed (R157, R158). -/
def unitDone (c : Nat) (s : State) : State :=
  modUnit c (fun u => if unitAction u = actEvent && u.anyCycle then u else { u with armed := false, entry := none }) s

/-- Reports a firing or a miss of an EVENT unit (R157). -/
def unitPend (c : Nat) (s : State) : State :=
  if unitAction (cmpUnit s c) = actEvent then raise (.cmpPend (Fin.ofNat 8 (c / 32))) (c % 32) s else s

/-- A unit misses: under BIND its entry completes MISSED. -/
def unitMiss (c : Nat) (s : State) : State :=
  let u := cmpUnit s c
  let s := unitPend c (modUnit c (fun u => { u with missed := true }) s)
  match u.entry with
  | some i => unitDone c (finish i stMissed s)
  | none => unitDone c s

/-- Notes an evaluation of a unit at this instant. -/
def noteEval (inside : Bool) (p : Nat) (c : Nat) (s : State) : State :=
  modUnit c (fun u => { u with evalAt := now s, inside := inside, evalPos := p }) s

/-- A move that a unit watches: a jump over its whole window is a miss (R156). -/
def unitJump (p d : Nat) (cyc : U16) (reverse : Bool) (c : Nat) (s : State) : State :=
  let u := cmpUnit s c
  if u.armed && watches u reverse && d != 0 then
    match carriedOver u p d cyc reverse with
    | some k => if unitAny u || k == u.cycle then unitMiss c s else s
    | none => s
  else s

/-- The interpolated travel of an axis since a unit was last evaluated (R151, R154): a window that no cycle of it fell into
and that lies behind it is a miss. -/
def unitSettle (i : Nat) (c : Nat) (s : State) : State :=
  let x := axis s i
  let p := (cmpUnit s c).evalPos
  let q := posAt x (now s)
  let d := if x.reverse then (p + cyclePos - q) % cyclePos else (q + cyclePos - p) % cyclePos
  if axInterp x && !x.stalled && (cmpUnit s c).evalAt < now s then
    noteEval (inWindow (cmpUnit s c) q) q c (unitJump p d (cycleAt x (cmpUnit s c).evalAt) x.reverse c s)
  else s

/-- One position update of axis `i` for the unit `c`: a jump over the window is a miss; an entry into it is left to
the firing that follows. -/
def unitMoved (p q d : Nat) (cyc : U16) (reverse : Bool) (c : Nat) (s : State) : State :=
  let u := cmpUnit s c
  let enters := inWindow u q && !u.inside && u.armed && watches u reverse
  let s := unitJump p d cyc reverse c s
  noteEval (inWindow (cmpUnit s c) q && !enters) q c s

/-- The compare units that watch an axis. -/
def unitsOn (s : State) (i : Nat) : List Nat := (s.tb.cmp.filter fun e => e.2.axis == i).map Prod.fst

/-- The compare units that watch an axis see it move. -/
def axisMoved (i p d : Nat) (cyc : U16) (reverse : Bool) (s : State) : State :=
  each (unitsOn s i) (unitMoved p (axis s i).pos d cyc reverse) s

/-! ### Edges (R148 to R152) -/

/-- The cycle count steps, and a step across the end raises CYCLE_WRAP. -/
def stepCycle (i : Nat) (up : Bool) (s : State) : State :=
  let c := (axis s i).cycle
  let s := modAxis i (fun x => { x with cycle := if up then c + 1 else c - 1 }) s
  if (up && c == 0xFFFF) || (!up && c == 0) then raiseAx i 0 s else s

/-- A forward cycle starts: the cycle that ends gives PERIOD if it was complete. -/
def startCycle (i : Nat) (s : State) : State :=
  let t := now s
  let s := modAxis i (fun x => { x with
    cycleStart := some t
    period := match x.cycleStart with
      | some a => if t - a < 0xFFFFFFFF then BitVec.ofNat 32 (t - a) else 0xFFFFFFFF
      | none => x.period }) s
  stepCycle i true s

/-- Times a counted edge in a direction: the interval, and the run of edges in it. -/
def timeEdge (i : Nat) (reverse : Bool) (s : State) : State :=
  let t := now s
  modAxis i (fun x =>
    let same := x.reverse == reverse && x.lastEdge.isSome
    { x with
      lastEdge := some t, sameDir := if same then x.sameDir + 1 else 1, reverse := reverse, stalled := false
      interval := if same then x.lastEdge.map (t - ·) else none }) s

/-- A forward count. -/
def countForward (i : Nat) (s : State) : State :=
  let x := axis s i
  let s := timeEdge i false s
  if x.count + 1 < axCpc x then modAxis i (fun x => { x with count := x.count + 1 }) s
  else startCycle i (modAxis i (fun x => { x with count := 0, wraps := x.wraps + 1 }) s)

/-- A reverse count; the first raises REVERSE. -/
def countReverse (i : Nat) (s : State) : State :=
  let x := axis s i
  let s := modAxis i (fun x => { x with cycleStart := none }) (timeEdge i true s)
  let s := if x.reverse then s else raiseAx i 4 s
  if x.count = 0 then
    stepCycle i false (modAxis i (fun x => { x with count := axCpc x - 1, wraps := x.wraps - 1 }) s)
  else modAxis i (fun x => { x with count := x.count - 1 }) s

/-- The way from a position to another in a direction; a step that ends where it began, in another cycle, is a whole
cycle. -/
def travel (p q : Nat) (reverse wrapped : Bool) : Nat :=
  if wrapped && p == q then cyclePos
  else if reverse then (p + cyclePos - q) % cyclePos else (q + cyclePos - p) % cyclePos

/-- Carries out a counting step and shows the travel since the last edge, and then the move, to the compare units and the
lock. -/
def withMove (i : Nat) (reverse : Bool) (f : State → State) (s : State) : State :=
  let s := each (unitsOn s i) (unitSettle i) s
  let x := axis s i
  let p := posAt x (now s)
  let c := cycleAt x (now s)
  let s := f s
  let y := axis s i
  let q := if axMode y = 3 then 0 else posOf y y.count
  let s := modAxis i (fun x => { x with pos := q }) s
  let wrapped := y.cycle != x.cycle
  lockEval i (wrapped && !reverse) (axisMoved i p (travel p q reverse wrapped) c reverse s)

/-- A quadrature step from the state of the last counted edge to a new one: forward with A leading B. -/
def quadForward (x : Axis) (a b : Bool) : Bool := (if a != x.stA then a != b else b == a) != axDirInv x

/-- A lost edge follows the last counted one by less than 100 ns (R148). -/
def tooSoon (x : Axis) (t : Nat) : Bool := match x.lastEdge with | some e => decide (t < e + 40) | none => false

/-- An accepted edge (R147 to R149). In QUAD, one that shows the state of the last counted edge, or both A and B changed
from it, counts nothing, and ends a stall. -/
def countEdge (i : Nat) (a b : Bool) (s : State) : State :=
  let x := axis s i
  let isEdge := match axMode x with
    | 0 => false
    | 1 => true
    | _ => a
  if !isEdge then s
  else if tooSoon x (now s) then raiseAx i 3 s
  else if axMode x = 1 then
    if a == x.stA && b == x.stB then modAxis i (fun x => { x with stalled := false }) s
    else if a != x.stA && b != x.stB then raiseAx i 3 (modAxis i (fun x => { x with stalled := false }) s)
    else
      let fwd := quadForward x a b
      let s := withMove i (!fwd) (if fwd then countForward i else countReverse i) s
      modAxis i (fun x => { x with stA := a, stB := b }) s
  else if axMode x = 2 then withMove i false (countForward i) s
  else withMove i false (fun s => startCycle i (timeEdge i false s)) s

/-- AXIS_COUNT_EDGE (R149). -/
def execAxisCountEdge (i : Fin 4) (a : Bool) (b : Bool) (s : State) : Host.Outcome State Fault Refusal :=
  guarded (live s && timebaseRuns s) s (countEdge i.val a b)

/-- A rising Z edge (R150): a new cycle unless the wrap of this revolution has already begun it. -/
def indexEdge (i : Nat) (s : State) : State :=
  let x := axis s i
  if axMode x != 1 || !axZsync x || x.reverse then s
  else
    let s := if x.count = 0 || x.count + 1 = axCpc x then s else raiseAx i 1 s
    let back := x.count != 0 && x.count < axCpc x / 2 && decide (0 < x.wraps)
    let s := withMove i back (fun s =>
      let s := modAxis i (fun x => { x with count := 0, wraps := 0 }) s
      if 0 < x.wraps then s else startCycle i s) s
    s

/-- AXIS_INDEX_EDGE (R150). -/
def execAxisIndexEdge (i : Fin 4) (s : State) : Host.Outcome State Fault Refusal :=
  guarded (live s && timebaseRuns s) s (indexEdge i.val)

/-- AXIS_STALL (R152): the position holds. -/
def execAxisStall (i : Fin 4) (s : State) : Host.Outcome State Fault Refusal :=
  guarded (live s && timebaseRuns s && axMode (axis s i.val) != 0 && axStallTo (axis s i.val) != 0
      && !(axis s i.val).stalled) s fun s =>
    let t := now s
    let s := each (unitsOn s i.val) (unitSettle i.val) s
    let s := modAxis i.val (fun x => { x with pos := posAt x t, stalled := true, interval := none }) s
    lockEval i.val false (raiseAx i.val 2 s)

/-- Writes `AX[i].CPC` (R149). The change of position is one update, taken the shorter way round. -/
def cpcWrite (i : Nat) (v : U32) (s : State) : State :=
  let s := each (unitsOn s i) (unitSettle i) s
  let x := axis s i
  let p := posAt x (now s)
  let y := { x with cpc := BitVec.ofNat 32 (field v 0 24) }
  let y := { y with count := y.count % axCpc y }
  if axMode x = 3 then modAxis i (fun x => { x with cpc := y.cpc }) s
  else
    let q := posOf y y.count
    let s := modAxis i (fun _ => { y with pos := q, period := 0xFFFFFFFF, cycleStart := none }) s
    let up := (q + cyclePos - p) % cyclePos
    let reverse := decide (2 ^ 23 < up)
    lockEval i false (axisMoved i p (if reverse then cyclePos - up else up) x.cycle reverse s)

/-- AX_CPC_WRITE (R149). -/
def execAxCpcWrite (i : Fin 4) (value : U32) (s : State) : Host.Outcome State Fault Refusal :=
  guarded (hostReaches s 0) s (cpcWrite i.val value)

/-- Writes `AX[i].CFG` (R152): reserved bits stay 0; setting ZSYNC starts the count of wraps of R150. A change of
MODE ends the interval and the cycle in progress. -/
def axCfgWrite (i : Nat) (v : U32) (s : State) : State :=
  let t := now s
  let s := modAxis i (fun x =>
    let y := { x with cfg := setField (setField v 5 3 0) 12 4 0 }
    let y := if !axZsync x && axZsync y then { y with wraps := 0 } else y
    if axMode x = axMode y then y
    else { y with
      pos := posAt x t, lastEdge := none, interval := none, cycleStart := none, sameDir := 0 }) s
  lockEval i false s

/-! ### Firing and arming (R154 to R161) -/

/-- The instant of the firing of an item that waits for a floating reservation. -/
def firedAt (s : State) (i : Nat) : Nat := match item? s i with | some x => x.firedAt | none => 0

/-- The list of a port's waiting transfers with a newly fired one: in order of compare instants, the lower unit
number first between equal instants (R159). -/
def insertFired (s : State) (c : Nat) (l : List Nat) (i : Nat) : List Nat :=
  let later := fun j => match item? s j with
    | some x => decide (c < eUnit x.raw) && firedAt s j == now s
    | none => false
  let tail := (l.reverse.takeWhile later).reverse
  l.take (l.length - tail.length) ++ i :: tail

/-- A unit fires (R157, R158). A floating reservation of the port that starts in this very cycle takes its transfer (R29,
R203). -/
def unitFire (c : Nat) (s : State) : State :=
  let u := cmpUnit s c
  let t := now s
  let s := unitPend c (noteEval true (posAt (axis s u.axis) t) c (modUnit c (fun u => { u with fired := true, time := t }) s))
  match u.entry with
  | some i =>
    let s := modItem i (fun x => { x with fired := true, firedAt := t }) s
    let l := insertFired s c (tget ([] : List Nat) s.sch.floatWait u.port) i
    let s := unitDone c { s with sch := { s.sch with floatWait := tput s.sch.floatWait u.port l } }
    if tfind s.sch.floatIdle u.port == some t then floatServe u.port s else s
  | none => unitDone c s

/-- At the evaluation before this instant the position lay in the unit's window (R154). -/
def insideBefore (s : State) (c : Nat) : Bool :=
  let u := cmpUnit s c
  if u.evalAt + 1 < now s then inWindow u (posAt (axis s u.axis) (now s - 1)) else u.inside

/-- The unit fires at this instant: armed, its axis moving its way in its window, and not inside before. -/
def fires (s : State) (c : Nat) : Bool :=
  let u := cmpUnit s c
  let x := axis s u.axis
  let p := posAt x (now s)
  u.armed && inWindow u p && !insideBefore s c && watches u x.reverse
    && (unitAny u || windowCycle u p (cycleAt x (now s)) == u.cycle)

/-- COMPARE_FIRE (R154, R446). -/
def execCompareFire (c : Fin 256) (s : State) : Host.Outcome State Fault Refusal :=
  guarded (live s && timebaseRuns s && fires s c.val) s (unitFire c.val)

/-- The window of the cycle that an entry names has already been entered or passed (R158): in the cycle itself, judged in
the unit's direction, and for a unit of either direction in that of the axis (log 105). -/
def cyclePassed (u : CmpUnit) (x : Axis) (t pos win : Nat) (c : U16) : Bool :=
  let ahead := (cycleAt x t - c).toNat
  let p := posAt x t
  let down := if unitDir u = 2 then x.reverse else unitDir u = 1
  (decide (1 ≤ ahead ∧ ahead ≤ 32767))
    || (ahead == 0 && if down then decide (p < pos + win) else decide (pos ≤ p))

/-- The next accepted entry of a BIND unit is armed, or completes MISSED_LEAD (R158). -/
def armNext (c : Nat) (s : State) : State :=
  let u := cmpUnit s c
  match u.entry, u.queue with
  | none, i :: rest =>
    match item? s i with
    | none => modUnit c (fun u => { u with queue := rest }) s
    | some e =>
      let x := axis s u.axis
      let any := eAnyCycle e.raw
      if !any && cyclePassed u x (now s) (ePosition e.raw) (winOf u.win) (eCycle e.raw) then
        finish i stMissedLead { s with sch := { s.sch with leadMiss := s.sch.leadMiss + 1 } }
      else
        let v := { u with
          queue := rest, entry := some i, armed := true, pos := ePosition e.raw, cycle := eCycle e.raw,
          winNow := winOf u.win, anyNow := any }
        modItem i (fun x => { x with armed := true })
          (modUnit c (fun _ => { v with
            evalAt := now s, inside := inWindow v (posAt x (now s)), evalPos := posAt x (now s) }) s)
  | _, _ => s

/-- COMPARE_ARM_NEXT (R158). -/
def execCompareArmNext (c : Fin 256) (s : State) : Host.Outcome State Fault Refusal :=
  guarded (live s && unitAction (cmpUnit s c.val) == actBind) s (armNext c.val)

/-- An EVENT unit is armed with its present values. -/
def armEvent (s : State) (u : CmpUnit) : CmpUnit :=
  let v := { u with armed := true, winNow := winOf u.win, anyNow := u.anyCycle }
  let p := posAt (axis s v.axis) (now s)
  { v with evalAt := now s, inside := inWindow v p, evalPos := p }

/-- Writes `TB.CMP_CFG` of the selected unit (R161). -/
def cmpCfgWrite (v : U32) (s : State) : State :=
  let c := field s.tb.cmpSel 0 8
  let u := cmpUnit s c
  let n : CmpUnit := { u with
    axis := field v 0 2, dir := BitVec.ofNat 2 (field v 2 2), action := BitVec.ofNat 2 (field v 4 2),
    anyCycle := bit v 6, port := field v 8 6, owner := field v 16 7,
    fired := u.fired && !bit v 25, missed := u.missed && !bit v 26 }
  if n.axis == u.axis && n.dir == u.dir && n.action == u.action && n.port == u.port && n.owner == u.owner then
    modUnit c (fun _ => n) s
  else
    let out := (match u.entry with | some i => [i] | none => []) ++ u.queue
    let s := if unitAction u = actBind then each out (fun i => finish i stAbortedReset) s else s
    let n := { n with armed := false, entry := none, queue := [] }
    modUnit c (fun _ => if unitAction n = actEvent then armEvent s n else n) s

/-- TB_CMP_CFG_WRITE (R161). -/
def execTbCmpCfgWrite (value : U32) (s : State) : Host.Outcome State Fault Refusal :=
  guarded (hostReaches s 0) s (cmpCfgWrite value)

/-- Writes `TB.CMP_TARGET` of the selected unit (R161): under BIND only WIN. -/
def cmpTargetWrite (v : U64) (s : State) : State :=
  let c := field s.tb.cmpSel 0 8
  let u := { cmpUnit s c with win := field v 24 24 }
  if unitAction u = actBind then modUnit c (fun _ => u) s
  else
    let u := { u with pos := field v 0 24, cycle := BitVec.ofNat 16 (field v 48 16) }
    modUnit c (fun _ => if unitAction u = actEvent && u.armed then armEvent s u else u) s

/-- TB_CMP_TARGET_WRITE (R161). -/
def execTbCmpTargetWrite (value : U64) (s : State) : Host.Outcome State Fault Refusal :=
  guarded (hostReaches s 0) s (cmpTargetWrite value)

/-! ### Free-run length (R143) -/

/-- A written length, in the band and a multiple of 8. -/
def bandLen (n : Nat) : Nat := max 376000 (min 424000 (n / 8 * 8))

/-- TB_FREE_LEN_WRITE (R143). -/
def execTbFreeLenWrite (value : U32) (s : State) : Host.Outcome State Fault Refusal :=
  guarded (hostReaches s 0) s fun s => { s with tb := { s.tb with freeLen := bandLen (field value 0 19) } }

/-! ### PTM (R166, R167) -/

/-- PTM_START (R166): one dialogue at a time, while PTM Enable of PF0 is set. -/
def execPtmStart (s : State) : Host.Outcome State Fault Refusal :=
  guarded (serves s && timebaseRuns s && s.tb.ptmEn) s fun s => { s with tb := { s.tb with ptmBusy := true } }

/-- PTM_RESPONSE (R167): the values of one instant are latched. -/
def execPtmResponse (master : U64) (s : State) : Host.Outcome State Fault Refusal :=
  guarded (live s && s.tb.ptmBusy) s fun s =>
    raise .tb 3 { s with tb := { s.tb with
      ptmBusy := false, ptmMaster := master, ptmTick := s.tb.tick, ptmEpoch := epochReg s, ptmFlen := s.tb.flen
      ptmSeq := s.tb.ptmSeq + 1, ptmValid := true } }

/-- PTM_TIMEOUT (R166): no response within 100 µs. -/
def execPtmTimeout (s : State) : Host.Outcome State Fault Refusal :=
  guarded (live s && s.tb.ptmBusy) s fun s => raise .tb 4 { s with tb := { s.tb with ptmBusy := false } }

/-! ### Latched high words (R141, R470) -/

def latchKey : LatchReg → Nat
  | .epoch => 0 | .tick => 1 | .axState i => 2 + i.val | .telV n => 16 + n.val | .telI n => 80 + n.val
  | .energy n => 144 + n.val | .telPeak n => 208 + n.val

/-- The 64-bit value of such a register. -/
def latchValue (s : State) : LatchReg → U64
  | .epoch => epochReg s
  | .tick => s.tb.tick
  | .axState i => axisState s i.val
  | .telV n => (tget ({} : Telemetry) s.slots.tel n.val).v
  | .telI n => (tget ({} : Telemetry) s.slots.tel n.val).i
  | .energy n => (tget ({} : Telemetry) s.slots.tel n.val).energy
  | .telPeak n => (tget ({} : Telemetry) s.slots.tel n.val).peak

/-- EPOCH_LOW_READ (R141): the read of the low word latches the high one. -/
def execEpochLowRead (r : LatchReg) (s : State) : Host.Outcome State Fault Refusal :=
  guarded (live s) s fun s => { s with tb := { s.tb with
    latch := tput s.tb.latch (latchKey r) (BitVec.ofNat 32 (field (latchValue s r) 32 32)) } }

/-- EPOCH_LATCH_EXPIRY (R141): 1 µs has passed, or the high word was read. -/
def execEpochLatchExpiry (r : LatchReg) (s : State) : Host.Outcome State Fault Refusal :=
  guarded (live s) s fun s => { s with tb := { s.tb with latch := tdel s.tb.latch (latchKey r) } }

end Sys2Proof.Machine
end

