-- ==== Sys2Proof/Machine/Wire.lean ====
section
/-! DEFINITION. Transactions on the wire: what each received packet, timeout and end of a burst does to the
transaction in progress, its transfer and its engine (R58 to R82, R105 to R109, R276, R280, R298). The port lane
decides a transfer's status; FIN posts it. -/

namespace Sys2Proof.Machine

/-! ### Results of transfers -/

/-- Decides the status of the transaction's transfer. -/
def decide_ (t : Txn) (st : Byte) (s : State) : State :=
  match workItem s t.work with
  | some i => decideItem i st s
  | none => s

/-- Ends the transaction with a status for its transfer, and reports a result. -/
def conclude (p : Nat) (t : Txn) (st : Byte) (code b14 : Nat) (s : State) : State :=
  endTxn p (report p t.engine code b14 (txnSeq s t).toNat (decide_ t st s))

/-- Ends the transaction without a status, and reports a result, with the sequence that B13 takes from it. -/
def goOnSeq (p : Nat) (t : Txn) (code b14 b13 : Nat) (s : State) : State :=
  endTxn p (report p t.engine code b14 b13 s)

/-- Ends the transaction without a status, and reports a result. -/
def goOn (p : Nat) (t : Txn) (code b14 : Nat) (s : State) : State := goOnSeq p t code b14 (txnSeq s t).toNat s

/-- Sets the consecutive-error count of the transaction's transfer (R67). -/
def setErrs (t : Txn) (n : Nat) (s : State) : State :=
  let s := match t.work with | .item i => modItem i (fun x => { x with errs := n }) s | _ => s
  let k := ctxKey t.num t.ep t.dirIn
  refreshWin k (modCtx k (fun c => { c with errcnt := BitVec.ofNat 8 n }) s)

/-- CLEAR-TT for the translator of a device, after an error limit (R108). -/
def clearTtOf (t : Txn) (s : State) : State :=
  match (txnCtx s t).tt with
  | some x => clearTt x.hub x.port s
  | none => s

/-- Counts one error of a control or bulk transfer; at the limit it completes XACT_ERR (R57, R67). DEDUCED: a transfer by
splits takes the limit of its device's generation (log 98). -/
def countTransfer (t : Txn) (i : Nat) (s : State) : State :=
  match item? s i with
  | some x =>
    let s := setErrs t (x.errs + 1) s
    if errorLimit (txnGen s t) ≤ x.errs + 1 then clearTtOf t (decide_ t stXactErr s) else s
  | none => s

/-- Binds an event entry to the endpoint's next reservation; the entries bound there and behind it move on, in their order
(R73, R200). -/
def rebindEvent (i r : Nat) (s : State) : State :=
  match rungOf s r with
  | none => s
  | some g =>
    let m := serviceFrom g (absUframe s + 1)
    modPstate r (fun x => { x with attempts := 0 })
      (modItem i (fun x => { x with service := some m, begun := false }) (shiftEvents r g 8 m s))

/-- The attempts of an event reservation are over: two have been made, or the unit of a split's second one has gone by
(R73, R181). -/
def attemptsOver (s : State) (r n : Nat) : Bool :=
  2 ≤ n || (match rungOf s r, (boundItem s r).bind (item? s) with
    | some g, some x => g.split && (match x.service with
      | some m => decide (m + 2 * splitUnit g.gen < absUframe s)
      | none => false)
    | _, _ => false)

/-- An attempt of an event reservation has ended in an error: with the last one the entry completes XACT_ERR
(R73). -/
def countAttempt (t : Txn) (r : Nat) (s : State) : State :=
  let n := (pstate s r).attempts + 1
  let s := modPstate r (fun x => { x with attempts := n }) s
  if attemptsOver s r n then
    clearTtOf t (decide_ t stXactErr (modPstate r (fun x => { x with attempts := 0 }) s))
  else s

/-- A thread that serves the transaction's work has a declared ERROR hook still to enter (R242). -/
def errorHook (s : State) (t : Txn) : Bool :=
  match t.engine with
  | none => false
  | some e => (threadsOf (eng s e)).any fun th =>
      th.work == t.work && th.script.isNone && th.bound != 0 && !th.entered.contains 2
        && (match tfind s.eng.scripts th.bound with
          | some c => bit c.hooks 2 && (!isServiceWork th.work || bit c.flags 0)
          | none => false)

/-- Counts one error of a transaction now. -/
def countNow (t : Txn) (s : State) : State :=
  match t.work with
  | .item i => countTransfer t i s
  | .service r => countAttempt t r s
  | .none_ => s

/-- An error of a transaction with retries: it is counted, or waits for the ERROR hook that comes before the count
(R242). -/
def countErr (t : Txn) (s : State) : State :=
  match workItem s t.work with
  | some i => if errorHook s t then modItem i (fun x => { x with pendErr := some t }) s else countNow t s
  | none => s

/-- Counts the error of an item that waited for a hook: the hook has ended, or the engine has gone on without it. -/
def flushErr (i : Nat) (s : State) : State :=
  match item? s i with
  | some x => match x.pendErr with
    | some t => countNow t (setItem s i { x with pendErr := none })
    | none => s
  | none => s

/-- The live reservations of an endpoint. -/
def epReservations (s : State) (num ep : Nat) (dirIn : Bool) : List Nat :=
  (s.sch.live.filter fun e => e.2.handle == handleWord s num && e.2.ep == ep && e.2.dirIn == dirIn).map Prod.fst

/-- Marks an endpoint halted (R78): its entries complete STALL without bus traffic, those of a reservation in their
services (R198). The control endpoint does not halt (R77). -/
def markHalted (num ep : Nat) (dirIn : Bool) (s : State) : State :=
  if ep = 0 then s
  else
    let s := modCtx (ctxKey num ep dirIn) (fun c => { c with halted := true }) s
    let h := handleWord s num
    let s := each (epReservations s num ep dirIn)
      (fun r s => idleAfter r (modPstate r (fun x => { x with halted := true }) s)) s
    let s := refreshWin (ctxKey num ep dirIn) s
    each (itemsWhere s fun x => x.status.isNone && x.posted.isNone && x.slot == .work && eHandle x.raw == h
        && eEp x.raw == ep && eDirIn x.raw == dirIn && x.granted.isNone) (finish · stStall) s

/-- CLEAR-HALT has completed (R79): the halted mark is cleared and the sequence is 0. -/
def clearHalt (num ep : Nat) (dirIn : Bool) (s : State) : State :=
  let s := modCtx (ctxKey num ep dirIn) (fun c => { c with halted := false, seq := 0 }) s
  refreshWin (ctxKey num ep dirIn)
    (each (epReservations s num ep dirIn)
      (fun r s => idleAfter r (modPstate r (fun x => { x with halted := false, seq := 0 }) s)) s)

/-! ### Control transfers (R68 to R70) -/

/-- DLEN of the transfer. -/
def ctrlLen (x : Item) : Nat := itemLen x

/-- The stage after the data or setup stage. -/
def nextStage (i : Nat) (n : Nat) (s : State) : State := modItem i (fun x => { x with stage := n, errs := 0 }) s

/-- The status stage has completed: the transfer ends, and a CLEAR-HALT takes effect (R68, R79). -/
def ctrlDone (i : Nat) (x : Item) (t : Txn) (s : State) : State :=
  let st := if itemIn x && x.moved < ctrlLen x then stShort else stSuccess
  let s := decide_ t st s
  let a := itemSetup i x
  if x.posted.isNone && suClearHalt a then clearHalt t.num (suArg1 a % 16) (suArg1 a / 128 % 2 == 1) s else s

/-- The SETUP has been acknowledged: both sequences become 1 (R68). -/
def setupDone (i : Nat) (x : Item) (t : Txn) (s : State) : State :=
  let s := modCtx (ctxKey t.num 0 false) (fun c => { c with seq := 1, seqOut := 1 }) s
  nextStage i (if ctrlLen x = 0 then 2 else 1) (setErrs t 0 s)

/-! ### Receiving IN data -/

/-- Stores bytes of a transfer at a position and raises what DMA sees (R298). Posted work has no host buffer. -/
def storeIn (i pos : Nat) (bytes : List Byte) (s : State) : State :=
  match item? s i with
  | some x =>
    if x.posted.isSome then modItem i (fun y => { y with moved := y.moved + bytes.length }) s
    else
      let s := stageWrite x pos bytes s
      modItem i (fun y => { y with segs := addSeg pos bytes.length y.segs, moved := y.moved + bytes.length }) s
  | none => s

/-- What the DATA packet of an IN burst does to a control or bulk transfer, in sequence. -/
def storeBulk (p : Nat) (t : Txn) (payload : List Byte) (s : State) : State :=
  let s := setTxnSeq t (seqAdd (txnGen s t) (txnSeq s t) 1) s
  let s := modTxn p (fun x => { x with stored := x.stored + 1 }) s
  match t.work with
  | .item i =>
    let s := modItem i (fun y => { y with visit := y.visit + 1 }) s
    match item? s i with
    | some x =>
      if itemCtrl x && x.stage = 2 then
        if payload.isEmpty then modTxn p (fun x => { x with final := true }) s
        else modTxn p (fun x => { x with final := true }) (decideItem i stOverrun s)
      else
        let left := itemLen x - x.moved
        let s := storeIn i x.moved (payload.take left) s
        if left < payload.length then decideItem i stOverrun s
        else if payload.length = left || payload.length < (txnCtx s t).mps.toNat then
          modTxn p (fun x => { x with final := true }) s
        else s
    | none => s
  | _ => modTxn p (fun x => { x with final := true }) s

/-- Position of a received packet within its service, counted from the sequence that the burst begins with (R72). On N1
to N3 each transaction is judged alone against the one sequence bit. -/
def packetPos (s : State) (r : Nat) (t : Txn) (q : BitVec 5) : Option Nat :=
  let ps := pstate s r
  let n := match rungOf s r with | some g => g.packets | none => 0
  let g := txnGen s t
  if serdes g then
    let base := ps.tokens - t.count
    let k := base + seqDist g (seqAdd g ps.first base) q
    if k < n then some k else none
  else
    let k := ps.tokens - 1
    if q == seqAdd g ps.first k then some k else none

/-- What a good DATA packet does to a periodic service (R72, R280): a duplicate of what the service has received is
discarded; the packet at position k fills the bytes from k × MPS; behind one that lies outside the service, the next
sequence is expected. -/
def storePer (p r : Nat) (t : Txn) (q : BitVec 5) (payload : List Byte) (s : State) : State :=
  let g := txnGen s t
  let ps := pstate s r
  if serdes g && 0 < ps.good && isDup g ps.seq q then s
  else match packetPos s r t q with
  | none => setTxnSeq t (seqAdd g q 1) (modPstate r (fun x => { x with lost := true }) s)
  | some k =>
    let m := (txnCtx s t).mps.toNat
    let short := decide (payload.length < m)
    let s := modPstate r (fun x => { x with
      good := x.good + 1, lost := x.lost || k != (if serdes g then x.good else k), short := short }) s
    let s := setTxnSeq t (seqAdd g q 1) s
    let s := modTxn p (fun x => { x with stored := x.stored + 1, final := short }) s
    if ps.late then s
    else
      match boundItem s r with
      | none => s
      | some i =>
        match item? s i with
        | none => s
        | some x =>
          let room := itemLen x - k * m
          let s := storeIn i (k * m) (payload.take room) s
          if room < payload.length then decideItem i stOverrun s else s

/-- A good DATA packet of an event attempt, in sequence (R73, R280). -/
def storeEvt (p r : Nat) (t : Txn) (payload : List Byte) (s : State) : State :=
  let s := setTxnSeq t (seqAdd (txnGen s t) (txnSeq s t) 1) s
  let s := modTxn p (fun x => { x with stored := x.stored + 1, final := true }) s
  match boundItem s r with
  | none => s
  | some i =>
    match item? s i with
    | none => s
    | some x =>
      let s := storeIn i 0 (payload.take (itemLen x)) s
      if itemLen x < payload.length then decideItem i stOverrun s
      else decideItem i (if payload.length < itemLen x then stShort else stSuccess) s

/-! ### Ends of transactions -/

/-- A periodic service has had its last transaction: its entry's status (R72, R86, R107). -/
def perService (r : Nat) (t : Txn) (s : State) : State :=
  match boundItem s r with
  | none => s
  | some i =>
    match item? s i with
    | none => s
    | some x =>
      let ps := pstate s r
      let n := servicePackets x (txnCtx s t).mps.toNat
      if ps.late then decideItem i stMissed s
      else if ps.lost then (if ps.short || n ≤ ps.tokens then decideItem i stMissed s else s)
      else if ps.short then decideItem i (if x.moved < itemLen x then stShort else stSuccess) s
      else if n ≤ ps.good then decideItem i stSuccess s
      else if n ≤ ps.tokens then decideItem i stMissed s
      else s

/-- After the host's ACK of an IN burst, or at once where none is sent: the transfer goes on, moves to its next
stage, or completes (R64, R65, R68). -/
def inProgress (p : Nat) (t : Txn) (s : State) : State :=
  match t.work with
  | .item i =>
    match item? s i with
    | some x =>
      if x.status.isSome then
        (if itemCtrl x && x.stage = 2 && x.status == some stOverrun && suClearHalt (itemSetup i x) then
          clearHalt t.num (suArg1 (itemSetup i x) % 16) (suArg1 (itemSetup i x) / 128 % 2 == 1) s else s)
      else if !t.final then s
      else if itemCtrl x then (if x.stage = 2 then ctrlDone i x t s else nextStage i 2 s)
      else decideItem i (if x.moved < itemLen x then stShort else stSuccess) s
    | none => s
  | _ => (fun _ => s) p

/-- The split of a work item is over: the next transaction is a new SPLIT-START (R107). -/
def splitOver (t : Txn) (s : State) : State :=
  match t.work with
  | .item i => modItem i (fun x => { x with doneAt := none, nyet := false }) s
  | _ => s

/-- The transaction on a port ends without an ACK: a packet beyond its burst is babble still (R75). -/
def keepEnded (p : Nat) (s : State) : State := modPort p (fun x => { x with ended := x.txn }) s

/-- An IN burst has ended (R63, R65, R72, R73, R106): of a periodic service, which is not acknowledged, the status is
judged; elsewhere ACK falls due if something was stored or a good duplicate came, and otherwise one error is counted and
the device reaches its own timeout. `code` is the result where nothing was stored. -/
def endBurst (p : Nat) (code : Nat) (s : State) : State :=
  match (port s p).txn with
  | none => s
  | some t =>
    match isPeriodic s t.work, t.work with
    | true, .service r =>
      let s := modPstate r (fun x => { x with
        lost := x.lost || t.bad || (!t.final && decide (t.stored < t.count)) }) s
      let s := perService r t (keepEnded p s)
      goOn p t (if t.stored = 0 then code else 5) t.stored s
    | _, _ =>
      if 0 < t.stored || t.dup then
        let s := if 0 < t.stored then setErrs t 0 s else countErr t s
        let s := if t.kind == .splitDone then splitOver t s else s
        let s := modTxn p (fun x => { x with ackDue := true, waiting := false }) s
        report p t.engine 5 t.stored (txnSeq s t).toNat s
      else goOn p t code 0 (countErr t (keepEnded p s))

/-- SHS and the end of the transaction that it acknowledges (R63). -/
def sendAck (p : Nat) (t : Txn) (s : State) : State :=
  let c := txnCtx s t
  let a := match t.kind, c.tt with
    | .splitDone, some x => x.addr
    | _, _ => c.waddr
  let s := send p .ack { Hdr0 with
    addr := BitVec.ofNat 7 a, dir := t.dirIn, ep := BitVec.ofNat 4 t.ep, seq := txnSeq s t } [] s
  endTxn p (inProgress p t s)

/-! ### Errors of a transaction -/

/-- The service falls short at this transaction (R72). -/
def perLost (r : Nat) (t : Txn) (s : State) : State :=
  perService r t (modPstate r (fun x => { x with lost := true }) s)

/-- A transaction of a service without retries has failed: an IN service falls short, a periodic OUT completes MISSED
(R72, R86). -/
def perFailed (r : Nat) (t : Txn) (s : State) : State :=
  if t.kind == .perOut || t.kind == .splitStart then decide_ t stMissed s else perLost r t s



/-- An attempt without progress: timeout, discarded handshake, ACK outside its window, or ERR (R65, R66, R69,
R73). A SPLIT-DONE that brought no answer may be sent again. -/
def failedTry (p : Nat) (code b14 : Nat) (s : State) : State :=
  match (port s p).txn with
  | none => s
  | some t =>
    let s := match isPeriodic s t.work, t.work with
      | true, .service r => perFailed r t s
      | _, _ => countErr t s
    let s := if t.kind == .splitDone && (code = 3 || code = 4) then splitOver t s else s
    goOn p t code b14 s

/-- Babble on the transaction in progress (R75): it completes BABBLE. -/
def babble (p : Nat) (s : State) : State :=
  match (port s p).txn with
  | none => s
  | some t =>
    let s := modPort p (fun x => { x with babbles := if x.babbles = 0xFFFF then x.babbles else x.babbles + 1 }) s
    conclude p t stBabble 7 0 s

/-- A packet beyond a burst that has ended without an ACK: babble, unless the completion has been posted (R75). -/
def lateBabble (p : Nat) (t : Txn) (s : State) : State :=
  let s := modPort p (fun x => { x with
    ended := none, babbles := if x.babbles = 0xFFFF then x.babbles else x.babbles + 1 }) s
  match (openItems s t.work).getLast? with
  | some i => overrideItem i stBabble s
  | none => s

/-- A late answer has ended: the line is free again, and the lane goes on (R88). -/
def lineQuiet (p : Nat) (s : State) : State :=
  if (port s p).driven then runLane p (modPort p (fun x => { x with driven := false }) s) else s

/-- A packet was discarded or failed its check (R52, R63). -/
def countCheck (p : Nat) (s : State) : State :=
  modPort p (fun x => { x with check := if x.check = 0xFFFF then x.check else x.check + 1 }) s

/-- A bad packet in the answer of a transaction: an IN burst stores nothing further; where the burst cannot go on,
it ends. -/
def badPacket (p : Nat) (last : Bool) (s : State) : State :=
  match (port s p).txn with
  | none => lineQuiet p s
  | some t =>
    if t.ackDue || !t.waiting then s
    else if t.dirIn && t.kind != .splitStart then
      let s := modTxn p (fun x => { x with bad := true, receiving := true, sent := x.sent + 1 }) s
      if !serdes (port s p).gen || last || t.count ≤ t.sent + 1 then endBurst p 7 s else s
    else failedTry p 7 0 s

/-- The recovery of a link or the reset of a lane ends the transaction in progress with a timeout error (R86). -/
def lineFails (p : Nat) (s : State) : State :=
  match (port s p).txn with
  | none => s
  | some t =>
    if t.ackDue then endTxn p (inProgress p t s)
    else if 0 < t.stored && t.dirIn && !isPeriodic s t.work then
      endTxn p (inProgress p t (report p t.engine 6 0 0 s))
    else failedTry p 6 0 s

/-! ### Received packets -/

/-- The transaction of a port that awaits this packet, if the packet is of its device and endpoint. -/
def awaiting (s : State) (p : Nat) : Option Txn :=
  (port s p).txn.bind fun t => if t.waiting && !t.ackDue then some t else none

/-- A good DATA packet, by the kind of its work. -/
def goodData (p : Nat) (t : Txn) (h : Hdr) (payload : List Byte) (s : State) : State :=
  let g := txnGen s t
  let e := txnSeq s t
  match isPeriodic s t.work, t.work with
  | true, .service r => storePer p r t h.seq payload s
  | _, w =>
    if h.seq == e then (match w with | .service r => storeEvt p r t payload s | _ => storeBulk p t payload s)
    else if isDup g e h.seq then modTxn p (fun x => { x with dup := true }) s
    else modTxn p (fun x => { x with bad := true }) s

/-- The packet bears the address, direction and endpoint of the transaction; a split's comes from the hub. DESIGN CHOICE: a
packet of another address, endpoint or direction, for which the manual gives no rule, is counted and handled as a discarded
one (log 99). -/
def fromPartner (s : State) (t : Txn) (h : Hdr) : Bool :=
  let c := txnCtx s t
  let a := match t.kind, c.tt with
    | .splitStart, some x | .splitDone, some x => x.addr
    | _, _ => c.waddr
  h.addr.toNat == a && h.ep.toNat == t.ep && h.dir == t.dirIn

/-- DATA_PACKET (R63, R72, R75): checked, stored or discarded. -/
def dataPacket (p : Nat) (h : Hdr) (payload : List Byte) (crc : U32) (overrun : Bool) (s : State) : State :=
  match (port s p).txn with
  | none =>
    let s := match (port s p).ended with
      | some t => if decide (t.count ≤ t.sent) && fromPartner s t h then lateBabble p t s else s
      | none => s
    lineQuiet p s
  | some t =>
    let inKind := match t.kind with
      | .bulkIn | .perIn | .evtIn | .poll | .splitDone => true
      | _ => false
    if !inKind then s
    else if t.ackDue then babble p s
    else if !t.waiting then s
    else
      let g := (port s p).gen
      if (txnCtx s t).mps.toNat < h.len.toNat || overrun || t.count ≤ t.sent then babble p s
      else if payload.length != h.len.toNat || payloadCrc g payload != crc.toNat || !fromPartner s t h then
        badPacket p h.last (countCheck p s)
      else
        let wasBad := t.bad
        let s := modTxn p (fun x => { x with sent := x.sent + 1, receiving := true }) s
        let s := if wasBad && !isPeriodic s t.work then s else goodData p t h payload s
        match (port s p).txn with
        | none => s
        | some u =>
          let tooMuch := match workItem s u.work with
            | some i => (match item? s i with | some x => x.status == some stOverrun | none => false)
            | none => false
          if !serdes g || h.last || u.count ≤ u.sent || u.final || tooMuch then endBurst p 7 s else s

/-- A handshake in place of DATA or after a burst of OUT packets. -/
def handshake (p : Nat) (h : Hdr) (f : Txn → State → State) (s : State) : State :=
  match awaiting s p with
  | none => lineQuiet p s
  | some t => if fromPartner s t h then f t s else badPacket p true (countCheck p s)

/-- Bytes that the first `n` packets of an OUT burst carried. -/
def outBytes (s : State) (t : Txn) (x : Item) (n : Nat) : Nat :=
  min (n * (txnCtx s t).mps.toNat) (itemLen x - x.moved)

/-- An ACK that moves an OUT transfer on by `n` packets (R66, R68). -/
def outProgress (t : Txn) (i n : Nat) (x : Item) (q : BitVec 5) (s : State) : State :=
  let s := setErrs t 0 (setTxnSeq t q s)
  if itemCtrl x && x.stage = 2 then ctrlDone i x t s
  else
    let b := outBytes s t x n
    let s := modItem i (fun y => { y with moved := y.moved + b, visit := y.visit + n }) s
    if x.moved + b < itemLen x then s
    else if itemCtrl x then nextStage i 2 s
    else decideItem i stSuccess s

/-- ACK (R66, R68, R73, R105, R106): B13 takes its sequence. One outside the window s to s + n is a discarded handshake.
DESIGN CHOICE: the SEQ of the ACK that answers a SETUP, for which the manual gives no rule, is not looked at (log 100). -/
def ackPacket (p : Nat) (h : Hdr) (s : State) : State :=
  handshake p h (fun t s =>
    let g := txnGen s t
    let d := seqDist g t.seq0 h.seq
    let ok := goOnSeq p t 0 0 h.seq.toNat
    match t.kind, t.work with
    | .setup, .item i =>
      (match item? s i with
        | some x => ok (setupDone i x t s)
        | none => ok s)
    | .splitStart, .service r =>
      ok (modPstate r (fun x => { x with followOn := x.followOn ++ [absUframe s + 2 * splitUnit g] }) s)
    | .splitStart, .item i => ok (modItem i (fun x => { x with doneAt := some (unitAhead s g 2) }) s)
    | .splitStart, .none_ => ok s
    | .bulkOut, .none_ => ok (if 1 ≤ d && d ≤ t.sent then setTxnSeq t h.seq s else s)
    | .bulkOut, .item i =>
      if 1 ≤ d && d ≤ t.sent then
        (match item? s i with
          | some x => ok (outProgress t i d x h.seq s)
          | none => ok s)
      else failedTry p (if d = 0 then 0 else 7) 0 s
    | .evtOut, .service r =>
      if d = 1 then
        let s := setTxnSeq t h.seq s
        match boundItem s r with
        | some i => ok (decideItem i stSuccess (modItem i (fun x => { x with moved := itemLen x }) s))
        | none => ok s
      else failedTry p (if d = 0 then 0 else 7) 0 s
    | .splitDone, .item i =>
      (match item? s i with
        | some x =>
          if itemCtrl x && x.stage = 0 then ok (setupDone i x t (splitOver t s))
          else if t.dirIn then failedTry p 7 0 s
          else ok (outProgress t i 1 x (seqAdd g t.seq0 1) (splitOver t s))
        | none => ok s)
    | .splitDone, .service r =>
      if t.dirIn then failedTry p 7 0 s
      else
        let s := setTxnSeq t (seqAdd g t.seq0 1) s
        (match boundItem s r with
        | some i => ok (decideItem i stSuccess (modItem i (fun x => { x with moved := itemLen x }) s))
        | none => ok s)
    | _, _ => failedTry p 7 0 s) s

/-- The transaction is the setup stage of a control transfer, or its split. -/
def isSetup (s : State) (t : Txn) : Bool :=
  t.kind == .setup || (match t.kind, t.work with
    | .splitDone, .item i => (match item? s i with | some x => itemCtrl x && x.stage == 0 | none => false)
    | _, _ => false)

/-- NAK (R65 to R69, R72, R73): an event entry stays bound and is served at the next reservation; a transfer ends its
visit without progress (R207); the poll of a hub ends (R100). -/
def nakPacket (p : Nat) (h : Hdr) (s : State) : State :=
  handshake p h (fun t s =>
    if isSetup s t || t.kind == .splitStart then failedTry p 7 0 s
    else
      match isPeriodic s t.work, t.work with
      | true, .service r => goOn p t 1 0 (perLost r t s)
      | _, .service r =>
        (match boundItem s r with
          | some i => goOn p t 1 0 (rebindEvent i r s)
          | none => goOn p t 1 0 s)
      | _, .item i =>
        if t.kind == .poll then goOn p t 1 0 (decideItem i stSuccess s)
        else goOn p t 1 0 (modItem i (fun x => { x with visitOver := true }) (splitOver t (setErrs t 0 s)))
      | _, .none_ => goOn p t 1 0 (setErrs t 0 s)) s

/-- STALL (R68, R69, R72, R78). -/
def stallPacket (p : Nat) (h : Hdr) (s : State) : State :=
  handshake p h (fun t s =>
    if isSetup s t || t.kind == .splitStart then failedTry p 7 0 s
    else
      let s := splitOver t (decide_ t stStall s)
      goOn p t 2 0 (markHalted t.num t.ep t.dirIn s)) s

/-- NYET (R107): the done is issued again in the next unit; a second NYET counts one error, or completes a
periodic service MISSED. -/
def nyetPacket (p : Nat) (h : Hdr) (s : State) : State :=
  handshake p h (fun t s =>
    if t.kind != .splitDone then failedTry p 7 0 s
    else
      match workItem s t.work with
      | some i =>
        let again := match item? s i with | some x => x.nyet | none => false
        if again then
          let s := modItem i (fun x => { x with nyet := false }) s
          if isPeriodic s t.work then goOn p t 3 0 (decide_ t stMissed s) else failedTry p 3 0 s
        else
          (match t.work with
            | .service r => goOn p t 3 0 (modPstate r (fun x => { x with
                followOn := x.followOn ++ [absUframe s + splitUnit (txnGen s t)] })
                (modItem i (fun x => { x with nyet := true }) s))
            | _ => goOn p t 3 0 (modItem i (fun x => { x with
                nyet := true, doneAt := some (unitAhead s (txnGen s t) 1) }) s))
      | none => goOn p t 3 0 s) s

/-- ERR (R67, R72, R76, R109). Codes that are never sent count as a discarded packet. -/
def errPacket (p : Nat) (h : Hdr) (s : State) : State :=
  handshake p h (fun t s =>
    let c := h.tspec.toNat
    if c = 0 || 7 ≤ c then badPacket p true (countCheck p s)
    else if c = 5 then goOn p t 4 c (decide_ t stBabble s)
    else if isPeriodic s t.work then
      (match t.work with | .service r => goOn p t 4 c (perLost r t s) | _ => s)
    else if c = 1 then goOn p t 4 c (decide_ t stXactErr s)
    else if t.dirIn && 0 < t.stored then endBurst p 4 s
    else failedTry p 4 c s) s

/-! ### Commands -/

/-- A port lane receives packets: the part drives the bus, the port is enabled, and its transceiver is not
high-impedance (R20). -/
def laneUp (s : State) (p : Nat) : Bool := serves s && (port s p).enabled && !highZ s p

/-- A thread waits for an answer on a port that it holds. -/
def lineWaited (s : State) (p : Nat) : Bool :=
  let waits := fun (t : Thread) => match t.wait with | .whs _ _ | .rdat _ _ => true | _ => false
  match (port s p).heldBy with
  | some e =>
    (match tfind (eng s e).parked p with | some k => waits k.thread | none => false)
      || (match (eng s e).run with | some t => t.holds.contains p && waits t | none => false)
  | none => false

/-- DATA_PACKET (R63). -/
def execDataPacket (p : PortId) (h : Hdr) (payload : List Byte) (crc : U32) (overrun : Bool) (s : State) :
    Host.Outcome State Fault Refusal := guarded (laneUp s p.val) s (dataPacket p.val h payload crc overrun)

/-- ACK (R66). -/
def execAck (p : PortId) (h : Hdr) (s : State) : Host.Outcome State Fault Refusal :=
  guarded (laneUp s p.val) s (ackPacket p.val h)

/-- NAK (R65). -/
def execNak (p : PortId) (h : Hdr) (s : State) : Host.Outcome State Fault Refusal :=
  guarded (laneUp s p.val) s (nakPacket p.val h)

/-- STALL (R78). -/
def execStall (p : PortId) (h : Hdr) (s : State) : Host.Outcome State Fault Refusal :=
  guarded (laneUp s p.val) s (stallPacket p.val h)

/-- NYET (R107): N4 and N5 only (R50, R52). -/
def execNyet (p : PortId) (h : Hdr) (s : State) : Host.Outcome State Fault Refusal :=
  guarded (laneUp s p.val) s fun s =>
    if serdes (port s p.val).gen then nyetPacket p.val h s else badPacket p.val true (countCheck p.val s)

/-- ERR (R76). -/
def execErr (p : PortId) (h : Hdr) (s : State) : Host.Outcome State Fault Refusal :=
  guarded (laneUp s p.val) s (errPacket p.val h)

/-- DISCARDED_PACKET (R52). -/
def execDiscardedPacket (p : PortId) (s : State) : Host.Outcome State Fault Refusal :=
  guarded (laneUp s p.val) s fun s => badPacket p.val false (countCheck p.val s)

/-- RESPONSE_TIMEOUT (R58): no answer has started. A wait for which nothing is on the line ends so too (R240). `driven`
says that an answer, too late, is on the legacy pair: the lane waits until it ends (R88; log 101). -/
def execResponseTimeout (p : PortId) (driven : Bool) (s : State) : Host.Outcome State Fault Refusal :=
  guarded (laneUp s p.val) s fun s =>
    let late := driven && !serdes (port s p.val).gen
    match (port s p.val).txn, awaiting s p.val with
    | _, some t =>
      if t.receiving then s
      else failedTry p.val 6 0 (modPort p.val (fun x => { x with
        driven := late, timeouts := if x.timeouts = 0xFFFF then x.timeouts else x.timeouts + 1 }) s)
    | none, none => if lineWaited s p.val then report p.val (port s p.val).heldBy 6 0 0 s else s
    | _, _ => s

/-- BURST_GAP_EXPIRY (R62, R63): on N4 and N5 the burst ends after the last packet received. -/
def execBurstGapExpiry (p : PortId) (s : State) : Host.Outcome State Fault Refusal :=
  guarded (laneUp s p.val && serdes (port s p.val).gen) s fun s =>
    match awaiting s p.val with
    | some t => if t.receiving && t.dirIn then endBurst p.val 7 s else s
    | none => s

/-- CONTROL_TIME_LIMIT (R70): XACT_ERR at once, or at the end of the transaction on the wire unless that completes
the status stage. -/
def execControlTimeLimit (item : Nat) (s : State) : Host.Outcome State Fault Refusal :=
  guarded (live s) s fun s =>
    match item? s item with
    | some x => if itemCtrl x && x.begun && x.status.isNone then stopItem stXactErr item s else s
    | none => s

/-- SOF, with µSOF 0 behind it on N3 to N5 (R80). -/
def sendSof (p : Nat) (s : State) : State :=
  let n := BitVec.ofNat 11 s.tb.epoch.toNat
  let s := send p .sof { Hdr0 with len := n } [] s
  if 2 ≤ genCode (port s p).gen then send p .usof { Hdr0 with len := n } [] s else s

/-- A port sends SOF: enabled, its transceiver driven, neither suspended nor in reset, and on N4 or N5 with its link
ACTIVE (R20, R80). -/
def sofPort (s : State) (p : Nat) : Bool :=
  let x := port s p
  x.enabled && !highZ s p && !x.suspended && !x.resetting && (!serdes x.gen || x.link == .active)

/-- SOF_DEFERRED_SEND (R82): the line has been idle for 2 bit times; a port suspended meanwhile sends none (R129). -/
def execSofDeferredSend (p : PortId) (s : State) : Host.Outcome State Fault Refusal :=
  guarded (laneUp s p.val && (port s p.val).sofHold) s fun s =>
    let s := modPort p.val (fun x => { x with sofHold := false, driven := false }) s
    let s := if !sofPort s p.val then s
      else if s.tb.uframe = 0 then sendSof p.val s
      else send p.val .usof { Hdr0 with
        len := BitVec.ofNat 11 s.tb.epoch.toNat, tspec := BitVec.ofNat 8 s.tb.uframe } [] s
    runLane p.val s

/-- SOF_HOLD_LIMIT (R82): the line is still driven, and the port is disabled for babble. -/
def execSofHoldLimit (p : PortId) (s : State) : Host.Outcome State Fault Refusal :=
  guarded (laneUp s p.val && (port s p.val).sofHold && !serdes (port s p.val).gen) s (babbleDisable p.val)

end Sys2Proof.Machine
end

