-- ==== Sys2Proof/Machine/Link.lean ====
section
/-! DEFINITION. N4 and N5 links: training, recovery, low power and the LINK commands (R83 to R88), and the
disconnects that a root port finds on its line (R134). -/

namespace Sys2Proof.Machine

def cmdTrainCap : Nat := 0x10
def cmdTrainDone : Nat := 0x11
def cmdLpEnter : Nat := 0x20
def cmdLpAccept : Nat := 0x21
def cmdLpReject : Nat := 0x22
def cmdWake : Nat := 0x30
def cmdWakeAck : Nat := 0x31

/-- The parameter of the part's own TRAIN_CAP: N5 capable as GEN_MAX allows, and low-power capable (R83, R123). -/
def capParam (x : Port) : Nat := ofBool (4 ≤ x.genUse) + 2

/-- The parameter with which a command is sent. -/
def cmdParam (x : Port) (code : Nat) : Nat := if code = cmdTrainCap then capParam x else 0

/-- Sends a command that expects a reply (R83). -/
def sendCmd (p code : Nat) (s : State) : State :=
  sendLink p code (cmdParam (port s p) code) (modPort p (fun x => { x with cmdWait := some (code, 1) }) s)

/-- A reply to the command that waits has come. -/
def replied (p code : Nat) (s : State) : State :=
  modPort p (fun x => { x with cmdWait := match x.cmdWait with
    | some (c, n) => if c = code then none else some (c, n)
    | none => none }) s

/-- The link enters RECOVERY: transactions in progress end with a timeout error (R84, R86). -/
def linkRecovery (p : Nat) (s : State) : State :=
  let s := lineFails p s
  emit (.line p .trainingSets) (modPort p (fun x => { x with
    link := .recovery, cmdWait := none, recoveries := if x.recoveries = 255 then 255 else x.recoveries + 1 }) s)

/-- The link is ACTIVE: a port that was training is enabled and goes on to reset recovery (R84, R113, R115). -/
def linkActive (p : Nat) (s : State) : State :=
  let s := modPort p (fun x => { x with
    link := .active, trainings := 0, cmdWait := none, capGot := false, doneSent := false,
    doneGot := false }) s
  if (port s p).enabled then s
  else if h : p < 64 then enterRecovery (.root ⟨p, h⟩) (if (port s p).rateN5 then .n5 else .n4) s
  else s

/-- CONFIG ends once both ends have sent and received TRAIN_DONE (R84). -/
def configDone (p : Nat) (s : State) : State :=
  if (port s p).doneSent && (port s p).doneGot then linkActive p s else s

/-- Both ends have exchanged TRAIN_CAP: to the N5 rate once, or on to TRAIN_DONE (R85). -/
def capsDone (p : Nat) (s : State) : State :=
  let x := port s p
  if x.partnerN5 && 4 ≤ x.genUse && !x.rateN5 then
    emit (.line p .trainingSets) (modPort p (fun x => { x with
      rateN5 := true, link := .polling, capGot := false, cmdWait := none }) s)
  else configDone p (sendCmd p cmdTrainDone (modPort p (fun x => { x with doneSent := true }) s))

/-- TRAIN_CAP (R83, R85). One that is repeated in CONFIG is replied to again. -/
def execTrainCap (p : PortId) (param : BitVec 11) (s : State) : Host.Outcome State Fault Refusal :=
  guarded (serves s && (port s p.val).link == .config) s fun s =>
    if (port s p.val).capGot then sendLink p.val cmdTrainCap (capParam (port s p.val)) s
    else
      capsDone p.val (replied p.val cmdTrainCap
        (modPort p.val (fun x => { x with capGot := true, partnerN5 := bit param 0 }) s))

/-- TRAIN_DONE (R83, R84). One that is repeated once the link is ACTIVE is replied to again. -/
def execTrainDone (p : PortId) (s : State) : Host.Outcome State Fault Refusal :=
  guarded (serves s && ((port s p.val).link == .config || (port s p.val).link == .active)) s fun s =>
    if (port s p.val).link == .active then sendLink p.val cmdTrainDone 0 s
    else configDone p.val (replied p.val cmdTrainDone (modPort p.val (fun x => { x with doneGot := true }) s))

/-- LP_ENTER (R83, R87): rejected with a remote wake pending or a transaction in progress. -/
def execLpEnter (p : PortId) (s : State) : Host.Outcome State Fault Refusal :=
  guarded (serves s && (port s p.val).link == .active) s fun s =>
    if (port s p.val).txn.isSome || (port s p.val).wakeAt.isSome then sendLink p.val cmdLpReject 0 s
    else emit (.line p.val .idle)
      (modPort p.val (fun x => { x with link := .lowpower }) (sendLink p.val cmdLpAccept 0 s))

/-- LP_ACCEPT (R87): both ends go to electrical idle. -/
def execLpAccept (p : PortId) (s : State) : Host.Outcome State Fault Refusal :=
  guarded (serves s && (port s p.val).cmdWait.any (·.1 == cmdLpEnter)) s fun s =>
    emit (.line p.val .idle) (modPort p.val (fun x => { x with link := .lowpower, cmdWait := none }) s)

/-- LP_REJECT (R87): the link stays ACTIVE. -/
def execLpReject (p : PortId) (s : State) : Host.Outcome State Fault Refusal :=
  guarded (serves s && (port s p.val).cmdWait.any (·.1 == cmdLpEnter)) s fun s =>
    modPort p.val (fun x => { x with cmdWait := none }) s

/-- WAKE (R83): answered WAKE_ACK. -/
def execWake (p : PortId) (s : State) : Host.Outcome State Fault Refusal :=
  guarded (serves s && (port s p.val).link == .active) s (sendLink p.val cmdWakeAck 0)

/-- WAKE_ACK (R83). -/
def execWakeAck (p : PortId) (s : State) : Host.Outcome State Fault Refusal :=
  guarded (serves s) s (replied p.val cmdWake)

/-- LINK_CMD_TIMEOUT (R83): sent again up to three times, then RECOVERY (log 44). -/
def execLinkCmdTimeout (p : PortId) (s : State) : Host.Outcome State Fault Refusal :=
  guarded (serves s) s fun s =>
    match (port s p.val).cmdWait with
    | none => s
    | some (code, n) =>
      if n < 4 then
        sendLink p.val code (cmdParam (port s p.val) code)
          (modPort p.val (fun x => { x with cmdWait := some (code, n + 1) }) s)
      else linkRecovery p.val s

/-- DETECT_PULSE (R84). -/
def execDetectPulse (p : PortId) (s : State) : Host.Outcome State Fault Refusal :=
  guarded (serves s && (port s p.val).link == .detect) s (emit (.line p.val .detectPulse))

/-- FAR_END_TERMINATION (R84, R110): a link in DETECT goes on to POLLING; on a port that is not attached it is
the SerDes part of the connect indication. -/
def execFarEndTermination (p : PortId) (s : State) : Host.Outcome State Fault Refusal :=
  guarded (serves s) s fun s =>
    let before := connectOf (port s p.val)
    let s := modPort p.val (fun x => { x with farEnd := true }) s
    let x := port s p.val
    if x.link == .detect then
      emit (.line p.val .trainingSets) (modPort p.val (fun x => { x with
        link := .polling, attach := if x.attach == .detect then .training else x.attach }) s)
    else if x.enabled || before == connectOf x then s
    else debounceRoot p.val s

/-- TRAINING_SET_LOCK (R84): POLLING ends in CONFIG, which sends TRAIN_CAP; RECOVERY ends in ACTIVE, and out of
LOWPOWER WAKE follows (R83). -/
def execTrainingSetLock (p : PortId) (s : State) : Host.Outcome State Fault Refusal :=
  guarded (serves s) s fun s =>
    let x := port s p.val
    if x.link == .polling then
      sendCmd p.val cmdTrainCap (modPort p.val (fun x => { x with
        link := .config, capGot := false, doneSent := false, doneGot := false }) s)
    else if x.link == .recovery then
      let s := linkActive p.val s
      if x.fromLowPower then sendCmd p.val cmdWake (modPort p.val (fun x => { x with fromLowPower := false }) s)
      else s
    else s

/-- RECOVERY_TIMEOUT (R84, R113): the link falls to DETECT. DESIGN CHOICE: it counts as one of the training failures of
R113 (log 102). -/
def execRecoveryTimeout (p : PortId) (s : State) : Host.Outcome State Fault Refusal :=
  guarded (serves s && (port s p.val).link == .recovery) s fun s =>
    trainingFailed p.val (modPort p.val (fun x => { x with farEnd := false }) s)

/-- LINK_ERROR_LIMIT (R86): the sixteen errors are counted, and the link enters RECOVERY (log 57). -/
def execLinkErrorLimit (p : PortId) (s : State) : Host.Outcome State Fault Refusal :=
  guarded (serves s && (port s p.val).link == .active) s fun s =>
    linkRecovery p.val (modPort p.val (fun x => { x with
      linkErrTotal := BitVec.ofNat 16 (min 0xFFFF (x.linkErrTotal.toNat + 16)) }) s)

/-- WAKE_TONE (R84). -/
def execWakeTone (p : PortId) (s : State) : Host.Outcome State Fault Refusal :=
  guarded (serves s && (port s p.val).link == .lowpower) s fun s =>
    linkRecovery p.val (modPort p.val (fun x => { x with fromLowPower := true }) s)

/-- SUSPEND_SILENCE_EXPIRY (R129): 3 ms of silence on a suspended N4 or N5 root port. -/
def execSuspendSilenceExpiry (p : PortId) (s : State) : Host.Outcome State Fault Refusal :=
  guarded (serves s && (port s p.val).silence && (port s p.val).suspended && (port s p.val).link == .active) s
    fun s => sendCmd p.val cmdLpEnter (modPort p.val (fun x => { x with silence := false }) s)

/-- LEGACY_BIAS_LOSS (R134): 2 ms without the connect bias on an enabled root port. -/
def execLegacyBiasLoss (p : PortId) (s : State) : Host.Outcome State Fault Refusal :=
  guarded (serves s && (port s p.val).enabled && !serdes (port s p.val).gen) s fun s =>
    disconnect (.root p) (modPort p.val (fun x => { x with bias := false }) s)

/-- LINK_DISCONNECT_TIMEOUT (R134): 2 ms in DETECT without far-end termination. -/
def execLinkDisconnectTimeout (p : PortId) (s : State) : Host.Outcome State Fault Refusal :=
  guarded (serves s && (port s p.val).enabled && serdes (port s p.val).gen && (port s p.val).link == .detect
      && !(port s p.val).farEnd) s
    (disconnect (.root p))

end Sys2Proof.Machine
end

