-- ==== Sys2Proof/Machine/Topo.lean ====
section
/-! DEFINITION. The report ring, the commands of `PORT[n].CTL`, the topology commands of the mailbox, and suspend,
resume and remote wake (R118, R119, R121 to R133, R135). -/

namespace Sys2Proof.Machine

/-! ### The report ring (R118, R119) -/

/-- The record of a RESET_DONE answers the commands that wait for it: a device reset by its handle, a port reset
by its place (R125). A device reset that has found another identity is answered with the attach record at its place
(log 95). -/
def answersReset (s : State) (r : Report) (w : TopoPending) : Bool :=
  match w.wait with
  | .reset l => r.port == locPort s l && r.path == locPath s l
      && (if w.changed then r.kind == 1 || r.kind == 4 else r.kind == 6 && r.tier == 0)
  | .device n => r.kind == 6 && r.tier != 0 && field r.handle 0 12 == n
  | _ => false

/-- The oldest waiting report is written into the ring, and what waited for it is answered. -/
def writeReport (r : Report) (rest : List Report) (s : State) : State :=
  let at_ := s.topo.base.toNat + 256 * (s.topo.prod.toNat % ringSize s)
  let s := hostWrite 0 at_ (reportBytes r) { s with topo := { s.topo with
    reports := rest, prod := s.topo.prod + 1
    waiting := s.topo.waiting.map fun w => { w with reports := w.reports - 1 } } }
  let i := freshIndex s
  let s := postOut (boxKey (.func 0)) ⟨BitVec.ofNat 64 at_, Config.noticeSeq i.1, 0x20⟩ i.2
  let s := if r.kind == 1 || r.kind == 4 then
      (if handleWord s (field r.handle 0 12) == r.handle then
        modDev (field r.handle 0 12) (fun d => { d with reported := true }) s else s)
    else s
  let s := answerTopo (answersReset s r) 0 s
  let s := answerTopo (fun w => w.reports == 0 && match w.wait with | .disable _ => true | _ => false) 0 s
  releaseHeld s

/-- REPORT_RECORD_WRITE (R118, R119, R514): with a base, room, and Bus Master Enable of PF0. -/
def execReportRecordWrite (s : State) : Host.Outcome State Fault Refusal :=
  guarded (live s && s.topo.base != 0 && (fn s 0).bme && decide (ringUsed s < ringSize s)) s fun s =>
    match s.topo.reports with
    | r :: rest => writeReport r rest s
    | [] => s

/-- Writes `GLB.TOPO_RING` (R119): CONS by the index rule, LOG2SIZE while nothing is unread. -/
def topoRingWrite (v : U32) (s : State) : State :=
  let old := s.topo.ring
  let prod := s.topo.prod
  let cons := BitVec.ofNat 16 (field old 0 16)
  let new := BitVec.ofNat 16 (field v 0 16)
  let consOk := decide ((prod - new).toNat ≤ ringSize s ∧ (prod - new).toNat ≤ (prod - cons).toNat)
  let sizeNew := field v 16 4
  let sizeOk := sizeNew == field old 16 4 || prod == cons
  let ring := setField (if consOk then setField old 0 16 new.toNat else old) 16 4
    (if sizeOk then sizeNew else field old 16 4)
  let s := { s with topo := { s.topo with ring := ring } }
  if consOk && sizeOk then s else raiseQ 0 3 s

/-- TOPO_RING_WRITE (R119). -/
def execTopoRingWrite (value : U32) (s : State) : Host.Outcome State Fault Refusal :=
  guarded (hostReaches s 0) s (topoRingWrite value)

/-- Writes `GLB.TOPO_BASE` (R119): only while nothing is unread. -/
def topoBaseWrite (v : U64) (s : State) : State :=
  if s.topo.prod.toNat = field s.topo.ring 0 16 then
    { s with topo := { s.topo with base := setField v 0 8 0 } }
  else raiseQ 0 3 s

/-- TOPO_BASE_WRITE (R119). -/
def execTopoBaseWrite (value : U64) (s : State) : Host.Outcome State Fault Refusal :=
  guarded (hostReaches s 0) s (topoBaseWrite value)

/-! ### What a command finds -/

/-- A root port is disabled, as the commands see it (R122, R124). -/
def portDown (x : Port) : Bool := !x.admin || x.held || !x.pg || x.attach == .refused

/-- The hub at a path below a root port. -/
def hubAt (s : State) (p : Nat) (path : List Nat) : Option Nat :=
  (s.topo.dev.find? fun e => e.2.isHub && e.2.port == p && e.2.path == path).map Prod.fst

/-- The place that a topology command names: a path of 0 names the root port, otherwise the last non-zero byte
names the hub port (R124). -/
def bodyLoc (s : State) (b : TopoBody) : Option Loc :=
  if h : b.port.toNat < 64 then
    let used := ((b.path.take 5).map BitVec.toNat).reverse.dropWhile (· == 0)
    match used with
    | [] => some (.root ⟨b.port.toNat, h⟩)
    | q :: above =>
      match hubAt s b.port.toNat above.reverse with
      | some n =>
        if k : n < 4096 ∧ q < 16 then
          let l : Loc := .hub ⟨n, k.1⟩ ⟨q, k.2⟩
          if locExists s l then some l else none
        else none
      | none => none
  else none

/-- Attach, reset or enumeration is in progress at or below a place (R130). -/
def enumBelow (s : State) (at_ : Loc) : Bool :=
  let going := fun a => [Attach.detect, .training, .signalling, .announce, .confirm, .recovery].contains a
  match at_ with
  | .root p => treeBusy s p.val || !(port s p.val).enumQueue.isEmpty
  | .hub h q =>
    let x := port s (locPort s at_)
    going (hubPort s h.val q.val).attach || x.enumQueue.any (under s at_)
      || (match x.enum with | some e => under s at_ e.loc | none => false)
      || (subtree s at_).any fun n => match dev? s n with
        | some d => d.hubPorts.any fun e => going e.2.attach
        | none => false

/-- A resume is in progress on a place. -/
def resumingAt (s : State) : Loc → Bool
  | .root p => (port s p.val).resumeAt.isSome
  | .hub h q => (hubPort s h.val q.val).resumeAt.isSome
def suspendedAt (s : State) : Loc → Bool
  | .root p => (port s p.val).suspended
  | .hub h q => (hubPort s h.val q.val).suspended
def enabledAt (s : State) : Loc → Bool
  | .root p => (port s p.val).enabled
  | .hub h q => (hubPort s h.val q.val).enabled

/-! ### Resets (R126 to R128) -/

/-- Keeps the completions that a reset at a place has aborted until its signalling ends (R135). -/
def parkAborts (at_ : Loc) (ids : List Nat) (s : State) : State :=
  each ids (fun i s => modItem i (fun x =>
    if x.status == some stPortReset || x.stopAs == some stPortReset then { x with parked := some at_ } else x) s) s

/-- The open items of a list of devices. -/
def itemsOf (s : State) (ds : List Nat) : List Nat :=
  itemsWhere s fun x => x.status.isNone && match x.posted with
    | some b => ds.contains (field b.handle 0 12)
    | none => eOpcode x.raw != 0 && ds.any fun n => eHandle x.raw == handleWord s n

/-- Resets, suspends and resumes that wait below a place, and resumes that wait at it, are abandoned by a reset
there (R125, R135). -/
def dropBelow (at_ : Loc) (s : State) : State :=
  answerTopo (fun w => match w.wait with
    | .disable _ => false
    | .resume l => under s at_ l
    | .reset l | .suspend l => l != at_ && under s at_ l
    | .device n => match dev? s n with | some d => under s at_ d.loc | none => true) 9 s

/-- A commanded reset of a root port or hub port: the tree below leaves with PORT_RESET_ABORT, and the reset
begins at the end of the transaction in progress (R126). -/
def portResetOp (at_ : Loc) (s : State) : State :=
  let ids := itemsOf s (subtree s at_)
  let s := parkAborts at_ ids (tearDown at_ stPortReset (dropBelow at_ s))
  match at_ with
  | .root p => startRootReset p.val (modPort p.val (fun x => { x with
      commanded := true, tries := 0, resumeAt := none, resumeEnded := false, resuming := false, wakeAt := none }) s)
  | .hub h q => queueHub at_ (modHubPort h.val q.val (fun x => { x with
      commanded := true, tries := 0, admin := true, held := false, enabled := false, attach := .idle, resumeAt := none,
      resumeEnded := false, wakeAt := none }) s)

/-- PORT_RESET (R122, R126). -/
def execPortReset (p : PortId) (s : State) : Host.Outcome State Fault Refusal :=
  guarded (hostReaches s 0 && !portDown (port s p.val)) s (portResetOp (.root p))

/-- PORT_DISABLE (R121). -/
def execPortDisable (p : PortId) (s : State) : Host.Outcome State Fault Refusal :=
  guarded (hostReaches s 0) s fun s => modPort p.val (fun x => { x with wantEnable := false }) (disablePort p.val s)

/-- `PORT[n].CTL.ENABLE` (R122, R234, R384). -/
def portEnableOp (p : PortId) (s : State) : State :=
  let x := port s p.val
  if (x.admin && !x.held && x.attach != .refused) || bit s.err.portFailed p.val || !s.front.ctxEn then s
  else debounceRoot p.val (modPort p.val (fun x => { x with
    admin := true, held := false, babbleDis := false, wantEnable := false, check := 0, timeouts := 0, babbles := 0,
    linkErrTotal := 0, attach := if x.attach == .refused then .idle else x.attach }) s)

/-- PORT_ENABLE (R122). -/
def execPortEnable (p : PortId) (s : State) : Host.Outcome State Fault Refusal :=
  guarded (hostReaches s 0) s (portEnableOp p)

/-! ### Suspend and resume (R129 to R133) -/

/-- The refusal of a suspend, 0 for none (R124, R130, R135). DESIGN CHOICE: a port that is not enabled is refused 0x0A, and
BUSY comes before RESERVATIONS_PRESENT (log 50). -/
def suspendRefusal (s : State) (at_ : Loc) : Nat :=
  if enumBelow s at_ || resumingAt s at_ then 2
  else if (subtree s at_).any (hasReservation s) then 3
  else if !enabledAt s at_ then 0xA
  else 0

/-- Suspends a place: a root port sends nothing more, and its 3 ms of silence begin; a hub port is told (R129). -/
def suspendOp (at_ : Loc) (s : State) : State :=
  match at_ with
  | .root p => modPort p.val (fun x => { x with suspended := true, silence := serdes x.gen, wakeAt := none, sofHold := false }) s
  | .hub h q => setFeature h.val 1 q.val (modHubPort h.val q.val (fun x => { x with
      suspended := true, wakeAt := none }) s)

/-- PORT_SUSPEND (R122, R129, R130). -/
def execPortSuspend (p : PortId) (s : State) : Host.Outcome State Fault Refusal :=
  guarded (hostReaches s 0 && !portDown (port s p.val) && (!(port s p.val).suspended || resumingAt s (.root p))) s fun s =>
    match suspendRefusal s (.root p) with
    | 0 => suspendOp (.root p) s
    | 0xA => s
    | _ => portEvent p.val 12 s

/-- The part drives its resume of 20 ms on a place: RESUME on a legacy pair, wake tone on N4 and N5; a hub drives
it when PORT_SUSPEND is cleared (R131, R132). -/
def beginResume (at_ : Loc) (byDevice coincident : Bool) (s : State) : State :=
  match at_ with
  | .root p =>
    let s := modPort p.val (fun x => { x with
      resuming := true, resumeAt := some (now s), resumeEnded := false, byDevice := byDevice,
      coincident := coincident, silence := false }) s
    if serdes (port s p.val).gen then emit (.line p.val .wakeTone) s
    else if highZ s p.val then s else emit (.line p.val .resume) s
  | .hub h q =>
    let s := modHubPort h.val q.val (fun x => { x with
      resumeAt := some (now s), resumeEnded := false, byDevice := byDevice, coincident := coincident }) s
    if byDevice then s else clearFeature h.val 1 q.val s

/-- Wake time and device-started resume of a place. -/
def wakeOf (s : State) : Loc → Option Nat × Bool
  | .root p => ((port s p.val).wakeAt, (port s p.val).byDevice)
  | .hub h q => ((hubPort s h.val q.val).wakeAt, (hubPort s h.val q.val).byDevice)

/-- The resume that runs on a place is a host resume, with a wake merged into it (R133). -/
def mergeWake (at_ : Loc) (s : State) : State :=
  match at_ with
  | .root p => modPort p.val (fun x => { x with byDevice := false, coincident := true, wakeAt := none }) s
  | .hub h q => modHubPort h.val q.val (fun x => { x with byDevice := false, coincident := true, wakeAt := none }) s

/-- Host resume of a suspended place (R131): a remote wake detected less than 1 ms before it is merged into it
(R133). -/
def resumeOp (at_ : Loc) (s : State) : State :=
  let w := wakeOf s at_
  let recent := match w.1 with | some t => decide (now s ≤ t + 400000) | none => false
  if resumingAt s at_ then (if w.2 && recent then mergeWake at_ s else s)
  else beginResume at_ false recent s

/-- PORT_RESUME (R122, R131). -/
def execPortResume (p : PortId) (s : State) : Host.Outcome State Fault Refusal :=
  guarded (hostReaches s 0 && !portDown (port s p.val) && (port s p.val).suspended
      && !resetAt s (.root p)) s (resumeOp (.root p))

/-- Remembers the moment of a wake. -/
def noteWake (at_ : Loc) (s : State) : State :=
  match at_ with
  | .root p => modPort p.val (fun x => { x with wakeAt := some (now s) }) s
  | .hub h q => modHubPort h.val q.val (fun x => { x with wakeAt := some (now s) }) s

/-- The 20 ms of a resume have passed on a place. -/
def resumeOver (s : State) : Loc → Bool
  | .root p => (port s p.val).resumeEnded
  | .hub h q => (hubPort s h.val q.val).resumeEnded

/-- REMOTE_WAKE_DETECT (R132, R133, R135): the part answers with its own resume; a wake inside a host resume is
merged into it; one after its end waits for a resume of its own. In a lower power state it is a wake cause, and counts as
detected at the return to Run (R450, R451); Watch looks for it in its samples (R448). -/
def execRemoteWakeDetect (at_ : Loc) (s : State) : Host.Outcome State Fault Refusal :=
  guarded (serves s && locExists s at_ && suspendedAt s at_ && !resetAt s at_) s fun s =>
    if s.pwr.st != .run then
      let s := if s.pwr.st == .watch then s else startWake 4 (locPort s at_) s
      { s with pwr := { s.pwr with wakes := if s.pwr.wakes.contains at_ then s.pwr.wakes else s.pwr.wakes ++ [at_] } }
    else if resumingAt s at_ then
      if resumeOver s at_ then noteWake at_ s
      else if (wakeOf s at_).2 then s
      else mergeWake at_ s
    else beginResume at_ true false (noteWake at_ s)

/-- HOST_RESUME_END (R131): an N4 or N5 link runs RECOVERY next. -/
def execHostResumeEnd (at_ : Loc) (s : State) : Host.Outcome State Fault Refusal :=
  guarded (serves s && locExists s at_ && resumingAt s at_ && !resumeOver s at_) s fun s =>
    match at_ with
    | .root p =>
      let s := modPort p.val (fun x => { x with resumeEnded := true, wakeAt := none }) s
      if (port s p.val).link == .lowpower || (port s p.val).link == .active then
        linkRecovery p.val (modPort p.val (fun x => { x with fromLowPower := true }) s)
      else s
    | .hub h q => modHubPort h.val q.val (fun x => { x with resumeEnded := true, wakeAt := none }) s

/-! ### Topology commands (R124, R125) -/

def codePortReset : Nat := 0x30
def codeDeviceReset : Nat := 0x31
def codePortSuspend : Nat := 0x32
def codePortResume : Nat := 0x33
def codePortDisable : Nat := 0x34
def codeBindSlot : Nat := 0x35

/-- Answers a topology command at once. -/
def topoAnswer (ctx : CmdCtx) (code : Nat) (b : TopoBody) (res : Nat) (s : State) : State :=
  reply ctx code (topoReply s res b.port b.handle false) s

/-- An accepted topology command waits for its action. -/
def topoWaits (ctx : CmdCtx) (code : Nat) (b : TopoBody) (w : TopoWait) (reports : Nat) (s : State) : State :=
  { s with topo := { s.topo with waiting := s.topo.waiting ++ [{
      ctx := ctx, code := code, port := b.port, handle := b.handle, wait := w, reports := reports }] } }

/-- A topology command that names a place: a VF may not send it, and the place must exist. DESIGN CHOICE: a suspend or a
resume of no existing port is answered 0x01 too (log 50). -/
def topoAt (ctx : CmdCtx) (code : Nat) (b : TopoBody) (f : Loc → State → State) (s : State) : State :=
  let s := begun ctx code s
  if sender ctx.chan != 0 then topoAnswer ctx code b 8 s
  else match bodyLoc s b with
    | none => topoAnswer ctx code b 1 s
    | some l => f l s

/-- TOPO_PORT_RESET. -/
def topoPortResetOp (ctx : CmdCtx) (b : TopoBody) : State → State :=
  topoAt ctx codePortReset b fun l s =>
    let down := match l with | .root p => portDown (port s p.val) | .hub _ _ => false
    if down then topoAnswer ctx codePortReset b 0xA s
    else portResetOp l (topoWaits ctx codePortReset b (.reset l) 0 s)

/-- TOPO_DEVICE_RESET (R126, R127): the device keeps its handle and its endpoint 0. -/
def topoDeviceResetOp (ctx : CmdCtx) (b : TopoBody) (s : State) : State :=
  let s := begun ctx codeDeviceReset s
  let n := field b.handle 0 12
  if sender ctx.chan != 0 then topoAnswer ctx codeDeviceReset b 8 s
  else if !handleCurrent s b.handle then topoAnswer ctx codeDeviceReset b 5 s
  else match dev? s n with
    | none => topoAnswer ctx codeDeviceReset b 5 s
    | some d =>
      if d.isHub then topoAnswer ctx codeDeviceReset b 4 s
      else
        let ids := itemsOf s [n]
        let s := answerTopo (fun w => match w.wait with | .resume l => l == d.loc | _ => false) 9 s
        let s := topoWaits ctx codeDeviceReset b (.device n) 0 s
        let s := parkAborts d.loc ids (endDevice n stPortReset s)
        let s := shutEps n (dropRes (fun r => field r.handle 0 12 == n) s)
        match d.loc with
        | .root p => startRootReset p.val s
        | .hub _ _ => queueHub d.loc s

/-- TOPO_PORT_SUSPEND (R130): done at once, or refused with SUSPEND_REFUSED. -/
def topoPortSuspendOp (ctx : CmdCtx) (b : TopoBody) : State → State :=
  topoAt ctx codePortSuspend b fun l s =>
    if suspendedAt s l && !resumingAt s l then topoAnswer ctx codePortSuspend b 0 s
    else
      match suspendRefusal s l with
      | 0 => topoAnswer ctx codePortSuspend b 0 (suspendOp l s)
      | c => topoAnswer ctx codePortSuspend b c (portEvent (locPort s l) 12 s)

/-- TOPO_PORT_RESUME (R131). -/
def topoPortResumeOp (ctx : CmdCtx) (b : TopoBody) : State → State :=
  topoAt ctx codePortResume b fun l s =>
    if !suspendedAt s l then topoAnswer ctx codePortResume b 6 s
    else if resetAt s l then topoAnswer ctx codePortResume b 9 s
    else resumeOp l (topoWaits ctx codePortResume b (.resume l) 0 s)

/-- Tears a place down with PORT_RESET_ABORT and holds it disabled. -/
def disableAt (l : Loc) (s : State) : State :=
  match l with
  | .root p => modPort p.val (fun x => { x with wantEnable := false }) (disablePort p.val s)
  | .hub h q => clearFeature h.val 0 q.val (modHubPort h.val q.val (fun x => { x with admin := false })
      (hubPortGone h.val q.val stPortReset s))

/-- TOPO_PORT_DISABLE: answered when the records of the teardown are written. -/
def topoPortDisableOp (ctx : CmdCtx) (b : TopoBody) : State → State :=
  topoAt ctx codePortDisable b fun l s =>
    let before := s.topo.reports.length
    let s := disableAt l s
    if s.topo.reports.length = before then topoAnswer ctx codePortDisable b 0 s
    else topoWaits ctx codePortDisable b (.disable l) s.topo.reports.length s

/-- TOPO_BIND_SLOT (R112): a debounce that runs stops while the slot has no power-good. DESIGN CHOICE: a slot of 64 or
above is answered 0x01, and a binding goes with its hub (log 50). -/
def topoBindSlotOp (ctx : CmdCtx) (b : TopoBody) (s : State) : State :=
  let s := begun ctx codeBindSlot s
  if sender ctx.chan != 0 then topoAnswer ctx codeBindSlot b 8 s
  else match bodyLoc s b with
    | some (.hub h q) =>
      let n := b.slot.toNat
      if 64 ≤ n then topoAnswer ctx codeBindSlot b 1 s
      else topoAnswer ctx codeBindSlot b 0 (modHubPort h.val q.val (fun x => { x with
        slot := some n
        attach := if x.attach == .debounce && !(port s n).pg then .idle else x.attach }) s)
    | _ => topoAnswer ctx codeBindSlot b 7 s

/-- TOPO_PORT_RESET (R124). -/
def execTopoPortReset (ctx : CmdCtx) (body : TopoBody) (s : State) : Host.Outcome State Fault Refusal :=
  guarded (serves s) s (topoPortResetOp ctx body)
/-- TOPO_DEVICE_RESET (R127). -/
def execTopoDeviceReset (ctx : CmdCtx) (body : TopoBody) (s : State) : Host.Outcome State Fault Refusal :=
  guarded (serves s) s (topoDeviceResetOp ctx body)
/-- TOPO_PORT_SUSPEND (R130). -/
def execTopoPortSuspend (ctx : CmdCtx) (body : TopoBody) (s : State) : Host.Outcome State Fault Refusal :=
  guarded (serves s) s (topoPortSuspendOp ctx body)
/-- TOPO_PORT_RESUME (R131). -/
def execTopoPortResume (ctx : CmdCtx) (body : TopoBody) (s : State) : Host.Outcome State Fault Refusal :=
  guarded (serves s) s (topoPortResumeOp ctx body)
/-- TOPO_PORT_DISABLE (R124). -/
def execTopoPortDisable (ctx : CmdCtx) (body : TopoBody) (s : State) : Host.Outcome State Fault Refusal :=
  guarded (serves s) s (topoPortDisableOp ctx body)
/-- TOPO_BIND_SLOT (R112). -/
def execTopoBindSlot (ctx : CmdCtx) (body : TopoBody) (s : State) : Host.Outcome State Fault Refusal :=
  guarded (serves s) s (topoBindSlotOp ctx body)

end Sys2Proof.Machine
end

