-- ==== Sys2Proof/Machine/Timebase.lean ====
section
/-! DEFINITION. The frame and microframe boundaries: frame length and mode, bank swap, SOF and µSOF, the end of
resumes, the switch of engines to their periodic threads, the doorbell sweep and the heartbeat (R26, R27, R41, R80,
R137 to R142, R195, R198, R199, R218, R309, R398, R446). A boundary command moves `TB.TICK` on to the boundary's own
instant where it has not reached it (log 58). -/

namespace Sys2Proof.Machine

/-! ### Frame length (R137, R138, R142 to R145) -/

/-- Length of a frame counted in the always-on domain (R446). -/
def alwaysOnLen : Nat := 402832

/-- The next length on the way from one to a target: at most 500 ppm, rounded down to a multiple of 8 (R138). -/
def slew (cur target : Nat) : Nat :=
  let lim := cur / 2000 / 8 * 8
  let t := bandLen target
  if cur < t then min t (cur + lim) else max t (cur - lim)

/-- The part is entering Deep sleep or Watch, or is in it: frames move to FREE at the always-on length (R446). -/
def toAlwaysOn (s : State) : Bool :=
  s.pwr.entering == some .deepSleep || s.pwr.entering == some .watch || s.pwr.st == .deepSleep || s.pwr.st == .watch

/-- MODE and AXSEL take effect (R142, R145). -/
def takeMode (s : State) : State :=
  let mode : BitVec 2 := if toAlwaysOn s then 0 else BitVec.ofNat 2 (field s.tb.ctl 0 2)
  let ax := field s.tb.ctl 2 2
  let old := s.tb
  let s := { s with tb := { s.tb with mode := mode, axsel := ax } }
  if mode = 0 then
    if old.lock == .free then s
    else
      let s := loseLock .free s
      { s with tb := { s.tb with clampLong := false } }
  else if old.lock == .free then
    lockEval ax false { s with tb := { s.tb with lock := .acquire, passes := 0, inBand := 0 } }
  else if old.axsel = ax then s
  else lockEval ax false (if old.lock == .locked then loseLock .acquire s
    else { s with tb := { s.tb with passes := 0, inBand := 0 } })

/-- The length that the axis-lock loop asks for (R144): T / M, trimmed to remove the phase error. With none to remove it
mixes the two multiples of 8 about T / M. The law of the trim and of the mix is a free value (log 20). -/
def loopLen (s : State) : Nat × State :=
  let i := freshIndex s
  let n := (axis s s.tb.axsel).period.toNat / s.tb.m
  (if s.tb.phaseErr = 0 then n / 8 * 8 + 8 * (Config.lockTarget i.1 n 0 % 2) else Config.lockTarget i.1 n s.tb.phaseErr,
    i.2)

/-- The length that the frame which begins aims at; a standby follows its active (R399). -/
def targetLen (s : State) : Nat × State :=
  if toAlwaysOn s then (alwaysOnLen, s)
  else if !isActive s then (s.pair.frameLen, s)
  else match s.tb.lock with
    | .free => (s.tb.freeLen, s)
    | .clamped => (if s.tb.clampLong then 424000 else 376000, s)
    | _ => loopLen s

/-- The epoch advances at the frame boundary (R139). -/
def countFrame (s : State) : State :=
  let stopped := s.pwr.st == .deepSleep || s.pwr.st == .watch
  let t := if stopped then now s + alwaysOnLen else max (now s) (s.tb.frameAt + s.tb.flen)
  { s with tb := { s.tb with
    tick := BitVec.ofNat 64 t, epoch := s.tb.epoch + 1, uframe := 0, frameAt := t, uframeAt := t } }

/-- A frame begins: the epoch advances, and the length moves towards its target. -/
def beginFrame (s : State) : State :=
  let s := takeMode (countFrame s)
  let n := targetLen s
  { n.2 with tb := { n.2.tb with flen := slew s.tb.flen n.1 } }

/-! ### SOF (R80, R82) -/

/-- A device is still sending, or its answer is still awaited, at a boundary (R81, R82; log 59); a late answer is such a
sender (R88). -/
def stillSending (x : Port) : Bool := match x.txn with | some t => t.waiting && !t.ackDue | none => x.driven

/-- SOF or µSOF falls due on a port: a device that is still sending babbles, and a legacy pair holds it (R82). -/
def boundarySof (u p : Nat) (s : State) : State :=
  if !sofPort s p then s
  else if u != 0 && genCode (port s p).gen < 2 then s
  else
    let still := stillSending (port s p)
    let s := if still then babble p s else s
    if still && !serdes (port s p).gen then modPort p (fun x => { x with sofHold := true }) s
    else if u = 0 then sendSof p s
    else send p .usof { Hdr0 with
      len := BitVec.ofNat 11 s.tb.epoch.toNat, tspec := BitVec.ofNat 8 u } [] s

/-! ### The end of resumes (R131 to R133) -/

/-- The event of a resume that has ended: RESUME_HOST with its coincident flag, or REMOTE_WAKE (R121, R133). -/
def resumeEvent (at_ : Loc) (byDevice coincident : Bool) (s : State) : State :=
  let p := locPort s at_
  let b := if byDevice then 4 else 3
  let s := raisePort p b (addReport { kind := 3, port := p, event := b + 1, path := locPath s at_
                                      flags := ofBool coincident } s)
  answerTopo (fun w => w.wait == .resume at_) 0 s

/-- The status-change endpoints whose reservations the entry to a lower power state released are admitted again
(R99, R445). -/
def admitHubs (p : Nat) (s : State) : State :=
  each (s.topo.dev.filter fun e => e.2.isHub && e.2.port == p && !e.2.polled && handleCurrent s (handleWord s e.1)
      && !(charged s).any fun r => r.2.handle == handleWord s e.1 && r.2.ep == 1) (fun e s =>
    match admitStatus e.1 s with
    | some t => t
    | none => startPolling e.1 e.2 s) s

/-- A place leaves suspend at the first boundary after its resume has ended; a wake that came after the end is
answered by a resume of its own (R133). -/
def endResume (at_ : Loc) (s : State) : State :=
  if !(resumingAt s at_ && resumeOver s at_) then s
  else
    let late := (wakeOf s at_).1.isSome
    match at_ with
    | .root p =>
      let x := port s p.val
      if serdes x.gen && x.link != .active then s
      else
        let s := modPort p.val (fun x => { x with
          suspended := false, resuming := false, resumeAt := none, resumeEnded := false, byDevice := false,
          coincident := false }) s
        let s := resumeEvent at_ x.byDevice x.coincident s
        if late then beginResume at_ true false (modPort p.val (fun x => { x with suspended := true }) s)
        else admitHubs p.val s
    | .hub h q =>
      let x := hubPort s h.val q.val
      let s := modHubPort h.val q.val (fun x => { x with
        suspended := false, resumeAt := none, resumeEnded := false, byDevice := false, coincident := false }) s
      let s := resumeEvent at_ x.byDevice x.coincident s
      if late then beginResume at_ true false (modHubPort h.val q.val (fun x => { x with suspended := true }) s) else s

/-- The places on which a resume runs: root ports, then hub ports. -/
def resumePlaces (s : State) : List Loc :=
  (s.topo.port.filterMap fun e =>
    if h : e.1 < 64 then (if e.2.resumeAt.isSome then some (Loc.root ⟨e.1, h⟩) else none) else none)
  ++ s.topo.dev.flatMap fun e => e.2.hubPorts.filterMap fun q =>
    if h : e.1 < 4096 ∧ q.1 < 16 then
      (if q.2.resumeAt.isSome then some (Loc.hub ⟨e.1, h.1⟩ ⟨q.1, h.2⟩) else none)
    else none

/-! ### The frame boundary -/

/-- Automatic PTM dialogues, while PTM Enable is set: every 2^(AUTO - 1)-th boundary, counted from epoch 0 (R166;
log 60). -/
def ptmAutoStart (s : State) : State :=
  let a := min 11 s.tb.ptmAuto.toNat
  if s.tb.ptmEn && a != 0 && s.tb.epoch.toNat % 2 ^ (a - 1) == 0 then { s with tb := { s.tb with ptmBusy := true } } else s

/-- The code of a pair state (R394). -/
def pairCode : PairSt → Nat
  | .single => 0 | .conflict => 1 | .discover => 2 | .sync => 3 | .standby => 4 | .stale => 5
  | .activeAlone => 6 | .active => 7 | .yielded => 8 | .failed => 9

/-- The code of a lock state (R145). -/
def lockCode : Lock → Nat
  | .free => 0 | .acquire => 1 | .locked => 2 | .clamped => 3

/-- The TIME record of the active (R392, R399). -/
def sendTime (s : State) : State :=
  if isActive s && s.pair.st != .single then
    xbkSendOnce 5 (natLE 6 s.tb.epoch.toNat ++ natLE 3 s.tb.flen
      ++ [BitVec.ofNat 8 (lockCode s.tb.lock)] ++ natLE 2 (s.tb.m - 1) ++ natLE 4 (now s)) s
  else s

/-- A part of a pair that hands over yields at the boundary of its record (R404, R407, R411). -/
def yieldDue (s : State) : Bool :=
  s.straps.pairEn && s.pair.yielding && s.pair.switchAt == some (BitVec.ofNat 32 (epoch32 s 0))

/-- The work of a frame boundary. -/
def frameBoundary (s : State) : State :=
  let s := beginFrame s
  let s := if yieldDue s then enterYielded s else s
  let s := { s with pwr := { s.pwr with moved := false, movedBefore := s.pwr.moved } }
  let s := swapIfPending s
  let s := if serves s then
      let s := each (resumePlaces s) endResume s
      each (List.range 64) (boundarySof 0) s
    else s
  sweepHandles (sendTime (ptmAutoStart s))

/-- The core die holds after a fatal error: frames are counted, and nothing else is done at them (R139, R386). -/
def holding (s : State) : Bool := s.err.held && !s.pwr.por && s.pwr.st != .off

/-- FRAME_BOUNDARY (R137). -/
def execFrameBoundary (s : State) : Host.Outcome State Fault Refusal :=
  guarded (live s || holding s) s fun s => if live s then frameBoundary s else countFrame s

/-! ### The microframe boundary -/

/-- A microframe begins at its instant in the frame (R26, R137). -/
def beginUframe (u : Nat) (s : State) : State :=
  let t := max (now s) (s.tb.frameAt + u * s.tb.flen / 8)
  { s with tb := { s.tb with tick := BitVec.ofNat 64 t, uframe := u, uframeAt := t } }

/-- A periodic endpoint whose service of the microframe before had no entry becomes idle, now that every entry seen
at its start has been handled; so does one whose last bound entry has been served after a halt, CLEAR-HALT or
SPILL_HALT (R198). -/
def judgeIdle (s : State) : State :=
  let m := absUframe s - 1
  each (s.sch.live.filter fun e => e.2.kind == .periodic && isService e.2 m) (fun e s =>
    modPstate e.1 (fun x =>
      if x.streaming && (decide (x.lastSvc < m) || (x.ends && decide (x.lastSvc ≤ m))) then
        { x with streaming := false, ends := false }
      else x) s) s

/-- The half in which a service stages still holds data of an earlier one (R309). -/
def halfBusy (s : State) (r : Nat) (g : Rung) (m : Nat) : Bool :=
  let half := fun n => n / 2 ^ g.periodK % 2
  s.front.items.any fun e => e.2.slot == .timed r && !e.2.segs.isEmpty
    && match e.2.service with | some k => decide (k < m ∧ half k = half m) | none => false

/-- Takes a service out of every walk. -/
def offWalks (r : Nat) (s : State) : State :=
  { s with eng := { s.eng with eng := s.eng.eng.map fun e => (e.1, { e.2 with walk := e.2.walk.filter (· != r) }) } }

/-- Ends the entry bound to a service that was not run, and takes the service out of every walk. -/
def dropService (r : Nat) (st : Byte) (s : State) : State :=
  offWalks r (match boundItem s r with | some i => finish i st s | none => s)

/-- A service that begins is not run: its entry ends, and it leaves the walks. A split reservation's earlier dones stay. -/
def skipStart (r : Nat) (g : Rung) (st : Byte) (s : State) : State :=
  if !g.split then dropService r st s
  else match s.front.items.find? fun e => e.2.slot == .timed r && e.2.service == some (absUframe s) && e.2.status.isNone with
    | some e => finish e.1 st s
    | none => s

/-- An event reservation that falls in RECOVERY makes no attempt: its entry moves on to the next one (DEDUCED, log 97). -/
def deferEvent (r : Nat) (s : State) : State :=
  offWalks r (match boundItem s r with | some i => rebindEvent i r s | none => s)

/-- A service begins: not run on a port that is disabled or in reset (R199); on a halted endpoint its entry completes STALL
(R78, R198); a periodic one is missed while its link is not ACTIVE (R86); without an engine after a reset of its own
(R383), or late (R309). -/
def beginService (r : Nat) (g : Rung) (s : State) : State :=
  let m := absUframe s
  let x := port s g.port
  let s := if g.split then s else modPstate r (fun y => { y with
    good := 0, lost := false, short := false, tokens := 0, late := false, attempts := 0 }) s
  if !x.enabled || x.resetting || x.resetDue then
    skipStart r g (if x.resetting || x.resetDue then stPortReset else stDeviceGone) s
  else if resHalted s r g then skipStart r g stStall s
  else if serdes x.gen && x.link != .active then
    (if g.kind == .event then deferEvent r s else skipStart r g stMissed s)
  else if (eng s g.engine).stopped && g.fallback == g.engine then skipStart r g stAbortedReset s
  else if g.kind == .periodic && g.dirIn && halfBusy s r g m then
    raise .dma 0 (modPstate r (fun y => { y with late := true }) s)
  else s

/-- A floating transfer that its engine has not reached waits for the next floating reservation (R159). -/
def refloat (r p : Nat) (s : State) : State :=
  match boundItem s r with
  | some i => offWalks r (modItem i (fun x => { x with service := none }) { s with sch := { s.sch with
      floatWait := tput s.sch.floatWait p (i :: tget ([] : List Nat) s.sch.floatWait p) } })
  | none => offWalks r s

/-- A service that its engine has not reached when its unit is over: missed; a floating transfer waits on. -/
def unreached (r : Nat) (s : State) : State :=
  match rungOf s r with
  | some g => if g.kind == .float then refloat r g.port s else dropService r stMissed s
  | none => dropService r stMissed s

/-- A service goes on in the next microframe: one on an N1 or N2 port, inside the frame (R169). -/
def goesOn (s : State) (r : Nat) : Bool := s.tb.uframe != 0 && longUnit s (.service r)

/-- Services that an engine has not reached when their unit is over are missed, and the completions that its periodic
threads had not posted are posted. -/
def endPeriodic (e : Nat) (s : State) : State :=
  let x := eng s e
  let s := each (x.walk.filter fun r => !goesOn s r) unreached s
  let ran := x.cur.toList ++ (x.run.toList ++ x.paused).filterMap fun t =>
    match t.kind, t.work with | .periodic, .service r => some r | _, _ => none
  let s := each (ran.filter fun r => !goesOn s r) (fun r s =>
    each ((s.front.items.filter fun i => boundTo s r i.2 && i.2.awaitFin).map Prod.fst) postItem s) s
  if s.tb.uframe != 0 then s else modEng e (fun y => { y with paused := [] }) s

/-- The follow-on work of splits that falls due for an engine: a reservation stands once for each (R195). -/
def dueDones (s : State) (e m : Nat) : List Nat :=
  let away := fun x => (eng s x).retired || (eng s x).stopped
  ((s.sch.live ++ s.sch.leaving).filter fun x =>
    (x.2.engine == e && !away e) || (x.2.fallback == e && x.2.engine != e && away x.2.engine && !away e)).flatMap
    fun x => List.replicate ((pstate s x.1).followOn.count m) x.1

/-- One engine at a microframe boundary: split dones first, then its lists (R195, R218). -/
def engineBoundary (e : Nat) (s : State) : State :=
  if (eng s e).retired || (eng s e).stopped then s
  else
    let m := absUframe s
    let s := suspendDispatch e (endPeriodic e s)
    let due := dueDones s e m
    let s := each due (fun r s => modPstate r (fun x => { x with followOn := x.followOn.filter (· != m) }) s) s
    let walk := (eng s e).walk ++ due ++ walkOf s e m
    nextWork e (modEng e (fun x => { x with inReset := false, gated := false, walk := walk, cur := none }) s)

/-- The periodic windows of the microframe: a port belongs to the engine that walks its entries (R220, R221). On N1 and N2
a window lasts until its engine releases the port, or the frame ends (R195). -/
def openWindows (s : State) : State :=
  let at_ := fun p => (List.range 16).find? fun e => (eng s e).walk.any fun r =>
    match rungOf s r with | some g => g.port == p | none => false
  let keeps := fun p => let x := port s p
    s.tb.uframe != 0 && genCode x.gen ≤ 1 && x.window.isSome && x.window == x.heldBy
  each (List.range 64) (fun p s =>
    let w := if (at_ p).isNone && keeps p then (port s p).window else at_ p
    if (port s p).window == w then s else modPort p (fun x => { x with window := w }) s) s

/-- The doorbell blocks of a function (R267). -/
def blocksOf (s : State) (f : Nat) : Nat :=
  let x := fn s f
  if bit x.dbBase 0 && x.bme && x.enabled && !x.flrBusy then cdiv x.nSq 16 + cdiv x.nCr 16 else 0

/-- The sweep of a microframe begins: every block of every function that it reads (R41, R267, R514). -/
def beginSweep (s : State) : State :=
  let bs := (List.range 128).flatMap fun f => (List.range (blocksOf s f)).map fun b => (f, b)
  let s := { s with front := { s.front with sweep := bs, sweepAt := absUframe s } }
  each bs (fun b s => emit (.hostRead b.1 (field (fn s b.1).dbBase 6 58 * 64 + 64 * b.2) 64) s) s

/-- The heartbeat and the sense line of a part that has a partner (R398). -/
def beat (u : Nat) (s : State) : State :=
  if s.pair.st == .single || s.pair.st == .conflict || s.pair.st == .failed then s
  else
    let s := xbkSendOnce 4 ([BitVec.ofNat 8 (pairCode s.pair.st), BitVec.ofNat 8 u] ++ natLE 6 s.tb.epoch.toNat
      ++ natLE 4 s.pair.shadowSeq.toNat ++ zeros 4) s
    emit (.sense (!s.pair.hbOut)) { s with pair := { s.pair with hbOut := !s.pair.hbOut, hbGot := false } }

/-- The unit of a port has ended: its control time starts afresh (R206). -/
def newUnits (u : Nat) (s : State) : State :=
  { s with front := { s.front with
    ctlUsed := s.front.ctlUsed.filter fun e => u != 0 && genCode (port s e.1).gen < 2 } }

/-- An accepted PAIR_SWITCH sends its HANDOVER in the last microframe before the boundary (R411; log 72). -/
def handoverDue (u : Nat) (s : State) : Bool :=
  u = 7 && isActive s && !s.pair.yielding && s.pair.switchAt == some (BitVec.ofNat 32 (epoch32 s 1))

/-- The work of a microframe boundary. -/
def microframe (u : Nat) (s : State) : State :=
  let s := newUnits u (beginUframe u s)
  let s := if handoverDue u s then sendHandover 6 s else s
  let s := judgeIdle s
  let s := if serves s then
      let s := if u = 0 then s else each (List.range 64) (boundarySof u) s
      let s := each (List.range 16) engineBoundary (dropLeft s)
      let m := absUframe s
      let s := each (s.sch.live.filter fun e => e.2.kind != .float && isService e.2 m)
        (fun e s => beginService e.1 e.2 s) s
      let s := beginSweep (openWindows s)
      each ((s.topo.port.filter fun e => !e.2.lane.isEmpty).map Prod.fst) runLane s
    else s
  beat u s

/-- MICROFRAME_BOUNDARY (R26). -/
def execMicroframeBoundary (u : Fin 8) (s : State) : Host.Outcome State Fault Refusal :=
  guarded ((live s || holding s) && timebaseRuns s) s fun s =>
    if live s then microframe u.val s else beginUframe u.val s

end Sys2Proof.Machine
end

