-- ==== Sys2Proof/Machine/EngineSys.lean ====
section
/-! DEFINITION. The instructions of an ox engine that reach its ports, contexts, the DMA engine, the dispatcher and
scripts (R204, R218 to R245), the work dispatcher (R222 to R230), and the engine's events. -/

namespace Sys2Proof.Machine

/-! ### Context windows -/

/-- CLD: the granted item's context enters the window. -/
def execCld (e : EngId) (s : State) : Host.Outcome State Fault Refusal :=
  instruction e .m 6 (fun t s => setRun e.val (advance { t with win := windowOf s t.work }) s) s

/-- CST: the window goes to the context of the item. -/
def execCst (e : EngId) (s : State) : Host.Outcome State Fault Refusal :=
  instruction e .m 4 (fun t s =>
    let s := setRun e.val (advance t) s
    match t.work with
    | .item _ => if t.win.isEmpty then s else modCtx (workCtx s t.work) (storeCtx t.win) s
    | _ => s) s

/-- Places an item's staging (R308 to R310); posted work has no data to stage. What an earlier visit read ahead stays only
in pages that are the endpoint's own; elsewhere it is read again. -/
def placeItem (i : Nat) (s : State) : State :=
  match item? s i with
  | none => s
  | some x =>
    if x.posted.isSome || !x.segs.isEmpty then s
    else
      let pl := stagePlace s x
      let own : Bool := match x.slot with | .timed _ => true | _ => dedicated s x
      if own && x.pages == pl.1 then s
      else modItem i (fun y => { y with pages := pl.1, offset := pl.2 }) (unstage i s)

/-- The script bound to the device of a work (R251). -/
def scriptOf (s : State) (w : Work) : Nat :=
  match tfind s.topo.ctx (workCtx s w) with | some c => c.script | none => 0

/-- PLD: the next entry of the walk becomes the current one, and its state entry enters the window (R195; log 54). -/
def execPld (e : EngId) (s : State) : Host.Outcome State Fault Refusal :=
  instruction e .m 4 (fun t s =>
    match (eng s e.val).walk with
    | r :: rest =>
      let w : Work := .service r
      let s := match boundItem s r with | some i => placeItem i s | none => s
      let s := modEng e.val (fun x => { x with walk := rest, cur := some r }) s
      setRun e.val (advance { t with
        work := w, win := windowOf s w, used := 0, entered := [], armed := none, bound := scriptOf s w }) s
    | [] => setRun e.val (advance t) s) s

/-- PST: the window goes to the state entry. -/
def execPst (e : EngId) (s : State) : Host.Outcome State Fault Refusal :=
  instruction e .m 4 (fun t s =>
    let s := setRun e.val (advance t) s
    match t.work with
    | .service r => if t.win.isEmpty then s else modPstate r (storeState t.win) s
    | _ => s) s

/-! ### The port crossbar (R220, R221) -/

/-- Engine `e` may hold a port: it is free, and any periodic window on it is the engine's own. -/
def mayHold (s : State) (e p : Nat) : Bool :=
  (port s p).heldBy.isNone && (match (port s p).window with | some w => w == e | none => true)

/-- No lower engine that may hold the port waits for it. -/
def winsHold (s : State) (e p : Nat) : Bool :=
  mayHold s e p && (port s p).holdWait.all fun x => e ≤ x || !mayHold s x p

/-- A HOLD is granted; what the engine has queued on the lane goes on. -/
def takeHold (e p : Nat) (t : Thread) (s : State) : State :=
  runLane p (setRun e (advance { t with wait := .running, holds := p :: t.holds })
    (modPort p (fun x => { x with heldBy := some e, holdWait := x.holdWait.filter (· != e) }) s))

/-- HOLD. -/
def execHold (e : EngId) (p : PortId) (s : State) : Host.Outcome State Fault Refusal :=
  instruction e .m 2 (fun t s =>
    if t.holds.contains p.val then setRun e.val (advance t) s
    else if winsHold s e.val p.val then takeHold e.val p.val t s
    else
      setRun e.val { t with wait := .hold p.val }
        (modPort p.val (fun x => { x with holdWait := x.holdWait.filter (· != e.val) ++ [e.val] }) s)) s

/-- HOLD_GRANT: a waiting HOLD has won the port. -/
def execHoldGrant (e : EngId) (p : PortId) (s : State) : Host.Outcome State Fault Refusal :=
  guarded (live s) s fun s =>
    match (eng s e.val).run with
    | some t => if t.wait == .hold p.val && winsHold s e.val p.val then takeHold e.val p.val t s else s
    | none => s

/-- The walk of an engine still has an entry on a port. -/
def walkHas (s : State) (e p : Nat) : Bool :=
  (eng s e).walk.any fun r => match rungOf s r with | some g => g.port == p | none => false

/-- A port is released: the periodic window closes behind its last entry (R221), and an item whose last transaction
has ended is wire-done (R224). -/
def releasePort (e p : Nat) (t : Thread) (s : State) : State :=
  let s := modPort p (fun x => { x with
    heldBy := if x.heldBy == some e then none else x.heldBy
    window := if x.window == some e && !walkHas s e p then none else x.window }) s
  match t.work with
  | .item i => if workPort s t.work = p then
      modItem i (fun x => { x with wireDone := x.wireDone || x.status.isSome }) s else s
  | _ => s

/-- REL: a periodic thread that has released its last port ends (R218), or goes on after one that gave way to it. -/
def execRel (e : EngId) (p : PortId) (s : State) : Host.Outcome State Fault Refusal :=
  instruction e .m 1 (fun t s =>
    if !t.holds.contains p.val then setRun e.val (advance t) s
    else
      let u := { t with holds := t.holds.filter (· != p.val) }
      let s := releasePort e.val p.val t s
      if u.kind == .periodic && u.holds.isEmpty && ((eng s e.val).walk.isEmpty || !(eng s e.val).paused.isEmpty) then
        nextWork e.val (modEng e.val (fun x => { x with run := none }) s)
      else setRun e.val (advance u) s) s

/-! ### Tokens, DATA and handshakes (R204, R240, R244) -/

/-- The errors of a work's items that waited for the ERROR hook are counted: the engine has gone on (R242). -/
def flushWork (w : Work) (s : State) : State := each (openItems s w) flushErr s

/-- The transactions of a periodic service on a link that is not ACTIVE are not made: its entry completes MISSED
(R86). -/
def linkMisses (s : State) (w : Work) : Bool :=
  isPeriodic s w && serdes (port s (workPort s w)).gen && (port s (workPort s w)).link != .active

/-- An engine asks its port lane for an operation, behind what is queued there, and goes on (R240). A line that takes no
command of the thread drops it. -/
def askLane (e : Nat) (t : Thread) (op : LaneOp) (s : State) : State :=
  let p := workPort s t.work
  let s := flushWork t.work (setRun e (advance t) s)
  if linkMisses s t.work then each (workItem s t.work).toList (decideItem · stMissed) s
  else if lineReady s e t p then runLane p (queueLane p e t.work op s)
  else s

/-- The endpoint that a token names: the work's, or in a script the one that B12 selects (R244). -/
def tokEp (s : State) (t : Thread) : Nat × Bool :=
  if t.script.isSome && bit (breg t 12) 7 then (field (breg t 12) 0 4, false) else ((workEp s t.work).1, true)

/-- A script may not send this token: the endpoint is not open or is halted, or the device is reached through a translator
(R244). -/
def tokBarred (s : State) (t : Thread) (dirIn : Bool) : Bool :=
  let ep := tokEp s t
  match ctx? s (field (workHandle s t.work) 0 12) ep.1 dirIn with
  | none => true
  | some c => !c.isOpen || c.halted || c.tt.isSome
      || (match t.work with | .service r => ep.2 && (pstate s r).halted | _ => false)

/-- TOK. TYPE is IN 3, OUT 4 or SETUP 5; any other is a fault (log 53). -/
def execTok (e : EngId) (typ : BitVec 4) (rs : Fin 16) (retry : Bool) (s : State) :
    Host.Outcome State Fault Refusal :=
  instruction e .ms 3 (fun t s =>
    let ep := tokEp s t
    if !(typ == 3 || typ == 4 || typ == 5) then instrFault e.val 5 t s
    else if t.script.isSome && tokBarred s t (typ == 3) then scriptStop e.val 4 s
    else askLane e.val t (.tok typ.toNat (field (breg t rs.val) 0 4 + 1) ep.1 ep.2 retry) s) s

/-- SPL. TYPE is SPLIT-START 6 or SPLIT-DONE 7. -/
def execSpl (e : EngId) (typ : BitVec 4) (_rs : Fin 16) (retry : Bool) (s : State) :
    Host.Outcome State Fault Refusal :=
  instruction e .m 3 (fun t s =>
    if !(typ == 6 || typ == 7) then instrFault e.val 5 t s
    else if !serdes (port s (workPort s t.work)).gen then setRun e.val (advance t) s
    else askLane e.val t (.spl (typ == 6) retry) s) s

/-- The work uses the TIMED context (R295). -/
def workTimed (s : State) (w : Work) : Bool :=
  match w with
  | .service _ => true
  | .item i => (match item? s i with | some x => itemTimed x | none => false)
  | .none_ => false

/-- The context of a work's channel on its port, IN or OUT (R295). -/
def workChan (s : State) (w : Work) (dirIn : Bool) : Nat := ctxOf (portChan (workPort s w) dirIn) (workTimed s w)

/-- A script uses a channel that the microcode has not armed for the transfer (R244). -/
def chanBarred (s : State) (t : Thread) (dirIn : Bool) : Bool :=
  t.script.isSome && (t.armed != some (workChan s t.work dirIn)
    || (match ctx? s (field (workHandle s t.work) 0 12) (workEp s t.work).1 (workEp s t.work).2 with
        | some c => c.tt.isSome
        | none => false))

/-- SDAT: the lane sends each packet when it is staged whole (R299). -/
def execSdat (e : EngId) (_rd rs : Fin 16) (s : State) : Host.Outcome State Fault Refusal :=
  instruction e .ms 2 (fun t s =>
    if chanBarred s t false then scriptStop e.val 4 s
    else
      let p := workPort s t.work
      runLane p (queueLane p e.val t.work (.sdat (field (breg t rs.val) 0 4 + 1)) (setRun e.val (advance t) s))) s

/-- Cycles of a wait for the running thread: 4 where it parks, else 2 (R239). -/
def waitCost (s : State) (e : Nat) : Nat :=
  match executing s e with
  | some t => (match t.holds.head? with | some p => if parksOn s p then 4 else 2 | none => 2)
  | none => 2

/-- RDAT. -/
def execRdat (e : EngId) (mask : Byte) (offset : BitVec 14) (s : State) : Host.Outcome State Fault Refusal :=
  instruction e .ms (waitCost s e.val) (fun t s =>
    if chanBarred s t true then scriptStop e.val 4 s
    else waitAnswer e.val (.rdat mask offset) mask offset t s) s

/-- WHS. -/
def execWhs (e : EngId) (mask : Byte) (offset : BitVec 14) (s : State) : Host.Outcome State Fault Refusal :=
  instruction e .ms (waitCost s e.val) (fun t s => waitAnswer e.val (.whs mask offset) mask offset t s) s

/-- SHS: the ACK that an IN burst is due (R63). -/
def execShs (e : EngId) (s : State) : Host.Outcome State Fault Refusal :=
  instruction e .ms 2 (fun t s =>
    let p := workPort s t.work
    let s := setRun e.val (advance t) s
    match (port s p).txn with
    | some tx => if tx.ackDue && tx.engine == some e.val then sendAck p tx s else s
    | none => s) s

/-! ### DMA and delays -/

/-- ARM. -/
def execArm (e : EngId) (v : BitVec 10) (s : State) : Host.Outcome State Fault Refusal :=
  instruction e .m 3 (fun t s =>
    let key := workChan s t.work (bit v 0)
    let s := modChan key (fun c => { c with work := t.work, state := if c.state == .idle then .armed else c.state }) s
    setRun e.val (advance { t with armed := some key }) s) s

/-- A DMA context holds nothing that is still to be moved. -/
def chanDrained (s : State) (key : Nat) : Bool :=
  (chan s key).reading.isNone && s.front.items.all fun e => itemChan e.2 != key || e.2.segs.isEmpty

/-- DRN. -/
def execDrn (e : EngId) (s : State) : Host.Outcome State Fault Refusal :=
  instruction e .m 2 (fun t s =>
    match t.armed with
    | none => setRun e.val (advance t) s
    | some k => if chanDrained s k then setRun e.val (advance t) s else setRun e.val { t with wait := .drn } s) s

/-- Bit time in 0.1 ns (R57). -/
def bitTime : Gen → Nat
  | .n1 => 10000 | .n2 => 1250 | .n3 => 100 | .n4 => 5 | .n5 => 1

/-- Cycles of DLY for the running thread: 2 and ⌈0.8 t⌉, or 4 where it parks. -/
def dlyCost (s : State) (e : Nat) (count : BitVec 20) : Nat :=
  match executing s e with
  | some t => (match t.holds.head? with
    | some p => if parksOn s p then 4 else 2 + cdiv (count.toNat * bitTime (port s p).gen * 2) 25
    | none => 2)
  | none => 2

/-- DLY: it parks on N1 and N2. -/
def execDly (e : EngId) (count : BitVec 20) (s : State) : Host.Outcome State Fault Refusal :=
  instruction e .ms (dlyCost s e.val count) (fun t s =>
    match t.holds.head? with
    | some p => if parksOn s p then park e.val p false { t with wait := .dly } s else setRun e.val (advance t) s
    | none => setRun e.val (advance t) s) s

/-- DLY_EXPIRY (R219): the parked thread becomes ready. -/
def execDlyExpiry (e : EngId) (p : PortId) (s : State) : Host.Outcome State Fault Refusal :=
  guarded (live s) s fun s =>
    match tfind (eng s e.val).parked p.val with
    | some k =>
      if k.thread.wait == .dly then
        modEng e.val (fun x => { x with
          parked := tput x.parked p.val ⟨advance { k.thread with wait := .running }, true⟩ }) s
      else s
    | none => s

/-- A parked thread that resumes first: periodic before dispatch, then the lower port (R219). -/
def firstReady (x : Engine) : Option Nat :=
  let r := x.parked.filter fun k => k.2.ready
  match r.find? fun k => k.2.thread.kind == .periodic with
  | some k => some k.1
  | none => r.head?.map Prod.fst

/-- PARKED_THREAD_RESUME (R219): the first ready thread runs again once no transaction of the running thread is in
progress. A dispatch thread that ran is suspended with its ports, and a periodic one gives way (log 63). -/
def execParkedThreadResume (e : EngId) (p : PortId) (s : State) : Host.Outcome State Fault Refusal :=
  guarded (live s) s fun s =>
    let x := eng s e.val
    match tfind x.parked p.val with
    | none => s
    | some k =>
      if firstReady x != some p.val || midTxn s e.val then s
      else
        let y := { x with run := some k.thread, parked := tdel x.parked p.val }
        setEng s e.val (match x.run with
          | none => y
          | some t =>
            if t.kind == .dispatch then
              { y with suspended := some { t with wait := if t.wait == .getw then .running else t.wait } }
            else { y with paused := t :: y.paused })

/-! ### The work dispatcher (R222 to R230) -/

/-- GETW: an engine with list work or a suspended dispatch thread goes on with that; otherwise it waits. -/
def execGetw (e : EngId) (s : State) : Host.Outcome State Fault Refusal :=
  instruction e .m 3 (fun t s =>
    let x := eng s e.val
    if !x.walk.isEmpty || !x.paused.isEmpty || x.suspended.isSome then nextWork e.val (setEng s e.val { x with run := none })
    else setRun e.val { t with kind := .dispatch, wait := .getw, work := .none_, waitAt := now s } s) s

/-- The level at which an item is granted: last-gasp service at 7 (R223, R375). -/
def levelOf (s : State) (x : Item) (c : Ctx) : Nat :=
  if gaspCovers s (itemNum x) && c.lastGasp then 7 else x.level

/-- The context of an item. -/
def itemCtx (s : State) (x : Item) : Option Ctx :=
  match x.posted with
  | some b => ctx? s (itemNum x) (field b.epaddr 0 4) (bit b.epaddr 7)
  | none => ctx? s (itemNum x) (eEp x.raw) (eDirIn x.raw)

/-- The place of an item's device takes work (R126, R130); requests of the part's own always reach it. -/
def itemPlace (s : State) (x : Item) : Bool :=
  isOwn x || (match dev? s (itemNum x) with | some d => placeOpen s (itemNum x) d | none => true)

/-- R227's checks, for the engine that asks: a visit counts as fitting when its next transaction, of one packet, fits
(log 61), and a SPLIT-DONE when its unit has come (R107; log 96). -/
def eligible (s : State) (e : Nat) (x : Item) : Bool :=
  x.slot == .work && x.status.isNone && x.stopAs.isNone && x.granted.isNone && x.flow.isSome
    && (match x.offer with | some o => o == e | none => true)
    && headsFlow s x && lineOpen s x.port && (port s x.port).window.isNone && itemPlace s x
    && (match x.doneAt with | some m => decide (m ≤ absUframe s) | none => true)
    && (match itemCtx s x with
        | some c => c.isOpen && (!gaspCovers s (itemNum x) || c.lastGasp) && fits s x.port (itemCost s x c) true
        | none => false)

/-- The candidates of a grant, with their levels. -/
def candidates (s : State) (e : Nat) : List (Nat × Item × Nat) :=
  s.front.items.filterMap fun k =>
    if eligible s e k.2 then (itemCtx s k.2).map fun c => (k.1, k.2, levelOf s k.2 c) else none

/-- The oldest of some items. -/
def oldest (l : List (Nat × Item)) : Option Nat :=
  (l.foldl (fun b k => match b with
    | none => some k
    | some y => if k.2.flowSeq < y.2.flowSeq then some k else b) (none : Option (Nat × Item))).map Prod.fst

/-- The visits of a new round (R207): the weight of each SQ, scaled to the function's bulk weight. -/
def newRound (s : State) (p : Nat) (keys : List (Nat × Nat)) : List (Nat × Nat × Nat × Nat) :=
  let w := fun (k : Nat × Nat) => cfgWeight (sq s k.1 k.2).cfg
  keys.map fun k =>
    let total := (keys.filter fun j => j.1 == k.1).foldl (fun a j => a + w j) 0
    let wf := (fn s k.1).weight
    (p, k.1, k.2, if wf < total then max 1 (w k * wf / total) else w k)

/-- One step of the weighted round robin of a port: the item that it takes, and the visits left. -/
def roundStep (s : State) (p lvl : Nat) (l : List (Nat × Item)) : Option Nat × List (Nat × Nat × Nat × Nat) :=
  let keys := (l.map fun k => (k.2.func, k.2.sq)).dedup
  let live := s.front.visits.filter fun v => v.1 == p && 0 < v.2.2.2 && keys.contains (v.2.1, v.2.2.1)
  let others := fun (v : Nat × Nat × Nat × Nat) => v.1 != p || cfgPrio (sq s v.2.1 v.2.2.1).cfg != lvl
  let vs := if live.isEmpty then s.front.visits.filter others ++ newRound s p keys else s.front.visits
  match vs.find? fun v => v.1 == p && 0 < v.2.2.2 && keys.contains (v.2.1, v.2.2.1) with
  | none => (none, vs)
  | some v =>
    (oldest (l.filter fun k => k.2.func == v.2.1 && k.2.sq == v.2.2.1),
      vs.filter (· != v) ++ [(v.1, v.2.1, v.2.2.1, v.2.2.2 - 1)])

/-- The item that R227 chooses, with the visits that remain: the highest level, the next port of that level, control
within its share (oldest first, log 62), then the round. -/
def bestItem (s : State) (e : Nat) : Option Nat × List (Nat × Nat × Nat × Nat) :=
  let cs := candidates s e
  let lvl := cs.foldl (fun m k => max m k.2.2) 0
  let at_ := (cs.filter fun k => k.2.2 == lvl).map fun k => (k.1, k.2.1)
  let last := tget 63 s.front.lastPort lvl
  let dist := fun (p : Nat) => (p + 127 - last) % 64
  match at_.foldl (fun b k => match b with
      | none => some k.2.port
      | some q => if dist k.2.port < dist q then some k.2.port else b) (none : Option Nat) with
  | none => (none, s.front.visits)
  | some p =>
    let here := at_.filter fun k => k.2.port == p
    let ctl := here.filter fun k => itemCtrl k.2
    if 6 ≤ lvl then (oldest here, s.front.visits)
    else if !ctl.isEmpty && tget 0 s.front.ctlUsed p < unitTime' s p / 10 then (oldest ctl, s.front.visits)
    else roundStep s p lvl here

/-- A granted item pins the context of key `j` in the cache. -/
def ctxPinned (s : State) (j : Nat) : Bool :=
  s.front.items.any fun e => e.2.granted.isSome && (match e.2.posted with
    | some b => ctxKey (itemNum e.2) (field b.epaddr 0 4) (bit b.epaddr 7) == j
    | none => ctxKey (itemNum e.2) (eEp e.2.raw) (eDirIn e.2.raw) == j)

/-- The address of a context's backing entry. -/
def ctxBacking (s : State) (c : Ctx) : Nat := s.front.ctxBase.toNat + 64 * c.index

/-- The context that leaves a full cache: the one used longest ago that no granted item pins. -/
def ctxVictim (s : State) : Option Nat :=
  if s.front.resident.length < 2048 then none else s.front.resident.reverse.find? fun j => !ctxPinned s j

/-- A context goes back to its backing entry. -/
def writeBack (k : Option Nat) (s : State) : State :=
  match k.bind (tfind s.topo.ctx ·) with
  | some c => if s.front.ctxEn then hostWrite 0 (ctxBacking s c) (ctxBytes c) s else s
  | none => s

/-- A context is read from its backing entry. -/
def readCtx (k : Nat) (s : State) : State :=
  match tfind s.topo.ctx k with
  | some c => if s.front.ctxEn then emit (.hostRead 0 (ctxBacking s c) 64) s else s
  | none => s

/-- The contexts in the cache, the one used last first. -/
def setResident (l : List Nat) (s : State) : State := { s with front := { s.front with resident := l } }

/-- Brings a context into the on-chip cache (R233). -/
def cacheCtx (k : Nat) (s : State) : State :=
  let l := s.front.resident
  if l.contains k then setResident (k :: l.filter (· != k)) s
  else setResident (k :: l.filter fun j => some j != ctxVictim s) (readCtx k (writeBack (ctxVictim s) s))

/-- An engine becomes the affinity engine of a flow, and the flow's other items will be offered to it first (R228). -/
def setAffinity (f : Flow) (e : Nat) (s : State) : State :=
  { s with front := { s.front with
    affinity := (f, e) :: s.front.affinity.filter fun a => a.1 != f
    items := s.front.items.map fun k =>
      (k.1, if k.2.flow == some f && k.2.granted.isNone then { k.2 with offer := some e } else k.2) } }

/-- Grants an item to the engine that waits in GETW: a new visit begins, and its context is brought into the cache
before (R207, R226, R233). -/
def grantItem (e i : Nat) (t : Thread) (vs : List (Nat × Nat × Nat × Nat)) (s : State) : State :=
  match item? s i with
  | none => s
  | some x =>
    let lvl := match itemCtx s x with | some c => levelOf s x c | none => x.level
    let w : Work := .item i
    let s := { s with front := { s.front with visits := vs, lastPort := tput s.front.lastPort lvl x.port } }
    let s := match x.flow with | some f => setAffinity f e s | none => s
    let s := modEng e (fun y => { y with gated := false })
      (setItem s i { x with granted := some e, offer := none, ended := false, visit := 0, visitOver := false })
    let s := placeItem i (cacheCtx (workCtx s w) (modCtx (workCtx s w) (fun c => { c with affinity := some e }) s))
    setRun e (advance { t with
      wait := .running, work := w, win := windowOf s w, used := 0, entered := [], armed := none
      bound := scriptOf s w }) s

/-- The engines that wait in GETW and may be granted an item. -/
def getwWaits (s : State) (e : Nat) : Option Nat :=
  let x := eng s e
  match x.run with
  | some t => if t.wait == .getw && x.parked.isEmpty then some t.waitAt else none
  | none => none

/-- The place of an engine among those that issued GETW together: the affinity engine of its best item comes first, then
the others in ascending number; one without an item comes last (R228). -/
def getwRank (s : State) (e : Nat) : Nat :=
  match (bestItem s e).1.bind (item? s) with
  | none => 32
  | some x => if x.flow.bind (affinityOf s) == some e then e else 16 + e

/-- No engine that issued GETW in the same TICK is served before this one. -/
def winsGetw (s : State) (e : Nat) : Bool :=
  (List.range 16).all fun x => x == e || getwWaits s x != getwWaits s e || decide (getwRank s e ≤ getwRank s x)

/-- GETW_GRANT (R227, R228): the best item that the engine may take; none while a thread of it is parked (R219). -/
def execGetwGrant (e : EngId) (s : State) : Host.Outcome State Fault Refusal :=
  guarded (serves s) s fun s =>
    let s := postRequests s
    match (eng s e.val).run with
    | some t =>
      if (getwWaits s e.val).isSome && winsGetw s e.val then
        (match bestItem s e.val with
          | (some i, vs) => grantItem e.val i t vs s
          | (none, _) => s)
      else s
    | none => s

/-- AFFINITY_OFFER_EXPIRY (R228): after 2 µs the item is open to every engine. -/
def execAffinityOfferExpiry (item : Nat) (s : State) : Host.Outcome State Fault Refusal :=
  guarded (live s) s (modItem item fun x => { x with offer := none })

/-- PUTW (R226): the progress is saved in the context, and the item returns to its round, offered first to the engine
that ran it (R228). -/
def execPutw (e : EngId) (s : State) : Host.Outcome State Fault Refusal :=
  instruction e .m 3 (fun t s =>
    let s := flushWork t.work (setRun e.val (advance t) s)
    match t.work with
    | .item i =>
      (match item? s i with
        | some x =>
          if x.status.isSome then s
          else
            let s := modCtx (workCtx s t.work) (fun c => { c with progress := BitVec.ofNat 24 x.moved }) s
            let s := setItem s i { x with granted := none, ended := true, offer := x.flow.bind (affinityOf s) }
            modRun e.val (fun u => { u with work := .none_, win := [] }) s
        | none => modRun e.val (fun u => { u with work := .none_, win := [] }) s)
    | _ => s) s

/-- FIN of one item: the status decided on the wire is posted; one that is still open takes the value (log 55), and the
item is wire-done only with the REL of the port that the thread still holds (R224). -/
def finPost (t : Thread) (st : Byte) (i : Nat) (s : State) : State :=
  match item? s i with
  | some x =>
    if x.status.isSome then postItem i s
    else
      modItem i (fun y => if t.holds.contains x.port then { y with wireDone := x.wireDone } else y) (finish i st s)
  | none => s

/-- FIN (R225). -/
def execFin (e : EngId) (v : BitVec 10) (s : State) : Host.Outcome State Fault Refusal :=
  instruction e .m 4 (fun t s =>
    let s := flushWork t.work (setRun e.val (advance t) s)
    each (openItems s t.work) (finPost t (v.setWidth 8)) s) s

/-- EVT sets the software latch of a source (R417). -/
def execEvt (e : EngId) (v : BitVec 10) (s : State) : Host.Outcome State Fault Refusal :=
  instruction e .m 1 (fun t s =>
    withRises [v.toNat] (modSource v.toNat fun x => { x with soft := true }) (setRun e.val (advance t) s)) s

/-- ENGINE_INTERRUPT (R424): in its dispatch thread, waiting in GETW, the engine takes an interrupt, and GETW ends
without a grant (log 64). -/
def execEngineInterrupt (e : EngId) (s : State) : Host.Outcome State Fault Refusal :=
  guarded (live s) s fun s =>
    let asked := s.eic.src.any fun x =>
      isPending s x.1 && offered s x.1 == some e.val && runLevel s e.val < x.2.prio.toNat
    match (eng s e.val).run with
    | some t => if asked && t.kind == .dispatch && t.wait == .getw then
        setRun e.val (advance { t with wait := .running }) (modEng e.val (fun y => { y with gated := false }) s) else s
    | none => s

/-- The newest item of a function that has not been granted. -/
def newestUngranted (s : State) (f : Nat) : Option (Nat × Item) :=
  (s.front.items.filter fun k => k.2.func == f && k.2.slot == .work && k.2.posted.isNone && k.2.granted.isNone
    && k.2.status.isNone && !k.2.begun).getLast?

/-- Returns an item to its SQ, to be fetched again in its order (R223). -/
def returnItem (k : Nat × Item) (s : State) : State :=
  delItem (modSq k.2.func k.2.sq (fun q => { q with inval := (k.2.index, none) :: q.inval })
    (flowBack k.2.flow (dropStaged k.1 s))) k.1

/-- ITEM_POST (R222, R223): management work counts in PF0's share and waits while that is full; last-gasp service takes
the entry of the newest item that has not been granted. -/
def execItemPost (post : PostBody) (s : State) : Host.Outcome State Fault Refusal :=
  guarded (serves s) s fun s =>
    let f := if post.lastGasp then post.func.val else 0
    if !shareFull s f then postWork post f none false s
    else if post.lastGasp then
      (match newestUngranted s f with
        | some k => postWork post f none false (returnItem k s)
        | none => s)
    else s

/-! ### Scripts (R242, R245) -/

/-- The script that was bound when the service or visit started (R251). -/
def boundScript (t : Thread) : Nat := t.bound

/-- SCALL: a declared hook is entered once in a service or visit; the scratch is zeroed and the budget loaded. A
script without PERIODIC_OK does not serve periodic and event endpoints. -/
def execScall (e : EngId) (v : BitVec 10) (s : State) : Host.Outcome State Fault Refusal :=
  instruction e .m 2 (fun t s =>
    let u := advance t
    let hook := field v 0 2
    match tfind s.eng.scripts (boundScript t) with
    | some c =>
      if boundScript t = 0 || 3 ≤ hook || !bit c.hooks hook || t.entered.contains hook
          || (isServiceWork t.work && !bit c.flags 0) then setRun e.val u s
      else
        let r : ScriptRun :=
          { number := boundScript t, hook := hook, budget := BitVec.ofNat 17 (c.wcCycles - t.used), back := u.pc }
        let s := modEng e.val (fun x => { x with scratch := [] }) s
        setRun e.val { u with
          script := some r, entered := hook :: t.entered, pc := BitVec.ofNat 14 (c.base + c.entries.getD hook 0) } s
    | none => setRun e.val u s) s

/-- The statuses that a script may give. -/
def scriptStatus (b : Byte) : Bool := [stSuccess, stShort, stStall, stXactErr, stMissed].contains b

/-- DONE decides the status of an item, and an error that waited for the hook is not counted (R242). -/
def hookDone (st : Byte) (i : Nat) (s : State) : State :=
  overrideItem i st (modItem i (fun x => { x with pendErr := none }) s)

/-- SRET: CONTINUE, or DONE with the status in B15; another action or status is a sandbox fault (log 43). -/
def execSret (e : EngId) (v : BitVec 10) (s : State) : Host.Outcome State Fault Refusal :=
  instruction e .s 2 (fun t s =>
    let a := field v 0 2
    match t.script with
    | none => s
    | some r =>
      if 2 ≤ a || (a = 1 && !scriptStatus (breg t 15)) then scriptStop e.val 5 s
      else
        let s := setRun e.val { t with
          script := none, pc := r.back, loops := t.loops.filter fun f => f.first.toNat < 0x2000 } s
        if a = 1 then each (openItems s t.work) (hookDone (breg t 15)) s
        else if r.hook = 2 then flushWork t.work s
        else s) s

/-- SCRIPT_BUDGET_EXPIRY (R245): the counter has reached 0. -/
def execScriptBudgetExpiry (e : EngId) (s : State) : Host.Outcome State Fault Refusal :=
  guarded (live s) s (scriptStop e.val 1)

/-! ### The floating reservation (R159, R204) -/

/-- FLOAT_START: at φ the port's engine takes the transfer that has waited longest, after the transaction that it has
in progress; with none waiting, a compare instant at φ itself is still served (R29, R40). -/
def execFloatStart (p : PortId) (s : State) : Host.Outcome State Fault Refusal :=
  guarded (serves s) s fun s =>
    if (floatOf s p.val).isSome && (tget ([] : List Nat) s.sch.floatWait p.val).isEmpty then
      runLane p.val { s with sch := { s.sch with floatIdle := tput s.sch.floatIdle p.val (now s) } }
    else floatServe p.val s

end Sys2Proof.Machine
end

