-- ==== Sys2Proof/Machine/Scripts.lean ====
section
/-! DEFINITION. Quirk scripts: the image and its check rules (R247 to R249), loading, binding and unbinding (R250 to
R252). -/

namespace Sys2Proof.Machine

/-! ### The image (R247) -/

/-- A header field of an image. -/
def imgByte (b : List Byte) (i : Nat) : Nat := (b.getD i 0).toNat
def imgField (b : List Byte) (i n : Nat) : Nat := leNat ((b.drop i).take n)

/-- The instruction words of an image. -/
def imgWords (b : List Byte) : List U32 :=
  (List.range (imgField b 6 2)).map fun i => BitVec.ofNat 32 (imgField b (32 + 4 * i) 4)

/-- Entry offset of a hook: BEFORE, AFTER, ERROR. -/
def imgEntry (b : List Byte) (k : Nat) : Nat := imgField b (8 + 2 * k) 2
/-- The hook is declared. -/
def imgHook (b : List Byte) (k : Nat) : Bool := imgByte b 5 / 2 ^ k % 2 == 1

/-- The slowest generation in GENS. -/
def slowest (gens : Nat) : Gen := genOf (((List.range 5).find? fun g => gens / 2 ^ g % 2 == 1).getD 0)

/-! ### Instruction words (R236, R239) -/

def wOp (w : U32) : Nat := field w 26 6

/-- A script may use the opcode, and the word's bits that no field uses are 0; conditions, token types and body
lengths are defined ones (rule 3). -/
def wordOk (w : U32) : Bool :=
  let zero := fun (lo n : Nat) => field w lo n == 0
  match wOp w with
  | 0x00 | 0x26 => zero 0 26
  | 0x01 | 0x03 | 0x05 | 0x06 | 0x09 | 0x0A | 0x0C | 0x10 | 0x24 => zero 0 18
  | 0x02 | 0x04 | 0x07 | 0x08 | 0x0B | 0x0D | 0x11 => zero 8 14
  | 0x0E | 0x0F => zero 3 19
  | 0x12 | 0x13 => zero 12 8
  | 0x14 => true
  | 0x15 => zero 0 18 && zero 22 2
  | 0x16 => zero 16 8
  | 0x17 => zero 14 8 && field w 22 4 ≤ 6
  | 0x1B => zero 8 5 && !zero 0 8
  | 0x22 => zero 0 17 && 3 ≤ field w 22 4 && field w 22 4 ≤ 5
  | 0x25 | 0x27 => zero 14 4
  | 0x29 => zero 20 6
  | 0x2F => zero 10 16
  | _ => false

/-- Bus instructions other than DLY (rule 7). -/
def wordBus (w : U32) : Bool := [0x22, 0x24, 0x25, 0x26, 0x27].contains (wOp w)

/-- The word can branch: BR, or a wait with a mask. -/
def wBranch (w : U32) : Bool := wOp w == 0x17 || ((wOp w == 0x25 || wOp w == 0x27) && field w 18 8 != 0)
/-- The word can go on with the next one. -/
def wFalls (w : U32) : Bool :=
  !(wOp w == 0x2F || (wOp w == 0x17 && field w 22 4 == 0) || ((wOp w == 0x25 || wOp w == 0x27) && field w 18 8 == 255))
/-- The branch goes forward: its signed offset is at least 1. -/
def wForward (w : U32) : Bool := 1 ≤ field w 0 14 && field w 0 14 < 0x2000
def wTarget (i : Nat) (w : U32) : Nat := i + field w 0 14
/-- Last word of a LOOP body, and its worst count (R249). -/
def wLoop (w : U32) : Bool := wOp w == 0x1B
def wLast (i : Nat) (w : U32) : Nat := i + field w 0 8
def wCount (w : U32) : Nat := if bit w 25 then 255 else field w 13 8

/-- The words that a hook reaches: all branches go forward, so one pass finds them. -/
def reach (ws : List U32) (entry : Nat) : List Nat :=
  ws.zipIdx.foldl (fun (r : List Nat) (e : U32 × Nat) =>
    if r.contains e.2 then
      r ++ (if wFalls e.1 then [e.2 + 1] else []) ++ (if wBranch e.1 then [wTarget e.2 e.1] else [])
        ++ (if wLoop e.1 then [wLast e.2 e.1 + 1] else [])
    else r) [entry]

/-- LOOP bodies lie within their hook, nest properly, and not more than 2 deep (rule 5). `rs` are the words that each hook
reaches. -/
def loopsOk (ws : List U32) (rs : List (List Nat)) : Bool :=
  let ls := ws.zipIdx.filterMap fun e => if wLoop e.1 then some (e.2, wLast e.2 e.1) else none
  let inside := fun (a b : Nat × Nat) => b.1 < a.1 && a.1 ≤ b.2
  ls.all fun a =>
    decide (a.2 < ws.length)
      && (ls.all fun b => !inside a b || a.2 ≤ b.2)
      && (ls.filter fun b => inside a b).length ≤ 1
      && rs.all fun r => r.contains a.1 || r.all fun i => !(a.1 < i && i ≤ a.2)
        || !(rs.any fun q => q.contains a.1)

/-! ### Worst-case time (R249; log 67) -/

/-- A path: its cycles without the first wait, its line time without that wait, the line time queued before the first
wait, whether it waits, and what it queues after its last wait. Times in 0.1 ns. -/
structure PathCost where
  cyc : Nat := 0
  line : Nat := 0
  pre : Nat := 0
  waits : Bool := false
  post : Nat := 0
deriving DecidableEq, Repr

/-- Waiting cycles of a time in 0.1 ns: ⌈0.8 t⌉, t in ns. -/
def waitCycles (t : Nat) : Nat := cdiv (t * 2) 25

/-- One path behind another: what the first has queued is waited for by the second's first wait. -/
def PathCost.seq (g : Gen) (a b : PathCost) : PathCost :=
  if b.waits then
    if a.waits then
      let t := costTO g + a.post + b.pre
      { cyc := a.cyc + b.cyc + waitCycles t, line := a.line + b.line + t, pre := a.pre, waits := true, post := b.post }
    else { cyc := a.cyc + b.cyc, line := a.line + b.line, pre := a.pre + b.pre, waits := true, post := b.post }
  else if a.waits then { a with cyc := a.cyc + b.cyc, line := a.line + b.line, post := a.post + b.pre }
  else { cyc := a.cyc + b.cyc, line := a.line + b.line, pre := a.pre + b.pre }

/-- Cycles and line time of a whole path. -/
def PathCost.close (g : Gen) (a : PathCost) : Nat × Nat :=
  let t := if a.waits then costTO g + a.pre else 0
  (a.cyc + waitCycles t, a.line + t)

/-- A path is no longer than another, whatever is queued before it and waits after it. -/
def PathCost.within (y x : PathCost) : Bool :=
  x.waits == y.waits && decide (y.cyc ≤ x.cyc ∧ y.line ≤ x.line ∧ y.pre ≤ x.pre ∧ y.post ≤ x.post)

/-- Of some paths, those that can be the longest once the whole path is known. -/
def worstOf (l : List PathCost) : List PathCost :=
  l.foldl (fun r y => if r.any y.within then r else y :: r.filter fun x => !x.within y) []

/-- What one word costs, besides branches. -/
def wordCost (g : Gen) (w : U32) : PathCost :=
  let queued := fun (c t : Nat) => ({ cyc := c, line := t, pre := t } : PathCost)
  match wOp w with
  | 0x12 | 0x13 | 0x1B | 0x2F => { cyc := 2 }
  | 0x22 => queued 3 (costK g)
  | 0x24 => queued 2 ((if serdes g then 16 else 1) * (costG g + costD g (maxPayload g)))
  | 0x26 => queued 2 (costK g)
  | 0x25 | 0x27 => { cyc := 2, waits := true }
  | 0x29 =>
    let t := field w 0 20 * bitTime g
    { cyc := 2 + waitCycles t, line := t }
  | _ => { cyc := 1 }

/-- Each path of one list behind each of another. -/
def seqAll (g : Gen) (a b : List PathCost) : List PathCost := worstOf (a.flatMap fun x => b.map (PathCost.seq g x))

/-- The paths that a body makes `n` times over. -/
def repeatPaths (g : Gen) (a : List PathCost) : Nat → List PathCost
  | 0 => [{}]
  | n + 1 => seqAll g (repeatPaths g a n) a

/-- The ways on from a word that can be the longest: to the end of each LOOP body that it stands in, innermost first, and
to SRET. None where a path leaves the code. -/
def paths (g : Gen) (ws : List U32) : Nat → List Nat → Nat → Option (List (List PathCost))
  | 0, _, _ => none
  | fuel + 1, ctx, i =>
    match ws[i]? with
    | none => none
    | some w =>
      let blank : List (List PathCost) := List.replicate (ctx.length + 1) []
      let join := fun (a b : List (List PathCost)) => List.zipWith (fun x y => worstOf (x ++ y)) a b
      let after := fun (c : List PathCost) (l : List (List PathCost)) => l.map (seqAll g c)
      -- leaving a body for a word behind it
      let goTo := fun (t : Nat) =>
        let rest := ctx.dropWhile fun b => b < t
        (paths g ws fuel rest t).map fun l => List.replicate (ctx.length - rest.length) [] ++ l
      -- the word behind word j, or the end of the innermost body
      let fall := fun (j : Nat) =>
        if ctx.head? == some j then some ([({} : PathCost)] :: blank.drop 1) else goTo (j + 1)
      let c := [wordCost g w]
      if wOp w == 0x2F then some (blank.dropLast ++ [c])
      else if wLoop w then
        let b := wLast i w
        match fall b, paths g ws fuel (b :: ctx) (i + 1) with
        | some done, some (stay :: out) =>
          let n := wCount w
          if n = 0 then some (after c done)
          else some (join (after (seqAll g c (repeatPaths g stay n)) done)
            (after (seqAll g c (repeatPaths g stay (n - 1))) out))
        | _, _ => none
      else
        let on := if wFalls w then (fall i).map (after c) else some blank
        let taken := if wBranch w then
            (goTo (wTarget i w)).map (after (if wOp w == 0x17 then [{ cyc := 2 }] else c))
          else some blank
        match on, taken with
        | some x, some y => some (join x y)
        | _, _ => none

/-- The longer of two whole paths: by cycles, then by line time. -/
def longer (a b : Nat × Nat) : Nat × Nat := if a.1 < b.1 || (a.1 == b.1 && a.2 < b.2) then b else a

/-- The longest path of a hook. -/
def hookCost (g : Gen) (ws : List U32) (entry : Nat) : Option (Nat × Nat) :=
  match paths g ws (ws.length + 1) [] entry with
  | some [x :: l] => some ((l.map (PathCost.close g)).foldl longer (PathCost.close g x))
  | _ => none

/-! ### The check rules (R248) -/

/-- The declared hooks' entries. -/
def imgEntries (b : List Byte) : List Nat := ((List.range 3).filter (imgHook b)).map (imgEntry b)

/-- Rule 1, with the ranges of the header's fields (log 66). -/
def rule1 (b : List Byte) : Bool :=
  b.take 4 == [0x4F, 0x58, 0x53, 0x43] && imgByte b 4 == 1 && imgByte b 5 < 8 && imgField b 14 2 == 0
    && imgByte b 25 < 2 && imgField b 26 2 == 0 && imgByte b 24 < 32
    && 1 ≤ imgField b 6 2 && imgField b 6 2 ≤ 4096 && b.length == 32 + 4 * imgField b 6 2
    && 1 ≤ imgField b 16 4 && imgField b 16 4 ≤ 65535 && imgField b 20 4 ≤ 1000000
    && imgField b 28 4 == (crc32 (b.take 28 ++ zeros 4 ++ b.drop 32)).toNat

/-- Rule 2. -/
def rule2 (b : List Byte) : Bool :=
  (List.range 3).all fun k =>
    if imgHook b k then decide (imgEntry b k < imgField b 6 2) else imgEntry b k == 0xFFFF

/-- The words that each declared hook reaches. -/
def imgReach (b : List Byte) : List (List Nat) := (imgEntries b).map (reach (imgWords b))

/-- Rule 4: branches go forward within the code, and hooks share no word (log 66). -/
def rule4 (b : List Byte) : Bool :=
  let ws := imgWords b
  let rs := imgReach b
  (ws.zipIdx.all fun e => !wBranch e.1 || (wForward e.1 && wTarget e.2 e.1 < ws.length))
    && rs.zipIdx.all fun x => rs.zipIdx.all fun y => x.2 == y.2 || x.1.all fun i => !y.1.contains i || ws.length ≤ i

/-- The computed cycles and line time in ns, over all declared hooks (R249). -/
def imgCost (b : List Byte) : Option (Nat × Nat) :=
  let g := slowest (imgByte b 24)
  (imgEntries b).foldl (fun a e => match a, hookCost g (imgWords b) e with
    | some x, some y => some (x.1 + y.1, x.2 + y.2)
    | _, _ => none) (some (0, 0)) |>.map fun x => (x.1, cdiv x.2 10)

/-- The first rule that an image fails, 0 for none, with the computed cycles and line time. Rule 7 is checked at
binding, since a script that is not bound serves no device. -/
def checkImage (b : List Byte) : Nat × Nat × Nat :=
  if !rule1 b then (1, 0, 0)
  else if !rule2 b then (2, 0, 0)
  else if !(imgWords b).all wordOk then (3, 0, 0)
  else if !rule4 b then (4, 0, 0)
  else if !loopsOk (imgWords b) (imgReach b) then (5, 0, 0)
  else match imgCost b with
    | none => (6, 0, 0)
    | some (c, l) => if imgField b 16 4 < c || imgField b 20 4 < l then (8, c, l) else (0, c, l)

/-! ### Commands (R250, R251) -/

/-- The 16-byte reply body. -/
def scriptReply (res rule cyc line : Nat) : List Byte :=
  [BitVec.ofNat 8 res, BitVec.ofNat 8 rule, 0, 0] ++ natLE 4 cyc ++ natLE 4 line ++ zeros 4

/-- The lowest free run of script words. -/
def scriptSpace (s : State) (n : Nat) : Option Nat :=
  let used := s.eng.scripts.map fun e => (e.2.base, e.2.base + e.2.words)
  let starts := 0x2000 :: used.map Prod.snd
  let ok := starts.filter fun a => decide (a + n ≤ 0x3000) && used.all fun u => a + n ≤ u.1 || u.2 ≤ a
  ok.min?

/-- The script of an image. -/
def scriptFrom (b : List Byte) (base : Nat) : Script :=
  { base := base, words := imgField b 6 2, hooks := BitVec.ofNat 8 (imgByte b 5),
    entries := (List.range 3).map (imgEntry b), wcCycles := imgField b 16 4, wcLineNs := imgField b 20 4,
    gens := BitVec.ofNat 8 (imgByte b 24), flags := BitVec.ofNat 8 (imgByte b 25),
    bus := (imgWords b).any wordBus }

/-- SCRIPT_LOAD: 0 is no script's number (log 65). -/
def scriptLoadOp (ctx : CmdCtx) (number : Nat) (image : List Byte) (s : State) : State :=
  let s := begun ctx 0x50 s
  let answer := fun (r rule c l : Nat) (s : State) => reply ctx 0x50 (scriptReply r rule c l) s
  if sender ctx.chan != 0 then answer 0x0B 0 0 0 s
  else if number = 0 || (tfind s.eng.scripts number).isSome then answer 0x01 0 0 0 s
  else
    let k := checkImage image
    if k.1 != 0 then answer 0x03 k.1 k.2.1 k.2.2 s
    else match scriptSpace s (imgField image 6 2) with
      | none => answer 0x02 0 k.2.1 k.2.2 s
      | some a =>
        let mem := (imgWords image).zipIdx.foldl (fun m e => tput m (a + e.2) e.1) s.eng.imem
        answer 0 0 k.2.1 k.2.2 { s with eng := { s.eng with
          imem := mem, scripts := tput s.eng.scripts number (scriptFrom image a) } }

/-- A device is bound to the script, or an identity rule names it. -/
def scriptBound (s : State) (n : Nat) : Bool :=
  (s.topo.dev.any fun e => e.2.script == n) || s.eng.rules.any fun r => r.number == n

/-- SCRIPT_UNLOAD. -/
def scriptUnloadOp (ctx : CmdCtx) (number : Nat) (s : State) : State :=
  let s := begun ctx 0x51 s
  let answer := fun (r : Nat) (s : State) => reply ctx 0x51 (scriptReply r 0 0 0) s
  if sender ctx.chan != 0 then answer 0x0B s
  else if (tfind s.eng.scripts number).isNone then answer 0x04 s
  else if scriptBound s number then answer 0x05 s
  else answer 0 { s with eng := { s.eng with scripts := tdel s.eng.scripts number } }

/-- Gives a device a script, 0 for none, in all its contexts; a service or visit in progress keeps what it began with
(R251). -/
def setScript (num n : Nat) (s : State) : State :=
  let s := modDev num (fun d => { d with script := n }) s
  let s := { s with topo := { s.topo with ctx := s.topo.ctx.map fun e =>
      (e.1, if e.1 / 32 == num then { e.2 with script := n } else e.2) } }
  each ((tkeys s.topo.ctx).filter fun k => k / 32 == num) refreshWin s

/-- The identity rule of a body. -/
def ruleOf (b : BindBody) : IdRule := ⟨b.number.toNat, b.vendor, b.product, b.revision⟩

/-- What bars a change to a device's binding (R251). -/
def bindDevBar (s : State) (h : U16) : Option Nat :=
  if !handleCurrent s h then some 0x09
  else match dev? s (field h 0 12) with
    | some d => if d.isHub then some 0x0A else if hasReservation s (field h 0 12) then some 0x06 else none
    | none => some 0x09

/-- SCRIPT_BIND. -/
def scriptBindOp (ctx : CmdCtx) (b : BindBody) (s : State) : State :=
  let s := begun ctx 0x52 s
  let answer := fun (r : Nat) (s : State) => reply ctx 0x52 (scriptReply r 0 0 0) s
  if sender ctx.chan != 0 then answer 0x0B s
  else match tfind s.eng.scripts b.number.toNat with
    | none => answer 0x04 s
    | some c =>
      if b.byIdentity = 0 then
        match bindDevBar s b.handle, dev? s (field b.handle 0 12) with
        | some r, _ => answer r s
        | none, some d =>
          (match bindBar d c with
            | some r => answer r s
            | none => answer 0 (setScript (field b.handle 0 12) b.number.toNat s))
        | none, none => answer 0x09 s
      else if 64 ≤ s.eng.rules.length then answer 0x0C s
      else answer 0 { s with eng := { s.eng with rules := s.eng.rules ++ [ruleOf b] } }

/-- SCRIPT_UNBIND. -/
def scriptUnbindOp (ctx : CmdCtx) (b : BindBody) (s : State) : State :=
  let s := begun ctx 0x53 s
  let answer := fun (r : Nat) (s : State) => reply ctx 0x53 (scriptReply r 0 0 0) s
  if sender ctx.chan != 0 then answer 0x0B s
  else if (tfind s.eng.scripts b.number.toNat).isNone then answer 0x04 s
  else if b.byIdentity = 0 then
    match bindDevBar s b.handle, dev? s (field b.handle 0 12) with
    | some r, _ => answer r s
    | none, some d =>
      answer 0 (if d.script = b.number.toNat then setScript (field b.handle 0 12) 0 s else s)
    | none, none => answer 0x09 s
  else answer 0 { s with eng := { s.eng with rules := s.eng.rules.filter (· != ruleOf b) } }

/-- SCRIPT_LOAD (R248). -/
def execScriptLoad (ctx : CmdCtx) (number : Byte) (image : List Byte) (s : State) :
    Host.Outcome State Fault Refusal := guarded (live s) s (scriptLoadOp ctx number.toNat image)

/-- SCRIPT_UNLOAD (R250). -/
def execScriptUnload (ctx : CmdCtx) (number : Byte) (s : State) : Host.Outcome State Fault Refusal :=
  guarded (live s) s (scriptUnloadOp ctx number.toNat)

/-- SCRIPT_BIND (R251). -/
def execScriptBind (ctx : CmdCtx) (body : BindBody) (s : State) : Host.Outcome State Fault Refusal :=
  guarded (live s) s (scriptBindOp ctx body)

/-- SCRIPT_UNBIND (R251). -/
def execScriptUnbind (ctx : CmdCtx) (body : BindBody) (s : State) : Host.Outcome State Fault Refusal :=
  guarded (live s) s (scriptUnbindOp ctx body)

end Sys2Proof.Machine
end

