-- ==== Sys2Proof/Machine/Buffers.lean ====
section
/-! DEFINITION. The commands of the queue front end, the completion path, the DMA engine and the buffer memory (R41,
R234, R254 to R317). -/

namespace Sys2Proof.Machine

/-! ### Doorbells, fetch and kicks -/

/-- DOORBELL_BLOCK_READ_DONE (R41, R267, R515): the records of a block that this sweep asked for. A failed block counts
as not read. -/
def execDoorbellBlockReadDone (f : FuncId) (block : Fin 512) (ok : Bool) (records : List U32) (s : State) :
    Host.Outcome State Fault Refusal :=
  guarded (serves s && s.front.sweep.contains (f.val, block.val)) s fun s =>
    let s := { s with front := { s.front with sweep := s.front.sweep.filter (· != (f.val, block.val)) } }
    if ok then sweepHandles (doorbellRecords f.val block.val 0 (records.take 16) s) else emit (.aer f.val) s

/-- SQ_ENTRY_FETCHED (R271, R273): the entry that the front end reads next from the SQ. -/
def execSqEntryFetched (f : FuncId) (q : Fin 4096) (ok : Bool) (raw : BitVec 256) (s : State) :
    Host.Outcome State Fault Refusal :=
  guarded (serves s && (sq s f.val q.val).reading) s (fetchEntry f.val q.val ok raw)

/-- Q_KICK_SQ (R269): seen at the start of this microframe. -/
def execQKickSq (f : FuncId) (q : Fin 4096) (index : U16) (s : State) : Host.Outcome State Fault Refusal :=
  guarded (hostReaches s f.val && sqLive s f.val q.val) s fun s => sweepHandles (acceptP f.val q.val index (absUframe s) s)

/-- Q_KICK_SQ_INVAL (R272). -/
def execQKickSqInval (f : FuncId) (q : Fin 4096) (index : U16) (s : State) : Host.Outcome State Fault Refusal :=
  guarded (hostReaches s f.val && sqLive s f.val q.val) s fun s => sweepHandles (kickInval f.val q.val index (absUframe s) s)

/-- Q_KICK_CR (R269, R277). -/
def execQKickCr (f : FuncId) (r : Fin 4096) (index : U16) (s : State) : Host.Outcome State Fault Refusal :=
  guarded (hostReaches s f.val && crLive s f.val r.val) s fun s => sweepHandles (acceptC f.val r.val index (absUframe s) s)

/-! ### Queue operations (R257 to R259) -/

/-- The function has written the operation to `Q.CMD`. -/
def opAsked (s : State) (f op : Nat) : Bool := live s && (fn s f).busy && (fn s f).op == op

/-- Q_CREATE (R258). -/
def execQCreate (f : FuncId) (s : State) : Host.Outcome State Fault Refusal :=
  guarded (opAsked s f.val 1) s (createQueue f.val)

/-- Q_DESTROY (R259); a destroyed SQ counts as passed for the reuse of handle numbers (R93). -/
def execQDestroy (f : FuncId) (s : State) : Host.Outcome State Fault Refusal :=
  guarded (opAsked s f.val 2) s fun s =>
    let x := fn s f.val
    let gone := destroyResult s f.val == 0 && !selCr x
    let s := destroyQueue f.val s
    sweepHandles (if gone then forgetSq f.val (selNum x) s else s)

/-- Q_READ (R257). -/
def execQRead (f : FuncId) (s : State) : Host.Outcome State Fault Refusal :=
  guarded (opAsked s f.val 3) s (readQueue f.val)

/-- COMPLETION_RELEASE (R35, R225, R300). -/
def execCompletionRelease (item : Nat) (s : State) : Host.Outcome State Fault Refusal :=
  guarded (live s) s fun s => sweepHandles (releaseItem item s)

/-- QUEUE_STOP (R292). -/
def execQueueStop (ctx : CmdCtx) (q : U16) (s : State) : Host.Outcome State Fault Refusal :=
  guarded (live s) s (queueStopCmd ctx q.toNat)

/-- QUEUE_START (R292). -/
def execQueueStart (ctx : CmdCtx) (q : U16) (s : State) : Host.Outcome State Fault Refusal :=
  guarded (live s) s (queueStartCmd ctx q.toNat)

/-! ### Context backing -/

/-- No port is enabled and no context is open. DEDUCED: a port whose ENABLE has been taken counts as enabled before a
device is attached to it (log 107). -/
def ctxUnused (s : State) : Bool := (s.topo.port.all fun e => !e.2.enabled && !e.2.admin) && s.topo.ctx.isEmpty

/-- Writes `DSP.CTX_CTL` (R234): ports that waited for EN are enabled, in ascending order. -/
def ctxCtlWrite (v : U32) (s : State) : State :=
  if bit v 0 then
    if s.front.ctxBase = 0 || s.front.ctxEn then s
    else
      let s := { s with front := { s.front with ctxEn := true } }
      each (List.finRange 64) (fun p s =>
        if (port s p.val).wantEnable then portEnableOp p (modPort p.val (fun x => { x with wantEnable := false }) s)
        else s) s
  else if ctxUnused s then { s with front := { s.front with ctxEn := false } }
  else s

/-- DSP_CTX_CTL_WRITE (R234). -/
def execDspCtxCtlWrite (value : U32) (s : State) : Host.Outcome State Fault Refusal :=
  guarded (hostReaches s 0) s (ctxCtlWrite value)

/-! ### DMA -/

/-- The lanes with something queued go on: staged data or room may have come (R240, R299). -/
def lanesOn (s : State) : State :=
  each ((s.topo.port.filter fun e => !e.2.lane.isEmpty).map Prod.fst) runLane s

/-- DMA_REQUEST (R296, R301, R302): one burst; `cut` is the beat in which a request of a lower class comes, 0 for none. A
part that hands over has stopped its DMA (R404). -/
def execDmaRequest (cut : Nat) (s : State) : Host.Outcome State Fault Refusal :=
  guarded (serves s) s fun s => lanesOn (dmaServe cut s)

/-- DMA_READ_COMPLETION (R299). -/
def execDmaReadCompletion (ch : Fin 144) (timed : Bool) (ok : Bool) (data : List Byte) (s : State) :
    Host.Outcome State Fault Refusal := guarded (live s) s fun s => lanesOn (readDone (ctxOf ch.val timed) ok data s)

/-- The transfer for which a context is armed has no more data to bring. -/
def armedOver (s : State) (key : Nat) : Bool :=
  match workItem s (chan s key).work with
  | some i => (match item? s i with | some x => x.ended | none => true)
  | none => true

/-- A context has drained: threads that wait for it in DRN go on, and a context whose transfer's data has ended is no
longer armed. -/
def drained (key : Nat) (s : State) : State :=
  let go := fun (t : Thread) => if t.wait == .drn && t.armed == some key then advance { t with wait := .running } else t
  let s := { s with eng := { s.eng with eng := s.eng.eng.map fun e => (e.1, { e.2 with run := e.2.run.map go }) } }
  if armedOver s key then modChan key (fun c => { c with state := .idle, work := .none_ }) s else s

/-- DRAIN_COMPLETE (R300, R310). -/
def execDrainComplete (ch : Fin 144) (timed : Bool) (s : State) : Host.Outcome State Fault Refusal :=
  guarded (live s && chanDrained s (ctxOf ch.val timed)) s (drained (ctxOf ch.val timed))

/-- INDEX_TABLE_READ_DONE (R305). -/
def execIndexTableReadDone (item first : Nat) (ok : Bool) (bytes : List Byte) (s : State) :
    Host.Outcome State Fault Refusal := guarded (live s) s (idxRead item first ok bytes)

/-! ### Buffer memory -/

/-- BUF_CARVE (R311). -/
def execBufCarve (ctx : CmdCtx) (handle : U16) (epaddr : Byte) (s : State) : Host.Outcome State Fault Refusal :=
  guarded (live s) s (bufCarveCmd ctx handle epaddr)

/-- BUF_RELEASE (R311). -/
def execBufRelease (ctx : CmdCtx) (handle : U16) (epaddr : Byte) (s : State) : Host.Outcome State Fault Refusal :=
  guarded (live s) s (bufReleaseCmd ctx handle epaddr)

/-- BUF_RELEASE_COMPLETE (R311): no granted item, and the pages have drained. -/
def execBufReleaseComplete (f : FuncId) (handle : U16) (epaddr : Byte) (s : State) :
    Host.Outcome State Fault Refusal := guarded (live s) s (bufReleaseFinish f.val handle epaddr)

/-- No open item stages data in a page: the scrub of a reset follows the end of the function's transactions
(R346). -/
def pageQuiet (s : State) (page : Nat) : Bool :=
  s.front.items.all fun e => e.2.status.isSome || !e.2.pages.contains page

/-- PAGE_SCRUB_DONE (R313). -/
def execPageScrubDone (page : Fin 3950) (s : State) : Host.Outcome State Fault Refusal :=
  guarded (live s && pageQuiet s page.val) s (scrubbed page.val)

/-- A scrub visit of a word (R314): an error is counted against its page; a word that cannot be corrected is known as
such until its page is zeroed. -/
def scrubVisit (page word : Nat) (bad : EccResult) (s : State) : State :=
  match bad with
  | .good => s
  | .correctable => countError 0 page 0 s
  | .uncorrectable =>
    let s := { s with dma := { s.dma with bad := s.dma.bad ++ [(page, word)] } }
    countError 0 page 1 s

/-- ECC_SCRUB_VISIT (R314). -/
def execEccScrubVisit (page : Fin 4014) (word : Fin 512) (bad : EccResult) (s : State) :
    Host.Outcome State Fault Refusal := guarded (live s) s (scrubVisit page.val word.val bad)

end Sys2Proof.Machine
end

