-- ==== Sys2Proof/Machine/EngineIsa.lean ====
section
/-! DEFINITION. The arithmetic, memory and control-flow instructions of an ox engine (R215, R236, R237, R239, R243). -/

namespace Sys2Proof.Machine

/-! ### Byte operations -/

/-- An operation on bytes that writes a register and the flags. -/
def aluOp (e : EngId) (rd : Fin 16) (f : Thread → Byte × Flags) (s : State) : Host.Outcome State Fault Refusal :=
  instruction e .ms 1 (fun t s =>
    let r := f t
    setRun e.val (advance (setB rd.val r.1 (setFlags r.2 t))) s) s

/-- A free C, for a shift by 0 (log 52). -/
def freeBit (s : State) : Bool × State :=
  let i := freshIndex s
  (bit (Config.freeWord i.1) 0, i.2)

/-- A shift: with a count of 0 no bit leaves, and C is a free value. -/
def shiftOp (e : EngId) (rd : Fin 16) (n : Fin 8) (f : Byte → Nat → Bool → Byte × Flags) (s : State) :
    Host.Outcome State Fault Refusal :=
  instruction e .ms 1 (fun t s =>
    let c := if n.val = 0 then freeBit s else (false, s)
    let r := f (breg t rd.val) n.val c.1
    setRun e.val (advance (setB rd.val r.1 (setFlags r.2 t))) c.2) s

/-- NOP. -/
def execNop (e : EngId) (s : State) : Host.Outcome State Fault Refusal :=
  instruction e .ms 1 (fun t s => setRun e.val (advance t) s) s
/-- MOV leaves the flags unchanged. -/
def execMov (e : EngId) (rd rs : Fin 16) (s : State) : Host.Outcome State Fault Refusal :=
  instruction e .ms 1 (fun t s => setRun e.val (advance (setB rd.val (breg t rs.val) t)) s) s
/-- MOVI leaves the flags unchanged. -/
def execMovi (e : EngId) (rd : Fin 16) (imm : Byte) (s : State) : Host.Outcome State Fault Refusal :=
  instruction e .ms 1 (fun t s => setRun e.val (advance (setB rd.val imm t)) s) s
/-- ADD. -/
def execAdd (e : EngId) (rd rs : Fin 16) (s : State) : Host.Outcome State Fault Refusal :=
  aluOp e rd (fun t => addFlags (breg t rd.val) (breg t rs.val) false) s
/-- ADDI. -/
def execAddi (e : EngId) (rd : Fin 16) (imm : Byte) (s : State) : Host.Outcome State Fault Refusal :=
  aluOp e rd (fun t => addFlags (breg t rd.val) imm false) s
/-- ADC. -/
def execAdc (e : EngId) (rd rs : Fin 16) (s : State) : Host.Outcome State Fault Refusal :=
  aluOp e rd (fun t => addFlags (breg t rd.val) (breg t rs.val) t.c) s
/-- SUB. -/
def execSub (e : EngId) (rd rs : Fin 16) (s : State) : Host.Outcome State Fault Refusal :=
  aluOp e rd (fun t => subFlags (breg t rd.val) (breg t rs.val)) s
/-- SUBI. -/
def execSubi (e : EngId) (rd : Fin 16) (imm : Byte) (s : State) : Host.Outcome State Fault Refusal :=
  aluOp e rd (fun t => subFlags (breg t rd.val) imm) s
/-- ANDI. -/
def execAndi (e : EngId) (rd : Fin 16) (imm : Byte) (s : State) : Host.Outcome State Fault Refusal :=
  aluOp e rd (fun t => logicFlags (breg t rd.val &&& imm)) s
/-- AND. -/
def execAnd (e : EngId) (rd rs : Fin 16) (s : State) : Host.Outcome State Fault Refusal :=
  aluOp e rd (fun t => logicFlags (breg t rd.val &&& breg t rs.val)) s
/-- OR. -/
def execOr (e : EngId) (rd rs : Fin 16) (s : State) : Host.Outcome State Fault Refusal :=
  aluOp e rd (fun t => logicFlags (breg t rd.val ||| breg t rs.val)) s
/-- ORI. -/
def execOri (e : EngId) (rd : Fin 16) (imm : Byte) (s : State) : Host.Outcome State Fault Refusal :=
  aluOp e rd (fun t => logicFlags (breg t rd.val ||| imm)) s
/-- XOR. -/
def execXor (e : EngId) (rd rs : Fin 16) (s : State) : Host.Outcome State Fault Refusal :=
  aluOp e rd (fun t => logicFlags (breg t rd.val ^^^ breg t rs.val)) s
/-- XORI. -/
def execXori (e : EngId) (rd : Fin 16) (imm : Byte) (s : State) : Host.Outcome State Fault Refusal :=
  aluOp e rd (fun t => logicFlags (breg t rd.val ^^^ imm)) s
/-- SHL. -/
def execShl (e : EngId) (rd : Fin 16) (n : Fin 8) (s : State) : Host.Outcome State Fault Refusal :=
  shiftOp e rd n shlFlags s
/-- SHR. -/
def execShr (e : EngId) (rd : Fin 16) (n : Fin 8) (s : State) : Host.Outcome State Fault Refusal :=
  shiftOp e rd n shrFlags s
/-- CMP: the flags only. -/
def execCmp (e : EngId) (rd rs : Fin 16) (s : State) : Host.Outcome State Fault Refusal :=
  instruction e .ms 1 (fun t s =>
    setRun e.val (advance (setFlags (subFlags (breg t rd.val) (breg t rs.val)).2 t)) s) s
/-- CMPI. -/
def execCmpi (e : EngId) (rd : Fin 16) (imm : Byte) (s : State) : Host.Outcome State Fault Refusal :=
  instruction e .ms 1 (fun t s => setRun e.val (advance (setFlags (subFlags (breg t rd.val) imm).2 t)) s) s

/-! ### Loads and stores (R243; log 42) -/

/-- The bytes of the entry that a thread's work runs; zeros for a service without one. -/
def entryByte (s : State) (t : Thread) (i : Nat) : Byte :=
  match workItem s t.work with
  | some k => match item? s k with
    | some x => if x.posted.isSome then 0 else BitVec.ofNat 8 (field x.raw (8 * i) 8)
    | none => 0
  | none => 0

/-- The context at an offset of the window at 0x20_0000: of the same device, by endpoint and direction. -/
def siblingCtx (s : State) (t : Thread) (off : Nat) : Nat :=
  ctxKey (field (workHandle s t.work) 0 12) (off / 64 / 2) (off / 64 % 2 == 1)

/-- A byte of the context window. -/
def windowByte (s : State) (t : Thread) (i : Nat) : Byte :=
  mget (if t.win.isEmpty then windowOf s t.work else t.win) i

/-- A script reads a byte: the byte, or the cause of a sandbox fault. -/
def scriptLoad (e : Nat) (t : Thread) (a : Nat) (s : State) : Byte ⊕ Nat :=
  if a < 0x100 then .inl (mget (eng s e).scratch a)
  else if 0x100000 ≤ a && a < 0x100040 then .inl (windowByte s t (a - 0x100000))
  else if 0x180000 ≤ a && a < 0x180020 then .inl (entryByte s t (a - 0x180000))
  else if 0x200000 ≤ a && a < 0x200800 then
    if isServiceWork t.work then .inl 0
    else match tfind s.topo.ctx (siblingCtx s t (a - 0x200000)) with
      | some c => if c.isOpen then .inl ((ctxBytes c).getD (a % 64) 0) else .inr 2
      | none => .inr 2
  else .inr 2

/-- The fields of a context that a script may write: SEQ and SCRIPT_STATE (R243). -/
def scriptMay (i : Nat) : Bool := i == 7 || (48 ≤ i && i < 64)

/-- A script writes a byte of its own context: the window, and SEQ or SCRIPT_STATE behind it. -/
def storeOwn (e i : Nat) (v : Byte) (t : Thread) (s : State) : State :=
  let m := mput (if t.win.isEmpty then windowOf s t.work else t.win) i v
  let s := setRun e (advance { t with win := m }) s
  match t.work with
  | .service r => modPstate r (fun p =>
      { p with seq := (mget m 7).setWidth 5, scriptState := mwrite [] 0 (mread m 48 16) }) s
  | w => modCtx (workCtx s w) (fun c =>
      { c with seq := (mget m 7).setWidth 5, scriptState := mwrite [] 0 (mread m 48 16) }) s

/-- A script writes a byte. -/
def scriptStore (e a : Nat) (v : Byte) (t : Thread) (s : State) : State :=
  if a < 0x100 then
    modEng e (fun x => { x with scratch := mput x.scratch a v }) (setRun e (advance t) s)
  else if 0x100000 ≤ a && a < 0x100040 then
    if scriptMay (a - 0x100000) then storeOwn e (a - 0x100000) v t s else scriptStop e 3 s
  else if 0x180000 ≤ a && a < 0x180020 then scriptStop e 3 s
  else if 0x200000 ≤ a && a < 0x200800 then
    let k := siblingCtx s t (a - 0x200000)
    match tfind s.topo.ctx k with
    | some c =>
      if isServiceWork t.work then scriptStop e 3 s
      else if !c.isOpen then scriptStop e 2 s
      else if !scriptMay (a % 64) then scriptStop e 3 s
      else if k = workCtx s t.work then storeOwn e (a % 64) v t s
      else
        let m := mput (mwrite [] 0 (ctxBytes c)) (a % 64) v
        setCtx (setRun e (advance t) s) k
          { c with seq := (mget m 7).setWidth 5, scriptState := mwrite [] 0 (mread m 48 16) }
    | none => scriptStop e (if isServiceWork t.work then 3 else 2) s
  else scriptStop e 2 s

/-- The microcode reads a byte: data memory at 0, the context window, the entry. -/
def coreLoad (e : Nat) (t : Thread) (a : Nat) (s : State) : Option Byte :=
  if a < 0x4000 then some (mget (eng s e).dmem a)
  else if 0x100000 ≤ a && a < 0x100040 then some (windowByte s t (a - 0x100000))
  else if 0x180000 ≤ a && a < 0x180020 then some (entryByte s t (a - 0x180000))
  else none

/-- The microcode writes a byte: data memory or the context window. -/
def coreStore (e a : Nat) (v : Byte) (t : Thread) (s : State) : State :=
  if a < 0x4000 then modEng e (fun x => { x with dmem := mput x.dmem a v }) (setRun e (advance t) s)
  else if 0x100000 ≤ a && a < 0x100040 then
    setRun e (advance { t with win := mput (if t.win.isEmpty then windowOf s t.work else t.win) (a - 0x100000) v }) s
  else engineFault e s

/-- Pn + offset. -/
def effAddr (t : Thread) (p : Fin 4) (offset : BitVec 12) : Nat := (preg t p.val + offset.setWidth 24).toNat

/-- LDB leaves the flags unchanged. -/
def execLdb (e : EngId) (r : Fin 16) (p : Fin 4) (offset : BitVec 12) (s : State) : Host.Outcome State Fault Refusal :=
  instruction e .ms 2 (fun t s =>
    let a := effAddr t p offset
    if t.script.isSome then
      match scriptLoad e.val t a s with
      | .inl v => setRun e.val (advance (setB r.val v t)) s
      | .inr c => scriptStop e.val c s
    else match coreLoad e.val t a s with
      | some v => setRun e.val (advance (setB r.val v t)) s
      | none => engineFault e.val s) s

/-- STB. -/
def execStb (e : EngId) (r : Fin 16) (p : Fin 4) (offset : BitVec 12) (s : State) : Host.Outcome State Fault Refusal :=
  instruction e .ms 2 (fun t s =>
    let a := effAddr t p offset
    if t.script.isSome then scriptStore e.val a (breg t r.val) t s else coreStore e.val a (breg t r.val) t s) s

/-- LDP. -/
def execLdp (e : EngId) (p : Fin 4) (imm : BitVec 24) (s : State) : Host.Outcome State Fault Refusal :=
  instruction e .ms 1 (fun t s => setRun e.val (advance (setP p.val imm t)) s) s
/-- ADDP. -/
def execAddp (e : EngId) (p : Fin 4) (rs : Fin 16) (s : State) : Host.Outcome State Fault Refusal :=
  instruction e .ms 1 (fun t s =>
    setRun e.val (advance (setP p.val (preg t p.val + (breg t rs.val).setWidth 24) t)) s) s
/-- ADDPI: the immediate is signed. -/
def execAddpi (e : EngId) (p : Fin 4) (imm : U16) (s : State) : Host.Outcome State Fault Refusal :=
  instruction e .ms 1 (fun t s => setRun e.val (advance (setP p.val (preg t p.val + imm.signExtend 24) t)) s) s

/-! ### Control flow -/

/-- Cycles of BR for the running thread: 2 taken, 1 not. -/
def brCost (s : State) (e : Nat) (cond : BitVec 4) : Nat :=
  match executing s e with
  | some t => if (condHolds cond.toNat t.z t.n t.c).getD false then 2 else 1
  | none => 1

/-- BR; a reserved condition is a fault (R237, R241, R245). -/
def execBr (e : EngId) (cond : BitVec 4) (offset : BitVec 14) (s : State) : Host.Outcome State Fault Refusal :=
  instruction e .ms (brCost s e.val cond) (fun t s =>
    match condHolds cond.toNat t.z t.n t.c with
    | some true => setRun e.val (branchBy offset t) s
    | some false => setRun e.val (advance t) s
    | none => instrFault e.val 5 t s) s

/-- JMP. -/
def execJmp (e : EngId) (target : BitVec 14) (s : State) : Host.Outcome State Fault Refusal :=
  instruction e .m 2 (fun t s => setRun e.val (jumpTo target t) s) s

/-- A free word address (log 26). -/
def freePc (s : State) : BitVec 14 × State :=
  let i := freshIndex s
  ((Config.freeWord i.1).setWidth 14, i.2)

/-- CALL: the stack is eight deep; what a ninth level leaves on it is a free value (log 26). -/
def execCall (e : EngId) (target : BitVec 14) (s : State) : Host.Outcome State Fault Refusal :=
  instruction e .m 3 (fun t s =>
    let u := advance t
    if t.calls.length < 8 then setRun e.val { u with pc := target, calls := u.pc :: t.calls } s
    else
      let a := freePc s
      setRun e.val { u with pc := target, calls := a.1 :: t.calls.take 7 } a.2) s

/-- RET: from an empty stack execution goes on at a free value (log 26). -/
def execRet (e : EngId) (s : State) : Host.Outcome State Fault Refusal :=
  instruction e .m 3 (fun t s =>
    match t.calls with
    | a :: r => setRun e.val { t with pc := a, calls := r } s
    | [] =>
      let a := freePc s
      setRun e.val { t with pc := a.1 } a.2) s

/-- LOOP: runs the next `len` words as often as the count says; a count of 0 skips them. The loop stack is two deep;
the turns of a third level are a free value (log 26). -/
def execLoop (e : EngId) (inReg : Bool) (rs : Fin 16) (imm : Byte) (len : Byte) (s : State) :
    Host.Outcome State Fault Refusal :=
  instruction e .ms 2 (fun t s =>
    let count := (if inReg then breg t rs.val else imm).toNat
    let first := t.pc + 1
    let last := t.pc + len.setWidth 14
    if count = 0 || len = 0 then
      let x := loopEnd last t.loops
      setRun e.val { t with pc := x.1, loops := x.2 } s
    else if t.loops.length < 2 then
      setRun e.val { t with pc := first, loops := ⟨first, last, count⟩ :: t.loops } s
    else
      let i := freshIndex s
      setRun e.val { t with
        pc := first, loops := ⟨first, last, (Config.freeWord i.1).toNat % 256⟩ :: t.loops.take 1 } i.2) s

end Sys2Proof.Machine
end

