-- ==== Sys2Proof/Machine/Functions.lean ====
section
/-! DEFINITION. Functions, partitioning and isolation (chapter 9): SR-IOV, the function commands, device ownership, the
dirty byte map and function resets. -/

namespace Sys2Proof.Machine

/-! ### The descriptor and its pools (R321, R325, R326) -/

/-- The pool pages of a function: CARVED, ASSIGNED, and those that pass to it through SCRUBBING. -/
def ownedPages (s : State) (f : Nat) : List Nat := pagesWhere s fun p => p.owner == some f && p.state != .free

/-- What all functions hold of a pooled resource. -/
def poolUsed (s : State) (g : Func → Nat) : Nat := ((List.range 128).map fun f => g (fn s f)).sum

/-- The 48 bytes of a function's descriptor as it stands. -/
def descBytes (s : State) (f : Nat) : List Byte :=
  let x := fn s f
  [BitVec.ofNat 8 f, 0] ++ natLE 2 x.nSq ++ natLE 2 x.nCr ++ natLE 2 x.nVec ++ natLE 2 (ownedPages s f).length
    ++ natLE 2 x.quota ++ natLE 4 x.pshare ++ [BitVec.ofNat 8 x.weight, 0] ++ natLE 2 x.spillDepth
    ++ natLE 4 x.spillEntries ++ natLE 8 x.spillBase.toNat ++ zeros 16

/-- The 64-byte reply body: result, offset of the field refused, dispatcher share, descriptor (R326). -/
def funcReply (s : State) (res off f : Nat) : List Byte :=
  [BitVec.ofNat 8 res, BitVec.ofNat 8 off] ++ natLE 2 (if (fn s f).created then share s f else 0) ++ zeros 12 ++ descBytes s f

/-- The refusal of every command but DEV_QUERY by its sender: a VF may send none, and one command at a time is in hand
(R324). -/
def funcBar (s : State) (ctx : CmdCtx) : Nat :=
  if sender ctx.chan != 0 then 1 else if (fn s 0).cmdBusy then 0x0B else 0

/-- A VF number that SR-IOV enables. -/
def vfThere (s : State) (v : Nat) : Bool := decide (0 < v ∧ v < 128) && (fn s v).enabled

/-- Byte offsets of the selected descriptor fields that are out of range, in ascending order; without `sel`, all fields
are selected and MASK has to be 0 (R325). -/
def badFields (d : FuncDesc) (modify : Bool) : List Nat :=
  let sel := fun b => !modify || bit d.mask b
  let chk := fun (off : Nat) (on ok : Bool) => if on && !ok then [off] else []
  chk 1 true (if modify then field d.mask 5 3 = 0 else d.mask == 0)
    ++ chk 2 (!modify) (decide (1 ≤ d.nSQ.toNat ∧ d.nSQ.toNat ≤ 4096))
    ++ chk 4 (!modify) (decide (1 ≤ d.nCR.toNat ∧ d.nCR.toNat ≤ 4096))
    ++ chk 6 (!modify) (decide (1 ≤ d.nVec.toNat ∧ d.nVec.toNat ≤ 512))
    ++ chk 8 (sel 0) (decide (d.pages.toNat ≤ 3950)) ++ chk 10 (sel 1) (decide (d.quota.toNat ≤ 4096))
    ++ chk 12 (sel 2) (decide (d.pshare.toNat ≤ 6016000)) ++ chk 16 (sel 3) (d.weight != 0)
    ++ chk 18 (sel 4) (decide (8 ≤ d.spillDepth.toNat ∧ d.spillDepth.toNat ≤ 1024))
    ++ chk 20 (sel 4) (decide (16 ≤ d.spillEntries.toNat ∧ d.spillEntries.toNat ≤ 1048576))
    ++ chk 24 (sel 4) (field d.spillBase 0 12 = 0)

/-- Takes the settings that a descriptor selects: QUOTA, PSHARE, WEIGHT and SPILL (R321). -/
def takeSettings (d : FuncDesc) (sel : Nat → Bool) (x : Func) : Func :=
  { x with
    quota := if sel 1 then d.quota.toNat else x.quota
    pshare := if sel 2 then d.pshare.toNat else x.pshare
    weight := if sel 3 then d.weight.toNat else x.weight
    spillDepth := if sel 4 then d.spillDepth.toNat else x.spillDepth
    spillEntries := if sel 4 then d.spillEntries.toNat else x.spillEntries
    spillBase := if sel 4 then d.spillBase else x.spillBase }

/-- The lowest FREE pages (log 32). -/
def freePages (s : State) (n : Nat) : List Nat := (pagesWhere s fun p => p.state == .free).take n

/-! ### VF_CREATE, FUNC_MODIFY, FUNC_QUERY -/

/-- The refusal of VF_CREATE with the offset of the field, in the order of R327; 0 for none. -/
def createRefusal (s : State) (d : FuncDesc) : Nat × Nat :=
  let x := fn s d.func.toNat
  if !vfThere s d.func.toNat then (2, 0)
  else if x.created then (3, 0)
  else if x.flrBusy then (0x0C, 0)
  else match badFields d false with
    | o :: _ => (5, o)
    | [] =>
      if 4096 < poolUsed s Func.nSq + d.nSQ.toNat then (6, 2)
      else if 4096 < poolUsed s Func.nCr + d.nCR.toNat then (7, 4)
      else if 2048 < poolUsed s Func.nVec + d.nVec.toNat then (8, 6)
      else if poolFree s < d.pages.toNat then (9, 8)
      else (0, 0)

/-- VF_CREATE (R327). -/
def vfCreateOp (ctx : CmdCtx) (d : FuncDesc) (s : State) : State :=
  let s := begun ctx 0x80 s
  let f := d.func.toNat
  let bar := funcBar s ctx
  let r := if bar != 0 then (bar, 0) else createRefusal s d
  if r.1 != 0 then reply ctx 0x80 (funcReply s r.1 r.2 f) s
  else
    let s := scrubPages (freePages s d.pages.toNat) (some f) s
    let s := modFn f (fun x => takeSettings d (fun _ => true) { x with
      created := true, nSq := d.nSQ.toNat, nCr := d.nCR.toNat, nVec := d.nVec.toNat }) s
    reply ctx 0x80 (funcReply s 0 0 f) s

/-- A completion ring of the function is in spill (R282). -/
def inSpill (s : State) (f : Nat) : Bool := (fn s f).cr.any fun e => !e.2.waiting.isEmpty

/-- The refusal of FUNC_MODIFY (R325, R329). -/
def modifyRefusal (s : State) (d : FuncDesc) : Nat × Nat :=
  let f := d.func.toNat
  let x := fn s f
  let have_ := (ownedPages s f).length
  if f != 0 && !vfThere s f then (2, 0)
  else if !x.created then (4, 0)
  else if x.flrBusy then (0x0C, 0)
  else match badFields d true with
    | o :: _ => (5, o)
    | [] =>
      if bit d.mask 0 && decide (poolFree s < d.pages.toNat - have_) then (9, 8)
      else if bit d.mask 0 && decide ((freeCarve s f).length < have_ - d.pages.toNat) then (0x0A, 8)
      else if bit d.mask 1 && decide (d.quota.toNat < (ownedHandles s f).length) then (0x0A, 10)
      else if bit d.mask 4 && (funcReserved s f || inSpill s f) then (0x0A, 18)
      else (0, 0)

/-- Moves pages between the pool and a function until it owns `n` (R329). -/
def setPages (f n : Nat) (s : State) : State :=
  let have_ := (ownedPages s f).length
  if have_ ≤ n then scrubPages (freePages s (n - have_)) (some f) s
  else scrubPages ((freeCarve s f).take (have_ - n)) none s

/-- FUNC_MODIFY (R329): a change raises RES_CHANGE. -/
def funcModifyOp (ctx : CmdCtx) (d : FuncDesc) (s : State) : State :=
  let s := begun ctx 0x82 s
  let f := d.func.toNat
  let bar := funcBar s ctx
  let r := if bar != 0 then (bar, 0) else modifyRefusal s d
  if r.1 != 0 then reply ctx 0x82 (funcReply s r.1 r.2 f) s
  else
    let s := if bit d.mask 0 then setPages f d.pages.toNat s else s
    let s := modFn f (takeSettings d (fun b => bit d.mask b)) s
    let s := if d.mask == 0 then s else raiseVf f 1 s
    reply ctx 0x82 (funcReply s 0 0 f) s

/-- FUNC_QUERY (R324). -/
def funcQueryOp (ctx : CmdCtx) (v : Nat) (s : State) : State :=
  let s := begun ctx 0x83 s
  let bar := funcBar s ctx
  let r := if bar != 0 then bar else if v != 0 && !vfThere s v then 2 else 0
  reply ctx 0x83 (funcReply s r 0 v) s

/-! ### Ownership (R330 to R335) -/

/-- A device leaves its handle (R331): the entries that name it end DEVICE_GONE, its script and its dedicated pages are given
up, and the number waits for reuse. -/
def leaveHandle (num : Nat) (s : State) : State :=
  let old := ownerOf s num
  let s := each (itemsWhere s fun x => match x.posted with
      | some b => b.handle == handleWord s num
      | none => eOpcode x.raw != 0 && eHandle x.raw == handleWord s num && x.status.isNone) (stopItem stDeviceGone) s
  let s := setScript num 0 (endScripts num s)
  let s := each (s.topo.ctx.filter fun e => e.1 / 32 == num) (fun e s => freeDedicated e.1 e.2 s) s
  modHandle num (fun h => { h with use := .waiting (recordSqs s old), lastIdent := [] }) s

/-- The contexts of handle number `n` carry its handle word and its owner `f`. -/
def ownCtxs (n f : Nat) (s : State) : State :=
  { s with topo := { s.topo with ctx := s.topo.ctx.map fun e =>
      (e.1, if e.1 / 32 == n then { e.2 with handle := handleWord s n, owner := f, progress := 0 } else e.2) } }

/-- The RETURN marks after a move from `num` to `n` (R333). -/
def markReturn (num n f : Nat) (ret : Bool) (s : State) : State :=
  let marks := s.fns.returns.filter fun r => r.num != num && r.num != n
  { s with fns := { s.fns with returns := if ret then marks ++ [⟨n, f⟩] else marks } }

/-- Moves a device to a function under a new handle (R331). With no handle number free, which only VF_DESTROY can meet,
the device keeps its handle and its owner (log 70). -/
def moveDevice (num f : Nat) (ret : Bool) (s : State) : State :=
  match takeHandle s with
  | none => s
  | some (n, s) => markReturn num n f ret (ownCtxs n f (rekey num n (enliven n f false (leaveHandle num s))))

/-- DEV_CHANGE in each VF of a list (R331). -/
def devChange (fs : List Nat) (s : State) : State := each fs.eraseDups (fun f s => raiseVf f 0 s) s

/-- The devices that a DEV_ASSIGN names, and those of them that have another owner. -/
def assignSet (s : State) (b : AssignBody) : List Nat :=
  let n := field b.handle 0 12
  if bit b.flags 0 then
    match dev? s n with
    | some d => domainDevs s (domainOf s d.port d.path)
    | none => []
  else [n]
def assignMoves (s : State) (b : AssignBody) : List Nat := (assignSet s b).filter fun n => ownerOf s n != b.func.toNat

/-- The assignment would leave the device's domain with more than one owner (R337). -/
def splitsDomain (s : State) (b : AssignBody) : Bool :=
  match dev? s (field b.handle 0 12) with
  | some d => (domainDevs s (domainOf s d.port d.path)).any fun n =>
      n != field b.handle 0 12 && ownerOf s n != b.func.toNat
  | none => false

/-- The refusal of DEV_ASSIGN, in the order of R332. -/
def assignRefusal (s : State) (ctx : CmdCtx) (b : AssignBody) : Nat :=
  let f := b.func.toNat
  let n := field b.handle 0 12
  let moves := assignMoves s b
  if sender ctx.chan != 0 then 1
  else if !handleCurrent s b.handle then 2
  else if (match dev? s n with | some d => d.isHub | none => true) then 3
  else if 128 ≤ f || !(fn s f).created then 4
  else if (fn s f).flrBusy || moves.any fun m => (fn s (ownerOf s m)).flrBusy then 5
  else if moves.any (hasReservation s) then 6
  else if !bit b.flags 0 && !bit b.flags 1 && !moves.isEmpty && splitsDomain s b then 7
  else if (fn s f).quota < (ownedHandles s f).length + moves.length then 8
  else if freeHandles s < moves.length then 9
  else if (fn s 0).cmdBusy then 0x0A
  else 0

/-- The 16-byte reply body of DEV_ASSIGN. -/
def assignReply (res n : Nat) (h : U16) : List Byte := [BitVec.ofNat 8 res, BitVec.ofNat 8 n] ++ natLE 2 h.toNat ++ zeros 12

/-- DEV_ASSIGN (R331 to R337): the reply follows the completions of the old handles. -/
def devAssignOp (ctx : CmdCtx) (b : AssignBody) (s : State) : State :=
  let s := begun ctx 0x84 s
  let f := b.func.toNat
  let num := field b.handle 0 12
  let r := assignRefusal s ctx b
  if r != 0 then reply ctx 0x84 (assignReply r 0 0) s
  else
    let moves := assignMoves s b
    let olds := moves.map (handleWord s)
    let waits := itemsWhere s fun x => x.posted.isNone && eOpcode x.raw != 0 && olds.contains (eHandle x.raw)
    let gone := moves.map (ownerOf s)
    let spot := (dev? s num).map fun d => d.loc
    let s := each moves (fun m s => moveDevice m f (bit b.flags 2) s) s
    let new := match s.topo.dev.find? fun e => some e.2.loc == spot with | some e => e.1 | none => num
    let s := if moves.isEmpty then s else refreshIso (devChange (f :: gone) s)
    let s := if bit b.flags 1 && !moves.isEmpty && isVoid s new then
        raise .vfr 1 { s with fns := { s.fns with evtFunc := f } } else s
    let body := assignReply 0 moves.length (handleWord s new)
    if waits.isEmpty then reply ctx 0x84 body s
    else modFn 0 (fun x => { x with cmdBusy := true })
      { s with front := { s.front with assigns := s.front.assigns ++ [(ctx, waits, body)] } }

/-- A device record of DEV_QUERY (R335). -/
def devRecord (s : State) (num : Nat) : List Byte :=
  match dev? s num with
  | some d =>
    natLE 2 (handleWord s num).toNat ++ [BitVec.ofNat 8 d.port, BitVec.ofNat 8 d.tier]
      ++ ((d.path.map (BitVec.ofNat 8)) ++ zeros 5).take 5
      ++ [BitVec.ofNat 8 (genCode d.gen),
          BitVec.ofNat 8 (ofBool (isVoid s num) + 2 * ofBool (s.fns.returns.any fun r => r.num == num)),
          BitVec.ofNat 8 d.waddr] ++ zeros 4
  | none => zeros 16

/-- DEV_QUERY (R324, R335): a VF asks about itself only. -/
def devQueryOp (ctx : CmdCtx) (f first : Nat) (s : State) : State :=
  let s := begun ctx 0x85 s
  let from_ := sender ctx.chan
  let refuse := fun r => reply ctx 0x85 (BitVec.ofNat 8 r :: zeros 15) s
  if from_ != 0 && (f != from_ || !(fn s from_).created) then refuse 1
  else if (fn s from_).cmdBusy then refuse 0x0B
  else if f != 0 && !vfThere s f then refuse 2
  else
    let all := ownedHandles s f
    let l := (all.drop first).take 64
    reply ctx 0x85 ([0, BitVec.ofNat 8 l.length] ++ natLE 2 all.length ++ zeros 12 ++ l.flatMap (devRecord s)) s

/-! ### Function reset (R291, R346 to R350) -/

/-- A reservation that a hub's status-change endpoint holds: the part's own, although charged to PF0 (R99; log 71). -/
def hubRung (s : State) (r : Rung) : Bool :=
  match dev? s (field r.handle 0 12) with | some d => d.isHub | none => false

/-- Ends an entry of a function under reset with ABORTED_FLR, at the end of its transaction in progress. An entry that a
DEV_ASSIGN before the reset has ended keeps its status (R351). -/
def abortFlr (i : Nat) (s : State) : State :=
  if s.front.assigns.any fun a => a.2.1.contains i then s
  else stopItem stAbortedFlr i (modItem i (fun x => { x with status := none, awaitFin := false, parked := none }) s)

/-- The command came on a function's own mailbox. -/
def cameFrom (f : Nat) (ctx : CmdCtx) : Bool := match ctx.chan with | .nonSecure g => g.val == f | _ => false

/-- Cancels the unanswered commands of a function without reply, and clears its mailbox (R346 step 4, R437). -/
def cancelCmds (f : Nat) (s : State) : State :=
  let s := setBox s f {}
  let s := { s with
    sch := { s.sch with replies := s.sch.replies.filter fun w => !cameFrom f w.ctx }
    front := { s.front with
      stops := s.front.stops.filter (fun e => !cameFrom f e.1)
      assigns := s.front.assigns.filter (fun e => !cameFrom f e.1) }
    topo := { s.topo with
      waiting := s.topo.waiting.filter (fun w => !cameFrom f w.ctx)
      ctx := s.topo.ctx.map fun e =>
        (e.1, match e.2.releasing with
          | some c => if cameFrom f c then { e.2 with releasing := none } else e.2
          | none => e.2) }
    fns := { s.fns with fn := s.fns.fn.map fun e =>
      (e.1, match e.2.destroyCtx with
        | some c => if cameFrom f c then { e.2 with destroyCtx := none } else e.2
        | none => e.2) } }
  let busy := !s.front.assigns.isEmpty || s.fns.fn.any fun e => e.2.destroyCtx.isSome
  modFn f (fun x => { x with cmdBusy := x.cmdBusy && busy }) s

/-- Steps 1 to 5 of a function's reset: a second FLR merges into the first (R351). -/
def flrBegin (f : Nat) (s : State) : State :=
  if (fn s f).flrBusy then s
  else
    let x := fn s f
    let waits := x.cr.flatMap fun e => e.2.waiting
    let s := modFn f (fun x => { x with
      ready := false, flrBusy := true, flrAt := now s, flrWritten := 0, flrCounted := 0, flrSpill := waits.length,
      spilled := [], admitBusy := false, bufBusy := false,
      cr := x.cr.map fun e => (e.1, { e.2 with waiting := [], spillHalt := false })
      sq := x.sq.map fun e => (e.1, { e.2 with reading := false }) }) s
    let s := each (waits.filterMap fun w => w.item) freeItem s
    let s := { s with front := { s.front with sweep := s.front.sweep.filter fun b => b.1 != f } }
    let s := each (itemsWhere s fun y => y.func == f && y.posted.isNone) abortFlr s
    let s := dropRes (fun r => r.func == f && !hubRung s r) (cancelCmds f s)
    let s := each (s.topo.ctx.filter fun e => e.2.owner == f && !e.2.pages.isEmpty) (fun e s =>
      freeDedicated e.1 e.2 s) s
    let kept := (s.sch.shadow.filter fun e => hubRung s e.2).flatMap fun e => e.2.pages
    scrubPages ((pagesWhere s fun p => p.owner == some f && (p.state == .carved || p.state == .assigned)).filter
      fun n => !kept.contains n) (some f) s

/-- A function's reset has nothing left to wait for: no item, no page to zero, no live reservation (R348). PF0's also
waits until every VF is destroyed (R350). -/
def flrOver (s : State) (f : Nat) : Bool :=
  (fn s f).flrBusy && (s.front.items.all fun e => e.2.func != f || e.2.posted.isSome)
    && (pagesWhere s fun p => p.state == .scrubbing && p.owner == some f).isEmpty
    && (s.sch.live.all fun e => e.2.func != f || hubRung s e.2)
    && (f != 0 || s.fns.fn.all fun e => e.1 == 0 || !e.2.destroy)

/-- The registers, queues and configuration state of a function at their reset values; its allotments, caps, ownership
and dirty map settings are kept (R346 step 6, R347, R486). -/
def clearFunc (x : Func) : Func :=
  { x with
    ready := true, flrBusy := false, bme := false, msixEn := false, fmask := false, qSel := 0, qBase := 0,
    qCfgSq := 0x10004, qCfgCr := 0x4, qState := 0, busy := false, op := 0, result := 0, haltCause := 0, halted := false,
    dbBase := 0, qEvtVec := 0, vfEvtVec := 0, vecSel := 0, vecs := [], sq := [], cr := [], spilled := [],
    admitBusy := false, bufBusy := false }

/-- The RETURN marks of a function are dropped. -/
def dropReturns (v : Nat) (s : State) : State :=
  { s with fns := { s.fns with returns := s.fns.returns.filter fun r => r.func != v } }

/-- Every VF whose reset ends a life: devices to PF0, pages to FREE, resources to the pool (R328). The pages were zeroed
in the reset. -/
def destroyVf (v : Nat) (s : State) : State :=
  let x := fn s v
  let s := each (ownedHandles s v) (fun n s => moveDevice n 0 false s) s
  let s := each (ownedPages s v) (fun n s => setPage n ⟨.free, none, none⟩ s) s
  let s := dropReturns v s
  let s := setFn s v { (clearFunc (funcInit v)) with
    enabled := x.enabled, resetRpt := x.resetRpt, dirtyBase := x.dirtyBase, dirtyEn := x.dirtyEn, dirtyOvf := x.dirtyOvf,
    dirtyPages := x.dirtyPages, dirty := x.dirty }
  refreshIso s

/-- The reset report (R349). -/
def resetReport (s : State) (x : Func) : U64 :=
  let cap := fun n => min n 0xFFFF
  BitVec.ofNat 64 (cap x.flrWritten + cap x.flrCounted * 2 ^ 16 + cap x.flrSpill * 2 ^ 32
    + cap (cdiv (now s - x.flrAt) 4000) * 2 ^ 48)

/-- Steps 6 and 7: state is cleared and reset-done is reported; a VF that is being destroyed goes (R328, R346). -/
def flrEnd (f : Nat) (s : State) : State :=
  let x := fn s f
  let s := each (x.sq.map Prod.fst) (fun q s => forgetSq f q s) s
  let s := modFn f (fun x => { clearFunc x with resetRpt := if f = 0 then x.resetRpt else resetReport s x }) s
  let s := if h : f < 128 then
      let s := setEvt (.q ⟨f, h⟩) 0 s
      if f = 0 then s else
        raise (.flrDone ⟨f / 32, by omega⟩) (f % 32) (setEvt (.vf ⟨f, h⟩) 0 s)
    else s
  let s := if x.destroy then destroyVf f (modFn f (fun x => { x with destroy := false, destroyCtx := none }) s) else s
  let s := match x.destroyCtx with
    | some ctx => reply ctx 0x81 (funcReply s 0 0 f) (modFn 0 (fun x => { x with cmdBusy := false }) s)
    | none => s
  sweepHandles s

/-- VF_DESTROY (R328): its reset first. A number that no VF has is answered BAD_FUNC (log 157). -/
def vfDestroyOp (ctx : CmdCtx) (v : Nat) (s : State) : State :=
  let s := begun ctx 0x81 s
  let bar := funcBar s ctx
  let r := if bar != 0 then bar else if v = 0 || 128 ≤ v then 2 else if !(fn s v).created then 4
    else if (fn s v).flrBusy then 0x0C else 0
  if r != 0 then reply ctx 0x81 (funcReply s r 0 v) s
  else
    modFn 0 (fun x => { x with cmdBusy := true })
      (modFn v (fun x => { x with destroy := true, destroyCtx := some ctx }) (flrBegin v s))

/-- Every created VF is reset and destroyed, and no VF is enabled any longer (R319, R350, R351). -/
def destroyAll (s : State) : State :=
  let s := each (s.fns.fn.map Prod.fst) (fun v s =>
    if v != 0 && ((fn s v).created || (fn s v).flrBusy) then modFn v (fun x => { x with destroy := true }) (flrBegin v s) else s) s
  { s with fns := { s.fns with
    vfEnable := false, numVfs := 0
    fn := s.fns.fn.map fun e => (e.1, if e.1 = 0 then e.2 else { e.2 with enabled := false }) } }

/-! ### Commands -/

/-- VF_ENABLE_SET (R318, R319): VF1 to VFn appear, without resources. NumVFs does not change while VF Enable is set. -/
def execVfEnableSet (numVFs : Fin 128) (s : State) : Host.Outcome State Fault Refusal :=
  guarded (live s && !s.fns.vfEnable) s fun s =>
    each ((List.range numVFs.val).map (· + 1)) (fun v s => modFn v (fun x => { x with enabled := true }) s)
      { s with fns := { s.fns with vfEnable := true, numVfs := numVFs.val } }

/-- VF_ENABLE_CLEAR (R319). -/
def execVfEnableClear (s : State) : Host.Outcome State Fault Refusal :=
  guarded (live s && s.fns.vfEnable) s destroyAll

/-- Sends the replies that have waited for Bus Master Enable (R514). -/
def sendReplies (f : Nat) (s : State) : State :=
  let rs := (box s f).replies
  each rs (fun r s => writeReply f r.1 r.2.1 r.2.2 (answeredBox f r.2.2.seq r.2.2.typ s)) (modBox f (fun b => { b with replies := [] }) s)

/-- BUS_MASTER_ENABLE_CHANGE (R514): with it set, what waited goes out. -/
def execBusMasterEnableChange (f : FuncId) (on : Bool) (s : State) : Host.Outcome State Fault Refusal :=
  guarded (live s && (fn s f.val).enabled) s fun s =>
    let s := modFn f.val (fun x => { x with bme := on }) s
    if on then
      let s := each (tkeys (fn s f.val).cr) (fun r s => crDrain f.val r s) s
      let s := sendReplies f.val s
      each (tkeys (fn s f.val).vecs) (fun v s => msixRelease f.val v s) s
    else s

/-- VF_CREATE. -/
def execVfCreate (ctx : CmdCtx) (d : FuncDesc) (s : State) : Host.Outcome State Fault Refusal :=
  guarded (live s) s (vfCreateOp ctx d)

/-- VF_DESTROY. -/
def execVfDestroy (ctx : CmdCtx) (v : Byte) (s : State) : Host.Outcome State Fault Refusal :=
  guarded (live s) s (vfDestroyOp ctx v.toNat)

/-- FUNC_MODIFY. -/
def execFuncModify (ctx : CmdCtx) (d : FuncDesc) (s : State) : Host.Outcome State Fault Refusal :=
  guarded (live s) s (funcModifyOp ctx d)

/-- FUNC_QUERY. -/
def execFuncQuery (ctx : CmdCtx) (v : Byte) (s : State) : Host.Outcome State Fault Refusal :=
  guarded (live s) s (funcQueryOp ctx v.toNat)

/-- DEV_ASSIGN. -/
def execDevAssign (ctx : CmdCtx) (body : AssignBody) (s : State) : Host.Outcome State Fault Refusal :=
  guarded (live s) s (devAssignOp ctx body)

/-- DEV_QUERY. -/
def execDevQuery (ctx : CmdCtx) (func : Byte) (first : U16) (s : State) : Host.Outcome State Fault Refusal :=
  guarded (live s) s (devQueryOp ctx func.toNat first.toNat)

/-- DIRTY_MAP_WRITE (R344, R345): the mark of a page that waits, with PF0's Requester ID. -/
def execDirtyMapWrite (v : FuncId) (page : Nat) (s : State) : Host.Outcome State Fault Refusal :=
  guarded (live s && (fn s 0).bme && (fn s v.val).dirty.contains page) s fun s =>
    let x := fn s v.val
    hostWrite 0 (x.dirtyBase.toNat + page) [1] (setFn s v.val { x with dirty := x.dirty.filter (· != page) })

/-- VF_FLR (R346); an FLR of a standby's function changes nothing (R403). -/
def execVfFlr (v : FuncId) (s : State) : Host.Outcome State Fault Refusal :=
  guarded (live s && isActive s && vfThere s v.val) s (flrBegin v.val)

/-- VF_RESET_DONE (R346, R348): the last step of a function's reset, once everything it waits for is over. -/
def execVfResetDone (v : FuncId) (s : State) : Host.Outcome State Fault Refusal :=
  guarded (live s && flrOver s v.val) s (flrEnd v.val)

/-- PF0_FLR (R350). -/
def execPf0Flr (s : State) : Host.Outcome State Fault Refusal :=
  guarded (live s && isActive s) s fun s => flrBegin 0 (destroyAll s)

end Sys2Proof.Machine
end

