-- ==== Sys2Proof/Machine/Pair.lean ====
section
/-! DEFINITION. The redundant pair (R387 to R407, R411, R412): the Xebirok link and its records, roles and states, the
gander timer, takeover, and the pair commands. -/

namespace Sys2Proof.Machine

/-! ### Records (R391, R392) -/

/-- The link is up and the part can receive records. -/
def hearsXbk (s : State) : Bool := live s && s.straps.pairEn && s.pair.linkUp

/-- Records that the partner has acknowledged leave the retry buffer. -/
def freeAcked (ack : U32) (s : State) : State :=
  { s with pair := { s.pair with
    retry := s.pair.retry.filter fun k => (k.seq - ack).toNat != 0 && decide ((k.seq - ack).toNat < 2 ^ 31) } }

/-- NAK, naming the SEQ expected. -/
def sendNak (s : State) : State :=
  let s := xbkSendOnce 9 (natLE 4 (s.pair.rxSeq + 1).toNat ++ zeros 4) s
  { s with pair := { s.pair with nakSent := true } }

/-- A SEQ at distance `n` beyond the one expected shows that a record is missing; one NAK asks for it. -/
def noteGap (q : U32) (n : Nat) (s : State) : State :=
  let d := (q - s.pair.rxSeq).toNat
  if n < d && d < 2 ^ 31 && !s.pair.nakSent then sendNak s else s

/-- A record kept for resend: only the one that comes next is accepted. -/
def kept (h : XbkHdr) (f : State → State) (s : State) : State :=
  let s := freeAcked h.ack s
  if h.seq == s.pair.rxSeq + 1 then
    f { s with pair := { s.pair with rxSeq := h.seq, nakSent := false, ackDue := true } }
  else noteGap h.seq 1 s

/-- A NO_RETRY record: it carries the SEQ of the last record kept, so it shows a gap too (log 73). -/
def once (h : XbkHdr) (f : State → State) (s : State) : State := f (noteGap h.seq 0 (freeAcked h.ack s))

/-- The IDENT record of this part. -/
def sendIdent (s : State) : State :=
  xbkSend 1 ([BitVec.ofNat 8 (ofBool s.straps.pairId), BitVec.ofNat 8 (pairCode s.pair.st), BitVec.ofNat 8 Config.stepping, 0]
    ++ natLE 4 s.pwr.version.toNat ++ [BitVec.ofNat 8 (field s.pair.cfg 0 4), BitVec.ofNat 8 s.fns.numVfs] ++ zeros 22) s

/-! ### States (R394 to R397) -/

def setPair (st : PairSt) (s : State) : State := { s with pair := { s.pair with st := st } }

/-- The part enters STALE. -/
def goStale (s : State) : State := raise .pair 4 (setPair .stale s)

/-- The part holds the active role alone: PAIR_ACT_OUT goes high. -/
def goAlone (s : State) : State :=
  emit (.act true) { s with pair := { s.pair with st := .activeAlone, actOut := true, claimed := false } }

/-- HOME of both parts is the same, as far as it is known. -/
def homesAgree (s : State) : Bool :=
  match s.pair.partnerHome with | some h => h == field s.pair.cfg 0 4 | none => true

/-- The part becomes a standby: it copies the active's state, unless version, stepping or HOME differ. -/
def goSync (s : State) : State :=
  let s := { s with pair := { s.pair with claimed := false } }
  if s.pair.version || !homesAgree s then goStale s else setPair .sync s

/-- The partner has reported its state. -/
def partnerState (n : Nat) (s : State) : State :=
  let s := { s with pair := { s.pair with partner := some n } }
  match s.pair.st with
  | .activeAlone => if n = 4 then raise .pair 1 (setPair .active s) else s
  | .active => if n = 4 then s else raise .pair 2 (setPair .activeAlone s)
  | .discover => if n = 6 || n = 7 then goSync s else s
  | _ => s

/-- The strap conflict of equal PAIR_IDs: the part is in no service, its ports are disabled, and the manager is told (R5,
R394). -/
def enterConflict (s : State) : State :=
  let s := each ((s.topo.port.filter fun e => e.2.admin || e.2.enabled).map Prod.fst) disablePort s
  let s := if s.pair.actOut then emit (.act false) s else s
  raise .pair 5 { s with pair := { s.pair with
    st := .conflict, actOut := false, claimed := false, takeover := none, switchAt := none, yielding := false } }

/-- IDENT: equal PAIR_IDs are a conflict; a part that discovers no active partner claims the role (R5, R394, R395). -/
def gotIdentRec (id st step home : Nat) (ver : U32) (s : State) : State :=
  let s := { s with pair := { s.pair with
    version := ver != s.pwr.version || step != Config.stepping, partnerHome := some home } }
  if id = ofBool s.straps.pairId then
    (if s.pair.st == .yielded || s.pair.st == .failed then raise .pair 5 s else enterConflict s)
  else
    let s := partnerState st s
    if s.pair.st == .discover && !s.pair.claimed then
      xbkSend 2 ([BitVec.ofNat 8 (ofBool s.straps.pairId), 1] ++ zeros 6)
        { s with pair := { s.pair with claimed := true } }
    else s

/-- CLAIM: refused by an active part, or by the claim of PAIR_ID 0; else granted, and this part becomes the standby
(R395). -/
def gotClaim (s : State) : State :=
  let id := ofBool s.straps.pairId
  let res := if isActive s then 1 else if s.pair.claimed && id = 0 then 2 else 0
  let s := xbkSend 3 ([BitVec.ofNat 8 id, BitVec.ofNat 8 res] ++ zeros 6) s
  if res = 0 && s.pair.st == .discover then goSync s else s

/-- CLAIM_ANSWER. -/
def gotAnswer (res : Nat) (s : State) : State :=
  if s.pair.claimed && s.pair.st == .discover then (if res = 0 then goAlone s else goSync s) else s

/-! ### Takeover (R404, R405) -/

/-- A takeover trigger: only a part in STANDBY takes over, at the earlier of two boundaries (R414). -/
def trigger (notBefore cause : Nat) (s : State) : State :=
  if s.pair.st == .standby then
    match s.pair.takeover with
    | some t => if notBefore < t.notBefore then
        { s with pair := { s.pair with takeover := some ⟨notBefore, cause⟩ } } else s
    | none => { s with pair := { s.pair with takeover := some ⟨notBefore, cause⟩ } }
  else s

/-- A trigger that is recognised now: the first boundary not less than 20 µs away. -/
def triggerNow (cause : Nat) (s : State) : State := trigger (now s + 8000) cause s

/-- The instant behind which the boundary of a HANDOVER record is the next one. -/
def handoverFrom (s : State) (epoch : U32) : Nat :=
  match (epoch - BitVec.ofNat 32 (epoch32 s 0)).toNat with
  | 0 => s.tb.frameAt
  | n + 1 => s.tb.frameAt + 1 + n * s.tb.flen

/-- The takeover is due: its frame has just begun. -/
def takeoverDue (s : State) : Bool :=
  s.pair.st == .standby && s.tb.uframe == 0
    && (match s.pair.takeover with | some t => decide (t.notBefore ≤ s.tb.frameAt) | none => false)

/-- A command frame of the part on partner-control port `g`: it takes the next SEQ and is kept until its answer comes
(R409, R410). -/
def pctlCommand (typ j : Nat) (payload : List Byte) (g : Nat) (s : State) : State :=
  let x : PctlPort := tget {} s.ctl g
  let q := x.seq + 1
  pctlSend g typ j q payload { s with ctl := tput s.ctl g { x with seq := q, cmds := x.cmds ++ [⟨q, typ, j, payload, 1⟩] } }

/-- CLAIM of a partner's home die (R410). -/
def pctlClaim (typ : Nat) (g : Nat) (s : State) : State :=
  pctlCommand typ 0 [BitVec.ofNat 8 (ofBool s.straps.pairId)] g s

/-- The completion of an entry that the old active had fetched: what the entry held was not shadowed, so that TAG and
RESIDUAL are free values (log 26). -/
def failoverRec (f q : Nat) (s : State) : WaitRec × State :=
  let i := freshIndex s
  let j := freshIndex i.2
  ({ record := none, item := none, timed := cfgTimed (sq s f q).cfg, tag := (Config.freeWord i.1).setWidth 16,
     sqid := BitVec.ofNat 12 q, status := stFailover, flags := 0, head := 0,
     residual := (Config.freeWord j.1).setWidth 25, stamp := (frameStamp s).value }, j.2)

/-- The item of an SQ entry. -/
def itemAt (s : State) (f q : Nat) (i : U16) : Option Nat :=
  (s.front.items.find? fun e => e.2.func == f && e.2.sq == q && e.2.index == i && e.2.posted.isNone).map Prod.fst

/-- One fetched entry completes FAILOVER_ABORT: an item here ends and is released in flow order; an entry of which only
its index is known completes at once. -/
def failoverEntry (f q : Nat) (i : U16) (s : State) : State :=
  match itemAt s f q i with
  | some k => finish k stFailover s
  | none =>
    let r := failoverRec f q s
    crPut f (sqCr s f q) r.1 q (some i) r.2

/-- Every entry in [C, F) of an SQ completes FAILOVER_ABORT, in SQ order (R405). -/
def failoverSq (f q : Nat) (s : State) : State :=
  let x := sq s f q
  each (((List.range (x.f - x.c).toNat).map fun k => x.c + BitVec.ofNat 16 k).filter fun i => !x.done.contains i)
    (failoverEntry f q) s

/-- The created functions, PF0 first. -/
def createdFuncs (s : State) : List Nat := 0 :: ((s.fns.fn.filter fun e => e.1 != 0 && e.2.created).map Prod.fst)

/-- A message on each vector that has counted completions not yet signalled (R405). -/
def signalCounted (s : State) : State :=
  each (createdFuncs s) (fun f s => each (((fn s f).vecs.filter fun v => v.2.counted != 0).map Prod.fst) (msixDue f) s) s

/-- Authority over the partner's home dies that have declared their core die lost (R405, R408). -/
def claimDies (s : State) : State :=
  each ((List.range 4).filter fun g => !homeOf s g && (tget {} s.ctl g).coreLost) (pctlClaim 2) s

/-- A TAKEOVER notice to PF0 and every created VF (R412). -/
def takeoverNotices (s : State) : State :=
  let n := s.pair.notices + 1
  each (createdFuncs s) (fun f => postOut f ⟨0, n, 0x9F⟩) { s with pair := { s.pair with notices := n } }

/-- The shadowed completions without confirmation are written again, each into its own slot (R405). -/
def writeAgain (s : State) : State :=
  let l := s.pair.unconfirmed
  each l (fun w s =>
    let x := cr s w.1 w.2.1
    hostWrite w.1 (x.base.toNat + 16 * (w.2.2.1.toNat % cfgSize x.cfg)) w.2.2.2 s)
    { s with pair := { s.pair with unconfirmed := [] } }

/-- The table of the new active part: the newest that it holds complete, whose commands are answered. Commands still
unanswered are compiled again, and with an engine retired the entries that name it are compiled onto the others (R40, R187,
R405, R414). -/
def takeTable (s : State) : State :=
  let s := swapIfPending { s with sch := { s.sch with compiling := false } }
  let lost := (List.range 16).filter fun e => (eng s e).retired
  let s := { s with sch := { s.sch with
    nm1Ok := lost.isEmpty, compiling := !s.sch.replies.isEmpty
    state := s.sch.state.map fun e => (e.1, { e.2 with streaming := false, followOn := [] }) } }
  each lost recompile s

/-- The takeover (R405). -/
def takeOver (cause : Nat) (s : State) : State :=
  let s := emit (.act true) { s with
    pair := { s.pair with
      st := .activeAlone, actOut := true, takeover := none, switchAt := none, yielding := false, claimed := false
      takeovers := if s.pair.takeovers = 255 then 255 else s.pair.takeovers + 1
      last := BitVec.ofNat 64 (cause + epoch32 s 0 * 2 ^ 32) } }
  let s := takeTable s
  let s := each (List.range 64) (boundarySof 0) s
  let s := each ((List.range 64).filter fun p =>
    (port s p).enabled && serdes (port s p).gen && bit s.pair.wire p) linkRecovery s
  let s := claimDies s
  let s := each (createdFuncs s) (fun f s =>
    each (((fn s f).sq.filter fun q => q.2.created).map Prod.fst) (failoverSq f) s) s
  raise .pair 0 (takeoverNotices (signalCounted (writeAgain s)))

/-- TAKEOVER (R404, R405): the standby's takeover boundary has come. -/
def execTakeover (s : State) : Host.Outcome State Fault Refusal :=
  guarded (live s && takeoverDue s) s fun s => takeOver ((s.pair.takeover.map Takeover.cause).getD 0) s

/-! ### Link (R390 to R392) -/

/-- XEBIROK_LINK_UP (R390): with two lanes or more. Sequence numbers start afresh (log 74). -/
def execXebirokLinkUp (lanes : Fin 5) (s : State) : Host.Outcome State Fault Refusal :=
  guarded (live s && s.straps.pairEn && s.pair.st != .conflict && s.pair.st != .failed && decide (2 ≤ lanes.val)) s fun s =>
    sendIdent { s with pair := { s.pair with
      linkUp := true, lanes := lanes.val, down := [], txSeq := 0, rxSeq := 0, retry := [], nakSent := false, ackDue := false,
      claimed := false } }

/-- LANE_DOWN (R390): with fewer than two lanes the link is down. -/
def execLaneDown (lane : Fin 4) (s : State) : Host.Outcome State Fault Refusal :=
  guarded (hearsXbk s && !s.pair.down.contains lane.val && s.pair.lanes != 0) s fun s =>
    let n := s.pair.lanes - 1
    let s := raise .pair 6 { s with pair := { s.pair with lanes := n, down := lane.val :: s.pair.down } }
    if n < 2 then linkDown s else s

/-- Sends a kept record again (R391); each resend is counted in LINK (R389). -/
def resend (k : Kept) (s : State) : State :=
  if s.pair.linkUp then countError 6 0 3 (emit (.xbk k.typ (xbkRecord s k.typ 1 k.seq k.body)) s) else s

/-- XBK_NAK (R391): resends from the SEQ named; one that is no longer kept takes the link down. -/
def execXbkNak (h : XbkHdr) (seq : U32) (s : State) : Host.Outcome State Fault Refusal :=
  guarded (hearsXbk s) s (once h fun s =>
    if seq == s.pair.txSeq + 1 then s
    else if s.pair.retry.any fun k => k.seq == seq then
      each (s.pair.retry.filter fun k => decide ((k.seq - seq).toNat < 2 ^ 31)) resend s
    else linkDown s)

/-- XEBIROK_RECORD_ERROR (R389, R391, R392): a record with a CRC failure, or of a reserved TYPE. -/
def execXebirokRecordError (s : State) : Host.Outcome State Fault Refusal :=
  guarded (hearsXbk s) s fun s => sendNak (countError 6 0 3 s)

/-- ACK_ONLY (R392). -/
def execAckOnly (h : XbkHdr) (s : State) : Host.Outcome State Fault Refusal := guarded (hearsXbk s) s (once h id)

/-- ACK_ONLY_TIMER (R392): no record has carried ACK for 10 µs. -/
def execAckOnlyTimer (s : State) : Host.Outcome State Fault Refusal :=
  guarded (hearsXbk s && s.pair.ackDue) s (xbkSendOnce 10 [])

/-! ### Records received -/

/-- IDENT (R5, R392, R394). -/
def execIdent (h : XbkHdr) (pairId : Byte) (st : Byte) (step : Byte) (version : U32) (home : Byte) (numVFs : Byte) (s : State) :
    Host.Outcome State Fault Refusal :=
  let _ := numVFs
  guarded (hearsXbk s) s (kept h (gotIdentRec pairId.toNat st.toNat step.toNat (home.toNat % 16) version))

/-- XBK_CLAIM (R395). -/
def execXbkClaim (h : XbkHdr) (pairId : Byte) (role : Byte) (s : State) : Host.Outcome State Fault Refusal :=
  let _ := pairId
  guarded (hearsXbk s) s (kept h fun s => if role = 1 then gotClaim s else s)

/-- CLAIM_ANSWER (R395). -/
def execClaimAnswer (h : XbkHdr) (pairId : Byte) (result : Byte) (s : State) : Host.Outcome State Fault Refusal :=
  let _ := pairId
  guarded (hearsXbk s) s (kept h (gotAnswer result.toNat))

/-- HEARTBEAT (R398): one in the window of its microframe resets the miss count. -/
def execHeartbeat (h : XbkHdr) (st : Byte) (u : Byte) (epoch : BitVec 48) (shadowSeq : U32) (s : State) :
    Host.Outcome State Fault Refusal :=
  let _ := epoch
  let _ := shadowSeq
  guarded (hearsXbk s) s (once h fun s =>
    let s := if u.toNat = s.tb.uframe then
        { s with pair := { s.pair with hbGot := true, misses := 0, hbOk := true } }
      else s
    partnerState st.toNat s)

/-- TIME (R139, R399): the standby's frame begins with the active's, in the mode that the lock state shows. The delay of
the link is not shown (log 108). -/
def followTime (epoch : BitVec 48) (len lock : Nat) (m1 : U16) (s : State) : State :=
  { s with
    pair := { s.pair with frameLen := len }
    tb := { s.tb with
      epoch := epoch, flen := len, m := m1.toNat + 1
      mode := if lock % 4 = 0 then 0 else 1
      lock := match lock % 4 with | 0 => .free | 1 => .acquire | 2 => .locked | _ => .clamped
      frameAt := now s, uframeAt := now s, uframe := 0 } }

/-- The part follows the frames of an active partner. -/
def follows (s : State) : Bool := s.pair.st == .sync || s.pair.st == .standby || s.pair.st == .stale || s.pair.st == .discover

/-- TIME (R399). -/
def execTime (h : XbkHdr) (epoch : BitVec 48) (len : BitVec 24) (lock : Byte) (m1 : U16) (tick : U32) (s : State) :
    Host.Outcome State Fault Refusal :=
  let _ := tick
  guarded (hearsXbk s) s (once h fun s => if follows s then followTime epoch len.toNat lock.toNat m1 s else s)

/-- The partner is lost: the part is alone, or a ready standby takes over. -/
def partnerLost (s : State) : State :=
  if s.pair.st == .active then setPair .activeAlone s else s

/-- FATAL (R386, R404). -/
def execFatal (h : XbkHdr) (cause : Byte) (epoch : U32) (s : State) : Host.Outcome State Fault Refusal :=
  let _ := cause
  let _ := epoch
  guarded (hearsXbk s) s (once h fun s =>
    if s.pair.st == .active then raise .pair 2 (partnerLost s) else triggerNow 2 s)

/-- HANDOVER (R404): the takeover boundary is the one that the record names. -/
def execHandover (h : XbkHdr) (cause : Byte) (epoch : U32) (s : State) : Host.Outcome State Fault Refusal :=
  guarded (hearsXbk s) s (kept h fun s => trigger (handoverFrom s epoch) cause.toNat s)

/-- YIELD (R392): the partner has given up its role. -/
def execYield (h : XbkHdr) (pairId : Byte) (s : State) : Host.Outcome State Fault Refusal :=
  let _ := pairId
  guarded (hearsXbk s) s (kept h (partnerState 8))

/-! ### Shadowing (R393, R400) -/

/-- A shadowed root port: what this part's own lane does and what it senses of the port stay its own. -/
def shadowPort (own x : Port) : Port :=
  { x with
    pg := own.pg, bias := own.bias, farEnd := own.farEnd, txn := none, ended := none, driven := false, lane := []
    answer := none, heldBy := none, holdWait := [], window := none, sofHold := false }

/-- A shadowed compare unit: its configuration. -/
def shadowUnit (own x : CmpUnit) : CmpUnit :=
  { own with
    axis := x.axis, dir := x.dir, action := x.action, anyCycle := x.anyCycle, port := x.port, owner := x.owner
    pos := x.pos, win := x.win, cycle := x.cycle }

/-- An entry of the bank that is not live is written, or taken out of it. -/
def shadowEntry (r : Nat) (g : Option Rung) (s : State) : State :=
  { s with sch := { s.sch with
    swapPend := false, shadow := match g with | some x => tput s.sch.shadow r x | none => tdel s.sch.shadow r } }

/-- The indices of a CR; a shadowed completion behind which its producer index has moved has been written. -/
def shadowCr (f r : Nat) (x : Cr) (s : State) : State :=
  let s := modCr f r (fun _ => x) s
  { s with pair := { s.pair with unconfirmed := s.pair.unconfirmed.filter fun w =>
      !(w.1 == f && w.2.1 == r && decide (0 < (x.p - w.2.2.1).toNat && (x.p - w.2.2.1).toNat < 2 ^ 15)) } }

/-- What a SHADOW record does to the standby. -/
def applyShadow (b : ShadowBody) (s : State) : State :=
  match b with
  | .entry r g => shadowEntry r g s
  | .complete => { s with sch := { s.sch with swapPend := true } }
  | .swap e =>
    let s := swapBanks s
    { s with sch := { s.sch with liveEpoch := e } }
  | .service r x => { s with sch := { s.sch with state := tput s.sch.state r x } }
  | .context k c => { s with topo := { s.topo with
      ctx := match c with | some x => tput s.topo.ctx k x | none => tdel s.topo.ctx k } }
  | .sq f q x => modSq f q (fun _ => x) s
  | .cr f r x => shadowCr f r x s
  | .halt f h c => modFn f (fun x => { x with halted := h, haltCause := c }) s
  | .completion f r i bytes => { s with pair := { s.pair with unconfirmed := s.pair.unconfirmed ++ [(f, r, i, bytes)] } }
  | .rootPort p x => modPort p (fun own => shadowPort own x) s
  | .device n d => { s with topo := { s.topo with
      dev := match d with | some x => tput s.topo.dev n x | none => tdel s.topo.dev n } }
  | .handle n h => { s with topo := { s.topo with handle := tput s.topo.handle n h } }
  | .freeHandles a n b => { s with topo := { s.topo with freeHead := a, fresh := n, freeTail := b } }
  | .function f x => modFn f (fun own => { x with sq := own.sq, cr := own.cr }) s
  | .page n x => setPage n x s
  | .unit u c => modUnit u (fun own => shadowUnit own c) s
  | .timebase c l p => { s with tb := { s.tb with ctl := c, freeLen := l, lockPhase := p } }
  | .axis a c n => modAxis a (fun x => { x with cfg := c, cpc := n }) s
  | .topoCommands l => { s with topo := { s.topo with waiting := l } }
  | .admitCommands l => { s with sch := { s.sch with replies := l } }
  | .box k b => { s with mail := { s.mail with box := tput s.mail.box k b } }
  | .other row body => { s with pair := { s.pair with shadow := s.pair.shadow ++ [(row.val, body)] } }

/-- SHADOW (R393, R400): a standby applies it, in SEQ order. What the body says is the operand: its bytes are in the
internal layout of the firmware (log 75). -/
def execShadow (h : XbkHdr) (body : ShadowBody) (s : State) : Host.Outcome State Fault Refusal :=
  guarded (hearsXbk s) s (kept h fun s =>
    if s.pair.st == .sync || s.pair.st == .standby then applyShadow body s else s)

/-! ### The gander timer (R397, R398, R404) -/

/-- The third miss in a row: a live sense line means a split link; a silent one, a dead partner. -/
def thirdMiss (s : State) : State :=
  let s := if s.pair.misses = 3 then raise .pair 2 s else s
  if s.pair.silent < 3 then
    if s.pair.misses = 3 then
      let s := raise .pair 3 s
      if s.pair.st == .standby || s.pair.st == .sync then goStale s else partnerLost s
    else s
  else if s.pair.st == .standby then triggerNow 1 s
  else if s.pair.st == .sync then goStale s
  else partnerLost s

/-- The windows of a microframe have ended: a miss, a silent sense line, or neither. -/
def windowEnd (toggled : Bool) (s : State) : State :=
  let p := s.pair
  let misses := if p.hbGot then 0 else min 3 p.misses + 1
  let silent := if toggled then 0 else min 3 p.silent + 1
  let s := { s with pair := { p with
    misses := misses, silent := silent, hbGot := false, hbOk := decide (misses < 3) && p.hbOk,
    senseOk := toggled || (p.senseOk && decide (silent < 3)) } }
  if 3 ≤ misses && p.partner.isSome then thirdMiss s else s

/-- GANDER_WINDOW_END (R398). -/
def execGanderWindowEnd (toggled : Bool) (s : State) : Host.Outcome State Fault Refusal :=
  guarded (live s && s.straps.pairEn && s.pair.st != .single && s.pair.st != .conflict && s.pair.st != .failed) s
    (windowEnd toggled)

/-! ### Timers and roles (R394 to R396, R401) -/

/-- DISCOVER_TIMEOUT (R394, R395): 1 s without a link. -/
def execDiscoverTimeout (s : State) : Host.Outcome State Fault Refusal :=
  guarded (live s && s.pair.st == .discover && !s.pair.linkUp) s fun s =>
    if s.pair.senseOk && s.straps.pairId then goStale s else goAlone s

/-- SYNC_DONE (R394, R396): authority of the home dies goes to the active, and the part is a standby. -/
def execSyncDone (s : State) : Host.Outcome State Fault Refusal :=
  guarded (live s && s.pair.st == .sync && s.pair.linkUp) s fun s =>
    if s.pair.version || !homesAgree s then goStale s
    else setPair .standby (each ((List.range 4).filter (homeOf s)) handOver s)

/-- STALE_RESYNC_TIMER (R394): 1 s of link up. -/
def execStaleResyncTimer (s : State) : Host.Outcome State Fault Refusal :=
  guarded (live s && s.pair.st == .stale && s.pair.linkUp && !s.pair.version && homesAgree s) s (setPair .sync)

/-- PAIR_ACT_CONFLICT (R401): PAIR_ACT_IN is high too; PAIR_ID 1 yields. -/
def execPairActConflict (s : State) : Host.Outcome State Fault Refusal :=
  guarded (live s && s.straps.pairEn && s.straps.pairId && s.pair.actOut && isActive s) s enterYielded

/-! ### Commands (R411) -/

/-- The 16-byte reply body of the pair commands. -/
def pairReply (s : State) (res : Nat) (epoch : U32) : List Byte :=
  [BitVec.ofNat 8 res, BitVec.ofNat 8 (pairCode s.pair.st), BitVec.ofNat 8 (s.pair.partner.getD 255), 0]
    ++ natLE 4 epoch.toNat ++ zeros 8

/-- PAIR_QUERY. -/
def pairQueryOp (ctx : CmdCtx) (s : State) : State :=
  let s := begun ctx 0x90 s
  reply ctx 0x90 (pairReply s (if sender ctx.chan != 0 then 1 else 0) 0) s

/-- The refusals that PAIR_SWITCH and PAIR_RESYNC share, in the order of their codes but for those of the state (log 76). -/
def pairBar (s : State) (ctx : CmdCtx) : Nat :=
  if sender ctx.chan != 0 then 1
  else if s.pair.st == .single then 2
  else if s.pair.switchAt.isSome || s.pair.yielding then 4
  else if s.pair.version then 5
  else 0

/-- The boundary of a switch: the first at or after the one named that is at least 2 frames away. -/
def switchBoundary (s : State) (epoch : U32) : U32 :=
  let least := BitVec.ofNat 32 (epoch32 s (if now s = s.tb.frameAt then 2 else 3))
  if epoch = 0 then least else if (epoch - least).toNat < 2 ^ 31 then epoch else least

/-- PAIR_SWITCH. -/
def pairSwitchOp (ctx : CmdCtx) (epoch : U32) (s : State) : State :=
  let s := begun ctx 0x91 s
  let b := pairBar s ctx
  let res := if b = 0 && s.pair.st != .active then 3 else b
  if res = 0 then
    let at_ := switchBoundary s epoch
    reply ctx 0x91 (pairReply s 0 at_) { s with pair := { s.pair with switchAt := some at_ } }
  else reply ctx 0x91 (pairReply s res 0) s

/-- PAIR_RESYNC: a stale partner starts SYNC. The spec names no record that tells it so (log 77). -/
def pairResyncOp (ctx : CmdCtx) (s : State) : State :=
  let s := begun ctx 0x92 s
  let b := pairBar s ctx
  let res := if b = 0 && !(s.pair.linkUp && s.pair.partner == some 5) then 3 else b
  reply ctx 0x92 (pairReply s res 0) s

/-- PAIR_QUERY (R411). -/
def execPairQuery (ctx : CmdCtx) (s : State) : Host.Outcome State Fault Refusal := guarded (live s) s (pairQueryOp ctx)

/-- PAIR_SWITCH (R411). -/
def execPairSwitch (ctx : CmdCtx) (epoch : U32) (s : State) : Host.Outcome State Fault Refusal :=
  guarded (live s) s (pairSwitchOp ctx epoch)

/-- PAIR_RESYNC (R411). -/
def execPairResync (ctx : CmdCtx) (s : State) : Host.Outcome State Fault Refusal := guarded (live s) s (pairResyncOp ctx)

end Sys2Proof.Machine
end

