-- ==== Sys2Proof/Machine/PctlB.lean ====
section
/-! DEFINITION. PCTL_B (R408 to R410): the mule dies of this part, which answer the partner, and the partner-control
ports, through which this part commands the partner's dies. -/

namespace Sys2Proof.Machine

/-! ### The die side -/

/-- A die hears PCTL_B: VMULE is up. -/
def dieHears (s : State) (g : Nat) : Bool := (die s g).powered

/-- A command frame reaches a die: a repeat of the last SEQ is answered with its first answer; any other is acted on by
`f`, which gives the answer's slot, type and payload (R409). -/
def dieAnswer (g : Nat) (seq : U16) (f : State → (Nat × Nat × List Byte) × State) (s : State) : State :=
  match (die s g).answered with
  | some (q, j, typ, b) =>
    if q = seq then pctlSend g typ j seq b s
    else
      let r := f s
      pctlSend g r.1.2.1 r.1.1 seq r.1.2.2 (modDie g (fun d => { d with answered := some (seq, r.1.1, r.1.2.1, r.1.2.2) }) r.2)
  | none =>
    let r := f s
    pctlSend g r.1.2.1 r.1.1 seq r.1.2.2 (modDie g (fun d => { d with answered := some (seq, r.1.1, r.1.2.1, r.1.2.2) }) r.2)

/-- AUTH of a die. -/
def authBit (s : State) (g : Nat) : Nat := ofBool (die s g).authPctl

/-- Authority of a die moves; slot states never change because of it, but slots that were held off are checked again
(R377, R408). -/
def setAuth (g : Nat) (pctl : Bool) (s : State) : State := recheck g (modDie g (fun d => { d with authPctl := pctl }) s)

/-- PCTLB_KEEPALIVE_LOSS (R408): the holder has missed five keep-alives; authority returns to an own core die that
sends keep-alives. -/
def execPctlbKeepaliveLoss (g : DieId) (s : State) : Host.Outcome State Fault Refusal :=
  guarded (hears s g.val && (die s g.val).authPctl && !(die s g.val).coreLost) s (setAuth g.val false)

/-- KEEPALIVE (R410). -/
def execKeepalive (g : DieId) (seq : U16) (s : State) : Host.Outcome State Fault Refusal :=
  guarded (dieHears s g.val) s (dieAnswer g.val seq fun s =>
    ((0, 0x81, [BitVec.ofNat 8 (authBit s g.val + 2 * ofBool (die s g.val).coreLost), 0]), s))

/-- PCTLB_CLAIM (R408): accepted if the die has declared its core die lost, or authority was handed over. -/
def execPctlbClaim (g : DieId) (seq : U16) (pairId : Byte) (s : State) : Host.Outcome State Fault Refusal :=
  let _ := pairId
  guarded (dieHears s g.val) s (dieAnswer g.val seq fun s =>
    if (die s g.val).coreLost || (die s g.val).authPctl then ((0, 0x82, [0, 1]), setAuth g.val true s)
    else ((0, 0x82, [1, 0]), s))

/-- PCTLB_RELEASE (R410): authority returns to the own core die. -/
def execPctlbRelease (g : DieId) (seq : U16) (s : State) : Host.Outcome State Fault Refusal :=
  guarded (dieHears s g.val) s (dieAnswer g.val seq fun s => ((0, 0x82, [2, 0]), setAuth g.val false s))

/-- PCTLB_WRITE (R410): a power command of the partner. -/
def execPctlbWrite (g : DieId) (j : Fin 16) (seq : U16) (offset : U16) (value : U64) (s : State) :
    Host.Outcome State Fault Refusal :=
  guarded (dieHears s g.val) s (dieAnswer g.val seq fun s =>
    let res : Byte := if !(die s g.val).authPctl then 1 else if slotWritable offset.toNat then 0 else 2
    ((j.val, 0x84, [res, 0]), if res = 2 then s else powerCommand g.val .pctlB j.val offset.toNat value s))

/-- PCTLB_READ (R410): answered whoever holds authority. -/
def execPctlbRead (g : DieId) (j : Fin 16) (seq : U16) (offset : U16) (s : State) : Host.Outcome State Fault Refusal :=
  guarded (dieHears s g.val) s (dieAnswer g.val seq fun s =>
    ((j.val, 0x85, natLE 2 offset.toNat ++ natLE 8 (slotRead s (16 * g.val + j.val) offset.toNat).toNat), s))

/-- EVENT_ACK (R410). -/
def execEventAck (g : DieId) (evSeq : U16) (s : State) : Host.Outcome State Fault Refusal :=
  guarded (dieHears s g.val) s (modDie g.val fun d => { d with events := d.events.filter (·.seq != evSeq) })

/-! ### The partner-control ports -/

def ctlPort (s : State) (g : Nat) : PctlPort := tget {} s.ctl g
def modCtl (g : Nat) (f : PctlPort → PctlPort) (s : State) : State := { s with ctl := tput s.ctl g (f (ctlPort s g)) }

/-- The core die drives its partner-control ports: it is a part of a pair, and runs (R387). -/
def hasCtl (s : State) : Bool := live s && s.straps.pairEn

/-- An answer to the command with this SEQ and one of these types: the command waits no longer. An answer to no command
is ignored. -/
def answered (g : Nat) (seq : U16) (types : List Nat) (f : PctlPort → PctlPort) (s : State) : Host.Outcome State Fault Refusal :=
  guarded (hasCtl s && (ctlPort s g).cmds.any fun c => c.seq == seq && types.contains c.typ) s
    (modCtl g fun x => f { x with cmds := x.cmds.filter (·.seq != seq) })

/-- PCTLB_KEEPALIVE_TICK (R408): every 10 µs while this part holds authority over the partner's die. -/
def execPctlbKeepaliveTick (g : DieId) (s : State) : Host.Outcome State Fault Refusal :=
  guarded (hasCtl s && (ctlPort s g.val).holder) s (pctlCommand 1 0 [] g.val)

/-- KEEPALIVE_ACK (R410): AUTH tells the partner of a hand-over. -/
def execKeepaliveAck (g : DieId) (seq : U16) (auth coreLost : Bool) (s : State) : Host.Outcome State Fault Refusal :=
  answered g.val seq [1] (fun x => { x with holder := auth, coreLost := coreLost }) s

/-- CLAIM_ACK (R410): the answer to CLAIM and RELEASE. -/
def execClaimAck (g : DieId) (seq : U16) (result : Byte) (auth : Byte) (s : State) : Host.Outcome State Fault Refusal :=
  answered g.val seq [2, 3] (fun x => { x with holder := result = 0 && bit auth 0 }) s

/-- WRITE_ACK (R410). -/
def execWriteAck (g : DieId) (seq : U16) (result : Byte) (s : State) : Host.Outcome State Fault Refusal :=
  answered g.val seq [4] (fun x => { x with written := some result }) s

/-- READ_DATA (R410). -/
def execReadData (g : DieId) (seq : U16) (offset : U16) (value : U64) (s : State) : Host.Outcome State Fault Refusal :=
  answered g.val seq [5] (fun x => { x with readBack := some (offset, value) }) s

/-- What the core die does when it hears of a slot event: the same as on a message of its own dies (R22 to R25, R408). -/
def partnerSlotEvent (n b : Nat) (s : State) : State :=
  let s := raiseSlot n b s
  match b with
  | 1 | 3 | 4 => slotTreeGone n s
  | 2 => slotPowerGood n s
  | 5 => modPort n (fun x => { x with lastGasp := true }) s
  | 6 => endLastGasp n s
  | _ => s

/-- PCTLB_EVENT (R408, R410): acknowledged each time, acted on once. -/
def execPctlbEvent (g : DieId) (j : Fin 16) (seq : U16) (bits : U16) (sts : U32) (s : State) :
    Host.Outcome State Fault Refusal :=
  let _ := sts
  guarded (hasCtl s) s fun s =>
    let q := (ctlPort s g.val).seq + 1
    let s := pctlSend g.val 6 j.val q (natLE 2 seq.toNat) (modCtl g.val (fun x => { x with seq := q }) s)
    if (ctlPort s g.val).seen.contains seq then s
    else
      let s := modCtl g.val (fun x => { x with seen := (seq :: x.seen).take 64 }) s
      each ((List.range 13).filter (bit bits ·)) (partnerSlotEvent (16 * g.val + j.val)) s

/-- A command that has waited 10 µs is sent again with the same SEQ, up to 3 times; then it is given up (R409). -/
def resendCommand (g : Nat) (s : State) : State :=
  match (ctlPort s g).cmds with
  | [] => s
  | c :: rest =>
    if c.sends < 4 then
      pctlSend g c.typ c.j c.seq c.payload (modCtl g (fun x => { x with cmds := { c with sends := c.sends + 1 } :: rest }) s)
    else modCtl g (fun x => { x with cmds := rest }) s

/-- An EVENT that has waited 10 µs is sent again, up to 3 times (R410). -/
def resendEvent (g : Nat) (s : State) : State :=
  match (die s g).events with
  | [] => s
  | e :: rest =>
    if e.sends < 4 then
      pctlSend g 0x86 e.j e.seq e.payload (modDie g (fun d => { d with events := { e with sends := e.sends + 1 } :: rest }) s)
    else modDie g (fun d => { d with events := rest }) s

/-- PCTLB_RESEND_TIMEOUT (R409, R410): the oldest frame that waits on a side of port `g`. -/
def execPctlbResendTimeout (g : DieId) (side : PctlSide) (s : State) : Host.Outcome State Fault Refusal :=
  match side with
  | .partner => guarded (hasCtl s) s (resendCommand g.val)
  | .die => guarded (dieHears s g.val) s (resendEvent g.val)

end Sys2Proof.Machine
end

