-- ==== Sys2Proof/Machine/Firmware.lean ====
section
/-! DEFINITION. The flash, its image slots, and the firmware and platform commands (R457 to R459). -/

namespace Sys2Proof.Machine

/-! ### Flash (R457). A cell holds the complement of its byte, so that erased flash lists nothing. -/

def slotSize : Nat := 7 * 2 ^ 20
def flashSize : Nat := 16 * 2 ^ 20
def slotBase (b : Bool) : Nat := if b then slotSize else 0

/-- A byte of the flash. -/
def flashByte (s : State) (a : Nat) : Byte := ~~~ mget s.flash.cells a

/-- Programs one byte: NOR flash turns 1 into 0 and never 0 into 1 (log 81). -/
def programByte (m : Memory) (a : Nat) (b : Byte) : Memory := mput m a (mget m a ||| ~~~b)

/-- Programs bytes from an address upwards. -/
def program (m : Memory) (a : Nat) : List Byte → Memory
  | [] => m
  | b :: r => program (programByte m a b) (a + 1) r

/-- The contents of an image slot. -/
def imageOf (s : State) (b : Bool) : List (Nat × Byte) :=
  (s.flash.cells.filter fun e => decide (slotBase b ≤ e.1 ∧ e.1 < slotBase b + slotSize)).map fun e =>
    (e.1 - slotBase b, ~~~e.2)

/-- VERSION of a slot. -/
def slotVersion (s : State) (b : Bool) : U32 := Config.imageVersion (imageOf s b)

/-- A slot holds a valid image: it passes the checks of the boot ROM, and its VERSION is not below the fused minimum
(R458). -/
def slotValid (s : State) (b : Bool) : Bool :=
  Config.imageGood (imageOf s b) && decide (Config.fusedMinimum.toNat ≤ (slotVersion s b).toNat)

/-! ### Commands (R459) -/

/-- The result of a command for a range of flash: it may not touch the running slot, and must lie in the other. -/
def flashRange (s : State) (off n : Nat) : Nat :=
  let r := slotBase s.pwr.slotB
  let o := slotBase (!s.pwr.slotB)
  if off < r + slotSize ∧ r < off + n ∨ (n = 0 ∧ r ≤ off ∧ off < r + slotSize) then 1
  else if o ≤ off ∧ off + n ≤ o + slotSize then 0
  else 2

/-- `PWR.STS` (R442 to R444). -/
def powerCode (s : State) : Nat :=
  match s.pwr.st with
  | .sleep => 2 | .deepSleep => 3 | .watch => 4
  | _ => if (List.range 16).all (clockGated s) && !s.pwr.moved && !s.pwr.movedBefore then 1 else 0
def powerSts (s : State) : U32 := BitVec.ofNat 32 (powerCode s + s.pwr.refuse.toNat * 16)

/-- A reply whose byte 0 is the result; the other bytes are free (log 23). -/
def fwReply (ctx : CmdCtx) (code res : Nat) (s : State) : State :=
  let i := freshIndex s
  reply ctx code (BitVec.ofNat 8 res :: Config.replyBytes i.1) i.2

/-- FW_QUERY. -/
def fwQueryOp (ctx : CmdCtx) (s : State) : State :=
  let s := begun ctx 0xA0 s
  reply ctx 0xA0 (0 :: Config.fwQueryBytes s.pwr.slotB (slotVersion s false) (slotValid s false) (slotVersion s true)
    (slotValid s true) Config.fusedMinimum) s

/-- FW_WRITE: what has changed has to be verified again. -/
def fwWriteOp (ctx : CmdCtx) (off : Nat) (data : List Byte) (s : State) : State :=
  let s := begun ctx 0xA1 s
  let r := flashRange s off data.length
  if r = 0 then
    fwReply ctx 0xA1 0 { s with flash := { s.flash with
      cells := program s.flash.cells off data, verified := false } }
  else fwReply ctx 0xA1 r s

/-- FW_ERASE. -/
def fwEraseOp (ctx : CmdCtx) (off sectors : Nat) (s : State) : State :=
  let s := begun ctx 0xA2 s
  let r := flashRange s off (sectors * 4096)
  let r := if r = 0 ∧ off % 4096 ≠ 0 then 2 else r
  if r = 0 then
    fwReply ctx 0xA2 0 { s with flash := { s.flash with
      cells := mclear s.flash.cells off (off + sectors * 4096), verified := false } }
  else fwReply ctx 0xA2 r s

/-- FW_VERIFY: the inactive slot, as the boot ROM checks it. -/
def fwVerifyOp (ctx : CmdCtx) (s : State) : State :=
  let s := begun ctx 0xA3 s
  let ok := slotValid s (!s.pwr.slotB)
  fwReply ctx 0xA3 (if ok then 0 else 4) { s with flash := { s.flash with verified := ok } }

/-- FW_ACTIVATE. -/
def fwActivateOp (ctx : CmdCtx) (s : State) : State :=
  let s := begun ctx 0xA4 s
  if s.flash.verified then
    fwReply ctx 0xA4 0 { s with flash := { s.flash with next := some (!s.pwr.slotB) } }
  else fwReply ctx 0xA4 5 s

/-- PLAT_SENSORS: the measured values come with the command. -/
def platSensorsOp (ctx : CmdCtx) (temps : List Byte) (powers : List U16) (s : State) : State :=
  let sts := powerSts s
  reply ctx 0xA8 (0 :: Config.sensorBytes temps powers sts) (begun ctx 0xA8 s)

/-- The firmware runs. -/
def fwRuns (s : State) : Bool := live s && s.pwr.ready

/-- FW_QUERY (R459). -/
def execFwQuery (ctx : CmdCtx) (s : State) : Host.Outcome State Fault Refusal := guarded (fwRuns s) s (fwQueryOp ctx)

/-- FW_WRITE (R459). -/
def execFwWrite (ctx : CmdCtx) (offset : U32) (data : List Byte) (s : State) : Host.Outcome State Fault Refusal :=
  guarded (fwRuns s) s (fwWriteOp ctx offset.toNat data)

/-- FW_ERASE (R459). -/
def execFwErase (ctx : CmdCtx) (offset : U32) (sectors : U32) (s : State) : Host.Outcome State Fault Refusal :=
  guarded (fwRuns s) s (fwEraseOp ctx offset.toNat sectors.toNat)

/-- FW_VERIFY (R459). -/
def execFwVerify (ctx : CmdCtx) (s : State) : Host.Outcome State Fault Refusal := guarded (fwRuns s) s (fwVerifyOp ctx)

/-- FW_ACTIVATE (R459). -/
def execFwActivate (ctx : CmdCtx) (s : State) : Host.Outcome State Fault Refusal := guarded (fwRuns s) s (fwActivateOp ctx)

/-- PLAT_SENSORS (R459). -/
def execPlatSensors (ctx : CmdCtx) (temps : List Byte) (powers : List U16) (s : State) :
    Host.Outcome State Fault Refusal :=
  guarded (fwRuns s) s (platSensorsOp ctx temps powers)

end Sys2Proof.Machine
end

