-- ==== Sys2Proof/Machine/Mailbox.lean ====
section
/-! DEFINITION. Event controller, MSI-X vectors, mailboxes and the I3C sideband (R415 to R441). -/

namespace Sys2Proof.Machine

/-! ### Claim and complete (R420 to R422) -/

/-- The sources that a target may claim: PENDING, routed to it, and above its running level. -/
def claimable (s : State) (t : Nat) : List (Nat × Nat) :=
  if routable s t then
    (s.eic.src.filter fun e => isPending s e.1 && bit e.2.tmask t && decide (runLevel s t < e.2.prio.toNat)).map fun e =>
      (e.1, e.2.prio.toNat)
  else []

/-- The highest priority, ties to the lower source number: the sources come in ascending order. -/
def bestClaim : List (Nat × Nat) → Option (Nat × Nat)
  | [] => none
  | x :: r => match bestClaim r with
    | some y => if x.2 < y.2 then some y else some x
    | none => some x

/-- EIC_CLAIM (R420). -/
def claim (t : Fin 18) (s : State) : State :=
  match bestClaim (claimable s t.val) with
  | none => emit (.claimed t.val 0) s
  | some (x, _) =>
    let s := modSource x (fun c => { c with active := some t, soft := false }) s
    emit (.claimed t.val (BitVec.ofNat 16 (x + 32768))) (modTarget t.val (fun y => { y with last := BitVec.ofNat 10 x }) s)

/-- EIC_CLAIM (R420). -/
def execEicClaim (t : Fin 18) (s : State) : Host.Outcome State Fault Refusal := guarded (live s) s (claim t)

/-- EIC_COMPLETE (R421). -/
def execEicComplete (t : Fin 18) (src : Fin 1024) (s : State) : Host.Outcome State Fault Refusal :=
  guarded (live s && (source s src.val).active == some t) s fun s =>
    wakeTarget src.val (modSource src.val (fun c => { c with active := none }) s)

/-! ### Enables and latches (R417) -/

/-- The sources of the bits set in a word. -/
def wordSources (w : Fin 32) (v : U32) : List Nat := ((List.range 32).filter (bit v ·)).map (32 * w.val + ·)

/-- EN_SET (R417). -/
def execEnSet (w : Fin 32) (v : U32) (s : State) : Host.Outcome State Fault Refusal :=
  guarded (live s) s fun s => each (wordSources w v) (fun x s => wakeTarget x (modSource x (fun c => { c with en := true }) s)) s

/-- EN_CLR (R417). -/
def execEnClr (w : Fin 32) (v : U32) (s : State) : Host.Outcome State Fault Refusal :=
  guarded (live s) s (each (wordSources w v) fun x => modSource x fun c => { c with en := false })

/-- PEND_SET (R417). -/
def execPendSet (w : Fin 32) (v : U32) (s : State) : Host.Outcome State Fault Refusal :=
  guarded (live s) s (each (wordSources w v) fun x => withRises [x] (modSource x fun c => { c with soft := true }))

/-- PEND_CLR (R417). -/
def execPendClr (w : Fin 32) (v : U32) (s : State) : Host.Outcome State Fault Refusal :=
  guarded (live s) s (each (wordSources w v) fun x => modSource x fun c => { c with soft := false })

/-! ### Vectors (R427, R428) -/

/-- MSIX_INTERVAL_EXPIRY (R427). -/
def execMsixIntervalExpiry (f : FuncId) (v : Fin 2048) (s : State) : Host.Outcome State Fault Refusal :=
  guarded (live s && (vec s f.val v.val).running) s (msixDue f.val v.val)

/-- The vectors of a function that hold a Pending Bit send what is due, now that something holds them no longer. -/
def releaseVectors (f : Nat) (s : State) : State :=
  each (((fn s f).vecs.filter fun v => v.2.pend).map Prod.fst) (msixRelease f) s

/-- MSIX_UNMASK (R428): the vector and its function are unmasked, and MSI-X Enable is set (log 80). -/
def execMsixUnmask (f : FuncId) (v : Fin 2048) (s : State) : Host.Outcome State Fault Refusal :=
  guarded (live s) s fun s =>
    releaseVectors f.val
      (modFn f.val (fun x => { x with msixEn := true, fmask := false })
        (modVec f.val v.val (fun y => { y with ctrl := y.ctrl &&& 0xFFFFFFFE }) s))

/-- A write of `INT.VEC_MOD` for the vector selected: an open interval ends, with a message if it has counted events. -/
def vecModWrite (f : Nat) (value : U64) (s : State) : State :=
  let v := field (fn s f).vecSel 0 11
  if v < (fn s f).nVec then
    let s := if (vec s f v).counted != 0 then msixDue f v s else s
    modVec f v (fun y => { y with
      count := value.setWidth 8, time := BitVec.ofNat 10 (field value 8 10), counted := 0, running := false }) s
  else s

/-- INT_VEC_MOD_WRITE (R428). -/
def execIntVecModWrite (f : FuncId) (value : U64) (s : State) : Host.Outcome State Fault Refusal :=
  guarded (hostReaches s f.val) s (vecModWrite f.val value)

/-! ### Notices (R430 to R433, R438) -/

/-- A power state in which the bellwether cores sleep. -/
def coresSleep (s : State) : Bool := s.pwr.st == .sleep || s.pwr.st == .deepSleep || s.pwr.st == .watch

/-- The writer of an inbound slot can reach it. -/
def canCommit (s : State) : Box → Bool
  | .func f => hostReaches s f.val
  | .secure => hostReaches s 0 && s.straps.secHost
  | .i3c => live s && s.mail.i3cAddr.isSome
  | .toCores e => live s && !(eng s e.val).retired
  | .toEngine _ => fwRuns s

/-- A committed notice wakes its receiver (R429, R438). -/
def noticeWakes (b : Box) (s : State) : State :=
  match b with
  | .toEngine e => modEng e.val (fun x => { x with gated := false }) (modTarget e.val (fun y => { y with asleep := false }) s)
  | _ => if coresSleep s then { s with pwr := { s.pwr with domainAwake := true } } else s

/-- Commits the notice with the staged PTR. -/
def commitBox (b : Box) (seq : U16) (typ : Byte) (s : State) : State :=
  noticeWakes b (commitIn (boxKey b) ⟨(box s (boxKey b)).inPtr, seq, typ⟩ s)

/-- MBX_IN_COMMIT (R430, R431). -/
def execMbxInCommit (box : Box) (seq : U16) (typ : Byte) (s : State) : Host.Outcome State Fault Refusal :=
  guarded (canCommit s box) s (commitBox box seq typ)

/-- MBX_OUT_DONE (R432). -/
def execMbxOutDone (box : Box) (s : State) : Host.Outcome State Fault Refusal :=
  match box with
  | .func f => guarded (hostReaches s f.val) s (outDone f.val)
  | .secure => guarded (hostReaches s 0 && s.straps.secHost) s (outDone 128)
  | .i3c => guarded (live s && s.mail.i3cAddr.isSome) s (outDone 129)
  | .toCores _ => done s
  | .toEngine _ => done s

/-- MBX_OUTBOUND_POST (R433). -/
def execMbxOutboundPost (box : Box) (s : State) : Host.Outcome State Fault Refusal :=
  guarded (fwRuns s) s (postWaiting (boxKey box))

/-- The bellwether cores run: in Run, or woken by a notice alone, or by a source that is offered to them (R423, R438). -/
def coresAwake (s : State) : Bool := fwRuns s && (!coresSleep s || s.pwr.domainAwake || calls s (decide <| 16 ≤ ·))

/-- The body size that a command code requires, none for a code that is no command (R124, R209, R210, R250, R292, R311,
R324, R325, R411, R459). -/
def bodySize (code : Nat) : Option Nat :=
  if 0x30 ≤ code ∧ code ≤ 0x35 then some 16
  else if code = 0x40 ∨ code = 0x41 then some 32
  else if code = 0x42 then some 0
  else if 0x50 ≤ code ∧ code ≤ 0x53 then some 16
  else if code = 0x60 ∨ code = 0x61 ∨ code = 0x70 ∨ code = 0x71 then some 16
  else if code = 0x80 ∨ code = 0x82 then some 48
  else if code = 0x81 ∨ code = 0x83 ∨ code = 0x84 ∨ code = 0x85 then some 16
  else if 0x90 ≤ code ∧ code ≤ 0x92 then some 16
  else if code = 0xA0 ∨ code = 0xA8 then some 0
  else if 0xA1 ≤ code ∧ code ≤ 0xA4 then some 16
  else none

/-- The bellwether cores serve a mailbox: that of a function only in the part that drives the bus (R403, R405). -/
def coresServe (s : State) : Box → Bool
  | .func _ => coresAwake s && serves s
  | _ => coresAwake s

/-- A code of R459: accepted on the secure page and over I3C, where no other is. -/
def fwCode (code : Nat) : Bool := decide (0xA0 ≤ code)

/-- The commands of a mailbox: the function that stands as their sender, and the channel. -/
def boxChan : Box → Option Chan
  | .func f => some (.nonSecure f)
  | .secure => some .secure
  | .i3c => some .i3c
  | .toCores _ => none
  | .toEngine _ => none

/-- An on-chip inbound buffer with its size; the other mailboxes point into host memory. -/
def onChip (s : State) : Box → Option (Memory × Nat)
  | .secure => some (s.mail.secIn, 2048)
  | .i3c => some (s.mail.i3cIn, 256)
  | _ => none

/-- The bellwether domain returns to its power state once nothing waits for it (R438). -/
def domainRests (s : State) : State :=
  let busy := s.mail.box.any fun e => (e.1 < 146 && e.2.inFull) || !e.2.taken.isEmpty
  { s with pwr := { s.pwr with domainAwake := s.pwr.domainAwake && busy } }

/-- The block of a notice cannot be had: its PTR is not aligned, or lies outside the buffer (R435). -/
def badPtr (s : State) (b : Box) (n : Notice) : Bool :=
  n.ptr.toNat % 16 != 0 || (match onChip s b with | some m => decide (m.2 < n.ptr.toNat + 16) | none => false)

/-- A notice that the firmware has taken: its block is read, or it is ABORTED at once. -/
def startRead (b : Box) (n : Notice) (s : State) : State :=
  match boxChan b with
  | none => s
  | some _ =>
    if badPtr s b n then domainRests (postOut (boxKey b) ⟨n.ptr, n.seq, 0x01⟩ s)
    else
      let s := modBox (boxKey b) (fun x => { x with taken := x.taken ++ [n] }) s
      match b with
      | .func f => emit (.hostRead f.val n.ptr.toNat (16 + (bodySize n.typ.toNat).getD 0)) s
      | _ => s

/-- The firmware may take the notice of a slot: not while 64 of the function's notices wait (R433), nor while it may not
read the function's memory (R514). -/
def canTake (s : State) (b : Box) : Bool :=
  (box s (boxKey b)).inFull && decide ((box s (boxKey b)).waiting.length < 64) &&
    match b with
    | .func f => coresServe s (.func f) && (fn s f.val).bme
    | .toEngine e => live s && !(eng s e.val).retired
    | _ => coresAwake s

/-- MBX_NOTICE_TAKE (R432): FULL is cleared; COLLISION stays. -/
def execMbxNoticeTake (box : Box) (s : State) : Host.Outcome State Fault Refusal :=
  guarded (canTake s box) s fun s =>
    let n := (Sys2Proof.Machine.box s (boxKey box)).inSlot
    startRead box n (withRises (boxSrcs (boxKey box)) (modBox (boxKey box) fun x => { x with inFull := false }) s)

/-! ### Commands (R434 to R436) -/

/-- Byte `i` of a header. -/
def hdrByte (h : BitVec 128) (i : Nat) : Nat := field h (8 * i) 8
def hdrSeq (h : BitVec 128) : U16 := BitVec.ofNat 16 (field h 16 16)
def hdrLen (h : BitVec 128) : Nat := field h 32 16
def hdrReply (h : BitVec 128) : U64 := BitVec.ofNat 64 (field h 64 64)

/-- REPLY_ADDR is ignored over I3C (R440). -/
def replyAligned (c : Chan) (h : BitVec 128) : Bool := c == .i3c || (hdrReply h).toNat % 16 == 0

/-- BODY_LEN is right for a code, with n of FW_WRITE read from the body (R435, R459). -/
def lenOk (c : Chan) (code len : Nat) (body : List Byte) : Bool :=
  match bodySize code with
  | none => false
  | some z =>
    if code = 0xA1 then
      let n := leNat ((body.drop 4).take 4)
      decide (n ≤ (if c == .i3c then 224 else 2016)) && len == 16 + n
    else len == z

/-- The header checks, in the order of R435. -/
def headerStatus (c : Chan) (n : Notice) (h : BitVec 128) (body : List Byte) : Nat :=
  if hdrByte h 0 != n.typ.toNat || hdrSeq h != n.seq || hdrByte h 1 != 0 || hdrByte h 6 != 0 || hdrByte h 7 != 0
    || !replyAligned c h then 1
  else if (bodySize n.typ.toNat).isNone then 2
  else if fwCode n.typ.toNat == (match c with | .nonSecure _ => true | _ => false) then 4
  else if !lenOk c n.typ.toNat (hdrLen h) body then 3
  else 0

/-- A failed header check is answered with a header and no body (R435). -/
def refuseHeader (c : Chan) (n : Notice) (h : BitVec 128) (st : Nat) (s : State) : State :=
  let at_ := if c == .i3c then 0
    else if !replyAligned c h || (hdrReply h = 0 && c != .secure) then n.ptr else hdrReply h
  writeReply (chanKey c) at_ (replyHeader (hdrByte h 0) (hdrSeq h) 0 st (sender c) (hdrReply h)) ⟨at_, n.seq, n.typ⟩ s

def topoBodyOf (b : List Byte) : TopoBody :=
  ⟨b.getD 0 0, (List.range 5).map fun i => b.getD (1 + i) 0, BitVec.ofNat 16 (dHalf b 6), b.getD 8 0⟩
def admitBodyOf (b : List Byte) : AdmitBody :=
  ⟨BitVec.ofNat 16 (dHalf b 0), b.getD 2 0, b.getD 3 0, b.getD 4 0, b.getD 6 0, BitVec.ofNat 32 (leNat ((b.drop 8).take 4))⟩
def bindBodyOf (b : List Byte) : BindBody :=
  ⟨b.getD 0 0, b.getD 1 0, BitVec.ofNat 16 (dHalf b 2), BitVec.ofNat 16 (dHalf b 4), BitVec.ofNat 16 (dHalf b 6),
    BitVec.ofNat 16 (dHalf b 8)⟩
def funcDescOf (b : List Byte) : FuncDesc :=
  ⟨b.getD 0 0, b.getD 1 0, BitVec.ofNat 16 (dHalf b 2), BitVec.ofNat 16 (dHalf b 4), BitVec.ofNat 16 (dHalf b 6),
    BitVec.ofNat 16 (dHalf b 8), BitVec.ofNat 16 (dHalf b 10), BitVec.ofNat 32 (leNat ((b.drop 12).take 4)), b.getD 16 0,
    BitVec.ofNat 16 (dHalf b 18), BitVec.ofNat 32 (leNat ((b.drop 20).take 4)), BitVec.ofNat 64 (leNat ((b.drop 24).take 8))⟩
def assignBodyOf (b : List Byte) : AssignBody := ⟨BitVec.ofNat 16 (dHalf b 0), b.getD 2 0, b.getD 3 0⟩

/-- SCRIPT_LOAD over the mailbox: the image is read from PF0's memory, and the command SCRIPT_LOAD brings it. -/
def scriptLoadCmd (ctx : CmdCtx) (b : List Byte) (s : State) : State :=
  if sender ctx.chan != 0 then scriptLoadOp ctx (dByte b 12) [] s
  else begun ctx 0x50 (emit (.hostRead 0 (leNat (b.take 8)) (leNat ((b.drop 8).take 4))) s)

/-- Carries out a command whose header is good. PLAT_SENSORS waits for its measurements. -/
def runCommand (ctx : CmdCtx) (code : Nat) (b : List Byte) (s : State) : State :=
  match code with
  | 0x30 => topoPortResetOp ctx (topoBodyOf b) s
  | 0x31 => topoDeviceResetOp ctx (topoBodyOf b) s
  | 0x32 => topoPortSuspendOp ctx (topoBodyOf b) s
  | 0x33 => topoPortResumeOp ctx (topoBodyOf b) s
  | 0x34 => topoPortDisableOp ctx (topoBodyOf b) s
  | 0x35 => topoBindSlotOp ctx (topoBodyOf b) s
  | 0x40 => admitOp ctx (admitBodyOf b) s
  | 0x41 => releaseOp ctx (admitBodyOf b) s
  | 0x42 => queryOp ctx s
  | 0x50 => scriptLoadCmd ctx b s
  | 0x51 => scriptUnloadOp ctx (dByte b 12) s
  | 0x52 => scriptBindOp ctx (bindBodyOf b) s
  | 0x53 => scriptUnbindOp ctx (bindBodyOf b) s
  | 0x60 => queueStopCmd ctx (dHalf b 0) s
  | 0x61 => queueStartCmd ctx (dHalf b 0) s
  | 0x70 => bufCarveCmd ctx (BitVec.ofNat 16 (dHalf b 0)) (b.getD 2 0) s
  | 0x71 => bufReleaseCmd ctx (BitVec.ofNat 16 (dHalf b 0)) (b.getD 2 0) s
  | 0x80 => vfCreateOp ctx (funcDescOf b) s
  | 0x81 => vfDestroyOp ctx (dByte b 0) s
  | 0x82 => funcModifyOp ctx (funcDescOf b) s
  | 0x83 => funcQueryOp ctx (dByte b 0) s
  | 0x84 => devAssignOp ctx (assignBodyOf b) s
  | 0x85 => devQueryOp ctx (dByte b 0) (dHalf b 2) s
  | 0x90 => pairQueryOp ctx s
  | 0x91 => pairSwitchOp ctx (BitVec.ofNat 32 (leNat (b.take 4))) s
  | 0x92 => pairResyncOp ctx s
  | 0xA0 => fwQueryOp ctx s
  | 0xA1 => fwWriteOp ctx (leNat (b.take 4)) ((b.drop 16).take (leNat ((b.drop 4).take 4))) s
  | 0xA2 => fwEraseOp ctx (leNat (b.take 4)) (leNat ((b.drop 4).take 4)) s
  | 0xA3 => fwVerifyOp ctx s
  | 0xA4 => fwActivateOp ctx s
  | 0xA8 => begun ctx 0xA8 s
  | _ => s

/-- A command block has been read (R435). -/
def gotBlock (k : Nat) (c : Chan) (n : Notice) (ok : Bool) (h : BitVec 128) (body : List Byte) (s : State) : State :=
  if !ok then postOut k ⟨n.ptr, n.seq, 0x01⟩ s
  else
    let st := headerStatus c n h body
    if st != 0 then refuseHeader c n h st s
    else runCommand ⟨c, n.seq, n.ptr, hdrReply h⟩ n.typ.toNat body s

/-- MBX_COMMAND_READ (R435): the block comes from host memory, or from the on-chip inbound buffer. -/
def execMbxCommandRead (box : Box) (ok : Bool) (hdr : BitVec 128) (body : List Byte) (s : State) :
    Host.Outcome State Fault Refusal :=
  match boxChan box, (Sys2Proof.Machine.box s (boxKey box)).taken with
  | some c, n :: rest =>
    guarded (coresServe s box) s fun s =>
      let s := modBox (boxKey box) (fun x => { x with taken := rest }) s
      domainRests (match onChip s box with
        | some m =>
          let b := mread m.1 n.ptr.toNat (m.2 - n.ptr.toNat)
          gotBlock (boxKey box) c n true (BitVec.ofNat 128 (leNat (b.take 16))) (b.drop 16) s
        | none => gotBlock (boxKey box) c n ok hdr body s)
  | _, _ => done s

/-! ### I3C (R440) -/

/-- The status byte at offset 0x0220. -/
def i3cStatus (s : State) : Nat :=
  let b := box s 129
  ofBool b.inFull + 2 * ofBool b.inColl + 4 * ofBool b.outFull + 8 * ofBool b.outColl

/-- The 11 bytes of a notice. -/
def noticeBytes (n : Notice) : List Byte := natLE 8 n.ptr.toNat ++ natLE 2 n.seq.toNat ++ [n.typ]

/-- One byte of an I3C write at an offset. -/
def i3cWriteByte (a : Nat) (b : Byte) (s : State) : State :=
  if a < 0x100 then { s with mail := { s.mail with i3cIn := mput s.mail.i3cIn a b } }
  else if 0x200 ≤ a ∧ a < 0x20A then { s with mail := { s.mail with i3cStage := mput s.mail.i3cStage (a - 0x200) b } }
  else if a = 0x20A then
    let m := s.mail.i3cStage
    commitBox .i3c (BitVec.ofNat 16 (leNat (mread m 8 2))) b
      (modBox 129 (fun x => { x with inPtr := BitVec.ofNat 64 (leNat (mread m 0 8)) }) s)
  else if a = 0x220 then if bit b 1 then modBox 129 (fun x => { x with inColl := false }) s else s
  else if a = 0x221 then if b = 1 then outDone 129 s else s
  else s

/-- The bytes of an I3C write, at rising offsets. -/
def i3cWriteBytes (a : Nat) : List Byte → State → State
  | [], s => s
  | b :: r, s => i3cWriteBytes (a + 1) r (i3cWriteByte a b s)

/-- A byte that an I3C read returns; offsets without contents read 0. -/
def i3cReadByte (s : State) (a : Nat) : Byte :=
  if a < 0x100 then mget s.mail.i3cIn a
  else if a < 0x200 then mget s.mail.i3cOut (a - 0x100)
  else if a < 0x20A then mget s.mail.i3cStage (a - 0x200)
  else if a = 0x20A then (box s 129).inSlot.typ
  else if 0x210 ≤ a ∧ a < 0x21B then (noticeBytes (box s 129).outSlot).getD (a - 0x210) 0
  else if a = 0x220 then BitVec.ofNat 8 (i3cStatus s)
  else 0

/-- The target answers I3C transfers at its dynamic address. -/
def i3cHears (s : State) : Bool := live s && s.mail.i3cAddr.isSome

/-- I3C_PRIVATE_WRITE (R440). -/
def execI3cPrivateWrite (offset : U16) (data : List Byte) (s : State) : Host.Outcome State Fault Refusal :=
  guarded (i3cHears s) s fun s =>
    i3cWriteBytes offset.toNat data { s with mail := { s.mail with i3cOffset := offset } }

/-- I3C_PRIVATE_READ (R440). -/
def execI3cPrivateRead (count : Nat) (s : State) : Host.Outcome State Fault Refusal :=
  guarded (i3cHears s) s fun s =>
    emit (.i3cData ((List.range count).map fun i => i3cReadByte s (s.mail.i3cOffset.toNat + i))) s

/-- ENTDAA (R440): a target without an address takes the one given. -/
def execEntdaa (addr : BitVec 7) (s : State) : Host.Outcome State Fault Refusal :=
  guarded (live s && s.mail.i3cAddr.isNone) s fun s => { s with mail := { s.mail with i3cAddr := some addr } }

/-- I3C_BUS_RESET (R440): both slots are cleared. -/
def execI3cBusReset (s : State) : Host.Outcome State Fault Refusal :=
  guarded (live s) s fun s =>
    withRises [1022] (modBox 129 fun b => { b with
      inSlot := ⟨0, 0, 0⟩, inFull := false, inColl := false, outSlot := ⟨0, 0, 0⟩, outFull := false, outColl := false
      inPtr := 0 }) { s with mail := { s.mail with i3cStage := [] } }

end Sys2Proof.Machine
end

