-- ==== Sys2Proof/Machine/Power.lean ====
section
/-! DEFINITION. Power states, waking, resets and the boot (R442 to R461, R486, R498 to R500). -/

namespace Sys2Proof.Machine

/-! ### Into a lower state (R444 to R447) -/

/-- `PWR.CTL.TARGET`; 1, 6 and 7 act as 0. -/
def targetState (s : State) : Option PowerState :=
  match field s.pwr.ctl 0 3 with
  | 2 => some .sleep | 3 => some .deepSleep | 4 => some .watch | 5 => some .off | _ => none

/-- WATCH_PERIOD in ms: 0 acts as 1, above 1,000 acts as 1,000 (R448). -/
def watchPeriod (s : State) : Nat := max 1 (min 1000 (field s.pwr.ctl 16 10))

/-- A write of `PWR.CTL`: REFUSE is cleared (R444). -/
def pwrCtlWrite (v : U32) (s : State) : State :=
  { s with pwr := { s.pwr with ctl := v &&& 0x03FF0007, refuse := 0 } }

/-- PWR_TARGET_WRITE (R444). -/
def execPwrTargetWrite (value : U32) (s : State) : Host.Outcome State Fault Refusal :=
  guarded (hostReaches s 0) s (pwrCtlWrite value)

/-- A reservation of an endpoint that a driver admitted, or a floating one, is live. -/
def driverReserves (s : State) : Bool := s.sch.live.any fun e => !hubRung s e.2

/-- Enumeration or a reset is in progress on a port (R130). -/
def portsBusy (s : State) : Bool :=
  (List.range 64).any fun p => if h : p < 64 then treeBusy s p || enumBelow s (.root ⟨p, h⟩) else false

/-- The entry checks, in their order; 0 for an entry. A VF's D-state reaches the part by no command: a created VF is
taken to be in D0 (log 82). -/
def entryRefusal (s : State) : Nat :=
  if s.pair.st != .single then 1
  else if s.fns.fn.any fun e => e.1 != 0 && e.2.created then 2
  else if driverReserves s then 3
  else if portsBusy s then 4
  else 0

/-- The part checks the entry to a state: it is refused, or the status-change reservations are released first (R445). -/
def beginEntry (st : PowerState) (s : State) : State :=
  let r := entryRefusal s
  if r != 0 then { s with pwr := { s.pwr with refuse := BitVec.ofNat 3 r } }
  else dropRes (hubRung s) { s with pwr := { s.pwr with entering := some st } }

/-- PF0_D3HOT_ENTRY (R444). Off is entered through L2 only. -/
def execPf0D3hotEntry (s : State) : Host.Outcome State Fault Refusal :=
  guarded (live s && !s.pwr.d3hot && s.pwr.st == .run) s fun s =>
    let s := { s with pwr := { s.pwr with d3hot := true } }
    match targetState s with
    | some .off => s
    | some st => beginEntry st s
    | none => s

/-- PME_TURN_OFF (R444): the handshake is answered; with TARGET OFF and the checks passed the part is Off. -/
def execPmeTurnOff (s : State) : Host.Outcome State Fault Refusal :=
  guarded (live s && s.pwr.st == .run) s fun s =>
    let s := emit .pmeAck s
    if targetState s == some .off then
      let r := entryRefusal s
      if r != 0 then { s with pwr := { s.pwr with refuse := BitVec.ofNat 3 r } }
      else stopLanes { s with pwr := { s.pwr with st := .off, entering := none, ready := false } }
    else s

/-- The frames have slewed to the length that the state needs (R446). -/
def slewed (s : State) (st : PowerState) : Bool :=
  match st with | .deepSleep | .watch => s.tb.flen == alwaysOnLen | _ => true

/-- What a sample reads of a slot (R448). -/
def sampleOf (s : State) (n : Nat) : SlotSample :=
  let x := slot s n
  (x.present, feedAOk x, feedBOk x, x.st, x.tripCode)

/-- Suspends a root port on entry; a resume that ran on it is over. -/
def suspendPort (p : Nat) (s : State) : State :=
  if h : p < 64 then
    suspendOp (.root ⟨p, h⟩) (modPort p (fun x => { x with
      resuming := false, resumeAt := none, resumeEnded := false, byDevice := false, coincident := false }) s)
  else s

/-- The enabled root ports that are not suspended. -/
def awakePorts (s : State) : List Nat :=
  (s.topo.port.filter fun e => e.2.enabled && (!e.2.suspended || e.2.resuming)).map Prod.fst

/-- The part enters the state: ports suspended; in Watch the dies are parked and the snapshot is taken. -/
def enterState (st : PowerState) (s : State) : State :=
  let ps := awakePorts s
  let s := each ps suspendPort s
  let s := if st == .watch then
      { each (List.range 4) (fun g => modDie g fun d => { d with parked := true }) s with
        pwr := { s.pwr with snapshot := (List.range 64).map fun n => (n, sampleOf s n) } }
    else s
  { s with pwr := { s.pwr with
    st := st, entering := none, slept := ps, wake := .none_, moved := false, domainAwake := false } }

/-- LOW_POWER_ENTER (R445, R446). -/
def execLowPowerEnter (s : State) : Host.Outcome State Fault Refusal :=
  match s.pwr.entering with
  | some st =>
    guarded (live s && s.pwr.st == .run && !(s.sch.live.any fun e => hubRung s e.2) && slewed s st) s (enterState st)
  | none => done s

/-- ENGINE_CLOCK_GATE (R443): the engine has had no ready thread for 1 µs. -/
def execEngineClockGate (e : EngId) (s : State) : Host.Outcome State Fault Refusal :=
  guarded (live s && !clockNeeded s e.val) s (modEng e.val fun x => { x with gated := true })

/-! ### Waking (R450 to R453) -/

/-- The slots that a sample finds changed, `PWR.WATCH_MASK` left out (R448). -/
def changedSlots (s : State) : List Nat :=
  (s.pwr.snapshot.filter fun e => !bit s.pwr.watchMask e.1 && e.2 != sampleOf s e.1).map Prod.fst

/-- The suspended root ports whose remote-wake detectors a sample finds latched. -/
def wokenPorts (s : State) (wakes : U64) : List Nat :=
  (List.range 64).filter fun p => (bit wakes p && (port s p).suspended) || s.pwr.wakes.any fun l => locPort s l == p

/-- The cause of a sample: the lowest code, with the lowest slot or port (R461). -/
def sampleCause (wakeIn : Bool) (slots ports : List Nat) : Option (Nat × Nat) :=
  if wakeIn then some (2, 0)
  else match slots, ports with
    | n :: _, _ => some (3, n)
    | [], p :: _ => some (4, p)
    | [], [] => none

/-- WATCH_SAMPLE (R448): a difference wakes the part. -/
def execWatchSample (wakeIn : Bool) (wakes : U64) (s : State) : Host.Outcome State Fault Refusal :=
  guarded (live s && s.pwr.st == .watch && s.pwr.waking.isNone) s fun s =>
    let ports := wokenPorts s wakes
    let found : List Loc := ports.filterMap fun p => if h : p < 64 then
        (if s.pwr.wakes.any (fun l => locPort s l == p) then none else some (.root ⟨p, h⟩)) else none
    let s := { s with pwr := { s.pwr with wakes := s.pwr.wakes ++ found } }
    match sampleCause wakeIn (changedSlots s) ports with
    | some c => startWake c.1 c.2 s
    | none => s

/-- PF0_D0_ENTRY (R451). -/
def execPf0D0Entry (s : State) : Host.Outcome State Fault Refusal :=
  guarded (live s && s.pwr.d3hot) s fun s => startWake 1 0 { s with pwr := { s.pwr with d3hot := false } }

/-- WAKE_IN_ASSERT (R448, R451, R453): Watch sees WAKE_IN in its samples only; in Off, WAKE_OUT goes low. -/
def execWakeInAssert (s : State) : Host.Outcome State Fault Refusal :=
  done (if s.pwr.st == .off then
      (if s.pwr.wakeOut then s else emit (.wakeOut true) { s with pwr := { s.pwr with wakeOut := true } })
    else if live s && s.pwr.st != .watch then startWake 2 0 s
    else s)

/-- A wake from Deep sleep or Watch is under way. -/
def deepWake (s : State) : Bool :=
  live s && (s.pwr.st == .deepSleep || s.pwr.st == .watch) && s.pwr.waking.isSome

def wakeStep (w : WakeStep) (s : State) : State := { s with pwr := { s.pwr with wake := w } }

/-- WAKE_REGULATOR_READY (R452). -/
def execWakeRegulatorReady (s : State) : Host.Outcome State Fault Refusal :=
  guarded (deepWake s && s.pwr.wake == .none_) s (wakeStep .regulator)

/-- WAKE_CLOCK_READY (R452). -/
def execWakeClockReady (s : State) : Host.Outcome State Fault Refusal :=
  guarded (deepWake s && s.pwr.wake == .regulator) s (wakeStep .clock)

/-- WAKE_MEMORY_READY (R452): the mule dies are unparked. -/
def execWakeMemoryReady (s : State) : Host.Outcome State Fault Refusal :=
  guarded (deepWake s && s.pwr.wake == .clock) s fun s => each (List.range 4) keepAlive (wakeStep .memory s)

/-- The part reaches Run: cause, PM_PME, the wakes of R450, and the resume of the ports that the entry suspended. Their
status-change endpoints are admitted again as the resumes end. -/
def reachRun (c : Nat × Nat) (s : State) : State :=
  let ws := s.pwr.wakes
  let ps := s.pwr.slept
  let s := { s with pwr := { s.pwr with
    st := .run, wake := .none_, waking := none, wakes := [], slept := [], snapshot := [], domainAwake := false
    wakeCause := BitVec.ofNat 64 (c.1 + c.2 * 256 + epoch32 s 0 * 2 ^ 32) } }
  let s := if s.pwr.d3hot then emit .pme s else s
  let s := each ws noteWake s
  each ps (fun p s => if h : p < 64 then
    (if (port s p).suspended then resumeOp (.root ⟨p, h⟩) s else s) else s) s

/-- WAKE_LOGIC_READY (R452): a wake from Sleep runs this step only. -/
def execWakeLogicReady (s : State) : Host.Outcome State Fault Refusal :=
  match s.pwr.waking with
  | some c => guarded (live s && (s.pwr.st == .sleep || (deepWake s && s.pwr.wake == .memory))) s (reachRun c)
  | none => done s

/-! ### Resets (R454 to R456, R486) -/

/-- What kinds of reset keep. -/
structure ResetForm where
  /-- RESET_KIND: 1 power-on, 2 PERST#, 3 hot reset, 4 plain, 5 clean. -/
  kind : Nat
  /-- The page map, the retired engines and the error totals are cleared too. -/
  clean : Bool
  /-- PCIe configuration space and the MSI-X tables are reset. -/
  pcie : Bool
deriving DecidableEq, Repr

/-- The notices lost on a mailbox: the one in its inbound slot, those taken, and the unanswered commands (R437). -/
def lostNotices (b : MBox) : List Notice := (if b.inFull then [b.inSlot] else []) ++ b.taken ++ b.unanswered

/-- The mailboxes after a core-die reset: empty, then an ABORTED notice for each command lost, before any other. -/
def abortLost (old : Tbl MBox) (s : State) : State :=
  each (old.filter fun e => e.1 < 130) (fun e => postAborted e.1 (lostNotices e.2)) s

/-- A root port after a reset: what its pins show, and nothing else, is kept. -/
def portAfter (x : Port) : Port := { pg := x.pg, bias := x.bias, farEnd := x.farEnd }

/-- A function after a reset that keeps PCIe configuration space: its enables and its MSI-X table, with moderation at its
reset values. -/
def funcAfter (f : Nat) (x : Func) : Func :=
  { funcInit f with
    enabled := x.enabled, bme := x.bme, msixEn := x.msixEn, fmask := x.fmask
    vecs := x.vecs.map fun v => (v.1, { v.2 with count := 1, time := 1, counted := 0, running := false }) }

/-- Pages lent to replace a retired one stay out of the pool (R316). -/
def lentPages (d : Dma) : Tbl Page := d.page.filter fun e => e.2.state == .assigned && e.2.owner.isNone

/-- The page map, spares and retirements, as a reset that is not clean keeps them. -/
def dmaAfter (r : ResetForm) (d : Dma) : Dma :=
  let base : Dma := { maxPayload := if r.pcie then 128 else d.maxPayload }
  if r.clean then base
  else { base with remap := d.remap, sparesUsed := d.sparesUsed, retired := d.retired, page := lentPages d }

/-- The error classes: settings and totals are kept, counts are not; retirements of pages and engines stand. -/
def errAfter (r : ResetForm) (e : Errs) : Errs :=
  if r.clean then {}
  else { last := e.last, fatal := e.fatal
         cls := e.cls.map fun c => (c.1, { c.2 with counts := [], stopped := if c.1 < 2 then c.2.stopped else [] }) }

/-- Engines: nothing runs; a retired engine stays retired unless the reset is clean. -/
def engAfter (r : ResetForm) (x : Engines) : Engines :=
  if r.clean then {} else { eng := (x.eng.filter fun e => e.2.retired).map fun e => (e.1, { retired := true }) }

/-- NM1_OK and RETIRED_ENG are kept with them. -/
def schAfter (r : ResetForm) (x : Sched) : Sched :=
  if r.clean then {} else { nm1Ok := x.nm1Ok, retiredEng := x.retiredEng }

/-- `TB.EPOCH` and `TB.TICK` keep counting. -/
def tbAfter (t : Timebase) : Timebase :=
  { tick := t.tick, epoch := t.epoch, uframe := t.uframe, frameAt := t.frameAt, uframeAt := t.uframeAt, flen := t.flen }

/-- The pair block: `PAIR.CFG` and `PAIR.WIRE` are kept; CONFLICT and FAILED end only with a power-on reset (R394). -/
def pairAfter (s : State) : Pair :=
  { cfg := s.pair.cfg, wire := s.pair.wire
    st := if s.pair.st == .conflict || s.pair.st == .failed then s.pair.st
      else if s.straps.pairEn then .discover else .single }

/-- The slot events and their enables lie in the mule dies, and are kept. -/
def eicAfter (x : Eic) : Eic :=
  { evt := x.evt.filter fun e => decide (64 ≤ e.1 ∧ e.1 < 128), slotEn := x.slotEn }

/-- A reset of the core die other than a power-on reset (R454, R486). -/
def resetCore (r : ResetForm) (s : State) : State :=
  abortLost s.mail.box { s with
    eic := eicAfter s.eic
    mail := { i3cAddr := s.mail.i3cAddr }
    eng := engAfter r s.eng
    sch := schAfter r s.sch
    front := {}
    dma := dmaAfter r s.dma
    tb := tbAfter s.tb
    topo := { port := s.topo.port.map fun e => (e.1, portAfter e.2) }
    fns := if r.pcie then {} else
      { vfEnable := s.fns.vfEnable, numVfs := s.fns.numVfs, fn := s.fns.fn.map fun e => (e.1, funcAfter e.1 e.2) }
    err := errAfter r s.err
    pair := pairAfter s
    ctl := []
    pwr := { kind := BitVec.ofNat 8 r.kind, wakeOut := s.pwr.wakeOut, perst := s.pwr.perst
             d3hot := !r.pcie && s.pwr.d3hot } }

/-- As the core die leaves reset, its mule dies return to its authority, and slots held off are checked again (R20, R21,
R454). -/
def takeDies (s : State) : State :=
  each (List.range 4) (fun g s =>
    if (die s g).powered then recheck g (modDie g (fun d => { d with authPctl := false, coreLost := false, parked := false }) s)
    else s) s

/-- A part that waits behind an active partner (R394). -/
def isStandby (s : State) : Bool := s.pair.st == .sync || s.pair.st == .standby || s.pair.st == .stale

/-- PERST# or a hot reset of the active part of a pair: HANDOVER goes out first, and the reset is clean; so is PERST# of the
standby (R455). -/
def pcieReset (kind : Nat) (s : State) : State :=
  let paired := s.pair.st == .active || s.pair.st == .activeAlone
  let clean := paired || (kind == 2 && isStandby s)
  resetCore ⟨kind, clean, true⟩ (if paired then sendHandover 4 s else s)

/-- CORE_RESET (R454): a plain core-die reset, also out of a fatal error (R386). -/
def execCoreReset (s : State) : Host.Outcome State Fault Refusal :=
  guarded (!s.pwr.por && s.pwr.st != .off) s fun s => takeDies (resetCore ⟨4, false, false⟩ s)

/-- PERST_ASSERT (R454, R455, R461). -/
def execPerstAssert (s : State) : Host.Outcome State Fault Refusal :=
  done (if s.pwr.perst then s
    else
      let s := { s with pwr := { s.pwr with perst := true } }
      if s.pwr.por || s.pwr.st == .off then s else pcieReset 2 s)

/-- PERST_DEASSERT (R453, R498): WAKE_OUT is released, and the core die leaves reset. -/
def execPerstDeassert (s : State) : Host.Outcome State Fault Refusal :=
  guarded s.pwr.perst s fun s =>
    let s := if s.pwr.wakeOut then emit (.wakeOut false) s else s
    let s := { s with pwr := { s.pwr with perst := false, wakeOut := false } }
    if s.pwr.por || s.pwr.st == .off then s else takeDies s

/-- HOT_RESET (R454, R455). -/
def execHotReset (s : State) : Host.Outcome State Fault Refusal :=
  guarded (!s.pwr.por && s.pwr.st != .off && !s.pwr.perst) s fun s => takeDies (pcieReset 3 s)

/-- YIELD_RESET_DONE (R394, R407): the clean core-die reset of a part that has yielded. -/
def execYieldResetDone (s : State) : Host.Outcome State Fault Refusal :=
  guarded (live s && s.pair.st == .yielded) s fun s =>
    setPair (if bit s.pair.cfg 4 then .discover else .failed) (takeDies (resetCore ⟨5, true, false⟩ s))

/-- Power-on reset of the core die: everything on it is cleared; the slots and the flash are not on it. -/
def powerOn (s : State) : State :=
  { State.reset with
    pending := s.pending, out := s.out, free := s.free, slots := s.slots, flash := s.flash, straps := s.straps
    eic := eicAfter s.eic
    topo := { port := s.topo.port.map fun e => (e.1, portAfter e.2) }
    pwr := { por := true, perst := s.pwr.perst, wakeOut := s.pwr.wakeOut } }

/-- POWER_ON_RESET (R454). -/
def execPowerOnReset (s : State) : Host.Outcome State Fault Refusal := done (powerOn s)

/-- CORE_RAIL_LOSS (R499): in Off, the core rails may be absent. -/
def execCoreRailLoss (s : State) : Host.Outcome State Fault Refusal := guarded (s.pwr.st != .off) s powerOn

/-- POWER_ON_RESET_END (R4, R5, R498): the straps are sampled. -/
def execPowerOnResetEnd (pairEn : Bool) (pairId : Bool) (secHost : Bool) (s : State) : Host.Outcome State Fault Refusal :=
  guarded s.pwr.por s fun s =>
    takeDies { s with
      straps := { pairEn := pairEn, pairId := pairId, secHost := secHost }
      pair := { s.pair with st := if pairEn then .discover else .single }
      pwr := { s.pwr with por := false } }

/-! ### The boot (R458) -/

/-- The image that the boot ROM takes: the activated slot while it is valid, else the highest VERSION, ties to A. -/
def bootSlot (s : State) : Option Bool :=
  let byVersion := if slotValid s false then
      (if slotValid s true && decide ((slotVersion s false).toNat < (slotVersion s true).toNat) then some true else some false)
    else if slotValid s true then some true else none
  match s.flash.next with
  | some b => if slotValid s b then some b else byVersion
  | none => byVersion

/-- The source settings that the firmware gives at boot: free values (log 25). -/
def bootSource (n : Nat) : Source :=
  { en := Config.sourceEnable n, prio := Config.sourcePrio n, tmask := Config.sourceMask n }

/-- The firmware runs: sources and thresholds have their boot settings, the script region is clear. -/
def booted (b : Bool) (s : State) : State :=
  { s with
    pwr := { s.pwr with ready := true, error := false, slotB := b, resetKind := s.pwr.kind, version := slotVersion s b }
    eic := { s.eic with
      src := (List.range 1024).map fun n =>
        (n, { bootSource n with hvec := (source s n).hvec, hosten := (source s n).hosten, soft := (source s n).soft })
      tgt := (List.range 18).map fun t => (t, { target s t with thr := Config.targetThreshold t }) }
    eng := { s.eng with imem := [], scripts := [], rules := [] } }

/-- BOOT_DONE (R458). -/
def execBootDone (s : State) : Host.Outcome State Fault Refusal :=
  guarded (live s && !s.pwr.perst && !s.pwr.ready && !s.pwr.error) s fun s =>
    match bootSlot s with
    | some b => booted b s
    | none => { s with pwr := { s.pwr with error := true, resetKind := s.pwr.kind } }

end Sys2Proof.Machine
end

