-- ==== Sys2Proof/Machine/Regs.lean ====
section
/-! DEFINITION. The register map: writes of BAR0 (R469 to R482). A write to a register that has a row of its own does what
that row does. -/

namespace Sys2Proof.Machine

/-- The state after a command that always completes. -/
def after (f : State → Host.Outcome State Fault Refusal) (s : State) : State :=
  match f s with | .next t => t | _ => s

/-- One half of a 64-bit register, replaced. -/
def withHalf (old : U64) (high : Bool) (v : U32) : U64 :=
  setField old (if high then 32 else 0) 32 v.toNat

/-- A vector register: EN is written, and a VECTOR not below N_VEC is ignored (R426). -/
def vecReg (old : U32) (nVec : Nat) (v : U32) : U32 :=
  BitVec.ofNat 32 ((if field v 0 11 < nVec then field v 0 11 else field old 0 11) + ofBool (bit v 15) * 2 ^ 15)

/-! ### The function window and the mailbox set (R475, R480) -/

/-- The 64-bit registers of a function window, by offset. -/
def winGet (s : State) (f off : Nat) : Option U64 :=
  let x := fn s f
  match off with
  | 0x08 => some x.qBase
  | 0x10 => some (if selCr x then x.qCfgCr else x.qCfgSq)
  | 0x28 => some x.dbBase
  | 0x48 => let v := vec s f (field x.vecSel 0 11)
            some (BitVec.ofNat 64 (v.count.toNat + v.time.toNat * 256 + v.counted.toNat * 2 ^ 32))
  | _ => none

/-- Writes one; `Q.BASE` and `Q.CFG` not while BUSY (R257), the base of `Q.DB_BASE` not while EN. -/
def winPut (f off : Nat) (v : U64) (s : State) : State :=
  let x := fn s f
  match off with
  | 0x08 => if x.busy then s else modFn f (fun x => { x with qBase := v &&& 0xFFFFFFFFFFFFFFC0 }) s
  | 0x10 =>
    if x.busy then s
    else if selCr x then modFn f (fun x => { x with qCfgCr := v &&& 0x07FF001F }) s
    else modFn f (fun x => { x with qCfgSq := v &&& 0x00000FFF3FFF01FF }) s
  | 0x28 => modFn f (fun x => { x with
      dbBase := setField (if bit x.dbBase 0 then x.dbBase else v &&& 0xFFFFFFFFFFFFFFC0) 0 1 (ofBool (bit v 0)) }) s
  | 0x48 => vecModWrite f v s
  | _ => s

/-- `Q.CMD`: an operation of the selected queue begins; ignored while one is in progress (R257). -/
def qCmdWrite (f : Nat) (v : U32) (s : State) : State :=
  if (fn s f).busy || field v 0 2 = 0 then s
  else modFn f (fun x => { x with busy := true, op := field v 0 2 }) s

/-- `Q.KICK` (R269). -/
def kickWrite (f : FuncId) (v : U32) (s : State) : State :=
  let n : Fin 4096 := ⟨field v 0 12, by unfold field; omega⟩
  let i := BitVec.ofNat 16 (field v 16 16)
  if bit v 12 then after (execQKickCr f n i) s
  else if bit v 13 then after (execQKickSqInval f n i) s
  else after (execQKickSq f n i) s

/-- The 32-bit registers of a function window. -/
def winWrite (f : FuncId) (off : Nat) (v : U32) (s : State) : State :=
  match off with
  | 0x00 => if (fn s f.val).busy then s else modFn f.val (fun x => { x with qSel := v &&& 0x1FFF }) s
  | 0x04 => qCmdWrite f.val v s
  | 0x1C => kickWrite f v s
  | 0x38 => clearEvt (.q f) v s
  | 0x3C => modFn f.val (fun x => { x with qEvtVec := vecReg x.qEvtVec x.nVec v }) s
  | 0x40 => modFn f.val (fun x => { x with vecSel := v &&& 0x7FF }) s
  | _ => s

/-- A mailbox set: `b` is the mailbox and `f` the function whose vectors it uses. -/
def mbxWrite (b : Box) (f off : Nat) (v : U32) (s : State) : State :=
  let k := boxKey b
  match off with
  | 0x08 => commitBox b (BitVec.ofNat 16 (field v 0 16)) (BitVec.ofNat 8 (field v 16 8)) s
  | 0x0C => if bit v 1 then modBox k (fun x => { x with inColl := false }) s else s
  | 0x1C => if bit v 0 then outDone k s else s
  | 0x20 => modBox k (fun x => { x with vec := vecReg x.vec (fn s f).nVec v }) s
  | _ => s

/-- One word of an MSI-X table (PCI Express Base Specification): address, data, Vector Control. An unmask sends what is
pending (R428). -/
def msixWrite (f off : Nat) (v : U32) (s : State) : State :=
  let n := off / 16
  if n < (fn s f).nVec then
    match off % 16 with
    | 0 => modVec f n (fun x => { x with addr := withHalf x.addr false v }) s
    | 4 => modVec f n (fun x => { x with addr := withHalf x.addr true v }) s
    | 8 => modVec f n (fun x => { x with data := v }) s
    | 12 => msixRelease f n (modVec f n (fun x => { x with ctrl := v }) s)
    | _ => s
  else s

/-! ### The blocks of PF0 (R474, R476 to R479, R481) -/

/-- `PORT[n].CTL`: GEN_MAX, and the first command bit set in the order DISABLE, RESET, ENABLE, SUSPEND, RESUME (R122). -/
def portCtlWrite (p : PortId) (v : U32) (s : State) : State :=
  let s := modPort p.val (fun x => { x with genMax := BitVec.ofNat 3 (field v 8 3) }) s
  if bit v 1 then after (execPortDisable p) s
  else if bit v 0 then after (execPortReset p) s
  else if bit v 2 then after (execPortEnable p) s
  else if bit v 3 then after (execPortSuspend p) s
  else if bit v 4 then after (execPortResume p) s
  else s

/-- A write to the Slots block reaches the slot's mule die, over the mule link or, for a slot of the partner's, over PCTL_B
(R388, R410, R471). -/
def slotRegWrite (n off : Nat) (v : U64) (s : State) : State :=
  let g := dieOf n
  if homeOf s g then (if (die s g).powered then powerCommand g .ownCore (n % 16) off v s else s)
  else if slotWritable off && (ctlPort s g).holder then
    pctlCommand 4 (n % 16) (natLE 2 off ++ natLE 8 v.toNat) g s
  else s

/-- `TB.CTL`: writes of 2 or 3 to MODE are ignored (R142). -/
def tbCtlWrite (v : U32) (s : State) : State :=
  let w := v &&& 0x0FFF000F
  { s with tb := { s.tb with ctl := if 2 ≤ field v 0 2 then setField w 0 2 (field s.tb.ctl 0 2) else w } }

/-- `PAIR.CFG`: HOME is ignored while a slot's EN is set. -/
def pairCfgWrite (v : U32) (s : State) : State :=
  let on := s.slots.slot.any fun e => e.2.en
  { s with pair := { s.pair with
    cfg := BitVec.ofNat 32 ((if on then field s.pair.cfg 0 4 else field v 0 4) + ofBool (bit v 4) * 16) } }

/-- `PWR.CORE_RESET`: 0xA5 starts a core-die reset; other keys are ignored. -/
def coreResetWrite (v : U32) (s : State) : State := if field v 0 8 = 0xA5 then after execCoreReset s else s

/-- `EIC.SRC_CFG`: HVEC and HOSTEN. -/
def srcCfgWrite (v : U64) (s : State) : State :=
  modSource (field s.eic.srcSel 0 10) (fun x => { x with
    hvec := if field v 50 11 < (fn s 0).nVec then BitVec.ofNat 11 (field v 50 11) else x.hvec
    hosten := bit v 61 }) s

/-- `VFR[v].DIRTY_CTL`: PAGES is ignored while EN is set. -/
def dirtyCtlWrite (f : Nat) (v : U64) (s : State) : State :=
  modFn f (fun x => { x with
    dirtyPages := if x.dirtyEn then x.dirtyPages else BitVec.ofNat 32 (field v 32 32)
    dirtyEn := bit v 0
    dirtyOvf := x.dirtyOvf && !bit v 2 }) s

/-- The writable 64-bit registers of PF0, by address. -/
def pf0Get (s : State) (a : Nat) : Option U64 :=
  if 0x100 ≤ a ∧ a < 0x150 then winGet s 0 (a - 0x100)
  else if a = 0x10 then some s.topo.base
  else if a = 0x1030 then
    let u := cmpUnit s (field s.tb.cmpSel 0 8)
    some (BitVec.ofNat 64 (u.pos + u.win * 2 ^ 24 + u.cycle.toNat * 2 ^ 48))
  else if a = 0x4010 then some s.front.ctxBase
  else if a = 0x8008 then
    let x := source s (field s.eic.srcSel 0 10)
    some (BitVec.ofNat 64 (x.hvec.toNat * 2 ^ 50 + ofBool x.hosten * 2 ^ 61))
  else if 0x20000 ≤ a ∧ a < 0x28000 ∧ (a % 0x200 = 0x18 ∨ a % 0x200 = 0x50) then
    some (slotRead s ((a - 0x20000) / 0x200) (a % 0x200))
  else if a = 0x30090 then some 0
  else if a = 0x38008 then some s.pair.wire
  else if a = 0x3C010 then some s.pwr.watchMask
  else if a = 0x40000 then some (box s 0).inPtr
  else if a = 0x41000 then some (box s 128).inPtr
  else if 0x80040 ≤ a ∧ a < 0x82000 ∧ a % 0x40 = 0x10 then some (fn s ((a - 0x80000) / 0x40)).dirtyBase
  else if 0x80040 ≤ a ∧ a < 0x82000 ∧ a % 0x40 = 0x18 then
    let x := fn s ((a - 0x80000) / 0x40)
    some (BitVec.ofNat 64 (ofBool x.dirtyEn + x.dirtyPages.toNat * 2 ^ 32))
  else none

/-- Writes one. -/
def pf0Put (a : Nat) (v : U64) (s : State) : State :=
  if 0x100 ≤ a ∧ a < 0x150 then winPut 0 (a - 0x100) v s
  else if a = 0x10 then topoBaseWrite v s
  else if a = 0x1030 then cmpTargetWrite v s
  else if a = 0x4010 then
    if s.front.ctxEn then s else { s with front := { s.front with ctxBase := v &&& 0xFFFFFFFFFFFFF000 } }
  else if a = 0x8008 then srcCfgWrite v s
  else if 0x20000 ≤ a ∧ a < 0x28000 then slotRegWrite ((a - 0x20000) / 0x200) (a % 0x200) v s
  else if a = 0x30090 then portFailedClear v s
  else if a = 0x38008 then { s with pair := { s.pair with wire := v } }
  else if a = 0x3C010 then { s with pwr := { s.pwr with watchMask := v } }
  else if a = 0x40000 then modBox 0 (fun x => { x with inPtr := v }) s
  else if a = 0x41000 then (if s.straps.secHost then modBox 128 (fun x => { x with inPtr := v }) s else s)
  else if a % 0x40 = 0x10 then modFn ((a - 0x80000) / 0x40) (fun x =>
    if x.dirtyEn then x else { x with dirtyBase := v &&& 0xFFFFFFFFFFFFFFC0 }) s
  else dirtyCtlWrite ((a - 0x80000) / 0x40) v s

/-- The Global block below the function window. -/
def globalWrite (a : Nat) (v : U32) (s : State) : State :=
  match a with
  | 0x018 => topoRingWrite v s
  | 0x024 => { s with dma := { s.dma with funcSel := v &&& 0x7F } }
  | 0x02C => { s with dma := { s.dma with chSel := v &&& 0xFF } }
  | 0x034 => clearEvt .dma v s
  | _ => s

/-- The Timebase and axes block. -/
def timebaseWrite (off : Nat) (v : U32) (s : State) : State :=
  if 0x40 ≤ off ∧ off < 0x60 then
    (if h : (off - 0x40) / 4 < 8 then clearEvt (.cmpPend ⟨(off - 0x40) / 4, h⟩) v s else s)
  else if 0x100 ≤ off ∧ off < 0x200 then
    if h : (off - 0x100) / 0x40 < 4 then
      match off % 0x40 with
      | 0x00 => axCfgWrite ((off - 0x100) / 0x40) v s
      | 0x04 => cpcWrite ((off - 0x100) / 0x40) v s
      | 0x14 => clearEvt (.ax ⟨(off - 0x100) / 0x40, h⟩) v s
      | _ => s
    else s
  else match off with
    | 0x010 => tbCtlWrite v s
    | 0x014 => { s with tb := { s.tb with freeLen := bandLen (field v 0 19) } }
    | 0x018 => { s with tb := { s.tb with lockPhase := v &&& 0xFFFFFF } }
    | 0x020 => clearEvt .tb v s
    | 0x024 => { s with tb := { s.tb with cmpSel := v &&& 0xFF } }
    | 0x028 => cmpCfgWrite v s
    | 0x060 =>
      let s := { s with tb := { s.tb with ptmAuto := BitVec.ofNat 4 (field v 1 4) } }
      if bit v 0 then after execPtmStart s else s
    | _ => s

/-- The Dispatcher and engines block. -/
def dispatcherWrite (off : Nat) (v : U32) (s : State) : State :=
  match off with
  | 0x004 => { s with front := { s.front with shareSel := v &&& 0x7F } }
  | 0x018 => ctxCtlWrite v s
  | 0x020 => clearEvt .eng v s
  | _ => s

/-- The Event controller block: a TGT_SEL above 17 reads as 17. -/
def eicWrite (off : Nat) (v : U32) (s : State) : State :=
  match off with
  | 0x000 => { s with eic := { s.eic with srcSel := v &&& 0x3FF } }
  | 0x010 => { s with eic := { s.eic with tgtSel := BitVec.ofNat 32 (min 17 (field v 0 5)) } }
  | _ => s

/-- The Error windows block. -/
def errWrite (off : Nat) (v : U32) (s : State) : State :=
  if off < 0x70 ∧ off % 0x10 = 0 then errCfgWrite (off / 0x10) v s
  else if off = 0x9C then clearEvt .err v s
  else s

/-- The Pair block. -/
def pairWrite (off : Nat) (v : U32) (s : State) : State :=
  match off with
  | 0x000 => pairCfgWrite v s
  | 0x020 => clearEvt .pair v s
  | _ => s

/-- The Power block. -/
def powerWrite (off : Nat) (v : U32) (s : State) : State :=
  match off with
  | 0x000 => pwrCtlWrite v s
  | 0x018 => coreResetWrite v s
  | _ => s

/-- Four bytes of the secure page's buffers (R439). -/
def secureWrite (off : Nat) (v : U32) (s : State) : State :=
  if off < 0x800 then { s with mail := { s.mail with secIn := mwrite s.mail.secIn off (natLE 4 v.toNat) } }
  else { s with mail := { s.mail with secOut := mwrite s.mail.secOut (off - 0x800) (natLE 4 v.toNat) } }

/-- The VF resource tables: the shared registers of window 0. Bit 0 of FLR_DONE[0] is reserved. -/
def vfrWrite (off : Nat) (v : U32) (s : State) : State :=
  if h : off / 4 < 4 then clearEvt (.flrDone ⟨off / 4, h⟩) v s
  else if off = 0x10 then clearEvt .vfr v s
  else s

/-- The 32-bit registers of PF0, by address. -/
def pf0Write (a : Nat) (v : U32) (s : State) : State :=
  if a < 0x100 then globalWrite a v s
  else if a < 0x150 then winWrite 0 (a - 0x100) v s
  else if 0x1000 ≤ a ∧ a < 0x2000 then timebaseWrite (a - 0x1000) v s
  else if 0x2100 ≤ a ∧ a < 0x2200 then
    { s with sch := { s.sch with cap := tput s.sch.cap ((a - 0x2100) / 4) (v &&& 0x7F) } }
  else if 0x4000 ≤ a ∧ a < 0x5000 then dispatcherWrite (a - 0x4000) v s
  else if 0x8000 ≤ a ∧ a < 0x9000 then eicWrite (a - 0x8000) v s
  else if 0x10000 ≤ a ∧ a < 0x20000 then
    if h : (a - 0x10000) / 0x400 < 64 then
      match a % 0x400 with
      | 0x000 => portCtlWrite ⟨(a - 0x10000) / 0x400, h⟩ v s
      | 0x008 => clearEvt (.port ⟨(a - 0x10000) / 0x400, h⟩) v s
      | _ => s
    else s
  else if 0x20000 ≤ a ∧ a < 0x28000 then
    (if slotWritable (a % 0x200) then slotRegWrite ((a - 0x20000) / 0x200) (a % 0x200) (v.setWidth 64) s else s)
  else if 0x30000 ≤ a ∧ a < 0x31000 then errWrite (a - 0x30000) v s
  else if 0x38000 ≤ a ∧ a < 0x39000 then pairWrite (a - 0x38000) v s
  else if 0x3C000 ≤ a ∧ a < 0x3D000 then powerWrite (a - 0x3C000) v s
  else if 0x40000 ≤ a ∧ a < 0x41000 then mbxWrite (.func 0) 0 (a - 0x40000) v s
  else if 0x41000 ≤ a ∧ a < 0x42000 then (if s.straps.secHost then mbxWrite .secure 0 (a - 0x41000) v s else s)
  else if 0x42000 ≤ a ∧ a < 0x43000 then (if s.straps.secHost then secureWrite (a - 0x42000) v s else s)
  else if 0x80000 ≤ a ∧ a < 0x80040 then vfrWrite (a - 0x80000) v s
  else if 0x100000 ≤ a ∧ a < 0x100400 then msixWrite 0 (a - 0x100000) v s
  else s

/-! ### VF BAR0 (R482) -/

/-- The writable 64-bit registers of a VF. -/
def vfGet (s : State) (f a : Nat) : Option U64 :=
  if 0x100 ≤ a ∧ a < 0x150 then winGet s f (a - 0x100)
  else if a = 0x200 then some (box s f).inPtr
  else none

/-- Writes one. -/
def vfPut (f a : Nat) (v : U64) (s : State) : State :=
  if 0x100 ≤ a ∧ a < 0x150 then winPut f (a - 0x100) v s
  else modBox f (fun x => { x with inPtr := v }) s

/-- The 32-bit registers of a VF. -/
def vfWrite (f : FuncId) (a : Nat) (v : U32) (s : State) : State :=
  if a = 0x10 then clearEvt (.vf f) v s
  else if a = 0x14 then modFn f.val (fun x => { x with vfEvtVec := vecReg x.vfEvtVec x.nVec v }) s
  else if 0x100 ≤ a ∧ a < 0x150 then winWrite f (a - 0x100) v s
  else if 0x200 ≤ a ∧ a < 0x224 then mbxWrite (.func f) f.val (a - 0x200) v s
  else if 0x1000 ≤ a ∧ a < 0x3000 then msixWrite f.val (a - 0x1000) v s
  else s

/-! ### Accesses (R469) -/

def get64 (s : State) (f : FuncId) (a : Nat) : Option U64 := if f.val = 0 then pf0Get s a else vfGet s f.val a
def put64 (f : FuncId) (a : Nat) (v : U64) (s : State) : State :=
  if f.val = 0 then pf0Put a v s else vfPut f.val a v s
def put32 (f : FuncId) (a : Nat) (v : U32) (s : State) : State := if f.val = 0 then pf0Write a v s else vfWrite f a v s

/-- A 32-bit write: a register, or one half of a 64-bit register. -/
def write32 (f : FuncId) (a : Nat) (v : U32) (s : State) : State :=
  match get64 s f a with
  | some old => put64 f a (withHalf old false v) s
  | none =>
    match (if a % 8 = 4 then get64 s f (a - 4) else none) with
    | some old => put64 f (a - 4) (withHalf old true v) s
    | none => put32 f a v s

/-- A 64-bit write: a 64-bit register, or two 32-bit registers, the lower first. -/
def write64 (f : FuncId) (a : Nat) (v : U64) (s : State) : State :=
  match get64 s f a with
  | some _ => put64 f a v s
  | none => write32 f (a + 4) (BitVec.ofNat 32 (field v 32 32)) (write32 f a (v.setWidth 32) s)

/-- The write has effect: a standby takes writes of the Pair block only, and until the firmware runs only the Global block
answers (R403, R458). -/
def writeReaches (s : State) (f : FuncId) (a : Nat) : Bool :=
  hostReaches s f.val || (f.val == 0 && decide (0x38000 ≤ a ∧ a < 0x39000) && live s && s.pwr.ready)
    || (f.val == 0 && decide (a < 0x1000) && serves s)
    || (f.val == 0 && a == 0x3C018 && !s.pwr.por && s.pwr.st != .off && s.err.held)

/-- REGISTER_WRITE (R469): an access that is not aligned is ignored. -/
def execRegisterWrite (f : FuncId) (offset : Nat) (wide : Bool) (value : U64) (s : State) :
    Host.Outcome State Fault Refusal :=
  guarded (writeReaches s f offset && offset % (if wide then 8 else 4) == 0) s
    (if wide then write64 f offset value else write32 f offset (value.setWidth 32))

end Sys2Proof.Machine
end

