-- ==== Sys2Proof/Machine/Dispatch.lean ====
section
/-! DEFINITION. The dispatch: one arm per command, each one direct call of its meaning. -/

namespace Sys2Proof.Machine

/-- The effect of a command on everything but the queue of pending commands. -/
def exec (i : Instr) (s : State) : Host.Outcome State Fault Refusal :=
  match i with
  | .muleKeepalive g => Sys2Proof.Machine.execMuleKeepalive g s
  | .coreLostDeclare g => Sys2Proof.Machine.execCoreLostDeclare g s
  | .handOverCommand g => Sys2Proof.Machine.execHandOverCommand g s
  | .mulePowerCommand g src j offset value => Sys2Proof.Machine.execMulePowerCommand g src j offset value s
  | .muleRemovalEvent n => Sys2Proof.Machine.execMuleRemovalEvent n s
  | .muleTripEvent n => Sys2Proof.Machine.execMuleTripEvent n s
  | .mulePfwEvent n => Sys2Proof.Machine.execMulePfwEvent n s
  | .mulePowerGoodEvent n => Sys2Proof.Machine.execMulePowerGoodEvent n s
  | .telemetryReport n => Sys2Proof.Machine.execTelemetryReport n s
  | .microframeBoundary u => Sys2Proof.Machine.execMicroframeBoundary u s
  | .frameBoundary => Sys2Proof.Machine.execFrameBoundary s
  | .doorbellBlockReadDone f block ok records => Sys2Proof.Machine.execDoorbellBlockReadDone f block ok records s
  | .sqEntryFetched f q ok raw => Sys2Proof.Machine.execSqEntryFetched f q ok raw s
  | .qKickSq f q index => Sys2Proof.Machine.execQKickSq f q index s
  | .qKickSqInval f q index => Sys2Proof.Machine.execQKickSqInval f q index s
  | .qKickCr f r index => Sys2Proof.Machine.execQKickCr f r index s
  | .qCreate f => Sys2Proof.Machine.execQCreate f s
  | .qDestroy f => Sys2Proof.Machine.execQDestroy f s
  | .qRead f => Sys2Proof.Machine.execQRead f s
  | .completionRelease item => Sys2Proof.Machine.execCompletionRelease item s
  | .queueStop ctx q => Sys2Proof.Machine.execQueueStop ctx q s
  | .queueStart ctx q => Sys2Proof.Machine.execQueueStart ctx q s
  | .responseTimeout p driven => Sys2Proof.Machine.execResponseTimeout p driven s
  | .burstGapExpiry p => Sys2Proof.Machine.execBurstGapExpiry p s
  | .dataPacket p h payload crc overrun => Sys2Proof.Machine.execDataPacket p h payload crc overrun s
  | .ack p h => Sys2Proof.Machine.execAck p h s
  | .nak p h => Sys2Proof.Machine.execNak p h s
  | .stall p h => Sys2Proof.Machine.execStall p h s
  | .nyet p h => Sys2Proof.Machine.execNyet p h s
  | .err p h => Sys2Proof.Machine.execErr p h s
  | .controlTimeLimit item => Sys2Proof.Machine.execControlTimeLimit item s
  | .sofHoldLimit p => Sys2Proof.Machine.execSofHoldLimit p s
  | .sofDeferredSend p => Sys2Proof.Machine.execSofDeferredSend p s
  | .trainCap p param => Sys2Proof.Machine.execTrainCap p param s
  | .trainDone p => Sys2Proof.Machine.execTrainDone p s
  | .lpEnter p => Sys2Proof.Machine.execLpEnter p s
  | .lpAccept p => Sys2Proof.Machine.execLpAccept p s
  | .lpReject p => Sys2Proof.Machine.execLpReject p s
  | .wake p => Sys2Proof.Machine.execWake p s
  | .wakeAck p => Sys2Proof.Machine.execWakeAck p s
  | .linkCmdTimeout p => Sys2Proof.Machine.execLinkCmdTimeout p s
  | .detectPulse p => Sys2Proof.Machine.execDetectPulse p s
  | .farEndTermination p => Sys2Proof.Machine.execFarEndTermination p s
  | .trainingSetLock p => Sys2Proof.Machine.execTrainingSetLock p s
  | .recoveryTimeout p => Sys2Proof.Machine.execRecoveryTimeout p s
  | .linkErrorLimit p => Sys2Proof.Machine.execLinkErrorLimit p s
  | .wakeTone p => Sys2Proof.Machine.execWakeTone p s
  | .suspendSilenceExpiry p => Sys2Proof.Machine.execSuspendSilenceExpiry p s
  | .connectChange at_ present => Sys2Proof.Machine.execConnectChange at_ present s
  | .attachDebounceEnd at_ => Sys2Proof.Machine.execAttachDebounceEnd at_ s
  | .detectWindowEnd p => Sys2Proof.Machine.execDetectWindowEnd p s
  | .resetSignallingEnd at_ => Sys2Proof.Machine.execResetSignallingEnd at_ s
  | .announceWindowEnd p announced => Sys2Proof.Machine.execAnnounceWindowEnd p announced s
  | .genConfirmEnd p => Sys2Proof.Machine.execGenConfirmEnd p s
  | .resetRecoveryEnd at_ => Sys2Proof.Machine.execResetRecoveryEnd at_ s
  | .enumAddressWaitEnd p => Sys2Proof.Machine.execEnumAddressWaitEnd p s
  | .hubPowerOnWaitEnd p => Sys2Proof.Machine.execHubPowerOnWaitEnd p s
  | .enumTransferDone p res data => Sys2Proof.Machine.execEnumTransferDone p res data s
  | .handleReuseTimeout h => Sys2Proof.Machine.execHandleReuseTimeout h s
  | .hubStatusChange hub map hubStatus words => Sys2Proof.Machine.execHubStatusChange hub map hubStatus words s
  | .hubPolled hub => Sys2Proof.Machine.execHubPolled hub s
  | .hubAdmitRetry hub => Sys2Proof.Machine.execHubAdmitRetry hub s
  | .reportRecordWrite => Sys2Proof.Machine.execReportRecordWrite s
  | .topoRingWrite value => Sys2Proof.Machine.execTopoRingWrite value s
  | .topoBaseWrite value => Sys2Proof.Machine.execTopoBaseWrite value s
  | .portReset p => Sys2Proof.Machine.execPortReset p s
  | .portDisable p => Sys2Proof.Machine.execPortDisable p s
  | .portEnable p => Sys2Proof.Machine.execPortEnable p s
  | .portSuspend p => Sys2Proof.Machine.execPortSuspend p s
  | .portResume p => Sys2Proof.Machine.execPortResume p s
  | .topoPortReset ctx body => Sys2Proof.Machine.execTopoPortReset ctx body s
  | .topoDeviceReset ctx body => Sys2Proof.Machine.execTopoDeviceReset ctx body s
  | .topoPortSuspend ctx body => Sys2Proof.Machine.execTopoPortSuspend ctx body s
  | .topoPortResume ctx body => Sys2Proof.Machine.execTopoPortResume ctx body s
  | .topoPortDisable ctx body => Sys2Proof.Machine.execTopoPortDisable ctx body s
  | .topoBindSlot ctx body => Sys2Proof.Machine.execTopoBindSlot ctx body s
  | .legacyBiasLoss p => Sys2Proof.Machine.execLegacyBiasLoss p s
  | .linkDisconnectTimeout p => Sys2Proof.Machine.execLinkDisconnectTimeout p s
  | .remoteWakeDetect at_ => Sys2Proof.Machine.execRemoteWakeDetect at_ s
  | .hostResumeEnd at_ => Sys2Proof.Machine.execHostResumeEnd at_ s
  | .tbFreeLenWrite value => Sys2Proof.Machine.execTbFreeLenWrite value s
  | .axisLockPhasePass => Sys2Proof.Machine.execAxisLockPhasePass s
  | .axisCountEdge i_ a b => Sys2Proof.Machine.execAxisCountEdge i_ a b s
  | .axisIndexEdge i_ => Sys2Proof.Machine.execAxisIndexEdge i_ s
  | .axisStall i_ => Sys2Proof.Machine.execAxisStall i_ s
  | .axCpcWrite i_ value => Sys2Proof.Machine.execAxCpcWrite i_ value s
  | .compareFire c => Sys2Proof.Machine.execCompareFire c s
  | .compareArmNext c => Sys2Proof.Machine.execCompareArmNext c s
  | .tbCmpCfgWrite value => Sys2Proof.Machine.execTbCmpCfgWrite value s
  | .tbCmpTargetWrite value => Sys2Proof.Machine.execTbCmpTargetWrite value s
  | .ptmStart => Sys2Proof.Machine.execPtmStart s
  | .ptmResponse master => Sys2Proof.Machine.execPtmResponse master s
  | .ptmTimeout => Sys2Proof.Machine.execPtmTimeout s
  | .epochLowRead r => Sys2Proof.Machine.execEpochLowRead r s
  | .epochLatchExpiry r => Sys2Proof.Machine.execEpochLatchExpiry r s
  | .floatStart p => Sys2Proof.Machine.execFloatStart p s
  | .admitCmd ctx body => Sys2Proof.Machine.execAdmitCmd ctx body s
  | .release ctx body => Sys2Proof.Machine.execRelease ctx body s
  | .query ctx => Sys2Proof.Machine.execQuery ctx s
  | .compileDone => Sys2Proof.Machine.execCompileDone s
  | .nop e => Sys2Proof.Machine.execNop e s
  | .mov e rd rs => Sys2Proof.Machine.execMov e rd rs s
  | .movi e rd imm => Sys2Proof.Machine.execMovi e rd imm s
  | .add e rd rs => Sys2Proof.Machine.execAdd e rd rs s
  | .addi e rd imm => Sys2Proof.Machine.execAddi e rd imm s
  | .adc e rd rs => Sys2Proof.Machine.execAdc e rd rs s
  | .sub e rd rs => Sys2Proof.Machine.execSub e rd rs s
  | .subi e rd imm => Sys2Proof.Machine.execSubi e rd imm s
  | .andi e rd imm => Sys2Proof.Machine.execAndi e rd imm s
  | .and e rd rs => Sys2Proof.Machine.execAnd e rd rs s
  | .or e rd rs => Sys2Proof.Machine.execOr e rd rs s
  | .ori e rd imm => Sys2Proof.Machine.execOri e rd imm s
  | .xor e rd rs => Sys2Proof.Machine.execXor e rd rs s
  | .xori e rd imm => Sys2Proof.Machine.execXori e rd imm s
  | .shl e rd n => Sys2Proof.Machine.execShl e rd n s
  | .shr e rd n => Sys2Proof.Machine.execShr e rd n s
  | .cmp e rd rs => Sys2Proof.Machine.execCmp e rd rs s
  | .cmpi e rd imm => Sys2Proof.Machine.execCmpi e rd imm s
  | .ldb e r p offset => Sys2Proof.Machine.execLdb e r p offset s
  | .stb e r p offset => Sys2Proof.Machine.execStb e r p offset s
  | .ldp e p imm => Sys2Proof.Machine.execLdp e p imm s
  | .addp e p rs => Sys2Proof.Machine.execAddp e p rs s
  | .addpi e p imm => Sys2Proof.Machine.execAddpi e p imm s
  | .br e cond offset => Sys2Proof.Machine.execBr e cond offset s
  | .jmp e target => Sys2Proof.Machine.execJmp e target s
  | .call e target => Sys2Proof.Machine.execCall e target s
  | .ret e => Sys2Proof.Machine.execRet e s
  | .loop e inReg rs imm len => Sys2Proof.Machine.execLoop e inReg rs imm len s
  | .cld e => Sys2Proof.Machine.execCld e s
  | .cst e => Sys2Proof.Machine.execCst e s
  | .pld e => Sys2Proof.Machine.execPld e s
  | .pst e => Sys2Proof.Machine.execPst e s
  | .hold e p => Sys2Proof.Machine.execHold e p s
  | .holdGrant e p => Sys2Proof.Machine.execHoldGrant e p s
  | .rel e p => Sys2Proof.Machine.execRel e p s
  | .tok e typ rs retry => Sys2Proof.Machine.execTok e typ rs retry s
  | .spl e typ rs retry => Sys2Proof.Machine.execSpl e typ rs retry s
  | .sdat e rd rs => Sys2Proof.Machine.execSdat e rd rs s
  | .rdat e mask offset => Sys2Proof.Machine.execRdat e mask offset s
  | .shs e => Sys2Proof.Machine.execShs e s
  | .whs e mask offset => Sys2Proof.Machine.execWhs e mask offset s
  | .arm e v => Sys2Proof.Machine.execArm e v s
  | .dly e count => Sys2Proof.Machine.execDly e count s
  | .dlyExpiry e p => Sys2Proof.Machine.execDlyExpiry e p s
  | .drn e => Sys2Proof.Machine.execDrn e s
  | .getw e => Sys2Proof.Machine.execGetw e s
  | .getwGrant e => Sys2Proof.Machine.execGetwGrant e s
  | .affinityOfferExpiry item => Sys2Proof.Machine.execAffinityOfferExpiry item s
  | .putw e => Sys2Proof.Machine.execPutw e s
  | .fin e v => Sys2Proof.Machine.execFin e v s
  | .evt e v => Sys2Proof.Machine.execEvt e v s
  | .sret e v => Sys2Proof.Machine.execSret e v s
  | .scall e v => Sys2Proof.Machine.execScall e v s
  | .scriptBudgetExpiry e => Sys2Proof.Machine.execScriptBudgetExpiry e s
  | .parkedThreadResume e p => Sys2Proof.Machine.execParkedThreadResume e p s
  | .engineInterrupt e => Sys2Proof.Machine.execEngineInterrupt e s
  | .itemPost post => Sys2Proof.Machine.execItemPost post s
  | .scriptLoad ctx number image => Sys2Proof.Machine.execScriptLoad ctx number image s
  | .scriptUnload ctx number => Sys2Proof.Machine.execScriptUnload ctx number s
  | .scriptBind ctx body => Sys2Proof.Machine.execScriptBind ctx body s
  | .scriptUnbind ctx body => Sys2Proof.Machine.execScriptUnbind ctx body s
  | .dspCtxCtlWrite value => Sys2Proof.Machine.execDspCtxCtlWrite value s
  | .dmaRequest cut => Sys2Proof.Machine.execDmaRequest cut s
  | .dmaReadCompletion ch timed ok data => Sys2Proof.Machine.execDmaReadCompletion ch timed ok data s
  | .drainComplete ch timed => Sys2Proof.Machine.execDrainComplete ch timed s
  | .indexTableReadDone item first ok bytes => Sys2Proof.Machine.execIndexTableReadDone item first ok bytes s
  | .bufCarve ctx handle epaddr => Sys2Proof.Machine.execBufCarve ctx handle epaddr s
  | .bufRelease ctx handle epaddr => Sys2Proof.Machine.execBufRelease ctx handle epaddr s
  | .bufReleaseComplete f handle epaddr => Sys2Proof.Machine.execBufReleaseComplete f handle epaddr s
  | .pageScrubDone page => Sys2Proof.Machine.execPageScrubDone page s
  | .eccScrubVisit page word bad => Sys2Proof.Machine.execEccScrubVisit page word bad s
  | .vfEnableSet numVFs => Sys2Proof.Machine.execVfEnableSet numVFs s
  | .vfEnableClear => Sys2Proof.Machine.execVfEnableClear s
  | .busMasterEnableChange f on => Sys2Proof.Machine.execBusMasterEnableChange f on s
  | .vfCreate ctx d => Sys2Proof.Machine.execVfCreate ctx d s
  | .vfDestroy ctx v => Sys2Proof.Machine.execVfDestroy ctx v s
  | .funcModify ctx d => Sys2Proof.Machine.execFuncModify ctx d s
  | .funcQuery ctx v => Sys2Proof.Machine.execFuncQuery ctx v s
  | .devAssign ctx body => Sys2Proof.Machine.execDevAssign ctx body s
  | .devQuery ctx func first => Sys2Proof.Machine.execDevQuery ctx func first s
  | .dirtyMapWrite v page => Sys2Proof.Machine.execDirtyMapWrite v page s
  | .vfFlr v => Sys2Proof.Machine.execVfFlr v s
  | .vfResetDone v => Sys2Proof.Machine.execVfResetDone v s
  | .pf0Flr => Sys2Proof.Machine.execPf0Flr s
  | .prsntNEdge n high => Sys2Proof.Machine.execPrsntNEdge n high s
  | .removal n => Sys2Proof.Machine.execRemoval n s
  | .debounceEnd n => Sys2Proof.Machine.execDebounceEnd n s
  | .minOffExpiry n => Sys2Proof.Machine.execMinOffExpiry n s
  | .feedInvalid n x => Sys2Proof.Machine.execFeedInvalid n x s
  | .feedValid n x => Sys2Proof.Machine.execFeedValid n x s
  | .oringReverse n x => Sys2Proof.Machine.execOringReverse n x s
  | .oringForward n x => Sys2Proof.Machine.execOringForward n x s
  | .slotEnSet n => Sys2Proof.Machine.execSlotEnSet n s
  | .slotEnClear n => Sys2Proof.Machine.execSlotEnClear n s
  | .cycle n => Sys2Proof.Machine.execCycle n s
  | .rampEnd n => Sys2Proof.Machine.execRampEnd n s
  | .powerGood n => Sys2Proof.Machine.execPowerGood n s
  | .rampTimeout n vout vbus => Sys2Proof.Machine.execRampTimeout n vout vbus s
  | .fetGate n vout vbus => Sys2Proof.Machine.execFetGate n vout vbus s
  | .pgLost n => Sys2Proof.Machine.execPgLost n s
  | .pgLostTimeout n vout vbus => Sys2Proof.Machine.execPgLostTimeout n vout vbus s
  | .faultTimerExpiry n vout vbus => Sys2Proof.Machine.execFaultTimerExpiry n vout vbus s
  | .severeOc n vout vbus => Sys2Proof.Machine.execSevereOc n vout vbus s
  | .soaLimit n vout vbus => Sys2Proof.Machine.execSoaLimit n vout vbus s
  | .outputPresentCheck n vout vbus => Sys2Proof.Machine.execOutputPresentCheck n vout vbus s
  | .pfwAssert n cause => Sys2Proof.Machine.execPfwAssert n cause s
  | .pfwClear n => Sys2Proof.Machine.execPfwClear n s
  | .telemetryConversion n va vb vbus vout isense => Sys2Proof.Machine.execTelemetryConversion n va vb vbus vout isense s
  | .telPeakRestart n => Sys2Proof.Machine.execTelPeakRestart n s
  | .errorDetected err => Sys2Proof.Machine.execErrorDetected err s
  | .engineRejoin e => Sys2Proof.Machine.execEngineRejoin e s
  | .errorWindowStart c => Sys2Proof.Machine.execErrorWindowStart c s
  | .errCfgWrite c value => Sys2Proof.Machine.execErrCfgWrite c value s
  | .errPortFailedClear mask => Sys2Proof.Machine.execErrPortFailedClear mask s
  | .configRestored c inst => Sys2Proof.Machine.execConfigRestored c inst s
  | .coreWatchdogExpiry core => Sys2Proof.Machine.execCoreWatchdogExpiry core s
  | .xebirokLinkUp lanes => Sys2Proof.Machine.execXebirokLinkUp lanes s
  | .laneDown lane => Sys2Proof.Machine.execLaneDown lane s
  | .ident h pairId st step version home numVFs => Sys2Proof.Machine.execIdent h pairId st step version home numVFs s
  | .xbkClaim h pairId role => Sys2Proof.Machine.execXbkClaim h pairId role s
  | .claimAnswer h pairId result => Sys2Proof.Machine.execClaimAnswer h pairId result s
  | .heartbeat h st u epoch shadowSeq => Sys2Proof.Machine.execHeartbeat h st u epoch shadowSeq s
  | .time h epoch len lock m1 tick => Sys2Proof.Machine.execTime h epoch len lock m1 tick s
  | .fatal h cause epoch => Sys2Proof.Machine.execFatal h cause epoch s
  | .handover h cause epoch => Sys2Proof.Machine.execHandover h cause epoch s
  | .yield h pairId => Sys2Proof.Machine.execYield h pairId s
  | .xbkNak h seq => Sys2Proof.Machine.execXbkNak h seq s
  | .ackOnly h => Sys2Proof.Machine.execAckOnly h s
  | .ackOnlyTimer => Sys2Proof.Machine.execAckOnlyTimer s
  | .shadow h body => Sys2Proof.Machine.execShadow h body s
  | .ganderWindowEnd toggled => Sys2Proof.Machine.execGanderWindowEnd toggled s
  | .takeover => Sys2Proof.Machine.execTakeover s
  | .discoverTimeout => Sys2Proof.Machine.execDiscoverTimeout s
  | .syncDone => Sys2Proof.Machine.execSyncDone s
  | .staleResyncTimer => Sys2Proof.Machine.execStaleResyncTimer s
  | .pairActConflict => Sys2Proof.Machine.execPairActConflict s
  | .yieldResetDone => Sys2Proof.Machine.execYieldResetDone s
  | .pctlbKeepaliveTick g => Sys2Proof.Machine.execPctlbKeepaliveTick g s
  | .pctlbKeepaliveLoss g => Sys2Proof.Machine.execPctlbKeepaliveLoss g s
  | .pctlbResendTimeout g side => Sys2Proof.Machine.execPctlbResendTimeout g side s
  | .keepalive g seq => Sys2Proof.Machine.execKeepalive g seq s
  | .pctlbClaim g seq pairId => Sys2Proof.Machine.execPctlbClaim g seq pairId s
  | .pctlbRelease g seq => Sys2Proof.Machine.execPctlbRelease g seq s
  | .pctlbWrite g j seq offset value => Sys2Proof.Machine.execPctlbWrite g j seq offset value s
  | .pctlbRead g j seq offset => Sys2Proof.Machine.execPctlbRead g j seq offset s
  | .eventAck g evSeq => Sys2Proof.Machine.execEventAck g evSeq s
  | .keepaliveAck g seq auth coreLost => Sys2Proof.Machine.execKeepaliveAck g seq auth coreLost s
  | .claimAck g seq result auth => Sys2Proof.Machine.execClaimAck g seq result auth s
  | .writeAck g seq result => Sys2Proof.Machine.execWriteAck g seq result s
  | .readData g seq offset value => Sys2Proof.Machine.execReadData g seq offset value s
  | .pctlbEvent g j seq bits sts => Sys2Proof.Machine.execPctlbEvent g j seq bits sts s
  | .pairQuery ctx => Sys2Proof.Machine.execPairQuery ctx s
  | .pairSwitch ctx epoch => Sys2Proof.Machine.execPairSwitch ctx epoch s
  | .pairResync ctx => Sys2Proof.Machine.execPairResync ctx s
  | .eicClaim t => Sys2Proof.Machine.execEicClaim t s
  | .eicComplete t src => Sys2Proof.Machine.execEicComplete t src s
  | .enSet w v => Sys2Proof.Machine.execEnSet w v s
  | .enClr w v => Sys2Proof.Machine.execEnClr w v s
  | .pendSet w v => Sys2Proof.Machine.execPendSet w v s
  | .pendClr w v => Sys2Proof.Machine.execPendClr w v s
  | .msixIntervalExpiry f v => Sys2Proof.Machine.execMsixIntervalExpiry f v s
  | .msixUnmask f v => Sys2Proof.Machine.execMsixUnmask f v s
  | .intVecModWrite f value => Sys2Proof.Machine.execIntVecModWrite f value s
  | .mbxInCommit box seq typ => Sys2Proof.Machine.execMbxInCommit box seq typ s
  | .mbxOutDone box => Sys2Proof.Machine.execMbxOutDone box s
  | .mbxNoticeTake box => Sys2Proof.Machine.execMbxNoticeTake box s
  | .mbxCommandRead box ok hdr body => Sys2Proof.Machine.execMbxCommandRead box ok hdr body s
  | .mbxOutboundPost box => Sys2Proof.Machine.execMbxOutboundPost box s
  | .i3cPrivateWrite offset data => Sys2Proof.Machine.execI3cPrivateWrite offset data s
  | .i3cPrivateRead count => Sys2Proof.Machine.execI3cPrivateRead count s
  | .entdaa addr => Sys2Proof.Machine.execEntdaa addr s
  | .i3cBusReset => Sys2Proof.Machine.execI3cBusReset s
  | .fwQuery ctx => Sys2Proof.Machine.execFwQuery ctx s
  | .fwWrite ctx offset data => Sys2Proof.Machine.execFwWrite ctx offset data s
  | .fwErase ctx offset sectors => Sys2Proof.Machine.execFwErase ctx offset sectors s
  | .fwVerify ctx => Sys2Proof.Machine.execFwVerify ctx s
  | .fwActivate ctx => Sys2Proof.Machine.execFwActivate ctx s
  | .platSensors ctx temps powers => Sys2Proof.Machine.execPlatSensors ctx temps powers s
  | .pwrTargetWrite value => Sys2Proof.Machine.execPwrTargetWrite value s
  | .pf0D3hotEntry => Sys2Proof.Machine.execPf0D3hotEntry s
  | .pmeTurnOff => Sys2Proof.Machine.execPmeTurnOff s
  | .lowPowerEnter => Sys2Proof.Machine.execLowPowerEnter s
  | .engineClockGate e => Sys2Proof.Machine.execEngineClockGate e s
  | .watchSample wakeIn wakes => Sys2Proof.Machine.execWatchSample wakeIn wakes s
  | .pf0D0Entry => Sys2Proof.Machine.execPf0D0Entry s
  | .wakeInAssert => Sys2Proof.Machine.execWakeInAssert s
  | .wakeRegulatorReady => Sys2Proof.Machine.execWakeRegulatorReady s
  | .wakeClockReady => Sys2Proof.Machine.execWakeClockReady s
  | .wakeMemoryReady => Sys2Proof.Machine.execWakeMemoryReady s
  | .wakeLogicReady => Sys2Proof.Machine.execWakeLogicReady s
  | .coreReset => Sys2Proof.Machine.execCoreReset s
  | .powerOnReset => Sys2Proof.Machine.execPowerOnReset s
  | .powerOnResetEnd pairEn pairId secHost => Sys2Proof.Machine.execPowerOnResetEnd pairEn pairId secHost s
  | .perstAssert => Sys2Proof.Machine.execPerstAssert s
  | .perstDeassert => Sys2Proof.Machine.execPerstDeassert s
  | .hotReset => Sys2Proof.Machine.execHotReset s
  | .bootDone => Sys2Proof.Machine.execBootDone s
  | .coreRailLoss => Sys2Proof.Machine.execCoreRailLoss s
  | .vmuleLoss g => Sys2Proof.Machine.execVmuleLoss g s
  | .vmuleRise g => Sys2Proof.Machine.execVmuleRise g s
  | .registerWrite f offset wide value => Sys2Proof.Machine.execRegisterWrite f offset wide value s
  | .discardedPacket p => Sys2Proof.Machine.execDiscardedPacket p s
  | .xebirokRecordError => Sys2Proof.Machine.execXebirokRecordError s
  | .removalLatchClear n => Sys2Proof.Machine.execRemovalLatchClear n s
  | .powerGoodReturn n => Sys2Proof.Machine.execPowerGoodReturn n s
  | .trainingTimeout p => Sys2Proof.Machine.execTrainingTimeout p s

end Sys2Proof.Machine
end

