-- ==== Sys2Proof/Machine/RegRead.lean ====
section
/-! DEFINITION. The register map: what a read of BAR0 returns (R11, R141, R469 to R487). No row of the command table is a
read: the one effect that a read has, the latching of R141, is EPOCH_LOW_READ and EPOCH_LATCH_EXPIRY. -/

namespace Sys2Proof.Machine

/-! ### The Global block (R474, R483) -/

/-- `GLB.ID` (R3, R4, R483). -/
def glbId (s : State) : U64 :=
  BitVec.ofNat 64 (Config.stepping + Config.grade * 2 ^ 8 + 0x0640 * 2 ^ 16 + 64 * 2 ^ 32 + 127 * 2 ^ 40
    + ofBool s.straps.pairEn * 2 ^ 48 + ofBool s.straps.pairId * 2 ^ 49 + ofBool s.straps.secHost * 2 ^ 50)

/-- `GLB.BOOT_STS`. -/
def bootSts (s : State) : U64 :=
  BitVec.ofNat 64 (ofBool s.pwr.ready + ofBool s.pwr.error * 2 + ofBool s.pwr.slotB * 4 + s.pwr.resetKind.toNat * 2 ^ 8
    + s.pwr.version.toNat * 2 ^ 32)

/-- `GLB.BUF_STS`. -/
def bufSts (s : State) : U32 :=
  BitVec.ofNat 32 ((pagesWhere s fun p => p.state == .free).length + (82 - s.dma.sparesUsed) * 2 ^ 16
    + s.dma.retired.toNat * 2 ^ 24)

/-- `GLB.BUF_FUNC` of the function selected. -/
def bufFunc (s : State) : U32 :=
  let f := s.dma.funcSel.toNat
  BitVec.ofNat 32 ((ownedPages s f).length
    + (pagesWhere s fun p => p.owner == some f && p.state == .assigned).length * 2 ^ 16
    + ofBool (!(pagesWhere s fun p => p.owner == some f && p.state == .scrubbing).isEmpty) * 2 ^ 31)

/-- The code of a DMA context's state. -/
def chCode : ChState → Nat
  | .idle => 0 | .armed => 1 | .moving => 2 | .preempted => 3

/-- Bytes in a context's holding buffer: of the items that it stages there, what has come in and not gone out. -/
def heldBytes (s : State) (key : Nat) : Nat :=
  (s.front.items.filter fun e => itemChan e.2 == key && e.2.pages.isEmpty).foldl (fun n e =>
    n + if eDataIn e.2.raw then e.2.segs.foldl (fun m g => m + g.2) 0 else e.2.staged - e.2.moved) 0

/-- `GLB.DMA_CH` of the channel selected; a service channel has one context (R294). -/
def dmaCh (s : State) : U32 :=
  let ch := s.dma.chSel.toNat
  let timed := decide (ch < 128)
  BitVec.ofNat 32 (chCode (chan s (ctxOf ch false)).state
    + (if timed then chCode (chan s (ctxOf ch true)).state * 4 else 0)
    + ofBool ((requestOf s (ctxOf ch false)).isSome || (timed && (requestOf s (ctxOf ch true)).isSome)) * 2 ^ 4
    + heldBytes s (ctxOf ch false) * 2 ^ 8 + (if timed then heldBytes s (ctxOf ch true) * 2 ^ 19 else 0))

/-! ### The function window and the mailbox set (R475, R480) -/

/-- `Q.STS`. -/
def qSts (x : Func) : U32 :=
  BitVec.ofNat 32 (ofBool x.busy + x.result.toNat * 2 + ofBool x.halted * 2 ^ 8 + x.haltCause.toNat * 2 ^ 9)

/-- `Q.SPILL`. -/
def qSpill (x : Func) : U64 := BitVec.ofNat 64 (x.spilled.length + x.spillEntries * 2 ^ 32)

/-- The 64-bit registers of a function window. -/
def winRead64 (s : State) (f off : Nat) : Option U64 :=
  match off with
  | 0x20 => some (fn s f).qState
  | 0x30 => some (qSpill (fn s f))
  | _ => winGet s f off

/-- The 32-bit registers of a function window. -/
def winRead32 (s : State) (f off : Nat) : U32 :=
  let x := fn s f
  match off with
  | 0x00 => x.qSel
  | 0x18 => qSts x
  | 0x38 => evtWord s (256 + f)
  | 0x3C => x.qEvtVec
  | 0x40 => x.vecSel
  | _ => 0

/-- The 64-bit registers of a mailbox set. -/
def mbxRead64 (s : State) (k off : Nat) : Option U64 :=
  match off with
  | 0x00 => some (box s k).inPtr
  | 0x10 => some (box s k).outSlot.ptr
  | _ => none

/-- The 32-bit registers of a mailbox set. -/
def mbxRead32 (s : State) (k off : Nat) : U32 :=
  let b := box s k
  match off with
  | 0x0C => BitVec.ofNat 32 (ofBool b.inFull + ofBool b.inColl * 2)
  | 0x18 => BitVec.ofNat 32 (b.outSlot.seq.toNat + b.outSlot.typ.toNat * 2 ^ 16 + ofBool b.outFull * 2 ^ 24
      + ofBool b.outColl * 2 ^ 25)
  | 0x20 => b.vec
  | _ => 0

/-- One word of an MSI-X table (PCI Express Base Specification); a table holds N_VEC entries. -/
def msixRead (s : State) (f off : Nat) : U32 :=
  let v := vec s f (off / 16)
  if off / 16 < (fn s f).nVec then
    match off % 16 with
    | 0 => v.addr.setWidth 32
    | 4 => BitVec.ofNat 32 (field v.addr 32 32)
    | 8 => v.data
    | 12 => v.ctrl
    | _ => 0
  else 0

/-- 64 bits of a Pending Bit Array, from vector `n` on. -/
def pbaRead (s : State) (f n : Nat) : U64 :=
  BitVec.ofNat 64 ((List.range 64).foldl (fun a i => a + ofBool (vec s f (n + i)).pend * 2 ^ i) 0)

/-! ### Timebase and axes (R476) -/

/-- `TB.STS`. -/
def tbSts (s : State) : U32 :=
  BitVec.ofNat 32 (lockCode s.tb.lock + ofBool s.tb.clampLong * 4 + s.tb.flen * 2 ^ 4)

/-- `TB.CMP_CFG` of the unit selected. -/
def cmpCfg (s : State) : U32 :=
  let u := cmpUnit s (field s.tb.cmpSel 0 8)
  BitVec.ofNat 32 (u.axis + u.dir.toNat * 4 + u.action.toNat * 2 ^ 4 + ofBool u.anyCycle * 2 ^ 6 + u.port * 2 ^ 8
    + u.owner * 2 ^ 16 + ofBool u.armed * 2 ^ 24 + ofBool u.fired * 2 ^ 25 + ofBool u.missed * 2 ^ 26)

/-- `TB.PTM_STS`. -/
def ptmSts (s : State) : U64 :=
  BitVec.ofNat 64 (s.tb.ptmSeq.toNat + ofBool s.tb.ptmValid * 2 ^ 16 + s.tb.ptmFlen * 2 ^ 32)

/-- The 64-bit registers of the block. -/
def timebaseRead64 (s : State) (off : Nat) : Option U64 :=
  match off with
  | 0x000 => some (epochReg s)
  | 0x008 => some s.tb.tick
  | 0x038 => some (BitVec.ofNat 64 (cmpUnit s (field s.tb.cmpSel 0 8)).time)
  | 0x068 => some (ptmSts s)
  | 0x070 => some s.tb.ptmMaster
  | 0x078 => some s.tb.ptmTick
  | 0x080 => some s.tb.ptmEpoch
  | _ => if 0x100 ≤ off ∧ off < 0x200 ∧ off % 0x40 = 0x08 then some (axisState s ((off - 0x100) / 0x40)) else none

/-- The 32-bit registers of the block. INTERP reads 1 in MAINS. -/
def timebaseRead32 (s : State) (off : Nat) : U32 :=
  if 0x40 ≤ off ∧ off < 0x60 then evtWord s (132 + (off - 0x40) / 4)
  else if 0x100 ≤ off ∧ off < 0x200 then
    let i := (off - 0x100) / 0x40
    let x := axis s i
    match off % 0x40 with
    | 0x00 => setField x.cfg 3 1 (ofBool (axInterp x))
    | 0x04 => x.cpc
    | 0x10 => x.period
    | 0x14 => evtWord s (128 + i)
    | _ => 0
  else match off with
    | 0x010 => s.tb.ctl
    | 0x014 => BitVec.ofNat 32 s.tb.freeLen
    | 0x018 => s.tb.lockPhase
    | 0x01C => tbSts s
    | 0x020 => evtWord s 144
    | 0x024 => s.tb.cmpSel
    | 0x028 => cmpCfg s
    | 0x060 => BitVec.ofNat 32 (s.tb.ptmAuto.toNat * 2)
    | _ => 0

/-! ### Schedule status, dispatcher and engines, event controller (R477) -/

/-- `SCH.STS`. -/
def schSts (s : State) : U32 :=
  BitVec.ofNat 32 (ofBool s.sch.liveBank + ofBool s.sch.swapPend * 2 + ofBool s.sch.compiling * 4
    + ofBool s.sch.nm1Ok * 8 + (if s.sch.nm1Ok then 0 else s.sch.retiredEng.toNat) * 2 ^ 4 + s.sch.live.length * 2 ^ 8)

/-- The Schedule status block. -/
def scheduleRead (s : State) (off : Nat) : U32 :=
  if 0x100 ≤ off ∧ off < 0x200 then tget 0x50 s.sch.cap ((off - 0x100) / 4)
  else match off with
    | 0x000 => schSts s
    | 0x004 => s.sch.liveEpoch
    | 0x008 => s.sch.leadMiss
    | _ => 0

/-- `DSP.STS`: BP_ANY while some function's share is full. -/
def dspSts (s : State) : U32 :=
  BitVec.ofNat 32 (workUsed s + ofBool ((shareFuncs s).any fun e => shareFull s e.1) * 2 ^ 13)

/-- `DSP.SHARE` of the function selected. -/
def dspShare (s : State) : U32 :=
  let f := s.front.shareSel.toNat
  BitVec.ofNat 32 (share s f + shareUsed s f * 2 ^ 16
    + ofBool ((shareFuncs s).any (fun e => e.1 == f) && shareFull s f) * 2 ^ 31)

/-- `DSP.CTX_STS`. -/
def ctxSts (s : State) : U32 :=
  BitVec.ofNat 32 ((s.topo.ctx.filter fun e => e.2.isOpen).length + s.front.resident.length * 2 ^ 16)

/-- STATE of `ENG[e].STS`: RESET, IDLE, PERIODIC, DISPATCH, SCRIPT or RETIRED. An engine that waits in GETW, and one that
runs no thread, is idle. -/
def engState (s : State) (e : Nat) : Nat :=
  let x := eng s e
  if x.retired then 5
  else if x.inReset || x.stopped then 0
  else match x.run with
    | none => 1
    | some t =>
      if t.script.isSome then 4
      else if t.kind == .periodic then 2
      else if t.wait == .getw then 1 else 3

/-- `ENG[e].STS`. -/
def engSts (s : State) (e : Nat) : U32 :=
  let x := eng s e
  let held := ((x.run.map fun t => t.holds).getD []).head?
  BitVec.ofNat 32 (engState s e + held.getD 0 * 2 ^ 4 + ofBool held.isSome * 2 ^ 10 + x.parked.length * 2 ^ 16)

/-- `ENG[e].LOAD`: the largest A_e(m) + F(m) of R186 in the live bank. -/
def engPeak (s : State) (e : Nat) : Nat :=
  let es := s.sch.live.map Prod.snd
  (List.range (cycleLen es)).foldl (fun v m =>
    let a := sumLoad s (named es e) m
    let f := (List.range 16).foldl (fun v f => if f = e then v else max v (sumLoad s (adopts es f e) m)) 0
    max v (a + f)) 0

/-- The 32-bit registers of the Dispatcher and engines block. -/
def dispatcherRead (s : State) (off : Nat) : U32 :=
  if 0x100 ≤ off ∧ off < 0x180 then
    (if off % 8 = 0 then engSts s ((off - 0x100) / 8) else BitVec.ofNat 32 (engPeak s ((off - 0x100) / 8)))
  else match off with
    | 0x000 => dspSts s
    | 0x004 => s.front.shareSel
    | 0x008 => dspShare s
    | 0x018 => BitVec.ofNat 32 (ofBool s.front.ctxEn)
    | 0x01C => ctxSts s
    | 0x020 => evtWord s 145
    | 0x024 => s.eng.scrLast
    | 0x028 => s.eng.scrFaults
    | _ => 0

/-- `EIC.SRC_CFG` of the source selected: TARGET is the one that holds it ACTIVE, or to which it is offered. -/
def srcCfg (s : State) : U64 :=
  let n := field s.eic.srcSel 0 10
  let x := source s n
  let t := match x.active with | some t => some t.val | none => if isPending s n then offered s n else none
  BitVec.ofNat 64 (x.prio.toNat + ofBool x.en * 2 ^ 4 + ofBool (isPending s n) * 2 ^ 5 + ofBool x.active.isSome * 2 ^ 6
    + ofBool (level s n) * 2 ^ 7 + t.getD 0 * 2 ^ 8 + x.tmask.toNat * 2 ^ 32 + x.hvec.toNat * 2 ^ 50
    + ofBool x.hosten * 2 ^ 61)

/-- A target is in a low-power wait: an engine whose clock is gated, or a core whose domain sleeps (R423, R442, R443). -/
def targetAsleep (s : State) (t : Nat) : Bool :=
  (target s t).asleep || (if t < 16 then clockGated s t else coresSleep s && !coresAwake s)

/-- `EIC.TGT` of the target selected. -/
def eicTgt (s : State) : U32 :=
  let t := s.eic.tgtSel.toNat
  let x := target s t
  BitVec.ofNat 32 (x.thr.toNat + runLevel s t * 2 ^ 4 + ofBool (targetAsleep s t) * 2 ^ 8 + ofBool x.masked * 2 ^ 9
    + x.last.toNat * 2 ^ 16)

/-- The 32-bit registers of the Event controller block. -/
def eicRead (s : State) (off : Nat) : U32 :=
  match off with
  | 0x000 => s.eic.srcSel
  | 0x010 => s.eic.tgtSel
  | 0x014 => eicTgt s
  | _ => 0

/-! ### Ports and slots (R478, R484) -/

/-- The devices and hubs that hold a wire address in a tree: those enumerated, and one whose SET-ADDRESS has completed. -/
def treeKinds (s : State) (p : Nat) : List Bool :=
  ((s.topo.dev.filter fun e => e.2.port == p).map fun e => e.2.isHub)
    ++ (match (port s p).enum with
        | some e => if e.again || e.step == .setAddress then [] else [idIsHub e.ident]
        | none => [])

/-- `PORT[n].CTL`: the command bits read 0. -/
def portCtl (x : Port) : U32 := BitVec.ofNat 32 (x.genMax.toNat * 2 ^ 8)

/-- `PORT[n].STS`. -/
def portSts (s : State) (p : Nat) : U32 :=
  let x := port s p
  let atZero := match x.enum with | some e => e.step == .setAddress | none => false
  BitVec.ofNat 32 (ofBool (connectOf x) + ofBool x.enabled * 2 + ofBool x.suspended * 4
    + ofBool x.resetting * 8 + ofBool x.resuming * 2 ^ 4 + genCode x.gen * 2 ^ 5 + ofBool x.babbleDis * 2 ^ 8
    + ofBool atZero * 2 ^ 9 + (treeKinds s p).length * 2 ^ 16)

/-- LSTATE (R84). -/
def linkCode : LinkState → Nat
  | .disabled => 0 | .detect => 1 | .polling => 2 | .config => 3 | .active => 4 | .lowpower => 5 | .recovery => 6

/-- `PORT[n].LINK`. -/
def portLink (x : Port) : U32 :=
  BitVec.ofNat 32 (linkCode x.link + ofBool x.rateN5 * 8 + x.recoveries.toNat * 2 ^ 8)

/-- `PORT[n].ERRS`. -/
def portErrs (x : Port) : U64 :=
  BitVec.ofNat 64 (x.check.toNat + x.timeouts.toNat * 2 ^ 16 + x.babbles.toNat * 2 ^ 32 + x.linkErrTotal.toNat * 2 ^ 48)

/-- `PORT[n].LOAD`: the largest cost, in ns, that the live bank puts on the root link in one schedule unit. -/
def portPeak (s : State) (p : Nat) : Nat :=
  let es := s.sch.live.map Prod.snd
  let u := unitLen (port s p).gen
  cdiv ((List.range (cdiv (cycleLen es) u)).foldl (fun v k =>
    max v ((List.range u).foldl (fun a i => a + rootLoad s es p (k * u + i)) 0)) 0) 10

/-- `PORT[n].TREE`: TIERS is the tier of the deepest hub. -/
def portTree (s : State) (p : Nat) : U32 :=
  let l := treeKinds s p
  let deep := (s.topo.dev.filter fun e => e.2.port == p && e.2.isHub).foldl (fun t e => max t e.2.tier) 0
  BitVec.ofNat 32 ((l.filter fun h => !h).length + (l.filter fun h => h).length * 2 ^ 8 + deep * 2 ^ 16)

/-- The 32-bit registers of a port window. -/
def portRead (s : State) (p off : Nat) : U32 :=
  match off with
  | 0x000 => portCtl (port s p)
  | 0x004 => portSts s p
  | 0x008 => evtWord s p
  | 0x00C => portLink (port s p)
  | 0x018 => BitVec.ofNat 32 (portPeak s p)
  | 0x01C => portTree s p
  | _ => 0

/-- The 64-bit registers of a slot window. The telemetry is what the mule link has brought (R376). -/
def slotRead64 (s : State) (n off : Nat) : Option U64 :=
  let t := tget ({} : Telemetry) s.slots.tel n
  match off with
  | 0x18 => some (slotRead s n 0x18)
  | 0x28 => some (slotRead s n 0x28)
  | 0x38 => some t.v
  | 0x40 => some t.i
  | 0x48 => some t.energy
  | 0x50 => some t.peak
  | _ => none

/-! ### Error windows, pair and power (R479) -/

/-- `ERR[c].STS`: WORST counts in the current window only. -/
def errSts (s : State) (c : Nat) : U64 :=
  let x := errClass s c
  let worst := if x.window == errWindow s c then x.counts.foldl (fun m e => max m e.2) 0 else 0
  BitVec.ofNat 64 (x.total.toNat + x.lasting.toNat * 2 ^ 32 + min 255 worst * 2 ^ 48)

/-- The 64-bit registers of the Error windows block. -/
def errRead64 (s : State) (off : Nat) : Option U64 :=
  if off < 0x70 ∧ off % 0x10 = 8 then some (errSts s (off / 0x10))
  else match off with
    | 0x80 => some s.err.last
    | 0x88 => some s.err.fatal
    | 0x90 => some s.err.portFailed
    | _ => none

/-- The 32-bit registers of the Error windows block. -/
def errRead32 (s : State) (off : Nat) : U32 :=
  if off < 0x70 ∧ off % 0x10 = 0 then (errClass s (off / 0x10)).cfg
  else match off with
    | 0x98 => s.err.muleFailed.setWidth 32
    | 0x9C => evtWord s 148
    | _ => 0

/-- `PAIR.STS`. SHADOW_CURRENT in STANDBY, and in ACTIVE with the partner in STANDBY. -/
def pairSts (s : State) : U32 :=
  let x := s.pair
  let current := x.st == .standby || (x.st == .active && x.partner == some (pairCode .standby))
  BitVec.ofNat 32 (ofBool s.straps.pairId + ofBool s.straps.pairEn * 2 + pairCode x.st * 2 ^ 2 + x.partner.getD 0 * 2 ^ 6
    + ofBool x.linkUp * 2 ^ 10 + x.lanes * 2 ^ 11 + ofBool x.hbOk * 2 ^ 14 + ofBool x.senseOk * 2 ^ 15
    + ofBool current * 2 ^ 16 + ofBool x.version * 2 ^ 17 + x.takeovers.toNat * 2 ^ 24)

/-- The 32-bit registers of the Pair block. -/
def pairRead (s : State) (off : Nat) : U32 :=
  match off with
  | 0x000 => s.pair.cfg
  | 0x010 => pairSts s
  | 0x020 => evtWord s 149
  | _ => 0

/-- The 32-bit registers of the Power block; `PWR.CORE_RESET` is write-only. -/
def powerRead (s : State) (off : Nat) : U32 :=
  match off with
  | 0x000 => s.pwr.ctl
  | 0x004 => powerSts s
  | _ => 0

/-! ### VF resource tables and VF registers (R481, R482) -/

/-- `VFR[v].STS`. -/
def vfrSts (s : State) (v : Nat) : U32 :=
  let x := fn s v
  BitVec.ofNat 32 (ofBool x.enabled + ofBool x.created * 2 + ofBool x.halted * 4 + ofBool x.flrBusy * 8
    + ofBool x.isoVoid * 2 ^ 4 + (ownedHandles s v).length * 2 ^ 8)

/-- `VFR[v].DIRTY_CTL`: IDLE while no map write is pending (R345). -/
def dirtyCtl (x : Func) : U64 :=
  BitVec.ofNat 64 (ofBool x.dirtyEn + ofBool x.dirty.isEmpty * 2 + ofBool x.dirtyOvf * 4 + x.dirtyPages.toNat * 2 ^ 32)

/-- The 64-bit registers of the VF resource tables, for VF `v` from 1. -/
def vfrRead64 (s : State) (v off : Nat) : Option U64 :=
  match off with
  | 0x08 => some (fn s v).resetRpt
  | 0x10 => some (fn s v).dirtyBase
  | 0x18 => some (dirtyCtl (fn s v))
  | _ => none

/-- The 32-bit registers of window 0 of the VF resource tables. -/
def vfrRead (s : State) (off : Nat) : U32 :=
  if off < 0x10 then evtWord s (140 + off / 4)
  else if off = 0x10 then setField (evtWord s 146) 8 7 s.fns.evtFunc
  else 0

/-- `VF.ID`. -/
def vfId (s : State) (v : Nat) : U32 :=
  let x := fn s v
  BitVec.ofNat 32 (v + ofBool x.created * 2 ^ 7 + ofBool x.ready * 2 ^ 8 + ofBool x.isoVoid * 2 ^ 9
    + Config.stepping * 2 ^ 16)

/-- `VF.RES`. -/
def vfRes (x : Func) : U64 := BitVec.ofNat 64 (x.nSq + x.nCr * 2 ^ 16 + x.nVec * 2 ^ 32 + x.quota * 2 ^ 48)

/-! ### The two BARs -/

/-- The latched registers of R470, by address in PF0's BAR0. -/
def latchAt (a : Nat) : Option LatchReg :=
  if a = 0x1000 then some .epoch
  else if a = 0x1008 then some .tick
  else if h : 0x1100 ≤ a ∧ a < 0x1200 ∧ a % 0x40 = 0x08 then some (.axState ⟨(a - 0x1100) / 0x40, by omega⟩)
  else if h : 0x20000 ≤ a ∧ a < 0x28000 then
    let n : SlotId := ⟨(a - 0x20000) / 0x200, by omega⟩
    match a % 0x200 with
    | 0x38 => some (.telV n)
    | 0x40 => some (.telI n)
    | 0x48 => some (.energy n)
    | 0x50 => some (.telPeak n)
    | _ => none
  else none

/-- The 64-bit registers of PF0, by address. -/
def pf0Read64 (s : State) (a : Nat) : Option U64 :=
  if a = 0x00 then some (glbId s)
  else if a = 0x08 then some (bootSts s)
  else if a = 0x10 then some s.topo.base
  else if 0x100 ≤ a ∧ a < 0x150 then winRead64 s 0 (a - 0x100)
  else if a = 0x1030 then pf0Get s 0x1030
  else if 0x1000 ≤ a ∧ a < 0x2000 then timebaseRead64 s (a - 0x1000)
  else if a = 0x4010 then some s.front.ctxBase
  else if a = 0x8008 then some (srcCfg s)
  else if 0x10000 ≤ a ∧ a < 0x20000 then
    (if a % 0x400 = 0x10 then some (portErrs (port s ((a - 0x10000) / 0x400))) else none)
  else if 0x20000 ≤ a ∧ a < 0x28000 then slotRead64 s ((a - 0x20000) / 0x200) (a % 0x200)
  else if 0x30000 ≤ a ∧ a < 0x31000 then errRead64 s (a - 0x30000)
  else if a = 0x38008 then some s.pair.wire
  else if a = 0x38018 then some s.pair.last
  else if a = 0x3C008 then some s.pwr.wakeCause
  else if a = 0x3C010 then some s.pwr.watchMask
  else if 0x40000 ≤ a ∧ a < 0x41000 then mbxRead64 s 0 (a - 0x40000)
  else if 0x41000 ≤ a ∧ a < 0x42000 then (if s.straps.secHost then mbxRead64 s 128 (a - 0x41000) else none)
  else if 0x80040 ≤ a ∧ a < 0x82000 then vfrRead64 s ((a - 0x80000) / 0x40) (a % 0x40)
  else if a = 0x108000 then some (pbaRead s 0 0)
  else none

/-- Four bytes of the secure page's buffers (R439). -/
def secureRead (s : State) (off : Nat) : U32 :=
  if off < 0x800 then BitVec.ofNat 32 (leNat (mread s.mail.secIn off 4))
  else BitVec.ofNat 32 (leNat (mread s.mail.secOut (off - 0x800) 4))

/-- The 32-bit registers of the Global block. -/
def globalRead (s : State) (a : Nat) : U32 :=
  match a with
  | 0x018 => s.topo.ring
  | 0x01C => s.topo.prod.setWidth 32
  | 0x020 => bufSts s
  | 0x024 => s.dma.funcSel
  | 0x028 => bufFunc s
  | 0x02C => s.dma.chSel
  | 0x030 => dmaCh s
  | 0x034 => evtWord s 147
  | _ => 0

/-- The 32-bit registers of PF0, by address; an offset that nothing is assigned to reads 0 (R469). -/
def pf0Read32 (s : State) (a : Nat) : U32 :=
  if a < 0x100 then globalRead s a
  else if 0x100 ≤ a ∧ a < 0x150 then winRead32 s 0 (a - 0x100)
  else if 0x1000 ≤ a ∧ a < 0x2000 then timebaseRead32 s (a - 0x1000)
  else if 0x2000 ≤ a ∧ a < 0x3000 then scheduleRead s (a - 0x2000)
  else if 0x4000 ≤ a ∧ a < 0x5000 then dispatcherRead s (a - 0x4000)
  else if 0x8000 ≤ a ∧ a < 0x9000 then eicRead s (a - 0x8000)
  else if 0x10000 ≤ a ∧ a < 0x20000 then portRead s ((a - 0x10000) / 0x400) (a % 0x400)
  else if 0x20000 ≤ a ∧ a < 0x28000 then (slotRead s ((a - 0x20000) / 0x200) (a % 0x200)).setWidth 32
  else if 0x30000 ≤ a ∧ a < 0x31000 then errRead32 s (a - 0x30000)
  else if 0x38000 ≤ a ∧ a < 0x39000 then pairRead s (a - 0x38000)
  else if 0x3C000 ≤ a ∧ a < 0x3D000 then powerRead s (a - 0x3C000)
  else if 0x40000 ≤ a ∧ a < 0x41000 then mbxRead32 s 0 (a - 0x40000)
  else if 0x41000 ≤ a ∧ a < 0x42000 then (if s.straps.secHost then mbxRead32 s 128 (a - 0x41000) else 0)
  else if 0x42000 ≤ a ∧ a < 0x43000 then (if s.straps.secHost then secureRead s (a - 0x42000) else 0)
  else if 0x80000 ≤ a ∧ a < 0x80040 then vfrRead s (a - 0x80000)
  else if 0x80040 ≤ a ∧ a < 0x82000 then (if a % 0x40 = 0 then vfrSts s ((a - 0x80000) / 0x40) else 0)
  else if 0x100000 ≤ a ∧ a < 0x100400 then msixRead s 0 (a - 0x100000)
  else 0

/-- The 64-bit registers of a VF. -/
def vfRead64 (s : State) (f a : Nat) : Option U64 :=
  if a = 0x08 then some (vfRes (fn s f))
  else if 0x100 ≤ a ∧ a < 0x150 then winRead64 s f (a - 0x100)
  else if 0x200 ≤ a ∧ a < 0x224 then mbxRead64 s f (a - 0x200)
  else if 0x3000 ≤ a ∧ a < 0x3040 then some (pbaRead s f ((a - 0x3000) * 8))
  else none

/-- The 32-bit registers of a VF. -/
def vfRead32 (s : State) (f a : Nat) : U32 :=
  if a = 0 then vfId s f
  else if a = 0x10 then evtWord s (384 + f)
  else if a = 0x14 then (fn s f).vfEvtVec
  else if 0x100 ≤ a ∧ a < 0x150 then winRead32 s f (a - 0x100)
  else if 0x200 ≤ a ∧ a < 0x224 then mbxRead32 s f (a - 0x200)
  else if 0x1000 ≤ a ∧ a < 0x3000 then msixRead s f (a - 0x1000)
  else 0

/-! ### Accesses (R469) -/

/-- The 64-bit register at an offset, if one stands there. -/
def reg64 (s : State) (f : FuncId) (a : Nat) : Option U64 := if f.val = 0 then pf0Read64 s a else vfRead64 s f.val a

/-- The high word of a 64-bit register: the latched one, if the low word has been read (R141). -/
def highWord (s : State) (f : FuncId) (a : Nat) (v : U64) : U32 :=
  let latched := if f.val = 0 then (latchAt a).bind fun r => tfind s.tb.latch (latchKey r) else none
  latched.getD (BitVec.ofNat 32 (field v 32 32))

/-- An aligned 32-bit read: a register, or one half of a 64-bit register. -/
def read32 (s : State) (f : FuncId) (a : Nat) : U32 :=
  match reg64 s f (a / 8 * 8) with
  | some v => if a % 8 = 4 then highWord s f (a - 4) v else v.setWidth 32
  | none => if f.val = 0 then pf0Read32 s a else vfRead32 s f.val a

/-- An aligned 64-bit read: one instant of a 64-bit register, or two 32-bit registers. -/
def read64 (s : State) (f : FuncId) (a : Nat) : U64 :=
  match reg64 s f a with
  | some v => v
  | none => BitVec.ofNat 64 ((read32 s f a).toNat + (read32 s f (a + 4)).toNat * 2 ^ 32)

/-- The block answers reads: until the firmware runs only the Global block does, a fatal error leaves the Error windows
block readable, and a VF answers while it is enabled (R386, R458; log 109). -/
def readAnswers (s : State) (f : FuncId) (a : Nat) : Bool :=
  !s.pwr.por && s.pwr.st != .off
    && (if s.err.held then f.val == 0 && decide (0x30000 ≤ a ∧ a < 0x31000)
        else if f.val == 0 then s.pwr.ready || decide (a < 0x1000)
        else s.pwr.ready && (fn s f.val).enabled)

/-- What a read of 1, 2, 4 or 8 bytes at an aligned offset returns. Between an FLR and reset-done a VF's BAR0 reads 0, except
`VF.ID` (R348); a read that nothing answers returns 0. -/
def registerRead (s : State) (f : FuncId) (a bytes : Nat) : U64 :=
  if !readAnswers s f a then 0
  else if f.val != 0 && (fn s f.val).flrBusy && decide (4 ≤ a) then 0
  else if bytes = 8 then read64 s f a
  else BitVec.ofNat 64 (field (read32 s f (a / 4 * 4)) (8 * (a % 4)) (8 * min 4 bytes))

end Sys2Proof.Machine
end

