-- ==== Sys2Proof/Safety.lean ====
section
/-! DEFINITION. What counts as a safe run, and the words in which the statements are made: the blocks of the state, what it
means that a block is as it was, and that nothing else changed. -/

namespace Sys2Proof

/-- The step from `s` answers a next state. -/
def StepsOn (s : Machine.State) : Prop := ∃ t, Machine.step s = .next t

/-- `n` steps from `s` all answer a next state. -/
def Machine.SafeFor : Nat → Machine.State → Prop
  | 0, _ => True
  | n + 1, s => ∃ t, Machine.step s = .next t ∧ Machine.SafeFor n t

namespace Machine

/-- The fields of the state: the queue, what was sent, the model's own counter, and the blocks of the part. -/
inductive Block where
  | pending | out | free | eic | mail | eng | sch | front | dma | tb | topo | fns | slots | err | pair | ctl | straps | pwr
  | flash
deriving DecidableEq, Repr

/-- A block is in `t` as it was in `s`. -/
def Keeps (b : Block) (s t : State) : Prop :=
  match b with
  | .pending => t.pending = s.pending
  | .out => t.out = s.out
  | .free => t.free = s.free
  | .eic => t.eic = s.eic
  | .mail => t.mail = s.mail
  | .eng => t.eng = s.eng
  | .sch => t.sch = s.sch
  | .front => t.front = s.front
  | .dma => t.dma = s.dma
  | .tb => t.tb = s.tb
  | .topo => t.topo = s.topo
  | .fns => t.fns = s.fns
  | .slots => t.slots = s.slots
  | .err => t.err = s.err
  | .pair => t.pair = s.pair
  | .ctl => t.ctl = s.ctl
  | .straps => t.straps = s.straps
  | .pwr => t.pwr = s.pwr
  | .flash => t.flash = s.flash

/-- Only the blocks of the list may differ. -/
def Frame (bs : List Block) (s t : State) : Prop := ∀ b, b ∉ bs → Keeps b s t

/-- A notice stands in the outbound slot of mailbox `k`, or waits for it. -/
def Posted (k : Nat) (n : Notice) (t : State) : Prop :=
  ((box t k).outFull = true ∧ (box t k).outSlot = n) ∨ n ∈ (box t k).waiting

/-- The bytes of the reply to a command: the header of R434 and the body. -/
def replyBytesOf (ctx : CmdCtx) (code : Nat) (body : List Byte) : List Byte :=
  replyHeader code ctx.seq body.length 0 (sender ctx.chan) ctx.replyAddr ++ body

/-- From `s` to `t` the command has been answered with this body: on a function's mailbox the reply is written to its memory
(or waits for its Bus Master Enable), on the secure page and over I3C to the outbound buffer, and a notice with the
command's SEQ is posted. -/
def Answered (ctx : CmdCtx) (code : Nat) (body : List Byte) (s t : State) : Prop :=
  match ctx.chan with
  | .nonSecure f =>
    if (fn s f.val).bme then
      Output.hostWrite f.val (replyPlace ctx).toNat (replyBytesOf ctx code body) ∈ t.out
        ∧ Posted f.val ⟨replyPlace ctx, ctx.seq, BitVec.ofNat 8 code⟩ t
    else (replyPlace ctx, replyBytesOf ctx code body, ⟨replyPlace ctx, ctx.seq, BitVec.ofNat 8 code⟩) ∈ (box t f.val).replies
  | .secure =>
    t.mail.secOut = mwrite s.mail.secOut (replyPlace ctx).toNat
        ((replyBytesOf ctx code body).take (2048 - (replyPlace ctx).toNat))
      ∧ Posted 128 ⟨replyPlace ctx, ctx.seq, BitVec.ofNat 8 code⟩ t
  | .i3c =>
    t.mail.i3cOut = mwrite s.mail.i3cOut 0 ((replyBytesOf ctx code body).take 256)
      ∧ Posted 129 ⟨replyPlace ctx, ctx.seq, BitVec.ofNat 8 code⟩ t

/-- Bit `b` of the event register of key `k` is set and every other event bit is as it was. -/
def Raised (k b : Nat) (s t : State) : Prop :=
  ∀ j, evtWord t j = if j = k then evtWord s j ||| BitVec.ofNat 32 (2 ^ b) else evtWord s j

/-- Nothing of the functions but their vectors has changed. -/
def SameFuncs (s t : State) : Prop := ∀ f, { fn t f with vecs := [] } = { fn s f with vecs := [] }

/-- Every slot but `n` is as it was. -/
def OtherSlots (n : Nat) (s t : State) : Prop := ∀ k, k ≠ n → slot t k = slot s k

/-- Every port but `p` is as it was. -/
def OtherPorts (p : Nat) (s t : State) : Prop := ∀ k, k ≠ p → port t k = port s k

/-- Every engine but `e` is as it was. -/
def OtherEngines (e : Nat) (s t : State) : Prop := ∀ k, k ≠ e → eng t k = eng s k

/-! ### Card slots -/

/-- A mule die's report of the events `m` of slot `n`: while the die is parked they wait in it, else their bits stand in
`SLOT[n].EVT`; no other bit of an event register moves. -/
def SlotReports (n : Nat) (m : U32) (s t : State) : Prop :=
  if (die s (dieOf n)).parked then (slot t n).kept = (slot s n).kept ||| m ∧ ∀ j, evtWord t j = evtWord s j
  else (slot t n).kept = (slot s n).kept ∧ ∀ j, evtWord t j = if j = 64 + n then evtWord s j ||| m else evtWord s j

/-- Slot `n` has become `y` and has reported the events `m`; every other slot, and every function but for its vectors, is as
it was. -/
def SlotMoves (n : Nat) (y : CardSlot) (m : U32) (s t : State) : Prop :=
  { slot t n with kept := 0 } = { y with kept := 0 } ∧ SlotReports n m s t ∧ OtherSlots n s t ∧ SameFuncs s t

/-- A slot whose gate has turned off into state `st` at TICK `t`. -/
def offSlot (t : Nat) (st : SlotState) (x : CardSlot) : CardSlot :=
  { x with
    st := st, gate := false, pg := false, pgLoss := false, gateRise := false, soaEnergy := 0, pfw := true, minOff := true
    discharge := true, cut := some ⟨t, x.st == .on, x.gateRise, x.pgLoss⟩ }

/-- A slot that has tripped: its gate is off, it is latched in TRIPPED, and the code, its cause and the record stand. -/
def tripSlot (code : BitVec 4) (bySoa : Bool) (vout vbus : BitVec 12) (t epoch : Nat) (x : CardSlot) : CardSlot :=
  { (if x.gate then offSlot t .tripped x else x) with
    st := .tripped, tripCode := code, tripBy := bySoa
    tripRec := BitVec.ofNat 64 (vout.toNat + vbus.toNat * 2 ^ 16 + epoch * 2 ^ 32) }

/-- A slot that has been through the power-up check; `free` says that its die lets it ramp. -/
def checkedSlot (free : Bool) (x : CardSlot) : CardSlot :=
  if !x.present then { x with st := .empty }
  else if x.minOff then { x with st := .cooldown }
  else if !anyFeed x then { x with st := .noFeed }
  else if !free then { x with st := .off }
  else { x with st := .ramp, gate := true, soaEnergy := 0, gateRise := false }

/-! ### Ox engines -/

/-- Engine `e` runs thread `t`, which may execute an instruction of `cost` cycles that both microcode and scripts may use:
the microcode stands in its region, a script has the budget. -/
def CanRun (s : State) (e : EngId) (t : Thread) (cost : Nat) : Prop :=
  live s = true ∧ (eng s e.val).run = some t ∧ t.wait = .running
    ∧ match t.script with
      | none => t.pc.toNat < 0x2000
      | some r => cost ≤ r.budget.toNat

/-- The thread has executed an instruction of `cost` cycles: register `rd` holds `v`, the flags are Z and N of `v` and the
given C, and execution goes on behind it. -/
def wrote (cost rd : Nat) (v : Byte) (c : Bool) (t : Thread) : Thread :=
  advance { spend cost t with b := tput t.b rd v, z := v == 0, n := bit v 7, c := c }

/-- Engine `e` runs thread `t` in the microcode, which may execute any instruction open to it. -/
def InMicrocode (s : State) (e : EngId) (t : Thread) : Prop := CanRun s e t 0 ∧ t.script = none

/-! ### Items and transactions -/

/-- Nothing waits for the line of port `p`: no reset, no enumeration, and nothing queued on its lane. -/
def Quiet (s : State) (p : Nat) : Prop :=
  (port s p).resetDue = false ∧ (port s p).enumQueue = [] ∧ (port s p).lane = []

/-- A script that waits has the budget for the cycles of its wait. -/
def WaitPaid (s : State) (t : Thread) : Prop := ∀ r, t.script = some r → waitedCycles s t ≤ r.budget.toNat

/-- Every item but `i` is as it was. -/
def OtherItems (i : Nat) (s t : State) : Prop := ∀ j, j ≠ i → item? t j = item? s j

/-- Item `i`, which was `x`, has its completion with status `st`: its last transaction has ended, and what it asked for and
moved is as it was. Every other item is as it was, and so are the trees, the engines and what was sent. -/
def Completed (i : Nat) (x : Item) (st : Byte) (s t : State) : Prop :=
  (∃ y, item? t i = some y ∧ y.status = some st ∧ y.awaitFin = false ∧ y.wireDone = true ∧ y.stopAs = none
      ∧ (y.func, y.sq, y.index, y.raw, y.posted) = (x.func, x.sq, x.index, x.raw, x.posted) ∧ (y.moved, y.drained) = (x.moved, x.drained))
    ∧ OtherItems i s t ∧ t.topo = s.topo ∧ t.eng = s.eng ∧ t.out = s.out ∧ t.fns = s.fns ∧ t.mail = s.mail

/-- The microcode of engine `e` may act on the line of port `p` for item `i`, whose status is open: no transaction runs
there. -/
def OnLine (s : State) (e : EngId) (t : Thread) (p i : Nat) (x : Item) : Prop :=
  InMicrocode s e t ∧ t.work = .item i ∧ workPort s t.work = p ∧ item? s i = some x ∧ x.status = none ∧ x.stopAs = none
    ∧ lineReady s e.val t p = true

/-- The transaction that a token of engine `e` begins for item `i`, with what its row and the context give. -/
def tokenTxn (e i : Nat) (k : TxnKind) (num ep : Nat) (dirIn : Bool) (q : BitVec 5) (n : Nat) (retry waiting : Bool)
    (at_ : Nat) : Txn :=
  { kind := k, work := .item i, engine := some e, num := num, ep := ep, dirIn := dirIn, seq0 := q, count := n
    retry := retry, waiting := waiting, start := at_ }

/-- A transaction with these particulars has begun on port `p`, item `i` has begun, and nothing else of the ports, engines
and items has changed but that engine `e` has moved on. -/
def TxnBegun (e : EngId) (t : Thread) (p i : Nat) (x : Item) (k : TxnKind) (num ep : Nat) (dirIn : Bool) (q : BitVec 5)
    (n : Nat) (retry waiting : Bool) (s u : State) : Prop :=
  (port u p).txn = some (tokenTxn e.val i k num ep dirIn q n retry waiting (now s))
    ∧ (port u p).answer = none ∧ (eng u e.val).run = some (advance t)
    ∧ (∃ st, item? u i = some (if x.begun then x else { x with begun := true, stamp := st }))
    ∧ OtherItems i s u ∧ OtherPorts p s u ∧ OtherEngines e.val s u

/-- Engine `e` runs thread `t`, which holds port `p` and waits there for an answer, to branch by `o` where `m` has the
result's bit, with the budget for the wait where it is a script's; the line serves a transaction `tx` of item `i`, a bulk
transfer whose status is open, and has an answer to come. -/
def Awaits (s : State) (p e : Nat) (t : Thread) (m : Byte) (o : BitVec 14) (tx : Txn) (i : Nat) (x : Item) : Prop :=
  laneUp s p = true ∧ (port s p).txn = some tx ∧ tx.waiting = true ∧ tx.ackDue = false ∧ tx.engine = some e
    ∧ tx.work = .item i ∧ item? s i = some x ∧ x.status = none ∧ x.stopAs = none ∧ itemCtrl x = false ∧ Quiet s p
    ∧ (eng s e).run = some t ∧ tfind (eng s e).parked p = none ∧ p ∈ t.holds ∧ (t.wait = .whs m o ∨ t.wait = .rdat m o)
    ∧ WaitPaid s t

/-- The waiting thread has taken result `code`: it is in B15, and execution goes on behind the wait or branches. -/
def Told (e code : Nat) (t : Thread) (m : Byte) (o : BitVec 14) (u : State) : Prop :=
  ∃ r, (eng u e).run = some r ∧ r.wait = .running ∧ breg r 15 = BitVec.ofNat 8 code ∧ r.work = t.work ∧ r.holds = t.holds
    ∧ r.pc = (if bit m code then t.pc + o else (loopEnd t.pc t.loops).1)

/-- The answer of a transaction has ended it: the line is free, its engine has the result, and no other port has changed. -/
def Ended (p e code : Nat) (t : Thread) (m : Byte) (o : BitVec 14) (s u : State) : Prop :=
  (port u p).txn = none ∧ OtherPorts p s u ∧ Told e code t m o u

/-- An item whose status the wire has decided: it awaits FIN. -/
def decided (st : Byte) (x : Item) : Item := { x with status := some st, awaitFin := true, stopAs := none, ended := true }

/-- A bulk or control transfer after an attempt without progress: one more error in a row, and XACT_ERR at the limit. -/
def struck (g : Gen) (x : Item) : Item :=
  if errorLimit g ≤ x.errs + 1 then decided stXactErr { x with errs := x.errs + 1 } else { x with errs := x.errs + 1 }

/-! ### Ports and links -/

/-- The eight setup bytes of a control request (R68, R101). -/
def setupBits (request byte1 arg0 arg1 dlen : Nat) : Option U64 := some (BitVec.ofNat 64 (setupData request byte1 arg0 arg1 dlen))

/-- Work of the part's own on a device stands under index `i` (R15, R100, R223): an item of level 6 in PF0's share, a control
transfer with the setup bytes `a`, or with none the poll of a hub's status-change endpoint. -/
def Asks (i num : Nat) (a : Option U64) (u : State) : Prop :=
  ∃ c x, ctx? u num 0 false = some c ∧ item? u i = some x ∧ x.func = 0 ∧ x.slot = .work ∧ x.level = 6 ∧ x.status = none
    ∧ x.setup = a ∧ x.poll = a.isNone ∧ x.posted = some (requestBody u num c a)

/-- An error class as an error finds it: in a window that has begun since, with its counts back at 0 (R8, R382). -/
def rolledClass (s : State) (c : Nat) : ErrClass :=
  if (errClass s c).window = errWindow s c then errClass s c else { errClass s c with counts := [], window := errWindow s c }

/-- No work of the part's own waits or runs, and PF0's share has room for one more item. -/
def Unasked (s : State) : Prop :=
  s.front.requests = [] ∧ shareFull s 0 = false ∧ ∀ e ∈ s.front.items, isOwn e.2 = false

/-- A LINK packet with a command code and its parameter, as it goes out on a port. -/
def linkCmd (g : Gen) (p code param : Nat) : Output :=
  .packet p (packetBytes g .link { Hdr0 with len := BitVec.ofNat 11 param, tspec := BitVec.ofNat 8 code } [])

/-- Port `p` has become `y`, `l` has been sent, and no other port has changed. -/
def PortMoves (p : Nat) (y : Port) (l : List Output) (s u : State) : Prop :=
  port u p = y ∧ u.out = s.out ++ l ∧ OtherPorts p s u

/-! ### Axes -/

/-- Axis `x` has been timed at a counted edge at `t`: its direction, the run of edges in it and their interval. -/
def edgeTimed (t : Nat) (reverse : Bool) (x : Axis) : Axis :=
  let same := x.reverse == reverse && x.lastEdge.isSome
  { x with
    lastEdge := some t, sameDir := if same then x.sameDir + 1 else 1, reverse := reverse, stalled := false
    interval := if same then x.lastEdge.map (t - ·) else none }

/-- A cycle of axis `x` has started forward at `t`: the cycle that ends gives PERIOD where it was complete. -/
def cycleBegun (t : Nat) (x : Axis) : Axis :=
  { x with
    cycle := x.cycle + 1, cycleStart := some t
    period := match x.cycleStart with
      | some a => if t - a < 0xFFFFFFFF then BitVec.ofNat 32 (t - a) else 0xFFFFFFFF
      | none => x.period }

/-- Axis `x` after a forward count at `t`. -/
def countedUp (t : Nat) (x : Axis) : Axis :=
  if x.count + 1 < axCpc x then { edgeTimed t false x with count := x.count + 1, pos := posOf x (x.count + 1) }
  else { cycleBegun t { edgeTimed t false x with count := 0, wraps := x.wraps + 1 } with pos := 0 }

/-- Axis `x` after a reverse count at `t`. -/
def countedDown (t : Nat) (x : Axis) : Axis :=
  if x.count = 0 then
    { edgeTimed t true x with
      count := axCpc x - 1, wraps := x.wraps - 1, cycle := x.cycle - 1, cycleStart := none, pos := posOf x (axCpc x - 1) }
  else { edgeTimed t true x with count := x.count - 1, cycleStart := none, pos := posOf x (x.count - 1) }

/-! ### Queues and mailboxes -/

/-- From `s` to `t` SQ `q` of function `f` has taken P = `v`: where there is then something to fetch and it may be fetched, the
front end reads on from that queue, the new entries count as seen in microframe `m` (R197), and the read of the next one goes
out; where it may not, the entries stay unread, to be seen anew. -/
def Kicked (f q : Nat) (v : U16) (m : Nat) (s t : State) : Prop :=
  let x := sq s f q
  let more := x.f != v || !x.inval.isEmpty
  let reads := canFetch (modSq f q (fun y => { y with p := v }) s) f q
  sq t f q = (if !more then { x with p := v }
      else if reads then { x with
        p := v, reading := true, seenAt := noteSeen m { x with p := v }, kickAt := if x.reading then x.kickAt else m }
      else { x with p := v, reading := false, seenAt := [] })
    ∧ (∀ g r, ¬ (g = f ∧ r = q) → sq t g r = sq s g r) ∧ Frame [.out, .fns] s t
    ∧ t.out = s.out ++ (if more && reads then
        [.hostRead f (x.base.toNat + 32 * ((nextIndex x).toNat % cfgSize x.cfg)) 32] else [])

/-- The value `v` is a producer value that the SQ may take: within the ring, and not behind P (R265). -/
def inRing (x : Sq) (v : U16) : Prop := (v - x.c).toNat ≤ cfgSize x.cfg ∧ (x.p - x.c).toNat ≤ (v - x.c).toNat

/-- `d` is the row of the table that carries out a command of code `code` whose body is `b`; SCRIPT_LOAD and PLAT_SENSORS take more than
their body, and have rows of their own to bring it. -/
def CommandRow (ctx : CmdCtx) (code : Nat) (b : List Byte) (d : Instr) : Prop :=
  (code = 0x30 ∧ d = .topoPortReset ctx (topoBodyOf b)) ∨
  (code = 0x31 ∧ d = .topoDeviceReset ctx (topoBodyOf b)) ∨
  (code = 0x32 ∧ d = .topoPortSuspend ctx (topoBodyOf b)) ∨
  (code = 0x33 ∧ d = .topoPortResume ctx (topoBodyOf b)) ∨
  (code = 0x34 ∧ d = .topoPortDisable ctx (topoBodyOf b)) ∨
  (code = 0x35 ∧ d = .topoBindSlot ctx (topoBodyOf b)) ∨
  (code = 0x40 ∧ d = .admitCmd ctx (admitBodyOf b)) ∨
  (code = 0x41 ∧ d = .release ctx (admitBodyOf b)) ∨
  (code = 0x42 ∧ d = .query ctx) ∨
  (code = 0x51 ∧ d = .scriptUnload ctx (b.getD 12 0)) ∨
  (code = 0x52 ∧ d = .scriptBind ctx (bindBodyOf b)) ∨
  (code = 0x53 ∧ d = .scriptUnbind ctx (bindBodyOf b)) ∨
  (code = 0x60 ∧ d = .queueStop ctx (BitVec.ofNat 16 (dHalf b 0))) ∨
  (code = 0x61 ∧ d = .queueStart ctx (BitVec.ofNat 16 (dHalf b 0))) ∨
  (code = 0x70 ∧ d = .bufCarve ctx (BitVec.ofNat 16 (dHalf b 0)) (b.getD 2 0)) ∨
  (code = 0x71 ∧ d = .bufRelease ctx (BitVec.ofNat 16 (dHalf b 0)) (b.getD 2 0)) ∨
  (code = 0x80 ∧ d = .vfCreate ctx (funcDescOf b)) ∨
  (code = 0x81 ∧ d = .vfDestroy ctx (b.getD 0 0)) ∨
  (code = 0x82 ∧ d = .funcModify ctx (funcDescOf b)) ∨
  (code = 0x83 ∧ d = .funcQuery ctx (b.getD 0 0)) ∨
  (code = 0x84 ∧ d = .devAssign ctx (assignBodyOf b)) ∨
  (code = 0x85 ∧ d = .devQuery ctx (b.getD 0 0) (BitVec.ofNat 16 (dHalf b 2))) ∨
  (code = 0x90 ∧ d = .pairQuery ctx) ∨
  (code = 0x91 ∧ d = .pairSwitch ctx (BitVec.ofNat 32 (leNat (b.take 4)))) ∨
  (code = 0x92 ∧ d = .pairResync ctx) ∨
  (code = 0xA0 ∧ d = .fwQuery ctx) ∨
  (code = 0xA1 ∧ d = .fwWrite ctx (BitVec.ofNat 32 (leNat (b.take 4))) ((b.drop 16).take (leNat ((b.drop 4).take 4)))) ∨
  (code = 0xA2 ∧ d = .fwErase ctx (BitVec.ofNat 32 (leNat (b.take 4))) (BitVec.ofNat 32 (leNat ((b.drop 4).take 4)))) ∨
  (code = 0xA3 ∧ d = .fwVerify ctx) ∨
  (code = 0xA4 ∧ d = .fwActivate ctx)

/-- The blocks of the state that a command may change. -/
def touches : Instr → List Block
  | .muleKeepalive .. | .mulePowerCommand .. | .feedInvalid .. | .feedValid .. | .slotEnClear .. | .cycle ..
  | .pgLostTimeout .. | .pctlbWrite .. | .wakeMemoryReady
    => [.out, .eic, .mail, .eng, .sch, .front, .dma, .tb, .topo, .fns, .slots, .pwr]
  | .coreLostDeclare .. | .handOverCommand .. | .keepalive .. | .pctlbClaim .. | .pctlbRelease .. | .pctlbRead ..
    => [.out, .slots]
  | .muleRemovalEvent .. | .muleTripEvent .. | .responseTimeout .. | .burstGapExpiry .. | .dataPacket .. | .ack ..
  | .nak .. | .stall .. | .nyet .. | .err .. | .sofHoldLimit .. | .sofDeferredSend .. | .linkCmdTimeout ..
  | .linkErrorLimit .. | .wakeTone .. | .connectChange .. | .announceWindowEnd .. | .hubStatusChange ..
  | .portReset .. | .portDisable .. | .topoPortReset .. | .topoPortDisable .. | .legacyBiasLoss ..
  | .hostResumeEnd .. | .compareFire .. | .floatStart .. | .holdGrant .. | .scriptBudgetExpiry ..
  | .dmaReadCompletion .. | .devAssign .. | .discardedPacket ..
    => [.out, .eic, .mail, .eng, .sch, .front, .dma, .tb, .topo, .fns]
  | .mulePfwEvent .. | .topoRingWrite .. | .topoBaseWrite .. => [.out, .eic, .topo, .fns]
  | .mulePowerGoodEvent .. | .lpReject .. | .wakeAck .. | .portEnable .. => [.topo]
  | .telemetryReport .. | .prsntNEdge .. | .minOffExpiry .. | .oringForward .. | .slotEnSet .. | .telPeakRestart ..
  | .pctlbKeepaliveLoss .. | .eventAck .. | .vmuleLoss .. | .removalLatchClear .. => [.slots]
  | .microframeBoundary .. | .ident .. => [.out, .eic, .mail, .eng, .sch, .front, .dma, .tb, .topo, .fns, .pair]
  | .frameBoundary => [.out, .free, .eic, .mail, .eng, .sch, .front, .dma, .tb, .topo, .fns, .slots, .pair, .pwr]
  | .doorbellBlockReadDone .. | .qKickSq .. | .qKickSqInval .. | .qKickCr .. | .qDestroy .. | .completionRelease ..
  | .resetRecoveryEnd .. | .hubPowerOnWaitEnd .. | .enumTransferDone .. | .handleReuseTimeout .. | .vfResetDone ..
    => [.out, .free, .eic, .mail, .eng, .sch, .front, .dma, .tb, .topo, .fns]
  | .sqEntryFetched .. | .axisCountEdge .. | .axisIndexEdge .. | .axisStall .. | .axCpcWrite ..
  | .indexTableReadDone .. => [.out, .eic, .mail, .sch, .front, .dma, .tb, .topo, .fns]
  | .qCreate .. | .qRead .. | .vfEnableSet .. => [.fns]
  | .queueStop .. | .vfEnableClear | .vfDestroy .. | .vfFlr .. | .pf0Flr
    => [.out, .mail, .sch, .front, .dma, .tb, .topo, .fns]
  | .queueStart .. | .query .. | .funcQuery .. | .devQuery .. | .pairQuery .. | .pairResync .. | .mbxOutboundPost ..
  | .fwQuery .. | .platSensors .. => [.out, .mail, .fns]
  | .controlTimeLimit .. | .compareArmNext .. => [.mail, .sch, .front, .dma, .tb, .topo]
  | .trainCap .. | .trainDone .. | .trainingSetLock .. | .genConfirmEnd .. => [.out, .eic, .front, .topo, .fns]
  | .lpEnter .. | .lpAccept .. | .suspendSilenceExpiry .. => [.out, .topo]
  | .wake .. | .i3cPrivateRead .. => [.out]
  | .detectPulse .. | .farEndTermination .. | .recoveryTimeout .. | .attachDebounceEnd .. | .detectWindowEnd ..
  | .resetSignallingEnd .. | .portSuspend .. | .topoPortSuspend .. | .linkDisconnectTimeout .. | .nop .. | .mov ..
  | .movi .. | .add .. | .addi .. | .adc .. | .sub .. | .subi .. | .andi .. | .and .. | .or .. | .ori .. | .xor ..
  | .xori .. | .cmp .. | .cmpi .. | .ldb .. | .stb .. | .ldp .. | .addp .. | .addpi .. | .br .. | .jmp .. | .cld ..
  | .cst .. | .pld .. | .pst .. | .hold .. | .rel .. | .tok .. | .spl .. | .sdat .. | .rdat .. | .shs .. | .whs ..
  | .arm .. | .dly .. | .drn .. | .getw .. | .putw .. | .fin .. | .evt .. | .sret .. | .scall .. | .eccScrubVisit ..
  | .errorDetected .. | .xbkNak .. | .xebirokRecordError | .trainingTimeout ..
    => [.out, .eic, .mail, .eng, .sch, .front, .dma, .tb, .topo, .fns, .slots, .err, .pair]
  | .enumAddressWaitEnd .. | .hubPolled .. | .dspCtxCtlWrite .. => [.front, .topo]
  | .hubAdmitRetry .. => [.free, .sch, .topo]
  | .reportRecordWrite | .shl .. | .shr .. | .call .. | .ret .. | .loop ..
    => [.out, .free, .eic, .mail, .eng, .sch, .front, .dma, .tb, .topo, .fns, .slots, .err, .pair]
  | .portResume .. => [.out, .front, .topo]
  | .topoDeviceReset .. => [.out, .mail, .eng, .sch, .front, .dma, .tb, .topo, .fns]
  | .topoPortResume .. => [.out, .mail, .front, .topo, .fns]
  | .topoBindSlot .. => [.out, .mail, .topo, .fns]
  | .remoteWakeDetect .. | .wakeLogicReady => [.out, .front, .topo, .pwr]
  | .tbFreeLenWrite .. | .tbCmpTargetWrite .. | .ptmStart | .epochLowRead .. | .epochLatchExpiry .. => [.tb]
  | .axisLockPhasePass | .ptmResponse .. | .ptmTimeout => [.out, .eic, .tb, .fns]
  | .tbCmpCfgWrite .. => [.out, .mail, .sch, .front, .dma, .tb, .topo]
  | .admitCmd .. => [.out, .free, .mail, .sch, .fns]
  | .release .. => [.out, .mail, .sch, .fns]
  | .compileDone => [.sch]
  | .dlyExpiry .. | .parkedThreadResume .. | .engineInterrupt .. | .engineRejoin .. | .engineClockGate .. => [.eng]
  | .getwGrant .. => [.out, .eng, .front, .dma, .topo, .fns, .ctl]
  | .affinityOfferExpiry .. => [.front]
  | .itemPost .. => [.mail, .front, .dma, .topo, .fns]
  | .scriptLoad .. | .scriptUnload .. => [.out, .mail, .eng, .fns]
  | .scriptBind .. | .scriptUnbind .. => [.out, .mail, .eng, .topo, .fns]
  | .dmaRequest .. => [.out, .eic, .mail, .eng, .sch, .front, .dma, .tb, .topo, .fns, .pwr]
  | .drainComplete .. => [.eng, .dma]
  | .bufCarve .. => [.out, .free, .mail, .dma, .topo, .fns]
  | .bufRelease .. | .bufReleaseComplete .. => [.out, .mail, .front, .dma, .topo, .fns]
  | .pageScrubDone .. => [.dma]
  | .busMasterEnableChange .. => [.out, .mail, .sch, .front, .fns]
  | .vfCreate .. => [.out, .mail, .dma, .fns]
  | .funcModify .. => [.out, .eic, .mail, .dma, .fns]
  | .dirtyMapWrite .. | .msixIntervalExpiry .. | .msixUnmask .. | .intVecModWrite .. => [.out, .fns]
  | .removal .. | .debounceEnd .. | .oringReverse .. | .rampEnd .. | .powerGood .. | .rampTimeout .. | .fetGate ..
  | .faultTimerExpiry .. | .severeOc .. | .soaLimit .. | .outputPresentCheck .. | .pfwAssert ..
    => [.out, .eic, .fns, .slots, .pwr]
  | .pgLost .. | .powerGoodReturn .. => [.topo, .slots]
  | .pfwClear .. => [.out, .eic, .topo, .fns, .slots, .pwr]
  | .telemetryConversion .. => [.free, .slots]
  | .errorWindowStart .. | .errCfgWrite .. | .errPortFailedClear .. => [.err]
  | .configRestored .. => [.out, .eic, .fns, .err]
  | .coreWatchdogExpiry .. => [.out, .mail, .sch, .front, .dma, .tb, .topo, .err, .pair]
  | .xebirokLinkUp .. | .handover .. | .ackOnly .. | .ackOnlyTimer => [.out, .pair]
  | .laneDown .. | .xbkClaim .. | .claimAnswer .. | .heartbeat .. | .fatal .. | .yield .. | .ganderWindowEnd ..
  | .discoverTimeout => [.out, .eic, .fns, .pair]
  | .time .. => [.out, .tb, .pair]
  | .shadow .. | .takeover => [.out, .free, .eic, .mail, .eng, .sch, .front, .dma, .tb, .topo, .fns, .pair, .ctl]
  | .syncDone => [.out, .eic, .fns, .slots, .pair]
  | .staleResyncTimer => [.pair]
  | .pairActConflict => [.out, .mail, .sch, .front, .dma, .tb, .topo, .slots, .pair]
  | .yieldResetDone | .coreReset | .hotReset
    => [.out, .eic, .mail, .eng, .sch, .front, .dma, .tb, .topo, .fns, .slots, .err, .pair, .ctl, .pwr]
  | .pctlbKeepaliveTick .. => [.out, .ctl]
  | .pctlbResendTimeout .. => [.out, .slots, .ctl]
  | .keepaliveAck .. | .claimAck .. | .writeAck .. | .readData .. => [.ctl]
  | .pctlbEvent .. => [.out, .eic, .mail, .eng, .sch, .front, .dma, .tb, .topo, .fns, .ctl]
  | .pairSwitch .. => [.out, .mail, .fns, .pair]
  | .eicClaim .. => [.out, .eic]
  | .eicComplete .. | .enSet .. | .enClr .. | .pendClr .. => [.eic]
  | .pendSet .. => [.out, .eic, .fns]
  | .mbxInCommit .. | .i3cPrivateWrite .. => [.out, .eic, .mail, .eng, .fns, .pwr]
  | .mbxOutDone .. | .entdaa .. => [.mail]
  | .mbxNoticeTake .. => [.out, .eic, .mail, .fns, .pwr]
  | .mbxCommandRead ..
    => [.out, .free, .eic, .mail, .eng, .sch, .front, .dma, .tb, .topo, .fns, .slots, .err, .pair, .pwr, .flash]
  | .i3cBusReset => [.out, .eic, .mail, .fns]
  | .fwWrite .. | .fwErase .. | .fwVerify .. | .fwActivate .. => [.out, .free, .mail, .fns, .flash]
  | .pwrTargetWrite .. => [.ctl, .pwr]
  | .pf0D3hotEntry | .pmeTurnOff
    => [.out, .eic, .mail, .eng, .sch, .front, .dma, .tb, .topo, .fns, .slots, .err, .pair, .pwr]
  | .lowPowerEnter => [.front, .topo, .slots, .pwr]
  | .watchSample .. | .pf0D0Entry | .wakeRegulatorReady | .wakeClockReady => [.pwr]
  | .wakeInAssert => [.out, .pwr]
  | .powerOnReset | .coreRailLoss
    => [.eic, .mail, .eng, .sch, .front, .dma, .tb, .topo, .fns, .err, .pair, .ctl, .pwr]
  | .powerOnResetEnd .. => [.slots, .pair, .straps, .pwr]
  | .perstAssert => [.out, .eic, .mail, .eng, .sch, .front, .dma, .tb, .topo, .fns, .err, .pair, .ctl, .pwr]
  | .perstDeassert => [.out, .slots, .pwr]
  | .bootDone => [.eic, .eng, .pwr]
  | .vmuleRise .. => [.eic, .slots]
  | .registerWrite ..
    => [.out, .free, .eic, .mail, .eng, .sch, .front, .dma, .tb, .topo, .fns, .slots, .err, .pair, .ctl, .pwr]

end Machine

end Sys2Proof
end

