-- ==== Sys2Proof/Certificates/Slice0/Obligations.lean ====
section
/-! DEFINITION. The statements for the provers, family by family. -/

open Sys2Proof Sys2Proof.Machine

/-- The command at the front of the queue runs with the queue's rest. With none waiting the block idles: one timebase cycle passes
where the timebase runs, which is the model's choice (log 1). -/
def Obligations.StepRunsFront : Prop :=
  ∀ s : State, (∀ c rest, s.pending = c :: rest → step s = exec c { s with pending := rest })
    ∧ (s.pending = [] → step s = .next (if timebaseRuns s then { s with tb := { s.tb with tick := s.tb.tick + 1 } } else s))

/-- A part that is out of power-on reset is a single part where, and only where, its strap PAIR_EN is low: whatever a step does, it does
not lead a part of a pair out of the pair's states, nor a single part into them. -/
def Obligations.PairAgrees : Prop :=
  ∀ s t : State, (s.pwr.por = false → (s.pair.st = .single ↔ s.straps.pairEn = false)) → step s = .next t →
    (t.pwr.por = false → (t.pair.st = .single ↔ t.straps.pairEn = false))

/-- Every command answers a next state: it changes only the blocks that `touches` lists for it, and never the queue. A command that
the state gives no effect leaves all as it is. -/
def Obligations.WhatCommandsChange : Prop :=
  ∀ (c : Instr) (s : State), ∃ t, exec c s = .next t ∧ Frame (touches c) s t ∧ t.pending = s.pending

/-- After reset nothing waits and nothing has been sent; the pair's role agrees with the strap; every port, event, engine and slot is
off, with the reset values of the slot's configuration registers; only PF0 exists, and no mailbox holds a notice. Values the spec
gives no reset value for are not claimed. -/
def Obligations.ResetState : Prop :=
  let s := State.reset
  s.pending = [] ∧ s.out = [] ∧ (s.pwr.por = false → (s.pair.st = .single ↔ s.straps.pairEn = false)) ∧ s.pwr.st = .run
    ∧ (∀ k, evtWord s k = 0) ∧ (∀ n, slotEn s n = 0x1FFF)
    ∧ (∀ x, (source s x).en = false ∧ (source s x).prio = 0 ∧ (source s x).tmask = 0 ∧ (source s x).hosten = false)
    ∧ (∀ p, (port s p).enabled = false ∧ (port s p).link = .disabled ∧ (port s p).txn = none)
    ∧ (∀ e, (eng s e).retired = false ∧ (eng s e).run = none)
    ∧ (∀ n, (slot s n).en = false ∧ (slot s n).gate = false ∧ (slot s n).cfg = 0x19050130 ∧ (slot s n).ith = 0x00C80000
      ∧ (slot s n).tmr = 0x00320014 ∧ (slot s n).soa = 0x001401F4 ∧ (slot s n).vth = 0x0000008C008C0096)
    ∧ (fn s 0).created = true ∧ (∀ f, f ≠ 0 → (fn s f).created = false ∧ (fn s f).enabled = false)
    ∧ (∀ k, (box s k).inFull = false ∧ (box s k).outFull = false)
    ∧ s.tb.flen = 400000 ∧ s.tb.freeLen = 400000 ∧ s.tb.uframe = 0

/-- A trip turns the gate off if it is on, latches the slot in TRIPPED with the code, its cause and the record of VOUT, VBUS
and EPOCH, and reports TRIP and POWER_OFF; no other slot changes. Each cause has its code. A severe overcurrent is latched after
a removal of the same cycle too. A power-good loss of 1 ms with no
valid feed, and an output-present check that finds the output low, trip nothing. -/
def Obligations.SlotTrips : Prop :=
  ∀ (s : State) (n : SlotId) (vout vbus : BitVec 12), slotPowered s n.val = true →
    let x := slot s n.val
    let e := epoch32 s 0
    let ramp : BitVec 4 := if vout.toNat * 10 < vbus.toNat then 4 else 5
    (x.st = .ramp → ∃ t, exec (.rampTimeout n vout vbus) s = .next t
      ∧ SlotMoves n.val (tripSlot ramp false vout vbus (now s) e x) 0x18 s t)
    ∧ (x.st = .ramp → x.gateRise = true → ∃ t, exec (.fetGate n vout vbus) s = .next t
      ∧ SlotMoves n.val (tripSlot 6 false vout vbus (now s) e x) 0x18 s t)
    ∧ (x.st = .on → ∃ t, exec (.faultTimerExpiry n vout vbus) s = .next t
      ∧ SlotMoves n.val (tripSlot 1 false vout vbus (now s) e { x with faultTimer := faultT x }) 0x18 s t)
    ∧ (x.gate = true ∨ (x.st = .empty ∧ ∃ c, x.cut = some c ∧ c.at_ = now s) → ∃ t, exec (.severeOc n vout vbus) s = .next t
      ∧ SlotMoves n.val (tripSlot 2 false vout vbus (now s) e x) 0x18 s t)
    ∧ (x.gate = true → ∃ t, exec (.soaLimit n vout vbus) s = .next t
      ∧ SlotMoves n.val (tripSlot (if x.st = .ramp then ramp else 3) true vout vbus (now s) e x) 0x18 s t)
    ∧ (x.pgLoss = true → anyFeed x = true → ∃ t, exec (.pgLostTimeout n vout vbus) s = .next t
      ∧ SlotMoves n.val (tripSlot 8 false vout vbus (now s) e x) 0x18 s t)
    ∧ (x.pgLoss = true → anyFeed x = false → ∃ u, SlotMoves n.val (offSlot (now s) .noFeed x) 8 s u
      ∧ exec (.pgLostTimeout n vout vbus) s = .next (coreGateOff n.val u))
    ∧ (2 ≤ cfgFetchk x → x.gate = false → 250 < vout.toNat → ¬(x.st = .tripped ∧ x.tripCode = 7) →
        ∃ t, exec (.outputPresentCheck n vout vbus) s = .next t ∧ SlotMoves n.val
          (let y := tripSlot 7 false vout vbus (now s) e { x with discharge := false }
           if cfgOringOpen x then { y with disconnected := true, orA := false, orB := false } else y) 0x18 s t)
    ∧ (2 ≤ cfgFetchk x → x.gate = false → vout.toNat ≤ 250 → ∃ t, exec (.outputPresentCheck n vout vbus) s = .next t
      ∧ SlotMoves n.val { x with discharge := false } 0 s t)

/-- Presence and the debounce: an edge of PRSNT_n, a removal in each state, the end of the debounce and of the minimum off
time with their power-up check, and the removal that clears a latched trip. -/
def Obligations.SlotPresence : Prop :=
  ∀ (s : State) (n : SlotId), slotPowered s n.val = true →
    let x := slot s n.val
    let free := !rampBlocked s n.val
    (∀ high, ∃ t, exec (.prsntNEdge n high) s = .next t ∧ SlotMoves n.val
      { x with
        present := !high, st := if high = false ∧ x.st = .empty then .debounce else x.st } 0 s t)
    ∧ (x.present = false → ∃ t, exec (.removal n) s = .next t
        ∧ (x.st = .empty → t = s)
        ∧ (x.st = .debounce → SlotMoves n.val { x with st := .empty } 0 s t)
        ∧ (x.st = .tripped → SlotMoves n.val x 2 s t)
        ∧ (x.st = .ramp ∨ x.st = .on → SlotMoves n.val (offSlot (now s) .empty x) 0xA s t)
        ∧ (x.st = .off ∨ x.st = .cooldown ∨ x.st = .noFeed → SlotMoves n.val { x with st := .empty } 2 s t)
        ∧ (x.st ≠ .empty → x.st ≠ .debounce → hears s (dieOf n.val) = true → .muleEvent n.val 1 ∈ t.out))
    ∧ (x.st = .debounce → x.present = true → ∃ t, exec (.debounceEnd n) s = .next t
        ∧ SlotMoves n.val (if x.en then checkedSlot free x else { x with st := .off }) 1 s t)
    ∧ (x.minOff = true → ∃ t, exec (.minOffExpiry n) s = .next t ∧ SlotMoves n.val
        (if x.st = .cooldown then checkedSlot free { x with minOff := false } else { x with minOff := false }) 0 s t)
    ∧ (x.st = .tripped → cfgPrsntClears x = true → x.present = false → ∃ t, exec (.removalLatchClear n) s = .next t
        ∧ SlotMoves n.val { x with disconnected := false, st := .empty } 0 s t)

/-- EN, CYCLE and the register commands. EN written from 0 to 1 clears a latched trip and leads OFF and TRIPPED to the
power-up check; clearing it in RAMP or ON turns the gate off; CYCLE in RAMP or ON enters COOLDOWN and is ignored elsewhere. A
command from a source without authority is only counted; with authority it sets the register, reserved bits staying 0. -/
def Obligations.SlotCommands : Prop :=
  ∀ (s : State) (n : SlotId), slotPowered s n.val = true →
    let x := slot s n.val
    let free := !rampBlocked s n.val
    (∃ t, exec (.slotEnSet n) s = .next t
        ∧ (x.en = true → t = s)
        ∧ (x.en = false → x.st = .tripped →
            SlotMoves n.val (checkedSlot free { x with en := true, disconnected := false }) 0 s t)
        ∧ (x.en = false → x.st = .off → SlotMoves n.val (checkedSlot free { x with en := true }) 0 s t)
        ∧ (x.en = false → x.st ≠ .tripped → x.st ≠ .off → SlotMoves n.val { x with en := true } 0 s t))
    ∧ (∃ u, SlotMoves n.val
          (if x.st = .ramp ∨ x.st = .on then offSlot (now s) .off { x with en := false }
           else if x.st = .cooldown ∨ x.st = .noFeed then { x with en := false, st := .off } else { x with en := false })
          (if x.st = .ramp ∨ x.st = .on then 8 else 0) s u
        ∧ exec (.slotEnClear n) s = .next (if x.st = .ramp ∨ x.st = .on then coreGateOff n.val u else u))
    ∧ (x.st = .ramp ∨ x.st = .on → ∃ u, SlotMoves n.val (offSlot (now s) .cooldown x) 8 s u
        ∧ exec (.cycle n) s = .next (coreGateOff n.val u))
    ∧ (x.st ≠ .ramp → x.st ≠ .on → exec (.cycle n) s = .next s)
    ∧ (∀ g j src off v, n.val = 16 * g.val + j.val → ∃ t, exec (.mulePowerCommand g src j off v) s = .next t
        ∧ (hasAuthority s g.val src = false →
            SlotMoves n.val { x with ignored := if x.ignored = 255 then 255 else x.ignored + 1 } 0 s t)
        ∧ (hasAuthority s g.val src = true →
            let w : U32 := v.setWidth 32
            (off = 0x04 → SlotMoves n.val { x with cfg := w &&& 0xFF3F03FF } 0 s t)
            ∧ (off = 0x08 → SlotMoves n.val { x with ith := w &&& 0xFFFF007F } 0 s t)
            ∧ (off = 0x0C → SlotMoves n.val { x with tmr := w &&& 0x00FF07FF } 0 s t)
            ∧ (off = 0x10 → SlotMoves n.val { x with soa := w &&& 0x00FFFFFF } 0 s t)
            ∧ (off = 0x18 → SlotMoves n.val { x with vth := v &&& 0x000003FF03FF03FF } 0 s t)))

/-- The feeds of a slot and its ORing FETs. A feed that becomes invalid turns its FET off, moves its load to the other feed if
that is valid, and reports FEED_x_LOST; with none left a ramp ends in NO_FEED. A feed that becomes valid reports FEED_x_BACK,
conducts where nothing else does, and leads NO_FEED to the power-up check. A reverse turn-off is reported.
Power-good: it is declared at the end of the ramp, or at the gate rise where that check is enabled; its loss for less
than 1 ms clears PG and its return sets it again without an event. A power-fail cause asserts PFW_n in ON and reports PFW;
its end releases PFW_n and reports PFW_CLEAR. -/
def Obligations.SlotFeedsAndPower : Prop :=
  (
    ∀ (s : State) (n : SlotId), slotPowered s n.val = true →
      let x := slot s n.val
      let free := !rampBlocked s n.val
      (∃ u, SlotMoves n.val
          (let y := if feedAOk x then { x with feedA := false, orA := false, orB := x.orB || (x.orA && feedBOk x) }
                    else { x with feedA := false }
           if feedAOk x = true ∧ x.st = .ramp ∧ feedBOk x = false then offSlot (now s) .noFeed y else y)
          (if feedAOk x then (if x.st = .ramp ∧ feedBOk x = false then 0x88 else 0x80) else 0) s u
        ∧ exec (.feedInvalid n .a) s
          = .next (if feedAOk x = true ∧ x.st = .ramp ∧ feedBOk x = false then coreGateOff n.val u else u))
      ∧ (∃ u, SlotMoves n.val
          (let y := if feedBOk x then { x with feedB := false, orB := false, orA := x.orA || (x.orB && feedAOk x) }
                    else { x with feedB := false }
           if feedBOk x = true ∧ x.st = .ramp ∧ feedAOk x = false then offSlot (now s) .noFeed y else y)
          (if feedBOk x then (if x.st = .ramp ∧ feedAOk x = false then 0x108 else 0x100) else 0) s u
        ∧ exec (.feedInvalid n .b) s
          = .next (if feedBOk x = true ∧ x.st = .ramp ∧ feedAOk x = false then coreGateOff n.val u else u))
      ∧ (∃ t, exec (.feedValid n .a) s = .next t ∧ SlotMoves n.val
          (let y := { x with feedA := true }
           if feedAOk x = false ∧ feedAOk y = true then
             let z := { y with orA := if x.disconnected then x.orA else x.orA || !x.orB }
             if x.st = .noFeed then checkedSlot free z else z
           else y) (if x.feedA = false ∧ x.feedAOff = false then 0x200 else 0) s t)
      ∧ (∃ t, exec (.feedValid n .b) s = .next t ∧ SlotMoves n.val
          (let y := { x with feedB := true }
           if feedBOk x = false ∧ feedBOk y = true then
             let z := { y with orB := if x.disconnected then x.orB else x.orB || !x.orA }
             if x.st = .noFeed then checkedSlot free z else z
           else y) (if x.feedB = false ∧ x.feedBOff = false then 0x400 else 0) s t)
      ∧ (∃ t, exec (.oringReverse n .a) s = .next t
          ∧ SlotMoves n.val { x with orA := false } (if x.orA then 0x800 else 0) s t)
      ∧ (∃ t, exec (.oringReverse n .b) s = .next t
          ∧ SlotMoves n.val { x with orB := false } (if x.orB then 0x1000 else 0) s t)
      ∧ (x.disconnected = false →
          (∃ t, exec (.oringForward n .a) s = .next t ∧ SlotMoves n.val { x with orA := x.orA || feedAOk x } 0 s t)
          ∧ (∃ t, exec (.oringForward n .b) s = .next t ∧ SlotMoves n.val { x with orB := x.orB || feedBOk x } 0 s t)))
  ∧ (
    ∀ (s : State) (n : SlotId), slotPowered s n.val = true →
      let x := slot s n.val
      let good := { x with st := .on, pg := true, gateRise := false, faultTimer := 0, pfw := x.cause || !anyFeed x }
      (x.st = .ramp → cfgFetchk x % 2 = 0 → ∃ t, exec (.rampEnd n) s = .next t ∧ SlotMoves n.val good 4 s t
          ∧ (hears s (dieOf n.val) = true → .muleEvent n.val 2 ∈ t.out))
      ∧ (x.st = .ramp → cfgFetchk x % 2 = 1 → ∃ t, exec (.rampEnd n) s = .next t
          ∧ SlotMoves n.val { x with gateRise := true } 0 s t)
      ∧ (x.st = .ramp → x.gateRise = true → ∃ t, exec (.powerGood n) s = .next t ∧ SlotMoves n.val good 4 s t
          ∧ (hears s (dieOf n.val) = true → .muleEvent n.val 2 ∈ t.out))
      ∧ (x.st = .on → x.pg = true → ∃ t, exec (.pgLost n) s = .next t
          ∧ SlotMoves n.val { x with pg := false, pgLoss := true } 0 s t
          ∧ (port t n.val).enabled = (port s n.val).enabled
          ∧ (hears s (dieOf n.val) = true → (port t n.val).pg = false ∧ (port t n.val).lastGasp = false ∧ (port t n.val).attach ≠ .debounce)
          ∧ OtherPorts n.val s t)
      ∧ (x.pgLoss = true → ∃ t, exec (.powerGoodReturn n) s = .next t
          ∧ SlotMoves n.val { x with pg := true, pgLoss := false } 0 s t
          ∧ (hears s (dieOf n.val) = true → (port t n.val).pg = true) ∧ OtherPorts n.val s t)
      ∧ (∀ c, ∃ t, exec (.pfwAssert n c) s = .next t
          ∧ (x.st = .on → x.pfw = false → SlotMoves n.val { x with cause := true, pfw := true } 0x20 s t
              ∧ (hears s (dieOf n.val) = true → .muleEvent n.val 5 ∈ t.out))
          ∧ (¬(x.st = .on ∧ x.pfw = false) → SlotMoves n.val { x with cause := true } 0 s t))
      ∧ (∃ t, exec (.pfwClear n) s = .next t
          ∧ (x.st = .on → x.pfw = true → SlotMoves n.val { x with cause := false, pfw := false } 0x40 s t
              ∧ (hears s (dieOf n.val) = true → (port t n.val).lastGasp = false))
          ∧ (¬(x.st = .on ∧ x.pfw = true) → SlotMoves n.val { x with cause := false } 0 s t)
          ∧ OtherPorts n.val s t))

/-- Telemetry: a conversion fills TEL_V, TEL_I, ENERGY and TEL_PEAK, where IOUT fits its 16 bits; RESTART returns the peaks to
their reset values; a report carries the results to the core die. An IOUT that does not fit is the model's free value (log
26), and nothing is said of it. -/
def Obligations.SlotTelemetry : Prop :=
  ∀ (s : State) (n : SlotId),
    let x := slot s n.val
    (slotPowered s n.val = true → ∀ va vb vbus vout isense : BitVec 12,
      ∃ t, exec (.telemetryConversion n va vb vbus vout isense) s = .next t ∧ OtherSlots n.val s t ∧
        (isense.toNat * 250 / rsense x < 65536 →
          let iout := isense.toNat * 250 / rsense x
          let on := decide (x.st = .on)
          slot t n.val = { x with
            tel := {
              v := BitVec.ofNat 64 (vout.toNat + vbus.toNat * 2 ^ 16 + va.toNat * 2 ^ 32 + vb.toNat * 2 ^ 48)
              i := BitVec.ofNat 64 (isense.toNat + iout * 2 ^ 16 + epoch32 s 0 * 2 ^ 32)
              energy := x.tel.energy + BitVec.ofNat 64 (if on then vout.toNat * iout * s.tb.flen / 10000000 else 0)
              peak := BitVec.ofNat 64 (max iout (field x.tel.peak 0 16)
                + (if on then min vbus.toNat (field x.tel.peak 16 12) else field x.tel.peak 16 12) * 2 ^ 16) } }))
    ∧ (slotPowered s n.val = true → ∃ t, exec (.telPeakRestart n) s = .next t ∧ OtherSlots n.val s t
        ∧ slot t n.val = { x with tel := { x.tel with peak := 0x0FFF0000 } })
    ∧ (hears s (dieOf n.val) = true → ∃ t, exec (.telemetryReport n) s = .next t ∧ (∀ k, slot t k = slot s k)
        ∧ tget {} t.slots.tel n.val = x.tel ∧ ∀ k, k ≠ n.val → tget ({} : Telemetry) t.slots.tel k = tget {} s.slots.tel k)

/-- The mule dies: keep-alives, a core die declared lost, the hand-over of authority, and the loss and return of VMULE. -/
def Obligations.MuleDies : Prop :=
  ∀ (s : State) (g : DieId),
    (live s = true → s.pwr.st ≠ .watch → bit s.err.muleFailed g.val = false → (die s g.val).parked = false →
      exec (.muleKeepalive g) s = .next { s with out := s.out ++ [.keepalive g.val] })
    ∧ (live s = true → s.pwr.st ≠ .watch → bit s.err.muleFailed g.val = false → (die s g.val).parked = true →
      ∃ t, exec (.muleKeepalive g) s = .next t ∧ (die t g.val).parked = false)
    ∧ ((die s g.val).powered = true → (die s g.val).parked = false → ∃ t, exec (.coreLostDeclare g) s = .next t
        ∧ die t g.val = { die s g.val with coreLost := true } ∧ (∀ k, k ≠ g.val → die t k = die s k)
        ∧ ∀ k, slot t k = slot s k)
    ∧ (hears s g.val = true → (die s g.val).authPctl = false → ∃ t, exec (.handOverCommand g) s = .next t
        ∧ die t g.val = { die s g.val with authPctl := true } ∧ (∀ k, k ≠ g.val → die t k = die s k)
        ∧ (∀ k, slot t k = slot s k) ∧ t.out = s.out ++ [.handOver g.val])
    ∧ (∃ t, exec (.vmuleLoss g) s = .next t ∧ die t g.val = { die s g.val with powered := false }
        ∧ ∀ k, slot t k = if k / 16 = g.val then
            { slot s k with gate := false, pg := false, orA := false, orB := false, pfw := false } else slot s k)
    ∧ (∃ t, exec (.vmuleRise g) s = .next t ∧ die t g.val = {}
        ∧ (∀ k, slot t k = if k / 16 = g.val then
            { present := (slot s k).present, st := if (slot s k).present then .debounce else .empty, minOff := true
              discharge := true } else slot s k)
        ∧ ∀ k, k / 16 = g.val → evtWord t (64 + k) = 0 ∧ slotEn t k = 0x1FFF)

/-- Power states. PF0's entry to D3hot starts the entry to the target state, unless a check refuses it: a pair, a VF that is created, a
reservation of a driver, a port being enumerated or reset, in this order. PME_Turn_Off is answered, and with the target Off the
part is Off and its lanes have stopped. Once the status-change reservations are gone and the frames have slewed, the ports suspend and the
part is in the state; in Watch the mule dies are parked. A wake cause brings it back step by step, each only after the step before
it, and the cause and epoch are recorded in Run. In Off, WAKE_IN drives WAKE_OUT. That a created VF counts as in D0 is
the model's reading (log 82). -/
def Obligations.PowerStates : Prop :=
  ∀ (s : State),
    let refusal := if s.pair.st ≠ .single then 1 else if ∃ e ∈ s.fns.fn, e.1 ≠ 0 ∧ e.2.created = true then 2
      else if driverReserves s = true then 3 else if portsBusy s = true then 4 else 0
    let lower := s.pwr.st = .sleep ∨ s.pwr.st = .deepSleep ∨ s.pwr.st = .watch
    let deep := live s = true ∧ (s.pwr.st = .deepSleep ∨ s.pwr.st = .watch) ∧ s.pwr.waking ≠ none
    (∀ v, hostReaches s 0 = true →
      exec (.pwrTargetWrite v) s = .next { s with pwr := { s.pwr with ctl := v &&& 0x03FF0007, refuse := 0 } })
    ∧ (live s = true → s.pwr.d3hot = false → s.pwr.st = .run → ∃ t, exec .pf0D3hotEntry s = .next t ∧ t.pwr.d3hot = true
      ∧ Frame [.sch, .pwr] s t
      ∧ (targetState s = none ∨ targetState s = some .off → t.sch = s.sch ∧ t.pwr = { s.pwr with d3hot := true })
      ∧ ∀ st, targetState s = some st → st ≠ .off →
        (refusal ≠ 0 → t.sch = s.sch ∧ t.pwr = { s.pwr with d3hot := true, refuse := BitVec.ofNat 3 refusal })
        ∧ (refusal = 0 → t.pwr = { s.pwr with d3hot := true, entering := some st } ∧ ∀ e ∈ t.sch.shadow, hubRung s e.2 = false))
    ∧ (live s = true → s.pwr.st = .run → ∃ t, exec .pmeTurnOff s = .next t ∧ .pmeAck ∈ t.out
      ∧ (targetState s ≠ some .off → t = emit .pmeAck s)
      ∧ (targetState s = some .off → refusal ≠ 0 → t.pwr = { s.pwr with refuse := BitVec.ofNat 3 refusal } ∧ Frame [.out, .pwr] s t)
      ∧ (targetState s = some .off → refusal = 0 → t.pwr.st = .off ∧ t.pwr.ready = false ∧ ∀ p, (port t p).txn = none))
    ∧ (∀ st, live s = true → s.pwr.st = .run → s.pwr.entering = some st → (∀ e ∈ s.sch.live, hubRung s e.2 = false) → slewed s st = true →
      ∃ t, exec .lowPowerEnter s = .next t ∧ t.pwr.st = st ∧ t.pwr.entering = none ∧ t.pwr.slept = awakePorts s
        ∧ (∀ p ∈ awakePorts s, p < 64 → (port t p).suspended = true) ∧ (∀ p, p ∉ awakePorts s → port t p = port s p)
        ∧ (st = .watch → (∀ g, g < 4 → (die t g).parked = true) ∧ t.pwr.snapshot.length = 64) ∧ Frame [.out, .topo, .slots, .pwr] s t)
    ∧ (∀ w k c, live s = true → s.pwr.st = .watch → s.pwr.waking = none → s.pwr.entering = none →
      sampleCause w (changedSlots s) (wokenPorts s k) = c → ∃ t, exec (.watchSample w k) s = .next t ∧ t.pwr.waking = c ∧ Frame [.pwr] s t)
    ∧ (live s = true → s.pwr.d3hot = true → ∃ t, exec .pf0D0Entry s = .next t ∧ t.pwr.d3hot = false ∧ Frame [.pwr] s t
      ∧ (lower → s.pwr.entering ≠ some .off → t.pwr.waking = (if s.pwr.waking = none then some (1, 0) else s.pwr.waking)))
    ∧ (s.pwr.st = .off → s.pwr.wakeOut = false → exec .wakeInAssert s
      = .next (emit (.wakeOut true) { s with pwr := { s.pwr with wakeOut := true } }))
    ∧ (live s = true → s.pwr.st = .sleep ∨ s.pwr.st = .deepSleep → s.pwr.entering ≠ some .off → s.pwr.waking = none →
      exec .wakeInAssert s = .next { s with pwr := { s.pwr with waking := some (2, 0) } })
    ∧ (deep → (s.pwr.wake = .none_ → exec .wakeRegulatorReady s = .next { s with pwr := { s.pwr with wake := .regulator } })
      ∧ (s.pwr.wake = .regulator → exec .wakeClockReady s = .next { s with pwr := { s.pwr with wake := .clock } })
      ∧ (s.pwr.wake ≠ .none_ → exec .wakeRegulatorReady s = .next s) ∧ (s.pwr.wake ≠ .regulator → exec .wakeClockReady s = .next s)
      ∧ (s.pwr.wake = .clock → exec .wakeMemoryReady s = .next (each [0, 1, 2, 3] keepAlive { s with pwr := { s.pwr with wake := .memory } })))
    ∧ (∀ c, live s = true → s.pwr.waking = some c → s.pwr.st = .sleep ∨ ((s.pwr.st = .deepSleep ∨ s.pwr.st = .watch) ∧ s.pwr.wake = .memory) →
      ∃ t, exec .wakeLogicReady s = .next t ∧ t.pwr.st = .run ∧ t.pwr.waking = none
        ∧ t.pwr.wakeCause = BitVec.ofNat 64 (c.1 + c.2 * 256 + epoch32 s 0 * 2 ^ 32) ∧ (s.pwr.d3hot = true → .pme ∈ t.out)
        ∧ Frame [.out, .topo, .pwr] s t)

/-- Resets. Every reset of the core die ends its work without completing it and keeps what counts time, the straps, the flash and PAIR.CFG
and PAIR.WIRE; the mule dies that have power return to its authority. A plain one, PERST# and a hot reset keep the page map, the retired
engines and the error totals, a clean one does not; PERST# and a hot reset of the active part of a pair are clean and send HANDOVER
first, and PERST# of the standby is clean. A part that has yielded rejoins as PAIR.CFG says. A power-on reset clears the core die until it ends with the
straps sampled. The boot takes the valid image with the highest VERSION, ties to slot A, or the one activated; with none there is an
error and the part is not ready. What the settings of the sources are after a boot is free (log 25). -/
def Obligations.Resets : Prop :=
  ∀ (s : State),
    let up := s.pwr.por = false ∧ s.pwr.st ≠ .off
    let serving := s.pair.st = .active ∨ s.pair.st = .activeAlone
    let waits := s.pair.st = .sync ∨ s.pair.st = .standby ∨ s.pair.st = .stale
    let dies := fun (t : State) => ∀ g, g < 4 → (die s g).powered = true → (die t g).authPctl = false ∧ (die t g).coreLost = false
    let reset := fun (kind : Nat) (clean : Bool) (t : State) => t.pwr.kind = BitVec.ofNat 8 kind ∧ t.pwr.ready = false ∧ t.pwr.st = .run
      ∧ t.err.held = false ∧ t.tb.tick = s.tb.tick ∧ t.tb.epoch = s.tb.epoch ∧ t.pair.cfg = s.pair.cfg ∧ t.pair.wire = s.pair.wire
      ∧ t.straps = s.straps ∧ t.flash = s.flash ∧ t.front = {} ∧ t.topo.dev = [] ∧ t.topo.ctx = [] ∧ t.pending = s.pending
      ∧ (∀ f, (fn t f).sq = [] ∧ (fn t f).cr = [])
      ∧ (clean = true → t.eng = {} ∧ t.sch = {} ∧ t.err = {} ∧ t.dma.remap = [] ∧ t.dma.sparesUsed = 0)
      ∧ (clean = false → (∀ e, (eng s e).retired = true → (eng t e).retired = true) ∧ t.sch.nm1Ok = s.sch.nm1Ok ∧ t.dma.remap = s.dma.remap
        ∧ t.dma.sparesUsed = s.dma.sparesUsed ∧ t.err.fatal = s.err.fatal ∧ ∀ c, (errClass t c).total = (errClass s c).total)
    let cleared := fun (t : State) => t.pwr.por = true ∧ t.pwr.ready = false
      ∧ t.slots = s.slots ∧ t.flash = s.flash ∧ t.pending = s.pending ∧ t.tb = {} ∧ t.fns = {} ∧ t.front = {} ∧ t.err = {} ∧ t.mail = {}
    (up → ∃ t, exec .coreReset s = .next t ∧ reset 4 false t ∧ dies t ∧ (∀ f, (fn t f).bme = (fn s f).bme)
        ∧ t.fns.vfEnable = s.fns.vfEnable)
    ∧ (up → s.pwr.perst = false → ∃ t, exec .hotReset s = .next t ∧ reset 3 (decide serving) t ∧ dies t ∧ t.fns.vfEnable = false
      ∧ (∀ f, (fn t f).bme = false) ∧ (serving → s.pair.linkUp = true → ∃ b, .xbk 7 b ∈ t.out))
    ∧ (up → s.pwr.perst = false → ∃ t, exec .perstAssert s = .next t ∧ reset 2 (decide (serving ∨ waits)) t ∧ t.pwr.perst = true ∧ t.fns.vfEnable = false
      ∧ (serving → s.pair.linkUp = true → ∃ b, .xbk 7 b ∈ t.out))
    ∧ (s.pwr.perst = true → ∃ t, exec .perstDeassert s = .next t ∧ t.pwr = { s.pwr with perst := false, wakeOut := false } ∧ (up → dies t)
      ∧ (s.pwr.wakeOut = true → .wakeOut false ∈ t.out) ∧ Frame [.out, .slots, .pwr] s t)
    ∧ (live s = true → s.pair.st = .yielded → ∃ t, exec .yieldResetDone s = .next t ∧ reset 5 true t ∧ dies t
      ∧ t.pair.st = if bit s.pair.cfg 4 then .discover else .failed)
    ∧ (∃ t, exec .powerOnReset s = .next t ∧ cleared t)
    ∧ (s.pwr.st ≠ .off → ∃ t, exec .coreRailLoss s = .next t ∧ cleared t)
    ∧ (∀ e i h, s.pwr.por = true → ∃ t, exec (.powerOnResetEnd e i h) s = .next t ∧ t.straps = { pairEn := e, pairId := i, secHost := h }
      ∧ t.pwr = { s.pwr with por := false } ∧ t.pair.st = (if e then .discover else .single) ∧ dies t ∧ Frame [.slots, .pair, .straps, .pwr] s t)
    ∧ (live s = true → s.pwr.perst = false → s.pwr.ready = false → s.pwr.error = false → ∃ t, exec .bootDone s = .next t
      ∧ Frame [.eic, .eng, .pwr] s t ∧ t.pwr.resetKind = s.pwr.kind
      ∧ (s.flash.next = none → slotValid s false = true → slotValid s true = false ∨ (slotVersion s true).toNat ≤ (slotVersion s false).toNat →
        t.pwr.ready = true ∧ t.pwr.slotB = false ∧ t.pwr.version = slotVersion s false ∧ t.eng.scripts = [] ∧ t.eng.imem = [])
      ∧ (s.flash.next = none → slotValid s true = true → slotValid s false = false ∨ (slotVersion s false).toNat < (slotVersion s true).toNat →
        t.pwr.ready = true ∧ t.pwr.slotB = true ∧ t.pwr.version = slotVersion s true)
      ∧ (∀ b, s.flash.next = some b → slotValid s b = true → t.pwr.ready = true ∧ t.pwr.slotB = b)
      ∧ (slotValid s false = false → slotValid s true = false → t.pwr.ready = false ∧ t.pwr.error = true))

/-- PCTL_B. A powered die acts on a command frame once and answers a repeat of its last SEQ with the first answer: a KEEPALIVE tells who holds authority, a CLAIM takes
authority where the die's core die is lost or has handed it over, RELEASE gives it back, a WRITE is a power command of the partner, done
only with authority, a READ is answered whoever holds it. Authority returns to an own core die that is alive when the holder is
lost. This part keeps each command of its own until the answer with its SEQ and type comes, takes what the answer says, and sends it
again up to three times; an EVENT is acknowledged each time and acted on once, and the die drops it when it is acknowledged. That the
die remembers one SEQ, and that it checks authority before the offset, is the model's reading (log 78). -/
def Obligations.PartnerControl : Prop :=
  ∀ (s : State) (g : DieId),
    let d := die s g.val
    let x : PctlPort := tget {} s.ctl g.val
    let frame := fun (typ j : Nat) (q : U16) (b : List Byte) => Output.pctlB g.val typ (pctlFrame typ j q b)
    let answers := fun (q : U16) (j typ : Nat) (b : List Byte) (u : State) =>
      emit (frame typ j q b) (modDie g.val (fun d => { d with answered := some (q, j, typ, b) }) u)
    let fresh := fun (q : U16) => d.powered = true ∧ ∀ a, d.answered = some a → a.1 ≠ q
    let moves := fun (p : Bool) (u : State) => (die u g.val).authPctl = p ∧ (∀ k, k ≠ g.val → die u k = die s k) ∧ Frame [.slots] s u
    let own := live s = true ∧ s.straps.pairEn = true
    let taken := fun (q : U16) (l : List Nat) => own ∧ ∃ c ∈ x.cmds, c.seq = q ∧ c.typ ∈ l
    let port := fun (y : PctlPort) => { s with ctl := tput s.ctl g.val y }
    let rest := fun (q : U16) => x.cmds.filter (·.seq != q)
    (∀ q j b typ c i k o v, d.powered = true → d.answered = some (q, j, typ, b) →
      c ∈ [Instr.keepalive g q, .pctlbClaim g q i, .pctlbRelease g q, .pctlbWrite g k q o v, .pctlbRead g k q o] → exec c s = .next (emit (frame typ j q b) s))
    ∧ (∀ q, fresh q → exec (.keepalive g q) s
      = .next (answers q 0 0x81 [BitVec.ofNat 8 (ofBool d.authPctl + 2 * ofBool d.coreLost), 0] s))
    ∧ (∀ q i, fresh q → (d.coreLost = true ∨ d.authPctl = true → ∃ u, moves true u ∧ exec (.pctlbClaim g q i) s = .next (answers q 0 0x82 [0, 1] u))
      ∧ (d.coreLost = false → d.authPctl = false → exec (.pctlbClaim g q i) s = .next (answers q 0 0x82 [1, 0] s)))
    ∧ (∀ q, fresh q → ∃ u, moves false u ∧ exec (.pctlbRelease g q) s = .next (answers q 0 0x82 [2, 0] u))
    ∧ (∀ q j o v, fresh q → (d.authPctl = true → slotWritable o.toNat = false → exec (.pctlbWrite g j q o v) s = .next (answers q j.val 0x84 [2, 0] s))
      ∧ (d.authPctl = false ∨ slotWritable o.toNat = true → ∃ u, exec (.mulePowerCommand g .pctlB j o v) s = .next u
        ∧ exec (.pctlbWrite g j q o v) s = .next (answers q j.val 0x84 [if d.authPctl then 0 else 1, 0] u)))
    ∧ (∀ q j o, fresh q → exec (.pctlbRead g j q o) s
      = .next (answers q j.val 0x85 (natLE 2 o.toNat ++ natLE 8 (slotRead s (16 * g.val + j.val) o.toNat).toNat) s))
    ∧ (hears s g.val = true → d.authPctl = true → ∃ u, moves false u ∧ exec (.pctlbKeepaliveLoss g) s = .next u)
    ∧ (∀ q, d.powered = true → ∃ t, exec (.eventAck g q) s = .next t ∧ (die t g.val).events = d.events.filter (·.seq != q)
      ∧ (∀ k, k ≠ g.val → die t k = die s k) ∧ Frame [.slots] s t)
    ∧ (own → x.holder = true → exec (.pctlbKeepaliveTick g) s = .next (emit (frame 1 0 (x.seq + 1) [])
        (port { x with seq := x.seq + 1, cmds := x.cmds ++ [⟨x.seq + 1, 1, 0, [], 1⟩] })))
    ∧ (∀ q a l, taken q [1] → exec (.keepaliveAck g q a l) s = .next (port { x with cmds := rest q, holder := a, coreLost := l }))
    ∧ (∀ q r a, taken q [2, 3] → exec (.claimAck g q r a) s = .next (port { x with cmds := rest q, holder := r = 0 && bit a 0 }))
    ∧ (∀ q r, taken q [4] → exec (.writeAck g q r) s = .next (port { x with cmds := rest q, written := some r }))
    ∧ (∀ q o v, taken q [5] → exec (.readData g q o v) s = .next (port { x with cmds := rest q, readBack := some (o, v) }))
    ∧ (∀ c q a l r k o v, own → (∀ y ∈ x.cmds, y.seq ≠ q) →
      c ∈ [Instr.keepaliveAck g q a l, .claimAck g q r k, .writeAck g q r, .readData g q o v] → exec c s = .next s)
    ∧ (∀ j q b v, own → q ∈ x.seen → exec (.pctlbEvent g j q b v) s
      = .next (emit (frame 6 j.val (x.seq + 1) (natLE 2 q.toNat)) (port { x with seq := x.seq + 1 })))
    ∧ (∀ j q b v, own → q ∉ x.seen → ∃ u, exec (.pctlbEvent g j q b v) s
      = .next (each ((List.range 13).filter (bit b ·)) (partnerSlotEvent (16 * g.val + j.val)) u)
        ∧ u.out = s.out ++ [frame 6 j.val (x.seq + 1) (natLE 2 q.toNat)] ∧ Frame [.out, .ctl] s u
        ∧ tget {} u.ctl g.val = { x with seq := x.seq + 1, seen := (q :: x.seen).take 64 } ∧ ∀ k, k ≠ g.val → tget {} u.ctl k = tget {} s.ctl k)
    ∧ (∀ c l, own → x.cmds = c :: l → exec (.pctlbResendTimeout g .partner) s = .next (if c.sends < 4
      then emit (frame c.typ c.j c.seq c.payload) (port { x with cmds := { c with sends := c.sends + 1 } :: l }) else port { x with cmds := l }))
    ∧ (∀ e l, d.powered = true → d.events = e :: l → exec (.pctlbResendTimeout g .die) s = .next (if e.sends < 4
      then emit (frame 0x86 e.j e.seq e.payload) (modDie g.val (fun d => { d with events := { e with sends := e.sends + 1 } :: l }) s)
      else modDie g.val (fun d => { d with events := l }) s))

/-- Xebirok records. A link that comes up starts its sequence numbers afresh and sends IDENT; with fewer than two lanes it is down,
which leaves a standby stale and an active part alone. A record kept for resend counts only in order: another changes no role, and a
gap is answered with one NAK. An IDENT of this part's own PAIR_ID is a conflict in any state but YIELDED and FAILED; else the partner's state counts, and a part in
DISCOVER that finds no active partner claims the role. A CLAIM is answered, refused by an active part and by the claim of PAIR_ID 0. A
HEARTBEAT of the running microframe resets the misses, TIME sets the frames of a part that follows, FATAL and HANDOVER set a standby's
takeover. A NAK brings the records from the SEQ it names again, and takes the link down where that is no longer kept. That sequence
numbers start afresh at link-up is the model's reading (log 74), and that a NO_RETRY record shows a gap (log 73); a SHADOW record is
applied by a part in SYNC or STANDBY, where what its bytes say is the operand (log 75). -/
def Obligations.PairRecords : Prop :=
  ∀ (s : State),
    let heard := fun (h : XbkHdr) => hearsXbk s = true ∧ h.seq = s.pair.rxSeq + 1
    let own := ofBool s.straps.pairId
    let standsBy := fun (v bad : Bool) => if v || bad then PairSt.stale else .sync
    let partnerIs := fun (n : Nat) (t : State) => t.pair.partner = some n
      ∧ (s.pair.st = .activeAlone → n = 4 → t.pair.st = .active ∧ bit (evtWord t 149) 1 = true)
      ∧ (s.pair.st = .active → n ≠ 4 → t.pair.st = .activeAlone ∧ bit (evtWord t 149) 2 = true)
    (∀ l : Fin 5, live s = true → s.straps.pairEn = true → s.pair.st ≠ .conflict → s.pair.st ≠ .failed → 2 ≤ l.val →
      ∃ t, exec (.xebirokLinkUp l) s = .next t ∧ t.pair.linkUp = true ∧ t.pair.lanes = l.val ∧ t.pair.st = s.pair.st
        ∧ t.pair.txSeq = 1 ∧ t.pair.rxSeq = 0 ∧ (∃ b, t.pair.retry = [⟨1, 1, b⟩] ∧ b.length = 32) ∧ Frame [.out, .pair] s t)
    ∧ (∀ l : Fin 4, hearsXbk s = true → l.val ∉ s.pair.down → s.pair.lanes ≠ 0 → ∃ t, exec (.laneDown l) s = .next t
      ∧ bit (evtWord t 149) 6 = true ∧ t.pair.down = l.val :: s.pair.down
      ∧ (3 ≤ s.pair.lanes → t.pair.linkUp = true ∧ t.pair.lanes = s.pair.lanes - 1 ∧ t.pair.st = s.pair.st)
      ∧ (s.pair.lanes < 3 → t.pair.linkUp = false ∧ t.pair.retry = []
        ∧ (s.pair.st = .sync ∨ s.pair.st = .standby → t.pair.st = .stale ∧ bit (evtWord t 149) 4 = true)
        ∧ (s.pair.st = .active → t.pair.st = .activeAlone ∧ bit (evtWord t 149) 2 = true)))
    ∧ (∀ (h : XbkHdr) (i n p r c : Byte) (v e : U32) (m : Byte) (d : Instr), hearsXbk s = true → h.seq ≠ s.pair.rxSeq + 1 →
      d ∈ [.ident h i n p v m r, .xbkClaim h i r, .claimAnswer h i r, .handover h c e, .yield h i] → ∃ t, exec d s = .next t
        ∧ t.pair.st = s.pair.st ∧ t.pair.rxSeq = s.pair.rxSeq ∧ t.pair.takeover = s.pair.takeover ∧ Frame [.out, .pair] s t
        ∧ (1 < (h.seq - s.pair.rxSeq).toNat → (h.seq - s.pair.rxSeq).toNat < 2 ^ 31 → t.pair.nakSent = true))
    ∧ (∀ (h : XbkHdr) (i n p r : Byte) (v : U32) (m : Byte), heard h → ∃ t, exec (.ident h i n p v m r) s = .next t
      ∧ t.pair.rxSeq = h.seq ∧ t.pair.partnerHome = some (m.toNat % 16) ∧ t.pair.version = (v != s.pwr.version || p.toNat != Config.stepping)
      ∧ (i.toNat = own → bit (evtWord t 149) 5 = true ∧ t.pair.st = (if s.pair.st = .yielded ∨ s.pair.st = .failed then s.pair.st else .conflict)
        ∧ (s.pair.st ≠ .yielded → s.pair.st ≠ .failed → t.pair.actOut = false ∧ (s.pair.actOut = true → .act false ∈ t.out)))
      ∧ (i.toNat ≠ own → partnerIs n.toNat t
        ∧ (s.pair.st = .discover → n.toNat = 6 ∨ n.toNat = 7 →
          t.pair.st = standsBy t.pair.version (m.toNat % 16 != field s.pair.cfg 0 4))
        ∧ (s.pair.st = .discover → n.toNat ≠ 6 → n.toNat ≠ 7 → t.pair.st = .discover ∧ t.pair.claimed = true
          ∧ (s.pair.claimed = false → ∃ b, .xbk 2 b ∈ t.out))))
    ∧ (∀ (h : XbkHdr) (i : Byte), heard h → ∃ t, exec (.xbkClaim h i 1) s = .next t ∧ t.pair.rxSeq = h.seq
      ∧ (∃ b, .xbk 3 b ∈ t.out) ∧ (isActive s = true ∨ s.pair.st ≠ .discover ∨ (s.pair.claimed = true ∧ own = 0) → t.pair.st = s.pair.st)
      ∧ (s.pair.st = .discover → ¬ (s.pair.claimed = true ∧ own = 0) →
        t.pair.st = standsBy s.pair.version (!homesAgree s)))
    ∧ (∀ (h : XbkHdr) (i r : Byte), heard h → ∃ t, exec (.claimAnswer h i r) s = .next t ∧ t.pair.rxSeq = h.seq
      ∧ (s.pair.claimed = true → s.pair.st = .discover → (r = 0 → t.pair.st = .activeAlone ∧ t.pair.actOut = true ∧ .act true ∈ t.out)
        ∧ (r ≠ 0 → t.pair.st = standsBy s.pair.version (!homesAgree s)))
      ∧ (s.pair.claimed = false ∨ s.pair.st ≠ .discover → t.pair.st = s.pair.st))
    ∧ (∀ (h : XbkHdr) (n u : Byte) (e : BitVec 48) (q : U32), hearsXbk s = true → ∃ t, exec (.heartbeat h n u e q) s = .next t
      ∧ partnerIs n.toNat t ∧ (u.toNat = s.tb.uframe → t.pair.hbGot = true ∧ t.pair.misses = 0)
      ∧ (u.toNat ≠ s.tb.uframe → t.pair.hbGot = s.pair.hbGot ∧ t.pair.misses = s.pair.misses))
    ∧ (∀ (h : XbkHdr) (e : BitVec 48) (l : BitVec 24) (k : Byte) (m : U16) (q : U32), hearsXbk s = true →
      ∃ t, exec (.time h e l k m q) s = .next t ∧ Frame [.out, .tb, .pair] s t ∧ t.pair.st = s.pair.st
        ∧ (follows s = true → t.tb.epoch = e ∧ t.tb.flen = l.toNat ∧ t.tb.m = m.toNat + 1 ∧ t.tb.uframe = 0 ∧ t.tb.tick = s.tb.tick)
        ∧ (follows s = false → t.tb = s.tb))
    ∧ (∀ (h : XbkHdr) (c : Byte) (e : U32), hearsXbk s = true → ∃ t, exec (.fatal h c e) s = .next t
      ∧ (s.pair.st = .active → t.pair.st = .activeAlone ∧ bit (evtWord t 149) 2 = true)
      ∧ (s.pair.st = .standby → s.pair.takeover = none → t.pair.takeover = some ⟨now s + 8000, 2⟩ ∧ t.pair.st = .standby))
    ∧ (∀ (h : XbkHdr) (c : Byte) (e : U32), heard h → s.pair.st = .standby → s.pair.takeover = none →
      ∃ t, exec (.handover h c e) s = .next t ∧ t.pair.takeover = some ⟨handoverFrom s e, c.toNat⟩ ∧ Frame [.pair] s t)
    ∧ (∀ (h : XbkHdr) (i : Byte), heard h → ∃ t, exec (.yield h i) s = .next t ∧ partnerIs 8 t)
    ∧ (∀ (h : XbkHdr) (b : ShadowBody), heard h →
      let v := freeAcked h.ack s
      let u := { v with pair := { v.pair with rxSeq := h.seq, nakSent := false, ackDue := true } }
      let t := applyShadow b u
      (s.pair.st ≠ .sync → s.pair.st ≠ .standby → exec (.shadow h b) s = .next u)
      ∧ (s.pair.st = .sync ∨ s.pair.st = .standby → exec (.shadow h b) s = .next t ∧ t.pair.rxSeq = h.seq
        ∧ (∀ r g, b = .entry r (some g) → tfind t.sch.shadow r = some g) ∧ (∀ f q x, b = .sq f q x → sq t f q = x)
        ∧ (∀ k c, b = .context k (some c) → tfind t.topo.ctx k = some c) ∧ (∀ n d, b = .device n (some d) → dev? t n = some d)
        ∧ ∀ r y, b = .other r y → t.pair.shadow = s.pair.shadow ++ [(r.val, y)]))
    ∧ (∀ (h : XbkHdr) (q : U32), hearsXbk s = true → h.seq = s.pair.rxSeq → ∃ t, exec (.xbkNak h q) s = .next t
      ∧ (q = s.pair.txSeq + 1 → t = freeAcked h.ack s)
      ∧ (q ≠ s.pair.txSeq + 1 → (∀ k ∈ (freeAcked h.ack s).pair.retry, k.seq ≠ q) → t.pair.linkUp = false)
      ∧ (q ≠ s.pair.txSeq + 1 → (∃ k ∈ (freeAcked h.ack s).pair.retry, k.seq = q) → ∀ k,
        ((freeAcked h.ack s).pair.retry.filter fun k => decide ((k.seq - q).toNat < 2 ^ 31)).head? = some k → ∃ b, .xbk k.typ b ∈ t.out))
    ∧ (∀ h : XbkHdr, hearsXbk s = true → h.seq = s.pair.rxSeq → exec (.ackOnly h) s = .next (freeAcked h.ack s))
    ∧ (hearsXbk s = true → s.pair.ackDue = true → ∃ t, exec .ackOnlyTimer s = .next t ∧ t.pair = { s.pair with ackDue := false }
      ∧ t.out = s.out ++ [.xbk 10 (xbkRecord s 10 2 s.pair.txSeq [])] ∧ Frame [.out, .pair] s t)
    ∧ (hearsXbk s = true → ∃ t, exec .xebirokRecordError s = .next t ∧ t.pair.nakSent = true ∧ t.pair.rxSeq = s.pair.rxSeq
      ∧ (tget 0 (rolledClass s 6).counts 0 + 1 < errT (errClass s 6) → 0 ∉ (errClass s 6).stopped →
        (errClass t 6).total = (errClass s 6).total + 1 ∧ ∃ b, .xbk 9 b ∈ t.out))

/-- Roles of a pair. Three windows without a heartbeat: with the sense line silent too, a ready standby sets its takeover for the
first boundary 20 µs away and an active part goes on alone; with a live sense line the link is split and a standby is stale. At the
boundary the standby takes over: it drives PAIR_ACT_OUT, counts the takeover, records its cause, and tells the hosts. DISCOVER ends
after 1 s without a link, SYNC with the authority of the home dies handed over, STALE after 1 s of link. With both ACT lines high,
PAIR_ID 1 gives up its role. A pair command of a VF is refused; PAIR_SWITCH of an active part with a ready standby sets the boundary.
The order of the refusals is the model's (log 76); PAIR_RESYNC tells the partner by no record (log 77). -/
def Obligations.PairRoles : Prop :=
  ∀ (s : State), live s = true →
    let on := s.straps.pairEn = true ∧ s.pair.st ≠ .single ∧ s.pair.st ≠ .conflict ∧ s.pair.st ≠ .failed
    let third := fun (tog : Bool) => on ∧ s.pair.hbGot = false ∧ 2 ≤ s.pair.misses ∧ s.pair.partner ≠ none
      ∧ (if tog then s.pair.misses = 2 else 2 ≤ s.pair.silent)
    let body := fun (r : Nat) (e : U32) => [BitVec.ofNat 8 r, BitVec.ofNat 8 (pairCode s.pair.st),
      BitVec.ofNat 8 (s.pair.partner.getD 255), 0] ++ natLE 4 e.toNat ++ zeros 8
    let bar := fun (ctx : CmdCtx) (e : Nat) => if sender ctx.chan ≠ 0 then 1 else if s.pair.st = .single then 2
      else if s.pair.switchAt ≠ none ∨ s.pair.yielding = true then 4 else if s.pair.version = true then 5 else e
    (∀ tog, third tog → ∃ t, exec (.ganderWindowEnd tog) s = .next t ∧ t.pair.hbGot = false ∧ t.pair.misses = min 3 s.pair.misses + 1
      ∧ (tog = false → s.pair.st = .standby → s.pair.takeover = none → t.pair.takeover = some ⟨now s + 8000, 1⟩ ∧ t.pair.st = .standby)
      ∧ (tog = true → s.pair.st = .standby ∨ s.pair.st = .sync → t.pair.st = .stale ∧ bit (evtWord t 149) 4 = true)
      ∧ (s.pair.st = .active → t.pair.st = .activeAlone)
      ∧ (s.pair.misses = 2 → bit (evtWord t 149) 2 = true) ∧ (tog = true → bit (evtWord t 149) 3 = true))
    ∧ (∀ tog, on → s.pair.hbGot = true →
      ∃ t, exec (.ganderWindowEnd tog) s = .next t ∧ t.pair.misses = 0 ∧ t.pair.hbGot = false ∧ t.pair.st = s.pair.st ∧ Frame [.pair] s t)
    ∧ (∀ tk, s.pair.st = .standby → s.pair.takeover = some tk → s.tb.uframe = 0 → tk.notBefore ≤ s.tb.frameAt →
      ∃ t, exec .takeover s = .next t ∧ t.pair.st = .activeAlone ∧ t.pair.actOut = true ∧ t.pair.takeover = none
        ∧ t.pair.takeovers = (if s.pair.takeovers = 255 then 255 else s.pair.takeovers + 1)
        ∧ t.pair.last = BitVec.ofNat 64 (tk.cause + epoch32 s 0 * 2 ^ 32) ∧ t.pair.notices = s.pair.notices + 1 ∧ t.pair.unconfirmed = []
        ∧ bit (evtWord t 149) 0 = true)
    ∧ (s.pair.st = .discover → s.pair.linkUp = false → ∃ t, exec .discoverTimeout s = .next t
      ∧ (s.pair.senseOk = true → s.straps.pairId = true → t.pair.st = .stale ∧ bit (evtWord t 149) 4 = true)
      ∧ (s.pair.senseOk = false ∨ s.straps.pairId = false → t.pair.st = .activeAlone ∧ t.pair.actOut = true ∧ .act true ∈ t.out))
    ∧ (s.pair.st = .sync → s.pair.linkUp = true → ∃ t, exec .syncDone s = .next t
      ∧ (s.pair.version = false → homesAgree s = true → t.pair.st = .standby ∧ Frame [.out, .slots, .pair] s t)
      ∧ (s.pair.version = true ∨ homesAgree s = false → t.pair.st = .stale ∧ bit (evtWord t 149) 4 = true))
    ∧ (s.pair.st = .stale → s.pair.linkUp = true → s.pair.version = false → homesAgree s = true →
      exec .staleResyncTimer s = .next { s with pair := { s.pair with st := .sync } })
    ∧ (s.straps.pairEn = true → s.straps.pairId = true → s.pair.actOut = true → isActive s = true → ∃ t,
      exec .pairActConflict s = .next t ∧ t.pair.st = .yielded ∧ t.pair.actOut = false ∧ .act false ∈ t.out ∧ t.pair.switchAt = none)
    ∧ (∀ ctx, ∃ t, exec (.pairQuery ctx) s = .next t ∧ Answered ctx 0x90 (body (if sender ctx.chan ≠ 0 then 1 else 0) 0) s t
      ∧ Frame [.out, .mail, .fns] s t)
    ∧ (∀ ctx e, ∃ t, exec (.pairSwitch ctx e) s = .next t ∧ Frame [.out, .mail, .fns, .pair] s t
      ∧ (bar ctx (if s.pair.st = .active then 0 else 3) ≠ 0 → t.pair = s.pair
        ∧ Answered ctx 0x91 (body (bar ctx (if s.pair.st = .active then 0 else 3)) 0) s t)
      ∧ (bar ctx (if s.pair.st = .active then 0 else 3) = 0 → t.pair = { s.pair with switchAt := some (switchBoundary s e) }
        ∧ Answered ctx 0x91 (body 0 (switchBoundary s e)) s t))
    ∧ (∀ ctx, ∃ t, exec (.pairResync ctx) s = .next t ∧ Frame [.out, .mail, .fns] s t
      ∧ Answered ctx 0x92 (body (bar ctx (if s.pair.linkUp = true ∧ s.pair.partner = some 5 then 0 else 3)) 0) s t)

/-- Internal errors. An error that stays below its class's threshold is counted against its member, in TOTAL and in ERR.LAST, and
one that was corrected has no other effect; a member whose action stands counts no more. The error that reaches the threshold
makes the fault lasting, and the class's action follows: a first engine is retired and NM1_OK cleared, a port is held disabled with
its bit of ERR.PORT_FAILED. An engine fault that cannot be corrected resets the engine. The counts of a window belong to it: a
window that has begun starts them at 0, at its start or at the first error in it. A write of ERR[c].CFG clears the counts; a clear of ERR.PORT_FAILED the PORT counts of those ports. The loss of a core holds the core die with ERR.FATAL, stops
every lane, and tells AER and the partner. -/
def Obligations.Errors : Prop :=
  ∀ (s : State), live s = true →
    (∀ r : ErrReport, (r.kind = .corrected ∨ r.kind = .parityRepaired) → (∀ c i, r.site ≠ .configParity c i) →
      let c := (siteClass r.site).1
      let i := (siteClass r.site).2
      let n := tget 0 (rolledClass s c).counts i + 1
      let lastOf := BitVec.ofNat 64 (c + errKindCode r.kind * 2 ^ 4 + i * 2 ^ 8 + epoch32 s 0 * 2 ^ 32)
      (i ∈ (errClass s c).stopped → exec (.errorDetected r) s = .next s)
      ∧ (i ∉ (errClass s c).stopped → n < errT (errClass s c) → ∃ t, exec (.errorDetected r) s = .next t ∧ Frame [.err] s t
        ∧ t.err = { s.err with last := lastOf, cls := tput s.err.cls c { rolledClass s c with
            total := (errClass s c).total + 1, counts := tput (rolledClass s c).counts i n } })
      ∧ (i ∉ (errClass s c).stopped → errT (errClass s c) ≤ n → ∃ u t, exec (.errorDetected r) s = .next t
        ∧ t = lastingAction c i (raise .err 0 u) ∧ bit (evtWord (raise .err 0 u) 148) 0 = true
        ∧ (errClass u c).lasting = (if (errClass s c).lasting = 0xFFFF then 0xFFFF else (errClass s c).lasting + 1)
        ∧ (c ≠ 6 → i ∈ (errClass u c).stopped)
        ∧ (c = 1 → s.sch.nm1Ok = true → t.sch.nm1Ok = false ∧ t.sch.retiredEng = BitVec.ofNat 4 i ∧ (eng t i).retired = true)
        ∧ (c = 2 → t.err.portFailed = s.err.portFailed ||| BitVec.ofNat 64 (2 ^ i) ∧ bit (evtWord t 148) 2 = true)
        ∧ (c = 3 → t.err.muleFailed = s.err.muleFailed ||| BitVec.ofNat 4 (2 ^ i) ∧ bit (evtWord t 148) 3 = true)))
    ∧ (∀ e : EngId, (eng s e.val).retired = false → tget 0 (rolledClass s 1).counts e.val + 1 < errT (errClass s 1) →
      e.val ∉ (errClass s 1).stopped → ∃ t, exec (.errorDetected ⟨.engineFault e, .faultOrCrc⟩) s = .next t
        ∧ (eng t e.val).stopped = true ∧ threadsOf (eng t e.val) = [] ∧ (eng t e.val).dmem = []
        ∧ bit (evtWord t 148) 1 = true)
    ∧ (∀ c : Fin 7, ((errClass s c.val).window = errWindow s c.val → exec (.errorWindowStart c) s = .next s)
      ∧ ((errClass s c.val).window ≠ errWindow s c.val → exec (.errorWindowStart c) s = .next { s with err := { s.err with
        cls := tput s.err.cls c.val { errClass s c.val with counts := [], window := errWindow s c.val } } }))
    ∧ (∀ (c : Fin 7) (v : U32), hostReaches s 0 = true → ∃ t, exec (.errCfgWrite c v) s = .next t ∧ Frame [.err] s t
      ∧ errClass t c.val = { errClass s c.val with
          cfg := v &&& 0x00FFFFFF, counts := [], window := s.tb.epoch.toNat / max 1 (field (v &&& 0x00FFFFFF) 8 16) }
      ∧ (∀ d, d ≠ c.val → errClass t d = errClass s d) ∧ t.err = { s.err with cls := t.err.cls })
    ∧ (∀ m : U64, hostReaches s 0 = true → ∃ t, exec (.errPortFailedClear m) s = .next t ∧ Frame [.err] s t
      ∧ t.err = { s.err with portFailed := s.err.portFailed &&& ~~~m, cls := t.err.cls }
      ∧ (∀ d, d ≠ 2 → errClass t d = errClass s d) ∧ (errClass t 2).cfg = (errClass s 2).cfg
      ∧ ∀ p, bit m p = true → bit s.err.portFailed p = true → p ∉ (errClass t 2).stopped)
    ∧ (∀ (c : Fin 7) (i : BitVec 12), ∃ t, exec (.configRestored c i) s = .next t ∧ Raised 148 4 s t
      ∧ t.err = { s.err with restoring := s.err.restoring.filter fun e => e != (c.val, i.toNat) }
      ∧ SameFuncs s t ∧ Frame [.out, .eic, .fns, .err] s t)
    ∧ (∀ k : Fin 2, ∃ t, exec (.coreWatchdogExpiry k) s = .next t ∧ t.err.held = true
      ∧ t.err.fatal = BitVec.ofNat 64 (k.val + 1 + epoch32 s 0 * 2 ^ 32) ∧ t.pair.actOut = false ∧ .aer 0 ∈ t.out
      ∧ (∀ p, (port t p).txn = none)
      ∧ (s.straps.pairEn = true → .act false ∈ t.out)
      ∧ (s.straps.pairEn = true → s.pair.linkUp = true → ∃ b, .xbk 6 b ∈ t.out))

/-- The arithmetic and logic of an ox engine: the result in `rd` and the flags by R237, MOV, MOVI and NOP leaving the flags
as they were, CMP and CMPI writing the flags alone. Only the running thread of that engine changes. A logical operation has
no carry out of bit 7: its C of 0 is the model's choice (log 51).
The shifts, C taking the last bit out, and the pointer instructions, which leave the flags alone. A shift by 0 moves no bit
out: its C is the model's free value (log 52), so nothing is said of it. -/
def Obligations.EngineArithmetic : Prop :=
  (
    ∀ (s : State) (e : EngId) (t : Thread) (rd rs : Fin 16) (imm : Byte), CanRun s e t 1 →
      let a := breg t rd.val
      let b := breg t rs.val
      exec (.nop e) s = .next (setRun e.val (advance (spend 1 t)) s)
      ∧ exec (.mov e rd rs) s = .next (setRun e.val (advance { spend 1 t with b := tput t.b rd.val b }) s)
      ∧ exec (.movi e rd imm) s = .next (setRun e.val (advance { spend 1 t with b := tput t.b rd.val imm }) s)
      ∧ exec (.add e rd rs) s = .next (setRun e.val (wrote 1 rd.val (a + b) (decide (256 ≤ a.toNat + b.toNat)) t) s)
      ∧ exec (.addi e rd imm) s = .next (setRun e.val (wrote 1 rd.val (a + imm) (decide (256 ≤ a.toNat + imm.toNat)) t) s)
      ∧ exec (.adc e rd rs) s = .next (setRun e.val (wrote 1 rd.val (a + b + (if t.c then 1 else 0))
          (decide (256 ≤ a.toNat + b.toNat + (if t.c then 1 else 0))) t) s)
      ∧ exec (.sub e rd rs) s = .next (setRun e.val (wrote 1 rd.val (a - b) (decide (a.toNat < b.toNat)) t) s)
      ∧ exec (.subi e rd imm) s = .next (setRun e.val (wrote 1 rd.val (a - imm) (decide (a.toNat < imm.toNat)) t) s)
      ∧ exec (.andi e rd imm) s = .next (setRun e.val (wrote 1 rd.val (a &&& imm) false t) s)
      ∧ exec (.and e rd rs) s = .next (setRun e.val (wrote 1 rd.val (a &&& b) false t) s)
      ∧ exec (.or e rd rs) s = .next (setRun e.val (wrote 1 rd.val (a ||| b) false t) s)
      ∧ exec (.ori e rd imm) s = .next (setRun e.val (wrote 1 rd.val (a ||| imm) false t) s)
      ∧ exec (.xor e rd rs) s = .next (setRun e.val (wrote 1 rd.val (a ^^^ b) false t) s)
      ∧ exec (.xori e rd imm) s = .next (setRun e.val (wrote 1 rd.val (a ^^^ imm) false t) s)
      ∧ exec (.cmp e rd rs) s = .next (setRun e.val (advance { spend 1 t with
          z := a - b == 0, n := bit (a - b) 7, c := decide (a.toNat < b.toNat) }) s)
      ∧ exec (.cmpi e rd imm) s = .next (setRun e.val (advance { spend 1 t with
          z := a - imm == 0, n := bit (a - imm) 7, c := decide (a.toNat < imm.toNat) }) s))
  ∧ (
    ∀ (s : State) (e : EngId) (t : Thread) (rd rs : Fin 16) (n : Fin 8) (p : Fin 4) (imm : BitVec 24) (off : U16),
      CanRun s e t 1 →
      let a := breg t rd.val
      (n.val ≠ 0 → exec (.shl e rd n) s = .next (setRun e.val (wrote 1 rd.val (a <<< n.val) (bit a (8 - n.val)) t) s))
      ∧ (n.val ≠ 0 → exec (.shr e rd n) s = .next (setRun e.val (wrote 1 rd.val (a >>> n.val) (bit a (n.val - 1)) t) s))
      ∧ (n.val = 0 → ∃ c, exec (.shl e rd n) s = .next (setRun e.val (wrote 1 rd.val a c t) { s with free := s.free + 1 }))
      ∧ (n.val = 0 → ∃ c, exec (.shr e rd n) s = .next (setRun e.val (wrote 1 rd.val a c t) { s with free := s.free + 1 }))
      ∧ exec (.ldp e p imm) s = .next (setRun e.val (advance { spend 1 t with p := tput t.p p.val imm }) s)
      ∧ exec (.addp e p rs) s = .next (setRun e.val
          (advance { spend 1 t with p := tput t.p p.val (preg t p.val + (breg t rs.val).setWidth 24) }) s)
      ∧ exec (.addpi e p off) s = .next (setRun e.val
          (advance { spend 1 t with p := tput t.p p.val (preg t p.val + off.signExtend 24) }) s))

/-- Loads and stores: the microcode reaches its engine's data memory and the windows of its context and entry, and faults
elsewhere; a script reaches its scratch and those windows, may write SEQ and SCRIPT_STATE of its context, and stops outside.
The addresses of the microcode's map are the model's choice (log 42). -/
def Obligations.EngineMemory : Prop :=
  ∀ (s : State) (e : EngId) (t : Thread) (r : Fin 16) (p : Fin 4) (off : BitVec 12), CanRun s e t 2 →
    let a := (preg t p.val + off.setWidth 24).toNat
    let v := breg t r.val
    let load := fun (x : Byte) => setRun e.val (advance { spend 2 t with b := tput t.b r.val x }) s
    (t.script = none →
      (a < 0x4000 → exec (.ldb e r p off) s = .next (load (mget (eng s e.val).dmem a))
        ∧ exec (.stb e r p off) s = .next (modEng e.val (fun x => { x with dmem := mput x.dmem a v })
            (setRun e.val (advance t) s)))
      ∧ (0x180000 ≤ a → a < 0x180020 → exec (.ldb e r p off) s = .next (load (entryByte s t (a - 0x180000))))
      ∧ (0x100000 ≤ a → a < 0x100040 → exec (.ldb e r p off) s = .next (load (windowByte s t (a - 0x100000))))
      ∧ (0x4000 ≤ a → ¬(0x100000 ≤ a ∧ a < 0x100040) → exec (.stb e r p off) s = .next (engineFault e.val s)
          ∧ (¬(0x180000 ≤ a ∧ a < 0x180020) → exec (.ldb e r p off) s = .next (engineFault e.val s))))
    ∧ (t.script ≠ none →
      (a < 0x100 → exec (.ldb e r p off) s = .next (load (mget (eng s e.val).scratch a))
        ∧ exec (.stb e r p off) s = .next (modEng e.val (fun x => { x with scratch := mput x.scratch a v })
            (setRun e.val (advance (spend 2 t)) s)))
      ∧ (0x100000 ≤ a → a < 0x100040 → exec (.ldb e r p off) s = .next (load (windowByte s t (a - 0x100000)))
        ∧ (a ≠ 0x100007 → a < 0x100030 → exec (.stb e r p off) s = .next (scriptStop e.val 3 s)))
      ∧ (0x180000 ≤ a → a < 0x180020 → exec (.ldb e r p off) s = .next (load (entryByte s t (a - 0x180000)))
        ∧ exec (.stb e r p off) s = .next (scriptStop e.val 3 s))
      ∧ (0x200000 ≤ a → a < 0x200800 → isServiceWork t.work = true → exec (.ldb e r p off) s = .next (load 0)
        ∧ exec (.stb e r p off) s = .next (scriptStop e.val 3 s))
      ∧ (0x200800 ≤ a → exec (.ldb e r p off) s = .next (scriptStop e.val 2 s)
        ∧ exec (.stb e r p off) s = .next (scriptStop e.val 2 s)))

/-- Control flow: BR by its condition and the flags, JMP, CALL and RET in microcode with a stack eight deep, LOOP with a count
from a register or the word. A ninth level of CALL, a RET from an empty stack and a third level of LOOP leave values that the
manual does not state; they are the model's free values (log 26), and the statement does not name them. In a script JMP, CALL and RET
stop it, as the use column has them for microcode alone. -/
def Obligations.EngineControl : Prop :=
  ∀ (s : State) (e : EngId) (t : Thread),
    (∀ (cond : BitVec 4) (off : BitVec 14) (holds : Bool),
      (cond = 0 ∧ holds = true) ∨ (cond = 1 ∧ holds = !t.z) ∨ (cond = 2 ∧ holds = t.z) ∨ (cond = 3 ∧ holds = t.c)
        ∨ (cond = 4 ∧ holds = !t.c) ∨ (cond = 5 ∧ holds = t.n) ∨ (cond = 6 ∧ holds = !t.n) →
      CanRun s e t (if holds then 2 else 1) →
      exec (.br e cond off) s = .next (setRun e.val
        (if holds then jumpTo (t.pc + off) (spend 2 t) else advance (spend 1 t)) s))
    ∧ (∀ (inReg : Bool) (rs : Fin 16) (imm len : Byte), CanRun s e t 2 →
        let count := (if inReg then breg t rs.val else imm).toNat
        let last := t.pc + len.setWidth 14
        (count = 0 ∨ len = 0 → exec (.loop e inReg rs imm len) s
          = .next (setRun e.val { spend 2 t with pc := (loopEnd last t.loops).1, loops := (loopEnd last t.loops).2 } s))
        ∧ (count ≠ 0 → len ≠ 0 → t.loops.length < 2 → exec (.loop e inReg rs imm len) s
          = .next (setRun e.val { spend 2 t with pc := t.pc + 1, loops := ⟨t.pc + 1, last, count⟩ :: t.loops } s))
        ∧ (count ≠ 0 → len ≠ 0 → 2 ≤ t.loops.length → ∃ k < 256, exec (.loop e inReg rs imm len) s
          = .next (setRun e.val { spend 2 t with pc := t.pc + 1, loops := ⟨t.pc + 1, last, k⟩ :: t.loops.take 1 }
              { s with free := s.free + 1 })))
    ∧ (CanRun s e t 0 → t.script = none →
        (∀ a, exec (.jmp e a) s = .next (setRun e.val (jumpTo a t) s))
        ∧ (∀ a, t.calls.length < 8 → exec (.call e a) s = .next (setRun e.val
            { advance t with pc := a, calls := (advance t).pc :: t.calls } s))
        ∧ (∀ a, 8 ≤ t.calls.length → ∃ k, exec (.call e a) s = .next (setRun e.val
            { advance t with pc := a, calls := k :: t.calls.take 7 } { s with free := s.free + 1 }))
        ∧ (∀ a r, t.calls = a :: r → exec (.ret e) s = .next (setRun e.val { t with pc := a, calls := r } s))
        ∧ (t.calls = [] → ∃ a, exec (.ret e) s
            = .next (setRun e.val { t with pc := a } { s with free := s.free + 1 })))
    ∧ (CanRun s e t 0 → t.script ≠ none → ∀ a, exec (.jmp e a) s = .next (scriptStop e.val 5 s)
        ∧ exec (.call e a) s = .next (scriptStop e.val 5 s) ∧ exec (.ret e) s = .next (scriptStop e.val 5 s))

/-- The windows and the DMA context of a thread: CLD and PLD load the window, CST and PST store it, ARM arms the port's
channel for the current transfer, and DRN waits until it has drained. That PLD moves the walk on is the model's reading
(log 54). -/
def Obligations.EngineWindows : Prop :=
  ∀ (s : State) (e : EngId) (t : Thread), InMicrocode s e t →
    exec (.cld e) s = .next (setRun e.val (advance { t with win := windowOf s t.work }) s)
    ∧ (∀ i, t.work = .item i → t.win ≠ [] → exec (.cst e) s
        = .next (modCtx (workCtx s t.work) (storeCtx t.win) (setRun e.val (advance t) s)))
    ∧ (∀ r, t.work = .service r → t.win ≠ [] → exec (.pst e) s
        = .next (modPstate r (storeState t.win) (setRun e.val (advance t) s)))
    ∧ (t.win = [] ∨ (∀ i, t.work ≠ .item i) → exec (.cst e) s = .next (setRun e.val (advance t) s))
    ∧ (t.win = [] ∨ (∀ r, t.work ≠ .service r) → exec (.pst e) s = .next (setRun e.val (advance t) s))
    ∧ ((eng s e.val).walk = [] → exec (.pld e) s = .next (setRun e.val (advance t) s))
    ∧ (∀ r rest, (eng s e.val).walk = r :: rest → ∃ u, exec (.pld e) s = .next u
        ∧ (eng u e.val).walk = rest ∧ (eng u e.val).cur = some r ∧ (eng u e.val).run
            = some (advance { t with
                work := .service r, win := windowOf u (.service r), used := 0, entered := [], armed := none
                bound := scriptOf s (.service r) })
        ∧ OtherEngines e.val s u ∧ u.topo = s.topo ∧ u.sch = s.sch)
    ∧ (∀ v : BitVec 10,
        let key := ctxOf (portChan (workPort s t.work) (bit v 0)) (workTimed s t.work)
        ∃ u, exec (.arm e v) s = .next u ∧ (eng u e.val).run = some (advance { t with armed := some key })
          ∧ (chan u key).work = t.work ∧ (chan u key).state ≠ .idle ∧ (∀ k, k ≠ key → chan u k = chan s k)
          ∧ OtherEngines e.val s u)
    ∧ (t.armed = none → exec (.drn e) s = .next (setRun e.val (advance t) s))
    ∧ (∀ k, t.armed = some k → exec (.drn e) s
        = .next (setRun e.val (if chanDrained s k then advance t else { t with wait := .drn }) s))

/-- The port crossbar: HOLD takes a free port whose periodic window, if any, is the engine's own, unless a lower engine that
may hold it waits; otherwise it waits for the grant; what the engine
has queued on the lane then goes on (`runLane`). REL frees the port, closes the window behind the engine's last entry on
it, and ends a periodic thread that has released its last port: the engine goes on with one that gave way, its suspended
thread or a new one. -/
def Obligations.EnginePorts : Prop :=
  ∀ (s : State) (e : EngId) (t : Thread) (p : PortId),
    let free := (port s p.val).heldBy = none ∧ ((port s p.val).window = none ∨ (port s p.val).window = some e.val)
      ∧ ∀ k ∈ (port s p.val).holdWait, e.val ≤ k ∨ mayHold s k p.val = false
    let taken := fun (u : State) => (port u p.val).heldBy = some e.val
      ∧ (port u p.val).holdWait = (port s p.val).holdWait.filter (· != e.val) ∧ OtherPorts p.val s u ∧ OtherEngines e.val s u
    (InMicrocode s e t → p.val ∈ t.holds → exec (.hold e p) s = .next (setRun e.val (advance t) s))
    ∧ (InMicrocode s e t → p.val ∉ t.holds → free → ∃ u, exec (.hold e p) s = .next (runLane p.val u) ∧ taken u
        ∧ (eng u e.val).run = some (advance { t with wait := .running, holds := p.val :: t.holds }))
    ∧ (InMicrocode s e t → p.val ∉ t.holds → ¬free → ∃ u, exec (.hold e p) s = .next u
        ∧ (port u p.val).holdWait = (port s p.val).holdWait.filter (· != e.val) ++ [e.val]
        ∧ (port u p.val).heldBy = (port s p.val).heldBy ∧ OtherPorts p.val s u
        ∧ (eng u e.val).run = some { t with wait := .hold p.val } ∧ OtherEngines e.val s u)
    ∧ (live s = true → (eng s e.val).run = some t → t.wait = .hold p.val → free →
        ∃ u, exec (.holdGrant e p) s = .next (runLane p.val u) ∧ taken u
          ∧ (eng u e.val).run = some (advance { t with wait := .running, holds := p.val :: t.holds }))
    ∧ (live s = true → (eng s e.val).run = some t → t.wait = .hold p.val → ¬free → exec (.holdGrant e p) s = .next s)
    ∧ (InMicrocode s e t → p.val ∉ t.holds → exec (.rel e p) s = .next (setRun e.val (advance t) s))
    ∧ (InMicrocode s e t → p.val ∈ t.holds → ∃ u, exec (.rel e p) s = .next u
        ∧ (port u p.val).heldBy = (if (port s p.val).heldBy = some e.val then none else (port s p.val).heldBy)
        ∧ ((port s p.val).window = some e.val → walkHas s e.val p.val = false → (port u p.val).window = none)
        ∧ OtherPorts p.val s u ∧ OtherEngines e.val s u
        ∧ (t.kind = .dispatch ∨ ((eng s e.val).walk ≠ [] ∧ (eng s e.val).paused = []) ∨ t.holds.filter (· != p.val) ≠ [] → (eng u e.val).run
            = some (advance { t with holds := t.holds.filter (· != p.val) }))
        ∧ (∀ v l, t.kind = .periodic → (eng s e.val).paused = v :: l → t.holds.filter (· != p.val) = [] →
            (eng u e.val).run = some v ∧ (eng u e.val).paused = l)
        ∧ (t.kind = .periodic → (eng s e.val).walk = [] → (eng s e.val).paused = [] → t.holds.filter (· != p.val) = [] →
            ((eng u e.val).run = (eng s e.val).suspended ∧ (eng s e.val).suspended ≠ none)
            ∨ ((eng s e.val).suspended = none ∧ (eng s e.val).parked = []
                ∧ (eng u e.val).run = some (freshThread .dispatch))
            ∨ ((eng s e.val).suspended = none ∧ (eng s e.val).parked ≠ [] ∧ (eng u e.val).run = none)))

/-- The waits: RDAT and WHS take a result that has come, writing B15 with its code, B14 and B13 as R238 says, and branch where
the mask has the code's bit; with none come they wait. On an N1 or N2 port they park, ready at once where the result has come, and
DLY parks there and goes on elsewhere. RDAT on a channel that the microcode has not armed for the transfer stops a script. A parked
thread is ready at the end of its delay, and resumes once no transaction of the running thread is in progress; what ran is
suspended, or gives way where it is periodic (log 63). -/
def Obligations.EngineWaits : Prop :=
  ∀ (s : State) (e : EngId) (t : Thread) (p : PortId) (mask : Byte) (off : BitVec 14) (count : BitVec 20),
    t.holds.head? = some p.val →
    let parks := genCode (port s p.val).gen ≤ 1
    let parkedAs := fun (u : State) (ready : Bool) (v : Thread) => tfind (eng u e.val).parked p.val = some ⟨v, ready⟩ ∧ OtherEngines e.val s u
    (CanRun s e t (if parks then 4 else 2) → let v := spend (if parks then 4 else 2) t
      (chanBarred s t true = true → exec (.rdat e mask off) s = .next (scriptStop e.val 4 s))
      ∧ (∀ c b14 b13, (port s p.val).answer = some (c, b14, b13) →
        let taken := modPort p.val (fun x => { x with answer := none }) s
        (¬parks → (chanBarred s t true = false → exec (.rdat e mask off) s = .next (setRun e.val (takeResult mask off c b14 b13 v) taken))
          ∧ exec (.whs e mask off) s = .next (setRun e.val (takeResult mask off c b14 b13 v) taken))
        ∧ (parks → (chanBarred s t true = false → ∃ u, exec (.rdat e mask off) s = .next u
            ∧ parkedAs u true (takeResult mask off c b14 b13 v) ∧ u.topo = taken.topo)
          ∧ ∃ u, exec (.whs e mask off) s = .next u ∧ parkedAs u true (takeResult mask off c b14 b13 v) ∧ u.topo = taken.topo))
      ∧ ((port s p.val).answer = none → ¬parks →
        (chanBarred s t true = false → exec (.rdat e mask off) s = .next (setRun e.val { v with wait := .rdat mask off, waitAt := now s } s))
        ∧ exec (.whs e mask off) s = .next (setRun e.val { v with wait := .whs mask off, waitAt := now s } s))
      ∧ ((port s p.val).answer = none → parks →
        (chanBarred s t true = false → ∃ u, exec (.rdat e mask off) s = .next u
          ∧ parkedAs u false { v with wait := .rdat mask off, waitAt := now s } ∧ u.topo = s.topo)
        ∧ ∃ u, exec (.whs e mask off) s = .next u ∧ parkedAs u false { v with wait := .whs mask off, waitAt := now s } ∧ u.topo = s.topo))
    ∧ (parks → CanRun s e t 4 → ∃ u, exec (.dly e count) s = .next u ∧ parkedAs u false { spend 4 t with wait := .dly } ∧ u.topo = s.topo)
    ∧ (¬parks → CanRun s e t (dlyCost s e.val count) →
        exec (.dly e count) s = .next (setRun e.val (advance (spend (dlyCost s e.val count) t)) s))
    ∧ (∀ k, live s = true → tfind (eng s e.val).parked p.val = some k → k.thread.wait = .dly →
        ∃ u, exec (.dlyExpiry e p) s = .next u ∧ OtherEngines e.val s u
          ∧ tfind (eng u e.val).parked p.val = some ⟨advance { k.thread with wait := .running }, true⟩
          ∧ (eng u e.val).run = (eng s e.val).run)
    ∧ (∀ k, live s = true → tfind (eng s e.val).parked p.val = some k → firstReady (eng s e.val) = some p.val → midTxn s e.val = false →
        ∃ u, exec (.parkedThreadResume e p) s = .next u ∧ OtherEngines e.val s u
          ∧ (eng u e.val).run = some k.thread ∧ tfind (eng u e.val).parked p.val = none
          ∧ (∀ v, (eng s e.val).run = some v → v.kind = .periodic → (eng u e.val).paused = v :: (eng s e.val).paused)
          ∧ (∀ v, (eng s e.val).run = some v → v.kind = .dispatch → (eng u e.val).suspended
            = some { v with wait := if v.wait == .getw then .running else v.wait }))

/-- The result codes in the registers: B15 has the code, B14 what ERR or good DATA bring, B13 the sequence of an ACK or of
good DATA, and the wait branches by its offset where the mask has the code's bit. -/
def Obligations.ResultCodes : Prop :=
  ∀ (t : Thread) (mask : Byte) (off : BitVec 14) (code b14 b13 : Nat), code ≤ 7 →
    let u := takeResult mask off code b14 b13 t
    breg u 15 = BitVec.ofNat 8 code
    ∧ breg u 14 = (if code = 4 ∨ code = 5 then BitVec.ofNat 8 b14 else breg t 14)
    ∧ breg u 13 = (if code = 0 ∨ code = 5 then BitVec.ofNat 8 b13 else breg t 13)
    ∧ (∀ r, r < 13 → breg u r = breg t r) ∧ u.wait = .running ∧ (u.z, u.n, u.c, u.p) = (t.z, t.n, t.c, t.p)
    ∧ (bit mask code = true → u.pc = t.pc + off)
    ∧ (bit mask code = false → u.pc = (loopEnd t.pc t.loops).1)

/-- Tokens: TOK asks the port lane for one IN, OUT or SETUP token of the work's transfer, with the sequence of its endpoint's context (0
for SETUP). The burst is the least of the count in the register, MAX_BURST + 1, the generation's burst, the packets left, what
fits and, for an IN, what the staging has room for (`roomCount`, log 156); one packet on N1 to N3. SPL asks for one split token to the translator hub. The engine goes on. On a lane with nothing
queued the token goes out at once and the transaction has begun; while a transaction is in progress, or the line is not free, or
nothing fits, it waits in the lane; a transfer with no packets left, a SPL to a context without translator and a SPLIT-DONE before its unit
send nothing (log 96). -/
def Obligations.EngineTokens : Prop :=
  ∀ (s : State) (e : EngId) (t : Thread) (p i : Nat) (x : Item) (rs : Fin 16) (retry : Bool) (c : Ctx),
    OnLine s e t p i x → x.pendErr = none → (port s p).lane = [] →
    let num := field (workHandle s t.work) 0 12
    let ep := (workEp s t.work).1
    let gasp := gaspToken s num c t.work
    let m := c.mps.toNat
    let g := (port s p).gen
    let seqOf := fun dirIn => if ep = 0 ∧ dirIn = false then c.seqOut else c.seq
    let free := (port s p).txn = none ∧ lineFree s p = true
    let keeps := fun (l : List (Nat × Work × LaneOp)) (u : State) => (eng u e.val).run = some (advance t) ∧ OtherEngines e.val s u
      ∧ u.out = s.out ∧ (port u p).lane = l ∧ (port u p).txn = (port s p).txn ∧ OtherPorts p s u
    (∀ typ : BitVec 4, typ = 3 ∨ typ = 4 ∨ typ = 5 → ctx? s num ep (typ == 3) = some c → c.isOpen = true → c.halted = false →
      let named := field (breg t rs.val) 0 4 + 1
      let k : TxnKind := if typ = 5 then .setup else if x.poll then .poll else if typ = 3 then .bulkIn else .bulkOut
      let q := if typ = 5 then 0 else seqOf (typ == 3)
      let left := if typ = 5 then 1 else itemLeft s x m
      let most := min (if serdes g then min named (min (c.maxBurst.toNat + 1) (maxBurstOf g)) else 1) left
      let fit := fitCount s p true (fun n => tokCost g k n m (tokTiers s c) + scriptTime s num) most
      let n := if typ = 3 then roomCount s i x m fit else fit
      let op : List (Nat × Work × LaneOp) := [(e.val, t.work, .tok typ.toNat named ep true retry)]
      (¬ free → ∃ u, exec (.tok e typ rs retry) s = .next u ∧ keeps op u)
      ∧ (free → most = 0 → ∃ u, exec (.tok e typ rs retry) s = .next u ∧ keeps [] u)
      ∧ (free → most ≠ 0 → n = 0 → ∃ u, exec (.tok e typ rs retry) s = .next u ∧ keeps op u)
      ∧ (free → n ≠ 0 → ∃ u, exec (.tok e typ rs retry) s = .next u
        ∧ u.out = s.out ++ [.packet p (packetBytes g (if typ = 5 then .setup else if typ = 3 then .in_ else .out)
            ⟨BitVec.ofNat 7 c.waddr, typ == 3, BitVec.ofNat 4 ep, q, 0,
              if typ = 5 then 0 else BitVec.ofNat 4 (n - 1), false, retry, gasp, 0⟩ [])]
        ∧ TxnBegun e t p i x k num ep (typ == 3) q n retry (typ == 3) s u))
    ∧ (∀ start : Bool, let dirIn := nextIn x
      ctx? s num ep dirIn = some c → c.isOpen = true → c.halted = false → field c.epaddr 0 4 = ep → serdes g = true →
      let k : TxnKind := if start then .splitStart else .splitDone
      let q := if itemCtrl x && x.stage == 0 then 0 else seqOf dirIn
      let timely := if start then itemLeft s x m ≠ 0 else ∃ a, x.doneAt = some a ∧ a ≤ absUframe s
      let fit := fits s p (splCost g start false dirIn m (tokTiers s c) + scriptTime s num) true
      let op : List (Nat × Work × LaneOp) := [(e.val, t.work, .spl start retry)]
      (¬ free → ∃ u, exec (.spl e (if start then 6 else 7) rs retry) s = .next u ∧ keeps op u)
      ∧ (free → c.tt = none ∨ ¬ timely → ∃ u, exec (.spl e (if start then 6 else 7) rs retry) s = .next u ∧ keeps [] u)
      ∧ (∀ tt, c.tt = some tt → free → timely →
        (fit = false → ∃ u, exec (.spl e (if start then 6 else 7) rs retry) s = .next u ∧ keeps op u)
        ∧ (fit = true → ∃ u, exec (.spl e (if start then 6 else 7) rs retry) s = .next u
          ∧ u.out = s.out ++ [.packet p (packetBytes g (if start then .splitStart else .splitDone)
              (splitHdr c tt dirIn (itemCtrl x && x.stage == 0) q retry gasp) [])]
          ∧ TxnBegun e t p i (if start then { x with nyet := false, doneAt := none } else x) k num ep dirIn q 1 retry
              (!start || dirIn) s u)))

/-- Data and acknowledgement: SDAT asks the port lane for the DATA of an OUT burst, and the engine goes on. On a lane with nothing queued the
packet of a one-packet burst (the setup bytes, or the bytes staged at the transfer's position) goes out with its length and LAST and
opens the response window; while its data is not staged it waits in the lane; a word that cannot be corrected ends the transfer
with DATA_UNDERRUN. SHS sends the ACK that an IN burst is due, and the
transaction ends: the transfer that had its last data completes with SUCCESS, or SHORT where it moved less than its length. -/
def Obligations.EngineData : Prop :=
  ∀ (s : State) (e : EngId) (t : Thread) (p i : Nat) (x : Item) (rd rs : Fin 16) (tx : Txn),
    InMicrocode s e t → t.work = .item i → workPort s t.work = p → item? s i = some x → x.status = none →
    (port s p).txn = some tx → tx.work = .item i → tx.engine = some e.val →
    ((port s p).lane = [] → ∀ b, tx.waiting = false → tx.dirIn = false → tx.sent = 0 → tx.count = 1 → tx.kind = .setup ∨ tx.kind = .bulkOut →
      (outPayload s tx i x 0 = some b → ∃ u, exec (.sdat e rd rs) s = .next u
        ∧ u.out = s.out ++ [.packet p (packetBytes (port s p).gen .data
            ⟨BitVec.ofNat 7 (txnCtx s tx).waddr, false, BitVec.ofNat 4 tx.ep,
              if tx.kind = .setup then 0 else seqAdd (txnGen s tx) tx.seq0 0, BitVec.ofNat 11 b.length, 0, true, false, false, 0⟩ b)]
        ∧ (port u p).txn = some { tx with sent := 1, waiting := true } ∧ (port u p).lane = [] ∧ (eng u e.val).run = some (advance t)
        ∧ item? u i = some x ∧ OtherPorts p s u ∧ OtherEngines e.val s u)
      ∧ (outPayload s tx i x 0 = none → outBad s tx x 0 = true → x.stopAs = none → (port s p).resetDue = false → (port s p).enumQueue = [] →
        ∃ u, exec (.sdat e rd rs) s = .next u ∧ item? u i = some (decided 0x0F x) ∧ OtherItems i s u ∧ bit (evtWord u 147) 1 = true
          ∧ (port u p).txn = none ∧ (port u p).lane = [] ∧ (eng u e.val).run = some (advance t) ∧ OtherPorts p s u ∧ OtherEngines e.val s u)
      ∧ (outPayload s tx i x 0 = none → outBad s tx x 0 = false → ∃ u, exec (.sdat e rd rs) s = .next u ∧ u.out = s.out ∧ (port u p).txn = some tx
        ∧ (port u p).lane = [(e.val, t.work, .sdat 1)] ∧ (eng u e.val).run = some (advance t) ∧ item? u i = some x ∧ OtherPorts p s u ∧ OtherEngines e.val s u)
      ∧ (tx.kind = .setup → outPayload s tx i x 0 = some (natLE 8 (match x.setup with
        | some a => a.toNat
        | none => if x.posted = none then eArg x.raw else (Config.freeWord i).toNat))))
    ∧ (tx.ackDue = true → x.stopAs = none → Quiet s p → itemCtrl x = false → ∃ u, exec (.shs e) s = .next u
      ∧ u.out = s.out ++ [.packet p (packetBytes (port s p).gen .ack
          ⟨BitVec.ofNat 7 (if tx.kind = .splitDone then ((txnCtx s tx).tt.map (·.addr)).getD (txnCtx s tx).waddr
            else (txnCtx s tx).waddr), tx.dirIn, BitVec.ofNat 4 tx.ep, txnSeq s tx, 0, 0, false, false, false, 0⟩ [])]
      ∧ (port u p).txn = none ∧ (eng u e.val).run = some (advance t) ∧ OtherPorts p s u ∧ OtherEngines e.val s u
      ∧ OtherItems i s u ∧ item? u i = some (if tx.final then { x with
          status := some (if x.moved < itemLen x then stShort else stSuccess), awaitFin := true, ended := true } else x))

/-- The engines and the dispatcher: GETW waits for a grant where the engine has neither list work nor a suspended thread
nor a thread that gave way, and goes on with those otherwise; the grant gives a waiting engine, whose turn it is among those of the same
TICK, the item that R227 chooses, which is its own then and whose flow has affinity to
it and offers it its other items; PUTW saves the progress in the context and returns the item; FIN posts the status that the
wire decided, or the instruction's own where none is (the model's reading, log 55); a transaction still on a held port keeps the item from
being wire-done, and a request of the part's own is gone. -/
def Obligations.EngineWork : Prop :=
  ∀ (s : State) (e : EngId) (t : Thread),
    (InMicrocode s e t → (eng s e.val).walk = [] → (eng s e.val).paused = [] → (eng s e.val).suspended = none →
      exec (.getw e) s = .next (setRun e.val { t with kind := .dispatch, wait := .getw, work := .none_, waitAt := now s } s))
    ∧ (InMicrocode s e t → (eng s e.val).walk ≠ [] ∨ (eng s e.val).paused ≠ [] ∨ (eng s e.val).suspended ≠ none →
      ∃ u, exec (.getw e) s = .next u ∧ OtherEngines e.val s u
        ∧ (eng u e.val).run = (match (eng s e.val).paused with
          | r :: _ => some r
          | [] => if (eng s e.val).walk = [] then (eng s e.val).suspended else some (freshThread .periodic)))
    ∧ (serves s = true → (eng s e.val).run = some t → t.wait = .getw → (eng s e.val).parked = [] → s.front.requests = [] → winsGetw s e.val = true →
      (∀ i x vs, bestItem s e.val = (some i, vs) → item? s i = some x → ∃ u, exec (.getwGrant e) s = .next u
        ∧ (∃ y, item? u i = some y ∧ y.granted = some e.val ∧ y.offer = none ∧ y.visit = 0 ∧ y.visitOver = false
            ∧ (y.func, y.sq, y.raw, y.moved, y.status, y.flowSeq) = (x.func, x.sq, x.raw, x.moved, x.status, x.flowSeq))
        ∧ (∀ f, x.flow = some f → affinityOf u f = some e.val)
        ∧ (∃ r, (eng u e.val).run = some r ∧ r.work = .item i ∧ r.wait = .running ∧ r.pc = (advance t).pc ∧ r.b = t.b)
        ∧ (eng u e.val).gated = false ∧ OtherEngines e.val s u
        ∧ ∀ j, j ≠ i → item? u j = (item? s j).map fun z => if x.flow.isSome ∧ z.flow = x.flow ∧ z.granted = none then { z with offer := some e.val } else z)
      ∧ ((bestItem s e.val).1 = none → exec (.getwGrant e) s = .next s))
    ∧ (∀ i x, live s = true → item? s i = some x → exec (.affinityOfferExpiry i) s = .next (setItem s i { x with offer := none }))
    ∧ (∀ i x c, InMicrocode s e t → t.work = .item i → item? s i = some x → x.pendErr = none → x.status = none →
      tfind s.topo.ctx (workCtx s t.work) = some c → ∃ u, exec (.putw e) s = .next u
        ∧ tfind u.topo.ctx (workCtx s t.work) = some { c with progress := BitVec.ofNat 24 x.moved }
        ∧ item? u i = some { x with granted := none, ended := true, offer := x.flow.bind (affinityOf s) }
        ∧ OtherItems i s u ∧ OtherEngines e.val s u ∧ u.out = s.out
        ∧ (eng u e.val).run = some (advance { t with work := .none_, win := [] }))
    ∧ (∀ i x v, InMicrocode s e t → t.work = .item i → item? s i = some x → x.pendErr = none →
      (isOwn x = false → x.status = none → ∃ u w, exec (.fin e v) s = .next u ∧ Completed i x (v.setWidth 8) s w
        ∧ u = setRun e.val (advance t) (modItem i (fun y => if x.port ∈ t.holds then { y with wireDone := x.wireDone } else y) w))
      ∧ (isOwn x = false → x.status ≠ none →
        exec (.fin e v) s = .next (setRun e.val (advance t) (setItem s i { x with awaitFin := false })))
      ∧ (isOwn x = true → ∃ u, exec (.fin e v) s = .next u ∧ item? u i = none ∧ OtherItems i s u ∧ OtherEngines e.val s u
        ∧ (eng u e.val).run = some (advance t)))

/-- Events and management work: EVT sets the soft latch of its source and no other; an engine that waits in GETW is
interrupted by a pending source that is offered to it above its running level, and goes on behind GETW (the model's reading,
log 64); an item posted by the firmware becomes a work entry of its function, and waits while the share is full; last-gasp service then takes the entry of the
newest item not granted, which goes back to the head of those to be fetched. -/
def Obligations.EngineEvents : Prop :=
  ∀ (s : State) (e : EngId) (t : Thread),
    (∀ v : BitVec 10, InMicrocode s e t → ∃ u, exec (.evt e v) s = .next u ∧ (source u v.toNat).soft = true
      ∧ (∀ k, (source u k).active = (source s k).active ∧ (k ≠ v.toNat → source u k = source s k))
      ∧ (∀ k, evtWord u k = evtWord s k) ∧ (eng u e.val).run = some (advance t) ∧ OtherEngines e.val s u ∧ SameFuncs s u)
    ∧ (live s = true → (eng s e.val).run = some t → t.kind = .dispatch → t.wait = .getw →
      let asks := fun n (c : Source) => isPending s n = true ∧ offered s n = some e.val ∧ runLevel s e.val < c.prio.toNat
      (∀ n c, (n, c) ∈ s.eic.src → asks n c → ∃ u, exec (.engineInterrupt e) s = .next u ∧ OtherEngines e.val s u
        ∧ (eng u e.val).run = some (advance { t with wait := .running }) ∧ (eng u e.val).gated = false)
      ∧ ((∀ n c, (n, c) ∈ s.eic.src → ¬asks n c) → exec (.engineInterrupt e) s = .next s))
    ∧ (∀ b : PostBody, serves s = true → let f := if b.lastGasp then b.func.val else 0
      (shareFull s f = false → ∃ u, exec (.itemPost b) s = .next u ∧ OtherItems s.front.nextItem s u
        ∧ u.front.nextItem = s.front.nextItem + 1
        ∧ ∃ y, item? u s.front.nextItem = some y ∧ y.func = f ∧ y.posted = some b ∧ y.slot = .work ∧ y.port = b.port.val
          ∧ y.level = (if b.lastGasp then 7 else 6) ∧ y.status = none ∧ y.granted = none)
      ∧ (shareFull s f = true → b.lastGasp = false ∨ newestUngranted s f = none → exec (.itemPost b) s = .next s)
      ∧ (∀ k y, shareFull s f = true → b.lastGasp = true → newestUngranted s f = some (k, y) → k ≠ s.front.nextItem →
        ∃ u, exec (.itemPost b) s = .next u ∧ item? u k = none ∧ (sq u y.func y.sq).inval = (y.index, none) :: (sq s y.func y.sq).inval
          ∧ (∀ j, j ≠ k → j ≠ s.front.nextItem → item? u j = item? s j)
          ∧ ∃ z, item? u s.front.nextItem = some z ∧ z.func = f ∧ z.posted = some b ∧ z.level = 7))

/-- Scripts in an engine: SCALL enters a declared hook of the script that the context binds, once in a visit or service, with
a zeroed scratch and the budget that remains; SRET leaves it for the microcode, where an error that waited for the ERROR hook is counted
after CONTINUE (`flushWork`), and with DONE decides the open transfer's
status as B15 says; a budget that has run out, or a bad SRET, is SCRIPT_FAULT: the transfer ends, what the engine has queued on the lane is dropped, `ENG.SCR_LAST` and
`ENG.SCR_FAULTS` note it, the microcode goes on and ENG's event 0 is raised. The cause of a bad SRET is the model's reading
(log 43). -/
def Obligations.ScriptHooks : Prop :=
  ∀ (s : State) (e : EngId) (t : Thread) (v : BitVec 10),
    let leaves := fun (r : ScriptRun) (t : Thread) => { t with
      script := none, pc := r.back, loops := t.loops.filter fun f => f.first.toNat < 0x2000 }
    let stops := fun (cause : Nat) (r : ScriptRun) (t : Thread) (u : State) =>
      (eng u e.val).run = some { leaves r t with wait := .running } ∧ u.eng.scrFaults = s.eng.scrFaults + 1
      ∧ u.eng.scrLast = BitVec.ofNat 32 (r.number + e.val * 2 ^ 8 + cause * 2 ^ 12 + (workHandle s t.work).toNat * 2 ^ 16)
      ∧ Raised (evtKey .eng) 0 s u ∧ OtherEngines e.val s u
      ∧ (∀ k, port u k = if k = workPort s t.work then { port s k with lane := (port s k).lane.filter fun o => o.1 != e.val } else port s k)
      ∧ ∀ i x, t.work = .item i → item? s i = some x → isOwn x = false → x.status = none →
          ∃ y, item? u i = some y ∧ y.status = some stScriptFault ∧ y.awaitFin = false ∧ y.raw = x.raw
    (InMicrocode s e t → ∀ c, tfind s.eng.scripts (boundScript t) = some c → boundScript t ≠ 0 → bit c.hooks (field v 0 2) = true →
      field v 0 2 < 3 → field v 0 2 ∉ t.entered → (isServiceWork t.work = true → bit c.flags 0 = true) →
      ∃ u, exec (.scall e v) s = .next u ∧ OtherEngines e.val s u ∧ (eng u e.val).scratch = []
        ∧ (eng u e.val).run = some { advance t with
            script := some ⟨boundScript t, field v 0 2, BitVec.ofNat 17 (c.wcCycles - t.used), (advance t).pc⟩
            entered := field v 0 2 :: t.entered, pc := BitVec.ofNat 14 (c.base + c.entries.getD (field v 0 2) 0) })
    ∧ (InMicrocode s e t → tfind s.eng.scripts (boundScript t) = none ∨ field v 0 2 ∈ t.entered →
        exec (.scall e v) s = .next (setRun e.val (advance t) s))
    ∧ (∀ r, CanRun s e t 2 → t.script = some r →
      (field v 0 2 = 0 → r.hook ≠ 2 → exec (.sret e v) s = .next (setRun e.val (leaves r (spend 2 t)) s))
      ∧ (field v 0 2 = 0 → r.hook = 2 → exec (.sret e v) s = .next (flushWork t.work (setRun e.val (leaves r (spend 2 t)) s)))
      ∧ (∀ i x, field v 0 2 = 1 → scriptStatus (breg t 15) = true → t.work = .item i → item? s i = some x →
          x.status = none ∨ x.awaitFin = true → exec (.sret e v) s = .next (setRun e.val (leaves r (spend 2 t))
            (setItem s i { x with status := some (breg t 15), awaitFin := true, stopAs := none, ended := true, pendErr := none })))
      ∧ (2 ≤ field v 0 2 ∨ (field v 0 2 = 1 ∧ scriptStatus (breg t 15) = false) → (port s (workPort s t.work)).txn = none →
          ∃ u, exec (.sret e v) s = .next u ∧ stops 5 r t u))
    ∧ (∀ r, live s = true → (eng s e.val).run = some t → t.script = some r → (port s (workPort s t.work)).txn = none →
        ∃ u, exec (.scriptBudgetExpiry e) s = .next u ∧ stops 1 r t u)

/-- The engines as a whole: an engine that stopped runs its own entries again when it rejoins; the clock of one that has no
ready thread and no interrupt offered is gated; and at φ a floating reservation's engine (its fallback where it is retired or stopped) puts the reservation before its
walk, its oldest transfer bound to this microframe, suspending a dispatch thread that is not within a transaction; on a halted endpoint the transfer completes STALL. With no transfer
waiting the instant is noted, for a compare instant at φ itself. -/
def Obligations.EngineStates : Prop :=
  ∀ (s : State) (e : EngId),
    (live s = true → (eng s e.val).stopped = true → exec (.engineRejoin e) s = .next (modEng e.val (fun x => { x with stopped := false }) s))
    ∧ (live s = true → clockNeeded s e.val = false → exec (.engineClockGate e) s = .next (modEng e.val (fun x => { x with gated := true }) s))
    ∧ (clockNeeded s e.val = true → exec (.engineClockGate e) s = .next s)
    ∧ (∀ p : PortId, serves s = true → tget ([] : List Nat) s.sch.floatWait p.val = [] → exec (.floatStart p) s = .next (
        if (floatOf s p.val).isSome then runLane p.val { s with sch := { s.sch with floatIdle := tput s.sch.floatIdle p.val (now s) } } else s))
    ∧ (∀ (p : PortId) r g i x rest, serves s = true → floatOf s p.val = some (r, g) →
      tget ([] : List Nat) s.sch.floatWait p.val = i :: rest → item? s i = some x →
      (resHalted s r g = true → isOwn x = false → x.status = none → ∃ u, exec (.floatStart p) s = .next u ∧ Completed i x 0x02
        { s with sch := { s.sch with floatWait := tput s.sch.floatWait p.val rest, floatIdle := tdel s.sch.floatIdle p.val } } u)
      ∧ ∀ t, resHalted s r g = false → g.engine = e.val →
      (eng s e.val).retired = false → (eng s e.val).stopped = false → (eng s e.val).run = some t → (eng s e.val).paused = [] →
      ∃ u, exec (.floatStart p) s = .next u ∧ item? u i = some { x with service := some (absUframe s) } ∧ OtherItems i s u
        ∧ tget ([] : List Nat) u.sch.floatWait p.val = rest ∧ (eng u e.val).walk = r :: (eng s e.val).walk ∧ OtherEngines e.val s u
        ∧ (pstate u r).tokens = 0 ∧ (pstate u r).good = 0 ∧ (pstate u r).seq = (pstate s r).seq
        ∧ (t.kind = .periodic ∨ midTxn s e.val = true → (eng u e.val).run = some t)
        ∧ (t.kind = .dispatch → midTxn s e.val = false → (eng u e.val).run = some (freshThread .periodic)
          ∧ ∃ w, (eng u e.val).suspended = some { t with wait := w, holds := [] }))

/-- Script commands from secure PF0 software or PF0: SCRIPT_LOAD of an image that passes the rules puts its words in the
lowest run of free words and answers the computed costs; refusals answer their code and, for the rules, the first one that
fails. SCRIPT_UNLOAD removes a script that nothing names. SCRIPT_BIND gives a device its script in all its contexts, or adds
an identity rule; SCRIPT_UNBIND takes them away. The order of the refusals is the model's choice (log 65). -/
def Obligations.ScriptCommands : Prop :=
  ∀ (s : State) (ctx : CmdCtx) (n : Byte) (image : List Byte) (b : BindBody), live s = true →
    let ans := fun (code r rule c l : Nat) (u : State) => Answered ctx code (scriptReply r rule c l) s u
    let k := checkImage image
    (sender ctx.chan ≠ 0 → ∃ u, exec (.scriptLoad ctx n image) s = .next u ∧ ans 0x50 0x0B 0 0 0 u ∧ u.eng = s.eng)
    ∧ (sender ctx.chan = 0 → n.toNat = 0 ∨ tfind s.eng.scripts n.toNat ≠ none → ∃ u, exec (.scriptLoad ctx n image) s = .next u ∧ ans 0x50 1 0 0 0 u ∧ u.eng = s.eng)
    ∧ (sender ctx.chan = 0 → n.toNat ≠ 0 → tfind s.eng.scripts n.toNat = none →
      (k.1 ≠ 0 → ∃ u, exec (.scriptLoad ctx n image) s = .next u ∧ ans 0x50 3 k.1 k.2.1 k.2.2 u ∧ u.eng = s.eng)
      ∧ (k.1 = 0 → scriptSpace s (imgField image 6 2) = none → ∃ u, exec (.scriptLoad ctx n image) s = .next u ∧ ans 0x50 2 0 k.2.1 k.2.2 u ∧ u.eng = s.eng)
      ∧ (∀ a, k.1 = 0 → scriptSpace s (imgField image 6 2) = some a → ∃ u, exec (.scriptLoad ctx n image) s = .next u ∧ ans 0x50 0 0 k.2.1 k.2.2 u
        ∧ tfind u.eng.scripts n.toNat = some (scriptFrom image a)
        ∧ (∀ m, m ≠ n.toNat → tfind u.eng.scripts m = tfind s.eng.scripts m)
        ∧ (∀ j w, (imgWords image)[j]? = some w → tget 0 u.eng.imem (a + j) = w)
        ∧ (∀ j, j < a ∨ a + (imgWords image).length ≤ j → tget 0 u.eng.imem j = tget 0 s.eng.imem j)
        ∧ u.eng.eng = s.eng.eng))
    ∧ (sender ctx.chan = 0 → tfind s.eng.scripts n.toNat ≠ none →
      (scriptBound s n.toNat = true → ∃ u, exec (.scriptUnload ctx n) s = .next u ∧ ans 0x51 5 0 0 0 u ∧ u.eng = s.eng)
      ∧ (scriptBound s n.toNat = false → ∃ u, exec (.scriptUnload ctx n) s = .next u ∧ ans 0x51 0 0 0 0 u
        ∧ u.eng = { s.eng with scripts := tdel s.eng.scripts n.toNat }))
    ∧ (sender ctx.chan = 0 → tfind s.eng.scripts n.toNat = none → ∃ u, exec (.scriptUnload ctx n) s = .next u ∧ ans 0x51 4 0 0 0 u ∧ u.eng = s.eng)
    ∧ (∀ c d, let num := field b.handle 0 12
      sender ctx.chan = 0 → tfind s.eng.scripts b.number.toNat = some c → b.byIdentity = 0 → bindDevBar s b.handle = none →
      dev? s num = some d →
      let given := fun (m : Nat) (u : State) => dev? u num = some { d with script := m } ∧ (∀ j, j ≠ num → dev? u j = dev? s j)
        ∧ (∀ j x, tfind s.topo.ctx j = some x → tfind u.topo.ctx j = some (if j / 32 = num then { x with script := m } else x))
      (bindBar d c = none → ∃ u, exec (.scriptBind ctx b) s = .next u ∧ ans 0x52 0 0 0 0 u ∧ given b.number.toNat u)
      ∧ (∀ r, bindBar d c = some r → ∃ u, exec (.scriptBind ctx b) s = .next u ∧ ans 0x52 r 0 0 0 u ∧ u.topo = s.topo)
      ∧ (d.script = b.number.toNat → ∃ u, exec (.scriptUnbind ctx b) s = .next u ∧ ans 0x53 0 0 0 0 u ∧ given 0 u))
    ∧ (sender ctx.chan = 0 → tfind s.eng.scripts b.number.toNat ≠ none → b.byIdentity ≠ 0 →
      (s.eng.rules.length < 64 → ∃ u, exec (.scriptBind ctx b) s = .next u ∧ ans 0x52 0 0 0 0 u
        ∧ u.eng.rules = s.eng.rules ++ [ruleOf b])
      ∧ (64 ≤ s.eng.rules.length → ∃ u, exec (.scriptBind ctx b) s = .next u ∧ ans 0x52 0x0C 0 0 0 u ∧ u.eng.rules = s.eng.rules)
      ∧ (∃ u, exec (.scriptUnbind ctx b) s = .next u ∧ ans 0x53 0 0 0 0 u ∧ u.eng.rules = s.eng.rules.filter (· != ruleOf b)))

/-- The answers to a bulk transaction, seen from the engine that waits on its port: each ends the transaction, gives the engine
the result's code, and changes the transfer as the spec says. NAK starts its error count afresh and ends the visit; an ACK in its
window moves an OUT transfer on by the packets it covers, with SUCCESS behind the last byte; STALL ends it; ERR 1 is XACT_ERR, ERR 5
BABBLE, and the other codes, no answer in time and a bad packet count one error, XACT_ERR at the limit, unless an ERROR hook comes
before the count; the first NYET lets the done be repeated in the next unit. A late answer keeps the legacy pair driven. Other items
stay; without a translator no request is added to them. -/
def Obligations.WireAnswers : Prop :=
  ∀ (s : State) (p : PortId) (e : Nat) (t : Thread) (m : Byte) (o : BitVec 14) (tx : Txn) (i : Nat) (x : Item) (h : Hdr),
    Awaits s p.val e t m o tx i x → i < s.front.nextItem →
    let g := txnGen s tx
    let n := seqDist g tx.seq0 h.seq
    let ends := fun (code : Nat) (y : Item) (u : State) => Ended p.val e code t m o s u ∧ item? u i = some y
    let strikes := fun (code : Nat) (u : State) =>
      ends code (if errorHook s tx then { x with pendErr := some tx } else struck g x) u
        ∧ (∀ j, j ≠ i → j < s.front.nextItem → item? u j = item? s j)
        ∧ ((txnCtx s tx).tt = none → OtherItems i s u)
    (fromPartner s tx h = true → tx.kind = .bulkIn ∨ tx.kind = .bulkOut →
      (∃ u, exec (.nak p h) s = .next u ∧ ends 1 { x with errs := 0, visitOver := true, doneAt := none, nyet := false } u
        ∧ OtherItems i s u ∧ u.out = s.out)
      ∧ (isOwn x = false ∨ tx.ep = 0 → ∃ u, exec (.stall p h) s = .next u ∧ Ended p.val e 2 t m o s u
        ∧ (∃ y, item? u i = some y ∧ y.status = some stStall)
        ∧ (tx.ep ≠ 0 → ∀ c, ctx? s tx.num tx.ep tx.dirIn = some c →
            ∃ d, ctx? u tx.num tx.ep tx.dirIn = some d ∧ d.halted = true))
      ∧ (h.tspec = 1 → ∃ u, exec (.err p h) s = .next u ∧ ends 4 (decided stXactErr x) u ∧ OtherItems i s u)
      ∧ (h.tspec = 5 → ∃ u, exec (.err p h) s = .next u ∧ ends 4 (decided stBabble x) u ∧ OtherItems i s u)
      ∧ (h.tspec.toNat ∈ [2, 3, 4, 6] → tx.dirIn = false ∨ tx.stored = 0 →
          ∃ u, exec (.err p h) s = .next u ∧ strikes 4 u))
    ∧ (fromPartner s tx h = true → tx.kind = .bulkOut → 1 ≤ n → n ≤ tx.sent →
      ∃ u, exec (.ack p h) s = .next u ∧ OtherItems i s u ∧ u.out = s.out
        ∧ (let y := { x with errs := 0, moved := x.moved + outBytes s tx x n, visit := x.visit + n }
          ends 0 (if itemLen x ≤ y.moved then decided stSuccess y else y) u)
        ∧ (tx.ep ≠ 0 → ∀ c, ctx? s tx.num tx.ep tx.dirIn = some c →
            ∃ d, ctx? u tx.num tx.ep tx.dirIn = some d ∧ d.seq = h.seq ∧ d.errcnt = 0))
    ∧ (tx.receiving = false → ∀ driven,
      ∃ u, exec (.responseTimeout p driven) s = .next u ∧ strikes 6 u
        ∧ (port u p.val).driven = (driven && !serdes (port s p.val).gen)
        ∧ (port u p.val).timeouts = (if (port s p.val).timeouts = 0xFFFF then 0xFFFF else (port s p.val).timeouts + 1))
    ∧ (fromPartner s tx h = true → tx.kind = .splitDone → serdes (port s p.val).gen = true → x.nyet = false →
      ∃ u, exec (.nyet p h) s = .next u ∧ ends 3 { x with nyet := true, doneAt := some (unitAhead s g 1) } u ∧ OtherItems i s u)
    ∧ (tx.dirIn = false → tx.kind = .bulkOut → ∃ u, exec (.discardedPacket p) s = .next u ∧ strikes 7 u
        ∧ (port u p.val).check = (if (port s p.val).check = 0xFFFF then 0xFFFF else (port s p.val).check + 1))

/-- Data and times of the line. A good DATA packet in sequence that ends its burst is stored behind what the transfer has, the
sequence moves by one, the error count starts afresh, the engine has result 5 and an ACK falls due; so it is with a burst gap
limit behind the packets of a burst on N4 and N5. A control transfer that exceeds its time completes XACT_ERR, at once or behind
the transaction on the wire. A frame packet that was held goes out on an idle line whose port sends SOF, and what the lane
has queued follows; a line still driven at the limit disables its port with BABBLE_DIS. -/
def Obligations.WireDataAndTimes : Prop :=
  ∀ (s : State) (p : PortId) (e : Nat) (t : Thread) (m : Byte) (o : BitVec 14) (tx : Txn) (i : Nat) (x : Item) (h : Hdr)
    (l : List Byte) (crc : U32),
    (Awaits s p.val e t m o tx i x → tx.kind = .bulkIn → tx.dirIn = true →
      (h.len.toNat ≤ (txnCtx s tx).mps.toNat → tx.sent < tx.count → l.length = h.len.toNat →
        payloadCrc (port s p.val).gen l = crc.toNat → fromPartner s tx h = true → tx.bad = false → h.seq = txnSeq s tx →
        x.posted = none → l.length ≤ itemLen x - x.moved →
        let final := decide (l.length = itemLen x - x.moved) || decide (l.length < (txnCtx s tx).mps.toNat)
        (serdes (port s p.val).gen = false ∨ h.last = true ∨ tx.count ≤ tx.sent + 1 ∨ final = true) →
        ∃ u, exec (.dataPacket p h l crc false) s = .next u ∧ OtherItems i s u ∧ OtherPorts p.val s u ∧ Told e 5 t m o u
          ∧ (∃ y, item? u i = some y ∧ y.moved = x.moved + l.length ∧ y.errs = 0 ∧ y.status = none ∧ y.visit = x.visit + 1
              ∧ y.segs = addSeg x.moved l.length x.segs)
          ∧ (∃ y, (port u p.val).txn = some y ∧ y.stored = tx.stored + 1 ∧ y.sent = tx.sent + 1 ∧ y.ackDue = true
              ∧ y.waiting = false ∧ y.final = (tx.final || final))
          ∧ u.out = s.out)
      ∧ (serdes (port s p.val).gen = true → tx.receiving = true → 0 < tx.stored →
        ∃ u, exec (.burstGapExpiry p) s = .next u ∧ OtherItems i s u ∧ OtherPorts p.val s u ∧ Told e 5 t m o u
          ∧ item? u i = some { x with errs := 0 }
          ∧ (port u p.val).txn = some { tx with ackDue := true, waiting := false } ∧ u.out = s.out))
    ∧ (live s = true → item? s i = some x → itemCtrl x = true → x.begun = true → x.status = none →
      (onWire s i = true → exec (.controlTimeLimit i) s = .next (setItem s i { x with stopAs := some stXactErr }))
      ∧ (onWire s i = false → isOwn x = false →
          ∃ u, exec (.controlTimeLimit i) s = .next u ∧ Completed i x stXactErr s u))
    ∧ (laneUp s p.val = true → (port s p.val).sofHold = true →
      (let n := BitVec.ofNat 11 s.tb.epoch.toNat
        let sof := Output.packet p.val (packetBytes (port s p.val).gen .sof { Hdr0 with len := n } [])
        let usof := fun k => Output.packet p.val
          (packetBytes (port s p.val).gen .usof { Hdr0 with len := n, tspec := BitVec.ofNat 8 k } [])
        ∃ u, exec (.sofDeferredSend p) s = .next (runLane p.val u) ∧ ((port s p.val).lane = [] → runLane p.val u = u)
          ∧ OtherPorts p.val s u ∧ port u p.val = { port s p.val with sofHold := false, driven := false }
          ∧ u.out = s.out ++ (if sofPort s p.val = false then [] else
              if s.tb.uframe = 0 then sof :: (if 2 ≤ genCode (port s p.val).gen then [usof 0] else []) else [usof s.tb.uframe]))
      ∧ (serdes (port s p.val).gen = false → ∃ u, exec (.sofHoldLimit p) s = .next u
        ∧ (port u p.val).enabled = false ∧ (port u p.val).babbleDis = true ∧ (port u p.val).admin = false
        ∧ (port u p.val).txn = none ∧ bit (evtWord u p.val) 11 = true))

/-- A root port from connect to reset. A present connect indication starts the debounce of an attachable port with power-good,
and an absent one is noted; a debounce that ends goes on to detection where GEN_MAX and the far end allow N4 or N5, else to
reset signalling (driven unless the die's legacy transceivers are high-impedance), and is held while reports are full; a detect window ends in training, in legacy reset, or idle; training is
tried three times. The mule's power-good starts the debounce, its power-fail opens the last-gasp opportunity, and its removal
and trip tear the slot's tree down. That the legacy bias stands for CONNECT_CHANGE, and a port held after failure for waiting,
are the model's readings (log 46, 47). -/
def Obligations.AttachToReset : Prop :=
  ∀ (s : State) (p : PortId),
    let x := port s p.val
    let going := fun (u : State) (y : Port) => port u p.val = y ∧ OtherPorts p.val s u
    (serves s = true → x.enabled = false → x.pg = true → attaches x = true → x.attach = .idle ∨ x.attach = .debounce →
      ∀ present : Bool, ∃ u, exec (.connectChange (.root p) present) s = .next u ∧ u.out = s.out
        ∧ going u { x with bias := present, farEnd := x.farEnd && present, attach := .debounce, genUse := genCap x, tries := 0, trainings := 0 })
    ∧ (serves s = true → x.enabled = true → ∀ present : Bool, exec (.connectChange (.root p) present) s
        = .next (modPort p.val (fun y => { y with bias := present }) s))
    ∧ (serves s = true → x.attach = .debounce →
      (connectOf x = false → ∃ u, exec (.attachDebounceEnd (.root p)) s = .next u ∧ u.out = s.out ∧ going u { x with attach := .idle })
      ∧ (connectOf x = true → reportsFull s = true → ∃ u, exec (.attachDebounceEnd (.root p)) s = .next u ∧ u.out = s.out
          ∧ going u { x with attach := .held })
      ∧ (connectOf x = true → reportsFull s = false → 3 ≤ genCap x → ∃ u, exec (.attachDebounceEnd (.root p)) s = .next u
          ∧ u.out = s.out ++ [.line p.val .detectPulse] ∧ going u { x with genUse := genCap x, attach := .detect, link := .detect })
      ∧ (connectOf x = true → reportsFull s = false → genCap x ≤ 2 → ∃ u, exec (.attachDebounceEnd (.root p)) s = .next u
          ∧ (highZ s p.val = false → u.out.getLast? = some (.line p.val .reset)) ∧ (port u p.val).attach = .signalling ∧ (port u p.val).resetting = true))
    ∧ (serves s = true → x.attach = .detect →
      (x.farEnd = true → ∃ u, exec (.detectWindowEnd p) s = .next u ∧ u.out = s.out ++ [.line p.val .trainingSets]
          ∧ going u { x with attach := .training, link := .polling })
      ∧ (x.farEnd = false → x.bias = true → ∃ u, exec (.detectWindowEnd p) s = .next u
          ∧ (highZ s p.val = false → u.out.getLast? = some (.line p.val .reset)) ∧ (port u p.val).attach = .signalling ∧ (port u p.val).resetting = true)
      ∧ (x.farEnd = false → x.bias = false → ∃ u, exec (.detectWindowEnd p) s = .next u ∧ u.out = s.out ∧ going u (portIdle x)))
    ∧ (serves s = true → x.link = .polling ∨ x.link = .config →
      (x.trainings < 2 → ∃ u, exec (.trainingTimeout p) s = .next u ∧ u.out = s.out ++ [.line p.val .detectPulse]
          ∧ OtherPorts p.val s u ∧ (port u p.val).trainings = x.trainings + 1 ∧ (port u p.val).link = .detect)
      ∧ (2 ≤ x.trainings → x.bias = false → ∃ u, exec (.trainingTimeout p) s = .next u ∧ (port u p.val).held = true
          ∧ (port u p.val).enabled = false ∧ (port u p.val).attach = .idle ∧ bit (evtWord u p.val) 9 = true))
    ∧ (live s = true →
      (∃ u, exec (.muleRemovalEvent p) s = .next u ∧ (port u p.val).pg = false ∧ (port u p.val).lastGasp = false
        ∧ (port u p.val).enabled = false ∧ (port u p.val).txn = none)
      ∧ (∃ u, exec (.muleTripEvent p) s = .next u ∧ (port u p.val).pg = false ∧ (port u p.val).lastGasp = false
        ∧ (port u p.val).enabled = false ∧ (port u p.val).txn = none)
      ∧ (∃ u, exec (.mulePfwEvent p) s = .next u ∧ going u { x with lastGasp := true } ∧ Raised (evtKey (.slot p)) 5 s u ∧ SameFuncs s u)
      ∧ (boundPorts s p.val = [] → x.admin = true → x.enabled = false → x.attach = .idle → ∃ u, exec (.mulePowerGoodEvent p) s = .next u
          ∧ going u { x with pg := true, held := false, attach := .debounce, genUse := genCap x, tries := 0, trainings := 0 }))

/-- A root port from reset to its generation: the end of reset signalling opens the announce window of a legacy port and the
detection of an N4 or N5 one; the highest generation announced and allowed is confirmed, N1 without confirmation; then the port
is enabled at it, its error counts at 0, and reset recovery runs. -/
def Obligations.AttachResetEnds : Prop :=
  ∀ (s : State) (p : PortId), serves s = true →
    let x := port s p.val
    let recovers := fun (g : Gen) (u : State) => OtherPorts p.val s u ∧ port u p.val = { x with
      gen := g, enabled := true, resetting := false, attach := .recovery, trainings := 0, check := 0
      timeouts := 0, babbles := 0, linkErrTotal := 0, recoveries := 0, commanded := false }
    (x.attach = .signalling → serdesSide x = false → ∃ u, exec (.resetSignallingEnd (.root p)) s = .next u ∧ u.out = s.out
      ∧ OtherPorts p.val s u ∧ port u p.val = { x with attach := .announce })
    ∧ (x.attach = .signalling → serdesSide x = true → ∃ u, exec (.resetSignallingEnd (.root p)) s = .next u
      ∧ u.out = s.out ++ [.line p.val .detectPulse] ∧ OtherPorts p.val s u ∧ port u p.val = { x with attach := .detect, link := .detect })
    ∧ (x.attach = .announce → connectOf x = true →
      (∀ g, g = .n2 ∨ g = .n3 → genCode g ≤ x.genUse → ∃ u, exec (.announceWindowEnd p (some g)) s = .next u
        ∧ u.out = s.out ++ [.line p.val (.confirm g)] ∧ OtherPorts p.val s u
        ∧ port u p.val = { x with attach := .confirm, confirm := g })
      ∧ (∀ a : Option Gen, a = none ∨ a = some .n1 → ∃ u, exec (.announceWindowEnd p a) s = .next u ∧ recovers .n1 u)
      ∧ (∀ g, g = .n4 ∨ g = .n5 → exec (.announceWindowEnd p (some g)) s = .next (enumFail (.root p) s)))
    ∧ (x.attach = .confirm → ∃ u, exec (.genConfirmEnd p) s = .next u ∧ recovers x.confirm u
      ∧ (x.commanded = true → bit (evtWord u p.val) 2 = true))

/-- Enumeration. After reset recovery a new device takes the handle number that comes next, the lowest free wire address and
the open context of endpoint 0, and SET-ADDRESS is asked for at address 0; a device reset keeps number and address. After the
address settling time the identity is asked for at the new address. A transfer of enumeration that does not complete is a failure;
the identity of a device without endpoints is answered by SET-CONFIG, of one with endpoints by GET-DESCRIPTOR of them. Each request
is an item of level 6 in PF0's share, at work at once where nothing of the part's own waits and the share has room. Hub ports are
powered in order, 2 ms apart. A device that waits for its old number too long keeps its reserved one. The backing index of the
context is a free value (log 21); that the row ENUM_TRANSFER_DONE gives a transfer's result is the model's reading (log 45). -/
def Obligations.AttachEnumeration : Prop :=
  ∀ (s : State) (p : PortId),
    let x := port s p.val
    let turns := fun (e : Enum) (u : State) => port u p.val = { x with enum := some e } ∧ OtherPorts p.val s u ∧ u.out = s.out
    let asks := fun (num : Nat) (a : Option U64) (u : State) => Asks s.front.nextItem num a u
    (serves s = true → x.attach = .recovery → x.enum = none → Unasked s →
      (∀ n t a, devAt s (.root p) = none → takeHandle s = some (n, t) → freeAddr s p.val = some a → freeCtxs s ≠ 0 →
        ∃ u, exec (.resetRecoveryEnd (.root p)) s = .next u
          ∧ turns { loc := .root p, num := n, waddr := a, step := .setAddress } u ∧ asks n (setupBits 2 0 a 0 0) u
          ∧ (handle u n).use = .reserved ∧ (handle u n).gen = (handle s n).gen ∧ u.free = s.free + 1
          ∧ ∃ c, ctx? u n 0 false = some c ∧ c.isOpen = true ∧ c.waddr = 0 ∧ c.mps = BitVec.ofNat 11 (maxPayload x.gen)
            ∧ c.index = Config.contextIndex s.free)
      ∧ (∀ n d c, devAt s (.root p) = some (n, d) → ctx? s n 0 false = some c → ∃ u, exec (.resetRecoveryEnd (.root p)) s = .next u
          ∧ turns { loc := .root p, num := n, waddr := d.waddr, step := .setAddress, again := true } u
          ∧ asks n (setupBits 2 0 d.waddr 0 0) u ∧ ∃ c, ctx? u n 0 false = some c ∧ c.waddr = 0))
    ∧ (∀ e c, serves s = true → x.enum = some e → Unasked s → ctx? s e.num 0 false = some c →
      (e.step = .addressWait → ∃ u, exec (.enumAddressWaitEnd p) s = .next u
        ∧ turns { e with step := .getIdent } u ∧ asks e.num (setupBits 3 0x80 0x0100 0 32) u)
      ∧ (e.step = .setAddress → ∀ data, ∃ u, exec (.enumTransferDone p .ok data) s = .next u
          ∧ turns { e with step := .addressWait } u ∧ ∃ c, ctx? u e.num 0 false = some c ∧ c.waddr = e.waddr)
      ∧ (∀ data, e.step = .getIdent → e.again = false → identOk (locGen s e.loc) data = true → idIsHub data = false →
          ∃ u, exec (.enumTransferDone p .ok data) s = .next u
            ∧ (idNumEp data = 0 → turns { e with ident := data, step := .setConfig } u ∧ asks e.num (setupBits 4 0 1 0 0) u)
            ∧ (idNumEp data ≠ 0 → turns { e with ident := data, step := .getEps } u
                ∧ asks e.num (setupBits 3 0x80 0x0200 0 (8 * idNumEp data)) u)
            ∧ ∃ c, ctx? u e.num 0 false = some c ∧ c.mps = BitVec.ofNat 11 (idEp0Mps data))
      ∧ (∀ res data, res ≠ .ok → e.step = .setAddress ∨ e.step = .getIdent ∨ e.step = .getHub ∨ e.step = .getEps ∨ e.step = .setConfig →
          exec (.enumTransferDone p res data) s = .next (enumFail e.loc s))
      ∧ (∀ q, e.step = .powerWait q → q < hubPortsOf e.hubDesc → ∃ u, exec (.hubPowerOnWaitEnd p) s = .next u
          ∧ turns { e with step := .portPower (q + 1) } u ∧ asks e.num (setupBits 0x22 6 3 (q + 1) 0) u))
    ∧ (∀ h : Fin 4096, live s = true → s.topo.reuse.any (fun e => e.1 == h.val) = true →
      exec (.handleReuseTimeout h) s
        = .next (complete h.val false { s with topo := { s.topo with reuse := s.topo.reuse.filter fun e => e.1 != h.val } }))

/-- Hubs. A hub status change is read with GET-HUB-STATUS and a power fault raises HUB_POWER. A hub port whose change is C_ENABLE
has its status read with GET-PORT-STATUS, the change cleared, and its enable state noted. A polled hub gets one poll of its
status-change endpoint as an item of level 6, and no second one while that waits or runs; a hub that is admitted at a retry is
polled no more. -/
def Obligations.HubStatus : Prop :=
  ∀ (s : State) (hub : Fin 4096) (d : Device), hub? s hub.val = some d →
    let asks := fun (a : Option U64) (u : State) => Asks s.front.nextItem hub.val a u
    (∀ c, serves s = true → s.front.requests = [] → shareFull s 0 = false → ctx? s hub.val 0 false = some c →
      (∀ m w, bit m 0 = false → exec (.hubStatusChange hub m w []) s = .next s)
      ∧ (∀ m w, bit m 0 = true → (bit w 16 && bit w 0) = false → ∃ u, exec (.hubStatusChange hub m w []) s = .next u
          ∧ asks (setupBits 0x20 0x84 0 0 4) u ∧ u.out = s.out ∧ u.topo.port = s.topo.port ∧ u.topo.dev = s.topo.dev)
      ∧ (∀ m w, bit m 0 = true → (bit w 16 && bit w 0) = true → ∃ u, exec (.hubStatusChange hub m w []) s = .next u
          ∧ asks (setupBits 0x20 0x84 0 0 4) u ∧ (d.port < 64 → bit (evtWord u d.port) 13 = true))
      ∧ (∀ m w v (q : Fin 16), bit m 0 = false → bit m q.val = true → 1 ≤ q.val → q.val ≤ hubPortsOf d.hubDesc →
          field v 16 7 = 2 → bit v 0 = true ∨ (hubPort s hub.val q.val).connect = false →
          shareFull (request hub.val 0x21 0x86 0 q.val 4 s) 0 = false →
          ∃ u, exec (.hubStatusChange hub m w [(q, v)]) s = .next u
            ∧ asks (setupBits 0x21 0x86 0 q.val 4) u ∧ Asks (s.front.nextItem + 1) hub.val (setupBits 0x23 6 0x11 q.val 0) u
            ∧ hubPort u hub.val q.val = { hubPort s hub.val q.val with enabled := bit v 1 }))
    ∧ (serves s = true →
      (d.polled = false ∨ pollPending s hub.val = true → exec (.hubPolled hub) s = .next s)
      ∧ (∀ c, d.polled = true → pollPending s hub.val = false → s.front.requests = [] → shareFull s 0 = false → ctx? s hub.val 0 false = some c →
        ∃ u, exec (.hubPolled hub) s = .next u ∧ asks none u ∧ u.out = s.out
          ∧ u.topo.port = s.topo.port ∧ u.topo.dev = s.topo.dev))
    ∧ (live s = true →
      (d.polled = false → exec (.hubAdmitRetry hub) s = .next s)
      ∧ (admitStatus hub.val s = none → exec (.hubAdmitRetry hub) s = .next s)
      ∧ (∀ t, d.polled = true → admitStatus hub.val s = some t →
          exec (.hubAdmitRetry hub) s = .next (modDev hub.val (fun x => { x with polled := false }) t)))

/-- Link training. In DETECT a pulse goes out, and far-end termination leads to POLLING; a lock of training sets leads from
POLLING to CONFIG, which sends TRAIN_CAP, and from RECOVERY to ACTIVE, with WAKE out of LOWPOWER; TRAIN_CAP leads to the N5
rate once where both ends have it, else to TRAIN_DONE; with TRAIN_DONE sent and received the link is ACTIVE, where a TRAIN_DONE that comes again is replied to again. -/
def Obligations.LinkTraining : Prop :=
  ∀ (s : State) (p : PortId), serves s = true →
    let x := port s p.val
    let cap := ofBool (4 ≤ x.genUse) + 2
    (x.link = .detect →
      exec (.detectPulse p) s = .next { s with out := s.out ++ [.line p.val .detectPulse] }
      ∧ (∃ u, exec (.farEndTermination p) s = .next u ∧ PortMoves p.val { x with
          farEnd := true, link := .polling, attach := if x.attach == .detect then .training else x.attach } [.line p.val .trainingSets] s u))
    ∧ (x.link ≠ .detect → x.enabled = true → (∃ u, exec (.farEndTermination p) s = .next u ∧ PortMoves p.val { x with farEnd := true } [] s u))
    ∧ (x.link = .polling → (∃ u, exec (.trainingSetLock p) s = .next u ∧ PortMoves p.val { x with
          link := .config, capGot := false, doneSent := false, doneGot := false, cmdWait := some (0x10, 1) } [linkCmd x.gen p.val 0x10 cap] s u))
    ∧ (x.link = .recovery → x.enabled = true →
      let y := { x with link := .active, trainings := 0, cmdWait := none, capGot := false, doneSent := false, doneGot := false }
      (x.fromLowPower = false → (∃ u, exec (.trainingSetLock p) s = .next u ∧ PortMoves p.val y [] s u))
      ∧ (x.fromLowPower = true → (∃ u, exec (.trainingSetLock p) s = .next u ∧ PortMoves p.val { y with fromLowPower := false, cmdWait := some (0x30, 1) } [linkCmd x.gen p.val 0x30 0] s u)))
    ∧ (x.link ≠ .polling → x.link ≠ .recovery → exec (.trainingSetLock p) s = .next s)
    ∧ (x.link = .config → ∀ param : BitVec 11,
      let n5 := bit param 0 && decide (4 ≤ x.genUse) && !x.rateN5
      (x.capGot = true → exec (.trainCap p param) s = .next { s with out := s.out ++ [linkCmd x.gen p.val 0x10 cap] })
      ∧ (x.capGot = false → n5 = true → (∃ u, exec (.trainCap p param) s = .next u ∧ PortMoves p.val { x with
            partnerN5 := true, rateN5 := true, link := .polling, cmdWait := none } [.line p.val .trainingSets] s u))
      ∧ (x.capGot = false → n5 = false → x.doneGot = false → (∃ u, exec (.trainCap p param) s = .next u ∧ PortMoves p.val { x with
            capGot := true, partnerN5 := bit param 0, doneSent := true, cmdWait := some (0x11, 1) } [linkCmd x.gen p.val 0x11 0] s u)))
    ∧ (x.link = .active → exec (.trainDone p) s = .next { s with out := s.out ++ [linkCmd x.gen p.val 0x11 0] })
    ∧ (x.link = .config →
      (x.doneSent = true → x.enabled = true → (∃ u, exec (.trainDone p) s = .next u ∧ PortMoves p.val { x with
          link := .active, trainings := 0, cmdWait := none, capGot := false, doneSent := false, doneGot := false } [] s u))
      ∧ (x.doneSent = true → x.enabled = false → ∃ u, exec (.trainDone p) s = .next u ∧ (port u p.val).link = .active
          ∧ (port u p.val).enabled = true ∧ (port u p.val).attach = .recovery
          ∧ (port u p.val).gen = if x.rateN5 then .n5 else .n4)
      ∧ (x.doneSent = false → ∃ u, exec (.trainDone p) s = .next u ∧ u.out = s.out ∧ OtherPorts p.val s u
          ∧ (port u p.val).doneGot = true ∧ (port u p.val).link = .config))

/-- Low power, commands without a reply, and the loss of a link. LP_ENTER is answered LP_REJECT while a transaction or a
remote wake is under way, else LP_ACCEPT and electrical idle; LP_ACCEPT and LP_REJECT end the port's own LP_ENTER; WAKE is answered
WAKE_ACK; a command without a reply is sent again up to three times, then the link enters RECOVERY, as after sixteen errors and
at a wake tone; RECOVERY that lasts too long falls to DETECT; a connect bias or far-end termination lost too long is a disconnect.
That a command is sent four times in all, and that the sixteen errors are counted, are the model's readings (log 44, 57). -/
def Obligations.LinkPowerAndLoss : Prop :=
  ∀ (s : State) (p : PortId), serves s = true →
    let x := port s p.val
    let tells := fun code => { s with out := s.out ++ [linkCmd x.gen p.val code 0] }
    let recovers := fun (y : Port) => { y with link := .recovery, cmdWait := none, recoveries := if x.recoveries = 255 then 255 else x.recoveries + 1 }
    (x.link = .active →
      ((x.txn.isSome || x.wakeAt.isSome) = true → exec (.lpEnter p) s = .next (tells 0x22))
      ∧ ((x.txn.isSome || x.wakeAt.isSome) = false → (∃ u, exec (.lpEnter p) s = .next u ∧ PortMoves p.val { x with link := .lowpower } [linkCmd x.gen p.val 0x21 0, .line p.val .idle] s u))
      ∧ exec (.wake p) s = .next (tells 0x31)
      ∧ (x.txn = none → (∃ u, exec (.linkErrorLimit p) s = .next u ∧ PortMoves p.val (recovers { x with linkErrTotal := BitVec.ofNat 16 (min 0xFFFF (x.linkErrTotal.toNat + 16)) }) [.line p.val .trainingSets] s u))
      ∧ (x.silence = true → x.suspended = true → (∃ u, exec (.suspendSilenceExpiry p) s = .next u ∧ PortMoves p.val { x with silence := false, cmdWait := some (0x20, 1) } [linkCmd x.gen p.val 0x20 0] s u)))
    ∧ (∀ n, x.cmdWait = some (0x20, n) →
      (∃ u, exec (.lpAccept p) s = .next u ∧ PortMoves p.val { x with link := .lowpower, cmdWait := none } [.line p.val .idle] s u) ∧ (∃ u, exec (.lpReject p) s = .next u ∧ PortMoves p.val { x with cmdWait := none } [] s u))
    ∧ (∀ n, x.cmdWait = some (0x30, n) → (∃ u, exec (.wakeAck p) s = .next u ∧ PortMoves p.val { x with cmdWait := none } [] s u))
    ∧ (x.cmdWait = none → (∃ u, exec (.wakeAck p) s = .next u ∧ PortMoves p.val x [] s u) ∧ exec (.linkCmdTimeout p) s = .next s)
    ∧ (∀ code n, x.cmdWait = some (code, n) →
      (n < 4 → (∃ u, exec (.linkCmdTimeout p) s = .next u ∧ PortMoves p.val { x with cmdWait := some (code, n + 1) } [linkCmd x.gen p.val code (if code = 0x10 then ofBool (4 ≤ x.genUse) + 2 else 0)] s u))
      ∧ (4 ≤ n → x.txn = none → (∃ u, exec (.linkCmdTimeout p) s = .next u ∧ PortMoves p.val (recovers x) [.line p.val .trainingSets] s u)))
    ∧ (x.link = .lowpower → x.txn = none → (∃ u, exec (.wakeTone p) s = .next u ∧ PortMoves p.val (recovers { x with fromLowPower := true }) [.line p.val .trainingSets] s u))
    ∧ (x.link = .recovery → x.trainings < 2 → ∃ u, exec (.recoveryTimeout p) s = .next u ∧ u.out = s.out ++ [.line p.val .detectPulse]
        ∧ OtherPorts p.val s u ∧ (port u p.val).trainings = x.trainings + 1 ∧ (port u p.val).link = .detect ∧ (port u p.val).farEnd = false)
    ∧ (x.enabled = true → serdes x.gen = false → ∃ u, exec (.legacyBiasLoss p) s = .next u ∧ (port u p.val).enabled = false
        ∧ (port u p.val).link = .disabled ∧ (port u p.val).attach = .idle ∧ (port u p.val).txn = none)
    ∧ (x.enabled = true → serdes x.gen = true → x.link = .detect → x.farEnd = false → ∃ u, exec (.linkDisconnectTimeout p) s = .next u
        ∧ (port u p.val).enabled = false ∧ (port u p.val).link = .disabled ∧ (port u p.val).attach = .idle ∧ (port u p.val).txn = none)

/-- The report ring. The oldest waiting report is written to its place in the ring, PROD advances, and PF0 is told by a notice
(its SEQ a free value, log 27); while nothing waits on it the rest of the tree is as it was. A write of CONS or LOG2SIZE that
breaks the index rule leaves that field and raises DB_ERROR of PF0, as does a base written while records are unread. -/
def Obligations.ReportRing : Prop :=
  ∀ s : State,
    (∀ r rest, live s = true → s.topo.base ≠ 0 → (fn s 0).bme = true → ringUsed s < ringSize s → s.topo.reports = r :: rest →
      s.topo.waiting = [] → (∀ p, (port s p).attach ≠ .held ∧ Quiet s p) →
      let at_ := s.topo.base.toNat + 256 * (s.topo.prod.toNat % ringSize s)
      ∃ u, exec .reportRecordWrite s = .next u ∧ u.topo.prod = s.topo.prod + 1 ∧ u.topo.reports = rest
        ∧ Output.hostWrite 0 at_ (reportBytes r) ∈ u.out
        ∧ Posted 0 ⟨BitVec.ofNat 64 at_, Config.noticeSeq s.free, 0x20⟩ u ∧ u.topo.port = s.topo.port)
    ∧ (∀ v : U32, hostReaches s 0 = true →
      let new := BitVec.ofNat 16 (field v 0 16)
      let old := BitVec.ofNat 16 (field s.topo.ring 0 16)
      let consOk := decide ((s.topo.prod - new).toNat ≤ ringSize s ∧ (s.topo.prod - new).toNat ≤ (s.topo.prod - old).toNat)
      let sizeOk := field v 16 4 == field s.topo.ring 16 4 || s.topo.prod == old
      let cons := if consOk then setField s.topo.ring 0 16 new.toNat else s.topo.ring
      let keep := { s with topo := { s.topo with ring := setField cons 16 4 (if sizeOk then field v 16 4 else field s.topo.ring 16 4) } }
      ∃ u, exec (.topoRingWrite v) s = .next u ∧ u.topo = keep.topo
        ∧ ((consOk && sizeOk) = true → u = keep)
        ∧ ((consOk && sizeOk) = false → Raised (evtKey (.q 0)) 3 s u ∧ SameFuncs s u))
    ∧ (∀ v : U64, hostReaches s 0 = true →
      (s.topo.prod.toNat = field s.topo.ring 0 16 →
        exec (.topoBaseWrite v) s = .next { s with topo := { s.topo with base := setField v 0 8 0 } })
      ∧ (s.topo.prod.toNat ≠ field s.topo.ring 0 16 →
        ∃ u, exec (.topoBaseWrite v) s = .next u ∧ u.topo = s.topo ∧ Raised (evtKey (.q 0)) 3 s u ∧ SameFuncs s u))

/-- The commands of a root port's control register. RESET tears the tree down and resets the port, at the end of the transaction
in progress; DISABLE leaves it disabled; ENABLE of a disabled one lets it attach again, and does nothing to an enabled or failed
port; SUSPEND stops its traffic unless it is refused; RESUME drives RESUME, or a wake tone on N4 and N5, as an answer to a
remote wake does (a legacy transceiver of a die that has lost its core die stays quiet); the end of the host's resume runs RECOVERY on N4 and N5. -/
def Obligations.PortCommands : Prop :=
  ∀ (s : State) (p : PortId),
    let x := port s p.val
    let resumes := fun (b : Bool) (c : Bool) (w : Option Nat) => { x with
      resuming := true, resumeAt := some (now s), resumeEnded := false, byDevice := b, coincident := c, silence := false, wakeAt := w }
    let tone := if serdes x.gen then [Output.line p.val .wakeTone] else if highZ s p.val then [] else [.line p.val .resume]
    (hostReaches s 0 = true →
      (portDown x = false → ∃ u, exec (.portReset p) s = .next u ∧ (port u p.val).commanded = true
        ∧ ((port u p.val).resetDue = true ∨ (port u p.val).resetting = true ∧ (port u p.val).attach = .signalling))
      ∧ (∃ u, exec (.portDisable p) s = .next u ∧ (port u p.val).admin = false ∧ (port u p.val).enabled = false
          ∧ (port u p.val).link = .disabled ∧ (port u p.val).txn = none)
      ∧ (((x.admin && !x.held && x.attach != .refused) || bit s.err.portFailed p.val || !s.front.ctxEn) = true →
          exec (.portEnable p) s = .next s)
      ∧ (x.admin = false → bit s.err.portFailed p.val = false → s.front.ctxEn = true → x.attach = .idle → x.pg = true → x.enabled = false →
          (∃ u, exec (.portEnable p) s = .next u ∧ PortMoves p.val { x with
            admin := true, held := false, babbleDis := false, wantEnable := false, check := 0, timeouts := 0, babbles := 0
            linkErrTotal := 0, attach := .debounce, genUse := genCap x, tries := 0, trainings := 0 } [] s u))
      ∧ (portDown x = false → x.suspended = false →
          (suspendRefusal s (.root p) = 0 → (∃ u, exec (.portSuspend p) s = .next u ∧ PortMoves p.val { x with suspended := true, silence := serdes x.gen, wakeAt := none, sofHold := false } [] s u))
          ∧ (suspendRefusal s (.root p) = 0xA → exec (.portSuspend p) s = .next s)
          ∧ (suspendRefusal s (.root p) = 2 ∨ suspendRefusal s (.root p) = 3 → ∃ u, exec (.portSuspend p) s = .next u
              ∧ (∀ k, port u k = port s k) ∧ bit (evtWord u p.val) 12 = true))
      ∧ (portDown x = false → x.suspended = true → x.resetting = false → x.resetDue = false → x.resumeAt = none →
          (x.wakeAt = none → (∃ u, exec (.portResume p) s = .next u ∧ PortMoves p.val (resumes false false none) tone s u))
          ∧ (∀ t, x.wakeAt = some t → (∃ u, exec (.portResume p) s = .next u ∧ PortMoves p.val (resumes false (decide (now s ≤ t + 400000)) (some t)) tone s u))))
    ∧ (serves s = true → x.suspended = true → x.resetting = false → x.resetDue = false → s.pwr.st = .run → x.resumeAt = none →
      (∃ u, exec (.remoteWakeDetect (.root p)) s = .next u ∧ PortMoves p.val (resumes true false (some (now s))) tone s u))
    ∧ (serves s = true → x.suspended = true → x.resetting = false → x.resetDue = false → s.pwr.st ≠ .run →
      ∃ u, exec (.remoteWakeDetect (.root p)) s = .next u ∧ Loc.root p ∈ u.pwr.wakes ∧ u.topo = s.topo)
    ∧ (serves s = true → x.resumeAt ≠ none → x.resumeEnded = false →
      (x.link ≠ .lowpower → x.link ≠ .active → (∃ u, exec (.hostResumeEnd (.root p)) s = .next u ∧ PortMoves p.val { x with resumeEnded := true, wakeAt := none } [] s u))
      ∧ (x.link = .lowpower ∨ x.link = .active → x.txn = none → (∃ u, exec (.hostResumeEnd (.root p)) s = .next u ∧ PortMoves p.val { x with
          resumeEnded := true, wakeAt := none, fromLowPower := true, link := .recovery, cmdWait := none
          recoveries := if x.recoveries = 255 then 255 else x.recoveries + 1 } [.line p.val .trainingSets] s u)))

/-- The topology commands of the mailbox. From a VF, or of a place that is not there, they are answered so and change no tree.
A reset is commanded and begins at the end of the transaction in progress; a suspend is answered at once, done or refused with its
reason; a resume waits for its end; a disabled port is disabled; a slot is bound to a hub port; a device reset asks for a current
handle of a device that is no hub. -/
def Obligations.TopoCommands : Prop :=
  ∀ (s : State) (ctx : CmdCtx) (b : TopoBody), serves s = true →
    let places := [(0x30, Instr.topoPortReset ctx b), (0x32, .topoPortSuspend ctx b), (0x33, .topoPortResume ctx b)
      , (0x34, .topoPortDisable ctx b)]
    let answered := fun (code res : Nat) (u : State) => Answered ctx code (topoReply s res b.port b.handle false) s u
    (∀ e ∈ places, sender ctx.chan ≠ 0 → ∃ u, exec e.2 s = .next u ∧ answered e.1 8 u ∧ u.topo = s.topo)
    ∧ (sender ctx.chan ≠ 0 → ∃ u, exec (.topoBindSlot ctx b) s = .next u ∧ answered 0x35 8 u ∧ u.topo = s.topo)
    ∧ (sender ctx.chan = 0 → bodyLoc s b = none → ∃ u, exec (.topoBindSlot ctx b) s = .next u ∧ answered 0x35 7 u ∧ u.topo = s.topo)
    ∧ (∀ e ∈ places, sender ctx.chan = 0 → bodyLoc s b = none → ∃ u, exec e.2 s = .next u ∧ answered e.1 1 u ∧ u.topo = s.topo)
    ∧ (∀ p, sender ctx.chan = 0 → bodyLoc s b = some (.root p) →
      let x := port s p.val
      (portDown x = true → ∃ u, exec (.topoPortReset ctx b) s = .next u ∧ answered 0x30 0xA u ∧ u.topo = s.topo)
      ∧ (portDown x = false → ∃ u, exec (.topoPortReset ctx b) s = .next u ∧ (port u p.val).commanded = true
        ∧ ((port u p.val).resetDue = true ∨ (port u p.val).resetting = true ∧ (port u p.val).attach = .signalling))
      ∧ (x.suspended = true → x.resumeAt = none → ∃ u, exec (.topoPortSuspend ctx b) s = .next u ∧ answered 0x32 0 u ∧ u.topo = s.topo)
      ∧ (x.suspended = false → suspendRefusal s (.root p) = 0 → ∃ u, exec (.topoPortSuspend ctx b) s = .next u ∧ answered 0x32 0 u
          ∧ port u p.val = { x with suspended := true, silence := serdes x.gen, wakeAt := none, sofHold := false } ∧ OtherPorts p.val s u)
      ∧ (x.suspended = false → ∃ u, exec (.topoPortResume ctx b) s = .next u ∧ answered 0x33 6 u ∧ u.topo = s.topo)
      ∧ (x.suspended = true → x.resetting = true ∨ x.resetDue = true → ∃ u, exec (.topoPortResume ctx b) s = .next u ∧ answered 0x33 9 u ∧ u.topo = s.topo)
      ∧ (x.suspended = true → x.resetting = false → x.resetDue = false → x.resumeAt = none → ∃ u, exec (.topoPortResume ctx b) s = .next u
          ∧ (port u p.val).resuming = true ∧ (port u p.val).resumeAt = some (now s)
          ∧ u.topo.waiting = s.topo.waiting ++ [{ ctx := ctx, code := 0x33, port := b.port, handle := b.handle, wait := .resume (.root p), reports := 0 }])
      ∧ (∃ u, exec (.topoPortDisable ctx b) s = .next u ∧ (port u p.val).admin = false ∧ (port u p.val).enabled = false)
      ∧ (∃ u, exec (.topoBindSlot ctx b) s = .next u ∧ answered 0x35 7 u ∧ u.topo = s.topo))
    ∧ (∀ h q, sender ctx.chan = 0 → bodyLoc s b = some (.hub h q) →
      (64 ≤ b.slot.toNat → ∃ u, exec (.topoBindSlot ctx b) s = .next u ∧ answered 0x35 1 u ∧ u.topo = s.topo)
      ∧ (b.slot.toNat < 64 → (dev? s h.val).isSome = true → ∃ u, exec (.topoBindSlot ctx b) s = .next u ∧ answered 0x35 0 u
          ∧ (hubPort u h.val q.val).slot = some b.slot.toNat))
    ∧ (sender ctx.chan ≠ 0 → ∃ u, exec (.topoDeviceReset ctx b) s = .next u ∧ answered 0x31 8 u ∧ u.topo = s.topo)
    ∧ (sender ctx.chan = 0 → handleCurrent s b.handle = false → ∃ u, exec (.topoDeviceReset ctx b) s = .next u ∧ answered 0x31 5 u ∧ u.topo = s.topo)
    ∧ (∀ d, sender ctx.chan = 0 → handleCurrent s b.handle = true → dev? s (field b.handle 0 12) = some d →
      (d.isHub = true → ∃ u, exec (.topoDeviceReset ctx b) s = .next u ∧ answered 0x31 4 u ∧ u.topo = s.topo)
      ∧ (∀ p, d.isHub = false → d.loc = .root p → ∃ u, exec (.topoDeviceReset ctx b) s = .next u
          ∧ ((port u p.val).resetDue = true ∨ (port u p.val).resetting = true ∧ (port u p.val).attach = .signalling)))

/-- The frame and microframe boundaries. A frame begins at the next epoch, in microframe 0, with a length in the band of R137
that has moved by at most 500 ppm; the part that serves ends resumes and sends SOF on every port, then every part sends its TIME
and frees handle numbers. A microframe begins with its number; the part that serves sends µSOF, turns its engines to their
periodic threads, begins the services and the doorbell sweep and sends what waits in the port lanes, then the heartbeat goes out. A part that holds after a fatal error only counts. That the tick moves on to the
boundary's instant is the model's choice (log 58). -/
def Obligations.Boundaries : Prop :=
  ∀ s : State, (live s = false → holding s = true → exec .frameBoundary s = .next (countFrame s)
      ∧ (timebaseRuns s = true → ∀ u : Fin 8, exec (.microframeBoundary u) s = .next (beginUframe u.val s)))
    ∧ (live s = true →
    (let w := beginFrame s
     let y := if yieldDue w then enterYielded w else w
     let z := swapIfPending { y with pwr := { y.pwr with moved := false, movedBefore := y.pwr.moved } }
     w.tb.epoch = s.tb.epoch + 1 ∧ w.tb.uframe = 0 ∧ w.tb.uframeAt = w.tb.frameAt
     ∧ (376000 ≤ s.tb.flen → s.tb.flen ≤ 424000 → 376000 ≤ w.tb.flen ∧ w.tb.flen ≤ 424000
          ∧ w.tb.flen ≤ s.tb.flen + s.tb.flen / 2000 ∧ s.tb.flen ≤ w.tb.flen + s.tb.flen / 2000)
     ∧ (serves z = false → exec .frameBoundary s = .next (sweepHandles (sendTime (ptmAutoStart z))))
     ∧ (serves z = true → exec .frameBoundary s = .next (sweepHandles (sendTime (ptmAutoStart
          (each (List.range 64) (boundarySof 0) (each (resumePlaces z) endResume z)))))))
    ∧ (∀ u : Fin 8, timebaseRuns s = true →
      let w := newUnits u.val (beginUframe u.val s)
      let z := judgeIdle (if handoverDue u.val w then sendHandover 6 w else w)
      w.tb.uframe = u.val ∧ w.tb.epoch = s.tb.epoch
      ∧ (serves z = false → exec (.microframeBoundary u) s = .next (beat u.val z))
      ∧ (serves z = true →
        let v := each (List.range 16) engineBoundary (dropLeft (if u.val = 0 then z else each (List.range 64) (boundarySof u.val) z))
        let m := absUframe v
        let y := beginSweep (openWindows
          (each (v.sch.live.filter fun e => e.2.kind != .float && isService e.2 m) (fun e s => beginService e.1 e.2 s) v))
        exec (.microframeBoundary u) s
          = .next (beat u.val (each ((y.topo.port.filter fun e => !e.2.lane.isEmpty).map Prod.fst) runLane y)))))

/-- Axis inputs. An edge of an axis that is off, or none of its kind, changes nothing; one too soon after the last, or of both
quadrature inputs at once, is lost and raises EDGE_LOST; an accepted quadrature edge that shows the last counted state only ends a
stall; any other accepted edge counts up or down by its order, the cycle count steps where
the count wraps, and REVERSE is raised where the direction turns. A Z edge begins a new cycle unless a wrap has begun it; a
stalled axis holds its position; a new CPC places the count anew. -/
def Obligations.AxisEdges : Prop :=
  ∀ (s : State) (i : Fin 4),
    let x := axis s i.val
    let t := now s
    let others := fun (u : State) => ∀ k, k ≠ i.val → axis u k = axis s k
    (live s = true → timebaseRuns s = true → ∀ a b : Bool,
      (axMode x = 0 ∨ (2 ≤ axMode x ∧ a = false) → exec (.axisCountEdge i a b) s = .next s)
      ∧ (axMode x = 1 ∨ (2 ≤ axMode x ∧ a = true) →
        (tooSoon x t = true → (∃ u, exec (.axisCountEdge i a b) s = .next u ∧ axis u = axis s ∧ bit (evtWord u (128 + i.val)) 3 = true))
        ∧ (tooSoon x t = false →
          (axMode x = 1 → a = x.stA → b = x.stB → (∃ u, exec (.axisCountEdge i a b) s = .next u ∧ axis u i.val = { x with stalled := false } ∧ others u))
          ∧ (axMode x = 1 → a ≠ x.stA → b ≠ x.stB → ∃ u, exec (.axisCountEdge i a b) s = .next u
            ∧ axis u i.val = { x with stalled := false } ∧ bit (evtWord u (128 + i.val)) 3 = true)
          ∧ (axMode x = 1 → (a == x.stA) != (b == x.stB) → quadForward x a b = true →
            (∃ u, exec (.axisCountEdge i a b) s = .next u ∧ axis u i.val = { countedUp t x with stA := a, stB := b } ∧ others u))
          ∧ (axMode x = 1 → (a == x.stA) != (b == x.stB) → quadForward x a b = false →
            (∃ u, exec (.axisCountEdge i a b) s = .next u ∧ axis u i.val = { countedDown t x with stA := a, stB := b } ∧ others u))
          ∧ (axMode x = 2 → (∃ u, exec (.axisCountEdge i a b) s = .next u ∧ axis u i.val = (countedUp t x) ∧ others u))
          ∧ (axMode x = 3 → (∃ u, exec (.axisCountEdge i a b) s = .next u ∧ axis u i.val = { cycleBegun t (edgeTimed t false x) with pos := 0 } ∧ others u)))))
    ∧ (live s = true → timebaseRuns s = true →
      (axMode x ≠ 1 ∨ axZsync x = false ∨ x.reverse = true → exec (.axisIndexEdge i) s = .next s)
      ∧ (axMode x = 1 → axZsync x = true → x.reverse = false →
        (∃ u, exec (.axisIndexEdge i) s = .next u ∧ axis u i.val = (if 0 < x.wraps then { x with count := 0, wraps := 0, pos := 0 }
          else { cycleBegun t { x with count := 0, wraps := 0 } with pos := 0 }) ∧ others u))
      ∧ (axMode x ≠ 0 → axStallTo x ≠ 0 → x.stalled = false → (∃ u, exec (.axisStall i) s = .next u ∧ axis u i.val = { x with
          pos := posAt x t, stalled := true, interval := none } ∧ others u)))
    ∧ (hostReaches s 0 = true → ∀ v : U32,
      let c := BitVec.ofNat 32 (field v 0 24)
      let n := x.count % max 1 (field c 0 24)
      (axMode x = 3 → (∃ u, exec (.axCpcWrite i v) s = .next u ∧ axis u i.val = { x with cpc := c } ∧ others u))
      ∧ (axMode x ≠ 3 → (∃ u, exec (.axCpcWrite i v) s = .next u ∧ axis u i.val = { x with
          cpc := c, count := n, pos := n * cyclePos / max 1 (field c 0 24), period := 0xFFFFFFFF, cycleStart := none } ∧ others u)))

/-- Compare units. A unit fires at its instant: EVENT sets its pending bit, BIND hands its entry to the port's waiting
transfers (and a floating reservation that starts in this very cycle serves the first of them), and the unit disarms unless an EVENT unit fires in any cycle. The next entry of a BIND unit arms it, or completes
MISSED_LEAD where its cycle has passed. A configuration that changes nothing but flags leaves a unit armed, any other aborts the
entries of a BIND unit and arms an EVENT unit; a target write concerns only WIN under BIND. -/
def Obligations.CompareUnits : Prop :=
  ∀ (s : State) (c : Fin 256),
    let u := cmpUnit s c.val
    let rest := fun (t : State) => ∀ k, k ≠ c.val → cmpUnit t k = cmpUnit s k
    (live s = true → timebaseRuns s = true → fires s c.val = true →
      let p := posAt (axis s u.axis) (now s)
      (unitAction u = 1 → u.entry = none → ∃ t, exec (.compareFire c) s = .next t ∧ rest t
        ∧ cmpUnit t c.val = { u with
            fired := true, time := now s, evalAt := now s, inside := true, evalPos := p, armed := u.anyCycle }
        ∧ bit (evtWord t (132 + c.val / 32)) (c.val % 32) = true)
      ∧ (∀ i, unitAction u ≠ 1 → u.entry = some i → ∃ t, rest t
        ∧ exec (.compareFire c) s = .next (if tfind s.sch.floatIdle u.port = some (now s) then floatServe u.port t else t)
        ∧ cmpUnit t c.val = { u with
            fired := true, time := now s, evalAt := now s, inside := true, evalPos := p, armed := false, entry := none }
        ∧ (∀ x, item? s i = some x → item? t i = some { x with fired := true, firedAt := now s })
        ∧ i ∈ tget [] t.sch.floatWait u.port))
    ∧ (∀ i r e, live s = true → unitAction u = 2 → u.entry = none → u.queue = i :: r → item? s i = some e →
      let x := axis s u.axis
      let past := !eAnyCycle e.raw && cyclePassed u x (now s) (ePosition e.raw) (winOf u.win) (eCycle e.raw)
      (past = true → e.status = none → isOwn e = false → ∃ t y, exec (.compareArmNext c) s = .next t ∧ t.sch.leadMiss = s.sch.leadMiss + 1
        ∧ item? t i = some y ∧ y.status = some stMissedLead)
      ∧ (past = false → ∃ t, exec (.compareArmNext c) s = .next t ∧ rest t ∧ item? t i = some { e with armed := true }
        ∧ (cmpUnit t c.val).armed = true ∧ (cmpUnit t c.val).entry = some i ∧ (cmpUnit t c.val).queue = r
        ∧ (cmpUnit t c.val).pos = ePosition e.raw ∧ (cmpUnit t c.val).cycle = eCycle e.raw
        ∧ (cmpUnit t c.val).winNow = winOf u.win ∧ (cmpUnit t c.val).anyNow = eAnyCycle e.raw))
    ∧ (hostReaches s 0 = true → field s.tb.cmpSel 0 8 = c.val →
      (∀ (v : U32) (n : CmpUnit), n = { u with
          axis := field v 0 2, dir := BitVec.ofNat 2 (field v 2 2), action := BitVec.ofNat 2 (field v 4 2), anyCycle := bit v 6
          port := field v 8 6, owner := field v 16 7, fired := u.fired && !bit v 25, missed := u.missed && !bit v 26 } →
        let same := n.axis = u.axis ∧ n.dir = u.dir ∧ n.action = u.action ∧ n.port = u.port ∧ n.owner = u.owner
        (same → ∃ t, exec (.tbCmpCfgWrite v) s = .next t ∧ rest t ∧ cmpUnit t c.val = n)
        ∧ (¬ same → unitAction n ≠ 1 → ∃ t, exec (.tbCmpCfgWrite v) s = .next t
          ∧ cmpUnit t c.val = { n with armed := false, entry := none, queue := [] })
        ∧ (¬ same → unitAction n = 1 → ∃ t, exec (.tbCmpCfgWrite v) s = .next t ∧ (cmpUnit t c.val).armed = true
          ∧ (cmpUnit t c.val).entry = none ∧ (cmpUnit t c.val).queue = [] ∧ (cmpUnit t c.val).axis = n.axis))
      ∧ (∀ v : U64, ∃ t, exec (.tbCmpTargetWrite v) s = .next t ∧ rest t ∧ (cmpUnit t c.val).win = field v 24 24
        ∧ (unitAction u = 2 → cmpUnit t c.val = { u with win := field v 24 24 })
        ∧ (unitAction u ≠ 2 → (cmpUnit t c.val).pos = field v 0 24 ∧ (cmpUnit t c.val).cycle = BitVec.ofNat 16 (field v 48 16))))

/-- The timebase registers and PTM. FREE_LEN is clamped to the band and to a multiple of 8; a PTM dialogue is started while PTM Enable is set, latches its
values at one instant when it is answered, and reports either; the low word of a wide register latches the high one until it
expires, and a read of the high word returns what is latched. A pass of LOCK_PHASE, while the axis is at it, takes M over, notes the phase error, counts passes in phase in ACQUIRE until LOCKED, and leaves LOCKED when M changes or
the phase is lost. -/
def Obligations.TimebaseRegisters : Prop :=
  ∀ s : State,
    (hostReaches s 0 = true → ∀ v : U32, ∃ n, exec (.tbFreeLenWrite v) s = .next { s with tb := { s.tb with freeLen := n } }
      ∧ 376000 ≤ n ∧ n ≤ 424000 ∧ n % 8 = 0 ∧ (field v 0 19 % 8 = 0 → 376000 ≤ field v 0 19 → field v 0 19 ≤ 424000 → n = field v 0 19))
    ∧ (serves s = true → timebaseRuns s = true → s.tb.ptmEn = true → exec .ptmStart s = .next { s with tb := { s.tb with ptmBusy := true } })
    ∧ (s.tb.ptmEn = false → exec .ptmStart s = .next s)
    ∧ (live s = true → s.tb.ptmBusy = true →
      (∀ m : U64, ∃ u, exec (.ptmResponse m) s = .next u ∧ Raised (evtKey .tb) 3 s u ∧ u.tb = { s.tb with
        ptmBusy := false, ptmMaster := m, ptmTick := s.tb.tick, ptmEpoch := epochReg s, ptmFlen := s.tb.flen
        ptmSeq := s.tb.ptmSeq + 1, ptmValid := true })
      ∧ (∃ u, exec .ptmTimeout s = .next u ∧ Raised (evtKey .tb) 4 s u ∧ u.tb = { s.tb with ptmBusy := false }))
    ∧ (live s = true → ∀ r : LatchReg,
      exec (.epochLowRead r) s = .next { s with tb := { s.tb with
        latch := tput s.tb.latch (latchKey r) (BitVec.ofNat 32 (field (latchValue s r) 32 32)) } }
      ∧ exec (.epochLatchExpiry r) s = .next { s with tb := { s.tb with latch := tdel s.tb.latch (latchKey r) } }
      ∧ ∀ (a : Nat) (u v : State), latchAt a = some r → exec (.epochLowRead r) s = .next u → v.tb.latch = u.tb.latch →
        readAnswers v 0 (a + 4) = true → registerRead v 0 (a + 4) 4 = BitVec.ofNat 64 (field (latchValue s r) 32 32))
    ∧ (lockPhaseHere s = false → exec .axisLockPhasePass s = .next s)
    ∧ (live s = true → timebaseRuns s = true → lockPhaseHere s = true →
      let m := field s.tb.ctl 16 12 + 1
      let e := phaseError s
      (s.tb.mode ≠ 1 → exec .axisLockPhasePass s = .next { s with tb := { s.tb with m := m, phaseErr := e } })
      ∧ (s.tb.mode = 1 → axisOut { s with tb := { s.tb with m := m } } (axis s s.tb.axsel) = false →
        (s.tb.lock = .acquire → s.tb.passes < 3 → e ≤ 64 →
          exec .axisLockPhasePass s = .next { s with tb := { s.tb with m := m, phaseErr := e, passes := s.tb.passes + 1 } })
        ∧ (s.tb.lock = .acquire → 64 < e →
          exec .axisLockPhasePass s = .next { s with tb := { s.tb with m := m, phaseErr := e, passes := 0 } })
        ∧ (s.tb.lock = .acquire → 3 ≤ s.tb.passes → e ≤ 64 → ∃ u, exec .axisLockPhasePass s = .next u
            ∧ u.tb.lock = .locked ∧ u.tb.m = m ∧ u.tb.phaseErr = e ∧ Raised (evtKey .tb) 0 s u)
        ∧ (s.tb.lock = .locked → m = s.tb.m → e ≤ 4096 →
          exec .axisLockPhasePass s = .next { s with tb := { s.tb with phaseErr := e } })
        ∧ (s.tb.lock = .locked → m ≠ s.tb.m ∨ 4096 < e → ∃ u, exec .axisLockPhasePass s = .next u
            ∧ u.tb.lock = .acquire ∧ u.tb.m = m ∧ u.tb.phaseErr = e ∧ Raised (evtKey .tb) 1 s u)))

/-- Admission. ADMIT by a VF that is not created, or of a device that is not its own, is refused so, as is a body that the checks
refuse or that finds no place; an accepted one stands in the shadow bank and is answered by the swap. RELEASE takes the
reservation of its endpoint, live or still waiting for its swap, out of the shadow bank in the same way, or is refused. QUERY answers at once, and a completed
compilation arms the swap. (A command that has been read counts as unanswered until its reply: `begun`.) -/
def Obligations.Admission : Prop :=
  ∀ (s : State) (ctx : CmdCtx) (b : AdmitBody), live s = true →
    let f := sender ctx.chan
    let refused := fun (c : Instr) (code res detail : Nat) => ∃ u, exec c s = .next u
      ∧ Answered ctx code (admitRefusal b res detail) s u ∧ u.sch = s.sch
    ((fn s f).created = false → refused (.admitCmd ctx b) 0x40 0x11 0 ∧ refused (.release ctx b) 0x41 0x11 0)
    ∧ ((fn s f).created = true → ownsDevice s f b.handle = false → refused (.admitCmd ctx b) 0x40 0x0A 0 ∧ refused (.release ctx b) 0x41 0x0A 0)
    ∧ (∀ c, admitCheck s f b = .inr c → refused (.admitCmd ctx b) 0x40 c 0)
    ∧ (∀ r c d, admitCheck s f b = .inl r → tryAdmit (begun ctx 0x40 s) r = .inr (c, d) → refused (.admitCmd ctx b) 0x40 c d)
    ∧ (∀ r id t, admitCheck s f b = .inl r → tryAdmit (begun ctx 0x40 s) r = .inl (id, t) → ∃ u, exec (.admitCmd ctx b) s = .next u
      ∧ u.sch.live = s.sch.live ∧ u.sch.compiling = true ∧ u.sch.swapPend = false ∧ (fn u f).admitBusy = true
      ∧ u.sch.replies = s.sch.replies ++ [{ ctx := ctx, body := b, res := id, isAdmit := true }]
      ∧ ∃ g, tfind u.sch.shadow id = some g ∧ (g.handle, g.ep, g.dirIn, g.kind, g.func) = (r.handle, r.ep, r.dirIn, r.kind, r.func))
    ∧ ((fn s f).created = true → ownsDevice s f b.handle = true →
      let named := fun (e : Nat × Rung) => e.2.handle == b.handle
        && e.2.ep == field b.epaddr 0 4 && e.2.dirIn == bit b.epaddr 7 && kindOf b.kind.toNat == some e.2.kind
      ((charged s).find? named = none → refused (.release ctx b) 0x41 0x0B 0)
      ∧ (∀ e, (charged s).find? named = some e → (fn s f).admitBusy = true → refused (.release ctx b) 0x41 0x10 0)
      ∧ (∀ e, (charged s).find? named = some e → (fn s f).admitBusy = false → ∃ u, exec (.release ctx b) s = .next u
        ∧ tfind u.sch.shadow e.1 = none ∧ u.sch.live = s.sch.live ∧ u.sch.compiling = true ∧ u.sch.swapPend = false
        ∧ (fn u f).admitBusy = true ∧ u.sch.replies = s.sch.replies ++ [{ ctx := ctx, body := b, res := e.1, isAdmit := false }]))
    ∧ ((fn s f).created = false → ∃ u, exec (.query ctx) s = .next u ∧ Answered ctx 0x42 (zeros 4 ++ [0x11] ++ zeros 27) s u)
    ∧ ((fn s f).created = true → (fn s f).admitBusy = true → ∃ u, exec (.query ctx) s = .next u
        ∧ Answered ctx 0x42 (zeros 4 ++ [0x10] ++ zeros 27) s u)
    ∧ ((fn s f).created = true → (fn s f).admitBusy = false → ∃ u, exec (.query ctx) s = .next u
        ∧ Answered ctx 0x42 (zeros 8 ++ natLE 4 ((10 * (fn s f).pshare - shareInUse s f) / 10) ++ natLE 2 (freeCarve s f).length
          ++ natLE 2 ((charged s).filter fun e => e.2.func == f).length
          ++ natLE 4 ((fn s f).spillEntries - (fn s f).spillDepth * sumRate s f) ++ natLE 2 (8192 - (charged s).length) ++ zeros 10) s u)
    ∧ (s.sch.compiling = true → exec .compileDone s = .next { s with sch := { s.sch with compiling := false, swapPend := true } })

/-- The queue operations of a function window. Each ends in `Q.CMD` with its result and clears BUSY. CREATE of a legal queue under
a free number puts it there with its indices 0; DESTROY of an idle one takes it away (handle numbers that waited for the SQ are
then looked at); READ loads the window. A function that is not created, a number beyond its allotment, a number in use or not in
use, and (but for READ) a halted function are refused, and so is each rule of R258 and R259 that is broken. -/
def Obligations.QueueOperations : Prop :=
  ∀ (s : State) (f : FuncId), live s = true → (fn s f.val).busy = true →
    let x := fn s f.val
    let n := selNum x
    let past := fun (r : Nat) (y : Func) => { y with busy := false, op := 0, result := BitVec.ofNat 3 r }
    let ends := fun (r : Nat) (y : Func) (t : State) => Frame [.fns] s t ∧ fn t f.val = past r y ∧ ∀ g, g ≠ f.val → fn t g = fn s g
    let gone := fun (r : Nat) (y : Func) (b : Bool) (t : State) => fn t f.val = past r y ∧ (∀ g, g ≠ f.val → fn t g = fn s g)
      ∧ t.topo = if b then (forgetSq f.val n s).topo else s.topo
    (x.op = 1 →
      (x.created = false → (∃ t, exec (.qCreate f) s = .next t ∧ ends 2 x t)) ∧ (x.created = true → x.halted = true → (∃ t, exec (.qCreate f) s = .next t ∧ ends 7 x t))
      ∧ (x.created = true → x.halted = false → selCr x = false →
        let c := x.qCfgSq
        let bad := cfgLog2 c < 4 ∨ 5 < cfgPrio c ∨ cfgWeight c = 0 ∨ (cfgMaint c = true ∧ (f.val ≠ 0 ∨ cfgTimed c = true))
        let ring := cfgCr c < x.nCr ∧ (cr s f.val (cfgCr c)).created = true
        (x.nSq ≤ n → (∃ t, exec (.qCreate f) s = .next t ∧ ends 2 x t)) ∧ (n < x.nSq → (sq s f.val n).created = true → (∃ t, exec (.qCreate f) s = .next t ∧ ends 3 x t))
        ∧ (n < x.nSq → (sq s f.val n).created = false → (bad → (∃ t, exec (.qCreate f) s = .next t ∧ ends 1 x t)) ∧ (¬ bad → ¬ ring → (∃ t, exec (.qCreate f) s = .next t ∧ ends 6 x t))
          ∧ (¬ bad → ring → (∃ t, exec (.qCreate f) s = .next t ∧ ends 0 { x with sq := tput x.sq n { created := true, base := x.qBase, cfg := c } } t))))
      ∧ (x.created = true → x.halted = false → selCr x = true →
        let bad := cfgLog2 x.qCfgCr < 4 ∨ x.nVec ≤ cfgVector x.qCfgCr
        (x.nCr ≤ n → (∃ t, exec (.qCreate f) s = .next t ∧ ends 2 x t)) ∧ (n < x.nCr → (cr s f.val n).created = true → (∃ t, exec (.qCreate f) s = .next t ∧ ends 3 x t))
        ∧ (n < x.nCr → (cr s f.val n).created = false → (bad → (∃ t, exec (.qCreate f) s = .next t ∧ ends 1 x t))
          ∧ (¬ bad → (∃ t, exec (.qCreate f) s = .next t ∧ ends 0 { x with cr := tput x.cr n { created := true, base := x.qBase, cfg := x.qCfgCr } } t)))))
    ∧ (x.op = 2 →
      (x.created = false → (∃ t, exec (.qDestroy f) s = .next (sweepHandles t) ∧ gone 2 x false t)) ∧ (x.created = true → x.halted = true → (∃ t, exec (.qDestroy f) s = .next (sweepHandles t) ∧ gone 7 x false t))
      ∧ (x.created = true → x.halted = false → selCr x = false →
        let busy := (sq s f.val n).c ≠ (sq s f.val n).p ∨ (∃ e ∈ s.front.items, e.2.func = f.val ∧ e.2.sq = n ∧ e.2.posted = none)
          ∨ ∃ e ∈ x.cr, ∃ w ∈ e.2.waiting, w.sqid.toNat = n ∧ w.flags &&& 8 = 0
        (x.nSq ≤ n → (∃ t, exec (.qDestroy f) s = .next (sweepHandles t) ∧ gone 2 x false t)) ∧ (n < x.nSq → (sq s f.val n).created = false → (∃ t, exec (.qDestroy f) s = .next (sweepHandles t) ∧ gone 3 x false t))
        ∧ (n < x.nSq → (sq s f.val n).created = true →
          (busy → (∃ t, exec (.qDestroy f) s = .next (sweepHandles t) ∧ gone 4 x false t)) ∧ (¬ busy → (∃ t, exec (.qDestroy f) s = .next (sweepHandles t) ∧ gone 0 { x with sq := tdel x.sq n } true t))))
      ∧ (x.created = true → x.halted = false → selCr x = true →
        let used := ∃ e ∈ x.sq, e.2.created = true ∧ cfgCr e.2.cfg = n
        (x.nCr ≤ n → (∃ t, exec (.qDestroy f) s = .next (sweepHandles t) ∧ gone 2 x false t)) ∧ (n < x.nCr → (cr s f.val n).created = false → (∃ t, exec (.qDestroy f) s = .next (sweepHandles t) ∧ gone 3 x false t))
        ∧ (n < x.nCr → (cr s f.val n).created = true → (used → (∃ t, exec (.qDestroy f) s = .next (sweepHandles t) ∧ gone 5 x false t))
          ∧ (¬ used → (cr s f.val n).waiting ≠ [] → (∃ t, exec (.qDestroy f) s = .next (sweepHandles t) ∧ gone 4 x false t))
          ∧ (¬ used → (cr s f.val n).waiting = [] → (∃ t, exec (.qDestroy f) s = .next (sweepHandles t) ∧ gone 0 { x with cr := tdel x.cr n } false t)))))
    ∧ (x.op = 3 →
      (x.created = false → (∃ t, exec (.qRead f) s = .next t ∧ ends 2 x t))
      ∧ (x.created = true → selCr x = false → (x.nSq ≤ n → (∃ t, exec (.qRead f) s = .next t ∧ ends 2 x t)) ∧ (n < x.nSq → (sq s f.val n).created = false → (∃ t, exec (.qRead f) s = .next t ∧ ends 3 x t))
        ∧ (n < x.nSq → (sq s f.val n).created = true → (∃ t, exec (.qRead f) s = .next t ∧ ends 0 { x with qBase := (sq s f.val n).base, qCfgSq := (sq s f.val n).cfg, qState := queueState s f.val } t)))
      ∧ (x.created = true → selCr x = true → (x.nCr ≤ n → (∃ t, exec (.qRead f) s = .next t ∧ ends 2 x t)) ∧ (n < x.nCr → (cr s f.val n).created = false → (∃ t, exec (.qRead f) s = .next t ∧ ends 3 x t))
        ∧ (n < x.nCr → (cr s f.val n).created = true → (∃ t, exec (.qRead f) s = .next t ∧ ends 0 { x with qBase := (cr s f.val n).base, qCfgCr := (cr s f.val n).cfg, qState := queueState s f.val } t))))

/-- Kicks and doorbell records. A kick of a live SQ of a function that is not halted takes a producer value in range and sets the
front end reading; one out of range is answered with a NO_ENTRY completion, and raises DB_ERROR of PF0 or halts the VF with
cause 2; a halted function ignores it. With INVAL every cached entry that has not begun is dropped, to be fetched again before
the others. A consumer value in range is taken, and where nothing waits in that CR nothing else happens; one out of range raises
DB_ERROR or halts the VF with cause 3. A doorbell block is read once for each record, SQ blocks first; one that failed is
reported. Handle numbers that waited for these queues are then looked at (`sweepHandles`). -/
def Obligations.Kicks : Prop :=
  ∀ (s : State) (f : FuncId) (v : U16),
    (∀ q : Fin 4096, hostReaches s f.val = true → sqLive s f.val q.val = true →
      let x := sq s f.val q.val
      let ignored := (fn s f.val).halted = true ∨ (fn s f.val).flrBusy = true
      (ignored → exec (.qKickSq f q v) s = .next (sweepHandles s) ∧ exec (.qKickSqInval f q v) s = .next (sweepHandles s))
      ∧ (¬ ignored → inRing x v → ∃ t, exec (.qKickSq f q v) s = .next (sweepHandles t) ∧ Kicked f.val q.val v (absUframe s) s t)
      ∧ (¬ ignored → inRing x v → ∃ t, exec (.qKickSqInval f q v) s = .next (sweepHandles t)
        ∧ let hit := s.front.items.filter fun e => e.2.func == f.val && e.2.sq == q.val && e.2.posted.isNone && !hasBegun e.2
        (∀ e ∈ hit, item? t e.1 = none) ∧ (∀ i, (∀ e ∈ hit, e.1 ≠ i) → item? t i = item? s i)
        ∧ (sq t f.val q.val).inval.map Prod.fst = hit.map (fun e => e.2.index) ++ x.inval.map Prod.fst
        ∧ (sq t f.val q.val).p = v ∧ (sq t f.val q.val).c = x.c ∧ (sq t f.val q.val).f = x.f)
      ∧ (¬ ignored → ¬ inRing x v → ∀ c ∈ [Instr.qKickSq f q v, .qKickSqInval f q v], ∃ t, exec c s = .next (sweepHandles t)
        ∧ t = (if f.val = 0 then raiseQ 0 3 else haltFunc f.val 2) (noEntry f.val q.val s)
        ∧ if f.val = 0 then bit (evtWord t 256) 3 = true else (fn t f.val).halted = true))
    ∧ (∀ r : Fin 4096, hostReaches s f.val = true → crLive s f.val r.val = true →
      let x := cr s f.val r.val
      let good := (x.p - v).toNat ≤ cfgSize x.cfg ∧ (x.p - v).toNat ≤ (x.p - x.c).toNat
      let taken := modCr f.val r.val (fun y => { y with c := v }) s
      ((fn s f.val).flrBusy = true → exec (.qKickCr f r v) s = .next (sweepHandles s))
      ∧ ((fn s f.val).flrBusy = false → good → x.waiting = [] → x.spillHalt = false → exec (.qKickCr f r v) s = .next (sweepHandles taken))
      ∧ ((fn s f.val).flrBusy = false → good → x.waiting ≠ [] →
        let t := crDrain f.val r.val taken
        exec (.qKickCr f r v) s = .next (sweepHandles
          (if (cr t f.val r.val).waiting.isEmpty then resumeSqs f.val r.val (absUframe s) t else t)))
      ∧ ((fn s f.val).flrBusy = false → ¬ good →
        exec (.qKickCr f r v) s = .next (sweepHandles (if f.val = 0 then raiseQ 0 3 s else haltFunc f.val 3 s))))
    ∧ (∀ (b : Fin 512) (l : List U32), serves s = true → (f.val, b.val) ∈ s.front.sweep →
      let u := { s with front := { s.front with sweep := s.front.sweep.filter (· != (f.val, b.val)) } }
      let sqs := cdiv (fn s f.val).nSq 16
      exec (.doorbellBlockReadDone f b false l) s = .next (emit (.aer f.val) u)
      ∧ exec (.doorbellBlockReadDone f b true l) s = .next (sweepHandles (doorbellRecords f.val b.val 0 (l.take 16) u))
      ∧ (∀ w : U32, b.val < sqs → sqLive s f.val (16 * b.val) = true → (fn s f.val).halted = false → (fn s f.val).flrBusy = false →
        inRing (sq s f.val (16 * b.val)) (w.setWidth 16) → ∃ t, exec (.doorbellBlockReadDone f b true [w]) s = .next (sweepHandles t)
          ∧ Kicked f.val (16 * b.val) (w.setWidth 16) s.front.sweepAt u t)
      ∧ (∀ w : U32, b.val < sqs → sqLive s f.val (16 * b.val) = false → exec (.doorbellBlockReadDone f b true [w]) s = .next (sweepHandles u)))

/-- Fetch, acceptance and completion. An entry that arrives for a queue that may be fetched takes its slot and becomes an item,
checked at once: a failed check and a NOP complete; a general entry stays open, or completes STALL on a halted endpoint; a
periodic entry is bound to its service or completes MISSED_LEAD; an event entry is bound; an axis-bound one joins its unit. A
failed read is reported, and an entry without a slot stays unread, to be seen anew; one that a refetch brings into a stopped SQ
completes, ABORTED_RESET if nothing else. -/
def Obligations.Fetch : Prop :=
  ∀ (s : State) (f : FuncId) (q : Fin 4096) (raw : BitVec 256), serves s = true → (sq s f.val q.val).reading = true →
    let x := sq s f.val q.val
    let v := checkEntry s f.val q.val raw
    let i := s.front.nextItem
    let rest := modSq f.val q.val (fun y => { y with reading := false, seenAt := [] }) s
    (canFetch s f.val q.val = false → ∀ ok, exec (.sqEntryFetched f q ok raw) s = .next rest)
    ∧ (canFetch s f.val q.val = true → exec (.sqEntryFetched f q false raw) s = .next (emit (.aer f.val) rest))
    ∧ (canFetch s f.val q.val = true → takesSlot s f.val q.val v = false → exec (.sqEntryFetched f q true raw) s = .next rest)
    ∧ (canFetch s f.val q.val = true → takesSlot s f.val q.val v = true → ∃ t, exec (.sqEntryFetched f q true raw) s = .next t
      ∧ (f.val ≠ 0 → v = .failed 0x0C → (fn t f.val).halted = true)
      ∧ ((f.val = 0 ∨ v ≠ .failed 0x0C) → (sq t f.val q.val).f = (if x.inval = [] then x.f + 1 else x.f)
        ∧ (f.val = 0 → x.stopped = true → ∃ y, item? t i = some y ∧ (y.func, y.sq, y.index, y.raw) = (f.val, q.val, nextIndex x, raw)
          ∧ (y.status ≠ none ∨ y.stopAs = some 0x09))
        ∧ (x.inval = [] ∨ v = .general → (f.val = 0 → x.stopped = false) →
          ∃ y, item? t i = some y ∧ (y.func, y.sq, y.index, y.raw) = (f.val, q.val, nextIndex x, raw)
          ∧ match v with
            | .failed st => y.status = some st
            | .nop => y.status = some 0x00
            | .general => y.slot = (if cfgTimed x.cfg then .check else .work)
                ∧ y.status = (match ctx? s (eHandleNum raw) (eEp raw) (eDirIn raw) with | some c => if c.halted then some 0x02 else none | none => none)
            | .per r => ∀ g, tfind s.sch.live r = some g →
                let m := if (pstate s r).streaming && !(pstate s r).ends then serviceAfter g (pstate s r).lastSvc
                  else serviceFrom g (max (seenOf x + 2) ((pstate s r).lastSvc + 1))
                y.slot = (if cfgTimed x.cfg then .timed r else .work)
                ∧ if seenOf x + 2 ≤ m then y.status = none ∧ y.service = some m else y.status = some 0x06
            | .evt r => ∀ g, tfind s.sch.live r = some g → y.status = none ∧ ∃ m, y.service = some m
            | .axis _ => y.status = none ∧ (cmpUnit t (eUnit raw)).queue = (cmpUnit s (eUnit raw)).queue ++ [i])))

/-- The release of completions and the stop of queues. A completion whose data has drained and whose flow has come to it is
written into its ring while there is room (with the head its SQ then has), else spilled into a record, else held with its slot;
one that the firmware posted is dropped. The part's own requests that waited for room are then posted
(`postRequests`). QUEUE_STOP aborts each open entry, at once or at the end of its transaction, and is
answered behind the last; QUEUE_START starts the fetch again behind the entries fetched before, which is at C once those are released (log 159). Commands that waited for these entries are then answered
(`answerWaiters`), and handle numbers that waited are looked at (`sweepHandles`). -/
def Obligations.Completions : Prop :=
  ∀ (s : State), live s = true →
    (∀ i : Nat,
      (item? s i = none → exec (.completionRelease i) s = .next (sweepHandles s))
      ∧ ∀ x, item? s i = some x →
        (releasable s i x = false → exec (.completionRelease i) s = .next (sweepHandles s))
        ∧ (releasable s i x = true → x.posted ≠ none → exec (.completionRelease i) s
          = .next (sweepHandles (postRequests (answerWaiters (delItem (flowOut x.flow s) i)))))
        ∧ (releasable s i x = true → x.posted = none → (fn s x.func).flrBusy = false →
          let r := sqCr s x.func x.sq
          let c := cr s x.func r
          let w := recordOf s i x
          let room := c.waiting.isEmpty && crRoom c && (fn s x.func).bme
          let rec_ := if (fn s x.func).bme && spillAllowed s x.func w.timed then spillFree (fn s x.func) else none
          ∃ u, exec (.completionRelease i) s = .next (sweepHandles (postRequests (answerWaiters u)))
          ∧ (room = true → item? u i = none ∧ (cr u x.func r).p = c.p + 1 ∧ (cr u x.func r).c = c.c
            ∧ .hostWrite x.func (c.base.toNat + 16 * (c.p.toNat % cfgSize c.cfg)) (completionBytes w (crPhase c) false (sq u x.func x.sq).c) ∈ u.out)
          ∧ (room = false → ∀ n, rec_ = some n → item? u i = none ∧ n ∈ (fn u x.func).spilled
            ∧ .hostWrite x.func ((fn s x.func).spillBase.toNat + 16 * n) (completionBytes w false false (sq u x.func x.sq).c) ∈ u.out)
          ∧ (room = false → rec_ = none → w.timed = false → item? u i = some { x with held := true } ∧ (cr u x.func r).waiting = c.waiting ++ [w])))
    ∧ (∀ (ctx : CmdCtx) (q : U16),
      let no := fun (c : Instr) (code r : Nat) => ∃ t, exec c s = .next t ∧ Answered ctx code (BitVec.ofNat 8 r :: zeros 15) s t ∧ t.front = s.front
      (sender ctx.chan ≠ 0 → no (.queueStop ctx q) 0x60 4 ∧ no (.queueStart ctx q) 0x61 4)
      ∧ (sender ctx.chan = 0 → sqLive s 0 q.toNat = false → no (.queueStop ctx q) 0x60 1 ∧ no (.queueStart ctx q) 0x61 1)
      ∧ (sender ctx.chan = 0 → sqLive s 0 q.toNat = true → (sq s 0 q.toNat).stopped = true → no (.queueStop ctx q) 0x60 2
        ∧ ∃ t, exec (.queueStart ctx q) s = .next t ∧ (sq t 0 q.toNat).stopped = false ∧ (sq t 0 q.toNat).f = (sq s 0 q.toNat).f
          ∧ (sq t 0 q.toNat).c = (sq s 0 q.toNat).c ∧ Answered ctx 0x61 (queueReply t 0 0 q.toNat) s t)
      ∧ (sender ctx.chan = 0 → sqLive s 0 q.toNat = true → (sq s 0 q.toNat).stopped = false → no (.queueStart ctx q) 0x61 3
        ∧ let hit := itemsWhere s fun x => x.func == 0 && x.sq == q.toNat && x.posted.isNone && x.status.isNone
          ∃ u, exec (.queueStop ctx q) s = .next (answerWaiters u) ∧ (sq u 0 q.toNat).stopped = true
          ∧ u.front.stops = s.front.stops ++ [(ctx, hit, q.toNat, hit.length)]
          ∧ ∀ i ∈ hit, ∀ x, item? s i = some x → isOwn x = false → x.status = none →
            ∃ y, item? u i = some y ∧ (y.status = some 0x09 ∨ (y.status = none ∧ y.stopAs = some 0x09))))

/-- The DMA engine. A request serves the class and context that the arbitration picks, a pre-empted one first,
with one burst: an IN burst is written to the host and taken from what is staged, an OUT burst is asked for; in the class that can be
pre-empted, one whose beat `cut` brings a request of a lower class stops behind that beat. A word that cannot be corrected and a function that may not
master the bus end the transfer. The data of a read is staged where the transfer's staging lies, a failed read ends the transfer
with DATA_UNDERRUN; what a transfer no longer wants goes nowhere. A context that has drained lets its threads go on, and is armed no longer once its transfer's data has
ended. What lanes have queued then goes on where data or room has come (`lanesOn`). An index table's header and offsets are taken while they are sound; the bytes before a malformed element still move, and at
that element the transfer ends MALFORMED and halts a VF, at once where it is the first. -/
def Obligations.DataMoves : Prop :=
  ∀ (s : State), live s = true →
    (∀ (ch : Fin 144) (timed ok : Bool) (data : List Byte),
      let key := ctxOf ch.val timed
      let u := modChan key (fun c => { c with reading := none, stale := false, state := if c.work == .none_ then .idle else .armed }) s
      ((chan s key).reading = none → exec (.dmaReadCompletion ch timed ok data) s = .next (lanesOn s))
      ∧ ∀ i n x, (chan s key).reading = some (i, n) → item? s i = some x →
        ((chan s key).stale = true ∨ x.status ≠ none → exec (.dmaReadCompletion ch timed ok data) s = .next (lanesOn u))
        ∧ ((ok = false ∨ data.length ≠ n) → isOwn x = false → (chan s key).stale = false → x.status = none →
          ∃ t, exec (.dmaReadCompletion ch timed ok data) s = .next (lanesOn t) ∧ Completed i x 0x0F u t)
        ∧ (ok = true → data.length = n → (chan s key).stale = false → x.status = none → ∃ t, exec (.dmaReadCompletion ch timed ok data) s = .next (lanesOn t)
          ∧ item? t i = some { x with staged := x.staged + n } ∧ (chan t key).reading = none ∧ OtherItems i s t ∧ t.out = s.out
          ∧ (x.pages = [] → n ≤ 1024 → stageRead t x x.staged n = data)
          ∧ (x.pages ≠ [] → x.pages.Nodup → n ≤ x.pages.length * 4096 → stageRead t x x.staged n = data)))
    ∧ (∀ cut : Nat,
      let timed := !(movable s true).isEmpty
      let cls := if timed then 0 else 2
      let pick := match (movable s timed).find? fun e => (chan s (ctxOf e.1 timed)).state == .preempted with
        | some e => some e
        | none => roundRobin (tget 143 s.dma.lastServed cls) (movable s timed)
      serves s = true → (pick = none → exec (.dmaRequest cut) s = .next (lanesOn s))
      ∧ ∀ ch i x, pick = some (ch, i) → item? s i = some x →
        let key := ctxOf ch timed
        let u := { s with dma := { s.dma with lastServed := tput s.dma.lastServed cls ch }, pwr := { s.pwr with moved := true } }
        let ends := ∃ t, exec (.dmaRequest cut) s = .next (lanesOn t) ∧ (x.func = 0 → isOwn x = false → ∃ y, item? t i = some y ∧ y.status = some 0x0C)
          ∧ (x.func ≠ 0 → x.func < 128 → (fn t x.func).halted = true)
        (eDataIn x.raw = true → ∀ k m rest, x.segs = (k, m) :: rest →
          ((fn s x.func).bme = true → hostSpot x k = none → atBad x k = true → x.status = none → ends)
          ∧ ((fn s x.func).bme = true → ∀ a e, hostSpot x k = some (a, e) →
            let len := burstLen s x k m
            let n := if timed || cut = 0 then len else min len (64 * cut - a % 64)
            (firstBad s x k n = none → 0 < n → ∃ t, exec (.dmaRequest cut) s = .next (lanesOn t)
              ∧ .hostWrite x.func a (stageRead s x k n) ∈ t.out
              ∧ (chan t key).state = (if n < len then .preempted else if (chan s key).state == .preempted then .armed else (chan s key).state)
              ∧ item? t i = some { x with segs := takeSegs n x.segs, drained := x.drained + n } ∧ OtherItems i s t)
            ∧ (∀ b, firstBad s x k n = some b → isOwn x = false → x.status = none →
              ∃ t, exec (.dmaRequest cut) s = .next (lanesOn t) ∧ bit (evtWord t 147) 1 = true
              ∧ (∃ y, item? t i = some y ∧ y.status = some (lostStatus x) ∧ y.segs = []) ∧ OtherItems i s t))
          ∧ ((fn s x.func).bme = false → isOwn x = false → x.status = none → ∃ t, exec (.dmaRequest cut) s = .next (lanesOn t)
            ∧ (∃ y, item? t i = some y ∧ y.status = some (lostStatus x) ∧ y.segs = []) ∧ OtherItems i s t ∧ t.out = s.out))
        ∧ (eDataIn x.raw = false →
          ((fn s x.func).bme = true → hostSpot x x.asked = none → atBad x x.asked = true → x.status = none → ends)
          ∧ ((fn s x.func).bme = true → ∀ a e, hostSpot x x.asked = some (a, e) →
            let n := burstLen s x x.asked (eLength x.raw - x.asked)
            ∃ t, exec (.dmaRequest cut) s = .next (lanesOn t) ∧ t.out = s.out ++ [.hostRead x.func a n] ∧ (chan t key).reading = some (i, n)
            ∧ (chan t key).state = (if !timed && cut ≠ 0 && min n (64 * cut - a % 64) < n then .preempted else .moving)
            ∧ item? t i = some { x with asked := x.asked + n, pages := (stagePlace s x).1, offset := (stagePlace s x).2 } ∧ OtherItems i s t)
          ∧ ((fn s x.func).bme = false → isOwn x = false → x.status = none → ∃ t, exec (.dmaRequest cut) s = .next (lanesOn t) ∧ Completed i x 0x0F u t)))
    ∧ (∀ (ch : Fin 144) (timed : Bool),
      let key := ctxOf ch.val timed
      chanDrained s key = true → ∃ t, exec (.drainComplete ch timed) s = .next t
      ∧ (∀ e, eng t e = { eng s e with run := (eng s e).run.map fun r =>
          if r.wait == .drn && r.armed == some key then advance { r with wait := .running } else r })
      ∧ (∀ k, chan t k = if k = key ∧ armedOver s key = true then { chan s k with state := .idle, work := .none_ } else chan s k))
    ∧ (∀ (i first : Nat) (ok : Bool) (l : List Byte),
      (item? s i = none → exec (.indexTableReadDone i first ok l) s = .next s)
      ∧ ∀ x, item? s i = some x →
        ((eIdx x.raw = false ∨ x.status ≠ none) → exec (.indexTableReadDone i first ok l) s = .next s)
        ∧ (eIdx x.raw = true → x.status = none →
          let size := leNat ((l.drop 8).take 4)
          let bad := ∃ t, exec (.indexTableReadDone i first ok l) s = .next t
            ∧ (x.func = 0 → isOwn x = false → ∃ y, item? t i = some y ∧ y.status = some 0x0C) ∧ (x.func ≠ 0 → x.func < 128 → (fn t x.func).halted = true)
          let ask := fun n => if eIdxCount x.raw ≤ n then [] else
            [Output.hostRead x.func (eAddr x.raw + 16 + 4 * n) (4 * min 64 (eIdxCount x.raw - n))]
          let took := fun (d : IdxState) (os : List Nat) =>
            let win := os.take (eIdxCount x.raw - d.offsets.length)
            let good := idxFits x d.base.toNat d.size d.offsets.length win
            let y := { x with idx := some { d with offsets := d.offsets ++ good, bad := decide (good.length < win.length) } }
            (win.length ≤ good.length → (fn s x.func).bme = true → ∃ t, exec (.indexTableReadDone i first ok l) s = .next t
              ∧ item? t i = some y ∧ OtherItems i s t ∧ t.out = s.out ++ ask (d.offsets.length + 64))
            ∧ (good.length < win.length → d.offsets ++ good ≠ [] → exec (.indexTableReadDone i first ok l) s = .next (setItem s i y))
            ∧ (good.length < win.length → d.offsets ++ good = [] → bad)
          (ok = false → first = 0 → (fn s x.func).bme = true → bad)
          ∧ (ok = true → first = 0 → idxHeaderOk x (l.take 16) = false → bad)
          ∧ (ok = true → first = 0 → idxHeaderOk x (l.take 16) = true →
            took ⟨BitVec.ofNat 64 (leNat (l.take 8)), size, [], false⟩ (idxOffsets 64 (l.drop 16)))
          ∧ (∀ d, first ≠ 0 → x.idx = some d →
            (d.offsets.length ≠ first ∨ d.bad = true → ok = true ∨ (fn s x.func).bme = true → exec (.indexTableReadDone i first ok l) s = .next s)
            ∧ (d.offsets.length = first → d.bad = false →
              (ok = false → (fn s x.func).bme = true → exec (.indexTableReadDone i first ok l) s = .next (setItem s i { x with idx := some { d with bad := true } }))
              ∧ (ok = true → took d (idxOffsets 64 l))))))

/-- The endpoint buffer memory. BUF_CARVE assigns the lowest free CARVED pages of the function to an endpoint, BUF_RELEASE gives
them back once the endpoint is quiet, whose transfers then have nothing staged, each or refuses with its code; a scrubbed page is zeroed, alone of all bytes, and belongs
to its owner or to the pool; a scrub visit counts its error against the page until a lasting fault stopped the count. `DSP.CTX_CTL`
enables the contexts over a base that is not 0, and disables them only while nothing uses them. -/
def Obligations.BufferMemory : Prop :=
  ∀ (s : State), live s = true →
    (∀ (ctx : CmdCtx) (h : U16) (ep : Byte),
      let f := sender ctx.chan
      let key := ctxKey (field h 0 12) (field ep 0 4) (bit ep 7)
      let c : Ctx := tget {} s.topo.ctx key
      let no := bufRefusal s f h ep
      let free := freeCarve s f
      let n := dedicatedPages c
      let refused := fun (i : Instr) (code r : Nat) => ∃ t, exec i s = .next t ∧ Answered ctx code (bufReply s f r 0) s t ∧ t.topo = s.topo ∧ t.dma = s.dma
      let back := fun (code : Nat) (t : State) => Answered ctx code (bufReply t f 0 c.pages.length) s t
        ∧ (∀ y, tfind s.topo.ctx key = some y → tfind t.topo.ctx key = some { y with pages := [], releasing := none })
        ∧ (fn t f).bufBusy = false ∧ (∀ p ∈ c.pages, (page s p).state = .assigned → page t p = ⟨.carved, (page s p).owner, none⟩)
        ∧ ∀ i x, item? s i = some x → epStages h ep x = true → item? t i = some { x with pages := [], asked := x.moved, staged := x.moved }
      (no ≠ 0 → refused (.bufCarve ctx h ep) 0x70 no ∧ refused (.bufRelease ctx h ep) 0x71 no)
      ∧ (no = 0 → c.pages ≠ [] → refused (.bufCarve ctx h ep) 0x70 4)
      ∧ (no = 0 → c.pages = [] → free.length < n → refused (.bufCarve ctx h ep) 0x70 3)
      ∧ (no = 0 → c.pages = [] → n ≤ free.length → ∃ t, exec (.bufCarve ctx h ep) s = .next t ∧ Answered ctx 0x70 (bufReply t f 0 n) s t
        ∧ tfind t.topo.ctx key = some { c with pages := free.take n } ∧ (∀ p ∈ free.take n, page t p = ⟨.assigned, some f, some (field h 0 12, key)⟩)
        ∧ ∀ p, p ∉ free.take n → page t p = page s p)
      ∧ (no = 0 → (c.pages = [] ∨ c.releasing ≠ none) → refused (.bufRelease ctx h ep) 0x71 5)
      ∧ (no = 0 → c.pages ≠ [] → c.releasing = none → epQuiet s h ep = false → ∃ t, exec (.bufRelease ctx h ep) s = .next t
        ∧ tfind t.topo.ctx key = some { c with releasing := some ctx } ∧ (fn t f).bufBusy = true ∧ t.dma = s.dma ∧ t.out = s.out)
      ∧ (no = 0 → c.pages ≠ [] → c.releasing = none → epQuiet s h ep = true → ∃ t, exec (.bufRelease ctx h ep) s = .next t ∧ back 0x71 t)
      ∧ (∀ g : FuncId, (c.releasing = none ∨ g.val ≠ f ∨ epQuiet s h ep = false) → c.releasing = some ctx ∨ c.releasing = none →
        exec (.bufReleaseComplete g h ep) s = .next s)
      ∧ (∀ g : FuncId, g.val = f → c.releasing = some ctx → epQuiet s h ep = true → ∃ t, exec (.bufReleaseComplete g h ep) s = .next t ∧ back 0x71 t))
    ∧ (∀ p : Fin 3950, pageQuiet s p.val = true →
      ((page s p.val).state ≠ .scrubbing → exec (.pageScrubDone p) s = .next s)
      ∧ ((page s p.val).state = .scrubbing → ∃ t, exec (.pageScrubDone p) s = .next t
        ∧ (page t p.val = match (page s p.val).owner with | some f => ⟨.carved, some f, none⟩ | none => ⟨.free, none, none⟩)
        ∧ (∀ k, k ≠ p.val → page t k = page s k)
        ∧ (∀ a, mget t.dma.buf a = if p.val * 4096 ≤ a ∧ a < p.val * 4096 + 4096 then 0 else mget s.dma.buf a)
        ∧ (∀ b, b ∈ t.dma.bad ↔ b ∈ s.dma.bad ∧ b.1 ≠ p.val) ∧ Frame [.dma] s t))
    ∧ (∀ (p : Fin 4014) (w : Fin 512),
      let n := tget 0 (rolledClass s 0).counts p.val + 1
      let counted := fun (bad : EccResult) (k : Nat) => ∃ t, exec (.eccScrubVisit p w bad) s = .next t ∧ (errClass t 0).total = (errClass s 0).total + 1
        ∧ tget 0 (errClass t 0).counts p.val = n ∧ t.err.last = BitVec.ofNat 64 (0 + k * 2 ^ 4 + p.val * 2 ^ 8 + epoch32 s 0 * 2 ^ 32)
      exec (.eccScrubVisit p w .good) s = .next s
      ∧ (stoppedCounting s 0 p.val = true → exec (.eccScrubVisit p w .correctable) s = .next s
        ∧ exec (.eccScrubVisit p w .uncorrectable) s = .next { s with dma := { s.dma with bad := s.dma.bad ++ [(p.val, w.val)] } })
      ∧ (stoppedCounting s 0 p.val = false → n < errT (errClass s 0) → counted .correctable 0 ∧ counted .uncorrectable 1))
    ∧ (∀ v : U32, hostReaches s 0 = true →
      (bit v 0 = true → (s.front.ctxBase = 0 ∨ s.front.ctxEn = true) → exec (.dspCtxCtlWrite v) s = .next s)
      ∧ (bit v 0 = true → s.front.ctxBase ≠ 0 → s.front.ctxEn = false → (∀ p < 64, (port s p).wantEnable = false) →
        exec (.dspCtxCtlWrite v) s = .next { s with front := { s.front with ctxEn := true } })
      ∧ (bit v 0 = true → s.front.ctxBase ≠ 0 → s.front.ctxEn = false → exec (.dspCtxCtlWrite v) s = .next (each (List.finRange 64) (fun p u =>
          if (port u p.val).wantEnable then portEnableOp p (modPort p.val (fun x => { x with wantEnable := false }) u) else u)
          { s with front := { s.front with ctxEn := true } }))
      ∧ (bit v 0 = false → exec (.dspCtxCtlWrite v) s = .next (if ctxUnused s then { s with front := { s.front with ctxEn := false } } else s)))

/-- The function commands. Each is refused with its code by the rules in their order, and then changes nothing of the devices,
pages and entries. VF_CREATE gives the VF its queues, vectors, settings and the lowest FREE pages (log 32), to be zeroed first;
FUNC_MODIFY takes the fields that MASK selects, moves pages, and raises RES_CHANGE in a VF; FUNC_QUERY and DEV_QUERY answer what
stands; VF_DESTROY begins the VF's reset and is answered at its end; DEV_ASSIGN of devices that the function owns already is
answered at once, and a device that moves gets the next free handle number, at its next generation, owned by that function, while
its old number waits for its entries. -/
def Obligations.FunctionCommands : Prop :=
  ∀ (s : State) (ctx : CmdCtx), live s = true →
    let bar := funcBar s ctx
    let only := fun (code : Nat) (b : List Byte) (t : State) => Answered ctx code b s t ∧ t.topo = s.topo ∧ t.dma = s.dma ∧ t.front = s.front
    let done := fun (code f : Nat) (u : State) => reply ctx code (funcReply u 0 0 f) u
    let did := fun (code f : Nat) (u : State) => Answered ctx code (funcReply u 0 0 f) s (done code f u)
    (∀ d : FuncDesc, let f := d.func.toNat
      let lowest := freePages s d.pages.toNat
      (bar ≠ 0 → (∃ t, exec (.vfCreate ctx d) s = .next t ∧ only 0x80 (funcReply s bar 0 f) t)
        ∧ ∃ t, exec (.funcModify ctx d) s = .next t ∧ only 0x82 (funcReply s bar 0 f) t)
      ∧ (bar = 0 → (createRefusal s d).1 ≠ 0 → (∃ t, exec (.vfCreate ctx d) s = .next t ∧ only 0x80 (funcReply s (createRefusal s d).1 (createRefusal s d).2 f) t))
      ∧ (bar = 0 → (createRefusal s d).1 = 0 → ∃ u, exec (.vfCreate ctx d) s = .next (done 0x80 f u) ∧ did 0x80 f u
        ∧ fn u f = { fn s f with
          created := true, nSq := d.nSQ.toNat, nCr := d.nCR.toNat, nVec := d.nVec.toNat, quota := d.quota.toNat, pshare := d.pshare.toNat
          weight := d.weight.toNat, spillDepth := d.spillDepth.toNat, spillEntries := d.spillEntries.toNat, spillBase := d.spillBase }
        ∧ (∀ g, g ≠ f → fn u g = fn s g)
        ∧ ∀ p, page u p = if p ∈ lowest then ⟨.scrubbing, some f, none⟩ else page s p)
      ∧ (bar = 0 → (modifyRefusal s d).1 ≠ 0 → (∃ t, exec (.funcModify ctx d) s = .next t ∧ only 0x82 (funcReply s (modifyRefusal s d).1 (modifyRefusal s d).2 f) t))
      ∧ (bar = 0 → (modifyRefusal s d).1 = 0 → ∃ u, exec (.funcModify ctx d) s = .next (done 0x82 f u) ∧ did 0x82 f u
        ∧ { fn u f with vecs := [] } = { takeSettings d (fun b => bit d.mask b) (fn s f) with vecs := [] }
        ∧ (d.mask ≠ 0 → f ≠ 0 → f < 128 → bit (evtWord u (384 + f)) 1 = true)
        ∧ ∀ p, page u p = if bit d.mask 0 = false then page s p
          else if p ∈ freePages s (d.pages.toNat - (ownedPages s f).length) then ⟨.scrubbing, some f, none⟩
          else if p ∈ (freeCarve s f).take ((ownedPages s f).length - d.pages.toNat) then ⟨.scrubbing, none, none⟩ else page s p))
    ∧ (∀ v : Byte, let r := if bar ≠ 0 then bar else if v.toNat ≠ 0 ∧ vfThere s v.toNat = false then 2 else 0
      ∃ t, exec (.funcQuery ctx v) s = .next t ∧ only 0x83 (funcReply s r 0 v.toNat) t)
    ∧ (∀ v : Byte, let r := if bar ≠ 0 then bar else if v.toNat = 0 ∨ 128 ≤ v.toNat then 2 else if (fn s v.toNat).created = false then 4
          else if (fn s v.toNat).flrBusy = true then 0x0C else 0
      (r ≠ 0 → (∃ t, exec (.vfDestroy ctx v) s = .next t ∧ only 0x81 (funcReply s r 0 v.toNat) t))
      ∧ (r = 0 → ∃ t, exec (.vfDestroy ctx v) s = .next t ∧ (fn t v.toNat).flrBusy = true ∧ (fn t v.toNat).destroy = true
        ∧ (fn t v.toNat).destroyCtx = some ctx ∧ (fn t 0).cmdBusy = true))
    ∧ (∀ (f : Byte) (first : U16), let g := sender ctx.chan
      let all := ownedHandles s f.toNat
      let l := (all.drop first.toNat).take 64
      let refuse := fun (r : Nat) => (∃ t, exec (.devQuery ctx f first) s = .next t ∧ only 0x85 (BitVec.ofNat 8 r :: zeros 15) t)
      let other := g ≠ 0 ∧ (f.toNat ≠ g ∨ (fn s g).created = false)
      (other → refuse 1) ∧ (¬ other → (fn s g).cmdBusy = true → refuse 0x0B)
      ∧ (¬ other → (fn s g).cmdBusy = false → f.toNat ≠ 0 → vfThere s f.toNat = false → refuse 2)
      ∧ (¬ other → (fn s g).cmdBusy = false → (f.toNat = 0 ∨ vfThere s f.toNat = true) →
        (∃ t, exec (.devQuery ctx f first) s = .next t ∧ only 0x85 ([0, BitVec.ofNat 8 l.length] ++ natLE 2 all.length ++ zeros 12 ++ l.flatMap (devRecord s)) t)))
    ∧ (∀ b : AssignBody, let r := assignRefusal s ctx b
      (r ≠ 0 → (∃ t, exec (.devAssign ctx b) s = .next t ∧ only 0x84 (assignReply r 0 0) t))
      ∧ (r = 0 → assignMoves s b = [] → ∃ n, (∀ d, dev? s (field b.handle 0 12) = some d → (s.topo.dev.find? fun e => e.2.loc == d.loc).map Prod.fst = some n)
        ∧ (∃ t, exec (.devAssign ctx b) s = .next t ∧ only 0x84 (assignReply 0 0 (handleWord s n)) t))
      ∧ (∀ m n v, r = 0 → assignMoves s b = [m] → takeHandle s = some (n, v) → n ≠ m → ∃ u body l,
        (exec (.devAssign ctx b) s = .next (reply ctx 0x84 body u)
          ∨ ∃ waits, waits ≠ [] ∧ exec (.devAssign ctx b) s = .next (modFn 0 (fun x => { x with cmdBusy := true })
              { u with front := { u.front with assigns := u.front.assigns ++ [(ctx, waits, body)] } }))
        ∧ body.take 2 = [0, 1] ∧ (handle u n).use = .live ∧ (handle u n).gen = (handle s n).gen + 1 ∧ ownerOf u n = b.func.toNat
        ∧ (handle u m).use = .waiting l ∧ (handle u m).gen = (handle s m).gen))

/-- Function state. VF Enable makes VF1 to VF n appear, without resources; clearing it resets and destroys them all. With Bus
Master Enable set the replies that waited go out; a waiting map mark is written with PF0's Requester ID. A function reset makes the
function not ready and busy and ends each of its entries with ABORTED_FLR, at once or at the end of its transaction, but for those
that a DEV_ASSIGN already ends; a second one merges into the first. Its last step clears the function's registers and queues and
its event registers, and reports a VF with its figures; a VF that is destroyed loses its resources. An FLR of PF0 resets every VF
first. -/
def Obligations.FunctionResets : Prop :=
  ∀ (s : State), live s = true →
    let ends := fun (f : Nat) (t : State) => (fn t f).flrBusy = true ∧ (fn t f).ready = false
      ∧ ∀ i x, item? s i = some x → isOwn x = false → x.func = f → x.posted = none → (∀ e ∈ (fn s f).cr, ∀ w ∈ e.2.waiting, w.item ≠ some i) →
        (∀ a ∈ s.front.assigns, i ∉ a.2.1) → ∃ y, item? t i = some y ∧ ((y.status = some 0x0A ∧ y.awaitFin = false) ∨ (y.status = none ∧ y.stopAs = some 0x0A))
    (∀ n : Fin 128, s.fns.vfEnable = false → ∃ t, exec (.vfEnableSet n) s = .next t ∧ t.fns.vfEnable = true ∧ t.fns.numVfs = n.val
      ∧ Frame [.fns] s t ∧ ∀ v, fn t v = if 1 ≤ v ∧ v ≤ n.val then { fn s v with enabled := true } else fn s v)
    ∧ (s.fns.vfEnable = true → ∃ t, exec .vfEnableClear s = .next t ∧ t.fns.vfEnable = false ∧ t.fns.numVfs = 0
      ∧ ∀ v, v ≠ 0 → (fn t v).enabled = false)
    ∧ (∀ f : FuncId, (fn s f.val).enabled = true →
      exec (.busMasterEnableChange f false) s = .next (modFn f.val (fun x => { x with bme := false }) s)
      ∧ ∃ t, exec (.busMasterEnableChange f true) s = .next t ∧ (fn t f.val).bme = true
        ∧ ∀ r ∈ (box s f.val).replies, r.2.1 ≠ [] → .hostWrite f.val r.1.toNat r.2.1 ∈ t.out)
    ∧ (∀ (v : FuncId) (p : Nat), (fn s 0).bme = true → p ∈ (fn s v.val).dirty → exec (.dirtyMapWrite v p) s
      = .next (emit (.hostWrite 0 ((fn s v.val).dirtyBase.toNat + p) [1])
          (setFn s v.val { fn s v.val with dirty := (fn s v.val).dirty.filter (· != p) })))
    ∧ (isActive s = true → ∀ v : FuncId, vfThere s v.val = true → ((fn s v.val).flrBusy = true → exec (.vfFlr v) s = .next s)
      ∧ ((fn s v.val).flrBusy = false → ∃ t, exec (.vfFlr v) s = .next t ∧ ends v.val t))
    ∧ (isActive s = true → (fn s 0).flrBusy = false → ∃ u t, exec .pf0Flr s = .next t ∧ t = flrBegin 0 u ∧ (fn t 0).flrBusy = true
      ∧ u.fns.vfEnable = false ∧ ∀ v, v ≠ 0 → (fn u v).enabled = false)
    ∧ (∀ v : FuncId, flrOver s v.val = true → (fn s v.val).destroyCtx = none → ∃ u, exec (.vfResetDone v) s = .next (sweepHandles u)
      ∧ ((fn s v.val).destroy = false → { fn u v.val with vecs := [] } = { clearFunc (fn s v.val) with
          resetRpt := if v.val = 0 then (fn s v.val).resetRpt else resetReport s (fn s v.val) }
        ∧ (v.val ≠ 0 → bit (evtWord u (140 + v.val / 32)) (v.val % 32) = true ∧ evtWord u (384 + v.val) = 0)
        ∧ evtWord u (256 + v.val) = 0)
      ∧ ((fn s v.val).destroy = true → v.val ≠ 0 → (fn u v.val).created = false ∧ (fn u v.val).nSq = (funcInit v.val).nSq))

/-- Event sources and MSI-X vectors. A claim takes the first of the claimable sources with the highest PRIO, makes it ACTIVE,
clears its latch and answers its number with VALID; with none it answers 0. EN_SET, EN_CLR, PEND_SET and PEND_CLR change the bits written 1 of one word, and nothing else of a source; a
source that is then PENDING wakes the target to which it is offered, and one that rises with HOSTEN set counts on HVEC. A message
that falls due is sent by a vector that nothing holds, and sets the Pending Bit of one that is held; an unmask sends what waits; a write
of `INT.VEC_MOD` ends the interval at once. That MSIX_UNMASK stands for both masks and MSI-X Enable is the model's reading
(log 80). -/
def Obligations.EventSources : Prop :=
  ∀ (s : State),
    let inWord := fun (w : Fin 32) (v : U32) (x : Nat) => decide (x / 32 = w.val) && bit v (x % 32)
    let wakes := fun (x : Nat) (m u : State) => ∀ g, isPending m x = true → offered m x = some g → (target u g).asleep = false
    let due := fun (f v : Nat) (y : Vec) (u : State) => SameFuncs s u ∧ (∀ k, k ≠ v → vec u f k = vec s f k)
      ∧ vec u f v = { y with counted := 0, running := false, pend := (vec s f v).pend || !vecReady s f v }
      ∧ u.out = s.out ++ (if vecReady s f v = true then [.msix f v (vec s f v).addr (vec s f v).data] else [])
    (live s = true →
      (∀ t : Fin 18, (claimable s t.val = [] → exec (.eicClaim t) s = .next (emit (.claimed t.val 0) s))
        ∧ ∀ l r x p, claimable s t.val = l ++ (x, p) :: r → (∀ y ∈ l, y.2 < p) → (∀ y ∈ r, y.2 ≤ p) →
          (∃ c, (x, c) ∈ s.eic.src ∧ isPending s x = true ∧ bit c.tmask t.val = true ∧ c.prio.toNat = p ∧ runLevel s t.val < p)
          ∧ ∃ u, exec (.eicClaim t) s = .next u ∧ u.out = s.out ++ [.claimed t.val (BitVec.ofNat 16 (x + 32768))]
            ∧ (∀ y, source u y = if y = x then { source s x with active := some t, soft := false } else source s y)
            ∧ (∀ y, target u y = if y = t.val then { target s t.val with last := BitVec.ofNat 10 x } else target s y)
            ∧ Frame [.out, .eic] s u)
      ∧ (∀ (w : Fin 32) (v : U32),
        (∃ u, exec (.enSet w v) s = .next u ∧ Frame [.eic] s u ∧ (∀ x, evtWord u x = evtWord s x)
          ∧ (∀ x, source u x = { source s x with en := (source s x).en || inWord w v x })
          ∧ ∀ x, wordSources w v = [x] → wakes x (modSource x (fun c => { c with en := true }) s) u)
        ∧ (∃ u, exec (.enClr w v) s = .next u ∧ Frame [.eic] s u
          ∧ (∀ x, source u x = { source s x with en := (source s x).en && !inWord w v x }) ∧ ∀ x, target u x = target s x)
        ∧ (∃ u, exec (.pendSet w v) s = .next u ∧ Frame [.out, .eic, .fns] s u ∧ SameFuncs s u
          ∧ (∀ x, source u x = { source s x with soft := (source s x).soft || inWord w v x })
          ∧ ∀ x, wordSources w v = [x] → wakes x (modSource x (fun c => { c with soft := true }) s) u
            ∧ ((source s x).hosten = false ∨ level s x = true → u.out = s.out)
            ∧ ∀ h, (source s x).hosten = true → level s x = false → h = (source s x).hvec.toNat → (vec s 0 h).pend = false →
              (vec s 0 h).count.toNat ≤ 1 → vecReady s 0 h = true → u.out = s.out ++ [.msix 0 h (vec s 0 h).addr (vec s 0 h).data])
        ∧ (∃ u, exec (.pendClr w v) s = .next u ∧ Frame [.eic] s u
          ∧ (∀ x, source u x = { source s x with soft := (source s x).soft && !inWord w v x }) ∧ ∀ x, target u x = target s x))
      ∧ (∀ (f : FuncId) (v : Fin 2048),
        ((vec s f.val v.val).running = false → exec (.msixIntervalExpiry f v) s = .next s)
        ∧ ((vec s f.val v.val).running = true → ∃ u, exec (.msixIntervalExpiry f v) s = .next u ∧ due f.val v.val (vec s f.val v.val) u)
        ∧ (∃ u, exec (.msixUnmask f v) s = .next u ∧ Frame [.out, .fns] s u
          ∧ { fn u f.val with vecs := [] } = { fn s f.val with msixEn := true, fmask := false, vecs := [] }
          ∧ (∀ g, g ≠ f.val → { fn u g with vecs := [] } = { fn s g with vecs := [] })
          ∧ (∀ k, { vec u f.val k with pend := false }
            = { vec s f.val k with ctrl := if k = v.val then (vec s f.val k).ctrl &&& 0xFFFFFFFE else (vec s f.val k).ctrl, pend := false })
          ∧ ((vec s f.val v.val).pend = true → (fn s f.val).bme = true →
            (vec u f.val v.val).pend = false ∧ .msix f.val v.val (vec s f.val v.val).addr (vec s f.val v.val).data ∈ u.out)
          ∧ ((fn s f.val).bme = false → u.out = s.out ∧ ∀ k, (vec u f.val k).pend = (vec s f.val k).pend))))
    ∧ (∀ (f : FuncId) (value : U64), hostReaches s f.val = true →
      let v := field (fn s f.val).vecSel 0 11
      let new := { vec s f.val v with count := value.setWidth 8, time := BitVec.ofNat 10 (field value 8 10) }
      ((fn s f.val).nVec ≤ v → exec (.intVecModWrite f value) s = .next s)
      ∧ (v < (fn s f.val).nVec → ((vec s f.val v).counted ≠ 0 → ∃ u, exec (.intVecModWrite f value) s = .next u ∧ due f.val v new u)
        ∧ ((vec s f.val v).counted = 0 → ∃ u, exec (.intVecModWrite f value) s = .next u ∧ u.out = s.out ∧ SameFuncs s u
          ∧ ∀ k, vec u f.val k = if k = v then { new with counted := 0, running := false } else vec s f.val k)))

/-- COMPLETE ends the service of a source that the target holds: it is PENDING then where its level is high, it is enabled and its
priority is not 0, and wakes the target to which it is offered; else it is idle. COMPLETE of a source that the target does not hold
is ignored, and clearing the enable of an ACTIVE source leaves it ACTIVE (R421). -/
def Obligations.ServiceEnds : Prop :=
  ∀ (s : State) (t : Fin 18) (x : Fin 1024), live s = true →
    let y := source s x.val
    (y.active ≠ some t → exec (.eicComplete t x) s = .next s)
    ∧ (y.active = some t → ∃ u, exec (.eicComplete t x) s = .next u ∧ Frame [.eic] s u
      ∧ (∀ k, source u k = if k = x.val then { y with active := none } else source s k)
      ∧ (isPending u x.val = true ↔ level s x.val = true ∧ y.en = true ∧ y.prio ≠ 0)
      ∧ (isPending u x.val = true → ∀ g, offered (modSource x.val (fun c => { c with active := none }) s) x.val = some g →
        (target u g).asleep = false))
    ∧ (∀ (w : Fin 32) (v : U32), ∃ u, exec (.enClr w v) s = .next u ∧ (source u x.val).active = y.active)

/-- Mailboxes and the I3C sideband. DONE
empties the outbound slot; a waiting notice goes out first in, first out, once the slot is empty. The firmware takes a notice,
clearing FULL only, and has its block read; a block that cannot be had is ABORTED, a header that fails a check is answered with its
status and no body, in the order of the checks, and a good command does what its own row does. I3C writes go to rising offsets
from the one given, reads come from the last one written, ENTDAA gives a target without address one, and a bus reset clears both
slots. Bytes beyond an on-chip buffer are dropped (log 79). -/
def Obligations.Mailboxes : Prop :=
  ∀ (s : State),
    let only := fun (k : Nat) (y : MBox) (u : State) => ∀ j, box u j = if j = k then y else box s j
    let committed := fun (b : Box) (n : Notice) (u : State) =>
      (∀ e, b = .toEngine e → (eng u e.val).gated = false ∧ (target u e.val).asleep = false)
      ∧ (boxKey b < 146 → coresSleep s = true → u.pwr.domainAwake = true)
      ∧ only (boxKey b) { box s (boxKey b) with
          inPtr := n.ptr, inSlot := n, inColl := (box s (boxKey b)).inColl || (box s (boxKey b)).inFull, inFull := true } u
    (∀ b : Box, ((canCommit s b = false ∨ 130 ≤ boxKey b) → exec (.mbxOutDone b) s = .next s)
      ∧ (canCommit s b = true → boxKey b < 130 → ∃ u, exec (.mbxOutDone b) s = .next u ∧ Frame [.mail] s u
        ∧ only (boxKey b) { box s (boxKey b) with outFull := false, outColl := false } u))
    ∧ (∀ b : Box, fwRuns s = true → let y := box s (boxKey b)
      ((y.waiting = [] ∨ y.outFull = true) → exec (.mbxOutboundPost b) s = .next s)
      ∧ ∀ n r, y.waiting = n :: r → y.outFull = false → ∃ u, exec (.mbxOutboundPost b) s = .next u ∧ Frame [.out, .mail, .fns] s u
        ∧ only (boxKey b) { y with waiting := r, outSlot := n, outFull := true } u ∧ (boxKey b = 129 → u.out = s.out ++ [.ibi n.typ])
        ∧ ∀ v, boxKey b < 128 → bit y.vec 15 = true → v = field y.vec 0 11 → (vec s (boxKey b) v).pend = false →
          (vec s (boxKey b) v).count.toNat ≤ 1 → vecReady s (boxKey b) v = true →
          u.out = s.out ++ [.msix (boxKey b) v (vec s (boxKey b) v).addr (vec s (boxKey b) v).data])
    ∧ (∀ b : Box, let y := box s (boxKey b)
      (canTake s b = false → exec (.mbxNoticeTake b) s = .next s)
      ∧ (canTake s b = true → ∃ u, exec (.mbxNoticeTake b) s = .next u
        ∧ (boxChan b = none → only (boxKey b) { y with inFull := false } u)
        ∧ (boxChan b ≠ none → badPtr s b y.inSlot = true → (box u (boxKey b)).inFull = false
          ∧ (box u (boxKey b)).inColl = y.inColl ∧ (box u (boxKey b)).taken = y.taken ∧ Posted (boxKey b) ⟨y.inSlot.ptr, y.inSlot.seq, 1⟩ u)
        ∧ (boxChan b ≠ none → badPtr s b y.inSlot = false → only (boxKey b) { y with inFull := false, taken := y.taken ++ [y.inSlot] } u
          ∧ ∀ f, b = .func f → .hostRead f.val y.inSlot.ptr.toNat (16 + (bodySize y.inSlot.typ.toNat).getD 0) ∈ u.out)))
    ∧ (∀ (b : Box) (c : Chan) (n : Notice) (rest : List Notice) (ok : Bool) (hdr : BitVec 128) (got : List Byte), boxChan b = some c →
      (box s (boxKey b)).taken = n :: rest → coresServe s b = true →
      let v := modBox (boxKey b) (fun x => { x with taken := rest }) s
      let chip := onChip s b
      let block := match chip with
        | some m => mread m.1 n.ptr.toNat (m.2 - n.ptr.toNat)
        | none => []
      let h := if chip.isSome then BitVec.ofNat 128 (leNat (block.take 16)) else hdr
      let body := if chip.isSome then block.drop 16 else got
      let code := n.typ.toNat
      let refused := fun (st : Nat) => ∃ u, exec (.mbxCommandRead b ok hdr got) s = .next u
        ∧ let at_ := if c == .i3c then 0 else if !replyAligned c h || (hdrReply h = 0 && c != .secure) then n.ptr else hdrReply h
          let bytes := replyHeader (hdrByte h 0) (hdrSeq h) 0 st (sender c) (hdrReply h)
          (∀ f, c = .nonSecure f → if (fn s f.val).bme then .hostWrite f.val at_.toNat bytes ∈ u.out ∧ Posted f.val ⟨at_, n.seq, n.typ⟩ u
            else (at_, bytes, ⟨at_, n.seq, n.typ⟩) ∈ (box u f.val).replies)
          ∧ (c = .secure → u.mail.secOut = mwrite s.mail.secOut at_.toNat (bytes.take (2048 - at_.toNat)) ∧ Posted 128 ⟨at_, n.seq, n.typ⟩ u)
          ∧ (c = .i3c → u.mail.i3cOut = mwrite s.mail.i3cOut 0 (bytes.take 256) ∧ Posted 129 ⟨at_, n.seq, n.typ⟩ u)
      let bad := hdrByte h 0 ≠ code ∨ hdrSeq h ≠ n.seq ∨ hdrByte h 1 ≠ 0 ∨ hdrByte h 6 ≠ 0 ∨ hdrByte h 7 ≠ 0 ∨ replyAligned c h = false
      let wrong := 0xA0 ≤ code ↔ ∃ f, c = .nonSecure f
      (chip = none → ok = false → ∃ u, exec (.mbxCommandRead b ok hdr got) s = .next u ∧ Posted (boxKey b) ⟨n.ptr, n.seq, 1⟩ u)
      ∧ (chip.isSome = true ∨ ok = true → (bad → refused 1) ∧ (¬ bad → (bodySize code = none → refused 2)
        ∧ (bodySize code ≠ none → (wrong → refused 4) ∧ (¬ wrong → (lenOk c code (hdrLen h) body = false → refused 3)
          ∧ (lenOk c code (hdrLen h) body = true → ∀ d, CommandRow ⟨c, n.seq, n.ptr, hdrReply h⟩ code body d →
            ∃ w, exec d v = .next w ∧ exec (.mbxCommandRead b ok hdr got) s = .next (domainRests w)))))))
    ∧ ((live s = false ∨ s.mail.i3cAddr = none) → (∀ a l, exec (.i3cPrivateWrite a l) s = .next s) ∧ ∀ n, exec (.i3cPrivateRead n) s = .next s)
    ∧ (live s = true → s.mail.i3cAddr ≠ none →
      (∀ (a : U16) (l : List Byte), ∃ u, exec (.i3cPrivateWrite a l) s = .next u ∧ u.mail.i3cOffset = a
        ∧ (a.toNat + l.length ≤ 256 → u.mail.i3cIn = mwrite s.mail.i3cIn a.toNat l ∧ Frame [.mail] s u)
        ∧ (512 ≤ a.toNat → a.toNat + l.length ≤ 522 → u.mail.i3cStage = mwrite s.mail.i3cStage (a.toNat - 512) l ∧ u.mail.i3cIn = s.mail.i3cIn)
        ∧ (∀ typ, a = 0x20A → l = [typ] → committed .i3c ⟨BitVec.ofNat 64 (leNat (mread s.mail.i3cStage 0 8)),
            BitVec.ofNat 16 (leNat (mread s.mail.i3cStage 8 2)), typ⟩ u)
        ∧ (∀ x, a = 0x220 → l = [x] → only 129 { box s 129 with inColl := (box s 129).inColl && !bit x 1 } u)
        ∧ (a = 0x221 → l = [1] → only 129 { box s 129 with outFull := false, outColl := false } u))
      ∧ (∀ n : Nat, ∃ l, exec (.i3cPrivateRead n) s = .next (emit (.i3cData l) s) ∧ l.length = n ∧ ∀ i, i < n →
        let a := s.mail.i3cOffset.toNat + i
        let y := box s 129
        (a < 0x100 → l[i]? = some (mget s.mail.i3cIn a)) ∧ (0x100 ≤ a → a < 0x200 → l[i]? = some (mget s.mail.i3cOut (a - 0x100)))
        ∧ (0x210 ≤ a → a < 0x21B → l[i]? = (natLE 8 y.outSlot.ptr.toNat ++ natLE 2 y.outSlot.seq.toNat ++ [y.outSlot.typ])[a - 0x210]?)
        ∧ (a = 0x220 → l[i]? = some (BitVec.ofNat 8 (ofBool y.inFull + 2 * ofBool y.inColl + 4 * ofBool y.outFull + 8 * ofBool y.outColl)))))
    ∧ (∀ a : BitVec 7, exec (.entdaa a) s = .next (if live s = true ∧ s.mail.i3cAddr = none then
        { s with mail := { s.mail with i3cAddr := some a } } else s))
    ∧ (live s = true → ∃ u, exec .i3cBusReset s = .next u ∧ Frame [.out, .eic, .mail, .fns] s u ∧ u.mail.i3cAddr = s.mail.i3cAddr
      ∧ only 129 { box s 129 with inSlot := ⟨0, 0, 0⟩, inFull := false, inColl := false, outSlot := ⟨0, 0, 0⟩, outFull := false, outColl := false, inPtr := 0 } u)

/-- The commit of a notice: SEQ and TYPE go to the inbound slot with the PTR staged before, all at once, and FULL is set; a notice
that still stood there is replaced, which COLLISION shows; no other mailbox changes, and the receiver wakes (R430). -/
def Obligations.NoticeCommit : Prop :=
  ∀ (s : State) (b : Box) (seq : U16) (typ : Byte),
    let y := box s (boxKey b)
    (canCommit s b = false → exec (.mbxInCommit b seq typ) s = .next s)
    ∧ (canCommit s b = true → ∃ u, exec (.mbxInCommit b seq typ) s = .next u ∧ Frame [.out, .eic, .mail, .eng, .fns, .pwr] s u
      ∧ (∀ j, box u j = if j = boxKey b then { y with inSlot := ⟨y.inPtr, seq, typ⟩, inFull := true, inColl := y.inColl || y.inFull } else box s j)
      ∧ (∀ e, b = .toEngine e → (eng u e.val).gated = false ∧ (target u e.val).asleep = false)
      ∧ (boxKey b < 146 → coresSleep s = true → u.pwr.domainAwake = true))

/-- Register writes of the host. One that does not reach the part, or is not aligned, changes nothing. A wide write of two 32-bit
registers acts as two narrow ones, the lower first; a narrow write of a 64-bit register reaches that half alone (here the staged PTR).
A write of a register that has a row of its own does what that row does: the report ring, the compare units, the free-run length, the
axes, the context table, the kicks, the mailboxes, the vectors, the error windows, the power target and the core-die reset with its
key 0xA5. An event register is cleared where 1 is written. A queue operation begins unless one is in progress. -/
def Obligations.RegisterWrites : Prop :=
  ∀ (s : State),
    let w32 := fun (f : FuncId) (a : Nat) (v : U32) => exec (.registerWrite f a false (v.setWidth 64)) s
    let w64 := fun (f : FuncId) (a : Nat) (v : U64) => exec (.registerWrite f a true v) s
    let clears := fun (f : FuncId) (a key : Nat) (v : U32) => ∃ t, w32 f a v = .next t
      ∧ ∀ k, evtWord t k = if k = key then evtWord s key &&& ~~~v else evtWord s k
    (∀ f a wide v, (writeReaches s f a = false ∨ a % (if wide then 8 else 4) ≠ 0) → exec (.registerWrite f a wide v) s = .next s)
    ∧ (∀ f a v, a % 8 = 0 → writeReaches s f a = true → get64 s f a = none → ∃ u, w32 f a (v.setWidth 32) = .next u
      ∧ (writeReaches u f (a + 4) = true → w64 f a v = exec (.registerWrite f (a + 4) false (v >>> 32)) u))
    ∧ (hostReaches s 0 = true →
      (∀ v, w32 0 0x018 v = exec (.topoRingWrite v) s ∧ w64 0 0x010 (v.setWidth 64) = exec (.topoBaseWrite (v.setWidth 64)) s
        ∧ w32 0 0x1014 v = exec (.tbFreeLenWrite v) s ∧ w32 0 0x1028 v = exec (.tbCmpCfgWrite v) s ∧ w32 0 0x4018 v = exec (.dspCtxCtlWrite v) s
        ∧ w32 0 0x3C000 v = exec (.pwrTargetWrite v) s)
      ∧ (∀ v : U64, w64 0 0x1030 v = exec (.tbCmpTargetWrite v) s ∧ w64 0 0x30090 v = exec (.errPortFailedClear v) s)
      ∧ (∀ (i : Fin 4) v, w32 0 (0x1104 + 0x40 * i.val) v = exec (.axCpcWrite i v) s)
      ∧ (∀ (c : Fin 7) v, w32 0 (0x30000 + 0x10 * c.val) v = exec (.errCfgWrite c v) s)
      ∧ (∀ v, (field v 0 8 = 0xA5 → w32 0 0x3C018 v = exec .coreReset s) ∧ (field v 0 8 ≠ 0xA5 → w32 0 0x3C018 v = .next s))
      ∧ (∀ e ∈ [(0x034, 147), (0x1020, 144), (0x4020, 145), (0x3009C, 148), (0x38020, 149), (0x80010, 146)], ∀ v, clears 0 e.1 e.2 v)
      ∧ (∀ (p : PortId) v, clears 0 (0x10008 + 0x400 * p.val) p.val v))
    ∧ (∀ f : FuncId, hostReaches s f.val = true →
      let m := if f.val = 0 then 0x40000 else 0x200
      let old := (box s f.val).inPtr.toNat
      let ptr := fun (o : Host.Outcome State Fault Refusal) (n : Nat) => ∃ t, o = .next t ∧ Frame [.mail] s t
        ∧ ∀ k, box t k = if k = f.val then { box s f.val with inPtr := BitVec.ofNat 64 n } else box s k
      (∀ v, ptr (w64 f m v) v.toNat) ∧ (∀ v, ptr (w32 f m v) (old / 2 ^ 32 * 2 ^ 32 + v.toNat) ∧ ptr (w32 f (m + 4) v) (v.toNat * 2 ^ 32 + old % 2 ^ 32))
      ∧ (∀ v, w32 f (m + 8) v = exec (.mbxInCommit (.func f) (BitVec.ofNat 16 (field v 0 16)) (BitVec.ofNat 8 (field v 16 8))) s
        ∧ w32 f (m + 0x1C) v = if bit v 0 then exec (.mbxOutDone (.func f)) s else .next s)
      ∧ (∀ v (n : Fin 4096), n.val = field v 0 12 → w32 f 0x11C v =
        let i := BitVec.ofNat 16 (field v 16 16)
        if bit v 12 then exec (.qKickCr f n i) s else if bit v 13 then exec (.qKickSqInval f n i) s else exec (.qKickSq f n i) s)
      ∧ (∀ v, w64 f 0x148 v = exec (.intVecModWrite f v) s) ∧ (∀ v, clears f 0x138 (256 + f.val) v)
      ∧ (f.val ≠ 0 → ∀ v, clears f 0x010 (384 + f.val) v)
      ∧ (∀ v, w32 f 0x104 v = .next (if (fn s f.val).busy = true ∨ field v 0 2 = 0 then s
        else modFn f.val (fun x => { x with busy := true, op := field v 0 2 }) s)))

/-- The firmware and platform commands, while the firmware runs. A range of flash in the running slot is refused ACTIVE_SLOT (1), one
that does not lie in the other slot BAD_RANGE (2), and so is an erase whose offset is not that of a sector. FW_WRITE programs bytes,
FW_ERASE makes them 0xFF, and both clear what FW_VERIFY has found; FW_VERIFY checks the inactive slot (VERIFY_FAILED 4), and
FW_ACTIVATE marks it for the next boot where it has passed (NOT_VERIFIED 5). The bodies of FW_QUERY and PLAT_SENSORS, and the bytes of
a reply behind its result, are free values (log 23); that programming a byte only clears bits is presumed (log 81). -/
def Obligations.FirmwareCommands : Prop :=
  ∀ (s : State) (ctx : CmdCtx), fwRuns s = true →
    let base := fun (b : Bool) => if b then 7340032 else 0
    let on := base s.pwr.slotB
    let off := base !s.pwr.slotB
    let range := fun (a n : Nat) => if (a < on + 7340032 ∧ on < a + n) ∨ (n = 0 ∧ on ≤ a ∧ a < on + 7340032) then 1
      else if off ≤ a ∧ a + n ≤ off + 7340032 then 0 else 2
    let ends := fun (code res : Nat) (v : Bool) (next : Option Bool) (cell : Nat → Byte) (u : State) =>
      (∃ rest, Answered ctx code (BitVec.ofNat 8 res :: rest) s u) ∧ Frame [.out, .free, .mail, .fns, .flash] s u
        ∧ u.flash.verified = v ∧ u.flash.next = next ∧ ∀ a, flashByte u a = cell a
    let same := fun (code res : Nat) => ends code res s.flash.verified s.flash.next (flashByte s)
    (∃ u, exec (.fwQuery ctx) s = .next u ∧ Frame [.out, .mail, .fns] s u ∧ Answered ctx 0xA0 (0 :: Config.fwQueryBytes s.pwr.slotB
      (slotVersion s false) (slotValid s false) (slotVersion s true) (slotValid s true) Config.fusedMinimum) s u)
    ∧ (∀ (a : U32) (data : List Byte),
      (range a.toNat data.length ≠ 0 → (∃ u, exec (.fwWrite ctx a data) s = .next u ∧ same 0xA1 (range a.toNat data.length) u))
      ∧ (range a.toNat data.length = 0 → (∃ u, exec (.fwWrite ctx a data) s = .next u ∧ ends 0xA1 0 false s.flash.next (fun k =>
        if a.toNat ≤ k ∧ k < a.toNat + data.length then flashByte s k &&& data.getD (k - a.toNat) 0 else flashByte s k) u)))
    ∧ (∀ (a n : U32),
      (range a.toNat (n.toNat * 4096) ≠ 0 → (∃ u, exec (.fwErase ctx a n) s = .next u ∧ same 0xA2 (range a.toNat (n.toNat * 4096)) u))
      ∧ (range a.toNat (n.toNat * 4096) = 0 → a.toNat % 4096 ≠ 0 → (∃ u, exec (.fwErase ctx a n) s = .next u ∧ same 0xA2 2 u))
      ∧ (range a.toNat (n.toNat * 4096) = 0 → a.toNat % 4096 = 0 → (∃ u, exec (.fwErase ctx a n) s = .next u ∧ ends 0xA2 0 false s.flash.next (fun k =>
        if a.toNat ≤ k ∧ k < a.toNat + n.toNat * 4096 then 0xFF else flashByte s k) u)))
    ∧ (∃ u, exec (.fwVerify ctx) s = .next u ∧ ends 0xA3 (if slotValid s (!s.pwr.slotB) then 0 else 4) (slotValid s !s.pwr.slotB) s.flash.next (flashByte s) u)
    ∧ (s.flash.verified = true → (∃ u, exec (.fwActivate ctx) s = .next u ∧ ends 0xA4 0 true (some !s.pwr.slotB) (flashByte s) u))
    ∧ (s.flash.verified = false → (∃ u, exec (.fwActivate ctx) s = .next u ∧ same 0xA4 5 u))
    ∧ (∀ temps powers, ∃ u, exec (.platSensors ctx temps powers) s = .next u ∧ Frame [.out, .mail, .fns] s u
      ∧ Answered ctx 0xA8 (0 :: Config.sensorBytes temps powers (powerSts s)) s u)
end

