-- ==== Sys2Proof/Laws/CalmOps.lean ====
section
/-! SUPPORT. What no operation of the block touches. `Calm s t` says that `t` has the waiting commands and the straps of `s`, is
in power-on reset exactly if `s` is, and that the strap PAIR_EN and the pair state agree in `t` if they agree in `s`. One lemma
per operation, in the order of the model; a lemma takes the state before any operations that have already run. -/

set_option linter.unusedTactic false
set_option linter.unreachableTactic false

namespace Sys2Proof.Machine

set_option Elab.async false

/-- The pair state is SINGLE exactly if PAIR_EN was low. -/
def Agrees (s : State) : Prop := s.pair.st = .single ↔ s.straps.pairEn = false

/-- Nothing of this is touched. -/
def Calm (s t : State) : Prop :=
  t.pending = s.pending ∧ t.straps = s.straps ∧ t.pwr.por = s.pwr.por ∧ (Agrees s → Agrees t)

/-- The same of an outcome: of the next state, if there is one. -/
def CalmO (s : State) (o : Host.Outcome State Fault Refusal) : Prop := ∀ t, o = .next t → Calm s t

theorem Calm.refl (s : State) : Calm s s := ⟨rfl, rfl, rfl, id⟩

theorem Calm.trans {s t u : State} (h : Calm s t) (k : Calm t u) : Calm s u :=
  ⟨k.1.trans h.1, k.2.1.trans h.2.1, k.2.2.1.trans h.2.2.1, k.2.2.2 ∘ h.2.2.2⟩

theorem Calm.ite {s a b : State} {c : Prop} [Decidable c] (h : Calm s a) (k : Calm s b) :
    Calm s (if c then a else b) := by split <;> assumption

theorem CalmO.ite {s : State} {a b : Host.Outcome State Fault Refusal} {c : Prop} [Decidable c] (h : CalmO s a)
    (k : CalmO s b) : CalmO s (if c then a else b) := by split <;> assumption

theorem CalmO.next {s t : State} (h : Calm s t) : CalmO s (.next t) := by
  intro u hu; cases hu; exact h

/-- Any other field may change. -/
theorem Calm.mk {s t : State} {o f e m n sc fr d tb tp fs sl er ct fl} (h : Calm s t) :
    Calm s ⟨t.pending, o, f, e, m, n, sc, fr, d, tb, tp, fs, sl, er, t.pair, ct, t.straps, t.pwr, fl⟩ := h

/-- A change of the Pair block that keeps its state, and of the Power block that keeps `por`. -/
theorem Calm.pair {s t : State} {o f e m n sc fr d tb tp fs sl er p ct pw fl} (h : Calm s t)
    (hp : p.st = t.pair.st) (hw : pw.por = t.pwr.por) :
    Calm s ⟨t.pending, o, f, e, m, n, sc, fr, d, tb, tp, fs, sl, er, p, ct, t.straps, pw, fl⟩ :=
  ⟨h.1, h.2.1, hw.trans h.2.2.1, fun a => by
    have k := h.2.2.2 a; unfold Agrees at k ⊢; show p.st = _ ↔ _; rw [hp]; exact k⟩

/-- A change of the pair state of a part of a pair to a state other than SINGLE. -/
theorem Calm.pairSt {s t : State} {o f e m n sc fr d tb tp fs sl er p ct pw fl} (h : Calm s t)
    (hp : p.st ≠ .single) (ht : Agrees s → s.straps.pairEn = true) (hw : pw.por = t.pwr.por) :
    Calm s ⟨t.pending, o, f, e, m, n, sc, fr, d, tb, tp, fs, sl, er, p, ct, t.straps, pw, fl⟩ :=
  ⟨h.1, h.2.1, hw.trans h.2.2.1, fun a => by
    have k := ht a; unfold Agrees; show p.st = _ ↔ t.straps.pairEn = _; simp [hp, h.2.1, k]⟩

/-- A part in a state other than SINGLE is one of a pair. -/
theorem pairEn_of {s : State} (h : s.pair.st ≠ .single) (a : Agrees s) : s.straps.pairEn = true := by
  unfold Agrees at a
  cases hb : s.straps.pairEn
  · exact absurd (a.2 hb) h
  · rfl

theorem done_calm {s0 s : State} (hc0 : Calm s0 s) :
    CalmO s0 (done s) := by
  unfold done; try dsimp only
  repeat' (with_reducible first | assumption | intro _ | apply Calm.ite | apply CalmO.ite | apply CalmO.next | split | apply Calm.mk | refine Calm.pair ?_ rfl rfl)

theorem guarded_calm {s0 : State} (b : Bool) {s : State} (f : State → State) (hf : ∀ t, Calm s0 t → Calm s0 (f t))
    (h : Calm s0 s) : CalmO s0 (guarded b s f) := by
  unfold guarded; exact CalmO.next (Calm.ite (hf s h) h)

/-- The same, where what is done may use the guard. -/
theorem guarded_calm_if {s0 : State} (b : Bool) {s : State} (f : State → State) (hf : b = true → Calm s0 (f s))
    (h : Calm s0 s) : CalmO s0 (guarded b s f) := by
  unfold guarded
  split
  · next hb => exact CalmO.next (hf hb)
  · exact CalmO.next h

theorem emit_calm (o : Output) {s0 s : State} (hc0 : Calm s0 s) :
    Calm s0 (emit o s) := by
  unfold emit; try dsimp only
  repeat' (with_reducible first | assumption | intro _ | apply Calm.ite | apply CalmO.ite | apply CalmO.next | split | apply Calm.mk | refine Calm.pair ?_ rfl rfl)

theorem each_calm {α : Type} (l : List α) (f : α → State → State) {s0 s : State}
    (hf : ∀ x t, Calm s0 t → Calm s0 (f x t)) (h : Calm s0 s) : Calm s0 (each l f s) := by
  unfold each
  induction l generalizing s with
  | nil => exact h
  | cons x r ih => exact ih (hf x s h)

theorem freshIndex_calm {s0 s : State} (h : Calm s0 s) : Calm s0 (freshIndex s).2 := h

theorem setFn_calm {s0 s : State} (f : ℕ) (x : Func) (hc0 : Calm s0 s) :
    Calm s0 (setFn s f x) := by
  unfold setFn; try dsimp only
  repeat' (with_reducible first | assumption | intro _ | apply Calm.ite | apply CalmO.ite | apply CalmO.next | split | apply Calm.mk | refine Calm.pair ?_ rfl rfl)

theorem modFn_calm (f : ℕ) (g : Func → Func) {s0 s : State} (hc0 : Calm s0 s) :
    Calm s0 (modFn f g s) := by
  unfold modFn; try dsimp only
  repeat' (with_reducible first | assumption | intro _ | apply setFn_calm | apply Calm.ite | apply CalmO.ite | apply CalmO.next | split | apply Calm.mk | refine Calm.pair ?_ rfl rfl)

theorem setPort_calm {s0 s : State} (p : ℕ) (x : Port) (hc0 : Calm s0 s) :
    Calm s0 (setPort s p x) := by
  unfold setPort; try dsimp only
  repeat' (with_reducible first | assumption | intro _ | apply Calm.ite | apply CalmO.ite | apply CalmO.next | split | apply Calm.mk | refine Calm.pair ?_ rfl rfl)

theorem modPort_calm (p : ℕ) (g : Port → Port) {s0 s : State} (hc0 : Calm s0 s) :
    Calm s0 (modPort p g s) := by
  unfold modPort; try dsimp only
  repeat' (with_reducible first | assumption | intro _ | apply setPort_calm | apply Calm.ite | apply CalmO.ite | apply CalmO.next | split | apply Calm.mk | refine Calm.pair ?_ rfl rfl)

theorem setEng_calm {s0 s : State} (e : ℕ) (x : Engine) (hc0 : Calm s0 s) :
    Calm s0 (setEng s e x) := by
  unfold setEng; try dsimp only
  repeat' (with_reducible first | assumption | intro _ | apply Calm.ite | apply CalmO.ite | apply CalmO.next | split | apply Calm.mk | refine Calm.pair ?_ rfl rfl)

theorem modEng_calm (e : ℕ) (g : Engine → Engine) {s0 s : State} (hc0 : Calm s0 s) :
    Calm s0 (modEng e g s) := by
  unfold modEng; try dsimp only
  repeat' (with_reducible first | assumption | intro _ | apply setEng_calm | apply Calm.ite | apply CalmO.ite | apply CalmO.next | split | apply Calm.mk | refine Calm.pair ?_ rfl rfl)

theorem setItem_calm {s0 s : State} (i : ℕ) (x : Item) (hc0 : Calm s0 s) :
    Calm s0 (setItem s i x) := by
  unfold setItem; try dsimp only
  repeat' (with_reducible first | assumption | intro _ | apply Calm.ite | apply CalmO.ite | apply CalmO.next | split | apply Calm.mk | refine Calm.pair ?_ rfl rfl)

theorem modItem_calm (i : ℕ) (g : Item → Item) {s0 s : State} (hc0 : Calm s0 s) :
    Calm s0 (modItem i g s) := by
  unfold modItem; try dsimp only
  repeat' (with_reducible first | assumption | intro _ | apply setItem_calm | apply Calm.ite | apply CalmO.ite | apply CalmO.next | split | apply Calm.mk | refine Calm.pair ?_ rfl rfl)

theorem delItem_calm {s0 s : State} (i : ℕ) (hc0 : Calm s0 s) :
    Calm s0 (delItem s i) := by
  unfold delItem; try dsimp only
  repeat' (with_reducible first | assumption | intro _ | apply Calm.ite | apply CalmO.ite | apply CalmO.next | split | apply Calm.mk | refine Calm.pair ?_ rfl rfl)

theorem setDev_calm {s0 s : State} (h : ℕ) (x : Device) (hc0 : Calm s0 s) :
    Calm s0 (setDev s h x) := by
  unfold setDev; try dsimp only
  repeat' (with_reducible first | assumption | intro _ | apply Calm.ite | apply CalmO.ite | apply CalmO.next | split | apply Calm.mk | refine Calm.pair ?_ rfl rfl)

theorem modDev_calm (h : ℕ) (g : Device → Device) {s0 s : State} (hc0 : Calm s0 s) :
    Calm s0 (modDev h g s) := by
  unfold modDev; try dsimp only
  repeat' (with_reducible first | assumption | intro _ | apply setDev_calm | apply Calm.ite | apply CalmO.ite | apply CalmO.next | split | apply Calm.mk | refine Calm.pair ?_ rfl rfl)

theorem setHandle_calm {s0 s : State} (h : ℕ) (x : Handle) (hc0 : Calm s0 s) :
    Calm s0 (setHandle s h x) := by
  unfold setHandle; try dsimp only
  repeat' (with_reducible first | assumption | intro _ | apply Calm.ite | apply CalmO.ite | apply CalmO.next | split | apply Calm.mk | refine Calm.pair ?_ rfl rfl)

theorem modHandle_calm (h : ℕ) (g : Handle → Handle) {s0 s : State} (hc0 : Calm s0 s) :
    Calm s0 (modHandle h g s) := by
  unfold modHandle; try dsimp only
  repeat' (with_reducible first | assumption | intro _ | apply setHandle_calm | apply Calm.ite | apply CalmO.ite | apply CalmO.next | split | apply Calm.mk | refine Calm.pair ?_ rfl rfl)

theorem setCtx_calm {s0 s : State} (k : ℕ) (x : Ctx) (hc0 : Calm s0 s) :
    Calm s0 (setCtx s k x) := by
  unfold setCtx; try dsimp only
  repeat' (with_reducible first | assumption | intro _ | apply Calm.ite | apply CalmO.ite | apply CalmO.next | split | apply Calm.mk | refine Calm.pair ?_ rfl rfl)

theorem modCtx_calm (k : ℕ) (g : Ctx → Ctx) {s0 s : State} (hc0 : Calm s0 s) :
    Calm s0 (modCtx k g s) := by
  unfold modCtx; try dsimp only
  repeat' (with_reducible first | assumption | intro _ | apply setCtx_calm | apply Calm.ite | apply CalmO.ite | apply CalmO.next | split | apply Calm.mk | refine Calm.pair ?_ rfl rfl)

theorem setBox_calm {s0 s : State} (k : ℕ) (x : MBox) (hc0 : Calm s0 s) :
    Calm s0 (setBox s k x) := by
  unfold setBox; try dsimp only
  repeat' (with_reducible first | assumption | intro _ | apply Calm.ite | apply CalmO.ite | apply CalmO.next | split | apply Calm.mk | refine Calm.pair ?_ rfl rfl)

theorem modBox_calm (k : ℕ) (g : MBox → MBox) {s0 s : State} (hc0 : Calm s0 s) :
    Calm s0 (modBox k g s) := by
  unfold modBox; try dsimp only
  repeat' (with_reducible first | assumption | intro _ | apply setBox_calm | apply Calm.ite | apply CalmO.ite | apply CalmO.next | split | apply Calm.mk | refine Calm.pair ?_ rfl rfl)

theorem setSource_calm {s0 s : State} (x : ℕ) (v : Source) (hc0 : Calm s0 s) :
    Calm s0 (setSource s x v) := by
  unfold setSource; try dsimp only
  repeat' (with_reducible first | assumption | intro _ | apply Calm.ite | apply CalmO.ite | apply CalmO.next | split | apply Calm.mk | refine Calm.pair ?_ rfl rfl)

theorem modSource_calm (x : ℕ) (g : Source → Source) {s0 s : State} (hc0 : Calm s0 s) :
    Calm s0 (modSource x g s) := by
  unfold modSource; try dsimp only
  repeat' (with_reducible first | assumption | intro _ | apply setSource_calm | apply Calm.ite | apply CalmO.ite | apply CalmO.next | split | apply Calm.mk | refine Calm.pair ?_ rfl rfl)

theorem modTarget_calm (t : ℕ) (g : Target → Target) {s0 s : State} (hc0 : Calm s0 s) :
    Calm s0 (modTarget t g s) := by
  unfold modTarget; try dsimp only
  repeat' (with_reducible first | assumption | intro _ | apply Calm.ite | apply CalmO.ite | apply CalmO.next | split | apply Calm.mk | refine Calm.pair ?_ rfl rfl)

theorem setPstate_calm {s0 s : State} (r : ℕ) (x : PState) (hc0 : Calm s0 s) :
    Calm s0 (setPstate s r x) := by
  unfold setPstate; try dsimp only
  repeat' (with_reducible first | assumption | intro _ | apply Calm.ite | apply CalmO.ite | apply CalmO.next | split | apply Calm.mk | refine Calm.pair ?_ rfl rfl)

theorem modPstate_calm (r : ℕ) (g : PState → PState) {s0 s : State} (hc0 : Calm s0 s) :
    Calm s0 (modPstate r g s) := by
  unfold modPstate; try dsimp only
  repeat' (with_reducible first | assumption | intro _ | apply setPstate_calm | apply Calm.ite | apply CalmO.ite | apply CalmO.next | split | apply Calm.mk | refine Calm.pair ?_ rfl rfl)

theorem modSq_calm (f : ℕ) (q : ℕ) (g : Sq → Sq) {s0 s : State} (hc0 : Calm s0 s) :
    Calm s0 (modSq f q g s) := by
  unfold modSq; try dsimp only
  repeat' (with_reducible first | assumption | intro _ | apply modFn_calm | apply Calm.ite | apply CalmO.ite | apply CalmO.next | split | apply Calm.mk | refine Calm.pair ?_ rfl rfl)

theorem modCr_calm (f : ℕ) (r : ℕ) (g : Cr → Cr) {s0 s : State} (hc0 : Calm s0 s) :
    Calm s0 (modCr f r g s) := by
  unfold modCr; try dsimp only
  repeat' (with_reducible first | assumption | intro _ | apply modFn_calm | apply Calm.ite | apply CalmO.ite | apply CalmO.next | split | apply Calm.mk | refine Calm.pair ?_ rfl rfl)

theorem modVec_calm (f : ℕ) (v : ℕ) (g : Vec → Vec) {s0 s : State} (hc0 : Calm s0 s) :
    Calm s0 (modVec f v g s) := by
  unfold modVec; try dsimp only
  repeat' (with_reducible first | assumption | intro _ | apply modFn_calm | apply Calm.ite | apply CalmO.ite | apply CalmO.next | split | apply Calm.mk | refine Calm.pair ?_ rfl rfl)

theorem modChan_calm (c : ℕ) (g : ChCtx → ChCtx) {s0 s : State} (hc0 : Calm s0 s) :
    Calm s0 (modChan c g s) := by
  unfold modChan; try dsimp only
  repeat' (with_reducible first | assumption | intro _ | apply Calm.ite | apply CalmO.ite | apply CalmO.next | split | apply Calm.mk | refine Calm.pair ?_ rfl rfl)

theorem modUnit_calm (c : ℕ) (g : CmpUnit → CmpUnit) {s0 s : State} (hc0 : Calm s0 s) :
    Calm s0 (modUnit c g s) := by
  unfold modUnit; try dsimp only
  repeat' (with_reducible first | assumption | intro _ | apply Calm.ite | apply CalmO.ite | apply CalmO.next | split | apply Calm.mk | refine Calm.pair ?_ rfl rfl)

theorem modAxis_calm (i : ℕ) (g : Axis → Axis) {s0 s : State} (hc0 : Calm s0 s) :
    Calm s0 (modAxis i g s) := by
  unfold modAxis; try dsimp only
  repeat' (with_reducible first | assumption | intro _ | apply Calm.ite | apply CalmO.ite | apply CalmO.next | split | apply Calm.mk | refine Calm.pair ?_ rfl rfl)

theorem modDie_calm (g : ℕ) (h : Die → Die) {s0 s : State} (hc0 : Calm s0 s) :
    Calm s0 (modDie g h s) := by
  unfold modDie; try dsimp only
  repeat' (with_reducible first | assumption | intro _ | apply Calm.ite | apply CalmO.ite | apply CalmO.next | split | apply Calm.mk | refine Calm.pair ?_ rfl rfl)

theorem setPage_calm (p : ℕ) (x : Page) {s0 s : State} (hc0 : Calm s0 s) :
    Calm s0 (setPage p x s) := by
  unfold setPage; try dsimp only
  repeat' (with_reducible first | assumption | intro _ | apply Calm.ite | apply CalmO.ite | apply CalmO.next | split | apply Calm.mk | refine Calm.pair ?_ rfl rfl)

theorem cyclePasses_calm {s0 s : State} (hc0 : Calm s0 s) :
    Calm s0 (cyclePasses s) := by
  unfold cyclePasses; try dsimp only
  repeat' (with_reducible first | assumption | intro _ | apply Calm.ite | apply CalmO.ite | apply CalmO.next | split | apply Calm.mk | refine Calm.pair ?_ rfl rfl)

theorem startWake_calm (cause : ℕ) (index : ℕ) {s0 s : State} (hc0 : Calm s0 s) :
    Calm s0 (startWake cause index s) := by
  unfold startWake; try dsimp only
  repeat' (with_reducible first | assumption | intro _ | apply Calm.ite | apply CalmO.ite | apply CalmO.next | split | apply Calm.mk | refine Calm.pair ?_ rfl rfl)

theorem send_calm (p : ℕ) (t : PType) (h : Hdr) (payload : List Byte) {s0 s : State} (hc0 : Calm s0 s) :
    Calm s0 (send p t h payload s) := by
  unfold send; try dsimp only
  repeat' (with_reducible first | assumption | intro _ | apply emit_calm | apply Calm.ite | apply CalmO.ite | apply CalmO.next | split | apply Calm.mk | refine Calm.pair ?_ rfl rfl)

theorem sendLink_calm (p : ℕ) (code : ℕ) (param : ℕ) {s0 s : State} (hc0 : Calm s0 s) :
    Calm s0 (sendLink p code param s) := by
  unfold sendLink; try dsimp only
  repeat' (with_reducible first | assumption | intro _ | apply send_calm | apply Calm.ite | apply CalmO.ite | apply CalmO.next | split | apply Calm.mk | refine Calm.pair ?_ rfl rfl)

theorem markPage_calm (f : ℕ) (page : ℕ) {s0 s : State} (hc0 : Calm s0 s) :
    Calm s0 (markPage f page s) := by
  unfold markPage; try dsimp only
  repeat' (with_reducible first | assumption | intro _ | apply setFn_calm | apply Calm.ite | apply CalmO.ite | apply CalmO.next | split | apply Calm.mk | refine Calm.pair ?_ rfl rfl)

theorem hostWrite_calm (f : ℕ) (addr : ℕ) (data : List Byte) {s0 s : State} (hc0 : Calm s0 s) :
    Calm s0 (hostWrite f addr data s) := by
  unfold hostWrite; try dsimp only
  repeat' (with_reducible first | assumption | intro _ | apply markPage_calm | apply each_calm | apply emit_calm | apply Calm.ite | apply CalmO.ite | apply CalmO.next | split | apply Calm.mk | refine Calm.pair ?_ rfl rfl)

theorem msixDue_calm (f : ℕ) (v : ℕ) {s0 s : State} (hc0 : Calm s0 s) :
    Calm s0 (msixDue f v s) := by
  unfold msixDue; try dsimp only
  repeat' (with_reducible first | assumption | intro _ | apply emit_calm | apply modVec_calm | apply Calm.ite | apply CalmO.ite | apply CalmO.next | split | apply Calm.mk | refine Calm.pair ?_ rfl rfl)

theorem countEvent_calm (f : ℕ) (v : ℕ) {s0 s : State} (hc0 : Calm s0 s) :
    Calm s0 (countEvent f v s) := by
  unfold countEvent; try dsimp only
  repeat' (with_reducible first | assumption | intro _ | apply modVec_calm | apply msixDue_calm | apply Calm.ite | apply CalmO.ite | apply CalmO.next | split | apply Calm.mk | refine Calm.pair ?_ rfl rfl)

theorem msixRelease_calm (f : ℕ) (v : ℕ) {s0 s : State} (hc0 : Calm s0 s) :
    Calm s0 (msixRelease f v s) := by
  unfold msixRelease; try dsimp only
  repeat' (with_reducible first | assumption | intro _ | apply modVec_calm | apply emit_calm | apply Calm.ite | apply CalmO.ite | apply CalmO.next | split | apply Calm.mk | refine Calm.pair ?_ rfl rfl)

theorem wakeTarget_calm (x : ℕ) {s0 s : State} (hc0 : Calm s0 s) :
    Calm s0 (wakeTarget x s) := by
  unfold wakeTarget; try dsimp only
  repeat' (with_reducible first | assumption | intro _ | apply modTarget_calm | apply Calm.ite | apply CalmO.ite | apply CalmO.next | split | apply Calm.mk | refine Calm.pair ?_ rfl rfl)

theorem hostRise_calm (x : ℕ) {s0 s : State} (hc0 : Calm s0 s) :
    Calm s0 (hostRise x s) := by
  unfold hostRise; try dsimp only
  repeat' (with_reducible first | assumption | intro _ | apply countEvent_calm | apply Calm.ite | apply CalmO.ite | apply CalmO.next | split | apply Calm.mk | refine Calm.pair ?_ rfl rfl)

theorem withRises_calm (xs : List ℕ) (f : State → State) {s0 s : State} (hf : ∀ v0, Calm s0 v0 → Calm s0 (f v0)) (hc0 : Calm s0 s) :
    Calm s0 (withRises xs f s) := by
  unfold withRises; try dsimp only
  repeat' (with_reducible first | assumption | intro _ | apply hf | apply hostRise_calm | apply wakeTarget_calm | apply each_calm | apply Calm.ite | apply CalmO.ite | apply CalmO.next | split | apply Calm.mk | refine Calm.pair ?_ rfl rfl)

theorem setEvt_calm (r : EvtReg) (v : U32) {s0 s : State} (hc0 : Calm s0 s) :
    Calm s0 (setEvt r v s) := by
  unfold setEvt; try dsimp only
  repeat' (with_reducible first | assumption | intro _ | apply withRises_calm | apply Calm.ite | apply CalmO.ite | apply CalmO.next | split | apply Calm.mk | refine Calm.pair ?_ rfl rfl)

theorem raise_calm (r : EvtReg) (b : ℕ) {s0 s : State} (hc0 : Calm s0 s) :
    Calm s0 (raise r b s) := by
  unfold raise; try dsimp only
  repeat' (with_reducible first | assumption | intro _ | apply countEvent_calm | apply setEvt_calm | apply Calm.ite | apply CalmO.ite | apply CalmO.next | split | apply Calm.mk | refine Calm.pair ?_ rfl rfl)

theorem clearEvt_calm (r : EvtReg) (v : U32) {s0 s : State} (hc0 : Calm s0 s) :
    Calm s0 (clearEvt r v s) := by
  unfold clearEvt; try dsimp only
  repeat' (with_reducible first | assumption | intro _ | apply setEvt_calm | apply Calm.ite | apply CalmO.ite | apply CalmO.next | split | apply Calm.mk | refine Calm.pair ?_ rfl rfl)

theorem raisePort_calm (p b : Nat) {s0 s : State} (hc0 : Calm s0 s) : Calm s0 (raisePort p b s) := by
  unfold raisePort; split
  · exact raise_calm _ _ hc0
  · exact hc0

theorem raiseSlot_calm (n b : Nat) {s0 s : State} (hc0 : Calm s0 s) : Calm s0 (raiseSlot n b s) := by
  unfold raiseSlot; split
  · exact raise_calm _ _ hc0
  · exact hc0

theorem raiseQ_calm (f b : Nat) {s0 s : State} (hc0 : Calm s0 s) : Calm s0 (raiseQ f b s) := by
  unfold raiseQ; split
  · exact raise_calm _ _ hc0
  · exact hc0

theorem raiseVf_calm (f b : Nat) {s0 s : State} (hc0 : Calm s0 s) : Calm s0 (raiseVf f b s) := by
  unfold raiseVf; split
  · split
    · exact hc0
    · exact raise_calm _ _ hc0
  · exact hc0

theorem commitIn_calm (k : ℕ) (n : Notice) {s0 s : State} (hc0 : Calm s0 s) :
    Calm s0 (commitIn k n s) := by
  unfold commitIn; try dsimp only
  repeat' (with_reducible first | assumption | intro _ | apply modBox_calm | apply withRises_calm | apply Calm.ite | apply CalmO.ite | apply CalmO.next | split | apply Calm.mk | refine Calm.pair ?_ rfl rfl)

theorem commitOut_calm (k : ℕ) (n : Notice) {s0 s : State} (hc0 : Calm s0 s) :
    Calm s0 (commitOut k n s) := by
  unfold commitOut; try dsimp only
  repeat' (with_reducible first | assumption | intro _ | apply emit_calm | apply countEvent_calm | apply modBox_calm | apply Calm.ite | apply CalmO.ite | apply CalmO.next | split | apply Calm.mk | refine Calm.pair ?_ rfl rfl)

theorem postOut_calm (k : ℕ) (n : Notice) {s0 s : State} (hc0 : Calm s0 s) :
    Calm s0 (postOut k n s) := by
  unfold postOut; try dsimp only
  repeat' (with_reducible first | assumption | intro _ | apply commitOut_calm | apply setBox_calm | apply Calm.ite | apply CalmO.ite | apply CalmO.next | split | apply Calm.mk | refine Calm.pair ?_ rfl rfl)

theorem outDone_calm (k : ℕ) {s0 s : State} (hc0 : Calm s0 s) :
    Calm s0 (outDone k s) := by
  unfold outDone; try dsimp only
  repeat' (with_reducible first | assumption | intro _ | apply modBox_calm | apply Calm.ite | apply CalmO.ite | apply CalmO.next | split | apply Calm.mk | refine Calm.pair ?_ rfl rfl)

theorem postWaiting_calm (k : ℕ) {s0 s : State} (hc0 : Calm s0 s) :
    Calm s0 (postWaiting k s) := by
  unfold postWaiting; try dsimp only
  repeat' (with_reducible first | assumption | intro _ | apply setBox_calm | apply commitOut_calm | apply Calm.ite | apply CalmO.ite | apply CalmO.next | split | apply Calm.mk | refine Calm.pair ?_ rfl rfl)

theorem writeReply_calm (k : ℕ) (at_ : U64) (bytes : List Byte) (n : Notice) {s0 s : State} (hc0 : Calm s0 s) :
    Calm s0 (writeReply k at_ bytes n s) := by
  unfold writeReply; try dsimp only
  repeat' (with_reducible first | assumption | intro _ | apply modBox_calm | apply hostWrite_calm | apply postOut_calm | apply Calm.ite | apply CalmO.ite | apply CalmO.next | split | apply Calm.mk | refine Calm.pair ?_ rfl rfl)

theorem answeredBox_calm (k : ℕ) (seq : U16) (typ : Byte) {s0 s : State} (hc0 : Calm s0 s) :
    Calm s0 (answeredBox k seq typ s) := by
  unfold answeredBox; try dsimp only
  repeat' (with_reducible first | assumption | intro _ | apply modBox_calm | apply Calm.ite | apply CalmO.ite | apply CalmO.next | split | apply Calm.mk | refine Calm.pair ?_ rfl rfl)

theorem reply_calm (ctx : CmdCtx) (code : ℕ) (body : List Byte) {s0 s : State} (hc0 : Calm s0 s) :
    Calm s0 (reply ctx code body s) := by
  unfold reply; try dsimp only
  repeat' (with_reducible first | assumption | intro _ | apply writeReply_calm | apply answeredBox_calm | apply Calm.ite | apply CalmO.ite | apply CalmO.next | split | apply Calm.mk | refine Calm.pair ?_ rfl rfl)

theorem begun_calm (ctx : CmdCtx) (code : ℕ) {s0 s : State} (hc0 : Calm s0 s) :
    Calm s0 (begun ctx code s) := by
  unfold begun; try dsimp only
  repeat' (with_reducible first | assumption | intro _ | apply modBox_calm | apply Calm.ite | apply CalmO.ite | apply CalmO.next | split | apply Calm.mk | refine Calm.pair ?_ rfl rfl)

theorem postAborted_calm (k : ℕ) (ns : List Notice) {s0 s : State} (hc0 : Calm s0 s) :
    Calm s0 (postAborted k ns s) := by
  unfold postAborted; try dsimp only
  repeat' (with_reducible first | assumption | intro _ | apply postOut_calm | apply each_calm | apply Calm.ite | apply CalmO.ite | apply CalmO.next | split | apply Calm.mk | refine Calm.pair ?_ rfl rfl)

theorem retireIndex_calm (f : ℕ) (q : ℕ) (i : U16) {s0 s : State} (hc0 : Calm s0 s) :
    Calm s0 (retireIndex f q i s) := by
  unfold retireIndex; try dsimp only
  repeat' (with_reducible first | assumption | intro _ | apply done_calm | apply modSq_calm | apply Calm.ite | apply CalmO.ite | apply CalmO.next | split | apply Calm.mk | refine Calm.pair ?_ rfl rfl)

theorem flushDirty_calm (f : ℕ) {s0 s : State} (hc0 : Calm s0 s) :
    Calm s0 (flushDirty f s) := by
  unfold flushDirty; try dsimp only
  repeat' (with_reducible first | assumption | intro _ | apply setFn_calm | apply hostWrite_calm | apply each_calm | apply Calm.ite | apply CalmO.ite | apply CalmO.next | split | apply Calm.mk | refine Calm.pair ?_ rfl rfl)

theorem crWrite_calm (f : ℕ) (r : ℕ) (w : WaitRec) (spilled : Bool) (head : U16) {s0 s : State} (hc0 : Calm s0 s) :
    Calm s0 (crWrite f r w spilled head s) := by
  unfold crWrite; try dsimp only
  repeat' (with_reducible first | assumption | intro _ | apply countEvent_calm | apply modCr_calm | apply hostWrite_calm | apply flushDirty_calm | apply Calm.ite | apply CalmO.ite | apply CalmO.next | split | apply Calm.mk | refine Calm.pair ?_ rfl rfl)

theorem dropFromUnit_calm (i : ℕ) {s0 s : State} (hc0 : Calm s0 s) :
    Calm s0 (dropFromUnit i s) := by
  unfold dropFromUnit; try dsimp only
  repeat' (with_reducible first | assumption | intro _ | apply Calm.ite | apply CalmO.ite | apply CalmO.next | split | apply Calm.mk | refine Calm.pair ?_ rfl rfl)

theorem dropRead_calm (i : ℕ) {s0 s : State} (hc0 : Calm s0 s) :
    Calm s0 (dropRead i s) := by
  unfold dropRead; try dsimp only
  repeat' (with_reducible first | assumption | intro _ | apply Calm.ite | apply CalmO.ite | apply CalmO.next | split | apply Calm.mk | refine Calm.pair ?_ rfl rfl)

theorem dropStaged_calm (i : ℕ) {s0 s : State} (hc0 : Calm s0 s) :
    Calm s0 (dropStaged i s) := by
  unfold dropStaged; try dsimp only
  repeat' (with_reducible first | assumption | intro _ | apply modItem_calm | apply dropRead_calm | apply Calm.ite | apply CalmO.ite | apply CalmO.next | split | apply Calm.mk | refine Calm.pair ?_ rfl rfl)

theorem unstage_calm (i : ℕ) {s0 s : State} (hc0 : Calm s0 s) :
    Calm s0 (unstage i s) := by
  unfold unstage; try dsimp only
  repeat' (with_reducible first | assumption | intro _ | apply modItem_calm | apply dropRead_calm | apply Calm.ite | apply CalmO.ite | apply CalmO.next | split | apply Calm.mk | refine Calm.pair ?_ rfl rfl)

theorem dropFromFloat_calm (i : ℕ) {s0 s : State} (hc0 : Calm s0 s) :
    Calm s0 (dropFromFloat i s) := by
  unfold dropFromFloat; try dsimp only
  repeat' (with_reducible first | assumption | intro _ | apply Calm.ite | apply CalmO.ite | apply CalmO.next | split | apply Calm.mk | refine Calm.pair ?_ rfl rfl)

theorem flowIn_calm (f : Option Flow) {s0 s : State} (hc0 : Calm s0 s) :
    Calm s0 (flowIn f s) := by
  unfold flowIn; try dsimp only
  repeat' (with_reducible first | assumption | intro _ | apply modCtx_calm | apply Calm.ite | apply CalmO.ite | apply CalmO.next | split | apply Calm.mk | refine Calm.pair ?_ rfl rfl)

theorem flowBack_calm (f : Option Flow) {s0 s : State} (hc0 : Calm s0 s) :
    Calm s0 (flowBack f s) := by
  unfold flowBack; try dsimp only
  repeat' (with_reducible first | assumption | intro _ | apply modCtx_calm | apply Calm.ite | apply CalmO.ite | apply CalmO.next | split | apply Calm.mk | refine Calm.pair ?_ rfl rfl)

theorem flowOut_calm (f : Option Flow) {s0 s : State} (hc0 : Calm s0 s) :
    Calm s0 (flowOut f s) := by
  unfold flowOut; try dsimp only
  repeat' (with_reducible first | assumption | intro _ | apply modCtx_calm | apply Calm.ite | apply CalmO.ite | apply CalmO.next | split | apply Calm.mk | refine Calm.pair ?_ rfl rfl)

theorem finish_calm (i : ℕ) (st : Byte) {s0 s : State} (hc0 : Calm s0 s) :
    Calm s0 (finish i st s) := by
  unfold finish; try dsimp only
  repeat' (with_reducible first | assumption | intro _ | apply flowOut_calm | apply delItem_calm | apply dropStaged_calm | apply dropFromUnit_calm | apply dropFromFloat_calm | apply begun_calm | apply setItem_calm | apply Calm.ite | apply CalmO.ite | apply CalmO.next | split | apply Calm.mk | refine Calm.pair ?_ rfl rfl)

theorem postItem_calm (i : ℕ) {s0 s : State} (hc0 : Calm s0 s) :
    Calm s0 (postItem i s) := by
  unfold postItem; try dsimp only
  repeat' (with_reducible first | assumption | intro _ | apply setItem_calm | apply flowOut_calm | apply delItem_calm | apply Calm.ite | apply CalmO.ite | apply CalmO.next | split | apply Calm.mk | refine Calm.pair ?_ rfl rfl)

theorem stopItem_calm (st : Byte) (i : ℕ) {s0 s : State} (hc0 : Calm s0 s) :
    Calm s0 (stopItem st i s) := by
  unfold stopItem; try dsimp only
  repeat' (with_reducible first | assumption | intro _ | apply finish_calm | apply modItem_calm | apply Calm.ite | apply CalmO.ite | apply CalmO.next | split | apply Calm.mk | refine Calm.pair ?_ rfl rfl)

theorem enterSpillHalt_calm (f : ℕ) (r : ℕ) {s0 s : State} (hc0 : Calm s0 s) :
    Calm s0 (enterSpillHalt f r s) := by
  unfold enterSpillHalt; try dsimp only
  repeat' (with_reducible first | assumption | intro _ | apply finish_calm | apply each_calm | apply raiseQ_calm | apply modCr_calm | apply Calm.ite | apply CalmO.ite | apply CalmO.next | split | apply Calm.mk | refine Calm.pair ?_ rfl rfl)

theorem freeItem_calm (i : ℕ) {s0 s : State} (hc0 : Calm s0 s) :
    Calm s0 (freeItem i s) := by
  unfold freeItem; try dsimp only
  repeat' (with_reducible first | assumption | intro _ | apply delItem_calm | apply Calm.ite | apply CalmO.ite | apply CalmO.next | split | apply Calm.mk | refine Calm.pair ?_ rfl rfl)

theorem crPut_calm (f : ℕ) (r : ℕ) (w : WaitRec) (q : ℕ) (index : Option U16) {s0 s : State} (hc0 : Calm s0 s) :
    Calm s0 (crPut f r w q index s) := by
  unfold crPut; try dsimp only
  repeat' (with_reducible first | assumption | intro _ | apply enterSpillHalt_calm | apply modItem_calm | apply modCr_calm | apply hostWrite_calm | apply raiseQ_calm | apply modFn_calm | apply crWrite_calm | apply freeItem_calm | apply retireIndex_calm | apply Calm.ite | apply CalmO.ite | apply CalmO.next | split | apply Calm.mk | refine Calm.pair ?_ rfl rfl)

theorem drainLoop_calm (f r n : Nat) {s0 s : State} (hc0 : Calm s0 s) : Calm s0 (drainLoop f r n s) := by
  induction n generalizing s with
  | zero => exact hc0
  | succ n ih =>
    unfold drainLoop; try dsimp only
    repeat' (with_reducible first | assumption | intro _ | apply ih | apply freeItem_calm | apply retireIndex_calm | apply crWrite_calm | apply modFn_calm | apply modCr_calm | apply Calm.ite | split | apply Calm.mk)

theorem idleAfter_calm (r : ℕ) {s0 s : State} (hc0 : Calm s0 s) :
    Calm s0 (idleAfter r s) := by
  unfold idleAfter; try dsimp only
  repeat' (with_reducible first | assumption | intro _ | apply modPstate_calm | apply Calm.ite | apply CalmO.ite | apply CalmO.next | split | apply Calm.mk | refine Calm.pair ?_ rfl rfl)

theorem idleEndpoints_calm (f : ℕ) (r : ℕ) {s0 s : State} (hc0 : Calm s0 s) :
    Calm s0 (idleEndpoints f r s) := by
  unfold idleEndpoints; try dsimp only
  repeat' (with_reducible first | assumption | intro _ | apply idleAfter_calm | apply each_calm | apply Calm.ite | apply CalmO.ite | apply CalmO.next | split | apply Calm.mk | refine Calm.pair ?_ rfl rfl)

theorem crDrain_calm (f : ℕ) (r : ℕ) {s0 s : State} (hc0 : Calm s0 s) :
    Calm s0 (crDrain f r s) := by
  unfold crDrain; try dsimp only
  repeat' (with_reducible first | assumption | intro _ | apply modCr_calm | apply idleEndpoints_calm | apply drainLoop_calm | apply Calm.ite | apply CalmO.ite | apply CalmO.next | split | apply Calm.mk | refine Calm.pair ?_ rfl rfl)

theorem readNext_calm (f : ℕ) (q : ℕ) {s0 s : State} (hc0 : Calm s0 s) :
    Calm s0 (readNext f q s) := by
  unfold readNext; try dsimp only
  repeat' (with_reducible first | assumption | intro _ | apply emit_calm | apply Calm.ite | apply CalmO.ite | apply CalmO.next | split | apply Calm.mk | refine Calm.pair ?_ rfl rfl)

theorem issueFetch_calm (f : ℕ) (q : ℕ) {s0 s : State} (hc0 : Calm s0 s) :
    Calm s0 (issueFetch f q s) := by
  unfold issueFetch; try dsimp only
  repeat' (with_reducible first | assumption | intro _ | apply readNext_calm | apply Calm.ite | apply CalmO.ite | apply CalmO.next | split | apply Calm.mk | refine Calm.pair ?_ rfl rfl)

theorem leaveUnread_calm (f : ℕ) (q : ℕ) {s0 s : State} (hc0 : Calm s0 s) :
    Calm s0 (leaveUnread f q s) := by
  unfold leaveUnread; try dsimp only
  repeat' (with_reducible first | assumption | intro _ | apply modSq_calm | apply Calm.ite | apply CalmO.ite | apply CalmO.next | split | apply Calm.mk | refine Calm.pair ?_ rfl rfl)

theorem startReading_calm (f : ℕ) (q : ℕ) (seen : ℕ) {s0 s : State} (hc0 : Calm s0 s) :
    Calm s0 (startReading f q seen s) := by
  unfold startReading; try dsimp only
  repeat' (with_reducible first | assumption | intro _ | apply leaveUnread_calm | apply modSq_calm | apply readNext_calm | apply Calm.ite | apply CalmO.ite | apply CalmO.next | split | apply Calm.mk | refine Calm.pair ?_ rfl rfl)

theorem noEntry_calm (f : ℕ) (q : ℕ) {s0 s : State} (hc0 : Calm s0 s) :
    Calm s0 (noEntry f q s) := by
  unfold noEntry; try dsimp only
  repeat' (with_reducible first | assumption | intro _ | apply crPut_calm | apply Calm.ite | apply CalmO.ite | apply CalmO.next | split | apply Calm.mk | refine Calm.pair ?_ rfl rfl)

theorem haltFunc_calm (f : ℕ) (cause : ℕ) {s0 s : State} (hc0 : Calm s0 s) :
    Calm s0 (haltFunc f cause s) := by
  unfold haltFunc; try dsimp only
  repeat' (with_reducible first | assumption | intro _ | apply raiseQ_calm | apply stopItem_calm | apply each_calm | apply modFn_calm | apply Calm.ite | apply CalmO.ite | apply CalmO.next | split | apply Calm.mk | refine Calm.pair ?_ rfl rfl)

theorem badSqIndex_calm (f : ℕ) (q : ℕ) {s0 s : State} (hc0 : Calm s0 s) :
    Calm s0 (badSqIndex f q s) := by
  unfold badSqIndex; try dsimp only
  repeat' (with_reducible first | assumption | intro _ | apply haltFunc_calm | apply raiseQ_calm | apply noEntry_calm | apply Calm.ite | apply CalmO.ite | apply CalmO.next | split | apply Calm.mk | refine Calm.pair ?_ rfl rfl)

theorem acceptP_calm (f : ℕ) (q : ℕ) (v : U16) (seen : ℕ) {s0 s : State} (hc0 : Calm s0 s) :
    Calm s0 (acceptP f q v seen s) := by
  unfold acceptP; try dsimp only
  repeat' (with_reducible first | assumption | intro _ | apply badSqIndex_calm | apply modSq_calm | apply startReading_calm | apply Calm.ite | apply CalmO.ite | apply CalmO.next | split | apply Calm.mk | refine Calm.pair ?_ rfl rfl)

theorem resumeSqs_calm (f : ℕ) (r : ℕ) (seen : ℕ) {s0 s : State} (hc0 : Calm s0 s) :
    Calm s0 (resumeSqs f r seen s) := by
  unfold resumeSqs; try dsimp only
  repeat' (with_reducible first | assumption | intro _ | apply startReading_calm | apply each_calm | apply Calm.ite | apply CalmO.ite | apply CalmO.next | split | apply Calm.mk | refine Calm.pair ?_ rfl rfl)

theorem acceptC_calm (f : ℕ) (r : ℕ) (v : U16) (seen : ℕ) {s0 s : State} (hc0 : Calm s0 s) :
    Calm s0 (acceptC f r v seen s) := by
  unfold acceptC; try dsimp only
  repeat' (with_reducible first | assumption | intro _ | apply haltFunc_calm | apply raiseQ_calm | apply resumeSqs_calm | apply modCr_calm | apply crDrain_calm | apply Calm.ite | apply CalmO.ite | apply CalmO.next | split | apply Calm.mk | refine Calm.pair ?_ rfl rfl)

theorem bindPeriodic_calm (i : ℕ) (r : ℕ) (seen : ℕ) (keep : Option ℕ) {s0 s : State} (hc0 : Calm s0 s) :
    Calm s0 (bindPeriodic i r seen keep s) := by
  unfold bindPeriodic; try dsimp only
  repeat' (with_reducible first | assumption | intro _ | apply modItem_calm | apply modPstate_calm | apply finish_calm | apply Calm.ite | apply CalmO.ite | apply CalmO.next | split | apply Calm.mk | refine Calm.pair ?_ rfl rfl)

theorem shiftEvents_calm (r : Nat) (g : Rung) (n m : Nat) {s0 s : State} (hc0 : Calm s0 s) :
    Calm s0 (shiftEvents r g n m s) := by
  induction n generalizing m s with
  | zero => exact hc0
  | succ n ih =>
    unfold shiftEvents
    split
    · exact modItem_calm _ _ (ih _ hc0)
    · exact hc0

theorem bindEvent_calm (i : ℕ) (r : ℕ) (seen : ℕ) (keep : Option ℕ) {s0 s : State} (hc0 : Calm s0 s) :
    Calm s0 (bindEvent i r seen keep s) := by
  unfold bindEvent; try dsimp only
  repeat' (with_reducible first | assumption | intro _ | apply modItem_calm | apply finish_calm | apply Calm.ite | apply CalmO.ite | apply CalmO.next | split | apply Calm.mk | refine Calm.pair ?_ rfl rfl)

theorem queueOnUnit_calm (i : ℕ) (u : ℕ) {s0 s : State} (hc0 : Calm s0 s) :
    Calm s0 (queueOnUnit i u s) := by
  unfold queueOnUnit; try dsimp only
  repeat' (with_reducible first | assumption | intro _ | apply modUnit_calm | apply Calm.ite | apply CalmO.ite | apply CalmO.next | split | apply Calm.mk | refine Calm.pair ?_ rfl rfl)

theorem applyVerdict_calm (i : ℕ) (f : ℕ) (e : BitVec 256) (v : Verdict) (seen : ℕ) (keep : Option (ℕ × ℕ)) {s0 s : State} (hc0 : Calm s0 s) :
    Calm s0 (applyVerdict i f e v seen keep s) := by
  unfold applyVerdict; try dsimp only
  repeat' (with_reducible first | assumption | intro _ | apply queueOnUnit_calm | apply bindEvent_calm | apply bindPeriodic_calm | apply haltFunc_calm | apply finish_calm | apply Calm.ite | apply CalmO.ite | apply CalmO.next | split | apply Calm.mk | refine Calm.pair ?_ rfl rfl)

theorem issueIndex_calm (i : ℕ) {s0 s : State} (hc0 : Calm s0 s) :
    Calm s0 (issueIndex i s) := by
  unfold issueIndex; try dsimp only
  repeat' (with_reducible first | assumption | intro _ | apply emit_calm | apply Calm.ite | apply CalmO.ite | apply CalmO.next | split | apply Calm.mk | refine Calm.pair ?_ rfl rfl)

theorem stopFetched_calm (i : ℕ) (f : ℕ) (q : ℕ) {s0 s : State} (hc0 : Calm s0 s) :
    Calm s0 (stopFetched i f q s) := by
  unfold stopFetched; try dsimp only
  repeat' (with_reducible first | assumption | intro _ | apply stopItem_calm | apply Calm.ite | apply CalmO.ite | apply CalmO.next | split | apply Calm.mk | refine Calm.pair ?_ rfl rfl)

theorem fetchEntry_calm (f : ℕ) (q : ℕ) (ok : Bool) (e : BitVec 256) {s0 s : State} (hc0 : Calm s0 s) :
    Calm s0 (fetchEntry f q ok e s) := by
  unfold fetchEntry; try dsimp only
  repeat' (with_reducible first | assumption | intro _ | apply applyVerdict_calm | apply stopFetched_calm | apply issueIndex_calm | apply issueFetch_calm | apply flowIn_calm | apply modSq_calm | apply emit_calm | apply leaveUnread_calm | apply Calm.ite | apply CalmO.ite | apply CalmO.next | split | apply Calm.mk | refine Calm.pair ?_ rfl rfl)

theorem answerWaiters_calm {s0 s : State} (hc0 : Calm s0 s) :
    Calm s0 (answerWaiters s) := by
  unfold answerWaiters; try dsimp only
  repeat' (with_reducible first | assumption | intro _ | apply modFn_calm | apply reply_calm | apply each_calm | apply Calm.ite | apply CalmO.ite | apply CalmO.next | split | apply Calm.mk | refine Calm.pair ?_ rfl rfl)

theorem postWork_calm (b : PostBody) (f : ℕ) (setup : Option U64) (poll : Bool) {s0 s : State} (hc0 : Calm s0 s) :
    Calm s0 (postWork b f setup poll s) := by
  unfold postWork; try dsimp only
  repeat' (with_reducible first | assumption | intro _ | apply flowIn_calm | apply Calm.ite | apply CalmO.ite | apply CalmO.next | split | apply Calm.mk | refine Calm.pair ?_ rfl rfl)

theorem postRequest_calm (r : ℕ × Option U64) {s0 s : State} (hc0 : Calm s0 s) :
    Calm s0 (postRequest r s) := by
  unfold postRequest; try dsimp only
  repeat' (with_reducible first | assumption | intro _ | apply postWork_calm | apply Calm.ite | apply CalmO.ite | apply CalmO.next | split | apply Calm.mk | refine Calm.pair ?_ rfl rfl)

theorem postRequests_calm {s0 s : State} (hc0 : Calm s0 s) :
    Calm s0 (postRequests s) := by
  unfold postRequests; try dsimp only
  repeat' (with_reducible first | assumption | intro _ | apply postRequest_calm | apply each_calm | apply Calm.ite | apply CalmO.ite | apply CalmO.next | split | apply Calm.mk | refine Calm.pair ?_ rfl rfl)

theorem askWork_calm (num : ℕ) (setup : Option U64) {s0 s : State} (hc0 : Calm s0 s) :
    Calm s0 (askWork num setup s) := by
  unfold askWork; try dsimp only
  repeat' (with_reducible first | assumption | intro _ | apply postRequests_calm | apply Calm.ite | apply CalmO.ite | apply CalmO.next | split | apply Calm.mk | refine Calm.pair ?_ rfl rfl)

theorem request_calm (num : ℕ) (code : ℕ) (byte1 : ℕ) (arg0 : ℕ) (arg1 : ℕ) (dlen : ℕ) {s0 s : State} (hc0 : Calm s0 s) :
    Calm s0 (request num code byte1 arg0 arg1 dlen s) := by
  unfold request; try dsimp only
  repeat' (with_reducible first | assumption | intro _ | apply askWork_calm | apply Calm.ite | apply CalmO.ite | apply CalmO.next | split | apply Calm.mk | refine Calm.pair ?_ rfl rfl)

theorem dropRequests_calm (num : ℕ) {s0 s : State} (hc0 : Calm s0 s) :
    Calm s0 (dropRequests num s) := by
  unfold dropRequests; try dsimp only
  repeat' (with_reducible first | assumption | intro _ | apply stopItem_calm | apply each_calm | apply Calm.ite | apply CalmO.ite | apply CalmO.next | split | apply Calm.mk | refine Calm.pair ?_ rfl rfl)

theorem releaseItem_calm (i : ℕ) {s0 s : State} (hc0 : Calm s0 s) :
    Calm s0 (releaseItem i s) := by
  unfold releaseItem; try dsimp only
  repeat' (with_reducible first | assumption | intro _ | apply crPut_calm | apply freeItem_calm | apply answerWaiters_calm | apply postRequests_calm | apply flowOut_calm | apply Calm.ite | apply CalmO.ite | apply CalmO.next | split | apply Calm.mk | refine Calm.pair ?_ rfl rfl)

theorem qResult_calm (f : ℕ) (r : ℕ) {s0 s : State} (hc0 : Calm s0 s) :
    Calm s0 (qResult f r s) := by
  unfold qResult; try dsimp only
  repeat' (with_reducible first | assumption | intro _ | apply modFn_calm | apply Calm.ite | apply CalmO.ite | apply CalmO.next | split | apply Calm.mk | refine Calm.pair ?_ rfl rfl)

theorem createQueue_calm (f : ℕ) {s0 s : State} (hc0 : Calm s0 s) :
    Calm s0 (createQueue f s) := by
  unfold createQueue; try dsimp only
  repeat' (with_reducible first | assumption | intro _ | apply qResult_calm | apply modSq_calm | apply modCr_calm | apply Calm.ite | apply CalmO.ite | apply CalmO.next | split | apply Calm.mk | refine Calm.pair ?_ rfl rfl)

theorem destroyQueue_calm (f : ℕ) {s0 s : State} (hc0 : Calm s0 s) :
    Calm s0 (destroyQueue f s) := by
  unfold destroyQueue; try dsimp only
  repeat' (with_reducible first | assumption | intro _ | apply qResult_calm | apply modFn_calm | apply Calm.ite | apply CalmO.ite | apply CalmO.next | split | apply Calm.mk | refine Calm.pair ?_ rfl rfl)

theorem readQueue_calm (f : ℕ) {s0 s : State} (hc0 : Calm s0 s) :
    Calm s0 (readQueue f s) := by
  unfold readQueue; try dsimp only
  repeat' (with_reducible first | assumption | intro _ | apply qResult_calm | apply modFn_calm | apply Calm.ite | apply CalmO.ite | apply CalmO.next | split | apply Calm.mk | refine Calm.pair ?_ rfl rfl)

theorem invalidate_calm (f : ℕ) (q : ℕ) (seen : ℕ) {s0 s : State} (hc0 : Calm s0 s) :
    Calm s0 (invalidate f q seen s) := by
  unfold invalidate; try dsimp only
  repeat' (with_reducible first | assumption | intro _ | apply modSq_calm | apply startReading_calm | apply dropFromUnit_calm | apply dropStaged_calm | apply flowBack_calm | apply delItem_calm | apply each_calm | apply Calm.ite | apply CalmO.ite | apply CalmO.next | split | apply Calm.mk | refine Calm.pair ?_ rfl rfl)

theorem kickInval_calm (f : ℕ) (q : ℕ) (v : U16) (seen : ℕ) {s0 s : State} (hc0 : Calm s0 s) :
    Calm s0 (kickInval f q v seen s) := by
  unfold kickInval; try dsimp only
  repeat' (with_reducible first | assumption | intro _ | apply badSqIndex_calm | apply modSq_calm | apply invalidate_calm | apply Calm.ite | apply CalmO.ite | apply CalmO.next | split | apply Calm.mk | refine Calm.pair ?_ rfl rfl)

theorem doorbellRecord_calm (f : ℕ) (block : ℕ) (i : ℕ) (v : U16) {s0 s : State} (hc0 : Calm s0 s) :
    Calm s0 (doorbellRecord f block i v s) := by
  unfold doorbellRecord; try dsimp only
  repeat' (with_reducible first | assumption | intro _ | apply acceptC_calm | apply acceptP_calm | apply Calm.ite | apply CalmO.ite | apply CalmO.next | split | apply Calm.mk | refine Calm.pair ?_ rfl rfl)

theorem doorbellRecords_calm (f block i : Nat) (l : List U32) {s0 s : State} (hc0 : Calm s0 s) :
    Calm s0 (doorbellRecords f block i l s) := by
  induction l generalizing i s with
  | nil => exact hc0
  | cons w r ih => exact ih _ (doorbellRecord_calm _ _ _ _ hc0)

theorem queueStopCmd_calm (ctx : CmdCtx) (q : ℕ) {s0 s : State} (hc0 : Calm s0 s) :
    Calm s0 (queueStopCmd ctx q s) := by
  unfold queueStopCmd; try dsimp only
  repeat' (with_reducible first | assumption | intro _ | apply answerWaiters_calm | apply stopItem_calm | apply each_calm | apply modSq_calm | apply reply_calm | apply begun_calm | apply Calm.ite | apply CalmO.ite | apply CalmO.next | split | apply Calm.mk | refine Calm.pair ?_ rfl rfl)

theorem queueStartCmd_calm (ctx : CmdCtx) (q : ℕ) {s0 s : State} (hc0 : Calm s0 s) :
    Calm s0 (queueStartCmd ctx q s) := by
  unfold queueStartCmd; try dsimp only
  repeat' (with_reducible first | assumption | intro _ | apply startReading_calm | apply modSq_calm | apply reply_calm | apply begun_calm | apply Calm.ite | apply CalmO.ite | apply CalmO.next | split | apply Calm.mk | refine Calm.pair ?_ rfl rfl)

theorem stageWrite_calm (x : Item) (pos : ℕ) (bytes : List Byte) {s0 s : State} (hc0 : Calm s0 s) :
    Calm s0 (stageWrite x pos bytes s) := by
  unfold stageWrite; try dsimp only
  repeat' (with_reducible first | assumption | intro _ | apply modChan_calm | apply Calm.ite | apply CalmO.ite | apply CalmO.next | split | apply Calm.mk | refine Calm.pair ?_ rfl rfl)

theorem lostEnd_calm (i : ℕ) {s0 s : State} (hc0 : Calm s0 s) :
    Calm s0 (lostEnd i s) := by
  unfold lostEnd; try dsimp only
  repeat' (with_reducible first | assumption | intro _ | apply modItem_calm | apply finish_calm | apply Calm.ite | apply CalmO.ite | apply CalmO.next | split | apply Calm.mk | refine Calm.pair ?_ rfl rfl)

theorem loseData_calm (i : ℕ) {s0 s : State} (hc0 : Calm s0 s) :
    Calm s0 (loseData i s) := by
  unfold loseData; try dsimp only
  repeat' (with_reducible first | assumption | intro _ | apply lostEnd_calm | apply raise_calm | apply Calm.ite | apply CalmO.ite | apply CalmO.next | split | apply Calm.mk | refine Calm.pair ?_ rfl rfl)

theorem idxMalformed_calm (i : ℕ) (x : Item) {s0 s : State} (hc0 : Calm s0 s) :
    Calm s0 (idxMalformed i x s) := by
  unfold idxMalformed; try dsimp only
  repeat' (with_reducible first | assumption | intro _ | apply haltFunc_calm | apply finish_calm | apply modItem_calm | apply Calm.ite | apply CalmO.ite | apply CalmO.next | split | apply Calm.mk | refine Calm.pair ?_ rfl rfl)

theorem afterBurst_calm (key : ℕ) (moved : ℕ) (n : ℕ) {s0 s : State} (hc0 : Calm s0 s) :
    Calm s0 (afterBurst key moved n s) := by
  unfold afterBurst; try dsimp only
  repeat' (with_reducible first | assumption | intro _ | apply modChan_calm | apply Calm.ite | apply CalmO.ite | apply CalmO.next | split | apply Calm.mk | refine Calm.pair ?_ rfl rfl)

theorem burstIn_calm (key : ℕ) (cut : ℕ) (i : ℕ) (x : Item) {s0 s : State} (hc0 : Calm s0 s) :
    Calm s0 (burstIn key cut i x s) := by
  unfold burstIn; try dsimp only
  repeat' (with_reducible first | assumption | intro _ | apply afterBurst_calm | apply modItem_calm | apply loseData_calm | apply hostWrite_calm | apply idxMalformed_calm | apply lostEnd_calm | apply Calm.ite | apply CalmO.ite | apply CalmO.next | split | apply Calm.mk | refine Calm.pair ?_ rfl rfl)

theorem burstOut_calm (key : ℕ) (cut : ℕ) (i : ℕ) (x : Item) {s0 s : State} (hc0 : Calm s0 s) :
    Calm s0 (burstOut key cut i x s) := by
  unfold burstOut; try dsimp only
  repeat' (with_reducible first | assumption | intro _ | apply modChan_calm | apply modItem_calm | apply emit_calm | apply idxMalformed_calm | apply finish_calm | apply Calm.ite | apply CalmO.ite | apply CalmO.next | split | apply Calm.mk | refine Calm.pair ?_ rfl rfl)

theorem dmaServe_calm (cut : ℕ) {s0 s : State} (hc0 : Calm s0 s) :
    Calm s0 (dmaServe cut s) := by
  unfold dmaServe; try dsimp only
  repeat' (with_reducible first | assumption | intro _ | apply burstOut_calm | apply burstIn_calm | apply Calm.ite | apply CalmO.ite | apply CalmO.next | split | apply Calm.mk | refine Calm.pair ?_ rfl rfl)

theorem readDone_calm (key : ℕ) (ok : Bool) (data : List Byte) {s0 s : State} (hc0 : Calm s0 s) :
    Calm s0 (readDone key ok data s) := by
  unfold readDone; try dsimp only
  repeat' (with_reducible first | assumption | intro _ | apply modItem_calm | apply stageWrite_calm | apply finish_calm | apply modChan_calm | apply Calm.ite | apply CalmO.ite | apply CalmO.next | split | apply Calm.mk | refine Calm.pair ?_ rfl rfl)

theorem askWindow_calm (i : ℕ) (n : ℕ) {s0 s : State} (hc0 : Calm s0 s) :
    Calm s0 (askWindow i n s) := by
  unfold askWindow; try dsimp only
  repeat' (with_reducible first | assumption | intro _ | apply lostEnd_calm | apply emit_calm | apply Calm.ite | apply CalmO.ite | apply CalmO.next | split | apply Calm.mk | refine Calm.pair ?_ rfl rfl)

theorem takeWindow_calm (i : ℕ) (x : Item) (d : IdxState) (os : List ℕ) {s0 s : State} (hc0 : Calm s0 s) :
    Calm s0 (takeWindow i x d os s) := by
  unfold takeWindow; try dsimp only
  repeat' (with_reducible first | assumption | intro _ | apply idxMalformed_calm | apply askWindow_calm | apply setItem_calm | apply Calm.ite | apply CalmO.ite | apply CalmO.next | split | apply Calm.mk | refine Calm.pair ?_ rfl rfl)

theorem idxRead_calm (i : ℕ) (first : ℕ) (ok : Bool) (bytes : List Byte) {s0 s : State} (hc0 : Calm s0 s) :
    Calm s0 (idxRead i first ok bytes s) := by
  unfold idxRead; try dsimp only
  repeat' (with_reducible first | assumption | intro _ | apply setItem_calm | apply takeWindow_calm | apply idxMalformed_calm | apply lostEnd_calm | apply Calm.ite | apply CalmO.ite | apply CalmO.next | split | apply Calm.mk | refine Calm.pair ?_ rfl rfl)

theorem zeroPage_calm (n : ℕ) {s0 s : State} (hc0 : Calm s0 s) :
    Calm s0 (zeroPage n s) := by
  unfold zeroPage; try dsimp only
  repeat' (with_reducible first | assumption | intro _ | apply Calm.ite | apply CalmO.ite | apply CalmO.next | split | apply Calm.mk | refine Calm.pair ?_ rfl rfl)

theorem assignPages_calm (ps : List ℕ) (f : ℕ) (key : ℕ × ℕ) {s0 s : State} (hc0 : Calm s0 s) :
    Calm s0 (assignPages ps f key s) := by
  unfold assignPages; try dsimp only
  repeat' (with_reducible first | assumption | intro _ | apply setPage_calm | apply each_calm | apply Calm.ite | apply CalmO.ite | apply CalmO.next | split | apply Calm.mk | refine Calm.pair ?_ rfl rfl)

theorem returnPages_calm (ps : List ℕ) {s0 s : State} (hc0 : Calm s0 s) :
    Calm s0 (returnPages ps s) := by
  unfold returnPages; try dsimp only
  repeat' (with_reducible first | assumption | intro _ | apply setPage_calm | apply each_calm | apply Calm.ite | apply CalmO.ite | apply CalmO.next | split | apply Calm.mk | refine Calm.pair ?_ rfl rfl)

theorem scrubPages_calm (ps : List ℕ) (dst : Option ℕ) {s0 s : State} (hc0 : Calm s0 s) :
    Calm s0 (scrubPages ps dst s) := by
  unfold scrubPages; try dsimp only
  repeat' (with_reducible first | assumption | intro _ | apply setPage_calm | apply each_calm | apply Calm.ite | apply CalmO.ite | apply CalmO.next | split | apply Calm.mk | refine Calm.pair ?_ rfl rfl)

theorem scrubbed_calm (n : ℕ) {s0 s : State} (hc0 : Calm s0 s) :
    Calm s0 (scrubbed n s) := by
  unfold scrubbed; try dsimp only
  repeat' (with_reducible first | assumption | intro _ | apply setPage_calm | apply zeroPage_calm | apply Calm.ite | apply CalmO.ite | apply CalmO.next | split | apply Calm.mk | refine Calm.pair ?_ rfl rfl)

theorem endStagedIn_calm (n : ℕ) {s0 s : State} (hc0 : Calm s0 s) :
    Calm s0 (endStagedIn n s) := by
  unfold endStagedIn; try dsimp only
  repeat' (with_reducible first | assumption | intro _ | apply dropStaged_calm | apply finish_calm | apply each_calm | apply Calm.ite | apply CalmO.ite | apply CalmO.next | split | apply Calm.mk | refine Calm.pair ?_ rfl rfl)

theorem retirePage_calm (n : ℕ) {s0 s : State} (hc0 : Calm s0 s) :
    Calm s0 (retirePage n s) := by
  unfold retirePage; try dsimp only
  repeat' (with_reducible first | assumption | intro _ | apply setPage_calm | apply zeroPage_calm | apply raise_calm | apply endStagedIn_calm | apply Calm.ite | apply CalmO.ite | apply CalmO.next | split | apply Calm.mk | refine Calm.pair ?_ rfl rfl)

theorem bufCarveCmd_calm (ctx : CmdCtx) (h : U16) (epaddr : Byte) {s0 s : State} (hc0 : Calm s0 s) :
    Calm s0 (bufCarveCmd ctx h epaddr s) := by
  unfold bufCarveCmd; try dsimp only
  repeat' (with_reducible first | assumption | intro _ | apply modCtx_calm | apply assignPages_calm | apply reply_calm | apply begun_calm | apply Calm.ite | apply CalmO.ite | apply CalmO.next | split | apply Calm.mk | refine Calm.pair ?_ rfl rfl)

theorem bufReleaseFinish_calm (f : ℕ) (h : U16) (epaddr : Byte) {s0 s : State} (hc0 : Calm s0 s) :
    Calm s0 (bufReleaseFinish f h epaddr s) := by
  unfold bufReleaseFinish; try dsimp only
  repeat' (with_reducible first | assumption | intro _ | apply reply_calm | apply modFn_calm | apply modCtx_calm | apply returnPages_calm | apply unstage_calm | apply each_calm | apply Calm.ite | apply CalmO.ite | apply CalmO.next | split | apply Calm.mk | refine Calm.pair ?_ rfl rfl)

theorem bufReleaseCmd_calm (ctx : CmdCtx) (h : U16) (epaddr : Byte) {s0 s : State} (hc0 : Calm s0 s) :
    Calm s0 (bufReleaseCmd ctx h epaddr s) := by
  unfold bufReleaseCmd; try dsimp only
  repeat' (with_reducible first | assumption | intro _ | apply modCtx_calm | apply bufReleaseFinish_calm | apply modFn_calm | apply reply_calm | apply begun_calm | apply Calm.ite | apply CalmO.ite | apply CalmO.next | split | apply Calm.mk | refine Calm.pair ?_ rfl rfl)

end Sys2Proof.Machine
end

