-- ==== Sys2Proof/Laws/CalmBlocks.lean ====
section
/-! SUPPORT. What no operation of the block touches, continued: the operations of trees, slots, admission, faults, attach, engines and the wire. -/

set_option linter.unusedTactic false
set_option linter.unreachableTactic false

namespace Sys2Proof.Machine

set_option Elab.async false

theorem modHubPort_calm (h : ℕ) (q : ℕ) (g : HubPort → HubPort) {s0 s : State} (hc0 : Calm s0 s) :
    Calm s0 (modHubPort h q g s) := by
  unfold modHubPort; try dsimp only
  repeat' (with_reducible first | assumption | intro _ | apply modDev_calm | apply Calm.ite | apply CalmO.ite | apply CalmO.next | split | apply Calm.mk | refine Calm.pair ?_ rfl rfl)

theorem hubRequest_calm (h : ℕ) (code : ℕ) (byte1 : ℕ) (arg0 : ℕ) (q : ℕ) {s0 s : State} (hc0 : Calm s0 s) :
    Calm s0 (hubRequest h code byte1 arg0 q s) := by
  unfold hubRequest; try dsimp only
  repeat' (with_reducible first | assumption | intro _ | apply request_calm | apply Calm.ite | apply CalmO.ite | apply CalmO.next | split | apply Calm.mk | refine Calm.pair ?_ rfl rfl)

theorem setFeature_calm (h : ℕ) (feature : ℕ) (q : ℕ) {s0 s : State} (hc0 : Calm s0 s) :
    Calm s0 (setFeature h feature q s) := by
  unfold setFeature; try dsimp only
  repeat' (with_reducible first | assumption | intro _ | apply hubRequest_calm | apply Calm.ite | apply CalmO.ite | apply CalmO.next | split | apply Calm.mk | refine Calm.pair ?_ rfl rfl)

theorem clearFeature_calm (h : ℕ) (feature : ℕ) (q : ℕ) {s0 s : State} (hc0 : Calm s0 s) :
    Calm s0 (clearFeature h feature q s) := by
  unfold clearFeature; try dsimp only
  repeat' (with_reducible first | assumption | intro _ | apply hubRequest_calm | apply Calm.ite | apply CalmO.ite | apply CalmO.next | split | apply Calm.mk | refine Calm.pair ?_ rfl rfl)

theorem clearTt_calm (h : ℕ) (q : ℕ) {s0 s : State} (hc0 : Calm s0 s) :
    Calm s0 (clearTt h q s) := by
  unfold clearTt; try dsimp only
  repeat' (with_reducible first | assumption | intro _ | apply hubRequest_calm | apply Calm.ite | apply CalmO.ite | apply CalmO.next | split | apply Calm.mk | refine Calm.pair ?_ rfl rfl)

theorem addReport_calm (r : Report) {s0 s : State} (hc0 : Calm s0 s) :
    Calm s0 (addReport r s) := by
  unfold addReport; try dsimp only
  repeat' (with_reducible first | assumption | intro _ | apply Calm.ite | apply CalmO.ite | apply CalmO.next | split | apply Calm.mk | refine Calm.pair ?_ rfl rfl)

theorem addRecord_calm (r : Report) {s0 s : State} (hc0 : Calm s0 s) :
    Calm s0 (addRecord r s) := by
  unfold addRecord; try dsimp only
  repeat' (with_reducible first | assumption | intro _ | apply addReport_calm | apply raisePort_calm | apply Calm.ite | apply CalmO.ite | apply CalmO.next | split | apply Calm.mk | refine Calm.pair ?_ rfl rfl)

theorem portEvent_calm (p : ℕ) (b : ℕ) {s0 s : State} (hc0 : Calm s0 s) :
    Calm s0 (portEvent p b s) := by
  unfold portEvent; try dsimp only
  repeat' (with_reducible first | assumption | intro _ | apply addReport_calm | apply raisePort_calm | apply Calm.ite | apply CalmO.ite | apply CalmO.next | split | apply Calm.mk | refine Calm.pair ?_ rfl rfl)

theorem takeHandle_calm {s0 s t : State} {n : Nat} (e : takeHandle s = some (n, t)) (hc0 : Calm s0 s) : Calm s0 t := by
  unfold takeHandle at e
  split at e
  · cases e; exact hc0
  · split at e
    · cases e; exact hc0
    · split at e
      · cases e; exact hc0
      · cases e

theorem untakeHandle_calm (n : ℕ) {s0 s : State} (hc0 : Calm s0 s) :
    Calm s0 (untakeHandle n s) := by
  unfold untakeHandle; try dsimp only
  repeat' (with_reducible first | assumption | intro _ | apply modHandle_calm | apply Calm.ite | apply CalmO.ite | apply CalmO.next | split | apply Calm.mk | refine Calm.pair ?_ rfl rfl)

theorem forgetSq_calm (f : ℕ) (q : ℕ) {s0 s : State} (hc0 : Calm s0 s) :
    Calm s0 (forgetSq f q s) := by
  unfold forgetSq; try dsimp only
  repeat' (with_reducible first | assumption | intro _ | apply Calm.ite | apply CalmO.ite | apply CalmO.next | split | apply Calm.mk | refine Calm.pair ?_ rfl rfl)

theorem enliven_calm (n : ℕ) (owner : ℕ) (isHub : Bool) {s0 s : State} (hc0 : Calm s0 s) :
    Calm s0 (enliven n owner isHub s) := by
  unfold enliven; try dsimp only
  repeat' (with_reducible first | assumption | intro _ | apply modHandle_calm | apply Calm.ite | apply CalmO.ite | apply CalmO.next | split | apply Calm.mk | refine Calm.pair ?_ rfl rfl)

theorem refreshIso_calm {s0 s : State} (hc0 : Calm s0 s) :
    Calm s0 (refreshIso s) := by
  unfold refreshIso; try dsimp only
  repeat' (with_reducible first | assumption | intro _ | apply modFn_calm | apply raiseVf_calm | apply each_calm | apply Calm.ite | apply CalmO.ite | apply CalmO.next | split | apply Calm.mk | refine Calm.pair ?_ rfl rfl)

theorem dropRes_calm (p : Rung → Bool) {s0 s : State} (hc0 : Calm s0 s) :
    Calm s0 (dropRes p s) := by
  unfold dropRes; try dsimp only
  repeat' (with_reducible first | assumption | intro _ | apply Calm.ite | apply CalmO.ite | apply CalmO.next | split | apply Calm.mk | refine Calm.pair ?_ rfl rfl)

theorem endDevice_calm (num : ℕ) (st : Byte) {s0 s : State} (hc0 : Calm s0 s) :
    Calm s0 (endDevice num st s) := by
  unfold endDevice; try dsimp only
  repeat' (with_reducible first | assumption | intro _ | apply postItem_calm | apply stopItem_calm | apply finish_calm | apply each_calm | apply Calm.ite | apply CalmO.ite | apply CalmO.next | split | apply Calm.mk | refine Calm.pair ?_ rfl rfl)

theorem freeDedicated_calm (k : ℕ) (c : Ctx) {s0 s : State} (hc0 : Calm s0 s) :
    Calm s0 (freeDedicated k c s) := by
  unfold freeDedicated; try dsimp only
  repeat' (with_reducible first | assumption | intro _ | apply modFn_calm | apply reply_calm | apply modCtx_calm | apply returnPages_calm | apply Calm.ite | apply CalmO.ite | apply CalmO.next | split | apply Calm.mk | refine Calm.pair ?_ rfl rfl)

theorem closeCtxs_calm (num : ℕ) {s0 s : State} (hc0 : Calm s0 s) :
    Calm s0 (closeCtxs num s) := by
  unfold closeCtxs; try dsimp only
  repeat' (with_reducible first | assumption | intro _ | apply dropRequests_calm | apply freeDedicated_calm | apply each_calm | apply Calm.ite | apply CalmO.ite | apply CalmO.next | split | apply Calm.mk | refine Calm.pair ?_ rfl rfl)

theorem modCtxs_calm (num : ℕ) (g : ℕ → Ctx → Ctx) {s0 s : State} (hc0 : Calm s0 s) :
    Calm s0 (modCtxs num g s) := by
  unfold modCtxs; try dsimp only
  repeat' (with_reducible first | assumption | intro _ | apply Calm.ite | apply CalmO.ite | apply CalmO.next | split | apply Calm.mk | refine Calm.pair ?_ rfl rfl)

theorem shutEps_calm (num : ℕ) {s0 s : State} (hc0 : Calm s0 s) :
    Calm s0 (shutEps num s) := by
  unfold shutEps; try dsimp only
  repeat' (with_reducible first | assumption | intro _ | apply modCtxs_calm | apply dropRequests_calm | apply freeDedicated_calm | apply each_calm | apply Calm.ite | apply CalmO.ite | apply CalmO.next | split | apply Calm.mk | refine Calm.pair ?_ rfl rfl)

theorem deviceDefault_calm (num : ℕ) {s0 s : State} (hc0 : Calm s0 s) :
    Calm s0 (deviceDefault num s) := by
  unfold deviceDefault; try dsimp only
  repeat' (with_reducible first | assumption | intro _ | apply modCtxs_calm | apply Calm.ite | apply CalmO.ite | apply CalmO.next | split | apply Calm.mk | refine Calm.pair ?_ rfl rfl)

theorem endScripts_calm (num : ℕ) {s0 s : State} (hc0 : Calm s0 s) :
    Calm s0 (endScripts num s) := by
  unfold endScripts; try dsimp only
  repeat' (with_reducible first | assumption | intro _ | apply Calm.ite | apply CalmO.ite | apply CalmO.next | split | apply Calm.mk | refine Calm.pair ?_ rfl rfl)

theorem attachRecord_calm (num : ℕ) (d : Device) {s0 s : State} (hc0 : Calm s0 s) :
    Calm s0 (attachRecord num d s) := by
  unfold attachRecord; try dsimp only
  repeat' (with_reducible first | assumption | intro _ | apply addRecord_calm | apply Calm.ite | apply CalmO.ite | apply CalmO.next | split | apply Calm.mk | refine Calm.pair ?_ rfl rfl)

theorem tearOne_calm (st : Byte) (num : ℕ) {s0 s : State} (hc0 : Calm s0 s) :
    Calm s0 (tearOne st num s) := by
  unfold tearOne; try dsimp only
  repeat' (with_reducible first | assumption | intro _ | apply modHandle_calm | apply addRecord_calm | apply clearTt_calm | apply closeCtxs_calm | apply dropRes_calm | apply endDevice_calm | apply endScripts_calm | apply enliven_calm | apply attachRecord_calm | apply Calm.ite | apply CalmO.ite | apply CalmO.next | split | apply Calm.mk | refine Calm.pair ?_ rfl rfl)

theorem abandonEnum_calm (at_ : Loc) (lost : Bool) {s0 s : State} (hc0 : Calm s0 s) :
    Calm s0 (abandonEnum at_ lost s) := by
  unfold abandonEnum; try dsimp only
  repeat' (with_reducible first | assumption | intro _ | apply closeCtxs_calm | apply untakeHandle_calm | apply clearTt_calm | apply setDev_calm | apply enliven_calm | apply attachRecord_calm | apply modPort_calm | apply Calm.ite | apply CalmO.ite | apply CalmO.next | split | apply Calm.mk | refine Calm.pair ?_ rfl rfl)

theorem unparkAborts_calm (at_ : Loc) (lost : Bool) {s0 s : State} (hc0 : Calm s0 s) :
    Calm s0 (unparkAborts at_ lost s) := by
  unfold unparkAborts; try dsimp only
  repeat' (with_reducible first | assumption | intro _ | apply Calm.ite | apply CalmO.ite | apply CalmO.next | split | apply Calm.mk | refine Calm.pair ?_ rfl rfl)

theorem answerTopo_calm (p : TopoPending → Bool) (res : ℕ) {s0 s : State} (hc0 : Calm s0 s) :
    Calm s0 (answerTopo p res s) := by
  unfold answerTopo; try dsimp only
  repeat' (with_reducible first | assumption | intro _ | apply reply_calm | apply each_calm | apply Calm.ite | apply CalmO.ite | apply CalmO.next | split | apply Calm.mk | refine Calm.pair ?_ rfl rfl)

theorem abandonCmds_calm (at_ : Loc) {s0 s : State} (hc0 : Calm s0 s) :
    Calm s0 (abandonCmds at_ s) := by
  unfold abandonCmds; try dsimp only
  repeat' (with_reducible first | assumption | intro _ | apply answerTopo_calm | apply Calm.ite | apply CalmO.ite | apply CalmO.next | split | apply Calm.mk | refine Calm.pair ?_ rfl rfl)

theorem beginHubReset_calm (h : ℕ) (q : ℕ) {s0 s : State} (hc0 : Calm s0 s) :
    Calm s0 (beginHubReset h q s) := by
  unfold beginHubReset; try dsimp only
  repeat' (with_reducible first | assumption | intro _ | apply setFeature_calm | apply modHubPort_calm | apply clearTt_calm | apply Calm.ite | apply CalmO.ite | apply CalmO.next | split | apply Calm.mk | refine Calm.pair ?_ rfl rfl)

theorem startNext_calm (p : ℕ) {s0 s : State} (hc0 : Calm s0 s) :
    Calm s0 (startNext p s) := by
  unfold startNext; try dsimp only
  repeat' (with_reducible first | assumption | intro _ | apply beginHubReset_calm | apply modPort_calm | apply Calm.ite | apply CalmO.ite | apply CalmO.next | split | apply Calm.mk | refine Calm.pair ?_ rfl rfl)

theorem clearLane_calm (p : ℕ) {s0 s : State} (hc0 : Calm s0 s) :
    Calm s0 (clearLane p s) := by
  unfold clearLane; try dsimp only
  repeat' (with_reducible first | assumption | intro _ | apply finish_calm | apply modPort_calm | apply Calm.ite | apply CalmO.ite | apply CalmO.next | split | apply Calm.mk | refine Calm.pair ?_ rfl rfl)

theorem unhold_calm (p : ℕ) {s0 s : State} (hc0 : Calm s0 s) :
    Calm s0 (unhold p s) := by
  unfold unhold; try dsimp only
  repeat' (with_reducible first | assumption | intro _ | apply postItem_calm | apply each_calm | apply Calm.ite | apply CalmO.ite | apply CalmO.next | split | apply Calm.mk | refine Calm.pair ?_ rfl rfl)

theorem beginRootReset_calm (p : ℕ) {s0 s : State} (hc0 : Calm s0 s) :
    Calm s0 (beginRootReset p s) := by
  unfold beginRootReset; try dsimp only
  repeat' (with_reducible first | assumption | intro _ | apply emit_calm | apply modPort_calm | apply clearLane_calm | apply unhold_calm | apply Calm.ite | apply CalmO.ite | apply CalmO.next | split | apply Calm.mk | refine Calm.pair ?_ rfl rfl)

theorem beginDue_calm (p : ℕ) {s0 s : State} (hc0 : Calm s0 s) :
    Calm s0 (beginDue p s) := by
  unfold beginDue; try dsimp only
  repeat' (with_reducible first | assumption | intro _ | apply startNext_calm | apply beginRootReset_calm | apply Calm.ite | apply CalmO.ite | apply CalmO.next | split | apply Calm.mk | refine Calm.pair ?_ rfl rfl)

theorem startRootReset_calm (p : ℕ) {s0 s : State} (hc0 : Calm s0 s) :
    Calm s0 (startRootReset p s) := by
  unfold startRootReset; try dsimp only
  repeat' (with_reducible first | assumption | intro _ | apply modPort_calm | apply beginDue_calm | apply Calm.ite | apply CalmO.ite | apply CalmO.next | split | apply Calm.mk | refine Calm.pair ?_ rfl rfl)

theorem queueHub_calm (l : Loc) {s0 s : State} (hc0 : Calm s0 s) :
    Calm s0 (queueHub l s) := by
  unfold queueHub; try dsimp only
  repeat' (with_reducible first | assumption | intro _ | apply modPort_calm | apply beginDue_calm | apply Calm.ite | apply CalmO.ite | apply CalmO.next | split | apply Calm.mk | refine Calm.pair ?_ rfl rfl)

theorem retryRefused_calm {s0 s : State} (hc0 : Calm s0 s) :
    Calm s0 (retryRefused s) := by
  unfold retryRefused; try dsimp only
  repeat' (with_reducible first | assumption | intro _ | apply modHubPort_calm | apply queueHub_calm | apply modPort_calm | apply startRootReset_calm | apply Calm.ite | apply CalmO.ite | apply CalmO.next | split | apply Calm.mk | refine Calm.pair ?_ rfl rfl)

theorem tearDown_calm (at_ : Loc) (st : Byte) {s0 s : State} (hc0 : Calm s0 s) :
    Calm s0 (tearDown at_ st s) := by
  unfold tearDown; try dsimp only
  repeat' (with_reducible first | assumption | intro _ | apply retryRefused_calm | apply tearOne_calm | apply each_calm | apply refreshIso_calm | apply unparkAborts_calm | apply abandonEnum_calm | apply Calm.ite | apply CalmO.ite | apply CalmO.next | split | apply Calm.mk | refine Calm.pair ?_ rfl rfl)

theorem portOff_calm (p : ℕ) {s0 s : State} (hc0 : Calm s0 s) :
    Calm s0 (portOff p s) := by
  unfold portOff; try dsimp only
  repeat' (with_reducible first | assumption | intro _ | apply clearLane_calm | apply unhold_calm | apply modPort_calm | apply Calm.ite | apply CalmO.ite | apply CalmO.next | split | apply Calm.mk | refine Calm.pair ?_ rfl rfl)

theorem portGone_calm (p : ℕ) (st : Byte) {s0 s : State} (hc0 : Calm s0 s) :
    Calm s0 (portGone p st s) := by
  unfold portGone; try dsimp only
  repeat' (with_reducible first | assumption | intro _ | apply abandonCmds_calm | apply tearDown_calm | apply portOff_calm | apply emit_calm | apply Calm.ite | apply CalmO.ite | apply CalmO.next | split | apply Calm.mk | refine Calm.pair ?_ rfl rfl)

theorem hubPortGone_calm (h : ℕ) (q : ℕ) (st : Byte) {s0 s : State} (hc0 : Calm s0 s) :
    Calm s0 (hubPortGone h q st s) := by
  unfold hubPortGone; try dsimp only
  repeat' (with_reducible first | assumption | intro _ | apply modHubPort_calm | apply startNext_calm | apply abandonCmds_calm | apply tearDown_calm | apply Calm.ite | apply CalmO.ite | apply CalmO.next | split | apply Calm.mk | refine Calm.pair ?_ rfl rfl)

theorem locGone_calm (at_ : Loc) (st : Byte) {s0 s : State} (hc0 : Calm s0 s) :
    Calm s0 (locGone at_ st s) := by
  unfold locGone; try dsimp only
  repeat' (with_reducible first | assumption | intro _ | apply hubPortGone_calm | apply portGone_calm | apply Calm.ite | apply CalmO.ite | apply CalmO.next | split | apply Calm.mk | refine Calm.pair ?_ rfl rfl)

theorem babbleDisable_calm (p : ℕ) {s0 s : State} (hc0 : Calm s0 s) :
    Calm s0 (babbleDisable p s) := by
  unfold babbleDisable; try dsimp only
  repeat' (with_reducible first | assumption | intro _ | apply portGone_calm | apply portEvent_calm | apply modPort_calm | apply Calm.ite | apply CalmO.ite | apply CalmO.next | split | apply Calm.mk | refine Calm.pair ?_ rfl rfl)

theorem modSlot_calm (n : ℕ) (g : CardSlot → CardSlot) {s0 s : State} (hc0 : Calm s0 s) :
    Calm s0 (modSlot n g s) := by
  unfold modSlot; try dsimp only
  repeat' (with_reducible first | assumption | intro _ | apply Calm.ite | apply CalmO.ite | apply CalmO.next | split | apply Calm.mk | refine Calm.pair ?_ rfl rfl)

theorem pctlSend_calm (g : ℕ) (typ : ℕ) (j : ℕ) (seq : U16) (payload : List Byte) {s0 s : State} (hc0 : Calm s0 s) :
    Calm s0 (pctlSend g typ j seq payload s) := by
  unfold pctlSend; try dsimp only
  repeat' (with_reducible first | assumption | intro _ | apply emit_calm | apply Calm.ite | apply CalmO.ite | apply CalmO.next | split | apply Calm.mk | refine Calm.pair ?_ rfl rfl)

theorem pctlEvent_calm (n : ℕ) (b : ℕ) {s0 s : State} (hc0 : Calm s0 s) :
    Calm s0 (pctlEvent n b s) := by
  unfold pctlEvent; try dsimp only
  repeat' (with_reducible first | assumption | intro _ | apply pctlSend_calm | apply modDie_calm | apply Calm.ite | apply CalmO.ite | apply CalmO.next | split | apply Calm.mk | refine Calm.pair ?_ rfl rfl)

theorem dieEvent_calm (n : ℕ) (b : ℕ) {s0 s : State} (hc0 : Calm s0 s) :
    Calm s0 (dieEvent n b s) := by
  unfold dieEvent; try dsimp only
  repeat' (with_reducible first | assumption | intro _ | apply pctlEvent_calm | apply raiseSlot_calm | apply startWake_calm | apply modSlot_calm | apply Calm.ite | apply CalmO.ite | apply CalmO.next | split | apply Calm.mk | refine Calm.pair ?_ rfl rfl)

theorem tellCore_calm (n : ℕ) (b : ℕ) {s0 s : State} (hc0 : Calm s0 s) :
    Calm s0 (tellCore n b s) := by
  unfold tellCore; try dsimp only
  repeat' (with_reducible first | assumption | intro _ | apply emit_calm | apply Calm.ite | apply CalmO.ite | apply CalmO.next | split | apply Calm.mk | refine Calm.pair ?_ rfl rfl)

theorem endLastGasp_calm (n : ℕ) {s0 s : State} (hc0 : Calm s0 s) :
    Calm s0 (endLastGasp n s) := by
  unfold endLastGasp; try dsimp only
  repeat' (with_reducible first | assumption | intro _ | apply modPort_calm | apply Calm.ite | apply CalmO.ite | apply CalmO.next | split | apply Calm.mk | refine Calm.pair ?_ rfl rfl)

theorem slotTreeGone_calm (n : ℕ) {s0 s : State} (hc0 : Calm s0 s) :
    Calm s0 (slotTreeGone n s) := by
  unfold slotTreeGone; try dsimp only
  repeat' (with_reducible first | assumption | intro _ | apply portGone_calm | apply modPort_calm | apply locGone_calm | apply each_calm | apply Calm.ite | apply CalmO.ite | apply CalmO.next | split | apply Calm.mk | refine Calm.pair ?_ rfl rfl)

theorem coreGateOff_calm (n : ℕ) {s0 s : State} (hc0 : Calm s0 s) :
    Calm s0 (coreGateOff n s) := by
  unfold coreGateOff; try dsimp only
  repeat' (with_reducible first | assumption | intro _ | apply slotTreeGone_calm | apply Calm.ite | apply CalmO.ite | apply CalmO.next | split | apply Calm.mk | refine Calm.pair ?_ rfl rfl)

theorem gateOff_calm (n : ℕ) (st : SlotState) {s0 s : State} (hc0 : Calm s0 s) :
    Calm s0 (gateOff n st s) := by
  unfold gateOff; try dsimp only
  repeat' (with_reducible first | assumption | intro _ | apply dieEvent_calm | apply modSlot_calm | apply Calm.ite | apply CalmO.ite | apply CalmO.next | split | apply Calm.mk | refine Calm.pair ?_ rfl rfl)

theorem trip_calm (n : ℕ) (code : ℕ) (bySoa : Bool) (vout : BitVec 12) (vbus : BitVec 12) {s0 s : State} (hc0 : Calm s0 s) :
    Calm s0 (trip n code bySoa vout vbus s) := by
  unfold trip; try dsimp only
  repeat' (with_reducible first | assumption | intro _ | apply tellCore_calm | apply modSlot_calm | apply dieEvent_calm | apply gateOff_calm | apply Calm.ite | apply CalmO.ite | apply CalmO.next | split | apply Calm.mk | refine Calm.pair ?_ rfl rfl)

theorem powerCheck_calm (n : ℕ) {s0 s : State} (hc0 : Calm s0 s) :
    Calm s0 (powerCheck n s) := by
  unfold powerCheck; try dsimp only
  repeat' (with_reducible first | assumption | intro _ | apply modSlot_calm | apply Calm.ite | apply CalmO.ite | apply CalmO.next | split | apply Calm.mk | refine Calm.pair ?_ rfl rfl)

theorem recheck_calm (g : ℕ) {s0 s : State} (hc0 : Calm s0 s) :
    Calm s0 (recheck g s) := by
  unfold recheck; try dsimp only
  repeat' (with_reducible first | assumption | intro _ | apply powerCheck_calm | apply each_calm | apply Calm.ite | apply CalmO.ite | apply CalmO.next | split | apply Calm.mk | refine Calm.pair ?_ rfl rfl)

theorem clearLatch_calm (n : ℕ) {s0 s : State} (hc0 : Calm s0 s) :
    Calm s0 (clearLatch n s) := by
  unfold clearLatch; try dsimp only
  repeat' (with_reducible first | assumption | intro _ | apply modSlot_calm | apply Calm.ite | apply CalmO.ite | apply CalmO.next | split | apply Calm.mk | refine Calm.pair ?_ rfl rfl)

theorem enSetOp_calm (n : ℕ) {s0 s : State} (hc0 : Calm s0 s) :
    Calm s0 (enSetOp n s) := by
  unfold enSetOp; try dsimp only
  repeat' (with_reducible first | assumption | intro _ | apply clearLatch_calm | apply powerCheck_calm | apply modSlot_calm | apply Calm.ite | apply CalmO.ite | apply CalmO.next | split | apply Calm.mk | refine Calm.pair ?_ rfl rfl)

theorem enClearOp_calm (n : ℕ) {s0 s : State} (hc0 : Calm s0 s) :
    Calm s0 (enClearOp n s) := by
  unfold enClearOp; try dsimp only
  repeat' (with_reducible first | assumption | intro _ | apply gateOff_calm | apply coreGateOff_calm | apply modSlot_calm | apply Calm.ite | apply CalmO.ite | apply CalmO.next | split | apply Calm.mk | refine Calm.pair ?_ rfl rfl)

theorem cycleOp_calm (n : ℕ) {s0 s : State} (hc0 : Calm s0 s) :
    Calm s0 (cycleOp n s) := by
  unfold cycleOp; try dsimp only
  repeat' (with_reducible first | assumption | intro _ | apply gateOff_calm | apply coreGateOff_calm | apply Calm.ite | apply CalmO.ite | apply CalmO.next | split | apply Calm.mk | refine Calm.pair ?_ rfl rfl)

theorem feedLost_calm (n : ℕ) (a : Bool) {s0 s : State} (hc0 : Calm s0 s) :
    Calm s0 (feedLost n a s) := by
  unfold feedLost; try dsimp only
  repeat' (with_reducible first | assumption | intro _ | apply gateOff_calm | apply coreGateOff_calm | apply dieEvent_calm | apply modSlot_calm | apply Calm.ite | apply CalmO.ite | apply CalmO.next | split | apply Calm.mk | refine Calm.pair ?_ rfl rfl)

theorem feedBack_calm (n : ℕ) (a : Bool) {s0 s : State} (hc0 : Calm s0 s) :
    Calm s0 (feedBack n a s) := by
  unfold feedBack; try dsimp only
  repeat' (with_reducible first | assumption | intro _ | apply powerCheck_calm | apply dieEvent_calm | apply modSlot_calm | apply Calm.ite | apply CalmO.ite | apply CalmO.next | split | apply Calm.mk | refine Calm.pair ?_ rfl rfl)

theorem withFeeds_calm (n : ℕ) (g : CardSlot → CardSlot) {s0 s : State} (hc0 : Calm s0 s) :
    Calm s0 (withFeeds n g s) := by
  unfold withFeeds; try dsimp only
  repeat' (with_reducible first | assumption | intro _ | apply feedBack_calm | apply feedLost_calm | apply modSlot_calm | apply Calm.ite | apply CalmO.ite | apply CalmO.next | split | apply Calm.mk | refine Calm.pair ?_ rfl rfl)

theorem telRestart_calm (n : ℕ) {s0 s : State} (hc0 : Calm s0 s) :
    Calm s0 (telRestart n s) := by
  unfold telRestart; try dsimp only
  repeat' (with_reducible first | assumption | intro _ | apply modSlot_calm | apply Calm.ite | apply CalmO.ite | apply CalmO.next | split | apply Calm.mk | refine Calm.pair ?_ rfl rfl)

theorem slotWrite_calm (n : ℕ) (off : ℕ) (v : U64) {s0 s : State} (hc0 : Calm s0 s) :
    Calm s0 (slotWrite n off v s) := by
  unfold slotWrite; try dsimp only
  repeat' (with_reducible first | assumption | intro _ | apply telRestart_calm | apply withRises_calm | apply clearEvt_calm | apply modSlot_calm | apply cycleOp_calm | apply enClearOp_calm | apply enSetOp_calm | apply withFeeds_calm | apply Calm.ite | apply CalmO.ite | apply CalmO.next | split | apply Calm.mk | refine Calm.pair ?_ rfl rfl)

theorem powerCommand_calm (g : ℕ) (src : PowerSource) (j : ℕ) (off : ℕ) (v : U64) {s0 s : State} (hc0 : Calm s0 s) :
    Calm s0 (powerCommand g src j off v s) := by
  unfold powerCommand; try dsimp only
  repeat' (with_reducible first | assumption | intro _ | apply modSlot_calm | apply slotWrite_calm | apply Calm.ite | apply CalmO.ite | apply CalmO.next | split | apply Calm.mk | refine Calm.pair ?_ rfl rfl)

theorem declareGood_calm (n : ℕ) {s0 s : State} (hc0 : Calm s0 s) :
    Calm s0 (declareGood n s) := by
  unfold declareGood; try dsimp only
  repeat' (with_reducible first | assumption | intro _ | apply dieEvent_calm | apply tellCore_calm | apply modSlot_calm | apply Calm.ite | apply CalmO.ite | apply CalmO.next | split | apply Calm.mk | refine Calm.pair ?_ rfl rfl)

theorem removalOp_calm (n : ℕ) {s0 s : State} (hc0 : Calm s0 s) :
    Calm s0 (removalOp n s) := by
  unfold removalOp; try dsimp only
  repeat' (with_reducible first | assumption | intro _ | apply gateOff_calm | apply dieEvent_calm | apply tellCore_calm | apply modSlot_calm | apply Calm.ite | apply CalmO.ite | apply CalmO.next | split | apply Calm.mk | refine Calm.pair ?_ rfl rfl)

theorem convert_calm (n : ℕ) (va : BitVec 12) (vb : BitVec 12) (vbus : BitVec 12) (vout : BitVec 12) (isense : BitVec 12) {s0 s : State} (hc0 : Calm s0 s) :
    Calm s0 (convert n va vb vbus vout isense s) := by
  unfold convert; try dsimp only
  repeat' (with_reducible first | assumption | intro _ | apply modSlot_calm | apply freshIndex_calm | apply Calm.ite | apply CalmO.ite | apply CalmO.next | split | apply Calm.mk | refine Calm.pair ?_ rfl rfl)

theorem reportKept_calm (n : ℕ) {s0 s : State} (hc0 : Calm s0 s) :
    Calm s0 (reportKept n s) := by
  unfold reportKept; try dsimp only
  repeat' (with_reducible first | assumption | intro _ | apply coreGateOff_calm | apply tellCore_calm | apply dieEvent_calm | apply each_calm | apply modSlot_calm | apply Calm.ite | apply CalmO.ite | apply CalmO.next | split | apply Calm.mk | refine Calm.pair ?_ rfl rfl)

theorem unpark_calm (g : ℕ) {s0 s : State} (hc0 : Calm s0 s) :
    Calm s0 (unpark g s) := by
  unfold unpark; try dsimp only
  repeat' (with_reducible first | assumption | intro _ | apply reportKept_calm | apply each_calm | apply recheck_calm | apply modDie_calm | apply Calm.ite | apply CalmO.ite | apply CalmO.next | split | apply Calm.mk | refine Calm.pair ?_ rfl rfl)

theorem keepAlive_calm (g : ℕ) {s0 s : State} (hc0 : Calm s0 s) :
    Calm s0 (keepAlive g s) := by
  unfold keepAlive; try dsimp only
  repeat' (with_reducible first | assumption | intro _ | apply emit_calm | apply unpark_calm | apply Calm.ite | apply CalmO.ite | apply CalmO.next | split | apply Calm.mk | refine Calm.pair ?_ rfl rfl)

theorem execMuleKeepalive_calm (g : DieId) {s0 s : State} (hc0 : Calm s0 s) :
    CalmO s0 (execMuleKeepalive g s) := by
  unfold execMuleKeepalive; try dsimp only
  repeat' (with_reducible first | assumption | intro _ | apply keepAlive_calm | apply guarded_calm | apply Calm.ite | apply CalmO.ite | apply CalmO.next | split | apply Calm.mk | refine Calm.pair ?_ rfl rfl)

theorem quietLegacy_calm (g : ℕ) {s0 s : State} (hc0 : Calm s0 s) :
    Calm s0 (quietLegacy g s) := by
  unfold quietLegacy; try dsimp only
  repeat' (with_reducible first | assumption | intro _ | apply emit_calm | apply each_calm | apply Calm.ite | apply CalmO.ite | apply CalmO.next | split | apply Calm.mk | refine Calm.pair ?_ rfl rfl)

theorem execCoreLostDeclare_calm (g : DieId) {s0 s : State} (hc0 : Calm s0 s) :
    CalmO s0 (execCoreLostDeclare g s) := by
  unfold execCoreLostDeclare; try dsimp only
  repeat' (with_reducible first | assumption | intro _ | apply quietLegacy_calm | apply modDie_calm | apply guarded_calm | apply Calm.ite | apply CalmO.ite | apply CalmO.next | split | apply Calm.mk | refine Calm.pair ?_ rfl rfl)

theorem handOver_calm (g : ℕ) {s0 s : State} (hc0 : Calm s0 s) :
    Calm s0 (handOver g s) := by
  unfold handOver; try dsimp only
  repeat' (with_reducible first | assumption | intro _ | apply emit_calm | apply modDie_calm | apply Calm.ite | apply CalmO.ite | apply CalmO.next | split | apply Calm.mk | refine Calm.pair ?_ rfl rfl)

theorem execHandOverCommand_calm (g : DieId) {s0 s : State} (hc0 : Calm s0 s) :
    CalmO s0 (execHandOverCommand g s) := by
  unfold execHandOverCommand; try dsimp only
  repeat' (with_reducible first | assumption | intro _ | apply handOver_calm | apply done_calm | apply Calm.ite | apply CalmO.ite | apply CalmO.next | split | apply Calm.mk | refine Calm.pair ?_ rfl rfl)

theorem execMulePowerCommand_calm (g : DieId) (src : PowerSource) (j : Fin 16) (offset : U16) (value : U64) {s0 s : State} (hc0 : Calm s0 s) :
    CalmO s0 (execMulePowerCommand g src j offset value s) := by
  unfold execMulePowerCommand; try dsimp only
  repeat' (with_reducible first | assumption | intro _ | apply powerCommand_calm | apply guarded_calm | apply Calm.ite | apply CalmO.ite | apply CalmO.next | split | apply Calm.mk | refine Calm.pair ?_ rfl rfl)

theorem execTelemetryReport_calm (n : SlotId) {s0 s : State} (hc0 : Calm s0 s) :
    CalmO s0 (execTelemetryReport n s) := by
  unfold execTelemetryReport; try dsimp only
  repeat' (with_reducible first | assumption | intro _ | apply guarded_calm | apply Calm.ite | apply CalmO.ite | apply CalmO.next | split | apply Calm.mk | refine Calm.pair ?_ rfl rfl)

theorem execPrsntNEdge_calm (n : SlotId) (high : Bool) {s0 s : State} (hc0 : Calm s0 s) :
    CalmO s0 (execPrsntNEdge n high s) := by
  unfold execPrsntNEdge; try dsimp only
  repeat' (with_reducible first | assumption | intro _ | apply modSlot_calm | apply guarded_calm | apply Calm.ite | apply CalmO.ite | apply CalmO.next | split | apply Calm.mk | refine Calm.pair ?_ rfl rfl)

theorem execRemoval_calm (n : SlotId) {s0 s : State} (hc0 : Calm s0 s) :
    CalmO s0 (execRemoval n s) := by
  unfold execRemoval; try dsimp only
  repeat' (with_reducible first | assumption | intro _ | apply removalOp_calm | apply guarded_calm | apply Calm.ite | apply CalmO.ite | apply CalmO.next | split | apply Calm.mk | refine Calm.pair ?_ rfl rfl)

theorem execDebounceEnd_calm (n : SlotId) {s0 s : State} (hc0 : Calm s0 s) :
    CalmO s0 (execDebounceEnd n s) := by
  unfold execDebounceEnd; try dsimp only
  repeat' (with_reducible first | assumption | intro _ | apply modSlot_calm | apply powerCheck_calm | apply dieEvent_calm | apply guarded_calm | apply Calm.ite | apply CalmO.ite | apply CalmO.next | split | apply Calm.mk | refine Calm.pair ?_ rfl rfl)

theorem execMinOffExpiry_calm (n : SlotId) {s0 s : State} (hc0 : Calm s0 s) :
    CalmO s0 (execMinOffExpiry n s) := by
  unfold execMinOffExpiry; try dsimp only
  repeat' (with_reducible first | assumption | intro _ | apply powerCheck_calm | apply modSlot_calm | apply guarded_calm | apply Calm.ite | apply CalmO.ite | apply CalmO.next | split | apply Calm.mk | refine Calm.pair ?_ rfl rfl)

theorem execFeedInvalid_calm (n : SlotId) (x : Feed) {s0 s : State} (hc0 : Calm s0 s) :
    CalmO s0 (execFeedInvalid n x s) := by
  unfold execFeedInvalid; try dsimp only
  repeat' (with_reducible first | assumption | intro _ | apply withFeeds_calm | apply guarded_calm | apply Calm.ite | apply CalmO.ite | apply CalmO.next | split | apply Calm.mk | refine Calm.pair ?_ rfl rfl)

theorem execFeedValid_calm (n : SlotId) (x : Feed) {s0 s : State} (hc0 : Calm s0 s) :
    CalmO s0 (execFeedValid n x s) := by
  unfold execFeedValid; try dsimp only
  repeat' (with_reducible first | assumption | intro _ | apply withFeeds_calm | apply guarded_calm | apply Calm.ite | apply CalmO.ite | apply CalmO.next | split | apply Calm.mk | refine Calm.pair ?_ rfl rfl)

theorem execOringReverse_calm (n : SlotId) (x : Feed) {s0 s : State} (hc0 : Calm s0 s) :
    CalmO s0 (execOringReverse n x s) := by
  unfold execOringReverse; try dsimp only
  repeat' (with_reducible first | assumption | intro _ | apply modSlot_calm | apply dieEvent_calm | apply guarded_calm | apply Calm.ite | apply CalmO.ite | apply CalmO.next | split | apply Calm.mk | refine Calm.pair ?_ rfl rfl)

theorem execOringForward_calm (n : SlotId) (x : Feed) {s0 s : State} (hc0 : Calm s0 s) :
    CalmO s0 (execOringForward n x s) := by
  unfold execOringForward; try dsimp only
  repeat' (with_reducible first | assumption | intro _ | apply modSlot_calm | apply guarded_calm | apply Calm.ite | apply CalmO.ite | apply CalmO.next | split | apply Calm.mk | refine Calm.pair ?_ rfl rfl)

theorem execSlotEnSet_calm (n : SlotId) {s0 s : State} (hc0 : Calm s0 s) :
    CalmO s0 (execSlotEnSet n s) := by
  unfold execSlotEnSet; try dsimp only
  repeat' (with_reducible first | assumption | intro _ | apply enSetOp_calm | apply guarded_calm | apply Calm.ite | apply CalmO.ite | apply CalmO.next | split | apply Calm.mk | refine Calm.pair ?_ rfl rfl)

theorem execSlotEnClear_calm (n : SlotId) {s0 s : State} (hc0 : Calm s0 s) :
    CalmO s0 (execSlotEnClear n s) := by
  unfold execSlotEnClear; try dsimp only
  repeat' (with_reducible first | assumption | intro _ | apply enClearOp_calm | apply guarded_calm | apply Calm.ite | apply CalmO.ite | apply CalmO.next | split | apply Calm.mk | refine Calm.pair ?_ rfl rfl)

theorem execCycle_calm (n : SlotId) {s0 s : State} (hc0 : Calm s0 s) :
    CalmO s0 (execCycle n s) := by
  unfold execCycle; try dsimp only
  repeat' (with_reducible first | assumption | intro _ | apply cycleOp_calm | apply guarded_calm | apply Calm.ite | apply CalmO.ite | apply CalmO.next | split | apply Calm.mk | refine Calm.pair ?_ rfl rfl)

theorem execRampEnd_calm (n : SlotId) {s0 s : State} (hc0 : Calm s0 s) :
    CalmO s0 (execRampEnd n s) := by
  unfold execRampEnd; try dsimp only
  repeat' (with_reducible first | assumption | intro _ | apply declareGood_calm | apply modSlot_calm | apply guarded_calm | apply Calm.ite | apply CalmO.ite | apply CalmO.next | split | apply Calm.mk | refine Calm.pair ?_ rfl rfl)

theorem execPowerGood_calm (n : SlotId) {s0 s : State} (hc0 : Calm s0 s) :
    CalmO s0 (execPowerGood n s) := by
  unfold execPowerGood; try dsimp only
  repeat' (with_reducible first | assumption | intro _ | apply declareGood_calm | apply guarded_calm | apply Calm.ite | apply CalmO.ite | apply CalmO.next | split | apply Calm.mk | refine Calm.pair ?_ rfl rfl)

theorem execRampTimeout_calm (n : SlotId) (vout : BitVec 12) (vbus : BitVec 12) {s0 s : State} (hc0 : Calm s0 s) :
    CalmO s0 (execRampTimeout n vout vbus s) := by
  unfold execRampTimeout; try dsimp only
  repeat' (with_reducible first | assumption | intro _ | apply trip_calm | apply guarded_calm | apply Calm.ite | apply CalmO.ite | apply CalmO.next | split | apply Calm.mk | refine Calm.pair ?_ rfl rfl)

theorem execFetGate_calm (n : SlotId) (vout : BitVec 12) (vbus : BitVec 12) {s0 s : State} (hc0 : Calm s0 s) :
    CalmO s0 (execFetGate n vout vbus s) := by
  unfold execFetGate; try dsimp only
  repeat' (with_reducible first | assumption | intro _ | apply trip_calm | apply guarded_calm | apply Calm.ite | apply CalmO.ite | apply CalmO.next | split | apply Calm.mk | refine Calm.pair ?_ rfl rfl)

theorem coreGood_calm (n : ℕ) (on : Bool) {s0 s : State} (hc0 : Calm s0 s) :
    Calm s0 (coreGood n on s) := by
  unfold coreGood; try dsimp only
  repeat' (with_reducible first | assumption | intro _ | apply modPort_calm | apply Calm.ite | apply CalmO.ite | apply CalmO.next | split | apply Calm.mk | refine Calm.pair ?_ rfl rfl)

theorem execPgLost_calm (n : SlotId) {s0 s : State} (hc0 : Calm s0 s) :
    CalmO s0 (execPgLost n s) := by
  unfold execPgLost; try dsimp only
  repeat' (with_reducible first | assumption | intro _ | apply endLastGasp_calm | apply modSlot_calm | apply coreGood_calm | apply guarded_calm | apply Calm.ite | apply CalmO.ite | apply CalmO.next | split | apply Calm.mk | refine Calm.pair ?_ rfl rfl)

theorem execPowerGoodReturn_calm (n : SlotId) {s0 s : State} (hc0 : Calm s0 s) :
    CalmO s0 (execPowerGoodReturn n s) := by
  unfold execPowerGoodReturn; try dsimp only
  repeat' (with_reducible first | assumption | intro _ | apply modSlot_calm | apply coreGood_calm | apply guarded_calm | apply Calm.ite | apply CalmO.ite | apply CalmO.next | split | apply Calm.mk | refine Calm.pair ?_ rfl rfl)

theorem execPgLostTimeout_calm (n : SlotId) (vout : BitVec 12) (vbus : BitVec 12) {s0 s : State} (hc0 : Calm s0 s) :
    CalmO s0 (execPgLostTimeout n vout vbus s) := by
  unfold execPgLostTimeout; try dsimp only
  repeat' (with_reducible first | assumption | intro _ | apply gateOff_calm | apply coreGateOff_calm | apply trip_calm | apply guarded_calm | apply Calm.ite | apply CalmO.ite | apply CalmO.next | split | apply Calm.mk | refine Calm.pair ?_ rfl rfl)

theorem execFaultTimerExpiry_calm (n : SlotId) (vout : BitVec 12) (vbus : BitVec 12) {s0 s : State} (hc0 : Calm s0 s) :
    CalmO s0 (execFaultTimerExpiry n vout vbus s) := by
  unfold execFaultTimerExpiry; try dsimp only
  repeat' (with_reducible first | assumption | intro _ | apply modSlot_calm | apply trip_calm | apply guarded_calm | apply Calm.ite | apply CalmO.ite | apply CalmO.next | split | apply Calm.mk | refine Calm.pair ?_ rfl rfl)

theorem execSevereOc_calm (n : SlotId) (vout : BitVec 12) (vbus : BitVec 12) {s0 s : State} (hc0 : Calm s0 s) :
    CalmO s0 (execSevereOc n vout vbus s) := by
  unfold execSevereOc; try dsimp only
  repeat' (with_reducible first | assumption | intro _ | apply trip_calm | apply guarded_calm | apply Calm.ite | apply CalmO.ite | apply CalmO.next | split | apply Calm.mk | refine Calm.pair ?_ rfl rfl)

theorem execSoaLimit_calm (n : SlotId) (vout : BitVec 12) (vbus : BitVec 12) {s0 s : State} (hc0 : Calm s0 s) :
    CalmO s0 (execSoaLimit n vout vbus s) := by
  unfold execSoaLimit; try dsimp only
  repeat' (with_reducible first | assumption | intro _ | apply trip_calm | apply guarded_calm | apply Calm.ite | apply CalmO.ite | apply CalmO.next | split | apply Calm.mk | refine Calm.pair ?_ rfl rfl)

theorem execOutputPresentCheck_calm (n : SlotId) (vout : BitVec 12) (vbus : BitVec 12) {s0 s : State} (hc0 : Calm s0 s) :
    CalmO s0 (execOutputPresentCheck n vout vbus s) := by
  unfold execOutputPresentCheck; try dsimp only
  repeat' (with_reducible first | assumption | intro _ | apply trip_calm | apply modSlot_calm | apply guarded_calm | apply Calm.ite | apply CalmO.ite | apply CalmO.next | split | apply Calm.mk | refine Calm.pair ?_ rfl rfl)

theorem execPfwAssert_calm (n : SlotId) (_cause : PfwCause) {s0 s : State} (hc0 : Calm s0 s) :
    CalmO s0 (execPfwAssert n _cause s) := by
  unfold execPfwAssert; try dsimp only
  repeat' (with_reducible first | assumption | intro _ | apply dieEvent_calm | apply tellCore_calm | apply modSlot_calm | apply guarded_calm | apply Calm.ite | apply CalmO.ite | apply CalmO.next | split | apply Calm.mk | refine Calm.pair ?_ rfl rfl)

theorem execPfwClear_calm (n : SlotId) {s0 s : State} (hc0 : Calm s0 s) :
    CalmO s0 (execPfwClear n s) := by
  unfold execPfwClear; try dsimp only
  repeat' (with_reducible first | assumption | intro _ | apply endLastGasp_calm | apply dieEvent_calm | apply modSlot_calm | apply guarded_calm | apply Calm.ite | apply CalmO.ite | apply CalmO.next | split | apply Calm.mk | refine Calm.pair ?_ rfl rfl)

theorem execTelemetryConversion_calm (n : SlotId) (va : BitVec 12) (vb : BitVec 12) (vbus : BitVec 12) (vout : BitVec 12) (isense : BitVec 12) {s0 s : State} (hc0 : Calm s0 s) :
    CalmO s0 (execTelemetryConversion n va vb vbus vout isense s) := by
  unfold execTelemetryConversion; try dsimp only
  repeat' (with_reducible first | assumption | intro _ | apply convert_calm | apply guarded_calm | apply Calm.ite | apply CalmO.ite | apply CalmO.next | split | apply Calm.mk | refine Calm.pair ?_ rfl rfl)

theorem execTelPeakRestart_calm (n : SlotId) {s0 s : State} (hc0 : Calm s0 s) :
    CalmO s0 (execTelPeakRestart n s) := by
  unfold execTelPeakRestart; try dsimp only
  repeat' (with_reducible first | assumption | intro _ | apply telRestart_calm | apply guarded_calm | apply Calm.ite | apply CalmO.ite | apply CalmO.next | split | apply Calm.mk | refine Calm.pair ?_ rfl rfl)

theorem execRemovalLatchClear_calm (n : SlotId) {s0 s : State} (hc0 : Calm s0 s) :
    CalmO s0 (execRemovalLatchClear n s) := by
  unfold execRemovalLatchClear; try dsimp only
  repeat' (with_reducible first | assumption | intro _ | apply clearLatch_calm | apply modSlot_calm | apply guarded_calm | apply Calm.ite | apply CalmO.ite | apply CalmO.next | split | apply Calm.mk | refine Calm.pair ?_ rfl rfl)

theorem execVmuleLoss_calm (g : DieId) {s0 s : State} (hc0 : Calm s0 s) :
    CalmO s0 (execVmuleLoss g s) := by
  unfold execVmuleLoss; try dsimp only
  repeat' (with_reducible first | assumption | intro _ | apply modDie_calm | apply modSlot_calm | apply each_calm | apply done_calm | apply Calm.ite | apply CalmO.ite | apply CalmO.next | split | apply Calm.mk | refine Calm.pair ?_ rfl rfl)

theorem execVmuleRise_calm (g : DieId) {s0 s : State} (hc0 : Calm s0 s) :
    CalmO s0 (execVmuleRise g s) := by
  unfold execVmuleRise; try dsimp only
  repeat' (with_reducible first | assumption | intro _ | apply modDie_calm | apply modSlot_calm | apply each_calm | apply done_calm | apply Calm.ite | apply CalmO.ite | apply CalmO.next | split | apply Calm.mk | refine Calm.pair ?_ rfl rfl)

theorem placeRung_calm (r : Rung) (ph e b : Nat) (moved : List Nat) {s0 s : State} (hc0 : Calm s0 s) :
    Calm s0 (placeRung s r ph e b moved).2 := by
  unfold placeRung; exact Calm.mk (freshIndex_calm hc0)

theorem tryAdmit_calm {r : Rung} {s0 s t : State} {n : Nat} (e : tryAdmit s r = .inl (n, t)) (hc0 : Calm s0 s) :
    Calm s0 t := by
  unfold tryAdmit at e
  split at e
  · next ph _ _ _ x y m _ =>
    have k := placeRung_calm r ph x y m hc0
    rw [Sum.inl.inj e] at k; exact k
  · cases e

theorem admitOp_calm (ctx : CmdCtx) (b : AdmitBody) {s0 s : State} (hc0 : Calm s0 s) :
    Calm s0 (admitOp ctx b s) := by
  unfold admitOp; try dsimp only
  repeat' (with_reducible first | assumption | intro _ | apply modFn_calm | apply reply_calm | apply begun_calm | apply Calm.ite | apply CalmO.ite | apply CalmO.next | refine tryAdmit_calm (by assumption) ?_ | split | apply Calm.mk | refine Calm.pair ?_ rfl rfl)

theorem releaseOp_calm (ctx : CmdCtx) (b : AdmitBody) {s0 s : State} (hc0 : Calm s0 s) :
    Calm s0 (releaseOp ctx b s) := by
  unfold releaseOp; try dsimp only
  repeat' (with_reducible first | assumption | intro _ | apply modFn_calm | apply reply_calm | apply begun_calm | apply Calm.ite | apply CalmO.ite | apply CalmO.next | split | apply Calm.mk | refine Calm.pair ?_ rfl rfl)

theorem queryOp_calm (ctx : CmdCtx) {s0 s : State} (hc0 : Calm s0 s) :
    Calm s0 (queryOp ctx s) := by
  unfold queryOp; try dsimp only
  repeat' (with_reducible first | assumption | intro _ | apply reply_calm | apply begun_calm | apply Calm.ite | apply CalmO.ite | apply CalmO.next | split | apply Calm.mk | refine Calm.pair ?_ rfl rfl)

theorem swapBanks_calm {s0 s : State} (hc0 : Calm s0 s) :
    Calm s0 (swapBanks s) := by
  unfold swapBanks; try dsimp only
  repeat' (with_reducible first | assumption | intro _ | apply finish_calm | apply begun_calm | apply assignPages_calm | apply returnPages_calm | apply each_calm | apply Calm.ite | apply CalmO.ite | apply CalmO.next | split | apply Calm.mk | refine Calm.pair ?_ rfl rfl)

theorem dropLeft_calm {s0 s : State} (hc0 : Calm s0 s) :
    Calm s0 (dropLeft s) := by
  unfold dropLeft; try dsimp only
  repeat' (with_reducible first | assumption | intro _ | apply returnPages_calm | apply each_calm | apply Calm.ite | apply CalmO.ite | apply CalmO.next | split | apply Calm.mk | refine Calm.pair ?_ rfl rfl)

theorem swapReply_calm (w : SwapReply) (r : Option Rung) {s0 s : State} (hc0 : Calm s0 s) :
    Calm s0 (swapReply w r s) := by
  unfold swapReply; try dsimp only
  repeat' (with_reducible first | assumption | intro _ | apply reply_calm | apply modFn_calm | apply Calm.ite | apply CalmO.ite | apply CalmO.next | split | apply Calm.mk | refine Calm.pair ?_ rfl rfl)

theorem swapIfPending_calm {s0 s : State} (hc0 : Calm s0 s) :
    Calm s0 (swapIfPending s) := by
  unfold swapIfPending; try dsimp only
  repeat' (with_reducible first | assumption | intro _ | apply swapReply_calm | apply each_calm | apply swapBanks_calm | apply Calm.ite | apply CalmO.ite | apply CalmO.next | split | apply Calm.mk | refine Calm.pair ?_ rfl rfl)

theorem execAdmitCmd_calm (ctx : CmdCtx) (body : AdmitBody) {s0 s : State} (hc0 : Calm s0 s) :
    CalmO s0 (execAdmitCmd ctx body s) := by
  unfold execAdmitCmd; try dsimp only
  repeat' (with_reducible first | assumption | intro _ | apply admitOp_calm | apply guarded_calm | apply Calm.ite | apply CalmO.ite | apply CalmO.next | split | apply Calm.mk | refine Calm.pair ?_ rfl rfl)

theorem execRelease_calm (ctx : CmdCtx) (body : AdmitBody) {s0 s : State} (hc0 : Calm s0 s) :
    CalmO s0 (execRelease ctx body s) := by
  unfold execRelease; try dsimp only
  repeat' (with_reducible first | assumption | intro _ | apply releaseOp_calm | apply guarded_calm | apply Calm.ite | apply CalmO.ite | apply CalmO.next | split | apply Calm.mk | refine Calm.pair ?_ rfl rfl)

theorem execQuery_calm (ctx : CmdCtx) {s0 s : State} (hc0 : Calm s0 s) :
    CalmO s0 (execQuery ctx s) := by
  unfold execQuery; try dsimp only
  repeat' (with_reducible first | assumption | intro _ | apply queryOp_calm | apply guarded_calm | apply Calm.ite | apply CalmO.ite | apply CalmO.next | split | apply Calm.mk | refine Calm.pair ?_ rfl rfl)

theorem execCompileDone_calm {s0 s : State} (hc0 : Calm s0 s) :
    CalmO s0 (execCompileDone s) := by
  unfold execCompileDone; try dsimp only
  repeat' (with_reducible first | assumption | intro _ | apply guarded_calm | apply Calm.ite | apply CalmO.ite | apply CalmO.next | split | apply Calm.mk | refine Calm.pair ?_ rfl rfl)

theorem xbkSend_calm (typ : ℕ) (body : List Byte) {s0 s : State} (hc0 : Calm s0 s) :
    Calm s0 (xbkSend typ body s) := by
  unfold xbkSend; try dsimp only
  repeat' (with_reducible first | assumption | intro _ | apply emit_calm | apply Calm.ite | apply CalmO.ite | apply CalmO.next | split | apply Calm.mk | refine Calm.pair ?_ rfl rfl)

theorem xbkSendOnce_calm (typ : ℕ) (body : List Byte) {s0 s : State} (hc0 : Calm s0 s) :
    Calm s0 (xbkSendOnce typ body s) := by
  unfold xbkSendOnce; try dsimp only
  repeat' (with_reducible first | assumption | intro _ | apply emit_calm | apply Calm.ite | apply CalmO.ite | apply CalmO.next | split | apply Calm.mk | refine Calm.pair ?_ rfl rfl)

theorem releaseEngine_calm (e : ℕ) {s0 s : State} (hc0 : Calm s0 s) :
    Calm s0 (releaseEngine e s) := by
  unfold releaseEngine; try dsimp only
  repeat' (with_reducible first | assumption | intro _ | apply Calm.ite | apply CalmO.ite | apply CalmO.next | split | apply Calm.mk | refine Calm.pair ?_ rfl rfl)

theorem endEngineWork_calm (e : ℕ) (st : Byte) {s0 s : State} (hc0 : Calm s0 s) :
    Calm s0 (endEngineWork e st s) := by
  unfold endEngineWork; try dsimp only
  repeat' (with_reducible first | assumption | intro _ | apply releaseEngine_calm | apply finish_calm | apply each_calm | apply Calm.ite | apply CalmO.ite | apply CalmO.next | split | apply Calm.mk | refine Calm.pair ?_ rfl rfl)

theorem modErr_calm (c : ℕ) (g : ErrClass → ErrClass) {s0 s : State} (hc0 : Calm s0 s) :
    Calm s0 (modErr c g s) := by
  unfold modErr; try dsimp only
  repeat' (with_reducible first | assumption | intro _ | apply Calm.ite | apply CalmO.ite | apply CalmO.next | split | apply Calm.mk | refine Calm.pair ?_ rfl rfl)

theorem rollWindow_calm (c : ℕ) {s0 s : State} (hc0 : Calm s0 s) :
    Calm s0 (rollWindow c s) := by
  unfold rollWindow; try dsimp only
  repeat' (with_reducible first | assumption | intro _ | apply modErr_calm | apply Calm.ite | apply CalmO.ite | apply CalmO.next | split | apply Calm.mk | refine Calm.pair ?_ rfl rfl)

theorem quietPorts_calm {s0 s : State} (hc0 : Calm s0 s) :
    Calm s0 (quietPorts s) := by
  unfold quietPorts; try dsimp only
  repeat' (with_reducible first | assumption | intro _ | apply emit_calm | apply each_calm | apply Calm.ite | apply CalmO.ite | apply CalmO.next | split | apply Calm.mk | refine Calm.pair ?_ rfl rfl)

theorem stopLanes_calm {s0 s : State} (hc0 : Calm s0 s) :
    Calm s0 (stopLanes s) := by
  unfold stopLanes; try dsimp only
  repeat' (with_reducible first | assumption | intro _ | apply quietPorts_calm | apply clearLane_calm | apply each_calm | apply Calm.ite | apply CalmO.ite | apply CalmO.next | split | apply Calm.mk | refine Calm.pair ?_ rfl rfl)

theorem fatalError_calm (cause : ℕ) {s0 s : State} (hc0 : Calm s0 s) :
    Calm s0 (fatalError cause s) := by
  unfold fatalError; try dsimp only
  repeat' (with_reducible first | assumption | intro _ | apply xbkSendOnce_calm | apply emit_calm | apply stopLanes_calm | apply Calm.ite | apply CalmO.ite | apply CalmO.next | split | apply Calm.mk | refine Calm.pair ?_ rfl rfl)

theorem sendHandover_calm (cause : ℕ) {s0 s : State} (hc0 : Calm s0 s) :
    Calm s0 (sendHandover cause s) := by
  unfold sendHandover; try dsimp only
  repeat' (with_reducible first | assumption | intro _ | apply xbkSend_calm | apply stopLanes_calm | apply Calm.ite | apply CalmO.ite | apply CalmO.next | split | apply Calm.mk | refine Calm.pair ?_ rfl rfl)

theorem enterYielded_calm {s0 s : State} (hc0 : Calm s0 s) (hy : Agrees s → s.straps.pairEn = true) :
    Calm s0 (enterYielded s) := by
  have h1 : Calm s (stopLanes (each (List.range 4) (fun g s => if homeOf s g then handOver g s else s) s)) :=
    stopLanes_calm (each_calm _ _ (fun x t h => Calm.ite (handOver_calm _ h) h) (Calm.refl s))
  refine hc0.trans ?_
  unfold enterYielded; dsimp only
  apply emit_calm
  exact Calm.pairSt (xbkSend_calm _ _ h1) (by simp) hy rfl

theorem recompile_calm (e : ℕ) {s0 s : State} (hc0 : Calm s0 s) :
    Calm s0 (recompile e s) := by
  unfold recompile; try dsimp only
  repeat' (with_reducible first | assumption | intro _ | apply Calm.ite | apply CalmO.ite | apply CalmO.next | split | apply Calm.mk | refine Calm.pair ?_ rfl rfl)

theorem retireEngine_calm (e : ℕ) {s0 s : State} (hc0 : Calm s0 s) :
    Calm s0 (retireEngine e s) := by
  unfold retireEngine; try dsimp only
  repeat' (with_reducible first | assumption | intro _ | apply modEng_calm | apply endEngineWork_calm | apply Calm.ite | apply CalmO.ite | apply CalmO.next | split | apply Calm.mk | refine Calm.pair ?_ rfl rfl)

theorem engineLasting_calm (e : Nat) {s0 s : State} (hc0 : Calm s0 s) : Calm s0 (engineLasting e s) := by
  refine hc0.trans ?_
  unfold engineLasting
  have h := retireEngine_calm e (Calm.refl s)
  split
  · exact recompile_calm _ (Calm.mk h)
  · dsimp only
    split
    · exact sendHandover_calm _ h
    · next hs => exact enterYielded_calm h (pairEn_of (by rw [hs]; simp))
    · exact fatalError_calm _ h

theorem disablePort_calm (p : ℕ) {s0 s : State} (hc0 : Calm s0 s) :
    Calm s0 (disablePort p s) := by
  unfold disablePort; try dsimp only
  repeat' (with_reducible first | assumption | intro _ | apply portGone_calm | apply modPort_calm | apply Calm.ite | apply CalmO.ite | apply CalmO.next | split | apply Calm.mk | refine Calm.pair ?_ rfl rfl)

theorem portLasting_calm (p : ℕ) {s0 s : State} (hc0 : Calm s0 s) :
    Calm s0 (portLasting p s) := by
  unfold portLasting; try dsimp only
  repeat' (with_reducible first | assumption | intro _ | apply raise_calm | apply disablePort_calm | apply Calm.ite | apply CalmO.ite | apply CalmO.next | split | apply Calm.mk | refine Calm.pair ?_ rfl rfl)

theorem muleLasting_calm (g : ℕ) {s0 s : State} (hc0 : Calm s0 s) :
    Calm s0 (muleLasting g s) := by
  unfold muleLasting; try dsimp only
  repeat' (with_reducible first | assumption | intro _ | apply raise_calm | apply portGone_calm | apply each_calm | apply Calm.ite | apply CalmO.ite | apply CalmO.next | split | apply Calm.mk | refine Calm.pair ?_ rfl rfl)

theorem linkDown_calm {s0 s : State} (hc0 : Calm s0 s) : Calm s0 (linkDown s) := by
  refine hc0.trans ?_
  unfold linkDown; dsimp only
  have h := Calm.refl s
  split
  · next hs => exact raise_calm _ _ (Calm.pairSt h (by simp) (pairEn_of (by rw [hs]; simp)) rfl)
  · next hs => exact raise_calm _ _ (Calm.pairSt h (by simp) (pairEn_of (by rw [hs]; simp)) rfl)
  · next hs => exact raise_calm _ _ (Calm.pairSt h (by simp) (pairEn_of (by rw [hs]; simp)) rfl)
  · exact Calm.pair h rfl rfl

theorem linkLasting_calm {s0 s : State} (hc0 : Calm s0 s) :
    Calm s0 (linkLasting s) := by
  unfold linkLasting; try dsimp only
  repeat' (with_reducible first | assumption | intro _ | apply sendHandover_calm | apply linkDown_calm | apply Calm.ite | apply CalmO.ite | apply CalmO.next | split | apply Calm.mk | refine Calm.pair ?_ rfl rfl)

theorem lastingAction_calm (c : ℕ) (inst : ℕ) {s0 s : State} (hc0 : Calm s0 s) :
    Calm s0 (lastingAction c inst s) := by
  unfold lastingAction; try dsimp only
  repeat' (with_reducible first | assumption | intro _ | apply linkLasting_calm | apply fatalError_calm | apply muleLasting_calm | apply portLasting_calm | apply engineLasting_calm | apply retirePage_calm | apply Calm.ite | apply CalmO.ite | apply CalmO.next | split | apply Calm.mk | refine Calm.pair ?_ rfl rfl)

theorem countError_calm (c : ℕ) (inst : ℕ) (kind : ℕ) {s0 s : State} (hc0 : Calm s0 s) :
    Calm s0 (countError c inst kind s) := by
  unfold countError; try dsimp only
  repeat' (with_reducible first | assumption | intro _ | apply raise_calm | apply lastingAction_calm | apply modErr_calm | apply rollWindow_calm | apply Calm.ite | apply CalmO.ite | apply CalmO.next | split | apply Calm.mk | refine Calm.pair ?_ rfl rfl)

theorem engineReset_calm (e : ℕ) {s0 s : State} (hc0 : Calm s0 s) :
    Calm s0 (engineReset e s) := by
  unfold engineReset; try dsimp only
  repeat' (with_reducible first | assumption | intro _ | apply modEng_calm | apply raise_calm | apply endEngineWork_calm | apply Calm.ite | apply CalmO.ite | apply CalmO.next | split | apply Calm.mk | refine Calm.pair ?_ rfl rfl)

theorem engineFault_calm (e : ℕ) {s0 s : State} (hc0 : Calm s0 s) :
    Calm s0 (engineFault e s) := by
  unfold engineFault; try dsimp only
  repeat' (with_reducible first | assumption | intro _ | apply countError_calm | apply engineReset_calm | apply Calm.ite | apply CalmO.ite | apply CalmO.next | split | apply Calm.mk | refine Calm.pair ?_ rfl rfl)

theorem skipService_calm (r : ℕ) {s0 s : State} (hc0 : Calm s0 s) :
    Calm s0 (skipService r s) := by
  unfold skipService; try dsimp only
  repeat' (with_reducible first | assumption | intro _ | apply finish_calm | apply Calm.ite | apply CalmO.ite | apply CalmO.next | split | apply Calm.mk | refine Calm.pair ?_ rfl rfl)

theorem uncorrectableEffect_calm (site : ErrSite) {s0 s : State} (hc0 : Calm s0 s) :
    Calm s0 (uncorrectableEffect site s) := by
  cases site
  case bufferPage p => exact raise_calm _ _ (endStagedIn_calm _ hc0)
  case engineMem e => exact engineReset_calm _ hc0
  case engineFault e => exact engineReset_calm _ hc0
  case bellwetherSram => exact fatalError_calm _ hc0
  case tableBank r => exact skipService_calm _ hc0
  case periodicTable r => exact skipService_calm _ hc0
  case portLane p =>
    show Calm s0 (match (port s p.val).txn with
      | some t => match workItem s t.work with
        | some i => lostEnd i (modPort p.val (fun x => { x with txn := none }) s)
        | none => s
      | none => s)
    repeat' (with_reducible first | assumption | apply lostEnd_calm | apply modPort_calm | split)
  case descriptorCache i =>
    show Calm s0 (match item? s i with
      | some x => if hasBegun x then finish i stXactErr s else invalidate x.func x.sq x.seen s
      | none => s)
    repeat' (with_reducible first | assumption | apply finish_calm | apply invalidate_calm | split)
  case contextCache n ep =>
    show Calm s0 (match headItem s n.val ep with | some i => finish i stXactErr s | none => s)
    repeat' (with_reducible first | assumption | apply finish_calm | split)
  case dispatcherEntry i =>
    show Calm s0 (match item? s i with
      | some x => match x.flow with
        | some f => match headItem s (field f.handle 0 12) f.epaddr with | some h => finish h stXactErr s | none => s
        | none => s
      | none => s)
    repeat' (with_reducible first | assumption | apply finish_calm | split)
  case dataPathPcie i =>
    show Calm s0 (match item? s i with | some x => if x.status.isNone then lostEnd i s else s | none => s)
    repeat' (with_reducible first | assumption | apply lostEnd_calm | split)
  all_goals exact hc0

theorem detect_calm (err : ErrReport) {s0 s : State} (hc0 : Calm s0 s) :
    Calm s0 (detect err s) := by
  unfold detect; try dsimp only
  repeat' (with_reducible first | assumption | intro _ | apply uncorrectableEffect_calm | apply countError_calm | apply Calm.ite | apply CalmO.ite | apply CalmO.next | split | apply Calm.mk | refine Calm.pair ?_ rfl rfl)

theorem clearCounts_calm (c : ℕ) {s0 s : State} (hc0 : Calm s0 s) :
    Calm s0 (clearCounts c s) := by
  unfold clearCounts; try dsimp only
  repeat' (with_reducible first | assumption | intro _ | apply modErr_calm | apply Calm.ite | apply CalmO.ite | apply CalmO.next | split | apply Calm.mk | refine Calm.pair ?_ rfl rfl)

theorem execErrorDetected_calm (err : ErrReport) {s0 s : State} (hc0 : Calm s0 s) :
    CalmO s0 (execErrorDetected err s) := by
  unfold execErrorDetected; try dsimp only
  repeat' (with_reducible first | assumption | intro _ | apply detect_calm | apply guarded_calm | apply Calm.ite | apply CalmO.ite | apply CalmO.next | split | apply Calm.mk | refine Calm.pair ?_ rfl rfl)

theorem execEngineRejoin_calm (e : EngId) {s0 s : State} (hc0 : Calm s0 s) :
    CalmO s0 (execEngineRejoin e s) := by
  unfold execEngineRejoin; try dsimp only
  repeat' (with_reducible first | assumption | intro _ | apply modEng_calm | apply guarded_calm | apply Calm.ite | apply CalmO.ite | apply CalmO.next | split | apply Calm.mk | refine Calm.pair ?_ rfl rfl)

theorem execErrorWindowStart_calm (c : Fin 7) {s0 s : State} (hc0 : Calm s0 s) :
    CalmO s0 (execErrorWindowStart c s) := by
  unfold execErrorWindowStart; try dsimp only
  repeat' (with_reducible first | assumption | intro _ | apply rollWindow_calm | apply guarded_calm | apply Calm.ite | apply CalmO.ite | apply CalmO.next | split | apply Calm.mk | refine Calm.pair ?_ rfl rfl)

theorem errCfgWrite_calm (c : ℕ) (v : U32) {s0 s : State} (hc0 : Calm s0 s) :
    Calm s0 (errCfgWrite c v s) := by
  unfold errCfgWrite; try dsimp only
  repeat' (with_reducible first | assumption | intro _ | apply modErr_calm | apply clearCounts_calm | apply Calm.ite | apply CalmO.ite | apply CalmO.next | split | apply Calm.mk | refine Calm.pair ?_ rfl rfl)

theorem execErrCfgWrite_calm (c : Fin 7) (value : U32) {s0 s : State} (hc0 : Calm s0 s) :
    CalmO s0 (execErrCfgWrite c value s) := by
  unfold execErrCfgWrite; try dsimp only
  repeat' (with_reducible first | assumption | intro _ | apply errCfgWrite_calm | apply guarded_calm | apply Calm.ite | apply CalmO.ite | apply CalmO.next | split | apply Calm.mk | refine Calm.pair ?_ rfl rfl)

theorem portFailedClear_calm (mask : U64) {s0 s : State} (hc0 : Calm s0 s) :
    Calm s0 (portFailedClear mask s) := by
  unfold portFailedClear; try dsimp only
  repeat' (with_reducible first | assumption | intro _ | apply modErr_calm | apply Calm.ite | apply CalmO.ite | apply CalmO.next | split | apply Calm.mk | refine Calm.pair ?_ rfl rfl)

theorem execErrPortFailedClear_calm (mask : U64) {s0 s : State} (hc0 : Calm s0 s) :
    CalmO s0 (execErrPortFailedClear mask s) := by
  unfold execErrPortFailedClear; try dsimp only
  repeat' (with_reducible first | assumption | intro _ | apply portFailedClear_calm | apply guarded_calm | apply Calm.ite | apply CalmO.ite | apply CalmO.next | split | apply Calm.mk | refine Calm.pair ?_ rfl rfl)

theorem execConfigRestored_calm (c : Fin 7) (inst : BitVec 12) {s0 s : State} (hc0 : Calm s0 s) :
    CalmO s0 (execConfigRestored c inst s) := by
  unfold execConfigRestored; try dsimp only
  repeat' (with_reducible first | assumption | intro _ | apply raise_calm | apply guarded_calm | apply Calm.ite | apply CalmO.ite | apply CalmO.next | split | apply Calm.mk | refine Calm.pair ?_ rfl rfl)

theorem execCoreWatchdogExpiry_calm (core : Fin 2) {s0 s : State} (hc0 : Calm s0 s) :
    CalmO s0 (execCoreWatchdogExpiry core s) := by
  unfold execCoreWatchdogExpiry; try dsimp only
  repeat' (with_reducible first | assumption | intro _ | apply fatalError_calm | apply guarded_calm | apply Calm.ite | apply CalmO.ite | apply CalmO.next | split | apply Calm.mk | refine Calm.pair ?_ rfl rfl)

theorem debounceRoot_calm (p : ℕ) {s0 s : State} (hc0 : Calm s0 s) :
    Calm s0 (debounceRoot p s) := by
  unfold debounceRoot; try dsimp only
  repeat' (with_reducible first | assumption | intro _ | apply modPort_calm | apply Calm.ite | apply CalmO.ite | apply CalmO.next | split | apply Calm.mk | refine Calm.pair ?_ rfl rfl)

theorem debounceHub_calm (h : ℕ) (q : ℕ) {s0 s : State} (hc0 : Calm s0 s) :
    Calm s0 (debounceHub h q s) := by
  unfold debounceHub; try dsimp only
  repeat' (with_reducible first | assumption | intro _ | apply modHubPort_calm | apply Calm.ite | apply CalmO.ite | apply CalmO.next | split | apply Calm.mk | refine Calm.pair ?_ rfl rfl)

theorem disconnect_calm (at_ : Loc) {s0 s : State} (hc0 : Calm s0 s) :
    Calm s0 (disconnect at_ s) := by
  unfold disconnect; try dsimp only
  repeat' (with_reducible first | assumption | intro _ | apply locGone_calm | apply Calm.ite | apply CalmO.ite | apply CalmO.next | split | apply Calm.mk | refine Calm.pair ?_ rfl rfl)

theorem rootConnect_calm (p : PortId) (present : Bool) {s0 s : State} (hc0 : Calm s0 s) :
    Calm s0 (rootConnect p present s) := by
  unfold rootConnect; try dsimp only
  repeat' (with_reducible first | assumption | intro _ | apply debounceRoot_calm | apply disconnect_calm | apply modPort_calm | apply Calm.ite | apply CalmO.ite | apply CalmO.next | split | apply Calm.mk | refine Calm.pair ?_ rfl rfl)

theorem hubConnect_calm (h : Fin 4096) (q : Fin 16) (present : Bool) {s0 s : State} (hc0 : Calm s0 s) :
    Calm s0 (hubConnect h q present s) := by
  unfold hubConnect; try dsimp only
  repeat' (with_reducible first | assumption | intro _ | apply debounceHub_calm | apply modHubPort_calm | apply disconnect_calm | apply Calm.ite | apply CalmO.ite | apply CalmO.next | split | apply Calm.mk | refine Calm.pair ?_ rfl rfl)

theorem execConnectChange_calm (at_ : Loc) (present : Bool) {s0 s : State} (hc0 : Calm s0 s) :
    CalmO s0 (execConnectChange at_ present s) := by
  unfold execConnectChange; try dsimp only
  repeat' (with_reducible first | assumption | intro _ | apply hubConnect_calm | apply rootConnect_calm | apply guarded_calm | apply Calm.ite | apply CalmO.ite | apply CalmO.next | split | apply Calm.mk | refine Calm.pair ?_ rfl rfl)

theorem execMuleRemovalEvent_calm (n : SlotId) {s0 s : State} (hc0 : Calm s0 s) :
    CalmO s0 (execMuleRemovalEvent n s) := by
  unfold execMuleRemovalEvent; try dsimp only
  repeat' (with_reducible first | assumption | intro _ | apply slotTreeGone_calm | apply guarded_calm | apply Calm.ite | apply CalmO.ite | apply CalmO.next | split | apply Calm.mk | refine Calm.pair ?_ rfl rfl)

theorem execMuleTripEvent_calm (n : SlotId) {s0 s : State} (hc0 : Calm s0 s) :
    CalmO s0 (execMuleTripEvent n s) := by
  unfold execMuleTripEvent; try dsimp only
  repeat' (with_reducible first | assumption | intro _ | apply slotTreeGone_calm | apply guarded_calm | apply Calm.ite | apply CalmO.ite | apply CalmO.next | split | apply Calm.mk | refine Calm.pair ?_ rfl rfl)

theorem execMulePfwEvent_calm (n : SlotId) {s0 s : State} (hc0 : Calm s0 s) :
    CalmO s0 (execMulePfwEvent n s) := by
  unfold execMulePfwEvent; try dsimp only
  repeat' (with_reducible first | assumption | intro _ | apply modPort_calm | apply raiseSlot_calm | apply guarded_calm | apply Calm.ite | apply CalmO.ite | apply CalmO.next | split | apply Calm.mk | refine Calm.pair ?_ rfl rfl)

theorem slotPowerGood_calm (n : ℕ) {s0 s : State} (hc0 : Calm s0 s) :
    Calm s0 (slotPowerGood n s) := by
  unfold slotPowerGood; try dsimp only
  repeat' (with_reducible first | assumption | intro _ | apply debounceHub_calm | apply each_calm | apply modPort_calm | apply debounceRoot_calm | apply Calm.ite | apply CalmO.ite | apply CalmO.next | split | apply Calm.mk | refine Calm.pair ?_ rfl rfl)

theorem execMulePowerGoodEvent_calm (n : SlotId) {s0 s : State} (hc0 : Calm s0 s) :
    CalmO s0 (execMulePowerGoodEvent n s) := by
  unfold execMulePowerGoodEvent; try dsimp only
  repeat' (with_reducible first | assumption | intro _ | apply slotPowerGood_calm | apply guarded_calm | apply Calm.ite | apply CalmO.ite | apply CalmO.next | split | apply Calm.mk | refine Calm.pair ?_ rfl rfl)

theorem legacyReset_calm (p : ℕ) {s0 s : State} (hc0 : Calm s0 s) :
    Calm s0 (legacyReset p s) := by
  unfold legacyReset; try dsimp only
  repeat' (with_reducible first | assumption | intro _ | apply modPort_calm | apply beginRootReset_calm | apply Calm.ite | apply CalmO.ite | apply CalmO.next | split | apply Calm.mk | refine Calm.pair ?_ rfl rfl)

theorem attachRoot_calm (p : ℕ) {s0 s : State} (hc0 : Calm s0 s) :
    Calm s0 (attachRoot p s) := by
  unfold attachRoot; try dsimp only
  repeat' (with_reducible first | assumption | intro _ | apply detect_calm | apply emit_calm | apply beginRootReset_calm | apply modPort_calm | apply Calm.ite | apply CalmO.ite | apply CalmO.next | split | apply Calm.mk | refine Calm.pair ?_ rfl rfl)

theorem execAttachDebounceEnd_calm (at_ : Loc) {s0 s : State} (hc0 : Calm s0 s) :
    CalmO s0 (execAttachDebounceEnd at_ s) := by
  unfold execAttachDebounceEnd; try dsimp only
  repeat' (with_reducible first | assumption | intro _ | apply queueHub_calm | apply modHubPort_calm | apply hubRequest_calm | apply attachRoot_calm | apply modPort_calm | apply guarded_calm | apply Calm.ite | apply CalmO.ite | apply CalmO.next | split | apply Calm.mk | refine Calm.pair ?_ rfl rfl)

theorem releaseHeld_calm {s0 s : State} (hc0 : Calm s0 s) :
    Calm s0 (releaseHeld s) := by
  unfold releaseHeld; try dsimp only
  repeat' (with_reducible first | assumption | intro _ | apply beginDue_calm | apply attachRoot_calm | apply each_calm | apply Calm.ite | apply CalmO.ite | apply CalmO.next | split | apply Calm.mk | refine Calm.pair ?_ rfl rfl)

theorem openCtx_calm (num : ℕ) (d : Device) (ep : ℕ) (dirIn : Bool) (c : Ctx) {s0 s : State} (hc0 : Calm s0 s) :
    Calm s0 (openCtx num d ep dirIn c s) := by
  unfold openCtx; try dsimp only
  repeat' (with_reducible first | assumption | intro _ | apply setCtx_calm | apply freshIndex_calm | apply Calm.ite | apply CalmO.ite | apply CalmO.next | split | apply Calm.mk | refine Calm.pair ?_ rfl rfl)

theorem openZero_calm (num : ℕ) (d : Device) {s0 s : State} (hc0 : Calm s0 s) :
    Calm s0 (openZero num d s) := by
  unfold openZero; try dsimp only
  repeat' (with_reducible first | assumption | intro _ | apply openCtx_calm | apply Calm.ite | apply CalmO.ite | apply CalmO.next | split | apply Calm.mk | refine Calm.pair ?_ rfl rfl)

theorem openEp_calm (num : ℕ) (d : Device) (e : List Byte) {s0 s : State} (hc0 : Calm s0 s) :
    Calm s0 (openEp num d e s) := by
  unfold openEp; try dsimp only
  repeat' (with_reducible first | assumption | intro _ | apply openCtx_calm | apply Calm.ite | apply CalmO.ite | apply CalmO.next | split | apply Calm.mk | refine Calm.pair ?_ rfl rfl)

theorem openAll_calm (num : ℕ) {s0 s : State} (hc0 : Calm s0 s) :
    Calm s0 (openAll num s) := by
  unfold openAll; try dsimp only
  repeat' (with_reducible first | assumption | intro _ | apply Calm.ite | apply CalmO.ite | apply CalmO.next | split | apply Calm.mk | refine Calm.pair ?_ rfl rfl)

theorem addRefused_calm (l : Loc) {s0 s : State} (hc0 : Calm s0 s) :
    Calm s0 (addRefused l s) := by
  unfold addRefused; try dsimp only
  repeat' (with_reducible first | assumption | intro _ | apply Calm.ite | apply CalmO.ite | apply CalmO.next | split | apply Calm.mk | refine Calm.pair ?_ rfl rfl)

theorem shutPort_calm (at_ : Loc) (a : Attach) (held : Bool) {s0 s : State} (hc0 : Calm s0 s) :
    Calm s0 (shutPort at_ a held s) := by
  unfold shutPort; try dsimp only
  repeat' (with_reducible first | assumption | intro _ | apply modHubPort_calm | apply clearFeature_calm | apply clearLane_calm | apply unhold_calm | apply modPort_calm | apply emit_calm | apply Calm.ite | apply CalmO.ite | apply CalmO.next | split | apply Calm.mk | refine Calm.pair ?_ rfl rfl)

theorem freedBy_calm (at_ : Loc) {s0 s : State} (hc0 : Calm s0 s) :
    Calm s0 (freedBy at_ s) := by
  unfold freedBy; try dsimp only
  repeat' (with_reducible first | assumption | intro _ | apply retryRefused_calm | apply Calm.ite | apply CalmO.ite | apply CalmO.next | split | apply Calm.mk | refine Calm.pair ?_ rfl rfl)

theorem dropEnum_calm (p : ℕ) {s0 s : State} (hc0 : Calm s0 s) :
    Calm s0 (dropEnum p s) := by
  unfold dropEnum; try dsimp only
  repeat' (with_reducible first | assumption | intro _ | apply closeCtxs_calm | apply untakeHandle_calm | apply freedBy_calm | apply dropRequests_calm | apply modPort_calm | apply Calm.ite | apply CalmO.ite | apply CalmO.next | split | apply Calm.mk | refine Calm.pair ?_ rfl rfl)

theorem refuseAt_calm (at_ : Loc) (ev : State → State) {s0 s : State} (hev : ∀ v0, Calm s0 v0 → Calm s0 (ev v0)) (hc0 : Calm s0 s) :
    Calm s0 (refuseAt at_ ev s) := by
  unfold refuseAt; try dsimp only
  repeat' (with_reducible first | assumption | intro _ | apply hev | apply dropEnum_calm | apply shutPort_calm | apply addRefused_calm | apply startNext_calm | apply Calm.ite | apply CalmO.ite | apply CalmO.next | split | apply Calm.mk | refine Calm.pair ?_ rfl rfl)

theorem contextsExhausted_calm (p : ℕ) {s0 s : State} (hc0 : Calm s0 s) :
    Calm s0 (contextsExhausted p s) := by
  unfold contextsExhausted; try dsimp only
  repeat' (with_reducible first | assumption | intro _ | apply addReport_calm | apply raisePort_calm | apply Calm.ite | apply CalmO.ite | apply CalmO.next | split | apply Calm.mk | refine Calm.pair ?_ rfl rfl)

theorem setTries_calm (at_ : Loc) (n : ℕ) {s0 s : State} (hc0 : Calm s0 s) :
    Calm s0 (setTries at_ n s) := by
  unfold setTries; try dsimp only
  repeat' (with_reducible first | assumption | intro _ | apply modHubPort_calm | apply modPort_calm | apply Calm.ite | apply CalmO.ite | apply CalmO.next | split | apply Calm.mk | refine Calm.pair ?_ rfl rfl)

theorem enumFail_calm (at_ : Loc) {s0 s : State} (hc0 : Calm s0 s) :
    Calm s0 (enumFail at_ s) := by
  unfold enumFail; try dsimp only
  repeat' (with_reducible first | assumption | intro _ | apply shutPort_calm | apply portEvent_calm | apply startNext_calm | apply clearTt_calm | apply tearDown_calm | apply abandonCmds_calm | apply modHubPort_calm | apply queueHub_calm | apply startRootReset_calm | apply dropEnum_calm | apply setTries_calm | apply Calm.ite | apply CalmO.ite | apply CalmO.next | split | apply Calm.mk | refine Calm.pair ?_ rfl rfl)

theorem resetDone_calm (at_ : Loc) {s0 s : State} (hc0 : Calm s0 s) :
    Calm s0 (resetDone at_ s) := by
  unfold resetDone; try dsimp only
  repeat' (with_reducible first | assumption | intro _ | apply addRecord_calm | apply modHubPort_calm | apply modPort_calm | apply Calm.ite | apply CalmO.ite | apply CalmO.next | split | apply Calm.mk | refine Calm.pair ?_ rfl rfl)

theorem signalled_calm (at_ : Loc) {s0 s : State} (hc0 : Calm s0 s) :
    Calm s0 (signalled at_ s) := by
  unfold signalled; try dsimp only
  repeat' (with_reducible first | assumption | intro _ | apply deviceDefault_calm | apply Calm.ite | apply CalmO.ite | apply CalmO.next | split | apply Calm.mk | refine Calm.pair ?_ rfl rfl)

theorem enterRecovery_calm (at_ : Loc) (g : Gen) {s0 s : State} (hc0 : Calm s0 s) :
    Calm s0 (enterRecovery at_ g s) := by
  unfold enterRecovery; try dsimp only
  repeat' (with_reducible first | assumption | intro _ | apply resetDone_calm | apply modHubPort_calm | apply modPort_calm | apply unparkAborts_calm | apply Calm.ite | apply CalmO.ite | apply CalmO.next | split | apply Calm.mk | refine Calm.pair ?_ rfl rfl)

theorem execResetSignallingEnd_calm (at_ : Loc) {s0 s : State} (hc0 : Calm s0 s) :
    CalmO s0 (execResetSignallingEnd at_ s) := by
  unfold execResetSignallingEnd; try dsimp only
  repeat' (with_reducible first | assumption | intro _ | apply hubRequest_calm | apply detect_calm | apply modPort_calm | apply emit_calm | apply signalled_calm | apply guarded_calm | apply Calm.ite | apply CalmO.ite | apply CalmO.next | split | apply Calm.mk | refine Calm.pair ?_ rfl rfl)

theorem execAnnounceWindowEnd_calm (p : PortId) (announced : Option Gen) {s0 s : State} (hc0 : Calm s0 s) :
    CalmO s0 (execAnnounceWindowEnd p announced s) := by
  unfold execAnnounceWindowEnd; try dsimp only
  repeat' (with_reducible first | assumption | intro _ | apply emit_calm | apply enterRecovery_calm | apply enumFail_calm | apply modPort_calm | apply unparkAborts_calm | apply resetDone_calm | apply guarded_calm | apply Calm.ite | apply CalmO.ite | apply CalmO.next | split | apply Calm.mk | refine Calm.pair ?_ rfl rfl)

theorem execGenConfirmEnd_calm (p : PortId) {s0 s : State} (hc0 : Calm s0 s) :
    CalmO s0 (execGenConfirmEnd p s) := by
  unfold execGenConfirmEnd; try dsimp only
  repeat' (with_reducible first | assumption | intro _ | apply enterRecovery_calm | apply guarded_calm | apply Calm.ite | apply CalmO.ite | apply CalmO.next | split | apply Calm.mk | refine Calm.pair ?_ rfl rfl)

theorem trainingFailed_calm (p : ℕ) {s0 s : State} (hc0 : Calm s0 s) :
    Calm s0 (trainingFailed p s) := by
  unfold trainingFailed; try dsimp only
  repeat' (with_reducible first | assumption | intro _ | apply portEvent_calm | apply portGone_calm | apply legacyReset_calm | apply emit_calm | apply detect_calm | apply modPort_calm | apply Calm.ite | apply CalmO.ite | apply CalmO.next | split | apply Calm.mk | refine Calm.pair ?_ rfl rfl)

theorem execDetectWindowEnd_calm (p : PortId) {s0 s : State} (hc0 : Calm s0 s) :
    CalmO s0 (execDetectWindowEnd p s) := by
  unfold execDetectWindowEnd; try dsimp only
  repeat' (with_reducible first | assumption | intro _ | apply legacyReset_calm | apply modPort_calm | apply emit_calm | apply detect_calm | apply guarded_calm | apply Calm.ite | apply CalmO.ite | apply CalmO.next | split | apply Calm.mk | refine Calm.pair ?_ rfl rfl)

theorem execTrainingTimeout_calm (p : PortId) {s0 s : State} (hc0 : Calm s0 s) :
    CalmO s0 (execTrainingTimeout p s) := by
  unfold execTrainingTimeout; try dsimp only
  repeat' (with_reducible first | assumption | intro _ | apply trainingFailed_calm | apply detect_calm | apply guarded_calm | apply Calm.ite | apply CalmO.ite | apply CalmO.next | split | apply Calm.mk | refine Calm.pair ?_ rfl rfl)

theorem addressAs_calm (num : ℕ) (a : ℕ) {s0 s : State} (hc0 : Calm s0 s) :
    Calm s0 (addressAs num a s) := by
  unfold addressAs; try dsimp only
  repeat' (with_reducible first | assumption | intro _ | apply modCtxs_calm | apply Calm.ite | apply CalmO.ite | apply CalmO.next | split | apply Calm.mk | refine Calm.pair ?_ rfl rfl)

theorem enumStep_calm (p : ℕ) (e : Enum) (st : EnumStep) {s0 s : State} (hc0 : Calm s0 s) :
    Calm s0 (enumStep p e st s) := by
  unfold enumStep; try dsimp only
  repeat' (with_reducible first | assumption | intro _ | apply addressAs_calm | apply request_calm | apply modPort_calm | apply Calm.ite | apply CalmO.ite | apply CalmO.next | split | apply Calm.mk | refine Calm.pair ?_ rfl rfl)

theorem startEnum_calm (at_ : Loc) {s0 s : State} (hc0 : Calm s0 s) :
    Calm s0 (startEnum at_ s) := by
  unfold startEnum; try dsimp only
  repeat' (with_reducible first | assumption | intro _ | apply openZero_calm | apply modHandle_calm | apply contextsExhausted_calm | apply portEvent_calm | apply refuseAt_calm | apply enumStep_calm | apply Calm.ite | apply CalmO.ite | apply CalmO.next | refine takeHandle_calm (by assumption) ?_ | split | apply Calm.mk | refine Calm.pair ?_ rfl rfl)

theorem execResetRecoveryEnd_calm (at_ : Loc) {s0 s : State} (hc0 : Calm s0 s) :
    CalmO s0 (execResetRecoveryEnd at_ s) := by
  unfold execResetRecoveryEnd; try dsimp only
  repeat' (with_reducible first | assumption | intro _ | apply startEnum_calm | apply guarded_calm | apply Calm.ite | apply CalmO.ite | apply CalmO.next | split | apply Calm.mk | refine Calm.pair ?_ rfl rfl)

theorem execEnumAddressWaitEnd_calm (p : PortId) {s0 s : State} (hc0 : Calm s0 s) :
    CalmO s0 (execEnumAddressWaitEnd p s) := by
  unfold execEnumAddressWaitEnd; try dsimp only
  repeat' (with_reducible first | assumption | intro _ | apply enumStep_calm | apply guarded_calm | apply Calm.ite | apply CalmO.ite | apply CalmO.next | split | apply Calm.mk | refine Calm.pair ?_ rfl rfl)

theorem applyRules_calm (num : ℕ) (d : Device) {s0 s : State} (hc0 : Calm s0 s) :
    Calm s0 (applyRules num d s) := by
  unfold applyRules; try dsimp only
  repeat' (with_reducible first | assumption | intro _ | apply modDev_calm | apply raise_calm | apply Calm.ite | apply CalmO.ite | apply CalmO.next | split | apply Calm.mk | refine Calm.pair ?_ rfl rfl)

theorem admitStatus_calm {num : Nat} {s0 s t : State} (e : admitStatus num s = some t) (hc0 : Calm s0 s) : Calm s0 t := by
  unfold admitStatus at e
  split at e
  · cases e
  · split at e
    · cases e
    · split at e
      · cases e
      · split at e
        · next h => cases e; exact tryAdmit_calm h hc0
        · cases e

theorem startPolling_calm (num : ℕ) (d : Device) {s0 s : State} (hc0 : Calm s0 s) :
    Calm s0 (startPolling num d s) := by
  unfold startPolling; try dsimp only
  repeat' (with_reducible first | assumption | intro _ | apply addReport_calm | apply modDev_calm | apply Calm.ite | apply CalmO.ite | apply CalmO.next | split | apply Calm.mk | refine Calm.pair ?_ rfl rfl)

theorem joinAs_calm (num : ℕ) (owner : ℕ) (reused : Bool) (d : Device) {s0 s : State} (hc0 : Calm s0 s) :
    Calm s0 (joinAs num owner reused d s) := by
  unfold joinAs; try dsimp only
  repeat' (with_reducible first | assumption | intro _ | apply startPolling_calm | apply refreshIso_calm | apply raiseVf_calm | apply attachRecord_calm | apply applyRules_calm | apply modDev_calm | apply enliven_calm | apply Calm.ite | apply CalmO.ite | apply CalmO.next | refine admitStatus_calm (by assumption) ?_ | split | apply Calm.mk | refine Calm.pair ?_ rfl rfl)

theorem quotaFull_calm (f : ℕ) {s0 s : State} (hc0 : Calm s0 s) :
    Calm s0 (quotaFull f s) := by
  unfold quotaFull; try dsimp only
  repeat' (with_reducible first | assumption | intro _ | apply raise_calm | apply Calm.ite | apply CalmO.ite | apply CalmO.next | split | apply Calm.mk | refine Calm.pair ?_ rfl rfl)

theorem complete_calm (num : ℕ) (reused : Bool) {s0 s : State} (hc0 : Calm s0 s) :
    Calm s0 (complete num reused s) := by
  unfold complete; try dsimp only
  repeat' (with_reducible first | assumption | intro _ | apply freedBy_calm | apply quotaFull_calm | apply refuseAt_calm | apply closeCtxs_calm | apply untakeHandle_calm | apply joinAs_calm | apply Calm.ite | apply CalmO.ite | apply CalmO.next | split | apply Calm.mk | refine Calm.pair ?_ rfl rfl)

theorem rekey_calm (r : ℕ) (o : ℕ) {s0 s : State} (hc0 : Calm s0 s) :
    Calm s0 (rekey r o s) := by
  unfold rekey; try dsimp only
  repeat' (with_reducible first | assumption | intro _ | apply Calm.ite | apply CalmO.ite | apply CalmO.next | split | apply Calm.mk | refine Calm.pair ?_ rfl rfl)

theorem adopt_calm (r : ℕ) (o : ℕ) {s0 s : State} (hc0 : Calm s0 s) :
    Calm s0 (adopt r o s) := by
  unfold adopt; try dsimp only
  repeat' (with_reducible first | assumption | intro _ | apply untakeHandle_calm | apply rekey_calm | apply complete_calm | apply retryRefused_calm | apply Calm.ite | apply CalmO.ite | apply CalmO.next | split | apply Calm.mk | refine Calm.pair ?_ rfl rfl)

theorem sweepHandles_calm {s0 s : State} (hc0 : Calm s0 s) :
    Calm s0 (sweepHandles s) := by
  unfold sweepHandles; try dsimp only
  repeat' (with_reducible first | assumption | intro _ | apply modHandle_calm | apply retryRefused_calm | apply adopt_calm | apply each_calm | apply Calm.ite | apply CalmO.ite | apply CalmO.next | split | apply Calm.mk | refine Calm.pair ?_ rfl rfl)

theorem finishEnum_calm (p : ℕ) (e : Enum) {s0 s : State} (hc0 : Calm s0 s) :
    Calm s0 (finishEnum p e s) := by
  unfold finishEnum; try dsimp only
  repeat' (with_reducible first | assumption | intro _ | apply startNext_calm | apply adopt_calm | apply complete_calm | apply modHubPort_calm | apply modPort_calm | apply setDev_calm | apply Calm.ite | apply CalmO.ite | apply CalmO.next | split | apply Calm.mk | refine Calm.pair ?_ rfl rfl)

theorem execHandleReuseTimeout_calm (h : Fin 4096) {s0 s : State} (hc0 : Calm s0 s) :
    CalmO s0 (execHandleReuseTimeout h s) := by
  unfold execHandleReuseTimeout; try dsimp only
  repeat' (with_reducible first | assumption | intro _ | apply complete_calm | apply guarded_calm | apply Calm.ite | apply CalmO.ite | apply CalmO.next | split | apply Calm.mk | refine Calm.pair ?_ rfl rfl)

theorem finishAgain_calm (p : ℕ) (e : Enum) {s0 s : State} (hc0 : Calm s0 s) :
    Calm s0 (finishAgain p e s) := by
  unfold finishAgain; try dsimp only
  repeat' (with_reducible first | assumption | intro _ | apply startNext_calm | apply addRecord_calm | apply modHubPort_calm | apply modPort_calm | apply openAll_calm | apply Calm.ite | apply CalmO.ite | apply CalmO.next | split | apply Calm.mk | refine Calm.pair ?_ rfl rfl)

theorem tierLimit_calm (p : ℕ) (at_ : Loc) {s0 s : State} (hc0 : Calm s0 s) :
    Calm s0 (tierLimit p at_ s) := by
  unfold tierLimit; try dsimp only
  repeat' (with_reducible first | assumption | intro _ | apply dropEnum_calm | apply shutPort_calm | apply portEvent_calm | apply startNext_calm | apply answerTopo_calm | apply Calm.ite | apply CalmO.ite | apply CalmO.next | split | apply Calm.mk | refine Calm.pair ?_ rfl rfl)

theorem afterIdent_calm (p : ℕ) (e : Enum) (data : List Byte) {s0 s : State} (hc0 : Calm s0 s) :
    Calm s0 (afterIdent p e data s) := by
  unfold afterIdent; try dsimp only
  repeat' (with_reducible first | assumption | intro _ | apply enumStep_calm | apply modPort_calm | apply tierLimit_calm | apply modCtx_calm | apply Calm.ite | apply CalmO.ite | apply CalmO.next | split | apply Calm.mk | refine Calm.pair ?_ rfl rfl)

theorem identityChanged_calm (p : ℕ) (e : Enum) (data : List Byte) {s0 s : State} (hc0 : Calm s0 s) :
    Calm s0 (identityChanged p e data s) := by
  unfold identityChanged; try dsimp only
  repeat' (with_reducible first | assumption | intro _ | apply openZero_calm | apply afterIdent_calm | apply modHandle_calm | apply portEvent_calm | apply refuseAt_calm | apply tearOne_calm | apply refreshIso_calm | apply retryRefused_calm | apply Calm.ite | apply CalmO.ite | apply CalmO.next | refine takeHandle_calm (by assumption) ?_ | split | apply Calm.mk | refine Calm.pair ?_ rfl rfl)

theorem gotIdent_calm (p : ℕ) (e : Enum) (data : List Byte) {s0 s : State} (hc0 : Calm s0 s) :
    Calm s0 (gotIdent p e data s) := by
  unfold gotIdent; try dsimp only
  repeat' (with_reducible first | assumption | intro _ | apply afterIdent_calm | apply identityChanged_calm | apply enumStep_calm | apply enumFail_calm | apply Calm.ite | apply CalmO.ite | apply CalmO.next | split | apply Calm.mk | refine Calm.pair ?_ rfl rfl)

theorem gotConfig_calm (p : ℕ) (e : Enum) {s0 s : State} (hc0 : Calm s0 s) :
    Calm s0 (gotConfig p e s) := by
  unfold gotConfig; try dsimp only
  repeat' (with_reducible first | assumption | intro _ | apply finishEnum_calm | apply enumStep_calm | apply openAll_calm | apply finishAgain_calm | apply Calm.ite | apply CalmO.ite | apply CalmO.next | split | apply Calm.mk | refine Calm.pair ?_ rfl rfl)

theorem nextHubPort_calm (p : ℕ) (e : Enum) (q : ℕ) {s0 s : State} (hc0 : Calm s0 s) :
    Calm s0 (nextHubPort p e q s) := by
  unfold nextHubPort; try dsimp only
  repeat' (with_reducible first | assumption | intro _ | apply finishEnum_calm | apply enumStep_calm | apply Calm.ite | apply CalmO.ite | apply CalmO.next | split | apply Calm.mk | refine Calm.pair ?_ rfl rfl)

theorem enumDone_calm (p : ℕ) (res : XferResult) (data : List Byte) {s0 s : State} (hc0 : Calm s0 s) :
    Calm s0 (enumDone p res data s) := by
  unfold enumDone; try dsimp only
  repeat' (with_reducible first | assumption | intro _ | apply modPort_calm | apply gotConfig_calm | apply each_calm | apply openEp_calm | apply contextsExhausted_calm | apply refuseAt_calm | apply gotIdent_calm | apply enumStep_calm | apply enumFail_calm | apply dropRequests_calm | apply Calm.ite | apply CalmO.ite | apply CalmO.next | split | apply Calm.mk | refine Calm.pair ?_ rfl rfl)

theorem execEnumTransferDone_calm (p : PortId) (res : XferResult) (data : List Byte) {s0 s : State} (hc0 : Calm s0 s) :
    CalmO s0 (execEnumTransferDone p res data s) := by
  unfold execEnumTransferDone; try dsimp only
  repeat' (with_reducible first | assumption | intro _ | apply enumDone_calm | apply guarded_calm | apply Calm.ite | apply CalmO.ite | apply CalmO.next | split | apply Calm.mk | refine Calm.pair ?_ rfl rfl)

theorem execHubPowerOnWaitEnd_calm (p : PortId) {s0 s : State} (hc0 : Calm s0 s) :
    CalmO s0 (execHubPowerOnWaitEnd p s) := by
  unfold execHubPowerOnWaitEnd; try dsimp only
  repeat' (with_reducible first | assumption | intro _ | apply nextHubPort_calm | apply guarded_calm | apply Calm.ite | apply CalmO.ite | apply CalmO.next | split | apply Calm.mk | refine Calm.pair ?_ rfl rfl)

theorem hubReset_calm (h : Fin 4096) (q : Fin 16) (w : U32) {s0 s : State} (hc0 : Calm s0 s) :
    Calm s0 (hubReset h q w s) := by
  unfold hubReset; try dsimp only
  repeat' (with_reducible first | assumption | intro _ | apply enterRecovery_calm | apply enumFail_calm | apply shutPort_calm | apply portEvent_calm | apply modHubPort_calm | apply resetDone_calm | apply startNext_calm | apply signalled_calm | apply unparkAborts_calm | apply Calm.ite | apply CalmO.ite | apply CalmO.next | split | apply Calm.mk | refine Calm.pair ?_ rfl rfl)

theorem hubResumed_calm (h : Fin 4096) (q : Fin 16) (wake : Bool) {s0 s : State} (hc0 : Calm s0 s) :
    Calm s0 (hubResumed h q wake s) := by
  unfold hubResumed; try dsimp only
  repeat' (with_reducible first | assumption | intro _ | apply modHubPort_calm | apply Calm.ite | apply CalmO.ite | apply CalmO.next | split | apply Calm.mk | refine Calm.pair ?_ rfl rfl)

theorem hubWord_calm (h : Fin 4096) (q : Fin 16) (w : U32) {s0 s : State} (hc0 : Calm s0 s) :
    Calm s0 (hubWord h q w s) := by
  unfold hubWord; try dsimp only
  repeat' (with_reducible first | assumption | intro _ | apply clearTt_calm | apply hubPortGone_calm | apply hubReset_calm | apply portEvent_calm | apply hubResumed_calm | apply modHubPort_calm | apply hubConnect_calm | apply clearFeature_calm | apply each_calm | apply hubRequest_calm | apply Calm.ite | apply CalmO.ite | apply CalmO.next | split | apply Calm.mk | refine Calm.pair ?_ rfl rfl)

theorem execHubStatusChange_calm (hub : Fin 4096) (map : U16) (hubStatus : U32) (words : List (Fin 16 × U32)) {s0 s : State} (hc0 : Calm s0 s) :
    CalmO s0 (execHubStatusChange hub map hubStatus words s) := by
  unfold execHubStatusChange; try dsimp only
  repeat' (with_reducible first | assumption | intro _ | apply hubWord_calm | apply each_calm | apply portEvent_calm | apply hubRequest_calm | apply guarded_calm | apply Calm.ite | apply CalmO.ite | apply CalmO.next | split | apply Calm.mk | refine Calm.pair ?_ rfl rfl)

theorem execHubPolled_calm (hub : Fin 4096) {s0 s : State} (hc0 : Calm s0 s) :
    CalmO s0 (execHubPolled hub s) := by
  unfold execHubPolled; try dsimp only
  repeat' (with_reducible first | assumption | intro _ | apply askWork_calm | apply guarded_calm | apply Calm.ite | apply CalmO.ite | apply CalmO.next | split | apply Calm.mk | refine Calm.pair ?_ rfl rfl)

theorem execHubAdmitRetry_calm (hub : Fin 4096) {s0 s : State} (hc0 : Calm s0 s) :
    CalmO s0 (execHubAdmitRetry hub s) := by
  unfold execHubAdmitRetry; try dsimp only
  repeat' (with_reducible first | assumption | intro _ | apply modDev_calm | apply guarded_calm | apply Calm.ite | apply CalmO.ite | apply CalmO.next | refine admitStatus_calm (by assumption) ?_ | split | apply Calm.mk | refine Calm.pair ?_ rfl rfl)

theorem modRun_calm (e : ℕ) (g : Thread → Thread) {s0 s : State} (hc0 : Calm s0 s) :
    Calm s0 (modRun e g s) := by
  unfold modRun; try dsimp only
  repeat' (with_reducible first | assumption | intro _ | apply modEng_calm | apply Calm.ite | apply CalmO.ite | apply CalmO.next | split | apply Calm.mk | refine Calm.pair ?_ rfl rfl)

theorem decideItem_calm (i : ℕ) (st : Byte) {s0 s : State} (hc0 : Calm s0 s) :
    Calm s0 (decideItem i st s) := by
  unfold decideItem; try dsimp only
  repeat' (with_reducible first | assumption | intro _ | apply setItem_calm | apply Calm.ite | apply CalmO.ite | apply CalmO.next | split | apply Calm.mk | refine Calm.pair ?_ rfl rfl)

theorem overrideItem_calm (i : ℕ) (st : Byte) {s0 s : State} (hc0 : Calm s0 s) :
    Calm s0 (overrideItem i st s) := by
  unfold overrideItem; try dsimp only
  repeat' (with_reducible first | assumption | intro _ | apply modItem_calm | apply Calm.ite | apply CalmO.ite | apply CalmO.next | split | apply Calm.mk | refine Calm.pair ?_ rfl rfl)

theorem setWorkSeq_calm (w : Work) (q : BitVec 5) {s0 s : State} (hc0 : Calm s0 s) :
    Calm s0 (setWorkSeq w q s) := by
  unfold setWorkSeq; try dsimp only
  repeat' (with_reducible first | assumption | intro _ | apply modCtx_calm | apply modPstate_calm | apply Calm.ite | apply CalmO.ite | apply CalmO.next | split | apply Calm.mk | refine Calm.pair ?_ rfl rfl)

theorem modThreads_calm (g : Thread → Thread) {s0 s : State} (hc0 : Calm s0 s) :
    Calm s0 (modThreads g s) := by
  unfold modThreads; try dsimp only
  repeat' (with_reducible first | assumption | intro _ | apply Calm.ite | apply CalmO.ite | apply CalmO.next | split | apply Calm.mk | refine Calm.pair ?_ rfl rfl)

theorem refreshWin_calm (k : ℕ) {s0 s : State} (hc0 : Calm s0 s) :
    Calm s0 (refreshWin k s) := by
  unfold refreshWin; try dsimp only
  repeat' (with_reducible first | assumption | intro _ | apply modThreads_calm | apply Calm.ite | apply CalmO.ite | apply CalmO.next | split | apply Calm.mk | refine Calm.pair ?_ rfl rfl)

theorem scriptStop_calm (e : ℕ) (cause : ℕ) {s0 s : State} (hc0 : Calm s0 s) :
    Calm s0 (scriptStop e cause s) := by
  unfold scriptStop; try dsimp only
  repeat' (with_reducible first | assumption | intro _ | apply raise_calm | apply modRun_calm | apply beginDue_calm | apply modPort_calm | apply finish_calm | apply Calm.ite | apply CalmO.ite | apply CalmO.next | split | apply Calm.mk | refine Calm.pair ?_ rfl rfl)

theorem instruction_calm (e : EngId) (u : Use) (cost : ℕ) (f : Thread → State → State) {s0 s : State} (hf : ∀ v0 v1, Calm s0 v1 → Calm s0 (f v0 v1)) (hc0 : Calm s0 s) :
    CalmO s0 (instruction e u cost f s) := by
  unfold instruction; try dsimp only
  repeat' (with_reducible first | assumption | intro _ | apply hf | apply engineFault_calm | apply scriptStop_calm | apply guarded_calm | apply Calm.ite | apply CalmO.ite | apply CalmO.next | split | apply Calm.mk | refine Calm.pair ?_ rfl rfl)

theorem setRun_calm (e : ℕ) (t : Thread) {s0 s : State} (hc0 : Calm s0 s) :
    Calm s0 (setRun e t s) := by
  unfold setRun; try dsimp only
  repeat' (with_reducible first | assumption | intro _ | apply modEng_calm | apply Calm.ite | apply CalmO.ite | apply CalmO.next | split | apply Calm.mk | refine Calm.pair ?_ rfl rfl)

theorem instrFault_calm (e : ℕ) (cause : ℕ) (t : Thread) {s0 s : State} (hc0 : Calm s0 s) :
    Calm s0 (instrFault e cause t s) := by
  unfold instrFault; try dsimp only
  repeat' (with_reducible first | assumption | intro _ | apply engineFault_calm | apply scriptStop_calm | apply Calm.ite | apply CalmO.ite | apply CalmO.next | split | apply Calm.mk | refine Calm.pair ?_ rfl rfl)

theorem resumeWait_calm (e : ℕ) (t : Thread) {s0 s : State} (hc0 : Calm s0 s) :
    Calm s0 (resumeWait e t s) := by
  unfold resumeWait; try dsimp only
  repeat' (with_reducible first | assumption | intro _ | apply setRun_calm | apply scriptStop_calm | apply Calm.ite | apply CalmO.ite | apply CalmO.next | split | apply Calm.mk | refine Calm.pair ?_ rfl rfl)

theorem report_calm (p : ℕ) (e : Option ℕ) (code : ℕ) (b14 : ℕ) (b13 : ℕ) {s0 s : State} (hc0 : Calm s0 s) :
    Calm s0 (report p e code b14 b13 s) := by
  unfold report; try dsimp only
  repeat' (with_reducible first | assumption | intro _ | apply resumeWait_calm | apply modEng_calm | apply modPort_calm | apply Calm.ite | apply CalmO.ite | apply CalmO.next | split | apply Calm.mk | refine Calm.pair ?_ rfl rfl)

theorem nextWork_calm (e : ℕ) {s0 s : State} (hc0 : Calm s0 s) :
    Calm s0 (nextWork e s) := by
  unfold nextWork; try dsimp only
  repeat' (with_reducible first | assumption | intro _ | apply modEng_calm | apply Calm.ite | apply CalmO.ite | apply CalmO.next | split | apply Calm.mk | refine Calm.pair ?_ rfl rfl)

theorem park_calm (e : ℕ) (p : ℕ) (ready : Bool) (t : Thread) {s0 s : State} (hc0 : Calm s0 s) :
    Calm s0 (park e p ready t s) := by
  unfold park; try dsimp only
  repeat' (with_reducible first | assumption | intro _ | apply modEng_calm | apply nextWork_calm | apply Calm.ite | apply CalmO.ite | apply CalmO.next | split | apply Calm.mk | refine Calm.pair ?_ rfl rfl)

theorem waitAnswer_calm (e : ℕ) (w : Wait) (mask : Byte) (offset : BitVec 14) (t : Thread) {s0 s : State} (hc0 : Calm s0 s) :
    Calm s0 (waitAnswer e w mask offset t s) := by
  unfold waitAnswer; try dsimp only
  repeat' (with_reducible first | assumption | intro _ | apply park_calm | apply modPort_calm | apply setRun_calm | apply Calm.ite | apply CalmO.ite | apply CalmO.next | split | apply Calm.mk | refine Calm.pair ?_ rfl rfl)

theorem setTxnSeq_calm (t : Txn) (q : BitVec 5) {s0 s : State} (hc0 : Calm s0 s) :
    Calm s0 (setTxnSeq t q s) := by
  unfold setTxnSeq; try dsimp only
  repeat' (with_reducible first | assumption | intro _ | apply modCtx_calm | apply modPstate_calm | apply refreshWin_calm | apply Calm.ite | apply CalmO.ite | apply CalmO.next | split | apply Calm.mk | refine Calm.pair ?_ rfl rfl)

theorem modTxn_calm (p : ℕ) (g : Txn → Txn) {s0 s : State} (hc0 : Calm s0 s) :
    Calm s0 (modTxn p g s) := by
  unfold modTxn; try dsimp only
  repeat' (with_reducible first | assumption | intro _ | apply modPort_calm | apply Calm.ite | apply CalmO.ite | apply CalmO.next | split | apply Calm.mk | refine Calm.pair ?_ rfl rfl)

theorem closeTxn_calm (p : ℕ) {s0 s : State} (hc0 : Calm s0 s) :
    Calm s0 (closeTxn p s) := by
  unfold closeTxn; try dsimp only
  repeat' (with_reducible first | assumption | intro _ | apply beginDue_calm | apply finish_calm | apply modPort_calm | apply Calm.ite | apply CalmO.ite | apply CalmO.next | split | apply Calm.mk | refine Calm.pair ?_ rfl rfl)

theorem beginItem_calm (i : ℕ) {s0 s : State} (hc0 : Calm s0 s) :
    Calm s0 (beginItem i s) := by
  unfold beginItem; try dsimp only
  repeat' (with_reducible first | assumption | intro _ | apply begun_calm | apply modItem_calm | apply Calm.ite | apply CalmO.ite | apply CalmO.next | split | apply Calm.mk | refine Calm.pair ?_ rfl rfl)

theorem countTokens_calm (w : Work) (i : Option ℕ) (q : BitVec 5) (n : ℕ) {s0 s : State} (hc0 : Calm s0 s) :
    Calm s0 (countTokens w i q n s) := by
  unfold countTokens; try dsimp only
  repeat' (with_reducible first | assumption | intro _ | apply modPstate_calm | apply begun_calm | apply Calm.ite | apply CalmO.ite | apply CalmO.next | split | apply Calm.mk | refine Calm.pair ?_ rfl rfl)

theorem tokenOut_calm (e : ℕ) (p : ℕ) (w : Work) (v : Work) (i : Option ℕ) (typ : ℕ) (count : ℕ) (ep : ℕ) (k : TxnKind) (retry : Bool) (num : ℕ) (c : Ctx) {s0 s : State} (hc0 : Calm s0 s) :
    Calm s0 (tokenOut e p w v i typ count ep k retry num c s) := by
  unfold tokenOut; try dsimp only
  repeat' (with_reducible first | assumption | intro _ | apply send_calm | apply modPort_calm | apply beginItem_calm | apply countTokens_calm | apply Calm.ite | apply CalmO.ite | apply CalmO.next | split | apply Calm.mk | refine Calm.pair ?_ rfl rfl)

theorem sendToken_calm {e : ℕ} {p : ℕ} {w : Work} {typ : ℕ} {n : ℕ} {ep : ℕ} {own : Bool} {retry : Bool} {s0 s : State} {t0 : State} (he0 : sendToken e p w typ n ep own retry s = some t0) (hc0 : Calm s0 s) : Calm s0 t0 := by
  revert he0; unfold sendToken; try dsimp only
  repeat' (first | (intro e; cases e) | (with_reducible first | assumption | apply tokenOut_calm | apply Calm.ite | apply CalmO.ite | apply CalmO.next | split | apply Calm.mk | refine Calm.pair ?_ rfl rfl))

theorem countDone_calm (r : ℕ) (i : ℕ) (q : BitVec 5) {s0 s : State} (hc0 : Calm s0 s) :
    Calm s0 (countDone r i q s) := by
  unfold countDone; try dsimp only
  repeat' (with_reducible first | assumption | intro _ | apply modItem_calm | apply modPstate_calm | apply Calm.ite | apply CalmO.ite | apply CalmO.next | split | apply Calm.mk | refine Calm.pair ?_ rfl rfl)

theorem countSplit_calm {s0 s : State} (w : Work) (i : ℕ) (x : Item) (start : Bool) (per : Bool) (dirIn : Bool) (q : BitVec 5) (hc0 : Calm s0 s) :
    Calm s0 (countSplit s w i x start per dirIn q) := by
  unfold countSplit; try dsimp only
  repeat' (with_reducible first | assumption | intro _ | apply countDone_calm | apply begun_calm | apply modPstate_calm | apply Calm.ite | apply CalmO.ite | apply CalmO.next | split | apply Calm.mk | refine Calm.pair ?_ rfl rfl)

theorem splitOut_calm (e : ℕ) (p : ℕ) (w : Work) (i : ℕ) (x : Item) (start : Bool) (retry : Bool) (num : ℕ) (c : Ctx) (tt : TtPath) {s0 s : State} (hc0 : Calm s0 s) :
    Calm s0 (splitOut e p w i x start retry num c tt s) := by
  unfold splitOut; try dsimp only
  repeat' (with_reducible first | assumption | intro _ | apply modPstate_calm | apply modPort_calm | apply send_calm | apply beginItem_calm | apply modItem_calm | apply countSplit_calm | apply Calm.ite | apply CalmO.ite | apply CalmO.next | split | apply Calm.mk | refine Calm.pair ?_ rfl rfl)

theorem sendSplit_calm {e : ℕ} {p : ℕ} {w : Work} {start : Bool} {retry : Bool} {s0 s : State} {t0 : State} (he0 : sendSplit e p w start retry s = some t0) (hc0 : Calm s0 s) : Calm s0 t0 := by
  revert he0; unfold sendSplit; try dsimp only
  repeat' (first | (intro e; cases e) | (with_reducible first | assumption | apply splitOut_calm | apply Calm.ite | apply CalmO.ite | apply CalmO.next | split | apply Calm.mk | refine Calm.pair ?_ rfl rfl))

theorem sendPackets_calm (p : Nat) (tx : Txn) (i : Nat) (x : Item) (n k : Nat) {s0 s : State} (hc0 : Calm s0 s) :
    Calm s0 (sendPackets p tx i x n k s).2 := by
  induction n generalizing k s with
  | zero => exact hc0
  | succ n ih =>
    unfold sendPackets
    split
    · exact hc0
    · split
      · exact hc0
      · exact ih _ (send_calm _ _ _ _ hc0)

theorem perOutSent_calm (p : ℕ) (tx : Txn) (i : ℕ) (x : Item) (sent : ℕ) (under : Bool) {s0 s : State} (hc0 : Calm s0 s) :
    Calm s0 (perOutSent p tx i x sent under s) := by
  unfold perOutSent; try dsimp only
  repeat' (with_reducible first | assumption | intro _ | apply closeTxn_calm | apply decideItem_calm | apply modItem_calm | apply setTxnSeq_calm | apply Calm.ite | apply CalmO.ite | apply CalmO.next | split | apply Calm.mk | refine Calm.pair ?_ rfl rfl)

theorem sentSome_calm (p : ℕ) (i : ℕ) (k : ℕ) (tx : Txn) (x : Item) (done : ℕ) (under : Bool) (bad : Bool) {s0 s : State} (hc0 : Calm s0 s) : Calm s0 (sentSome p i k tx x done under bad s).2 := by
  unfold sentSome; try dsimp only
  repeat' (first | (with_reducible first | assumption | intro _ | apply modTxn_calm | apply perOutSent_calm | apply decideItem_calm | apply closeTxn_calm | apply done_calm | apply Calm.ite | apply CalmO.ite | apply CalmO.next | split | apply Calm.mk | refine Calm.pair ?_ rfl rfl) | (dsimp only))

theorem sendData_calm (e : ℕ) (p : ℕ) (n : ℕ) {s0 s : State} (hc0 : Calm s0 s) : Calm s0 (sendData e p n s).2 := by
  unfold sendData; try dsimp only
  repeat' (first | (with_reducible first | assumption | intro _ | apply raise_calm | apply sentSome_calm | apply sendPackets_calm | apply closeTxn_calm | apply modTxn_calm | apply Calm.ite | apply CalmO.ite | apply CalmO.next | split | apply Calm.mk | refine Calm.pair ?_ rfl rfl) | (dsimp only))

theorem queueLane_calm (p : ℕ) (e : ℕ) (w : Work) (op : LaneOp) {s0 s : State} (hc0 : Calm s0 s) :
    Calm s0 (queueLane p e w op s) := by
  unfold queueLane; try dsimp only
  repeat' (with_reducible first | assumption | intro _ | apply modPort_calm | apply Calm.ite | apply CalmO.ite | apply CalmO.next | split | apply Calm.mk | refine Calm.pair ?_ rfl rfl)

theorem laneToken_calm {e : ℕ} {p : ℕ} {w : Work} {op : LaneOp} {s0 s : State} {t0 : State} (he0 : laneToken e p w op s = some t0) (hc0 : Calm s0 s) : Calm s0 t0 := by
  revert he0; unfold laneToken; try dsimp only
  repeat' (first | (intro e; cases e) | (intro e; refine sendToken_calm e ?_) | (intro e; refine sendSplit_calm e ?_) | (with_reducible first | assumption | apply Calm.ite | apply CalmO.ite | apply CalmO.next | refine sendToken_calm (by assumption) ?_ | refine sendSplit_calm (by assumption) ?_ | split | apply Calm.mk | refine Calm.pair ?_ rfl rfl))

theorem launch_calm (p n : Nat) {s0 s : State} (hc0 : Calm s0 s) : Calm s0 (launch p n s) := by
  induction n generalizing s with
  | zero => exact hc0
  | succ n ih =>
    unfold launch; dsimp only
    repeat'
      (with_reducible
        first | assumption | apply ih | apply sendData_calm | apply modPort_calm | refine laneToken_calm (by assumption) ?_ | split)

theorem runLane_calm (p : ℕ) {s0 s : State} (hc0 : Calm s0 s) :
    Calm s0 (runLane p s) := by
  unfold runLane; try dsimp only
  repeat' (with_reducible first | assumption | intro _ | apply launch_calm | apply Calm.ite | apply CalmO.ite | apply CalmO.next | split | apply Calm.mk | refine Calm.pair ?_ rfl rfl)

theorem endTxn_calm (p : ℕ) {s0 s : State} (hc0 : Calm s0 s) :
    Calm s0 (endTxn p s) := by
  unfold endTxn; try dsimp only
  repeat' (with_reducible first | assumption | intro _ | apply closeTxn_calm | apply runLane_calm | apply Calm.ite | apply CalmO.ite | apply CalmO.next | split | apply Calm.mk | refine Calm.pair ?_ rfl rfl)

theorem dropHolds_calm (e : ℕ) {s0 s : State} (hc0 : Calm s0 s) :
    Calm s0 (dropHolds e s) := by
  unfold dropHolds; try dsimp only
  repeat' (with_reducible first | assumption | intro _ | apply Calm.ite | apply CalmO.ite | apply CalmO.next | split | apply Calm.mk | refine Calm.pair ?_ rfl rfl)

theorem suspendDispatch_calm (e : ℕ) {s0 s : State} (hc0 : Calm s0 s) :
    Calm s0 (suspendDispatch e s) := by
  unfold suspendDispatch; try dsimp only
  repeat' (with_reducible first | assumption | intro _ | apply modEng_calm | apply dropHolds_calm | apply Calm.ite | apply CalmO.ite | apply CalmO.next | split | apply Calm.mk | refine Calm.pair ?_ rfl rfl)

theorem floatServe_calm (p : ℕ) {s0 s : State} (hc0 : Calm s0 s) :
    Calm s0 (floatServe p s) := by
  unfold floatServe; try dsimp only
  repeat' (with_reducible first | assumption | intro _ | apply suspendDispatch_calm | apply nextWork_calm | apply modEng_calm | apply modPstate_calm | apply modItem_calm | apply finish_calm | apply Calm.ite | apply CalmO.ite | apply CalmO.next | split | apply Calm.mk | refine Calm.pair ?_ rfl rfl)

theorem decide__calm (t : Txn) (st : Byte) {s0 s : State} (hc0 : Calm s0 s) :
    Calm s0 (decide_ t st s) := by
  unfold decide_; try dsimp only
  repeat' (with_reducible first | assumption | intro _ | apply decideItem_calm | apply Calm.ite | apply CalmO.ite | apply CalmO.next | split | apply Calm.mk | refine Calm.pair ?_ rfl rfl)

theorem conclude_calm (p : ℕ) (t : Txn) (st : Byte) (code : ℕ) (b14 : ℕ) {s0 s : State} (hc0 : Calm s0 s) :
    Calm s0 (conclude p t st code b14 s) := by
  unfold conclude; try dsimp only
  repeat' (with_reducible first | assumption | intro _ | apply decide__calm | apply report_calm | apply endTxn_calm | apply Calm.ite | apply CalmO.ite | apply CalmO.next | split | apply Calm.mk | refine Calm.pair ?_ rfl rfl)

theorem goOnSeq_calm (p : ℕ) (t : Txn) (code : ℕ) (b14 : ℕ) (b13 : ℕ) {s0 s : State} (hc0 : Calm s0 s) :
    Calm s0 (goOnSeq p t code b14 b13 s) := by
  unfold goOnSeq; try dsimp only
  repeat' (with_reducible first | assumption | intro _ | apply report_calm | apply endTxn_calm | apply Calm.ite | apply CalmO.ite | apply CalmO.next | split | apply Calm.mk | refine Calm.pair ?_ rfl rfl)

theorem goOn_calm (p : ℕ) (t : Txn) (code : ℕ) (b14 : ℕ) {s0 s : State} (hc0 : Calm s0 s) :
    Calm s0 (goOn p t code b14 s) := by
  unfold goOn; try dsimp only
  repeat' (with_reducible first | assumption | intro _ | apply goOnSeq_calm | apply Calm.ite | apply CalmO.ite | apply CalmO.next | split | apply Calm.mk | refine Calm.pair ?_ rfl rfl)

theorem setErrs_calm (t : Txn) (n : ℕ) {s0 s : State} (hc0 : Calm s0 s) :
    Calm s0 (setErrs t n s) := by
  unfold setErrs; try dsimp only
  repeat' (with_reducible first | assumption | intro _ | apply modCtx_calm | apply refreshWin_calm | apply modItem_calm | apply Calm.ite | apply CalmO.ite | apply CalmO.next | split | apply Calm.mk | refine Calm.pair ?_ rfl rfl)

theorem clearTtOf_calm (t : Txn) {s0 s : State} (hc0 : Calm s0 s) :
    Calm s0 (clearTtOf t s) := by
  unfold clearTtOf; try dsimp only
  repeat' (with_reducible first | assumption | intro _ | apply clearTt_calm | apply Calm.ite | apply CalmO.ite | apply CalmO.next | split | apply Calm.mk | refine Calm.pair ?_ rfl rfl)

theorem countTransfer_calm (t : Txn) (i : ℕ) {s0 s : State} (hc0 : Calm s0 s) :
    Calm s0 (countTransfer t i s) := by
  unfold countTransfer; try dsimp only
  repeat' (with_reducible first | assumption | intro _ | apply decide__calm | apply clearTtOf_calm | apply setErrs_calm | apply Calm.ite | apply CalmO.ite | apply CalmO.next | split | apply Calm.mk | refine Calm.pair ?_ rfl rfl)

theorem rebindEvent_calm (i : ℕ) (r : ℕ) {s0 s : State} (hc0 : Calm s0 s) :
    Calm s0 (rebindEvent i r s) := by
  unfold rebindEvent; try dsimp only
  repeat' (with_reducible first | assumption | intro _ | apply shiftEvents_calm | apply begun_calm | apply modItem_calm | apply modPstate_calm | apply Calm.ite | apply CalmO.ite | apply CalmO.next | split | apply Calm.mk | refine Calm.pair ?_ rfl rfl)

theorem countAttempt_calm (t : Txn) (r : ℕ) {s0 s : State} (hc0 : Calm s0 s) :
    Calm s0 (countAttempt t r s) := by
  unfold countAttempt; try dsimp only
  repeat' (with_reducible first | assumption | intro _ | apply decide__calm | apply clearTtOf_calm | apply modPstate_calm | apply Calm.ite | apply CalmO.ite | apply CalmO.next | split | apply Calm.mk | refine Calm.pair ?_ rfl rfl)

theorem countNow_calm (t : Txn) {s0 s : State} (hc0 : Calm s0 s) :
    Calm s0 (countNow t s) := by
  unfold countNow; try dsimp only
  repeat' (with_reducible first | assumption | intro _ | apply countAttempt_calm | apply countTransfer_calm | apply Calm.ite | apply CalmO.ite | apply CalmO.next | split | apply Calm.mk | refine Calm.pair ?_ rfl rfl)

theorem countErr_calm (t : Txn) {s0 s : State} (hc0 : Calm s0 s) :
    Calm s0 (countErr t s) := by
  unfold countErr; try dsimp only
  repeat' (with_reducible first | assumption | intro _ | apply countNow_calm | apply modItem_calm | apply Calm.ite | apply CalmO.ite | apply CalmO.next | split | apply Calm.mk | refine Calm.pair ?_ rfl rfl)

theorem flushErr_calm (i : ℕ) {s0 s : State} (hc0 : Calm s0 s) :
    Calm s0 (flushErr i s) := by
  unfold flushErr; try dsimp only
  repeat' (with_reducible first | assumption | intro _ | apply setItem_calm | apply countNow_calm | apply Calm.ite | apply CalmO.ite | apply CalmO.next | split | apply Calm.mk | refine Calm.pair ?_ rfl rfl)

theorem markHalted_calm (num : ℕ) (ep : ℕ) (dirIn : Bool) {s0 s : State} (hc0 : Calm s0 s) :
    Calm s0 (markHalted num ep dirIn s) := by
  unfold markHalted; try dsimp only
  repeat' (with_reducible first | assumption | intro _ | apply finish_calm | apply refreshWin_calm | apply modPstate_calm | apply idleAfter_calm | apply each_calm | apply modCtx_calm | apply Calm.ite | apply CalmO.ite | apply CalmO.next | split | apply Calm.mk | refine Calm.pair ?_ rfl rfl)

theorem clearHalt_calm (num : ℕ) (ep : ℕ) (dirIn : Bool) {s0 s : State} (hc0 : Calm s0 s) :
    Calm s0 (clearHalt num ep dirIn s) := by
  unfold clearHalt; try dsimp only
  repeat' (with_reducible first | assumption | intro _ | apply modPstate_calm | apply idleAfter_calm | apply each_calm | apply refreshWin_calm | apply modCtx_calm | apply Calm.ite | apply CalmO.ite | apply CalmO.next | split | apply Calm.mk | refine Calm.pair ?_ rfl rfl)

theorem nextStage_calm (i : ℕ) (n : ℕ) {s0 s : State} (hc0 : Calm s0 s) :
    Calm s0 (nextStage i n s) := by
  unfold nextStage; try dsimp only
  repeat' (with_reducible first | assumption | intro _ | apply modItem_calm | apply Calm.ite | apply CalmO.ite | apply CalmO.next | split | apply Calm.mk | refine Calm.pair ?_ rfl rfl)

theorem ctrlDone_calm (i : ℕ) (x : Item) (t : Txn) {s0 s : State} (hc0 : Calm s0 s) :
    Calm s0 (ctrlDone i x t s) := by
  unfold ctrlDone; try dsimp only
  repeat' (with_reducible first | assumption | intro _ | apply clearHalt_calm | apply decide__calm | apply Calm.ite | apply CalmO.ite | apply CalmO.next | split | apply Calm.mk | refine Calm.pair ?_ rfl rfl)

theorem setupDone_calm (i : ℕ) (x : Item) (t : Txn) {s0 s : State} (hc0 : Calm s0 s) :
    Calm s0 (setupDone i x t s) := by
  unfold setupDone; try dsimp only
  repeat' (with_reducible first | assumption | intro _ | apply setErrs_calm | apply nextStage_calm | apply modCtx_calm | apply Calm.ite | apply CalmO.ite | apply CalmO.next | split | apply Calm.mk | refine Calm.pair ?_ rfl rfl)

theorem storeIn_calm (i : ℕ) (pos : ℕ) (bytes : List Byte) {s0 s : State} (hc0 : Calm s0 s) :
    Calm s0 (storeIn i pos bytes s) := by
  unfold storeIn; try dsimp only
  repeat' (with_reducible first | assumption | intro _ | apply stageWrite_calm | apply modItem_calm | apply Calm.ite | apply CalmO.ite | apply CalmO.next | split | apply Calm.mk | refine Calm.pair ?_ rfl rfl)

theorem storeBulk_calm (p : ℕ) (t : Txn) (payload : List Byte) {s0 s : State} (hc0 : Calm s0 s) :
    Calm s0 (storeBulk p t payload s) := by
  unfold storeBulk; try dsimp only
  repeat' (with_reducible first | assumption | intro _ | apply storeIn_calm | apply decideItem_calm | apply modItem_calm | apply modTxn_calm | apply setTxnSeq_calm | apply Calm.ite | apply CalmO.ite | apply CalmO.next | split | apply Calm.mk | refine Calm.pair ?_ rfl rfl)

theorem storePer_calm (p : ℕ) (r : ℕ) (t : Txn) (q : BitVec 5) (payload : List Byte) {s0 s : State} (hc0 : Calm s0 s) :
    Calm s0 (storePer p r t q payload s) := by
  unfold storePer; try dsimp only
  repeat' (with_reducible first | assumption | intro _ | apply decideItem_calm | apply storeIn_calm | apply modTxn_calm | apply modPstate_calm | apply setTxnSeq_calm | apply Calm.ite | apply CalmO.ite | apply CalmO.next | split | apply Calm.mk | refine Calm.pair ?_ rfl rfl)

theorem storeEvt_calm (p : ℕ) (r : ℕ) (t : Txn) (payload : List Byte) {s0 s : State} (hc0 : Calm s0 s) :
    Calm s0 (storeEvt p r t payload s) := by
  unfold storeEvt; try dsimp only
  repeat' (with_reducible first | assumption | intro _ | apply decideItem_calm | apply storeIn_calm | apply modTxn_calm | apply setTxnSeq_calm | apply Calm.ite | apply CalmO.ite | apply CalmO.next | split | apply Calm.mk | refine Calm.pair ?_ rfl rfl)

theorem perService_calm (r : ℕ) (t : Txn) {s0 s : State} (hc0 : Calm s0 s) :
    Calm s0 (perService r t s) := by
  unfold perService; try dsimp only
  repeat' (with_reducible first | assumption | intro _ | apply decideItem_calm | apply Calm.ite | apply CalmO.ite | apply CalmO.next | split | apply Calm.mk | refine Calm.pair ?_ rfl rfl)

theorem inProgress_calm (p : ℕ) (t : Txn) {s0 s : State} (hc0 : Calm s0 s) :
    Calm s0 (inProgress p t s) := by
  unfold inProgress; try dsimp only
  repeat' (with_reducible first | assumption | intro _ | apply decideItem_calm | apply nextStage_calm | apply ctrlDone_calm | apply clearHalt_calm | apply Calm.ite | apply CalmO.ite | apply CalmO.next | split | apply Calm.mk | refine Calm.pair ?_ rfl rfl)

theorem splitOver_calm (t : Txn) {s0 s : State} (hc0 : Calm s0 s) :
    Calm s0 (splitOver t s) := by
  unfold splitOver; try dsimp only
  repeat' (with_reducible first | assumption | intro _ | apply modItem_calm | apply Calm.ite | apply CalmO.ite | apply CalmO.next | split | apply Calm.mk | refine Calm.pair ?_ rfl rfl)

theorem keepEnded_calm (p : ℕ) {s0 s : State} (hc0 : Calm s0 s) :
    Calm s0 (keepEnded p s) := by
  unfold keepEnded; try dsimp only
  repeat' (with_reducible first | assumption | intro _ | apply modPort_calm | apply Calm.ite | apply CalmO.ite | apply CalmO.next | split | apply Calm.mk | refine Calm.pair ?_ rfl rfl)

theorem endBurst_calm (p : ℕ) (code : ℕ) {s0 s : State} (hc0 : Calm s0 s) :
    Calm s0 (endBurst p code s) := by
  unfold endBurst; try dsimp only
  repeat' (with_reducible first | assumption | intro _ | apply report_calm | apply modTxn_calm | apply splitOver_calm | apply countErr_calm | apply setErrs_calm | apply goOn_calm | apply keepEnded_calm | apply perService_calm | apply modPstate_calm | apply Calm.ite | apply CalmO.ite | apply CalmO.next | split | apply Calm.mk | refine Calm.pair ?_ rfl rfl)

theorem sendAck_calm (p : ℕ) (t : Txn) {s0 s : State} (hc0 : Calm s0 s) :
    Calm s0 (sendAck p t s) := by
  unfold sendAck; try dsimp only
  repeat' (with_reducible first | assumption | intro _ | apply inProgress_calm | apply endTxn_calm | apply send_calm | apply Calm.ite | apply CalmO.ite | apply CalmO.next | split | apply Calm.mk | refine Calm.pair ?_ rfl rfl)

theorem perLost_calm (r : ℕ) (t : Txn) {s0 s : State} (hc0 : Calm s0 s) :
    Calm s0 (perLost r t s) := by
  unfold perLost; try dsimp only
  repeat' (with_reducible first | assumption | intro _ | apply modPstate_calm | apply perService_calm | apply Calm.ite | apply CalmO.ite | apply CalmO.next | split | apply Calm.mk | refine Calm.pair ?_ rfl rfl)

theorem perFailed_calm (r : ℕ) (t : Txn) {s0 s : State} (hc0 : Calm s0 s) :
    Calm s0 (perFailed r t s) := by
  unfold perFailed; try dsimp only
  repeat' (with_reducible first | assumption | intro _ | apply perLost_calm | apply decide__calm | apply Calm.ite | apply CalmO.ite | apply CalmO.next | split | apply Calm.mk | refine Calm.pair ?_ rfl rfl)

theorem failedTry_calm (p : ℕ) (code : ℕ) (b14 : ℕ) {s0 s : State} (hc0 : Calm s0 s) :
    Calm s0 (failedTry p code b14 s) := by
  unfold failedTry; try dsimp only
  repeat' (with_reducible first | assumption | intro _ | apply goOn_calm | apply splitOver_calm | apply countErr_calm | apply perFailed_calm | apply Calm.ite | apply CalmO.ite | apply CalmO.next | split | apply Calm.mk | refine Calm.pair ?_ rfl rfl)

theorem babble_calm (p : ℕ) {s0 s : State} (hc0 : Calm s0 s) :
    Calm s0 (babble p s) := by
  unfold babble; try dsimp only
  repeat' (with_reducible first | assumption | intro _ | apply conclude_calm | apply modPort_calm | apply Calm.ite | apply CalmO.ite | apply CalmO.next | split | apply Calm.mk | refine Calm.pair ?_ rfl rfl)

theorem lateBabble_calm (p : ℕ) (t : Txn) {s0 s : State} (hc0 : Calm s0 s) :
    Calm s0 (lateBabble p t s) := by
  unfold lateBabble; try dsimp only
  repeat' (with_reducible first | assumption | intro _ | apply overrideItem_calm | apply modPort_calm | apply Calm.ite | apply CalmO.ite | apply CalmO.next | split | apply Calm.mk | refine Calm.pair ?_ rfl rfl)

theorem lineQuiet_calm (p : ℕ) {s0 s : State} (hc0 : Calm s0 s) :
    Calm s0 (lineQuiet p s) := by
  unfold lineQuiet; try dsimp only
  repeat' (with_reducible first | assumption | intro _ | apply modPort_calm | apply runLane_calm | apply Calm.ite | apply CalmO.ite | apply CalmO.next | split | apply Calm.mk | refine Calm.pair ?_ rfl rfl)

theorem countCheck_calm (p : ℕ) {s0 s : State} (hc0 : Calm s0 s) :
    Calm s0 (countCheck p s) := by
  unfold countCheck; try dsimp only
  repeat' (with_reducible first | assumption | intro _ | apply modPort_calm | apply Calm.ite | apply CalmO.ite | apply CalmO.next | split | apply Calm.mk | refine Calm.pair ?_ rfl rfl)

theorem badPacket_calm (p : ℕ) (last : Bool) {s0 s : State} (hc0 : Calm s0 s) :
    Calm s0 (badPacket p last s) := by
  unfold badPacket; try dsimp only
  repeat' (with_reducible first | assumption | intro _ | apply failedTry_calm | apply endBurst_calm | apply modTxn_calm | apply lineQuiet_calm | apply Calm.ite | apply CalmO.ite | apply CalmO.next | split | apply Calm.mk | refine Calm.pair ?_ rfl rfl)

theorem lineFails_calm (p : ℕ) {s0 s : State} (hc0 : Calm s0 s) :
    Calm s0 (lineFails p s) := by
  unfold lineFails; try dsimp only
  repeat' (with_reducible first | assumption | intro _ | apply failedTry_calm | apply report_calm | apply inProgress_calm | apply endTxn_calm | apply Calm.ite | apply CalmO.ite | apply CalmO.next | split | apply Calm.mk | refine Calm.pair ?_ rfl rfl)

theorem goodData_calm (p : ℕ) (t : Txn) (h : Hdr) (payload : List Byte) {s0 s : State} (hc0 : Calm s0 s) :
    Calm s0 (goodData p t h payload s) := by
  unfold goodData; try dsimp only
  repeat' (with_reducible first | assumption | intro _ | apply modTxn_calm | apply storeBulk_calm | apply storeEvt_calm | apply storePer_calm | apply Calm.ite | apply CalmO.ite | apply CalmO.next | split | apply Calm.mk | refine Calm.pair ?_ rfl rfl)

theorem dataPacket_calm (p : ℕ) (h : Hdr) (payload : List Byte) (crc : U32) (overrun : Bool) {s0 s : State} (hc0 : Calm s0 s) :
    Calm s0 (dataPacket p h payload crc overrun s) := by
  unfold dataPacket; try dsimp only
  repeat' (with_reducible first | assumption | intro _ | apply endBurst_calm | apply goodData_calm | apply modTxn_calm | apply countCheck_calm | apply badPacket_calm | apply babble_calm | apply lineQuiet_calm | apply lateBabble_calm | apply Calm.ite | apply CalmO.ite | apply CalmO.next | split | apply Calm.mk | refine Calm.pair ?_ rfl rfl)

theorem handshake_calm (p : ℕ) (h : Hdr) (f : Txn → State → State) {s0 s : State} (hf : ∀ v0 v1, Calm s0 v1 → Calm s0 (f v0 v1)) (hc0 : Calm s0 s) :
    Calm s0 (handshake p h f s) := by
  unfold handshake; try dsimp only
  repeat' (with_reducible first | assumption | intro _ | apply hf | apply countCheck_calm | apply badPacket_calm | apply lineQuiet_calm | apply Calm.ite | apply CalmO.ite | apply CalmO.next | split | apply Calm.mk | refine Calm.pair ?_ rfl rfl)

theorem outProgress_calm (t : Txn) (i : ℕ) (n : ℕ) (x : Item) (q : BitVec 5) {s0 s : State} (hc0 : Calm s0 s) :
    Calm s0 (outProgress t i n x q s) := by
  unfold outProgress; try dsimp only
  repeat' (with_reducible first | assumption | intro _ | apply decideItem_calm | apply nextStage_calm | apply modItem_calm | apply ctrlDone_calm | apply setTxnSeq_calm | apply setErrs_calm | apply Calm.ite | apply CalmO.ite | apply CalmO.next | split | apply Calm.mk | refine Calm.pair ?_ rfl rfl)

theorem ackPacket_calm (p : ℕ) (h : Hdr) {s0 s : State} (hc0 : Calm s0 s) :
    Calm s0 (ackPacket p h s) := by
  unfold ackPacket; try dsimp only
  repeat' (with_reducible first | assumption | intro _ | apply splitOver_calm | apply decideItem_calm | apply failedTry_calm | apply outProgress_calm | apply setTxnSeq_calm | apply modItem_calm | apply modPstate_calm | apply setupDone_calm | apply goOnSeq_calm | apply handshake_calm | apply Calm.ite | apply CalmO.ite | apply CalmO.next | split | apply Calm.mk | refine Calm.pair ?_ rfl rfl)

theorem nakPacket_calm (p : ℕ) (h : Hdr) {s0 s : State} (hc0 : Calm s0 s) :
    Calm s0 (nakPacket p h s) := by
  unfold nakPacket; try dsimp only
  repeat' (with_reducible first | assumption | intro _ | apply setErrs_calm | apply splitOver_calm | apply modItem_calm | apply decideItem_calm | apply rebindEvent_calm | apply perLost_calm | apply goOn_calm | apply failedTry_calm | apply handshake_calm | apply Calm.ite | apply CalmO.ite | apply CalmO.next | split | apply Calm.mk | refine Calm.pair ?_ rfl rfl)

theorem stallPacket_calm (p : ℕ) (h : Hdr) {s0 s : State} (hc0 : Calm s0 s) :
    Calm s0 (stallPacket p h s) := by
  unfold stallPacket; try dsimp only
  repeat' (with_reducible first | assumption | intro _ | apply markHalted_calm | apply goOn_calm | apply decide__calm | apply splitOver_calm | apply failedTry_calm | apply handshake_calm | apply Calm.ite | apply CalmO.ite | apply CalmO.next | split | apply Calm.mk | refine Calm.pair ?_ rfl rfl)

theorem nyetPacket_calm (p : ℕ) (h : Hdr) {s0 s : State} (hc0 : Calm s0 s) :
    Calm s0 (nyetPacket p h s) := by
  unfold nyetPacket; try dsimp only
  repeat' (with_reducible first | assumption | intro _ | apply modPstate_calm | apply decide__calm | apply goOn_calm | apply modItem_calm | apply failedTry_calm | apply handshake_calm | apply Calm.ite | apply CalmO.ite | apply CalmO.next | split | apply Calm.mk | refine Calm.pair ?_ rfl rfl)

theorem errPacket_calm (p : ℕ) (h : Hdr) {s0 s : State} (hc0 : Calm s0 s) :
    Calm s0 (errPacket p h s) := by
  unfold errPacket; try dsimp only
  repeat' (with_reducible first | assumption | intro _ | apply failedTry_calm | apply endBurst_calm | apply perLost_calm | apply decide__calm | apply goOn_calm | apply countCheck_calm | apply badPacket_calm | apply handshake_calm | apply Calm.ite | apply CalmO.ite | apply CalmO.next | split | apply Calm.mk | refine Calm.pair ?_ rfl rfl)

theorem execDataPacket_calm (p : PortId) (h : Hdr) (payload : List Byte) (crc : U32) (overrun : Bool) {s0 s : State} (hc0 : Calm s0 s) :
    CalmO s0 (execDataPacket p h payload crc overrun s) := by
  unfold execDataPacket; try dsimp only
  repeat' (with_reducible first | assumption | intro _ | apply dataPacket_calm | apply guarded_calm | apply Calm.ite | apply CalmO.ite | apply CalmO.next | split | apply Calm.mk | refine Calm.pair ?_ rfl rfl)

theorem execAck_calm (p : PortId) (h : Hdr) {s0 s : State} (hc0 : Calm s0 s) :
    CalmO s0 (execAck p h s) := by
  unfold execAck; try dsimp only
  repeat' (with_reducible first | assumption | intro _ | apply ackPacket_calm | apply guarded_calm | apply Calm.ite | apply CalmO.ite | apply CalmO.next | split | apply Calm.mk | refine Calm.pair ?_ rfl rfl)

theorem execNak_calm (p : PortId) (h : Hdr) {s0 s : State} (hc0 : Calm s0 s) :
    CalmO s0 (execNak p h s) := by
  unfold execNak; try dsimp only
  repeat' (with_reducible first | assumption | intro _ | apply nakPacket_calm | apply guarded_calm | apply Calm.ite | apply CalmO.ite | apply CalmO.next | split | apply Calm.mk | refine Calm.pair ?_ rfl rfl)

theorem execStall_calm (p : PortId) (h : Hdr) {s0 s : State} (hc0 : Calm s0 s) :
    CalmO s0 (execStall p h s) := by
  unfold execStall; try dsimp only
  repeat' (with_reducible first | assumption | intro _ | apply stallPacket_calm | apply guarded_calm | apply Calm.ite | apply CalmO.ite | apply CalmO.next | split | apply Calm.mk | refine Calm.pair ?_ rfl rfl)

theorem execNyet_calm (p : PortId) (h : Hdr) {s0 s : State} (hc0 : Calm s0 s) :
    CalmO s0 (execNyet p h s) := by
  unfold execNyet; try dsimp only
  repeat' (with_reducible first | assumption | intro _ | apply countCheck_calm | apply badPacket_calm | apply nyetPacket_calm | apply guarded_calm | apply Calm.ite | apply CalmO.ite | apply CalmO.next | split | apply Calm.mk | refine Calm.pair ?_ rfl rfl)

theorem execErr_calm (p : PortId) (h : Hdr) {s0 s : State} (hc0 : Calm s0 s) :
    CalmO s0 (execErr p h s) := by
  unfold execErr; try dsimp only
  repeat' (with_reducible first | assumption | intro _ | apply errPacket_calm | apply guarded_calm | apply Calm.ite | apply CalmO.ite | apply CalmO.next | split | apply Calm.mk | refine Calm.pair ?_ rfl rfl)

theorem execDiscardedPacket_calm (p : PortId) {s0 s : State} (hc0 : Calm s0 s) :
    CalmO s0 (execDiscardedPacket p s) := by
  unfold execDiscardedPacket; try dsimp only
  repeat' (with_reducible first | assumption | intro _ | apply countCheck_calm | apply badPacket_calm | apply guarded_calm | apply Calm.ite | apply CalmO.ite | apply CalmO.next | split | apply Calm.mk | refine Calm.pair ?_ rfl rfl)

theorem execResponseTimeout_calm (p : PortId) (driven : Bool) {s0 s : State} (hc0 : Calm s0 s) :
    CalmO s0 (execResponseTimeout p driven s) := by
  unfold execResponseTimeout; try dsimp only
  repeat' (with_reducible first | assumption | intro _ | apply report_calm | apply modPort_calm | apply failedTry_calm | apply guarded_calm | apply Calm.ite | apply CalmO.ite | apply CalmO.next | split | apply Calm.mk | refine Calm.pair ?_ rfl rfl)

theorem execBurstGapExpiry_calm (p : PortId) {s0 s : State} (hc0 : Calm s0 s) :
    CalmO s0 (execBurstGapExpiry p s) := by
  unfold execBurstGapExpiry; try dsimp only
  repeat' (with_reducible first | assumption | intro _ | apply endBurst_calm | apply guarded_calm | apply Calm.ite | apply CalmO.ite | apply CalmO.next | split | apply Calm.mk | refine Calm.pair ?_ rfl rfl)

theorem execControlTimeLimit_calm (item : ℕ) {s0 s : State} (hc0 : Calm s0 s) :
    CalmO s0 (execControlTimeLimit item s) := by
  unfold execControlTimeLimit; try dsimp only
  repeat' (with_reducible first | assumption | intro _ | apply stopItem_calm | apply begun_calm | apply guarded_calm | apply Calm.ite | apply CalmO.ite | apply CalmO.next | split | apply Calm.mk | refine Calm.pair ?_ rfl rfl)

theorem sendSof_calm (p : ℕ) {s0 s : State} (hc0 : Calm s0 s) :
    Calm s0 (sendSof p s) := by
  unfold sendSof; try dsimp only
  repeat' (with_reducible first | assumption | intro _ | apply send_calm | apply Calm.ite | apply CalmO.ite | apply CalmO.next | split | apply Calm.mk | refine Calm.pair ?_ rfl rfl)

theorem execSofDeferredSend_calm (p : PortId) {s0 s : State} (hc0 : Calm s0 s) :
    CalmO s0 (execSofDeferredSend p s) := by
  unfold execSofDeferredSend; try dsimp only
  repeat' (with_reducible first | assumption | intro _ | apply runLane_calm | apply send_calm | apply sendSof_calm | apply modPort_calm | apply guarded_calm | apply Calm.ite | apply CalmO.ite | apply CalmO.next | split | apply Calm.mk | refine Calm.pair ?_ rfl rfl)

theorem execSofHoldLimit_calm (p : PortId) {s0 s : State} (hc0 : Calm s0 s) :
    CalmO s0 (execSofHoldLimit p s) := by
  unfold execSofHoldLimit; try dsimp only
  repeat' (with_reducible first | assumption | intro _ | apply babbleDisable_calm | apply guarded_calm | apply Calm.ite | apply CalmO.ite | apply CalmO.next | split | apply Calm.mk | refine Calm.pair ?_ rfl rfl)

end Sys2Proof.Machine
end

