-- ==== Sys2Proof/Laws/CalmRows.lean ====
section
/-! SUPPORT. What no operation of the block touches, continued: the operations of links, topology, timebase, axes, engines, scripts, buffers and functions. -/

set_option linter.unusedTactic false
set_option linter.unreachableTactic false

namespace Sys2Proof.Machine

set_option Elab.async false

theorem sendCmd_calm (p : ℕ) (code : ℕ) {s0 s : State} (hc0 : Calm s0 s) :
    Calm s0 (sendCmd p code s) := by
  unfold sendCmd; try dsimp only
  repeat' (with_reducible first | assumption | intro _ | apply modPort_calm | apply sendLink_calm | apply Calm.ite | apply CalmO.ite | apply CalmO.next | split | apply Calm.mk | refine Calm.pair ?_ rfl rfl)

theorem replied_calm (p : ℕ) (code : ℕ) {s0 s : State} (hc0 : Calm s0 s) :
    Calm s0 (replied p code s) := by
  unfold replied; try dsimp only
  repeat' (with_reducible first | assumption | intro _ | apply modPort_calm | apply Calm.ite | apply CalmO.ite | apply CalmO.next | split | apply Calm.mk | refine Calm.pair ?_ rfl rfl)

theorem linkRecovery_calm (p : ℕ) {s0 s : State} (hc0 : Calm s0 s) :
    Calm s0 (linkRecovery p s) := by
  unfold linkRecovery; try dsimp only
  repeat' (with_reducible first | assumption | intro _ | apply modPort_calm | apply emit_calm | apply lineFails_calm | apply Calm.ite | apply CalmO.ite | apply CalmO.next | split | apply Calm.mk | refine Calm.pair ?_ rfl rfl)

theorem linkActive_calm (p : ℕ) {s0 s : State} (hc0 : Calm s0 s) :
    Calm s0 (linkActive p s) := by
  unfold linkActive; try dsimp only
  repeat' (with_reducible first | assumption | intro _ | apply enterRecovery_calm | apply modPort_calm | apply Calm.ite | apply CalmO.ite | apply CalmO.next | split | apply Calm.mk | refine Calm.pair ?_ rfl rfl)

theorem configDone_calm (p : ℕ) {s0 s : State} (hc0 : Calm s0 s) :
    Calm s0 (configDone p s) := by
  unfold configDone; try dsimp only
  repeat' (with_reducible first | assumption | intro _ | apply linkActive_calm | apply Calm.ite | apply CalmO.ite | apply CalmO.next | split | apply Calm.mk | refine Calm.pair ?_ rfl rfl)

theorem capsDone_calm (p : ℕ) {s0 s : State} (hc0 : Calm s0 s) :
    Calm s0 (capsDone p s) := by
  unfold capsDone; try dsimp only
  repeat' (with_reducible first | assumption | intro _ | apply sendCmd_calm | apply configDone_calm | apply modPort_calm | apply emit_calm | apply Calm.ite | apply CalmO.ite | apply CalmO.next | split | apply Calm.mk | refine Calm.pair ?_ rfl rfl)

theorem execTrainCap_calm (p : PortId) (param : BitVec 11) {s0 s : State} (hc0 : Calm s0 s) :
    CalmO s0 (execTrainCap p param s) := by
  unfold execTrainCap; try dsimp only
  repeat' (with_reducible first | assumption | intro _ | apply modPort_calm | apply replied_calm | apply capsDone_calm | apply sendLink_calm | apply guarded_calm | apply Calm.ite | apply CalmO.ite | apply CalmO.next | split | apply Calm.mk | refine Calm.pair ?_ rfl rfl)

theorem execTrainDone_calm (p : PortId) {s0 s : State} (hc0 : Calm s0 s) :
    CalmO s0 (execTrainDone p s) := by
  unfold execTrainDone; try dsimp only
  repeat' (with_reducible first | assumption | intro _ | apply modPort_calm | apply replied_calm | apply configDone_calm | apply sendLink_calm | apply guarded_calm | apply Calm.ite | apply CalmO.ite | apply CalmO.next | split | apply Calm.mk | refine Calm.pair ?_ rfl rfl)

theorem execLpEnter_calm (p : PortId) {s0 s : State} (hc0 : Calm s0 s) :
    CalmO s0 (execLpEnter p s) := by
  unfold execLpEnter; try dsimp only
  repeat' (with_reducible first | assumption | intro _ | apply modPort_calm | apply emit_calm | apply sendLink_calm | apply guarded_calm | apply Calm.ite | apply CalmO.ite | apply CalmO.next | split | apply Calm.mk | refine Calm.pair ?_ rfl rfl)

theorem execLpAccept_calm (p : PortId) {s0 s : State} (hc0 : Calm s0 s) :
    CalmO s0 (execLpAccept p s) := by
  unfold execLpAccept; try dsimp only
  repeat' (with_reducible first | assumption | intro _ | apply modPort_calm | apply emit_calm | apply guarded_calm | apply Calm.ite | apply CalmO.ite | apply CalmO.next | split | apply Calm.mk | refine Calm.pair ?_ rfl rfl)

theorem execLpReject_calm (p : PortId) {s0 s : State} (hc0 : Calm s0 s) :
    CalmO s0 (execLpReject p s) := by
  unfold execLpReject; try dsimp only
  repeat' (with_reducible first | assumption | intro _ | apply modPort_calm | apply guarded_calm | apply Calm.ite | apply CalmO.ite | apply CalmO.next | split | apply Calm.mk | refine Calm.pair ?_ rfl rfl)

theorem execWake_calm (p : PortId) {s0 s : State} (hc0 : Calm s0 s) :
    CalmO s0 (execWake p s) := by
  unfold execWake; try dsimp only
  repeat' (with_reducible first | assumption | intro _ | apply sendLink_calm | apply guarded_calm | apply Calm.ite | apply CalmO.ite | apply CalmO.next | split | apply Calm.mk | refine Calm.pair ?_ rfl rfl)

theorem execWakeAck_calm (p : PortId) {s0 s : State} (hc0 : Calm s0 s) :
    CalmO s0 (execWakeAck p s) := by
  unfold execWakeAck; try dsimp only
  repeat' (with_reducible first | assumption | intro _ | apply replied_calm | apply guarded_calm | apply Calm.ite | apply CalmO.ite | apply CalmO.next | split | apply Calm.mk | refine Calm.pair ?_ rfl rfl)

theorem execLinkCmdTimeout_calm (p : PortId) {s0 s : State} (hc0 : Calm s0 s) :
    CalmO s0 (execLinkCmdTimeout p s) := by
  unfold execLinkCmdTimeout; try dsimp only
  repeat' (with_reducible first | assumption | intro _ | apply linkRecovery_calm | apply modPort_calm | apply sendLink_calm | apply guarded_calm | apply Calm.ite | apply CalmO.ite | apply CalmO.next | split | apply Calm.mk | refine Calm.pair ?_ rfl rfl)

theorem execDetectPulse_calm (p : PortId) {s0 s : State} (hc0 : Calm s0 s) :
    CalmO s0 (execDetectPulse p s) := by
  unfold execDetectPulse; try dsimp only
  repeat' (with_reducible first | assumption | intro _ | apply emit_calm | apply detect_calm | apply guarded_calm | apply Calm.ite | apply CalmO.ite | apply CalmO.next | split | apply Calm.mk | refine Calm.pair ?_ rfl rfl)

theorem execFarEndTermination_calm (p : PortId) {s0 s : State} (hc0 : Calm s0 s) :
    CalmO s0 (execFarEndTermination p s) := by
  unfold execFarEndTermination; try dsimp only
  repeat' (with_reducible first | assumption | intro _ | apply debounceRoot_calm | apply emit_calm | apply detect_calm | apply modPort_calm | apply guarded_calm | apply Calm.ite | apply CalmO.ite | apply CalmO.next | split | apply Calm.mk | refine Calm.pair ?_ rfl rfl)

theorem execTrainingSetLock_calm (p : PortId) {s0 s : State} (hc0 : Calm s0 s) :
    CalmO s0 (execTrainingSetLock p s) := by
  unfold execTrainingSetLock; try dsimp only
  repeat' (with_reducible first | assumption | intro _ | apply linkActive_calm | apply modPort_calm | apply sendCmd_calm | apply guarded_calm | apply Calm.ite | apply CalmO.ite | apply CalmO.next | split | apply Calm.mk | refine Calm.pair ?_ rfl rfl)

theorem execRecoveryTimeout_calm (p : PortId) {s0 s : State} (hc0 : Calm s0 s) :
    CalmO s0 (execRecoveryTimeout p s) := by
  unfold execRecoveryTimeout; try dsimp only
  repeat' (with_reducible first | assumption | intro _ | apply modPort_calm | apply trainingFailed_calm | apply guarded_calm | apply Calm.ite | apply CalmO.ite | apply CalmO.next | split | apply Calm.mk | refine Calm.pair ?_ rfl rfl)

theorem execLinkErrorLimit_calm (p : PortId) {s0 s : State} (hc0 : Calm s0 s) :
    CalmO s0 (execLinkErrorLimit p s) := by
  unfold execLinkErrorLimit; try dsimp only
  repeat' (with_reducible first | assumption | intro _ | apply modPort_calm | apply linkRecovery_calm | apply guarded_calm | apply Calm.ite | apply CalmO.ite | apply CalmO.next | split | apply Calm.mk | refine Calm.pair ?_ rfl rfl)

theorem execWakeTone_calm (p : PortId) {s0 s : State} (hc0 : Calm s0 s) :
    CalmO s0 (execWakeTone p s) := by
  unfold execWakeTone; try dsimp only
  repeat' (with_reducible first | assumption | intro _ | apply modPort_calm | apply linkRecovery_calm | apply guarded_calm | apply Calm.ite | apply CalmO.ite | apply CalmO.next | split | apply Calm.mk | refine Calm.pair ?_ rfl rfl)

theorem execSuspendSilenceExpiry_calm (p : PortId) {s0 s : State} (hc0 : Calm s0 s) :
    CalmO s0 (execSuspendSilenceExpiry p s) := by
  unfold execSuspendSilenceExpiry; try dsimp only
  repeat' (with_reducible first | assumption | intro _ | apply modPort_calm | apply sendCmd_calm | apply guarded_calm | apply Calm.ite | apply CalmO.ite | apply CalmO.next | split | apply Calm.mk | refine Calm.pair ?_ rfl rfl)

theorem execLegacyBiasLoss_calm (p : PortId) {s0 s : State} (hc0 : Calm s0 s) :
    CalmO s0 (execLegacyBiasLoss p s) := by
  unfold execLegacyBiasLoss; try dsimp only
  repeat' (with_reducible first | assumption | intro _ | apply modPort_calm | apply disconnect_calm | apply guarded_calm | apply Calm.ite | apply CalmO.ite | apply CalmO.next | split | apply Calm.mk | refine Calm.pair ?_ rfl rfl)

theorem execLinkDisconnectTimeout_calm (p : PortId) {s0 s : State} (hc0 : Calm s0 s) :
    CalmO s0 (execLinkDisconnectTimeout p s) := by
  unfold execLinkDisconnectTimeout; try dsimp only
  repeat' (with_reducible first | assumption | intro _ | apply disconnect_calm | apply detect_calm | apply guarded_calm | apply Calm.ite | apply CalmO.ite | apply CalmO.next | split | apply Calm.mk | refine Calm.pair ?_ rfl rfl)

theorem writeReport_calm (r : Report) (rest : List Report) {s0 s : State} (hc0 : Calm s0 s) :
    Calm s0 (writeReport r rest s) := by
  unfold writeReport; try dsimp only
  repeat' (with_reducible first | assumption | intro _ | apply releaseHeld_calm | apply answerTopo_calm | apply modDev_calm | apply postOut_calm | apply freshIndex_calm | apply hostWrite_calm | apply Calm.ite | apply CalmO.ite | apply CalmO.next | split | apply Calm.mk | refine Calm.pair ?_ rfl rfl)

theorem execReportRecordWrite_calm {s0 s : State} (hc0 : Calm s0 s) :
    CalmO s0 (execReportRecordWrite s) := by
  unfold execReportRecordWrite; try dsimp only
  repeat' (with_reducible first | assumption | intro _ | apply writeReport_calm | apply guarded_calm | apply Calm.ite | apply CalmO.ite | apply CalmO.next | split | apply Calm.mk | refine Calm.pair ?_ rfl rfl)

theorem topoRingWrite_calm (v : U32) {s0 s : State} (hc0 : Calm s0 s) :
    Calm s0 (topoRingWrite v s) := by
  unfold topoRingWrite; try dsimp only
  repeat' (with_reducible first | assumption | intro _ | apply raiseQ_calm | apply Calm.ite | apply CalmO.ite | apply CalmO.next | split | apply Calm.mk | refine Calm.pair ?_ rfl rfl)

theorem execTopoRingWrite_calm (value : U32) {s0 s : State} (hc0 : Calm s0 s) :
    CalmO s0 (execTopoRingWrite value s) := by
  unfold execTopoRingWrite; try dsimp only
  repeat' (with_reducible first | assumption | intro _ | apply topoRingWrite_calm | apply guarded_calm | apply Calm.ite | apply CalmO.ite | apply CalmO.next | split | apply Calm.mk | refine Calm.pair ?_ rfl rfl)

theorem topoBaseWrite_calm (v : U64) {s0 s : State} (hc0 : Calm s0 s) :
    Calm s0 (topoBaseWrite v s) := by
  unfold topoBaseWrite; try dsimp only
  repeat' (with_reducible first | assumption | intro _ | apply raiseQ_calm | apply Calm.ite | apply CalmO.ite | apply CalmO.next | split | apply Calm.mk | refine Calm.pair ?_ rfl rfl)

theorem execTopoBaseWrite_calm (value : U64) {s0 s : State} (hc0 : Calm s0 s) :
    CalmO s0 (execTopoBaseWrite value s) := by
  unfold execTopoBaseWrite; try dsimp only
  repeat' (with_reducible first | assumption | intro _ | apply topoBaseWrite_calm | apply guarded_calm | apply Calm.ite | apply CalmO.ite | apply CalmO.next | split | apply Calm.mk | refine Calm.pair ?_ rfl rfl)

theorem parkAborts_calm (at_ : Loc) (ids : List ℕ) {s0 s : State} (hc0 : Calm s0 s) :
    Calm s0 (parkAborts at_ ids s) := by
  unfold parkAborts; try dsimp only
  repeat' (with_reducible first | assumption | intro _ | apply modItem_calm | apply each_calm | apply Calm.ite | apply CalmO.ite | apply CalmO.next | split | apply Calm.mk | refine Calm.pair ?_ rfl rfl)

theorem dropBelow_calm (at_ : Loc) {s0 s : State} (hc0 : Calm s0 s) :
    Calm s0 (dropBelow at_ s) := by
  unfold dropBelow; try dsimp only
  repeat' (with_reducible first | assumption | intro _ | apply answerTopo_calm | apply Calm.ite | apply CalmO.ite | apply CalmO.next | split | apply Calm.mk | refine Calm.pair ?_ rfl rfl)

theorem portResetOp_calm (at_ : Loc) {s0 s : State} (hc0 : Calm s0 s) :
    Calm s0 (portResetOp at_ s) := by
  unfold portResetOp; try dsimp only
  repeat' (with_reducible first | assumption | intro _ | apply modHubPort_calm | apply queueHub_calm | apply modPort_calm | apply startRootReset_calm | apply dropBelow_calm | apply tearDown_calm | apply parkAborts_calm | apply Calm.ite | apply CalmO.ite | apply CalmO.next | split | apply Calm.mk | refine Calm.pair ?_ rfl rfl)

theorem execPortReset_calm (p : PortId) {s0 s : State} (hc0 : Calm s0 s) :
    CalmO s0 (execPortReset p s) := by
  unfold execPortReset; try dsimp only
  repeat' (with_reducible first | assumption | intro _ | apply portResetOp_calm | apply guarded_calm | apply Calm.ite | apply CalmO.ite | apply CalmO.next | split | apply Calm.mk | refine Calm.pair ?_ rfl rfl)

theorem execPortDisable_calm (p : PortId) {s0 s : State} (hc0 : Calm s0 s) :
    CalmO s0 (execPortDisable p s) := by
  unfold execPortDisable; try dsimp only
  repeat' (with_reducible first | assumption | intro _ | apply disablePort_calm | apply modPort_calm | apply guarded_calm | apply Calm.ite | apply CalmO.ite | apply CalmO.next | split | apply Calm.mk | refine Calm.pair ?_ rfl rfl)

theorem portEnableOp_calm (p : PortId) {s0 s : State} (hc0 : Calm s0 s) :
    Calm s0 (portEnableOp p s) := by
  unfold portEnableOp; try dsimp only
  repeat' (with_reducible first | assumption | intro _ | apply modPort_calm | apply debounceRoot_calm | apply Calm.ite | apply CalmO.ite | apply CalmO.next | split | apply Calm.mk | refine Calm.pair ?_ rfl rfl)

theorem execPortEnable_calm (p : PortId) {s0 s : State} (hc0 : Calm s0 s) :
    CalmO s0 (execPortEnable p s) := by
  unfold execPortEnable; try dsimp only
  repeat' (with_reducible first | assumption | intro _ | apply portEnableOp_calm | apply guarded_calm | apply Calm.ite | apply CalmO.ite | apply CalmO.next | split | apply Calm.mk | refine Calm.pair ?_ rfl rfl)

theorem suspendOp_calm (at_ : Loc) {s0 s : State} (hc0 : Calm s0 s) :
    Calm s0 (suspendOp at_ s) := by
  unfold suspendOp; try dsimp only
  repeat' (with_reducible first | assumption | intro _ | apply modHubPort_calm | apply setFeature_calm | apply modPort_calm | apply Calm.ite | apply CalmO.ite | apply CalmO.next | split | apply Calm.mk | refine Calm.pair ?_ rfl rfl)

theorem execPortSuspend_calm (p : PortId) {s0 s : State} (hc0 : Calm s0 s) :
    CalmO s0 (execPortSuspend p s) := by
  unfold execPortSuspend; try dsimp only
  repeat' (with_reducible first | assumption | intro _ | apply portEvent_calm | apply suspendOp_calm | apply guarded_calm | apply Calm.ite | apply CalmO.ite | apply CalmO.next | split | apply Calm.mk | refine Calm.pair ?_ rfl rfl)

theorem beginResume_calm (at_ : Loc) (byDevice : Bool) (coincident : Bool) {s0 s : State} (hc0 : Calm s0 s) :
    Calm s0 (beginResume at_ byDevice coincident s) := by
  unfold beginResume; try dsimp only
  repeat' (with_reducible first | assumption | intro _ | apply clearFeature_calm | apply modHubPort_calm | apply emit_calm | apply modPort_calm | apply Calm.ite | apply CalmO.ite | apply CalmO.next | split | apply Calm.mk | refine Calm.pair ?_ rfl rfl)

theorem mergeWake_calm (at_ : Loc) {s0 s : State} (hc0 : Calm s0 s) :
    Calm s0 (mergeWake at_ s) := by
  unfold mergeWake; try dsimp only
  repeat' (with_reducible first | assumption | intro _ | apply modHubPort_calm | apply modPort_calm | apply Calm.ite | apply CalmO.ite | apply CalmO.next | split | apply Calm.mk | refine Calm.pair ?_ rfl rfl)

theorem resumeOp_calm (at_ : Loc) {s0 s : State} (hc0 : Calm s0 s) :
    Calm s0 (resumeOp at_ s) := by
  unfold resumeOp; try dsimp only
  repeat' (with_reducible first | assumption | intro _ | apply beginResume_calm | apply mergeWake_calm | apply Calm.ite | apply CalmO.ite | apply CalmO.next | split | apply Calm.mk | refine Calm.pair ?_ rfl rfl)

theorem execPortResume_calm (p : PortId) {s0 s : State} (hc0 : Calm s0 s) :
    CalmO s0 (execPortResume p s) := by
  unfold execPortResume; try dsimp only
  repeat' (with_reducible first | assumption | intro _ | apply resumeOp_calm | apply guarded_calm | apply Calm.ite | apply CalmO.ite | apply CalmO.next | split | apply Calm.mk | refine Calm.pair ?_ rfl rfl)

theorem noteWake_calm (at_ : Loc) {s0 s : State} (hc0 : Calm s0 s) :
    Calm s0 (noteWake at_ s) := by
  unfold noteWake; try dsimp only
  repeat' (with_reducible first | assumption | intro _ | apply modHubPort_calm | apply modPort_calm | apply Calm.ite | apply CalmO.ite | apply CalmO.next | split | apply Calm.mk | refine Calm.pair ?_ rfl rfl)

theorem execRemoteWakeDetect_calm (at_ : Loc) {s0 s : State} (hc0 : Calm s0 s) :
    CalmO s0 (execRemoteWakeDetect at_ s) := by
  unfold execRemoteWakeDetect; try dsimp only
  repeat' (with_reducible first | assumption | intro _ | apply beginResume_calm | apply mergeWake_calm | apply noteWake_calm | apply startWake_calm | apply guarded_calm | apply Calm.ite | apply CalmO.ite | apply CalmO.next | split | apply Calm.mk | refine Calm.pair ?_ rfl rfl)

theorem execHostResumeEnd_calm (at_ : Loc) {s0 s : State} (hc0 : Calm s0 s) :
    CalmO s0 (execHostResumeEnd at_ s) := by
  unfold execHostResumeEnd; try dsimp only
  repeat' (with_reducible first | assumption | intro _ | apply modHubPort_calm | apply linkRecovery_calm | apply modPort_calm | apply guarded_calm | apply Calm.ite | apply CalmO.ite | apply CalmO.next | split | apply Calm.mk | refine Calm.pair ?_ rfl rfl)

theorem topoAnswer_calm (ctx : CmdCtx) (code : ℕ) (b : TopoBody) (res : ℕ) {s0 s : State} (hc0 : Calm s0 s) :
    Calm s0 (topoAnswer ctx code b res s) := by
  unfold topoAnswer; try dsimp only
  repeat' (with_reducible first | assumption | intro _ | apply reply_calm | apply Calm.ite | apply CalmO.ite | apply CalmO.next | split | apply Calm.mk | refine Calm.pair ?_ rfl rfl)

theorem topoWaits_calm (ctx : CmdCtx) (code : ℕ) (b : TopoBody) (w : TopoWait) (reports : ℕ) {s0 s : State} (hc0 : Calm s0 s) :
    Calm s0 (topoWaits ctx code b w reports s) := by
  unfold topoWaits; try dsimp only
  repeat' (with_reducible first | assumption | intro _ | apply Calm.ite | apply CalmO.ite | apply CalmO.next | split | apply Calm.mk | refine Calm.pair ?_ rfl rfl)

theorem topoAt_calm (ctx : CmdCtx) (code : ℕ) (b : TopoBody) (f : Loc → State → State) {s0 s : State} (hf : ∀ v0 v1, Calm s0 v1 → Calm s0 (f v0 v1)) (hc0 : Calm s0 s) :
    Calm s0 (topoAt ctx code b f s) := by
  unfold topoAt; try dsimp only
  repeat' (with_reducible first | assumption | intro _ | apply hf | apply topoAnswer_calm | apply begun_calm | apply Calm.ite | apply CalmO.ite | apply CalmO.next | split | apply Calm.mk | refine Calm.pair ?_ rfl rfl)

theorem topoPortResetOp_calm (ctx : CmdCtx) (b : TopoBody) {s0 a2 : State} (hc0 : Calm s0 a2) :
    Calm s0 (topoPortResetOp ctx b a2) := by
  unfold topoPortResetOp; try dsimp only
  repeat' (with_reducible first | assumption | intro _ | apply topoWaits_calm | apply portResetOp_calm | apply topoAnswer_calm | apply topoAt_calm | apply Calm.ite | apply CalmO.ite | apply CalmO.next | split | apply Calm.mk | refine Calm.pair ?_ rfl rfl)

theorem topoDeviceResetOp_calm (ctx : CmdCtx) (b : TopoBody) {s0 s : State} (hc0 : Calm s0 s) :
    Calm s0 (topoDeviceResetOp ctx b s) := by
  unfold topoDeviceResetOp; try dsimp only
  repeat' (with_reducible first | assumption | intro _ | apply queueHub_calm | apply startRootReset_calm | apply dropRes_calm | apply shutEps_calm | apply endDevice_calm | apply parkAborts_calm | apply topoWaits_calm | apply answerTopo_calm | apply topoAnswer_calm | apply begun_calm | apply Calm.ite | apply CalmO.ite | apply CalmO.next | split | apply Calm.mk | refine Calm.pair ?_ rfl rfl)

theorem topoPortSuspendOp_calm (ctx : CmdCtx) (b : TopoBody) {s0 a2 : State} (hc0 : Calm s0 a2) :
    Calm s0 (topoPortSuspendOp ctx b a2) := by
  unfold topoPortSuspendOp; try dsimp only
  repeat' (with_reducible first | assumption | intro _ | apply portEvent_calm | apply suspendOp_calm | apply topoAnswer_calm | apply topoAt_calm | apply Calm.ite | apply CalmO.ite | apply CalmO.next | split | apply Calm.mk | refine Calm.pair ?_ rfl rfl)

theorem topoPortResumeOp_calm (ctx : CmdCtx) (b : TopoBody) {s0 a2 : State} (hc0 : Calm s0 a2) :
    Calm s0 (topoPortResumeOp ctx b a2) := by
  unfold topoPortResumeOp; try dsimp only
  repeat' (with_reducible first | assumption | intro _ | apply topoWaits_calm | apply resumeOp_calm | apply topoAnswer_calm | apply topoAt_calm | apply Calm.ite | apply CalmO.ite | apply CalmO.next | split | apply Calm.mk | refine Calm.pair ?_ rfl rfl)

theorem disableAt_calm (l : Loc) {s0 s : State} (hc0 : Calm s0 s) :
    Calm s0 (disableAt l s) := by
  unfold disableAt; try dsimp only
  repeat' (with_reducible first | assumption | intro _ | apply hubPortGone_calm | apply modHubPort_calm | apply clearFeature_calm | apply disablePort_calm | apply modPort_calm | apply Calm.ite | apply CalmO.ite | apply CalmO.next | split | apply Calm.mk | refine Calm.pair ?_ rfl rfl)

theorem topoPortDisableOp_calm (ctx : CmdCtx) (b : TopoBody) {s0 a2 : State} (hc0 : Calm s0 a2) :
    Calm s0 (topoPortDisableOp ctx b a2) := by
  unfold topoPortDisableOp; try dsimp only
  repeat' (with_reducible first | assumption | intro _ | apply topoWaits_calm | apply topoAnswer_calm | apply disableAt_calm | apply topoAt_calm | apply Calm.ite | apply CalmO.ite | apply CalmO.next | split | apply Calm.mk | refine Calm.pair ?_ rfl rfl)

theorem topoBindSlotOp_calm (ctx : CmdCtx) (b : TopoBody) {s0 s : State} (hc0 : Calm s0 s) :
    Calm s0 (topoBindSlotOp ctx b s) := by
  unfold topoBindSlotOp; try dsimp only
  repeat' (with_reducible first | assumption | intro _ | apply modHubPort_calm | apply topoAnswer_calm | apply begun_calm | apply Calm.ite | apply CalmO.ite | apply CalmO.next | split | apply Calm.mk | refine Calm.pair ?_ rfl rfl)

theorem execTopoPortReset_calm (ctx : CmdCtx) (body : TopoBody) {s0 s : State} (hc0 : Calm s0 s) :
    CalmO s0 (execTopoPortReset ctx body s) := by
  unfold execTopoPortReset; try dsimp only
  repeat' (with_reducible first | assumption | intro _ | apply topoPortResetOp_calm | apply guarded_calm | apply Calm.ite | apply CalmO.ite | apply CalmO.next | split | apply Calm.mk | refine Calm.pair ?_ rfl rfl)

theorem execTopoDeviceReset_calm (ctx : CmdCtx) (body : TopoBody) {s0 s : State} (hc0 : Calm s0 s) :
    CalmO s0 (execTopoDeviceReset ctx body s) := by
  unfold execTopoDeviceReset; try dsimp only
  repeat' (with_reducible first | assumption | intro _ | apply topoDeviceResetOp_calm | apply guarded_calm | apply Calm.ite | apply CalmO.ite | apply CalmO.next | split | apply Calm.mk | refine Calm.pair ?_ rfl rfl)

theorem execTopoPortSuspend_calm (ctx : CmdCtx) (body : TopoBody) {s0 s : State} (hc0 : Calm s0 s) :
    CalmO s0 (execTopoPortSuspend ctx body s) := by
  unfold execTopoPortSuspend; try dsimp only
  repeat' (with_reducible first | assumption | intro _ | apply topoPortSuspendOp_calm | apply guarded_calm | apply Calm.ite | apply CalmO.ite | apply CalmO.next | split | apply Calm.mk | refine Calm.pair ?_ rfl rfl)

theorem execTopoPortResume_calm (ctx : CmdCtx) (body : TopoBody) {s0 s : State} (hc0 : Calm s0 s) :
    CalmO s0 (execTopoPortResume ctx body s) := by
  unfold execTopoPortResume; try dsimp only
  repeat' (with_reducible first | assumption | intro _ | apply topoPortResumeOp_calm | apply guarded_calm | apply Calm.ite | apply CalmO.ite | apply CalmO.next | split | apply Calm.mk | refine Calm.pair ?_ rfl rfl)

theorem execTopoPortDisable_calm (ctx : CmdCtx) (body : TopoBody) {s0 s : State} (hc0 : Calm s0 s) :
    CalmO s0 (execTopoPortDisable ctx body s) := by
  unfold execTopoPortDisable; try dsimp only
  repeat' (with_reducible first | assumption | intro _ | apply topoPortDisableOp_calm | apply guarded_calm | apply Calm.ite | apply CalmO.ite | apply CalmO.next | split | apply Calm.mk | refine Calm.pair ?_ rfl rfl)

theorem execTopoBindSlot_calm (ctx : CmdCtx) (body : TopoBody) {s0 s : State} (hc0 : Calm s0 s) :
    CalmO s0 (execTopoBindSlot ctx body s) := by
  unfold execTopoBindSlot; try dsimp only
  repeat' (with_reducible first | assumption | intro _ | apply topoBindSlotOp_calm | apply guarded_calm | apply Calm.ite | apply CalmO.ite | apply CalmO.next | split | apply Calm.mk | refine Calm.pair ?_ rfl rfl)

theorem raiseAx_calm (i : ℕ) (b : ℕ) {s0 s : State} (hc0 : Calm s0 s) :
    Calm s0 (raiseAx i b s) := by
  unfold raiseAx; try dsimp only
  repeat' (with_reducible first | assumption | intro _ | apply raise_calm | apply Calm.ite | apply CalmO.ite | apply CalmO.next | split | apply Calm.mk | refine Calm.pair ?_ rfl rfl)

theorem loseLock_calm (next : Lock) {s0 s : State} (hc0 : Calm s0 s) :
    Calm s0 (loseLock next s) := by
  unfold loseLock; try dsimp only
  repeat' (with_reducible first | assumption | intro _ | apply raise_calm | apply Calm.ite | apply CalmO.ite | apply CalmO.next | split | apply Calm.mk | refine Calm.pair ?_ rfl rfl)

theorem lockEval_calm (i : ℕ) (cycle : Bool) {s0 s : State} (hc0 : Calm s0 s) :
    Calm s0 (lockEval i cycle s) := by
  unfold lockEval; try dsimp only
  repeat' (with_reducible first | assumption | intro _ | apply raise_calm | apply loseLock_calm | apply Calm.ite | apply CalmO.ite | apply CalmO.next | split | apply Calm.mk | refine Calm.pair ?_ rfl rfl)

theorem lockPass_calm {s0 s : State} (hc0 : Calm s0 s) :
    Calm s0 (lockPass s) := by
  unfold lockPass; try dsimp only
  repeat' (with_reducible first | assumption | intro _ | apply lockEval_calm | apply loseLock_calm | apply raise_calm | apply Calm.ite | apply CalmO.ite | apply CalmO.next | split | apply Calm.mk | refine Calm.pair ?_ rfl rfl)

theorem execAxisLockPhasePass_calm {s0 s : State} (hc0 : Calm s0 s) :
    CalmO s0 (execAxisLockPhasePass s) := by
  unfold execAxisLockPhasePass; try dsimp only
  repeat' (with_reducible first | assumption | intro _ | apply lockPass_calm | apply guarded_calm | apply Calm.ite | apply CalmO.ite | apply CalmO.next | split | apply Calm.mk | refine Calm.pair ?_ rfl rfl)

theorem unitDone_calm (c : ℕ) {s0 s : State} (hc0 : Calm s0 s) :
    Calm s0 (unitDone c s) := by
  unfold unitDone; try dsimp only
  repeat' (with_reducible first | assumption | intro _ | apply modUnit_calm | apply Calm.ite | apply CalmO.ite | apply CalmO.next | split | apply Calm.mk | refine Calm.pair ?_ rfl rfl)

theorem unitPend_calm (c : ℕ) {s0 s : State} (hc0 : Calm s0 s) :
    Calm s0 (unitPend c s) := by
  unfold unitPend; try dsimp only
  repeat' (with_reducible first | assumption | intro _ | apply raise_calm | apply Calm.ite | apply CalmO.ite | apply CalmO.next | split | apply Calm.mk | refine Calm.pair ?_ rfl rfl)

theorem unitMiss_calm (c : ℕ) {s0 s : State} (hc0 : Calm s0 s) :
    Calm s0 (unitMiss c s) := by
  unfold unitMiss; try dsimp only
  repeat' (with_reducible first | assumption | intro _ | apply finish_calm | apply unitDone_calm | apply modUnit_calm | apply unitPend_calm | apply Calm.ite | apply CalmO.ite | apply CalmO.next | split | apply Calm.mk | refine Calm.pair ?_ rfl rfl)

theorem noteEval_calm (inside : Bool) (p : ℕ) (c : ℕ) {s0 s : State} (hc0 : Calm s0 s) :
    Calm s0 (noteEval inside p c s) := by
  unfold noteEval; try dsimp only
  repeat' (with_reducible first | assumption | intro _ | apply modUnit_calm | apply Calm.ite | apply CalmO.ite | apply CalmO.next | split | apply Calm.mk | refine Calm.pair ?_ rfl rfl)

theorem unitJump_calm (p : ℕ) (d : ℕ) (cyc : U16) (reverse : Bool) (c : ℕ) {s0 s : State} (hc0 : Calm s0 s) :
    Calm s0 (unitJump p d cyc reverse c s) := by
  unfold unitJump; try dsimp only
  repeat' (with_reducible first | assumption | intro _ | apply unitMiss_calm | apply Calm.ite | apply CalmO.ite | apply CalmO.next | split | apply Calm.mk | refine Calm.pair ?_ rfl rfl)

theorem unitSettle_calm (i : ℕ) (c : ℕ) {s0 s : State} (hc0 : Calm s0 s) :
    Calm s0 (unitSettle i c s) := by
  unfold unitSettle; try dsimp only
  repeat' (with_reducible first | assumption | intro _ | apply unitJump_calm | apply noteEval_calm | apply Calm.ite | apply CalmO.ite | apply CalmO.next | split | apply Calm.mk | refine Calm.pair ?_ rfl rfl)

theorem unitMoved_calm (p : ℕ) (q : ℕ) (d : ℕ) (cyc : U16) (reverse : Bool) (c : ℕ) {s0 s : State} (hc0 : Calm s0 s) :
    Calm s0 (unitMoved p q d cyc reverse c s) := by
  unfold unitMoved; try dsimp only
  repeat' (with_reducible first | assumption | intro _ | apply noteEval_calm | apply unitJump_calm | apply Calm.ite | apply CalmO.ite | apply CalmO.next | split | apply Calm.mk | refine Calm.pair ?_ rfl rfl)

theorem axisMoved_calm (i : ℕ) (p : ℕ) (d : ℕ) (cyc : U16) (reverse : Bool) {s0 s : State} (hc0 : Calm s0 s) :
    Calm s0 (axisMoved i p d cyc reverse s) := by
  unfold axisMoved; try dsimp only
  repeat' (with_reducible first | assumption | intro _ | apply unitMoved_calm | apply each_calm | apply Calm.ite | apply CalmO.ite | apply CalmO.next | split | apply Calm.mk | refine Calm.pair ?_ rfl rfl)

theorem stepCycle_calm (i : ℕ) (up : Bool) {s0 s : State} (hc0 : Calm s0 s) :
    Calm s0 (stepCycle i up s) := by
  unfold stepCycle; try dsimp only
  repeat' (with_reducible first | assumption | intro _ | apply raiseAx_calm | apply modAxis_calm | apply Calm.ite | apply CalmO.ite | apply CalmO.next | split | apply Calm.mk | refine Calm.pair ?_ rfl rfl)

theorem startCycle_calm (i : ℕ) {s0 s : State} (hc0 : Calm s0 s) :
    Calm s0 (startCycle i s) := by
  unfold startCycle; try dsimp only
  repeat' (with_reducible first | assumption | intro _ | apply stepCycle_calm | apply modAxis_calm | apply Calm.ite | apply CalmO.ite | apply CalmO.next | split | apply Calm.mk | refine Calm.pair ?_ rfl rfl)

theorem timeEdge_calm (i : ℕ) (reverse : Bool) {s0 s : State} (hc0 : Calm s0 s) :
    Calm s0 (timeEdge i reverse s) := by
  unfold timeEdge; try dsimp only
  repeat' (with_reducible first | assumption | intro _ | apply modAxis_calm | apply Calm.ite | apply CalmO.ite | apply CalmO.next | split | apply Calm.mk | refine Calm.pair ?_ rfl rfl)

theorem countForward_calm (i : ℕ) {s0 s : State} (hc0 : Calm s0 s) :
    Calm s0 (countForward i s) := by
  unfold countForward; try dsimp only
  repeat' (with_reducible first | assumption | intro _ | apply startCycle_calm | apply modAxis_calm | apply timeEdge_calm | apply Calm.ite | apply CalmO.ite | apply CalmO.next | split | apply Calm.mk | refine Calm.pair ?_ rfl rfl)

theorem countReverse_calm (i : ℕ) {s0 s : State} (hc0 : Calm s0 s) :
    Calm s0 (countReverse i s) := by
  unfold countReverse; try dsimp only
  repeat' (with_reducible first | assumption | intro _ | apply stepCycle_calm | apply raiseAx_calm | apply timeEdge_calm | apply modAxis_calm | apply Calm.ite | apply CalmO.ite | apply CalmO.next | split | apply Calm.mk | refine Calm.pair ?_ rfl rfl)

theorem withMove_calm (i : ℕ) (reverse : Bool) (f : State → State) {s0 s : State} (hf : ∀ v0, Calm s0 v0 → Calm s0 (f v0)) (hc0 : Calm s0 s) :
    Calm s0 (withMove i reverse f s) := by
  unfold withMove; try dsimp only
  repeat' (with_reducible first | assumption | intro _ | apply hf | apply axisMoved_calm | apply lockEval_calm | apply modAxis_calm | apply unitSettle_calm | apply each_calm | apply Calm.ite | apply CalmO.ite | apply CalmO.next | split | apply Calm.mk | refine Calm.pair ?_ rfl rfl)

theorem countEdge_calm (i : ℕ) (a : Bool) (b : Bool) {s0 s : State} (hc0 : Calm s0 s) :
    Calm s0 (countEdge i a b s) := by
  unfold countEdge; try dsimp only
  repeat' (with_reducible first | assumption | intro _ | apply timeEdge_calm | apply startCycle_calm | apply countReverse_calm | apply countForward_calm | apply withMove_calm | apply modAxis_calm | apply raiseAx_calm | apply Calm.ite | apply CalmO.ite | apply CalmO.next | split | apply Calm.mk | refine Calm.pair ?_ rfl rfl)

theorem execAxisCountEdge_calm (i : Fin 4) (a : Bool) (b : Bool) {s0 s : State} (hc0 : Calm s0 s) :
    CalmO s0 (execAxisCountEdge i a b s) := by
  unfold execAxisCountEdge; try dsimp only
  repeat' (with_reducible first | assumption | intro _ | apply countEdge_calm | apply guarded_calm | apply Calm.ite | apply CalmO.ite | apply CalmO.next | split | apply Calm.mk | refine Calm.pair ?_ rfl rfl)

theorem indexEdge_calm (i : ℕ) {s0 s : State} (hc0 : Calm s0 s) :
    Calm s0 (indexEdge i s) := by
  unfold indexEdge; try dsimp only
  repeat' (with_reducible first | assumption | intro _ | apply startCycle_calm | apply modAxis_calm | apply withMove_calm | apply raiseAx_calm | apply Calm.ite | apply CalmO.ite | apply CalmO.next | split | apply Calm.mk | refine Calm.pair ?_ rfl rfl)

theorem execAxisIndexEdge_calm (i : Fin 4) {s0 s : State} (hc0 : Calm s0 s) :
    CalmO s0 (execAxisIndexEdge i s) := by
  unfold execAxisIndexEdge; try dsimp only
  repeat' (with_reducible first | assumption | intro _ | apply indexEdge_calm | apply guarded_calm | apply Calm.ite | apply CalmO.ite | apply CalmO.next | split | apply Calm.mk | refine Calm.pair ?_ rfl rfl)

theorem execAxisStall_calm (i : Fin 4) {s0 s : State} (hc0 : Calm s0 s) :
    CalmO s0 (execAxisStall i s) := by
  unfold execAxisStall; try dsimp only
  repeat' (with_reducible first | assumption | intro _ | apply raiseAx_calm | apply lockEval_calm | apply modAxis_calm | apply unitSettle_calm | apply each_calm | apply guarded_calm | apply Calm.ite | apply CalmO.ite | apply CalmO.next | split | apply Calm.mk | refine Calm.pair ?_ rfl rfl)

theorem cpcWrite_calm (i : ℕ) (v : U32) {s0 s : State} (hc0 : Calm s0 s) :
    Calm s0 (cpcWrite i v s) := by
  unfold cpcWrite; try dsimp only
  repeat' (with_reducible first | assumption | intro _ | apply axisMoved_calm | apply lockEval_calm | apply modAxis_calm | apply unitSettle_calm | apply each_calm | apply Calm.ite | apply CalmO.ite | apply CalmO.next | split | apply Calm.mk | refine Calm.pair ?_ rfl rfl)

theorem execAxCpcWrite_calm (i : Fin 4) (value : U32) {s0 s : State} (hc0 : Calm s0 s) :
    CalmO s0 (execAxCpcWrite i value s) := by
  unfold execAxCpcWrite; try dsimp only
  repeat' (with_reducible first | assumption | intro _ | apply cpcWrite_calm | apply guarded_calm | apply Calm.ite | apply CalmO.ite | apply CalmO.next | split | apply Calm.mk | refine Calm.pair ?_ rfl rfl)

theorem axCfgWrite_calm (i : ℕ) (v : U32) {s0 s : State} (hc0 : Calm s0 s) :
    Calm s0 (axCfgWrite i v s) := by
  unfold axCfgWrite; try dsimp only
  repeat' (with_reducible first | assumption | intro _ | apply lockEval_calm | apply modAxis_calm | apply Calm.ite | apply CalmO.ite | apply CalmO.next | split | apply Calm.mk | refine Calm.pair ?_ rfl rfl)

theorem unitFire_calm (c : ℕ) {s0 s : State} (hc0 : Calm s0 s) :
    Calm s0 (unitFire c s) := by
  unfold unitFire; try dsimp only
  repeat' (with_reducible first | assumption | intro _ | apply floatServe_calm | apply unitDone_calm | apply modItem_calm | apply modUnit_calm | apply noteEval_calm | apply unitPend_calm | apply Calm.ite | apply CalmO.ite | apply CalmO.next | split | apply Calm.mk | refine Calm.pair ?_ rfl rfl)

theorem execCompareFire_calm (c : Fin 256) {s0 s : State} (hc0 : Calm s0 s) :
    CalmO s0 (execCompareFire c s) := by
  unfold execCompareFire; try dsimp only
  repeat' (with_reducible first | assumption | intro _ | apply unitFire_calm | apply guarded_calm | apply Calm.ite | apply CalmO.ite | apply CalmO.next | split | apply Calm.mk | refine Calm.pair ?_ rfl rfl)

theorem armNext_calm (c : ℕ) {s0 s : State} (hc0 : Calm s0 s) :
    Calm s0 (armNext c s) := by
  unfold armNext; try dsimp only
  repeat' (with_reducible first | assumption | intro _ | apply modItem_calm | apply finish_calm | apply modUnit_calm | apply Calm.ite | apply CalmO.ite | apply CalmO.next | split | apply Calm.mk | refine Calm.pair ?_ rfl rfl)

theorem execCompareArmNext_calm (c : Fin 256) {s0 s : State} (hc0 : Calm s0 s) :
    CalmO s0 (execCompareArmNext c s) := by
  unfold execCompareArmNext; try dsimp only
  repeat' (with_reducible first | assumption | intro _ | apply armNext_calm | apply guarded_calm | apply Calm.ite | apply CalmO.ite | apply CalmO.next | split | apply Calm.mk | refine Calm.pair ?_ rfl rfl)

theorem cmpCfgWrite_calm (v : U32) {s0 s : State} (hc0 : Calm s0 s) :
    Calm s0 (cmpCfgWrite v s) := by
  unfold cmpCfgWrite; try dsimp only
  repeat' (with_reducible first | assumption | intro _ | apply finish_calm | apply each_calm | apply modUnit_calm | apply Calm.ite | apply CalmO.ite | apply CalmO.next | split | apply Calm.mk | refine Calm.pair ?_ rfl rfl)

theorem execTbCmpCfgWrite_calm (value : U32) {s0 s : State} (hc0 : Calm s0 s) :
    CalmO s0 (execTbCmpCfgWrite value s) := by
  unfold execTbCmpCfgWrite; try dsimp only
  repeat' (with_reducible first | assumption | intro _ | apply cmpCfgWrite_calm | apply guarded_calm | apply Calm.ite | apply CalmO.ite | apply CalmO.next | split | apply Calm.mk | refine Calm.pair ?_ rfl rfl)

theorem cmpTargetWrite_calm (v : U64) {s0 s : State} (hc0 : Calm s0 s) :
    Calm s0 (cmpTargetWrite v s) := by
  unfold cmpTargetWrite; try dsimp only
  repeat' (with_reducible first | assumption | intro _ | apply modUnit_calm | apply Calm.ite | apply CalmO.ite | apply CalmO.next | split | apply Calm.mk | refine Calm.pair ?_ rfl rfl)

theorem execTbCmpTargetWrite_calm (value : U64) {s0 s : State} (hc0 : Calm s0 s) :
    CalmO s0 (execTbCmpTargetWrite value s) := by
  unfold execTbCmpTargetWrite; try dsimp only
  repeat' (with_reducible first | assumption | intro _ | apply cmpTargetWrite_calm | apply guarded_calm | apply Calm.ite | apply CalmO.ite | apply CalmO.next | split | apply Calm.mk | refine Calm.pair ?_ rfl rfl)

theorem execTbFreeLenWrite_calm (value : U32) {s0 s : State} (hc0 : Calm s0 s) :
    CalmO s0 (execTbFreeLenWrite value s) := by
  unfold execTbFreeLenWrite; try dsimp only
  repeat' (with_reducible first | assumption | intro _ | apply guarded_calm | apply Calm.ite | apply CalmO.ite | apply CalmO.next | split | apply Calm.mk | refine Calm.pair ?_ rfl rfl)

theorem execPtmStart_calm {s0 s : State} (hc0 : Calm s0 s) :
    CalmO s0 (execPtmStart s) := by
  unfold execPtmStart; try dsimp only
  repeat' (with_reducible first | assumption | intro _ | apply guarded_calm | apply Calm.ite | apply CalmO.ite | apply CalmO.next | split | apply Calm.mk | refine Calm.pair ?_ rfl rfl)

theorem execPtmResponse_calm (master : U64) {s0 s : State} (hc0 : Calm s0 s) :
    CalmO s0 (execPtmResponse master s) := by
  unfold execPtmResponse; try dsimp only
  repeat' (with_reducible first | assumption | intro _ | apply raise_calm | apply guarded_calm | apply Calm.ite | apply CalmO.ite | apply CalmO.next | split | apply Calm.mk | refine Calm.pair ?_ rfl rfl)

theorem execPtmTimeout_calm {s0 s : State} (hc0 : Calm s0 s) :
    CalmO s0 (execPtmTimeout s) := by
  unfold execPtmTimeout; try dsimp only
  repeat' (with_reducible first | assumption | intro _ | apply raise_calm | apply guarded_calm | apply Calm.ite | apply CalmO.ite | apply CalmO.next | split | apply Calm.mk | refine Calm.pair ?_ rfl rfl)

theorem execEpochLowRead_calm (r : LatchReg) {s0 s : State} (hc0 : Calm s0 s) :
    CalmO s0 (execEpochLowRead r s) := by
  unfold execEpochLowRead; try dsimp only
  repeat' (with_reducible first | assumption | intro _ | apply guarded_calm | apply Calm.ite | apply CalmO.ite | apply CalmO.next | split | apply Calm.mk | refine Calm.pair ?_ rfl rfl)

theorem execEpochLatchExpiry_calm (r : LatchReg) {s0 s : State} (hc0 : Calm s0 s) :
    CalmO s0 (execEpochLatchExpiry r s) := by
  unfold execEpochLatchExpiry; try dsimp only
  repeat' (with_reducible first | assumption | intro _ | apply guarded_calm | apply Calm.ite | apply CalmO.ite | apply CalmO.next | split | apply Calm.mk | refine Calm.pair ?_ rfl rfl)

theorem takeMode_calm {s0 s : State} (hc0 : Calm s0 s) :
    Calm s0 (takeMode s) := by
  unfold takeMode; try dsimp only
  repeat' (with_reducible first | assumption | intro _ | apply lockEval_calm | apply loseLock_calm | apply Calm.ite | apply CalmO.ite | apply CalmO.next | split | apply Calm.mk | refine Calm.pair ?_ rfl rfl)

theorem loopLen_calm {s0 s : State} (hc0 : Calm s0 s) : Calm s0 (loopLen s).2 := by
  unfold loopLen; try dsimp only
  repeat' (first | (with_reducible first | assumption | intro _ | apply freshIndex_calm | apply Calm.ite | apply CalmO.ite | apply CalmO.next | split | apply Calm.mk | refine Calm.pair ?_ rfl rfl) | (dsimp only))

theorem targetLen_calm {s0 s : State} (hc0 : Calm s0 s) : Calm s0 (targetLen s).2 := by
  unfold targetLen
  split
  · exact hc0
  · split
    · exact hc0
    · split
      · exact hc0
      · exact hc0
      · exact freshIndex_calm hc0

theorem countFrame_calm {s0 s : State} (hc0 : Calm s0 s) :
    Calm s0 (countFrame s) := by
  unfold countFrame; try dsimp only
  repeat' (with_reducible first | assumption | intro _ | apply Calm.ite | apply CalmO.ite | apply CalmO.next | split | apply Calm.mk | refine Calm.pair ?_ rfl rfl)

theorem beginFrame_calm {s0 s : State} (hc0 : Calm s0 s) :
    Calm s0 (beginFrame s) := by
  unfold beginFrame; try dsimp only
  repeat' (with_reducible first | assumption | intro _ | apply targetLen_calm | apply countFrame_calm | apply takeMode_calm | apply Calm.ite | apply CalmO.ite | apply CalmO.next | split | apply Calm.mk | refine Calm.pair ?_ rfl rfl)

theorem boundarySof_calm (u : ℕ) (p : ℕ) {s0 s : State} (hc0 : Calm s0 s) :
    Calm s0 (boundarySof u p s) := by
  unfold boundarySof; try dsimp only
  repeat' (with_reducible first | assumption | intro _ | apply send_calm | apply sendSof_calm | apply modPort_calm | apply babble_calm | apply Calm.ite | apply CalmO.ite | apply CalmO.next | split | apply Calm.mk | refine Calm.pair ?_ rfl rfl)

theorem resumeEvent_calm (at_ : Loc) (byDevice : Bool) (coincident : Bool) {s0 s : State} (hc0 : Calm s0 s) :
    Calm s0 (resumeEvent at_ byDevice coincident s) := by
  unfold resumeEvent; try dsimp only
  repeat' (with_reducible first | assumption | intro _ | apply answerTopo_calm | apply addReport_calm | apply raisePort_calm | apply Calm.ite | apply CalmO.ite | apply CalmO.next | split | apply Calm.mk | refine Calm.pair ?_ rfl rfl)

theorem admitHubs_calm (p : ℕ) {s0 s : State} (hc0 : Calm s0 s) :
    Calm s0 (admitHubs p s) := by
  unfold admitHubs; try dsimp only
  repeat' (with_reducible first | assumption | intro _ | apply startPolling_calm | apply each_calm | apply Calm.ite | apply CalmO.ite | apply CalmO.next | refine admitStatus_calm (by assumption) ?_ | split | apply Calm.mk | refine Calm.pair ?_ rfl rfl)

theorem endResume_calm (at_ : Loc) {s0 s : State} (hc0 : Calm s0 s) :
    Calm s0 (endResume at_ s) := by
  unfold endResume; try dsimp only
  repeat' (with_reducible first | assumption | intro _ | apply modHubPort_calm | apply admitHubs_calm | apply beginResume_calm | apply resumeEvent_calm | apply modPort_calm | apply Calm.ite | apply CalmO.ite | apply CalmO.next | split | apply Calm.mk | refine Calm.pair ?_ rfl rfl)

theorem ptmAutoStart_calm {s0 s : State} (hc0 : Calm s0 s) :
    Calm s0 (ptmAutoStart s) := by
  unfold ptmAutoStart; try dsimp only
  repeat' (with_reducible first | assumption | intro _ | apply Calm.ite | apply CalmO.ite | apply CalmO.next | split | apply Calm.mk | refine Calm.pair ?_ rfl rfl)

theorem sendTime_calm {s0 s : State} (hc0 : Calm s0 s) :
    Calm s0 (sendTime s) := by
  unfold sendTime; try dsimp only
  repeat' (with_reducible first | assumption | intro _ | apply xbkSendOnce_calm | apply Calm.ite | apply CalmO.ite | apply CalmO.next | split | apply Calm.mk | refine Calm.pair ?_ rfl rfl)

theorem frameBoundary_calm {s0 s : State} (hc0 : Calm s0 s) : Calm s0 (frameBoundary s) := by
  refine hc0.trans ?_
  have h := beginFrame_calm (Calm.refl s)
  have h1 : Calm s (if yieldDue (beginFrame s) then enterYielded (beginFrame s) else beginFrame s) := by
    split
    · next hy =>
      refine enterYielded_calm h (fun _ => ?_)
      unfold yieldDue at hy
      simp only [Bool.and_eq_true] at hy
      exact hy.1.1
    · exact h
  unfold frameBoundary; dsimp only
  repeat' (with_reducible first | assumption | intro _ | apply sweepHandles_calm | apply sendTime_calm | apply ptmAutoStart_calm | apply boundarySof_calm | apply endResume_calm | apply each_calm | apply swapIfPending_calm | apply Calm.ite | refine Calm.pair ?_ rfl rfl)

theorem execFrameBoundary_calm {s0 s : State} (hc0 : Calm s0 s) :
    CalmO s0 (execFrameBoundary s) := by
  unfold execFrameBoundary; try dsimp only
  repeat' (with_reducible first | assumption | intro _ | apply countFrame_calm | apply frameBoundary_calm | apply guarded_calm | apply Calm.ite | apply CalmO.ite | apply CalmO.next | split | apply Calm.mk | refine Calm.pair ?_ rfl rfl)

theorem beginUframe_calm (u : ℕ) {s0 s : State} (hc0 : Calm s0 s) :
    Calm s0 (beginUframe u s) := by
  unfold beginUframe; try dsimp only
  repeat' (with_reducible first | assumption | intro _ | apply Calm.ite | apply CalmO.ite | apply CalmO.next | split | apply Calm.mk | refine Calm.pair ?_ rfl rfl)

theorem judgeIdle_calm {s0 s : State} (hc0 : Calm s0 s) :
    Calm s0 (judgeIdle s) := by
  unfold judgeIdle; try dsimp only
  repeat' (with_reducible first | assumption | intro _ | apply modPstate_calm | apply each_calm | apply Calm.ite | apply CalmO.ite | apply CalmO.next | split | apply Calm.mk | refine Calm.pair ?_ rfl rfl)

theorem offWalks_calm (r : ℕ) {s0 s : State} (hc0 : Calm s0 s) :
    Calm s0 (offWalks r s) := by
  unfold offWalks; try dsimp only
  repeat' (with_reducible first | assumption | intro _ | apply Calm.ite | apply CalmO.ite | apply CalmO.next | split | apply Calm.mk | refine Calm.pair ?_ rfl rfl)

theorem dropService_calm (r : ℕ) (st : Byte) {s0 s : State} (hc0 : Calm s0 s) :
    Calm s0 (dropService r st s) := by
  unfold dropService; try dsimp only
  repeat' (with_reducible first | assumption | intro _ | apply finish_calm | apply offWalks_calm | apply Calm.ite | apply CalmO.ite | apply CalmO.next | split | apply Calm.mk | refine Calm.pair ?_ rfl rfl)

theorem skipStart_calm (r : ℕ) (g : Rung) (st : Byte) {s0 s : State} (hc0 : Calm s0 s) :
    Calm s0 (skipStart r g st s) := by
  unfold skipStart; try dsimp only
  repeat' (with_reducible first | assumption | intro _ | apply finish_calm | apply dropService_calm | apply Calm.ite | apply CalmO.ite | apply CalmO.next | split | apply Calm.mk | refine Calm.pair ?_ rfl rfl)

theorem deferEvent_calm (r : ℕ) {s0 s : State} (hc0 : Calm s0 s) :
    Calm s0 (deferEvent r s) := by
  unfold deferEvent; try dsimp only
  repeat' (with_reducible first | assumption | intro _ | apply rebindEvent_calm | apply offWalks_calm | apply Calm.ite | apply CalmO.ite | apply CalmO.next | split | apply Calm.mk | refine Calm.pair ?_ rfl rfl)

theorem beginService_calm (r : ℕ) (g : Rung) {s0 s : State} (hc0 : Calm s0 s) :
    Calm s0 (beginService r g s) := by
  unfold beginService; try dsimp only
  repeat' (with_reducible first | assumption | intro _ | apply raise_calm | apply deferEvent_calm | apply skipStart_calm | apply modPstate_calm | apply Calm.ite | apply CalmO.ite | apply CalmO.next | split | apply Calm.mk | refine Calm.pair ?_ rfl rfl)

theorem refloat_calm (r : ℕ) (p : ℕ) {s0 s : State} (hc0 : Calm s0 s) :
    Calm s0 (refloat r p s) := by
  unfold refloat; try dsimp only
  repeat' (with_reducible first | assumption | intro _ | apply modItem_calm | apply offWalks_calm | apply Calm.ite | apply CalmO.ite | apply CalmO.next | split | apply Calm.mk | refine Calm.pair ?_ rfl rfl)

theorem unreached_calm (r : ℕ) {s0 s : State} (hc0 : Calm s0 s) :
    Calm s0 (unreached r s) := by
  unfold unreached; try dsimp only
  repeat' (with_reducible first | assumption | intro _ | apply dropService_calm | apply refloat_calm | apply Calm.ite | apply CalmO.ite | apply CalmO.next | split | apply Calm.mk | refine Calm.pair ?_ rfl rfl)

theorem endPeriodic_calm (e : ℕ) {s0 s : State} (hc0 : Calm s0 s) :
    Calm s0 (endPeriodic e s) := by
  unfold endPeriodic; try dsimp only
  repeat' (with_reducible first | assumption | intro _ | apply modEng_calm | apply postItem_calm | apply unreached_calm | apply each_calm | apply Calm.ite | apply CalmO.ite | apply CalmO.next | split | apply Calm.mk | refine Calm.pair ?_ rfl rfl)

theorem engineBoundary_calm (e : ℕ) {s0 s : State} (hc0 : Calm s0 s) :
    Calm s0 (engineBoundary e s) := by
  unfold engineBoundary; try dsimp only
  repeat' (with_reducible first | assumption | intro _ | apply modEng_calm | apply nextWork_calm | apply modPstate_calm | apply each_calm | apply endPeriodic_calm | apply suspendDispatch_calm | apply Calm.ite | apply CalmO.ite | apply CalmO.next | split | apply Calm.mk | refine Calm.pair ?_ rfl rfl)

theorem openWindows_calm {s0 s : State} (hc0 : Calm s0 s) :
    Calm s0 (openWindows s) := by
  unfold openWindows; try dsimp only
  repeat' (with_reducible first | assumption | intro _ | apply modPort_calm | apply each_calm | apply Calm.ite | apply CalmO.ite | apply CalmO.next | split | apply Calm.mk | refine Calm.pair ?_ rfl rfl)

theorem beginSweep_calm {s0 s : State} (hc0 : Calm s0 s) :
    Calm s0 (beginSweep s) := by
  unfold beginSweep; try dsimp only
  repeat' (with_reducible first | assumption | intro _ | apply emit_calm | apply each_calm | apply Calm.ite | apply CalmO.ite | apply CalmO.next | split | apply Calm.mk | refine Calm.pair ?_ rfl rfl)

theorem beat_calm (u : ℕ) {s0 s : State} (hc0 : Calm s0 s) :
    Calm s0 (beat u s) := by
  unfold beat; try dsimp only
  repeat' (with_reducible first | assumption | intro _ | apply emit_calm | apply xbkSendOnce_calm | apply Calm.ite | apply CalmO.ite | apply CalmO.next | split | apply Calm.mk | refine Calm.pair ?_ rfl rfl)

theorem newUnits_calm (u : ℕ) {s0 s : State} (hc0 : Calm s0 s) :
    Calm s0 (newUnits u s) := by
  unfold newUnits; try dsimp only
  repeat' (with_reducible first | assumption | intro _ | apply Calm.ite | apply CalmO.ite | apply CalmO.next | split | apply Calm.mk | refine Calm.pair ?_ rfl rfl)

theorem microframe_calm (u : ℕ) {s0 s : State} (hc0 : Calm s0 s) :
    Calm s0 (microframe u s) := by
  unfold microframe; try dsimp only
  repeat' (with_reducible first | assumption | intro _ | apply beat_calm | apply runLane_calm | apply openWindows_calm | apply beginSweep_calm | apply beginService_calm | apply dropLeft_calm | apply engineBoundary_calm | apply boundarySof_calm | apply each_calm | apply judgeIdle_calm | apply sendHandover_calm | apply beginUframe_calm | apply newUnits_calm | apply Calm.ite | apply CalmO.ite | apply CalmO.next | split | apply Calm.mk | refine Calm.pair ?_ rfl rfl)

theorem execMicroframeBoundary_calm (u : Fin 8) {s0 s : State} (hc0 : Calm s0 s) :
    CalmO s0 (execMicroframeBoundary u s) := by
  unfold execMicroframeBoundary; try dsimp only
  repeat' (with_reducible first | assumption | intro _ | apply beginUframe_calm | apply microframe_calm | apply guarded_calm | apply Calm.ite | apply CalmO.ite | apply CalmO.next | split | apply Calm.mk | refine Calm.pair ?_ rfl rfl)

theorem aluOp_calm (e : EngId) (rd : Fin 16) (f : Thread → Byte × Flags) {s0 s : State} (hc0 : Calm s0 s) :
    CalmO s0 (aluOp e rd f s) := by
  unfold aluOp; try dsimp only
  repeat' (with_reducible first | assumption | intro _ | apply setRun_calm | apply instruction_calm | apply Calm.ite | apply CalmO.ite | apply CalmO.next | split | apply Calm.mk | refine Calm.pair ?_ rfl rfl)

theorem freeBit_calm {s0 s : State} (hc0 : Calm s0 s) : Calm s0 (freeBit s).2 := freshIndex_calm hc0

theorem shiftOp_calm (e : EngId) (rd : Fin 16) (n : Fin 8) (f : Byte → ℕ → Bool → Byte × Flags) {s0 s : State} (hc0 : Calm s0 s) :
    CalmO s0 (shiftOp e rd n f s) := by
  unfold shiftOp; try dsimp only
  repeat' (with_reducible first | assumption | intro _ | apply setRun_calm | apply freeBit_calm | apply instruction_calm | apply Calm.ite | apply CalmO.ite | apply CalmO.next | split | apply Calm.mk | refine Calm.pair ?_ rfl rfl)

theorem execNop_calm (e : EngId) {s0 s : State} (hc0 : Calm s0 s) :
    CalmO s0 (execNop e s) := by
  unfold execNop; try dsimp only
  repeat' (with_reducible first | assumption | intro _ | apply setRun_calm | apply instruction_calm | apply Calm.ite | apply CalmO.ite | apply CalmO.next | split | apply Calm.mk | refine Calm.pair ?_ rfl rfl)

theorem execMov_calm (e : EngId) (rd : Fin 16) (rs : Fin 16) {s0 s : State} (hc0 : Calm s0 s) :
    CalmO s0 (execMov e rd rs s) := by
  unfold execMov; try dsimp only
  repeat' (with_reducible first | assumption | intro _ | apply setRun_calm | apply instruction_calm | apply Calm.ite | apply CalmO.ite | apply CalmO.next | split | apply Calm.mk | refine Calm.pair ?_ rfl rfl)

theorem execMovi_calm (e : EngId) (rd : Fin 16) (imm : Byte) {s0 s : State} (hc0 : Calm s0 s) :
    CalmO s0 (execMovi e rd imm s) := by
  unfold execMovi; try dsimp only
  repeat' (with_reducible first | assumption | intro _ | apply setRun_calm | apply instruction_calm | apply Calm.ite | apply CalmO.ite | apply CalmO.next | split | apply Calm.mk | refine Calm.pair ?_ rfl rfl)

theorem execAdd_calm (e : EngId) (rd : Fin 16) (rs : Fin 16) {s0 s : State} (hc0 : Calm s0 s) :
    CalmO s0 (execAdd e rd rs s) := by
  unfold execAdd; try dsimp only
  repeat' (with_reducible first | assumption | intro _ | apply aluOp_calm | apply Calm.ite | apply CalmO.ite | apply CalmO.next | split | apply Calm.mk | refine Calm.pair ?_ rfl rfl)

theorem execAddi_calm (e : EngId) (rd : Fin 16) (imm : Byte) {s0 s : State} (hc0 : Calm s0 s) :
    CalmO s0 (execAddi e rd imm s) := by
  unfold execAddi; try dsimp only
  repeat' (with_reducible first | assumption | intro _ | apply aluOp_calm | apply Calm.ite | apply CalmO.ite | apply CalmO.next | split | apply Calm.mk | refine Calm.pair ?_ rfl rfl)

theorem execAdc_calm (e : EngId) (rd : Fin 16) (rs : Fin 16) {s0 s : State} (hc0 : Calm s0 s) :
    CalmO s0 (execAdc e rd rs s) := by
  unfold execAdc; try dsimp only
  repeat' (with_reducible first | assumption | intro _ | apply aluOp_calm | apply Calm.ite | apply CalmO.ite | apply CalmO.next | split | apply Calm.mk | refine Calm.pair ?_ rfl rfl)

theorem execSub_calm (e : EngId) (rd : Fin 16) (rs : Fin 16) {s0 s : State} (hc0 : Calm s0 s) :
    CalmO s0 (execSub e rd rs s) := by
  unfold execSub; try dsimp only
  repeat' (with_reducible first | assumption | intro _ | apply aluOp_calm | apply Calm.ite | apply CalmO.ite | apply CalmO.next | split | apply Calm.mk | refine Calm.pair ?_ rfl rfl)

theorem execSubi_calm (e : EngId) (rd : Fin 16) (imm : Byte) {s0 s : State} (hc0 : Calm s0 s) :
    CalmO s0 (execSubi e rd imm s) := by
  unfold execSubi; try dsimp only
  repeat' (with_reducible first | assumption | intro _ | apply aluOp_calm | apply Calm.ite | apply CalmO.ite | apply CalmO.next | split | apply Calm.mk | refine Calm.pair ?_ rfl rfl)

theorem execAndi_calm (e : EngId) (rd : Fin 16) (imm : Byte) {s0 s : State} (hc0 : Calm s0 s) :
    CalmO s0 (execAndi e rd imm s) := by
  unfold execAndi; try dsimp only
  repeat' (with_reducible first | assumption | intro _ | apply aluOp_calm | apply Calm.ite | apply CalmO.ite | apply CalmO.next | split | apply Calm.mk | refine Calm.pair ?_ rfl rfl)

theorem execAnd_calm (e : EngId) (rd : Fin 16) (rs : Fin 16) {s0 s : State} (hc0 : Calm s0 s) :
    CalmO s0 (execAnd e rd rs s) := by
  unfold execAnd; try dsimp only
  repeat' (with_reducible first | assumption | intro _ | apply aluOp_calm | apply Calm.ite | apply CalmO.ite | apply CalmO.next | split | apply Calm.mk | refine Calm.pair ?_ rfl rfl)

theorem execOr_calm (e : EngId) (rd : Fin 16) (rs : Fin 16) {s0 s : State} (hc0 : Calm s0 s) :
    CalmO s0 (execOr e rd rs s) := by
  unfold execOr; try dsimp only
  repeat' (with_reducible first | assumption | intro _ | apply aluOp_calm | apply Calm.ite | apply CalmO.ite | apply CalmO.next | split | apply Calm.mk | refine Calm.pair ?_ rfl rfl)

theorem execOri_calm (e : EngId) (rd : Fin 16) (imm : Byte) {s0 s : State} (hc0 : Calm s0 s) :
    CalmO s0 (execOri e rd imm s) := by
  unfold execOri; try dsimp only
  repeat' (with_reducible first | assumption | intro _ | apply aluOp_calm | apply Calm.ite | apply CalmO.ite | apply CalmO.next | split | apply Calm.mk | refine Calm.pair ?_ rfl rfl)

theorem execXor_calm (e : EngId) (rd : Fin 16) (rs : Fin 16) {s0 s : State} (hc0 : Calm s0 s) :
    CalmO s0 (execXor e rd rs s) := by
  unfold execXor; try dsimp only
  repeat' (with_reducible first | assumption | intro _ | apply aluOp_calm | apply Calm.ite | apply CalmO.ite | apply CalmO.next | split | apply Calm.mk | refine Calm.pair ?_ rfl rfl)

theorem execXori_calm (e : EngId) (rd : Fin 16) (imm : Byte) {s0 s : State} (hc0 : Calm s0 s) :
    CalmO s0 (execXori e rd imm s) := by
  unfold execXori; try dsimp only
  repeat' (with_reducible first | assumption | intro _ | apply aluOp_calm | apply Calm.ite | apply CalmO.ite | apply CalmO.next | split | apply Calm.mk | refine Calm.pair ?_ rfl rfl)

theorem execShl_calm (e : EngId) (rd : Fin 16) (n : Fin 8) {s0 s : State} (hc0 : Calm s0 s) :
    CalmO s0 (execShl e rd n s) := by
  unfold execShl; try dsimp only
  repeat' (with_reducible first | assumption | intro _ | apply shiftOp_calm | apply Calm.ite | apply CalmO.ite | apply CalmO.next | split | apply Calm.mk | refine Calm.pair ?_ rfl rfl)

theorem execShr_calm (e : EngId) (rd : Fin 16) (n : Fin 8) {s0 s : State} (hc0 : Calm s0 s) :
    CalmO s0 (execShr e rd n s) := by
  unfold execShr; try dsimp only
  repeat' (with_reducible first | assumption | intro _ | apply shiftOp_calm | apply Calm.ite | apply CalmO.ite | apply CalmO.next | split | apply Calm.mk | refine Calm.pair ?_ rfl rfl)

theorem execCmp_calm (e : EngId) (rd : Fin 16) (rs : Fin 16) {s0 s : State} (hc0 : Calm s0 s) :
    CalmO s0 (execCmp e rd rs s) := by
  unfold execCmp; try dsimp only
  repeat' (with_reducible first | assumption | intro _ | apply setRun_calm | apply instruction_calm | apply Calm.ite | apply CalmO.ite | apply CalmO.next | split | apply Calm.mk | refine Calm.pair ?_ rfl rfl)

theorem execCmpi_calm (e : EngId) (rd : Fin 16) (imm : Byte) {s0 s : State} (hc0 : Calm s0 s) :
    CalmO s0 (execCmpi e rd imm s) := by
  unfold execCmpi; try dsimp only
  repeat' (with_reducible first | assumption | intro _ | apply setRun_calm | apply instruction_calm | apply Calm.ite | apply CalmO.ite | apply CalmO.next | split | apply Calm.mk | refine Calm.pair ?_ rfl rfl)

theorem storeOwn_calm (e : ℕ) (i : ℕ) (v : Byte) (t : Thread) {s0 s : State} (hc0 : Calm s0 s) :
    Calm s0 (storeOwn e i v t s) := by
  unfold storeOwn; try dsimp only
  repeat' (with_reducible first | assumption | intro _ | apply modCtx_calm | apply modPstate_calm | apply setRun_calm | apply Calm.ite | apply CalmO.ite | apply CalmO.next | split | apply Calm.mk | refine Calm.pair ?_ rfl rfl)

theorem scriptStore_calm (e : ℕ) (a : ℕ) (v : Byte) (t : Thread) {s0 s : State} (hc0 : Calm s0 s) :
    Calm s0 (scriptStore e a v t s) := by
  unfold scriptStore; try dsimp only
  repeat' (with_reducible first | assumption | intro _ | apply setCtx_calm | apply scriptStop_calm | apply storeOwn_calm | apply setRun_calm | apply modEng_calm | apply Calm.ite | apply CalmO.ite | apply CalmO.next | split | apply Calm.mk | refine Calm.pair ?_ rfl rfl)

theorem coreStore_calm (e : ℕ) (a : ℕ) (v : Byte) (t : Thread) {s0 s : State} (hc0 : Calm s0 s) :
    Calm s0 (coreStore e a v t s) := by
  unfold coreStore; try dsimp only
  repeat' (with_reducible first | assumption | intro _ | apply engineFault_calm | apply setRun_calm | apply modEng_calm | apply Calm.ite | apply CalmO.ite | apply CalmO.next | split | apply Calm.mk | refine Calm.pair ?_ rfl rfl)

theorem execLdb_calm (e : EngId) (r : Fin 16) (p : Fin 4) (offset : BitVec 12) {s0 s : State} (hc0 : Calm s0 s) :
    CalmO s0 (execLdb e r p offset s) := by
  unfold execLdb; try dsimp only
  repeat' (with_reducible first | assumption | intro _ | apply engineFault_calm | apply scriptStop_calm | apply setRun_calm | apply instruction_calm | apply Calm.ite | apply CalmO.ite | apply CalmO.next | split | apply Calm.mk | refine Calm.pair ?_ rfl rfl)

theorem execStb_calm (e : EngId) (r : Fin 16) (p : Fin 4) (offset : BitVec 12) {s0 s : State} (hc0 : Calm s0 s) :
    CalmO s0 (execStb e r p offset s) := by
  unfold execStb; try dsimp only
  repeat' (with_reducible first | assumption | intro _ | apply coreStore_calm | apply scriptStore_calm | apply instruction_calm | apply Calm.ite | apply CalmO.ite | apply CalmO.next | split | apply Calm.mk | refine Calm.pair ?_ rfl rfl)

theorem execLdp_calm (e : EngId) (p : Fin 4) (imm : BitVec 24) {s0 s : State} (hc0 : Calm s0 s) :
    CalmO s0 (execLdp e p imm s) := by
  unfold execLdp; try dsimp only
  repeat' (with_reducible first | assumption | intro _ | apply setRun_calm | apply instruction_calm | apply Calm.ite | apply CalmO.ite | apply CalmO.next | split | apply Calm.mk | refine Calm.pair ?_ rfl rfl)

theorem execAddp_calm (e : EngId) (p : Fin 4) (rs : Fin 16) {s0 s : State} (hc0 : Calm s0 s) :
    CalmO s0 (execAddp e p rs s) := by
  unfold execAddp; try dsimp only
  repeat' (with_reducible first | assumption | intro _ | apply setRun_calm | apply instruction_calm | apply Calm.ite | apply CalmO.ite | apply CalmO.next | split | apply Calm.mk | refine Calm.pair ?_ rfl rfl)

theorem execAddpi_calm (e : EngId) (p : Fin 4) (imm : U16) {s0 s : State} (hc0 : Calm s0 s) :
    CalmO s0 (execAddpi e p imm s) := by
  unfold execAddpi; try dsimp only
  repeat' (with_reducible first | assumption | intro _ | apply setRun_calm | apply instruction_calm | apply Calm.ite | apply CalmO.ite | apply CalmO.next | split | apply Calm.mk | refine Calm.pair ?_ rfl rfl)

theorem execBr_calm (e : EngId) (cond : BitVec 4) (offset : BitVec 14) {s0 s : State} (hc0 : Calm s0 s) :
    CalmO s0 (execBr e cond offset s) := by
  unfold execBr; try dsimp only
  repeat' (with_reducible first | assumption | intro _ | apply instrFault_calm | apply setRun_calm | apply instruction_calm | apply Calm.ite | apply CalmO.ite | apply CalmO.next | split | apply Calm.mk | refine Calm.pair ?_ rfl rfl)

theorem execJmp_calm (e : EngId) (target : BitVec 14) {s0 s : State} (hc0 : Calm s0 s) :
    CalmO s0 (execJmp e target s) := by
  unfold execJmp; try dsimp only
  repeat' (with_reducible first | assumption | intro _ | apply setRun_calm | apply instruction_calm | apply Calm.ite | apply CalmO.ite | apply CalmO.next | split | apply Calm.mk | refine Calm.pair ?_ rfl rfl)

theorem freePc_calm {s0 s : State} (hc0 : Calm s0 s) : Calm s0 (freePc s).2 := freshIndex_calm hc0

theorem execCall_calm (e : EngId) (target : BitVec 14) {s0 s : State} (hc0 : Calm s0 s) :
    CalmO s0 (execCall e target s) := by
  unfold execCall; try dsimp only
  repeat' (with_reducible first | assumption | intro _ | apply freePc_calm | apply setRun_calm | apply instruction_calm | apply Calm.ite | apply CalmO.ite | apply CalmO.next | split | apply Calm.mk | refine Calm.pair ?_ rfl rfl)

theorem execRet_calm (e : EngId) {s0 s : State} (hc0 : Calm s0 s) :
    CalmO s0 (execRet e s) := by
  unfold execRet; try dsimp only
  repeat' (with_reducible first | assumption | intro _ | apply freePc_calm | apply setRun_calm | apply instruction_calm | apply Calm.ite | apply CalmO.ite | apply CalmO.next | split | apply Calm.mk | refine Calm.pair ?_ rfl rfl)

theorem execLoop_calm (e : EngId) (inReg : Bool) (rs : Fin 16) (imm : Byte) (len : Byte) {s0 s : State} (hc0 : Calm s0 s) :
    CalmO s0 (execLoop e inReg rs imm len s) := by
  unfold execLoop; try dsimp only
  repeat' (with_reducible first | assumption | intro _ | apply freshIndex_calm | apply setRun_calm | apply instruction_calm | apply Calm.ite | apply CalmO.ite | apply CalmO.next | split | apply Calm.mk | refine Calm.pair ?_ rfl rfl)

theorem execCld_calm (e : EngId) {s0 s : State} (hc0 : Calm s0 s) :
    CalmO s0 (execCld e s) := by
  unfold execCld; try dsimp only
  repeat' (with_reducible first | assumption | intro _ | apply setRun_calm | apply instruction_calm | apply Calm.ite | apply CalmO.ite | apply CalmO.next | split | apply Calm.mk | refine Calm.pair ?_ rfl rfl)

theorem execCst_calm (e : EngId) {s0 s : State} (hc0 : Calm s0 s) :
    CalmO s0 (execCst e s) := by
  unfold execCst; try dsimp only
  repeat' (with_reducible first | assumption | intro _ | apply modCtx_calm | apply setRun_calm | apply instruction_calm | apply Calm.ite | apply CalmO.ite | apply CalmO.next | split | apply Calm.mk | refine Calm.pair ?_ rfl rfl)

theorem placeItem_calm (i : ℕ) {s0 s : State} (hc0 : Calm s0 s) :
    Calm s0 (placeItem i s) := by
  unfold placeItem; try dsimp only
  repeat' (with_reducible first | assumption | intro _ | apply unstage_calm | apply modItem_calm | apply Calm.ite | apply CalmO.ite | apply CalmO.next | split | apply Calm.mk | refine Calm.pair ?_ rfl rfl)

theorem execPld_calm (e : EngId) {s0 s : State} (hc0 : Calm s0 s) :
    CalmO s0 (execPld e s) := by
  unfold execPld; try dsimp only
  repeat' (with_reducible first | assumption | intro _ | apply setRun_calm | apply modEng_calm | apply placeItem_calm | apply instruction_calm | apply Calm.ite | apply CalmO.ite | apply CalmO.next | split | apply Calm.mk | refine Calm.pair ?_ rfl rfl)

theorem execPst_calm (e : EngId) {s0 s : State} (hc0 : Calm s0 s) :
    CalmO s0 (execPst e s) := by
  unfold execPst; try dsimp only
  repeat' (with_reducible first | assumption | intro _ | apply modPstate_calm | apply setRun_calm | apply instruction_calm | apply Calm.ite | apply CalmO.ite | apply CalmO.next | split | apply Calm.mk | refine Calm.pair ?_ rfl rfl)

theorem takeHold_calm (e : ℕ) (p : ℕ) (t : Thread) {s0 s : State} (hc0 : Calm s0 s) :
    Calm s0 (takeHold e p t s) := by
  unfold takeHold; try dsimp only
  repeat' (with_reducible first | assumption | intro _ | apply modPort_calm | apply setRun_calm | apply runLane_calm | apply Calm.ite | apply CalmO.ite | apply CalmO.next | split | apply Calm.mk | refine Calm.pair ?_ rfl rfl)

theorem execHold_calm (e : EngId) (p : PortId) {s0 s : State} (hc0 : Calm s0 s) :
    CalmO s0 (execHold e p s) := by
  unfold execHold; try dsimp only
  repeat' (with_reducible first | assumption | intro _ | apply modPort_calm | apply takeHold_calm | apply setRun_calm | apply instruction_calm | apply Calm.ite | apply CalmO.ite | apply CalmO.next | split | apply Calm.mk | refine Calm.pair ?_ rfl rfl)

theorem execHoldGrant_calm (e : EngId) (p : PortId) {s0 s : State} (hc0 : Calm s0 s) :
    CalmO s0 (execHoldGrant e p s) := by
  unfold execHoldGrant; try dsimp only
  repeat' (with_reducible first | assumption | intro _ | apply takeHold_calm | apply guarded_calm | apply Calm.ite | apply CalmO.ite | apply CalmO.next | split | apply Calm.mk | refine Calm.pair ?_ rfl rfl)

theorem releasePort_calm (e : ℕ) (p : ℕ) (t : Thread) {s0 s : State} (hc0 : Calm s0 s) :
    Calm s0 (releasePort e p t s) := by
  unfold releasePort; try dsimp only
  repeat' (with_reducible first | assumption | intro _ | apply modItem_calm | apply modPort_calm | apply Calm.ite | apply CalmO.ite | apply CalmO.next | split | apply Calm.mk | refine Calm.pair ?_ rfl rfl)

theorem execRel_calm (e : EngId) (p : PortId) {s0 s : State} (hc0 : Calm s0 s) :
    CalmO s0 (execRel e p s) := by
  unfold execRel; try dsimp only
  repeat' (with_reducible first | assumption | intro _ | apply modEng_calm | apply nextWork_calm | apply releasePort_calm | apply setRun_calm | apply instruction_calm | apply Calm.ite | apply CalmO.ite | apply CalmO.next | split | apply Calm.mk | refine Calm.pair ?_ rfl rfl)

theorem flushWork_calm (w : Work) {s0 s : State} (hc0 : Calm s0 s) :
    Calm s0 (flushWork w s) := by
  unfold flushWork; try dsimp only
  repeat' (with_reducible first | assumption | intro _ | apply flushErr_calm | apply each_calm | apply Calm.ite | apply CalmO.ite | apply CalmO.next | split | apply Calm.mk | refine Calm.pair ?_ rfl rfl)

theorem askLane_calm (e : ℕ) (t : Thread) (op : LaneOp) {s0 s : State} (hc0 : Calm s0 s) :
    Calm s0 (askLane e t op s) := by
  unfold askLane; try dsimp only
  repeat' (with_reducible first | assumption | intro _ | apply queueLane_calm | apply runLane_calm | apply decideItem_calm | apply each_calm | apply setRun_calm | apply flushWork_calm | apply Calm.ite | apply CalmO.ite | apply CalmO.next | split | apply Calm.mk | refine Calm.pair ?_ rfl rfl)

theorem execTok_calm (e : EngId) (typ : BitVec 4) (rs : Fin 16) (retry : Bool) {s0 s : State} (hc0 : Calm s0 s) :
    CalmO s0 (execTok e typ rs retry s) := by
  unfold execTok; try dsimp only
  repeat' (with_reducible first | assumption | intro _ | apply askLane_calm | apply scriptStop_calm | apply instrFault_calm | apply instruction_calm | apply Calm.ite | apply CalmO.ite | apply CalmO.next | split | apply Calm.mk | refine Calm.pair ?_ rfl rfl)

theorem execSpl_calm (e : EngId) (typ : BitVec 4) (_rs : Fin 16) (retry : Bool) {s0 s : State} (hc0 : Calm s0 s) :
    CalmO s0 (execSpl e typ _rs retry s) := by
  unfold execSpl; try dsimp only
  repeat' (with_reducible first | assumption | intro _ | apply askLane_calm | apply setRun_calm | apply instrFault_calm | apply instruction_calm | apply Calm.ite | apply CalmO.ite | apply CalmO.next | split | apply Calm.mk | refine Calm.pair ?_ rfl rfl)

theorem execSdat_calm (e : EngId) (_rd : Fin 16) (rs : Fin 16) {s0 s : State} (hc0 : Calm s0 s) :
    CalmO s0 (execSdat e _rd rs s) := by
  unfold execSdat; try dsimp only
  repeat' (with_reducible first | assumption | intro _ | apply setRun_calm | apply queueLane_calm | apply runLane_calm | apply scriptStop_calm | apply instruction_calm | apply Calm.ite | apply CalmO.ite | apply CalmO.next | split | apply Calm.mk | refine Calm.pair ?_ rfl rfl)

theorem execRdat_calm (e : EngId) (mask : Byte) (offset : BitVec 14) {s0 s : State} (hc0 : Calm s0 s) :
    CalmO s0 (execRdat e mask offset s) := by
  unfold execRdat; try dsimp only
  repeat' (with_reducible first | assumption | intro _ | apply waitAnswer_calm | apply scriptStop_calm | apply instruction_calm | apply Calm.ite | apply CalmO.ite | apply CalmO.next | split | apply Calm.mk | refine Calm.pair ?_ rfl rfl)

theorem execWhs_calm (e : EngId) (mask : Byte) (offset : BitVec 14) {s0 s : State} (hc0 : Calm s0 s) :
    CalmO s0 (execWhs e mask offset s) := by
  unfold execWhs; try dsimp only
  repeat' (with_reducible first | assumption | intro _ | apply waitAnswer_calm | apply instruction_calm | apply Calm.ite | apply CalmO.ite | apply CalmO.next | split | apply Calm.mk | refine Calm.pair ?_ rfl rfl)

theorem execShs_calm (e : EngId) {s0 s : State} (hc0 : Calm s0 s) :
    CalmO s0 (execShs e s) := by
  unfold execShs; try dsimp only
  repeat' (with_reducible first | assumption | intro _ | apply sendAck_calm | apply setRun_calm | apply instruction_calm | apply Calm.ite | apply CalmO.ite | apply CalmO.next | split | apply Calm.mk | refine Calm.pair ?_ rfl rfl)

theorem execArm_calm (e : EngId) (v : BitVec 10) {s0 s : State} (hc0 : Calm s0 s) :
    CalmO s0 (execArm e v s) := by
  unfold execArm; try dsimp only
  repeat' (with_reducible first | assumption | intro _ | apply setRun_calm | apply modChan_calm | apply instruction_calm | apply Calm.ite | apply CalmO.ite | apply CalmO.next | split | apply Calm.mk | refine Calm.pair ?_ rfl rfl)

theorem execDrn_calm (e : EngId) {s0 s : State} (hc0 : Calm s0 s) :
    CalmO s0 (execDrn e s) := by
  unfold execDrn; try dsimp only
  repeat' (with_reducible first | assumption | intro _ | apply setRun_calm | apply instruction_calm | apply Calm.ite | apply CalmO.ite | apply CalmO.next | split | apply Calm.mk | refine Calm.pair ?_ rfl rfl)

theorem execDly_calm (e : EngId) (count : BitVec 20) {s0 s : State} (hc0 : Calm s0 s) :
    CalmO s0 (execDly e count s) := by
  unfold execDly; try dsimp only
  repeat' (with_reducible first | assumption | intro _ | apply setRun_calm | apply park_calm | apply instruction_calm | apply Calm.ite | apply CalmO.ite | apply CalmO.next | split | apply Calm.mk | refine Calm.pair ?_ rfl rfl)

theorem execDlyExpiry_calm (e : EngId) (p : PortId) {s0 s : State} (hc0 : Calm s0 s) :
    CalmO s0 (execDlyExpiry e p s) := by
  unfold execDlyExpiry; try dsimp only
  repeat' (with_reducible first | assumption | intro _ | apply modEng_calm | apply guarded_calm | apply Calm.ite | apply CalmO.ite | apply CalmO.next | split | apply Calm.mk | refine Calm.pair ?_ rfl rfl)

theorem execParkedThreadResume_calm (e : EngId) (p : PortId) {s0 s : State} (hc0 : Calm s0 s) :
    CalmO s0 (execParkedThreadResume e p s) := by
  unfold execParkedThreadResume; try dsimp only
  repeat' (with_reducible first | assumption | intro _ | apply setEng_calm | apply guarded_calm | apply Calm.ite | apply CalmO.ite | apply CalmO.next | split | apply Calm.mk | refine Calm.pair ?_ rfl rfl)

theorem execGetw_calm (e : EngId) {s0 s : State} (hc0 : Calm s0 s) :
    CalmO s0 (execGetw e s) := by
  unfold execGetw; try dsimp only
  repeat' (with_reducible first | assumption | intro _ | apply setRun_calm | apply setEng_calm | apply nextWork_calm | apply instruction_calm | apply Calm.ite | apply CalmO.ite | apply CalmO.next | split | apply Calm.mk | refine Calm.pair ?_ rfl rfl)

theorem writeBack_calm (k : Option ℕ) {s0 s : State} (hc0 : Calm s0 s) :
    Calm s0 (writeBack k s) := by
  unfold writeBack; try dsimp only
  repeat' (with_reducible first | assumption | intro _ | apply hostWrite_calm | apply Calm.ite | apply CalmO.ite | apply CalmO.next | split | apply Calm.mk | refine Calm.pair ?_ rfl rfl)

theorem readCtx_calm (k : ℕ) {s0 s : State} (hc0 : Calm s0 s) :
    Calm s0 (readCtx k s) := by
  unfold readCtx; try dsimp only
  repeat' (with_reducible first | assumption | intro _ | apply emit_calm | apply Calm.ite | apply CalmO.ite | apply CalmO.next | split | apply Calm.mk | refine Calm.pair ?_ rfl rfl)

theorem setResident_calm (l : List ℕ) {s0 s : State} (hc0 : Calm s0 s) :
    Calm s0 (setResident l s) := by
  unfold setResident; try dsimp only
  repeat' (with_reducible first | assumption | intro _ | apply Calm.ite | apply CalmO.ite | apply CalmO.next | split | apply Calm.mk | refine Calm.pair ?_ rfl rfl)

theorem cacheCtx_calm (k : ℕ) {s0 s : State} (hc0 : Calm s0 s) :
    Calm s0 (cacheCtx k s) := by
  unfold cacheCtx; try dsimp only
  repeat' (with_reducible first | assumption | intro _ | apply writeBack_calm | apply readCtx_calm | apply setResident_calm | apply Calm.ite | apply CalmO.ite | apply CalmO.next | split | apply Calm.mk | refine Calm.pair ?_ rfl rfl)

theorem setAffinity_calm (f : Flow) (e : ℕ) {s0 s : State} (hc0 : Calm s0 s) :
    Calm s0 (setAffinity f e s) := by
  unfold setAffinity; try dsimp only
  repeat' (with_reducible first | assumption | intro _ | apply Calm.ite | apply CalmO.ite | apply CalmO.next | split | apply Calm.mk | refine Calm.pair ?_ rfl rfl)

theorem grantItem_calm (e : ℕ) (i : ℕ) (t : Thread) (vs : List (ℕ × ℕ × ℕ × ℕ)) {s0 s : State} (hc0 : Calm s0 s) :
    Calm s0 (grantItem e i t vs s) := by
  unfold grantItem; try dsimp only
  repeat' (with_reducible first | assumption | intro _ | apply setRun_calm | apply modCtx_calm | apply cacheCtx_calm | apply placeItem_calm | apply setItem_calm | apply modEng_calm | apply setAffinity_calm | apply Calm.ite | apply CalmO.ite | apply CalmO.next | split | apply Calm.mk | refine Calm.pair ?_ rfl rfl)

theorem execGetwGrant_calm (e : EngId) {s0 s : State} (hc0 : Calm s0 s) :
    CalmO s0 (execGetwGrant e s) := by
  unfold execGetwGrant; try dsimp only
  repeat' (with_reducible first | assumption | intro _ | apply grantItem_calm | apply postRequests_calm | apply guarded_calm | apply Calm.ite | apply CalmO.ite | apply CalmO.next | split | apply Calm.mk | refine Calm.pair ?_ rfl rfl)

theorem execAffinityOfferExpiry_calm (item : ℕ) {s0 s : State} (hc0 : Calm s0 s) :
    CalmO s0 (execAffinityOfferExpiry item s) := by
  unfold execAffinityOfferExpiry; try dsimp only
  repeat' (with_reducible first | assumption | intro _ | apply modItem_calm | apply guarded_calm | apply Calm.ite | apply CalmO.ite | apply CalmO.next | split | apply Calm.mk | refine Calm.pair ?_ rfl rfl)

theorem execPutw_calm (e : EngId) {s0 s : State} (hc0 : Calm s0 s) :
    CalmO s0 (execPutw e s) := by
  unfold execPutw; try dsimp only
  repeat' (with_reducible first | assumption | intro _ | apply modRun_calm | apply setItem_calm | apply modCtx_calm | apply setRun_calm | apply flushWork_calm | apply instruction_calm | apply Calm.ite | apply CalmO.ite | apply CalmO.next | split | apply Calm.mk | refine Calm.pair ?_ rfl rfl)

theorem finPost_calm (t : Thread) (st : Byte) (i : ℕ) {s0 s : State} (hc0 : Calm s0 s) :
    Calm s0 (finPost t st i s) := by
  unfold finPost; try dsimp only
  repeat' (with_reducible first | assumption | intro _ | apply finish_calm | apply modItem_calm | apply postItem_calm | apply Calm.ite | apply CalmO.ite | apply CalmO.next | split | apply Calm.mk | refine Calm.pair ?_ rfl rfl)

theorem execFin_calm (e : EngId) (v : BitVec 10) {s0 s : State} (hc0 : Calm s0 s) :
    CalmO s0 (execFin e v s) := by
  unfold execFin; try dsimp only
  repeat' (with_reducible first | assumption | intro _ | apply finPost_calm | apply each_calm | apply setRun_calm | apply flushWork_calm | apply instruction_calm | apply Calm.ite | apply CalmO.ite | apply CalmO.next | split | apply Calm.mk | refine Calm.pair ?_ rfl rfl)

theorem execEvt_calm (e : EngId) (v : BitVec 10) {s0 s : State} (hc0 : Calm s0 s) :
    CalmO s0 (execEvt e v s) := by
  unfold execEvt; try dsimp only
  repeat' (with_reducible first | assumption | intro _ | apply setRun_calm | apply modSource_calm | apply withRises_calm | apply instruction_calm | apply Calm.ite | apply CalmO.ite | apply CalmO.next | split | apply Calm.mk | refine Calm.pair ?_ rfl rfl)

theorem execEngineInterrupt_calm (e : EngId) {s0 s : State} (hc0 : Calm s0 s) :
    CalmO s0 (execEngineInterrupt e s) := by
  unfold execEngineInterrupt; try dsimp only
  repeat' (with_reducible first | assumption | intro _ | apply modEng_calm | apply setRun_calm | apply guarded_calm | apply Calm.ite | apply CalmO.ite | apply CalmO.next | split | apply Calm.mk | refine Calm.pair ?_ rfl rfl)

theorem returnItem_calm (k : ℕ × Item) {s0 s : State} (hc0 : Calm s0 s) :
    Calm s0 (returnItem k s) := by
  unfold returnItem; try dsimp only
  repeat' (with_reducible first | assumption | intro _ | apply dropStaged_calm | apply flowBack_calm | apply modSq_calm | apply delItem_calm | apply Calm.ite | apply CalmO.ite | apply CalmO.next | split | apply Calm.mk | refine Calm.pair ?_ rfl rfl)

theorem execItemPost_calm (post : PostBody) {s0 s : State} (hc0 : Calm s0 s) :
    CalmO s0 (execItemPost post s) := by
  unfold execItemPost; try dsimp only
  repeat' (with_reducible first | assumption | intro _ | apply returnItem_calm | apply postWork_calm | apply guarded_calm | apply Calm.ite | apply CalmO.ite | apply CalmO.next | split | apply Calm.mk | refine Calm.pair ?_ rfl rfl)

theorem execScall_calm (e : EngId) (v : BitVec 10) {s0 s : State} (hc0 : Calm s0 s) :
    CalmO s0 (execScall e v s) := by
  unfold execScall; try dsimp only
  repeat' (with_reducible first | assumption | intro _ | apply modEng_calm | apply setRun_calm | apply instruction_calm | apply Calm.ite | apply CalmO.ite | apply CalmO.next | split | apply Calm.mk | refine Calm.pair ?_ rfl rfl)

theorem hookDone_calm (st : Byte) (i : ℕ) {s0 s : State} (hc0 : Calm s0 s) :
    Calm s0 (hookDone st i s) := by
  unfold hookDone; try dsimp only
  repeat' (with_reducible first | assumption | intro _ | apply modItem_calm | apply overrideItem_calm | apply Calm.ite | apply CalmO.ite | apply CalmO.next | split | apply Calm.mk | refine Calm.pair ?_ rfl rfl)

theorem execSret_calm (e : EngId) (v : BitVec 10) {s0 s : State} (hc0 : Calm s0 s) :
    CalmO s0 (execSret e v s) := by
  unfold execSret; try dsimp only
  repeat' (with_reducible first | assumption | intro _ | apply flushWork_calm | apply hookDone_calm | apply each_calm | apply setRun_calm | apply scriptStop_calm | apply instruction_calm | apply Calm.ite | apply CalmO.ite | apply CalmO.next | split | apply Calm.mk | refine Calm.pair ?_ rfl rfl)

theorem execScriptBudgetExpiry_calm (e : EngId) {s0 s : State} (hc0 : Calm s0 s) :
    CalmO s0 (execScriptBudgetExpiry e s) := by
  unfold execScriptBudgetExpiry; try dsimp only
  repeat' (with_reducible first | assumption | intro _ | apply scriptStop_calm | apply guarded_calm | apply Calm.ite | apply CalmO.ite | apply CalmO.next | split | apply Calm.mk | refine Calm.pair ?_ rfl rfl)

theorem execFloatStart_calm (p : PortId) {s0 s : State} (hc0 : Calm s0 s) :
    CalmO s0 (execFloatStart p s) := by
  unfold execFloatStart; try dsimp only
  repeat' (with_reducible first | assumption | intro _ | apply floatServe_calm | apply runLane_calm | apply guarded_calm | apply Calm.ite | apply CalmO.ite | apply CalmO.next | split | apply Calm.mk | refine Calm.pair ?_ rfl rfl)

theorem scriptLoadOp_calm (ctx : CmdCtx) (number : ℕ) (image : List Byte) {s0 s : State} (hc0 : Calm s0 s) :
    Calm s0 (scriptLoadOp ctx number image s) := by
  unfold scriptLoadOp; try dsimp only
  repeat' (with_reducible first | assumption | intro _ | apply reply_calm | apply begun_calm | apply Calm.ite | apply CalmO.ite | apply CalmO.next | split | apply Calm.mk | refine Calm.pair ?_ rfl rfl)

theorem scriptUnloadOp_calm (ctx : CmdCtx) (number : ℕ) {s0 s : State} (hc0 : Calm s0 s) :
    Calm s0 (scriptUnloadOp ctx number s) := by
  unfold scriptUnloadOp; try dsimp only
  repeat' (with_reducible first | assumption | intro _ | apply reply_calm | apply begun_calm | apply Calm.ite | apply CalmO.ite | apply CalmO.next | split | apply Calm.mk | refine Calm.pair ?_ rfl rfl)

theorem setScript_calm (num : ℕ) (n : ℕ) {s0 s : State} (hc0 : Calm s0 s) :
    Calm s0 (setScript num n s) := by
  unfold setScript; try dsimp only
  repeat' (with_reducible first | assumption | intro _ | apply refreshWin_calm | apply each_calm | apply modDev_calm | apply Calm.ite | apply CalmO.ite | apply CalmO.next | split | apply Calm.mk | refine Calm.pair ?_ rfl rfl)

theorem scriptBindOp_calm (ctx : CmdCtx) (b : BindBody) {s0 s : State} (hc0 : Calm s0 s) :
    Calm s0 (scriptBindOp ctx b s) := by
  unfold scriptBindOp; try dsimp only
  repeat' (with_reducible first | assumption | intro _ | apply setScript_calm | apply reply_calm | apply begun_calm | apply Calm.ite | apply CalmO.ite | apply CalmO.next | split | apply Calm.mk | refine Calm.pair ?_ rfl rfl)

theorem scriptUnbindOp_calm (ctx : CmdCtx) (b : BindBody) {s0 s : State} (hc0 : Calm s0 s) :
    Calm s0 (scriptUnbindOp ctx b s) := by
  unfold scriptUnbindOp; try dsimp only
  repeat' (with_reducible first | assumption | intro _ | apply setScript_calm | apply reply_calm | apply begun_calm | apply Calm.ite | apply CalmO.ite | apply CalmO.next | split | apply Calm.mk | refine Calm.pair ?_ rfl rfl)

theorem execScriptLoad_calm (ctx : CmdCtx) (number : Byte) (image : List Byte) {s0 s : State} (hc0 : Calm s0 s) :
    CalmO s0 (execScriptLoad ctx number image s) := by
  unfold execScriptLoad; try dsimp only
  repeat' (with_reducible first | assumption | intro _ | apply scriptLoadOp_calm | apply guarded_calm | apply Calm.ite | apply CalmO.ite | apply CalmO.next | split | apply Calm.mk | refine Calm.pair ?_ rfl rfl)

theorem execScriptUnload_calm (ctx : CmdCtx) (number : Byte) {s0 s : State} (hc0 : Calm s0 s) :
    CalmO s0 (execScriptUnload ctx number s) := by
  unfold execScriptUnload; try dsimp only
  repeat' (with_reducible first | assumption | intro _ | apply scriptUnloadOp_calm | apply guarded_calm | apply Calm.ite | apply CalmO.ite | apply CalmO.next | split | apply Calm.mk | refine Calm.pair ?_ rfl rfl)

theorem execScriptBind_calm (ctx : CmdCtx) (body : BindBody) {s0 s : State} (hc0 : Calm s0 s) :
    CalmO s0 (execScriptBind ctx body s) := by
  unfold execScriptBind; try dsimp only
  repeat' (with_reducible first | assumption | intro _ | apply scriptBindOp_calm | apply guarded_calm | apply Calm.ite | apply CalmO.ite | apply CalmO.next | split | apply Calm.mk | refine Calm.pair ?_ rfl rfl)

theorem execScriptUnbind_calm (ctx : CmdCtx) (body : BindBody) {s0 s : State} (hc0 : Calm s0 s) :
    CalmO s0 (execScriptUnbind ctx body s) := by
  unfold execScriptUnbind; try dsimp only
  repeat' (with_reducible first | assumption | intro _ | apply scriptUnbindOp_calm | apply guarded_calm | apply Calm.ite | apply CalmO.ite | apply CalmO.next | split | apply Calm.mk | refine Calm.pair ?_ rfl rfl)

theorem execDoorbellBlockReadDone_calm (f : FuncId) (block : Fin 512) (ok : Bool) (records : List U32) {s0 s : State} (hc0 : Calm s0 s) :
    CalmO s0 (execDoorbellBlockReadDone f block ok records s) := by
  unfold execDoorbellBlockReadDone; try dsimp only
  repeat' (with_reducible first | assumption | intro _ | apply emit_calm | apply doorbellRecords_calm | apply sweepHandles_calm | apply guarded_calm | apply Calm.ite | apply CalmO.ite | apply CalmO.next | split | apply Calm.mk | refine Calm.pair ?_ rfl rfl)

theorem execSqEntryFetched_calm (f : FuncId) (q : Fin 4096) (ok : Bool) (raw : BitVec 256) {s0 s : State} (hc0 : Calm s0 s) :
    CalmO s0 (execSqEntryFetched f q ok raw s) := by
  unfold execSqEntryFetched; try dsimp only
  repeat' (with_reducible first | assumption | intro _ | apply fetchEntry_calm | apply guarded_calm | apply Calm.ite | apply CalmO.ite | apply CalmO.next | split | apply Calm.mk | refine Calm.pair ?_ rfl rfl)

theorem execQKickSq_calm (f : FuncId) (q : Fin 4096) (index : U16) {s0 s : State} (hc0 : Calm s0 s) :
    CalmO s0 (execQKickSq f q index s) := by
  unfold execQKickSq; try dsimp only
  repeat' (with_reducible first | assumption | intro _ | apply acceptP_calm | apply sweepHandles_calm | apply guarded_calm | apply Calm.ite | apply CalmO.ite | apply CalmO.next | split | apply Calm.mk | refine Calm.pair ?_ rfl rfl)

theorem execQKickSqInval_calm (f : FuncId) (q : Fin 4096) (index : U16) {s0 s : State} (hc0 : Calm s0 s) :
    CalmO s0 (execQKickSqInval f q index s) := by
  unfold execQKickSqInval; try dsimp only
  repeat' (with_reducible first | assumption | intro _ | apply kickInval_calm | apply sweepHandles_calm | apply guarded_calm | apply Calm.ite | apply CalmO.ite | apply CalmO.next | split | apply Calm.mk | refine Calm.pair ?_ rfl rfl)

theorem execQKickCr_calm (f : FuncId) (r : Fin 4096) (index : U16) {s0 s : State} (hc0 : Calm s0 s) :
    CalmO s0 (execQKickCr f r index s) := by
  unfold execQKickCr; try dsimp only
  repeat' (with_reducible first | assumption | intro _ | apply acceptC_calm | apply sweepHandles_calm | apply guarded_calm | apply Calm.ite | apply CalmO.ite | apply CalmO.next | split | apply Calm.mk | refine Calm.pair ?_ rfl rfl)

theorem execQCreate_calm (f : FuncId) {s0 s : State} (hc0 : Calm s0 s) :
    CalmO s0 (execQCreate f s) := by
  unfold execQCreate; try dsimp only
  repeat' (with_reducible first | assumption | intro _ | apply createQueue_calm | apply guarded_calm | apply Calm.ite | apply CalmO.ite | apply CalmO.next | split | apply Calm.mk | refine Calm.pair ?_ rfl rfl)

theorem execQDestroy_calm (f : FuncId) {s0 s : State} (hc0 : Calm s0 s) :
    CalmO s0 (execQDestroy f s) := by
  unfold execQDestroy; try dsimp only
  repeat' (with_reducible first | assumption | intro _ | apply forgetSq_calm | apply sweepHandles_calm | apply destroyQueue_calm | apply guarded_calm | apply Calm.ite | apply CalmO.ite | apply CalmO.next | split | apply Calm.mk | refine Calm.pair ?_ rfl rfl)

theorem execQRead_calm (f : FuncId) {s0 s : State} (hc0 : Calm s0 s) :
    CalmO s0 (execQRead f s) := by
  unfold execQRead; try dsimp only
  repeat' (with_reducible first | assumption | intro _ | apply readQueue_calm | apply guarded_calm | apply Calm.ite | apply CalmO.ite | apply CalmO.next | split | apply Calm.mk | refine Calm.pair ?_ rfl rfl)

theorem execCompletionRelease_calm (item : ℕ) {s0 s : State} (hc0 : Calm s0 s) :
    CalmO s0 (execCompletionRelease item s) := by
  unfold execCompletionRelease; try dsimp only
  repeat' (with_reducible first | assumption | intro _ | apply releaseItem_calm | apply sweepHandles_calm | apply guarded_calm | apply Calm.ite | apply CalmO.ite | apply CalmO.next | split | apply Calm.mk | refine Calm.pair ?_ rfl rfl)

theorem execQueueStop_calm (ctx : CmdCtx) (q : U16) {s0 s : State} (hc0 : Calm s0 s) :
    CalmO s0 (execQueueStop ctx q s) := by
  unfold execQueueStop; try dsimp only
  repeat' (with_reducible first | assumption | intro _ | apply queueStopCmd_calm | apply guarded_calm | apply Calm.ite | apply CalmO.ite | apply CalmO.next | split | apply Calm.mk | refine Calm.pair ?_ rfl rfl)

theorem execQueueStart_calm (ctx : CmdCtx) (q : U16) {s0 s : State} (hc0 : Calm s0 s) :
    CalmO s0 (execQueueStart ctx q s) := by
  unfold execQueueStart; try dsimp only
  repeat' (with_reducible first | assumption | intro _ | apply queueStartCmd_calm | apply guarded_calm | apply Calm.ite | apply CalmO.ite | apply CalmO.next | split | apply Calm.mk | refine Calm.pair ?_ rfl rfl)

theorem ctxCtlWrite_calm (v : U32) {s0 s : State} (hc0 : Calm s0 s) :
    Calm s0 (ctxCtlWrite v s) := by
  unfold ctxCtlWrite; try dsimp only
  repeat' (with_reducible first | assumption | intro _ | apply modPort_calm | apply portEnableOp_calm | apply each_calm | apply Calm.ite | apply CalmO.ite | apply CalmO.next | split | apply Calm.mk | refine Calm.pair ?_ rfl rfl)

theorem execDspCtxCtlWrite_calm (value : U32) {s0 s : State} (hc0 : Calm s0 s) :
    CalmO s0 (execDspCtxCtlWrite value s) := by
  unfold execDspCtxCtlWrite; try dsimp only
  repeat' (with_reducible first | assumption | intro _ | apply ctxCtlWrite_calm | apply guarded_calm | apply Calm.ite | apply CalmO.ite | apply CalmO.next | split | apply Calm.mk | refine Calm.pair ?_ rfl rfl)

theorem lanesOn_calm {s0 s : State} (hc0 : Calm s0 s) :
    Calm s0 (lanesOn s) := by
  unfold lanesOn; try dsimp only
  repeat' (with_reducible first | assumption | intro _ | apply runLane_calm | apply each_calm | apply Calm.ite | apply CalmO.ite | apply CalmO.next | split | apply Calm.mk | refine Calm.pair ?_ rfl rfl)

theorem execDmaRequest_calm (cut : ℕ) {s0 s : State} (hc0 : Calm s0 s) :
    CalmO s0 (execDmaRequest cut s) := by
  unfold execDmaRequest; try dsimp only
  repeat' (with_reducible first | assumption | intro _ | apply dmaServe_calm | apply lanesOn_calm | apply guarded_calm | apply Calm.ite | apply CalmO.ite | apply CalmO.next | split | apply Calm.mk | refine Calm.pair ?_ rfl rfl)

theorem execDmaReadCompletion_calm (ch : Fin 144) (timed : Bool) (ok : Bool) (data : List Byte) {s0 s : State} (hc0 : Calm s0 s) :
    CalmO s0 (execDmaReadCompletion ch timed ok data s) := by
  unfold execDmaReadCompletion; try dsimp only
  repeat' (with_reducible first | assumption | intro _ | apply readDone_calm | apply lanesOn_calm | apply guarded_calm | apply Calm.ite | apply CalmO.ite | apply CalmO.next | split | apply Calm.mk | refine Calm.pair ?_ rfl rfl)

theorem drained_calm (key : ℕ) {s0 s : State} (hc0 : Calm s0 s) :
    Calm s0 (drained key s) := by
  unfold drained; try dsimp only
  repeat' (with_reducible first | assumption | intro _ | apply modChan_calm | apply Calm.ite | apply CalmO.ite | apply CalmO.next | split | apply Calm.mk | refine Calm.pair ?_ rfl rfl)

theorem execDrainComplete_calm (ch : Fin 144) (timed : Bool) {s0 s : State} (hc0 : Calm s0 s) :
    CalmO s0 (execDrainComplete ch timed s) := by
  unfold execDrainComplete; try dsimp only
  repeat' (with_reducible first | assumption | intro _ | apply drained_calm | apply guarded_calm | apply Calm.ite | apply CalmO.ite | apply CalmO.next | split | apply Calm.mk | refine Calm.pair ?_ rfl rfl)

theorem execIndexTableReadDone_calm (item : ℕ) (first : ℕ) (ok : Bool) (bytes : List Byte) {s0 s : State} (hc0 : Calm s0 s) :
    CalmO s0 (execIndexTableReadDone item first ok bytes s) := by
  unfold execIndexTableReadDone; try dsimp only
  repeat' (with_reducible first | assumption | intro _ | apply idxRead_calm | apply guarded_calm | apply Calm.ite | apply CalmO.ite | apply CalmO.next | split | apply Calm.mk | refine Calm.pair ?_ rfl rfl)

theorem execBufCarve_calm (ctx : CmdCtx) (handle : U16) (epaddr : Byte) {s0 s : State} (hc0 : Calm s0 s) :
    CalmO s0 (execBufCarve ctx handle epaddr s) := by
  unfold execBufCarve; try dsimp only
  repeat' (with_reducible first | assumption | intro _ | apply bufCarveCmd_calm | apply guarded_calm | apply Calm.ite | apply CalmO.ite | apply CalmO.next | split | apply Calm.mk | refine Calm.pair ?_ rfl rfl)

theorem execBufRelease_calm (ctx : CmdCtx) (handle : U16) (epaddr : Byte) {s0 s : State} (hc0 : Calm s0 s) :
    CalmO s0 (execBufRelease ctx handle epaddr s) := by
  unfold execBufRelease; try dsimp only
  repeat' (with_reducible first | assumption | intro _ | apply bufReleaseCmd_calm | apply guarded_calm | apply Calm.ite | apply CalmO.ite | apply CalmO.next | split | apply Calm.mk | refine Calm.pair ?_ rfl rfl)

theorem execBufReleaseComplete_calm (f : FuncId) (handle : U16) (epaddr : Byte) {s0 s : State} (hc0 : Calm s0 s) :
    CalmO s0 (execBufReleaseComplete f handle epaddr s) := by
  unfold execBufReleaseComplete; try dsimp only
  repeat' (with_reducible first | assumption | intro _ | apply bufReleaseFinish_calm | apply guarded_calm | apply Calm.ite | apply CalmO.ite | apply CalmO.next | split | apply Calm.mk | refine Calm.pair ?_ rfl rfl)

theorem execPageScrubDone_calm (page : Fin 3950) {s0 s : State} (hc0 : Calm s0 s) :
    CalmO s0 (execPageScrubDone page s) := by
  unfold execPageScrubDone; try dsimp only
  repeat' (with_reducible first | assumption | intro _ | apply scrubbed_calm | apply guarded_calm | apply Calm.ite | apply CalmO.ite | apply CalmO.next | split | apply Calm.mk | refine Calm.pair ?_ rfl rfl)

theorem scrubVisit_calm (page : ℕ) (word : ℕ) (bad : EccResult) {s0 s : State} (hc0 : Calm s0 s) :
    Calm s0 (scrubVisit page word bad s) := by
  unfold scrubVisit; try dsimp only
  repeat' (with_reducible first | assumption | intro _ | apply countError_calm | apply Calm.ite | apply CalmO.ite | apply CalmO.next | split | apply Calm.mk | refine Calm.pair ?_ rfl rfl)

theorem execEccScrubVisit_calm (page : Fin 4014) (word : Fin 512) (bad : EccResult) {s0 s : State} (hc0 : Calm s0 s) :
    CalmO s0 (execEccScrubVisit page word bad s) := by
  unfold execEccScrubVisit; try dsimp only
  repeat' (with_reducible first | assumption | intro _ | apply scrubVisit_calm | apply guarded_calm | apply Calm.ite | apply CalmO.ite | apply CalmO.next | split | apply Calm.mk | refine Calm.pair ?_ rfl rfl)

theorem vfCreateOp_calm (ctx : CmdCtx) (d : FuncDesc) {s0 s : State} (hc0 : Calm s0 s) :
    Calm s0 (vfCreateOp ctx d s) := by
  unfold vfCreateOp; try dsimp only
  repeat' (with_reducible first | assumption | intro _ | apply modFn_calm | apply scrubPages_calm | apply reply_calm | apply begun_calm | apply Calm.ite | apply CalmO.ite | apply CalmO.next | split | apply Calm.mk | refine Calm.pair ?_ rfl rfl)

theorem setPages_calm (f : ℕ) (n : ℕ) {s0 s : State} (hc0 : Calm s0 s) :
    Calm s0 (setPages f n s) := by
  unfold setPages; try dsimp only
  repeat' (with_reducible first | assumption | intro _ | apply scrubPages_calm | apply Calm.ite | apply CalmO.ite | apply CalmO.next | split | apply Calm.mk | refine Calm.pair ?_ rfl rfl)

theorem funcModifyOp_calm (ctx : CmdCtx) (d : FuncDesc) {s0 s : State} (hc0 : Calm s0 s) :
    Calm s0 (funcModifyOp ctx d s) := by
  unfold funcModifyOp; try dsimp only
  repeat' (with_reducible first | assumption | intro _ | apply raiseVf_calm | apply modFn_calm | apply setPages_calm | apply reply_calm | apply begun_calm | apply Calm.ite | apply CalmO.ite | apply CalmO.next | split | apply Calm.mk | refine Calm.pair ?_ rfl rfl)

theorem funcQueryOp_calm (ctx : CmdCtx) (v : ℕ) {s0 s : State} (hc0 : Calm s0 s) :
    Calm s0 (funcQueryOp ctx v s) := by
  unfold funcQueryOp; try dsimp only
  repeat' (with_reducible first | assumption | intro _ | apply reply_calm | apply begun_calm | apply Calm.ite | apply CalmO.ite | apply CalmO.next | split | apply Calm.mk | refine Calm.pair ?_ rfl rfl)

theorem leaveHandle_calm (num : ℕ) {s0 s : State} (hc0 : Calm s0 s) :
    Calm s0 (leaveHandle num s) := by
  unfold leaveHandle; try dsimp only
  repeat' (with_reducible first | assumption | intro _ | apply modHandle_calm | apply freeDedicated_calm | apply endScripts_calm | apply setScript_calm | apply stopItem_calm | apply each_calm | apply Calm.ite | apply CalmO.ite | apply CalmO.next | split | apply Calm.mk | refine Calm.pair ?_ rfl rfl)

theorem ownCtxs_calm (n : ℕ) (f : ℕ) {s0 s : State} (hc0 : Calm s0 s) :
    Calm s0 (ownCtxs n f s) := by
  unfold ownCtxs; try dsimp only
  repeat' (with_reducible first | assumption | intro _ | apply Calm.ite | apply CalmO.ite | apply CalmO.next | split | apply Calm.mk | refine Calm.pair ?_ rfl rfl)

theorem markReturn_calm (num : ℕ) (n : ℕ) (f : ℕ) (ret : Bool) {s0 s : State} (hc0 : Calm s0 s) :
    Calm s0 (markReturn num n f ret s) := by
  unfold markReturn; try dsimp only
  repeat' (with_reducible first | assumption | intro _ | apply Calm.ite | apply CalmO.ite | apply CalmO.next | split | apply Calm.mk | refine Calm.pair ?_ rfl rfl)

theorem moveDevice_calm (num : ℕ) (f : ℕ) (ret : Bool) {s0 s : State} (hc0 : Calm s0 s) :
    Calm s0 (moveDevice num f ret s) := by
  unfold moveDevice; try dsimp only
  repeat' (with_reducible first | assumption | intro _ | apply leaveHandle_calm | apply enliven_calm | apply rekey_calm | apply ownCtxs_calm | apply markReturn_calm | apply Calm.ite | apply CalmO.ite | apply CalmO.next | refine takeHandle_calm (by assumption) ?_ | split | apply Calm.mk | refine Calm.pair ?_ rfl rfl)

theorem devChange_calm (fs : List ℕ) {s0 s : State} (hc0 : Calm s0 s) :
    Calm s0 (devChange fs s) := by
  unfold devChange; try dsimp only
  repeat' (with_reducible first | assumption | intro _ | apply raiseVf_calm | apply each_calm | apply Calm.ite | apply CalmO.ite | apply CalmO.next | split | apply Calm.mk | refine Calm.pair ?_ rfl rfl)

theorem devAssignOp_calm (ctx : CmdCtx) (b : AssignBody) {s0 s : State} (hc0 : Calm s0 s) :
    Calm s0 (devAssignOp ctx b s) := by
  unfold devAssignOp; try dsimp only
  repeat' (with_reducible first | assumption | intro _ | apply modFn_calm | apply raise_calm | apply devChange_calm | apply refreshIso_calm | apply moveDevice_calm | apply each_calm | apply reply_calm | apply begun_calm | apply Calm.ite | apply CalmO.ite | apply CalmO.next | split | apply Calm.mk | refine Calm.pair ?_ rfl rfl)

theorem devQueryOp_calm (ctx : CmdCtx) (f : ℕ) (first : ℕ) {s0 s : State} (hc0 : Calm s0 s) :
    Calm s0 (devQueryOp ctx f first s) := by
  unfold devQueryOp; try dsimp only
  repeat' (with_reducible first | assumption | intro _ | apply reply_calm | apply begun_calm | apply Calm.ite | apply CalmO.ite | apply CalmO.next | split | apply Calm.mk | refine Calm.pair ?_ rfl rfl)

theorem abortFlr_calm (i : ℕ) {s0 s : State} (hc0 : Calm s0 s) :
    Calm s0 (abortFlr i s) := by
  unfold abortFlr; try dsimp only
  repeat' (with_reducible first | assumption | intro _ | apply modItem_calm | apply stopItem_calm | apply Calm.ite | apply CalmO.ite | apply CalmO.next | split | apply Calm.mk | refine Calm.pair ?_ rfl rfl)

theorem cancelCmds_calm (f : ℕ) {s0 s : State} (hc0 : Calm s0 s) :
    Calm s0 (cancelCmds f s) := by
  unfold cancelCmds; try dsimp only
  repeat' (with_reducible first | assumption | intro _ | apply modFn_calm | apply setBox_calm | apply Calm.ite | apply CalmO.ite | apply CalmO.next | split | apply Calm.mk | refine Calm.pair ?_ rfl rfl)

theorem flrBegin_calm (f : ℕ) {s0 s : State} (hc0 : Calm s0 s) :
    Calm s0 (flrBegin f s) := by
  unfold flrBegin; try dsimp only
  repeat' (with_reducible first | assumption | intro _ | apply scrubPages_calm | apply freeDedicated_calm | apply cancelCmds_calm | apply dropRes_calm | apply abortFlr_calm | apply freeItem_calm | apply each_calm | apply modFn_calm | apply Calm.ite | apply CalmO.ite | apply CalmO.next | split | apply Calm.mk | refine Calm.pair ?_ rfl rfl)

theorem dropReturns_calm (v : ℕ) {s0 s : State} (hc0 : Calm s0 s) :
    Calm s0 (dropReturns v s) := by
  unfold dropReturns; try dsimp only
  repeat' (with_reducible first | assumption | intro _ | apply Calm.ite | apply CalmO.ite | apply CalmO.next | split | apply Calm.mk | refine Calm.pair ?_ rfl rfl)

theorem destroyVf_calm (v : ℕ) {s0 s : State} (hc0 : Calm s0 s) :
    Calm s0 (destroyVf v s) := by
  unfold destroyVf; try dsimp only
  repeat' (with_reducible first | assumption | intro _ | apply refreshIso_calm | apply setFn_calm | apply dropReturns_calm | apply setPage_calm | apply moveDevice_calm | apply each_calm | apply Calm.ite | apply CalmO.ite | apply CalmO.next | split | apply Calm.mk | refine Calm.pair ?_ rfl rfl)

theorem flrEnd_calm (f : ℕ) {s0 s : State} (hc0 : Calm s0 s) :
    Calm s0 (flrEnd f s) := by
  unfold flrEnd; try dsimp only
  repeat' (with_reducible first | assumption | intro _ | apply sweepHandles_calm | apply reply_calm | apply destroyVf_calm | apply raise_calm | apply setEvt_calm | apply modFn_calm | apply forgetSq_calm | apply each_calm | apply Calm.ite | apply CalmO.ite | apply CalmO.next | split | apply Calm.mk | refine Calm.pair ?_ rfl rfl)

theorem vfDestroyOp_calm (ctx : CmdCtx) (v : ℕ) {s0 s : State} (hc0 : Calm s0 s) :
    Calm s0 (vfDestroyOp ctx v s) := by
  unfold vfDestroyOp; try dsimp only
  repeat' (with_reducible first | assumption | intro _ | apply flrBegin_calm | apply modFn_calm | apply reply_calm | apply begun_calm | apply Calm.ite | apply CalmO.ite | apply CalmO.next | split | apply Calm.mk | refine Calm.pair ?_ rfl rfl)

theorem destroyAll_calm {s0 s : State} (hc0 : Calm s0 s) :
    Calm s0 (destroyAll s) := by
  unfold destroyAll; try dsimp only
  repeat' (with_reducible first | assumption | intro _ | apply flrBegin_calm | apply modFn_calm | apply each_calm | apply Calm.ite | apply CalmO.ite | apply CalmO.next | split | apply Calm.mk | refine Calm.pair ?_ rfl rfl)

theorem execVfEnableSet_calm (numVFs : Fin 128) {s0 s : State} (hc0 : Calm s0 s) :
    CalmO s0 (execVfEnableSet numVFs s) := by
  unfold execVfEnableSet; try dsimp only
  repeat' (with_reducible first | assumption | intro _ | apply modFn_calm | apply each_calm | apply guarded_calm | apply Calm.ite | apply CalmO.ite | apply CalmO.next | split | apply Calm.mk | refine Calm.pair ?_ rfl rfl)

theorem execVfEnableClear_calm {s0 s : State} (hc0 : Calm s0 s) :
    CalmO s0 (execVfEnableClear s) := by
  unfold execVfEnableClear; try dsimp only
  repeat' (with_reducible first | assumption | intro _ | apply destroyAll_calm | apply guarded_calm | apply Calm.ite | apply CalmO.ite | apply CalmO.next | split | apply Calm.mk | refine Calm.pair ?_ rfl rfl)

theorem sendReplies_calm (f : ℕ) {s0 s : State} (hc0 : Calm s0 s) :
    Calm s0 (sendReplies f s) := by
  unfold sendReplies; try dsimp only
  repeat' (with_reducible first | assumption | intro _ | apply modBox_calm | apply answeredBox_calm | apply writeReply_calm | apply each_calm | apply Calm.ite | apply CalmO.ite | apply CalmO.next | split | apply Calm.mk | refine Calm.pair ?_ rfl rfl)

theorem execBusMasterEnableChange_calm (f : FuncId) (on : Bool) {s0 s : State} (hc0 : Calm s0 s) :
    CalmO s0 (execBusMasterEnableChange f on s) := by
  unfold execBusMasterEnableChange; try dsimp only
  repeat' (with_reducible first | assumption | intro _ | apply msixRelease_calm | apply sendReplies_calm | apply crDrain_calm | apply each_calm | apply modFn_calm | apply guarded_calm | apply Calm.ite | apply CalmO.ite | apply CalmO.next | split | apply Calm.mk | refine Calm.pair ?_ rfl rfl)

theorem execVfCreate_calm (ctx : CmdCtx) (d : FuncDesc) {s0 s : State} (hc0 : Calm s0 s) :
    CalmO s0 (execVfCreate ctx d s) := by
  unfold execVfCreate; try dsimp only
  repeat' (with_reducible first | assumption | intro _ | apply vfCreateOp_calm | apply guarded_calm | apply Calm.ite | apply CalmO.ite | apply CalmO.next | split | apply Calm.mk | refine Calm.pair ?_ rfl rfl)

theorem execVfDestroy_calm (ctx : CmdCtx) (v : Byte) {s0 s : State} (hc0 : Calm s0 s) :
    CalmO s0 (execVfDestroy ctx v s) := by
  unfold execVfDestroy; try dsimp only
  repeat' (with_reducible first | assumption | intro _ | apply vfDestroyOp_calm | apply guarded_calm | apply Calm.ite | apply CalmO.ite | apply CalmO.next | split | apply Calm.mk | refine Calm.pair ?_ rfl rfl)

theorem execFuncModify_calm (ctx : CmdCtx) (d : FuncDesc) {s0 s : State} (hc0 : Calm s0 s) :
    CalmO s0 (execFuncModify ctx d s) := by
  unfold execFuncModify; try dsimp only
  repeat' (with_reducible first | assumption | intro _ | apply funcModifyOp_calm | apply guarded_calm | apply Calm.ite | apply CalmO.ite | apply CalmO.next | split | apply Calm.mk | refine Calm.pair ?_ rfl rfl)

theorem execFuncQuery_calm (ctx : CmdCtx) (v : Byte) {s0 s : State} (hc0 : Calm s0 s) :
    CalmO s0 (execFuncQuery ctx v s) := by
  unfold execFuncQuery; try dsimp only
  repeat' (with_reducible first | assumption | intro _ | apply funcQueryOp_calm | apply guarded_calm | apply Calm.ite | apply CalmO.ite | apply CalmO.next | split | apply Calm.mk | refine Calm.pair ?_ rfl rfl)

theorem execDevAssign_calm (ctx : CmdCtx) (body : AssignBody) {s0 s : State} (hc0 : Calm s0 s) :
    CalmO s0 (execDevAssign ctx body s) := by
  unfold execDevAssign; try dsimp only
  repeat' (with_reducible first | assumption | intro _ | apply devAssignOp_calm | apply guarded_calm | apply Calm.ite | apply CalmO.ite | apply CalmO.next | split | apply Calm.mk | refine Calm.pair ?_ rfl rfl)

theorem execDevQuery_calm (ctx : CmdCtx) (func : Byte) (first : U16) {s0 s : State} (hc0 : Calm s0 s) :
    CalmO s0 (execDevQuery ctx func first s) := by
  unfold execDevQuery; try dsimp only
  repeat' (with_reducible first | assumption | intro _ | apply devQueryOp_calm | apply guarded_calm | apply Calm.ite | apply CalmO.ite | apply CalmO.next | split | apply Calm.mk | refine Calm.pair ?_ rfl rfl)

theorem execDirtyMapWrite_calm (v : FuncId) (page : ℕ) {s0 s : State} (hc0 : Calm s0 s) :
    CalmO s0 (execDirtyMapWrite v page s) := by
  unfold execDirtyMapWrite; try dsimp only
  repeat' (with_reducible first | assumption | intro _ | apply setFn_calm | apply hostWrite_calm | apply guarded_calm | apply Calm.ite | apply CalmO.ite | apply CalmO.next | split | apply Calm.mk | refine Calm.pair ?_ rfl rfl)

theorem execVfFlr_calm (v : FuncId) {s0 s : State} (hc0 : Calm s0 s) :
    CalmO s0 (execVfFlr v s) := by
  unfold execVfFlr; try dsimp only
  repeat' (with_reducible first | assumption | intro _ | apply flrBegin_calm | apply guarded_calm | apply Calm.ite | apply CalmO.ite | apply CalmO.next | split | apply Calm.mk | refine Calm.pair ?_ rfl rfl)

theorem execVfResetDone_calm (v : FuncId) {s0 s : State} (hc0 : Calm s0 s) :
    CalmO s0 (execVfResetDone v s) := by
  unfold execVfResetDone; try dsimp only
  repeat' (with_reducible first | assumption | intro _ | apply flrEnd_calm | apply guarded_calm | apply Calm.ite | apply CalmO.ite | apply CalmO.next | split | apply Calm.mk | refine Calm.pair ?_ rfl rfl)

theorem execPf0Flr_calm {s0 s : State} (hc0 : Calm s0 s) :
    CalmO s0 (execPf0Flr s) := by
  unfold execPf0Flr; try dsimp only
  repeat' (with_reducible first | assumption | intro _ | apply destroyAll_calm | apply flrBegin_calm | apply guarded_calm | apply Calm.ite | apply CalmO.ite | apply CalmO.next | split | apply Calm.mk | refine Calm.pair ?_ rfl rfl)

end Sys2Proof.Machine
end

