-- ==== Sys2Proof/Laws/CalmParts.lean ====
section
/-! SUPPORT. What no operation of the block touches, continued: the operations of the pair, PCTL_B, firmware, mailboxes, power and registers. -/

set_option linter.unusedTactic false
set_option linter.unreachableTactic false

namespace Sys2Proof.Machine

set_option Elab.async false

theorem freeAcked_calm (ack : U32) {s0 s : State} (hc0 : Calm s0 s) :
    Calm s0 (freeAcked ack s) := by
  unfold freeAcked; try dsimp only
  repeat' (with_reducible first | assumption | intro _ | apply Calm.ite | apply CalmO.ite | apply CalmO.next | split | apply Calm.mk | refine Calm.pair ?_ rfl rfl)

theorem sendNak_calm {s0 s : State} (hc0 : Calm s0 s) :
    Calm s0 (sendNak s) := by
  unfold sendNak; try dsimp only
  repeat' (with_reducible first | assumption | intro _ | apply xbkSendOnce_calm | apply Calm.ite | apply CalmO.ite | apply CalmO.next | split | apply Calm.mk | refine Calm.pair ?_ rfl rfl)

theorem noteGap_calm (q : U32) (n : ℕ) {s0 s : State} (hc0 : Calm s0 s) :
    Calm s0 (noteGap q n s) := by
  unfold noteGap; try dsimp only
  repeat' (with_reducible first | assumption | intro _ | apply sendNak_calm | apply Calm.ite | apply CalmO.ite | apply CalmO.next | split | apply Calm.mk | refine Calm.pair ?_ rfl rfl)

theorem kept_calm (h : XbkHdr) (f : State → State) {s0 s : State} (hf : ∀ v0, Calm s0 v0 → Calm s0 (f v0)) (hc0 : Calm s0 s) :
    Calm s0 (kept h f s) := by
  unfold kept; try dsimp only
  repeat' (with_reducible first | assumption | intro _ | apply hf | apply noteGap_calm | apply freeAcked_calm | apply Calm.ite | apply CalmO.ite | apply CalmO.next | split | apply Calm.mk | refine Calm.pair ?_ rfl rfl)

theorem once_calm (h : XbkHdr) (f : State → State) {s0 s : State} (hf : ∀ v0, Calm s0 v0 → Calm s0 (f v0)) (hc0 : Calm s0 s) :
    Calm s0 (once h f s) := by
  unfold once; try dsimp only
  repeat' (with_reducible first | assumption | intro _ | apply hf | apply freeAcked_calm | apply noteGap_calm | apply Calm.ite | apply CalmO.ite | apply CalmO.next | split | apply Calm.mk | refine Calm.pair ?_ rfl rfl)

theorem sendIdent_calm {s0 s : State} (hc0 : Calm s0 s) :
    Calm s0 (sendIdent s) := by
  unfold sendIdent; try dsimp only
  repeat' (with_reducible first | assumption | intro _ | apply xbkSend_calm | apply Calm.ite | apply CalmO.ite | apply CalmO.next | split | apply Calm.mk | refine Calm.pair ?_ rfl rfl)

theorem setPair_calm {st : PairSt} {s0 s : State} (hc0 : Calm s0 s) (hst : st ≠ .single)
    (hp : Agrees s0 → s0.straps.pairEn = true) : Calm s0 (setPair st s) := by
  unfold setPair; exact Calm.pairSt hc0 hst hp rfl

theorem goStale_calm {s0 s : State} (hc0 : Calm s0 s) (hp : Agrees s0 → s0.straps.pairEn = true) :
    Calm s0 (goStale s) := by
  unfold goStale; try dsimp only
  repeat' (with_reducible first | assumption | intro _ | apply setPair_calm | apply raise_calm | apply Calm.ite | apply CalmO.ite | apply CalmO.next | split | apply Calm.mk | refine Calm.pair ?_ rfl rfl | exact (by simp))

theorem goAlone_calm {s0 s : State} (hc0 : Calm s0 s) (hp : Agrees s0 → s0.straps.pairEn = true) :
    Calm s0 (goAlone s) := by
  unfold goAlone; exact emit_calm _ (Calm.pairSt hc0 (by simp) hp rfl)

theorem goSync_calm {s0 s : State} (hc0 : Calm s0 s) (hp : Agrees s0 → s0.straps.pairEn = true) :
    Calm s0 (goSync s) := by
  unfold goSync; try dsimp only
  repeat' (with_reducible first | assumption | intro _ | apply setPair_calm | apply goStale_calm | apply Calm.ite | apply CalmO.ite | apply CalmO.next | split | apply Calm.mk | refine Calm.pair ?_ rfl rfl | exact (by simp))

theorem partnerState_calm (n : ℕ) {s0 s : State} (hc0 : Calm s0 s) (hp : Agrees s0 → s0.straps.pairEn = true) :
    Calm s0 (partnerState n s) := by
  unfold partnerState; try dsimp only
  repeat' (with_reducible first | assumption | intro _ | apply goSync_calm | apply setPair_calm | apply raise_calm | apply Calm.ite | apply CalmO.ite | apply CalmO.next | split | apply Calm.mk | refine Calm.pair ?_ rfl rfl | exact (by simp))

theorem enterConflict_calm {s0 s : State} (hc0 : Calm s0 s) (hp : Agrees s0 → s0.straps.pairEn = true) :
    Calm s0 (enterConflict s) := by
  unfold enterConflict; dsimp only
  have h := each_calm ((s.topo.port.filter fun e => e.2.admin || e.2.enabled).map Prod.fst) disablePort
    (fun p t ht => disablePort_calm p ht) hc0
  refine raise_calm _ _ (Calm.pairSt ?_ (by simp) hp rfl)
  split
  · exact emit_calm _ h
  · exact h

theorem gotIdentRec_calm (id : ℕ) (st : ℕ) (step : ℕ) (home : ℕ) (ver : U32) {s0 s : State} (hc0 : Calm s0 s) (hp : Agrees s0 → s0.straps.pairEn = true) :
    Calm s0 (gotIdentRec id st step home ver s) := by
  unfold gotIdentRec; try dsimp only
  repeat' (with_reducible first | assumption | intro _ | apply xbkSend_calm | apply partnerState_calm | apply enterConflict_calm | apply raise_calm | apply Calm.ite | apply CalmO.ite | apply CalmO.next | split | apply Calm.mk | refine Calm.pair ?_ rfl rfl | exact (by simp))

theorem gotClaim_calm {s0 s : State} (hc0 : Calm s0 s) (hp : Agrees s0 → s0.straps.pairEn = true) :
    Calm s0 (gotClaim s) := by
  unfold gotClaim; try dsimp only
  repeat' (with_reducible first | assumption | intro _ | apply goSync_calm | apply xbkSend_calm | apply Calm.ite | apply CalmO.ite | apply CalmO.next | split | apply Calm.mk | refine Calm.pair ?_ rfl rfl | exact (by simp))

theorem gotAnswer_calm (res : ℕ) {s0 s : State} (hc0 : Calm s0 s) (hp : Agrees s0 → s0.straps.pairEn = true) :
    Calm s0 (gotAnswer res s) := by
  unfold gotAnswer; try dsimp only
  repeat' (with_reducible first | assumption | intro _ | apply goSync_calm | apply goAlone_calm | apply Calm.ite | apply CalmO.ite | apply CalmO.next | split | apply Calm.mk | refine Calm.pair ?_ rfl rfl | exact (by simp))

theorem trigger_calm (notBefore : ℕ) (cause : ℕ) {s0 s : State} (hc0 : Calm s0 s) :
    Calm s0 (trigger notBefore cause s) := by
  unfold trigger; try dsimp only
  repeat' (with_reducible first | assumption | intro _ | apply Calm.ite | apply CalmO.ite | apply CalmO.next | split | apply Calm.mk | refine Calm.pair ?_ rfl rfl)

theorem triggerNow_calm (cause : ℕ) {s0 s : State} (hc0 : Calm s0 s) :
    Calm s0 (triggerNow cause s) := by
  unfold triggerNow; try dsimp only
  repeat' (with_reducible first | assumption | intro _ | apply trigger_calm | apply Calm.ite | apply CalmO.ite | apply CalmO.next | split | apply Calm.mk | refine Calm.pair ?_ rfl rfl)

theorem pctlCommand_calm (typ : ℕ) (j : ℕ) (payload : List Byte) (g : ℕ) {s0 s : State} (hc0 : Calm s0 s) :
    Calm s0 (pctlCommand typ j payload g s) := by
  unfold pctlCommand; try dsimp only
  repeat' (with_reducible first | assumption | intro _ | apply pctlSend_calm | apply Calm.ite | apply CalmO.ite | apply CalmO.next | split | apply Calm.mk | refine Calm.pair ?_ rfl rfl)

theorem pctlClaim_calm (typ : ℕ) (g : ℕ) {s0 s : State} (hc0 : Calm s0 s) :
    Calm s0 (pctlClaim typ g s) := by
  unfold pctlClaim; try dsimp only
  repeat' (with_reducible first | assumption | intro _ | apply pctlCommand_calm | apply Calm.ite | apply CalmO.ite | apply CalmO.next | split | apply Calm.mk | refine Calm.pair ?_ rfl rfl)

theorem failoverRec_calm (f q : Nat) {s0 s : State} (hc0 : Calm s0 s) : Calm s0 (failoverRec f q s).2 :=
  freshIndex_calm (freshIndex_calm hc0)

theorem failoverEntry_calm (f : ℕ) (q : ℕ) (i : U16) {s0 s : State} (hc0 : Calm s0 s) :
    Calm s0 (failoverEntry f q i s) := by
  unfold failoverEntry; try dsimp only
  repeat' (with_reducible first | assumption | intro _ | apply crPut_calm | apply failoverRec_calm | apply finish_calm | apply Calm.ite | apply CalmO.ite | apply CalmO.next | split | apply Calm.mk | refine Calm.pair ?_ rfl rfl)

theorem failoverSq_calm (f : ℕ) (q : ℕ) {s0 s : State} (hc0 : Calm s0 s) :
    Calm s0 (failoverSq f q s) := by
  unfold failoverSq; try dsimp only
  repeat' (with_reducible first | assumption | intro _ | apply failoverEntry_calm | apply done_calm | apply each_calm | apply Calm.ite | apply CalmO.ite | apply CalmO.next | split | apply Calm.mk | refine Calm.pair ?_ rfl rfl)

theorem signalCounted_calm {s0 s : State} (hc0 : Calm s0 s) :
    Calm s0 (signalCounted s) := by
  unfold signalCounted; try dsimp only
  repeat' (with_reducible first | assumption | intro _ | apply msixDue_calm | apply each_calm | apply Calm.ite | apply CalmO.ite | apply CalmO.next | split | apply Calm.mk | refine Calm.pair ?_ rfl rfl)

theorem claimDies_calm {s0 s : State} (hc0 : Calm s0 s) :
    Calm s0 (claimDies s) := by
  unfold claimDies; try dsimp only
  repeat' (with_reducible first | assumption | intro _ | apply pctlClaim_calm | apply each_calm | apply Calm.ite | apply CalmO.ite | apply CalmO.next | split | apply Calm.mk | refine Calm.pair ?_ rfl rfl)

theorem takeoverNotices_calm {s0 s : State} (hc0 : Calm s0 s) :
    Calm s0 (takeoverNotices s) := by
  unfold takeoverNotices; try dsimp only
  repeat' (with_reducible first | assumption | intro _ | apply postOut_calm | apply each_calm | apply Calm.ite | apply CalmO.ite | apply CalmO.next | split | apply Calm.mk | refine Calm.pair ?_ rfl rfl)

theorem writeAgain_calm {s0 s : State} (hc0 : Calm s0 s) :
    Calm s0 (writeAgain s) := by
  unfold writeAgain; try dsimp only
  repeat' (with_reducible first | assumption | intro _ | apply hostWrite_calm | apply each_calm | apply Calm.ite | apply CalmO.ite | apply CalmO.next | split | apply Calm.mk | refine Calm.pair ?_ rfl rfl)

theorem takeTable_calm {s0 s : State} (hc0 : Calm s0 s) :
    Calm s0 (takeTable s) := by
  unfold takeTable; try dsimp only
  repeat' (with_reducible first | assumption | intro _ | apply recompile_calm | apply each_calm | apply swapIfPending_calm | apply Calm.ite | apply CalmO.ite | apply CalmO.next | split | apply Calm.mk | refine Calm.pair ?_ rfl rfl)

theorem takeOver_calm (cause : Nat) {s0 s : State} (hc0 : Calm s0 s) (hp : Agrees s0 → s0.straps.pairEn = true) :
    Calm s0 (takeOver cause s) := by
  unfold takeOver; dsimp only
  apply raise_calm; apply takeoverNotices_calm; apply signalCounted_calm; apply writeAgain_calm
  refine each_calm _ _ (fun f t ht => each_calm _ _ (fun _ _ h => failoverSq_calm _ _ h) ht) ?_
  apply claimDies_calm
  refine each_calm _ _ (fun _ _ h => linkRecovery_calm _ h) ?_
  refine each_calm _ _ (fun _ _ h => boundarySof_calm _ _ h) ?_
  apply takeTable_calm
  exact emit_calm _ (Calm.pairSt hc0 (by simp) hp rfl)

theorem execTakeover_calm {s0 s : State} (hc0 : Calm s0 s) : CalmO s0 (execTakeover s) := by
  unfold execTakeover
  refine guarded_calm_if _ _ (fun hb => ?_) hc0
  have hp : Agrees s0 → s0.straps.pairEn = true := fun a => by
    rw [← hc0.2.1]; exact pairEn_of (by intro e; simp [e, takeoverDue] at hb) (hc0.2.2.2 a)
  exact takeOver_calm _ hc0 hp

theorem execXebirokLinkUp_calm (lanes : Fin 5) {s0 s : State} (hc0 : Calm s0 s) :
    CalmO s0 (execXebirokLinkUp lanes s) := by
  unfold execXebirokLinkUp; try dsimp only
  repeat' (with_reducible first | assumption | intro _ | apply sendIdent_calm | apply guarded_calm | apply Calm.ite | apply CalmO.ite | apply CalmO.next | split | apply Calm.mk | refine Calm.pair ?_ rfl rfl)

theorem execLaneDown_calm (lane : Fin 4) {s0 s : State} (hc0 : Calm s0 s) :
    CalmO s0 (execLaneDown lane s) := by
  unfold execLaneDown; try dsimp only
  repeat' (with_reducible first | assumption | intro _ | apply linkDown_calm | apply raise_calm | apply guarded_calm | apply Calm.ite | apply CalmO.ite | apply CalmO.next | split | apply Calm.mk | refine Calm.pair ?_ rfl rfl)

theorem resend_calm (k : Kept) {s0 s : State} (hc0 : Calm s0 s) :
    Calm s0 (resend k s) := by
  unfold resend; try dsimp only
  repeat' (with_reducible first | assumption | intro _ | apply emit_calm | apply countError_calm | apply Calm.ite | apply CalmO.ite | apply CalmO.next | split | apply Calm.mk | refine Calm.pair ?_ rfl rfl)

theorem execXbkNak_calm (h : XbkHdr) (seq : U32) {s0 s : State} (hc0 : Calm s0 s) :
    CalmO s0 (execXbkNak h seq s) := by
  unfold execXbkNak; try dsimp only
  repeat' (with_reducible first | assumption | intro _ | apply linkDown_calm | apply resend_calm | apply each_calm | apply once_calm | apply guarded_calm | apply Calm.ite | apply CalmO.ite | apply CalmO.next | split | apply Calm.mk | refine Calm.pair ?_ rfl rfl)

theorem execXebirokRecordError_calm {s0 s : State} (hc0 : Calm s0 s) :
    CalmO s0 (execXebirokRecordError s) := by
  unfold execXebirokRecordError; try dsimp only
  repeat' (with_reducible first | assumption | intro _ | apply countError_calm | apply sendNak_calm | apply guarded_calm | apply Calm.ite | apply CalmO.ite | apply CalmO.next | split | apply Calm.mk | refine Calm.pair ?_ rfl rfl)

theorem execAckOnly_calm (h : XbkHdr) {s0 s : State} (hc0 : Calm s0 s) : CalmO s0 (execAckOnly h s) :=
  guarded_calm _ _ (fun _ k => once_calm _ _ (fun _ k => k) k) hc0

theorem execAckOnlyTimer_calm {s0 s : State} (hc0 : Calm s0 s) :
    CalmO s0 (execAckOnlyTimer s) := by
  unfold execAckOnlyTimer; try dsimp only
  repeat' (with_reducible first | assumption | intro _ | apply xbkSendOnce_calm | apply guarded_calm | apply Calm.ite | apply CalmO.ite | apply CalmO.next | split | apply Calm.mk | refine Calm.pair ?_ rfl rfl)

theorem execIdent_calm (h : XbkHdr) (pairId : Byte) (st : Byte) (step : Byte) (version : U32) (home : Byte) (numVFs : Byte) {s0 s : State} (hc0 : Calm s0 s) : CalmO s0 (execIdent h pairId st step version home numVFs s) := by
  unfold execIdent
  refine guarded_calm_if _ _ (fun hb => ?_) hc0
  have hp : Agrees s0 → s0.straps.pairEn = true := fun a => by
    rw [← hc0.2.1]; simp [hearsXbk] at hb; simp [hb]
  exact kept_calm _ _ (fun _ k => gotIdentRec_calm _ _ _ _ _ k hp) hc0

theorem execXbkClaim_calm (h : XbkHdr) (pairId : Byte) (role : Byte) {s0 s : State} (hc0 : Calm s0 s) : CalmO s0 (execXbkClaim h pairId role s) := by
  unfold execXbkClaim
  refine guarded_calm_if _ _ (fun hb => ?_) hc0
  have hp : Agrees s0 → s0.straps.pairEn = true := fun a => by
    rw [← hc0.2.1]; simp [hearsXbk] at hb; simp [hb]
  exact kept_calm _ _ (fun _ k => Calm.ite (gotClaim_calm k hp) k) hc0

theorem execClaimAnswer_calm (h : XbkHdr) (pairId : Byte) (result : Byte) {s0 s : State} (hc0 : Calm s0 s) : CalmO s0 (execClaimAnswer h pairId result s) := by
  unfold execClaimAnswer
  refine guarded_calm_if _ _ (fun hb => ?_) hc0
  have hp : Agrees s0 → s0.straps.pairEn = true := fun a => by
    rw [← hc0.2.1]; simp [hearsXbk] at hb; simp [hb]
  exact kept_calm _ _ (fun _ k => gotAnswer_calm _ k hp) hc0

theorem execHeartbeat_calm (h : XbkHdr) (st u : Byte) (epoch : BitVec 48) (shadowSeq : U32) {s0 s : State} (hc0 : Calm s0 s) : CalmO s0 (execHeartbeat h st u epoch shadowSeq s) := by
  unfold execHeartbeat
  refine guarded_calm_if _ _ (fun hb => ?_) hc0
  have hp : Agrees s0 → s0.straps.pairEn = true := fun a => by
    rw [← hc0.2.1]; simp [hearsXbk] at hb; simp [hb]
  refine once_calm _ _ (fun _ k => ?_) hc0
  exact partnerState_calm _ (Calm.ite (Calm.pair k rfl rfl) k) hp

theorem followTime_calm (epoch : BitVec 48) (len : ℕ) (lock : ℕ) (m1 : U16) {s0 s : State} (hc0 : Calm s0 s) :
    Calm s0 (followTime epoch len lock m1 s) := by
  unfold followTime; try dsimp only
  repeat' (with_reducible first | assumption | intro _ | apply Calm.ite | apply CalmO.ite | apply CalmO.next | split | apply Calm.mk | refine Calm.pair ?_ rfl rfl)

theorem execTime_calm (h : XbkHdr) (epoch : BitVec 48) (len : BitVec 24) (lock : Byte) (m1 : U16) (tick : U32) {s0 s : State} (hc0 : Calm s0 s) :
    CalmO s0 (execTime h epoch len lock m1 tick s) := by
  unfold execTime; try dsimp only
  repeat' (with_reducible first | assumption | intro _ | apply followTime_calm | apply once_calm | apply guarded_calm | apply Calm.ite | apply CalmO.ite | apply CalmO.next | split | apply Calm.mk | refine Calm.pair ?_ rfl rfl)

theorem partnerLost_calm {s0 s : State} (hc0 : Calm s0 s) (hp : Agrees s0 → s0.straps.pairEn = true) :
    Calm s0 (partnerLost s) := by
  unfold partnerLost; try dsimp only
  repeat' (with_reducible first | assumption | intro _ | apply setPair_calm | apply Calm.ite | apply CalmO.ite | apply CalmO.next | split | apply Calm.mk | refine Calm.pair ?_ rfl rfl | exact (by simp))

theorem execFatal_calm (h : XbkHdr) (cause : Byte) (epoch : U32) {s0 s : State} (hc0 : Calm s0 s) : CalmO s0 (execFatal h cause epoch s) := by
  unfold execFatal
  refine guarded_calm_if _ _ (fun hb => ?_) hc0
  have hp : Agrees s0 → s0.straps.pairEn = true := fun a => by
    rw [← hc0.2.1]; simp [hearsXbk] at hb; simp [hb]
  refine once_calm _ _ (fun _ k => ?_) hc0
  repeat' (with_reducible first | assumption | apply raise_calm | apply triggerNow_calm | apply goStale_calm | apply partnerLost_calm | apply Calm.ite | split)

theorem execHandover_calm (h : XbkHdr) (cause : Byte) (epoch : U32) {s0 s : State} (hc0 : Calm s0 s) :
    CalmO s0 (execHandover h cause epoch s) := by
  unfold execHandover; try dsimp only
  repeat' (with_reducible first | assumption | intro _ | apply trigger_calm | apply kept_calm | apply guarded_calm | apply Calm.ite | apply CalmO.ite | apply CalmO.next | split | apply Calm.mk | refine Calm.pair ?_ rfl rfl)

theorem execYield_calm (h : XbkHdr) (pairId : Byte) {s0 s : State} (hc0 : Calm s0 s) : CalmO s0 (execYield h pairId s) := by
  unfold execYield
  refine guarded_calm_if _ _ (fun hb => ?_) hc0
  have hp : Agrees s0 → s0.straps.pairEn = true := fun a => by
    rw [← hc0.2.1]; simp [hearsXbk] at hb; simp [hb]
  exact kept_calm _ _ (fun _ k => partnerState_calm _ k hp) hc0

theorem shadowEntry_calm (r : ℕ) (g : Option Rung) {s0 s : State} (hc0 : Calm s0 s) :
    Calm s0 (shadowEntry r g s) := by
  unfold shadowEntry; try dsimp only
  repeat' (with_reducible first | assumption | intro _ | apply Calm.ite | apply CalmO.ite | apply CalmO.next | split | apply Calm.mk | refine Calm.pair ?_ rfl rfl)

theorem shadowCr_calm (f : ℕ) (r : ℕ) (x : Cr) {s0 s : State} (hc0 : Calm s0 s) :
    Calm s0 (shadowCr f r x s) := by
  unfold shadowCr; try dsimp only
  repeat' (with_reducible first | assumption | intro _ | apply modCr_calm | apply Calm.ite | apply CalmO.ite | apply CalmO.next | split | apply Calm.mk | refine Calm.pair ?_ rfl rfl)

theorem applyShadow_calm (b : ShadowBody) {s0 s : State} (hc0 : Calm s0 s) :
    Calm s0 (applyShadow b s) := by
  unfold applyShadow; try dsimp only
  repeat' (with_reducible first | assumption | intro _ | apply modAxis_calm | apply modUnit_calm | apply setPage_calm | apply modPort_calm | apply modFn_calm | apply shadowCr_calm | apply modSq_calm | apply swapBanks_calm | apply complete_calm | apply shadowEntry_calm | apply Calm.ite | apply CalmO.ite | apply CalmO.next | split | apply Calm.mk | refine Calm.pair ?_ rfl rfl)

theorem execShadow_calm (h : XbkHdr) (body : ShadowBody) {s0 s : State} (hc0 : Calm s0 s) :
    CalmO s0 (execShadow h body s) := by
  unfold execShadow; try dsimp only
  repeat' (with_reducible first | assumption | intro _ | apply applyShadow_calm | apply kept_calm | apply guarded_calm | apply Calm.ite | apply CalmO.ite | apply CalmO.next | split | apply Calm.mk | refine Calm.pair ?_ rfl rfl)

theorem thirdMiss_calm {s0 s : State} (hc0 : Calm s0 s) (hp : Agrees s0 → s0.straps.pairEn = true) :
    Calm s0 (thirdMiss s) := by
  unfold thirdMiss; try dsimp only
  repeat' (with_reducible first | assumption | intro _ | apply triggerNow_calm | apply partnerLost_calm | apply goStale_calm | apply raise_calm | apply Calm.ite | apply CalmO.ite | apply CalmO.next | split | apply Calm.mk | refine Calm.pair ?_ rfl rfl | exact (by simp))

theorem windowEnd_calm (toggled : Bool) {s0 s : State} (hc0 : Calm s0 s) (hp : Agrees s0 → s0.straps.pairEn = true) :
    Calm s0 (windowEnd toggled s) := by
  unfold windowEnd; try dsimp only
  repeat' (with_reducible first | assumption | intro _ | apply thirdMiss_calm | apply Calm.ite | apply CalmO.ite | apply CalmO.next | split | apply Calm.mk | refine Calm.pair ?_ rfl rfl | exact (by simp))

theorem execGanderWindowEnd_calm (toggled : Bool) {s0 s : State} (hc0 : Calm s0 s) : CalmO s0 (execGanderWindowEnd toggled s) := by
  unfold execGanderWindowEnd
  refine guarded_calm_if _ _ (fun hb => ?_) hc0
  have hp : Agrees s0 → s0.straps.pairEn = true := fun a => by
    rw [← hc0.2.1]; simp [hearsXbk] at hb; simp [hb]
  exact windowEnd_calm _ hc0 hp

theorem execDiscoverTimeout_calm {s0 s : State} (hc0 : Calm s0 s) : CalmO s0 (execDiscoverTimeout s) := by
  unfold execDiscoverTimeout
  refine guarded_calm_if _ _ (fun hb => ?_) hc0
  have hp : Agrees s0 → s0.straps.pairEn = true := fun a => by
    rw [← hc0.2.1]; exact pairEn_of (by intro e; simp [e, takeoverDue] at hb) (hc0.2.2.2 a)
  exact Calm.ite (goStale_calm hc0 hp) (goAlone_calm hc0 hp)

theorem execSyncDone_calm {s0 s : State} (hc0 : Calm s0 s) : CalmO s0 (execSyncDone s) := by
  unfold execSyncDone
  refine guarded_calm_if _ _ (fun hb => ?_) hc0
  have hp : Agrees s0 → s0.straps.pairEn = true := fun a => by
    rw [← hc0.2.1]; exact pairEn_of (by intro e; simp [e, takeoverDue] at hb) (hc0.2.2.2 a)
  exact Calm.ite (goStale_calm hc0 hp) (setPair_calm (each_calm _ _ (fun _ _ h => handOver_calm _ h) hc0) (by simp) hp)

theorem execStaleResyncTimer_calm {s0 s : State} (hc0 : Calm s0 s) : CalmO s0 (execStaleResyncTimer s) := by
  unfold execStaleResyncTimer
  refine guarded_calm_if _ _ (fun hb => ?_) hc0
  have hp : Agrees s0 → s0.straps.pairEn = true := fun a => by
    rw [← hc0.2.1]; exact pairEn_of (by intro e; simp [e, takeoverDue] at hb) (hc0.2.2.2 a)
  exact setPair_calm hc0 (by simp) hp

theorem execPairActConflict_calm {s0 s : State} (hc0 : Calm s0 s) : CalmO s0 (execPairActConflict s) := by
  unfold execPairActConflict
  refine guarded_calm_if _ _ (fun hb => enterYielded_calm hc0 (fun _ => ?_)) hc0
  simp at hb; simp [hb]

theorem pairQueryOp_calm (ctx : CmdCtx) {s0 s : State} (hc0 : Calm s0 s) :
    Calm s0 (pairQueryOp ctx s) := by
  unfold pairQueryOp; try dsimp only
  repeat' (with_reducible first | assumption | intro _ | apply reply_calm | apply begun_calm | apply Calm.ite | apply CalmO.ite | apply CalmO.next | split | apply Calm.mk | refine Calm.pair ?_ rfl rfl)

theorem pairSwitchOp_calm (ctx : CmdCtx) (epoch : U32) {s0 s : State} (hc0 : Calm s0 s) :
    Calm s0 (pairSwitchOp ctx epoch s) := by
  unfold pairSwitchOp; try dsimp only
  repeat' (with_reducible first | assumption | intro _ | apply reply_calm | apply begun_calm | apply Calm.ite | apply CalmO.ite | apply CalmO.next | split | apply Calm.mk | refine Calm.pair ?_ rfl rfl)

theorem pairResyncOp_calm (ctx : CmdCtx) {s0 s : State} (hc0 : Calm s0 s) :
    Calm s0 (pairResyncOp ctx s) := by
  unfold pairResyncOp; try dsimp only
  repeat' (with_reducible first | assumption | intro _ | apply reply_calm | apply begun_calm | apply Calm.ite | apply CalmO.ite | apply CalmO.next | split | apply Calm.mk | refine Calm.pair ?_ rfl rfl)

theorem execPairQuery_calm (ctx : CmdCtx) {s0 s : State} (hc0 : Calm s0 s) :
    CalmO s0 (execPairQuery ctx s) := by
  unfold execPairQuery; try dsimp only
  repeat' (with_reducible first | assumption | intro _ | apply pairQueryOp_calm | apply guarded_calm | apply Calm.ite | apply CalmO.ite | apply CalmO.next | split | apply Calm.mk | refine Calm.pair ?_ rfl rfl)

theorem execPairSwitch_calm (ctx : CmdCtx) (epoch : U32) {s0 s : State} (hc0 : Calm s0 s) :
    CalmO s0 (execPairSwitch ctx epoch s) := by
  unfold execPairSwitch; try dsimp only
  repeat' (with_reducible first | assumption | intro _ | apply pairSwitchOp_calm | apply guarded_calm | apply Calm.ite | apply CalmO.ite | apply CalmO.next | split | apply Calm.mk | refine Calm.pair ?_ rfl rfl)

theorem execPairResync_calm (ctx : CmdCtx) {s0 s : State} (hc0 : Calm s0 s) :
    CalmO s0 (execPairResync ctx s) := by
  unfold execPairResync; try dsimp only
  repeat' (with_reducible first | assumption | intro _ | apply pairResyncOp_calm | apply guarded_calm | apply Calm.ite | apply CalmO.ite | apply CalmO.next | split | apply Calm.mk | refine Calm.pair ?_ rfl rfl)

theorem dieAnswer_calm (g : Nat) (seq : U16) (f : State → (Nat × Nat × List Byte) × State) {s0 s : State}
    (hf : ∀ t, Calm s0 t → Calm s0 (f t).2) (hc0 : Calm s0 s) : Calm s0 (dieAnswer g seq f s) := by
  unfold dieAnswer; dsimp only
  split
  · split
    · exact pctlSend_calm _ _ _ _ _ hc0
    · exact pctlSend_calm _ _ _ _ _ (modDie_calm _ _ (hf _ hc0))
  · exact pctlSend_calm _ _ _ _ _ (modDie_calm _ _ (hf _ hc0))

theorem setAuth_calm (g : ℕ) (pctl : Bool) {s0 s : State} (hc0 : Calm s0 s) :
    Calm s0 (setAuth g pctl s) := by
  unfold setAuth; try dsimp only
  repeat' (with_reducible first | assumption | intro _ | apply modDie_calm | apply recheck_calm | apply Calm.ite | apply CalmO.ite | apply CalmO.next | split | apply Calm.mk | refine Calm.pair ?_ rfl rfl)

theorem execPctlbKeepaliveLoss_calm (g : DieId) {s0 s : State} (hc0 : Calm s0 s) :
    CalmO s0 (execPctlbKeepaliveLoss g s) := by
  unfold execPctlbKeepaliveLoss; try dsimp only
  repeat' (with_reducible first | assumption | intro _ | apply setAuth_calm | apply guarded_calm | apply Calm.ite | apply CalmO.ite | apply CalmO.next | split | apply Calm.mk | refine Calm.pair ?_ rfl rfl)

theorem execKeepalive_calm (g : DieId) (seq : U16) {s0 s : State} (hc0 : Calm s0 s) : CalmO s0 (execKeepalive g seq s) := by
  unfold execKeepalive
  refine guarded_calm _ _ (fun t h => dieAnswer_calm _ _ _ (fun t h => ?_) h) hc0
  exact h

theorem execPctlbClaim_calm (g : DieId) (seq : U16) (pairId : Byte) {s0 s : State} (hc0 : Calm s0 s) : CalmO s0 (execPctlbClaim g seq pairId s) := by
  unfold execPctlbClaim
  apply guarded_calm
  · intro t h
    apply dieAnswer_calm
    · intro u k
      split
      · dsimp only; apply setAuth_calm; exact k
      · exact k
    · exact h
  · exact hc0

theorem execPctlbRelease_calm (g : DieId) (seq : U16) {s0 s : State} (hc0 : Calm s0 s) : CalmO s0 (execPctlbRelease g seq s) := by
  unfold execPctlbRelease
  apply guarded_calm
  · intro t h
    apply dieAnswer_calm
    · intro u k
      dsimp only
      apply setAuth_calm
      exact k
    · exact h
  · exact hc0

theorem execPctlbWrite_calm (g : DieId) (j : Fin 16) (seq : U16) (offset : U16) (value : U64) {s0 s : State} (hc0 : Calm s0 s) : CalmO s0 (execPctlbWrite g j seq offset value s) := by
  unfold execPctlbWrite
  refine guarded_calm _ _ (fun t h => dieAnswer_calm _ _ _ (fun t h => ?_) h) hc0
  dsimp only
  exact Calm.ite h (powerCommand_calm _ _ _ _ _ h)

theorem execPctlbRead_calm (g : DieId) (j : Fin 16) (seq : U16) (offset : U16) {s0 s : State} (hc0 : Calm s0 s) : CalmO s0 (execPctlbRead g j seq offset s) := by
  unfold execPctlbRead
  refine guarded_calm _ _ (fun t h => dieAnswer_calm _ _ _ (fun t h => ?_) h) hc0
  exact h

theorem execEventAck_calm (g : DieId) (evSeq : U16) {s0 s : State} (hc0 : Calm s0 s) :
    CalmO s0 (execEventAck g evSeq s) := by
  unfold execEventAck; try dsimp only
  repeat' (with_reducible first | assumption | intro _ | apply modDie_calm | apply guarded_calm | apply Calm.ite | apply CalmO.ite | apply CalmO.next | split | apply Calm.mk | refine Calm.pair ?_ rfl rfl)

theorem modCtl_calm (g : ℕ) (f : PctlPort → PctlPort) {s0 s : State} (hc0 : Calm s0 s) :
    Calm s0 (modCtl g f s) := by
  unfold modCtl; try dsimp only
  repeat' (with_reducible first | assumption | intro _ | apply Calm.ite | apply CalmO.ite | apply CalmO.next | split | apply Calm.mk | refine Calm.pair ?_ rfl rfl)

theorem answered_calm (g : ℕ) (seq : U16) (types : List ℕ) (f : PctlPort → PctlPort) {s0 s : State} (hc0 : Calm s0 s) :
    CalmO s0 (answered g seq types f s) := by
  unfold answered; try dsimp only
  repeat' (with_reducible first | assumption | intro _ | apply modCtl_calm | apply guarded_calm | apply Calm.ite | apply CalmO.ite | apply CalmO.next | split | apply Calm.mk | refine Calm.pair ?_ rfl rfl)

theorem execPctlbKeepaliveTick_calm (g : DieId) {s0 s : State} (hc0 : Calm s0 s) :
    CalmO s0 (execPctlbKeepaliveTick g s) := by
  unfold execPctlbKeepaliveTick; try dsimp only
  repeat' (with_reducible first | assumption | intro _ | apply pctlCommand_calm | apply guarded_calm | apply Calm.ite | apply CalmO.ite | apply CalmO.next | split | apply Calm.mk | refine Calm.pair ?_ rfl rfl)

theorem execKeepaliveAck_calm (g : DieId) (seq : U16) (auth : Bool) (coreLost : Bool) {s0 s : State} (hc0 : Calm s0 s) :
    CalmO s0 (execKeepaliveAck g seq auth coreLost s) := by
  unfold execKeepaliveAck; try dsimp only
  repeat' (with_reducible first | assumption | intro _ | apply answered_calm | apply Calm.ite | apply CalmO.ite | apply CalmO.next | split | apply Calm.mk | refine Calm.pair ?_ rfl rfl)

theorem execClaimAck_calm (g : DieId) (seq : U16) (result : Byte) (auth : Byte) {s0 s : State} (hc0 : Calm s0 s) :
    CalmO s0 (execClaimAck g seq result auth s) := by
  unfold execClaimAck; try dsimp only
  repeat' (with_reducible first | assumption | intro _ | apply answered_calm | apply Calm.ite | apply CalmO.ite | apply CalmO.next | split | apply Calm.mk | refine Calm.pair ?_ rfl rfl)

theorem execWriteAck_calm (g : DieId) (seq : U16) (result : Byte) {s0 s : State} (hc0 : Calm s0 s) :
    CalmO s0 (execWriteAck g seq result s) := by
  unfold execWriteAck; try dsimp only
  repeat' (with_reducible first | assumption | intro _ | apply answered_calm | apply Calm.ite | apply CalmO.ite | apply CalmO.next | split | apply Calm.mk | refine Calm.pair ?_ rfl rfl)

theorem execReadData_calm (g : DieId) (seq : U16) (offset : U16) (value : U64) {s0 s : State} (hc0 : Calm s0 s) :
    CalmO s0 (execReadData g seq offset value s) := by
  unfold execReadData; try dsimp only
  repeat' (with_reducible first | assumption | intro _ | apply answered_calm | apply Calm.ite | apply CalmO.ite | apply CalmO.next | split | apply Calm.mk | refine Calm.pair ?_ rfl rfl)

theorem partnerSlotEvent_calm (n : ℕ) (b : ℕ) {s0 s : State} (hc0 : Calm s0 s) :
    Calm s0 (partnerSlotEvent n b s) := by
  unfold partnerSlotEvent; try dsimp only
  repeat' (with_reducible first | assumption | intro _ | apply endLastGasp_calm | apply modPort_calm | apply slotPowerGood_calm | apply slotTreeGone_calm | apply raiseSlot_calm | apply Calm.ite | apply CalmO.ite | apply CalmO.next | split | apply Calm.mk | refine Calm.pair ?_ rfl rfl)

theorem execPctlbEvent_calm (g : DieId) (j : Fin 16) (seq : U16) (bits : U16) (sts : U32) {s0 s : State} (hc0 : Calm s0 s) :
    CalmO s0 (execPctlbEvent g j seq bits sts s) := by
  unfold execPctlbEvent; try dsimp only
  repeat' (with_reducible first | assumption | intro _ | apply partnerSlotEvent_calm | apply each_calm | apply modCtl_calm | apply pctlSend_calm | apply guarded_calm | apply Calm.ite | apply CalmO.ite | apply CalmO.next | split | apply Calm.mk | refine Calm.pair ?_ rfl rfl)

theorem resendCommand_calm (g : ℕ) {s0 s : State} (hc0 : Calm s0 s) :
    Calm s0 (resendCommand g s) := by
  unfold resendCommand; try dsimp only
  repeat' (with_reducible first | assumption | intro _ | apply modCtl_calm | apply pctlSend_calm | apply Calm.ite | apply CalmO.ite | apply CalmO.next | split | apply Calm.mk | refine Calm.pair ?_ rfl rfl)

theorem resendEvent_calm (g : ℕ) {s0 s : State} (hc0 : Calm s0 s) :
    Calm s0 (resendEvent g s) := by
  unfold resendEvent; try dsimp only
  repeat' (with_reducible first | assumption | intro _ | apply modDie_calm | apply pctlSend_calm | apply Calm.ite | apply CalmO.ite | apply CalmO.next | split | apply Calm.mk | refine Calm.pair ?_ rfl rfl)

theorem execPctlbResendTimeout_calm (g : DieId) (side : PctlSide) {s0 s : State} (hc0 : Calm s0 s) :
    CalmO s0 (execPctlbResendTimeout g side s) := by
  unfold execPctlbResendTimeout; try dsimp only
  repeat' (with_reducible first | assumption | intro _ | apply resendEvent_calm | apply resendCommand_calm | apply guarded_calm | apply Calm.ite | apply CalmO.ite | apply CalmO.next | split | apply Calm.mk | refine Calm.pair ?_ rfl rfl)

theorem fwReply_calm (ctx : CmdCtx) (code : ℕ) (res : ℕ) {s0 s : State} (hc0 : Calm s0 s) :
    Calm s0 (fwReply ctx code res s) := by
  unfold fwReply; try dsimp only
  repeat' (with_reducible first | assumption | intro _ | apply reply_calm | apply freshIndex_calm | apply Calm.ite | apply CalmO.ite | apply CalmO.next | split | apply Calm.mk | refine Calm.pair ?_ rfl rfl)

theorem fwQueryOp_calm (ctx : CmdCtx) {s0 s : State} (hc0 : Calm s0 s) :
    Calm s0 (fwQueryOp ctx s) := by
  unfold fwQueryOp; try dsimp only
  repeat' (with_reducible first | assumption | intro _ | apply reply_calm | apply begun_calm | apply Calm.ite | apply CalmO.ite | apply CalmO.next | split | apply Calm.mk | refine Calm.pair ?_ rfl rfl)

theorem fwWriteOp_calm (ctx : CmdCtx) (off : ℕ) (data : List Byte) {s0 s : State} (hc0 : Calm s0 s) :
    Calm s0 (fwWriteOp ctx off data s) := by
  unfold fwWriteOp; try dsimp only
  repeat' (with_reducible first | assumption | intro _ | apply fwReply_calm | apply begun_calm | apply Calm.ite | apply CalmO.ite | apply CalmO.next | split | apply Calm.mk | refine Calm.pair ?_ rfl rfl)

theorem fwEraseOp_calm (ctx : CmdCtx) (off : ℕ) (sectors : ℕ) {s0 s : State} (hc0 : Calm s0 s) :
    Calm s0 (fwEraseOp ctx off sectors s) := by
  unfold fwEraseOp; try dsimp only
  repeat' (with_reducible first | assumption | intro _ | apply fwReply_calm | apply begun_calm | apply Calm.ite | apply CalmO.ite | apply CalmO.next | split | apply Calm.mk | refine Calm.pair ?_ rfl rfl)

theorem fwVerifyOp_calm (ctx : CmdCtx) {s0 s : State} (hc0 : Calm s0 s) :
    Calm s0 (fwVerifyOp ctx s) := by
  unfold fwVerifyOp; try dsimp only
  repeat' (with_reducible first | assumption | intro _ | apply fwReply_calm | apply begun_calm | apply Calm.ite | apply CalmO.ite | apply CalmO.next | split | apply Calm.mk | refine Calm.pair ?_ rfl rfl)

theorem fwActivateOp_calm (ctx : CmdCtx) {s0 s : State} (hc0 : Calm s0 s) :
    Calm s0 (fwActivateOp ctx s) := by
  unfold fwActivateOp; try dsimp only
  repeat' (with_reducible first | assumption | intro _ | apply fwReply_calm | apply begun_calm | apply Calm.ite | apply CalmO.ite | apply CalmO.next | split | apply Calm.mk | refine Calm.pair ?_ rfl rfl)

theorem platSensorsOp_calm (ctx : CmdCtx) (temps : List Byte) (powers : List U16) {s0 s : State} (hc0 : Calm s0 s) :
    Calm s0 (platSensorsOp ctx temps powers s) := by
  unfold platSensorsOp; try dsimp only
  repeat' (with_reducible first | assumption | intro _ | apply reply_calm | apply begun_calm | apply Calm.ite | apply CalmO.ite | apply CalmO.next | split | apply Calm.mk | refine Calm.pair ?_ rfl rfl)

theorem execFwQuery_calm (ctx : CmdCtx) {s0 s : State} (hc0 : Calm s0 s) :
    CalmO s0 (execFwQuery ctx s) := by
  unfold execFwQuery; try dsimp only
  repeat' (with_reducible first | assumption | intro _ | apply fwQueryOp_calm | apply guarded_calm | apply Calm.ite | apply CalmO.ite | apply CalmO.next | split | apply Calm.mk | refine Calm.pair ?_ rfl rfl)

theorem execFwWrite_calm (ctx : CmdCtx) (offset : U32) (data : List Byte) {s0 s : State} (hc0 : Calm s0 s) :
    CalmO s0 (execFwWrite ctx offset data s) := by
  unfold execFwWrite; try dsimp only
  repeat' (with_reducible first | assumption | intro _ | apply fwWriteOp_calm | apply guarded_calm | apply Calm.ite | apply CalmO.ite | apply CalmO.next | split | apply Calm.mk | refine Calm.pair ?_ rfl rfl)

theorem execFwErase_calm (ctx : CmdCtx) (offset : U32) (sectors : U32) {s0 s : State} (hc0 : Calm s0 s) :
    CalmO s0 (execFwErase ctx offset sectors s) := by
  unfold execFwErase; try dsimp only
  repeat' (with_reducible first | assumption | intro _ | apply fwEraseOp_calm | apply guarded_calm | apply Calm.ite | apply CalmO.ite | apply CalmO.next | split | apply Calm.mk | refine Calm.pair ?_ rfl rfl)

theorem execFwVerify_calm (ctx : CmdCtx) {s0 s : State} (hc0 : Calm s0 s) :
    CalmO s0 (execFwVerify ctx s) := by
  unfold execFwVerify; try dsimp only
  repeat' (with_reducible first | assumption | intro _ | apply fwVerifyOp_calm | apply guarded_calm | apply Calm.ite | apply CalmO.ite | apply CalmO.next | split | apply Calm.mk | refine Calm.pair ?_ rfl rfl)

theorem execFwActivate_calm (ctx : CmdCtx) {s0 s : State} (hc0 : Calm s0 s) :
    CalmO s0 (execFwActivate ctx s) := by
  unfold execFwActivate; try dsimp only
  repeat' (with_reducible first | assumption | intro _ | apply fwActivateOp_calm | apply guarded_calm | apply Calm.ite | apply CalmO.ite | apply CalmO.next | split | apply Calm.mk | refine Calm.pair ?_ rfl rfl)

theorem execPlatSensors_calm (ctx : CmdCtx) (temps : List Byte) (powers : List U16) {s0 s : State} (hc0 : Calm s0 s) :
    CalmO s0 (execPlatSensors ctx temps powers s) := by
  unfold execPlatSensors; try dsimp only
  repeat' (with_reducible first | assumption | intro _ | apply platSensorsOp_calm | apply guarded_calm | apply Calm.ite | apply CalmO.ite | apply CalmO.next | split | apply Calm.mk | refine Calm.pair ?_ rfl rfl)

theorem claim_calm (t : Fin 18) {s0 s : State} (hc0 : Calm s0 s) :
    Calm s0 (claim t s) := by
  unfold claim; try dsimp only
  repeat' (with_reducible first | assumption | intro _ | apply modTarget_calm | apply modSource_calm | apply emit_calm | apply Calm.ite | apply CalmO.ite | apply CalmO.next | split | apply Calm.mk | refine Calm.pair ?_ rfl rfl)

theorem execEicClaim_calm (t : Fin 18) {s0 s : State} (hc0 : Calm s0 s) :
    CalmO s0 (execEicClaim t s) := by
  unfold execEicClaim; try dsimp only
  repeat' (with_reducible first | assumption | intro _ | apply claim_calm | apply guarded_calm | apply Calm.ite | apply CalmO.ite | apply CalmO.next | split | apply Calm.mk | refine Calm.pair ?_ rfl rfl)

theorem execEicComplete_calm (t : Fin 18) (src : Fin 1024) {s0 s : State} (hc0 : Calm s0 s) :
    CalmO s0 (execEicComplete t src s) := by
  unfold execEicComplete; try dsimp only
  repeat' (with_reducible first | assumption | intro _ | apply modSource_calm | apply wakeTarget_calm | apply guarded_calm | apply Calm.ite | apply CalmO.ite | apply CalmO.next | split | apply Calm.mk | refine Calm.pair ?_ rfl rfl)

theorem execEnSet_calm (w : Fin 32) (v : U32) {s0 s : State} (hc0 : Calm s0 s) :
    CalmO s0 (execEnSet w v s) := by
  unfold execEnSet; try dsimp only
  repeat' (with_reducible first | assumption | intro _ | apply modSource_calm | apply wakeTarget_calm | apply each_calm | apply guarded_calm | apply Calm.ite | apply CalmO.ite | apply CalmO.next | split | apply Calm.mk | refine Calm.pair ?_ rfl rfl)

theorem execEnClr_calm (w : Fin 32) (v : U32) {s0 s : State} (hc0 : Calm s0 s) :
    CalmO s0 (execEnClr w v s) := by
  unfold execEnClr; try dsimp only
  repeat' (with_reducible first | assumption | intro _ | apply modSource_calm | apply each_calm | apply guarded_calm | apply Calm.ite | apply CalmO.ite | apply CalmO.next | split | apply Calm.mk | refine Calm.pair ?_ rfl rfl)

theorem execPendSet_calm (w : Fin 32) (v : U32) {s0 s : State} (hc0 : Calm s0 s) :
    CalmO s0 (execPendSet w v s) := by
  unfold execPendSet; try dsimp only
  repeat' (with_reducible first | assumption | intro _ | apply modSource_calm | apply withRises_calm | apply each_calm | apply guarded_calm | apply Calm.ite | apply CalmO.ite | apply CalmO.next | split | apply Calm.mk | refine Calm.pair ?_ rfl rfl)

theorem execPendClr_calm (w : Fin 32) (v : U32) {s0 s : State} (hc0 : Calm s0 s) :
    CalmO s0 (execPendClr w v s) := by
  unfold execPendClr; try dsimp only
  repeat' (with_reducible first | assumption | intro _ | apply modSource_calm | apply each_calm | apply guarded_calm | apply Calm.ite | apply CalmO.ite | apply CalmO.next | split | apply Calm.mk | refine Calm.pair ?_ rfl rfl)

theorem execMsixIntervalExpiry_calm (f : FuncId) (v : Fin 2048) {s0 s : State} (hc0 : Calm s0 s) :
    CalmO s0 (execMsixIntervalExpiry f v s) := by
  unfold execMsixIntervalExpiry; try dsimp only
  repeat' (with_reducible first | assumption | intro _ | apply msixDue_calm | apply guarded_calm | apply Calm.ite | apply CalmO.ite | apply CalmO.next | split | apply Calm.mk | refine Calm.pair ?_ rfl rfl)

theorem releaseVectors_calm (f : ℕ) {s0 s : State} (hc0 : Calm s0 s) :
    Calm s0 (releaseVectors f s) := by
  unfold releaseVectors; try dsimp only
  repeat' (with_reducible first | assumption | intro _ | apply msixRelease_calm | apply each_calm | apply Calm.ite | apply CalmO.ite | apply CalmO.next | split | apply Calm.mk | refine Calm.pair ?_ rfl rfl)

theorem execMsixUnmask_calm (f : FuncId) (v : Fin 2048) {s0 s : State} (hc0 : Calm s0 s) :
    CalmO s0 (execMsixUnmask f v s) := by
  unfold execMsixUnmask; try dsimp only
  repeat' (with_reducible first | assumption | intro _ | apply modVec_calm | apply modFn_calm | apply releaseVectors_calm | apply guarded_calm | apply Calm.ite | apply CalmO.ite | apply CalmO.next | split | apply Calm.mk | refine Calm.pair ?_ rfl rfl)

theorem vecModWrite_calm (f : ℕ) (value : U64) {s0 s : State} (hc0 : Calm s0 s) :
    Calm s0 (vecModWrite f value s) := by
  unfold vecModWrite; try dsimp only
  repeat' (with_reducible first | assumption | intro _ | apply modVec_calm | apply msixDue_calm | apply Calm.ite | apply CalmO.ite | apply CalmO.next | split | apply Calm.mk | refine Calm.pair ?_ rfl rfl)

theorem execIntVecModWrite_calm (f : FuncId) (value : U64) {s0 s : State} (hc0 : Calm s0 s) :
    CalmO s0 (execIntVecModWrite f value s) := by
  unfold execIntVecModWrite; try dsimp only
  repeat' (with_reducible first | assumption | intro _ | apply vecModWrite_calm | apply guarded_calm | apply Calm.ite | apply CalmO.ite | apply CalmO.next | split | apply Calm.mk | refine Calm.pair ?_ rfl rfl)

theorem noticeWakes_calm (b : Box) {s0 s : State} (hc0 : Calm s0 s) :
    Calm s0 (noticeWakes b s) := by
  unfold noticeWakes; try dsimp only
  repeat' (with_reducible first | assumption | intro _ | apply modTarget_calm | apply modEng_calm | apply Calm.ite | apply CalmO.ite | apply CalmO.next | split | apply Calm.mk | refine Calm.pair ?_ rfl rfl)

theorem commitBox_calm (b : Box) (seq : U16) (typ : Byte) {s0 s : State} (hc0 : Calm s0 s) :
    Calm s0 (commitBox b seq typ s) := by
  unfold commitBox; try dsimp only
  repeat' (with_reducible first | assumption | intro _ | apply commitIn_calm | apply noticeWakes_calm | apply Calm.ite | apply CalmO.ite | apply CalmO.next | split | apply Calm.mk | refine Calm.pair ?_ rfl rfl)

theorem execMbxInCommit_calm (box : Box) (seq : U16) (typ : Byte) {s0 s : State} (hc0 : Calm s0 s) :
    CalmO s0 (execMbxInCommit box seq typ s) := by
  unfold execMbxInCommit; try dsimp only
  repeat' (with_reducible first | assumption | intro _ | apply commitBox_calm | apply guarded_calm | apply Calm.ite | apply CalmO.ite | apply CalmO.next | split | apply Calm.mk | refine Calm.pair ?_ rfl rfl)

theorem execMbxOutDone_calm (box : Box) {s0 s : State} (hc0 : Calm s0 s) :
    CalmO s0 (execMbxOutDone box s) := by
  unfold execMbxOutDone; try dsimp only
  repeat' (with_reducible first | assumption | intro _ | apply done_calm | apply outDone_calm | apply guarded_calm | apply Calm.ite | apply CalmO.ite | apply CalmO.next | split | apply Calm.mk | refine Calm.pair ?_ rfl rfl)

theorem execMbxOutboundPost_calm (box : Box) {s0 s : State} (hc0 : Calm s0 s) :
    CalmO s0 (execMbxOutboundPost box s) := by
  unfold execMbxOutboundPost; try dsimp only
  repeat' (with_reducible first | assumption | intro _ | apply postWaiting_calm | apply guarded_calm | apply Calm.ite | apply CalmO.ite | apply CalmO.next | split | apply Calm.mk | refine Calm.pair ?_ rfl rfl)

theorem domainRests_calm {s0 s : State} (hc0 : Calm s0 s) :
    Calm s0 (domainRests s) := by
  unfold domainRests; try dsimp only
  repeat' (with_reducible first | assumption | intro _ | apply Calm.ite | apply CalmO.ite | apply CalmO.next | split | apply Calm.mk | refine Calm.pair ?_ rfl rfl)

theorem startRead_calm (b : Box) (n : Notice) {s0 s : State} (hc0 : Calm s0 s) :
    Calm s0 (startRead b n s) := by
  unfold startRead; try dsimp only
  repeat' (with_reducible first | assumption | intro _ | apply emit_calm | apply modBox_calm | apply postOut_calm | apply domainRests_calm | apply Calm.ite | apply CalmO.ite | apply CalmO.next | split | apply Calm.mk | refine Calm.pair ?_ rfl rfl)

theorem execMbxNoticeTake_calm (box : Box) {s0 s : State} (hc0 : Calm s0 s) :
    CalmO s0 (execMbxNoticeTake box s) := by
  unfold execMbxNoticeTake; try dsimp only
  repeat' (with_reducible first | assumption | intro _ | apply modBox_calm | apply withRises_calm | apply startRead_calm | apply guarded_calm | apply Calm.ite | apply CalmO.ite | apply CalmO.next | split | apply Calm.mk | refine Calm.pair ?_ rfl rfl)

theorem refuseHeader_calm (c : Chan) (n : Notice) (h : BitVec 128) (st : ℕ) {s0 s : State} (hc0 : Calm s0 s) :
    Calm s0 (refuseHeader c n h st s) := by
  unfold refuseHeader; try dsimp only
  repeat' (with_reducible first | assumption | intro _ | apply writeReply_calm | apply Calm.ite | apply CalmO.ite | apply CalmO.next | split | apply Calm.mk | refine Calm.pair ?_ rfl rfl)

theorem scriptLoadCmd_calm (ctx : CmdCtx) (b : List Byte) {s0 s : State} (hc0 : Calm s0 s) :
    Calm s0 (scriptLoadCmd ctx b s) := by
  unfold scriptLoadCmd; try dsimp only
  repeat' (with_reducible first | assumption | intro _ | apply emit_calm | apply begun_calm | apply scriptLoadOp_calm | apply Calm.ite | apply CalmO.ite | apply CalmO.next | split | apply Calm.mk | refine Calm.pair ?_ rfl rfl)

theorem runCommand_calm (ctx : CmdCtx) (code : ℕ) (b : List Byte) {s0 s : State} (hc0 : Calm s0 s) :
    Calm s0 (runCommand ctx code b s) := by
  unfold runCommand; try dsimp only
  repeat' (with_reducible first | assumption | intro _ | apply begun_calm | apply fwActivateOp_calm | apply fwVerifyOp_calm | apply fwEraseOp_calm | apply fwWriteOp_calm | apply fwQueryOp_calm | apply pairResyncOp_calm | apply pairSwitchOp_calm | apply pairQueryOp_calm | apply devQueryOp_calm | apply devAssignOp_calm | apply funcQueryOp_calm | apply funcModifyOp_calm | apply vfDestroyOp_calm | apply vfCreateOp_calm | apply bufReleaseCmd_calm | apply bufCarveCmd_calm | apply queueStartCmd_calm | apply queueStopCmd_calm | apply scriptUnbindOp_calm | apply scriptBindOp_calm | apply scriptUnloadOp_calm | apply scriptLoadCmd_calm | apply queryOp_calm | apply releaseOp_calm | apply admitOp_calm | apply topoBindSlotOp_calm | apply topoPortDisableOp_calm | apply topoPortResumeOp_calm | apply topoPortSuspendOp_calm | apply topoDeviceResetOp_calm | apply topoPortResetOp_calm | apply Calm.ite | apply CalmO.ite | apply CalmO.next | split | apply Calm.mk | refine Calm.pair ?_ rfl rfl)

theorem gotBlock_calm (k : ℕ) (c : Chan) (n : Notice) (ok : Bool) (h : BitVec 128) (body : List Byte) {s0 s : State} (hc0 : Calm s0 s) :
    Calm s0 (gotBlock k c n ok h body s) := by
  unfold gotBlock; try dsimp only
  repeat' (with_reducible first | assumption | intro _ | apply runCommand_calm | apply refuseHeader_calm | apply postOut_calm | apply Calm.ite | apply CalmO.ite | apply CalmO.next | split | apply Calm.mk | refine Calm.pair ?_ rfl rfl)

theorem execMbxCommandRead_calm (box : Box) (ok : Bool) (hdr : BitVec 128) (body : List Byte) {s0 s : State} (hc0 : Calm s0 s) :
    CalmO s0 (execMbxCommandRead box ok hdr body s) := by
  unfold execMbxCommandRead; try dsimp only
  repeat' (with_reducible first | assumption | intro _ | apply done_calm | apply gotBlock_calm | apply domainRests_calm | apply modBox_calm | apply guarded_calm | apply Calm.ite | apply CalmO.ite | apply CalmO.next | split | apply Calm.mk | refine Calm.pair ?_ rfl rfl)

theorem i3cWriteByte_calm (a : ℕ) (b : Byte) {s0 s : State} (hc0 : Calm s0 s) :
    Calm s0 (i3cWriteByte a b s) := by
  unfold i3cWriteByte; try dsimp only
  repeat' (with_reducible first | assumption | intro _ | apply outDone_calm | apply modBox_calm | apply commitBox_calm | apply Calm.ite | apply CalmO.ite | apply CalmO.next | split | apply Calm.mk | refine Calm.pair ?_ rfl rfl)

theorem i3cWriteBytes_calm (a : Nat) (l : List Byte) {s0 s : State} (hc0 : Calm s0 s) :
    Calm s0 (i3cWriteBytes a l s) := by
  induction l generalizing a s with
  | nil => exact hc0
  | cons b r ih => exact ih _ (i3cWriteByte_calm _ _ hc0)

theorem execI3cPrivateWrite_calm (offset : U16) (data : List Byte) {s0 s : State} (hc0 : Calm s0 s) :
    CalmO s0 (execI3cPrivateWrite offset data s) := by
  unfold execI3cPrivateWrite; try dsimp only
  repeat' (with_reducible first | assumption | intro _ | apply i3cWriteBytes_calm | apply guarded_calm | apply Calm.ite | apply CalmO.ite | apply CalmO.next | split | apply Calm.mk | refine Calm.pair ?_ rfl rfl)

theorem execI3cPrivateRead_calm (count : ℕ) {s0 s : State} (hc0 : Calm s0 s) :
    CalmO s0 (execI3cPrivateRead count s) := by
  unfold execI3cPrivateRead; try dsimp only
  repeat' (with_reducible first | assumption | intro _ | apply emit_calm | apply guarded_calm | apply Calm.ite | apply CalmO.ite | apply CalmO.next | split | apply Calm.mk | refine Calm.pair ?_ rfl rfl)

theorem execEntdaa_calm (addr : BitVec 7) {s0 s : State} (hc0 : Calm s0 s) :
    CalmO s0 (execEntdaa addr s) := by
  unfold execEntdaa; try dsimp only
  repeat' (with_reducible first | assumption | intro _ | apply guarded_calm | apply Calm.ite | apply CalmO.ite | apply CalmO.next | split | apply Calm.mk | refine Calm.pair ?_ rfl rfl)

theorem execI3cBusReset_calm {s0 s : State} (hc0 : Calm s0 s) :
    CalmO s0 (execI3cBusReset s) := by
  unfold execI3cBusReset; try dsimp only
  repeat' (with_reducible first | assumption | intro _ | apply modBox_calm | apply withRises_calm | apply guarded_calm | apply Calm.ite | apply CalmO.ite | apply CalmO.next | split | apply Calm.mk | refine Calm.pair ?_ rfl rfl)

theorem pwrCtlWrite_calm (v : U32) {s0 s : State} (hc0 : Calm s0 s) :
    Calm s0 (pwrCtlWrite v s) := by
  unfold pwrCtlWrite; try dsimp only
  repeat' (with_reducible first | assumption | intro _ | apply Calm.ite | apply CalmO.ite | apply CalmO.next | split | apply Calm.mk | refine Calm.pair ?_ rfl rfl)

theorem execPwrTargetWrite_calm (value : U32) {s0 s : State} (hc0 : Calm s0 s) :
    CalmO s0 (execPwrTargetWrite value s) := by
  unfold execPwrTargetWrite; try dsimp only
  repeat' (with_reducible first | assumption | intro _ | apply pwrCtlWrite_calm | apply guarded_calm | apply Calm.ite | apply CalmO.ite | apply CalmO.next | split | apply Calm.mk | refine Calm.pair ?_ rfl rfl)

theorem beginEntry_calm (st : PowerState) {s0 s : State} (hc0 : Calm s0 s) :
    Calm s0 (beginEntry st s) := by
  unfold beginEntry; try dsimp only
  repeat' (with_reducible first | assumption | intro _ | apply dropRes_calm | apply Calm.ite | apply CalmO.ite | apply CalmO.next | split | apply Calm.mk | refine Calm.pair ?_ rfl rfl)

theorem execPf0D3hotEntry_calm {s0 s : State} (hc0 : Calm s0 s) :
    CalmO s0 (execPf0D3hotEntry s) := by
  unfold execPf0D3hotEntry; try dsimp only
  repeat' (with_reducible first | assumption | intro _ | apply beginEntry_calm | apply guarded_calm | apply Calm.ite | apply CalmO.ite | apply CalmO.next | split | apply Calm.mk | refine Calm.pair ?_ rfl rfl)

theorem execPmeTurnOff_calm {s0 s : State} (hc0 : Calm s0 s) :
    CalmO s0 (execPmeTurnOff s) := by
  unfold execPmeTurnOff; try dsimp only
  repeat' (with_reducible first | assumption | intro _ | apply stopLanes_calm | apply emit_calm | apply guarded_calm | apply Calm.ite | apply CalmO.ite | apply CalmO.next | split | apply Calm.mk | refine Calm.pair ?_ rfl rfl)

theorem suspendPort_calm (p : ℕ) {s0 s : State} (hc0 : Calm s0 s) :
    Calm s0 (suspendPort p s) := by
  unfold suspendPort; try dsimp only
  repeat' (with_reducible first | assumption | intro _ | apply modPort_calm | apply suspendOp_calm | apply Calm.ite | apply CalmO.ite | apply CalmO.next | split | apply Calm.mk | refine Calm.pair ?_ rfl rfl)

theorem enterState_calm (st : PowerState) {s0 s : State} (hc0 : Calm s0 s) :
    Calm s0 (enterState st s) := by
  unfold enterState; try dsimp only
  repeat' (with_reducible first | assumption | intro _ | apply modDie_calm | apply suspendPort_calm | apply each_calm | apply Calm.ite | apply CalmO.ite | apply CalmO.next | split | apply Calm.mk | refine Calm.pair ?_ rfl rfl)

theorem execLowPowerEnter_calm {s0 s : State} (hc0 : Calm s0 s) :
    CalmO s0 (execLowPowerEnter s) := by
  unfold execLowPowerEnter; try dsimp only
  repeat' (with_reducible first | assumption | intro _ | apply done_calm | apply enterState_calm | apply guarded_calm | apply Calm.ite | apply CalmO.ite | apply CalmO.next | split | apply Calm.mk | refine Calm.pair ?_ rfl rfl)

theorem execEngineClockGate_calm (e : EngId) {s0 s : State} (hc0 : Calm s0 s) :
    CalmO s0 (execEngineClockGate e s) := by
  unfold execEngineClockGate; try dsimp only
  repeat' (with_reducible first | assumption | intro _ | apply modEng_calm | apply guarded_calm | apply Calm.ite | apply CalmO.ite | apply CalmO.next | split | apply Calm.mk | refine Calm.pair ?_ rfl rfl)

theorem execWatchSample_calm (wakeIn : Bool) (wakes : U64) {s0 s : State} (hc0 : Calm s0 s) :
    CalmO s0 (execWatchSample wakeIn wakes s) := by
  unfold execWatchSample; try dsimp only
  repeat' (with_reducible first | assumption | intro _ | apply startWake_calm | apply guarded_calm | apply Calm.ite | apply CalmO.ite | apply CalmO.next | split | apply Calm.mk | refine Calm.pair ?_ rfl rfl)

theorem execPf0D0Entry_calm {s0 s : State} (hc0 : Calm s0 s) :
    CalmO s0 (execPf0D0Entry s) := by
  unfold execPf0D0Entry; try dsimp only
  repeat' (with_reducible first | assumption | intro _ | apply startWake_calm | apply guarded_calm | apply Calm.ite | apply CalmO.ite | apply CalmO.next | split | apply Calm.mk | refine Calm.pair ?_ rfl rfl)

theorem execWakeInAssert_calm {s0 s : State} (hc0 : Calm s0 s) :
    CalmO s0 (execWakeInAssert s) := by
  unfold execWakeInAssert; try dsimp only
  repeat' (with_reducible first | assumption | intro _ | apply startWake_calm | apply emit_calm | apply done_calm | apply Calm.ite | apply CalmO.ite | apply CalmO.next | split | apply Calm.mk | refine Calm.pair ?_ rfl rfl)

theorem wakeStep_calm (w : WakeStep) {s0 s : State} (hc0 : Calm s0 s) :
    Calm s0 (wakeStep w s) := by
  unfold wakeStep; try dsimp only
  repeat' (with_reducible first | assumption | intro _ | apply Calm.ite | apply CalmO.ite | apply CalmO.next | split | apply Calm.mk | refine Calm.pair ?_ rfl rfl)

theorem execWakeRegulatorReady_calm {s0 s : State} (hc0 : Calm s0 s) :
    CalmO s0 (execWakeRegulatorReady s) := by
  unfold execWakeRegulatorReady; try dsimp only
  repeat' (with_reducible first | assumption | intro _ | apply wakeStep_calm | apply guarded_calm | apply Calm.ite | apply CalmO.ite | apply CalmO.next | split | apply Calm.mk | refine Calm.pair ?_ rfl rfl)

theorem execWakeClockReady_calm {s0 s : State} (hc0 : Calm s0 s) :
    CalmO s0 (execWakeClockReady s) := by
  unfold execWakeClockReady; try dsimp only
  repeat' (with_reducible first | assumption | intro _ | apply wakeStep_calm | apply guarded_calm | apply Calm.ite | apply CalmO.ite | apply CalmO.next | split | apply Calm.mk | refine Calm.pair ?_ rfl rfl)

theorem execWakeMemoryReady_calm {s0 s : State} (hc0 : Calm s0 s) :
    CalmO s0 (execWakeMemoryReady s) := by
  unfold execWakeMemoryReady; try dsimp only
  repeat' (with_reducible first | assumption | intro _ | apply wakeStep_calm | apply keepAlive_calm | apply each_calm | apply guarded_calm | apply Calm.ite | apply CalmO.ite | apply CalmO.next | split | apply Calm.mk | refine Calm.pair ?_ rfl rfl)

theorem reachRun_calm (c : ℕ × ℕ) {s0 s : State} (hc0 : Calm s0 s) :
    Calm s0 (reachRun c s) := by
  unfold reachRun; try dsimp only
  repeat' (with_reducible first | assumption | intro _ | apply resumeOp_calm | apply noteWake_calm | apply each_calm | apply emit_calm | apply Calm.ite | apply CalmO.ite | apply CalmO.next | split | apply Calm.mk | refine Calm.pair ?_ rfl rfl)

theorem execWakeLogicReady_calm {s0 s : State} (hc0 : Calm s0 s) :
    CalmO s0 (execWakeLogicReady s) := by
  unfold execWakeLogicReady; try dsimp only
  repeat' (with_reducible first | assumption | intro _ | apply done_calm | apply reachRun_calm | apply guarded_calm | apply Calm.ite | apply CalmO.ite | apply CalmO.next | split | apply Calm.mk | refine Calm.pair ?_ rfl rfl)

theorem abortLost_calm (old : Tbl MBox) {s0 s : State} (hc0 : Calm s0 s) :
    Calm s0 (abortLost old s) := by
  unfold abortLost; try dsimp only
  repeat' (with_reducible first | assumption | intro _ | apply postAborted_calm | apply each_calm | apply Calm.ite | apply CalmO.ite | apply CalmO.next | split | apply Calm.mk | refine Calm.pair ?_ rfl rfl)

theorem resetCore_calm (r : ResetForm) {s0 s : State} (hc0 : Calm s0 s) (hw : s0.pwr.por = false) :
    Calm s0 (resetCore r s) := by
  unfold resetCore
  apply abortLost_calm
  refine ⟨hc0.1, hc0.2.1, hw.symm, fun a => ?_⟩
  have k := hc0.2.2.2 a
  unfold Agrees at k ⊢
  show (pairAfter s).st = _ ↔ s.straps.pairEn = false
  unfold pairAfter; dsimp only
  split
  · next h =>
    rw [← k]
  · cases s.straps.pairEn <;> simp

theorem takeDies_calm {s0 s : State} (hc0 : Calm s0 s) :
    Calm s0 (takeDies s) := by
  unfold takeDies; try dsimp only
  repeat' (with_reducible first | assumption | intro _ | apply modDie_calm | apply recheck_calm | apply each_calm | apply Calm.ite | apply CalmO.ite | apply CalmO.next | split | apply Calm.mk | refine Calm.pair ?_ rfl rfl)

theorem pcieReset_calm (kind : Nat) {s0 s : State} (hc0 : Calm s0 s) (hw : s0.pwr.por = false) :
    Calm s0 (pcieReset kind s) := by
  unfold pcieReset; dsimp only
  exact resetCore_calm _ (Calm.ite (sendHandover_calm _ hc0) hc0) hw

theorem execCoreReset_calm {s0 s : State} (hc0 : Calm s0 s) : CalmO s0 (execCoreReset s) := by
  unfold execCoreReset
  refine guarded_calm_if _ _ (fun hb => takeDies_calm (resetCore_calm _ hc0 ?_)) hc0
  rw [← hc0.2.2.1]; simp at hb; simp [hb]

theorem execPerstAssert_calm {s0 s : State} (hc0 : Calm s0 s) : CalmO s0 (execPerstAssert s) := by
  unfold execPerstAssert done; dsimp only
  apply CalmO.next
  split
  · exact hc0
  · have h : Calm s0 { s with pwr := { s.pwr with perst := true } } := Calm.pair hc0 rfl rfl
    split
    · exact h
    · next hb =>
      refine pcieReset_calm _ h ?_
      rw [← hc0.2.2.1]; simp at hb; simp [hb]

theorem execPerstDeassert_calm {s0 s : State} (hc0 : Calm s0 s) :
    CalmO s0 (execPerstDeassert s) := by
  unfold execPerstDeassert; try dsimp only
  repeat' (with_reducible first | assumption | intro _ | apply takeDies_calm | apply emit_calm | apply guarded_calm | apply Calm.ite | apply CalmO.ite | apply CalmO.next | split | apply Calm.mk | refine Calm.pair ?_ rfl rfl)

theorem execHotReset_calm {s0 s : State} (hc0 : Calm s0 s) : CalmO s0 (execHotReset s) := by
  unfold execHotReset
  refine guarded_calm_if _ _ (fun hb => takeDies_calm (pcieReset_calm _ hc0 ?_)) hc0
  rw [← hc0.2.2.1]; simp at hb; simp [hb]

theorem execYieldResetDone_calm {s0 s : State} (hc0 : Calm s0 s) : CalmO s0 (execYieldResetDone s) := by
  unfold execYieldResetDone
  refine guarded_calm_if _ _ (fun hb => ?_) hc0
  simp only [Bool.and_eq_true] at hb
  have hl := hb.1
  have hw : s0.pwr.por = false := by rw [← hc0.2.2.1]; unfold live at hl; simp at hl; simp [hl]
  refine setPair_calm (takeDies_calm (resetCore_calm _ hc0 hw)) (by split <;> simp) (fun a => ?_)
  rw [← hc0.2.1]
  exact pairEn_of (by intro e; simp [e] at hb) (hc0.2.2.2 a)

theorem booted_calm (b : Bool) {s0 s : State} (hc0 : Calm s0 s) :
    Calm s0 (booted b s) := by
  unfold booted; try dsimp only
  repeat' (with_reducible first | assumption | intro _ | apply Calm.ite | apply CalmO.ite | apply CalmO.next | split | apply Calm.mk | refine Calm.pair ?_ rfl rfl)

theorem execBootDone_calm {s0 s : State} (hc0 : Calm s0 s) :
    CalmO s0 (execBootDone s) := by
  unfold execBootDone; try dsimp only
  repeat' (with_reducible first | assumption | intro _ | apply booted_calm | apply guarded_calm | apply Calm.ite | apply CalmO.ite | apply CalmO.next | split | apply Calm.mk | refine Calm.pair ?_ rfl rfl)

theorem after_calm (f : State → Host.Outcome State Fault Refusal) {s0 s : State}
    (hf : ∀ t, Calm s0 t → CalmO s0 (f t)) (hc0 : Calm s0 s) : Calm s0 (after f s) := by
  unfold after
  split
  · next t h => exact hf s hc0 t h
  · exact hc0

theorem winPut_calm (f : ℕ) (off : ℕ) (v : U64) {s0 s : State} (hc0 : Calm s0 s) :
    Calm s0 (winPut f off v s) := by
  unfold winPut; try dsimp only
  repeat' (with_reducible first | assumption | intro _ | apply vecModWrite_calm | apply modFn_calm | apply Calm.ite | apply CalmO.ite | apply CalmO.next | split | apply Calm.mk | refine Calm.pair ?_ rfl rfl)

theorem qCmdWrite_calm (f : ℕ) (v : U32) {s0 s : State} (hc0 : Calm s0 s) :
    Calm s0 (qCmdWrite f v s) := by
  unfold qCmdWrite; try dsimp only
  repeat' (with_reducible first | assumption | intro _ | apply modFn_calm | apply Calm.ite | apply CalmO.ite | apply CalmO.next | split | apply Calm.mk | refine Calm.pair ?_ rfl rfl)

theorem kickWrite_calm (f : FuncId) (v : U32) {s0 s : State} (hc0 : Calm s0 s) :
    Calm s0 (kickWrite f v s) := by
  unfold kickWrite; try dsimp only
  repeat' (with_reducible first | assumption | intro _ | apply execQKickSq_calm | apply execQKickSqInval_calm | apply execQKickCr_calm | apply after_calm | apply Calm.ite | apply CalmO.ite | apply CalmO.next | split | apply Calm.mk | refine Calm.pair ?_ rfl rfl)

theorem winWrite_calm (f : FuncId) (off : ℕ) (v : U32) {s0 s : State} (hc0 : Calm s0 s) :
    Calm s0 (winWrite f off v s) := by
  unfold winWrite; try dsimp only
  repeat' (with_reducible first | assumption | intro _ | apply clearEvt_calm | apply kickWrite_calm | apply qCmdWrite_calm | apply modFn_calm | apply Calm.ite | apply CalmO.ite | apply CalmO.next | split | apply Calm.mk | refine Calm.pair ?_ rfl rfl)

theorem mbxWrite_calm (b : Box) (f : ℕ) (off : ℕ) (v : U32) {s0 s : State} (hc0 : Calm s0 s) :
    Calm s0 (mbxWrite b f off v s) := by
  unfold mbxWrite; try dsimp only
  repeat' (with_reducible first | assumption | intro _ | apply outDone_calm | apply modBox_calm | apply commitBox_calm | apply Calm.ite | apply CalmO.ite | apply CalmO.next | split | apply Calm.mk | refine Calm.pair ?_ rfl rfl)

theorem msixWrite_calm (f : ℕ) (off : ℕ) (v : U32) {s0 s : State} (hc0 : Calm s0 s) :
    Calm s0 (msixWrite f off v s) := by
  unfold msixWrite; try dsimp only
  repeat' (with_reducible first | assumption | intro _ | apply msixRelease_calm | apply modVec_calm | apply Calm.ite | apply CalmO.ite | apply CalmO.next | split | apply Calm.mk | refine Calm.pair ?_ rfl rfl)

theorem portCtlWrite_calm (p : PortId) (v : U32) {s0 s : State} (hc0 : Calm s0 s) :
    Calm s0 (portCtlWrite p v s) := by
  unfold portCtlWrite; try dsimp only
  repeat' (with_reducible first | assumption | intro _ | apply execPortResume_calm | apply execPortSuspend_calm | apply execPortEnable_calm | apply execPortReset_calm | apply execPortDisable_calm | apply after_calm | apply modPort_calm | apply Calm.ite | apply CalmO.ite | apply CalmO.next | split | apply Calm.mk | refine Calm.pair ?_ rfl rfl)

theorem slotRegWrite_calm (n : ℕ) (off : ℕ) (v : U64) {s0 s : State} (hc0 : Calm s0 s) :
    Calm s0 (slotRegWrite n off v s) := by
  unfold slotRegWrite; try dsimp only
  repeat' (with_reducible first | assumption | intro _ | apply pctlCommand_calm | apply powerCommand_calm | apply Calm.ite | apply CalmO.ite | apply CalmO.next | split | apply Calm.mk | refine Calm.pair ?_ rfl rfl)

theorem tbCtlWrite_calm (v : U32) {s0 s : State} (hc0 : Calm s0 s) :
    Calm s0 (tbCtlWrite v s) := by
  unfold tbCtlWrite; try dsimp only
  repeat' (with_reducible first | assumption | intro _ | apply Calm.ite | apply CalmO.ite | apply CalmO.next | split | apply Calm.mk | refine Calm.pair ?_ rfl rfl)

theorem pairCfgWrite_calm (v : U32) {s0 s : State} (hc0 : Calm s0 s) :
    Calm s0 (pairCfgWrite v s) := by
  unfold pairCfgWrite; try dsimp only
  repeat' (with_reducible first | assumption | intro _ | apply Calm.ite | apply CalmO.ite | apply CalmO.next | split | apply Calm.mk | refine Calm.pair ?_ rfl rfl)

theorem coreResetWrite_calm (v : U32) {s0 s : State} (hc0 : Calm s0 s) :
    Calm s0 (coreResetWrite v s) := by
  unfold coreResetWrite; try dsimp only
  repeat' (with_reducible first | assumption | intro _ | apply execCoreReset_calm | apply after_calm | apply Calm.ite | apply CalmO.ite | apply CalmO.next | split | apply Calm.mk | refine Calm.pair ?_ rfl rfl)

theorem srcCfgWrite_calm (v : U64) {s0 s : State} (hc0 : Calm s0 s) :
    Calm s0 (srcCfgWrite v s) := by
  unfold srcCfgWrite; try dsimp only
  repeat' (with_reducible first | assumption | intro _ | apply modSource_calm | apply Calm.ite | apply CalmO.ite | apply CalmO.next | split | apply Calm.mk | refine Calm.pair ?_ rfl rfl)

theorem dirtyCtlWrite_calm (f : ℕ) (v : U64) {s0 s : State} (hc0 : Calm s0 s) :
    Calm s0 (dirtyCtlWrite f v s) := by
  unfold dirtyCtlWrite; try dsimp only
  repeat' (with_reducible first | assumption | intro _ | apply modFn_calm | apply Calm.ite | apply CalmO.ite | apply CalmO.next | split | apply Calm.mk | refine Calm.pair ?_ rfl rfl)

theorem pf0Put_calm (a : ℕ) (v : U64) {s0 s : State} (hc0 : Calm s0 s) :
    Calm s0 (pf0Put a v s) := by
  unfold pf0Put; try dsimp only
  repeat' (with_reducible first | assumption | intro _ | apply dirtyCtlWrite_calm | apply modFn_calm | apply modBox_calm | apply portFailedClear_calm | apply slotRegWrite_calm | apply srcCfgWrite_calm | apply cmpTargetWrite_calm | apply topoBaseWrite_calm | apply winPut_calm | apply Calm.ite | apply CalmO.ite | apply CalmO.next | split | apply Calm.mk | refine Calm.pair ?_ rfl rfl)

theorem globalWrite_calm (a : ℕ) (v : U32) {s0 s : State} (hc0 : Calm s0 s) :
    Calm s0 (globalWrite a v s) := by
  unfold globalWrite; try dsimp only
  repeat' (with_reducible first | assumption | intro _ | apply clearEvt_calm | apply topoRingWrite_calm | apply Calm.ite | apply CalmO.ite | apply CalmO.next | split | apply Calm.mk | refine Calm.pair ?_ rfl rfl)

theorem timebaseWrite_calm (off : ℕ) (v : U32) {s0 s : State} (hc0 : Calm s0 s) :
    Calm s0 (timebaseWrite off v s) := by
  unfold timebaseWrite; try dsimp only
  repeat' (with_reducible first | assumption | intro _ | apply execPtmStart_calm | apply after_calm | apply cmpCfgWrite_calm | apply tbCtlWrite_calm | apply cpcWrite_calm | apply axCfgWrite_calm | apply clearEvt_calm | apply Calm.ite | apply CalmO.ite | apply CalmO.next | split | apply Calm.mk | refine Calm.pair ?_ rfl rfl)

theorem dispatcherWrite_calm (off : ℕ) (v : U32) {s0 s : State} (hc0 : Calm s0 s) :
    Calm s0 (dispatcherWrite off v s) := by
  unfold dispatcherWrite; try dsimp only
  repeat' (with_reducible first | assumption | intro _ | apply clearEvt_calm | apply ctxCtlWrite_calm | apply Calm.ite | apply CalmO.ite | apply CalmO.next | split | apply Calm.mk | refine Calm.pair ?_ rfl rfl)

theorem eicWrite_calm (off : ℕ) (v : U32) {s0 s : State} (hc0 : Calm s0 s) :
    Calm s0 (eicWrite off v s) := by
  unfold eicWrite; try dsimp only
  repeat' (with_reducible first | assumption | intro _ | apply Calm.ite | apply CalmO.ite | apply CalmO.next | split | apply Calm.mk | refine Calm.pair ?_ rfl rfl)

theorem errWrite_calm (off : ℕ) (v : U32) {s0 s : State} (hc0 : Calm s0 s) :
    Calm s0 (errWrite off v s) := by
  unfold errWrite; try dsimp only
  repeat' (with_reducible first | assumption | intro _ | apply clearEvt_calm | apply errCfgWrite_calm | apply Calm.ite | apply CalmO.ite | apply CalmO.next | split | apply Calm.mk | refine Calm.pair ?_ rfl rfl)

theorem pairWrite_calm (off : ℕ) (v : U32) {s0 s : State} (hc0 : Calm s0 s) :
    Calm s0 (pairWrite off v s) := by
  unfold pairWrite; try dsimp only
  repeat' (with_reducible first | assumption | intro _ | apply clearEvt_calm | apply pairCfgWrite_calm | apply Calm.ite | apply CalmO.ite | apply CalmO.next | split | apply Calm.mk | refine Calm.pair ?_ rfl rfl)

theorem powerWrite_calm (off : ℕ) (v : U32) {s0 s : State} (hc0 : Calm s0 s) :
    Calm s0 (powerWrite off v s) := by
  unfold powerWrite; try dsimp only
  repeat' (with_reducible first | assumption | intro _ | apply coreResetWrite_calm | apply pwrCtlWrite_calm | apply Calm.ite | apply CalmO.ite | apply CalmO.next | split | apply Calm.mk | refine Calm.pair ?_ rfl rfl)

theorem secureWrite_calm (off : ℕ) (v : U32) {s0 s : State} (hc0 : Calm s0 s) :
    Calm s0 (secureWrite off v s) := by
  unfold secureWrite; try dsimp only
  repeat' (with_reducible first | assumption | intro _ | apply Calm.ite | apply CalmO.ite | apply CalmO.next | split | apply Calm.mk | refine Calm.pair ?_ rfl rfl)

theorem vfrWrite_calm (off : ℕ) (v : U32) {s0 s : State} (hc0 : Calm s0 s) :
    Calm s0 (vfrWrite off v s) := by
  unfold vfrWrite; try dsimp only
  repeat' (with_reducible first | assumption | intro _ | apply clearEvt_calm | apply Calm.ite | apply CalmO.ite | apply CalmO.next | split | apply Calm.mk | refine Calm.pair ?_ rfl rfl)

theorem pf0Write_calm (a : ℕ) (v : U32) {s0 s : State} (hc0 : Calm s0 s) :
    Calm s0 (pf0Write a v s) := by
  unfold pf0Write; try dsimp only
  repeat' (with_reducible first | assumption | intro _ | apply msixWrite_calm | apply vfrWrite_calm | apply secureWrite_calm | apply mbxWrite_calm | apply powerWrite_calm | apply pairWrite_calm | apply errWrite_calm | apply slotRegWrite_calm | apply clearEvt_calm | apply portCtlWrite_calm | apply eicWrite_calm | apply dispatcherWrite_calm | apply timebaseWrite_calm | apply winWrite_calm | apply globalWrite_calm | apply Calm.ite | apply CalmO.ite | apply CalmO.next | split | apply Calm.mk | refine Calm.pair ?_ rfl rfl)

theorem vfPut_calm (f : ℕ) (a : ℕ) (v : U64) {s0 s : State} (hc0 : Calm s0 s) :
    Calm s0 (vfPut f a v s) := by
  unfold vfPut; try dsimp only
  repeat' (with_reducible first | assumption | intro _ | apply modBox_calm | apply winPut_calm | apply Calm.ite | apply CalmO.ite | apply CalmO.next | split | apply Calm.mk | refine Calm.pair ?_ rfl rfl)

theorem vfWrite_calm (f : FuncId) (a : ℕ) (v : U32) {s0 s : State} (hc0 : Calm s0 s) :
    Calm s0 (vfWrite f a v s) := by
  unfold vfWrite; try dsimp only
  repeat' (with_reducible first | assumption | intro _ | apply msixWrite_calm | apply mbxWrite_calm | apply winWrite_calm | apply modFn_calm | apply clearEvt_calm | apply Calm.ite | apply CalmO.ite | apply CalmO.next | split | apply Calm.mk | refine Calm.pair ?_ rfl rfl)

theorem put64_calm (f : FuncId) (a : ℕ) (v : U64) {s0 s : State} (hc0 : Calm s0 s) :
    Calm s0 (put64 f a v s) := by
  unfold put64; try dsimp only
  repeat' (with_reducible first | assumption | intro _ | apply vfPut_calm | apply pf0Put_calm | apply Calm.ite | apply CalmO.ite | apply CalmO.next | split | apply Calm.mk | refine Calm.pair ?_ rfl rfl)

theorem put32_calm (f : FuncId) (a : ℕ) (v : U32) {s0 s : State} (hc0 : Calm s0 s) :
    Calm s0 (put32 f a v s) := by
  unfold put32; try dsimp only
  repeat' (with_reducible first | assumption | intro _ | apply vfWrite_calm | apply pf0Write_calm | apply Calm.ite | apply CalmO.ite | apply CalmO.next | split | apply Calm.mk | refine Calm.pair ?_ rfl rfl)

theorem write32_calm (f : FuncId) (a : ℕ) (v : U32) {s0 s : State} (hc0 : Calm s0 s) :
    Calm s0 (write32 f a v s) := by
  unfold write32; try dsimp only
  repeat' (with_reducible first | assumption | intro _ | apply put32_calm | apply put64_calm | apply Calm.ite | apply CalmO.ite | apply CalmO.next | split | apply Calm.mk | refine Calm.pair ?_ rfl rfl)

theorem write64_calm (f : FuncId) (a : ℕ) (v : U64) {s0 s : State} (hc0 : Calm s0 s) :
    Calm s0 (write64 f a v s) := by
  unfold write64; try dsimp only
  repeat' (with_reducible first | assumption | intro _ | apply write32_calm | apply put64_calm | apply Calm.ite | apply CalmO.ite | apply CalmO.next | split | apply Calm.mk | refine Calm.pair ?_ rfl rfl)

theorem execRegisterWrite_calm (f : FuncId) (offset : ℕ) (wide : Bool) (value : U64) {s0 s : State} (hc0 : Calm s0 s) :
    CalmO s0 (execRegisterWrite f offset wide value s) := by
  unfold execRegisterWrite; try dsimp only
  repeat' (with_reducible first | assumption | intro _ | apply write32_calm | apply write64_calm | apply guarded_calm | apply Calm.ite | apply CalmO.ite | apply CalmO.next | split | apply Calm.mk | refine Calm.pair ?_ rfl rfl)

end Sys2Proof.Machine
end

