-- ==== Sys2Proof/Laws/KeepsOps.lean ====
section
/-! SUPPORT. Which blocks of the state an operation leaves as they are: one lemma per operation, in the order of the model,
with the list of the blocks that it may change. A lemma takes the state before any operations that have already run. -/

set_option linter.unusedTactic false
set_option linter.unreachableTactic false

namespace Sys2Proof.Machine

set_option Elab.async false

/-- The same of an outcome: of the next state, if there is one. -/
def KeepsO (bl : Block) (s : State) (o : Host.Outcome State Fault Refusal) : Prop := ∀ t, o = .next t → Keeps bl s t

theorem Keeps.refl (bl : Block) (s : State) : Keeps bl s s := by cases bl <;> rfl

theorem Keeps.trans {bl : Block} {s t u : State} (h : Keeps bl s t) (k : Keeps bl t u) : Keeps bl s u := by
  cases bl <;> exact Eq.trans k h

theorem notMem_of {bl : Block} {A B : List Block} (hb : bl ∉ B) (h : A.all (fun x => B.contains x) = true) : bl ∉ A := by
  intro ha
  have := (List.all_eq_true.1 h) bl ha
  exact hb (by simpa using this)

theorem Keeps.ite {bl : Block} {s x y : State} {c : Prop} [Decidable c] (h : Keeps bl s x) (k : Keeps bl s y) :
    Keeps bl s (if c then x else y) := by split <;> assumption

theorem KeepsO.ite {bl : Block} {s : State} {x y : Host.Outcome State Fault Refusal} {c : Prop} [Decidable c]
    (h : KeepsO bl s x) (k : KeepsO bl s y) : KeepsO bl s (if c then x else y) := by split <;> assumption

theorem KeepsO.next {bl : Block} {s t : State} (h : Keeps bl s t) : KeepsO bl s (.next t) := by
  intro u hu; cases hu; exact h

/-- An update of a state is a step from that state to the updated one. -/
theorem Keeps.mk {bl : Block} {s t : State} {o f e m n sc fr d tb tp fs sl er pa ct st pw fl} (h : Keeps bl s t)
    (k : Keeps bl t ⟨t.pending, o, f, e, m, n, sc, fr, d, tb, tp, fs, sl, er, pa, ct, st, pw, fl⟩) :
    Keeps bl s ⟨t.pending, o, f, e, m, n, sc, fr, d, tb, tp, fs, sl, er, pa, ct, st, pw, fl⟩ := h.trans k

theorem done_keeps {bl : Block} {s0 s : State} (hc0 : Keeps bl s0 s)
    (hb : bl ∉ [] := by exact notMem_of ‹_ ∉ _› rfl) : KeepsO bl s0 (done s) := by
  unfold done; try dsimp only
  repeat' (with_reducible first | assumption | intro _ | exact notMem_of hb rfl | apply Keeps.ite | apply KeepsO.ite | apply KeepsO.next | split)

theorem guarded_keeps {bl : Block} {s0 : State} (b : Bool) {s : State} (f : State → State) (hf : ∀ t, Keeps bl s0 t → Keeps bl s0 (f t))
    (h : Keeps bl s0 s) : KeepsO bl s0 (guarded b s f) := by
  unfold guarded; exact KeepsO.next (Keeps.ite (hf s h) h)

/-- The same, where what is done may use the guard. -/
theorem guarded_keeps_if {bl : Block} {s0 : State} (b : Bool) {s : State} (f : State → State) (hf : b = true → Keeps bl s0 (f s))
    (h : Keeps bl s0 s) : KeepsO bl s0 (guarded b s f) := by
  unfold guarded
  split
  · next hb => exact KeepsO.next (hf hb)
  · exact KeepsO.next h

theorem emit_keeps {bl : Block} (o : Output) {s0 s : State} (hc0 : Keeps bl s0 s)
    (hb : bl ∉ [.out] := by exact notMem_of ‹_ ∉ _› rfl) : Keeps bl s0 (emit o s) := by
  unfold emit; try dsimp only
  repeat' (first | (with_reducible first | assumption | intro _ | exact notMem_of hb rfl | apply Keeps.ite | apply KeepsO.ite | apply KeepsO.next | split) | ((with_reducible refine Keeps.mk ?_ ?_) <;> [skip; (cases bl <;> first | exact absurd (by decide) hb | rfl)]))

theorem each_keeps {bl : Block} {α : Type} (l : List α) (f : α → State → State) {s0 s : State}
    (hf : ∀ x t, Keeps bl s0 t → Keeps bl s0 (f x t)) (h : Keeps bl s0 s) : Keeps bl s0 (each l f s) := by
  unfold each
  induction l generalizing s with
  | nil => exact h
  | cons x r ih => exact ih (hf x s h)

theorem freshIndex_keeps {bl : Block} {s0 s : State} (h : Keeps bl s0 s)
    (hb : bl ∉ [.free] := by exact notMem_of ‹_ ∉ _› rfl) : Keeps bl s0 (freshIndex s).2 := by
  refine Keeps.trans h ?_
  cases bl <;> first | exact absurd (by decide) hb | rfl

theorem setFn_keeps {bl : Block} {s0 s : State} (f : ℕ) (x : Func) (hc0 : Keeps bl s0 s)
    (hb : bl ∉ [.fns] := by exact notMem_of ‹_ ∉ _› rfl) : Keeps bl s0 (setFn s f x) := by
  unfold setFn; try dsimp only
  repeat' (first | (with_reducible first | assumption | intro _ | exact notMem_of hb rfl | apply tput_keeps | apply fn_keeps | apply Keeps.ite | apply KeepsO.ite | apply KeepsO.next | split) | ((with_reducible refine Keeps.mk ?_ ?_) <;> [skip; (cases bl <;> first | exact absurd (by decide) hb | rfl)]))

theorem modFn_keeps {bl : Block} (f : ℕ) (g : Func → Func) {s0 s : State} (hc0 : Keeps bl s0 s)
    (hb : bl ∉ [.fns] := by exact notMem_of ‹_ ∉ _› rfl) : Keeps bl s0 (modFn f g s) := by
  unfold modFn; try dsimp only
  repeat' (with_reducible first | assumption | intro _ | exact notMem_of hb rfl | apply fn_keeps | apply setFn_keeps | apply Keeps.ite | apply KeepsO.ite | apply KeepsO.next | split)

theorem setPort_keeps {bl : Block} {s0 s : State} (p : ℕ) (x : Port) (hc0 : Keeps bl s0 s)
    (hb : bl ∉ [.topo] := by exact notMem_of ‹_ ∉ _› rfl) : Keeps bl s0 (setPort s p x) := by
  unfold setPort; try dsimp only
  repeat' (first | (with_reducible first | assumption | intro _ | exact notMem_of hb rfl | apply tput_keeps | apply port_keeps | apply Keeps.ite | apply KeepsO.ite | apply KeepsO.next | split) | ((with_reducible refine Keeps.mk ?_ ?_) <;> [skip; (cases bl <;> first | exact absurd (by decide) hb | rfl)]))

theorem modPort_keeps {bl : Block} (p : ℕ) (g : Port → Port) {s0 s : State} (hc0 : Keeps bl s0 s)
    (hb : bl ∉ [.topo] := by exact notMem_of ‹_ ∉ _› rfl) : Keeps bl s0 (modPort p g s) := by
  unfold modPort; try dsimp only
  repeat' (with_reducible first | assumption | intro _ | exact notMem_of hb rfl | apply port_keeps | apply setPort_keeps | apply Keeps.ite | apply KeepsO.ite | apply KeepsO.next | split)

theorem setEng_keeps {bl : Block} {s0 s : State} (e : ℕ) (x : Engine) (hc0 : Keeps bl s0 s)
    (hb : bl ∉ [.eng] := by exact notMem_of ‹_ ∉ _› rfl) : Keeps bl s0 (setEng s e x) := by
  unfold setEng; try dsimp only
  repeat' (first | (with_reducible first | assumption | intro _ | exact notMem_of hb rfl | apply tput_keeps | apply eng_keeps | apply Keeps.ite | apply KeepsO.ite | apply KeepsO.next | split) | ((with_reducible refine Keeps.mk ?_ ?_) <;> [skip; (cases bl <;> first | exact absurd (by decide) hb | rfl)]))

theorem modEng_keeps {bl : Block} (e : ℕ) (g : Engine → Engine) {s0 s : State} (hc0 : Keeps bl s0 s)
    (hb : bl ∉ [.eng] := by exact notMem_of ‹_ ∉ _› rfl) : Keeps bl s0 (modEng e g s) := by
  unfold modEng; try dsimp only
  repeat' (with_reducible first | assumption | intro _ | exact notMem_of hb rfl | apply eng_keeps | apply setEng_keeps | apply Keeps.ite | apply KeepsO.ite | apply KeepsO.next | split)

theorem setItem_keeps {bl : Block} {s0 s : State} (i : ℕ) (x : Item) (hc0 : Keeps bl s0 s)
    (hb : bl ∉ [.front] := by exact notMem_of ‹_ ∉ _› rfl) : Keeps bl s0 (setItem s i x) := by
  unfold setItem; try dsimp only
  repeat' (first | (with_reducible first | assumption | intro _ | exact notMem_of hb rfl | apply tput_keeps | apply Keeps.ite | apply KeepsO.ite | apply KeepsO.next | split) | ((with_reducible refine Keeps.mk ?_ ?_) <;> [skip; (cases bl <;> first | exact absurd (by decide) hb | rfl)]))

theorem modItem_keeps {bl : Block} (i : ℕ) (g : Item → Item) {s0 s : State} (hc0 : Keeps bl s0 s)
    (hb : bl ∉ [.front] := by exact notMem_of ‹_ ∉ _› rfl) : Keeps bl s0 (modItem i g s) := by
  unfold modItem; try dsimp only
  repeat' (with_reducible first | assumption | intro _ | exact notMem_of hb rfl | apply setItem_keeps | apply Keeps.ite | apply KeepsO.ite | apply KeepsO.next | split)

theorem delItem_keeps {bl : Block} {s0 s : State} (i : ℕ) (hc0 : Keeps bl s0 s)
    (hb : bl ∉ [.front] := by exact notMem_of ‹_ ∉ _› rfl) : Keeps bl s0 (delItem s i) := by
  unfold delItem; try dsimp only
  repeat' (first | (with_reducible first | assumption | intro _ | exact notMem_of hb rfl | apply tdel_keeps | apply Keeps.ite | apply KeepsO.ite | apply KeepsO.next | split) | ((with_reducible refine Keeps.mk ?_ ?_) <;> [skip; (cases bl <;> first | exact absurd (by decide) hb | rfl)]))

theorem setDev_keeps {bl : Block} {s0 s : State} (h : ℕ) (x : Device) (hc0 : Keeps bl s0 s)
    (hb : bl ∉ [.topo] := by exact notMem_of ‹_ ∉ _› rfl) : Keeps bl s0 (setDev s h x) := by
  unfold setDev; try dsimp only
  repeat' (first | (with_reducible first | assumption | intro _ | exact notMem_of hb rfl | apply tput_keeps | apply Keeps.ite | apply KeepsO.ite | apply KeepsO.next | split) | ((with_reducible refine Keeps.mk ?_ ?_) <;> [skip; (cases bl <;> first | exact absurd (by decide) hb | rfl)]))

theorem modDev_keeps {bl : Block} (h : ℕ) (g : Device → Device) {s0 s : State} (hc0 : Keeps bl s0 s)
    (hb : bl ∉ [.topo] := by exact notMem_of ‹_ ∉ _› rfl) : Keeps bl s0 (modDev h g s) := by
  unfold modDev; try dsimp only
  repeat' (with_reducible first | assumption | intro _ | exact notMem_of hb rfl | apply setDev_keeps | apply Keeps.ite | apply KeepsO.ite | apply KeepsO.next | split)

theorem setHandle_keeps {bl : Block} {s0 s : State} (h : ℕ) (x : Handle) (hc0 : Keeps bl s0 s)
    (hb : bl ∉ [.topo] := by exact notMem_of ‹_ ∉ _› rfl) : Keeps bl s0 (setHandle s h x) := by
  unfold setHandle; try dsimp only
  repeat' (first | (with_reducible first | assumption | intro _ | exact notMem_of hb rfl | apply tput_keeps | apply handle_keeps | apply Keeps.ite | apply KeepsO.ite | apply KeepsO.next | split) | ((with_reducible refine Keeps.mk ?_ ?_) <;> [skip; (cases bl <;> first | exact absurd (by decide) hb | rfl)]))

theorem modHandle_keeps {bl : Block} (h : ℕ) (g : Handle → Handle) {s0 s : State} (hc0 : Keeps bl s0 s)
    (hb : bl ∉ [.topo] := by exact notMem_of ‹_ ∉ _› rfl) : Keeps bl s0 (modHandle h g s) := by
  unfold modHandle; try dsimp only
  repeat' (with_reducible first | assumption | intro _ | exact notMem_of hb rfl | apply handle_keeps | apply setHandle_keeps | apply Keeps.ite | apply KeepsO.ite | apply KeepsO.next | split)

theorem setCtx_keeps {bl : Block} {s0 s : State} (k : ℕ) (x : Ctx) (hc0 : Keeps bl s0 s)
    (hb : bl ∉ [.topo] := by exact notMem_of ‹_ ∉ _› rfl) : Keeps bl s0 (setCtx s k x) := by
  unfold setCtx; try dsimp only
  repeat' (first | (with_reducible first | assumption | intro _ | exact notMem_of hb rfl | apply tput_keeps | apply Keeps.ite | apply KeepsO.ite | apply KeepsO.next | split) | ((with_reducible refine Keeps.mk ?_ ?_) <;> [skip; (cases bl <;> first | exact absurd (by decide) hb | rfl)]))

theorem modCtx_keeps {bl : Block} (k : ℕ) (g : Ctx → Ctx) {s0 s : State} (hc0 : Keeps bl s0 s)
    (hb : bl ∉ [.topo] := by exact notMem_of ‹_ ∉ _› rfl) : Keeps bl s0 (modCtx k g s) := by
  unfold modCtx; try dsimp only
  repeat' (with_reducible first | assumption | intro _ | exact notMem_of hb rfl | apply setCtx_keeps | apply tfind_keeps | apply Keeps.ite | apply KeepsO.ite | apply KeepsO.next | split)

theorem setBox_keeps {bl : Block} {s0 s : State} (k : ℕ) (x : MBox) (hc0 : Keeps bl s0 s)
    (hb : bl ∉ [.mail] := by exact notMem_of ‹_ ∉ _› rfl) : Keeps bl s0 (setBox s k x) := by
  unfold setBox; try dsimp only
  repeat' (first | (with_reducible first | assumption | intro _ | exact notMem_of hb rfl | apply tput_keeps | apply box_keeps | apply Keeps.ite | apply KeepsO.ite | apply KeepsO.next | split) | ((with_reducible refine Keeps.mk ?_ ?_) <;> [skip; (cases bl <;> first | exact absurd (by decide) hb | rfl)]))

theorem modBox_keeps {bl : Block} (k : ℕ) (g : MBox → MBox) {s0 s : State} (hc0 : Keeps bl s0 s)
    (hb : bl ∉ [.mail] := by exact notMem_of ‹_ ∉ _› rfl) : Keeps bl s0 (modBox k g s) := by
  unfold modBox; try dsimp only
  repeat' (with_reducible first | assumption | intro _ | exact notMem_of hb rfl | apply box_keeps | apply setBox_keeps | apply Keeps.ite | apply KeepsO.ite | apply KeepsO.next | split)

theorem setSource_keeps {bl : Block} {s0 s : State} (x : ℕ) (v : Source) (hc0 : Keeps bl s0 s)
    (hb : bl ∉ [.eic] := by exact notMem_of ‹_ ∉ _› rfl) : Keeps bl s0 (setSource s x v) := by
  unfold setSource; try dsimp only
  repeat' (first | (with_reducible first | assumption | intro _ | exact notMem_of hb rfl | apply tput_keeps | apply Keeps.ite | apply KeepsO.ite | apply KeepsO.next | split) | ((with_reducible refine Keeps.mk ?_ ?_) <;> [skip; (cases bl <;> first | exact absurd (by decide) hb | rfl)]))

theorem modSource_keeps {bl : Block} (x : ℕ) (g : Source → Source) {s0 s : State} (hc0 : Keeps bl s0 s)
    (hb : bl ∉ [.eic] := by exact notMem_of ‹_ ∉ _› rfl) : Keeps bl s0 (modSource x g s) := by
  unfold modSource; try dsimp only
  repeat' (with_reducible first | assumption | intro _ | exact notMem_of hb rfl | apply source_keeps | apply setSource_keeps | apply Keeps.ite | apply KeepsO.ite | apply KeepsO.next | split)

theorem modTarget_keeps {bl : Block} (t : ℕ) (g : Target → Target) {s0 s : State} (hc0 : Keeps bl s0 s)
    (hb : bl ∉ [.eic] := by exact notMem_of ‹_ ∉ _› rfl) : Keeps bl s0 (modTarget t g s) := by
  unfold modTarget; try dsimp only
  repeat' (first | (with_reducible first | assumption | intro _ | exact notMem_of hb rfl | apply target_keeps | apply tput_keeps | apply Keeps.ite | apply KeepsO.ite | apply KeepsO.next | split) | ((with_reducible refine Keeps.mk ?_ ?_) <;> [skip; (cases bl <;> first | exact absurd (by decide) hb | rfl)]))

theorem setPstate_keeps {bl : Block} {s0 s : State} (r : ℕ) (x : PState) (hc0 : Keeps bl s0 s)
    (hb : bl ∉ [.sch] := by exact notMem_of ‹_ ∉ _› rfl) : Keeps bl s0 (setPstate s r x) := by
  unfold setPstate; try dsimp only
  repeat' (first | (with_reducible first | assumption | intro _ | exact notMem_of hb rfl | apply tput_keeps | apply Keeps.ite | apply KeepsO.ite | apply KeepsO.next | split) | ((with_reducible refine Keeps.mk ?_ ?_) <;> [skip; (cases bl <;> first | exact absurd (by decide) hb | rfl)]))

theorem modPstate_keeps {bl : Block} (r : ℕ) (g : PState → PState) {s0 s : State} (hc0 : Keeps bl s0 s)
    (hb : bl ∉ [.sch] := by exact notMem_of ‹_ ∉ _› rfl) : Keeps bl s0 (modPstate r g s) := by
  unfold modPstate; try dsimp only
  repeat' (with_reducible first | assumption | intro _ | exact notMem_of hb rfl | apply pstate_keeps | apply setPstate_keeps | apply Keeps.ite | apply KeepsO.ite | apply KeepsO.next | split)

theorem modSq_keeps {bl : Block} (f : ℕ) (q : ℕ) (g : Sq → Sq) {s0 s : State} (hc0 : Keeps bl s0 s)
    (hb : bl ∉ [.fns] := by exact notMem_of ‹_ ∉ _› rfl) : Keeps bl s0 (modSq f q g s) := by
  unfold modSq; try dsimp only
  repeat' (first | (with_reducible first | assumption | intro _ | exact notMem_of hb rfl | apply tget_keeps | apply tput_keeps | apply sq_keeps | apply modFn_keeps | apply Keeps.ite | apply KeepsO.ite | apply KeepsO.next | split) | ((with_reducible refine Keeps.mk ?_ ?_) <;> [skip; (cases bl <;> first | exact absurd (by decide) hb | rfl)]))

theorem modCr_keeps {bl : Block} (f : ℕ) (r : ℕ) (g : Cr → Cr) {s0 s : State} (hc0 : Keeps bl s0 s)
    (hb : bl ∉ [.fns] := by exact notMem_of ‹_ ∉ _› rfl) : Keeps bl s0 (modCr f r g s) := by
  unfold modCr; try dsimp only
  repeat' (first | (with_reducible first | assumption | intro _ | exact notMem_of hb rfl | apply tget_keeps | apply tput_keeps | apply cr_keeps | apply modFn_keeps | apply Keeps.ite | apply KeepsO.ite | apply KeepsO.next | split) | ((with_reducible refine Keeps.mk ?_ ?_) <;> [skip; (cases bl <;> first | exact absurd (by decide) hb | rfl)]))

theorem modVec_keeps {bl : Block} (f : ℕ) (v : ℕ) (g : Vec → Vec) {s0 s : State} (hc0 : Keeps bl s0 s)
    (hb : bl ∉ [.fns] := by exact notMem_of ‹_ ∉ _› rfl) : Keeps bl s0 (modVec f v g s) := by
  unfold modVec; try dsimp only
  repeat' (first | (with_reducible first | assumption | intro _ | exact notMem_of hb rfl | apply tget_keeps | apply tput_keeps | apply modFn_keeps | apply Keeps.ite | apply KeepsO.ite | apply KeepsO.next | split) | ((with_reducible refine Keeps.mk ?_ ?_) <;> [skip; (cases bl <;> first | exact absurd (by decide) hb | rfl)]))

theorem modChan_keeps {bl : Block} (c : ℕ) (g : ChCtx → ChCtx) {s0 s : State} (hc0 : Keeps bl s0 s)
    (hb : bl ∉ [.dma] := by exact notMem_of ‹_ ∉ _› rfl) : Keeps bl s0 (modChan c g s) := by
  unfold modChan; try dsimp only
  repeat' (first | (with_reducible first | assumption | intro _ | exact notMem_of hb rfl | apply chan_keeps | apply tput_keeps | apply Keeps.ite | apply KeepsO.ite | apply KeepsO.next | split) | ((with_reducible refine Keeps.mk ?_ ?_) <;> [skip; (cases bl <;> first | exact absurd (by decide) hb | rfl)]))

theorem modUnit_keeps {bl : Block} (c : ℕ) (g : CmpUnit → CmpUnit) {s0 s : State} (hc0 : Keeps bl s0 s)
    (hb : bl ∉ [.tb] := by exact notMem_of ‹_ ∉ _› rfl) : Keeps bl s0 (modUnit c g s) := by
  unfold modUnit; try dsimp only
  repeat' (first | (with_reducible first | assumption | intro _ | exact notMem_of hb rfl | apply cmpUnit_keeps | apply tput_keeps | apply Keeps.ite | apply KeepsO.ite | apply KeepsO.next | split) | ((with_reducible refine Keeps.mk ?_ ?_) <;> [skip; (cases bl <;> first | exact absurd (by decide) hb | rfl)]))

theorem modAxis_keeps {bl : Block} (i : ℕ) (g : Axis → Axis) {s0 s : State} (hc0 : Keeps bl s0 s)
    (hb : bl ∉ [.tb] := by exact notMem_of ‹_ ∉ _› rfl) : Keeps bl s0 (modAxis i g s) := by
  unfold modAxis; try dsimp only
  repeat' (first | (with_reducible first | assumption | intro _ | exact notMem_of hb rfl | apply axis_keeps | apply tput_keeps | apply Keeps.ite | apply KeepsO.ite | apply KeepsO.next | split) | ((with_reducible refine Keeps.mk ?_ ?_) <;> [skip; (cases bl <;> first | exact absurd (by decide) hb | rfl)]))

theorem modDie_keeps {bl : Block} (g : ℕ) (h : Die → Die) {s0 s : State} (hc0 : Keeps bl s0 s)
    (hb : bl ∉ [.slots] := by exact notMem_of ‹_ ∉ _› rfl) : Keeps bl s0 (modDie g h s) := by
  unfold modDie; try dsimp only
  repeat' (first | (with_reducible first | assumption | intro _ | exact notMem_of hb rfl | apply tput_keeps | apply die_keeps | apply Keeps.ite | apply KeepsO.ite | apply KeepsO.next | split) | ((with_reducible refine Keeps.mk ?_ ?_) <;> [skip; (cases bl <;> first | exact absurd (by decide) hb | rfl)]))

theorem setPage_keeps {bl : Block} (p : ℕ) (x : Page) {s0 s : State} (hc0 : Keeps bl s0 s)
    (hb : bl ∉ [.dma] := by exact notMem_of ‹_ ∉ _› rfl) : Keeps bl s0 (setPage p x s) := by
  unfold setPage; try dsimp only
  repeat' (first | (with_reducible first | assumption | intro _ | exact notMem_of hb rfl | apply tput_keeps | apply page_keeps | apply Keeps.ite | apply KeepsO.ite | apply KeepsO.next | split) | ((with_reducible refine Keeps.mk ?_ ?_) <;> [skip; (cases bl <;> first | exact absurd (by decide) hb | rfl)]))

theorem cyclePasses_keeps {bl : Block} {s0 s : State} (hc0 : Keeps bl s0 s)
    (hb : bl ∉ [.tb] := by exact notMem_of ‹_ ∉ _› rfl) : Keeps bl s0 (cyclePasses s) := by
  unfold cyclePasses; try dsimp only
  repeat' (first | (with_reducible first | assumption | intro _ | exact notMem_of hb rfl | apply timebaseRuns_keeps | apply Keeps.ite | apply KeepsO.ite | apply KeepsO.next | split) | ((with_reducible refine Keeps.mk ?_ ?_) <;> [skip; (cases bl <;> first | exact absurd (by decide) hb | rfl)]))

theorem startWake_keeps {bl : Block} (cause : ℕ) (index : ℕ) {s0 s : State} (hc0 : Keeps bl s0 s)
    (hb : bl ∉ [.pwr] := by exact notMem_of ‹_ ∉ _› rfl) : Keeps bl s0 (startWake cause index s) := by
  unfold startWake; try dsimp only
  repeat' (first | (with_reducible first | assumption | intro _ | exact notMem_of hb rfl | apply Keeps.ite | apply KeepsO.ite | apply KeepsO.next | split) | ((with_reducible refine Keeps.mk ?_ ?_) <;> [skip; (cases bl <;> first | exact absurd (by decide) hb | rfl)]))

theorem send_keeps {bl : Block} (p : ℕ) (t : PType) (h : Hdr) (payload : List Byte) {s0 s : State} (hc0 : Keeps bl s0 s)
    (hb : bl ∉ [.out] := by exact notMem_of ‹_ ∉ _› rfl) : Keeps bl s0 (send p t h payload s) := by
  unfold send; try dsimp only
  repeat' (with_reducible first | assumption | intro _ | exact notMem_of hb rfl | apply port_keeps | apply packetBytes_keeps | apply emit_keeps | apply Keeps.ite | apply KeepsO.ite | apply KeepsO.next | split)

theorem sendLink_keeps {bl : Block} (p : ℕ) (code : ℕ) (param : ℕ) {s0 s : State} (hc0 : Keeps bl s0 s)
    (hb : bl ∉ [.out] := by exact notMem_of ‹_ ∉ _› rfl) : Keeps bl s0 (sendLink p code param s) := by
  unfold sendLink; try dsimp only
  repeat' (first | (with_reducible first | assumption | intro _ | exact notMem_of hb rfl | apply Hdr0_keeps | apply send_keeps | apply Keeps.ite | apply KeepsO.ite | apply KeepsO.next | split) | ((with_reducible refine Keeps.mk ?_ ?_) <;> [skip; (cases bl <;> first | exact absurd (by decide) hb | rfl)]))

theorem markPage_keeps {bl : Block} (f : ℕ) (page : ℕ) {s0 s : State} (hc0 : Keeps bl s0 s)
    (hb : bl ∉ [.fns] := by exact notMem_of ‹_ ∉ _› rfl) : Keeps bl s0 (markPage f page s) := by
  unfold markPage; try dsimp only
  repeat' (first | (with_reducible first | assumption | intro _ | exact notMem_of hb rfl | apply setFn_keeps | apply fn_keeps | apply page_keeps | apply Keeps.ite | apply KeepsO.ite | apply KeepsO.next | split) | ((with_reducible refine Keeps.mk ?_ ?_) <;> [skip; (cases bl <;> first | exact absurd (by decide) hb | rfl)]))

theorem hostWrite_keeps {bl : Block} (f : ℕ) (addr : ℕ) (data : List Byte) {s0 s : State} (hc0 : Keeps bl s0 s)
    (hb : bl ∉ [.out, .fns] := by exact notMem_of ‹_ ∉ _› rfl) : Keeps bl s0 (hostWrite f addr data s) := by
  unfold hostWrite; try dsimp only
  repeat' (with_reducible first | assumption | intro _ | exact notMem_of hb rfl | apply markPage_keeps | apply pagesTouched_keeps | apply each_keeps | apply fn_keeps | apply emit_keeps | apply Keeps.ite | apply KeepsO.ite | apply KeepsO.next | split)

theorem msixDue_keeps {bl : Block} (f : ℕ) (v : ℕ) {s0 s : State} (hc0 : Keeps bl s0 s)
    (hb : bl ∉ [.out, .fns] := by exact notMem_of ‹_ ∉ _› rfl) : Keeps bl s0 (msixDue f v s) := by
  unfold msixDue; try dsimp only
  repeat' (first | (with_reducible first | assumption | intro _ | exact notMem_of hb rfl | apply emit_keeps | apply vecReady_keeps | apply modVec_keeps | apply vec_keeps | apply Keeps.ite | apply KeepsO.ite | apply KeepsO.next | split) | ((with_reducible refine Keeps.mk ?_ ?_) <;> [skip; (cases bl <;> first | exact absurd (by decide) hb | rfl)]))

theorem countEvent_keeps {bl : Block} (f : ℕ) (v : ℕ) {s0 s : State} (hc0 : Keeps bl s0 s)
    (hb : bl ∉ [.out, .fns] := by exact notMem_of ‹_ ∉ _› rfl) : Keeps bl s0 (countEvent f v s) := by
  unfold countEvent; try dsimp only
  repeat' (first | (with_reducible first | assumption | intro _ | exact notMem_of hb rfl | apply modVec_keeps | apply msixDue_keeps | apply vec_keeps | apply Keeps.ite | apply KeepsO.ite | apply KeepsO.next | split) | ((with_reducible refine Keeps.mk ?_ ?_) <;> [skip; (cases bl <;> first | exact absurd (by decide) hb | rfl)]))

theorem msixRelease_keeps {bl : Block} (f : ℕ) (v : ℕ) {s0 s : State} (hc0 : Keeps bl s0 s)
    (hb : bl ∉ [.out, .fns] := by exact notMem_of ‹_ ∉ _› rfl) : Keeps bl s0 (msixRelease f v s) := by
  unfold msixRelease; try dsimp only
  repeat' (first | (with_reducible first | assumption | intro _ | exact notMem_of hb rfl | apply modVec_keeps | apply emit_keeps | apply vecReady_keeps | apply vec_keeps | apply Keeps.ite | apply KeepsO.ite | apply KeepsO.next | split) | ((with_reducible refine Keeps.mk ?_ ?_) <;> [skip; (cases bl <;> first | exact absurd (by decide) hb | rfl)]))

theorem wakeTarget_keeps {bl : Block} (x : ℕ) {s0 s : State} (hc0 : Keeps bl s0 s)
    (hb : bl ∉ [.eic] := by exact notMem_of ‹_ ∉ _› rfl) : Keeps bl s0 (wakeTarget x s) := by
  unfold wakeTarget; try dsimp only
  repeat' (first | (with_reducible first | assumption | intro _ | exact notMem_of hb rfl | apply modTarget_keeps | apply target_keeps | apply offered_keeps | apply isPending_keeps | apply Keeps.ite | apply KeepsO.ite | apply KeepsO.next | split) | ((with_reducible refine Keeps.mk ?_ ?_) <;> [skip; (cases bl <;> first | exact absurd (by decide) hb | rfl)]))

theorem hostRise_keeps {bl : Block} (x : ℕ) {s0 s : State} (hc0 : Keeps bl s0 s)
    (hb : bl ∉ [.out, .fns] := by exact notMem_of ‹_ ∉ _› rfl) : Keeps bl s0 (hostRise x s) := by
  unfold hostRise; try dsimp only
  repeat' (with_reducible first | assumption | intro _ | exact notMem_of hb rfl | apply countEvent_keeps | apply source_keeps | apply Keeps.ite | apply KeepsO.ite | apply KeepsO.next | split)

theorem withRises_keeps {bl : Block} (xs : List ℕ) (f : State → State) {s0 s : State} (hf : ∀ v0, Keeps bl s0 v0 → Keeps bl s0 (f v0)) (hc0 : Keeps bl s0 s)
    (hb : bl ∉ [.out, .eic, .fns] := by exact notMem_of ‹_ ∉ _› rfl) : Keeps bl s0 (withRises xs f s) := by
  unfold withRises; try dsimp only
  repeat' (with_reducible first | assumption | intro _ | exact notMem_of hb rfl | apply hf | apply hostRise_keeps | apply wakeTarget_keeps | apply each_keeps | apply level_keeps | apply Keeps.ite | apply KeepsO.ite | apply KeepsO.next | split)

theorem setEvt_keeps {bl : Block} (r : EvtReg) (v : U32) {s0 s : State} (hc0 : Keeps bl s0 s)
    (hb : bl ∉ [.out, .eic, .fns] := by exact notMem_of ‹_ ∉ _› rfl) : Keeps bl s0 (setEvt r v s) := by
  unfold setEvt; try dsimp only
  repeat' (first | (with_reducible first | assumption | intro _ | exact notMem_of hb rfl | apply evtKey_keeps | apply tput_keeps | apply srcsOf_keeps | apply withRises_keeps | apply Keeps.ite | apply KeepsO.ite | apply KeepsO.next | split) | ((with_reducible refine Keeps.mk ?_ ?_) <;> [skip; (cases bl <;> first | exact absurd (by decide) hb | rfl)]))

theorem raise_keeps {bl : Block} (r : EvtReg) (b : ℕ) {s0 s : State} (hc0 : Keeps bl s0 s)
    (hb : bl ∉ [.out, .eic, .fns] := by exact notMem_of ‹_ ∉ _› rfl) : Keeps bl s0 (raise r b s) := by
  unfold raise; try dsimp only
  repeat' (with_reducible first | assumption | intro _ | exact notMem_of hb rfl | apply countEvent_keeps | apply evtVector_keeps | apply setEvt_keeps | apply evtGet_keeps | apply Keeps.ite | apply KeepsO.ite | apply KeepsO.next | split)

theorem clearEvt_keeps {bl : Block} (r : EvtReg) (v : U32) {s0 s : State} (hc0 : Keeps bl s0 s)
    (hb : bl ∉ [.out, .eic, .fns] := by exact notMem_of ‹_ ∉ _› rfl) : Keeps bl s0 (clearEvt r v s) := by
  unfold clearEvt; try dsimp only
  repeat' (with_reducible first | assumption | intro _ | exact notMem_of hb rfl | apply evtGet_keeps | apply setEvt_keeps | apply Keeps.ite | apply KeepsO.ite | apply KeepsO.next | split)

theorem raisePort_keeps {bl : Block} (p b : Nat) {s0 s : State} (hc0 : Keeps bl s0 s)
    (hb : bl ∉ [.out, .eic, .fns] := by exact notMem_of ‹_ ∉ _› rfl) : Keeps bl s0 (raisePort p b s) := by
  unfold raisePort; split
  · exact raise_keeps _ _ hc0
  · exact hc0

theorem raiseSlot_keeps {bl : Block} (n b : Nat) {s0 s : State} (hc0 : Keeps bl s0 s)
    (hb : bl ∉ [.out, .eic, .fns] := by exact notMem_of ‹_ ∉ _› rfl) : Keeps bl s0 (raiseSlot n b s) := by
  unfold raiseSlot; split
  · exact raise_keeps _ _ hc0
  · exact hc0

theorem raiseQ_keeps {bl : Block} (f b : Nat) {s0 s : State} (hc0 : Keeps bl s0 s)
    (hb : bl ∉ [.out, .eic, .fns] := by exact notMem_of ‹_ ∉ _› rfl) : Keeps bl s0 (raiseQ f b s) := by
  unfold raiseQ; split
  · exact raise_keeps _ _ hc0
  · exact hc0

theorem raiseVf_keeps {bl : Block} (f b : Nat) {s0 s : State} (hc0 : Keeps bl s0 s)
    (hb : bl ∉ [.out, .eic, .fns] := by exact notMem_of ‹_ ∉ _› rfl) : Keeps bl s0 (raiseVf f b s) := by
  unfold raiseVf; split
  · split
    · exact hc0
    · exact raise_keeps _ _ hc0
  · exact hc0

theorem commitIn_keeps {bl : Block} (k : ℕ) (n : Notice) {s0 s : State} (hc0 : Keeps bl s0 s)
    (hb : bl ∉ [.out, .eic, .mail, .fns] := by exact notMem_of ‹_ ∉ _› rfl) : Keeps bl s0 (commitIn k n s) := by
  unfold commitIn; try dsimp only
  repeat' (first | (with_reducible first | assumption | intro _ | exact notMem_of hb rfl | apply modBox_keeps | apply boxSrcs_keeps | apply withRises_keeps | apply Keeps.ite | apply KeepsO.ite | apply KeepsO.next | split) | ((with_reducible refine Keeps.mk ?_ ?_) <;> [skip; (cases bl <;> first | exact absurd (by decide) hb | rfl)]))

theorem commitOut_keeps {bl : Block} (k : ℕ) (n : Notice) {s0 s : State} (hc0 : Keeps bl s0 s)
    (hb : bl ∉ [.out, .mail, .fns] := by exact notMem_of ‹_ ∉ _› rfl) : Keeps bl s0 (commitOut k n s) := by
  unfold commitOut; try dsimp only
  repeat' (first | (with_reducible first | assumption | intro _ | exact notMem_of hb rfl | apply emit_keeps | apply countEvent_keeps | apply vec_keeps | apply box_keeps | apply modBox_keeps | apply Keeps.ite | apply KeepsO.ite | apply KeepsO.next | split) | ((with_reducible refine Keeps.mk ?_ ?_) <;> [skip; (cases bl <;> first | exact absurd (by decide) hb | rfl)]))

theorem postOut_keeps {bl : Block} (k : ℕ) (n : Notice) {s0 s : State} (hc0 : Keeps bl s0 s)
    (hb : bl ∉ [.out, .mail, .fns] := by exact notMem_of ‹_ ∉ _› rfl) : Keeps bl s0 (postOut k n s) := by
  unfold postOut; try dsimp only
  repeat' (first | (with_reducible first | assumption | intro _ | exact notMem_of hb rfl | apply commitOut_keeps | apply setBox_keeps | apply merges_keeps | apply box_keeps | apply Keeps.ite | apply KeepsO.ite | apply KeepsO.next | split) | ((with_reducible refine Keeps.mk ?_ ?_) <;> [skip; (cases bl <;> first | exact absurd (by decide) hb | rfl)]))

theorem outDone_keeps {bl : Block} (k : ℕ) {s0 s : State} (hc0 : Keeps bl s0 s)
    (hb : bl ∉ [.mail] := by exact notMem_of ‹_ ∉ _› rfl) : Keeps bl s0 (outDone k s) := by
  unfold outDone; try dsimp only
  repeat' (first | (with_reducible first | assumption | intro _ | exact notMem_of hb rfl | apply modBox_keeps | apply Keeps.ite | apply KeepsO.ite | apply KeepsO.next | split) | ((with_reducible refine Keeps.mk ?_ ?_) <;> [skip; (cases bl <;> first | exact absurd (by decide) hb | rfl)]))

theorem postWaiting_keeps {bl : Block} (k : ℕ) {s0 s : State} (hc0 : Keeps bl s0 s)
    (hb : bl ∉ [.out, .mail, .fns] := by exact notMem_of ‹_ ∉ _› rfl) : Keeps bl s0 (postWaiting k s) := by
  unfold postWaiting; try dsimp only
  repeat' (first | (with_reducible first | assumption | intro _ | exact notMem_of hb rfl | apply setBox_keeps | apply commitOut_keeps | apply box_keeps | apply Keeps.ite | apply KeepsO.ite | apply KeepsO.next | split) | ((with_reducible refine Keeps.mk ?_ ?_) <;> [skip; (cases bl <;> first | exact absurd (by decide) hb | rfl)]))

theorem writeReply_keeps {bl : Block} (k : ℕ) (at_ : U64) (bytes : List Byte) (n : Notice) {s0 s : State} (hc0 : Keeps bl s0 s)
    (hb : bl ∉ [.out, .mail, .fns] := by exact notMem_of ‹_ ∉ _› rfl) : Keeps bl s0 (writeReply k at_ bytes n s) := by
  unfold writeReply; try dsimp only
  repeat' (first | (with_reducible first | assumption | intro _ | exact notMem_of hb rfl | apply modBox_keeps | apply hostWrite_keeps | apply fn_keeps | apply mwrite_keeps | apply postOut_keeps | apply Keeps.ite | apply KeepsO.ite | apply KeepsO.next | split) | ((with_reducible refine Keeps.mk ?_ ?_) <;> [skip; (cases bl <;> first | exact absurd (by decide) hb | rfl)]))

theorem answeredBox_keeps {bl : Block} (k : ℕ) (seq : U16) (typ : Byte) {s0 s : State} (hc0 : Keeps bl s0 s)
    (hb : bl ∉ [.mail] := by exact notMem_of ‹_ ∉ _› rfl) : Keeps bl s0 (answeredBox k seq typ s) := by
  unfold answeredBox; try dsimp only
  repeat' (first | (with_reducible first | assumption | intro _ | exact notMem_of hb rfl | apply modBox_keeps | apply Keeps.ite | apply KeepsO.ite | apply KeepsO.next | split) | ((with_reducible refine Keeps.mk ?_ ?_) <;> [skip; (cases bl <;> first | exact absurd (by decide) hb | rfl)]))

theorem reply_keeps {bl : Block} (ctx : CmdCtx) (code : ℕ) (body : List Byte) {s0 s : State} (hc0 : Keeps bl s0 s)
    (hb : bl ∉ [.out, .mail, .fns] := by exact notMem_of ‹_ ∉ _› rfl) : Keeps bl s0 (reply ctx code body s) := by
  unfold reply; try dsimp only
  repeat' (with_reducible first | assumption | intro _ | exact notMem_of hb rfl | apply sender_keeps | apply replyHeader_keeps | apply writeReply_keeps | apply answeredBox_keeps | apply fn_keeps | apply replyPlace_keeps | apply chan_keeps | apply chanKey_keeps | apply Keeps.ite | apply KeepsO.ite | apply KeepsO.next | split)

theorem begun_keeps {bl : Block} (ctx : CmdCtx) (code : ℕ) {s0 s : State} (hc0 : Keeps bl s0 s)
    (hb : bl ∉ [.mail] := by exact notMem_of ‹_ ∉ _› rfl) : Keeps bl s0 (begun ctx code s) := by
  unfold begun; try dsimp only
  repeat' (first | (with_reducible first | assumption | intro _ | exact notMem_of hb rfl | apply cmdNotice_keeps | apply chan_keeps | apply chanKey_keeps | apply modBox_keeps | apply Keeps.ite | apply KeepsO.ite | apply KeepsO.next | split) | ((with_reducible refine Keeps.mk ?_ ?_) <;> [skip; (cases bl <;> first | exact absurd (by decide) hb | rfl)]))

theorem postAborted_keeps {bl : Block} (k : ℕ) (ns : List Notice) {s0 s : State} (hc0 : Keeps bl s0 s)
    (hb : bl ∉ [.out, .mail, .fns] := by exact notMem_of ‹_ ∉ _› rfl) : Keeps bl s0 (postAborted k ns s) := by
  unfold postAborted; try dsimp only
  repeat' (with_reducible first | assumption | intro _ | exact notMem_of hb rfl | apply postOut_keeps | apply each_keeps | apply Keeps.ite | apply KeepsO.ite | apply KeepsO.next | split)

theorem retireIndex_keeps {bl : Block} (f : ℕ) (q : ℕ) (i : U16) {s0 s : State} (hc0 : Keeps bl s0 s)
    (hb : bl ∉ [.fns] := by exact notMem_of ‹_ ∉ _› rfl) : Keeps bl s0 (retireIndex f q i s) := by
  unfold retireIndex; try dsimp only
  repeat' (first | (with_reducible first | assumption | intro _ | exact notMem_of hb rfl | apply done_keeps | apply stepC_keeps | apply modSq_keeps | apply Keeps.ite | apply KeepsO.ite | apply KeepsO.next | split) | ((with_reducible refine Keeps.mk ?_ ?_) <;> [skip; (cases bl <;> first | exact absurd (by decide) hb | rfl)]))

theorem flushDirty_keeps {bl : Block} (f : ℕ) {s0 s : State} (hc0 : Keeps bl s0 s)
    (hb : bl ∉ [.out, .fns] := by exact notMem_of ‹_ ∉ _› rfl) : Keeps bl s0 (flushDirty f s) := by
  unfold flushDirty; try dsimp only
  repeat' (first | (with_reducible first | assumption | intro _ | exact notMem_of hb rfl | apply setFn_keeps | apply hostWrite_keeps | apply each_keeps | apply fn_keeps | apply Keeps.ite | apply KeepsO.ite | apply KeepsO.next | split) | ((with_reducible refine Keeps.mk ?_ ?_) <;> [skip; (cases bl <;> first | exact absurd (by decide) hb | rfl)]))

theorem crWrite_keeps {bl : Block} (f : ℕ) (r : ℕ) (w : WaitRec) (spilled : Bool) (head : U16) {s0 s : State} (hc0 : Keeps bl s0 s)
    (hb : bl ∉ [.out, .fns] := by exact notMem_of ‹_ ∉ _› rfl) : Keeps bl s0 (crWrite f r w spilled head s) := by
  unfold crWrite; try dsimp only
  repeat' (first | (with_reducible first | assumption | intro _ | exact notMem_of hb rfl | apply countEvent_keeps | apply modCr_keeps | apply crPhase_keeps | apply completionBytes_keeps | apply hostWrite_keeps | apply cr_keeps | apply flushDirty_keeps | apply Keeps.ite | apply KeepsO.ite | apply KeepsO.next | split) | ((with_reducible refine Keeps.mk ?_ ?_) <;> [skip; (cases bl <;> first | exact absurd (by decide) hb | rfl)]))

theorem dropFromUnit_keeps {bl : Block} (i : ℕ) {s0 s : State} (hc0 : Keeps bl s0 s)
    (hb : bl ∉ [.tb] := by exact notMem_of ‹_ ∉ _› rfl) : Keeps bl s0 (dropFromUnit i s) := by
  unfold dropFromUnit; try dsimp only
  repeat' (first | (with_reducible first | assumption | intro _ | exact notMem_of hb rfl | apply Keeps.ite | apply KeepsO.ite | apply KeepsO.next | split) | ((with_reducible refine Keeps.mk ?_ ?_) <;> [skip; (cases bl <;> first | exact absurd (by decide) hb | rfl)]))

theorem dropRead_keeps {bl : Block} (i : ℕ) {s0 s : State} (hc0 : Keeps bl s0 s)
    (hb : bl ∉ [.dma] := by exact notMem_of ‹_ ∉ _› rfl) : Keeps bl s0 (dropRead i s) := by
  unfold dropRead; try dsimp only
  repeat' (first | (with_reducible first | assumption | intro _ | exact notMem_of hb rfl | apply Keeps.ite | apply KeepsO.ite | apply KeepsO.next | split) | ((with_reducible refine Keeps.mk ?_ ?_) <;> [skip; (cases bl <;> first | exact absurd (by decide) hb | rfl)]))

theorem dropStaged_keeps {bl : Block} (i : ℕ) {s0 s : State} (hc0 : Keeps bl s0 s)
    (hb : bl ∉ [.front, .dma] := by exact notMem_of ‹_ ∉ _› rfl) : Keeps bl s0 (dropStaged i s) := by
  unfold dropStaged; try dsimp only
  repeat' (first | (with_reducible first | assumption | intro _ | exact notMem_of hb rfl | apply modItem_keeps | apply dropRead_keeps | apply Keeps.ite | apply KeepsO.ite | apply KeepsO.next | split) | ((with_reducible refine Keeps.mk ?_ ?_) <;> [skip; (cases bl <;> first | exact absurd (by decide) hb | rfl)]))

theorem unstage_keeps {bl : Block} (i : ℕ) {s0 s : State} (hc0 : Keeps bl s0 s)
    (hb : bl ∉ [.front, .dma] := by exact notMem_of ‹_ ∉ _› rfl) : Keeps bl s0 (unstage i s) := by
  unfold unstage; try dsimp only
  repeat' (first | (with_reducible first | assumption | intro _ | exact notMem_of hb rfl | apply modItem_keeps | apply dropRead_keeps | apply Keeps.ite | apply KeepsO.ite | apply KeepsO.next | split) | ((with_reducible refine Keeps.mk ?_ ?_) <;> [skip; (cases bl <;> first | exact absurd (by decide) hb | rfl)]))

theorem dropFromFloat_keeps {bl : Block} (i : ℕ) {s0 s : State} (hc0 : Keeps bl s0 s)
    (hb : bl ∉ [.sch] := by exact notMem_of ‹_ ∉ _› rfl) : Keeps bl s0 (dropFromFloat i s) := by
  unfold dropFromFloat; try dsimp only
  repeat' (first | (with_reducible first | assumption | intro _ | exact notMem_of hb rfl | apply Keeps.ite | apply KeepsO.ite | apply KeepsO.next | split) | ((with_reducible refine Keeps.mk ?_ ?_) <;> [skip; (cases bl <;> first | exact absurd (by decide) hb | rfl)]))

theorem flowIn_keeps {bl : Block} (f : Option Flow) {s0 s : State} (hc0 : Keeps bl s0 s)
    (hb : bl ∉ [.topo] := by exact notMem_of ‹_ ∉ _› rfl) : Keeps bl s0 (flowIn f s) := by
  unfold flowIn; try dsimp only
  repeat' (first | (with_reducible first | assumption | intro _ | exact notMem_of hb rfl | apply flowKey_keeps | apply modCtx_keeps | apply Keeps.ite | apply KeepsO.ite | apply KeepsO.next | split) | ((with_reducible refine Keeps.mk ?_ ?_) <;> [skip; (cases bl <;> first | exact absurd (by decide) hb | rfl)]))

theorem flowBack_keeps {bl : Block} (f : Option Flow) {s0 s : State} (hc0 : Keeps bl s0 s)
    (hb : bl ∉ [.topo] := by exact notMem_of ‹_ ∉ _› rfl) : Keeps bl s0 (flowBack f s) := by
  unfold flowBack; try dsimp only
  repeat' (first | (with_reducible first | assumption | intro _ | exact notMem_of hb rfl | apply flowKey_keeps | apply modCtx_keeps | apply Keeps.ite | apply KeepsO.ite | apply KeepsO.next | split) | ((with_reducible refine Keeps.mk ?_ ?_) <;> [skip; (cases bl <;> first | exact absurd (by decide) hb | rfl)]))

theorem flowOut_keeps {bl : Block} (f : Option Flow) {s0 s : State} (hc0 : Keeps bl s0 s)
    (hb : bl ∉ [.topo] := by exact notMem_of ‹_ ∉ _› rfl) : Keeps bl s0 (flowOut f s) := by
  unfold flowOut; try dsimp only
  repeat' (first | (with_reducible first | assumption | intro _ | exact notMem_of hb rfl | apply flowKey_keeps | apply modCtx_keeps | apply Keeps.ite | apply KeepsO.ite | apply KeepsO.next | split) | ((with_reducible refine Keeps.mk ?_ ?_) <;> [skip; (cases bl <;> first | exact absurd (by decide) hb | rfl)]))

theorem finish_keeps {bl : Block} (i : ℕ) (st : Byte) {s0 s : State} (hc0 : Keeps bl s0 s)
    (hb : bl ∉ [.mail, .sch, .front, .dma, .tb, .topo] := by exact notMem_of ‹_ ∉ _› rfl) : Keeps bl s0 (finish i st s) := by
  unfold finish; try dsimp only
  repeat' (first | (with_reducible first | assumption | intro _ | exact notMem_of hb rfl | apply flowOut_keeps | apply delItem_keeps | apply isOwn_keeps | apply dropStaged_keeps | apply discards_keeps | apply dropFromUnit_keeps | apply dropFromFloat_keeps | apply nowStamp_keeps | apply begun_keeps | apply setItem_keeps | apply Keeps.ite | apply KeepsO.ite | apply KeepsO.next | split) | ((with_reducible refine Keeps.mk ?_ ?_) <;> [skip; (cases bl <;> first | exact absurd (by decide) hb | rfl)]))

theorem postItem_keeps {bl : Block} (i : ℕ) {s0 s : State} (hc0 : Keeps bl s0 s)
    (hb : bl ∉ [.front, .topo] := by exact notMem_of ‹_ ∉ _› rfl) : Keeps bl s0 (postItem i s) := by
  unfold postItem; try dsimp only
  repeat' (first | (with_reducible first | assumption | intro _ | exact notMem_of hb rfl | apply setItem_keeps | apply flowOut_keeps | apply delItem_keeps | apply isOwn_keeps | apply Keeps.ite | apply KeepsO.ite | apply KeepsO.next | split) | ((with_reducible refine Keeps.mk ?_ ?_) <;> [skip; (cases bl <;> first | exact absurd (by decide) hb | rfl)]))

theorem stopItem_keeps {bl : Block} (st : Byte) (i : ℕ) {s0 s : State} (hc0 : Keeps bl s0 s)
    (hb : bl ∉ [.mail, .sch, .front, .dma, .tb, .topo] := by exact notMem_of ‹_ ∉ _› rfl) : Keeps bl s0 (stopItem st i s) := by
  unfold stopItem; try dsimp only
  repeat' (first | (with_reducible first | assumption | intro _ | exact notMem_of hb rfl | apply finish_keeps | apply modItem_keeps | apply onWire_keeps | apply Keeps.ite | apply KeepsO.ite | apply KeepsO.next | split) | ((with_reducible refine Keeps.mk ?_ ?_) <;> [skip; (cases bl <;> first | exact absurd (by decide) hb | rfl)]))

theorem enterSpillHalt_keeps {bl : Block} (f : ℕ) (r : ℕ) {s0 s : State} (hc0 : Keeps bl s0 s)
    (hb : bl ∉ [.out, .eic, .mail, .sch, .front, .dma, .tb, .topo, .fns] := by exact notMem_of ‹_ ∉ _› rfl) : Keeps bl s0 (enterSpillHalt f r s) := by
  unfold enterSpillHalt; try dsimp only
  repeat' (first | (with_reducible first | assumption | intro _ | exact notMem_of hb rfl | apply stSpillHalt_keeps | apply finish_keeps | apply each_keeps | apply raiseQ_keeps | apply notBegunTimed_keeps | apply sq_keeps | apply itemsWhere_keeps | apply modCr_keeps | apply cr_keeps | apply Keeps.ite | apply KeepsO.ite | apply KeepsO.next | split) | ((with_reducible refine Keeps.mk ?_ ?_) <;> [skip; (cases bl <;> first | exact absurd (by decide) hb | rfl)]))

theorem freeItem_keeps {bl : Block} (i : ℕ) {s0 s : State} (hc0 : Keeps bl s0 s)
    (hb : bl ∉ [.front] := by exact notMem_of ‹_ ∉ _› rfl) : Keeps bl s0 (freeItem i s) := by
  unfold freeItem; try dsimp only
  repeat' (with_reducible first | assumption | intro _ | exact notMem_of hb rfl | apply delItem_keeps | apply Keeps.ite | apply KeepsO.ite | apply KeepsO.next | split)

theorem crPut_keeps {bl : Block} (f : ℕ) (r : ℕ) (w : WaitRec) (q : ℕ) (index : Option U16) {s0 s : State} (hc0 : Keeps bl s0 s)
    (hb : bl ∉ [.out, .free, .eic, .mail, .sch, .front, .dma, .tb, .topo, .fns] := by exact notMem_of ‹_ ∉ _› rfl) : Keeps bl s0 (crPut f r w q index s) := by
  unfold crPut; try dsimp only
  repeat' (first | (with_reducible first | assumption | intro _ | exact notMem_of hb rfl | apply enterSpillHalt_keeps | apply modItem_keeps | apply modCr_keeps | apply completionBytes_keeps | apply hostWrite_keeps | apply spillFree_keeps | apply spillAllowed_keeps | apply raiseQ_keeps | apply stAbortedFlr_keeps | apply modFn_keeps | apply sqHead_keeps | apply crWrite_keeps | apply crRoom_keeps | apply fn_keeps | apply freeItem_keeps | apply retireIndex_keeps | apply cr_keeps | apply Keeps.ite | apply KeepsO.ite | apply KeepsO.next | split) | ((with_reducible refine Keeps.mk ?_ ?_) <;> [skip; (cases bl <;> first | exact absurd (by decide) hb | rfl)]))

theorem drainLoop_keeps {bl : Block} (f r n : Nat) {s0 s : State} (hc0 : Keeps bl s0 s)
    (hb : bl ∉ [.out, .front, .fns] := by exact notMem_of ‹_ ∉ _› rfl) : Keeps bl s0 (drainLoop f r n s) := by
  induction n generalizing s with
  | zero => exact hc0
  | succ n ih =>
    unfold drainLoop; try dsimp only
    repeat' (with_reducible first | assumption | intro _ | exact notMem_of hb rfl | apply ih | apply freeItem_keeps | apply retireIndex_keeps | apply crWrite_keeps | apply modFn_keeps | apply modCr_keeps | apply Keeps.ite | split)

theorem idleAfter_keeps {bl : Block} (r : ℕ) {s0 s : State} (hc0 : Keeps bl s0 s)
    (hb : bl ∉ [.sch] := by exact notMem_of ‹_ ∉ _› rfl) : Keeps bl s0 (idleAfter r s) := by
  unfold idleAfter; try dsimp only
  repeat' (first | (with_reducible first | assumption | intro _ | exact notMem_of hb rfl | apply modPstate_keeps | apply Keeps.ite | apply KeepsO.ite | apply KeepsO.next | split) | ((with_reducible refine Keeps.mk ?_ ?_) <;> [skip; (cases bl <;> first | exact absurd (by decide) hb | rfl)]))

theorem idleEndpoints_keeps {bl : Block} (f : ℕ) (r : ℕ) {s0 s : State} (hc0 : Keeps bl s0 s)
    (hb : bl ∉ [.sch] := by exact notMem_of ‹_ ∉ _› rfl) : Keeps bl s0 (idleEndpoints f r s) := by
  unfold idleEndpoints; try dsimp only
  repeat' (with_reducible first | assumption | intro _ | exact notMem_of hb rfl | apply idleAfter_keeps | apply pstate_keeps | apply sq_keeps | apply live_keeps | apply each_keeps | apply Keeps.ite | apply KeepsO.ite | apply KeepsO.next | split)

theorem crDrain_keeps {bl : Block} (f : ℕ) (r : ℕ) {s0 s : State} (hc0 : Keeps bl s0 s)
    (hb : bl ∉ [.out, .sch, .front, .fns] := by exact notMem_of ‹_ ∉ _› rfl) : Keeps bl s0 (crDrain f r s) := by
  unfold crDrain; try dsimp only
  repeat' (first | (with_reducible first | assumption | intro _ | exact notMem_of hb rfl | apply modCr_keeps | apply idleEndpoints_keeps | apply cr_keeps | apply drainLoop_keeps | apply Keeps.ite | apply KeepsO.ite | apply KeepsO.next | split) | ((with_reducible refine Keeps.mk ?_ ?_) <;> [skip; (cases bl <;> first | exact absurd (by decide) hb | rfl)]))

theorem readNext_keeps {bl : Block} (f : ℕ) (q : ℕ) {s0 s : State} (hc0 : Keeps bl s0 s)
    (hb : bl ∉ [.out] := by exact notMem_of ‹_ ∉ _› rfl) : Keeps bl s0 (readNext f q s) := by
  unfold readNext; try dsimp only
  repeat' (with_reducible first | assumption | intro _ | exact notMem_of hb rfl | apply nextIndex_keeps | apply emit_keeps | apply sq_keeps | apply Keeps.ite | apply KeepsO.ite | apply KeepsO.next | split)

theorem issueFetch_keeps {bl : Block} (f : ℕ) (q : ℕ) {s0 s : State} (hc0 : Keeps bl s0 s)
    (hb : bl ∉ [.out] := by exact notMem_of ‹_ ∉ _› rfl) : Keeps bl s0 (issueFetch f q s) := by
  unfold issueFetch; try dsimp only
  repeat' (with_reducible first | assumption | intro _ | exact notMem_of hb rfl | apply readNext_keeps | apply canFetch_keeps | apply sq_keeps | apply Keeps.ite | apply KeepsO.ite | apply KeepsO.next | split)

theorem leaveUnread_keeps {bl : Block} (f : ℕ) (q : ℕ) {s0 s : State} (hc0 : Keeps bl s0 s)
    (hb : bl ∉ [.fns] := by exact notMem_of ‹_ ∉ _› rfl) : Keeps bl s0 (leaveUnread f q s) := by
  unfold leaveUnread; try dsimp only
  repeat' (first | (with_reducible first | assumption | intro _ | exact notMem_of hb rfl | apply modSq_keeps | apply Keeps.ite | apply KeepsO.ite | apply KeepsO.next | split) | ((with_reducible refine Keeps.mk ?_ ?_) <;> [skip; (cases bl <;> first | exact absurd (by decide) hb | rfl)]))

theorem startReading_keeps {bl : Block} (f : ℕ) (q : ℕ) (seen : ℕ) {s0 s : State} (hc0 : Keeps bl s0 s)
    (hb : bl ∉ [.out, .fns] := by exact notMem_of ‹_ ∉ _› rfl) : Keeps bl s0 (startReading f q seen s) := by
  unfold startReading; try dsimp only
  repeat' (first | (with_reducible first | assumption | intro _ | exact notMem_of hb rfl | apply leaveUnread_keeps | apply noteSeen_keeps | apply modSq_keeps | apply readNext_keeps | apply canFetch_keeps | apply sq_keeps | apply Keeps.ite | apply KeepsO.ite | apply KeepsO.next | split) | ((with_reducible refine Keeps.mk ?_ ?_) <;> [skip; (cases bl <;> first | exact absurd (by decide) hb | rfl)]))

theorem noEntry_keeps {bl : Block} (f : ℕ) (q : ℕ) {s0 s : State} (hc0 : Keeps bl s0 s)
    (hb : bl ∉ [.out, .free, .eic, .mail, .sch, .front, .dma, .tb, .topo, .fns] := by exact notMem_of ‹_ ∉ _› rfl) : Keeps bl s0 (noEntry f q s) := by
  unfold noEntry; try dsimp only
  repeat' (with_reducible first | assumption | intro _ | exact notMem_of hb rfl | apply frameStamp_keeps | apply sqHead_keeps | apply stMalformed_keeps | apply sqCr_keeps | apply crPut_keeps | apply Keeps.ite | apply KeepsO.ite | apply KeepsO.next | split)

theorem haltFunc_keeps {bl : Block} (f : ℕ) (cause : ℕ) {s0 s : State} (hc0 : Keeps bl s0 s)
    (hb : bl ∉ [.out, .eic, .mail, .sch, .front, .dma, .tb, .topo, .fns] := by exact notMem_of ‹_ ∉ _› rfl) : Keeps bl s0 (haltFunc f cause s) := by
  unfold haltFunc; try dsimp only
  repeat' (first | (with_reducible first | assumption | intro _ | exact notMem_of hb rfl | apply raiseQ_keeps | apply stAbortedHalt_keeps | apply stopItem_keeps | apply itemsWhere_keeps | apply each_keeps | apply modFn_keeps | apply fn_keeps | apply Keeps.ite | apply KeepsO.ite | apply KeepsO.next | split) | ((with_reducible refine Keeps.mk ?_ ?_) <;> [skip; (cases bl <;> first | exact absurd (by decide) hb | rfl)]))

theorem badSqIndex_keeps {bl : Block} (f : ℕ) (q : ℕ) {s0 s : State} (hc0 : Keeps bl s0 s)
    (hb : bl ∉ [.out, .free, .eic, .mail, .sch, .front, .dma, .tb, .topo, .fns] := by exact notMem_of ‹_ ∉ _› rfl) : Keeps bl s0 (badSqIndex f q s) := by
  unfold badSqIndex; try dsimp only
  repeat' (with_reducible first | assumption | intro _ | exact notMem_of hb rfl | apply haltFunc_keeps | apply raiseQ_keeps | apply noEntry_keeps | apply Keeps.ite | apply KeepsO.ite | apply KeepsO.next | split)

theorem acceptP_keeps {bl : Block} (f : ℕ) (q : ℕ) (v : U16) (seen : ℕ) {s0 s : State} (hc0 : Keeps bl s0 s)
    (hb : bl ∉ [.out, .free, .eic, .mail, .sch, .front, .dma, .tb, .topo, .fns] := by exact notMem_of ‹_ ∉ _› rfl) : Keeps bl s0 (acceptP f q v seen s) := by
  unfold acceptP; try dsimp only
  repeat' (first | (with_reducible first | assumption | intro _ | exact notMem_of hb rfl | apply badSqIndex_keeps | apply modSq_keeps | apply startReading_keeps | apply fn_keeps | apply sq_keeps | apply Keeps.ite | apply KeepsO.ite | apply KeepsO.next | split) | ((with_reducible refine Keeps.mk ?_ ?_) <;> [skip; (cases bl <;> first | exact absurd (by decide) hb | rfl)]))

theorem resumeSqs_keeps {bl : Block} (f : ℕ) (r : ℕ) (seen : ℕ) {s0 s : State} (hc0 : Keeps bl s0 s)
    (hb : bl ∉ [.out, .fns] := by exact notMem_of ‹_ ∉ _› rfl) : Keeps bl s0 (resumeSqs f r seen s) := by
  unfold resumeSqs; try dsimp only
  repeat' (with_reducible first | assumption | intro _ | exact notMem_of hb rfl | apply startReading_keeps | apply sqCr_keeps | apply sq_keeps | apply fn_keeps | apply each_keeps | apply Keeps.ite | apply KeepsO.ite | apply KeepsO.next | split)

theorem acceptC_keeps {bl : Block} (f : ℕ) (r : ℕ) (v : U16) (seen : ℕ) {s0 s : State} (hc0 : Keeps bl s0 s)
    (hb : bl ∉ [.out, .eic, .mail, .sch, .front, .dma, .tb, .topo, .fns] := by exact notMem_of ‹_ ∉ _› rfl) : Keeps bl s0 (acceptC f r v seen s) := by
  unfold acceptC; try dsimp only
  repeat' (first | (with_reducible first | assumption | intro _ | exact notMem_of hb rfl | apply haltFunc_keeps | apply raiseQ_keeps | apply resumeSqs_keeps | apply modCr_keeps | apply crDrain_keeps | apply fn_keeps | apply cr_keeps | apply Keeps.ite | apply KeepsO.ite | apply KeepsO.next | split) | ((with_reducible refine Keeps.mk ?_ ?_) <;> [skip; (cases bl <;> first | exact absurd (by decide) hb | rfl)]))

theorem bindPeriodic_keeps {bl : Block} (i : ℕ) (r : ℕ) (seen : ℕ) (keep : Option ℕ) {s0 s : State} (hc0 : Keeps bl s0 s)
    (hb : bl ∉ [.mail, .sch, .front, .dma, .tb, .topo] := by exact notMem_of ‹_ ∉ _› rfl) : Keeps bl s0 (bindPeriodic i r seen keep s) := by
  unfold bindPeriodic; try dsimp only
  repeat' (first | (with_reducible first | assumption | intro _ | exact notMem_of hb rfl | apply stMissedLead_keeps | apply modItem_keeps | apply modPstate_keeps | apply sq_keeps | apply serviceFrom_keeps | apply serviceAfter_keeps | apply target_keeps | apply pstate_keeps | apply stNotAdmitted_keeps | apply finish_keeps | apply live_keeps | apply tfind_keeps | apply Keeps.ite | apply KeepsO.ite | apply KeepsO.next | split) | ((with_reducible refine Keeps.mk ?_ ?_) <;> [skip; (cases bl <;> first | exact absurd (by decide) hb | rfl)]))

theorem shiftEvents_keeps {bl : Block} (r : Nat) (g : Rung) (n m : Nat) {s0 s : State} (hc0 : Keeps bl s0 s)
    (hb : bl ∉ [.front] := by exact notMem_of ‹_ ∉ _› rfl) :
    Keeps bl s0 (shiftEvents r g n m s) := by
  induction n generalizing m s with
  | zero => exact hc0
  | succ n ih =>
    unfold shiftEvents
    split
    · exact modItem_keeps _ _ (ih _ hc0)
    · exact hc0

theorem bindEvent_keeps {bl : Block} (i : ℕ) (r : ℕ) (seen : ℕ) (keep : Option ℕ) {s0 s : State} (hc0 : Keeps bl s0 s)
    (hb : bl ∉ [.mail, .sch, .front, .dma, .tb, .topo] := by exact notMem_of ‹_ ∉ _› rfl) : Keeps bl s0 (bindEvent i r seen keep s) := by
  unfold bindEvent; try dsimp only
  repeat' (first | (with_reducible first | assumption | intro _ | exact notMem_of hb rfl | apply modItem_keeps | apply serviceFrom_keeps | apply freeService_keeps | apply stNotAdmitted_keeps | apply finish_keeps | apply live_keeps | apply tfind_keeps | apply Keeps.ite | apply KeepsO.ite | apply KeepsO.next | split) | ((with_reducible refine Keeps.mk ?_ ?_) <;> [skip; (cases bl <;> first | exact absurd (by decide) hb | rfl)]))

theorem queueOnUnit_keeps {bl : Block} (i : ℕ) (u : ℕ) {s0 s : State} (hc0 : Keeps bl s0 s)
    (hb : bl ∉ [.tb] := by exact notMem_of ‹_ ∉ _› rfl) : Keeps bl s0 (queueOnUnit i u s) := by
  unfold queueOnUnit; try dsimp only
  repeat' (first | (with_reducible first | assumption | intro _ | exact notMem_of hb rfl | apply modUnit_keeps | apply Keeps.ite | apply KeepsO.ite | apply KeepsO.next | split) | ((with_reducible refine Keeps.mk ?_ ?_) <;> [skip; (cases bl <;> first | exact absurd (by decide) hb | rfl)]))

theorem applyVerdict_keeps {bl : Block} (i : ℕ) (f : ℕ) (e : BitVec 256) (v : Verdict) (seen : ℕ) (keep : Option (ℕ × ℕ)) {s0 s : State} (hc0 : Keeps bl s0 s)
    (hb : bl ∉ [.out, .eic, .mail, .sch, .front, .dma, .tb, .topo, .fns] := by exact notMem_of ‹_ ∉ _› rfl) : Keeps bl s0 (applyVerdict i f e v seen keep s) := by
  unfold applyVerdict; try dsimp only
  repeat' (with_reducible first | assumption | intro _ | exact notMem_of hb rfl | apply queueOnUnit_keeps | apply axis_keeps | apply bindEvent_keeps | apply bindPeriodic_keeps | apply stStall_keeps | apply stSuccess_keeps | apply haltFunc_keeps | apply stMalformed_keeps | apply finish_keeps | apply Keeps.ite | apply KeepsO.ite | apply KeepsO.next | split)

theorem issueIndex_keeps {bl : Block} (i : ℕ) {s0 s : State} (hc0 : Keeps bl s0 s)
    (hb : bl ∉ [.out] := by exact notMem_of ‹_ ∉ _› rfl) : Keeps bl s0 (issueIndex i s) := by
  unfold issueIndex; try dsimp only
  repeat' (with_reducible first | assumption | intro _ | exact notMem_of hb rfl | apply emit_keeps | apply Keeps.ite | apply KeepsO.ite | apply KeepsO.next | split)

theorem stopFetched_keeps {bl : Block} (i : ℕ) (f : ℕ) (q : ℕ) {s0 s : State} (hc0 : Keeps bl s0 s)
    (hb : bl ∉ [.mail, .sch, .front, .dma, .tb, .topo] := by exact notMem_of ‹_ ∉ _› rfl) : Keeps bl s0 (stopFetched i f q s) := by
  unfold stopFetched; try dsimp only
  repeat' (first | (with_reducible first | assumption | intro _ | exact notMem_of hb rfl | apply stAbortedReset_keeps | apply stopItem_keeps | apply sq_keeps | apply Keeps.ite | apply KeepsO.ite | apply KeepsO.next | split) | ((with_reducible refine Keeps.mk ?_ ?_) <;> [skip; (cases bl <;> first | exact absurd (by decide) hb | rfl)]))

theorem fetchEntry_keeps {bl : Block} (f : ℕ) (q : ℕ) (ok : Bool) (e : BitVec 256) {s0 s : State} (hc0 : Keeps bl s0 s)
    (hb : bl ∉ [.out, .eic, .mail, .sch, .front, .dma, .tb, .topo, .fns] := by exact notMem_of ‹_ ∉ _› rfl) : Keeps bl s0 (fetchEntry f q ok e s) := by
  unfold fetchEntry; try dsimp only
  repeat' (first | (with_reducible first | assumption | intro _ | exact notMem_of hb rfl | apply applyVerdict_keeps | apply stopFetched_keeps | apply issueIndex_keeps | apply issueFetch_keeps | apply tput_keeps | apply flowIn_keeps | apply modSq_keeps | apply affinityOf_keeps | apply seenOf_keeps | apply level_keeps | apply nextIndex_keeps | apply port_keeps | apply flowOf_keeps | apply axis_keeps | apply takesSlot_keeps | apply checkEntry_keeps | apply sq_keeps | apply emit_keeps | apply leaveUnread_keeps | apply canFetch_keeps | apply Keeps.ite | apply KeepsO.ite | apply KeepsO.next | split) | ((with_reducible refine Keeps.mk ?_ ?_) <;> [skip; (cases bl <;> first | exact absurd (by decide) hb | rfl)]))

theorem answerWaiters_keeps {bl : Block} {s0 s : State} (hc0 : Keeps bl s0 s)
    (hb : bl ∉ [.out, .mail, .front, .fns] := by exact notMem_of ‹_ ∉ _› rfl) : Keeps bl s0 (answerWaiters s) := by
  unfold answerWaiters; try dsimp only
  repeat' (first | (with_reducible first | assumption | intro _ | exact notMem_of hb rfl | apply modFn_keeps | apply handleCurrent_keeps | apply queueReply_keeps | apply reply_keeps | apply each_keeps | apply sq_keeps | apply Keeps.ite | apply KeepsO.ite | apply KeepsO.next | split) | ((with_reducible refine Keeps.mk ?_ ?_) <;> [skip; (cases bl <;> first | exact absurd (by decide) hb | rfl)]))

theorem postWork_keeps {bl : Block} (b : PostBody) (f : ℕ) (setup : Option U64) (poll : Bool) {s0 s : State} (hc0 : Keeps bl s0 s)
    (hb : bl ∉ [.front, .topo] := by exact notMem_of ‹_ ∉ _› rfl) : Keeps bl s0 (postWork b f setup poll s) := by
  unfold postWork; try dsimp only
  repeat' (first | (with_reducible first | assumption | intro _ | exact notMem_of hb rfl | apply tput_keeps | apply flowIn_keeps | apply affinityOf_keeps | apply absUframe_keeps | apply port_keeps | apply level_keeps | apply handle_keeps | apply Keeps.ite | apply KeepsO.ite | apply KeepsO.next | split) | ((with_reducible refine Keeps.mk ?_ ?_) <;> [skip; (cases bl <;> first | exact absurd (by decide) hb | rfl)]))

theorem postRequest_keeps {bl : Block} (r : ℕ × Option U64) {s0 s : State} (hc0 : Keeps bl s0 s)
    (hb : bl ∉ [.front, .topo] := by exact notMem_of ‹_ ∉ _› rfl) : Keeps bl s0 (postRequest r s) := by
  unfold postRequest; try dsimp only
  repeat' (first | (with_reducible first | assumption | intro _ | exact notMem_of hb rfl | apply requestBody_keeps | apply postWork_keeps | apply shareFull_keeps | apply Keeps.ite | apply KeepsO.ite | apply KeepsO.next | split) | ((with_reducible refine Keeps.mk ?_ ?_) <;> [skip; (cases bl <;> first | exact absurd (by decide) hb | rfl)]))

theorem postRequests_keeps {bl : Block} {s0 s : State} (hc0 : Keeps bl s0 s)
    (hb : bl ∉ [.front, .topo] := by exact notMem_of ‹_ ∉ _› rfl) : Keeps bl s0 (postRequests s) := by
  unfold postRequests; try dsimp only
  repeat' (first | (with_reducible first | assumption | intro _ | exact notMem_of hb rfl | apply postRequest_keeps | apply each_keeps | apply Keeps.ite | apply KeepsO.ite | apply KeepsO.next | split) | ((with_reducible refine Keeps.mk ?_ ?_) <;> [skip; (cases bl <;> first | exact absurd (by decide) hb | rfl)]))

theorem askWork_keeps {bl : Block} (num : ℕ) (setup : Option U64) {s0 s : State} (hc0 : Keeps bl s0 s)
    (hb : bl ∉ [.front, .topo] := by exact notMem_of ‹_ ∉ _› rfl) : Keeps bl s0 (askWork num setup s) := by
  unfold askWork; try dsimp only
  repeat' (first | (with_reducible first | assumption | intro _ | exact notMem_of hb rfl | apply postRequests_keeps | apply Keeps.ite | apply KeepsO.ite | apply KeepsO.next | split) | ((with_reducible refine Keeps.mk ?_ ?_) <;> [skip; (cases bl <;> first | exact absurd (by decide) hb | rfl)]))

theorem request_keeps {bl : Block} (num : ℕ) (code : ℕ) (byte1 : ℕ) (arg0 : ℕ) (arg1 : ℕ) (dlen : ℕ) {s0 s : State} (hc0 : Keeps bl s0 s)
    (hb : bl ∉ [.front, .topo] := by exact notMem_of ‹_ ∉ _› rfl) : Keeps bl s0 (request num code byte1 arg0 arg1 dlen s) := by
  unfold request; try dsimp only
  repeat' (with_reducible first | assumption | intro _ | exact notMem_of hb rfl | apply askWork_keeps | apply Keeps.ite | apply KeepsO.ite | apply KeepsO.next | split)

theorem dropRequests_keeps {bl : Block} (num : ℕ) {s0 s : State} (hc0 : Keeps bl s0 s)
    (hb : bl ∉ [.mail, .sch, .front, .dma, .tb, .topo] := by exact notMem_of ‹_ ∉ _› rfl) : Keeps bl s0 (dropRequests num s) := by
  unfold dropRequests; try dsimp only
  repeat' (first | (with_reducible first | assumption | intro _ | exact notMem_of hb rfl | apply stDeviceGone_keeps | apply stopItem_keeps | apply handle_keeps | apply isOwn_keeps | apply itemsWhere_keeps | apply each_keeps | apply Keeps.ite | apply KeepsO.ite | apply KeepsO.next | split) | ((with_reducible refine Keeps.mk ?_ ?_) <;> [skip; (cases bl <;> first | exact absurd (by decide) hb | rfl)]))

theorem releaseItem_keeps {bl : Block} (i : ℕ) {s0 s : State} (hc0 : Keeps bl s0 s)
    (hb : bl ∉ [.out, .free, .eic, .mail, .sch, .front, .dma, .tb, .topo, .fns] := by exact notMem_of ‹_ ∉ _› rfl) : Keeps bl s0 (releaseItem i s) := by
  unfold releaseItem; try dsimp only
  repeat' (with_reducible first | assumption | intro _ | exact notMem_of hb rfl | apply recordOf_keeps | apply sq_keeps | apply sqCr_keeps | apply crPut_keeps | apply freeItem_keeps | apply answerWaiters_keeps | apply postRequests_keeps | apply flowOut_keeps | apply releasable_keeps | apply Keeps.ite | apply KeepsO.ite | apply KeepsO.next | split)

theorem qResult_keeps {bl : Block} (f : ℕ) (r : ℕ) {s0 s : State} (hc0 : Keeps bl s0 s)
    (hb : bl ∉ [.fns] := by exact notMem_of ‹_ ∉ _› rfl) : Keeps bl s0 (qResult f r s) := by
  unfold qResult; try dsimp only
  repeat' (first | (with_reducible first | assumption | intro _ | exact notMem_of hb rfl | apply modFn_keeps | apply Keeps.ite | apply KeepsO.ite | apply KeepsO.next | split) | ((with_reducible refine Keeps.mk ?_ ?_) <;> [skip; (cases bl <;> first | exact absurd (by decide) hb | rfl)]))

theorem createQueue_keeps {bl : Block} (f : ℕ) {s0 s : State} (hc0 : Keeps bl s0 s)
    (hb : bl ∉ [.fns] := by exact notMem_of ‹_ ∉ _› rfl) : Keeps bl s0 (createQueue f s) := by
  unfold createQueue; try dsimp only
  repeat' (with_reducible first | assumption | intro _ | exact notMem_of hb rfl | apply qResult_keeps | apply modSq_keeps | apply selNum_keeps | apply modCr_keeps | apply selCr_keeps | apply createResult_keeps | apply fn_keeps | apply Keeps.ite | apply KeepsO.ite | apply KeepsO.next | split)

theorem destroyQueue_keeps {bl : Block} (f : ℕ) {s0 s : State} (hc0 : Keeps bl s0 s)
    (hb : bl ∉ [.fns] := by exact notMem_of ‹_ ∉ _› rfl) : Keeps bl s0 (destroyQueue f s) := by
  unfold destroyQueue; try dsimp only
  repeat' (first | (with_reducible first | assumption | intro _ | exact notMem_of hb rfl | apply qResult_keeps | apply sq_keeps | apply selNum_keeps | apply tdel_keeps | apply cr_keeps | apply modFn_keeps | apply selCr_keeps | apply destroyResult_keeps | apply fn_keeps | apply Keeps.ite | apply KeepsO.ite | apply KeepsO.next | split) | ((with_reducible refine Keeps.mk ?_ ?_) <;> [skip; (cases bl <;> first | exact absurd (by decide) hb | rfl)]))

theorem readQueue_keeps {bl : Block} (f : ℕ) {s0 s : State} (hc0 : Keeps bl s0 s)
    (hb : bl ∉ [.fns] := by exact notMem_of ‹_ ∉ _› rfl) : Keeps bl s0 (readQueue f s) := by
  unfold readQueue; try dsimp only
  repeat' (first | (with_reducible first | assumption | intro _ | exact notMem_of hb rfl | apply qResult_keeps | apply queueState_keeps | apply modFn_keeps | apply sq_keeps | apply cr_keeps | apply selCr_keeps | apply selNum_keeps | apply fn_keeps | apply Keeps.ite | apply KeepsO.ite | apply KeepsO.next | split) | ((with_reducible refine Keeps.mk ?_ ?_) <;> [skip; (cases bl <;> first | exact absurd (by decide) hb | rfl)]))

theorem invalidate_keeps {bl : Block} (f : ℕ) (q : ℕ) (seen : ℕ) {s0 s : State} (hc0 : Keeps bl s0 s)
    (hb : bl ∉ [.out, .mail, .front, .dma, .tb, .topo, .fns] := by exact notMem_of ‹_ ∉ _› rfl) : Keeps bl s0 (invalidate f q seen s) := by
  unfold invalidate; try dsimp only
  repeat' (first | (with_reducible first | assumption | intro _ | exact notMem_of hb rfl | apply modSq_keeps | apply startReading_keeps | apply dropFromUnit_keeps | apply dropStaged_keeps | apply flowBack_keeps | apply delItem_keeps | apply each_keeps | apply hasBegun_keeps | apply sq_keeps | apply Keeps.ite | apply KeepsO.ite | apply KeepsO.next | split) | ((with_reducible refine Keeps.mk ?_ ?_) <;> [skip; (cases bl <;> first | exact absurd (by decide) hb | rfl)]))

theorem kickInval_keeps {bl : Block} (f : ℕ) (q : ℕ) (v : U16) (seen : ℕ) {s0 s : State} (hc0 : Keeps bl s0 s)
    (hb : bl ∉ [.out, .free, .eic, .mail, .sch, .front, .dma, .tb, .topo, .fns] := by exact notMem_of ‹_ ∉ _› rfl) : Keeps bl s0 (kickInval f q v seen s) := by
  unfold kickInval; try dsimp only
  repeat' (first | (with_reducible first | assumption | intro _ | exact notMem_of hb rfl | apply badSqIndex_keeps | apply modSq_keeps | apply invalidate_keeps | apply fn_keeps | apply sq_keeps | apply Keeps.ite | apply KeepsO.ite | apply KeepsO.next | split) | ((with_reducible refine Keeps.mk ?_ ?_) <;> [skip; (cases bl <;> first | exact absurd (by decide) hb | rfl)]))

theorem doorbellRecord_keeps {bl : Block} (f : ℕ) (block : ℕ) (i : ℕ) (v : U16) {s0 s : State} (hc0 : Keeps bl s0 s)
    (hb : bl ∉ [.out, .free, .eic, .mail, .sch, .front, .dma, .tb, .topo, .fns] := by exact notMem_of ‹_ ∉ _› rfl) : Keeps bl s0 (doorbellRecord f block i v s) := by
  unfold doorbellRecord; try dsimp only
  repeat' (with_reducible first | assumption | intro _ | exact notMem_of hb rfl | apply acceptC_keeps | apply crLive_keeps | apply acceptP_keeps | apply sqLive_keeps | apply fn_keeps | apply Keeps.ite | apply KeepsO.ite | apply KeepsO.next | split)

theorem doorbellRecords_keeps {bl : Block} (f block i : Nat) (l : List U32) {s0 s : State} (hc0 : Keeps bl s0 s)
    (hb : bl ∉ [.out, .free, .eic, .mail, .sch, .front, .dma, .tb, .topo, .fns] := by exact notMem_of ‹_ ∉ _› rfl) :
    Keeps bl s0 (doorbellRecords f block i l s) := by
  induction l generalizing i s with
  | nil => exact hc0
  | cons w r ih => exact ih _ (doorbellRecord_keeps _ _ _ _ hc0)

theorem queueStopCmd_keeps {bl : Block} (ctx : CmdCtx) (q : ℕ) {s0 s : State} (hc0 : Keeps bl s0 s)
    (hb : bl ∉ [.out, .mail, .sch, .front, .dma, .tb, .topo, .fns] := by exact notMem_of ‹_ ∉ _› rfl) : Keeps bl s0 (queueStopCmd ctx q s) := by
  unfold queueStopCmd; try dsimp only
  repeat' (first | (with_reducible first | assumption | intro _ | exact notMem_of hb rfl | apply answerWaiters_keeps | apply stAbortedReset_keeps | apply stopItem_keeps | apply each_keeps | apply modSq_keeps | apply itemsWhere_keeps | apply sq_keeps | apply sqLive_keeps | apply chan_keeps | apply sender_keeps | apply reply_keeps | apply begun_keeps | apply Keeps.ite | apply KeepsO.ite | apply KeepsO.next | split) | ((with_reducible refine Keeps.mk ?_ ?_) <;> [skip; (cases bl <;> first | exact absurd (by decide) hb | rfl)]))

theorem queueStartCmd_keeps {bl : Block} (ctx : CmdCtx) (q : ℕ) {s0 s : State} (hc0 : Keeps bl s0 s)
    (hb : bl ∉ [.out, .mail, .fns] := by exact notMem_of ‹_ ∉ _› rfl) : Keeps bl s0 (queueStartCmd ctx q s) := by
  unfold queueStartCmd; try dsimp only
  repeat' (first | (with_reducible first | assumption | intro _ | exact notMem_of hb rfl | apply queueReply_keeps | apply absUframe_keeps | apply startReading_keeps | apply modSq_keeps | apply sq_keeps | apply sqLive_keeps | apply chan_keeps | apply sender_keeps | apply reply_keeps | apply begun_keeps | apply Keeps.ite | apply KeepsO.ite | apply KeepsO.next | split) | ((with_reducible refine Keeps.mk ?_ ?_) <;> [skip; (cases bl <;> first | exact absurd (by decide) hb | rfl)]))

theorem stageWrite_keeps {bl : Block} (x : Item) (pos : ℕ) (bytes : List Byte) {s0 s : State} (hc0 : Keeps bl s0 s)
    (hb : bl ∉ [.dma] := by exact notMem_of ‹_ ∉ _› rfl) : Keeps bl s0 (stageWrite x pos bytes s) := by
  unfold stageWrite; try dsimp only
  repeat' (first | (with_reducible first | assumption | intro _ | exact notMem_of hb rfl | apply stageAddr_keeps | apply mput_keeps | apply itemChan_keeps | apply modChan_keeps | apply Keeps.ite | apply KeepsO.ite | apply KeepsO.next | split) | ((with_reducible refine Keeps.mk ?_ ?_) <;> [skip; (cases bl <;> first | exact absurd (by decide) hb | rfl)]))

theorem lostEnd_keeps {bl : Block} (i : ℕ) {s0 s : State} (hc0 : Keeps bl s0 s)
    (hb : bl ∉ [.mail, .sch, .front, .dma, .tb, .topo] := by exact notMem_of ‹_ ∉ _› rfl) : Keeps bl s0 (lostEnd i s) := by
  unfold lostEnd; try dsimp only
  repeat' (first | (with_reducible first | assumption | intro _ | exact notMem_of hb rfl | apply modItem_keeps | apply lostStatus_keeps | apply finish_keeps | apply Keeps.ite | apply KeepsO.ite | apply KeepsO.next | split) | ((with_reducible refine Keeps.mk ?_ ?_) <;> [skip; (cases bl <;> first | exact absurd (by decide) hb | rfl)]))

theorem loseData_keeps {bl : Block} (i : ℕ) {s0 s : State} (hc0 : Keeps bl s0 s)
    (hb : bl ∉ [.out, .eic, .mail, .sch, .front, .dma, .tb, .topo, .fns] := by exact notMem_of ‹_ ∉ _› rfl) : Keeps bl s0 (loseData i s) := by
  unfold loseData; try dsimp only
  repeat' (with_reducible first | assumption | intro _ | exact notMem_of hb rfl | apply lostEnd_keeps | apply raise_keeps | apply Keeps.ite | apply KeepsO.ite | apply KeepsO.next | split)

theorem idxMalformed_keeps {bl : Block} (i : ℕ) (x : Item) {s0 s : State} (hc0 : Keeps bl s0 s)
    (hb : bl ∉ [.out, .eic, .mail, .sch, .front, .dma, .tb, .topo, .fns] := by exact notMem_of ‹_ ∉ _› rfl) : Keeps bl s0 (idxMalformed i x s) := by
  unfold idxMalformed; try dsimp only
  repeat' (first | (with_reducible first | assumption | intro _ | exact notMem_of hb rfl | apply haltFunc_keeps | apply stMalformed_keeps | apply finish_keeps | apply modItem_keeps | apply Keeps.ite | apply KeepsO.ite | apply KeepsO.next | split) | ((with_reducible refine Keeps.mk ?_ ?_) <;> [skip; (cases bl <;> first | exact absurd (by decide) hb | rfl)]))

theorem afterBurst_keeps {bl : Block} (key : ℕ) (moved : ℕ) (n : ℕ) {s0 s : State} (hc0 : Keeps bl s0 s)
    (hb : bl ∉ [.dma] := by exact notMem_of ‹_ ∉ _› rfl) : Keeps bl s0 (afterBurst key moved n s) := by
  unfold afterBurst; try dsimp only
  repeat' (first | (with_reducible first | assumption | intro _ | exact notMem_of hb rfl | apply modChan_keeps | apply Keeps.ite | apply KeepsO.ite | apply KeepsO.next | split) | ((with_reducible refine Keeps.mk ?_ ?_) <;> [skip; (cases bl <;> first | exact absurd (by decide) hb | rfl)]))

theorem burstIn_keeps {bl : Block} (key : ℕ) (cut : ℕ) (i : ℕ) (x : Item) {s0 s : State} (hc0 : Keeps bl s0 s)
    (hb : bl ∉ [.out, .eic, .mail, .sch, .front, .dma, .tb, .topo, .fns] := by exact notMem_of ‹_ ∉ _› rfl) : Keeps bl s0 (burstIn key cut i x s) := by
  unfold burstIn; try dsimp only
  repeat' (first | (with_reducible first | assumption | intro _ | exact notMem_of hb rfl | apply takeSegs_keeps | apply afterBurst_keeps | apply modItem_keeps | apply loseData_keeps | apply stageRead_keeps | apply hostWrite_keeps | apply firstBad_keeps | apply movedBytes_keeps | apply burstLen_keeps | apply idxMalformed_keeps | apply atBad_keeps | apply hostSpot_keeps | apply lostEnd_keeps | apply fn_keeps | apply Keeps.ite | apply KeepsO.ite | apply KeepsO.next | split) | ((with_reducible refine Keeps.mk ?_ ?_) <;> [skip; (cases bl <;> first | exact absurd (by decide) hb | rfl)]))

theorem burstOut_keeps {bl : Block} (key : ℕ) (cut : ℕ) (i : ℕ) (x : Item) {s0 s : State} (hc0 : Keeps bl s0 s)
    (hb : bl ∉ [.out, .eic, .mail, .sch, .front, .dma, .tb, .topo, .fns] := by exact notMem_of ‹_ ∉ _› rfl) : Keeps bl s0 (burstOut key cut i x s) := by
  unfold burstOut; try dsimp only
  repeat' (first | (with_reducible first | assumption | intro _ | exact notMem_of hb rfl | apply movedBytes_keeps | apply modChan_keeps | apply modItem_keeps | apply emit_keeps | apply stagePlace_keeps | apply burstLen_keeps | apply idxMalformed_keeps | apply atBad_keeps | apply hostSpot_keeps | apply stUnderrun_keeps | apply finish_keeps | apply fn_keeps | apply Keeps.ite | apply KeepsO.ite | apply KeepsO.next | split) | ((with_reducible refine Keeps.mk ?_ ?_) <;> [skip; (cases bl <;> first | exact absurd (by decide) hb | rfl)]))

theorem dmaServe_keeps {bl : Block} (cut : ℕ) {s0 s : State} (hc0 : Keeps bl s0 s)
    (hb : bl ∉ [.out, .eic, .mail, .sch, .front, .dma, .tb, .topo, .fns, .pwr] := by exact notMem_of ‹_ ∉ _› rfl) : Keeps bl s0 (dmaServe cut s) := by
  unfold dmaServe; try dsimp only
  repeat' (first | (with_reducible first | assumption | intro _ | exact notMem_of hb rfl | apply burstOut_keeps | apply ctxOf_keeps | apply burstIn_keeps | apply tput_keeps | apply nextBurst_keeps | apply movable_keeps | apply Keeps.ite | apply KeepsO.ite | apply KeepsO.next | split) | ((with_reducible refine Keeps.mk ?_ ?_) <;> [skip; (cases bl <;> first | exact absurd (by decide) hb | rfl)]))

theorem readDone_keeps {bl : Block} (key : ℕ) (ok : Bool) (data : List Byte) {s0 s : State} (hc0 : Keeps bl s0 s)
    (hb : bl ∉ [.mail, .sch, .front, .dma, .tb, .topo] := by exact notMem_of ‹_ ∉ _› rfl) : Keeps bl s0 (readDone key ok data s) := by
  unfold readDone; try dsimp only
  repeat' (first | (with_reducible first | assumption | intro _ | exact notMem_of hb rfl | apply modItem_keeps | apply stageWrite_keeps | apply stUnderrun_keeps | apply finish_keeps | apply modChan_keeps | apply chan_keeps | apply Keeps.ite | apply KeepsO.ite | apply KeepsO.next | split) | ((with_reducible refine Keeps.mk ?_ ?_) <;> [skip; (cases bl <;> first | exact absurd (by decide) hb | rfl)]))

theorem askWindow_keeps {bl : Block} (i : ℕ) (n : ℕ) {s0 s : State} (hc0 : Keeps bl s0 s)
    (hb : bl ∉ [.out, .mail, .sch, .front, .dma, .tb, .topo] := by exact notMem_of ‹_ ∉ _› rfl) : Keeps bl s0 (askWindow i n s) := by
  unfold askWindow; try dsimp only
  repeat' (with_reducible first | assumption | intro _ | exact notMem_of hb rfl | apply lostEnd_keeps | apply emit_keeps | apply fn_keeps | apply Keeps.ite | apply KeepsO.ite | apply KeepsO.next | split)

theorem takeWindow_keeps {bl : Block} (i : ℕ) (x : Item) (d : IdxState) (os : List ℕ) {s0 s : State} (hc0 : Keeps bl s0 s)
    (hb : bl ∉ [.out, .eic, .mail, .sch, .front, .dma, .tb, .topo, .fns] := by exact notMem_of ‹_ ∉ _› rfl) : Keeps bl s0 (takeWindow i x d os s) := by
  unfold takeWindow; try dsimp only
  repeat' (first | (with_reducible first | assumption | intro _ | exact notMem_of hb rfl | apply idxMalformed_keeps | apply askWindow_keeps | apply setItem_keeps | apply idxFits_keeps | apply Keeps.ite | apply KeepsO.ite | apply KeepsO.next | split) | ((with_reducible refine Keeps.mk ?_ ?_) <;> [skip; (cases bl <;> first | exact absurd (by decide) hb | rfl)]))

theorem idxRead_keeps {bl : Block} (i : ℕ) (first : ℕ) (ok : Bool) (bytes : List Byte) {s0 s : State} (hc0 : Keeps bl s0 s)
    (hb : bl ∉ [.out, .eic, .mail, .sch, .front, .dma, .tb, .topo, .fns] := by exact notMem_of ‹_ ∉ _› rfl) : Keeps bl s0 (idxRead i first ok bytes s) := by
  unfold idxRead; try dsimp only
  repeat' (first | (with_reducible first | assumption | intro _ | exact notMem_of hb rfl | apply setItem_keeps | apply idxOffsets_keeps | apply takeWindow_keeps | apply idxMalformed_keeps | apply idxHeaderOk_keeps | apply lostEnd_keeps | apply fn_keeps | apply Keeps.ite | apply KeepsO.ite | apply KeepsO.next | split) | ((with_reducible refine Keeps.mk ?_ ?_) <;> [skip; (cases bl <;> first | exact absurd (by decide) hb | rfl)]))

theorem zeroPage_keeps {bl : Block} (n : ℕ) {s0 s : State} (hc0 : Keeps bl s0 s)
    (hb : bl ∉ [.dma] := by exact notMem_of ‹_ ∉ _› rfl) : Keeps bl s0 (zeroPage n s) := by
  unfold zeroPage; try dsimp only
  repeat' (first | (with_reducible first | assumption | intro _ | exact notMem_of hb rfl | apply mclear_keeps | apply Keeps.ite | apply KeepsO.ite | apply KeepsO.next | split) | ((with_reducible refine Keeps.mk ?_ ?_) <;> [skip; (cases bl <;> first | exact absurd (by decide) hb | rfl)]))

theorem assignPages_keeps {bl : Block} (ps : List ℕ) (f : ℕ) (key : ℕ × ℕ) {s0 s : State} (hc0 : Keeps bl s0 s)
    (hb : bl ∉ [.dma] := by exact notMem_of ‹_ ∉ _› rfl) : Keeps bl s0 (assignPages ps f key s) := by
  unfold assignPages; try dsimp only
  repeat' (with_reducible first | assumption | intro _ | exact notMem_of hb rfl | apply setPage_keeps | apply each_keeps | apply Keeps.ite | apply KeepsO.ite | apply KeepsO.next | split)

theorem returnPages_keeps {bl : Block} (ps : List ℕ) {s0 s : State} (hc0 : Keeps bl s0 s)
    (hb : bl ∉ [.dma] := by exact notMem_of ‹_ ∉ _› rfl) : Keeps bl s0 (returnPages ps s) := by
  unfold returnPages; try dsimp only
  repeat' (with_reducible first | assumption | intro _ | exact notMem_of hb rfl | apply setPage_keeps | apply page_keeps | apply each_keeps | apply Keeps.ite | apply KeepsO.ite | apply KeepsO.next | split)

theorem scrubPages_keeps {bl : Block} (ps : List ℕ) (dst : Option ℕ) {s0 s : State} (hc0 : Keeps bl s0 s)
    (hb : bl ∉ [.dma] := by exact notMem_of ‹_ ∉ _› rfl) : Keeps bl s0 (scrubPages ps dst s) := by
  unfold scrubPages; try dsimp only
  repeat' (with_reducible first | assumption | intro _ | exact notMem_of hb rfl | apply setPage_keeps | apply each_keeps | apply Keeps.ite | apply KeepsO.ite | apply KeepsO.next | split)

theorem scrubbed_keeps {bl : Block} (n : ℕ) {s0 s : State} (hc0 : Keeps bl s0 s)
    (hb : bl ∉ [.dma] := by exact notMem_of ‹_ ∉ _› rfl) : Keeps bl s0 (scrubbed n s) := by
  unfold scrubbed; try dsimp only
  repeat' (with_reducible first | assumption | intro _ | exact notMem_of hb rfl | apply setPage_keeps | apply zeroPage_keeps | apply page_keeps | apply Keeps.ite | apply KeepsO.ite | apply KeepsO.next | split)

theorem endStagedIn_keeps {bl : Block} (n : ℕ) {s0 s : State} (hc0 : Keeps bl s0 s)
    (hb : bl ∉ [.mail, .sch, .front, .dma, .tb, .topo] := by exact notMem_of ‹_ ∉ _› rfl) : Keeps bl s0 (endStagedIn n s) := by
  unfold endStagedIn; try dsimp only
  repeat' (with_reducible first | assumption | intro _ | exact notMem_of hb rfl | apply dropStaged_keeps | apply lostStatus_keeps | apply finish_keeps | apply itemsWhere_keeps | apply each_keeps | apply Keeps.ite | apply KeepsO.ite | apply KeepsO.next | split)

theorem retirePage_keeps {bl : Block} (n : ℕ) {s0 s : State} (hc0 : Keeps bl s0 s)
    (hb : bl ∉ [.out, .eic, .mail, .sch, .front, .dma, .tb, .topo, .fns] := by exact notMem_of ‹_ ∉ _› rfl) : Keeps bl s0 (retirePage n s) := by
  unfold retirePage; try dsimp only
  repeat' (first | (with_reducible first | assumption | intro _ | exact notMem_of hb rfl | apply carvedOf_keeps | apply page_keeps | apply setPage_keeps | apply pagesWhere_keeps | apply zeroPage_keeps | apply raise_keeps | apply tput_keeps | apply physOf_keeps | apply endStagedIn_keeps | apply Keeps.ite | apply KeepsO.ite | apply KeepsO.next | split) | ((with_reducible refine Keeps.mk ?_ ?_) <;> [skip; (cases bl <;> first | exact absurd (by decide) hb | rfl)]))

theorem bufCarveCmd_keeps {bl : Block} (ctx : CmdCtx) (h : U16) (epaddr : Byte) {s0 s : State} (hc0 : Keeps bl s0 s)
    (hb : bl ∉ [.out, .free, .mail, .dma, .topo, .fns] := by exact notMem_of ‹_ ∉ _› rfl) : Keeps bl s0 (bufCarveCmd ctx h epaddr s) := by
  unfold bufCarveCmd; try dsimp only
  repeat' (first | (with_reducible first | assumption | intro _ | exact notMem_of hb rfl | apply modCtx_keeps | apply assignPages_keeps | apply freeCarve_keeps | apply dedicatedPages_keeps | apply tget_keeps | apply bufRefusal_keeps | apply bufReply_keeps | apply reply_keeps | apply ctxKey_keeps | apply chan_keeps | apply sender_keeps | apply begun_keeps | apply Keeps.ite | apply KeepsO.ite | apply KeepsO.next | split) | ((with_reducible refine Keeps.mk ?_ ?_) <;> [skip; (cases bl <;> first | exact absurd (by decide) hb | rfl)]))

theorem bufReleaseFinish_keeps {bl : Block} (f : ℕ) (h : U16) (epaddr : Byte) {s0 s : State} (hc0 : Keeps bl s0 s)
    (hb : bl ∉ [.out, .mail, .front, .dma, .topo, .fns] := by exact notMem_of ‹_ ∉ _› rfl) : Keeps bl s0 (bufReleaseFinish f h epaddr s) := by
  unfold bufReleaseFinish; try dsimp only
  repeat' (first | (with_reducible first | assumption | intro _ | exact notMem_of hb rfl | apply bufReply_keeps | apply reply_keeps | apply modFn_keeps | apply modCtx_keeps | apply returnPages_keeps | apply unstage_keeps | apply epStages_keeps | apply itemsWhere_keeps | apply each_keeps | apply epQuiet_keeps | apply chan_keeps | apply sender_keeps | apply tget_keeps | apply ctxKey_keeps | apply Keeps.ite | apply KeepsO.ite | apply KeepsO.next | split) | ((with_reducible refine Keeps.mk ?_ ?_) <;> [skip; (cases bl <;> first | exact absurd (by decide) hb | rfl)]))

theorem bufReleaseCmd_keeps {bl : Block} (ctx : CmdCtx) (h : U16) (epaddr : Byte) {s0 s : State} (hc0 : Keeps bl s0 s)
    (hb : bl ∉ [.out, .mail, .front, .dma, .topo, .fns] := by exact notMem_of ‹_ ∉ _› rfl) : Keeps bl s0 (bufReleaseCmd ctx h epaddr s) := by
  unfold bufReleaseCmd; try dsimp only
  repeat' (first | (with_reducible first | assumption | intro _ | exact notMem_of hb rfl | apply modCtx_keeps | apply bufReleaseFinish_keeps | apply modFn_keeps | apply tget_keeps | apply bufRefusal_keeps | apply bufReply_keeps | apply reply_keeps | apply ctxKey_keeps | apply chan_keeps | apply sender_keeps | apply begun_keeps | apply Keeps.ite | apply KeepsO.ite | apply KeepsO.next | split) | ((with_reducible refine Keeps.mk ?_ ?_) <;> [skip; (cases bl <;> first | exact absurd (by decide) hb | rfl)]))

end Sys2Proof.Machine
end

