-- ==== Sys2Proof/Laws/KeepsBlocks.lean ====
section
/-! SUPPORT. Which blocks of the state an operation leaves as they are, continued: the operations of trees, slots, admission, faults, attach, engines and the wire. -/

set_option linter.unusedTactic false
set_option linter.unreachableTactic false

namespace Sys2Proof.Machine

set_option Elab.async false

theorem modHubPort_keeps {bl : Block} (h : ℕ) (q : ℕ) (g : HubPort → HubPort) {s0 s : State} (hc0 : Keeps bl s0 s)
    (hb : bl ∉ [.topo] := by exact notMem_of ‹_ ∉ _› rfl) : Keeps bl s0 (modHubPort h q g s) := by
  unfold modHubPort; try dsimp only
  repeat' (first | (with_reducible first | assumption | intro _ | exact notMem_of hb rfl | apply tget_keeps | apply tput_keeps | apply modDev_keeps | apply Keeps.ite | apply KeepsO.ite | apply KeepsO.next | split) | ((with_reducible refine Keeps.mk ?_ ?_) <;> [skip; (cases bl <;> first | exact absurd (by decide) hb | rfl)]))

theorem hubRequest_keeps {bl : Block} (h : ℕ) (code : ℕ) (byte1 : ℕ) (arg0 : ℕ) (q : ℕ) {s0 s : State} (hc0 : Keeps bl s0 s)
    (hb : bl ∉ [.front, .topo] := by exact notMem_of ‹_ ∉ _› rfl) : Keeps bl s0 (hubRequest h code byte1 arg0 q s) := by
  unfold hubRequest; try dsimp only
  repeat' (with_reducible first | assumption | intro _ | exact notMem_of hb rfl | apply request_keeps | apply Keeps.ite | apply KeepsO.ite | apply KeepsO.next | split)

theorem setFeature_keeps {bl : Block} (h : ℕ) (feature : ℕ) (q : ℕ) {s0 s : State} (hc0 : Keeps bl s0 s)
    (hb : bl ∉ [.front, .topo] := by exact notMem_of ‹_ ∉ _› rfl) : Keeps bl s0 (setFeature h feature q s) := by
  unfold setFeature; try dsimp only
  repeat' (with_reducible first | assumption | intro _ | exact notMem_of hb rfl | apply hubRequest_keeps | apply Keeps.ite | apply KeepsO.ite | apply KeepsO.next | split)

theorem clearFeature_keeps {bl : Block} (h : ℕ) (feature : ℕ) (q : ℕ) {s0 s : State} (hc0 : Keeps bl s0 s)
    (hb : bl ∉ [.front, .topo] := by exact notMem_of ‹_ ∉ _› rfl) : Keeps bl s0 (clearFeature h feature q s) := by
  unfold clearFeature; try dsimp only
  repeat' (with_reducible first | assumption | intro _ | exact notMem_of hb rfl | apply hubRequest_keeps | apply Keeps.ite | apply KeepsO.ite | apply KeepsO.next | split)

theorem clearTt_keeps {bl : Block} (h : ℕ) (q : ℕ) {s0 s : State} (hc0 : Keeps bl s0 s)
    (hb : bl ∉ [.front, .topo] := by exact notMem_of ‹_ ∉ _› rfl) : Keeps bl s0 (clearTt h q s) := by
  unfold clearTt; try dsimp only
  repeat' (with_reducible first | assumption | intro _ | exact notMem_of hb rfl | apply hubRequest_keeps | apply Keeps.ite | apply KeepsO.ite | apply KeepsO.next | split)

theorem addReport_keeps {bl : Block} (r : Report) {s0 s : State} (hc0 : Keeps bl s0 s)
    (hb : bl ∉ [.topo] := by exact notMem_of ‹_ ∉ _› rfl) : Keeps bl s0 (addReport r s) := by
  unfold addReport; try dsimp only
  repeat' (first | (with_reducible first | assumption | intro _ | exact notMem_of hb rfl | apply posNow_keeps | apply port_keeps | apply Keeps.ite | apply KeepsO.ite | apply KeepsO.next | split) | ((with_reducible refine Keeps.mk ?_ ?_) <;> [skip; (cases bl <;> first | exact absurd (by decide) hb | rfl)]))

theorem addRecord_keeps {bl : Block} (r : Report) {s0 s : State} (hc0 : Keeps bl s0 s)
    (hb : bl ∉ [.out, .eic, .topo, .fns] := by exact notMem_of ‹_ ∉ _› rfl) : Keeps bl s0 (addRecord r s) := by
  unfold addRecord; try dsimp only
  repeat' (first | (with_reducible first | assumption | intro _ | exact notMem_of hb rfl | apply addReport_keeps | apply reportBit_keeps | apply port_keeps | apply raisePort_keeps | apply Keeps.ite | apply KeepsO.ite | apply KeepsO.next | split) | ((with_reducible refine Keeps.mk ?_ ?_) <;> [skip; (cases bl <;> first | exact absurd (by decide) hb | rfl)]))

theorem portEvent_keeps {bl : Block} (p : ℕ) (b : ℕ) {s0 s : State} (hc0 : Keeps bl s0 s)
    (hb : bl ∉ [.out, .eic, .topo, .fns] := by exact notMem_of ‹_ ∉ _› rfl) : Keeps bl s0 (portEvent p b s) := by
  unfold portEvent; try dsimp only
  repeat' (with_reducible first | assumption | intro _ | exact notMem_of hb rfl | apply port_keeps | apply addReport_keeps | apply raisePort_keeps | apply Keeps.ite | apply KeepsO.ite | apply KeepsO.next | split)

theorem takeHandle_keeps {bl : Block} {s0 s t : State} {n : Nat} (e : takeHandle s = some (n, t)) (hc0 : Keeps bl s0 s)
    (hb : bl ∉ [.topo] := by exact notMem_of ‹_ ∉ _› rfl) : Keeps bl s0 t := by
  refine Keeps.trans hc0 ?_
  unfold takeHandle at e
  split at e
  · cases e; cases bl <;> first | exact absurd (by decide) hb | rfl
  · split at e
    · cases e; cases bl <;> first | exact absurd (by decide) hb | rfl
    · split at e
      · cases e; cases bl <;> first | exact absurd (by decide) hb | rfl
      · cases e

theorem untakeHandle_keeps {bl : Block} (n : ℕ) {s0 s : State} (hc0 : Keeps bl s0 s)
    (hb : bl ∉ [.topo] := by exact notMem_of ‹_ ∉ _› rfl) : Keeps bl s0 (untakeHandle n s) := by
  unfold untakeHandle; try dsimp only
  repeat' (first | (with_reducible first | assumption | intro _ | exact notMem_of hb rfl | apply modHandle_keeps | apply Keeps.ite | apply KeepsO.ite | apply KeepsO.next | split) | ((with_reducible refine Keeps.mk ?_ ?_) <;> [skip; (cases bl <;> first | exact absurd (by decide) hb | rfl)]))

theorem forgetSq_keeps {bl : Block} (f : ℕ) (q : ℕ) {s0 s : State} (hc0 : Keeps bl s0 s)
    (hb : bl ∉ [.topo] := by exact notMem_of ‹_ ∉ _› rfl) : Keeps bl s0 (forgetSq f q s) := by
  unfold forgetSq; try dsimp only
  repeat' (first | (with_reducible first | assumption | intro _ | exact notMem_of hb rfl | apply handle_keeps | apply Keeps.ite | apply KeepsO.ite | apply KeepsO.next | split) | ((with_reducible refine Keeps.mk ?_ ?_) <;> [skip; (cases bl <;> first | exact absurd (by decide) hb | rfl)]))

theorem enliven_keeps {bl : Block} (n : ℕ) (owner : ℕ) (isHub : Bool) {s0 s : State} (hc0 : Keeps bl s0 s)
    (hb : bl ∉ [.topo] := by exact notMem_of ‹_ ∉ _› rfl) : Keeps bl s0 (enliven n owner isHub s) := by
  unfold enliven; try dsimp only
  repeat' (first | (with_reducible first | assumption | intro _ | exact notMem_of hb rfl | apply tput_keeps | apply tdel_keeps | apply live_keeps | apply modHandle_keeps | apply Keeps.ite | apply KeepsO.ite | apply KeepsO.next | split) | ((with_reducible refine Keeps.mk ?_ ?_) <;> [skip; (cases bl <;> first | exact absurd (by decide) hb | rfl)]))

theorem refreshIso_keeps {bl : Block} {s0 s : State} (hc0 : Keeps bl s0 s)
    (hb : bl ∉ [.out, .eic, .fns] := by exact notMem_of ‹_ ∉ _› rfl) : Keeps bl s0 (refreshIso s) := by
  unfold refreshIso; try dsimp only
  repeat' (first | (with_reducible first | assumption | intro _ | exact notMem_of hb rfl | apply modFn_keeps | apply raiseVf_keeps | apply ownsVoid_keeps | apply fn_keeps | apply each_keeps | apply Keeps.ite | apply KeepsO.ite | apply KeepsO.next | split) | ((with_reducible refine Keeps.mk ?_ ?_) <;> [skip; (cases bl <;> first | exact absurd (by decide) hb | rfl)]))

theorem dropRes_keeps {bl : Block} (p : Rung → Bool) {s0 s : State} (hc0 : Keeps bl s0 s)
    (hb : bl ∉ [.sch] := by exact notMem_of ‹_ ∉ _› rfl) : Keeps bl s0 (dropRes p s) := by
  unfold dropRes; try dsimp only
  repeat' (first | (with_reducible first | assumption | intro _ | exact notMem_of hb rfl | apply tfind_keeps | apply Keeps.ite | apply KeepsO.ite | apply KeepsO.next | split) | ((with_reducible refine Keeps.mk ?_ ?_) <;> [skip; (cases bl <;> first | exact absurd (by decide) hb | rfl)]))

theorem endDevice_keeps {bl : Block} (num : ℕ) (st : Byte) {s0 s : State} (hc0 : Keeps bl s0 s)
    (hb : bl ∉ [.mail, .sch, .front, .dma, .tb, .topo] := by exact notMem_of ‹_ ∉ _› rfl) : Keeps bl s0 (endDevice num st s) := by
  unfold endDevice; try dsimp only
  repeat' (with_reducible first | assumption | intro _ | exact notMem_of hb rfl | apply postItem_keeps | apply stopItem_keeps | apply finish_keeps | apply stDeviceGone_keeps | apply each_keeps | apply handleWord_keeps | apply handle_keeps | apply itemsWhere_keeps | apply Keeps.ite | apply KeepsO.ite | apply KeepsO.next | split)

theorem freeDedicated_keeps {bl : Block} (k : ℕ) (c : Ctx) {s0 s : State} (hc0 : Keeps bl s0 s)
    (hb : bl ∉ [.out, .mail, .dma, .topo, .fns] := by exact notMem_of ‹_ ∉ _› rfl) : Keeps bl s0 (freeDedicated k c s) := by
  unfold freeDedicated; try dsimp only
  repeat' (first | (with_reducible first | assumption | intro _ | exact notMem_of hb rfl | apply modFn_keeps | apply bufReply_keeps | apply reply_keeps | apply chan_keeps | apply sender_keeps | apply modCtx_keeps | apply returnPages_keeps | apply Keeps.ite | apply KeepsO.ite | apply KeepsO.next | split) | ((with_reducible refine Keeps.mk ?_ ?_) <;> [skip; (cases bl <;> first | exact absurd (by decide) hb | rfl)]))

theorem closeCtxs_keeps {bl : Block} (num : ℕ) {s0 s : State} (hc0 : Keeps bl s0 s)
    (hb : bl ∉ [.out, .mail, .sch, .front, .dma, .tb, .topo, .fns] := by exact notMem_of ‹_ ∉ _› rfl) : Keeps bl s0 (closeCtxs num s) := by
  unfold closeCtxs; try dsimp only
  repeat' (first | (with_reducible first | assumption | intro _ | exact notMem_of hb rfl | apply dropRequests_keeps | apply freeDedicated_keeps | apply each_keeps | apply Keeps.ite | apply KeepsO.ite | apply KeepsO.next | split) | ((with_reducible refine Keeps.mk ?_ ?_) <;> [skip; (cases bl <;> first | exact absurd (by decide) hb | rfl)]))

theorem modCtxs_keeps {bl : Block} (num : ℕ) (g : ℕ → Ctx → Ctx) {s0 s : State} (hc0 : Keeps bl s0 s)
    (hb : bl ∉ [.topo] := by exact notMem_of ‹_ ∉ _› rfl) : Keeps bl s0 (modCtxs num g s) := by
  unfold modCtxs; try dsimp only
  repeat' (first | (with_reducible first | assumption | intro _ | exact notMem_of hb rfl | apply Keeps.ite | apply KeepsO.ite | apply KeepsO.next | split) | ((with_reducible refine Keeps.mk ?_ ?_) <;> [skip; (cases bl <;> first | exact absurd (by decide) hb | rfl)]))

theorem shutEps_keeps {bl : Block} (num : ℕ) {s0 s : State} (hc0 : Keeps bl s0 s)
    (hb : bl ∉ [.out, .mail, .sch, .front, .dma, .tb, .topo, .fns] := by exact notMem_of ‹_ ∉ _› rfl) : Keeps bl s0 (shutEps num s) := by
  unfold shutEps; try dsimp only
  repeat' (first | (with_reducible first | assumption | intro _ | exact notMem_of hb rfl | apply modCtxs_keeps | apply dropRequests_keeps | apply freeDedicated_keeps | apply each_keeps | apply Keeps.ite | apply KeepsO.ite | apply KeepsO.next | split) | ((with_reducible refine Keeps.mk ?_ ?_) <;> [skip; (cases bl <;> first | exact absurd (by decide) hb | rfl)]))

theorem deviceDefault_keeps {bl : Block} (num : ℕ) {s0 s : State} (hc0 : Keeps bl s0 s)
    (hb : bl ∉ [.topo] := by exact notMem_of ‹_ ∉ _› rfl) : Keeps bl s0 (deviceDefault num s) := by
  unfold deviceDefault; try dsimp only
  repeat' (first | (with_reducible first | assumption | intro _ | exact notMem_of hb rfl | apply maxPayload_keeps | apply modCtxs_keeps | apply Keeps.ite | apply KeepsO.ite | apply KeepsO.next | split) | ((with_reducible refine Keeps.mk ?_ ?_) <;> [skip; (cases bl <;> first | exact absurd (by decide) hb | rfl)]))

theorem endScripts_keeps {bl : Block} (num : ℕ) {s0 s : State} (hc0 : Keeps bl s0 s)
    (hb : bl ∉ [.eng] := by exact notMem_of ‹_ ∉ _› rfl) : Keeps bl s0 (endScripts num s) := by
  unfold endScripts; try dsimp only
  repeat' (first | (with_reducible first | assumption | intro _ | exact notMem_of hb rfl | apply eng_keeps | apply worksFor_keeps | apply Keeps.ite | apply KeepsO.ite | apply KeepsO.next | split) | ((with_reducible refine Keeps.mk ?_ ?_) <;> [skip; (cases bl <;> first | exact absurd (by decide) hb | rfl)]))

theorem attachRecord_keeps {bl : Block} (num : ℕ) (d : Device) {s0 s : State} (hc0 : Keeps bl s0 s)
    (hb : bl ∉ [.out, .eic, .topo, .fns] := by exact notMem_of ‹_ ∉ _› rfl) : Keeps bl s0 (attachRecord num d s) := by
  unfold attachRecord; try dsimp only
  repeat' (with_reducible first | assumption | intro _ | exact notMem_of hb rfl | apply deviceReport_keeps | apply addRecord_keeps | apply Keeps.ite | apply KeepsO.ite | apply KeepsO.next | split)

theorem tearOne_keeps {bl : Block} (st : Byte) (num : ℕ) {s0 s : State} (hc0 : Keeps bl s0 s)
    (hb : bl ∉ [.out, .eic, .mail, .eng, .sch, .front, .dma, .tb, .topo, .fns] := by exact notMem_of ‹_ ∉ _› rfl) : Keeps bl s0 (tearOne st num s) := by
  unfold tearOne; try dsimp only
  repeat' (first | (with_reducible first | assumption | intro _ | exact notMem_of hb rfl | apply tdel_keeps | apply recordSqs_keeps | apply modHandle_keeps | apply deviceReport_keeps | apply addRecord_keeps | apply port_keeps | apply clearTt_keeps | apply closeCtxs_keeps | apply handle_keeps | apply dropRes_keeps | apply endDevice_keeps | apply endScripts_keeps | apply ownerOf_keeps | apply enliven_keeps | apply attachRecord_keeps | apply Keeps.ite | apply KeepsO.ite | apply KeepsO.next | split) | ((with_reducible refine Keeps.mk ?_ ?_) <;> [skip; (cases bl <;> first | exact absurd (by decide) hb | rfl)]))

theorem abandonEnum_keeps {bl : Block} (at_ : Loc) (lost : Bool) {s0 s : State} (hc0 : Keeps bl s0 s)
    (hb : bl ∉ [.out, .eic, .mail, .sch, .front, .dma, .tb, .topo, .fns] := by exact notMem_of ‹_ ∉ _› rfl) : Keeps bl s0 (abandonEnum at_ lost s) := by
  unfold abandonEnum; try dsimp only
  repeat' (first | (with_reducible first | assumption | intro _ | exact notMem_of hb rfl | apply closeCtxs_keeps | apply untakeHandle_keeps | apply clearTt_keeps | apply setDev_keeps | apply enliven_keeps | apply attachRecord_keeps | apply enumDevice_keeps | apply port_keeps | apply under_keeps | apply modPort_keeps | apply locPort_keeps | apply Keeps.ite | apply KeepsO.ite | apply KeepsO.next | split) | ((with_reducible refine Keeps.mk ?_ ?_) <;> [skip; (cases bl <;> first | exact absurd (by decide) hb | rfl)]))

theorem unparkAborts_keeps {bl : Block} (at_ : Loc) (lost : Bool) {s0 s : State} (hc0 : Keeps bl s0 s)
    (hb : bl ∉ [.front] := by exact notMem_of ‹_ ∉ _› rfl) : Keeps bl s0 (unparkAborts at_ lost s) := by
  unfold unparkAborts; try dsimp only
  repeat' (first | (with_reducible first | assumption | intro _ | exact notMem_of hb rfl | apply stDeviceGone_keeps | apply stPortReset_keeps | apply under_keeps | apply Keeps.ite | apply KeepsO.ite | apply KeepsO.next | split) | ((with_reducible refine Keeps.mk ?_ ?_) <;> [skip; (cases bl <;> first | exact absurd (by decide) hb | rfl)]))

theorem answerTopo_keeps {bl : Block} (p : TopoPending → Bool) (res : ℕ) {s0 s : State} (hc0 : Keeps bl s0 s)
    (hb : bl ∉ [.out, .mail, .topo, .fns] := by exact notMem_of ‹_ ∉ _› rfl) : Keeps bl s0 (answerTopo p res s) := by
  unfold answerTopo; try dsimp only
  repeat' (first | (with_reducible first | assumption | intro _ | exact notMem_of hb rfl | apply handle_keeps | apply port_keeps | apply topoReply_keeps | apply reply_keeps | apply each_keeps | apply Keeps.ite | apply KeepsO.ite | apply KeepsO.next | split) | ((with_reducible refine Keeps.mk ?_ ?_) <;> [skip; (cases bl <;> first | exact absurd (by decide) hb | rfl)]))

theorem abandonCmds_keeps {bl : Block} (at_ : Loc) {s0 s : State} (hc0 : Keeps bl s0 s)
    (hb : bl ∉ [.out, .mail, .topo, .fns] := by exact notMem_of ‹_ ∉ _› rfl) : Keeps bl s0 (abandonCmds at_ s) := by
  unfold abandonCmds; try dsimp only
  repeat' (with_reducible first | assumption | intro _ | exact notMem_of hb rfl | apply answerTopo_keeps | apply locPath_keeps | apply locPort_keeps | apply waitLoc_keeps | apply Keeps.ite | apply KeepsO.ite | apply KeepsO.next | split)

theorem beginHubReset_keeps {bl : Block} (h : ℕ) (q : ℕ) {s0 s : State} (hc0 : Keeps bl s0 s)
    (hb : bl ∉ [.front, .topo] := by exact notMem_of ‹_ ∉ _› rfl) : Keeps bl s0 (beginHubReset h q s) := by
  unfold beginHubReset; try dsimp only
  repeat' (first | (with_reducible first | assumption | intro _ | exact notMem_of hb rfl | apply setFeature_keeps | apply modHubPort_keeps | apply clearTt_keeps | apply Keeps.ite | apply KeepsO.ite | apply KeepsO.next | split) | ((with_reducible refine Keeps.mk ?_ ?_) <;> [skip; (cases bl <;> first | exact absurd (by decide) hb | rfl)]))

theorem startNext_keeps {bl : Block} (p : ℕ) {s0 s : State} (hc0 : Keeps bl s0 s)
    (hb : bl ∉ [.front, .topo] := by exact notMem_of ‹_ ∉ _› rfl) : Keeps bl s0 (startNext p s) := by
  unfold startNext; try dsimp only
  repeat' (first | (with_reducible first | assumption | intro _ | exact notMem_of hb rfl | apply beginHubReset_keeps | apply modPort_keeps | apply firstLoc_keeps | apply reportsFull_keeps | apply treeBusy_keeps | apply port_keeps | apply Keeps.ite | apply KeepsO.ite | apply KeepsO.next | split) | ((with_reducible refine Keeps.mk ?_ ?_) <;> [skip; (cases bl <;> first | exact absurd (by decide) hb | rfl)]))

theorem clearLane_keeps {bl : Block} (p : ℕ) {s0 s : State} (hc0 : Keeps bl s0 s)
    (hb : bl ∉ [.mail, .sch, .front, .dma, .tb, .topo] := by exact notMem_of ‹_ ∉ _› rfl) : Keeps bl s0 (clearLane p s) := by
  unfold clearLane; try dsimp only
  repeat' (first | (with_reducible first | assumption | intro _ | exact notMem_of hb rfl | apply finish_keeps | apply modPort_keeps | apply workItem_keeps | apply port_keeps | apply Keeps.ite | apply KeepsO.ite | apply KeepsO.next | split) | ((with_reducible refine Keeps.mk ?_ ?_) <;> [skip; (cases bl <;> first | exact absurd (by decide) hb | rfl)]))

theorem unhold_keeps {bl : Block} (p : ℕ) {s0 s : State} (hc0 : Keeps bl s0 s)
    (hb : bl ∉ [.eng, .front, .topo] := by exact notMem_of ‹_ ∉ _› rfl) : Keeps bl s0 (unhold p s) := by
  unfold unhold; try dsimp only
  repeat' (first | (with_reducible first | assumption | intro _ | exact notMem_of hb rfl | apply tdel_keeps | apply postItem_keeps | apply openItems_keeps | apply each_keeps | apply tfind_keeps | apply eng_keeps | apply Keeps.ite | apply KeepsO.ite | apply KeepsO.next | split) | ((with_reducible refine Keeps.mk ?_ ?_) <;> [skip; (cases bl <;> first | exact absurd (by decide) hb | rfl)]))

theorem beginRootReset_keeps {bl : Block} (p : ℕ) {s0 s : State} (hc0 : Keeps bl s0 s)
    (hb : bl ∉ [.out, .mail, .eng, .sch, .front, .dma, .tb, .topo] := by exact notMem_of ‹_ ∉ _› rfl) : Keeps bl s0 (beginRootReset p s) := by
  unfold beginRootReset; try dsimp only
  repeat' (first | (with_reducible first | assumption | intro _ | exact notMem_of hb rfl | apply highZ_keeps | apply emit_keeps | apply port_keeps | apply serdesSide_keeps | apply genCap_keeps | apply portIdle_keeps | apply modPort_keeps | apply clearLane_keeps | apply unhold_keeps | apply Keeps.ite | apply KeepsO.ite | apply KeepsO.next | split) | ((with_reducible refine Keeps.mk ?_ ?_) <;> [skip; (cases bl <;> first | exact absurd (by decide) hb | rfl)]))

theorem beginDue_keeps {bl : Block} (p : ℕ) {s0 s : State} (hc0 : Keeps bl s0 s)
    (hb : bl ∉ [.out, .mail, .eng, .sch, .front, .dma, .tb, .topo] := by exact notMem_of ‹_ ∉ _› rfl) : Keeps bl s0 (beginDue p s) := by
  unfold beginDue; try dsimp only
  repeat' (with_reducible first | assumption | intro _ | exact notMem_of hb rfl | apply startNext_keeps | apply beginRootReset_keeps | apply port_keeps | apply Keeps.ite | apply KeepsO.ite | apply KeepsO.next | split)

theorem startRootReset_keeps {bl : Block} (p : ℕ) {s0 s : State} (hc0 : Keeps bl s0 s)
    (hb : bl ∉ [.out, .mail, .eng, .sch, .front, .dma, .tb, .topo] := by exact notMem_of ‹_ ∉ _› rfl) : Keeps bl s0 (startRootReset p s) := by
  unfold startRootReset; try dsimp only
  repeat' (first | (with_reducible first | assumption | intro _ | exact notMem_of hb rfl | apply modPort_keeps | apply beginDue_keeps | apply Keeps.ite | apply KeepsO.ite | apply KeepsO.next | split) | ((with_reducible refine Keeps.mk ?_ ?_) <;> [skip; (cases bl <;> first | exact absurd (by decide) hb | rfl)]))

theorem queueHub_keeps {bl : Block} (l : Loc) {s0 s : State} (hc0 : Keeps bl s0 s)
    (hb : bl ∉ [.out, .mail, .eng, .sch, .front, .dma, .tb, .topo] := by exact notMem_of ‹_ ∉ _› rfl) : Keeps bl s0 (queueHub l s) := by
  unfold queueHub; try dsimp only
  repeat' (first | (with_reducible first | assumption | intro _ | exact notMem_of hb rfl | apply modPort_keeps | apply beginDue_keeps | apply locPort_keeps | apply Keeps.ite | apply KeepsO.ite | apply KeepsO.next | split) | ((with_reducible refine Keeps.mk ?_ ?_) <;> [skip; (cases bl <;> first | exact absurd (by decide) hb | rfl)]))

theorem retryRefused_keeps {bl : Block} {s0 s : State} (hc0 : Keeps bl s0 s)
    (hb : bl ∉ [.out, .mail, .eng, .sch, .front, .dma, .tb, .topo] := by exact notMem_of ‹_ ∉ _› rfl) : Keeps bl s0 (retryRefused s) := by
  unfold retryRefused; try dsimp only
  repeat' (first | (with_reducible first | assumption | intro _ | exact notMem_of hb rfl | apply modHubPort_keeps | apply queueHub_keeps | apply modPort_keeps | apply startRootReset_keeps | apply locAttach_keeps | apply Keeps.ite | apply KeepsO.ite | apply KeepsO.next | split) | ((with_reducible refine Keeps.mk ?_ ?_) <;> [skip; (cases bl <;> first | exact absurd (by decide) hb | rfl)]))

theorem tearDown_keeps {bl : Block} (at_ : Loc) (st : Byte) {s0 s : State} (hc0 : Keeps bl s0 s)
    (hb : bl ∉ [.out, .eic, .mail, .eng, .sch, .front, .dma, .tb, .topo, .fns] := by exact notMem_of ‹_ ∉ _› rfl) : Keeps bl s0 (tearDown at_ st s) := by
  unfold tearDown; try dsimp only
  repeat' (with_reducible first | assumption | intro _ | exact notMem_of hb rfl | apply retryRefused_keeps | apply tearOne_keeps | apply each_keeps | apply refreshIso_keeps | apply subtree_keeps | apply unparkAborts_keeps | apply abandonEnum_keeps | apply enumHolds_keeps | apply stDeviceGone_keeps | apply Keeps.ite | apply KeepsO.ite | apply KeepsO.next | split)

theorem portOff_keeps {bl : Block} (p : ℕ) {s0 s : State} (hc0 : Keeps bl s0 s)
    (hb : bl ∉ [.mail, .eng, .sch, .front, .dma, .tb, .topo] := by exact notMem_of ‹_ ∉ _› rfl) : Keeps bl s0 (portOff p s) := by
  unfold portOff; try dsimp only
  repeat' (first | (with_reducible first | assumption | intro _ | exact notMem_of hb rfl | apply clearLane_keeps | apply unhold_keeps | apply portIdle_keeps | apply modPort_keeps | apply Keeps.ite | apply KeepsO.ite | apply KeepsO.next | split) | ((with_reducible refine Keeps.mk ?_ ?_) <;> [skip; (cases bl <;> first | exact absurd (by decide) hb | rfl)]))

theorem portGone_keeps {bl : Block} (p : ℕ) (st : Byte) {s0 s : State} (hc0 : Keeps bl s0 s)
    (hb : bl ∉ [.out, .eic, .mail, .eng, .sch, .front, .dma, .tb, .topo, .fns] := by exact notMem_of ‹_ ∉ _› rfl) : Keeps bl s0 (portGone p st s) := by
  unfold portGone; try dsimp only
  repeat' (with_reducible first | assumption | intro _ | exact notMem_of hb rfl | apply abandonCmds_keeps | apply tearDown_keeps | apply portOff_keeps | apply emit_keeps | apply Keeps.ite | apply KeepsO.ite | apply KeepsO.next | split)

theorem hubPortGone_keeps {bl : Block} (h : ℕ) (q : ℕ) (st : Byte) {s0 s : State} (hc0 : Keeps bl s0 s)
    (hb : bl ∉ [.out, .eic, .mail, .eng, .sch, .front, .dma, .tb, .topo, .fns] := by exact notMem_of ‹_ ∉ _› rfl) : Keeps bl s0 (hubPortGone h q st s) := by
  unfold hubPortGone; try dsimp only
  repeat' (first | (with_reducible first | assumption | intro _ | exact notMem_of hb rfl | apply modHubPort_keeps | apply startNext_keeps | apply abandonCmds_keeps | apply tearDown_keeps | apply locPort_keeps | apply Keeps.ite | apply KeepsO.ite | apply KeepsO.next | split) | ((with_reducible refine Keeps.mk ?_ ?_) <;> [skip; (cases bl <;> first | exact absurd (by decide) hb | rfl)]))

theorem locGone_keeps {bl : Block} (at_ : Loc) (st : Byte) {s0 s : State} (hc0 : Keeps bl s0 s)
    (hb : bl ∉ [.out, .eic, .mail, .eng, .sch, .front, .dma, .tb, .topo, .fns] := by exact notMem_of ‹_ ∉ _› rfl) : Keeps bl s0 (locGone at_ st s) := by
  unfold locGone; try dsimp only
  repeat' (with_reducible first | assumption | intro _ | exact notMem_of hb rfl | apply hubPortGone_keeps | apply portGone_keeps | apply Keeps.ite | apply KeepsO.ite | apply KeepsO.next | split)

theorem babbleDisable_keeps {bl : Block} (p : ℕ) {s0 s : State} (hc0 : Keeps bl s0 s)
    (hb : bl ∉ [.out, .eic, .mail, .eng, .sch, .front, .dma, .tb, .topo, .fns] := by exact notMem_of ‹_ ∉ _› rfl) : Keeps bl s0 (babbleDisable p s) := by
  unfold babbleDisable; try dsimp only
  repeat' (first | (with_reducible first | assumption | intro _ | exact notMem_of hb rfl | apply stDeviceGone_keeps | apply portGone_keeps | apply portEvent_keeps | apply modPort_keeps | apply Keeps.ite | apply KeepsO.ite | apply KeepsO.next | split) | ((with_reducible refine Keeps.mk ?_ ?_) <;> [skip; (cases bl <;> first | exact absurd (by decide) hb | rfl)]))

theorem modSlot_keeps {bl : Block} (n : ℕ) (g : CardSlot → CardSlot) {s0 s : State} (hc0 : Keeps bl s0 s)
    (hb : bl ∉ [.slots] := by exact notMem_of ‹_ ∉ _› rfl) : Keeps bl s0 (modSlot n g s) := by
  unfold modSlot; try dsimp only
  repeat' (first | (with_reducible first | assumption | intro _ | exact notMem_of hb rfl | apply tput_keeps | apply slot_keeps | apply Keeps.ite | apply KeepsO.ite | apply KeepsO.next | split) | ((with_reducible refine Keeps.mk ?_ ?_) <;> [skip; (cases bl <;> first | exact absurd (by decide) hb | rfl)]))

theorem pctlSend_keeps {bl : Block} (g : ℕ) (typ : ℕ) (j : ℕ) (seq : U16) (payload : List Byte) {s0 s : State} (hc0 : Keeps bl s0 s)
    (hb : bl ∉ [.out] := by exact notMem_of ‹_ ∉ _› rfl) : Keeps bl s0 (pctlSend g typ j seq payload s) := by
  unfold pctlSend; try dsimp only
  repeat' (with_reducible first | assumption | intro _ | exact notMem_of hb rfl | apply pctlFrame_keeps | apply emit_keeps | apply Keeps.ite | apply KeepsO.ite | apply KeepsO.next | split)

theorem pctlEvent_keeps {bl : Block} (n : ℕ) (b : ℕ) {s0 s : State} (hc0 : Keeps bl s0 s)
    (hb : bl ∉ [.out, .slots] := by exact notMem_of ‹_ ∉ _› rfl) : Keeps bl s0 (pctlEvent n b s) := by
  unfold pctlEvent; try dsimp only
  repeat' (first | (with_reducible first | assumption | intro _ | exact notMem_of hb rfl | apply pctlSend_keeps | apply modDie_keeps | apply slotSts_keeps | apply die_keeps | apply dieOf_keeps | apply Keeps.ite | apply KeepsO.ite | apply KeepsO.next | split) | ((with_reducible refine Keeps.mk ?_ ?_) <;> [skip; (cases bl <;> first | exact absurd (by decide) hb | rfl)]))

theorem dieEvent_keeps {bl : Block} (n : ℕ) (b : ℕ) {s0 s : State} (hc0 : Keeps bl s0 s)
    (hb : bl ∉ [.out, .eic, .fns, .slots, .pwr] := by exact notMem_of ‹_ ∉ _› rfl) : Keeps bl s0 (dieEvent n b s) := by
  unfold dieEvent; try dsimp only
  repeat' (first | (with_reducible first | assumption | intro _ | exact notMem_of hb rfl | apply pctlEvent_keeps | apply evtWord_keeps | apply tput_keeps | apply raiseSlot_keeps | apply startWake_keeps | apply slotEn_keeps | apply hears_keeps | apply modSlot_keeps | apply die_keeps | apply dieOf_keeps | apply Keeps.ite | apply KeepsO.ite | apply KeepsO.next | split) | ((with_reducible refine Keeps.mk ?_ ?_) <;> [skip; (cases bl <;> first | exact absurd (by decide) hb | rfl)]))

theorem tellCore_keeps {bl : Block} (n : ℕ) (b : ℕ) {s0 s : State} (hc0 : Keeps bl s0 s)
    (hb : bl ∉ [.out] := by exact notMem_of ‹_ ∉ _› rfl) : Keeps bl s0 (tellCore n b s) := by
  unfold tellCore; try dsimp only
  repeat' (with_reducible first | assumption | intro _ | exact notMem_of hb rfl | apply emit_keeps | apply dieOf_keeps | apply hears_keeps | apply Keeps.ite | apply KeepsO.ite | apply KeepsO.next | split)

theorem endLastGasp_keeps {bl : Block} (n : ℕ) {s0 s : State} (hc0 : Keeps bl s0 s)
    (hb : bl ∉ [.topo] := by exact notMem_of ‹_ ∉ _› rfl) : Keeps bl s0 (endLastGasp n s) := by
  unfold endLastGasp; try dsimp only
  repeat' (first | (with_reducible first | assumption | intro _ | exact notMem_of hb rfl | apply modPort_keeps | apply Keeps.ite | apply KeepsO.ite | apply KeepsO.next | split) | ((with_reducible refine Keeps.mk ?_ ?_) <;> [skip; (cases bl <;> first | exact absurd (by decide) hb | rfl)]))

theorem slotTreeGone_keeps {bl : Block} (n : ℕ) {s0 s : State} (hc0 : Keeps bl s0 s)
    (hb : bl ∉ [.out, .eic, .mail, .eng, .sch, .front, .dma, .tb, .topo, .fns] := by exact notMem_of ‹_ ∉ _› rfl) : Keeps bl s0 (slotTreeGone n s) := by
  unfold slotTreeGone; try dsimp only
  repeat' (first | (with_reducible first | assumption | intro _ | exact notMem_of hb rfl | apply portGone_keeps | apply modPort_keeps | apply stDeviceGone_keeps | apply locGone_keeps | apply boundPorts_keeps | apply each_keeps | apply Keeps.ite | apply KeepsO.ite | apply KeepsO.next | split) | ((with_reducible refine Keeps.mk ?_ ?_) <;> [skip; (cases bl <;> first | exact absurd (by decide) hb | rfl)]))

theorem coreGateOff_keeps {bl : Block} (n : ℕ) {s0 s : State} (hc0 : Keeps bl s0 s)
    (hb : bl ∉ [.out, .eic, .mail, .eng, .sch, .front, .dma, .tb, .topo, .fns] := by exact notMem_of ‹_ ∉ _› rfl) : Keeps bl s0 (coreGateOff n s) := by
  unfold coreGateOff; try dsimp only
  repeat' (with_reducible first | assumption | intro _ | exact notMem_of hb rfl | apply slotTreeGone_keeps | apply dieOf_keeps | apply hears_keeps | apply Keeps.ite | apply KeepsO.ite | apply KeepsO.next | split)

theorem gateOff_keeps {bl : Block} (n : ℕ) (st : SlotState) {s0 s : State} (hc0 : Keeps bl s0 s)
    (hb : bl ∉ [.out, .eic, .fns, .slots, .pwr] := by exact notMem_of ‹_ ∉ _› rfl) : Keeps bl s0 (gateOff n st s) := by
  unfold gateOff; try dsimp only
  repeat' (first | (with_reducible first | assumption | intro _ | exact notMem_of hb rfl | apply dieEvent_keeps | apply now_keeps | apply modSlot_keeps | apply Keeps.ite | apply KeepsO.ite | apply KeepsO.next | split) | ((with_reducible refine Keeps.mk ?_ ?_) <;> [skip; (cases bl <;> first | exact absurd (by decide) hb | rfl)]))

theorem trip_keeps {bl : Block} (n : ℕ) (code : ℕ) (bySoa : Bool) (vout : BitVec 12) (vbus : BitVec 12) {s0 s : State} (hc0 : Keeps bl s0 s)
    (hb : bl ∉ [.out, .eic, .fns, .slots, .pwr] := by exact notMem_of ‹_ ∉ _› rfl) : Keeps bl s0 (trip n code bySoa vout vbus s) := by
  unfold trip; try dsimp only
  repeat' (first | (with_reducible first | assumption | intro _ | exact notMem_of hb rfl | apply tellCore_keeps | apply epoch32_keeps | apply modSlot_keeps | apply dieEvent_keeps | apply gateOff_keeps | apply slot_keeps | apply Keeps.ite | apply KeepsO.ite | apply KeepsO.next | split) | ((with_reducible refine Keeps.mk ?_ ?_) <;> [skip; (cases bl <;> first | exact absurd (by decide) hb | rfl)]))

theorem powerCheck_keeps {bl : Block} (n : ℕ) {s0 s : State} (hc0 : Keeps bl s0 s)
    (hb : bl ∉ [.slots] := by exact notMem_of ‹_ ∉ _› rfl) : Keeps bl s0 (powerCheck n s) := by
  unfold powerCheck; try dsimp only
  repeat' (first | (with_reducible first | assumption | intro _ | exact notMem_of hb rfl | apply rampBlocked_keeps | apply anyFeed_keeps | apply modSlot_keeps | apply slot_keeps | apply Keeps.ite | apply KeepsO.ite | apply KeepsO.next | split) | ((with_reducible refine Keeps.mk ?_ ?_) <;> [skip; (cases bl <;> first | exact absurd (by decide) hb | rfl)]))

theorem recheck_keeps {bl : Block} (g : ℕ) {s0 s : State} (hc0 : Keeps bl s0 s)
    (hb : bl ∉ [.slots] := by exact notMem_of ‹_ ∉ _› rfl) : Keeps bl s0 (recheck g s) := by
  unfold recheck; try dsimp only
  repeat' (with_reducible first | assumption | intro _ | exact notMem_of hb rfl | apply powerCheck_keeps | apply slot_keeps | apply each_keeps | apply Keeps.ite | apply KeepsO.ite | apply KeepsO.next | split)

theorem clearLatch_keeps {bl : Block} (n : ℕ) {s0 s : State} (hc0 : Keeps bl s0 s)
    (hb : bl ∉ [.slots] := by exact notMem_of ‹_ ∉ _› rfl) : Keeps bl s0 (clearLatch n s) := by
  unfold clearLatch; try dsimp only
  repeat' (first | (with_reducible first | assumption | intro _ | exact notMem_of hb rfl | apply modSlot_keeps | apply Keeps.ite | apply KeepsO.ite | apply KeepsO.next | split) | ((with_reducible refine Keeps.mk ?_ ?_) <;> [skip; (cases bl <;> first | exact absurd (by decide) hb | rfl)]))

theorem enSetOp_keeps {bl : Block} (n : ℕ) {s0 s : State} (hc0 : Keeps bl s0 s)
    (hb : bl ∉ [.slots] := by exact notMem_of ‹_ ∉ _› rfl) : Keeps bl s0 (enSetOp n s) := by
  unfold enSetOp; try dsimp only
  repeat' (first | (with_reducible first | assumption | intro _ | exact notMem_of hb rfl | apply clearLatch_keeps | apply powerCheck_keeps | apply modSlot_keeps | apply slot_keeps | apply Keeps.ite | apply KeepsO.ite | apply KeepsO.next | split) | ((with_reducible refine Keeps.mk ?_ ?_) <;> [skip; (cases bl <;> first | exact absurd (by decide) hb | rfl)]))

theorem enClearOp_keeps {bl : Block} (n : ℕ) {s0 s : State} (hc0 : Keeps bl s0 s)
    (hb : bl ∉ [.out, .eic, .mail, .eng, .sch, .front, .dma, .tb, .topo, .fns, .slots, .pwr] := by exact notMem_of ‹_ ∉ _› rfl) : Keeps bl s0 (enClearOp n s) := by
  unfold enClearOp; try dsimp only
  repeat' (first | (with_reducible first | assumption | intro _ | exact notMem_of hb rfl | apply gateOff_keeps | apply coreGateOff_keeps | apply modSlot_keeps | apply slot_keeps | apply Keeps.ite | apply KeepsO.ite | apply KeepsO.next | split) | ((with_reducible refine Keeps.mk ?_ ?_) <;> [skip; (cases bl <;> first | exact absurd (by decide) hb | rfl)]))

theorem cycleOp_keeps {bl : Block} (n : ℕ) {s0 s : State} (hc0 : Keeps bl s0 s)
    (hb : bl ∉ [.out, .eic, .mail, .eng, .sch, .front, .dma, .tb, .topo, .fns, .slots, .pwr] := by exact notMem_of ‹_ ∉ _› rfl) : Keeps bl s0 (cycleOp n s) := by
  unfold cycleOp; try dsimp only
  repeat' (with_reducible first | assumption | intro _ | exact notMem_of hb rfl | apply gateOff_keeps | apply coreGateOff_keeps | apply slot_keeps | apply Keeps.ite | apply KeepsO.ite | apply KeepsO.next | split)

theorem feedLost_keeps {bl : Block} (n : ℕ) (a : Bool) {s0 s : State} (hc0 : Keeps bl s0 s)
    (hb : bl ∉ [.out, .eic, .mail, .eng, .sch, .front, .dma, .tb, .topo, .fns, .slots, .pwr] := by exact notMem_of ‹_ ∉ _› rfl) : Keeps bl s0 (feedLost n a s) := by
  unfold feedLost; try dsimp only
  repeat' (first | (with_reducible first | assumption | intro _ | exact notMem_of hb rfl | apply gateOff_keeps | apply coreGateOff_keeps | apply anyFeed_keeps | apply slot_keeps | apply dieEvent_keeps | apply feedAOk_keeps | apply feedBOk_keeps | apply modSlot_keeps | apply Keeps.ite | apply KeepsO.ite | apply KeepsO.next | split) | ((with_reducible refine Keeps.mk ?_ ?_) <;> [skip; (cases bl <;> first | exact absurd (by decide) hb | rfl)]))

theorem feedBack_keeps {bl : Block} (n : ℕ) (a : Bool) {s0 s : State} (hc0 : Keeps bl s0 s)
    (hb : bl ∉ [.out, .eic, .fns, .slots, .pwr] := by exact notMem_of ‹_ ∉ _› rfl) : Keeps bl s0 (feedBack n a s) := by
  unfold feedBack; try dsimp only
  repeat' (first | (with_reducible first | assumption | intro _ | exact notMem_of hb rfl | apply powerCheck_keeps | apply slot_keeps | apply dieEvent_keeps | apply modSlot_keeps | apply Keeps.ite | apply KeepsO.ite | apply KeepsO.next | split) | ((with_reducible refine Keeps.mk ?_ ?_) <;> [skip; (cases bl <;> first | exact absurd (by decide) hb | rfl)]))

theorem withFeeds_keeps {bl : Block} (n : ℕ) (g : CardSlot → CardSlot) {s0 s : State} (hc0 : Keeps bl s0 s)
    (hb : bl ∉ [.out, .eic, .mail, .eng, .sch, .front, .dma, .tb, .topo, .fns, .slots, .pwr] := by exact notMem_of ‹_ ∉ _› rfl) : Keeps bl s0 (withFeeds n g s) := by
  unfold withFeeds; try dsimp only
  repeat' (with_reducible first | assumption | intro _ | exact notMem_of hb rfl | apply feedBOk_keeps | apply feedBack_keeps | apply feedLost_keeps | apply feedAOk_keeps | apply modSlot_keeps | apply slot_keeps | apply Keeps.ite | apply KeepsO.ite | apply KeepsO.next | split)

theorem telRestart_keeps {bl : Block} (n : ℕ) {s0 s : State} (hc0 : Keeps bl s0 s)
    (hb : bl ∉ [.slots] := by exact notMem_of ‹_ ∉ _› rfl) : Keeps bl s0 (telRestart n s) := by
  unfold telRestart; try dsimp only
  repeat' (first | (with_reducible first | assumption | intro _ | exact notMem_of hb rfl | apply tget_keeps | apply tput_keeps | apply modSlot_keeps | apply Keeps.ite | apply KeepsO.ite | apply KeepsO.next | split) | ((with_reducible refine Keeps.mk ?_ ?_) <;> [skip; (cases bl <;> first | exact absurd (by decide) hb | rfl)]))

theorem slotWrite_keeps {bl : Block} (n : ℕ) (off : ℕ) (v : U64) {s0 s : State} (hc0 : Keeps bl s0 s)
    (hb : bl ∉ [.out, .eic, .mail, .eng, .sch, .front, .dma, .tb, .topo, .fns, .slots, .pwr] := by exact notMem_of ‹_ ∉ _› rfl) : Keeps bl s0 (slotWrite n off v s) := by
  unfold slotWrite; try dsimp only
  repeat' (first | (with_reducible first | assumption | intro _ | exact notMem_of hb rfl | apply telRestart_keeps | apply tput_keeps | apply slotEn_keeps | apply withRises_keeps | apply clearEvt_keeps | apply modSlot_keeps | apply cycleOp_keeps | apply enClearOp_keeps | apply slot_keeps | apply enSetOp_keeps | apply withFeeds_keeps | apply Keeps.ite | apply KeepsO.ite | apply KeepsO.next | split) | ((with_reducible refine Keeps.mk ?_ ?_) <;> [skip; (cases bl <;> first | exact absurd (by decide) hb | rfl)]))

theorem powerCommand_keeps {bl : Block} (g : ℕ) (src : PowerSource) (j : ℕ) (off : ℕ) (v : U64) {s0 s : State} (hc0 : Keeps bl s0 s)
    (hb : bl ∉ [.out, .eic, .mail, .eng, .sch, .front, .dma, .tb, .topo, .fns, .slots, .pwr] := by exact notMem_of ‹_ ∉ _› rfl) : Keeps bl s0 (powerCommand g src j off v s) := by
  unfold powerCommand; try dsimp only
  repeat' (first | (with_reducible first | assumption | intro _ | exact notMem_of hb rfl | apply modSlot_keeps | apply slotWrite_keeps | apply hasAuthority_keeps | apply Keeps.ite | apply KeepsO.ite | apply KeepsO.next | split) | ((with_reducible refine Keeps.mk ?_ ?_) <;> [skip; (cases bl <;> first | exact absurd (by decide) hb | rfl)]))

theorem declareGood_keeps {bl : Block} (n : ℕ) {s0 s : State} (hc0 : Keeps bl s0 s)
    (hb : bl ∉ [.out, .eic, .fns, .slots, .pwr] := by exact notMem_of ‹_ ∉ _› rfl) : Keeps bl s0 (declareGood n s) := by
  unfold declareGood; try dsimp only
  repeat' (first | (with_reducible first | assumption | intro _ | exact notMem_of hb rfl | apply dieEvent_keeps | apply tellCore_keeps | apply anyFeed_keeps | apply modSlot_keeps | apply Keeps.ite | apply KeepsO.ite | apply KeepsO.next | split) | ((with_reducible refine Keeps.mk ?_ ?_) <;> [skip; (cases bl <;> first | exact absurd (by decide) hb | rfl)]))

theorem removalOp_keeps {bl : Block} (n : ℕ) {s0 s : State} (hc0 : Keeps bl s0 s)
    (hb : bl ∉ [.out, .eic, .fns, .slots, .pwr] := by exact notMem_of ‹_ ∉ _› rfl) : Keeps bl s0 (removalOp n s) := by
  unfold removalOp; try dsimp only
  repeat' (first | (with_reducible first | assumption | intro _ | exact notMem_of hb rfl | apply gateOff_keeps | apply dieEvent_keeps | apply tellCore_keeps | apply modSlot_keeps | apply slot_keeps | apply Keeps.ite | apply KeepsO.ite | apply KeepsO.next | split) | ((with_reducible refine Keeps.mk ?_ ?_) <;> [skip; (cases bl <;> first | exact absurd (by decide) hb | rfl)]))

theorem convert_keeps {bl : Block} (n : ℕ) (va : BitVec 12) (vb : BitVec 12) (vbus : BitVec 12) (vout : BitVec 12) (isense : BitVec 12) {s0 s : State} (hc0 : Keeps bl s0 s)
    (hb : bl ∉ [.free, .slots] := by exact notMem_of ‹_ ∉ _› rfl) : Keeps bl s0 (convert n va vb vbus vout isense s) := by
  unfold convert; try dsimp only
  repeat' (first | (with_reducible first | assumption | intro _ | exact notMem_of hb rfl | apply epoch32_keeps | apply modSlot_keeps | apply freshIndex_keeps | apply ioutOf_keeps | apply slot_keeps | apply Keeps.ite | apply KeepsO.ite | apply KeepsO.next | split) | ((with_reducible refine Keeps.mk ?_ ?_) <;> [skip; (cases bl <;> first | exact absurd (by decide) hb | rfl)]))

theorem reportKept_keeps {bl : Block} (n : ℕ) {s0 s : State} (hc0 : Keeps bl s0 s)
    (hb : bl ∉ [.out, .eic, .mail, .eng, .sch, .front, .dma, .tb, .topo, .fns, .slots, .pwr] := by exact notMem_of ‹_ ∉ _› rfl) : Keeps bl s0 (reportKept n s) := by
  unfold reportKept; try dsimp only
  repeat' (first | (with_reducible first | assumption | intro _ | exact notMem_of hb rfl | apply coreGateOff_keeps | apply tellCore_keeps | apply dieEvent_keeps | apply each_keeps | apply modSlot_keeps | apply slot_keeps | apply Keeps.ite | apply KeepsO.ite | apply KeepsO.next | split) | ((with_reducible refine Keeps.mk ?_ ?_) <;> [skip; (cases bl <;> first | exact absurd (by decide) hb | rfl)]))

theorem unpark_keeps {bl : Block} (g : ℕ) {s0 s : State} (hc0 : Keeps bl s0 s)
    (hb : bl ∉ [.out, .eic, .mail, .eng, .sch, .front, .dma, .tb, .topo, .fns, .slots, .pwr] := by exact notMem_of ‹_ ∉ _› rfl) : Keeps bl s0 (unpark g s) := by
  unfold unpark; try dsimp only
  repeat' (first | (with_reducible first | assumption | intro _ | exact notMem_of hb rfl | apply reportKept_keeps | apply each_keeps | apply recheck_keeps | apply modDie_keeps | apply die_keeps | apply Keeps.ite | apply KeepsO.ite | apply KeepsO.next | split) | ((with_reducible refine Keeps.mk ?_ ?_) <;> [skip; (cases bl <;> first | exact absurd (by decide) hb | rfl)]))

theorem keepAlive_keeps {bl : Block} (g : ℕ) {s0 s : State} (hc0 : Keeps bl s0 s)
    (hb : bl ∉ [.out, .eic, .mail, .eng, .sch, .front, .dma, .tb, .topo, .fns, .slots, .pwr] := by exact notMem_of ‹_ ∉ _› rfl) : Keeps bl s0 (keepAlive g s) := by
  unfold keepAlive; try dsimp only
  repeat' (with_reducible first | assumption | intro _ | exact notMem_of hb rfl | apply emit_keeps | apply unpark_keeps | apply Keeps.ite | apply KeepsO.ite | apply KeepsO.next | split)

theorem execMuleKeepalive_keeps {bl : Block} (g : DieId) {s0 s : State} (hc0 : Keeps bl s0 s)
    (hb : bl ∉ [.out, .eic, .mail, .eng, .sch, .front, .dma, .tb, .topo, .fns, .slots, .pwr] := by exact notMem_of ‹_ ∉ _› rfl) : KeepsO bl s0 (execMuleKeepalive g s) := by
  unfold execMuleKeepalive; try dsimp only
  repeat' (with_reducible first | assumption | intro _ | exact notMem_of hb rfl | apply keepAlive_keeps | apply live_keeps | apply guarded_keeps | apply Keeps.ite | apply KeepsO.ite | apply KeepsO.next | split)

theorem quietLegacy_keeps {bl : Block} (g : ℕ) {s0 s : State} (hc0 : Keeps bl s0 s)
    (hb : bl ∉ [.out] := by exact notMem_of ‹_ ∉ _› rfl) : Keeps bl s0 (quietLegacy g s) := by
  unfold quietLegacy; try dsimp only
  repeat' (with_reducible first | assumption | intro _ | exact notMem_of hb rfl | apply emit_keeps | apply serdes_keeps | apply port_keeps | apply each_keeps | apply Keeps.ite | apply KeepsO.ite | apply KeepsO.next | split)

theorem execCoreLostDeclare_keeps {bl : Block} (g : DieId) {s0 s : State} (hc0 : Keeps bl s0 s)
    (hb : bl ∉ [.out, .slots] := by exact notMem_of ‹_ ∉ _› rfl) : KeepsO bl s0 (execCoreLostDeclare g s) := by
  unfold execCoreLostDeclare; try dsimp only
  repeat' (first | (with_reducible first | assumption | intro _ | exact notMem_of hb rfl | apply quietLegacy_keeps | apply modDie_keeps | apply die_keeps | apply guarded_keeps | apply Keeps.ite | apply KeepsO.ite | apply KeepsO.next | split) | ((with_reducible refine Keeps.mk ?_ ?_) <;> [skip; (cases bl <;> first | exact absurd (by decide) hb | rfl)]))

theorem handOver_keeps {bl : Block} (g : ℕ) {s0 s : State} (hc0 : Keeps bl s0 s)
    (hb : bl ∉ [.out, .slots] := by exact notMem_of ‹_ ∉ _› rfl) : Keeps bl s0 (handOver g s) := by
  unfold handOver; try dsimp only
  repeat' (first | (with_reducible first | assumption | intro _ | exact notMem_of hb rfl | apply emit_keeps | apply modDie_keeps | apply die_keeps | apply hears_keeps | apply Keeps.ite | apply KeepsO.ite | apply KeepsO.next | split) | ((with_reducible refine Keeps.mk ?_ ?_) <;> [skip; (cases bl <;> first | exact absurd (by decide) hb | rfl)]))

theorem execHandOverCommand_keeps {bl : Block} (g : DieId) {s0 s : State} (hc0 : Keeps bl s0 s)
    (hb : bl ∉ [.out, .slots] := by exact notMem_of ‹_ ∉ _› rfl) : KeepsO bl s0 (execHandOverCommand g s) := by
  unfold execHandOverCommand; try dsimp only
  repeat' (with_reducible first | assumption | intro _ | exact notMem_of hb rfl | apply handOver_keeps | apply done_keeps | apply Keeps.ite | apply KeepsO.ite | apply KeepsO.next | split)

theorem execMulePowerCommand_keeps {bl : Block} (g : DieId) (src : PowerSource) (j : Fin 16) (offset : U16) (value : U64) {s0 s : State} (hc0 : Keeps bl s0 s)
    (hb : bl ∉ [.out, .eic, .mail, .eng, .sch, .front, .dma, .tb, .topo, .fns, .slots, .pwr] := by exact notMem_of ‹_ ∉ _› rfl) : KeepsO bl s0 (execMulePowerCommand g src j offset value s) := by
  unfold execMulePowerCommand; try dsimp only
  repeat' (with_reducible first | assumption | intro _ | exact notMem_of hb rfl | apply powerCommand_keeps | apply die_keeps | apply guarded_keeps | apply Keeps.ite | apply KeepsO.ite | apply KeepsO.next | split)

theorem execTelemetryReport_keeps {bl : Block} (n : SlotId) {s0 s : State} (hc0 : Keeps bl s0 s)
    (hb : bl ∉ [.slots] := by exact notMem_of ‹_ ∉ _› rfl) : KeepsO bl s0 (execTelemetryReport n s) := by
  unfold execTelemetryReport; try dsimp only
  repeat' (first | (with_reducible first | assumption | intro _ | exact notMem_of hb rfl | apply slot_keeps | apply tput_keeps | apply dieOf_keeps | apply hears_keeps | apply guarded_keeps | apply Keeps.ite | apply KeepsO.ite | apply KeepsO.next | split) | ((with_reducible refine Keeps.mk ?_ ?_) <;> [skip; (cases bl <;> first | exact absurd (by decide) hb | rfl)]))

theorem execPrsntNEdge_keeps {bl : Block} (n : SlotId) (high : Bool) {s0 s : State} (hc0 : Keeps bl s0 s)
    (hb : bl ∉ [.slots] := by exact notMem_of ‹_ ∉ _› rfl) : KeepsO bl s0 (execPrsntNEdge n high s) := by
  unfold execPrsntNEdge; try dsimp only
  repeat' (first | (with_reducible first | assumption | intro _ | exact notMem_of hb rfl | apply modSlot_keeps | apply slotPowered_keeps | apply guarded_keeps | apply Keeps.ite | apply KeepsO.ite | apply KeepsO.next | split) | ((with_reducible refine Keeps.mk ?_ ?_) <;> [skip; (cases bl <;> first | exact absurd (by decide) hb | rfl)]))

theorem execRemoval_keeps {bl : Block} (n : SlotId) {s0 s : State} (hc0 : Keeps bl s0 s)
    (hb : bl ∉ [.out, .eic, .fns, .slots, .pwr] := by exact notMem_of ‹_ ∉ _› rfl) : KeepsO bl s0 (execRemoval n s) := by
  unfold execRemoval; try dsimp only
  repeat' (with_reducible first | assumption | intro _ | exact notMem_of hb rfl | apply removalOp_keeps | apply slot_keeps | apply slotPowered_keeps | apply guarded_keeps | apply Keeps.ite | apply KeepsO.ite | apply KeepsO.next | split)

theorem execDebounceEnd_keeps {bl : Block} (n : SlotId) {s0 s : State} (hc0 : Keeps bl s0 s)
    (hb : bl ∉ [.out, .eic, .fns, .slots, .pwr] := by exact notMem_of ‹_ ∉ _› rfl) : KeepsO bl s0 (execDebounceEnd n s) := by
  unfold execDebounceEnd; try dsimp only
  repeat' (first | (with_reducible first | assumption | intro _ | exact notMem_of hb rfl | apply modSlot_keeps | apply powerCheck_keeps | apply dieEvent_keeps | apply slot_keeps | apply slotPowered_keeps | apply guarded_keeps | apply Keeps.ite | apply KeepsO.ite | apply KeepsO.next | split) | ((with_reducible refine Keeps.mk ?_ ?_) <;> [skip; (cases bl <;> first | exact absurd (by decide) hb | rfl)]))

theorem execMinOffExpiry_keeps {bl : Block} (n : SlotId) {s0 s : State} (hc0 : Keeps bl s0 s)
    (hb : bl ∉ [.slots] := by exact notMem_of ‹_ ∉ _› rfl) : KeepsO bl s0 (execMinOffExpiry n s) := by
  unfold execMinOffExpiry; try dsimp only
  repeat' (first | (with_reducible first | assumption | intro _ | exact notMem_of hb rfl | apply powerCheck_keeps | apply modSlot_keeps | apply slot_keeps | apply slotPowered_keeps | apply guarded_keeps | apply Keeps.ite | apply KeepsO.ite | apply KeepsO.next | split) | ((with_reducible refine Keeps.mk ?_ ?_) <;> [skip; (cases bl <;> first | exact absurd (by decide) hb | rfl)]))

theorem execFeedInvalid_keeps {bl : Block} (n : SlotId) (x : Feed) {s0 s : State} (hc0 : Keeps bl s0 s)
    (hb : bl ∉ [.out, .eic, .mail, .eng, .sch, .front, .dma, .tb, .topo, .fns, .slots, .pwr] := by exact notMem_of ‹_ ∉ _› rfl) : KeepsO bl s0 (execFeedInvalid n x s) := by
  unfold execFeedInvalid; try dsimp only
  repeat' (first | (with_reducible first | assumption | intro _ | exact notMem_of hb rfl | apply withFeeds_keeps | apply slotPowered_keeps | apply guarded_keeps | apply Keeps.ite | apply KeepsO.ite | apply KeepsO.next | split) | ((with_reducible refine Keeps.mk ?_ ?_) <;> [skip; (cases bl <;> first | exact absurd (by decide) hb | rfl)]))

theorem execFeedValid_keeps {bl : Block} (n : SlotId) (x : Feed) {s0 s : State} (hc0 : Keeps bl s0 s)
    (hb : bl ∉ [.out, .eic, .mail, .eng, .sch, .front, .dma, .tb, .topo, .fns, .slots, .pwr] := by exact notMem_of ‹_ ∉ _› rfl) : KeepsO bl s0 (execFeedValid n x s) := by
  unfold execFeedValid; try dsimp only
  repeat' (first | (with_reducible first | assumption | intro _ | exact notMem_of hb rfl | apply withFeeds_keeps | apply slotPowered_keeps | apply guarded_keeps | apply Keeps.ite | apply KeepsO.ite | apply KeepsO.next | split) | ((with_reducible refine Keeps.mk ?_ ?_) <;> [skip; (cases bl <;> first | exact absurd (by decide) hb | rfl)]))

theorem execOringReverse_keeps {bl : Block} (n : SlotId) (x : Feed) {s0 s : State} (hc0 : Keeps bl s0 s)
    (hb : bl ∉ [.out, .eic, .fns, .slots, .pwr] := by exact notMem_of ‹_ ∉ _› rfl) : KeepsO bl s0 (execOringReverse n x s) := by
  unfold execOringReverse; try dsimp only
  repeat' (first | (with_reducible first | assumption | intro _ | exact notMem_of hb rfl | apply modSlot_keeps | apply dieEvent_keeps | apply slot_keeps | apply slotPowered_keeps | apply guarded_keeps | apply Keeps.ite | apply KeepsO.ite | apply KeepsO.next | split) | ((with_reducible refine Keeps.mk ?_ ?_) <;> [skip; (cases bl <;> first | exact absurd (by decide) hb | rfl)]))

theorem execOringForward_keeps {bl : Block} (n : SlotId) (x : Feed) {s0 s : State} (hc0 : Keeps bl s0 s)
    (hb : bl ∉ [.slots] := by exact notMem_of ‹_ ∉ _› rfl) : KeepsO bl s0 (execOringForward n x s) := by
  unfold execOringForward; try dsimp only
  repeat' (first | (with_reducible first | assumption | intro _ | exact notMem_of hb rfl | apply feedBOk_keeps | apply feedAOk_keeps | apply modSlot_keeps | apply slot_keeps | apply slotPowered_keeps | apply guarded_keeps | apply Keeps.ite | apply KeepsO.ite | apply KeepsO.next | split) | ((with_reducible refine Keeps.mk ?_ ?_) <;> [skip; (cases bl <;> first | exact absurd (by decide) hb | rfl)]))

theorem execSlotEnSet_keeps {bl : Block} (n : SlotId) {s0 s : State} (hc0 : Keeps bl s0 s)
    (hb : bl ∉ [.slots] := by exact notMem_of ‹_ ∉ _› rfl) : KeepsO bl s0 (execSlotEnSet n s) := by
  unfold execSlotEnSet; try dsimp only
  repeat' (with_reducible first | assumption | intro _ | exact notMem_of hb rfl | apply enSetOp_keeps | apply slotPowered_keeps | apply guarded_keeps | apply Keeps.ite | apply KeepsO.ite | apply KeepsO.next | split)

theorem execSlotEnClear_keeps {bl : Block} (n : SlotId) {s0 s : State} (hc0 : Keeps bl s0 s)
    (hb : bl ∉ [.out, .eic, .mail, .eng, .sch, .front, .dma, .tb, .topo, .fns, .slots, .pwr] := by exact notMem_of ‹_ ∉ _› rfl) : KeepsO bl s0 (execSlotEnClear n s) := by
  unfold execSlotEnClear; try dsimp only
  repeat' (with_reducible first | assumption | intro _ | exact notMem_of hb rfl | apply enClearOp_keeps | apply slotPowered_keeps | apply guarded_keeps | apply Keeps.ite | apply KeepsO.ite | apply KeepsO.next | split)

theorem execCycle_keeps {bl : Block} (n : SlotId) {s0 s : State} (hc0 : Keeps bl s0 s)
    (hb : bl ∉ [.out, .eic, .mail, .eng, .sch, .front, .dma, .tb, .topo, .fns, .slots, .pwr] := by exact notMem_of ‹_ ∉ _› rfl) : KeepsO bl s0 (execCycle n s) := by
  unfold execCycle; try dsimp only
  repeat' (with_reducible first | assumption | intro _ | exact notMem_of hb rfl | apply cycleOp_keeps | apply slotPowered_keeps | apply guarded_keeps | apply Keeps.ite | apply KeepsO.ite | apply KeepsO.next | split)

theorem execRampEnd_keeps {bl : Block} (n : SlotId) {s0 s : State} (hc0 : Keeps bl s0 s)
    (hb : bl ∉ [.out, .eic, .fns, .slots, .pwr] := by exact notMem_of ‹_ ∉ _› rfl) : KeepsO bl s0 (execRampEnd n s) := by
  unfold execRampEnd; try dsimp only
  repeat' (first | (with_reducible first | assumption | intro _ | exact notMem_of hb rfl | apply declareGood_keeps | apply modSlot_keeps | apply cfgFetchk_keeps | apply slot_keeps | apply slotPowered_keeps | apply guarded_keeps | apply Keeps.ite | apply KeepsO.ite | apply KeepsO.next | split) | ((with_reducible refine Keeps.mk ?_ ?_) <;> [skip; (cases bl <;> first | exact absurd (by decide) hb | rfl)]))

theorem execPowerGood_keeps {bl : Block} (n : SlotId) {s0 s : State} (hc0 : Keeps bl s0 s)
    (hb : bl ∉ [.out, .eic, .fns, .slots, .pwr] := by exact notMem_of ‹_ ∉ _› rfl) : KeepsO bl s0 (execPowerGood n s) := by
  unfold execPowerGood; try dsimp only
  repeat' (with_reducible first | assumption | intro _ | exact notMem_of hb rfl | apply declareGood_keeps | apply slot_keeps | apply slotPowered_keeps | apply guarded_keeps | apply Keeps.ite | apply KeepsO.ite | apply KeepsO.next | split)

theorem execRampTimeout_keeps {bl : Block} (n : SlotId) (vout : BitVec 12) (vbus : BitVec 12) {s0 s : State} (hc0 : Keeps bl s0 s)
    (hb : bl ∉ [.out, .eic, .fns, .slots, .pwr] := by exact notMem_of ‹_ ∉ _› rfl) : KeepsO bl s0 (execRampTimeout n vout vbus s) := by
  unfold execRampTimeout; try dsimp only
  repeat' (with_reducible first | assumption | intro _ | exact notMem_of hb rfl | apply rampCode_keeps | apply trip_keeps | apply removedNow_keeps | apply slot_keeps | apply slotPowered_keeps | apply guarded_keeps | apply Keeps.ite | apply KeepsO.ite | apply KeepsO.next | split)

theorem execFetGate_keeps {bl : Block} (n : SlotId) (vout : BitVec 12) (vbus : BitVec 12) {s0 s : State} (hc0 : Keeps bl s0 s)
    (hb : bl ∉ [.out, .eic, .fns, .slots, .pwr] := by exact notMem_of ‹_ ∉ _› rfl) : KeepsO bl s0 (execFetGate n vout vbus s) := by
  unfold execFetGate; try dsimp only
  repeat' (with_reducible first | assumption | intro _ | exact notMem_of hb rfl | apply trip_keeps | apply removedNow_keeps | apply slot_keeps | apply slotPowered_keeps | apply guarded_keeps | apply Keeps.ite | apply KeepsO.ite | apply KeepsO.next | split)

theorem coreGood_keeps {bl : Block} (n : ℕ) (on : Bool) {s0 s : State} (hc0 : Keeps bl s0 s)
    (hb : bl ∉ [.topo] := by exact notMem_of ‹_ ∉ _› rfl) : Keeps bl s0 (coreGood n on s) := by
  unfold coreGood; try dsimp only
  repeat' (first | (with_reducible first | assumption | intro _ | exact notMem_of hb rfl | apply modPort_keeps | apply dieOf_keeps | apply hears_keeps | apply Keeps.ite | apply KeepsO.ite | apply KeepsO.next | split) | ((with_reducible refine Keeps.mk ?_ ?_) <;> [skip; (cases bl <;> first | exact absurd (by decide) hb | rfl)]))

theorem execPgLost_keeps {bl : Block} (n : SlotId) {s0 s : State} (hc0 : Keeps bl s0 s)
    (hb : bl ∉ [.topo, .slots] := by exact notMem_of ‹_ ∉ _› rfl) : KeepsO bl s0 (execPgLost n s) := by
  unfold execPgLost; try dsimp only
  repeat' (first | (with_reducible first | assumption | intro _ | exact notMem_of hb rfl | apply endLastGasp_keeps | apply dieOf_keeps | apply hears_keeps | apply modSlot_keeps | apply coreGood_keeps | apply slot_keeps | apply slotPowered_keeps | apply guarded_keeps | apply Keeps.ite | apply KeepsO.ite | apply KeepsO.next | split) | ((with_reducible refine Keeps.mk ?_ ?_) <;> [skip; (cases bl <;> first | exact absurd (by decide) hb | rfl)]))

theorem execPowerGoodReturn_keeps {bl : Block} (n : SlotId) {s0 s : State} (hc0 : Keeps bl s0 s)
    (hb : bl ∉ [.topo, .slots] := by exact notMem_of ‹_ ∉ _› rfl) : KeepsO bl s0 (execPowerGoodReturn n s) := by
  unfold execPowerGoodReturn; try dsimp only
  repeat' (first | (with_reducible first | assumption | intro _ | exact notMem_of hb rfl | apply modSlot_keeps | apply coreGood_keeps | apply slot_keeps | apply slotPowered_keeps | apply guarded_keeps | apply Keeps.ite | apply KeepsO.ite | apply KeepsO.next | split) | ((with_reducible refine Keeps.mk ?_ ?_) <;> [skip; (cases bl <;> first | exact absurd (by decide) hb | rfl)]))

theorem execPgLostTimeout_keeps {bl : Block} (n : SlotId) (vout : BitVec 12) (vbus : BitVec 12) {s0 s : State} (hc0 : Keeps bl s0 s)
    (hb : bl ∉ [.out, .eic, .mail, .eng, .sch, .front, .dma, .tb, .topo, .fns, .slots, .pwr] := by exact notMem_of ‹_ ∉ _› rfl) : KeepsO bl s0 (execPgLostTimeout n vout vbus s) := by
  unfold execPgLostTimeout; try dsimp only
  repeat' (with_reducible first | assumption | intro _ | exact notMem_of hb rfl | apply gateOff_keeps | apply coreGateOff_keeps | apply trip_keeps | apply anyFeed_keeps | apply removedNow_keeps | apply slot_keeps | apply slotPowered_keeps | apply guarded_keeps | apply Keeps.ite | apply KeepsO.ite | apply KeepsO.next | split)

theorem execFaultTimerExpiry_keeps {bl : Block} (n : SlotId) (vout : BitVec 12) (vbus : BitVec 12) {s0 s : State} (hc0 : Keeps bl s0 s)
    (hb : bl ∉ [.out, .eic, .fns, .slots, .pwr] := by exact notMem_of ‹_ ∉ _› rfl) : KeepsO bl s0 (execFaultTimerExpiry n vout vbus s) := by
  unfold execFaultTimerExpiry; try dsimp only
  repeat' (first | (with_reducible first | assumption | intro _ | exact notMem_of hb rfl | apply faultT_keeps | apply modSlot_keeps | apply trip_keeps | apply trippedNow_keeps | apply removedNow_keeps | apply slot_keeps | apply slotPowered_keeps | apply guarded_keeps | apply Keeps.ite | apply KeepsO.ite | apply KeepsO.next | split) | ((with_reducible refine Keeps.mk ?_ ?_) <;> [skip; (cases bl <;> first | exact absurd (by decide) hb | rfl)]))

theorem execSevereOc_keeps {bl : Block} (n : SlotId) (vout : BitVec 12) (vbus : BitVec 12) {s0 s : State} (hc0 : Keeps bl s0 s)
    (hb : bl ∉ [.out, .eic, .fns, .slots, .pwr] := by exact notMem_of ‹_ ∉ _› rfl) : KeepsO bl s0 (execSevereOc n vout vbus s) := by
  unfold execSevereOc; try dsimp only
  repeat' (with_reducible first | assumption | intro _ | exact notMem_of hb rfl | apply trip_keeps | apply trippedNow_keeps | apply removedNow_keeps | apply slot_keeps | apply slotPowered_keeps | apply guarded_keeps | apply Keeps.ite | apply KeepsO.ite | apply KeepsO.next | split)

theorem execSoaLimit_keeps {bl : Block} (n : SlotId) (vout : BitVec 12) (vbus : BitVec 12) {s0 s : State} (hc0 : Keeps bl s0 s)
    (hb : bl ∉ [.out, .eic, .fns, .slots, .pwr] := by exact notMem_of ‹_ ∉ _› rfl) : KeepsO bl s0 (execSoaLimit n vout vbus s) := by
  unfold execSoaLimit; try dsimp only
  repeat' (with_reducible first | assumption | intro _ | exact notMem_of hb rfl | apply rampCode_keeps | apply soaInRamp_keeps | apply trip_keeps | apply trippedNow_keeps | apply removedNow_keeps | apply slot_keeps | apply slotPowered_keeps | apply guarded_keeps | apply Keeps.ite | apply KeepsO.ite | apply KeepsO.next | split)

theorem execOutputPresentCheck_keeps {bl : Block} (n : SlotId) (vout : BitVec 12) (vbus : BitVec 12) {s0 s : State} (hc0 : Keeps bl s0 s)
    (hb : bl ∉ [.out, .eic, .fns, .slots, .pwr] := by exact notMem_of ‹_ ∉ _› rfl) : KeepsO bl s0 (execOutputPresentCheck n vout vbus s) := by
  unfold execOutputPresentCheck; try dsimp only
  repeat' (first | (with_reducible first | assumption | intro _ | exact notMem_of hb rfl | apply cfgOringOpen_keeps | apply trip_keeps | apply modSlot_keeps | apply slot_keeps | apply cfgFetchk_keeps | apply slotPowered_keeps | apply guarded_keeps | apply Keeps.ite | apply KeepsO.ite | apply KeepsO.next | split) | ((with_reducible refine Keeps.mk ?_ ?_) <;> [skip; (cases bl <;> first | exact absurd (by decide) hb | rfl)]))

theorem execPfwAssert_keeps {bl : Block} (n : SlotId) (_cause : PfwCause) {s0 s : State} (hc0 : Keeps bl s0 s)
    (hb : bl ∉ [.out, .eic, .fns, .slots, .pwr] := by exact notMem_of ‹_ ∉ _› rfl) : KeepsO bl s0 (execPfwAssert n _cause s) := by
  unfold execPfwAssert; try dsimp only
  repeat' (first | (with_reducible first | assumption | intro _ | exact notMem_of hb rfl | apply dieEvent_keeps | apply tellCore_keeps | apply modSlot_keeps | apply slot_keeps | apply slotPowered_keeps | apply guarded_keeps | apply Keeps.ite | apply KeepsO.ite | apply KeepsO.next | split) | ((with_reducible refine Keeps.mk ?_ ?_) <;> [skip; (cases bl <;> first | exact absurd (by decide) hb | rfl)]))

theorem execPfwClear_keeps {bl : Block} (n : SlotId) {s0 s : State} (hc0 : Keeps bl s0 s)
    (hb : bl ∉ [.out, .eic, .topo, .fns, .slots, .pwr] := by exact notMem_of ‹_ ∉ _› rfl) : KeepsO bl s0 (execPfwClear n s) := by
  unfold execPfwClear; try dsimp only
  repeat' (first | (with_reducible first | assumption | intro _ | exact notMem_of hb rfl | apply endLastGasp_keeps | apply dieOf_keeps | apply hears_keeps | apply dieEvent_keeps | apply modSlot_keeps | apply slot_keeps | apply slotPowered_keeps | apply guarded_keeps | apply Keeps.ite | apply KeepsO.ite | apply KeepsO.next | split) | ((with_reducible refine Keeps.mk ?_ ?_) <;> [skip; (cases bl <;> first | exact absurd (by decide) hb | rfl)]))

theorem execTelemetryConversion_keeps {bl : Block} (n : SlotId) (va : BitVec 12) (vb : BitVec 12) (vbus : BitVec 12) (vout : BitVec 12) (isense : BitVec 12) {s0 s : State} (hc0 : Keeps bl s0 s)
    (hb : bl ∉ [.free, .slots] := by exact notMem_of ‹_ ∉ _› rfl) : KeepsO bl s0 (execTelemetryConversion n va vb vbus vout isense s) := by
  unfold execTelemetryConversion; try dsimp only
  repeat' (with_reducible first | assumption | intro _ | exact notMem_of hb rfl | apply convert_keeps | apply slotPowered_keeps | apply guarded_keeps | apply Keeps.ite | apply KeepsO.ite | apply KeepsO.next | split)

theorem execTelPeakRestart_keeps {bl : Block} (n : SlotId) {s0 s : State} (hc0 : Keeps bl s0 s)
    (hb : bl ∉ [.slots] := by exact notMem_of ‹_ ∉ _› rfl) : KeepsO bl s0 (execTelPeakRestart n s) := by
  unfold execTelPeakRestart; try dsimp only
  repeat' (with_reducible first | assumption | intro _ | exact notMem_of hb rfl | apply telRestart_keeps | apply slotPowered_keeps | apply guarded_keeps | apply Keeps.ite | apply KeepsO.ite | apply KeepsO.next | split)

theorem execRemovalLatchClear_keeps {bl : Block} (n : SlotId) {s0 s : State} (hc0 : Keeps bl s0 s)
    (hb : bl ∉ [.slots] := by exact notMem_of ‹_ ∉ _› rfl) : KeepsO bl s0 (execRemovalLatchClear n s) := by
  unfold execRemovalLatchClear; try dsimp only
  repeat' (first | (with_reducible first | assumption | intro _ | exact notMem_of hb rfl | apply clearLatch_keeps | apply modSlot_keeps | apply cfgPrsntClears_keeps | apply slot_keeps | apply slotPowered_keeps | apply guarded_keeps | apply Keeps.ite | apply KeepsO.ite | apply KeepsO.next | split) | ((with_reducible refine Keeps.mk ?_ ?_) <;> [skip; (cases bl <;> first | exact absurd (by decide) hb | rfl)]))

theorem execVmuleLoss_keeps {bl : Block} (g : DieId) {s0 s : State} (hc0 : Keeps bl s0 s)
    (hb : bl ∉ [.slots] := by exact notMem_of ‹_ ∉ _› rfl) : KeepsO bl s0 (execVmuleLoss g s) := by
  unfold execVmuleLoss; try dsimp only
  repeat' (first | (with_reducible first | assumption | intro _ | exact notMem_of hb rfl | apply modDie_keeps | apply modSlot_keeps | apply each_keeps | apply done_keeps | apply Keeps.ite | apply KeepsO.ite | apply KeepsO.next | split) | ((with_reducible refine Keeps.mk ?_ ?_) <;> [skip; (cases bl <;> first | exact absurd (by decide) hb | rfl)]))

theorem execVmuleRise_keeps {bl : Block} (g : DieId) {s0 s : State} (hc0 : Keeps bl s0 s)
    (hb : bl ∉ [.eic, .slots] := by exact notMem_of ‹_ ∉ _› rfl) : KeepsO bl s0 (execVmuleRise g s) := by
  unfold execVmuleRise; try dsimp only
  repeat' (first | (with_reducible first | assumption | intro _ | exact notMem_of hb rfl | apply modDie_keeps | apply slotEn_keeps | apply tdel_keeps | apply modSlot_keeps | apply each_keeps | apply done_keeps | apply Keeps.ite | apply KeepsO.ite | apply KeepsO.next | split) | ((with_reducible refine Keeps.mk ?_ ?_) <;> [skip; (cases bl <;> first | exact absurd (by decide) hb | rfl)]))

theorem placeRung_keeps {bl : Block} (r : Rung) (ph e b : Nat) (moved : List Nat) {s0 s : State} (hc0 : Keeps bl s0 s)
    (hb : bl ∉ [.free, .sch] := by exact notMem_of ‹_ ∉ _› rfl) : Keeps bl s0 (placeRung s r ph e b moved).2 := by
  unfold placeRung; dsimp only
  refine Keeps.mk (freshIndex_keeps hc0 (notMem_of hb rfl)) ?_
  cases bl <;> first | exact absurd (by decide) hb | rfl

theorem tryAdmit_keeps {bl : Block} {r : Rung} {s0 s t : State} {n : Nat} (e : tryAdmit s r = .inl (n, t)) (hc0 : Keeps bl s0 s)
    (hb : bl ∉ [.free, .sch] := by exact notMem_of ‹_ ∉ _› rfl) :
    Keeps bl s0 t := by
  unfold tryAdmit at e
  split at e
  · next ph _ _ _ x y m _ =>
    have k := placeRung_keeps r ph x y m hc0
    rw [Sum.inl.inj e] at k; exact k
  · cases e

theorem admitOp_keeps {bl : Block} (ctx : CmdCtx) (b : AdmitBody) {s0 s : State} (hc0 : Keeps bl s0 s)
    (hb : bl ∉ [.out, .free, .mail, .sch, .fns] := by exact notMem_of ‹_ ∉ _› rfl) : Keeps bl s0 (admitOp ctx b s) := by
  unfold admitOp; try dsimp only
  repeat' (first | (with_reducible first | assumption | intro _ | exact notMem_of hb rfl | apply modFn_keeps | apply admitRefusal_keeps | apply reply_keeps | apply admitCheck_keeps | apply chan_keeps | apply sender_keeps | apply begun_keeps | apply Keeps.ite | apply KeepsO.ite | apply KeepsO.next | refine tryAdmit_keeps (by assumption) ?_ | split) | ((with_reducible refine Keeps.mk ?_ ?_) <;> [skip; (cases bl <;> first | exact absurd (by decide) hb | rfl)]))

theorem releaseOp_keeps {bl : Block} (ctx : CmdCtx) (b : AdmitBody) {s0 s : State} (hc0 : Keeps bl s0 s)
    (hb : bl ∉ [.out, .mail, .sch, .fns] := by exact notMem_of ‹_ ∉ _› rfl) : Keeps bl s0 (releaseOp ctx b s) := by
  unfold releaseOp; try dsimp only
  repeat' (first | (with_reducible first | assumption | intro _ | exact notMem_of hb rfl | apply tdel_keeps | apply modFn_keeps | apply kindOf_keeps | apply charged_keeps | apply handle_keeps | apply ownsDevice_keeps | apply fn_keeps | apply admitRefusal_keeps | apply reply_keeps | apply chan_keeps | apply sender_keeps | apply begun_keeps | apply Keeps.ite | apply KeepsO.ite | apply KeepsO.next | split) | ((with_reducible refine Keeps.mk ?_ ?_) <;> [skip; (cases bl <;> first | exact absurd (by decide) hb | rfl)]))

theorem queryOp_keeps {bl : Block} (ctx : CmdCtx) {s0 s : State} (hc0 : Keeps bl s0 s)
    (hb : bl ∉ [.out, .mail, .fns] := by exact notMem_of ‹_ ∉ _› rfl) : Keeps bl s0 (queryOp ctx s) := by
  unfold queryOp; try dsimp only
  repeat' (with_reducible first | assumption | intro _ | exact notMem_of hb rfl | apply reply_keeps | apply sumRate_keeps | apply charged_keeps | apply freeCarve_keeps | apply shareInUse_keeps | apply fn_keeps | apply chan_keeps | apply sender_keeps | apply begun_keeps | apply Keeps.ite | apply KeepsO.ite | apply KeepsO.next | split)

theorem swapBanks_keeps {bl : Block} {s0 s : State} (hc0 : Keeps bl s0 s)
    (hb : bl ∉ [.mail, .sch, .front, .dma, .tb, .topo] := by exact notMem_of ‹_ ∉ _› rfl) : Keeps bl s0 (swapBanks s) := by
  unfold swapBanks; try dsimp only
  repeat' (first | (with_reducible first | assumption | intro _ | exact notMem_of hb rfl | apply epoch32_keeps | apply tput_keeps | apply stNotAdmitted_keeps | apply finish_keeps | apply begun_keeps | apply slot_keeps | apply itemsWhere_keeps | apply ctxKey_keeps | apply handle_keeps | apply assignPages_keeps | apply returnPages_keeps | apply each_keeps | apply pstate_keeps | apply tfind_keeps | apply live_keeps | apply Keeps.ite | apply KeepsO.ite | apply KeepsO.next | split) | ((with_reducible refine Keeps.mk ?_ ?_) <;> [skip; (cases bl <;> first | exact absurd (by decide) hb | rfl)]))

theorem dropLeft_keeps {bl : Block} {s0 s : State} (hc0 : Keeps bl s0 s)
    (hb : bl ∉ [.sch, .dma] := by exact notMem_of ‹_ ∉ _› rfl) : Keeps bl s0 (dropLeft s) := by
  unfold dropLeft; try dsimp only
  repeat' (first | (with_reducible first | assumption | intro _ | exact notMem_of hb rfl | apply returnPages_keeps | apply each_keeps | apply pstate_keeps | apply Keeps.ite | apply KeepsO.ite | apply KeepsO.next | split) | ((with_reducible refine Keeps.mk ?_ ?_) <;> [skip; (cases bl <;> first | exact absurd (by decide) hb | rfl)]))

theorem swapReply_keeps {bl : Block} (w : SwapReply) (r : Option Rung) {s0 s : State} (hc0 : Keeps bl s0 s)
    (hb : bl ∉ [.out, .mail, .fns] := by exact notMem_of ‹_ ∉ _› rfl) : Keeps bl s0 (swapReply w r s) := by
  unfold swapReply; try dsimp only
  repeat' (first | (with_reducible first | assumption | intro _ | exact notMem_of hb rfl | apply admitRefusal_keeps | apply admitReply_keeps | apply reply_keeps | apply chan_keeps | apply sender_keeps | apply modFn_keeps | apply Keeps.ite | apply KeepsO.ite | apply KeepsO.next | split) | ((with_reducible refine Keeps.mk ?_ ?_) <;> [skip; (cases bl <;> first | exact absurd (by decide) hb | rfl)]))

theorem swapIfPending_keeps {bl : Block} {s0 s : State} (hc0 : Keeps bl s0 s)
    (hb : bl ∉ [.out, .mail, .sch, .front, .dma, .tb, .topo, .fns] := by exact notMem_of ‹_ ∉ _› rfl) : Keeps bl s0 (swapIfPending s) := by
  unfold swapIfPending; try dsimp only
  repeat' (with_reducible first | assumption | intro _ | exact notMem_of hb rfl | apply tfind_keeps | apply swapReply_keeps | apply each_keeps | apply swapBanks_keeps | apply live_keeps | apply Keeps.ite | apply KeepsO.ite | apply KeepsO.next | split)

theorem execAdmitCmd_keeps {bl : Block} (ctx : CmdCtx) (body : AdmitBody) {s0 s : State} (hc0 : Keeps bl s0 s)
    (hb : bl ∉ [.out, .free, .mail, .sch, .fns] := by exact notMem_of ‹_ ∉ _› rfl) : KeepsO bl s0 (execAdmitCmd ctx body s) := by
  unfold execAdmitCmd; try dsimp only
  repeat' (with_reducible first | assumption | intro _ | exact notMem_of hb rfl | apply admitOp_keeps | apply live_keeps | apply guarded_keeps | apply Keeps.ite | apply KeepsO.ite | apply KeepsO.next | split)

theorem execRelease_keeps {bl : Block} (ctx : CmdCtx) (body : AdmitBody) {s0 s : State} (hc0 : Keeps bl s0 s)
    (hb : bl ∉ [.out, .mail, .sch, .fns] := by exact notMem_of ‹_ ∉ _› rfl) : KeepsO bl s0 (execRelease ctx body s) := by
  unfold execRelease; try dsimp only
  repeat' (with_reducible first | assumption | intro _ | exact notMem_of hb rfl | apply releaseOp_keeps | apply live_keeps | apply guarded_keeps | apply Keeps.ite | apply KeepsO.ite | apply KeepsO.next | split)

theorem execQuery_keeps {bl : Block} (ctx : CmdCtx) {s0 s : State} (hc0 : Keeps bl s0 s)
    (hb : bl ∉ [.out, .mail, .fns] := by exact notMem_of ‹_ ∉ _› rfl) : KeepsO bl s0 (execQuery ctx s) := by
  unfold execQuery; try dsimp only
  repeat' (with_reducible first | assumption | intro _ | exact notMem_of hb rfl | apply queryOp_keeps | apply live_keeps | apply guarded_keeps | apply Keeps.ite | apply KeepsO.ite | apply KeepsO.next | split)

theorem execCompileDone_keeps {bl : Block} {s0 s : State} (hc0 : Keeps bl s0 s)
    (hb : bl ∉ [.sch] := by exact notMem_of ‹_ ∉ _› rfl) : KeepsO bl s0 (execCompileDone s) := by
  unfold execCompileDone; try dsimp only
  repeat' (first | (with_reducible first | assumption | intro _ | exact notMem_of hb rfl | apply live_keeps | apply guarded_keeps | apply Keeps.ite | apply KeepsO.ite | apply KeepsO.next | split) | ((with_reducible refine Keeps.mk ?_ ?_) <;> [skip; (cases bl <;> first | exact absurd (by decide) hb | rfl)]))

theorem xbkSend_keeps {bl : Block} (typ : ℕ) (body : List Byte) {s0 s : State} (hc0 : Keeps bl s0 s)
    (hb : bl ∉ [.out, .pair] := by exact notMem_of ‹_ ∉ _› rfl) : Keeps bl s0 (xbkSend typ body s) := by
  unfold xbkSend; try dsimp only
  repeat' (first | (with_reducible first | assumption | intro _ | exact notMem_of hb rfl | apply xbkRecord_keeps | apply emit_keeps | apply Keeps.ite | apply KeepsO.ite | apply KeepsO.next | split) | ((with_reducible refine Keeps.mk ?_ ?_) <;> [skip; (cases bl <;> first | exact absurd (by decide) hb | rfl)]))

theorem xbkSendOnce_keeps {bl : Block} (typ : ℕ) (body : List Byte) {s0 s : State} (hc0 : Keeps bl s0 s)
    (hb : bl ∉ [.out, .pair] := by exact notMem_of ‹_ ∉ _› rfl) : Keeps bl s0 (xbkSendOnce typ body s) := by
  unfold xbkSendOnce; try dsimp only
  repeat' (first | (with_reducible first | assumption | intro _ | exact notMem_of hb rfl | apply xbkRecord_keeps | apply emit_keeps | apply Keeps.ite | apply KeepsO.ite | apply KeepsO.next | split) | ((with_reducible refine Keeps.mk ?_ ?_) <;> [skip; (cases bl <;> first | exact absurd (by decide) hb | rfl)]))

theorem releaseEngine_keeps {bl : Block} (e : ℕ) {s0 s : State} (hc0 : Keeps bl s0 s)
    (hb : bl ∉ [.topo] := by exact notMem_of ‹_ ∉ _› rfl) : Keeps bl s0 (releaseEngine e s) := by
  unfold releaseEngine; try dsimp only
  repeat' (first | (with_reducible first | assumption | intro _ | exact notMem_of hb rfl | apply port_keeps | apply Keeps.ite | apply KeepsO.ite | apply KeepsO.next | split) | ((with_reducible refine Keeps.mk ?_ ?_) <;> [skip; (cases bl <;> first | exact absurd (by decide) hb | rfl)]))

theorem endEngineWork_keeps {bl : Block} (e : ℕ) (st : Byte) {s0 s : State} (hc0 : Keeps bl s0 s)
    (hb : bl ∉ [.mail, .sch, .front, .dma, .tb, .topo] := by exact notMem_of ‹_ ∉ _› rfl) : Keeps bl s0 (endEngineWork e st s) := by
  unfold endEngineWork; try dsimp only
  repeat' (first | (with_reducible first | assumption | intro _ | exact notMem_of hb rfl | apply releaseEngine_keeps | apply finish_keeps | apply each_keeps | apply boundItem_keeps | apply workItem_keeps | apply threadsOf_keeps | apply eng_keeps | apply Keeps.ite | apply KeepsO.ite | apply KeepsO.next | split) | ((with_reducible refine Keeps.mk ?_ ?_) <;> [skip; (cases bl <;> first | exact absurd (by decide) hb | rfl)]))

theorem modErr_keeps {bl : Block} (c : ℕ) (g : ErrClass → ErrClass) {s0 s : State} (hc0 : Keeps bl s0 s)
    (hb : bl ∉ [.err] := by exact notMem_of ‹_ ∉ _› rfl) : Keeps bl s0 (modErr c g s) := by
  unfold modErr; try dsimp only
  repeat' (first | (with_reducible first | assumption | intro _ | exact notMem_of hb rfl | apply errClass_keeps | apply tput_keeps | apply Keeps.ite | apply KeepsO.ite | apply KeepsO.next | split) | ((with_reducible refine Keeps.mk ?_ ?_) <;> [skip; (cases bl <;> first | exact absurd (by decide) hb | rfl)]))

theorem rollWindow_keeps {bl : Block} (c : ℕ) {s0 s : State} (hc0 : Keeps bl s0 s)
    (hb : bl ∉ [.err] := by exact notMem_of ‹_ ∉ _› rfl) : Keeps bl s0 (rollWindow c s) := by
  unfold rollWindow; try dsimp only
  repeat' (first | (with_reducible first | assumption | intro _ | exact notMem_of hb rfl | apply modErr_keeps | apply errWindow_keeps | apply errClass_keeps | apply Keeps.ite | apply KeepsO.ite | apply KeepsO.next | split) | ((with_reducible refine Keeps.mk ?_ ?_) <;> [skip; (cases bl <;> first | exact absurd (by decide) hb | rfl)]))

theorem quietPorts_keeps {bl : Block} {s0 s : State} (hc0 : Keeps bl s0 s)
    (hb : bl ∉ [.out] := by exact notMem_of ‹_ ∉ _› rfl) : Keeps bl s0 (quietPorts s) := by
  unfold quietPorts; try dsimp only
  repeat' (with_reducible first | assumption | intro _ | exact notMem_of hb rfl | apply emit_keeps | apply port_keeps | apply each_keeps | apply Keeps.ite | apply KeepsO.ite | apply KeepsO.next | split)

theorem stopLanes_keeps {bl : Block} {s0 s : State} (hc0 : Keeps bl s0 s)
    (hb : bl ∉ [.out, .mail, .sch, .front, .dma, .tb, .topo] := by exact notMem_of ‹_ ∉ _› rfl) : Keeps bl s0 (stopLanes s) := by
  unfold stopLanes; try dsimp only
  repeat' (with_reducible first | assumption | intro _ | exact notMem_of hb rfl | apply quietPorts_keeps | apply clearLane_keeps | apply port_keeps | apply each_keeps | apply Keeps.ite | apply KeepsO.ite | apply KeepsO.next | split)

theorem fatalError_keeps {bl : Block} (cause : ℕ) {s0 s : State} (hc0 : Keeps bl s0 s)
    (hb : bl ∉ [.out, .mail, .sch, .front, .dma, .tb, .topo, .err, .pair] := by exact notMem_of ‹_ ∉ _› rfl) : Keeps bl s0 (fatalError cause s) := by
  unfold fatalError; try dsimp only
  repeat' (first | (with_reducible first | assumption | intro _ | exact notMem_of hb rfl | apply xbkSendOnce_keeps | apply emit_keeps | apply epoch32_keeps | apply codeEpoch_keeps | apply stopLanes_keeps | apply Keeps.ite | apply KeepsO.ite | apply KeepsO.next | split) | ((with_reducible refine Keeps.mk ?_ ?_) <;> [skip; (cases bl <;> first | exact absurd (by decide) hb | rfl)]))

theorem sendHandover_keeps {bl : Block} (cause : ℕ) {s0 s : State} (hc0 : Keeps bl s0 s)
    (hb : bl ∉ [.out, .mail, .sch, .front, .dma, .tb, .topo, .pair] := by exact notMem_of ‹_ ∉ _› rfl) : Keeps bl s0 (sendHandover cause s) := by
  unfold sendHandover; try dsimp only
  repeat' (first | (with_reducible first | assumption | intro _ | exact notMem_of hb rfl | apply codeEpoch_keeps | apply xbkSend_keeps | apply stopLanes_keeps | apply boundaryAfter20us_keeps | apply Keeps.ite | apply KeepsO.ite | apply KeepsO.next | split) | ((with_reducible refine Keeps.mk ?_ ?_) <;> [skip; (cases bl <;> first | exact absurd (by decide) hb | rfl)]))

theorem enterYielded_keeps {bl : Block} {s0 s : State} (hc0 : Keeps bl s0 s)
    (hb : bl ∉ [.out, .mail, .sch, .front, .dma, .tb, .topo, .slots, .pair] := by exact notMem_of ‹_ ∉ _› rfl) : Keeps bl s0 (enterYielded s) := by
  unfold enterYielded; try dsimp only
  repeat' (first | (with_reducible first | assumption | intro _ | exact notMem_of hb rfl | apply emit_keeps | apply xbkSend_keeps | apply stopLanes_keeps | apply handOver_keeps | apply homeOf_keeps | apply each_keeps | apply Keeps.ite | apply KeepsO.ite | apply KeepsO.next | split) | ((with_reducible refine Keeps.mk ?_ ?_) <;> [skip; (cases bl <;> first | exact absurd (by decide) hb | rfl)]))

theorem recompile_keeps {bl : Block} (e : ℕ) {s0 s : State} (hc0 : Keeps bl s0 s)
    (hb : bl ∉ [.sch] := by exact notMem_of ‹_ ∉ _› rfl) : Keeps bl s0 (recompile e s) := by
  unfold recompile; try dsimp only
  repeat' (first | (with_reducible first | assumption | intro _ | exact notMem_of hb rfl | apply Keeps.ite | apply KeepsO.ite | apply KeepsO.next | split) | ((with_reducible refine Keeps.mk ?_ ?_) <;> [skip; (cases bl <;> first | exact absurd (by decide) hb | rfl)]))

theorem retireEngine_keeps {bl : Block} (e : ℕ) {s0 s : State} (hc0 : Keeps bl s0 s)
    (hb : bl ∉ [.mail, .eng, .sch, .front, .dma, .tb, .topo] := by exact notMem_of ‹_ ∉ _› rfl) : Keeps bl s0 (retireEngine e s) := by
  unfold retireEngine; try dsimp only
  repeat' (first | (with_reducible first | assumption | intro _ | exact notMem_of hb rfl | apply idleEngine_keeps | apply modEng_keeps | apply stRetired_keeps | apply endEngineWork_keeps | apply Keeps.ite | apply KeepsO.ite | apply KeepsO.next | split) | ((with_reducible refine Keeps.mk ?_ ?_) <;> [skip; (cases bl <;> first | exact absurd (by decide) hb | rfl)]))

theorem engineLasting_keeps {bl : Block} (e : ℕ) {s0 s : State} (hc0 : Keeps bl s0 s)
    (hb : bl ∉ [.out, .mail, .eng, .sch, .front, .dma, .tb, .topo, .slots, .err, .pair] := by exact notMem_of ‹_ ∉ _› rfl) : Keeps bl s0 (engineLasting e s) := by
  unfold engineLasting; try dsimp only
  repeat' (first | (with_reducible first | assumption | intro _ | exact notMem_of hb rfl | apply fatalError_keeps | apply enterYielded_keeps | apply sendHandover_keeps | apply recompile_keeps | apply retireEngine_keeps | apply Keeps.ite | apply KeepsO.ite | apply KeepsO.next | split) | ((with_reducible refine Keeps.mk ?_ ?_) <;> [skip; (cases bl <;> first | exact absurd (by decide) hb | rfl)]))

theorem disablePort_keeps {bl : Block} (p : ℕ) {s0 s : State} (hc0 : Keeps bl s0 s)
    (hb : bl ∉ [.out, .eic, .mail, .eng, .sch, .front, .dma, .tb, .topo, .fns] := by exact notMem_of ‹_ ∉ _› rfl) : Keeps bl s0 (disablePort p s) := by
  unfold disablePort; try dsimp only
  repeat' (first | (with_reducible first | assumption | intro _ | exact notMem_of hb rfl | apply stPortReset_keeps | apply portGone_keeps | apply modPort_keeps | apply Keeps.ite | apply KeepsO.ite | apply KeepsO.next | split) | ((with_reducible refine Keeps.mk ?_ ?_) <;> [skip; (cases bl <;> first | exact absurd (by decide) hb | rfl)]))

theorem portLasting_keeps {bl : Block} (p : ℕ) {s0 s : State} (hc0 : Keeps bl s0 s)
    (hb : bl ∉ [.out, .eic, .mail, .eng, .sch, .front, .dma, .tb, .topo, .fns, .err] := by exact notMem_of ‹_ ∉ _› rfl) : Keeps bl s0 (portLasting p s) := by
  unfold portLasting; try dsimp only
  repeat' (first | (with_reducible first | assumption | intro _ | exact notMem_of hb rfl | apply raise_keeps | apply disablePort_keeps | apply Keeps.ite | apply KeepsO.ite | apply KeepsO.next | split) | ((with_reducible refine Keeps.mk ?_ ?_) <;> [skip; (cases bl <;> first | exact absurd (by decide) hb | rfl)]))

theorem muleLasting_keeps {bl : Block} (g : ℕ) {s0 s : State} (hc0 : Keeps bl s0 s)
    (hb : bl ∉ [.out, .eic, .mail, .eng, .sch, .front, .dma, .tb, .topo, .fns, .err] := by exact notMem_of ‹_ ∉ _› rfl) : Keeps bl s0 (muleLasting g s) := by
  unfold muleLasting; try dsimp only
  repeat' (first | (with_reducible first | assumption | intro _ | exact notMem_of hb rfl | apply raise_keeps | apply stDeviceGone_keeps | apply portGone_keeps | apply serdes_keeps | apply port_keeps | apply each_keeps | apply Keeps.ite | apply KeepsO.ite | apply KeepsO.next | split) | ((with_reducible refine Keeps.mk ?_ ?_) <;> [skip; (cases bl <;> first | exact absurd (by decide) hb | rfl)]))

theorem linkDown_keeps {bl : Block} {s0 s : State} (hc0 : Keeps bl s0 s)
    (hb : bl ∉ [.out, .eic, .fns, .pair] := by exact notMem_of ‹_ ∉ _› rfl) : Keeps bl s0 (linkDown s) := by
  unfold linkDown; try dsimp only
  repeat' (first | (with_reducible first | assumption | intro _ | exact notMem_of hb rfl | apply raise_keeps | apply Keeps.ite | apply KeepsO.ite | apply KeepsO.next | split) | ((with_reducible refine Keeps.mk ?_ ?_) <;> [skip; (cases bl <;> first | exact absurd (by decide) hb | rfl)]))

theorem linkLasting_keeps {bl : Block} {s0 s : State} (hc0 : Keeps bl s0 s)
    (hb : bl ∉ [.out, .eic, .mail, .sch, .front, .dma, .tb, .topo, .fns, .pair] := by exact notMem_of ‹_ ∉ _› rfl) : Keeps bl s0 (linkLasting s) := by
  unfold linkLasting; try dsimp only
  repeat' (with_reducible first | assumption | intro _ | exact notMem_of hb rfl | apply sendHandover_keeps | apply linkDown_keeps | apply Keeps.ite | apply KeepsO.ite | apply KeepsO.next | split)

theorem lastingAction_keeps {bl : Block} (c : ℕ) (inst : ℕ) {s0 s : State} (hc0 : Keeps bl s0 s)
    (hb : bl ∉ [.out, .eic, .mail, .eng, .sch, .front, .dma, .tb, .topo, .fns, .slots, .err, .pair] := by exact notMem_of ‹_ ∉ _› rfl) : Keeps bl s0 (lastingAction c inst s) := by
  unfold lastingAction; try dsimp only
  repeat' (with_reducible first | assumption | intro _ | exact notMem_of hb rfl | apply linkLasting_keeps | apply fatalError_keeps | apply muleLasting_keeps | apply portLasting_keeps | apply engineLasting_keeps | apply retirePage_keeps | apply Keeps.ite | apply KeepsO.ite | apply KeepsO.next | split)

theorem countError_keeps {bl : Block} (c : ℕ) (inst : ℕ) (kind : ℕ) {s0 s : State} (hc0 : Keeps bl s0 s)
    (hb : bl ∉ [.out, .eic, .mail, .eng, .sch, .front, .dma, .tb, .topo, .fns, .slots, .err, .pair] := by exact notMem_of ‹_ ∉ _› rfl) : Keeps bl s0 (countError c inst kind s) := by
  unfold countError; try dsimp only
  repeat' (first | (with_reducible first | assumption | intro _ | exact notMem_of hb rfl | apply raise_keeps | apply lastingAction_keeps | apply errT_keeps | apply epoch32_keeps | apply tput_keeps | apply modErr_keeps | apply errClass_keeps | apply tget_keeps | apply rollWindow_keeps | apply stoppedCounting_keeps | apply Keeps.ite | apply KeepsO.ite | apply KeepsO.next | split) | ((with_reducible refine Keeps.mk ?_ ?_) <;> [skip; (cases bl <;> first | exact absurd (by decide) hb | rfl)]))

theorem engineReset_keeps {bl : Block} (e : ℕ) {s0 s : State} (hc0 : Keeps bl s0 s)
    (hb : bl ∉ [.out, .eic, .mail, .eng, .sch, .front, .dma, .tb, .topo, .fns] := by exact notMem_of ‹_ ∉ _› rfl) : Keeps bl s0 (engineReset e s) := by
  unfold engineReset; try dsimp only
  repeat' (first | (with_reducible first | assumption | intro _ | exact notMem_of hb rfl | apply idleEngine_keeps | apply modEng_keeps | apply raise_keeps | apply stAbortedReset_keeps | apply endEngineWork_keeps | apply eng_keeps | apply Keeps.ite | apply KeepsO.ite | apply KeepsO.next | split) | ((with_reducible refine Keeps.mk ?_ ?_) <;> [skip; (cases bl <;> first | exact absurd (by decide) hb | rfl)]))

theorem engineFault_keeps {bl : Block} (e : ℕ) {s0 s : State} (hc0 : Keeps bl s0 s)
    (hb : bl ∉ [.out, .eic, .mail, .eng, .sch, .front, .dma, .tb, .topo, .fns, .slots, .err, .pair] := by exact notMem_of ‹_ ∉ _› rfl) : Keeps bl s0 (engineFault e s) := by
  unfold engineFault; try dsimp only
  repeat' (with_reducible first | assumption | intro _ | exact notMem_of hb rfl | apply countError_keeps | apply engineReset_keeps | apply Keeps.ite | apply KeepsO.ite | apply KeepsO.next | split)

theorem skipService_keeps {bl : Block} (r : ℕ) {s0 s : State} (hc0 : Keeps bl s0 s)
    (hb : bl ∉ [.mail, .eng, .sch, .front, .dma, .tb, .topo] := by exact notMem_of ‹_ ∉ _› rfl) : Keeps bl s0 (skipService r s) := by
  unfold skipService; try dsimp only
  repeat' (first | (with_reducible first | assumption | intro _ | exact notMem_of hb rfl | apply eng_keeps | apply stMissed_keeps | apply finish_keeps | apply boundItem_keeps | apply Keeps.ite | apply KeepsO.ite | apply KeepsO.next | split) | ((with_reducible refine Keeps.mk ?_ ?_) <;> [skip; (cases bl <;> first | exact absurd (by decide) hb | rfl)]))

theorem uncorrectableEffect_keeps {bl : Block} (site : ErrSite) {s0 s : State} (hc0 : Keeps bl s0 s)
    (hb : bl ∉ [.out, .eic, .mail, .eng, .sch, .front, .dma, .tb, .topo, .fns, .slots, .err, .pair] := by exact notMem_of ‹_ ∉ _› rfl) :
    Keeps bl s0 (uncorrectableEffect site s) := by
  cases site
  case bufferPage p => exact raise_keeps _ _ (endStagedIn_keeps _ hc0)
  case engineMem e => exact engineReset_keeps _ hc0
  case engineFault e => exact engineReset_keeps _ hc0
  case bellwetherSram => exact fatalError_keeps _ hc0
  case tableBank r => exact skipService_keeps _ hc0
  case periodicTable r => exact skipService_keeps _ hc0
  case portLane p =>
    show Keeps bl s0 (match (port s p.val).txn with
      | some t => match workItem s t.work with
        | some i => lostEnd i (modPort p.val (fun x => { x with txn := none }) s)
        | none => s
      | none => s)
    repeat' (with_reducible first | assumption | exact notMem_of hb rfl | apply lostEnd_keeps | apply modPort_keeps | split)
  case descriptorCache i =>
    show Keeps bl s0 (match item? s i with
      | some x => if hasBegun x then finish i stXactErr s else invalidate x.func x.sq x.seen s
      | none => s)
    repeat' (with_reducible first | assumption | exact notMem_of hb rfl | apply finish_keeps | apply invalidate_keeps | split)
  case contextCache n ep =>
    show Keeps bl s0 (match headItem s n.val ep with | some i => finish i stXactErr s | none => s)
    repeat' (with_reducible first | assumption | exact notMem_of hb rfl | apply finish_keeps | split)
  case dispatcherEntry i =>
    show Keeps bl s0 (match item? s i with
      | some x => match x.flow with
        | some f => match headItem s (field f.handle 0 12) f.epaddr with | some h => finish h stXactErr s | none => s
        | none => s
      | none => s)
    repeat' (with_reducible first | assumption | exact notMem_of hb rfl | apply finish_keeps | split)
  case dataPathPcie i =>
    show Keeps bl s0 (match item? s i with | some x => if x.status.isNone then lostEnd i s else s | none => s)
    repeat' (with_reducible first | assumption | exact notMem_of hb rfl | apply lostEnd_keeps | split)
  all_goals exact hc0

theorem detect_keeps {bl : Block} (err : ErrReport) {s0 s : State} (hc0 : Keeps bl s0 s)
    (hb : bl ∉ [.out, .eic, .mail, .eng, .sch, .front, .dma, .tb, .topo, .fns, .slots, .err, .pair] := by exact notMem_of ‹_ ∉ _› rfl) : Keeps bl s0 (detect err s) := by
  unfold detect; try dsimp only
  repeat' (first | (with_reducible first | assumption | intro _ | exact notMem_of hb rfl | apply uncorrectableEffect_keeps | apply errKindCode_keeps | apply countError_keeps | apply siteClass_keeps | apply Keeps.ite | apply KeepsO.ite | apply KeepsO.next | split) | ((with_reducible refine Keeps.mk ?_ ?_) <;> [skip; (cases bl <;> first | exact absurd (by decide) hb | rfl)]))

theorem clearCounts_keeps {bl : Block} (c : ℕ) {s0 s : State} (hc0 : Keeps bl s0 s)
    (hb : bl ∉ [.err] := by exact notMem_of ‹_ ∉ _› rfl) : Keeps bl s0 (clearCounts c s) := by
  unfold clearCounts; try dsimp only
  repeat' (first | (with_reducible first | assumption | intro _ | exact notMem_of hb rfl | apply errWindow_keeps | apply modErr_keeps | apply Keeps.ite | apply KeepsO.ite | apply KeepsO.next | split) | ((with_reducible refine Keeps.mk ?_ ?_) <;> [skip; (cases bl <;> first | exact absurd (by decide) hb | rfl)]))

theorem execErrorDetected_keeps {bl : Block} (err : ErrReport) {s0 s : State} (hc0 : Keeps bl s0 s)
    (hb : bl ∉ [.out, .eic, .mail, .eng, .sch, .front, .dma, .tb, .topo, .fns, .slots, .err, .pair] := by exact notMem_of ‹_ ∉ _› rfl) : KeepsO bl s0 (execErrorDetected err s) := by
  unfold execErrorDetected; try dsimp only
  repeat' (with_reducible first | assumption | intro _ | exact notMem_of hb rfl | apply detect_keeps | apply live_keeps | apply guarded_keeps | apply Keeps.ite | apply KeepsO.ite | apply KeepsO.next | split)

theorem execEngineRejoin_keeps {bl : Block} (e : EngId) {s0 s : State} (hc0 : Keeps bl s0 s)
    (hb : bl ∉ [.eng] := by exact notMem_of ‹_ ∉ _› rfl) : KeepsO bl s0 (execEngineRejoin e s) := by
  unfold execEngineRejoin; try dsimp only
  repeat' (first | (with_reducible first | assumption | intro _ | exact notMem_of hb rfl | apply modEng_keeps | apply eng_keeps | apply live_keeps | apply guarded_keeps | apply Keeps.ite | apply KeepsO.ite | apply KeepsO.next | split) | ((with_reducible refine Keeps.mk ?_ ?_) <;> [skip; (cases bl <;> first | exact absurd (by decide) hb | rfl)]))

theorem execErrorWindowStart_keeps {bl : Block} (c : Fin 7) {s0 s : State} (hc0 : Keeps bl s0 s)
    (hb : bl ∉ [.err] := by exact notMem_of ‹_ ∉ _› rfl) : KeepsO bl s0 (execErrorWindowStart c s) := by
  unfold execErrorWindowStart; try dsimp only
  repeat' (with_reducible first | assumption | intro _ | exact notMem_of hb rfl | apply rollWindow_keeps | apply live_keeps | apply guarded_keeps | apply Keeps.ite | apply KeepsO.ite | apply KeepsO.next | split)

theorem errCfgWrite_keeps {bl : Block} (c : ℕ) (v : U32) {s0 s : State} (hc0 : Keeps bl s0 s)
    (hb : bl ∉ [.err] := by exact notMem_of ‹_ ∉ _› rfl) : Keeps bl s0 (errCfgWrite c v s) := by
  unfold errCfgWrite; try dsimp only
  repeat' (first | (with_reducible first | assumption | intro _ | exact notMem_of hb rfl | apply modErr_keeps | apply clearCounts_keeps | apply Keeps.ite | apply KeepsO.ite | apply KeepsO.next | split) | ((with_reducible refine Keeps.mk ?_ ?_) <;> [skip; (cases bl <;> first | exact absurd (by decide) hb | rfl)]))

theorem execErrCfgWrite_keeps {bl : Block} (c : Fin 7) (value : U32) {s0 s : State} (hc0 : Keeps bl s0 s)
    (hb : bl ∉ [.err] := by exact notMem_of ‹_ ∉ _› rfl) : KeepsO bl s0 (execErrCfgWrite c value s) := by
  unfold execErrCfgWrite; try dsimp only
  repeat' (with_reducible first | assumption | intro _ | exact notMem_of hb rfl | apply errCfgWrite_keeps | apply hostReaches_keeps | apply guarded_keeps | apply Keeps.ite | apply KeepsO.ite | apply KeepsO.next | split)

theorem portFailedClear_keeps {bl : Block} (mask : U64) {s0 s : State} (hc0 : Keeps bl s0 s)
    (hb : bl ∉ [.err] := by exact notMem_of ‹_ ∉ _› rfl) : Keeps bl s0 (portFailedClear mask s) := by
  unfold portFailedClear; try dsimp only
  repeat' (first | (with_reducible first | assumption | intro _ | exact notMem_of hb rfl | apply modErr_keeps | apply Keeps.ite | apply KeepsO.ite | apply KeepsO.next | split) | ((with_reducible refine Keeps.mk ?_ ?_) <;> [skip; (cases bl <;> first | exact absurd (by decide) hb | rfl)]))

theorem execErrPortFailedClear_keeps {bl : Block} (mask : U64) {s0 s : State} (hc0 : Keeps bl s0 s)
    (hb : bl ∉ [.err] := by exact notMem_of ‹_ ∉ _› rfl) : KeepsO bl s0 (execErrPortFailedClear mask s) := by
  unfold execErrPortFailedClear; try dsimp only
  repeat' (with_reducible first | assumption | intro _ | exact notMem_of hb rfl | apply portFailedClear_keeps | apply hostReaches_keeps | apply guarded_keeps | apply Keeps.ite | apply KeepsO.ite | apply KeepsO.next | split)

theorem execConfigRestored_keeps {bl : Block} (c : Fin 7) (inst : BitVec 12) {s0 s : State} (hc0 : Keeps bl s0 s)
    (hb : bl ∉ [.out, .eic, .fns, .err] := by exact notMem_of ‹_ ∉ _› rfl) : KeepsO bl s0 (execConfigRestored c inst s) := by
  unfold execConfigRestored; try dsimp only
  repeat' (first | (with_reducible first | assumption | intro _ | exact notMem_of hb rfl | apply raise_keeps | apply live_keeps | apply guarded_keeps | apply Keeps.ite | apply KeepsO.ite | apply KeepsO.next | split) | ((with_reducible refine Keeps.mk ?_ ?_) <;> [skip; (cases bl <;> first | exact absurd (by decide) hb | rfl)]))

theorem execCoreWatchdogExpiry_keeps {bl : Block} (core : Fin 2) {s0 s : State} (hc0 : Keeps bl s0 s)
    (hb : bl ∉ [.out, .mail, .sch, .front, .dma, .tb, .topo, .err, .pair] := by exact notMem_of ‹_ ∉ _› rfl) : KeepsO bl s0 (execCoreWatchdogExpiry core s) := by
  unfold execCoreWatchdogExpiry; try dsimp only
  repeat' (with_reducible first | assumption | intro _ | exact notMem_of hb rfl | apply fatalError_keeps | apply live_keeps | apply guarded_keeps | apply Keeps.ite | apply KeepsO.ite | apply KeepsO.next | split)

theorem debounceRoot_keeps {bl : Block} (p : ℕ) {s0 s : State} (hc0 : Keeps bl s0 s)
    (hb : bl ∉ [.topo] := by exact notMem_of ‹_ ∉ _› rfl) : Keeps bl s0 (debounceRoot p s) := by
  unfold debounceRoot; try dsimp only
  repeat' (first | (with_reducible first | assumption | intro _ | exact notMem_of hb rfl | apply genCap_keeps | apply attaches_keeps | apply modPort_keeps | apply Keeps.ite | apply KeepsO.ite | apply KeepsO.next | split) | ((with_reducible refine Keeps.mk ?_ ?_) <;> [skip; (cases bl <;> first | exact absurd (by decide) hb | rfl)]))

theorem debounceHub_keeps {bl : Block} (h : ℕ) (q : ℕ) {s0 s : State} (hc0 : Keeps bl s0 s)
    (hb : bl ∉ [.topo] := by exact notMem_of ‹_ ∉ _› rfl) : Keeps bl s0 (debounceHub h q s) := by
  unfold debounceHub; try dsimp only
  repeat' (first | (with_reducible first | assumption | intro _ | exact notMem_of hb rfl | apply modHubPort_keeps | apply boundGood_keeps | apply hubPort_keeps | apply Keeps.ite | apply KeepsO.ite | apply KeepsO.next | split) | ((with_reducible refine Keeps.mk ?_ ?_) <;> [skip; (cases bl <;> first | exact absurd (by decide) hb | rfl)]))

theorem disconnect_keeps {bl : Block} (at_ : Loc) {s0 s : State} (hc0 : Keeps bl s0 s)
    (hb : bl ∉ [.out, .eic, .mail, .eng, .sch, .front, .dma, .tb, .topo, .fns] := by exact notMem_of ‹_ ∉ _› rfl) : Keeps bl s0 (disconnect at_ s) := by
  unfold disconnect; try dsimp only
  repeat' (with_reducible first | assumption | intro _ | exact notMem_of hb rfl | apply stDeviceGone_keeps | apply locGone_keeps | apply Keeps.ite | apply KeepsO.ite | apply KeepsO.next | split)

theorem rootConnect_keeps {bl : Block} (p : PortId) (present : Bool) {s0 s : State} (hc0 : Keeps bl s0 s)
    (hb : bl ∉ [.out, .eic, .mail, .eng, .sch, .front, .dma, .tb, .topo, .fns] := by exact notMem_of ‹_ ∉ _› rfl) : Keeps bl s0 (rootConnect p present s) := by
  unfold rootConnect; try dsimp only
  repeat' (first | (with_reducible first | assumption | intro _ | exact notMem_of hb rfl | apply debounceRoot_keeps | apply disconnect_keeps | apply port_keeps | apply modPort_keeps | apply Keeps.ite | apply KeepsO.ite | apply KeepsO.next | split) | ((with_reducible refine Keeps.mk ?_ ?_) <;> [skip; (cases bl <;> first | exact absurd (by decide) hb | rfl)]))

theorem hubConnect_keeps {bl : Block} (h : Fin 4096) (q : Fin 16) (present : Bool) {s0 s : State} (hc0 : Keeps bl s0 s)
    (hb : bl ∉ [.out, .eic, .mail, .eng, .sch, .front, .dma, .tb, .topo, .fns] := by exact notMem_of ‹_ ∉ _› rfl) : Keeps bl s0 (hubConnect h q present s) := by
  unfold hubConnect; try dsimp only
  repeat' (first | (with_reducible first | assumption | intro _ | exact notMem_of hb rfl | apply debounceHub_keeps | apply modHubPort_keeps | apply disconnect_keeps | apply hubPort_keeps | apply locPort_keeps | apply port_keeps | apply Keeps.ite | apply KeepsO.ite | apply KeepsO.next | split) | ((with_reducible refine Keeps.mk ?_ ?_) <;> [skip; (cases bl <;> first | exact absurd (by decide) hb | rfl)]))

theorem execConnectChange_keeps {bl : Block} (at_ : Loc) (present : Bool) {s0 s : State} (hc0 : Keeps bl s0 s)
    (hb : bl ∉ [.out, .eic, .mail, .eng, .sch, .front, .dma, .tb, .topo, .fns] := by exact notMem_of ‹_ ∉ _› rfl) : KeepsO bl s0 (execConnectChange at_ present s) := by
  unfold execConnectChange; try dsimp only
  repeat' (with_reducible first | assumption | intro _ | exact notMem_of hb rfl | apply hubConnect_keeps | apply rootConnect_keeps | apply locExists_keeps | apply serves_keeps | apply guarded_keeps | apply Keeps.ite | apply KeepsO.ite | apply KeepsO.next | split)

theorem execMuleRemovalEvent_keeps {bl : Block} (n : SlotId) {s0 s : State} (hc0 : Keeps bl s0 s)
    (hb : bl ∉ [.out, .eic, .mail, .eng, .sch, .front, .dma, .tb, .topo, .fns] := by exact notMem_of ‹_ ∉ _› rfl) : KeepsO bl s0 (execMuleRemovalEvent n s) := by
  unfold execMuleRemovalEvent; try dsimp only
  repeat' (with_reducible first | assumption | intro _ | exact notMem_of hb rfl | apply slotTreeGone_keeps | apply live_keeps | apply guarded_keeps | apply Keeps.ite | apply KeepsO.ite | apply KeepsO.next | split)

theorem execMuleTripEvent_keeps {bl : Block} (n : SlotId) {s0 s : State} (hc0 : Keeps bl s0 s)
    (hb : bl ∉ [.out, .eic, .mail, .eng, .sch, .front, .dma, .tb, .topo, .fns] := by exact notMem_of ‹_ ∉ _› rfl) : KeepsO bl s0 (execMuleTripEvent n s) := by
  unfold execMuleTripEvent; try dsimp only
  repeat' (with_reducible first | assumption | intro _ | exact notMem_of hb rfl | apply slotTreeGone_keeps | apply live_keeps | apply guarded_keeps | apply Keeps.ite | apply KeepsO.ite | apply KeepsO.next | split)

theorem execMulePfwEvent_keeps {bl : Block} (n : SlotId) {s0 s : State} (hc0 : Keeps bl s0 s)
    (hb : bl ∉ [.out, .eic, .topo, .fns] := by exact notMem_of ‹_ ∉ _› rfl) : KeepsO bl s0 (execMulePfwEvent n s) := by
  unfold execMulePfwEvent; try dsimp only
  repeat' (first | (with_reducible first | assumption | intro _ | exact notMem_of hb rfl | apply modPort_keeps | apply raiseSlot_keeps | apply live_keeps | apply guarded_keeps | apply Keeps.ite | apply KeepsO.ite | apply KeepsO.next | split) | ((with_reducible refine Keeps.mk ?_ ?_) <;> [skip; (cases bl <;> first | exact absurd (by decide) hb | rfl)]))

theorem slotPowerGood_keeps {bl : Block} (n : ℕ) {s0 s : State} (hc0 : Keeps bl s0 s)
    (hb : bl ∉ [.topo] := by exact notMem_of ‹_ ∉ _› rfl) : Keeps bl s0 (slotPowerGood n s) := by
  unfold slotPowerGood; try dsimp only
  repeat' (first | (with_reducible first | assumption | intro _ | exact notMem_of hb rfl | apply debounceHub_keeps | apply boundPorts_keeps | apply each_keeps | apply modPort_keeps | apply debounceRoot_keeps | apply Keeps.ite | apply KeepsO.ite | apply KeepsO.next | split) | ((with_reducible refine Keeps.mk ?_ ?_) <;> [skip; (cases bl <;> first | exact absurd (by decide) hb | rfl)]))

theorem execMulePowerGoodEvent_keeps {bl : Block} (n : SlotId) {s0 s : State} (hc0 : Keeps bl s0 s)
    (hb : bl ∉ [.topo] := by exact notMem_of ‹_ ∉ _› rfl) : KeepsO bl s0 (execMulePowerGoodEvent n s) := by
  unfold execMulePowerGoodEvent; try dsimp only
  repeat' (with_reducible first | assumption | intro _ | exact notMem_of hb rfl | apply slotPowerGood_keeps | apply live_keeps | apply guarded_keeps | apply Keeps.ite | apply KeepsO.ite | apply KeepsO.next | split)

theorem legacyReset_keeps {bl : Block} (p : ℕ) {s0 s : State} (hc0 : Keeps bl s0 s)
    (hb : bl ∉ [.out, .mail, .eng, .sch, .front, .dma, .tb, .topo] := by exact notMem_of ‹_ ∉ _› rfl) : Keeps bl s0 (legacyReset p s) := by
  unfold legacyReset; try dsimp only
  repeat' (first | (with_reducible first | assumption | intro _ | exact notMem_of hb rfl | apply modPort_keeps | apply beginRootReset_keeps | apply Keeps.ite | apply KeepsO.ite | apply KeepsO.next | split) | ((with_reducible refine Keeps.mk ?_ ?_) <;> [skip; (cases bl <;> first | exact absurd (by decide) hb | rfl)]))

theorem attachRoot_keeps {bl : Block} (p : ℕ) {s0 s : State} (hc0 : Keeps bl s0 s)
    (hb : bl ∉ [.out, .eic, .mail, .eng, .sch, .front, .dma, .tb, .topo, .fns, .slots, .err, .pair] := by exact notMem_of ‹_ ∉ _› rfl) : Keeps bl s0 (attachRoot p s) := by
  unfold attachRoot; try dsimp only
  repeat' (first | (with_reducible first | assumption | intro _ | exact notMem_of hb rfl | apply detect_keeps | apply emit_keeps | apply beginRootReset_keeps | apply port_keeps | apply genCap_keeps | apply modPort_keeps | apply Keeps.ite | apply KeepsO.ite | apply KeepsO.next | split) | ((with_reducible refine Keeps.mk ?_ ?_) <;> [skip; (cases bl <;> first | exact absurd (by decide) hb | rfl)]))

theorem execAttachDebounceEnd_keeps {bl : Block} (at_ : Loc) {s0 s : State} (hc0 : Keeps bl s0 s)
    (hb : bl ∉ [.out, .eic, .mail, .eng, .sch, .front, .dma, .tb, .topo, .fns, .slots, .err, .pair] := by exact notMem_of ‹_ ∉ _› rfl) : KeepsO bl s0 (execAttachDebounceEnd at_ s) := by
  unfold execAttachDebounceEnd; try dsimp only
  repeat' (first | (with_reducible first | assumption | intro _ | exact notMem_of hb rfl | apply queueHub_keeps | apply hubPort_keeps | apply modHubPort_keeps | apply hubRequest_keeps | apply attachRoot_keeps | apply reportsFull_keeps | apply modPort_keeps | apply port_keeps | apply connectOf_keeps | apply locAttach_keeps | apply locExists_keeps | apply serves_keeps | apply guarded_keeps | apply Keeps.ite | apply KeepsO.ite | apply KeepsO.next | split) | ((with_reducible refine Keeps.mk ?_ ?_) <;> [skip; (cases bl <;> first | exact absurd (by decide) hb | rfl)]))

theorem releaseHeld_keeps {bl : Block} {s0 s : State} (hc0 : Keeps bl s0 s)
    (hb : bl ∉ [.out, .eic, .mail, .eng, .sch, .front, .dma, .tb, .topo, .fns, .slots, .err, .pair] := by exact notMem_of ‹_ ∉ _› rfl) : Keeps bl s0 (releaseHeld s) := by
  unfold releaseHeld; try dsimp only
  repeat' (with_reducible first | assumption | intro _ | exact notMem_of hb rfl | apply beginDue_keeps | apply attachRoot_keeps | apply each_keeps | apply port_keeps | apply reportsFull_keeps | apply Keeps.ite | apply KeepsO.ite | apply KeepsO.next | split)

theorem openCtx_keeps {bl : Block} (num : ℕ) (d : Device) (ep : ℕ) (dirIn : Bool) (c : Ctx) {s0 s : State} (hc0 : Keeps bl s0 s)
    (hb : bl ∉ [.free, .topo] := by exact notMem_of ‹_ ∉ _› rfl) : Keeps bl s0 (openCtx num d ep dirIn c s) := by
  unfold openCtx; try dsimp only
  repeat' (first | (with_reducible first | assumption | intro _ | exact notMem_of hb rfl | apply port_keeps | apply handleWord_keeps | apply handle_keeps | apply ctxKey_keeps | apply setCtx_keeps | apply freshIndex_keeps | apply Keeps.ite | apply KeepsO.ite | apply KeepsO.next | split) | ((with_reducible refine Keeps.mk ?_ ?_) <;> [skip; (cases bl <;> first | exact absurd (by decide) hb | rfl)]))

theorem openZero_keeps {bl : Block} (num : ℕ) (d : Device) {s0 s : State} (hc0 : Keeps bl s0 s)
    (hb : bl ∉ [.free, .topo] := by exact notMem_of ‹_ ∉ _› rfl) : Keeps bl s0 (openZero num d s) := by
  unfold openZero; try dsimp only
  repeat' (with_reducible first | assumption | intro _ | exact notMem_of hb rfl | apply maxBurstOf_keeps | apply maxPayload_keeps | apply openCtx_keeps | apply Keeps.ite | apply KeepsO.ite | apply KeepsO.next | split)

theorem openEp_keeps {bl : Block} (num : ℕ) (d : Device) (e : List Byte) {s0 s : State} (hc0 : Keeps bl s0 s)
    (hb : bl ∉ [.free, .topo] := by exact notMem_of ‹_ ∉ _› rfl) : Keeps bl s0 (openEp num d e s) := by
  unfold openEp; try dsimp only
  repeat' (with_reducible first | assumption | intro _ | exact notMem_of hb rfl | apply openCtx_keeps | apply Keeps.ite | apply KeepsO.ite | apply KeepsO.next | split)

theorem openAll_keeps {bl : Block} (num : ℕ) {s0 s : State} (hc0 : Keeps bl s0 s)
    (hb : bl ∉ [.topo] := by exact notMem_of ‹_ ∉ _› rfl) : Keeps bl s0 (openAll num s) := by
  unfold openAll; try dsimp only
  repeat' (first | (with_reducible first | assumption | intro _ | exact notMem_of hb rfl | apply Keeps.ite | apply KeepsO.ite | apply KeepsO.next | split) | ((with_reducible refine Keeps.mk ?_ ?_) <;> [skip; (cases bl <;> first | exact absurd (by decide) hb | rfl)]))

theorem addRefused_keeps {bl : Block} (l : Loc) {s0 s : State} (hc0 : Keeps bl s0 s)
    (hb : bl ∉ [.topo] := by exact notMem_of ‹_ ∉ _› rfl) : Keeps bl s0 (addRefused l s) := by
  unfold addRefused; try dsimp only
  repeat' (first | (with_reducible first | assumption | intro _ | exact notMem_of hb rfl | apply Keeps.ite | apply KeepsO.ite | apply KeepsO.next | split) | ((with_reducible refine Keeps.mk ?_ ?_) <;> [skip; (cases bl <;> first | exact absurd (by decide) hb | rfl)]))

theorem shutPort_keeps {bl : Block} (at_ : Loc) (a : Attach) (held : Bool) {s0 s : State} (hc0 : Keeps bl s0 s)
    (hb : bl ∉ [.out, .mail, .eng, .sch, .front, .dma, .tb, .topo] := by exact notMem_of ‹_ ∉ _› rfl) : Keeps bl s0 (shutPort at_ a held s) := by
  unfold shutPort; try dsimp only
  repeat' (first | (with_reducible first | assumption | intro _ | exact notMem_of hb rfl | apply modHubPort_keeps | apply clearFeature_keeps | apply clearLane_keeps | apply unhold_keeps | apply portIdle_keeps | apply modPort_keeps | apply emit_keeps | apply Keeps.ite | apply KeepsO.ite | apply KeepsO.next | split) | ((with_reducible refine Keeps.mk ?_ ?_) <;> [skip; (cases bl <;> first | exact absurd (by decide) hb | rfl)]))

theorem freedBy_keeps {bl : Block} (at_ : Loc) {s0 s : State} (hc0 : Keeps bl s0 s)
    (hb : bl ∉ [.out, .mail, .eng, .sch, .front, .dma, .tb, .topo] := by exact notMem_of ‹_ ∉ _› rfl) : Keeps bl s0 (freedBy at_ s) := by
  unfold freedBy; try dsimp only
  repeat' (with_reducible first | assumption | intro _ | exact notMem_of hb rfl | apply retryRefused_keeps | apply Keeps.ite | apply KeepsO.ite | apply KeepsO.next | split)

theorem dropEnum_keeps {bl : Block} (p : ℕ) {s0 s : State} (hc0 : Keeps bl s0 s)
    (hb : bl ∉ [.out, .mail, .eng, .sch, .front, .dma, .tb, .topo, .fns] := by exact notMem_of ‹_ ∉ _› rfl) : Keeps bl s0 (dropEnum p s) := by
  unfold dropEnum; try dsimp only
  repeat' (first | (with_reducible first | assumption | intro _ | exact notMem_of hb rfl | apply closeCtxs_keeps | apply untakeHandle_keeps | apply freedBy_keeps | apply dropRequests_keeps | apply modPort_keeps | apply port_keeps | apply Keeps.ite | apply KeepsO.ite | apply KeepsO.next | split) | ((with_reducible refine Keeps.mk ?_ ?_) <;> [skip; (cases bl <;> first | exact absurd (by decide) hb | rfl)]))

theorem refuseAt_keeps {bl : Block} (at_ : Loc) (ev : State → State) {s0 s : State} (hev : ∀ v0, Keeps bl s0 v0 → Keeps bl s0 (ev v0)) (hc0 : Keeps bl s0 s)
    (hb : bl ∉ [.out, .mail, .eng, .sch, .front, .dma, .tb, .topo, .fns] := by exact notMem_of ‹_ ∉ _› rfl) : Keeps bl s0 (refuseAt at_ ev s) := by
  unfold refuseAt; try dsimp only
  repeat' (with_reducible first | assumption | intro _ | exact notMem_of hb rfl | apply hev | apply dropEnum_keeps | apply shutPort_keeps | apply addRefused_keeps | apply startNext_keeps | apply locPort_keeps | apply Keeps.ite | apply KeepsO.ite | apply KeepsO.next | split)

theorem contextsExhausted_keeps {bl : Block} (p : ℕ) {s0 s : State} (hc0 : Keeps bl s0 s)
    (hb : bl ∉ [.out, .eic, .topo, .fns] := by exact notMem_of ‹_ ∉ _› rfl) : Keeps bl s0 (contextsExhausted p s) := by
  unfold contextsExhausted; try dsimp only
  repeat' (with_reducible first | assumption | intro _ | exact notMem_of hb rfl | apply port_keeps | apply addReport_keeps | apply raisePort_keeps | apply Keeps.ite | apply KeepsO.ite | apply KeepsO.next | split)

theorem setTries_keeps {bl : Block} (at_ : Loc) (n : ℕ) {s0 s : State} (hc0 : Keeps bl s0 s)
    (hb : bl ∉ [.topo] := by exact notMem_of ‹_ ∉ _› rfl) : Keeps bl s0 (setTries at_ n s) := by
  unfold setTries; try dsimp only
  repeat' (first | (with_reducible first | assumption | intro _ | exact notMem_of hb rfl | apply modHubPort_keeps | apply modPort_keeps | apply Keeps.ite | apply KeepsO.ite | apply KeepsO.next | split) | ((with_reducible refine Keeps.mk ?_ ?_) <;> [skip; (cases bl <;> first | exact absurd (by decide) hb | rfl)]))

theorem enumFail_keeps {bl : Block} (at_ : Loc) {s0 s : State} (hc0 : Keeps bl s0 s)
    (hb : bl ∉ [.out, .eic, .mail, .eng, .sch, .front, .dma, .tb, .topo, .fns] := by exact notMem_of ‹_ ∉ _› rfl) : Keeps bl s0 (enumFail at_ s) := by
  unfold enumFail; try dsimp only
  repeat' (first | (with_reducible first | assumption | intro _ | exact notMem_of hb rfl | apply shutPort_keeps | apply portEvent_keeps | apply startNext_keeps | apply port_keeps | apply clearTt_keeps | apply ttOf_keeps | apply stPortReset_keeps | apply tearDown_keeps | apply abandonCmds_keeps | apply modHubPort_keeps | apply queueHub_keeps | apply startRootReset_keeps | apply dropEnum_keeps | apply setTries_keeps | apply locTries_keeps | apply locPort_keeps | apply Keeps.ite | apply KeepsO.ite | apply KeepsO.next | split) | ((with_reducible refine Keeps.mk ?_ ?_) <;> [skip; (cases bl <;> first | exact absurd (by decide) hb | rfl)]))

theorem resetDone_keeps {bl : Block} (at_ : Loc) {s0 s : State} (hc0 : Keeps bl s0 s)
    (hb : bl ∉ [.out, .eic, .topo, .fns] := by exact notMem_of ‹_ ∉ _› rfl) : Keeps bl s0 (resetDone at_ s) := by
  unfold resetDone; try dsimp only
  repeat' (first | (with_reducible first | assumption | intro _ | exact notMem_of hb rfl | apply locPath_keeps | apply locGen_keeps | apply genCode_keeps | apply addRecord_keeps | apply modHubPort_keeps | apply modPort_keeps | apply hubPort_keeps | apply port_keeps | apply locPort_keeps | apply Keeps.ite | apply KeepsO.ite | apply KeepsO.next | split) | ((with_reducible refine Keeps.mk ?_ ?_) <;> [skip; (cases bl <;> first | exact absurd (by decide) hb | rfl)]))

theorem signalled_keeps {bl : Block} (at_ : Loc) {s0 s : State} (hc0 : Keeps bl s0 s)
    (hb : bl ∉ [.topo] := by exact notMem_of ‹_ ∉ _› rfl) : Keeps bl s0 (signalled at_ s) := by
  unfold signalled; try dsimp only
  repeat' (with_reducible first | assumption | intro _ | exact notMem_of hb rfl | apply deviceDefault_keeps | apply devAt_keeps | apply Keeps.ite | apply KeepsO.ite | apply KeepsO.next | split)

theorem enterRecovery_keeps {bl : Block} (at_ : Loc) (g : Gen) {s0 s : State} (hc0 : Keeps bl s0 s)
    (hb : bl ∉ [.out, .eic, .front, .topo, .fns] := by exact notMem_of ‹_ ∉ _› rfl) : Keeps bl s0 (enterRecovery at_ g s) := by
  unfold enterRecovery; try dsimp only
  repeat' (first | (with_reducible first | assumption | intro _ | exact notMem_of hb rfl | apply resetDone_keeps | apply modHubPort_keeps | apply modPort_keeps | apply unparkAborts_keeps | apply Keeps.ite | apply KeepsO.ite | apply KeepsO.next | split) | ((with_reducible refine Keeps.mk ?_ ?_) <;> [skip; (cases bl <;> first | exact absurd (by decide) hb | rfl)]))

theorem execResetSignallingEnd_keeps {bl : Block} (at_ : Loc) {s0 s : State} (hc0 : Keeps bl s0 s)
    (hb : bl ∉ [.out, .eic, .mail, .eng, .sch, .front, .dma, .tb, .topo, .fns, .slots, .err, .pair] := by exact notMem_of ‹_ ∉ _› rfl) : KeepsO bl s0 (execResetSignallingEnd at_ s) := by
  unfold execResetSignallingEnd; try dsimp only
  repeat' (first | (with_reducible first | assumption | intro _ | exact notMem_of hb rfl | apply hubRequest_keeps | apply detect_keeps | apply modPort_keeps | apply emit_keeps | apply port_keeps | apply serdesSide_keeps | apply signalled_keeps | apply locAttach_keeps | apply locExists_keeps | apply serves_keeps | apply guarded_keeps | apply Keeps.ite | apply KeepsO.ite | apply KeepsO.next | split) | ((with_reducible refine Keeps.mk ?_ ?_) <;> [skip; (cases bl <;> first | exact absurd (by decide) hb | rfl)]))

theorem execAnnounceWindowEnd_keeps {bl : Block} (p : PortId) (announced : Option Gen) {s0 s : State} (hc0 : Keeps bl s0 s)
    (hb : bl ∉ [.out, .eic, .mail, .eng, .sch, .front, .dma, .tb, .topo, .fns] := by exact notMem_of ‹_ ∉ _› rfl) : KeepsO bl s0 (execAnnounceWindowEnd p announced s) := by
  unfold execAnnounceWindowEnd; try dsimp only
  repeat' (first | (with_reducible first | assumption | intro _ | exact notMem_of hb rfl | apply emit_keeps | apply enterRecovery_keeps | apply enumFail_keeps | apply confirmGen_keeps | apply portIdle_keeps | apply modPort_keeps | apply unparkAborts_keeps | apply resetDone_keeps | apply connectOf_keeps | apply port_keeps | apply serves_keeps | apply guarded_keeps | apply Keeps.ite | apply KeepsO.ite | apply KeepsO.next | split) | ((with_reducible refine Keeps.mk ?_ ?_) <;> [skip; (cases bl <;> first | exact absurd (by decide) hb | rfl)]))

theorem execGenConfirmEnd_keeps {bl : Block} (p : PortId) {s0 s : State} (hc0 : Keeps bl s0 s)
    (hb : bl ∉ [.out, .eic, .front, .topo, .fns] := by exact notMem_of ‹_ ∉ _› rfl) : KeepsO bl s0 (execGenConfirmEnd p s) := by
  unfold execGenConfirmEnd; try dsimp only
  repeat' (with_reducible first | assumption | intro _ | exact notMem_of hb rfl | apply enterRecovery_keeps | apply port_keeps | apply serves_keeps | apply guarded_keeps | apply Keeps.ite | apply KeepsO.ite | apply KeepsO.next | split)

theorem trainingFailed_keeps {bl : Block} (p : ℕ) {s0 s : State} (hc0 : Keeps bl s0 s)
    (hb : bl ∉ [.out, .eic, .mail, .eng, .sch, .front, .dma, .tb, .topo, .fns, .slots, .err, .pair] := by exact notMem_of ‹_ ∉ _› rfl) : Keeps bl s0 (trainingFailed p s) := by
  unfold trainingFailed; try dsimp only
  repeat' (first | (with_reducible first | assumption | intro _ | exact notMem_of hb rfl | apply portEvent_keeps | apply stDeviceGone_keeps | apply portGone_keeps | apply legacyReset_keeps | apply emit_keeps | apply detect_keeps | apply modPort_keeps | apply port_keeps | apply Keeps.ite | apply KeepsO.ite | apply KeepsO.next | split) | ((with_reducible refine Keeps.mk ?_ ?_) <;> [skip; (cases bl <;> first | exact absurd (by decide) hb | rfl)]))

theorem execDetectWindowEnd_keeps {bl : Block} (p : PortId) {s0 s : State} (hc0 : Keeps bl s0 s)
    (hb : bl ∉ [.out, .eic, .mail, .eng, .sch, .front, .dma, .tb, .topo, .fns, .slots, .err, .pair] := by exact notMem_of ‹_ ∉ _› rfl) : KeepsO bl s0 (execDetectWindowEnd p s) := by
  unfold execDetectWindowEnd; try dsimp only
  repeat' (first | (with_reducible first | assumption | intro _ | exact notMem_of hb rfl | apply portIdle_keeps | apply legacyReset_keeps | apply modPort_keeps | apply emit_keeps | apply detect_keeps | apply port_keeps | apply serves_keeps | apply guarded_keeps | apply Keeps.ite | apply KeepsO.ite | apply KeepsO.next | split) | ((with_reducible refine Keeps.mk ?_ ?_) <;> [skip; (cases bl <;> first | exact absurd (by decide) hb | rfl)]))

theorem execTrainingTimeout_keeps {bl : Block} (p : PortId) {s0 s : State} (hc0 : Keeps bl s0 s)
    (hb : bl ∉ [.out, .eic, .mail, .eng, .sch, .front, .dma, .tb, .topo, .fns, .slots, .err, .pair] := by exact notMem_of ‹_ ∉ _› rfl) : KeepsO bl s0 (execTrainingTimeout p s) := by
  unfold execTrainingTimeout; try dsimp only
  repeat' (with_reducible first | assumption | intro _ | exact notMem_of hb rfl | apply trainingFailed_keeps | apply detect_keeps | apply port_keeps | apply serves_keeps | apply guarded_keeps | apply Keeps.ite | apply KeepsO.ite | apply KeepsO.next | split)

theorem addressAs_keeps {bl : Block} (num : ℕ) (a : ℕ) {s0 s : State} (hc0 : Keeps bl s0 s)
    (hb : bl ∉ [.topo] := by exact notMem_of ‹_ ∉ _› rfl) : Keeps bl s0 (addressAs num a s) := by
  unfold addressAs; try dsimp only
  repeat' (first | (with_reducible first | assumption | intro _ | exact notMem_of hb rfl | apply modCtxs_keeps | apply Keeps.ite | apply KeepsO.ite | apply KeepsO.next | split) | ((with_reducible refine Keeps.mk ?_ ?_) <;> [skip; (cases bl <;> first | exact absurd (by decide) hb | rfl)]))

theorem enumStep_keeps {bl : Block} (p : ℕ) (e : Enum) (st : EnumStep) {s0 s : State} (hc0 : Keeps bl s0 s)
    (hb : bl ∉ [.front, .topo] := by exact notMem_of ‹_ ∉ _› rfl) : Keeps bl s0 (enumStep p e st s) := by
  unfold enumStep; try dsimp only
  repeat' (first | (with_reducible first | assumption | intro _ | exact notMem_of hb rfl | apply addressAs_keeps | apply request_keeps | apply modPort_keeps | apply Keeps.ite | apply KeepsO.ite | apply KeepsO.next | split) | ((with_reducible refine Keeps.mk ?_ ?_) <;> [skip; (cases bl <;> first | exact absurd (by decide) hb | rfl)]))

theorem startEnum_keeps {bl : Block} (at_ : Loc) {s0 s : State} (hc0 : Keeps bl s0 s)
    (hb : bl ∉ [.out, .free, .eic, .mail, .eng, .sch, .front, .dma, .tb, .topo, .fns] := by exact notMem_of ‹_ ∉ _› rfl) : Keeps bl s0 (startEnum at_ s) := by
  unfold startEnum; try dsimp only
  repeat' (first | (with_reducible first | assumption | intro _ | exact notMem_of hb rfl | apply blankDevice_keeps | apply openZero_keeps | apply modHandle_keeps | apply contextsExhausted_keeps | apply freeCtxs_keeps | apply freeAddr_keeps | apply portEvent_keeps | apply refuseAt_keeps | apply enumStep_keeps | apply devAt_keeps | apply locPort_keeps | apply Keeps.ite | apply KeepsO.ite | apply KeepsO.next | refine takeHandle_keeps (by assumption) ?_ | split) | ((with_reducible refine Keeps.mk ?_ ?_) <;> [skip; (cases bl <;> first | exact absurd (by decide) hb | rfl)]))

theorem execResetRecoveryEnd_keeps {bl : Block} (at_ : Loc) {s0 s : State} (hc0 : Keeps bl s0 s)
    (hb : bl ∉ [.out, .free, .eic, .mail, .eng, .sch, .front, .dma, .tb, .topo, .fns] := by exact notMem_of ‹_ ∉ _› rfl) : KeepsO bl s0 (execResetRecoveryEnd at_ s) := by
  unfold execResetRecoveryEnd; try dsimp only
  repeat' (with_reducible first | assumption | intro _ | exact notMem_of hb rfl | apply startEnum_keeps | apply locPort_keeps | apply port_keeps | apply locAttach_keeps | apply locExists_keeps | apply serves_keeps | apply guarded_keeps | apply Keeps.ite | apply KeepsO.ite | apply KeepsO.next | split)

theorem execEnumAddressWaitEnd_keeps {bl : Block} (p : PortId) {s0 s : State} (hc0 : Keeps bl s0 s)
    (hb : bl ∉ [.front, .topo] := by exact notMem_of ‹_ ∉ _› rfl) : KeepsO bl s0 (execEnumAddressWaitEnd p s) := by
  unfold execEnumAddressWaitEnd; try dsimp only
  repeat' (with_reducible first | assumption | intro _ | exact notMem_of hb rfl | apply enumStep_keeps | apply port_keeps | apply serves_keeps | apply guarded_keeps | apply Keeps.ite | apply KeepsO.ite | apply KeepsO.next | split)

theorem applyRules_keeps {bl : Block} (num : ℕ) (d : Device) {s0 s : State} (hc0 : Keeps bl s0 s)
    (hb : bl ∉ [.out, .eic, .topo, .fns] := by exact notMem_of ‹_ ∉ _› rfl) : Keeps bl s0 (applyRules num d s) := by
  unfold applyRules; try dsimp only
  repeat' (first | (with_reducible first | assumption | intro _ | exact notMem_of hb rfl | apply modDev_keeps | apply raise_keeps | apply bindBar_keeps | apply tfind_keeps | apply ruleMatches_keeps | apply eng_keeps | apply Keeps.ite | apply KeepsO.ite | apply KeepsO.next | split) | ((with_reducible refine Keeps.mk ?_ ?_) <;> [skip; (cases bl <;> first | exact absurd (by decide) hb | rfl)]))

theorem admitStatus_keeps {bl : Block} {num : Nat} {s0 s t : State} (e : admitStatus num s = some t) (hc0 : Keeps bl s0 s)
    (hb : bl ∉ [.free, .sch] := by exact notMem_of ‹_ ∉ _› rfl) : Keeps bl s0 t := by
  unfold admitStatus at e
  split at e
  · cases e
  · split at e
    · cases e
    · split at e
      · cases e
      · split at e
        · next h => cases e; exact tryAdmit_keeps h hc0
        · cases e

theorem startPolling_keeps {bl : Block} (num : ℕ) (d : Device) {s0 s : State} (hc0 : Keeps bl s0 s)
    (hb : bl ∉ [.topo] := by exact notMem_of ‹_ ∉ _› rfl) : Keeps bl s0 (startPolling num d s) := by
  unfold startPolling; try dsimp only
  repeat' (first | (with_reducible first | assumption | intro _ | exact notMem_of hb rfl | apply handleWord_keeps | apply handle_keeps | apply port_keeps | apply addReport_keeps | apply modDev_keeps | apply Keeps.ite | apply KeepsO.ite | apply KeepsO.next | split) | ((with_reducible refine Keeps.mk ?_ ?_) <;> [skip; (cases bl <;> first | exact absurd (by decide) hb | rfl)]))

theorem joinAs_keeps {bl : Block} (num : ℕ) (owner : ℕ) (reused : Bool) (d : Device) {s0 s : State} (hc0 : Keeps bl s0 s)
    (hb : bl ∉ [.out, .free, .eic, .sch, .topo, .fns] := by exact notMem_of ‹_ ∉ _› rfl) : Keeps bl s0 (joinAs num owner reused d s) := by
  unfold joinAs; try dsimp only
  repeat' (first | (with_reducible first | assumption | intro _ | exact notMem_of hb rfl | apply startPolling_keeps | apply refreshIso_keeps | apply raiseVf_keeps | apply attachRecord_keeps | apply applyRules_keeps | apply handleWord_keeps | apply handle_keeps | apply modDev_keeps | apply enliven_keeps | apply Keeps.ite | apply KeepsO.ite | apply KeepsO.next | refine admitStatus_keeps (by assumption) ?_ | split) | ((with_reducible refine Keeps.mk ?_ ?_) <;> [skip; (cases bl <;> first | exact absurd (by decide) hb | rfl)]))

theorem quotaFull_keeps {bl : Block} (f : ℕ) {s0 s : State} (hc0 : Keeps bl s0 s)
    (hb : bl ∉ [.out, .eic, .fns] := by exact notMem_of ‹_ ∉ _› rfl) : Keeps bl s0 (quotaFull f s) := by
  unfold quotaFull; try dsimp only
  repeat' (first | (with_reducible first | assumption | intro _ | exact notMem_of hb rfl | apply raise_keeps | apply Keeps.ite | apply KeepsO.ite | apply KeepsO.next | split) | ((with_reducible refine Keeps.mk ?_ ?_) <;> [skip; (cases bl <;> first | exact absurd (by decide) hb | rfl)]))

theorem complete_keeps {bl : Block} (num : ℕ) (reused : Bool) {s0 s : State} (hc0 : Keeps bl s0 s)
    (hb : bl ∉ [.out, .free, .eic, .mail, .eng, .sch, .front, .dma, .tb, .topo, .fns] := by exact notMem_of ‹_ ∉ _› rfl) : Keeps bl s0 (complete num reused s) := by
  unfold complete; try dsimp only
  repeat' (first | (with_reducible first | assumption | intro _ | exact notMem_of hb rfl | apply freedBy_keeps | apply quotaFull_keeps | apply refuseAt_keeps | apply tdel_keeps | apply closeCtxs_keeps | apply untakeHandle_keeps | apply domainOwners_keeps | apply joinAs_keeps | apply newOwner_keeps | apply Keeps.ite | apply KeepsO.ite | apply KeepsO.next | split) | ((with_reducible refine Keeps.mk ?_ ?_) <;> [skip; (cases bl <;> first | exact absurd (by decide) hb | rfl)]))

theorem rekey_keeps {bl : Block} (r : ℕ) (o : ℕ) {s0 s : State} (hc0 : Keeps bl s0 s)
    (hb : bl ∉ [.front, .topo] := by exact notMem_of ‹_ ∉ _› rfl) : Keeps bl s0 (rekey r o s) := by
  unfold rekey; try dsimp only
  repeat' (first | (with_reducible first | assumption | intro _ | exact notMem_of hb rfl | apply port_keeps | apply requests_keeps | apply handle_keeps | apply locRename_keeps | apply tput_keeps | apply Keeps.ite | apply KeepsO.ite | apply KeepsO.next | split) | ((with_reducible refine Keeps.mk ?_ ?_) <;> [skip; (cases bl <;> first | exact absurd (by decide) hb | rfl)]))

theorem adopt_keeps {bl : Block} (r : ℕ) (o : ℕ) {s0 s : State} (hc0 : Keeps bl s0 s)
    (hb : bl ∉ [.out, .free, .eic, .mail, .eng, .sch, .front, .dma, .tb, .topo, .fns] := by exact notMem_of ‹_ ∉ _› rfl) : Keeps bl s0 (adopt r o s) := by
  unfold adopt; try dsimp only
  repeat' (first | (with_reducible first | assumption | intro _ | exact notMem_of hb rfl | apply untakeHandle_keeps | apply rekey_keeps | apply complete_keeps | apply retryRefused_keeps | apply Keeps.ite | apply KeepsO.ite | apply KeepsO.next | split) | ((with_reducible refine Keeps.mk ?_ ?_) <;> [skip; (cases bl <;> first | exact absurd (by decide) hb | rfl)]))

theorem sweepHandles_keeps {bl : Block} {s0 s : State} (hc0 : Keeps bl s0 s)
    (hb : bl ∉ [.out, .free, .eic, .mail, .eng, .sch, .front, .dma, .tb, .topo, .fns] := by exact notMem_of ‹_ ∉ _› rfl) : Keeps bl s0 (sweepHandles s) := by
  unfold sweepHandles; try dsimp only
  repeat' (first | (with_reducible first | assumption | intro _ | exact notMem_of hb rfl | apply modHandle_keeps | apply retryRefused_keeps | apply adopt_keeps | apply each_keeps | apply reusable_keeps | apply handle_keeps | apply Keeps.ite | apply KeepsO.ite | apply KeepsO.next | split) | ((with_reducible refine Keeps.mk ?_ ?_) <;> [skip; (cases bl <;> first | exact absurd (by decide) hb | rfl)]))

theorem finishEnum_keeps {bl : Block} (p : ℕ) (e : Enum) {s0 s : State} (hc0 : Keeps bl s0 s)
    (hb : bl ∉ [.out, .free, .eic, .mail, .eng, .sch, .front, .dma, .tb, .topo, .fns] := by exact notMem_of ‹_ ∉ _› rfl) : Keeps bl s0 (finishEnum p e s) := by
  unfold finishEnum; try dsimp only
  repeat' (first | (with_reducible first | assumption | intro _ | exact notMem_of hb rfl | apply startNext_keeps | apply adopt_keeps | apply reusable_keeps | apply handle_keeps | apply complete_keeps | apply oldNumber_keeps | apply modHubPort_keeps | apply modPort_keeps | apply setDev_keeps | apply enumDevice_keeps | apply Keeps.ite | apply KeepsO.ite | apply KeepsO.next | split) | ((with_reducible refine Keeps.mk ?_ ?_) <;> [skip; (cases bl <;> first | exact absurd (by decide) hb | rfl)]))

theorem execHandleReuseTimeout_keeps {bl : Block} (h : Fin 4096) {s0 s : State} (hc0 : Keeps bl s0 s)
    (hb : bl ∉ [.out, .free, .eic, .mail, .eng, .sch, .front, .dma, .tb, .topo, .fns] := by exact notMem_of ‹_ ∉ _› rfl) : KeepsO bl s0 (execHandleReuseTimeout h s) := by
  unfold execHandleReuseTimeout; try dsimp only
  repeat' (first | (with_reducible first | assumption | intro _ | exact notMem_of hb rfl | apply complete_keeps | apply live_keeps | apply guarded_keeps | apply Keeps.ite | apply KeepsO.ite | apply KeepsO.next | split) | ((with_reducible refine Keeps.mk ?_ ?_) <;> [skip; (cases bl <;> first | exact absurd (by decide) hb | rfl)]))

theorem finishAgain_keeps {bl : Block} (p : ℕ) (e : Enum) {s0 s : State} (hc0 : Keeps bl s0 s)
    (hb : bl ∉ [.out, .eic, .front, .topo, .fns] := by exact notMem_of ‹_ ∉ _› rfl) : Keeps bl s0 (finishAgain p e s) := by
  unfold finishAgain; try dsimp only
  repeat' (first | (with_reducible first | assumption | intro _ | exact notMem_of hb rfl | apply startNext_keeps | apply deviceReport_keeps | apply addRecord_keeps | apply modHubPort_keeps | apply modPort_keeps | apply openAll_keeps | apply Keeps.ite | apply KeepsO.ite | apply KeepsO.next | split) | ((with_reducible refine Keeps.mk ?_ ?_) <;> [skip; (cases bl <;> first | exact absurd (by decide) hb | rfl)]))

theorem tierLimit_keeps {bl : Block} (p : ℕ) (at_ : Loc) {s0 s : State} (hc0 : Keeps bl s0 s)
    (hb : bl ∉ [.out, .eic, .mail, .eng, .sch, .front, .dma, .tb, .topo, .fns] := by exact notMem_of ‹_ ∉ _› rfl) : Keeps bl s0 (tierLimit p at_ s) := by
  unfold tierLimit; try dsimp only
  repeat' (with_reducible first | assumption | intro _ | exact notMem_of hb rfl | apply dropEnum_keeps | apply shutPort_keeps | apply portEvent_keeps | apply startNext_keeps | apply answerTopo_keeps | apply Keeps.ite | apply KeepsO.ite | apply KeepsO.next | split)

theorem afterIdent_keeps {bl : Block} (p : ℕ) (e : Enum) (data : List Byte) {s0 s : State} (hc0 : Keeps bl s0 s)
    (hb : bl ∉ [.out, .eic, .mail, .eng, .sch, .front, .dma, .tb, .topo, .fns] := by exact notMem_of ‹_ ∉ _› rfl) : Keeps bl s0 (afterIdent p e data s) := by
  unfold afterIdent; try dsimp only
  repeat' (first | (with_reducible first | assumption | intro _ | exact notMem_of hb rfl | apply enumStep_keeps | apply modPort_keeps | apply tierLimit_keeps | apply locPath_keeps | apply ctxKey_keeps | apply modCtx_keeps | apply Keeps.ite | apply KeepsO.ite | apply KeepsO.next | split) | ((with_reducible refine Keeps.mk ?_ ?_) <;> [skip; (cases bl <;> first | exact absurd (by decide) hb | rfl)]))

theorem identityChanged_keeps {bl : Block} (p : ℕ) (e : Enum) (data : List Byte) {s0 s : State} (hc0 : Keeps bl s0 s)
    (hb : bl ∉ [.out, .free, .eic, .mail, .eng, .sch, .front, .dma, .tb, .topo, .fns] := by exact notMem_of ‹_ ∉ _› rfl) : Keeps bl s0 (identityChanged p e data s) := by
  unfold identityChanged; try dsimp only
  repeat' (first | (with_reducible first | assumption | intro _ | exact notMem_of hb rfl | apply enumDevice_keeps | apply openZero_keeps | apply afterIdent_keeps | apply modHandle_keeps | apply portEvent_keeps | apply refuseAt_keeps | apply stPortReset_keeps | apply tearOne_keeps | apply refreshIso_keeps | apply retryRefused_keeps | apply Keeps.ite | apply KeepsO.ite | apply KeepsO.next | refine takeHandle_keeps (by assumption) ?_ | split) | ((with_reducible refine Keeps.mk ?_ ?_) <;> [skip; (cases bl <;> first | exact absurd (by decide) hb | rfl)]))

theorem gotIdent_keeps {bl : Block} (p : ℕ) (e : Enum) (data : List Byte) {s0 s : State} (hc0 : Keeps bl s0 s)
    (hb : bl ∉ [.out, .free, .eic, .mail, .eng, .sch, .front, .dma, .tb, .topo, .fns] := by exact notMem_of ‹_ ∉ _› rfl) : Keeps bl s0 (gotIdent p e data s) := by
  unfold gotIdent; try dsimp only
  repeat' (with_reducible first | assumption | intro _ | exact notMem_of hb rfl | apply afterIdent_keeps | apply identityChanged_keeps | apply enumStep_keeps | apply enumFail_keeps | apply locGen_keeps | apply Keeps.ite | apply KeepsO.ite | apply KeepsO.next | split)

theorem gotConfig_keeps {bl : Block} (p : ℕ) (e : Enum) {s0 s : State} (hc0 : Keeps bl s0 s)
    (hb : bl ∉ [.out, .free, .eic, .mail, .eng, .sch, .front, .dma, .tb, .topo, .fns] := by exact notMem_of ‹_ ∉ _› rfl) : Keeps bl s0 (gotConfig p e s) := by
  unfold gotConfig; try dsimp only
  repeat' (with_reducible first | assumption | intro _ | exact notMem_of hb rfl | apply finishEnum_keeps | apply enumStep_keeps | apply openAll_keeps | apply finishAgain_keeps | apply Keeps.ite | apply KeepsO.ite | apply KeepsO.next | split)

theorem nextHubPort_keeps {bl : Block} (p : ℕ) (e : Enum) (q : ℕ) {s0 s : State} (hc0 : Keeps bl s0 s)
    (hb : bl ∉ [.out, .free, .eic, .mail, .eng, .sch, .front, .dma, .tb, .topo, .fns] := by exact notMem_of ‹_ ∉ _› rfl) : Keeps bl s0 (nextHubPort p e q s) := by
  unfold nextHubPort; try dsimp only
  repeat' (with_reducible first | assumption | intro _ | exact notMem_of hb rfl | apply finishEnum_keeps | apply enumStep_keeps | apply Keeps.ite | apply KeepsO.ite | apply KeepsO.next | split)

theorem enumDone_keeps {bl : Block} (p : ℕ) (res : XferResult) (data : List Byte) {s0 s : State} (hc0 : Keeps bl s0 s)
    (hb : bl ∉ [.out, .free, .eic, .mail, .eng, .sch, .front, .dma, .tb, .topo, .fns] := by exact notMem_of ‹_ ∉ _› rfl) : Keeps bl s0 (enumDone p res data s) := by
  unfold enumDone; try dsimp only
  repeat' (first | (with_reducible first | assumption | intro _ | exact notMem_of hb rfl | apply modPort_keeps | apply gotConfig_keeps | apply each_keeps | apply epsOk_keeps | apply statusCtx_keeps | apply enumDevice_keeps | apply openEp_keeps | apply contextsExhausted_keeps | apply refuseAt_keeps | apply freeCtxs_keeps | apply locGen_keeps | apply gotIdent_keeps | apply enumStep_keeps | apply enumFail_keeps | apply dropRequests_keeps | apply port_keeps | apply Keeps.ite | apply KeepsO.ite | apply KeepsO.next | split) | ((with_reducible refine Keeps.mk ?_ ?_) <;> [skip; (cases bl <;> first | exact absurd (by decide) hb | rfl)]))

theorem execEnumTransferDone_keeps {bl : Block} (p : PortId) (res : XferResult) (data : List Byte) {s0 s : State} (hc0 : Keeps bl s0 s)
    (hb : bl ∉ [.out, .free, .eic, .mail, .eng, .sch, .front, .dma, .tb, .topo, .fns] := by exact notMem_of ‹_ ∉ _› rfl) : KeepsO bl s0 (execEnumTransferDone p res data s) := by
  unfold execEnumTransferDone; try dsimp only
  repeat' (with_reducible first | assumption | intro _ | exact notMem_of hb rfl | apply enumDone_keeps | apply serves_keeps | apply guarded_keeps | apply Keeps.ite | apply KeepsO.ite | apply KeepsO.next | split)

theorem execHubPowerOnWaitEnd_keeps {bl : Block} (p : PortId) {s0 s : State} (hc0 : Keeps bl s0 s)
    (hb : bl ∉ [.out, .free, .eic, .mail, .eng, .sch, .front, .dma, .tb, .topo, .fns] := by exact notMem_of ‹_ ∉ _› rfl) : KeepsO bl s0 (execHubPowerOnWaitEnd p s) := by
  unfold execHubPowerOnWaitEnd; try dsimp only
  repeat' (with_reducible first | assumption | intro _ | exact notMem_of hb rfl | apply nextHubPort_keeps | apply port_keeps | apply serves_keeps | apply guarded_keeps | apply Keeps.ite | apply KeepsO.ite | apply KeepsO.next | split)

theorem hubReset_keeps {bl : Block} (h : Fin 4096) (q : Fin 16) (w : U32) {s0 s : State} (hc0 : Keeps bl s0 s)
    (hb : bl ∉ [.out, .eic, .mail, .eng, .sch, .front, .dma, .tb, .topo, .fns] := by exact notMem_of ‹_ ∉ _› rfl) : Keeps bl s0 (hubReset h q w s) := by
  unfold hubReset; try dsimp only
  repeat' (first | (with_reducible first | assumption | intro _ | exact notMem_of hb rfl | apply genOf_keeps | apply enterRecovery_keeps | apply enumFail_keeps | apply shutPort_keeps | apply portEvent_keeps | apply modHubPort_keeps | apply resetDone_keeps | apply startNext_keeps | apply signalled_keeps | apply unparkAborts_keeps | apply hubPort_keeps | apply locPort_keeps | apply Keeps.ite | apply KeepsO.ite | apply KeepsO.next | split) | ((with_reducible refine Keeps.mk ?_ ?_) <;> [skip; (cases bl <;> first | exact absurd (by decide) hb | rfl)]))

theorem hubResumed_keeps {bl : Block} (h : Fin 4096) (q : Fin 16) (wake : Bool) {s0 s : State} (hc0 : Keeps bl s0 s)
    (hb : bl ∉ [.topo] := by exact notMem_of ‹_ ∉ _› rfl) : Keeps bl s0 (hubResumed h q wake s) := by
  unfold hubResumed; try dsimp only
  repeat' (first | (with_reducible first | assumption | intro _ | exact notMem_of hb rfl | apply now_keeps | apply modHubPort_keeps | apply resetAt_keeps | apply Keeps.ite | apply KeepsO.ite | apply KeepsO.next | split) | ((with_reducible refine Keeps.mk ?_ ?_) <;> [skip; (cases bl <;> first | exact absurd (by decide) hb | rfl)]))

theorem hubWord_keeps {bl : Block} (h : Fin 4096) (q : Fin 16) (w : U32) {s0 s : State} (hc0 : Keeps bl s0 s)
    (hb : bl ∉ [.out, .eic, .mail, .eng, .sch, .front, .dma, .tb, .topo, .fns] := by exact notMem_of ‹_ ∉ _› rfl) : Keeps bl s0 (hubWord h q w s) := by
  unfold hubWord; try dsimp only
  repeat' (first | (with_reducible first | assumption | intro _ | exact notMem_of hb rfl | apply clearTt_keeps | apply stDeviceGone_keeps | apply hubPortGone_keeps | apply hubReset_keeps | apply portEvent_keeps | apply hubResumed_keeps | apply modHubPort_keeps | apply hubConnect_keeps | apply hubPort_keeps | apply clearFeature_keeps | apply each_keeps | apply hubRequest_keeps | apply locPort_keeps | apply Keeps.ite | apply KeepsO.ite | apply KeepsO.next | split) | ((with_reducible refine Keeps.mk ?_ ?_) <;> [skip; (cases bl <;> first | exact absurd (by decide) hb | rfl)]))

theorem execHubStatusChange_keeps {bl : Block} (hub : Fin 4096) (map : U16) (hubStatus : U32) (words : List (Fin 16 × U32)) {s0 s : State} (hc0 : Keeps bl s0 s)
    (hb : bl ∉ [.out, .eic, .mail, .eng, .sch, .front, .dma, .tb, .topo, .fns] := by exact notMem_of ‹_ ∉ _› rfl) : KeepsO bl s0 (execHubStatusChange hub map hubStatus words s) := by
  unfold execHubStatusChange; try dsimp only
  repeat' (with_reducible first | assumption | intro _ | exact notMem_of hb rfl | apply hubWord_keeps | apply locExists_keeps | apply each_keeps | apply portEvent_keeps | apply hubRequest_keeps | apply port_keeps | apply serves_keeps | apply guarded_keeps | apply Keeps.ite | apply KeepsO.ite | apply KeepsO.next | split)

theorem execHubPolled_keeps {bl : Block} (hub : Fin 4096) {s0 s : State} (hc0 : Keeps bl s0 s)
    (hb : bl ∉ [.front, .topo] := by exact notMem_of ‹_ ∉ _› rfl) : KeepsO bl s0 (execHubPolled hub s) := by
  unfold execHubPolled; try dsimp only
  repeat' (with_reducible first | assumption | intro _ | exact notMem_of hb rfl | apply askWork_keeps | apply pollPending_keeps | apply serves_keeps | apply guarded_keeps | apply Keeps.ite | apply KeepsO.ite | apply KeepsO.next | split)

theorem execHubAdmitRetry_keeps {bl : Block} (hub : Fin 4096) {s0 s : State} (hc0 : Keeps bl s0 s)
    (hb : bl ∉ [.free, .sch, .topo] := by exact notMem_of ‹_ ∉ _› rfl) : KeepsO bl s0 (execHubAdmitRetry hub s) := by
  unfold execHubAdmitRetry; try dsimp only
  repeat' (first | (with_reducible first | assumption | intro _ | exact notMem_of hb rfl | apply modDev_keeps | apply live_keeps | apply guarded_keeps | apply Keeps.ite | apply KeepsO.ite | apply KeepsO.next | refine admitStatus_keeps (by assumption) ?_ | split) | ((with_reducible refine Keeps.mk ?_ ?_) <;> [skip; (cases bl <;> first | exact absurd (by decide) hb | rfl)]))

theorem modRun_keeps {bl : Block} (e : ℕ) (g : Thread → Thread) {s0 s : State} (hc0 : Keeps bl s0 s)
    (hb : bl ∉ [.eng] := by exact notMem_of ‹_ ∉ _› rfl) : Keeps bl s0 (modRun e g s) := by
  unfold modRun; try dsimp only
  repeat' (first | (with_reducible first | assumption | intro _ | exact notMem_of hb rfl | apply modEng_keeps | apply Keeps.ite | apply KeepsO.ite | apply KeepsO.next | split) | ((with_reducible refine Keeps.mk ?_ ?_) <;> [skip; (cases bl <;> first | exact absurd (by decide) hb | rfl)]))

theorem decideItem_keeps {bl : Block} (i : ℕ) (st : Byte) {s0 s : State} (hc0 : Keeps bl s0 s)
    (hb : bl ∉ [.front] := by exact notMem_of ‹_ ∉ _› rfl) : Keeps bl s0 (decideItem i st s) := by
  unfold decideItem; try dsimp only
  repeat' (first | (with_reducible first | assumption | intro _ | exact notMem_of hb rfl | apply setItem_keeps | apply mayDecide_keeps | apply Keeps.ite | apply KeepsO.ite | apply KeepsO.next | split) | ((with_reducible refine Keeps.mk ?_ ?_) <;> [skip; (cases bl <;> first | exact absurd (by decide) hb | rfl)]))

theorem overrideItem_keeps {bl : Block} (i : ℕ) (st : Byte) {s0 s : State} (hc0 : Keeps bl s0 s)
    (hb : bl ∉ [.front] := by exact notMem_of ‹_ ∉ _› rfl) : Keeps bl s0 (overrideItem i st s) := by
  unfold overrideItem; try dsimp only
  repeat' (first | (with_reducible first | assumption | intro _ | exact notMem_of hb rfl | apply modItem_keeps | apply Keeps.ite | apply KeepsO.ite | apply KeepsO.next | split) | ((with_reducible refine Keeps.mk ?_ ?_) <;> [skip; (cases bl <;> first | exact absurd (by decide) hb | rfl)]))

theorem setWorkSeq_keeps {bl : Block} (w : Work) (q : BitVec 5) {s0 s : State} (hc0 : Keeps bl s0 s)
    (hb : bl ∉ [.sch, .topo] := by exact notMem_of ‹_ ∉ _› rfl) : Keeps bl s0 (setWorkSeq w q s) := by
  unfold setWorkSeq; try dsimp only
  repeat' (first | (with_reducible first | assumption | intro _ | exact notMem_of hb rfl | apply workCtx_keeps | apply modCtx_keeps | apply modPstate_keeps | apply Keeps.ite | apply KeepsO.ite | apply KeepsO.next | split) | ((with_reducible refine Keeps.mk ?_ ?_) <;> [skip; (cases bl <;> first | exact absurd (by decide) hb | rfl)]))

theorem modThreads_keeps {bl : Block} (g : Thread → Thread) {s0 s : State} (hc0 : Keeps bl s0 s)
    (hb : bl ∉ [.eng] := by exact notMem_of ‹_ ∉ _› rfl) : Keeps bl s0 (modThreads g s) := by
  unfold modThreads; try dsimp only
  repeat' (first | (with_reducible first | assumption | intro _ | exact notMem_of hb rfl | apply eng_keeps | apply Keeps.ite | apply KeepsO.ite | apply KeepsO.next | split) | ((with_reducible refine Keeps.mk ?_ ?_) <;> [skip; (cases bl <;> first | exact absurd (by decide) hb | rfl)]))

theorem refreshWin_keeps {bl : Block} (k : ℕ) {s0 s : State} (hc0 : Keeps bl s0 s)
    (hb : bl ∉ [.eng] := by exact notMem_of ‹_ ∉ _› rfl) : Keeps bl s0 (refreshWin k s) := by
  unfold refreshWin; try dsimp only
  repeat' (first | (with_reducible first | assumption | intro _ | exact notMem_of hb rfl | apply mget_keeps | apply mput_keeps | apply windowOf_keeps | apply workCtx_keeps | apply modThreads_keeps | apply Keeps.ite | apply KeepsO.ite | apply KeepsO.next | split) | ((with_reducible refine Keeps.mk ?_ ?_) <;> [skip; (cases bl <;> first | exact absurd (by decide) hb | rfl)]))

theorem scriptStop_keeps {bl : Block} (e : ℕ) (cause : ℕ) {s0 s : State} (hc0 : Keeps bl s0 s)
    (hb : bl ∉ [.out, .eic, .mail, .eng, .sch, .front, .dma, .tb, .topo, .fns] := by exact notMem_of ‹_ ∉ _› rfl) : Keeps bl s0 (scriptStop e cause s) := by
  unfold scriptStop; try dsimp only
  repeat' (first | (with_reducible first | assumption | intro _ | exact notMem_of hb rfl | apply raise_keeps | apply modRun_keeps | apply beginDue_keeps | apply port_keeps | apply modPort_keeps | apply stScriptFault_keeps | apply finish_keeps | apply workItem_keeps | apply workPort_keeps | apply workHandle_keeps | apply eng_keeps | apply Keeps.ite | apply KeepsO.ite | apply KeepsO.next | split) | ((with_reducible refine Keeps.mk ?_ ?_) <;> [skip; (cases bl <;> first | exact absurd (by decide) hb | rfl)]))

theorem instruction_keeps {bl : Block} (e : EngId) (u : Use) (cost : ℕ) (f : Thread → State → State) {s0 s : State} (hf : ∀ v0 v1, Keeps bl s0 v1 → Keeps bl s0 (f v0 v1)) (hc0 : Keeps bl s0 s)
    (hb : bl ∉ [.out, .eic, .mail, .eng, .sch, .front, .dma, .tb, .topo, .fns, .slots, .err, .pair] := by exact notMem_of ‹_ ∉ _› rfl) : KeepsO bl s0 (instruction e u cost f s) := by
  unfold instruction; try dsimp only
  repeat' (with_reducible first | assumption | intro _ | exact notMem_of hb rfl | apply hf | apply engineFault_keeps | apply spend_keeps | apply scriptStop_keeps | apply executing_keeps | apply live_keeps | apply guarded_keeps | apply Keeps.ite | apply KeepsO.ite | apply KeepsO.next | split)

theorem setRun_keeps {bl : Block} (e : ℕ) (t : Thread) {s0 s : State} (hc0 : Keeps bl s0 s)
    (hb : bl ∉ [.eng] := by exact notMem_of ‹_ ∉ _› rfl) : Keeps bl s0 (setRun e t s) := by
  unfold setRun; try dsimp only
  repeat' (first | (with_reducible first | assumption | intro _ | exact notMem_of hb rfl | apply modEng_keeps | apply Keeps.ite | apply KeepsO.ite | apply KeepsO.next | split) | ((with_reducible refine Keeps.mk ?_ ?_) <;> [skip; (cases bl <;> first | exact absurd (by decide) hb | rfl)]))

theorem instrFault_keeps {bl : Block} (e : ℕ) (cause : ℕ) (t : Thread) {s0 s : State} (hc0 : Keeps bl s0 s)
    (hb : bl ∉ [.out, .eic, .mail, .eng, .sch, .front, .dma, .tb, .topo, .fns, .slots, .err, .pair] := by exact notMem_of ‹_ ∉ _› rfl) : Keeps bl s0 (instrFault e cause t s) := by
  unfold instrFault; try dsimp only
  repeat' (with_reducible first | assumption | intro _ | exact notMem_of hb rfl | apply engineFault_keeps | apply scriptStop_keeps | apply Keeps.ite | apply KeepsO.ite | apply KeepsO.next | split)

theorem resumeWait_keeps {bl : Block} (e : ℕ) (t : Thread) {s0 s : State} (hc0 : Keeps bl s0 s)
    (hb : bl ∉ [.out, .eic, .mail, .eng, .sch, .front, .dma, .tb, .topo, .fns] := by exact notMem_of ‹_ ∉ _› rfl) : Keeps bl s0 (resumeWait e t s) := by
  unfold resumeWait; try dsimp only
  repeat' (with_reducible first | assumption | intro _ | exact notMem_of hb rfl | apply spend_keeps | apply setRun_keeps | apply scriptStop_keeps | apply waitedCycles_keeps | apply Keeps.ite | apply KeepsO.ite | apply KeepsO.next | split)

theorem report_keeps {bl : Block} (p : ℕ) (e : Option ℕ) (code : ℕ) (b14 : ℕ) (b13 : ℕ) {s0 s : State} (hc0 : Keeps bl s0 s)
    (hb : bl ∉ [.out, .eic, .mail, .eng, .sch, .front, .dma, .tb, .topo, .fns] := by exact notMem_of ‹_ ∉ _› rfl) : Keeps bl s0 (report p e code b14 b13 s) := by
  unfold report; try dsimp only
  repeat' (first | (with_reducible first | assumption | intro _ | exact notMem_of hb rfl | apply resumeWait_keeps | apply tput_keeps | apply modEng_keeps | apply giveResult_keeps | apply eng_keeps | apply tfind_keeps | apply modPort_keeps | apply Keeps.ite | apply KeepsO.ite | apply KeepsO.next | split) | ((with_reducible refine Keeps.mk ?_ ?_) <;> [skip; (cases bl <;> first | exact absurd (by decide) hb | rfl)]))

theorem nextWork_keeps {bl : Block} (e : ℕ) {s0 s : State} (hc0 : Keeps bl s0 s)
    (hb : bl ∉ [.eng] := by exact notMem_of ‹_ ∉ _› rfl) : Keeps bl s0 (nextWork e s) := by
  unfold nextWork; try dsimp only
  repeat' (first | (with_reducible first | assumption | intro _ | exact notMem_of hb rfl | apply freshThread_keeps | apply modEng_keeps | apply Keeps.ite | apply KeepsO.ite | apply KeepsO.next | split) | ((with_reducible refine Keeps.mk ?_ ?_) <;> [skip; (cases bl <;> first | exact absurd (by decide) hb | rfl)]))

theorem park_keeps {bl : Block} (e : ℕ) (p : ℕ) (ready : Bool) (t : Thread) {s0 s : State} (hc0 : Keeps bl s0 s)
    (hb : bl ∉ [.eng] := by exact notMem_of ‹_ ∉ _› rfl) : Keeps bl s0 (park e p ready t s) := by
  unfold park; try dsimp only
  repeat' (first | (with_reducible first | assumption | intro _ | exact notMem_of hb rfl | apply tput_keeps | apply modEng_keeps | apply nextWork_keeps | apply Keeps.ite | apply KeepsO.ite | apply KeepsO.next | split) | ((with_reducible refine Keeps.mk ?_ ?_) <;> [skip; (cases bl <;> first | exact absurd (by decide) hb | rfl)]))

theorem waitAnswer_keeps {bl : Block} (e : ℕ) (w : Wait) (mask : Byte) (offset : BitVec 14) (t : Thread) {s0 s : State} (hc0 : Keeps bl s0 s)
    (hb : bl ∉ [.eng, .topo] := by exact notMem_of ‹_ ∉ _› rfl) : Keeps bl s0 (waitAnswer e w mask offset t s) := by
  unfold waitAnswer; try dsimp only
  repeat' (first | (with_reducible first | assumption | intro _ | exact notMem_of hb rfl | apply now_keeps | apply park_keeps | apply parksOn_keeps | apply takeResult_keeps | apply modPort_keeps | apply port_keeps | apply advance_keeps | apply setRun_keeps | apply Keeps.ite | apply KeepsO.ite | apply KeepsO.next | split) | ((with_reducible refine Keeps.mk ?_ ?_) <;> [skip; (cases bl <;> first | exact absurd (by decide) hb | rfl)]))

theorem setTxnSeq_keeps {bl : Block} (t : Txn) (q : BitVec 5) {s0 s : State} (hc0 : Keeps bl s0 s)
    (hb : bl ∉ [.eng, .sch, .topo] := by exact notMem_of ‹_ ∉ _› rfl) : Keeps bl s0 (setTxnSeq t q s) := by
  unfold setTxnSeq; try dsimp only
  repeat' (first | (with_reducible first | assumption | intro _ | exact notMem_of hb rfl | apply modCtx_keeps | apply modPstate_keeps | apply refreshWin_keeps | apply ctxKey_keeps | apply Keeps.ite | apply KeepsO.ite | apply KeepsO.next | split) | ((with_reducible refine Keeps.mk ?_ ?_) <;> [skip; (cases bl <;> first | exact absurd (by decide) hb | rfl)]))

theorem modTxn_keeps {bl : Block} (p : ℕ) (g : Txn → Txn) {s0 s : State} (hc0 : Keeps bl s0 s)
    (hb : bl ∉ [.topo] := by exact notMem_of ‹_ ∉ _› rfl) : Keeps bl s0 (modTxn p g s) := by
  unfold modTxn; try dsimp only
  repeat' (first | (with_reducible first | assumption | intro _ | exact notMem_of hb rfl | apply modPort_keeps | apply Keeps.ite | apply KeepsO.ite | apply KeepsO.next | split) | ((with_reducible refine Keeps.mk ?_ ?_) <;> [skip; (cases bl <;> first | exact absurd (by decide) hb | rfl)]))

theorem closeTxn_keeps {bl : Block} (p : ℕ) {s0 s : State} (hc0 : Keeps bl s0 s)
    (hb : bl ∉ [.out, .mail, .eng, .sch, .front, .dma, .tb, .topo] := by exact notMem_of ‹_ ∉ _› rfl) : Keeps bl s0 (closeTxn p s) := by
  unfold closeTxn; try dsimp only
  repeat' (first | (with_reducible first | assumption | intro _ | exact notMem_of hb rfl | apply beginDue_keeps | apply finish_keeps | apply now_keeps | apply tget_keeps | apply tput_keeps | apply itemCtrl_keeps | apply modPort_keeps | apply workItem_keeps | apply port_keeps | apply Keeps.ite | apply KeepsO.ite | apply KeepsO.next | split) | ((with_reducible refine Keeps.mk ?_ ?_) <;> [skip; (cases bl <;> first | exact absurd (by decide) hb | rfl)]))

theorem beginItem_keeps {bl : Block} (i : ℕ) {s0 s : State} (hc0 : Keeps bl s0 s)
    (hb : bl ∉ [.mail, .front] := by exact notMem_of ‹_ ∉ _› rfl) : Keeps bl s0 (beginItem i s) := by
  unfold beginItem; try dsimp only
  repeat' (first | (with_reducible first | assumption | intro _ | exact notMem_of hb rfl | apply frameStamp_keeps | apply axis_keeps | apply cmpUnit_keeps | apply axisStamp_keeps | apply begun_keeps | apply modItem_keeps | apply Keeps.ite | apply KeepsO.ite | apply KeepsO.next | split) | ((with_reducible refine Keeps.mk ?_ ?_) <;> [skip; (cases bl <;> first | exact absurd (by decide) hb | rfl)]))

theorem countTokens_keeps {bl : Block} (w : Work) (i : Option ℕ) (q : BitVec 5) (n : ℕ) {s0 s : State} (hc0 : Keeps bl s0 s)
    (hb : bl ∉ [.mail, .sch] := by exact notMem_of ‹_ ∉ _› rfl) : Keeps bl s0 (countTokens w i q n s) := by
  unfold countTokens; try dsimp only
  repeat' (first | (with_reducible first | assumption | intro _ | exact notMem_of hb rfl | apply modPstate_keeps | apply begun_keeps | apply Keeps.ite | apply KeepsO.ite | apply KeepsO.next | split) | ((with_reducible refine Keeps.mk ?_ ?_) <;> [skip; (cases bl <;> first | exact absurd (by decide) hb | rfl)]))

theorem tokenOut_keeps {bl : Block} (e : ℕ) (p : ℕ) (w : Work) (v : Work) (i : Option ℕ) (typ : ℕ) (count : ℕ) (ep : ℕ) (k : TxnKind) (retry : Bool) (num : ℕ) (c : Ctx) {s0 s : State} (hc0 : Keeps bl s0 s)
    (hb : bl ∉ [.out, .mail, .sch, .front, .topo] := by exact notMem_of ‹_ ∉ _› rfl) : Keeps bl s0 (tokenOut e p w v i typ count ep k retry num c s) := by
  unfold tokenOut; try dsimp only
  repeat' (first | (with_reducible first | assumption | intro _ | exact notMem_of hb rfl | apply send_keeps | apply modPort_keeps | apply beginItem_keeps | apply countTokens_keeps | apply gaspToken_keeps | apply Hdr0_keeps | apply txnSeq_keeps | apply now_keeps | apply Keeps.ite | apply KeepsO.ite | apply KeepsO.next | split) | ((with_reducible refine Keeps.mk ?_ ?_) <;> [skip; (cases bl <;> first | exact absurd (by decide) hb | rfl)]))

theorem sendToken_keeps {bl : Block} {e : ℕ} {p : ℕ} {w : Work} {typ : ℕ} {n : ℕ} {ep : ℕ} {own : Bool} {retry : Bool} {s0 s : State} {t0 : State} (he0 : sendToken e p w typ n ep own retry s = some t0) (hc0 : Keeps bl s0 s)
    (hb : bl ∉ [.out, .mail, .sch, .front, .topo] := by exact notMem_of ‹_ ∉ _› rfl) : Keeps bl s0 t0 := by
  revert he0; unfold sendToken; try dsimp only
  repeat' (first | exact notMem_of hb rfl | (intro e; cases e) | (with_reducible first | assumption | exact notMem_of hb rfl | apply tokenOut_keeps | apply roomCount_keeps | apply fitCount_keeps | apply scriptTime_keeps | apply tokTiers_keeps | apply port_keeps | apply tokCost_keeps | apply packetsLeft_keeps | apply burstMost_keeps | apply tokKind_keeps | apply isServiceWork_keeps | apply pstate_keeps | apply workOpen_keeps | apply workHandle_keeps | apply Keeps.ite | apply KeepsO.ite | apply KeepsO.next | split))

theorem countDone_keeps {bl : Block} (r : ℕ) (i : ℕ) (q : BitVec 5) {s0 s : State} (hc0 : Keeps bl s0 s)
    (hb : bl ∉ [.sch, .front] := by exact notMem_of ‹_ ∉ _› rfl) : Keeps bl s0 (countDone r i q s) := by
  unfold countDone; try dsimp only
  repeat' (first | (with_reducible first | assumption | intro _ | exact notMem_of hb rfl | apply modItem_keeps | apply modPstate_keeps | apply Keeps.ite | apply KeepsO.ite | apply KeepsO.next | split) | ((with_reducible refine Keeps.mk ?_ ?_) <;> [skip; (cases bl <;> first | exact absurd (by decide) hb | rfl)]))

theorem countSplit_keeps {bl : Block} {s0 s : State} (w : Work) (i : ℕ) (x : Item) (start : Bool) (per : Bool) (dirIn : Bool) (q : BitVec 5) (hc0 : Keeps bl s0 s)
    (hb : bl ∉ [.mail, .sch, .front] := by exact notMem_of ‹_ ∉ _› rfl) : Keeps bl s0 (countSplit s w i x start per dirIn q) := by
  unfold countSplit; try dsimp only
  repeat' (first | (with_reducible first | assumption | intro _ | exact notMem_of hb rfl | apply countDone_keeps | apply begun_keeps | apply modPstate_keeps | apply Keeps.ite | apply KeepsO.ite | apply KeepsO.next | split) | ((with_reducible refine Keeps.mk ?_ ?_) <;> [skip; (cases bl <;> first | exact absurd (by decide) hb | rfl)]))

theorem splitOut_keeps {bl : Block} (e : ℕ) (p : ℕ) (w : Work) (i : ℕ) (x : Item) (start : Bool) (retry : Bool) (num : ℕ) (c : Ctx) (tt : TtPath) {s0 s : State} (hc0 : Keeps bl s0 s)
    (hb : bl ∉ [.out, .mail, .sch, .front, .topo] := by exact notMem_of ‹_ ∉ _› rfl) : Keeps bl s0 (splitOut e p w i x start retry num c tt s) := by
  unfold splitOut; try dsimp only
  repeat' (first | (with_reducible first | assumption | intro _ | exact notMem_of hb rfl | apply splitUnit_keeps | apply absUframe_keeps | apply modPstate_keeps | apply modPort_keeps | apply send_keeps | apply beginItem_keeps | apply modItem_keeps | apply countSplit_keeps | apply gaspToken_keeps | apply splitHdr_keeps | apply txnSeq_keeps | apply now_keeps | apply isPeriodic_keeps | apply splitIn_keeps | apply isServiceWork_keeps | apply itemCtrl_keeps | apply Keeps.ite | apply KeepsO.ite | apply KeepsO.next | split) | ((with_reducible refine Keeps.mk ?_ ?_) <;> [skip; (cases bl <;> first | exact absurd (by decide) hb | rfl)]))

theorem sendSplit_keeps {bl : Block} {e : ℕ} {p : ℕ} {w : Work} {start : Bool} {retry : Bool} {s0 s : State} {t0 : State} (he0 : sendSplit e p w start retry s = some t0) (hc0 : Keeps bl s0 s)
    (hb : bl ∉ [.out, .mail, .sch, .front, .topo] := by exact notMem_of ‹_ ∉ _› rfl) : Keeps bl s0 t0 := by
  revert he0; unfold sendSplit; try dsimp only
  repeat' (first | exact notMem_of hb rfl | (intro e; cases e) | (with_reducible first | assumption | exact notMem_of hb rfl | apply splitOut_keeps | apply fits_keeps | apply splitTimely_keeps | apply itemLeft_keeps | apply isServiceWork_keeps | apply scriptTime_keeps | apply tokTiers_keeps | apply splitIn_keeps | apply isPeriodic_keeps | apply port_keeps | apply splCost_keeps | apply workHandle_keeps | apply splitCtx_keeps | apply splitItem_keeps | apply Keeps.ite | apply KeepsO.ite | apply KeepsO.next | split))

theorem sendPackets_keeps {bl : Block} (p : Nat) (tx : Txn) (i : Nat) (x : Item) (n k : Nat) {s0 s : State} (hc0 : Keeps bl s0 s)
    (hb : bl ∉ [.out] := by exact notMem_of ‹_ ∉ _› rfl) :
    Keeps bl s0 (sendPackets p tx i x n k s).2 := by
  induction n generalizing k s with
  | zero => exact hc0
  | succ n ih =>
    unfold sendPackets
    split
    · exact hc0
    · split
      · exact hc0
      · exact ih _ (send_keeps _ _ _ _ hc0)

theorem perOutSent_keeps {bl : Block} (p : ℕ) (tx : Txn) (i : ℕ) (x : Item) (sent : ℕ) (under : Bool) {s0 s : State} (hc0 : Keeps bl s0 s)
    (hb : bl ∉ [.out, .mail, .eng, .sch, .front, .dma, .tb, .topo] := by exact notMem_of ‹_ ∉ _› rfl) : Keeps bl s0 (perOutSent p tx i x sent under s) := by
  unfold perOutSent; try dsimp only
  repeat' (first | (with_reducible first | assumption | intro _ | exact notMem_of hb rfl | apply closeTxn_keeps | apply stSuccess_keeps | apply pstate_keeps | apply txnCtx_keeps | apply servicePackets_keeps | apply stUnderrun_keeps | apply decideItem_keeps | apply modItem_keeps | apply txnGen_keeps | apply seqAdd_keeps | apply setTxnSeq_keeps | apply outLen_keeps | apply under_keeps | apply Keeps.ite | apply KeepsO.ite | apply KeepsO.next | split) | ((with_reducible refine Keeps.mk ?_ ?_) <;> [skip; (cases bl <;> first | exact absurd (by decide) hb | rfl)]))

theorem sentSome_keeps {bl : Block} (p : ℕ) (i : ℕ) (k : ℕ) (tx : Txn) (x : Item) (done : ℕ) (under : Bool) (bad : Bool) {s0 s : State} (hc0 : Keeps bl s0 s)
    (hb : bl ∉ [.out, .mail, .eng, .sch, .front, .dma, .tb, .topo] := by exact notMem_of ‹_ ∉ _› rfl) : Keeps bl s0 (sentSome p i k tx x done under bad s).2 := by
  unfold sentSome; try dsimp only
  repeat' (first | (first | (with_reducible first | assumption | intro _ | exact notMem_of hb rfl | apply modTxn_keeps | apply perOutSent_keeps | apply unanswered_keeps | apply burstOver_keeps | apply stUnderrun_keeps | apply decideItem_keeps | apply closeTxn_keeps | apply isServiceWork_keeps | apply under_keeps | apply done_keeps | apply Keeps.ite | apply KeepsO.ite | apply KeepsO.next | split) | ((with_reducible refine Keeps.mk ?_ ?_) <;> [skip; (cases bl <;> first | exact absurd (by decide) hb | rfl)])) | (dsimp only))

theorem sendData_keeps {bl : Block} (e : ℕ) (p : ℕ) (n : ℕ) {s0 s : State} (hc0 : Keeps bl s0 s)
    (hb : bl ∉ [.out, .eic, .mail, .eng, .sch, .front, .dma, .tb, .topo, .fns] := by exact notMem_of ‹_ ∉ _› rfl) : Keeps bl s0 (sendData e p n s).2 := by
  unfold sendData; try dsimp only
  repeat' (first | (first | (with_reducible first | assumption | intro _ | exact notMem_of hb rfl | apply raise_keeps | apply sentSome_keeps | apply outBad_keeps | apply outPayload_keeps | apply burstOver_keeps | apply under_keeps | apply sendPackets_keeps | apply closeTxn_keeps | apply modTxn_keeps | apply workItem_keeps | apply port_keeps | apply Keeps.ite | apply KeepsO.ite | apply KeepsO.next | split) | ((with_reducible refine Keeps.mk ?_ ?_) <;> [skip; (cases bl <;> first | exact absurd (by decide) hb | rfl)])) | (dsimp only))

theorem queueLane_keeps {bl : Block} (p : ℕ) (e : ℕ) (w : Work) (op : LaneOp) {s0 s : State} (hc0 : Keeps bl s0 s)
    (hb : bl ∉ [.topo] := by exact notMem_of ‹_ ∉ _› rfl) : Keeps bl s0 (queueLane p e w op s) := by
  unfold queueLane; try dsimp only
  repeat' (first | (with_reducible first | assumption | intro _ | exact notMem_of hb rfl | apply modPort_keeps | apply Keeps.ite | apply KeepsO.ite | apply KeepsO.next | split) | ((with_reducible refine Keeps.mk ?_ ?_) <;> [skip; (cases bl <;> first | exact absurd (by decide) hb | rfl)]))

theorem laneToken_keeps {bl : Block} {e : ℕ} {p : ℕ} {w : Work} {op : LaneOp} {s0 s : State} {t0 : State} (he0 : laneToken e p w op s = some t0) (hc0 : Keeps bl s0 s)
    (hb : bl ∉ [.out, .mail, .sch, .front, .topo] := by exact notMem_of ‹_ ∉ _› rfl) : Keeps bl s0 t0 := by
  revert he0; unfold laneToken; try dsimp only
  repeat' (first | exact notMem_of hb rfl | (intro e; cases e) | (intro e; refine sendToken_keeps e ?_) | (intro e; refine sendSplit_keeps e ?_) | (with_reducible first | assumption | exact notMem_of hb rfl | apply Keeps.ite | apply KeepsO.ite | apply KeepsO.next | refine sendToken_keeps (by assumption) ?_ | refine sendSplit_keeps (by assumption) ?_ | split))

theorem launch_keeps {bl : Block} (p n : Nat) {s0 s : State} (hc0 : Keeps bl s0 s)
    (hb : bl ∉ [.out, .eic, .mail, .eng, .sch, .front, .dma, .tb, .topo, .fns] := by exact notMem_of ‹_ ∉ _› rfl) : Keeps bl s0 (launch p n s) := by
  induction n generalizing s with
  | zero => exact hc0
  | succ n ih =>
    unfold launch; dsimp only
    repeat'
      (with_reducible
        first | assumption | exact notMem_of hb rfl | apply ih | apply sendData_keeps | apply modPort_keeps | refine laneToken_keeps (by assumption) ?_ | split)

theorem runLane_keeps {bl : Block} (p : ℕ) {s0 s : State} (hc0 : Keeps bl s0 s)
    (hb : bl ∉ [.out, .eic, .mail, .eng, .sch, .front, .dma, .tb, .topo, .fns] := by exact notMem_of ‹_ ∉ _› rfl) : Keeps bl s0 (runLane p s) := by
  unfold runLane; try dsimp only
  repeat' (with_reducible first | assumption | intro _ | exact notMem_of hb rfl | apply port_keeps | apply launch_keeps | apply Keeps.ite | apply KeepsO.ite | apply KeepsO.next | split)

theorem endTxn_keeps {bl : Block} (p : ℕ) {s0 s : State} (hc0 : Keeps bl s0 s)
    (hb : bl ∉ [.out, .eic, .mail, .eng, .sch, .front, .dma, .tb, .topo, .fns] := by exact notMem_of ‹_ ∉ _› rfl) : Keeps bl s0 (endTxn p s) := by
  unfold endTxn; try dsimp only
  repeat' (with_reducible first | assumption | intro _ | exact notMem_of hb rfl | apply closeTxn_keeps | apply runLane_keeps | apply Keeps.ite | apply KeepsO.ite | apply KeepsO.next | split)

theorem dropHolds_keeps {bl : Block} (e : ℕ) {s0 s : State} (hc0 : Keeps bl s0 s)
    (hb : bl ∉ [.topo] := by exact notMem_of ‹_ ∉ _› rfl) : Keeps bl s0 (dropHolds e s) := by
  unfold dropHolds; try dsimp only
  repeat' (first | (with_reducible first | assumption | intro _ | exact notMem_of hb rfl | apply port_keeps | apply eng_keeps | apply tkeys_keeps | apply Keeps.ite | apply KeepsO.ite | apply KeepsO.next | split) | ((with_reducible refine Keeps.mk ?_ ?_) <;> [skip; (cases bl <;> first | exact absurd (by decide) hb | rfl)]))

theorem suspendDispatch_keeps {bl : Block} (e : ℕ) {s0 s : State} (hc0 : Keeps bl s0 s)
    (hb : bl ∉ [.eng, .topo] := by exact notMem_of ‹_ ∉ _› rfl) : Keeps bl s0 (suspendDispatch e s) := by
  unfold suspendDispatch; try dsimp only
  repeat' (first | (with_reducible first | assumption | intro _ | exact notMem_of hb rfl | apply longUnit_keeps | apply modEng_keeps | apply dropHolds_keeps | apply Keeps.ite | apply KeepsO.ite | apply KeepsO.next | split) | ((with_reducible refine Keeps.mk ?_ ?_) <;> [skip; (cases bl <;> first | exact absurd (by decide) hb | rfl)]))

theorem floatServe_keeps {bl : Block} (p : ℕ) {s0 s : State} (hc0 : Keeps bl s0 s)
    (hb : bl ∉ [.mail, .eng, .sch, .front, .dma, .tb, .topo] := by exact notMem_of ‹_ ∉ _› rfl) : Keeps bl s0 (floatServe p s) := by
  unfold floatServe; try dsimp only
  repeat' (first | (with_reducible first | assumption | intro _ | exact notMem_of hb rfl | apply suspendDispatch_keeps | apply nextWork_keeps | apply midTxn_keeps | apply modEng_keeps | apply modPstate_keeps | apply modItem_keeps | apply stStall_keeps | apply finish_keeps | apply resHalted_keeps | apply tdel_keeps | apply tput_keeps | apply eng_keeps | apply absUframe_keeps | apply tget_keeps | apply floatOf_keeps | apply Keeps.ite | apply KeepsO.ite | apply KeepsO.next | split) | ((with_reducible refine Keeps.mk ?_ ?_) <;> [skip; (cases bl <;> first | exact absurd (by decide) hb | rfl)]))

theorem decide__keeps {bl : Block} (t : Txn) (st : Byte) {s0 s : State} (hc0 : Keeps bl s0 s)
    (hb : bl ∉ [.front] := by exact notMem_of ‹_ ∉ _› rfl) : Keeps bl s0 (decide_ t st s) := by
  unfold decide_; try dsimp only
  repeat' (with_reducible first | assumption | intro _ | exact notMem_of hb rfl | apply decideItem_keeps | apply workItem_keeps | apply Keeps.ite | apply KeepsO.ite | apply KeepsO.next | split)

theorem conclude_keeps {bl : Block} (p : ℕ) (t : Txn) (st : Byte) (code : ℕ) (b14 : ℕ) {s0 s : State} (hc0 : Keeps bl s0 s)
    (hb : bl ∉ [.out, .eic, .mail, .eng, .sch, .front, .dma, .tb, .topo, .fns] := by exact notMem_of ‹_ ∉ _› rfl) : Keeps bl s0 (conclude p t st code b14 s) := by
  unfold conclude; try dsimp only
  repeat' (with_reducible first | assumption | intro _ | exact notMem_of hb rfl | apply decide__keeps | apply txnSeq_keeps | apply report_keeps | apply endTxn_keeps | apply Keeps.ite | apply KeepsO.ite | apply KeepsO.next | split)

theorem goOnSeq_keeps {bl : Block} (p : ℕ) (t : Txn) (code : ℕ) (b14 : ℕ) (b13 : ℕ) {s0 s : State} (hc0 : Keeps bl s0 s)
    (hb : bl ∉ [.out, .eic, .mail, .eng, .sch, .front, .dma, .tb, .topo, .fns] := by exact notMem_of ‹_ ∉ _› rfl) : Keeps bl s0 (goOnSeq p t code b14 b13 s) := by
  unfold goOnSeq; try dsimp only
  repeat' (with_reducible first | assumption | intro _ | exact notMem_of hb rfl | apply report_keeps | apply endTxn_keeps | apply Keeps.ite | apply KeepsO.ite | apply KeepsO.next | split)

theorem goOn_keeps {bl : Block} (p : ℕ) (t : Txn) (code : ℕ) (b14 : ℕ) {s0 s : State} (hc0 : Keeps bl s0 s)
    (hb : bl ∉ [.out, .eic, .mail, .eng, .sch, .front, .dma, .tb, .topo, .fns] := by exact notMem_of ‹_ ∉ _› rfl) : Keeps bl s0 (goOn p t code b14 s) := by
  unfold goOn; try dsimp only
  repeat' (with_reducible first | assumption | intro _ | exact notMem_of hb rfl | apply txnSeq_keeps | apply goOnSeq_keeps | apply Keeps.ite | apply KeepsO.ite | apply KeepsO.next | split)

theorem setErrs_keeps {bl : Block} (t : Txn) (n : ℕ) {s0 s : State} (hc0 : Keeps bl s0 s)
    (hb : bl ∉ [.eng, .front, .topo] := by exact notMem_of ‹_ ∉ _› rfl) : Keeps bl s0 (setErrs t n s) := by
  unfold setErrs; try dsimp only
  repeat' (first | (with_reducible first | assumption | intro _ | exact notMem_of hb rfl | apply modCtx_keeps | apply refreshWin_keeps | apply ctxKey_keeps | apply modItem_keeps | apply Keeps.ite | apply KeepsO.ite | apply KeepsO.next | split) | ((with_reducible refine Keeps.mk ?_ ?_) <;> [skip; (cases bl <;> first | exact absurd (by decide) hb | rfl)]))

theorem clearTtOf_keeps {bl : Block} (t : Txn) {s0 s : State} (hc0 : Keeps bl s0 s)
    (hb : bl ∉ [.front, .topo] := by exact notMem_of ‹_ ∉ _› rfl) : Keeps bl s0 (clearTtOf t s) := by
  unfold clearTtOf; try dsimp only
  repeat' (with_reducible first | assumption | intro _ | exact notMem_of hb rfl | apply port_keeps | apply clearTt_keeps | apply txnCtx_keeps | apply Keeps.ite | apply KeepsO.ite | apply KeepsO.next | split)

theorem countTransfer_keeps {bl : Block} (t : Txn) (i : ℕ) {s0 s : State} (hc0 : Keeps bl s0 s)
    (hb : bl ∉ [.eng, .front, .topo] := by exact notMem_of ‹_ ∉ _› rfl) : Keeps bl s0 (countTransfer t i s) := by
  unfold countTransfer; try dsimp only
  repeat' (with_reducible first | assumption | intro _ | exact notMem_of hb rfl | apply stXactErr_keeps | apply decide__keeps | apply clearTtOf_keeps | apply txnGen_keeps | apply errorLimit_keeps | apply setErrs_keeps | apply Keeps.ite | apply KeepsO.ite | apply KeepsO.next | split)

theorem rebindEvent_keeps {bl : Block} (i : ℕ) (r : ℕ) {s0 s : State} (hc0 : Keeps bl s0 s)
    (hb : bl ∉ [.mail, .sch, .front] := by exact notMem_of ‹_ ∉ _› rfl) : Keeps bl s0 (rebindEvent i r s) := by
  unfold rebindEvent; try dsimp only
  repeat' (first | (with_reducible first | assumption | intro _ | exact notMem_of hb rfl | apply shiftEvents_keeps | apply begun_keeps | apply modItem_keeps | apply modPstate_keeps | apply absUframe_keeps | apply serviceFrom_keeps | apply rungOf_keeps | apply Keeps.ite | apply KeepsO.ite | apply KeepsO.next | split) | ((with_reducible refine Keeps.mk ?_ ?_) <;> [skip; (cases bl <;> first | exact absurd (by decide) hb | rfl)]))

theorem countAttempt_keeps {bl : Block} (t : Txn) (r : ℕ) {s0 s : State} (hc0 : Keeps bl s0 s)
    (hb : bl ∉ [.sch, .front, .topo] := by exact notMem_of ‹_ ∉ _› rfl) : Keeps bl s0 (countAttempt t r s) := by
  unfold countAttempt; try dsimp only
  repeat' (first | (with_reducible first | assumption | intro _ | exact notMem_of hb rfl | apply stXactErr_keeps | apply decide__keeps | apply clearTtOf_keeps | apply attemptsOver_keeps | apply modPstate_keeps | apply pstate_keeps | apply Keeps.ite | apply KeepsO.ite | apply KeepsO.next | split) | ((with_reducible refine Keeps.mk ?_ ?_) <;> [skip; (cases bl <;> first | exact absurd (by decide) hb | rfl)]))

theorem countNow_keeps {bl : Block} (t : Txn) {s0 s : State} (hc0 : Keeps bl s0 s)
    (hb : bl ∉ [.eng, .sch, .front, .topo] := by exact notMem_of ‹_ ∉ _› rfl) : Keeps bl s0 (countNow t s) := by
  unfold countNow; try dsimp only
  repeat' (with_reducible first | assumption | intro _ | exact notMem_of hb rfl | apply countAttempt_keeps | apply countTransfer_keeps | apply Keeps.ite | apply KeepsO.ite | apply KeepsO.next | split)

theorem countErr_keeps {bl : Block} (t : Txn) {s0 s : State} (hc0 : Keeps bl s0 s)
    (hb : bl ∉ [.eng, .sch, .front, .topo] := by exact notMem_of ‹_ ∉ _› rfl) : Keeps bl s0 (countErr t s) := by
  unfold countErr; try dsimp only
  repeat' (first | (with_reducible first | assumption | intro _ | exact notMem_of hb rfl | apply countNow_keeps | apply modItem_keeps | apply errorHook_keeps | apply workItem_keeps | apply Keeps.ite | apply KeepsO.ite | apply KeepsO.next | split) | ((with_reducible refine Keeps.mk ?_ ?_) <;> [skip; (cases bl <;> first | exact absurd (by decide) hb | rfl)]))

theorem flushErr_keeps {bl : Block} (i : ℕ) {s0 s : State} (hc0 : Keeps bl s0 s)
    (hb : bl ∉ [.eng, .sch, .front, .topo] := by exact notMem_of ‹_ ∉ _› rfl) : Keeps bl s0 (flushErr i s) := by
  unfold flushErr; try dsimp only
  repeat' (first | (with_reducible first | assumption | intro _ | exact notMem_of hb rfl | apply setItem_keeps | apply countNow_keeps | apply Keeps.ite | apply KeepsO.ite | apply KeepsO.next | split) | ((with_reducible refine Keeps.mk ?_ ?_) <;> [skip; (cases bl <;> first | exact absurd (by decide) hb | rfl)]))

theorem markHalted_keeps {bl : Block} (num : ℕ) (ep : ℕ) (dirIn : Bool) {s0 s : State} (hc0 : Keeps bl s0 s)
    (hb : bl ∉ [.mail, .eng, .sch, .front, .dma, .tb, .topo] := by exact notMem_of ‹_ ∉ _› rfl) : Keeps bl s0 (markHalted num ep dirIn s) := by
  unfold markHalted; try dsimp only
  repeat' (first | (with_reducible first | assumption | intro _ | exact notMem_of hb rfl | apply stStall_keeps | apply finish_keeps | apply slot_keeps | apply itemsWhere_keeps | apply refreshWin_keeps | apply modPstate_keeps | apply idleAfter_keeps | apply epReservations_keeps | apply each_keeps | apply handleWord_keeps | apply ctxKey_keeps | apply modCtx_keeps | apply Keeps.ite | apply KeepsO.ite | apply KeepsO.next | split) | ((with_reducible refine Keeps.mk ?_ ?_) <;> [skip; (cases bl <;> first | exact absurd (by decide) hb | rfl)]))

theorem clearHalt_keeps {bl : Block} (num : ℕ) (ep : ℕ) (dirIn : Bool) {s0 s : State} (hc0 : Keeps bl s0 s)
    (hb : bl ∉ [.eng, .sch, .topo] := by exact notMem_of ‹_ ∉ _› rfl) : Keeps bl s0 (clearHalt num ep dirIn s) := by
  unfold clearHalt; try dsimp only
  repeat' (first | (with_reducible first | assumption | intro _ | exact notMem_of hb rfl | apply modPstate_keeps | apply idleAfter_keeps | apply epReservations_keeps | apply each_keeps | apply refreshWin_keeps | apply ctxKey_keeps | apply modCtx_keeps | apply Keeps.ite | apply KeepsO.ite | apply KeepsO.next | split) | ((with_reducible refine Keeps.mk ?_ ?_) <;> [skip; (cases bl <;> first | exact absurd (by decide) hb | rfl)]))

theorem nextStage_keeps {bl : Block} (i : ℕ) (n : ℕ) {s0 s : State} (hc0 : Keeps bl s0 s)
    (hb : bl ∉ [.front] := by exact notMem_of ‹_ ∉ _› rfl) : Keeps bl s0 (nextStage i n s) := by
  unfold nextStage; try dsimp only
  repeat' (first | (with_reducible first | assumption | intro _ | exact notMem_of hb rfl | apply modItem_keeps | apply Keeps.ite | apply KeepsO.ite | apply KeepsO.next | split) | ((with_reducible refine Keeps.mk ?_ ?_) <;> [skip; (cases bl <;> first | exact absurd (by decide) hb | rfl)]))

theorem ctrlDone_keeps {bl : Block} (i : ℕ) (x : Item) (t : Txn) {s0 s : State} (hc0 : Keeps bl s0 s)
    (hb : bl ∉ [.eng, .sch, .front, .topo] := by exact notMem_of ‹_ ∉ _› rfl) : Keeps bl s0 (ctrlDone i x t s) := by
  unfold ctrlDone; try dsimp only
  repeat' (with_reducible first | assumption | intro _ | exact notMem_of hb rfl | apply clearHalt_keeps | apply itemSetup_keeps | apply decide__keeps | apply stSuccess_keeps | apply stShort_keeps | apply ctrlLen_keeps | apply itemIn_keeps | apply Keeps.ite | apply KeepsO.ite | apply KeepsO.next | split)

theorem setupDone_keeps {bl : Block} (i : ℕ) (x : Item) (t : Txn) {s0 s : State} (hc0 : Keeps bl s0 s)
    (hb : bl ∉ [.eng, .front, .topo] := by exact notMem_of ‹_ ∉ _› rfl) : Keeps bl s0 (setupDone i x t s) := by
  unfold setupDone; try dsimp only
  repeat' (first | (with_reducible first | assumption | intro _ | exact notMem_of hb rfl | apply setErrs_keeps | apply ctrlLen_keeps | apply nextStage_keeps | apply ctxKey_keeps | apply modCtx_keeps | apply Keeps.ite | apply KeepsO.ite | apply KeepsO.next | split) | ((with_reducible refine Keeps.mk ?_ ?_) <;> [skip; (cases bl <;> first | exact absurd (by decide) hb | rfl)]))

theorem storeIn_keeps {bl : Block} (i : ℕ) (pos : ℕ) (bytes : List Byte) {s0 s : State} (hc0 : Keeps bl s0 s)
    (hb : bl ∉ [.front, .dma] := by exact notMem_of ‹_ ∉ _› rfl) : Keeps bl s0 (storeIn i pos bytes s) := by
  unfold storeIn; try dsimp only
  repeat' (first | (with_reducible first | assumption | intro _ | exact notMem_of hb rfl | apply addSeg_keeps | apply stageWrite_keeps | apply modItem_keeps | apply Keeps.ite | apply KeepsO.ite | apply KeepsO.next | split) | ((with_reducible refine Keeps.mk ?_ ?_) <;> [skip; (cases bl <;> first | exact absurd (by decide) hb | rfl)]))

theorem storeBulk_keeps {bl : Block} (p : ℕ) (t : Txn) (payload : List Byte) {s0 s : State} (hc0 : Keeps bl s0 s)
    (hb : bl ∉ [.eng, .sch, .front, .dma, .topo] := by exact notMem_of ‹_ ∉ _› rfl) : Keeps bl s0 (storeBulk p t payload s) := by
  unfold storeBulk; try dsimp only
  repeat' (first | (with_reducible first | assumption | intro _ | exact notMem_of hb rfl | apply txnCtx_keeps | apply storeIn_keeps | apply itemLen_keeps | apply stOverrun_keeps | apply decideItem_keeps | apply itemCtrl_keeps | apply modItem_keeps | apply modTxn_keeps | apply txnSeq_keeps | apply txnGen_keeps | apply seqAdd_keeps | apply setTxnSeq_keeps | apply Keeps.ite | apply KeepsO.ite | apply KeepsO.next | split) | ((with_reducible refine Keeps.mk ?_ ?_) <;> [skip; (cases bl <;> first | exact absurd (by decide) hb | rfl)]))

theorem storePer_keeps {bl : Block} (p : ℕ) (r : ℕ) (t : Txn) (q : BitVec 5) (payload : List Byte) {s0 s : State} (hc0 : Keeps bl s0 s)
    (hb : bl ∉ [.eng, .sch, .front, .dma, .topo] := by exact notMem_of ‹_ ∉ _› rfl) : Keeps bl s0 (storePer p r t q payload s) := by
  unfold storePer; try dsimp only
  repeat' (first | (with_reducible first | assumption | intro _ | exact notMem_of hb rfl | apply stOverrun_keeps | apply decideItem_keeps | apply storeIn_keeps | apply itemLen_keeps | apply boundItem_keeps | apply modTxn_keeps | apply txnCtx_keeps | apply modPstate_keeps | apply seqAdd_keeps | apply setTxnSeq_keeps | apply packetPos_keeps | apply isDup_keeps | apply serdes_keeps | apply pstate_keeps | apply txnGen_keeps | apply Keeps.ite | apply KeepsO.ite | apply KeepsO.next | split) | ((with_reducible refine Keeps.mk ?_ ?_) <;> [skip; (cases bl <;> first | exact absurd (by decide) hb | rfl)]))

theorem storeEvt_keeps {bl : Block} (p : ℕ) (r : ℕ) (t : Txn) (payload : List Byte) {s0 s : State} (hc0 : Keeps bl s0 s)
    (hb : bl ∉ [.eng, .sch, .front, .dma, .topo] := by exact notMem_of ‹_ ∉ _› rfl) : Keeps bl s0 (storeEvt p r t payload s) := by
  unfold storeEvt; try dsimp only
  repeat' (first | (with_reducible first | assumption | intro _ | exact notMem_of hb rfl | apply stSuccess_keeps | apply stShort_keeps | apply stOverrun_keeps | apply decideItem_keeps | apply itemLen_keeps | apply storeIn_keeps | apply boundItem_keeps | apply modTxn_keeps | apply txnSeq_keeps | apply txnGen_keeps | apply seqAdd_keeps | apply setTxnSeq_keeps | apply Keeps.ite | apply KeepsO.ite | apply KeepsO.next | split) | ((with_reducible refine Keeps.mk ?_ ?_) <;> [skip; (cases bl <;> first | exact absurd (by decide) hb | rfl)]))

theorem perService_keeps {bl : Block} (r : ℕ) (t : Txn) {s0 s : State} (hc0 : Keeps bl s0 s)
    (hb : bl ∉ [.front] := by exact notMem_of ‹_ ∉ _› rfl) : Keeps bl s0 (perService r t s) := by
  unfold perService; try dsimp only
  repeat' (with_reducible first | assumption | intro _ | exact notMem_of hb rfl | apply stSuccess_keeps | apply stShort_keeps | apply itemLen_keeps | apply stMissed_keeps | apply decideItem_keeps | apply txnCtx_keeps | apply servicePackets_keeps | apply pstate_keeps | apply boundItem_keeps | apply Keeps.ite | apply KeepsO.ite | apply KeepsO.next | split)

theorem inProgress_keeps {bl : Block} (p : ℕ) (t : Txn) {s0 s : State} (hc0 : Keeps bl s0 s)
    (hb : bl ∉ [.eng, .sch, .front, .topo] := by exact notMem_of ‹_ ∉ _› rfl) : Keeps bl s0 (inProgress p t s) := by
  unfold inProgress; try dsimp only
  repeat' (with_reducible first | assumption | intro _ | exact notMem_of hb rfl | apply stSuccess_keeps | apply stShort_keeps | apply itemLen_keeps | apply decideItem_keeps | apply nextStage_keeps | apply ctrlDone_keeps | apply clearHalt_keeps | apply itemSetup_keeps | apply stOverrun_keeps | apply itemCtrl_keeps | apply Keeps.ite | apply KeepsO.ite | apply KeepsO.next | split)

theorem splitOver_keeps {bl : Block} (t : Txn) {s0 s : State} (hc0 : Keeps bl s0 s)
    (hb : bl ∉ [.front] := by exact notMem_of ‹_ ∉ _› rfl) : Keeps bl s0 (splitOver t s) := by
  unfold splitOver; try dsimp only
  repeat' (first | (with_reducible first | assumption | intro _ | exact notMem_of hb rfl | apply modItem_keeps | apply Keeps.ite | apply KeepsO.ite | apply KeepsO.next | split) | ((with_reducible refine Keeps.mk ?_ ?_) <;> [skip; (cases bl <;> first | exact absurd (by decide) hb | rfl)]))

theorem keepEnded_keeps {bl : Block} (p : ℕ) {s0 s : State} (hc0 : Keeps bl s0 s)
    (hb : bl ∉ [.topo] := by exact notMem_of ‹_ ∉ _› rfl) : Keeps bl s0 (keepEnded p s) := by
  unfold keepEnded; try dsimp only
  repeat' (first | (with_reducible first | assumption | intro _ | exact notMem_of hb rfl | apply modPort_keeps | apply Keeps.ite | apply KeepsO.ite | apply KeepsO.next | split) | ((with_reducible refine Keeps.mk ?_ ?_) <;> [skip; (cases bl <;> first | exact absurd (by decide) hb | rfl)]))

theorem endBurst_keeps {bl : Block} (p : ℕ) (code : ℕ) {s0 s : State} (hc0 : Keeps bl s0 s)
    (hb : bl ∉ [.out, .eic, .mail, .eng, .sch, .front, .dma, .tb, .topo, .fns] := by exact notMem_of ‹_ ∉ _› rfl) : Keeps bl s0 (endBurst p code s) := by
  unfold endBurst; try dsimp only
  repeat' (first | (with_reducible first | assumption | intro _ | exact notMem_of hb rfl | apply txnSeq_keeps | apply report_keeps | apply modTxn_keeps | apply splitOver_keeps | apply countErr_keeps | apply setErrs_keeps | apply goOn_keeps | apply keepEnded_keeps | apply perService_keeps | apply modPstate_keeps | apply isPeriodic_keeps | apply port_keeps | apply Keeps.ite | apply KeepsO.ite | apply KeepsO.next | split) | ((with_reducible refine Keeps.mk ?_ ?_) <;> [skip; (cases bl <;> first | exact absurd (by decide) hb | rfl)]))

theorem sendAck_keeps {bl : Block} (p : ℕ) (t : Txn) {s0 s : State} (hc0 : Keeps bl s0 s)
    (hb : bl ∉ [.out, .eic, .mail, .eng, .sch, .front, .dma, .tb, .topo, .fns] := by exact notMem_of ‹_ ∉ _› rfl) : Keeps bl s0 (sendAck p t s) := by
  unfold sendAck; try dsimp only
  repeat' (first | (with_reducible first | assumption | intro _ | exact notMem_of hb rfl | apply inProgress_keeps | apply endTxn_keeps | apply txnSeq_keeps | apply Hdr0_keeps | apply send_keeps | apply txnCtx_keeps | apply Keeps.ite | apply KeepsO.ite | apply KeepsO.next | split) | ((with_reducible refine Keeps.mk ?_ ?_) <;> [skip; (cases bl <;> first | exact absurd (by decide) hb | rfl)]))

theorem perLost_keeps {bl : Block} (r : ℕ) (t : Txn) {s0 s : State} (hc0 : Keeps bl s0 s)
    (hb : bl ∉ [.sch, .front] := by exact notMem_of ‹_ ∉ _› rfl) : Keeps bl s0 (perLost r t s) := by
  unfold perLost; try dsimp only
  repeat' (first | (with_reducible first | assumption | intro _ | exact notMem_of hb rfl | apply modPstate_keeps | apply perService_keeps | apply Keeps.ite | apply KeepsO.ite | apply KeepsO.next | split) | ((with_reducible refine Keeps.mk ?_ ?_) <;> [skip; (cases bl <;> first | exact absurd (by decide) hb | rfl)]))

theorem perFailed_keeps {bl : Block} (r : ℕ) (t : Txn) {s0 s : State} (hc0 : Keeps bl s0 s)
    (hb : bl ∉ [.sch, .front] := by exact notMem_of ‹_ ∉ _› rfl) : Keeps bl s0 (perFailed r t s) := by
  unfold perFailed; try dsimp only
  repeat' (with_reducible first | assumption | intro _ | exact notMem_of hb rfl | apply perLost_keeps | apply stMissed_keeps | apply decide__keeps | apply Keeps.ite | apply KeepsO.ite | apply KeepsO.next | split)

theorem failedTry_keeps {bl : Block} (p : ℕ) (code : ℕ) (b14 : ℕ) {s0 s : State} (hc0 : Keeps bl s0 s)
    (hb : bl ∉ [.out, .eic, .mail, .eng, .sch, .front, .dma, .tb, .topo, .fns] := by exact notMem_of ‹_ ∉ _› rfl) : Keeps bl s0 (failedTry p code b14 s) := by
  unfold failedTry; try dsimp only
  repeat' (with_reducible first | assumption | intro _ | exact notMem_of hb rfl | apply goOn_keeps | apply splitOver_keeps | apply countErr_keeps | apply perFailed_keeps | apply isPeriodic_keeps | apply port_keeps | apply Keeps.ite | apply KeepsO.ite | apply KeepsO.next | split)

theorem babble_keeps {bl : Block} (p : ℕ) {s0 s : State} (hc0 : Keeps bl s0 s)
    (hb : bl ∉ [.out, .eic, .mail, .eng, .sch, .front, .dma, .tb, .topo, .fns] := by exact notMem_of ‹_ ∉ _› rfl) : Keeps bl s0 (babble p s) := by
  unfold babble; try dsimp only
  repeat' (first | (with_reducible first | assumption | intro _ | exact notMem_of hb rfl | apply stBabble_keeps | apply conclude_keeps | apply modPort_keeps | apply port_keeps | apply Keeps.ite | apply KeepsO.ite | apply KeepsO.next | split) | ((with_reducible refine Keeps.mk ?_ ?_) <;> [skip; (cases bl <;> first | exact absurd (by decide) hb | rfl)]))

theorem lateBabble_keeps {bl : Block} (p : ℕ) (t : Txn) {s0 s : State} (hc0 : Keeps bl s0 s)
    (hb : bl ∉ [.front, .topo] := by exact notMem_of ‹_ ∉ _› rfl) : Keeps bl s0 (lateBabble p t s) := by
  unfold lateBabble; try dsimp only
  repeat' (first | (with_reducible first | assumption | intro _ | exact notMem_of hb rfl | apply stBabble_keeps | apply overrideItem_keeps | apply openItems_keeps | apply modPort_keeps | apply Keeps.ite | apply KeepsO.ite | apply KeepsO.next | split) | ((with_reducible refine Keeps.mk ?_ ?_) <;> [skip; (cases bl <;> first | exact absurd (by decide) hb | rfl)]))

theorem lineQuiet_keeps {bl : Block} (p : ℕ) {s0 s : State} (hc0 : Keeps bl s0 s)
    (hb : bl ∉ [.out, .eic, .mail, .eng, .sch, .front, .dma, .tb, .topo, .fns] := by exact notMem_of ‹_ ∉ _› rfl) : Keeps bl s0 (lineQuiet p s) := by
  unfold lineQuiet; try dsimp only
  repeat' (first | (with_reducible first | assumption | intro _ | exact notMem_of hb rfl | apply modPort_keeps | apply runLane_keeps | apply port_keeps | apply Keeps.ite | apply KeepsO.ite | apply KeepsO.next | split) | ((with_reducible refine Keeps.mk ?_ ?_) <;> [skip; (cases bl <;> first | exact absurd (by decide) hb | rfl)]))

theorem countCheck_keeps {bl : Block} (p : ℕ) {s0 s : State} (hc0 : Keeps bl s0 s)
    (hb : bl ∉ [.topo] := by exact notMem_of ‹_ ∉ _› rfl) : Keeps bl s0 (countCheck p s) := by
  unfold countCheck; try dsimp only
  repeat' (first | (with_reducible first | assumption | intro _ | exact notMem_of hb rfl | apply modPort_keeps | apply Keeps.ite | apply KeepsO.ite | apply KeepsO.next | split) | ((with_reducible refine Keeps.mk ?_ ?_) <;> [skip; (cases bl <;> first | exact absurd (by decide) hb | rfl)]))

theorem badPacket_keeps {bl : Block} (p : ℕ) (last : Bool) {s0 s : State} (hc0 : Keeps bl s0 s)
    (hb : bl ∉ [.out, .eic, .mail, .eng, .sch, .front, .dma, .tb, .topo, .fns] := by exact notMem_of ‹_ ∉ _› rfl) : Keeps bl s0 (badPacket p last s) := by
  unfold badPacket; try dsimp only
  repeat' (first | (with_reducible first | assumption | intro _ | exact notMem_of hb rfl | apply failedTry_keeps | apply endBurst_keeps | apply serdes_keeps | apply modTxn_keeps | apply lineQuiet_keeps | apply port_keeps | apply Keeps.ite | apply KeepsO.ite | apply KeepsO.next | split) | ((with_reducible refine Keeps.mk ?_ ?_) <;> [skip; (cases bl <;> first | exact absurd (by decide) hb | rfl)]))

theorem lineFails_keeps {bl : Block} (p : ℕ) {s0 s : State} (hc0 : Keeps bl s0 s)
    (hb : bl ∉ [.out, .eic, .mail, .eng, .sch, .front, .dma, .tb, .topo, .fns] := by exact notMem_of ‹_ ∉ _› rfl) : Keeps bl s0 (lineFails p s) := by
  unfold lineFails; try dsimp only
  repeat' (with_reducible first | assumption | intro _ | exact notMem_of hb rfl | apply failedTry_keeps | apply report_keeps | apply isPeriodic_keeps | apply inProgress_keeps | apply endTxn_keeps | apply port_keeps | apply Keeps.ite | apply KeepsO.ite | apply KeepsO.next | split)

theorem goodData_keeps {bl : Block} (p : ℕ) (t : Txn) (h : Hdr) (payload : List Byte) {s0 s : State} (hc0 : Keeps bl s0 s)
    (hb : bl ∉ [.eng, .sch, .front, .dma, .topo] := by exact notMem_of ‹_ ∉ _› rfl) : Keeps bl s0 (goodData p t h payload s) := by
  unfold goodData; try dsimp only
  repeat' (first | (with_reducible first | assumption | intro _ | exact notMem_of hb rfl | apply modTxn_keeps | apply isDup_keeps | apply storeBulk_keeps | apply storeEvt_keeps | apply storePer_keeps | apply isPeriodic_keeps | apply txnSeq_keeps | apply txnGen_keeps | apply Keeps.ite | apply KeepsO.ite | apply KeepsO.next | split) | ((with_reducible refine Keeps.mk ?_ ?_) <;> [skip; (cases bl <;> first | exact absurd (by decide) hb | rfl)]))

theorem dataPacket_keeps {bl : Block} (p : ℕ) (h : Hdr) (payload : List Byte) (crc : U32) (overrun : Bool) {s0 s : State} (hc0 : Keeps bl s0 s)
    (hb : bl ∉ [.out, .eic, .mail, .eng, .sch, .front, .dma, .tb, .topo, .fns] := by exact notMem_of ‹_ ∉ _› rfl) : Keeps bl s0 (dataPacket p h payload crc overrun s) := by
  unfold dataPacket; try dsimp only
  repeat' (first | (with_reducible first | assumption | intro _ | exact notMem_of hb rfl | apply endBurst_keeps | apply serdes_keeps | apply stOverrun_keeps | apply workItem_keeps | apply goodData_keeps | apply isPeriodic_keeps | apply modTxn_keeps | apply countCheck_keeps | apply badPacket_keeps | apply payloadCrc_keeps | apply txnCtx_keeps | apply babble_keeps | apply lineQuiet_keeps | apply lateBabble_keeps | apply fromPartner_keeps | apply port_keeps | apply crc_keeps | apply Keeps.ite | apply KeepsO.ite | apply KeepsO.next | split) | ((with_reducible refine Keeps.mk ?_ ?_) <;> [skip; (cases bl <;> first | exact absurd (by decide) hb | rfl)]))

theorem handshake_keeps {bl : Block} (p : ℕ) (h : Hdr) (f : Txn → State → State) {s0 s : State} (hf : ∀ v0 v1, Keeps bl s0 v1 → Keeps bl s0 (f v0 v1)) (hc0 : Keeps bl s0 s)
    (hb : bl ∉ [.out, .eic, .mail, .eng, .sch, .front, .dma, .tb, .topo, .fns] := by exact notMem_of ‹_ ∉ _› rfl) : Keeps bl s0 (handshake p h f s) := by
  unfold handshake; try dsimp only
  repeat' (with_reducible first | assumption | intro _ | exact notMem_of hb rfl | apply hf | apply countCheck_keeps | apply badPacket_keeps | apply fromPartner_keeps | apply lineQuiet_keeps | apply awaiting_keeps | apply Keeps.ite | apply KeepsO.ite | apply KeepsO.next | split)

theorem outProgress_keeps {bl : Block} (t : Txn) (i : ℕ) (n : ℕ) (x : Item) (q : BitVec 5) {s0 s : State} (hc0 : Keeps bl s0 s)
    (hb : bl ∉ [.eng, .sch, .front, .topo] := by exact notMem_of ‹_ ∉ _› rfl) : Keeps bl s0 (outProgress t i n x q s) := by
  unfold outProgress; try dsimp only
  repeat' (first | (with_reducible first | assumption | intro _ | exact notMem_of hb rfl | apply stSuccess_keeps | apply decideItem_keeps | apply nextStage_keeps | apply itemLen_keeps | apply modItem_keeps | apply outBytes_keeps | apply ctrlDone_keeps | apply itemCtrl_keeps | apply setTxnSeq_keeps | apply setErrs_keeps | apply Keeps.ite | apply KeepsO.ite | apply KeepsO.next | split) | ((with_reducible refine Keeps.mk ?_ ?_) <;> [skip; (cases bl <;> first | exact absurd (by decide) hb | rfl)]))

theorem ackPacket_keeps {bl : Block} (p : ℕ) (h : Hdr) {s0 s : State} (hc0 : Keeps bl s0 s)
    (hb : bl ∉ [.out, .eic, .mail, .eng, .sch, .front, .dma, .tb, .topo, .fns] := by exact notMem_of ‹_ ∉ _› rfl) : Keeps bl s0 (ackPacket p h s) := by
  unfold ackPacket; try dsimp only
  repeat' (first | (with_reducible first | assumption | intro _ | exact notMem_of hb rfl | apply seqAdd_keeps | apply splitOver_keeps | apply itemCtrl_keeps | apply itemLen_keeps | apply stSuccess_keeps | apply decideItem_keeps | apply boundItem_keeps | apply failedTry_keeps | apply outProgress_keeps | apply setTxnSeq_keeps | apply unitAhead_keeps | apply modItem_keeps | apply splitUnit_keeps | apply absUframe_keeps | apply modPstate_keeps | apply setupDone_keeps | apply goOnSeq_keeps | apply seqDist_keeps | apply txnGen_keeps | apply handshake_keeps | apply Keeps.ite | apply KeepsO.ite | apply KeepsO.next | split) | ((with_reducible refine Keeps.mk ?_ ?_) <;> [skip; (cases bl <;> first | exact absurd (by decide) hb | rfl)]))

theorem nakPacket_keeps {bl : Block} (p : ℕ) (h : Hdr) {s0 s : State} (hc0 : Keeps bl s0 s)
    (hb : bl ∉ [.out, .eic, .mail, .eng, .sch, .front, .dma, .tb, .topo, .fns] := by exact notMem_of ‹_ ∉ _› rfl) : Keeps bl s0 (nakPacket p h s) := by
  unfold nakPacket; try dsimp only
  repeat' (first | (with_reducible first | assumption | intro _ | exact notMem_of hb rfl | apply setErrs_keeps | apply splitOver_keeps | apply modItem_keeps | apply stSuccess_keeps | apply decideItem_keeps | apply rebindEvent_keeps | apply boundItem_keeps | apply perLost_keeps | apply goOn_keeps | apply isPeriodic_keeps | apply failedTry_keeps | apply isSetup_keeps | apply handshake_keeps | apply Keeps.ite | apply KeepsO.ite | apply KeepsO.next | split) | ((with_reducible refine Keeps.mk ?_ ?_) <;> [skip; (cases bl <;> first | exact absurd (by decide) hb | rfl)]))

theorem stallPacket_keeps {bl : Block} (p : ℕ) (h : Hdr) {s0 s : State} (hc0 : Keeps bl s0 s)
    (hb : bl ∉ [.out, .eic, .mail, .eng, .sch, .front, .dma, .tb, .topo, .fns] := by exact notMem_of ‹_ ∉ _› rfl) : Keeps bl s0 (stallPacket p h s) := by
  unfold stallPacket; try dsimp only
  repeat' (with_reducible first | assumption | intro _ | exact notMem_of hb rfl | apply markHalted_keeps | apply goOn_keeps | apply stStall_keeps | apply decide__keeps | apply splitOver_keeps | apply failedTry_keeps | apply isSetup_keeps | apply handshake_keeps | apply Keeps.ite | apply KeepsO.ite | apply KeepsO.next | split)

theorem nyetPacket_keeps {bl : Block} (p : ℕ) (h : Hdr) {s0 s : State} (hc0 : Keeps bl s0 s)
    (hb : bl ∉ [.out, .eic, .mail, .eng, .sch, .front, .dma, .tb, .topo, .fns] := by exact notMem_of ‹_ ∉ _› rfl) : Keeps bl s0 (nyetPacket p h s) := by
  unfold nyetPacket; try dsimp only
  repeat' (first | (with_reducible first | assumption | intro _ | exact notMem_of hb rfl | apply unitAhead_keeps | apply txnGen_keeps | apply splitUnit_keeps | apply absUframe_keeps | apply modPstate_keeps | apply stMissed_keeps | apply decide__keeps | apply goOn_keeps | apply isPeriodic_keeps | apply modItem_keeps | apply workItem_keeps | apply failedTry_keeps | apply handshake_keeps | apply Keeps.ite | apply KeepsO.ite | apply KeepsO.next | split) | ((with_reducible refine Keeps.mk ?_ ?_) <;> [skip; (cases bl <;> first | exact absurd (by decide) hb | rfl)]))

theorem errPacket_keeps {bl : Block} (p : ℕ) (h : Hdr) {s0 s : State} (hc0 : Keeps bl s0 s)
    (hb : bl ∉ [.out, .eic, .mail, .eng, .sch, .front, .dma, .tb, .topo, .fns] := by exact notMem_of ‹_ ∉ _› rfl) : Keeps bl s0 (errPacket p h s) := by
  unfold errPacket; try dsimp only
  repeat' (with_reducible first | assumption | intro _ | exact notMem_of hb rfl | apply failedTry_keeps | apply endBurst_keeps | apply stXactErr_keeps | apply perLost_keeps | apply isPeriodic_keeps | apply stBabble_keeps | apply decide__keeps | apply goOn_keeps | apply countCheck_keeps | apply badPacket_keeps | apply handshake_keeps | apply Keeps.ite | apply KeepsO.ite | apply KeepsO.next | split)

theorem execDataPacket_keeps {bl : Block} (p : PortId) (h : Hdr) (payload : List Byte) (crc : U32) (overrun : Bool) {s0 s : State} (hc0 : Keeps bl s0 s)
    (hb : bl ∉ [.out, .eic, .mail, .eng, .sch, .front, .dma, .tb, .topo, .fns] := by exact notMem_of ‹_ ∉ _› rfl) : KeepsO bl s0 (execDataPacket p h payload crc overrun s) := by
  unfold execDataPacket; try dsimp only
  repeat' (with_reducible first | assumption | intro _ | exact notMem_of hb rfl | apply dataPacket_keeps | apply laneUp_keeps | apply guarded_keeps | apply crc_keeps | apply Keeps.ite | apply KeepsO.ite | apply KeepsO.next | split)

theorem execAck_keeps {bl : Block} (p : PortId) (h : Hdr) {s0 s : State} (hc0 : Keeps bl s0 s)
    (hb : bl ∉ [.out, .eic, .mail, .eng, .sch, .front, .dma, .tb, .topo, .fns] := by exact notMem_of ‹_ ∉ _› rfl) : KeepsO bl s0 (execAck p h s) := by
  unfold execAck; try dsimp only
  repeat' (with_reducible first | assumption | intro _ | exact notMem_of hb rfl | apply ackPacket_keeps | apply laneUp_keeps | apply guarded_keeps | apply Keeps.ite | apply KeepsO.ite | apply KeepsO.next | split)

theorem execNak_keeps {bl : Block} (p : PortId) (h : Hdr) {s0 s : State} (hc0 : Keeps bl s0 s)
    (hb : bl ∉ [.out, .eic, .mail, .eng, .sch, .front, .dma, .tb, .topo, .fns] := by exact notMem_of ‹_ ∉ _› rfl) : KeepsO bl s0 (execNak p h s) := by
  unfold execNak; try dsimp only
  repeat' (with_reducible first | assumption | intro _ | exact notMem_of hb rfl | apply nakPacket_keeps | apply laneUp_keeps | apply guarded_keeps | apply Keeps.ite | apply KeepsO.ite | apply KeepsO.next | split)

theorem execStall_keeps {bl : Block} (p : PortId) (h : Hdr) {s0 s : State} (hc0 : Keeps bl s0 s)
    (hb : bl ∉ [.out, .eic, .mail, .eng, .sch, .front, .dma, .tb, .topo, .fns] := by exact notMem_of ‹_ ∉ _› rfl) : KeepsO bl s0 (execStall p h s) := by
  unfold execStall; try dsimp only
  repeat' (with_reducible first | assumption | intro _ | exact notMem_of hb rfl | apply stallPacket_keeps | apply laneUp_keeps | apply guarded_keeps | apply Keeps.ite | apply KeepsO.ite | apply KeepsO.next | split)

theorem execNyet_keeps {bl : Block} (p : PortId) (h : Hdr) {s0 s : State} (hc0 : Keeps bl s0 s)
    (hb : bl ∉ [.out, .eic, .mail, .eng, .sch, .front, .dma, .tb, .topo, .fns] := by exact notMem_of ‹_ ∉ _› rfl) : KeepsO bl s0 (execNyet p h s) := by
  unfold execNyet; try dsimp only
  repeat' (with_reducible first | assumption | intro _ | exact notMem_of hb rfl | apply countCheck_keeps | apply badPacket_keeps | apply nyetPacket_keeps | apply port_keeps | apply serdes_keeps | apply laneUp_keeps | apply guarded_keeps | apply Keeps.ite | apply KeepsO.ite | apply KeepsO.next | split)

theorem execErr_keeps {bl : Block} (p : PortId) (h : Hdr) {s0 s : State} (hc0 : Keeps bl s0 s)
    (hb : bl ∉ [.out, .eic, .mail, .eng, .sch, .front, .dma, .tb, .topo, .fns] := by exact notMem_of ‹_ ∉ _› rfl) : KeepsO bl s0 (execErr p h s) := by
  unfold execErr; try dsimp only
  repeat' (with_reducible first | assumption | intro _ | exact notMem_of hb rfl | apply errPacket_keeps | apply laneUp_keeps | apply guarded_keeps | apply Keeps.ite | apply KeepsO.ite | apply KeepsO.next | split)

theorem execDiscardedPacket_keeps {bl : Block} (p : PortId) {s0 s : State} (hc0 : Keeps bl s0 s)
    (hb : bl ∉ [.out, .eic, .mail, .eng, .sch, .front, .dma, .tb, .topo, .fns] := by exact notMem_of ‹_ ∉ _› rfl) : KeepsO bl s0 (execDiscardedPacket p s) := by
  unfold execDiscardedPacket; try dsimp only
  repeat' (with_reducible first | assumption | intro _ | exact notMem_of hb rfl | apply countCheck_keeps | apply badPacket_keeps | apply laneUp_keeps | apply guarded_keeps | apply Keeps.ite | apply KeepsO.ite | apply KeepsO.next | split)

theorem execResponseTimeout_keeps {bl : Block} (p : PortId) (driven : Bool) {s0 s : State} (hc0 : Keeps bl s0 s)
    (hb : bl ∉ [.out, .eic, .mail, .eng, .sch, .front, .dma, .tb, .topo, .fns] := by exact notMem_of ‹_ ∉ _› rfl) : KeepsO bl s0 (execResponseTimeout p driven s) := by
  unfold execResponseTimeout; try dsimp only
  repeat' (first | (with_reducible first | assumption | intro _ | exact notMem_of hb rfl | apply report_keeps | apply lineWaited_keeps | apply modPort_keeps | apply failedTry_keeps | apply awaiting_keeps | apply port_keeps | apply serdes_keeps | apply laneUp_keeps | apply guarded_keeps | apply Keeps.ite | apply KeepsO.ite | apply KeepsO.next | split) | ((with_reducible refine Keeps.mk ?_ ?_) <;> [skip; (cases bl <;> first | exact absurd (by decide) hb | rfl)]))

theorem execBurstGapExpiry_keeps {bl : Block} (p : PortId) {s0 s : State} (hc0 : Keeps bl s0 s)
    (hb : bl ∉ [.out, .eic, .mail, .eng, .sch, .front, .dma, .tb, .topo, .fns] := by exact notMem_of ‹_ ∉ _› rfl) : KeepsO bl s0 (execBurstGapExpiry p s) := by
  unfold execBurstGapExpiry; try dsimp only
  repeat' (with_reducible first | assumption | intro _ | exact notMem_of hb rfl | apply endBurst_keeps | apply awaiting_keeps | apply port_keeps | apply serdes_keeps | apply laneUp_keeps | apply guarded_keeps | apply Keeps.ite | apply KeepsO.ite | apply KeepsO.next | split)

theorem execControlTimeLimit_keeps {bl : Block} (item : ℕ) {s0 s : State} (hc0 : Keeps bl s0 s)
    (hb : bl ∉ [.mail, .sch, .front, .dma, .tb, .topo] := by exact notMem_of ‹_ ∉ _› rfl) : KeepsO bl s0 (execControlTimeLimit item s) := by
  unfold execControlTimeLimit; try dsimp only
  repeat' (with_reducible first | assumption | intro _ | exact notMem_of hb rfl | apply stXactErr_keeps | apply stopItem_keeps | apply begun_keeps | apply itemCtrl_keeps | apply live_keeps | apply guarded_keeps | apply Keeps.ite | apply KeepsO.ite | apply KeepsO.next | split)

theorem sendSof_keeps {bl : Block} (p : ℕ) {s0 s : State} (hc0 : Keeps bl s0 s)
    (hb : bl ∉ [.out] := by exact notMem_of ‹_ ∉ _› rfl) : Keeps bl s0 (sendSof p s) := by
  unfold sendSof; try dsimp only
  repeat' (first | (with_reducible first | assumption | intro _ | exact notMem_of hb rfl | apply port_keeps | apply genCode_keeps | apply Hdr0_keeps | apply send_keeps | apply Keeps.ite | apply KeepsO.ite | apply KeepsO.next | split) | ((with_reducible refine Keeps.mk ?_ ?_) <;> [skip; (cases bl <;> first | exact absurd (by decide) hb | rfl)]))

theorem execSofDeferredSend_keeps {bl : Block} (p : PortId) {s0 s : State} (hc0 : Keeps bl s0 s)
    (hb : bl ∉ [.out, .eic, .mail, .eng, .sch, .front, .dma, .tb, .topo, .fns] := by exact notMem_of ‹_ ∉ _› rfl) : KeepsO bl s0 (execSofDeferredSend p s) := by
  unfold execSofDeferredSend; try dsimp only
  repeat' (first | (with_reducible first | assumption | intro _ | exact notMem_of hb rfl | apply runLane_keeps | apply Hdr0_keeps | apply send_keeps | apply sendSof_keeps | apply sofPort_keeps | apply modPort_keeps | apply port_keeps | apply laneUp_keeps | apply guarded_keeps | apply Keeps.ite | apply KeepsO.ite | apply KeepsO.next | split) | ((with_reducible refine Keeps.mk ?_ ?_) <;> [skip; (cases bl <;> first | exact absurd (by decide) hb | rfl)]))

theorem execSofHoldLimit_keeps {bl : Block} (p : PortId) {s0 s : State} (hc0 : Keeps bl s0 s)
    (hb : bl ∉ [.out, .eic, .mail, .eng, .sch, .front, .dma, .tb, .topo, .fns] := by exact notMem_of ‹_ ∉ _› rfl) : KeepsO bl s0 (execSofHoldLimit p s) := by
  unfold execSofHoldLimit; try dsimp only
  repeat' (with_reducible first | assumption | intro _ | exact notMem_of hb rfl | apply babbleDisable_keeps | apply serdes_keeps | apply port_keeps | apply laneUp_keeps | apply guarded_keeps | apply Keeps.ite | apply KeepsO.ite | apply KeepsO.next | split)

end Sys2Proof.Machine
end

