-- ==== Sys2Proof/Laws/KeepsRows.lean ====
section
/-! SUPPORT. Which blocks of the state an operation leaves as they are, continued: the operations of links, topology, timebase, axes, engines, scripts, buffers and functions. -/

set_option linter.unusedTactic false
set_option linter.unreachableTactic false

namespace Sys2Proof.Machine

set_option Elab.async false

theorem sendCmd_keeps {bl : Block} (p : ℕ) (code : ℕ) {s0 s : State} (hc0 : Keeps bl s0 s)
    (hb : bl ∉ [.out, .topo] := by exact notMem_of ‹_ ∉ _› rfl) : Keeps bl s0 (sendCmd p code s) := by
  unfold sendCmd; try dsimp only
  repeat' (first | (with_reducible first | assumption | intro _ | exact notMem_of hb rfl | apply modPort_keeps | apply port_keeps | apply cmdParam_keeps | apply sendLink_keeps | apply Keeps.ite | apply KeepsO.ite | apply KeepsO.next | split) | ((with_reducible refine Keeps.mk ?_ ?_) <;> [skip; (cases bl <;> first | exact absurd (by decide) hb | rfl)]))

theorem replied_keeps {bl : Block} (p : ℕ) (code : ℕ) {s0 s : State} (hc0 : Keeps bl s0 s)
    (hb : bl ∉ [.topo] := by exact notMem_of ‹_ ∉ _› rfl) : Keeps bl s0 (replied p code s) := by
  unfold replied; try dsimp only
  repeat' (first | (with_reducible first | assumption | intro _ | exact notMem_of hb rfl | apply modPort_keeps | apply Keeps.ite | apply KeepsO.ite | apply KeepsO.next | split) | ((with_reducible refine Keeps.mk ?_ ?_) <;> [skip; (cases bl <;> first | exact absurd (by decide) hb | rfl)]))

theorem linkRecovery_keeps {bl : Block} (p : ℕ) {s0 s : State} (hc0 : Keeps bl s0 s)
    (hb : bl ∉ [.out, .eic, .mail, .eng, .sch, .front, .dma, .tb, .topo, .fns] := by exact notMem_of ‹_ ∉ _› rfl) : Keeps bl s0 (linkRecovery p s) := by
  unfold linkRecovery; try dsimp only
  repeat' (first | (with_reducible first | assumption | intro _ | exact notMem_of hb rfl | apply modPort_keeps | apply emit_keeps | apply lineFails_keeps | apply Keeps.ite | apply KeepsO.ite | apply KeepsO.next | split) | ((with_reducible refine Keeps.mk ?_ ?_) <;> [skip; (cases bl <;> first | exact absurd (by decide) hb | rfl)]))

theorem linkActive_keeps {bl : Block} (p : ℕ) {s0 s : State} (hc0 : Keeps bl s0 s)
    (hb : bl ∉ [.out, .eic, .front, .topo, .fns] := by exact notMem_of ‹_ ∉ _› rfl) : Keeps bl s0 (linkActive p s) := by
  unfold linkActive; try dsimp only
  repeat' (first | (with_reducible first | assumption | intro _ | exact notMem_of hb rfl | apply enterRecovery_keeps | apply port_keeps | apply modPort_keeps | apply Keeps.ite | apply KeepsO.ite | apply KeepsO.next | split) | ((with_reducible refine Keeps.mk ?_ ?_) <;> [skip; (cases bl <;> first | exact absurd (by decide) hb | rfl)]))

theorem configDone_keeps {bl : Block} (p : ℕ) {s0 s : State} (hc0 : Keeps bl s0 s)
    (hb : bl ∉ [.out, .eic, .front, .topo, .fns] := by exact notMem_of ‹_ ∉ _› rfl) : Keeps bl s0 (configDone p s) := by
  unfold configDone; try dsimp only
  repeat' (with_reducible first | assumption | intro _ | exact notMem_of hb rfl | apply linkActive_keeps | apply port_keeps | apply Keeps.ite | apply KeepsO.ite | apply KeepsO.next | split)

theorem capsDone_keeps {bl : Block} (p : ℕ) {s0 s : State} (hc0 : Keeps bl s0 s)
    (hb : bl ∉ [.out, .eic, .front, .topo, .fns] := by exact notMem_of ‹_ ∉ _› rfl) : Keeps bl s0 (capsDone p s) := by
  unfold capsDone; try dsimp only
  repeat' (first | (with_reducible first | assumption | intro _ | exact notMem_of hb rfl | apply cmdTrainDone_keeps | apply sendCmd_keeps | apply configDone_keeps | apply modPort_keeps | apply emit_keeps | apply port_keeps | apply Keeps.ite | apply KeepsO.ite | apply KeepsO.next | split) | ((with_reducible refine Keeps.mk ?_ ?_) <;> [skip; (cases bl <;> first | exact absurd (by decide) hb | rfl)]))

theorem execTrainCap_keeps {bl : Block} (p : PortId) (param : BitVec 11) {s0 s : State} (hc0 : Keeps bl s0 s)
    (hb : bl ∉ [.out, .eic, .front, .topo, .fns] := by exact notMem_of ‹_ ∉ _› rfl) : KeepsO bl s0 (execTrainCap p param s) := by
  unfold execTrainCap; try dsimp only
  repeat' (first | (with_reducible first | assumption | intro _ | exact notMem_of hb rfl | apply modPort_keeps | apply replied_keeps | apply capsDone_keeps | apply capParam_keeps | apply cmdTrainCap_keeps | apply sendLink_keeps | apply port_keeps | apply serves_keeps | apply guarded_keeps | apply Keeps.ite | apply KeepsO.ite | apply KeepsO.next | split) | ((with_reducible refine Keeps.mk ?_ ?_) <;> [skip; (cases bl <;> first | exact absurd (by decide) hb | rfl)]))

theorem execTrainDone_keeps {bl : Block} (p : PortId) {s0 s : State} (hc0 : Keeps bl s0 s)
    (hb : bl ∉ [.out, .eic, .front, .topo, .fns] := by exact notMem_of ‹_ ∉ _› rfl) : KeepsO bl s0 (execTrainDone p s) := by
  unfold execTrainDone; try dsimp only
  repeat' (first | (with_reducible first | assumption | intro _ | exact notMem_of hb rfl | apply modPort_keeps | apply replied_keeps | apply configDone_keeps | apply cmdTrainDone_keeps | apply sendLink_keeps | apply port_keeps | apply serves_keeps | apply guarded_keeps | apply Keeps.ite | apply KeepsO.ite | apply KeepsO.next | split) | ((with_reducible refine Keeps.mk ?_ ?_) <;> [skip; (cases bl <;> first | exact absurd (by decide) hb | rfl)]))

theorem execLpEnter_keeps {bl : Block} (p : PortId) {s0 s : State} (hc0 : Keeps bl s0 s)
    (hb : bl ∉ [.out, .topo] := by exact notMem_of ‹_ ∉ _› rfl) : KeepsO bl s0 (execLpEnter p s) := by
  unfold execLpEnter; try dsimp only
  repeat' (first | (with_reducible first | assumption | intro _ | exact notMem_of hb rfl | apply cmdLpAccept_keeps | apply modPort_keeps | apply emit_keeps | apply cmdLpReject_keeps | apply sendLink_keeps | apply port_keeps | apply serves_keeps | apply guarded_keeps | apply Keeps.ite | apply KeepsO.ite | apply KeepsO.next | split) | ((with_reducible refine Keeps.mk ?_ ?_) <;> [skip; (cases bl <;> first | exact absurd (by decide) hb | rfl)]))

theorem execLpAccept_keeps {bl : Block} (p : PortId) {s0 s : State} (hc0 : Keeps bl s0 s)
    (hb : bl ∉ [.out, .topo] := by exact notMem_of ‹_ ∉ _› rfl) : KeepsO bl s0 (execLpAccept p s) := by
  unfold execLpAccept; try dsimp only
  repeat' (first | (with_reducible first | assumption | intro _ | exact notMem_of hb rfl | apply modPort_keeps | apply emit_keeps | apply cmdLpEnter_keeps | apply port_keeps | apply serves_keeps | apply guarded_keeps | apply Keeps.ite | apply KeepsO.ite | apply KeepsO.next | split) | ((with_reducible refine Keeps.mk ?_ ?_) <;> [skip; (cases bl <;> first | exact absurd (by decide) hb | rfl)]))

theorem execLpReject_keeps {bl : Block} (p : PortId) {s0 s : State} (hc0 : Keeps bl s0 s)
    (hb : bl ∉ [.topo] := by exact notMem_of ‹_ ∉ _› rfl) : KeepsO bl s0 (execLpReject p s) := by
  unfold execLpReject; try dsimp only
  repeat' (first | (with_reducible first | assumption | intro _ | exact notMem_of hb rfl | apply modPort_keeps | apply cmdLpEnter_keeps | apply port_keeps | apply serves_keeps | apply guarded_keeps | apply Keeps.ite | apply KeepsO.ite | apply KeepsO.next | split) | ((with_reducible refine Keeps.mk ?_ ?_) <;> [skip; (cases bl <;> first | exact absurd (by decide) hb | rfl)]))

theorem execWake_keeps {bl : Block} (p : PortId) {s0 s : State} (hc0 : Keeps bl s0 s)
    (hb : bl ∉ [.out] := by exact notMem_of ‹_ ∉ _› rfl) : KeepsO bl s0 (execWake p s) := by
  unfold execWake; try dsimp only
  repeat' (with_reducible first | assumption | intro _ | exact notMem_of hb rfl | apply cmdWakeAck_keeps | apply sendLink_keeps | apply port_keeps | apply serves_keeps | apply guarded_keeps | apply Keeps.ite | apply KeepsO.ite | apply KeepsO.next | split)

theorem execWakeAck_keeps {bl : Block} (p : PortId) {s0 s : State} (hc0 : Keeps bl s0 s)
    (hb : bl ∉ [.topo] := by exact notMem_of ‹_ ∉ _› rfl) : KeepsO bl s0 (execWakeAck p s) := by
  unfold execWakeAck; try dsimp only
  repeat' (with_reducible first | assumption | intro _ | exact notMem_of hb rfl | apply cmdWake_keeps | apply replied_keeps | apply serves_keeps | apply guarded_keeps | apply Keeps.ite | apply KeepsO.ite | apply KeepsO.next | split)

theorem execLinkCmdTimeout_keeps {bl : Block} (p : PortId) {s0 s : State} (hc0 : Keeps bl s0 s)
    (hb : bl ∉ [.out, .eic, .mail, .eng, .sch, .front, .dma, .tb, .topo, .fns] := by exact notMem_of ‹_ ∉ _› rfl) : KeepsO bl s0 (execLinkCmdTimeout p s) := by
  unfold execLinkCmdTimeout; try dsimp only
  repeat' (first | (with_reducible first | assumption | intro _ | exact notMem_of hb rfl | apply linkRecovery_keeps | apply modPort_keeps | apply cmdParam_keeps | apply sendLink_keeps | apply port_keeps | apply serves_keeps | apply guarded_keeps | apply Keeps.ite | apply KeepsO.ite | apply KeepsO.next | split) | ((with_reducible refine Keeps.mk ?_ ?_) <;> [skip; (cases bl <;> first | exact absurd (by decide) hb | rfl)]))

theorem execDetectPulse_keeps {bl : Block} (p : PortId) {s0 s : State} (hc0 : Keeps bl s0 s)
    (hb : bl ∉ [.out, .eic, .mail, .eng, .sch, .front, .dma, .tb, .topo, .fns, .slots, .err, .pair] := by exact notMem_of ‹_ ∉ _› rfl) : KeepsO bl s0 (execDetectPulse p s) := by
  unfold execDetectPulse; try dsimp only
  repeat' (with_reducible first | assumption | intro _ | exact notMem_of hb rfl | apply emit_keeps | apply detect_keeps | apply port_keeps | apply serves_keeps | apply guarded_keeps | apply Keeps.ite | apply KeepsO.ite | apply KeepsO.next | split)

theorem execFarEndTermination_keeps {bl : Block} (p : PortId) {s0 s : State} (hc0 : Keeps bl s0 s)
    (hb : bl ∉ [.out, .eic, .mail, .eng, .sch, .front, .dma, .tb, .topo, .fns, .slots, .err, .pair] := by exact notMem_of ‹_ ∉ _› rfl) : KeepsO bl s0 (execFarEndTermination p s) := by
  unfold execFarEndTermination; try dsimp only
  repeat' (first | (with_reducible first | assumption | intro _ | exact notMem_of hb rfl | apply debounceRoot_keeps | apply emit_keeps | apply detect_keeps | apply modPort_keeps | apply port_keeps | apply connectOf_keeps | apply serves_keeps | apply guarded_keeps | apply Keeps.ite | apply KeepsO.ite | apply KeepsO.next | split) | ((with_reducible refine Keeps.mk ?_ ?_) <;> [skip; (cases bl <;> first | exact absurd (by decide) hb | rfl)]))

theorem execTrainingSetLock_keeps {bl : Block} (p : PortId) {s0 s : State} (hc0 : Keeps bl s0 s)
    (hb : bl ∉ [.out, .eic, .front, .topo, .fns] := by exact notMem_of ‹_ ∉ _› rfl) : KeepsO bl s0 (execTrainingSetLock p s) := by
  unfold execTrainingSetLock; try dsimp only
  repeat' (first | (with_reducible first | assumption | intro _ | exact notMem_of hb rfl | apply cmdWake_keeps | apply linkActive_keeps | apply modPort_keeps | apply cmdTrainCap_keeps | apply sendCmd_keeps | apply port_keeps | apply serves_keeps | apply guarded_keeps | apply Keeps.ite | apply KeepsO.ite | apply KeepsO.next | split) | ((with_reducible refine Keeps.mk ?_ ?_) <;> [skip; (cases bl <;> first | exact absurd (by decide) hb | rfl)]))

theorem execRecoveryTimeout_keeps {bl : Block} (p : PortId) {s0 s : State} (hc0 : Keeps bl s0 s)
    (hb : bl ∉ [.out, .eic, .mail, .eng, .sch, .front, .dma, .tb, .topo, .fns, .slots, .err, .pair] := by exact notMem_of ‹_ ∉ _› rfl) : KeepsO bl s0 (execRecoveryTimeout p s) := by
  unfold execRecoveryTimeout; try dsimp only
  repeat' (first | (with_reducible first | assumption | intro _ | exact notMem_of hb rfl | apply modPort_keeps | apply trainingFailed_keeps | apply port_keeps | apply serves_keeps | apply guarded_keeps | apply Keeps.ite | apply KeepsO.ite | apply KeepsO.next | split) | ((with_reducible refine Keeps.mk ?_ ?_) <;> [skip; (cases bl <;> first | exact absurd (by decide) hb | rfl)]))

theorem execLinkErrorLimit_keeps {bl : Block} (p : PortId) {s0 s : State} (hc0 : Keeps bl s0 s)
    (hb : bl ∉ [.out, .eic, .mail, .eng, .sch, .front, .dma, .tb, .topo, .fns] := by exact notMem_of ‹_ ∉ _› rfl) : KeepsO bl s0 (execLinkErrorLimit p s) := by
  unfold execLinkErrorLimit; try dsimp only
  repeat' (first | (with_reducible first | assumption | intro _ | exact notMem_of hb rfl | apply modPort_keeps | apply linkRecovery_keeps | apply port_keeps | apply serves_keeps | apply guarded_keeps | apply Keeps.ite | apply KeepsO.ite | apply KeepsO.next | split) | ((with_reducible refine Keeps.mk ?_ ?_) <;> [skip; (cases bl <;> first | exact absurd (by decide) hb | rfl)]))

theorem execWakeTone_keeps {bl : Block} (p : PortId) {s0 s : State} (hc0 : Keeps bl s0 s)
    (hb : bl ∉ [.out, .eic, .mail, .eng, .sch, .front, .dma, .tb, .topo, .fns] := by exact notMem_of ‹_ ∉ _› rfl) : KeepsO bl s0 (execWakeTone p s) := by
  unfold execWakeTone; try dsimp only
  repeat' (first | (with_reducible first | assumption | intro _ | exact notMem_of hb rfl | apply modPort_keeps | apply linkRecovery_keeps | apply port_keeps | apply serves_keeps | apply guarded_keeps | apply Keeps.ite | apply KeepsO.ite | apply KeepsO.next | split) | ((with_reducible refine Keeps.mk ?_ ?_) <;> [skip; (cases bl <;> first | exact absurd (by decide) hb | rfl)]))

theorem execSuspendSilenceExpiry_keeps {bl : Block} (p : PortId) {s0 s : State} (hc0 : Keeps bl s0 s)
    (hb : bl ∉ [.out, .topo] := by exact notMem_of ‹_ ∉ _› rfl) : KeepsO bl s0 (execSuspendSilenceExpiry p s) := by
  unfold execSuspendSilenceExpiry; try dsimp only
  repeat' (first | (with_reducible first | assumption | intro _ | exact notMem_of hb rfl | apply modPort_keeps | apply cmdLpEnter_keeps | apply sendCmd_keeps | apply port_keeps | apply serves_keeps | apply guarded_keeps | apply Keeps.ite | apply KeepsO.ite | apply KeepsO.next | split) | ((with_reducible refine Keeps.mk ?_ ?_) <;> [skip; (cases bl <;> first | exact absurd (by decide) hb | rfl)]))

theorem execLegacyBiasLoss_keeps {bl : Block} (p : PortId) {s0 s : State} (hc0 : Keeps bl s0 s)
    (hb : bl ∉ [.out, .eic, .mail, .eng, .sch, .front, .dma, .tb, .topo, .fns] := by exact notMem_of ‹_ ∉ _› rfl) : KeepsO bl s0 (execLegacyBiasLoss p s) := by
  unfold execLegacyBiasLoss; try dsimp only
  repeat' (first | (with_reducible first | assumption | intro _ | exact notMem_of hb rfl | apply modPort_keeps | apply disconnect_keeps | apply serdes_keeps | apply port_keeps | apply serves_keeps | apply guarded_keeps | apply Keeps.ite | apply KeepsO.ite | apply KeepsO.next | split) | ((with_reducible refine Keeps.mk ?_ ?_) <;> [skip; (cases bl <;> first | exact absurd (by decide) hb | rfl)]))

theorem execLinkDisconnectTimeout_keeps {bl : Block} (p : PortId) {s0 s : State} (hc0 : Keeps bl s0 s)
    (hb : bl ∉ [.out, .eic, .mail, .eng, .sch, .front, .dma, .tb, .topo, .fns, .slots, .err, .pair] := by exact notMem_of ‹_ ∉ _› rfl) : KeepsO bl s0 (execLinkDisconnectTimeout p s) := by
  unfold execLinkDisconnectTimeout; try dsimp only
  repeat' (with_reducible first | assumption | intro _ | exact notMem_of hb rfl | apply disconnect_keeps | apply detect_keeps | apply serdes_keeps | apply port_keeps | apply serves_keeps | apply guarded_keeps | apply Keeps.ite | apply KeepsO.ite | apply KeepsO.next | split)

theorem writeReport_keeps {bl : Block} (r : Report) (rest : List Report) {s0 s : State} (hc0 : Keeps bl s0 s)
    (hb : bl ∉ [.out, .free, .eic, .mail, .eng, .sch, .front, .dma, .tb, .topo, .fns, .slots, .err, .pair] := by exact notMem_of ‹_ ∉ _› rfl) : Keeps bl s0 (writeReport r rest s) := by
  unfold writeReport; try dsimp only
  repeat' (first | (with_reducible first | assumption | intro _ | exact notMem_of hb rfl | apply releaseHeld_keeps | apply answersReset_keeps | apply answerTopo_keeps | apply modDev_keeps | apply handle_keeps | apply handleWord_keeps | apply boxKey_keeps | apply postOut_keeps | apply freshIndex_keeps | apply reportBytes_keeps | apply hostWrite_keeps | apply ringSize_keeps | apply Keeps.ite | apply KeepsO.ite | apply KeepsO.next | split) | ((with_reducible refine Keeps.mk ?_ ?_) <;> [skip; (cases bl <;> first | exact absurd (by decide) hb | rfl)]))

theorem execReportRecordWrite_keeps {bl : Block} {s0 s : State} (hc0 : Keeps bl s0 s)
    (hb : bl ∉ [.out, .free, .eic, .mail, .eng, .sch, .front, .dma, .tb, .topo, .fns, .slots, .err, .pair] := by exact notMem_of ‹_ ∉ _› rfl) : KeepsO bl s0 (execReportRecordWrite s) := by
  unfold execReportRecordWrite; try dsimp only
  repeat' (with_reducible first | assumption | intro _ | exact notMem_of hb rfl | apply writeReport_keeps | apply ringSize_keeps | apply ringUsed_keeps | apply fn_keeps | apply live_keeps | apply guarded_keeps | apply Keeps.ite | apply KeepsO.ite | apply KeepsO.next | split)

theorem topoRingWrite_keeps {bl : Block} (v : U32) {s0 s : State} (hc0 : Keeps bl s0 s)
    (hb : bl ∉ [.out, .eic, .topo, .fns] := by exact notMem_of ‹_ ∉ _› rfl) : Keeps bl s0 (topoRingWrite v s) := by
  unfold topoRingWrite; try dsimp only
  repeat' (first | (with_reducible first | assumption | intro _ | exact notMem_of hb rfl | apply raiseQ_keeps | apply ringSize_keeps | apply Keeps.ite | apply KeepsO.ite | apply KeepsO.next | split) | ((with_reducible refine Keeps.mk ?_ ?_) <;> [skip; (cases bl <;> first | exact absurd (by decide) hb | rfl)]))

theorem execTopoRingWrite_keeps {bl : Block} (value : U32) {s0 s : State} (hc0 : Keeps bl s0 s)
    (hb : bl ∉ [.out, .eic, .topo, .fns] := by exact notMem_of ‹_ ∉ _› rfl) : KeepsO bl s0 (execTopoRingWrite value s) := by
  unfold execTopoRingWrite; try dsimp only
  repeat' (with_reducible first | assumption | intro _ | exact notMem_of hb rfl | apply topoRingWrite_keeps | apply hostReaches_keeps | apply guarded_keeps | apply Keeps.ite | apply KeepsO.ite | apply KeepsO.next | split)

theorem topoBaseWrite_keeps {bl : Block} (v : U64) {s0 s : State} (hc0 : Keeps bl s0 s)
    (hb : bl ∉ [.out, .eic, .topo, .fns] := by exact notMem_of ‹_ ∉ _› rfl) : Keeps bl s0 (topoBaseWrite v s) := by
  unfold topoBaseWrite; try dsimp only
  repeat' (first | (with_reducible first | assumption | intro _ | exact notMem_of hb rfl | apply raiseQ_keeps | apply Keeps.ite | apply KeepsO.ite | apply KeepsO.next | split) | ((with_reducible refine Keeps.mk ?_ ?_) <;> [skip; (cases bl <;> first | exact absurd (by decide) hb | rfl)]))

theorem execTopoBaseWrite_keeps {bl : Block} (value : U64) {s0 s : State} (hc0 : Keeps bl s0 s)
    (hb : bl ∉ [.out, .eic, .topo, .fns] := by exact notMem_of ‹_ ∉ _› rfl) : KeepsO bl s0 (execTopoBaseWrite value s) := by
  unfold execTopoBaseWrite; try dsimp only
  repeat' (with_reducible first | assumption | intro _ | exact notMem_of hb rfl | apply topoBaseWrite_keeps | apply hostReaches_keeps | apply guarded_keeps | apply Keeps.ite | apply KeepsO.ite | apply KeepsO.next | split)

theorem parkAborts_keeps {bl : Block} (at_ : Loc) (ids : List ℕ) {s0 s : State} (hc0 : Keeps bl s0 s)
    (hb : bl ∉ [.front] := by exact notMem_of ‹_ ∉ _› rfl) : Keeps bl s0 (parkAborts at_ ids s) := by
  unfold parkAborts; try dsimp only
  repeat' (first | (with_reducible first | assumption | intro _ | exact notMem_of hb rfl | apply stPortReset_keeps | apply modItem_keeps | apply each_keeps | apply Keeps.ite | apply KeepsO.ite | apply KeepsO.next | split) | ((with_reducible refine Keeps.mk ?_ ?_) <;> [skip; (cases bl <;> first | exact absurd (by decide) hb | rfl)]))

theorem dropBelow_keeps {bl : Block} (at_ : Loc) {s0 s : State} (hc0 : Keeps bl s0 s)
    (hb : bl ∉ [.out, .mail, .topo, .fns] := by exact notMem_of ‹_ ∉ _› rfl) : Keeps bl s0 (dropBelow at_ s) := by
  unfold dropBelow; try dsimp only
  repeat' (with_reducible first | assumption | intro _ | exact notMem_of hb rfl | apply under_keeps | apply answerTopo_keeps | apply Keeps.ite | apply KeepsO.ite | apply KeepsO.next | split)

theorem portResetOp_keeps {bl : Block} (at_ : Loc) {s0 s : State} (hc0 : Keeps bl s0 s)
    (hb : bl ∉ [.out, .eic, .mail, .eng, .sch, .front, .dma, .tb, .topo, .fns] := by exact notMem_of ‹_ ∉ _› rfl) : Keeps bl s0 (portResetOp at_ s) := by
  unfold portResetOp; try dsimp only
  repeat' (first | (with_reducible first | assumption | intro _ | exact notMem_of hb rfl | apply modHubPort_keeps | apply queueHub_keeps | apply modPort_keeps | apply startRootReset_keeps | apply dropBelow_keeps | apply stPortReset_keeps | apply tearDown_keeps | apply parkAborts_keeps | apply subtree_keeps | apply itemsOf_keeps | apply Keeps.ite | apply KeepsO.ite | apply KeepsO.next | split) | ((with_reducible refine Keeps.mk ?_ ?_) <;> [skip; (cases bl <;> first | exact absurd (by decide) hb | rfl)]))

theorem execPortReset_keeps {bl : Block} (p : PortId) {s0 s : State} (hc0 : Keeps bl s0 s)
    (hb : bl ∉ [.out, .eic, .mail, .eng, .sch, .front, .dma, .tb, .topo, .fns] := by exact notMem_of ‹_ ∉ _› rfl) : KeepsO bl s0 (execPortReset p s) := by
  unfold execPortReset; try dsimp only
  repeat' (with_reducible first | assumption | intro _ | exact notMem_of hb rfl | apply portResetOp_keeps | apply port_keeps | apply portDown_keeps | apply hostReaches_keeps | apply guarded_keeps | apply Keeps.ite | apply KeepsO.ite | apply KeepsO.next | split)

theorem execPortDisable_keeps {bl : Block} (p : PortId) {s0 s : State} (hc0 : Keeps bl s0 s)
    (hb : bl ∉ [.out, .eic, .mail, .eng, .sch, .front, .dma, .tb, .topo, .fns] := by exact notMem_of ‹_ ∉ _› rfl) : KeepsO bl s0 (execPortDisable p s) := by
  unfold execPortDisable; try dsimp only
  repeat' (first | (with_reducible first | assumption | intro _ | exact notMem_of hb rfl | apply disablePort_keeps | apply modPort_keeps | apply hostReaches_keeps | apply guarded_keeps | apply Keeps.ite | apply KeepsO.ite | apply KeepsO.next | split) | ((with_reducible refine Keeps.mk ?_ ?_) <;> [skip; (cases bl <;> first | exact absurd (by decide) hb | rfl)]))

theorem portEnableOp_keeps {bl : Block} (p : PortId) {s0 s : State} (hc0 : Keeps bl s0 s)
    (hb : bl ∉ [.topo] := by exact notMem_of ‹_ ∉ _› rfl) : Keeps bl s0 (portEnableOp p s) := by
  unfold portEnableOp; try dsimp only
  repeat' (first | (with_reducible first | assumption | intro _ | exact notMem_of hb rfl | apply modPort_keeps | apply debounceRoot_keeps | apply port_keeps | apply Keeps.ite | apply KeepsO.ite | apply KeepsO.next | split) | ((with_reducible refine Keeps.mk ?_ ?_) <;> [skip; (cases bl <;> first | exact absurd (by decide) hb | rfl)]))

theorem execPortEnable_keeps {bl : Block} (p : PortId) {s0 s : State} (hc0 : Keeps bl s0 s)
    (hb : bl ∉ [.topo] := by exact notMem_of ‹_ ∉ _› rfl) : KeepsO bl s0 (execPortEnable p s) := by
  unfold execPortEnable; try dsimp only
  repeat' (with_reducible first | assumption | intro _ | exact notMem_of hb rfl | apply portEnableOp_keeps | apply hostReaches_keeps | apply guarded_keeps | apply Keeps.ite | apply KeepsO.ite | apply KeepsO.next | split)

theorem suspendOp_keeps {bl : Block} (at_ : Loc) {s0 s : State} (hc0 : Keeps bl s0 s)
    (hb : bl ∉ [.front, .topo] := by exact notMem_of ‹_ ∉ _› rfl) : Keeps bl s0 (suspendOp at_ s) := by
  unfold suspendOp; try dsimp only
  repeat' (first | (with_reducible first | assumption | intro _ | exact notMem_of hb rfl | apply modHubPort_keeps | apply setFeature_keeps | apply serdes_keeps | apply modPort_keeps | apply Keeps.ite | apply KeepsO.ite | apply KeepsO.next | split) | ((with_reducible refine Keeps.mk ?_ ?_) <;> [skip; (cases bl <;> first | exact absurd (by decide) hb | rfl)]))

theorem execPortSuspend_keeps {bl : Block} (p : PortId) {s0 s : State} (hc0 : Keeps bl s0 s)
    (hb : bl ∉ [.out, .eic, .mail, .eng, .sch, .front, .dma, .tb, .topo, .fns, .slots, .err, .pair] := by exact notMem_of ‹_ ∉ _› rfl) : KeepsO bl s0 (execPortSuspend p s) := by
  unfold execPortSuspend; try dsimp only
  repeat' (with_reducible first | assumption | intro _ | exact notMem_of hb rfl | apply portEvent_keeps | apply suspendOp_keeps | apply suspendRefusal_keeps | apply resumingAt_keeps | apply port_keeps | apply portDown_keeps | apply hostReaches_keeps | apply guarded_keeps | apply Keeps.ite | apply KeepsO.ite | apply KeepsO.next | split)

theorem beginResume_keeps {bl : Block} (at_ : Loc) (byDevice : Bool) (coincident : Bool) {s0 s : State} (hc0 : Keeps bl s0 s)
    (hb : bl ∉ [.out, .front, .topo] := by exact notMem_of ‹_ ∉ _› rfl) : Keeps bl s0 (beginResume at_ byDevice coincident s) := by
  unfold beginResume; try dsimp only
  repeat' (first | (with_reducible first | assumption | intro _ | exact notMem_of hb rfl | apply clearFeature_keeps | apply modHubPort_keeps | apply highZ_keeps | apply emit_keeps | apply port_keeps | apply serdes_keeps | apply now_keeps | apply modPort_keeps | apply Keeps.ite | apply KeepsO.ite | apply KeepsO.next | split) | ((with_reducible refine Keeps.mk ?_ ?_) <;> [skip; (cases bl <;> first | exact absurd (by decide) hb | rfl)]))

theorem mergeWake_keeps {bl : Block} (at_ : Loc) {s0 s : State} (hc0 : Keeps bl s0 s)
    (hb : bl ∉ [.topo] := by exact notMem_of ‹_ ∉ _› rfl) : Keeps bl s0 (mergeWake at_ s) := by
  unfold mergeWake; try dsimp only
  repeat' (first | (with_reducible first | assumption | intro _ | exact notMem_of hb rfl | apply modHubPort_keeps | apply modPort_keeps | apply Keeps.ite | apply KeepsO.ite | apply KeepsO.next | split) | ((with_reducible refine Keeps.mk ?_ ?_) <;> [skip; (cases bl <;> first | exact absurd (by decide) hb | rfl)]))

theorem resumeOp_keeps {bl : Block} (at_ : Loc) {s0 s : State} (hc0 : Keeps bl s0 s)
    (hb : bl ∉ [.out, .front, .topo] := by exact notMem_of ‹_ ∉ _› rfl) : Keeps bl s0 (resumeOp at_ s) := by
  unfold resumeOp; try dsimp only
  repeat' (with_reducible first | assumption | intro _ | exact notMem_of hb rfl | apply beginResume_keeps | apply mergeWake_keeps | apply resumingAt_keeps | apply now_keeps | apply wakeOf_keeps | apply Keeps.ite | apply KeepsO.ite | apply KeepsO.next | split)

theorem execPortResume_keeps {bl : Block} (p : PortId) {s0 s : State} (hc0 : Keeps bl s0 s)
    (hb : bl ∉ [.out, .front, .topo] := by exact notMem_of ‹_ ∉ _› rfl) : KeepsO bl s0 (execPortResume p s) := by
  unfold execPortResume; try dsimp only
  repeat' (with_reducible first | assumption | intro _ | exact notMem_of hb rfl | apply resumeOp_keeps | apply resetAt_keeps | apply port_keeps | apply portDown_keeps | apply hostReaches_keeps | apply guarded_keeps | apply Keeps.ite | apply KeepsO.ite | apply KeepsO.next | split)

theorem noteWake_keeps {bl : Block} (at_ : Loc) {s0 s : State} (hc0 : Keeps bl s0 s)
    (hb : bl ∉ [.topo] := by exact notMem_of ‹_ ∉ _› rfl) : Keeps bl s0 (noteWake at_ s) := by
  unfold noteWake; try dsimp only
  repeat' (first | (with_reducible first | assumption | intro _ | exact notMem_of hb rfl | apply modHubPort_keeps | apply now_keeps | apply modPort_keeps | apply Keeps.ite | apply KeepsO.ite | apply KeepsO.next | split) | ((with_reducible refine Keeps.mk ?_ ?_) <;> [skip; (cases bl <;> first | exact absurd (by decide) hb | rfl)]))

theorem execRemoteWakeDetect_keeps {bl : Block} (at_ : Loc) {s0 s : State} (hc0 : Keeps bl s0 s)
    (hb : bl ∉ [.out, .front, .topo, .pwr] := by exact notMem_of ‹_ ∉ _› rfl) : KeepsO bl s0 (execRemoteWakeDetect at_ s) := by
  unfold execRemoteWakeDetect; try dsimp only
  repeat' (first | (with_reducible first | assumption | intro _ | exact notMem_of hb rfl | apply beginResume_keeps | apply mergeWake_keeps | apply wakeOf_keeps | apply noteWake_keeps | apply resumeOver_keeps | apply resumingAt_keeps | apply locPort_keeps | apply startWake_keeps | apply resetAt_keeps | apply suspendedAt_keeps | apply locExists_keeps | apply serves_keeps | apply guarded_keeps | apply Keeps.ite | apply KeepsO.ite | apply KeepsO.next | split) | ((with_reducible refine Keeps.mk ?_ ?_) <;> [skip; (cases bl <;> first | exact absurd (by decide) hb | rfl)]))

theorem execHostResumeEnd_keeps {bl : Block} (at_ : Loc) {s0 s : State} (hc0 : Keeps bl s0 s)
    (hb : bl ∉ [.out, .eic, .mail, .eng, .sch, .front, .dma, .tb, .topo, .fns] := by exact notMem_of ‹_ ∉ _› rfl) : KeepsO bl s0 (execHostResumeEnd at_ s) := by
  unfold execHostResumeEnd; try dsimp only
  repeat' (first | (with_reducible first | assumption | intro _ | exact notMem_of hb rfl | apply modHubPort_keeps | apply linkRecovery_keeps | apply port_keeps | apply modPort_keeps | apply resumeOver_keeps | apply resumingAt_keeps | apply locExists_keeps | apply serves_keeps | apply guarded_keeps | apply Keeps.ite | apply KeepsO.ite | apply KeepsO.next | split) | ((with_reducible refine Keeps.mk ?_ ?_) <;> [skip; (cases bl <;> first | exact absurd (by decide) hb | rfl)]))

theorem topoAnswer_keeps {bl : Block} (ctx : CmdCtx) (code : ℕ) (b : TopoBody) (res : ℕ) {s0 s : State} (hc0 : Keeps bl s0 s)
    (hb : bl ∉ [.out, .mail, .fns] := by exact notMem_of ‹_ ∉ _› rfl) : Keeps bl s0 (topoAnswer ctx code b res s) := by
  unfold topoAnswer; try dsimp only
  repeat' (with_reducible first | assumption | intro _ | exact notMem_of hb rfl | apply handle_keeps | apply port_keeps | apply topoReply_keeps | apply reply_keeps | apply Keeps.ite | apply KeepsO.ite | apply KeepsO.next | split)

theorem topoWaits_keeps {bl : Block} (ctx : CmdCtx) (code : ℕ) (b : TopoBody) (w : TopoWait) (reports : ℕ) {s0 s : State} (hc0 : Keeps bl s0 s)
    (hb : bl ∉ [.topo] := by exact notMem_of ‹_ ∉ _› rfl) : Keeps bl s0 (topoWaits ctx code b w reports s) := by
  unfold topoWaits; try dsimp only
  repeat' (first | (with_reducible first | assumption | intro _ | exact notMem_of hb rfl | apply handle_keeps | apply port_keeps | apply Keeps.ite | apply KeepsO.ite | apply KeepsO.next | split) | ((with_reducible refine Keeps.mk ?_ ?_) <;> [skip; (cases bl <;> first | exact absurd (by decide) hb | rfl)]))

theorem topoAt_keeps {bl : Block} (ctx : CmdCtx) (code : ℕ) (b : TopoBody) (f : Loc → State → State) {s0 s : State} (hf : ∀ v0 v1, Keeps bl s0 v1 → Keeps bl s0 (f v0 v1)) (hc0 : Keeps bl s0 s)
    (hb : bl ∉ [.out, .mail, .fns] := by exact notMem_of ‹_ ∉ _› rfl) : Keeps bl s0 (topoAt ctx code b f s) := by
  unfold topoAt; try dsimp only
  repeat' (with_reducible first | assumption | intro _ | exact notMem_of hb rfl | apply hf | apply bodyLoc_keeps | apply topoAnswer_keeps | apply chan_keeps | apply sender_keeps | apply begun_keeps | apply Keeps.ite | apply KeepsO.ite | apply KeepsO.next | split)

theorem topoPortResetOp_keeps {bl : Block} (ctx : CmdCtx) (b : TopoBody) {s0 a2 : State} (hc0 : Keeps bl s0 a2)
    (hb : bl ∉ [.out, .eic, .mail, .eng, .sch, .front, .dma, .tb, .topo, .fns] := by exact notMem_of ‹_ ∉ _› rfl) : Keeps bl s0 (topoPortResetOp ctx b a2) := by
  unfold topoPortResetOp; try dsimp only
  repeat' (with_reducible first | assumption | intro _ | exact notMem_of hb rfl | apply topoWaits_keeps | apply portResetOp_keeps | apply topoAnswer_keeps | apply port_keeps | apply portDown_keeps | apply codePortReset_keeps | apply topoAt_keeps | apply Keeps.ite | apply KeepsO.ite | apply KeepsO.next | split)

theorem topoDeviceResetOp_keeps {bl : Block} (ctx : CmdCtx) (b : TopoBody) {s0 s : State} (hc0 : Keeps bl s0 s)
    (hb : bl ∉ [.out, .mail, .eng, .sch, .front, .dma, .tb, .topo, .fns] := by exact notMem_of ‹_ ∉ _› rfl) : Keeps bl s0 (topoDeviceResetOp ctx b s) := by
  unfold topoDeviceResetOp; try dsimp only
  repeat' (with_reducible first | assumption | intro _ | exact notMem_of hb rfl | apply queueHub_keeps | apply startRootReset_keeps | apply dropRes_keeps | apply shutEps_keeps | apply stPortReset_keeps | apply endDevice_keeps | apply parkAborts_keeps | apply topoWaits_keeps | apply answerTopo_keeps | apply itemsOf_keeps | apply handleCurrent_keeps | apply topoAnswer_keeps | apply chan_keeps | apply sender_keeps | apply handle_keeps | apply codeDeviceReset_keeps | apply begun_keeps | apply Keeps.ite | apply KeepsO.ite | apply KeepsO.next | split)

theorem topoPortSuspendOp_keeps {bl : Block} (ctx : CmdCtx) (b : TopoBody) {s0 a2 : State} (hc0 : Keeps bl s0 a2)
    (hb : bl ∉ [.out, .eic, .mail, .eng, .sch, .front, .dma, .tb, .topo, .fns, .slots, .err, .pair] := by exact notMem_of ‹_ ∉ _› rfl) : Keeps bl s0 (topoPortSuspendOp ctx b a2) := by
  unfold topoPortSuspendOp; try dsimp only
  repeat' (with_reducible first | assumption | intro _ | exact notMem_of hb rfl | apply locPort_keeps | apply portEvent_keeps | apply suspendOp_keeps | apply suspendRefusal_keeps | apply topoAnswer_keeps | apply resumingAt_keeps | apply suspendedAt_keeps | apply codePortSuspend_keeps | apply topoAt_keeps | apply Keeps.ite | apply KeepsO.ite | apply KeepsO.next | split)

theorem topoPortResumeOp_keeps {bl : Block} (ctx : CmdCtx) (b : TopoBody) {s0 a2 : State} (hc0 : Keeps bl s0 a2)
    (hb : bl ∉ [.out, .mail, .front, .topo, .fns] := by exact notMem_of ‹_ ∉ _› rfl) : Keeps bl s0 (topoPortResumeOp ctx b a2) := by
  unfold topoPortResumeOp; try dsimp only
  repeat' (with_reducible first | assumption | intro _ | exact notMem_of hb rfl | apply topoWaits_keeps | apply resumeOp_keeps | apply resetAt_keeps | apply topoAnswer_keeps | apply suspendedAt_keeps | apply codePortResume_keeps | apply topoAt_keeps | apply Keeps.ite | apply KeepsO.ite | apply KeepsO.next | split)

theorem disableAt_keeps {bl : Block} (l : Loc) {s0 s : State} (hc0 : Keeps bl s0 s)
    (hb : bl ∉ [.out, .eic, .mail, .eng, .sch, .front, .dma, .tb, .topo, .fns] := by exact notMem_of ‹_ ∉ _› rfl) : Keeps bl s0 (disableAt l s) := by
  unfold disableAt; try dsimp only
  repeat' (first | (with_reducible first | assumption | intro _ | exact notMem_of hb rfl | apply stPortReset_keeps | apply hubPortGone_keeps | apply modHubPort_keeps | apply clearFeature_keeps | apply disablePort_keeps | apply modPort_keeps | apply Keeps.ite | apply KeepsO.ite | apply KeepsO.next | split) | ((with_reducible refine Keeps.mk ?_ ?_) <;> [skip; (cases bl <;> first | exact absurd (by decide) hb | rfl)]))

theorem topoPortDisableOp_keeps {bl : Block} (ctx : CmdCtx) (b : TopoBody) {s0 a2 : State} (hc0 : Keeps bl s0 a2)
    (hb : bl ∉ [.out, .eic, .mail, .eng, .sch, .front, .dma, .tb, .topo, .fns] := by exact notMem_of ‹_ ∉ _› rfl) : Keeps bl s0 (topoPortDisableOp ctx b a2) := by
  unfold topoPortDisableOp; try dsimp only
  repeat' (with_reducible first | assumption | intro _ | exact notMem_of hb rfl | apply topoWaits_keeps | apply topoAnswer_keeps | apply disableAt_keeps | apply codePortDisable_keeps | apply topoAt_keeps | apply Keeps.ite | apply KeepsO.ite | apply KeepsO.next | split)

theorem topoBindSlotOp_keeps {bl : Block} (ctx : CmdCtx) (b : TopoBody) {s0 s : State} (hc0 : Keeps bl s0 s)
    (hb : bl ∉ [.out, .mail, .topo, .fns] := by exact notMem_of ‹_ ∉ _› rfl) : Keeps bl s0 (topoBindSlotOp ctx b s) := by
  unfold topoBindSlotOp; try dsimp only
  repeat' (first | (with_reducible first | assumption | intro _ | exact notMem_of hb rfl | apply port_keeps | apply modHubPort_keeps | apply slot_keeps | apply bodyLoc_keeps | apply topoAnswer_keeps | apply chan_keeps | apply sender_keeps | apply codeBindSlot_keeps | apply begun_keeps | apply Keeps.ite | apply KeepsO.ite | apply KeepsO.next | split) | ((with_reducible refine Keeps.mk ?_ ?_) <;> [skip; (cases bl <;> first | exact absurd (by decide) hb | rfl)]))

theorem execTopoPortReset_keeps {bl : Block} (ctx : CmdCtx) (body : TopoBody) {s0 s : State} (hc0 : Keeps bl s0 s)
    (hb : bl ∉ [.out, .eic, .mail, .eng, .sch, .front, .dma, .tb, .topo, .fns] := by exact notMem_of ‹_ ∉ _› rfl) : KeepsO bl s0 (execTopoPortReset ctx body s) := by
  unfold execTopoPortReset; try dsimp only
  repeat' (with_reducible first | assumption | intro _ | exact notMem_of hb rfl | apply topoPortResetOp_keeps | apply serves_keeps | apply guarded_keeps | apply Keeps.ite | apply KeepsO.ite | apply KeepsO.next | split)

theorem execTopoDeviceReset_keeps {bl : Block} (ctx : CmdCtx) (body : TopoBody) {s0 s : State} (hc0 : Keeps bl s0 s)
    (hb : bl ∉ [.out, .mail, .eng, .sch, .front, .dma, .tb, .topo, .fns] := by exact notMem_of ‹_ ∉ _› rfl) : KeepsO bl s0 (execTopoDeviceReset ctx body s) := by
  unfold execTopoDeviceReset; try dsimp only
  repeat' (with_reducible first | assumption | intro _ | exact notMem_of hb rfl | apply topoDeviceResetOp_keeps | apply serves_keeps | apply guarded_keeps | apply Keeps.ite | apply KeepsO.ite | apply KeepsO.next | split)

theorem execTopoPortSuspend_keeps {bl : Block} (ctx : CmdCtx) (body : TopoBody) {s0 s : State} (hc0 : Keeps bl s0 s)
    (hb : bl ∉ [.out, .eic, .mail, .eng, .sch, .front, .dma, .tb, .topo, .fns, .slots, .err, .pair] := by exact notMem_of ‹_ ∉ _› rfl) : KeepsO bl s0 (execTopoPortSuspend ctx body s) := by
  unfold execTopoPortSuspend; try dsimp only
  repeat' (with_reducible first | assumption | intro _ | exact notMem_of hb rfl | apply topoPortSuspendOp_keeps | apply serves_keeps | apply guarded_keeps | apply Keeps.ite | apply KeepsO.ite | apply KeepsO.next | split)

theorem execTopoPortResume_keeps {bl : Block} (ctx : CmdCtx) (body : TopoBody) {s0 s : State} (hc0 : Keeps bl s0 s)
    (hb : bl ∉ [.out, .mail, .front, .topo, .fns] := by exact notMem_of ‹_ ∉ _› rfl) : KeepsO bl s0 (execTopoPortResume ctx body s) := by
  unfold execTopoPortResume; try dsimp only
  repeat' (with_reducible first | assumption | intro _ | exact notMem_of hb rfl | apply topoPortResumeOp_keeps | apply serves_keeps | apply guarded_keeps | apply Keeps.ite | apply KeepsO.ite | apply KeepsO.next | split)

theorem execTopoPortDisable_keeps {bl : Block} (ctx : CmdCtx) (body : TopoBody) {s0 s : State} (hc0 : Keeps bl s0 s)
    (hb : bl ∉ [.out, .eic, .mail, .eng, .sch, .front, .dma, .tb, .topo, .fns] := by exact notMem_of ‹_ ∉ _› rfl) : KeepsO bl s0 (execTopoPortDisable ctx body s) := by
  unfold execTopoPortDisable; try dsimp only
  repeat' (with_reducible first | assumption | intro _ | exact notMem_of hb rfl | apply topoPortDisableOp_keeps | apply serves_keeps | apply guarded_keeps | apply Keeps.ite | apply KeepsO.ite | apply KeepsO.next | split)

theorem execTopoBindSlot_keeps {bl : Block} (ctx : CmdCtx) (body : TopoBody) {s0 s : State} (hc0 : Keeps bl s0 s)
    (hb : bl ∉ [.out, .mail, .topo, .fns] := by exact notMem_of ‹_ ∉ _› rfl) : KeepsO bl s0 (execTopoBindSlot ctx body s) := by
  unfold execTopoBindSlot; try dsimp only
  repeat' (with_reducible first | assumption | intro _ | exact notMem_of hb rfl | apply topoBindSlotOp_keeps | apply serves_keeps | apply guarded_keeps | apply Keeps.ite | apply KeepsO.ite | apply KeepsO.next | split)

theorem raiseAx_keeps {bl : Block} (i : ℕ) (b : ℕ) {s0 s : State} (hc0 : Keeps bl s0 s)
    (hb : bl ∉ [.out, .eic, .fns] := by exact notMem_of ‹_ ∉ _› rfl) : Keeps bl s0 (raiseAx i b s) := by
  unfold raiseAx; try dsimp only
  repeat' (with_reducible first | assumption | intro _ | exact notMem_of hb rfl | apply raise_keeps | apply Keeps.ite | apply KeepsO.ite | apply KeepsO.next | split)

theorem loseLock_keeps {bl : Block} (next : Lock) {s0 s : State} (hc0 : Keeps bl s0 s)
    (hb : bl ∉ [.out, .eic, .tb, .fns] := by exact notMem_of ‹_ ∉ _› rfl) : Keeps bl s0 (loseLock next s) := by
  unfold loseLock; try dsimp only
  repeat' (first | (with_reducible first | assumption | intro _ | exact notMem_of hb rfl | apply raise_keeps | apply Keeps.ite | apply KeepsO.ite | apply KeepsO.next | split) | ((with_reducible refine Keeps.mk ?_ ?_) <;> [skip; (cases bl <;> first | exact absurd (by decide) hb | rfl)]))

theorem lockEval_keeps {bl : Block} (i : ℕ) (cycle : Bool) {s0 s : State} (hc0 : Keeps bl s0 s)
    (hb : bl ∉ [.out, .eic, .tb, .fns] := by exact notMem_of ‹_ ∉ _› rfl) : Keeps bl s0 (lockEval i cycle s) := by
  unfold lockEval; try dsimp only
  repeat' (first | (with_reducible first | assumption | intro _ | exact notMem_of hb rfl | apply raise_keeps | apply loseLock_keeps | apply axisOut_keeps | apply axisFast_keeps | apply axisLost_keeps | apply axis_keeps | apply Keeps.ite | apply KeepsO.ite | apply KeepsO.next | split) | ((with_reducible refine Keeps.mk ?_ ?_) <;> [skip; (cases bl <;> first | exact absurd (by decide) hb | rfl)]))

theorem lockPass_keeps {bl : Block} {s0 s : State} (hc0 : Keeps bl s0 s)
    (hb : bl ∉ [.out, .eic, .tb, .fns] := by exact notMem_of ‹_ ∉ _› rfl) : Keeps bl s0 (lockPass s) := by
  unfold lockPass; try dsimp only
  repeat' (first | (with_reducible first | assumption | intro _ | exact notMem_of hb rfl | apply lockEval_keeps | apply loseLock_keeps | apply raise_keeps | apply phaseError_keeps | apply Keeps.ite | apply KeepsO.ite | apply KeepsO.next | split) | ((with_reducible refine Keeps.mk ?_ ?_) <;> [skip; (cases bl <;> first | exact absurd (by decide) hb | rfl)]))

theorem execAxisLockPhasePass_keeps {bl : Block} {s0 s : State} (hc0 : Keeps bl s0 s)
    (hb : bl ∉ [.out, .eic, .tb, .fns] := by exact notMem_of ‹_ ∉ _› rfl) : KeepsO bl s0 (execAxisLockPhasePass s) := by
  unfold execAxisLockPhasePass; try dsimp only
  repeat' (with_reducible first | assumption | intro _ | exact notMem_of hb rfl | apply lockPass_keeps | apply lockPhaseHere_keeps | apply timebaseRuns_keeps | apply live_keeps | apply guarded_keeps | apply Keeps.ite | apply KeepsO.ite | apply KeepsO.next | split)

theorem unitDone_keeps {bl : Block} (c : ℕ) {s0 s : State} (hc0 : Keeps bl s0 s)
    (hb : bl ∉ [.tb] := by exact notMem_of ‹_ ∉ _› rfl) : Keeps bl s0 (unitDone c s) := by
  unfold unitDone; try dsimp only
  repeat' (first | (with_reducible first | assumption | intro _ | exact notMem_of hb rfl | apply actEvent_keeps | apply unitAction_keeps | apply modUnit_keeps | apply Keeps.ite | apply KeepsO.ite | apply KeepsO.next | split) | ((with_reducible refine Keeps.mk ?_ ?_) <;> [skip; (cases bl <;> first | exact absurd (by decide) hb | rfl)]))

theorem unitPend_keeps {bl : Block} (c : ℕ) {s0 s : State} (hc0 : Keeps bl s0 s)
    (hb : bl ∉ [.out, .eic, .fns] := by exact notMem_of ‹_ ∉ _› rfl) : Keeps bl s0 (unitPend c s) := by
  unfold unitPend; try dsimp only
  repeat' (with_reducible first | assumption | intro _ | exact notMem_of hb rfl | apply raise_keeps | apply actEvent_keeps | apply cmpUnit_keeps | apply unitAction_keeps | apply Keeps.ite | apply KeepsO.ite | apply KeepsO.next | split)

theorem unitMiss_keeps {bl : Block} (c : ℕ) {s0 s : State} (hc0 : Keeps bl s0 s)
    (hb : bl ∉ [.out, .eic, .mail, .sch, .front, .dma, .tb, .topo, .fns] := by exact notMem_of ‹_ ∉ _› rfl) : Keeps bl s0 (unitMiss c s) := by
  unfold unitMiss; try dsimp only
  repeat' (first | (with_reducible first | assumption | intro _ | exact notMem_of hb rfl | apply stMissed_keeps | apply finish_keeps | apply unitDone_keeps | apply modUnit_keeps | apply unitPend_keeps | apply cmpUnit_keeps | apply Keeps.ite | apply KeepsO.ite | apply KeepsO.next | split) | ((with_reducible refine Keeps.mk ?_ ?_) <;> [skip; (cases bl <;> first | exact absurd (by decide) hb | rfl)]))

theorem noteEval_keeps {bl : Block} (inside : Bool) (p : ℕ) (c : ℕ) {s0 s : State} (hc0 : Keeps bl s0 s)
    (hb : bl ∉ [.tb] := by exact notMem_of ‹_ ∉ _› rfl) : Keeps bl s0 (noteEval inside p c s) := by
  unfold noteEval; try dsimp only
  repeat' (first | (with_reducible first | assumption | intro _ | exact notMem_of hb rfl | apply now_keeps | apply modUnit_keeps | apply Keeps.ite | apply KeepsO.ite | apply KeepsO.next | split) | ((with_reducible refine Keeps.mk ?_ ?_) <;> [skip; (cases bl <;> first | exact absurd (by decide) hb | rfl)]))

theorem unitJump_keeps {bl : Block} (p : ℕ) (d : ℕ) (cyc : U16) (reverse : Bool) (c : ℕ) {s0 s : State} (hc0 : Keeps bl s0 s)
    (hb : bl ∉ [.out, .eic, .mail, .sch, .front, .dma, .tb, .topo, .fns] := by exact notMem_of ‹_ ∉ _› rfl) : Keeps bl s0 (unitJump p d cyc reverse c s) := by
  unfold unitJump; try dsimp only
  repeat' (with_reducible first | assumption | intro _ | exact notMem_of hb rfl | apply unitMiss_keeps | apply unitAny_keeps | apply carriedOver_keeps | apply watches_keeps | apply cmpUnit_keeps | apply Keeps.ite | apply KeepsO.ite | apply KeepsO.next | split)

theorem unitSettle_keeps {bl : Block} (i : ℕ) (c : ℕ) {s0 s : State} (hc0 : Keeps bl s0 s)
    (hb : bl ∉ [.out, .eic, .mail, .sch, .front, .dma, .tb, .topo, .fns] := by exact notMem_of ‹_ ∉ _› rfl) : Keeps bl s0 (unitSettle i c s) := by
  unfold unitSettle; try dsimp only
  repeat' (with_reducible first | assumption | intro _ | exact notMem_of hb rfl | apply cycleAt_keeps | apply unitJump_keeps | apply inWindow_keeps | apply noteEval_keeps | apply axInterp_keeps | apply cyclePos_keeps | apply now_keeps | apply posAt_keeps | apply cmpUnit_keeps | apply axis_keeps | apply Keeps.ite | apply KeepsO.ite | apply KeepsO.next | split)

theorem unitMoved_keeps {bl : Block} (p : ℕ) (q : ℕ) (d : ℕ) (cyc : U16) (reverse : Bool) (c : ℕ) {s0 s : State} (hc0 : Keeps bl s0 s)
    (hb : bl ∉ [.out, .eic, .mail, .sch, .front, .dma, .tb, .topo, .fns] := by exact notMem_of ‹_ ∉ _› rfl) : Keeps bl s0 (unitMoved p q d cyc reverse c s) := by
  unfold unitMoved; try dsimp only
  repeat' (with_reducible first | assumption | intro _ | exact notMem_of hb rfl | apply noteEval_keeps | apply unitJump_keeps | apply watches_keeps | apply inWindow_keeps | apply cmpUnit_keeps | apply Keeps.ite | apply KeepsO.ite | apply KeepsO.next | split)

theorem axisMoved_keeps {bl : Block} (i : ℕ) (p : ℕ) (d : ℕ) (cyc : U16) (reverse : Bool) {s0 s : State} (hc0 : Keeps bl s0 s)
    (hb : bl ∉ [.out, .eic, .mail, .sch, .front, .dma, .tb, .topo, .fns] := by exact notMem_of ‹_ ∉ _› rfl) : Keeps bl s0 (axisMoved i p d cyc reverse s) := by
  unfold axisMoved; try dsimp only
  repeat' (with_reducible first | assumption | intro _ | exact notMem_of hb rfl | apply axis_keeps | apply unitMoved_keeps | apply unitsOn_keeps | apply each_keeps | apply Keeps.ite | apply KeepsO.ite | apply KeepsO.next | split)

theorem stepCycle_keeps {bl : Block} (i : ℕ) (up : Bool) {s0 s : State} (hc0 : Keeps bl s0 s)
    (hb : bl ∉ [.out, .eic, .tb, .fns] := by exact notMem_of ‹_ ∉ _› rfl) : Keeps bl s0 (stepCycle i up s) := by
  unfold stepCycle; try dsimp only
  repeat' (first | (with_reducible first | assumption | intro _ | exact notMem_of hb rfl | apply raiseAx_keeps | apply modAxis_keeps | apply axis_keeps | apply Keeps.ite | apply KeepsO.ite | apply KeepsO.next | split) | ((with_reducible refine Keeps.mk ?_ ?_) <;> [skip; (cases bl <;> first | exact absurd (by decide) hb | rfl)]))

theorem startCycle_keeps {bl : Block} (i : ℕ) {s0 s : State} (hc0 : Keeps bl s0 s)
    (hb : bl ∉ [.out, .eic, .tb, .fns] := by exact notMem_of ‹_ ∉ _› rfl) : Keeps bl s0 (startCycle i s) := by
  unfold startCycle; try dsimp only
  repeat' (first | (with_reducible first | assumption | intro _ | exact notMem_of hb rfl | apply stepCycle_keeps | apply modAxis_keeps | apply now_keeps | apply Keeps.ite | apply KeepsO.ite | apply KeepsO.next | split) | ((with_reducible refine Keeps.mk ?_ ?_) <;> [skip; (cases bl <;> first | exact absurd (by decide) hb | rfl)]))

theorem timeEdge_keeps {bl : Block} (i : ℕ) (reverse : Bool) {s0 s : State} (hc0 : Keeps bl s0 s)
    (hb : bl ∉ [.tb] := by exact notMem_of ‹_ ∉ _› rfl) : Keeps bl s0 (timeEdge i reverse s) := by
  unfold timeEdge; try dsimp only
  repeat' (first | (with_reducible first | assumption | intro _ | exact notMem_of hb rfl | apply modAxis_keeps | apply now_keeps | apply Keeps.ite | apply KeepsO.ite | apply KeepsO.next | split) | ((with_reducible refine Keeps.mk ?_ ?_) <;> [skip; (cases bl <;> first | exact absurd (by decide) hb | rfl)]))

theorem countForward_keeps {bl : Block} (i : ℕ) {s0 s : State} (hc0 : Keeps bl s0 s)
    (hb : bl ∉ [.out, .eic, .tb, .fns] := by exact notMem_of ‹_ ∉ _› rfl) : Keeps bl s0 (countForward i s) := by
  unfold countForward; try dsimp only
  repeat' (first | (with_reducible first | assumption | intro _ | exact notMem_of hb rfl | apply startCycle_keeps | apply modAxis_keeps | apply axCpc_keeps | apply timeEdge_keeps | apply axis_keeps | apply Keeps.ite | apply KeepsO.ite | apply KeepsO.next | split) | ((with_reducible refine Keeps.mk ?_ ?_) <;> [skip; (cases bl <;> first | exact absurd (by decide) hb | rfl)]))

theorem countReverse_keeps {bl : Block} (i : ℕ) {s0 s : State} (hc0 : Keeps bl s0 s)
    (hb : bl ∉ [.out, .eic, .tb, .fns] := by exact notMem_of ‹_ ∉ _› rfl) : Keeps bl s0 (countReverse i s) := by
  unfold countReverse; try dsimp only
  repeat' (first | (with_reducible first | assumption | intro _ | exact notMem_of hb rfl | apply axCpc_keeps | apply stepCycle_keeps | apply raiseAx_keeps | apply timeEdge_keeps | apply modAxis_keeps | apply axis_keeps | apply Keeps.ite | apply KeepsO.ite | apply KeepsO.next | split) | ((with_reducible refine Keeps.mk ?_ ?_) <;> [skip; (cases bl <;> first | exact absurd (by decide) hb | rfl)]))

theorem withMove_keeps {bl : Block} (i : ℕ) (reverse : Bool) (f : State → State) {s0 s : State} (hf : ∀ v0, Keeps bl s0 v0 → Keeps bl s0 (f v0)) (hc0 : Keeps bl s0 s)
    (hb : bl ∉ [.out, .eic, .mail, .sch, .front, .dma, .tb, .topo, .fns] := by exact notMem_of ‹_ ∉ _› rfl) : Keeps bl s0 (withMove i reverse f s) := by
  unfold withMove; try dsimp only
  repeat' (first | (with_reducible first | assumption | intro _ | exact notMem_of hb rfl | apply hf | apply travel_keeps | apply axisMoved_keeps | apply lockEval_keeps | apply modAxis_keeps | apply posOf_keeps | apply axMode_keeps | apply cycleAt_keeps | apply now_keeps | apply posAt_keeps | apply axis_keeps | apply unitSettle_keeps | apply unitsOn_keeps | apply each_keeps | apply Keeps.ite | apply KeepsO.ite | apply KeepsO.next | split) | ((with_reducible refine Keeps.mk ?_ ?_) <;> [skip; (cases bl <;> first | exact absurd (by decide) hb | rfl)]))

theorem countEdge_keeps {bl : Block} (i : ℕ) (a : Bool) (b : Bool) {s0 s : State} (hc0 : Keeps bl s0 s)
    (hb : bl ∉ [.out, .eic, .mail, .sch, .front, .dma, .tb, .topo, .fns] := by exact notMem_of ‹_ ∉ _› rfl) : Keeps bl s0 (countEdge i a b s) := by
  unfold countEdge; try dsimp only
  repeat' (first | (with_reducible first | assumption | intro _ | exact notMem_of hb rfl | apply timeEdge_keeps | apply startCycle_keeps | apply countReverse_keeps | apply countForward_keeps | apply withMove_keeps | apply quadForward_keeps | apply modAxis_keeps | apply raiseAx_keeps | apply now_keeps | apply tooSoon_keeps | apply axMode_keeps | apply axis_keeps | apply Keeps.ite | apply KeepsO.ite | apply KeepsO.next | split) | ((with_reducible refine Keeps.mk ?_ ?_) <;> [skip; (cases bl <;> first | exact absurd (by decide) hb | rfl)]))

theorem execAxisCountEdge_keeps {bl : Block} (i : Fin 4) (a : Bool) (b : Bool) {s0 s : State} (hc0 : Keeps bl s0 s)
    (hb : bl ∉ [.out, .eic, .mail, .sch, .front, .dma, .tb, .topo, .fns] := by exact notMem_of ‹_ ∉ _› rfl) : KeepsO bl s0 (execAxisCountEdge i a b s) := by
  unfold execAxisCountEdge; try dsimp only
  repeat' (with_reducible first | assumption | intro _ | exact notMem_of hb rfl | apply countEdge_keeps | apply timebaseRuns_keeps | apply live_keeps | apply guarded_keeps | apply Keeps.ite | apply KeepsO.ite | apply KeepsO.next | split)

theorem indexEdge_keeps {bl : Block} (i : ℕ) {s0 s : State} (hc0 : Keeps bl s0 s)
    (hb : bl ∉ [.out, .eic, .mail, .sch, .front, .dma, .tb, .topo, .fns] := by exact notMem_of ‹_ ∉ _› rfl) : Keeps bl s0 (indexEdge i s) := by
  unfold indexEdge; try dsimp only
  repeat' (first | (with_reducible first | assumption | intro _ | exact notMem_of hb rfl | apply startCycle_keeps | apply modAxis_keeps | apply withMove_keeps | apply raiseAx_keeps | apply axCpc_keeps | apply axZsync_keeps | apply axMode_keeps | apply axis_keeps | apply Keeps.ite | apply KeepsO.ite | apply KeepsO.next | split) | ((with_reducible refine Keeps.mk ?_ ?_) <;> [skip; (cases bl <;> first | exact absurd (by decide) hb | rfl)]))

theorem execAxisIndexEdge_keeps {bl : Block} (i : Fin 4) {s0 s : State} (hc0 : Keeps bl s0 s)
    (hb : bl ∉ [.out, .eic, .mail, .sch, .front, .dma, .tb, .topo, .fns] := by exact notMem_of ‹_ ∉ _› rfl) : KeepsO bl s0 (execAxisIndexEdge i s) := by
  unfold execAxisIndexEdge; try dsimp only
  repeat' (with_reducible first | assumption | intro _ | exact notMem_of hb rfl | apply indexEdge_keeps | apply timebaseRuns_keeps | apply live_keeps | apply guarded_keeps | apply Keeps.ite | apply KeepsO.ite | apply KeepsO.next | split)

theorem execAxisStall_keeps {bl : Block} (i : Fin 4) {s0 s : State} (hc0 : Keeps bl s0 s)
    (hb : bl ∉ [.out, .eic, .mail, .sch, .front, .dma, .tb, .topo, .fns] := by exact notMem_of ‹_ ∉ _› rfl) : KeepsO bl s0 (execAxisStall i s) := by
  unfold execAxisStall; try dsimp only
  repeat' (first | (with_reducible first | assumption | intro _ | exact notMem_of hb rfl | apply raiseAx_keeps | apply lockEval_keeps | apply posAt_keeps | apply modAxis_keeps | apply unitSettle_keeps | apply unitsOn_keeps | apply each_keeps | apply now_keeps | apply axStallTo_keeps | apply axis_keeps | apply axMode_keeps | apply timebaseRuns_keeps | apply live_keeps | apply guarded_keeps | apply Keeps.ite | apply KeepsO.ite | apply KeepsO.next | split) | ((with_reducible refine Keeps.mk ?_ ?_) <;> [skip; (cases bl <;> first | exact absurd (by decide) hb | rfl)]))

theorem cpcWrite_keeps {bl : Block} (i : ℕ) (v : U32) {s0 s : State} (hc0 : Keeps bl s0 s)
    (hb : bl ∉ [.out, .eic, .mail, .sch, .front, .dma, .tb, .topo, .fns] := by exact notMem_of ‹_ ∉ _› rfl) : Keeps bl s0 (cpcWrite i v s) := by
  unfold cpcWrite; try dsimp only
  repeat' (first | (with_reducible first | assumption | intro _ | exact notMem_of hb rfl | apply axisMoved_keeps | apply lockEval_keeps | apply cyclePos_keeps | apply posOf_keeps | apply modAxis_keeps | apply axMode_keeps | apply axCpc_keeps | apply now_keeps | apply posAt_keeps | apply axis_keeps | apply unitSettle_keeps | apply unitsOn_keeps | apply each_keeps | apply Keeps.ite | apply KeepsO.ite | apply KeepsO.next | split) | ((with_reducible refine Keeps.mk ?_ ?_) <;> [skip; (cases bl <;> first | exact absurd (by decide) hb | rfl)]))

theorem execAxCpcWrite_keeps {bl : Block} (i : Fin 4) (value : U32) {s0 s : State} (hc0 : Keeps bl s0 s)
    (hb : bl ∉ [.out, .eic, .mail, .sch, .front, .dma, .tb, .topo, .fns] := by exact notMem_of ‹_ ∉ _› rfl) : KeepsO bl s0 (execAxCpcWrite i value s) := by
  unfold execAxCpcWrite; try dsimp only
  repeat' (with_reducible first | assumption | intro _ | exact notMem_of hb rfl | apply cpcWrite_keeps | apply hostReaches_keeps | apply guarded_keeps | apply Keeps.ite | apply KeepsO.ite | apply KeepsO.next | split)

theorem axCfgWrite_keeps {bl : Block} (i : ℕ) (v : U32) {s0 s : State} (hc0 : Keeps bl s0 s)
    (hb : bl ∉ [.out, .eic, .tb, .fns] := by exact notMem_of ‹_ ∉ _› rfl) : Keeps bl s0 (axCfgWrite i v s) := by
  unfold axCfgWrite; try dsimp only
  repeat' (first | (with_reducible first | assumption | intro _ | exact notMem_of hb rfl | apply lockEval_keeps | apply posAt_keeps | apply axMode_keeps | apply axZsync_keeps | apply modAxis_keeps | apply now_keeps | apply Keeps.ite | apply KeepsO.ite | apply KeepsO.next | split) | ((with_reducible refine Keeps.mk ?_ ?_) <;> [skip; (cases bl <;> first | exact absurd (by decide) hb | rfl)]))

theorem unitFire_keeps {bl : Block} (c : ℕ) {s0 s : State} (hc0 : Keeps bl s0 s)
    (hb : bl ∉ [.out, .eic, .mail, .eng, .sch, .front, .dma, .tb, .topo, .fns] := by exact notMem_of ‹_ ∉ _› rfl) : Keeps bl s0 (unitFire c s) := by
  unfold unitFire; try dsimp only
  repeat' (first | (with_reducible first | assumption | intro _ | exact notMem_of hb rfl | apply floatServe_keeps | apply tfind_keeps | apply tput_keeps | apply unitDone_keeps | apply port_keeps | apply tget_keeps | apply insertFired_keeps | apply firedAt_keeps | apply modItem_keeps | apply modUnit_keeps | apply axis_keeps | apply posAt_keeps | apply noteEval_keeps | apply unitPend_keeps | apply now_keeps | apply cmpUnit_keeps | apply Keeps.ite | apply KeepsO.ite | apply KeepsO.next | split) | ((with_reducible refine Keeps.mk ?_ ?_) <;> [skip; (cases bl <;> first | exact absurd (by decide) hb | rfl)]))

theorem execCompareFire_keeps {bl : Block} (c : Fin 256) {s0 s : State} (hc0 : Keeps bl s0 s)
    (hb : bl ∉ [.out, .eic, .mail, .eng, .sch, .front, .dma, .tb, .topo, .fns] := by exact notMem_of ‹_ ∉ _› rfl) : KeepsO bl s0 (execCompareFire c s) := by
  unfold execCompareFire; try dsimp only
  repeat' (with_reducible first | assumption | intro _ | exact notMem_of hb rfl | apply unitFire_keeps | apply fires_keeps | apply timebaseRuns_keeps | apply live_keeps | apply guarded_keeps | apply Keeps.ite | apply KeepsO.ite | apply KeepsO.next | split)

theorem armNext_keeps {bl : Block} (c : ℕ) {s0 s : State} (hc0 : Keeps bl s0 s)
    (hb : bl ∉ [.mail, .sch, .front, .dma, .tb, .topo] := by exact notMem_of ‹_ ∉ _› rfl) : Keeps bl s0 (armNext c s) := by
  unfold armNext; try dsimp only
  repeat' (first | (with_reducible first | assumption | intro _ | exact notMem_of hb rfl | apply posAt_keeps | apply inWindow_keeps | apply modItem_keeps | apply stMissedLead_keeps | apply finish_keeps | apply winOf_keeps | apply now_keeps | apply cyclePassed_keeps | apply axis_keeps | apply modUnit_keeps | apply cmpUnit_keeps | apply Keeps.ite | apply KeepsO.ite | apply KeepsO.next | split) | ((with_reducible refine Keeps.mk ?_ ?_) <;> [skip; (cases bl <;> first | exact absurd (by decide) hb | rfl)]))

theorem execCompareArmNext_keeps {bl : Block} (c : Fin 256) {s0 s : State} (hc0 : Keeps bl s0 s)
    (hb : bl ∉ [.mail, .sch, .front, .dma, .tb, .topo] := by exact notMem_of ‹_ ∉ _› rfl) : KeepsO bl s0 (execCompareArmNext c s) := by
  unfold execCompareArmNext; try dsimp only
  repeat' (with_reducible first | assumption | intro _ | exact notMem_of hb rfl | apply armNext_keeps | apply actBind_keeps | apply cmpUnit_keeps | apply unitAction_keeps | apply live_keeps | apply guarded_keeps | apply Keeps.ite | apply KeepsO.ite | apply KeepsO.next | split)

theorem cmpCfgWrite_keeps {bl : Block} (v : U32) {s0 s : State} (hc0 : Keeps bl s0 s)
    (hb : bl ∉ [.out, .mail, .sch, .front, .dma, .tb, .topo] := by exact notMem_of ‹_ ∉ _› rfl) : Keeps bl s0 (cmpCfgWrite v s) := by
  unfold cmpCfgWrite; try dsimp only
  repeat' (first | (with_reducible first | assumption | intro _ | exact notMem_of hb rfl | apply armEvent_keeps | apply actEvent_keeps | apply stAbortedReset_keeps | apply finish_keeps | apply each_keeps | apply actBind_keeps | apply unitAction_keeps | apply modUnit_keeps | apply port_keeps | apply axis_keeps | apply cmpUnit_keeps | apply Keeps.ite | apply KeepsO.ite | apply KeepsO.next | split) | ((with_reducible refine Keeps.mk ?_ ?_) <;> [skip; (cases bl <;> first | exact absurd (by decide) hb | rfl)]))

theorem execTbCmpCfgWrite_keeps {bl : Block} (value : U32) {s0 s : State} (hc0 : Keeps bl s0 s)
    (hb : bl ∉ [.out, .mail, .sch, .front, .dma, .tb, .topo] := by exact notMem_of ‹_ ∉ _› rfl) : KeepsO bl s0 (execTbCmpCfgWrite value s) := by
  unfold execTbCmpCfgWrite; try dsimp only
  repeat' (with_reducible first | assumption | intro _ | exact notMem_of hb rfl | apply cmpCfgWrite_keeps | apply hostReaches_keeps | apply guarded_keeps | apply Keeps.ite | apply KeepsO.ite | apply KeepsO.next | split)

theorem cmpTargetWrite_keeps {bl : Block} (v : U64) {s0 s : State} (hc0 : Keeps bl s0 s)
    (hb : bl ∉ [.tb] := by exact notMem_of ‹_ ∉ _› rfl) : Keeps bl s0 (cmpTargetWrite v s) := by
  unfold cmpTargetWrite; try dsimp only
  repeat' (first | (with_reducible first | assumption | intro _ | exact notMem_of hb rfl | apply armEvent_keeps | apply actEvent_keeps | apply modUnit_keeps | apply actBind_keeps | apply unitAction_keeps | apply cmpUnit_keeps | apply Keeps.ite | apply KeepsO.ite | apply KeepsO.next | split) | ((with_reducible refine Keeps.mk ?_ ?_) <;> [skip; (cases bl <;> first | exact absurd (by decide) hb | rfl)]))

theorem execTbCmpTargetWrite_keeps {bl : Block} (value : U64) {s0 s : State} (hc0 : Keeps bl s0 s)
    (hb : bl ∉ [.tb] := by exact notMem_of ‹_ ∉ _› rfl) : KeepsO bl s0 (execTbCmpTargetWrite value s) := by
  unfold execTbCmpTargetWrite; try dsimp only
  repeat' (with_reducible first | assumption | intro _ | exact notMem_of hb rfl | apply cmpTargetWrite_keeps | apply hostReaches_keeps | apply guarded_keeps | apply Keeps.ite | apply KeepsO.ite | apply KeepsO.next | split)

theorem execTbFreeLenWrite_keeps {bl : Block} (value : U32) {s0 s : State} (hc0 : Keeps bl s0 s)
    (hb : bl ∉ [.tb] := by exact notMem_of ‹_ ∉ _› rfl) : KeepsO bl s0 (execTbFreeLenWrite value s) := by
  unfold execTbFreeLenWrite; try dsimp only
  repeat' (first | (with_reducible first | assumption | intro _ | exact notMem_of hb rfl | apply bandLen_keeps | apply hostReaches_keeps | apply guarded_keeps | apply Keeps.ite | apply KeepsO.ite | apply KeepsO.next | split) | ((with_reducible refine Keeps.mk ?_ ?_) <;> [skip; (cases bl <;> first | exact absurd (by decide) hb | rfl)]))

theorem execPtmStart_keeps {bl : Block} {s0 s : State} (hc0 : Keeps bl s0 s)
    (hb : bl ∉ [.tb] := by exact notMem_of ‹_ ∉ _› rfl) : KeepsO bl s0 (execPtmStart s) := by
  unfold execPtmStart; try dsimp only
  repeat' (first | (with_reducible first | assumption | intro _ | exact notMem_of hb rfl | apply timebaseRuns_keeps | apply serves_keeps | apply guarded_keeps | apply Keeps.ite | apply KeepsO.ite | apply KeepsO.next | split) | ((with_reducible refine Keeps.mk ?_ ?_) <;> [skip; (cases bl <;> first | exact absurd (by decide) hb | rfl)]))

theorem execPtmResponse_keeps {bl : Block} (master : U64) {s0 s : State} (hc0 : Keeps bl s0 s)
    (hb : bl ∉ [.out, .eic, .tb, .fns] := by exact notMem_of ‹_ ∉ _› rfl) : KeepsO bl s0 (execPtmResponse master s) := by
  unfold execPtmResponse; try dsimp only
  repeat' (first | (with_reducible first | assumption | intro _ | exact notMem_of hb rfl | apply epochReg_keeps | apply raise_keeps | apply live_keeps | apply guarded_keeps | apply Keeps.ite | apply KeepsO.ite | apply KeepsO.next | split) | ((with_reducible refine Keeps.mk ?_ ?_) <;> [skip; (cases bl <;> first | exact absurd (by decide) hb | rfl)]))

theorem execPtmTimeout_keeps {bl : Block} {s0 s : State} (hc0 : Keeps bl s0 s)
    (hb : bl ∉ [.out, .eic, .tb, .fns] := by exact notMem_of ‹_ ∉ _› rfl) : KeepsO bl s0 (execPtmTimeout s) := by
  unfold execPtmTimeout; try dsimp only
  repeat' (first | (with_reducible first | assumption | intro _ | exact notMem_of hb rfl | apply raise_keeps | apply live_keeps | apply guarded_keeps | apply Keeps.ite | apply KeepsO.ite | apply KeepsO.next | split) | ((with_reducible refine Keeps.mk ?_ ?_) <;> [skip; (cases bl <;> first | exact absurd (by decide) hb | rfl)]))

theorem execEpochLowRead_keeps {bl : Block} (r : LatchReg) {s0 s : State} (hc0 : Keeps bl s0 s)
    (hb : bl ∉ [.tb] := by exact notMem_of ‹_ ∉ _› rfl) : KeepsO bl s0 (execEpochLowRead r s) := by
  unfold execEpochLowRead; try dsimp only
  repeat' (first | (with_reducible first | assumption | intro _ | exact notMem_of hb rfl | apply latchValue_keeps | apply latchKey_keeps | apply tput_keeps | apply live_keeps | apply guarded_keeps | apply Keeps.ite | apply KeepsO.ite | apply KeepsO.next | split) | ((with_reducible refine Keeps.mk ?_ ?_) <;> [skip; (cases bl <;> first | exact absurd (by decide) hb | rfl)]))

theorem execEpochLatchExpiry_keeps {bl : Block} (r : LatchReg) {s0 s : State} (hc0 : Keeps bl s0 s)
    (hb : bl ∉ [.tb] := by exact notMem_of ‹_ ∉ _› rfl) : KeepsO bl s0 (execEpochLatchExpiry r s) := by
  unfold execEpochLatchExpiry; try dsimp only
  repeat' (first | (with_reducible first | assumption | intro _ | exact notMem_of hb rfl | apply latchKey_keeps | apply tdel_keeps | apply live_keeps | apply guarded_keeps | apply Keeps.ite | apply KeepsO.ite | apply KeepsO.next | split) | ((with_reducible refine Keeps.mk ?_ ?_) <;> [skip; (cases bl <;> first | exact absurd (by decide) hb | rfl)]))

theorem takeMode_keeps {bl : Block} {s0 s : State} (hc0 : Keeps bl s0 s)
    (hb : bl ∉ [.out, .eic, .tb, .fns] := by exact notMem_of ‹_ ∉ _› rfl) : Keeps bl s0 (takeMode s) := by
  unfold takeMode; try dsimp only
  repeat' (first | (with_reducible first | assumption | intro _ | exact notMem_of hb rfl | apply lockEval_keeps | apply loseLock_keeps | apply toAlwaysOn_keeps | apply Keeps.ite | apply KeepsO.ite | apply KeepsO.next | split) | ((with_reducible refine Keeps.mk ?_ ?_) <;> [skip; (cases bl <;> first | exact absurd (by decide) hb | rfl)]))

theorem loopLen_keeps {bl : Block} {s0 s : State} (hc0 : Keeps bl s0 s)
    (hb : bl ∉ [.free] := by exact notMem_of ‹_ ∉ _› rfl) : Keeps bl s0 (loopLen s).2 := by
  unfold loopLen; try dsimp only
  repeat' (first | (with_reducible first | assumption | intro _ | exact notMem_of hb rfl | apply axis_keeps | apply freshIndex_keeps | apply Keeps.ite | apply KeepsO.ite | apply KeepsO.next | split) | (dsimp only))

theorem targetLen_keeps {bl : Block} {s0 s : State} (hc0 : Keeps bl s0 s)
    (hb : bl ∉ [.free] := by exact notMem_of ‹_ ∉ _› rfl) : Keeps bl s0 (targetLen s).2 := by
  unfold targetLen
  split
  · exact hc0
  · split
    · exact hc0
    · split
      · exact hc0
      · exact hc0
      · exact freshIndex_keeps hc0

theorem countFrame_keeps {bl : Block} {s0 s : State} (hc0 : Keeps bl s0 s)
    (hb : bl ∉ [.tb] := by exact notMem_of ‹_ ∉ _› rfl) : Keeps bl s0 (countFrame s) := by
  unfold countFrame; try dsimp only
  repeat' (first | (with_reducible first | assumption | intro _ | exact notMem_of hb rfl | apply alwaysOnLen_keeps | apply now_keeps | apply Keeps.ite | apply KeepsO.ite | apply KeepsO.next | split) | ((with_reducible refine Keeps.mk ?_ ?_) <;> [skip; (cases bl <;> first | exact absurd (by decide) hb | rfl)]))

theorem beginFrame_keeps {bl : Block} {s0 s : State} (hc0 : Keeps bl s0 s)
    (hb : bl ∉ [.out, .free, .eic, .tb, .fns] := by exact notMem_of ‹_ ∉ _› rfl) : Keeps bl s0 (beginFrame s) := by
  unfold beginFrame; try dsimp only
  repeat' (first | (with_reducible first | assumption | intro _ | exact notMem_of hb rfl | apply slew_keeps | apply targetLen_keeps | apply countFrame_keeps | apply takeMode_keeps | apply Keeps.ite | apply KeepsO.ite | apply KeepsO.next | split) | ((with_reducible refine Keeps.mk ?_ ?_) <;> [skip; (cases bl <;> first | exact absurd (by decide) hb | rfl)]))

theorem boundarySof_keeps {bl : Block} (u : ℕ) (p : ℕ) {s0 s : State} (hc0 : Keeps bl s0 s)
    (hb : bl ∉ [.out, .eic, .mail, .eng, .sch, .front, .dma, .tb, .topo, .fns] := by exact notMem_of ‹_ ∉ _› rfl) : Keeps bl s0 (boundarySof u p s) := by
  unfold boundarySof; try dsimp only
  repeat' (first | (with_reducible first | assumption | intro _ | exact notMem_of hb rfl | apply Hdr0_keeps | apply send_keeps | apply sendSof_keeps | apply modPort_keeps | apply serdes_keeps | apply babble_keeps | apply stillSending_keeps | apply port_keeps | apply genCode_keeps | apply sofPort_keeps | apply Keeps.ite | apply KeepsO.ite | apply KeepsO.next | split) | ((with_reducible refine Keeps.mk ?_ ?_) <;> [skip; (cases bl <;> first | exact absurd (by decide) hb | rfl)]))

theorem resumeEvent_keeps {bl : Block} (at_ : Loc) (byDevice : Bool) (coincident : Bool) {s0 s : State} (hc0 : Keeps bl s0 s)
    (hb : bl ∉ [.out, .eic, .mail, .topo, .fns] := by exact notMem_of ‹_ ∉ _› rfl) : Keeps bl s0 (resumeEvent at_ byDevice coincident s) := by
  unfold resumeEvent; try dsimp only
  repeat' (with_reducible first | assumption | intro _ | exact notMem_of hb rfl | apply answerTopo_keeps | apply locPath_keeps | apply port_keeps | apply addReport_keeps | apply raisePort_keeps | apply locPort_keeps | apply Keeps.ite | apply KeepsO.ite | apply KeepsO.next | split)

theorem admitHubs_keeps {bl : Block} (p : ℕ) {s0 s : State} (hc0 : Keeps bl s0 s)
    (hb : bl ∉ [.free, .sch, .topo] := by exact notMem_of ‹_ ∉ _› rfl) : Keeps bl s0 (admitHubs p s) := by
  unfold admitHubs; try dsimp only
  repeat' (with_reducible first | assumption | intro _ | exact notMem_of hb rfl | apply startPolling_keeps | apply handle_keeps | apply charged_keeps | apply handleWord_keeps | apply handleCurrent_keeps | apply port_keeps | apply each_keeps | apply Keeps.ite | apply KeepsO.ite | apply KeepsO.next | refine admitStatus_keeps (by assumption) ?_ | split)

theorem endResume_keeps {bl : Block} (at_ : Loc) {s0 s : State} (hc0 : Keeps bl s0 s)
    (hb : bl ∉ [.out, .free, .eic, .mail, .sch, .front, .topo, .fns] := by exact notMem_of ‹_ ∉ _› rfl) : Keeps bl s0 (endResume at_ s) := by
  unfold endResume; try dsimp only
  repeat' (first | (with_reducible first | assumption | intro _ | exact notMem_of hb rfl | apply modHubPort_keeps | apply hubPort_keeps | apply admitHubs_keeps | apply beginResume_keeps | apply resumeEvent_keeps | apply modPort_keeps | apply serdes_keeps | apply port_keeps | apply wakeOf_keeps | apply resumeOver_keeps | apply resumingAt_keeps | apply Keeps.ite | apply KeepsO.ite | apply KeepsO.next | split) | ((with_reducible refine Keeps.mk ?_ ?_) <;> [skip; (cases bl <;> first | exact absurd (by decide) hb | rfl)]))

theorem ptmAutoStart_keeps {bl : Block} {s0 s : State} (hc0 : Keeps bl s0 s)
    (hb : bl ∉ [.tb] := by exact notMem_of ‹_ ∉ _› rfl) : Keeps bl s0 (ptmAutoStart s) := by
  unfold ptmAutoStart; try dsimp only
  repeat' (first | (with_reducible first | assumption | intro _ | exact notMem_of hb rfl | apply Keeps.ite | apply KeepsO.ite | apply KeepsO.next | split) | ((with_reducible refine Keeps.mk ?_ ?_) <;> [skip; (cases bl <;> first | exact absurd (by decide) hb | rfl)]))

theorem sendTime_keeps {bl : Block} {s0 s : State} (hc0 : Keeps bl s0 s)
    (hb : bl ∉ [.out, .pair] := by exact notMem_of ‹_ ∉ _› rfl) : Keeps bl s0 (sendTime s) := by
  unfold sendTime; try dsimp only
  repeat' (with_reducible first | assumption | intro _ | exact notMem_of hb rfl | apply now_keeps | apply lockCode_keeps | apply xbkSendOnce_keeps | apply isActive_keeps | apply Keeps.ite | apply KeepsO.ite | apply KeepsO.next | split)

theorem frameBoundary_keeps {bl : Block} {s0 s : State} (hc0 : Keeps bl s0 s)
    (hb : bl ∉ [.out, .free, .eic, .mail, .eng, .sch, .front, .dma, .tb, .topo, .fns, .slots, .pair, .pwr] := by exact notMem_of ‹_ ∉ _› rfl) : Keeps bl s0 (frameBoundary s) := by
  unfold frameBoundary; try dsimp only
  repeat' (first | (with_reducible first | assumption | intro _ | exact notMem_of hb rfl | apply ptmAutoStart_keeps | apply sendTime_keeps | apply sweepHandles_keeps | apply boundarySof_keeps | apply endResume_keeps | apply resumePlaces_keeps | apply each_keeps | apply serves_keeps | apply swapIfPending_keeps | apply enterYielded_keeps | apply yieldDue_keeps | apply beginFrame_keeps | apply Keeps.ite | apply KeepsO.ite | apply KeepsO.next | split) | ((with_reducible refine Keeps.mk ?_ ?_) <;> [skip; (cases bl <;> first | exact absurd (by decide) hb | rfl)]))

theorem execFrameBoundary_keeps {bl : Block} {s0 s : State} (hc0 : Keeps bl s0 s)
    (hb : bl ∉ [.out, .free, .eic, .mail, .eng, .sch, .front, .dma, .tb, .topo, .fns, .slots, .pair, .pwr] := by exact notMem_of ‹_ ∉ _› rfl) : KeepsO bl s0 (execFrameBoundary s) := by
  unfold execFrameBoundary; try dsimp only
  repeat' (with_reducible first | assumption | intro _ | exact notMem_of hb rfl | apply countFrame_keeps | apply frameBoundary_keeps | apply holding_keeps | apply live_keeps | apply guarded_keeps | apply Keeps.ite | apply KeepsO.ite | apply KeepsO.next | split)

theorem beginUframe_keeps {bl : Block} (u : ℕ) {s0 s : State} (hc0 : Keeps bl s0 s)
    (hb : bl ∉ [.tb] := by exact notMem_of ‹_ ∉ _› rfl) : Keeps bl s0 (beginUframe u s) := by
  unfold beginUframe; try dsimp only
  repeat' (first | (with_reducible first | assumption | intro _ | exact notMem_of hb rfl | apply now_keeps | apply Keeps.ite | apply KeepsO.ite | apply KeepsO.next | split) | ((with_reducible refine Keeps.mk ?_ ?_) <;> [skip; (cases bl <;> first | exact absurd (by decide) hb | rfl)]))

theorem judgeIdle_keeps {bl : Block} {s0 s : State} (hc0 : Keeps bl s0 s)
    (hb : bl ∉ [.sch] := by exact notMem_of ‹_ ∉ _› rfl) : Keeps bl s0 (judgeIdle s) := by
  unfold judgeIdle; try dsimp only
  repeat' (first | (with_reducible first | assumption | intro _ | exact notMem_of hb rfl | apply modPstate_keeps | apply isService_keeps | apply live_keeps | apply each_keeps | apply absUframe_keeps | apply Keeps.ite | apply KeepsO.ite | apply KeepsO.next | split) | ((with_reducible refine Keeps.mk ?_ ?_) <;> [skip; (cases bl <;> first | exact absurd (by decide) hb | rfl)]))

theorem offWalks_keeps {bl : Block} (r : ℕ) {s0 s : State} (hc0 : Keeps bl s0 s)
    (hb : bl ∉ [.eng] := by exact notMem_of ‹_ ∉ _› rfl) : Keeps bl s0 (offWalks r s) := by
  unfold offWalks; try dsimp only
  repeat' (first | (with_reducible first | assumption | intro _ | exact notMem_of hb rfl | apply eng_keeps | apply Keeps.ite | apply KeepsO.ite | apply KeepsO.next | split) | ((with_reducible refine Keeps.mk ?_ ?_) <;> [skip; (cases bl <;> first | exact absurd (by decide) hb | rfl)]))

theorem dropService_keeps {bl : Block} (r : ℕ) (st : Byte) {s0 s : State} (hc0 : Keeps bl s0 s)
    (hb : bl ∉ [.mail, .eng, .sch, .front, .dma, .tb, .topo] := by exact notMem_of ‹_ ∉ _› rfl) : Keeps bl s0 (dropService r st s) := by
  unfold dropService; try dsimp only
  repeat' (with_reducible first | assumption | intro _ | exact notMem_of hb rfl | apply finish_keeps | apply boundItem_keeps | apply offWalks_keeps | apply Keeps.ite | apply KeepsO.ite | apply KeepsO.next | split)

theorem skipStart_keeps {bl : Block} (r : ℕ) (g : Rung) (st : Byte) {s0 s : State} (hc0 : Keeps bl s0 s)
    (hb : bl ∉ [.mail, .eng, .sch, .front, .dma, .tb, .topo] := by exact notMem_of ‹_ ∉ _› rfl) : Keeps bl s0 (skipStart r g st s) := by
  unfold skipStart; try dsimp only
  repeat' (with_reducible first | assumption | intro _ | exact notMem_of hb rfl | apply finish_keeps | apply absUframe_keeps | apply slot_keeps | apply dropService_keeps | apply Keeps.ite | apply KeepsO.ite | apply KeepsO.next | split)

theorem deferEvent_keeps {bl : Block} (r : ℕ) {s0 s : State} (hc0 : Keeps bl s0 s)
    (hb : bl ∉ [.mail, .eng, .sch, .front] := by exact notMem_of ‹_ ∉ _› rfl) : Keeps bl s0 (deferEvent r s) := by
  unfold deferEvent; try dsimp only
  repeat' (with_reducible first | assumption | intro _ | exact notMem_of hb rfl | apply rebindEvent_keeps | apply boundItem_keeps | apply offWalks_keeps | apply Keeps.ite | apply KeepsO.ite | apply KeepsO.next | split)

theorem beginService_keeps {bl : Block} (r : ℕ) (g : Rung) {s0 s : State} (hc0 : Keeps bl s0 s)
    (hb : bl ∉ [.out, .eic, .mail, .eng, .sch, .front, .dma, .tb, .topo, .fns] := by exact notMem_of ‹_ ∉ _› rfl) : Keeps bl s0 (beginService r g s) := by
  unfold beginService; try dsimp only
  repeat' (first | (with_reducible first | assumption | intro _ | exact notMem_of hb rfl | apply raise_keeps | apply halfBusy_keeps | apply stAbortedReset_keeps | apply eng_keeps | apply stMissed_keeps | apply deferEvent_keeps | apply serdes_keeps | apply stStall_keeps | apply resHalted_keeps | apply stDeviceGone_keeps | apply stPortReset_keeps | apply skipStart_keeps | apply modPstate_keeps | apply port_keeps | apply absUframe_keeps | apply Keeps.ite | apply KeepsO.ite | apply KeepsO.next | split) | ((with_reducible refine Keeps.mk ?_ ?_) <;> [skip; (cases bl <;> first | exact absurd (by decide) hb | rfl)]))

theorem refloat_keeps {bl : Block} (r : ℕ) (p : ℕ) {s0 s : State} (hc0 : Keeps bl s0 s)
    (hb : bl ∉ [.eng, .sch, .front] := by exact notMem_of ‹_ ∉ _› rfl) : Keeps bl s0 (refloat r p s) := by
  unfold refloat; try dsimp only
  repeat' (first | (with_reducible first | assumption | intro _ | exact notMem_of hb rfl | apply tget_keeps | apply tput_keeps | apply modItem_keeps | apply offWalks_keeps | apply boundItem_keeps | apply Keeps.ite | apply KeepsO.ite | apply KeepsO.next | split) | ((with_reducible refine Keeps.mk ?_ ?_) <;> [skip; (cases bl <;> first | exact absurd (by decide) hb | rfl)]))

theorem unreached_keeps {bl : Block} (r : ℕ) {s0 s : State} (hc0 : Keeps bl s0 s)
    (hb : bl ∉ [.mail, .eng, .sch, .front, .dma, .tb, .topo] := by exact notMem_of ‹_ ∉ _› rfl) : Keeps bl s0 (unreached r s) := by
  unfold unreached; try dsimp only
  repeat' (with_reducible first | assumption | intro _ | exact notMem_of hb rfl | apply stMissed_keeps | apply dropService_keeps | apply port_keeps | apply refloat_keeps | apply rungOf_keeps | apply Keeps.ite | apply KeepsO.ite | apply KeepsO.next | split)

theorem endPeriodic_keeps {bl : Block} (e : ℕ) {s0 s : State} (hc0 : Keeps bl s0 s)
    (hb : bl ∉ [.mail, .eng, .sch, .front, .dma, .tb, .topo] := by exact notMem_of ‹_ ∉ _› rfl) : Keeps bl s0 (endPeriodic e s) := by
  unfold endPeriodic; try dsimp only
  repeat' (first | (with_reducible first | assumption | intro _ | exact notMem_of hb rfl | apply modEng_keeps | apply postItem_keeps | apply boundTo_keeps | apply unreached_keeps | apply goesOn_keeps | apply each_keeps | apply eng_keeps | apply Keeps.ite | apply KeepsO.ite | apply KeepsO.next | split) | ((with_reducible refine Keeps.mk ?_ ?_) <;> [skip; (cases bl <;> first | exact absurd (by decide) hb | rfl)]))

theorem engineBoundary_keeps {bl : Block} (e : ℕ) {s0 s : State} (hc0 : Keeps bl s0 s)
    (hb : bl ∉ [.mail, .eng, .sch, .front, .dma, .tb, .topo] := by exact notMem_of ‹_ ∉ _› rfl) : Keeps bl s0 (engineBoundary e s) := by
  unfold engineBoundary; try dsimp only
  repeat' (first | (with_reducible first | assumption | intro _ | exact notMem_of hb rfl | apply modEng_keeps | apply nextWork_keeps | apply walkOf_keeps | apply modPstate_keeps | apply each_keeps | apply dueDones_keeps | apply endPeriodic_keeps | apply suspendDispatch_keeps | apply absUframe_keeps | apply eng_keeps | apply Keeps.ite | apply KeepsO.ite | apply KeepsO.next | split) | ((with_reducible refine Keeps.mk ?_ ?_) <;> [skip; (cases bl <;> first | exact absurd (by decide) hb | rfl)]))

theorem openWindows_keeps {bl : Block} {s0 s : State} (hc0 : Keeps bl s0 s)
    (hb : bl ∉ [.topo] := by exact notMem_of ‹_ ∉ _› rfl) : Keeps bl s0 (openWindows s) := by
  unfold openWindows; try dsimp only
  repeat' (first | (with_reducible first | assumption | intro _ | exact notMem_of hb rfl | apply modPort_keeps | apply each_keeps | apply genCode_keeps | apply port_keeps | apply rungOf_keeps | apply eng_keeps | apply Keeps.ite | apply KeepsO.ite | apply KeepsO.next | split) | ((with_reducible refine Keeps.mk ?_ ?_) <;> [skip; (cases bl <;> first | exact absurd (by decide) hb | rfl)]))

theorem beginSweep_keeps {bl : Block} {s0 s : State} (hc0 : Keeps bl s0 s)
    (hb : bl ∉ [.out, .front] := by exact notMem_of ‹_ ∉ _› rfl) : Keeps bl s0 (beginSweep s) := by
  unfold beginSweep; try dsimp only
  repeat' (first | (with_reducible first | assumption | intro _ | exact notMem_of hb rfl | apply fn_keeps | apply emit_keeps | apply each_keeps | apply absUframe_keeps | apply blocksOf_keeps | apply Keeps.ite | apply KeepsO.ite | apply KeepsO.next | split) | ((with_reducible refine Keeps.mk ?_ ?_) <;> [skip; (cases bl <;> first | exact absurd (by decide) hb | rfl)]))

theorem beat_keeps {bl : Block} (u : ℕ) {s0 s : State} (hc0 : Keeps bl s0 s)
    (hb : bl ∉ [.out, .pair] := by exact notMem_of ‹_ ∉ _› rfl) : Keeps bl s0 (beat u s) := by
  unfold beat; try dsimp only
  repeat' (first | (with_reducible first | assumption | intro _ | exact notMem_of hb rfl | apply emit_keeps | apply pairCode_keeps | apply xbkSendOnce_keeps | apply Keeps.ite | apply KeepsO.ite | apply KeepsO.next | split) | ((with_reducible refine Keeps.mk ?_ ?_) <;> [skip; (cases bl <;> first | exact absurd (by decide) hb | rfl)]))

theorem newUnits_keeps {bl : Block} (u : ℕ) {s0 s : State} (hc0 : Keeps bl s0 s)
    (hb : bl ∉ [.front] := by exact notMem_of ‹_ ∉ _› rfl) : Keeps bl s0 (newUnits u s) := by
  unfold newUnits; try dsimp only
  repeat' (first | (with_reducible first | assumption | intro _ | exact notMem_of hb rfl | apply port_keeps | apply genCode_keeps | apply Keeps.ite | apply KeepsO.ite | apply KeepsO.next | split) | ((with_reducible refine Keeps.mk ?_ ?_) <;> [skip; (cases bl <;> first | exact absurd (by decide) hb | rfl)]))

theorem microframe_keeps {bl : Block} (u : ℕ) {s0 s : State} (hc0 : Keeps bl s0 s)
    (hb : bl ∉ [.out, .eic, .mail, .eng, .sch, .front, .dma, .tb, .topo, .fns, .pair] := by exact notMem_of ‹_ ∉ _› rfl) : Keeps bl s0 (microframe u s) := by
  unfold microframe; try dsimp only
  repeat' (with_reducible first | assumption | intro _ | exact notMem_of hb rfl | apply beat_keeps | apply runLane_keeps | apply port_keeps | apply openWindows_keeps | apply beginSweep_keeps | apply beginService_keeps | apply isService_keeps | apply live_keeps | apply absUframe_keeps | apply dropLeft_keeps | apply engineBoundary_keeps | apply boundarySof_keeps | apply each_keeps | apply serves_keeps | apply judgeIdle_keeps | apply sendHandover_keeps | apply handoverDue_keeps | apply beginUframe_keeps | apply newUnits_keeps | apply Keeps.ite | apply KeepsO.ite | apply KeepsO.next | split)

theorem execMicroframeBoundary_keeps {bl : Block} (u : Fin 8) {s0 s : State} (hc0 : Keeps bl s0 s)
    (hb : bl ∉ [.out, .eic, .mail, .eng, .sch, .front, .dma, .tb, .topo, .fns, .pair] := by exact notMem_of ‹_ ∉ _› rfl) : KeepsO bl s0 (execMicroframeBoundary u s) := by
  unfold execMicroframeBoundary; try dsimp only
  repeat' (with_reducible first | assumption | intro _ | exact notMem_of hb rfl | apply beginUframe_keeps | apply microframe_keeps | apply timebaseRuns_keeps | apply holding_keeps | apply live_keeps | apply guarded_keeps | apply Keeps.ite | apply KeepsO.ite | apply KeepsO.next | split)

theorem aluOp_keeps {bl : Block} (e : EngId) (rd : Fin 16) (f : Thread → Byte × Flags) {s0 s : State} (hc0 : Keeps bl s0 s)
    (hb : bl ∉ [.out, .eic, .mail, .eng, .sch, .front, .dma, .tb, .topo, .fns, .slots, .err, .pair] := by exact notMem_of ‹_ ∉ _› rfl) : KeepsO bl s0 (aluOp e rd f s) := by
  unfold aluOp; try dsimp only
  repeat' (with_reducible first | assumption | intro _ | exact notMem_of hb rfl | apply setFlags_keeps | apply setB_keeps | apply advance_keeps | apply setRun_keeps | apply instruction_keeps | apply Keeps.ite | apply KeepsO.ite | apply KeepsO.next | split)

theorem freeBit_keeps {bl : Block} {s0 s : State} (hc0 : Keeps bl s0 s)
    (hb : bl ∉ [.free] := by exact notMem_of ‹_ ∉ _› rfl) : Keeps bl s0 (freeBit s).2 := freshIndex_keeps hc0

theorem shiftOp_keeps {bl : Block} (e : EngId) (rd : Fin 16) (n : Fin 8) (f : Byte → ℕ → Bool → Byte × Flags) {s0 s : State} (hc0 : Keeps bl s0 s)
    (hb : bl ∉ [.out, .free, .eic, .mail, .eng, .sch, .front, .dma, .tb, .topo, .fns, .slots, .err, .pair] := by exact notMem_of ‹_ ∉ _› rfl) : KeepsO bl s0 (shiftOp e rd n f s) := by
  unfold shiftOp; try dsimp only
  repeat' (with_reducible first | assumption | intro _ | exact notMem_of hb rfl | apply setFlags_keeps | apply setB_keeps | apply advance_keeps | apply setRun_keeps | apply breg_keeps | apply freeBit_keeps | apply instruction_keeps | apply Keeps.ite | apply KeepsO.ite | apply KeepsO.next | split)

theorem execNop_keeps {bl : Block} (e : EngId) {s0 s : State} (hc0 : Keeps bl s0 s)
    (hb : bl ∉ [.out, .eic, .mail, .eng, .sch, .front, .dma, .tb, .topo, .fns, .slots, .err, .pair] := by exact notMem_of ‹_ ∉ _› rfl) : KeepsO bl s0 (execNop e s) := by
  unfold execNop; try dsimp only
  repeat' (with_reducible first | assumption | intro _ | exact notMem_of hb rfl | apply advance_keeps | apply setRun_keeps | apply instruction_keeps | apply Keeps.ite | apply KeepsO.ite | apply KeepsO.next | split)

theorem execMov_keeps {bl : Block} (e : EngId) (rd : Fin 16) (rs : Fin 16) {s0 s : State} (hc0 : Keeps bl s0 s)
    (hb : bl ∉ [.out, .eic, .mail, .eng, .sch, .front, .dma, .tb, .topo, .fns, .slots, .err, .pair] := by exact notMem_of ‹_ ∉ _› rfl) : KeepsO bl s0 (execMov e rd rs s) := by
  unfold execMov; try dsimp only
  repeat' (with_reducible first | assumption | intro _ | exact notMem_of hb rfl | apply breg_keeps | apply setB_keeps | apply advance_keeps | apply setRun_keeps | apply instruction_keeps | apply Keeps.ite | apply KeepsO.ite | apply KeepsO.next | split)

theorem execMovi_keeps {bl : Block} (e : EngId) (rd : Fin 16) (imm : Byte) {s0 s : State} (hc0 : Keeps bl s0 s)
    (hb : bl ∉ [.out, .eic, .mail, .eng, .sch, .front, .dma, .tb, .topo, .fns, .slots, .err, .pair] := by exact notMem_of ‹_ ∉ _› rfl) : KeepsO bl s0 (execMovi e rd imm s) := by
  unfold execMovi; try dsimp only
  repeat' (with_reducible first | assumption | intro _ | exact notMem_of hb rfl | apply setB_keeps | apply advance_keeps | apply setRun_keeps | apply instruction_keeps | apply Keeps.ite | apply KeepsO.ite | apply KeepsO.next | split)

theorem execAdd_keeps {bl : Block} (e : EngId) (rd : Fin 16) (rs : Fin 16) {s0 s : State} (hc0 : Keeps bl s0 s)
    (hb : bl ∉ [.out, .eic, .mail, .eng, .sch, .front, .dma, .tb, .topo, .fns, .slots, .err, .pair] := by exact notMem_of ‹_ ∉ _› rfl) : KeepsO bl s0 (execAdd e rd rs s) := by
  unfold execAdd; try dsimp only
  repeat' (with_reducible first | assumption | intro _ | exact notMem_of hb rfl | apply breg_keeps | apply addFlags_keeps | apply aluOp_keeps | apply Keeps.ite | apply KeepsO.ite | apply KeepsO.next | split)

theorem execAddi_keeps {bl : Block} (e : EngId) (rd : Fin 16) (imm : Byte) {s0 s : State} (hc0 : Keeps bl s0 s)
    (hb : bl ∉ [.out, .eic, .mail, .eng, .sch, .front, .dma, .tb, .topo, .fns, .slots, .err, .pair] := by exact notMem_of ‹_ ∉ _› rfl) : KeepsO bl s0 (execAddi e rd imm s) := by
  unfold execAddi; try dsimp only
  repeat' (with_reducible first | assumption | intro _ | exact notMem_of hb rfl | apply breg_keeps | apply addFlags_keeps | apply aluOp_keeps | apply Keeps.ite | apply KeepsO.ite | apply KeepsO.next | split)

theorem execAdc_keeps {bl : Block} (e : EngId) (rd : Fin 16) (rs : Fin 16) {s0 s : State} (hc0 : Keeps bl s0 s)
    (hb : bl ∉ [.out, .eic, .mail, .eng, .sch, .front, .dma, .tb, .topo, .fns, .slots, .err, .pair] := by exact notMem_of ‹_ ∉ _› rfl) : KeepsO bl s0 (execAdc e rd rs s) := by
  unfold execAdc; try dsimp only
  repeat' (with_reducible first | assumption | intro _ | exact notMem_of hb rfl | apply breg_keeps | apply addFlags_keeps | apply aluOp_keeps | apply Keeps.ite | apply KeepsO.ite | apply KeepsO.next | split)

theorem execSub_keeps {bl : Block} (e : EngId) (rd : Fin 16) (rs : Fin 16) {s0 s : State} (hc0 : Keeps bl s0 s)
    (hb : bl ∉ [.out, .eic, .mail, .eng, .sch, .front, .dma, .tb, .topo, .fns, .slots, .err, .pair] := by exact notMem_of ‹_ ∉ _› rfl) : KeepsO bl s0 (execSub e rd rs s) := by
  unfold execSub; try dsimp only
  repeat' (with_reducible first | assumption | intro _ | exact notMem_of hb rfl | apply breg_keeps | apply subFlags_keeps | apply aluOp_keeps | apply Keeps.ite | apply KeepsO.ite | apply KeepsO.next | split)

theorem execSubi_keeps {bl : Block} (e : EngId) (rd : Fin 16) (imm : Byte) {s0 s : State} (hc0 : Keeps bl s0 s)
    (hb : bl ∉ [.out, .eic, .mail, .eng, .sch, .front, .dma, .tb, .topo, .fns, .slots, .err, .pair] := by exact notMem_of ‹_ ∉ _› rfl) : KeepsO bl s0 (execSubi e rd imm s) := by
  unfold execSubi; try dsimp only
  repeat' (with_reducible first | assumption | intro _ | exact notMem_of hb rfl | apply breg_keeps | apply subFlags_keeps | apply aluOp_keeps | apply Keeps.ite | apply KeepsO.ite | apply KeepsO.next | split)

theorem execAndi_keeps {bl : Block} (e : EngId) (rd : Fin 16) (imm : Byte) {s0 s : State} (hc0 : Keeps bl s0 s)
    (hb : bl ∉ [.out, .eic, .mail, .eng, .sch, .front, .dma, .tb, .topo, .fns, .slots, .err, .pair] := by exact notMem_of ‹_ ∉ _› rfl) : KeepsO bl s0 (execAndi e rd imm s) := by
  unfold execAndi; try dsimp only
  repeat' (with_reducible first | assumption | intro _ | exact notMem_of hb rfl | apply breg_keeps | apply logicFlags_keeps | apply aluOp_keeps | apply Keeps.ite | apply KeepsO.ite | apply KeepsO.next | split)

theorem execAnd_keeps {bl : Block} (e : EngId) (rd : Fin 16) (rs : Fin 16) {s0 s : State} (hc0 : Keeps bl s0 s)
    (hb : bl ∉ [.out, .eic, .mail, .eng, .sch, .front, .dma, .tb, .topo, .fns, .slots, .err, .pair] := by exact notMem_of ‹_ ∉ _› rfl) : KeepsO bl s0 (execAnd e rd rs s) := by
  unfold execAnd; try dsimp only
  repeat' (with_reducible first | assumption | intro _ | exact notMem_of hb rfl | apply breg_keeps | apply logicFlags_keeps | apply aluOp_keeps | apply Keeps.ite | apply KeepsO.ite | apply KeepsO.next | split)

theorem execOr_keeps {bl : Block} (e : EngId) (rd : Fin 16) (rs : Fin 16) {s0 s : State} (hc0 : Keeps bl s0 s)
    (hb : bl ∉ [.out, .eic, .mail, .eng, .sch, .front, .dma, .tb, .topo, .fns, .slots, .err, .pair] := by exact notMem_of ‹_ ∉ _› rfl) : KeepsO bl s0 (execOr e rd rs s) := by
  unfold execOr; try dsimp only
  repeat' (with_reducible first | assumption | intro _ | exact notMem_of hb rfl | apply breg_keeps | apply logicFlags_keeps | apply aluOp_keeps | apply Keeps.ite | apply KeepsO.ite | apply KeepsO.next | split)

theorem execOri_keeps {bl : Block} (e : EngId) (rd : Fin 16) (imm : Byte) {s0 s : State} (hc0 : Keeps bl s0 s)
    (hb : bl ∉ [.out, .eic, .mail, .eng, .sch, .front, .dma, .tb, .topo, .fns, .slots, .err, .pair] := by exact notMem_of ‹_ ∉ _› rfl) : KeepsO bl s0 (execOri e rd imm s) := by
  unfold execOri; try dsimp only
  repeat' (with_reducible first | assumption | intro _ | exact notMem_of hb rfl | apply breg_keeps | apply logicFlags_keeps | apply aluOp_keeps | apply Keeps.ite | apply KeepsO.ite | apply KeepsO.next | split)

theorem execXor_keeps {bl : Block} (e : EngId) (rd : Fin 16) (rs : Fin 16) {s0 s : State} (hc0 : Keeps bl s0 s)
    (hb : bl ∉ [.out, .eic, .mail, .eng, .sch, .front, .dma, .tb, .topo, .fns, .slots, .err, .pair] := by exact notMem_of ‹_ ∉ _› rfl) : KeepsO bl s0 (execXor e rd rs s) := by
  unfold execXor; try dsimp only
  repeat' (with_reducible first | assumption | intro _ | exact notMem_of hb rfl | apply breg_keeps | apply logicFlags_keeps | apply aluOp_keeps | apply Keeps.ite | apply KeepsO.ite | apply KeepsO.next | split)

theorem execXori_keeps {bl : Block} (e : EngId) (rd : Fin 16) (imm : Byte) {s0 s : State} (hc0 : Keeps bl s0 s)
    (hb : bl ∉ [.out, .eic, .mail, .eng, .sch, .front, .dma, .tb, .topo, .fns, .slots, .err, .pair] := by exact notMem_of ‹_ ∉ _› rfl) : KeepsO bl s0 (execXori e rd imm s) := by
  unfold execXori; try dsimp only
  repeat' (with_reducible first | assumption | intro _ | exact notMem_of hb rfl | apply breg_keeps | apply logicFlags_keeps | apply aluOp_keeps | apply Keeps.ite | apply KeepsO.ite | apply KeepsO.next | split)

theorem execShl_keeps {bl : Block} (e : EngId) (rd : Fin 16) (n : Fin 8) {s0 s : State} (hc0 : Keeps bl s0 s)
    (hb : bl ∉ [.out, .free, .eic, .mail, .eng, .sch, .front, .dma, .tb, .topo, .fns, .slots, .err, .pair] := by exact notMem_of ‹_ ∉ _› rfl) : KeepsO bl s0 (execShl e rd n s) := by
  unfold execShl; try dsimp only
  repeat' (with_reducible first | assumption | intro _ | exact notMem_of hb rfl | apply shlFlags_keeps | apply shiftOp_keeps | apply Keeps.ite | apply KeepsO.ite | apply KeepsO.next | split)

theorem execShr_keeps {bl : Block} (e : EngId) (rd : Fin 16) (n : Fin 8) {s0 s : State} (hc0 : Keeps bl s0 s)
    (hb : bl ∉ [.out, .free, .eic, .mail, .eng, .sch, .front, .dma, .tb, .topo, .fns, .slots, .err, .pair] := by exact notMem_of ‹_ ∉ _› rfl) : KeepsO bl s0 (execShr e rd n s) := by
  unfold execShr; try dsimp only
  repeat' (with_reducible first | assumption | intro _ | exact notMem_of hb rfl | apply shrFlags_keeps | apply shiftOp_keeps | apply Keeps.ite | apply KeepsO.ite | apply KeepsO.next | split)

theorem execCmp_keeps {bl : Block} (e : EngId) (rd : Fin 16) (rs : Fin 16) {s0 s : State} (hc0 : Keeps bl s0 s)
    (hb : bl ∉ [.out, .eic, .mail, .eng, .sch, .front, .dma, .tb, .topo, .fns, .slots, .err, .pair] := by exact notMem_of ‹_ ∉ _› rfl) : KeepsO bl s0 (execCmp e rd rs s) := by
  unfold execCmp; try dsimp only
  repeat' (with_reducible first | assumption | intro _ | exact notMem_of hb rfl | apply breg_keeps | apply subFlags_keeps | apply setFlags_keeps | apply advance_keeps | apply setRun_keeps | apply instruction_keeps | apply Keeps.ite | apply KeepsO.ite | apply KeepsO.next | split)

theorem execCmpi_keeps {bl : Block} (e : EngId) (rd : Fin 16) (imm : Byte) {s0 s : State} (hc0 : Keeps bl s0 s)
    (hb : bl ∉ [.out, .eic, .mail, .eng, .sch, .front, .dma, .tb, .topo, .fns, .slots, .err, .pair] := by exact notMem_of ‹_ ∉ _› rfl) : KeepsO bl s0 (execCmpi e rd imm s) := by
  unfold execCmpi; try dsimp only
  repeat' (with_reducible first | assumption | intro _ | exact notMem_of hb rfl | apply breg_keeps | apply subFlags_keeps | apply setFlags_keeps | apply advance_keeps | apply setRun_keeps | apply instruction_keeps | apply Keeps.ite | apply KeepsO.ite | apply KeepsO.next | split)

theorem storeOwn_keeps {bl : Block} (e : ℕ) (i : ℕ) (v : Byte) (t : Thread) {s0 s : State} (hc0 : Keeps bl s0 s)
    (hb : bl ∉ [.eng, .sch, .topo] := by exact notMem_of ‹_ ∉ _› rfl) : Keeps bl s0 (storeOwn e i v t s) := by
  unfold storeOwn; try dsimp only
  repeat' (first | (with_reducible first | assumption | intro _ | exact notMem_of hb rfl | apply workCtx_keeps | apply modCtx_keeps | apply mread_keeps | apply mwrite_keeps | apply mget_keeps | apply modPstate_keeps | apply advance_keeps | apply setRun_keeps | apply windowOf_keeps | apply mput_keeps | apply Keeps.ite | apply KeepsO.ite | apply KeepsO.next | split) | ((with_reducible refine Keeps.mk ?_ ?_) <;> [skip; (cases bl <;> first | exact absurd (by decide) hb | rfl)]))

theorem scriptStore_keeps {bl : Block} (e : ℕ) (a : ℕ) (v : Byte) (t : Thread) {s0 s : State} (hc0 : Keeps bl s0 s)
    (hb : bl ∉ [.out, .eic, .mail, .eng, .sch, .front, .dma, .tb, .topo, .fns] := by exact notMem_of ‹_ ∉ _› rfl) : Keeps bl s0 (scriptStore e a v t s) := by
  unfold scriptStore; try dsimp only
  repeat' (first | (with_reducible first | assumption | intro _ | exact notMem_of hb rfl | apply mread_keeps | apply mget_keeps | apply setCtx_keeps | apply ctxBytes_keeps | apply mwrite_keeps | apply workCtx_keeps | apply isServiceWork_keeps | apply tfind_keeps | apply siblingCtx_keeps | apply scriptStop_keeps | apply storeOwn_keeps | apply scriptMay_keeps | apply advance_keeps | apply setRun_keeps | apply mput_keeps | apply modEng_keeps | apply Keeps.ite | apply KeepsO.ite | apply KeepsO.next | split) | ((with_reducible refine Keeps.mk ?_ ?_) <;> [skip; (cases bl <;> first | exact absurd (by decide) hb | rfl)]))

theorem coreStore_keeps {bl : Block} (e : ℕ) (a : ℕ) (v : Byte) (t : Thread) {s0 s : State} (hc0 : Keeps bl s0 s)
    (hb : bl ∉ [.out, .eic, .mail, .eng, .sch, .front, .dma, .tb, .topo, .fns, .slots, .err, .pair] := by exact notMem_of ‹_ ∉ _› rfl) : Keeps bl s0 (coreStore e a v t s) := by
  unfold coreStore; try dsimp only
  repeat' (first | (with_reducible first | assumption | intro _ | exact notMem_of hb rfl | apply engineFault_keeps | apply windowOf_keeps | apply advance_keeps | apply setRun_keeps | apply mput_keeps | apply modEng_keeps | apply Keeps.ite | apply KeepsO.ite | apply KeepsO.next | split) | ((with_reducible refine Keeps.mk ?_ ?_) <;> [skip; (cases bl <;> first | exact absurd (by decide) hb | rfl)]))

theorem execLdb_keeps {bl : Block} (e : EngId) (r : Fin 16) (p : Fin 4) (offset : BitVec 12) {s0 s : State} (hc0 : Keeps bl s0 s)
    (hb : bl ∉ [.out, .eic, .mail, .eng, .sch, .front, .dma, .tb, .topo, .fns, .slots, .err, .pair] := by exact notMem_of ‹_ ∉ _› rfl) : KeepsO bl s0 (execLdb e r p offset s) := by
  unfold execLdb; try dsimp only
  repeat' (with_reducible first | assumption | intro _ | exact notMem_of hb rfl | apply engineFault_keeps | apply coreLoad_keeps | apply scriptStop_keeps | apply setB_keeps | apply advance_keeps | apply setRun_keeps | apply scriptLoad_keeps | apply effAddr_keeps | apply instruction_keeps | apply Keeps.ite | apply KeepsO.ite | apply KeepsO.next | split)

theorem execStb_keeps {bl : Block} (e : EngId) (r : Fin 16) (p : Fin 4) (offset : BitVec 12) {s0 s : State} (hc0 : Keeps bl s0 s)
    (hb : bl ∉ [.out, .eic, .mail, .eng, .sch, .front, .dma, .tb, .topo, .fns, .slots, .err, .pair] := by exact notMem_of ‹_ ∉ _› rfl) : KeepsO bl s0 (execStb e r p offset s) := by
  unfold execStb; try dsimp only
  repeat' (with_reducible first | assumption | intro _ | exact notMem_of hb rfl | apply coreStore_keeps | apply breg_keeps | apply scriptStore_keeps | apply effAddr_keeps | apply instruction_keeps | apply Keeps.ite | apply KeepsO.ite | apply KeepsO.next | split)

theorem execLdp_keeps {bl : Block} (e : EngId) (p : Fin 4) (imm : BitVec 24) {s0 s : State} (hc0 : Keeps bl s0 s)
    (hb : bl ∉ [.out, .eic, .mail, .eng, .sch, .front, .dma, .tb, .topo, .fns, .slots, .err, .pair] := by exact notMem_of ‹_ ∉ _› rfl) : KeepsO bl s0 (execLdp e p imm s) := by
  unfold execLdp; try dsimp only
  repeat' (with_reducible first | assumption | intro _ | exact notMem_of hb rfl | apply setP_keeps | apply advance_keeps | apply setRun_keeps | apply instruction_keeps | apply Keeps.ite | apply KeepsO.ite | apply KeepsO.next | split)

theorem execAddp_keeps {bl : Block} (e : EngId) (p : Fin 4) (rs : Fin 16) {s0 s : State} (hc0 : Keeps bl s0 s)
    (hb : bl ∉ [.out, .eic, .mail, .eng, .sch, .front, .dma, .tb, .topo, .fns, .slots, .err, .pair] := by exact notMem_of ‹_ ∉ _› rfl) : KeepsO bl s0 (execAddp e p rs s) := by
  unfold execAddp; try dsimp only
  repeat' (with_reducible first | assumption | intro _ | exact notMem_of hb rfl | apply breg_keeps | apply preg_keeps | apply setP_keeps | apply advance_keeps | apply setRun_keeps | apply instruction_keeps | apply Keeps.ite | apply KeepsO.ite | apply KeepsO.next | split)

theorem execAddpi_keeps {bl : Block} (e : EngId) (p : Fin 4) (imm : U16) {s0 s : State} (hc0 : Keeps bl s0 s)
    (hb : bl ∉ [.out, .eic, .mail, .eng, .sch, .front, .dma, .tb, .topo, .fns, .slots, .err, .pair] := by exact notMem_of ‹_ ∉ _› rfl) : KeepsO bl s0 (execAddpi e p imm s) := by
  unfold execAddpi; try dsimp only
  repeat' (with_reducible first | assumption | intro _ | exact notMem_of hb rfl | apply preg_keeps | apply setP_keeps | apply advance_keeps | apply setRun_keeps | apply instruction_keeps | apply Keeps.ite | apply KeepsO.ite | apply KeepsO.next | split)

theorem execBr_keeps {bl : Block} (e : EngId) (cond : BitVec 4) (offset : BitVec 14) {s0 s : State} (hc0 : Keeps bl s0 s)
    (hb : bl ∉ [.out, .eic, .mail, .eng, .sch, .front, .dma, .tb, .topo, .fns, .slots, .err, .pair] := by exact notMem_of ‹_ ∉ _› rfl) : KeepsO bl s0 (execBr e cond offset s) := by
  unfold execBr; try dsimp only
  repeat' (with_reducible first | assumption | intro _ | exact notMem_of hb rfl | apply instrFault_keeps | apply advance_keeps | apply branchBy_keeps | apply setRun_keeps | apply condHolds_keeps | apply brCost_keeps | apply instruction_keeps | apply Keeps.ite | apply KeepsO.ite | apply KeepsO.next | split)

theorem execJmp_keeps {bl : Block} (e : EngId) (target : BitVec 14) {s0 s : State} (hc0 : Keeps bl s0 s)
    (hb : bl ∉ [.out, .eic, .mail, .eng, .sch, .front, .dma, .tb, .topo, .fns, .slots, .err, .pair] := by exact notMem_of ‹_ ∉ _› rfl) : KeepsO bl s0 (execJmp e target s) := by
  unfold execJmp; try dsimp only
  repeat' (with_reducible first | assumption | intro _ | exact notMem_of hb rfl | apply jumpTo_keeps | apply setRun_keeps | apply instruction_keeps | apply target_keeps | apply Keeps.ite | apply KeepsO.ite | apply KeepsO.next | split)

theorem freePc_keeps {bl : Block} {s0 s : State} (hc0 : Keeps bl s0 s)
    (hb : bl ∉ [.free] := by exact notMem_of ‹_ ∉ _› rfl) : Keeps bl s0 (freePc s).2 := freshIndex_keeps hc0

theorem execCall_keeps {bl : Block} (e : EngId) (target : BitVec 14) {s0 s : State} (hc0 : Keeps bl s0 s)
    (hb : bl ∉ [.out, .free, .eic, .mail, .eng, .sch, .front, .dma, .tb, .topo, .fns, .slots, .err, .pair] := by exact notMem_of ‹_ ∉ _› rfl) : KeepsO bl s0 (execCall e target s) := by
  unfold execCall; try dsimp only
  repeat' (first | (with_reducible first | assumption | intro _ | exact notMem_of hb rfl | apply freePc_keeps | apply setRun_keeps | apply calls_keeps | apply advance_keeps | apply instruction_keeps | apply target_keeps | apply Keeps.ite | apply KeepsO.ite | apply KeepsO.next | split) | ((with_reducible refine Keeps.mk ?_ ?_) <;> [skip; (cases bl <;> first | exact absurd (by decide) hb | rfl)]))

theorem execRet_keeps {bl : Block} (e : EngId) {s0 s : State} (hc0 : Keeps bl s0 s)
    (hb : bl ∉ [.out, .free, .eic, .mail, .eng, .sch, .front, .dma, .tb, .topo, .fns, .slots, .err, .pair] := by exact notMem_of ‹_ ∉ _› rfl) : KeepsO bl s0 (execRet e s) := by
  unfold execRet; try dsimp only
  repeat' (first | (with_reducible first | assumption | intro _ | exact notMem_of hb rfl | apply freePc_keeps | apply setRun_keeps | apply calls_keeps | apply instruction_keeps | apply Keeps.ite | apply KeepsO.ite | apply KeepsO.next | split) | ((with_reducible refine Keeps.mk ?_ ?_) <;> [skip; (cases bl <;> first | exact absurd (by decide) hb | rfl)]))

theorem execLoop_keeps {bl : Block} (e : EngId) (inReg : Bool) (rs : Fin 16) (imm : Byte) (len : Byte) {s0 s : State} (hc0 : Keeps bl s0 s)
    (hb : bl ∉ [.out, .free, .eic, .mail, .eng, .sch, .front, .dma, .tb, .topo, .fns, .slots, .err, .pair] := by exact notMem_of ‹_ ∉ _› rfl) : KeepsO bl s0 (execLoop e inReg rs imm len s) := by
  unfold execLoop; try dsimp only
  repeat' (first | (with_reducible first | assumption | intro _ | exact notMem_of hb rfl | apply freshIndex_keeps | apply setRun_keeps | apply loopEnd_keeps | apply breg_keeps | apply instruction_keeps | apply Keeps.ite | apply KeepsO.ite | apply KeepsO.next | split) | ((with_reducible refine Keeps.mk ?_ ?_) <;> [skip; (cases bl <;> first | exact absurd (by decide) hb | rfl)]))

theorem execCld_keeps {bl : Block} (e : EngId) {s0 s : State} (hc0 : Keeps bl s0 s)
    (hb : bl ∉ [.out, .eic, .mail, .eng, .sch, .front, .dma, .tb, .topo, .fns, .slots, .err, .pair] := by exact notMem_of ‹_ ∉ _› rfl) : KeepsO bl s0 (execCld e s) := by
  unfold execCld; try dsimp only
  repeat' (first | (with_reducible first | assumption | intro _ | exact notMem_of hb rfl | apply windowOf_keeps | apply advance_keeps | apply setRun_keeps | apply instruction_keeps | apply Keeps.ite | apply KeepsO.ite | apply KeepsO.next | split) | ((with_reducible refine Keeps.mk ?_ ?_) <;> [skip; (cases bl <;> first | exact absurd (by decide) hb | rfl)]))

theorem execCst_keeps {bl : Block} (e : EngId) {s0 s : State} (hc0 : Keeps bl s0 s)
    (hb : bl ∉ [.out, .eic, .mail, .eng, .sch, .front, .dma, .tb, .topo, .fns, .slots, .err, .pair] := by exact notMem_of ‹_ ∉ _› rfl) : KeepsO bl s0 (execCst e s) := by
  unfold execCst; try dsimp only
  repeat' (with_reducible first | assumption | intro _ | exact notMem_of hb rfl | apply storeCtx_keeps | apply workCtx_keeps | apply modCtx_keeps | apply advance_keeps | apply setRun_keeps | apply instruction_keeps | apply Keeps.ite | apply KeepsO.ite | apply KeepsO.next | split)

theorem placeItem_keeps {bl : Block} (i : ℕ) {s0 s : State} (hc0 : Keeps bl s0 s)
    (hb : bl ∉ [.front, .dma] := by exact notMem_of ‹_ ∉ _› rfl) : Keeps bl s0 (placeItem i s) := by
  unfold placeItem; try dsimp only
  repeat' (first | (with_reducible first | assumption | intro _ | exact notMem_of hb rfl | apply unstage_keeps | apply modItem_keeps | apply dedicated_keeps | apply slot_keeps | apply stagePlace_keeps | apply Keeps.ite | apply KeepsO.ite | apply KeepsO.next | split) | ((with_reducible refine Keeps.mk ?_ ?_) <;> [skip; (cases bl <;> first | exact absurd (by decide) hb | rfl)]))

theorem execPld_keeps {bl : Block} (e : EngId) {s0 s : State} (hc0 : Keeps bl s0 s)
    (hb : bl ∉ [.out, .eic, .mail, .eng, .sch, .front, .dma, .tb, .topo, .fns, .slots, .err, .pair] := by exact notMem_of ‹_ ∉ _› rfl) : KeepsO bl s0 (execPld e s) := by
  unfold execPld; try dsimp only
  repeat' (first | (with_reducible first | assumption | intro _ | exact notMem_of hb rfl | apply scriptOf_keeps | apply windowOf_keeps | apply advance_keeps | apply setRun_keeps | apply modEng_keeps | apply placeItem_keeps | apply boundItem_keeps | apply eng_keeps | apply instruction_keeps | apply Keeps.ite | apply KeepsO.ite | apply KeepsO.next | split) | ((with_reducible refine Keeps.mk ?_ ?_) <;> [skip; (cases bl <;> first | exact absurd (by decide) hb | rfl)]))

theorem execPst_keeps {bl : Block} (e : EngId) {s0 s : State} (hc0 : Keeps bl s0 s)
    (hb : bl ∉ [.out, .eic, .mail, .eng, .sch, .front, .dma, .tb, .topo, .fns, .slots, .err, .pair] := by exact notMem_of ‹_ ∉ _› rfl) : KeepsO bl s0 (execPst e s) := by
  unfold execPst; try dsimp only
  repeat' (with_reducible first | assumption | intro _ | exact notMem_of hb rfl | apply storeState_keeps | apply modPstate_keeps | apply advance_keeps | apply setRun_keeps | apply instruction_keeps | apply Keeps.ite | apply KeepsO.ite | apply KeepsO.next | split)

theorem takeHold_keeps {bl : Block} (e : ℕ) (p : ℕ) (t : Thread) {s0 s : State} (hc0 : Keeps bl s0 s)
    (hb : bl ∉ [.out, .eic, .mail, .eng, .sch, .front, .dma, .tb, .topo, .fns] := by exact notMem_of ‹_ ∉ _› rfl) : Keeps bl s0 (takeHold e p t s) := by
  unfold takeHold; try dsimp only
  repeat' (first | (with_reducible first | assumption | intro _ | exact notMem_of hb rfl | apply modPort_keeps | apply advance_keeps | apply setRun_keeps | apply runLane_keeps | apply Keeps.ite | apply KeepsO.ite | apply KeepsO.next | split) | ((with_reducible refine Keeps.mk ?_ ?_) <;> [skip; (cases bl <;> first | exact absurd (by decide) hb | rfl)]))

theorem execHold_keeps {bl : Block} (e : EngId) (p : PortId) {s0 s : State} (hc0 : Keeps bl s0 s)
    (hb : bl ∉ [.out, .eic, .mail, .eng, .sch, .front, .dma, .tb, .topo, .fns, .slots, .err, .pair] := by exact notMem_of ‹_ ∉ _› rfl) : KeepsO bl s0 (execHold e p s) := by
  unfold execHold; try dsimp only
  repeat' (first | (with_reducible first | assumption | intro _ | exact notMem_of hb rfl | apply modPort_keeps | apply takeHold_keeps | apply winsHold_keeps | apply advance_keeps | apply setRun_keeps | apply instruction_keeps | apply Keeps.ite | apply KeepsO.ite | apply KeepsO.next | split) | ((with_reducible refine Keeps.mk ?_ ?_) <;> [skip; (cases bl <;> first | exact absurd (by decide) hb | rfl)]))

theorem execHoldGrant_keeps {bl : Block} (e : EngId) (p : PortId) {s0 s : State} (hc0 : Keeps bl s0 s)
    (hb : bl ∉ [.out, .eic, .mail, .eng, .sch, .front, .dma, .tb, .topo, .fns] := by exact notMem_of ‹_ ∉ _› rfl) : KeepsO bl s0 (execHoldGrant e p s) := by
  unfold execHoldGrant; try dsimp only
  repeat' (with_reducible first | assumption | intro _ | exact notMem_of hb rfl | apply takeHold_keeps | apply winsHold_keeps | apply eng_keeps | apply live_keeps | apply guarded_keeps | apply Keeps.ite | apply KeepsO.ite | apply KeepsO.next | split)

theorem releasePort_keeps {bl : Block} (e : ℕ) (p : ℕ) (t : Thread) {s0 s : State} (hc0 : Keeps bl s0 s)
    (hb : bl ∉ [.front, .topo] := by exact notMem_of ‹_ ∉ _› rfl) : Keeps bl s0 (releasePort e p t s) := by
  unfold releasePort; try dsimp only
  repeat' (first | (with_reducible first | assumption | intro _ | exact notMem_of hb rfl | apply modItem_keeps | apply workPort_keeps | apply walkHas_keeps | apply modPort_keeps | apply Keeps.ite | apply KeepsO.ite | apply KeepsO.next | split) | ((with_reducible refine Keeps.mk ?_ ?_) <;> [skip; (cases bl <;> first | exact absurd (by decide) hb | rfl)]))

theorem execRel_keeps {bl : Block} (e : EngId) (p : PortId) {s0 s : State} (hc0 : Keeps bl s0 s)
    (hb : bl ∉ [.out, .eic, .mail, .eng, .sch, .front, .dma, .tb, .topo, .fns, .slots, .err, .pair] := by exact notMem_of ‹_ ∉ _› rfl) : KeepsO bl s0 (execRel e p s) := by
  unfold execRel; try dsimp only
  repeat' (first | (with_reducible first | assumption | intro _ | exact notMem_of hb rfl | apply modEng_keeps | apply nextWork_keeps | apply eng_keeps | apply releasePort_keeps | apply advance_keeps | apply setRun_keeps | apply instruction_keeps | apply Keeps.ite | apply KeepsO.ite | apply KeepsO.next | split) | ((with_reducible refine Keeps.mk ?_ ?_) <;> [skip; (cases bl <;> first | exact absurd (by decide) hb | rfl)]))

theorem flushWork_keeps {bl : Block} (w : Work) {s0 s : State} (hc0 : Keeps bl s0 s)
    (hb : bl ∉ [.eng, .sch, .front, .topo] := by exact notMem_of ‹_ ∉ _› rfl) : Keeps bl s0 (flushWork w s) := by
  unfold flushWork; try dsimp only
  repeat' (with_reducible first | assumption | intro _ | exact notMem_of hb rfl | apply flushErr_keeps | apply openItems_keeps | apply each_keeps | apply Keeps.ite | apply KeepsO.ite | apply KeepsO.next | split)

theorem askLane_keeps {bl : Block} (e : ℕ) (t : Thread) (op : LaneOp) {s0 s : State} (hc0 : Keeps bl s0 s)
    (hb : bl ∉ [.out, .eic, .mail, .eng, .sch, .front, .dma, .tb, .topo, .fns] := by exact notMem_of ‹_ ∉ _› rfl) : Keeps bl s0 (askLane e t op s) := by
  unfold askLane; try dsimp only
  repeat' (with_reducible first | assumption | intro _ | exact notMem_of hb rfl | apply queueLane_keeps | apply runLane_keeps | apply lineReady_keeps | apply stMissed_keeps | apply decideItem_keeps | apply workItem_keeps | apply each_keeps | apply linkMisses_keeps | apply advance_keeps | apply setRun_keeps | apply flushWork_keeps | apply workPort_keeps | apply Keeps.ite | apply KeepsO.ite | apply KeepsO.next | split)

theorem execTok_keeps {bl : Block} (e : EngId) (typ : BitVec 4) (rs : Fin 16) (retry : Bool) {s0 s : State} (hc0 : Keeps bl s0 s)
    (hb : bl ∉ [.out, .eic, .mail, .eng, .sch, .front, .dma, .tb, .topo, .fns, .slots, .err, .pair] := by exact notMem_of ‹_ ∉ _› rfl) : KeepsO bl s0 (execTok e typ rs retry s) := by
  unfold execTok; try dsimp only
  repeat' (with_reducible first | assumption | intro _ | exact notMem_of hb rfl | apply breg_keeps | apply askLane_keeps | apply scriptStop_keeps | apply tokBarred_keeps | apply instrFault_keeps | apply tokEp_keeps | apply instruction_keeps | apply Keeps.ite | apply KeepsO.ite | apply KeepsO.next | split)

theorem execSpl_keeps {bl : Block} (e : EngId) (typ : BitVec 4) (_rs : Fin 16) (retry : Bool) {s0 s : State} (hc0 : Keeps bl s0 s)
    (hb : bl ∉ [.out, .eic, .mail, .eng, .sch, .front, .dma, .tb, .topo, .fns, .slots, .err, .pair] := by exact notMem_of ‹_ ∉ _› rfl) : KeepsO bl s0 (execSpl e typ _rs retry s) := by
  unfold execSpl; try dsimp only
  repeat' (with_reducible first | assumption | intro _ | exact notMem_of hb rfl | apply askLane_keeps | apply advance_keeps | apply setRun_keeps | apply workPort_keeps | apply port_keeps | apply serdes_keeps | apply instrFault_keeps | apply instruction_keeps | apply Keeps.ite | apply KeepsO.ite | apply KeepsO.next | split)

theorem execSdat_keeps {bl : Block} (e : EngId) (_rd : Fin 16) (rs : Fin 16) {s0 s : State} (hc0 : Keeps bl s0 s)
    (hb : bl ∉ [.out, .eic, .mail, .eng, .sch, .front, .dma, .tb, .topo, .fns, .slots, .err, .pair] := by exact notMem_of ‹_ ∉ _› rfl) : KeepsO bl s0 (execSdat e _rd rs s) := by
  unfold execSdat; try dsimp only
  repeat' (with_reducible first | assumption | intro _ | exact notMem_of hb rfl | apply advance_keeps | apply setRun_keeps | apply breg_keeps | apply queueLane_keeps | apply runLane_keeps | apply workPort_keeps | apply scriptStop_keeps | apply chanBarred_keeps | apply instruction_keeps | apply Keeps.ite | apply KeepsO.ite | apply KeepsO.next | split)

theorem execRdat_keeps {bl : Block} (e : EngId) (mask : Byte) (offset : BitVec 14) {s0 s : State} (hc0 : Keeps bl s0 s)
    (hb : bl ∉ [.out, .eic, .mail, .eng, .sch, .front, .dma, .tb, .topo, .fns, .slots, .err, .pair] := by exact notMem_of ‹_ ∉ _› rfl) : KeepsO bl s0 (execRdat e mask offset s) := by
  unfold execRdat; try dsimp only
  repeat' (with_reducible first | assumption | intro _ | exact notMem_of hb rfl | apply waitAnswer_keeps | apply scriptStop_keeps | apply chanBarred_keeps | apply waitCost_keeps | apply instruction_keeps | apply Keeps.ite | apply KeepsO.ite | apply KeepsO.next | split)

theorem execWhs_keeps {bl : Block} (e : EngId) (mask : Byte) (offset : BitVec 14) {s0 s : State} (hc0 : Keeps bl s0 s)
    (hb : bl ∉ [.out, .eic, .mail, .eng, .sch, .front, .dma, .tb, .topo, .fns, .slots, .err, .pair] := by exact notMem_of ‹_ ∉ _› rfl) : KeepsO bl s0 (execWhs e mask offset s) := by
  unfold execWhs; try dsimp only
  repeat' (with_reducible first | assumption | intro _ | exact notMem_of hb rfl | apply waitAnswer_keeps | apply waitCost_keeps | apply instruction_keeps | apply Keeps.ite | apply KeepsO.ite | apply KeepsO.next | split)

theorem execShs_keeps {bl : Block} (e : EngId) {s0 s : State} (hc0 : Keeps bl s0 s)
    (hb : bl ∉ [.out, .eic, .mail, .eng, .sch, .front, .dma, .tb, .topo, .fns, .slots, .err, .pair] := by exact notMem_of ‹_ ∉ _› rfl) : KeepsO bl s0 (execShs e s) := by
  unfold execShs; try dsimp only
  repeat' (with_reducible first | assumption | intro _ | exact notMem_of hb rfl | apply sendAck_keeps | apply port_keeps | apply advance_keeps | apply setRun_keeps | apply workPort_keeps | apply instruction_keeps | apply Keeps.ite | apply KeepsO.ite | apply KeepsO.next | split)

theorem execArm_keeps {bl : Block} (e : EngId) (v : BitVec 10) {s0 s : State} (hc0 : Keeps bl s0 s)
    (hb : bl ∉ [.out, .eic, .mail, .eng, .sch, .front, .dma, .tb, .topo, .fns, .slots, .err, .pair] := by exact notMem_of ‹_ ∉ _› rfl) : KeepsO bl s0 (execArm e v s) := by
  unfold execArm; try dsimp only
  repeat' (first | (with_reducible first | assumption | intro _ | exact notMem_of hb rfl | apply advance_keeps | apply setRun_keeps | apply modChan_keeps | apply workChan_keeps | apply instruction_keeps | apply Keeps.ite | apply KeepsO.ite | apply KeepsO.next | split) | ((with_reducible refine Keeps.mk ?_ ?_) <;> [skip; (cases bl <;> first | exact absurd (by decide) hb | rfl)]))

theorem execDrn_keeps {bl : Block} (e : EngId) {s0 s : State} (hc0 : Keeps bl s0 s)
    (hb : bl ∉ [.out, .eic, .mail, .eng, .sch, .front, .dma, .tb, .topo, .fns, .slots, .err, .pair] := by exact notMem_of ‹_ ∉ _› rfl) : KeepsO bl s0 (execDrn e s) := by
  unfold execDrn; try dsimp only
  repeat' (first | (with_reducible first | assumption | intro _ | exact notMem_of hb rfl | apply chanDrained_keeps | apply advance_keeps | apply setRun_keeps | apply instruction_keeps | apply Keeps.ite | apply KeepsO.ite | apply KeepsO.next | split) | ((with_reducible refine Keeps.mk ?_ ?_) <;> [skip; (cases bl <;> first | exact absurd (by decide) hb | rfl)]))

theorem execDly_keeps {bl : Block} (e : EngId) (count : BitVec 20) {s0 s : State} (hc0 : Keeps bl s0 s)
    (hb : bl ∉ [.out, .eic, .mail, .eng, .sch, .front, .dma, .tb, .topo, .fns, .slots, .err, .pair] := by exact notMem_of ‹_ ∉ _› rfl) : KeepsO bl s0 (execDly e count s) := by
  unfold execDly; try dsimp only
  repeat' (first | (with_reducible first | assumption | intro _ | exact notMem_of hb rfl | apply advance_keeps | apply setRun_keeps | apply park_keeps | apply parksOn_keeps | apply dlyCost_keeps | apply instruction_keeps | apply Keeps.ite | apply KeepsO.ite | apply KeepsO.next | split) | ((with_reducible refine Keeps.mk ?_ ?_) <;> [skip; (cases bl <;> first | exact absurd (by decide) hb | rfl)]))

theorem execDlyExpiry_keeps {bl : Block} (e : EngId) (p : PortId) {s0 s : State} (hc0 : Keeps bl s0 s)
    (hb : bl ∉ [.eng] := by exact notMem_of ‹_ ∉ _› rfl) : KeepsO bl s0 (execDlyExpiry e p s) := by
  unfold execDlyExpiry; try dsimp only
  repeat' (first | (with_reducible first | assumption | intro _ | exact notMem_of hb rfl | apply advance_keeps | apply tput_keeps | apply modEng_keeps | apply eng_keeps | apply tfind_keeps | apply live_keeps | apply guarded_keeps | apply Keeps.ite | apply KeepsO.ite | apply KeepsO.next | split) | ((with_reducible refine Keeps.mk ?_ ?_) <;> [skip; (cases bl <;> first | exact absurd (by decide) hb | rfl)]))

theorem execParkedThreadResume_keeps {bl : Block} (e : EngId) (p : PortId) {s0 s : State} (hc0 : Keeps bl s0 s)
    (hb : bl ∉ [.eng] := by exact notMem_of ‹_ ∉ _› rfl) : KeepsO bl s0 (execParkedThreadResume e p s) := by
  unfold execParkedThreadResume; try dsimp only
  repeat' (first | (with_reducible first | assumption | intro _ | exact notMem_of hb rfl | apply setEng_keeps | apply tdel_keeps | apply midTxn_keeps | apply firstReady_keeps | apply tfind_keeps | apply eng_keeps | apply live_keeps | apply guarded_keeps | apply Keeps.ite | apply KeepsO.ite | apply KeepsO.next | split) | ((with_reducible refine Keeps.mk ?_ ?_) <;> [skip; (cases bl <;> first | exact absurd (by decide) hb | rfl)]))

theorem execGetw_keeps {bl : Block} (e : EngId) {s0 s : State} (hc0 : Keeps bl s0 s)
    (hb : bl ∉ [.out, .eic, .mail, .eng, .sch, .front, .dma, .tb, .topo, .fns, .slots, .err, .pair] := by exact notMem_of ‹_ ∉ _› rfl) : KeepsO bl s0 (execGetw e s) := by
  unfold execGetw; try dsimp only
  repeat' (first | (with_reducible first | assumption | intro _ | exact notMem_of hb rfl | apply now_keeps | apply setRun_keeps | apply setEng_keeps | apply nextWork_keeps | apply eng_keeps | apply instruction_keeps | apply Keeps.ite | apply KeepsO.ite | apply KeepsO.next | split) | ((with_reducible refine Keeps.mk ?_ ?_) <;> [skip; (cases bl <;> first | exact absurd (by decide) hb | rfl)]))

theorem writeBack_keeps {bl : Block} (k : Option ℕ) {s0 s : State} (hc0 : Keeps bl s0 s)
    (hb : bl ∉ [.out, .fns] := by exact notMem_of ‹_ ∉ _› rfl) : Keeps bl s0 (writeBack k s) := by
  unfold writeBack; try dsimp only
  repeat' (with_reducible first | assumption | intro _ | exact notMem_of hb rfl | apply ctxBytes_keeps | apply ctxBacking_keeps | apply hostWrite_keeps | apply tfind_keeps | apply Keeps.ite | apply KeepsO.ite | apply KeepsO.next | split)

theorem readCtx_keeps {bl : Block} (k : ℕ) {s0 s : State} (hc0 : Keeps bl s0 s)
    (hb : bl ∉ [.out] := by exact notMem_of ‹_ ∉ _› rfl) : Keeps bl s0 (readCtx k s) := by
  unfold readCtx; try dsimp only
  repeat' (with_reducible first | assumption | intro _ | exact notMem_of hb rfl | apply ctxBacking_keeps | apply emit_keeps | apply tfind_keeps | apply Keeps.ite | apply KeepsO.ite | apply KeepsO.next | split)

theorem setResident_keeps {bl : Block} (l : List ℕ) {s0 s : State} (hc0 : Keeps bl s0 s)
    (hb : bl ∉ [.front] := by exact notMem_of ‹_ ∉ _› rfl) : Keeps bl s0 (setResident l s) := by
  unfold setResident; try dsimp only
  repeat' (first | (with_reducible first | assumption | intro _ | exact notMem_of hb rfl | apply Keeps.ite | apply KeepsO.ite | apply KeepsO.next | split) | ((with_reducible refine Keeps.mk ?_ ?_) <;> [skip; (cases bl <;> first | exact absurd (by decide) hb | rfl)]))

theorem cacheCtx_keeps {bl : Block} (k : ℕ) {s0 s : State} (hc0 : Keeps bl s0 s)
    (hb : bl ∉ [.out, .front, .fns] := by exact notMem_of ‹_ ∉ _› rfl) : Keeps bl s0 (cacheCtx k s) := by
  unfold cacheCtx; try dsimp only
  repeat' (with_reducible first | assumption | intro _ | exact notMem_of hb rfl | apply writeBack_keeps | apply readCtx_keeps | apply ctxVictim_keeps | apply setResident_keeps | apply Keeps.ite | apply KeepsO.ite | apply KeepsO.next | split)

theorem setAffinity_keeps {bl : Block} (f : Flow) (e : ℕ) {s0 s : State} (hc0 : Keeps bl s0 s)
    (hb : bl ∉ [.front] := by exact notMem_of ‹_ ∉ _› rfl) : Keeps bl s0 (setAffinity f e s) := by
  unfold setAffinity; try dsimp only
  repeat' (first | (with_reducible first | assumption | intro _ | exact notMem_of hb rfl | apply Keeps.ite | apply KeepsO.ite | apply KeepsO.next | split) | ((with_reducible refine Keeps.mk ?_ ?_) <;> [skip; (cases bl <;> first | exact absurd (by decide) hb | rfl)]))

theorem grantItem_keeps {bl : Block} (e : ℕ) (i : ℕ) (t : Thread) (vs : List (ℕ × ℕ × ℕ × ℕ)) {s0 s : State} (hc0 : Keeps bl s0 s)
    (hb : bl ∉ [.out, .eng, .front, .dma, .topo, .fns] := by exact notMem_of ‹_ ∉ _› rfl) : Keeps bl s0 (grantItem e i t vs s) := by
  unfold grantItem; try dsimp only
  repeat' (first | (with_reducible first | assumption | intro _ | exact notMem_of hb rfl | apply scriptOf_keeps | apply windowOf_keeps | apply advance_keeps | apply setRun_keeps | apply modCtx_keeps | apply workCtx_keeps | apply cacheCtx_keeps | apply placeItem_keeps | apply setItem_keeps | apply modEng_keeps | apply setAffinity_keeps | apply port_keeps | apply tput_keeps | apply level_keeps | apply levelOf_keeps | apply itemCtx_keeps | apply Keeps.ite | apply KeepsO.ite | apply KeepsO.next | split) | ((with_reducible refine Keeps.mk ?_ ?_) <;> [skip; (cases bl <;> first | exact absurd (by decide) hb | rfl)]))

theorem execGetwGrant_keeps {bl : Block} (e : EngId) {s0 s : State} (hc0 : Keeps bl s0 s)
    (hb : bl ∉ [.out, .eng, .front, .dma, .topo, .fns, .ctl] := by exact notMem_of ‹_ ∉ _› rfl) : KeepsO bl s0 (execGetwGrant e s) := by
  unfold execGetwGrant; try dsimp only
  repeat' (with_reducible first | assumption | intro _ | exact notMem_of hb rfl | apply grantItem_keeps | apply bestItem_keeps | apply winsGetw_keeps | apply getwWaits_keeps | apply eng_keeps | apply postRequests_keeps | apply serves_keeps | apply guarded_keeps | apply Keeps.ite | apply KeepsO.ite | apply KeepsO.next | split)

theorem execAffinityOfferExpiry_keeps {bl : Block} (item : ℕ) {s0 s : State} (hc0 : Keeps bl s0 s)
    (hb : bl ∉ [.front] := by exact notMem_of ‹_ ∉ _› rfl) : KeepsO bl s0 (execAffinityOfferExpiry item s) := by
  unfold execAffinityOfferExpiry; try dsimp only
  repeat' (first | (with_reducible first | assumption | intro _ | exact notMem_of hb rfl | apply modItem_keeps | apply live_keeps | apply guarded_keeps | apply Keeps.ite | apply KeepsO.ite | apply KeepsO.next | split) | ((with_reducible refine Keeps.mk ?_ ?_) <;> [skip; (cases bl <;> first | exact absurd (by decide) hb | rfl)]))

theorem execPutw_keeps {bl : Block} (e : EngId) {s0 s : State} (hc0 : Keeps bl s0 s)
    (hb : bl ∉ [.out, .eic, .mail, .eng, .sch, .front, .dma, .tb, .topo, .fns, .slots, .err, .pair] := by exact notMem_of ‹_ ∉ _› rfl) : KeepsO bl s0 (execPutw e s) := by
  unfold execPutw; try dsimp only
  repeat' (first | (with_reducible first | assumption | intro _ | exact notMem_of hb rfl | apply modRun_keeps | apply affinityOf_keeps | apply setItem_keeps | apply workCtx_keeps | apply modCtx_keeps | apply advance_keeps | apply setRun_keeps | apply flushWork_keeps | apply instruction_keeps | apply Keeps.ite | apply KeepsO.ite | apply KeepsO.next | split) | ((with_reducible refine Keeps.mk ?_ ?_) <;> [skip; (cases bl <;> first | exact absurd (by decide) hb | rfl)]))

theorem finPost_keeps {bl : Block} (t : Thread) (st : Byte) (i : ℕ) {s0 s : State} (hc0 : Keeps bl s0 s)
    (hb : bl ∉ [.mail, .sch, .front, .dma, .tb, .topo] := by exact notMem_of ‹_ ∉ _› rfl) : Keeps bl s0 (finPost t st i s) := by
  unfold finPost; try dsimp only
  repeat' (first | (with_reducible first | assumption | intro _ | exact notMem_of hb rfl | apply finish_keeps | apply port_keeps | apply modItem_keeps | apply postItem_keeps | apply Keeps.ite | apply KeepsO.ite | apply KeepsO.next | split) | ((with_reducible refine Keeps.mk ?_ ?_) <;> [skip; (cases bl <;> first | exact absurd (by decide) hb | rfl)]))

theorem execFin_keeps {bl : Block} (e : EngId) (v : BitVec 10) {s0 s : State} (hc0 : Keeps bl s0 s)
    (hb : bl ∉ [.out, .eic, .mail, .eng, .sch, .front, .dma, .tb, .topo, .fns, .slots, .err, .pair] := by exact notMem_of ‹_ ∉ _› rfl) : KeepsO bl s0 (execFin e v s) := by
  unfold execFin; try dsimp only
  repeat' (with_reducible first | assumption | intro _ | exact notMem_of hb rfl | apply finPost_keeps | apply openItems_keeps | apply each_keeps | apply advance_keeps | apply setRun_keeps | apply flushWork_keeps | apply instruction_keeps | apply Keeps.ite | apply KeepsO.ite | apply KeepsO.next | split)

theorem execEvt_keeps {bl : Block} (e : EngId) (v : BitVec 10) {s0 s : State} (hc0 : Keeps bl s0 s)
    (hb : bl ∉ [.out, .eic, .mail, .eng, .sch, .front, .dma, .tb, .topo, .fns, .slots, .err, .pair] := by exact notMem_of ‹_ ∉ _› rfl) : KeepsO bl s0 (execEvt e v s) := by
  unfold execEvt; try dsimp only
  repeat' (first | (with_reducible first | assumption | intro _ | exact notMem_of hb rfl | apply advance_keeps | apply setRun_keeps | apply modSource_keeps | apply withRises_keeps | apply instruction_keeps | apply Keeps.ite | apply KeepsO.ite | apply KeepsO.next | split) | ((with_reducible refine Keeps.mk ?_ ?_) <;> [skip; (cases bl <;> first | exact absurd (by decide) hb | rfl)]))

theorem execEngineInterrupt_keeps {bl : Block} (e : EngId) {s0 s : State} (hc0 : Keeps bl s0 s)
    (hb : bl ∉ [.eng] := by exact notMem_of ‹_ ∉ _› rfl) : KeepsO bl s0 (execEngineInterrupt e s) := by
  unfold execEngineInterrupt; try dsimp only
  repeat' (first | (with_reducible first | assumption | intro _ | exact notMem_of hb rfl | apply modEng_keeps | apply advance_keeps | apply setRun_keeps | apply eng_keeps | apply runLevel_keeps | apply offered_keeps | apply isPending_keeps | apply live_keeps | apply guarded_keeps | apply Keeps.ite | apply KeepsO.ite | apply KeepsO.next | split) | ((with_reducible refine Keeps.mk ?_ ?_) <;> [skip; (cases bl <;> first | exact absurd (by decide) hb | rfl)]))

theorem returnItem_keeps {bl : Block} (k : ℕ × Item) {s0 s : State} (hc0 : Keeps bl s0 s)
    (hb : bl ∉ [.front, .dma, .topo, .fns] := by exact notMem_of ‹_ ∉ _› rfl) : Keeps bl s0 (returnItem k s) := by
  unfold returnItem; try dsimp only
  repeat' (first | (with_reducible first | assumption | intro _ | exact notMem_of hb rfl | apply dropStaged_keeps | apply flowBack_keeps | apply sq_keeps | apply modSq_keeps | apply delItem_keeps | apply Keeps.ite | apply KeepsO.ite | apply KeepsO.next | split) | ((with_reducible refine Keeps.mk ?_ ?_) <;> [skip; (cases bl <;> first | exact absurd (by decide) hb | rfl)]))

theorem execItemPost_keeps {bl : Block} (post : PostBody) {s0 s : State} (hc0 : Keeps bl s0 s)
    (hb : bl ∉ [.mail, .front, .dma, .topo, .fns] := by exact notMem_of ‹_ ∉ _› rfl) : KeepsO bl s0 (execItemPost post s) := by
  unfold execItemPost; try dsimp only
  repeat' (with_reducible first | assumption | intro _ | exact notMem_of hb rfl | apply returnItem_keeps | apply newestUngranted_keeps | apply postWork_keeps | apply shareFull_keeps | apply serves_keeps | apply guarded_keeps | apply Keeps.ite | apply KeepsO.ite | apply KeepsO.next | split)

theorem execScall_keeps {bl : Block} (e : EngId) (v : BitVec 10) {s0 s : State} (hc0 : Keeps bl s0 s)
    (hb : bl ∉ [.out, .eic, .mail, .eng, .sch, .front, .dma, .tb, .topo, .fns, .slots, .err, .pair] := by exact notMem_of ‹_ ∉ _› rfl) : KeepsO bl s0 (execScall e v s) := by
  unfold execScall; try dsimp only
  repeat' (first | (with_reducible first | assumption | intro _ | exact notMem_of hb rfl | apply modEng_keeps | apply wcCycles_keeps | apply setRun_keeps | apply isServiceWork_keeps | apply boundScript_keeps | apply eng_keeps | apply tfind_keeps | apply advance_keeps | apply instruction_keeps | apply Keeps.ite | apply KeepsO.ite | apply KeepsO.next | split) | ((with_reducible refine Keeps.mk ?_ ?_) <;> [skip; (cases bl <;> first | exact absurd (by decide) hb | rfl)]))

theorem hookDone_keeps {bl : Block} (st : Byte) (i : ℕ) {s0 s : State} (hc0 : Keeps bl s0 s)
    (hb : bl ∉ [.front] := by exact notMem_of ‹_ ∉ _› rfl) : Keeps bl s0 (hookDone st i s) := by
  unfold hookDone; try dsimp only
  repeat' (first | (with_reducible first | assumption | intro _ | exact notMem_of hb rfl | apply modItem_keeps | apply overrideItem_keeps | apply Keeps.ite | apply KeepsO.ite | apply KeepsO.next | split) | ((with_reducible refine Keeps.mk ?_ ?_) <;> [skip; (cases bl <;> first | exact absurd (by decide) hb | rfl)]))

theorem execSret_keeps {bl : Block} (e : EngId) (v : BitVec 10) {s0 s : State} (hc0 : Keeps bl s0 s)
    (hb : bl ∉ [.out, .eic, .mail, .eng, .sch, .front, .dma, .tb, .topo, .fns, .slots, .err, .pair] := by exact notMem_of ‹_ ∉ _› rfl) : KeepsO bl s0 (execSret e v s) := by
  unfold execSret; try dsimp only
  repeat' (first | (with_reducible first | assumption | intro _ | exact notMem_of hb rfl | apply flushWork_keeps | apply hookDone_keeps | apply openItems_keeps | apply each_keeps | apply setRun_keeps | apply scriptStop_keeps | apply breg_keeps | apply scriptStatus_keeps | apply instruction_keeps | apply Keeps.ite | apply KeepsO.ite | apply KeepsO.next | split) | ((with_reducible refine Keeps.mk ?_ ?_) <;> [skip; (cases bl <;> first | exact absurd (by decide) hb | rfl)]))

theorem execScriptBudgetExpiry_keeps {bl : Block} (e : EngId) {s0 s : State} (hc0 : Keeps bl s0 s)
    (hb : bl ∉ [.out, .eic, .mail, .eng, .sch, .front, .dma, .tb, .topo, .fns] := by exact notMem_of ‹_ ∉ _› rfl) : KeepsO bl s0 (execScriptBudgetExpiry e s) := by
  unfold execScriptBudgetExpiry; try dsimp only
  repeat' (with_reducible first | assumption | intro _ | exact notMem_of hb rfl | apply scriptStop_keeps | apply live_keeps | apply guarded_keeps | apply Keeps.ite | apply KeepsO.ite | apply KeepsO.next | split)

theorem execFloatStart_keeps {bl : Block} (p : PortId) {s0 s : State} (hc0 : Keeps bl s0 s)
    (hb : bl ∉ [.out, .eic, .mail, .eng, .sch, .front, .dma, .tb, .topo, .fns] := by exact notMem_of ‹_ ∉ _› rfl) : KeepsO bl s0 (execFloatStart p s) := by
  unfold execFloatStart; try dsimp only
  repeat' (first | (with_reducible first | assumption | intro _ | exact notMem_of hb rfl | apply floatServe_keeps | apply now_keeps | apply tput_keeps | apply runLane_keeps | apply tget_keeps | apply floatOf_keeps | apply serves_keeps | apply guarded_keeps | apply Keeps.ite | apply KeepsO.ite | apply KeepsO.next | split) | ((with_reducible refine Keeps.mk ?_ ?_) <;> [skip; (cases bl <;> first | exact absurd (by decide) hb | rfl)]))

theorem scriptLoadOp_keeps {bl : Block} (ctx : CmdCtx) (number : ℕ) (image : List Byte) {s0 s : State} (hc0 : Keeps bl s0 s)
    (hb : bl ∉ [.out, .mail, .eng, .fns] := by exact notMem_of ‹_ ∉ _› rfl) : Keeps bl s0 (scriptLoadOp ctx number image s) := by
  unfold scriptLoadOp; try dsimp only
  repeat' (first | (with_reducible first | assumption | intro _ | exact notMem_of hb rfl | apply scriptFrom_keeps | apply tput_keeps | apply imgWords_keeps | apply imgField_keeps | apply scriptSpace_keeps | apply checkImage_keeps | apply eng_keeps | apply tfind_keeps | apply chan_keeps | apply sender_keeps | apply scriptReply_keeps | apply reply_keeps | apply begun_keeps | apply Keeps.ite | apply KeepsO.ite | apply KeepsO.next | split) | ((with_reducible refine Keeps.mk ?_ ?_) <;> [skip; (cases bl <;> first | exact absurd (by decide) hb | rfl)]))

theorem scriptUnloadOp_keeps {bl : Block} (ctx : CmdCtx) (number : ℕ) {s0 s : State} (hc0 : Keeps bl s0 s)
    (hb : bl ∉ [.out, .mail, .eng, .fns] := by exact notMem_of ‹_ ∉ _› rfl) : Keeps bl s0 (scriptUnloadOp ctx number s) := by
  unfold scriptUnloadOp; try dsimp only
  repeat' (first | (with_reducible first | assumption | intro _ | exact notMem_of hb rfl | apply tdel_keeps | apply scriptBound_keeps | apply eng_keeps | apply tfind_keeps | apply chan_keeps | apply sender_keeps | apply scriptReply_keeps | apply reply_keeps | apply begun_keeps | apply Keeps.ite | apply KeepsO.ite | apply KeepsO.next | split) | ((with_reducible refine Keeps.mk ?_ ?_) <;> [skip; (cases bl <;> first | exact absurd (by decide) hb | rfl)]))

theorem setScript_keeps {bl : Block} (num : ℕ) (n : ℕ) {s0 s : State} (hc0 : Keeps bl s0 s)
    (hb : bl ∉ [.eng, .topo] := by exact notMem_of ‹_ ∉ _› rfl) : Keeps bl s0 (setScript num n s) := by
  unfold setScript; try dsimp only
  repeat' (first | (with_reducible first | assumption | intro _ | exact notMem_of hb rfl | apply refreshWin_keeps | apply tkeys_keeps | apply each_keeps | apply modDev_keeps | apply Keeps.ite | apply KeepsO.ite | apply KeepsO.next | split) | ((with_reducible refine Keeps.mk ?_ ?_) <;> [skip; (cases bl <;> first | exact absurd (by decide) hb | rfl)]))

theorem scriptBindOp_keeps {bl : Block} (ctx : CmdCtx) (b : BindBody) {s0 s : State} (hc0 : Keeps bl s0 s)
    (hb : bl ∉ [.out, .mail, .eng, .topo, .fns] := by exact notMem_of ‹_ ∉ _› rfl) : Keeps bl s0 (scriptBindOp ctx b s) := by
  unfold scriptBindOp; try dsimp only
  repeat' (first | (with_reducible first | assumption | intro _ | exact notMem_of hb rfl | apply ruleOf_keeps | apply setScript_keeps | apply bindBar_keeps | apply handle_keeps | apply bindDevBar_keeps | apply eng_keeps | apply tfind_keeps | apply chan_keeps | apply sender_keeps | apply scriptReply_keeps | apply reply_keeps | apply begun_keeps | apply Keeps.ite | apply KeepsO.ite | apply KeepsO.next | split) | ((with_reducible refine Keeps.mk ?_ ?_) <;> [skip; (cases bl <;> first | exact absurd (by decide) hb | rfl)]))

theorem scriptUnbindOp_keeps {bl : Block} (ctx : CmdCtx) (b : BindBody) {s0 s : State} (hc0 : Keeps bl s0 s)
    (hb : bl ∉ [.out, .mail, .eng, .topo, .fns] := by exact notMem_of ‹_ ∉ _› rfl) : Keeps bl s0 (scriptUnbindOp ctx b s) := by
  unfold scriptUnbindOp; try dsimp only
  repeat' (first | (with_reducible first | assumption | intro _ | exact notMem_of hb rfl | apply ruleOf_keeps | apply setScript_keeps | apply handle_keeps | apply bindDevBar_keeps | apply eng_keeps | apply tfind_keeps | apply chan_keeps | apply sender_keeps | apply scriptReply_keeps | apply reply_keeps | apply begun_keeps | apply Keeps.ite | apply KeepsO.ite | apply KeepsO.next | split) | ((with_reducible refine Keeps.mk ?_ ?_) <;> [skip; (cases bl <;> first | exact absurd (by decide) hb | rfl)]))

theorem execScriptLoad_keeps {bl : Block} (ctx : CmdCtx) (number : Byte) (image : List Byte) {s0 s : State} (hc0 : Keeps bl s0 s)
    (hb : bl ∉ [.out, .mail, .eng, .fns] := by exact notMem_of ‹_ ∉ _› rfl) : KeepsO bl s0 (execScriptLoad ctx number image s) := by
  unfold execScriptLoad; try dsimp only
  repeat' (with_reducible first | assumption | intro _ | exact notMem_of hb rfl | apply scriptLoadOp_keeps | apply live_keeps | apply guarded_keeps | apply Keeps.ite | apply KeepsO.ite | apply KeepsO.next | split)

theorem execScriptUnload_keeps {bl : Block} (ctx : CmdCtx) (number : Byte) {s0 s : State} (hc0 : Keeps bl s0 s)
    (hb : bl ∉ [.out, .mail, .eng, .fns] := by exact notMem_of ‹_ ∉ _› rfl) : KeepsO bl s0 (execScriptUnload ctx number s) := by
  unfold execScriptUnload; try dsimp only
  repeat' (with_reducible first | assumption | intro _ | exact notMem_of hb rfl | apply scriptUnloadOp_keeps | apply live_keeps | apply guarded_keeps | apply Keeps.ite | apply KeepsO.ite | apply KeepsO.next | split)

theorem execScriptBind_keeps {bl : Block} (ctx : CmdCtx) (body : BindBody) {s0 s : State} (hc0 : Keeps bl s0 s)
    (hb : bl ∉ [.out, .mail, .eng, .topo, .fns] := by exact notMem_of ‹_ ∉ _› rfl) : KeepsO bl s0 (execScriptBind ctx body s) := by
  unfold execScriptBind; try dsimp only
  repeat' (with_reducible first | assumption | intro _ | exact notMem_of hb rfl | apply scriptBindOp_keeps | apply live_keeps | apply guarded_keeps | apply Keeps.ite | apply KeepsO.ite | apply KeepsO.next | split)

theorem execScriptUnbind_keeps {bl : Block} (ctx : CmdCtx) (body : BindBody) {s0 s : State} (hc0 : Keeps bl s0 s)
    (hb : bl ∉ [.out, .mail, .eng, .topo, .fns] := by exact notMem_of ‹_ ∉ _› rfl) : KeepsO bl s0 (execScriptUnbind ctx body s) := by
  unfold execScriptUnbind; try dsimp only
  repeat' (with_reducible first | assumption | intro _ | exact notMem_of hb rfl | apply scriptUnbindOp_keeps | apply live_keeps | apply guarded_keeps | apply Keeps.ite | apply KeepsO.ite | apply KeepsO.next | split)

theorem execDoorbellBlockReadDone_keeps {bl : Block} (f : FuncId) (block : Fin 512) (ok : Bool) (records : List U32) {s0 s : State} (hc0 : Keeps bl s0 s)
    (hb : bl ∉ [.out, .free, .eic, .mail, .eng, .sch, .front, .dma, .tb, .topo, .fns] := by exact notMem_of ‹_ ∉ _› rfl) : KeepsO bl s0 (execDoorbellBlockReadDone f block ok records s) := by
  unfold execDoorbellBlockReadDone; try dsimp only
  repeat' (first | (with_reducible first | assumption | intro _ | exact notMem_of hb rfl | apply emit_keeps | apply doorbellRecords_keeps | apply sweepHandles_keeps | apply serves_keeps | apply guarded_keeps | apply Keeps.ite | apply KeepsO.ite | apply KeepsO.next | split) | ((with_reducible refine Keeps.mk ?_ ?_) <;> [skip; (cases bl <;> first | exact absurd (by decide) hb | rfl)]))

theorem execSqEntryFetched_keeps {bl : Block} (f : FuncId) (q : Fin 4096) (ok : Bool) (raw : BitVec 256) {s0 s : State} (hc0 : Keeps bl s0 s)
    (hb : bl ∉ [.out, .eic, .mail, .sch, .front, .dma, .tb, .topo, .fns] := by exact notMem_of ‹_ ∉ _› rfl) : KeepsO bl s0 (execSqEntryFetched f q ok raw s) := by
  unfold execSqEntryFetched; try dsimp only
  repeat' (with_reducible first | assumption | intro _ | exact notMem_of hb rfl | apply fetchEntry_keeps | apply sq_keeps | apply serves_keeps | apply guarded_keeps | apply Keeps.ite | apply KeepsO.ite | apply KeepsO.next | split)

theorem execQKickSq_keeps {bl : Block} (f : FuncId) (q : Fin 4096) (index : U16) {s0 s : State} (hc0 : Keeps bl s0 s)
    (hb : bl ∉ [.out, .free, .eic, .mail, .eng, .sch, .front, .dma, .tb, .topo, .fns] := by exact notMem_of ‹_ ∉ _› rfl) : KeepsO bl s0 (execQKickSq f q index s) := by
  unfold execQKickSq; try dsimp only
  repeat' (with_reducible first | assumption | intro _ | exact notMem_of hb rfl | apply absUframe_keeps | apply acceptP_keeps | apply sweepHandles_keeps | apply sqLive_keeps | apply hostReaches_keeps | apply guarded_keeps | apply Keeps.ite | apply KeepsO.ite | apply KeepsO.next | split)

theorem execQKickSqInval_keeps {bl : Block} (f : FuncId) (q : Fin 4096) (index : U16) {s0 s : State} (hc0 : Keeps bl s0 s)
    (hb : bl ∉ [.out, .free, .eic, .mail, .eng, .sch, .front, .dma, .tb, .topo, .fns] := by exact notMem_of ‹_ ∉ _› rfl) : KeepsO bl s0 (execQKickSqInval f q index s) := by
  unfold execQKickSqInval; try dsimp only
  repeat' (with_reducible first | assumption | intro _ | exact notMem_of hb rfl | apply absUframe_keeps | apply kickInval_keeps | apply sweepHandles_keeps | apply sqLive_keeps | apply hostReaches_keeps | apply guarded_keeps | apply Keeps.ite | apply KeepsO.ite | apply KeepsO.next | split)

theorem execQKickCr_keeps {bl : Block} (f : FuncId) (r : Fin 4096) (index : U16) {s0 s : State} (hc0 : Keeps bl s0 s)
    (hb : bl ∉ [.out, .free, .eic, .mail, .eng, .sch, .front, .dma, .tb, .topo, .fns] := by exact notMem_of ‹_ ∉ _› rfl) : KeepsO bl s0 (execQKickCr f r index s) := by
  unfold execQKickCr; try dsimp only
  repeat' (with_reducible first | assumption | intro _ | exact notMem_of hb rfl | apply absUframe_keeps | apply acceptC_keeps | apply sweepHandles_keeps | apply crLive_keeps | apply hostReaches_keeps | apply guarded_keeps | apply Keeps.ite | apply KeepsO.ite | apply KeepsO.next | split)

theorem execQCreate_keeps {bl : Block} (f : FuncId) {s0 s : State} (hc0 : Keeps bl s0 s)
    (hb : bl ∉ [.fns] := by exact notMem_of ‹_ ∉ _› rfl) : KeepsO bl s0 (execQCreate f s) := by
  unfold execQCreate; try dsimp only
  repeat' (with_reducible first | assumption | intro _ | exact notMem_of hb rfl | apply createQueue_keeps | apply opAsked_keeps | apply guarded_keeps | apply Keeps.ite | apply KeepsO.ite | apply KeepsO.next | split)

theorem execQDestroy_keeps {bl : Block} (f : FuncId) {s0 s : State} (hc0 : Keeps bl s0 s)
    (hb : bl ∉ [.out, .free, .eic, .mail, .eng, .sch, .front, .dma, .tb, .topo, .fns] := by exact notMem_of ‹_ ∉ _› rfl) : KeepsO bl s0 (execQDestroy f s) := by
  unfold execQDestroy; try dsimp only
  repeat' (with_reducible first | assumption | intro _ | exact notMem_of hb rfl | apply selNum_keeps | apply forgetSq_keeps | apply sweepHandles_keeps | apply destroyQueue_keeps | apply selCr_keeps | apply destroyResult_keeps | apply fn_keeps | apply opAsked_keeps | apply guarded_keeps | apply Keeps.ite | apply KeepsO.ite | apply KeepsO.next | split)

theorem execQRead_keeps {bl : Block} (f : FuncId) {s0 s : State} (hc0 : Keeps bl s0 s)
    (hb : bl ∉ [.fns] := by exact notMem_of ‹_ ∉ _› rfl) : KeepsO bl s0 (execQRead f s) := by
  unfold execQRead; try dsimp only
  repeat' (with_reducible first | assumption | intro _ | exact notMem_of hb rfl | apply readQueue_keeps | apply opAsked_keeps | apply guarded_keeps | apply Keeps.ite | apply KeepsO.ite | apply KeepsO.next | split)

theorem execCompletionRelease_keeps {bl : Block} (item : ℕ) {s0 s : State} (hc0 : Keeps bl s0 s)
    (hb : bl ∉ [.out, .free, .eic, .mail, .eng, .sch, .front, .dma, .tb, .topo, .fns] := by exact notMem_of ‹_ ∉ _› rfl) : KeepsO bl s0 (execCompletionRelease item s) := by
  unfold execCompletionRelease; try dsimp only
  repeat' (with_reducible first | assumption | intro _ | exact notMem_of hb rfl | apply releaseItem_keeps | apply sweepHandles_keeps | apply live_keeps | apply guarded_keeps | apply Keeps.ite | apply KeepsO.ite | apply KeepsO.next | split)

theorem execQueueStop_keeps {bl : Block} (ctx : CmdCtx) (q : U16) {s0 s : State} (hc0 : Keeps bl s0 s)
    (hb : bl ∉ [.out, .mail, .sch, .front, .dma, .tb, .topo, .fns] := by exact notMem_of ‹_ ∉ _› rfl) : KeepsO bl s0 (execQueueStop ctx q s) := by
  unfold execQueueStop; try dsimp only
  repeat' (with_reducible first | assumption | intro _ | exact notMem_of hb rfl | apply queueStopCmd_keeps | apply live_keeps | apply guarded_keeps | apply Keeps.ite | apply KeepsO.ite | apply KeepsO.next | split)

theorem execQueueStart_keeps {bl : Block} (ctx : CmdCtx) (q : U16) {s0 s : State} (hc0 : Keeps bl s0 s)
    (hb : bl ∉ [.out, .mail, .fns] := by exact notMem_of ‹_ ∉ _› rfl) : KeepsO bl s0 (execQueueStart ctx q s) := by
  unfold execQueueStart; try dsimp only
  repeat' (with_reducible first | assumption | intro _ | exact notMem_of hb rfl | apply queueStartCmd_keeps | apply live_keeps | apply guarded_keeps | apply Keeps.ite | apply KeepsO.ite | apply KeepsO.next | split)

theorem ctxCtlWrite_keeps {bl : Block} (v : U32) {s0 s : State} (hc0 : Keeps bl s0 s)
    (hb : bl ∉ [.front, .topo] := by exact notMem_of ‹_ ∉ _› rfl) : Keeps bl s0 (ctxCtlWrite v s) := by
  unfold ctxCtlWrite; try dsimp only
  repeat' (first | (with_reducible first | assumption | intro _ | exact notMem_of hb rfl | apply ctxUnused_keeps | apply modPort_keeps | apply portEnableOp_keeps | apply port_keeps | apply each_keeps | apply Keeps.ite | apply KeepsO.ite | apply KeepsO.next | split) | ((with_reducible refine Keeps.mk ?_ ?_) <;> [skip; (cases bl <;> first | exact absurd (by decide) hb | rfl)]))

theorem execDspCtxCtlWrite_keeps {bl : Block} (value : U32) {s0 s : State} (hc0 : Keeps bl s0 s)
    (hb : bl ∉ [.front, .topo] := by exact notMem_of ‹_ ∉ _› rfl) : KeepsO bl s0 (execDspCtxCtlWrite value s) := by
  unfold execDspCtxCtlWrite; try dsimp only
  repeat' (with_reducible first | assumption | intro _ | exact notMem_of hb rfl | apply ctxCtlWrite_keeps | apply hostReaches_keeps | apply guarded_keeps | apply Keeps.ite | apply KeepsO.ite | apply KeepsO.next | split)

theorem lanesOn_keeps {bl : Block} {s0 s : State} (hc0 : Keeps bl s0 s)
    (hb : bl ∉ [.out, .eic, .mail, .eng, .sch, .front, .dma, .tb, .topo, .fns] := by exact notMem_of ‹_ ∉ _› rfl) : Keeps bl s0 (lanesOn s) := by
  unfold lanesOn; try dsimp only
  repeat' (with_reducible first | assumption | intro _ | exact notMem_of hb rfl | apply runLane_keeps | apply port_keeps | apply each_keeps | apply Keeps.ite | apply KeepsO.ite | apply KeepsO.next | split)

theorem execDmaRequest_keeps {bl : Block} (cut : ℕ) {s0 s : State} (hc0 : Keeps bl s0 s)
    (hb : bl ∉ [.out, .eic, .mail, .eng, .sch, .front, .dma, .tb, .topo, .fns, .pwr] := by exact notMem_of ‹_ ∉ _› rfl) : KeepsO bl s0 (execDmaRequest cut s) := by
  unfold execDmaRequest; try dsimp only
  repeat' (with_reducible first | assumption | intro _ | exact notMem_of hb rfl | apply dmaServe_keeps | apply lanesOn_keeps | apply serves_keeps | apply guarded_keeps | apply Keeps.ite | apply KeepsO.ite | apply KeepsO.next | split)

theorem execDmaReadCompletion_keeps {bl : Block} (ch : Fin 144) (timed : Bool) (ok : Bool) (data : List Byte) {s0 s : State} (hc0 : Keeps bl s0 s)
    (hb : bl ∉ [.out, .eic, .mail, .eng, .sch, .front, .dma, .tb, .topo, .fns] := by exact notMem_of ‹_ ∉ _› rfl) : KeepsO bl s0 (execDmaReadCompletion ch timed ok data s) := by
  unfold execDmaReadCompletion; try dsimp only
  repeat' (with_reducible first | assumption | intro _ | exact notMem_of hb rfl | apply ctxOf_keeps | apply readDone_keeps | apply lanesOn_keeps | apply live_keeps | apply guarded_keeps | apply Keeps.ite | apply KeepsO.ite | apply KeepsO.next | split)

theorem drained_keeps {bl : Block} (key : ℕ) {s0 s : State} (hc0 : Keeps bl s0 s)
    (hb : bl ∉ [.eng, .dma] := by exact notMem_of ‹_ ∉ _› rfl) : Keeps bl s0 (drained key s) := by
  unfold drained; try dsimp only
  repeat' (first | (with_reducible first | assumption | intro _ | exact notMem_of hb rfl | apply modChan_keeps | apply armedOver_keeps | apply eng_keeps | apply advance_keeps | apply Keeps.ite | apply KeepsO.ite | apply KeepsO.next | split) | ((with_reducible refine Keeps.mk ?_ ?_) <;> [skip; (cases bl <;> first | exact absurd (by decide) hb | rfl)]))

theorem execDrainComplete_keeps {bl : Block} (ch : Fin 144) (timed : Bool) {s0 s : State} (hc0 : Keeps bl s0 s)
    (hb : bl ∉ [.eng, .dma] := by exact notMem_of ‹_ ∉ _› rfl) : KeepsO bl s0 (execDrainComplete ch timed s) := by
  unfold execDrainComplete; try dsimp only
  repeat' (with_reducible first | assumption | intro _ | exact notMem_of hb rfl | apply drained_keeps | apply ctxOf_keeps | apply chanDrained_keeps | apply live_keeps | apply guarded_keeps | apply Keeps.ite | apply KeepsO.ite | apply KeepsO.next | split)

theorem execIndexTableReadDone_keeps {bl : Block} (item : ℕ) (first : ℕ) (ok : Bool) (bytes : List Byte) {s0 s : State} (hc0 : Keeps bl s0 s)
    (hb : bl ∉ [.out, .eic, .mail, .sch, .front, .dma, .tb, .topo, .fns] := by exact notMem_of ‹_ ∉ _› rfl) : KeepsO bl s0 (execIndexTableReadDone item first ok bytes s) := by
  unfold execIndexTableReadDone; try dsimp only
  repeat' (with_reducible first | assumption | intro _ | exact notMem_of hb rfl | apply idxRead_keeps | apply live_keeps | apply guarded_keeps | apply Keeps.ite | apply KeepsO.ite | apply KeepsO.next | split)

theorem execBufCarve_keeps {bl : Block} (ctx : CmdCtx) (handle : U16) (epaddr : Byte) {s0 s : State} (hc0 : Keeps bl s0 s)
    (hb : bl ∉ [.out, .free, .mail, .dma, .topo, .fns] := by exact notMem_of ‹_ ∉ _› rfl) : KeepsO bl s0 (execBufCarve ctx handle epaddr s) := by
  unfold execBufCarve; try dsimp only
  repeat' (with_reducible first | assumption | intro _ | exact notMem_of hb rfl | apply bufCarveCmd_keeps | apply live_keeps | apply guarded_keeps | apply handle_keeps | apply Keeps.ite | apply KeepsO.ite | apply KeepsO.next | split)

theorem execBufRelease_keeps {bl : Block} (ctx : CmdCtx) (handle : U16) (epaddr : Byte) {s0 s : State} (hc0 : Keeps bl s0 s)
    (hb : bl ∉ [.out, .mail, .front, .dma, .topo, .fns] := by exact notMem_of ‹_ ∉ _› rfl) : KeepsO bl s0 (execBufRelease ctx handle epaddr s) := by
  unfold execBufRelease; try dsimp only
  repeat' (with_reducible first | assumption | intro _ | exact notMem_of hb rfl | apply bufReleaseCmd_keeps | apply live_keeps | apply guarded_keeps | apply handle_keeps | apply Keeps.ite | apply KeepsO.ite | apply KeepsO.next | split)

theorem execBufReleaseComplete_keeps {bl : Block} (f : FuncId) (handle : U16) (epaddr : Byte) {s0 s : State} (hc0 : Keeps bl s0 s)
    (hb : bl ∉ [.out, .mail, .front, .dma, .topo, .fns] := by exact notMem_of ‹_ ∉ _› rfl) : KeepsO bl s0 (execBufReleaseComplete f handle epaddr s) := by
  unfold execBufReleaseComplete; try dsimp only
  repeat' (with_reducible first | assumption | intro _ | exact notMem_of hb rfl | apply bufReleaseFinish_keeps | apply live_keeps | apply guarded_keeps | apply handle_keeps | apply Keeps.ite | apply KeepsO.ite | apply KeepsO.next | split)

theorem execPageScrubDone_keeps {bl : Block} (page : Fin 3950) {s0 s : State} (hc0 : Keeps bl s0 s)
    (hb : bl ∉ [.dma] := by exact notMem_of ‹_ ∉ _› rfl) : KeepsO bl s0 (execPageScrubDone page s) := by
  unfold execPageScrubDone; try dsimp only
  repeat' (with_reducible first | assumption | intro _ | exact notMem_of hb rfl | apply scrubbed_keeps | apply pageQuiet_keeps | apply live_keeps | apply guarded_keeps | apply page_keeps | apply Keeps.ite | apply KeepsO.ite | apply KeepsO.next | split)

theorem scrubVisit_keeps {bl : Block} (page : ℕ) (word : ℕ) (bad : EccResult) {s0 s : State} (hc0 : Keeps bl s0 s)
    (hb : bl ∉ [.out, .eic, .mail, .eng, .sch, .front, .dma, .tb, .topo, .fns, .slots, .err, .pair] := by exact notMem_of ‹_ ∉ _› rfl) : Keeps bl s0 (scrubVisit page word bad s) := by
  unfold scrubVisit; try dsimp only
  repeat' (first | (with_reducible first | assumption | intro _ | exact notMem_of hb rfl | apply countError_keeps | apply page_keeps | apply Keeps.ite | apply KeepsO.ite | apply KeepsO.next | split) | ((with_reducible refine Keeps.mk ?_ ?_) <;> [skip; (cases bl <;> first | exact absurd (by decide) hb | rfl)]))

theorem execEccScrubVisit_keeps {bl : Block} (page : Fin 4014) (word : Fin 512) (bad : EccResult) {s0 s : State} (hc0 : Keeps bl s0 s)
    (hb : bl ∉ [.out, .eic, .mail, .eng, .sch, .front, .dma, .tb, .topo, .fns, .slots, .err, .pair] := by exact notMem_of ‹_ ∉ _› rfl) : KeepsO bl s0 (execEccScrubVisit page word bad s) := by
  unfold execEccScrubVisit; try dsimp only
  repeat' (with_reducible first | assumption | intro _ | exact notMem_of hb rfl | apply scrubVisit_keeps | apply live_keeps | apply guarded_keeps | apply page_keeps | apply Keeps.ite | apply KeepsO.ite | apply KeepsO.next | split)

theorem vfCreateOp_keeps {bl : Block} (ctx : CmdCtx) (d : FuncDesc) {s0 s : State} (hc0 : Keeps bl s0 s)
    (hb : bl ∉ [.out, .mail, .dma, .fns] := by exact notMem_of ‹_ ∉ _› rfl) : Keeps bl s0 (vfCreateOp ctx d s) := by
  unfold vfCreateOp; try dsimp only
  repeat' (first | (with_reducible first | assumption | intro _ | exact notMem_of hb rfl | apply takeSettings_keeps | apply modFn_keeps | apply freePages_keeps | apply scrubPages_keeps | apply funcReply_keeps | apply reply_keeps | apply createRefusal_keeps | apply funcBar_keeps | apply begun_keeps | apply Keeps.ite | apply KeepsO.ite | apply KeepsO.next | split) | ((with_reducible refine Keeps.mk ?_ ?_) <;> [skip; (cases bl <;> first | exact absurd (by decide) hb | rfl)]))

theorem setPages_keeps {bl : Block} (f : ℕ) (n : ℕ) {s0 s : State} (hc0 : Keeps bl s0 s)
    (hb : bl ∉ [.dma] := by exact notMem_of ‹_ ∉ _› rfl) : Keeps bl s0 (setPages f n s) := by
  unfold setPages; try dsimp only
  repeat' (with_reducible first | assumption | intro _ | exact notMem_of hb rfl | apply freeCarve_keeps | apply freePages_keeps | apply scrubPages_keeps | apply ownedPages_keeps | apply Keeps.ite | apply KeepsO.ite | apply KeepsO.next | split)

theorem funcModifyOp_keeps {bl : Block} (ctx : CmdCtx) (d : FuncDesc) {s0 s : State} (hc0 : Keeps bl s0 s)
    (hb : bl ∉ [.out, .eic, .mail, .dma, .fns] := by exact notMem_of ‹_ ∉ _› rfl) : Keeps bl s0 (funcModifyOp ctx d s) := by
  unfold funcModifyOp; try dsimp only
  repeat' (with_reducible first | assumption | intro _ | exact notMem_of hb rfl | apply raiseVf_keeps | apply takeSettings_keeps | apply modFn_keeps | apply setPages_keeps | apply funcReply_keeps | apply reply_keeps | apply modifyRefusal_keeps | apply funcBar_keeps | apply begun_keeps | apply Keeps.ite | apply KeepsO.ite | apply KeepsO.next | split)

theorem funcQueryOp_keeps {bl : Block} (ctx : CmdCtx) (v : ℕ) {s0 s : State} (hc0 : Keeps bl s0 s)
    (hb : bl ∉ [.out, .mail, .fns] := by exact notMem_of ‹_ ∉ _› rfl) : Keeps bl s0 (funcQueryOp ctx v s) := by
  unfold funcQueryOp; try dsimp only
  repeat' (with_reducible first | assumption | intro _ | exact notMem_of hb rfl | apply funcReply_keeps | apply reply_keeps | apply vfThere_keeps | apply funcBar_keeps | apply begun_keeps | apply Keeps.ite | apply KeepsO.ite | apply KeepsO.next | split)

theorem leaveHandle_keeps {bl : Block} (num : ℕ) {s0 s : State} (hc0 : Keeps bl s0 s)
    (hb : bl ∉ [.out, .mail, .eng, .sch, .front, .dma, .tb, .topo, .fns] := by exact notMem_of ‹_ ∉ _› rfl) : Keeps bl s0 (leaveHandle num s) := by
  unfold leaveHandle; try dsimp only
  repeat' (first | (with_reducible first | assumption | intro _ | exact notMem_of hb rfl | apply recordSqs_keeps | apply modHandle_keeps | apply freeDedicated_keeps | apply endScripts_keeps | apply setScript_keeps | apply stDeviceGone_keeps | apply stopItem_keeps | apply handleWord_keeps | apply handle_keeps | apply itemsWhere_keeps | apply each_keeps | apply ownerOf_keeps | apply Keeps.ite | apply KeepsO.ite | apply KeepsO.next | split) | ((with_reducible refine Keeps.mk ?_ ?_) <;> [skip; (cases bl <;> first | exact absurd (by decide) hb | rfl)]))

theorem ownCtxs_keeps {bl : Block} (n : ℕ) (f : ℕ) {s0 s : State} (hc0 : Keeps bl s0 s)
    (hb : bl ∉ [.topo] := by exact notMem_of ‹_ ∉ _› rfl) : Keeps bl s0 (ownCtxs n f s) := by
  unfold ownCtxs; try dsimp only
  repeat' (first | (with_reducible first | assumption | intro _ | exact notMem_of hb rfl | apply handleWord_keeps | apply handle_keeps | apply Keeps.ite | apply KeepsO.ite | apply KeepsO.next | split) | ((with_reducible refine Keeps.mk ?_ ?_) <;> [skip; (cases bl <;> first | exact absurd (by decide) hb | rfl)]))

theorem markReturn_keeps {bl : Block} (num : ℕ) (n : ℕ) (f : ℕ) (ret : Bool) {s0 s : State} (hc0 : Keeps bl s0 s)
    (hb : bl ∉ [.fns] := by exact notMem_of ‹_ ∉ _› rfl) : Keeps bl s0 (markReturn num n f ret s) := by
  unfold markReturn; try dsimp only
  repeat' (first | (with_reducible first | assumption | intro _ | exact notMem_of hb rfl | apply Keeps.ite | apply KeepsO.ite | apply KeepsO.next | split) | ((with_reducible refine Keeps.mk ?_ ?_) <;> [skip; (cases bl <;> first | exact absurd (by decide) hb | rfl)]))

theorem moveDevice_keeps {bl : Block} (num : ℕ) (f : ℕ) (ret : Bool) {s0 s : State} (hc0 : Keeps bl s0 s)
    (hb : bl ∉ [.out, .mail, .eng, .sch, .front, .dma, .tb, .topo, .fns] := by exact notMem_of ‹_ ∉ _› rfl) : Keeps bl s0 (moveDevice num f ret s) := by
  unfold moveDevice; try dsimp only
  repeat' (with_reducible first | assumption | intro _ | exact notMem_of hb rfl | apply leaveHandle_keeps | apply enliven_keeps | apply rekey_keeps | apply ownCtxs_keeps | apply markReturn_keeps | apply Keeps.ite | apply KeepsO.ite | apply KeepsO.next | refine takeHandle_keeps (by assumption) ?_ | split)

theorem devChange_keeps {bl : Block} (fs : List ℕ) {s0 s : State} (hc0 : Keeps bl s0 s)
    (hb : bl ∉ [.out, .eic, .fns] := by exact notMem_of ‹_ ∉ _› rfl) : Keeps bl s0 (devChange fs s) := by
  unfold devChange; try dsimp only
  repeat' (with_reducible first | assumption | intro _ | exact notMem_of hb rfl | apply raiseVf_keeps | apply each_keeps | apply Keeps.ite | apply KeepsO.ite | apply KeepsO.next | split)

theorem devAssignOp_keeps {bl : Block} (ctx : CmdCtx) (b : AssignBody) {s0 s : State} (hc0 : Keeps bl s0 s)
    (hb : bl ∉ [.out, .eic, .mail, .eng, .sch, .front, .dma, .tb, .topo, .fns] := by exact notMem_of ‹_ ∉ _› rfl) : Keeps bl s0 (devAssignOp ctx b s) := by
  unfold devAssignOp; try dsimp only
  repeat' (first | (with_reducible first | assumption | intro _ | exact notMem_of hb rfl | apply modFn_keeps | apply raise_keeps | apply isVoid_keeps | apply devChange_keeps | apply refreshIso_keeps | apply moveDevice_keeps | apply each_keeps | apply ownerOf_keeps | apply itemsWhere_keeps | apply handleWord_keeps | apply assignMoves_keeps | apply assignReply_keeps | apply reply_keeps | apply assignRefusal_keeps | apply handle_keeps | apply begun_keeps | apply Keeps.ite | apply KeepsO.ite | apply KeepsO.next | split) | ((with_reducible refine Keeps.mk ?_ ?_) <;> [skip; (cases bl <;> first | exact absurd (by decide) hb | rfl)]))

theorem devQueryOp_keeps {bl : Block} (ctx : CmdCtx) (f : ℕ) (first : ℕ) {s0 s : State} (hc0 : Keeps bl s0 s)
    (hb : bl ∉ [.out, .mail, .fns] := by exact notMem_of ‹_ ∉ _› rfl) : Keeps bl s0 (devQueryOp ctx f first s) := by
  unfold devQueryOp; try dsimp only
  repeat' (with_reducible first | assumption | intro _ | exact notMem_of hb rfl | apply devRecord_keeps | apply ownedHandles_keeps | apply vfThere_keeps | apply fn_keeps | apply reply_keeps | apply chan_keeps | apply sender_keeps | apply begun_keeps | apply Keeps.ite | apply KeepsO.ite | apply KeepsO.next | split)

theorem abortFlr_keeps {bl : Block} (i : ℕ) {s0 s : State} (hc0 : Keeps bl s0 s)
    (hb : bl ∉ [.mail, .sch, .front, .dma, .tb, .topo] := by exact notMem_of ‹_ ∉ _› rfl) : Keeps bl s0 (abortFlr i s) := by
  unfold abortFlr; try dsimp only
  repeat' (first | (with_reducible first | assumption | intro _ | exact notMem_of hb rfl | apply modItem_keeps | apply stAbortedFlr_keeps | apply stopItem_keeps | apply Keeps.ite | apply KeepsO.ite | apply KeepsO.next | split) | ((with_reducible refine Keeps.mk ?_ ?_) <;> [skip; (cases bl <;> first | exact absurd (by decide) hb | rfl)]))

theorem cancelCmds_keeps {bl : Block} (f : ℕ) {s0 s : State} (hc0 : Keeps bl s0 s)
    (hb : bl ∉ [.mail, .sch, .front, .topo, .fns] := by exact notMem_of ‹_ ∉ _› rfl) : Keeps bl s0 (cancelCmds f s) := by
  unfold cancelCmds; try dsimp only
  repeat' (first | (with_reducible first | assumption | intro _ | exact notMem_of hb rfl | apply modFn_keeps | apply fn_keeps | apply cameFrom_keeps | apply setBox_keeps | apply Keeps.ite | apply KeepsO.ite | apply KeepsO.next | split) | ((with_reducible refine Keeps.mk ?_ ?_) <;> [skip; (cases bl <;> first | exact absurd (by decide) hb | rfl)]))

theorem flrBegin_keeps {bl : Block} (f : ℕ) {s0 s : State} (hc0 : Keeps bl s0 s)
    (hb : bl ∉ [.out, .mail, .sch, .front, .dma, .tb, .topo, .fns] := by exact notMem_of ‹_ ∉ _› rfl) : Keeps bl s0 (flrBegin f s) := by
  unfold flrBegin; try dsimp only
  repeat' (first | (with_reducible first | assumption | intro _ | exact notMem_of hb rfl | apply pagesWhere_keeps | apply scrubPages_keeps | apply freeDedicated_keeps | apply cancelCmds_keeps | apply hubRung_keeps | apply dropRes_keeps | apply abortFlr_keeps | apply itemsWhere_keeps | apply freeItem_keeps | apply each_keeps | apply sq_keeps | apply now_keeps | apply modFn_keeps | apply cr_keeps | apply fn_keeps | apply Keeps.ite | apply KeepsO.ite | apply KeepsO.next | split) | ((with_reducible refine Keeps.mk ?_ ?_) <;> [skip; (cases bl <;> first | exact absurd (by decide) hb | rfl)]))

theorem dropReturns_keeps {bl : Block} (v : ℕ) {s0 s : State} (hc0 : Keeps bl s0 s)
    (hb : bl ∉ [.fns] := by exact notMem_of ‹_ ∉ _› rfl) : Keeps bl s0 (dropReturns v s) := by
  unfold dropReturns; try dsimp only
  repeat' (first | (with_reducible first | assumption | intro _ | exact notMem_of hb rfl | apply Keeps.ite | apply KeepsO.ite | apply KeepsO.next | split) | ((with_reducible refine Keeps.mk ?_ ?_) <;> [skip; (cases bl <;> first | exact absurd (by decide) hb | rfl)]))

theorem destroyVf_keeps {bl : Block} (v : ℕ) {s0 s : State} (hc0 : Keeps bl s0 s)
    (hb : bl ∉ [.out, .eic, .mail, .eng, .sch, .front, .dma, .tb, .topo, .fns] := by exact notMem_of ‹_ ∉ _› rfl) : Keeps bl s0 (destroyVf v s) := by
  unfold destroyVf; try dsimp only
  repeat' (first | (with_reducible first | assumption | intro _ | exact notMem_of hb rfl | apply refreshIso_keeps | apply funcInit_keeps | apply clearFunc_keeps | apply setFn_keeps | apply dropReturns_keeps | apply setPage_keeps | apply ownedPages_keeps | apply moveDevice_keeps | apply ownedHandles_keeps | apply each_keeps | apply fn_keeps | apply Keeps.ite | apply KeepsO.ite | apply KeepsO.next | split) | ((with_reducible refine Keeps.mk ?_ ?_) <;> [skip; (cases bl <;> first | exact absurd (by decide) hb | rfl)]))

theorem flrEnd_keeps {bl : Block} (f : ℕ) {s0 s : State} (hc0 : Keeps bl s0 s)
    (hb : bl ∉ [.out, .free, .eic, .mail, .eng, .sch, .front, .dma, .tb, .topo, .fns] := by exact notMem_of ‹_ ∉ _› rfl) : Keeps bl s0 (flrEnd f s) := by
  unfold flrEnd; try dsimp only
  repeat' (first | (with_reducible first | assumption | intro _ | exact notMem_of hb rfl | apply sweepHandles_keeps | apply funcReply_keeps | apply reply_keeps | apply destroyVf_keeps | apply raise_keeps | apply setEvt_keeps | apply resetReport_keeps | apply clearFunc_keeps | apply modFn_keeps | apply forgetSq_keeps | apply sq_keeps | apply each_keeps | apply fn_keeps | apply Keeps.ite | apply KeepsO.ite | apply KeepsO.next | split) | ((with_reducible refine Keeps.mk ?_ ?_) <;> [skip; (cases bl <;> first | exact absurd (by decide) hb | rfl)]))

theorem vfDestroyOp_keeps {bl : Block} (ctx : CmdCtx) (v : ℕ) {s0 s : State} (hc0 : Keeps bl s0 s)
    (hb : bl ∉ [.out, .mail, .sch, .front, .dma, .tb, .topo, .fns] := by exact notMem_of ‹_ ∉ _› rfl) : Keeps bl s0 (vfDestroyOp ctx v s) := by
  unfold vfDestroyOp; try dsimp only
  repeat' (first | (with_reducible first | assumption | intro _ | exact notMem_of hb rfl | apply flrBegin_keeps | apply modFn_keeps | apply funcReply_keeps | apply reply_keeps | apply fn_keeps | apply funcBar_keeps | apply begun_keeps | apply Keeps.ite | apply KeepsO.ite | apply KeepsO.next | split) | ((with_reducible refine Keeps.mk ?_ ?_) <;> [skip; (cases bl <;> first | exact absurd (by decide) hb | rfl)]))

theorem destroyAll_keeps {bl : Block} {s0 s : State} (hc0 : Keeps bl s0 s)
    (hb : bl ∉ [.out, .mail, .sch, .front, .dma, .tb, .topo, .fns] := by exact notMem_of ‹_ ∉ _› rfl) : Keeps bl s0 (destroyAll s) := by
  unfold destroyAll; try dsimp only
  repeat' (first | (with_reducible first | assumption | intro _ | exact notMem_of hb rfl | apply flrBegin_keeps | apply modFn_keeps | apply fn_keeps | apply each_keeps | apply Keeps.ite | apply KeepsO.ite | apply KeepsO.next | split) | ((with_reducible refine Keeps.mk ?_ ?_) <;> [skip; (cases bl <;> first | exact absurd (by decide) hb | rfl)]))

theorem execVfEnableSet_keeps {bl : Block} (numVFs : Fin 128) {s0 s : State} (hc0 : Keeps bl s0 s)
    (hb : bl ∉ [.fns] := by exact notMem_of ‹_ ∉ _› rfl) : KeepsO bl s0 (execVfEnableSet numVFs s) := by
  unfold execVfEnableSet; try dsimp only
  repeat' (first | (with_reducible first | assumption | intro _ | exact notMem_of hb rfl | apply modFn_keeps | apply each_keeps | apply live_keeps | apply guarded_keeps | apply Keeps.ite | apply KeepsO.ite | apply KeepsO.next | split) | ((with_reducible refine Keeps.mk ?_ ?_) <;> [skip; (cases bl <;> first | exact absurd (by decide) hb | rfl)]))

theorem execVfEnableClear_keeps {bl : Block} {s0 s : State} (hc0 : Keeps bl s0 s)
    (hb : bl ∉ [.out, .mail, .sch, .front, .dma, .tb, .topo, .fns] := by exact notMem_of ‹_ ∉ _› rfl) : KeepsO bl s0 (execVfEnableClear s) := by
  unfold execVfEnableClear; try dsimp only
  repeat' (with_reducible first | assumption | intro _ | exact notMem_of hb rfl | apply destroyAll_keeps | apply live_keeps | apply guarded_keeps | apply Keeps.ite | apply KeepsO.ite | apply KeepsO.next | split)

theorem sendReplies_keeps {bl : Block} (f : ℕ) {s0 s : State} (hc0 : Keeps bl s0 s)
    (hb : bl ∉ [.out, .mail, .fns] := by exact notMem_of ‹_ ∉ _› rfl) : Keeps bl s0 (sendReplies f s) := by
  unfold sendReplies; try dsimp only
  repeat' (first | (with_reducible first | assumption | intro _ | exact notMem_of hb rfl | apply modBox_keeps | apply answeredBox_keeps | apply writeReply_keeps | apply each_keeps | apply box_keeps | apply Keeps.ite | apply KeepsO.ite | apply KeepsO.next | split) | ((with_reducible refine Keeps.mk ?_ ?_) <;> [skip; (cases bl <;> first | exact absurd (by decide) hb | rfl)]))

theorem execBusMasterEnableChange_keeps {bl : Block} (f : FuncId) (on : Bool) {s0 s : State} (hc0 : Keeps bl s0 s)
    (hb : bl ∉ [.out, .mail, .sch, .front, .fns] := by exact notMem_of ‹_ ∉ _› rfl) : KeepsO bl s0 (execBusMasterEnableChange f on s) := by
  unfold execBusMasterEnableChange; try dsimp only
  repeat' (first | (with_reducible first | assumption | intro _ | exact notMem_of hb rfl | apply msixRelease_keeps | apply sendReplies_keeps | apply crDrain_keeps | apply cr_keeps | apply tkeys_keeps | apply each_keeps | apply modFn_keeps | apply fn_keeps | apply live_keeps | apply guarded_keeps | apply Keeps.ite | apply KeepsO.ite | apply KeepsO.next | split) | ((with_reducible refine Keeps.mk ?_ ?_) <;> [skip; (cases bl <;> first | exact absurd (by decide) hb | rfl)]))

theorem execVfCreate_keeps {bl : Block} (ctx : CmdCtx) (d : FuncDesc) {s0 s : State} (hc0 : Keeps bl s0 s)
    (hb : bl ∉ [.out, .mail, .dma, .fns] := by exact notMem_of ‹_ ∉ _› rfl) : KeepsO bl s0 (execVfCreate ctx d s) := by
  unfold execVfCreate; try dsimp only
  repeat' (with_reducible first | assumption | intro _ | exact notMem_of hb rfl | apply vfCreateOp_keeps | apply live_keeps | apply guarded_keeps | apply Keeps.ite | apply KeepsO.ite | apply KeepsO.next | split)

theorem execVfDestroy_keeps {bl : Block} (ctx : CmdCtx) (v : Byte) {s0 s : State} (hc0 : Keeps bl s0 s)
    (hb : bl ∉ [.out, .mail, .sch, .front, .dma, .tb, .topo, .fns] := by exact notMem_of ‹_ ∉ _› rfl) : KeepsO bl s0 (execVfDestroy ctx v s) := by
  unfold execVfDestroy; try dsimp only
  repeat' (with_reducible first | assumption | intro _ | exact notMem_of hb rfl | apply vfDestroyOp_keeps | apply live_keeps | apply guarded_keeps | apply Keeps.ite | apply KeepsO.ite | apply KeepsO.next | split)

theorem execFuncModify_keeps {bl : Block} (ctx : CmdCtx) (d : FuncDesc) {s0 s : State} (hc0 : Keeps bl s0 s)
    (hb : bl ∉ [.out, .eic, .mail, .dma, .fns] := by exact notMem_of ‹_ ∉ _› rfl) : KeepsO bl s0 (execFuncModify ctx d s) := by
  unfold execFuncModify; try dsimp only
  repeat' (with_reducible first | assumption | intro _ | exact notMem_of hb rfl | apply funcModifyOp_keeps | apply live_keeps | apply guarded_keeps | apply Keeps.ite | apply KeepsO.ite | apply KeepsO.next | split)

theorem execFuncQuery_keeps {bl : Block} (ctx : CmdCtx) (v : Byte) {s0 s : State} (hc0 : Keeps bl s0 s)
    (hb : bl ∉ [.out, .mail, .fns] := by exact notMem_of ‹_ ∉ _› rfl) : KeepsO bl s0 (execFuncQuery ctx v s) := by
  unfold execFuncQuery; try dsimp only
  repeat' (with_reducible first | assumption | intro _ | exact notMem_of hb rfl | apply funcQueryOp_keeps | apply live_keeps | apply guarded_keeps | apply Keeps.ite | apply KeepsO.ite | apply KeepsO.next | split)

theorem execDevAssign_keeps {bl : Block} (ctx : CmdCtx) (body : AssignBody) {s0 s : State} (hc0 : Keeps bl s0 s)
    (hb : bl ∉ [.out, .eic, .mail, .eng, .sch, .front, .dma, .tb, .topo, .fns] := by exact notMem_of ‹_ ∉ _› rfl) : KeepsO bl s0 (execDevAssign ctx body s) := by
  unfold execDevAssign; try dsimp only
  repeat' (with_reducible first | assumption | intro _ | exact notMem_of hb rfl | apply devAssignOp_keeps | apply live_keeps | apply guarded_keeps | apply Keeps.ite | apply KeepsO.ite | apply KeepsO.next | split)

theorem execDevQuery_keeps {bl : Block} (ctx : CmdCtx) (func : Byte) (first : U16) {s0 s : State} (hc0 : Keeps bl s0 s)
    (hb : bl ∉ [.out, .mail, .fns] := by exact notMem_of ‹_ ∉ _› rfl) : KeepsO bl s0 (execDevQuery ctx func first s) := by
  unfold execDevQuery; try dsimp only
  repeat' (with_reducible first | assumption | intro _ | exact notMem_of hb rfl | apply devQueryOp_keeps | apply live_keeps | apply guarded_keeps | apply Keeps.ite | apply KeepsO.ite | apply KeepsO.next | split)

theorem execDirtyMapWrite_keeps {bl : Block} (v : FuncId) (page : ℕ) {s0 s : State} (hc0 : Keeps bl s0 s)
    (hb : bl ∉ [.out, .fns] := by exact notMem_of ‹_ ∉ _› rfl) : KeepsO bl s0 (execDirtyMapWrite v page s) := by
  unfold execDirtyMapWrite; try dsimp only
  repeat' (first | (with_reducible first | assumption | intro _ | exact notMem_of hb rfl | apply setFn_keeps | apply hostWrite_keeps | apply fn_keeps | apply live_keeps | apply guarded_keeps | apply page_keeps | apply Keeps.ite | apply KeepsO.ite | apply KeepsO.next | split) | ((with_reducible refine Keeps.mk ?_ ?_) <;> [skip; (cases bl <;> first | exact absurd (by decide) hb | rfl)]))

theorem execVfFlr_keeps {bl : Block} (v : FuncId) {s0 s : State} (hc0 : Keeps bl s0 s)
    (hb : bl ∉ [.out, .mail, .sch, .front, .dma, .tb, .topo, .fns] := by exact notMem_of ‹_ ∉ _› rfl) : KeepsO bl s0 (execVfFlr v s) := by
  unfold execVfFlr; try dsimp only
  repeat' (with_reducible first | assumption | intro _ | exact notMem_of hb rfl | apply flrBegin_keeps | apply vfThere_keeps | apply isActive_keeps | apply live_keeps | apply guarded_keeps | apply Keeps.ite | apply KeepsO.ite | apply KeepsO.next | split)

theorem execVfResetDone_keeps {bl : Block} (v : FuncId) {s0 s : State} (hc0 : Keeps bl s0 s)
    (hb : bl ∉ [.out, .free, .eic, .mail, .eng, .sch, .front, .dma, .tb, .topo, .fns] := by exact notMem_of ‹_ ∉ _› rfl) : KeepsO bl s0 (execVfResetDone v s) := by
  unfold execVfResetDone; try dsimp only
  repeat' (with_reducible first | assumption | intro _ | exact notMem_of hb rfl | apply flrEnd_keeps | apply flrOver_keeps | apply live_keeps | apply guarded_keeps | apply Keeps.ite | apply KeepsO.ite | apply KeepsO.next | split)

theorem execPf0Flr_keeps {bl : Block} {s0 s : State} (hc0 : Keeps bl s0 s)
    (hb : bl ∉ [.out, .mail, .sch, .front, .dma, .tb, .topo, .fns] := by exact notMem_of ‹_ ∉ _› rfl) : KeepsO bl s0 (execPf0Flr s) := by
  unfold execPf0Flr; try dsimp only
  repeat' (with_reducible first | assumption | intro _ | exact notMem_of hb rfl | apply destroyAll_keeps | apply flrBegin_keeps | apply isActive_keeps | apply live_keeps | apply guarded_keeps | apply Keeps.ite | apply KeepsO.ite | apply KeepsO.next | split)

end Sys2Proof.Machine
end

