-- ==== Sys2Proof/Laws/KeepsParts.lean ====
section
/-! SUPPORT. Which blocks of the state an operation leaves as they are, continued: the operations of the pair, PCTL_B, firmware, mailboxes, power and registers. -/

set_option linter.unusedTactic false
set_option linter.unreachableTactic false

namespace Sys2Proof.Machine

set_option Elab.async false

theorem freeAcked_keeps {bl : Block} (ack : U32) {s0 s : State} (hc0 : Keeps bl s0 s)
    (hb : bl ∉ [.pair] := by exact notMem_of ‹_ ∉ _› rfl) : Keeps bl s0 (freeAcked ack s) := by
  unfold freeAcked; try dsimp only
  repeat' (first | (with_reducible first | assumption | intro _ | exact notMem_of hb rfl | apply Keeps.ite | apply KeepsO.ite | apply KeepsO.next | split) | ((with_reducible refine Keeps.mk ?_ ?_) <;> [skip; (cases bl <;> first | exact absurd (by decide) hb | rfl)]))

theorem sendNak_keeps {bl : Block} {s0 s : State} (hc0 : Keeps bl s0 s)
    (hb : bl ∉ [.out, .pair] := by exact notMem_of ‹_ ∉ _› rfl) : Keeps bl s0 (sendNak s) := by
  unfold sendNak; try dsimp only
  repeat' (first | (with_reducible first | assumption | intro _ | exact notMem_of hb rfl | apply xbkSendOnce_keeps | apply Keeps.ite | apply KeepsO.ite | apply KeepsO.next | split) | ((with_reducible refine Keeps.mk ?_ ?_) <;> [skip; (cases bl <;> first | exact absurd (by decide) hb | rfl)]))

theorem noteGap_keeps {bl : Block} (q : U32) (n : ℕ) {s0 s : State} (hc0 : Keeps bl s0 s)
    (hb : bl ∉ [.out, .pair] := by exact notMem_of ‹_ ∉ _› rfl) : Keeps bl s0 (noteGap q n s) := by
  unfold noteGap; try dsimp only
  repeat' (with_reducible first | assumption | intro _ | exact notMem_of hb rfl | apply sendNak_keeps | apply Keeps.ite | apply KeepsO.ite | apply KeepsO.next | split)

theorem kept_keeps {bl : Block} (h : XbkHdr) (f : State → State) {s0 s : State} (hf : ∀ v0, Keeps bl s0 v0 → Keeps bl s0 (f v0)) (hc0 : Keeps bl s0 s)
    (hb : bl ∉ [.out, .pair] := by exact notMem_of ‹_ ∉ _› rfl) : Keeps bl s0 (kept h f s) := by
  unfold kept; try dsimp only
  repeat' (first | (with_reducible first | assumption | intro _ | exact notMem_of hb rfl | apply hf | apply noteGap_keeps | apply freeAcked_keeps | apply Keeps.ite | apply KeepsO.ite | apply KeepsO.next | split) | ((with_reducible refine Keeps.mk ?_ ?_) <;> [skip; (cases bl <;> first | exact absurd (by decide) hb | rfl)]))

theorem once_keeps {bl : Block} (h : XbkHdr) (f : State → State) {s0 s : State} (hf : ∀ v0, Keeps bl s0 v0 → Keeps bl s0 (f v0)) (hc0 : Keeps bl s0 s)
    (hb : bl ∉ [.out, .pair] := by exact notMem_of ‹_ ∉ _› rfl) : Keeps bl s0 (once h f s) := by
  unfold once; try dsimp only
  repeat' (with_reducible first | assumption | intro _ | exact notMem_of hb rfl | apply hf | apply freeAcked_keeps | apply noteGap_keeps | apply Keeps.ite | apply KeepsO.ite | apply KeepsO.next | split)

theorem sendIdent_keeps {bl : Block} {s0 s : State} (hc0 : Keeps bl s0 s)
    (hb : bl ∉ [.out, .pair] := by exact notMem_of ‹_ ∉ _› rfl) : Keeps bl s0 (sendIdent s) := by
  unfold sendIdent; try dsimp only
  repeat' (with_reducible first | assumption | intro _ | exact notMem_of hb rfl | apply pairCode_keeps | apply xbkSend_keeps | apply Keeps.ite | apply KeepsO.ite | apply KeepsO.next | split)

theorem setPair_keeps {bl : Block} (st : PairSt) {s0 s : State} (hc0 : Keeps bl s0 s)
    (hb : bl ∉ [.pair] := by exact notMem_of ‹_ ∉ _› rfl) : Keeps bl s0 (setPair st s) := by
  unfold setPair; try dsimp only
  repeat' (first | (with_reducible first | assumption | intro _ | exact notMem_of hb rfl | apply Keeps.ite | apply KeepsO.ite | apply KeepsO.next | split) | ((with_reducible refine Keeps.mk ?_ ?_) <;> [skip; (cases bl <;> first | exact absurd (by decide) hb | rfl)]))

theorem goStale_keeps {bl : Block} {s0 s : State} (hc0 : Keeps bl s0 s)
    (hb : bl ∉ [.out, .eic, .fns, .pair] := by exact notMem_of ‹_ ∉ _› rfl) : Keeps bl s0 (goStale s) := by
  unfold goStale; try dsimp only
  repeat' (with_reducible first | assumption | intro _ | exact notMem_of hb rfl | apply setPair_keeps | apply raise_keeps | apply Keeps.ite | apply KeepsO.ite | apply KeepsO.next | split)

theorem goAlone_keeps {bl : Block} {s0 s : State} (hc0 : Keeps bl s0 s)
    (hb : bl ∉ [.out, .pair] := by exact notMem_of ‹_ ∉ _› rfl) : Keeps bl s0 (goAlone s) := by
  unfold goAlone; try dsimp only
  repeat' (first | (with_reducible first | assumption | intro _ | exact notMem_of hb rfl | apply emit_keeps | apply Keeps.ite | apply KeepsO.ite | apply KeepsO.next | split) | ((with_reducible refine Keeps.mk ?_ ?_) <;> [skip; (cases bl <;> first | exact absurd (by decide) hb | rfl)]))

theorem goSync_keeps {bl : Block} {s0 s : State} (hc0 : Keeps bl s0 s)
    (hb : bl ∉ [.out, .eic, .fns, .pair] := by exact notMem_of ‹_ ∉ _› rfl) : Keeps bl s0 (goSync s) := by
  unfold goSync; try dsimp only
  repeat' (first | (with_reducible first | assumption | intro _ | exact notMem_of hb rfl | apply setPair_keeps | apply goStale_keeps | apply homesAgree_keeps | apply Keeps.ite | apply KeepsO.ite | apply KeepsO.next | split) | ((with_reducible refine Keeps.mk ?_ ?_) <;> [skip; (cases bl <;> first | exact absurd (by decide) hb | rfl)]))

theorem partnerState_keeps {bl : Block} (n : ℕ) {s0 s : State} (hc0 : Keeps bl s0 s)
    (hb : bl ∉ [.out, .eic, .fns, .pair] := by exact notMem_of ‹_ ∉ _› rfl) : Keeps bl s0 (partnerState n s) := by
  unfold partnerState; try dsimp only
  repeat' (first | (with_reducible first | assumption | intro _ | exact notMem_of hb rfl | apply goSync_keeps | apply setPair_keeps | apply raise_keeps | apply Keeps.ite | apply KeepsO.ite | apply KeepsO.next | split) | ((with_reducible refine Keeps.mk ?_ ?_) <;> [skip; (cases bl <;> first | exact absurd (by decide) hb | rfl)]))

theorem enterConflict_keeps {bl : Block} {s0 s : State} (hc0 : Keeps bl s0 s)
    (hb : bl ∉ [.out, .eic, .mail, .eng, .sch, .front, .dma, .tb, .topo, .fns, .pair] := by exact notMem_of ‹_ ∉ _› rfl) : Keeps bl s0 (enterConflict s) := by
  unfold enterConflict; try dsimp only
  repeat' (first | (with_reducible first | assumption | intro _ | exact notMem_of hb rfl | apply raise_keeps | apply emit_keeps | apply disablePort_keeps | apply port_keeps | apply each_keeps | apply Keeps.ite | apply KeepsO.ite | apply KeepsO.next | split) | ((with_reducible refine Keeps.mk ?_ ?_) <;> [skip; (cases bl <;> first | exact absurd (by decide) hb | rfl)]))

theorem gotIdentRec_keeps {bl : Block} (id : ℕ) (st : ℕ) (step : ℕ) (home : ℕ) (ver : U32) {s0 s : State} (hc0 : Keeps bl s0 s)
    (hb : bl ∉ [.out, .eic, .mail, .eng, .sch, .front, .dma, .tb, .topo, .fns, .pair] := by exact notMem_of ‹_ ∉ _› rfl) : Keeps bl s0 (gotIdentRec id st step home ver s) := by
  unfold gotIdentRec; try dsimp only
  repeat' (first | (with_reducible first | assumption | intro _ | exact notMem_of hb rfl | apply xbkSend_keeps | apply partnerState_keeps | apply enterConflict_keeps | apply raise_keeps | apply Keeps.ite | apply KeepsO.ite | apply KeepsO.next | split) | ((with_reducible refine Keeps.mk ?_ ?_) <;> [skip; (cases bl <;> first | exact absurd (by decide) hb | rfl)]))

theorem gotClaim_keeps {bl : Block} {s0 s : State} (hc0 : Keeps bl s0 s)
    (hb : bl ∉ [.out, .eic, .fns, .pair] := by exact notMem_of ‹_ ∉ _› rfl) : Keeps bl s0 (gotClaim s) := by
  unfold gotClaim; try dsimp only
  repeat' (with_reducible first | assumption | intro _ | exact notMem_of hb rfl | apply goSync_keeps | apply xbkSend_keeps | apply isActive_keeps | apply Keeps.ite | apply KeepsO.ite | apply KeepsO.next | split)

theorem gotAnswer_keeps {bl : Block} (res : ℕ) {s0 s : State} (hc0 : Keeps bl s0 s)
    (hb : bl ∉ [.out, .eic, .fns, .pair] := by exact notMem_of ‹_ ∉ _› rfl) : Keeps bl s0 (gotAnswer res s) := by
  unfold gotAnswer; try dsimp only
  repeat' (with_reducible first | assumption | intro _ | exact notMem_of hb rfl | apply goSync_keeps | apply goAlone_keeps | apply Keeps.ite | apply KeepsO.ite | apply KeepsO.next | split)

theorem trigger_keeps {bl : Block} (notBefore : ℕ) (cause : ℕ) {s0 s : State} (hc0 : Keeps bl s0 s)
    (hb : bl ∉ [.pair] := by exact notMem_of ‹_ ∉ _› rfl) : Keeps bl s0 (trigger notBefore cause s) := by
  unfold trigger; try dsimp only
  repeat' (first | (with_reducible first | assumption | intro _ | exact notMem_of hb rfl | apply Keeps.ite | apply KeepsO.ite | apply KeepsO.next | split) | ((with_reducible refine Keeps.mk ?_ ?_) <;> [skip; (cases bl <;> first | exact absurd (by decide) hb | rfl)]))

theorem triggerNow_keeps {bl : Block} (cause : ℕ) {s0 s : State} (hc0 : Keeps bl s0 s)
    (hb : bl ∉ [.pair] := by exact notMem_of ‹_ ∉ _› rfl) : Keeps bl s0 (triggerNow cause s) := by
  unfold triggerNow; try dsimp only
  repeat' (with_reducible first | assumption | intro _ | exact notMem_of hb rfl | apply now_keeps | apply trigger_keeps | apply Keeps.ite | apply KeepsO.ite | apply KeepsO.next | split)

theorem pctlCommand_keeps {bl : Block} (typ : ℕ) (j : ℕ) (payload : List Byte) (g : ℕ) {s0 s : State} (hc0 : Keeps bl s0 s)
    (hb : bl ∉ [.out, .ctl] := by exact notMem_of ‹_ ∉ _› rfl) : Keeps bl s0 (pctlCommand typ j payload g s) := by
  unfold pctlCommand; try dsimp only
  repeat' (first | (with_reducible first | assumption | intro _ | exact notMem_of hb rfl | apply tput_keeps | apply pctlSend_keeps | apply tget_keeps | apply Keeps.ite | apply KeepsO.ite | apply KeepsO.next | split) | ((with_reducible refine Keeps.mk ?_ ?_) <;> [skip; (cases bl <;> first | exact absurd (by decide) hb | rfl)]))

theorem pctlClaim_keeps {bl : Block} (typ : ℕ) (g : ℕ) {s0 s : State} (hc0 : Keeps bl s0 s)
    (hb : bl ∉ [.out, .ctl] := by exact notMem_of ‹_ ∉ _› rfl) : Keeps bl s0 (pctlClaim typ g s) := by
  unfold pctlClaim; try dsimp only
  repeat' (with_reducible first | assumption | intro _ | exact notMem_of hb rfl | apply pctlCommand_keeps | apply Keeps.ite | apply KeepsO.ite | apply KeepsO.next | split)

theorem failoverRec_keeps {bl : Block} (f q : Nat) {s0 s : State} (hc0 : Keeps bl s0 s)
    (hb : bl ∉ [.free] := by exact notMem_of ‹_ ∉ _› rfl) : Keeps bl s0 (failoverRec f q s).2 :=
  freshIndex_keeps (freshIndex_keeps hc0)

theorem failoverEntry_keeps {bl : Block} (f : ℕ) (q : ℕ) (i : U16) {s0 s : State} (hc0 : Keeps bl s0 s)
    (hb : bl ∉ [.out, .free, .eic, .mail, .sch, .front, .dma, .tb, .topo, .fns] := by exact notMem_of ‹_ ∉ _› rfl) : Keeps bl s0 (failoverEntry f q i s) := by
  unfold failoverEntry; try dsimp only
  repeat' (with_reducible first | assumption | intro _ | exact notMem_of hb rfl | apply sqCr_keeps | apply crPut_keeps | apply failoverRec_keeps | apply stFailover_keeps | apply finish_keeps | apply itemAt_keeps | apply Keeps.ite | apply KeepsO.ite | apply KeepsO.next | split)

theorem failoverSq_keeps {bl : Block} (f : ℕ) (q : ℕ) {s0 s : State} (hc0 : Keeps bl s0 s)
    (hb : bl ∉ [.out, .free, .eic, .mail, .sch, .front, .dma, .tb, .topo, .fns] := by exact notMem_of ‹_ ∉ _› rfl) : Keeps bl s0 (failoverSq f q s) := by
  unfold failoverSq; try dsimp only
  repeat' (with_reducible first | assumption | intro _ | exact notMem_of hb rfl | apply failoverEntry_keeps | apply done_keeps | apply each_keeps | apply sq_keeps | apply Keeps.ite | apply KeepsO.ite | apply KeepsO.next | split)

theorem signalCounted_keeps {bl : Block} {s0 s : State} (hc0 : Keeps bl s0 s)
    (hb : bl ∉ [.out, .fns] := by exact notMem_of ‹_ ∉ _› rfl) : Keeps bl s0 (signalCounted s) := by
  unfold signalCounted; try dsimp only
  repeat' (with_reducible first | assumption | intro _ | exact notMem_of hb rfl | apply msixDue_keeps | apply fn_keeps | apply createdFuncs_keeps | apply each_keeps | apply Keeps.ite | apply KeepsO.ite | apply KeepsO.next | split)

theorem claimDies_keeps {bl : Block} {s0 s : State} (hc0 : Keeps bl s0 s)
    (hb : bl ∉ [.out, .ctl] := by exact notMem_of ‹_ ∉ _› rfl) : Keeps bl s0 (claimDies s) := by
  unfold claimDies; try dsimp only
  repeat' (with_reducible first | assumption | intro _ | exact notMem_of hb rfl | apply pctlClaim_keeps | apply tget_keeps | apply homeOf_keeps | apply each_keeps | apply Keeps.ite | apply KeepsO.ite | apply KeepsO.next | split)

theorem takeoverNotices_keeps {bl : Block} {s0 s : State} (hc0 : Keeps bl s0 s)
    (hb : bl ∉ [.out, .mail, .fns, .pair] := by exact notMem_of ‹_ ∉ _› rfl) : Keeps bl s0 (takeoverNotices s) := by
  unfold takeoverNotices; try dsimp only
  repeat' (first | (with_reducible first | assumption | intro _ | exact notMem_of hb rfl | apply postOut_keeps | apply createdFuncs_keeps | apply each_keeps | apply Keeps.ite | apply KeepsO.ite | apply KeepsO.next | split) | ((with_reducible refine Keeps.mk ?_ ?_) <;> [skip; (cases bl <;> first | exact absurd (by decide) hb | rfl)]))

theorem writeAgain_keeps {bl : Block} {s0 s : State} (hc0 : Keeps bl s0 s)
    (hb : bl ∉ [.out, .fns, .pair] := by exact notMem_of ‹_ ∉ _› rfl) : Keeps bl s0 (writeAgain s) := by
  unfold writeAgain; try dsimp only
  repeat' (first | (with_reducible first | assumption | intro _ | exact notMem_of hb rfl | apply hostWrite_keeps | apply cr_keeps | apply each_keeps | apply Keeps.ite | apply KeepsO.ite | apply KeepsO.next | split) | ((with_reducible refine Keeps.mk ?_ ?_) <;> [skip; (cases bl <;> first | exact absurd (by decide) hb | rfl)]))

theorem takeTable_keeps {bl : Block} {s0 s : State} (hc0 : Keeps bl s0 s)
    (hb : bl ∉ [.out, .mail, .sch, .front, .dma, .tb, .topo, .fns] := by exact notMem_of ‹_ ∉ _› rfl) : Keeps bl s0 (takeTable s) := by
  unfold takeTable; try dsimp only
  repeat' (first | (with_reducible first | assumption | intro _ | exact notMem_of hb rfl | apply recompile_keeps | apply each_keeps | apply eng_keeps | apply swapIfPending_keeps | apply Keeps.ite | apply KeepsO.ite | apply KeepsO.next | split) | ((with_reducible refine Keeps.mk ?_ ?_) <;> [skip; (cases bl <;> first | exact absurd (by decide) hb | rfl)]))

theorem takeOver_keeps {bl : Block} (cause : ℕ) {s0 s : State} (hc0 : Keeps bl s0 s)
    (hb : bl ∉ [.out, .free, .eic, .mail, .eng, .sch, .front, .dma, .tb, .topo, .fns, .pair, .ctl] := by exact notMem_of ‹_ ∉ _› rfl) : Keeps bl s0 (takeOver cause s) := by
  unfold takeOver; try dsimp only
  repeat' (first | (with_reducible first | assumption | intro _ | exact notMem_of hb rfl | apply writeAgain_keeps | apply signalCounted_keeps | apply takeoverNotices_keeps | apply raise_keeps | apply failoverSq_keeps | apply sq_keeps | apply fn_keeps | apply createdFuncs_keeps | apply claimDies_keeps | apply linkRecovery_keeps | apply serdes_keeps | apply port_keeps | apply boundarySof_keeps | apply each_keeps | apply takeTable_keeps | apply epoch32_keeps | apply emit_keeps | apply Keeps.ite | apply KeepsO.ite | apply KeepsO.next | split) | ((with_reducible refine Keeps.mk ?_ ?_) <;> [skip; (cases bl <;> first | exact absurd (by decide) hb | rfl)]))

theorem execTakeover_keeps {bl : Block} {s0 s : State} (hc0 : Keeps bl s0 s)
    (hb : bl ∉ [.out, .free, .eic, .mail, .eng, .sch, .front, .dma, .tb, .topo, .fns, .pair, .ctl] := by exact notMem_of ‹_ ∉ _› rfl) : KeepsO bl s0 (execTakeover s) := by
  unfold execTakeover; try dsimp only
  repeat' (with_reducible first | assumption | intro _ | exact notMem_of hb rfl | apply takeOver_keeps | apply takeoverDue_keeps | apply live_keeps | apply guarded_keeps | apply Keeps.ite | apply KeepsO.ite | apply KeepsO.next | split)

theorem execXebirokLinkUp_keeps {bl : Block} (lanes : Fin 5) {s0 s : State} (hc0 : Keeps bl s0 s)
    (hb : bl ∉ [.out, .pair] := by exact notMem_of ‹_ ∉ _› rfl) : KeepsO bl s0 (execXebirokLinkUp lanes s) := by
  unfold execXebirokLinkUp; try dsimp only
  repeat' (first | (with_reducible first | assumption | intro _ | exact notMem_of hb rfl | apply sendIdent_keeps | apply live_keeps | apply guarded_keeps | apply Keeps.ite | apply KeepsO.ite | apply KeepsO.next | split) | ((with_reducible refine Keeps.mk ?_ ?_) <;> [skip; (cases bl <;> first | exact absurd (by decide) hb | rfl)]))

theorem execLaneDown_keeps {bl : Block} (lane : Fin 4) {s0 s : State} (hc0 : Keeps bl s0 s)
    (hb : bl ∉ [.out, .eic, .fns, .pair] := by exact notMem_of ‹_ ∉ _› rfl) : KeepsO bl s0 (execLaneDown lane s) := by
  unfold execLaneDown; try dsimp only
  repeat' (first | (with_reducible first | assumption | intro _ | exact notMem_of hb rfl | apply linkDown_keeps | apply raise_keeps | apply hearsXbk_keeps | apply guarded_keeps | apply Keeps.ite | apply KeepsO.ite | apply KeepsO.next | split) | ((with_reducible refine Keeps.mk ?_ ?_) <;> [skip; (cases bl <;> first | exact absurd (by decide) hb | rfl)]))

theorem resend_keeps {bl : Block} (k : Kept) {s0 s : State} (hc0 : Keeps bl s0 s)
    (hb : bl ∉ [.out, .eic, .mail, .eng, .sch, .front, .dma, .tb, .topo, .fns, .slots, .err, .pair] := by exact notMem_of ‹_ ∉ _› rfl) : Keeps bl s0 (resend k s) := by
  unfold resend; try dsimp only
  repeat' (with_reducible first | assumption | intro _ | exact notMem_of hb rfl | apply xbkRecord_keeps | apply emit_keeps | apply countError_keeps | apply Keeps.ite | apply KeepsO.ite | apply KeepsO.next | split)

theorem execXbkNak_keeps {bl : Block} (h : XbkHdr) (seq : U32) {s0 s : State} (hc0 : Keeps bl s0 s)
    (hb : bl ∉ [.out, .eic, .mail, .eng, .sch, .front, .dma, .tb, .topo, .fns, .slots, .err, .pair] := by exact notMem_of ‹_ ∉ _› rfl) : KeepsO bl s0 (execXbkNak h seq s) := by
  unfold execXbkNak; try dsimp only
  repeat' (with_reducible first | assumption | intro _ | exact notMem_of hb rfl | apply linkDown_keeps | apply resend_keeps | apply each_keeps | apply once_keeps | apply hearsXbk_keeps | apply guarded_keeps | apply Keeps.ite | apply KeepsO.ite | apply KeepsO.next | split)

theorem execXebirokRecordError_keeps {bl : Block} {s0 s : State} (hc0 : Keeps bl s0 s)
    (hb : bl ∉ [.out, .eic, .mail, .eng, .sch, .front, .dma, .tb, .topo, .fns, .slots, .err, .pair] := by exact notMem_of ‹_ ∉ _› rfl) : KeepsO bl s0 (execXebirokRecordError s) := by
  unfold execXebirokRecordError; try dsimp only
  repeat' (with_reducible first | assumption | intro _ | exact notMem_of hb rfl | apply countError_keeps | apply sendNak_keeps | apply hearsXbk_keeps | apply guarded_keeps | apply Keeps.ite | apply KeepsO.ite | apply KeepsO.next | split)

theorem execAckOnly_keeps {bl : Block} (h : XbkHdr) {s0 s : State} (hc0 : Keeps bl s0 s)
    (hb : bl ∉ [.out, .pair] := by exact notMem_of ‹_ ∉ _› rfl) : KeepsO bl s0 (execAckOnly h s) :=
  guarded_keeps _ _ (fun _ k => once_keeps _ _ (fun _ k => k) k) hc0

theorem execAckOnlyTimer_keeps {bl : Block} {s0 s : State} (hc0 : Keeps bl s0 s)
    (hb : bl ∉ [.out, .pair] := by exact notMem_of ‹_ ∉ _› rfl) : KeepsO bl s0 (execAckOnlyTimer s) := by
  unfold execAckOnlyTimer; try dsimp only
  repeat' (with_reducible first | assumption | intro _ | exact notMem_of hb rfl | apply xbkSendOnce_keeps | apply hearsXbk_keeps | apply guarded_keeps | apply Keeps.ite | apply KeepsO.ite | apply KeepsO.next | split)

theorem execIdent_keeps {bl : Block} (h : XbkHdr) (pairId : Byte) (st : Byte) (step : Byte) (version : U32) (home : Byte) (numVFs : Byte) {s0 s : State} (hc0 : Keeps bl s0 s)
    (hb : bl ∉ [.out, .eic, .mail, .eng, .sch, .front, .dma, .tb, .topo, .fns, .pair] := by exact notMem_of ‹_ ∉ _› rfl) : KeepsO bl s0 (execIdent h pairId st step version home numVFs s) := by
  unfold execIdent; try dsimp only
  repeat' (with_reducible first | assumption | intro _ | exact notMem_of hb rfl | apply gotIdentRec_keeps | apply kept_keeps | apply hearsXbk_keeps | apply guarded_keeps | apply Keeps.ite | apply KeepsO.ite | apply KeepsO.next | split)

theorem execXbkClaim_keeps {bl : Block} (h : XbkHdr) (pairId : Byte) (role : Byte) {s0 s : State} (hc0 : Keeps bl s0 s)
    (hb : bl ∉ [.out, .eic, .fns, .pair] := by exact notMem_of ‹_ ∉ _› rfl) : KeepsO bl s0 (execXbkClaim h pairId role s) := by
  unfold execXbkClaim; try dsimp only
  repeat' (with_reducible first | assumption | intro _ | exact notMem_of hb rfl | apply gotClaim_keeps | apply kept_keeps | apply hearsXbk_keeps | apply guarded_keeps | apply Keeps.ite | apply KeepsO.ite | apply KeepsO.next | split)

theorem execClaimAnswer_keeps {bl : Block} (h : XbkHdr) (pairId : Byte) (result : Byte) {s0 s : State} (hc0 : Keeps bl s0 s)
    (hb : bl ∉ [.out, .eic, .fns, .pair] := by exact notMem_of ‹_ ∉ _› rfl) : KeepsO bl s0 (execClaimAnswer h pairId result s) := by
  unfold execClaimAnswer; try dsimp only
  repeat' (with_reducible first | assumption | intro _ | exact notMem_of hb rfl | apply gotAnswer_keeps | apply kept_keeps | apply hearsXbk_keeps | apply guarded_keeps | apply Keeps.ite | apply KeepsO.ite | apply KeepsO.next | split)

theorem execHeartbeat_keeps {bl : Block} (h : XbkHdr) (st : Byte) (u : Byte) (epoch : BitVec 48) (shadowSeq : U32) {s0 s : State} (hc0 : Keeps bl s0 s)
    (hb : bl ∉ [.out, .eic, .fns, .pair] := by exact notMem_of ‹_ ∉ _› rfl) : KeepsO bl s0 (execHeartbeat h st u epoch shadowSeq s) := by
  unfold execHeartbeat; try dsimp only
  repeat' (first | (with_reducible first | assumption | intro _ | exact notMem_of hb rfl | apply partnerState_keeps | apply once_keeps | apply hearsXbk_keeps | apply guarded_keeps | apply Keeps.ite | apply KeepsO.ite | apply KeepsO.next | split) | ((with_reducible refine Keeps.mk ?_ ?_) <;> [skip; (cases bl <;> first | exact absurd (by decide) hb | rfl)]))

theorem followTime_keeps {bl : Block} (epoch : BitVec 48) (len : ℕ) (lock : ℕ) (m1 : U16) {s0 s : State} (hc0 : Keeps bl s0 s)
    (hb : bl ∉ [.tb, .pair] := by exact notMem_of ‹_ ∉ _› rfl) : Keeps bl s0 (followTime epoch len lock m1 s) := by
  unfold followTime; try dsimp only
  repeat' (first | (with_reducible first | assumption | intro _ | exact notMem_of hb rfl | apply now_keeps | apply Keeps.ite | apply KeepsO.ite | apply KeepsO.next | split) | ((with_reducible refine Keeps.mk ?_ ?_) <;> [skip; (cases bl <;> first | exact absurd (by decide) hb | rfl)]))

theorem execTime_keeps {bl : Block} (h : XbkHdr) (epoch : BitVec 48) (len : BitVec 24) (lock : Byte) (m1 : U16) (tick : U32) {s0 s : State} (hc0 : Keeps bl s0 s)
    (hb : bl ∉ [.out, .tb, .pair] := by exact notMem_of ‹_ ∉ _› rfl) : KeepsO bl s0 (execTime h epoch len lock m1 tick s) := by
  unfold execTime; try dsimp only
  repeat' (with_reducible first | assumption | intro _ | exact notMem_of hb rfl | apply followTime_keeps | apply follows_keeps | apply once_keeps | apply hearsXbk_keeps | apply guarded_keeps | apply Keeps.ite | apply KeepsO.ite | apply KeepsO.next | split)

theorem partnerLost_keeps {bl : Block} {s0 s : State} (hc0 : Keeps bl s0 s)
    (hb : bl ∉ [.pair] := by exact notMem_of ‹_ ∉ _› rfl) : Keeps bl s0 (partnerLost s) := by
  unfold partnerLost; try dsimp only
  repeat' (with_reducible first | assumption | intro _ | exact notMem_of hb rfl | apply setPair_keeps | apply Keeps.ite | apply KeepsO.ite | apply KeepsO.next | split)

theorem execFatal_keeps {bl : Block} (h : XbkHdr) (cause : Byte) (epoch : U32) {s0 s : State} (hc0 : Keeps bl s0 s)
    (hb : bl ∉ [.out, .eic, .fns, .pair] := by exact notMem_of ‹_ ∉ _› rfl) : KeepsO bl s0 (execFatal h cause epoch s) := by
  unfold execFatal; try dsimp only
  repeat' (with_reducible first | assumption | intro _ | exact notMem_of hb rfl | apply triggerNow_keeps | apply partnerLost_keeps | apply raise_keeps | apply once_keeps | apply hearsXbk_keeps | apply guarded_keeps | apply Keeps.ite | apply KeepsO.ite | apply KeepsO.next | split)

theorem execHandover_keeps {bl : Block} (h : XbkHdr) (cause : Byte) (epoch : U32) {s0 s : State} (hc0 : Keeps bl s0 s)
    (hb : bl ∉ [.out, .pair] := by exact notMem_of ‹_ ∉ _› rfl) : KeepsO bl s0 (execHandover h cause epoch s) := by
  unfold execHandover; try dsimp only
  repeat' (with_reducible first | assumption | intro _ | exact notMem_of hb rfl | apply handoverFrom_keeps | apply trigger_keeps | apply kept_keeps | apply hearsXbk_keeps | apply guarded_keeps | apply Keeps.ite | apply KeepsO.ite | apply KeepsO.next | split)

theorem execYield_keeps {bl : Block} (h : XbkHdr) (pairId : Byte) {s0 s : State} (hc0 : Keeps bl s0 s)
    (hb : bl ∉ [.out, .eic, .fns, .pair] := by exact notMem_of ‹_ ∉ _› rfl) : KeepsO bl s0 (execYield h pairId s) := by
  unfold execYield; try dsimp only
  repeat' (with_reducible first | assumption | intro _ | exact notMem_of hb rfl | apply partnerState_keeps | apply kept_keeps | apply hearsXbk_keeps | apply guarded_keeps | apply Keeps.ite | apply KeepsO.ite | apply KeepsO.next | split)

theorem shadowEntry_keeps {bl : Block} (r : ℕ) (g : Option Rung) {s0 s : State} (hc0 : Keeps bl s0 s)
    (hb : bl ∉ [.sch] := by exact notMem_of ‹_ ∉ _› rfl) : Keeps bl s0 (shadowEntry r g s) := by
  unfold shadowEntry; try dsimp only
  repeat' (first | (with_reducible first | assumption | intro _ | exact notMem_of hb rfl | apply tdel_keeps | apply tput_keeps | apply Keeps.ite | apply KeepsO.ite | apply KeepsO.next | split) | ((with_reducible refine Keeps.mk ?_ ?_) <;> [skip; (cases bl <;> first | exact absurd (by decide) hb | rfl)]))

theorem shadowCr_keeps {bl : Block} (f : ℕ) (r : ℕ) (x : Cr) {s0 s : State} (hc0 : Keeps bl s0 s)
    (hb : bl ∉ [.fns, .pair] := by exact notMem_of ‹_ ∉ _› rfl) : Keeps bl s0 (shadowCr f r x s) := by
  unfold shadowCr; try dsimp only
  repeat' (first | (with_reducible first | assumption | intro _ | exact notMem_of hb rfl | apply modCr_keeps | apply Keeps.ite | apply KeepsO.ite | apply KeepsO.next | split) | ((with_reducible refine Keeps.mk ?_ ?_) <;> [skip; (cases bl <;> first | exact absurd (by decide) hb | rfl)]))

theorem applyShadow_keeps {bl : Block} (b : ShadowBody) {s0 s : State} (hc0 : Keeps bl s0 s)
    (hb : bl ∉ [.out, .free, .eic, .mail, .eng, .sch, .front, .dma, .tb, .topo, .fns, .pair, .ctl] := by exact notMem_of ‹_ ∉ _› rfl) : Keeps bl s0 (applyShadow b s) := by
  unfold applyShadow; try dsimp only
  repeat' (first | (with_reducible first | assumption | intro _ | exact notMem_of hb rfl | apply box_keeps | apply modAxis_keeps | apply axis_keeps | apply shadowUnit_keeps | apply modUnit_keeps | apply setPage_keeps | apply page_keeps | apply freeHandles_keeps | apply handle_keeps | apply shadowPort_keeps | apply modPort_keeps | apply modFn_keeps | apply shadowCr_keeps | apply cr_keeps | apply modSq_keeps | apply sq_keeps | apply tdel_keeps | apply tput_keeps | apply swapBanks_keeps | apply complete_keeps | apply shadowEntry_keeps | apply Keeps.ite | apply KeepsO.ite | apply KeepsO.next | split) | ((with_reducible refine Keeps.mk ?_ ?_) <;> [skip; (cases bl <;> first | exact absurd (by decide) hb | rfl)]))

theorem execShadow_keeps {bl : Block} (h : XbkHdr) (body : ShadowBody) {s0 s : State} (hc0 : Keeps bl s0 s)
    (hb : bl ∉ [.out, .free, .eic, .mail, .eng, .sch, .front, .dma, .tb, .topo, .fns, .pair, .ctl] := by exact notMem_of ‹_ ∉ _› rfl) : KeepsO bl s0 (execShadow h body s) := by
  unfold execShadow; try dsimp only
  repeat' (with_reducible first | assumption | intro _ | exact notMem_of hb rfl | apply applyShadow_keeps | apply kept_keeps | apply hearsXbk_keeps | apply guarded_keeps | apply Keeps.ite | apply KeepsO.ite | apply KeepsO.next | split)

theorem thirdMiss_keeps {bl : Block} {s0 s : State} (hc0 : Keeps bl s0 s)
    (hb : bl ∉ [.out, .eic, .fns, .pair] := by exact notMem_of ‹_ ∉ _› rfl) : Keeps bl s0 (thirdMiss s) := by
  unfold thirdMiss; try dsimp only
  repeat' (with_reducible first | assumption | intro _ | exact notMem_of hb rfl | apply triggerNow_keeps | apply partnerLost_keeps | apply goStale_keeps | apply raise_keeps | apply Keeps.ite | apply KeepsO.ite | apply KeepsO.next | split)

theorem windowEnd_keeps {bl : Block} (toggled : Bool) {s0 s : State} (hc0 : Keeps bl s0 s)
    (hb : bl ∉ [.out, .eic, .fns, .pair] := by exact notMem_of ‹_ ∉ _› rfl) : Keeps bl s0 (windowEnd toggled s) := by
  unfold windowEnd; try dsimp only
  repeat' (first | (with_reducible first | assumption | intro _ | exact notMem_of hb rfl | apply thirdMiss_keeps | apply Keeps.ite | apply KeepsO.ite | apply KeepsO.next | split) | ((with_reducible refine Keeps.mk ?_ ?_) <;> [skip; (cases bl <;> first | exact absurd (by decide) hb | rfl)]))

theorem execGanderWindowEnd_keeps {bl : Block} (toggled : Bool) {s0 s : State} (hc0 : Keeps bl s0 s)
    (hb : bl ∉ [.out, .eic, .fns, .pair] := by exact notMem_of ‹_ ∉ _› rfl) : KeepsO bl s0 (execGanderWindowEnd toggled s) := by
  unfold execGanderWindowEnd; try dsimp only
  repeat' (with_reducible first | assumption | intro _ | exact notMem_of hb rfl | apply windowEnd_keeps | apply live_keeps | apply guarded_keeps | apply Keeps.ite | apply KeepsO.ite | apply KeepsO.next | split)

theorem execDiscoverTimeout_keeps {bl : Block} {s0 s : State} (hc0 : Keeps bl s0 s)
    (hb : bl ∉ [.out, .eic, .fns, .pair] := by exact notMem_of ‹_ ∉ _› rfl) : KeepsO bl s0 (execDiscoverTimeout s) := by
  unfold execDiscoverTimeout; try dsimp only
  repeat' (with_reducible first | assumption | intro _ | exact notMem_of hb rfl | apply goAlone_keeps | apply goStale_keeps | apply live_keeps | apply guarded_keeps | apply Keeps.ite | apply KeepsO.ite | apply KeepsO.next | split)

theorem execSyncDone_keeps {bl : Block} {s0 s : State} (hc0 : Keeps bl s0 s)
    (hb : bl ∉ [.out, .eic, .fns, .slots, .pair] := by exact notMem_of ‹_ ∉ _› rfl) : KeepsO bl s0 (execSyncDone s) := by
  unfold execSyncDone; try dsimp only
  repeat' (with_reducible first | assumption | intro _ | exact notMem_of hb rfl | apply handOver_keeps | apply homeOf_keeps | apply each_keeps | apply setPair_keeps | apply goStale_keeps | apply homesAgree_keeps | apply live_keeps | apply guarded_keeps | apply Keeps.ite | apply KeepsO.ite | apply KeepsO.next | split)

theorem execStaleResyncTimer_keeps {bl : Block} {s0 s : State} (hc0 : Keeps bl s0 s)
    (hb : bl ∉ [.pair] := by exact notMem_of ‹_ ∉ _› rfl) : KeepsO bl s0 (execStaleResyncTimer s) := by
  unfold execStaleResyncTimer; try dsimp only
  repeat' (with_reducible first | assumption | intro _ | exact notMem_of hb rfl | apply setPair_keeps | apply homesAgree_keeps | apply live_keeps | apply guarded_keeps | apply Keeps.ite | apply KeepsO.ite | apply KeepsO.next | split)

theorem execPairActConflict_keeps {bl : Block} {s0 s : State} (hc0 : Keeps bl s0 s)
    (hb : bl ∉ [.out, .mail, .sch, .front, .dma, .tb, .topo, .slots, .pair] := by exact notMem_of ‹_ ∉ _› rfl) : KeepsO bl s0 (execPairActConflict s) := by
  unfold execPairActConflict; try dsimp only
  repeat' (with_reducible first | assumption | intro _ | exact notMem_of hb rfl | apply enterYielded_keeps | apply isActive_keeps | apply live_keeps | apply guarded_keeps | apply Keeps.ite | apply KeepsO.ite | apply KeepsO.next | split)

theorem pairQueryOp_keeps {bl : Block} (ctx : CmdCtx) {s0 s : State} (hc0 : Keeps bl s0 s)
    (hb : bl ∉ [.out, .mail, .fns] := by exact notMem_of ‹_ ∉ _› rfl) : Keeps bl s0 (pairQueryOp ctx s) := by
  unfold pairQueryOp; try dsimp only
  repeat' (with_reducible first | assumption | intro _ | exact notMem_of hb rfl | apply chan_keeps | apply sender_keeps | apply pairReply_keeps | apply reply_keeps | apply begun_keeps | apply Keeps.ite | apply KeepsO.ite | apply KeepsO.next | split)

theorem pairSwitchOp_keeps {bl : Block} (ctx : CmdCtx) (epoch : U32) {s0 s : State} (hc0 : Keeps bl s0 s)
    (hb : bl ∉ [.out, .mail, .fns, .pair] := by exact notMem_of ‹_ ∉ _› rfl) : Keeps bl s0 (pairSwitchOp ctx epoch s) := by
  unfold pairSwitchOp; try dsimp only
  repeat' (first | (with_reducible first | assumption | intro _ | exact notMem_of hb rfl | apply pairReply_keeps | apply reply_keeps | apply switchBoundary_keeps | apply pairBar_keeps | apply begun_keeps | apply Keeps.ite | apply KeepsO.ite | apply KeepsO.next | split) | ((with_reducible refine Keeps.mk ?_ ?_) <;> [skip; (cases bl <;> first | exact absurd (by decide) hb | rfl)]))

theorem pairResyncOp_keeps {bl : Block} (ctx : CmdCtx) {s0 s : State} (hc0 : Keeps bl s0 s)
    (hb : bl ∉ [.out, .mail, .fns] := by exact notMem_of ‹_ ∉ _› rfl) : Keeps bl s0 (pairResyncOp ctx s) := by
  unfold pairResyncOp; try dsimp only
  repeat' (with_reducible first | assumption | intro _ | exact notMem_of hb rfl | apply pairReply_keeps | apply reply_keeps | apply pairBar_keeps | apply begun_keeps | apply Keeps.ite | apply KeepsO.ite | apply KeepsO.next | split)

theorem execPairQuery_keeps {bl : Block} (ctx : CmdCtx) {s0 s : State} (hc0 : Keeps bl s0 s)
    (hb : bl ∉ [.out, .mail, .fns] := by exact notMem_of ‹_ ∉ _› rfl) : KeepsO bl s0 (execPairQuery ctx s) := by
  unfold execPairQuery; try dsimp only
  repeat' (with_reducible first | assumption | intro _ | exact notMem_of hb rfl | apply pairQueryOp_keeps | apply live_keeps | apply guarded_keeps | apply Keeps.ite | apply KeepsO.ite | apply KeepsO.next | split)

theorem execPairSwitch_keeps {bl : Block} (ctx : CmdCtx) (epoch : U32) {s0 s : State} (hc0 : Keeps bl s0 s)
    (hb : bl ∉ [.out, .mail, .fns, .pair] := by exact notMem_of ‹_ ∉ _› rfl) : KeepsO bl s0 (execPairSwitch ctx epoch s) := by
  unfold execPairSwitch; try dsimp only
  repeat' (with_reducible first | assumption | intro _ | exact notMem_of hb rfl | apply pairSwitchOp_keeps | apply live_keeps | apply guarded_keeps | apply Keeps.ite | apply KeepsO.ite | apply KeepsO.next | split)

theorem execPairResync_keeps {bl : Block} (ctx : CmdCtx) {s0 s : State} (hc0 : Keeps bl s0 s)
    (hb : bl ∉ [.out, .mail, .fns] := by exact notMem_of ‹_ ∉ _› rfl) : KeepsO bl s0 (execPairResync ctx s) := by
  unfold execPairResync; try dsimp only
  repeat' (with_reducible first | assumption | intro _ | exact notMem_of hb rfl | apply pairResyncOp_keeps | apply live_keeps | apply guarded_keeps | apply Keeps.ite | apply KeepsO.ite | apply KeepsO.next | split)

theorem dieAnswer_keeps {bl : Block} (g : Nat) (seq : U16) (f : State → (Nat × Nat × List Byte) × State) {s0 s : State}
    (hf : ∀ t, Keeps bl s0 t → Keeps bl s0 (f t).2) (hc0 : Keeps bl s0 s)
    (hb : bl ∉ [.out, .slots] := by exact notMem_of ‹_ ∉ _› rfl) : Keeps bl s0 (dieAnswer g seq f s) := by
  unfold dieAnswer; dsimp only
  split
  · split
    · exact pctlSend_keeps _ _ _ _ _ hc0
    · exact pctlSend_keeps _ _ _ _ _ (modDie_keeps _ _ (hf _ hc0))
  · exact pctlSend_keeps _ _ _ _ _ (modDie_keeps _ _ (hf _ hc0))

theorem setAuth_keeps {bl : Block} (g : ℕ) (pctl : Bool) {s0 s : State} (hc0 : Keeps bl s0 s)
    (hb : bl ∉ [.slots] := by exact notMem_of ‹_ ∉ _› rfl) : Keeps bl s0 (setAuth g pctl s) := by
  unfold setAuth; try dsimp only
  repeat' (first | (with_reducible first | assumption | intro _ | exact notMem_of hb rfl | apply modDie_keeps | apply recheck_keeps | apply Keeps.ite | apply KeepsO.ite | apply KeepsO.next | split) | ((with_reducible refine Keeps.mk ?_ ?_) <;> [skip; (cases bl <;> first | exact absurd (by decide) hb | rfl)]))

theorem execPctlbKeepaliveLoss_keeps {bl : Block} (g : DieId) {s0 s : State} (hc0 : Keeps bl s0 s)
    (hb : bl ∉ [.slots] := by exact notMem_of ‹_ ∉ _› rfl) : KeepsO bl s0 (execPctlbKeepaliveLoss g s) := by
  unfold execPctlbKeepaliveLoss; try dsimp only
  repeat' (with_reducible first | assumption | intro _ | exact notMem_of hb rfl | apply setAuth_keeps | apply die_keeps | apply hears_keeps | apply guarded_keeps | apply Keeps.ite | apply KeepsO.ite | apply KeepsO.next | split)

theorem execKeepalive_keeps {bl : Block} (g : DieId) (seq : U16) {s0 s : State} (hc0 : Keeps bl s0 s)
    (hb : bl ∉ [.out, .slots] := by exact notMem_of ‹_ ∉ _› rfl) : KeepsO bl s0 (execKeepalive g seq s) := by
  unfold execKeepalive
  refine guarded_keeps _ _ (fun t h => dieAnswer_keeps _ _ _ (fun t h => ?_) h) hc0
  exact h

theorem execPctlbClaim_keeps {bl : Block} (g : DieId) (seq : U16) (pairId : Byte) {s0 s : State} (hc0 : Keeps bl s0 s)
    (hb : bl ∉ [.out, .slots] := by exact notMem_of ‹_ ∉ _› rfl) : KeepsO bl s0 (execPctlbClaim g seq pairId s) := by
  unfold execPctlbClaim
  apply guarded_keeps
  · intro t h
    refine dieAnswer_keeps _ _ _ ?_ ?_
    · intro u k
      split
      · dsimp only; exact setAuth_keeps _ _ k
      · exact k
    · exact h
  · exact hc0

theorem execPctlbRelease_keeps {bl : Block} (g : DieId) (seq : U16) {s0 s : State} (hc0 : Keeps bl s0 s)
    (hb : bl ∉ [.out, .slots] := by exact notMem_of ‹_ ∉ _› rfl) : KeepsO bl s0 (execPctlbRelease g seq s) := by
  unfold execPctlbRelease
  apply guarded_keeps
  · intro t h
    refine dieAnswer_keeps _ _ _ ?_ ?_
    · intro u k
      dsimp only
      exact setAuth_keeps _ _ k
    · exact h
  · exact hc0

theorem execPctlbWrite_keeps {bl : Block} (g : DieId) (j : Fin 16) (seq : U16) (offset : U16) (value : U64) {s0 s : State} (hc0 : Keeps bl s0 s)
    (hb : bl ∉ [.out, .eic, .mail, .eng, .sch, .front, .dma, .tb, .topo, .fns, .slots, .pwr] := by exact notMem_of ‹_ ∉ _› rfl) : KeepsO bl s0 (execPctlbWrite g j seq offset value s) := by
  unfold execPctlbWrite
  refine guarded_keeps _ _ (fun t h => dieAnswer_keeps _ _ _ (fun t h => ?_) h) hc0
  dsimp only
  exact Keeps.ite h (powerCommand_keeps _ _ _ _ _ h)

theorem execPctlbRead_keeps {bl : Block} (g : DieId) (j : Fin 16) (seq : U16) (offset : U16) {s0 s : State} (hc0 : Keeps bl s0 s)
    (hb : bl ∉ [.out, .slots] := by exact notMem_of ‹_ ∉ _› rfl) : KeepsO bl s0 (execPctlbRead g j seq offset s) := by
  unfold execPctlbRead
  refine guarded_keeps _ _ (fun t h => dieAnswer_keeps _ _ _ (fun t h => ?_) h) hc0
  exact h

theorem execEventAck_keeps {bl : Block} (g : DieId) (evSeq : U16) {s0 s : State} (hc0 : Keeps bl s0 s)
    (hb : bl ∉ [.slots] := by exact notMem_of ‹_ ∉ _› rfl) : KeepsO bl s0 (execEventAck g evSeq s) := by
  unfold execEventAck; try dsimp only
  repeat' (first | (with_reducible first | assumption | intro _ | exact notMem_of hb rfl | apply modDie_keeps | apply dieHears_keeps | apply guarded_keeps | apply Keeps.ite | apply KeepsO.ite | apply KeepsO.next | split) | ((with_reducible refine Keeps.mk ?_ ?_) <;> [skip; (cases bl <;> first | exact absurd (by decide) hb | rfl)]))

theorem modCtl_keeps {bl : Block} (g : ℕ) (f : PctlPort → PctlPort) {s0 s : State} (hc0 : Keeps bl s0 s)
    (hb : bl ∉ [.ctl] := by exact notMem_of ‹_ ∉ _› rfl) : Keeps bl s0 (modCtl g f s) := by
  unfold modCtl; try dsimp only
  repeat' (first | (with_reducible first | assumption | intro _ | exact notMem_of hb rfl | apply ctlPort_keeps | apply tput_keeps | apply Keeps.ite | apply KeepsO.ite | apply KeepsO.next | split) | ((with_reducible refine Keeps.mk ?_ ?_) <;> [skip; (cases bl <;> first | exact absurd (by decide) hb | rfl)]))

theorem answered_keeps {bl : Block} (g : ℕ) (seq : U16) (types : List ℕ) (f : PctlPort → PctlPort) {s0 s : State} (hc0 : Keeps bl s0 s)
    (hb : bl ∉ [.ctl] := by exact notMem_of ‹_ ∉ _› rfl) : KeepsO bl s0 (answered g seq types f s) := by
  unfold answered; try dsimp only
  repeat' (first | (with_reducible first | assumption | intro _ | exact notMem_of hb rfl | apply modCtl_keeps | apply ctlPort_keeps | apply hasCtl_keeps | apply guarded_keeps | apply Keeps.ite | apply KeepsO.ite | apply KeepsO.next | split) | ((with_reducible refine Keeps.mk ?_ ?_) <;> [skip; (cases bl <;> first | exact absurd (by decide) hb | rfl)]))

theorem execPctlbKeepaliveTick_keeps {bl : Block} (g : DieId) {s0 s : State} (hc0 : Keeps bl s0 s)
    (hb : bl ∉ [.out, .ctl] := by exact notMem_of ‹_ ∉ _› rfl) : KeepsO bl s0 (execPctlbKeepaliveTick g s) := by
  unfold execPctlbKeepaliveTick; try dsimp only
  repeat' (with_reducible first | assumption | intro _ | exact notMem_of hb rfl | apply pctlCommand_keeps | apply ctlPort_keeps | apply hasCtl_keeps | apply guarded_keeps | apply Keeps.ite | apply KeepsO.ite | apply KeepsO.next | split)

theorem execKeepaliveAck_keeps {bl : Block} (g : DieId) (seq : U16) (auth : Bool) (coreLost : Bool) {s0 s : State} (hc0 : Keeps bl s0 s)
    (hb : bl ∉ [.ctl] := by exact notMem_of ‹_ ∉ _› rfl) : KeepsO bl s0 (execKeepaliveAck g seq auth coreLost s) := by
  unfold execKeepaliveAck; try dsimp only
  repeat' (first | (with_reducible first | assumption | intro _ | exact notMem_of hb rfl | apply answered_keeps | apply Keeps.ite | apply KeepsO.ite | apply KeepsO.next | split) | ((with_reducible refine Keeps.mk ?_ ?_) <;> [skip; (cases bl <;> first | exact absurd (by decide) hb | rfl)]))

theorem execClaimAck_keeps {bl : Block} (g : DieId) (seq : U16) (result : Byte) (auth : Byte) {s0 s : State} (hc0 : Keeps bl s0 s)
    (hb : bl ∉ [.ctl] := by exact notMem_of ‹_ ∉ _› rfl) : KeepsO bl s0 (execClaimAck g seq result auth s) := by
  unfold execClaimAck; try dsimp only
  repeat' (first | (with_reducible first | assumption | intro _ | exact notMem_of hb rfl | apply answered_keeps | apply Keeps.ite | apply KeepsO.ite | apply KeepsO.next | split) | ((with_reducible refine Keeps.mk ?_ ?_) <;> [skip; (cases bl <;> first | exact absurd (by decide) hb | rfl)]))

theorem execWriteAck_keeps {bl : Block} (g : DieId) (seq : U16) (result : Byte) {s0 s : State} (hc0 : Keeps bl s0 s)
    (hb : bl ∉ [.ctl] := by exact notMem_of ‹_ ∉ _› rfl) : KeepsO bl s0 (execWriteAck g seq result s) := by
  unfold execWriteAck; try dsimp only
  repeat' (first | (with_reducible first | assumption | intro _ | exact notMem_of hb rfl | apply answered_keeps | apply Keeps.ite | apply KeepsO.ite | apply KeepsO.next | split) | ((with_reducible refine Keeps.mk ?_ ?_) <;> [skip; (cases bl <;> first | exact absurd (by decide) hb | rfl)]))

theorem execReadData_keeps {bl : Block} (g : DieId) (seq : U16) (offset : U16) (value : U64) {s0 s : State} (hc0 : Keeps bl s0 s)
    (hb : bl ∉ [.ctl] := by exact notMem_of ‹_ ∉ _› rfl) : KeepsO bl s0 (execReadData g seq offset value s) := by
  unfold execReadData; try dsimp only
  repeat' (first | (with_reducible first | assumption | intro _ | exact notMem_of hb rfl | apply answered_keeps | apply Keeps.ite | apply KeepsO.ite | apply KeepsO.next | split) | ((with_reducible refine Keeps.mk ?_ ?_) <;> [skip; (cases bl <;> first | exact absurd (by decide) hb | rfl)]))

theorem partnerSlotEvent_keeps {bl : Block} (n : ℕ) (b : ℕ) {s0 s : State} (hc0 : Keeps bl s0 s)
    (hb : bl ∉ [.out, .eic, .mail, .eng, .sch, .front, .dma, .tb, .topo, .fns] := by exact notMem_of ‹_ ∉ _› rfl) : Keeps bl s0 (partnerSlotEvent n b s) := by
  unfold partnerSlotEvent; try dsimp only
  repeat' (first | (with_reducible first | assumption | intro _ | exact notMem_of hb rfl | apply endLastGasp_keeps | apply modPort_keeps | apply slotPowerGood_keeps | apply slotTreeGone_keeps | apply raiseSlot_keeps | apply Keeps.ite | apply KeepsO.ite | apply KeepsO.next | split) | ((with_reducible refine Keeps.mk ?_ ?_) <;> [skip; (cases bl <;> first | exact absurd (by decide) hb | rfl)]))

theorem execPctlbEvent_keeps {bl : Block} (g : DieId) (j : Fin 16) (seq : U16) (bits : U16) (sts : U32) {s0 s : State} (hc0 : Keeps bl s0 s)
    (hb : bl ∉ [.out, .eic, .mail, .eng, .sch, .front, .dma, .tb, .topo, .fns, .ctl] := by exact notMem_of ‹_ ∉ _› rfl) : KeepsO bl s0 (execPctlbEvent g j seq bits sts s) := by
  unfold execPctlbEvent; try dsimp only
  repeat' (first | (with_reducible first | assumption | intro _ | exact notMem_of hb rfl | apply partnerSlotEvent_keeps | apply each_keeps | apply modCtl_keeps | apply pctlSend_keeps | apply ctlPort_keeps | apply hasCtl_keeps | apply guarded_keeps | apply Keeps.ite | apply KeepsO.ite | apply KeepsO.next | split) | ((with_reducible refine Keeps.mk ?_ ?_) <;> [skip; (cases bl <;> first | exact absurd (by decide) hb | rfl)]))

theorem resendCommand_keeps {bl : Block} (g : ℕ) {s0 s : State} (hc0 : Keeps bl s0 s)
    (hb : bl ∉ [.out, .ctl] := by exact notMem_of ‹_ ∉ _› rfl) : Keeps bl s0 (resendCommand g s) := by
  unfold resendCommand; try dsimp only
  repeat' (first | (with_reducible first | assumption | intro _ | exact notMem_of hb rfl | apply modCtl_keeps | apply pctlSend_keeps | apply ctlPort_keeps | apply Keeps.ite | apply KeepsO.ite | apply KeepsO.next | split) | ((with_reducible refine Keeps.mk ?_ ?_) <;> [skip; (cases bl <;> first | exact absurd (by decide) hb | rfl)]))

theorem resendEvent_keeps {bl : Block} (g : ℕ) {s0 s : State} (hc0 : Keeps bl s0 s)
    (hb : bl ∉ [.out, .slots] := by exact notMem_of ‹_ ∉ _› rfl) : Keeps bl s0 (resendEvent g s) := by
  unfold resendEvent; try dsimp only
  repeat' (first | (with_reducible first | assumption | intro _ | exact notMem_of hb rfl | apply modDie_keeps | apply pctlSend_keeps | apply die_keeps | apply Keeps.ite | apply KeepsO.ite | apply KeepsO.next | split) | ((with_reducible refine Keeps.mk ?_ ?_) <;> [skip; (cases bl <;> first | exact absurd (by decide) hb | rfl)]))

theorem execPctlbResendTimeout_keeps {bl : Block} (g : DieId) (side : PctlSide) {s0 s : State} (hc0 : Keeps bl s0 s)
    (hb : bl ∉ [.out, .slots, .ctl] := by exact notMem_of ‹_ ∉ _› rfl) : KeepsO bl s0 (execPctlbResendTimeout g side s) := by
  unfold execPctlbResendTimeout; try dsimp only
  repeat' (with_reducible first | assumption | intro _ | exact notMem_of hb rfl | apply resendEvent_keeps | apply dieHears_keeps | apply die_keeps | apply resendCommand_keeps | apply hasCtl_keeps | apply guarded_keeps | apply Keeps.ite | apply KeepsO.ite | apply KeepsO.next | split)

theorem fwReply_keeps {bl : Block} (ctx : CmdCtx) (code : ℕ) (res : ℕ) {s0 s : State} (hc0 : Keeps bl s0 s)
    (hb : bl ∉ [.out, .free, .mail, .fns] := by exact notMem_of ‹_ ∉ _› rfl) : Keeps bl s0 (fwReply ctx code res s) := by
  unfold fwReply; try dsimp only
  repeat' (with_reducible first | assumption | intro _ | exact notMem_of hb rfl | apply reply_keeps | apply freshIndex_keeps | apply Keeps.ite | apply KeepsO.ite | apply KeepsO.next | split)

theorem fwQueryOp_keeps {bl : Block} (ctx : CmdCtx) {s0 s : State} (hc0 : Keeps bl s0 s)
    (hb : bl ∉ [.out, .mail, .fns] := by exact notMem_of ‹_ ∉ _› rfl) : Keeps bl s0 (fwQueryOp ctx s) := by
  unfold fwQueryOp; try dsimp only
  repeat' (with_reducible first | assumption | intro _ | exact notMem_of hb rfl | apply slotValid_keeps | apply slotVersion_keeps | apply reply_keeps | apply begun_keeps | apply Keeps.ite | apply KeepsO.ite | apply KeepsO.next | split)

theorem fwWriteOp_keeps {bl : Block} (ctx : CmdCtx) (off : ℕ) (data : List Byte) {s0 s : State} (hc0 : Keeps bl s0 s)
    (hb : bl ∉ [.out, .free, .mail, .fns, .flash] := by exact notMem_of ‹_ ∉ _› rfl) : Keeps bl s0 (fwWriteOp ctx off data s) := by
  unfold fwWriteOp; try dsimp only
  repeat' (first | (with_reducible first | assumption | intro _ | exact notMem_of hb rfl | apply program_keeps | apply fwReply_keeps | apply flashRange_keeps | apply begun_keeps | apply Keeps.ite | apply KeepsO.ite | apply KeepsO.next | split) | ((with_reducible refine Keeps.mk ?_ ?_) <;> [skip; (cases bl <;> first | exact absurd (by decide) hb | rfl)]))

theorem fwEraseOp_keeps {bl : Block} (ctx : CmdCtx) (off : ℕ) (sectors : ℕ) {s0 s : State} (hc0 : Keeps bl s0 s)
    (hb : bl ∉ [.out, .free, .mail, .fns, .flash] := by exact notMem_of ‹_ ∉ _› rfl) : Keeps bl s0 (fwEraseOp ctx off sectors s) := by
  unfold fwEraseOp; try dsimp only
  repeat' (first | (with_reducible first | assumption | intro _ | exact notMem_of hb rfl | apply mclear_keeps | apply fwReply_keeps | apply flashRange_keeps | apply begun_keeps | apply Keeps.ite | apply KeepsO.ite | apply KeepsO.next | split) | ((with_reducible refine Keeps.mk ?_ ?_) <;> [skip; (cases bl <;> first | exact absurd (by decide) hb | rfl)]))

theorem fwVerifyOp_keeps {bl : Block} (ctx : CmdCtx) {s0 s : State} (hc0 : Keeps bl s0 s)
    (hb : bl ∉ [.out, .free, .mail, .fns, .flash] := by exact notMem_of ‹_ ∉ _› rfl) : Keeps bl s0 (fwVerifyOp ctx s) := by
  unfold fwVerifyOp; try dsimp only
  repeat' (first | (with_reducible first | assumption | intro _ | exact notMem_of hb rfl | apply fwReply_keeps | apply slotValid_keeps | apply begun_keeps | apply Keeps.ite | apply KeepsO.ite | apply KeepsO.next | split) | ((with_reducible refine Keeps.mk ?_ ?_) <;> [skip; (cases bl <;> first | exact absurd (by decide) hb | rfl)]))

theorem fwActivateOp_keeps {bl : Block} (ctx : CmdCtx) {s0 s : State} (hc0 : Keeps bl s0 s)
    (hb : bl ∉ [.out, .free, .mail, .fns, .flash] := by exact notMem_of ‹_ ∉ _› rfl) : Keeps bl s0 (fwActivateOp ctx s) := by
  unfold fwActivateOp; try dsimp only
  repeat' (first | (with_reducible first | assumption | intro _ | exact notMem_of hb rfl | apply fwReply_keeps | apply begun_keeps | apply Keeps.ite | apply KeepsO.ite | apply KeepsO.next | split) | ((with_reducible refine Keeps.mk ?_ ?_) <;> [skip; (cases bl <;> first | exact absurd (by decide) hb | rfl)]))

theorem platSensorsOp_keeps {bl : Block} (ctx : CmdCtx) (temps : List Byte) (powers : List U16) {s0 s : State} (hc0 : Keeps bl s0 s)
    (hb : bl ∉ [.out, .mail, .fns] := by exact notMem_of ‹_ ∉ _› rfl) : Keeps bl s0 (platSensorsOp ctx temps powers s) := by
  unfold platSensorsOp; try dsimp only
  repeat' (with_reducible first | assumption | intro _ | exact notMem_of hb rfl | apply powerSts_keeps | apply reply_keeps | apply begun_keeps | apply Keeps.ite | apply KeepsO.ite | apply KeepsO.next | split)

theorem execFwQuery_keeps {bl : Block} (ctx : CmdCtx) {s0 s : State} (hc0 : Keeps bl s0 s)
    (hb : bl ∉ [.out, .mail, .fns] := by exact notMem_of ‹_ ∉ _› rfl) : KeepsO bl s0 (execFwQuery ctx s) := by
  unfold execFwQuery; try dsimp only
  repeat' (with_reducible first | assumption | intro _ | exact notMem_of hb rfl | apply fwQueryOp_keeps | apply fwRuns_keeps | apply guarded_keeps | apply Keeps.ite | apply KeepsO.ite | apply KeepsO.next | split)

theorem execFwWrite_keeps {bl : Block} (ctx : CmdCtx) (offset : U32) (data : List Byte) {s0 s : State} (hc0 : Keeps bl s0 s)
    (hb : bl ∉ [.out, .free, .mail, .fns, .flash] := by exact notMem_of ‹_ ∉ _› rfl) : KeepsO bl s0 (execFwWrite ctx offset data s) := by
  unfold execFwWrite; try dsimp only
  repeat' (with_reducible first | assumption | intro _ | exact notMem_of hb rfl | apply fwWriteOp_keeps | apply fwRuns_keeps | apply guarded_keeps | apply Keeps.ite | apply KeepsO.ite | apply KeepsO.next | split)

theorem execFwErase_keeps {bl : Block} (ctx : CmdCtx) (offset : U32) (sectors : U32) {s0 s : State} (hc0 : Keeps bl s0 s)
    (hb : bl ∉ [.out, .free, .mail, .fns, .flash] := by exact notMem_of ‹_ ∉ _› rfl) : KeepsO bl s0 (execFwErase ctx offset sectors s) := by
  unfold execFwErase; try dsimp only
  repeat' (with_reducible first | assumption | intro _ | exact notMem_of hb rfl | apply fwEraseOp_keeps | apply fwRuns_keeps | apply guarded_keeps | apply Keeps.ite | apply KeepsO.ite | apply KeepsO.next | split)

theorem execFwVerify_keeps {bl : Block} (ctx : CmdCtx) {s0 s : State} (hc0 : Keeps bl s0 s)
    (hb : bl ∉ [.out, .free, .mail, .fns, .flash] := by exact notMem_of ‹_ ∉ _› rfl) : KeepsO bl s0 (execFwVerify ctx s) := by
  unfold execFwVerify; try dsimp only
  repeat' (with_reducible first | assumption | intro _ | exact notMem_of hb rfl | apply fwVerifyOp_keeps | apply fwRuns_keeps | apply guarded_keeps | apply Keeps.ite | apply KeepsO.ite | apply KeepsO.next | split)

theorem execFwActivate_keeps {bl : Block} (ctx : CmdCtx) {s0 s : State} (hc0 : Keeps bl s0 s)
    (hb : bl ∉ [.out, .free, .mail, .fns, .flash] := by exact notMem_of ‹_ ∉ _› rfl) : KeepsO bl s0 (execFwActivate ctx s) := by
  unfold execFwActivate; try dsimp only
  repeat' (with_reducible first | assumption | intro _ | exact notMem_of hb rfl | apply fwActivateOp_keeps | apply fwRuns_keeps | apply guarded_keeps | apply Keeps.ite | apply KeepsO.ite | apply KeepsO.next | split)

theorem execPlatSensors_keeps {bl : Block} (ctx : CmdCtx) (temps : List Byte) (powers : List U16) {s0 s : State} (hc0 : Keeps bl s0 s)
    (hb : bl ∉ [.out, .mail, .fns] := by exact notMem_of ‹_ ∉ _› rfl) : KeepsO bl s0 (execPlatSensors ctx temps powers s) := by
  unfold execPlatSensors; try dsimp only
  repeat' (with_reducible first | assumption | intro _ | exact notMem_of hb rfl | apply platSensorsOp_keeps | apply fwRuns_keeps | apply guarded_keeps | apply Keeps.ite | apply KeepsO.ite | apply KeepsO.next | split)

theorem claim_keeps {bl : Block} (t : Fin 18) {s0 s : State} (hc0 : Keeps bl s0 s)
    (hb : bl ∉ [.out, .eic] := by exact notMem_of ‹_ ∉ _› rfl) : Keeps bl s0 (claim t s) := by
  unfold claim; try dsimp only
  repeat' (first | (with_reducible first | assumption | intro _ | exact notMem_of hb rfl | apply modTarget_keeps | apply modSource_keeps | apply emit_keeps | apply claimable_keeps | apply bestClaim_keeps | apply Keeps.ite | apply KeepsO.ite | apply KeepsO.next | split) | ((with_reducible refine Keeps.mk ?_ ?_) <;> [skip; (cases bl <;> first | exact absurd (by decide) hb | rfl)]))

theorem execEicClaim_keeps {bl : Block} (t : Fin 18) {s0 s : State} (hc0 : Keeps bl s0 s)
    (hb : bl ∉ [.out, .eic] := by exact notMem_of ‹_ ∉ _› rfl) : KeepsO bl s0 (execEicClaim t s) := by
  unfold execEicClaim; try dsimp only
  repeat' (with_reducible first | assumption | intro _ | exact notMem_of hb rfl | apply claim_keeps | apply live_keeps | apply guarded_keeps | apply Keeps.ite | apply KeepsO.ite | apply KeepsO.next | split)

theorem execEicComplete_keeps {bl : Block} (t : Fin 18) (src : Fin 1024) {s0 s : State} (hc0 : Keeps bl s0 s)
    (hb : bl ∉ [.eic] := by exact notMem_of ‹_ ∉ _› rfl) : KeepsO bl s0 (execEicComplete t src s) := by
  unfold execEicComplete; try dsimp only
  repeat' (first | (with_reducible first | assumption | intro _ | exact notMem_of hb rfl | apply modSource_keeps | apply wakeTarget_keeps | apply source_keeps | apply live_keeps | apply guarded_keeps | apply Keeps.ite | apply KeepsO.ite | apply KeepsO.next | split) | ((with_reducible refine Keeps.mk ?_ ?_) <;> [skip; (cases bl <;> first | exact absurd (by decide) hb | rfl)]))

theorem execEnSet_keeps {bl : Block} (w : Fin 32) (v : U32) {s0 s : State} (hc0 : Keeps bl s0 s)
    (hb : bl ∉ [.eic] := by exact notMem_of ‹_ ∉ _› rfl) : KeepsO bl s0 (execEnSet w v s) := by
  unfold execEnSet; try dsimp only
  repeat' (first | (with_reducible first | assumption | intro _ | exact notMem_of hb rfl | apply modSource_keeps | apply wakeTarget_keeps | apply wordSources_keeps | apply each_keeps | apply live_keeps | apply guarded_keeps | apply Keeps.ite | apply KeepsO.ite | apply KeepsO.next | split) | ((with_reducible refine Keeps.mk ?_ ?_) <;> [skip; (cases bl <;> first | exact absurd (by decide) hb | rfl)]))

theorem execEnClr_keeps {bl : Block} (w : Fin 32) (v : U32) {s0 s : State} (hc0 : Keeps bl s0 s)
    (hb : bl ∉ [.eic] := by exact notMem_of ‹_ ∉ _› rfl) : KeepsO bl s0 (execEnClr w v s) := by
  unfold execEnClr; try dsimp only
  repeat' (first | (with_reducible first | assumption | intro _ | exact notMem_of hb rfl | apply modSource_keeps | apply wordSources_keeps | apply each_keeps | apply live_keeps | apply guarded_keeps | apply Keeps.ite | apply KeepsO.ite | apply KeepsO.next | split) | ((with_reducible refine Keeps.mk ?_ ?_) <;> [skip; (cases bl <;> first | exact absurd (by decide) hb | rfl)]))

theorem execPendSet_keeps {bl : Block} (w : Fin 32) (v : U32) {s0 s : State} (hc0 : Keeps bl s0 s)
    (hb : bl ∉ [.out, .eic, .fns] := by exact notMem_of ‹_ ∉ _› rfl) : KeepsO bl s0 (execPendSet w v s) := by
  unfold execPendSet; try dsimp only
  repeat' (first | (with_reducible first | assumption | intro _ | exact notMem_of hb rfl | apply modSource_keeps | apply withRises_keeps | apply wordSources_keeps | apply each_keeps | apply live_keeps | apply guarded_keeps | apply Keeps.ite | apply KeepsO.ite | apply KeepsO.next | split) | ((with_reducible refine Keeps.mk ?_ ?_) <;> [skip; (cases bl <;> first | exact absurd (by decide) hb | rfl)]))

theorem execPendClr_keeps {bl : Block} (w : Fin 32) (v : U32) {s0 s : State} (hc0 : Keeps bl s0 s)
    (hb : bl ∉ [.eic] := by exact notMem_of ‹_ ∉ _› rfl) : KeepsO bl s0 (execPendClr w v s) := by
  unfold execPendClr; try dsimp only
  repeat' (first | (with_reducible first | assumption | intro _ | exact notMem_of hb rfl | apply modSource_keeps | apply wordSources_keeps | apply each_keeps | apply live_keeps | apply guarded_keeps | apply Keeps.ite | apply KeepsO.ite | apply KeepsO.next | split) | ((with_reducible refine Keeps.mk ?_ ?_) <;> [skip; (cases bl <;> first | exact absurd (by decide) hb | rfl)]))

theorem execMsixIntervalExpiry_keeps {bl : Block} (f : FuncId) (v : Fin 2048) {s0 s : State} (hc0 : Keeps bl s0 s)
    (hb : bl ∉ [.out, .fns] := by exact notMem_of ‹_ ∉ _› rfl) : KeepsO bl s0 (execMsixIntervalExpiry f v s) := by
  unfold execMsixIntervalExpiry; try dsimp only
  repeat' (with_reducible first | assumption | intro _ | exact notMem_of hb rfl | apply msixDue_keeps | apply vec_keeps | apply live_keeps | apply guarded_keeps | apply Keeps.ite | apply KeepsO.ite | apply KeepsO.next | split)

theorem releaseVectors_keeps {bl : Block} (f : ℕ) {s0 s : State} (hc0 : Keeps bl s0 s)
    (hb : bl ∉ [.out, .fns] := by exact notMem_of ‹_ ∉ _› rfl) : Keeps bl s0 (releaseVectors f s) := by
  unfold releaseVectors; try dsimp only
  repeat' (with_reducible first | assumption | intro _ | exact notMem_of hb rfl | apply msixRelease_keeps | apply fn_keeps | apply each_keeps | apply Keeps.ite | apply KeepsO.ite | apply KeepsO.next | split)

theorem execMsixUnmask_keeps {bl : Block} (f : FuncId) (v : Fin 2048) {s0 s : State} (hc0 : Keeps bl s0 s)
    (hb : bl ∉ [.out, .fns] := by exact notMem_of ‹_ ∉ _› rfl) : KeepsO bl s0 (execMsixUnmask f v s) := by
  unfold execMsixUnmask; try dsimp only
  repeat' (first | (with_reducible first | assumption | intro _ | exact notMem_of hb rfl | apply modVec_keeps | apply modFn_keeps | apply releaseVectors_keeps | apply live_keeps | apply guarded_keeps | apply Keeps.ite | apply KeepsO.ite | apply KeepsO.next | split) | ((with_reducible refine Keeps.mk ?_ ?_) <;> [skip; (cases bl <;> first | exact absurd (by decide) hb | rfl)]))

theorem vecModWrite_keeps {bl : Block} (f : ℕ) (value : U64) {s0 s : State} (hc0 : Keeps bl s0 s)
    (hb : bl ∉ [.out, .fns] := by exact notMem_of ‹_ ∉ _› rfl) : Keeps bl s0 (vecModWrite f value s) := by
  unfold vecModWrite; try dsimp only
  repeat' (first | (with_reducible first | assumption | intro _ | exact notMem_of hb rfl | apply modVec_keeps | apply msixDue_keeps | apply vec_keeps | apply fn_keeps | apply Keeps.ite | apply KeepsO.ite | apply KeepsO.next | split) | ((with_reducible refine Keeps.mk ?_ ?_) <;> [skip; (cases bl <;> first | exact absurd (by decide) hb | rfl)]))

theorem execIntVecModWrite_keeps {bl : Block} (f : FuncId) (value : U64) {s0 s : State} (hc0 : Keeps bl s0 s)
    (hb : bl ∉ [.out, .fns] := by exact notMem_of ‹_ ∉ _› rfl) : KeepsO bl s0 (execIntVecModWrite f value s) := by
  unfold execIntVecModWrite; try dsimp only
  repeat' (with_reducible first | assumption | intro _ | exact notMem_of hb rfl | apply vecModWrite_keeps | apply hostReaches_keeps | apply guarded_keeps | apply Keeps.ite | apply KeepsO.ite | apply KeepsO.next | split)

theorem noticeWakes_keeps {bl : Block} (b : Box) {s0 s : State} (hc0 : Keeps bl s0 s)
    (hb : bl ∉ [.eic, .eng, .pwr] := by exact notMem_of ‹_ ∉ _› rfl) : Keeps bl s0 (noticeWakes b s) := by
  unfold noticeWakes; try dsimp only
  repeat' (first | (with_reducible first | assumption | intro _ | exact notMem_of hb rfl | apply coresSleep_keeps | apply modTarget_keeps | apply modEng_keeps | apply Keeps.ite | apply KeepsO.ite | apply KeepsO.next | split) | ((with_reducible refine Keeps.mk ?_ ?_) <;> [skip; (cases bl <;> first | exact absurd (by decide) hb | rfl)]))

theorem commitBox_keeps {bl : Block} (b : Box) (seq : U16) (typ : Byte) {s0 s : State} (hc0 : Keeps bl s0 s)
    (hb : bl ∉ [.out, .eic, .mail, .eng, .fns, .pwr] := by exact notMem_of ‹_ ∉ _› rfl) : Keeps bl s0 (commitBox b seq typ s) := by
  unfold commitBox; try dsimp only
  repeat' (with_reducible first | assumption | intro _ | exact notMem_of hb rfl | apply box_keeps | apply boxKey_keeps | apply commitIn_keeps | apply noticeWakes_keeps | apply Keeps.ite | apply KeepsO.ite | apply KeepsO.next | split)

theorem execMbxInCommit_keeps {bl : Block} (box : Box) (seq : U16) (typ : Byte) {s0 s : State} (hc0 : Keeps bl s0 s)
    (hb : bl ∉ [.out, .eic, .mail, .eng, .fns, .pwr] := by exact notMem_of ‹_ ∉ _› rfl) : KeepsO bl s0 (execMbxInCommit box seq typ s) := by
  unfold execMbxInCommit; try dsimp only
  repeat' (with_reducible first | assumption | intro _ | exact notMem_of hb rfl | apply commitBox_keeps | apply canCommit_keeps | apply guarded_keeps | apply box_keeps | apply Keeps.ite | apply KeepsO.ite | apply KeepsO.next | split)

theorem execMbxOutDone_keeps {bl : Block} (box : Box) {s0 s : State} (hc0 : Keeps bl s0 s)
    (hb : bl ∉ [.mail] := by exact notMem_of ‹_ ∉ _› rfl) : KeepsO bl s0 (execMbxOutDone box s) := by
  unfold execMbxOutDone; try dsimp only
  repeat' (with_reducible first | assumption | intro _ | exact notMem_of hb rfl | apply done_keeps | apply live_keeps | apply outDone_keeps | apply hostReaches_keeps | apply guarded_keeps | apply box_keeps | apply Keeps.ite | apply KeepsO.ite | apply KeepsO.next | split)

theorem execMbxOutboundPost_keeps {bl : Block} (box : Box) {s0 s : State} (hc0 : Keeps bl s0 s)
    (hb : bl ∉ [.out, .mail, .fns] := by exact notMem_of ‹_ ∉ _› rfl) : KeepsO bl s0 (execMbxOutboundPost box s) := by
  unfold execMbxOutboundPost; try dsimp only
  repeat' (with_reducible first | assumption | intro _ | exact notMem_of hb rfl | apply boxKey_keeps | apply postWaiting_keeps | apply fwRuns_keeps | apply guarded_keeps | apply box_keeps | apply Keeps.ite | apply KeepsO.ite | apply KeepsO.next | split)

theorem domainRests_keeps {bl : Block} {s0 s : State} (hc0 : Keeps bl s0 s)
    (hb : bl ∉ [.pwr] := by exact notMem_of ‹_ ∉ _› rfl) : Keeps bl s0 (domainRests s) := by
  unfold domainRests; try dsimp only
  repeat' (first | (with_reducible first | assumption | intro _ | exact notMem_of hb rfl | apply box_keeps | apply Keeps.ite | apply KeepsO.ite | apply KeepsO.next | split) | ((with_reducible refine Keeps.mk ?_ ?_) <;> [skip; (cases bl <;> first | exact absurd (by decide) hb | rfl)]))

theorem startRead_keeps {bl : Block} (b : Box) (n : Notice) {s0 s : State} (hc0 : Keeps bl s0 s)
    (hb : bl ∉ [.out, .mail, .fns, .pwr] := by exact notMem_of ‹_ ∉ _› rfl) : Keeps bl s0 (startRead b n s) := by
  unfold startRead; try dsimp only
  repeat' (first | (with_reducible first | assumption | intro _ | exact notMem_of hb rfl | apply bodySize_keeps | apply emit_keeps | apply modBox_keeps | apply boxKey_keeps | apply postOut_keeps | apply domainRests_keeps | apply badPtr_keeps | apply boxChan_keeps | apply Keeps.ite | apply KeepsO.ite | apply KeepsO.next | split) | ((with_reducible refine Keeps.mk ?_ ?_) <;> [skip; (cases bl <;> first | exact absurd (by decide) hb | rfl)]))

theorem execMbxNoticeTake_keeps {bl : Block} (box : Box) {s0 s : State} (hc0 : Keeps bl s0 s)
    (hb : bl ∉ [.out, .eic, .mail, .fns, .pwr] := by exact notMem_of ‹_ ∉ _› rfl) : KeepsO bl s0 (execMbxNoticeTake box s) := by
  unfold execMbxNoticeTake; try dsimp only
  repeat' (first | (with_reducible first | assumption | intro _ | exact notMem_of hb rfl | apply modBox_keeps | apply boxSrcs_keeps | apply withRises_keeps | apply startRead_keeps | apply boxKey_keeps | apply canTake_keeps | apply guarded_keeps | apply box_keeps | apply Keeps.ite | apply KeepsO.ite | apply KeepsO.next | split) | ((with_reducible refine Keeps.mk ?_ ?_) <;> [skip; (cases bl <;> first | exact absurd (by decide) hb | rfl)]))

theorem refuseHeader_keeps {bl : Block} (c : Chan) (n : Notice) (h : BitVec 128) (st : ℕ) {s0 s : State} (hc0 : Keeps bl s0 s)
    (hb : bl ∉ [.out, .mail, .fns] := by exact notMem_of ‹_ ∉ _› rfl) : Keeps bl s0 (refuseHeader c n h st s) := by
  unfold refuseHeader; try dsimp only
  repeat' (with_reducible first | assumption | intro _ | exact notMem_of hb rfl | apply sender_keeps | apply hdrSeq_keeps | apply hdrByte_keeps | apply replyHeader_keeps | apply chanKey_keeps | apply writeReply_keeps | apply hdrReply_keeps | apply replyAligned_keeps | apply Keeps.ite | apply KeepsO.ite | apply KeepsO.next | split)

theorem scriptLoadCmd_keeps {bl : Block} (ctx : CmdCtx) (b : List Byte) {s0 s : State} (hc0 : Keeps bl s0 s)
    (hb : bl ∉ [.out, .mail, .eng, .fns] := by exact notMem_of ‹_ ∉ _› rfl) : Keeps bl s0 (scriptLoadCmd ctx b s) := by
  unfold scriptLoadCmd; try dsimp only
  repeat' (with_reducible first | assumption | intro _ | exact notMem_of hb rfl | apply emit_keeps | apply begun_keeps | apply scriptLoadOp_keeps | apply chan_keeps | apply sender_keeps | apply Keeps.ite | apply KeepsO.ite | apply KeepsO.next | split)

theorem runCommand_keeps {bl : Block} (ctx : CmdCtx) (code : ℕ) (b : List Byte) {s0 s : State} (hc0 : Keeps bl s0 s)
    (hb : bl ∉ [.out, .free, .eic, .mail, .eng, .sch, .front, .dma, .tb, .topo, .fns, .slots, .err, .pair, .flash] := by exact notMem_of ‹_ ∉ _› rfl) : Keeps bl s0 (runCommand ctx code b s) := by
  unfold runCommand; try dsimp only
  repeat' (with_reducible first | assumption | intro _ | exact notMem_of hb rfl | apply begun_keeps | apply fwActivateOp_keeps | apply fwVerifyOp_keeps | apply fwEraseOp_keeps | apply fwWriteOp_keeps | apply fwQueryOp_keeps | apply pairResyncOp_keeps | apply pairSwitchOp_keeps | apply pairQueryOp_keeps | apply devQueryOp_keeps | apply assignBodyOf_keeps | apply devAssignOp_keeps | apply funcQueryOp_keeps | apply funcModifyOp_keeps | apply vfDestroyOp_keeps | apply funcDescOf_keeps | apply vfCreateOp_keeps | apply bufReleaseCmd_keeps | apply bufCarveCmd_keeps | apply queueStartCmd_keeps | apply queueStopCmd_keeps | apply scriptUnbindOp_keeps | apply bindBodyOf_keeps | apply scriptBindOp_keeps | apply scriptUnloadOp_keeps | apply scriptLoadCmd_keeps | apply queryOp_keeps | apply releaseOp_keeps | apply admitBodyOf_keeps | apply admitOp_keeps | apply topoBindSlotOp_keeps | apply topoPortDisableOp_keeps | apply topoPortResumeOp_keeps | apply topoPortSuspendOp_keeps | apply topoDeviceResetOp_keeps | apply topoBodyOf_keeps | apply topoPortResetOp_keeps | apply Keeps.ite | apply KeepsO.ite | apply KeepsO.next | split)

theorem gotBlock_keeps {bl : Block} (k : ℕ) (c : Chan) (n : Notice) (ok : Bool) (h : BitVec 128) (body : List Byte) {s0 s : State} (hc0 : Keeps bl s0 s)
    (hb : bl ∉ [.out, .free, .eic, .mail, .eng, .sch, .front, .dma, .tb, .topo, .fns, .slots, .err, .pair, .flash] := by exact notMem_of ‹_ ∉ _› rfl) : Keeps bl s0 (gotBlock k c n ok h body s) := by
  unfold gotBlock; try dsimp only
  repeat' (with_reducible first | assumption | intro _ | exact notMem_of hb rfl | apply hdrReply_keeps | apply runCommand_keeps | apply refuseHeader_keeps | apply headerStatus_keeps | apply postOut_keeps | apply Keeps.ite | apply KeepsO.ite | apply KeepsO.next | split)

theorem execMbxCommandRead_keeps {bl : Block} (box : Box) (ok : Bool) (hdr : BitVec 128) (body : List Byte) {s0 s : State} (hc0 : Keeps bl s0 s)
    (hb : bl ∉ [.out, .free, .eic, .mail, .eng, .sch, .front, .dma, .tb, .topo, .fns, .slots, .err, .pair, .pwr, .flash] := by exact notMem_of ‹_ ∉ _› rfl) : KeepsO bl s0 (execMbxCommandRead box ok hdr body s) := by
  unfold execMbxCommandRead; try dsimp only
  repeat' (first | (with_reducible first | assumption | intro _ | exact notMem_of hb rfl | apply done_keeps | apply gotBlock_keeps | apply mread_keeps | apply onChip_keeps | apply domainRests_keeps | apply modBox_keeps | apply coresServe_keeps | apply guarded_keeps | apply boxKey_keeps | apply boxChan_keeps | apply box_keeps | apply Keeps.ite | apply KeepsO.ite | apply KeepsO.next | split) | ((with_reducible refine Keeps.mk ?_ ?_) <;> [skip; (cases bl <;> first | exact absurd (by decide) hb | rfl)]))

theorem i3cWriteByte_keeps {bl : Block} (a : ℕ) (b : Byte) {s0 s : State} (hc0 : Keeps bl s0 s)
    (hb : bl ∉ [.out, .eic, .mail, .eng, .fns, .pwr] := by exact notMem_of ‹_ ∉ _› rfl) : Keeps bl s0 (i3cWriteByte a b s) := by
  unfold i3cWriteByte; try dsimp only
  repeat' (first | (with_reducible first | assumption | intro _ | exact notMem_of hb rfl | apply outDone_keeps | apply modBox_keeps | apply mread_keeps | apply commitBox_keeps | apply mput_keeps | apply Keeps.ite | apply KeepsO.ite | apply KeepsO.next | split) | ((with_reducible refine Keeps.mk ?_ ?_) <;> [skip; (cases bl <;> first | exact absurd (by decide) hb | rfl)]))

theorem i3cWriteBytes_keeps {bl : Block} (a : Nat) (l : List Byte) {s0 s : State} (hc0 : Keeps bl s0 s)
    (hb : bl ∉ [.out, .eic, .mail, .eng, .fns, .pwr] := by exact notMem_of ‹_ ∉ _› rfl) :
    Keeps bl s0 (i3cWriteBytes a l s) := by
  induction l generalizing a s with
  | nil => exact hc0
  | cons b r ih => exact ih _ (i3cWriteByte_keeps _ _ hc0)

theorem execI3cPrivateWrite_keeps {bl : Block} (offset : U16) (data : List Byte) {s0 s : State} (hc0 : Keeps bl s0 s)
    (hb : bl ∉ [.out, .eic, .mail, .eng, .fns, .pwr] := by exact notMem_of ‹_ ∉ _› rfl) : KeepsO bl s0 (execI3cPrivateWrite offset data s) := by
  unfold execI3cPrivateWrite; try dsimp only
  repeat' (first | (with_reducible first | assumption | intro _ | exact notMem_of hb rfl | apply i3cWriteBytes_keeps | apply i3cHears_keeps | apply guarded_keeps | apply Keeps.ite | apply KeepsO.ite | apply KeepsO.next | split) | ((with_reducible refine Keeps.mk ?_ ?_) <;> [skip; (cases bl <;> first | exact absurd (by decide) hb | rfl)]))

theorem execI3cPrivateRead_keeps {bl : Block} (count : ℕ) {s0 s : State} (hc0 : Keeps bl s0 s)
    (hb : bl ∉ [.out] := by exact notMem_of ‹_ ∉ _› rfl) : KeepsO bl s0 (execI3cPrivateRead count s) := by
  unfold execI3cPrivateRead; try dsimp only
  repeat' (with_reducible first | assumption | intro _ | exact notMem_of hb rfl | apply i3cReadByte_keeps | apply emit_keeps | apply i3cHears_keeps | apply guarded_keeps | apply Keeps.ite | apply KeepsO.ite | apply KeepsO.next | split)

theorem execEntdaa_keeps {bl : Block} (addr : BitVec 7) {s0 s : State} (hc0 : Keeps bl s0 s)
    (hb : bl ∉ [.mail] := by exact notMem_of ‹_ ∉ _› rfl) : KeepsO bl s0 (execEntdaa addr s) := by
  unfold execEntdaa; try dsimp only
  repeat' (first | (with_reducible first | assumption | intro _ | exact notMem_of hb rfl | apply live_keeps | apply guarded_keeps | apply Keeps.ite | apply KeepsO.ite | apply KeepsO.next | split) | ((with_reducible refine Keeps.mk ?_ ?_) <;> [skip; (cases bl <;> first | exact absurd (by decide) hb | rfl)]))

theorem execI3cBusReset_keeps {bl : Block} {s0 s : State} (hc0 : Keeps bl s0 s)
    (hb : bl ∉ [.out, .eic, .mail, .fns] := by exact notMem_of ‹_ ∉ _› rfl) : KeepsO bl s0 (execI3cBusReset s) := by
  unfold execI3cBusReset; try dsimp only
  repeat' (first | (with_reducible first | assumption | intro _ | exact notMem_of hb rfl | apply modBox_keeps | apply withRises_keeps | apply live_keeps | apply guarded_keeps | apply Keeps.ite | apply KeepsO.ite | apply KeepsO.next | split) | ((with_reducible refine Keeps.mk ?_ ?_) <;> [skip; (cases bl <;> first | exact absurd (by decide) hb | rfl)]))

theorem pwrCtlWrite_keeps {bl : Block} (v : U32) {s0 s : State} (hc0 : Keeps bl s0 s)
    (hb : bl ∉ [.ctl, .pwr] := by exact notMem_of ‹_ ∉ _› rfl) : Keeps bl s0 (pwrCtlWrite v s) := by
  unfold pwrCtlWrite; try dsimp only
  repeat' (first | (with_reducible first | assumption | intro _ | exact notMem_of hb rfl | apply Keeps.ite | apply KeepsO.ite | apply KeepsO.next | split) | ((with_reducible refine Keeps.mk ?_ ?_) <;> [skip; (cases bl <;> first | exact absurd (by decide) hb | rfl)]))

theorem execPwrTargetWrite_keeps {bl : Block} (value : U32) {s0 s : State} (hc0 : Keeps bl s0 s)
    (hb : bl ∉ [.ctl, .pwr] := by exact notMem_of ‹_ ∉ _› rfl) : KeepsO bl s0 (execPwrTargetWrite value s) := by
  unfold execPwrTargetWrite; try dsimp only
  repeat' (with_reducible first | assumption | intro _ | exact notMem_of hb rfl | apply pwrCtlWrite_keeps | apply hostReaches_keeps | apply guarded_keeps | apply Keeps.ite | apply KeepsO.ite | apply KeepsO.next | split)

theorem beginEntry_keeps {bl : Block} (st : PowerState) {s0 s : State} (hc0 : Keeps bl s0 s)
    (hb : bl ∉ [.out, .eic, .mail, .eng, .sch, .front, .dma, .tb, .topo, .fns, .slots, .err, .pair, .pwr] := by exact notMem_of ‹_ ∉ _› rfl) : Keeps bl s0 (beginEntry st s) := by
  unfold beginEntry; try dsimp only
  repeat' (first | (with_reducible first | assumption | intro _ | exact notMem_of hb rfl | apply hubRung_keeps | apply dropRes_keeps | apply entryRefusal_keeps | apply Keeps.ite | apply KeepsO.ite | apply KeepsO.next | split) | ((with_reducible refine Keeps.mk ?_ ?_) <;> [skip; (cases bl <;> first | exact absurd (by decide) hb | rfl)]))

theorem execPf0D3hotEntry_keeps {bl : Block} {s0 s : State} (hc0 : Keeps bl s0 s)
    (hb : bl ∉ [.out, .eic, .mail, .eng, .sch, .front, .dma, .tb, .topo, .fns, .slots, .err, .pair, .pwr] := by exact notMem_of ‹_ ∉ _› rfl) : KeepsO bl s0 (execPf0D3hotEntry s) := by
  unfold execPf0D3hotEntry; try dsimp only
  repeat' (first | (with_reducible first | assumption | intro _ | exact notMem_of hb rfl | apply beginEntry_keeps | apply targetState_keeps | apply live_keeps | apply guarded_keeps | apply Keeps.ite | apply KeepsO.ite | apply KeepsO.next | split) | ((with_reducible refine Keeps.mk ?_ ?_) <;> [skip; (cases bl <;> first | exact absurd (by decide) hb | rfl)]))

theorem execPmeTurnOff_keeps {bl : Block} {s0 s : State} (hc0 : Keeps bl s0 s)
    (hb : bl ∉ [.out, .eic, .mail, .eng, .sch, .front, .dma, .tb, .topo, .fns, .slots, .err, .pair, .pwr] := by exact notMem_of ‹_ ∉ _› rfl) : KeepsO bl s0 (execPmeTurnOff s) := by
  unfold execPmeTurnOff; try dsimp only
  repeat' (first | (with_reducible first | assumption | intro _ | exact notMem_of hb rfl | apply stopLanes_keeps | apply entryRefusal_keeps | apply targetState_keeps | apply emit_keeps | apply live_keeps | apply guarded_keeps | apply Keeps.ite | apply KeepsO.ite | apply KeepsO.next | split) | ((with_reducible refine Keeps.mk ?_ ?_) <;> [skip; (cases bl <;> first | exact absurd (by decide) hb | rfl)]))

theorem suspendPort_keeps {bl : Block} (p : ℕ) {s0 s : State} (hc0 : Keeps bl s0 s)
    (hb : bl ∉ [.front, .topo] := by exact notMem_of ‹_ ∉ _› rfl) : Keeps bl s0 (suspendPort p s) := by
  unfold suspendPort; try dsimp only
  repeat' (first | (with_reducible first | assumption | intro _ | exact notMem_of hb rfl | apply modPort_keeps | apply suspendOp_keeps | apply Keeps.ite | apply KeepsO.ite | apply KeepsO.next | split) | ((with_reducible refine Keeps.mk ?_ ?_) <;> [skip; (cases bl <;> first | exact absurd (by decide) hb | rfl)]))

theorem enterState_keeps {bl : Block} (st : PowerState) {s0 s : State} (hc0 : Keeps bl s0 s)
    (hb : bl ∉ [.front, .topo, .slots, .pwr] := by exact notMem_of ‹_ ∉ _› rfl) : Keeps bl s0 (enterState st s) := by
  unfold enterState; try dsimp only
  repeat' (first | (with_reducible first | assumption | intro _ | exact notMem_of hb rfl | apply sampleOf_keeps | apply modDie_keeps | apply suspendPort_keeps | apply each_keeps | apply awakePorts_keeps | apply Keeps.ite | apply KeepsO.ite | apply KeepsO.next | split) | ((with_reducible refine Keeps.mk ?_ ?_) <;> [skip; (cases bl <;> first | exact absurd (by decide) hb | rfl)]))

theorem execLowPowerEnter_keeps {bl : Block} {s0 s : State} (hc0 : Keeps bl s0 s)
    (hb : bl ∉ [.front, .topo, .slots, .pwr] := by exact notMem_of ‹_ ∉ _› rfl) : KeepsO bl s0 (execLowPowerEnter s) := by
  unfold execLowPowerEnter; try dsimp only
  repeat' (with_reducible first | assumption | intro _ | exact notMem_of hb rfl | apply done_keeps | apply enterState_keeps | apply slewed_keeps | apply hubRung_keeps | apply live_keeps | apply guarded_keeps | apply Keeps.ite | apply KeepsO.ite | apply KeepsO.next | split)

theorem execEngineClockGate_keeps {bl : Block} (e : EngId) {s0 s : State} (hc0 : Keeps bl s0 s)
    (hb : bl ∉ [.eng] := by exact notMem_of ‹_ ∉ _› rfl) : KeepsO bl s0 (execEngineClockGate e s) := by
  unfold execEngineClockGate; try dsimp only
  repeat' (first | (with_reducible first | assumption | intro _ | exact notMem_of hb rfl | apply modEng_keeps | apply clockNeeded_keeps | apply live_keeps | apply guarded_keeps | apply Keeps.ite | apply KeepsO.ite | apply KeepsO.next | split) | ((with_reducible refine Keeps.mk ?_ ?_) <;> [skip; (cases bl <;> first | exact absurd (by decide) hb | rfl)]))

theorem execWatchSample_keeps {bl : Block} (wakeIn : Bool) (wakes : U64) {s0 s : State} (hc0 : Keeps bl s0 s)
    (hb : bl ∉ [.pwr] := by exact notMem_of ‹_ ∉ _› rfl) : KeepsO bl s0 (execWatchSample wakeIn wakes s) := by
  unfold execWatchSample; try dsimp only
  repeat' (first | (with_reducible first | assumption | intro _ | exact notMem_of hb rfl | apply startWake_keeps | apply changedSlots_keeps | apply sampleCause_keeps | apply locPort_keeps | apply wokenPorts_keeps | apply live_keeps | apply guarded_keeps | apply Keeps.ite | apply KeepsO.ite | apply KeepsO.next | split) | ((with_reducible refine Keeps.mk ?_ ?_) <;> [skip; (cases bl <;> first | exact absurd (by decide) hb | rfl)]))

theorem execPf0D0Entry_keeps {bl : Block} {s0 s : State} (hc0 : Keeps bl s0 s)
    (hb : bl ∉ [.pwr] := by exact notMem_of ‹_ ∉ _› rfl) : KeepsO bl s0 (execPf0D0Entry s) := by
  unfold execPf0D0Entry; try dsimp only
  repeat' (first | (with_reducible first | assumption | intro _ | exact notMem_of hb rfl | apply startWake_keeps | apply live_keeps | apply guarded_keeps | apply Keeps.ite | apply KeepsO.ite | apply KeepsO.next | split) | ((with_reducible refine Keeps.mk ?_ ?_) <;> [skip; (cases bl <;> first | exact absurd (by decide) hb | rfl)]))

theorem execWakeInAssert_keeps {bl : Block} {s0 s : State} (hc0 : Keeps bl s0 s)
    (hb : bl ∉ [.out, .pwr] := by exact notMem_of ‹_ ∉ _› rfl) : KeepsO bl s0 (execWakeInAssert s) := by
  unfold execWakeInAssert; try dsimp only
  repeat' (first | (with_reducible first | assumption | intro _ | exact notMem_of hb rfl | apply startWake_keeps | apply live_keeps | apply emit_keeps | apply done_keeps | apply Keeps.ite | apply KeepsO.ite | apply KeepsO.next | split) | ((with_reducible refine Keeps.mk ?_ ?_) <;> [skip; (cases bl <;> first | exact absurd (by decide) hb | rfl)]))

theorem wakeStep_keeps {bl : Block} (w : WakeStep) {s0 s : State} (hc0 : Keeps bl s0 s)
    (hb : bl ∉ [.pwr] := by exact notMem_of ‹_ ∉ _› rfl) : Keeps bl s0 (wakeStep w s) := by
  unfold wakeStep; try dsimp only
  repeat' (first | (with_reducible first | assumption | intro _ | exact notMem_of hb rfl | apply Keeps.ite | apply KeepsO.ite | apply KeepsO.next | split) | ((with_reducible refine Keeps.mk ?_ ?_) <;> [skip; (cases bl <;> first | exact absurd (by decide) hb | rfl)]))

theorem execWakeRegulatorReady_keeps {bl : Block} {s0 s : State} (hc0 : Keeps bl s0 s)
    (hb : bl ∉ [.pwr] := by exact notMem_of ‹_ ∉ _› rfl) : KeepsO bl s0 (execWakeRegulatorReady s) := by
  unfold execWakeRegulatorReady; try dsimp only
  repeat' (with_reducible first | assumption | intro _ | exact notMem_of hb rfl | apply wakeStep_keeps | apply deepWake_keeps | apply guarded_keeps | apply Keeps.ite | apply KeepsO.ite | apply KeepsO.next | split)

theorem execWakeClockReady_keeps {bl : Block} {s0 s : State} (hc0 : Keeps bl s0 s)
    (hb : bl ∉ [.pwr] := by exact notMem_of ‹_ ∉ _› rfl) : KeepsO bl s0 (execWakeClockReady s) := by
  unfold execWakeClockReady; try dsimp only
  repeat' (with_reducible first | assumption | intro _ | exact notMem_of hb rfl | apply wakeStep_keeps | apply deepWake_keeps | apply guarded_keeps | apply Keeps.ite | apply KeepsO.ite | apply KeepsO.next | split)

theorem execWakeMemoryReady_keeps {bl : Block} {s0 s : State} (hc0 : Keeps bl s0 s)
    (hb : bl ∉ [.out, .eic, .mail, .eng, .sch, .front, .dma, .tb, .topo, .fns, .slots, .pwr] := by exact notMem_of ‹_ ∉ _› rfl) : KeepsO bl s0 (execWakeMemoryReady s) := by
  unfold execWakeMemoryReady; try dsimp only
  repeat' (with_reducible first | assumption | intro _ | exact notMem_of hb rfl | apply wakeStep_keeps | apply keepAlive_keeps | apply each_keeps | apply deepWake_keeps | apply guarded_keeps | apply Keeps.ite | apply KeepsO.ite | apply KeepsO.next | split)

theorem reachRun_keeps {bl : Block} (c : ℕ × ℕ) {s0 s : State} (hc0 : Keeps bl s0 s)
    (hb : bl ∉ [.out, .front, .topo, .pwr] := by exact notMem_of ‹_ ∉ _› rfl) : Keeps bl s0 (reachRun c s) := by
  unfold reachRun; try dsimp only
  repeat' (first | (with_reducible first | assumption | intro _ | exact notMem_of hb rfl | apply resumeOp_keeps | apply port_keeps | apply noteWake_keeps | apply each_keeps | apply emit_keeps | apply epoch32_keeps | apply Keeps.ite | apply KeepsO.ite | apply KeepsO.next | split) | ((with_reducible refine Keeps.mk ?_ ?_) <;> [skip; (cases bl <;> first | exact absurd (by decide) hb | rfl)]))

theorem execWakeLogicReady_keeps {bl : Block} {s0 s : State} (hc0 : Keeps bl s0 s)
    (hb : bl ∉ [.out, .front, .topo, .pwr] := by exact notMem_of ‹_ ∉ _› rfl) : KeepsO bl s0 (execWakeLogicReady s) := by
  unfold execWakeLogicReady; try dsimp only
  repeat' (with_reducible first | assumption | intro _ | exact notMem_of hb rfl | apply done_keeps | apply reachRun_keeps | apply deepWake_keeps | apply live_keeps | apply guarded_keeps | apply Keeps.ite | apply KeepsO.ite | apply KeepsO.next | split)

theorem abortLost_keeps {bl : Block} (old : Tbl MBox) {s0 s : State} (hc0 : Keeps bl s0 s)
    (hb : bl ∉ [.out, .mail, .fns] := by exact notMem_of ‹_ ∉ _› rfl) : Keeps bl s0 (abortLost old s) := by
  unfold abortLost; try dsimp only
  repeat' (with_reducible first | assumption | intro _ | exact notMem_of hb rfl | apply lostNotices_keeps | apply postAborted_keeps | apply each_keeps | apply Keeps.ite | apply KeepsO.ite | apply KeepsO.next | split)

theorem resetCore_keeps {bl : Block} (r : ResetForm) {s0 s : State} (hc0 : Keeps bl s0 s)
    (hb : bl ∉ [.out, .eic, .mail, .eng, .sch, .front, .dma, .tb, .topo, .fns, .err, .pair, .ctl, .pwr] := by exact notMem_of ‹_ ∉ _› rfl) : Keeps bl s0 (resetCore r s) := by
  unfold resetCore; try dsimp only
  repeat' (first | (with_reducible first | assumption | intro _ | exact notMem_of hb rfl | apply pairAfter_keeps | apply errAfter_keeps | apply funcAfter_keeps | apply fn_keeps | apply portAfter_keeps | apply port_keeps | apply tbAfter_keeps | apply dmaAfter_keeps | apply schAfter_keeps | apply engAfter_keeps | apply eng_keeps | apply eicAfter_keeps | apply box_keeps | apply abortLost_keeps | apply Keeps.ite | apply KeepsO.ite | apply KeepsO.next | split) | ((with_reducible refine Keeps.mk ?_ ?_) <;> [skip; (cases bl <;> first | exact absurd (by decide) hb | rfl)]))

theorem takeDies_keeps {bl : Block} {s0 s : State} (hc0 : Keeps bl s0 s)
    (hb : bl ∉ [.slots] := by exact notMem_of ‹_ ∉ _› rfl) : Keeps bl s0 (takeDies s) := by
  unfold takeDies; try dsimp only
  repeat' (first | (with_reducible first | assumption | intro _ | exact notMem_of hb rfl | apply modDie_keeps | apply recheck_keeps | apply die_keeps | apply each_keeps | apply Keeps.ite | apply KeepsO.ite | apply KeepsO.next | split) | ((with_reducible refine Keeps.mk ?_ ?_) <;> [skip; (cases bl <;> first | exact absurd (by decide) hb | rfl)]))

theorem pcieReset_keeps {bl : Block} (kind : ℕ) {s0 s : State} (hc0 : Keeps bl s0 s)
    (hb : bl ∉ [.out, .eic, .mail, .eng, .sch, .front, .dma, .tb, .topo, .fns, .err, .pair, .ctl, .pwr] := by exact notMem_of ‹_ ∉ _› rfl) : Keeps bl s0 (pcieReset kind s) := by
  unfold pcieReset; try dsimp only
  repeat' (with_reducible first | assumption | intro _ | exact notMem_of hb rfl | apply sendHandover_keeps | apply resetCore_keeps | apply isStandby_keeps | apply Keeps.ite | apply KeepsO.ite | apply KeepsO.next | split)

theorem execCoreReset_keeps {bl : Block} {s0 s : State} (hc0 : Keeps bl s0 s)
    (hb : bl ∉ [.out, .eic, .mail, .eng, .sch, .front, .dma, .tb, .topo, .fns, .slots, .err, .pair, .ctl, .pwr] := by exact notMem_of ‹_ ∉ _› rfl) : KeepsO bl s0 (execCoreReset s) := by
  unfold execCoreReset; try dsimp only
  repeat' (with_reducible first | assumption | intro _ | exact notMem_of hb rfl | apply resetCore_keeps | apply takeDies_keeps | apply guarded_keeps | apply Keeps.ite | apply KeepsO.ite | apply KeepsO.next | split)

theorem execPerstAssert_keeps {bl : Block} {s0 s : State} (hc0 : Keeps bl s0 s)
    (hb : bl ∉ [.out, .eic, .mail, .eng, .sch, .front, .dma, .tb, .topo, .fns, .err, .pair, .ctl, .pwr] := by exact notMem_of ‹_ ∉ _› rfl) : KeepsO bl s0 (execPerstAssert s) := by
  unfold execPerstAssert; try dsimp only
  repeat' (first | (with_reducible first | assumption | intro _ | exact notMem_of hb rfl | apply pcieReset_keeps | apply done_keeps | apply Keeps.ite | apply KeepsO.ite | apply KeepsO.next | split) | ((with_reducible refine Keeps.mk ?_ ?_) <;> [skip; (cases bl <;> first | exact absurd (by decide) hb | rfl)]))

theorem execPerstDeassert_keeps {bl : Block} {s0 s : State} (hc0 : Keeps bl s0 s)
    (hb : bl ∉ [.out, .slots, .pwr] := by exact notMem_of ‹_ ∉ _› rfl) : KeepsO bl s0 (execPerstDeassert s) := by
  unfold execPerstDeassert; try dsimp only
  repeat' (first | (with_reducible first | assumption | intro _ | exact notMem_of hb rfl | apply takeDies_keeps | apply emit_keeps | apply guarded_keeps | apply Keeps.ite | apply KeepsO.ite | apply KeepsO.next | split) | ((with_reducible refine Keeps.mk ?_ ?_) <;> [skip; (cases bl <;> first | exact absurd (by decide) hb | rfl)]))

theorem execHotReset_keeps {bl : Block} {s0 s : State} (hc0 : Keeps bl s0 s)
    (hb : bl ∉ [.out, .eic, .mail, .eng, .sch, .front, .dma, .tb, .topo, .fns, .slots, .err, .pair, .ctl, .pwr] := by exact notMem_of ‹_ ∉ _› rfl) : KeepsO bl s0 (execHotReset s) := by
  unfold execHotReset; try dsimp only
  repeat' (with_reducible first | assumption | intro _ | exact notMem_of hb rfl | apply pcieReset_keeps | apply takeDies_keeps | apply guarded_keeps | apply Keeps.ite | apply KeepsO.ite | apply KeepsO.next | split)

theorem execYieldResetDone_keeps {bl : Block} {s0 s : State} (hc0 : Keeps bl s0 s)
    (hb : bl ∉ [.out, .eic, .mail, .eng, .sch, .front, .dma, .tb, .topo, .fns, .slots, .err, .pair, .ctl, .pwr] := by exact notMem_of ‹_ ∉ _› rfl) : KeepsO bl s0 (execYieldResetDone s) := by
  unfold execYieldResetDone; try dsimp only
  repeat' (with_reducible first | assumption | intro _ | exact notMem_of hb rfl | apply resetCore_keeps | apply takeDies_keeps | apply setPair_keeps | apply live_keeps | apply guarded_keeps | apply Keeps.ite | apply KeepsO.ite | apply KeepsO.next | split)

theorem powerOn_keeps {bl : Block} {s0 s : State} (hc0 : Keeps bl s0 s)
    (hb : bl ∉ [.eic, .mail, .eng, .sch, .front, .dma, .tb, .topo, .fns, .err, .pair, .ctl, .pwr] := by exact notMem_of ‹_ ∉ _› rfl) : Keeps bl s0 (powerOn s) := by
  unfold powerOn; try dsimp only
  repeat' (first | (with_reducible first | assumption | intro _ | exact notMem_of hb rfl | apply portAfter_keeps | apply port_keeps | apply eicAfter_keeps | apply Keeps.ite | apply KeepsO.ite | apply KeepsO.next | split) | ((with_reducible refine Keeps.mk ?_ ?_) <;> [skip; (cases bl <;> first | exact absurd (by decide) hb | rfl)]))

theorem execPowerOnReset_keeps {bl : Block} {s0 s : State} (hc0 : Keeps bl s0 s)
    (hb : bl ∉ [.eic, .mail, .eng, .sch, .front, .dma, .tb, .topo, .fns, .err, .pair, .ctl, .pwr] := by exact notMem_of ‹_ ∉ _› rfl) : KeepsO bl s0 (execPowerOnReset s) := by
  unfold execPowerOnReset; try dsimp only
  repeat' (with_reducible first | assumption | intro _ | exact notMem_of hb rfl | apply powerOn_keeps | apply done_keeps | apply Keeps.ite | apply KeepsO.ite | apply KeepsO.next | split)

theorem execCoreRailLoss_keeps {bl : Block} {s0 s : State} (hc0 : Keeps bl s0 s)
    (hb : bl ∉ [.eic, .mail, .eng, .sch, .front, .dma, .tb, .topo, .fns, .err, .pair, .ctl, .pwr] := by exact notMem_of ‹_ ∉ _› rfl) : KeepsO bl s0 (execCoreRailLoss s) := by
  unfold execCoreRailLoss; try dsimp only
  repeat' (with_reducible first | assumption | intro _ | exact notMem_of hb rfl | apply powerOn_keeps | apply guarded_keeps | apply Keeps.ite | apply KeepsO.ite | apply KeepsO.next | split)

theorem execPowerOnResetEnd_keeps {bl : Block} (pairEn : Bool) (pairId : Bool) (secHost : Bool) {s0 s : State} (hc0 : Keeps bl s0 s)
    (hb : bl ∉ [.slots, .pair, .straps, .pwr] := by exact notMem_of ‹_ ∉ _› rfl) : KeepsO bl s0 (execPowerOnResetEnd pairEn pairId secHost s) := by
  unfold execPowerOnResetEnd; try dsimp only
  repeat' (first | (with_reducible first | assumption | intro _ | exact notMem_of hb rfl | apply takeDies_keeps | apply guarded_keeps | apply Keeps.ite | apply KeepsO.ite | apply KeepsO.next | split) | ((with_reducible refine Keeps.mk ?_ ?_) <;> [skip; (cases bl <;> first | exact absurd (by decide) hb | rfl)]))

theorem booted_keeps {bl : Block} (b : Bool) {s0 s : State} (hc0 : Keeps bl s0 s)
    (hb : bl ∉ [.eic, .eng, .pwr] := by exact notMem_of ‹_ ∉ _› rfl) : Keeps bl s0 (booted b s) := by
  unfold booted; try dsimp only
  repeat' (first | (with_reducible first | assumption | intro _ | exact notMem_of hb rfl | apply eng_keeps | apply target_keeps | apply source_keeps | apply bootSource_keeps | apply slotVersion_keeps | apply Keeps.ite | apply KeepsO.ite | apply KeepsO.next | split) | ((with_reducible refine Keeps.mk ?_ ?_) <;> [skip; (cases bl <;> first | exact absurd (by decide) hb | rfl)]))

theorem execBootDone_keeps {bl : Block} {s0 s : State} (hc0 : Keeps bl s0 s)
    (hb : bl ∉ [.eic, .eng, .pwr] := by exact notMem_of ‹_ ∉ _› rfl) : KeepsO bl s0 (execBootDone s) := by
  unfold execBootDone; try dsimp only
  repeat' (first | (with_reducible first | assumption | intro _ | exact notMem_of hb rfl | apply booted_keeps | apply bootSlot_keeps | apply live_keeps | apply guarded_keeps | apply Keeps.ite | apply KeepsO.ite | apply KeepsO.next | split) | ((with_reducible refine Keeps.mk ?_ ?_) <;> [skip; (cases bl <;> first | exact absurd (by decide) hb | rfl)]))

theorem after_keeps {bl : Block} (f : State → Host.Outcome State Fault Refusal) {s0 s : State}
    (hf : ∀ t, Keeps bl s0 t → KeepsO bl s0 (f t)) (hc0 : Keeps bl s0 s) : Keeps bl s0 (after f s) := by
  unfold after
  split
  · next t h => exact hf s hc0 t h
  · exact hc0

theorem winPut_keeps {bl : Block} (f : ℕ) (off : ℕ) (v : U64) {s0 s : State} (hc0 : Keeps bl s0 s)
    (hb : bl ∉ [.out, .fns] := by exact notMem_of ‹_ ∉ _› rfl) : Keeps bl s0 (winPut f off v s) := by
  unfold winPut; try dsimp only
  repeat' (first | (with_reducible first | assumption | intro _ | exact notMem_of hb rfl | apply vecModWrite_keeps | apply selCr_keeps | apply modFn_keeps | apply fn_keeps | apply Keeps.ite | apply KeepsO.ite | apply KeepsO.next | split) | ((with_reducible refine Keeps.mk ?_ ?_) <;> [skip; (cases bl <;> first | exact absurd (by decide) hb | rfl)]))

theorem qCmdWrite_keeps {bl : Block} (f : ℕ) (v : U32) {s0 s : State} (hc0 : Keeps bl s0 s)
    (hb : bl ∉ [.fns] := by exact notMem_of ‹_ ∉ _› rfl) : Keeps bl s0 (qCmdWrite f v s) := by
  unfold qCmdWrite; try dsimp only
  repeat' (first | (with_reducible first | assumption | intro _ | exact notMem_of hb rfl | apply modFn_keeps | apply fn_keeps | apply Keeps.ite | apply KeepsO.ite | apply KeepsO.next | split) | ((with_reducible refine Keeps.mk ?_ ?_) <;> [skip; (cases bl <;> first | exact absurd (by decide) hb | rfl)]))

theorem kickWrite_keeps {bl : Block} (f : FuncId) (v : U32) {s0 s : State} (hc0 : Keeps bl s0 s)
    (hb : bl ∉ [.out, .free, .eic, .mail, .eng, .sch, .front, .dma, .tb, .topo, .fns] := by exact notMem_of ‹_ ∉ _› rfl) : Keeps bl s0 (kickWrite f v s) := by
  unfold kickWrite; try dsimp only
  repeat' (with_reducible first | assumption | intro _ | exact notMem_of hb rfl | apply execQKickSq_keeps | apply execQKickSqInval_keeps | apply execQKickCr_keeps | apply after_keeps | apply Keeps.ite | apply KeepsO.ite | apply KeepsO.next | split)

theorem winWrite_keeps {bl : Block} (f : FuncId) (off : ℕ) (v : U32) {s0 s : State} (hc0 : Keeps bl s0 s)
    (hb : bl ∉ [.out, .free, .eic, .mail, .eng, .sch, .front, .dma, .tb, .topo, .fns] := by exact notMem_of ‹_ ∉ _› rfl) : Keeps bl s0 (winWrite f off v s) := by
  unfold winWrite; try dsimp only
  repeat' (first | (with_reducible first | assumption | intro _ | exact notMem_of hb rfl | apply vecReg_keeps | apply clearEvt_keeps | apply kickWrite_keeps | apply qCmdWrite_keeps | apply modFn_keeps | apply fn_keeps | apply Keeps.ite | apply KeepsO.ite | apply KeepsO.next | split) | ((with_reducible refine Keeps.mk ?_ ?_) <;> [skip; (cases bl <;> first | exact absurd (by decide) hb | rfl)]))

theorem mbxWrite_keeps {bl : Block} (b : Box) (f : ℕ) (off : ℕ) (v : U32) {s0 s : State} (hc0 : Keeps bl s0 s)
    (hb : bl ∉ [.out, .eic, .mail, .eng, .fns, .pwr] := by exact notMem_of ‹_ ∉ _› rfl) : Keeps bl s0 (mbxWrite b f off v s) := by
  unfold mbxWrite; try dsimp only
  repeat' (first | (with_reducible first | assumption | intro _ | exact notMem_of hb rfl | apply fn_keeps | apply vecReg_keeps | apply vec_keeps | apply outDone_keeps | apply modBox_keeps | apply commitBox_keeps | apply boxKey_keeps | apply Keeps.ite | apply KeepsO.ite | apply KeepsO.next | split) | ((with_reducible refine Keeps.mk ?_ ?_) <;> [skip; (cases bl <;> first | exact absurd (by decide) hb | rfl)]))

theorem msixWrite_keeps {bl : Block} (f : ℕ) (off : ℕ) (v : U32) {s0 s : State} (hc0 : Keeps bl s0 s)
    (hb : bl ∉ [.out, .fns] := by exact notMem_of ‹_ ∉ _› rfl) : Keeps bl s0 (msixWrite f off v s) := by
  unfold msixWrite; try dsimp only
  repeat' (first | (with_reducible first | assumption | intro _ | exact notMem_of hb rfl | apply msixRelease_keeps | apply withHalf_keeps | apply modVec_keeps | apply fn_keeps | apply Keeps.ite | apply KeepsO.ite | apply KeepsO.next | split) | ((with_reducible refine Keeps.mk ?_ ?_) <;> [skip; (cases bl <;> first | exact absurd (by decide) hb | rfl)]))

theorem portCtlWrite_keeps {bl : Block} (p : PortId) (v : U32) {s0 s : State} (hc0 : Keeps bl s0 s)
    (hb : bl ∉ [.out, .eic, .mail, .eng, .sch, .front, .dma, .tb, .topo, .fns, .slots, .err, .pair] := by exact notMem_of ‹_ ∉ _› rfl) : Keeps bl s0 (portCtlWrite p v s) := by
  unfold portCtlWrite; try dsimp only
  repeat' (first | (with_reducible first | assumption | intro _ | exact notMem_of hb rfl | apply execPortResume_keeps | apply execPortSuspend_keeps | apply execPortEnable_keeps | apply execPortReset_keeps | apply execPortDisable_keeps | apply after_keeps | apply modPort_keeps | apply Keeps.ite | apply KeepsO.ite | apply KeepsO.next | split) | ((with_reducible refine Keeps.mk ?_ ?_) <;> [skip; (cases bl <;> first | exact absurd (by decide) hb | rfl)]))

theorem slotRegWrite_keeps {bl : Block} (n : ℕ) (off : ℕ) (v : U64) {s0 s : State} (hc0 : Keeps bl s0 s)
    (hb : bl ∉ [.out, .eic, .mail, .eng, .sch, .front, .dma, .tb, .topo, .fns, .slots, .ctl, .pwr] := by exact notMem_of ‹_ ∉ _› rfl) : Keeps bl s0 (slotRegWrite n off v s) := by
  unfold slotRegWrite; try dsimp only
  repeat' (with_reducible first | assumption | intro _ | exact notMem_of hb rfl | apply pctlCommand_keeps | apply ctlPort_keeps | apply slotWritable_keeps | apply powerCommand_keeps | apply die_keeps | apply homeOf_keeps | apply dieOf_keeps | apply Keeps.ite | apply KeepsO.ite | apply KeepsO.next | split)

theorem tbCtlWrite_keeps {bl : Block} (v : U32) {s0 s : State} (hc0 : Keeps bl s0 s)
    (hb : bl ∉ [.tb, .ctl] := by exact notMem_of ‹_ ∉ _› rfl) : Keeps bl s0 (tbCtlWrite v s) := by
  unfold tbCtlWrite; try dsimp only
  repeat' (first | (with_reducible first | assumption | intro _ | exact notMem_of hb rfl | apply Keeps.ite | apply KeepsO.ite | apply KeepsO.next | split) | ((with_reducible refine Keeps.mk ?_ ?_) <;> [skip; (cases bl <;> first | exact absurd (by decide) hb | rfl)]))

theorem pairCfgWrite_keeps {bl : Block} (v : U32) {s0 s : State} (hc0 : Keeps bl s0 s)
    (hb : bl ∉ [.pair] := by exact notMem_of ‹_ ∉ _› rfl) : Keeps bl s0 (pairCfgWrite v s) := by
  unfold pairCfgWrite; try dsimp only
  repeat' (first | (with_reducible first | assumption | intro _ | exact notMem_of hb rfl | apply slot_keeps | apply Keeps.ite | apply KeepsO.ite | apply KeepsO.next | split) | ((with_reducible refine Keeps.mk ?_ ?_) <;> [skip; (cases bl <;> first | exact absurd (by decide) hb | rfl)]))

theorem coreResetWrite_keeps {bl : Block} (v : U32) {s0 s : State} (hc0 : Keeps bl s0 s)
    (hb : bl ∉ [.out, .eic, .mail, .eng, .sch, .front, .dma, .tb, .topo, .fns, .slots, .err, .pair, .ctl, .pwr] := by exact notMem_of ‹_ ∉ _› rfl) : Keeps bl s0 (coreResetWrite v s) := by
  unfold coreResetWrite; try dsimp only
  repeat' (with_reducible first | assumption | intro _ | exact notMem_of hb rfl | apply execCoreReset_keeps | apply after_keeps | apply Keeps.ite | apply KeepsO.ite | apply KeepsO.next | split)

theorem srcCfgWrite_keeps {bl : Block} (v : U64) {s0 s : State} (hc0 : Keeps bl s0 s)
    (hb : bl ∉ [.eic] := by exact notMem_of ‹_ ∉ _› rfl) : Keeps bl s0 (srcCfgWrite v s) := by
  unfold srcCfgWrite; try dsimp only
  repeat' (first | (with_reducible first | assumption | intro _ | exact notMem_of hb rfl | apply fn_keeps | apply modSource_keeps | apply Keeps.ite | apply KeepsO.ite | apply KeepsO.next | split) | ((with_reducible refine Keeps.mk ?_ ?_) <;> [skip; (cases bl <;> first | exact absurd (by decide) hb | rfl)]))

theorem dirtyCtlWrite_keeps {bl : Block} (f : ℕ) (v : U64) {s0 s : State} (hc0 : Keeps bl s0 s)
    (hb : bl ∉ [.fns] := by exact notMem_of ‹_ ∉ _› rfl) : Keeps bl s0 (dirtyCtlWrite f v s) := by
  unfold dirtyCtlWrite; try dsimp only
  repeat' (first | (with_reducible first | assumption | intro _ | exact notMem_of hb rfl | apply modFn_keeps | apply Keeps.ite | apply KeepsO.ite | apply KeepsO.next | split) | ((with_reducible refine Keeps.mk ?_ ?_) <;> [skip; (cases bl <;> first | exact absurd (by decide) hb | rfl)]))

theorem pf0Put_keeps {bl : Block} (a : ℕ) (v : U64) {s0 s : State} (hc0 : Keeps bl s0 s)
    (hb : bl ∉ [.out, .eic, .mail, .eng, .sch, .front, .dma, .tb, .topo, .fns, .slots, .err, .pair, .ctl, .pwr] := by exact notMem_of ‹_ ∉ _› rfl) : Keeps bl s0 (pf0Put a v s) := by
  unfold pf0Put; try dsimp only
  repeat' (first | (with_reducible first | assumption | intro _ | exact notMem_of hb rfl | apply dirtyCtlWrite_keeps | apply modFn_keeps | apply modBox_keeps | apply portFailedClear_keeps | apply slotRegWrite_keeps | apply srcCfgWrite_keeps | apply cmpTargetWrite_keeps | apply topoBaseWrite_keeps | apply winPut_keeps | apply Keeps.ite | apply KeepsO.ite | apply KeepsO.next | split) | ((with_reducible refine Keeps.mk ?_ ?_) <;> [skip; (cases bl <;> first | exact absurd (by decide) hb | rfl)]))

theorem globalWrite_keeps {bl : Block} (a : ℕ) (v : U32) {s0 s : State} (hc0 : Keeps bl s0 s)
    (hb : bl ∉ [.out, .eic, .dma, .topo, .fns] := by exact notMem_of ‹_ ∉ _› rfl) : Keeps bl s0 (globalWrite a v s) := by
  unfold globalWrite; try dsimp only
  repeat' (first | (with_reducible first | assumption | intro _ | exact notMem_of hb rfl | apply clearEvt_keeps | apply topoRingWrite_keeps | apply Keeps.ite | apply KeepsO.ite | apply KeepsO.next | split) | ((with_reducible refine Keeps.mk ?_ ?_) <;> [skip; (cases bl <;> first | exact absurd (by decide) hb | rfl)]))

theorem timebaseWrite_keeps {bl : Block} (off : ℕ) (v : U32) {s0 s : State} (hc0 : Keeps bl s0 s)
    (hb : bl ∉ [.out, .eic, .mail, .sch, .front, .dma, .tb, .topo, .fns, .ctl] := by exact notMem_of ‹_ ∉ _› rfl) : Keeps bl s0 (timebaseWrite off v s) := by
  unfold timebaseWrite; try dsimp only
  repeat' (first | (with_reducible first | assumption | intro _ | exact notMem_of hb rfl | apply execPtmStart_keeps | apply after_keeps | apply cmpCfgWrite_keeps | apply bandLen_keeps | apply tbCtlWrite_keeps | apply cpcWrite_keeps | apply axCfgWrite_keeps | apply clearEvt_keeps | apply Keeps.ite | apply KeepsO.ite | apply KeepsO.next | split) | ((with_reducible refine Keeps.mk ?_ ?_) <;> [skip; (cases bl <;> first | exact absurd (by decide) hb | rfl)]))

theorem dispatcherWrite_keeps {bl : Block} (off : ℕ) (v : U32) {s0 s : State} (hc0 : Keeps bl s0 s)
    (hb : bl ∉ [.out, .eic, .front, .topo, .fns] := by exact notMem_of ‹_ ∉ _› rfl) : Keeps bl s0 (dispatcherWrite off v s) := by
  unfold dispatcherWrite; try dsimp only
  repeat' (first | (with_reducible first | assumption | intro _ | exact notMem_of hb rfl | apply eng_keeps | apply clearEvt_keeps | apply ctxCtlWrite_keeps | apply Keeps.ite | apply KeepsO.ite | apply KeepsO.next | split) | ((with_reducible refine Keeps.mk ?_ ?_) <;> [skip; (cases bl <;> first | exact absurd (by decide) hb | rfl)]))

theorem eicWrite_keeps {bl : Block} (off : ℕ) (v : U32) {s0 s : State} (hc0 : Keeps bl s0 s)
    (hb : bl ∉ [.eic] := by exact notMem_of ‹_ ∉ _› rfl) : Keeps bl s0 (eicWrite off v s) := by
  unfold eicWrite; try dsimp only
  repeat' (first | (with_reducible first | assumption | intro _ | exact notMem_of hb rfl | apply Keeps.ite | apply KeepsO.ite | apply KeepsO.next | split) | ((with_reducible refine Keeps.mk ?_ ?_) <;> [skip; (cases bl <;> first | exact absurd (by decide) hb | rfl)]))

theorem errWrite_keeps {bl : Block} (off : ℕ) (v : U32) {s0 s : State} (hc0 : Keeps bl s0 s)
    (hb : bl ∉ [.out, .eic, .fns, .err] := by exact notMem_of ‹_ ∉ _› rfl) : Keeps bl s0 (errWrite off v s) := by
  unfold errWrite; try dsimp only
  repeat' (with_reducible first | assumption | intro _ | exact notMem_of hb rfl | apply clearEvt_keeps | apply errCfgWrite_keeps | apply Keeps.ite | apply KeepsO.ite | apply KeepsO.next | split)

theorem pairWrite_keeps {bl : Block} (off : ℕ) (v : U32) {s0 s : State} (hc0 : Keeps bl s0 s)
    (hb : bl ∉ [.out, .eic, .fns, .pair] := by exact notMem_of ‹_ ∉ _› rfl) : Keeps bl s0 (pairWrite off v s) := by
  unfold pairWrite; try dsimp only
  repeat' (with_reducible first | assumption | intro _ | exact notMem_of hb rfl | apply clearEvt_keeps | apply pairCfgWrite_keeps | apply Keeps.ite | apply KeepsO.ite | apply KeepsO.next | split)

theorem powerWrite_keeps {bl : Block} (off : ℕ) (v : U32) {s0 s : State} (hc0 : Keeps bl s0 s)
    (hb : bl ∉ [.out, .eic, .mail, .eng, .sch, .front, .dma, .tb, .topo, .fns, .slots, .err, .pair, .ctl, .pwr] := by exact notMem_of ‹_ ∉ _› rfl) : Keeps bl s0 (powerWrite off v s) := by
  unfold powerWrite; try dsimp only
  repeat' (with_reducible first | assumption | intro _ | exact notMem_of hb rfl | apply coreResetWrite_keeps | apply pwrCtlWrite_keeps | apply Keeps.ite | apply KeepsO.ite | apply KeepsO.next | split)

theorem secureWrite_keeps {bl : Block} (off : ℕ) (v : U32) {s0 s : State} (hc0 : Keeps bl s0 s)
    (hb : bl ∉ [.mail] := by exact notMem_of ‹_ ∉ _› rfl) : Keeps bl s0 (secureWrite off v s) := by
  unfold secureWrite; try dsimp only
  repeat' (first | (with_reducible first | assumption | intro _ | exact notMem_of hb rfl | apply mwrite_keeps | apply Keeps.ite | apply KeepsO.ite | apply KeepsO.next | split) | ((with_reducible refine Keeps.mk ?_ ?_) <;> [skip; (cases bl <;> first | exact absurd (by decide) hb | rfl)]))

theorem vfrWrite_keeps {bl : Block} (off : ℕ) (v : U32) {s0 s : State} (hc0 : Keeps bl s0 s)
    (hb : bl ∉ [.out, .eic, .fns] := by exact notMem_of ‹_ ∉ _› rfl) : Keeps bl s0 (vfrWrite off v s) := by
  unfold vfrWrite; try dsimp only
  repeat' (with_reducible first | assumption | intro _ | exact notMem_of hb rfl | apply clearEvt_keeps | apply Keeps.ite | apply KeepsO.ite | apply KeepsO.next | split)

theorem pf0Write_keeps {bl : Block} (a : ℕ) (v : U32) {s0 s : State} (hc0 : Keeps bl s0 s)
    (hb : bl ∉ [.out, .free, .eic, .mail, .eng, .sch, .front, .dma, .tb, .topo, .fns, .slots, .err, .pair, .ctl, .pwr] := by exact notMem_of ‹_ ∉ _› rfl) : Keeps bl s0 (pf0Write a v s) := by
  unfold pf0Write; try dsimp only
  repeat' (first | (with_reducible first | assumption | intro _ | exact notMem_of hb rfl | apply msixWrite_keeps | apply vfrWrite_keeps | apply secureWrite_keeps | apply mbxWrite_keeps | apply powerWrite_keeps | apply pairWrite_keeps | apply errWrite_keeps | apply slotRegWrite_keeps | apply slotWritable_keeps | apply port_keeps | apply clearEvt_keeps | apply portCtlWrite_keeps | apply eicWrite_keeps | apply dispatcherWrite_keeps | apply tput_keeps | apply timebaseWrite_keeps | apply winWrite_keeps | apply globalWrite_keeps | apply Keeps.ite | apply KeepsO.ite | apply KeepsO.next | split) | ((with_reducible refine Keeps.mk ?_ ?_) <;> [skip; (cases bl <;> first | exact absurd (by decide) hb | rfl)]))

theorem vfPut_keeps {bl : Block} (f : ℕ) (a : ℕ) (v : U64) {s0 s : State} (hc0 : Keeps bl s0 s)
    (hb : bl ∉ [.out, .mail, .fns] := by exact notMem_of ‹_ ∉ _› rfl) : Keeps bl s0 (vfPut f a v s) := by
  unfold vfPut; try dsimp only
  repeat' (first | (with_reducible first | assumption | intro _ | exact notMem_of hb rfl | apply modBox_keeps | apply winPut_keeps | apply Keeps.ite | apply KeepsO.ite | apply KeepsO.next | split) | ((with_reducible refine Keeps.mk ?_ ?_) <;> [skip; (cases bl <;> first | exact absurd (by decide) hb | rfl)]))

theorem vfWrite_keeps {bl : Block} (f : FuncId) (a : ℕ) (v : U32) {s0 s : State} (hc0 : Keeps bl s0 s)
    (hb : bl ∉ [.out, .free, .eic, .mail, .eng, .sch, .front, .dma, .tb, .topo, .fns, .pwr] := by exact notMem_of ‹_ ∉ _› rfl) : Keeps bl s0 (vfWrite f a v s) := by
  unfold vfWrite; try dsimp only
  repeat' (first | (with_reducible first | assumption | intro _ | exact notMem_of hb rfl | apply msixWrite_keeps | apply mbxWrite_keeps | apply winWrite_keeps | apply vecReg_keeps | apply modFn_keeps | apply clearEvt_keeps | apply Keeps.ite | apply KeepsO.ite | apply KeepsO.next | split) | ((with_reducible refine Keeps.mk ?_ ?_) <;> [skip; (cases bl <;> first | exact absurd (by decide) hb | rfl)]))

theorem put64_keeps {bl : Block} (f : FuncId) (a : ℕ) (v : U64) {s0 s : State} (hc0 : Keeps bl s0 s)
    (hb : bl ∉ [.out, .eic, .mail, .eng, .sch, .front, .dma, .tb, .topo, .fns, .slots, .err, .pair, .ctl, .pwr] := by exact notMem_of ‹_ ∉ _› rfl) : Keeps bl s0 (put64 f a v s) := by
  unfold put64; try dsimp only
  repeat' (with_reducible first | assumption | intro _ | exact notMem_of hb rfl | apply vfPut_keeps | apply pf0Put_keeps | apply Keeps.ite | apply KeepsO.ite | apply KeepsO.next | split)

theorem put32_keeps {bl : Block} (f : FuncId) (a : ℕ) (v : U32) {s0 s : State} (hc0 : Keeps bl s0 s)
    (hb : bl ∉ [.out, .free, .eic, .mail, .eng, .sch, .front, .dma, .tb, .topo, .fns, .slots, .err, .pair, .ctl, .pwr] := by exact notMem_of ‹_ ∉ _› rfl) : Keeps bl s0 (put32 f a v s) := by
  unfold put32; try dsimp only
  repeat' (with_reducible first | assumption | intro _ | exact notMem_of hb rfl | apply vfWrite_keeps | apply pf0Write_keeps | apply Keeps.ite | apply KeepsO.ite | apply KeepsO.next | split)

theorem write32_keeps {bl : Block} (f : FuncId) (a : ℕ) (v : U32) {s0 s : State} (hc0 : Keeps bl s0 s)
    (hb : bl ∉ [.out, .free, .eic, .mail, .eng, .sch, .front, .dma, .tb, .topo, .fns, .slots, .err, .pair, .ctl, .pwr] := by exact notMem_of ‹_ ∉ _› rfl) : Keeps bl s0 (write32 f a v s) := by
  unfold write32; try dsimp only
  repeat' (with_reducible first | assumption | intro _ | exact notMem_of hb rfl | apply put32_keeps | apply withHalf_keeps | apply put64_keeps | apply get64_keeps | apply Keeps.ite | apply KeepsO.ite | apply KeepsO.next | split)

theorem write64_keeps {bl : Block} (f : FuncId) (a : ℕ) (v : U64) {s0 s : State} (hc0 : Keeps bl s0 s)
    (hb : bl ∉ [.out, .free, .eic, .mail, .eng, .sch, .front, .dma, .tb, .topo, .fns, .slots, .err, .pair, .ctl, .pwr] := by exact notMem_of ‹_ ∉ _› rfl) : Keeps bl s0 (write64 f a v s) := by
  unfold write64; try dsimp only
  repeat' (with_reducible first | assumption | intro _ | exact notMem_of hb rfl | apply write32_keeps | apply put64_keeps | apply get64_keeps | apply Keeps.ite | apply KeepsO.ite | apply KeepsO.next | split)

theorem execRegisterWrite_keeps {bl : Block} (f : FuncId) (offset : ℕ) (wide : Bool) (value : U64) {s0 s : State} (hc0 : Keeps bl s0 s)
    (hb : bl ∉ [.out, .free, .eic, .mail, .eng, .sch, .front, .dma, .tb, .topo, .fns, .slots, .err, .pair, .ctl, .pwr] := by exact notMem_of ‹_ ∉ _› rfl) : KeepsO bl s0 (execRegisterWrite f offset wide value s) := by
  unfold execRegisterWrite; try dsimp only
  repeat' (with_reducible first | assumption | intro _ | exact notMem_of hb rfl | apply write32_keeps | apply write64_keeps | apply writeReaches_keeps | apply guarded_keeps | apply Keeps.ite | apply KeepsO.ite | apply KeepsO.next | split)

end Sys2Proof.Machine
end

