-- ==== Sys2Proof/Laws/Tables.lean ====
section
/-! SUPPORT. Laws of tables and of on-chip memories: reading after writing, and that every memory operation keeps
the canonical form. -/

namespace Sys2Proof.Machine

/-! ### Tables -/

theorem tget_tput_same {α : Type} (d : α) (t : Tbl α) (k : Nat) (v : α) : tget d (tput t k v) k = v := by
  induction t with
  | nil => simp [tput, tget]
  | cons e r ih =>
    obtain ⟨j, w⟩ := e
    unfold tput
    split
    · simp [tget]
    · split
      · simp [tget]
      · next h => simp [tget, Ne.symm h, ih]

theorem tget_tput_ne {α : Type} (d : α) (t : Tbl α) (k j : Nat) (v : α) (h : j ≠ k) :
    tget d (tput t k v) j = tget d t j := by
  induction t with
  | nil => simp [tput, tget, Ne.symm h]
  | cons e r ih =>
    obtain ⟨i, w⟩ := e
    unfold tput
    split
    · simp [tget, Ne.symm h]
    · split
      · next hk => subst hk; simp [tget, Ne.symm h]
      · simp only [tget]; split <;> simp_all

/-- Reading an entry after writing one. -/
theorem tget_tput {α : Type} (d : α) (t : Tbl α) (k j : Nat) (v : α) :
    tget d (tput t k v) j = if j = k then v else tget d t j := by
  split
  · next h => subst h; exact tget_tput_same ..
  · next h => exact tget_tput_ne _ _ _ _ _ h

theorem tfind_tput_same {α : Type} (t : Tbl α) (k : Nat) (v : α) : tfind (tput t k v) k = some v := by
  induction t with
  | nil => simp [tput, tfind]
  | cons e r ih =>
    obtain ⟨j, w⟩ := e
    unfold tput
    split
    · simp [tfind]
    · split
      · simp [tfind]
      · next h => simp [tfind, Ne.symm h, ih]

theorem tfind_tput_ne {α : Type} (t : Tbl α) (k j : Nat) (v : α) (h : j ≠ k) :
    tfind (tput t k v) j = tfind t j := by
  induction t with
  | nil => simp [tput, tfind, Ne.symm h]
  | cons e r ih =>
    obtain ⟨i, w⟩ := e
    unfold tput
    split
    · simp [tfind, Ne.symm h]
    · split
      · next hk => subst hk; simp [tfind, Ne.symm h]
      · simp only [tfind]; split <;> simp_all

theorem tfind_tput {α : Type} (t : Tbl α) (k j : Nat) (v : α) :
    tfind (tput t k v) j = if j = k then some v else tfind t j := by
  split
  · next h => subst h; exact tfind_tput_same ..
  · next h => exact tfind_tput_ne _ _ _ _ h

theorem tfind_tdel {α : Type} (t : Tbl α) (k j : Nat) :
    tfind (tdel t k) j = if j = k then none else tfind t j := by
  unfold tdel
  induction t with
  | nil => simp [tfind]
  | cons e r ih =>
    obtain ⟨i, w⟩ := e
    by_cases hi : i = k
    · subst hi
      by_cases hj : j = i
      · subst hj; simp [ih]
      · simp [ih, hj, tfind, Ne.symm hj]
    · have hb : (i != k) = true := by simpa using hi
      rw [List.filter_cons, if_pos hb, tfind, ih, tfind]
      by_cases hj : j = k
      · subst hj; simp [hi]
      · simp [hj]

/-- A table read with a default is a lookup with a default. -/
theorem tget_eq_tfind {α : Type} (d : α) (t : Tbl α) (k : Nat) : tget d t k = (tfind t k).getD d := by
  induction t with
  | nil => simp [tget, tfind]
  | cons e r ih => obtain ⟨i, w⟩ := e; simp only [tget, tfind]; split <;> simp_all

theorem tget_tdel {α : Type} (d : α) (t : Tbl α) (k j : Nat) :
    tget d (tdel t k) j = if j = k then d else tget d t j := by
  simp only [tget_eq_tfind, tfind_tdel]; split <;> rfl

/-! ### Memories -/

theorem mget_eq_tget (m : Memory) (k : Nat) : mget m k = tget 0 m k := by
  induction m with
  | nil => rfl
  | cons e r ih => obtain ⟨i, w⟩ := e; simp [mget, tget, ih]

/-- A read after a write of one byte. -/
theorem mget_mput (m : Memory) (k j : Nat) (b : Byte) : mget (mput m k b) j = if j = k then b else mget m j := by
  unfold mput
  split
  · next h =>
    have := tget_tdel (0 : Byte) m k j
    simp only [tdel] at this
    rw [mget_eq_tget, mget_eq_tget, this, h]
  · rw [mget_eq_tget, mget_eq_tget, tget_tput]

/-- A write leaves every address below it unchanged. -/
theorem mget_mwrite_below (l : List Byte) (m : Memory) (a j : Nat) (h : j < a) : mget (mwrite m a l) j = mget m j := by
  induction l generalizing m a with
  | nil => rfl
  | cons b r ih =>
    rw [mwrite, ih _ _ (by omega), mget_mput, if_neg (by omega)]

/-- A read after a write of bytes: the byte written inside the range, the byte that stood there outside it. -/
theorem mget_mwrite (l : List Byte) (m : Memory) (a j : Nat) :
    mget (mwrite m a l) j = if a ≤ j ∧ j < a + l.length then l.getD (j - a) 0 else mget m j := by
  induction l generalizing m a with
  | nil =>
    have : ¬ (a ≤ j ∧ j < a) := by omega
    simp [mwrite, this]
  | cons b r ih =>
    rw [mwrite, ih, mget_mput]
    simp only [List.length_cons]
    by_cases h1 : a + 1 ≤ j ∧ j < a + 1 + r.length
    · have h2 : a ≤ j ∧ j < a + (r.length + 1) := by omega
      have h3 : j - a = (j - (a + 1)) + 1 := by omega
      rw [if_pos h1, if_pos h2, h3]; rfl
    · rw [if_neg h1]
      by_cases h2 : j = a
      · subst h2; simp
      · rw [if_neg h2, if_neg (by omega)]

/-- Sorted by address with no listed 0, as a pairwise relation. -/
theorem wf_iff (m : Memory) :
    Memory.wf m = true ↔ m.Pairwise (fun a b => a.1 < b.1) ∧ ∀ c ∈ m, c.2 ≠ 0 := by
  induction m with
  | nil => simp [Memory.wf]
  | cons c r ih =>
    cases r with
    | nil => simp [Memory.wf]
    | cons d r =>
      have key : Memory.wf (c :: d :: r) = (decide (c.1 < d.1) && c.2 != 0 && Memory.wf (d :: r)) := rfl
      rw [key, Bool.and_eq_true, ih]
      simp only [Bool.and_eq_true, decide_eq_true_eq, bne_iff_ne, List.pairwise_cons, List.mem_cons,
        forall_eq_or_imp]
      constructor
      · rintro ⟨⟨h1, h2⟩, ⟨h3, h4⟩, h5, h6⟩
        exact ⟨⟨⟨h1, fun x hx => lt_trans h1 (h3 x hx)⟩, h3, h4⟩, h2, h5, h6⟩
      · rintro ⟨⟨⟨h1, _⟩, h3, h4⟩, h2, h5, h6⟩
        exact ⟨⟨h1, h2⟩, ⟨h3, h4⟩, h5, h6⟩

theorem mem_tput {α : Type} (t : Tbl α) (k : Nat) (v : α) (e : Nat × α) (h : e ∈ tput t k v) :
    e = (k, v) ∨ e ∈ t := by
  induction t with
  | nil => simpa [tput] using h
  | cons c r ih =>
    obtain ⟨j, w⟩ := c
    unfold tput at h
    split at h
    · simpa using h
    · split at h
      · rcases List.mem_cons.1 h with h | h
        · exact .inl h
        · exact .inr (List.mem_cons_of_mem _ h)
      · rcases List.mem_cons.1 h with h | h
        · exact .inr (h ▸ List.mem_cons_self ..)
        · rcases ih h with h | h
          · exact .inl h
          · exact .inr (List.mem_cons_of_mem _ h)

/-- A table write keeps the order of the keys. -/
theorem pairwise_tput {α : Type} (t : Tbl α) (k : Nat) (v : α) (h : t.Pairwise (fun a b => a.1 < b.1)) :
    (tput t k v).Pairwise (fun a b => a.1 < b.1) := by
  induction t with
  | nil => simp [tput]
  | cons c r ih =>
    obtain ⟨j, w⟩ := c
    rw [List.pairwise_cons] at h
    unfold tput
    split
    · next hk =>
      rw [List.pairwise_cons, List.pairwise_cons]
      refine ⟨fun a ha => ?_, h⟩
      rcases List.mem_cons.1 ha with rfl | ha
      · exact hk
      · exact lt_trans hk (h.1 a ha)
    · split
      · next hk => subst hk; exact List.pairwise_cons.2 h
      · next h1 h2 =>
        refine List.pairwise_cons.2 ⟨fun a ha => ?_, ih h.2⟩
        rcases mem_tput r k v a ha with rfl | ha
        · show j < k; omega
        · exact h.1 a ha

/-- Writing a byte keeps the canonical form. -/
theorem wf_mput (m : Memory) (k : Nat) (b : Byte) (h : Memory.wf m = true) : Memory.wf (mput m k b) = true := by
  rw [wf_iff] at h ⊢
  unfold mput
  split
  · exact ⟨h.1.filter _, fun c hc => h.2 c (List.mem_filter.1 hc).1⟩
  · next hb =>
    refine ⟨pairwise_tput _ _ _ h.1, fun c hc => ?_⟩
    rcases mem_tput m k b c hc with rfl | hc
    · exact hb
    · exact h.2 c hc

/-- Writing bytes keeps the canonical form. -/
theorem wf_mwrite (l : List Byte) (m : Memory) (a : Nat) (h : Memory.wf m = true) :
    Memory.wf (mwrite m a l) = true := by
  induction l generalizing m a with
  | nil => exact h
  | cons b r ih => exact ih _ _ (wf_mput m a b h)

/-- Zeroing a range keeps the canonical form. -/
theorem wf_mclear (m : Memory) (lo hi : Nat) (h : Memory.wf m = true) : Memory.wf (mclear m lo hi) = true := by
  rw [wf_iff] at h ⊢
  exact ⟨h.1.filter _, fun c hc => h.2 c (List.mem_filter.1 hc).1⟩

theorem mget_mclear (m : Memory) (lo hi j : Nat) :
    mget (mclear m lo hi) j = if lo ≤ j ∧ j < hi then 0 else mget m j := by
  unfold mclear
  induction m with
  | nil => simp [mget]
  | cons c r ih =>
    obtain ⟨i, w⟩ := c
    by_cases hp : (decide (i < lo) || decide (hi ≤ i)) = true
    · simp only [List.filter, hp, mget]
      by_cases hij : i = j
      · subst hij
        simp only [Bool.or_eq_true, decide_eq_true_eq] at hp
        rw [if_pos rfl, if_neg (by omega), if_pos rfl]
      · rw [if_neg hij, ih, if_neg hij]
    · simp only [List.filter, hp, mget, ih]
      simp only [Bool.or_eq_true, decide_eq_true_eq, not_or] at hp
      by_cases hij : i = j
      · subst hij; rw [if_pos (by omega), if_pos (by omega)]
      · rw [if_neg hij]

end Sys2Proof.Machine
end

