-- ==== Sys2Proof/Laws/State.lean ====
section
/-! SUPPORT. The laws of State: for each named update, one lemma per field that it leaves as it was; and what each named read
gives after the update of the table that it reads. -/

namespace Sys2Proof.Machine

/-! ### emit -/

@[simp] theorem emit_pending (o : Output) (s : State) : (emit o s).pending = s.pending := rfl
@[simp] theorem emit_free (o : Output) (s : State) : (emit o s).free = s.free := rfl
@[simp] theorem emit_eic (o : Output) (s : State) : (emit o s).eic = s.eic := rfl
@[simp] theorem emit_mail (o : Output) (s : State) : (emit o s).mail = s.mail := rfl
@[simp] theorem emit_eng (o : Output) (s : State) : (emit o s).eng = s.eng := rfl
@[simp] theorem emit_sch (o : Output) (s : State) : (emit o s).sch = s.sch := rfl
@[simp] theorem emit_front (o : Output) (s : State) : (emit o s).front = s.front := rfl
@[simp] theorem emit_dma (o : Output) (s : State) : (emit o s).dma = s.dma := rfl
@[simp] theorem emit_tb (o : Output) (s : State) : (emit o s).tb = s.tb := rfl
@[simp] theorem emit_topo (o : Output) (s : State) : (emit o s).topo = s.topo := rfl
@[simp] theorem emit_fns (o : Output) (s : State) : (emit o s).fns = s.fns := rfl
@[simp] theorem emit_slots (o : Output) (s : State) : (emit o s).slots = s.slots := rfl
@[simp] theorem emit_err (o : Output) (s : State) : (emit o s).err = s.err := rfl
@[simp] theorem emit_pair (o : Output) (s : State) : (emit o s).pair = s.pair := rfl
@[simp] theorem emit_ctl (o : Output) (s : State) : (emit o s).ctl = s.ctl := rfl
@[simp] theorem emit_straps (o : Output) (s : State) : (emit o s).straps = s.straps := rfl
@[simp] theorem emit_pwr (o : Output) (s : State) : (emit o s).pwr = s.pwr := rfl
@[simp] theorem emit_flash (o : Output) (s : State) : (emit o s).flash = s.flash := rfl

/-! ### setFn -/

@[simp] theorem setFn_pending (s : State) (f : Nat) (x : Func) : (setFn s f x).pending = s.pending := rfl
@[simp] theorem setFn_out (s : State) (f : Nat) (x : Func) : (setFn s f x).out = s.out := rfl
@[simp] theorem setFn_free (s : State) (f : Nat) (x : Func) : (setFn s f x).free = s.free := rfl
@[simp] theorem setFn_eic (s : State) (f : Nat) (x : Func) : (setFn s f x).eic = s.eic := rfl
@[simp] theorem setFn_mail (s : State) (f : Nat) (x : Func) : (setFn s f x).mail = s.mail := rfl
@[simp] theorem setFn_eng (s : State) (f : Nat) (x : Func) : (setFn s f x).eng = s.eng := rfl
@[simp] theorem setFn_sch (s : State) (f : Nat) (x : Func) : (setFn s f x).sch = s.sch := rfl
@[simp] theorem setFn_front (s : State) (f : Nat) (x : Func) : (setFn s f x).front = s.front := rfl
@[simp] theorem setFn_dma (s : State) (f : Nat) (x : Func) : (setFn s f x).dma = s.dma := rfl
@[simp] theorem setFn_tb (s : State) (f : Nat) (x : Func) : (setFn s f x).tb = s.tb := rfl
@[simp] theorem setFn_topo (s : State) (f : Nat) (x : Func) : (setFn s f x).topo = s.topo := rfl
@[simp] theorem setFn_slots (s : State) (f : Nat) (x : Func) : (setFn s f x).slots = s.slots := rfl
@[simp] theorem setFn_err (s : State) (f : Nat) (x : Func) : (setFn s f x).err = s.err := rfl
@[simp] theorem setFn_pair (s : State) (f : Nat) (x : Func) : (setFn s f x).pair = s.pair := rfl
@[simp] theorem setFn_ctl (s : State) (f : Nat) (x : Func) : (setFn s f x).ctl = s.ctl := rfl
@[simp] theorem setFn_straps (s : State) (f : Nat) (x : Func) : (setFn s f x).straps = s.straps := rfl
@[simp] theorem setFn_pwr (s : State) (f : Nat) (x : Func) : (setFn s f x).pwr = s.pwr := rfl
@[simp] theorem setFn_flash (s : State) (f : Nat) (x : Func) : (setFn s f x).flash = s.flash := rfl

/-! ### modFn -/

@[simp] theorem modFn_pending (f : Nat) (g : Func → Func) (s : State) : (modFn f g s).pending = s.pending := rfl
@[simp] theorem modFn_out (f : Nat) (g : Func → Func) (s : State) : (modFn f g s).out = s.out := rfl
@[simp] theorem modFn_free (f : Nat) (g : Func → Func) (s : State) : (modFn f g s).free = s.free := rfl
@[simp] theorem modFn_eic (f : Nat) (g : Func → Func) (s : State) : (modFn f g s).eic = s.eic := rfl
@[simp] theorem modFn_mail (f : Nat) (g : Func → Func) (s : State) : (modFn f g s).mail = s.mail := rfl
@[simp] theorem modFn_eng (f : Nat) (g : Func → Func) (s : State) : (modFn f g s).eng = s.eng := rfl
@[simp] theorem modFn_sch (f : Nat) (g : Func → Func) (s : State) : (modFn f g s).sch = s.sch := rfl
@[simp] theorem modFn_front (f : Nat) (g : Func → Func) (s : State) : (modFn f g s).front = s.front := rfl
@[simp] theorem modFn_dma (f : Nat) (g : Func → Func) (s : State) : (modFn f g s).dma = s.dma := rfl
@[simp] theorem modFn_tb (f : Nat) (g : Func → Func) (s : State) : (modFn f g s).tb = s.tb := rfl
@[simp] theorem modFn_topo (f : Nat) (g : Func → Func) (s : State) : (modFn f g s).topo = s.topo := rfl
@[simp] theorem modFn_slots (f : Nat) (g : Func → Func) (s : State) : (modFn f g s).slots = s.slots := rfl
@[simp] theorem modFn_err (f : Nat) (g : Func → Func) (s : State) : (modFn f g s).err = s.err := rfl
@[simp] theorem modFn_pair (f : Nat) (g : Func → Func) (s : State) : (modFn f g s).pair = s.pair := rfl
@[simp] theorem modFn_ctl (f : Nat) (g : Func → Func) (s : State) : (modFn f g s).ctl = s.ctl := rfl
@[simp] theorem modFn_straps (f : Nat) (g : Func → Func) (s : State) : (modFn f g s).straps = s.straps := rfl
@[simp] theorem modFn_pwr (f : Nat) (g : Func → Func) (s : State) : (modFn f g s).pwr = s.pwr := rfl
@[simp] theorem modFn_flash (f : Nat) (g : Func → Func) (s : State) : (modFn f g s).flash = s.flash := rfl

/-! ### setPort -/

@[simp] theorem setPort_pending (s : State) (p : Nat) (x : Port) : (setPort s p x).pending = s.pending := rfl
@[simp] theorem setPort_out (s : State) (p : Nat) (x : Port) : (setPort s p x).out = s.out := rfl
@[simp] theorem setPort_free (s : State) (p : Nat) (x : Port) : (setPort s p x).free = s.free := rfl
@[simp] theorem setPort_eic (s : State) (p : Nat) (x : Port) : (setPort s p x).eic = s.eic := rfl
@[simp] theorem setPort_mail (s : State) (p : Nat) (x : Port) : (setPort s p x).mail = s.mail := rfl
@[simp] theorem setPort_eng (s : State) (p : Nat) (x : Port) : (setPort s p x).eng = s.eng := rfl
@[simp] theorem setPort_sch (s : State) (p : Nat) (x : Port) : (setPort s p x).sch = s.sch := rfl
@[simp] theorem setPort_front (s : State) (p : Nat) (x : Port) : (setPort s p x).front = s.front := rfl
@[simp] theorem setPort_dma (s : State) (p : Nat) (x : Port) : (setPort s p x).dma = s.dma := rfl
@[simp] theorem setPort_tb (s : State) (p : Nat) (x : Port) : (setPort s p x).tb = s.tb := rfl
@[simp] theorem setPort_fns (s : State) (p : Nat) (x : Port) : (setPort s p x).fns = s.fns := rfl
@[simp] theorem setPort_slots (s : State) (p : Nat) (x : Port) : (setPort s p x).slots = s.slots := rfl
@[simp] theorem setPort_err (s : State) (p : Nat) (x : Port) : (setPort s p x).err = s.err := rfl
@[simp] theorem setPort_pair (s : State) (p : Nat) (x : Port) : (setPort s p x).pair = s.pair := rfl
@[simp] theorem setPort_ctl (s : State) (p : Nat) (x : Port) : (setPort s p x).ctl = s.ctl := rfl
@[simp] theorem setPort_straps (s : State) (p : Nat) (x : Port) : (setPort s p x).straps = s.straps := rfl
@[simp] theorem setPort_pwr (s : State) (p : Nat) (x : Port) : (setPort s p x).pwr = s.pwr := rfl
@[simp] theorem setPort_flash (s : State) (p : Nat) (x : Port) : (setPort s p x).flash = s.flash := rfl

/-! ### modPort -/

@[simp] theorem modPort_pending (p : Nat) (g : Port → Port) (s : State) : (modPort p g s).pending = s.pending := rfl
@[simp] theorem modPort_out (p : Nat) (g : Port → Port) (s : State) : (modPort p g s).out = s.out := rfl
@[simp] theorem modPort_free (p : Nat) (g : Port → Port) (s : State) : (modPort p g s).free = s.free := rfl
@[simp] theorem modPort_eic (p : Nat) (g : Port → Port) (s : State) : (modPort p g s).eic = s.eic := rfl
@[simp] theorem modPort_mail (p : Nat) (g : Port → Port) (s : State) : (modPort p g s).mail = s.mail := rfl
@[simp] theorem modPort_eng (p : Nat) (g : Port → Port) (s : State) : (modPort p g s).eng = s.eng := rfl
@[simp] theorem modPort_sch (p : Nat) (g : Port → Port) (s : State) : (modPort p g s).sch = s.sch := rfl
@[simp] theorem modPort_front (p : Nat) (g : Port → Port) (s : State) : (modPort p g s).front = s.front := rfl
@[simp] theorem modPort_dma (p : Nat) (g : Port → Port) (s : State) : (modPort p g s).dma = s.dma := rfl
@[simp] theorem modPort_tb (p : Nat) (g : Port → Port) (s : State) : (modPort p g s).tb = s.tb := rfl
@[simp] theorem modPort_fns (p : Nat) (g : Port → Port) (s : State) : (modPort p g s).fns = s.fns := rfl
@[simp] theorem modPort_slots (p : Nat) (g : Port → Port) (s : State) : (modPort p g s).slots = s.slots := rfl
@[simp] theorem modPort_err (p : Nat) (g : Port → Port) (s : State) : (modPort p g s).err = s.err := rfl
@[simp] theorem modPort_pair (p : Nat) (g : Port → Port) (s : State) : (modPort p g s).pair = s.pair := rfl
@[simp] theorem modPort_ctl (p : Nat) (g : Port → Port) (s : State) : (modPort p g s).ctl = s.ctl := rfl
@[simp] theorem modPort_straps (p : Nat) (g : Port → Port) (s : State) : (modPort p g s).straps = s.straps := rfl
@[simp] theorem modPort_pwr (p : Nat) (g : Port → Port) (s : State) : (modPort p g s).pwr = s.pwr := rfl
@[simp] theorem modPort_flash (p : Nat) (g : Port → Port) (s : State) : (modPort p g s).flash = s.flash := rfl

/-! ### setEng -/

@[simp] theorem setEng_pending (s : State) (e : Nat) (x : Engine) : (setEng s e x).pending = s.pending := rfl
@[simp] theorem setEng_out (s : State) (e : Nat) (x : Engine) : (setEng s e x).out = s.out := rfl
@[simp] theorem setEng_free (s : State) (e : Nat) (x : Engine) : (setEng s e x).free = s.free := rfl
@[simp] theorem setEng_eic (s : State) (e : Nat) (x : Engine) : (setEng s e x).eic = s.eic := rfl
@[simp] theorem setEng_mail (s : State) (e : Nat) (x : Engine) : (setEng s e x).mail = s.mail := rfl
@[simp] theorem setEng_sch (s : State) (e : Nat) (x : Engine) : (setEng s e x).sch = s.sch := rfl
@[simp] theorem setEng_front (s : State) (e : Nat) (x : Engine) : (setEng s e x).front = s.front := rfl
@[simp] theorem setEng_dma (s : State) (e : Nat) (x : Engine) : (setEng s e x).dma = s.dma := rfl
@[simp] theorem setEng_tb (s : State) (e : Nat) (x : Engine) : (setEng s e x).tb = s.tb := rfl
@[simp] theorem setEng_topo (s : State) (e : Nat) (x : Engine) : (setEng s e x).topo = s.topo := rfl
@[simp] theorem setEng_fns (s : State) (e : Nat) (x : Engine) : (setEng s e x).fns = s.fns := rfl
@[simp] theorem setEng_slots (s : State) (e : Nat) (x : Engine) : (setEng s e x).slots = s.slots := rfl
@[simp] theorem setEng_err (s : State) (e : Nat) (x : Engine) : (setEng s e x).err = s.err := rfl
@[simp] theorem setEng_pair (s : State) (e : Nat) (x : Engine) : (setEng s e x).pair = s.pair := rfl
@[simp] theorem setEng_ctl (s : State) (e : Nat) (x : Engine) : (setEng s e x).ctl = s.ctl := rfl
@[simp] theorem setEng_straps (s : State) (e : Nat) (x : Engine) : (setEng s e x).straps = s.straps := rfl
@[simp] theorem setEng_pwr (s : State) (e : Nat) (x : Engine) : (setEng s e x).pwr = s.pwr := rfl
@[simp] theorem setEng_flash (s : State) (e : Nat) (x : Engine) : (setEng s e x).flash = s.flash := rfl

/-! ### modEng -/

@[simp] theorem modEng_pending (e : Nat) (g : Engine → Engine) (s : State) : (modEng e g s).pending = s.pending := rfl
@[simp] theorem modEng_out (e : Nat) (g : Engine → Engine) (s : State) : (modEng e g s).out = s.out := rfl
@[simp] theorem modEng_free (e : Nat) (g : Engine → Engine) (s : State) : (modEng e g s).free = s.free := rfl
@[simp] theorem modEng_eic (e : Nat) (g : Engine → Engine) (s : State) : (modEng e g s).eic = s.eic := rfl
@[simp] theorem modEng_mail (e : Nat) (g : Engine → Engine) (s : State) : (modEng e g s).mail = s.mail := rfl
@[simp] theorem modEng_sch (e : Nat) (g : Engine → Engine) (s : State) : (modEng e g s).sch = s.sch := rfl
@[simp] theorem modEng_front (e : Nat) (g : Engine → Engine) (s : State) : (modEng e g s).front = s.front := rfl
@[simp] theorem modEng_dma (e : Nat) (g : Engine → Engine) (s : State) : (modEng e g s).dma = s.dma := rfl
@[simp] theorem modEng_tb (e : Nat) (g : Engine → Engine) (s : State) : (modEng e g s).tb = s.tb := rfl
@[simp] theorem modEng_topo (e : Nat) (g : Engine → Engine) (s : State) : (modEng e g s).topo = s.topo := rfl
@[simp] theorem modEng_fns (e : Nat) (g : Engine → Engine) (s : State) : (modEng e g s).fns = s.fns := rfl
@[simp] theorem modEng_slots (e : Nat) (g : Engine → Engine) (s : State) : (modEng e g s).slots = s.slots := rfl
@[simp] theorem modEng_err (e : Nat) (g : Engine → Engine) (s : State) : (modEng e g s).err = s.err := rfl
@[simp] theorem modEng_pair (e : Nat) (g : Engine → Engine) (s : State) : (modEng e g s).pair = s.pair := rfl
@[simp] theorem modEng_ctl (e : Nat) (g : Engine → Engine) (s : State) : (modEng e g s).ctl = s.ctl := rfl
@[simp] theorem modEng_straps (e : Nat) (g : Engine → Engine) (s : State) : (modEng e g s).straps = s.straps := rfl
@[simp] theorem modEng_pwr (e : Nat) (g : Engine → Engine) (s : State) : (modEng e g s).pwr = s.pwr := rfl
@[simp] theorem modEng_flash (e : Nat) (g : Engine → Engine) (s : State) : (modEng e g s).flash = s.flash := rfl

/-! ### setItem -/

@[simp] theorem setItem_pending (s : State) (i : Nat) (x : Item) : (setItem s i x).pending = s.pending := rfl
@[simp] theorem setItem_out (s : State) (i : Nat) (x : Item) : (setItem s i x).out = s.out := rfl
@[simp] theorem setItem_free (s : State) (i : Nat) (x : Item) : (setItem s i x).free = s.free := rfl
@[simp] theorem setItem_eic (s : State) (i : Nat) (x : Item) : (setItem s i x).eic = s.eic := rfl
@[simp] theorem setItem_mail (s : State) (i : Nat) (x : Item) : (setItem s i x).mail = s.mail := rfl
@[simp] theorem setItem_eng (s : State) (i : Nat) (x : Item) : (setItem s i x).eng = s.eng := rfl
@[simp] theorem setItem_sch (s : State) (i : Nat) (x : Item) : (setItem s i x).sch = s.sch := rfl
@[simp] theorem setItem_dma (s : State) (i : Nat) (x : Item) : (setItem s i x).dma = s.dma := rfl
@[simp] theorem setItem_tb (s : State) (i : Nat) (x : Item) : (setItem s i x).tb = s.tb := rfl
@[simp] theorem setItem_topo (s : State) (i : Nat) (x : Item) : (setItem s i x).topo = s.topo := rfl
@[simp] theorem setItem_fns (s : State) (i : Nat) (x : Item) : (setItem s i x).fns = s.fns := rfl
@[simp] theorem setItem_slots (s : State) (i : Nat) (x : Item) : (setItem s i x).slots = s.slots := rfl
@[simp] theorem setItem_err (s : State) (i : Nat) (x : Item) : (setItem s i x).err = s.err := rfl
@[simp] theorem setItem_pair (s : State) (i : Nat) (x : Item) : (setItem s i x).pair = s.pair := rfl
@[simp] theorem setItem_ctl (s : State) (i : Nat) (x : Item) : (setItem s i x).ctl = s.ctl := rfl
@[simp] theorem setItem_straps (s : State) (i : Nat) (x : Item) : (setItem s i x).straps = s.straps := rfl
@[simp] theorem setItem_pwr (s : State) (i : Nat) (x : Item) : (setItem s i x).pwr = s.pwr := rfl
@[simp] theorem setItem_flash (s : State) (i : Nat) (x : Item) : (setItem s i x).flash = s.flash := rfl

/-! ### delItem -/

@[simp] theorem delItem_pending (s : State) (i : Nat) : (delItem s i).pending = s.pending := rfl
@[simp] theorem delItem_out (s : State) (i : Nat) : (delItem s i).out = s.out := rfl
@[simp] theorem delItem_free (s : State) (i : Nat) : (delItem s i).free = s.free := rfl
@[simp] theorem delItem_eic (s : State) (i : Nat) : (delItem s i).eic = s.eic := rfl
@[simp] theorem delItem_mail (s : State) (i : Nat) : (delItem s i).mail = s.mail := rfl
@[simp] theorem delItem_eng (s : State) (i : Nat) : (delItem s i).eng = s.eng := rfl
@[simp] theorem delItem_sch (s : State) (i : Nat) : (delItem s i).sch = s.sch := rfl
@[simp] theorem delItem_dma (s : State) (i : Nat) : (delItem s i).dma = s.dma := rfl
@[simp] theorem delItem_tb (s : State) (i : Nat) : (delItem s i).tb = s.tb := rfl
@[simp] theorem delItem_topo (s : State) (i : Nat) : (delItem s i).topo = s.topo := rfl
@[simp] theorem delItem_fns (s : State) (i : Nat) : (delItem s i).fns = s.fns := rfl
@[simp] theorem delItem_slots (s : State) (i : Nat) : (delItem s i).slots = s.slots := rfl
@[simp] theorem delItem_err (s : State) (i : Nat) : (delItem s i).err = s.err := rfl
@[simp] theorem delItem_pair (s : State) (i : Nat) : (delItem s i).pair = s.pair := rfl
@[simp] theorem delItem_ctl (s : State) (i : Nat) : (delItem s i).ctl = s.ctl := rfl
@[simp] theorem delItem_straps (s : State) (i : Nat) : (delItem s i).straps = s.straps := rfl
@[simp] theorem delItem_pwr (s : State) (i : Nat) : (delItem s i).pwr = s.pwr := rfl
@[simp] theorem delItem_flash (s : State) (i : Nat) : (delItem s i).flash = s.flash := rfl

/-! ### setDev -/

@[simp] theorem setDev_pending (s : State) (n : Nat) (x : Device) : (setDev s n x).pending = s.pending := rfl
@[simp] theorem setDev_out (s : State) (n : Nat) (x : Device) : (setDev s n x).out = s.out := rfl
@[simp] theorem setDev_free (s : State) (n : Nat) (x : Device) : (setDev s n x).free = s.free := rfl
@[simp] theorem setDev_eic (s : State) (n : Nat) (x : Device) : (setDev s n x).eic = s.eic := rfl
@[simp] theorem setDev_mail (s : State) (n : Nat) (x : Device) : (setDev s n x).mail = s.mail := rfl
@[simp] theorem setDev_eng (s : State) (n : Nat) (x : Device) : (setDev s n x).eng = s.eng := rfl
@[simp] theorem setDev_sch (s : State) (n : Nat) (x : Device) : (setDev s n x).sch = s.sch := rfl
@[simp] theorem setDev_front (s : State) (n : Nat) (x : Device) : (setDev s n x).front = s.front := rfl
@[simp] theorem setDev_dma (s : State) (n : Nat) (x : Device) : (setDev s n x).dma = s.dma := rfl
@[simp] theorem setDev_tb (s : State) (n : Nat) (x : Device) : (setDev s n x).tb = s.tb := rfl
@[simp] theorem setDev_fns (s : State) (n : Nat) (x : Device) : (setDev s n x).fns = s.fns := rfl
@[simp] theorem setDev_slots (s : State) (n : Nat) (x : Device) : (setDev s n x).slots = s.slots := rfl
@[simp] theorem setDev_err (s : State) (n : Nat) (x : Device) : (setDev s n x).err = s.err := rfl
@[simp] theorem setDev_pair (s : State) (n : Nat) (x : Device) : (setDev s n x).pair = s.pair := rfl
@[simp] theorem setDev_ctl (s : State) (n : Nat) (x : Device) : (setDev s n x).ctl = s.ctl := rfl
@[simp] theorem setDev_straps (s : State) (n : Nat) (x : Device) : (setDev s n x).straps = s.straps := rfl
@[simp] theorem setDev_pwr (s : State) (n : Nat) (x : Device) : (setDev s n x).pwr = s.pwr := rfl
@[simp] theorem setDev_flash (s : State) (n : Nat) (x : Device) : (setDev s n x).flash = s.flash := rfl

/-! ### setHandle -/

@[simp] theorem setHandle_pending (s : State) (n : Nat) (x : Handle) : (setHandle s n x).pending = s.pending := rfl
@[simp] theorem setHandle_out (s : State) (n : Nat) (x : Handle) : (setHandle s n x).out = s.out := rfl
@[simp] theorem setHandle_free (s : State) (n : Nat) (x : Handle) : (setHandle s n x).free = s.free := rfl
@[simp] theorem setHandle_eic (s : State) (n : Nat) (x : Handle) : (setHandle s n x).eic = s.eic := rfl
@[simp] theorem setHandle_mail (s : State) (n : Nat) (x : Handle) : (setHandle s n x).mail = s.mail := rfl
@[simp] theorem setHandle_eng (s : State) (n : Nat) (x : Handle) : (setHandle s n x).eng = s.eng := rfl
@[simp] theorem setHandle_sch (s : State) (n : Nat) (x : Handle) : (setHandle s n x).sch = s.sch := rfl
@[simp] theorem setHandle_front (s : State) (n : Nat) (x : Handle) : (setHandle s n x).front = s.front := rfl
@[simp] theorem setHandle_dma (s : State) (n : Nat) (x : Handle) : (setHandle s n x).dma = s.dma := rfl
@[simp] theorem setHandle_tb (s : State) (n : Nat) (x : Handle) : (setHandle s n x).tb = s.tb := rfl
@[simp] theorem setHandle_fns (s : State) (n : Nat) (x : Handle) : (setHandle s n x).fns = s.fns := rfl
@[simp] theorem setHandle_slots (s : State) (n : Nat) (x : Handle) : (setHandle s n x).slots = s.slots := rfl
@[simp] theorem setHandle_err (s : State) (n : Nat) (x : Handle) : (setHandle s n x).err = s.err := rfl
@[simp] theorem setHandle_pair (s : State) (n : Nat) (x : Handle) : (setHandle s n x).pair = s.pair := rfl
@[simp] theorem setHandle_ctl (s : State) (n : Nat) (x : Handle) : (setHandle s n x).ctl = s.ctl := rfl
@[simp] theorem setHandle_straps (s : State) (n : Nat) (x : Handle) : (setHandle s n x).straps = s.straps := rfl
@[simp] theorem setHandle_pwr (s : State) (n : Nat) (x : Handle) : (setHandle s n x).pwr = s.pwr := rfl
@[simp] theorem setHandle_flash (s : State) (n : Nat) (x : Handle) : (setHandle s n x).flash = s.flash := rfl

/-! ### modHandle -/

@[simp] theorem modHandle_pending (n : Nat) (g : Handle → Handle) (s : State) : (modHandle n g s).pending = s.pending := rfl
@[simp] theorem modHandle_out (n : Nat) (g : Handle → Handle) (s : State) : (modHandle n g s).out = s.out := rfl
@[simp] theorem modHandle_free (n : Nat) (g : Handle → Handle) (s : State) : (modHandle n g s).free = s.free := rfl
@[simp] theorem modHandle_eic (n : Nat) (g : Handle → Handle) (s : State) : (modHandle n g s).eic = s.eic := rfl
@[simp] theorem modHandle_mail (n : Nat) (g : Handle → Handle) (s : State) : (modHandle n g s).mail = s.mail := rfl
@[simp] theorem modHandle_eng (n : Nat) (g : Handle → Handle) (s : State) : (modHandle n g s).eng = s.eng := rfl
@[simp] theorem modHandle_sch (n : Nat) (g : Handle → Handle) (s : State) : (modHandle n g s).sch = s.sch := rfl
@[simp] theorem modHandle_front (n : Nat) (g : Handle → Handle) (s : State) : (modHandle n g s).front = s.front := rfl
@[simp] theorem modHandle_dma (n : Nat) (g : Handle → Handle) (s : State) : (modHandle n g s).dma = s.dma := rfl
@[simp] theorem modHandle_tb (n : Nat) (g : Handle → Handle) (s : State) : (modHandle n g s).tb = s.tb := rfl
@[simp] theorem modHandle_fns (n : Nat) (g : Handle → Handle) (s : State) : (modHandle n g s).fns = s.fns := rfl
@[simp] theorem modHandle_slots (n : Nat) (g : Handle → Handle) (s : State) : (modHandle n g s).slots = s.slots := rfl
@[simp] theorem modHandle_err (n : Nat) (g : Handle → Handle) (s : State) : (modHandle n g s).err = s.err := rfl
@[simp] theorem modHandle_pair (n : Nat) (g : Handle → Handle) (s : State) : (modHandle n g s).pair = s.pair := rfl
@[simp] theorem modHandle_ctl (n : Nat) (g : Handle → Handle) (s : State) : (modHandle n g s).ctl = s.ctl := rfl
@[simp] theorem modHandle_straps (n : Nat) (g : Handle → Handle) (s : State) : (modHandle n g s).straps = s.straps := rfl
@[simp] theorem modHandle_pwr (n : Nat) (g : Handle → Handle) (s : State) : (modHandle n g s).pwr = s.pwr := rfl
@[simp] theorem modHandle_flash (n : Nat) (g : Handle → Handle) (s : State) : (modHandle n g s).flash = s.flash := rfl

/-! ### setCtx -/

@[simp] theorem setCtx_pending (s : State) (k : Nat) (x : Ctx) : (setCtx s k x).pending = s.pending := rfl
@[simp] theorem setCtx_out (s : State) (k : Nat) (x : Ctx) : (setCtx s k x).out = s.out := rfl
@[simp] theorem setCtx_free (s : State) (k : Nat) (x : Ctx) : (setCtx s k x).free = s.free := rfl
@[simp] theorem setCtx_eic (s : State) (k : Nat) (x : Ctx) : (setCtx s k x).eic = s.eic := rfl
@[simp] theorem setCtx_mail (s : State) (k : Nat) (x : Ctx) : (setCtx s k x).mail = s.mail := rfl
@[simp] theorem setCtx_eng (s : State) (k : Nat) (x : Ctx) : (setCtx s k x).eng = s.eng := rfl
@[simp] theorem setCtx_sch (s : State) (k : Nat) (x : Ctx) : (setCtx s k x).sch = s.sch := rfl
@[simp] theorem setCtx_front (s : State) (k : Nat) (x : Ctx) : (setCtx s k x).front = s.front := rfl
@[simp] theorem setCtx_dma (s : State) (k : Nat) (x : Ctx) : (setCtx s k x).dma = s.dma := rfl
@[simp] theorem setCtx_tb (s : State) (k : Nat) (x : Ctx) : (setCtx s k x).tb = s.tb := rfl
@[simp] theorem setCtx_fns (s : State) (k : Nat) (x : Ctx) : (setCtx s k x).fns = s.fns := rfl
@[simp] theorem setCtx_slots (s : State) (k : Nat) (x : Ctx) : (setCtx s k x).slots = s.slots := rfl
@[simp] theorem setCtx_err (s : State) (k : Nat) (x : Ctx) : (setCtx s k x).err = s.err := rfl
@[simp] theorem setCtx_pair (s : State) (k : Nat) (x : Ctx) : (setCtx s k x).pair = s.pair := rfl
@[simp] theorem setCtx_ctl (s : State) (k : Nat) (x : Ctx) : (setCtx s k x).ctl = s.ctl := rfl
@[simp] theorem setCtx_straps (s : State) (k : Nat) (x : Ctx) : (setCtx s k x).straps = s.straps := rfl
@[simp] theorem setCtx_pwr (s : State) (k : Nat) (x : Ctx) : (setCtx s k x).pwr = s.pwr := rfl
@[simp] theorem setCtx_flash (s : State) (k : Nat) (x : Ctx) : (setCtx s k x).flash = s.flash := rfl

/-! ### setBox -/

@[simp] theorem setBox_pending (s : State) (k : Nat) (x : MBox) : (setBox s k x).pending = s.pending := rfl
@[simp] theorem setBox_out (s : State) (k : Nat) (x : MBox) : (setBox s k x).out = s.out := rfl
@[simp] theorem setBox_free (s : State) (k : Nat) (x : MBox) : (setBox s k x).free = s.free := rfl
@[simp] theorem setBox_eic (s : State) (k : Nat) (x : MBox) : (setBox s k x).eic = s.eic := rfl
@[simp] theorem setBox_eng (s : State) (k : Nat) (x : MBox) : (setBox s k x).eng = s.eng := rfl
@[simp] theorem setBox_sch (s : State) (k : Nat) (x : MBox) : (setBox s k x).sch = s.sch := rfl
@[simp] theorem setBox_front (s : State) (k : Nat) (x : MBox) : (setBox s k x).front = s.front := rfl
@[simp] theorem setBox_dma (s : State) (k : Nat) (x : MBox) : (setBox s k x).dma = s.dma := rfl
@[simp] theorem setBox_tb (s : State) (k : Nat) (x : MBox) : (setBox s k x).tb = s.tb := rfl
@[simp] theorem setBox_topo (s : State) (k : Nat) (x : MBox) : (setBox s k x).topo = s.topo := rfl
@[simp] theorem setBox_fns (s : State) (k : Nat) (x : MBox) : (setBox s k x).fns = s.fns := rfl
@[simp] theorem setBox_slots (s : State) (k : Nat) (x : MBox) : (setBox s k x).slots = s.slots := rfl
@[simp] theorem setBox_err (s : State) (k : Nat) (x : MBox) : (setBox s k x).err = s.err := rfl
@[simp] theorem setBox_pair (s : State) (k : Nat) (x : MBox) : (setBox s k x).pair = s.pair := rfl
@[simp] theorem setBox_ctl (s : State) (k : Nat) (x : MBox) : (setBox s k x).ctl = s.ctl := rfl
@[simp] theorem setBox_straps (s : State) (k : Nat) (x : MBox) : (setBox s k x).straps = s.straps := rfl
@[simp] theorem setBox_pwr (s : State) (k : Nat) (x : MBox) : (setBox s k x).pwr = s.pwr := rfl
@[simp] theorem setBox_flash (s : State) (k : Nat) (x : MBox) : (setBox s k x).flash = s.flash := rfl

/-! ### modBox -/

@[simp] theorem modBox_pending (k : Nat) (g : MBox → MBox) (s : State) : (modBox k g s).pending = s.pending := rfl
@[simp] theorem modBox_out (k : Nat) (g : MBox → MBox) (s : State) : (modBox k g s).out = s.out := rfl
@[simp] theorem modBox_free (k : Nat) (g : MBox → MBox) (s : State) : (modBox k g s).free = s.free := rfl
@[simp] theorem modBox_eic (k : Nat) (g : MBox → MBox) (s : State) : (modBox k g s).eic = s.eic := rfl
@[simp] theorem modBox_eng (k : Nat) (g : MBox → MBox) (s : State) : (modBox k g s).eng = s.eng := rfl
@[simp] theorem modBox_sch (k : Nat) (g : MBox → MBox) (s : State) : (modBox k g s).sch = s.sch := rfl
@[simp] theorem modBox_front (k : Nat) (g : MBox → MBox) (s : State) : (modBox k g s).front = s.front := rfl
@[simp] theorem modBox_dma (k : Nat) (g : MBox → MBox) (s : State) : (modBox k g s).dma = s.dma := rfl
@[simp] theorem modBox_tb (k : Nat) (g : MBox → MBox) (s : State) : (modBox k g s).tb = s.tb := rfl
@[simp] theorem modBox_topo (k : Nat) (g : MBox → MBox) (s : State) : (modBox k g s).topo = s.topo := rfl
@[simp] theorem modBox_fns (k : Nat) (g : MBox → MBox) (s : State) : (modBox k g s).fns = s.fns := rfl
@[simp] theorem modBox_slots (k : Nat) (g : MBox → MBox) (s : State) : (modBox k g s).slots = s.slots := rfl
@[simp] theorem modBox_err (k : Nat) (g : MBox → MBox) (s : State) : (modBox k g s).err = s.err := rfl
@[simp] theorem modBox_pair (k : Nat) (g : MBox → MBox) (s : State) : (modBox k g s).pair = s.pair := rfl
@[simp] theorem modBox_ctl (k : Nat) (g : MBox → MBox) (s : State) : (modBox k g s).ctl = s.ctl := rfl
@[simp] theorem modBox_straps (k : Nat) (g : MBox → MBox) (s : State) : (modBox k g s).straps = s.straps := rfl
@[simp] theorem modBox_pwr (k : Nat) (g : MBox → MBox) (s : State) : (modBox k g s).pwr = s.pwr := rfl
@[simp] theorem modBox_flash (k : Nat) (g : MBox → MBox) (s : State) : (modBox k g s).flash = s.flash := rfl

/-! ### setSource -/

@[simp] theorem setSource_pending (s : State) (n : Nat) (x : Source) : (setSource s n x).pending = s.pending := rfl
@[simp] theorem setSource_out (s : State) (n : Nat) (x : Source) : (setSource s n x).out = s.out := rfl
@[simp] theorem setSource_free (s : State) (n : Nat) (x : Source) : (setSource s n x).free = s.free := rfl
@[simp] theorem setSource_mail (s : State) (n : Nat) (x : Source) : (setSource s n x).mail = s.mail := rfl
@[simp] theorem setSource_eng (s : State) (n : Nat) (x : Source) : (setSource s n x).eng = s.eng := rfl
@[simp] theorem setSource_sch (s : State) (n : Nat) (x : Source) : (setSource s n x).sch = s.sch := rfl
@[simp] theorem setSource_front (s : State) (n : Nat) (x : Source) : (setSource s n x).front = s.front := rfl
@[simp] theorem setSource_dma (s : State) (n : Nat) (x : Source) : (setSource s n x).dma = s.dma := rfl
@[simp] theorem setSource_tb (s : State) (n : Nat) (x : Source) : (setSource s n x).tb = s.tb := rfl
@[simp] theorem setSource_topo (s : State) (n : Nat) (x : Source) : (setSource s n x).topo = s.topo := rfl
@[simp] theorem setSource_fns (s : State) (n : Nat) (x : Source) : (setSource s n x).fns = s.fns := rfl
@[simp] theorem setSource_slots (s : State) (n : Nat) (x : Source) : (setSource s n x).slots = s.slots := rfl
@[simp] theorem setSource_err (s : State) (n : Nat) (x : Source) : (setSource s n x).err = s.err := rfl
@[simp] theorem setSource_pair (s : State) (n : Nat) (x : Source) : (setSource s n x).pair = s.pair := rfl
@[simp] theorem setSource_ctl (s : State) (n : Nat) (x : Source) : (setSource s n x).ctl = s.ctl := rfl
@[simp] theorem setSource_straps (s : State) (n : Nat) (x : Source) : (setSource s n x).straps = s.straps := rfl
@[simp] theorem setSource_pwr (s : State) (n : Nat) (x : Source) : (setSource s n x).pwr = s.pwr := rfl
@[simp] theorem setSource_flash (s : State) (n : Nat) (x : Source) : (setSource s n x).flash = s.flash := rfl

/-! ### modSource -/

@[simp] theorem modSource_pending (n : Nat) (g : Source → Source) (s : State) : (modSource n g s).pending = s.pending := rfl
@[simp] theorem modSource_out (n : Nat) (g : Source → Source) (s : State) : (modSource n g s).out = s.out := rfl
@[simp] theorem modSource_free (n : Nat) (g : Source → Source) (s : State) : (modSource n g s).free = s.free := rfl
@[simp] theorem modSource_mail (n : Nat) (g : Source → Source) (s : State) : (modSource n g s).mail = s.mail := rfl
@[simp] theorem modSource_eng (n : Nat) (g : Source → Source) (s : State) : (modSource n g s).eng = s.eng := rfl
@[simp] theorem modSource_sch (n : Nat) (g : Source → Source) (s : State) : (modSource n g s).sch = s.sch := rfl
@[simp] theorem modSource_front (n : Nat) (g : Source → Source) (s : State) : (modSource n g s).front = s.front := rfl
@[simp] theorem modSource_dma (n : Nat) (g : Source → Source) (s : State) : (modSource n g s).dma = s.dma := rfl
@[simp] theorem modSource_tb (n : Nat) (g : Source → Source) (s : State) : (modSource n g s).tb = s.tb := rfl
@[simp] theorem modSource_topo (n : Nat) (g : Source → Source) (s : State) : (modSource n g s).topo = s.topo := rfl
@[simp] theorem modSource_fns (n : Nat) (g : Source → Source) (s : State) : (modSource n g s).fns = s.fns := rfl
@[simp] theorem modSource_slots (n : Nat) (g : Source → Source) (s : State) : (modSource n g s).slots = s.slots := rfl
@[simp] theorem modSource_err (n : Nat) (g : Source → Source) (s : State) : (modSource n g s).err = s.err := rfl
@[simp] theorem modSource_pair (n : Nat) (g : Source → Source) (s : State) : (modSource n g s).pair = s.pair := rfl
@[simp] theorem modSource_ctl (n : Nat) (g : Source → Source) (s : State) : (modSource n g s).ctl = s.ctl := rfl
@[simp] theorem modSource_straps (n : Nat) (g : Source → Source) (s : State) : (modSource n g s).straps = s.straps := rfl
@[simp] theorem modSource_pwr (n : Nat) (g : Source → Source) (s : State) : (modSource n g s).pwr = s.pwr := rfl
@[simp] theorem modSource_flash (n : Nat) (g : Source → Source) (s : State) : (modSource n g s).flash = s.flash := rfl

/-! ### modTarget -/

@[simp] theorem modTarget_pending (n : Nat) (g : Target → Target) (s : State) : (modTarget n g s).pending = s.pending := rfl
@[simp] theorem modTarget_out (n : Nat) (g : Target → Target) (s : State) : (modTarget n g s).out = s.out := rfl
@[simp] theorem modTarget_free (n : Nat) (g : Target → Target) (s : State) : (modTarget n g s).free = s.free := rfl
@[simp] theorem modTarget_mail (n : Nat) (g : Target → Target) (s : State) : (modTarget n g s).mail = s.mail := rfl
@[simp] theorem modTarget_eng (n : Nat) (g : Target → Target) (s : State) : (modTarget n g s).eng = s.eng := rfl
@[simp] theorem modTarget_sch (n : Nat) (g : Target → Target) (s : State) : (modTarget n g s).sch = s.sch := rfl
@[simp] theorem modTarget_front (n : Nat) (g : Target → Target) (s : State) : (modTarget n g s).front = s.front := rfl
@[simp] theorem modTarget_dma (n : Nat) (g : Target → Target) (s : State) : (modTarget n g s).dma = s.dma := rfl
@[simp] theorem modTarget_tb (n : Nat) (g : Target → Target) (s : State) : (modTarget n g s).tb = s.tb := rfl
@[simp] theorem modTarget_topo (n : Nat) (g : Target → Target) (s : State) : (modTarget n g s).topo = s.topo := rfl
@[simp] theorem modTarget_fns (n : Nat) (g : Target → Target) (s : State) : (modTarget n g s).fns = s.fns := rfl
@[simp] theorem modTarget_slots (n : Nat) (g : Target → Target) (s : State) : (modTarget n g s).slots = s.slots := rfl
@[simp] theorem modTarget_err (n : Nat) (g : Target → Target) (s : State) : (modTarget n g s).err = s.err := rfl
@[simp] theorem modTarget_pair (n : Nat) (g : Target → Target) (s : State) : (modTarget n g s).pair = s.pair := rfl
@[simp] theorem modTarget_ctl (n : Nat) (g : Target → Target) (s : State) : (modTarget n g s).ctl = s.ctl := rfl
@[simp] theorem modTarget_straps (n : Nat) (g : Target → Target) (s : State) : (modTarget n g s).straps = s.straps := rfl
@[simp] theorem modTarget_pwr (n : Nat) (g : Target → Target) (s : State) : (modTarget n g s).pwr = s.pwr := rfl
@[simp] theorem modTarget_flash (n : Nat) (g : Target → Target) (s : State) : (modTarget n g s).flash = s.flash := rfl

/-! ### setPstate -/

@[simp] theorem setPstate_pending (s : State) (r : Nat) (x : PState) : (setPstate s r x).pending = s.pending := rfl
@[simp] theorem setPstate_out (s : State) (r : Nat) (x : PState) : (setPstate s r x).out = s.out := rfl
@[simp] theorem setPstate_free (s : State) (r : Nat) (x : PState) : (setPstate s r x).free = s.free := rfl
@[simp] theorem setPstate_eic (s : State) (r : Nat) (x : PState) : (setPstate s r x).eic = s.eic := rfl
@[simp] theorem setPstate_mail (s : State) (r : Nat) (x : PState) : (setPstate s r x).mail = s.mail := rfl
@[simp] theorem setPstate_eng (s : State) (r : Nat) (x : PState) : (setPstate s r x).eng = s.eng := rfl
@[simp] theorem setPstate_front (s : State) (r : Nat) (x : PState) : (setPstate s r x).front = s.front := rfl
@[simp] theorem setPstate_dma (s : State) (r : Nat) (x : PState) : (setPstate s r x).dma = s.dma := rfl
@[simp] theorem setPstate_tb (s : State) (r : Nat) (x : PState) : (setPstate s r x).tb = s.tb := rfl
@[simp] theorem setPstate_topo (s : State) (r : Nat) (x : PState) : (setPstate s r x).topo = s.topo := rfl
@[simp] theorem setPstate_fns (s : State) (r : Nat) (x : PState) : (setPstate s r x).fns = s.fns := rfl
@[simp] theorem setPstate_slots (s : State) (r : Nat) (x : PState) : (setPstate s r x).slots = s.slots := rfl
@[simp] theorem setPstate_err (s : State) (r : Nat) (x : PState) : (setPstate s r x).err = s.err := rfl
@[simp] theorem setPstate_pair (s : State) (r : Nat) (x : PState) : (setPstate s r x).pair = s.pair := rfl
@[simp] theorem setPstate_ctl (s : State) (r : Nat) (x : PState) : (setPstate s r x).ctl = s.ctl := rfl
@[simp] theorem setPstate_straps (s : State) (r : Nat) (x : PState) : (setPstate s r x).straps = s.straps := rfl
@[simp] theorem setPstate_pwr (s : State) (r : Nat) (x : PState) : (setPstate s r x).pwr = s.pwr := rfl
@[simp] theorem setPstate_flash (s : State) (r : Nat) (x : PState) : (setPstate s r x).flash = s.flash := rfl

/-! ### modPstate -/

@[simp] theorem modPstate_pending (r : Nat) (g : PState → PState) (s : State) : (modPstate r g s).pending = s.pending := rfl
@[simp] theorem modPstate_out (r : Nat) (g : PState → PState) (s : State) : (modPstate r g s).out = s.out := rfl
@[simp] theorem modPstate_free (r : Nat) (g : PState → PState) (s : State) : (modPstate r g s).free = s.free := rfl
@[simp] theorem modPstate_eic (r : Nat) (g : PState → PState) (s : State) : (modPstate r g s).eic = s.eic := rfl
@[simp] theorem modPstate_mail (r : Nat) (g : PState → PState) (s : State) : (modPstate r g s).mail = s.mail := rfl
@[simp] theorem modPstate_eng (r : Nat) (g : PState → PState) (s : State) : (modPstate r g s).eng = s.eng := rfl
@[simp] theorem modPstate_front (r : Nat) (g : PState → PState) (s : State) : (modPstate r g s).front = s.front := rfl
@[simp] theorem modPstate_dma (r : Nat) (g : PState → PState) (s : State) : (modPstate r g s).dma = s.dma := rfl
@[simp] theorem modPstate_tb (r : Nat) (g : PState → PState) (s : State) : (modPstate r g s).tb = s.tb := rfl
@[simp] theorem modPstate_topo (r : Nat) (g : PState → PState) (s : State) : (modPstate r g s).topo = s.topo := rfl
@[simp] theorem modPstate_fns (r : Nat) (g : PState → PState) (s : State) : (modPstate r g s).fns = s.fns := rfl
@[simp] theorem modPstate_slots (r : Nat) (g : PState → PState) (s : State) : (modPstate r g s).slots = s.slots := rfl
@[simp] theorem modPstate_err (r : Nat) (g : PState → PState) (s : State) : (modPstate r g s).err = s.err := rfl
@[simp] theorem modPstate_pair (r : Nat) (g : PState → PState) (s : State) : (modPstate r g s).pair = s.pair := rfl
@[simp] theorem modPstate_ctl (r : Nat) (g : PState → PState) (s : State) : (modPstate r g s).ctl = s.ctl := rfl
@[simp] theorem modPstate_straps (r : Nat) (g : PState → PState) (s : State) : (modPstate r g s).straps = s.straps := rfl
@[simp] theorem modPstate_pwr (r : Nat) (g : PState → PState) (s : State) : (modPstate r g s).pwr = s.pwr := rfl
@[simp] theorem modPstate_flash (r : Nat) (g : PState → PState) (s : State) : (modPstate r g s).flash = s.flash := rfl

/-! ### modSq -/

@[simp] theorem modSq_pending (f q : Nat) (g : Sq → Sq) (s : State) : (modSq f q g s).pending = s.pending := rfl
@[simp] theorem modSq_out (f q : Nat) (g : Sq → Sq) (s : State) : (modSq f q g s).out = s.out := rfl
@[simp] theorem modSq_free (f q : Nat) (g : Sq → Sq) (s : State) : (modSq f q g s).free = s.free := rfl
@[simp] theorem modSq_eic (f q : Nat) (g : Sq → Sq) (s : State) : (modSq f q g s).eic = s.eic := rfl
@[simp] theorem modSq_mail (f q : Nat) (g : Sq → Sq) (s : State) : (modSq f q g s).mail = s.mail := rfl
@[simp] theorem modSq_eng (f q : Nat) (g : Sq → Sq) (s : State) : (modSq f q g s).eng = s.eng := rfl
@[simp] theorem modSq_sch (f q : Nat) (g : Sq → Sq) (s : State) : (modSq f q g s).sch = s.sch := rfl
@[simp] theorem modSq_front (f q : Nat) (g : Sq → Sq) (s : State) : (modSq f q g s).front = s.front := rfl
@[simp] theorem modSq_dma (f q : Nat) (g : Sq → Sq) (s : State) : (modSq f q g s).dma = s.dma := rfl
@[simp] theorem modSq_tb (f q : Nat) (g : Sq → Sq) (s : State) : (modSq f q g s).tb = s.tb := rfl
@[simp] theorem modSq_topo (f q : Nat) (g : Sq → Sq) (s : State) : (modSq f q g s).topo = s.topo := rfl
@[simp] theorem modSq_slots (f q : Nat) (g : Sq → Sq) (s : State) : (modSq f q g s).slots = s.slots := rfl
@[simp] theorem modSq_err (f q : Nat) (g : Sq → Sq) (s : State) : (modSq f q g s).err = s.err := rfl
@[simp] theorem modSq_pair (f q : Nat) (g : Sq → Sq) (s : State) : (modSq f q g s).pair = s.pair := rfl
@[simp] theorem modSq_ctl (f q : Nat) (g : Sq → Sq) (s : State) : (modSq f q g s).ctl = s.ctl := rfl
@[simp] theorem modSq_straps (f q : Nat) (g : Sq → Sq) (s : State) : (modSq f q g s).straps = s.straps := rfl
@[simp] theorem modSq_pwr (f q : Nat) (g : Sq → Sq) (s : State) : (modSq f q g s).pwr = s.pwr := rfl
@[simp] theorem modSq_flash (f q : Nat) (g : Sq → Sq) (s : State) : (modSq f q g s).flash = s.flash := rfl

/-! ### modCr -/

@[simp] theorem modCr_pending (f r : Nat) (g : Cr → Cr) (s : State) : (modCr f r g s).pending = s.pending := rfl
@[simp] theorem modCr_out (f r : Nat) (g : Cr → Cr) (s : State) : (modCr f r g s).out = s.out := rfl
@[simp] theorem modCr_free (f r : Nat) (g : Cr → Cr) (s : State) : (modCr f r g s).free = s.free := rfl
@[simp] theorem modCr_eic (f r : Nat) (g : Cr → Cr) (s : State) : (modCr f r g s).eic = s.eic := rfl
@[simp] theorem modCr_mail (f r : Nat) (g : Cr → Cr) (s : State) : (modCr f r g s).mail = s.mail := rfl
@[simp] theorem modCr_eng (f r : Nat) (g : Cr → Cr) (s : State) : (modCr f r g s).eng = s.eng := rfl
@[simp] theorem modCr_sch (f r : Nat) (g : Cr → Cr) (s : State) : (modCr f r g s).sch = s.sch := rfl
@[simp] theorem modCr_front (f r : Nat) (g : Cr → Cr) (s : State) : (modCr f r g s).front = s.front := rfl
@[simp] theorem modCr_dma (f r : Nat) (g : Cr → Cr) (s : State) : (modCr f r g s).dma = s.dma := rfl
@[simp] theorem modCr_tb (f r : Nat) (g : Cr → Cr) (s : State) : (modCr f r g s).tb = s.tb := rfl
@[simp] theorem modCr_topo (f r : Nat) (g : Cr → Cr) (s : State) : (modCr f r g s).topo = s.topo := rfl
@[simp] theorem modCr_slots (f r : Nat) (g : Cr → Cr) (s : State) : (modCr f r g s).slots = s.slots := rfl
@[simp] theorem modCr_err (f r : Nat) (g : Cr → Cr) (s : State) : (modCr f r g s).err = s.err := rfl
@[simp] theorem modCr_pair (f r : Nat) (g : Cr → Cr) (s : State) : (modCr f r g s).pair = s.pair := rfl
@[simp] theorem modCr_ctl (f r : Nat) (g : Cr → Cr) (s : State) : (modCr f r g s).ctl = s.ctl := rfl
@[simp] theorem modCr_straps (f r : Nat) (g : Cr → Cr) (s : State) : (modCr f r g s).straps = s.straps := rfl
@[simp] theorem modCr_pwr (f r : Nat) (g : Cr → Cr) (s : State) : (modCr f r g s).pwr = s.pwr := rfl
@[simp] theorem modCr_flash (f r : Nat) (g : Cr → Cr) (s : State) : (modCr f r g s).flash = s.flash := rfl

/-! ### modVec -/

@[simp] theorem modVec_pending (f v : Nat) (g : Vec → Vec) (s : State) : (modVec f v g s).pending = s.pending := rfl
@[simp] theorem modVec_out (f v : Nat) (g : Vec → Vec) (s : State) : (modVec f v g s).out = s.out := rfl
@[simp] theorem modVec_free (f v : Nat) (g : Vec → Vec) (s : State) : (modVec f v g s).free = s.free := rfl
@[simp] theorem modVec_eic (f v : Nat) (g : Vec → Vec) (s : State) : (modVec f v g s).eic = s.eic := rfl
@[simp] theorem modVec_mail (f v : Nat) (g : Vec → Vec) (s : State) : (modVec f v g s).mail = s.mail := rfl
@[simp] theorem modVec_eng (f v : Nat) (g : Vec → Vec) (s : State) : (modVec f v g s).eng = s.eng := rfl
@[simp] theorem modVec_sch (f v : Nat) (g : Vec → Vec) (s : State) : (modVec f v g s).sch = s.sch := rfl
@[simp] theorem modVec_front (f v : Nat) (g : Vec → Vec) (s : State) : (modVec f v g s).front = s.front := rfl
@[simp] theorem modVec_dma (f v : Nat) (g : Vec → Vec) (s : State) : (modVec f v g s).dma = s.dma := rfl
@[simp] theorem modVec_tb (f v : Nat) (g : Vec → Vec) (s : State) : (modVec f v g s).tb = s.tb := rfl
@[simp] theorem modVec_topo (f v : Nat) (g : Vec → Vec) (s : State) : (modVec f v g s).topo = s.topo := rfl
@[simp] theorem modVec_slots (f v : Nat) (g : Vec → Vec) (s : State) : (modVec f v g s).slots = s.slots := rfl
@[simp] theorem modVec_err (f v : Nat) (g : Vec → Vec) (s : State) : (modVec f v g s).err = s.err := rfl
@[simp] theorem modVec_pair (f v : Nat) (g : Vec → Vec) (s : State) : (modVec f v g s).pair = s.pair := rfl
@[simp] theorem modVec_ctl (f v : Nat) (g : Vec → Vec) (s : State) : (modVec f v g s).ctl = s.ctl := rfl
@[simp] theorem modVec_straps (f v : Nat) (g : Vec → Vec) (s : State) : (modVec f v g s).straps = s.straps := rfl
@[simp] theorem modVec_pwr (f v : Nat) (g : Vec → Vec) (s : State) : (modVec f v g s).pwr = s.pwr := rfl
@[simp] theorem modVec_flash (f v : Nat) (g : Vec → Vec) (s : State) : (modVec f v g s).flash = s.flash := rfl

/-! ### modChan -/

@[simp] theorem modChan_pending (c : Nat) (g : ChCtx → ChCtx) (s : State) : (modChan c g s).pending = s.pending := rfl
@[simp] theorem modChan_out (c : Nat) (g : ChCtx → ChCtx) (s : State) : (modChan c g s).out = s.out := rfl
@[simp] theorem modChan_free (c : Nat) (g : ChCtx → ChCtx) (s : State) : (modChan c g s).free = s.free := rfl
@[simp] theorem modChan_eic (c : Nat) (g : ChCtx → ChCtx) (s : State) : (modChan c g s).eic = s.eic := rfl
@[simp] theorem modChan_mail (c : Nat) (g : ChCtx → ChCtx) (s : State) : (modChan c g s).mail = s.mail := rfl
@[simp] theorem modChan_eng (c : Nat) (g : ChCtx → ChCtx) (s : State) : (modChan c g s).eng = s.eng := rfl
@[simp] theorem modChan_sch (c : Nat) (g : ChCtx → ChCtx) (s : State) : (modChan c g s).sch = s.sch := rfl
@[simp] theorem modChan_front (c : Nat) (g : ChCtx → ChCtx) (s : State) : (modChan c g s).front = s.front := rfl
@[simp] theorem modChan_tb (c : Nat) (g : ChCtx → ChCtx) (s : State) : (modChan c g s).tb = s.tb := rfl
@[simp] theorem modChan_topo (c : Nat) (g : ChCtx → ChCtx) (s : State) : (modChan c g s).topo = s.topo := rfl
@[simp] theorem modChan_fns (c : Nat) (g : ChCtx → ChCtx) (s : State) : (modChan c g s).fns = s.fns := rfl
@[simp] theorem modChan_slots (c : Nat) (g : ChCtx → ChCtx) (s : State) : (modChan c g s).slots = s.slots := rfl
@[simp] theorem modChan_err (c : Nat) (g : ChCtx → ChCtx) (s : State) : (modChan c g s).err = s.err := rfl
@[simp] theorem modChan_pair (c : Nat) (g : ChCtx → ChCtx) (s : State) : (modChan c g s).pair = s.pair := rfl
@[simp] theorem modChan_ctl (c : Nat) (g : ChCtx → ChCtx) (s : State) : (modChan c g s).ctl = s.ctl := rfl
@[simp] theorem modChan_straps (c : Nat) (g : ChCtx → ChCtx) (s : State) : (modChan c g s).straps = s.straps := rfl
@[simp] theorem modChan_pwr (c : Nat) (g : ChCtx → ChCtx) (s : State) : (modChan c g s).pwr = s.pwr := rfl
@[simp] theorem modChan_flash (c : Nat) (g : ChCtx → ChCtx) (s : State) : (modChan c g s).flash = s.flash := rfl

/-! ### setPage -/

@[simp] theorem setPage_pending (p : Nat) (x : Page) (s : State) : (setPage p x s).pending = s.pending := rfl
@[simp] theorem setPage_out (p : Nat) (x : Page) (s : State) : (setPage p x s).out = s.out := rfl
@[simp] theorem setPage_free (p : Nat) (x : Page) (s : State) : (setPage p x s).free = s.free := rfl
@[simp] theorem setPage_eic (p : Nat) (x : Page) (s : State) : (setPage p x s).eic = s.eic := rfl
@[simp] theorem setPage_mail (p : Nat) (x : Page) (s : State) : (setPage p x s).mail = s.mail := rfl
@[simp] theorem setPage_eng (p : Nat) (x : Page) (s : State) : (setPage p x s).eng = s.eng := rfl
@[simp] theorem setPage_sch (p : Nat) (x : Page) (s : State) : (setPage p x s).sch = s.sch := rfl
@[simp] theorem setPage_front (p : Nat) (x : Page) (s : State) : (setPage p x s).front = s.front := rfl
@[simp] theorem setPage_tb (p : Nat) (x : Page) (s : State) : (setPage p x s).tb = s.tb := rfl
@[simp] theorem setPage_topo (p : Nat) (x : Page) (s : State) : (setPage p x s).topo = s.topo := rfl
@[simp] theorem setPage_fns (p : Nat) (x : Page) (s : State) : (setPage p x s).fns = s.fns := rfl
@[simp] theorem setPage_slots (p : Nat) (x : Page) (s : State) : (setPage p x s).slots = s.slots := rfl
@[simp] theorem setPage_err (p : Nat) (x : Page) (s : State) : (setPage p x s).err = s.err := rfl
@[simp] theorem setPage_pair (p : Nat) (x : Page) (s : State) : (setPage p x s).pair = s.pair := rfl
@[simp] theorem setPage_ctl (p : Nat) (x : Page) (s : State) : (setPage p x s).ctl = s.ctl := rfl
@[simp] theorem setPage_straps (p : Nat) (x : Page) (s : State) : (setPage p x s).straps = s.straps := rfl
@[simp] theorem setPage_pwr (p : Nat) (x : Page) (s : State) : (setPage p x s).pwr = s.pwr := rfl
@[simp] theorem setPage_flash (p : Nat) (x : Page) (s : State) : (setPage p x s).flash = s.flash := rfl

/-! ### modUnit -/

@[simp] theorem modUnit_pending (c : Nat) (g : CmpUnit → CmpUnit) (s : State) : (modUnit c g s).pending = s.pending := rfl
@[simp] theorem modUnit_out (c : Nat) (g : CmpUnit → CmpUnit) (s : State) : (modUnit c g s).out = s.out := rfl
@[simp] theorem modUnit_free (c : Nat) (g : CmpUnit → CmpUnit) (s : State) : (modUnit c g s).free = s.free := rfl
@[simp] theorem modUnit_eic (c : Nat) (g : CmpUnit → CmpUnit) (s : State) : (modUnit c g s).eic = s.eic := rfl
@[simp] theorem modUnit_mail (c : Nat) (g : CmpUnit → CmpUnit) (s : State) : (modUnit c g s).mail = s.mail := rfl
@[simp] theorem modUnit_eng (c : Nat) (g : CmpUnit → CmpUnit) (s : State) : (modUnit c g s).eng = s.eng := rfl
@[simp] theorem modUnit_sch (c : Nat) (g : CmpUnit → CmpUnit) (s : State) : (modUnit c g s).sch = s.sch := rfl
@[simp] theorem modUnit_front (c : Nat) (g : CmpUnit → CmpUnit) (s : State) : (modUnit c g s).front = s.front := rfl
@[simp] theorem modUnit_dma (c : Nat) (g : CmpUnit → CmpUnit) (s : State) : (modUnit c g s).dma = s.dma := rfl
@[simp] theorem modUnit_topo (c : Nat) (g : CmpUnit → CmpUnit) (s : State) : (modUnit c g s).topo = s.topo := rfl
@[simp] theorem modUnit_fns (c : Nat) (g : CmpUnit → CmpUnit) (s : State) : (modUnit c g s).fns = s.fns := rfl
@[simp] theorem modUnit_slots (c : Nat) (g : CmpUnit → CmpUnit) (s : State) : (modUnit c g s).slots = s.slots := rfl
@[simp] theorem modUnit_err (c : Nat) (g : CmpUnit → CmpUnit) (s : State) : (modUnit c g s).err = s.err := rfl
@[simp] theorem modUnit_pair (c : Nat) (g : CmpUnit → CmpUnit) (s : State) : (modUnit c g s).pair = s.pair := rfl
@[simp] theorem modUnit_ctl (c : Nat) (g : CmpUnit → CmpUnit) (s : State) : (modUnit c g s).ctl = s.ctl := rfl
@[simp] theorem modUnit_straps (c : Nat) (g : CmpUnit → CmpUnit) (s : State) : (modUnit c g s).straps = s.straps := rfl
@[simp] theorem modUnit_pwr (c : Nat) (g : CmpUnit → CmpUnit) (s : State) : (modUnit c g s).pwr = s.pwr := rfl
@[simp] theorem modUnit_flash (c : Nat) (g : CmpUnit → CmpUnit) (s : State) : (modUnit c g s).flash = s.flash := rfl

/-! ### modAxis -/

@[simp] theorem modAxis_pending (i : Nat) (g : Axis → Axis) (s : State) : (modAxis i g s).pending = s.pending := rfl
@[simp] theorem modAxis_out (i : Nat) (g : Axis → Axis) (s : State) : (modAxis i g s).out = s.out := rfl
@[simp] theorem modAxis_free (i : Nat) (g : Axis → Axis) (s : State) : (modAxis i g s).free = s.free := rfl
@[simp] theorem modAxis_eic (i : Nat) (g : Axis → Axis) (s : State) : (modAxis i g s).eic = s.eic := rfl
@[simp] theorem modAxis_mail (i : Nat) (g : Axis → Axis) (s : State) : (modAxis i g s).mail = s.mail := rfl
@[simp] theorem modAxis_eng (i : Nat) (g : Axis → Axis) (s : State) : (modAxis i g s).eng = s.eng := rfl
@[simp] theorem modAxis_sch (i : Nat) (g : Axis → Axis) (s : State) : (modAxis i g s).sch = s.sch := rfl
@[simp] theorem modAxis_front (i : Nat) (g : Axis → Axis) (s : State) : (modAxis i g s).front = s.front := rfl
@[simp] theorem modAxis_dma (i : Nat) (g : Axis → Axis) (s : State) : (modAxis i g s).dma = s.dma := rfl
@[simp] theorem modAxis_topo (i : Nat) (g : Axis → Axis) (s : State) : (modAxis i g s).topo = s.topo := rfl
@[simp] theorem modAxis_fns (i : Nat) (g : Axis → Axis) (s : State) : (modAxis i g s).fns = s.fns := rfl
@[simp] theorem modAxis_slots (i : Nat) (g : Axis → Axis) (s : State) : (modAxis i g s).slots = s.slots := rfl
@[simp] theorem modAxis_err (i : Nat) (g : Axis → Axis) (s : State) : (modAxis i g s).err = s.err := rfl
@[simp] theorem modAxis_pair (i : Nat) (g : Axis → Axis) (s : State) : (modAxis i g s).pair = s.pair := rfl
@[simp] theorem modAxis_ctl (i : Nat) (g : Axis → Axis) (s : State) : (modAxis i g s).ctl = s.ctl := rfl
@[simp] theorem modAxis_straps (i : Nat) (g : Axis → Axis) (s : State) : (modAxis i g s).straps = s.straps := rfl
@[simp] theorem modAxis_pwr (i : Nat) (g : Axis → Axis) (s : State) : (modAxis i g s).pwr = s.pwr := rfl
@[simp] theorem modAxis_flash (i : Nat) (g : Axis → Axis) (s : State) : (modAxis i g s).flash = s.flash := rfl

/-! ### modSlot -/

@[simp] theorem modSlot_pending (n : Nat) (g : CardSlot → CardSlot) (s : State) : (modSlot n g s).pending = s.pending := rfl
@[simp] theorem modSlot_out (n : Nat) (g : CardSlot → CardSlot) (s : State) : (modSlot n g s).out = s.out := rfl
@[simp] theorem modSlot_free (n : Nat) (g : CardSlot → CardSlot) (s : State) : (modSlot n g s).free = s.free := rfl
@[simp] theorem modSlot_eic (n : Nat) (g : CardSlot → CardSlot) (s : State) : (modSlot n g s).eic = s.eic := rfl
@[simp] theorem modSlot_mail (n : Nat) (g : CardSlot → CardSlot) (s : State) : (modSlot n g s).mail = s.mail := rfl
@[simp] theorem modSlot_eng (n : Nat) (g : CardSlot → CardSlot) (s : State) : (modSlot n g s).eng = s.eng := rfl
@[simp] theorem modSlot_sch (n : Nat) (g : CardSlot → CardSlot) (s : State) : (modSlot n g s).sch = s.sch := rfl
@[simp] theorem modSlot_front (n : Nat) (g : CardSlot → CardSlot) (s : State) : (modSlot n g s).front = s.front := rfl
@[simp] theorem modSlot_dma (n : Nat) (g : CardSlot → CardSlot) (s : State) : (modSlot n g s).dma = s.dma := rfl
@[simp] theorem modSlot_tb (n : Nat) (g : CardSlot → CardSlot) (s : State) : (modSlot n g s).tb = s.tb := rfl
@[simp] theorem modSlot_topo (n : Nat) (g : CardSlot → CardSlot) (s : State) : (modSlot n g s).topo = s.topo := rfl
@[simp] theorem modSlot_fns (n : Nat) (g : CardSlot → CardSlot) (s : State) : (modSlot n g s).fns = s.fns := rfl
@[simp] theorem modSlot_err (n : Nat) (g : CardSlot → CardSlot) (s : State) : (modSlot n g s).err = s.err := rfl
@[simp] theorem modSlot_pair (n : Nat) (g : CardSlot → CardSlot) (s : State) : (modSlot n g s).pair = s.pair := rfl
@[simp] theorem modSlot_ctl (n : Nat) (g : CardSlot → CardSlot) (s : State) : (modSlot n g s).ctl = s.ctl := rfl
@[simp] theorem modSlot_straps (n : Nat) (g : CardSlot → CardSlot) (s : State) : (modSlot n g s).straps = s.straps := rfl
@[simp] theorem modSlot_pwr (n : Nat) (g : CardSlot → CardSlot) (s : State) : (modSlot n g s).pwr = s.pwr := rfl
@[simp] theorem modSlot_flash (n : Nat) (g : CardSlot → CardSlot) (s : State) : (modSlot n g s).flash = s.flash := rfl

/-! ### modDie -/

@[simp] theorem modDie_pending (n : Nat) (g : Die → Die) (s : State) : (modDie n g s).pending = s.pending := rfl
@[simp] theorem modDie_out (n : Nat) (g : Die → Die) (s : State) : (modDie n g s).out = s.out := rfl
@[simp] theorem modDie_free (n : Nat) (g : Die → Die) (s : State) : (modDie n g s).free = s.free := rfl
@[simp] theorem modDie_eic (n : Nat) (g : Die → Die) (s : State) : (modDie n g s).eic = s.eic := rfl
@[simp] theorem modDie_mail (n : Nat) (g : Die → Die) (s : State) : (modDie n g s).mail = s.mail := rfl
@[simp] theorem modDie_eng (n : Nat) (g : Die → Die) (s : State) : (modDie n g s).eng = s.eng := rfl
@[simp] theorem modDie_sch (n : Nat) (g : Die → Die) (s : State) : (modDie n g s).sch = s.sch := rfl
@[simp] theorem modDie_front (n : Nat) (g : Die → Die) (s : State) : (modDie n g s).front = s.front := rfl
@[simp] theorem modDie_dma (n : Nat) (g : Die → Die) (s : State) : (modDie n g s).dma = s.dma := rfl
@[simp] theorem modDie_tb (n : Nat) (g : Die → Die) (s : State) : (modDie n g s).tb = s.tb := rfl
@[simp] theorem modDie_topo (n : Nat) (g : Die → Die) (s : State) : (modDie n g s).topo = s.topo := rfl
@[simp] theorem modDie_fns (n : Nat) (g : Die → Die) (s : State) : (modDie n g s).fns = s.fns := rfl
@[simp] theorem modDie_err (n : Nat) (g : Die → Die) (s : State) : (modDie n g s).err = s.err := rfl
@[simp] theorem modDie_pair (n : Nat) (g : Die → Die) (s : State) : (modDie n g s).pair = s.pair := rfl
@[simp] theorem modDie_ctl (n : Nat) (g : Die → Die) (s : State) : (modDie n g s).ctl = s.ctl := rfl
@[simp] theorem modDie_straps (n : Nat) (g : Die → Die) (s : State) : (modDie n g s).straps = s.straps := rfl
@[simp] theorem modDie_pwr (n : Nat) (g : Die → Die) (s : State) : (modDie n g s).pwr = s.pwr := rfl
@[simp] theorem modDie_flash (n : Nat) (g : Die → Die) (s : State) : (modDie n g s).flash = s.flash := rfl

/-! ### modErr -/

@[simp] theorem modErr_pending (c : Nat) (g : ErrClass → ErrClass) (s : State) : (modErr c g s).pending = s.pending := rfl
@[simp] theorem modErr_out (c : Nat) (g : ErrClass → ErrClass) (s : State) : (modErr c g s).out = s.out := rfl
@[simp] theorem modErr_free (c : Nat) (g : ErrClass → ErrClass) (s : State) : (modErr c g s).free = s.free := rfl
@[simp] theorem modErr_eic (c : Nat) (g : ErrClass → ErrClass) (s : State) : (modErr c g s).eic = s.eic := rfl
@[simp] theorem modErr_mail (c : Nat) (g : ErrClass → ErrClass) (s : State) : (modErr c g s).mail = s.mail := rfl
@[simp] theorem modErr_eng (c : Nat) (g : ErrClass → ErrClass) (s : State) : (modErr c g s).eng = s.eng := rfl
@[simp] theorem modErr_sch (c : Nat) (g : ErrClass → ErrClass) (s : State) : (modErr c g s).sch = s.sch := rfl
@[simp] theorem modErr_front (c : Nat) (g : ErrClass → ErrClass) (s : State) : (modErr c g s).front = s.front := rfl
@[simp] theorem modErr_dma (c : Nat) (g : ErrClass → ErrClass) (s : State) : (modErr c g s).dma = s.dma := rfl
@[simp] theorem modErr_tb (c : Nat) (g : ErrClass → ErrClass) (s : State) : (modErr c g s).tb = s.tb := rfl
@[simp] theorem modErr_topo (c : Nat) (g : ErrClass → ErrClass) (s : State) : (modErr c g s).topo = s.topo := rfl
@[simp] theorem modErr_fns (c : Nat) (g : ErrClass → ErrClass) (s : State) : (modErr c g s).fns = s.fns := rfl
@[simp] theorem modErr_slots (c : Nat) (g : ErrClass → ErrClass) (s : State) : (modErr c g s).slots = s.slots := rfl
@[simp] theorem modErr_pair (c : Nat) (g : ErrClass → ErrClass) (s : State) : (modErr c g s).pair = s.pair := rfl
@[simp] theorem modErr_ctl (c : Nat) (g : ErrClass → ErrClass) (s : State) : (modErr c g s).ctl = s.ctl := rfl
@[simp] theorem modErr_straps (c : Nat) (g : ErrClass → ErrClass) (s : State) : (modErr c g s).straps = s.straps := rfl
@[simp] theorem modErr_pwr (c : Nat) (g : ErrClass → ErrClass) (s : State) : (modErr c g s).pwr = s.pwr := rfl
@[simp] theorem modErr_flash (c : Nat) (g : ErrClass → ErrClass) (s : State) : (modErr c g s).flash = s.flash := rfl

/-! ### modCtl -/

@[simp] theorem modCtl_pending (n : Nat) (g : PctlPort → PctlPort) (s : State) : (modCtl n g s).pending = s.pending := rfl
@[simp] theorem modCtl_out (n : Nat) (g : PctlPort → PctlPort) (s : State) : (modCtl n g s).out = s.out := rfl
@[simp] theorem modCtl_free (n : Nat) (g : PctlPort → PctlPort) (s : State) : (modCtl n g s).free = s.free := rfl
@[simp] theorem modCtl_eic (n : Nat) (g : PctlPort → PctlPort) (s : State) : (modCtl n g s).eic = s.eic := rfl
@[simp] theorem modCtl_mail (n : Nat) (g : PctlPort → PctlPort) (s : State) : (modCtl n g s).mail = s.mail := rfl
@[simp] theorem modCtl_eng (n : Nat) (g : PctlPort → PctlPort) (s : State) : (modCtl n g s).eng = s.eng := rfl
@[simp] theorem modCtl_sch (n : Nat) (g : PctlPort → PctlPort) (s : State) : (modCtl n g s).sch = s.sch := rfl
@[simp] theorem modCtl_front (n : Nat) (g : PctlPort → PctlPort) (s : State) : (modCtl n g s).front = s.front := rfl
@[simp] theorem modCtl_dma (n : Nat) (g : PctlPort → PctlPort) (s : State) : (modCtl n g s).dma = s.dma := rfl
@[simp] theorem modCtl_tb (n : Nat) (g : PctlPort → PctlPort) (s : State) : (modCtl n g s).tb = s.tb := rfl
@[simp] theorem modCtl_topo (n : Nat) (g : PctlPort → PctlPort) (s : State) : (modCtl n g s).topo = s.topo := rfl
@[simp] theorem modCtl_fns (n : Nat) (g : PctlPort → PctlPort) (s : State) : (modCtl n g s).fns = s.fns := rfl
@[simp] theorem modCtl_slots (n : Nat) (g : PctlPort → PctlPort) (s : State) : (modCtl n g s).slots = s.slots := rfl
@[simp] theorem modCtl_err (n : Nat) (g : PctlPort → PctlPort) (s : State) : (modCtl n g s).err = s.err := rfl
@[simp] theorem modCtl_pair (n : Nat) (g : PctlPort → PctlPort) (s : State) : (modCtl n g s).pair = s.pair := rfl
@[simp] theorem modCtl_straps (n : Nat) (g : PctlPort → PctlPort) (s : State) : (modCtl n g s).straps = s.straps := rfl
@[simp] theorem modCtl_pwr (n : Nat) (g : PctlPort → PctlPort) (s : State) : (modCtl n g s).pwr = s.pwr := rfl
@[simp] theorem modCtl_flash (n : Nat) (g : PctlPort → PctlPort) (s : State) : (modCtl n g s).flash = s.flash := rfl

/-! ### Reads after updates -/

@[simp] theorem fn_setFn (s : State) (f k : Nat) (x : Func) :
    fn (setFn s f x) k = if k = f then x else fn s k := by
  by_cases h : k = f
  · subst h; simp [fn, setFn, tget_tput]
  · simp [fn, setFn, tget_tput, h]
@[simp] theorem fn_modFn (f k : Nat) (g : Func → Func) (s : State) :
    fn (modFn f g s) k = if k = f then g (fn s f) else fn s k := by
  by_cases h : k = f
  · subst h; simp [fn, modFn, setFn, tget_tput]
  · simp [fn, modFn, setFn, tget_tput, h]
@[simp] theorem port_setPort (s : State) (p k : Nat) (x : Port) :
    port (setPort s p x) k = if k = p then x else port s k := by
  by_cases h : k = p
  · subst h; simp [port, setPort, tget_tput]
  · simp [port, setPort, tget_tput, h]
@[simp] theorem port_modPort (p k : Nat) (g : Port → Port) (s : State) :
    port (modPort p g s) k = if k = p then g (port s p) else port s k := by
  by_cases h : k = p
  · subst h; simp [port, modPort, setPort, tget_tput]
  · simp [port, modPort, setPort, tget_tput, h]
@[simp] theorem eng_setEng (s : State) (e k : Nat) (x : Engine) :
    eng (setEng s e x) k = if k = e then x else eng s k := by
  by_cases h : k = e
  · subst h; simp [eng, setEng, tget_tput]
  · simp [eng, setEng, tget_tput, h]
@[simp] theorem eng_modEng (e k : Nat) (g : Engine → Engine) (s : State) :
    eng (modEng e g s) k = if k = e then g (eng s e) else eng s k := by
  by_cases h : k = e
  · subst h; simp [eng, modEng, setEng, tget_tput]
  · simp [eng, modEng, setEng, tget_tput, h]
@[simp] theorem handle_setHandle (s : State) (n k : Nat) (x : Handle) :
    handle (setHandle s n x) k = if k = n then x else handle s k := by
  by_cases h : k = n
  · subst h; simp [handle, setHandle, tget_tput]
  · simp [handle, setHandle, tget_tput, h]
@[simp] theorem handle_modHandle (n k : Nat) (g : Handle → Handle) (s : State) :
    handle (modHandle n g s) k = if k = n then g (handle s n) else handle s k := by
  by_cases h : k = n
  · subst h; simp [handle, modHandle, setHandle, tget_tput]
  · simp [handle, modHandle, setHandle, tget_tput, h]
@[simp] theorem box_setBox (s : State) (n k : Nat) (x : MBox) :
    box (setBox s n x) k = if k = n then x else box s k := by
  by_cases h : k = n
  · subst h; simp [box, setBox, tget_tput]
  · simp [box, setBox, tget_tput, h]
@[simp] theorem box_modBox (n k : Nat) (g : MBox → MBox) (s : State) :
    box (modBox n g s) k = if k = n then g (box s n) else box s k := by
  by_cases h : k = n
  · subst h; simp [box, modBox, setBox, tget_tput]
  · simp [box, modBox, setBox, tget_tput, h]
@[simp] theorem source_setSource (s : State) (n k : Nat) (x : Source) :
    source (setSource s n x) k = if k = n then x else source s k := by
  by_cases h : k = n
  · subst h; simp [source, setSource, tget_tput]
  · simp [source, setSource, tget_tput, h]
@[simp] theorem source_modSource (n k : Nat) (g : Source → Source) (s : State) :
    source (modSource n g s) k = if k = n then g (source s n) else source s k := by
  by_cases h : k = n
  · subst h; simp [source, modSource, setSource, tget_tput]
  · simp [source, modSource, setSource, tget_tput, h]
@[simp] theorem target_modTarget (n k : Nat) (g : Target → Target) (s : State) :
    target (modTarget n g s) k = if k = n then g (target s n) else target s k := by
  by_cases h : k = n
  · subst h; simp [target, modTarget, tget_tput]
  · simp [target, modTarget, tget_tput, h]
@[simp] theorem pstate_setPstate (s : State) (n k : Nat) (x : PState) :
    pstate (setPstate s n x) k = if k = n then x else pstate s k := by
  by_cases h : k = n
  · subst h; simp [pstate, setPstate, tget_tput]
  · simp [pstate, setPstate, tget_tput, h]
@[simp] theorem pstate_modPstate (n k : Nat) (g : PState → PState) (s : State) :
    pstate (modPstate n g s) k = if k = n then g (pstate s n) else pstate s k := by
  by_cases h : k = n
  · subst h; simp [pstate, modPstate, setPstate, tget_tput]
  · simp [pstate, modPstate, setPstate, tget_tput, h]
@[simp] theorem chan_modChan (n k : Nat) (g : ChCtx → ChCtx) (s : State) :
    chan (modChan n g s) k = if k = n then g (chan s n) else chan s k := by
  by_cases h : k = n
  · subst h; simp [chan, modChan, tget_tput]
  · simp [chan, modChan, tget_tput, h]
@[simp] theorem page_setPage (n k : Nat) (x : Page) (s : State) :
    page (setPage n x s) k = if k = n then x else page s k := by
  by_cases h : k = n
  · subst h; simp [page, setPage, tget_tput]
  · simp [page, setPage, tget_tput, h]
@[simp] theorem cmpUnit_modUnit (n k : Nat) (g : CmpUnit → CmpUnit) (s : State) :
    cmpUnit (modUnit n g s) k = if k = n then g (cmpUnit s n) else cmpUnit s k := by
  by_cases h : k = n
  · subst h; simp [cmpUnit, modUnit, tget_tput]
  · simp [cmpUnit, modUnit, tget_tput, h]
@[simp] theorem axis_modAxis (n k : Nat) (g : Axis → Axis) (s : State) :
    axis (modAxis n g s) k = if k = n then g (axis s n) else axis s k := by
  by_cases h : k = n
  · subst h; simp [axis, modAxis, tget_tput]
  · simp [axis, modAxis, tget_tput, h]
@[simp] theorem slot_modSlot (n k : Nat) (g : CardSlot → CardSlot) (s : State) :
    slot (modSlot n g s) k = if k = n then g (slot s n) else slot s k := by
  by_cases h : k = n
  · subst h; simp [slot, modSlot, tget_tput]
  · simp [slot, modSlot, tget_tput, h]
@[simp] theorem die_modDie (n k : Nat) (g : Die → Die) (s : State) :
    die (modDie n g s) k = if k = n then g (die s n) else die s k := by
  by_cases h : k = n
  · subst h; simp [die, modDie, tget_tput]
  · simp [die, modDie, tget_tput, h]
@[simp] theorem ctlPort_modCtl (n k : Nat) (g : PctlPort → PctlPort) (s : State) :
    ctlPort (modCtl n g s) k = if k = n then g (ctlPort s n) else ctlPort s k := by
  by_cases h : k = n
  · subst h; simp [ctlPort, modCtl, tget_tput]
  · simp [ctlPort, modCtl, tget_tput, h]
@[simp] theorem errClass_modErr (c k : Nat) (g : ErrClass → ErrClass) (s : State) :
    errClass (modErr c g s) k = if k = c then g (errClass s c) else errClass s k := by
  by_cases h : k = c
  · subst h; simp [errClass, modErr, tget_tput]
  · simp [errClass, modErr, tget_tput, h]

@[simp] theorem item_setItem (s : State) (i k : Nat) (x : Item) :
    item? (setItem s i x) k = if k = i then some x else item? s k := by simp [item?, setItem, tfind_tput]
@[simp] theorem item_delItem (s : State) (i k : Nat) :
    item? (delItem s i) k = if k = i then none else item? s k := by simp [item?, delItem, tfind_tdel]
@[simp] theorem dev_setDev (s : State) (n k : Nat) (x : Device) :
    dev? (setDev s n x) k = if k = n then some x else dev? s k := by simp [dev?, setDev, tfind_tput]

/-! ### Reads of one block after updates of another -/

@[simp] theorem fn_of_emit (o : Output) (s : State) (k' : Nat) : fn (emit o s) k' = fn s k' := rfl
@[simp] theorem port_of_emit (o : Output) (s : State) (k' : Nat) : port (emit o s) k' = port s k' := rfl
@[simp] theorem eng_of_emit (o : Output) (s : State) (k' : Nat) : eng (emit o s) k' = eng s k' := rfl
@[simp] theorem item_of_emit (o : Output) (s : State) (k' : Nat) : item? (emit o s) k' = item? s k' := rfl
@[simp] theorem dev_of_emit (o : Output) (s : State) (k' : Nat) : dev? (emit o s) k' = dev? s k' := rfl
@[simp] theorem handle_of_emit (o : Output) (s : State) (k' : Nat) : handle (emit o s) k' = handle s k' := rfl
@[simp] theorem box_of_emit (o : Output) (s : State) (k' : Nat) : box (emit o s) k' = box s k' := rfl
@[simp] theorem source_of_emit (o : Output) (s : State) (k' : Nat) : source (emit o s) k' = source s k' := rfl
@[simp] theorem target_of_emit (o : Output) (s : State) (k' : Nat) : target (emit o s) k' = target s k' := rfl
@[simp] theorem pstate_of_emit (o : Output) (s : State) (k' : Nat) : pstate (emit o s) k' = pstate s k' := rfl
@[simp] theorem chan_of_emit (o : Output) (s : State) (k' : Nat) : chan (emit o s) k' = chan s k' := rfl
@[simp] theorem page_of_emit (o : Output) (s : State) (k' : Nat) : page (emit o s) k' = page s k' := rfl
@[simp] theorem cmpUnit_of_emit (o : Output) (s : State) (k' : Nat) : cmpUnit (emit o s) k' = cmpUnit s k' := rfl
@[simp] theorem axis_of_emit (o : Output) (s : State) (k' : Nat) : axis (emit o s) k' = axis s k' := rfl
@[simp] theorem slot_of_emit (o : Output) (s : State) (k' : Nat) : slot (emit o s) k' = slot s k' := rfl
@[simp] theorem die_of_emit (o : Output) (s : State) (k' : Nat) : die (emit o s) k' = die s k' := rfl
@[simp] theorem errClass_of_emit (o : Output) (s : State) (k' : Nat) : errClass (emit o s) k' = errClass s k' := rfl
@[simp] theorem port_of_modFn (f : Nat) (g : Func → Func) (s : State) (k' : Nat) : port (modFn f g s) k' = port s k' := rfl
@[simp] theorem eng_of_modFn (f : Nat) (g : Func → Func) (s : State) (k' : Nat) : eng (modFn f g s) k' = eng s k' := rfl
@[simp] theorem item_of_modFn (f : Nat) (g : Func → Func) (s : State) (k' : Nat) : item? (modFn f g s) k' = item? s k' := rfl
@[simp] theorem dev_of_modFn (f : Nat) (g : Func → Func) (s : State) (k' : Nat) : dev? (modFn f g s) k' = dev? s k' := rfl
@[simp] theorem handle_of_modFn (f : Nat) (g : Func → Func) (s : State) (k' : Nat) : handle (modFn f g s) k' = handle s k' := rfl
@[simp] theorem box_of_modFn (f : Nat) (g : Func → Func) (s : State) (k' : Nat) : box (modFn f g s) k' = box s k' := rfl
@[simp] theorem source_of_modFn (f : Nat) (g : Func → Func) (s : State) (k' : Nat) : source (modFn f g s) k' = source s k' := rfl
@[simp] theorem target_of_modFn (f : Nat) (g : Func → Func) (s : State) (k' : Nat) : target (modFn f g s) k' = target s k' := rfl
@[simp] theorem pstate_of_modFn (f : Nat) (g : Func → Func) (s : State) (k' : Nat) : pstate (modFn f g s) k' = pstate s k' := rfl
@[simp] theorem chan_of_modFn (f : Nat) (g : Func → Func) (s : State) (k' : Nat) : chan (modFn f g s) k' = chan s k' := rfl
@[simp] theorem page_of_modFn (f : Nat) (g : Func → Func) (s : State) (k' : Nat) : page (modFn f g s) k' = page s k' := rfl
@[simp] theorem cmpUnit_of_modFn (f : Nat) (g : Func → Func) (s : State) (k' : Nat) : cmpUnit (modFn f g s) k' = cmpUnit s k' := rfl
@[simp] theorem axis_of_modFn (f : Nat) (g : Func → Func) (s : State) (k' : Nat) : axis (modFn f g s) k' = axis s k' := rfl
@[simp] theorem slot_of_modFn (f : Nat) (g : Func → Func) (s : State) (k' : Nat) : slot (modFn f g s) k' = slot s k' := rfl
@[simp] theorem die_of_modFn (f : Nat) (g : Func → Func) (s : State) (k' : Nat) : die (modFn f g s) k' = die s k' := rfl
@[simp] theorem errClass_of_modFn (f : Nat) (g : Func → Func) (s : State) (k' : Nat) : errClass (modFn f g s) k' = errClass s k' := rfl
@[simp] theorem fn_of_modPort (p : Nat) (g : Port → Port) (s : State) (k' : Nat) : fn (modPort p g s) k' = fn s k' := rfl
@[simp] theorem eng_of_modPort (p : Nat) (g : Port → Port) (s : State) (k' : Nat) : eng (modPort p g s) k' = eng s k' := rfl
@[simp] theorem item_of_modPort (p : Nat) (g : Port → Port) (s : State) (k' : Nat) : item? (modPort p g s) k' = item? s k' := rfl
@[simp] theorem box_of_modPort (p : Nat) (g : Port → Port) (s : State) (k' : Nat) : box (modPort p g s) k' = box s k' := rfl
@[simp] theorem source_of_modPort (p : Nat) (g : Port → Port) (s : State) (k' : Nat) : source (modPort p g s) k' = source s k' := rfl
@[simp] theorem target_of_modPort (p : Nat) (g : Port → Port) (s : State) (k' : Nat) : target (modPort p g s) k' = target s k' := rfl
@[simp] theorem pstate_of_modPort (p : Nat) (g : Port → Port) (s : State) (k' : Nat) : pstate (modPort p g s) k' = pstate s k' := rfl
@[simp] theorem chan_of_modPort (p : Nat) (g : Port → Port) (s : State) (k' : Nat) : chan (modPort p g s) k' = chan s k' := rfl
@[simp] theorem page_of_modPort (p : Nat) (g : Port → Port) (s : State) (k' : Nat) : page (modPort p g s) k' = page s k' := rfl
@[simp] theorem cmpUnit_of_modPort (p : Nat) (g : Port → Port) (s : State) (k' : Nat) : cmpUnit (modPort p g s) k' = cmpUnit s k' := rfl
@[simp] theorem axis_of_modPort (p : Nat) (g : Port → Port) (s : State) (k' : Nat) : axis (modPort p g s) k' = axis s k' := rfl
@[simp] theorem slot_of_modPort (p : Nat) (g : Port → Port) (s : State) (k' : Nat) : slot (modPort p g s) k' = slot s k' := rfl
@[simp] theorem die_of_modPort (p : Nat) (g : Port → Port) (s : State) (k' : Nat) : die (modPort p g s) k' = die s k' := rfl
@[simp] theorem errClass_of_modPort (p : Nat) (g : Port → Port) (s : State) (k' : Nat) : errClass (modPort p g s) k' = errClass s k' := rfl
@[simp] theorem fn_of_modEng (e : Nat) (g : Engine → Engine) (s : State) (k' : Nat) : fn (modEng e g s) k' = fn s k' := rfl
@[simp] theorem port_of_modEng (e : Nat) (g : Engine → Engine) (s : State) (k' : Nat) : port (modEng e g s) k' = port s k' := rfl
@[simp] theorem item_of_modEng (e : Nat) (g : Engine → Engine) (s : State) (k' : Nat) : item? (modEng e g s) k' = item? s k' := rfl
@[simp] theorem dev_of_modEng (e : Nat) (g : Engine → Engine) (s : State) (k' : Nat) : dev? (modEng e g s) k' = dev? s k' := rfl
@[simp] theorem handle_of_modEng (e : Nat) (g : Engine → Engine) (s : State) (k' : Nat) : handle (modEng e g s) k' = handle s k' := rfl
@[simp] theorem box_of_modEng (e : Nat) (g : Engine → Engine) (s : State) (k' : Nat) : box (modEng e g s) k' = box s k' := rfl
@[simp] theorem source_of_modEng (e : Nat) (g : Engine → Engine) (s : State) (k' : Nat) : source (modEng e g s) k' = source s k' := rfl
@[simp] theorem target_of_modEng (e : Nat) (g : Engine → Engine) (s : State) (k' : Nat) : target (modEng e g s) k' = target s k' := rfl
@[simp] theorem pstate_of_modEng (e : Nat) (g : Engine → Engine) (s : State) (k' : Nat) : pstate (modEng e g s) k' = pstate s k' := rfl
@[simp] theorem chan_of_modEng (e : Nat) (g : Engine → Engine) (s : State) (k' : Nat) : chan (modEng e g s) k' = chan s k' := rfl
@[simp] theorem page_of_modEng (e : Nat) (g : Engine → Engine) (s : State) (k' : Nat) : page (modEng e g s) k' = page s k' := rfl
@[simp] theorem cmpUnit_of_modEng (e : Nat) (g : Engine → Engine) (s : State) (k' : Nat) : cmpUnit (modEng e g s) k' = cmpUnit s k' := rfl
@[simp] theorem axis_of_modEng (e : Nat) (g : Engine → Engine) (s : State) (k' : Nat) : axis (modEng e g s) k' = axis s k' := rfl
@[simp] theorem slot_of_modEng (e : Nat) (g : Engine → Engine) (s : State) (k' : Nat) : slot (modEng e g s) k' = slot s k' := rfl
@[simp] theorem die_of_modEng (e : Nat) (g : Engine → Engine) (s : State) (k' : Nat) : die (modEng e g s) k' = die s k' := rfl
@[simp] theorem errClass_of_modEng (e : Nat) (g : Engine → Engine) (s : State) (k' : Nat) : errClass (modEng e g s) k' = errClass s k' := rfl
@[simp] theorem fn_of_setItem (s : State) (i : Nat) (x : Item) (k' : Nat) : fn (setItem s i x) k' = fn s k' := rfl
@[simp] theorem port_of_setItem (s : State) (i : Nat) (x : Item) (k' : Nat) : port (setItem s i x) k' = port s k' := rfl
@[simp] theorem eng_of_setItem (s : State) (i : Nat) (x : Item) (k' : Nat) : eng (setItem s i x) k' = eng s k' := rfl
@[simp] theorem dev_of_setItem (s : State) (i : Nat) (x : Item) (k' : Nat) : dev? (setItem s i x) k' = dev? s k' := rfl
@[simp] theorem handle_of_setItem (s : State) (i : Nat) (x : Item) (k' : Nat) : handle (setItem s i x) k' = handle s k' := rfl
@[simp] theorem box_of_setItem (s : State) (i : Nat) (x : Item) (k' : Nat) : box (setItem s i x) k' = box s k' := rfl
@[simp] theorem source_of_setItem (s : State) (i : Nat) (x : Item) (k' : Nat) : source (setItem s i x) k' = source s k' := rfl
@[simp] theorem target_of_setItem (s : State) (i : Nat) (x : Item) (k' : Nat) : target (setItem s i x) k' = target s k' := rfl
@[simp] theorem pstate_of_setItem (s : State) (i : Nat) (x : Item) (k' : Nat) : pstate (setItem s i x) k' = pstate s k' := rfl
@[simp] theorem chan_of_setItem (s : State) (i : Nat) (x : Item) (k' : Nat) : chan (setItem s i x) k' = chan s k' := rfl
@[simp] theorem page_of_setItem (s : State) (i : Nat) (x : Item) (k' : Nat) : page (setItem s i x) k' = page s k' := rfl
@[simp] theorem cmpUnit_of_setItem (s : State) (i : Nat) (x : Item) (k' : Nat) : cmpUnit (setItem s i x) k' = cmpUnit s k' := rfl
@[simp] theorem axis_of_setItem (s : State) (i : Nat) (x : Item) (k' : Nat) : axis (setItem s i x) k' = axis s k' := rfl
@[simp] theorem slot_of_setItem (s : State) (i : Nat) (x : Item) (k' : Nat) : slot (setItem s i x) k' = slot s k' := rfl
@[simp] theorem die_of_setItem (s : State) (i : Nat) (x : Item) (k' : Nat) : die (setItem s i x) k' = die s k' := rfl
@[simp] theorem errClass_of_setItem (s : State) (i : Nat) (x : Item) (k' : Nat) : errClass (setItem s i x) k' = errClass s k' := rfl
@[simp] theorem fn_of_delItem (s : State) (i : Nat) (k' : Nat) : fn (delItem s i) k' = fn s k' := rfl
@[simp] theorem port_of_delItem (s : State) (i : Nat) (k' : Nat) : port (delItem s i) k' = port s k' := rfl
@[simp] theorem eng_of_delItem (s : State) (i : Nat) (k' : Nat) : eng (delItem s i) k' = eng s k' := rfl
@[simp] theorem dev_of_delItem (s : State) (i : Nat) (k' : Nat) : dev? (delItem s i) k' = dev? s k' := rfl
@[simp] theorem handle_of_delItem (s : State) (i : Nat) (k' : Nat) : handle (delItem s i) k' = handle s k' := rfl
@[simp] theorem box_of_delItem (s : State) (i : Nat) (k' : Nat) : box (delItem s i) k' = box s k' := rfl
@[simp] theorem source_of_delItem (s : State) (i : Nat) (k' : Nat) : source (delItem s i) k' = source s k' := rfl
@[simp] theorem target_of_delItem (s : State) (i : Nat) (k' : Nat) : target (delItem s i) k' = target s k' := rfl
@[simp] theorem pstate_of_delItem (s : State) (i : Nat) (k' : Nat) : pstate (delItem s i) k' = pstate s k' := rfl
@[simp] theorem chan_of_delItem (s : State) (i : Nat) (k' : Nat) : chan (delItem s i) k' = chan s k' := rfl
@[simp] theorem page_of_delItem (s : State) (i : Nat) (k' : Nat) : page (delItem s i) k' = page s k' := rfl
@[simp] theorem cmpUnit_of_delItem (s : State) (i : Nat) (k' : Nat) : cmpUnit (delItem s i) k' = cmpUnit s k' := rfl
@[simp] theorem axis_of_delItem (s : State) (i : Nat) (k' : Nat) : axis (delItem s i) k' = axis s k' := rfl
@[simp] theorem slot_of_delItem (s : State) (i : Nat) (k' : Nat) : slot (delItem s i) k' = slot s k' := rfl
@[simp] theorem die_of_delItem (s : State) (i : Nat) (k' : Nat) : die (delItem s i) k' = die s k' := rfl
@[simp] theorem errClass_of_delItem (s : State) (i : Nat) (k' : Nat) : errClass (delItem s i) k' = errClass s k' := rfl
@[simp] theorem fn_of_setDev (s : State) (n : Nat) (x : Device) (k' : Nat) : fn (setDev s n x) k' = fn s k' := rfl
@[simp] theorem eng_of_setDev (s : State) (n : Nat) (x : Device) (k' : Nat) : eng (setDev s n x) k' = eng s k' := rfl
@[simp] theorem item_of_setDev (s : State) (n : Nat) (x : Device) (k' : Nat) : item? (setDev s n x) k' = item? s k' := rfl
@[simp] theorem box_of_setDev (s : State) (n : Nat) (x : Device) (k' : Nat) : box (setDev s n x) k' = box s k' := rfl
@[simp] theorem source_of_setDev (s : State) (n : Nat) (x : Device) (k' : Nat) : source (setDev s n x) k' = source s k' := rfl
@[simp] theorem target_of_setDev (s : State) (n : Nat) (x : Device) (k' : Nat) : target (setDev s n x) k' = target s k' := rfl
@[simp] theorem pstate_of_setDev (s : State) (n : Nat) (x : Device) (k' : Nat) : pstate (setDev s n x) k' = pstate s k' := rfl
@[simp] theorem chan_of_setDev (s : State) (n : Nat) (x : Device) (k' : Nat) : chan (setDev s n x) k' = chan s k' := rfl
@[simp] theorem page_of_setDev (s : State) (n : Nat) (x : Device) (k' : Nat) : page (setDev s n x) k' = page s k' := rfl
@[simp] theorem cmpUnit_of_setDev (s : State) (n : Nat) (x : Device) (k' : Nat) : cmpUnit (setDev s n x) k' = cmpUnit s k' := rfl
@[simp] theorem axis_of_setDev (s : State) (n : Nat) (x : Device) (k' : Nat) : axis (setDev s n x) k' = axis s k' := rfl
@[simp] theorem slot_of_setDev (s : State) (n : Nat) (x : Device) (k' : Nat) : slot (setDev s n x) k' = slot s k' := rfl
@[simp] theorem die_of_setDev (s : State) (n : Nat) (x : Device) (k' : Nat) : die (setDev s n x) k' = die s k' := rfl
@[simp] theorem errClass_of_setDev (s : State) (n : Nat) (x : Device) (k' : Nat) : errClass (setDev s n x) k' = errClass s k' := rfl
@[simp] theorem fn_of_modHandle (n : Nat) (g : Handle → Handle) (s : State) (k' : Nat) : fn (modHandle n g s) k' = fn s k' := rfl
@[simp] theorem eng_of_modHandle (n : Nat) (g : Handle → Handle) (s : State) (k' : Nat) : eng (modHandle n g s) k' = eng s k' := rfl
@[simp] theorem item_of_modHandle (n : Nat) (g : Handle → Handle) (s : State) (k' : Nat) : item? (modHandle n g s) k' = item? s k' := rfl
@[simp] theorem box_of_modHandle (n : Nat) (g : Handle → Handle) (s : State) (k' : Nat) : box (modHandle n g s) k' = box s k' := rfl
@[simp] theorem source_of_modHandle (n : Nat) (g : Handle → Handle) (s : State) (k' : Nat) : source (modHandle n g s) k' = source s k' := rfl
@[simp] theorem target_of_modHandle (n : Nat) (g : Handle → Handle) (s : State) (k' : Nat) : target (modHandle n g s) k' = target s k' := rfl
@[simp] theorem pstate_of_modHandle (n : Nat) (g : Handle → Handle) (s : State) (k' : Nat) : pstate (modHandle n g s) k' = pstate s k' := rfl
@[simp] theorem chan_of_modHandle (n : Nat) (g : Handle → Handle) (s : State) (k' : Nat) : chan (modHandle n g s) k' = chan s k' := rfl
@[simp] theorem page_of_modHandle (n : Nat) (g : Handle → Handle) (s : State) (k' : Nat) : page (modHandle n g s) k' = page s k' := rfl
@[simp] theorem cmpUnit_of_modHandle (n : Nat) (g : Handle → Handle) (s : State) (k' : Nat) : cmpUnit (modHandle n g s) k' = cmpUnit s k' := rfl
@[simp] theorem axis_of_modHandle (n : Nat) (g : Handle → Handle) (s : State) (k' : Nat) : axis (modHandle n g s) k' = axis s k' := rfl
@[simp] theorem slot_of_modHandle (n : Nat) (g : Handle → Handle) (s : State) (k' : Nat) : slot (modHandle n g s) k' = slot s k' := rfl
@[simp] theorem die_of_modHandle (n : Nat) (g : Handle → Handle) (s : State) (k' : Nat) : die (modHandle n g s) k' = die s k' := rfl
@[simp] theorem errClass_of_modHandle (n : Nat) (g : Handle → Handle) (s : State) (k' : Nat) : errClass (modHandle n g s) k' = errClass s k' := rfl
@[simp] theorem fn_of_setCtx (s : State) (k : Nat) (x : Ctx) (k' : Nat) : fn (setCtx s k x) k' = fn s k' := rfl
@[simp] theorem eng_of_setCtx (s : State) (k : Nat) (x : Ctx) (k' : Nat) : eng (setCtx s k x) k' = eng s k' := rfl
@[simp] theorem item_of_setCtx (s : State) (k : Nat) (x : Ctx) (k' : Nat) : item? (setCtx s k x) k' = item? s k' := rfl
@[simp] theorem box_of_setCtx (s : State) (k : Nat) (x : Ctx) (k' : Nat) : box (setCtx s k x) k' = box s k' := rfl
@[simp] theorem source_of_setCtx (s : State) (k : Nat) (x : Ctx) (k' : Nat) : source (setCtx s k x) k' = source s k' := rfl
@[simp] theorem target_of_setCtx (s : State) (k : Nat) (x : Ctx) (k' : Nat) : target (setCtx s k x) k' = target s k' := rfl
@[simp] theorem pstate_of_setCtx (s : State) (k : Nat) (x : Ctx) (k' : Nat) : pstate (setCtx s k x) k' = pstate s k' := rfl
@[simp] theorem chan_of_setCtx (s : State) (k : Nat) (x : Ctx) (k' : Nat) : chan (setCtx s k x) k' = chan s k' := rfl
@[simp] theorem page_of_setCtx (s : State) (k : Nat) (x : Ctx) (k' : Nat) : page (setCtx s k x) k' = page s k' := rfl
@[simp] theorem cmpUnit_of_setCtx (s : State) (k : Nat) (x : Ctx) (k' : Nat) : cmpUnit (setCtx s k x) k' = cmpUnit s k' := rfl
@[simp] theorem axis_of_setCtx (s : State) (k : Nat) (x : Ctx) (k' : Nat) : axis (setCtx s k x) k' = axis s k' := rfl
@[simp] theorem slot_of_setCtx (s : State) (k : Nat) (x : Ctx) (k' : Nat) : slot (setCtx s k x) k' = slot s k' := rfl
@[simp] theorem die_of_setCtx (s : State) (k : Nat) (x : Ctx) (k' : Nat) : die (setCtx s k x) k' = die s k' := rfl
@[simp] theorem errClass_of_setCtx (s : State) (k : Nat) (x : Ctx) (k' : Nat) : errClass (setCtx s k x) k' = errClass s k' := rfl
@[simp] theorem fn_of_modBox (k : Nat) (g : MBox → MBox) (s : State) (k' : Nat) : fn (modBox k g s) k' = fn s k' := rfl
@[simp] theorem port_of_modBox (k : Nat) (g : MBox → MBox) (s : State) (k' : Nat) : port (modBox k g s) k' = port s k' := rfl
@[simp] theorem eng_of_modBox (k : Nat) (g : MBox → MBox) (s : State) (k' : Nat) : eng (modBox k g s) k' = eng s k' := rfl
@[simp] theorem item_of_modBox (k : Nat) (g : MBox → MBox) (s : State) (k' : Nat) : item? (modBox k g s) k' = item? s k' := rfl
@[simp] theorem dev_of_modBox (k : Nat) (g : MBox → MBox) (s : State) (k' : Nat) : dev? (modBox k g s) k' = dev? s k' := rfl
@[simp] theorem handle_of_modBox (k : Nat) (g : MBox → MBox) (s : State) (k' : Nat) : handle (modBox k g s) k' = handle s k' := rfl
@[simp] theorem source_of_modBox (k : Nat) (g : MBox → MBox) (s : State) (k' : Nat) : source (modBox k g s) k' = source s k' := rfl
@[simp] theorem target_of_modBox (k : Nat) (g : MBox → MBox) (s : State) (k' : Nat) : target (modBox k g s) k' = target s k' := rfl
@[simp] theorem pstate_of_modBox (k : Nat) (g : MBox → MBox) (s : State) (k' : Nat) : pstate (modBox k g s) k' = pstate s k' := rfl
@[simp] theorem chan_of_modBox (k : Nat) (g : MBox → MBox) (s : State) (k' : Nat) : chan (modBox k g s) k' = chan s k' := rfl
@[simp] theorem page_of_modBox (k : Nat) (g : MBox → MBox) (s : State) (k' : Nat) : page (modBox k g s) k' = page s k' := rfl
@[simp] theorem cmpUnit_of_modBox (k : Nat) (g : MBox → MBox) (s : State) (k' : Nat) : cmpUnit (modBox k g s) k' = cmpUnit s k' := rfl
@[simp] theorem axis_of_modBox (k : Nat) (g : MBox → MBox) (s : State) (k' : Nat) : axis (modBox k g s) k' = axis s k' := rfl
@[simp] theorem slot_of_modBox (k : Nat) (g : MBox → MBox) (s : State) (k' : Nat) : slot (modBox k g s) k' = slot s k' := rfl
@[simp] theorem die_of_modBox (k : Nat) (g : MBox → MBox) (s : State) (k' : Nat) : die (modBox k g s) k' = die s k' := rfl
@[simp] theorem errClass_of_modBox (k : Nat) (g : MBox → MBox) (s : State) (k' : Nat) : errClass (modBox k g s) k' = errClass s k' := rfl
@[simp] theorem fn_of_modSource (n : Nat) (g : Source → Source) (s : State) (k' : Nat) : fn (modSource n g s) k' = fn s k' := rfl
@[simp] theorem port_of_modSource (n : Nat) (g : Source → Source) (s : State) (k' : Nat) : port (modSource n g s) k' = port s k' := rfl
@[simp] theorem eng_of_modSource (n : Nat) (g : Source → Source) (s : State) (k' : Nat) : eng (modSource n g s) k' = eng s k' := rfl
@[simp] theorem item_of_modSource (n : Nat) (g : Source → Source) (s : State) (k' : Nat) : item? (modSource n g s) k' = item? s k' := rfl
@[simp] theorem dev_of_modSource (n : Nat) (g : Source → Source) (s : State) (k' : Nat) : dev? (modSource n g s) k' = dev? s k' := rfl
@[simp] theorem handle_of_modSource (n : Nat) (g : Source → Source) (s : State) (k' : Nat) : handle (modSource n g s) k' = handle s k' := rfl
@[simp] theorem box_of_modSource (n : Nat) (g : Source → Source) (s : State) (k' : Nat) : box (modSource n g s) k' = box s k' := rfl
@[simp] theorem pstate_of_modSource (n : Nat) (g : Source → Source) (s : State) (k' : Nat) : pstate (modSource n g s) k' = pstate s k' := rfl
@[simp] theorem chan_of_modSource (n : Nat) (g : Source → Source) (s : State) (k' : Nat) : chan (modSource n g s) k' = chan s k' := rfl
@[simp] theorem page_of_modSource (n : Nat) (g : Source → Source) (s : State) (k' : Nat) : page (modSource n g s) k' = page s k' := rfl
@[simp] theorem cmpUnit_of_modSource (n : Nat) (g : Source → Source) (s : State) (k' : Nat) : cmpUnit (modSource n g s) k' = cmpUnit s k' := rfl
@[simp] theorem axis_of_modSource (n : Nat) (g : Source → Source) (s : State) (k' : Nat) : axis (modSource n g s) k' = axis s k' := rfl
@[simp] theorem slot_of_modSource (n : Nat) (g : Source → Source) (s : State) (k' : Nat) : slot (modSource n g s) k' = slot s k' := rfl
@[simp] theorem die_of_modSource (n : Nat) (g : Source → Source) (s : State) (k' : Nat) : die (modSource n g s) k' = die s k' := rfl
@[simp] theorem errClass_of_modSource (n : Nat) (g : Source → Source) (s : State) (k' : Nat) : errClass (modSource n g s) k' = errClass s k' := rfl
@[simp] theorem fn_of_modTarget (n : Nat) (g : Target → Target) (s : State) (k' : Nat) : fn (modTarget n g s) k' = fn s k' := rfl
@[simp] theorem port_of_modTarget (n : Nat) (g : Target → Target) (s : State) (k' : Nat) : port (modTarget n g s) k' = port s k' := rfl
@[simp] theorem eng_of_modTarget (n : Nat) (g : Target → Target) (s : State) (k' : Nat) : eng (modTarget n g s) k' = eng s k' := rfl
@[simp] theorem item_of_modTarget (n : Nat) (g : Target → Target) (s : State) (k' : Nat) : item? (modTarget n g s) k' = item? s k' := rfl
@[simp] theorem dev_of_modTarget (n : Nat) (g : Target → Target) (s : State) (k' : Nat) : dev? (modTarget n g s) k' = dev? s k' := rfl
@[simp] theorem handle_of_modTarget (n : Nat) (g : Target → Target) (s : State) (k' : Nat) : handle (modTarget n g s) k' = handle s k' := rfl
@[simp] theorem box_of_modTarget (n : Nat) (g : Target → Target) (s : State) (k' : Nat) : box (modTarget n g s) k' = box s k' := rfl
@[simp] theorem pstate_of_modTarget (n : Nat) (g : Target → Target) (s : State) (k' : Nat) : pstate (modTarget n g s) k' = pstate s k' := rfl
@[simp] theorem chan_of_modTarget (n : Nat) (g : Target → Target) (s : State) (k' : Nat) : chan (modTarget n g s) k' = chan s k' := rfl
@[simp] theorem page_of_modTarget (n : Nat) (g : Target → Target) (s : State) (k' : Nat) : page (modTarget n g s) k' = page s k' := rfl
@[simp] theorem cmpUnit_of_modTarget (n : Nat) (g : Target → Target) (s : State) (k' : Nat) : cmpUnit (modTarget n g s) k' = cmpUnit s k' := rfl
@[simp] theorem axis_of_modTarget (n : Nat) (g : Target → Target) (s : State) (k' : Nat) : axis (modTarget n g s) k' = axis s k' := rfl
@[simp] theorem slot_of_modTarget (n : Nat) (g : Target → Target) (s : State) (k' : Nat) : slot (modTarget n g s) k' = slot s k' := rfl
@[simp] theorem die_of_modTarget (n : Nat) (g : Target → Target) (s : State) (k' : Nat) : die (modTarget n g s) k' = die s k' := rfl
@[simp] theorem errClass_of_modTarget (n : Nat) (g : Target → Target) (s : State) (k' : Nat) : errClass (modTarget n g s) k' = errClass s k' := rfl
@[simp] theorem fn_of_modPstate (r : Nat) (g : PState → PState) (s : State) (k' : Nat) : fn (modPstate r g s) k' = fn s k' := rfl
@[simp] theorem port_of_modPstate (r : Nat) (g : PState → PState) (s : State) (k' : Nat) : port (modPstate r g s) k' = port s k' := rfl
@[simp] theorem eng_of_modPstate (r : Nat) (g : PState → PState) (s : State) (k' : Nat) : eng (modPstate r g s) k' = eng s k' := rfl
@[simp] theorem item_of_modPstate (r : Nat) (g : PState → PState) (s : State) (k' : Nat) : item? (modPstate r g s) k' = item? s k' := rfl
@[simp] theorem dev_of_modPstate (r : Nat) (g : PState → PState) (s : State) (k' : Nat) : dev? (modPstate r g s) k' = dev? s k' := rfl
@[simp] theorem handle_of_modPstate (r : Nat) (g : PState → PState) (s : State) (k' : Nat) : handle (modPstate r g s) k' = handle s k' := rfl
@[simp] theorem box_of_modPstate (r : Nat) (g : PState → PState) (s : State) (k' : Nat) : box (modPstate r g s) k' = box s k' := rfl
@[simp] theorem source_of_modPstate (r : Nat) (g : PState → PState) (s : State) (k' : Nat) : source (modPstate r g s) k' = source s k' := rfl
@[simp] theorem target_of_modPstate (r : Nat) (g : PState → PState) (s : State) (k' : Nat) : target (modPstate r g s) k' = target s k' := rfl
@[simp] theorem chan_of_modPstate (r : Nat) (g : PState → PState) (s : State) (k' : Nat) : chan (modPstate r g s) k' = chan s k' := rfl
@[simp] theorem page_of_modPstate (r : Nat) (g : PState → PState) (s : State) (k' : Nat) : page (modPstate r g s) k' = page s k' := rfl
@[simp] theorem cmpUnit_of_modPstate (r : Nat) (g : PState → PState) (s : State) (k' : Nat) : cmpUnit (modPstate r g s) k' = cmpUnit s k' := rfl
@[simp] theorem axis_of_modPstate (r : Nat) (g : PState → PState) (s : State) (k' : Nat) : axis (modPstate r g s) k' = axis s k' := rfl
@[simp] theorem slot_of_modPstate (r : Nat) (g : PState → PState) (s : State) (k' : Nat) : slot (modPstate r g s) k' = slot s k' := rfl
@[simp] theorem die_of_modPstate (r : Nat) (g : PState → PState) (s : State) (k' : Nat) : die (modPstate r g s) k' = die s k' := rfl
@[simp] theorem errClass_of_modPstate (r : Nat) (g : PState → PState) (s : State) (k' : Nat) : errClass (modPstate r g s) k' = errClass s k' := rfl
@[simp] theorem port_of_modSq (f q : Nat) (g : Sq → Sq) (s : State) (k' : Nat) : port (modSq f q g s) k' = port s k' := rfl
@[simp] theorem eng_of_modSq (f q : Nat) (g : Sq → Sq) (s : State) (k' : Nat) : eng (modSq f q g s) k' = eng s k' := rfl
@[simp] theorem item_of_modSq (f q : Nat) (g : Sq → Sq) (s : State) (k' : Nat) : item? (modSq f q g s) k' = item? s k' := rfl
@[simp] theorem dev_of_modSq (f q : Nat) (g : Sq → Sq) (s : State) (k' : Nat) : dev? (modSq f q g s) k' = dev? s k' := rfl
@[simp] theorem handle_of_modSq (f q : Nat) (g : Sq → Sq) (s : State) (k' : Nat) : handle (modSq f q g s) k' = handle s k' := rfl
@[simp] theorem box_of_modSq (f q : Nat) (g : Sq → Sq) (s : State) (k' : Nat) : box (modSq f q g s) k' = box s k' := rfl
@[simp] theorem source_of_modSq (f q : Nat) (g : Sq → Sq) (s : State) (k' : Nat) : source (modSq f q g s) k' = source s k' := rfl
@[simp] theorem target_of_modSq (f q : Nat) (g : Sq → Sq) (s : State) (k' : Nat) : target (modSq f q g s) k' = target s k' := rfl
@[simp] theorem pstate_of_modSq (f q : Nat) (g : Sq → Sq) (s : State) (k' : Nat) : pstate (modSq f q g s) k' = pstate s k' := rfl
@[simp] theorem chan_of_modSq (f q : Nat) (g : Sq → Sq) (s : State) (k' : Nat) : chan (modSq f q g s) k' = chan s k' := rfl
@[simp] theorem page_of_modSq (f q : Nat) (g : Sq → Sq) (s : State) (k' : Nat) : page (modSq f q g s) k' = page s k' := rfl
@[simp] theorem cmpUnit_of_modSq (f q : Nat) (g : Sq → Sq) (s : State) (k' : Nat) : cmpUnit (modSq f q g s) k' = cmpUnit s k' := rfl
@[simp] theorem axis_of_modSq (f q : Nat) (g : Sq → Sq) (s : State) (k' : Nat) : axis (modSq f q g s) k' = axis s k' := rfl
@[simp] theorem slot_of_modSq (f q : Nat) (g : Sq → Sq) (s : State) (k' : Nat) : slot (modSq f q g s) k' = slot s k' := rfl
@[simp] theorem die_of_modSq (f q : Nat) (g : Sq → Sq) (s : State) (k' : Nat) : die (modSq f q g s) k' = die s k' := rfl
@[simp] theorem errClass_of_modSq (f q : Nat) (g : Sq → Sq) (s : State) (k' : Nat) : errClass (modSq f q g s) k' = errClass s k' := rfl
@[simp] theorem port_of_modCr (f r : Nat) (g : Cr → Cr) (s : State) (k' : Nat) : port (modCr f r g s) k' = port s k' := rfl
@[simp] theorem eng_of_modCr (f r : Nat) (g : Cr → Cr) (s : State) (k' : Nat) : eng (modCr f r g s) k' = eng s k' := rfl
@[simp] theorem item_of_modCr (f r : Nat) (g : Cr → Cr) (s : State) (k' : Nat) : item? (modCr f r g s) k' = item? s k' := rfl
@[simp] theorem dev_of_modCr (f r : Nat) (g : Cr → Cr) (s : State) (k' : Nat) : dev? (modCr f r g s) k' = dev? s k' := rfl
@[simp] theorem handle_of_modCr (f r : Nat) (g : Cr → Cr) (s : State) (k' : Nat) : handle (modCr f r g s) k' = handle s k' := rfl
@[simp] theorem box_of_modCr (f r : Nat) (g : Cr → Cr) (s : State) (k' : Nat) : box (modCr f r g s) k' = box s k' := rfl
@[simp] theorem source_of_modCr (f r : Nat) (g : Cr → Cr) (s : State) (k' : Nat) : source (modCr f r g s) k' = source s k' := rfl
@[simp] theorem target_of_modCr (f r : Nat) (g : Cr → Cr) (s : State) (k' : Nat) : target (modCr f r g s) k' = target s k' := rfl
@[simp] theorem pstate_of_modCr (f r : Nat) (g : Cr → Cr) (s : State) (k' : Nat) : pstate (modCr f r g s) k' = pstate s k' := rfl
@[simp] theorem chan_of_modCr (f r : Nat) (g : Cr → Cr) (s : State) (k' : Nat) : chan (modCr f r g s) k' = chan s k' := rfl
@[simp] theorem page_of_modCr (f r : Nat) (g : Cr → Cr) (s : State) (k' : Nat) : page (modCr f r g s) k' = page s k' := rfl
@[simp] theorem cmpUnit_of_modCr (f r : Nat) (g : Cr → Cr) (s : State) (k' : Nat) : cmpUnit (modCr f r g s) k' = cmpUnit s k' := rfl
@[simp] theorem axis_of_modCr (f r : Nat) (g : Cr → Cr) (s : State) (k' : Nat) : axis (modCr f r g s) k' = axis s k' := rfl
@[simp] theorem slot_of_modCr (f r : Nat) (g : Cr → Cr) (s : State) (k' : Nat) : slot (modCr f r g s) k' = slot s k' := rfl
@[simp] theorem die_of_modCr (f r : Nat) (g : Cr → Cr) (s : State) (k' : Nat) : die (modCr f r g s) k' = die s k' := rfl
@[simp] theorem errClass_of_modCr (f r : Nat) (g : Cr → Cr) (s : State) (k' : Nat) : errClass (modCr f r g s) k' = errClass s k' := rfl
@[simp] theorem port_of_modVec (f v : Nat) (g : Vec → Vec) (s : State) (k' : Nat) : port (modVec f v g s) k' = port s k' := rfl
@[simp] theorem eng_of_modVec (f v : Nat) (g : Vec → Vec) (s : State) (k' : Nat) : eng (modVec f v g s) k' = eng s k' := rfl
@[simp] theorem item_of_modVec (f v : Nat) (g : Vec → Vec) (s : State) (k' : Nat) : item? (modVec f v g s) k' = item? s k' := rfl
@[simp] theorem dev_of_modVec (f v : Nat) (g : Vec → Vec) (s : State) (k' : Nat) : dev? (modVec f v g s) k' = dev? s k' := rfl
@[simp] theorem handle_of_modVec (f v : Nat) (g : Vec → Vec) (s : State) (k' : Nat) : handle (modVec f v g s) k' = handle s k' := rfl
@[simp] theorem box_of_modVec (f v : Nat) (g : Vec → Vec) (s : State) (k' : Nat) : box (modVec f v g s) k' = box s k' := rfl
@[simp] theorem source_of_modVec (f v : Nat) (g : Vec → Vec) (s : State) (k' : Nat) : source (modVec f v g s) k' = source s k' := rfl
@[simp] theorem target_of_modVec (f v : Nat) (g : Vec → Vec) (s : State) (k' : Nat) : target (modVec f v g s) k' = target s k' := rfl
@[simp] theorem pstate_of_modVec (f v : Nat) (g : Vec → Vec) (s : State) (k' : Nat) : pstate (modVec f v g s) k' = pstate s k' := rfl
@[simp] theorem chan_of_modVec (f v : Nat) (g : Vec → Vec) (s : State) (k' : Nat) : chan (modVec f v g s) k' = chan s k' := rfl
@[simp] theorem page_of_modVec (f v : Nat) (g : Vec → Vec) (s : State) (k' : Nat) : page (modVec f v g s) k' = page s k' := rfl
@[simp] theorem cmpUnit_of_modVec (f v : Nat) (g : Vec → Vec) (s : State) (k' : Nat) : cmpUnit (modVec f v g s) k' = cmpUnit s k' := rfl
@[simp] theorem axis_of_modVec (f v : Nat) (g : Vec → Vec) (s : State) (k' : Nat) : axis (modVec f v g s) k' = axis s k' := rfl
@[simp] theorem slot_of_modVec (f v : Nat) (g : Vec → Vec) (s : State) (k' : Nat) : slot (modVec f v g s) k' = slot s k' := rfl
@[simp] theorem die_of_modVec (f v : Nat) (g : Vec → Vec) (s : State) (k' : Nat) : die (modVec f v g s) k' = die s k' := rfl
@[simp] theorem errClass_of_modVec (f v : Nat) (g : Vec → Vec) (s : State) (k' : Nat) : errClass (modVec f v g s) k' = errClass s k' := rfl
@[simp] theorem fn_of_modChan (c : Nat) (g : ChCtx → ChCtx) (s : State) (k' : Nat) : fn (modChan c g s) k' = fn s k' := rfl
@[simp] theorem port_of_modChan (c : Nat) (g : ChCtx → ChCtx) (s : State) (k' : Nat) : port (modChan c g s) k' = port s k' := rfl
@[simp] theorem eng_of_modChan (c : Nat) (g : ChCtx → ChCtx) (s : State) (k' : Nat) : eng (modChan c g s) k' = eng s k' := rfl
@[simp] theorem item_of_modChan (c : Nat) (g : ChCtx → ChCtx) (s : State) (k' : Nat) : item? (modChan c g s) k' = item? s k' := rfl
@[simp] theorem dev_of_modChan (c : Nat) (g : ChCtx → ChCtx) (s : State) (k' : Nat) : dev? (modChan c g s) k' = dev? s k' := rfl
@[simp] theorem handle_of_modChan (c : Nat) (g : ChCtx → ChCtx) (s : State) (k' : Nat) : handle (modChan c g s) k' = handle s k' := rfl
@[simp] theorem box_of_modChan (c : Nat) (g : ChCtx → ChCtx) (s : State) (k' : Nat) : box (modChan c g s) k' = box s k' := rfl
@[simp] theorem source_of_modChan (c : Nat) (g : ChCtx → ChCtx) (s : State) (k' : Nat) : source (modChan c g s) k' = source s k' := rfl
@[simp] theorem target_of_modChan (c : Nat) (g : ChCtx → ChCtx) (s : State) (k' : Nat) : target (modChan c g s) k' = target s k' := rfl
@[simp] theorem pstate_of_modChan (c : Nat) (g : ChCtx → ChCtx) (s : State) (k' : Nat) : pstate (modChan c g s) k' = pstate s k' := rfl
@[simp] theorem cmpUnit_of_modChan (c : Nat) (g : ChCtx → ChCtx) (s : State) (k' : Nat) : cmpUnit (modChan c g s) k' = cmpUnit s k' := rfl
@[simp] theorem axis_of_modChan (c : Nat) (g : ChCtx → ChCtx) (s : State) (k' : Nat) : axis (modChan c g s) k' = axis s k' := rfl
@[simp] theorem slot_of_modChan (c : Nat) (g : ChCtx → ChCtx) (s : State) (k' : Nat) : slot (modChan c g s) k' = slot s k' := rfl
@[simp] theorem die_of_modChan (c : Nat) (g : ChCtx → ChCtx) (s : State) (k' : Nat) : die (modChan c g s) k' = die s k' := rfl
@[simp] theorem errClass_of_modChan (c : Nat) (g : ChCtx → ChCtx) (s : State) (k' : Nat) : errClass (modChan c g s) k' = errClass s k' := rfl
@[simp] theorem fn_of_setPage (p : Nat) (x : Page) (s : State) (k' : Nat) : fn (setPage p x s) k' = fn s k' := rfl
@[simp] theorem port_of_setPage (p : Nat) (x : Page) (s : State) (k' : Nat) : port (setPage p x s) k' = port s k' := rfl
@[simp] theorem eng_of_setPage (p : Nat) (x : Page) (s : State) (k' : Nat) : eng (setPage p x s) k' = eng s k' := rfl
@[simp] theorem item_of_setPage (p : Nat) (x : Page) (s : State) (k' : Nat) : item? (setPage p x s) k' = item? s k' := rfl
@[simp] theorem dev_of_setPage (p : Nat) (x : Page) (s : State) (k' : Nat) : dev? (setPage p x s) k' = dev? s k' := rfl
@[simp] theorem handle_of_setPage (p : Nat) (x : Page) (s : State) (k' : Nat) : handle (setPage p x s) k' = handle s k' := rfl
@[simp] theorem box_of_setPage (p : Nat) (x : Page) (s : State) (k' : Nat) : box (setPage p x s) k' = box s k' := rfl
@[simp] theorem source_of_setPage (p : Nat) (x : Page) (s : State) (k' : Nat) : source (setPage p x s) k' = source s k' := rfl
@[simp] theorem target_of_setPage (p : Nat) (x : Page) (s : State) (k' : Nat) : target (setPage p x s) k' = target s k' := rfl
@[simp] theorem pstate_of_setPage (p : Nat) (x : Page) (s : State) (k' : Nat) : pstate (setPage p x s) k' = pstate s k' := rfl
@[simp] theorem cmpUnit_of_setPage (p : Nat) (x : Page) (s : State) (k' : Nat) : cmpUnit (setPage p x s) k' = cmpUnit s k' := rfl
@[simp] theorem axis_of_setPage (p : Nat) (x : Page) (s : State) (k' : Nat) : axis (setPage p x s) k' = axis s k' := rfl
@[simp] theorem slot_of_setPage (p : Nat) (x : Page) (s : State) (k' : Nat) : slot (setPage p x s) k' = slot s k' := rfl
@[simp] theorem die_of_setPage (p : Nat) (x : Page) (s : State) (k' : Nat) : die (setPage p x s) k' = die s k' := rfl
@[simp] theorem errClass_of_setPage (p : Nat) (x : Page) (s : State) (k' : Nat) : errClass (setPage p x s) k' = errClass s k' := rfl
@[simp] theorem fn_of_modUnit (c : Nat) (g : CmpUnit → CmpUnit) (s : State) (k' : Nat) : fn (modUnit c g s) k' = fn s k' := rfl
@[simp] theorem port_of_modUnit (c : Nat) (g : CmpUnit → CmpUnit) (s : State) (k' : Nat) : port (modUnit c g s) k' = port s k' := rfl
@[simp] theorem eng_of_modUnit (c : Nat) (g : CmpUnit → CmpUnit) (s : State) (k' : Nat) : eng (modUnit c g s) k' = eng s k' := rfl
@[simp] theorem item_of_modUnit (c : Nat) (g : CmpUnit → CmpUnit) (s : State) (k' : Nat) : item? (modUnit c g s) k' = item? s k' := rfl
@[simp] theorem dev_of_modUnit (c : Nat) (g : CmpUnit → CmpUnit) (s : State) (k' : Nat) : dev? (modUnit c g s) k' = dev? s k' := rfl
@[simp] theorem handle_of_modUnit (c : Nat) (g : CmpUnit → CmpUnit) (s : State) (k' : Nat) : handle (modUnit c g s) k' = handle s k' := rfl
@[simp] theorem box_of_modUnit (c : Nat) (g : CmpUnit → CmpUnit) (s : State) (k' : Nat) : box (modUnit c g s) k' = box s k' := rfl
@[simp] theorem source_of_modUnit (c : Nat) (g : CmpUnit → CmpUnit) (s : State) (k' : Nat) : source (modUnit c g s) k' = source s k' := rfl
@[simp] theorem target_of_modUnit (c : Nat) (g : CmpUnit → CmpUnit) (s : State) (k' : Nat) : target (modUnit c g s) k' = target s k' := rfl
@[simp] theorem pstate_of_modUnit (c : Nat) (g : CmpUnit → CmpUnit) (s : State) (k' : Nat) : pstate (modUnit c g s) k' = pstate s k' := rfl
@[simp] theorem chan_of_modUnit (c : Nat) (g : CmpUnit → CmpUnit) (s : State) (k' : Nat) : chan (modUnit c g s) k' = chan s k' := rfl
@[simp] theorem page_of_modUnit (c : Nat) (g : CmpUnit → CmpUnit) (s : State) (k' : Nat) : page (modUnit c g s) k' = page s k' := rfl
@[simp] theorem slot_of_modUnit (c : Nat) (g : CmpUnit → CmpUnit) (s : State) (k' : Nat) : slot (modUnit c g s) k' = slot s k' := rfl
@[simp] theorem die_of_modUnit (c : Nat) (g : CmpUnit → CmpUnit) (s : State) (k' : Nat) : die (modUnit c g s) k' = die s k' := rfl
@[simp] theorem errClass_of_modUnit (c : Nat) (g : CmpUnit → CmpUnit) (s : State) (k' : Nat) : errClass (modUnit c g s) k' = errClass s k' := rfl
@[simp] theorem fn_of_modAxis (i : Nat) (g : Axis → Axis) (s : State) (k' : Nat) : fn (modAxis i g s) k' = fn s k' := rfl
@[simp] theorem port_of_modAxis (i : Nat) (g : Axis → Axis) (s : State) (k' : Nat) : port (modAxis i g s) k' = port s k' := rfl
@[simp] theorem eng_of_modAxis (i : Nat) (g : Axis → Axis) (s : State) (k' : Nat) : eng (modAxis i g s) k' = eng s k' := rfl
@[simp] theorem item_of_modAxis (i : Nat) (g : Axis → Axis) (s : State) (k' : Nat) : item? (modAxis i g s) k' = item? s k' := rfl
@[simp] theorem dev_of_modAxis (i : Nat) (g : Axis → Axis) (s : State) (k' : Nat) : dev? (modAxis i g s) k' = dev? s k' := rfl
@[simp] theorem handle_of_modAxis (i : Nat) (g : Axis → Axis) (s : State) (k' : Nat) : handle (modAxis i g s) k' = handle s k' := rfl
@[simp] theorem box_of_modAxis (i : Nat) (g : Axis → Axis) (s : State) (k' : Nat) : box (modAxis i g s) k' = box s k' := rfl
@[simp] theorem source_of_modAxis (i : Nat) (g : Axis → Axis) (s : State) (k' : Nat) : source (modAxis i g s) k' = source s k' := rfl
@[simp] theorem target_of_modAxis (i : Nat) (g : Axis → Axis) (s : State) (k' : Nat) : target (modAxis i g s) k' = target s k' := rfl
@[simp] theorem pstate_of_modAxis (i : Nat) (g : Axis → Axis) (s : State) (k' : Nat) : pstate (modAxis i g s) k' = pstate s k' := rfl
@[simp] theorem chan_of_modAxis (i : Nat) (g : Axis → Axis) (s : State) (k' : Nat) : chan (modAxis i g s) k' = chan s k' := rfl
@[simp] theorem page_of_modAxis (i : Nat) (g : Axis → Axis) (s : State) (k' : Nat) : page (modAxis i g s) k' = page s k' := rfl
@[simp] theorem slot_of_modAxis (i : Nat) (g : Axis → Axis) (s : State) (k' : Nat) : slot (modAxis i g s) k' = slot s k' := rfl
@[simp] theorem die_of_modAxis (i : Nat) (g : Axis → Axis) (s : State) (k' : Nat) : die (modAxis i g s) k' = die s k' := rfl
@[simp] theorem errClass_of_modAxis (i : Nat) (g : Axis → Axis) (s : State) (k' : Nat) : errClass (modAxis i g s) k' = errClass s k' := rfl
@[simp] theorem fn_of_modSlot (n : Nat) (g : CardSlot → CardSlot) (s : State) (k' : Nat) : fn (modSlot n g s) k' = fn s k' := rfl
@[simp] theorem port_of_modSlot (n : Nat) (g : CardSlot → CardSlot) (s : State) (k' : Nat) : port (modSlot n g s) k' = port s k' := rfl
@[simp] theorem eng_of_modSlot (n : Nat) (g : CardSlot → CardSlot) (s : State) (k' : Nat) : eng (modSlot n g s) k' = eng s k' := rfl
@[simp] theorem item_of_modSlot (n : Nat) (g : CardSlot → CardSlot) (s : State) (k' : Nat) : item? (modSlot n g s) k' = item? s k' := rfl
@[simp] theorem dev_of_modSlot (n : Nat) (g : CardSlot → CardSlot) (s : State) (k' : Nat) : dev? (modSlot n g s) k' = dev? s k' := rfl
@[simp] theorem handle_of_modSlot (n : Nat) (g : CardSlot → CardSlot) (s : State) (k' : Nat) : handle (modSlot n g s) k' = handle s k' := rfl
@[simp] theorem box_of_modSlot (n : Nat) (g : CardSlot → CardSlot) (s : State) (k' : Nat) : box (modSlot n g s) k' = box s k' := rfl
@[simp] theorem source_of_modSlot (n : Nat) (g : CardSlot → CardSlot) (s : State) (k' : Nat) : source (modSlot n g s) k' = source s k' := rfl
@[simp] theorem target_of_modSlot (n : Nat) (g : CardSlot → CardSlot) (s : State) (k' : Nat) : target (modSlot n g s) k' = target s k' := rfl
@[simp] theorem pstate_of_modSlot (n : Nat) (g : CardSlot → CardSlot) (s : State) (k' : Nat) : pstate (modSlot n g s) k' = pstate s k' := rfl
@[simp] theorem chan_of_modSlot (n : Nat) (g : CardSlot → CardSlot) (s : State) (k' : Nat) : chan (modSlot n g s) k' = chan s k' := rfl
@[simp] theorem page_of_modSlot (n : Nat) (g : CardSlot → CardSlot) (s : State) (k' : Nat) : page (modSlot n g s) k' = page s k' := rfl
@[simp] theorem cmpUnit_of_modSlot (n : Nat) (g : CardSlot → CardSlot) (s : State) (k' : Nat) : cmpUnit (modSlot n g s) k' = cmpUnit s k' := rfl
@[simp] theorem axis_of_modSlot (n : Nat) (g : CardSlot → CardSlot) (s : State) (k' : Nat) : axis (modSlot n g s) k' = axis s k' := rfl
@[simp] theorem errClass_of_modSlot (n : Nat) (g : CardSlot → CardSlot) (s : State) (k' : Nat) : errClass (modSlot n g s) k' = errClass s k' := rfl
@[simp] theorem fn_of_modDie (n : Nat) (g : Die → Die) (s : State) (k' : Nat) : fn (modDie n g s) k' = fn s k' := rfl
@[simp] theorem port_of_modDie (n : Nat) (g : Die → Die) (s : State) (k' : Nat) : port (modDie n g s) k' = port s k' := rfl
@[simp] theorem eng_of_modDie (n : Nat) (g : Die → Die) (s : State) (k' : Nat) : eng (modDie n g s) k' = eng s k' := rfl
@[simp] theorem item_of_modDie (n : Nat) (g : Die → Die) (s : State) (k' : Nat) : item? (modDie n g s) k' = item? s k' := rfl
@[simp] theorem dev_of_modDie (n : Nat) (g : Die → Die) (s : State) (k' : Nat) : dev? (modDie n g s) k' = dev? s k' := rfl
@[simp] theorem handle_of_modDie (n : Nat) (g : Die → Die) (s : State) (k' : Nat) : handle (modDie n g s) k' = handle s k' := rfl
@[simp] theorem box_of_modDie (n : Nat) (g : Die → Die) (s : State) (k' : Nat) : box (modDie n g s) k' = box s k' := rfl
@[simp] theorem source_of_modDie (n : Nat) (g : Die → Die) (s : State) (k' : Nat) : source (modDie n g s) k' = source s k' := rfl
@[simp] theorem target_of_modDie (n : Nat) (g : Die → Die) (s : State) (k' : Nat) : target (modDie n g s) k' = target s k' := rfl
@[simp] theorem pstate_of_modDie (n : Nat) (g : Die → Die) (s : State) (k' : Nat) : pstate (modDie n g s) k' = pstate s k' := rfl
@[simp] theorem chan_of_modDie (n : Nat) (g : Die → Die) (s : State) (k' : Nat) : chan (modDie n g s) k' = chan s k' := rfl
@[simp] theorem page_of_modDie (n : Nat) (g : Die → Die) (s : State) (k' : Nat) : page (modDie n g s) k' = page s k' := rfl
@[simp] theorem cmpUnit_of_modDie (n : Nat) (g : Die → Die) (s : State) (k' : Nat) : cmpUnit (modDie n g s) k' = cmpUnit s k' := rfl
@[simp] theorem axis_of_modDie (n : Nat) (g : Die → Die) (s : State) (k' : Nat) : axis (modDie n g s) k' = axis s k' := rfl
@[simp] theorem errClass_of_modDie (n : Nat) (g : Die → Die) (s : State) (k' : Nat) : errClass (modDie n g s) k' = errClass s k' := rfl
@[simp] theorem fn_of_modErr (c : Nat) (g : ErrClass → ErrClass) (s : State) (k' : Nat) : fn (modErr c g s) k' = fn s k' := rfl
@[simp] theorem port_of_modErr (c : Nat) (g : ErrClass → ErrClass) (s : State) (k' : Nat) : port (modErr c g s) k' = port s k' := rfl
@[simp] theorem eng_of_modErr (c : Nat) (g : ErrClass → ErrClass) (s : State) (k' : Nat) : eng (modErr c g s) k' = eng s k' := rfl
@[simp] theorem item_of_modErr (c : Nat) (g : ErrClass → ErrClass) (s : State) (k' : Nat) : item? (modErr c g s) k' = item? s k' := rfl
@[simp] theorem dev_of_modErr (c : Nat) (g : ErrClass → ErrClass) (s : State) (k' : Nat) : dev? (modErr c g s) k' = dev? s k' := rfl
@[simp] theorem handle_of_modErr (c : Nat) (g : ErrClass → ErrClass) (s : State) (k' : Nat) : handle (modErr c g s) k' = handle s k' := rfl
@[simp] theorem box_of_modErr (c : Nat) (g : ErrClass → ErrClass) (s : State) (k' : Nat) : box (modErr c g s) k' = box s k' := rfl
@[simp] theorem source_of_modErr (c : Nat) (g : ErrClass → ErrClass) (s : State) (k' : Nat) : source (modErr c g s) k' = source s k' := rfl
@[simp] theorem target_of_modErr (c : Nat) (g : ErrClass → ErrClass) (s : State) (k' : Nat) : target (modErr c g s) k' = target s k' := rfl
@[simp] theorem pstate_of_modErr (c : Nat) (g : ErrClass → ErrClass) (s : State) (k' : Nat) : pstate (modErr c g s) k' = pstate s k' := rfl
@[simp] theorem chan_of_modErr (c : Nat) (g : ErrClass → ErrClass) (s : State) (k' : Nat) : chan (modErr c g s) k' = chan s k' := rfl
@[simp] theorem page_of_modErr (c : Nat) (g : ErrClass → ErrClass) (s : State) (k' : Nat) : page (modErr c g s) k' = page s k' := rfl
@[simp] theorem cmpUnit_of_modErr (c : Nat) (g : ErrClass → ErrClass) (s : State) (k' : Nat) : cmpUnit (modErr c g s) k' = cmpUnit s k' := rfl
@[simp] theorem axis_of_modErr (c : Nat) (g : ErrClass → ErrClass) (s : State) (k' : Nat) : axis (modErr c g s) k' = axis s k' := rfl
@[simp] theorem slot_of_modErr (c : Nat) (g : ErrClass → ErrClass) (s : State) (k' : Nat) : slot (modErr c g s) k' = slot s k' := rfl
@[simp] theorem die_of_modErr (c : Nat) (g : ErrClass → ErrClass) (s : State) (k' : Nat) : die (modErr c g s) k' = die s k' := rfl
@[simp] theorem fn_of_modCtl (n : Nat) (g : PctlPort → PctlPort) (s : State) (k' : Nat) : fn (modCtl n g s) k' = fn s k' := rfl
@[simp] theorem port_of_modCtl (n : Nat) (g : PctlPort → PctlPort) (s : State) (k' : Nat) : port (modCtl n g s) k' = port s k' := rfl
@[simp] theorem eng_of_modCtl (n : Nat) (g : PctlPort → PctlPort) (s : State) (k' : Nat) : eng (modCtl n g s) k' = eng s k' := rfl
@[simp] theorem item_of_modCtl (n : Nat) (g : PctlPort → PctlPort) (s : State) (k' : Nat) : item? (modCtl n g s) k' = item? s k' := rfl
@[simp] theorem dev_of_modCtl (n : Nat) (g : PctlPort → PctlPort) (s : State) (k' : Nat) : dev? (modCtl n g s) k' = dev? s k' := rfl
@[simp] theorem handle_of_modCtl (n : Nat) (g : PctlPort → PctlPort) (s : State) (k' : Nat) : handle (modCtl n g s) k' = handle s k' := rfl
@[simp] theorem box_of_modCtl (n : Nat) (g : PctlPort → PctlPort) (s : State) (k' : Nat) : box (modCtl n g s) k' = box s k' := rfl
@[simp] theorem source_of_modCtl (n : Nat) (g : PctlPort → PctlPort) (s : State) (k' : Nat) : source (modCtl n g s) k' = source s k' := rfl
@[simp] theorem target_of_modCtl (n : Nat) (g : PctlPort → PctlPort) (s : State) (k' : Nat) : target (modCtl n g s) k' = target s k' := rfl
@[simp] theorem pstate_of_modCtl (n : Nat) (g : PctlPort → PctlPort) (s : State) (k' : Nat) : pstate (modCtl n g s) k' = pstate s k' := rfl
@[simp] theorem chan_of_modCtl (n : Nat) (g : PctlPort → PctlPort) (s : State) (k' : Nat) : chan (modCtl n g s) k' = chan s k' := rfl
@[simp] theorem page_of_modCtl (n : Nat) (g : PctlPort → PctlPort) (s : State) (k' : Nat) : page (modCtl n g s) k' = page s k' := rfl
@[simp] theorem cmpUnit_of_modCtl (n : Nat) (g : PctlPort → PctlPort) (s : State) (k' : Nat) : cmpUnit (modCtl n g s) k' = cmpUnit s k' := rfl
@[simp] theorem axis_of_modCtl (n : Nat) (g : PctlPort → PctlPort) (s : State) (k' : Nat) : axis (modCtl n g s) k' = axis s k' := rfl
@[simp] theorem slot_of_modCtl (n : Nat) (g : PctlPort → PctlPort) (s : State) (k' : Nat) : slot (modCtl n g s) k' = slot s k' := rfl
@[simp] theorem die_of_modCtl (n : Nat) (g : PctlPort → PctlPort) (s : State) (k' : Nat) : die (modCtl n g s) k' = die s k' := rfl
@[simp] theorem errClass_of_modCtl (n : Nat) (g : PctlPort → PctlPort) (s : State) (k' : Nat) : errClass (modCtl n g s) k' = errClass s k' := rfl

end Sys2Proof.Machine
end

