-- ==== Sys2Proof/Laws/Events.lean ====
section
/-! SUPPORT. What the shared operations do, said once: a guard, an event that is raised, a notice that is posted, a command
that is answered. -/

namespace Sys2Proof.Machine

/-! ### Guards -/

@[simp] theorem guarded_true (s : State) (f : State → State) : guarded true s f = .next (f s) := rfl

@[simp] theorem guarded_false (s : State) (f : State → State) : guarded false s f = .next s := rfl

theorem guarded_of {b : Bool} {s : State} {f : State → State} (h : b = true) : guarded b s f = .next (f s) := by
  subst h; rfl

/-- The outputs only grow. -/
def Grows (s t : State) : Prop := ∃ l, t.out = s.out ++ l

theorem Grows.refl (s : State) : Grows s s := ⟨[], by simp⟩

theorem Grows.trans {s t u : State} (h : Grows s t) (k : Grows t u) : Grows s u := by
  obtain ⟨a, ha⟩ := h; obtain ⟨b, hb⟩ := k; exact ⟨a ++ b, by rw [hb, ha, List.append_assoc]⟩

theorem Grows.mem {s t : State} {o : Output} (h : Grows s t) (k : o ∈ s.out) : o ∈ t.out := by
  obtain ⟨a, ha⟩ := h; rw [ha]; exact List.mem_append_left _ k

theorem emit_grows (o : Output) (s : State) : Grows s (emit o s) := ⟨[o], rfl⟩

@[simp] theorem emit_out (o : Output) (s : State) : (emit o s).out = s.out ++ [o] := rfl

theorem each_grows {α : Type} (l : List α) (f : α → State → State) (s : State) (hf : ∀ x t, Grows t (f x t)) :
    Grows s (each l f s) := by
  unfold each
  induction l generalizing s with
  | nil => exact Grows.refl s
  | cons x r ih => exact (hf x s).trans (ih (f x s))

/-! ### Vectors -/

theorem msixDue_grows (f v : Nat) (s : State) : Grows s (msixDue f v s) := by
  unfold msixDue; dsimp only; split
  · exact ⟨[_], rfl⟩
  · exact Grows.refl s

theorem countEvent_grows (f v : Nat) (s : State) : Grows s (countEvent f v s) := by
  unfold countEvent; dsimp only; split
  · exact Grows.refl s
  · split
    · exact msixDue_grows f v s
    · exact Grows.refl s

theorem sameFuncs_refl (s : State) : SameFuncs s s := fun _ => rfl

theorem SameFuncs.trans {s t u : State} (h : SameFuncs s t) (k : SameFuncs t u) : SameFuncs s u :=
  fun f => (k f).trans (h f)

theorem modVec_sameFuncs (f v : Nat) (g : Vec → Vec) (s : State) : SameFuncs s (modVec f v g s) := by
  intro k; unfold modVec; rw [fn_modFn]; split
  · next h => subst h; rfl
  · rfl

theorem emit_sameFuncs (o : Output) (s : State) : SameFuncs s (emit o s) := fun _ => rfl

theorem msixDue_sameFuncs (f v : Nat) (s : State) : SameFuncs s (msixDue f v s) := by
  unfold msixDue; dsimp only; split
  · exact (modVec_sameFuncs f v _ s).trans (emit_sameFuncs _ _)
  · exact (modVec_sameFuncs f v _ s).trans (modVec_sameFuncs f v _ _)

/-- An event that counts changes nothing of a function but its vectors. -/
theorem countEvent_sameFuncs (f v : Nat) (s : State) : SameFuncs s (countEvent f v s) := by
  unfold countEvent; dsimp only; split
  · exact sameFuncs_refl s
  · split
    · exact msixDue_sameFuncs f v s
    · exact modVec_sameFuncs _ _ _ s

theorem countEvent_eic (f v : Nat) (s : State) : (countEvent f v s).eic = s.eic :=
  countEvent_keeps (bl := .eic) f v (Keeps.refl .eic s) (by decide)

theorem countEvent_mail (f v : Nat) (s : State) : (countEvent f v s).mail = s.mail :=
  countEvent_keeps (bl := .mail) f v (Keeps.refl .mail s) (by decide)

theorem each_sameFuncs {α : Type} (l : List α) (f : α → State → State) (s : State) (hf : ∀ x t, SameFuncs t (f x t)) :
    SameFuncs s (each l f s) := by
  unfold each
  induction l generalizing s with
  | nil => exact sameFuncs_refl s
  | cons x r ih => exact (hf x s).trans (ih (f x s))

/-! ### Events -/

theorem hostRise_evt (x : Nat) (s : State) : (hostRise x s).eic = s.eic := by
  unfold hostRise; split
  · exact countEvent_eic _ _ s
  · rfl

theorem wakeTarget_evt (x : Nat) (s : State) : (wakeTarget x s).eic.evt = s.eic.evt := by
  unfold wakeTarget; split
  · split
    · split <;> rfl
    · rfl
  · rfl

theorem wakeTarget_fns (x : Nat) (s : State) : (wakeTarget x s).fns = s.fns :=
  wakeTarget_keeps (bl := .fns) x (Keeps.refl .fns s) (by decide)

theorem wakeTarget_out (x : Nat) (s : State) : (wakeTarget x s).out = s.out :=
  wakeTarget_keeps (bl := .out) x (Keeps.refl .out s) (by decide)

theorem each_evt (l : List Nat) (f : Nat → State → State) (s : State) (hf : ∀ x t, (f x t).eic.evt = t.eic.evt) :
    (each l f s).eic.evt = s.eic.evt := by
  unfold each
  induction l generalizing s with
  | nil => rfl
  | cons x r ih => exact (ih (f x s)).trans (hf x s)

/-- Serving the rises changes no event register. -/
theorem withRises_evt (xs : List Nat) (f : State → State) (s : State) :
    (withRises xs f s).eic.evt = (f s).eic.evt := by
  unfold withRises; dsimp only
  rw [each_evt _ _ _ wakeTarget_evt, each_evt _ _ _ (fun x t => by rw [hostRise_evt])]

theorem hostRise_sameFuncs (x : Nat) (s : State) : SameFuncs s (hostRise x s) := by
  unfold hostRise; split
  · exact countEvent_sameFuncs _ _ s
  · exact sameFuncs_refl s

theorem withRises_sameFuncs (xs : List Nat) (f : State → State) (s : State) (hf : SameFuncs s (f s)) :
    SameFuncs s (withRises xs f s) := by
  unfold withRises; dsimp only
  refine (hf.trans (each_sameFuncs _ _ _ hostRise_sameFuncs)).trans (each_sameFuncs _ _ _ ?_)
  intro x t k; unfold fn; rw [wakeTarget_fns]

theorem hostRise_grows (x : Nat) (s : State) : Grows s (hostRise x s) := by
  unfold hostRise; split
  · exact countEvent_grows _ _ s
  · exact Grows.refl s

theorem withRises_grows (xs : List Nat) (f : State → State) (s : State) (hf : Grows s (f s)) :
    Grows s (withRises xs f s) := by
  unfold withRises; dsimp only
  refine (hf.trans (each_grows _ _ _ hostRise_grows)).trans (each_grows _ _ _ ?_)
  intro x t; exact ⟨[], by rw [wakeTarget_out]; simp⟩

/-- An event register reads what was written to it, and no other one changes. -/
theorem evtWord_setEvt (r : EvtReg) (v : U32) (s : State) (j : Nat) :
    evtWord (setEvt r v s) j = if j = evtKey r then v else evtWord s j := by
  unfold evtWord setEvt; rw [withRises_evt]; exact tget_tput ..

theorem setEvt_sameFuncs (r : EvtReg) (v : U32) (s : State) : SameFuncs s (setEvt r v s) :=
  withRises_sameFuncs _ _ s (fun _ => rfl)

theorem setEvt_grows (r : EvtReg) (v : U32) (s : State) : Grows s (setEvt r v s) :=
  withRises_grows _ _ s (Grows.refl _)

theorem or_of_bit (x : U32) (b : Nat) (h : bit x b = true) : x ||| BitVec.ofNat 32 (2 ^ b) = x := by
  unfold bit at h
  apply BitVec.eq_of_getLsbD_eq
  intro i hi
  rw [BitVec.getLsbD_or, BitVec.getLsbD_ofNat]
  by_cases hib : i = b
  · subst hib; simp [h]
  · have : Nat.testBit (2 ^ b) i = false := by rw [Nat.testBit_two_pow]; simp; omega
    simp [this]

/-- Raising an event sets its bit and no other one. -/
theorem raise_raised (r : EvtReg) (b : Nat) (s : State) : Raised (evtKey r) b s (raise r b s) := by
  intro j
  unfold raise; dsimp only
  split
  · next h =>
    split
    · next hj => subst hj; exact (or_of_bit _ _ h).symm
    · rfl
  · have e : ∀ j, evtWord (setEvt r (evtGet s r ||| BitVec.ofNat 32 (2 ^ b)) s) j
        = if j = evtKey r then evtWord s j ||| BitVec.ofNat 32 (2 ^ b) else evtWord s j := by
      intro j; rw [evtWord_setEvt]; split
      · next hj => subst hj; rfl
      · rfl
    split
    · rw [evtWord, countEvent_eic]; exact e j
    · exact e j

theorem raise_sameFuncs (r : EvtReg) (b : Nat) (s : State) : SameFuncs s (raise r b s) := by
  unfold raise; dsimp only
  split
  · exact sameFuncs_refl s
  · split
    · exact (setEvt_sameFuncs _ _ s).trans (countEvent_sameFuncs _ _ _)
    · exact setEvt_sameFuncs _ _ s

theorem raise_grows (r : EvtReg) (b : Nat) (s : State) : Grows s (raise r b s) := by
  unfold raise; dsimp only
  split
  · exact Grows.refl s
  · split
    · exact (setEvt_grows _ _ s).trans (countEvent_grows _ _ _)
    · exact setEvt_grows _ _ s

/-! ### Mailboxes -/

theorem countEvent_box (f v : Nat) (s : State) (k : Nat) : box (countEvent f v s) k = box s k := by
  unfold box; rw [countEvent_mail]

/-- A notice that is committed stands in the slot. -/
theorem commitOut_slot (k : Nat) (n : Notice) (s : State) :
    (box (commitOut k n s) k).outFull = true ∧ (box (commitOut k n s) k).outSlot = n := by
  unfold commitOut; dsimp only
  split
  · split
    · rw [countEvent_box, box_modBox, if_pos rfl]; exact ⟨rfl, rfl⟩
    · rw [box_modBox, if_pos rfl]; exact ⟨rfl, rfl⟩
  · split
    · split
      · rw [countEvent_box, box_modBox, if_pos rfl]; exact ⟨rfl, rfl⟩
      · rw [box_modBox, if_pos rfl]; exact ⟨rfl, rfl⟩
    · split
      · rw [box_of_emit, box_modBox, if_pos rfl]; exact ⟨rfl, rfl⟩
      · rw [box_modBox, if_pos rfl]; exact ⟨rfl, rfl⟩

/-- A notice that the firmware posts stands in the slot or waits for it. -/
theorem postOut_posted (k : Nat) (n : Notice) (s : State) : Posted k n (postOut k n s) := by
  unfold postOut; dsimp only
  split
  · right; rw [box_setBox, if_pos rfl]; exact List.mem_append_right _ (List.mem_singleton.2 rfl)
  · exact .inl (commitOut_slot k n s)

theorem commitOut_grows (k : Nat) (n : Notice) (s : State) : Grows s (commitOut k n s) := by
  unfold commitOut; dsimp only
  split
  · split
    · exact countEvent_grows _ _ _
    · exact Grows.refl s
  · split
    · split
      · exact countEvent_grows _ _ _
      · exact Grows.refl s
    · split
      · exact ⟨[_], rfl⟩
      · exact Grows.refl s

theorem postOut_grows (k : Nat) (n : Notice) (s : State) : Grows s (postOut k n s) := by
  unfold postOut; dsimp only
  split
  · exact Grows.refl s
  · exact commitOut_grows k n s

theorem postOut_secOut (k : Nat) (n : Notice) (s : State) : (postOut k n s).mail.secOut = s.mail.secOut
    ∧ (postOut k n s).mail.i3cOut = s.mail.i3cOut := by
  unfold postOut; dsimp only
  split
  · exact ⟨rfl, rfl⟩
  · unfold commitOut; dsimp only
    split
    · split
      · rw [countEvent_mail]; exact ⟨rfl, rfl⟩
      · exact ⟨rfl, rfl⟩
    · split
      · split
        · rw [countEvent_mail]; exact ⟨rfl, rfl⟩
        · exact ⟨rfl, rfl⟩
      · split <;> exact ⟨rfl, rfl⟩

theorem hostWrite_mem (f addr : Nat) (d : List Byte) (s : State) (h : d ≠ []) :
    Output.hostWrite f addr d ∈ (hostWrite f addr d s).out := by
  unfold hostWrite
  have hd : d.isEmpty = false := by cases d <;> simp_all
  simp only [hd, Bool.false_eq_true, if_false]
  have e : Output.hostWrite f addr d ∈ (emit (.hostWrite f addr d) s).out := by simp
  split
  · refine Grows.mem (each_grows _ _ _ ?_) e
    intro x t; unfold markPage; dsimp only
    split
    · exact Grows.refl t
    · split <;> exact Grows.refl t
  · exact e

/-- A command that is answered has its reply written and its notice posted. -/
theorem reply_answered (ctx : CmdCtx) (code : Nat) (body : List Byte) (s : State) :
    Answered ctx code body s (reply ctx code body s) := by
  have hne : replyBytesOf ctx code body ≠ [] := by simp [replyBytesOf, replyHeader]
  unfold reply; dsimp only
  change Answered ctx code body s (writeReply (chanKey ctx.chan) (replyPlace ctx) (replyBytesOf ctx code body)
    ⟨replyPlace ctx, ctx.seq, BitVec.ofNat 8 code⟩ _)
  cases hc : ctx.chan with
  | nonSecure f =>
    unfold Answered; simp only [hc, chanKey]
    have h1 : f.val ≠ 128 := by omega
    have h2 : f.val ≠ 129 := by omega
    by_cases hb : (fn s f.val).bme = true
    · simp only [hb, if_true, Bool.not_true, Bool.and_false, Bool.false_eq_true, if_false]
      unfold writeReply
      have hb' : (fn (answeredBox f.val ctx.seq (BitVec.ofNat 8 code) s) f.val).bme = true := hb
      simp only [h1, h2, if_false, hb', if_true]
      exact ⟨Grows.mem (postOut_grows _ _ _) (hostWrite_mem _ _ _ _ hne), postOut_posted _ _ _⟩
    · have hb0 : (fn s f.val).bme = false := by simpa using hb
      have hlt : (decide (f.val < 128) && !(fn s f.val).bme) = true := by simp [hb0]
      rw [if_neg hb]
      show _ ∈ (box (writeReply f.val _ _ _ (if (decide (f.val < 128) && !(fn s f.val).bme) = true then s else _))
        f.val).replies
      rw [if_pos hlt]
      unfold writeReply
      rw [if_neg h1, if_neg h2, if_neg hb]
      rw [box_modBox, if_pos rfl]
      exact List.mem_append_right _ (List.mem_singleton.2 rfl)
  | secure =>
    unfold Answered; simp only [hc, chanKey]
    unfold writeReply
    exact ⟨(postOut_secOut _ _ _).1, postOut_posted _ _ _⟩
  | i3c =>
    unfold Answered; simp only [hc, chanKey]
    unfold writeReply
    exact ⟨(postOut_secOut _ _ _).2, postOut_posted _ _ _⟩

end Sys2Proof.Machine
end

