-- ==== Sys2Proof/Laws/Slots.lean ====
section
/-! SUPPORT. What the operations of a card slot do: an event that the die reports, gate-off, a trip, the power-up check. -/

namespace Sys2Proof.Machine

/-- What decides who hears a die and who commands it. -/
def DieSame (s t : State) : Prop :=
  (∀ g, (die t g).parked = (die s g).parked ∧ (die t g).powered = (die s g).powered
    ∧ (die t g).coreLost = (die s g).coreLost ∧ (die t g).authPctl = (die s g).authPctl)
  ∧ (∀ g, hears t g = hears s g) ∧ t.tb = s.tb

theorem DieSame.refl (s : State) : DieSame s s := ⟨fun _ => ⟨rfl, rfl, rfl, rfl⟩, fun _ => rfl, rfl⟩

theorem DieSame.trans {s t u : State} (h : DieSame s t) (k : DieSame t u) : DieSame s u := by
  refine ⟨fun g => ?_, fun g => (k.2.1 g).trans (h.2.1 g), k.2.2.trans h.2.2⟩
  obtain ⟨a, b, c, d⟩ := h.1 g; obtain ⟨a', b', c', d'⟩ := k.1 g
  exact ⟨a'.trans a, b'.trans b, c'.trans c, d'.trans d⟩

theorem dieSame_of {s t : State} (hs : t.slots.die = s.slots.die) (he : t.err = s.err)
    (hp : (t.pwr.por, t.pwr.st) = (s.pwr.por, s.pwr.st)) (ht : t.tb = s.tb) : DieSame s t := by
  have e : ∀ g, die t g = die s g := fun g => by unfold die; rw [hs]
  simp only [Prod.mk.injEq] at hp
  refine ⟨fun g => by rw [e g]; exact ⟨rfl, rfl, rfl, rfl⟩, fun g => ?_, ht⟩
  unfold hears live; rw [e g, he, hp.1, hp.2]

theorem modSlot_dieSame (n : Nat) (g : CardSlot → CardSlot) (s : State) : DieSame s (modSlot n g s) :=
  dieSame_of rfl rfl rfl rfl

theorem startWake_dieSame (c i : Nat) (s : State) : DieSame s (startWake c i s) := by
  unfold startWake; split
  · exact dieSame_of rfl rfl rfl rfl
  · exact DieSame.refl s

theorem dieSame_keeps {s t : State} (hs : Keeps .slots s t) (he : Keeps .err s t) (hp : Keeps .pwr s t)
    (ht : Keeps .tb s t) : DieSame s t := by
  simp only [Keeps] at hs he hp ht
  exact dieSame_of (by rw [hs]) he (by rw [hp]) ht

theorem raiseSlot_dieSame (n b : Nat) (s : State) : DieSame s (raiseSlot n b s) :=
  dieSame_keeps (raiseSlot_keeps n b (Keeps.refl .slots s) (by decide)) (raiseSlot_keeps n b (Keeps.refl .err s) (by decide))
    (raiseSlot_keeps n b (Keeps.refl .pwr s) (by decide)) (raiseSlot_keeps n b (Keeps.refl .tb s) (by decide))

/-- A change of a die that leaves its standing as it was. -/
theorem modDie_dieSame (g : Nat) (f : Die → Die) (s : State)
    (hf : ∀ d, (f d).parked = d.parked ∧ (f d).powered = d.powered ∧ (f d).coreLost = d.coreLost
      ∧ (f d).authPctl = d.authPctl) : DieSame s (modDie g f s) := by
  have e : ∀ k, (die (modDie g f s) k).parked = (die s k).parked ∧ (die (modDie g f s) k).powered = (die s k).powered
      ∧ (die (modDie g f s) k).coreLost = (die s k).coreLost ∧ (die (modDie g f s) k).authPctl = (die s k).authPctl := by
    intro k; rw [die_modDie]; split
    · next h => subst h; exact hf _
    · exact ⟨rfl, rfl, rfl, rfl⟩
  refine ⟨e, fun k => ?_, rfl⟩
  obtain ⟨a, b, c, -⟩ := e k
  unfold hears; rw [a, b, c]; rfl

theorem emit_dieSame (o : Output) (s : State) : DieSame s (emit o s) := dieSame_of rfl rfl rfl rfl

theorem pctlEvent_dieSame (n b : Nat) (s : State) : DieSame s (pctlEvent n b s) := by
  unfold pctlEvent pctlSend; dsimp only
  refine DieSame.trans ?_ (emit_dieSame _ _)
  exact modDie_dieSame _ _ s (fun _ => ⟨rfl, rfl, rfl, rfl⟩)

/-- A die's event where the die is not parked: at the core die that hears it, else latched in the die. -/
def noted (n b : Nat) (s : State) : State :=
  if hears s (dieOf n) then
    raiseSlot n b (if (s.pwr.st == .deepSleep || s.pwr.entering == some .deepSleep) && bit (slotEn s n) b then startWake 3 n s
      else s)
  else { s with
         eic := { s.eic with evt := tput s.eic.evt (64 + n) (evtWord s (64 + n) ||| BitVec.ofNat 32 (2 ^ b)) } }

theorem dieEvent_eq (n b : Nat) (s : State) : dieEvent n b s =
    if (die s (dieOf n)).parked then modSlot n (fun x => { x with kept := x.kept ||| BitVec.ofNat 32 (2 ^ b) }) s
    else if (die (noted n b s) (dieOf n)).authPctl then pctlEvent n b (noted n b s) else noted n b s := rfl

theorem noted_dieSame (n b : Nat) (s : State) : DieSame s (noted n b s) := by
  unfold noted; split
  · refine DieSame.trans ?_ (raiseSlot_dieSame _ _ _)
    split
    · exact startWake_dieSame _ _ s
    · exact DieSame.refl s
  · exact dieSame_of rfl rfl rfl rfl

/-- A report leaves the dies' standing as it was. -/
theorem dieEvent_dieSame (n b : Nat) (s : State) : DieSame s (dieEvent n b s) := by
  rw [dieEvent_eq]
  split
  · exact modSlot_dieSame _ _ s
  · split
    · exact (noted_dieSame n b s).trans (pctlEvent_dieSame _ _ _)
    · exact noted_dieSame n b s

theorem tellCore_dieSame (n b : Nat) (s : State) : DieSame s (tellCore n b s) := by
  unfold tellCore; split
  · exact dieSame_of rfl rfl rfl rfl
  · exact DieSame.refl s

theorem startWake_slots (c i : Nat) (s : State) : (startWake c i s).slots = s.slots := by
  unfold startWake; split <;> rfl

theorem startWake_eic (c i : Nat) (s : State) : (startWake c i s).eic = s.eic := by
  unfold startWake; split <;> rfl

theorem startWake_fns (c i : Nat) (s : State) : (startWake c i s).fns = s.fns := by
  unfold startWake; split <;> rfl

theorem noted_slot (n b : Nat) (s : State) (k : Nat) : slot (noted n b s) k = slot s k := by
  have h : Keeps .slots s (noted n b s) := by
    unfold noted; split
    · apply raiseSlot_keeps
      · split
        · exact startWake_slots _ _ _
        · rfl
      · decide
    · rfl
  simp only [Keeps] at h; unfold slot; rw [h]

theorem noted_evt (n b : Nat) (hn : n < 64) (s : State) (j : Nat) : evtWord (noted n b s) j
    = if j = 64 + n then evtWord s j ||| BitVec.ofNat 32 (2 ^ b) else evtWord s j := by
  unfold noted; split
  · unfold raiseSlot; rw [dif_pos hn, raise_raised (.slot ⟨n, hn⟩) b _ j]
    have e : ∀ w : State, w.eic = s.eic → (if j = evtKey (.slot ⟨n, hn⟩) then evtWord w j ||| BitVec.ofNat 32 (2 ^ b) else
        evtWord w j) = if j = 64 + n then evtWord s j ||| BitVec.ofNat 32 (2 ^ b) else evtWord s j := by
      intro w hw; unfold evtWord; rw [hw]; rfl
    apply e; split
    · exact startWake_eic _ _ _
    · rfl
  · show tget 0 (tput s.eic.evt (64 + n) _) j = _
    rw [tget_tput]; split
    · next h => subst h; rfl
    · rfl

theorem noted_funcs (n b : Nat) (s : State) : SameFuncs s (noted n b s) := by
  unfold noted; split
  · have h : ∀ w : State, w.fns = s.fns → SameFuncs s (raiseSlot n b w) := by
      intro w hw
      refine SameFuncs.trans (t := w) (fun k => by unfold fn; rw [hw]) ?_
      unfold raiseSlot; split
      · exact raise_sameFuncs _ _ _
      · exact sameFuncs_refl _
    apply h; split
    · exact startWake_fns _ _ _
    · rfl
  · exact fun _ => rfl

/-- A report of event `b`: the slot is otherwise as it was. -/
theorem dieEvent_moves (n b : Nat) (hn : n < 64) (s : State) :
    SlotMoves n (slot s n) (BitVec.ofNat 32 (2 ^ b)) s (dieEvent n b s) := by
  unfold SlotMoves SlotReports; rw [dieEvent_eq]
  split
  · refine ⟨by rw [slot_modSlot, if_pos rfl], ?_, fun k hk => by rw [slot_modSlot, if_neg hk], fun _ => rfl⟩
    rw [slot_modSlot, if_pos rfl]; exact ⟨rfl, fun _ => rfl⟩
  · have h : ∀ v : State, (∀ k, slot v k = slot (noted n b s) k) → v.eic = (noted n b s).eic → v.fns = (noted n b s).fns →
        { slot v n with kept := 0 } = { slot s n with kept := 0 } ∧ ((slot v n).kept = (slot s n).kept
          ∧ ∀ j, evtWord v j = if j = 64 + n then evtWord s j ||| BitVec.ofNat 32 (2 ^ b) else evtWord s j)
        ∧ OtherSlots n s v ∧ SameFuncs s v := by
      intro v h1 h2 h3
      have e : ∀ k, slot v k = slot s k := fun k => (h1 k).trans (noted_slot n b s k)
      refine ⟨by rw [e], ⟨by rw [e], fun j => ?_⟩, fun k _ => e k, ?_⟩
      · unfold evtWord; rw [h2]; exact noted_evt n b hn s j
      · intro k; unfold fn; rw [h3]; exact noted_funcs n b s k
    split
    · exact h _ (fun _ => rfl) rfl rfl
    · exact h _ (fun _ => rfl) rfl rfl

theorem slot_of_kept {x y : CardSlot} (h : { x with kept := 0 } = { y with kept := 0 }) : x = { y with kept := x.kept } := by
  cases x; cases y; simp only [CardSlot.mk.injEq] at h ⊢; simp_all

/-- Two moves of a slot, one after the other. -/
theorem SlotMoves.next {n : Nat} {y w z : CardSlot} {m k l : U32} {s t u : State} (h : SlotMoves n y m s t)
    (hd : DieSame s t) (h2 : SlotMoves n w k t u)
    (hw : ∀ c, slot t n = { y with kept := c } → { w with kept := 0 } = { z with kept := 0 }) (hl : l = m ||| k) :
    SlotMoves n z l s u := by
  subst hl
  obtain ⟨a, b, c, d⟩ := h
  obtain ⟨a', b', c', d'⟩ := h2
  refine ⟨a'.trans (hw _ (slot_of_kept a)), ?_, fun j hj => (c' j hj).trans (c j hj), d.trans d'⟩
  unfold SlotReports at *
  rw [(hd.1 (dieOf n)).1] at b'
  split
  · next hp =>
    rw [if_pos hp] at b b'
    exact ⟨by rw [b'.1, b.1, BitVec.or_assoc], fun j => (b'.2 j).trans (b.2 j)⟩
  · next hp =>
    rw [if_neg hp] at b b'
    refine ⟨b'.1.trans b.1, fun j => ?_⟩
    rw [b'.2 j, b.2 j]; split
    · rw [BitVec.or_assoc]
    · rfl

/-- A change of the slot that its die reports to nobody. -/
theorem modSlot_moves (n : Nat) (g : CardSlot → CardSlot) (s : State) (hk : (g (slot s n)).kept = (slot s n).kept) :
    SlotMoves n (g (slot s n)) 0 s (modSlot n g s) := by
  refine ⟨by rw [slot_modSlot, if_pos rfl], ?_, fun k h => by rw [slot_modSlot, if_neg h], fun _ => rfl⟩
  unfold SlotReports
  rw [slot_modSlot, if_pos rfl]
  split
  · exact ⟨by rw [hk]; simp, fun _ => rfl⟩
  · exact ⟨hk, fun j => by split <;> [exact (BitVec.or_zero).symm; rfl]⟩

theorem tellCore_moves (n b : Nat) (s : State) : SlotMoves n (slot s n) 0 s (tellCore n b s) := by
  have h : ∀ t : State, t.slots = s.slots → t.eic = s.eic → t.fns = s.fns → SlotMoves n (slot s n) 0 s t := by
    intro t h1 h2 h3
    have e : ∀ k, slot t k = slot s k := fun k => by unfold slot; rw [h1]
    have e2 : ∀ j, evtWord t j = evtWord s j := fun j => by unfold evtWord; rw [h2]
    refine ⟨by rw [e], ?_, fun k _ => e k, fun f => by unfold fn; rw [h3]⟩
    unfold SlotReports; rw [e]
    split
    · exact ⟨by simp, e2⟩
    · exact ⟨rfl, fun j => by rw [e2]; split <;> simp⟩
  unfold tellCore; split
  · exact h _ rfl rfl rfl
  · exact h s rfl rfl rfl

theorem SlotMoves.refl (n : Nat) (s : State) : SlotMoves n (slot s n) 0 s s := by
  refine ⟨rfl, ?_, fun _ _ => rfl, sameFuncs_refl s⟩
  unfold SlotReports; split
  · exact ⟨(BitVec.or_zero).symm, fun _ => rfl⟩
  · exact ⟨rfl, fun j => by split <;> [exact (BitVec.or_zero).symm; rfl]⟩

/-- The gate turns off: POWER_OFF is reported. -/
theorem gateOff_moves (n : Nat) (st : SlotState) (hn : n < 64) (s : State) :
    SlotMoves n (offSlot (now s) st (slot s n)) 8 s (gateOff n st s) := by
  unfold gateOff; dsimp only
  refine SlotMoves.next (modSlot_moves n (offSlot (now s) st) s rfl) (modSlot_dieSame _ _ s) (dieEvent_moves n 3 hn _) ?_ rfl
  intro c e
  exact congrArg (fun x : CardSlot => { x with kept := 0 }) e

theorem gateOff_dieSame (n : Nat) (st : SlotState) (s : State) : DieSame s (gateOff n st s) := by
  unfold gateOff; dsimp only
  exact (modSlot_dieSame _ _ s).trans (dieEvent_dieSame _ _ _)

/-- A trip: the slot is latched with its code and record, TRIP and POWER_OFF are reported. -/
theorem trip_moves (n code : Nat) (by_ : Bool) (vout vbus : BitVec 12) (hn : n < 64) (s : State) :
    SlotMoves n (tripSlot (BitVec.ofNat 4 code) by_ vout vbus (now s) (epoch32 s 0) (slot s n)) 0x18 s
      (trip n code by_ vout vbus s) := by
  unfold trip; dsimp only
  have h1 : ∀ t : State, DieSame s t →
      SlotMoves n (if (slot s n).gate then offSlot (now s) .tripped (slot s n) else slot s n) 8 s t →
      SlotMoves n (tripSlot (BitVec.ofNat 4 code) by_ vout vbus (now s) (epoch32 s 0) (slot s n)) 0x18 s
        (tellCore n 4 (dieEvent n 4 (modSlot n (fun x => { x with
          st := .tripped, tripCode := BitVec.ofNat 4 code, tripBy := by_,
          tripRec := BitVec.ofNat 64 (vout.toNat + vbus.toNat * 2 ^ 16 + epoch32 t 0 * 2 ^ 32) }) t))) := by
    intro t hd h
    have et : epoch32 t 0 = epoch32 s 0 := by unfold epoch32; rw [hd.2.2]
    rw [et]
    have h2 := SlotMoves.next (z := tripSlot (BitVec.ofNat 4 code) by_ vout vbus (now s) (epoch32 s 0) (slot s n)) (l := 8) h hd
      (modSlot_moves n (fun x : CardSlot => { x with
          st := .tripped, tripCode := BitVec.ofNat 4 code, tripBy := by_,
          tripRec := BitVec.ofNat 64 (vout.toNat + vbus.toNat * 2 ^ 16 + epoch32 s 0 * 2 ^ 32) }) t rfl)
      (by intro c e; rw [e]; rfl) rfl
    have h3 := SlotMoves.next (z := tripSlot (BitVec.ofNat 4 code) by_ vout vbus (now s) (epoch32 s 0) (slot s n)) (l := 0x18) h2
      (hd.trans (modSlot_dieSame _ _ t)) (dieEvent_moves n 4 hn _)
      (by intro c e; exact congrArg (fun x : CardSlot => { x with kept := 0 }) e) rfl
    exact SlotMoves.next h3 ((hd.trans (modSlot_dieSame _ _ t)).trans (dieEvent_dieSame _ _ _)) (tellCore_moves n 4 _)
      (by intro c e; exact congrArg (fun x : CardSlot => { x with kept := 0 }) e) rfl
  split
  · next hg =>
    rw [if_pos hg] at h1
    exact h1 _ (gateOff_dieSame _ _ s) (gateOff_moves n .tripped hn s)
  · next hg =>
    rw [if_neg hg] at h1
    exact h1 _ (dieEvent_dieSame _ _ s) (dieEvent_moves n 3 hn s)

theorem trip_dieSame (n code : Nat) (by_ : Bool) (vout vbus : BitVec 12) (s : State) :
    DieSame s (trip n code by_ vout vbus s) := by
  unfold trip; dsimp only
  refine DieSame.trans ?_ ((modSlot_dieSame _ _ _).trans ((dieEvent_dieSame _ _ _).trans (tellCore_dieSame _ _ _)))
  split
  · exact gateOff_dieSame _ _ s
  · exact dieEvent_dieSame _ _ s

/-- The power-up check. -/
theorem powerCheck_moves (n : Nat) (s : State) :
    SlotMoves n (checkedSlot (!rampBlocked s n) (slot s n)) 0 s (powerCheck n s) := by
  unfold powerCheck checkedSlot; dsimp only
  split
  · exact modSlot_moves n _ s rfl
  split
  · exact modSlot_moves n _ s rfl
  split
  · exact modSlot_moves n _ s rfl
  rw [Bool.not_not]
  split
  · exact modSlot_moves n _ s rfl
  · exact modSlot_moves n _ s rfl

theorem powerCheck_dieSame (n : Nat) (s : State) : DieSame s (powerCheck n s) := by
  unfold powerCheck; dsimp only
  repeat' split
  all_goals exact modSlot_dieSame _ _ s

end Sys2Proof.Machine
end

