-- ==== Sys2Proof/Laws/Threads.lean ====
section
/-! SUPPORT. What executing an instruction does to its thread, and how a transaction ends on its port. -/

namespace Sys2Proof.Machine

/-- An instruction that microcode may use, run in the microcode. -/
theorem run_micro {s : State} {e : EngId} {t : Thread} (h : CanRun s e t 0 ∧ t.script = none) (c : Nat)
    (f : Thread → State → State) : instruction e .m c f s = .next (f t s) := by
  obtain ⟨⟨h1, h2, h3, h4⟩, hs⟩ := h
  unfold instruction
  rw [guarded_of h1]
  have hx : executing s e.val = some t := by unfold executing; rw [h2]; simp [h3]
  rw [hx]; dsimp only
  rw [hs] at h4 ⊢
  have h5 : ¬ (8192 ≤ t.pc.toNat) := by simp at h4; omega
  simp [h5]

/-- An instruction that both microcode and scripts may use. -/
theorem run_both {s : State} {e : EngId} {t : Thread} {cost : Nat} (h : CanRun s e t cost)
    (f : Thread → State → State) : instruction e .ms cost f s = .next (f (spend cost t) s) := by
  obtain ⟨h1, h2, h3, h4⟩ := h
  unfold instruction
  rw [guarded_of h1]
  have hx : executing s e.val = some t := by unfold executing; rw [h2]; simp [h3]
  rw [hx]; dsimp only
  cases hs : t.script with
  | none =>
    rw [hs] at h4
    have : spend cost t = t := by unfold spend; rw [hs]; cases t; simp_all
    rw [this]
    have h5 : ¬ (8192 ≤ t.pc.toNat) := by simp at h4; omega
    simp [h5]
  | some r =>
    rw [hs] at h4; dsimp only at h4 ⊢
    have : ¬ r.budget.toNat < cost := by omega
    simp [this]

theorem spend_micro {t : Thread} (h : t.script = none) (c : Nat) : spend c t = t := by
  unfold spend; rw [h]; cases t; simp_all

theorem eng_setRun (e k : Nat) (t : Thread) (s : State) :
    eng (setRun e t s) k = if k = e then { eng s e with run := some t } else eng s k := by
  unfold setRun; rw [eng_modEng]

theorem port_of_setRun (e : Nat) (t : Thread) (s : State) (k : Nat) : port (setRun e t s) k = port s k := rfl
theorem item_of_setRun (e : Nat) (t : Thread) (s : State) (k : Nat) : item? (setRun e t s) k = item? s k := rfl
theorem out_of_setRun (e : Nat) (t : Thread) (s : State) : (setRun e t s).out = s.out := rfl

theorem item_modItem (i k : Nat) (g : Item → Item) (s : State) :
    item? (modItem i g s) k = if k = i then (item? s i).map g else item? s k := by
  unfold modItem
  cases h : item? s i with
  | none => dsimp only [Option.map]; split
            · next hk => rw [hk, h]
            · rfl
  | some x => dsimp only [Option.map]; rw [item_setItem]

theorem port_of_modItem (i : Nat) (g : Item → Item) (s : State) (k : Nat) : port (modItem i g s) k = port s k := by
  unfold modItem; split <;> rfl
theorem eng_of_modItem (i : Nat) (g : Item → Item) (s : State) (k : Nat) : eng (modItem i g s) k = eng s k := by
  unfold modItem; split <;> rfl
theorem out_of_modItem (i : Nat) (g : Item → Item) (s : State) : (modItem i g s).out = s.out := by
  unfold modItem; split <;> rfl
theorem topo_of_modItem (i : Nat) (g : Item → Item) (s : State) : (modItem i g s).topo = s.topo := by
  unfold modItem; split <;> rfl
theorem sch_of_modItem (i : Nat) (g : Item → Item) (s : State) : (modItem i g s).sch = s.sch := by
  unfold modItem; split <;> rfl
theorem engs_of_modItem (i : Nat) (g : Item → Item) (s : State) : (modItem i g s).eng = s.eng := by
  unfold modItem; split <;> rfl

/-- A tree with nothing that waits for its line: the end of a transaction begins nothing. -/
theorem beginDue_quiet {s : State} {p : Nat} (h1 : (port s p).resetDue = false) (h2 : (port s p).enumQueue = []) :
    beginDue p s = s := by
  unfold beginDue startNext
  split
  · rfl
  · rw [if_neg (by simp [h1])]
    split
    · rw [h2]; rfl
    · rfl

/-- The control time used, by port. -/
def setCtlUsed (l : Tbl Nat) (s : State) : State := { s with front := { s.front with ctlUsed := l } }

@[simp] theorem port_of_setCtlUsed (l : Tbl Nat) (s : State) (k : Nat) : port (setCtlUsed l s) k = port s k := rfl
@[simp] theorem eng_of_setCtlUsed (l : Tbl Nat) (s : State) (k : Nat) : eng (setCtlUsed l s) k = eng s k := rfl
@[simp] theorem item_of_setCtlUsed (l : Tbl Nat) (s : State) (k : Nat) : item? (setCtlUsed l s) k = item? s k := rfl

/-- A transaction that serves item `i` ends, with nothing waiting for its line: the line is free, and of the rest only the
port's control time may have grown. -/
theorem closeTxn_item {s : State} {p i : Nat} {tx : Txn} {x : Item} (h : (port s p).txn = some tx) (hw : workItem s tx.work = some i)
    (hi : item? s i = some x) (hst : x.stopAs = none) (h1 : (port s p).resetDue = false) (h2 : (port s p).enumQueue = []) :
    closeTxn p s = setCtlUsed
      (if itemCtrl x then tput s.front.ctlUsed p (tget 0 s.front.ctlUsed p + (now s - tx.start) * 25) else s.front.ctlUsed)
      (modPort p (fun y => { y with txn := none }) s) := by
  have b : ∀ v : State, v.topo.port = (modPort p (fun y => { y with txn := none }) s).topo.port → beginDue p v = v := by
    intro v hv
    have : port v p = { port s p with txn := none } := by
      unfold port; rw [hv]; exact (port_modPort p p _ s).trans (if_pos rfl)
    exact beginDue_quiet (by rw [this]; exact h1) (by rw [this]; exact h2)
  unfold closeTxn; rw [h]; dsimp only; rw [hw]; dsimp only [Option.bind]
  rw [item_of_modPort, hi]; dsimp only
  have hi' : ∀ u : State, u.front.items = s.front.items → item? u i = some x := by
    intro u hu; unfold item?; rw [hu]; exact hi
  cases hc : itemCtrl x
  · simp only [Bool.false_eq_true, if_false]
    rw [hi' (modPort p (fun y => { y with txn := none }) s) rfl]; dsimp only; rw [hst]; dsimp only
    exact b _ rfl
  · simp only [if_true]
    refine Eq.trans (congrArg (beginDue p) ?_) (b (setCtlUsed _ _) rfl)
    split
    · next y hy =>
      have : item? s i = some y := hy
      rw [hi] at this; cases this; rw [hst]; rfl
    · rfl

/-- A lane with nothing queued has nothing to go on with. -/
theorem runLane_idle {s : State} {p : Nat} (h : (port s p).lane = []) : runLane p s = s := by
  unfold runLane; rw [h]; rfl

/-- The same of the end of a transaction: with nothing queued on the lane, nothing is sent. -/
theorem endTxn_item {s : State} {p i : Nat} {tx : Txn} {x : Item} (h : (port s p).txn = some tx) (hw : workItem s tx.work = some i)
    (hi : item? s i = some x) (hst : x.stopAs = none) (h1 : (port s p).resetDue = false) (h2 : (port s p).enumQueue = [])
    (hl : (port s p).lane = []) :
    endTxn p s = setCtlUsed
      (if itemCtrl x then tput s.front.ctlUsed p (tget 0 s.front.ctlUsed p + (now s - tx.start) * 25) else s.front.ctlUsed)
      (modPort p (fun y => { y with txn := none }) s) := by
  unfold endTxn
  rw [closeTxn_item h hw hi hst h1 h2]
  refine runLane_idle ?_
  show (port (modPort p (fun y => { y with txn := none }) s) p).lane = []
  rw [port_modPort, if_pos rfl]; exact hl

/-- A thread that has the budget for its wait goes on from it, and a script has paid for it. -/
theorem resumeWait_paid {e : Nat} {t : Thread} {s : State} (h : WaitPaid s t) :
    resumeWait e t s = setRun e (spend (waitedCycles s t) t) s := by
  unfold resumeWait; dsimp only
  split
  · next r hr => rw [if_neg (by have := h r hr; omega)]
  · next hr => rw [spend_micro hr]

/-- What the payment of a wait leaves as it is. -/
theorem spend_same (c : Nat) (t : Thread) :
    (spend c t).wait = t.wait ∧ (spend c t).b = t.b ∧ (spend c t).work = t.work ∧ (spend c t).holds = t.holds
      ∧ (spend c t).pc = t.pc ∧ (spend c t).loops = t.loops := ⟨rfl, rfl, rfl, rfl, rfl, rfl⟩

/-- A result that is taken changes neither the script nor the start of the wait. -/
theorem takeResult_same (m : Byte) (o : BitVec 14) (code b14 b13 : Nat) (t : Thread) :
    (takeResult m o code b14 b13 t).script = t.script ∧ (takeResult m o code b14 b13 t).waitAt = t.waitAt := by
  unfold takeResult; dsimp only
  split <;> split <;> split <;> exact ⟨rfl, rfl⟩

/-- A result goes to the running thread that waits for it on the port. -/
theorem report_waiting {s : State} {p e : Nat} {t : Thread} {m : Byte} {o : BitVec 14} (hr : (eng s e).run = some t)
    (hp : tfind (eng s e).parked p = none) (hh : t.holds.contains p = true) (hw : t.wait = .whs m o ∨ t.wait = .rdat m o)
    (code b14 b13 : Nat) : report p (some e) code b14 b13 s = resumeWait e (takeResult m o code b14 b13 t) s := by
  unfold report; dsimp only; rw [hp]; dsimp only; rw [hr]; dsimp only; rw [if_pos hh]
  have : giveResult code b14 b13 t = some (takeResult m o code b14 b13 t) := by
    unfold giveResult
    rcases hw with hw | hw <;> rw [hw]
  rw [this]

theorem tget_map {α : Type} (d : α) (g : α → α) (hd : g d = d) (l : Tbl α) (k : Nat) :
    tget d (l.map fun e => (e.1, g e.2)) k = g (tget d l k) := by
  induction l with
  | nil => exact hd.symm
  | cons a r ih =>
    obtain ⟨j, v⟩ := a
    show (if j = k then g v else tget d (r.map fun e => (e.1, g e.2)) k) = g (if j = k then v else tget d r k)
    split
    · rfl
    · exact ih

/-- The engines after a change to every thread. -/
theorem eng_modThreads (g : Thread → Thread) (s : State) (k : Nat) :
    eng (modThreads g s) k = { eng s k with
      run := (eng s k).run.map g, suspended := (eng s k).suspended.map g, paused := (eng s k).paused.map g
      parked := (eng s k).parked.map fun q => (q.1, { q.2 with thread := g q.2.thread }) } := by
  unfold eng modThreads
  exact tget_map ({} : Engine) (fun e : Engine => { e with
      run := e.run.map g, suspended := e.suspended.map g, paused := e.paused.map g
      parked := e.parked.map fun k => (k.1, { k.2 with thread := g k.2.thread }) }) rfl s.eng.eng k

/-- Refreshed windows: a running thread changes in its window alone. -/
theorem refreshWin_run {s : State} {e : Nat} {t : Thread} (hr : (eng s e).run = some t) (k : Nat) :
    ∃ w, (eng (refreshWin k s) e).run = some { t with win := w } := by
  unfold refreshWin; rw [eng_modThreads, hr]; dsimp only [Option.map]
  split
  · exact ⟨t.win, rfl⟩
  · exact ⟨_, rfl⟩

theorem refreshWin_parked {s : State} {e p : Nat} (h : tfind (eng s e).parked p = none) (k : Nat) :
    tfind (eng (refreshWin k s) e).parked p = none := by
  unfold refreshWin; rw [eng_modThreads]; dsimp only
  generalize (eng s e).parked = l at h
  induction l with
  | nil => rfl
  | cons a r ih =>
    obtain ⟨j, v⟩ := a
    unfold tfind at h
    split at h
    · cases h
    · next hj => exact (if_neg hj).trans (ih h)

theorem refreshWin_rest (k : Nat) (s : State) :
    (refreshWin k s).topo = s.topo ∧ (refreshWin k s).front = s.front ∧ (refreshWin k s).out = s.out
      ∧ (refreshWin k s).sch = s.sch ∧ (refreshWin k s).dma = s.dma := ⟨rfl, rfl, rfl, rfl, rfl⟩

/-- A completion is placed in an entry that is open or whose status awaits FIN; a request of the part's own has none. -/
theorem finish_completed {s : State} {i : Nat} {x : Item} (h : item? s i = some x) (ho : isOwn x = false)
    (hs : x.status = none ∨ x.awaitFin = true)
    (st : Byte) : Completed i x st s (finish i st s) := by
  unfold finish; rw [h]; dsimp only
  rw [if_neg (by rcases hs with hs | hs <;> simp [hs])]
  simp only [ho, Bool.false_eq_true, if_false]
  have hi : ∀ (y : Item) (u : State), u.front.items = (setItem s i y).front.items → item? u i = some y := by
    intro y u hu
    have e : item? u i = item? (setItem s i y) i := by unfold item?; rw [hu]
    rw [e, item_setItem, if_pos rfl]
  have hj : ∀ (y : Item) (u : State), u.front.items = (setItem s i y).front.items → OtherItems i s u := by
    intro y u hu j hj
    have e : item? u j = item? (setItem s i y) j := by unfold item?; rw [hu]
    rw [e, item_setItem, if_neg hj]
  split
  · unfold dropStaged modItem
    rw [hi _ (dropFromFloat i (dropFromUnit i (setItem s i _))) rfl]; dsimp only
    refine ⟨⟨{ { x with status := some st, awaitFin := false, stamp := if x.begun then x.stamp else nowStamp s x, wireDone := true, stopAs := none } with
        segs := [], ended := true }, ?_, rfl, rfl, rfl, rfl, rfl, rfl⟩, ?_, rfl, rfl, rfl, rfl, rfl⟩
    · exact (item_setItem _ _ _ _).trans (if_pos rfl)
    · intro j hk
      refine Eq.trans (b := item? (dropFromFloat i (dropFromUnit i (setItem s i
        { x with status := some st, awaitFin := false, stamp := if x.begun then x.stamp else nowStamp s x, wireDone := true, stopAs := none }))) j)
        ((item_setItem _ _ _ _).trans (if_neg hk)) ?_
      exact hj _ _ rfl j hk
  · exact ⟨⟨_, hi _ _ rfl, rfl, rfl, rfl, rfl, rfl, rfl⟩, hj _ _ rfl, rfl, rfl, rfl, rfl, rfl⟩

end Sys2Proof.Machine
end

