-- ==== Sys2Proof/Laws/Replies.lean ====
section
/-! SUPPORT. How a command is begun and answered: the reply as seen from the state in which the command came, and what it leaves. -/

namespace Sys2Proof.Machine

/-- A reply made in a state `v` is one from `s` where the buffers and the Bus Master Enables stand as in `s`. -/
theorem answered_from {ctx : CmdCtx} {code : Nat} {body : List Byte} {s v u : State} (h : Answered ctx code body v u)
    (hb : ∀ f, (fn v f).bme = (fn s f).bme) (hm : v.mail.secOut = s.mail.secOut ∧ v.mail.i3cOut = s.mail.i3cOut) :
    Answered ctx code body s u := by
  unfold Answered at *
  cases hc : ctx.chan with
  | nonSecure f => rw [hc] at h; dsimp only at h ⊢; rw [← hb]; exact h
  | secure => rw [hc] at h; dsimp only at h ⊢; rw [← hm.1]; exact h
  | i3c => rw [hc] at h; dsimp only at h ⊢; rw [← hm.2]; exact h

theorem begun_bufs (ctx : CmdCtx) (code : Nat) (s : State) :
    (begun ctx code s).mail.secOut = s.mail.secOut ∧ (begun ctx code s).mail.i3cOut = s.mail.i3cOut := ⟨rfl, rfl⟩

/-- A command answered at once, with nothing of the functions or buffers changed before. -/
theorem reply_from {ctx : CmdCtx} {code : Nat} {body : List Byte} {s v : State} (hf : v.fns = s.fns)
    (hm : v.mail.secOut = s.mail.secOut ∧ v.mail.i3cOut = s.mail.i3cOut) : Answered ctx code body s (reply ctx code body v) :=
  answered_from (reply_answered ctx code body v) (fun f => by unfold fn; rw [hf]) hm

theorem reply_eng (ctx : CmdCtx) (code : Nat) (body : List Byte) (s : State) : (reply ctx code body s).eng = s.eng :=
  reply_keeps (bl := .eng) ctx code body (Keeps.refl .eng s) (by decide)
theorem reply_topo (ctx : CmdCtx) (code : Nat) (body : List Byte) (s : State) : (reply ctx code body s).topo = s.topo :=
  reply_keeps (bl := .topo) ctx code body (Keeps.refl .topo s) (by decide)
theorem reply_dma (ctx : CmdCtx) (code : Nat) (body : List Byte) (s : State) : (reply ctx code body s).dma = s.dma :=
  reply_keeps (bl := .dma) ctx code body (Keeps.refl .dma s) (by decide)
theorem reply_sch (ctx : CmdCtx) (code : Nat) (body : List Byte) (s : State) : (reply ctx code body s).sch = s.sch :=
  reply_keeps (bl := .sch) ctx code body (Keeps.refl .sch s) (by decide)
theorem reply_front (ctx : CmdCtx) (code : Nat) (body : List Byte) (s : State) : (reply ctx code body s).front = s.front :=
  reply_keeps (bl := .front) ctx code body (Keeps.refl .front s) (by decide)
theorem reply_pair (ctx : CmdCtx) (code : Nat) (body : List Byte) (s : State) : (reply ctx code body s).pair = s.pair :=
  reply_keeps (bl := .pair) ctx code body (Keeps.refl .pair s) (by decide)
theorem reply_flash (ctx : CmdCtx) (code : Nat) (body : List Byte) (s : State) : (reply ctx code body s).flash = s.flash :=
  reply_keeps (bl := .flash) ctx code body (Keeps.refl .flash s) (by decide)

theorem modCtx_rest (k : Nat) (g : Ctx → Ctx) (s : State) : (modCtx k g s).eng = s.eng ∧ (modCtx k g s).front = s.front
    ∧ (modCtx k g s).out = s.out ∧ (modCtx k g s).topo.port = s.topo.port := by
  unfold modCtx; split <;> exact ⟨rfl, rfl, rfl, rfl⟩

theorem item_of_modCtx (k : Nat) (g : Ctx → Ctx) (s : State) (j : Nat) : item? (modCtx k g s) j = item? s j := by
  unfold item?; rw [(modCtx_rest k g s).2.1]

end Sys2Proof.Machine
end

