-- ==== Sys2Proof/Laws/Wire.lean ====
section
/-! SUPPORT. What the end of a transaction does, seen from the engine that waits for it. -/

namespace Sys2Proof.Machine

/-- State `v` comes from `s` within an answer on port `p`: the port is `q`, with the transaction, the waiting thread of engine `e`
has changed in its window alone, and no other port has changed. -/
def Within (s v : State) (p e : Nat) (t : Thread) (tx : Txn) (q : Port) : Prop :=
  (port v p = q ∧ q.txn = some tx ∧ q.resetDue = false ∧ q.enumQueue = [] ∧ q.lane = []) ∧ OtherPorts p s v
    ∧ (∃ w, (eng v e).run = some { t with win := w }) ∧ tfind (eng v e).parked p = none

theorem within_of {s v w : State} {p e : Nat} {t : Thread} {tx : Txn} {q : Port} (h : Within s v p e t tx q)
    (hp : ∀ k, port w k = port v k) (he : w.eng = v.eng) : Within s w p e t tx q := by
  obtain ⟨⟨a, b⟩, d, f, g⟩ := h
  have hk : eng w e = eng v e := by unfold eng; rw [he]
  refine ⟨⟨(hp p).trans a, b⟩, fun k hk' => (hp k).trans (d k hk'), by rw [hk]; exact f, by rw [hk]; exact g⟩

theorem within_refresh {s v : State} {p e : Nat} {t : Thread} {tx : Txn} {q : Port} (h : Within s v p e t tx q) (k : Nat) :
    Within s (refreshWin k v) p e t tx q := by
  obtain ⟨a, d, f, g⟩ := h
  refine ⟨a, d, ?_, refreshWin_parked g k⟩
  rcases f with ⟨w, f⟩
  rcases refreshWin_run f k with ⟨w', hw⟩
  exact ⟨w', hw⟩

theorem within_item {s v : State} {p e : Nat} {t : Thread} {tx : Txn} {q : Port} (h : Within s v p e t tx q) (i : Nat) (g : Item → Item) :
    Within s (modItem i g v) p e t tx q :=
  within_of h (fun k => port_of_modItem _ _ _ k) (engs_of_modItem _ _ _)

theorem within_ctx {s v : State} {p e : Nat} {t : Thread} {tx : Txn} {q : Port} (h : Within s v p e t tx q) (k : Nat) (g : Ctx → Ctx) :
    Within s (modCtx k g v) p e t tx q :=
  within_of h (fun j => by unfold port; rw [(modCtx_rest k g v).2.2.2]) (modCtx_rest k g v).1

theorem item_of_refresh (k : Nat) (s : State) (j : Nat) : item? (refreshWin k s) j = item? s j := rfl

/-- The consecutive-error count of a transfer of a queue. -/
theorem setErrs_does {s v : State} {p e : Nat} {t : Thread} {tx : Txn} {q : Port} {i : Nat} (h : Within s v p e t tx q) (hw : tx.work = .item i)
    (n : Nat) : Within s (setErrs tx n v) p e t tx q
      ∧ ∀ j, item? (setErrs tx n v) j = if j = i then (item? v i).map (fun x => { x with errs := n }) else item? v j := by
  unfold setErrs; rw [hw]; dsimp only
  refine ⟨within_refresh (within_ctx (within_item h _ _) _ _) _, fun j => ?_⟩
  rw [item_of_refresh, item_of_modCtx, item_modItem]

theorem setTxnSeq_does {s v : State} {p e : Nat} {t : Thread} {tx : Txn} {q : Port} {i : Nat} (h : Within s v p e t tx q) (hw : tx.work = .item i)
    (sq' : BitVec 5) : Within s (setTxnSeq tx sq' v) p e t tx q ∧ ∀ j, item? (setTxnSeq tx sq' v) j = item? v j := by
  unfold setTxnSeq; rw [hw]; dsimp only
  split
  · exact ⟨within_ctx h _ _, fun j => item_of_modCtx _ _ _ _⟩
  · exact ⟨within_refresh (within_ctx h _ _) _, fun j => (item_of_refresh _ _ _).trans (item_of_modCtx _ _ _ _)⟩

theorem decideItem_open {s : State} {i : Nat} {x : Item} (h : item? s i = some x) (hs : x.status = none) (ho : x.stopAs = none)
    (st : Byte) : decideItem i st s = setItem s i (decided st x) := by
  unfold decideItem mayDecide; rw [h]; dsimp only; rw [hs, ho]; rfl

/-- The end of a transaction with a result, for the thread that waits for it. -/
theorem goOnSeq_ends {s v : State} {p e : Nat} {t : Thread} {m : Byte} {o : BitVec 14} {tx : Txn} {q : Port} {i : Nat} {y : Item}
    (h : Within s v p e t tx q) (he : tx.engine = some e) (hw : tx.work = .item i) (hi : item? v i = some y) (hst : y.stopAs = none)
    (hh : p ∈ t.holds) (hwt : t.wait = .whs m o ∨ t.wait = .rdat m o) (hb : WaitPaid v t) (code b14 b13 : Nat) :
    Ended p e code t m o s (goOnSeq p tx code b14 b13 v) ∧ (∀ j, item? (goOnSeq p tx code b14 b13 v) j = item? v j)
      ∧ (goOnSeq p tx code b14 b13 v).topo.ctx = v.topo.ctx ∧ (goOnSeq p tx code b14 b13 v).out = v.out
      ∧ (∀ k, k ≠ e → eng (goOnSeq p tx code b14 b13 v) k = eng v k) ∧ port (goOnSeq p tx code b14 b13 v) p = { q with txn := none } := by
  obtain ⟨⟨a0, a, b, c, l⟩, d, ⟨w, f⟩, g⟩ := h
  unfold goOnSeq; rw [he]
  rw [report_waiting f g (by simpa using hh) (m := m) (o := o) (by exact hwt)]
  have hp : WaitPaid v (takeResult m o code b14 b13 { t with win := w }) := by
    have k := takeResult_same m o code b14 b13 { t with win := w }
    intro r hr; rw [k.1] at hr
    have := hb r hr
    unfold waitedCycles at this ⊢; rw [k.1, k.2]; exact this
  rw [resumeWait_paid hp]
  generalize waitedCycles v (takeResult m o code b14 b13 { t with win := w }) = n
  have e1 := endTxn_item (s := setRun e (spend n (takeResult m o code b14 b13 { t with win := w })) v) (p := p) (i := i) (tx := tx) (x := y)
    ((congrArg Port.txn a0).trans a) (by rw [hw]; rfl) hi hst ((congrArg Port.resetDue a0).trans b) ((congrArg Port.enumQueue a0).trans c)
    ((congrArg Port.lane a0).trans l)
  rw [e1]
  refine ⟨⟨?_, ?_, ?_⟩, fun _ => rfl, rfl, rfl, ?_, ?_⟩
  · rw [port_of_setCtlUsed, port_modPort, if_pos rfl]
  · intro k hk; rw [port_of_setCtlUsed, port_modPort, if_neg hk]; exact d k hk
  · refine ⟨spend n (takeResult m o code b14 b13 { t with win := w }), ?_, ?_⟩
    · rw [eng_of_setCtlUsed, eng_of_modPort, eng_setRun, if_pos rfl]
    · show (takeResult m o code b14 b13 { t with win := w }).wait = .running
        ∧ breg (takeResult m o code b14 b13 { t with win := w }) 15 = BitVec.ofNat 8 code
        ∧ (takeResult m o code b14 b13 { t with win := w }).work = t.work
        ∧ (takeResult m o code b14 b13 { t with win := w }).holds = t.holds
        ∧ (takeResult m o code b14 b13 { t with win := w }).pc = _
      unfold takeResult; dsimp only
      have hb : ∀ (r : Nat) (v : Byte) (x : Thread), (setB r v x).b = tput x.b r v := fun _ _ _ => rfl
      have key : ∀ x : Thread, x.wait = .running → breg x 15 = BitVec.ofNat 8 code → x.work = t.work → x.holds = t.holds → x.pc = t.pc → x.loops = t.loops →
          (fun r : Thread => r.wait = .running ∧ breg r 15 = BitVec.ofNat 8 code ∧ r.work = t.work ∧ r.holds = t.holds
            ∧ r.pc = (if bit m code then t.pc + o else (loopEnd t.pc t.loops).1)) (if bit m code then branchBy o x else advance x) := by
        intro x h1 h2 h3 h4 h5 h6
        cases hm : bit m code
        · simp only [Bool.false_eq_true, if_false]
          refine ⟨h1, h2, h3, h4, ?_⟩
          show (loopEnd x.pc x.loops).1 = _; rw [h5, h6]
        · simp only [if_true]
          refine ⟨h1, h2, h3, h4, ?_⟩
          show x.pc + o = _; rw [h5]
      have b15 : ∀ (l : Tbl Byte) (r : Nat) (v : Byte), r ≠ 15 → tget 0 l 15 = BitVec.ofNat 8 code → tget 0 (tput l r v) 15 = BitVec.ofNat 8 code := by
        intro l r v hr hl; rw [tget_tput, if_neg (by omega)]; exact hl
      have b0 : tget 0 (tput t.b 15 (BitVec.ofNat 8 code)) 15 = BitVec.ofNat 8 code := by rw [tget_tput, if_pos rfl]
      refine key _ ?_ ?_ ?_ ?_ ?_ ?_
      · split <;> split <;> rfl
      · unfold breg
        split <;> split <;> unfold setB <;> dsimp only
        · exact b15 _ _ _ (by decide) (b15 _ _ _ (by decide) b0)
        · exact b15 _ _ _ (by decide) b0
        · exact b15 _ _ _ (by decide) b0
        · exact b0
      · split <;> split <;> rfl
      · split <;> split <;> rfl
      · split <;> split <;> rfl
      · split <;> split <;> rfl
  · intro k hk; rw [eng_of_setCtlUsed, eng_of_modPort, eng_setRun, if_neg hk]
  · rw [port_of_setCtlUsed, port_modPort, if_pos rfl, ← a0]; rfl

/-- The same with the host's sequence as the result's. -/
theorem goOn_ends {s v : State} {p e : Nat} {t : Thread} {m : Byte} {o : BitVec 14} {tx : Txn} {q : Port} {i : Nat} {y : Item}
    (h : Within s v p e t tx q) (he : tx.engine = some e) (hw : tx.work = .item i) (hi : item? v i = some y) (hst : y.stopAs = none)
    (hh : p ∈ t.holds) (hwt : t.wait = .whs m o ∨ t.wait = .rdat m o) (hb : WaitPaid v t) (code b14 : Nat) :
    Ended p e code t m o s (goOn p tx code b14 v) ∧ (∀ j, item? (goOn p tx code b14 v) j = item? v j)
      ∧ (goOn p tx code b14 v).topo.ctx = v.topo.ctx ∧ (goOn p tx code b14 v).out = v.out
      ∧ (∀ k, k ≠ e → eng (goOn p tx code b14 v) k = eng v k) ∧ port (goOn p tx code b14 v) p = { q with txn := none } :=
  goOnSeq_ends h he hw hi hst hh hwt hb code b14 _

end Sys2Proof.Machine
end

