-- ==== Sys2Proof/Laws/Ports.lean ====
section
/-! SUPPORT. What the operations of a port and its tree leave: events and reports, a port that is torn down. -/

namespace Sys2Proof.Machine

theorem raise_topo (r : EvtReg) (b : Nat) (s : State) : (raise r b s).topo = s.topo :=
  raise_keeps (bl := .topo) r b (Keeps.refl .topo s) (by decide)

theorem raisePort_topo (p b : Nat) (s : State) : (raisePort p b s).topo = s.topo :=
  raisePort_keeps (bl := .topo) p b (Keeps.refl .topo s) (by decide)

theorem port_of_raisePort (p b : Nat) (s : State) (k : Nat) : port (raisePort p b s) k = port s k := by
  unfold port; rw [raisePort_topo]

theorem port_of_addReport (r : Report) (s : State) (k : Nat) : port (addReport r s) k = port s k := by
  unfold addReport; split <;> rfl

theorem port_of_portEvent (p b : Nat) (s : State) (k : Nat) : port (portEvent p b s) k = port s k := by
  unfold portEvent; rw [port_of_raisePort, port_of_addReport]

theorem port_of_addRecord (r : Report) (s : State) (k : Nat) : port (addRecord r s) k = port s k := by
  unfold addRecord; rw [port_of_raisePort, port_of_addReport]

theorem bit_or (v : U32) (b : Nat) (hb : b < 32) : bit (v ||| BitVec.ofNat 32 (2 ^ b)) b = true := by
  unfold bit
  rw [BitVec.getLsbD_or, BitVec.getLsbD_ofNat]
  have : (2 ^ b).testBit b = true := by simp [Nat.testBit_two_pow]
  simp [hb, this]

/-- A raised bit is set. -/
theorem raise_bit (r : EvtReg) (b : Nat) (hb : b < 32) (s : State) : bit (evtWord (raise r b s) (evtKey r)) b = true := by
  rw [raise_raised r b s (evtKey r), if_pos rfl]; exact bit_or _ _ hb

/-- A port event raises its bit. -/
theorem portEvent_bit (p : PortId) (b : Nat) (hb : b < 32) (s : State) : bit (evtWord (portEvent p.val b s) p.val) b = true := by
  unfold portEvent raisePort; rw [dif_pos p.isLt]
  exact raise_bit (.port p) b hb _

/-! Ending an item moves no port: the ports of the tree stay as they are. -/

theorem finish_ports (i : Nat) (st : Byte) (s : State) : (finish i st s).topo.port = s.topo.port := by
  unfold finish flowOut
  split
  · rfl
  · dsimp only
    split
    · rfl
    · split
      · split
        · next f _ => refine (modCtx_rest (flowKey f) _ _).2.2.2.trans ?_; split <;> first | rfl | (unfold dropStaged modItem; dsimp only; split <;> rfl)
        · show (ite _ _ _ : State).topo.port = _; split <;> first | rfl | (unfold dropStaged modItem; dsimp only; split <;> rfl)
      · split <;> first | rfl | (unfold dropStaged modItem; dsimp only; split <;> rfl)

theorem postItem_ports (i : Nat) (s : State) : (postItem i s).topo.port = s.topo.port := by
  unfold postItem flowOut
  split
  · split
    · split
      · next f _ => exact (modCtx_rest (flowKey f) _ _).2.2.2
      · rfl
    · rfl
  · rfl

theorem each_ports {α : Type} (l : List α) (f : α → State → State) (h : ∀ x s, (f x s).topo.port = s.topo.port) (s : State) :
    (each l f s).topo.port = s.topo.port := by
  unfold each
  induction l generalizing s with
  | nil => rfl
  | cons x l ih => exact (ih (f x s)).trans (h x s)

theorem unhold_ports (p : Nat) (s : State) : (unhold p s).topo.port = s.topo.port := by
  unfold unhold; dsimp only
  refine each_ports _ _ (fun w s => ?_) s
  refine each_ports _ _ (fun i s => ?_) s
  split
  · split
    · exact postItem_ports _ _
    · rfl
  · rfl

theorem port_of_finish (i : Nat) (st : Byte) (s : State) (k : Nat) : port (finish i st s) k = port s k := by unfold port; rw [finish_ports]
theorem port_of_postItem (i : Nat) (s : State) (k : Nat) : port (postItem i s) k = port s k := by unfold port; rw [postItem_ports]
theorem port_of_unhold (p : Nat) (s : State) (k : Nat) : port (unhold p s) k = port s k := by unfold port; rw [unhold_ports]

/-- The port whose line has been cleared: no transaction, nothing queued or held, no command waiting. -/
def portCleared (x : Port) : Port := { x with
    txn := none, ended := none, driven := false, lane := [], answer := none, heldBy := none, holdWait := [],
    window := none, sofHold := false, cmdWait := none }

/-- A cleared line: the port has no transaction and no holder. -/
theorem clearLane_port (p : Nat) (s : State) (k : Nat) : port (clearLane p s) k = if k = p then portCleared (port s p) else port s k := by
  have hc : port (clearLane p s) k = port (modPort p portCleared s) k := by
    unfold clearLane; dsimp only
    split
    · split
      · split
        · exact port_of_finish _ _ _ _
        · rfl
      · rfl
    · rfl
  rw [hc, port_modPort]

/-- A port whose tree has been torn down is off. -/
theorem port_of_portGone (p : PortId) (st : Byte) (s : State) :
    ∃ x, port (portGone p.val st s) p.val = { portIdle x with commanded := false, tries := 0 } ∧ x.txn = none ∧ x.heldBy = none
      ∧ x.holdWait = [] ∧ x.window = none ∧ x.sofHold = false ∧ x.lane = [] ∧ x.ended = none ∧ x.driven = false := by
  unfold portGone; rw [dif_pos p.isLt]
  unfold portOff
  refine ⟨portCleared (port (tearDown (.root ⟨p.val, p.isLt⟩) st (abandonCmds (.root ⟨p.val, p.isLt⟩) s)) p.val), ?_, rfl, rfl, rfl, rfl, rfl, rfl, rfl, rfl⟩
  dsimp only
  rw [port_of_emit, port_modPort, if_pos rfl, port_of_unhold, clearLane_port, if_pos rfl]

theorem modPort_port (p : Nat) (g : Port → Port) (s : State) : port (modPort p g s) p = g (port s p) := (port_modPort p p g s).trans (if_pos rfl)
theorem modPort_others (p : Nat) (g : Port → Port) (s : State) : OtherPorts p s (modPort p g s) := fun k hk => (port_modPort p k g s).trans (if_neg hk)
theorem moves_modPort (p : Nat) (g : Port → Port) (s : State) : PortMoves p (g (port s p)) [] s (modPort p g s) :=
  ⟨modPort_port _ _ _, (List.append_nil _).symm, modPort_others _ _ _⟩
theorem PortMoves.emit {p : Nat} {y : Port} {l : List Output} {s u : State} (h : PortMoves p y l s u) (o : Output) :
    PortMoves p y (l ++ [o]) s (emit o u) :=
  ⟨h.1, by show u.out ++ [o] = _; rw [h.2.1, List.append_assoc], fun k hk => h.2.2 k hk⟩
theorem PortMoves.mod {p : Nat} {y : Port} {l : List Output} {s u : State} (h : PortMoves p y l s u) (g : Port → Port) :
    PortMoves p (g y) l s (modPort p g u) :=
  ⟨by rw [modPort_port, h.1], h.2.1, fun k hk => (modPort_others _ _ _ k hk).trans (h.2.2 k hk)⟩
theorem PortMoves.refl (p : Nat) (s : State) : PortMoves p (port s p) [] s s := ⟨rfl, (List.append_nil _).symm, fun _ _ => rfl⟩
theorem PortMoves.link {p : Nat} {y : Port} {l : List Output} {s u : State} (h : PortMoves p y l s u) (code param : Nat) :
    PortMoves p y (l ++ [linkCmd y.gen p code param]) s (sendLink p code param u) := by
  have := h.emit (linkCmd y.gen p code param)
  unfold sendLink send; rw [h.1]; exact this

theorem PortMoves.cmd {p : Nat} {y : Port} {l : List Output} {s u : State} (h : PortMoves p y l s u) (code : Nat) :
    PortMoves p { y with cmdWait := some (code, 1) } (l ++ [linkCmd y.gen p code (cmdParam y code)]) s (sendCmd p code u) := by
  unfold sendCmd
  have := (h.mod (fun x => { x with cmdWait := some (code, 1) })).link code (cmdParam (port u p) code)
  rw [h.1] at this; rw [h.1]; exact this

theorem PortMoves.as {p : Nat} {y z : Port} {l m : List Output} {s u : State} (h : PortMoves p y l s u) (hy : y = z) (hm : l = m) :
    PortMoves p z m s u := by subst hy; subst hm; exact h

theorem linkActive_moves {p : Nat} {y : Port} {l : List Output} {s u : State} (h : PortMoves p y l s u) (he : y.enabled = true) :
    PortMoves p { y with link := .active, trainings := 0, cmdWait := none, capGot := false, doneSent := false, doneGot := false } l s
      (linkActive p u) := by
  unfold linkActive; dsimp only
  rw [modPort_port, h.1]; try dsimp only
  rw [if_pos he]
  exact h.mod _

theorem enterRecovery_port (p : PortId) (g : Gen) (w : State) (k : Nat) : port (enterRecovery (.root p) g w) k = if k = p.val then { port w p.val with
      gen := g, enabled := true, resetting := false, attach := .recovery, trainings := 0, check := 0
      timeouts := 0, babbles := 0, linkErrTotal := 0, recoveries := 0, commanded := false } else port w k := by
  have rd : ∀ (w : State), ∀ k, port (resetDone (.root p) w) k
      = if k = p.val then { port w p.val with commanded := false } else port w k := by
    intro w k
    unfold resetDone; dsimp only
    split
    · rw [port_of_addRecord, port_modPort]
    · rw [port_modPort]
  unfold enterRecovery; dsimp only
  rw [rd, modPort_port]
  split
  · rfl
  · next hk => rw [modPort_others _ _ _ k hk]; rfl

theorem getLast_append (l : List Output) (o : Output) : (l ++ [o]).getLast? = some o := by simp

theorem clearLane_slots (p : Nat) (s : State) : (unhold p (clearLane p s)).slots = s.slots :=
  unhold_keeps (bl := .slots) p (clearLane_keeps (bl := .slots) p (Keeps.refl .slots s) (by decide)) (by decide)

/-- The reset of a root port begins: the port is quiet and its reset is being signalled. Legacy signalling drives a reset on the line, but
not from a die that has declared its core die lost (R20). -/
theorem beginRootReset_does (p : Nat) (s : State) :
    (port (beginRootReset p s) p).attach = .signalling ∧ (port (beginRootReset p s) p).resetting = true
      ∧ (serdesSide { port s p with genUse := genCap (port s p) } = false ∨ genCap (port s p) ≤ 2 ∨ (port s p).farEnd = false →
        highZ s p = false → (beginRootReset p s).out.getLast? = some (.line p .reset)) := by
  unfold beginRootReset; dsimp only
  have hp : port (modPort p (fun x => { portIdle x with resetting := true, attach := .signalling, genUse := genCap x }) (unhold p (clearLane p s))) p
     = { portIdle (portCleared (port s p)) with resetting := true, attach := .signalling, genUse := genCap (port s p) } := by
    rw [port_modPort, if_pos rfl, port_of_unhold, clearLane_port, if_pos rfl]; rfl
  have hz : highZ (modPort p (fun x => { portIdle x with resetting := true, attach := .signalling, genUse := genCap x }) (unhold p (clearLane p s))) p
     = highZ s p := by
    unfold highZ; rw [hp]
    have : (modPort p (fun x => { portIdle x with resetting := true, attach := .signalling, genUse := genCap x }) (unhold p (clearLane p s))).slots
        = s.slots := clearLane_slots p s
    unfold die; rw [this]; rfl
  rw [hz, hp]
  refine ⟨?_, ?_, fun h hh => ?_⟩
  · split
    · rw [port_of_emit, hp]
    · split
      · rw [hp]
      · rw [port_of_emit, hp]
  · split
    · rw [port_of_emit, hp]
    · split
      · rw [hp]
      · rw [port_of_emit, hp]
  · have hs : serdesSide { portIdle (portCleared (port s p)) with resetting := true, attach := .signalling, genUse := genCap (port s p) } = false := by
      unfold serdesSide
      rcases h with h | h | h
      · exact h
      · have : ¬ 3 ≤ genCap (port s p) := by omega
        simp [this]
      · show (_ && (port s p).farEnd) = false
        rw [h]; simp
    rw [hs, hh]
    exact getLast_append _ _

theorem raisePort_bit (p : PortId) (b : Nat) (hb : b < 32) (s : State) : bit (evtWord (raisePort p.val b s) p.val) b = true := by
  unfold raisePort; rw [dif_pos p.isLt]; exact raise_bit (.port p) b hb _
theorem addRecord_bit (p : PortId) (r : Report) (s : State) (h : r.port = p.val) (b : Nat) (hb : b < 32) (hr : reportBit r.kind = b) :
    bit (evtWord (addRecord r s) p.val) b = true := by
  unfold addRecord; rw [h, hr]; exact raisePort_bit p b hb _

/-- A root reset that is due begins, or waits for the end of the transaction in progress; it has been commanded as before. -/
theorem startRootReset_does (p : Nat) (s : State) : (port (startRootReset p s) p).commanded = (port s p).commanded
    ∧ (if (port s p).txn.isSome then (port (startRootReset p s) p).resetDue = true
      else (port (startRootReset p s) p).resetting = true ∧ (port (startRootReset p s) p).attach = .signalling
        ∧ (port (startRootReset p s) p).enabled = false) := by
  unfold startRootReset beginDue
  rw [modPort_port]; dsimp only
  split
  · rw [modPort_port]; exact ⟨rfl, rfl⟩
  · rw [if_pos rfl]
    have h := beginRootReset_does p (modPort p (fun x => { x with resetDue := true }) s)
    refine ⟨?_, h.2.1, h.1, ?_⟩
    all_goals
      unfold beginRootReset; dsimp only
      have hp : ∀ w, port (modPort p (fun x => { portIdle x with resetting := true, attach := .signalling, genUse := genCap x }) (unhold p (clearLane p w))) p
          = { portIdle (portCleared (port w p)) with resetting := true, attach := .signalling, genUse := genCap (port w p) } := fun w => by
        rw [port_modPort, if_pos rfl, port_of_unhold, clearLane_port, if_pos rfl]; rfl
      split
      · rw [port_of_emit, hp, modPort_port]; rfl
      · split
        · rw [hp, modPort_port]; rfl
        · rw [port_of_emit, hp, modPort_port]; rfl

/-! Requests of the part's own. -/

/-- A context counts one more submission; the rest of every context stays. -/
theorem subNext_ctx (k j : Nat) (s : State) (c : Ctx) (h : tfind s.topo.ctx j = some c) :
    ∃ c', tfind (modCtx k (fun c => { c with subNext := c.subNext + 1 }) s).topo.ctx j = some c' ∧ { c' with subNext := c.subNext } = c := by
  unfold modCtx
  split
  · next y hy =>
    show ∃ c', tfind (tput s.topo.ctx k _) j = some c' ∧ _
    rw [tfind_tput]
    by_cases hj : j = k
    · rw [if_pos hj]; rw [hj, hy] at h; cases h; exact ⟨_, rfl, rfl⟩
    · rw [if_neg hj]; exact ⟨c, h, rfl⟩
  · exact ⟨c, h, rfl⟩

theorem shareFull_of {s t : State} (hf : t.front = s.front) (hn : t.fns = s.fns) (f : Nat) : shareFull t f = shareFull s f := by
  unfold shareFull share shareFuncs shareUsed workUsed fn; dsimp only; rw [hf, hn]

/-- Work of the part's own that has room is at work at once, and moves nothing on the ports. -/
theorem askWork_does (num : Nat) (a : Option U64) (s : State) (c : Ctx) (hr : s.front.requests = []) (hf : shareFull s 0 = false)
    (hc : ctx? s num 0 false = some c) : Asks s.front.nextItem num a (askWork num a s) ∧ (askWork num a s).out = s.out
      ∧ (askWork num a s).topo.port = s.topo.port ∧ (askWork num a s).topo.dev = s.topo.dev ∧ (askWork num a s).topo.handle = s.topo.handle
      ∧ (askWork num a s).free = s.free ∧ (askWork num a s).front.requests = []
      ∧ (askWork num a s).front.nextItem = s.front.nextItem + 1
      ∧ (∀ j, j ≠ s.front.nextItem → item? (askWork num a s) j = item? s j)
      ∧ ∀ n ep d c, ctx? s n ep d = some c → ∃ c', ctx? (askWork num a s) n ep d = some c' ∧ { c' with subNext := c.subNext } = c := by
  have e1 : askWork num a s = postWork (requestBody s num c a) 0 a a.isNone s := by
    unfold askWork postRequests each
    have e0 : (({ s with front := { s.front with requests := s.front.requests ++ [(num, a)] } } : State).front.requests) = [(num, a)] := by
      show s.front.requests ++ [(num, a)] = _; rw [hr]; rfl
    have e2 : { s with front := { s.front with requests := [] } } = s := by
      have : { s.front with requests := [] } = s.front := by rw [← hr]
      rw [this]
    dsimp only
    rw [hr]
    show postRequest (num, a) { s with front := { s.front with requests := [] } } = _
    rw [e2]
    unfold postRequest
    rw [show ctx? s (num, a).1 0 false = some c from hc]; dsimp only
    rw [if_neg (by rw [hf]; decide)]
  obtain ⟨t, ht⟩ : ∃ t, askWork num a s = t := ⟨_, rfl⟩
  rw [ht]; rw [ht] at e1; clear ht
  unfold postWork flowIn at e1; dsimp only at e1
  have hm := modCtx_rest (flowKey ⟨(requestBody s num c a).handle, if field (requestBody s num c a).epaddr 0 4 = 0 then 0 else (requestBody s num c a).epaddr⟩)
    (fun c => { c with subNext := c.subNext + 1 })
  have hd : ∀ k g (w : State), (modCtx k g w).topo.dev = w.topo.dev ∧ (modCtx k g w).topo.handle = w.topo.handle ∧ (modCtx k g w).free = w.free := by
    intro k g w; unfold modCtx; split <;> exact ⟨rfl, rfl, rfl⟩
  subst e1
  refine ⟨?_, (hm _).2.2.1, (hm _).2.2.2, (hd _ _ _).1, (hd _ _ _).2.1, (hd _ _ _).2.2, ?_, ?_, fun j hj => ?_, fun n ep d c h => subNext_ctx _ _ _ _ h⟩
  · obtain ⟨c', h1, h2⟩ := subNext_ctx (flowKey ⟨(requestBody s num c a).handle, if field (requestBody s num c a).epaddr 0 4 = 0 then 0 else (requestBody s num c a).epaddr⟩)
      (ctxKey num 0 false)
      { s with front := { s.front with
        items := tput s.front.items s.front.nextItem
          { func := 0, posted := some (requestBody s num c a), setup := a, poll := a.isNone, slot := .work,
            level := if (requestBody s num c a).lastGasp then 7 else 6, port := (requestBody s num c a).port.val,
            flow := some ⟨(requestBody s num c a).handle, if field (requestBody s num c a).epaddr 0 4 = 0 then 0 else (requestBody s num c a).epaddr⟩,
            flowSeq := s.front.nextFlowSeq, seen := absUframe s,
            offer := affinityOf s ⟨(requestBody s num c a).handle, if field (requestBody s num c a).epaddr 0 4 = 0 then 0 else (requestBody s num c a).epaddr⟩ },
        nextItem := s.front.nextItem + 1, nextFlowSeq := s.front.nextFlowSeq + 1 } } c hc
    refine ⟨c', _, h1, (item_of_modCtx _ _ _ _).trans (tfind_tput_same _ _ _), rfl, rfl, ?_, rfl, rfl, rfl, ?_⟩
    · cases a <;> rfl
    · have hh : ∀ k g (w : State), handleWord (modCtx k g w) num = handleWord w num := fun k g w => by
        unfold handleWord handle; rw [(hd k g w).2.1]
      congr 1
      unfold requestBody
      cases a <;> · dsimp only; rw [hh, show c'.port = c.port from by rw [← h2]]; rfl
  · rw [(hm _).2.1]; exact hr
  · rw [(hm _).2.1]
  · exact (item_of_modCtx _ _ _ _).trans (tfind_tput_ne _ _ _ _ hj)

end Sys2Proof.Machine
end

