-- ==== Sys2Proof/Laws/Counts.lean ====
section
/-! SUPPORT. What ending items leaves, and the counts of errors. -/

namespace Sys2Proof.Machine

theorem tput_tput {α : Type} (t : Tbl α) (k : Nat) (a b : α) : tput (tput t k a) k b = tput t k b := by
  induction t with
  | nil => simp [tput]
  | cons e r ih =>
    obtain ⟨j, w⟩ := e
    simp only [tput]
    split
    · next h => simp [tput]
    · split
      · next h1 h2 => simp [tput]
      · next h1 h2 => simp [tput, h1, h2, ih]

/-! ### Ending items -/

/-- Items have ended, and nothing else has changed: the lists of items, the endpoint contexts' counts, the waiting floating transfers,
the compare units' entries and the DMA contexts. -/
def EndsItems (s t : State) : Prop := ∃ fr cx fw cm dc, t = { s with
  front := fr, topo := { s.topo with ctx := cx }, sch := { s.sch with floatWait := fw }, tb := { s.tb with cmp := cm }
  dma := { s.dma with ctx := dc } }

theorem EndsItems.refl (s : State) : EndsItems s s := ⟨_, _, _, _, _, rfl⟩
theorem EndsItems.trans {s t u : State} (h : EndsItems s t) (k : EndsItems t u) : EndsItems s u := by
  obtain ⟨a, b, c, d, e, rfl⟩ := h; obtain ⟨a', b', c', d', e', rfl⟩ := k; exact ⟨_, _, _, _, _, rfl⟩
theorem EndsItems.each {α : Type} (l : List α) (f : α → State → State) (h : ∀ x s, EndsItems s (f x s)) (s : State) : EndsItems s (each l f s) := by
  unfold Machine.each
  induction l generalizing s with
  | nil => exact .refl s
  | cons x l ih => exact (h x s).trans (ih (f x s))

theorem flowOut_ends (f : Option Flow) (s : State) : EndsItems s (flowOut f s) := by
  unfold flowOut modCtx; split
  · split <;> exact ⟨_, _, _, _, _, rfl⟩
  · exact .refl s
theorem dropStaged_ends (i : Nat) (s : State) : EndsItems s (dropStaged i s) := by
  unfold dropStaged modItem; dsimp only; split <;> exact ⟨_, _, _, _, _, rfl⟩
theorem finish_ends (i : Nat) (st : Byte) (s : State) : EndsItems s (finish i st s) := by
  unfold finish
  split
  · exact .refl s
  · dsimp only
    split
    · exact .refl s
    · next x _ _ =>
      have h0 : EndsItems s (dropFromFloat i (dropFromUnit i (setItem s i { x with
          status := some st, awaitFin := false, stamp := if x.begun then x.stamp else nowStamp s x, wireDone := true, stopAs := none }))) :=
        ⟨_, _, _, _, _, rfl⟩
      have h1 : ∀ w : State, EndsItems s w → EndsItems s (if discards st = true then dropStaged i w else w) := fun w h => by
        split
        · exact h.trans (dropStaged_ends i w)
        · exact h
      split
      · exact ((h1 _ h0).trans (flowOut_ends _ _)).trans ⟨_, _, _, _, _, rfl⟩
      · exact h1 _ h0
theorem postItem_ends (i : Nat) (s : State) : EndsItems s (postItem i s) := by
  unfold postItem
  split
  · split
    · exact (flowOut_ends _ _).trans ⟨_, _, _, _, _, rfl⟩
    · exact ⟨_, _, _, _, _, rfl⟩
  · exact .refl s
theorem stopItem_ends (st : Byte) (i : Nat) (s : State) : EndsItems s (stopItem st i s) := by
  unfold stopItem
  split
  · unfold modItem; split <;> exact ⟨_, _, _, _, _, rfl⟩
  · exact finish_ends _ _ _

/-- A cleared line: the port is quiet, and items may have ended. -/
theorem clearLane_ends (p : Nat) (s : State) : EndsItems (modPort p portCleared s) (clearLane p s) := by
  unfold clearLane; dsimp only
  split
  · split
    · split
      · exact finish_ends _ _ _
      · exact .refl _
    · exact .refl _
  · exact .refl _

/-- The threads that held a port hold it no longer, and items that waited for the parked ones' end may have ended. -/
theorem unhold_ends (p : Nat) (s : State) : ∃ t e, EndsItems s t ∧ unhold p s = { t with eng := e } := by
  unfold unhold; dsimp only
  refine ⟨_, _, EndsItems.each _ _ (fun w s => EndsItems.each _ _ (fun i s => ?_) s) s, rfl⟩
  split
  · split
    · exact postItem_ends _ _
    · exact .refl _
  · exact .refl _

/-! ### The counts of errors -/

theorem errClass_put (s : State) (c : Nat) (e : Errs) (x : ErrClass) (h : e.cls = tput s.err.cls c x) (d : Nat) :
    errClass { s with err := e } d = if d = c then x else errClass s d := by
  unfold errClass; dsimp only; rw [h, tget_tput]

theorem errClass_mod (c d : Nat) (g : ErrClass → ErrClass) (s : State) : errClass (modErr c g s) d = if d = c then g (errClass s c) else errClass s d := by
  unfold modErr; rw [errClass_put s c _ _ rfl]

theorem rollWindow_class (c : Nat) (s : State) : errClass (rollWindow c s) c = rolledClass s c := by
  unfold rollWindow rolledClass
  split
  · rfl
  · rw [errClass_mod, if_pos rfl]

theorem rolledClass_of {s t : State} (h : t.err = s.err) (he : t.tb.epoch = s.tb.epoch) (c : Nat) : rolledClass t c = rolledClass s c := by
  unfold rolledClass errWindow errClass; rw [h, he]

theorem rolledClass_cfg (s : State) (c : Nat) : (rolledClass s c).cfg = (errClass s c).cfg ∧ (rolledClass s c).total = (errClass s c).total
    ∧ (rolledClass s c).lasting = (errClass s c).lasting ∧ (rolledClass s c).stopped = (errClass s c).stopped := by
  unfold rolledClass; split <;> exact ⟨rfl, rfl, rfl, rfl⟩

/-- The state after an error has been counted and before it is judged. -/
def tallied (c i k : Nat) (s : State) : State :=
  { s with err := { s.err with
      last := BitVec.ofNat 64 (c + k * 2 ^ 4 + i * 2 ^ 8 + epoch32 s 0 * 2 ^ 32)
      cls := tput s.err.cls c { rolledClass s c with
        total := (errClass s c).total + 1, counts := tput (rolledClass s c).counts i (tget 0 (rolledClass s c).counts i + 1) } } }

theorem tallied_class (c i k : Nat) (s : State) : errClass (tallied c i k s) c = { rolledClass s c with
    total := (errClass s c).total + 1, counts := tput (rolledClass s c).counts i (tget 0 (rolledClass s c).counts i + 1) } := by
  unfold tallied; rw [errClass_put s c _ _ rfl, if_pos rfl]

/-- An error of a member whose count has not stopped. -/
theorem count_is (c i k : Nat) (s : State) (h1 : i ∉ (errClass s c).stopped) :
    countError c i k s = if errT (errClass s c) ≤ tget 0 (rolledClass s c).counts i + 1 then
      lastingAction c i (raise .err 0 (modErr c (fun x => { x with
        stopped := if c = 6 then x.stopped else i :: x.stopped
        lasting := if x.lasting = 0xFFFF then x.lasting else x.lasting + 1 }) (tallied c i k s)))
      else tallied c i k s := by
  have h0 : ∀ (g : ErrClass → ErrClass) (l : U64), { modErr c g (rollWindow c s) with err := { (modErr c g (rollWindow c s)).err with last := l } }
      = { s with err := { s.err with last := l, cls := tput s.err.cls c (g (rolledClass s c)) } } := by
    intro g l
    unfold modErr; rw [rollWindow_class]
    unfold rollWindow rolledClass
    split
    · rfl
    · unfold modErr; dsimp only; rw [tput_tput]
  have he : epoch32 (rollWindow c s) 0 = epoch32 s 0 := by unfold rollWindow; split <;> rfl
  have ht : { modErr c (fun x => { x with
        total := x.total + 1, counts := tput x.counts i (tget 0 (errClass (rollWindow c s) c).counts i + 1) }) (rollWindow c s) with
        err := { (modErr c (fun x => { x with
          total := x.total + 1, counts := tput x.counts i (tget 0 (errClass (rollWindow c s) c).counts i + 1) }) (rollWindow c s)).err with
          last := BitVec.ofNat 64 (c + k * 2 ^ 4 + i * 2 ^ 8 + epoch32 (rollWindow c s) 0 * 2 ^ 32) } } = tallied c i k s := by
    rw [h0, rollWindow_class, he]; unfold tallied; rw [(rolledClass_cfg s c).2.1]
  unfold countError
  rw [if_neg (by unfold stoppedCounting; simpa using h1)]
  have hT : errT (errClass (tallied c i k s) c) = errT (errClass s c) := by
    rw [tallied_class]; unfold errT; dsimp only; rw [(rolledClass_cfg s c).1]
  rw [← hT, ← rollWindow_class, ← ht]
  rfl

theorem count_below (c i k : Nat) (s : State) (h1 : i ∉ (errClass s c).stopped) (h2 : tget 0 (rolledClass s c).counts i + 1 < errT (errClass s c)) :
    countError c i k s = tallied c i k s := by
  rw [count_is c i k s h1, if_neg (by omega)]

end Sys2Proof.Machine
end

