-- ==== Sys2Proof/Laws/Funcs.lean ====
section
/-! SUPPORT. What the operations on queues, completion rings and items leave of the functions and the items. -/

namespace Sys2Proof.Machine

/-- A projection that vectors do not show in is the same. -/
theorem SameFuncs.proj {s t : State} (h : SameFuncs s t) {α : Type} (π : Func → α) (hπ : ∀ x v, π { x with vecs := v } = π x) (f : Nat) :
    π (fn t f) = π (fn s f) :=
  (hπ (fn t f) []).symm.trans ((congrArg π (h f)).trans (hπ (fn s f) []))

theorem sq_modSq (f q : Nat) (g : Sq → Sq) (s : State) (h k : Nat) :
    sq (modSq f q g s) h k = if h = f ∧ k = q then g (sq s f q) else sq s h k := by
  unfold sq modSq; rw [fn_modFn]
  by_cases hf : h = f
  · subst hf; simp only [if_pos, true_and, tget_tput]
  · simp [hf]

theorem issueFetch_same (f q : Nat) (s : State) : (issueFetch f q s).front = s.front ∧ (issueFetch f q s).fns = s.fns
    ∧ (issueFetch f q s).tb = s.tb := by
  unfold issueFetch; split <;> exact ⟨rfl, rfl, rfl⟩

theorem issueIndex_same (i : Nat) (s : State) : (issueIndex i s).front = s.front ∧ (issueIndex i s).fns = s.fns
    ∧ (issueIndex i s).tb = s.tb := by
  unfold issueIndex; split
  · split <;> exact ⟨rfl, rfl, rfl⟩
  · exact ⟨rfl, rfl, rfl⟩

theorem finish_fns (i : Nat) (st : Byte) (s : State) : (finish i st s).fns = s.fns :=
  finish_keeps (bl := .fns) i st (Keeps.refl .fns s) (by decide)
theorem stopAll_fns (l : List Nat) (st : Byte) (s : State) : (each l (stopItem st) s).fns = s.fns :=
  each_keeps (bl := .fns) (s0 := s) l _ (fun i v hv => stopItem_keeps (bl := .fns) _ i hv (by decide)) (Keeps.refl .fns s)

theorem haltFunc_halts (f c : Nat) (hf : f < 128) (w : State) : (fn (haltFunc f c w) f).halted = true := by
  unfold haltFunc
  split
  · assumption
  · dsimp only
    have hq : ∀ u : State, (fn (raiseQ f 0 u) f).halted = (fn u f).halted := by
      intro u; unfold raiseQ; rw [dif_pos hf]
      have h := congrArg Func.halted (raise_sameFuncs (.q ⟨f, hf⟩) 0 u f)
      exact h
    rw [hq]; unfold fn; rw [stopAll_fns]
    show (fn (modFn f _ w) f).halted = true
    rw [fn_modFn, if_pos rfl]

/-- A projection of a function that the dirty map does not show in. -/
theorem hostWrite_proj {α : Type} (π : Func → α) (hπ : ∀ x d o, π { x with dirty := d, dirtyOvf := o } = π x) (f a : Nat) (d : List Byte) (s : State) (k : Nat) :
    π (fn (hostWrite f a d s) k) = π (fn s k) := by
  have h1 : ∀ (x : Func) d, π { x with dirty := d } = π x := fun x d => hπ x d x.dirtyOvf
  have h2 : ∀ (x : Func) o, π { x with dirtyOvf := o } = π x := fun x o => hπ x x.dirty o
  have hm : ∀ (p : Nat) (u : State), π (fn (markPage f p u) k) = π (fn u k) := by
    intro p u
    unfold markPage; dsimp only
    split
    · rw [fn_setFn]; split
      · next h => rw [h2, h]
      · rfl
    · split
      · rfl
      · rw [fn_setFn]; split
        · next h => rw [h1, h]
        · rfl
  unfold hostWrite
  split
  · rfl
  · dsimp only; split
    · unfold each
      generalize pagesTouched a d.length = l
      rw [show π (fn s k) = π (fn (emit (.hostWrite f a d) s) k) from rfl]
      generalize emit (.hostWrite f a d) s = u
      induction l generalizing u with
      | nil => rfl
      | cons p r ih => exact (ih (markPage f p u)).trans (hm p u)
    · rfl

theorem hostWrite_grows (f a : Nat) (d : List Byte) (s : State) : Grows s (hostWrite f a d s) := by
  have hm : ∀ (p : Nat) (u : State), Grows u (markPage f p u) := by
    intro p u; unfold markPage; dsimp only; split
    · exact ⟨[], by simp [setFn]⟩
    · split
      · exact Grows.refl u
      · exact ⟨[], by simp [setFn]⟩
  unfold hostWrite; split
  · exact Grows.refl s
  · dsimp only; split
    · exact (emit_grows _ _).trans (each_grows _ _ _ hm)
    · exact emit_grows _ _

theorem flushDirty_proj {α : Type} (π : Func → α) (hπ : ∀ x d o, π { x with dirty := d, dirtyOvf := o } = π x) (f : Nat) (s : State) (k : Nat) :
    π (fn (flushDirty f s) k) = π (fn s k) := by
  unfold flushDirty; split
  · dsimp only
    have e0 : π (fn (setFn s f { fn s f with dirty := [] }) k) = π (fn s k) := by
      rw [fn_setFn]; split
      · next h => rw [h]; exact hπ (fn s f) [] (fn s f).dirtyOvf
      · rfl
    rw [← e0]
    generalize setFn s f { fn s f with dirty := [] } = u
    unfold each
    generalize (fn s f).dirty = l
    induction l generalizing u with
    | nil => rfl
    | cons p r ih => exact (ih _).trans (hostWrite_proj π hπ 0 _ [1] u k)
  · rfl

theorem cr_modCr (f r : Nat) (g : Cr → Cr) (s : State) (h k : Nat) :
    cr (modCr f r g s) h k = if h = f ∧ k = r then g (cr s f r) else cr s h k := by
  unfold cr modCr; rw [fn_modFn]
  by_cases hf : h = f
  · subst hf; simp only [if_pos, true_and, tget_tput]
  · simp [hf]

/-- A projection of a function that neither its rings nor its vectors nor the dirty map show in. -/
theorem crWrite_does (f r : Nat) (w : WaitRec) (sp : Bool) (head : U16) (s : State) :
    Grows s (crWrite f r w sp head s)
    ∧ Output.hostWrite f ((cr s f r).base.toNat + 16 * ((cr s f r).p.toNat % cfgSize (cr s f r).cfg))
        (completionBytes w (crPhase (cr s f r)) sp head) ∈ (crWrite f r w sp head s).out
    ∧ cr (crWrite f r w sp head s) f r = { cr s f r with p := (cr s f r).p + 1 }
    ∧ (∀ k, (fn (crWrite f r w sp head s) k).sq = (fn s k).sq) ∧ (crWrite f r w sp head s).front = s.front := by
  have hne : ∀ ph, completionBytes w ph sp head ≠ [] := by intro ph; unfold completionBytes; simp [natLE]
  unfold crWrite; dsimp only
  have p1 : cr (flushDirty f s) f r = cr s f r := by
    unfold cr; exact congrArg (tget {} · r) (flushDirty_proj Func.cr (fun _ _ _ => rfl) f s f)
  have p2 := fun k => flushDirty_proj Func.sq (fun _ _ _ => rfl) f s k
  have p3 : (flushDirty f s).front = s.front := flushDirty_keeps (bl := .front) f (Keeps.refl .front s) (by decide)
  have p4 : Grows s (flushDirty f s) := by
    unfold flushDirty; split
    · exact Grows.trans ⟨[], by simp [setFn]⟩ (each_grows _ _ _ (fun _ _ => hostWrite_grows _ _ _ _))
    · exact Grows.refl s
  generalize flushDirty f s = u at p1 p2 p3 p4
  rw [p1]
  generalize hA : (cr s f r).base.toNat + 16 * ((cr s f r).p.toNat % cfgSize (cr s f r).cfg) = A
  generalize hD : completionBytes w (crPhase (cr s f r)) sp head = D
  have hD' : D ≠ [] := hD ▸ hne _
  have q1 : cr (hostWrite f A D u) f r = cr s f r := by
    rw [← p1]; unfold cr; exact congrArg (tget {} · r) (hostWrite_proj Func.cr (fun _ _ _ => rfl) f A D u f)
  have q2 := fun k => hostWrite_proj Func.sq (fun _ _ _ => rfl) f A D u k
  have q3 : (hostWrite f A D u).front = u.front := hostWrite_keeps (bl := .front) f A D (Keeps.refl .front u) (by decide)
  have q5 := hostWrite_mem f A D u hD'
  have q4 := hostWrite_grows f A D u
  generalize hostWrite f A D u = v at *
  have r1 : cr (modCr f r (fun y => { y with p := y.p + 1 }) v) f r = { cr s f r with p := (cr s f r).p + 1 } := by
    rw [cr_modCr, if_pos ⟨rfl, rfl⟩, q1]
  have r2 : ∀ k, (fn (modCr f r (fun y => { y with p := y.p + 1 }) v) k).sq = (fn v k).sq := by
    intro k; unfold modCr; rw [fn_modFn]; split
    · next h => rw [h]
    · rfl
  have r3 : (modCr f r (fun y => { y with p := y.p + 1 }) v).front = v.front := rfl
  have r4 : (modCr f r (fun y => { y with p := y.p + 1 }) v).out = v.out := rfl
  generalize modCr f r (fun y => { y with p := y.p + 1 }) v = z at *
  have gz : Grows s z := (p4.trans q4).trans ⟨[], by rw [r4]; simp⟩
  split
  · have g := countEvent_grows f (cfgVector (cr s f r).cfg) z
    have sf := countEvent_sameFuncs f (cfgVector (cr s f r).cfg) z
    refine ⟨gz.trans g, g.mem (r4 ▸ q5), ?_, fun k => ?_, ?_⟩
    · rw [← r1]; unfold cr
      have h := congrArg Func.cr (sf f)
      exact congrArg (tget {} · r) h
    · have h := congrArg Func.sq (sf k)
      exact Eq.trans h ((r2 k).trans ((q2 k).trans (p2 k)))
    · have r6 : (countEvent f (cfgVector (cr s f r).cfg) z).front = z.front := countEvent_keeps (bl := .front) f _ (Keeps.refl .front z) (by decide)
      exact r6.trans (r3.trans (q3.trans p3))
  · exact ⟨gz, r4 ▸ q5, r1, fun k => (r2 k).trans ((q2 k).trans (p2 k)), r3.trans (q3.trans p3)⟩

theorem raiseQ_same (f b : Nat) (s : State) : SameFuncs s (raiseQ f b s) ∧ Grows s (raiseQ f b s) ∧ (raiseQ f b s).front = s.front
    ∧ (raiseQ f b s).sch = s.sch := by
  unfold raiseQ; split
  · exact ⟨raise_sameFuncs _ _ _, raise_grows _ _ _, raise_keeps (bl := .front) _ _ (Keeps.refl .front s) (by decide),
      raise_keeps (bl := .sch) _ _ (Keeps.refl .sch s) (by decide)⟩
  · exact ⟨sameFuncs_refl _, Grows.refl _, rfl, rfl⟩

theorem stopItem_others (st : Byte) (j : Nat) (s : State) (i : Nat) (h : i ≠ j) : item? (stopItem st j s) i = item? s i := by
  unfold stopItem; split
  · rw [item_modItem, if_neg h]
  · unfold finish
    cases hx : item? s j with
    | none => rfl
    | some x =>
      dsimp only; split
      · rfl
      · have h0 : ∀ y : Item, item? (dropFromFloat j (dropFromUnit j (setItem s j y))) i = item? s i := fun y => tfind_tput_ne _ _ _ _ h
        have h1 : ∀ w : State, item? (if discards st then dropStaged j w else w) i = item? w i := fun w => by
          split
          · unfold dropStaged
            show item? (modItem j _ _) i = _
            rw [item_modItem, if_neg h]
          · rfl
        split
        · show tfind (tdel (flowOut _ _).front.items j) i = _
          rw [tfind_tdel, if_neg h]
          unfold flowOut
          split
          · exact (item_of_modCtx _ _ _ _).trans ((h1 _).trans (h0 _))
          · exact (h1 _).trans (h0 _)
        · exact (h1 _).trans (h0 _)

/-- What the reply to a command leaves of the functions: all that neither the dirty map nor the vectors show in. -/
theorem reply_proj {α : Type} (π : Func → α) (hπ : ∀ x d o, π { x with dirty := d, dirtyOvf := o } = π x)
    (hv : ∀ x v, π { x with vecs := v } = π x) (ctx : CmdCtx) (code : Nat) (body : List Byte) (s : State) (k : Nat) :
    π (fn (reply ctx code body s) k) = π (fn s k) := by
  have hc : ∀ (b : Nat) (n : Notice) (u : State), π (fn (commitOut b n u) k) = π (fn u k) := by
    intro b n u
    unfold commitOut; dsimp only
    split
    · split
      · exact (countEvent_sameFuncs _ _ _).proj π hv k
      · rfl
    · split
      · split
        · exact (countEvent_sameFuncs _ _ _).proj π hv k
        · rfl
      · split <;> rfl
  have hp : ∀ (b : Nat) (n : Notice) (u : State), π (fn (postOut b n u) k) = π (fn u k) := by
    intro b n u
    unfold postOut; dsimp only
    split
    · rfl
    · exact hc b n u
  have hw : ∀ (b : Nat) (a : U64) (d : List Byte) (n : Notice) (u : State), π (fn (writeReply b a d n u) k) = π (fn u k) := by
    intro b a d n u
    unfold writeReply
    split
    · exact hp _ _ _
    · split
      · exact hp _ _ _
      · split
        · exact (hp _ _ _).trans (hostWrite_proj π hπ _ _ _ _ _)
        · rfl
  unfold reply; dsimp only
  refine (hw _ _ _ _ _).trans ?_
  split <;> rfl

theorem startReading_same (f q m : Nat) (s : State) : (startReading f q m s).front = s.front
    ∧ (sq (startReading f q m s) f q).inval = (sq s f q).inval ∧ (sq (startReading f q m s) f q).p = (sq s f q).p
    ∧ (sq (startReading f q m s) f q).c = (sq s f q).c ∧ (sq (startReading f q m s) f q).f = (sq s f q).f := by
  have key : ∀ g : Sq → Sq, sq (modSq f q g s) f q = g (sq s f q) := fun g => (sq_modSq f q g s f q).trans (if_pos ⟨rfl, rfl⟩)
  unfold startReading leaveUnread; dsimp only
  split
  · split
    · have e : ∀ w, sq (readNext f q w) f q = sq w f q := fun _ => rfl
      rw [e, key]; exact ⟨rfl, rfl, rfl, rfl, rfl⟩
    · rw [key]; exact ⟨rfl, rfl, rfl, rfl, rfl⟩
  · exact ⟨rfl, rfl, rfl, rfl, rfl⟩

end Sys2Proof.Machine
end

