-- ==== Sys2Proof/Laws/Lanes.lean ====
section
/-! SUPPORT. What an engine's request does on a lane that has nothing to do: the state from which a token leaves differs from the
one before only in the engine, so that everything the token carries is as before. -/

namespace Sys2Proof.Machine

/-- The states differ in the engines and in what the lanes have queued. -/
def SameLine (s u : State) : Prop := ∃ E P, u = { s with eng := { s.eng with eng := E }, topo := { s.topo with port := P } }
  ∧ ∀ k, ∃ L, tget {} P k = { port s k with lane := L }

theorem SameLine.refl (s : State) : SameLine s s := ⟨s.eng.eng, s.topo.port, rfl, fun k => ⟨(port s k).lane, rfl⟩⟩

theorem SameLine.port {s u : State} (h : SameLine s u) (k : Nat) : ∃ L, Machine.port u k = { Machine.port s k with lane := L } := by
  obtain ⟨E, P, rfl, h⟩ := h; exact h k

theorem SameLine.setRun {s u : State} (h : SameLine s u) (e : Nat) (t : Thread) : SameLine s (Machine.setRun e t u) := by
  obtain ⟨E, P, rfl, h⟩ := h; exact ⟨_, P, rfl, h⟩

theorem SameLine.lane {s u : State} (h : SameLine s u) (p : Nat) (g : List (Nat × Work × LaneOp) → List (Nat × Work × LaneOp)) :
    SameLine s (modPort p (fun x => { x with lane := g x.lane }) u) := by
  obtain ⟨E, P, rfl, h⟩ := h
  refine ⟨E, _, rfl, fun k => ?_⟩
  have := port_modPort p k (fun x => { x with lane := g x.lane }) { s with eng := { s.eng with eng := E }, topo := { s.topo with port := P } }
  obtain ⟨L, hL⟩ := h k
  refine ⟨if k = p then g L else L, Eq.trans this ?_⟩
  clear this
  have hL' : Machine.port { s with eng := { s.eng with eng := E }, topo := { s.topo with port := P } } k = { Machine.port s k with lane := L } := hL
  split
  · next hk => subst hk; rw [hL']
  · next hk => exact hL'

theorem SameLine.lineOpen {s u : State} (h : SameLine s u) (p : Nat) : Machine.lineOpen u p = Machine.lineOpen s p := by
  obtain ⟨L, hp⟩ := h.port p
  unfold Machine.lineOpen highZ; rw [hp]
  obtain ⟨E, P, rfl, -⟩ := h; rfl

theorem SameLine.lineFree {s u : State} (h : SameLine s u) (p : Nat) : Machine.lineFree u p = Machine.lineFree s p := by
  obtain ⟨L, hp⟩ := h.port p
  unfold Machine.lineFree; rw [hp]

theorem SameLine.hubPort {s u : State} (h : SameLine s u) (n q : Nat) : Machine.hubPort u n q = Machine.hubPort s n q := by
  obtain ⟨E, P, rfl, -⟩ := h; rfl

theorem SameLine.dev? {s u : State} (h : SameLine s u) (n : Nat) : Machine.dev? u n = Machine.dev? s n := by
  obtain ⟨E, P, rfl, -⟩ := h; rfl

theorem SameLine.pathSuspended {s u : State} (h : SameLine s u) (d : Device) : Machine.pathSuspended u d = Machine.pathSuspended s d := by
  obtain ⟨L, hp⟩ := h.port d.port
  unfold Machine.pathSuspended; rw [hp]
  obtain ⟨E, P, rfl, -⟩ := h; rfl

theorem SameLine.resetAt {s u : State} (h : SameLine s u) (l : Loc) : Machine.resetAt u l = Machine.resetAt s l := by
  cases l with
  | root p =>
    obtain ⟨L, hp⟩ := h.port p.val
    show (_ || _) = (_ || _); rw [hp]
  | hub n q =>
    have hl : locPort u (.hub n q) = locPort s (.hub n q) := by unfold locPort; dsimp only; rw [h.dev?]
    obtain ⟨L, hp⟩ := h.port (locPort s (.hub n q))
    show (_ || _) = (_ || _); rw [h.hubPort, hl, hp]

theorem SameLine.locAttach {s u : State} (h : SameLine s u) (l : Loc) : Machine.locAttach u l = Machine.locAttach s l := by
  cases l with
  | root p => obtain ⟨L, hp⟩ := h.port p.val; show (Machine.port u p.val).attach = _; rw [hp]; rfl
  | hub n q => show (Machine.hubPort u n.val q.val).attach = _; rw [h.hubPort]; rfl

theorem SameLine.item? {s u : State} (h : SameLine s u) (i : Nat) : Machine.item? u i = Machine.item? s i := by
  obtain ⟨E, P, rfl, -⟩ := h; rfl

theorem SameLine.workHandle {s u : State} (h : SameLine s u) (w : Work) : Machine.workHandle u w = Machine.workHandle s w := by
  obtain ⟨E, P, rfl, -⟩ := h; rfl

theorem SameLine.workPlace {s u : State} (h : SameLine s u) (w : Work) : Machine.workPlace u w = Machine.workPlace s w := by
  have e : ∀ d, placeOpen u (field (Machine.workHandle u w) 0 12) d = placeOpen s (field (Machine.workHandle s w) 0 12) d := by
    intro d
    obtain ⟨L, hp⟩ := h.port d.port
    unfold placeOpen; rw [h.pathSuspended, h.resetAt, h.locAttach, h.workHandle, hp]
  unfold Machine.workPlace
  dsimp only
  rw [h.dev?, h.workHandle]
  have e' : ∀ d, placeOpen u (field (Machine.workHandle s w) 0 12) d = placeOpen s (field (Machine.workHandle s w) 0 12) d := by
    intro d; rw [← e d, h.workHandle]
  congr 1
  · cases w <;> first | rfl | (dsimp only; rw [h.item?])
  · split <;> [exact e' _; rfl]

theorem SameLine.fits {s u : State} (h : SameLine s u) (p c : Nat) (b : Bool) : Machine.fits u p c b = Machine.fits s p c b := by
  obtain ⟨L, hp⟩ := h.port p
  unfold Machine.fits unitEnd unitTime'; rw [hp]
  obtain ⟨E, P, rfl, -⟩ := h; rfl

theorem SameLine.gaspToken {s u : State} (h : SameLine s u) (n : Nat) (c : Ctx) (w : Work) :
    Machine.gaspToken u n c w = Machine.gaspToken s n c w := by
  have e : gaspCovers u n = gaspCovers s n := by
    unfold gaspCovers; rw [h.dev?]
    cases Machine.dev? s n with
    | none => rfl
    | some d =>
      obtain ⟨L, hp⟩ := h.port d.port
      dsimp only; rw [hp]; dsimp only
      have hd : u.topo.dev = s.topo.dev := by obtain ⟨E, P, rfl, -⟩ := h; rfl
      rw [hd]
      refine congrArg _ (congrArg (fun f => List.any s.topo.dev f) (funext fun k => ?_))
      rw [h.hubPort]
      refine congrArg _ ?_
      split
      · next m hm => obtain ⟨L, hq⟩ := h.port m; rw [hq]
      · rfl
  unfold Machine.gaspToken; rw [e]
  obtain ⟨E, P, rfl, -⟩ := h; rfl

theorem fitCount_same {s u : State} (h : SameLine s u) (p : Nat) (b : Bool) (f : Nat → Nat) (n : Nat) :
    fitCount u p b f n = fitCount s p b f n := by
  induction n with
  | zero => rfl
  | succ n ih => unfold fitCount; rw [h.fits, ih]

/-- What an engine asks of a lane that has nothing to do, on a line that takes the thread's commands, is done at once. -/
theorem askLane_free {s : State} {e : Nat} {t : Thread} {i : Nat} {x : Item} {p : Nat} {op : LaneOp} (hw : t.work = .item i)
    (hi : item? s i = some x) (hp : workPort s t.work = p) (he : x.pendErr = none) (hl : lineReady s e t p = true)
    (hq : (port s p).lane = []) (ho : ∀ k, op ≠ .sdat k) :
    ∃ u, SameLine s u ∧ (eng u e).run = some (advance t) ∧ OtherEngines e s u ∧ (∀ k, k ≠ p → port u k = port s k)
      ∧ ((port s p).txn.isSome = true ∨ lineFree s p = false → (port u p).lane = [(e, t.work, op)] ∧ askLane e t op s = u)
      ∧ ((port s p).txn = none → lineFree s p = true → ∃ v, SameLine s v ∧ (eng v e).run = some (advance t) ∧ OtherEngines e s v
        ∧ (∀ k, k ≠ p → port v k = port s k) ∧ (port v p).lane = [] ∧ (port u p).lane = [(e, t.work, op)]
        ∧ askLane e t op s = (laneToken e p t.work op v).getD u) := by
  obtain ⟨hh, hlo, hwp⟩ : (port s p).heldBy = some e ∧ lineOpen s p = true ∧ workPlace s t.work = true := by
    unfold lineReady at hl; simp only [Bool.and_eq_true, beq_iff_eq] at hl; exact ⟨hl.1.1.1, hl.1.2, hl.2⟩
  have hf : flushWork t.work (setRun e (advance t) s) = setRun e (advance t) s := by
    rw [hw]
    show flushErr i (setRun e (advance t) s) = _
    unfold flushErr
    rw [show item? (setRun e (advance t) s) i = some x from hi]; dsimp only; rw [he]
  have h0 : SameLine s (setRun e (advance t) s) := (SameLine.refl s).setRun e _
  have hr : lineReady (setRun e (advance t) s) e t p = true := by
    unfold lineReady at *
    rw [h0.lineOpen, h0.workPlace]; exact hl
  have hm : linkMisses (setRun e (advance t) s) t.work = false := by rw [hw]; rfl
  let u := queueLane p e t.work op (setRun e (advance t) s)
  have hu : SameLine s u := h0.lane p (fun l => l ++ [(e, t.work, op)])
  have hul : port u p = { port s p with lane := [(e, t.work, op)] } := by
    show port (modPort p _ _) p = _
    rw [port_modPort, if_pos rfl, port_of_setRun, hq]; rfl
  have huo : ∀ k, k ≠ p → port u k = port s k := fun k hk => by
    show port (modPort p _ _) k = _
    rw [port_modPort, if_neg hk, port_of_setRun]
  have hask : askLane e t op s = launch p 1 u := by
    unfold askLane
    dsimp only; rw [hf, hm, hp, hr]
    simp only [Bool.false_eq_true, if_false, if_true]
    unfold runLane
    rw [show (port (queueLane p e t.work op (setRun e (advance t) s)) p).lane = [(e, t.work, op)] from congrArg Port.lane hul]
    rfl
  have hrun : (eng u e).run = some (advance t) := by
    show (eng (modPort p _ (setRun e (advance t) s)) e).run = _
    rw [show ∀ g v k, eng (modPort p g v) k = eng v k from fun _ _ _ => rfl, eng_setRun, if_pos rfl]
  have hoe : OtherEngines e s u := by
    intro k hk
    show eng (modPort p _ (setRun e (advance t) s)) k = _
    rw [show ∀ g v k, eng (modPort p g v) k = eng v k from fun _ _ _ => rfl, eng_setRun, if_neg hk]
  let v := modPort p (fun x => { x with lane := [] }) u
  have hv : SameLine s v := hu.lane p (fun _ => [])
  have hlaunch : launch p 1 u = if (port s p).txn.isSome then u
      else if lineFree s p then (laneToken e p t.work op v).getD u else u := by
    unfold launch
    rw [show (port u p).lane = [(e, t.work, op)] from congrArg Port.lane hul]; dsimp only
    have h1 : (port u p).txn = (port s p).txn := by rw [hul]
    have h2 : (port u p).heldBy = some e := by rw [hul]; exact hh
    cases op with
    | sdat k => exact absurd rfl (ho k)
    | tok => 
      dsimp only
      rw [h1, hu.lineOpen, hu.workPlace, hu.lineFree, hlo, hwp, h2]
      simp only [Bool.and_self, Bool.not_true, Bool.false_eq_true, if_false, Option.all_some, beq_self_eq_true, Bool.or_false]
      cases lineFree s p <;> simp only [Bool.not_true, Bool.not_false, Bool.false_eq_true, if_false, if_true]
      show _ = if _ then u else (laneToken e p t.work _ v).getD u
      split
      · rfl
      · cases laneToken e p t.work _ v <;> rfl
    | spl =>
      dsimp only
      rw [h1, hu.lineOpen, hu.workPlace, hu.lineFree, hlo, hwp, h2]
      simp only [Bool.and_self, Bool.not_true, Bool.false_eq_true, if_false, Option.all_some, beq_self_eq_true, Bool.or_false]
      cases lineFree s p <;> simp only [Bool.not_true, Bool.not_false, Bool.false_eq_true, if_false, if_true]
      show _ = if _ then u else (laneToken e p t.work _ v).getD u
      split
      · rfl
      · cases laneToken e p t.work _ v <;> rfl
  refine ⟨u, hu, hrun, hoe, huo, fun h => ⟨congrArg Port.lane hul, ?_⟩, fun h1 h2 => ⟨v, hv, hrun, hoe, fun k hk => ?_, ?_, congrArg Port.lane hul, ?_⟩⟩
  · rw [hask, hlaunch]
    rcases h with h | h
    · rw [if_pos h]
    · rw [h]; simp
  · show port (modPort p _ u) k = _
    rw [port_modPort, if_neg hk]; exact huo k hk
  · show (port (modPort p _ u) p).lane = _
    rw [port_modPort, if_pos rfl]
  · rw [hask, hlaunch, h1, h2]; rfl

end Sys2Proof.Machine
end

