-- ==== Sys2Proof/Machine/Line.lean ====
section
/-! DEFINITION. Line coding: how the bytes of a packet stand on a port's line in each generation (R43 to R48), and
how a receiver reads them back. `onLine` gives the coded form of what an `Output.packet` carries; a `DATA_PACKET`
command and its kind bring packets after `fromLine`. Bits are listed in the order in which they are sent. -/

namespace Sys2Proof.Machine

/-- The bits of a byte, least significant first (R43). -/
def bitsOf (b : Byte) : List Bool := (List.range 8).map fun i => b.getLsbD i

/-- The byte that bits spell, the least significant first. -/
def byteOf (l : List Bool) : Byte := BitVec.ofNat 8 (l.foldr (fun b n => ofBool b + 2 * n) 0)

/-- Whole bytes of a bit list; bits beyond the last whole byte are dropped. -/
def bytesOfBits : Nat → List Bool → List Byte
  | 0, _ => []
  | n + 1, l => if l.length < 8 then [] else byteOf (l.take 8) :: bytesOfBits n (l.drop 8)

/-! ### N1 and N2 (R43, R44) -/

/-- Bit stuffing: a 0 after every six consecutive 1 bits, also one that falls due directly before EOP. -/
def stuff : Nat → List Bool → List Bool
  | _, [] => []
  | _, false :: r => false :: stuff 0 r
  | n, true :: r => if n = 5 then true :: false :: stuff 0 r else true :: stuff (n + 1) r

/-- NRZI with a transition for a 0 bit; a level is true for mark. -/
def nrzi0 : Bool → List Bool → List Bool
  | _, [] => []
  | v, b :: r => let v' := if b then v else !v; v' :: nrzi0 v' r

/-- The bits that levels carry. -/
def unNrzi0 : Bool → List Bool → List Bool
  | _, [] => []
  | v, w :: r => (v == w) :: unNrzi0 w r

/-- SYNC and EOP (R44). -/
def syncBits : List Bool := bitsOf 0x80
def eopBits : List Bool := List.replicate 8 true

/-- The line of an N1 or N2 packet, from mark: SYNC, the stuffed packet, EOP (R43, R44). -/
def legacyLine (bytes : List Byte) : List Bool :=
  nrzi0 true (syncBits ++ stuff 0 (bytes.flatMap bitsOf) ++ eopBits)

/-- The receiver behind SYNC: it removes the 0 behind six 1 bits, and recognises EOP at the seventh. The bits that it
holds then end with those of EOP, fewer than a byte. -/
def unstuff : Nat → List Bool → List Bool → Option (List Bool)
  | _, _, [] => none
  | n, acc, true :: r => if n = 6 then some acc else unstuff (n + 1) (acc ++ [true]) r
  | n, acc, false :: r => if n = 6 then unstuff 0 acc r else unstuff 0 (acc ++ [false]) r

/-- The packet that an N1 or N2 line carries; none without SYNC or EOP. -/
def legacyPacket (levels : List Bool) : Option (List Byte) :=
  let l := unNrzi0 true levels
  if l.take 8 = syncBits then (unstuff 0 [] (l.drop 8)).map fun m => bytesOfBits m.length m else none

/-! ### N3 (R45): the code groups are those of IEEE 802.3 Clause 24 (PRESUMED, log 90) -/

/-- The 4b/5b data code groups, leftmost bit sent first. -/
def code5 (n : Nat) : Nat :=
  [0b11110, 0b01001, 0b10100, 0b10101, 0b01010, 0b01011, 0b01110, 0b01111,
   0b10010, 0b10011, 0b10110, 0b10111, 0b11010, 0b11011, 0b11100, 0b11101].getD n 0

/-- The control code groups J, K, T, R and I. -/
def codeJ : Nat := 0b11000
def codeK : Nat := 0b10001
def codeT : Nat := 0b01101
def codeR : Nat := 0b00111
def codeI : Nat := 0b11111

/-- The code groups of an N3 packet: preamble, J K, each byte low nibble first, T R. -/
def n3Groups (bytes : List Byte) : List Nat :=
  List.replicate 8 (code5 5) ++ [codeJ, codeK]
    ++ bytes.flatMap (fun b => [code5 (b.toNat % 16), code5 (b.toNat / 16)]) ++ [codeT, codeR]

/-- `n` bits of a number, the most significant first. -/
def msbBits : Nat → Nat → List Bool
  | 0, _ => []
  | n + 1, v => (v / 2 ^ n % 2 == 1) :: msbBits n v

/-- NRZI with a transition for a 1 code bit. -/
def nrzi1 (v : Bool) (l : List Bool) : List Bool := nrzi0 v (l.map not)

/-- The line of an N3 packet. -/
def n3Line (bytes : List Byte) : List Bool := nrzi1 true ((n3Groups bytes).flatMap (msbBits 5))

/-- The nibble of a data code group. -/
def nibbleOf (c : Nat) : Option Nat := (List.range 16).find? fun n => code5 n == c

/-- The bytes between J K and T R. -/
def n3Data : List Nat → Option (List Byte)
  | [] => none
  | [_] => none
  | a :: b :: r =>
    if a = codeT ∧ b = codeR then some []
    else match nibbleOf a, nibbleOf b, n3Data r with
      | some x, some y, some l => some (BitVec.ofNat 8 (x + 16 * y) :: l)
      | _, _, _ => none

/-- The packet that N3 code groups carry: from behind the start delimiter to the end delimiter. -/
def n3Packet (groups : List Nat) : Option (List Byte) :=
  match groups.dropWhile (fun c => c != codeJ) with
  | _ :: k :: r => if k = codeK then n3Data r else none
  | _ => none

/-! ### N4 (R47): the 8b/10b code of IEEE 802.3 Clause 36 (PRESUMED, log 90) -/

/-- A symbol: a data byte Dx.y or a control symbol Kx.y. -/
inductive Symbol where
  | d (b : Byte) | k (x y : Nat)
deriving DecidableEq, Repr

/-- Dx.y by its two numbers. -/
def dSym (x y : Nat) : Symbol := .d (BitVec.ofNat 8 (x + 32 * y))

/-- The ordered sets of R47. -/
def spkSet : List Symbol := [.k 27 7, .k 28 2, .k 27 7, .k 28 2]
def epkSet : List Symbol := [.k 29 7, .k 28 6, .k 29 7, .k 28 6]
def idleSet : List Symbol := [.k 28 5, dSym 10 2, dSym 10 2, dSym 10 2]
def tsaSet : List Symbol := [.k 28 5, .k 28 1] ++ List.replicate 14 (dSym 21 5)
def tsbSet : List Symbol := [.k 28 5, .k 28 1] ++ List.replicate 14 (dSym 26 2)

/-- A packet between SPK and EPK. -/
def n4Symbols (bytes : List Byte) : List Symbol := spkSet ++ bytes.map .d ++ epkSet

/-- The 5b/6b part for negative running disparity, bits abcdei. -/
def code6 (x : Nat) : Nat :=
  [0b100111, 0b011101, 0b101101, 0b110001, 0b110101, 0b101001, 0b011001, 0b111000,
   0b111001, 0b100101, 0b010101, 0b110100, 0b001101, 0b101100, 0b011100, 0b010111,
   0b011011, 0b100011, 0b010011, 0b110010, 0b001011, 0b101010, 0b011010, 0b111010,
   0b110011, 0b100110, 0b010110, 0b110110, 0b001110, 0b101110, 0b011110, 0b101011].getD x 0

/-- The 3b/4b part for negative running disparity, bits fghj; 8 is the alternate form of 7. -/
def code4 (y : Nat) : Nat := [0b1011, 0b1001, 0b0101, 0b1100, 0b1101, 0b1010, 0b0110, 0b1110, 0b0111].getD y 0

/-- The same behind a control 5b/6b part, for negative running disparity. -/
def code4k (y : Nat) : Nat := [0b1011, 0b0110, 0b1010, 0b1100, 0b1101, 0b0101, 0b1001, 0b0111].getD y 0

/-- The number of 1 bits. -/
def ones : List Bool → Nat
  | [] => 0
  | b :: r => ofBool b + ones r

/-- A sub-block for a running disparity (true for positive): complemented where it is unbalanced, or is one of the two
balanced pairs that follow the disparity; and the disparity behind it. -/
def subBlock (paired : Bool) (rd : Bool) (l : List Bool) : List Bool × Bool :=
  let even := 2 * ones l == l.length
  (if rd && (!even || paired) then l.map not else l, if even then rd else !rd)

/-- The ten bits of a symbol and the running disparity behind it. -/
def symbolBits (rd : Bool) : Symbol → List Bool × Bool
  | .d b =>
    let x := b.toNat % 32
    let y := b.toNat / 32
    let (six, rd1) := subBlock (x == 7) rd (msbBits 6 (code6 x))
    let alt := y == 7 && (if rd1 then x == 11 || x == 13 || x == 14 else x == 17 || x == 18 || x == 20)
    let (four, rd2) := subBlock (y == 3) rd1 (msbBits 4 (code4 (if alt then 8 else y)))
    (six ++ four, rd2)
  | .k x y =>
    let (six, rd1) := subBlock false rd (msbBits 6 (if x == 28 then 0b001111 else code6 x))
    let (four, rd2) := subBlock true rd1 (msbBits 4 (code4k y))
    (six ++ four, rd2)

/-- The line bits of symbols, from a running disparity. -/
def symbolsLine : Bool → List Symbol → List Bool
  | _, [] => []
  | rd, x :: r => let (b, rd') := symbolBits rd x; b ++ symbolsLine rd' r

/-- The bytes in front of EPK. -/
def n4Data : List Symbol → Option (List Byte)
  | .d b :: r => (n4Data r).map (b :: ·)
  | r => if r.take 4 = epkSet then some [] else none

/-- The packet that symbols carry: between SPK and EPK, behind IDLE sets. -/
def n4Packet (l : List Symbol) : Option (List Byte) :=
  match l.dropWhile (fun x => x != .k 27 7) with
  | a :: b :: c :: d :: r => if [a, b, c, d] = spkSet then n4Data r else none
  | _ => none

/-! ### N5 (R48) -/

/-- A half-block: packet data, or a control half with its half-code. -/
inductive Half where
  | data (bytes : List Byte) | ctl (code : Nat)
deriving DecidableEq, Repr

/-- The half-codes of R48. -/
def halfSpk : List Half := [.ctl 0xB1, .ctl 0xB2]
def halfEpk (fill : Nat) : List Half := [.ctl (0xE0 + fill), .ctl 0xEE]
def halfIdle : Half := .ctl 0x07
def halfTsa : Half := .ctl 0xA1
def halfTsb : Half := .ctl 0xA2

/-- Data halves of four bytes, the last one padded with 0x00. -/
def dataHalves : Nat → List Byte → List Half
  | 0, _ => []
  | n + 1, l => if l.isEmpty then [] else .data (l.take 4 ++ zeros (4 - (l.take 4).length)) :: dataHalves n (l.drop 4)

/-- The half-blocks of a packet: SPK, data halves, EPK with the number of fill bytes. -/
def n5Halves (bytes : List Byte) : List Half :=
  halfSpk ++ dataHalves bytes.length bytes ++ halfEpk (4 * cdiv bytes.length 4 - bytes.length)

/-- A 66-bit block: sync header and eight payload bytes. -/
structure LineBlock where
  sync : Nat
  bytes : List Byte
deriving DecidableEq, Repr

/-- The block of two half-blocks. -/
def blockOf : Half → Half → LineBlock
  | .data a, .data b => ⟨1, a ++ b⟩
  | .ctl a, .ctl b => ⟨2, [0x33, BitVec.ofNat 8 a, BitVec.ofNat 8 b] ++ zeros 5⟩
  | .ctl a, .data b => ⟨2, [0x55, BitVec.ofNat 8 a] ++ zeros 2 ++ b⟩
  | .data a, .ctl b => ⟨2, [0x66, BitVec.ofNat 8 b] ++ zeros 2 ++ a⟩

/-- Half-blocks in pairs; an odd one is followed by IDLE. -/
def lineBlocks : List Half → List LineBlock
  | [] => []
  | [a] => [blockOf a halfIdle]
  | a :: b :: r => blockOf a b :: lineBlocks r

/-- The self-synchronising scrambler x^58 + x^39 + 1 over payload bits; bit 0 of its state is the bit sent last. -/
def scramble : BitVec 58 → List Bool → List Bool × BitVec 58
  | st, [] => ([], st)
  | st, b :: r =>
    let o := b ^^ st.getLsbD 38 ^^ st.getLsbD 57
    let (l, st') := scramble (st <<< 1 ||| BitVec.ofNat 58 (ofBool o)) r
    (o :: l, st')

/-- The descrambler. -/
def descramble : BitVec 58 → List Bool → List Bool × BitVec 58
  | st, [] => ([], st)
  | st, b :: r =>
    let o := b ^^ st.getLsbD 38 ^^ st.getLsbD 57
    let (l, st') := descramble (st <<< 1 ||| BitVec.ofNat 58 (ofBool b)) r
    (o :: l, st')

/-- Line bits of blocks: the sync header as it is, the payload scrambled, each byte least significant bit first. -/
def blocksLine : BitVec 58 → List LineBlock → List Bool
  | _, [] => []
  | st, k :: r =>
    let (l, st') := scramble st (k.bytes.flatMap bitsOf)
    msbBits 2 k.sync ++ l ++ blocksLine st' r

/-- A half-code of the table. -/
def halfKnown (c : Nat) : Bool :=
  c == 0xB1 || c == 0xB2 || (0xE0 ≤ c && c ≤ 0xE3) || c == 0xEE || c == 0x07 || c == 0xA1 || c == 0xA2

/-- The half-blocks of a received block; none for a sync header of 0b00 or 0b11 and for an unknown block type. -/
def halvesOf (k : LineBlock) : Option (List Half) :=
  let ctl (i : Nat) : Half := .ctl (k.bytes.getD i 0).toNat
  if k.sync = 1 then some [.data (k.bytes.take 4), .data (k.bytes.drop 4)]
  else if k.sync = 2 then
    match (k.bytes.getD 0 0).toNat with
    | 0x33 => some [ctl 1, ctl 2]
    | 0x55 => some [ctl 1, .data (k.bytes.drop 4)]
    | 0x66 => some [.data (k.bytes.drop 4), ctl 1]
    | _ => none
  else none

/-- Where a receiver stands in the order of half-codes: between packets, behind the first SPK half, in a packet, or
behind the first EPK half. -/
inductive RxPhase where
  | between | spk | inPacket | epk
deriving DecidableEq, Repr

/-- A receiver of half-blocks: its phase, the bytes of the packet so far, the packets received and its count of block
errors. -/
structure Rx where
  phase : RxPhase := .between
  fill : Nat := 0
  bytes : List Byte := []
  packets : List (List Byte) := []
  errors : Nat := 0
deriving DecidableEq, Repr

/-- One half-block. A half-code out of order counts a block error and abandons the packet; data between packets is
such a half too (DEDUCED, log 91). -/
def rxHalf (r : Rx) (h : Half) : Rx :=
  match h, r.phase with
  | .data b, .inPacket => { r with bytes := r.bytes ++ b }
  | .data _, _ => { r with phase := .between, errors := r.errors + 1 }
  | .ctl c, ph =>
    if !halfKnown c then { r with phase := .between, errors := r.errors + 1 }
    else if c == 0xB1 && ph == .between then { r with phase := .spk, bytes := [] }
    else if c == 0xB2 && ph == .spk then { r with phase := .inPacket }
    else if c / 4 == 0x38 && ph == .inPacket then { r with phase := .epk, fill := c % 4 }
    else if c == 0xEE && ph == .epk then
      { r with phase := .between, packets := r.packets ++ [r.bytes.take (r.bytes.length - r.fill)] }
    else if (c == 0x07 || c == 0xA1 || c == 0xA2) && ph == .between then r
    else { r with phase := .between, errors := r.errors + 1 }

/-- One block (R48). -/
def rxBlock (r : Rx) (k : LineBlock) : Rx :=
  match halvesOf k with
  | some l => l.foldl rxHalf r
  | none => { r with phase := .between, errors := r.errors + 1 }

/-! ### The line of a packet -/

/-- The bits or levels that a port's transmitter puts on the line for a packet, from the idle line: mark on N1 to N3,
a running disparity on N4, a scrambler state on N5. -/
def onLine (g : Gen) (rd : Bool) (scr : BitVec 58) (bytes : List Byte) : List Bool :=
  match g with
  | .n1 | .n2 => legacyLine bytes
  | .n3 => n3Line bytes
  | .n4 => symbolsLine rd (n4Symbols bytes)
  | .n5 => blocksLine scr (lineBlocks (n5Halves bytes))

/-- The number of bits that a packet's stuffing adds (S of R56). -/
def stuffed (bytes : List Byte) : Nat := (stuff 0 (bytes.flatMap bitsOf)).length - 8 * bytes.length

end Sys2Proof.Machine
end

