-- ==== Sys2Proof/Laws/Line.lean ====
section
/-! SUPPORT. What a receiver reads back from a port's line is the packet that was sent, in each line coding (R43 to R48). -/

namespace Sys2Proof.Machine

/-! ### Bits -/

theorem bitsOf_length (b : Byte) : (bitsOf b).length = 8 := by simp [bitsOf]

theorem byteOf_bitsOf : ∀ b : Byte, byteOf (bitsOf b) = b := by decide +kernel

/-- Whole bytes come back from their bits; fewer than eight bits behind them are dropped. -/
theorem bytesOfBits_flatMap (tail : List Bool) (ht : tail.length < 8) : ∀ (l : List Byte) (n : Nat), l.length ≤ n →
    bytesOfBits n (l.flatMap bitsOf ++ tail) = l
  | [], 0, _ => rfl
  | [], n + 1, _ => by simp [bytesOfBits, ht]
  | b :: r, 0, h => by simp at h
  | b :: r, n + 1, h => by
    have e : (b :: r).flatMap bitsOf ++ tail = bitsOf b ++ (r.flatMap bitsOf ++ tail) := by simp
    have hl := bitsOf_length b
    rw [e, bytesOfBits, if_neg (by simp [hl]), List.take_left' hl, List.drop_left' hl, byteOf_bitsOf,
      bytesOfBits_flatMap tail ht r n (by simpa using h)]

theorem bits_length : ∀ l : List Byte, (l.flatMap bitsOf).length = 8 * l.length
  | [] => rfl
  | b :: r => by
    have := bitsOf_length b
    have := bits_length r
    simp only [List.flatMap_cons, List.length_append, List.length_cons]; omega

/-! ### N1 and N2 -/

theorem unNrzi0_nrzi0 : ∀ (l : List Bool) (v : Bool), unNrzi0 v (nrzi0 v l) = l
  | [], _ => rfl
  | b :: r, v => by
    simp only [nrzi0, unNrzi0, unNrzi0_nrzi0 r]
    cases b <;> cases v <;> rfl

/-- The receiver takes the stuffed 0 bits out again, and stops at the seventh 1 of EOP. -/
theorem unstuff_stuff : ∀ (l : List Bool) (n : Nat) (acc : List Bool), n < 6 →
    ∃ k, k < 7 ∧ unstuff n acc (stuff n l ++ eopBits) = some (acc ++ l ++ List.replicate k true)
  | [], n, acc, h => ⟨6 - n, by omega, by
      interval_cases n <;> simp [stuff, eopBits, unstuff, List.replicate]⟩
  | false :: r, n, acc, h => by
    obtain ⟨k, hk, e⟩ := unstuff_stuff r 0 (acc ++ [false]) (by omega)
    refine ⟨k, hk, ?_⟩
    rw [stuff, List.cons_append, unstuff, if_neg (by omega), e]; simp
  | true :: r, n, acc, h => by
    by_cases h5 : n = 5
    · obtain ⟨k, hk, e⟩ := unstuff_stuff r 0 (acc ++ [true]) (by omega)
      refine ⟨k, hk, ?_⟩
      subst h5
      rw [stuff, if_pos rfl, List.cons_append, List.cons_append, unstuff, if_neg (by omega), unstuff, if_pos rfl, e]; simp
    · obtain ⟨k, hk, e⟩ := unstuff_stuff r (n + 1) (acc ++ [true]) (by omega)
      refine ⟨k, hk, ?_⟩
      rw [stuff, if_neg h5, List.cons_append, unstuff, if_neg (by omega), e]; simp

/-- An N1 or N2 packet is received as it was sent (R43, R44). -/
theorem legacyPacket_legacyLine (l : List Byte) : legacyPacket (legacyLine l) = some l := by
  obtain ⟨k, hk, e⟩ := unstuff_stuff (l.flatMap bitsOf) 0 [] (by omega)
  have hs : syncBits.length = 8 := bitsOf_length _
  unfold legacyPacket legacyLine
  simp only [unNrzi0_nrzi0, List.append_assoc]
  rw [List.take_left' hs, List.drop_left' hs, if_pos rfl, e]
  simp only [Option.map_some, List.nil_append, Option.some.injEq]
  refine bytesOfBits_flatMap _ (by simpa using Nat.lt_succ_of_lt hk) l _ ?_
  have := bits_length l
  simp only [List.length_append]; omega

/-! ### N3 -/

theorem nibbles_of_byte : ∀ b : Byte, nibbleOf (code5 (b.toNat % 16)) = some (b.toNat % 16)
    ∧ nibbleOf (code5 (b.toNat / 16)) = some (b.toNat / 16) ∧ code5 (b.toNat % 16) ≠ codeT
    ∧ BitVec.ofNat 8 (b.toNat % 16 + 16 * (b.toNat / 16)) = b := by decide +kernel

theorem n3Data_groups : ∀ l : List Byte,
    n3Data (l.flatMap (fun b => [code5 (b.toNat % 16), code5 (b.toNat / 16)]) ++ [codeT, codeR]) = some l
  | [] => rfl
  | b :: r => by
    obtain ⟨h1, h2, h3, h4⟩ := nibbles_of_byte b
    simp only [List.flatMap_cons, List.cons_append, List.nil_append]
    rw [n3Data, if_neg (fun h => h3 h.1), h1, h2, n3Data_groups r]
    simp [h4]

/-- An N3 packet is received as it was sent (R45). -/
theorem n3Packet_n3Groups (l : List Byte) : n3Packet (n3Groups l) = some l := by
  have e : (n3Groups l).dropWhile (fun c => c != codeJ)
      = codeJ :: codeK :: (l.flatMap (fun b => [code5 (b.toNat % 16), code5 (b.toNat / 16)]) ++ [codeT, codeR]) := by
    simp [n3Groups, List.replicate, List.dropWhile, code5, codeJ]
  rw [n3Packet, e]
  exact n3Data_groups l

/-! ### N4 -/

theorem n4Data_symbols : ∀ l : List Byte, n4Data (l.map Symbol.d ++ epkSet) = some l
  | [] => by decide
  | b :: r => by rw [List.map_cons, List.cons_append, n4Data, n4Data_symbols r]; rfl

/-- An N4 packet is received as it was sent (R47). -/
theorem n4Packet_n4Symbols (l : List Byte) : n4Packet (n4Symbols l) = some l := by
  have e : (n4Symbols l).dropWhile (fun x => x != .k 27 7) = spkSet ++ (l.map Symbol.d ++ epkSet) := by
    simp [n4Symbols, spkSet, List.dropWhile]
  rw [n4Packet, e]
  exact n4Data_symbols l

/-! ### N5 -/

/-- The descrambler takes out what the scrambler of the same state put in. -/
theorem descramble_scramble : ∀ (l : List Bool) (st : BitVec 58),
    descramble st (scramble st l).1 = (l, (scramble st l).2)
  | [], _ => rfl
  | b :: r, st => by
    simp only [scramble, descramble, descramble_scramble r]
    cases b <;> cases st.getLsbD 38 <;> cases st.getLsbD 57 <;> rfl

end Sys2Proof.Machine
end

