-- ==== Sys2Proof/Machine/BankImage.lean ====
section
/-! DEFINITION. The table banks as they lie in on-chip SRAM (R193, R194): head words, rung-list entries and the chains
between them. No command reads a bank as bytes; the engines walk its lists (R195). -/

namespace Sys2Proof.Machine

/-- The bank of a number, 0 or 1: `SCH.STS.LIVE_BANK` names the live one (R193). -/
def bank (s : State) (one : Bool) : Tbl Rung := if one == s.sch.liveBank then s.sch.live else s.sch.shadow

/-- The entries of the list of a period class and phase, by ascending port, then ascending index (R195). A floating
reservation stands in the list of class 0, phase 0 (R194). -/
def rungList (t : Tbl Rung) (k ph : Nat) : List Nat :=
  let l := t.filter fun e => if e.2.kind == .float then k == 0 && ph == 0 else e.2.periodK == k && e.2.phase == ph
  (List.range 64).flatMap fun p => (l.filter fun e => e.2.port == p).map Prod.fst

/-- The period class of head word `n`: that of index 2^k - 1 + φ is k (R193). -/
def headClass (n : Nat) : Nat := Nat.log2 (n + 1)

/-- The head word of a list: the first entry's index, and a valid bit; the last word is reserved (R193). -/
def headWord (t : Tbl Rung) (n : Nat) : U32 :=
  if n = 16383 then 0
  else match rungList t (headClass n) (n + 1 - 2 ^ headClass n) with
    | i :: _ => BitVec.ofNat 32 (i + 2 ^ 15)
    | [] => 0

/-- The entry behind entry `i` in a list; 0x3FFF ends it (R194). -/
def nextRung (l : List Nat) (i : Nat) : Nat := ((l.dropWhile (· != i)).drop 1).headD 0x3FFF

/-- KIND (R194). -/
def kindField : ResKind → Nat
  | .periodic => 0 | .event => 1 | .float => 2

/-- The 32 bytes of a rung-list entry in use, as one little-endian number (R194). -/
def rungWord (g : Rung) (next : Nat) : BitVec 256 :=
  let tt := if g.split then g.tt else none
  [ (0, 1, 1), (1, 3, kindField g.kind), (4, 1, ofBool g.split), (5, 1, ofBool g.lastGasp), (6, 1, ofBool g.dirIn),
    (8, 6, g.port), (16, 16, g.handle.toNat), (32, 4, g.ep), (36, 4, g.engine), (40, 4, g.fallback), (44, 4, g.periodK),
    (48, 13, g.phase), (64, 3, g.hubTiers), (72, 8, g.packets), (80, 11, g.mps),
    (92, 4, (tt.map TtPath.port).getD 0), (96, 7, (tt.map TtPath.addr).getD 0), (104, 24, g.linkNs),
    (128, 17, g.engCyc), (152, 9, if g.kind == .float then g.startPos else 0), (164, 12, g.script), (176, 14, next)
  ].foldl (fun w f => setField w f.1 f.2.1 f.2.2) 0

/-- A byte of a bank: head table, entries, and behind them the firmware's own state, whose contents the manual does not
give and the engines do not read (R193). -/
def bankByte (t : Tbl Rung) (a : Nat) : Option Byte :=
  if a < 0x10000 then some (BitVec.ofNat 8 (field (headWord t (a / 4)) (8 * (a % 4)) 8))
  else if a < 0x50000 then
    let i := (a - 0x10000) / 32
    some (match tfind t i with
      | some g =>
        let l := if g.kind == .float then rungList t 0 0 else rungList t g.periodK g.phase
        BitVec.ofNat 8 (field (rungWord g (nextRung l i)) (8 * (a % 32)) 8)
      | none => 0)
  else none

end Sys2Proof.Machine
end

