-- ==== Sys2Proof/WellFormed.lean ====
section
/-! DEFINITION. Well-formed commands: the operand ranges that the manual's own layouts fix. -/

namespace Sys2Proof

/-- A command's operands have the sizes that the manual's layouts give them. -/
def Instr.wf : Instr → Bool
  /- A doorbell block holds 16 records (R267). -/
  | .doorbellBlockReadDone _ _ _ records => records.length ≤ 16
  /- A payload is at most 1,024 bytes (R42). -/
  | .dataPacket _ _ payload _ _ => payload.length ≤ 1024
  | _ => true

end Sys2Proof
end

