-- ==== Sys2Proof/Tests/Slice0.lean ====
section
/-! SUPPORT. Tests of single commands on small states, and the witnesses of the obligations' hypotheses. -/

namespace Sys2Proof.Tests

set_option Elab.async false

open Machine

/-! ### Witnesses: states and operands that meet the statements' hypotheses, clause by clause -/

/-- The part with its firmware running, out of reset. -/
def ready : State := { ({} : State) with pwr := { ({} : Power) with ready := true } }

/-- That part with card slot 63, the last one, in a given state. -/
def card (x : CardSlot) : State := { ready with slots := { slot := [(63, x)] } }

/-- A part of a pair with its pair block in a given state. -/
def pairPart (x : Pair) : State :=
  { ready with pair := x, straps := { pairEn := true, pairId := true } }

/-- A part in a given power state. -/
def powered (x : Power) : State := { ({} : State) with pwr := { x with ready := true } }

theorem witness_StepRunsFront :
    { ready with pending := [.coreReset, .hotReset] }.pending = .coreReset :: [.hotReset] ∧ ready.pending = [] := by decide

theorem witness_PairAgrees :
    (let s := ready; s.pwr.por = false ∧ s.pair.st = .single ∧ s.straps.pairEn = false)
    ∧ (let s := pairPart { st := .active }; s.pwr.por = false ∧ s.pair.st ≠ .single ∧ s.straps.pairEn = true) := by decide

theorem witness_PairAgrees_steps : ∃ t, step ready = .next t ∧ t.pwr.por = false := ⟨_, rfl, rfl⟩

theorem witness_WhatCommandsChange : ∃ t, exec (.wakeInAssert) (powered { st := .sleep }) = .next t
    ∧ t.pwr.waking = some (2, 0) := ⟨_, rfl, rfl⟩

theorem witness_SlotTrips :
    (let s := card { st := .ramp, gate := true, gateRise := true }
     slotPowered s 63 = true ∧ (slot s 63).st = .ramp ∧ (slot s 63).gateRise = true ∧ (slot s 63).gate = true)
    ∧ (let s := card { st := .on, gate := true }; slotPowered s 63 = true ∧ (slot s 63).st = .on ∧ (slot s 63).gate = true)
    ∧ (let s := card { st := .on, pgLoss := true, feedA := true }
       slotPowered s 63 = true ∧ (slot s 63).pgLoss = true ∧ anyFeed (slot s 63) = true)
    ∧ (let s := card { st := .on, pgLoss := true }
       slotPowered s 63 = true ∧ (slot s 63).pgLoss = true ∧ anyFeed (slot s 63) = false)
    ∧ (let s := card { st := .off, cfg := 0x19050132 }
       slotPowered s 63 = true ∧ 2 ≤ cfgFetchk (slot s 63) ∧ (slot s 63).gate = false
         ∧ 250 < (251 : BitVec 12).toNat ∧ (250 : BitVec 12).toNat ≤ 250
         ∧ ¬((slot s 63).st = .tripped ∧ (slot s 63).tripCode = 7))
    ∧ (let s := card { st := .empty, cut := some ⟨0, true, false, false⟩ }
       slotPowered s 63 = true ∧ (slot s 63).st = .empty ∧ (slot s 63).cut = some ⟨0, true, false, false⟩ ∧ now s = 0) := by decide

theorem witness_SlotPresence :
    (∀ st ∈ [SlotState.empty, .debounce, .tripped, .ramp, .on, .off, .cooldown, .noFeed],
      let s := card { st := st }
      slotPowered s 63 = true ∧ (slot s 63).present = false ∧ (slot s 63).st = st ∧ hears s (dieOf 63) = true)
    ∧ (let s := card { st := .debounce, present := true }
       slotPowered s 63 = true ∧ (slot s 63).st = .debounce ∧ (slot s 63).present = true)
    ∧ (let s := card { st := .cooldown, minOff := true }; slotPowered s 63 = true ∧ (slot s 63).minOff = true)
    ∧ (let s := card { st := .tripped, cfg := 8 }
       slotPowered s 63 = true ∧ (slot s 63).st = .tripped ∧ cfgPrsntClears (slot s 63) = true ∧ (slot s 63).present = false) := by decide

theorem witness_SlotCommands :
    (∀ st ∈ [SlotState.tripped, .off, .ramp, .on, .cooldown], ∀ en ∈ [true, false],
      let s := card { st := st, en := en }
      slotPowered s 63 = true ∧ (slot s 63).st = st ∧ (slot s 63).en = en)
    ∧ (63 = 16 * (3 : DieId).val + (15 : Fin 16).val)
    ∧ hasAuthority (card {}) 3 .pctlB = false ∧ hasAuthority (card {}) 3 .ownCore = true := by decide

theorem witness_SlotFeedsAndPower :
    (∀ a ∈ [true, false], ∀ b ∈ [true, false], let s := card { st := .ramp, feedA := a, feedB := b, orA := a, orB := !a }
      slotPowered s 63 = true ∧ feedAOk (slot s 63) = a ∧ feedBOk (slot s 63) = b ∧ (slot s 63).disconnected = false)
    ∧ (let s := card { st := .noFeed }; slotPowered s 63 = true ∧ (slot s 63).st = .noFeed)
    ∧ (let s := card { st := .ramp }; slotPowered s 63 = true ∧ (slot s 63).st = .ramp ∧ cfgFetchk (slot s 63) % 2 = 0)
    ∧ (let s := card { st := .ramp, cfg := 0x19050131, gateRise := true }
       slotPowered s 63 = true ∧ (slot s 63).st = .ramp ∧ cfgFetchk (slot s 63) % 2 = 1 ∧ (slot s 63).gateRise = true)
    ∧ (let s := card { st := .on, pg := true, pfw := false }
       slotPowered s 63 = true ∧ (slot s 63).st = .on ∧ (slot s 63).pg = true ∧ (slot s 63).pfw = false ∧ hears s (dieOf 63) = true)
    ∧ (let s := card { st := .on, pgLoss := true, pfw := true }
       slotPowered s 63 = true ∧ (slot s 63).pgLoss = true ∧ (slot s 63).st = .on ∧ (slot s 63).pfw = true) := by decide

theorem witness_SlotTelemetry :
    (let s := card { st := .on }
     slotPowered s 63 = true ∧ (0xFFF : BitVec 12).toNat * 250 / rsense (slot s 63) < 65536 ∧ hears s (dieOf 63) = true) := by
  decide

theorem witness_MuleDies :
    (let s := ready
     live s = true ∧ s.pwr.st ≠ .watch ∧ bit s.err.muleFailed 3 = false ∧ (die s 3).parked = false ∧ (die s 3).powered = true
       ∧ hears s 3 = true ∧ (die s 3).authPctl = false)
    ∧ (let s := { ready with slots := { die := [(3, { parked := true })] } }
       live s = true ∧ s.pwr.st ≠ .watch ∧ bit s.err.muleFailed 3 = false ∧ (die s 3).parked = true) := by decide

theorem witness_PowerStates :
    hostReaches ready 0 = true ∧ live ready = true ∧ ready.pwr.d3hot = false ∧ ready.pwr.st = .run ∧ ready.pair.st = .single
    ∧ driverReserves ready = false ∧ (ready.fns.fn = []) ∧ targetState ready = none
    ∧ (let s := powered { ctl := 4 }; targetState s = some .watch ∧ PowerState.watch ≠ .off)
    ∧ targetState (powered { ctl := 5 }) = some .off
    ∧ (let s := { powered { ctl := 4 } with pair := { st := .active } }
       live s = true ∧ s.pwr.st = .run ∧ s.pwr.d3hot = false ∧ targetState s = some .watch ∧ s.pair.st ≠ .single)
    ∧ (let s := { powered { entering := some .watch } with tb := { ({} : Timebase) with flen := alwaysOnLen } }
       live s = true ∧ s.pwr.st = .run ∧ s.pwr.entering = some .watch ∧ s.sch.live = [] ∧ slewed s .watch = true)
    ∧ (let s := powered { st := .watch, d3hot := true }
       live s = true ∧ s.pwr.st = .watch ∧ s.pwr.waking = none ∧ s.pwr.entering = none ∧ s.pwr.d3hot = true
         ∧ s.pwr.entering ≠ some .off)
    ∧ (let s := powered { st := .off }; s.pwr.st = .off ∧ s.pwr.wakeOut = false)
    ∧ (let s := powered { st := .sleep }; live s = true ∧ s.pwr.st = .sleep ∧ s.pwr.entering = none ∧ s.pwr.waking = none)
    ∧ (∀ w ∈ [WakeStep.none_, .regulator, .clock, .memory], let s := powered { st := .deepSleep, waking := some (2, 0), wake := w }
       live s = true ∧ s.pwr.st = .deepSleep ∧ s.pwr.waking = some (2, 0) ∧ s.pwr.waking ≠ none ∧ s.pwr.wake = w) := by decide

theorem witness_PowerStates_ports : portsBusy ready = false := by decide

theorem witness_Resets :
    (let s := ready; s.pwr.por = false ∧ s.pwr.st ≠ .off ∧ s.pwr.perst = false ∧ (die s 3).powered = true)
    ∧ (let s := pairPart { st := .active, linkUp := true }
       s.pwr.por = false ∧ s.pwr.st ≠ .off ∧ s.pwr.perst = false ∧ s.pair.st = .active ∧ s.pair.linkUp = true)
    ∧ (∀ st ∈ [PairSt.activeAlone, .standby, .single], let s := pairPart { st := st, linkUp := true }; s.pwr.por = false ∧ s.pair.st = st ∧ s.pair.linkUp = true)
    ∧ (powered { perst := true, wakeOut := true }).pwr.perst = true
    ∧ (let s := pairPart { st := .yielded }; live s = true ∧ s.pair.st = .yielded)
    ∧ (powered { por := true }).pwr.por = true
    ∧ (let s := ({} : State)
       live s = true ∧ s.pwr.perst = false ∧ s.pwr.ready = false ∧ s.pwr.error = false ∧ s.flash.next = none)
    ∧ (let s := { ({} : State) with flash := { next := some true } } ; live s = true ∧ s.flash.next = some true) := by decide

/-- A port to the partner's die that waits for the answer to one command. -/
def asked (typ : Nat) : State :=
  { pairPart { st := .activeAlone } with ctl := [(3, { cmds := [⟨7, typ, 15, [], 1⟩], holder := true, seen := [9] })] }

theorem witness_PartnerControl :
    (let s := { ready with slots := { die := [(3, { answered := some (7, 15, 0x81, []), authPctl := true })] } }
     (die s 3).powered = true ∧ (die s 3).answered = some (7, 15, 0x81, []) ∧ hears s 3 = true ∧ (die s 3).authPctl = true
       ∧ ∀ a, (die s 3).answered = some a → a.1 ≠ 8)
    ∧ (let s := { ready with slots := { die := [(3, { coreLost := true })] } }
       (die s 3).powered = true ∧ (die s 3).answered = none ∧ (die s 3).coreLost = true)
    ∧ (die ready 3).coreLost = false ∧ (die ready 3).authPctl = false
    ∧ (slotWritable 0x10 = true ∧ slotWritable 0x20 = false)
    ∧ (∀ typ ∈ [1, 2, 3, 4, 5], let s := asked typ
       live s = true ∧ s.straps.pairEn = true ∧ ∃ c ∈ (tget ({} : PctlPort) s.ctl 3).cmds, c.seq = 7 ∧ c.typ = typ)
    ∧ (let x := tget ({} : PctlPort) (asked 1).ctl 3
       x.holder = true ∧ (∀ y ∈ x.cmds, y.seq ≠ 8) ∧ 9 ∈ x.seen ∧ 8 ∉ x.seen ∧ x.cmds = ⟨7, 1, 15, [], 1⟩ :: [])
    ∧ (let s := { ready with slots := { die := [(3, { events := [⟨7, 15, [], 4⟩] })] } }
       (die s 3).powered = true ∧ (die s 3).events = ⟨7, 15, [], 4⟩ :: []) := by decide

/-- A record's header of SEQ `q`. -/
def hdr (q : U32) : XbkHdr := { resent := false, seq := q, ack := 0, epoch := 0 }

theorem witness_PairRecords :
    (let s := pairPart { st := .discover }
     live s = true ∧ s.straps.pairEn = true ∧ s.pair.st ≠ .conflict ∧ s.pair.st ≠ .failed ∧ 2 ≤ (4 : Fin 5).val)
    ∧ (∀ n ∈ [2, 4], let s := pairPart { st := .standby, linkUp := true, lanes := n }
       hearsXbk s = true ∧ (3 : Fin 4).val ∉ s.pair.down ∧ s.pair.lanes ≠ 0 ∧ s.pair.lanes = n ∧ s.pair.st = .standby)
    ∧ (∀ st ∈ [PairSt.discover, .sync, .standby, .stale, .activeAlone, .active, .yielded],
       let s := pairPart { st := st, linkUp := true, rxSeq := 4, claimed := true }
       hearsXbk s = true ∧ (hdr 5).seq = s.pair.rxSeq + 1 ∧ (hdr 6).seq ≠ s.pair.rxSeq + 1 ∧ (hdr 4).seq = s.pair.rxSeq
         ∧ 1 < ((hdr 6).seq - s.pair.rxSeq).toNat ∧ ((hdr 6).seq - s.pair.rxSeq).toNat < 2 ^ 31 ∧ s.pair.st = st)
    ∧ (0 : Byte).toNat ≠ ofBool (pairPart {}).straps.pairId ∧ (1 : Byte).toNat = ofBool (pairPart {}).straps.pairId
    ∧ follows (pairPart { st := .standby, linkUp := true }) = true ∧ follows (pairPart { st := .active, linkUp := true }) = false
    ∧ (let s := pairPart { st := .active, linkUp := true, rxSeq := 4, txSeq := 9, retry := [⟨9, 4, []⟩], ackDue := true }
       hearsXbk s = true ∧ (10 : U32) = s.pair.txSeq + 1 ∧ (9 : U32) ≠ s.pair.txSeq + 1
         ∧ (∃ k ∈ (freeAcked (hdr 4).ack s).pair.retry, k.seq = 9) ∧ (∀ k ∈ (freeAcked (hdr 4).ack s).pair.retry, k.seq ≠ 8)
         ∧ s.pair.ackDue = true)
    ∧ (let s := { pairPart { st := .active, linkUp := true } with err := { cls := [(6, { cfg := 0x00FFFFFF })] } }
       hearsXbk s = true ∧ 0 ∉ (errClass s 6).stopped ∧ tget 0 (rolledClass s 6).counts 0 + 1 < errT (errClass s 6)) := by decide

theorem witness_PairRoles :
    (∀ st ∈ [PairSt.standby, .sync, .active], ∀ n ∈ [2, 3],
      let s := pairPart { st := st, misses := n, silent := 2, partner := some 6 }
      live s = true ∧ s.straps.pairEn = true ∧ s.pair.st ≠ .single ∧ s.pair.st ≠ .conflict ∧ s.pair.st ≠ .failed
        ∧ s.pair.hbGot = false ∧ 2 ≤ s.pair.misses ∧ s.pair.partner ≠ none ∧ 2 ≤ s.pair.silent ∧ s.pair.takeover = none)
    ∧ (let s := pairPart { st := .active, hbGot := true }; live s = true ∧ s.straps.pairEn = true ∧ s.pair.hbGot = true)
    ∧ (let s := pairPart { st := .standby, takeover := some ⟨0, 2⟩ }
       live s = true ∧ s.pair.st = .standby ∧ s.pair.takeover = some ⟨0, 2⟩ ∧ s.tb.uframe = 0 ∧ 0 ≤ s.tb.frameAt)
    ∧ (∀ b ∈ [true, false], let s := pairPart { st := .discover, senseOk := b }
       live s = true ∧ s.pair.st = .discover ∧ s.pair.linkUp = false ∧ s.pair.senseOk = b ∧ s.straps.pairId = true)
    ∧ (∀ v ∈ [true, false], let s := pairPart { st := .sync, linkUp := true, version := v, partnerHome := some 0 }
       live s = true ∧ s.pair.st = .sync ∧ s.pair.linkUp = true ∧ s.pair.version = v ∧ homesAgree s = true)
    ∧ (let s := pairPart { st := .stale, linkUp := true, partnerHome := some 0 }
       live s = true ∧ s.pair.st = .stale ∧ s.pair.linkUp = true ∧ s.pair.version = false ∧ homesAgree s = true)
    ∧ (let s := pairPart { st := .active, actOut := true }
       live s = true ∧ s.straps.pairEn = true ∧ s.straps.pairId = true ∧ s.pair.actOut = true ∧ isActive s = true
         ∧ s.pair.switchAt = none ∧ s.pair.yielding = false ∧ s.pair.version = false) := by decide

theorem witness_Errors :
    (let s := ready
     live s = true ∧ hostReaches s 0 = true ∧ 15 ∉ (errClass s 1).stopped ∧ (eng s 15).retired = false ∧ s.sch.nm1Ok = true)
    ∧ (let s := { ready with err := { cls := [(1, { cfg := 0x00FFFFFF })] } }
       (eng s 15).retired = false ∧ tget 0 (rolledClass s 1).counts 15 + 1 < errT (errClass s 1) ∧ 15 ∉ (errClass s 1).stopped)
    ∧ (let s := { ready with err := { cls := [(2, { stopped := [63] })] } }
       live s = true ∧ 63 ∈ (errClass s 2).stopped)
    ∧ (let s := { ready with err := { cls := [(2, { cfg := 0x00FFFFFF })], portFailed := 1 <<< 63 } }
       live s = true ∧ 63 ∉ (errClass s 2).stopped ∧ tget 0 (rolledClass s 2).counts 63 + 1 < errT (errClass s 2)
         ∧ bit (1 <<< 63 : U64) 63 = true ∧ bit s.err.portFailed 63 = true)
    ∧ (let s := { ready with err := { cls := [(2, { cfg := 0x00000001 })] } }
       63 ∉ (errClass s 2).stopped ∧ errT (errClass s 2) ≤ tget 0 (rolledClass s 2).counts 63 + 1)
    ∧ (∀ w ∈ [0, 1], let s := { ready with err := { cls := [(2, { window := w })] } }
       ((errClass s 2).window = errWindow s 2 ↔ w = 0))
    ∧ (let s := pairPart { st := .active, linkUp := true }; live s = true ∧ s.straps.pairEn = true ∧ s.pair.linkUp = true) := by
  decide

/-! Engine 15, the last, runs a thread; item 5 serves device 1 on port 63, which the engine holds. -/

/-- A device of number 1 directly on port 63. -/
def device : Device :=
  { loc := .root 63, port := 63, tier := 1, path := [], waddr := 1, gen := .n1, isHub := false, ident := [], eps := [], reported := true }

/-- That device on port 63, with item 5, an open context of the device, a thread on engine 15, and the port's own state. -/
def onEngine (t : Thread) (pt : Port) (x : Item) (k : Nat) (c : Ctx) : State :=
  { ready with
    eng := { eng := [(15, { run := some t })] }
    front := { items := [(5, x)], nextItem := 6 }
    topo := { port := [(63, pt)], dev := [(1, device)], handle := [(1, { gen := 0, use := .live })], ctx := [(k, c)] } }

/-- A held, enabled port. -/
def heldPort (tx : Option Txn) : Port := { pg := true, admin := true, enabled := true, heldBy := some 15, txn := tx }

/-- A thread that serves item 5 and holds port 63. -/
def server : Thread := { work := .item 5, holds := [63] }

/-- BULK_IN and BULK_OUT of 32 bytes at endpoint 2, and a CTRL of device 1 without data. -/
def bulkInItem : Item := { func := 0, raw := BitVec.ofNat 256 (3 + 2 ^ 32 + 0x82 * 2 ^ 48 + 32 * 2 ^ 128), port := 63 }
def bulkOutItem : Item := { func := 0, raw := BitVec.ofNat 256 (2 + 2 ^ 32 + 2 * 2 ^ 48 + 32 * 2 ^ 128), port := 63 }
def ctrlItem : Item := { func := 0, raw := BitVec.ofNat 256 (1 + 2 ^ 32), port := 63, begun := true }

/-- An open bulk context. -/
def bulkCtx : Ctx := { handle := 1, epaddr := 2, typ := 1, isOpen := true, mps := 16, port := 63, waddr := 1 }

/-- A transaction of item 5 that engine 15 runs. -/
def txnOf (k : TxnKind) (ep : Nat) (dirIn : Bool) : Txn :=
  { kind := k, work := .item 5, engine := some 15, num := 1, ep := ep, dirIn := dirIn, seq0 := 0, count := 1 }

theorem canRun_of {s : State} {e : EngId} {t : Thread} {n : Nat} (h : live s = true ∧ (eng s e.val).run = some t ∧ t.wait = .running)
    (k : t.script = none ∧ t.pc.toNat < 0x2000) : CanRun s e t n := by
  refine ⟨h.1, h.2.1, h.2.2, ?_⟩
  rw [k.1]; exact k.2

theorem canRun_of_script {s : State} {e : EngId} {t : Thread} {n : Nat} {r : ScriptRun}
    (h : live s = true ∧ (eng s e.val).run = some t ∧ t.wait = .running) (k : t.script = some r ∧ n ≤ r.budget.toNat) : CanRun s e t n := by
  refine ⟨h.1, h.2.1, h.2.2, ?_⟩
  rw [k.1]; exact k.2

/-- A state in which engine 15 runs this thread, with nothing to hold it up. -/
def running (t : Thread) : State := onEngine t (heldPort none) bulkInItem (ctxKey 1 2 true) bulkCtx

/-- A thread in hook 0 of script 1, with a budget of 100 cycles. -/
def scripted : Thread := { server with script := some ⟨1, 0, 100, 5⟩, pc := 0x2000 }

theorem witness_EngineArithmetic : CanRun (running server) 15 server 1 ∧ CanRun (running scripted) 15 scripted 1
    ∧ (7 : Fin 8).val ≠ 0 ∧ (0 : Fin 8).val = 0 :=
  ⟨canRun_of (by decide) (by decide), canRun_of_script (by decide) (r := ⟨1, 0, 100, 5⟩) (by decide), by decide⟩

/-- The address that a load or store of pointer P3 with offset 0 reaches. -/
def reached (a : BitVec 24) : Nat := (preg { b := [], p := [(3, a)] } 3 + (0 : BitVec 12).setWidth 24).toNat

theorem witness_EngineMemory_addresses :
    [(0x3FFF : BitVec 24), 0x4000, 0x100000, 0x10003F, 0x180000, 0x18001F, 0x200000, 0x2007FF, 0x200800].map reached
      = [0x3FFF, 0x4000, 0x100000, 0x10003F, 0x180000, 0x18001F, 0x200000, 0x2007FF, 0x200800] := by decide

theorem witness_EngineMemory : CanRun (running server) 15 server 2 ∧ server.script = none
    ∧ CanRun (running scripted) 15 scripted 2 ∧ scripted.script ≠ none ∧ isServiceWork (.service 3) = true :=
  ⟨canRun_of (by decide) (by decide), by decide, canRun_of_script (by decide) (r := ⟨1, 0, 100, 5⟩) (by decide), by decide⟩

theorem witness_EngineControl :
    CanRun (running server) 15 server 2 ∧ server.script = none ∧ server.loops.length < 2 ∧ server.calls.length < 8 ∧ server.calls = []
    ∧ (∃ t : Thread, CanRun (running t) 15 t 2 ∧ t.script = none ∧ 2 ≤ t.loops.length ∧ 8 ≤ t.calls.length ∧ ∃ a r, t.calls = a :: r)
    ∧ CanRun (running scripted) 15 scripted 0 ∧ scripted.script ≠ none ∧ (1 : Byte).toNat ≠ 0 ∧ (255 : Byte) ≠ 0 :=
  ⟨canRun_of (by decide) (by decide), by decide, by decide, by decide, by decide,
    ⟨{ server with loops := [⟨0, 9, 2⟩, ⟨0, 8, 2⟩], calls := List.replicate 8 3 }, canRun_of (by decide) (by decide), by decide, by decide,
      by decide, 3, List.replicate 7 3, by decide⟩,
    canRun_of_script (by decide) (r := ⟨1, 0, 100, 5⟩) (by decide), by decide, by decide, by decide⟩

theorem witness_EngineWindows :
    (∀ t ∈ [server, { server with win := [(0, 1)] }, { server with work := .service 3, win := [(0, 1)] }, { server with armed := some 6 }],
      InMicrocode (running t) 15 t ∧ (eng (running t) 15).walk = [])
    ∧ (∃ s : State, InMicrocode s 15 server ∧ (eng s 15).walk = 3 :: []) := by
  refine ⟨?_, ⟨{ running server with eng := { eng := [(15, { run := some server, walk := [3] })] } }, ⟨canRun_of (by decide) (by decide), by decide⟩,
    by decide⟩⟩
  simp only [List.forall_mem_cons, List.not_mem_nil, false_imp_iff, implies_true, and_true]
  exact ⟨⟨⟨canRun_of (by decide) (by decide), by decide⟩, by decide⟩, ⟨⟨canRun_of (by decide) (by decide), by decide⟩, by decide⟩,
    ⟨⟨canRun_of (by decide) (by decide), by decide⟩, by decide⟩, ⟨⟨canRun_of (by decide) (by decide), by decide⟩, by decide⟩⟩

theorem witness_EnginePorts :
    (InMicrocode (running server) 15 server ∧ (63 : PortId).val ∈ server.holds ∧ (port (running server) 63).window ≠ some 15)
    ∧ (∃ t : Thread, let s := onEngine t { enabled := true } bulkInItem 69 bulkCtx
        InMicrocode s 15 t ∧ (63 : PortId).val ∉ t.holds ∧ (port s 63).heldBy = none ∧ (port s 63).window = none
          ∧ ∀ k ∈ (port s 63).holdWait, (15 : EngId).val ≤ k ∨ mayHold s k 63 = false)
    ∧ (∃ t : Thread, let s := onEngine t { enabled := true, window := some 15, holdWait := [3] } bulkInItem 69 bulkCtx
        InMicrocode s 15 t ∧ (port s 63).window = some (15 : EngId).val
          ∧ ∀ k ∈ (port s 63).holdWait, (15 : EngId).val ≤ k ∨ mayHold s k 63 = false)
    ∧ (∃ t : Thread, let s := onEngine t { enabled := true, heldBy := some 3 } bulkInItem 69 bulkCtx
        InMicrocode s 15 t ∧ (63 : PortId).val ∉ t.holds ∧ (port s 63).heldBy ≠ none)
    ∧ (∀ h ∈ [none, some 3], let t : Thread := { wait := .hold 63 }
       let s := onEngine t { enabled := true, heldBy := h } bulkInItem 69 bulkCtx
       live s = true ∧ (eng s 15).run = some t ∧ t.wait = .hold (63 : PortId).val ∧ (port s 63).heldBy = h ∧ (port s 63).holdWait = [])
    ∧ (∃ t : Thread, InMicrocode (running t) 15 t ∧ t.kind = .periodic ∧ (63 : PortId).val ∈ t.holds
        ∧ t.holds.filter (· != 63) = [] ∧ (eng (running t) 15).walk = [] ∧ (eng (running t) 15).paused = [])
    ∧ (∃ (t v : Thread) (s : State), InMicrocode s 15 t ∧ t.kind = .periodic ∧ (63 : PortId).val ∈ t.holds
        ∧ t.holds.filter (· != 63) = [] ∧ (eng s 15).paused = v :: [])
    ∧ (∃ (t : Thread) (s : State), InMicrocode s 15 t ∧ t.kind = .periodic ∧ (63 : PortId).val ∈ t.holds
        ∧ (port s 63).window = some (15 : EngId).val ∧ walkHas s 15 63 = false ∧ (eng s 15).walk ≠ [] ∧ (eng s 15).paused = []) :=
  ⟨⟨⟨canRun_of (by decide) (by decide), by decide⟩, by decide⟩,
    ⟨{}, ⟨canRun_of (by decide) (by decide), by decide⟩, by decide⟩, ⟨{}, ⟨canRun_of (by decide) (by decide), by decide⟩, by decide⟩,
    ⟨{}, ⟨canRun_of (by decide) (by decide), by decide⟩, by decide⟩, by decide,
    ⟨{ kind := .periodic, holds := [63] }, ⟨canRun_of (by decide) (by decide), by decide⟩, by decide⟩,
    ⟨{ kind := .periodic, holds := [63] }, { kind := .periodic },
      { ready with eng := { eng := [(15, { run := some { kind := .periodic, holds := [63] }, paused := [{ kind := .periodic }] })] } },
      ⟨canRun_of (by decide) (by decide), by decide⟩, by decide⟩,
    ⟨{ kind := .periodic, holds := [63] },
      { ready with
        eng := { eng := [(15, { run := some { kind := .periodic, holds := [63] }, walk := [7] })] }
        topo := { port := [(63, { heldPort none with window := some 15 })] } },
      ⟨canRun_of (by decide) (by decide), by decide⟩, by decide⟩⟩

/-- Port 63 on the SerDes, which parks nobody, and with the answer of a transaction. -/
def fastPort (a : Option (Nat × Nat × Nat)) : Port := { heldPort none with gen := .n5, link := .active, answer := a }

theorem witness_EngineWaits :
    (∀ a ∈ [none, some (5, 1, 2)], let s := onEngine server { heldPort none with answer := a } bulkInItem 69 bulkCtx
      server.holds.head? = some (63 : PortId).val ∧ genCode (port s 63).gen ≤ 1 ∧ (port s 63).answer = a ∧ chanBarred s server true = false
        ∧ live s = true ∧ (eng s 15).run = some server)
    ∧ CanRun (onEngine server { heldPort none with answer := some (5, 1, 2) } bulkInItem 69 bulkCtx) 15 server 4
    ∧ CanRun (running server) 15 server 4
    ∧ (let s := onEngine server (fastPort (some (5, 1, 2))) bulkInItem 69 bulkCtx
       CanRun s 15 server 2 ∧ (port s 63).answer = some (5, 1, 2) ∧ ¬ genCode (port s 63).gen ≤ 1 ∧ chanBarred s server true = false)
    ∧ (let s := onEngine server (fastPort none) bulkInItem 69 bulkCtx
       CanRun s 15 server (dlyCost s 15 9) ∧ (port s 63).answer = none ∧ ¬ genCode (port s 63).gen ≤ 1)
    ∧ (CanRun (running scripted) 15 scripted 4 ∧ chanBarred (running scripted) scripted true = true
        ∧ scripted.holds.head? = some (63 : PortId).val)
    ∧ (∀ w ∈ [Wait.dly, .running], ∀ r ∈ [true, false],
       let k : Parked := ⟨{ server with wait := w }, r⟩
       let s := { ready with eng := { eng := [(15, { parked := [(63, k)] })] } }
       live s = true ∧ tfind (eng s 15).parked 63 = some k ∧ (eng s 15).run = none
         ∧ firstReady (eng s 15) = if r then some 63 else none)
    ∧ (∀ v ∈ [({ kind := .periodic } : Thread), { wait := .getw }],
       let s := { ready with eng := { eng := [(15, { run := some v, parked := [(63, ⟨server, true⟩)] })] } }
       live s = true ∧ (eng s 15).run = some v ∧ firstReady (eng s 15) = some 63 ∧ midTxn s 15 = false) :=
  ⟨by decide, canRun_of (by decide) (by decide), canRun_of (by decide) (by decide),
    ⟨canRun_of (by decide) (by decide), by decide⟩, ⟨canRun_of (by decide) (by decide), by decide⟩,
    ⟨canRun_of_script (by decide) (r := ⟨1, 0, 100, 5⟩) (by decide), by decide⟩, by decide⟩

theorem witness_ResultCodes : (7 : Nat) ≤ 7 ∧ bit (0x80 : Byte) 7 = true ∧ bit (0x7F : Byte) 7 = false := by decide

theorem witness_EngineTokens :
    (let s := running server
     OnLine s 15 server 63 5 bulkInItem ∧ bulkInItem.pendErr = none ∧ (port s 63).lane = [] ∧ ctx? s 1 2 true = some bulkCtx
       ∧ bulkCtx.isOpen = true ∧ bulkCtx.halted = false ∧ (port s 63).txn = none ∧ lineFree s 63 = true
       ∧ fitCount s 63 true (fun n => tokCost (port s 63).gen .bulkIn n bulkCtx.mps.toNat (tokTiers s bulkCtx) + scriptTime s 1)
           (min 1 (itemLeft s bulkInItem bulkCtx.mps.toNat)) = 1
       ∧ roomCount s 5 bulkInItem bulkCtx.mps.toNat 1 = 1)
    ∧ (let x := { bulkInItem with visitOver := true }
       let s := onEngine server (heldPort none) x (ctxKey 1 2 true) bulkCtx
       OnLine s 15 server 63 5 x ∧ itemLeft s x bulkCtx.mps.toNat = 0)
    ∧ (let x := { bulkInItem with raw := BitVec.ofNat 256 (3 + 2 ^ 32 + 0x82 * 2 ^ 48 + 8192 * 2 ^ 128), moved := 4090, pages := [7] }
       let s := onEngine server (heldPort none) x (ctxKey 1 2 true) bulkCtx
       OnLine s 15 server 63 5 x ∧ itemLeft s x bulkCtx.mps.toNat ≠ 0 ∧ roomCount s 5 x bulkCtx.mps.toNat 1 = 0)
    ∧ (let s := { running server with tb := { ({} : Timebase) with flen := 8 } }
       OnLine s 15 server 63 5 bulkInItem
         ∧ fitCount s 63 true (fun n => tokCost (port s 63).gen .bulkIn n bulkCtx.mps.toNat (tokTiers s bulkCtx) + scriptTime s 1) 1 = 0)
    ∧ (let s := onEngine server (heldPort none) ctrlItem (ctxKey 1 0 false) { bulkCtx with epaddr := 0 }
       OnLine s 15 server 63 5 ctrlItem ∧ ctx? s 1 0 false = some { bulkCtx with epaddr := 0 } ∧ (port s 63).txn = none ∧ lineFree s 63 = true)
    ∧ (let s := onEngine server { heldPort (some (txnOf .bulkIn 2 true)) with gen := .n3 } bulkInItem (ctxKey 1 2 true) bulkCtx
       OnLine s 15 server 63 5 bulkInItem ∧ (port s 63).txn ≠ none ∧ ctx? s 1 2 true = some bulkCtx)
    ∧ (let c := { bulkCtx with tt := some ⟨2, 2, 1⟩ }
       let s := onEngine server (fastPort none) bulkInItem (ctxKey 1 2 true) c
       OnLine s 15 server 63 5 bulkInItem ∧ (port s 63).lane = [] ∧ ctx? s 1 2 (nextIn bulkInItem) = some c ∧ c.tt = some ⟨2, 2, 1⟩
         ∧ field c.epaddr 0 4 = 2 ∧ serdes (port s 63).gen = true ∧ (port s 63).txn = none ∧ lineFree s 63 = true
         ∧ itemLeft s bulkInItem c.mps.toNat ≠ 0 ∧ (¬ ∃ a, bulkInItem.doneAt = some a ∧ a ≤ absUframe s)
         ∧ fits s 63 (splCost (port s 63).gen true false true c.mps.toNat (tokTiers s c) + scriptTime s 1) true = true)
    ∧ (let x := { bulkInItem with doneAt := some 0 }; ∃ a, x.doneAt = some a ∧ a ≤ absUframe (running server))
    ∧ bulkCtx.tt = none := by
  refine ⟨⟨⟨⟨canRun_of (by decide) (by decide), by decide⟩, by decide⟩, by decide⟩,
    ⟨⟨⟨canRun_of (by decide) (by decide), by decide⟩, by decide⟩, by decide⟩,
    ⟨⟨⟨canRun_of (by decide) (by decide), by decide⟩, by decide⟩, by decide⟩,
    ⟨⟨⟨canRun_of (by decide) (by decide), by decide⟩, by decide⟩, by decide⟩,
    ⟨⟨⟨canRun_of (by decide) (by decide), by decide⟩, by decide⟩, by decide⟩,
    ⟨⟨⟨canRun_of (by decide) (by decide), by decide⟩, by decide⟩, by decide⟩,
    ⟨⟨⟨canRun_of (by decide) (by decide), by decide⟩, by decide⟩, by decide, by decide, by decide, by decide, by decide, by decide,
      by decide, by decide, by rintro ⟨a, h, -⟩; simp [bulkInItem] at h, by decide⟩,
    ⟨0, by decide, by decide⟩, by decide⟩

theorem witness_EngineData :
    (let tx := { txnOf .setup 0 false with waiting := false }
     let s := onEngine server (heldPort (some tx)) ctrlItem (ctxKey 1 0 false) bulkCtx
     InMicrocode s 15 server ∧ server.work = .item 5 ∧ workPort s server.work = 63 ∧ item? s 5 = some ctrlItem ∧ ctrlItem.status = none
       ∧ (port s 63).txn = some tx ∧ tx.work = .item 5 ∧ tx.engine = some (15 : EngId).val ∧ (port s 63).lane = [] ∧ tx.sent = 0
       ∧ tx.count = 1 ∧ ctrlItem.posted = none ∧ outPayload s tx 5 ctrlItem 0 = some (zeros 8))
    ∧ (let tx := { txnOf .bulkOut 2 false with waiting := false }
       let s := onEngine server (heldPort (some tx)) bulkOutItem (ctxKey 1 2 false) bulkCtx
       InMicrocode s 15 server ∧ workPort s server.work = 63 ∧ item? s 5 = some bulkOutItem ∧ (port s 63).txn = some tx
         ∧ tx.work = .item 5 ∧ tx.engine = some (15 : EngId).val ∧ (port s 63).lane = [] ∧ outPayload s tx 5 bulkOutItem 0 = none ∧ outBad s tx bulkOutItem 0 = false)
    ∧ (let tx := { txnOf .bulkOut 2 false with waiting := false }
       let x := { bulkOutItem with staged := 32 }
       let s := onEngine server (heldPort (some tx)) x (ctxKey 1 2 false) bulkCtx
       InMicrocode s 15 server ∧ item? s 5 = some x ∧ (outPayload s tx 5 x 0).isSome = true)
    ∧ (let tx := { txnOf .bulkOut 2 false with waiting := false }
       let x := { bulkOutItem with staged := 32, pages := [7] }
       let s := { onEngine server (heldPort (some tx)) x (ctxKey 1 2 false) bulkCtx with dma := { bad := [(7, 0)] } }
       InMicrocode s 15 server ∧ item? s 5 = some x ∧ (port s 63).txn = some tx ∧ outPayload s tx 5 x 0 = none ∧ outBad s tx x 0 = true
         ∧ x.stopAs = none ∧ (port s 63).resetDue = false ∧ (port s 63).enumQueue = [])
    ∧ (let tx := { txnOf .bulkIn 2 true with ackDue := true, final := true }
       let s := onEngine server (heldPort (some tx)) bulkInItem (ctxKey 1 2 true) bulkCtx
       InMicrocode s 15 server ∧ (port s 63).txn = some tx ∧ tx.ackDue = true ∧ tx.work = .item 5 ∧ tx.engine = some (15 : EngId).val
         ∧ bulkInItem.stopAs = none ∧ Quiet s 63 ∧ itemCtrl bulkInItem = false) :=
  ⟨⟨⟨canRun_of (by decide) (by decide), by decide⟩, by decide⟩, ⟨⟨canRun_of (by decide) (by decide), by decide⟩, by decide⟩,
    ⟨⟨canRun_of (by decide) (by decide), by decide⟩, by decide⟩, ⟨⟨canRun_of (by decide) (by decide), by decide⟩, by decide⟩,
    ⟨⟨canRun_of (by decide) (by decide), by decide⟩, by decide, by decide, by decide, by decide, by decide, by unfold Quiet; decide, by decide⟩⟩

theorem witness_EngineWork :
    (InMicrocode (running server) 15 server ∧ (eng (running server) 15).walk = [] ∧ (eng (running server) 15).paused = []
      ∧ (eng (running server) 15).suspended = none
      ∧ tfind (running server).topo.ctx (workCtx (running server) server.work) = some bulkCtx ∧ item? (running server) 5 = some bulkInItem
      ∧ bulkInItem.status = none ∧ bulkInItem.pendErr = none ∧ isOwn bulkInItem = false ∧ bulkInItem.port ∈ server.holds)
    ∧ (∀ x ∈ [({ run := some server, suspended := some {} } : Engine), { run := some server, walk := [3] }, { run := some server, paused := [{}] }],
       let s := { running server with eng := { eng := [(15, x)] } }
       InMicrocode s 15 server ∧ ((eng s 15).walk ≠ [] ∨ (eng s 15).paused ≠ [] ∨ (eng s 15).suspended ≠ none))
    ∧ (let t : Thread := { wait := .getw }
       let s := running t
       serves s = true ∧ (eng s 15).run = some t ∧ t.wait = .getw ∧ (eng s 15).parked = [] ∧ s.front.requests = [] ∧ winsGetw s 15 = true)
    ∧ (let x := { bulkInItem with status := some 0, awaitFin := true }; x.status ≠ none ∧ isOwn x = false)
    ∧ (∃ x : Item, isOwn x = true ∧ x.pendErr = none ∧ InMicrocode (onEngine server (heldPort none) x 69 bulkCtx) 15 server
        ∧ item? (onEngine server (heldPort none) x 69 bulkCtx) 5 = some x) := by
  refine ⟨⟨⟨canRun_of (by decide) (by decide), by decide⟩, by decide⟩, ?_, by decide, by decide,
    ⟨{ bulkInItem with poll := true }, by decide, by decide, ⟨canRun_of (by decide) (by decide), by decide⟩, by decide⟩⟩
  simp only [List.forall_mem_cons, List.not_mem_nil, false_imp_iff, implies_true, and_true]
  exact ⟨⟨⟨canRun_of (by decide) (by decide), by decide⟩, by decide⟩, ⟨⟨canRun_of (by decide) (by decide), by decide⟩, by decide⟩,
    ⟨⟨canRun_of (by decide) (by decide), by decide⟩, by decide⟩⟩

theorem witness_EngineWork_grants :
    (let x := { bulkInItem with flow := some ⟨1, 0x82⟩, level := 3 }
     let s := { onEngine { wait := .getw } { heldPort none with heldBy := none } x (ctxKey 1 2 true) bulkCtx with
       fns := { fn := [(0, { created := true, sq := [(0, { created := true, cfg := 0x10004 })] })] } }
     (bestItem s 15).1 = some 5 ∧ item? s 5 = some x)
    ∧ (bestItem { ready with eng := { eng := [(15, { run := some { wait := .getw } })] } } 15).1 = none := by decide

theorem witness_EngineEvents :
    InMicrocode (running server) 15 server
    ∧ (let t : Thread := { wait := .getw }
       let c : Source := { soft := true, en := true, prio := 15, tmask := 0x8000 }
       let s := { running t with eic := { src := [(64, c)] } }
       live s = true ∧ (eng s 15).run = some t ∧ t.kind = .dispatch ∧ t.wait = .getw ∧ (64, c) ∈ s.eic.src ∧ isPending s 64 = true
         ∧ offered s 64 = some (15 : EngId).val ∧ runLevel s 15 < c.prio.toNat)
    ∧ (∀ n c, (n, c) ∈ (running server).eic.src → ¬ isPending (running server) n = true)
    ∧ serves ready = true ∧ shareFull ready 0 = false ∧ newestUngranted ready 0 = none :=
  ⟨⟨canRun_of (by decide) (by decide), by decide⟩, by decide, by intro n c h; simp [running, onEngine, ready] at h, by decide⟩

theorem witness_EngineEvents_full :
    let s := { ready with
      fns := { fn := [(0, { created := true, weight := 1 }), (1, { created := true, weight := 0 })] }
      front := { items := (List.range 8).map (fun k => (k, { bulkInItem with func := 1 })), nextItem := 8 } }
    serves s = true ∧ shareFull s 1 = true ∧ (newestUngranted s 1).map Prod.fst = some 7 ∧ 7 ≠ s.front.nextItem := by decide

/-- Script 1 loaded at 0x2000 with hooks 0 and 1. -/
def scriptOne : Script :=
  { base := 0x2000, words := 8, hooks := 3, entries := [0, 4, 0], wcCycles := 100, wcLineNs := 0, gens := 31, flags := 1, bus := false }

theorem witness_ScriptHooks :
    (let t := { server with bound := 1 }
     let s := { running t with eng := { eng := [(15, { run := some t })], scripts := [(1, scriptOne)] } }
     InMicrocode s 15 t ∧ boundScript t ≠ 0 ∧ tfind s.eng.scripts (boundScript t) = some scriptOne ∧ bit scriptOne.hooks 1 = true
       ∧ (1 : Nat) ∉ t.entered ∧ field (1 : BitVec 10) 0 2 = 1 ∧ field (1 : BitVec 10) 0 2 < 3 ∧ isServiceWork t.work = false)
    ∧ bit scriptOne.flags 0 = true
    ∧ (let t := { server with bound := 1, entered := [1] }; InMicrocode (running t) 15 t ∧ field (1 : BitVec 10) 0 2 ∈ t.entered)
    ∧ (let s := running server; InMicrocode s 15 server ∧ tfind s.eng.scripts (boundScript server) = none)
    ∧ (∀ h ∈ [0, 2], let t : Thread := { server with script := some ⟨1, h, 100, 5⟩, pc := 0x2000 }
       CanRun (running t) 15 t 2 ∧ t.script = some ⟨1, h, 100, 5⟩)
    ∧ (live (running scripted) = true ∧ (eng (running scripted) 15).run = some scripted ∧ scripted.work = .item 5
        ∧ item? (running scripted) 5 = some bulkInItem ∧ bulkInItem.status = none ∧ isOwn bulkInItem = false)
    ∧ (∀ n ∈ [0, 1, 2, 3], field (BitVec.ofNat 10 n) 0 2 = n)
    ∧ (port (running scripted) (workPort (running scripted) scripted.work)).txn = none
    ∧ scriptStatus 0 = true ∧ scriptStatus 0xFF = false := by
  refine ⟨⟨⟨canRun_of (by decide) (by decide), by decide⟩, by decide⟩, by decide, ⟨⟨canRun_of (by decide) (by decide), by decide⟩, by decide⟩,
    ⟨⟨canRun_of (by decide) (by decide), by decide⟩, by decide⟩, ?_, by decide⟩
  simp only [List.forall_mem_cons, List.not_mem_nil, false_imp_iff, implies_true, and_true]
  exact ⟨canRun_of_script (by decide) (r := ⟨1, 0, 100, 5⟩) (by decide), canRun_of_script (by decide) (r := ⟨1, 2, 100, 5⟩) (by decide)⟩

theorem witness_EngineStates :
    (let s := { ready with eng := { eng := [(15, { stopped := true })] } }; live s = true ∧ (eng s 15).stopped = true)
    ∧ clockNeeded ready 15 = false ∧ clockNeeded (running server) 15 = true
    ∧ (serves ready = true ∧ tget ([] : List Nat) ready.sch.floatWait (63 : PortId).val = [])
    ∧ (∀ k ∈ [ThreadKind.periodic, .dispatch], let g : Rung := { kind := .float, port := 63, engine := 15 }
       let t : Thread := { server with kind := k }
       let s := { running t with sch := { live := [(7, g)], floatWait := [(63, [5])] } }
       serves s = true ∧ floatOf s 63 = some (7, g) ∧ tget ([] : List Nat) s.sch.floatWait 63 = 5 :: [] ∧ item? s 5 = some bulkInItem
         ∧ resHalted s 7 g = false ∧ g.engine = (15 : EngId).val ∧ (eng s 15).retired = false ∧ (eng s 15).stopped = false
         ∧ (eng s 15).run = some t ∧ (eng s 15).paused = [] ∧ t.kind = k ∧ midTxn s 15 = false)
    ∧ (let g : Rung := { kind := .float, port := 63, engine := 15 }
       let s := { running server with sch := { live := [(7, g)], floatWait := [(63, [5])], state := [(7, { halted := true })] } }
       serves s = true ∧ floatOf s 63 = some (7, g) ∧ resHalted s 7 g = true ∧ isOwn bulkInItem = false ∧ bulkInItem.status = none) := by
  decide

/-- A command from secure PF0 software, and one from function 128. -/
def secureCtx : CmdCtx := ⟨.secure, 9, 0, 0⟩
def vfCtx : CmdCtx := ⟨.nonSecure 127, 9, 0x1000, 0x2000⟩

/-- An image of one word, SRET 0 of its hook BEFORE, for N1 alone. Its CRC was computed outside the model. -/
def oneWord : List Byte :=
  [79, 88, 83, 67, 1, 1, 1, 0, 0, 0, 255, 255, 255, 255, 0, 0, 10,
    0, 0, 0, 0, 0, 0, 0, 1, 0, 0, 0, 33, 52, 126, 221, 0, 0, 0, 188]

theorem witness_ScriptCommands :
    (let s := running server
     live s = true ∧ sender secureCtx.chan = 0 ∧ sender vfCtx.chan ≠ 0 ∧ tfind s.eng.scripts 255 = none ∧ (checkImage []).1 ≠ 0
       ∧ (255 : Byte).toNat ≠ 0 ∧ s.eng.rules.length < 64)
    ∧ (let s := { running server with eng := { scripts := [(1, scriptOne)], rules := List.replicate 64 ⟨2, 0, 0, 0⟩ } }
       live s = true ∧ tfind s.eng.scripts 1 = some scriptOne ∧ scriptBound s 1 = false ∧ 64 ≤ s.eng.rules.length
         ∧ bindDevBar s 1 = none ∧ dev? s 1 = some device ∧ bindBar device scriptOne = none
         ∧ bindBar device { scriptOne with gens := 0 } = some 7)
    ∧ (let s := { ready with eng := { scripts := [(1, scriptOne)], rules := [⟨1, 0, 0, 0⟩] } }; scriptBound s 1 = true)
    ∧ scriptSpace { ready with eng := { scripts := [(1, { scriptOne with words := 4096 })] } } 1 = none
    ∧ scriptSpace ready 4096 = some 0x2000 := by decide
theorem witness_ScriptCommands_image : (checkImage oneWord).1 = 0 ∧ scriptSpace ready (imgField oneWord 6 2) = some 0x2000
    ∧ scriptSpace { ready with eng := { scripts := [(1, { scriptOne with words := 4096 })] } } (imgField oneWord 6 2) = none := by
  decide +kernel

/-! Port 63 and its line, link and tree. -/

/-- Port 63 in a given state on an otherwise idle part. -/
def onPort (x : Port) : State := { ready with topo := { port := [(63, x)] } }

/-- A thread that holds port 63 and waits there for any answer. -/
def waiter : Thread := { server with wait := .whs 0xFF 4 }

/-- A header from the device of number 1 at endpoint 2, as an answer to a token of that direction. -/
def fromDevice (dirIn : Bool) (q : BitVec 5) (len : BitVec 11) (tspec : Byte) : Hdr :=
  { addr := 1, dir := dirIn, ep := 2, seq := q, len := len, burst := 0, last := false, retry := false, lgasp := false, tspec := tspec }

/-- Item 5 on the line of port 63, with its transaction and its context. -/
def onTheWire (tx : Txn) (x : Item) (pt : Port) : State := onEngine waiter { pt with txn := some tx } x (ctxKey 1 2 tx.dirIn) bulkCtx

theorem awaits_of {tx : Txn} {x : Item} {pt : Port}
    (h : laneUp (onTheWire tx x pt) 63 = true ∧ tx.waiting = true ∧ tx.ackDue = false ∧ tx.engine = some 15 ∧ tx.work = .item 5
      ∧ x.status = none ∧ x.stopAs = none ∧ itemCtrl x = false ∧ (port (onTheWire tx x pt) 63).resetDue = false
      ∧ (port (onTheWire tx x pt) 63).enumQueue = [] ∧ (port (onTheWire tx x pt) 63).lane = []) :
    Awaits (onTheWire tx x pt) 63 15 waiter 0xFF 4 tx 5 x :=
  ⟨h.1, rfl, h.2.1, h.2.2.1, h.2.2.2.1, h.2.2.2.2.1, rfl, h.2.2.2.2.2.1, h.2.2.2.2.2.2.1, h.2.2.2.2.2.2.2.1, h.2.2.2.2.2.2.2.2,
    rfl, rfl, by decide, .inl rfl, fun _ h => nomatch h⟩

theorem witness_WireAnswers :
    (let tx := txnOf .bulkIn 2 true
     let s := onTheWire tx bulkInItem (heldPort none)
     Awaits s 63 15 waiter 0xFF 4 tx 5 bulkInItem ∧ 5 < s.front.nextItem ∧ fromPartner s tx (fromDevice true 0 0 5) = true
       ∧ (fromDevice true 0 0 5).tspec = 5 ∧ tx.kind = .bulkIn ∧ tx.stored = 0 ∧ tx.ep ≠ 0 ∧ ctx? s tx.num tx.ep tx.dirIn = some bulkCtx
       ∧ tx.receiving = false ∧ isOwn bulkInItem = false ∧ errorHook s tx = false ∧ (txnCtx s tx).tt = none)
    ∧ (∀ n ∈ [1, 2, 3, 4, 6], (fromDevice true 0 0 (BitVec.ofNat 8 n)).tspec.toNat = n)
    ∧ (let tx := { txnOf .bulkOut 2 false with sent := 1 }
       let s := onTheWire tx bulkOutItem (heldPort none)
       Awaits s 63 15 waiter 0xFF 4 tx 5 bulkOutItem ∧ 5 < s.front.nextItem ∧ fromPartner s tx (fromDevice false 1 0 0) = true ∧ tx.kind = .bulkOut
         ∧ 1 ≤ seqDist (txnGen s tx) tx.seq0 1 ∧ seqDist (txnGen s tx) tx.seq0 1 ≤ tx.sent ∧ tx.dirIn = false)
    ∧ (let tx := txnOf .splitDone 2 true
       let s := onTheWire tx bulkInItem (fastPort none)
       Awaits s 63 15 waiter 0xFF 4 tx 5 bulkInItem ∧ fromPartner s tx (fromDevice true 0 0 0) = true ∧ tx.kind = .splitDone
         ∧ serdes (port s 63).gen = true ∧ bulkInItem.nyet = false) :=
  ⟨⟨awaits_of (by decide), by decide⟩, by decide, ⟨awaits_of (by decide), by decide⟩, ⟨awaits_of (by decide), by decide⟩⟩

theorem witness_WireDataAndTimes :
    (let tx := txnOf .bulkIn 2 true
     let s := onTheWire tx bulkInItem (heldPort none)
     let h := fromDevice true 0 0 0
     Awaits s 63 15 waiter 0xFF 4 tx 5 bulkInItem ∧ tx.kind = .bulkIn ∧ tx.dirIn = true ∧ h.len.toNat ≤ (txnCtx s tx).mps.toNat
       ∧ tx.sent < tx.count ∧ (zeros 0).length = h.len.toNat ∧ fromPartner s tx h = true ∧ tx.bad = false ∧ h.seq = txnSeq s tx
       ∧ bulkInItem.posted = none ∧ (zeros 0).length ≤ itemLen bulkInItem - bulkInItem.moved ∧ serdes (port s 63).gen = false
       ∧ payloadCrc (port s 63).gen (zeros 0) = (0 : U32).toNat)
    ∧ (let tx := { txnOf .bulkIn 2 true with receiving := true, stored := 1, count := 2 }
       let s := onTheWire tx bulkInItem (fastPort none)
       Awaits s 63 15 waiter 0xFF 4 tx 5 bulkInItem ∧ serdes (port s 63).gen = true ∧ tx.receiving = true ∧ 0 < tx.stored)
    ∧ (let s := onEngine server (heldPort (some (txnOf .setup 0 false))) ctrlItem 64 bulkCtx
       live s = true ∧ item? s 5 = some ctrlItem ∧ itemCtrl ctrlItem = true ∧ ctrlItem.begun = true ∧ ctrlItem.status = none ∧ onWire s 5 = true)
    ∧ (let s := onEngine server (heldPort none) ctrlItem 64 bulkCtx
       item? s 5 = some ctrlItem ∧ onWire s 5 = false ∧ isOwn ctrlItem = false)
    ∧ (∀ sus ∈ [true, false], let s := onPort { enabled := true, sofHold := true, suspended := sus }
       laneUp s 63 = true ∧ (port s 63).sofHold = true ∧ serdes (port s 63).gen = false ∧ (port s 63).lane = [] ∧ sofPort s 63 = !sus) :=
  ⟨⟨awaits_of (by decide), by decide⟩, ⟨awaits_of (by decide), by decide⟩, by decide⟩

theorem witness_AttachToReset :
    (let s := onPort { pg := true, admin := true }
     serves s = true ∧ live s = true ∧ (port s 63).enabled = false ∧ (port s 63).pg = true ∧ attaches (port s 63) = true
       ∧ (port s 63).attach = .idle ∧ boundPorts s 63 = [] ∧ (port s 63).admin = true)
    ∧ (port (onPort { enabled := true }) 63).enabled = true
    ∧ (∀ g ∈ [(2 : BitVec 3), 3], let s := onPort { pg := true, bias := true, genMax := g, attach := .debounce }
       serves s = true ∧ (port s 63).attach = .debounce ∧ connectOf (port s 63) = true ∧ reportsFull s = false ∧ genCap (port s 63) = g.toNat
         ∧ highZ s 63 = false)
    ∧ (let s := { onPort { pg := true, bias := true } with slots := { die := [(3, { coreLost := true })] } }; highZ s 63 = true)
    ∧ connectOf (port (onPort { attach := .debounce }) 63) = false
    ∧ (∀ fe ∈ [true, false], ∀ b ∈ [true, false], let s := onPort { attach := .detect, farEnd := fe, bias := b }
       serves s = true ∧ (port s 63).attach = .detect ∧ (port s 63).farEnd = fe ∧ (port s 63).bias = b)
    ∧ (∀ n ∈ [1, 2], let s := onPort { link := .polling, trainings := n }
       serves s = true ∧ (port s 63).link = .polling ∧ (port s 63).trainings = n ∧ (port s 63).bias = false) := by decide

theorem witness_AttachToReset_full : ∃ s, serves s = true ∧ reportsFull s = true ∧ (port s 63).attach = .debounce ∧ connectOf (port s 63) = true := by
  refine ⟨{ onPort { pg := true, bias := true, attach := .debounce } with
    topo := { port := [(63, { pg := true, bias := true, attach := .debounce })], reports := List.replicate 16384 { kind := 0, port := 0 } } },
    by decide, ?_, by decide, by decide⟩
  simp only [reportsFull, List.length_replicate]; decide

theorem witness_AttachResetEnds :
    (∀ fe ∈ [true, false], let s := onPort { attach := .signalling, genUse := 4, farEnd := fe }
      serves s = true ∧ (port s 63).attach = .signalling ∧ serdesSide (port s 63) = fe)
    ∧ (let s := onPort { attach := .announce, genUse := 2, pg := true, bias := true }
       serves s = true ∧ (port s 63).attach = .announce ∧ connectOf (port s 63) = true ∧ genCode .n3 ≤ (port s 63).genUse)
    ∧ (let s := onPort { attach := .confirm, confirm := .n3, commanded := true }
       serves s = true ∧ (port s 63).attach = .confirm ∧ (port s 63).commanded = true) := by decide

/-- An enumeration of the device on port 63 that stands at a step. -/
def enumAt (e : EnumStep) : State :=
  { ready with topo := {
      port := [(63, { enum := some { loc := .root 63, num := 1, waddr := 1, step := e, hubDesc := [16, 9, 3] } })]
      ctx := [(ctxKey 1 0 false, bulkCtx)] } }

theorem witness_AttachEnumeration :
    (let s := onPort { attach := .recovery }
     serves s = true ∧ (port s 63).attach = .recovery ∧ (port s 63).enum = none ∧ devAt s (.root 63) = none
       ∧ (takeHandle s).map Prod.fst = some 0 ∧ freeAddr s 63 = some 1 ∧ freeCtxs s ≠ 0 ∧ s.front.requests = [] ∧ shareFull s 0 = false
       ∧ ∀ e ∈ s.front.items, isOwn e.2 = false)
    ∧ (let s := { ready with topo := { port := [(63, { attach := .recovery })], dev := [(1, device)], ctx := [(ctxKey 1 0 false, bulkCtx)] } }
       serves s = true ∧ (port s 63).attach = .recovery ∧ (port s 63).enum = none ∧ devAt s (.root 63) = some (1, device)
         ∧ ctx? s 1 0 false = some bulkCtx)
    ∧ (∀ e ∈ [EnumStep.setAddress, .addressWait, .getIdent, .getHub, .getEps, .setConfig, .powerWait 2],
       serves (enumAt e) = true ∧ (enumAt e).front.requests = [] ∧ (enumAt e).front.items = [] ∧ shareFull (enumAt e) 0 = false
         ∧ ctx? (enumAt e) 1 0 false = some bulkCtx
         ∧ ∃ n, (port (enumAt e) 63).enum = some n ∧ n.step = e ∧ n.num = 1 ∧ n.again = false ∧ 2 < hubPortsOf n.hubDesc)
    ∧ (∀ n ∈ [(0 : Byte), 30], let d : List Byte := [32, 1, 0, 0, 0, 0, 0, 0, 0, 0, n, 0, 0, 0, 0, 0] ++ zeros 16
       identOk (locGen (enumAt .getIdent) (.root 63)) d = true ∧ idIsHub d = false ∧ idNumEp d = n.toNat)
    ∧ (let s := { ready with topo := { reuse := [(4095, 7)] } }; live s = true ∧ s.topo.reuse.any (fun e => e.1 == 4095) = true) := by
  refine ⟨by decide, by decide, ?_, by decide, by decide⟩
  intro e h
  refine ⟨rfl, rfl, rfl, by show shareFull ready 0 = false; decide, rfl, ⟨_, rfl, rfl, rfl, rfl, show 2 < hubPortsOf [16, 9, 3] by decide⟩⟩

/-- A hub of number 9 on port 63, with three ports. -/
def hubDevice (polled : Bool) : Device := { device with isHub := true, hubDesc := [16, 9, 3], polled := polled, gen := .n3 }
def onHub (polled : Bool) : State :=
  { ready with topo := {
      port := [(63, { enabled := true, gen := .n3 })]
      dev := [(9, hubDevice polled)]
      ctx := [(ctxKey 9 0 false, bulkCtx), (ctxKey 9 1 true, bulkCtx)] } }

theorem witness_HubStatus :
    (∀ b ∈ [true, false], hub? (onHub b) (9 : Fin 4096).val = some (hubDevice b) ∧ serves (onHub b) = true ∧ live (onHub b) = true
      ∧ (onHub b).front.requests = [] ∧ shareFull (onHub b) 0 = false ∧ ctx? (onHub b) 9 0 false = some bulkCtx ∧ pollPending (onHub b) 9 = false)
    ∧ ctx? (onHub true) 9 1 true = some bulkCtx ∧ (hubDevice true).polled = true ∧ (port (onHub true) 63).enabled = true
    ∧ (let s := { onHub true with front := { items := [(5, { bulkInItem with poll := true, posted := some (requestBody (onHub true) 9 bulkCtx none) })] } }
       pollPending s 9 = true)
    ∧ shareFull (request 9 0x21 0x86 0 3 4 (onHub true)) 0 = false
    ∧ (bit (1 : U16) 0 = true ∧ bit (8 : U16) 0 = false ∧ bit (8 : U16) 3 = true)
    ∧ (bit (0x10001 : U32) 16 && bit (0x10001 : U32) 0) = true ∧ (bit (0 : U32) 16 && bit (0 : U32) 0) = false
    ∧ field (0x20001 : U32) 16 7 = 2 ∧ bit (0x20001 : U32) 0 = true ∧ 3 ≤ hubPortsOf (hubDevice true).hubDesc ∧ (hubDevice true).port < 64 := by
  decide

theorem witness_HubStatus_retry :
    let s := { onHub true with topo := { (onHub true).topo with port := [(63, { enabled := true, suspended := true, gen := .n3 })] } }
    hub? s 9 = some (hubDevice true) ∧ live s = true ∧ admitStatus 9 s = none := by decide

theorem witness_LinkTraining :
    (∀ l ∈ [LinkState.detect, .polling, .config, .recovery], ∀ e ∈ [true, false], let s := onPort { link := l, enabled := e, fromLowPower := e }
      serves s = true ∧ (port s 63).link = l ∧ (port s 63).enabled = e ∧ (port s 63).fromLowPower = e ∧ (port s 63).capGot = false)
    ∧ (let s := onPort { link := .active, enabled := true }; serves s = true ∧ (port s 63).link = .active)
    ∧ (∀ b ∈ [true, false], let s := onPort { link := .config, genUse := 4, rateN5 := b, doneSent := b, capGot := b }
       serves s = true ∧ (port s 63).doneSent = b ∧ (port s 63).capGot = b
         ∧ (bit (1 : BitVec 11) 0 && decide (4 ≤ (port s 63).genUse) && !(port s 63).rateN5) = !b ∧ (port s 63).doneGot = false) := by decide

theorem witness_LinkPowerAndLoss :
    (∀ w ∈ [some 3, none], let s := onPort { link := .active, wakeAt := w, silence := true, suspended := true }
      serves s = true ∧ (port s 63).link = .active ∧ ((port s 63).txn.isSome || (port s 63).wakeAt.isSome) = w.isSome
        ∧ (port s 63).txn = none ∧ (port s 63).silence = true ∧ (port s 63).suspended = true)
    ∧ (∀ c ∈ [0x10, 0x20, 0x30], ∀ n ∈ [3, 4], let s := onPort { cmdWait := some (c, n) }
       serves s = true ∧ (port s 63).cmdWait = some (c, n) ∧ (port s 63).txn = none)
    ∧ (port (onPort {}) 63).cmdWait = none
    ∧ (∀ l ∈ [LinkState.lowpower, .recovery, .detect], let s := onPort { link := l, enabled := true, gen := .n4, trainings := 1 }
       serves s = true ∧ (port s 63).link = l ∧ (port s 63).enabled = true ∧ serdes (port s 63).gen = true ∧ (port s 63).trainings < 2
         ∧ (port s 63).farEnd = false)
    ∧ (let s := onPort { enabled := true, gen := .n3 }; serves s = true ∧ (port s 63).enabled = true ∧ serdes (port s 63).gen = false) := by
  decide

theorem witness_ReportRing :
    (let r : Report := { kind := 1, port := 63 }
     let s := { ready with topo := { base := 0x10000, reports := [r] }, fns := { fn := [(0, { created := true, bme := true })] } }
     live s = true ∧ s.topo.base ≠ 0 ∧ (fn s 0).bme = true ∧ ringUsed s < ringSize s ∧ s.topo.reports = r :: [] ∧ s.topo.waiting = [])
    ∧ hostReaches ready 0 = true ∧ ready.topo.prod.toNat = field ready.topo.ring 0 16
    ∧ (let s := { ready with topo := { prod := 1 } }; s.topo.prod.toNat ≠ field s.topo.ring 0 16) := by decide

theorem witness_ReportRing_ports (p : Nat) : (port ready p).attach ≠ .held ∧ Quiet ready p :=
  ⟨by simp [port, ready, tget], rfl, rfl, rfl⟩

theorem witness_PortCommands :
    (∀ sus ∈ [true, false], ∀ w ∈ [some 7, none], let s := onPort { admin := true, pg := true, enabled := true, suspended := sus, wakeAt := w }
      hostReaches s 0 = true ∧ serves s = true ∧ portDown (port s 63) = false ∧ (port s 63).suspended = sus ∧ (port s 63).wakeAt = w
        ∧ (port s 63).resumeAt = none ∧ (port s 63).resetting = false ∧ (port s 63).resetDue = false ∧ s.pwr.st = .run
        ∧ suspendRefusal s (.root 63) = 0)
    ∧ (let s := onPort { admin := true, pg := true }
       portDown (port s 63) = false ∧ (port s 63).suspended = false ∧ suspendRefusal s (.root 63) = 0xA)
    ∧ (let s := onPort { admin := true, pg := true, enabled := true, resumeAt := some 3, resuming := true }
       portDown (port s 63) = false ∧ (port s 63).suspended = false ∧ suspendRefusal s (.root 63) = 2)
    ∧ (let s := { onPort { admin := true, pg := true, enabled := true } with
         topo := { port := [(63, { admin := true, pg := true, enabled := true })], dev := [(1, device)] }, sch := { live := [(7, { handle := 1 })] } }
       portDown (port s 63) = false ∧ (port s 63).suspended = false ∧ suspendRefusal s (.root 63) = 3)
    ∧ (let s := { onPort { pg := true } with front := { ctxEn := true } }
       hostReaches s 0 = true ∧ (port s 63).admin = false ∧ bit s.err.portFailed 63 = false ∧ s.front.ctxEn = true
         ∧ (port s 63).attach = .idle ∧ (port s 63).pg = true ∧ (port s 63).enabled = false)
    ∧ (let s := onPort { admin := true }; ((port s 63).admin && !(port s 63).held && (port s 63).attach != .refused) = true)
    ∧ (let s := { onPort { suspended := true } with pwr := { ({} : Power) with st := .sleep, ready := true } }
       serves s = true ∧ (port s 63).suspended = true ∧ s.pwr.st ≠ .run ∧ (port s 63).resetting = false ∧ (port s 63).resetDue = false)
    ∧ (∀ l ∈ [LinkState.lowpower, .active, .disabled], let s := onPort { resumeAt := some 3, link := l }
       serves s = true ∧ (port s 63).resumeAt ≠ none ∧ (port s 63).resumeEnded = false ∧ (port s 63).link = l ∧ (port s 63).txn = none) := by
  decide

/-- A body that names port 63 itself, and one that names port 2 of the hub there. -/
def rootBody : TopoBody := ⟨63, [], 1, 64⟩
def hubBody (slot : Byte) : TopoBody := ⟨63, [2], 9, slot⟩

theorem witness_TopoCommands :
    sender vfCtx.chan ≠ 0 ∧ sender secureCtx.chan = 0 ∧ bodyLoc ready ⟨64, [], 0, 0⟩ = none
    ∧ (∀ sus ∈ [true, false], let s := onPort { admin := true, pg := true, enabled := true, suspended := sus }
       serves s = true ∧ bodyLoc s rootBody = some (.root 63) ∧ portDown (port s 63) = false ∧ (port s 63).suspended = sus
         ∧ (port s 63).resumeAt = none ∧ (port s 63).resetting = false ∧ (port s 63).resetDue = false ∧ suspendRefusal s (.root 63) = 0)
    ∧ (let s := onPort { admin := true, pg := true, enabled := true, suspended := true, resetDue := true }
       serves s = true ∧ bodyLoc s rootBody = some (.root 63) ∧ (port s 63).suspended = true ∧ (port s 63).resetDue = true)
    ∧ portDown (port (onPort {}) 63) = true
    ∧ (∀ v ∈ [(63 : Byte), 64], let s := onHub true
       serves s = true ∧ bodyLoc s (hubBody v) = some (.hub 9 2) ∧ (hubBody v).slot = v ∧ (dev? s 9).isSome = true)
    ∧ handleCurrent (onPort {}) 1 = false
    ∧ (let s := running server
       serves s = true ∧ handleCurrent s rootBody.handle = true ∧ dev? s (field rootBody.handle 0 12) = some device ∧ device.isHub = false
         ∧ device.loc = .root 63)
    ∧ (let s := { onHub true with topo := { (onHub true).topo with
         handle := [(9, { gen := 0, use := .live })], dev := [(9, hubDevice true)] } }
       handleCurrent s (hubBody 0).handle = true ∧ (hubDevice true).isHub = true) := by decide

theorem witness_Boundaries :
    live ready = true ∧ timebaseRuns ready = true ∧ 376000 ≤ ready.tb.flen ∧ ready.tb.flen ≤ 424000
    ∧ (let s := { ready with err := { held := true } }; live s = false ∧ holding s = true ∧ timebaseRuns s = true) := by decide

theorem witness_Boundaries_serving :
    (let w := beginFrame ready
     serves (swapIfPending { (if yieldDue w then enterYielded w else w) with pwr := { (if yieldDue w then enterYielded w else w).pwr with moved := false } }) = true)
    ∧ (let w := beginFrame (pairPart { st := .standby })
       serves (swapIfPending { (if yieldDue w then enterYielded w else w) with pwr := { (if yieldDue w then enterYielded w else w).pwr with moved := false } }) = false) := by
  decide

theorem witness_Boundaries_micro :
    (let z := judgeIdle (newUnits 7 (beginUframe 7 ready)); serves z = true)
    ∧ (let z := judgeIdle (newUnits 7 (beginUframe 7 (pairPart { st := .standby }))); serves z = false) := by decide

/-- Axis 3 in a given state. -/
def onAxis (x : Axis) : State := { ready with tb := { ax := [(3, x)] } }

theorem witness_AxisEdges :
    (∀ m ∈ [0, 1, 2, 3], let s := onAxis { cfg := BitVec.ofNat 32 m }
      live s = true ∧ timebaseRuns s = true ∧ hostReaches s 0 = true ∧ axMode (axis s 3) = m ∧ tooSoon (axis s 3) (now s) = false
        ∧ (axis s 3).stA = false ∧ (axis s 3).stB = false)
    ∧ tooSoon (axis (onAxis { cfg := 1, lastEdge := some 0 }) 3) (now (onAxis { cfg := 1, lastEdge := some 0 })) = true
    ∧ quadForward { cfg := 1 } true false ≠ quadForward { cfg := 1 } false true
    ∧ (∀ r ∈ [true, false], let s := onAxis { cfg := 5, reverse := r }
       axMode (axis s 3) = 1 ∧ axZsync (axis s 3) = true ∧ (axis s 3).reverse = r)
    ∧ (let s := onAxis {}; axMode (axis s 3) = 0)
    ∧ (let s := onAxis { cfg := 0xFFFF0001 }; axMode (axis s 3) ≠ 0 ∧ axStallTo (axis s 3) ≠ 0 ∧ (axis s 3).stalled = false) := by decide

/-- Compare unit 255, with item 5 for it. -/
def onUnit (u : CmpUnit) (x : Axis) : State :=
  { ready with tb := { cmp := [(255, u)], ax := [(3, x)], cmpSel := 255 }, front := { items := [(5, bulkOutItem)] } }

theorem witness_CompareUnits :
    (let s := onUnit { axis := 3, action := 1, armed := true } { cfg := 1 }
     live s = true ∧ timebaseRuns s = true ∧ fires s 255 = true ∧ unitAction (cmpUnit s 255) = 1 ∧ (cmpUnit s 255).entry = none)
    ∧ (∀ f ∈ [[], [(63, 0)]], let u : CmpUnit := { axis := 3, action := 2, armed := true, entry := some 5, port := 63 }
       let s := { onUnit u { cfg := 1 } with sch := { floatIdle := f } }
       live s = true ∧ timebaseRuns s = true ∧ fires s 255 = true ∧ unitAction (cmpUnit s 255) ≠ 1 ∧ (cmpUnit s 255).entry = some 5
         ∧ item? s 5 = some bulkOutItem ∧ (tfind s.sch.floatIdle 63 = some (now s) ↔ f ≠ []))
    ∧ (∀ n ∈ [0, 1], let s := onUnit { axis := 3, action := 2, queue := [5] } { cfg := 1, cycle := BitVec.ofNat 16 n }
       live s = true ∧ unitAction (cmpUnit s 255) = 2 ∧ (cmpUnit s 255).entry = none ∧ (cmpUnit s 255).queue = 5 :: []
         ∧ item? s 5 = some bulkOutItem ∧ bulkOutItem.status = none ∧ isOwn bulkOutItem = false
         ∧ (!eAnyCycle bulkOutItem.raw && cyclePassed (cmpUnit s 255) (axis s 3) (now s) 1 (winOf 1) 0) = (n == 1))
    ∧ (let s := onUnit {} {}; hostReaches s 0 = true ∧ field s.tb.cmpSel 0 8 = (255 : Fin 256).val) := by decide

theorem witness_TimebaseRegisters :
    hostReaches ready 0 = true ∧ serves ready = true ∧ live ready = true ∧ timebaseRuns ready = true ∧ ready.tb.mode ≠ 1
    ∧ (∀ b ∈ [true, false], let s := { ready with tb := { ptmEn := b, ptmBusy := true } }
       serves s = true ∧ live s = true ∧ timebaseRuns s = true ∧ s.tb.ptmEn = b ∧ s.tb.ptmBusy = true)
    ∧ (field (376000 : U32) 0 19 % 8 = 0 ∧ 376000 ≤ field (376000 : U32) 0 19 ∧ field (424000 : U32) 0 19 ≤ 424000)
    ∧ lockPhaseHere ready = false
    ∧ (let s := { ready with tb := { ax := [(0, { cfg := 1 })] } }; live s = true ∧ timebaseRuns s = true ∧ lockPhaseHere s = true ∧ s.tb.mode ≠ 1) := by
  decide

theorem witness_TimebaseRegisters_locks :
    (∀ l ∈ [Lock.acquire, .locked], ∀ n ∈ [2, 3], ∀ f ∈ [0, 64, 65, 4097],
      let x : Axis := { cfg := 1, cpc := 4, period := 400000, lastEdge := some 0, interval := some 100000, sameDir := 5, cycleStart := some 0 }
      let s := { ready with tb := { ax := [(0, x)], mode := 1, lock := l, passes := n, tick := BitVec.ofNat 64 f } }
      live s = true ∧ timebaseRuns s = true ∧ lockPhaseHere s = true ∧ s.tb.mode = 1 ∧ s.tb.lock = l ∧ s.tb.passes = n ∧ phaseError s = f
        ∧ axisOut { s with tb := { s.tb with m := field s.tb.ctl 16 12 + 1 } } (axis s s.tb.axsel) = false
        ∧ field s.tb.ctl 16 12 + 1 = s.tb.m) := by decide

/-! Functions, queues, memory and mailboxes. -/

/-- VF127, the last, in a given state, with VFs enabled. -/
def onVf (x : Func) : State := { ready with fns := { fn := [(127, { x with enabled := true })], vfEnable := true, numVfs := 127 } }

/-- PF0 in a given state. -/
def onPf (x : Func) : State := { ready with fns := { fn := [(0, x)] } }

/-- A created VF with queue 0 and completion ring 0 of sixteen places each. -/
def vfQueues : Func :=
  { created := true, bme := true, nSq := 16, nCr := 16, nVec := 4, sq := [(0, { created := true, base := 0x10000, cfg := 0x10004 })]
    cr := [(0, { created := true, base := 0x20000, cfg := 4 })] }

theorem witness_QueueOperations :
    (∀ op ∈ [1, 2, 3], ∀ c ∈ [true, false], ∀ h ∈ [true, false],
      let s := onVf { busy := true, op := op, created := c, halted := h }
      live s = true ∧ (fn s 127).busy = true ∧ (fn s 127).op = op ∧ (fn s 127).created = c ∧ (fn s 127).halted = h)
    ∧ (∀ op ∈ [1, 2, 3], ∀ k ∈ [0, 1, 15, 16], ∀ r ∈ [0, 4096], let s := onVf { vfQueues with busy := true, op := op, qSel := BitVec.ofNat 32 (k + r) }
       (fn s 127).created = true ∧ (fn s 127).halted = false ∧ selNum (fn s 127) = k ∧ selCr (fn s 127) = decide (r ≠ 0)
         ∧ ((fn s 127).nSq ≤ k ↔ k = 16) ∧ ((fn s 127).nCr ≤ k ↔ k = 16)
         ∧ (sq s 127 k).created = decide (k = 0) ∧ (cr s 127 k).created = decide (k = 0)) := by decide

theorem witness_QueueOperations_forms :
    (let x := { vfQueues with qCfgSq := 0x10003 }; cfgLog2 x.qCfgSq < 4)
    ∧ (let x := vfQueues
       ¬(cfgLog2 x.qCfgSq < 4 ∨ 5 < cfgPrio x.qCfgSq ∨ cfgWeight x.qCfgSq = 0 ∨ (cfgMaint x.qCfgSq = true ∧ (127 ≠ 0 ∨ cfgTimed x.qCfgSq = true)))
       ∧ cfgCr x.qCfgSq < x.nCr ∧ (cr (onVf x) 127 (cfgCr x.qCfgSq)).created = true ∧ ¬(cfgLog2 x.qCfgCr < 4 ∨ x.nVec ≤ cfgVector x.qCfgCr))
    ∧ (cr (onVf vfQueues) 127 (cfgCr 0x100010004)).created = false ∧ cfgLog2 (3 : U64) < 4
    ∧ (sq (onVf { vfQueues with sq := [(0, { created := true, p := 1 })] }) 127 0).c
        ≠ (sq (onVf { vfQueues with sq := [(0, { created := true, p := 1 })] }) 127 0).p
    ∧ (sq (onVf vfQueues) 127 0).c = (sq (onVf vfQueues) 127 0).p ∧ (onVf vfQueues).front.items = []
    ∧ (∃ e ∈ vfQueues.sq, e.2.created = true ∧ cfgCr e.2.cfg = 0) ∧ (cr (onVf vfQueues) 127 0).waiting = [] := by decide

theorem witness_Kicks :
    (∀ h ∈ [true, false], let s := onVf { vfQueues with halted := h }
      hostReaches s 127 = true ∧ sqLive s 127 0 = true ∧ crLive s 127 0 = true ∧ (fn s 127).halted = h ∧ (fn s 127).flrBusy = false
        ∧ (cr s 127 0).waiting = [] ∧ (cr s 127 0).spillHalt = false)
    ∧ (let s := onPf { vfQueues with flrBusy := true }
       hostReaches s 0 = true ∧ sqLive s 0 0 = true ∧ crLive s 0 0 = true ∧ (fn s 0).flrBusy = true)
    ∧ inRing (sq (onVf vfQueues) 127 0) 16 ∧ inRing (sq (onVf vfQueues) 127 0) 0 ∧ ¬ inRing (sq (onVf vfQueues) 127 0) 17
    ∧ (let x := cr (onVf { vfQueues with cr := [(0, { created := true, cfg := 4, p := 16 })] }) 127 0
       (x.p - 16).toNat ≤ cfgSize x.cfg ∧ (x.p - 16).toNat ≤ (x.p - x.c).toNat ∧ ¬((x.p - 17).toNat ≤ cfgSize x.cfg))
    ∧ (let s := { onVf vfQueues with front := { sweep := [(127, 0)] } }
       serves s = true ∧ (127, 0) ∈ s.front.sweep ∧ 0 < cdiv (fn s 127).nSq 16 ∧ sqLive s 127 (16 * 0) = true
         ∧ (fn s 127).halted = false ∧ (fn s 127).flrBusy = false ∧ inRing (sq s 127 0) ((16 : U32).setWidth 16))
    ∧ (let s := { onVf { vfQueues with sq := [] } with front := { sweep := [(127, 0)] } }; sqLive s 127 (16 * 0) = false) := by
  simp only [inRing]; decide

theorem witness_Kicks_waiting :
    let w : WaitRec := { record := none, head := 0, tag := 0, sqid := 0, status := 0, flags := 0, residual := 0, stamp := 0, timed := false, item := none }
    let s := onVf { vfQueues with cr := [(0, { created := true, cfg := 4, p := 16, waiting := [w] })] }
    let x := cr s 127 0
    crLive s 127 0 = true ∧ (fn s 127).flrBusy = false ∧ x.waiting ≠ [] ∧ (x.p - 16).toNat ≤ cfgSize x.cfg
      ∧ (x.p - 16).toNat ≤ (x.p - x.c).toNat := by decide

theorem witness_Fetch :
    (let s := onPf { vfQueues with sq := [(0, { created := true, cfg := 0x10004, p := 1, reading := true })], enabled := true, nSq := 64 }
     serves s = true ∧ (sq s 0 0).reading = true ∧ (sq s 0 0).inval = [] ∧ checkEntry s 0 0 0 = .nop
       ∧ checkEntry s 0 0 9 = .failed stMalformed ∧ cfgTimed (sq s 0 0).cfg = false)
    ∧ canFetch (onPf { vfQueues with sq := [(0, { created := true, cfg := 0x10004, reading := true })] }) 0 0 = false := by decide

theorem witness_Fetch_goes :
    (let s := { onPf { vfQueues with sq := [(0, { created := true, cfg := 0x10014, p := 1, reading := true })], enabled := true, nSq := 64 } with
       front := { items := [(5, { func := 0, slot := .check })] } }
     canFetch s 0 0 = true ∧ takesSlot s 0 0 .nop = false)
    ∧ (let s := onPf { vfQueues with sq := [(0, { created := true, cfg := 0x10004, p := 1, reading := true })], enabled := true, nSq := 64 }
       canFetch s 0 0 = true ∧ takesSlot s 0 0 .nop = true)
    ∧ (let s := onPf { vfQueues with sq := [(0, { created := true, cfg := 0x10014, p := 1, reading := true })], enabled := true, nSq := 64 }
       canFetch s 0 0 = true ∧ takesSlot s 0 0 (.per 3) = true ∧ cfgTimed (sq s 0 0).cfg = true)
    ∧ (let s := onPf { vfQueues with
         sq := [(0, { created := true, stopped := true, cfg := 0x10004, p := 1, reading := true, inval := [(0, none)] })], enabled := true, nSq := 64 }
       canFetch s 0 0 = true ∧ (sq s 0 0).stopped = true ∧ takesSlot s 0 0 .nop = true) := by decide

def entryOf (op ep : Nat) (axis : Bool) : BitVec 256 :=
  BitVec.ofNat 256 (op + (if axis then 512 else 0) + 2 ^ 32 + ep * 2 ^ 48 + 16 * 2 ^ 128)

def fetching (cfg : U64) (c : Ctx) (g : Rung) : State :=
  let s := onEngine server (heldPort none) bulkInItem (ctxKey 1 2 true) c
  { s with
    sch := { live := [(7, g)] }
    topo := { s.topo with handle := [(1, { gen := 0, use := .live, owners := [(0, 0)] })] }
    tb := { ({} : Timebase) with cmp := [(0, { action := 2, port := 63 })] }
    fns := { fn := [(0, { vfQueues with
      enabled := true, nSq := 64, sq := [(0, { created := true, cfg := cfg, p := 1, reading := true })] })] } }

theorem witness_Fetch_verdicts :
    (∀ h ∈ [true, false], let s := fetching 0x10004 { bulkCtx with halted := h } {}
      serves s = true ∧ (sq s 0 0).reading = true ∧ canFetch s 0 0 = true ∧ checkEntry s 0 0 (entryOf 3 0x82 false) = .general
        ∧ takesSlot s 0 0 .general = true ∧ (ctx? s 1 2 true).map (·.halted) = some h)
    ∧ (let g : Rung := { kind := .periodic, handle := 1, ep := 2, dirIn := true, bytes := 16 }
       let s := fetching 0x10014 { bulkCtx with typ := 2 } g
       canFetch s 0 0 = true ∧ checkEntry s 0 0 (entryOf 5 0x82 false) = .per 7 ∧ takesSlot s 0 0 (.per 7) = true ∧ tfind s.sch.live 7 = some g)
    ∧ (let g : Rung := { kind := .event, handle := 1, ep := 2, dirIn := true, bytes := 16 }
       let s := fetching 0x10014 { bulkCtx with typ := 3 } g
       canFetch s 0 0 = true ∧ checkEntry s 0 0 (entryOf 7 0x82 false) = .evt 7 ∧ takesSlot s 0 0 (.evt 7) = true ∧ tfind s.sch.live 7 = some g)
    ∧ (let g : Rung := { kind := .float, handle := 1, ep := 2, dirIn := true, bytes := 16, port := 63 }
       let s := fetching 0x10014 { bulkCtx with typ := 2 } g
       canFetch s 0 0 = true ∧ checkEntry s 0 0 (entryOf 5 0x82 true) = .axis 7 ∧ takesSlot s 0 0 (.axis 7) = true)
    ∧ (let s := { onVf { vfQueues with sq := [(0, { created := true, cfg := 0x10004, p := 1, reading := true })] } with pwr := ready.pwr }
       canFetch s 127 0 = true ∧ checkEntry s 127 0 9 = .failed 0x0C) := by decide

/-- Item 5 of PF0, with its status open or decided. -/
def nopItem (st : Option Byte) : Item := { func := 0, status := st, wireDone := true }

theorem witness_Completions :
    (let s := { onPf { vfQueues with enabled := true } with front := { items := [(5, nopItem (some 0))] } }
     live s = true ∧ item? s 4 = none ∧ item? s 5 = some (nopItem (some 0)) ∧ releasable s 5 (nopItem (some 0)) = true
       ∧ (nopItem (some 0)).posted = none ∧ (fn s 0).flrBusy = false
       ∧ ((cr s 0 (sqCr s 0 0)).waiting.isEmpty && crRoom (cr s 0 (sqCr s 0 0)) && (fn s 0).bme) = true)
    ∧ (let s := { onPf { vfQueues with enabled := true, bme := false } with front := { items := [(5, nopItem (some 0))] } }
       releasable s 5 (nopItem (some 0)) = true ∧ (fn s 0).bme = false
         ∧ ((cr s 0 (sqCr s 0 0)).waiting.isEmpty && crRoom (cr s 0 (sqCr s 0 0)) && (fn s 0).bme) = false)
    ∧ (let s := { onPf { vfQueues with enabled := true, spillEntries := 8, cr := [(0, { created := true, cfg := 4, p := 16 })] } with
         front := { items := [(5, nopItem (some 0))] } }
       releasable s 5 (nopItem (some 0)) = true ∧ (fn s 0).bme = true ∧ crRoom (cr s 0 (sqCr s 0 0)) = false
         ∧ spillAllowed s 0 false = true ∧ spillFree (fn s 0) = some 0)
    ∧ releasable { onPf vfQueues with front := { items := [(5, nopItem none)] } } 5 (nopItem none) = false
    ∧ sender vfCtx.chan ≠ 0 ∧ sender secureCtx.chan = 0 ∧ sqLive (onPf vfQueues) 0 1 = false
    ∧ (∀ b ∈ [true, false], let s := onPf { vfQueues with sq := [(0, { created := true, stopped := b })] }
       live s = true ∧ sqLive s 0 0 = true ∧ (sq s 0 0).stopped = b) := by decide

/-- A context of channel 63 that reads for item 5. -/
def readingChan : State :=
  { running server with dma := { ctx := [(126, { state := .moving, work := .item 5, reading := some (5, 16) })] } }

theorem witness_DataMoves :
    (live readingChan = true ∧ (chan readingChan (ctxOf 63 false)).reading = some (5, 16) ∧ item? readingChan 5 = some bulkInItem
      ∧ bulkInItem.status = none ∧ isOwn bulkInItem = false ∧ (zeros 16).length = 16 ∧ bulkInItem.pages = [] ∧ (16 : Nat) ≤ 1024
      ∧ (zeros 15).length ≠ 16)
    ∧ (let x := { bulkInItem with pages := [7, 9] }
       let s := { readingChan with front := { items := [(5, x)], nextItem := 6 } }
       item? s 5 = some x ∧ x.pages ≠ [] ∧ x.pages.Nodup ∧ 16 ≤ x.pages.length * 4096)
    ∧ (chan ready (ctxOf 143 true)).reading = none ∧ chanDrained ready (ctxOf 143 true) = true
    ∧ (let x := { bulkOutItem with raw := BitVec.ofNat 256 (2 + 256 + 2 ^ 32 + 2 * 2 ^ 48 + 32 * 2 ^ 128 + 2 * 2 ^ 224) }
       let s := onEngine server (heldPort none) x (ctxKey 1 2 false) bulkCtx
       live s = true ∧ item? s 5 = some x ∧ eIdx x.raw = true ∧ x.status = none
         ∧ idxHeaderOk x (natLE 8 0x10000 ++ natLE 4 16 ++ zeros 4) = true ∧ idxHeaderOk x (zeros 16) = false)
    ∧ idxFits bulkOutItem 0x10000 16 0 (idxOffsets 64 (natLE 4 0 ++ natLE 4 16)) = [0, 16] ∧ eIdx bulkOutItem.raw = false ∧ item? ready 5 = none := by decide

/-- OUT item 5 of port 63, granted, and IN item 5 with its bytes to move, on an armed channel. -/
def grantedOut : Item := { bulkOutItem with granted := some 15 }
def stagedIn : Item := { bulkInItem with segs := [(0, 16)], moved := 16, ended := true, pages := [7] }
def movingOut (bme : Bool) : State :=
  { onEngine server (heldPort none) grantedOut (ctxKey 1 2 false) bulkCtx with
    dma := { ctx := [(252, { state := .armed, work := .item 5 })] }, fns := { fn := [(0, { vfQueues with bme := bme })] } }
def movingIn (bme : Bool) (bad : List (Nat × Nat)) : State :=
  { onEngine server (heldPort none) stagedIn (ctxKey 1 2 true) bulkCtx with
    dma := { ctx := [(254, { state := .armed, work := .item 5 })], bad := bad }, fns := { fn := [(0, { vfQueues with bme := bme })] } }

theorem witness_DataMoves_requests :
    (∀ b ∈ [true, false], let s := movingOut b
      serves s = true ∧ movable s true = [] ∧ roundRobin (tget 143 s.dma.lastServed 2) (movable s false) = some (126, 5)
        ∧ item? s 5 = some grantedOut ∧ eDataIn grantedOut.raw = false ∧ grantedOut.status = none ∧ (fn s 0).bme = b
        ∧ (hostSpot grantedOut 0).isSome = true) := by decide +kernel

theorem witness_DataMoves_in :
    (∀ b ∈ [true, false], ∀ w ∈ [true, false], let s := movingIn b (if w then [(7, 0)] else [])
      serves s = true ∧ movable s true = [] ∧ roundRobin (tget 143 s.dma.lastServed 2) (movable s false) = some (127, 5)
        ∧ item? s 5 = some stagedIn ∧ eDataIn stagedIn.raw = true ∧ stagedIn.segs = (0, 16) :: [] ∧ stagedIn.status = none ∧ (fn s 0).bme = b
        ∧ (hostSpot stagedIn 0).isSome = true ∧ firstBad s stagedIn 0 (burstLen s stagedIn 0 16) = (if w then some 0 else none)
        ∧ 0 < burstLen s stagedIn 0 16) := by decide +kernel

theorem witness_DataMoves_cut :
    (∀ c ∈ [ChState.armed, .preempted], let x := { stagedIn with segs := [(0, 200)], moved := 200, raw := BitVec.ofNat 256 (3 + 2 ^ 32 + 0x82 * 2 ^ 48 + 1024 * 2 ^ 128) }
      let s := { onEngine server (heldPort none) x (ctxKey 1 2 true) bulkCtx with
        dma := { ctx := [(254, { state := c, work := .item 5 })] }, fns := { fn := [(0, { vfQueues with bme := true })] } }
      (chan s 254).state = c ∧ movable s true = [] ∧ movable s false = [(127, 5)]
        ∧ ((movable s false).find? fun e => (chan s (ctxOf e.1 false)).state == .preempted) = (if c = .preempted then some (127, 5) else none)
        ∧ 64 < burstLen s x 0 200) := by decide +kernel

/-- Item 5 of PF0 with a table of one element of 4096 bytes before the malformed one. -/
def idxItem (op staged : Nat) : Item :=
  { func := 0, port := 63, granted := some 15, pages := [7], segs := if op = 3 then [(4096, 16)] else [], moved := staged, asked := 4096, ended := true
    raw := BitVec.ofNat 256 (op + 256 + 2 ^ 32 + (if op = 3 then 0x82 else 2) * 2 ^ 48 + 8192 * 2 ^ 128 + 2 * 2 ^ 224)
    idx := some ⟨0x10000, 4096, [0], true⟩ }

theorem witness_DataMoves_malformed :
    (∀ e ∈ [(3, 254, true), (2, 252, false)], let x := idxItem e.1 4112
      let s := { onEngine server (heldPort none) x (ctxKey 1 2 e.2.2) bulkCtx with
        dma := { ctx := [(e.2.1, { state := .armed, work := .item 5 })] }, fns := { fn := [(0, { vfQueues with bme := true })] } }
      serves s = true ∧ movable s true = [] ∧ (roundRobin (tget 143 s.dma.lastServed 2) (movable s false)).isSome = true
        ∧ item? s 5 = some x ∧ eDataIn x.raw = e.2.2 ∧ (fn s 0).bme = true ∧ hostSpot x 4096 = none ∧ atBad x 4096 = true
        ∧ x.status = none ∧ isOwn x = false ∧ x.asked = 4096) := by decide +kernel

theorem witness_DataMoves_windows :
    (let s := { readingChan with dma := { ctx := [(126, { state := .moving, work := .item 5, reading := some (5, 16), stale := true })] } }
     (chan s (ctxOf 63 false)).stale = true ∧ (chan s (ctxOf 63 false)).reading = some (5, 16))
    ∧ idxFits (idxItem 2 0) 0xFFFFFFFFFFFFE000 4096 0 [0, 0xFFFFF000] = [0]
    ∧ idxFits (idxItem 2 0) 0xFFFFFFFFFFFFE000 4096 0 [0xFFFFF000, 0] = [] := by decide

theorem witness_DataMoves_idle : roundRobin (tget 143 ready.dma.lastServed 2) (movable ready false) = none := by decide +kernel

theorem witness_BufferMemory :
    (let s := { running server with topo := { (running server).topo with handle := [(1, { gen := 0, use := .live, owners := [(0, 0)] })] } }
     live s = true ∧ bufRefusal s 0 1 0x82 = 0 ∧ (tget ({} : Ctx) s.topo.ctx (ctxKey 1 2 true)).pages = []
       ∧ dedicatedPages (tget ({} : Ctx) s.topo.ctx (ctxKey 1 2 true)) = 2 ∧ epQuiet s 1 0x82 = true)
    ∧ bufRefusal ready 0 1 0x82 = 1
    ∧ (∀ r ∈ [some secureCtx, none], let s := onEngine server (heldPort none) bulkInItem (ctxKey 1 2 true) { bulkCtx with pages := [0, 1], releasing := r }
       live s = true ∧ (tget ({} : Ctx) s.topo.ctx (ctxKey 1 2 true)).pages ≠ [] ∧ (tget ({} : Ctx) s.topo.ctx (ctxKey 1 2 true)).releasing = r)
    ∧ epQuiet { running server with front := { items := [(5, { bulkInItem with granted := some 3, flow := some ⟨1, 0x82⟩ })] } } 1 0x82 = false
    ∧ epStages 1 0x82 { bulkInItem with flow := some ⟨1, 0x82⟩ } = true
    ∧ (let s := { ready with dma := { page := [(3949, ⟨.scrubbing, some 0, none⟩)] } }
       live s = true ∧ pageQuiet s 3949 = true ∧ (page s 3949).state = .scrubbing)
    ∧ (page ready 3949).state ≠ .scrubbing ∧ pageQuiet ready 3949 = true
    ∧ stoppedCounting { ready with err := { cls := [(0, { stopped := [4013] })] } } 0 4013 = true
    ∧ (let s := { ready with err := { cls := [(0, { cfg := 0x00FFFFFF })] } }
       stoppedCounting s 0 4013 = false ∧ tget 0 (errClass s 0).counts 4013 + 1 < errT (errClass s 0))
    ∧ hostReaches ready 0 = true ∧ ready.front.ctxBase = 0 ∧ bit (1 : U32) 0 = true ∧ bit (0 : U32) 0 = false ∧ ctxUnused ready = true
    ∧ (let s := { ready with front := { ctxBase := 0x1000 } }; s.front.ctxBase ≠ 0 ∧ s.front.ctxEn = false)
    ∧ (let s := { ready with front := { ctxBase := 0x1000, ctxEn := true } }; s.front.ctxEn = true) := by decide

theorem witness_BufferMemory_carves : (4 : Nat) ≤ (freeCarve ready 0).length ∧ (∀ p < 64, (port ready p).wantEnable = false) := by
  decide +kernel

/-- A descriptor of VF127 with this MASK. -/
def descOf (mask : Byte) : FuncDesc :=
  { func := 127, mask := mask, nSQ := 1, nCR := 1, nVec := 1, pages := 1, quota := 1, pshare := 0, weight := 1, spillDepth := 8
    spillEntries := 16, spillBase := 0 }

theorem witness_FunctionCommands :
    funcBar ready secureCtx = 0 ∧ funcBar ready vfCtx = 1 ∧ live ready = true
    ∧ (createRefusal ready (descOf 0)).1 = 2 ∧ (modifyRefusal ready (descOf 1)).1 = 2
    ∧ vfThere (onVf {}) 127 = true ∧ vfThere (onVf {}) 0 = false
    ∧ (let s := onVf vfQueues; (fn s 127).created = true ∧ (fn s 127).flrBusy = false ∧ (fn s 0).cmdBusy = false)
    ∧ sender vfCtx.chan = 127 ∧ (fn (onVf vfQueues) 127).created = true ∧ (fn (onVf {}) 127).created = false
    ∧ assignRefusal ready secureCtx ⟨1, 0, 0⟩ = 2
    ∧ (let s := { running server with topo := { (running server).topo with handle := [(1, { gen := 0, use := .live, owners := [(0, 0)] })] } }
       assignRefusal s secureCtx ⟨1, 0, 0⟩ = 0 ∧ assignMoves s ⟨1, 0, 0⟩ = []) := by decide

theorem witness_FunctionCommands_grants :
    (createRefusal (onVf {}) (descOf 0)).1 = 0 ∧ (modifyRefusal (onVf vfQueues) (descOf 2)).1 = 0 := by decide +kernel

theorem witness_FunctionCommands_moves :
    (let s := { onVf { vfQueues with quota := 4 } with
       topo := { port := [(63, heldPort none)], dev := [(1, device)], handle := [(1, { gen := 0, use := .live, owners := [(0, 0)] })], fresh := 2 } }
     assignRefusal s secureCtx ⟨1, 127, 0⟩ = 0 ∧ assignMoves s ⟨1, 127, 0⟩ = [1] ∧ (takeHandle s).map Prod.fst = some 2) := by decide

theorem witness_FunctionResets :
    (let s := ready; live s = true ∧ s.fns.vfEnable = false ∧ (fn s 0).enabled = true ∧ isActive s = true ∧ (fn s 0).flrBusy = false)
    ∧ (let s := onVf { vfQueues with dirty := [9] }
       live s = true ∧ s.fns.vfEnable = true ∧ (fn s 127).enabled = true ∧ 9 ∈ (fn s 127).dirty ∧ isActive s = true ∧ vfThere s 127 = true
         ∧ (fn s 127).flrBusy = false)
    ∧ (fn (onPf { vfQueues with bme := true }) 0).bme = true
    ∧ vfThere (onVf { flrBusy := true }) 127 = true ∧ (fn (onVf { flrBusy := true }) 127).flrBusy = true
    ∧ (∀ d ∈ [true, false], let s := onVf { vfQueues with flrBusy := true, destroy := d }
       (fn s 127).destroyCtx = none ∧ (fn s 127).destroy = d) := by decide

theorem witness_FunctionResets_over : flrOver (onVf { vfQueues with flrBusy := true }) 127 = true := by decide +kernel

/-- Source 1023, the last, with its soft latch set, offered to target 16. -/
def onSource (c : Source) : State := { ready with eic := { src := [(1023, c)] } }

theorem witness_EventSources :
    (let c : Source := { soft := true, en := true, prio := 15, tmask := 0x10000 }
     let s := onSource c
     live s = true ∧ claimable s 16 = [] ++ (1023, 15) :: [] ∧ isPending s 1023 = true ∧ offered s 1023 = some 16)
    ∧ claimable ready 16 = []
    ∧ (let c : Source := { hosten := true, hvec := 3, prio := 1, tmask := 0x10000, en := true }
       let s := { onSource c with fns := { fn := [(0, { bme := true, msixEn := true, vecs := [(3, { ctrl := 0 })] })] } }
       (source s 1023).hosten = true ∧ level s 1023 = false ∧ (source s 1023).hvec.toNat = 3 ∧ (vec s 0 3).pend = false
         ∧ (vec s 0 3).count.toNat ≤ 1 ∧ vecReady s 0 3 = true)
    ∧ (∀ r ∈ [true, false], let s := onVf { vfQueues with vecs := [(3, { running := r, pend := true, counted := if r then 1 else 0 })], vecSel := 3 }
       (vec s 127 3).running = r ∧ (vec s 127 3).pend = true ∧ (fn s 127).bme = true ∧ hostReaches s 127 = true
         ∧ field (fn s 127).vecSel 0 11 < (fn s 127).nVec ∧ ((vec s 127 3).counted = 0 ↔ r = false))
    ∧ (let s := onVf { vfQueues with vecSel := 4 }; (fn s 127).nVec ≤ field (fn s 127).vecSel 0 11) := by decide

theorem witness_EventSources_words : wordSources 31 (1 <<< 31) = [1023] := by decide

theorem witness_ServiceEnds :
    (let c : Source := { soft := true, en := true, prio := 15, tmask := 0x10000, active := some 17 }
     let s := onSource c
     live s = true ∧ (source s 1023).active = some 17 ∧ (source s 1023).active ≠ some 16
       ∧ offered (modSource 1023 (fun c => { c with active := none }) s) 1023 = some 16) := by decide

/-- The mailbox of key `k` in a given state, VFs enabled. -/
def onBox (k : Nat) (y : MBox) : State :=
  { onVf vfQueues with mail := { box := [(k, y)], i3cAddr := some 9 }, straps := { secHost := true } }

theorem witness_Mailboxes :
    (∀ b ∈ [Box.func 127, .secure, .i3c, .toCores 15, .toEngine 15], let s := onBox (boxKey b) { waiting := [⟨0, 0, 0x20⟩] }
      canCommit s b = true ∧ fwRuns s = true ∧ live s = true ∧ s.mail.i3cAddr ≠ none ∧ (box s (boxKey b)).waiting = ⟨0, 0, 0x20⟩ :: []
        ∧ (box s (boxKey b)).outFull = false)
    ∧ canCommit ready .i3c = false ∧ (130 : Nat) ≤ boxKey (.toCores 0) ∧ boxKey .i3c < 130 ∧ ready.mail.i3cAddr = none
    ∧ (∀ b ∈ [Box.func 127, .secure, .i3c, .toCores 15], ∀ p ∈ [0, 8], let s := onBox (boxKey b) { inFull := true, inSlot := ⟨BitVec.ofNat 64 p, 3, 0xA0⟩ }
       canTake s b = true ∧ badPtr s b (box s (boxKey b)).inSlot = decide (p = 8))
    ∧ (∀ b ∈ [Box.func 127, .secure, .i3c], let s := onBox (boxKey b) { taken := [⟨0, 3, 0x85⟩] }
       boxChan b ≠ none ∧ (box s (boxKey b)).taken = ⟨0, 3, 0x85⟩ :: [] ∧ coresServe s b = true)
    ∧ canTake ready (.func 0) = false ∧ boxChan (.toCores 15) = none
    ∧ (onChip ready (.func 0)).isSome = false ∧ (onChip ready .secure).isSome = true
    ∧ bodySize 0x33 = some 16 ∧ bodySize 0x02 = none ∧ lenOk .secure 0x85 16 (zeros 16) = true ∧ lenOk .secure 0x85 15 (zeros 16) = false := by
  decide

theorem witness_Mailboxes_headers :
    (let h := BitVec.ofNat 128 (0x85 + 3 * 2 ^ 16 + 16 * 2 ^ 32)
     hdrByte h 0 = 0x85 ∧ hdrSeq h = 3 ∧ hdrByte h 1 = 0 ∧ hdrByte h 6 = 0 ∧ hdrByte h 7 = 0 ∧ hdrLen h = 16 ∧ replyAligned .secure h = true
       ∧ CommandRow ⟨.secure, 3, 0, hdrReply h⟩ 0x60 (zeros 16) (.queueStop ⟨.secure, 3, 0, hdrReply h⟩ 0)) :=
  ⟨by decide, by decide, by decide, by decide, by decide, by decide, by decide, by
    unfold CommandRow; simp only [reduceCtorEq, and_false, false_or, or_false]; decide⟩

theorem witness_NoticeCommit :
    (∀ b ∈ [Box.func 127, .secure, .i3c, .toCores 15, .toEngine 15], canCommit (onBox (boxKey b) { inFull := true }) b = true)
    ∧ canCommit ready .secure = false
    ∧ (let s := { onBox 129 {} with pwr := { ({} : Power) with st := .sleep, ready := true } }
       canCommit s .i3c = true ∧ boxKey .i3c < 146 ∧ coresSleep s = true) := by decide

theorem witness_RegisterWrites :
    hostReaches ready 0 = true ∧ writeReaches ready 0 0x104 = true ∧ writeReaches {} 1 0x104 = false
    ∧ get64 ready 0 0x104 = none ∧ 0x104 % 8 ≠ 0 ∧ get64 ready 0 0x018 = none ∧ writeReaches ready 0 0x018 = true ∧ writeReaches ready 0 0x01C = true
    ∧ (∀ a ∈ [3, 6], a % 4 ≠ 0) ∧ hostReaches (onVf vfQueues) (127 : FuncId).val = true
    ∧ field (0xA5 : U32) 0 8 = 0xA5 ∧ field (0x5A : U32) 0 8 ≠ 0xA5 := by decide

theorem witness_FirmwareCommands :
    fwRuns ready = true ∧ ready.flash.verified = false ∧ ready.pwr.slotB = false
    ∧ { ready with flash := { verified := true } }.flash.verified = true
    ∧ (7340032 ≤ (7340032 : U32).toNat ∧ (7340032 : U32).toNat + 1 * 4096 ≤ 7340032 + 7340032)
    ∧ ((7340031 : U32).toNat < 0 + 7340032 ∧ 0 < (7340031 : U32).toNat + 1) ∧ (7340033 : U32).toNat % 4096 ≠ 0 := by decide

/-- The body of an ADMIT of endpoint 2 IN of device 1. -/
def admitBody : AdmitBody := ⟨1, 0x82, 0, 3, 1, 16⟩

/-- Device 1 in the hands of PF0, with endpoint 2 periodic. -/
def owned (busy : Bool) : State :=
  let s := onEngine server (heldPort none) bulkInItem (ctxKey 1 2 true) { bulkCtx with typ := 2, interval := 8 }
  { s with
    topo := { s.topo with handle := [(1, { gen := 0, use := .live, owners := [(0, 0)] })] }
    fns := { fn := [(0, { created := true, enabled := true, pshare := 6016000, admitBusy := busy })] } }

theorem witness_Admission :
    (fn ready 127).created = false ∧ (fn ready 0).created = true ∧ ownsDevice ready 0 1 = false ∧ live ready = true
    ∧ ownsDevice (owned false) 0 1 = true ∧ (fn (owned false) 0).admitBusy = false ∧ (fn (owned true) 0).admitBusy = true
    ∧ ((admitCheck ready 0 admitBody).getRight?) = some 0x0A
    ∧ (let g : Rung := { handle := 1, ep := 2, dirIn := true, func := 0 }
       let s := { owned false with sch := { live := [(7, g)], shadow := [(7, g)] } }
       (tfind s.sch.live 7).isSome && g.handle == admitBody.handle && g.ep == field admitBody.epaddr 0 4
         && g.dirIn == bit admitBody.epaddr 7 && kindOf admitBody.kind.toNat == some g.kind)
    ∧ { ready with sch := { compiling := true } }.sch.compiling = true := by decide

theorem witness_Admission_accepted : (admitCheck (owned false) 0 admitBody).isLeft = true := by decide

/-! ### Small tests, against the worked examples of the manual -/

/-- The image of script 7 of the worked example (06, "The image and its binding"), its CRC computed outside the model. -/
def quietGap : List Byte :=
  [79, 88, 83, 67, 1, 1, 10, 0, 0, 0, 255, 255, 255, 255, 0, 0, 140, 12,
   0, 0, 160, 15, 0, 0, 4, 1, 0, 0, 63, 2, 100, 93, 48, 0, 16, 80,
   0, 0, 0, 72, 1, 0, 0, 16, 0, 0, 0, 76, 7, 0, 0, 32, 3, 0,
   64, 92, 144, 1, 0, 164, 0, 0, 0, 188, 200, 0, 0, 164, 0, 0, 0, 188]

theorem test_image_quiet_gap : checkImage quietGap = (0, 3212, 4000) := by decide +kernel

/-- A changed byte fails the CRC of rule 1. -/
theorem test_image_refused : (checkImage (quietGap.set 40 2)).1 = 1 := by decide +kernel

/-- The header bytes of the IN token of 02, "Encoding example". -/
theorem test_header_example :
    packetBytes .n5 .in_ ⟨0x15, true, 1, 5, 0, 7, false, false, false, 0⟩ [] = [0xC3, 0x95, 0x51, 0x00, 0x70, 0x00, 0x00, 0x5C] := by decide +kernel

theorem test_wf_refuses_long_block : (Instr.doorbellBlockReadDone 0 0 true (List.replicate 17 0)).wf = false := by decide
theorem test_wf_takes_full_block : (Instr.doorbellBlockReadDone 0 0 true (List.replicate 16 0)).wf = true := by decide

theorem test_wf_refuses_long_payload : (Instr.dataPacket 0 Hdr0 (List.replicate 1025 0) 0 false).wf = false := by
  simp only [Instr.wf, List.length_replicate]; decide

/-- A byte of 1 bits takes one stuffed 0, behind its sixth bit (R43). -/
theorem test_stuffing : stuff 0 (bitsOf 0xFF) = [true, true, true, true, true, true, false, true, true] := by decide

theorem test_legacy_line : ∀ l ∈ [[0xFF, 0xFF, 0x3F], [0xC3, 0x95], [0x00]], legacyPacket (legacyLine l) = some l := by decide +kernel

theorem test_n3_line : n3Packet (n3Groups [0xC3, 0x95, 0x51]) = some [0xC3, 0x95, 0x51] := by decide +kernel

theorem test_n4_line : n4Packet (n4Symbols [0xC3, 0x95, 0x51]) = some [0xC3, 0x95, 0x51] := by decide +kernel

/-- The first bursts of 08, "an unaligned bulk buffer": 61 bytes, then 512. -/
theorem test_bursts :
    let x : Item := { func := 0, raw := BitVec.ofNat 256 (3 + 2 ^ 32 + 0x82 * 2 ^ 48 + 0x1234567_1C3 * 2 ^ 64 + 65536 * 2 ^ 128) }
    let s : State := { dma := { maxPayload := 512 } }
    burstLen s x 0 1024 = 61 ∧ burstLen s x 61 963 = 512 := by decide +kernel

/-! ### Table banks (R193, R194): two entries of one list, of class 4 and phase 1, written out from the layout -/

/-- Register boards on hub ports 1 and 2 of a hub at wire address 5, root port 40: split periodic IN of 16 B. -/
def boards : Tbl Rung :=
  let g : Rung := { split := true, dirIn := true, port := 40, handle := 0x2003, ep := 1, engine := 2, fallback := 3,
                    periodK := 4, phase := 1, mps := 16, tt := some ⟨9, 5, 1⟩, linkNs := 1304, engCyc := 1344 }
  [(4, g), (7, { g with handle := 0x2004, tt := some ⟨9, 5, 2⟩ })]

theorem test_bank_head :
    headWord boards 16 = 0x8004 ∧ headWord boards 15 = 0 ∧ bankByte boards 64 = some 0x04 ∧ bankByte boards 65 = some 0x80
      ∧ bankByte boards 0x50000 = none := by decide

theorem test_bank_entry :
    rungWord (tget {} boards 4) (nextRung (rungList boards 4 1) 4)
      = 0x0000_0000_0000_0000_0007_0000_0000_0540_0005_1805_1010_0100_0001_4321_2003_2851
    ∧ bankByte boards 0x100E0 = some 0x51 ∧ bankByte boards 0x100F6 = some 0xFF ∧ bankByte boards 0x100F7 = some 0x3F := by
  decide

end Sys2Proof.Tests
end

section
/-! PROOFS. Events and mailboxes: the end of a source's service (R421) and the commit of an inbound notice (R430). First the
meanings of the commands, then what waking a target, serving the rises and waking a receiver change, then the statements. -/

namespace Sys2Proof.Machine

/-! ### The meanings of the commands -/

theorem exec_eicComplete (t : Fin 18) (x : Fin 1024) (s : State) :
    exec (.eicComplete t x) s = guarded (live s && (source s x.val).active == some t) s fun s =>
      wakeTarget x.val (modSource x.val (fun c => { c with active := none }) s) := rfl

theorem exec_enClr (w : Fin 32) (v : U32) (s : State) :
    exec (.enClr w v) s
      = guarded (live s) s (each (wordSources w v) fun x => modSource x fun c => { c with en := false }) := rfl

theorem exec_mbxInCommit (b : Box) (seq : U16) (typ : Byte) (s : State) :
    exec (.mbxInCommit b seq typ) s = guarded (canCommit s b) s (commitBox b seq typ) := rfl

theorem guarded_of_false {b : Bool} {s : State} {f : State → State} (h : b = false) : guarded b s f = .next s := by
  subst h; rfl

/-! ### Sources -/

/-- A change of a source moves no hardware condition. -/
@[simp] theorem hwLevel_modSource (n : Nat) (g : Source → Source) (s : State) (x : Nat) :
    hwLevel (modSource n g s) x = hwLevel s x := rfl

/-- R421: once it is no longer ACTIVE, a source is PENDING by its level, its enable and its priority. -/
theorem isPending_modSource_inactive (x : Nat) (s : State) :
    isPending (modSource x (fun c => { c with active := none }) s) x
      = (level s x && (source s x).en && (source s x).prio != 0) := by
  simp [isPending, level]

/-- Clearing enables, in whatever order, leaves every source ACTIVE or not as it was. -/
theorem active_each_disable (l : List Nat) (s : State) (x : Nat) :
    (source (each l (fun n => modSource n fun c => { c with en := false }) s) x).active = (source s x).active := by
  unfold each
  induction l generalizing s with
  | nil => rfl
  | cons n r ih =>
    rw [List.foldl_cons, ih, source_modSource]
    split
    · next h => rw [h]
    · rfl

/-! ### Waking a target (R423) -/

/-- All that waking a target can do: nothing, or a change of one target. -/
theorem wakeTarget_cases (x : Nat) (s : State) :
    wakeTarget x s = s ∨ ∃ t, wakeTarget x s = modTarget t (fun y => { y with asleep := false }) s := by
  unfold wakeTarget
  split
  · split
    · next t _ =>
      split
      · exact .inr ⟨t, rfl⟩
      · exact .inl rfl
    · exact .inl rfl
  · exact .inl rfl

theorem source_wakeTarget (x : Nat) (s : State) (k : Nat) : source (wakeTarget x s) k = source s k := by
  obtain h | ⟨t, h⟩ := wakeTarget_cases x s
  · rw [h]
  · rw [h]; rfl

theorem isPending_wakeTarget (x : Nat) (s : State) (k : Nat) : isPending (wakeTarget x s) k = isPending s k := by
  obtain h | ⟨t, h⟩ := wakeTarget_cases x s
  · rw [h]
  · rw [h]; rfl

/-- The target to which a PENDING source is offered is awake once the source has woken it. -/
theorem wakeTarget_awake {x g : Nat} {s : State} (hp : isPending s x = true) (ho : offered s x = some g) :
    (target (wakeTarget x s) g).asleep = false := by
  simp only [wakeTarget, hp, ho, if_true]
  split
  · simp
  · next h => simpa using h

/-! ### Inbound notices -/

theorem box_of_mail {s t : State} (h : Keeps .mail s t) (k : Nat) : box t k = box s k := by
  unfold box; rw [show t.mail = s.mail from h]

/-- Serving the rises changes nothing but the outputs, the event controller and the functions. -/
theorem withRises_keeps_applied {bl : Block} (xs : List Nat) (f : State → State) (s : State)
    (hb : bl ∉ [.out, .eic, .fns]) : Keeps bl (f s) (withRises xs f s) := by
  unfold withRises
  have hRise : bl ∉ [.out, .fns] := notMem_of hb rfl
  have hWake : bl ∉ [.eic] := notMem_of hb rfl
  exact each_keeps _ _ (fun x _ h => wakeTarget_keeps x h hWake)
    (each_keeps _ _ (fun x _ h => hostRise_keeps x h hRise) (Keeps.refl bl (f s)))

/-- A committed notice stands in its slot, FULL set and COLLISION where one stood there before; no other mailbox changes. -/
theorem box_commitIn (k : Nat) (n : Notice) (s : State) (j : Nat) :
    box (commitIn k n s) j
      = if j = k then { box s k with inSlot := n, inColl := (box s k).inColl || (box s k).inFull, inFull := true }
        else box s j := by
  have hMail := withRises_keeps_applied (bl := .mail) (boxSrcs k)
    (modBox k fun b => { b with inSlot := n, inColl := b.inColl || b.inFull, inFull := true }) s (by decide)
  exact (box_of_mail hMail j).trans (box_modBox k j _ s)

theorem pwr_commitIn (k : Nat) (n : Notice) (s : State) : (commitIn k n s).pwr = s.pwr :=
  commitIn_keeps (bl := .pwr) k n (Keeps.refl .pwr s) (by decide)

theorem coresSleep_commitIn (k : Nat) (n : Notice) (s : State) : coresSleep (commitIn k n s) = coresSleep s := by
  unfold coresSleep; rw [pwr_commitIn]

theorem box_noticeWakes (b : Box) (s : State) (j : Nat) : box (noticeWakes b s) j = box s j :=
  box_of_mail (noticeWakes_keeps b (Keeps.refl .mail s) (by decide)) j

/-- A notice to an engine starts its clock and wakes it (R429). -/
theorem noticeWakes_engine (e : EngId) (s : State) :
    (eng (noticeWakes (.toEngine e) s) e.val).gated = false
      ∧ (target (noticeWakes (.toEngine e) s) e.val).asleep = false := by
  simp [noticeWakes]

/-- A notice to the cores, which sleep, wakes their power domain (R438). -/
theorem noticeWakes_cores {b : Box} {s : State} (hb : boxKey b < 146) (hs : coresSleep s = true) :
    (noticeWakes b s).pwr.domainAwake = true := by
  cases b with
  | toEngine e => exact absurd hb (by simp [boxKey])
  | func f => simp [noticeWakes, hs]
  | secure => simp [noticeWakes, hs]
  | i3c => simp [noticeWakes, hs]
  | toCores e => simp [noticeWakes, hs]

/-! ### The statements -/

/-- Settles O56: the source's gateway opens again on a state that differs in that source alone, and waking the target to which the
source is offered then changes neither a source nor what is PENDING. -/
theorem serviceEnds : Obligations.ServiceEnds := by
  intro s t x hlive y
  refine ⟨fun hne => ?_, fun hact => ?_, fun w v => ?_⟩
  · rw [exec_eicComplete]
    exact guarded_of_false (by simp [hlive, show (source s x.val).active ≠ some t from hne])
  · have hguard : (live s && (source s x.val).active == some t) = true := by
      simp [hlive, show (source s x.val).active = some t from hact]
    have hexec := (exec_eicComplete t x s).trans (guarded_of hguard)
    refine ⟨_, hexec, fun bl hb => ?_, fun k => ?_, ?_, fun hp g hg => ?_⟩
    · exact execEicComplete_keeps t x (Keeps.refl bl s) hb _ hexec
    · rw [source_wakeTarget, source_modSource]
    · rw [isPending_wakeTarget, isPending_modSource_inactive]
      simp [y, and_assoc]
    · rw [isPending_wakeTarget] at hp
      exact wakeTarget_awake hp hg
  · exact ⟨_, (exec_enClr w v s).trans (guarded_of hlive), active_each_disable _ s x.val⟩

/-- Settles O58: the commit writes its own mailbox alone, the rises that follow leave mailboxes and power as they are, and the receiver
is woken last. -/
theorem noticeCommit : Obligations.NoticeCommit := by
  intro s b seq typ y
  refine ⟨fun hcan => ?_, fun hcan => ?_⟩
  · rw [exec_mbxInCommit]
    exact guarded_of_false hcan
  · have hexec := (exec_mbxInCommit b seq typ s).trans (guarded_of hcan)
    refine ⟨_, hexec, fun bl hb => ?_, fun j => ?_, ?_, fun hkey hsleep => ?_⟩
    · exact commitBox_keeps b seq typ (Keeps.refl bl s) hb
    · exact (box_noticeWakes b _ j).trans (box_commitIn _ _ s j)
    · rintro e rfl
      exact noticeWakes_engine e _
    · exact noticeWakes_cores hkey ((coresSleep_commitIn _ _ s).trans hsleep)

end Sys2Proof.Machine
end

section
/-! PROOFS. Every command and every step: what a command may change, that it answers a next state, and that the pair state stays in
agreement with the strap PAIR_EN. One arm per command, each by the row's own law. -/

namespace Sys2Proof.Machine

/-! ### Every command answers -/
/-- Every command is a guarded change of the state, which answers where the guard fails too; the five that first look at their
operand or at the state are guarded changes in each case. -/
theorem exec_answers (c : Instr) (s : State) : ∃ t, exec c s = .next t := by
  cases c
  case pctlbResendTimeout g side => cases side <;> exact ⟨_, rfl⟩
  case mbxOutDone b => cases b <;> exact ⟨_, rfl⟩
  case mbxCommandRead b ok hdr body =>
    show ∃ t, execMbxCommandRead b ok hdr body s = .next t
    unfold execMbxCommandRead
    split <;> exact ⟨_, rfl⟩
  case lowPowerEnter =>
    show ∃ t, execLowPowerEnter s = .next t
    unfold execLowPowerEnter
    split <;> exact ⟨_, rfl⟩
  case wakeLogicReady =>
    show ∃ t, execWakeLogicReady s = .next t
    unfold execWakeLogicReady
    split <;> exact ⟨_, rfl⟩
  all_goals exact ⟨_, rfl⟩

/-- A command that is a guarded change runs where its guard holds, and changes nothing elsewhere. -/
theorem runs_of_guard {o : Host.Outcome State Fault Refusal} {s : State} {b : Bool} {f : State → State} (ho : o = guarded b s f)
    (hb : b = true) : o = .next (f s) := ho.trans (guarded_of hb)

theorem idle_of_no_guard {o : Host.Outcome State Fault Refusal} {s : State} {b : Bool} {f : State → State} (ho : o = guarded b s f)
    (hb : b = false) : o = .next s := ho.trans (guarded_of_false hb)

/-! ### What a command leaves -/

/-- A block that `touches` does not list for a command is after it as it was. -/
theorem exec_keeps (bl : Block) (s : State) : ∀ c : Instr, bl ∉ touches c → KeepsO bl s (exec c s)
  | .muleKeepalive g, hb => execMuleKeepalive_keeps g (Keeps.refl bl s) (notMem_of hb rfl)
  | .coreLostDeclare g, hb => execCoreLostDeclare_keeps g (Keeps.refl bl s) (notMem_of hb rfl)
  | .handOverCommand g, hb => execHandOverCommand_keeps g (Keeps.refl bl s) (notMem_of hb rfl)
  | .mulePowerCommand g src j offset value, hb => execMulePowerCommand_keeps g src j offset value (Keeps.refl bl s) (notMem_of hb rfl)
  | .muleRemovalEvent n, hb => execMuleRemovalEvent_keeps n (Keeps.refl bl s) (notMem_of hb rfl)
  | .muleTripEvent n, hb => execMuleTripEvent_keeps n (Keeps.refl bl s) (notMem_of hb rfl)
  | .mulePfwEvent n, hb => execMulePfwEvent_keeps n (Keeps.refl bl s) (notMem_of hb rfl)
  | .mulePowerGoodEvent n, hb => execMulePowerGoodEvent_keeps n (Keeps.refl bl s) (notMem_of hb rfl)
  | .telemetryReport n, hb => execTelemetryReport_keeps n (Keeps.refl bl s) (notMem_of hb rfl)
  | .microframeBoundary u, hb => execMicroframeBoundary_keeps u (Keeps.refl bl s) (notMem_of hb rfl)
  | .frameBoundary, hb => execFrameBoundary_keeps (Keeps.refl bl s) (notMem_of hb rfl)
  | .doorbellBlockReadDone f block ok records, hb => execDoorbellBlockReadDone_keeps f block ok records (Keeps.refl bl s) (notMem_of hb rfl)
  | .sqEntryFetched f q ok raw, hb => execSqEntryFetched_keeps f q ok raw (Keeps.refl bl s) (notMem_of hb rfl)
  | .qKickSq f q index, hb => execQKickSq_keeps f q index (Keeps.refl bl s) (notMem_of hb rfl)
  | .qKickSqInval f q index, hb => execQKickSqInval_keeps f q index (Keeps.refl bl s) (notMem_of hb rfl)
  | .qKickCr f r index, hb => execQKickCr_keeps f r index (Keeps.refl bl s) (notMem_of hb rfl)
  | .qCreate f, hb => execQCreate_keeps f (Keeps.refl bl s) (notMem_of hb rfl)
  | .qDestroy f, hb => execQDestroy_keeps f (Keeps.refl bl s) (notMem_of hb rfl)
  | .qRead f, hb => execQRead_keeps f (Keeps.refl bl s) (notMem_of hb rfl)
  | .completionRelease item, hb => execCompletionRelease_keeps item (Keeps.refl bl s) (notMem_of hb rfl)
  | .queueStop ctx q, hb => execQueueStop_keeps ctx q (Keeps.refl bl s) (notMem_of hb rfl)
  | .queueStart ctx q, hb => execQueueStart_keeps ctx q (Keeps.refl bl s) (notMem_of hb rfl)
  | .responseTimeout p driven, hb => execResponseTimeout_keeps p driven (Keeps.refl bl s) (notMem_of hb rfl)
  | .burstGapExpiry p, hb => execBurstGapExpiry_keeps p (Keeps.refl bl s) (notMem_of hb rfl)
  | .dataPacket p h payload crc overrun, hb => execDataPacket_keeps p h payload crc overrun (Keeps.refl bl s) (notMem_of hb rfl)
  | .ack p h, hb => execAck_keeps p h (Keeps.refl bl s) (notMem_of hb rfl)
  | .nak p h, hb => execNak_keeps p h (Keeps.refl bl s) (notMem_of hb rfl)
  | .stall p h, hb => execStall_keeps p h (Keeps.refl bl s) (notMem_of hb rfl)
  | .nyet p h, hb => execNyet_keeps p h (Keeps.refl bl s) (notMem_of hb rfl)
  | .err p h, hb => execErr_keeps p h (Keeps.refl bl s) (notMem_of hb rfl)
  | .controlTimeLimit item, hb => execControlTimeLimit_keeps item (Keeps.refl bl s) (notMem_of hb rfl)
  | .sofHoldLimit p, hb => execSofHoldLimit_keeps p (Keeps.refl bl s) (notMem_of hb rfl)
  | .sofDeferredSend p, hb => execSofDeferredSend_keeps p (Keeps.refl bl s) (notMem_of hb rfl)
  | .trainCap p param, hb => execTrainCap_keeps p param (Keeps.refl bl s) (notMem_of hb rfl)
  | .trainDone p, hb => execTrainDone_keeps p (Keeps.refl bl s) (notMem_of hb rfl)
  | .lpEnter p, hb => execLpEnter_keeps p (Keeps.refl bl s) (notMem_of hb rfl)
  | .lpAccept p, hb => execLpAccept_keeps p (Keeps.refl bl s) (notMem_of hb rfl)
  | .lpReject p, hb => execLpReject_keeps p (Keeps.refl bl s) (notMem_of hb rfl)
  | .wake p, hb => execWake_keeps p (Keeps.refl bl s) (notMem_of hb rfl)
  | .wakeAck p, hb => execWakeAck_keeps p (Keeps.refl bl s) (notMem_of hb rfl)
  | .linkCmdTimeout p, hb => execLinkCmdTimeout_keeps p (Keeps.refl bl s) (notMem_of hb rfl)
  | .detectPulse p, hb => execDetectPulse_keeps p (Keeps.refl bl s) (notMem_of hb rfl)
  | .farEndTermination p, hb => execFarEndTermination_keeps p (Keeps.refl bl s) (notMem_of hb rfl)
  | .trainingSetLock p, hb => execTrainingSetLock_keeps p (Keeps.refl bl s) (notMem_of hb rfl)
  | .recoveryTimeout p, hb => execRecoveryTimeout_keeps p (Keeps.refl bl s) (notMem_of hb rfl)
  | .linkErrorLimit p, hb => execLinkErrorLimit_keeps p (Keeps.refl bl s) (notMem_of hb rfl)
  | .wakeTone p, hb => execWakeTone_keeps p (Keeps.refl bl s) (notMem_of hb rfl)
  | .suspendSilenceExpiry p, hb => execSuspendSilenceExpiry_keeps p (Keeps.refl bl s) (notMem_of hb rfl)
  | .connectChange at_ present, hb => execConnectChange_keeps at_ present (Keeps.refl bl s) (notMem_of hb rfl)
  | .attachDebounceEnd at_, hb => execAttachDebounceEnd_keeps at_ (Keeps.refl bl s) (notMem_of hb rfl)
  | .detectWindowEnd p, hb => execDetectWindowEnd_keeps p (Keeps.refl bl s) (notMem_of hb rfl)
  | .resetSignallingEnd at_, hb => execResetSignallingEnd_keeps at_ (Keeps.refl bl s) (notMem_of hb rfl)
  | .announceWindowEnd p announced, hb => execAnnounceWindowEnd_keeps p announced (Keeps.refl bl s) (notMem_of hb rfl)
  | .genConfirmEnd p, hb => execGenConfirmEnd_keeps p (Keeps.refl bl s) (notMem_of hb rfl)
  | .resetRecoveryEnd at_, hb => execResetRecoveryEnd_keeps at_ (Keeps.refl bl s) (notMem_of hb rfl)
  | .enumAddressWaitEnd p, hb => execEnumAddressWaitEnd_keeps p (Keeps.refl bl s) (notMem_of hb rfl)
  | .hubPowerOnWaitEnd p, hb => execHubPowerOnWaitEnd_keeps p (Keeps.refl bl s) (notMem_of hb rfl)
  | .enumTransferDone p res data, hb => execEnumTransferDone_keeps p res data (Keeps.refl bl s) (notMem_of hb rfl)
  | .handleReuseTimeout h, hb => execHandleReuseTimeout_keeps h (Keeps.refl bl s) (notMem_of hb rfl)
  | .hubStatusChange hub map hubStatus words, hb => execHubStatusChange_keeps hub map hubStatus words (Keeps.refl bl s) (notMem_of hb rfl)
  | .hubPolled hub, hb => execHubPolled_keeps hub (Keeps.refl bl s) (notMem_of hb rfl)
  | .hubAdmitRetry hub, hb => execHubAdmitRetry_keeps hub (Keeps.refl bl s) (notMem_of hb rfl)
  | .reportRecordWrite, hb => execReportRecordWrite_keeps (Keeps.refl bl s) (notMem_of hb rfl)
  | .topoRingWrite value, hb => execTopoRingWrite_keeps value (Keeps.refl bl s) (notMem_of hb rfl)
  | .topoBaseWrite value, hb => execTopoBaseWrite_keeps value (Keeps.refl bl s) (notMem_of hb rfl)
  | .portReset p, hb => execPortReset_keeps p (Keeps.refl bl s) (notMem_of hb rfl)
  | .portDisable p, hb => execPortDisable_keeps p (Keeps.refl bl s) (notMem_of hb rfl)
  | .portEnable p, hb => execPortEnable_keeps p (Keeps.refl bl s) (notMem_of hb rfl)
  | .portSuspend p, hb => execPortSuspend_keeps p (Keeps.refl bl s) (notMem_of hb rfl)
  | .portResume p, hb => execPortResume_keeps p (Keeps.refl bl s) (notMem_of hb rfl)
  | .topoPortReset ctx body, hb => execTopoPortReset_keeps ctx body (Keeps.refl bl s) (notMem_of hb rfl)
  | .topoDeviceReset ctx body, hb => execTopoDeviceReset_keeps ctx body (Keeps.refl bl s) (notMem_of hb rfl)
  | .topoPortSuspend ctx body, hb => execTopoPortSuspend_keeps ctx body (Keeps.refl bl s) (notMem_of hb rfl)
  | .topoPortResume ctx body, hb => execTopoPortResume_keeps ctx body (Keeps.refl bl s) (notMem_of hb rfl)
  | .topoPortDisable ctx body, hb => execTopoPortDisable_keeps ctx body (Keeps.refl bl s) (notMem_of hb rfl)
  | .topoBindSlot ctx body, hb => execTopoBindSlot_keeps ctx body (Keeps.refl bl s) (notMem_of hb rfl)
  | .legacyBiasLoss p, hb => execLegacyBiasLoss_keeps p (Keeps.refl bl s) (notMem_of hb rfl)
  | .linkDisconnectTimeout p, hb => execLinkDisconnectTimeout_keeps p (Keeps.refl bl s) (notMem_of hb rfl)
  | .remoteWakeDetect at_, hb => execRemoteWakeDetect_keeps at_ (Keeps.refl bl s) (notMem_of hb rfl)
  | .hostResumeEnd at_, hb => execHostResumeEnd_keeps at_ (Keeps.refl bl s) (notMem_of hb rfl)
  | .tbFreeLenWrite value, hb => execTbFreeLenWrite_keeps value (Keeps.refl bl s) (notMem_of hb rfl)
  | .axisLockPhasePass, hb => execAxisLockPhasePass_keeps (Keeps.refl bl s) (notMem_of hb rfl)
  | .axisCountEdge i_ a b, hb => execAxisCountEdge_keeps i_ a b (Keeps.refl bl s) (notMem_of hb rfl)
  | .axisIndexEdge i_, hb => execAxisIndexEdge_keeps i_ (Keeps.refl bl s) (notMem_of hb rfl)
  | .axisStall i_, hb => execAxisStall_keeps i_ (Keeps.refl bl s) (notMem_of hb rfl)
  | .axCpcWrite i_ value, hb => execAxCpcWrite_keeps i_ value (Keeps.refl bl s) (notMem_of hb rfl)
  | .compareFire c, hb => execCompareFire_keeps c (Keeps.refl bl s) (notMem_of hb rfl)
  | .compareArmNext c, hb => execCompareArmNext_keeps c (Keeps.refl bl s) (notMem_of hb rfl)
  | .tbCmpCfgWrite value, hb => execTbCmpCfgWrite_keeps value (Keeps.refl bl s) (notMem_of hb rfl)
  | .tbCmpTargetWrite value, hb => execTbCmpTargetWrite_keeps value (Keeps.refl bl s) (notMem_of hb rfl)
  | .ptmStart, hb => execPtmStart_keeps (Keeps.refl bl s) (notMem_of hb rfl)
  | .ptmResponse master, hb => execPtmResponse_keeps master (Keeps.refl bl s) (notMem_of hb rfl)
  | .ptmTimeout, hb => execPtmTimeout_keeps (Keeps.refl bl s) (notMem_of hb rfl)
  | .epochLowRead r, hb => execEpochLowRead_keeps r (Keeps.refl bl s) (notMem_of hb rfl)
  | .epochLatchExpiry r, hb => execEpochLatchExpiry_keeps r (Keeps.refl bl s) (notMem_of hb rfl)
  | .floatStart p, hb => execFloatStart_keeps p (Keeps.refl bl s) (notMem_of hb rfl)
  | .admitCmd ctx body, hb => execAdmitCmd_keeps ctx body (Keeps.refl bl s) (notMem_of hb rfl)
  | .release ctx body, hb => execRelease_keeps ctx body (Keeps.refl bl s) (notMem_of hb rfl)
  | .query ctx, hb => execQuery_keeps ctx (Keeps.refl bl s) (notMem_of hb rfl)
  | .compileDone, hb => execCompileDone_keeps (Keeps.refl bl s) (notMem_of hb rfl)
  | .nop e, hb => execNop_keeps e (Keeps.refl bl s) (notMem_of hb rfl)
  | .mov e rd rs, hb => execMov_keeps e rd rs (Keeps.refl bl s) (notMem_of hb rfl)
  | .movi e rd imm, hb => execMovi_keeps e rd imm (Keeps.refl bl s) (notMem_of hb rfl)
  | .add e rd rs, hb => execAdd_keeps e rd rs (Keeps.refl bl s) (notMem_of hb rfl)
  | .addi e rd imm, hb => execAddi_keeps e rd imm (Keeps.refl bl s) (notMem_of hb rfl)
  | .adc e rd rs, hb => execAdc_keeps e rd rs (Keeps.refl bl s) (notMem_of hb rfl)
  | .sub e rd rs, hb => execSub_keeps e rd rs (Keeps.refl bl s) (notMem_of hb rfl)
  | .subi e rd imm, hb => execSubi_keeps e rd imm (Keeps.refl bl s) (notMem_of hb rfl)
  | .andi e rd imm, hb => execAndi_keeps e rd imm (Keeps.refl bl s) (notMem_of hb rfl)
  | .and e rd rs, hb => execAnd_keeps e rd rs (Keeps.refl bl s) (notMem_of hb rfl)
  | .or e rd rs, hb => execOr_keeps e rd rs (Keeps.refl bl s) (notMem_of hb rfl)
  | .ori e rd imm, hb => execOri_keeps e rd imm (Keeps.refl bl s) (notMem_of hb rfl)
  | .xor e rd rs, hb => execXor_keeps e rd rs (Keeps.refl bl s) (notMem_of hb rfl)
  | .xori e rd imm, hb => execXori_keeps e rd imm (Keeps.refl bl s) (notMem_of hb rfl)
  | .shl e rd n, hb => execShl_keeps e rd n (Keeps.refl bl s) (notMem_of hb rfl)
  | .shr e rd n, hb => execShr_keeps e rd n (Keeps.refl bl s) (notMem_of hb rfl)
  | .cmp e rd rs, hb => execCmp_keeps e rd rs (Keeps.refl bl s) (notMem_of hb rfl)
  | .cmpi e rd imm, hb => execCmpi_keeps e rd imm (Keeps.refl bl s) (notMem_of hb rfl)
  | .ldb e r p offset, hb => execLdb_keeps e r p offset (Keeps.refl bl s) (notMem_of hb rfl)
  | .stb e r p offset, hb => execStb_keeps e r p offset (Keeps.refl bl s) (notMem_of hb rfl)
  | .ldp e p imm, hb => execLdp_keeps e p imm (Keeps.refl bl s) (notMem_of hb rfl)
  | .addp e p rs, hb => execAddp_keeps e p rs (Keeps.refl bl s) (notMem_of hb rfl)
  | .addpi e p imm, hb => execAddpi_keeps e p imm (Keeps.refl bl s) (notMem_of hb rfl)
  | .br e cond offset, hb => execBr_keeps e cond offset (Keeps.refl bl s) (notMem_of hb rfl)
  | .jmp e target, hb => execJmp_keeps e target (Keeps.refl bl s) (notMem_of hb rfl)
  | .call e target, hb => execCall_keeps e target (Keeps.refl bl s) (notMem_of hb rfl)
  | .ret e, hb => execRet_keeps e (Keeps.refl bl s) (notMem_of hb rfl)
  | .loop e inReg rs imm len, hb => execLoop_keeps e inReg rs imm len (Keeps.refl bl s) (notMem_of hb rfl)
  | .cld e, hb => execCld_keeps e (Keeps.refl bl s) (notMem_of hb rfl)
  | .cst e, hb => execCst_keeps e (Keeps.refl bl s) (notMem_of hb rfl)
  | .pld e, hb => execPld_keeps e (Keeps.refl bl s) (notMem_of hb rfl)
  | .pst e, hb => execPst_keeps e (Keeps.refl bl s) (notMem_of hb rfl)
  | .hold e p, hb => execHold_keeps e p (Keeps.refl bl s) (notMem_of hb rfl)
  | .holdGrant e p, hb => execHoldGrant_keeps e p (Keeps.refl bl s) (notMem_of hb rfl)
  | .rel e p, hb => execRel_keeps e p (Keeps.refl bl s) (notMem_of hb rfl)
  | .tok e typ rs retry, hb => execTok_keeps e typ rs retry (Keeps.refl bl s) (notMem_of hb rfl)
  | .spl e typ rs retry, hb => execSpl_keeps e typ rs retry (Keeps.refl bl s) (notMem_of hb rfl)
  | .sdat e rd rs, hb => execSdat_keeps e rd rs (Keeps.refl bl s) (notMem_of hb rfl)
  | .rdat e mask offset, hb => execRdat_keeps e mask offset (Keeps.refl bl s) (notMem_of hb rfl)
  | .shs e, hb => execShs_keeps e (Keeps.refl bl s) (notMem_of hb rfl)
  | .whs e mask offset, hb => execWhs_keeps e mask offset (Keeps.refl bl s) (notMem_of hb rfl)
  | .arm e v, hb => execArm_keeps e v (Keeps.refl bl s) (notMem_of hb rfl)
  | .dly e count, hb => execDly_keeps e count (Keeps.refl bl s) (notMem_of hb rfl)
  | .dlyExpiry e p, hb => execDlyExpiry_keeps e p (Keeps.refl bl s) (notMem_of hb rfl)
  | .drn e, hb => execDrn_keeps e (Keeps.refl bl s) (notMem_of hb rfl)
  | .getw e, hb => execGetw_keeps e (Keeps.refl bl s) (notMem_of hb rfl)
  | .getwGrant e, hb => execGetwGrant_keeps e (Keeps.refl bl s) (notMem_of hb rfl)
  | .affinityOfferExpiry item, hb => execAffinityOfferExpiry_keeps item (Keeps.refl bl s) (notMem_of hb rfl)
  | .putw e, hb => execPutw_keeps e (Keeps.refl bl s) (notMem_of hb rfl)
  | .fin e v, hb => execFin_keeps e v (Keeps.refl bl s) (notMem_of hb rfl)
  | .evt e v, hb => execEvt_keeps e v (Keeps.refl bl s) (notMem_of hb rfl)
  | .sret e v, hb => execSret_keeps e v (Keeps.refl bl s) (notMem_of hb rfl)
  | .scall e v, hb => execScall_keeps e v (Keeps.refl bl s) (notMem_of hb rfl)
  | .scriptBudgetExpiry e, hb => execScriptBudgetExpiry_keeps e (Keeps.refl bl s) (notMem_of hb rfl)
  | .parkedThreadResume e p, hb => execParkedThreadResume_keeps e p (Keeps.refl bl s) (notMem_of hb rfl)
  | .engineInterrupt e, hb => execEngineInterrupt_keeps e (Keeps.refl bl s) (notMem_of hb rfl)
  | .itemPost post, hb => execItemPost_keeps post (Keeps.refl bl s) (notMem_of hb rfl)
  | .scriptLoad ctx number image, hb => execScriptLoad_keeps ctx number image (Keeps.refl bl s) (notMem_of hb rfl)
  | .scriptUnload ctx number, hb => execScriptUnload_keeps ctx number (Keeps.refl bl s) (notMem_of hb rfl)
  | .scriptBind ctx body, hb => execScriptBind_keeps ctx body (Keeps.refl bl s) (notMem_of hb rfl)
  | .scriptUnbind ctx body, hb => execScriptUnbind_keeps ctx body (Keeps.refl bl s) (notMem_of hb rfl)
  | .dspCtxCtlWrite value, hb => execDspCtxCtlWrite_keeps value (Keeps.refl bl s) (notMem_of hb rfl)
  | .dmaRequest cut, hb => execDmaRequest_keeps cut (Keeps.refl bl s) (notMem_of hb rfl)
  | .dmaReadCompletion ch timed ok data, hb => execDmaReadCompletion_keeps ch timed ok data (Keeps.refl bl s) (notMem_of hb rfl)
  | .drainComplete ch timed, hb => execDrainComplete_keeps ch timed (Keeps.refl bl s) (notMem_of hb rfl)
  | .indexTableReadDone item first ok bytes, hb => execIndexTableReadDone_keeps item first ok bytes (Keeps.refl bl s) (notMem_of hb rfl)
  | .bufCarve ctx handle epaddr, hb => execBufCarve_keeps ctx handle epaddr (Keeps.refl bl s) (notMem_of hb rfl)
  | .bufRelease ctx handle epaddr, hb => execBufRelease_keeps ctx handle epaddr (Keeps.refl bl s) (notMem_of hb rfl)
  | .bufReleaseComplete f handle epaddr, hb => execBufReleaseComplete_keeps f handle epaddr (Keeps.refl bl s) (notMem_of hb rfl)
  | .pageScrubDone page, hb => execPageScrubDone_keeps page (Keeps.refl bl s) (notMem_of hb rfl)
  | .eccScrubVisit page word bad, hb => execEccScrubVisit_keeps page word bad (Keeps.refl bl s) (notMem_of hb rfl)
  | .vfEnableSet numVFs, hb => execVfEnableSet_keeps numVFs (Keeps.refl bl s) (notMem_of hb rfl)
  | .vfEnableClear, hb => execVfEnableClear_keeps (Keeps.refl bl s) (notMem_of hb rfl)
  | .busMasterEnableChange f on, hb => execBusMasterEnableChange_keeps f on (Keeps.refl bl s) (notMem_of hb rfl)
  | .vfCreate ctx d, hb => execVfCreate_keeps ctx d (Keeps.refl bl s) (notMem_of hb rfl)
  | .vfDestroy ctx v, hb => execVfDestroy_keeps ctx v (Keeps.refl bl s) (notMem_of hb rfl)
  | .funcModify ctx d, hb => execFuncModify_keeps ctx d (Keeps.refl bl s) (notMem_of hb rfl)
  | .funcQuery ctx v, hb => execFuncQuery_keeps ctx v (Keeps.refl bl s) (notMem_of hb rfl)
  | .devAssign ctx body, hb => execDevAssign_keeps ctx body (Keeps.refl bl s) (notMem_of hb rfl)
  | .devQuery ctx func first, hb => execDevQuery_keeps ctx func first (Keeps.refl bl s) (notMem_of hb rfl)
  | .dirtyMapWrite v page, hb => execDirtyMapWrite_keeps v page (Keeps.refl bl s) (notMem_of hb rfl)
  | .vfFlr v, hb => execVfFlr_keeps v (Keeps.refl bl s) (notMem_of hb rfl)
  | .vfResetDone v, hb => execVfResetDone_keeps v (Keeps.refl bl s) (notMem_of hb rfl)
  | .pf0Flr, hb => execPf0Flr_keeps (Keeps.refl bl s) (notMem_of hb rfl)
  | .prsntNEdge n high, hb => execPrsntNEdge_keeps n high (Keeps.refl bl s) (notMem_of hb rfl)
  | .removal n, hb => execRemoval_keeps n (Keeps.refl bl s) (notMem_of hb rfl)
  | .debounceEnd n, hb => execDebounceEnd_keeps n (Keeps.refl bl s) (notMem_of hb rfl)
  | .minOffExpiry n, hb => execMinOffExpiry_keeps n (Keeps.refl bl s) (notMem_of hb rfl)
  | .feedInvalid n x, hb => execFeedInvalid_keeps n x (Keeps.refl bl s) (notMem_of hb rfl)
  | .feedValid n x, hb => execFeedValid_keeps n x (Keeps.refl bl s) (notMem_of hb rfl)
  | .oringReverse n x, hb => execOringReverse_keeps n x (Keeps.refl bl s) (notMem_of hb rfl)
  | .oringForward n x, hb => execOringForward_keeps n x (Keeps.refl bl s) (notMem_of hb rfl)
  | .slotEnSet n, hb => execSlotEnSet_keeps n (Keeps.refl bl s) (notMem_of hb rfl)
  | .slotEnClear n, hb => execSlotEnClear_keeps n (Keeps.refl bl s) (notMem_of hb rfl)
  | .cycle n, hb => execCycle_keeps n (Keeps.refl bl s) (notMem_of hb rfl)
  | .rampEnd n, hb => execRampEnd_keeps n (Keeps.refl bl s) (notMem_of hb rfl)
  | .powerGood n, hb => execPowerGood_keeps n (Keeps.refl bl s) (notMem_of hb rfl)
  | .rampTimeout n vout vbus, hb => execRampTimeout_keeps n vout vbus (Keeps.refl bl s) (notMem_of hb rfl)
  | .fetGate n vout vbus, hb => execFetGate_keeps n vout vbus (Keeps.refl bl s) (notMem_of hb rfl)
  | .pgLost n, hb => execPgLost_keeps n (Keeps.refl bl s) (notMem_of hb rfl)
  | .pgLostTimeout n vout vbus, hb => execPgLostTimeout_keeps n vout vbus (Keeps.refl bl s) (notMem_of hb rfl)
  | .faultTimerExpiry n vout vbus, hb => execFaultTimerExpiry_keeps n vout vbus (Keeps.refl bl s) (notMem_of hb rfl)
  | .severeOc n vout vbus, hb => execSevereOc_keeps n vout vbus (Keeps.refl bl s) (notMem_of hb rfl)
  | .soaLimit n vout vbus, hb => execSoaLimit_keeps n vout vbus (Keeps.refl bl s) (notMem_of hb rfl)
  | .outputPresentCheck n vout vbus, hb => execOutputPresentCheck_keeps n vout vbus (Keeps.refl bl s) (notMem_of hb rfl)
  | .pfwAssert n cause, hb => execPfwAssert_keeps n cause (Keeps.refl bl s) (notMem_of hb rfl)
  | .pfwClear n, hb => execPfwClear_keeps n (Keeps.refl bl s) (notMem_of hb rfl)
  | .telemetryConversion n va vb vbus vout isense, hb => execTelemetryConversion_keeps n va vb vbus vout isense (Keeps.refl bl s) (notMem_of hb rfl)
  | .telPeakRestart n, hb => execTelPeakRestart_keeps n (Keeps.refl bl s) (notMem_of hb rfl)
  | .errorDetected err, hb => execErrorDetected_keeps err (Keeps.refl bl s) (notMem_of hb rfl)
  | .engineRejoin e, hb => execEngineRejoin_keeps e (Keeps.refl bl s) (notMem_of hb rfl)
  | .errorWindowStart c, hb => execErrorWindowStart_keeps c (Keeps.refl bl s) (notMem_of hb rfl)
  | .errCfgWrite c value, hb => execErrCfgWrite_keeps c value (Keeps.refl bl s) (notMem_of hb rfl)
  | .errPortFailedClear mask, hb => execErrPortFailedClear_keeps mask (Keeps.refl bl s) (notMem_of hb rfl)
  | .configRestored c inst, hb => execConfigRestored_keeps c inst (Keeps.refl bl s) (notMem_of hb rfl)
  | .coreWatchdogExpiry core, hb => execCoreWatchdogExpiry_keeps core (Keeps.refl bl s) (notMem_of hb rfl)
  | .xebirokLinkUp lanes, hb => execXebirokLinkUp_keeps lanes (Keeps.refl bl s) (notMem_of hb rfl)
  | .laneDown lane, hb => execLaneDown_keeps lane (Keeps.refl bl s) (notMem_of hb rfl)
  | .ident h pairId st step version home numVFs, hb => execIdent_keeps h pairId st step version home numVFs (Keeps.refl bl s) (notMem_of hb rfl)
  | .xbkClaim h pairId role, hb => execXbkClaim_keeps h pairId role (Keeps.refl bl s) (notMem_of hb rfl)
  | .claimAnswer h pairId result, hb => execClaimAnswer_keeps h pairId result (Keeps.refl bl s) (notMem_of hb rfl)
  | .heartbeat h st u epoch shadowSeq, hb => execHeartbeat_keeps h st u epoch shadowSeq (Keeps.refl bl s) (notMem_of hb rfl)
  | .time h epoch len lock m1 tick, hb => execTime_keeps h epoch len lock m1 tick (Keeps.refl bl s) (notMem_of hb rfl)
  | .fatal h cause epoch, hb => execFatal_keeps h cause epoch (Keeps.refl bl s) (notMem_of hb rfl)
  | .handover h cause epoch, hb => execHandover_keeps h cause epoch (Keeps.refl bl s) (notMem_of hb rfl)
  | .yield h pairId, hb => execYield_keeps h pairId (Keeps.refl bl s) (notMem_of hb rfl)
  | .xbkNak h seq, hb => execXbkNak_keeps h seq (Keeps.refl bl s) (notMem_of hb rfl)
  | .ackOnly h, hb => execAckOnly_keeps h (Keeps.refl bl s) (notMem_of hb rfl)
  | .ackOnlyTimer, hb => execAckOnlyTimer_keeps (Keeps.refl bl s) (notMem_of hb rfl)
  | .shadow h body, hb => execShadow_keeps h body (Keeps.refl bl s) (notMem_of hb rfl)
  | .ganderWindowEnd toggled, hb => execGanderWindowEnd_keeps toggled (Keeps.refl bl s) (notMem_of hb rfl)
  | .takeover, hb => execTakeover_keeps (Keeps.refl bl s) (notMem_of hb rfl)
  | .discoverTimeout, hb => execDiscoverTimeout_keeps (Keeps.refl bl s) (notMem_of hb rfl)
  | .syncDone, hb => execSyncDone_keeps (Keeps.refl bl s) (notMem_of hb rfl)
  | .staleResyncTimer, hb => execStaleResyncTimer_keeps (Keeps.refl bl s) (notMem_of hb rfl)
  | .pairActConflict, hb => execPairActConflict_keeps (Keeps.refl bl s) (notMem_of hb rfl)
  | .yieldResetDone, hb => execYieldResetDone_keeps (Keeps.refl bl s) (notMem_of hb rfl)
  | .pctlbKeepaliveTick g, hb => execPctlbKeepaliveTick_keeps g (Keeps.refl bl s) (notMem_of hb rfl)
  | .pctlbKeepaliveLoss g, hb => execPctlbKeepaliveLoss_keeps g (Keeps.refl bl s) (notMem_of hb rfl)
  | .pctlbResendTimeout g side, hb => execPctlbResendTimeout_keeps g side (Keeps.refl bl s) (notMem_of hb rfl)
  | .keepalive g seq, hb => execKeepalive_keeps g seq (Keeps.refl bl s) (notMem_of hb rfl)
  | .pctlbClaim g seq pairId, hb => execPctlbClaim_keeps g seq pairId (Keeps.refl bl s) (notMem_of hb rfl)
  | .pctlbRelease g seq, hb => execPctlbRelease_keeps g seq (Keeps.refl bl s) (notMem_of hb rfl)
  | .pctlbWrite g j seq offset value, hb => execPctlbWrite_keeps g j seq offset value (Keeps.refl bl s) (notMem_of hb rfl)
  | .pctlbRead g j seq offset, hb => execPctlbRead_keeps g j seq offset (Keeps.refl bl s) (notMem_of hb rfl)
  | .eventAck g evSeq, hb => execEventAck_keeps g evSeq (Keeps.refl bl s) (notMem_of hb rfl)
  | .keepaliveAck g seq auth coreLost, hb => execKeepaliveAck_keeps g seq auth coreLost (Keeps.refl bl s) (notMem_of hb rfl)
  | .claimAck g seq result auth, hb => execClaimAck_keeps g seq result auth (Keeps.refl bl s) (notMem_of hb rfl)
  | .writeAck g seq result, hb => execWriteAck_keeps g seq result (Keeps.refl bl s) (notMem_of hb rfl)
  | .readData g seq offset value, hb => execReadData_keeps g seq offset value (Keeps.refl bl s) (notMem_of hb rfl)
  | .pctlbEvent g j seq bits sts, hb => execPctlbEvent_keeps g j seq bits sts (Keeps.refl bl s) (notMem_of hb rfl)
  | .pairQuery ctx, hb => execPairQuery_keeps ctx (Keeps.refl bl s) (notMem_of hb rfl)
  | .pairSwitch ctx epoch, hb => execPairSwitch_keeps ctx epoch (Keeps.refl bl s) (notMem_of hb rfl)
  | .pairResync ctx, hb => execPairResync_keeps ctx (Keeps.refl bl s) (notMem_of hb rfl)
  | .eicClaim t, hb => execEicClaim_keeps t (Keeps.refl bl s) (notMem_of hb rfl)
  | .eicComplete t src, hb => execEicComplete_keeps t src (Keeps.refl bl s) (notMem_of hb rfl)
  | .enSet w v, hb => execEnSet_keeps w v (Keeps.refl bl s) (notMem_of hb rfl)
  | .enClr w v, hb => execEnClr_keeps w v (Keeps.refl bl s) (notMem_of hb rfl)
  | .pendSet w v, hb => execPendSet_keeps w v (Keeps.refl bl s) (notMem_of hb rfl)
  | .pendClr w v, hb => execPendClr_keeps w v (Keeps.refl bl s) (notMem_of hb rfl)
  | .msixIntervalExpiry f v, hb => execMsixIntervalExpiry_keeps f v (Keeps.refl bl s) (notMem_of hb rfl)
  | .msixUnmask f v, hb => execMsixUnmask_keeps f v (Keeps.refl bl s) (notMem_of hb rfl)
  | .intVecModWrite f value, hb => execIntVecModWrite_keeps f value (Keeps.refl bl s) (notMem_of hb rfl)
  | .mbxInCommit box seq typ, hb => execMbxInCommit_keeps box seq typ (Keeps.refl bl s) (notMem_of hb rfl)
  | .mbxOutDone box, hb => execMbxOutDone_keeps box (Keeps.refl bl s) (notMem_of hb rfl)
  | .mbxNoticeTake box, hb => execMbxNoticeTake_keeps box (Keeps.refl bl s) (notMem_of hb rfl)
  | .mbxCommandRead box ok hdr body, hb => execMbxCommandRead_keeps box ok hdr body (Keeps.refl bl s) (notMem_of hb rfl)
  | .mbxOutboundPost box, hb => execMbxOutboundPost_keeps box (Keeps.refl bl s) (notMem_of hb rfl)
  | .i3cPrivateWrite offset data, hb => execI3cPrivateWrite_keeps offset data (Keeps.refl bl s) (notMem_of hb rfl)
  | .i3cPrivateRead count, hb => execI3cPrivateRead_keeps count (Keeps.refl bl s) (notMem_of hb rfl)
  | .entdaa addr, hb => execEntdaa_keeps addr (Keeps.refl bl s) (notMem_of hb rfl)
  | .i3cBusReset, hb => execI3cBusReset_keeps (Keeps.refl bl s) (notMem_of hb rfl)
  | .fwQuery ctx, hb => execFwQuery_keeps ctx (Keeps.refl bl s) (notMem_of hb rfl)
  | .fwWrite ctx offset data, hb => execFwWrite_keeps ctx offset data (Keeps.refl bl s) (notMem_of hb rfl)
  | .fwErase ctx offset sectors, hb => execFwErase_keeps ctx offset sectors (Keeps.refl bl s) (notMem_of hb rfl)
  | .fwVerify ctx, hb => execFwVerify_keeps ctx (Keeps.refl bl s) (notMem_of hb rfl)
  | .fwActivate ctx, hb => execFwActivate_keeps ctx (Keeps.refl bl s) (notMem_of hb rfl)
  | .platSensors ctx temps powers, hb => execPlatSensors_keeps ctx temps powers (Keeps.refl bl s) (notMem_of hb rfl)
  | .pwrTargetWrite value, hb => execPwrTargetWrite_keeps value (Keeps.refl bl s) (notMem_of hb rfl)
  | .pf0D3hotEntry, hb => execPf0D3hotEntry_keeps (Keeps.refl bl s) (notMem_of hb rfl)
  | .pmeTurnOff, hb => execPmeTurnOff_keeps (Keeps.refl bl s) (notMem_of hb rfl)
  | .lowPowerEnter, hb => execLowPowerEnter_keeps (Keeps.refl bl s) (notMem_of hb rfl)
  | .engineClockGate e, hb => execEngineClockGate_keeps e (Keeps.refl bl s) (notMem_of hb rfl)
  | .watchSample wakeIn wakes, hb => execWatchSample_keeps wakeIn wakes (Keeps.refl bl s) (notMem_of hb rfl)
  | .pf0D0Entry, hb => execPf0D0Entry_keeps (Keeps.refl bl s) (notMem_of hb rfl)
  | .wakeInAssert, hb => execWakeInAssert_keeps (Keeps.refl bl s) (notMem_of hb rfl)
  | .wakeRegulatorReady, hb => execWakeRegulatorReady_keeps (Keeps.refl bl s) (notMem_of hb rfl)
  | .wakeClockReady, hb => execWakeClockReady_keeps (Keeps.refl bl s) (notMem_of hb rfl)
  | .wakeMemoryReady, hb => execWakeMemoryReady_keeps (Keeps.refl bl s) (notMem_of hb rfl)
  | .wakeLogicReady, hb => execWakeLogicReady_keeps (Keeps.refl bl s) (notMem_of hb rfl)
  | .coreReset, hb => execCoreReset_keeps (Keeps.refl bl s) (notMem_of hb rfl)
  | .powerOnReset, hb => execPowerOnReset_keeps (Keeps.refl bl s) (notMem_of hb rfl)
  | .powerOnResetEnd pairEn pairId secHost, hb => execPowerOnResetEnd_keeps pairEn pairId secHost (Keeps.refl bl s) (notMem_of hb rfl)
  | .perstAssert, hb => execPerstAssert_keeps (Keeps.refl bl s) (notMem_of hb rfl)
  | .perstDeassert, hb => execPerstDeassert_keeps (Keeps.refl bl s) (notMem_of hb rfl)
  | .hotReset, hb => execHotReset_keeps (Keeps.refl bl s) (notMem_of hb rfl)
  | .bootDone, hb => execBootDone_keeps (Keeps.refl bl s) (notMem_of hb rfl)
  | .coreRailLoss, hb => execCoreRailLoss_keeps (Keeps.refl bl s) (notMem_of hb rfl)
  | .vmuleLoss g, hb => execVmuleLoss_keeps g (Keeps.refl bl s) (notMem_of hb rfl)
  | .vmuleRise g, hb => execVmuleRise_keeps g (Keeps.refl bl s) (notMem_of hb rfl)
  | .registerWrite f offset wide value, hb => execRegisterWrite_keeps f offset wide value (Keeps.refl bl s) (notMem_of hb rfl)
  | .discardedPacket p, hb => execDiscardedPacket_keeps p (Keeps.refl bl s) (notMem_of hb rfl)
  | .xebirokRecordError, hb => execXebirokRecordError_keeps (Keeps.refl bl s) (notMem_of hb rfl)
  | .removalLatchClear n, hb => execRemovalLatchClear_keeps n (Keeps.refl bl s) (notMem_of hb rfl)
  | .powerGoodReturn n, hb => execPowerGoodReturn_keeps n (Keeps.refl bl s) (notMem_of hb rfl)
  | .trainingTimeout p, hb => execTrainingTimeout_keeps p (Keeps.refl bl s) (notMem_of hb rfl)

/-! ### The pair state and its strap -/

/-- The commands that begin or end a power-on reset. -/
def SetsPor : Instr → Prop
  | .powerOnReset | .powerOnResetEnd .. | .coreRailLoss => True
  | _ => False

/-- A command that neither begins nor ends a power-on reset leaves the straps, the power-on reset and the agreement of the pair state
with the strap. -/
theorem exec_calm (s : State) : ∀ c : Instr, ¬ SetsPor c → CalmO s (exec c s)
  | .muleKeepalive g, _ => execMuleKeepalive_calm g (Calm.refl s)
  | .coreLostDeclare g, _ => execCoreLostDeclare_calm g (Calm.refl s)
  | .handOverCommand g, _ => execHandOverCommand_calm g (Calm.refl s)
  | .mulePowerCommand g src j offset value, _ => execMulePowerCommand_calm g src j offset value (Calm.refl s)
  | .muleRemovalEvent n, _ => execMuleRemovalEvent_calm n (Calm.refl s)
  | .muleTripEvent n, _ => execMuleTripEvent_calm n (Calm.refl s)
  | .mulePfwEvent n, _ => execMulePfwEvent_calm n (Calm.refl s)
  | .mulePowerGoodEvent n, _ => execMulePowerGoodEvent_calm n (Calm.refl s)
  | .telemetryReport n, _ => execTelemetryReport_calm n (Calm.refl s)
  | .microframeBoundary u, _ => execMicroframeBoundary_calm u (Calm.refl s)
  | .frameBoundary, _ => execFrameBoundary_calm (Calm.refl s)
  | .doorbellBlockReadDone f block ok records, _ => execDoorbellBlockReadDone_calm f block ok records (Calm.refl s)
  | .sqEntryFetched f q ok raw, _ => execSqEntryFetched_calm f q ok raw (Calm.refl s)
  | .qKickSq f q index, _ => execQKickSq_calm f q index (Calm.refl s)
  | .qKickSqInval f q index, _ => execQKickSqInval_calm f q index (Calm.refl s)
  | .qKickCr f r index, _ => execQKickCr_calm f r index (Calm.refl s)
  | .qCreate f, _ => execQCreate_calm f (Calm.refl s)
  | .qDestroy f, _ => execQDestroy_calm f (Calm.refl s)
  | .qRead f, _ => execQRead_calm f (Calm.refl s)
  | .completionRelease item, _ => execCompletionRelease_calm item (Calm.refl s)
  | .queueStop ctx q, _ => execQueueStop_calm ctx q (Calm.refl s)
  | .queueStart ctx q, _ => execQueueStart_calm ctx q (Calm.refl s)
  | .responseTimeout p driven, _ => execResponseTimeout_calm p driven (Calm.refl s)
  | .burstGapExpiry p, _ => execBurstGapExpiry_calm p (Calm.refl s)
  | .dataPacket p h payload crc overrun, _ => execDataPacket_calm p h payload crc overrun (Calm.refl s)
  | .ack p h, _ => execAck_calm p h (Calm.refl s)
  | .nak p h, _ => execNak_calm p h (Calm.refl s)
  | .stall p h, _ => execStall_calm p h (Calm.refl s)
  | .nyet p h, _ => execNyet_calm p h (Calm.refl s)
  | .err p h, _ => execErr_calm p h (Calm.refl s)
  | .controlTimeLimit item, _ => execControlTimeLimit_calm item (Calm.refl s)
  | .sofHoldLimit p, _ => execSofHoldLimit_calm p (Calm.refl s)
  | .sofDeferredSend p, _ => execSofDeferredSend_calm p (Calm.refl s)
  | .trainCap p param, _ => execTrainCap_calm p param (Calm.refl s)
  | .trainDone p, _ => execTrainDone_calm p (Calm.refl s)
  | .lpEnter p, _ => execLpEnter_calm p (Calm.refl s)
  | .lpAccept p, _ => execLpAccept_calm p (Calm.refl s)
  | .lpReject p, _ => execLpReject_calm p (Calm.refl s)
  | .wake p, _ => execWake_calm p (Calm.refl s)
  | .wakeAck p, _ => execWakeAck_calm p (Calm.refl s)
  | .linkCmdTimeout p, _ => execLinkCmdTimeout_calm p (Calm.refl s)
  | .detectPulse p, _ => execDetectPulse_calm p (Calm.refl s)
  | .farEndTermination p, _ => execFarEndTermination_calm p (Calm.refl s)
  | .trainingSetLock p, _ => execTrainingSetLock_calm p (Calm.refl s)
  | .recoveryTimeout p, _ => execRecoveryTimeout_calm p (Calm.refl s)
  | .linkErrorLimit p, _ => execLinkErrorLimit_calm p (Calm.refl s)
  | .wakeTone p, _ => execWakeTone_calm p (Calm.refl s)
  | .suspendSilenceExpiry p, _ => execSuspendSilenceExpiry_calm p (Calm.refl s)
  | .connectChange at_ present, _ => execConnectChange_calm at_ present (Calm.refl s)
  | .attachDebounceEnd at_, _ => execAttachDebounceEnd_calm at_ (Calm.refl s)
  | .detectWindowEnd p, _ => execDetectWindowEnd_calm p (Calm.refl s)
  | .resetSignallingEnd at_, _ => execResetSignallingEnd_calm at_ (Calm.refl s)
  | .announceWindowEnd p announced, _ => execAnnounceWindowEnd_calm p announced (Calm.refl s)
  | .genConfirmEnd p, _ => execGenConfirmEnd_calm p (Calm.refl s)
  | .resetRecoveryEnd at_, _ => execResetRecoveryEnd_calm at_ (Calm.refl s)
  | .enumAddressWaitEnd p, _ => execEnumAddressWaitEnd_calm p (Calm.refl s)
  | .hubPowerOnWaitEnd p, _ => execHubPowerOnWaitEnd_calm p (Calm.refl s)
  | .enumTransferDone p res data, _ => execEnumTransferDone_calm p res data (Calm.refl s)
  | .handleReuseTimeout h, _ => execHandleReuseTimeout_calm h (Calm.refl s)
  | .hubStatusChange hub map hubStatus words, _ => execHubStatusChange_calm hub map hubStatus words (Calm.refl s)
  | .hubPolled hub, _ => execHubPolled_calm hub (Calm.refl s)
  | .hubAdmitRetry hub, _ => execHubAdmitRetry_calm hub (Calm.refl s)
  | .reportRecordWrite, _ => execReportRecordWrite_calm (Calm.refl s)
  | .topoRingWrite value, _ => execTopoRingWrite_calm value (Calm.refl s)
  | .topoBaseWrite value, _ => execTopoBaseWrite_calm value (Calm.refl s)
  | .portReset p, _ => execPortReset_calm p (Calm.refl s)
  | .portDisable p, _ => execPortDisable_calm p (Calm.refl s)
  | .portEnable p, _ => execPortEnable_calm p (Calm.refl s)
  | .portSuspend p, _ => execPortSuspend_calm p (Calm.refl s)
  | .portResume p, _ => execPortResume_calm p (Calm.refl s)
  | .topoPortReset ctx body, _ => execTopoPortReset_calm ctx body (Calm.refl s)
  | .topoDeviceReset ctx body, _ => execTopoDeviceReset_calm ctx body (Calm.refl s)
  | .topoPortSuspend ctx body, _ => execTopoPortSuspend_calm ctx body (Calm.refl s)
  | .topoPortResume ctx body, _ => execTopoPortResume_calm ctx body (Calm.refl s)
  | .topoPortDisable ctx body, _ => execTopoPortDisable_calm ctx body (Calm.refl s)
  | .topoBindSlot ctx body, _ => execTopoBindSlot_calm ctx body (Calm.refl s)
  | .legacyBiasLoss p, _ => execLegacyBiasLoss_calm p (Calm.refl s)
  | .linkDisconnectTimeout p, _ => execLinkDisconnectTimeout_calm p (Calm.refl s)
  | .remoteWakeDetect at_, _ => execRemoteWakeDetect_calm at_ (Calm.refl s)
  | .hostResumeEnd at_, _ => execHostResumeEnd_calm at_ (Calm.refl s)
  | .tbFreeLenWrite value, _ => execTbFreeLenWrite_calm value (Calm.refl s)
  | .axisLockPhasePass, _ => execAxisLockPhasePass_calm (Calm.refl s)
  | .axisCountEdge i_ a b, _ => execAxisCountEdge_calm i_ a b (Calm.refl s)
  | .axisIndexEdge i_, _ => execAxisIndexEdge_calm i_ (Calm.refl s)
  | .axisStall i_, _ => execAxisStall_calm i_ (Calm.refl s)
  | .axCpcWrite i_ value, _ => execAxCpcWrite_calm i_ value (Calm.refl s)
  | .compareFire c, _ => execCompareFire_calm c (Calm.refl s)
  | .compareArmNext c, _ => execCompareArmNext_calm c (Calm.refl s)
  | .tbCmpCfgWrite value, _ => execTbCmpCfgWrite_calm value (Calm.refl s)
  | .tbCmpTargetWrite value, _ => execTbCmpTargetWrite_calm value (Calm.refl s)
  | .ptmStart, _ => execPtmStart_calm (Calm.refl s)
  | .ptmResponse master, _ => execPtmResponse_calm master (Calm.refl s)
  | .ptmTimeout, _ => execPtmTimeout_calm (Calm.refl s)
  | .epochLowRead r, _ => execEpochLowRead_calm r (Calm.refl s)
  | .epochLatchExpiry r, _ => execEpochLatchExpiry_calm r (Calm.refl s)
  | .floatStart p, _ => execFloatStart_calm p (Calm.refl s)
  | .admitCmd ctx body, _ => execAdmitCmd_calm ctx body (Calm.refl s)
  | .release ctx body, _ => execRelease_calm ctx body (Calm.refl s)
  | .query ctx, _ => execQuery_calm ctx (Calm.refl s)
  | .compileDone, _ => execCompileDone_calm (Calm.refl s)
  | .nop e, _ => execNop_calm e (Calm.refl s)
  | .mov e rd rs, _ => execMov_calm e rd rs (Calm.refl s)
  | .movi e rd imm, _ => execMovi_calm e rd imm (Calm.refl s)
  | .add e rd rs, _ => execAdd_calm e rd rs (Calm.refl s)
  | .addi e rd imm, _ => execAddi_calm e rd imm (Calm.refl s)
  | .adc e rd rs, _ => execAdc_calm e rd rs (Calm.refl s)
  | .sub e rd rs, _ => execSub_calm e rd rs (Calm.refl s)
  | .subi e rd imm, _ => execSubi_calm e rd imm (Calm.refl s)
  | .andi e rd imm, _ => execAndi_calm e rd imm (Calm.refl s)
  | .and e rd rs, _ => execAnd_calm e rd rs (Calm.refl s)
  | .or e rd rs, _ => execOr_calm e rd rs (Calm.refl s)
  | .ori e rd imm, _ => execOri_calm e rd imm (Calm.refl s)
  | .xor e rd rs, _ => execXor_calm e rd rs (Calm.refl s)
  | .xori e rd imm, _ => execXori_calm e rd imm (Calm.refl s)
  | .shl e rd n, _ => execShl_calm e rd n (Calm.refl s)
  | .shr e rd n, _ => execShr_calm e rd n (Calm.refl s)
  | .cmp e rd rs, _ => execCmp_calm e rd rs (Calm.refl s)
  | .cmpi e rd imm, _ => execCmpi_calm e rd imm (Calm.refl s)
  | .ldb e r p offset, _ => execLdb_calm e r p offset (Calm.refl s)
  | .stb e r p offset, _ => execStb_calm e r p offset (Calm.refl s)
  | .ldp e p imm, _ => execLdp_calm e p imm (Calm.refl s)
  | .addp e p rs, _ => execAddp_calm e p rs (Calm.refl s)
  | .addpi e p imm, _ => execAddpi_calm e p imm (Calm.refl s)
  | .br e cond offset, _ => execBr_calm e cond offset (Calm.refl s)
  | .jmp e target, _ => execJmp_calm e target (Calm.refl s)
  | .call e target, _ => execCall_calm e target (Calm.refl s)
  | .ret e, _ => execRet_calm e (Calm.refl s)
  | .loop e inReg rs imm len, _ => execLoop_calm e inReg rs imm len (Calm.refl s)
  | .cld e, _ => execCld_calm e (Calm.refl s)
  | .cst e, _ => execCst_calm e (Calm.refl s)
  | .pld e, _ => execPld_calm e (Calm.refl s)
  | .pst e, _ => execPst_calm e (Calm.refl s)
  | .hold e p, _ => execHold_calm e p (Calm.refl s)
  | .holdGrant e p, _ => execHoldGrant_calm e p (Calm.refl s)
  | .rel e p, _ => execRel_calm e p (Calm.refl s)
  | .tok e typ rs retry, _ => execTok_calm e typ rs retry (Calm.refl s)
  | .spl e typ rs retry, _ => execSpl_calm e typ rs retry (Calm.refl s)
  | .sdat e rd rs, _ => execSdat_calm e rd rs (Calm.refl s)
  | .rdat e mask offset, _ => execRdat_calm e mask offset (Calm.refl s)
  | .shs e, _ => execShs_calm e (Calm.refl s)
  | .whs e mask offset, _ => execWhs_calm e mask offset (Calm.refl s)
  | .arm e v, _ => execArm_calm e v (Calm.refl s)
  | .dly e count, _ => execDly_calm e count (Calm.refl s)
  | .dlyExpiry e p, _ => execDlyExpiry_calm e p (Calm.refl s)
  | .drn e, _ => execDrn_calm e (Calm.refl s)
  | .getw e, _ => execGetw_calm e (Calm.refl s)
  | .getwGrant e, _ => execGetwGrant_calm e (Calm.refl s)
  | .affinityOfferExpiry item, _ => execAffinityOfferExpiry_calm item (Calm.refl s)
  | .putw e, _ => execPutw_calm e (Calm.refl s)
  | .fin e v, _ => execFin_calm e v (Calm.refl s)
  | .evt e v, _ => execEvt_calm e v (Calm.refl s)
  | .sret e v, _ => execSret_calm e v (Calm.refl s)
  | .scall e v, _ => execScall_calm e v (Calm.refl s)
  | .scriptBudgetExpiry e, _ => execScriptBudgetExpiry_calm e (Calm.refl s)
  | .parkedThreadResume e p, _ => execParkedThreadResume_calm e p (Calm.refl s)
  | .engineInterrupt e, _ => execEngineInterrupt_calm e (Calm.refl s)
  | .itemPost post, _ => execItemPost_calm post (Calm.refl s)
  | .scriptLoad ctx number image, _ => execScriptLoad_calm ctx number image (Calm.refl s)
  | .scriptUnload ctx number, _ => execScriptUnload_calm ctx number (Calm.refl s)
  | .scriptBind ctx body, _ => execScriptBind_calm ctx body (Calm.refl s)
  | .scriptUnbind ctx body, _ => execScriptUnbind_calm ctx body (Calm.refl s)
  | .dspCtxCtlWrite value, _ => execDspCtxCtlWrite_calm value (Calm.refl s)
  | .dmaRequest cut, _ => execDmaRequest_calm cut (Calm.refl s)
  | .dmaReadCompletion ch timed ok data, _ => execDmaReadCompletion_calm ch timed ok data (Calm.refl s)
  | .drainComplete ch timed, _ => execDrainComplete_calm ch timed (Calm.refl s)
  | .indexTableReadDone item first ok bytes, _ => execIndexTableReadDone_calm item first ok bytes (Calm.refl s)
  | .bufCarve ctx handle epaddr, _ => execBufCarve_calm ctx handle epaddr (Calm.refl s)
  | .bufRelease ctx handle epaddr, _ => execBufRelease_calm ctx handle epaddr (Calm.refl s)
  | .bufReleaseComplete f handle epaddr, _ => execBufReleaseComplete_calm f handle epaddr (Calm.refl s)
  | .pageScrubDone page, _ => execPageScrubDone_calm page (Calm.refl s)
  | .eccScrubVisit page word bad, _ => execEccScrubVisit_calm page word bad (Calm.refl s)
  | .vfEnableSet numVFs, _ => execVfEnableSet_calm numVFs (Calm.refl s)
  | .vfEnableClear, _ => execVfEnableClear_calm (Calm.refl s)
  | .busMasterEnableChange f on, _ => execBusMasterEnableChange_calm f on (Calm.refl s)
  | .vfCreate ctx d, _ => execVfCreate_calm ctx d (Calm.refl s)
  | .vfDestroy ctx v, _ => execVfDestroy_calm ctx v (Calm.refl s)
  | .funcModify ctx d, _ => execFuncModify_calm ctx d (Calm.refl s)
  | .funcQuery ctx v, _ => execFuncQuery_calm ctx v (Calm.refl s)
  | .devAssign ctx body, _ => execDevAssign_calm ctx body (Calm.refl s)
  | .devQuery ctx func first, _ => execDevQuery_calm ctx func first (Calm.refl s)
  | .dirtyMapWrite v page, _ => execDirtyMapWrite_calm v page (Calm.refl s)
  | .vfFlr v, _ => execVfFlr_calm v (Calm.refl s)
  | .vfResetDone v, _ => execVfResetDone_calm v (Calm.refl s)
  | .pf0Flr, _ => execPf0Flr_calm (Calm.refl s)
  | .prsntNEdge n high, _ => execPrsntNEdge_calm n high (Calm.refl s)
  | .removal n, _ => execRemoval_calm n (Calm.refl s)
  | .debounceEnd n, _ => execDebounceEnd_calm n (Calm.refl s)
  | .minOffExpiry n, _ => execMinOffExpiry_calm n (Calm.refl s)
  | .feedInvalid n x, _ => execFeedInvalid_calm n x (Calm.refl s)
  | .feedValid n x, _ => execFeedValid_calm n x (Calm.refl s)
  | .oringReverse n x, _ => execOringReverse_calm n x (Calm.refl s)
  | .oringForward n x, _ => execOringForward_calm n x (Calm.refl s)
  | .slotEnSet n, _ => execSlotEnSet_calm n (Calm.refl s)
  | .slotEnClear n, _ => execSlotEnClear_calm n (Calm.refl s)
  | .cycle n, _ => execCycle_calm n (Calm.refl s)
  | .rampEnd n, _ => execRampEnd_calm n (Calm.refl s)
  | .powerGood n, _ => execPowerGood_calm n (Calm.refl s)
  | .rampTimeout n vout vbus, _ => execRampTimeout_calm n vout vbus (Calm.refl s)
  | .fetGate n vout vbus, _ => execFetGate_calm n vout vbus (Calm.refl s)
  | .pgLost n, _ => execPgLost_calm n (Calm.refl s)
  | .pgLostTimeout n vout vbus, _ => execPgLostTimeout_calm n vout vbus (Calm.refl s)
  | .faultTimerExpiry n vout vbus, _ => execFaultTimerExpiry_calm n vout vbus (Calm.refl s)
  | .severeOc n vout vbus, _ => execSevereOc_calm n vout vbus (Calm.refl s)
  | .soaLimit n vout vbus, _ => execSoaLimit_calm n vout vbus (Calm.refl s)
  | .outputPresentCheck n vout vbus, _ => execOutputPresentCheck_calm n vout vbus (Calm.refl s)
  | .pfwAssert n cause, _ => execPfwAssert_calm n cause (Calm.refl s)
  | .pfwClear n, _ => execPfwClear_calm n (Calm.refl s)
  | .telemetryConversion n va vb vbus vout isense, _ => execTelemetryConversion_calm n va vb vbus vout isense (Calm.refl s)
  | .telPeakRestart n, _ => execTelPeakRestart_calm n (Calm.refl s)
  | .errorDetected err, _ => execErrorDetected_calm err (Calm.refl s)
  | .engineRejoin e, _ => execEngineRejoin_calm e (Calm.refl s)
  | .errorWindowStart c, _ => execErrorWindowStart_calm c (Calm.refl s)
  | .errCfgWrite c value, _ => execErrCfgWrite_calm c value (Calm.refl s)
  | .errPortFailedClear mask, _ => execErrPortFailedClear_calm mask (Calm.refl s)
  | .configRestored c inst, _ => execConfigRestored_calm c inst (Calm.refl s)
  | .coreWatchdogExpiry core, _ => execCoreWatchdogExpiry_calm core (Calm.refl s)
  | .xebirokLinkUp lanes, _ => execXebirokLinkUp_calm lanes (Calm.refl s)
  | .laneDown lane, _ => execLaneDown_calm lane (Calm.refl s)
  | .ident h pairId st step version home numVFs, _ => execIdent_calm h pairId st step version home numVFs (Calm.refl s)
  | .xbkClaim h pairId role, _ => execXbkClaim_calm h pairId role (Calm.refl s)
  | .claimAnswer h pairId result, _ => execClaimAnswer_calm h pairId result (Calm.refl s)
  | .heartbeat h st u epoch shadowSeq, _ => execHeartbeat_calm h st u epoch shadowSeq (Calm.refl s)
  | .time h epoch len lock m1 tick, _ => execTime_calm h epoch len lock m1 tick (Calm.refl s)
  | .fatal h cause epoch, _ => execFatal_calm h cause epoch (Calm.refl s)
  | .handover h cause epoch, _ => execHandover_calm h cause epoch (Calm.refl s)
  | .yield h pairId, _ => execYield_calm h pairId (Calm.refl s)
  | .xbkNak h seq, _ => execXbkNak_calm h seq (Calm.refl s)
  | .ackOnly h, _ => execAckOnly_calm h (Calm.refl s)
  | .ackOnlyTimer, _ => execAckOnlyTimer_calm (Calm.refl s)
  | .shadow h body, _ => execShadow_calm h body (Calm.refl s)
  | .ganderWindowEnd toggled, _ => execGanderWindowEnd_calm toggled (Calm.refl s)
  | .takeover, _ => execTakeover_calm (Calm.refl s)
  | .discoverTimeout, _ => execDiscoverTimeout_calm (Calm.refl s)
  | .syncDone, _ => execSyncDone_calm (Calm.refl s)
  | .staleResyncTimer, _ => execStaleResyncTimer_calm (Calm.refl s)
  | .pairActConflict, _ => execPairActConflict_calm (Calm.refl s)
  | .yieldResetDone, _ => execYieldResetDone_calm (Calm.refl s)
  | .pctlbKeepaliveTick g, _ => execPctlbKeepaliveTick_calm g (Calm.refl s)
  | .pctlbKeepaliveLoss g, _ => execPctlbKeepaliveLoss_calm g (Calm.refl s)
  | .pctlbResendTimeout g side, _ => execPctlbResendTimeout_calm g side (Calm.refl s)
  | .keepalive g seq, _ => execKeepalive_calm g seq (Calm.refl s)
  | .pctlbClaim g seq pairId, _ => execPctlbClaim_calm g seq pairId (Calm.refl s)
  | .pctlbRelease g seq, _ => execPctlbRelease_calm g seq (Calm.refl s)
  | .pctlbWrite g j seq offset value, _ => execPctlbWrite_calm g j seq offset value (Calm.refl s)
  | .pctlbRead g j seq offset, _ => execPctlbRead_calm g j seq offset (Calm.refl s)
  | .eventAck g evSeq, _ => execEventAck_calm g evSeq (Calm.refl s)
  | .keepaliveAck g seq auth coreLost, _ => execKeepaliveAck_calm g seq auth coreLost (Calm.refl s)
  | .claimAck g seq result auth, _ => execClaimAck_calm g seq result auth (Calm.refl s)
  | .writeAck g seq result, _ => execWriteAck_calm g seq result (Calm.refl s)
  | .readData g seq offset value, _ => execReadData_calm g seq offset value (Calm.refl s)
  | .pctlbEvent g j seq bits sts, _ => execPctlbEvent_calm g j seq bits sts (Calm.refl s)
  | .pairQuery ctx, _ => execPairQuery_calm ctx (Calm.refl s)
  | .pairSwitch ctx epoch, _ => execPairSwitch_calm ctx epoch (Calm.refl s)
  | .pairResync ctx, _ => execPairResync_calm ctx (Calm.refl s)
  | .eicClaim t, _ => execEicClaim_calm t (Calm.refl s)
  | .eicComplete t src, _ => execEicComplete_calm t src (Calm.refl s)
  | .enSet w v, _ => execEnSet_calm w v (Calm.refl s)
  | .enClr w v, _ => execEnClr_calm w v (Calm.refl s)
  | .pendSet w v, _ => execPendSet_calm w v (Calm.refl s)
  | .pendClr w v, _ => execPendClr_calm w v (Calm.refl s)
  | .msixIntervalExpiry f v, _ => execMsixIntervalExpiry_calm f v (Calm.refl s)
  | .msixUnmask f v, _ => execMsixUnmask_calm f v (Calm.refl s)
  | .intVecModWrite f value, _ => execIntVecModWrite_calm f value (Calm.refl s)
  | .mbxInCommit box seq typ, _ => execMbxInCommit_calm box seq typ (Calm.refl s)
  | .mbxOutDone box, _ => execMbxOutDone_calm box (Calm.refl s)
  | .mbxNoticeTake box, _ => execMbxNoticeTake_calm box (Calm.refl s)
  | .mbxCommandRead box ok hdr body, _ => execMbxCommandRead_calm box ok hdr body (Calm.refl s)
  | .mbxOutboundPost box, _ => execMbxOutboundPost_calm box (Calm.refl s)
  | .i3cPrivateWrite offset data, _ => execI3cPrivateWrite_calm offset data (Calm.refl s)
  | .i3cPrivateRead count, _ => execI3cPrivateRead_calm count (Calm.refl s)
  | .entdaa addr, _ => execEntdaa_calm addr (Calm.refl s)
  | .i3cBusReset, _ => execI3cBusReset_calm (Calm.refl s)
  | .fwQuery ctx, _ => execFwQuery_calm ctx (Calm.refl s)
  | .fwWrite ctx offset data, _ => execFwWrite_calm ctx offset data (Calm.refl s)
  | .fwErase ctx offset sectors, _ => execFwErase_calm ctx offset sectors (Calm.refl s)
  | .fwVerify ctx, _ => execFwVerify_calm ctx (Calm.refl s)
  | .fwActivate ctx, _ => execFwActivate_calm ctx (Calm.refl s)
  | .platSensors ctx temps powers, _ => execPlatSensors_calm ctx temps powers (Calm.refl s)
  | .pwrTargetWrite value, _ => execPwrTargetWrite_calm value (Calm.refl s)
  | .pf0D3hotEntry, _ => execPf0D3hotEntry_calm (Calm.refl s)
  | .pmeTurnOff, _ => execPmeTurnOff_calm (Calm.refl s)
  | .lowPowerEnter, _ => execLowPowerEnter_calm (Calm.refl s)
  | .engineClockGate e, _ => execEngineClockGate_calm e (Calm.refl s)
  | .watchSample wakeIn wakes, _ => execWatchSample_calm wakeIn wakes (Calm.refl s)
  | .pf0D0Entry, _ => execPf0D0Entry_calm (Calm.refl s)
  | .wakeInAssert, _ => execWakeInAssert_calm (Calm.refl s)
  | .wakeRegulatorReady, _ => execWakeRegulatorReady_calm (Calm.refl s)
  | .wakeClockReady, _ => execWakeClockReady_calm (Calm.refl s)
  | .wakeMemoryReady, _ => execWakeMemoryReady_calm (Calm.refl s)
  | .wakeLogicReady, _ => execWakeLogicReady_calm (Calm.refl s)
  | .coreReset, _ => execCoreReset_calm (Calm.refl s)
  | .powerOnReset, h => absurd trivial h
  | .powerOnResetEnd .., h => absurd trivial h
  | .perstAssert, _ => execPerstAssert_calm (Calm.refl s)
  | .perstDeassert, _ => execPerstDeassert_calm (Calm.refl s)
  | .hotReset, _ => execHotReset_calm (Calm.refl s)
  | .bootDone, _ => execBootDone_calm (Calm.refl s)
  | .coreRailLoss, h => absurd trivial h
  | .vmuleLoss g, _ => execVmuleLoss_calm g (Calm.refl s)
  | .vmuleRise g, _ => execVmuleRise_calm g (Calm.refl s)
  | .registerWrite f offset wide value, _ => execRegisterWrite_calm f offset wide value (Calm.refl s)
  | .discardedPacket p, _ => execDiscardedPacket_calm p (Calm.refl s)
  | .xebirokRecordError, _ => execXebirokRecordError_calm (Calm.refl s)
  | .removalLatchClear n, _ => execRemovalLatchClear_calm n (Calm.refl s)
  | .powerGoodReturn n, _ => execPowerGoodReturn_calm n (Calm.refl s)
  | .trainingTimeout p, _ => execTrainingTimeout_calm p (Calm.refl s)

/-- The dies that the core die takes over change neither the pair nor the power-on reset. -/
theorem calm_powerOnResetEnd {pairEn pairId secHost : Bool} {s t : State}
    (h : execPowerOnResetEnd pairEn pairId secHost s = .next t) :
    t = s ∨ (t.pair.st = .single ↔ t.straps.pairEn = false) := by
  unfold execPowerOnResetEnd at h
  cases hp : s.pwr.por with
  | false => rw [hp] at h; cases h; exact .inl rfl
  | true =>
    rw [hp] at h; cases h
    right
    have hTaken := takeDies_calm (Calm.refl { s with
      straps := { pairEn := pairEn, pairId := pairId, secHost := secHost }
      pair := { s.pair with st := if pairEn then .discover else .single }
      pwr := { s.pwr with por := false } })
    exact hTaken.2.2.2 (by unfold Agrees; cases pairEn <;> simp)

/-- Outside power-on reset the pair state agrees with the strap. -/
def PairMeetsStrap (s : State) : Prop := s.pwr.por = false → Agrees s

theorem PairMeetsStrap.of_calm {s t : State} (h : PairMeetsStrap s) (k : Calm s t) : PairMeetsStrap t :=
  fun hp => k.2.2.2 (h (k.2.2.1.symm.trans hp))

/-- Every command keeps the agreement: a power-on reset suspends it, and its end samples the strap and sets the state together. -/
theorem exec_keeps_pairMeetsStrap {c : Instr} {s t : State} (h : PairMeetsStrap s) (ht : exec c s = .next t) :
    PairMeetsStrap t := by
  by_cases hc : SetsPor c
  · cases c
    case powerOnReset => cases ht; intro hp; cases hp
    case coreRailLoss =>
      change guarded (s.pwr.st != .off) s powerOn = .next t at ht
      cases hOff : (s.pwr.st != .off) with
      | false => rw [hOff] at ht; cases ht; exact h
      | true => rw [hOff] at ht; cases ht; intro hp; cases hp
    case powerOnResetEnd =>
      rcases calm_powerOnResetEnd ht with rfl | hAgrees
      · exact h
      · exact fun _ => hAgrees
    all_goals exact hc.elim
  · exact h.of_calm (exec_calm s c hc t ht)

/-! ### A step -/

theorem step_of_cons {s : State} {c : Instr} {rest : List Instr} (h : s.pending = c :: rest) :
    step s = exec c { s with pending := rest } := by
  unfold step; rw [h]

theorem step_of_nil {s : State} (h : s.pending = []) : step s = .next (cyclePasses s) := by
  unfold step; rw [h]

/-! ### The statements -/

/-- No command's list names the queue: each list is closed, and is looked through. -/
theorem pending_not_touched (c : Instr) : Block.pending ∉ touches c := by
  have hNone : (touches c).contains .pending = false := by cases c <;> rfl
  simpa using hNone

/-- Settles O1: a step is a case split on the queue. -/
theorem stepRunsFront : Obligations.StepRunsFront := by
  intro s
  exact ⟨fun c rest hq => step_of_cons hq, fun hq => step_of_nil hq⟩

/-- Settles O2: an invariant of the step, whose one interesting case is the end of a power-on reset, where strap and state are set
together. -/
theorem pairAgrees : Obligations.PairAgrees := by
  intro s t hInv hStep
  change PairMeetsStrap t
  cases hq : s.pending with
  | nil =>
    rw [step_of_nil hq] at hStep; cases hStep
    exact PairMeetsStrap.of_calm hInv (cyclePasses_calm (Calm.refl s))
  | cons c rest =>
    rw [step_of_cons hq] at hStep
    exact exec_keeps_pairMeetsStrap (s := { s with pending := rest }) hInv hStep

/-- Settles O3: the command answers, and each block that `touches` does not list is as it was by the row's own law. -/
theorem whatCommandsChange : Obligations.WhatCommandsChange := by
  intro c s
  obtain ⟨t, ht⟩ := exec_answers c s
  exact ⟨t, ht, fun bl hb => exec_keeps bl s c hb t ht, exec_keeps .pending s c (pending_not_touched c) t ht⟩

/-- Settles O4: the tables of the reset state are empty, so that every entry reads its reset value. -/
theorem resetState : Obligations.ResetState := by
  refine ⟨rfl, rfl, fun _ => ⟨fun _ => rfl, fun _ => rfl⟩, rfl, fun _ => rfl, fun _ => rfl, fun _ => ⟨rfl, rfl, rfl, rfl⟩,
    fun _ => ⟨rfl, rfl, rfl⟩, fun _ => ⟨rfl, rfl⟩, fun _ => ⟨rfl, rfl, rfl, rfl, rfl, rfl, rfl⟩, rfl, fun f hf => ?_,
    fun _ => ⟨rfl, rfl⟩, rfl, rfl, rfl⟩
  have hInit : fn State.reset f = {} := by
    show funcInit f = {}
    unfold funcInit; rw [if_neg hf]
  rw [hInit]; exact ⟨rfl, rfl⟩

end Sys2Proof.Machine
end

section
/-! PROOFS. Card slots: the rules of a slot's operations, each applied behind operations that have run, then the commands of the
mule dies (R352 to R378). -/

namespace Sys2Proof.Machine

/-! ### Operations of a slot, one behind the other -/

theorem no_more_events (m : U32) : m ||| 0 = m := BitVec.or_zero

/-- From `s` to `t` slot `n` has become `y` and has reported `m`; who hears and commands the dies, and the part's place in a pair,
are as they were. -/
structure SlotStep (n : Nat) (y : CardSlot) (m : U32) (s t : State) : Prop where
  moves : SlotMoves n y m s t
  dies : DieSame s t
  straps : t.straps = s.straps
  pair : t.pair = s.pair

section
variable {n : Nat} {y : CardSlot} {m : U32} {s t : State}

theorem SlotStep.refl (n : Nat) (s : State) : SlotStep n (slot s n) 0 s s :=
  ⟨SlotMoves.refl n s, DieSame.refl s, rfl, rfl⟩

/-- The slot reads as `y`, but for what its die keeps while parked. -/
theorem SlotStep.slot_eq (h : SlotStep n y m s t) : ∃ c, slot t n = { y with kept := c } :=
  ⟨_, slot_of_kept h.moves.1⟩

/-- What does not look at the kept events reads the same of the slot and of `y`. -/
theorem SlotStep.read {α : Type} (h : SlotStep n y m s t) (π : CardSlot → α) (hπ : ∀ x c, π { x with kept := c } = π x) :
    π (slot t n) = π y := by
  obtain ⟨c, hc⟩ := h.slot_eq
  rw [hc, hπ]

theorem SlotStep.now_eq (h : SlotStep n y m s t) : now t = now s := by
  unfold now; rw [h.dies.2.2]

theorem SlotStep.epoch_eq (h : SlotStep n y m s t) (k : Nat) : epoch32 t k = epoch32 s k := by
  unfold epoch32; rw [h.dies.2.2]

theorem SlotStep.hears_eq (h : SlotStep n y m s t) (g : Nat) : hears t g = hears s g := h.dies.2.1 g

theorem SlotStep.rampBlocked_eq (h : SlotStep n y m s t) : rampBlocked t n = rampBlocked s n := by
  obtain ⟨hParked, -, hLost, hAuth⟩ := h.dies.1 (dieOf n)
  unfold rampBlocked homeOf
  dsimp only
  rw [hParked, hLost, hAuth, h.straps, h.pair]

/-- A further move of the slot, seen from the beginning. -/
theorem SlotStep.after {w z : CardSlot} {k : U32} {u : State} (h : SlotStep n y m s t) (hm : SlotMoves n w k t u)
    (hd : DieSame t u) (hs : u.straps = t.straps) (hp : u.pair = t.pair)
    (hw : ∀ c, slot t n = { y with kept := c } → { w with kept := 0 } = { z with kept := 0 }) :
    SlotStep n z (m ||| k) s u :=
  ⟨h.moves.next h.dies hm hw rfl, h.dies.trans hd, hs.trans h.straps, hp.trans h.pair⟩

/-- A change of the slot that does not look at the kept events. -/
theorem SlotStep.mod (h : SlotStep n y m s t) (g : CardSlot → CardSlot)
    (hg : ∀ x c, g { x with kept := c } = { g x with kept := c }) : SlotStep n (g y) m s (modSlot n g t) := by
  obtain ⟨c, hc⟩ := h.slot_eq
  have hKept : (g (slot t n)).kept = (slot t n).kept := by rw [hc, hg]
  have hStep := h.after (modSlot_moves n g t hKept) (modSlot_dieSame n g t) rfl rfl (z := g y)
    (fun d hd => by rw [hd, hg])
  rwa [no_more_events] at hStep

theorem dieEvent_straps (n b : Nat) (s : State) : (dieEvent n b s).straps = s.straps :=
  dieEvent_keeps (bl := .straps) n b (Keeps.refl .straps s) (by decide)
theorem dieEvent_pair (n b : Nat) (s : State) : (dieEvent n b s).pair = s.pair :=
  dieEvent_keeps (bl := .pair) n b (Keeps.refl .pair s) (by decide)
theorem tellCore_straps (n b : Nat) (s : State) : (tellCore n b s).straps = s.straps :=
  tellCore_keeps (bl := .straps) n b (Keeps.refl .straps s) (by decide)
theorem tellCore_pair (n b : Nat) (s : State) : (tellCore n b s).pair = s.pair :=
  tellCore_keeps (bl := .pair) n b (Keeps.refl .pair s) (by decide)

theorem SlotStep.event (h : SlotStep n y m s t) (hn : n < 64) (b : Nat) :
    SlotStep n y (m ||| BitVec.ofNat 32 (2 ^ b)) s (dieEvent n b t) :=
  h.after (dieEvent_moves n b hn t) (dieEvent_dieSame n b t) (dieEvent_straps n b t) (dieEvent_pair n b t)
    (fun c hc => by rw [hc])

theorem SlotStep.tell (h : SlotStep n y m s t) (b : Nat) : SlotStep n y m s (tellCore n b t) := by
  have hStep := h.after (tellCore_moves n b t) (tellCore_dieSame n b t) (tellCore_straps n b t) (tellCore_pair n b t)
    (z := y) (fun c hc => by rw [hc])
  rwa [no_more_events] at hStep

theorem SlotStep.gateOff (h : SlotStep n y m s t) (hn : n < 64) (st : SlotState) :
    SlotStep n (offSlot (now s) st y) (m ||| 8) s (gateOff n st t) :=
  h.after (gateOff_moves n st hn t) (gateOff_dieSame n st t)
    (gateOff_keeps (bl := .straps) n st (Keeps.refl .straps t) (by decide))
    (gateOff_keeps (bl := .pair) n st (Keeps.refl .pair t) (by decide))
    (fun c hc => by rw [hc, h.now_eq]; rfl)

theorem tripSlot_kept (code : BitVec 4) (by_ : Bool) (vout vbus : BitVec 12) (at_ e : Nat) (x : CardSlot) (c : U32) :
    tripSlot code by_ vout vbus at_ e { x with kept := c } = { tripSlot code by_ vout vbus at_ e x with kept := c } := by
  unfold tripSlot
  cases hg : x.gate
  · simp only [hg, Bool.false_eq_true, if_false]
  · simp only [if_true]; rfl

theorem SlotStep.trip (h : SlotStep n y m s t) (hn : n < 64) (code : Nat) (by_ : Bool) (vout vbus : BitVec 12) :
    SlotStep n (tripSlot (BitVec.ofNat 4 code) by_ vout vbus (now s) (epoch32 s 0) y) (m ||| 0x18) s
      (trip n code by_ vout vbus t) :=
  h.after (trip_moves n code by_ vout vbus hn t) (trip_dieSame n code by_ vout vbus t)
    (trip_keeps (bl := .straps) n code by_ vout vbus (Keeps.refl .straps t) (by decide))
    (trip_keeps (bl := .pair) n code by_ vout vbus (Keeps.refl .pair t) (by decide))
    (fun c hc => by rw [hc, h.now_eq, h.epoch_eq, tripSlot_kept])

theorem checkedSlot_kept (free : Bool) (x : CardSlot) (c : U32) :
    checkedSlot free { x with kept := c } = { checkedSlot free x with kept := c } := by
  have hFeed : anyFeed { x with kept := c } = anyFeed x := rfl
  unfold checkedSlot
  rw [hFeed]
  cases x.present <;> cases x.minOff <;> cases anyFeed x <;> cases free <;> rfl

theorem SlotStep.check (h : SlotStep n y m s t) :
    SlotStep n (checkedSlot (!rampBlocked s n) y) m s (powerCheck n t) := by
  have hStep := h.after (powerCheck_moves n t) (powerCheck_dieSame n t)
    (powerCheck_keeps (bl := .straps) n (Keeps.refl .straps t) (by decide))
    (powerCheck_keeps (bl := .pair) n (Keeps.refl .pair t) (by decide))
    (z := checkedSlot (!rampBlocked s n) y) (fun c hc => by rw [hc, h.rampBlocked_eq, checkedSlot_kept])
  rwa [no_more_events] at hStep

/-- A message that the core die hears stands among what was sent. -/
theorem mem_tellCore (h : hears s (dieOf n) = true) (b : Nat) : .muleEvent n b ∈ (tellCore n b s).out := by
  unfold tellCore
  rw [if_pos h]
  exact List.mem_append_right _ (List.mem_singleton.2 rfl)

theorem SlotStep.told (h : SlotStep n y m s t) (b : Nat) (hh : hears s (dieOf n) = true) :
    .muleEvent n b ∈ (tellCore n b t).out :=
  mem_tellCore ((h.hears_eq _).trans hh) b

theorem SlotStep.as {z : CardSlot} {k : U32} (h : SlotStep n y m s t) (hy : y = z) (hm : m = k) : SlotMoves n z k s t := by
  subst hy; subst hm; exact h.moves

end

/-! ### Trips (R366 to R373, R378) -/

section
variable {s : State} {n : SlotId} (vout vbus : BitVec 12)

/-- A command that is a guarded trip behind at most a change of the slot. -/
theorem exec_trip {o : Host.Outcome State Fault Refusal} {g : Bool} {f : State → State} {t : State} {y : CardSlot} {code : Nat}
    {by_ : Bool} (h : SlotStep n.val y 0 s t) (ho : o = guarded g s f) (hg : g = true) (hf : f s = trip n.val code by_ vout vbus t) :
    ∃ u, o = .next u
      ∧ SlotMoves n.val (tripSlot (BitVec.ofNat 4 code) by_ vout vbus (now s) (epoch32 s 0) y) 0x18 s u :=
  ⟨_, runs_of_guard ho hg, hf ▸ (h.trip n.isLt code by_ vout vbus).moves⟩

theorem rampCode_eq : BitVec.ofNat 4 (rampCode vout vbus) = if vout.toNat * 10 < vbus.toNat then (4 : BitVec 4) else 5 := by
  unfold rampCode; split <;> rfl

theorem rampTimeout_moves (hp : slotPowered s n.val = true) (hst : (slot s n.val).st = .ramp) :
    ∃ t, exec (.rampTimeout n vout vbus) s = .next t ∧ SlotMoves n.val
      (tripSlot (if vout.toNat * 10 < vbus.toNat then 4 else 5) false vout vbus (now s) (epoch32 s 0) (slot s n.val)) 0x18 s t := by
  rw [← rampCode_eq]
  exact exec_trip vout vbus (o := execRampTimeout n vout vbus s) (SlotStep.refl n.val s) rfl (by simp [hp, hst]) rfl

theorem fetGate_moves (hp : slotPowered s n.val = true) (hst : (slot s n.val).st = .ramp) (hr : (slot s n.val).gateRise = true) :
    ∃ t, exec (.fetGate n vout vbus) s = .next t
      ∧ SlotMoves n.val (tripSlot 6 false vout vbus (now s) (epoch32 s 0) (slot s n.val)) 0x18 s t :=
  exec_trip vout vbus (o := execFetGate n vout vbus s) (SlotStep.refl n.val s) rfl (by simp [hp, hst, hr]) rfl

theorem faultTimerExpiry_moves (hp : slotPowered s n.val = true) (hst : (slot s n.val).st = .on) :
    ∃ t, exec (.faultTimerExpiry n vout vbus) s = .next t ∧ SlotMoves n.val (tripSlot 1 false vout vbus (now s) (epoch32 s 0)
      { slot s n.val with faultTimer := faultT (slot s n.val) }) 0x18 s t :=
  exec_trip vout vbus (o := execFaultTimerExpiry n vout vbus s)
    ((SlotStep.refl n.val s).mod (fun x => { x with faultTimer := faultT x }) (fun _ _ => rfl)) rfl (by simp [hp, hst]) rfl

/-- A removal of the same cycle has left the gate's cut of this instant behind. -/
theorem removedNow_of {c : GateCut} (hst : (slot s n.val).st = .empty) (hc : (slot s n.val).cut = some c) (ha : c.at_ = now s) :
    removedNow s n.val (fun _ => true) = true := by
  unfold removedNow cutNow
  simp [hst, hc, ha]

theorem severeOc_moves (hp : slotPowered s n.val = true)
    (h : (slot s n.val).gate = true ∨ ((slot s n.val).st = .empty ∧ ∃ c, (slot s n.val).cut = some c ∧ c.at_ = now s)) :
    ∃ t, exec (.severeOc n vout vbus) s = .next t
      ∧ SlotMoves n.val (tripSlot 2 false vout vbus (now s) (epoch32 s 0) (slot s n.val)) 0x18 s t := by
  refine exec_trip vout vbus (o := execSevereOc n vout vbus s) (SlotStep.refl n.val s) rfl ?_ rfl
  rcases h with hGate | ⟨hEmpty, c, hc, ha⟩
  · simp [hp, hGate]
  · simp [hp, removedNow_of hEmpty hc ha]

theorem soaLimit_moves (hp : slotPowered s n.val = true) (hg : (slot s n.val).gate = true) :
    ∃ t, exec (.soaLimit n vout vbus) s = .next t ∧ SlotMoves n.val
      (tripSlot (if (slot s n.val).st = .ramp then (if vout.toNat * 10 < vbus.toNat then 4 else 5) else 3) true vout vbus (now s)
        (epoch32 s 0) (slot s n.val)) 0x18 s t := by
  have hCode : BitVec.ofNat 4 (if soaInRamp s n.val then rampCode vout vbus else 3)
      = if (slot s n.val).st = .ramp then (if vout.toNat * 10 < vbus.toNat then 4 else 5) else 3 := by
    rw [← rampCode_eq]
    unfold soaInRamp
    by_cases hr : (slot s n.val).st = .ramp <;> simp [hr, hg]
  rw [← hCode]
  exact exec_trip vout vbus (o := execSoaLimit n vout vbus s) (SlotStep.refl n.val s) rfl (by simp [hp, hg]) rfl

theorem pgLostTimeout_moves (hp : slotPowered s n.val = true) (hl : (slot s n.val).pgLoss = true)
    (hf : anyFeed (slot s n.val) = true) : ∃ t, exec (.pgLostTimeout n vout vbus) s = .next t
      ∧ SlotMoves n.val (tripSlot 8 false vout vbus (now s) (epoch32 s 0) (slot s n.val)) 0x18 s t := by
  refine ⟨_, runs_of_guard (o := execPgLostTimeout n vout vbus s) rfl (by simp [hp, hl]), ?_⟩
  simp only [hf, if_true]
  exact ((SlotStep.refl n.val s).trip n.isLt 8 false vout vbus).moves

/-- With no valid feed the loss of power-good is no trip: the slot goes to NO_FEED (R364). -/
theorem pgLostTimeout_noFeed (hp : slotPowered s n.val = true) (hl : (slot s n.val).pgLoss = true)
    (hf : anyFeed (slot s n.val) = false) : ∃ u, SlotMoves n.val (offSlot (now s) .noFeed (slot s n.val)) 8 s u
      ∧ exec (.pgLostTimeout n vout vbus) s = .next (coreGateOff n.val u) := by
  refine ⟨gateOff n.val .noFeed s, ((SlotStep.refl n.val s).gateOff n.isLt .noFeed).moves, (runs_of_guard (o := execPgLostTimeout n vout vbus s) rfl (by simp [hp, hl])).trans ?_⟩
  simp [hf, hl]

theorem exec_outputPresentCheck (hp : slotPowered s n.val = true) (hk : 2 ≤ cfgFetchk (slot s n.val))
    (hg : (slot s n.val).gate = false) : exec (.outputPresentCheck n vout vbus) s = .next
      (let u := modSlot n.val (fun x => { x with discharge := false }) s
       if 250 < vout.toNat && !((slot u n.val).st == .tripped && (slot u n.val).tripCode == 7) then
         (let v := trip n.val 7 false vout vbus u
          if cfgOringOpen (slot u n.val) then modSlot n.val (fun x => { x with disconnected := true, orA := false, orB := false }) v
          else v)
       else u) :=
  runs_of_guard (o := execOutputPresentCheck n vout vbus s) rfl (by simp [hp, hk, hg])

theorem outputPresentCheck_trips (hp : slotPowered s n.val = true) (hk : 2 ≤ cfgFetchk (slot s n.val))
    (hg : (slot s n.val).gate = false) (hv : 250 < vout.toNat) (ht : ¬((slot s n.val).st = .tripped ∧ (slot s n.val).tripCode = 7)) :
    ∃ t, exec (.outputPresentCheck n vout vbus) s = .next t ∧ SlotMoves n.val
      (let y := tripSlot 7 false vout vbus (now s) (epoch32 s 0) { slot s n.val with discharge := false }
       if cfgOringOpen (slot s n.val) then { y with disconnected := true, orA := false, orB := false } else y) 0x18 s t := by
  have hTrip := ((SlotStep.refl n.val s).mod (fun x => { x with discharge := false }) (fun _ _ => rfl)).trip n.isLt 7 false vout vbus
  refine ⟨_, exec_outputPresentCheck vout vbus hp hk hg, ?_⟩
  have hFirst : ((slot s n.val).st == .tripped && (slot s n.val).tripCode == 7) = false := by
    simpa using ht
  have hOring : cfgOringOpen { slot s n.val with discharge := false } = cfgOringOpen (slot s n.val) := rfl
  simp only [slot_modSlot, if_true, hFirst, hv, decide_true, Bool.not_false, Bool.and_true, hOring]
  split
  · exact (hTrip.mod (fun x => { x with disconnected := true, orA := false, orB := false }) (fun _ _ => rfl)).moves
  · exact hTrip.moves

theorem outputPresentCheck_low (hp : slotPowered s n.val = true) (hk : 2 ≤ cfgFetchk (slot s n.val))
    (hg : (slot s n.val).gate = false) (hv : vout.toNat ≤ 250) : ∃ t, exec (.outputPresentCheck n vout vbus) s = .next t
      ∧ SlotMoves n.val { slot s n.val with discharge := false } 0 s t := by
  refine ⟨_, exec_outputPresentCheck vout vbus hp hk hg, ?_⟩
  simp only [show ¬ 250 < vout.toNat by omega, decide_false, Bool.false_and, Bool.false_eq_true, if_false]
  exact ((SlotStep.refl n.val s).mod (fun x => { x with discharge := false }) (fun _ _ => rfl)).moves

end

/-- Settles O5: each cause is a guarded trip behind at most one change of the slot. -/
theorem slotTrips : Obligations.SlotTrips := by
  intro s n vout vbus hp
  exact ⟨rampTimeout_moves vout vbus hp, fetGate_moves vout vbus hp, faultTimerExpiry_moves vout vbus hp, severeOc_moves vout vbus hp,
    soaLimit_moves vout vbus hp, pgLostTimeout_moves vout vbus hp, pgLostTimeout_noFeed vout vbus hp,
    outputPresentCheck_trips vout vbus hp, outputPresentCheck_low vout vbus hp⟩

end Sys2Proof.Machine
end

section
/-! PROOFS. Card slots, continued: presence and the power-up check, EN, CYCLE and the registers (R357 to R362, R371, R478). -/

namespace Sys2Proof.Machine

/-! ### Presence (R357, R358, R361, R362, R371) -/

section
variable {s : State} {n : SlotId}

theorem prsntNEdge_moves (hp : slotPowered s n.val = true) (high : Bool) : ∃ t, exec (.prsntNEdge n high) s = .next t
    ∧ SlotMoves n.val { slot s n.val with
        present := !high
        st := if high = false ∧ (slot s n.val).st = .empty then .debounce else (slot s n.val).st } 0 s t := by
  refine ⟨_, runs_of_guard (o := execPrsntNEdge n high s) rfl hp, ?_⟩
  refine ((SlotStep.refl n.val s).mod (fun x => { x with
      present := !high
      st := if !high && x.st == .empty then .debounce else x.st }) (fun _ _ => rfl)).as ?_ rfl
  simp

/-- A removal that the die reports, behind what it does to the slot. -/
theorem removalOp_tells {t : State} {y : CardSlot} {m : U32} (h : SlotStep n.val y m s t)
    (hr : removalOp n.val s = tellCore n.val 1 (dieEvent n.val 1 t)) :
    SlotMoves n.val y (m ||| 2) s (removalOp n.val s)
      ∧ (hears s (dieOf n.val) = true → .muleEvent n.val 1 ∈ (removalOp n.val s).out) := by
  have hEvent := h.event n.isLt 1
  rw [hr]
  exact ⟨(hEvent.tell 1).moves, hEvent.told 1⟩

theorem removalOp_tripped (h : (slot s n.val).st = .tripped) : SlotMoves n.val (slot s n.val) 2 s (removalOp n.val s)
    ∧ (hears s (dieOf n.val) = true → .muleEvent n.val 1 ∈ (removalOp n.val s).out) :=
  removalOp_tells (SlotStep.refl n.val s) (by unfold removalOp; simp only [h])

theorem removalOp_powered (h : (slot s n.val).st = .ramp ∨ (slot s n.val).st = .on) :
    SlotMoves n.val (offSlot (now s) .empty (slot s n.val)) 0xA s (removalOp n.val s)
    ∧ (hears s (dieOf n.val) = true → .muleEvent n.val 1 ∈ (removalOp n.val s).out) := by
  refine removalOp_tells ((SlotStep.refl n.val s).gateOff n.isLt .empty) ?_
  unfold removalOp
  rcases h with h | h <;> simp only [h]

theorem removalOp_unpowered (h : (slot s n.val).st = .off ∨ (slot s n.val).st = .cooldown ∨ (slot s n.val).st = .noFeed) :
    SlotMoves n.val { slot s n.val with st := .empty } 2 s (removalOp n.val s)
    ∧ (hears s (dieOf n.val) = true → .muleEvent n.val 1 ∈ (removalOp n.val s).out) := by
  refine removalOp_tells ((SlotStep.refl n.val s).mod (fun x => { x with st := .empty }) (fun _ _ => rfl)) ?_
  unfold removalOp
  rcases h with h | h | h <;> simp only [h]

theorem removalOp_empty (h : (slot s n.val).st = .empty) : removalOp n.val s = s := by
  unfold removalOp; simp only [h]

theorem removalOp_debounce (h : (slot s n.val).st = .debounce) :
    SlotMoves n.val { slot s n.val with st := .empty } 0 s (removalOp n.val s) := by
  have hOp : removalOp n.val s = modSlot n.val (fun x => { x with st := .empty }) s := by unfold removalOp; simp only [h]
  rw [hOp]
  exact ((SlotStep.refl n.val s).mod (fun x => { x with st := .empty }) (fun _ _ => rfl)).moves

theorem removal_moves (hp : slotPowered s n.val = true) (hx : (slot s n.val).present = false) :
    ∃ t, exec (.removal n) s = .next t
      ∧ ((slot s n.val).st = .empty → t = s)
      ∧ ((slot s n.val).st = .debounce → SlotMoves n.val { slot s n.val with st := .empty } 0 s t)
      ∧ ((slot s n.val).st = .tripped → SlotMoves n.val (slot s n.val) 2 s t)
      ∧ ((slot s n.val).st = .ramp ∨ (slot s n.val).st = .on →
          SlotMoves n.val (offSlot (now s) .empty (slot s n.val)) 0xA s t)
      ∧ ((slot s n.val).st = .off ∨ (slot s n.val).st = .cooldown ∨ (slot s n.val).st = .noFeed →
          SlotMoves n.val { slot s n.val with st := .empty } 2 s t)
      ∧ ((slot s n.val).st ≠ .empty → (slot s n.val).st ≠ .debounce → hears s (dieOf n.val) = true →
          .muleEvent n.val 1 ∈ t.out) := by
  refine ⟨removalOp n.val s, runs_of_guard (o := execRemoval n s) rfl (by simp [hp, hx]), removalOp_empty, removalOp_debounce,
    fun h => (removalOp_tripped h).1, fun h => (removalOp_powered h).1, fun h => (removalOp_unpowered h).1, fun h1 h2 => ?_⟩
  cases hst : (slot s n.val).st with
  | empty => exact absurd hst h1
  | debounce => exact absurd hst h2
  | tripped => exact (removalOp_tripped hst).2
  | ramp => exact (removalOp_powered (.inl hst)).2
  | on => exact (removalOp_powered (.inr hst)).2
  | off => exact (removalOp_unpowered (.inl hst)).2
  | cooldown => exact (removalOp_unpowered (.inr (.inl hst))).2
  | noFeed => exact (removalOp_unpowered (.inr (.inr hst))).2

theorem debounceEnd_moves (hp : slotPowered s n.val = true) (hst : (slot s n.val).st = .debounce)
    (hx : (slot s n.val).present = true) : ∃ t, exec (.debounceEnd n) s = .next t ∧ SlotMoves n.val
      (if (slot s n.val).en then checkedSlot (!rampBlocked s n.val) (slot s n.val) else { slot s n.val with st := .off }) 1 s t := by
  have hEvent := (SlotStep.refl n.val s).event n.isLt 0
  refine ⟨_, runs_of_guard (o := execDebounceEnd n s) rfl (by simp [hp, hst, hx]), ?_⟩
  dsimp only
  rw [hEvent.read CardSlot.en fun _ _ => rfl]
  split
  · exact hEvent.check.moves
  · exact (hEvent.mod (fun x => { x with st := .off }) (fun _ _ => rfl)).moves

theorem minOffExpiry_moves (hp : slotPowered s n.val = true) (hx : (slot s n.val).minOff = true) :
    ∃ t, exec (.minOffExpiry n) s = .next t ∧ SlotMoves n.val
      (if (slot s n.val).st = .cooldown then checkedSlot (!rampBlocked s n.val) { slot s n.val with minOff := false }
       else { slot s n.val with minOff := false }) 0 s t := by
  have hTimed := (SlotStep.refl n.val s).mod (fun x => { x with minOff := false }) (fun _ _ => rfl)
  refine ⟨_, runs_of_guard (o := execMinOffExpiry n s) rfl (by simp [hp, hx]), ?_⟩
  dsimp only
  rw [hTimed.read CardSlot.st fun _ _ => rfl]
  dsimp only
  by_cases hst : (slot s n.val).st = .cooldown
  · simp only [hst, beq_self_eq_true, if_true]; exact hTimed.check.moves
  · simp only [hst, beq_iff_eq, if_false]; exact hTimed.moves

theorem removalLatchClear_moves (hp : slotPowered s n.val = true) (hst : (slot s n.val).st = .tripped)
    (hc : cfgPrsntClears (slot s n.val) = true) (hx : (slot s n.val).present = false) :
    ∃ t, exec (.removalLatchClear n) s = .next t
      ∧ SlotMoves n.val { slot s n.val with disconnected := false, st := .empty } 0 s t :=
  ⟨_, runs_of_guard (o := execRemovalLatchClear n s) rfl (by simp [hp, hst, hc, hx]),
    (((SlotStep.refl n.val s).mod (fun x => { x with disconnected := false }) (fun _ _ => rfl)).mod
      (fun x => { x with st := .empty }) (fun _ _ => rfl)).moves⟩

end

/-- Settles O6: one law per row of presence. -/
theorem slotPresence : Obligations.SlotPresence := by
  intro s n hp
  exact ⟨prsntNEdge_moves hp, removal_moves hp, debounceEnd_moves hp, minOffExpiry_moves hp, removalLatchClear_moves hp⟩

/-! ### EN, CYCLE and the registers (R359, R478) -/

section
variable {s : State} {n : SlotId}

theorem slotEnSet_moves (hp : slotPowered s n.val = true) : ∃ t, exec (.slotEnSet n) s = .next t
    ∧ ((slot s n.val).en = true → t = s)
    ∧ ((slot s n.val).en = false → (slot s n.val).st = .tripped → SlotMoves n.val
        (checkedSlot (!rampBlocked s n.val) { slot s n.val with en := true, disconnected := false }) 0 s t)
    ∧ ((slot s n.val).en = false → (slot s n.val).st = .off →
        SlotMoves n.val (checkedSlot (!rampBlocked s n.val) { slot s n.val with en := true }) 0 s t)
    ∧ ((slot s n.val).en = false → (slot s n.val).st ≠ .tripped → (slot s n.val).st ≠ .off →
        SlotMoves n.val { slot s n.val with en := true } 0 s t) := by
  have hOn := (SlotStep.refl n.val s).mod (fun x => { x with en := true }) (fun _ _ => rfl)
  refine ⟨enSetOp n.val s, runs_of_guard (o := execSlotEnSet n s) rfl hp, fun he => ?_, fun he hst => ?_, fun he hst => ?_,
    fun he h1 h2 => ?_⟩
  · unfold enSetOp; simp only [he, if_true]
  · unfold enSetOp; simp only [he, hst, Bool.false_eq_true, if_false]
    exact (hOn.mod (fun x => { x with disconnected := false }) (fun _ _ => rfl)).check.moves
  · unfold enSetOp; simp only [he, hst, Bool.false_eq_true, if_false]
    exact hOn.check.moves
  · unfold enSetOp; simp only [he, Bool.false_eq_true, if_false]
    exact hOn.moves

theorem slotEnClear_moves (hp : slotPowered s n.val = true) : ∃ u, SlotMoves n.val
      (if (slot s n.val).st = .ramp ∨ (slot s n.val).st = .on then offSlot (now s) .off { slot s n.val with en := false }
       else if (slot s n.val).st = .cooldown ∨ (slot s n.val).st = .noFeed then { slot s n.val with en := false, st := .off }
       else { slot s n.val with en := false })
      (if (slot s n.val).st = .ramp ∨ (slot s n.val).st = .on then 8 else 0) s u
    ∧ exec (.slotEnClear n) s
      = .next (if (slot s n.val).st = .ramp ∨ (slot s n.val).st = .on then coreGateOff n.val u else u) := by
  have hOff := (SlotStep.refl n.val s).mod (fun x => { x with en := false }) (fun _ _ => rfl)
  have hRun := runs_of_guard (o := execSlotEnClear n s) rfl hp
  have hPowered : (slot s n.val).st = .ramp ∨ (slot s n.val).st = .on →
      enClearOp n.val s = coreGateOff n.val (gateOff n.val .off (modSlot n.val (fun x => { x with en := false }) s)) := by
    intro h; unfold enClearOp; rcases h with h | h <;> simp only [h]
  have hWaiting : (slot s n.val).st = .cooldown ∨ (slot s n.val).st = .noFeed →
      enClearOp n.val s = modSlot n.val (fun x => { x with st := .off }) (modSlot n.val (fun x => { x with en := false }) s) := by
    intro h; unfold enClearOp; rcases h with h | h <;> simp only [h]
  by_cases h1 : (slot s n.val).st = .ramp ∨ (slot s n.val).st = .on
  · simp only [h1, if_true]
    exact ⟨_, (hOff.gateOff n.isLt .off).moves, hRun.trans (congrArg _ (hPowered h1))⟩
  · simp only [h1, if_false]
    by_cases h2 : (slot s n.val).st = .cooldown ∨ (slot s n.val).st = .noFeed
    · simp only [h2, if_true]
      exact ⟨_, (hOff.mod (fun x => { x with st := .off }) (fun _ _ => rfl)).moves, hRun.trans (congrArg _ (hWaiting h2))⟩
    · simp only [h2, if_false]
      refine ⟨_, hOff.moves, hRun.trans (congrArg _ ?_)⟩
      unfold enClearOp
      simp only
      split <;> simp_all

theorem cycle_moves (hp : slotPowered s n.val = true) (h : (slot s n.val).st = .ramp ∨ (slot s n.val).st = .on) :
    ∃ u, SlotMoves n.val (offSlot (now s) .cooldown (slot s n.val)) 8 s u
      ∧ exec (.cycle n) s = .next (coreGateOff n.val u) := by
  refine ⟨_, ((SlotStep.refl n.val s).gateOff n.isLt .cooldown).moves,
    (runs_of_guard (o := execCycle n s) rfl hp).trans (congrArg _ ?_)⟩
  unfold cycleOp
  rcases h with h | h <;> simp only [h]

theorem cycle_idle (hp : slotPowered s n.val = true) (h1 : (slot s n.val).st ≠ .ramp) (h2 : (slot s n.val).st ≠ .on) :
    exec (.cycle n) s = .next s := by
  refine (runs_of_guard (o := execCycle n s) rfl hp).trans (congrArg _ ?_)
  unfold cycleOp
  split
  · next hst => exact absurd hst h1
  · next hst => exact absurd hst h2
  · rfl

theorem mulePowerCommand_moves (hp : slotPowered s n.val = true) (g : DieId) (j : Fin 16) (src : PowerSource) (off : U16) (v : U64)
    (hn : n.val = 16 * g.val + j.val) : ∃ t, exec (.mulePowerCommand g src j off v) s = .next t
      ∧ (hasAuthority s g.val src = false → SlotMoves n.val { slot s n.val with
          ignored := if (slot s n.val).ignored = 255 then 255 else (slot s n.val).ignored + 1 } 0 s t)
      ∧ (hasAuthority s g.val src = true →
          let w : U32 := v.setWidth 32
          (off = 0x04 → SlotMoves n.val { slot s n.val with cfg := w &&& 0xFF3F03FF } 0 s t)
          ∧ (off = 0x08 → SlotMoves n.val { slot s n.val with ith := w &&& 0xFFFF007F } 0 s t)
          ∧ (off = 0x0C → SlotMoves n.val { slot s n.val with tmr := w &&& 0x00FF07FF } 0 s t)
          ∧ (off = 0x10 → SlotMoves n.val { slot s n.val with soa := w &&& 0x00FFFFFF } 0 s t)
          ∧ (off = 0x18 → SlotMoves n.val { slot s n.val with vth := v &&& 0x000003FF03FF03FF } 0 s t)) := by
  have hDie : dieOf n.val = g.val := by unfold dieOf; omega
  have hPow : (die s g.val).powered = true := by rw [← hDie]; exact hp
  refine ⟨powerCommand g.val src j.val off.toNat v s, runs_of_guard (o := execMulePowerCommand g src j off v s) rfl hPow,
    fun ha => ?_, fun ha => ?_⟩
  · unfold powerCommand
    simp only [ha, Bool.false_eq_true, if_false, ← hn]
    exact ((SlotStep.refl n.val s).mod (fun x => { x with ignored := if x.ignored = 255 then 255 else x.ignored + 1 })
      (fun _ _ => rfl)).moves
  · unfold powerCommand
    simp only [ha, if_true, ← hn]
    have hStart := SlotStep.refl n.val s
    refine ⟨?_, ?_, ?_, ?_, ?_⟩ <;> rintro rfl
    · exact (hStart.mod (fun x => { x with cfg := v.setWidth 32 &&& 0xFF3F03FF }) (fun _ _ => rfl)).moves
    · exact (hStart.mod (fun x => { x with ith := v.setWidth 32 &&& 0xFFFF007F }) (fun _ _ => rfl)).moves
    · exact (hStart.mod (fun x => { x with tmr := v.setWidth 32 &&& 0x00FF07FF }) (fun _ _ => rfl)).moves
    · exact (hStart.mod (fun x => { x with soa := v.setWidth 32 &&& 0x00FFFFFF }) (fun _ _ => rfl)).moves
    · exact (hStart.mod (fun x => { x with vth := v &&& 0x000003FF03FF03FF }) (fun _ _ => rfl)).moves

end

/-- Settles O7: EN, CYCLE and each plain register is one change of the slot. -/
theorem slotCommands : Obligations.SlotCommands := by
  intro s n hp
  exact ⟨slotEnSet_moves hp, slotEnClear_moves hp, cycle_moves hp, cycle_idle hp,
    fun g j src off v hn => mulePowerCommand_moves hp g j src off v hn⟩

end Sys2Proof.Machine
end

section
/-! PROOFS. Card slots, continued: the feeds and their ORing FETs, power-good and power-fail (R354 to R356, R363, R364, R374, R375). -/

namespace Sys2Proof.Machine

/-! ### Feeds (R354 to R356) -/

/-- A slot whose feed has become invalid: its FET is off, and the load moves to the other feed if that is valid. -/
def loadMoved (a : Bool) (x : CardSlot) : CardSlot :=
  if a then { x with orA := false, orB := x.orB || (x.orA && feedBOk x) }
  else { x with orB := false, orA := x.orA || (x.orB && feedAOk x) }

/-- A slot whose feed has become valid: it conducts where nothing else does. -/
def loadTaken (a : Bool) (x : CardSlot) : CardSlot :=
  if x.disconnected then x else if a then { x with orA := x.orA || !x.orB } else { x with orB := x.orB || !x.orA }

theorem loadMoved_same (a : Bool) (x : CardSlot) : (loadMoved a x).st = x.st ∧ anyFeed (loadMoved a x) = anyFeed x := by
  cases a <;> exact ⟨rfl, rfl⟩

theorem loadTaken_a (x : CardSlot) : loadTaken true x = { x with orA := if x.disconnected then x.orA else x.orA || !x.orB } := by
  unfold loadTaken
  by_cases hd : x.disconnected = true
  · rw [if_pos hd, if_pos hd]
  · rw [if_neg hd, if_neg hd]; rfl

theorem loadTaken_b (x : CardSlot) : loadTaken false x = { x with orB := if x.disconnected then x.orB else x.orB || !x.orA } := by
  unfold loadTaken
  by_cases hd : x.disconnected = true
  · rw [if_pos hd, if_pos hd]
  · rw [if_neg hd, if_neg hd]; rfl

theorem loadTaken_st (a : Bool) (x : CardSlot) : (loadTaken a x).st = x.st := by
  cases a
  · rw [loadTaken_b]
  · rw [loadTaken_a]

section
variable {n : Nat} {y : CardSlot} {m : U32} {s t : State}

theorem SlotStep.loadMoved (h : SlotStep n y m s t) (a : Bool) :
    SlotStep n (loadMoved a y) m s (modSlot n (fun x =>
      if a then { x with orA := false, orB := x.orB || (x.orA && feedBOk x) }
      else { x with orB := false, orA := x.orA || (x.orB && feedAOk x) }) t) :=
  h.mod (Machine.loadMoved a) (fun x c => by cases a <;> rfl)

theorem SlotStep.loadTaken (h : SlotStep n y m s t) (a : Bool) :
    SlotStep n (loadTaken a y) m s (modSlot n (fun x => if x.disconnected then x else if a then { x with orA := x.orA || !x.orB }
      else { x with orB := x.orB || !x.orA }) t) :=
  h.mod (Machine.loadTaken a) (fun x c => by cases a <;> simp only [loadTaken_a, loadTaken_b])

/-- A feed that became invalid is reported; a ramp with no feed left ends. -/
theorem feedLost_ends (h : SlotStep n y m s t) (hn : n < 64) (a : Bool) (hc : y.st = .ramp ∧ anyFeed y = false) :
    ∃ u, SlotStep n (offSlot (now s) .noFeed (loadMoved a y)) (m ||| BitVec.ofNat 32 (2 ^ if a then 7 else 8) ||| 8) s u
      ∧ feedLost n a t = coreGateOff n u := by
  have hEvent := (h.loadMoved a).event hn (if a then 7 else 8)
  refine ⟨_, hEvent.gateOff hn .noFeed, if_pos ?_⟩
  have hSt := hEvent.read CardSlot.st fun _ _ => rfl
  have hFeed := hEvent.read anyFeed fun _ _ => rfl
  rw [(loadMoved_same a y).1] at hSt
  rw [(loadMoved_same a y).2] at hFeed
  rw [hSt, hFeed, hc.1, hc.2]; rfl

theorem feedLost_holds (h : SlotStep n y m s t) (hn : n < 64) (a : Bool) (hc : ¬(y.st = .ramp ∧ anyFeed y = false)) :
    SlotStep n (loadMoved a y) (m ||| BitVec.ofNat 32 (2 ^ if a then 7 else 8)) s (feedLost n a t) := by
  have hEvent := (h.loadMoved a).event hn (if a then 7 else 8)
  have hSt := hEvent.read CardSlot.st fun _ _ => rfl
  have hFeed := hEvent.read anyFeed fun _ _ => rfl
  rw [(loadMoved_same a y).1] at hSt
  rw [(loadMoved_same a y).2] at hFeed
  have hOp : feedLost n a t = dieEvent n (if a then 7 else 8) (modSlot n (fun x =>
      if a then { x with orA := false, orB := x.orB || (x.orA && feedBOk x) }
      else { x with orB := false, orA := x.orA || (x.orB && feedAOk x) }) t) := by
    refine if_neg ?_
    rw [hSt, hFeed]
    simpa using hc
  rw [hOp]; exact hEvent

/-- A feed that became valid is reported and takes the load; a slot without a feed goes to the power-up check. -/
theorem feedBack_step (h : SlotStep n y m s t) (hn : n < 64) (a : Bool) :
    SlotStep n (if y.st = .noFeed then checkedSlot (!rampBlocked s n) (loadTaken a y) else loadTaken a y)
      (m ||| BitVec.ofNat 32 (2 ^ if a then 9 else 10)) s (feedBack n a t) := by
  have hEvent := (h.loadTaken a).event hn (if a then 9 else 10)
  have hSt := hEvent.read CardSlot.st fun _ _ => rfl
  rw [loadTaken_st] at hSt
  unfold feedBack
  dsimp only
  rw [hSt]
  by_cases hc : y.st = .noFeed
  · simp only [hc, beq_self_eq_true, if_true]; exact hEvent.check
  · simp only [hc, beq_iff_eq, if_false]; exact hEvent

end

/-- A change that leaves feed B's validity is followed on feed A alone. -/
theorem withFeeds_a {n : Nat} {g : CardSlot → CardSlot} {s : State} (hB : feedBOk (g (slot s n)) = feedBOk (slot s n)) :
    withFeeds n g s = if feedAOk (slot s n) && !feedAOk (g (slot s n)) then feedLost n true (modSlot n g s)
      else if !feedAOk (slot s n) && feedAOk (g (slot s n)) then feedBack n true (modSlot n g s) else modSlot n g s := by
  unfold withFeeds
  dsimp only
  rw [hB]
  simp

theorem withFeeds_b {n : Nat} {g : CardSlot → CardSlot} {s : State} (hA : feedAOk (g (slot s n)) = feedAOk (slot s n)) :
    withFeeds n g s = if feedBOk (slot s n) && !feedBOk (g (slot s n)) then feedLost n false (modSlot n g s)
      else if !feedBOk (slot s n) && feedBOk (g (slot s n)) then feedBack n false (modSlot n g s) else modSlot n g s := by
  unfold withFeeds
  dsimp only
  rw [hA]
  simp

section
variable {s : State} {n : SlotId}

theorem anyFeed_without_a (x : CardSlot) : anyFeed { x with feedA := false } = feedBOk x := by
  simp [anyFeed, feedAOk, feedBOk]

theorem anyFeed_without_b (x : CardSlot) : anyFeed { x with feedB := false } = feedAOk x := by
  simp [anyFeed, feedAOk, feedBOk]

theorem feedInvalid_a (hp : slotPowered s n.val = true) : ∃ u, SlotMoves n.val
      (let y := if feedAOk (slot s n.val) then { slot s n.val with
          feedA := false, orA := false, orB := (slot s n.val).orB || ((slot s n.val).orA && feedBOk (slot s n.val)) }
        else { slot s n.val with feedA := false }
       if feedAOk (slot s n.val) = true ∧ (slot s n.val).st = .ramp ∧ feedBOk (slot s n.val) = false then
         offSlot (now s) .noFeed y else y)
      (if feedAOk (slot s n.val) then (if (slot s n.val).st = .ramp ∧ feedBOk (slot s n.val) = false then 0x88 else 0x80) else 0) s u
    ∧ exec (.feedInvalid n .a) s
      = .next (if feedAOk (slot s n.val) = true ∧ (slot s n.val).st = .ramp ∧ feedBOk (slot s n.val) = false then
          coreGateOff n.val u else u) := by
  have hMod := (SlotStep.refl n.val s).mod (fun x => { x with feedA := false }) (fun _ _ => rfl)
  have hRun : exec (.feedInvalid n .a) s = _ := runs_of_guard (o := execFeedInvalid n .a s) rfl hp
  rw [hRun, withFeeds_a rfl]
  have hGone : feedAOk { slot s n.val with feedA := false } = false := by simp [feedAOk]
  cases hA : feedAOk (slot s n.val)
  · simp only [hGone, Bool.false_and, Bool.not_false, Bool.and_false, Bool.false_eq_true, if_false, false_and]
    exact ⟨_, hMod.moves, rfl⟩
  · simp only [hGone, Bool.not_false, Bool.and_self, if_true, true_and]
    by_cases hc : (slot s n.val).st = .ramp ∧ feedBOk (slot s n.val) = false
    · simp only [if_pos hc]
      obtain ⟨u, hu, hOp⟩ := feedLost_ends hMod n.isLt true (by rw [anyFeed_without_a]; exact hc)
      exact ⟨u, hu.as rfl rfl, congrArg _ hOp⟩
    · simp only [if_neg hc]
      exact ⟨_, (feedLost_holds hMod n.isLt true (by rw [anyFeed_without_a]; exact hc)).as rfl rfl, rfl⟩

theorem feedInvalid_b (hp : slotPowered s n.val = true) : ∃ u, SlotMoves n.val
      (let y := if feedBOk (slot s n.val) then { slot s n.val with
          feedB := false, orB := false, orA := (slot s n.val).orA || ((slot s n.val).orB && feedAOk (slot s n.val)) }
        else { slot s n.val with feedB := false }
       if feedBOk (slot s n.val) = true ∧ (slot s n.val).st = .ramp ∧ feedAOk (slot s n.val) = false then
         offSlot (now s) .noFeed y else y)
      (if feedBOk (slot s n.val) then (if (slot s n.val).st = .ramp ∧ feedAOk (slot s n.val) = false then 0x108 else 0x100) else 0) s u
    ∧ exec (.feedInvalid n .b) s
      = .next (if feedBOk (slot s n.val) = true ∧ (slot s n.val).st = .ramp ∧ feedAOk (slot s n.val) = false then
          coreGateOff n.val u else u) := by
  have hMod := (SlotStep.refl n.val s).mod (fun x => { x with feedB := false }) (fun _ _ => rfl)
  have hRun : exec (.feedInvalid n .b) s = _ := runs_of_guard (o := execFeedInvalid n .b s) rfl hp
  rw [hRun, withFeeds_b rfl]
  have hGone : feedBOk { slot s n.val with feedB := false } = false := by simp [feedBOk]
  cases hB : feedBOk (slot s n.val)
  · simp only [hGone, Bool.false_and, Bool.not_false, Bool.and_false, Bool.false_eq_true, if_false, false_and]
    exact ⟨_, hMod.moves, rfl⟩
  · simp only [hGone, Bool.not_false, Bool.and_self, if_true, true_and]
    by_cases hc : (slot s n.val).st = .ramp ∧ feedAOk (slot s n.val) = false
    · simp only [if_pos hc]
      obtain ⟨u, hu, hOp⟩ := feedLost_ends hMod n.isLt false (by rw [anyFeed_without_b]; exact hc)
      exact ⟨u, hu.as rfl rfl, congrArg _ hOp⟩
    · simp only [if_neg hc]
      exact ⟨_, (feedLost_holds hMod n.isLt false (by rw [anyFeed_without_b]; exact hc)).as rfl rfl, rfl⟩

theorem feedAOk_gained (x : CardSlot) : (feedAOk x = false ∧ feedAOk { x with feedA := true } = true)
    ↔ (x.feedA = false ∧ x.feedAOff = false) := by
  unfold feedAOk; cases x.feedA <;> cases x.feedAOff <;> simp

theorem feedBOk_gained (x : CardSlot) : (feedBOk x = false ∧ feedBOk { x with feedB := true } = true)
    ↔ (x.feedB = false ∧ x.feedBOff = false) := by
  unfold feedBOk; cases x.feedB <;> cases x.feedBOff <;> simp

theorem feedValid_a (hp : slotPowered s n.val = true) : ∃ t, exec (.feedValid n .a) s = .next t ∧ SlotMoves n.val
    (let y := { slot s n.val with feedA := true }
     if feedAOk (slot s n.val) = false ∧ feedAOk y = true then
       let z := { y with orA := if (slot s n.val).disconnected then (slot s n.val).orA else (slot s n.val).orA || !(slot s n.val).orB }
       if (slot s n.val).st = .noFeed then checkedSlot (!rampBlocked s n.val) z else z
     else y) (if (slot s n.val).feedA = false ∧ (slot s n.val).feedAOff = false then 0x200 else 0) s t := by
  have hMod := (SlotStep.refl n.val s).mod (fun x => { x with feedA := true }) (fun _ _ => rfl)
  have hRun : exec (.feedValid n .a) s = _ := runs_of_guard (o := execFeedValid n .a s) rfl hp
  refine ⟨_, hRun, ?_⟩
  rw [withFeeds_a rfl]
  have hLost : (feedAOk (slot s n.val) && !feedAOk { slot s n.val with feedA := true }) = false := by
    unfold feedAOk; cases (slot s n.val).feedA <;> cases (slot s n.val).feedAOff <;> rfl
  by_cases hc : (slot s n.val).feedA = false ∧ (slot s n.val).feedAOff = false
  · have hSame := (feedAOk_gained _).2 hc
    have hGained : (!feedAOk (slot s n.val) && feedAOk { slot s n.val with feedA := true }) = true := by simpa using hSame
    have hBack := feedBack_step hMod n.isLt true
    rw [loadTaken_a] at hBack
    simp only [if_pos hSame, if_pos hc, hLost, hGained, Bool.false_eq_true, if_false, if_true]
    exact hBack.as rfl rfl
  · have hSame := mt (feedAOk_gained _).1 hc
    have hGained : (!feedAOk (slot s n.val) && feedAOk { slot s n.val with feedA := true }) = false := by simpa using hSame
    simp only [if_neg hSame, if_neg hc, hLost, hGained, Bool.false_eq_true, if_false]
    exact hMod.moves

theorem feedValid_b (hp : slotPowered s n.val = true) : ∃ t, exec (.feedValid n .b) s = .next t ∧ SlotMoves n.val
    (let y := { slot s n.val with feedB := true }
     if feedBOk (slot s n.val) = false ∧ feedBOk y = true then
       let z := { y with orB := if (slot s n.val).disconnected then (slot s n.val).orB else (slot s n.val).orB || !(slot s n.val).orA }
       if (slot s n.val).st = .noFeed then checkedSlot (!rampBlocked s n.val) z else z
     else y) (if (slot s n.val).feedB = false ∧ (slot s n.val).feedBOff = false then 0x400 else 0) s t := by
  have hMod := (SlotStep.refl n.val s).mod (fun x => { x with feedB := true }) (fun _ _ => rfl)
  have hRun : exec (.feedValid n .b) s = _ := runs_of_guard (o := execFeedValid n .b s) rfl hp
  refine ⟨_, hRun, ?_⟩
  rw [withFeeds_b rfl]
  have hLost : (feedBOk (slot s n.val) && !feedBOk { slot s n.val with feedB := true }) = false := by
    unfold feedBOk; cases (slot s n.val).feedB <;> cases (slot s n.val).feedBOff <;> rfl
  by_cases hc : (slot s n.val).feedB = false ∧ (slot s n.val).feedBOff = false
  · have hSame := (feedBOk_gained _).2 hc
    have hGained : (!feedBOk (slot s n.val) && feedBOk { slot s n.val with feedB := true }) = true := by simpa using hSame
    have hBack := feedBack_step hMod n.isLt false
    rw [loadTaken_b] at hBack
    simp only [if_pos hSame, if_pos hc, hLost, hGained, Bool.false_eq_true, if_false, if_true]
    exact hBack.as rfl rfl
  · have hSame := mt (feedBOk_gained _).1 hc
    have hGained : (!feedBOk (slot s n.val) && feedBOk { slot s n.val with feedB := true }) = false := by simpa using hSame
    simp only [if_neg hSame, if_neg hc, hLost, hGained, Bool.false_eq_true, if_false]
    exact hMod.moves

theorem oringReverse_a (hp : slotPowered s n.val = true) : ∃ t, exec (.oringReverse n .a) s = .next t
    ∧ SlotMoves n.val { slot s n.val with orA := false } (if (slot s n.val).orA then 0x800 else 0) s t := by
  refine ⟨_, runs_of_guard (o := execOringReverse n .a s) rfl hp, ?_⟩
  cases hOr : (slot s n.val).orA
  · simp only [Bool.false_eq_true, if_false]
    exact (SlotStep.refl n.val s).as (by rw [← hOr]) rfl
  · simp only [if_true]
    exact (((SlotStep.refl n.val s).mod (fun x => { x with orA := false }) (fun _ _ => rfl)).event n.isLt 11).moves

theorem oringReverse_b (hp : slotPowered s n.val = true) : ∃ t, exec (.oringReverse n .b) s = .next t
    ∧ SlotMoves n.val { slot s n.val with orB := false } (if (slot s n.val).orB then 0x1000 else 0) s t := by
  refine ⟨_, runs_of_guard (o := execOringReverse n .b s) rfl hp, ?_⟩
  cases hOr : (slot s n.val).orB
  · simp only [Bool.false_eq_true, if_false]
    exact (SlotStep.refl n.val s).as (by rw [← hOr]) rfl
  · simp only [if_true]
    exact (((SlotStep.refl n.val s).mod (fun x => { x with orB := false }) (fun _ _ => rfl)).event n.isLt 12).moves

theorem oringForward_moves (hp : slotPowered s n.val = true) (hd : (slot s n.val).disconnected = false) :
    (∃ t, exec (.oringForward n .a) s = .next t
      ∧ SlotMoves n.val { slot s n.val with orA := (slot s n.val).orA || feedAOk (slot s n.val) } 0 s t)
    ∧ ∃ t, exec (.oringForward n .b) s = .next t
      ∧ SlotMoves n.val { slot s n.val with orB := (slot s n.val).orB || feedBOk (slot s n.val) } 0 s t :=
  ⟨⟨_, runs_of_guard (o := execOringForward n .a s) rfl (by simp [hp, hd]),
      ((SlotStep.refl n.val s).mod (fun x => { x with orA := x.orA || feedAOk x }) (fun _ _ => rfl)).moves⟩,
    ⟨_, runs_of_guard (o := execOringForward n .b s) rfl (by simp [hp, hd]),
      ((SlotStep.refl n.val s).mod (fun x => { x with orB := x.orB || feedBOk x }) (fun _ _ => rfl)).moves⟩⟩

end

/-! ### Power-good and power-fail (R363, R364, R374, R375) -/

/-- A slot whose power-good is declared. -/
def goodSlot (x : CardSlot) : CardSlot :=
  { x with st := .on, pg := true, gateRise := false, faultTimer := 0, pfw := x.cause || !anyFeed x }

section
variable {s t : State} {n : SlotId} {y : CardSlot} {m : U32}

/-- A change of a port leaves what the slot has become. -/
theorem SlotStep.modPort (h : SlotStep n.val y m s t) (p : Nat) (g : Port → Port) : SlotStep n.val y m s (modPort p g t) :=
  ⟨h.moves, h.dies.trans (dieSame_of rfl rfl rfl rfl), h.straps, h.pair⟩

theorem SlotStep.endLastGasp (h : SlotStep n.val y m s t) : SlotStep n.val y m s (endLastGasp n.val t) := h.modPort _ _

theorem SlotStep.coreGood (h : SlotStep n.val y m s t) (on : Bool) : SlotStep n.val y m s (coreGood n.val on t) := by
  unfold Machine.coreGood
  split
  · exact h.modPort _ _
  · exact h

theorem declareGood_moves (s : State) (n : SlotId) : SlotMoves n.val (goodSlot (slot s n.val)) 4 s (declareGood n.val s)
    ∧ (hears s (dieOf n.val) = true → .muleEvent n.val 2 ∈ (declareGood n.val s).out) := by
  have hEvent := ((SlotStep.refl n.val s).mod goodSlot (fun _ _ => rfl)).event n.isLt 2
  exact ⟨(hEvent.tell 2).moves, hEvent.told 2⟩

theorem rampEnd_good (hp : slotPowered s n.val = true) (hst : (slot s n.val).st = .ramp)
    (hk : cfgFetchk (slot s n.val) % 2 = 0) : ∃ t, exec (.rampEnd n) s = .next t ∧ SlotMoves n.val (goodSlot (slot s n.val)) 4 s t
      ∧ (hears s (dieOf n.val) = true → .muleEvent n.val 2 ∈ t.out) := by
  refine ⟨declareGood n.val s, (runs_of_guard (o := execRampEnd n s) rfl (by simp [hp, hst])).trans ?_, declareGood_moves s n⟩
  rw [if_neg (by omega)]

theorem rampEnd_checked (hp : slotPowered s n.val = true) (hst : (slot s n.val).st = .ramp)
    (hk : cfgFetchk (slot s n.val) % 2 = 1) : ∃ t, exec (.rampEnd n) s = .next t
      ∧ SlotMoves n.val { slot s n.val with gateRise := true } 0 s t := by
  refine ⟨_, (runs_of_guard (o := execRampEnd n s) rfl (by simp [hp, hst])).trans (congrArg _ (if_pos hk)), ?_⟩
  exact ((SlotStep.refl n.val s).mod (fun x => { x with gateRise := true }) (fun _ _ => rfl)).moves

theorem powerGood_moves (hp : slotPowered s n.val = true) (hst : (slot s n.val).st = .ramp)
    (hr : (slot s n.val).gateRise = true) : ∃ t, exec (.powerGood n) s = .next t ∧ SlotMoves n.val (goodSlot (slot s n.val)) 4 s t
      ∧ (hears s (dieOf n.val) = true → .muleEvent n.val 2 ∈ t.out) :=
  ⟨_, runs_of_guard (o := execPowerGood n s) rfl (by simp [hp, hst, hr]), declareGood_moves s n⟩

/-- The core die's record of a port's power-good. -/
def recordGood (on : Bool) (p : Port) : Port :=
  { p with
    pg := on
    attach := if p.attach == .debounce || p.attach == .idle then
        (if on && p.admin && !p.held && !p.enabled then .debounce else .idle)
      else p.attach }

theorem coreGood_eq (n : Nat) (on : Bool) (s : State) :
    coreGood n on s = if hears s (dieOf n) then modPort n (recordGood on) s else s := rfl

theorem recordGood_lost (p : Port) : (recordGood false p).attach ≠ .debounce := by
  unfold recordGood
  dsimp only [Bool.false_and]
  split
  · simp
  · next h => intro hd; simp [hd] at h

theorem pgLost_moves (hp : slotPowered s n.val = true) (hst : (slot s n.val).st = .on) (hg : (slot s n.val).pg = true) :
    ∃ t, exec (.pgLost n) s = .next t ∧ SlotMoves n.val { slot s n.val with pg := false, pgLoss := true } 0 s t
      ∧ (port t n.val).enabled = (port s n.val).enabled
      ∧ (hears s (dieOf n.val) = true →
          (port t n.val).pg = false ∧ (port t n.val).lastGasp = false ∧ (port t n.val).attach ≠ .debounce)
      ∧ OtherPorts n.val s t := by
  have hMod := (SlotStep.refl n.val s).mod (fun x => { x with pg := false, pgLoss := true }) (fun _ _ => rfl)
  have hGood := hMod.coreGood false
  refine ⟨_, runs_of_guard (o := execPgLost n s) rfl (by simp [hp, hst, hg]), ?_⟩
  dsimp only
  rw [hGood.hears_eq, coreGood_eq, hMod.hears_eq]
  rw [coreGood_eq, hMod.hears_eq] at hGood
  cases hHears : hears s (dieOf n.val)
  · simp only [hHears, Bool.false_eq_true, if_false] at hGood ⊢
    exact ⟨hGood.moves, rfl, fun h => h.elim, fun _ _ => rfl⟩
  · simp only [hHears, if_true] at hGood ⊢
    unfold Machine.endLastGasp
    refine ⟨(hGood.modPort _ _).moves, ?_, fun _ => ?_, fun k hk => ?_⟩
    · rw [modPort_port, modPort_port]; rfl
    · rw [modPort_port, modPort_port]; exact ⟨rfl, rfl, recordGood_lost _⟩
    · rw [modPort_others _ _ _ k hk, modPort_others _ _ _ k hk]; rfl

theorem powerGoodReturn_moves (hp : slotPowered s n.val = true) (hl : (slot s n.val).pgLoss = true) :
    ∃ t, exec (.powerGoodReturn n) s = .next t ∧ SlotMoves n.val { slot s n.val with pg := true, pgLoss := false } 0 s t
      ∧ (hears s (dieOf n.val) = true → (port t n.val).pg = true) ∧ OtherPorts n.val s t := by
  have hMod := (SlotStep.refl n.val s).mod (fun x => { x with pg := true, pgLoss := false }) (fun _ _ => rfl)
  refine ⟨_, runs_of_guard (o := execPowerGoodReturn n s) rfl (by simp [hp, hl]), (hMod.coreGood true).moves, ?_⟩
  rw [coreGood_eq, hMod.hears_eq]
  cases hears s (dieOf n.val)
  · exact ⟨fun h => absurd h (by simp), fun _ _ => rfl⟩
  · refine ⟨fun _ => ?_, fun k hk => ?_⟩
    · rw [if_pos rfl, modPort_port]; rfl
    · rw [if_pos rfl, modPort_others _ _ _ k hk]; rfl

theorem pfwAssert_moves (hp : slotPowered s n.val = true) (c : PfwCause) : ∃ t, exec (.pfwAssert n c) s = .next t
    ∧ ((slot s n.val).st = .on → (slot s n.val).pfw = false →
        SlotMoves n.val { slot s n.val with cause := true, pfw := true } 0x20 s t
        ∧ (hears s (dieOf n.val) = true → .muleEvent n.val 5 ∈ t.out))
    ∧ (¬((slot s n.val).st = .on ∧ (slot s n.val).pfw = false) → SlotMoves n.val { slot s n.val with cause := true } 0 s t) := by
  have hCause := (SlotStep.refl n.val s).mod (fun x => { x with cause := true }) (fun _ _ => rfl)
  refine ⟨_, runs_of_guard (o := execPfwAssert n c s) rfl hp, fun hst hw => ?_, fun hc => ?_⟩
  · have hNew : ((slot s n.val).st == .on && !(slot s n.val).pfw) = true := by simp [hst, hw]
    simp only [if_pos hNew]
    have hEvent := (hCause.mod (fun x => { x with pfw := true }) (fun _ _ => rfl)).event n.isLt 5
    exact ⟨(hEvent.tell 5).moves, hEvent.told 5⟩
  · have hNot : ((slot s n.val).st == .on && !(slot s n.val).pfw) = false := by simpa using hc
    simp only [hNot, Bool.false_eq_true, if_false]
    exact hCause.moves

theorem port_of_topo {s t : State} (h : t.topo = s.topo) (k : Nat) : port t k = port s k := by unfold port; rw [h]

theorem pfwClear_moves (hp : slotPowered s n.val = true) : ∃ t, exec (.pfwClear n) s = .next t
    ∧ ((slot s n.val).st = .on → (slot s n.val).pfw = true →
        SlotMoves n.val { slot s n.val with cause := false, pfw := false } 0x40 s t
        ∧ (hears s (dieOf n.val) = true → (port t n.val).lastGasp = false))
    ∧ (¬((slot s n.val).st = .on ∧ (slot s n.val).pfw = true) → SlotMoves n.val { slot s n.val with cause := false } 0 s t)
    ∧ OtherPorts n.val s t := by
  have hCause := (SlotStep.refl n.val s).mod (fun x => { x with cause := false }) (fun _ _ => rfl)
  have hEvent := (hCause.mod (fun x => { x with pfw := false }) (fun _ _ => rfl)).event n.isLt 6
  have hTopo : ∀ u, (dieEvent n.val 6 u).topo = u.topo := fun u =>
    dieEvent_keeps (bl := .topo) n.val 6 (Keeps.refl .topo u) (by decide)
  refine ⟨_, runs_of_guard (o := execPfwClear n s) rfl hp, ?_⟩
  dsimp only
  rw [hEvent.hears_eq]
  by_cases hc : (slot s n.val).st = .on ∧ (slot s n.val).pfw = true
  · have hWas : ((slot s n.val).st == .on && (slot s n.val).pfw) = true := by simpa using hc
    simp only [if_pos hWas]
    cases hears s (dieOf n.val)
    · exact ⟨fun _ _ => ⟨hEvent.moves, fun h => absurd h (by simp)⟩, fun h => absurd hc h, fun k _ => port_of_topo (hTopo _) k⟩
    · refine ⟨fun _ _ => ⟨hEvent.endLastGasp.moves, fun _ => ?_⟩, fun h => absurd hc h, fun k hk => ?_⟩
      · rw [if_pos rfl, Machine.endLastGasp, modPort_port]
      · rw [if_pos rfl, Machine.endLastGasp, modPort_others _ _ _ k hk]; exact port_of_topo (hTopo _) k
  · have hNot : ((slot s n.val).st == .on && (slot s n.val).pfw) = false := by simpa using hc
    simp only [hNot, hc, Bool.false_eq_true, if_false, not_false_eq_true, forall_const]
    exact ⟨fun hst hw => absurd ⟨hst, hw⟩ hc, hCause.moves, fun _ _ => rfl⟩

end

/-- Settles O8: the feeds, each seen through what becomes of its validity, then power-good and power-fail. -/
theorem slotFeedsAndPower : Obligations.SlotFeedsAndPower :=
  ⟨fun _ _ hp => ⟨feedInvalid_a hp, feedInvalid_b hp, feedValid_a hp, feedValid_b hp, oringReverse_a hp, oringReverse_b hp,
      oringForward_moves hp⟩,
    fun _ _ hp => ⟨rampEnd_good hp, rampEnd_checked hp, powerGood_moves hp, pgLost_moves hp, powerGoodReturn_moves hp,
      pfwAssert_moves hp, pfwClear_moves hp⟩⟩

end Sys2Proof.Machine
end

section
/-! PROOFS. Card slots, continued: telemetry (R376, R485), and the mule dies as a whole (R19 to R21, R447, R500). -/

namespace Sys2Proof.Machine

/-! ### Telemetry (R376, R485) -/

section
variable {s : State} {n : SlotId}

/-- A conversion changes its own slot alone, also where its IOUT does not fit. -/
theorem convert_others (va vb vbus vout isense : BitVec 12) : OtherSlots n.val s (convert n.val va vb vbus vout isense s) := by
  intro k hk
  unfold convert
  dsimp only
  rw [slot_modSlot, if_neg hk]
  split <;> rfl

theorem convert_slot (va vb vbus vout isense : BitVec 12) (hf : isense.toNat * 250 / rsense (slot s n.val) < 65536) :
    slot (convert n.val va vb vbus vout isense s) n.val = { slot s n.val with
      tel := {
        v := BitVec.ofNat 64 (vout.toNat + vbus.toNat * 2 ^ 16 + va.toNat * 2 ^ 32 + vb.toNat * 2 ^ 48)
        i := BitVec.ofNat 64 (isense.toNat + isense.toNat * 250 / rsense (slot s n.val) * 2 ^ 16 + epoch32 s 0 * 2 ^ 32)
        energy := (slot s n.val).tel.energy + BitVec.ofNat 64 (if decide ((slot s n.val).st = .on) then
          vout.toNat * (isense.toNat * 250 / rsense (slot s n.val)) * s.tb.flen / 10000000 else 0)
        peak := BitVec.ofNat 64 (max (isense.toNat * 250 / rsense (slot s n.val)) (field (slot s n.val).tel.peak 0 16)
          + (if decide ((slot s n.val).st = .on) then min vbus.toNat (field (slot s n.val).tel.peak 16 12)
             else field (slot s n.val).tel.peak 16 12) * 2 ^ 16) } } := by
  have hFits : ioutOf (slot s n.val) isense.toNat < 65536 := hf
  have hOn : ((slot s n.val).st == .on) = decide ((slot s n.val).st = .on) := rfl
  unfold convert
  dsimp only
  rw [if_pos hFits, slot_modSlot, if_pos rfl, hOn]
  rfl

theorem telRestart_slot : OtherSlots n.val s (telRestart n.val s)
    ∧ slot (telRestart n.val s) n.val = { slot s n.val with tel := { (slot s n.val).tel with peak := 0x0FFF0000 } } := by
  have hSlot : ∀ k, slot (telRestart n.val s) k
      = slot (modSlot n.val (fun x => { x with tel := { x.tel with peak := 0x0FFF0000 } }) s) k := fun _ => rfl
  exact ⟨fun k hk => by rw [hSlot, slot_modSlot, if_neg hk], by rw [hSlot, slot_modSlot, if_pos rfl]⟩

theorem telemetryReport_stores (hh : hears s (dieOf n.val) = true) : ∃ t, exec (.telemetryReport n) s = .next t
    ∧ (∀ k, slot t k = slot s k) ∧ tget {} t.slots.tel n.val = (slot s n.val).tel
    ∧ ∀ k, k ≠ n.val → tget ({} : Telemetry) t.slots.tel k = tget {} s.slots.tel k :=
  ⟨_, runs_of_guard (o := execTelemetryReport n s) rfl hh, fun _ => rfl, tget_tput_same _ _ _ _,
    fun k hk => tget_tput_ne _ _ _ k _ hk⟩

end

/-- Settles O9: a conversion and RESTART write the telemetry of one slot, a report copies it. -/
theorem slotTelemetry : Obligations.SlotTelemetry := fun s n =>
  ⟨fun hp va vb vbus vout isense =>
      ⟨_, runs_of_guard (o := execTelemetryConversion n va vb vbus vout isense s) rfl hp, convert_others va vb vbus vout isense,
        convert_slot va vb vbus vout isense⟩,
    fun hp => ⟨_, runs_of_guard (o := execTelPeakRestart n s) rfl hp, telRestart_slot⟩,
    telemetryReport_stores⟩

/-! ### Dies (R19 to R21, R447, R500) -/

/-- What one pass over the entries from `b` on makes of each. -/
theorem read_each_range {α : Type} (r : State → Nat → α) (F : Nat → State → State) (f : α → α) (b : Nat)
    (hF : ∀ j s k, r (F j s) k = if k = b + j then f (r s k) else r s k) (m : Nat) (s : State) (k : Nat) :
    r (each (List.range m) F s) k = if b ≤ k ∧ k < b + m then f (r s k) else r s k := by
  induction m with
  | zero => rw [if_neg (by omega)]; rfl
  | succ m ih =>
    have hStep : each (List.range (m + 1)) F s = F m (each (List.range m) F s) := by
      unfold each; rw [List.range_succ, List.foldl_append]; rfl
    rw [hStep, hF, ih]
    by_cases hk : k = b + m
    · rw [if_pos hk, if_neg (by omega), if_pos (by omega)]
    · rw [if_neg hk]
      by_cases hIn : b ≤ k ∧ k < b + m
      · rw [if_pos hIn, if_pos (by omega)]
      · rw [if_neg hIn, if_neg (by omega)]

/-- The sixteen slots of a die. -/
theorem die_slots (g k : Nat) : (16 * g ≤ k ∧ k < 16 * g + 16) ↔ k / 16 = g := by omega

/-- Every die that was not parked is not parked. -/
def StaysOut (s t : State) : Prop := ∀ g, (die s g).parked = false → (die t g).parked = false

theorem StaysOut.refl (s : State) : StaysOut s s := fun _ h => h
theorem StaysOut.trans {s t u : State} (h : StaysOut s t) (k : StaysOut t u) : StaysOut s u := fun g hg => k g (h g hg)
theorem StaysOut.of_dieSame {s t : State} (h : DieSame s t) : StaysOut s t := fun g hg => (h.1 g).1.trans hg

theorem StaysOut.each {α : Type} (l : List α) (f : α → State → State) (hf : ∀ x s, StaysOut s (f x s)) (s : State) :
    StaysOut s (each l f s) := by
  unfold Machine.each
  induction l generalizing s with
  | nil => exact .refl s
  | cons x l ih => exact (hf x s).trans (ih (f x s))

theorem coreGateOff_staysOut (n : Nat) (s : State) : StaysOut s (coreGateOff n s) := by
  have hSlots : (coreGateOff n s).slots = s.slots := coreGateOff_keeps (bl := .slots) n (Keeps.refl .slots s) (by decide)
  intro g hg
  unfold die; rw [hSlots]; exact hg

theorem reportKept_staysOut (n : Nat) (s : State) : StaysOut s (reportKept n s) := by
  unfold reportKept
  dsimp only
  have hReports := (StaysOut.of_dieSame (modSlot_dieSame n (fun x => { x with kept := 0 }) s)).trans
    (StaysOut.each ((List.range 13).filter (bit (slot s n).kept ·))
      (fun b s => if b = 1 ∨ b = 2 ∨ b = 4 ∨ b = 5 then tellCore n b (dieEvent n b s) else dieEvent n b s)
      (fun b u => by
        split
        · exact (StaysOut.of_dieSame (dieEvent_dieSame n b u)).trans (.of_dieSame (tellCore_dieSame n b _))
        · exact .of_dieSame (dieEvent_dieSame n b u)) _)
  split
  · exact hReports.trans (coreGateOff_staysOut n _)
  · exact hReports

theorem recheck_staysOut (g : Nat) (s : State) : StaysOut s (recheck g s) :=
  StaysOut.each _ _ (fun j u => by
    dsimp only
    split
    · exact .of_dieSame (powerCheck_dieSame _ u)
    · exact .refl u) s

/-- A keep-alive takes its die out of park (R447). -/
theorem unpark_awake (g : Nat) (s : State) : (die (unpark g s) g).parked = false := by
  unfold unpark
  split
  · refine (recheck_staysOut g _) g ((StaysOut.each _ _ (fun j u => reportKept_staysOut _ u) _) g ?_)
    rw [die_modDie, if_pos rfl]
  · next h => simpa using h

section
variable {s : State} {g : DieId}

theorem keepalive_guard (hl : live s = true) (hw : s.pwr.st ≠ .watch) : (live s && s.pwr.st != .watch) = true := by
  simp [hl, hw]

theorem muleKeepalive_unparked (hl : live s = true) (hw : s.pwr.st ≠ .watch) (hf : bit s.err.muleFailed g.val = false)
    (hd : (die s g.val).parked = false) : exec (.muleKeepalive g) s = .next { s with out := s.out ++ [.keepalive g.val] } := by
  refine (runs_of_guard (o := execMuleKeepalive g s) rfl (keepalive_guard hl hw)).trans (congrArg _ ?_)
  have hd' : ¬ (die (emit (.keepalive g.val) s) g.val).parked = true := by rw [die_of_emit, hd]; decide
  unfold keepAlive unpark
  rw [if_neg (by simp [hf]), if_neg hd']
  rfl

theorem muleKeepalive_parked (hl : live s = true) (hw : s.pwr.st ≠ .watch) (hf : bit s.err.muleFailed g.val = false) :
    ∃ t, exec (.muleKeepalive g) s = .next t ∧ (die t g.val).parked = false := by
  refine ⟨_, runs_of_guard (o := execMuleKeepalive g s) rfl (keepalive_guard hl hw), ?_⟩
  unfold keepAlive
  rw [if_neg (by simp [hf])]
  exact unpark_awake _ _

theorem quietLegacy_slots (g : Nat) (s : State) : (quietLegacy g s).slots = s.slots :=
  quietLegacy_keeps (bl := .slots) g (Keeps.refl .slots s) (by decide)

theorem slot_after_modDie (g : Nat) (h : Die → Die) (s : State) (k : Nat) : slot (modDie g h s) k = slot s k := rfl

theorem coreLostDeclare_does (hp : (die s g.val).powered = true) (hk : (die s g.val).parked = false) :
    ∃ t, exec (.coreLostDeclare g) s = .next t ∧ die t g.val = { die s g.val with coreLost := true }
      ∧ (∀ k, k ≠ g.val → die t k = die s k) ∧ ∀ k, slot t k = slot s k := by
  have hDie : ∀ k, die (quietLegacy g.val s) k = die s k := fun k => by unfold die; rw [quietLegacy_slots]
  refine ⟨_, runs_of_guard (o := execCoreLostDeclare g s) rfl (by simp [hp, hk]), ?_, fun k h => ?_, fun k => ?_⟩
  · rw [die_modDie, if_pos rfl, hDie]
  · rw [die_modDie, if_neg h, hDie]
  · rw [slot_after_modDie]; unfold slot; rw [quietLegacy_slots]

theorem handOver_does (hh : hears s g.val = true) (ha : (die s g.val).authPctl = false) :
    ∃ t, exec (.handOverCommand g) s = .next t ∧ die t g.val = { die s g.val with authPctl := true }
      ∧ (∀ k, k ≠ g.val → die t k = die s k) ∧ (∀ k, slot t k = slot s k) ∧ t.out = s.out ++ [.handOver g.val] := by
  have hOp : handOver g.val s = modDie g.val (fun d => { d with authPctl := true }) (emit (.handOver g.val) s) := by
    unfold handOver; rw [if_pos (by simp [hh, ha])]
  refine ⟨handOver g.val s, rfl, ?_⟩
  rw [hOp]
  refine ⟨?_, fun k h => ?_, fun _ => rfl, rfl⟩
  · rw [die_modDie, if_pos rfl]; rfl
  · rw [die_modDie, if_neg h]; rfl

theorem die_each (F : Nat → State → State) (hF : ∀ j u k, die (F j u) k = die u k) (l : List Nat) (s : State) (k : Nat) :
    die (each l F s) k = die s k := by
  unfold each
  induction l generalizing s with
  | nil => rfl
  | cons j l ih => exact (ih (F j s)).trans (hF j s k)

theorem vmuleLoss_does (s : State) (g : DieId) : ∃ t, exec (.vmuleLoss g) s = .next t
    ∧ die t g.val = { die s g.val with powered := false }
    ∧ ∀ k, slot t k = if k / 16 = g.val then
        { slot s k with gate := false, pg := false, orA := false, orB := false, pfw := false } else slot s k := by
  refine ⟨_, rfl, ?_, fun k => ?_⟩
  · refine (die_each _ (fun j u k => ?_) _ _ _).trans ?_
    · rfl
    · rw [die_modDie, if_pos rfl]
  · rw [read_each_range slot _ (fun x => { x with gate := false, pg := false, orA := false, orB := false, pfw := false })
      (16 * g.val) (fun j u k => by
        rw [slot_modSlot]
        split
        · next h => rw [h]
        · rfl)]
    simp only [die_slots]; rfl

/-- The slot of a die that has come up (R500). -/
def slotRisen (x : CardSlot) : CardSlot :=
  { present := x.present, st := if x.present then .debounce else .empty, minOff := true, discharge := true }

/-- What the rise of VMULE does to one slot of the die. -/
def riseSlot (g : DieId) (j : Nat) (s : State) : State :=
  let n := 16 * g.val + j
  let s := modSlot n slotRisen s
  { s with
    eic := { s.eic with evt := tdel s.eic.evt (64 + n), slotEn := tdel s.eic.slotEn n }
    slots := { s.slots with tel := tdel s.slots.tel n } }

theorem slot_riseSlot (g : DieId) (j : Nat) (s : State) (k : Nat) :
    slot (riseSlot g j s) k = if k = 16 * g.val + j then slotRisen (slot s k) else slot s k := by
  refine (slot_modSlot (16 * g.val + j) k slotRisen s).trans ?_
  split
  · next h => rw [h]
  · rfl

theorem evtWord_riseSlot (g : DieId) (j : Nat) (s : State) (k : Nat) :
    evtWord (riseSlot g j s) (64 + k) = if k = 16 * g.val + j then 0 else evtWord s (64 + k) := by
  refine (tget_tdel 0 s.eic.evt (64 + (16 * g.val + j)) (64 + k)).trans ?_
  by_cases h : k = 16 * g.val + j
  · rw [if_pos h, if_pos (by rw [h])]
  · rw [if_neg h, if_neg (by omega)]; rfl

theorem slotEn_riseSlot (g : DieId) (j : Nat) (s : State) (k : Nat) :
    slotEn (riseSlot g j s) k = if k = 16 * g.val + j then 0x1FFF else slotEn s k :=
  tget_tdel 0x1FFF s.eic.slotEn (16 * g.val + j) k

theorem vmuleRise_does (s : State) (g : DieId) : ∃ t, exec (.vmuleRise g) s = .next t ∧ die t g.val = {}
    ∧ (∀ k, slot t k = if k / 16 = g.val then slotRisen (slot s k) else slot s k)
    ∧ ∀ k, k / 16 = g.val → evtWord t (64 + k) = 0 ∧ slotEn t k = 0x1FFF := by
  refine ⟨each (List.range 16) (riseSlot g) (modDie g.val (fun _ => {}) s), rfl, ?_, fun k => ?_, fun k hk => ⟨?_, ?_⟩⟩
  · refine (die_each _ (fun j u k => ?_) _ _ _).trans ?_
    · rfl
    · rw [die_modDie, if_pos rfl]
  · rw [read_each_range slot _ slotRisen (16 * g.val) (slot_riseSlot g)]
    simp only [die_slots]; rfl
  · rw [read_each_range (fun s k => evtWord s (64 + k)) _ (fun _ => 0) (16 * g.val) (evtWord_riseSlot g),
      if_pos ((die_slots _ _).2 hk)]
  · rw [read_each_range slotEn _ (fun _ => 0x1FFF) (16 * g.val) (slotEn_riseSlot g), if_pos ((die_slots _ _).2 hk)]

end

/-- Settles O10: the commands of a die, and its sixteen slots in one pass at the loss and the rise of VMULE. -/
theorem muleDies : Obligations.MuleDies := fun s g =>
  ⟨muleKeepalive_unparked, fun hl hw hf _ => muleKeepalive_parked hl hw hf, coreLostDeclare_does, handOver_does, vmuleLoss_does s g,
    vmuleRise_does s g⟩

end Sys2Proof.Machine
end

section
/-! PROOFS. Operations applied to each element of a list: what holds of every element afterwards, and what stays. -/

namespace Sys2Proof.Machine

variable {α β : Type}

@[simp] theorem each_nil (f : α → State → State) (s : State) : each [] f s = s := rfl
@[simp] theorem each_cons (x : α) (l : List α) (f : α → State → State) (s : State) : each (x :: l) f s = each l f (f x s) := rfl

/-- What each operation leaves, all of them leave. -/
theorem each_unchanged (r : State → β) (l : List α) (f : α → State → State) (hf : ∀ x ∈ l, ∀ s, r (f x s) = r s) (s : State) :
    r (each l f s) = r s := by
  induction l generalizing s with
  | nil => rfl
  | cons x l ih =>
    exact (ih (fun y hy => hf y (List.mem_cons_of_mem x hy)) (f x s)).trans (hf x List.mem_cons_self s)

/-- What each operation keeps, all of them keep. -/
theorem each_preserves (P : State → Prop) (l : List α) (f : α → State → State) (hf : ∀ x ∈ l, ∀ s, P s → P (f x s)) (s : State)
    (hs : P s) : P (each l f s) := by
  induction l generalizing s with
  | nil => exact hs
  | cons x l ih => exact ih (fun y hy => hf y (List.mem_cons_of_mem x hy)) (f x s) (hf x List.mem_cons_self s hs)

/-- What an operation brings about for its element, and the others keep, holds of every element at the end. -/
theorem each_establishes (P : α → State → Prop) (l : List α) (f : α → State → State) (hSet : ∀ x ∈ l, ∀ s, P x (f x s))
    (hKeep : ∀ x, ∀ y ∈ l, ∀ s, P x s → P x (f y s)) (s : State) : ∀ x ∈ l, P x (each l f s) := by
  induction l generalizing s with
  | nil => intro x hx; cases hx
  | cons y l ih =>
    intro x hx
    rcases List.mem_cons.1 hx with rfl | hx
    · exact each_preserves (P x) l f (fun z hz => hKeep x z (List.mem_cons_of_mem x hz)) _ (hSet x List.mem_cons_self s)
    · exact ih (fun z hz => hSet z (List.mem_cons_of_mem y hz)) (fun z w hw => hKeep z w (List.mem_cons_of_mem y hw)) _ x hx

end Sys2Proof.Machine
end

section
/-! PROOFS. Power states: into a lower state (R444 to R447) and back (R448, R450 to R453, R461). -/

namespace Sys2Proof.Machine

theorem tget_of_notMem {α : Type} (d : α) (t : Tbl α) (k : Nat) (h : k ∉ t.map Prod.fst) : tget d t k = d := by
  induction t with
  | nil => rfl
  | cons e r ih =>
    obtain ⟨j, v⟩ := e
    simp only [List.map_cons, List.mem_cons, not_or] at h
    unfold tget
    rw [if_neg (Ne.symm h.1), ih h.2]

section
variable {s : State}

/-! ### Into a lower state -/

/-- The check's first failing clause, as the statement has it. -/
theorem entryRefusal_eq (s : State) : entryRefusal s
    = if s.pair.st ≠ .single then 1 else if ∃ e ∈ s.fns.fn, e.1 ≠ 0 ∧ e.2.created = true then 2
      else if driverReserves s = true then 3 else if portsBusy s = true then 4 else 0 := by
  unfold entryRefusal
  simp only [bne_iff_ne, List.any_eq_true, Bool.and_eq_true]

/-- Reservations that are released leave the shadow bank. -/
theorem dropRes_shadow (p : Rung → Bool) (s : State) : ∀ e ∈ (dropRes p s).sch.shadow, p e.2 = false := by
  intro e he
  unfold dropRes at he
  split at he
  · simpa using (List.mem_filter.1 he).2
  · next h => simpa using fun hp => h (List.any_eq_true.2 ⟨e, he, hp⟩)

theorem dropRes_pwr (p : Rung → Bool) (s : State) : (dropRes p s).pwr = s.pwr :=
  dropRes_keeps (bl := .pwr) p (Keeps.refl .pwr s) (by decide)

theorem beginEntry_refused (st : PowerState) (h : entryRefusal s ≠ 0) :
    beginEntry st s = { s with pwr := { s.pwr with refuse := BitVec.ofNat 3 (entryRefusal s) } } := by
  unfold beginEntry; simp only [bne_iff_ne, if_pos h]

theorem beginEntry_begins (st : PowerState) (h : entryRefusal s = 0) :
    beginEntry st s = dropRes (hubRung s) { s with pwr := { s.pwr with entering := some st } } := by
  unfold beginEntry; simp [h]

theorem frame_setPwr (s : State) (p : Power) : Frame [.pwr] s { s with pwr := p } := fun bl hb => by
  cases bl
  case pwr => exact absurd (by decide) hb
  all_goals rfl

theorem Frame.trans {bs : List Block} {s t u : State} (h : Frame bs s t) (k : Frame bs t u) : Frame bs s u :=
  fun bl hb => (h bl hb).trans (k bl hb)

theorem Frame.mono {as bs : List Block} {s t : State} (h : Frame as s t) (hs : as ⊆ bs) : Frame bs s t :=
  fun bl hb => h bl fun ha => hb (hs ha)

theorem frame_emit (o : Output) (s : State) : Frame [.out] s (emit o s) := fun _ hb => emit_keeps o (Keeps.refl _ s) hb

theorem beginEntry_frame (st : PowerState) (s : State) : Frame [.sch, .pwr] s (beginEntry st s) := by
  by_cases hr : entryRefusal s = 0
  · rw [beginEntry_begins st hr]
    exact ((frame_setPwr s _).mono (by simp)).trans fun _ hb => dropRes_keeps _ (Keeps.refl _ _) (notMem_of hb rfl)
  · rw [beginEntry_refused st hr]
    exact (frame_setPwr s _).mono (by simp)

/-- PF0 in D3hot, before the target is looked at. -/
def inD3hot (s : State) : State := { s with pwr := { s.pwr with d3hot := true } }

theorem pf0D3hotEntry_does (hl : live s = true) (hd : s.pwr.d3hot = false) (hst : s.pwr.st = .run) :
    ∃ t, exec .pf0D3hotEntry s = .next t ∧ t.pwr.d3hot = true ∧ Frame [.sch, .pwr] s t
      ∧ (targetState s = none ∨ targetState s = some .off → t.sch = s.sch ∧ t.pwr = { s.pwr with d3hot := true })
      ∧ ∀ st, targetState s = some st → st ≠ .off →
        (entryRefusal s ≠ 0 → t.sch = s.sch ∧ t.pwr = { s.pwr with d3hot := true, refuse := BitVec.ofNat 3 (entryRefusal s) })
        ∧ (entryRefusal s = 0 → t.pwr = { s.pwr with d3hot := true, entering := some st }
          ∧ ∀ e ∈ t.sch.shadow, hubRung s e.2 = false) := by
  have hFrame : Frame [.sch, .pwr] s (inD3hot s) := (frame_setPwr s _).mono (by simp)
  have hRun : exec .pf0D3hotEntry s = .next (match targetState s with
      | some .off => inD3hot s | some st => beginEntry st (inD3hot s) | none => inD3hot s) :=
    runs_of_guard (o := execPf0D3hotEntry s) rfl (by simp [hl, hd, hst])
  refine ⟨_, hRun, ?_⟩
  by_cases hNone : targetState s = none ∨ targetState s = some .off
  · have hSame : (match targetState s with
        | some .off => inD3hot s | some st => beginEntry st (inD3hot s) | none => inD3hot s) = inD3hot s := by
      rcases hNone with h | h <;> rw [h]
    rw [hSame]
    refine ⟨rfl, hFrame, fun _ => ⟨rfl, rfl⟩, fun st hSome hOff => ?_⟩
    rw [hSome] at hNone
    rcases hNone with h | h
    · cases h
    · cases h; exact absurd rfl hOff
  · obtain ⟨st, hSome⟩ : ∃ st, targetState s = some st := Option.ne_none_iff_exists'.1 fun h => hNone (.inl h)
    have hOff : st ≠ .off := fun h => hNone (.inr (h ▸ hSome))
    have hSame : (match targetState s with
        | some .off => inD3hot s | some st => beginEntry st (inD3hot s) | none => inD3hot s) = beginEntry st (inD3hot s) := by
      rw [hSome]
      cases st
      case off => exact absurd rfl hOff
      all_goals rfl
    rw [hSame]
    have hBegin : Frame [.sch, .pwr] s (beginEntry st (inD3hot s)) := hFrame.trans (beginEntry_frame st _)
    by_cases hr : entryRefusal s = 0
    · have hDrop := beginEntry_begins (s := inD3hot s) st hr
      have hPwr : (beginEntry st (inD3hot s)).pwr = { s.pwr with d3hot := true, entering := some st } := by
        rw [hDrop, dropRes_pwr]; rfl
      refine ⟨by rw [hPwr], hBegin, fun h => absurd h hNone, fun st' h' _ => ?_⟩
      rw [hSome] at h'; cases h'
      refine ⟨fun h => absurd hr h, fun _ => ⟨hPwr, ?_⟩⟩
      rw [hDrop]; exact dropRes_shadow _ _
    · have hRefused := beginEntry_refused (s := inD3hot s) st hr
      refine ⟨by rw [hRefused]; rfl, hBegin, fun h => absurd h hNone, fun st' h' _ => ?_⟩
      exact ⟨fun _ => by rw [hRefused]; exact ⟨rfl, rfl⟩, fun h => absurd h hr⟩

theorem clearLane_out (p : Nat) (s : State) : (clearLane p s).out = s.out :=
  clearLane_keeps (bl := .out) p (Keeps.refl .out s) (by decide)

theorem stopLanes_grows (s : State) : Grows s (stopLanes s) := by
  refine Grows.trans (t := quietPorts s) (each_grows _ _ _ fun p u => ?_)
    (each_grows _ _ _ fun p u => ⟨[], by rw [clearLane_out, List.append_nil]⟩)
  split
  · exact emit_grows _ _
  · exact Grows.refl u

theorem stopLanes_pwr (s : State) : (stopLanes s).pwr = s.pwr :=
  stopLanes_keeps (bl := .pwr) (Keeps.refl .pwr s) (by decide)

/-- Lanes that have stopped: no port has a transaction. -/
theorem stopLanes_idle (s : State) (p : Nat) : (port (stopLanes s) p).txn = none := by
  have hQuiet : (quietPorts s).topo = s.topo := quietPorts_keeps (bl := .topo) (Keeps.refl .topo s) (by decide)
  unfold stopLanes
  by_cases hp : p ∈ s.topo.port.map Prod.fst
  · refine each_establishes (fun p s => (port s p).txn = none) _ clearLane (fun x _ u => ?_) (fun x y _ u hu => ?_) _ p hp
    · show (port (clearLane x u) x).txn = none
      rw [clearLane_port, if_pos rfl]; rfl
    · show (port (clearLane y u) x).txn = none
      rw [clearLane_port]; split
      · rfl
      · exact hu
  · have hSame : port (each (s.topo.port.map Prod.fst) clearLane (quietPorts s)) p = port (quietPorts s) p := by
      refine each_unchanged (fun s => port s p) _ clearLane (fun x hx u => ?_) _
      show port (clearLane x u) p = _
      rw [clearLane_port, if_neg (by rintro rfl; exact hp hx)]
    rw [hSame]
    unfold port
    rw [hQuiet, tget_of_notMem _ _ _ hp]

theorem pmeTurnOff_does (hl : live s = true) (hst : s.pwr.st = .run) : ∃ t, exec .pmeTurnOff s = .next t ∧ .pmeAck ∈ t.out
    ∧ (targetState s ≠ some .off → t = emit .pmeAck s)
    ∧ (targetState s = some .off → entryRefusal s ≠ 0 →
        t.pwr = { s.pwr with refuse := BitVec.ofNat 3 (entryRefusal s) } ∧ Frame [.out, .pwr] s t)
    ∧ (targetState s = some .off → entryRefusal s = 0 → t.pwr.st = .off ∧ t.pwr.ready = false ∧ ∀ p, (port t p).txn = none) := by
  have hRun : exec .pmeTurnOff s = .next (if targetState s == some .off then
      (if entryRefusal s != 0 then
        { emit .pmeAck s with pwr := { s.pwr with refuse := BitVec.ofNat 3 (entryRefusal s) } }
      else stopLanes { emit .pmeAck s with pwr := { s.pwr with st := .off, entering := none, ready := false } })
      else emit .pmeAck s) := runs_of_guard (o := execPmeTurnOff s) (s := s) rfl (by simp [hl, hst])
  have hAck : .pmeAck ∈ (emit .pmeAck s).out := List.mem_append_right _ (List.mem_singleton.2 rfl)
  refine ⟨_, hRun, ?_⟩
  by_cases hOff : targetState s = some .off
  · have hOff' : (targetState s == some .off) = true := by simp [hOff]
    rw [if_pos hOff']
    by_cases hr : entryRefusal s = 0
    · rw [if_neg (by simp [hr])]
      have hPwr := stopLanes_pwr { emit .pmeAck s with pwr := { s.pwr with st := .off, entering := none, ready := false } }
      exact ⟨(stopLanes_grows _).mem hAck, fun h => absurd hOff h, fun _ h => absurd hr h,
        fun _ _ => ⟨by rw [hPwr], by rw [hPwr], stopLanes_idle _⟩⟩
    · rw [if_pos (by simp [hr])]
      exact ⟨hAck, fun h => absurd hOff h, fun _ _ => ⟨rfl, ((frame_emit _ s).mono (by simp)).trans
        ((frame_setPwr _ _).mono (by simp))⟩, fun _ h => absurd h hr⟩
  · have hOff' : ¬ (targetState s == some .off) = true := by simpa using hOff
    rw [if_neg hOff']
    exact ⟨hAck, fun _ => rfl, fun h => absurd h hOff, fun h => absurd h hOff⟩

/-- A port of the entry: suspended where there is such a root port. -/
theorem port_suspendPort (p : Nat) (s : State) (k : Nat) : port (suspendPort p s) k = port s k
    ∨ (k = p ∧ (port (suspendPort p s) k).suspended = true) := by
  unfold suspendPort
  split
  · by_cases hk : k = p
    · subst hk
      exact .inr ⟨rfl, by unfold suspendOp; dsimp only; rw [modPort_port]⟩
    · exact .inl ((modPort_others _ _ _ k hk).trans (modPort_others _ _ _ k hk))
  · exact .inl rfl

theorem suspended_suspendPort (p : Nat) (hp : p < 64) (s : State) : (port (suspendPort p s) p).suspended = true := by
  unfold suspendPort suspendOp
  rw [dif_pos hp]; dsimp only
  rw [modPort_port]

theorem suspendPort_frame (p : Nat) (s : State) : Frame [.topo] s (suspendPort p s) := fun bl hb => by
  unfold suspendPort suspendOp
  split
  · exact modPort_keeps _ _ (modPort_keeps _ _ (Keeps.refl bl s) hb) hb
  · exact Keeps.refl bl s

theorem each_frame {α : Type} {bs : List Block} (l : List α) (f : α → State → State) (hf : ∀ x s, Frame bs s (f x s)) (s : State) :
    Frame bs s (each l f s) := fun bl hb =>
  each_keeps l f (fun x t h => h.trans (hf x t bl hb)) (Keeps.refl bl s)

theorem suspended_all (l : List Nat) (s : State) :
    (∀ p ∈ l, p < 64 → (port (each l suspendPort s) p).suspended = true)
    ∧ ∀ p, p ∉ l → port (each l suspendPort s) p = port s p := by
  refine ⟨each_establishes (fun p s => p < 64 → (port s p).suspended = true) l suspendPort (fun p _ u hp => suspended_suspendPort p hp u)
    (fun p q _ u hu hp => ?_) s, fun p hp => each_unchanged (fun s => port s p) l suspendPort (fun q hq u => ?_) s⟩
  · rcases port_suspendPort q u p with h | h
    · rw [h]; exact hu hp
    · exact h.2
  · rcases port_suspendPort q u p with h | h
    · exact h
    · exact absurd (h.1 ▸ hq) hp

/-- The dies of a part in Watch. -/
def parkDies (s : State) : State := each (List.range 4) (fun g => modDie g fun d => { d with parked := true }) s

theorem parkDies_parked (s : State) : ∀ g, g < 4 → (die (parkDies s) g).parked = true := fun g hg =>
  each_establishes (fun g s => (die s g).parked = true) (List.range 4) (fun g => modDie g fun d => { d with parked := true })
    (fun g _ u => by rw [die_modDie, if_pos rfl])
    (fun g k _ u hu => by
      rw [die_modDie]; split
      · rfl
      · exact hu) s g (List.mem_range.2 hg)

theorem parkDies_frame (s : State) : Frame [.slots] s (parkDies s) :=
  each_frame _ _ (fun _ _ _ hb => modDie_keeps _ _ (Keeps.refl _ _) hb) s

theorem lowPowerEnter_does (st : PowerState) (hl : live s = true) (hst : s.pwr.st = .run) (he : s.pwr.entering = some st)
    (hNone : ∀ e ∈ s.sch.live, hubRung s e.2 = false) (hSlew : slewed s st = true) :
    ∃ t, exec .lowPowerEnter s = .next t ∧ t.pwr.st = st ∧ t.pwr.entering = none ∧ t.pwr.slept = awakePorts s
      ∧ (∀ p ∈ awakePorts s, p < 64 → (port t p).suspended = true) ∧ (∀ p, p ∉ awakePorts s → port t p = port s p)
      ∧ (st = .watch → (∀ g, g < 4 → (die t g).parked = true) ∧ t.pwr.snapshot.length = 64)
      ∧ Frame [.out, .topo, .slots, .pwr] s t := by
  have hRun : exec .lowPowerEnter s = .next (enterState st s) := by
    show execLowPowerEnter s = _
    unfold execLowPowerEnter
    rw [he]
    have hAny : (s.sch.live.any fun e => hubRung s e.2) = false := by simpa using hNone
    exact guarded_of (by simp [hl, hst, hAny, hSlew])
  obtain ⟨hOn, hRest⟩ := suspended_all (awakePorts s) s
  have hPorts : Frame [.out, .topo, .slots, .pwr] s (each (awakePorts s) suspendPort s) :=
    (each_frame _ _ suspendPort_frame s).mono (by simp)
  refine ⟨_, hRun, ?_⟩
  by_cases hw : st = .watch
  · subst hw
    have hDies := parkDies_frame (each (awakePorts s) suspendPort s)
    have hTopo : (parkDies (each (awakePorts s) suspendPort s)).topo = (each (awakePorts s) suspendPort s).topo :=
      hDies .topo (by decide)
    refine ⟨rfl, rfl, rfl, fun p hp hlt => ?_, fun p hp => ?_, fun _ => ⟨parkDies_parked _, by simp [enterState]⟩, ?_⟩
    · exact (congrArg Port.suspended (port_of_topo hTopo p)).trans (hOn p hp hlt)
    · exact (port_of_topo hTopo p).trans (hRest p hp)
    · exact hPorts.trans ((hDies.mono (by simp)).trans ((frame_setPwr _ _).mono (by simp)))
  · have hEnter : enterState st s = { each (awakePorts s) suspendPort s with pwr := { (each (awakePorts s) suspendPort s).pwr with
        st := st, entering := none, slept := awakePorts s, wake := .none_, moved := false, domainAwake := false } } := by
      unfold enterState
      dsimp only
      rw [if_neg (by simpa using hw)]
    rw [hEnter]
    exact ⟨rfl, rfl, rfl, hOn, hRest, fun h => absurd h hw, hPorts.trans ((frame_setPwr _ _).mono (by simp))⟩

/-! ### Waking -/

/-- A wake cause that arrives in a lower state, with no wake under way, is the one recorded (R451). -/
theorem startWake_first (c i : Nat) (hSt : s.pwr.st = .sleep ∨ s.pwr.st = .deepSleep ∨ s.pwr.st = .watch)
    (hOff : s.pwr.entering ≠ some .off) (hw : s.pwr.waking = none) :
    startWake c i s = { s with pwr := { s.pwr with waking := some (c, i) } } := by
  unfold startWake
  refine if_pos ?_
  rcases hSt with h | h | h <;> simp [h, hOff, hw]

theorem startWake_later (c i : Nat) (hw : s.pwr.waking ≠ none) : startWake c i s = s := by
  unfold startWake
  refine if_neg ?_
  simp [Option.isNone_iff_eq_none, hw]

theorem startWake_frame (c i : Nat) (s : State) : Frame [.pwr] s (startWake c i s) := by
  unfold startWake
  split
  · exact frame_setPwr s _
  · exact fun bl _ => Keeps.refl bl s

theorem watchSample_does (w : Bool) (k : U64) (c : Option (Nat × Nat)) (hl : live s = true) (hst : s.pwr.st = .watch)
    (hw : s.pwr.waking = none) (he : s.pwr.entering = none) (hc : sampleCause w (changedSlots s) (wokenPorts s k) = c) :
    ∃ t, exec (.watchSample w k) s = .next t ∧ t.pwr.waking = c ∧ Frame [.pwr] s t := by
  have hFrame : ∀ l, Frame [.pwr] s { s with pwr := { s.pwr with wakes := l } } := fun l => frame_setPwr s _
  refine ⟨_, runs_of_guard (o := execWatchSample w k s) rfl (by simp [hl, hst, hw]), ?_⟩
  dsimp only
  have hSame : ∀ l, changedSlots { s with pwr := { s.pwr with wakes := l } } = changedSlots s := fun _ => rfl
  rw [hSame, hc]
  cases c with
  | none => exact ⟨hw, hFrame _⟩
  | some c =>
    dsimp only
    have hWake := fun l => startWake_first (s := { s with pwr := { s.pwr with wakes := l } }) c.1 c.2 (.inr (.inr hst))
      (by simp [he]) hw
    rw [hWake]
    exact ⟨rfl, (hFrame _).trans (frame_setPwr _ _)⟩

theorem pf0D0Entry_does (hl : live s = true) (hd : s.pwr.d3hot = true) : ∃ t, exec .pf0D0Entry s = .next t
    ∧ t.pwr.d3hot = false ∧ Frame [.pwr] s t
    ∧ ((s.pwr.st = .sleep ∨ s.pwr.st = .deepSleep ∨ s.pwr.st = .watch) → s.pwr.entering ≠ some .off →
        t.pwr.waking = (if s.pwr.waking = none then some (1, 0) else s.pwr.waking)) := by
  refine ⟨_, runs_of_guard (o := execPf0D0Entry s) rfl (by simp [hl, hd]), ?_, ?_, fun hSt hOff => ?_⟩
  · unfold startWake; split <;> rfl
  · exact (frame_setPwr s _).trans (startWake_frame _ _ _)
  · by_cases hw : s.pwr.waking = none
    · rw [if_pos hw, startWake_first (s := { s with pwr := { s.pwr with d3hot := false } }) 1 0 hSt hOff hw]
    · rw [if_neg hw, startWake_later (s := { s with pwr := { s.pwr with d3hot := false } }) 1 0 hw]

theorem wakeInAssert_off (hst : s.pwr.st = .off) (ho : s.pwr.wakeOut = false) :
    exec .wakeInAssert s = .next (emit (.wakeOut true) { s with pwr := { s.pwr with wakeOut := true } }) := by
  show execWakeInAssert s = _
  unfold execWakeInAssert
  simp only [hst, ho, beq_self_eq_true, if_true, Bool.false_eq_true, if_false]
  rfl

theorem wakeInAssert_wakes (hl : live s = true) (hst : s.pwr.st = .sleep ∨ s.pwr.st = .deepSleep)
    (he : s.pwr.entering ≠ some .off) (hw : s.pwr.waking = none) :
    exec .wakeInAssert s = .next { s with pwr := { s.pwr with waking := some (2, 0) } } := by
  show execWakeInAssert s = _
  unfold execWakeInAssert
  rw [if_neg (by rcases hst with h | h <;> simp [h]), if_pos (by rcases hst with h | h <;> simp [h, hl]),
    startWake_first 2 0 (hst.imp id .inl) he hw]
  rfl

theorem deepWake_of (h : live s = true ∧ (s.pwr.st = .deepSleep ∨ s.pwr.st = .watch) ∧ s.pwr.waking ≠ none) : deepWake s = true := by
  obtain ⟨hl, hst, hw⟩ := h
  have hSome : s.pwr.waking.isSome = true := Option.isSome_iff_ne_none.2 hw
  unfold deepWake
  rcases hst with hst | hst <;> simp [hl, hst, hSome]

theorem wakeSteps (h : deepWake s = true) :
    (s.pwr.wake = .none_ → exec .wakeRegulatorReady s = .next { s with pwr := { s.pwr with wake := .regulator } })
    ∧ (s.pwr.wake = .regulator → exec .wakeClockReady s = .next { s with pwr := { s.pwr with wake := .clock } })
    ∧ (s.pwr.wake ≠ .none_ → exec .wakeRegulatorReady s = .next s) ∧ (s.pwr.wake ≠ .regulator → exec .wakeClockReady s = .next s)
    ∧ (s.pwr.wake = .clock → exec .wakeMemoryReady s
        = .next (each [0, 1, 2, 3] keepAlive { s with pwr := { s.pwr with wake := .memory } })) :=
  ⟨fun hk => runs_of_guard (o := execWakeRegulatorReady s) rfl (by simp [h, hk]),
    fun hk => runs_of_guard (o := execWakeClockReady s) rfl (by simp [h, hk]),
    fun hk => idle_of_no_guard (o := execWakeRegulatorReady s) rfl (by simp [hk]),
    fun hk => idle_of_no_guard (o := execWakeClockReady s) rfl (by simp [hk]),
    fun hk => runs_of_guard (o := execWakeMemoryReady s) (s := s) rfl (by simp [h, hk])⟩

theorem noteWake_frame (l : Loc) (s : State) : Frame [.out, .topo] s (noteWake l s) := fun _ hb =>
  noteWake_keeps l (Keeps.refl _ s) (notMem_of hb rfl)

/-- A resume of a root port drives its line and changes the port. -/
theorem resumeRoot_frame (p : PortId) (s : State) : Frame [.out, .topo] s (resumeOp (.root p) s) := fun bl hb => by
  have hPort : ∀ g u, Keeps bl s u → Keeps bl s (modPort p.val g u) := fun g u h => modPort_keeps _ _ h (notMem_of hb rfl)
  have hOut : ∀ o u, Keeps bl s u → Keeps bl s (emit o u) := fun o u h => emit_keeps o h (notMem_of hb rfl)
  unfold resumeOp mergeWake beginResume
  dsimp only
  repeat' split
  all_goals first
    | exact Keeps.refl bl s
    | exact hPort _ _ (Keeps.refl bl s)
    | exact hOut _ _ (hPort _ _ (Keeps.refl bl s))

/-- The resume of a port that the entry suspended. -/
def resumeSlept (p : Nat) (s : State) : State :=
  if h : p < 64 then (if (port s p).suspended then resumeOp (.root ⟨p, h⟩) s else s) else s

theorem resumeSlept_frame (p : Nat) (s : State) : Frame [.out, .topo] s (resumeSlept p s) := by
  unfold resumeSlept
  split
  · split
    · exact resumeRoot_frame _ s
    · exact fun bl _ => Keeps.refl bl s
  · exact fun bl _ => Keeps.refl bl s

theorem resumeRoot_grows (p : PortId) (s : State) : Grows s (resumeOp (.root p) s) := by
  have hPort : ∀ g u, Grows s u → Grows s (modPort p.val g u) := fun g u h => h
  unfold resumeOp mergeWake beginResume
  dsimp only
  repeat' split
  all_goals first
    | exact Grows.refl s
    | exact hPort _ _ (Grows.refl s)
    | exact (hPort _ _ (Grows.refl s)).trans (emit_grows _ _)

theorem resumeSlept_grows (p : Nat) (s : State) : Grows s (resumeSlept p s) := by
  unfold resumeSlept
  split
  · split
    · exact resumeRoot_grows _ s
    · exact Grows.refl s
  · exact Grows.refl s

theorem noteWake_grows (l : Loc) (s : State) : Grows s (noteWake l s) :=
  ⟨[], by rw [show (noteWake l s).out = s.out from noteWake_keeps (bl := .out) l (Keeps.refl .out s) (by decide), List.append_nil]⟩

/-- The power block of a part that has reached Run. -/
def runPower (c : Nat × Nat) (s : State) : Power :=
  { s.pwr with
    st := .run, wake := .none_, waking := none, wakes := [], slept := [], snapshot := [], domainAwake := false
    wakeCause := BitVec.ofNat 64 (c.1 + c.2 * 256 + epoch32 s 0 * 2 ^ 32) }

theorem reachRun_eq (c : Nat × Nat) (s : State) : reachRun c s = each s.pwr.slept resumeSlept (each s.pwr.wakes noteWake
    (if s.pwr.d3hot then emit .pme { s with pwr := runPower c s } else { s with pwr := runPower c s })) := rfl

theorem wakeLogicReady_does (c : Nat × Nat) (hl : live s = true) (hw : s.pwr.waking = some c)
    (hst : s.pwr.st = .sleep ∨ ((s.pwr.st = .deepSleep ∨ s.pwr.st = .watch) ∧ s.pwr.wake = .memory)) :
    ∃ t, exec .wakeLogicReady s = .next t ∧ t.pwr.st = .run ∧ t.pwr.waking = none
      ∧ t.pwr.wakeCause = BitVec.ofNat 64 (c.1 + c.2 * 256 + epoch32 s 0 * 2 ^ 32) ∧ (s.pwr.d3hot = true → .pme ∈ t.out)
      ∧ Frame [.out, .topo, .pwr] s t := by
  have hRun : exec .wakeLogicReady s = .next (reachRun c s) := by
    show execWakeLogicReady s = _
    unfold execWakeLogicReady
    rw [hw]
    refine guarded_of ?_
    rcases hst with h | ⟨h, hMem⟩
    · simp [hl, h]
    · have hDeep := deepWake_of ⟨hl, h, by rw [hw]; simp⟩
      simp [hl, hDeep, hMem]
  have hTail : ∀ u, Frame [.out, .topo] u (each s.pwr.slept resumeSlept (each s.pwr.wakes noteWake u)) := fun u =>
    (each_frame _ _ noteWake_frame u).trans (each_frame _ _ resumeSlept_frame _)
  have hTailGrows : ∀ u, Grows u (each s.pwr.slept resumeSlept (each s.pwr.wakes noteWake u)) := fun u =>
    (each_grows _ _ _ noteWake_grows).trans (each_grows _ _ _ resumeSlept_grows)
  have hStart : Frame [.out, .topo, .pwr] s
      (if s.pwr.d3hot then emit .pme { s with pwr := runPower c s } else { s with pwr := runPower c s }) := by
    have hPwr : Frame [.out, .topo, .pwr] s { s with pwr := runPower c s } := (frame_setPwr s _).mono (by simp)
    split
    · exact hPwr.trans ((frame_emit _ _).mono (by simp))
    · exact hPwr
  have hPwr : (reachRun c s).pwr = runPower c s := by
    rw [reachRun_eq]
    refine Eq.trans (hTail _ .pwr (by decide)) ?_
    split <;> rfl
  refine ⟨_, hRun, by rw [hPwr]; rfl, by rw [hPwr]; rfl, by rw [hPwr]; rfl, fun hd => ?_, ?_⟩
  · rw [reachRun_eq, if_pos hd]
    exact (hTailGrows _).mem (List.mem_append_right _ (List.mem_singleton.2 rfl))
  · rw [reachRun_eq]
    exact hStart.trans ((hTail _).mono (by simp))

end

/-- Settles O11: the entry by its checks, each step of a wake by its guard. -/
theorem powerStates : Obligations.PowerStates := by
  intro s
  rw [← entryRefusal_eq s]
  exact ⟨fun v hr => runs_of_guard (o := execPwrTargetWrite v s) (s := s) rfl hr, pf0D3hotEntry_does, pmeTurnOff_does,
    lowPowerEnter_does, watchSample_does, pf0D0Entry_does, wakeInAssert_off, wakeInAssert_wakes, fun h => wakeSteps (deepWake_of h),
    wakeLogicReady_does⟩

end Sys2Proof.Machine
end

section
/-! PROOFS. Partner control: the die's side of PCTL_B and the part's own ports (R408 to R410). -/

namespace Sys2Proof.Machine

section
variable {s : State} {g : DieId}

/-! ### The die side -/

/-- The state in which a die has answered a command: the answer is kept and sent. -/
def dieAnswered (g : DieId) (q : U16) (j typ : Nat) (b : List Byte) (u : State) : State :=
  emit (.pctlB g.val typ (pctlFrame typ j q b)) (modDie g.val (fun d => { d with answered := some (q, j, typ, b) }) u)

theorem dieAnswer_repeat {q : U16} {j typ : Nat} {b : List Byte} (ha : (die s g.val).answered = some (q, j, typ, b))
    (f : State → (Nat × Nat × List Byte) × State) :
    dieAnswer g.val q f s = emit (.pctlB g.val typ (pctlFrame typ j q b)) s := by
  unfold dieAnswer
  rw [ha]
  exact if_pos rfl

/-- A command with another SEQ than the last is acted on. -/
theorem dieAnswer_fresh {q : U16} (ha : ∀ a, (die s g.val).answered = some a → a.1 ≠ q)
    (f : State → (Nat × Nat × List Byte) × State) :
    dieAnswer g.val q f s = dieAnswered g q (f s).1.1 (f s).1.2.1 (f s).1.2.2 (f s).2 := by
  unfold dieAnswer
  split
  · next q' j typ b hb =>
    rw [if_neg (ha _ hb)]; rfl
  · rfl

theorem dieCommand_repeat {q : U16} {j typ : Nat} {b : List Byte} {c : Instr} {i : Byte} {k : Fin 16} {o : U16} {v : U64}
    (hp : (die s g.val).powered = true) (ha : (die s g.val).answered = some (q, j, typ, b))
    (hc : c ∈ [Instr.keepalive g q, .pctlbClaim g q i, .pctlbRelease g q, .pctlbWrite g k q o v, .pctlbRead g k q o]) :
    exec c s = .next (emit (.pctlB g.val typ (pctlFrame typ j q b)) s) := by
  have hRun : ∀ f, guarded (dieHears s g.val) s (dieAnswer g.val q f)
      = .next (emit (.pctlB g.val typ (pctlFrame typ j q b)) s) := fun f =>
    (guarded_of hp).trans (congrArg _ (dieAnswer_repeat ha f))
  simp only [List.mem_cons, List.not_mem_nil, or_false] at hc
  rcases hc with rfl | rfl | rfl | rfl | rfl <;> exact hRun _

/-- A fresh command frame that a powered die acts on. -/
theorem dieCommand_fresh {q : U16} (hp : (die s g.val).powered = true) (ha : ∀ a, (die s g.val).answered = some a → a.1 ≠ q)
    (f : State → (Nat × Nat × List Byte) × State) : guarded (dieHears s g.val) s (dieAnswer g.val q f)
      = .next (dieAnswered g q (f s).1.1 (f s).1.2.1 (f s).1.2.2 (f s).2) :=
  (guarded_of hp).trans (congrArg _ (dieAnswer_fresh ha f))

/-- Authority of a die has become `p`: the other dies are as they were, and so is everything but the slots. -/
def AuthMoves (g : DieId) (p : Bool) (s u : State) : Prop :=
  (die u g.val).authPctl = p ∧ (∀ k, k ≠ g.val → die u k = die s k) ∧ Frame [.slots] s u

theorem die_recheck (g : Nat) (s : State) (k : Nat) : die (recheck g s) k = die s k := by
  refine each_unchanged (fun s => die s k) _ _ (fun j _ u => ?_) s
  dsimp only
  split
  · unfold powerCheck
    dsimp only
    repeat' split
    all_goals rfl
  · rfl

theorem setAuth_moves (p : Bool) (s : State) : AuthMoves g p s (setAuth g.val p s) := by
  unfold setAuth
  refine ⟨?_, fun k hk => ?_, fun bl hb => recheck_keeps _ (modDie_keeps _ _ (Keeps.refl bl s) hb) hb⟩
  · rw [die_recheck, die_modDie, if_pos rfl]
  · rw [die_recheck, die_modDie, if_neg hk]

theorem pctlbClaim_does {q : U16} {i : Byte} (hp : (die s g.val).powered = true)
    (ha : ∀ a, (die s g.val).answered = some a → a.1 ≠ q) :
    ((die s g.val).coreLost = true ∨ (die s g.val).authPctl = true → ∃ u, AuthMoves g true s u
        ∧ exec (.pctlbClaim g q i) s = .next (dieAnswered g q 0 0x82 [0, 1] u))
    ∧ ((die s g.val).coreLost = false → (die s g.val).authPctl = false →
        exec (.pctlbClaim g q i) s = .next (dieAnswered g q 0 0x82 [1, 0] s)) := by
  have hRun : exec (.pctlbClaim g q i) s = _ := dieCommand_fresh hp ha _
  refine ⟨fun h => ⟨setAuth g.val true s, setAuth_moves true s, hRun.trans ?_⟩, fun h1 h2 => hRun.trans ?_⟩
  · have hHeld : ((die s g.val).coreLost || (die s g.val).authPctl) = true := by simpa using h
    simp only [hHeld, if_true]
  · simp only [h1, h2, Bool.or_self, Bool.false_eq_true, if_false]

theorem pctlbRelease_does {q : U16} (hp : (die s g.val).powered = true) (ha : ∀ a, (die s g.val).answered = some a → a.1 ≠ q) :
    ∃ u, AuthMoves g false s u ∧ exec (.pctlbRelease g q) s = .next (dieAnswered g q 0 0x82 [2, 0] u) := by
  refine ⟨setAuth g.val false s, setAuth_moves false s, ?_⟩
  have hRun : exec (.pctlbRelease g q) s = _ := dieCommand_fresh hp ha _
  simpa only using hRun

theorem pctlbWrite_does {q : U16} {j : Fin 16} {o : U16} {v : U64} (hp : (die s g.val).powered = true)
    (ha : ∀ a, (die s g.val).answered = some a → a.1 ≠ q) :
    ((die s g.val).authPctl = true → slotWritable o.toNat = false →
        exec (.pctlbWrite g j q o v) s = .next (dieAnswered g q j.val 0x84 [2, 0] s))
    ∧ ((die s g.val).authPctl = false ∨ slotWritable o.toNat = true → ∃ u, exec (.mulePowerCommand g .pctlB j o v) s = .next u
        ∧ exec (.pctlbWrite g j q o v) s
          = .next (dieAnswered g q j.val 0x84 [if (die s g.val).authPctl then 0 else 1, 0] u)) := by
  have hRun : exec (.pctlbWrite g j q o v) s = _ := dieCommand_fresh hp ha _
  refine ⟨fun h1 h2 => hRun.trans ?_, fun h => ⟨_, guarded_of (b := (die s g.val).powered) hp, hRun.trans ?_⟩⟩
  · simp only [h1, h2, Bool.not_true, Bool.false_eq_true, if_false, if_true]
  · cases hAuth : (die s g.val).authPctl
    · simp only [Bool.not_false, Bool.false_eq_true, if_true, if_false]
      rfl
    · have hWritable : slotWritable o.toNat = true := by
        rcases h with h | h
        · rw [hAuth] at h; cases h
        · exact h
      simp only [hWritable, Bool.not_true, Bool.false_eq_true, if_false, if_true]
      rfl

theorem pctlbKeepaliveLoss_does (hh : hears s g.val = true) (ha : (die s g.val).authPctl = true) :
    ∃ u, AuthMoves g false s u ∧ exec (.pctlbKeepaliveLoss g) s = .next u := by
  have hAlive : (die s g.val).coreLost = false := by
    unfold hears at hh
    simp only [Bool.and_eq_true, Bool.not_eq_true'] at hh
    exact hh.1.1.2
  exact ⟨_, setAuth_moves false s, runs_of_guard (o := execPctlbKeepaliveLoss g s) rfl (by simp [hh, ha, hAlive])⟩

theorem eventAck_does {q : U16} (hp : (die s g.val).powered = true) : ∃ t, exec (.eventAck g q) s = .next t
    ∧ (die t g.val).events = (die s g.val).events.filter (·.seq != q)
    ∧ (∀ k, k ≠ g.val → die t k = die s k) ∧ Frame [.slots] s t := by
  refine ⟨_, runs_of_guard (o := execEventAck g q s) rfl hp, ?_, fun k hk => ?_, fun bl hb => modDie_keeps _ _ (Keeps.refl bl s) hb⟩
  · rw [die_modDie, if_pos rfl]
  · rw [die_modDie, if_neg hk]

/-! ### The part's own ports -/

/-- Partner-control port `g` has become `y`. -/
def withCtl (g : DieId) (y : PctlPort) (s : State) : State := { s with ctl := tput s.ctl g.val y }

theorem hasCtl_of (h : live s = true ∧ s.straps.pairEn = true) : hasCtl s = true := by
  unfold hasCtl; simp [h.1, h.2]

/-- An answer to a command that waits takes effect, and the command waits no longer. -/
theorem answered_taken {q : U16} {l : List Nat} (f : PctlPort → PctlPort) (ho : live s = true ∧ s.straps.pairEn = true)
    (hc : ∃ c ∈ (ctlPort s g.val).cmds, c.seq = q ∧ c.typ ∈ l) : answered g.val q l f s
      = .next (withCtl g (f { ctlPort s g.val with cmds := (ctlPort s g.val).cmds.filter (·.seq != q) }) s) := by
  refine guarded_of ?_
  obtain ⟨c, hMem, hSeq, hTyp⟩ := hc
  have hAny : ((ctlPort s g.val).cmds.any fun c => c.seq == q && l.contains c.typ) = true :=
    List.any_eq_true.2 ⟨c, hMem, by simp [hSeq, hTyp]⟩
  rw [hasCtl_of ho, hAny]; rfl

theorem answered_stray {q : U16} (l : List Nat) (f : PctlPort → PctlPort) (hc : ∀ c ∈ (ctlPort s g.val).cmds, c.seq ≠ q) :
    answered g.val q l f s = .next s := by
  refine guarded_of_false ?_
  have hAny : ((ctlPort s g.val).cmds.any fun c => c.seq == q && l.contains c.typ) = false := by
    simp only [List.any_eq_false, Bool.and_eq_true, beq_iff_eq, not_and]
    exact fun c hMem hSeq => absurd hSeq (hc c hMem)
  rw [hAny, Bool.and_false]

theorem answer_ignored {c : Instr} {q : U16} {a l : Bool} {r k : Byte} {o : U16} {v : U64}
    (hn : ∀ c ∈ (ctlPort s g.val).cmds, c.seq ≠ q)
    (hc : c ∈ [Instr.keepaliveAck g q a l, .claimAck g q r k, .writeAck g q r, .readData g q o v]) : exec c s = .next s := by
  simp only [List.mem_cons, List.not_mem_nil, or_false] at hc
  rcases hc with rfl | rfl | rfl | rfl
  · exact answered_stray [1] (fun x => { x with holder := a, coreLost := l }) hn
  · exact answered_stray [2, 3] (fun x => { x with holder := r = 0 && bit k 0 }) hn
  · exact answered_stray [4] (fun x => { x with written := some r }) hn
  · exact answered_stray [5] (fun x => { x with readBack := some (o, v) }) hn

theorem pctlbKeepaliveTick_does (ho : live s = true ∧ s.straps.pairEn = true) (hh : (ctlPort s g.val).holder = true) :
    exec (.pctlbKeepaliveTick g) s = .next (emit (.pctlB g.val 1 (pctlFrame 1 0 ((ctlPort s g.val).seq + 1) []))
      (withCtl g { ctlPort s g.val with
        seq := (ctlPort s g.val).seq + 1, cmds := (ctlPort s g.val).cmds ++ [⟨(ctlPort s g.val).seq + 1, 1, 0, [], 1⟩] } s)) :=
  runs_of_guard (o := execPctlbKeepaliveTick g s) (s := s) rfl (by simp [hasCtl_of ho, hh])

/-- The acknowledgement of an EVENT. -/
def eventAcked (g : DieId) (j : Fin 16) (q : U16) (s : State) : State :=
  emit (.pctlB g.val 6 (pctlFrame 6 j.val ((ctlPort s g.val).seq + 1) (natLE 2 q.toNat)))
    (withCtl g { ctlPort s g.val with seq := (ctlPort s g.val).seq + 1 } s)

theorem exec_pctlbEvent {j : Fin 16} {q b : U16} {v : U32} (ho : live s = true ∧ s.straps.pairEn = true) :
    exec (.pctlbEvent g j q b v) s = .next (if (ctlPort (eventAcked g j q s) g.val).seen.contains q then eventAcked g j q s
      else each ((List.range 13).filter (bit b ·)) (partnerSlotEvent (16 * g.val + j.val))
        (modCtl g.val (fun x => { x with seen := (q :: x.seen).take 64 }) (eventAcked g j q s))) := by
  show execPctlbEvent g j q b v s = _
  unfold execPctlbEvent
  exact guarded_of (hasCtl_of ho)

theorem ctlPort_eventAcked (g : DieId) (j : Fin 16) (q : U16) (s : State) (k : Nat) : ctlPort (eventAcked g j q s) k
    = if k = g.val then { ctlPort s g.val with seq := (ctlPort s g.val).seq + 1 } else ctlPort s k := tget_tput _ _ _ _ _

theorem pctlbEvent_again {j : Fin 16} {q b : U16} {v : U32} (ho : live s = true ∧ s.straps.pairEn = true)
    (hs : q ∈ (ctlPort s g.val).seen) : exec (.pctlbEvent g j q b v) s = .next (eventAcked g j q s) := by
  rw [exec_pctlbEvent ho, ctlPort_eventAcked, if_pos rfl, if_pos (by simpa using hs)]

theorem pctlbEvent_first {j : Fin 16} {q b : U16} {v : U32} (ho : live s = true ∧ s.straps.pairEn = true)
    (hs : q ∉ (ctlPort s g.val).seen) : ∃ u, exec (.pctlbEvent g j q b v) s
        = .next (each ((List.range 13).filter (bit b ·)) (partnerSlotEvent (16 * g.val + j.val)) u)
      ∧ u.out = s.out ++ [.pctlB g.val 6 (pctlFrame 6 j.val ((ctlPort s g.val).seq + 1) (natLE 2 q.toNat))]
      ∧ Frame [.out, .ctl] s u
      ∧ ctlPort u g.val = { ctlPort s g.val with
          seq := (ctlPort s g.val).seq + 1, seen := (q :: (ctlPort s g.val).seen).take 64 }
      ∧ ∀ k, k ≠ g.val → ctlPort u k = ctlPort s k := by
  have hAcked : Frame [.out, .ctl] s (eventAcked g j q s) := fun bl hb => by
    cases bl
    case out => exact absurd (by decide) hb
    case ctl => exact absurd (by decide) hb
    all_goals rfl
  refine ⟨modCtl g.val (fun x => { x with seen := (q :: x.seen).take 64 }) (eventAcked g j q s), ?_, rfl,
    hAcked.trans fun bl hb => modCtl_keeps _ _ (Keeps.refl bl _) (notMem_of hb rfl), ?_, fun k hk => ?_⟩
  · rw [exec_pctlbEvent ho, ctlPort_eventAcked, if_pos rfl, if_neg (by simpa using hs)]
  · rw [ctlPort_modCtl, if_pos rfl, ctlPort_eventAcked, if_pos rfl]
  · rw [ctlPort_modCtl, if_neg hk, ctlPort_eventAcked, if_neg hk]

theorem pctlbResend_partner {c : PctlCmd} {l : List PctlCmd} (ho : live s = true ∧ s.straps.pairEn = true)
    (hc : (ctlPort s g.val).cmds = c :: l) : exec (.pctlbResendTimeout g .partner) s = .next (if c.sends < 4
      then emit (.pctlB g.val c.typ (pctlFrame c.typ c.j c.seq c.payload))
        (withCtl g { ctlPort s g.val with cmds := { c with sends := c.sends + 1 } :: l } s)
      else withCtl g { ctlPort s g.val with cmds := l } s) := by
  refine (runs_of_guard (o := execPctlbResendTimeout g .partner s) (s := s) rfl (hasCtl_of ho)).trans (congrArg _ ?_)
  unfold resendCommand
  rw [hc]
  rfl

theorem pctlbResend_die {e : PctlEvent} {l : List PctlEvent} (hp : (die s g.val).powered = true)
    (he : (die s g.val).events = e :: l) : exec (.pctlbResendTimeout g .die) s = .next (if e.sends < 4
      then emit (.pctlB g.val 0x86 (pctlFrame 0x86 e.j e.seq e.payload))
        (modDie g.val (fun d => { d with events := { e with sends := e.sends + 1 } :: l }) s)
      else modDie g.val (fun d => { d with events := l }) s) := by
  refine (runs_of_guard (o := execPctlbResendTimeout g .die s) (s := s) rfl hp).trans (congrArg _ ?_)
  unfold resendEvent
  rw [he]
  rfl

end

/-- Settles O13: a repeat is answered from what the die kept, a fresh frame acted on; the part's own ports by what waits in them. -/
theorem partnerControl : Obligations.PartnerControl := fun _ _ =>
  ⟨fun _ _ _ _ _ _ _ _ _ hp ha hc => dieCommand_repeat hp ha hc,
    fun _ h => dieCommand_fresh h.1 h.2 _,
    fun _ _ h => pctlbClaim_does h.1 h.2,
    fun _ h => pctlbRelease_does h.1 h.2,
    fun _ _ _ _ h => pctlbWrite_does h.1 h.2,
    fun _ _ _ h => dieCommand_fresh h.1 h.2 _,
    pctlbKeepaliveLoss_does,
    fun _ hp => eventAck_does hp,
    pctlbKeepaliveTick_does,
    fun _ a l h => answered_taken (fun x => { x with holder := a, coreLost := l }) h.1 h.2,
    fun _ r a h => answered_taken (fun x => { x with holder := r = 0 && bit a 0 }) h.1 h.2,
    fun _ r h => answered_taken (fun x => { x with written := some r }) h.1 h.2,
    fun _ o v h => answered_taken (fun x => { x with readBack := some (o, v) }) h.1 h.2,
    fun _ _ _ _ _ _ _ _ _ hn hc => answer_ignored hn hc,
    fun _ _ _ _ ho hs => pctlbEvent_again ho hs,
    fun _ _ _ _ ho hs => pctlbEvent_first ho hs,
    fun _ _ ho hc => pctlbResend_partner ho hc,
    fun _ _ hp he => pctlbResend_die hp he⟩

end Sys2Proof.Machine
end

section
/-! PROOFS. Xebirok records: their order, and what each does to the pair (R390 to R395, R398 to R400). -/

namespace Sys2Proof.Machine

section
variable {s : State}

/-! ### Events beside the pair -/

theorem raise_pair (r : EvtReg) (b : Nat) (s : State) : (raise r b s).pair = s.pair :=
  raise_keeps (bl := .pair) r b (Keeps.refl .pair s) (by decide)

theorem raise_frame (r : EvtReg) (b : Nat) (s : State) : Frame [.out, .eic, .fns] s (raise r b s) :=
  fun _ hb => raise_keeps r b (Keeps.refl _ s) hb

/-- An event raised in a state with the outputs of `s` only adds to them. -/
theorem raise_grows_from {r : EvtReg} {b : Nat} {u : State} (hu : u.out = s.out) : Grows s (raise r b u) := by
  obtain ⟨l, hl⟩ := raise_grows r b u
  exact ⟨l, by rw [hl, hu]⟩

theorem bit_or_left {x y : U32} {j : Nat} (h : bit x j = true) : bit (x ||| y) j = true := by
  unfold bit at *; rw [BitVec.getLsbD_or, h, Bool.true_or]

/-- An event that is raised clears no other. -/
theorem raise_leaves_bit (r : EvtReg) (b : Nat) {k j : Nat} (h : bit (evtWord s k) j = true) :
    bit (evtWord (raise r b s) k) j = true := by
  rw [raise_raised r b s k]
  split
  · exact bit_or_left h
  · exact h

theorem frame_setPairRec (s : State) (p : Pair) : Frame [.pair] s { s with pair := p } := fun bl hb => by
  cases bl
  case pair => exact absurd (by decide) hb
  all_goals rfl

/-! ### Records sent -/

theorem xbkSend_frame (typ : Nat) (b : List Byte) (s : State) : Frame [.out, .pair] s (xbkSend typ b s) :=
  fun _ hb => xbkSend_keeps typ b (Keeps.refl _ s) hb

theorem xbkSendOnce_frame (typ : Nat) (b : List Byte) (s : State) : Frame [.out, .pair] s (xbkSendOnce typ b s) :=
  fun _ hb => xbkSendOnce_keeps typ b (Keeps.refl _ s) hb

/-- A record that is sent, where the link is up, changes the sequence and what is kept for resend. -/
theorem xbkSend_pair (typ : Nat) (b : List Byte) (s : State) :
    ∃ q r a, (xbkSend typ b s).pair = { s.pair with txSeq := q, retry := r, ackDue := a } := by
  unfold xbkSend
  split
  · exact ⟨_, _, _, rfl⟩
  · exact ⟨_, _, _, rfl⟩

theorem xbkSend_sends {typ : Nat} {b : List Byte} (h : s.pair.linkUp = true) : ∃ b', .xbk typ b' ∈ (xbkSend typ b s).out := by
  unfold xbkSend
  rw [if_pos h]
  exact ⟨_, List.mem_append_right _ (List.mem_singleton.2 rfl)⟩

theorem xbkSend_grows (typ : Nat) (b : List Byte) (s : State) : Grows s (xbkSend typ b s) := by
  unfold xbkSend
  split
  · exact emit_grows _ s
  · exact Grows.refl s

theorem xbkSendOnce_sends {typ : Nat} {b : List Byte} (h : s.pair.linkUp = true) : ∃ b', .xbk typ b' ∈ (xbkSendOnce typ b s).out := by
  unfold xbkSendOnce
  rw [if_pos h]
  exact ⟨_, List.mem_append_right _ (List.mem_singleton.2 rfl)⟩

theorem xbkSendOnce_pair (typ : Nat) (b : List Byte) (s : State) : ∃ a, (xbkSendOnce typ b s).pair = { s.pair with ackDue := a } := by
  unfold xbkSendOnce
  split
  · exact ⟨_, rfl⟩
  · exact ⟨_, rfl⟩

theorem sendNak_pair (s : State) : ∃ a, (sendNak s).pair = { s.pair with nakSent := true, ackDue := a } := by
  obtain ⟨a, ha⟩ := xbkSendOnce_pair 9 (natLE 4 (s.pair.rxSeq + 1).toNat ++ zeros 4) s
  exact ⟨a, by unfold sendNak; dsimp only; rw [ha]⟩

/-! ### The order of records -/

/-- A kept record has been accepted: its SEQ is the last one, and what its ACK covers is freed. -/
def accepted (h : XbkHdr) (s : State) : State :=
  let v := freeAcked h.ack s
  { v with pair := { v.pair with rxSeq := h.seq, nakSent := false, ackDue := true } }

theorem accepted_frame (h : XbkHdr) (s : State) : Frame [.pair] s (accepted h s) := frame_setPairRec s _

theorem kept_next {h : XbkHdr} (hs : h.seq = s.pair.rxSeq + 1) (f : State → State) : kept h f s = f (accepted h s) :=
  if_pos (beq_iff_eq.2 hs)

theorem kept_stray {h : XbkHdr} (hs : h.seq ≠ s.pair.rxSeq + 1) (f : State → State) :
    kept h f s = noteGap h.seq 1 (freeAcked h.ack s) :=
  if_neg fun k => hs (beq_iff_eq.1 k)

theorem noteGap_pair (q : U32) (n : Nat) (s : State) : ∃ k a, (noteGap q n s).pair = { s.pair with nakSent := k, ackDue := a }
    ∧ (n < (q - s.pair.rxSeq).toNat → (q - s.pair.rxSeq).toNat < 2 ^ 31 → k = true) := by
  unfold noteGap
  dsimp only
  split
  · obtain ⟨a, ha⟩ := sendNak_pair s
    exact ⟨true, a, ha, fun _ _ => rfl⟩
  · next hNone =>
    refine ⟨s.pair.nakSent, s.pair.ackDue, rfl, fun h1 h2 => ?_⟩
    have hSent : s.pair.nakSent ≠ false := fun h3 => hNone (by rw [decide_eq_true h1, decide_eq_true h2, h3]; rfl)
    simpa using hSent

theorem noteGap_frame (q : U32) (n : Nat) (s : State) : Frame [.out, .pair] s (noteGap q n s) :=
  fun _ hb => noteGap_keeps q n (Keeps.refl _ s) hb

/-- A record outside the sequence has been heard: what is kept for resend, the NAK and the ACK may have changed. -/
def Overheard (s u : State) : Prop :=
  Frame [.out, .pair] s u ∧ ∃ r k a, u.pair = { s.pair with retry := r, nakSent := k, ackDue := a }

theorem overheard_noteGap (a q : U32) (n : Nat) (s : State) : Overheard s (noteGap q n (freeAcked a s)) := by
  obtain ⟨k, d, hp, -⟩ := noteGap_pair q n (freeAcked a s)
  exact ⟨((frame_setPairRec s _).mono (by decide)).trans (noteGap_frame q n _), _, k, d, hp⟩

theorem once_overheard (h : XbkHdr) (f : State → State) (s : State) : ∃ u, once h f s = f u ∧ Overheard s u :=
  ⟨_, rfl, overheard_noteGap h.ack h.seq 0 s⟩

/-- A NO_RETRY record that carries the SEQ of the last record kept shows no gap. -/
theorem once_level {h : XbkHdr} (hs : h.seq = s.pair.rxSeq) (f : State → State) : once h f s = f (freeAcked h.ack s) := by
  refine congrArg f (if_neg ?_)
  show ¬ (decide (0 < (h.seq - s.pair.rxSeq).toNat) && _ && _) = true
  rw [hs]; simp

/-! ### What a report of the partner's state does -/

theorem goStale_pair (s : State) : (goStale s).pair = { s.pair with st := .stale } := raise_pair _ _ _

theorem goStale_bit (s : State) : bit (evtWord (goStale s) 149) 4 = true := raise_bit .pair 4 (by decide) _

/-- The state of a part that would stand by. -/
def syncOrStale (s : State) : PairSt := if s.pair.version || !homesAgree s then .stale else .sync

theorem goSync_eq (s : State) : goSync s = if s.pair.version || !homesAgree s
    then goStale { s with pair := { s.pair with claimed := false } }
    else setPair .sync { s with pair := { s.pair with claimed := false } } := rfl

theorem goSync_pair (s : State) : (goSync s).pair = { s.pair with claimed := false, st := syncOrStale s } := by
  rw [goSync_eq]
  unfold syncOrStale
  by_cases h : (s.pair.version || !homesAgree s) = true
  · rw [if_pos h, if_pos h]; exact goStale_pair _
  · rw [if_neg h, if_neg h]; rfl

theorem goSync_grows (s : State) : Grows s (goSync s) := by
  rw [goSync_eq]
  split
  · exact raise_grows_from rfl
  · exact Grows.refl _

/-- The part's state once its partner has reported the state of code `n`. -/
def stBeside (n : Nat) (s : State) : PairSt :=
  match s.pair.st with
  | .activeAlone => if n = 4 then .active else .activeAlone
  | .active => if n = 4 then .active else .activeAlone
  | .discover => if n = 6 || n = 7 then syncOrStale s else .discover
  | st => st

/-- The partner's report has been noted. -/
def reported (n : Nat) (s : State) : State := { s with pair := { s.pair with partner := some n } }

theorem partnerState_eq (n : Nat) (s : State) : partnerState n s = match s.pair.st with
    | .activeAlone => if n = 4 then raise .pair 1 (setPair .active (reported n s)) else reported n s
    | .active => if n = 4 then reported n s else raise .pair 2 (setPair .activeAlone (reported n s))
    | .discover => if n = 6 || n = 7 then goSync (reported n s) else reported n s
    | _ => reported n s := rfl

theorem setPair_same {u : State} {st : PairSt} (h : u.pair.st = st) : u.pair = { u.pair with st := st } := by subst h; rfl

theorem partnerState_pair (n : Nat) (s : State) : ∃ c, (partnerState n s).pair
      = { (reported n s).pair with claimed := c, st := stBeside n s }
    ∧ (s.pair.st ≠ .discover ∨ ¬ (n = 6 ∨ n = 7) → c = s.pair.claimed) := by
  rw [partnerState_eq]
  unfold stBeside
  cases hst : s.pair.st
  case activeAlone =>
    refine ⟨s.pair.claimed, ?_, fun _ => rfl⟩
    dsimp only
    split
    · rw [raise_pair]; rfl
    · exact setPair_same hst
  case active =>
    refine ⟨s.pair.claimed, ?_, fun _ => rfl⟩
    dsimp only
    split
    · exact setPair_same hst
    · rw [raise_pair]; rfl
  case discover =>
    dsimp only
    by_cases hn : (n = 6 || n = 7) = true
    · rw [if_pos hn, if_pos hn]
      exact ⟨false, goSync_pair _, fun h => absurd (by simpa using hn) (h.resolve_left (by simp))⟩
    · rw [if_neg hn, if_neg hn]
      exact ⟨s.pair.claimed, setPair_same hst, fun _ => rfl⟩
  all_goals exact ⟨s.pair.claimed, setPair_same hst, fun _ => rfl⟩

/-- What the statement says of a part whose partner has reported the state of code `n`. -/
theorem partnerState_is {u : State} (n : Nat) (hst : u.pair.st = s.pair.st) :
    (partnerState n u).pair.partner = some n
    ∧ (s.pair.st = .activeAlone → n = 4 → (partnerState n u).pair.st = .active ∧ bit (evtWord (partnerState n u) 149) 1 = true)
    ∧ (s.pair.st = .active → n ≠ 4 → (partnerState n u).pair.st = .activeAlone ∧ bit (evtWord (partnerState n u) 149) 2 = true) := by
  obtain ⟨c, hp, -⟩ := partnerState_pair n u
  refine ⟨by rw [hp]; rfl, fun h hn => ⟨?_, ?_⟩, fun h hn => ⟨?_, ?_⟩⟩
  · rw [hp]; simp only [stBeside, hst, h, if_pos hn]
  · rw [partnerState_eq, hst, h]; dsimp only
    rw [if_pos hn]; exact raise_bit .pair 1 (by decide) _
  · rw [hp]; simp only [stBeside, hst, h, if_neg hn]
  · rw [partnerState_eq, hst, h]; dsimp only
    rw [if_neg hn]; exact raise_bit .pair 2 (by decide) _

end

end Sys2Proof.Machine
end

section
/-! PROOFS. What each Xebirok record does (R390 to R400). -/

namespace Sys2Proof.Machine

section
variable {s : State}

/-! ### The link (R390) -/

theorem ident_length (a b c d e f : Byte) (v : Nat) :
    ([a, b, c, d] ++ natLE 4 v ++ [e, f] ++ zeros 22).length = 32 := by
  simp [natLE, zeros]

theorem xebirokLinkUp_does (l : Fin 5) (hl : live s = true) (hp : s.straps.pairEn = true) (hc : s.pair.st ≠ .conflict)
    (hf : s.pair.st ≠ .failed) (h2 : 2 ≤ l.val) : ∃ t, exec (.xebirokLinkUp l) s = .next t ∧ t.pair.linkUp = true
      ∧ t.pair.lanes = l.val ∧ t.pair.st = s.pair.st ∧ t.pair.txSeq = 1 ∧ t.pair.rxSeq = 0
      ∧ (∃ b, t.pair.retry = [⟨1, 1, b⟩] ∧ b.length = 32) ∧ Frame [.out, .pair] s t := by
  refine ⟨_, runs_of_guard (o := execXebirokLinkUp l s) (s := s) rfl (by simp [hl, hp, hc, hf, h2]), rfl, rfl, rfl, rfl, rfl,
    ⟨_, rfl, ident_length _ _ _ _ _ _ _⟩, ?_⟩
  exact ((frame_setPairRec s _).mono (by decide)).trans (xbkSend_frame _ _ _)

/-- The link is down: nothing is kept for resend. -/
def unlinked (s : State) : State :=
  { s with pair := { s.pair with linkUp := false, lanes := 0, retry := [], nakSent := false, hbOk := false } }

/-- The part's state once its link is down. -/
def stUnlinked : PairSt → PairSt
  | .sync => .stale
  | .standby => .stale
  | .active => .activeAlone
  | st => st

theorem linkDown_eq (s : State) : linkDown s = match s.pair.st with
    | .sync | .standby => raise .pair 4 (setPair .stale (unlinked s))
    | .active => raise .pair 2 (setPair .activeAlone (unlinked s))
    | _ => unlinked s := rfl

theorem linkDown_pair (s : State) : (linkDown s).pair = { (unlinked s).pair with st := stUnlinked s.pair.st } := by
  rw [linkDown_eq]
  cases hst : s.pair.st
  case sync => exact raise_pair _ _ _
  case standby => exact raise_pair _ _ _
  case active => exact raise_pair _ _ _
  all_goals exact setPair_same hst

theorem linkDown_grows (s : State) : Grows s (linkDown s) := by
  rw [linkDown_eq]
  cases s.pair.st
  case sync => exact raise_grows_from rfl
  case standby => exact raise_grows_from rfl
  case active => exact raise_grows_from rfl
  all_goals exact Grows.refl _

theorem linkDown_stale (h : s.pair.st = .sync ∨ s.pair.st = .standby) : bit (evtWord (linkDown s) 149) 4 = true := by
  rw [linkDown_eq]
  rcases h with h | h <;> rw [h] <;> exact raise_bit .pair 4 (by decide) _

theorem linkDown_alone (h : s.pair.st = .active) : bit (evtWord (linkDown s) 149) 2 = true := by
  rw [linkDown_eq, h]
  exact raise_bit .pair 2 (by decide) _

theorem linkDown_leaves_bit {k j : Nat} (h : bit (evtWord s k) j = true) : bit (evtWord (linkDown s) k) j = true := by
  have hRaise : ∀ b st, bit (evtWord (raise .pair b (setPair st (unlinked s))) k) j = true := fun b st => raise_leaves_bit _ _ h
  rw [linkDown_eq]
  cases s.pair.st
  case sync => exact hRaise 4 _
  case standby => exact hRaise 4 _
  case active => exact hRaise 2 _
  all_goals exact h

/-- A lane has dropped, and LANE_DOWN has been raised. -/
def laneLost (l : Nat) (s : State) : State :=
  raise .pair 6 { s with pair := { s.pair with lanes := s.pair.lanes - 1, down := l :: s.pair.down } }

theorem laneLost_pair (l : Nat) (s : State) :
    (laneLost l s).pair = { s.pair with lanes := s.pair.lanes - 1, down := l :: s.pair.down } := raise_pair _ _ _

theorem laneDown_does (l : Fin 4) (hh : hearsXbk s = true) (hd : l.val ∉ s.pair.down) (hn : s.pair.lanes ≠ 0) :
    ∃ t, exec (.laneDown l) s = .next t
      ∧ bit (evtWord t 149) 6 = true ∧ t.pair.down = l.val :: s.pair.down
      ∧ (3 ≤ s.pair.lanes → t.pair.linkUp = true ∧ t.pair.lanes = s.pair.lanes - 1 ∧ t.pair.st = s.pair.st)
      ∧ (s.pair.lanes < 3 → t.pair.linkUp = false ∧ t.pair.retry = []
        ∧ (s.pair.st = .sync ∨ s.pair.st = .standby → t.pair.st = .stale ∧ bit (evtWord t 149) 4 = true)
        ∧ (s.pair.st = .active → t.pair.st = .activeAlone ∧ bit (evtWord t 149) 2 = true)) := by
  have hUp : s.pair.linkUp = true := by
    unfold hearsXbk at hh; simp only [Bool.and_eq_true] at hh; exact hh.2
  have hBit : bit (evtWord (laneLost l.val s) 149) 6 = true := raise_bit .pair 6 (by decide) _
  have hSt : (laneLost l.val s).pair.st = s.pair.st := by rw [laneLost_pair]
  have hRun : exec (.laneDown l) s = .next (if s.pair.lanes - 1 < 2 then linkDown (laneLost l.val s) else laneLost l.val s) :=
    runs_of_guard (o := execLaneDown l s) (s := s) rfl (by simp [hh, hd, hn])
  by_cases h3 : 3 ≤ s.pair.lanes
  · rw [if_neg (by omega)] at hRun
    exact ⟨_, hRun, hBit, by rw [laneLost_pair], fun _ => by rw [laneLost_pair]; exact ⟨hUp, rfl, rfl⟩, fun h => by omega⟩
  · rw [if_pos (by omega)] at hRun
    refine ⟨_, hRun, linkDown_leaves_bit hBit, by rw [linkDown_pair]; exact congrArg Pair.down (laneLost_pair _ _), fun h => absurd h h3,
      fun _ => ⟨by rw [linkDown_pair]; rfl, by rw [linkDown_pair]; rfl, fun h => ⟨?_, linkDown_stale (by rwa [hSt])⟩,
        fun h => ⟨?_, linkDown_alone (by rwa [hSt])⟩⟩⟩
    · rw [linkDown_pair, hSt]
      rcases h with h | h <;> rw [h] <;> rfl
    · rw [linkDown_pair, hSt, h]; rfl

/-! ### Records out of order -/

theorem stray_record {h : XbkHdr} {i n p r c : Byte} {v e : U32} {m : Byte} {d : Instr} (hh : hearsXbk s = true)
    (hs : h.seq ≠ s.pair.rxSeq + 1)
    (hd : d ∈ [Instr.ident h i n p v m r, .xbkClaim h i r, .claimAnswer h i r, .handover h c e, .yield h i]) :
    ∃ t, exec d s = .next t ∧ t.pair.st = s.pair.st ∧ t.pair.rxSeq = s.pair.rxSeq ∧ t.pair.takeover = s.pair.takeover
      ∧ Frame [.out, .pair] s t
      ∧ (1 < (h.seq - s.pair.rxSeq).toNat → (h.seq - s.pair.rxSeq).toNat < 2 ^ 31 → t.pair.nakSent = true) := by
  obtain ⟨k, a, hp, hk⟩ := noteGap_pair h.seq 1 (freeAcked h.ack s)
  refine ⟨noteGap h.seq 1 (freeAcked h.ack s), ?_, by rw [hp]; rfl, by rw [hp]; rfl, by rw [hp]; rfl,
    (overheard_noteGap h.ack h.seq 1 s).1, fun h1 h2 => by rw [hp]; exact hk h1 h2⟩
  have hRun : ∀ f, guarded (hearsXbk s) s (kept h f) = .next (noteGap h.seq 1 (freeAcked h.ack s)) := fun f =>
    (guarded_of hh).trans (congrArg _ (kept_stray hs f))
  simp only [List.mem_cons, List.not_mem_nil, or_false] at hd
  rcases hd with rfl | rfl | rfl | rfl | rfl <;> exact hRun _

/-! ### IDENT, CLAIM and its answer (R394, R395) -/

/-- Version and HOME of the partner are known. -/
def identified (home : Nat) (ver : U32) (step : Nat) (s : State) : State :=
  { s with pair := { s.pair with
    version := ver != s.pwr.version || step != Config.stepping, partnerHome := some home } }

theorem each_disablePort_pair (l : List Nat) (s : State) : (each l disablePort s).pair = s.pair :=
  each_unchanged State.pair l disablePort (fun p _ u => disablePort_keeps (bl := .pair) p (Keeps.refl .pair u) (by decide)) s

/-- The state of a part in conflict, before the manager is told. -/
def conflicted (s : State) : State :=
  let u := each ((s.topo.port.filter fun e => e.2.admin || e.2.enabled).map Prod.fst) disablePort s
  let v := if u.pair.actOut then emit (.act false) u else u
  { v with pair := { v.pair with
    st := .conflict, actOut := false, claimed := false, takeover := none, switchAt := none, yielding := false } }

theorem enterConflict_eq (s : State) : enterConflict s = raise .pair 5 (conflicted s) := rfl

theorem conflicted_pair (s : State) : (conflicted s).pair = { s.pair with
    st := .conflict, actOut := false, claimed := false, takeover := none, switchAt := none, yielding := false } := by
  have hPair : ∀ b u, (if b = true then emit (.act false) u else u).pair = u.pair := fun b u => by split <;> rfl
  unfold conflicted
  dsimp only
  rw [hPair, each_disablePort_pair]

theorem conflicted_act (h : s.pair.actOut = true) : .act false ∈ (conflicted s).out := by
  unfold conflicted
  dsimp only
  rw [each_disablePort_pair, if_pos h]
  exact List.mem_append_right _ (List.mem_singleton.2 rfl)

/-- The IDENT of a part with this part's own PAIR_ID. -/
theorem gotIdent_own {st step home : Nat} {ver : U32} : ∃ t,
    gotIdentRec (ofBool s.straps.pairId) st step home ver s = t
    ∧ t.pair.rxSeq = s.pair.rxSeq ∧ t.pair.partnerHome = some home
    ∧ t.pair.version = (ver != s.pwr.version || step != Config.stepping) ∧ bit (evtWord t 149) 5 = true
    ∧ t.pair.st = (if s.pair.st = .yielded ∨ s.pair.st = .failed then s.pair.st else .conflict)
    ∧ (s.pair.st ≠ .yielded → s.pair.st ≠ .failed → t.pair.actOut = false ∧ (s.pair.actOut = true → .act false ∈ t.out)) := by
  have hRun : gotIdentRec (ofBool s.straps.pairId) st step home ver s
      = if s.pair.st == .yielded || s.pair.st == .failed then raise .pair 5 (identified home ver step s)
        else enterConflict (identified home ver step s) := if_pos rfl
  refine ⟨_, rfl, ?_⟩
  rw [hRun]
  by_cases hOut : s.pair.st = .yielded ∨ s.pair.st = .failed
  · rw [if_pos (by simpa using hOut), if_pos hOut, raise_pair]
    exact ⟨rfl, rfl, rfl, raise_bit .pair 5 (by decide) _, rfl, fun h1 h2 => absurd hOut (not_or.2 ⟨h1, h2⟩)⟩
  · rw [if_neg (by simpa using hOut), if_neg hOut, enterConflict_eq, raise_pair, conflicted_pair]
    exact ⟨rfl, rfl, rfl, raise_bit .pair 5 (by decide) _, rfl,
      fun _ _ => ⟨rfl, fun ha => (raise_grows _ _ _).mem (conflicted_act ha)⟩⟩

/-- The part asks for the role. -/
def claims (s : State) : State :=
  xbkSend 2 ([BitVec.ofNat 8 (ofBool s.straps.pairId), 1] ++ zeros 6) { s with pair := { s.pair with claimed := true } }

/-- The IDENT of a part with the other PAIR_ID. -/
theorem gotIdent_other {id st step home : Nat} {ver : U32} (hi : id ≠ ofBool s.straps.pairId) :
    gotIdentRec id st step home ver s =
      let u := partnerState st (identified home ver step s)
      if u.pair.st == .discover && !u.pair.claimed then claims u else u := if_neg hi

theorem stBeside_discover (n : Nat) (s : State) : stBeside n s = .discover ↔ s.pair.st = .discover ∧ ¬ (n = 6 ∨ n = 7) := by
  unfold stBeside syncOrStale
  cases hst : s.pair.st <;> simp
  all_goals split <;> simp_all

theorem claims_pair (s : State) : ∃ q r a,
    (claims s).pair = { s.pair with claimed := true, txSeq := q, retry := r, ackDue := a } := xbkSend_pair _ _ _

/-- What the statement says of the IDENT of a part with the other PAIR_ID. -/
theorem gotIdent_partner {u : State} {n step home : Nat} {ver : U32} {i : Nat} (hi : i ≠ ofBool u.straps.pairId)
    (hst : u.pair.st = s.pair.st) (hup : u.pair.linkUp = true) : ∃ t, gotIdentRec i n step home ver u = t
    ∧ t.pair.rxSeq = u.pair.rxSeq ∧ t.pair.partnerHome = some home
    ∧ t.pair.version = (ver != u.pwr.version || step != Config.stepping)
    ∧ (t.pair.partner = some n
      ∧ (s.pair.st = .activeAlone → n = 4 → t.pair.st = .active ∧ bit (evtWord t 149) 1 = true)
      ∧ (s.pair.st = .active → n ≠ 4 → t.pair.st = .activeAlone ∧ bit (evtWord t 149) 2 = true))
    ∧ (s.pair.st = .discover → n = 6 ∨ n = 7 →
      t.pair.st = if t.pair.version || home != field u.pair.cfg 0 4 then .stale else .sync)
    ∧ (s.pair.st = .discover → n ≠ 6 → n ≠ 7 → t.pair.st = .discover ∧ t.pair.claimed = true
      ∧ (u.pair.claimed = false → ∃ b, .xbk 2 b ∈ t.out)) := by
  obtain ⟨c, hp, hc⟩ := partnerState_pair n (identified home ver step u)
  obtain ⟨hPartner, hActive, hAlone⟩ := partnerState_is (s := s) (u := identified home ver step u) n hst
  have hRun := gotIdent_other (s := u) (st := n) (step := step) (home := home) (ver := ver) hi
  refine ⟨_, hRun, ?_⟩
  dsimp only
  generalize partnerState n (identified home ver step u) = w at *
  by_cases hD : s.pair.st = .discover ∧ ¬ (n = 6 ∨ n = 7)
  · have hSt : w.pair.st = .discover := by rw [hp]; exact (stBeside_discover n _).2 ⟨hst.trans hD.1, hD.2⟩
    have hClaimed : w.pair.claimed = u.pair.claimed := by rw [hp]; exact hc (.inr hD.2)
    by_cases hAsked : u.pair.claimed = true
    · rw [if_neg (by rw [hClaimed, hAsked]; simp)]
      exact ⟨by rw [hp]; rfl, by rw [hp]; rfl, by rw [hp]; rfl, ⟨hPartner, hActive, hAlone⟩, fun _ hn => absurd hn hD.2,
        fun _ _ _ => ⟨hSt, hClaimed.trans hAsked, fun h => absurd (h.symm.trans hAsked) (by simp)⟩⟩
    · obtain ⟨q, r, a, hq⟩ := claims_pair w
      have hUp : ({ w with pair := { w.pair with claimed := true } } : State).pair.linkUp = true := by rw [hp]; exact hup
      rw [if_pos (by rw [hClaimed, hSt]; simpa using hAsked)]
      refine ⟨by rw [hq, hp]; rfl, by rw [hq, hp]; rfl, by rw [hq, hp]; rfl, ⟨by rw [hq]; exact hPartner, fun h => ?_, fun h => ?_⟩,
        fun _ hn => absurd hn hD.2, fun _ _ _ => ⟨by rw [hq]; exact hSt, by rw [hq], fun _ => xbkSend_sends hUp⟩⟩
      · rw [hD.1] at h; cases h
      · rw [hD.1] at h; cases h
  · have hSt : w.pair.st = stBeside n (identified home ver step u) := by rw [hp]
    have hOther : w.pair.st ≠ .discover := fun h => hD (by
      obtain ⟨h1, h2⟩ := (stBeside_discover n _).1 (hSt.symm.trans h)
      exact ⟨hst.symm.trans h1, h2⟩)
    rw [if_neg (by simp [hOther])]
    refine ⟨by rw [hp]; rfl, by rw [hp]; rfl, by rw [hp]; rfl, ⟨hPartner, hActive, hAlone⟩, fun h hn => ?_,
      fun h h6 h7 => absurd ⟨h, by omega⟩ hD⟩
    have hDisc : (identified home ver step u).pair.st = .discover := hst.trans h
    have hVersion : w.pair.version = (ver != u.pwr.version || step != Config.stepping) := by rw [hp]; rfl
    rw [hSt, hVersion]
    unfold stBeside
    rw [hDisc]
    dsimp only
    rw [if_pos (by simpa using hn)]
    rfl

theorem heard_up (hh : hearsXbk s = true) : s.pair.linkUp = true := by
  unfold hearsXbk at hh
  simp only [Bool.and_eq_true] at hh
  exact hh.2

/-- What the statement says of an IDENT in order. -/
theorem ident_does {h : XbkHdr} {i n p r : Byte} {v : U32} {m : Byte} (hh : hearsXbk s = true) (hs : h.seq = s.pair.rxSeq + 1) :
    ∃ t, exec (.ident h i n p v m r) s = .next t
      ∧ t.pair.rxSeq = h.seq ∧ t.pair.partnerHome = some (m.toNat % 16) ∧ t.pair.version = (v != s.pwr.version || p.toNat != Config.stepping)
      ∧ (i.toNat = ofBool s.straps.pairId → bit (evtWord t 149) 5 = true
        ∧ t.pair.st = (if s.pair.st = .yielded ∨ s.pair.st = .failed then s.pair.st else .conflict)
        ∧ (s.pair.st ≠ .yielded → s.pair.st ≠ .failed → t.pair.actOut = false ∧ (s.pair.actOut = true → .act false ∈ t.out)))
      ∧ (i.toNat ≠ ofBool s.straps.pairId → (t.pair.partner = some n.toNat
          ∧ (s.pair.st = .activeAlone → n.toNat = 4 → t.pair.st = .active ∧ bit (evtWord t 149) 1 = true)
          ∧ (s.pair.st = .active → n.toNat ≠ 4 → t.pair.st = .activeAlone ∧ bit (evtWord t 149) 2 = true))
        ∧ (s.pair.st = .discover → n.toNat = 6 ∨ n.toNat = 7 →
          t.pair.st = if t.pair.version || m.toNat % 16 != field s.pair.cfg 0 4 then .stale else .sync)
        ∧ (s.pair.st = .discover → n.toNat ≠ 6 → n.toNat ≠ 7 → t.pair.st = .discover ∧ t.pair.claimed = true
          ∧ (s.pair.claimed = false → ∃ b, .xbk 2 b ∈ t.out))) := by
  have hRun : exec (.ident h i n p v m r) s
      = .next (gotIdentRec i.toNat n.toNat p.toNat (m.toNat % 16) v (accepted h s)) :=
    (runs_of_guard (o := execIdent h i n p v m r s) (s := s) rfl hh).trans (congrArg _ (kept_next hs _))
  by_cases hi : i.toNat = ofBool s.straps.pairId
  · obtain ⟨t, ht, hRx, hHome, hVersion, hBit, hSt, hAct⟩ := gotIdent_own (s := accepted h s) (st := n.toNat) (step := p.toNat)
      (home := m.toNat % 16) (ver := v)
    rw [hi] at hRun
    exact ⟨t, hRun.trans (congrArg _ ht), hRx, hHome, hVersion, fun _ => ⟨hBit, hSt, hAct⟩, fun k => absurd hi k⟩
  · obtain ⟨t, ht, hRx, hHome, hVersion, hIs, hSync, hClaim⟩ := gotIdent_partner (s := s) (u := accepted h s) (n := n.toNat)
      (step := p.toNat) (home := m.toNat % 16) (ver := v) hi rfl (heard_up hh)
    exact ⟨t, hRun.trans (congrArg _ ht), hRx, hHome, hVersion, fun k => absurd k hi, fun _ => ⟨hIs, hSync, hClaim⟩⟩

/-- The answer to a CLAIM. -/
def claimResult (s : State) : Nat :=
  if isActive s then 1 else if s.pair.claimed && ofBool s.straps.pairId = 0 then 2 else 0

/-- A CLAIM has been answered. -/
def claimAnswered (s : State) : State :=
  xbkSend 3 ([BitVec.ofNat 8 (ofBool s.straps.pairId), BitVec.ofNat 8 (claimResult s)] ++ zeros 6) s

theorem gotClaim_eq (s : State) : gotClaim s = if claimResult s = 0 && (claimAnswered s).pair.st == .discover
    then goSync (claimAnswered s) else claimAnswered s := rfl

theorem claimAnswered_pair (s : State) : ∃ q r a,
    (claimAnswered s).pair = { s.pair with txSeq := q, retry := r, ackDue := a } := xbkSend_pair _ _ _

theorem claimAnswered_sends (h : s.pair.linkUp = true) : ∃ b, .xbk 3 b ∈ (claimAnswered s).out := by
  unfold claimAnswered
  exact xbkSend_sends h

theorem syncOrStale_claimAnswered (s : State) : syncOrStale (claimAnswered s) = syncOrStale s := by
  obtain ⟨q, r, a, hp⟩ := claimAnswered_pair s
  unfold syncOrStale homesAgree
  rw [hp]

theorem xbkClaim_does {h : XbkHdr} {i : Byte} (hh : hearsXbk s = true) (hs : h.seq = s.pair.rxSeq + 1) :
    ∃ t, exec (.xbkClaim h i 1) s = .next t ∧ t.pair.rxSeq = h.seq ∧ (∃ b, .xbk 3 b ∈ t.out)
      ∧ (isActive s = true ∨ s.pair.st ≠ .discover ∨ (s.pair.claimed = true ∧ ofBool s.straps.pairId = 0) → t.pair.st = s.pair.st)
      ∧ (s.pair.st = .discover → ¬ (s.pair.claimed = true ∧ ofBool s.straps.pairId = 0) → t.pair.st = syncOrStale s) := by
  have hRun : exec (.xbkClaim h i 1) s = .next (gotClaim (accepted h s)) :=
    (runs_of_guard (o := execXbkClaim h i 1 s) (s := s) rfl hh).trans (congrArg _ ((kept_next hs _).trans (if_pos rfl)))
  obtain ⟨q, r, a, hp⟩ := claimAnswered_pair (accepted h s)
  obtain ⟨b, hb⟩ := claimAnswered_sends (s := accepted h s) (heard_up hh)
  have hSt : (claimAnswered (accepted h s)).pair.st = s.pair.st := by rw [hp]; rfl
  have hResult : claimResult (accepted h s) = claimResult s := rfl
  rw [gotClaim_eq, hResult, hSt] at hRun
  by_cases hSync : s.pair.st = .discover ∧ ¬ (s.pair.claimed = true ∧ ofBool s.straps.pairId = 0)
  · have hActive : isActive s = false := by unfold isActive; rw [hSync.1]; rfl
    have hGranted : claimResult s = 0 := by
      unfold claimResult
      rw [if_neg (by simp [hActive]), if_neg (by simpa using hSync.2)]
    rw [if_pos (by rw [hGranted, hSync.1]; rfl)] at hRun
    refine ⟨_, hRun, by rw [goSync_pair, hp]; rfl, ⟨b, (goSync_grows _).mem hb⟩, fun k => ?_, fun _ _ => ?_⟩
    · rcases k with k | k | k
      · exact absurd (hActive.symm.trans k) (by simp)
      · exact absurd hSync.1 k
      · exact absurd k hSync.2
    · rw [goSync_pair]; exact syncOrStale_claimAnswered _
  · rw [if_neg ?_] at hRun
    · exact ⟨_, hRun, by rw [hp]; rfl, ⟨b, hb⟩, fun _ => by rw [hp]; rfl, fun h1 h2 => absurd ⟨h1, h2⟩ hSync⟩
    · by_cases hD : s.pair.st = .discover
      · have hRefused : s.pair.claimed = true ∧ ofBool s.straps.pairId = 0 := by
          by_contra hc; exact hSync ⟨hD, hc⟩
        have hActive : isActive s = false := by unfold isActive; rw [hD]; rfl
        have hTwo : claimResult s = 2 := by
          unfold claimResult
          rw [if_neg (by simp [hActive]), if_pos (by simpa using hRefused)]
        rw [hTwo]; simp
      · simp [hD]

theorem claimAnswer_does {h : XbkHdr} {i r : Byte} (hh : hearsXbk s = true) (hs : h.seq = s.pair.rxSeq + 1) :
    ∃ t, exec (.claimAnswer h i r) s = .next t ∧ t.pair.rxSeq = h.seq
      ∧ (s.pair.claimed = true → s.pair.st = .discover →
        (r = 0 → t.pair.st = .activeAlone ∧ t.pair.actOut = true ∧ .act true ∈ t.out) ∧ (r ≠ 0 → t.pair.st = syncOrStale s))
      ∧ (s.pair.claimed = false ∨ s.pair.st ≠ .discover → t.pair.st = s.pair.st) := by
  have hRun : exec (.claimAnswer h i r) s = .next (if s.pair.claimed && s.pair.st == .discover then
      (if r.toNat = 0 then goAlone (accepted h s) else goSync (accepted h s)) else accepted h s) :=
    (runs_of_guard (o := execClaimAnswer h i r s) (s := s) rfl hh).trans (congrArg _ (kept_next hs _))
  by_cases hAsked : s.pair.claimed = true ∧ s.pair.st = .discover
  · have hNot : ¬ (s.pair.claimed = false ∨ s.pair.st ≠ .discover) := by simp [hAsked]
    rw [if_pos (by simpa using hAsked)] at hRun
    by_cases hr : r = 0
    · rw [if_pos (by rw [hr]; rfl)] at hRun
      exact ⟨_, hRun, rfl, fun _ _ => ⟨fun _ => ⟨rfl, rfl, List.mem_append_right _ (List.mem_singleton.2 rfl)⟩, fun k => absurd hr k⟩,
        fun k => absurd k hNot⟩
    · have hCode : ¬ r.toNat = 0 := fun k => hr (BitVec.eq_of_toNat_eq k)
      rw [if_neg hCode] at hRun
      exact ⟨_, hRun, by rw [goSync_pair]; rfl, fun _ _ => ⟨fun k => absurd k hr, fun _ => by rw [goSync_pair]; rfl⟩,
        fun k => absurd k hNot⟩
  · rw [if_neg (by simpa using hAsked)] at hRun
    exact ⟨_, hRun, rfl, fun h1 h2 => absurd ⟨h1, h2⟩ hAsked, fun _ => rfl⟩

/-! ### Records that are not kept for resend (R386, R398, R399) -/

theorem heartbeat_does {h : XbkHdr} {n u : Byte} {e : BitVec 48} {q : U32} (hh : hearsXbk s = true) :
    ∃ t, exec (.heartbeat h n u e q) s = .next t
      ∧ (t.pair.partner = some n.toNat
        ∧ (s.pair.st = .activeAlone → n.toNat = 4 → t.pair.st = .active ∧ bit (evtWord t 149) 1 = true)
        ∧ (s.pair.st = .active → n.toNat ≠ 4 → t.pair.st = .activeAlone ∧ bit (evtWord t 149) 2 = true))
      ∧ (u.toNat = s.tb.uframe → t.pair.hbGot = true ∧ t.pair.misses = 0)
      ∧ (u.toNat ≠ s.tb.uframe → t.pair.hbGot = s.pair.hbGot ∧ t.pair.misses = s.pair.misses) := by
  obtain ⟨v, hv, hFrame, r, k, a, hp⟩ := once_overheard h (fun s => partnerState n.toNat (if u.toNat = s.tb.uframe then
    { s with pair := { s.pair with hbGot := true, misses := 0, hbOk := true } } else s)) s
  have hTb : v.tb = s.tb := hFrame .tb (by decide)
  have hRun : exec (.heartbeat h n u e q) s = _ := (runs_of_guard (o := execHeartbeat h n u e q s) (s := s) rfl hh).trans (congrArg _ hv)
  by_cases hu : u.toNat = s.tb.uframe
  · rw [if_pos (hu.trans (congrArg Timebase.uframe hTb.symm))] at hRun
    generalize hw : ({ v with pair := { v.pair with hbGot := true, misses := 0, hbOk := true } } : State) = w at hRun
    have hGot : w.pair.st = s.pair.st ∧ w.pair.hbGot = true ∧ w.pair.misses = 0 := by rw [← hw, hp]; exact ⟨rfl, rfl, rfl⟩
    obtain ⟨hSt, hHb, hMiss⟩ := hGot
    obtain ⟨c, hq, -⟩ := partnerState_pair n.toNat w
    exact ⟨_, hRun, partnerState_is _ hSt, fun _ => by rw [hq]; exact ⟨hHb, hMiss⟩, fun k => absurd hu k⟩
  · rw [if_neg (fun k => hu (k.trans (congrArg Timebase.uframe hTb)))] at hRun
    have hGot : v.pair.st = s.pair.st ∧ v.pair.hbGot = s.pair.hbGot ∧ v.pair.misses = s.pair.misses := by rw [hp]; exact ⟨rfl, rfl, rfl⟩
    obtain ⟨hSt, hHb, hMiss⟩ := hGot
    obtain ⟨c, hq, -⟩ := partnerState_pair n.toNat v
    exact ⟨_, hRun, partnerState_is _ hSt, fun k => absurd k hu, fun _ => by rw [hq]; exact ⟨hHb, hMiss⟩⟩

theorem followTime_frame (e : BitVec 48) (l k : Nat) (m : U16) (s : State) : Frame [.tb, .pair] s (followTime e l k m s) :=
  fun _ hb => followTime_keeps e l k m (Keeps.refl _ s) hb

theorem time_does {h : XbkHdr} {e : BitVec 48} {l : BitVec 24} {k : Byte} {m : U16} {q : U32} (hh : hearsXbk s = true) :
    ∃ t, exec (.time h e l k m q) s = .next t ∧ Frame [.out, .tb, .pair] s t ∧ t.pair.st = s.pair.st
      ∧ (follows s = true → t.tb.epoch = e ∧ t.tb.flen = l.toNat ∧ t.tb.m = m.toNat + 1 ∧ t.tb.uframe = 0 ∧ t.tb.tick = s.tb.tick)
      ∧ (follows s = false → t.tb = s.tb) := by
  obtain ⟨v, hv, hFrame, r, n, a, hp⟩ := once_overheard h
    (fun s => if follows s then followTime e l.toNat k.toNat m s else s) s
  have hTb : v.tb = s.tb := hFrame .tb (by decide)
  have hSt : v.pair.st = s.pair.st := by rw [hp]
  have hFollows : follows v = follows s := by unfold follows; rw [hSt]
  have hWide : Frame [.out, .tb, .pair] s v := hFrame.mono (by decide)
  have hRun : exec (.time h e l k m q) s = _ := (runs_of_guard (o := execTime h e l k m q s) (s := s) rfl hh).trans (congrArg _ hv)
  rw [hFollows] at hRun
  cases hf : follows s
  · rw [hf] at hRun
    exact ⟨v, hRun, hWide, hSt, fun k => absurd k (by simp), fun _ => hTb⟩
  · rw [hf] at hRun
    refine ⟨_, hRun, hWide.trans ((followTime_frame _ _ _ _ _).mono (by decide)), hSt, fun _ => ⟨rfl, rfl, rfl, rfl, ?_⟩,
      fun k => absurd k (by simp)⟩
    show v.tb.tick = s.tb.tick
    rw [hTb]

theorem trigger_ready {b c : Nat} (hst : s.pair.st = .standby) (ht : s.pair.takeover = none) :
    trigger b c s = { s with pair := { s.pair with takeover := some ⟨b, c⟩ } } := by
  unfold trigger
  rw [if_pos (by rw [hst]; rfl), ht]

theorem fatal_does {h : XbkHdr} {c : Byte} {e : U32} (hh : hearsXbk s = true) : ∃ t, exec (.fatal h c e) s = .next t
      ∧ (s.pair.st = .active → t.pair.st = .activeAlone ∧ bit (evtWord t 149) 2 = true)
      ∧ (s.pair.st = .standby → s.pair.takeover = none → t.pair.takeover = some ⟨now s + 8000, 2⟩ ∧ t.pair.st = .standby) := by
  obtain ⟨v, hv, hFrame, r, n, a, hp⟩ := once_overheard h
    (fun s => if s.pair.st == .active then raise .pair 2 (partnerLost s) else triggerNow 2 s) s
  have hTb : v.tb = s.tb := hFrame .tb (by decide)
  have hSt : v.pair.st = s.pair.st := by rw [hp]
  have hTake : v.pair.takeover = s.pair.takeover := by rw [hp]
  have hNow : now v = now s := by unfold now; rw [hTb]
  have hRun : exec (.fatal h c e) s = _ := (runs_of_guard (o := execFatal h c e s) (s := s) rfl hh).trans (congrArg _ hv)
  refine ⟨_, hRun, fun k => ⟨?_, ?_⟩, fun k1 k2 => ?_⟩
  · rw [if_pos (by rw [hSt, k]; rfl), raise_pair]
    unfold partnerLost
    rw [if_pos (by rw [hSt, k]; rfl)]; rfl
  · rw [if_pos (by rw [hSt, k]; rfl)]
    exact raise_bit .pair 2 (by decide) _
  · rw [if_neg (by rw [hSt, k1]; decide)]
    unfold triggerNow
    rw [trigger_ready (hSt.trans k1) (hTake.trans k2), hNow]
    exact ⟨rfl, hSt.trans k1⟩

/-! ### HANDOVER, YIELD and SHADOW -/

theorem handover_does {h : XbkHdr} {c : Byte} {e : U32} (hh : hearsXbk s = true) (hs : h.seq = s.pair.rxSeq + 1)
    (hst : s.pair.st = .standby) (ht : s.pair.takeover = none) : ∃ t, exec (.handover h c e) s = .next t
      ∧ t.pair.takeover = some ⟨handoverFrom s e, c.toNat⟩ ∧ Frame [.pair] s t := by
  have hRun : exec (.handover h c e) s = .next (trigger (handoverFrom (accepted h s) e) c.toNat (accepted h s)) :=
    (runs_of_guard (o := execHandover h c e s) (s := s) rfl hh).trans (congrArg _ (kept_next hs _))
  rw [trigger_ready (s := accepted h s) hst ht] at hRun
  exact ⟨_, hRun, rfl, (accepted_frame h s).trans (frame_setPairRec _ _)⟩

theorem yield_does {h : XbkHdr} {i : Byte} (hh : hearsXbk s = true) (hs : h.seq = s.pair.rxSeq + 1) :
    ∃ t, exec (.yield h i) s = .next t ∧ (t.pair.partner = some 8
      ∧ (s.pair.st = .activeAlone → 8 = 4 → t.pair.st = .active ∧ bit (evtWord t 149) 1 = true)
      ∧ (s.pair.st = .active → 8 ≠ 4 → t.pair.st = .activeAlone ∧ bit (evtWord t 149) 2 = true)) :=
  ⟨_, (runs_of_guard (o := execYield h i s) (s := s) rfl hh).trans (congrArg _ (kept_next hs _)),
    partnerState_is (s := s) (u := accepted h s) 8 rfl⟩

theorem applyShadow_rxSeq (b : ShadowBody) (s : State) : (applyShadow b s).pair.rxSeq = s.pair.rxSeq := by
  cases b
  case swap e => exact congrArg Pair.rxSeq (swapBanks_keeps (bl := .pair) (Keeps.refl .pair s) (by decide))
  all_goals rfl

/-- What the statement says of a body that has been applied. -/
theorem applyShadow_does (b : ShadowBody) (s : State) : (∀ r g, b = .entry r (some g) → tfind (applyShadow b s).sch.shadow r = some g)
    ∧ (∀ f q x, b = .sq f q x → sq (applyShadow b s) f q = x)
    ∧ (∀ k c, b = .context k (some c) → tfind (applyShadow b s).topo.ctx k = some c)
    ∧ (∀ n d, b = .device n (some d) → dev? (applyShadow b s) n = some d)
    ∧ ∀ r y, b = .other r y → (applyShadow b s).pair.shadow = s.pair.shadow ++ [(r.val, y)] := by
  refine ⟨?_, ?_, ?_, ?_, ?_⟩
  · rintro r g rfl; exact tfind_tput_same _ _ _
  · rintro f q x rfl
    show sq (modSq f q (fun _ => x) s) f q = x
    rw [sq_modSq, if_pos ⟨rfl, rfl⟩]
  · rintro k c rfl; exact tfind_tput_same _ _ _
  · rintro n d rfl; exact tfind_tput_same _ _ _
  · rintro r y rfl; rfl

theorem exec_shadow {h : XbkHdr} {b : ShadowBody} (hh : hearsXbk s = true) (hs : h.seq = s.pair.rxSeq + 1) :
    exec (.shadow h b) s = .next (if s.pair.st == .sync || s.pair.st == .standby then applyShadow b (accepted h s) else accepted h s) :=
  (runs_of_guard (o := execShadow h b s) (s := s) rfl hh).trans (congrArg _ (kept_next hs _))

/-! ### NAK, acknowledgements and record errors (R389, R391, R392) -/

theorem sendHandover_pair (c : Nat) (s : State) : ∃ q r a y w, (sendHandover c s).pair
    = { s.pair with txSeq := q, retry := r, ackDue := a, yielding := y, switchAt := w } := by
  obtain ⟨q, r, a, hp⟩ := xbkSend_pair 7 (codeEpoch c (boundaryAfter20us s)) s
  have hStop : ∀ u, (stopLanes u).pair = u.pair := fun u => stopLanes_keeps (bl := .pair) (Keeps.refl .pair u) (by decide)
  refine ⟨q, r, a, true, some (BitVec.ofNat 32 (boundaryAfter20us s)), ?_⟩
  unfold sendHandover
  dsimp only
  rw [hStop, hp]

theorem sendHandover_grows (c : Nat) (s : State) : Grows s (sendHandover c s) := by
  obtain ⟨l, hl⟩ := (xbkSend_grows 7 (codeEpoch c (boundaryAfter20us s)) s).trans (stopLanes_grows _)
  exact ⟨l, hl⟩

theorem linkLasting_rxSeq (s : State) : (linkLasting s).pair.rxSeq = s.pair.rxSeq := by
  unfold linkLasting
  rw [linkDown_pair]
  show (if _ then _ else _ : State).pair.rxSeq = _
  split
  · obtain ⟨q, r, a, y, w, hp⟩ := sendHandover_pair 5 s
    rw [hp]
  · rfl

theorem linkLasting_grows (s : State) : Grows s (linkLasting s) := by
  unfold linkLasting
  split
  · exact (sendHandover_grows _ _).trans (linkDown_grows _)
  · exact linkDown_grows _

/-- An error of the link changes no sequence of received records and takes back no output. -/
theorem countLink_does (k : Nat) (s : State) : (countError 6 0 k s).pair.rxSeq = s.pair.rxSeq ∧ Grows s (countError 6 0 k s) := by
  by_cases hStop : 0 ∈ (errClass s 6).stopped
  · unfold countError stoppedCounting
    rw [if_pos (by simpa using hStop)]
    exact ⟨rfl, Grows.refl s⟩
  · rw [count_is 6 0 k s hStop]
    split
    · refine ⟨?_, ?_⟩
      · exact (linkLasting_rxSeq _).trans (congrArg Pair.rxSeq (raise_pair _ _ _))
      · refine Grows.trans ?_ (linkLasting_grows _)
        exact raise_grows_from rfl
    · exact ⟨rfl, [], (List.append_nil _).symm⟩

theorem resend_grows (k : Kept) (s : State) : Grows s (resend k s) := by
  unfold resend
  split
  · exact (emit_grows _ s).trans (countLink_does 3 _).2
  · exact Grows.refl s

theorem resend_sends {k : Kept} (h : s.pair.linkUp = true) : ∃ b, .xbk k.typ b ∈ (resend k s).out := by
  unfold resend
  rw [if_pos h]
  exact ⟨_, (countLink_does 3 _).2.mem (List.mem_append_right _ (List.mem_singleton.2 rfl))⟩

theorem xbkNak_does {h : XbkHdr} {q : U32} (hh : hearsXbk s = true) (hs : h.seq = s.pair.rxSeq) : ∃ t, exec (.xbkNak h q) s = .next t
      ∧ (q = s.pair.txSeq + 1 → t = freeAcked h.ack s)
      ∧ (q ≠ s.pair.txSeq + 1 → (∀ k ∈ (freeAcked h.ack s).pair.retry, k.seq ≠ q) → t.pair.linkUp = false)
      ∧ (q ≠ s.pair.txSeq + 1 → (∃ k ∈ (freeAcked h.ack s).pair.retry, k.seq = q) → ∀ k,
        ((freeAcked h.ack s).pair.retry.filter fun k => decide ((k.seq - q).toNat < 2 ^ 31)).head? = some k → ∃ b, .xbk k.typ b ∈ t.out) := by
  have hRun : exec (.xbkNak h q) s = .next (if q == s.pair.txSeq + 1 then freeAcked h.ack s
      else if (freeAcked h.ack s).pair.retry.any fun k => k.seq == q then
        each ((freeAcked h.ack s).pair.retry.filter fun k => decide ((k.seq - q).toNat < 2 ^ 31)) resend (freeAcked h.ack s)
      else linkDown (freeAcked h.ack s)) := (runs_of_guard (o := execXbkNak h q s) (s := s) rfl hh).trans (congrArg _ (once_level hs _))
  refine ⟨_, hRun, fun hq => if_pos (beq_iff_eq.2 hq), fun hq hNone => ?_, fun hq hSome k hk => ?_⟩
  · rw [if_neg (fun k => hq (beq_iff_eq.1 k)), if_neg ?_, linkDown_pair]
    · rfl
    · simpa using hNone
  · rw [if_neg (fun k => hq (beq_iff_eq.1 k)), if_pos ?_]
    · cases hl : (freeAcked h.ack s).pair.retry.filter fun k => decide ((k.seq - q).toNat < 2 ^ 31) with
      | nil => rw [hl] at hk; cases hk
      | cons x l =>
        rw [hl] at hk
        obtain rfl : x = k := Option.some.inj hk
        obtain ⟨b, hb⟩ := resend_sends (s := freeAcked h.ack s) (k := x) (heard_up hh)
        exact ⟨b, (each_grows l resend _ resend_grows).mem hb⟩
    · simpa using hSome

theorem ackOnlyTimer_does (hh : hearsXbk s = true) (ha : s.pair.ackDue = true) : ∃ t, exec .ackOnlyTimer s = .next t
    ∧ t.pair = { s.pair with ackDue := false } ∧ t.out = s.out ++ [.xbk 10 (xbkRecord s 10 2 s.pair.txSeq [])] ∧ Frame [.out, .pair] s t := by
  have hSent : xbkSendOnce 10 [] s = { emit (.xbk 10 (xbkRecord s 10 2 s.pair.txSeq [])) s with
      pair := { s.pair with ackDue := false } } := if_pos (heard_up hh)
  refine ⟨_, runs_of_guard (o := execAckOnlyTimer s) (s := s) rfl (by simp [hh, ha]), by rw [hSent], by rw [hSent]; rfl, xbkSendOnce_frame _ _ _⟩

theorem sendNak_sends (h : s.pair.linkUp = true) : ∃ b, .xbk 9 b ∈ (sendNak s).out := xbkSendOnce_sends h

theorem xebirokRecordError_does (hh : hearsXbk s = true) : ∃ t, exec .xebirokRecordError s = .next t ∧ t.pair.nakSent = true
      ∧ t.pair.rxSeq = s.pair.rxSeq
      ∧ (tget 0 (rolledClass s 6).counts 0 + 1 < errT (errClass s 6) → 0 ∉ (errClass s 6).stopped →
        (errClass t 6).total = (errClass s 6).total + 1 ∧ ∃ b, .xbk 9 b ∈ t.out) := by
  obtain ⟨a, hp⟩ := sendNak_pair (countError 6 0 3 s)
  refine ⟨_, runs_of_guard (o := execXebirokRecordError s) (s := s) rfl hh, by rw [hp], by rw [hp]; exact (countLink_does 3 s).1, fun h1 h2 => ?_⟩
  have hErr : (sendNak (countError 6 0 3 s)).err = (countError 6 0 3 s).err := sendNak_keeps (bl := .err) (Keeps.refl .err _) (by decide)
  refine ⟨?_, ?_⟩
  · unfold errClass
    rw [hErr, count_below 6 0 3 s h2 h1]
    exact congrArg ErrClass.total (tallied_class 6 0 3 s)
  · rw [count_below 6 0 3 s h2 h1]
    exact sendNak_sends (heard_up hh)

end

/-- Settles O14: each record by its place in the order, then by what it does to the pair. -/
theorem pairRecords : Obligations.PairRecords := fun _ =>
  ⟨xebirokLinkUp_does, laneDown_does,
    fun _ _ _ _ _ _ _ _ _ _ hh hs hd => stray_record hh hs hd,
    fun _ _ _ _ _ _ _ hs => ident_does hs.1 hs.2,
    fun _ _ hs => xbkClaim_does hs.1 hs.2,
    fun _ _ _ hs => claimAnswer_does hs.1 hs.2,
    fun _ _ _ _ _ hh => heartbeat_does hh,
    fun _ _ _ _ _ _ hh => time_does hh,
    fun _ _ _ hh => fatal_does hh,
    fun _ _ _ hs hst ht => handover_does hs.1 hs.2 hst ht,
    fun _ _ hs => yield_does hs.1 hs.2,
    fun h b hs => ⟨fun h1 h2 => (exec_shadow hs.1 hs.2).trans (congrArg _ (if_neg (by simp [h1, h2]))),
      fun k => ⟨(exec_shadow hs.1 hs.2).trans (congrArg _ (if_pos (by simpa using k))), applyShadow_rxSeq _ _, applyShadow_does b (accepted h _)⟩⟩,
    fun _ _ hh hs => xbkNak_does hh hs,
    fun h hh hs => (runs_of_guard (o := execAckOnly h _) rfl hh).trans (congrArg _ (once_level hs _)),
    ackOnlyTimer_does, xebirokRecordError_does⟩

end Sys2Proof.Machine
end

section
/-! PROOFS. Roles of a pair: the gander timer, takeover, discovery, resynchronisation and the pair commands (R394 to R414). -/

namespace Sys2Proof.Machine

section
variable {s : State}

/-! ### The gander timer (R397, R398, R404) -/

theorem windowGuard_of (hl : live s = true)
    (on : s.straps.pairEn = true ∧ s.pair.st ≠ .single ∧ s.pair.st ≠ .conflict ∧ s.pair.st ≠ .failed) :
    (live s && s.straps.pairEn && s.pair.st != .single && s.pair.st != .conflict && s.pair.st != .failed) = true := by
  obtain ⟨hEn, h1, h2, h3⟩ := on
  simp [hl, hEn, h1, h2, h3]

/-- The windows of a microframe have ended, and the misses are counted. -/
def windowCounted (tog : Bool) (s : State) : State :=
  let m := if s.pair.hbGot then 0 else min 3 s.pair.misses + 1
  let q := if tog then 0 else min 3 s.pair.silent + 1
  { s with pair := { s.pair with
    misses := m, silent := q, hbGot := false, hbOk := decide (m < 3) && s.pair.hbOk,
    senseOk := tog || (s.pair.senseOk && decide (q < 3)) } }

theorem windowEnd_eq (tog : Bool) (s : State) : windowEnd tog s =
    if 3 ≤ (if s.pair.hbGot then 0 else min 3 s.pair.misses + 1) && s.pair.partner.isSome then thirdMiss (windowCounted tog s)
    else windowCounted tog s := rfl

theorem windowCounted_frame (tog : Bool) (s : State) : Frame [.pair] s (windowCounted tog s) := frame_setPairRec s _

/-- A window in which a heartbeat came. -/
theorem window_heard {tog : Bool} (hl : live s = true)
    (on : s.straps.pairEn = true ∧ s.pair.st ≠ .single ∧ s.pair.st ≠ .conflict ∧ s.pair.st ≠ .failed) (hg : s.pair.hbGot = true) :
    ∃ t, exec (.ganderWindowEnd tog) s = .next t ∧ t.pair.misses = 0 ∧ t.pair.hbGot = false ∧ t.pair.st = s.pair.st ∧ Frame [.pair] s t := by
  refine ⟨windowCounted tog s, ?_, if_pos hg, rfl, rfl, windowCounted_frame tog s⟩
  refine (runs_of_guard (o := execGanderWindowEnd tog s) (s := s) rfl (windowGuard_of hl on)).trans (congrArg _ ?_)
  rw [windowEnd_eq, if_pos hg]
  rfl

/-- The third window without a heartbeat has been noted: HB_LOST. -/
def lossNoted (s : State) : State := if s.pair.misses = 3 then raise .pair 2 s else s

theorem lossNoted_pair (s : State) : (lossNoted s).pair = s.pair := by
  unfold lossNoted
  split
  · exact raise_pair _ _ _
  · rfl

theorem lossNoted_bit (h : s.pair.misses = 3) : bit (evtWord (lossNoted s) 149) 2 = true := by
  unfold lossNoted
  rw [if_pos h]
  exact raise_bit .pair 2 (by decide) _

theorem now_lossNoted (s : State) : now (lossNoted s) = now s := by
  unfold lossNoted
  split
  · exact congrArg (fun x : Timebase => x.tick.toNat) (raise_frame .pair 2 s .tb (by decide))
  · rfl

theorem goStale_leaves_bit {k j : Nat} (h : bit (evtWord s k) j = true) : bit (evtWord (goStale s) k) j = true :=
  raise_leaves_bit _ _ h

theorem partnerLost_pair (s : State) : (partnerLost s).pair = { s.pair with
    st := if s.pair.st = .active then .activeAlone else s.pair.st } := by
  unfold partnerLost
  by_cases h : s.pair.st = .active
  · rw [if_pos (by rw [h]; rfl), if_pos h]; rfl
  · rw [if_neg (by simpa using h), if_neg h]

theorem partnerLost_eic (s : State) : (partnerLost s).eic = s.eic := by
  unfold partnerLost
  split <;> rfl

theorem evtWord_of_eic {s t : State} (h : t.eic = s.eic) (k : Nat) : evtWord t k = evtWord s k := by unfold evtWord; rw [h]

theorem thirdMiss_eq (s : State) : thirdMiss s =
    if (lossNoted s).pair.silent < 3 then
      if (lossNoted s).pair.misses = 3 then
        let s := raise .pair 3 (lossNoted s)
        if s.pair.st == .standby || s.pair.st == .sync then goStale s else partnerLost s
      else lossNoted s
    else if (lossNoted s).pair.st == .standby then triggerNow 1 (lossNoted s)
    else if (lossNoted s).pair.st == .sync then goStale (lossNoted s)
    else partnerLost (lossNoted s) := rfl

theorem trigger_pair (b c : Nat) (s : State) : ∃ k, (trigger b c s).pair = { s.pair with takeover := k } := by
  unfold trigger
  repeat' split
  all_goals exact ⟨_, rfl⟩

theorem trigger_eic (b c : Nat) (s : State) : (trigger b c s).eic = s.eic := by
  unfold trigger
  repeat' split
  all_goals rfl

/-- A split link: the sense line is alive (R397). -/
theorem thirdMiss_split (hm : s.pair.misses = 3) (hq : s.pair.silent < 3) : ∃ t, thirdMiss s = t
    ∧ t.pair.hbGot = s.pair.hbGot ∧ t.pair.misses = s.pair.misses
    ∧ (s.pair.st = .standby ∨ s.pair.st = .sync → t.pair.st = .stale ∧ bit (evtWord t 149) 4 = true)
    ∧ (s.pair.st = .active → t.pair.st = .activeAlone)
    ∧ bit (evtWord t 149) 2 = true ∧ bit (evtWord t 149) 3 = true := by
  have hPair : (raise .pair 3 (lossNoted s)).pair = s.pair := (raise_pair _ _ _).trans (lossNoted_pair s)
  have hTwo : bit (evtWord (raise .pair 3 (lossNoted s)) 149) 2 = true := raise_leaves_bit _ _ (lossNoted_bit hm)
  have hThree : bit (evtWord (raise .pair 3 (lossNoted s)) 149) 3 = true := raise_bit .pair 3 (by decide) _
  have hRun : thirdMiss s = if s.pair.st == .standby || s.pair.st == .sync then goStale (raise .pair 3 (lossNoted s))
      else partnerLost (raise .pair 3 (lossNoted s)) := by
    rw [thirdMiss_eq, lossNoted_pair, if_pos hq, if_pos hm, ← hPair]
  refine ⟨_, hRun, ?_⟩
  by_cases hst : s.pair.st = .standby ∨ s.pair.st = .sync
  · rw [if_pos (by simpa using hst)]
    refine ⟨by rw [goStale_pair, hPair], by rw [goStale_pair, hPair], fun _ => ⟨by rw [goStale_pair], goStale_bit _⟩, fun h => ?_,
      goStale_leaves_bit hTwo, goStale_leaves_bit hThree⟩
    rw [h] at hst; simp at hst
  · rw [if_neg (by simpa using hst), partnerLost_pair, hPair, evtWord_of_eic (partnerLost_eic _)]
    exact ⟨rfl, rfl, fun h => absurd h hst, fun h => if_pos h, hTwo, hThree⟩

/-- A dead partner: the sense line is silent too (R404). -/
theorem thirdMiss_dead (hq : 3 ≤ s.pair.silent) : ∃ t, thirdMiss s = t
    ∧ t.pair.hbGot = s.pair.hbGot ∧ t.pair.misses = s.pair.misses
    ∧ (s.pair.st = .standby → s.pair.takeover = none → t.pair.takeover = some ⟨now s + 8000, 1⟩ ∧ t.pair.st = .standby)
    ∧ (s.pair.st = .active → t.pair.st = .activeAlone)
    ∧ (s.pair.misses = 3 → bit (evtWord t 149) 2 = true) := by
  have hPair := lossNoted_pair s
  have hRun : thirdMiss s = if s.pair.st == .standby then triggerNow 1 (lossNoted s)
      else if s.pair.st == .sync then goStale (lossNoted s) else partnerLost (lossNoted s) := by
    rw [thirdMiss_eq, hPair, if_neg (by omega)]
  refine ⟨_, hRun, ?_⟩
  by_cases hst : s.pair.st = .standby
  · rw [if_pos (by simpa using hst)]
    obtain ⟨k, hk⟩ := trigger_pair (now (lossNoted s) + 8000) 1 (lossNoted s)
    have hKept : (triggerNow 1 (lossNoted s)).pair = { s.pair with takeover := k } := by rw [← hPair]; exact hk
    have hGot : (triggerNow 1 (lossNoted s)).pair.hbGot = s.pair.hbGot := by rw [hKept]
    have hMiss : (triggerNow 1 (lossNoted s)).pair.misses = s.pair.misses := by rw [hKept]
    refine ⟨hGot, hMiss, fun _ ht => ?_, fun h => ?_, fun h => ?_⟩
    · unfold triggerNow
      rw [trigger_ready ((congrArg Pair.st hPair).trans hst) ((congrArg Pair.takeover hPair).trans ht), now_lossNoted]
      exact ⟨rfl, (congrArg Pair.st hPair).trans hst⟩
    · rw [hst] at h; cases h
    · rw [evtWord_of_eic (show (triggerNow 1 (lossNoted s)).eic = _ from trigger_eic _ _ _)]; exact lossNoted_bit h
  · rw [if_neg (by simpa using hst)]
    by_cases hSync : s.pair.st = .sync
    · rw [if_pos (by simpa using hSync), goStale_pair, hPair]
      refine ⟨rfl, rfl, fun h => absurd h hst, fun h => ?_, fun h => goStale_leaves_bit (lossNoted_bit h)⟩
      rw [hSync] at h; cases h
    · rw [if_neg (by simpa using hSync), partnerLost_pair, hPair, evtWord_of_eic (partnerLost_eic _)]
      exact ⟨rfl, rfl, fun h => absurd h hst, fun h => if_pos h, fun h => lossNoted_bit h⟩

/-- The third window without a heartbeat. -/
theorem window_third {tog : Bool} (hl : live s = true)
    (on : s.straps.pairEn = true ∧ s.pair.st ≠ .single ∧ s.pair.st ≠ .conflict ∧ s.pair.st ≠ .failed) (hg : s.pair.hbGot = false)
    (hm : 2 ≤ s.pair.misses) (hp : s.pair.partner ≠ none) (hs : if tog then s.pair.misses = 2 else 2 ≤ s.pair.silent) :
    ∃ t, exec (.ganderWindowEnd tog) s = .next t ∧ t.pair.hbGot = false ∧ t.pair.misses = min 3 s.pair.misses + 1
      ∧ (tog = false → s.pair.st = .standby → s.pair.takeover = none → t.pair.takeover = some ⟨now s + 8000, 1⟩ ∧ t.pair.st = .standby)
      ∧ (tog = true → s.pair.st = .standby ∨ s.pair.st = .sync → t.pair.st = .stale ∧ bit (evtWord t 149) 4 = true)
      ∧ (s.pair.st = .active → t.pair.st = .activeAlone)
      ∧ (s.pair.misses = 2 → bit (evtWord t 149) 2 = true) ∧ (tog = true → bit (evtWord t 149) 3 = true) := by
  have hNone : ¬ s.pair.hbGot = true := by simp [hg]
  have hMisses : (windowCounted tog s).pair.misses = min 3 s.pair.misses + 1 := if_neg hNone
  have hRun : exec (.ganderWindowEnd tog) s = .next (thirdMiss (windowCounted tog s)) := by
    refine (runs_of_guard (o := execGanderWindowEnd tog s) (s := s) rfl (windowGuard_of hl on)).trans (congrArg _ ?_)
    rw [windowEnd_eq, if_neg hNone, if_pos]
    rw [Bool.and_eq_true, decide_eq_true_eq]
    exact ⟨by omega, Option.isSome_iff_ne_none.2 hp⟩
  cases tog
  · have hSilent : 2 ≤ s.pair.silent := by simpa using hs
    have hLong : 3 ≤ (windowCounted false s).pair.silent := by
      show 3 ≤ min 3 s.pair.silent + 1
      omega
    obtain ⟨t, ht, hGot, hMiss, hTake, hAlone, hBit⟩ := thirdMiss_dead hLong
    exact ⟨t, hRun.trans (congrArg _ ht), hGot, hMiss.trans hMisses, fun _ => hTake, fun h => absurd h (by simp), hAlone,
      fun h => hBit (hMisses.trans (by omega)), fun h => absurd h (by simp)⟩
  · have hTwo : s.pair.misses = 2 := by simpa using hs
    have hThree : (windowCounted true s).pair.misses = 3 := hMisses.trans (by omega)
    obtain ⟨t, ht, hGot, hMiss, hStale, hAlone, hBit, hSplit⟩ := thirdMiss_split hThree (by decide : (0 : Nat) < 3)
    exact ⟨t, hRun.trans (congrArg _ ht), hGot, hMiss.trans hMisses, fun h => absurd h (by simp), fun _ => hStale, hAlone,
      fun _ => hBit, fun _ => hSplit⟩

/-! ### Takeover (R404, R405) -/

/-- The role has been taken over. -/
def tookRole (cause : Nat) (s : State) : State :=
  emit (.act true) { s with
    pair := { s.pair with
      st := .activeAlone, actOut := true, takeover := none, switchAt := none, yielding := false, claimed := false
      takeovers := if s.pair.takeovers = 255 then 255 else s.pair.takeovers + 1
      last := BitVec.ofNat 64 (cause + epoch32 s 0 * 2 ^ 32) } }

theorem writeAgain_pair (s : State) : (writeAgain s).pair = { s.pair with unconfirmed := [] } := by
  unfold writeAgain
  dsimp only
  rw [each_unchanged State.pair]
  intro w _ u
  exact hostWrite_keeps (bl := .pair) _ _ _ (Keeps.refl .pair u) (by decide)

theorem takeoverNotices_pair (s : State) : (takeoverNotices s).pair = { s.pair with notices := s.pair.notices + 1 } := by
  unfold takeoverNotices
  dsimp only
  rw [each_unchanged State.pair]
  intro f _ u
  exact postOut_keeps (bl := .pair) _ _ (Keeps.refl .pair u) (by decide)

/-- What the takeover does to ports, dies and queues leaves the pair's own state. -/
theorem takeOver_pair (cause : Nat) (s : State) : (takeOver cause s).pair
    = { (tookRole cause s).pair with unconfirmed := [], notices := s.pair.notices + 1 } := by
  have hTable : ∀ u, (takeTable u).pair = u.pair := fun u => takeTable_keeps (bl := .pair) (Keeps.refl .pair u) (by decide)
  have hSof : ∀ l u, (each l (boundarySof 0) u).pair = u.pair := fun l =>
    each_unchanged State.pair l _ fun p _ u => boundarySof_keeps (bl := .pair) 0 p (Keeps.refl .pair u) (by decide)
  have hLinks : ∀ l u, (each l linkRecovery u).pair = u.pair := fun l =>
    each_unchanged State.pair l _ fun p _ u => linkRecovery_keeps (bl := .pair) p (Keeps.refl .pair u) (by decide)
  have hDies : ∀ u, (claimDies u).pair = u.pair := fun u => claimDies_keeps (bl := .pair) (Keeps.refl .pair u) (by decide)
  have hQueues : ∀ l u, (each l (fun f s => each (((fn s f).sq.filter fun q => q.2.created).map Prod.fst) (failoverSq f) s) u).pair
      = u.pair := fun l => each_unchanged State.pair l _ fun f _ u => each_unchanged State.pair _ _
        (fun q _ v => failoverSq_keeps (bl := .pair) f q (Keeps.refl .pair v) (by decide)) u
  have hSignal : ∀ u, (signalCounted u).pair = u.pair := fun u => signalCounted_keeps (bl := .pair) (Keeps.refl .pair u) (by decide)
  unfold takeOver
  dsimp only
  rw [raise_pair, takeoverNotices_pair, hSignal, writeAgain_pair, hQueues, hDies, hLinks, hSof, hTable]
  rfl

theorem takeover_does {tk : Takeover} (hl : live s = true) (hst : s.pair.st = .standby) (ht : s.pair.takeover = some tk)
    (hu : s.tb.uframe = 0) (hb : tk.notBefore ≤ s.tb.frameAt) : ∃ t, exec .takeover s = .next t
      ∧ t.pair.st = .activeAlone ∧ t.pair.actOut = true ∧ t.pair.takeover = none
      ∧ t.pair.takeovers = (if s.pair.takeovers = 255 then 255 else s.pair.takeovers + 1)
      ∧ t.pair.last = BitVec.ofNat 64 (tk.cause + epoch32 s 0 * 2 ^ 32) ∧ t.pair.notices = s.pair.notices + 1 ∧ t.pair.unconfirmed = []
      ∧ bit (evtWord t 149) 0 = true := by
  have hRun : exec .takeover s = .next (takeOver tk.cause s) := by
    refine (runs_of_guard (o := execTakeover s) (s := s) rfl (by simp [hl, takeoverDue, hst, ht, hu, hb])).trans ?_
    rw [ht]; rfl
  have hBit : bit (evtWord (takeOver tk.cause s) 149) 0 = true := by
    unfold takeOver
    exact raise_bit .pair 0 (by decide) _
  refine ⟨_, hRun, ?_⟩
  rw [takeOver_pair]
  exact ⟨rfl, rfl, rfl, rfl, rfl, rfl, rfl, hBit⟩

/-! ### Timers and roles (R394 to R396, R401) -/

theorem discoverTimeout_does (hl : live s = true) (hst : s.pair.st = .discover) (hd : s.pair.linkUp = false) :
    ∃ t, exec .discoverTimeout s = .next t
      ∧ (s.pair.senseOk = true → s.straps.pairId = true → t.pair.st = .stale ∧ bit (evtWord t 149) 4 = true)
      ∧ (s.pair.senseOk = false ∨ s.straps.pairId = false → t.pair.st = .activeAlone ∧ t.pair.actOut = true ∧ .act true ∈ t.out) := by
  refine ⟨_, runs_of_guard (o := execDiscoverTimeout s) (s := s) rfl (by simp [hl, hst, hd]), fun h1 h2 => ?_, fun h => ?_⟩
  · rw [if_pos (by simp [h1, h2]), goStale_pair]
    exact ⟨rfl, goStale_bit _⟩
  · rw [if_neg (by rcases h with h | h <;> simp [h])]
    exact ⟨rfl, rfl, List.mem_append_right _ (List.mem_singleton.2 rfl)⟩

theorem syncDone_does (hl : live s = true) (hst : s.pair.st = .sync) (hu : s.pair.linkUp = true) : ∃ t, exec .syncDone s = .next t
      ∧ (s.pair.version = false → homesAgree s = true → t.pair.st = .standby ∧ Frame [.out, .slots, .pair] s t)
      ∧ (s.pair.version = true ∨ homesAgree s = false → t.pair.st = .stale ∧ bit (evtWord t 149) 4 = true) := by
  refine ⟨_, runs_of_guard (o := execSyncDone s) (s := s) rfl (by simp [hl, hst, hu]), fun h1 h2 => ?_, fun h => ?_⟩
  · rw [if_neg (by simp [h1, h2])]
    refine ⟨rfl, Frame.trans (each_frame _ _ (fun g u => ?_) s) ((frame_setPairRec _ _).mono (by decide))⟩
    exact fun bl hb => handOver_keeps g (Keeps.refl bl u) (notMem_of hb rfl)
  · rw [if_pos (by rcases h with h | h <;> simp [h]), goStale_pair]
    exact ⟨rfl, goStale_bit _⟩

theorem enterYielded_pair (s : State) : ∃ q r a, (enterYielded s).pair = { s.pair with
    txSeq := q, retry := r, ackDue := a, st := .yielded, actOut := false, yielding := false, switchAt := none } := by
  have hStop : ∀ u, (stopLanes u).pair = u.pair := fun u => stopLanes_keeps (bl := .pair) (Keeps.refl .pair u) (by decide)
  have hDies : ∀ l, (each l (fun g s => if homeOf s g then handOver g s else s) s).pair = s.pair := fun l =>
    each_unchanged State.pair l _ (fun g _ u => by
      split
      · exact handOver_keeps (bl := .pair) g (Keeps.refl .pair u) (by decide)
      · rfl) s
  unfold enterYielded
  dsimp only
  generalize hv : each (List.range 4) (fun g s => if homeOf s g then handOver g s else s) s = v
  have hPair : (stopLanes v).pair = s.pair := (hStop v).trans (hv ▸ hDies _)
  obtain ⟨q, r, a, hp⟩ := xbkSend_pair 8 (BitVec.ofNat 8 (ofBool (stopLanes v).straps.pairId) :: zeros 7) (stopLanes v)
  refine ⟨q, r, a, ?_⟩
  rw [emit_pair, hp, hPair]

theorem pairActConflict_does (hl : live s = true) (he : s.straps.pairEn = true) (hi : s.straps.pairId = true)
    (ha : s.pair.actOut = true) (hr : isActive s = true) : ∃ t, exec .pairActConflict s = .next t ∧ t.pair.st = .yielded
      ∧ t.pair.actOut = false ∧ .act false ∈ t.out ∧ t.pair.switchAt = none := by
  obtain ⟨q, r, a, hp⟩ := enterYielded_pair s
  refine ⟨enterYielded s, runs_of_guard (o := execPairActConflict s) (s := s) rfl (by simp [hl, he, hi, ha, hr]), by rw [hp], by rw [hp],
    List.mem_append_right _ (List.mem_singleton.2 rfl), by rw [hp]⟩

/-! ### Commands (R411) -/

/-- What bars PAIR_SWITCH and PAIR_RESYNC, as the statement has it, with the result `e` where nothing does. -/
def pairBarred (s : State) (ctx : CmdCtx) (e : Nat) : Nat :=
  if sender ctx.chan ≠ 0 then 1 else if s.pair.st = .single then 2
  else if s.pair.switchAt ≠ none ∨ s.pair.yielding = true then 4 else if s.pair.version = true then 5 else e

theorem pairBar_eq (s : State) (ctx : CmdCtx) (e : Nat) : pairBarred s ctx e = if pairBar s ctx = 0 then e else pairBar s ctx := by
  have hBar : pairBar s ctx = pairBarred s ctx 0 := by
    unfold pairBar pairBarred
    simp only [bne_iff_ne, beq_iff_eq, Bool.or_eq_true, Option.isSome_iff_ne_none]
  rw [hBar]
  unfold pairBarred
  repeat' split
  all_goals simp_all

theorem reply_frame (ctx : CmdCtx) (code : Nat) (b : List Byte) (s : State) : Frame [.out, .mail, .fns] s (reply ctx code b s) :=
  fun _ hb => reply_keeps ctx code b (Keeps.refl _ s) hb

theorem begun_frame (ctx : CmdCtx) (code : Nat) (s : State) : Frame [.mail] s (begun ctx code s) :=
  fun _ hb => begun_keeps ctx code (Keeps.refl _ s) hb

/-- A command that is begun and answered, with nothing else done. -/
theorem answered_at_once (ctx : CmdCtx) (code : Nat) (b : List Byte) (s : State) :
    Answered ctx code b s (reply ctx code b (begun ctx code s))
      ∧ Frame [.out, .mail, .fns] s (reply ctx code b (begun ctx code s)) :=
  ⟨reply_from rfl (begun_bufs ctx code s), ((begun_frame ctx code s).mono (by decide)).trans (reply_frame _ _ _ _)⟩

theorem pairQuery_does (hl : live s = true) (ctx : CmdCtx) : ∃ t, exec (.pairQuery ctx) s = .next t
    ∧ Answered ctx 0x90 (pairReply s (if sender ctx.chan ≠ 0 then 1 else 0) 0) s t ∧ Frame [.out, .mail, .fns] s t := by
  have hRun : exec (.pairQuery ctx) s = .next (reply ctx 0x90 (pairReply s (if sender ctx.chan ≠ 0 then 1 else 0) 0) (begun ctx 0x90 s)) := by
    refine (runs_of_guard (o := execPairQuery ctx s) (s := s) rfl hl).trans (congrArg _ ?_)
    simp only [← bne_iff_ne]
    rfl
  exact ⟨_, hRun, answered_at_once ctx 0x90 _ s⟩

theorem pairResync_does (hl : live s = true) (ctx : CmdCtx) : ∃ t, exec (.pairResync ctx) s = .next t ∧ Frame [.out, .mail, .fns] s t
    ∧ Answered ctx 0x92 (pairReply s (pairBarred s ctx (if s.pair.linkUp = true ∧ s.pair.partner = some 5 then 0 else 3)) 0) s t := by
  have hRes : pairBarred s ctx (if s.pair.linkUp = true ∧ s.pair.partner = some 5 then 0 else 3)
      = if pairBar s ctx = 0 && !(s.pair.linkUp && s.pair.partner == some 5) then 3 else pairBar s ctx := by
    rw [pairBar_eq]
    by_cases hBar : pairBar s ctx = 0 <;> by_cases hStale : s.pair.linkUp = true ∧ s.pair.partner = some 5 <;> simp [hBar, hStale]
  have hRun : exec (.pairResync ctx) s = .next (reply ctx 0x92
      (pairReply s (pairBarred s ctx (if s.pair.linkUp = true ∧ s.pair.partner = some 5 then 0 else 3)) 0) (begun ctx 0x92 s)) := by
    rw [hRes]
    exact runs_of_guard (o := execPairResync ctx s) (s := s) rfl hl
  obtain ⟨hAns, hFrame⟩ := answered_at_once ctx 0x92
    (pairReply s (pairBarred s ctx (if s.pair.linkUp = true ∧ s.pair.partner = some 5 then 0 else 3)) 0) s
  exact ⟨_, hRun, hFrame, hAns⟩

/-- The result of PAIR_SWITCH. -/
theorem switchResult (s : State) (ctx : CmdCtx) : (if pairBar s ctx = 0 && s.pair.st != .active then 3 else pairBar s ctx)
    = pairBarred s ctx (if s.pair.st = .active then 0 else 3) := by
  rw [pairBar_eq]
  by_cases hBar : pairBar s ctx = 0 <;> by_cases hAct : s.pair.st = .active <;> simp [hBar, hAct]

theorem exec_pairSwitch (hl : live s = true) (ctx : CmdCtx) (e : U32) : exec (.pairSwitch ctx e) s =
    .next (if pairBarred s ctx (if s.pair.st = .active then 0 else 3) = 0 then
        let u := begun ctx 0x91 s
        reply ctx 0x91 (pairReply s 0 (switchBoundary s e)) { u with pair := { s.pair with switchAt := some (switchBoundary s e) } }
      else reply ctx 0x91 (pairReply s (pairBarred s ctx (if s.pair.st = .active then 0 else 3)) 0) (begun ctx 0x91 s)) := by
  rw [← switchResult]
  exact runs_of_guard (o := execPairSwitch ctx e s) (s := s) rfl hl

theorem pairSwitch_does (hl : live s = true) (ctx : CmdCtx) (e : U32) : ∃ t, exec (.pairSwitch ctx e) s = .next t
    ∧ Frame [.out, .mail, .fns, .pair] s t
    ∧ (pairBarred s ctx (if s.pair.st = .active then 0 else 3) ≠ 0 → t.pair = s.pair
      ∧ Answered ctx 0x91 (pairReply s (pairBarred s ctx (if s.pair.st = .active then 0 else 3)) 0) s t)
    ∧ (pairBarred s ctx (if s.pair.st = .active then 0 else 3) = 0 → t.pair = { s.pair with switchAt := some (switchBoundary s e) }
      ∧ Answered ctx 0x91 (pairReply s 0 (switchBoundary s e)) s t) := by
  have hRun := exec_pairSwitch hl ctx e
  by_cases hRes : pairBarred s ctx (if s.pair.st = .active then 0 else 3) = 0
  · rw [if_pos hRes] at hRun
    refine ⟨_, hRun, ?_, fun h => absurd hRes h, fun _ => ⟨reply_pair _ _ _ _, reply_from rfl (begun_bufs ctx 0x91 s)⟩⟩
    exact ((begun_frame ctx 0x91 s).mono (by decide)).trans (((frame_setPairRec _ _).mono (by decide)).trans ((reply_frame _ _ _ _).mono (by decide)))
  · rw [if_neg hRes] at hRun
    obtain ⟨hAns, hFrame⟩ := answered_at_once ctx 0x91 (pairReply s (pairBarred s ctx (if s.pair.st = .active then 0 else 3)) 0) s
    exact ⟨_, hRun, hFrame.mono (by decide), fun _ => ⟨hFrame .pair (by decide), hAns⟩, fun h => absurd h hRes⟩

end

/-- Settles O15: the gander timer by its third window, the roles by their equations, the pair commands by what bars them. -/
theorem pairRoles : Obligations.PairRoles := fun _ hl =>
  ⟨fun _ ⟨hOn, hGot, hMisses, hPartner, hSense⟩ => window_third hl hOn hGot hMisses hPartner hSense,
    fun _ hOn hGot => window_heard hl hOn hGot,
    fun _ hst ht hu hb => takeover_does hl hst ht hu hb,
    discoverTimeout_does hl, syncDone_does hl,
    fun h1 h2 h3 h4 => runs_of_guard (o := execStaleResyncTimer _) rfl (by simp [hl, h1, h2, h3, h4]),
    pairActConflict_does hl, pairQuery_does hl, pairSwitch_does hl, pairResync_does hl⟩

end Sys2Proof.Machine
end

section
/-! PROOFS. Internal errors: counting, lasting faults, engine reset, and the loss of a core (R379 to R386). -/

namespace Sys2Proof.Machine

section
variable {s : State}

/-! ### A corrected error is counted, and nothing else -/

theorem detect_corrected {r : ErrReport} (hk : r.kind = .corrected ∨ r.kind = .parityRepaired)
    (hs : ∀ c i, r.site ≠ .configParity c i) :
    detect r s = countError (siteClass r.site).1 (siteClass r.site).2 (errKindCode r.kind) s := by
  obtain ⟨site, kind⟩ := r
  unfold detect
  dsimp only at *
  have hSite : ∀ u : State, (match (generalizing := false) site with
      | .configParity k i => { u with err := { u.err with restoring := u.err.restoring ++ [(k.val, i.toNat)] } }
      | _ => u) = u := fun u => by
    split
    · next c i => exact absurd rfl (hs c i)
    · rfl
  rcases hk with rfl | rfl <;> exact hSite _

/-- The state in which the fault has become lasting and its action follows. -/
def lastingCounted (c i k : Nat) (s : State) : State :=
  modErr c (fun x => { x with
    stopped := if c = 6 then x.stopped else i :: x.stopped
    lasting := if x.lasting = 0xFFFF then x.lasting else x.lasting + 1 }) (tallied c i k s)

theorem count_reaches {c i k : Nat} (h1 : i ∉ (errClass s c).stopped)
    (h2 : errT (errClass s c) ≤ tget 0 (rolledClass s c).counts i + 1) :
    countError c i k s = lastingAction c i (raise .err 0 (lastingCounted c i k s)) := by
  rw [count_is c i k s h1, if_pos h2]
  rfl

theorem lastingCounted_class (c i k : Nat) (s : State) :
    (errClass (lastingCounted c i k s) c).lasting = (if (errClass s c).lasting = 0xFFFF then 0xFFFF else (errClass s c).lasting + 1)
      ∧ (c ≠ 6 → i ∈ (errClass (lastingCounted c i k s) c).stopped) := by
  obtain ⟨-, -, hLasting, -⟩ := rolledClass_cfg s c
  unfold lastingCounted
  rw [errClass_mod, if_pos rfl, tallied_class]
  dsimp only
  rw [hLasting]
  refine ⟨?_, fun hc => by rw [if_neg hc]; exact List.mem_cons_self⟩
  split
  · assumption
  · rfl

theorem raise_err (r : EvtReg) (b : Nat) (s : State) : (raise r b s).err = s.err :=
  raise_keeps (bl := .err) r b (Keeps.refl .err s) (by decide)
theorem raise_sch (r : EvtReg) (b : Nat) (s : State) : (raise r b s).sch = s.sch :=
  raise_keeps (bl := .sch) r b (Keeps.refl .sch s) (by decide)
theorem raise_eng (r : EvtReg) (b : Nat) (s : State) : (raise r b s).eng = s.eng :=
  raise_keeps (bl := .eng) r b (Keeps.refl .eng s) (by decide)
theorem eng_raise (r : EvtReg) (b : Nat) (s : State) (e : Nat) : eng (raise r b s) e = eng s e := by unfold eng; rw [raise_eng]

theorem retireEngine_retired (e : Nat) (s : State) : (eng (retireEngine e s) e).retired = true := by
  have hEng : eng (modEng e (fun x => { idleEngine x with retired := true, stopped := false }) (endEngineWork e stRetired s)) e
      = { idleEngine (eng (endEngineWork e stRetired s) e) with retired := true, stopped := false } := by rw [eng_modEng, if_pos rfl]
  exact congrArg Engine.retired hEng

/-- The first engine to fail for good is retired. -/
theorem engineLasting_first (e : Nat) (h : s.sch.nm1Ok = true) : (engineLasting e s).sch.nm1Ok = false
    ∧ (engineLasting e s).sch.retiredEng = BitVec.ofNat 4 e ∧ (eng (engineLasting e s) e).retired = true := by
  unfold engineLasting
  rw [if_pos h]
  exact ⟨rfl, rfl, retireEngine_retired e s⟩

theorem portLasting_does (p : Nat) (s : State) : (portLasting p s).err.portFailed = s.err.portFailed ||| BitVec.ofNat 64 (2 ^ p)
    ∧ bit (evtWord (portLasting p s) 148) 2 = true := by
  have hErr : (disablePort p s).err = s.err := disablePort_keeps (bl := .err) p (Keeps.refl .err s) (by decide)
  refine ⟨?_, raise_bit .err 2 (by decide) _⟩
  unfold portLasting
  rw [raise_err, hErr]

theorem muleLasting_does (g : Nat) (s : State) : (muleLasting g s).err.muleFailed = s.err.muleFailed ||| BitVec.ofNat 4 (2 ^ g)
    ∧ bit (evtWord (muleLasting g s) 148) 3 = true := by
  refine ⟨?_, raise_bit .err 3 (by decide) _⟩
  unfold muleLasting
  dsimp only
  rw [raise_err, each_unchanged State.err]
  intro j _ u
  split
  · exact portGone_keeps (bl := .err) _ _ (Keeps.refl .err u) (by decide)
  · rfl

/-- What the statement says of an error that was corrected. -/
theorem corrected_does (hl : live s = true) {r : ErrReport} (hk : r.kind = .corrected ∨ r.kind = .parityRepaired)
    (hs : ∀ c i, r.site ≠ .configParity c i) (c i n : Nat) (hc : (siteClass r.site).1 = c) (hi : (siteClass r.site).2 = i)
    (hn : tget 0 (rolledClass s c).counts i + 1 = n) :
    (i ∈ (errClass s c).stopped → exec (.errorDetected r) s = .next s)
    ∧ (i ∉ (errClass s c).stopped → n < errT (errClass s c) → ∃ t, exec (.errorDetected r) s = .next t ∧ Frame [.err] s t
      ∧ t.err = { s.err with
        last := BitVec.ofNat 64 (c + errKindCode r.kind * 2 ^ 4 + i * 2 ^ 8 + epoch32 s 0 * 2 ^ 32)
        cls := tput s.err.cls c { rolledClass s c with
          total := (errClass s c).total + 1, counts := tput (rolledClass s c).counts i n } })
    ∧ (i ∉ (errClass s c).stopped → errT (errClass s c) ≤ n → ∃ u t, exec (.errorDetected r) s = .next t
      ∧ t = lastingAction c i (raise .err 0 u) ∧ bit (evtWord (raise .err 0 u) 148) 0 = true
      ∧ (errClass u c).lasting = (if (errClass s c).lasting = 0xFFFF then 0xFFFF else (errClass s c).lasting + 1)
      ∧ (c ≠ 6 → i ∈ (errClass u c).stopped)
      ∧ (c = 1 → s.sch.nm1Ok = true → t.sch.nm1Ok = false ∧ t.sch.retiredEng = BitVec.ofNat 4 i ∧ (eng t i).retired = true)
      ∧ (c = 2 → t.err.portFailed = s.err.portFailed ||| BitVec.ofNat 64 (2 ^ i) ∧ bit (evtWord t 148) 2 = true)
      ∧ (c = 3 → t.err.muleFailed = s.err.muleFailed ||| BitVec.ofNat 4 (2 ^ i) ∧ bit (evtWord t 148) 3 = true)) := by
  have hRun : exec (.errorDetected r) s = .next (countError c i (errKindCode r.kind) s) := by
    rw [← hc, ← hi]
    exact (runs_of_guard (o := execErrorDetected r s) (s := s) rfl hl).trans (congrArg _ (detect_corrected hk hs))
  subst hn
  refine ⟨fun h => ?_, fun h1 h2 => ?_, fun h1 h2 => ?_⟩
  · refine hRun.trans (congrArg _ ?_)
    unfold countError stoppedCounting
    rw [if_pos (by simpa using h)]
  · rw [count_below c i _ s h1 h2] at hRun
    refine ⟨_, hRun, fun bl hb => ?_, rfl⟩
    cases bl
    case err => exact absurd (by decide) hb
    all_goals rfl
  · rw [count_reaches h1 h2] at hRun
    obtain ⟨hLasting, hStopped⟩ := lastingCounted_class c i (errKindCode r.kind) s
    refine ⟨lastingCounted c i (errKindCode r.kind) s, _, hRun, rfl, raise_bit .err 0 (by decide) _, hLasting, hStopped, ?_, ?_, ?_⟩
    · rintro rfl h
      exact engineLasting_first i ((congrArg Sched.nm1Ok (raise_sch _ _ _)).trans h)
    · rintro rfl
      obtain ⟨hFailed, hBit⟩ := portLasting_does i (raise .err 0 (lastingCounted 2 i (errKindCode r.kind) s))
      rw [raise_err] at hFailed
      exact ⟨hFailed, hBit⟩
    · rintro rfl
      obtain ⟨hFailed, hBit⟩ := muleLasting_does i (raise .err 0 (lastingCounted 3 i (errKindCode r.kind) s))
      rw [raise_err] at hFailed
      exact ⟨hFailed, hBit⟩

/-! ### A fault of an engine (R383) -/

theorem engineReset_does {e : Nat} (h : (eng s e).retired = false) : (eng (engineReset e s) e).stopped = true
    ∧ threadsOf (eng (engineReset e s) e) = [] ∧ (eng (engineReset e s) e).dmem = [] ∧ bit (evtWord (engineReset e s) 148) 1 = true := by
  have hReset : engineReset e s = raise .err 1 (modEng e
      (fun x => { idleEngine x with stopped := true, dmem := [], scratch := [] }) (endEngineWork e stAbortedReset s)) :=
    if_neg (by simp [h])
  rw [hReset, eng_raise, eng_modEng, if_pos rfl]
  exact ⟨rfl, rfl, rfl, raise_bit .err 1 (by decide) _⟩

theorem engineFault_does (hl : live s = true) (e : EngId) (hr : (eng s e.val).retired = false)
    (h1 : tget 0 (rolledClass s 1).counts e.val + 1 < errT (errClass s 1)) (h2 : e.val ∉ (errClass s 1).stopped) :
    ∃ t, exec (.errorDetected ⟨.engineFault e, .faultOrCrc⟩) s = .next t
      ∧ (eng t e.val).stopped = true ∧ threadsOf (eng t e.val) = [] ∧ (eng t e.val).dmem = [] ∧ bit (evtWord t 148) 1 = true := by
  have hRun : exec (.errorDetected ⟨.engineFault e, .faultOrCrc⟩) s = .next (engineReset e.val (countError 1 e.val 3 s)) :=
    runs_of_guard (o := execErrorDetected ⟨.engineFault e, .faultOrCrc⟩ s) (s := s) rfl hl
  rw [count_below 1 e.val 3 s h2 h1] at hRun
  exact ⟨_, hRun, engineReset_does (s := tallied 1 e.val 3 s) hr⟩

/-! ### The registers of a class (R382, R384) -/

theorem errorWindowStart_does (hl : live s = true) (c : Fin 7) :
    ((errClass s c.val).window = errWindow s c.val → exec (.errorWindowStart c) s = .next s)
    ∧ ((errClass s c.val).window ≠ errWindow s c.val → exec (.errorWindowStart c) s = .next { s with err := { s.err with
      cls := tput s.err.cls c.val { errClass s c.val with counts := [], window := errWindow s c.val } } }) := by
  have hRun : exec (.errorWindowStart c) s = .next (rollWindow c.val s) := runs_of_guard (o := execErrorWindowStart c s) (s := s) rfl hl
  exact ⟨fun h => hRun.trans (congrArg _ (if_pos h)), fun h => hRun.trans (congrArg _ (if_neg h))⟩

theorem modErr_frame (c : Nat) (g : ErrClass → ErrClass) (s : State) : Frame [.err] s (modErr c g s) :=
  fun _ hb => modErr_keeps c g (Keeps.refl _ s) hb

theorem errCfgWrite_does (c : Fin 7) (v : U32) (hh : hostReaches s 0 = true) : ∃ t, exec (.errCfgWrite c v) s = .next t ∧ Frame [.err] s t
    ∧ errClass t c.val = { errClass s c.val with
        cfg := v &&& 0x00FFFFFF, counts := [], window := s.tb.epoch.toNat / max 1 (field (v &&& 0x00FFFFFF) 8 16) }
    ∧ (∀ d, d ≠ c.val → errClass t d = errClass s d) ∧ t.err = { s.err with cls := t.err.cls } := by
  have hCfg : errClass (modErr c.val (fun x => { x with cfg := v &&& 0x00FFFFFF }) s) c.val
      = { errClass s c.val with cfg := v &&& 0x00FFFFFF } := by rw [errClass_mod, if_pos rfl]
  refine ⟨_, runs_of_guard (o := execErrCfgWrite c v s) (s := s) rfl hh, (modErr_frame _ _ _).trans (modErr_frame _ _ _), ?_, fun d hd => ?_, rfl⟩
  · unfold errCfgWrite clearCounts
    rw [errClass_mod, if_pos rfl]
    unfold errWindow
    rw [hCfg]
    rfl
  · unfold errCfgWrite clearCounts
    rw [errClass_mod, if_neg hd, errClass_mod, if_neg hd]

theorem errPortFailedClear_does (m : U64) (hh : hostReaches s 0 = true) : ∃ t, exec (.errPortFailedClear m) s = .next t ∧ Frame [.err] s t
    ∧ t.err = { s.err with portFailed := s.err.portFailed &&& ~~~m, cls := t.err.cls }
    ∧ (∀ d, d ≠ 2 → errClass t d = errClass s d) ∧ (errClass t 2).cfg = (errClass s 2).cfg
    ∧ ∀ p, bit m p = true → bit s.err.portFailed p = true → p ∉ (errClass t 2).stopped := by
  refine ⟨_, runs_of_guard (o := execErrPortFailedClear m s) (s := s) rfl hh, fun bl hb => ?_, rfl, fun d hd => ?_, ?_, fun p h1 h2 => ?_⟩
  · cases bl
    case err => exact absurd (by decide) hb
    all_goals rfl
  · unfold portFailedClear
    rw [errClass_mod, if_neg hd]; rfl
  · unfold portFailedClear
    rw [errClass_mod, if_pos rfl]; rfl
  · unfold portFailedClear
    rw [errClass_mod, if_pos rfl]
    simp [List.mem_filter, h1, h2]

theorem configRestored_does (hl : live s = true) (c : Fin 7) (i : BitVec 12) : ∃ t, exec (.configRestored c i) s = .next t ∧ Raised 148 4 s t
    ∧ t.err = { s.err with restoring := s.err.restoring.filter fun e => e != (c.val, i.toNat) }
    ∧ SameFuncs s t ∧ Frame [.out, .eic, .fns, .err] s t := by
  refine ⟨_, runs_of_guard (o := execConfigRestored c i s) (s := s) rfl hl, fun j => raise_raised .err 4 _ j, raise_err _ _ _,
    fun f => raise_sameFuncs .err 4 _ f, Frame.trans (fun bl hb => ?_) ((raise_frame _ _ _).mono (by decide))⟩
  cases bl
  case err => exact absurd (by decide) hb
  all_goals rfl

/-! ### The loss of a core (R386) -/

theorem clearLane_epoch (p : Nat) (s : State) : (clearLane p s).tb.epoch = s.tb.epoch := by
  obtain ⟨_, _, _, _, _, h⟩ := clearLane_ends p s
  rw [h]
  rfl

theorem stopLanes_epoch (s : State) : epoch32 (stopLanes s) 0 = epoch32 s 0 := by
  have hQuiet : (quietPorts s).tb = s.tb := quietPorts_keeps (bl := .tb) (Keeps.refl .tb s) (by decide)
  have hEpoch : (stopLanes s).tb.epoch = s.tb.epoch :=
    (each_unchanged (fun u => u.tb.epoch) _ clearLane (fun p _ u => clearLane_epoch p u) _).trans (congrArg Timebase.epoch hQuiet)
  unfold epoch32
  rw [hEpoch]

/-- The FATAL records, sent three times (R386). -/
def sendFatal (cause : Nat) (s : State) : State :=
  let b := codeEpoch cause (epoch32 s 0)
  xbkSendOnce 6 b (xbkSendOnce 6 b (xbkSendOnce 6 b s))

theorem sendFatal_frame (cause : Nat) (s : State) : Frame [.out, .pair] s (sendFatal cause s) :=
  ((xbkSendOnce_frame _ _ _).trans (xbkSendOnce_frame _ _ _)).trans (xbkSendOnce_frame _ _ _)

theorem xbkSendOnce_linkUp (typ : Nat) (b : List Byte) (s : State) : (xbkSendOnce typ b s).pair.linkUp = s.pair.linkUp := by
  obtain ⟨a, hp⟩ := xbkSendOnce_pair typ b s
  rw [hp]

theorem sendFatal_sends (cause : Nat) (h : s.pair.linkUp = true) : ∃ b, .xbk 6 b ∈ (sendFatal cause s).out :=
  xbkSendOnce_sends (by rw [xbkSendOnce_linkUp, xbkSendOnce_linkUp]; exact h)

/-- The partner has been told. -/
def partnerTold (cause : Nat) (s : State) : State := if s.straps.pairEn then emit (.act false) (sendFatal cause s) else s

theorem partnerTold_frame (cause : Nat) (s : State) : Frame [.out, .pair] s (partnerTold cause s) := by
  unfold partnerTold
  split
  · exact (sendFatal_frame _ _).trans ((frame_emit _ _).mono (by decide))
  · exact fun bl _ => Keeps.refl bl s

theorem fatalError_eq (cause : Nat) (h : s.err.held = false) : fatalError cause s
    = emit (.aer 0) { partnerTold cause (stopLanes s) with
      err := { (partnerTold cause (stopLanes s)).err with
        fatal := BitVec.ofNat 64 (cause + epoch32 (partnerTold cause (stopLanes s)) 0 * 2 ^ 32), held := true }
      pair := { (partnerTold cause (stopLanes s)).pair with actOut := false } } := if_neg (by simp [h])

theorem epoch32_of_tb {s t : State} (h : t.tb = s.tb) (k : Nat) : epoch32 t k = epoch32 s k := by unfold epoch32; rw [h]

theorem coreWatchdogExpiry_does (hl : live s = true) (k : Fin 2) : ∃ t, exec (.coreWatchdogExpiry k) s = .next t ∧ t.err.held = true
    ∧ t.err.fatal = BitVec.ofNat 64 (k.val + 1 + epoch32 s 0 * 2 ^ 32) ∧ t.pair.actOut = false ∧ .aer 0 ∈ t.out
    ∧ (∀ p, (port t p).txn = none)
    ∧ (s.straps.pairEn = true → .act false ∈ t.out)
    ∧ (s.straps.pairEn = true → s.pair.linkUp = true → ∃ b, .xbk 6 b ∈ t.out) := by
  have hHeld : s.err.held = false := by
    unfold live at hl
    simp only [Bool.and_eq_true, Bool.not_eq_true'] at hl
    exact hl.1.2
  have hFrame := partnerTold_frame (k.val + 1) (stopLanes s)
  have hEpoch : epoch32 (partnerTold (k.val + 1) (stopLanes s)) 0 = epoch32 s 0 :=
    (epoch32_of_tb (hFrame .tb (by decide)) 0).trans (stopLanes_epoch s)
  have hStraps : (stopLanes s).straps = s.straps := stopLanes_keeps (bl := .straps) (Keeps.refl .straps s) (by decide)
  have hPair : (stopLanes s).pair = s.pair := stopLanes_keeps (bl := .pair) (Keeps.refl .pair s) (by decide)
  have hTold : s.straps.pairEn = true → partnerTold (k.val + 1) (stopLanes s) = emit (.act false) (sendFatal (k.val + 1) (stopLanes s)) :=
    fun h => if_pos (by rw [hStraps]; exact h)
  refine ⟨_, (runs_of_guard (o := execCoreWatchdogExpiry k s) (s := s) rfl hl).trans (congrArg _ (fatalError_eq _ hHeld)), rfl,
    by rw [hEpoch]; rfl, rfl, List.mem_append_right _ (List.mem_singleton.2 rfl), fun p => ?_, fun h => ?_, fun h hUp => ?_⟩
  · show (port (partnerTold (k.val + 1) (stopLanes s)) p).txn = none
    rw [port_of_topo (hFrame .topo (by decide))]
    exact stopLanes_idle s p
  · rw [hTold h]
    exact List.mem_append_left _ (List.mem_append_right _ (List.mem_singleton.2 rfl))
  · rw [hTold h]
    obtain ⟨b, hb⟩ := sendFatal_sends (s := stopLanes s) (k.val + 1) (by rw [hPair]; exact hUp)
    exact ⟨b, List.mem_append_left _ (List.mem_append_left _ hb)⟩

end

/-- Settles O16: errors by how they are counted, the registers of a class, and the loss of a core. -/
theorem errors : Obligations.Errors := fun _ hl =>
  ⟨fun _ hk hs => corrected_does hl hk hs _ _ _ rfl rfl rfl,
    engineFault_does hl, errorWindowStart_does hl, errCfgWrite_does, errPortFailedClear_does, configRestored_does hl,
    coreWatchdogExpiry_does hl⟩

end Sys2Proof.Machine
end

section
/-! PROOFS. The arithmetic and the control flow of an ox engine (R236, R237, R239). -/

namespace Sys2Proof.Machine

section
variable {s : State} {e : EngId} {t : Thread}

/-! ### Executing -/

theorem runs_both {o : Host.Outcome State Fault Refusal} {cost : Nat} {f : Thread → State → State}
    (ho : o = instruction e .ms cost f s) (h : CanRun s e t cost) : o = .next (f (spend cost t) s) := ho.trans (run_both h f)

theorem runs_micro {o : Host.Outcome State Fault Refusal} {c : Nat} {f : Thread → State → State}
    (ho : o = instruction e .m c f s) (h : InMicrocode s e t) : o = .next (f t s) := ho.trans (run_micro h c f)

/-! ### Bytes and flags -/

theorem addFlags_eq (a b : Byte) (c : Bool) : addFlags a b c = (a + b + (if c then 1 else 0),
    flagsOf (a + b + (if c then 1 else 0)) (decide (256 ≤ a.toNat + b.toNat + (if c then 1 else 0)))) := by
  have hSum : BitVec.ofNat 8 (a.toNat + b.toNat + ofBool c) = a + b + (if c then 1 else 0) := by
    apply BitVec.eq_of_toNat_eq
    cases c <;> simp [ofBool]
  unfold addFlags
  dsimp only
  rw [hSum]
  cases c <;> rfl

theorem addFlags_plain (a b : Byte) : addFlags a b false = (a + b, flagsOf (a + b) (decide (256 ≤ a.toNat + b.toNat))) := by
  have hZero : a + b + (0 : Byte) = a + b := BitVec.add_zero _
  rw [addFlags_eq, if_neg Bool.false_ne_true, if_neg Bool.false_ne_true, hZero]
  rfl

/-- An operation on bytes leaves its result, Z and N of it, and its C. -/
theorem runs_alu {o : Host.Outcome State Fault Refusal} {rd : Fin 16} {f : Thread → Byte × Flags} {v : Byte} {c : Bool}
    (ho : o = aluOp e rd f s) (h : CanRun s e t 1) (hf : f (spend 1 t) = (v, flagsOf v c)) :
    o = .next (setRun e.val (wrote 1 rd.val v c t) s) := by
  refine ho.trans ((run_both h _).trans ?_)
  dsimp only
  rw [hf]
  rfl

theorem shiftOp_does {rd : Fin 16} {n : Fin 8} {f : Byte → Nat → Bool → Byte × Flags} {v : Byte} {c : Bool} (h : CanRun s e t 1)
    (hn : n.val ≠ 0) (hf : f (breg t rd.val) n.val false = (v, flagsOf v c)) :
    shiftOp e rd n f s = .next (setRun e.val (wrote 1 rd.val v c t) s) := by
  refine (run_both h _).trans ?_
  dsimp only
  rw [if_neg hn, show breg (spend 1 t) rd.val = breg t rd.val from rfl, hf]
  rfl

/-- A shift by 0 takes C from the free values. -/
theorem shiftOp_free {rd : Fin 16} {n : Fin 8} {f : Byte → Nat → Bool → Byte × Flags} (h : CanRun s e t 1) (hn : n.val = 0)
    (hf : ∀ a c, f a 0 c = (a, flagsOf a c)) :
    ∃ c, shiftOp e rd n f s = .next (setRun e.val (wrote 1 rd.val (breg t rd.val) c t) { s with free := s.free + 1 }) := by
  refine ⟨(freeBit s).1, (run_both h _).trans ?_⟩
  dsimp only
  rw [if_pos hn, show breg (spend 1 t) rd.val = breg t rd.val from rfl, hn, hf]
  rfl

theorem shl_zero (a : Byte) (c : Bool) : shlFlags a 0 c = (a, flagsOf a c) := by
  unfold shlFlags
  simp

theorem shr_zero (a : Byte) (c : Bool) : shrFlags a 0 c = (a, flagsOf a c) := by
  unfold shrFlags
  simp

end

/-- Settles O17: each operation runs, and its result and flags are those of R237. -/
theorem engineArithmetic : Obligations.EngineArithmetic := by
  refine ⟨fun s e t rd rs imm h => ?_, fun s e t rd rs n p imm off h => ?_⟩
  · exact ⟨runs_both (o := execNop e s) rfl h, runs_both (o := execMov e rd rs s) rfl h,
      runs_both (o := execMovi e rd imm s) rfl h,
      runs_alu (o := execAdd e rd rs s) rfl h (addFlags_plain (breg t rd.val) (breg t rs.val)),
      runs_alu (o := execAddi e rd imm s) rfl h (addFlags_plain (breg t rd.val) imm),
      runs_alu (o := execAdc e rd rs s) rfl h (addFlags_eq (breg t rd.val) (breg t rs.val) t.c),
      runs_alu (o := execSub e rd rs s) rfl h rfl, runs_alu (o := execSubi e rd imm s) rfl h rfl,
      runs_alu (o := execAndi e rd imm s) rfl h rfl, runs_alu (o := execAnd e rd rs s) rfl h rfl,
      runs_alu (o := execOr e rd rs s) rfl h rfl, runs_alu (o := execOri e rd imm s) rfl h rfl,
      runs_alu (o := execXor e rd rs s) rfl h rfl, runs_alu (o := execXori e rd imm s) rfl h rfl,
      runs_both (o := execCmp e rd rs s) rfl h, runs_both (o := execCmpi e rd imm s) rfl h⟩
  · exact ⟨fun hn => shiftOp_does h hn (by unfold shlFlags; rw [if_neg hn]),
      fun hn => shiftOp_does h hn (by unfold shrFlags; rw [if_neg hn]),
      fun hn => shiftOp_free h hn shl_zero, fun hn => shiftOp_free h hn shr_zero,
      runs_both (o := execLdp e p imm s) rfl h, runs_both (o := execAddp e p rs s) rfl h,
      runs_both (o := execAddpi e p off s) rfl h⟩

section
variable {s : State} {e : EngId} {t : Thread}

/-! ### Control flow -/

theorem executing_of {cost : Nat} (h : CanRun s e t cost) : executing s e.val = some t := by
  obtain ⟨-, hRun, hWait, -⟩ := h
  unfold executing
  rw [hRun]
  simp [hWait]

theorem br_does {cond : BitVec 4} {off : BitVec 14} {holds : Bool} (hc : condHolds cond.toNat t.z t.n t.c = some holds)
    (h : CanRun s e t (if holds then 2 else 1)) : exec (.br e cond off) s = .next (setRun e.val
      (if holds then jumpTo (t.pc + off) (spend 2 t) else advance (spend 1 t)) s) := by
  have hCost : brCost s e.val cond = if holds then 2 else 1 := by
    unfold brCost
    rw [executing_of h]
    exact congrArg (fun b : Bool => if b = true then 2 else 1) (congrArg (Option.getD · false) hc)
  show execBr e cond off s = _
  unfold execBr
  rw [hCost]
  refine (run_both h _).trans ?_
  have hSpent : ∀ c, condHolds cond.toNat (spend c t).z (spend c t).n (spend c t).c = some holds := fun _ => hc
  rw [hSpent]
  cases holds <;> rfl

/-- The condition codes of BR, as the statement has them. -/
theorem condHolds_of {cond : BitVec 4} {holds : Bool}
    (hc : (cond = 0 ∧ holds = true) ∨ (cond = 1 ∧ holds = !t.z) ∨ (cond = 2 ∧ holds = t.z) ∨ (cond = 3 ∧ holds = t.c)
      ∨ (cond = 4 ∧ holds = !t.c) ∨ (cond = 5 ∧ holds = t.n) ∨ (cond = 6 ∧ holds = !t.n)) :
    condHolds cond.toNat t.z t.n t.c = some holds := by
  rcases hc with ⟨rfl, rfl⟩ | ⟨rfl, rfl⟩ | ⟨rfl, rfl⟩ | ⟨rfl, rfl⟩ | ⟨rfl, rfl⟩ | ⟨rfl, rfl⟩ | ⟨rfl, rfl⟩ <;> rfl

theorem loop_does {inReg : Bool} {rs : Fin 16} {imm len : Byte} (h : CanRun s e t 2) (count : Nat) (last : BitVec 14)
    (hCount : (if inReg then breg t rs.val else imm).toNat = count) (hLast : t.pc + len.setWidth 14 = last) :
    (count = 0 ∨ len = 0 → exec (.loop e inReg rs imm len) s
      = .next (setRun e.val { spend 2 t with pc := (loopEnd last t.loops).1, loops := (loopEnd last t.loops).2 } s))
    ∧ (count ≠ 0 → len ≠ 0 → t.loops.length < 2 → exec (.loop e inReg rs imm len) s
      = .next (setRun e.val { spend 2 t with pc := t.pc + 1, loops := ⟨t.pc + 1, last, count⟩ :: t.loops } s))
    ∧ (count ≠ 0 → len ≠ 0 → 2 ≤ t.loops.length → ∃ k < 256, exec (.loop e inReg rs imm len) s
      = .next (setRun e.val { spend 2 t with pc := t.pc + 1, loops := ⟨t.pc + 1, last, k⟩ :: t.loops.take 1 }
          { s with free := s.free + 1 })) := by
  subst hCount hLast
  have hRun : exec (.loop e inReg rs imm len) s = _ := runs_both (o := execLoop e inReg rs imm len s) rfl h
  have hNone : ∀ c : Nat, (decide (c = 0) || decide (len = 0)) = true ↔ c = 0 ∨ len = 0 := fun c => by simp
  refine ⟨fun hz => hRun.trans (congrArg _ (if_pos ((hNone _).2 hz))), fun h1 h2 h3 => hRun.trans (congrArg _ ?_),
    fun h1 h2 h3 => ⟨(Config.freeWord s.free).toNat % 256, Nat.mod_lt _ (by decide), hRun.trans (congrArg _ ?_)⟩⟩
  · exact (if_neg fun k => ((hNone _).1 k).elim h1 h2).trans (if_pos h3)
  · exact (if_neg fun k => ((hNone _).1 k).elim h1 h2).trans (if_neg (by show ¬ t.loops.length < 2; omega))

/-- An instruction of the microcode stops a script. -/
theorem runs_barred {o : Host.Outcome State Fault Refusal} {f : Thread → State → State} {c : Nat}
    (ho : o = instruction e .m c f s) (h : CanRun s e t 0) (hs : t.script ≠ none) : o = .next (scriptStop e.val 5 s) := by
  obtain ⟨r, hr⟩ := Option.ne_none_iff_exists'.1 hs
  have hExec := executing_of h
  obtain ⟨hl, -, -, -⟩ := h
  rw [ho]
  unfold instruction
  rw [guarded_of hl, hExec]
  dsimp only
  rw [hr]
  rfl

theorem call_does (h : CanRun s e t 0) (hs : t.script = none) (a : BitVec 14) :
    (t.calls.length < 8 → exec (.call e a) s = .next (setRun e.val
        { advance t with pc := a, calls := (advance t).pc :: t.calls } s))
    ∧ (8 ≤ t.calls.length → ∃ k, exec (.call e a) s = .next (setRun e.val
        { advance t with pc := a, calls := k :: t.calls.take 7 } { s with free := s.free + 1 })) :=
  ⟨fun hc => (runs_micro (o := execCall e a s) rfl ⟨h, hs⟩).trans (congrArg _ (if_pos hc)),
    fun hc => ⟨(freePc s).1, (runs_micro (o := execCall e a s) rfl ⟨h, hs⟩).trans (congrArg _ (if_neg (by omega)))⟩⟩

theorem ret_does (h : CanRun s e t 0) (hs : t.script = none) :
    (∀ a r, t.calls = a :: r → exec (.ret e) s = .next (setRun e.val { t with pc := a, calls := r } s))
    ∧ (t.calls = [] → ∃ a, exec (.ret e) s = .next (setRun e.val { t with pc := a } { s with free := s.free + 1 })) := by
  have hRun : exec (.ret e) s = _ := runs_micro (o := execRet e s) rfl ⟨h, hs⟩
  refine ⟨fun a r hc => ?_, fun hc => ⟨(freePc s).1, ?_⟩⟩
  · rw [hRun, hc]
  · rw [hRun, hc]
    rfl

end

/-- Settles O19: the branch by its condition, the loop by its count, calls and returns by the depth of the stack. -/
theorem engineControl : Obligations.EngineControl := fun s e t =>
  ⟨fun _ _ _ hc h => br_does (condHolds_of hc) h,
    fun _ _ _ _ h => loop_does h _ _ rfl rfl,
    fun h hs => ⟨fun a => runs_micro (o := execJmp e a s) (t := t) rfl ⟨h, hs⟩, fun a => (call_does h hs a).1, fun a => (call_does h hs a).2,
      (ret_does h hs).1, (ret_does h hs).2⟩,
    fun h hs a => ⟨runs_barred (o := execJmp e a s) rfl h hs, runs_barred (o := execCall e a s) rfl h hs,
      runs_barred (o := execRet e s) rfl h hs⟩⟩

end Sys2Proof.Machine
end

section
/-! PROOFS. The windows, the port crossbar and the waits of an ox engine (R195, R218 to R221, R235, R238 to R240). -/

namespace Sys2Proof.Machine

section
variable {s : State} {e : EngId} {t : Thread}

/-! ### Windows and the DMA context -/

theorem cst_stores {i : Nat} (h : InMicrocode s e t) (hw : t.work = .item i) (hn : t.win ≠ []) :
    exec (.cst e) s = .next (modCtx (workCtx s t.work) (storeCtx t.win) (setRun e.val (advance t) s)) := by
  refine (runs_micro (o := execCst e s) rfl h).trans (congrArg _ ?_)
  dsimp only
  rw [hw]
  exact if_neg (by simpa using hn)

theorem cst_idle (h : InMicrocode s e t) (hn : t.win = [] ∨ ∀ i, t.work ≠ .item i) :
    exec (.cst e) s = .next (setRun e.val (advance t) s) := by
  refine (runs_micro (o := execCst e s) rfl h).trans (congrArg _ ?_)
  dsimp only
  split
  · next i hw => exact if_pos (by rw [hn.resolve_right fun k => k i hw]; rfl)
  · rfl

theorem pst_stores {r : Nat} (h : InMicrocode s e t) (hw : t.work = .service r) (hn : t.win ≠ []) :
    exec (.pst e) s = .next (modPstate r (storeState t.win) (setRun e.val (advance t) s)) := by
  refine (runs_micro (o := execPst e s) rfl h).trans (congrArg _ ?_)
  dsimp only
  rw [hw]
  exact if_neg (by simpa using hn)

theorem pst_idle (h : InMicrocode s e t) (hn : t.win = [] ∨ ∀ r, t.work ≠ .service r) :
    exec (.pst e) s = .next (setRun e.val (advance t) s) := by
  refine (runs_micro (o := execPst e s) rfl h).trans (congrArg _ ?_)
  dsimp only
  split
  · next r hw => exact if_pos (by rw [hn.resolve_right fun k => k r hw]; rfl)
  · rfl

theorem pld_ends (h : InMicrocode s e t) (hw : (eng s e.val).walk = []) : exec (.pld e) s = .next (setRun e.val (advance t) s) := by
  refine (runs_micro (o := execPld e s) rfl h).trans (congrArg _ ?_)
  dsimp only
  rw [hw]

/-- The entry bound to service `r` is placed, where one is. -/
def placeBound (r : Nat) (s : State) : State := match boundItem s r with | some i => placeItem i s | none => s

theorem placeBound_frame (r : Nat) (s : State) : Frame [.front, .dma] s (placeBound r s) := by
  unfold placeBound
  split
  · exact fun bl hb => placeItem_keeps _ (Keeps.refl bl s) (notMem_of hb rfl)
  · exact fun bl _ => Keeps.refl bl s

/-- What a window and a binding show of a service is in the tree and the schedule. -/
theorem service_view {u : State} (hTopo : u.topo = s.topo) (hSch : u.sch = s.sch) (r : Nat) :
    windowOf u (.service r) = windowOf s (.service r) ∧ scriptOf u (.service r) = scriptOf s (.service r) := by
  have hCtx : workCtx u (.service r) = workCtx s (.service r) := by
    unfold workCtx workHandle workEp rungOf
    rw [hSch]
  have hBytes : serviceBytes u r = serviceBytes s r := by
    unfold serviceBytes pstate
    rw [hSch]
  unfold windowOf scriptOf
  dsimp only
  rw [hCtx, hTopo, hBytes]
  exact ⟨rfl, rfl⟩

theorem pld_loads {r : Nat} {rest : List Nat} (h : InMicrocode s e t) (hw : (eng s e.val).walk = r :: rest) :
    ∃ u, exec (.pld e) s = .next u ∧ (eng u e.val).walk = rest ∧ (eng u e.val).cur = some r ∧ (eng u e.val).run
        = some (advance { t with
            work := .service r, win := windowOf u (.service r), used := 0, entered := [], armed := none
            bound := scriptOf s (.service r) })
      ∧ OtherEngines e.val s u ∧ u.topo = s.topo ∧ u.sch = s.sch := by
  have hFrame := placeBound_frame r s
  have hEng : (placeBound r s).eng = s.eng := hFrame .eng (by decide)
  have hTopo : (placeBound r s).topo = s.topo := hFrame .topo (by decide)
  have hSch : (placeBound r s).sch = s.sch := hFrame .sch (by decide)
  have hEngAt : ∀ k, eng (placeBound r s) k = eng s k := fun k => by unfold eng; rw [hEng]
  obtain ⟨-, hBound⟩ := service_view hTopo hSch r
  have hRun : exec (.pld e) s = .next (setRun e.val (advance { t with
      work := .service r
      win := windowOf (modEng e.val (fun x => { x with walk := rest, cur := some r }) (placeBound r s)) (.service r)
      used := 0, entered := [], armed := none
      bound := scriptOf (modEng e.val (fun x => { x with walk := rest, cur := some r }) (placeBound r s)) (.service r) })
      (modEng e.val (fun x => { x with walk := rest, cur := some r }) (placeBound r s))) := by
    refine (runs_micro (o := execPld e s) rfl h).trans (congrArg _ ?_)
    dsimp only
    rw [hw]
    rfl
  refine ⟨_, hRun, ?_, ?_, ?_, fun k hk => ?_, hTopo, hSch⟩
  · rw [eng_setRun, if_pos rfl, eng_modEng, if_pos rfl]
  · rw [eng_setRun, if_pos rfl, eng_modEng, if_pos rfl]
  · rw [eng_setRun, if_pos rfl, ← hBound]
    rfl
  · rw [eng_setRun, if_neg hk, eng_modEng, if_neg hk, hEngAt]

/-- A channel that is armed for a work. -/
def armChan (w : Work) (c : ChCtx) : ChCtx := { c with work := w, state := if c.state == .idle then .armed else c.state }

theorem armChan_busy (w : Work) (c : ChCtx) : (armChan w c).state ≠ .idle := by
  unfold armChan
  dsimp only
  split
  · simp
  · next hs => simpa using hs

theorem chan_of_setRun (e : Nat) (t : Thread) (s : State) (k : Nat) : chan (setRun e t s) k = chan s k := rfl

theorem arm_arms (h : InMicrocode s e t) (v : BitVec 10) : ∃ u, exec (.arm e v) s = .next u
    ∧ (eng u e.val).run = some (advance { t with armed := some (workChan s t.work (bit v 0)) })
    ∧ (chan u (workChan s t.work (bit v 0))).work = t.work ∧ (chan u (workChan s t.work (bit v 0))).state ≠ .idle
    ∧ (∀ k, k ≠ workChan s t.work (bit v 0) → chan u k = chan s k) ∧ OtherEngines e.val s u := by
  have hRun : exec (.arm e v) s = .next (setRun e.val (advance { t with armed := some (workChan s t.work (bit v 0)) })
      (modChan (workChan s t.work (bit v 0)) (armChan t.work) s)) :=
    runs_micro (o := execArm e v s) (s := s) (t := t) rfl h
  refine ⟨_, hRun, ?_, ?_, ?_, fun k hk => ?_, fun k hk => ?_⟩
  · rw [eng_setRun, if_pos rfl]
  · rw [chan_of_setRun, chan_modChan, if_pos rfl]
    rfl
  · rw [chan_of_setRun, chan_modChan, if_pos rfl]
    exact armChan_busy _ _
  · rw [chan_of_setRun, chan_modChan, if_neg hk]
  · rw [eng_setRun, if_neg hk]
    rfl

theorem drn_waits {k : Nat} (h : InMicrocode s e t) (ha : t.armed = some k) : exec (.drn e) s
    = .next (setRun e.val (if chanDrained s k then advance t else { t with wait := .drn }) s) := by
  refine (runs_micro (o := execDrn e s) rfl h).trans (congrArg _ ?_)
  rw [ha]
  dsimp only
  split <;> rfl

theorem drn_unarmed (h : InMicrocode s e t) (ha : t.armed = none) : exec (.drn e) s = .next (setRun e.val (advance t) s) := by
  refine (runs_micro (o := execDrn e s) rfl h).trans (congrArg _ ?_)
  rw [ha]

end

/-- Settles O20: each instruction by the work it serves and what its window or channel holds. -/
theorem engineWindows : Obligations.EngineWindows := fun s e t h =>
  ⟨runs_micro (o := execCld e s) (t := t) rfl h, fun _ => cst_stores h, fun _ => pst_stores h, cst_idle h, pst_idle h, pld_ends h,
    fun _ _ => pld_loads h, arm_arms h, drn_unarmed h, fun _ => drn_waits h⟩

section
variable {s : State} {e : EngId} {t : Thread} {p : PortId}

/-! ### HOLD (R220, R221) -/

theorem mayHold_iff (k : Nat) (p : Nat) : mayHold s k p = true
    ↔ (port s p).heldBy = none ∧ ((port s p).window = none ∨ (port s p).window = some k) := by
  unfold mayHold
  rw [Bool.and_eq_true, Option.isNone_iff_eq_none]
  refine and_congr_right fun _ => ?_
  cases (port s p).window with
  | none => simp
  | some w => simp

/-- A HOLD wins where the port is free for the engine and no lower engine that may hold it waits. -/
theorem winsHold_iff (k p : Nat) : winsHold s k p = true ↔ (port s p).heldBy = none
    ∧ ((port s p).window = none ∨ (port s p).window = some k) ∧ ∀ x ∈ (port s p).holdWait, k ≤ x ∨ mayHold s x p = false := by
  unfold winsHold
  rw [Bool.and_eq_true, mayHold_iff, and_assoc]
  simp only [List.all_eq_true, Bool.or_eq_true, decide_eq_true_eq, Bool.not_eq_true']

/-- Port and engine after a HOLD is granted, before the lane goes on. -/
def heldState (e p : Nat) (t : Thread) (s : State) : State :=
  setRun e (advance { t with wait := .running, holds := p :: t.holds })
    (modPort p (fun x => { x with heldBy := some e, holdWait := x.holdWait.filter (· != e) }) s)

theorem heldState_does (e p : Nat) (t : Thread) (s : State) :
    ((port (heldState e p t s) p).heldBy = some e
      ∧ (port (heldState e p t s) p).holdWait = (port s p).holdWait.filter (· != e)
      ∧ OtherPorts p s (heldState e p t s) ∧ OtherEngines e s (heldState e p t s))
    ∧ (eng (heldState e p t s) e).run = some (advance { t with wait := .running, holds := p :: t.holds }) := by
  refine ⟨⟨?_, ?_, fun k hk => ?_, fun k hk => ?_⟩, ?_⟩ <;> unfold heldState
  · rw [port_of_setRun, port_modPort, if_pos rfl]
  · rw [port_of_setRun, port_modPort, if_pos rfl]
  · rw [port_of_setRun, port_modPort, if_neg hk]
  · rw [eng_setRun, if_neg hk]
    rfl
  · rw [eng_setRun, if_pos rfl]

theorem hold_held (h : InMicrocode s e t) (hp : p.val ∈ t.holds) : exec (.hold e p) s = .next (setRun e.val (advance t) s) :=
  (runs_micro (o := execHold e p s) rfl h).trans (congrArg _ (if_pos (by simpa using hp)))

theorem hold_wins (h : InMicrocode s e t) (hp : p.val ∉ t.holds) (hw : winsHold s e.val p.val = true) :
    exec (.hold e p) s = .next (runLane p.val (heldState e.val p.val t s)) :=
  (runs_micro (o := execHold e p s) rfl h).trans (congrArg _ ((if_neg (by simpa using hp)).trans (if_pos hw)))

theorem hold_waits (h : InMicrocode s e t) (hp : p.val ∉ t.holds) (hw : ¬ winsHold s e.val p.val = true) :
    ∃ u, exec (.hold e p) s = .next u
      ∧ (port u p.val).holdWait = (port s p.val).holdWait.filter (· != e.val) ++ [e.val]
      ∧ (port u p.val).heldBy = (port s p.val).heldBy ∧ OtherPorts p.val s u
      ∧ (eng u e.val).run = some { t with wait := .hold p.val } ∧ OtherEngines e.val s u := by
  have hRun : exec (.hold e p) s = .next (setRun e.val { t with wait := .hold p.val }
      (modPort p.val (fun x => { x with holdWait := x.holdWait.filter (· != e.val) ++ [e.val] }) s)) :=
    (runs_micro (o := execHold e p s) rfl h).trans (congrArg _ ((if_neg (by simpa using hp)).trans (if_neg hw)))
  refine ⟨_, hRun, ?_, ?_, fun k hk => ?_, ?_, fun k hk => ?_⟩
  · rw [port_of_setRun, port_modPort, if_pos rfl]
  · rw [port_of_setRun, port_modPort, if_pos rfl]
  · rw [port_of_setRun, port_modPort, if_neg hk]
  · rw [eng_setRun, if_pos rfl]
  · rw [eng_setRun, if_neg hk]
    rfl

theorem exec_holdGrant (hl : live s = true) (hr : (eng s e.val).run = some t) (hw : t.wait = .hold p.val) :
    exec (.holdGrant e p) s = .next (if winsHold s e.val p.val then runLane p.val (heldState e.val p.val t s) else s) := by
  refine (runs_of_guard (o := execHoldGrant e p s) (s := s) rfl hl).trans (congrArg _ ?_)
  rw [hr]
  dsimp only
  rw [hw, show (Wait.hold p.val == Wait.hold p.val) = true from beq_self_eq_true _, Bool.true_and]
  rfl

/-! ### REL (R218, R220, R224) -/

/-- What a port's release does to it. -/
def releasedPort (e : Nat) (more : Bool) (x : Port) : Port :=
  { x with
    heldBy := if x.heldBy == some e then none else x.heldBy
    window := if x.window == some e && !more then none else x.window }

theorem releasePort_eq (e p : Nat) (t : Thread) (s : State) : ∃ u, releasePort e p t s = u
    ∧ u.topo = (modPort p (releasedPort e (walkHas s e p)) s).topo ∧ u.eng = s.eng := by
  refine ⟨_, rfl, ?_⟩
  unfold releasePort
  dsimp only
  split
  · split
    · exact ⟨topo_of_modItem _ _ _, engs_of_modItem _ _ _⟩
    · exact ⟨rfl, rfl⟩
  · exact ⟨rfl, rfl⟩

/-- What an engine with nothing running goes on with. -/
def nextEngine (x : Engine) : Engine :=
  if x.run.isSome then x
  else match x.paused with
    | t :: r => { x with run := some t, paused := r }
    | [] =>
      if !x.walk.isEmpty then { x with run := some (freshThread .periodic) }
      else match x.suspended with
        | some t => { x with run := some t, suspended := none }
        | none => if x.parked.isEmpty then { x with run := some (freshThread .dispatch) } else x

theorem nextWork_eq (e : Nat) (s : State) : nextWork e s = modEng e nextEngine s := rfl

theorem nextEngine_paused {x : Engine} {v : Thread} {l : List Thread} (hr : x.run = none) (hp : x.paused = v :: l) :
    nextEngine x = { x with run := some v, paused := l } := by
  unfold nextEngine
  rw [hr, hp]
  rfl

theorem nextEngine_idle {x : Engine} (hr : x.run = none) (hp : x.paused = []) (hw : x.walk = []) :
    ((nextEngine x).run = x.suspended ∧ x.suspended ≠ none)
    ∨ (x.suspended = none ∧ x.parked = [] ∧ (nextEngine x).run = some (freshThread .dispatch))
    ∨ (x.suspended = none ∧ x.parked ≠ [] ∧ (nextEngine x).run = none) := by
  have hNext : nextEngine x = match x.suspended with
      | some t => { x with run := some t, suspended := none }
      | none => if x.parked.isEmpty then { x with run := some (freshThread .dispatch) } else x := by
    unfold nextEngine
    rw [hr, hp, hw]
    rfl
  rw [hNext]
  cases hs : x.suspended with
  | some v => exact .inl ⟨rfl, by simp⟩
  | none =>
    dsimp only
    cases hk : x.parked with
    | nil => exact .inr (.inl ⟨rfl, rfl, rfl⟩)
    | cons a l => exact .inr (.inr ⟨rfl, by simp, hr⟩)

/-- The engine ends its periodic thread with the release. -/
def relEnds (s : State) (e p : Nat) (t : Thread) : Bool :=
  t.kind == .periodic && (t.holds.filter (· != p)).isEmpty && ((eng s e).walk.isEmpty || !(eng s e).paused.isEmpty)

theorem rel_unheld (h : InMicrocode s e t) (hp : p.val ∉ t.holds) : exec (.rel e p) s = .next (setRun e.val (advance t) s) :=
  (runs_micro (o := execRel e p s) rfl h).trans (congrArg _ (if_pos (by simpa using hp)))

theorem exec_rel (h : InMicrocode s e t) (hp : p.val ∈ t.holds) : ∃ v, exec (.rel e p) s = .next (
      if relEnds s e.val p.val t then nextWork e.val (modEng e.val (fun x => { x with run := none }) v)
      else setRun e.val (advance { t with holds := t.holds.filter (· != p.val) }) v)
    ∧ v.topo = (modPort p.val (releasedPort e.val (walkHas s e.val p.val)) s).topo ∧ v.eng = s.eng := by
  obtain ⟨v, hv, hTopo, hEng⟩ := releasePort_eq e.val p.val t s
  refine ⟨v, ?_, hTopo, hEng⟩
  refine (runs_micro (o := execRel e p s) rfl h).trans (congrArg _ ((if_neg (by simpa using hp)).trans ?_))
  have hWalk : ∀ k, eng v k = eng s k := fun k => by unfold eng; rw [hEng]
  dsimp only
  rw [hv, hWalk]
  rfl

theorem rel_does (h : InMicrocode s e t) (hp : p.val ∈ t.holds) : ∃ u, exec (.rel e p) s = .next u
    ∧ (port u p.val).heldBy = (if (port s p.val).heldBy = some e.val then none else (port s p.val).heldBy)
    ∧ ((port s p.val).window = some e.val → walkHas s e.val p.val = false → (port u p.val).window = none)
    ∧ OtherPorts p.val s u ∧ OtherEngines e.val s u
    ∧ (t.kind = .dispatch ∨ ((eng s e.val).walk ≠ [] ∧ (eng s e.val).paused = []) ∨ t.holds.filter (· != p.val) ≠ [] →
        (eng u e.val).run = some (advance { t with holds := t.holds.filter (· != p.val) }))
    ∧ (∀ v l, t.kind = .periodic → (eng s e.val).paused = v :: l → t.holds.filter (· != p.val) = [] →
        (eng u e.val).run = some v ∧ (eng u e.val).paused = l)
    ∧ (t.kind = .periodic → (eng s e.val).walk = [] → (eng s e.val).paused = [] → t.holds.filter (· != p.val) = [] →
        ((eng u e.val).run = (eng s e.val).suspended ∧ (eng s e.val).suspended ≠ none)
        ∨ ((eng s e.val).suspended = none ∧ (eng s e.val).parked = []
            ∧ (eng u e.val).run = some (freshThread .dispatch))
        ∨ ((eng s e.val).suspended = none ∧ (eng s e.val).parked ≠ [] ∧ (eng u e.val).run = none)) := by
  obtain ⟨v, hRun, hTopo, hEng⟩ := exec_rel h hp
  have hEngAt : ∀ k, eng v k = eng s k := fun k => by unfold eng; rw [hEng]
  have hPort : ∀ k, port v k = if k = p.val then releasedPort e.val (walkHas s e.val p.val) (port s p.val) else port s k := fun k => by
    rw [port_of_topo hTopo, port_modPort]
  have hHeld : (releasedPort e.val (walkHas s e.val p.val) (port s p.val)).heldBy
      = if (port s p.val).heldBy = some e.val then none else (port s p.val).heldBy := by
    unfold releasedPort
    simp only [beq_iff_eq]
  have hWindow : (port s p.val).window = some e.val → walkHas s e.val p.val = false →
      (releasedPort e.val (walkHas s e.val p.val) (port s p.val)).window = none := fun h1 h2 => by
    unfold releasedPort
    simp [h1, h2]
  have hEnds : relEnds s e.val p.val t = true ↔ t.kind = .periodic ∧ t.holds.filter (· != p.val) = []
      ∧ ((eng s e.val).walk = [] ∨ (eng s e.val).paused ≠ []) := by
    unfold relEnds
    simp [and_assoc]
  by_cases hEnd : relEnds s e.val p.val t = true
  · rw [if_pos hEnd] at hRun
    obtain ⟨hKind, hHolds, hGoes⟩ := hEnds.1 hEnd
    have hNext : eng (nextWork e.val (modEng e.val (fun x => { x with run := none }) v)) e.val
        = nextEngine { eng s e.val with run := none } := by
      rw [nextWork_eq, eng_modEng, if_pos rfl, eng_modEng, if_pos rfl, hEngAt]
    refine ⟨_, hRun, ?_, ?_, fun k hk => ?_, fun k hk => ?_, fun hc => ?_, fun w l _ hw _ => ?_, fun _ hWalk hPaused _ => ?_⟩
    · show (port v p.val).heldBy = _
      rw [hPort, if_pos rfl, hHeld]
    · show _ → _ → (port v p.val).window = _
      rw [hPort, if_pos rfl]
      exact hWindow
    · show port v k = _
      rw [hPort, if_neg hk]
    · rw [nextWork_eq, eng_modEng, if_neg hk, eng_modEng, if_neg hk, hEngAt]
    · rcases hc with hc | ⟨hc1, hc2⟩ | hc
      · rw [hKind] at hc; cases hc
      · exact absurd hc2 (hGoes.resolve_left hc1)
      · exact absurd hHolds hc
    · rw [hNext, nextEngine_paused (x := { eng s e.val with run := none }) rfl hw]
      exact ⟨rfl, rfl⟩
    · rw [hNext]
      exact nextEngine_idle (x := { eng s e.val with run := none }) rfl hPaused hWalk
  · rw [if_neg hEnd] at hRun
    rw [hEnds] at hEnd
    refine ⟨_, hRun, ?_, ?_, fun k hk => ?_, fun k hk => ?_, fun _ => ?_, fun w l h1 hw h2 => ?_, fun h1 hWalk _ h2 => ?_⟩
    · rw [port_of_setRun, hPort, if_pos rfl, hHeld]
    · rw [port_of_setRun, hPort, if_pos rfl]
      exact hWindow
    · rw [port_of_setRun, hPort, if_neg hk]
    · rw [eng_setRun, if_neg hk, hEngAt]
    · rw [eng_setRun, if_pos rfl]
    · exact absurd ⟨h1, h2, .inr (by rw [hw]; simp)⟩ hEnd
    · exact absurd ⟨h1, h2, .inl hWalk⟩ hEnd

end

/-- Settles O21: HOLD by who wins the port, REL by what the engine goes on with. -/
theorem enginePorts : Obligations.EnginePorts := fun _ _ _ _ =>
  ⟨hold_held,
    fun h hp hf => ⟨_, hold_wins h hp ((winsHold_iff _ _).2 hf), heldState_does _ _ _ _⟩,
    fun h hp hf => hold_waits h hp (mt (winsHold_iff _ _).1 hf),
    fun hl hr hw hf => ⟨_, (exec_holdGrant hl hr hw).trans (congrArg _ (if_pos ((winsHold_iff _ _).2 hf))), heldState_does _ _ _ _⟩,
    fun hl hr hw hf => (exec_holdGrant hl hr hw).trans (congrArg _ (if_neg (mt (winsHold_iff _ _).1 hf))),
    rel_unheld, rel_does⟩

end Sys2Proof.Machine
end

section
/-! PROOFS. The waits of an ox engine and the results it takes (R219, R238 to R240). -/

namespace Sys2Proof.Machine

section
variable {s : State} {e : EngId} {t : Thread} {p : PortId}

/-! ### Parking (R219) -/

theorem nextEngine_parked (x : Engine) : (nextEngine x).parked = x.parked := by
  unfold nextEngine
  repeat' split
  all_goals rfl

/-- A thread that parks stands under its port, and the trees are as they were. -/
theorem park_does (e p : Nat) (ready : Bool) (t : Thread) (s : State) : tfind (eng (park e p ready t s) e).parked p = some ⟨t, ready⟩
    ∧ OtherEngines e s (park e p ready t s) ∧ (park e p ready t s).topo = s.topo := by
  refine ⟨?_, fun k hk => ?_, rfl⟩ <;> unfold park
  · rw [nextWork_eq, eng_modEng, if_pos rfl, nextEngine_parked, eng_modEng, if_pos rfl]
    exact tfind_tput_same _ _ _
  · rw [nextWork_eq, eng_modEng, if_neg hk, eng_modEng, if_neg hk]

theorem parksOn_iff (s : State) (p : Nat) : parksOn s p = true ↔ genCode (port s p).gen ≤ 1 := by
  unfold parksOn
  exact decide_eq_true_iff

theorem chanBarred_spend (c : Nat) (dirIn : Bool) : chanBarred s (spend c t) dirIn = chanBarred s t dirIn := by
  unfold chanBarred
  show ((t.script.map _).isSome && _) = _
  rw [Option.isSome_map]
  rfl

/-! ### RDAT and WHS -/

theorem waitCost_of {cost : Nat} (h : CanRun s e t cost) (hp : t.holds.head? = some p.val) :
    waitCost s e.val = if genCode (port s p.val).gen ≤ 1 then 4 else 2 := by
  unfold waitCost
  rw [executing_of h]
  dsimp only
  rw [hp]
  dsimp only
  simp only [parksOn_iff]

/-- A wait whose result has come is taken: the thread goes on, or is ready where it parks. -/
theorem waitAnswer_come {w : Wait} {m : Byte} {o : BitVec 14} {c b14 b13 : Nat} (hp : t.holds.head? = some p.val)
    (ha : (port s p.val).answer = some (c, b14, b13)) : waitAnswer e.val w m o t s =
      if parksOn s p.val then park e.val p.val true (takeResult m o c b14 b13 t) (modPort p.val (fun x => { x with answer := none }) s)
      else setRun e.val (takeResult m o c b14 b13 t) (modPort p.val (fun x => { x with answer := none }) s) := by
  have hGen : parksOn (modPort p.val (fun x => { x with answer := none }) s) p.val = parksOn s p.val := by
    unfold parksOn
    rw [port_modPort, if_pos rfl]
  unfold waitAnswer
  rw [hp]
  dsimp only
  rw [ha]
  dsimp only
  rw [hGen]

/-- A wait with no result yet. -/
theorem waitAnswer_none {w : Wait} {m : Byte} {o : BitVec 14} (hp : t.holds.head? = some p.val)
    (ha : (port s p.val).answer = none) : waitAnswer e.val w m o t s =
      if parksOn s p.val then park e.val p.val false { t with wait := w, waitAt := now s } s
      else setRun e.val { t with wait := w, waitAt := now s } s := by
  unfold waitAnswer
  rw [hp]
  dsimp only
  rw [ha]

/-- What the statement says of a wait `w`, once its instruction has run with thread `t`. -/
theorem waitAnswer_does {w : Wait} {m : Byte} {o : BitVec 14} (hp : t.holds.head? = some p.val) :
    (∀ c b14 b13, (port s p.val).answer = some (c, b14, b13) →
      (¬ genCode (port s p.val).gen ≤ 1 → waitAnswer e.val w m o t s
        = setRun e.val (takeResult m o c b14 b13 t) (modPort p.val (fun x => { x with answer := none }) s))
      ∧ (genCode (port s p.val).gen ≤ 1 → ∃ u, waitAnswer e.val w m o t s = u
        ∧ (tfind (eng u e.val).parked p.val = some ⟨takeResult m o c b14 b13 t, true⟩ ∧ OtherEngines e.val s u)
        ∧ u.topo = (modPort p.val (fun x => { x with answer := none }) s).topo))
    ∧ ((port s p.val).answer = none → ¬ genCode (port s p.val).gen ≤ 1 →
      waitAnswer e.val w m o t s = setRun e.val { t with wait := w, waitAt := now s } s)
    ∧ ((port s p.val).answer = none → genCode (port s p.val).gen ≤ 1 → ∃ u, waitAnswer e.val w m o t s = u
      ∧ (tfind (eng u e.val).parked p.val = some ⟨{ t with wait := w, waitAt := now s }, false⟩ ∧ OtherEngines e.val s u)
      ∧ u.topo = s.topo) := by
  have hParks := parksOn_iff s p.val
  refine ⟨fun c b14 b13 ha => ⟨fun hg => ?_, fun hg => ?_⟩, fun ha hg => ?_, fun ha hg => ?_⟩
  · rw [waitAnswer_come hp ha, if_neg (mt hParks.1 hg)]
  · rw [waitAnswer_come hp ha, if_pos (hParks.2 hg)]
    obtain ⟨hAt, hOther, hTopo⟩ := park_does e.val p.val true (takeResult m o c b14 b13 t)
      (modPort p.val (fun x => { x with answer := none }) s)
    exact ⟨_, rfl, ⟨hAt, hOther⟩, hTopo⟩
  · rw [waitAnswer_none hp ha, if_neg (mt hParks.1 hg)]
  · rw [waitAnswer_none hp ha, if_pos (hParks.2 hg)]
    obtain ⟨hAt, hOther, hTopo⟩ := park_does e.val p.val false { t with wait := w, waitAt := now s } s
    exact ⟨_, rfl, ⟨hAt, hOther⟩, hTopo⟩

theorem exec_rdat {m : Byte} {o : BitVec 14} {c : Nat} (h : CanRun s e t c) (hc : waitCost s e.val = c) : exec (.rdat e m o) s
    = .next (if chanBarred s t true then scriptStop e.val 4 s else waitAnswer e.val (.rdat m o) m o (spend c t) s) := by
  subst hc
  refine (runs_both (o := execRdat e m o s) rfl h).trans (congrArg _ ?_)
  rw [chanBarred_spend]

theorem exec_whs {m : Byte} {o : BitVec 14} {c : Nat} (h : CanRun s e t c) (hc : waitCost s e.val = c) : exec (.whs e m o) s
    = .next (waitAnswer e.val (.whs m o) m o (spend c t) s) := by
  subst hc
  exact runs_both (o := execWhs e m o s) rfl h

theorem exec_rdat_open {m : Byte} {o : BitVec 14} {c : Nat} (h : CanRun s e t c) (hc : waitCost s e.val = c)
    (hb : chanBarred s t true = false) : exec (.rdat e m o) s = .next (waitAnswer e.val (.rdat m o) m o (spend c t) s) :=
  (exec_rdat h hc).trans (congrArg _ (if_neg (by simp [hb])))

/-! ### DLY and the resumption of a parked thread -/

theorem dly_parks {count : BitVec 20} (hp : t.holds.head? = some p.val) (hg : genCode (port s p.val).gen ≤ 1)
    (h : CanRun s e t 4) : ∃ u, exec (.dly e count) s = .next u
      ∧ (tfind (eng u e.val).parked p.val = some ⟨{ spend 4 t with wait := .dly }, false⟩ ∧ OtherEngines e.val s u) ∧ u.topo = s.topo := by
  have hCost : dlyCost s e.val count = 4 := by
    unfold dlyCost
    rw [executing_of h]
    dsimp only
    rw [hp]
    exact if_pos ((parksOn_iff _ _).2 hg)
  obtain ⟨hAt, hOther, hTopo⟩ := park_does e.val p.val false { spend 4 t with wait := .dly } s
  refine ⟨_, ?_, ⟨hAt, hOther⟩, hTopo⟩
  rw [← hCost] at h
  refine (runs_both (o := execDly e count s) rfl h).trans (congrArg _ ?_)
  have hHolds : (spend (dlyCost s e.val count) t).holds.head? = some p.val := hp
  rw [hHolds]
  dsimp only
  rw [if_pos ((parksOn_iff _ _).2 hg), hCost]

theorem dly_goes {count : BitVec 20} (hp : t.holds.head? = some p.val) (hg : ¬ genCode (port s p.val).gen ≤ 1)
    (h : CanRun s e t (dlyCost s e.val count)) :
    exec (.dly e count) s = .next (setRun e.val (advance (spend (dlyCost s e.val count) t)) s) := by
  refine (runs_both (o := execDly e count s) rfl h).trans (congrArg _ ?_)
  have hHolds : (spend (dlyCost s e.val count) t).holds.head? = some p.val := hp
  rw [hHolds]
  exact if_neg (mt (parksOn_iff _ _).1 hg)

theorem dlyExpiry_does {k : Parked} (hl : live s = true) (hk : tfind (eng s e.val).parked p.val = some k) (hw : k.thread.wait = .dly) :
    ∃ u, exec (.dlyExpiry e p) s = .next u ∧ OtherEngines e.val s u
      ∧ tfind (eng u e.val).parked p.val = some ⟨advance { k.thread with wait := .running }, true⟩
      ∧ (eng u e.val).run = (eng s e.val).run := by
  have hRun : exec (.dlyExpiry e p) s = .next (modEng e.val (fun x => { x with
      parked := tput x.parked p.val ⟨advance { k.thread with wait := .running }, true⟩ }) s) := by
    refine (runs_of_guard (o := execDlyExpiry e p s) (s := s) rfl hl).trans (congrArg _ ?_)
    rw [hk]
    exact if_pos (by rw [hw]; rfl)
  refine ⟨_, hRun, fun j hj => ?_, ?_, ?_⟩
  · rw [eng_modEng, if_neg hj]
  · rw [eng_modEng, if_pos rfl]
    exact tfind_tput_same _ _ _
  · rw [eng_modEng, if_pos rfl]

/-- The engine goes on with a parked thread, and what ran is suspended or gives way. -/
def resumedEngine (p : Nat) (k : Parked) (x : Engine) : Engine :=
  let y := { x with run := some k.thread, parked := tdel x.parked p }
  match x.run with
  | none => y
  | some t =>
    if t.kind == .dispatch then { y with suspended := some { t with wait := if t.wait == .getw then .running else t.wait } }
    else { y with paused := t :: y.paused }

theorem resumedEngine_does (p : Nat) (k : Parked) (x : Engine) : (resumedEngine p k x).run = some k.thread
    ∧ tfind (resumedEngine p k x).parked p = none
    ∧ (∀ v, x.run = some v → v.kind = .periodic → (resumedEngine p k x).paused = v :: x.paused)
    ∧ (∀ v, x.run = some v → v.kind = .dispatch → (resumedEngine p k x).suspended
      = some { v with wait := if v.wait == .getw then .running else v.wait }) := by
  have hKept : (resumedEngine p k x).run = some k.thread ∧ (resumedEngine p k x).parked = tdel x.parked p := by
    unfold resumedEngine
    dsimp only
    repeat' split
    all_goals exact ⟨rfl, rfl⟩
  obtain ⟨hRun, hParked⟩ := hKept
  refine ⟨hRun, by rw [hParked, tfind_tdel, if_pos rfl], fun v hv hk => ?_, fun v hv hk => ?_⟩
  · unfold resumedEngine
    rw [hv]
    dsimp only
    rw [if_neg (by rw [hk]; decide)]
  · unfold resumedEngine
    rw [hv]
    dsimp only
    rw [if_pos (by rw [hk]; rfl)]

theorem parkedThreadResume_does {k : Parked} (hl : live s = true) (hk : tfind (eng s e.val).parked p.val = some k)
    (hf : firstReady (eng s e.val) = some p.val) (hm : midTxn s e.val = false) :
    ∃ u, exec (.parkedThreadResume e p) s = .next u ∧ OtherEngines e.val s u
      ∧ (eng u e.val).run = some k.thread ∧ tfind (eng u e.val).parked p.val = none
      ∧ (∀ v, (eng s e.val).run = some v → v.kind = .periodic → (eng u e.val).paused = v :: (eng s e.val).paused)
      ∧ (∀ v, (eng s e.val).run = some v → v.kind = .dispatch → (eng u e.val).suspended
        = some { v with wait := if v.wait == .getw then .running else v.wait }) := by
  have hRun : exec (.parkedThreadResume e p) s = .next (setEng s e.val (resumedEngine p.val k (eng s e.val))) := by
    refine (runs_of_guard (o := execParkedThreadResume e p s) (s := s) rfl hl).trans (congrArg _ ?_)
    dsimp only
    rw [hk]
    exact if_neg (by simp [hf, hm])
  refine ⟨_, hRun, fun j hj => ?_, ?_⟩
  · rw [eng_setEng, if_neg hj]
  · rw [eng_setEng, if_pos rfl]
    exact resumedEngine_does _ _ _

end

/-- Settles O22: each wait by whether its result has come and whether its port parks. -/
theorem engineWaits : Obligations.EngineWaits := by
  intro s e t p mask off count hp parks parkedAs
  refine ⟨fun h => ?_, fun hg h => dly_parks hp hg h, fun hg h => dly_goes hp hg h, fun _ hl hk hw => dlyExpiry_does hl hk hw,
    fun _ hl hk hf hm => parkedThreadResume_does hl hk hf hm⟩
  have hCost : waitCost s e.val = if parks then 4 else 2 := waitCost_of h hp
  intro v
  obtain ⟨rCome, rOpen, rParks⟩ := waitAnswer_does (s := s) (e := e) (t := v) (w := .rdat mask off) (m := mask) (o := off) hp
  obtain ⟨wCome, wOpen, wParks⟩ := waitAnswer_does (s := s) (e := e) (t := v) (w := .whs mask off) (m := mask) (o := off) hp
  have hRdat := exec_rdat_open (m := mask) (o := off) h hCost
  have hWhs := exec_whs (m := mask) (o := off) h hCost
  refine ⟨fun hb => (exec_rdat h hCost).trans (congrArg _ (if_pos hb)), fun c b14 b13 ha => ⟨fun hg => ⟨fun hb => ?_, ?_⟩,
    fun hg => ⟨fun hb => ?_, ?_⟩⟩, fun ha hg => ⟨fun hb => ?_, ?_⟩, fun ha hg => ⟨fun hb => ?_, ?_⟩⟩
  · exact (hRdat hb).trans (congrArg _ ((rCome c b14 b13 ha).1 hg))
  · exact hWhs.trans (congrArg _ ((wCome c b14 b13 ha).1 hg))
  · obtain ⟨u, hu, hAt⟩ := (rCome c b14 b13 ha).2 hg
    exact ⟨u, (hRdat hb).trans (congrArg _ hu), hAt⟩
  · obtain ⟨u, hu, hAt⟩ := (wCome c b14 b13 ha).2 hg
    exact ⟨u, hWhs.trans (congrArg _ hu), hAt⟩
  · exact (hRdat hb).trans (congrArg _ (rOpen ha hg))
  · exact hWhs.trans (congrArg _ (wOpen ha hg))
  · obtain ⟨u, hu, hAt⟩ := rParks ha hg
    exact ⟨u, (hRdat hb).trans (congrArg _ hu), hAt⟩
  · obtain ⟨u, hu, hAt⟩ := wParks ha hg
    exact ⟨u, hWhs.trans (congrArg _ hu), hAt⟩

/-! ### Result codes (R238) -/

/-- The registers behind a result. -/
def resultRegs (code b14 b13 : Nat) (b : Tbl Byte) : Tbl Byte :=
  let b := tput b 15 (BitVec.ofNat 8 code)
  let b := if code = 4 ∨ code = 5 then tput b 14 (BitVec.ofNat 8 b14) else b
  if code = 0 ∨ code = 5 then tput b 13 (BitVec.ofNat 8 b13) else b

/-- A result that is taken: the registers are those of R238, and execution goes on by the mask. -/
theorem takeResult_eq (m : Byte) (o : BitVec 14) (code b14 b13 : Nat) (t : Thread) : takeResult m o code b14 b13 t =
    if bit m code then branchBy o { t with wait := .running, b := resultRegs code b14 b13 t.b }
    else advance { t with wait := .running, b := resultRegs code b14 b13 t.b } := by
  unfold takeResult resultRegs
  simp only [Bool.or_eq_true, decide_eq_true_eq]
  by_cases h4 : code = 4 ∨ code = 5 <;> by_cases h0 : code = 0 ∨ code = 5 <;> simp only [h4, h0, if_true, if_false] <;> rfl

theorem resultRegs_get (code b14 b13 : Nat) (b : Tbl Byte) (r : Nat) : tget 0 (resultRegs code b14 b13 b) r =
    if r = 13 ∧ (code = 0 ∨ code = 5) then BitVec.ofNat 8 b13
    else if r = 14 ∧ (code = 4 ∨ code = 5) then BitVec.ofNat 8 b14
    else if r = 15 then BitVec.ofNat 8 code else tget 0 b r := by
  unfold resultRegs
  dsimp only
  by_cases h4 : code = 4 ∨ code = 5 <;> by_cases h0 : code = 0 ∨ code = 5 <;>
    simp only [h4, h0, if_true, if_false, and_true, and_false, tget_tput]

/-- Settles O23: the registers are those of `resultRegs`, read one by one. -/
theorem resultCodes : Obligations.ResultCodes := by
  intro t mask off code b14 b13 _ u
  have hRegs : ∀ r, breg u r = tget 0 (resultRegs code b14 b13 t.b) r := fun r => by
    show breg (takeResult mask off code b14 b13 t) r = _
    rw [takeResult_eq]
    split <;> rfl
  have hRest : u.wait = .running ∧ (u.z, u.n, u.c, u.p) = (t.z, t.n, t.c, t.p) := by
    show (takeResult mask off code b14 b13 t).wait = _ ∧ _
    simp only [u, takeResult_eq]
    split <;> exact ⟨rfl, rfl⟩
  obtain ⟨hWait, hFlags⟩ := hRest
  refine ⟨?_, ?_, ?_, fun r hr => ?_, hWait, hFlags, fun h => ?_, fun h => ?_⟩
  · rw [hRegs, resultRegs_get]; simp
  · rw [hRegs, resultRegs_get]; simp [breg]
  · rw [hRegs, resultRegs_get]; simp [breg]
  · rw [hRegs, resultRegs_get, if_neg (by omega), if_neg (by omega), if_neg (by omega)]; rfl
  · show (takeResult mask off code b14 b13 t).pc = _
    rw [takeResult_eq, if_pos h]; rfl
  · show (takeResult mask off code b14 b13 t).pc = _
    rw [takeResult_eq, if_neg (by simp [h])]; rfl

end Sys2Proof.Machine
end

section
/-! PROOFS. Tokens and splits that an engine asks of a lane with nothing queued (R51, R65 to R68, R105 to R107, R240). -/

namespace Sys2Proof.Machine

section
variable {s : State} {e : EngId} {t : Thread} {p i : Nat} {x : Item} {c : Ctx}

theorem runs_micro_both {o : Host.Outcome State Fault Refusal} {cost : Nat} {f : Thread → State → State}
    (ho : o = instruction e .ms cost f s) (h : InMicrocode s e t) : o = .next (f t s) := by
  obtain ⟨⟨hl, hr, hw, hs⟩, hMicro⟩ := h
  have hCan : CanRun s e t cost := ⟨hl, hr, hw, by rw [hMicro] at hs ⊢; exact hs⟩
  have hRun := runs_both ho hCan
  rwa [spend_micro hMicro] at hRun

/-! ### What the lane's state shows of the line -/

theorem SameLine.gen {v : State} (h : SameLine s v) (p : Nat) : (Machine.port v p).gen = (Machine.port s p).gen := by
  obtain ⟨L, hp⟩ := h.port p
  rw [hp]

theorem SameLine.rest {v : State} (h : SameLine s v) : v.front = s.front ∧ v.fns = s.fns ∧ v.tb = s.tb ∧ v.dma = s.dma ∧ v.out = s.out
    ∧ v.topo.ctx = s.topo.ctx ∧ v.topo.dev = s.topo.dev ∧ v.eng.scripts = s.eng.scripts := by
  obtain ⟨E, P, rfl, -⟩ := h
  exact ⟨rfl, rfl, rfl, rfl, rfl, rfl, rfl, rfl⟩

/-- The port, where only what the lane has queued may differ. -/
theorem SameLine.txn {v : State} (h : SameLine s v) (p : Nat) : (Machine.port v p).txn = (Machine.port s p).txn := by
  obtain ⟨L, hp⟩ := h.port p
  rw [hp]

/-! ### TOK -/

/-- The kind of a token of an item's transfer. -/
def tokenKind (typ : BitVec 4) (x : Item) : TxnKind :=
  if typ = 5 then .setup else if x.poll then .poll else if typ = 3 then .bulkIn else .bulkOut

/-- The packets for which a token of an item may ask, of `n` named. -/
def tokenMost (s : State) (p n : Nat) (typ : BitVec 4) (x : Item) (c : Ctx) : Nat :=
  min (if serdes (port s p).gen then min n (min (c.maxBurst.toNat + 1) (maxBurstOf (port s p).gen)) else 1)
    (if typ = 5 then 1 else itemLeft s x c.mps.toNat)

/-- Of these the ones whose burst fits now. -/
def tokenFit (s : State) (p n num : Nat) (typ : BitVec 4) (x : Item) (c : Ctx) : Nat :=
  fitCount s p true (fun k => tokCost (port s p).gen (tokenKind typ x) k c.mps.toNat (tokTiers s c) + scriptTime s num)
    (tokenMost s p n typ x c)

/-- Of these, for an IN, the ones for which the staging has room. -/
def tokenCount (s : State) (p n num i : Nat) (typ : BitVec 4) (x : Item) (c : Ctx) : Nat :=
  if typ = 3 then roomCount s i x c.mps.toNat (tokenFit s p n num typ x c) else tokenFit s p n num typ x c

theorem toNat_five (typ : BitVec 4) : typ.toNat = 5 ↔ typ = 5 :=
  ⟨fun h => BitVec.eq_of_toNat_eq h, fun h => by rw [h]; rfl⟩

theorem toNat_three (typ : BitVec 4) : typ.toNat = 3 ↔ typ = 3 :=
  ⟨fun h => BitVec.eq_of_toNat_eq h, fun h => by rw [h]; rfl⟩

theorem toNat_in (typ : BitVec 4) : (typ.toNat == 3) = (typ == 3) := by
  rw [Bool.eq_iff_iff, beq_iff_eq, beq_iff_eq, toNat_three]

theorem tokKind_item (typ : BitVec 4) (hi : item? s i = some x) : tokKind s (.item i) typ.toNat = tokenKind typ x := by
  unfold tokKind tokenKind
  dsimp only
  rw [hi]
  simp only [toNat_five, toNat_three]

theorem packetsLeft_item (typ : BitVec 4) (m : Nat) : packetsLeft s (.item i) (tokenKind typ x) x m
    = if typ = 5 then 1 else itemLeft s x m := by
  unfold tokenKind
  by_cases h5 : typ = 5
  · rw [if_pos h5, if_pos h5]; rfl
  · rw [if_neg h5, if_neg h5]
    cases x.poll
    · by_cases h3 : typ = 3
      · rw [if_neg Bool.false_ne_true, if_pos h3]; rfl
      · rw [if_neg Bool.false_ne_true, if_neg h3]; rfl
    · rfl

theorem workOpen_item (hi : item? s i = some x) (hs : x.status = none) (hp : x.stopAs = none) :
    workOpen s (.item i) = some (some i) := by
  unfold workOpen
  dsimp only
  rw [hi]
  simp [hs, hp]

/-- The token of an item's transfer on an open endpoint. -/
theorem sendToken_item {typ : BitVec 4} {n ep : Nat} {retry : Bool} {num : Nat} (hn : field (workHandle s (.item i)) 0 12 = num)
    (hc : ctx? s num ep (typ == 3) = some c) (ho : c.isOpen = true) (hh : c.halted = false)
    (hi : item? s i = some x) (hs : x.status = none) (hp : x.stopAs = none) :
    sendToken e.val p (.item i) typ.toNat n ep true retry s =
      if tokenMost s p n typ x c = 0 then some s
      else if tokenCount s p n num i typ x c = 0 then none
      else some (tokenOut e.val p (.item i) (.item i) (some i) typ.toNat (tokenCount s p n num i typ x c) ep
        (tokenKind typ x) retry num c s) := by
  unfold sendToken
  dsimp only
  rw [hn, toNat_in, hc, workOpen_item hi hs hp]
  dsimp only
  simp only [Option.bind_some, hi, tokKind_item typ hi, packetsLeft_item, ho, hh, Bool.not_true, Bool.false_or, if_true,
    Bool.true_or, isServiceWork, Bool.not_false]
  have hMost : burstMost s p c n (some (if typ = 5 then 1 else itemLeft s x c.mps.toNat)) = tokenMost s p n typ x c := rfl
  rw [hMost]
  have hCount : (if (typ == 3) = true then roomCount s i x c.mps.toNat (fitCount s p true (fun k =>
        tokCost (port s p).gen (tokenKind typ x) k c.mps.toNat (tokTiers s c) + scriptTime s num) (tokenMost s p n typ x c))
      else fitCount s p true (fun k =>
        tokCost (port s p).gen (tokenKind typ x) k c.mps.toNat (tokTiers s c) + scriptTime s num) (tokenMost s p n typ x c))
      = tokenCount s p n num i typ x c := by
    unfold tokenCount tokenFit
    simp only [beq_iff_eq]
  rw [hCount]
  simp only [decide_eq_true_eq]

theorem SameLine.tokenMost {v : State} (h : SameLine s v) (p n : Nat) (typ : BitVec 4) (x : Item) (c : Ctx) :
    Machine.tokenMost v p n typ x c = Machine.tokenMost s p n typ x c := by
  unfold Machine.tokenMost
  rw [h.gen]
  obtain ⟨E, P, rfl, -⟩ := h
  rfl

theorem SameLine.tokenFit {v : State} (h : SameLine s v) (p n num : Nat) (typ : BitVec 4) (x : Item) (c : Ctx) :
    Machine.tokenFit v p n num typ x c = Machine.tokenFit s p n num typ x c := by
  unfold Machine.tokenFit
  rw [fitCount_same h, h.tokenMost, h.gen]
  obtain ⟨E, P, rfl, -⟩ := h
  rfl

theorem SameLine.tokenCount {v : State} (h : SameLine s v) (p n num i : Nat) (typ : BitVec 4) (x : Item) (c : Ctx) :
    Machine.tokenCount v p n num i typ x c = Machine.tokenCount s p n num i typ x c := by
  unfold Machine.tokenCount
  rw [h.tokenFit]
  obtain ⟨E, P, rfl, -⟩ := h
  rfl

theorem fitCount_le (p : Nat) (b : Bool) (f : Nat → Nat) (n : Nat) : fitCount s p b f n ≤ n := by
  induction n with
  | zero => exact Nat.le_refl 0
  | succ n ih =>
    unfold fitCount
    split
    · exact Nat.le_refl _
    · exact Nat.le_succ_of_le ih

theorem roomCount_none (i : Nat) (x : Item) (m : Nat) : roomCount s i x m 0 = 0 := by
  unfold roomCount
  split
  · rfl
  · split <;> rfl

/-- A token that asks for packets may ask for some. -/
theorem tokenMost_pos {n num : Nat} {typ : BitVec 4} (h : tokenCount s p n num i typ x c ≠ 0) : tokenMost s p n typ x c ≠ 0 := by
  intro hMost
  refine h ?_
  have hFit : tokenFit s p n num typ x c = 0 := by
    have hLe := fitCount_le (s := s) p true (fun k => tokCost (port s p).gen (tokenKind typ x) k c.mps.toNat (tokTiers s c)
      + scriptTime s num) (tokenMost s p n typ x c)
    rw [hMost] at hLe
    unfold tokenFit
    rw [hMost]
    omega
  unfold tokenCount
  rw [hFit, roomCount_none]
  split <;> rfl

/-- The sequence of a token: of its endpoint's context, and 0 for SETUP. -/
def tokenSeq (typ : BitVec 4) (ep : Nat) (c : Ctx) : BitVec 5 :=
  if typ = 5 then 0 else if ep = 0 ∧ (typ == 3) = false then c.seqOut else c.seq

/-- The header of a token of `n` packets. -/
def tokenHdr (typ : BitVec 4) (ep n : Nat) (c : Ctx) (retry gasp : Bool) : Hdr :=
  ⟨BitVec.ofNat 7 c.waddr, typ == 3, BitVec.ofNat 4 ep, tokenSeq typ ep c, 0,
    if typ = 5 then 0 else BitVec.ofNat 4 (n - 1), false, retry, gasp, 0⟩

/-- A transaction opens on a port. -/
def openTxn (p : Nat) (tx : Txn) (s : State) : State :=
  modPort p (fun y => { y with txn := some tx, answer := none, ended := none }) s

theorem txnSeq_item {tx : Txn} {i : Nat} (hw : tx.work = .item i) (hc : ctx? s tx.num tx.ep tx.dirIn = some c) :
    txnSeq s tx = if tx.ep = 0 ∧ tx.dirIn = false then c.seqOut else c.seq := by
  unfold txnSeq txnCtx
  rw [hw, hc]
  simp only [Bool.and_eq_true, decide_eq_true_eq, Bool.not_eq_true', Option.getD_some]

theorem tokenOut_item {typ : BitVec 4} {n ep num : Nat} {k : TxnKind} {retry : Bool} (hc : ctx? s num ep (typ == 3) = some c) :
    tokenOut e.val p (.item i) (.item i) (some i) typ.toNat n ep k retry num c s
      = openTxn p (tokenTxn e.val i k num ep (typ == 3) (tokenSeq typ ep c) n retry (typ == 3) (now s))
        (send p (if typ = 5 then .setup else if typ = 3 then .in_ else .out)
          (tokenHdr typ ep n c retry (gaspToken s num c (.item i))) [] (beginItem i s)) := by
  have hSeq : ∀ tx : Txn, tx.work = .item i → tx.num = num → tx.ep = ep → tx.dirIn = (typ == 3) →
      (if typ = 5 then 0 else txnSeq s tx) = tokenSeq typ ep c := fun tx h1 h2 h3 h4 => by
    unfold tokenSeq
    rw [txnSeq_item h1 (by rw [h2, h3, h4]; exact hc), h3, h4]
  unfold tokenOut
  dsimp only
  simp only [toNat_five, toNat_in, beq_iff_eq]
  rw [hSeq _ rfl rfl rfl rfl]
  rfl

/-- The stamp that the first token of a transfer gives it. -/
def beginStamp (s : State) (x : Item) : Stamp :=
  if eAxis x.raw && x.posted.isNone then axisStamp s (cmpUnit s (eUnit x.raw)).axis else frameStamp s

theorem item_beginItem (i k : Nat) {s : State} {x : Item} (hi : item? s i = some x) : item? (beginItem i s) k
    = if k = i then some (if x.begun then x else { x with begun := true, stamp := beginStamp s x }) else item? s k := by
  unfold beginItem
  rw [item_modItem, hi]
  rfl

/-- What opens a transaction for an item that has begun, on a state in which the engine has gone on. -/
theorem openTxn_begins {v u : State} {x' : Item} {k : TxnKind} {num ep n : Nat} {dirIn retry waiting : Bool} {q : BitVec 5}
    (hv : SameLine s v) (hr : (eng v e.val).run = some (advance t)) (ho : OtherEngines e.val s v)
    (hp : ∀ j, j ≠ p → port v j = port s j) (hTopo : u.topo = v.topo) (hEng : u.eng = v.eng)
    (hItem : ∃ st, item? u i = some (if x'.begun then x' else { x' with begun := true, stamp := st }))
    (hOther : OtherItems i v u) :
    TxnBegun e t p i x' k num ep dirIn q n retry waiting s (openTxn p (tokenTxn e.val i k num ep dirIn q n retry waiting (now v)) u) := by
  have hNow : now v = now s := by
    unfold now
    rw [hv.rest.2.2.1]
  have hEngAt : ∀ j, eng u j = eng v j := fun j => by unfold eng; rw [hEng]
  refine ⟨?_, ?_, ?_, hItem, fun j hj => ?_, fun j hj => ?_, fun j hj => ?_⟩ <;> unfold openTxn
  · rw [port_modPort, if_pos rfl, hNow]
  · rw [port_modPort, if_pos rfl]
  · rw [eng_of_modPort, hEngAt, hr]
  · exact (hOther j hj).trans (hv.item? j)
  · rw [port_modPort, if_neg hj, port_of_topo hTopo, hp j hj]
  · rw [eng_of_modPort, hEngAt, ho j hj]

theorem beginItem_rest (i : Nat) (s : State) : (beginItem i s).topo = s.topo ∧ (beginItem i s).eng = s.eng ∧ (beginItem i s).out = s.out :=
  ⟨topo_of_modItem _ _ _, engs_of_modItem _ _ _, out_of_modItem _ _ _⟩

theorem exec_tok {typ : BitVec 4} {rs : Fin 16} {retry : Bool} (h : InMicrocode s e t) (ht : typ = 3 ∨ typ = 4 ∨ typ = 5) :
    exec (.tok e typ rs retry) s = .next (askLane e.val t
      (.tok typ.toNat (field (breg t rs.val) 0 4 + 1) (workEp s t.work).1 true retry) s) := by
  have hMicro : t.script = none := h.2
  refine (runs_micro_both (o := execTok e typ rs retry s) rfl h).trans (congrArg _ ?_)
  have hEp : tokEp s t = ((workEp s t.work).1, true) := by
    unfold tokEp
    rw [hMicro]
    rfl
  dsimp only
  rw [hEp, hMicro, if_neg (by rcases ht with rfl | rfl | rfl <;> decide), if_neg (by simp)]

/-- The engine has gone on, and nothing has gone out on the lane, which has `l` queued. -/
def LaneKeeps (e : EngId) (t : Thread) (p : Nat) (l : List (Nat × Work × LaneOp)) (s u : State) : Prop :=
  (eng u e.val).run = some (advance t) ∧ OtherEngines e.val s u
    ∧ u.out = s.out ∧ (port u p).lane = l ∧ (port u p).txn = (port s p).txn ∧ OtherPorts p s u

theorem SameLine.laneKeeps {u : State} {l : List (Nat × Work × LaneOp)} (hu : SameLine s u)
    (hr : (eng u e.val).run = some (advance t)) (ho : OtherEngines e.val s u) (hp : ∀ k, k ≠ p → Machine.port u k = Machine.port s k)
    (hl : (Machine.port u p).lane = l) : LaneKeeps e t p l s u :=
  ⟨hr, ho, hu.rest.2.2.2.2.1, hl, hu.txn p, hp⟩

/-- What becomes of a token that an engine asks for, by what the lane sends of it. -/
theorem askLane_does {op : LaneOp} (hOn : OnLine s e t p i x) (he : x.pendErr = none) (hq : (port s p).lane = [])
    (hop : ∀ k, op ≠ .sdat k) :
    (¬ ((port s p).txn = none ∧ lineFree s p = true) → LaneKeeps e t p [(e.val, t.work, op)] s (askLane e.val t op s))
    ∧ ((port s p).txn = none ∧ lineFree s p = true → ∃ v, SameLine s v ∧ (eng v e.val).run = some (advance t) ∧ OtherEngines e.val s v
      ∧ (∀ k, k ≠ p → port v k = port s k)
      ∧ (laneToken e.val p t.work op v = some v → LaneKeeps e t p [] s (askLane e.val t op s))
      ∧ (laneToken e.val p t.work op v = none → LaneKeeps e t p [(e.val, t.work, op)] s (askLane e.val t op s))
      ∧ (∀ w, laneToken e.val p t.work op v = some w → askLane e.val t op s = w)) := by
  obtain ⟨-, hw, hp, hi, -, -, hReady⟩ := hOn
  obtain ⟨u, hu, hr, ho, hPorts, hBusy, hFree⟩ := askLane_free hw hi hp he hReady hq hop
  refine ⟨fun hn => ?_, fun hf => ?_⟩
  · have hWaits : (port s p).txn.isSome = true ∨ lineFree s p = false := by
      by_contra hc
      rw [not_or] at hc
      exact hn ⟨by simpa using hc.1, by simpa using hc.2⟩
    obtain ⟨hLane, hAsk⟩ := hBusy hWaits
    rw [hAsk]
    exact hu.laneKeeps hr ho hPorts hLane
  · obtain ⟨v, hv, hvr, hvo, hvp, hvl, hul, hAsk⟩ := hFree hf.1 hf.2
    refine ⟨v, hv, hvr, hvo, hvp, fun h => ?_, fun h => ?_, fun w h => ?_⟩
    · rw [hAsk, h]
      exact hv.laneKeeps hvr hvo hvp hvl
    · rw [hAsk, h]
      exact hu.laneKeeps hr ho hPorts hul
    · rw [hAsk, h]
      rfl

/-- What the statement says of TOK. -/
theorem tok_does {typ : BitVec 4} {rs : Fin 16} {retry : Bool} (hOn : OnLine s e t p i x) (he : x.pendErr = none)
    (hq : (port s p).lane = []) (ht : typ = 3 ∨ typ = 4 ∨ typ = 5) {num ep n : Nat}
    (hNum : field (workHandle s t.work) 0 12 = num) (hEp : (workEp s t.work).1 = ep) (hNamed : field (breg t rs.val) 0 4 + 1 = n)
    (hc : ctx? s num ep (typ == 3) = some c) (ho : c.isOpen = true) (hh : c.halted = false) :
    (¬ ((port s p).txn = none ∧ lineFree s p = true) → ∃ u, exec (.tok e typ rs retry) s = .next u
      ∧ LaneKeeps e t p [(e.val, t.work, .tok typ.toNat n ep true retry)] s u)
    ∧ ((port s p).txn = none ∧ lineFree s p = true → tokenMost s p n typ x c = 0 → ∃ u, exec (.tok e typ rs retry) s = .next u
      ∧ LaneKeeps e t p [] s u)
    ∧ ((port s p).txn = none ∧ lineFree s p = true → tokenMost s p n typ x c ≠ 0 → tokenCount s p n num i typ x c = 0 →
      ∃ u, exec (.tok e typ rs retry) s = .next u ∧ LaneKeeps e t p [(e.val, t.work, .tok typ.toNat n ep true retry)] s u)
    ∧ ((port s p).txn = none ∧ lineFree s p = true → tokenCount s p n num i typ x c ≠ 0 → ∃ u, exec (.tok e typ rs retry) s = .next u
      ∧ u.out = s.out ++ [.packet p (packetBytes (port s p).gen (if typ = 5 then .setup else if typ = 3 then .in_ else .out)
          (tokenHdr typ ep (tokenCount s p n num i typ x c) c retry (gaspToken s num c t.work)) [])]
      ∧ TxnBegun e t p i x (tokenKind typ x) num ep (typ == 3) (tokenSeq typ ep c) (tokenCount s p n num i typ x c) retry (typ == 3) s u) := by
  have hRun := exec_tok (rs := rs) (retry := retry) hOn.1 ht
  rw [hEp, hNamed] at hRun
  obtain ⟨hBusy, hFree⟩ := askLane_does hOn he hq (op := .tok typ.toNat n ep true retry) (fun k => LaneOp.noConfusion)
  refine ⟨fun hn => ⟨_, hRun, hBusy hn⟩, ?_⟩
  obtain ⟨-, hw, -, hi, hs, hp, -⟩ := hOn
  have hToken : ∀ v, SameLine s v → laneToken e.val p t.work (.tok typ.toNat n ep true retry) v =
      if tokenMost s p n typ x c = 0 then some v
      else if tokenCount s p n num i typ x c = 0 then none
      else some (tokenOut e.val p (.item i) (.item i) (some i) typ.toNat (tokenCount s p n num i typ x c) ep
        (tokenKind typ x) retry num c v) := fun v hv => by
    have hSent := sendToken_item (e := e) (p := p) (retry := retry) (n := n)
      (show field (workHandle v (.item i)) 0 12 = num by rw [hv.workHandle, ← hw]; exact hNum)
      (show ctx? v num ep (typ == 3) = some c by
        obtain ⟨E, P, rfl, -⟩ := hv; exact hc) ho hh ((hv.item? i).trans hi) hs hp
    rw [hv.tokenMost, hv.tokenCount] at hSent
    rw [hw]
    exact hSent
  refine ⟨fun hf hMost => ?_, fun hf hMost hNone => ?_, fun hf hSome => ?_⟩
  · obtain ⟨v, hv, -, -, -, hNothing, -, -⟩ := hFree hf
    exact ⟨_, hRun, hNothing (by rw [hToken v hv, if_pos hMost])⟩
  · obtain ⟨v, hv, -, -, -, -, hWaits, -⟩ := hFree hf
    exact ⟨_, hRun, hWaits (by rw [hToken v hv, if_neg hMost, if_pos hNone])⟩
  · obtain ⟨v, hv, hvr, hvo, hvp, -, -, hSends⟩ := hFree hf
    have hvc : ctx? v num ep (typ == 3) = some c := by
      obtain ⟨E, P, rfl, -⟩ := hv; exact hc
    have hvi : item? v i = some x := (hv.item? i).trans hi
    obtain ⟨hTopo, hEng, hOut⟩ := beginItem_rest i v
    have hSent := hSends _ ((hToken v hv).trans ((if_neg (tokenMost_pos hSome)).trans (if_neg hSome)))
    rw [tokenOut_item hvc] at hSent
    refine ⟨_, hRun.trans (congrArg _ hSent), ?_, ?_⟩
    · show (beginItem i v).out ++ [Output.packet p (packetBytes (port (beginItem i v) p).gen _ _ [])] = _
      rw [hOut, port_of_topo hTopo, hv.gen, hv.gaspToken, hv.rest.2.2.2.2.1, hw]
    · refine openTxn_begins hv hvr hvo hvp hTopo hEng ⟨beginStamp v x, ?_⟩ (fun j hj => ?_)
      · exact (item_beginItem i i hvi).trans (if_pos rfl)
      · exact (item_beginItem i j hvi).trans (if_neg hj)

/-! ### SPL (R105 to R107) -/

/-- The split of an item may go out: a start while packets are left, a done once its unit has come. -/
def SplitDue (s : State) (x : Item) (c : Ctx) (start : Bool) : Prop :=
  if start then itemLeft s x c.mps.toNat ≠ 0 else ∃ a, x.doneAt = some a ∧ a ≤ absUframe s

theorem splitDue_iff (start : Bool) : (start && !isServiceWork (.item i) && decide (itemLeft s x c.mps.toNat = 0)
    || !splitTimely s (.item i) x start) = true ↔ ¬ SplitDue s x c start := by
  unfold SplitDue splitTimely isServiceWork
  cases start
  · cases x.doneAt with
    | none => simp
    | some a => simp
  · simp

/-- The cost of an item's split. -/
def splitCost (s : State) (p num : Nat) (x : Item) (c : Ctx) (start : Bool) : Nat :=
  splCost (port s p).gen start false (nextIn x) c.mps.toNat (tokTiers s c) + scriptTime s num

theorem splitItem_item (start : Bool) (hi : item? s i = some x) (hs : x.status = none) (hp : x.stopAs = none) :
    splitItem s (.item i) start = some i := by
  unfold splitItem
  dsimp only
  rw [hi]
  simp [hs, hp]

theorem splitCtx_item {num ep : Nat} (hn : field (workHandle s (.item i)) 0 12 = num) (hep : (workEp s (.item i)).1 = ep)
    (hc : ctx? s num ep (nextIn x) = some c) : splitCtx s (.item i) x = c.tt.map fun tt => (c, tt) := by
  unfold splitCtx
  rw [hn, hep]
  show (ctx? s num ep (nextIn x)).bind _ = _
  rw [hc]
  rfl

/-- The split of an item's transfer on an open endpoint. -/
theorem sendSplit_item {start retry : Bool} {num ep : Nat} (hn : field (workHandle s (.item i)) 0 12 = num)
    (hep : (workEp s (.item i)).1 = ep) (hc : ctx? s num ep (nextIn x) = some c) (ho : c.isOpen = true) (hh : c.halted = false)
    (hi : item? s i = some x) (hs : x.status = none) (hp : x.stopAs = none) :
    (c.tt = none ∨ ¬ SplitDue s x c start → sendSplit e.val p (.item i) start retry s = some s)
    ∧ (∀ tt, c.tt = some tt → SplitDue s x c start → sendSplit e.val p (.item i) start retry s =
      if fits s p (splitCost s p num x c start) true then some (splitOut e.val p (.item i) i x start retry num c tt s) else none) := by
  have hCtx := splitCtx_item hn hep hc
  have hBar : ∀ tt, c.tt = some tt → sendSplit e.val p (.item i) start retry s =
      if start && !isServiceWork (.item i) && decide (itemLeft s x c.mps.toNat = 0) || !splitTimely s (.item i) x start then some s
      else if !fits s p (splitCost s p num x c start) true then none
      else some (splitOut e.val p (.item i) i x start retry num c tt s) := fun tt ht => by
    unfold sendSplit
    rw [splitItem_item start hi hs hp]
    dsimp only
    rw [hi]
    dsimp only
    rw [hCtx, ht, hn]
    simp only [Option.map_some, ho, hh, Bool.not_true, Bool.false_or]
    rfl
  refine ⟨fun h => ?_, fun tt ht hDue => ?_⟩
  · cases ht : c.tt with
    | none =>
      unfold sendSplit
      rw [splitItem_item start hi hs hp]
      dsimp only
      rw [hi]
      dsimp only
      rw [hCtx, ht]
      rfl
    | some tt => rw [hBar tt ht, if_pos ((splitDue_iff start).2 (h.resolve_left (by simp [ht])))]
  · rw [hBar tt ht, if_neg fun k => (splitDue_iff start).1 k hDue]
    cases fits s p (splitCost s p num x c start) true <;> rfl

/-- The sequence of an item's split. -/
def splitSeq (ep : Nat) (x : Item) (c : Ctx) : BitVec 5 :=
  if itemCtrl x && x.stage == 0 then 0 else if ep = 0 ∧ nextIn x = false then c.seqOut else c.seq

/-- A SPLIT-START takes back what an earlier one had come to. -/
def startedAfresh (start : Bool) (x : Item) : Item := if start then { x with nyet := false, doneAt := none } else x

theorem splitOut_item {start retry : Bool} {num ep : Nat} {tt : TtPath} (hep : field c.epaddr 0 4 = ep)
    (hc : ctx? s num ep (nextIn x) = some c) : splitOut e.val p (.item i) i x start retry num c tt s
      = openTxn p (tokenTxn e.val i (if start then .splitStart else .splitDone) num ep (nextIn x) (splitSeq ep x c) 1 retry
          (!start || nextIn x) (now s))
        (send p (if start then .splitStart else .splitDone) (splitHdr c tt (nextIn x) (itemCtrl x && x.stage == 0) (splitSeq ep x c) retry
          (gaspToken s num c (.item i))) [] (modItem i (startedAfresh start) (beginItem i s))) := by
  have hSetup : (itemCtrl x && x.stage == 0 && !isServiceWork (.item i)) = (itemCtrl x && x.stage == 0) := Bool.and_true _
  have hWait : (!start || (nextIn x && !isPeriodic s (.item i))) = (!start || nextIn x) := by
    show (!start || (nextIn x && true)) = _
    rw [Bool.and_true]
  have hSeq : ∀ tx : Txn, tx.work = .item i → tx.num = num → tx.ep = ep → tx.dirIn = nextIn x →
      (if (itemCtrl x && x.stage == 0) = true then 0 else txnSeq s tx) = splitSeq ep x c := fun tx h1 h2 h3 h4 => by
    unfold splitSeq
    rw [txnSeq_item h1 (by rw [h2, h3, h4]; exact hc), h3, h4]
  unfold splitOut
  dsimp only
  rw [hSetup, show splitIn (.item i) x = nextIn x from rfl, hWait, hep, hSeq _ rfl rfl rfl rfl]
  rfl

/-- An item whose split has gone out has begun, whichever is noted first. -/
theorem startedAfresh_begun (start : Bool) (x : Item) (st : Stamp) :
    startedAfresh start (if x.begun then x else { x with begun := true, stamp := st })
      = if (startedAfresh start x).begun then startedAfresh start x else { startedAfresh start x with begun := true, stamp := st } := by
  cases start
  · rfl
  · cases hb : x.begun <;> simp [startedAfresh, hb]

theorem exec_spl {start retry : Bool} {rs : Fin 16} (h : InMicrocode s e t) (hp : workPort s t.work = p)
    (hg : serdes (port s p).gen = true) :
    exec (.spl e (if start then 6 else 7) rs retry) s = .next (askLane e.val t (.spl start retry) s) := by
  have hTyp : ((if start then 6 else 7 : BitVec 4) == 6) = start := by cases start <;> rfl
  have hLegal : ((if start then 6 else 7 : BitVec 4) == 6 || (if start then 6 else 7 : BitVec 4) == 7) = true := by cases start <;> rfl
  refine (runs_micro (o := execSpl e (if start then 6 else 7) rs retry s) rfl h).trans (congrArg _ ?_)
  rw [hLegal, if_neg (by simp), hp, hg, if_neg (by simp), hTyp]

/-- What the statement says of SPL. -/
theorem spl_does {start retry : Bool} {rs : Fin 16} (hOn : OnLine s e t p i x) (he : x.pendErr = none)
    (hq : (port s p).lane = []) (hg : serdes (port s p).gen = true) {num ep : Nat}
    (hNum : field (workHandle s t.work) 0 12 = num) (hEp : (workEp s t.work).1 = ep) (hAddr : field c.epaddr 0 4 = ep)
    (hc : ctx? s num ep (nextIn x) = some c) (ho : c.isOpen = true) (hh : c.halted = false) :
    (¬ ((port s p).txn = none ∧ lineFree s p = true) → ∃ u, exec (.spl e (if start then 6 else 7) rs retry) s = .next u
      ∧ LaneKeeps e t p [(e.val, t.work, .spl start retry)] s u)
    ∧ ((port s p).txn = none ∧ lineFree s p = true → c.tt = none ∨ ¬ SplitDue s x c start →
      ∃ u, exec (.spl e (if start then 6 else 7) rs retry) s = .next u ∧ LaneKeeps e t p [] s u)
    ∧ (∀ tt, c.tt = some tt → (port s p).txn = none ∧ lineFree s p = true → SplitDue s x c start →
      (fits s p (splitCost s p num x c start) true = false → ∃ u, exec (.spl e (if start then 6 else 7) rs retry) s = .next u
        ∧ LaneKeeps e t p [(e.val, t.work, .spl start retry)] s u)
      ∧ (fits s p (splitCost s p num x c start) true = true → ∃ u, exec (.spl e (if start then 6 else 7) rs retry) s = .next u
        ∧ u.out = s.out ++ [.packet p (packetBytes (port s p).gen (if start then .splitStart else .splitDone)
            (splitHdr c tt (nextIn x) (itemCtrl x && x.stage == 0) (splitSeq ep x c) retry (gaspToken s num c t.work)) [])]
        ∧ TxnBegun e t p i (startedAfresh start x) (if start then .splitStart else .splitDone) num ep (nextIn x) (splitSeq ep x c) 1 retry
            (!start || nextIn x) s u)) := by
  have hPort : workPort s t.work = p := hOn.2.2.1
  have hRun := exec_spl (start := start) (rs := rs) (retry := retry) hOn.1 hPort hg
  obtain ⟨hBusy, hFree⟩ := askLane_does hOn he hq (op := .spl start retry) (fun k => LaneOp.noConfusion)
  refine ⟨fun hn => ⟨_, hRun, hBusy hn⟩, ?_⟩
  obtain ⟨-, hw, -, hi, hs, hp, -⟩ := hOn
  have hDue : ∀ v, SameLine s v → (SplitDue v x c start ↔ SplitDue s x c start) := fun v hv => by
    obtain ⟨E, P, rfl, -⟩ := hv; exact Iff.rfl
  have hCost : ∀ v, SameLine s v → splitCost v p num x c start = splitCost s p num x c start := fun v hv => by
    unfold splitCost
    rw [hv.gen]
    obtain ⟨E, P, rfl, -⟩ := hv; rfl
  have hCtx : ∀ v, SameLine s v → ctx? v num ep (nextIn x) = some c := fun v hv => by
    obtain ⟨E, P, rfl, -⟩ := hv; exact hc
  have hWorkEp : ∀ v, SameLine s v → (workEp v (.item i)).1 = ep := fun v hv => by
    rw [← hEp, hw]
    obtain ⟨E, P, rfl, -⟩ := hv; rfl
  have hSplit := fun v (hv : SameLine s v) => sendSplit_item (e := e) (p := p) (start := start) (retry := retry)
    (show field (workHandle v (.item i)) 0 12 = num by rw [hv.workHandle, ← hw]; exact hNum) (hWorkEp v hv) (hCtx v hv) ho hh
    ((hv.item? i).trans hi) hs hp
  refine ⟨fun hf hNone => ?_, fun tt ht hf hTime => ⟨fun hFit => ?_, fun hFit => ?_⟩⟩
  · obtain ⟨v, hv, -, -, -, hNothing, -, -⟩ := hFree hf
    refine ⟨_, hRun, hNothing ?_⟩
    rw [hw]
    exact (hSplit v hv).1 (hNone.imp_right (mt (hDue v hv).1))
  · obtain ⟨v, hv, -, -, -, -, hWaits, -⟩ := hFree hf
    refine ⟨_, hRun, hWaits ?_⟩
    rw [hw]
    refine ((hSplit v hv).2 tt ht ((hDue v hv).2 hTime)).trans ?_
    rw [hCost v hv, hv.fits, hFit]
    rfl
  · obtain ⟨v, hv, hvr, hvo, hvp, -, -, hSends⟩ := hFree hf
    have hvi : item? v i = some x := (hv.item? i).trans hi
    have hToken : laneToken e.val p t.work (.spl start retry) v = some (splitOut e.val p (.item i) i x start retry num c tt v) := by
      rw [hw]
      refine ((hSplit v hv).2 tt ht ((hDue v hv).2 hTime)).trans ?_
      rw [hCost v hv, hv.fits, hFit]
      rfl
    have hSent := hSends _ hToken
    rw [splitOut_item hAddr (hCtx v hv)] at hSent
    obtain ⟨hTopo, hEng, hOut⟩ := beginItem_rest i v
    have hTopo' : (modItem i (startedAfresh start) (beginItem i v)).topo = v.topo := (topo_of_modItem _ _ _).trans hTopo
    refine ⟨_, hRun.trans (congrArg _ hSent), ?_, ?_⟩
    · show (modItem i (startedAfresh start) (beginItem i v)).out
        ++ [Output.packet p (packetBytes (port (modItem i (startedAfresh start) (beginItem i v)) p).gen _ _ [])] = _
      rw [out_of_modItem, hOut, port_of_topo hTopo', hv.gen, hv.gaspToken, hv.rest.2.2.2.2.1, hw]
    · refine openTxn_begins hv hvr hvo hvp hTopo' ((engs_of_modItem _ _ _).trans hEng) ⟨beginStamp v x, ?_⟩ (fun j hj => ?_)
      · refine (item_modItem i i _ _).trans ((if_pos rfl).trans ?_)
        rw [item_beginItem i i hvi, if_pos rfl]
        exact congrArg some (startedAfresh_begun _ _ _)
      · refine (item_modItem i j _ _).trans ((if_neg hj).trans ?_)
        rw [item_beginItem i j hvi, if_neg hj]

end

/-- Settles O24: a token and a split by what the lane sends of them. -/
theorem engineTokens : Obligations.EngineTokens := fun _ _ _ _ _ _ _ _ _ hOn he hq =>
  ⟨fun _ ht hc ho hh => tok_does hOn he hq ht rfl rfl rfl hc ho hh,
    fun _ hc ho hh hAddr hg => spl_does hOn he hq hg rfl rfl hAddr hc ho hh⟩

end Sys2Proof.Machine
end

section
/-! PROOFS. DATA and acknowledgement that an engine asks of its port lane (R63, R64, R239, R240, R299, R315). -/

namespace Sys2Proof.Machine

section
variable {s : State} {e : EngId} {t : Thread} {p i : Nat} {x : Item} {tx : Txn}

/-! ### SDAT -/

theorem port_modTxn (p k : Nat) (g : Txn → Txn) (s : State) :
    port (modTxn p g s) k = if k = p then { port s p with txn := (port s p).txn.map g } else port s k :=
  port_modPort p k _ s

theorem port_of_send (p : Nat) (y : PType) (h : Hdr) (b : List Byte) (s : State) (k : Nat) : port (send p y h b s) k = port s k := rfl

theorem raise_front (r : EvtReg) (b : Nat) (s : State) : (raise r b s).front = s.front :=
  raise_keeps (bl := .front) r b (Keeps.refl .front s) (by decide)

/-- The one-packet burst of an OUT transaction, nothing of which has gone out. -/
def OneOut (tx : Txn) : Prop :=
  tx.waiting = false ∧ tx.dirIn = false ∧ tx.sent = 0 ∧ tx.count = 1 ∧ (tx.kind = .setup ∨ tx.kind = .bulkOut)

/-- The header of the packet of a one-packet burst. -/
def outHdr (s : State) (tx : Txn) (b : List Byte) : Hdr :=
  ⟨BitVec.ofNat 7 (txnCtx s tx).waddr, false, BitVec.ofNat 4 tx.ep,
    if tx.kind = .setup then 0 else seqAdd (txnGen s tx) tx.seq0 0, BitVec.ofNat 11 b.length, 0, true, false, false, 0⟩

theorem OneOut.over (h : OneOut tx) (s : State) (x : Item) : burstOver s tx x 0 = false ∧ burstOver s tx x 1 = true := by
  obtain ⟨-, -, -, hc, -⟩ := h
  unfold burstOver
  rw [hc]
  exact ⟨rfl, rfl⟩

theorem OneOut.answered (h : OneOut tx) (s : State) : unanswered s tx = false := by
  obtain ⟨-, -, -, -, hk | hk⟩ := h <;> · unfold unanswered; rw [hk]; rfl

theorem OneOut.isSetup (h : OneOut tx) (x : Item) : isSetupData tx x = decide (tx.kind = .setup) := by
  obtain ⟨-, -, -, -, hk | hk⟩ := h <;> · unfold isSetupData; rw [hk]; rfl

theorem OneOut.sends_staged (h : OneOut tx) {b : List Byte} (hb : outPayload s tx i x 0 = some b) :
    sendPackets p tx i x 1 0 s = (1, send p .data (outHdr s tx b) b s) := by
  have hSetup := h.isSetup x
  obtain ⟨hFirst, hLast⟩ := h.over s x
  obtain ⟨-, -, -, -, hk⟩ := h
  unfold sendPackets sendPackets outHdr lastOfBurst
  rw [hFirst, if_neg Bool.false_ne_true, hb, hLast]
  rcases hk with hk | hk <;> · simp [hSetup, hk]; rfl

theorem OneOut.sends_nothing (h : OneOut tx) (hb : outPayload s tx i x 0 = none) : sendPackets p tx i x 1 0 s = (0, s) := by
  unfold sendPackets
  rw [(h.over s x).1, if_neg Bool.false_ne_true, hb]

/-- What the lane does with the burst: it goes out, it waits for its data, or a word of it cannot be corrected. -/
theorem OneOut.sendData_does (h : OneOut tx) {e n : Nat} (hn : 0 < n) (ht : (port s p).txn = some tx) (hw : tx.work = .item i)
    (he : tx.engine = some e) (hi : item? s i = some x) (hs : x.status = none) :
    (∀ b, outPayload s tx i x 0 = some b → sendData e p n s
      = (0, modTxn p (fun y => { y with waiting := true }) (modTxn p (fun y => { y with sent := 1 }) (send p .data (outHdr s tx b) b s))))
    ∧ (outPayload s tx i x 0 = none → outBad s tx x 0 = true → sendData e p n s
      = (0, closeTxn p (decideItem i stUnderrun (raise .dma 1 (modTxn p (fun y => { y with sent := 0 }) s)))))
    ∧ (outPayload s tx i x 0 = none → outBad s tx x 0 = false → sendData e p n s = (1, modTxn p (fun y => { y with sent := 0 }) s)) := by
  have hOne : min n (tx.count - tx.sent) = 1 := by
    obtain ⟨-, -, hSent, hCount, -⟩ := h
    rw [hSent, hCount]
    omega
  have hData : sendData e p n s = (fun r : Nat × State =>
      let under := !burstOver s tx x r.1 && (outPayload s tx i x r.1).isNone
      let bad := under && outBad s tx x r.1
      let v := modTxn p (fun y => { y with sent := r.1 }) r.2
      sentSome p i 1 tx x r.1 under bad (if bad then raise .dma 1 v else v)) (sendPackets p tx i x 1 0 s) := by
    obtain ⟨hWaiting, hOut, hSent, -, -⟩ := h
    unfold sendData
    rw [ht]
    dsimp only
    rw [if_neg (by simp [he, hWaiting, hOut]), hw]
    simp only [workItem, Option.bind_some, hi, Option.map_some, hs, hOne]
    rw [if_neg (by simp), hSent]
  refine ⟨fun b hb => ?_, fun hb hBad => ?_, fun hb hBad => ?_⟩
  · rw [hData, h.sends_staged hb]
    simp [(h.over s x).2, sentSome, OneOut.over h, OneOut.answered h]
  · rw [hData, h.sends_nothing hb]
    simp [h.over, hb, hBad, sentSome, hw, isServiceWork]
  · rw [hData, h.sends_nothing hb]
    simp [h.over, hb, hBad, sentSome, hw, isServiceWork, h.2.2.1]

/-- The state in which the lane comes to the DATA that the engine asks for. -/
def dataAsked (e p n : Nat) (t : Thread) (s : State) : State := queueLane p e t.work (.sdat n) (setRun e (advance t) s)

theorem exec_sdat {rd rs : Fin 16} (h : InMicrocode s e t) (hp : workPort s t.work = p) : ∃ n, 0 < n
    ∧ exec (.sdat e rd rs) s = .next (runLane p (dataAsked e.val p n t s)) := by
  have hOpen : chanBarred s t false = false := by
    unfold chanBarred
    rw [h.2]
    rfl
  refine ⟨field (breg t rs.val) 0 4 + 1, Nat.succ_pos _, ?_⟩
  refine (runs_micro_both (o := execSdat e rd rs s) rfl h).trans (congrArg _ ?_)
  dsimp only
  rw [hOpen, if_neg Bool.false_ne_true, hp]
  rfl

theorem dataAsked_port (e n : Nat) (t : Thread) (hq : (port s p).lane = []) :
    port (dataAsked e p n t s) p = { port s p with lane := [(e, t.work, .sdat n)] } := by
  unfold dataAsked queueLane
  rw [port_modPort, if_pos rfl, port_of_setRun, hq]
  rfl

theorem dataAsked_others (e n : Nat) (t : Thread) : OtherPorts p s (dataAsked e p n t s) := fun k hk => by
  unfold dataAsked queueLane
  rw [port_modPort, if_neg hk, port_of_setRun]

/-- The lane with the one operation queued: it is taken off once nothing of it is left. -/
theorem runLane_data {e n : Nat} {v : State} {w : Work} (h : (port v p).lane = [(e, w, .sdat n)]) :
    runLane p v = if (sendData e p n v).1 = 0 then modPort p (fun y => { y with lane := [] }) (sendData e p n v).2
      else modPort p (fun y => { y with lane := [(e, w, .sdat (sendData e p n v).1)] }) (sendData e p n v).2 := by
  unfold runLane
  rw [h]
  unfold List.length launch
  rw [h]
  rfl

/-- What every outcome of SDAT leaves: the engine has gone on, and no other engine or port has changed. -/
def DataAsked (e : EngId) (t : Thread) (p : Nat) (s u : State) : Prop :=
  (eng u e.val).run = some (advance t) ∧ OtherPorts p s u ∧ OtherEngines e.val s u

theorem dataAsked_leaves {u : State} (e : EngId) (n : Nat) (t : Thread) (hEng : u.eng = (dataAsked e.val p n t s).eng)
    (hPorts : OtherPorts p (dataAsked e.val p n t s) u) : DataAsked e t p s u := by
  have hRun : ∀ k, eng u k = if k = e.val then { eng s e.val with run := some (advance t) } else eng s k := fun k => by
    rw [show eng u k = eng (setRun e.val (advance t) s) k by unfold eng; rw [hEng]; rfl]
    exact eng_setRun _ _ _ _
  refine ⟨by rw [hRun, if_pos rfl], fun k hk => ?_, fun k hk => by rw [hRun, if_neg hk]⟩
  rw [hPorts k hk, dataAsked_others e.val n t k hk]

section
variable {rd rs : Fin 16} (h : InMicrocode s e t) (hp : workPort s t.work = p) (hi : item? s i = some x) (hs : x.status = none)
  (ht : (port s p).txn = some tx) (hWork : tx.work = .item i) (he : tx.engine = some e.val) (hq : (port s p).lane = []) (hOne : OneOut tx)
include h hp hi hs ht hWork he hq hOne

/-- The packet that is staged goes out. -/
theorem sdat_sends (b : List Byte) (hb : outPayload s tx i x 0 = some b) : ∃ u, exec (.sdat e rd rs) s = .next u
    ∧ u.out = s.out ++ [.packet p (packetBytes (port s p).gen .data (outHdr s tx b) b)]
    ∧ (port u p).txn = some { tx with sent := 1, waiting := true } ∧ (port u p).lane = [] ∧ (eng u e.val).run = some (advance t)
    ∧ item? u i = some x ∧ OtherPorts p s u ∧ OtherEngines e.val s u := by
  obtain ⟨n, hn, hRun⟩ := exec_sdat (rd := rd) (rs := rs) h hp
  have hPort := dataAsked_port e.val n t hq
  obtain ⟨hSends, -, -⟩ := hOne.sendData_does (s := dataAsked e.val p n t s) (p := p) hn
    ((congrArg Port.txn hPort).trans ht) hWork he hi hs
  rw [runLane_data (congrArg Port.lane hPort), hSends b hb, if_pos rfl] at hRun
  have hPorts : ∀ k, port (send p .data (outHdr s tx b) b (dataAsked e.val p n t s)) k = port (dataAsked e.val p n t s) k :=
    fun _ => rfl
  have hOut : (send p .data (outHdr s tx b) b (dataAsked e.val p n t s)).out
      = s.out ++ [.packet p (packetBytes (port s p).gen .data (outHdr s tx b) b)] := by
    show s.out ++ [Output.packet p (packetBytes (port (dataAsked e.val p n t s) p).gen .data (outHdr s tx b) b)] = _
    rw [hPort]
  obtain ⟨hr, hOthers, hEngs⟩ := dataAsked_leaves e n t (s := s) (p := p) (u := modPort p (fun y => { y with lane := [] })
      (modTxn p (fun y => { y with waiting := true }) (modTxn p (fun y => { y with sent := 1 })
        (send p .data (outHdr s tx b) b (dataAsked e.val p n t s))))) rfl fun k hk => by
    simp only [port_modPort, port_modTxn, if_neg hk, hPorts]
  refine ⟨_, hRun, hOut, ?_, ?_, hr, hi, hOthers, hEngs⟩
  · simp only [port_modPort, port_modTxn, port_of_send, if_true, hPort, ht, Option.map_some]
  · rw [port_modPort, if_pos rfl]

/-- A word of the packet that cannot be corrected ends the transfer. -/
theorem sdat_fails (hb : outPayload s tx i x 0 = none) (hBad : outBad s tx x 0 = true) (hStop : x.stopAs = none)
    (hReset : (port s p).resetDue = false) (hEnum : (port s p).enumQueue = []) : ∃ u, exec (.sdat e rd rs) s = .next u
    ∧ item? u i = some (decided 0x0F x) ∧ OtherItems i s u ∧ bit (evtWord u 147) 1 = true
    ∧ (port u p).txn = none ∧ (port u p).lane = [] ∧ DataAsked e t p s u := by
  obtain ⟨n, hn, hRun⟩ := exec_sdat (rd := rd) (rs := rs) h hp
  have hPort := dataAsked_port e.val n t hq
  obtain ⟨-, hFails, -⟩ := hOne.sendData_does (s := dataAsked e.val p n t s) (p := p) hn
    ((congrArg Port.txn hPort).trans ht) hWork he hi hs
  rw [runLane_data (congrArg Port.lane hPort), hFails hb hBad, if_pos rfl] at hRun
  obtain ⟨v, hv⟩ : ∃ v, v = modTxn p (fun y => { y with sent := 0 }) (dataAsked e.val p n t s) := ⟨_, rfl⟩
  have hvp : port v p = { port s p with lane := [(e.val, t.work, .sdat n)], txn := some { tx with sent := 0 } } := by
    rw [hv, port_modTxn, if_pos rfl, hPort]
    simp only [ht, Option.map_some]
  have hvi : ∀ j, item? (raise .dma 1 v) j = item? s j := fun j => by
    unfold item?
    rw [raise_front, hv]
    rfl
  obtain ⟨w, hw⟩ : ∃ w, w = setItem (raise .dma 1 v) i (decided stUnderrun x) := ⟨_, rfl⟩
  have hwp : ∀ k, port w k = port v k := fun k => by
    rw [hw]
    exact port_of_topo (raise_topo .dma 1 v) k
  have hwi : ∀ j, item? w j = if j = i then some (decided stUnderrun x) else item? s j := fun j => by
    rw [hw, item_setItem, hvi]
  have hwe : w.eng = (dataAsked e.val p n t s).eng := by
    rw [hw]
    exact (raise_eng .dma 1 v).trans (by rw [hv]; rfl)
  have hwb : bit (evtWord w 147) 1 = true := by
    rw [hw]
    exact raise_bit .dma 1 (by decide) v
  have hClose := closeTxn_item (s := w) (congrArg Port.txn ((hwp p).trans hvp)) (congrArg (workItem _) hWork)
    ((hwi i).trans (if_pos rfl)) rfl ((congrArg Port.resetDue ((hwp p).trans hvp)).trans hReset)
    ((congrArg Port.enumQueue ((hwp p).trans hvp)).trans hEnum)
  rw [← hv, decideItem_open ((hvi i).trans hi) hs hStop, ← hw, hClose] at hRun
  refine ⟨_, hRun, (hwi i).trans (if_pos rfl), fun j hj => (hwi j).trans (if_neg hj), hwb, ?_, ?_,
    dataAsked_leaves e n t hwe fun k hk => ?_⟩
  · simp only [port_modPort, port_of_setCtlUsed, if_true]
  · simp only [port_modPort, if_true]
  · simp only [port_modPort, port_of_setCtlUsed, if_neg hk]
    rw [hwp, hv, port_modTxn, if_neg hk]

/-- A packet that is not staged waits in the lane. -/
theorem sdat_waits (hb : outPayload s tx i x 0 = none) (hBad : outBad s tx x 0 = false) : ∃ u, exec (.sdat e rd rs) s = .next u
    ∧ u.out = s.out ∧ (port u p).txn = some tx ∧ (port u p).lane = [(e.val, t.work, .sdat 1)] ∧ (eng u e.val).run = some (advance t)
    ∧ item? u i = some x ∧ OtherPorts p s u ∧ OtherEngines e.val s u := by
  obtain ⟨n, hn, hRun⟩ := exec_sdat (rd := rd) (rs := rs) h hp
  have hPort := dataAsked_port e.val n t hq
  obtain ⟨-, -, hWaits⟩ := hOne.sendData_does (s := dataAsked e.val p n t s) (p := p) hn
    ((congrArg Port.txn hPort).trans ht) hWork he hi hs
  rw [runLane_data (congrArg Port.lane hPort), hWaits hb hBad, if_neg Nat.one_ne_zero] at hRun
  obtain ⟨hr, hOthers, hEngs⟩ := dataAsked_leaves e n t (s := s) (p := p) (u := modPort p (fun y => { y with lane := [(e.val, t.work, .sdat 1)] })
      (modTxn p (fun y => { y with sent := 0 }) (dataAsked e.val p n t s))) rfl fun k hk => by
    simp only [port_modPort, port_modTxn, if_neg hk]
  refine ⟨_, hRun, rfl, ?_, ?_, hr, hi, hOthers, hEngs⟩
  · obtain ⟨-, -, hSent, -, -⟩ := hOne
    simp only [port_modPort, port_modTxn, if_true, hPort, ht, Option.map_some, ← hSent]
  · simp only [port_modPort, if_true]

end

/-- The setup bytes of a SETUP transaction. -/
theorem setup_payload (hk : tx.kind = .setup) : outPayload s tx i x 0 = some (natLE 8 (match x.setup with
    | some a => a.toNat
    | none => if x.posted = none then eArg x.raw else (Config.freeWord i).toNat)) := by
  unfold outPayload isSetupData itemSetup
  rw [hk]
  cases x.setup <;> cases x.posted <;> rfl

/-! ### SHS -/

/-- The transfer behind the ACK of its burst: with its last data it completes. -/
def ackedItem (tx : Txn) (x : Item) : Item :=
  if tx.final then { x with status := some (if x.moved < itemLen x then stShort else stSuccess), awaitFin := true, ended := true } else x

theorem inProgress_bulk (hw : tx.work = .item i) (hi : item? s i = some x) (hs : x.status = none) (hStop : x.stopAs = none)
    (hc : itemCtrl x = false) : inProgress p tx s = if tx.final then setItem s i (ackedItem tx x) else s := by
  have hDecided : ∀ st, decided st x = { x with status := some st, awaitFin := true, ended := true } := fun st => by
    unfold decided
    rw [← hStop]
  unfold inProgress ackedItem
  rw [hw]
  dsimp only
  rw [hi]
  dsimp only
  rw [hs, hc, decideItem_open hi hs hStop, hDecided]
  cases tx.final <;> rfl

/-- The header of the ACK. -/
def ackHdr (s : State) (tx : Txn) : Hdr :=
  ⟨BitVec.ofNat 7 (if tx.kind = .splitDone then ((txnCtx s tx).tt.map (·.addr)).getD (txnCtx s tx).waddr
    else (txnCtx s tx).waddr), tx.dirIn, BitVec.ofNat 4 tx.ep, txnSeq s tx, 0, 0, false, false, false, 0⟩

theorem ackAddr_eq (k : TxnKind) (c : Ctx) : (match k, c.tt with
    | .splitDone, some y => y.addr
    | _, _ => c.waddr) = if k = .splitDone then (c.tt.map (·.addr)).getD c.waddr else c.waddr := by
  cases k <;> cases c.tt <;> rfl

theorem sendAck_eq (p : Nat) (tx : Txn) (s : State) :
    sendAck p tx s = endTxn p (inProgress p tx (send p .ack (ackHdr s tx) [] s)) := by
  unfold sendAck ackHdr
  rw [← ackAddr_eq tx.kind (txnCtx s tx)]
  rfl

/-- What the statement says of SHS. -/
theorem shs_acks (h : InMicrocode s e t) (hp : workPort s t.work = p) (hi : item? s i = some x) (hs : x.status = none)
    (ht : (port s p).txn = some tx) (hWork : tx.work = .item i) (he : tx.engine = some e.val) (hDue : tx.ackDue = true)
    (hStop : x.stopAs = none) (hQuiet : Quiet s p) (hc : itemCtrl x = false) : ∃ u, exec (.shs e) s = .next u
    ∧ u.out = s.out ++ [.packet p (packetBytes (port s p).gen .ack (ackHdr s tx) [])]
    ∧ (port u p).txn = none ∧ (eng u e.val).run = some (advance t) ∧ OtherPorts p s u ∧ OtherEngines e.val s u
    ∧ OtherItems i s u ∧ item? u i = some (ackedItem tx x) := by
  obtain ⟨v, hv⟩ : ∃ v, v = send p .ack (ackHdr s tx) [] (setRun e.val (advance t) s) := ⟨_, rfl⟩
  have hvp : ∀ k, port v k = port s k := fun k => by rw [hv]; rfl
  have hvi : ∀ j, item? v j = item? s j := fun j => by rw [hv]; rfl
  have hve : ∀ k, eng v k = eng (setRun e.val (advance t) s) k := fun k => by rw [hv]; rfl
  have hvo : v.out = s.out ++ [.packet p (packetBytes (port s p).gen .ack (ackHdr s tx) [])] := by rw [hv]; rfl
  have hRun : exec (.shs e) s = .next (endTxn p (inProgress p tx v)) := by
    refine (runs_micro_both (o := execShs e s) rfl h).trans (congrArg _ ?_)
    rw [hp]
    dsimp only
    rw [show (port (setRun e.val (advance t) s) p).txn = some tx from ht]
    dsimp only
    rw [if_pos (by simp [hDue, he]), hv]
    exact sendAck_eq p tx (setRun e.val (advance t) s)
  rw [inProgress_bulk hWork ((hvi i).trans hi) hs hStop hc] at hRun
  obtain ⟨w, hw⟩ : ∃ w, w = if tx.final then setItem v i (ackedItem tx x) else v := ⟨_, rfl⟩
  have hwp : ∀ k, port w k = port s k := fun k => by rw [hw]; split <;> exact hvp k
  have hwe : ∀ k, eng w k = eng (setRun e.val (advance t) s) k := fun k => by rw [hw]; split <;> exact hve k
  have hwo : w.out = v.out := by rw [hw]; split <;> rfl
  have hwi : item? w i = some (ackedItem tx x) := by
    rw [hw]
    split
    · exact (item_setItem _ _ _ _).trans (if_pos rfl)
    · next hn => rw [hvi, hi]; unfold ackedItem; rw [if_neg hn]
  have hwj : OtherItems i s w := fun j hj => by
    rw [hw]
    split
    · exact (item_setItem _ _ _ _).trans ((if_neg hj).trans (hvi j))
    · exact hvi j
  obtain ⟨hReset, hEnum, hLane⟩ := hQuiet
  rw [← hw, endTxn_item ((congrArg Port.txn (hwp p)).trans ht) (congrArg (workItem _) hWork) hwi (by unfold ackedItem; split <;> exact hStop)
    ((congrArg Port.resetDue (hwp p)).trans hReset) ((congrArg Port.enumQueue (hwp p)).trans hEnum)
    ((congrArg Port.lane (hwp p)).trans hLane)] at hRun
  refine ⟨_, hRun, hwo.trans hvo, ?_, ?_, fun k hk => ?_, fun k hk => ?_, hwj, hwi⟩
  · simp only [port_of_setCtlUsed, port_modPort, if_true]
  · rw [eng_of_setCtlUsed, eng_of_modPort, hwe, eng_setRun, if_pos rfl]
  · rw [port_of_setCtlUsed, port_modPort, if_neg hk, hwp]
  · rw [eng_of_setCtlUsed, eng_of_modPort, hwe, eng_setRun, if_neg hk]

/-- Settles O25: the DATA by what is staged of it, the ACK by whether the transfer had its last data. -/
theorem engineData : Obligations.EngineData := fun _ _ _ _ _ _ _ _ _ h _ hp hi hs ht hWork he =>
  ⟨fun hq b hWaiting hOut hSent hCount hk =>
      have hOne : OneOut _ := ⟨hWaiting, hOut, hSent, hCount, hk⟩
      ⟨sdat_sends h hp hi hs ht hWork he hq hOne b, sdat_fails h hp hi hs ht hWork he hq hOne, sdat_waits h hp hi hs ht hWork he hq hOne,
        setup_payload⟩,
    fun hDue hStop hQuiet hc => shs_acks h hp hi hs ht hWork he hDue hStop hQuiet hc⟩

end
end Sys2Proof.Machine
end

section
/-! PROOFS. Engines and the dispatcher: GETW, its grant, PUTW and FIN (R223 to R229). -/

namespace Sys2Proof.Machine

section
variable {s : State} {e : EngId} {t : Thread} {i : Nat} {x : Item}

/-! ### GETW -/

theorem getw_waits (h : InMicrocode s e t) (hw : (eng s e.val).walk = []) (hp : (eng s e.val).paused = [])
    (hs : (eng s e.val).suspended = none) : exec (.getw e) s
      = .next (setRun e.val { t with kind := .dispatch, wait := .getw, work := .none_, waitAt := now s } s) := by
  refine (runs_micro (o := execGetw e s) rfl h).trans (congrArg _ ?_)
  dsimp only
  rw [hw, hp, hs]
  rfl

theorem getw_goes_on (h : InMicrocode s e t) (hw : (eng s e.val).walk ≠ [] ∨ (eng s e.val).paused ≠ [] ∨ (eng s e.val).suspended ≠ none) :
    ∃ u, exec (.getw e) s = .next u ∧ OtherEngines e.val s u ∧ (eng u e.val).run = (match (eng s e.val).paused with
      | r :: _ => some r
      | [] => if (eng s e.val).walk = [] then (eng s e.val).suspended else some (freshThread .periodic)) := by
  have hRun : exec (.getw e) s = .next (nextWork e.val (setEng s e.val { eng s e.val with run := none })) := by
    refine (runs_micro (o := execGetw e s) rfl h).trans (congrArg _ ?_)
    dsimp only
    rw [if_pos]
    rcases hw with hw | hw | hw
    · simp [hw]
    · simp [hw]
    · simp [Option.isSome_iff_ne_none.mpr hw]
  rw [nextWork_eq] at hRun
  refine ⟨_, hRun, fun k hk => by rw [eng_modEng, if_neg hk, eng_setEng, if_neg hk], ?_⟩
  rw [eng_modEng, if_pos rfl, eng_setEng, if_pos rfl]
  generalize eng s e.val = x at hw
  cases hp : x.paused with
  | cons v l => exact congrArg Engine.run (nextEngine_paused (x := { x with run := none }) rfl hp)
  | nil =>
    dsimp only
    unfold nextEngine
    dsimp only
    rw [hp]
    cases hk : x.walk with
    | cons r l => rfl
    | nil =>
      cases hs : x.suspended with
      | some v => rfl
      | none => exact absurd hw (by simp [hp, hk, hs])

theorem affinityOfferExpiry_does (hl : live s = true) (hi : item? s i = some x) :
    exec (.affinityOfferExpiry i) s = .next (setItem s i { x with offer := none }) := by
  have hRun : exec (.affinityOfferExpiry i) s = .next (modItem i (fun y => { y with offer := none }) s) :=
    runs_of_guard (o := execAffinityOfferExpiry i s) (s := s) (f := fun v => modItem i (fun y => { y with offer := none }) v) rfl hl
  rw [hRun]
  unfold modItem
  rw [hi]

/-! ### PUTW -/

/-- Where no error of the item waits for a hook, nothing is counted. -/
theorem flushWork_clean {v : State} {w : Work} (hw : w = .item i) (hi : item? v i = some x) (he : x.pendErr = none) : flushWork w v = v := by
  rw [hw]
  unfold flushWork openItems
  rw [each_cons, each_nil]
  unfold flushErr
  rw [hi]
  dsimp only
  rw [he]

theorem tfind_modCtx {k : Nat} {c : Ctx} (g : Ctx → Ctx) (hc : tfind s.topo.ctx k = some c) : tfind (modCtx k g s).topo.ctx k = some (g c) := by
  unfold modCtx
  rw [hc]
  exact tfind_tput_same _ _ _

theorem putw_does {c : Ctx} (h : InMicrocode s e t) (hw : t.work = .item i) (hi : item? s i = some x) (he : x.pendErr = none)
    (hs : x.status = none) (hc : tfind s.topo.ctx (workCtx s t.work) = some c) : ∃ u, exec (.putw e) s = .next u
      ∧ tfind u.topo.ctx (workCtx s t.work) = some { c with progress := BitVec.ofNat 24 x.moved }
      ∧ item? u i = some { x with granted := none, ended := true, offer := x.flow.bind (affinityOf s) }
      ∧ OtherItems i s u ∧ OtherEngines e.val s u ∧ u.out = s.out
      ∧ (eng u e.val).run = some (advance { t with work := .none_, win := [] }) := by
  obtain ⟨v, hv⟩ : ∃ v, v = modCtx (workCtx s t.work) (fun c => { c with progress := BitVec.ofNat 24 x.moved }) (setRun e.val (advance t) s) :=
    ⟨_, rfl⟩
  have hRun : exec (.putw e) s = .next (modRun e.val (fun u => { u with work := .none_, win := [] })
      (setItem v i { x with granted := none, ended := true, offer := x.flow.bind (affinityOf v) })) := by
    refine (runs_micro (o := execPutw e s) rfl h).trans (congrArg _ ?_)
    rw [flushWork_clean (v := setRun e.val (advance t) s) hw hi he, hv]
    simp only [hw]
    rw [show item? (setRun e.val (advance t) s) i = some x from hi]
    dsimp only
    rw [hs]
    rfl
  obtain ⟨hEng, hFront, hOut, -⟩ := modCtx_rest (workCtx s t.work) (fun c => { c with progress := BitVec.ofNat 24 x.moved })
    (setRun e.val (advance t) s)
  have hve : ∀ k, eng v k = eng (setRun e.val (advance t) s) k := fun k => by
    unfold eng
    rw [hv, hEng]
  have hvf : v.front = s.front := by rw [hv, hFront]; rfl
  have hva : affinityOf v = affinityOf s := by
    funext f
    unfold affinityOf
    rw [hvf]
  refine ⟨_, hRun, ?_, ?_, fun j hj => ?_, fun k hk => ?_, by rw [hv]; exact hOut, ?_⟩
  · rw [hv]
    exact tfind_modCtx _ hc
  · exact (item_setItem _ _ _ _).trans ((if_pos rfl).trans (by rw [hva]))
  · exact (item_setItem _ _ _ _).trans ((if_neg hj).trans (by unfold item?; rw [hvf]))
  · exact (eng_modEng _ _ _ _).trans ((if_neg hk).trans ((hve k).trans ((eng_setRun _ _ _ _).trans (if_neg hk))))
  · refine (congrArg Engine.run ((eng_modEng _ _ _ _).trans (if_pos rfl))).trans ?_
    show ((eng v e.val).run.map _) = _
    rw [hve, eng_setRun, if_pos rfl]
    rfl

/-! ### FIN -/

theorem exec_fin (h : InMicrocode s e t) (hw : t.work = .item i) (hi : item? s i = some x) (he : x.pendErr = none) (v : BitVec 10) :
    exec (.fin e v) s = .next (finPost t (v.setWidth 8) i (setRun e.val (advance t) s)) := by
  refine (runs_micro (o := execFin e v s) rfl h).trans (congrArg _ ?_)
  dsimp only
  rw [flushWork_clean (v := setRun e.val (advance t) s) hw hi he, hw]
  exact each_cons _ _ _ _

/-- The end of an item and the threads of the engines have nothing to do with one another. -/
theorem dropStaged_engines (i : Nat) (E : Engines) (v : State) : dropStaged i { v with eng := E } = { dropStaged i v with eng := E } := by
  unfold dropStaged modItem
  rw [show item? { v with eng := E } i = item? v i from rfl]
  cases item? v i <;> rfl

theorem flowOut_engines (f : Option Flow) (E : Engines) (v : State) : flowOut f { v with eng := E } = { flowOut f v with eng := E } := by
  unfold flowOut
  cases f with
  | none => rfl
  | some f =>
    unfold modCtx
    dsimp only
    cases tfind v.topo.ctx (flowKey f) <;> rfl

/-- An item whose completion is placed, before its staging and its flow are seen to. -/
def placedIn (i : Nat) (st : Byte) (x : Item) (v : State) : State :=
  dropFromFloat i (dropFromUnit i (setItem v i { x with
    status := some st, awaitFin := false, stamp := if x.begun then x.stamp else nowStamp v x, wireDone := true, stopAs := none }))

/-- The same with what is staged of it dropped, where its status discards that. -/
def clearedIn (i : Nat) (st : Byte) (x : Item) (v : State) : State :=
  if discards st then dropStaged i (placedIn i st x v) else placedIn i st x v

theorem finish_eq (i : Nat) (st : Byte) {x : Item} {v : State} (hi : item? v i = some x) : finish i st v =
    if x.status.isSome && !x.awaitFin then v
    else if isOwn x then delItem (flowOut x.flow (clearedIn i st x v)) i else clearedIn i st x v := by
  unfold finish
  rw [hi]
  rfl

theorem EndsItems.eng {u v : State} (h : EndsItems u v) : v.eng = u.eng := by
  obtain ⟨_, _, _, _, _, rfl⟩ := h
  rfl

theorem clearedIn_ends (i : Nat) (st : Byte) (x : Item) (v : State) : EndsItems v (clearedIn i st x v) := by
  have hPlaced : EndsItems v (placedIn i st x v) := ⟨_, _, _, _, _, rfl⟩
  unfold clearedIn
  split
  · exact hPlaced.trans (dropStaged_ends i _)
  · exact hPlaced

theorem item_flowOut (f : Option Flow) (v : State) (j : Nat) : item? (flowOut f v) j = item? v j := by
  unfold flowOut
  split
  · exact item_of_modCtx _ _ _ _
  · rfl

theorem item_clearedIn (i : Nat) (st : Byte) (x : Item) (v : State) {j : Nat} (hj : j ≠ i) : item? (clearedIn i st x v) j = item? v j := by
  have hPlaced : item? (placedIn i st x v) j = item? v j := (item_setItem _ _ _ _).trans (if_neg hj)
  unfold clearedIn
  split
  · exact (item_modItem i j _ _).trans ((if_neg hj).trans hPlaced)
  · exact hPlaced

theorem modItem_absent {g : Item → Item} {v : State} (h : item? v i = none) : modItem i g v = v := by
  unfold modItem
  rw [h]

theorem clearedIn_engines (i : Nat) (st : Byte) (x : Item) (E : Engines) (v : State) :
    clearedIn i st x { v with eng := E } = { clearedIn i st x v with eng := E } := by
  unfold clearedIn
  cases discards st
  · rfl
  · exact dropStaged_engines i E (placedIn i st x v)

theorem finish_engines (i : Nat) (st : Byte) (E : Engines) (v : State) : finish i st { v with eng := E } = { finish i st v with eng := E } := by
  cases hi : item? v i with
  | none =>
    unfold finish
    rw [show item? { v with eng := E } i = none from hi, hi]
  | some x =>
    rw [finish_eq i st hi, finish_eq i st (v := { v with eng := E }) hi, clearedIn_engines]
    split
    · rfl
    · split
      · exact congrArg (delItem · i) (flowOut_engines x.flow E (clearedIn i st x v))
      · rfl

theorem finish_setRun (i : Nat) (st : Byte) (k : Nat) (r : Thread) (v : State) : finish i st (setRun k r v) = setRun k r (finish i st v) := by
  obtain ⟨fr, cx, fw, cm, dc, hEnds⟩ := finish_ends i st v
  refine (finish_engines i st (setRun k r v).eng v).trans ?_
  rw [hEnds]
  rfl

theorem modItem_setRun (i : Nat) (g : Item → Item) (k : Nat) (r : Thread) (v : State) :
    modItem i g (setRun k r v) = setRun k r (modItem i g v) := by
  unfold modItem
  rw [item_of_setRun]
  cases item? v i <;> rfl

/-- An open item's completion takes the instruction's status. -/
theorem fin_completes (h : InMicrocode s e t) (hw : t.work = .item i) (hi : item? s i = some x) (he : x.pendErr = none) (v : BitVec 10)
    (ho : isOwn x = false) (hs : x.status = none) : ∃ u w, exec (.fin e v) s = .next u ∧ Completed i x (v.setWidth 8) s w
      ∧ u = setRun e.val (advance t) (modItem i (fun y => if x.port ∈ t.holds then { y with wireDone := x.wireDone } else y) w) := by
  refine ⟨_, finish i (v.setWidth 8) s, exec_fin h hw hi he v, finish_completed hi ho (.inl hs) _, ?_⟩
  unfold finPost
  rw [item_of_setRun, hi]
  dsimp only
  rw [hs, if_neg (by simp), finish_setRun, modItem_setRun]
  simp only [List.contains_iff_mem]

/-- The status that the wire decided is posted. -/
theorem fin_posts (h : InMicrocode s e t) (hw : t.work = .item i) (hi : item? s i = some x) (he : x.pendErr = none) (v : BitVec 10)
    (ho : isOwn x = false) (hs : x.status ≠ none) :
    exec (.fin e v) s = .next (setRun e.val (advance t) (setItem s i { x with awaitFin := false })) := by
  rw [exec_fin h hw hi he v]
  unfold finPost
  rw [item_of_setRun, hi]
  dsimp only
  rw [if_pos (Option.isSome_iff_ne_none.mpr hs)]
  unfold postItem
  rw [item_of_setRun, hi]
  dsimp only
  rw [ho]
  rfl

/-- A request of the part's own is gone. -/
theorem fin_drops (h : InMicrocode s e t) (hw : t.work = .item i) (hi : item? s i = some x) (he : x.pendErr = none) (v : BitVec 10)
    (ho : isOwn x = true) : ∃ u, exec (.fin e v) s = .next u ∧ item? u i = none ∧ OtherItems i s u ∧ OtherEngines e.val s u
        ∧ (eng u e.val).run = some (advance t) := by
  have hKeeps : ∀ w : State, (∀ j, j ≠ i → item? w j = item? s j) → w.eng = (setRun e.val (advance t) s).eng → item? (delItem w i) i = none
      ∧ OtherItems i s (delItem w i) ∧ OtherEngines e.val s (delItem w i) ∧ (eng (delItem w i) e.val).run = some (advance t) := fun w hj hw => by
    have hk : ∀ k, eng (delItem w i) k = eng (setRun e.val (advance t) s) k := fun k => by
      unfold eng
      rw [← hw]
      rfl
    refine ⟨by rw [item_delItem, if_pos rfl], fun j hn => by rw [item_delItem, if_neg hn, hj j hn], fun k hn => ?_, ?_⟩
    · rw [hk, eng_setRun, if_neg hn]
    · rw [hk, eng_setRun, if_pos rfl]
  refine ⟨_, exec_fin h hw hi he v, ?_⟩
  unfold finPost
  rw [item_of_setRun, hi]
  dsimp only
  split
  · next hs =>
    unfold postItem
    rw [item_of_setRun, hi]
    dsimp only
    rw [ho, hs]
    refine hKeeps (flowOut x.flow (setRun e.val (advance t) s)) (fun j _ => ?_) ?_
    · rw [item_flowOut, item_of_setRun]
    · exact (flowOut_ends _ _).eng
  · next hs =>
    have hNone : x.status = none := by simpa using hs
    rw [finish_eq i _ ((item_of_setRun _ _ _ _).trans hi), if_neg (by simp [hNone]), if_pos ho]
    rw [show modItem i _ (delItem _ i) = _ from modItem_absent (by rw [item_delItem, if_pos rfl])]
    refine hKeeps (flowOut x.flow _) (fun j hj => ?_) ?_
    · rw [item_flowOut, item_clearedIn _ _ _ _ hj, item_of_setRun]
    · exact ((clearedIn_ends _ _ _ _).trans (flowOut_ends _ _)).eng

/-! ### The grant (R226 to R229) -/

theorem tfind_map {α : Type} (g : α → α) (l : Tbl α) (k : Nat) : tfind (l.map fun a => (a.1, g a.2)) k = (tfind l k).map g := by
  induction l with
  | nil => rfl
  | cons a r ih =>
    obtain ⟨j, v⟩ := a
    unfold tfind
    rw [List.map_cons]
    dsimp only
    split
    · rfl
    · exact ih

/-- Another item of the flow that no engine has is offered to the engine that got one of it. -/
def offeredItem (e : Nat) (f : Option Flow) (z : Item) : Item :=
  if f.isSome ∧ z.flow = f ∧ z.granted = none then { z with offer := some e } else z

/-- The item as the engine gets it: a visit begins. -/
def grantedItem (e : Nat) (x : Item) : Item := { x with granted := some e, offer := none, ended := false, visit := 0, visitOver := false }

/-- The grant before the context is brought in: the round is noted, the flow is the engine's, the item is its own. -/
def takenItem (e i : Nat) (x : Item) (vs : List (Nat × Nat × Nat × Nat)) (lvl : Nat) (s : State) : State :=
  let v : State := { s with front := { s.front with visits := vs, lastPort := tput s.front.lastPort lvl x.port } }
  let v := match x.flow with | some f => setAffinity f e v | none => v
  modEng e (fun y => { y with gated := false }) (setItem v i (grantedItem e x))

theorem grantItem_eq (e : Nat) {i : Nat} (t : Thread) (vs : List (Nat × Nat × Nat × Nat)) (hi : item? s i = some x) : ∃ lvl win bound,
    grantItem e i t vs s = setRun e (advance { t with
        wait := .running, work := .item i, win := win, used := 0, entered := [], armed := none, bound := bound })
      (placeItem i (cacheCtx (workCtx (takenItem e i x vs lvl s) (.item i))
        (modCtx (workCtx (takenItem e i x vs lvl s) (.item i)) (fun c => { c with affinity := some e }) (takenItem e i x vs lvl s)))) := by
  refine ⟨match itemCtx s x with | some c => levelOf s x c | none => x.level, ?_⟩
  unfold grantItem
  rw [hi]
  exact ⟨_, _, rfl⟩

theorem takenItem_does (e i : Nat) (x : Item) (vs : List (Nat × Nat × Nat × Nat)) (lvl : Nat) (s : State) :
    (∀ j, item? (takenItem e i x vs lvl s) j = if j = i then some (grantedItem e x) else (item? s j).map (offeredItem e x.flow))
    ∧ (∀ f, x.flow = some f → affinityOf (takenItem e i x vs lvl s) f = some e)
    ∧ (∀ k, eng (takenItem e i x vs lvl s) k = if k = e then { eng s e with gated := false } else eng s k) := by
  refine ⟨fun j => ?_, fun f hf => ?_, fun k => ?_⟩
  · show item? (setItem _ i (grantedItem e x)) j = _
    rw [item_setItem]
    split
    · rfl
    · cases hf : x.flow with
      | none =>
        have hId : offeredItem e none = id := funext fun z => if_neg (by simp)
        rw [hId, Option.map_id]
        rfl
      | some f =>
        refine (tfind_map (fun z : Item => if z.flow == some f && z.granted.isNone then { z with offer := some e } else z) s.front.items j).trans
          (congrArg (fun g => (item? s j).map g) (funext fun z => ?_))
        unfold offeredItem
        simp
  · unfold takenItem
    rw [hf]
    unfold affinityOf
    show (List.find? _ ((f, e) :: _)).map _ = _
    rw [List.find?_cons_of_pos (by simp)]
    rfl
  · unfold takenItem
    rw [eng_modEng]
    cases x.flow <;> rfl

theorem cacheCtx_front (k : Nat) (v : State) : ∃ l, (cacheCtx k v).front = { v.front with resident := l } := by
  unfold cacheCtx
  dsimp only
  split
  · exact ⟨_, rfl⟩
  · have hSame : (readCtx k (writeBack (ctxVictim v) v)).front = v.front :=
      readCtx_keeps (bl := .front) k (writeBack_keeps (bl := .front) (ctxVictim v) (Keeps.refl .front v) (by decide)) (by decide)
    unfold setResident
    rw [hSame]
    exact ⟨_, rfl⟩

theorem placeItem_cases (v : State) (i : Nat) : placeItem i v = v
    ∨ ∃ pg off, placeItem i v = modItem i (fun y => { y with pages := pg, offset := off }) (unstage i v) := by
  unfold placeItem
  split
  · exact .inl rfl
  · dsimp only
    split
    · exact .inl rfl
    · exact (ite_eq_or_eq _ _ _).imp id fun h => ⟨_, _, h⟩

theorem affinity_modItem (i : Nat) (g : Item → Item) (v : State) : (modItem i g v).front.affinity = v.front.affinity := by
  unfold modItem
  split <;> rfl

theorem placeItem_does (v : State) (hi : item? v i = some x) : (∃ pg off asked staged, item? (placeItem i v) i
      = some { x with pages := pg, offset := off, asked := asked, staged := staged })
    ∧ (∀ j, j ≠ i → item? (placeItem i v) j = item? v j) ∧ (placeItem i v).front.affinity = v.front.affinity := by
  rcases placeItem_cases v i with h | ⟨pg, off, h⟩
  · rw [h]
    exact ⟨⟨_, _, _, _, hi⟩, fun _ _ => rfl, rfl⟩
  · have hUnstaged : ∀ j, item? (unstage i v) j = if j = i then some { x with pages := [], asked := x.moved, staged := x.moved }
        else item? v j := fun j =>
      (item_modItem i j (fun x => { x with pages := [], asked := x.moved, staged := x.moved }) v).trans (by rw [hi]; rfl)
    rw [h]
    refine ⟨⟨pg, off, x.moved, x.moved, ?_⟩, fun j hj => ?_, ?_⟩
    · rw [item_modItem, if_pos rfl, hUnstaged, if_pos rfl]
      rfl
    · rw [item_modItem, if_neg hj, hUnstaged, if_neg hj]
    · exact (affinity_modItem _ _ _).trans (affinity_modItem _ _ _)

/-- What the grant leaves of the item, its flow, the engine and the other items. -/
theorem grantItem_does (e : Nat) (t : Thread) (vs : List (Nat × Nat × Nat × Nat)) (hi : item? s i = some x) {u : State}
    (hu : u = grantItem e i t vs s) : (∃ y, item? u i = some y ∧ y.granted = some e ∧ y.offer = none ∧ y.visit = 0 ∧ y.visitOver = false
      ∧ (y.func, y.sq, y.raw, y.moved, y.status, y.flowSeq) = (x.func, x.sq, x.raw, x.moved, x.status, x.flowSeq))
    ∧ (∀ f, x.flow = some f → affinityOf u f = some e)
    ∧ (∃ r, (eng u e).run = some r ∧ r.work = .item i ∧ r.wait = .running ∧ r.pc = (advance t).pc ∧ r.b = t.b)
    ∧ (eng u e).gated = false ∧ OtherEngines e s u
    ∧ ∀ j, j ≠ i → item? u j = (item? s j).map (offeredItem e x.flow) := by
  obtain ⟨lvl, win, bound, hGrant⟩ := grantItem_eq e t vs hi
  obtain ⟨hItems, hFlow, hEngs⟩ := takenItem_does e i x vs lvl s
  generalize takenItem e i x vs lvl s = v at *
  generalize workCtx v (.item i) = k at *
  obtain ⟨l, hCached⟩ := cacheCtx_front k (modCtx k (fun c => { c with affinity := some e }) v)
  obtain ⟨w, hw⟩ : ∃ w, w = cacheCtx k (modCtx k (fun c => { c with affinity := some e }) v) := ⟨_, rfl⟩
  obtain ⟨hModEng, hModFront, -, -⟩ := modCtx_rest k (fun c => { c with affinity := some e }) v
  rw [← hw, hModFront] at hCached
  have hwi : ∀ j, item? w j = item? v j := fun j => by
    unfold item?
    rw [hCached]
  have hwe : w.eng = v.eng := by
    rw [hw]
    exact (show (cacheCtx k _).eng = _ from cacheCtx_keeps (bl := .eng) k (Keeps.refl .eng _) (by decide)).trans hModEng
  obtain ⟨⟨pg, off, asked, staged, hPlaced⟩, hOthers, hAffinity⟩ := placeItem_does w ((hwi i).trans ((hItems i).trans (if_pos rfl)))
  have hpe : ∀ m, eng (placeItem i w) m = eng v m := fun m => by
    unfold eng
    rw [placeItem_keeps (bl := .eng) i (Keeps.refl .eng w) (by decide), hwe]
  rw [hGrant, ← hw] at hu
  rw [hu]
  refine ⟨⟨_, hPlaced, rfl, rfl, rfl, rfl, rfl⟩, fun f hf => ?_, ⟨_, congrArg Engine.run ((eng_setRun _ _ _ _).trans (if_pos rfl)), rfl, rfl, rfl, rfl⟩,
    ?_, fun m hm => ?_, fun j hj => ?_⟩
  · rw [← hFlow f hf]
    unfold affinityOf
    rw [show (setRun e _ (placeItem i w)).front.affinity = v.front.affinity from hAffinity.trans (by rw [hCached])]
  · rw [eng_setRun, if_pos rfl]
    show (eng (placeItem i w) e).gated = false
    rw [hpe, hEngs, if_pos rfl]
  · rw [eng_setRun, if_neg hm, hpe, hEngs, if_neg hm]
  · rw [item_of_setRun, hOthers j hj, hwi, hItems, if_neg hj]

theorem postRequests_none (h : s.front.requests = []) : postRequests s = s := by
  unfold postRequests
  rw [h, each_nil]
  exact congrArg (fun l => { s with front := { s.front with requests := l } }) h.symm

theorem exec_getwGrant (hl : serves s = true) (hr : (eng s e.val).run = some t) (hw : t.wait = .getw) (hp : (eng s e.val).parked = [])
    (hq : s.front.requests = []) (hWins : winsGetw s e.val = true) : exec (.getwGrant e) s = .next (match bestItem s e.val with
      | (some i, vs) => grantItem e.val i t vs s
      | (none, _) => s) := by
  have hWaits : (getwWaits s e.val).isSome = true := by
    unfold getwWaits
    dsimp only
    rw [hr]
    dsimp only
    rw [hw, hp]
    rfl
  show execGetwGrant e s = _
  unfold execGetwGrant
  rw [guarded_of hl]
  dsimp only
  rw [postRequests_none hq, hr]
  dsimp only
  rw [hWaits, hWins]
  rfl

theorem getwGrant_none (hl : serves s = true) (hr : (eng s e.val).run = some t) (hw : t.wait = .getw) (hp : (eng s e.val).parked = [])
    (hq : s.front.requests = []) (hWins : winsGetw s e.val = true) (hn : (bestItem s e.val).1 = none) : exec (.getwGrant e) s = .next s := by
  rw [exec_getwGrant hl hr hw hp hq hWins]
  generalize bestItem s e.val = b at hn
  obtain ⟨c, vs⟩ := b
  cases hn
  rfl

/-- Settles O26: each instruction by what the engine still has to do, and the grant by what becomes of the item. -/
theorem engineWork : Obligations.EngineWork := fun s e t =>
  ⟨getw_waits, getw_goes_on,
    fun hl hr hw hp hq hWins =>
      ⟨fun _ _ vs hb hi => ⟨_, (exec_getwGrant hl hr hw hp hq hWins).trans (by rw [hb]), grantItem_does e.val t vs hi rfl⟩,
        getwGrant_none hl hr hw hp hq hWins⟩,
    fun _ _ hl hi => affinityOfferExpiry_does hl hi,
    fun _ _ _ h hw hi he hs hc => putw_does h hw hi he hs hc,
    fun _ _ v h hw hi he => ⟨fin_completes h hw hi he v, fin_posts h hw hi he v, fin_drops h hw hi he v⟩⟩

end
end Sys2Proof.Machine
end

section
/-! PROOFS. Events of an engine and management work (R222, R223, R416 to R424). -/

namespace Sys2Proof.Machine

section
variable {s : State} {e : EngId} {t : Thread}

/-! ### EVT -/

/-- Serving the rises changes no source. -/
theorem source_withRises (xs : List Nat) (f : State → State) (s : State) (k : Nat) : source (withRises xs f s) k = source (f s) k := by
  have hHost : ∀ x v, source (hostRise x v) k = source v k := fun x v => by
    unfold source
    rw [show (hostRise x v).eic = v.eic from hostRise_keeps (bl := .eic) x (Keeps.refl .eic v) (by decide)]
  unfold withRises
  exact (each_unchanged (fun v => source v k) _ _ (fun x _ v => source_wakeTarget x v k) _).trans
    (each_unchanged (fun v => source v k) _ _ (fun x _ v => hHost x v) _)

theorem evt_does (h : InMicrocode s e t) (v : BitVec 10) : ∃ u, exec (.evt e v) s = .next u ∧ (source u v.toNat).soft = true
    ∧ (∀ k, (source u k).active = (source s k).active ∧ (k ≠ v.toNat → source u k = source s k))
    ∧ (∀ k, evtWord u k = evtWord s k) ∧ (eng u e.val).run = some (advance t) ∧ OtherEngines e.val s u ∧ SameFuncs s u := by
  have hSrc : ∀ k, source (withRises [v.toNat] (modSource v.toNat fun x => { x with soft := true }) (setRun e.val (advance t) s)) k
      = if k = v.toNat then { source s v.toNat with soft := true } else source s k := fun k => by
    rw [source_withRises, source_modSource]
    rfl
  have hEng : ∀ k, eng (withRises [v.toNat] (modSource v.toNat fun x => { x with soft := true }) (setRun e.val (advance t) s)) k
      = eng (setRun e.val (advance t) s) k := fun k => by
    unfold eng
    rw [show (withRises _ _ _).eng = _ from withRises_keeps_applied (bl := .eng) [v.toNat]
      (modSource v.toNat fun x => { x with soft := true }) (setRun e.val (advance t) s) (by decide)]
    rfl
  refine ⟨_, runs_micro (o := execEvt e v s) rfl h, by rw [hSrc, if_pos rfl], fun k => ⟨?_, fun hk => by rw [hSrc, if_neg hk]⟩,
    fun k => ?_, by rw [hEng, eng_setRun, if_pos rfl], fun k hk => by rw [hEng, eng_setRun, if_neg hk],
    withRises_sameFuncs _ _ (setRun e.val (advance t) s) fun _ => rfl⟩
  · rw [hSrc]
    split
    · next hk => rw [hk]
    · rfl
  · unfold evtWord
    rw [withRises_evt]
    rfl

/-! ### The interrupt in GETW -/

/-- Source `n` asks for an interrupt of the engine. -/
def Asking (s : State) (e : EngId) (n : Nat) (c : Source) : Prop :=
  isPending s n = true ∧ offered s n = some e.val ∧ runLevel s e.val < c.prio.toNat

/-- Some source asks for it. -/
def isAsked (s : State) (e : EngId) : Bool :=
  s.eic.src.any fun x => isPending s x.1 && offered s x.1 == some e.val && runLevel s e.val < x.2.prio.toNat

theorem isAsked_iff : isAsked s e = true ↔ ∃ n c, (n, c) ∈ s.eic.src ∧ Asking s e n c := by
  unfold isAsked Asking
  simp [and_assoc]

theorem exec_engineInterrupt (hl : live s = true) (hr : (eng s e.val).run = some t) (hk : t.kind = .dispatch) (hw : t.wait = .getw) :
    exec (.engineInterrupt e) s = .next (if isAsked s e then
      setRun e.val (advance { t with wait := .running }) (modEng e.val (fun y => { y with gated := false }) s) else s) := by
  show execEngineInterrupt e s = _
  unfold execEngineInterrupt
  rw [guarded_of hl]
  dsimp only
  rw [hr]
  dsimp only
  rw [hk, hw]
  unfold isAsked
  cases s.eic.src.any fun x => isPending s x.1 && offered s x.1 == some e.val && runLevel s e.val < x.2.prio.toNat <;> rfl

theorem engineInterrupt_taken (hl : live s = true) (hr : (eng s e.val).run = some t) (hk : t.kind = .dispatch) (hw : t.wait = .getw)
    {n : Nat} {c : Source} (hc : (n, c) ∈ s.eic.src) (ha : Asking s e n c) : ∃ u, exec (.engineInterrupt e) s = .next u
      ∧ OtherEngines e.val s u ∧ (eng u e.val).run = some (advance { t with wait := .running }) ∧ (eng u e.val).gated = false := by
  have hRun := exec_engineInterrupt hl hr hk hw
  rw [if_pos (isAsked_iff.mpr ⟨n, c, hc, ha⟩)] at hRun
  have hEng : ∀ k, eng (setRun e.val (advance { t with wait := .running }) (modEng e.val (fun y => { y with gated := false }) s)) k
      = if k = e.val then { eng s e.val with gated := false, run := some (advance { t with wait := .running }) } else eng s k := fun k => by
    rw [eng_setRun, eng_modEng, eng_modEng, if_pos rfl]
    split <;> rfl
  exact ⟨_, hRun, fun k hk => by rw [hEng, if_neg hk], by rw [hEng, if_pos rfl], by rw [hEng, if_pos rfl]⟩

/-! ### Posted work -/

/-- What posting work leaves: the new item, and every other as it was. -/
theorem postWork_does (b : PostBody) (f : Nat) (setup : Option U64) (poll : Bool) (s : State) :
    (∃ y, item? (postWork b f setup poll s) s.front.nextItem = some y ∧ y.func = f ∧ y.posted = some b ∧ y.slot = .work ∧ y.port = b.port.val
        ∧ y.level = (if b.lastGasp then 7 else 6) ∧ y.status = none ∧ y.granted = none)
    ∧ OtherItems s.front.nextItem s (postWork b f setup poll s)
    ∧ (postWork b f setup poll s).front.nextItem = s.front.nextItem + 1 := by
  have hItem : ∀ fl v j, item? (flowIn fl v) j = item? v j := fun fl v j => by
    unfold flowIn
    split
    · exact item_of_modCtx _ _ _ _
    · rfl
  have hNext : ∀ fl v, (flowIn fl v).front = v.front := fun fl v => by
    unfold flowIn
    split
    · exact (modCtx_rest _ _ _).2.1
    · rfl
  unfold postWork
  dsimp only
  refine ⟨⟨_, (hItem _ _ _).trans (tfind_tput_same _ _ _), rfl, rfl, rfl, rfl, rfl, rfl, rfl⟩, fun j hj => ?_, ?_⟩
  · exact (hItem _ _ _).trans (tfind_tput_ne _ _ _ _ hj)
  · rw [hNext]

/-- What returning an item to its SQ leaves. -/
theorem returnItem_does (k : Nat) (y : Item) (s : State) :
    (∀ j, item? (returnItem (k, y) s) j = if j = k then none else item? s j)
    ∧ (sq (returnItem (k, y) s) y.func y.sq).inval = (y.index, none) :: (sq s y.func y.sq).inval
    ∧ (returnItem (k, y) s).front.nextItem = s.front.nextItem := by
  have hBack : (flowBack y.flow (dropStaged k s)).front = (dropStaged k s).front := by
    unfold flowBack
    split
    · exact (modCtx_rest _ _ _).2.1
    · rfl
  have hFns : (flowBack y.flow (dropStaged k s)).fns = s.fns :=
    flowBack_keeps (bl := .fns) y.flow (dropStaged_keeps (bl := .fns) k (Keeps.refl .fns s) (by decide)) (by decide)
  refine ⟨fun j => ?_, ?_, ?_⟩
  · unfold returnItem
    rw [item_delItem]
    split
    · rfl
    · next hj =>
      show tfind (flowBack y.flow (dropStaged k s)).front.items j = _
      rw [hBack]
      exact (item_modItem k j (fun x => { x with segs := [], ended := true }) s).trans (if_neg hj)
  · show (sq (modSq y.func y.sq (fun q => { q with inval := (y.index, none) :: q.inval }) (flowBack y.flow (dropStaged k s))) y.func y.sq).inval = _
    rw [sq_modSq, if_pos ⟨rfl, rfl⟩]
    unfold sq fn
    rw [hFns]
  · show (flowBack y.flow (dropStaged k s)).front.nextItem = _
    rw [hBack]
    unfold dropStaged modItem
    dsimp only
    split <;> rfl

/-- The function whose share the posted work takes. -/
def postFunc (b : PostBody) : Nat := if b.lastGasp then b.func.val else 0

theorem exec_itemPost (b : PostBody) (hl : serves s = true) : exec (.itemPost b) s = .next (
    if !shareFull s (postFunc b) then postWork b (postFunc b) none false s
    else if b.lastGasp then (newestUngranted s (postFunc b)).elim s fun k => postWork b (postFunc b) none false (returnItem k s)
    else s) := by
  show execItemPost b s = _
  unfold execItemPost
  rw [guarded_of hl]
  unfold postFunc
  dsimp only
  cases newestUngranted s (if b.lastGasp then b.func.val else 0) <;> rfl

theorem itemPost_posts {b : PostBody} (hl : serves s = true) (hf : shareFull s (postFunc b) = false) :
    exec (.itemPost b) s = .next (postWork b (postFunc b) none false s) := by
  rw [exec_itemPost b hl, hf]
  rfl

theorem itemPost_waits {b : PostBody} (hl : serves s = true) (hf : shareFull s (postFunc b) = true)
    (hn : b.lastGasp = false ∨ newestUngranted s (postFunc b) = none) : exec (.itemPost b) s = .next s := by
  rw [exec_itemPost b hl, hf, if_neg (by decide)]
  rcases hn with hn | hn
  · rw [hn]
    rfl
  · rw [hn]
    split <;> rfl

theorem itemPost_returns {b : PostBody} {k : Nat} {y : Item} (hl : serves s = true) (hf : shareFull s (postFunc b) = true)
    (hb : b.lastGasp = true) (hn : newestUngranted s (postFunc b) = some (k, y)) :
    exec (.itemPost b) s = .next (postWork b (postFunc b) none false (returnItem (k, y) s)) := by
  rw [exec_itemPost b hl, hf, if_neg (by decide), if_pos hb, hn]
  rfl

/-- Last-gasp service with the share full: the newest item not granted goes back, and the work takes its entry. -/
theorem itemPost_takes {b : PostBody} {k : Nat} {y : Item} (hl : serves s = true) (hf : shareFull s (postFunc b) = true)
    (hb : b.lastGasp = true) (hn : newestUngranted s (postFunc b) = some (k, y)) (hk : k ≠ s.front.nextItem) :
    ∃ u, exec (.itemPost b) s = .next u ∧ item? u k = none ∧ (sq u y.func y.sq).inval = (y.index, none) :: (sq s y.func y.sq).inval
      ∧ (∀ j, j ≠ k → j ≠ s.front.nextItem → item? u j = item? s j)
      ∧ ∃ z, item? u s.front.nextItem = some z ∧ z.func = postFunc b ∧ z.posted = some b ∧ z.level = 7 := by
  obtain ⟨hItems, hSq, hNext⟩ := returnItem_does k y s
  obtain ⟨⟨z, hz, hFunc, hPosted, -, -, hLevel, -, -⟩, hOthers, -⟩ := postWork_does b (postFunc b) none false (returnItem (k, y) s)
  have hFns : (postWork b (postFunc b) none false (returnItem (k, y) s)).fns = (returnItem (k, y) s).fns :=
    postWork_keeps (bl := .fns) b (postFunc b) none false (Keeps.refl .fns _) (by decide)
  rw [hNext] at hz hOthers
  refine ⟨_, itemPost_returns hl hf hb hn, ?_, ?_, fun j hj hj' => ?_, z, hz, hFunc, hPosted, hLevel.trans (if_pos hb)⟩
  · rw [hOthers k hk, hItems, if_pos rfl]
  · rw [← hSq]
    unfold sq fn
    rw [hFns]
  · rw [hOthers j hj', hItems, if_neg hj]

/-- Settles O27: the latch that EVT sets, the interrupt by whether a source asks, the posted work by the room in its share. -/
theorem engineEvents : Obligations.EngineEvents := fun s e t =>
  ⟨fun v h => evt_does h v,
    fun hl hr hk hw => ⟨fun _ _ hc ha => engineInterrupt_taken hl hr hk hw hc ha, fun hn =>
      (exec_engineInterrupt hl hr hk hw).trans (by rw [if_neg fun ha => by
        obtain ⟨n, c, hc, hAsk⟩ := isAsked_iff.mp ha
        exact hn n c hc hAsk])⟩,
    fun b hl =>
      have hPosted := postWork_does b (postFunc b) none false s
      ⟨fun hf => ⟨_, itemPost_posts hl hf, hPosted.2.1, hPosted.2.2, hPosted.1⟩, itemPost_waits hl,
        fun _ _ hf hb hn hk => itemPost_takes hl hf hb hn hk⟩⟩

end
end Sys2Proof.Machine
end

section
/-! PROOFS. Scripts in an engine: entry, return and the stop (R242, R245, R247). -/

namespace Sys2Proof.Machine

section
variable {s : State} {e : EngId} {t : Thread}

/-- The thread behind its script, in the microcode again. -/
def leftScript (r : ScriptRun) (t : Thread) : Thread :=
  { t with script := none, pc := r.back, loops := t.loops.filter fun f => f.first.toNat < 0x2000 }

/-! ### The stop of a script -/

/-- The stop as noted in the engines' registers. -/
def stopNoted (e cause : Nat) (r : ScriptRun) (h : U16) (s : State) : State :=
  { s with eng := { s.eng with
    scrLast := BitVec.ofNat 32 (r.number + e * 2 ^ 8 + cause * 2 ^ 12 + h.toNat * 2 ^ 16), scrFaults := s.eng.scrFaults + 1 } }

/-- The transfer that the script served has ended. -/
def workFaulted (w : Work) (s : State) : State := match workItem s w with | some i => finish i stScriptFault s | none => s

theorem workFaulted_ends (w : Work) (s : State) : EndsItems s (workFaulted w s) := by
  unfold workFaulted
  split
  · exact finish_ends _ _ _
  · exact .refl s

theorem scriptStop_eq {r : ScriptRun} (hr : (eng s e.val).run = some t) (hs : t.script = some r)
    (hx : (port s (workPort s t.work)).txn = none) (cause : Nat) : scriptStop e.val cause s
      = raise .eng 0 (modRun e.val (fun t => { leftScript r t with wait := .running })
        (modPort (workPort s t.work) (fun x => { x with lane := x.lane.filter fun o => o.1 != e.val })
          (workFaulted t.work (stopNoted e.val cause r (workHandle s t.work) s)))) := by
  have hPort : ∀ k, port (workFaulted t.work (stopNoted e.val cause r (workHandle s t.work) s)) k = port s k := fun k => by
    obtain ⟨_, _, _, _, _, h⟩ := workFaulted_ends t.work (stopNoted e.val cause r (workHandle s t.work) s)
    rw [h]
    rfl
  have hNone : (port (modPort (workPort s t.work) (fun x => { x with lane := x.lane.filter fun o => o.1 != e.val })
      (workFaulted t.work (stopNoted e.val cause r (workHandle s t.work) s))) (workPort s t.work)).txn = none := by
    rw [port_modPort, if_pos rfl, hPort]
    exact hx
  unfold scriptStop
  rw [hr]
  dsimp only
  rw [hs]
  dsimp only
  refine congrArg (raise .eng 0) (congrArg (modRun e.val _) ?_)
  split
  · next y hy => exact absurd (hy.symm.trans hNone) (by simp)
  · rfl

/-- What the stop leaves. -/
def Stopped (e : EngId) (cause : Nat) (r : ScriptRun) (t : Thread) (s u : State) : Prop :=
  (eng u e.val).run = some { leftScript r t with wait := .running } ∧ u.eng.scrFaults = s.eng.scrFaults + 1
    ∧ u.eng.scrLast = BitVec.ofNat 32 (r.number + e.val * 2 ^ 8 + cause * 2 ^ 12 + (workHandle s t.work).toNat * 2 ^ 16)
    ∧ Raised (evtKey .eng) 0 s u ∧ OtherEngines e.val s u
    ∧ (∀ k, port u k = if k = workPort s t.work then { port s k with lane := (port s k).lane.filter fun o => o.1 != e.val } else port s k)
    ∧ ∀ i x, t.work = .item i → item? s i = some x → isOwn x = false → x.status = none →
        ∃ y, item? u i = some y ∧ y.status = some stScriptFault ∧ y.awaitFin = false ∧ y.raw = x.raw

theorem scriptStop_does {r : ScriptRun} (hr : (eng s e.val).run = some t) (hs : t.script = some r)
    (hx : (port s (workPort s t.work)).txn = none) (cause : Nat) : Stopped e cause r t s (scriptStop e.val cause s) := by
  rw [scriptStop_eq hr hs hx cause]
  obtain ⟨v, hv⟩ : ∃ v, v = workFaulted t.work (stopNoted e.val cause r (workHandle s t.work) s) := ⟨_, rfl⟩
  obtain ⟨_, _, _, _, _, hEnds⟩ := workFaulted_ends t.work (stopNoted e.val cause r (workHandle s t.work) s)
  rw [← hv] at hEnds
  have hEng : v.eng = (stopNoted e.val cause r (workHandle s t.work) s).eng := by rw [hEnds]
  have hEngs : ∀ k, eng v k = eng s k := fun k => by unfold eng; rw [hEng]; rfl
  have hPorts : ∀ k, port v k = port s k := fun k => by rw [hEnds]; rfl
  have hEvt : ∀ k, evtWord v k = evtWord s k := fun k => by rw [hEnds]; rfl
  rw [← hv]
  obtain ⟨w, hw⟩ : ∃ w, w = modRun e.val (fun t => { leftScript r t with wait := .running })
      (modPort (workPort s t.work) (fun x => { x with lane := x.lane.filter fun o => o.1 != e.val }) v) := ⟨_, rfl⟩
  rw [← hw]
  have hwe : ∀ k, eng w k = if k = e.val then { eng s e.val with run := some { leftScript r t with wait := .running } } else eng s k := fun k => by
    rw [hw]
    refine (eng_modEng _ _ _ _).trans ?_
    rw [eng_of_modPort, eng_of_modPort, hEngs, hEngs, hr]
    rfl
  refine ⟨?_, ?_, ?_, fun k => ?_, fun k hk => ?_, fun k => ?_, fun i x hi hx' ho hst => ?_⟩
  · rw [eng_raise, hwe, if_pos rfl]
  · rw [raise_eng, hw]
    exact congrArg Engines.scrFaults hEng
  · rw [raise_eng, hw]
    exact congrArg Engines.scrLast hEng
  · rw [raise_raised .eng 0 w k, show evtWord w k = evtWord s k by rw [hw]; exact hEvt k]
  · rw [eng_raise, hwe, if_neg hk]
  · rw [port_of_topo (raise_topo .eng 0 w), hw]
    refine (show _ = port (modPort (workPort s t.work) (fun x => { x with lane := x.lane.filter fun o => o.1 != e.val }) v) k from rfl).trans ?_
    rw [port_modPort, hPorts, hPorts]
    split
    · next hk => rw [hk]
    · rfl
  · have hFinish : v = finish i stScriptFault (stopNoted e.val cause r (workHandle s t.work) s) := by
      rw [hv, hi]
      rfl
    obtain ⟨⟨y, hy, hStatus, hAwait, -, -, hSame, -⟩, -⟩ := finish_completed (s := stopNoted e.val cause r (workHandle s t.work) s) hx' ho
      (.inl hst) stScriptFault
    simp only [Prod.mk.injEq] at hSame
    refine ⟨y, ?_, hStatus, hAwait, hSame.2.2.2.1⟩
    rw [show item? (raise .eng 0 w) i = item? v i by unfold item?; rw [raise_front, hw]; rfl, hFinish]
    exact hy

theorem scriptBudgetExpiry_does {r : ScriptRun} (hl : live s = true) (hr : (eng s e.val).run = some t) (hs : t.script = some r)
    (hx : (port s (workPort s t.work)).txn = none) : ∃ u, exec (.scriptBudgetExpiry e) s = .next u ∧ Stopped e 1 r t s u :=
  ⟨_, runs_of_guard (o := execScriptBudgetExpiry e s) (s := s) rfl hl, scriptStop_does hr hs hx 1⟩

/-! ### SCALL -/

theorem scall_enters (h : InMicrocode s e t) {v : BitVec 10} {c : Script} (hc : tfind s.eng.scripts (boundScript t) = some c)
    (hb : boundScript t ≠ 0) (hHook : bit c.hooks (field v 0 2) = true) (hn : field v 0 2 < 3) (hNew : field v 0 2 ∉ t.entered)
    (hPer : isServiceWork t.work = true → bit c.flags 0 = true) :
    ∃ u, exec (.scall e v) s = .next u ∧ OtherEngines e.val s u ∧ (eng u e.val).scratch = []
      ∧ (eng u e.val).run = some { advance t with
          script := some ⟨boundScript t, field v 0 2, BitVec.ofNat 17 (c.wcCycles - t.used), (advance t).pc⟩
          entered := field v 0 2 :: t.entered, pc := BitVec.ofNat 14 (c.base + c.entries.getD (field v 0 2) 0) } := by
  have hRun : exec (.scall e v) s = .next (setRun e.val { advance t with
      script := some ⟨boundScript t, field v 0 2, BitVec.ofNat 17 (c.wcCycles - t.used), (advance t).pc⟩
      entered := field v 0 2 :: t.entered, pc := BitVec.ofNat 14 (c.base + c.entries.getD (field v 0 2) 0) }
      (modEng e.val (fun x => { x with scratch := [] }) s)) := by
    refine (runs_micro (o := execScall e v s) rfl h).trans (congrArg _ ?_)
    dsimp only
    rw [hc]
    dsimp only
    rw [if_neg]
    rw [hHook]
    have hBad : (isServiceWork t.work && !bit c.flags 0) = false := by
      cases hw : isServiceWork t.work
      · rfl
      · rw [hPer hw]
        rfl
    rw [hBad]
    simp [hb, hNew, Nat.not_le.mpr hn]
  refine ⟨_, hRun, fun k hk => ?_, ?_, ?_⟩
  · rw [eng_setRun, if_neg hk, eng_modEng, if_neg hk]
  · rw [eng_setRun, if_pos rfl, eng_modEng, if_pos rfl]
  · rw [eng_setRun, if_pos rfl]

theorem scall_passes (h : InMicrocode s e t) {v : BitVec 10} (hn : tfind s.eng.scripts (boundScript t) = none ∨ field v 0 2 ∈ t.entered) :
    exec (.scall e v) s = .next (setRun e.val (advance t) s) := by
  refine (runs_micro (o := execScall e v s) rfl h).trans (congrArg _ ?_)
  dsimp only
  split
  · next c hc =>
    rcases hn with hn | hn
    · rw [hn] at hc
      cases hc
    · rw [if_pos (by simp [hn])]
  · rfl

/-! ### SRET -/

theorem runs_script {o : Host.Outcome State Fault Refusal} {c : Nat} {f : Thread → State → State} {r : ScriptRun}
    (ho : o = instruction e .s c f s) (h : CanRun s e t c) (hs : t.script = some r) : o = .next (f (spend c t) s) := by
  have hExec := executing_of h
  obtain ⟨hl, -, -, hPaid⟩ := h
  rw [hs] at hPaid
  rw [ho]
  unfold instruction
  rw [guarded_of hl, hExec]
  dsimp only
  rw [hs]
  dsimp only
  rw [if_neg (by decide), if_neg (by dsimp only at hPaid; omega)]

theorem exec_sret {r : ScriptRun} (h : CanRun s e t 2) (hs : t.script = some r) (v : BitVec 10) :
    exec (.sret e v) s = .next (
      if 2 ≤ field v 0 2 || (field v 0 2 = 1 && !scriptStatus (breg t 15)) then scriptStop e.val 5 s
      else if field v 0 2 = 1 then
        each (openItems (setRun e.val (leftScript r (spend 2 t)) s) t.work) (hookDone (breg t 15)) (setRun e.val (leftScript r (spend 2 t)) s)
      else if r.hook = 2 then flushWork t.work (setRun e.val (leftScript r (spend 2 t)) s)
      else setRun e.val (leftScript r (spend 2 t)) s) := by
  refine (runs_script (o := execSret e v s) rfl h hs).trans (congrArg _ ?_)
  have hSpent : (spend 2 t).script = some { r with budget := r.budget - BitVec.ofNat 17 2 } := by
    unfold spend
    rw [hs]
    rfl
  dsimp only
  rw [hSpent]
  rfl

theorem setItem_twice (i : Nat) (x y : Item) (s : State) : setItem (setItem s i x) i y = setItem s i y :=
  congrArg (fun l => { s with front := { s.front with items := l } }) (tput_tput _ _ _ _)

theorem hookDone_open {i : Nat} {x : Item} (hi : item? s i = some x) (hx : x.status = none ∨ x.awaitFin = true) (st : Byte) :
    hookDone st i s = setItem s i { x with status := some st, awaitFin := true, stopAs := none, ended := true, pendErr := none } := by
  have hOpen : ¬ (x.status.isSome && !x.awaitFin) = true := by
    rcases hx with hx | hx <;> simp [hx]
  have hClean : modItem i (fun x => { x with pendErr := none }) s = setItem s i { x with pendErr := none } := by
    unfold modItem
    rw [hi]
  unfold hookDone overrideItem
  rw [hClean]
  unfold modItem
  rw [item_setItem, if_pos rfl]
  dsimp only
  rw [if_neg hOpen]
  exact setItem_twice _ _ _ _

/-- Settles O28: the entry, the return by its action and hook, and the stop. -/
theorem scriptHooks : Obligations.ScriptHooks := fun s e t v =>
  ⟨fun h _ hc hb hHook hn hNew hPer => scall_enters h hc hb hHook hn hNew hPer, fun h hn => scall_passes h hn,
    fun r h hs => by
      have hRun := exec_sret h hs v
      refine ⟨fun ha hHook => ?_, fun ha hHook => ?_, fun i x ha hStatus hw hi hx => ?_, fun hBad hx => ?_⟩
      · rw [hRun, ha]
        exact congrArg _ (if_neg hHook)
      · rw [hRun, ha]
        exact congrArg _ (if_pos hHook)
      · rw [hRun, ha, hStatus, hw]
        exact congrArg _ ((each_cons _ _ _ _).trans (hookDone_open (s := setRun e.val (leftScript r (spend 2 t)) s) hi hx _))
      · rw [if_pos (by rcases hBad with hBad | ⟨h1, h2⟩ <;> simp_all)] at hRun
        obtain ⟨-, hr, -, -⟩ := h
        exact ⟨_, hRun, scriptStop_does hr hs hx 5⟩,
    fun _ hl hr hs hx => scriptBudgetExpiry_does hl hr hs hx⟩

end
end Sys2Proof.Machine
end

section
/-! PROOFS. The engines as a whole: rejoin, the clock gate, and the start of a floating reservation (R204, R383, R443). -/

namespace Sys2Proof.Machine

section
variable {s : State} {e : EngId} {p : PortId} {r i : Nat} {g : Rung} {x : Item} {rest : List Nat} {t : Thread}

theorem engineRejoin_does (hl : live s = true) (hs : (eng s e.val).stopped = true) :
    exec (.engineRejoin e) s = .next (modEng e.val (fun x => { x with stopped := false }) s) :=
  runs_of_guard (o := execEngineRejoin e s) (s := s) (f := modEng e.val fun x => { x with stopped := false }) rfl (by rw [hl, hs]; rfl)

theorem engineClockGate_gates (hl : live s = true) (hn : clockNeeded s e.val = false) :
    exec (.engineClockGate e) s = .next (modEng e.val (fun x => { x with gated := true }) s) :=
  runs_of_guard (o := execEngineClockGate e s) (s := s) (f := modEng e.val fun x => { x with gated := true }) rfl (by rw [hl, hn]; rfl)

theorem engineClockGate_idle (hn : clockNeeded s e.val = true) : exec (.engineClockGate e) s = .next s :=
  guarded_of_false (by rw [hn]; exact Bool.and_false _)

/-! ### The start of a floating reservation -/

theorem exec_floatStart (hl : serves s = true) : exec (.floatStart p) s = .next (
    if (floatOf s p.val).isSome && (tget ([] : List Nat) s.sch.floatWait p.val).isEmpty then
      runLane p.val { s with sch := { s.sch with floatIdle := tput s.sch.floatIdle p.val (now s) } }
    else floatServe p.val s) := runs_of_guard (o := execFloatStart p s) (s := s) rfl hl

theorem floatStart_idle (hl : serves s = true) (hw : tget ([] : List Nat) s.sch.floatWait p.val = []) : exec (.floatStart p) s = .next (
    if (floatOf s p.val).isSome then runLane p.val { s with sch := { s.sch with floatIdle := tput s.sch.floatIdle p.val (now s) } } else s) := by
  rw [exec_floatStart hl, hw]
  cases hf : floatOf s p.val with
  | none =>
    refine congrArg _ ?_
    unfold floatServe
    rw [hf]
    rfl
  | some f => rfl

/-- The transfer that has waited longest is taken off the list. -/
def floatTaken (p : Nat) (rest : List Nat) (s : State) : State :=
  { s with sch := { s.sch with floatWait := tput s.sch.floatWait p rest, floatIdle := tdel s.sch.floatIdle p } }

/-- The reservation's state at its start. -/
def freshService (y : PState) : PState := { y with good := 0, lost := false, short := false, tokens := 0, late := false, attempts := 0 }

/-- The reservation stands before the walk of the engine, its transfer bound to this microframe. -/
def floatBound (p r i e : Nat) (rest : List Nat) (s : State) : State :=
  modEng e (fun x => { x with walk := r :: x.walk })
    (modPstate r freshService (modItem i (fun x => { x with service := some (absUframe s) }) (floatTaken p rest s)))

/-- The engine runs what a service does not take it from. -/
def servesOn (s : State) (e : Nat) : Bool := match (eng s e).run with | some t => t.kind == .periodic || midTxn s e | none => false

theorem floatServe_eq (hf : floatOf s p.val = some (r, g)) (hw : tget ([] : List Nat) s.sch.floatWait p.val = i :: rest) {e : Nat}
    (he : (if (eng s g.engine).retired || (eng s g.engine).stopped then g.fallback else g.engine) = e) : floatServe p.val s
      = if resHalted s r g then finish i stStall (floatTaken p.val rest s)
        else if servesOn (floatBound p.val r i e rest s) e then floatBound p.val r i e rest s
        else nextWork e (suspendDispatch e (floatBound p.val r i e rest s)) := by
  unfold floatServe
  rw [hf, hw]
  dsimp only
  rw [he]
  rfl

theorem exec_floatStart_serves (hl : serves s = true) (hf : floatOf s p.val = some (r, g))
    (hw : tget ([] : List Nat) s.sch.floatWait p.val = i :: rest) : exec (.floatStart p) s = .next (floatServe p.val s) := by
  rw [exec_floatStart hl, hf, hw]
  rfl

theorem floatStart_halted (hl : serves s = true) (hf : floatOf s p.val = some (r, g))
    (hw : tget ([] : List Nat) s.sch.floatWait p.val = i :: rest) (hi : item? s i = some x) (hh : resHalted s r g = true)
    (ho : isOwn x = false) (hs : x.status = none) : ∃ u, exec (.floatStart p) s = .next u ∧ Completed i x 0x02 (floatTaken p.val rest s) u := by
  refine ⟨_, exec_floatStart_serves hl hf hw, ?_⟩
  rw [floatServe_eq hf hw rfl, if_pos hh]
  exact finish_completed (s := floatTaken p.val rest s) hi ho (.inl hs) _

/-- What the binding leaves. -/
theorem floatBound_does (hi : item? s i = some x) (p r e : Nat) (rest : List Nat) :
    (∀ j, item? (floatBound p r i e rest s) j = if j = i then some { x with service := some (absUframe s) } else item? s j)
    ∧ (floatBound p r i e rest s).topo = s.topo ∧ tget ([] : List Nat) (floatBound p r i e rest s).sch.floatWait p = rest
    ∧ (∀ k, eng (floatBound p r i e rest s) k = if k = e then { eng s e with walk := r :: (eng s e).walk } else eng s k)
    ∧ pstate (floatBound p r i e rest s) r = freshService (pstate s r) := by
  have hItem : modItem i (fun x => { x with service := some (absUframe s) }) (floatTaken p rest s)
      = setItem (floatTaken p rest s) i { x with service := some (absUframe s) } := by
    unfold modItem
    rw [show item? (floatTaken p rest s) i = some x from hi]
  unfold floatBound
  rw [hItem]
  refine ⟨fun j => ?_, rfl, tget_tput_same _ _ _ _, fun k => ?_, tget_tput_same _ _ _ _⟩
  · exact item_setItem (floatTaken p rest s) i j _
  · rw [eng_modEng]
    rfl

theorem midTxn_same {u : State} {e : Nat} (hTopo : u.topo = s.topo) (hr : (eng u e).run = (eng s e).run) : midTxn u e = midTxn s e := by
  unfold midTxn
  rw [hr]
  simp only [port_of_topo hTopo]

/-- The wait of a thread that is suspended: HOLD, DRN and GETW start again. -/
def againAt (w : Wait) : Wait := match w with | .hold _ | .drn | .getw => .running | w => w

/-- The engine whose running thread gives way to a service. -/
def suspendedEngine (s : State) (x : Engine) : Engine :=
  match x.run with
  | some t =>
    if t.kind == .dispatch then { x with suspended := some { t with wait := againAt t.wait, holds := [] }, run := none }
    else if longUnit s t.work && s.tb.uframe != 0 then { x with run := none, paused := t :: x.paused }
    else { x with run := none }
  | none => x

theorem eng_suspendDispatch (e k : Nat) (s : State) :
    eng (suspendDispatch e s) k = if k = e then suspendedEngine s (eng s e) else eng s k :=
  eng_modEng e k (suspendedEngine s) s

/-- The engine once the dispatch thread has been suspended. -/
theorem suspendDispatch_does {e : Nat} (hr : (eng s e).run = some t) (hk : t.kind = .dispatch) :
    (∀ k, k ≠ e → eng (suspendDispatch e s) k = eng s k) ∧ (∃ w, eng (suspendDispatch e s) e
      = { eng s e with suspended := some { t with wait := w, holds := [] }, run := none })
    ∧ (∀ j, item? (suspendDispatch e s) j = item? s j) ∧ (suspendDispatch e s).sch = s.sch := by
  refine ⟨fun k hk => by rw [eng_suspendDispatch, if_neg hk], ⟨againAt t.wait, ?_⟩, fun _ => rfl, rfl⟩
  rw [eng_suspendDispatch, if_pos rfl]
  unfold suspendedEngine
  rw [hr]
  dsimp only
  rw [if_pos (by rw [hk]; rfl)]

/-- The oldest waiting transfer is served by the reservation's engine. -/
theorem floatStart_serves (hl : serves s = true) (hf : floatOf s p.val = some (r, g))
    (hw : tget ([] : List Nat) s.sch.floatWait p.val = i :: rest) (hi : item? s i = some x) (hh : resHalted s r g = false)
    (he : g.engine = e.val) (hRetired : (eng s e.val).retired = false) (hStopped : (eng s e.val).stopped = false)
    (hr : (eng s e.val).run = some t) (hp : (eng s e.val).paused = []) :
    ∃ u, exec (.floatStart p) s = .next u ∧ item? u i = some { x with service := some (absUframe s) } ∧ OtherItems i s u
      ∧ tget ([] : List Nat) u.sch.floatWait p.val = rest ∧ (eng u e.val).walk = r :: (eng s e.val).walk ∧ OtherEngines e.val s u
      ∧ (pstate u r).tokens = 0 ∧ (pstate u r).good = 0 ∧ (pstate u r).seq = (pstate s r).seq
      ∧ (t.kind = .periodic ∨ midTxn s e.val = true → (eng u e.val).run = some t)
      ∧ (t.kind = .dispatch → midTxn s e.val = false → (eng u e.val).run = some (freshThread .periodic)
        ∧ ∃ w, (eng u e.val).suspended = some { t with wait := w, holds := [] }) := by
  have hRun := exec_floatStart_serves hl hf hw
  rw [floatServe_eq hf hw (e := e.val) (by rw [he, hRetired, hStopped]; rfl), if_neg (by rw [hh]; decide)] at hRun
  obtain ⟨hItems, hTopo, hWait, hEngs, hState⟩ := floatBound_does hi p.val r e.val rest
  generalize floatBound p.val r i e.val rest s = v at *
  have hvr : (eng v e.val).run = some t := by rw [hEngs, if_pos rfl]; exact hr
  have hServes : servesOn v e.val = (t.kind == .periodic || midTxn s e.val) := by
    unfold servesOn
    rw [hvr]
    dsimp only
    rw [midTxn_same hTopo (hvr.trans hr.symm)]
  by_cases hBusy : t.kind = .periodic ∨ midTxn s e.val = true
  · rw [if_pos (by rw [hServes]; simpa using hBusy)] at hRun
    refine ⟨v, hRun, (hItems i).trans (if_pos rfl), fun j hj => (hItems j).trans (if_neg hj), hWait, ?_, fun k hk => ?_, ?_, ?_, ?_,
      fun _ => hvr, fun hKind hMid => ?_⟩
    · rw [hEngs, if_pos rfl]
    · rw [hEngs, if_neg hk]
    · rw [hState]; rfl
    · rw [hState]; rfl
    · rw [hState]; rfl
    · rcases hBusy with hBusy | hBusy
      · rw [hKind] at hBusy
        cases hBusy
      · rw [hMid] at hBusy
        cases hBusy
  · rw [if_neg (by rw [hServes]; simpa using hBusy), nextWork_eq] at hRun
    have hKind : t.kind = .dispatch := by
      cases hk : t.kind with
      | dispatch => rfl
      | periodic => exact absurd (.inl hk) hBusy
    obtain ⟨hOthers, ⟨w, hSuspended⟩, hSameItems, hSch⟩ := suspendDispatch_does hvr hKind
    have hPstate : pstate (modEng e.val nextEngine (suspendDispatch e.val v)) r = freshService (pstate s r) := by
      rw [← hState]
      exact congrArg (fun c => tget ({} : PState) c.state r) hSch
    have hEngine : eng (modEng e.val nextEngine (suspendDispatch e.val v)) e.val = { eng s e.val with
        walk := r :: (eng s e.val).walk, suspended := some { t with wait := w, holds := [] }, run := some (freshThread .periodic) } := by
      rw [eng_modEng, if_pos rfl, hSuspended, hEngs, if_pos rfl]
      unfold nextEngine
      dsimp only
      rw [hp]
      rfl
    refine ⟨_, hRun, ?_, fun j hj => ?_, ?_, by rw [hEngine], fun k hk => ?_, ?_, ?_, ?_, fun hb => absurd hb hBusy,
      fun _ _ => ⟨by rw [hEngine], w, by rw [hEngine]⟩⟩
    · exact (hSameItems i).trans ((hItems i).trans (if_pos rfl))
    · exact (hSameItems j).trans ((hItems j).trans (if_neg hj))
    · exact (congrArg (fun c => tget ([] : List Nat) c.floatWait p.val) hSch).trans hWait
    · rw [eng_modEng, if_neg hk, hOthers k hk, hEngs, if_neg hk]
    · rw [hPstate]; rfl
    · rw [hPstate]; rfl
    · rw [hPstate]; rfl

/-- Settles O29: the float's start by what waits, by the endpoint, and by what its engine runs. -/
theorem engineStates : Obligations.EngineStates := fun _ _ =>
  ⟨engineRejoin_does, engineClockGate_gates, engineClockGate_idle, fun _ hl hw => floatStart_idle hl hw,
    fun _ _ _ _ _ _ hl hf hw hi => ⟨fun hh ho hs => floatStart_halted hl hf hw hi hh ho hs,
      fun _ hh he hRetired hStopped hr hp => floatStart_serves hl hf hw hi hh he hRetired hStopped hr hp⟩⟩

end
end Sys2Proof.Machine
end

section
/-! PROOFS. The script commands (R248 to R251). -/

namespace Sys2Proof.Machine

section
variable {s : State} {ctx : CmdCtx} {n : Byte} {image : List Byte} {b : BindBody}

/-- The command has been answered with these figures. -/
def ScriptAns (ctx : CmdCtx) (s : State) (code r rule c l : Nat) (u : State) : Prop := Answered ctx code (scriptReply r rule c l) s u

/-- A command that is answered at once leaves the engines and the trees. -/
theorem refused_does (ctx : CmdCtx) (s : State) (code r rule c l : Nat) :
    ScriptAns ctx s code r rule c l (reply ctx code (scriptReply r rule c l) (begun ctx code s))
      ∧ (reply ctx code (scriptReply r rule c l) (begun ctx code s)).eng = s.eng
      ∧ (reply ctx code (scriptReply r rule c l) (begun ctx code s)).topo = s.topo :=
  ⟨(answered_at_once ctx code _ s).1, reply_eng _ _ _ _, reply_topo _ _ _ _⟩

/-! ### SCRIPT_LOAD -/

theorem exec_scriptLoad (hl : live s = true) : exec (.scriptLoad ctx n image) s = .next (scriptLoadOp ctx n.toNat image s) :=
  runs_of_guard (o := execScriptLoad ctx n image s) (s := s) rfl hl

theorem scriptLoadOp_barred (n : Nat) (hc : sender ctx.chan ≠ 0) :
    scriptLoadOp ctx n image s = reply ctx 0x50 (scriptReply 0x0B 0 0 0) (begun ctx 0x50 s) :=
  if_pos (by simpa using hc)

section
variable (hc : sender ctx.chan = 0)
include hc

theorem scriptLoadOp_inUse {n : Nat} (hn : n = 0 ∨ tfind s.eng.scripts n ≠ none) :
    scriptLoadOp ctx n image s = reply ctx 0x50 (scriptReply 1 0 0 0) (begun ctx 0x50 s) := by
  refine (if_neg (by simp [hc])).trans (if_pos ?_)
  rcases hn with hn | hn
  · simp [hn]
  · have hSome : (tfind (begun ctx 0x50 s).eng.scripts n).isSome = true := Option.isSome_iff_ne_none.mpr hn
    rw [hSome]
    simp

/-- A number that is free: what comes of the image. -/
theorem scriptLoadOp_free {n : Nat} (hn : n ≠ 0) (hf : tfind s.eng.scripts n = none) : scriptLoadOp ctx n image s
    = if (checkImage image).1 ≠ 0 then reply ctx 0x50 (scriptReply 3 (checkImage image).1 (checkImage image).2.1 (checkImage image).2.2) (begun ctx 0x50 s)
      else match scriptSpace s (imgField image 6 2) with
        | none => reply ctx 0x50 (scriptReply 2 0 (checkImage image).2.1 (checkImage image).2.2) (begun ctx 0x50 s)
        | some a => reply ctx 0x50 (scriptReply 0 0 (checkImage image).2.1 (checkImage image).2.2)
            { begun ctx 0x50 s with eng := { s.eng with
              imem := (imgWords image).zipIdx.foldl (fun m e => tput m (a + e.2) e.1) s.eng.imem
              scripts := tput s.eng.scripts n (scriptFrom image a) } } := by
  refine (if_neg (by simp [hc])).trans ((if_neg ?_).trans ?_)
  · have hNone : (tfind (begun ctx 0x50 s).eng.scripts n).isSome = false := by
      rw [show (begun ctx 0x50 s).eng = s.eng from rfl, hf]
      rfl
    rw [hNone]
    simpa using hn
  · by_cases hk : (checkImage image).1 = 0
    · rw [if_neg (by simpa using hk), if_neg (by simp [hk])]
      rfl
    · rw [if_pos (by simpa using hk)]
      exact (if_pos hk).symm

end

/-- The words of an image as they stand from place `a` on. -/
theorem words_stored (l : List U32) (a n k : Nat) (m : Tbl U32) : tget 0 ((l.zipIdx n).foldl (fun m e => tput m (a + e.2) e.1) m) k
    = if a + n ≤ k then (l[k - (a + n)]?).getD (tget 0 m k) else tget 0 m k := by
  induction l generalizing n m with
  | nil => simp
  | cons w l ih =>
    rw [List.zipIdx_cons, List.foldl_cons, ih, tget_tput]
    by_cases h : k = a + n
    · rw [if_neg (by omega), if_pos h, if_pos (by omega), h, Nat.sub_self]
      rfl
    · rw [if_neg h]
      by_cases hLe : a + n ≤ k
      · rw [if_pos (by omega), if_pos hLe, show k - (a + n) = k - (a + (n + 1)) + 1 by omega]
        rfl
      · rw [if_neg (by omega), if_neg hLe]

/-- The engines with the script loaded at place `a`. -/
def withScript (n a : Nat) (image : List Byte) (x : Engines) : Engines :=
  { x with imem := (imgWords image).zipIdx.foldl (fun m e => tput m (a + e.2) e.1) x.imem, scripts := tput x.scripts n (scriptFrom image a) }

theorem withScript_does (n a : Nat) (image : List Byte) (x : Engines) :
    tfind (withScript n a image x).scripts n = some (scriptFrom image a)
    ∧ (∀ m, m ≠ n → tfind (withScript n a image x).scripts m = tfind x.scripts m)
    ∧ (∀ j w, (imgWords image)[j]? = some w → tget 0 (withScript n a image x).imem (a + j) = w)
    ∧ (∀ j, j < a ∨ a + (imgWords image).length ≤ j → tget 0 (withScript n a image x).imem j = tget 0 x.imem j)
    ∧ (withScript n a image x).eng = x.eng := by
  refine ⟨tfind_tput_same _ _ _, fun m hm => tfind_tput_ne _ _ _ _ hm, fun j w hw => ?_, fun j hj => ?_, rfl⟩
  · refine (words_stored _ a 0 (a + j) x.imem).trans ?_
    rw [if_pos (by omega), show a + j - (a + 0) = j by omega, hw]
    rfl
  · refine (words_stored _ a 0 j x.imem).trans ?_
    rcases hj with hj | hj
    · rw [if_neg (by omega)]
    · rw [List.getElem?_eq_none (by omega)]
      simp

/-- A command that changes the engines or trees alone is answered as the state in which it came shows it. -/
theorem changed_answered {code r rule c l : Nat} {v : State} (hf : v.fns = s.fns) (hm : v.mail = (begun ctx code s).mail) :
    ScriptAns ctx s code r rule c l (reply ctx code (scriptReply r rule c l) v) :=
  reply_from hf (by rw [hm]; exact begun_bufs ctx code s)

/-- What the statement says of SCRIPT_LOAD for a free number. -/
theorem scriptLoad_does (hl : live s = true) (hc : sender ctx.chan = 0) (hn : n.toNat ≠ 0) (hf : tfind s.eng.scripts n.toNat = none) :
    ((checkImage image).1 ≠ 0 → ∃ u, exec (.scriptLoad ctx n image) s = .next u
      ∧ ScriptAns ctx s 0x50 3 (checkImage image).1 (checkImage image).2.1 (checkImage image).2.2 u ∧ u.eng = s.eng)
    ∧ ((checkImage image).1 = 0 → scriptSpace s (imgField image 6 2) = none → ∃ u, exec (.scriptLoad ctx n image) s = .next u
      ∧ ScriptAns ctx s 0x50 2 0 (checkImage image).2.1 (checkImage image).2.2 u ∧ u.eng = s.eng)
    ∧ (∀ a, (checkImage image).1 = 0 → scriptSpace s (imgField image 6 2) = some a → ∃ u, exec (.scriptLoad ctx n image) s = .next u
      ∧ ScriptAns ctx s 0x50 0 0 (checkImage image).2.1 (checkImage image).2.2 u ∧ u.eng = withScript n.toNat a image s.eng) := by
  have hRun := exec_scriptLoad (n := n) (image := image) (ctx := ctx) hl
  rw [scriptLoadOp_free hc hn hf] at hRun
  refine ⟨fun hk => ?_, fun hk hs => ?_, fun a hk hs => ?_⟩
  · rw [if_pos hk] at hRun
    obtain ⟨hAns, hEng, -⟩ := refused_does ctx s 0x50 3 (checkImage image).1 (checkImage image).2.1 (checkImage image).2.2
    exact ⟨_, hRun, hAns, hEng⟩
  · rw [if_neg (by simpa using hk), hs] at hRun
    obtain ⟨hAns, hEng, -⟩ := refused_does ctx s 0x50 2 0 (checkImage image).2.1 (checkImage image).2.2
    exact ⟨_, hRun, hAns, hEng⟩
  · rw [if_neg (by simpa using hk), hs] at hRun
    exact ⟨_, hRun, changed_answered rfl rfl, reply_eng _ _ _ _⟩

/-! ### SCRIPT_UNLOAD -/

theorem exec_scriptUnload (hl : live s = true) (hc : sender ctx.chan = 0) : exec (.scriptUnload ctx n) s = .next (
    if (tfind s.eng.scripts n.toNat).isNone then reply ctx 0x51 (scriptReply 4 0 0 0) (begun ctx 0x51 s)
    else if scriptBound s n.toNat then reply ctx 0x51 (scriptReply 5 0 0 0) (begun ctx 0x51 s)
    else reply ctx 0x51 (scriptReply 0 0 0 0) { begun ctx 0x51 s with eng := { s.eng with scripts := tdel s.eng.scripts n.toNat } }) :=
  (runs_of_guard (o := execScriptUnload ctx n s) (s := s) rfl hl).trans (congrArg _ (if_neg (by simp [hc])))

theorem scriptUnload_does (hl : live s = true) (hc : sender ctx.chan = 0) :
    (tfind s.eng.scripts n.toNat ≠ none →
      (scriptBound s n.toNat = true → ∃ u, exec (.scriptUnload ctx n) s = .next u ∧ ScriptAns ctx s 0x51 5 0 0 0 u ∧ u.eng = s.eng)
      ∧ (scriptBound s n.toNat = false → ∃ u, exec (.scriptUnload ctx n) s = .next u ∧ ScriptAns ctx s 0x51 0 0 0 0 u
        ∧ u.eng = { s.eng with scripts := tdel s.eng.scripts n.toNat }))
    ∧ (tfind s.eng.scripts n.toNat = none → ∃ u, exec (.scriptUnload ctx n) s = .next u ∧ ScriptAns ctx s 0x51 4 0 0 0 u ∧ u.eng = s.eng) := by
  have hRun := exec_scriptUnload (n := n) hl hc
  refine ⟨fun hn => ⟨fun hb => ?_, fun hb => ?_⟩, fun hn => ?_⟩
  · rw [if_neg (by simpa using hn), if_pos hb] at hRun
    obtain ⟨hAns, hEng, -⟩ := refused_does ctx s 0x51 5 0 0 0
    exact ⟨_, hRun, hAns, hEng⟩
  · rw [if_neg (by simpa using hn), if_neg (by simp [hb])] at hRun
    exact ⟨_, hRun, changed_answered rfl rfl, reply_eng _ _ _ _⟩
  · rw [if_pos (by simp [hn])] at hRun
    obtain ⟨hAns, hEng, -⟩ := refused_does ctx s 0x51 4 0 0 0
    exact ⟨_, hRun, hAns, hEng⟩

/-! ### SCRIPT_BIND and SCRIPT_UNBIND -/

theorem tfind_mapKeys {α : Type} (g : Nat → α → α) (l : Tbl α) (k : Nat) : tfind (l.map fun a => (a.1, g a.1 a.2)) k = (tfind l k).map (g k) := by
  induction l with
  | nil => rfl
  | cons a r ih =>
    obtain ⟨j, v⟩ := a
    unfold tfind
    rw [List.map_cons]
    dsimp only
    split
    · next h => rw [h]; rfl
    · exact ih

/-- A device has script `m`, in all its contexts, and no other device has changed. -/
def Given (s : State) (num : Nat) (d : Device) (m : Nat) (u : State) : Prop :=
  dev? u num = some { d with script := m } ∧ (∀ j, j ≠ num → dev? u j = dev? s j)
    ∧ (∀ j x, tfind s.topo.ctx j = some x → tfind u.topo.ctx j = some (if j / 32 = num then { x with script := m } else x))

theorem setScript_topo {num : Nat} {d : Device} (m : Nat) (hd : dev? s num = some d) : (setScript num m s).topo
    = { s.topo with
        dev := tput s.topo.dev num { d with script := m }
        ctx := s.topo.ctx.map fun e => (e.1, if e.1 / 32 == num then { e.2 with script := m } else e.2) } := by
  have hDev : modDev num (fun d => { d with script := m }) s = setDev s num { d with script := m } := by
    unfold modDev
    rw [hd]
  unfold setScript
  rw [hDev]
  exact each_unchanged (fun v => v.topo) _ refreshWin (fun k _ v => (refreshWin_rest k v).1) _

theorem given_of_topo {num : Nat} {d : Device} {m : Nat} {u v : State} (hv : v.topo = s.topo) (hu : u.topo = (setScript num m v).topo)
    (hd : dev? s num = some d) : Given s num d m u := by
  rw [setScript_topo m (show dev? v num = some d by unfold dev?; rw [hv]; exact hd), hv] at hu
  unfold Given dev?
  rw [hu]
  refine ⟨tfind_tput_same _ _ _, fun j hj => tfind_tput_ne _ _ _ _ hj, fun j x hx => ?_⟩
  refine (tfind_mapKeys (fun k c => if k / 32 == num then { c with script := m } else c) s.topo.ctx j).trans ?_
  rw [hx]
  simp

theorem setScript_answered {num m : Nat} {code : Nat} :
    ScriptAns ctx s code 0 0 0 0 (reply ctx code (scriptReply 0 0 0 0) (setScript num m (begun ctx code s))) :=
  changed_answered (setScript_keeps (bl := .fns) num m (Keeps.refl .fns (begun ctx code s)) (by decide))
    (setScript_keeps (bl := .mail) num m (Keeps.refl .mail (begun ctx code s)) (by decide))

section
variable {c : Script} {d : Device} {num : Nat} (hl : live s = true) (hc : sender ctx.chan = 0)
include hl hc

theorem exec_scriptBind (hScript : tfind s.eng.scripts b.number.toNat = some c) : exec (.scriptBind ctx b) s = .next (
    if b.byIdentity = 0 then
      match bindDevBar s b.handle, dev? s (field b.handle 0 12) with
      | some r, _ => reply ctx 0x52 (scriptReply r 0 0 0) (begun ctx 0x52 s)
      | none, some d =>
        (match bindBar d c with
          | some r => reply ctx 0x52 (scriptReply r 0 0 0) (begun ctx 0x52 s)
          | none => reply ctx 0x52 (scriptReply 0 0 0 0) (setScript (field b.handle 0 12) b.number.toNat (begun ctx 0x52 s)))
      | none, none => reply ctx 0x52 (scriptReply 9 0 0 0) (begun ctx 0x52 s)
    else if 64 ≤ s.eng.rules.length then reply ctx 0x52 (scriptReply 0x0C 0 0 0) (begun ctx 0x52 s)
    else reply ctx 0x52 (scriptReply 0 0 0 0) { begun ctx 0x52 s with eng := { s.eng with rules := s.eng.rules ++ [ruleOf b] } }) := by
  refine (runs_of_guard (o := execScriptBind ctx b s) (s := s) rfl hl).trans (congrArg _ ?_)
  refine (if_neg (by simp [hc])).trans ?_
  rw [show (begun ctx 0x52 s).eng = s.eng from rfl, hScript]
  rfl

theorem exec_scriptUnbind (hScript : tfind s.eng.scripts b.number.toNat ≠ none) : exec (.scriptUnbind ctx b) s = .next (
    if b.byIdentity = 0 then
      match bindDevBar s b.handle, dev? s (field b.handle 0 12) with
      | some r, _ => reply ctx 0x53 (scriptReply r 0 0 0) (begun ctx 0x53 s)
      | none, some d => reply ctx 0x53 (scriptReply 0 0 0 0)
          (if d.script = b.number.toNat then setScript (field b.handle 0 12) 0 (begun ctx 0x53 s) else begun ctx 0x53 s)
      | none, none => reply ctx 0x53 (scriptReply 9 0 0 0) (begun ctx 0x53 s)
    else reply ctx 0x53 (scriptReply 0 0 0 0) { begun ctx 0x53 s with eng := { s.eng with rules := s.eng.rules.filter (· != ruleOf b) } }) := by
  refine (runs_of_guard (o := execScriptUnbind ctx b s) (s := s) rfl hl).trans (congrArg _ ?_)
  refine (if_neg (by simp [hc])).trans ((if_neg ?_).trans rfl)
  rw [show (begun ctx 0x53 s).eng = s.eng from rfl]
  simpa using hScript

/-- A device's binding. -/
theorem bind_device (hScript : tfind s.eng.scripts b.number.toNat = some c) (hId : b.byIdentity = 0) (hBar : bindDevBar s b.handle = none)
    (hNum : field b.handle 0 12 = num) (hd : dev? s num = some d) :
    (bindBar d c = none → ∃ u, exec (.scriptBind ctx b) s = .next u ∧ ScriptAns ctx s 0x52 0 0 0 0 u ∧ Given s num d b.number.toNat u)
    ∧ (∀ r, bindBar d c = some r → ∃ u, exec (.scriptBind ctx b) s = .next u ∧ ScriptAns ctx s 0x52 r 0 0 0 u ∧ u.topo = s.topo)
    ∧ (d.script = b.number.toNat → ∃ u, exec (.scriptUnbind ctx b) s = .next u ∧ ScriptAns ctx s 0x53 0 0 0 0 u ∧ Given s num d 0 u) := by
  have hBind := exec_scriptBind hl hc hScript
  have hUnbind := exec_scriptUnbind hl hc (b := b) (by rw [hScript]; simp)
  rw [if_pos hId, hBar, hNum, hd] at hBind hUnbind
  dsimp only at hBind hUnbind
  refine ⟨fun hn => ?_, fun r hr => ?_, fun hs => ?_⟩
  · rw [hn] at hBind
    exact ⟨_, hBind, setScript_answered, given_of_topo (v := begun ctx 0x52 s) rfl (reply_topo _ _ _ _) hd⟩
  · rw [hr] at hBind
    obtain ⟨hAns, -, hTopo⟩ := refused_does ctx s 0x52 r 0 0 0
    exact ⟨_, hBind, hAns, hTopo⟩
  · rw [if_pos hs] at hUnbind
    exact ⟨_, hUnbind, setScript_answered, given_of_topo (v := begun ctx 0x53 s) rfl (reply_topo _ _ _ _) hd⟩

/-- Identity rules. -/
theorem bind_rules (hScript : tfind s.eng.scripts b.number.toNat ≠ none) (hId : b.byIdentity ≠ 0) :
    (s.eng.rules.length < 64 → ∃ u, exec (.scriptBind ctx b) s = .next u ∧ ScriptAns ctx s 0x52 0 0 0 0 u
      ∧ u.eng.rules = s.eng.rules ++ [ruleOf b])
    ∧ (64 ≤ s.eng.rules.length → ∃ u, exec (.scriptBind ctx b) s = .next u ∧ ScriptAns ctx s 0x52 0x0C 0 0 0 u ∧ u.eng.rules = s.eng.rules)
    ∧ (∃ u, exec (.scriptUnbind ctx b) s = .next u ∧ ScriptAns ctx s 0x53 0 0 0 0 u ∧ u.eng.rules = s.eng.rules.filter (· != ruleOf b)) := by
  have hUnbind := exec_scriptUnbind hl hc hScript
  obtain ⟨c, hScript⟩ := Option.ne_none_iff_exists'.mp hScript
  have hBind := exec_scriptBind hl hc hScript
  rw [if_neg hId] at hBind hUnbind
  refine ⟨fun hn => ?_, fun hn => ?_, _, hUnbind, changed_answered rfl rfl, congrArg Engines.rules (reply_eng _ _ _ _)⟩
  · rw [if_neg (by omega)] at hBind
    exact ⟨_, hBind, changed_answered rfl rfl, congrArg Engines.rules (reply_eng _ _ _ _)⟩
  · rw [if_pos hn] at hBind
    obtain ⟨hAns, hEng, -⟩ := refused_does ctx s 0x52 0x0C 0 0 0
    exact ⟨_, hBind, hAns, congrArg Engines.rules hEng⟩

end

/-- Settles O30: each command by its refusals in order, then by what it changes. -/
theorem scriptCommands : Obligations.ScriptCommands := fun s ctx n image b hl => by
  refine ⟨fun hc => ?_, fun hc hn => ?_, fun hc hn hf => ?_, fun hc => (scriptUnload_does hl hc).1, fun hc => (scriptUnload_does hl hc).2,
    fun c d hc hScript hId hBar hd => bind_device hl hc hScript hId hBar rfl hd, fun hc hScript hId => bind_rules hl hc hScript hId⟩
  · obtain ⟨hAns, hEng, -⟩ := refused_does ctx s 0x50 0x0B 0 0 0
    exact ⟨_, (exec_scriptLoad hl).trans (congrArg _ (scriptLoadOp_barred _ hc)), hAns, hEng⟩
  · obtain ⟨hAns, hEng, -⟩ := refused_does ctx s 0x50 1 0 0 0
    exact ⟨_, (exec_scriptLoad hl).trans (congrArg _ (scriptLoadOp_inUse hc hn)), hAns, hEng⟩
  · obtain ⟨hBad, hFull, hLoaded⟩ := scriptLoad_does (image := image) hl hc hn hf
    refine ⟨hBad, hFull, fun a hk hs => ?_⟩
    obtain ⟨u, hRun, hAns, hEng⟩ := hLoaded a hk hs
    exact ⟨u, hRun, hAns, by rw [hEng]; exact withScript_does n.toNat a image s.eng⟩

end
end Sys2Proof.Machine
end

section
/-! PROOFS. Answers on the wire: what each leaves of the transfer, its context and the waiting engine (R65 to R78, R107). -/

namespace Sys2Proof.Machine

/-! ### Requests of the part's own that are posted -/

/-- From `s` to `v` work of the part's own may have been posted: the items that stood, the ports and the engines have not changed. -/
structure Posts (s v : State) : Prop where
  items : ∀ j, j < s.front.nextItem → item? v j = item? s j
  next : s.front.nextItem ≤ v.front.nextItem
  port : v.topo.port = s.topo.port
  eng : v.eng = s.eng
  tb : v.tb = s.tb

theorem Posts.refl (s : State) : Posts s s := ⟨fun _ _ => rfl, Nat.le_refl _, rfl, rfl, rfl⟩

theorem Posts.trans {s v w : State} (h : Posts s v) (k : Posts v w) : Posts s w :=
  ⟨fun j hj => (k.items j (Nat.lt_of_lt_of_le hj h.next)).trans (h.items j hj), Nat.le_trans h.next k.next, k.port.trans h.port,
    k.eng.trans h.eng, k.tb.trans h.tb⟩

theorem Posts.each {α : Type} (l : List α) (f : α → State → State) (h : ∀ x v, Posts v (f x v)) (s : State) : Posts s (each l f s) := by
  induction l generalizing s with
  | nil => exact .refl s
  | cons x l ih =>
    rw [each_cons]
    exact (h x s).trans (ih _)

theorem modCtx_tb (k : Nat) (g : Ctx → Ctx) (s : State) : (modCtx k g s).tb = s.tb := modCtx_keeps (bl := .tb) k g (Keeps.refl .tb s) (by decide)

theorem postWork_posts (b : PostBody) (f : Nat) (setup : Option U64) (poll : Bool) (s : State) : Posts s (postWork b f setup poll s) := by
  obtain ⟨-, hOthers, hNext⟩ := postWork_does b f setup poll s
  refine ⟨fun j hj => hOthers j (Nat.ne_of_lt hj), by rw [hNext]; exact Nat.le_succ _, ?_, ?_, ?_⟩
  · unfold postWork flowIn
    exact (modCtx_rest _ _ _).2.2.2
  · exact postWork_keeps (bl := .eng) b f setup poll (Keeps.refl .eng s) (by decide)
  · exact postWork_keeps (bl := .tb) b f setup poll (Keeps.refl .tb s) (by decide)

theorem postRequest_posts (r : Nat × Option U64) (s : State) : Posts s (postRequest r s) := by
  unfold postRequest
  split
  · exact .refl s
  · split
    · exact ⟨fun _ _ => rfl, Nat.le_refl _, rfl, rfl, rfl⟩
    · exact postWork_posts _ _ _ _ s

theorem postRequests_posts (s : State) : Posts s (postRequests s) := by
  have hTaken : Posts s { s with front := { s.front with requests := [] } } := ⟨fun _ _ => rfl, Nat.le_refl _, rfl, rfl, rfl⟩
  exact hTaken.trans (Posts.each _ _ postRequest_posts _)

theorem askWork_posts (num : Nat) (a : Option U64) (s : State) : Posts s (askWork num a s) := by
  have hAsked : Posts s { s with front := { s.front with requests := s.front.requests ++ [(num, a)] } } :=
    ⟨fun _ _ => rfl, Nat.le_refl _, rfl, rfl, rfl⟩
  exact hAsked.trans (postRequests_posts _)

theorem clearTtOf_posts (t : Txn) (s : State) : Posts s (clearTtOf t s) := by
  unfold clearTtOf
  split
  · unfold clearTt hubRequest
    split
    · exact askWork_posts _ _ s
    · exact .refl s
  · exact .refl s

/-! ### A transaction that awaits its answer -/

section
variable {s v : State} {p e i : Nat} {t : Thread} {m : Byte} {o : BitVec 14} {tx : Txn} {x y : Item} {q : Port} {h : Hdr}

theorem Awaits.within (ha : Awaits s p e t m o tx i x) : Within s s p e t tx (port s p) := by
  obtain ⟨-, ht, -, -, -, -, -, -, -, -, ⟨hReset, hEnum, hLane⟩, hr, hp, -, -, -⟩ := ha
  exact ⟨⟨rfl, ht, hReset, hEnum, hLane⟩, fun _ _ => rfl, ⟨t.win, hr⟩, hp⟩

theorem now_of_tb (ht : v.tb = s.tb) : now v = now s := by
  unfold now
  rw [ht]

theorem waitPaid_of (hp : WaitPaid s t) (ht : now v = now s) : WaitPaid v t := fun r hr => by
  have hNow : waitedCycles v t = waitedCycles s t := by
    unfold waitedCycles
    rw [ht]
  rw [hNow]
  exact hp r hr

/-- The end of the transaction with a result and without a status, once the transfer has taken what the answer says. -/
theorem Awaits.goes_on (ha : Awaits s p e t m o tx i x) (hv : Within s v p e t tx q) (hi : item? v i = some y) (hs : y.stopAs = none)
    (ht : now v = now s) (code b14 b13 : Nat) : Ended p e code t m o s (goOnSeq p tx code b14 b13 v)
      ∧ (∀ j, item? (goOnSeq p tx code b14 b13 v) j = item? v j) ∧ (goOnSeq p tx code b14 b13 v).topo.ctx = v.topo.ctx
      ∧ (goOnSeq p tx code b14 b13 v).out = v.out ∧ port (goOnSeq p tx code b14 b13 v) p = { q with txn := none } := by
  obtain ⟨-, -, -, -, he, hw, -, -, -, -, -, -, -, hh, hWait, hPaid⟩ := ha
  obtain ⟨hEnded, hItems, hCtx, hOut, -, hPort⟩ := goOnSeq_ends hv he hw hi hs hh hWait (waitPaid_of hPaid ht) code b14 b13
  exact ⟨hEnded, hItems, hCtx, hOut, hPort⟩

/-- A handshake of the partner is taken by the transaction. -/
theorem Awaits.takes (ha : Awaits s p e t m o tx i x) (hf : fromPartner s tx h = true) (f : Txn → State → State) :
    handshake p h f s = f tx s := by
  obtain ⟨-, ht, hWaiting, hDue, -⟩ := ha
  unfold handshake awaiting
  rw [ht]
  simp only [Option.bind_some, hWaiting, hDue]
  simp [hf]

theorem Awaits.notPeriodic (ha : Awaits s p e t m o tx i x) (v : State) : isPeriodic v tx.work = false := by
  obtain ⟨-, -, -, -, -, hw, -⟩ := ha
  rw [hw]
  rfl

theorem Awaits.itsItem (ha : Awaits s p e t m o tx i x) (v : State) : workItem v tx.work = some i := by
  obtain ⟨-, -, -, -, -, hw, -⟩ := ha
  rw [hw]
  rfl

/-! ### Errors that count -/

/-- The transfer behind one more attempt without progress. -/
def triedItem (s : State) (tx : Txn) (x : Item) : Item := if errorHook s tx then { x with pendErr := some tx } else struck (txnGen s tx) x

theorem setErrs_tb (t : Txn) (n : Nat) (s : State) : (setErrs t n s).tb = s.tb := setErrs_keeps (bl := .tb) t n (Keeps.refl .tb s) (by decide)

theorem setErrs_front (hw : tx.work = .item i) (n : Nat) (v : State) : (setErrs tx n v).front = (modItem i (fun x => { x with errs := n }) v).front := by
  unfold setErrs
  rw [hw]
  exact (modCtx_rest _ _ _).2.1

theorem nextItem_modItem (i : Nat) (g : Item → Item) (v : State) : (modItem i g v).front.nextItem = v.front.nextItem := by
  unfold modItem
  split <;> rfl

theorem within_posts {w : State} (hv : Within s v p e t tx q) (hw : Posts v w) : Within s w p e t tx q :=
  within_of hv (fun k => by unfold port; rw [hw.port]) hw.eng

/-- A context after a change of one. -/
theorem tfind_modCtx_all (k j : Nat) (g : Ctx → Ctx) (v : State) :
    tfind (modCtx k g v).topo.ctx j = if j = k then (tfind v.topo.ctx k).map g else tfind v.topo.ctx j := by
  unfold modCtx
  cases hk : tfind v.topo.ctx k with
  | none =>
    dsimp only
    split
    · next hj => rw [hj, hk]; rfl
    · rfl
  | some c =>
    refine (tfind_tput _ _ _ _).trans ?_
    split <;> rfl

/-- What the count of errors leaves of the contexts. -/
theorem setErrs_ctx (hw : tx.work = .item i) (n : Nat) (v : State) (j : Nat) : tfind (setErrs tx n v).topo.ctx j
    = if j = ctxKey tx.num tx.ep tx.dirIn then (tfind v.topo.ctx j).map fun c => { c with errcnt := BitVec.ofNat 8 n } else tfind v.topo.ctx j := by
  unfold setErrs
  rw [hw]
  refine (tfind_modCtx_all _ _ _ _).trans ?_
  rw [topo_of_modItem]
  split
  · next hj => rw [hj]
  · rfl

theorem setErrs_txnCtx (hw : tx.work = .item i) (n : Nat) (v : State) : txnGen (setErrs tx n v) tx = txnGen v tx
    ∧ (txnCtx (setErrs tx n v) tx).tt = (txnCtx v tx).tt ∧ (txnCtx (setErrs tx n v) tx).mps = (txnCtx v tx).mps := by
  have hc : ctx? (setErrs tx n v) tx.num tx.ep tx.dirIn = (ctx? v tx.num tx.ep tx.dirIn).map fun c => { c with errcnt := BitVec.ofNat 8 n } :=
    (setErrs_ctx hw n v _).trans (if_pos rfl)
  unfold txnGen txnCtx
  rw [hc]
  cases ctx? v tx.num tx.ep tx.dirIn <;> exact ⟨rfl, rfl, rfl⟩

/-- What counting the error leaves. -/
theorem countErr_does (hv : Within s v p e t tx q) (hw : tx.work = .item i) (hi : item? v i = some x) (hs : x.status = none)
    (ho : x.stopAs = none) (hn : i < v.front.nextItem) : Within s (countErr tx v) p e t tx q ∧ item? (countErr tx v) i = some (triedItem v tx x)
      ∧ (∀ j, j ≠ i → j < v.front.nextItem → item? (countErr tx v) j = item? v j)
      ∧ ((txnCtx v tx).tt = none → OtherItems i v (countErr tx v)) ∧ (countErr tx v).tb = v.tb := by
  unfold countErr triedItem
  rw [hw]
  simp only [Machine.workItem]
  split
  · refine ⟨within_item hv _ _, by rw [item_modItem, if_pos rfl, hi]; rfl, fun j hj _ => by rw [item_modItem, if_neg hj],
      fun _ j hj => by rw [item_modItem, if_neg hj], modItem_keeps (bl := .tb) i _ (Keeps.refl .tb v) (by decide)⟩
  · unfold countNow countTransfer
    rw [hw]
    dsimp only
    rw [hi]
    dsimp only
    obtain ⟨hErrs, hItems⟩ := setErrs_does hv hw (x.errs + 1)
    obtain ⟨hGen, hTt, -⟩ := setErrs_txnCtx hw (x.errs + 1) v
    have hItem : item? (setErrs tx (x.errs + 1) v) i = some { x with errs := x.errs + 1 } := by rw [hItems, if_pos rfl, hi]; rfl
    have hNext : (setErrs tx (x.errs + 1) v).front.nextItem = v.front.nextItem := by rw [setErrs_front hw, nextItem_modItem]
    have hTb := setErrs_tb tx (x.errs + 1) v
    rw [hGen]
    unfold struck
    generalize setErrs tx (x.errs + 1) v = w at *
    split
    · have hDecide : decide_ tx stXactErr w = setItem w i (decided stXactErr { x with errs := x.errs + 1 }) := by
        unfold decide_
        rw [hw]
        exact decideItem_open hItem hs ho _
      rw [hDecide]
      have hPosts := clearTtOf_posts tx (setItem w i (decided stXactErr { x with errs := x.errs + 1 }))
      have hOther : ∀ j, j ≠ i → item? (setItem w i (decided stXactErr { x with errs := x.errs + 1 })) j = item? v j := fun j hj => by
        rw [item_setItem, if_neg hj, hItems, if_neg hj]
      refine ⟨within_posts (within_of (w := setItem w i (decided stXactErr { x with errs := x.errs + 1 })) hErrs (fun _ => rfl) rfl) hPosts, ?_, fun j hj hlt => ?_, fun hNone j hj => ?_, hPosts.tb.trans hTb⟩
      · rw [hPosts.items i (by rw [← hNext] at hn; exact hn), item_setItem, if_pos rfl]
      · rw [hPosts.items j (by rw [← hNext] at hlt; exact hlt), hOther j hj]
      · unfold clearTtOf
        rw [show (txnCtx (setItem w i _) tx).tt = none from hTt.trans hNone]
        exact hOther j hj
    · exact ⟨hErrs, hItem, fun j hj _ => by rw [hItems, if_neg hj], fun _ j hj => by rw [hItems, if_neg hj], hTb⟩

/-- An attempt without progress, with result `code`: it ends the transaction and counts against the transfer. -/
theorem Awaits.failed (ha : Awaits s p e t m o tx i x) (hn : i < s.front.nextItem) {code b14 : Nat} {u : State}
    (hv : Within s v p e t tx q) (hItems : ∀ j, item? v j = item? s j) (hNext : v.front.nextItem = s.front.nextItem) (hTb : v.tb = s.tb)
    (hSame : triedItem v tx x = triedItem s tx x ∧ (txnCtx v tx).tt = (txnCtx s tx).tt)
    (hk : tx.kind ≠ .splitDone ∨ (code ≠ 3 ∧ code ≠ 4)) (hu : u = failedTry p code b14 v) :
    (Ended p e code t m o s u ∧ item? u i = some (triedItem s tx x)) ∧ (∀ j, j ≠ i → j < s.front.nextItem → item? u j = item? s j)
      ∧ ((txnCtx s tx).tt = none → OtherItems i s u) ∧ port u p = { q with txn := none } := by
  obtain ⟨-, -, -, -, -, hw, hi, hs, ho, -⟩ := id ha
  obtain ⟨hCounted, hItem, hOlder, hOthers, hCountTb⟩ := countErr_does hv hw ((hItems i).trans hi) hs ho (by rw [hNext]; exact hn)
  have hStop : (triedItem v tx x).stopAs = none := by
    unfold triedItem struck decided
    split
    · exact ho
    · split
      · rfl
      · exact ho
  obtain ⟨hEnded, hEndItems, -, -, hPort⟩ := ha.goes_on hCounted hItem hStop (now_of_tb (hCountTb.trans hTb)) code b14 (txnSeq (countErr tx v) tx).toNat
  have hFailed : failedTry p code b14 v = goOnSeq p tx code b14 (txnSeq (countErr tx v) tx).toNat (countErr tx v) := by
    obtain ⟨⟨hvp, ht, -⟩, -⟩ := hv
    unfold failedTry
    rw [hvp, ht]
    dsimp only
    rw [hw]
    have hSplit : (tx.kind == .splitDone && (code = 3 || code = 4)) = false := by
      rcases hk with hk | ⟨h3, h4⟩
      · simp [hk]
      · simp [h3, h4]
    rw [hSplit]
    rfl
  rw [hu, hFailed]
  refine ⟨⟨hEnded, by rw [hEndItems, hItem, hSame.1]⟩, fun j hj hlt => ?_, fun hNone j hj => ?_, hPort⟩
  · rw [hEndItems, hOlder j hj (by rw [hNext]; exact hlt), hItems]
  · rw [hEndItems, hOthers (hSame.2.trans hNone) j hj, hItems]

/-! ### The answers -/

/-- What an attempt without progress leaves: one error counted. -/
def Strikes (s : State) (p e code : Nat) (t : Thread) (m : Byte) (o : BitVec 14) (tx : Txn) (i : Nat) (x : Item) (u : State) : Prop :=
  (Ended p e code t m o s u ∧ item? u i = some (triedItem s tx x)) ∧ (∀ j, j ≠ i → j < s.front.nextItem → item? u j = item? s j)
    ∧ ((txnCtx s tx).tt = none → OtherItems i s u)

theorem Awaits.strikes (ha : Awaits s p e t m o tx i x) (hn : i < s.front.nextItem) (code b14 : Nat)
    (hk : tx.kind ≠ .splitDone ∨ (code ≠ 3 ∧ code ≠ 4)) : Strikes s p e code t m o tx i x (failedTry p code b14 s) := by
  obtain ⟨hEnded, hOlder, hOthers, -⟩ := ha.failed hn ha.within (fun _ => rfl) rfl rfl ⟨rfl, rfl⟩ hk (b14 := b14) rfl
  exact ⟨hEnded, hOlder, hOthers⟩

theorem Awaits.laneUp (ha : Awaits s p e t m o tx i x) : Machine.laneUp s p = true := ha.1

/-- A bulk transaction is neither a setup, a split nor a poll. -/
def IsBulk (k : TxnKind) : Prop := k = .bulkIn ∨ k = .bulkOut

theorem IsBulk.notSetup (hk : IsBulk tx.kind) (s : State) : isSetup s tx = false ∧ (tx.kind == .splitStart) = false ∧ (tx.kind == .poll) = false
    ∧ tx.kind ≠ .splitDone := by
  unfold isSetup
  rcases hk with hk | hk <;> · rw [hk]; exact ⟨rfl, rfl, rfl, TxnKind.noConfusion⟩

variable {P : PortId}

theorem nak_ends (ha : Awaits s P.val e t m o tx i x) (hf : fromPartner s tx h = true) (hk : IsBulk tx.kind) :
    ∃ u, exec (.nak P h) s = .next u ∧ (Ended P.val e 1 t m o s u
        ∧ item? u i = some { x with errs := 0, visitOver := true, doneAt := none, nyet := false }) ∧ OtherItems i s u ∧ u.out = s.out := by
  obtain ⟨hSetup, hStart, hPoll, -⟩ := hk.notSetup s
  obtain ⟨-, -, -, -, -, hw, hi, -, ho, -⟩ := id ha
  obtain ⟨v, hv⟩ : ∃ v, v = modItem i (fun x => { x with visitOver := true }) (splitOver tx (setErrs tx 0 s)) := ⟨_, rfl⟩
  have hRun : exec (.nak P h) s = .next (goOn P.val tx 1 0 v) := by
    refine (runs_of_guard (o := execNak P h s) (s := s) rfl ha.laneUp).trans (congrArg _ ((ha.takes hf _).trans ?_))
    rw [hSetup, hStart, if_neg (by decide), hPoll, hw, hv]
    rfl
  obtain ⟨hErrs, hItems⟩ := setErrs_does ha.within hw 0
  have hSplit : splitOver tx (setErrs tx 0 s) = modItem i (fun x => { x with doneAt := none, nyet := false }) (setErrs tx 0 s) := by
    unfold splitOver
    rw [hw]
  rw [hSplit] at hv
  have hvi : ∀ j, item? v j = if j = i then some { x with errs := 0, visitOver := true, doneAt := none, nyet := false } else item? s j := fun j => by
    rw [hv]
    simp only [item_modItem, hItems, if_true, hi]
    split <;> rfl
  have hvt : v.tb = s.tb := by
    rw [hv]
    exact modItem_keeps (bl := .tb) _ _ (modItem_keeps (bl := .tb) _ _ (setErrs_keeps (bl := .tb) tx 0 (Keeps.refl .tb s) (by decide)) (by decide)) (by decide)
  have hvo : v.out = s.out := by
    rw [hv, out_of_modItem, out_of_modItem]
    exact setErrs_keeps (bl := .out) tx 0 (Keeps.refl .out s) (by decide)
  obtain ⟨hEnded, hEndItems, -, hOut, -⟩ := ha.goes_on (v := v) (q := port s P.val) (by rw [hv]; exact within_item (within_item hErrs _ _) _ _)
    ((hvi i).trans (if_pos rfl)) ho (now_of_tb hvt) 1 0 (txnSeq v tx).toNat
  exact ⟨_, hRun, ⟨hEnded, (hEndItems i).trans ((hvi i).trans (if_pos rfl))⟩, fun j hj => (hEndItems j).trans ((hvi j).trans (if_neg hj)),
    hOut.trans hvo⟩

theorem decide_open (hw : tx.work = .item i) (hi : item? s i = some x) (hs : x.status = none) (ho : x.stopAs = none) (st : Byte) :
    decide_ tx st s = setItem s i (decided st x) := by
  unfold decide_
  rw [hw]
  exact decideItem_open hi hs ho st

/-- The transaction ends with a status for its transfer. -/
theorem Awaits.decides (ha : Awaits s p e t m o tx i x) (st : Byte) (code b14 : Nat) {u : State} (hu : u = goOn p tx code b14 (decide_ tx st s)) :
    (Ended p e code t m o s u ∧ item? u i = some (decided st x)) ∧ OtherItems i s u := by
  obtain ⟨-, -, -, -, -, hw, hi, hs, ho, -⟩ := id ha
  rw [decide_open hw hi hs ho] at hu
  obtain ⟨hEnded, hEndItems, -, -, -⟩ := ha.goes_on (within_of (w := setItem s i (decided st x)) ha.within (fun _ => rfl) rfl)
    ((item_setItem _ _ _ _).trans (if_pos rfl)) rfl rfl code b14 (txnSeq (setItem s i (decided st x)) tx).toNat
  rw [hu]
  exact ⟨⟨hEnded, (hEndItems i).trans ((item_setItem _ _ _ _).trans (if_pos rfl))⟩,
    fun j hj => (hEndItems j).trans ((item_setItem _ _ _ _).trans (if_neg hj))⟩

theorem exec_err (ha : Awaits s P.val e t m o tx i x) (hf : fromPartner s tx h = true) (hc : 1 ≤ h.tspec.toNat ∧ h.tspec.toNat < 7) :
    exec (.err P h) s = .next (if h.tspec.toNat = 5 then goOn P.val tx 4 h.tspec.toNat (decide_ tx stBabble s)
      else if h.tspec.toNat = 1 then goOn P.val tx 4 h.tspec.toNat (decide_ tx stXactErr s)
      else if tx.dirIn && 0 < tx.stored then endBurst P.val 4 s else failedTry P.val 4 h.tspec.toNat s) := by
  refine (runs_of_guard (o := execErr P h s) (s := s) rfl ha.laneUp).trans (congrArg _ ((ha.takes hf _).trans ?_))
  dsimp only
  rw [if_neg (by simp; omega), ha.notPeriodic s]
  rfl

theorem err_ends (ha : Awaits s P.val e t m o tx i x) (hn : i < s.front.nextItem) (hf : fromPartner s tx h = true) (hk : IsBulk tx.kind) :
    (h.tspec = 1 → ∃ u, exec (.err P h) s = .next u ∧ (Ended P.val e 4 t m o s u ∧ item? u i = some (decided stXactErr x)) ∧ OtherItems i s u)
    ∧ (h.tspec = 5 → ∃ u, exec (.err P h) s = .next u ∧ (Ended P.val e 4 t m o s u ∧ item? u i = some (decided stBabble x)) ∧ OtherItems i s u)
    ∧ (h.tspec.toNat ∈ [2, 3, 4, 6] → tx.dirIn = false ∨ tx.stored = 0 →
        ∃ u, exec (.err P h) s = .next u ∧ Strikes s P.val e 4 t m o tx i x u) := by
  refine ⟨fun hc => ?_, fun hc => ?_, fun hc hOut => ?_⟩
  · have hRun := exec_err ha hf (by rw [hc]; decide)
    rw [hc] at hRun
    exact ⟨_, hRun, ha.decides stXactErr 4 _ rfl⟩
  · have hRun := exec_err ha hf (by rw [hc]; decide)
    rw [hc] at hRun
    exact ⟨_, hRun, ha.decides stBabble 4 _ rfl⟩
  · simp only [List.mem_cons, List.not_mem_nil, or_false] at hc
    have hRun := exec_err ha hf (by omega)
    rw [if_neg (by omega), if_neg (by omega), if_neg (by rcases hOut with hOut | hOut <;> simp [hOut])] at hRun
    exact ⟨_, hRun, ha.strikes hn 4 _ (.inl (hk.notSetup s).2.2.2)⟩

theorem nyet_ends (ha : Awaits s P.val e t m o tx i x) (hf : fromPartner s tx h = true) (hk : tx.kind = .splitDone)
    (hg : serdes (port s P.val).gen = true) (hNew : x.nyet = false) : ∃ u, exec (.nyet P h) s = .next u
      ∧ (Ended P.val e 3 t m o s u ∧ item? u i = some { x with nyet := true, doneAt := some (unitAhead s (txnGen s tx) 1) })
      ∧ OtherItems i s u := by
  obtain ⟨-, -, -, -, -, hw, hi, -, ho, -⟩ := id ha
  obtain ⟨v, hv⟩ : ∃ v, v = modItem i (fun x => { x with nyet := true, doneAt := some (unitAhead s (txnGen s tx) 1) }) s := ⟨_, rfl⟩
  have hRun : exec (.nyet P h) s = .next (goOn P.val tx 3 0 v) := by
    refine (runs_of_guard (o := execNyet P h s) (s := s) rfl ha.laneUp).trans (congrArg _ ((if_pos hg).trans ((ha.takes hf _).trans ?_)))
    rw [hk, if_neg (by decide), ha.itsItem s]
    dsimp only
    rw [hi]
    dsimp only
    refine (if_neg (by rw [hNew]; decide)).trans ?_
    rw [hw, hv]
  have hvi : ∀ j, item? v j = if j = i then some { x with nyet := true, doneAt := some (unitAhead s (txnGen s tx) 1) } else item? s j := fun j => by
    rw [hv, item_modItem, hi]
    rfl
  have hvt : v.tb = s.tb := by rw [hv]; exact modItem_keeps (bl := .tb) _ _ (Keeps.refl .tb s) (by decide)
  obtain ⟨hEnded, hEndItems, -, -, -⟩ := ha.goes_on (v := v) (q := port s P.val) (by rw [hv]; exact within_item ha.within _ _)
    ((hvi i).trans (if_pos rfl)) ho (now_of_tb hvt) 3 0 (txnSeq v tx).toNat
  exact ⟨_, hRun, ⟨hEnded, (hEndItems i).trans ((hvi i).trans (if_pos rfl))⟩, fun j hj => (hEndItems j).trans ((hvi j).trans (if_neg hj))⟩

/-! ### No answer in time, and bad packets -/

/-- The attempt fails once the port has noted it. -/
theorem Awaits.strikes_noted (ha : Awaits s p e t m o tx i x) (hn : i < s.front.nextItem) {code b14 : Nat} {g : Port → Port}
    (hg : g (port s p) = q) (hq : q.txn = (port s p).txn ∧ q.resetDue = (port s p).resetDue ∧ q.enumQueue = (port s p).enumQueue
      ∧ q.lane = (port s p).lane) (hk : tx.kind ≠ .splitDone ∨ (code ≠ 3 ∧ code ≠ 4)) {u : State}
    (hu : u = failedTry p code b14 (modPort p g s)) : Strikes s p e code t m o tx i x u ∧ port u p = { q with txn := none } := by
  obtain ⟨⟨-, ht, hReset, hEnum, hLane⟩, -, hRun, hParked⟩ := ha.within
  obtain ⟨hqt, hqr, hqe, hql⟩ := hq
  have hv : Within s (modPort p g s) p e t tx q :=
    ⟨⟨by rw [port_modPort, if_pos rfl, hg], hqt.trans ht, hqr.trans hReset, hqe.trans hEnum, hql.trans hLane⟩,
      fun k hk => by rw [port_modPort, if_neg hk], hRun, hParked⟩
  obtain ⟨hEnded, hOlder, hOthers, hPort⟩ := ha.failed hn hv (fun _ => rfl) rfl rfl ⟨rfl, rfl⟩ hk hu
  exact ⟨⟨hEnded, hOlder, hOthers⟩, hPort⟩

theorem Awaits.awaited (ha : Awaits s p e t m o tx i x) : awaiting s p = some tx := by
  obtain ⟨-, ht, hWaiting, hDue, -⟩ := ha
  unfold awaiting
  rw [ht]
  simp [hWaiting, hDue]

theorem timeout_ends (ha : Awaits s P.val e t m o tx i x) (hn : i < s.front.nextItem) (hr : tx.receiving = false) (driven : Bool) :
    ∃ u, exec (.responseTimeout P driven) s = .next u ∧ Strikes s P.val e 6 t m o tx i x u
      ∧ (port u P.val).driven = (driven && !serdes (port s P.val).gen)
      ∧ (port u P.val).timeouts = (if (port s P.val).timeouts = 0xFFFF then 0xFFFF else (port s P.val).timeouts + 1) := by
  have hRun : exec (.responseTimeout P driven) s = .next (failedTry P.val 6 0 (modPort P.val (fun x => { x with
      driven := driven && !serdes (port s P.val).gen, timeouts := if x.timeouts = 0xFFFF then x.timeouts else x.timeouts + 1 }) s)) := by
    refine (runs_of_guard (o := execResponseTimeout P driven s) (s := s) rfl ha.laneUp).trans (congrArg _ ?_)
    dsimp only
    rw [ha.awaited]
    dsimp only
    rw [hr]
    rfl
  obtain ⟨hStrikes, hPort⟩ := ha.strikes_noted hn (code := 6) (b14 := 0) (u := failedTry P.val 6 0 (modPort P.val _ s)) (g := fun x => { x with
      driven := driven && !serdes (port s P.val).gen, timeouts := if x.timeouts = 0xFFFF then x.timeouts else x.timeouts + 1 })
    rfl ⟨rfl, rfl, rfl, rfl⟩ (.inr ⟨by decide, by decide⟩) rfl
  refine ⟨_, hRun, hStrikes, by rw [hPort], ?_⟩
  rw [hPort]
  dsimp only
  split
  · next h => exact h
  · rfl

theorem discarded_ends (ha : Awaits s P.val e t m o tx i x) (hn : i < s.front.nextItem) (hd : tx.dirIn = false) :
    ∃ u, exec (.discardedPacket P) s = .next u ∧ Strikes s P.val e 7 t m o tx i x u
      ∧ (port u P.val).check = (if (port s P.val).check = 0xFFFF then 0xFFFF else (port s P.val).check + 1) := by
  have hRun : exec (.discardedPacket P) s = .next (failedTry P.val 7 0 (countCheck P.val s)) := by
    refine (runs_of_guard (o := execDiscardedPacket P s) (s := s) rfl ha.laneUp).trans (congrArg _ ?_)
    obtain ⟨-, ht, hWaiting, hDue, -⟩ := id ha
    have hTxn : (port (countCheck P.val s) P.val).txn = some tx := by
      unfold countCheck
      rw [port_modPort, if_pos rfl]
      exact ht
    unfold badPacket
    rw [hTxn]
    simp [hWaiting, hDue, hd]
  obtain ⟨hStrikes, hPort⟩ := ha.strikes_noted hn (code := 7) (b14 := 0) (u := failedTry P.val 7 0 (countCheck P.val s))
    (g := fun x => { x with check := if x.check = 0xFFFF then x.check else x.check + 1 })
    rfl ⟨rfl, rfl, rfl, rfl⟩ (.inr ⟨by decide, by decide⟩) rfl
  refine ⟨_, hRun, hStrikes, ?_⟩
  rw [hPort]
  dsimp only
  split
  · next h => exact h
  · rfl

/-! ### STALL (R78) -/

/-- What marking an endpoint halted keeps of the transaction, and of a transfer whose status is STALL already. -/
def StillStalled (i : Nat) (v : State) : Prop := ∃ y, item? v i = some y ∧ y.status = some stStall ∧ isOwn y = false ∧ y.stopAs = none

/-- The endpoint's context says halted. -/
def CtxHalted (k : Nat) (v : State) : Prop := ∃ d, tfind v.topo.ctx k = some d ∧ d.halted = true

theorem finish_stalled (j : Nat) (hi : StillStalled i v) : StillStalled i (finish j stStall v) := by
  obtain ⟨y, hy, hs, ho, hStop⟩ := hi
  cases hj : item? v j with
  | none =>
    have hSame : finish j stStall v = v := by
      unfold finish
      rw [hj]
    rw [hSame]
    exact ⟨y, hy, hs, ho, hStop⟩
  | some z =>
    rw [finish_eq j stStall hj]
    split
    · exact ⟨y, hy, hs, ho, hStop⟩
    · by_cases hji : i = j
      · subst hji
        cases hj.symm.trans hy
        rw [ho, if_neg (by decide)]
        exact ⟨_, (item_setItem _ _ _ _).trans (if_pos rfl), rfl, ho, rfl⟩
      · have hOther : item? (clearedIn j stStall z v) i = item? v i := item_clearedIn j stStall z v hji
        split
        · rw [StillStalled, item_delItem, if_neg hji, item_flowOut, hOther]
          exact ⟨y, hy, hs, ho, hStop⟩
        · rw [StillStalled, hOther]
          exact ⟨y, hy, hs, ho, hStop⟩

theorem flowOut_halted (f : Option Flow) {k : Nat} (hc : CtxHalted k v) : CtxHalted k (flowOut f v) := by
  obtain ⟨d, hd, hh⟩ := hc
  unfold flowOut
  split
  · unfold CtxHalted
    rw [tfind_modCtx_all]
    split
    · next hk => rw [← hk, hd]; exact ⟨_, rfl, hh⟩
    · exact ⟨d, hd, hh⟩
  · exact ⟨d, hd, hh⟩

theorem clearedIn_topo (j : Nat) (st : Byte) (z : Item) (v : State) : (clearedIn j st z v).topo = v.topo := by
  unfold clearedIn
  split
  · exact dropStaged_keeps (bl := .topo) j (Keeps.refl .topo _) (by decide)
  · rfl

theorem finish_halted (j : Nat) {k : Nat} (hc : CtxHalted k v) : CtxHalted k (finish j stStall v) := by
  cases hj : item? v j with
  | none =>
    unfold finish
    rw [hj]
    exact hc
  | some z =>
    have hCleared : CtxHalted k (clearedIn j stStall z v) := by
      unfold CtxHalted
      rw [clearedIn_topo]
      exact hc
    rw [finish_eq j stStall hj]
    split
    · exact hc
    · split
      · exact flowOut_halted z.flow hCleared
      · exact hCleared

theorem finish_within (j : Nat) (st : Byte) (hv : Within s v p e t tx q) : Within s (finish j st v) p e t tx q := by
  obtain ⟨_, _, _, _, _, hEnds⟩ := finish_ends j st v
  rw [hEnds]
  exact within_of hv (fun _ => rfl) rfl

theorem finish_now (j : Nat) (st : Byte) (v : State) : now (finish j st v) = now v := by
  obtain ⟨_, _, _, _, _, hEnds⟩ := finish_ends j st v
  rw [hEnds]
  rfl

/-- The mark itself: the context and the reservations; the endpoint's waiting transfers then end. -/
theorem markHalted_marks {num ep : Nat} (dirIn : Bool) (hn : ep ≠ 0) (v : State) : ∃ w l, markHalted num ep dirIn v = each l (finish · stStall) w
    ∧ w.front = v.front ∧ w.tb = v.tb ∧ w.topo = (modCtx (ctxKey num ep dirIn) (fun c => { c with halted := true }) v).topo
    ∧ ∀ s p e t tx q, Within s v p e t tx q → Within s w p e t tx q := by
  obtain ⟨a, ha⟩ : ∃ a, a = modCtx (ctxKey num ep dirIn) (fun c => { c with halted := true }) v := ⟨_, rfl⟩
  obtain ⟨b, hb⟩ : ∃ b, b = each (epReservations a num ep dirIn) (fun r v => idleAfter r (modPstate r (fun x => { x with halted := true }) v)) a := ⟨_, rfl⟩
  have hSch : ∀ bl, bl ∉ [Block.sch] → Keeps bl a b := fun bl hbl => by
    rw [hb]
    exact each_keeps _ _ (fun r _ h => idleAfter_keeps r (modPstate_keeps r _ h hbl) hbl) (Keeps.refl bl a)
  have hTopo : b.topo = a.topo := hSch .topo (by decide)
  have hFront : b.front = a.front := hSch .front (by decide)
  have hTb : b.tb = a.tb := hSch .tb (by decide)
  have hEng : b.eng = a.eng := hSch .eng (by decide)
  refine ⟨refreshWin (ctxKey num ep dirIn) b, itemsWhere (refreshWin (ctxKey num ep dirIn) b) fun x => x.status.isNone && x.posted.isNone
      && x.slot == .work && eHandle x.raw == handleWord a num && eEp x.raw == ep && eDirIn x.raw == dirIn && x.granted.isNone, ?_, ?_, ?_, ?_,
    fun s p e t tx q hv => within_refresh ?_ _⟩
  · unfold markHalted
    rw [if_neg hn, hb, ha]
  · exact hFront.trans (by rw [ha]; exact (modCtx_rest _ _ _).2.1)
  · exact hTb.trans (by rw [ha]; exact modCtx_tb _ _ _)
  · exact hTopo.trans (by rw [ha])
  · have hWithin : Within s a p e t tx q := by rw [ha]; exact within_ctx hv _ _
    exact within_of hWithin (fun k => by unfold port; rw [hTopo]) hEng

/-- What marking the endpoint halted leaves of the transaction and its stalled transfer. -/
theorem markHalted_does {num ep : Nat} {dirIn : Bool} (hn : ep ≠ 0) (hv : Within s v p e t tx q) (hi : StillStalled i v) :
    Within s (markHalted num ep dirIn v) p e t tx q ∧ StillStalled i (markHalted num ep dirIn v) ∧ now (markHalted num ep dirIn v) = now v
      ∧ (∀ c, ctx? v num ep dirIn = some c → CtxHalted (ctxKey num ep dirIn) (markHalted num ep dirIn v)) := by
  obtain ⟨w, l, hMark, hFront, hTb, hTopo, hWithin⟩ := markHalted_marks (num := num) dirIn hn v
  rw [hMark]
  refine ⟨?_, ?_, ?_, fun c hc => ?_⟩
  · exact each_preserves (P := fun v => Within s v p e t tx q) l _ (fun j _ v h => finish_within j stStall h) w (hWithin _ _ _ _ _ _ hv)
  · refine each_preserves (P := StillStalled i) l _ (fun j _ v h => finish_stalled j h) w ?_
    obtain ⟨y, hy, hRest⟩ := hi
    exact ⟨y, by unfold item?; rw [hFront]; exact hy, hRest⟩
  · exact (each_unchanged now l _ (fun j _ v => finish_now j stStall v) w).trans (now_of_tb hTb)
  · refine each_preserves (P := CtxHalted (ctxKey num ep dirIn)) l _ (fun j _ v h => finish_halted j h) w ?_
    unfold CtxHalted
    rw [hTopo, tfind_modCtx_all, if_pos rfl, show tfind v.topo.ctx _ = some c from hc]
    exact ⟨_, rfl, rfl⟩

theorem stall_ends (ha : Awaits s P.val e t m o tx i x) (hf : fromPartner s tx h = true) (hk : IsBulk tx.kind) (ho : isOwn x = false ∨ tx.ep = 0) :
    ∃ u, exec (.stall P h) s = .next u ∧ Ended P.val e 2 t m o s u ∧ (∃ y, item? u i = some y ∧ y.status = some stStall)
      ∧ (tx.ep ≠ 0 → ∀ c, ctx? s tx.num tx.ep tx.dirIn = some c → ∃ d, ctx? u tx.num tx.ep tx.dirIn = some d ∧ d.halted = true) := by
  obtain ⟨hSetup, hStart, -, -⟩ := hk.notSetup s
  obtain ⟨-, -, -, -, -, hw, hi, hs, hStop, -⟩ := id ha
  obtain ⟨v, hv⟩ : ∃ v, v = splitOver tx (decide_ tx stStall s) := ⟨_, rfl⟩
  have hRun : exec (.stall P h) s = .next (goOn P.val tx 2 0 (markHalted tx.num tx.ep tx.dirIn v)) := by
    refine (runs_of_guard (o := execStall P h s) (s := s) rfl ha.laneUp).trans (congrArg _ ((ha.takes hf _).trans ?_))
    rw [hSetup, hStart, if_neg (by decide), hv]
  have hSplit : v = modItem i (fun x => { x with doneAt := none, nyet := false }) (setItem s i (decided stStall x)) := by
    rw [hv, decide_open hw hi hs hStop]
    unfold splitOver
    rw [hw]
  have hWithin : Within s v P.val e t tx (port s P.val) := by
    rw [hSplit]
    exact within_item (within_of (w := setItem s i (decided stStall x)) ha.within (fun _ => rfl) rfl) _ _
  have hItem : item? v i = some { decided stStall x with doneAt := none, nyet := false } := by
    rw [hSplit, item_modItem, if_pos rfl, item_setItem, if_pos rfl]
    rfl
  have hNow : now v = now s := by
    rw [hSplit]
    exact now_of_tb (modItem_keeps (bl := .tb) _ _ (Keeps.refl .tb (setItem s i (decided stStall x))) (by decide))
  have hCtx : v.topo = s.topo := by
    rw [hSplit, topo_of_modItem]
    rfl
  rcases Nat.eq_zero_or_pos tx.ep with hz | hpos
  · have hNone : markHalted tx.num tx.ep tx.dirIn v = v := if_pos hz
    rw [hNone] at hRun
    obtain ⟨hEnded, hEndItems, -, -, -⟩ := ha.goes_on hWithin hItem rfl hNow 2 0 (txnSeq v tx).toNat
    exact ⟨_, hRun, hEnded, ⟨_, (hEndItems i).trans hItem, rfl⟩, fun hn => absurd hz hn⟩
  · obtain ⟨hMarked, ⟨y, hy, hStatus, -, hy'⟩, hMarkNow, hHalted⟩ := markHalted_does (num := tx.num) (dirIn := tx.dirIn) (Nat.ne_of_gt hpos) hWithin
      ⟨_, hItem, rfl, ho.resolve_right (Nat.ne_of_gt hpos), rfl⟩
    obtain ⟨hEnded, hEndItems, hEndCtx, -, -⟩ := ha.goes_on hMarked hy hy' (hMarkNow.trans hNow) 2 0
      (txnSeq (markHalted tx.num tx.ep tx.dirIn v) tx).toNat
    refine ⟨_, hRun, hEnded, ⟨y, (hEndItems i).trans hy, hStatus⟩, fun _ c hc => ?_⟩
    obtain ⟨d, hd, hh⟩ := hHalted c (by unfold ctx?; rw [hCtx]; exact hc)
    exact ⟨d, by unfold ctx?; rw [show (goOn P.val tx 2 0 _).topo.ctx = _ from hEndCtx]; exact hd, hh⟩

/-! ### ACK (R66) -/

/-- The context with the host's sequence of the transaction's direction set. -/
def seqSet (tx : Txn) (a : BitVec 5) (c : Ctx) : Ctx := if tx.ep = 0 && !tx.dirIn then { c with seqOut := a } else { c with seq := a }

theorem setTxnSeq_ctx (hw : tx.work = .item i) (a : BitVec 5) (v : State) : ctx? (setTxnSeq tx a v) tx.num tx.ep tx.dirIn
    = (ctx? v tx.num tx.ep tx.dirIn).map (seqSet tx a) := by
  unfold setTxnSeq seqSet
  rw [hw]
  dsimp only
  split
  · exact (tfind_modCtx_all _ _ _ _).trans (if_pos rfl)
  · exact (tfind_modCtx_all _ _ _ _).trans (if_pos rfl)

/-- The transfer behind an ACK of `n` packets. -/
def ackedBy (s : State) (tx : Txn) (n : Nat) (x : Item) : Item :=
  { x with errs := 0, moved := x.moved + outBytes s tx x n, visit := x.visit + n }

theorem outBytes_of (hm : (txnCtx v tx).mps = (txnCtx s tx).mps) (x : Item) (n : Nat) : outBytes v tx x n = outBytes s tx x n := by
  unfold outBytes
  rw [hm]

/-- The transaction's context once its sequence and its error count are set. -/
theorem seqThenErrs_ctx (hw : tx.work = .item i) (a : BitVec 5) (v : State) :
    ctx? (setErrs tx 0 (setTxnSeq tx a v)) tx.num tx.ep tx.dirIn
      = (ctx? v tx.num tx.ep tx.dirIn).map fun c => { seqSet tx a c with errcnt := 0 } := by
  refine (setErrs_ctx hw 0 _ _).trans ((if_pos rfl).trans ?_)
  rw [show tfind (setTxnSeq tx a v).topo.ctx _ = _ from setTxnSeq_ctx hw a v, Option.map_map]
  rfl

theorem outProgress_eq (ha : Awaits s p e t m o tx i x) (n : Nat) (a : BitVec 5) : outProgress tx i n x a s
    = if itemLen x ≤ x.moved + outBytes s tx x n then
        decideItem i stSuccess (modItem i (fun y => { y with moved := y.moved + outBytes s tx x n, visit := y.visit + n })
          (setErrs tx 0 (setTxnSeq tx a s)))
      else modItem i (fun y => { y with moved := y.moved + outBytes s tx x n, visit := y.visit + n }) (setErrs tx 0 (setTxnSeq tx a s)) := by
  obtain ⟨-, -, -, -, -, hw, -, -, -, hc, -⟩ := ha
  have hMps : (txnCtx (setErrs tx 0 (setTxnSeq tx a s)) tx).mps = (txnCtx s tx).mps := by
    unfold txnCtx
    rw [seqThenErrs_ctx hw]
    cases ctx? s tx.num tx.ep tx.dirIn with
    | none => rfl
    | some c =>
      show (seqSet tx a c).mps = c.mps
      unfold seqSet
      split <;> rfl
  unfold outProgress
  dsimp only
  rw [hc, outBytes_of hMps]
  by_cases hLast : itemLen x ≤ x.moved + outBytes s tx x n
  · rw [if_pos hLast, if_neg (by simp), if_neg (by omega), if_neg (by decide)]
  · rw [if_neg hLast, if_neg (by simp), if_pos (by omega)]

theorem ack_ends (ha : Awaits s P.val e t m o tx i x) (hf : fromPartner s tx h = true) (hk : tx.kind = .bulkOut) {n : Nat}
    (hn : seqDist (txnGen s tx) tx.seq0 h.seq = n) (h1 : 1 ≤ n) (h2 : n ≤ tx.sent) : ∃ u, exec (.ack P h) s = .next u
      ∧ OtherItems i s u ∧ u.out = s.out
      ∧ (Ended P.val e 0 t m o s u ∧ item? u i
        = some (if itemLen x ≤ (ackedBy s tx n x).moved then decided stSuccess (ackedBy s tx n x) else ackedBy s tx n x))
      ∧ (tx.ep ≠ 0 → ∀ c, ctx? s tx.num tx.ep tx.dirIn = some c →
          ∃ d, ctx? u tx.num tx.ep tx.dirIn = some d ∧ d.seq = h.seq ∧ d.errcnt = 0) := by
  obtain ⟨-, -, -, -, -, hw, hi, hs, hStop, -⟩ := id ha
  have hRun : exec (.ack P h) s = .next (goOnSeq P.val tx 0 0 h.seq.toNat (outProgress tx i n x h.seq s)) := by
    refine (runs_of_guard (o := execAck P h s) (s := s) rfl ha.laneUp).trans (congrArg _ ((ha.takes hf _).trans ?_))
    dsimp only
    rw [hk, hw]
    dsimp only
    rw [hn, if_pos (by simp [h1, h2]), hi]
  rw [outProgress_eq ha] at hRun
  obtain ⟨hSeq, hSeqItems⟩ := setTxnSeq_does ha.within hw h.seq
  obtain ⟨hErrs, hErrItems⟩ := setErrs_does hSeq hw 0
  obtain ⟨v, hv⟩ : ∃ v, v = modItem i (fun y => { y with moved := y.moved + outBytes s tx x n, visit := y.visit + n })
    (setErrs tx 0 (setTxnSeq tx h.seq s)) := ⟨_, rfl⟩
  have hWithin : Within s v P.val e t tx (port s P.val) := by rw [hv]; exact within_item hErrs _ _
  have hvi : ∀ j, item? v j = if j = i then some (ackedBy s tx n x) else item? s j := fun j => by
    rw [hv]
    simp only [item_modItem, hErrItems, hSeqItems, if_true, hi]
    split <;> rfl
  have hvt : v.tb = s.tb := by
    rw [hv]
    exact modItem_keeps (bl := .tb) _ _ (setErrs_keeps (bl := .tb) tx 0 (setTxnSeq_keeps (bl := .tb) tx h.seq (Keeps.refl .tb s) (by decide))
      (by decide)) (by decide)
  have hvo : v.out = s.out := by
    rw [hv]
    exact modItem_keeps (bl := .out) _ _ (setErrs_keeps (bl := .out) tx 0 (setTxnSeq_keeps (bl := .out) tx h.seq (Keeps.refl .out s) (by decide))
      (by decide)) (by decide)
  have hvc : ctx? v tx.num tx.ep tx.dirIn = (ctx? s tx.num tx.ep tx.dirIn).map fun c => { seqSet tx h.seq c with errcnt := 0 } := by
    rw [← seqThenErrs_ctx hw, hv]
    unfold ctx?
    rw [topo_of_modItem]
  have hEnds : ∀ w y, Within s w P.val e t tx (port s P.val) → (∀ j, item? w j = if j = i then some y else item? s j) → y.stopAs = none →
      w.tb = v.tb → w.out = v.out → w.topo = v.topo → ∀ u, u = goOnSeq P.val tx 0 0 h.seq.toNat w → OtherItems i s u ∧ u.out = s.out
        ∧ (Ended P.val e 0 t m o s u ∧ item? u i = some y) ∧ (tx.ep ≠ 0 → ∀ c, ctx? s tx.num tx.ep tx.dirIn = some c →
          ∃ d, ctx? u tx.num tx.ep tx.dirIn = some d ∧ d.seq = h.seq ∧ d.errcnt = 0) := fun w y hw hwi hy hwt hwo hTopo u hu => by
    obtain ⟨hEnded, hEndItems, hEndCtx, hOut, -⟩ := ha.goes_on hw ((hwi i).trans (if_pos rfl)) hy (now_of_tb (hwt.trans hvt)) 0 0 h.seq.toNat
    rw [hu]
    refine ⟨fun j hj => (hEndItems j).trans ((hwi j).trans (if_neg hj)), hOut.trans (hwo.trans hvo), ⟨hEnded, (hEndItems i).trans ((hwi i).trans (if_pos rfl))⟩,
      fun hEp c hc => ⟨{ seqSet tx h.seq c with errcnt := 0 }, ?_, ?_, rfl⟩⟩
    · rw [hc] at hvc
      unfold ctx?
      rw [hEndCtx, hTopo]
      exact hvc
    · unfold seqSet
      rw [if_neg (by simp [hEp])]
  rw [← hv] at hRun
  by_cases hLast : itemLen x ≤ x.moved + outBytes s tx x n
  · rw [if_pos hLast, decideItem_open ((hvi i).trans (if_pos rfl)) hs hStop] at hRun
    rw [if_pos (show itemLen x ≤ (ackedBy s tx n x).moved from hLast)]
    exact ⟨_, hRun, hEnds (setItem v i (decided stSuccess (ackedBy s tx n x))) _ (within_of hWithin (fun _ => rfl) rfl)
      (fun j => by rw [item_setItem, hvi]; split <;> rfl) rfl rfl rfl rfl _ rfl⟩
  · rw [if_neg hLast] at hRun
    rw [if_neg (show ¬ itemLen x ≤ (ackedBy s tx n x).moved from hLast)]
    exact ⟨_, hRun, hEnds v _ hWithin hvi hStop rfl rfl rfl _ rfl⟩

/-- Settles O31: each answer by what its transfer and its endpoint's context take, and the end of the transaction with its result. -/
theorem wireAnswers : Obligations.WireAnswers := fun _ _ _ _ _ _ _ _ _ _ ha hn =>
  ⟨fun hf hk => ⟨nak_ends ha hf hk, fun ho => stall_ends ha hf hk ho, (err_ends ha hn hf hk).1, (err_ends ha hn hf hk).2.1,
      (err_ends ha hn hf hk).2.2⟩,
    fun hf hk h1 h2 => ack_ends ha hf hk rfl h1 h2, fun hr driven => timeout_ends ha hn hr driven, fun hf hk hg hNew => nyet_ends ha hf hk hg hNew,
    fun hd _ => discarded_ends ha hn hd⟩

end

end Sys2Proof.Machine
end

section
/-! PROOFS. Data packets, burst gaps, the time limit of a control transfer, and frame packets that were held (R52, R62, R63, R70, R82). -/

namespace Sys2Proof.Machine

section
variable {s v : State} {p e i : Nat} {t : Thread} {m : Byte} {o : BitVec 14} {tx u : Txn} {x y : Item} {q : Port} {h : Hdr} {P : PortId}

/-! ### A result that goes to the waiting thread -/

theorem takeResult_told (code b14 b13 n : Nat) (w : List (Nat × Byte)) (v : State) :
    Told e code t m o (setRun e (spend n (takeResult m o code b14 b13 { t with win := w })) v) := by
  refine ⟨_, congrArg Engine.run ((eng_setRun _ _ _ _).trans (if_pos rfl)), ?_⟩
  have hReg : tget 0 (resultRegs code b14 b13 t.b) 15 = BitVec.ofNat 8 code := by
    rw [resultRegs_get, if_neg (by omega), if_neg (by omega), if_pos rfl]
  rw [takeResult_eq]
  split
  · exact ⟨rfl, hReg, rfl, rfl, rfl⟩
  · exact ⟨rfl, hReg, rfl, rfl, rfl⟩

/-- The port's waiting engine has the result. -/
theorem Within.report (hv : Within s v p e t tx q) (hh : p ∈ t.holds) (hw : t.wait = .whs m o ∨ t.wait = .rdat m o) (hPaid : WaitPaid v t)
    (code b14 b13 : Nat) : Told e code t m o (report p (some e) code b14 b13 v)
      ∧ (∀ k, port (Machine.report p (some e) code b14 b13 v) k = port v k)
      ∧ (∀ j, item? (Machine.report p (some e) code b14 b13 v) j = item? v j) ∧ (Machine.report p (some e) code b14 b13 v).out = v.out := by
  obtain ⟨-, -, ⟨w, hr⟩, hp⟩ := hv
  have hPaidNow : WaitPaid v (takeResult m o code b14 b13 { t with win := w }) := by
    obtain ⟨hScript, hAt⟩ := takeResult_same m o code b14 b13 { t with win := w }
    intro r hr
    rw [hScript] at hr
    have hBudget := hPaid r hr
    unfold waitedCycles at hBudget ⊢
    rw [hScript, hAt]
    exact hBudget
  rw [report_waiting hr hp (by simpa using hh) (m := m) (o := o) hw, resumeWait_paid hPaidNow]
  exact ⟨takeResult_told _ _ _ _ _ _, fun _ => rfl, fun _ => rfl, rfl⟩

/-! ### The transaction in progress -/

theorem within_modTxn (hv : Within s v p e t tx q) (g : Txn → Txn) : Within s (modTxn p g v) p e t (g tx) { q with txn := some (g tx) } := by
  obtain ⟨⟨hp, ht, hReset, hEnum, hLane⟩, hOthers, hRun, hParked⟩ := hv
  refine ⟨⟨?_, rfl, hReset, hEnum, hLane⟩, fun k hk => ?_, hRun, hParked⟩
  · rw [port_modTxn, if_pos rfl, hp, ht]
    rfl
  · rw [port_modTxn, if_neg hk, hOthers k hk]

/-- A burst that has brought something ends: ACK falls due, and the engine has result 5. -/
theorem endBurst_due (hv : Within s v p e t tx q) (he : tx.engine = some e) (hw : tx.work = .item i) (hk : tx.kind ≠ .splitDone)
    (hStored : 0 < tx.stored) (hi : item? v i = some x) (hh : p ∈ t.holds) (hWait : t.wait = .whs m o ∨ t.wait = .rdat m o)
    (hPaid : WaitPaid v t) (code : Nat) : Told e 5 t m o (endBurst p code v) ∧ OtherPorts p s (endBurst p code v)
      ∧ (port (endBurst p code v) p).txn = some { tx with ackDue := true, waiting := false }
      ∧ (∀ j, item? (endBurst p code v) j = if j = i then some { x with errs := 0 } else item? v j) ∧ (endBurst p code v).out = v.out := by
  obtain ⟨hErrs, hErrItems⟩ := setErrs_does hv hw 0
  have hDue := within_modTxn hErrs fun x => { x with ackDue := true, waiting := false }
  obtain ⟨w, hWork⟩ : ∃ w, w = modTxn p (fun x => { x with ackDue := true, waiting := false }) (setErrs tx 0 v) := ⟨_, rfl⟩
  rw [← hWork] at hDue
  have hEnd : endBurst p code v = Machine.report p (some e) 5 tx.stored (txnSeq w tx).toNat w := by
    obtain ⟨⟨hp, ht, -⟩, -⟩ := hv
    have hSplit : ¬ (tx.kind == .splitDone) = true := by simpa using hk
    unfold endBurst
    rw [hp, ht]
    dsimp only
    rw [hw]
    refine (if_pos (by simp [hStored])).trans ?_
    rw [if_pos hStored, if_neg hSplit, he, hWork]
  have hPaidNow : WaitPaid w t := waitPaid_of hPaid (now_of_tb (by
    rw [hWork]
    exact setErrs_tb tx 0 v))
  obtain ⟨hTold, hPorts, hItems, hOut⟩ := hDue.report hh hWait hPaidNow 5 tx.stored (txnSeq w tx).toNat
  obtain ⟨⟨hPort, -⟩, hOthers, -⟩ := hDue
  rw [hEnd]
  refine ⟨hTold, fun k hk => (hPorts k).trans (hOthers k hk), by rw [hPorts, hPort], fun j => ?_, hOut.trans ?_⟩
  · rw [hItems, hWork]
    refine (hErrItems j).trans ?_
    rw [hi]
    rfl
  · rw [hWork]
    exact setErrs_keeps (bl := .out) tx 0 (Keeps.refl .out v) (by decide)

/-! ### Data packets (R63) -/

/-- The packet ends the transfer: it brings the rest, or less than a whole packet. -/
def isFinal (s : State) (tx : Txn) (x : Item) (l : List Byte) : Bool :=
  decide (l.length = itemLen x - x.moved) || decide (l.length < (txnCtx s tx).mps.toNat)

/-- The transaction behind one more packet. -/
def received (tx : Txn) : Txn := { tx with sent := tx.sent + 1, receiving := true }

/-- The transaction behind a packet that has been stored. -/
def storedTxn (s : State) (tx : Txn) (x : Item) (l : List Byte) : Txn :=
  { received tx with stored := tx.stored + 1, final := tx.final || isFinal s tx x l }

/-- The transfer behind a packet that has been stored. -/
def storedItem (x : Item) (l : List Byte) : Item :=
  { x with visit := x.visit + 1, segs := addSeg x.moved l.length x.segs, moved := x.moved + l.length }

theorem stageWrite_frame (x : Item) (pos : Nat) (l : List Byte) (v : State) : Frame [.dma] v (stageWrite x pos l v) :=
  fun _ hb => stageWrite_keeps x pos l (Keeps.refl _ v) hb

theorem within_stage (hv : Within s v p e t tx q) (z : Item) (pos : Nat) (l : List Byte) : Within s (stageWrite z pos l v) p e t tx q :=
  within_of hv (port_of_topo (stageWrite_frame z pos l v .topo (by decide))) (stageWrite_frame z pos l v .eng (by decide))

/-- A good packet in sequence is stored behind what the transfer has. -/
theorem storeBulk_stores (hv : Within s v p e t (received tx) q) (hw : tx.work = .item i) (hi : item? v i = some x) (hc : itemCtrl x = false)
    (hp : x.posted = none) {l : List Byte} (hl : l.length ≤ itemLen x - x.moved) (hm : (txnCtx v tx).mps = (txnCtx s tx).mps) :
    Within s (storeBulk p tx l v) p e t (storedTxn s tx x l) { q with txn := some (storedTxn s tx x l) }
      ∧ (∀ j, item? (storeBulk p tx l v) j = if j = i then some (storedItem x l) else item? v j)
      ∧ (storeBulk p tx l v).out = v.out ∧ (storeBulk p tx l v).tb = v.tb := by
  obtain ⟨a, ha⟩ : ∃ a, a = seqAdd (txnGen v tx) (txnSeq v tx) 1 := ⟨_, rfl⟩
  obtain ⟨hSeqWithin, hSeqItems⟩ := setTxnSeq_does hv (show (received tx).work = .item i from hw) a
  have hCounted := within_item (within_modTxn hSeqWithin fun x => { x with stored := x.stored + 1 }) i fun y => { y with visit := y.visit + 1 }
  obtain ⟨w, hWork⟩ : ∃ w, w = modItem i (fun y => { y with visit := y.visit + 1 })
    (modTxn p (fun x => { x with stored := x.stored + 1 }) (setTxnSeq tx a v)) := ⟨_, rfl⟩
  have hCounted : Within s w p e t { received tx with stored := tx.stored + 1 } { q with txn := some { received tx with stored := tx.stored + 1 } } := by
    rw [hWork]
    exact hCounted
  have hItem : item? w i = some { x with visit := x.visit + 1 } := by
    rw [hWork, item_modItem, if_pos rfl]
    show ((item? (setTxnSeq (received tx) a v) i).map _) = _
    rw [hSeqItems, hi]
    rfl
  obtain ⟨z, hz⟩ : ∃ z, z = modItem i (fun y => { y with segs := addSeg x.moved l.length y.segs, moved := y.moved + l.length })
    (stageWrite { x with visit := x.visit + 1 } x.moved l w) := ⟨_, rfl⟩
  have hStoreIn : storeIn i x.moved l w = z := by
    unfold storeIn
    rw [hItem]
    dsimp only
    rw [hp, hz]
    rfl
  have hStage := stageWrite_frame { x with visit := x.visit + 1 } x.moved l w
  have hStaged : Within s z p e t { received tx with stored := tx.stored + 1 } { q with txn := some { received tx with stored := tx.stored + 1 } } := by
    rw [hz]
    exact within_item (within_stage hCounted _ _ _) _ _
  have hFront : (stageWrite { x with visit := x.visit + 1 } x.moved l w).front = w.front := hStage .front (by decide)
  have hzi : ∀ j, item? z j = if j = i then some (storedItem x l) else item? v j := fun j => by
    rw [hz, item_modItem]
    split
    · rw [show item? (stageWrite _ _ _ w) i = item? w i by unfold item?; rw [hFront], hItem]
      rfl
    · next hj =>
      rw [show item? (stageWrite _ _ _ w) j = item? w j by unfold item?; rw [hFront], hWork, item_modItem, if_neg hj]
      exact hSeqItems j
  have hzTopo : z.topo = (modTxn p (fun x => { x with stored := x.stored + 1 }) (setTxnSeq tx a v)).topo := by
    rw [hz, topo_of_modItem, show (stageWrite _ _ _ w).topo = w.topo from hStage .topo (by decide), hWork, topo_of_modItem]
  have hzm : (txnCtx z tx).mps = (txnCtx s tx).mps := by
    have hCtx : ctx? z tx.num tx.ep tx.dirIn = (ctx? v tx.num tx.ep tx.dirIn).map (seqSet tx a) := by
      rw [← setTxnSeq_ctx hw a v]
      unfold ctx?
      rw [hzTopo]
      rfl
    rw [← hm]
    unfold txnCtx
    rw [hCtx]
    cases ctx? v tx.num tx.ep tx.dirIn with
    | none => rfl
    | some c =>
      show (seqSet tx a c).mps = c.mps
      unfold seqSet
      split <;> rfl
  have hzo : z.out = v.out ∧ z.tb = v.tb := by
    have hKeep : ∀ bl, bl ∉ [Block.eng, .sch, .topo, .front, .dma] → Keeps bl v z := fun bl hb => by
      rw [hz, hWork]
      exact modItem_keeps _ _ (stageWrite_keeps _ _ _ (modItem_keeps _ _ (modTxn_keeps _ _ (setTxnSeq_keeps tx a (Keeps.refl bl v)
        (notMem_of hb rfl)) (notMem_of hb rfl)) (notMem_of hb rfl)) (notMem_of hb rfl)) (notMem_of hb rfl)
    exact ⟨hKeep .out (by decide), hKeep .tb (by decide)⟩
  have hStore : storeBulk p tx l v = if isFinal s tx x l then modTxn p (fun x => { x with final := true }) z else z := by
    unfold storeBulk
    rw [hw]
    dsimp only
    rw [← ha, ← hWork, hItem]
    dsimp only
    rw [show itemCtrl { x with visit := x.visit + 1 } = false from hc, if_neg (by simp)]
    rw [show itemLen { x with visit := x.visit + 1 } = itemLen x from rfl, List.take_of_length_le hl, hStoreIn, hzm, if_neg (by omega)]
    unfold isFinal
    rfl
  have hTxn : storedTxn s tx x l = if isFinal s tx x l then { received tx with stored := tx.stored + 1, final := true }
      else { received tx with stored := tx.stored + 1 } := by
    unfold storedTxn
    cases isFinal s tx x l
    · simp only [Bool.or_false]; rfl
    · simp only [Bool.or_true]; rfl
  rw [hStore, hTxn]
  split
  · exact ⟨within_modTxn hStaged _, hzi, hzo.1, hzo.2⟩
  · exact ⟨hStaged, hzi, hzo.1, hzo.2⟩

section
variable {l : List Byte} {crc : U32}

/-- A packet that passes its checks and comes in sequence: it is stored, and the burst ends behind it. -/
theorem dataPacket_eq (ha : Awaits s p e t m o tx i x) (hk : tx.kind = .bulkIn) (hLen : h.len.toNat ≤ (txnCtx s tx).mps.toNat)
    (hSent : tx.sent < tx.count) (hl : l.length = h.len.toNat) (hCrc : payloadCrc (port s p).gen l = crc.toNat)
    (hf : fromPartner s tx h = true) (hGood : tx.bad = false) (hSeq : h.seq = txnSeq s tx) {w : State}
    (hw : w = storeBulk p tx l (modTxn p (fun x => { x with sent := x.sent + 1, receiving := true }) s)) (hu : (port w p).txn = some u)
    (hLast : serdes (port s p).gen = false ∨ h.last = true ∨ u.count ≤ u.sent ∨ u.final = true) :
    dataPacket p h l crc false s = endBurst p 7 w := by
  obtain ⟨-, ht, hWaiting, hDue, -, hWork, -⟩ := id ha
  have hStored : goodData p tx h l (modTxn p (fun x => { x with sent := x.sent + 1, receiving := true }) s) = w := by
    have hSame : h.seq = txnSeq (modTxn p (fun x => { x with sent := x.sent + 1, receiving := true }) s) tx := hSeq
    unfold goodData
    rw [hWork]
    exact (if_pos (by simpa using hSame)).trans hw.symm
  unfold dataPacket
  rw [ht]
  dsimp only
  rw [hk, hDue, hWaiting, hGood]
  dsimp only
  rw [if_neg (by decide), if_neg (by decide), if_neg (by decide), if_neg (by simp; omega), if_neg (by simp [hl, hCrc, hf]),
    if_neg (by simp), hStored, hu]
  dsimp only
  exact if_pos (by rcases hLast with hg | hg | hg | hg <;> simp [hg])

/-- What the statement says of a good DATA packet that ends its burst. -/
theorem dataPacket_stores (ha : Awaits s P.val e t m o tx i x) (hk : tx.kind = .bulkIn) (hLen : h.len.toNat ≤ (txnCtx s tx).mps.toNat)
    (hSent : tx.sent < tx.count) (hl : l.length = h.len.toNat) (hCrc : payloadCrc (port s P.val).gen l = crc.toNat)
    (hf : fromPartner s tx h = true) (hGood : tx.bad = false) (hSeq : h.seq = txnSeq s tx) (hp : x.posted = none)
    (hRoom : l.length ≤ itemLen x - x.moved)
    (hLast : serdes (port s P.val).gen = false ∨ h.last = true ∨ tx.count ≤ tx.sent + 1 ∨ isFinal s tx x l = true) :
    ∃ u, exec (.dataPacket P h l crc false) s = .next u ∧ OtherItems i s u ∧ OtherPorts P.val s u ∧ Told e 5 t m o u
      ∧ (∃ y, item? u i = some y ∧ y.moved = x.moved + l.length ∧ y.errs = 0 ∧ y.status = none ∧ y.visit = x.visit + 1
          ∧ y.segs = addSeg x.moved l.length x.segs)
      ∧ (∃ y, (port u P.val).txn = some y ∧ y.stored = tx.stored + 1 ∧ y.sent = tx.sent + 1 ∧ y.ackDue = true
          ∧ y.waiting = false ∧ y.final = (tx.final || isFinal s tx x l))
      ∧ u.out = s.out := by
  obtain ⟨-, ht, -, -, he, hWork, hi, hs, -, hc, -, -, -, hh, hWait, hPaid⟩ := id ha
  have hReceived := within_modTxn ha.within fun x => { x with sent := x.sent + 1, receiving := true }
  obtain ⟨hWithin, hItems, hOut, hTb⟩ := storeBulk_stores (l := l) hReceived hWork hi hc hp hRoom rfl
  have hEq := dataPacket_eq (u := storedTxn s tx x l) ha hk hLen hSent hl hCrc hf hGood hSeq rfl (congrArg Port.txn hWithin.1.1) (by
    rcases hLast with hg | hg | hg | hg
    · exact .inl hg
    · exact .inr (.inl hg)
    · exact .inr (.inr (.inl hg))
    · exact .inr (.inr (.inr (by unfold storedTxn; rw [hg]; exact Bool.or_true _))))
  obtain ⟨hTold, hPorts, hTxn, hEndItems, hEndOut⟩ := endBurst_due hWithin he hWork (by rw [show (storedTxn s tx x l).kind = tx.kind from rfl, hk]; decide)
    (Nat.succ_pos _) ((hItems i).trans (if_pos rfl)) hh hWait (waitPaid_of hPaid (now_of_tb hTb)) 7
  refine ⟨_, (runs_of_guard (o := execDataPacket P h l crc false s) (s := s) rfl ha.laneUp).trans (congrArg _ hEq), fun j hj => ?_, hPorts, hTold,
    ⟨_, (hEndItems i).trans (if_pos rfl), rfl, rfl, hs, rfl, rfl⟩, ⟨_, hTxn, rfl, rfl, rfl, rfl, rfl⟩, hEndOut.trans hOut⟩
  rw [hEndItems, if_neg hj, hItems, if_neg hj]
  rfl

/-- The burst gap limit behind the packets of a burst. -/
theorem burstGap_ends (ha : Awaits s P.val e t m o tx i x) (hk : tx.kind = .bulkIn) (hd : tx.dirIn = true) (hg : serdes (port s P.val).gen = true)
    (hr : tx.receiving = true) (hStored : 0 < tx.stored) : ∃ u, exec (.burstGapExpiry P) s = .next u ∧ OtherItems i s u
      ∧ OtherPorts P.val s u ∧ Told e 5 t m o u ∧ item? u i = some { x with errs := 0 }
      ∧ (port u P.val).txn = some { tx with ackDue := true, waiting := false } ∧ u.out = s.out := by
  obtain ⟨-, -, -, -, he, hWork, hi, -, -, -, -, -, -, hh, hWait, hPaid⟩ := id ha
  have hRun : exec (.burstGapExpiry P) s = .next (endBurst P.val 7 s) := by
    refine (runs_of_guard (o := execBurstGapExpiry P s) (s := s) rfl (by rw [ha.laneUp, hg]; rfl)).trans (congrArg _ ?_)
    rw [ha.awaited]
    exact if_pos (by rw [hr, hd]; rfl)
  obtain ⟨hTold, hPorts, hTxn, hItems, hOut⟩ := endBurst_due ha.within he hWork (by rw [hk]; decide) hStored hi hh hWait hPaid 7
  exact ⟨_, hRun, fun j hj => (hItems j).trans (if_neg hj), hPorts, hTold, (hItems i).trans (if_pos rfl), hTxn, hOut⟩

end

/-! ### The time limit of a control transfer (R70) -/

theorem exec_controlTimeLimit (hl : live s = true) (hi : item? s i = some x) (hc : itemCtrl x = true) (hb : x.begun = true)
    (hs : x.status = none) : exec (.controlTimeLimit i) s = .next (stopItem stXactErr i s) := by
  show execControlTimeLimit i s = _
  unfold execControlTimeLimit
  rw [guarded_of hl, hi]
  exact congrArg _ (if_pos (by rw [hc, hb, hs]; rfl))

theorem controlTimeLimit_does (hl : live s = true) (hi : item? s i = some x) (hc : itemCtrl x = true) (hb : x.begun = true)
    (hs : x.status = none) :
    (onWire s i = true → exec (.controlTimeLimit i) s = .next (setItem s i { x with stopAs := some stXactErr }))
    ∧ (onWire s i = false → isOwn x = false → ∃ u, exec (.controlTimeLimit i) s = .next u ∧ Completed i x stXactErr s u) := by
  rw [exec_controlTimeLimit hl hi hc hb hs]
  unfold stopItem
  refine ⟨fun hw => ?_, fun hw ho => ?_⟩
  · rw [if_pos hw]
    unfold modItem
    rw [hi]
    dsimp only
    rw [hs]
    rfl
  · rw [if_neg (by rw [hw]; decide)]
    exact ⟨_, rfl, finish_completed hi ho (.inl hs) _⟩

/-! ### Frame packets that were held (R82) -/

/-- The port whose line is idle again. -/
def sofFreed (p : Nat) (s : State) : State := modPort p (fun x => { x with sofHold := false, driven := false }) s

/-- The frame packets that go out on the port. -/
def heldFrames (s : State) (p : Nat) : List Output :=
  let n := BitVec.ofNat 11 s.tb.epoch.toNat
  let sof := Output.packet p (packetBytes (port s p).gen .sof { Hdr0 with len := n } [])
  let usof := fun k => Output.packet p (packetBytes (port s p).gen .usof { Hdr0 with len := n, tspec := BitVec.ofNat 8 k } [])
  if sofPort s p = false then []
  else if s.tb.uframe = 0 then sof :: (if 2 ≤ genCode (port s p).gen then [usof 0] else []) else [usof s.tb.uframe]

/-- The port with what was held sent. -/
def framesSent (p : Nat) (s : State) : State :=
  if !sofPort s p then s
  else if s.tb.uframe = 0 then sendSof p s
  else send p .usof { Hdr0 with len := BitVec.ofNat 11 s.tb.epoch.toNat, tspec := BitVec.ofNat 8 s.tb.uframe } [] s

theorem framesSent_does (p : Nat) (s : State) : (∀ k, port (framesSent p s) k = port s k) ∧ (framesSent p s).out = s.out ++ heldFrames s p := by
  unfold framesSent heldFrames
  cases sofPort s p with
  | false => exact ⟨fun _ => rfl, (List.append_nil _).symm⟩
  | true =>
    dsimp only
    rw [show (!true) = false from rfl, if_neg Bool.false_ne_true, if_neg (show ¬ true = false by decide)]
    split
    · unfold sendSof
      dsimp only
      rw [port_of_send]
      split
      · exact ⟨fun _ => rfl, List.append_assoc _ _ _⟩
      · exact ⟨fun _ => rfl, rfl⟩
    · exact ⟨fun _ => rfl, rfl⟩

theorem heldFrames_freed (p : Nat) (s : State) : heldFrames (sofFreed p s) p = heldFrames s p := by
  have hPort : port (sofFreed p s) p = { port s p with sofHold := false, driven := false } := (port_modPort _ _ _ _).trans (if_pos rfl)
  have hSof : sofPort (sofFreed p s) p = sofPort s p := by
    unfold sofPort highZ
    rw [hPort]
    rfl
  unfold heldFrames
  rw [hSof, hPort]
  rfl

theorem sofDeferred_sends (hl : laneUp s P.val = true) (hh : (port s P.val).sofHold = true) :
    ∃ u, exec (.sofDeferredSend P) s = .next (runLane P.val u) ∧ ((port s P.val).lane = [] → runLane P.val u = u)
      ∧ OtherPorts P.val s u ∧ port u P.val = { port s P.val with sofHold := false, driven := false } ∧ u.out = s.out ++ heldFrames s P.val := by
  have hRun : exec (.sofDeferredSend P) s = .next (runLane P.val (framesSent P.val (sofFreed P.val s))) :=
    runs_of_guard (o := execSofDeferredSend P s) (s := s) (f := fun s => runLane P.val (framesSent P.val (sofFreed P.val s))) rfl
      (by rw [hl, hh]; rfl)
  obtain ⟨hPorts, hOut⟩ := framesSent_does P.val (sofFreed P.val s)
  have hPort : port (framesSent P.val (sofFreed P.val s)) P.val = { port s P.val with sofHold := false, driven := false } :=
    (hPorts _).trans ((port_modPort _ _ _ _).trans (if_pos rfl))
  refine ⟨_, hRun, fun hLane => runLane_idle (by rw [hPort]; exact hLane), fun k hk => (hPorts k).trans ((port_modPort _ _ _ _).trans (if_neg hk)),
    hPort, ?_⟩
  rw [hOut, heldFrames_freed]
  rfl

theorem sofHoldLimit_disables (hl : laneUp s P.val = true) (hh : (port s P.val).sofHold = true) (hg : serdes (port s P.val).gen = false) :
    ∃ u, exec (.sofHoldLimit P) s = .next u ∧ (port u P.val).enabled = false ∧ (port u P.val).babbleDis = true
      ∧ (port u P.val).admin = false ∧ (port u P.val).txn = none ∧ bit (evtWord u P.val) 11 = true := by
  have hRun : exec (.sofHoldLimit P) s = .next (babbleDisable P.val s) :=
    runs_of_guard (o := execSofHoldLimit P s) (s := s) rfl (by rw [hl, hh, hg]; rfl)
  obtain ⟨x, hx, hTxn, -⟩ := port_of_portGone P stDeviceGone s
  have hPort : port (babbleDisable P.val s) P.val = { { portIdle x with commanded := false, tries := 0 } with babbleDis := true, admin := false } := by
    unfold babbleDisable
    rw [port_modPort, if_pos rfl, port_of_portEvent, hx]
  refine ⟨_, hRun, ?_, ?_, ?_, ?_, portEvent_bit P 11 (by decide) _⟩
  · rw [hPort]; rfl
  · rw [hPort]
  · rw [hPort]
  · rw [hPort]; exact hTxn

/-- Settles O32: a good packet and the end of its burst, the control transfer's limit by what is on the wire, the frame packets held. -/
theorem wireDataAndTimes : Obligations.WireDataAndTimes := fun _ _ _ _ _ _ _ _ _ _ _ _ =>
  ⟨fun ha hk hd => ⟨fun hLen hSent hl hCrc hf hGood hSeq hp hRoom hLast =>
        dataPacket_stores ha hk hLen hSent hl hCrc hf hGood hSeq hp hRoom hLast, fun hg hr hStored => burstGap_ends ha hk hd hg hr hStored⟩,
    fun hl hi hc hb hs => controlTimeLimit_does hl hi hc hb hs,
    fun hl hh => ⟨sofDeferred_sends hl hh, fun hg => sofHoldLimit_disables hl hh hg⟩⟩

end
end Sys2Proof.Machine
end

section
/-! PROOFS. A root port from connect to reset signalling: the connect indication, debounce, detection, training that fails, and the mule's
messages (R22 to R25, R110 to R113). -/

namespace Sys2Proof.Machine

section
variable {s : State} {p : PortId}

/-! ### Connect and debounce (R110, R111) -/

/-- The port in its debounce. -/
def debounced (x : Port) : Port := { x with attach := .debounce, genUse := genCap x, tries := 0, trainings := 0 }

theorem debounceRoot_moves (k : Nat) {y : Port} {l : List Output} {v : State} (h : PortMoves k y l s v) (hp : y.pg = true) (ha : attaches y = true)
    (he : y.enabled = false) (hi : y.attach = .idle ∨ y.attach = .debounce) : PortMoves k (debounced y) l s (debounceRoot k v) := by
  refine (h.mod _).as ?_ rfl
  have hAttach : (y.attach == .idle || y.attach == .debounce) = true := by simpa using hi
  exact if_pos (by rw [hp, ha, he, hAttach]; rfl)

theorem exec_connectChange (h : serves s = true) (present : Bool) :
    exec (.connectChange (.root p) present) s = .next (rootConnect p present s) :=
  runs_of_guard (o := execConnectChange (.root p) present s) (s := s) (f := rootConnect p present) rfl (by rw [h]; rfl)

theorem connectChange_debounces (h : serves s = true) (he : (port s p.val).enabled = false) (hp : (port s p.val).pg = true)
    (ha : attaches (port s p.val) = true) (hi : (port s p.val).attach = .idle ∨ (port s p.val).attach = .debounce) (present : Bool) :
    ∃ u, exec (.connectChange (.root p) present) s = .next u ∧ u.out = s.out
      ∧ port u p.val = debounced { port s p.val with bias := present, farEnd := (port s p.val).farEnd && present } ∧ OtherPorts p.val s u := by
  obtain ⟨v, hv⟩ : ∃ v, v = modPort p.val (fun x => { x with bias := present, farEnd := x.farEnd && (present || x.enabled) }) s := ⟨_, rfl⟩
  obtain ⟨y, hy⟩ : ∃ y : Port, y = { port s p.val with bias := present, farEnd := (port s p.val).farEnd && present } := ⟨_, rfl⟩
  have hNoted : PortMoves p.val y [] s v := by
    rw [hv]
    refine (moves_modPort p.val _ s).as ?_ rfl
    rw [hy]
    exact congrArg (fun b => { port s p.val with bias := present, farEnd := (port s p.val).farEnd && b }) 
      (show (present || (port s p.val).enabled) = present by rw [he, Bool.or_false])
  have hEnabled : y.enabled = false := by rw [hy]; exact he
  have hAttach : y.attach = .idle ∨ y.attach = .debounce := by rw [hy]; exact hi
  obtain ⟨hPort, hOut, hOthers⟩ := debounceRoot_moves p.val hNoted (by rw [hy]; exact hp) (by rw [hy]; exact ha) hEnabled hAttach
  have hState : rootConnect p present s = debounceRoot p.val v := by
    unfold rootConnect
    rw [← hv]
    dsimp only
    rw [hNoted.1, hEnabled, if_neg (by decide), if_neg]
    intro hc
    rcases hAttach with h1 | h1 <;> rw [h1] at hc <;> simp at hc
  refine ⟨_, exec_connectChange h present, ?_⟩
  rw [hState, hPort, hOut, hy]
  exact ⟨List.append_nil _, rfl, hOthers⟩

theorem connectChange_noted (h : serves s = true) (he : (port s p.val).enabled = true) (present : Bool) :
    exec (.connectChange (.root p) present) s = .next (modPort p.val (fun y => { y with bias := present }) s) := by
  refine (exec_connectChange h present).trans (congrArg _ ?_)
  unfold rootConnect
  dsimp only
  rw [modPort_port]
  refine (if_pos he).trans ?_
  unfold modPort
  dsimp only
  rw [he, Bool.or_true, Bool.and_true]

/-! ### The end of the debounce (R111, R113) -/

/-- What ATTACH_DEBOUNCE_END does with a root port. -/
def debounceEnds (p : PortId) (s : State) : State :=
  if !connectOf (port s p.val) then modPort p.val (fun x => { x with attach := .idle }) s
  else if reportsFull s then modPort p.val (fun x => { x with attach := .held }) s
  else attachRoot p.val s

theorem exec_attachDebounceEnd (h : serves s = true) (ha : (port s p.val).attach = .debounce) :
    exec (.attachDebounceEnd (.root p)) s = .next (debounceEnds p s) :=
  runs_of_guard (o := execAttachDebounceEnd (.root p) s) (s := s) (f := debounceEnds p) rfl (by
    rw [h]
    simpa [locExists, locAttach] using ha)

/-- The port that takes a mark and is otherwise as it was. -/
theorem moved_mod {g : Port → Port} {i : Instr} (hx : exec i s = .next (modPort p.val g s)) : ∃ u, exec i s = .next u ∧ u.out = s.out
    ∧ port u p.val = g (port s p.val) ∧ OtherPorts p.val s u :=
  ⟨_, hx, rfl, modPort_port _ _ _, modPort_others _ _ _⟩

theorem debounceEnd_idle (h : serves s = true) (ha : (port s p.val).attach = .debounce) (hc : connectOf (port s p.val) = false) :
    ∃ u, exec (.attachDebounceEnd (.root p)) s = .next u ∧ u.out = s.out
      ∧ port u p.val = { port s p.val with attach := .idle } ∧ OtherPorts p.val s u :=
  moved_mod ((exec_attachDebounceEnd h ha).trans (congrArg _ (if_pos (by rw [hc]; rfl))))

theorem debounceEnd_held (h : serves s = true) (ha : (port s p.val).attach = .debounce) (hc : connectOf (port s p.val) = true)
    (hr : reportsFull s = true) : ∃ u, exec (.attachDebounceEnd (.root p)) s = .next u ∧ u.out = s.out
      ∧ port u p.val = { port s p.val with attach := .held } ∧ OtherPorts p.val s u :=
  moved_mod ((exec_attachDebounceEnd h ha).trans (congrArg _ ((if_neg (by rw [hc]; decide)).trans (if_pos hr))))

theorem debounceEnd_attaches (h : serves s = true) (ha : (port s p.val).attach = .debounce) (hc : connectOf (port s p.val) = true)
    (hr : reportsFull s = false) : exec (.attachDebounceEnd (.root p)) s = .next (attachRoot p.val s) :=
  (exec_attachDebounceEnd h ha).trans (congrArg _ ((if_neg (by rw [hc]; decide)).trans (if_neg (by rw [hr]; decide))))

theorem attachRoot_detects (hg : 3 ≤ genCap (port s p.val)) : PortMoves p.val
    { port s p.val with genUse := genCap (port s p.val), attach := .detect, link := .detect } [.line p.val .detectPulse] s (attachRoot p.val s) := by
  have hUse := moves_modPort p.val (fun x => { x with genUse := genCap x }) s
  unfold attachRoot
  dsimp only
  rw [hUse.1, if_neg (by dsimp only; omega)]
  exact (hUse.mod (fun x => { x with attach := .detect, link := .detect })).emit (.line p.val .detectPulse)

theorem attachRoot_signals (hg : genCap (port s p.val) ≤ 2) :
    (highZ s p.val = false → (attachRoot p.val s).out.getLast? = some (.line p.val .reset))
      ∧ (port (attachRoot p.val s) p.val).attach = .signalling ∧ (port (attachRoot p.val s) p.val).resetting = true := by
  have hUse := modPort_port p.val (fun x => { x with genUse := genCap x }) s
  have hReset : attachRoot p.val s = beginRootReset p.val (modPort p.val (fun x => { x with genUse := genCap x }) s) := by
    unfold attachRoot
    dsimp only
    rw [hUse, if_pos hg]
  obtain ⟨hAttach, hSignal, hLine⟩ := beginRootReset_does p.val (modPort p.val (fun x => { x with genUse := genCap x }) s)
  rw [hReset]
  refine ⟨fun hz => hLine (Or.inr (Or.inl ?_)) ?_, hAttach, hSignal⟩
  · rw [hUse]; exact hg
  · unfold highZ at hz ⊢
    rw [hUse]
    exact hz

/-! ### The detect window (R113) -/

theorem exec_detectWindowEnd (h : serves s = true) (ha : (port s p.val).attach = .detect) :
    exec (.detectWindowEnd p) s = .next (if (port s p.val).farEnd then
        emit (.line p.val .trainingSets) (modPort p.val (fun x => { x with attach := .training, link := .polling }) s)
      else if (port s p.val).bias then legacyReset p.val s
      else modPort p.val portIdle s) :=
  runs_of_guard (o := execDetectWindowEnd p s) (s := s) (f := fun s => if (port s p.val).farEnd then
        emit (.line p.val .trainingSets) (modPort p.val (fun x => { x with attach := .training, link := .polling }) s)
      else if (port s p.val).bias then legacyReset p.val s
      else modPort p.val portIdle s) rfl (by rw [h]; simpa using ha)

theorem legacyReset_signals (s : State) : (highZ s p.val = false → (legacyReset p.val s).out.getLast? = some (.line p.val .reset))
    ∧ (port (legacyReset p.val s) p.val).attach = .signalling ∧ (port (legacyReset p.val s) p.val).resetting = true := by
  have hFar := modPort_port p.val (fun x => { x with farEnd := false }) s
  obtain ⟨hAttach, hSignal, hLine⟩ := beginRootReset_does p.val (modPort p.val (fun x => { x with farEnd := false }) s)
  refine ⟨fun hz => hLine (Or.inr (Or.inr ?_)) ?_, hAttach, hSignal⟩
  · rw [hFar]
  · unfold highZ at hz ⊢
    rw [hFar]
    exact hz

theorem detectWindowEnd_trains (h : serves s = true) (ha : (port s p.val).attach = .detect) (hf : (port s p.val).farEnd = true) :
    ∃ u, exec (.detectWindowEnd p) s = .next u ∧ u.out = s.out ++ [.line p.val .trainingSets]
      ∧ port u p.val = { port s p.val with attach := .training, link := .polling } ∧ OtherPorts p.val s u := by
  obtain ⟨hPort, hOut, hOthers⟩ := (moves_modPort p.val (fun x => { x with attach := .training, link := .polling }) s).emit (.line p.val .trainingSets)
  exact ⟨_, (exec_detectWindowEnd h ha).trans (congrArg _ (if_pos hf)), hOut, hPort, hOthers⟩

theorem detectWindowEnd_legacy (h : serves s = true) (ha : (port s p.val).attach = .detect) (hf : (port s p.val).farEnd = false)
    (hb : (port s p.val).bias = true) : exec (.detectWindowEnd p) s = .next (legacyReset p.val s) :=
  (exec_detectWindowEnd h ha).trans (congrArg _ ((if_neg (by simp [hf])).trans (if_pos hb)))

theorem detectWindowEnd_idle (h : serves s = true) (ha : (port s p.val).attach = .detect) (hf : (port s p.val).farEnd = false)
    (hb : (port s p.val).bias = false) : ∃ u, exec (.detectWindowEnd p) s = .next u ∧ u.out = s.out
      ∧ port u p.val = portIdle (port s p.val) ∧ OtherPorts p.val s u :=
  moved_mod ((exec_detectWindowEnd h ha).trans (congrArg _ ((if_neg (by simp [hf])).trans (if_neg (by simp [hb])))))

/-! ### Training that fails (R113) -/

/-- The port behind a training that failed. -/
def untrained (x : Port) : Port := { x with
  trainings := x.trainings + 1, link := .detect, attach := if x.enabled then x.attach else .training, fromLowPower := false,
  capGot := false, doneSent := false, doneGot := false, cmdWait := none, rateN5 := false }

/-- What follows the third failure: a legacy reset, or the port is held. -/
def trainingsSpent (p : Nat) (v : State) : State :=
  if (port v p).bias then legacyReset p (if (port v p).enabled then portGone p stDeviceGone v else v)
  else portEvent p 9 (modPort p (fun x => { x with held := true }) (portGone p stDeviceGone v))

theorem trainingFailed_eq (p : Nat) (s : State) : trainingFailed p s = if (port s p).trainings + 1 < 3
    then emit (.line p .detectPulse) (modPort p untrained s) else trainingsSpent p (modPort p untrained s) := rfl

theorem exec_trainingTimeout (h : serves s = true) (hl : (port s p.val).link = .polling ∨ (port s p.val).link = .config) :
    exec (.trainingTimeout p) s = .next (trainingFailed p.val s) :=
  runs_of_guard (o := execTrainingTimeout p s) (s := s) (f := trainingFailed p.val) rfl (by
    rw [h]
    rcases hl with hl | hl <;> rw [hl] <;> rfl)

theorem trainingTimeout_again (h : serves s = true) (hl : (port s p.val).link = .polling ∨ (port s p.val).link = .config)
    (hn : (port s p.val).trainings < 2) : ∃ u, exec (.trainingTimeout p) s = .next u ∧ u.out = s.out ++ [.line p.val .detectPulse]
      ∧ OtherPorts p.val s u ∧ (port u p.val).trainings = (port s p.val).trainings + 1 ∧ (port u p.val).link = .detect := by
  obtain ⟨hPort, hOut, hOthers⟩ := (moves_modPort p.val untrained s).emit (.line p.val .detectPulse)
  refine ⟨_, (exec_trainingTimeout h hl).trans (congrArg _ ((trainingFailed_eq p.val s).trans (if_pos (by omega)))), hOut, hOthers, ?_, ?_⟩
  · rw [hPort]; rfl
  · rw [hPort]; rfl

theorem trainingTimeout_holds (h : serves s = true) (hl : (port s p.val).link = .polling ∨ (port s p.val).link = .config)
    (hn : 2 ≤ (port s p.val).trainings) (hb : (port s p.val).bias = false) : ∃ u, exec (.trainingTimeout p) s = .next u
      ∧ (port u p.val).held = true ∧ (port u p.val).enabled = false ∧ (port u p.val).attach = .idle ∧ bit (evtWord u p.val) 9 = true := by
  obtain ⟨v, hv⟩ : ∃ v, v = modPort p.val untrained s := ⟨_, rfl⟩
  have hBias : (port v p.val).bias = false := by rw [hv, modPort_port]; exact hb
  obtain ⟨x, hGone, -⟩ := port_of_portGone p stDeviceGone v
  have hRun : exec (.trainingTimeout p) s
      = .next (portEvent p.val 9 (modPort p.val (fun x => { x with held := true }) (portGone p.val stDeviceGone v))) := by
    refine (exec_trainingTimeout h hl).trans (congrArg _ ((trainingFailed_eq p.val s).trans ?_))
    rw [if_neg (by omega), ← hv]
    unfold trainingsSpent
    rw [hBias, if_neg (by decide)]
  have hPort : port (portEvent p.val 9 (modPort p.val (fun x => { x with held := true }) (portGone p.val stDeviceGone v))) p.val
      = { portIdle x with commanded := false, tries := 0, held := true } := by
    rw [port_of_portEvent, modPort_port, hGone]
  refine ⟨_, hRun, ?_, ?_, ?_, portEvent_bit p 9 (by decide) _⟩ <;> rw [hPort] <;> rfl

/-! ### The mule's messages (R22 to R25) -/

theorem slotTreeGone_shuts (p : PortId) (s : State) : (port (slotTreeGone p.val s) p.val).pg = false
    ∧ (port (slotTreeGone p.val s) p.val).lastGasp = false ∧ (port (slotTreeGone p.val s) p.val).enabled = false
    ∧ (port (slotTreeGone p.val s) p.val).txn = none := by
  obtain ⟨v, hv⟩ : ∃ v, v = each (boundPorts s p.val) (fun l s => locGone l stDeviceGone s) s := ⟨_, rfl⟩
  obtain ⟨x, hGone, hTxn, -⟩ := port_of_portGone p stDeviceGone v
  have hPort : port (slotTreeGone p.val s) p.val = { portIdle x with commanded := false, tries := 0, pg := false, lastGasp := false } := by
    unfold slotTreeGone
    rw [← hv, modPort_port, hGone]
  rw [hPort]
  exact ⟨rfl, rfl, rfl, hTxn⟩

theorem muleRemoval_shuts (h : live s = true) : ∃ u, exec (.muleRemovalEvent p) s = .next u ∧ (port u p.val).pg = false
    ∧ (port u p.val).lastGasp = false ∧ (port u p.val).enabled = false ∧ (port u p.val).txn = none :=
  ⟨_, runs_of_guard (o := execMuleRemovalEvent p s) (s := s) (f := slotTreeGone p.val) rfl h, slotTreeGone_shuts p s⟩

theorem muleTrip_shuts (h : live s = true) : ∃ u, exec (.muleTripEvent p) s = .next u ∧ (port u p.val).pg = false
    ∧ (port u p.val).lastGasp = false ∧ (port u p.val).enabled = false ∧ (port u p.val).txn = none :=
  ⟨_, runs_of_guard (o := execMuleTripEvent p s) (s := s) (f := slotTreeGone p.val) rfl h, slotTreeGone_shuts p s⟩

theorem mulePfw_opens (h : live s = true) : ∃ u, exec (.mulePfwEvent p) s = .next u
    ∧ (port u p.val = { port s p.val with lastGasp := true } ∧ OtherPorts p.val s u) ∧ Raised (evtKey (.slot p)) 5 s u ∧ SameFuncs s u := by
  obtain ⟨v, hv⟩ : ∃ v, v = modPort p.val (fun x => { x with lastGasp := true }) s := ⟨_, rfl⟩
  have hRun : exec (.mulePfwEvent p) s = .next (raise (.slot p) 5 v) := by
    refine (runs_of_guard (o := execMulePfwEvent p s) (s := s)
      (f := fun s => raiseSlot p.val 5 (modPort p.val (fun x => { x with lastGasp := true }) s)) rfl h).trans (congrArg _ ?_)
    show raiseSlot p.val 5 _ = _
    rw [← hv]
    unfold raiseSlot
    rw [dif_pos p.isLt]
  have hPorts : ∀ k, port (raise (.slot p) 5 v) k = port v k := port_of_topo (raise_topo _ _ _)
  have hSame : SameFuncs s v := by rw [hv]; exact sameFuncs_refl s
  refine ⟨_, hRun, ⟨?_, fun k hk => ?_⟩, fun j => ?_, hSame.trans (raise_sameFuncs _ _ _)⟩
  · rw [hPorts, hv, modPort_port]
  · rw [hPorts, hv, modPort_others _ _ _ k hk]
  · rw [raise_raised, hv]
    rfl

theorem mulePowerGood_debounces (h : live s = true) (hb : boundPorts s p.val = []) (ha : (port s p.val).admin = true)
    (he : (port s p.val).enabled = false) (hi : (port s p.val).attach = .idle) : ∃ u, exec (.mulePowerGoodEvent p) s = .next u
      ∧ port u p.val = { port s p.val with pg := true, held := false, attach := .debounce, genUse := genCap (port s p.val), tries := 0, trainings := 0 }
      ∧ OtherPorts p.val s u := by
  obtain ⟨v, hv⟩ : ∃ v, v = debounceRoot p.val (modPort p.val (fun x => { x with pg := true, held := false }) s) := ⟨_, rfl⟩
  have hRun : exec (.mulePowerGoodEvent p) s = .next v := by
    refine (runs_of_guard (o := execMulePowerGoodEvent p s) (s := s) (f := slotPowerGood p.val) rfl h).trans (congrArg _ ?_)
    unfold slotPowerGood
    rw [← hv]
    dsimp only
    rw [show boundPorts v p.val = [] from by rw [hv]; exact hb]
    rfl
  obtain ⟨hPort, -, hOthers⟩ := debounceRoot_moves p.val (moves_modPort p.val (fun x => { x with pg := true, held := false }) s) rfl
    (by rw [attaches, ha]; rfl) he (Or.inl hi)
  rw [← hv] at hPort hOthers
  exact ⟨v, hRun, hPort, hOthers⟩

end

/-- Settles O33: each row of the attach on its own port, the tree torn down where the mule's power leaves. -/
theorem attachToReset : Obligations.AttachToReset := by
  unfold Obligations.AttachToReset
  intro s p
  exact ⟨fun h he hp ha hi present => connectChange_debounces h he hp ha hi present,
    fun h he present => connectChange_noted h he present,
    fun h ha => ⟨debounceEnd_idle h ha, debounceEnd_held h ha,
      fun hc hr hg => ⟨_, debounceEnd_attaches h ha hc hr, (attachRoot_detects hg).2.1, (attachRoot_detects hg).1, (attachRoot_detects hg).2.2⟩,
      fun hc hr hg => ⟨_, debounceEnd_attaches h ha hc hr, attachRoot_signals hg⟩⟩,
    fun h ha => ⟨detectWindowEnd_trains h ha, fun hf hb => ⟨_, detectWindowEnd_legacy h ha hf hb, legacyReset_signals s⟩,
      detectWindowEnd_idle h ha⟩,
    fun h hl => ⟨trainingTimeout_again h hl, trainingTimeout_holds h hl⟩,
    fun h => ⟨muleRemoval_shuts h, muleTrip_shuts h, mulePfw_opens h, mulePowerGood_debounces h⟩⟩

end Sys2Proof.Machine
end

section
/-! PROOFS. The end of a port reset and of generation announce (R114, R115). -/

namespace Sys2Proof.Machine

section
variable {s : State} {p : PortId} {g : Gen}

/-- The port as it is enabled behind its reset, its error counts at 0. -/
def recovered (g : Gen) (x : Port) : Port :=
  { x with
      gen := g, enabled := true, resetting := false, attach := .recovery, trainings := 0, check := 0
      timeouts := 0, babbles := 0, linkErrTotal := 0, recoveries := 0, commanded := false }

theorem enterRecovery_recovers (p : PortId) (g : Gen) (s : State) :
    OtherPorts p.val s (enterRecovery (.root p) g s) ∧ port (enterRecovery (.root p) g s) p.val = recovered g (port s p.val) :=
  ⟨fun k hk => (enterRecovery_port p g s k).trans (if_neg hk), (enterRecovery_port p g s p.val).trans (if_pos rfl)⟩

/-- A reset that has been commanded is reported done. -/
theorem enterRecovery_reports (h : (port s p.val).commanded = true) (g : Gen) : bit (evtWord (enterRecovery (.root p) g s) p.val) 2 = true := by
  unfold enterRecovery resetDone
  dsimp only
  rw [modPort_port]
  refine (congrArg (fun u => bit (evtWord u p.val) 2) (if_pos (show (port s p.val).commanded = true from h))).trans ?_
  exact addRecord_bit p _ _ rfl 2 (by decide) rfl

/-! ### The end of reset signalling (R115) -/

/-- The device that leaves its reset changes neither ports nor output. -/
theorem signalled_moves (l : Loc) (k : Nat) (s : State) : PortMoves k (port s k) [] s (signalled l s) := by
  unfold signalled
  split
  · exact PortMoves.refl k s
  · exact PortMoves.refl k s

/-- What RESET_SIGNALLING_END does with a root port. -/
def signallingEnds (p : PortId) (s : State) : State :=
  if serdesSide (port (signalled (.root p) s) p.val) then
    emit (.line p.val .detectPulse) (modPort p.val (fun x => { x with attach := .detect, link := .detect }) (signalled (.root p) s))
  else modPort p.val (fun x => { x with attach := .announce }) (signalled (.root p) s)

theorem exec_resetSignallingEnd (h : serves s = true) (ha : (port s p.val).attach = .signalling) :
    exec (.resetSignallingEnd (.root p)) s = .next (signallingEnds p s) :=
  runs_of_guard (o := execResetSignallingEnd (.root p) s) (s := s) (f := signallingEnds p) rfl (by
    rw [h]
    simpa [locExists, locAttach] using ha)

theorem signallingEnd_announces (h : serves s = true) (ha : (port s p.val).attach = .signalling) (hs : serdesSide (port s p.val) = false) :
    ∃ u, exec (.resetSignallingEnd (.root p)) s = .next u ∧ u.out = s.out ∧ OtherPorts p.val s u
      ∧ port u p.val = { port s p.val with attach := .announce } := by
  have hMoves := signalled_moves (.root p) p.val s
  obtain ⟨hPort, hOut, hOthers⟩ := hMoves.mod fun x => { x with attach := .announce }
  refine ⟨_, (exec_resetSignallingEnd h ha).trans (congrArg _ (if_neg ?_)), hOut.trans (List.append_nil _), hOthers, hPort⟩
  rw [hMoves.1, hs]
  decide

theorem signallingEnd_detects (h : serves s = true) (ha : (port s p.val).attach = .signalling) (hs : serdesSide (port s p.val) = true) :
    ∃ u, exec (.resetSignallingEnd (.root p)) s = .next u ∧ u.out = s.out ++ [.line p.val .detectPulse] ∧ OtherPorts p.val s u
      ∧ port u p.val = { port s p.val with attach := .detect, link := .detect } := by
  have hMoves := signalled_moves (.root p) p.val s
  obtain ⟨hPort, hOut, hOthers⟩ := (hMoves.mod fun x => { x with attach := .detect, link := .detect }).emit (.line p.val .detectPulse)
  refine ⟨_, (exec_resetSignallingEnd h ha).trans (congrArg _ (if_pos ?_)), hOut, hOthers, hPort⟩
  rw [hMoves.1, hs]

/-! ### The end of the announce window (R114) -/

/-- What ANNOUNCE_WINDOW_END does on a connected port, by the generation that is confirmed. -/
def announceEnds (p : PortId) (s : State) : Option Gen → State
  | none => enumFail (.root p) s
  | some .n1 => enterRecovery (.root p) .n1 s
  | some g => emit (.line p.val (.confirm g)) (modPort p.val (fun x => { x with attach := .confirm, confirm := g }) s)

theorem exec_announceWindowEnd (h : serves s = true) (ha : (port s p.val).attach = .announce) (hc : connectOf (port s p.val) = true)
    (a : Option Gen) : exec (.announceWindowEnd p a) s = .next (announceEnds p s (confirmGen (port s p.val) a)) := by
  show execAnnounceWindowEnd p a s = _
  unfold execAnnounceWindowEnd
  rw [guarded_of (by rw [h]; simpa using ha), if_neg (by rw [hc]; decide)]
  generalize confirmGen (port s p.val) a = c
  match c with
  | none => rfl
  | some g => cases g <;> rfl

theorem announceEnd_confirms (h : serves s = true) (ha : (port s p.val).attach = .announce) (hc : connectOf (port s p.val) = true)
    (hg : g = .n2 ∨ g = .n3) (hu : genCode g ≤ (port s p.val).genUse) : ∃ u, exec (.announceWindowEnd p (some g)) s = .next u
      ∧ u.out = s.out ++ [.line p.val (.confirm g)] ∧ OtherPorts p.val s u
      ∧ port u p.val = { port s p.val with attach := .confirm, confirm := g } := by
  have hLegacy : ¬ 2 < genCode g := by rcases hg with rfl | rfl <;> decide
  have hRun : exec (.announceWindowEnd p (some g)) s = .next (announceEnds p s (some g)) := by
    rw [exec_announceWindowEnd h ha hc]
    exact congrArg (fun c => Host.Outcome.next (announceEnds p s c)) ((if_neg hLegacy).trans (if_pos hu))
  obtain ⟨hPort, hOut, hOthers⟩ := (moves_modPort p.val (fun x => { x with attach := .confirm, confirm := g }) s).emit (.line p.val (.confirm g))
  have hState : announceEnds p s (some g)
      = emit (.line p.val (.confirm g)) (modPort p.val (fun x => { x with attach := .confirm, confirm := g }) s) := by
    rcases hg with rfl | rfl <;> rfl
  rw [hState] at hRun
  exact ⟨_, hRun, hOut, hOthers, hPort⟩

theorem announceEnd_recovers (h : serves s = true) (ha : (port s p.val).attach = .announce) (hc : connectOf (port s p.val) = true)
    {a : Option Gen} (hg : a = none ∨ a = some .n1) : ∃ u, exec (.announceWindowEnd p a) s = .next u
      ∧ OtherPorts p.val s u ∧ port u p.val = recovered .n1 (port s p.val) := by
  have hConfirm : confirmGen (port s p.val) a = some .n1 := by
    rcases hg with rfl | rfl
    · rfl
    · show (if 2 < genCode .n1 then none else if genCode .n1 ≤ (port s p.val).genUse then some Gen.n1 else some .n1) = some .n1
      rw [if_neg (by decide), ite_self]
  have hRun := exec_announceWindowEnd h ha hc a
  rw [hConfirm] at hRun
  exact ⟨_, hRun, enterRecovery_recovers p .n1 s⟩

theorem announceEnd_fails (h : serves s = true) (ha : (port s p.val).attach = .announce) (hc : connectOf (port s p.val) = true)
    (hg : g = .n4 ∨ g = .n5) : exec (.announceWindowEnd p (some g)) s = .next (enumFail (.root p) s) := by
  have hSerdes : 2 < genCode g := by rcases hg with rfl | rfl <;> decide
  rw [exec_announceWindowEnd h ha hc]
  exact congrArg (fun c => Host.Outcome.next (announceEnds p s c)) (if_pos hSerdes)

/-! ### The end of the confirmation (R114) -/

theorem exec_genConfirmEnd (h : serves s = true) (ha : (port s p.val).attach = .confirm) :
    exec (.genConfirmEnd p) s = .next (enterRecovery (.root p) (port s p.val).confirm s) :=
  runs_of_guard (o := execGenConfirmEnd p s) (s := s) (f := fun s => enterRecovery (.root p) (port s p.val).confirm s) rfl (by
    rw [h]
    simpa using ha)

end

/-- Settles O34: the port behind the device that leaves its reset, and what the confirmed generation leads to. -/
theorem attachResetEnds : Obligations.AttachResetEnds := by
  unfold Obligations.AttachResetEnds
  intro s p h
  exact ⟨signallingEnd_announces h, signallingEnd_detects h,
    fun ha hc => ⟨fun g hg hu => announceEnd_confirms h ha hc hg hu, fun a hg => announceEnd_recovers h ha hc hg,
      fun g hg => announceEnd_fails h ha hc hg⟩,
    fun ha => ⟨_, exec_genConfirmEnd h ha, enterRecovery_recovers p _ s, fun hc => enterRecovery_reports hc _⟩⟩

end Sys2Proof.Machine
end

section
/-! PROOFS. Enumeration: the number and address a device takes, the requests of its steps, and what their results lead to
(R90, R94, R116, R117). -/

namespace Sys2Proof.Machine

section
variable {s v w : State} {p num n a : Nat} {P : PortId} {e : Enum} {c : Ctx} {y : Port} {d : Device}

/-! ### Requests of the part's own -/

theorem itemsWhere_none {f : Item → Bool} (h : ∀ e ∈ s.front.items, f e.2 = false) : itemsWhere s f = [] := by
  unfold itemsWhere
  rw [List.map_eq_nil_iff, List.filter_eq_nil_iff]
  intro e he
  rw [h e he]
  decide

theorem port_of_ports (h : v.topo.port = s.topo.port) (k : Nat) : port v k = port s k := by
  unfold port
  rw [h]

theorem handle_of_handles (h : v.topo.handle = s.topo.handle) (k : Nat) : handle v k = handle s k := by
  unfold handle
  rw [h]

/-- Where no work of the part's own waits or runs there is nothing to drop. -/
theorem dropRequests_none (h : Unasked s) (num : Nat) : dropRequests num s = s := by
  obtain ⟨hRequests, -, hItems⟩ := h
  have hState : { s with front := { s.front with requests := s.front.requests.filter fun r => r.1 != num } } = s := by
    rw [hRequests]
    have hFront : { s.front with requests := [] } = s.front := by rw [← hRequests]
    exact congrArg (fun f => { s with front := f }) hFront
  unfold dropRequests
  dsimp only
  rw [hState]
  exact (congrArg (fun l => each l (stopItem stDeviceGone) s) (itemsWhere_none fun e he => by rw [hItems e he]; rfl)).trans (each_nil _ _)

/-- The port stands at step `e` of its enumeration. -/
def Turns (p : Nat) (e : Enum) (s u : State) : Prop := port u p = { port s p with enum := some e } ∧ OtherPorts p s u ∧ u.out = s.out

/-- The part asks for work on a device, behind a change of its own to the port and the contexts. -/
theorem askWork_turns (hm : PortMoves p y [] s w) (hFront : w.front = s.front) (hFns : w.fns = s.fns) (hu : Unasked s)
    (hc : ctx? w num 0 false = some c) (r : Option U64) :
    (port (askWork num r w) p = y ∧ OtherPorts p s (askWork num r w) ∧ (askWork num r w).out = s.out)
      ∧ Asks s.front.nextItem num r (askWork num r w)
      ∧ (askWork num r w).topo.handle = w.topo.handle ∧ (askWork num r w).free = w.free
      ∧ ∃ c', ctx? (askWork num r w) num 0 false = some c' ∧ { c' with subNext := c.subNext } = c := by
  obtain ⟨hPort, hOut, hOthers⟩ := hm
  obtain ⟨hRequests, hShare, -⟩ := hu
  obtain ⟨hAsks, hAskOut, hPorts, -, hHandle, hFree, -, -, -, hCtx⟩ := askWork_does num r w c (by rw [hFront]; exact hRequests)
    ((shareFull_of hFront hFns 0).trans hShare) hc
  rw [hFront] at hAsks
  have hSame : ∀ k, port (askWork num r w) k = port w k := port_of_ports hPorts
  exact ⟨⟨(hSame p).trans hPort, fun k hk => (hSame k).trans (hOthers k hk), hAskOut.trans (hOut.trans (List.append_nil _))⟩, hAsks, hHandle, hFree,
    hCtx num 0 false c hc⟩

/-- The port notes the step, and the request of that step is asked for. -/
theorem enumStep_asks (hm : PortMoves p y [] s w) (hFront : w.front = s.front) (hFns : w.fns = s.fns) (hu : Unasked s)
    (hc : ctx? w num 0 false = some c) (f : Enum) (r : Option U64) :
    (port (askWork num r (modPort p (fun x => { x with enum := some f }) w)) p = { y with enum := some f }
        ∧ OtherPorts p s (askWork num r (modPort p (fun x => { x with enum := some f }) w))
        ∧ (askWork num r (modPort p (fun x => { x with enum := some f }) w)).out = s.out)
      ∧ Asks s.front.nextItem num r (askWork num r (modPort p (fun x => { x with enum := some f }) w))
      ∧ ∃ c', ctx? (askWork num r (modPort p (fun x => { x with enum := some f }) w)) num 0 false = some c'
          ∧ { c' with subNext := c.subNext } = c := by
  obtain ⟨hTurns, hAsks, -, -, hCtx⟩ := askWork_turns (hm.mod fun x => { x with enum := some f }) hFront hFns hu (num := num) (c := c) hc r
  exact ⟨hTurns, hAsks, hCtx⟩

/-! ### Addresses (R90) -/

theorem ctxKey_zero_num (num : Nat) : ctxKey num 0 false / 32 = num := by
  unfold ctxKey
  simp [ofBool]

theorem addressAs_ctx (num a : Nat) (v : State) (hc : ctx? v num 0 false = some c) :
    ctx? (addressAs num a v) num 0 false = some { c with waddr := a } := by
  refine (tfind_mapKeys (fun k c => if k / 32 == num then { c with waddr := a } else c) v.topo.ctx (ctxKey num 0 false)).trans ?_
  rw [show tfind v.topo.ctx (ctxKey num 0 false) = some c from hc, ctxKey_zero_num]
  simp

/-! ### Reset recovery ends (R115, R116) -/

theorem exec_resetRecoveryEnd (h : serves s = true) (ha : (port s P.val).attach = .recovery) (he : (port s P.val).enum = none) :
    exec (.resetRecoveryEnd (.root P)) s = .next (startEnum (.root P) s) :=
  runs_of_guard (o := execResetRecoveryEnd (.root P) s) (s := s) (f := startEnum (.root P)) rfl (by
    rw [h, show locAttach s (.root P) = .recovery from ha, show (port s (locPort s (.root P))).enum = none from he]
    rfl)

/-- SET-ADDRESS is asked for at address 0. -/
theorem setAddress_asks (hm : PortMoves p (port s p) [] s w) (hFront : w.front = s.front) (hFns : w.fns = s.fns) (hu : Unasked s)
    (hc : ctx? w e.num 0 false = some c) (hs : e.step = .setAddress) : Turns p e s (enumStep p e .setAddress w)
      ∧ Asks s.front.nextItem e.num (setupBits 2 0 e.waddr 0 0) (enumStep p e .setAddress w)
      ∧ (enumStep p e .setAddress w).topo.handle = w.topo.handle ∧ (enumStep p e .setAddress w).free = w.free
      ∧ ∃ c', ctx? (enumStep p e .setAddress w) e.num 0 false = some c' ∧ { c' with subNext := c.subNext } = { c with waddr := 0 } := by
  have hStep : { e with step := .setAddress } = e := by rw [← hs]
  have hNoted : PortMoves p { port s p with enum := some e } [] s
      (addressAs e.num 0 (modPort p (fun x => { x with enum := some { e with step := .setAddress } }) w)) := by
    rw [hStep]
    exact hm.mod fun x => { x with enum := some e }
  exact askWork_turns hNoted hFront hFns hu
    (addressAs_ctx e.num 0 (modPort p (fun x => { x with enum := some { e with step := .setAddress } }) w) hc) (setupBits 2 0 e.waddr 0 0)

/-- Taking a number changes the lists of free numbers alone. -/
theorem takeHandle_rest {t : State} (h : takeHandle s = some (n, t)) : t.front = s.front ∧ t.fns = s.fns ∧ t.out = s.out ∧ t.free = s.free
    ∧ t.topo.port = s.topo.port ∧ t.topo.handle = s.topo.handle := by
  unfold takeHandle at h
  split at h
  · cases h; exact ⟨rfl, rfl, rfl, rfl, rfl, rfl⟩
  · split at h
    · cases h; exact ⟨rfl, rfl, rfl, rfl, rfl, rfl⟩
    · split at h
      · cases h; exact ⟨rfl, rfl, rfl, rfl, rfl, rfl⟩
      · cases h

/-- The number is reserved for the device, and the context of its endpoint 0 is open. -/
def reserved (P : PortId) (n a : Nat) (t : State) : State :=
  openZero n (blankDevice (modHandle n (fun h => { h with use := .reserved }) t) P.val (.root P) a)
    (modHandle n (fun h => { h with use := .reserved }) t)

theorem startEnum_new {t : State} (hd : devAt s (.root P) = none) (ht : takeHandle s = some (n, t)) (ha : freeAddr s P.val = some a)
    (hc : freeCtxs s ≠ 0) : startEnum (.root P) s
      = enumStep P.val { loc := .root P, num := n, waddr := a, step := .setAddress } .setAddress (reserved P n a t) := by
  unfold startEnum
  rw [hd]
  dsimp only
  rw [ht]
  dsimp only
  rw [show freeAddr s (locPort s (.root P)) = some a from ha]
  exact if_neg hc

theorem reserved_ctx (P : PortId) (n a : Nat) (t : State) : ∃ c, ctx? (reserved P n a t) n 0 false = some c ∧ c.isOpen = true
    ∧ c.mps = BitVec.ofNat 11 (maxPayload (port t P.val).gen) ∧ c.index = Config.contextIndex t.free :=
  ⟨_, tfind_tput_same _ _ _, rfl, rfl, rfl⟩

theorem resetRecoveryEnd_new {t : State} (h : serves s = true) (hAttach : (port s P.val).attach = .recovery) (he : (port s P.val).enum = none)
    (hu : Unasked s) (hd : devAt s (.root P) = none) (ht : takeHandle s = some (n, t)) (ha : freeAddr s P.val = some a)
    (hc : freeCtxs s ≠ 0) : ∃ u, exec (.resetRecoveryEnd (.root P)) s = .next u
      ∧ Turns P.val { loc := .root P, num := n, waddr := a, step := .setAddress } s u
      ∧ Asks s.front.nextItem n (setupBits 2 0 a 0 0) u ∧ (handle u n).use = .reserved ∧ (handle u n).gen = (handle s n).gen
      ∧ u.free = s.free + 1 ∧ ∃ c, ctx? u n 0 false = some c ∧ c.isOpen = true ∧ c.waddr = 0
        ∧ c.mps = BitVec.ofNat 11 (maxPayload (port s P.val).gen) ∧ c.index = Config.contextIndex s.free := by
  obtain ⟨hFront, hFns, hOut, hFree, hPorts, hHandles⟩ := takeHandle_rest ht
  obtain ⟨c, hCtx, hOpen, hMps, hIndex⟩ := reserved_ctx P n a t
  obtain ⟨v, hv⟩ : ∃ v, v = reserved P n a t := ⟨_, rfl⟩
  have hSame : ∀ k, port v k = port s k := port_of_ports (by rw [hv]; exact hPorts)
  have hHandle : handle v n = { handle s n with use := .reserved } := by
    rw [hv]
    refine (tget_tput_same _ _ _ _).trans ?_
    rw [handle_of_handles hHandles n]
  have hMoves : PortMoves P.val (port s P.val) [] s v := by
    refine ⟨hSame _, ?_, fun k _ => hSame k⟩
    rw [hv, List.append_nil]
    exact hOut
  obtain ⟨hTurns, hAsks, hHandleKept, hFreeKept, c', hCtxKept, hCtxEq⟩ := setAddress_asks (c := c)
    (e := { loc := .root P, num := n, waddr := a, step := .setAddress }) hMoves (by rw [hv]; exact hFront) (by rw [hv]; exact hFns) hu
    (by rw [hv]; exact hCtx) rfl
  have hRun : exec (.resetRecoveryEnd (.root P)) s
      = .next (enumStep P.val { loc := .root P, num := n, waddr := a, step := .setAddress } .setAddress v) := by
    rw [exec_resetRecoveryEnd h hAttach he, startEnum_new hd ht ha hc, hv]
  obtain ⟨u, hu⟩ : ∃ u, u = enumStep P.val { loc := .root P, num := n, waddr := a, step := .setAddress } .setAddress v := ⟨_, rfl⟩
  rw [← hu] at hRun hTurns hAsks hHandleKept hFreeKept hCtxKept
  have hHandleNow : handle u n = { handle s n with use := .reserved } :=
    (handle_of_handles hHandleKept n).trans hHandle
  refine ⟨u, hRun, hTurns, hAsks, by rw [hHandleNow], by rw [hHandleNow], ?_, c', hCtxKept, ?_, ?_, ?_, ?_⟩
  · rw [hFreeKept, hv]
    exact congrArg (· + 1) hFree
  · exact (congrArg Ctx.isOpen hCtxEq).trans hOpen
  · exact congrArg Ctx.waddr hCtxEq
  · refine (congrArg Ctx.mps hCtxEq).trans (hMps.trans ?_)
    rw [port_of_ports hPorts]
  · refine (congrArg Ctx.index hCtxEq).trans (hIndex.trans ?_)
    rw [hFree]

theorem resetRecoveryEnd_again (h : serves s = true) (hAttach : (port s P.val).attach = .recovery) (he : (port s P.val).enum = none)
    (hu : Unasked s) (hd : devAt s (.root P) = some (n, d)) (hc : ctx? s n 0 false = some c) :
    ∃ u, exec (.resetRecoveryEnd (.root P)) s = .next u
      ∧ Turns P.val { loc := .root P, num := n, waddr := d.waddr, step := .setAddress, again := true } s u
      ∧ Asks s.front.nextItem n (setupBits 2 0 d.waddr 0 0) u ∧ ∃ c, ctx? u n 0 false = some c ∧ c.waddr = 0 := by
  have hStart : startEnum (.root P) s
      = enumStep P.val { loc := .root P, num := n, waddr := d.waddr, step := .setAddress, again := true } .setAddress s := by
    unfold startEnum
    rw [hd]
    rfl
  obtain ⟨hTurns, hAsks, -, -, c', hCtx, hCtxEq⟩ := setAddress_asks (c := c)
    (e := { loc := .root P, num := n, waddr := d.waddr, step := .setAddress, again := true }) (PortMoves.refl P.val s) rfl rfl hu hc rfl
  exact ⟨_, (exec_resetRecoveryEnd h hAttach he).trans (congrArg _ hStart), hTurns, hAsks, c', hCtx, congrArg Ctx.waddr hCtxEq⟩

/-! ### The steps that follow (R116, R117) -/

theorem enumAddressWaitEnd_asks (h : serves s = true) (he : (port s P.val).enum = some e) (hu : Unasked s) (hc : ctx? s e.num 0 false = some c)
    (hs : e.step = .addressWait) : ∃ u, exec (.enumAddressWaitEnd P) s = .next u ∧ Turns P.val { e with step := .getIdent } s u
      ∧ Asks s.front.nextItem e.num (setupBits 3 0x80 0x0100 0 32) u := by
  have hRun : exec (.enumAddressWaitEnd P) s = .next (enumStep P.val e .getIdent s) := by
    show execEnumAddressWaitEnd P s = _
    unfold execEnumAddressWaitEnd
    rw [guarded_of h, he]
    dsimp only
    rw [hs]
    rfl
  obtain ⟨hTurns, hAsks, -⟩ := enumStep_asks (PortMoves.refl P.val s) rfl rfl hu hc { e with step := .getIdent } (setupBits 3 0x80 0x0100 0 32)
  exact ⟨_, hRun, hTurns, hAsks⟩

/-- What the result of a control transfer of enumeration leads to, its item being gone. -/
def stepEnds (p : Nat) (e : Enum) (data : List Byte) (s : State) : State :=
  match e.step with
  | .setAddress => enumStep p e .addressWait s
  | .getIdent => gotIdent p e data s
  | .getHub =>
    if !hubOk (locGen s e.loc) data then enumFail e.loc s
    else if freeCtxs s < 1 then refuseAt e.loc (contextsExhausted p) s
    else enumStep p { e with hubDesc := data } .setConfig (openEp e.num (enumDevice s p { e with hubDesc := data }) statusCtx s)
  | .getEps =>
    if !epsOk (locGen s e.loc) (idNumEp e.ident) data then enumFail e.loc s
    else if freeCtxs s < idNumEp e.ident then refuseAt e.loc (contextsExhausted p) s
    else enumStep p { e with eps := data } .setConfig
      (each (epList (idNumEp e.ident) data) (openEp e.num (enumDevice s p { e with eps := data })) s)
  | .setConfig => gotConfig p e s
  | .portPower q => modPort p (fun x => { x with enum := some { e with step := .powerWait q } }) s
  | _ => s

theorem stepEnds_ident (hs : e.step = .getIdent) {data : List Byte} : stepEnds p e data s = gotIdent p e data s := by
  unfold stepEnds
  rw [hs]

/-- The step is one of a control transfer: it waits for no time. -/
def Transfers (e : Enum) : Prop := e.step ≠ .addressWait ∧ ∀ q, e.step ≠ .powerWait q

theorem exec_enumTransferDone (h : serves s = true) (he : (port s P.val).enum = some e) (hu : Unasked s) (ht : Transfers e)
    (res : XferResult) (data : List Byte) : exec (.enumTransferDone P res data) s
      = .next (if res != .ok then enumFail e.loc s else stepEnds P.val e data s) := by
  show execEnumTransferDone P res data s = _
  unfold execEnumTransferDone enumDone
  rw [guarded_of h, he]
  dsimp only
  rw [dropRequests_none hu, ite_self]
  obtain ⟨hNoAddress, hNoPower⟩ := ht
  refine congrArg _ ((if_neg ?_).trans rfl)
  cases hs : e.step with
  | addressWait => exact absurd hs hNoAddress
  | powerWait q => exact absurd hs (hNoPower q)
  | _ => simp

theorem setAddress_done (h : serves s = true) (he : (port s P.val).enum = some e) (hu : Unasked s) (hc : ctx? s e.num 0 false = some c)
    (hs : e.step = .setAddress) (data : List Byte) : ∃ u, exec (.enumTransferDone P .ok data) s = .next u
      ∧ Turns P.val { e with step := .addressWait } s u ∧ ∃ c, ctx? u e.num 0 false = some c ∧ c.waddr = e.waddr := by
  have hRun : exec (.enumTransferDone P .ok data) s = .next (enumStep P.val e .addressWait s) := by
    rw [exec_enumTransferDone h he hu (by simp [Transfers, hs])]
    unfold stepEnds
    rw [hs]
    rfl
  obtain ⟨hPort, hOut, hOthers⟩ := moves_modPort P.val (fun x => { x with enum := some { e with step := .addressWait } }) s
  exact ⟨_, hRun, ⟨hPort, hOthers, hOut.trans (List.append_nil _)⟩, _,
    addressAs_ctx e.num e.waddr (modPort P.val (fun x => { x with enum := some { e with step := .addressWait } }) s) hc, rfl⟩

theorem failed_step (h : serves s = true) (he : (port s P.val).enum = some e) (hu : Unasked s) {res : XferResult} (hr : res ≠ .ok)
    (ht : Transfers e) (data : List Byte) : exec (.enumTransferDone P res data) s = .next (enumFail e.loc s) :=
  (exec_enumTransferDone h he hu ht res data).trans (congrArg _ (if_pos (by simpa using hr)))

/-- The identity of a device that is no hub. -/
theorem getIdent_done (h : serves s = true) (he : (port s P.val).enum = some e) (hu : Unasked s) (hc : ctx? s e.num 0 false = some c)
    (hs : e.step = .getIdent) (ha : e.again = false) {data : List Byte} (hOk : identOk (locGen s e.loc) data = true)
    (hHub : idIsHub data = false) : ∃ u, exec (.enumTransferDone P .ok data) s = .next u
      ∧ (idNumEp data = 0 → Turns P.val { e with ident := data, step := .setConfig } s u ∧ Asks s.front.nextItem e.num (setupBits 4 0 1 0 0) u)
      ∧ (idNumEp data ≠ 0 → Turns P.val { e with ident := data, step := .getEps } s u
          ∧ Asks s.front.nextItem e.num (setupBits 3 0x80 0x0200 0 (8 * idNumEp data)) u)
      ∧ ∃ c, ctx? u e.num 0 false = some c ∧ c.mps = BitVec.ofNat 11 (idEp0Mps data) := by
  obtain ⟨w, hw⟩ : ∃ w, w = modCtx (ctxKey e.num 0 false) (fun c => { c with mps := BitVec.ofNat 11 (idEp0Mps data) }) s := ⟨_, rfl⟩
  have hCtx : ctx? w e.num 0 false = some { c with mps := BitVec.ofNat 11 (idEp0Mps data) } := by
    rw [hw]
    refine (tfind_modCtx_all _ _ _ _).trans ((if_pos rfl).trans ?_)
    rw [show tfind s.topo.ctx (ctxKey e.num 0 false) = some c from hc]
    rfl
  obtain ⟨-, hFront, hOut, hPorts⟩ := modCtx_rest (ctxKey e.num 0 false) (fun c => { c with mps := BitVec.ofNat 11 (idEp0Mps data) }) s
  rw [← hw] at hFront hOut hPorts
  have hFns : w.fns = s.fns := by
    rw [hw]
    exact modCtx_keeps (bl := .fns) _ _ (Keeps.refl .fns s) (by decide)
  have hMoves : PortMoves P.val (port s P.val) [] s w :=
    ⟨port_of_ports hPorts _, hOut.trans (List.append_nil _).symm, fun k _ => port_of_ports hPorts k⟩
  have hRun : exec (.enumTransferDone P .ok data) s = .next (if idNumEp data = 0 then enumStep P.val { e with ident := data } .setConfig w
      else enumStep P.val { e with ident := data } .getEps w) := by
    rw [exec_enumTransferDone h he hu (by simp [Transfers, hs])]
    refine congrArg _ ((stepEnds_ident hs).trans ?_)
    unfold gotIdent afterIdent
    rw [if_neg (by rw [hOk]; decide), if_neg (by rw [ha]; decide)]
    dsimp only
    rw [if_neg (by rw [hHub]; decide), ← hw]
  by_cases hn : idNumEp data = 0
  · obtain ⟨hTurns, hAsks, c', hCtxKept, hCtxEq⟩ := enumStep_asks hMoves hFront hFns hu hCtx { e with ident := data, step := .setConfig }
      (setupBits 4 0 1 0 0)
    rw [if_pos hn] at hRun
    exact ⟨_, hRun, fun _ => ⟨hTurns, hAsks⟩, fun hne => absurd hn hne, c', hCtxKept, congrArg Ctx.mps hCtxEq⟩
  · obtain ⟨hTurns, hAsks, c', hCtxKept, hCtxEq⟩ := enumStep_asks hMoves hFront hFns hu hCtx { e with ident := data, step := .getEps }
      (setupBits 3 0x80 0x0200 0 (8 * idNumEp data))
    rw [if_neg hn] at hRun
    exact ⟨_, hRun, fun h0 => absurd h0 hn, fun _ => ⟨hTurns, hAsks⟩, c', hCtxKept, congrArg Ctx.mps hCtxEq⟩

theorem hubPowerOnWaitEnd_asks {q : Nat} (h : serves s = true) (he : (port s P.val).enum = some e) (hu : Unasked s)
    (hc : ctx? s e.num 0 false = some c) (hs : e.step = .powerWait q) (hq : q < hubPortsOf e.hubDesc) :
    ∃ u, exec (.hubPowerOnWaitEnd P) s = .next u ∧ Turns P.val { e with step := .portPower (q + 1) } s u
      ∧ Asks s.front.nextItem e.num (setupBits 0x22 6 3 (q + 1) 0) u := by
  have hRun : exec (.hubPowerOnWaitEnd P) s = .next (enumStep P.val e (.portPower (q + 1)) s) := by
    show execHubPowerOnWaitEnd P s = _
    unfold execHubPowerOnWaitEnd
    rw [guarded_of h, he]
    dsimp only
    rw [hs]
    exact congrArg _ (if_pos hq)
  obtain ⟨hTurns, hAsks, -⟩ := enumStep_asks (PortMoves.refl P.val s) rfl rfl hu hc { e with step := .portPower (q + 1) }
    (setupBits 0x22 6 3 (q + 1) 0)
  exact ⟨_, hRun, hTurns, hAsks⟩

theorem exec_handleReuseTimeout (h : live s = true) (i : Fin 4096) (hr : s.topo.reuse.any (fun e => e.1 == i.val) = true) :
    exec (.handleReuseTimeout i) s
      = .next (complete i.val false { s with topo := { s.topo with reuse := s.topo.reuse.filter fun e => e.1 != i.val } }) :=
  runs_of_guard (o := execHandleReuseTimeout i s) (s := s)
    (f := fun s => complete i.val false { s with topo := { s.topo with reuse := s.topo.reuse.filter fun e => e.1 != i.val } }) rfl
    (by rw [h, hr]; rfl)

end

/-- Settles O35: each step notes itself on the port and asks for its request, which is at work at once. -/
theorem attachEnumeration : Obligations.AttachEnumeration := by
  unfold Obligations.AttachEnumeration
  intro s P
  exact ⟨fun h hAttach he hu => ⟨fun n t a hd ht ha hc => resetRecoveryEnd_new h hAttach he hu hd ht ha hc,
      fun n d c hd hc => resetRecoveryEnd_again h hAttach he hu hd hc⟩,
    fun e c h he hu hc => ⟨enumAddressWaitEnd_asks h he hu hc, setAddress_done h he hu hc,
      fun data hs ha hOk hHub => getIdent_done h he hu hc hs ha hOk hHub,
      fun res data hr hs => failed_step h he hu hr (by rcases hs with hs | hs | hs | hs | hs <;> simp [Transfers, hs]) data,
      fun q hs hq => hubPowerOnWaitEnd_asks h he hu hc hs hq⟩,
    fun i h hr => exec_handleReuseTimeout h i hr⟩

end Sys2Proof.Machine
end

section
/-! PROOFS. Hubs: status changes that are read and acted on, polls, and the admission that ends them (R99, R100, R103). -/

namespace Sys2Proof.Machine

/-! ### Fields and bits -/

/-- A bit of a field is the bit of the word at its place. -/
theorem testBit_field {w : Nat} (x : BitVec w) (lo n i : Nat) (h : i < n) : (field x lo n).testBit i = bit x (lo + i) := by
  unfold field bit BitVec.getLsbD
  rw [Nat.testBit_mod_two_pow, Nat.testBit_div_two_pow, Nat.add_comm i lo]
  simp [h]

section
variable {s u v w : State} {i num : Nat} {a : Option U64} {c : Ctx} {hub : Fin 4096} {d : Device} {q : Fin 16} {m : U16} {x y : U32}

/-! ### Work that has been asked for stays -/

/-- The contexts of `w` are those of `v`, but for counts of submissions. -/
def CtxKept (v w : State) : Prop :=
  ∀ n ep d c, ctx? v n ep d = some c → ∃ c', ctx? w n ep d = some c' ∧ { c' with subNext := c.subNext } = c

theorem Asks.kept (h : Asks i num a v) (hc : CtxKept v w) (hh : w.topo.handle = v.topo.handle) (hi : item? w i = item? v i) : Asks i num a w := by
  obtain ⟨c, x, hCtx, hItem, hFunc, hSlot, hLevel, hStatus, hSetup, hPoll, hPosted⟩ := h
  obtain ⟨c', hNow, hEq⟩ := hc _ _ _ _ hCtx
  have hPort : c'.port = c.port := (congrArg Ctx.port hEq :)
  have hWord : handleWord w num = handleWord v num := by
    unfold handleWord
    rw [handle_of_handles hh]
  refine ⟨c', x, hNow, hi.trans hItem, hFunc, hSlot, hLevel, hStatus, hSetup, hPoll, hPosted.trans (congrArg some ?_)⟩
  unfold requestBody
  cases a with
  | none => dsimp only; rw [hPort, hWord]
  | some b => dsimp only; rw [hPort, hWord]

theorem CtxKept.of_ctx (h : w.topo.ctx = v.topo.ctx) : CtxKept v w := fun n ep d c hc => ⟨c, by unfold ctx?; rw [h]; exact hc, rfl⟩

/-- A port event leaves the contexts, numbers and items. -/
theorem portEvent_asks (h : Asks i num a v) (p b : Nat) : Asks i num a (portEvent p b v) := by
  have hReport : ∀ r : Report, (addReport r v).topo.ctx = v.topo.ctx ∧ (addReport r v).topo.handle = v.topo.handle ∧ (addReport r v).front = v.front := by
    intro r
    unfold addReport
    split
    · exact ⟨rfl, rfl, rfl⟩
    · exact ⟨rfl, rfl, rfl⟩
  obtain ⟨hCtx, hHandle, hFront⟩ := hReport { kind := 3, port := p, event := b + 1 }
  have hTopo : (portEvent p b v).topo = (addReport { kind := 3, port := p, event := b + 1 } v).topo := raisePort_topo p b _
  have hItems : (portEvent p b v).front = v.front :=
    (show (raisePort p b _).front = _ from raisePort_keeps (bl := .front) p b (Keeps.refl .front _) (by decide)).trans hFront
  exact h.kept (CtxKept.of_ctx ((congrArg Topo.ctx hTopo).trans hCtx)) ((congrArg Topo.handle hTopo).trans hHandle)
    (congrArg (fun f : Front => tfind f.items i) hItems)

/-! ### Requests to a hub (R101) -/

theorem dev_of_hub (hd : hub? s num = some d) : dev? s num = some d ∧ d.isHub = true := by
  unfold hub? at hd
  cases hx : dev? s num with
  | none => rw [hx] at hd; cases hd
  | some y =>
    rw [hx] at hd
    by_cases hHub : y.isHub = true
    · rw [show (some y).bind _ = (if y.isHub then some y else none) from rfl, if_pos hHub] at hd
      cases hd
      exact ⟨rfl, hHub⟩
    · rw [show (some y).bind _ = (if y.isHub then some y else none) from rfl, if_neg hHub] at hd
      cases hd

theorem hubRequest_eq (hd : dev? s num = some d) (code byte1 arg0 q : Nat) :
    hubRequest num code byte1 arg0 q s = request num code byte1 arg0 q (if 0x80 ≤ byte1 then 4 else 0) s := by
  unfold hubRequest
  rw [hd]

/-- The control register's port is the hub's own. -/
def hubRoot (s : State) (num : Nat) : Nat := match dev? s num with | some d => d.port | none => 0

/-- What HUB_STATUS_CHANGE does with the hub's own status. -/
def hubChanged (hub : Fin 4096) (m : U16) (x : U32) (s : State) : State :=
  if bit m 0 then
    if bit x 16 && bit x 0 then portEvent (hubRoot s hub.val) 13 (hubRequest hub.val 0x20 0x84 0 0 s) else hubRequest hub.val 0x20 0x84 0 0 s
  else s

/-- What HUB_STATUS_CHANGE does with the words of the hub's ports. -/
def portsChanged (hub : Fin 4096) (m : U16) (words : List (Fin 16 × U32)) (s : State) : State :=
  each (words.filter fun e => bit m e.1.val && e.1.val != 0 && locExists s (.hub hub e.1))
    (fun e s => if (hub? s hub.val).isSome then hubWord hub e.1 e.2 s else s) s

theorem exec_hubStatusChange (h : serves s = true) (hd : hub? s hub.val = some d) (m : U16) (x : U32) (words : List (Fin 16 × U32)) :
    exec (.hubStatusChange hub m x words) s = .next (portsChanged hub m words (hubChanged hub m x s)) :=
  runs_of_guard (o := execHubStatusChange hub m x words s) (s := s) (f := fun s => portsChanged hub m words (hubChanged hub m x s)) rfl
    (by rw [h, hd]; rfl)

theorem portsChanged_nil (hub : Fin 4096) (m : U16) (s : State) : portsChanged hub m [] s = s := rfl

theorem hubStatus_unchanged (h : serves s = true) (hd : hub? s hub.val = some d) (hm : bit m 0 = false) (x : U32) :
    exec (.hubStatusChange hub m x []) s = .next s := by
  rw [exec_hubStatusChange h hd, portsChanged_nil]
  exact congrArg _ (if_neg (by rw [hm]; decide))

theorem hubStatus_read (h : serves s = true) (hd : hub? s hub.val = some d) (hr : s.front.requests = []) (hf : shareFull s 0 = false)
    (hc : ctx? s hub.val 0 false = some c) (hm : bit m 0 = true) (hx : (bit x 16 && bit x 0) = false) :
    ∃ u, exec (.hubStatusChange hub m x []) s = .next u ∧ Asks s.front.nextItem hub.val (setupBits 0x20 0x84 0 0 4) u
      ∧ u.out = s.out ∧ u.topo.port = s.topo.port ∧ u.topo.dev = s.topo.dev := by
  obtain ⟨hDev, -⟩ := dev_of_hub hd
  have hRun : exec (.hubStatusChange hub m x []) s = .next (request hub.val 0x20 0x84 0 0 4 s) := by
    rw [exec_hubStatusChange h hd, portsChanged_nil]
    exact congrArg _ ((if_pos hm).trans ((if_neg (by rw [hx]; decide)).trans (hubRequest_eq hDev _ _ _ _)))
  obtain ⟨hAsks, hOut, hPort, hDevs, -⟩ := askWork_does hub.val (setupBits 0x20 0x84 0 0 4) s c hr hf hc
  exact ⟨_, hRun, hAsks, hOut, hPort, hDevs⟩

theorem hubStatus_power (h : serves s = true) (hd : hub? s hub.val = some d) (hr : s.front.requests = []) (hf : shareFull s 0 = false)
    (hc : ctx? s hub.val 0 false = some c) (hm : bit m 0 = true) (hx : (bit x 16 && bit x 0) = true) :
    ∃ u, exec (.hubStatusChange hub m x []) s = .next u ∧ Asks s.front.nextItem hub.val (setupBits 0x20 0x84 0 0 4) u
      ∧ (d.port < 64 → bit (evtWord u d.port) 13 = true) := by
  obtain ⟨hDev, -⟩ := dev_of_hub hd
  have hRoot : hubRoot s hub.val = d.port := by
    unfold hubRoot
    rw [hDev]
  have hRun : exec (.hubStatusChange hub m x []) s = .next (portEvent d.port 13 (request hub.val 0x20 0x84 0 0 4 s)) := by
    rw [exec_hubStatusChange h hd, portsChanged_nil]
    refine congrArg _ ((if_pos hm).trans ((if_pos hx).trans ?_))
    rw [hRoot, hubRequest_eq hDev]
    rfl
  obtain ⟨hAsks, -⟩ := askWork_does hub.val (setupBits 0x20 0x84 0 0 4) s c hr hf hc
  exact ⟨_, hRun, portEvent_asks hAsks d.port 13, fun hp => portEvent_bit ⟨d.port, hp⟩ 13 (by decide) _⟩

/-! ### The status of a hub port whose enable state has changed (R103) -/

/-- Of the change bits, C_ENABLE alone is set. -/
theorem enableChange_bits (hv : field y 16 7 = 2) : ∀ i < 7, bit y (16 + i) = decide (i = 1) := by
  intro i hi
  rw [← testBit_field y 16 7 i hi, hv]
  have hTwo : ∀ j < 7, Nat.testBit 2 j = decide (j = 1) := by decide
  exact hTwo i hi

/-- GET-PORT-STATUS and CLEAR-FEATURE C_ENABLE have been asked for. -/
def enableCleared (hub : Fin 4096) (q : Fin 16) (s : State) : State :=
  request hub.val 0x23 0x06 0x11 q.val 0 (request hub.val 0x21 0x86 0 q.val 4 s)

/-- With C_ENABLE alone the status is read, the change cleared, and the enable state noted. -/
theorem hubWord_enable (hd : dev? s hub.val = some d) (hd2 : dev? (request hub.val 0x21 0x86 0 q.val 4 s) hub.val = some d)
    (hPort : hubPort (enableCleared hub q s) hub.val q.val = hubPort s hub.val q.val) (hv : field y 16 7 = 2)
    (hc : bit y 0 = true ∨ (hubPort s hub.val q.val).connect = false) :
    hubWord hub q y s = modHubPort hub.val q.val (fun x => { x with enabled := bit y 1 }) (enableCleared hub q s) := by
  have hBits := enableChange_bits hv
  have hCleared : each ((List.range 7).filter fun i => bit y (16 + i)) (fun i s => clearFeature hub.val (0x10 + i) q.val s)
      (hubRequest hub.val 0x21 0x86 0 q.val s) = enableCleared hub q s := by
    rw [List.filter_congr (q := fun i => decide (i = 1)) fun i hi => hBits i (List.mem_range.mp hi), hubRequest_eq hd]
    exact hubRequest_eq hd2 _ _ _ _
  have hConnect : (bit y 16 || ((hubPort (enableCleared hub q s) hub.val q.val).connect && !bit y 0)) = false := by
    rw [hPort, hBits 0 (by decide)]
    rcases hc with hc | hc <;> rw [hc] <;> simp
  unfold hubWord
  dsimp only
  rw [hCleared, hConnect, hBits 1 (by decide), hBits 2 (by decide), hBits 3 (by decide), hBits 4 (by decide), hBits 5 (by decide)]
  rfl

theorem hubPort_modHubPort {g : HubPort → HubPort} (hd : dev? v num = some d) (k : Nat) :
    hubPort (modHubPort num k g v) num k = g (hubPort v num k) := by
  unfold modHubPort modDev hubPort
  rw [hd]
  dsimp only
  rw [dev_setDev, if_pos rfl]
  exact tget_tput_same _ _ _ _

/-- A change to a device leaves contexts, numbers and items. -/
theorem modDev_asks (h : Asks i num a v) (n : Nat) (g : Device → Device) : Asks i num a (modDev n g v) := by
  unfold modDev
  split
  · exact h.kept (CtxKept.of_ctx rfl) rfl rfl
  · exact h

theorem portsChanged_one (hd : hub? s hub.val = some d) (hm : bit m q.val = true) (h1 : 1 ≤ q.val) (hq : q.val ≤ hubPortsOf d.hubDesc) (y : U32) :
    portsChanged hub m [(q, y)] s = hubWord hub q y s := by
  have hThere : (bit m q.val && q.val != 0 && locExists s (.hub hub q)) = true := by
    unfold locExists
    dsimp only
    rw [hm, hd]
    simp [h1, hq, Nat.ne_of_gt h1]
  unfold portsChanged
  rw [List.filter_cons_of_pos (by exact hThere)]
  exact if_pos (by rw [hd]; rfl)

theorem hubStatus_enable (h : serves s = true) (hd : hub? s hub.val = some d) (hr : s.front.requests = []) (hf : shareFull s 0 = false)
    (hc : ctx? s hub.val 0 false = some c) (hm0 : bit m 0 = false) (hm : bit m q.val = true) (h1 : 1 ≤ q.val)
    (hq : q.val ≤ hubPortsOf d.hubDesc) (hv : field y 16 7 = 2) (hcon : bit y 0 = true ∨ (hubPort s hub.val q.val).connect = false)
    (hf2 : shareFull (request hub.val 0x21 0x86 0 q.val 4 s) 0 = false) (x : U32) :
    ∃ u, exec (.hubStatusChange hub m x [(q, y)]) s = .next u ∧ Asks s.front.nextItem hub.val (setupBits 0x21 0x86 0 q.val 4) u
      ∧ Asks (s.front.nextItem + 1) hub.val (setupBits 0x23 6 0x11 q.val 0) u
      ∧ hubPort u hub.val q.val = { hubPort s hub.val q.val with enabled := bit y 1 } := by
  obtain ⟨hDev, -⟩ := dev_of_hub hd
  obtain ⟨hAsks, -, -, hDevs, hHandle, -, hReqs, hNext, -, hCtx⟩ := askWork_does hub.val (setupBits 0x21 0x86 0 q.val 4) s c hr hf hc
  obtain ⟨v, hv1⟩ : ∃ v, v = request hub.val 0x21 0x86 0 q.val 4 s := ⟨_, rfl⟩
  rw [show askWork hub.val (setupBits 0x21 0x86 0 q.val 4) s = v from hv1.symm] at hAsks hDevs hHandle hReqs hNext hCtx
  obtain ⟨c1, hCtx1, -⟩ := hCtx _ _ _ _ hc
  obtain ⟨hAsks2, -, -, hDevs2, hHandle2, -, -, -, hItems2, hCtx2⟩ := askWork_does hub.val (setupBits 0x23 6 0x11 q.val 0) v c1 hReqs
    (by rw [hv1]; exact hf2) hCtx1
  obtain ⟨w, hw⟩ : ∃ w, w = enableCleared hub q s := ⟨_, rfl⟩
  rw [show askWork hub.val (setupBits 0x23 6 0x11 q.val 0) v = w from by rw [hw, hv1]; rfl] at hAsks2 hDevs2 hHandle2 hItems2 hCtx2
  have hDev1 : dev? v hub.val = some d := (congrArg (fun l => tfind l hub.val) hDevs).trans hDev
  have hDev2 : dev? w hub.val = some d := (congrArg (fun l => tfind l hub.val) hDevs2).trans hDev1
  have hPort : hubPort w hub.val q.val = hubPort s hub.val q.val := by
    unfold hubPort
    rw [hDev2, hDev]
  have hBoth : Asks s.front.nextItem hub.val (setupBits 0x21 0x86 0 q.val 4) w :=
    hAsks.kept hCtx2 hHandle2 (hItems2 _ (by rw [hNext]; omega))
  rw [hNext] at hAsks2
  have hRun : exec (.hubStatusChange hub m x [(q, y)]) s = .next (modHubPort hub.val q.val (fun x => { x with enabled := bit y 1 }) w) := by
    rw [exec_hubStatusChange h hd, show hubChanged hub m x s = s from if_neg (by rw [hm0]; decide), portsChanged_one hd hm h1 hq,
      hubWord_enable hDev (by rw [← hv1]; exact hDev1) (by rw [← hw]; exact hPort) hv hcon, hw]
  refine ⟨_, hRun, modDev_asks hBoth _ _, modDev_asks hAsks2 _ _, ?_⟩
  rw [hubPort_modHubPort hDev2, hPort]

/-! ### Polls (R100) -/

theorem hubPolled_pending (h : serves s = true) (hd : hub? s hub.val = some d) (hp : d.polled = false ∨ pollPending s hub.val = true) :
    exec (.hubPolled hub) s = .next s := by
  show execHubPolled hub s = _
  unfold execHubPolled
  rw [guarded_of h, hd]
  exact congrArg _ (if_neg (by rcases hp with hp | hp <;> rw [hp] <;> simp))

theorem hubPolled_asks (h : serves s = true) (hd : hub? s hub.val = some d) (hp : d.polled = true) (hn : pollPending s hub.val = false)
    (hr : s.front.requests = []) (hf : shareFull s 0 = false) (hc : ctx? s hub.val 0 false = some c) :
    ∃ u, exec (.hubPolled hub) s = .next u ∧ Asks s.front.nextItem hub.val none u ∧ u.out = s.out
      ∧ u.topo.port = s.topo.port ∧ u.topo.dev = s.topo.dev := by
  have hRun : exec (.hubPolled hub) s = .next (askWork hub.val none s) := by
    show execHubPolled hub s = _
    unfold execHubPolled
    rw [guarded_of h, hd]
    exact congrArg _ (if_pos (by rw [hp, hn]; rfl))
  obtain ⟨hAsks, hOut, hPort, hDevs, -⟩ := askWork_does hub.val none s c hr hf hc
  exact ⟨_, hRun, hAsks, hOut, hPort, hDevs⟩

theorem exec_hubAdmitRetry (h : live s = true) (hd : hub? s hub.val = some d) : exec (.hubAdmitRetry hub) s
    = .next (if d.polled then (admitStatus hub.val s).elim s (modDev hub.val fun x => { x with polled := false }) else s) := by
  show execHubAdmitRetry hub s = _
  unfold execHubAdmitRetry
  rw [guarded_of h, hd]
  dsimp only
  cases admitStatus hub.val s with
  | none => rfl
  | some t => rfl

end

/-- Settles O36: the requests that a status change asks for, and C_ENABLE among the change bits. -/
theorem hubStatus : Obligations.HubStatus := by
  unfold Obligations.HubStatus
  intro s hub d hd
  exact ⟨fun c h hr hf hc => ⟨fun m w hm => hubStatus_unchanged h hd hm w, fun m w hm hx => hubStatus_read h hd hr hf hc hm hx,
      fun m w hm hx => hubStatus_power h hd hr hf hc hm hx,
      fun m w v q hm0 hm h1 hq hv hcon hf2 => hubStatus_enable h hd hr hf hc hm0 hm h1 hq hv hcon hf2 w⟩,
    fun h => ⟨hubPolled_pending h hd, fun c hp hn hr hf hc => hubPolled_asks h hd hp hn hr hf hc⟩,
    fun h => ⟨fun hp => (exec_hubAdmitRetry h hd).trans (congrArg _ (if_neg (by rw [hp]; decide))),
      fun ha => (exec_hubAdmitRetry h hd).trans (congrArg _ (by rw [ha]; exact ite_self s)),
      fun t hp ha => (exec_hubAdmitRetry h hd).trans (congrArg _ ((if_pos hp).trans (by rw [ha]; rfl)))⟩⟩

end Sys2Proof.Machine
end

section
/-! PROOFS. N4 and N5 links: training, low power, commands without a reply, and the loss of a link (R83 to R88, R113, R129, R134). -/

namespace Sys2Proof.Machine

section
variable {s v : State} {p : PortId} {l : List Output} {x y : Port}

/-! ### What the operations of a link do to its port -/

/-- The port behind a reply to the command `code`. -/
def repliedPort (code : Nat) (x : Port) : Port :=
  { x with cmdWait := match x.cmdWait with
    | some (c, n) => if c = code then none else some (c, n)
    | none => none }

theorem replied_moves (h : PortMoves p.val y l s v) (code : Nat) : PortMoves p.val (repliedPort code y) l s (replied p.val code v) := h.mod _

/-- The port whose link has entered RECOVERY. -/
def recovering (x : Port) : Port :=
  { x with link := .recovery, cmdWait := none, recoveries := if x.recoveries = 255 then 255 else x.recoveries + 1 }

/-- A link without a transaction enters RECOVERY. -/
theorem linkRecovery_moves (h : PortMoves p.val y l s v) (ht : y.txn = none) : PortMoves p.val (recovering y)
    (l ++ [.line p.val .trainingSets]) s (linkRecovery p.val v) := by
  have hQuiet : lineFails p.val v = v := by
    unfold lineFails
    rw [h.1, ht]
  unfold linkRecovery
  dsimp only
  rw [hQuiet]
  exact (h.mod _).emit _

/-! ### Training (R83 to R85, R113) -/

theorem exec_detectPulse (h : serves s = true) (hl : (port s p.val).link = .detect) :
    exec (.detectPulse p) s = .next { s with out := s.out ++ [.line p.val .detectPulse] } :=
  runs_of_guard (o := execDetectPulse p s) (s := s) (f := emit (.line p.val .detectPulse)) rfl (by rw [h, hl]; rfl)

theorem farEnd_polls (h : serves s = true) (hl : (port s p.val).link = .detect) : ∃ u, exec (.farEndTermination p) s = .next u
    ∧ PortMoves p.val { port s p.val with
        farEnd := true, link := .polling, attach := if (port s p.val).attach == .detect then .training else (port s p.val).attach }
      [.line p.val .trainingSets] s u := by
  have hNoted := moves_modPort p.val (fun x => { x with farEnd := true }) s
  obtain ⟨v, hv⟩ : ∃ v, v = modPort p.val (fun x => { x with farEnd := true }) s := ⟨_, rfl⟩
  rw [← hv] at hNoted
  have hRun : exec (.farEndTermination p) s = .next (emit (.line p.val .trainingSets)
      (modPort p.val (fun x => { x with link := .polling, attach := if x.attach == .detect then .training else x.attach }) v)) := by
    show execFarEndTermination p s = _
    unfold execFarEndTermination
    rw [guarded_of h]
    dsimp only
    rw [← hv, hNoted.1]
    exact congrArg _ (if_pos (by rw [hl]; rfl))
  exact ⟨_, hRun, (hNoted.mod _).emit _⟩

theorem farEnd_noted (h : serves s = true) (hl : (port s p.val).link ≠ .detect) (he : (port s p.val).enabled = true) :
    ∃ u, exec (.farEndTermination p) s = .next u ∧ PortMoves p.val { port s p.val with farEnd := true } [] s u := by
  have hNoted := moves_modPort p.val (fun x => { x with farEnd := true }) s
  obtain ⟨v, hv⟩ : ∃ v, v = modPort p.val (fun x => { x with farEnd := true }) s := ⟨_, rfl⟩
  rw [← hv] at hNoted
  have hRun : exec (.farEndTermination p) s = .next v := by
    show execFarEndTermination p s = _
    unfold execFarEndTermination
    rw [guarded_of h]
    dsimp only
    rw [← hv, hNoted.1]
    exact congrArg _ ((if_neg (by simpa using hl)).trans (if_pos (by rw [he]; rfl)))
  exact ⟨_, hRun, hNoted⟩

/-- What TRAINING_SET_LOCK does, by the state of the link. -/
def trainingLocks (p : PortId) (s : State) : State :=
  if (port s p.val).link == .polling then
    sendCmd p.val 0x10 (modPort p.val (fun x => { x with link := .config, capGot := false, doneSent := false, doneGot := false }) s)
  else if (port s p.val).link == .recovery then
    if (port s p.val).fromLowPower then sendCmd p.val 0x30 (modPort p.val (fun x => { x with fromLowPower := false }) (linkActive p.val s))
    else linkActive p.val s
  else s

theorem exec_trainingSetLock (h : serves s = true) : exec (.trainingSetLock p) s = .next (trainingLocks p s) :=
  runs_of_guard (o := execTrainingSetLock p s) (s := s) (f := trainingLocks p) rfl h

theorem lock_configures (h : serves s = true) (hl : (port s p.val).link = .polling) : ∃ u, exec (.trainingSetLock p) s = .next u
    ∧ PortMoves p.val { port s p.val with
          link := .config, capGot := false, doneSent := false, doneGot := false, cmdWait := some (0x10, 1) }
        [linkCmd (port s p.val).gen p.val 0x10 (ofBool (4 ≤ (port s p.val).genUse) + 2)] s u :=
  ⟨_, (exec_trainingSetLock h).trans (congrArg _ (if_pos (by rw [hl]; rfl))),
    (moves_modPort p.val (fun x => { x with link := .config, capGot := false, doneSent := false, doneGot := false }) s).cmd 0x10⟩

/-- The port whose link is ACTIVE. -/
def activePort (x : Port) : Port :=
  { x with link := .active, trainings := 0, cmdWait := none, capGot := false, doneSent := false, doneGot := false }

theorem lock_recovers (h : serves s = true) (hl : (port s p.val).link = .recovery) (he : (port s p.val).enabled = true) :
    ((port s p.val).fromLowPower = false → ∃ u, exec (.trainingSetLock p) s = .next u ∧ PortMoves p.val (activePort (port s p.val)) [] s u)
      ∧ ((port s p.val).fromLowPower = true → ∃ u, exec (.trainingSetLock p) s = .next u
        ∧ PortMoves p.val { activePort (port s p.val) with fromLowPower := false, cmdWait := some (0x30, 1) }
          [linkCmd (port s p.val).gen p.val 0x30 0] s u) := by
  have hActive : PortMoves p.val (activePort (port s p.val)) [] s (linkActive p.val s) := linkActive_moves (PortMoves.refl p.val s) he
  have hRun : exec (.trainingSetLock p) s = .next (if (port s p.val).fromLowPower
      then sendCmd p.val 0x30 (modPort p.val (fun x => { x with fromLowPower := false }) (linkActive p.val s)) else linkActive p.val s) :=
    (exec_trainingSetLock h).trans (congrArg _ ((if_neg (by rw [hl]; decide)).trans (if_pos (by rw [hl]; rfl))))
  exact ⟨fun hf => ⟨_, hRun.trans (congrArg _ (if_neg (by rw [hf]; decide))), hActive⟩,
    fun hf => ⟨_, hRun.trans (congrArg _ (if_pos hf)), (hActive.mod fun x => { x with fromLowPower := false }).cmd 0x30⟩⟩

theorem lock_ignored (h : serves s = true) (hp : (port s p.val).link ≠ .polling) (hr : (port s p.val).link ≠ .recovery) :
    exec (.trainingSetLock p) s = .next s :=
  (exec_trainingSetLock h).trans (congrArg _ ((if_neg (by simpa using hp)).trans (if_neg (by simpa using hr))))

/-- The port behind a first TRAIN_CAP. -/
def capNoted (param : BitVec 11) (x : Port) : Port := repliedPort 0x10 { x with capGot := true, partnerN5 := bit param 0 }

theorem exec_trainCap (h : serves s = true) (hl : (port s p.val).link = .config) (param : BitVec 11) : exec (.trainCap p param) s
    = .next (if (port s p.val).capGot then sendLink p.val 0x10 (capParam (port s p.val)) s
      else capsDone p.val (replied p.val 0x10 (modPort p.val (fun x => { x with capGot := true, partnerN5 := bit param 0 }) s))) :=
  runs_of_guard (o := execTrainCap p param s) (s := s) (f := fun s => if (port s p.val).capGot then sendLink p.val 0x10 (capParam (port s p.val)) s
      else capsDone p.val (replied p.val 0x10 (modPort p.val (fun x => { x with capGot := true, partnerN5 := bit param 0 }) s))) rfl
    (by rw [h, hl]; rfl)

theorem trainCap_again (h : serves s = true) (hl : (port s p.val).link = .config) (param : BitVec 11) (hc : (port s p.val).capGot = true) :
    exec (.trainCap p param) s
      = .next { s with out := s.out ++ [linkCmd (port s p.val).gen p.val 0x10 (ofBool (4 ≤ (port s p.val).genUse) + 2)] } :=
  (exec_trainCap h hl param).trans (congrArg _ (if_pos hc))

theorem trainCap_first (h : serves s = true) (hl : (port s p.val).link = .config) (param : BitVec 11) (hc : (port s p.val).capGot = false) :
    ∃ v, exec (.trainCap p param) s = .next (capsDone p.val v) ∧ PortMoves p.val (capNoted param (port s p.val)) [] s v :=
  ⟨_, (exec_trainCap h hl param).trans (congrArg _ (if_neg (by rw [hc]; decide))),
    replied_moves (moves_modPort p.val (fun x => { x with capGot := true, partnerN5 := bit param 0 }) s) 0x10⟩

theorem trainCap_rate (h : serves s = true) (hl : (port s p.val).link = .config) (param : BitVec 11) (hc : (port s p.val).capGot = false)
    (hn : (bit param 0 && decide (4 ≤ (port s p.val).genUse) && !(port s p.val).rateN5) = true) :
    ∃ u, exec (.trainCap p param) s = .next u
      ∧ PortMoves p.val { port s p.val with partnerN5 := true, rateN5 := true, link := .polling, cmdWait := none } [.line p.val .trainingSets] s u := by
  obtain ⟨v, hRun, hv⟩ := trainCap_first h hl param hc
  have hBit : bit param 0 = true := by
    rw [Bool.and_eq_true, Bool.and_eq_true] at hn
    exact hn.1.1
  have hState : capsDone p.val v = emit (.line p.val .trainingSets)
      (modPort p.val (fun x => { x with rateN5 := true, link := .polling, capGot := false, cmdWait := none }) v) := by
    unfold capsDone
    dsimp only
    rw [hv.1]
    exact if_pos hn
  rw [hState] at hRun
  refine ⟨_, hRun, ((hv.mod _).emit _).as ?_ rfl⟩
  exact congrArg₂ (fun b c => { port s p.val with partnerN5 := b, rateN5 := true, link := .polling, cmdWait := none, capGot := c }) hBit hc.symm

theorem trainCap_done (h : serves s = true) (hl : (port s p.val).link = .config) (param : BitVec 11) (hc : (port s p.val).capGot = false)
    (hn : (bit param 0 && decide (4 ≤ (port s p.val).genUse) && !(port s p.val).rateN5) = false) (hd : (port s p.val).doneGot = false) :
    ∃ u, exec (.trainCap p param) s = .next u ∧ PortMoves p.val
      { port s p.val with capGot := true, partnerN5 := bit param 0, doneSent := true, cmdWait := some (0x11, 1) }
      [linkCmd (port s p.val).gen p.val 0x11 0] s u := by
  obtain ⟨v, hRun, hv⟩ := trainCap_first h hl param hc
  have hSent := (hv.mod fun x => { x with doneSent := true }).cmd 0x11
  have hState : capsDone p.val v = sendCmd p.val 0x11 (modPort p.val (fun x => { x with doneSent := true }) v) := by
    unfold capsDone configDone
    dsimp only
    rw [hv.1]
    refine (if_neg (by exact ne_true_of_eq_false hn)).trans (if_neg ?_)
    show ¬ ((port (sendCmd p.val 0x11 _) p.val).doneSent && (port (sendCmd p.val 0x11 _) p.val).doneGot) = true
    rw [hSent.1]
    show ¬ (true && (port s p.val).doneGot) = true
    rw [hd]
    decide
  rw [hState] at hRun
  exact ⟨_, hRun, hSent⟩

theorem exec_trainDone (h : serves s = true) (hl : (port s p.val).link = .config ∨ (port s p.val).link = .active) : exec (.trainDone p) s
    = .next (if (port s p.val).link == .active then sendLink p.val 0x11 0 s
      else configDone p.val (replied p.val 0x11 (modPort p.val (fun x => { x with doneGot := true }) s))) :=
  runs_of_guard (o := execTrainDone p s) (s := s) (f := fun s => if (port s p.val).link == .active then sendLink p.val 0x11 0 s
      else configDone p.val (replied p.val 0x11 (modPort p.val (fun x => { x with doneGot := true }) s))) rfl
    (by rcases hl with hl | hl <;> rw [h, hl] <;> rfl)

theorem trainDone_active (h : serves s = true) (hl : (port s p.val).link = .active) :
    exec (.trainDone p) s = .next { s with out := s.out ++ [linkCmd (port s p.val).gen p.val 0x11 0] } :=
  (exec_trainDone h (Or.inr hl)).trans (congrArg _ (if_pos (by rw [hl]; rfl)))

/-- TRAIN_DONE in CONFIG is noted; with the part's own sent, the link is ACTIVE. -/
theorem trainDone_config (h : serves s = true) (hl : (port s p.val).link = .config) : ∃ v,
    exec (.trainDone p) s = .next (if (port s p.val).doneSent then linkActive p.val v else v)
      ∧ PortMoves p.val (repliedPort 0x11 { port s p.val with doneGot := true }) [] s v := by
  have hv := replied_moves (moves_modPort p.val (fun x => { x with doneGot := true }) s) 0x11
  refine ⟨_, (exec_trainDone h (Or.inl hl)).trans (congrArg _ ((if_neg (by rw [hl]; decide)).trans ?_)), hv⟩
  unfold configDone
  rw [hv.1]
  show (if ((port s p.val).doneSent && true) = true then _ else _) = _
  rw [Bool.and_true]

theorem trainDone_does (h : serves s = true) (hl : (port s p.val).link = .config) :
    ((port s p.val).doneSent = true → (port s p.val).enabled = true → ∃ u, exec (.trainDone p) s = .next u
        ∧ PortMoves p.val (activePort (port s p.val)) [] s u)
      ∧ ((port s p.val).doneSent = true → (port s p.val).enabled = false → ∃ u, exec (.trainDone p) s = .next u
        ∧ (port u p.val).link = .active ∧ (port u p.val).enabled = true ∧ (port u p.val).attach = .recovery
        ∧ (port u p.val).gen = if (port s p.val).rateN5 then .n5 else .n4)
      ∧ ((port s p.val).doneSent = false → ∃ u, exec (.trainDone p) s = .next u ∧ u.out = s.out ∧ OtherPorts p.val s u
        ∧ (port u p.val).doneGot = true ∧ (port u p.val).link = .config) := by
  obtain ⟨v, hRun, hv⟩ := trainDone_config h hl
  refine ⟨fun hs he => ?_, fun hs he => ?_, fun hs => ?_⟩
  · rw [if_pos hs] at hRun
    exact ⟨_, hRun, (linkActive_moves (y := repliedPort 0x11 { port s p.val with doneGot := true }) hv he).as rfl rfl⟩
  · rw [if_pos hs] at hRun
    obtain ⟨w, hw⟩ : ∃ w, w = modPort p.val (fun x => { x with
      link := .active, trainings := 0, cmdWait := none, capGot := false, doneSent := false, doneGot := false }) v := ⟨_, rfl⟩
    have hPort : port w p.val = activePort (repliedPort 0x11 { port s p.val with doneGot := true }) := by
      rw [hw, modPort_port, hv.1]
      rfl
    have hState : linkActive p.val v = enterRecovery (.root p) (if (port s p.val).rateN5 then .n5 else .n4) w := by
      unfold linkActive
      rw [← hw]
      dsimp only
      rw [hPort]
      exact (if_neg (by show ¬ (port s p.val).enabled = true; rw [he]; decide)).trans (dif_pos p.isLt)
    rw [hState] at hRun
    obtain ⟨-, hNow⟩ := enterRecovery_recovers p (if (port s p.val).rateN5 then .n5 else .n4) w
    refine ⟨_, hRun, ?_⟩
    rw [hNow, hPort]
    exact ⟨rfl, rfl, rfl, rfl⟩
  · rw [if_neg (by rw [hs]; decide)] at hRun
    obtain ⟨hPort, hOut, hOthers⟩ := hv
    refine ⟨_, hRun, hOut.trans (List.append_nil _), hOthers, ?_⟩
    rw [hPort]
    exact ⟨rfl, hl⟩

/-! ### Low power (R83, R87, R129) -/

theorem exec_lpEnter (h : serves s = true) (hl : (port s p.val).link = .active) : exec (.lpEnter p) s
    = .next (if (port s p.val).txn.isSome || (port s p.val).wakeAt.isSome then sendLink p.val 0x22 0 s
      else emit (.line p.val .idle) (modPort p.val (fun x => { x with link := .lowpower }) (sendLink p.val 0x21 0 s))) :=
  runs_of_guard (o := execLpEnter p s) (s := s) (f := fun s => if (port s p.val).txn.isSome || (port s p.val).wakeAt.isSome then sendLink p.val 0x22 0 s
      else emit (.line p.val .idle) (modPort p.val (fun x => { x with link := .lowpower }) (sendLink p.val 0x21 0 s))) rfl (by rw [h, hl]; rfl)

theorem lpEnter_accepted (h : serves s = true) (hl : (port s p.val).link = .active)
    (hq : ((port s p.val).txn.isSome || (port s p.val).wakeAt.isSome) = false) : ∃ u, exec (.lpEnter p) s = .next u
      ∧ PortMoves p.val { port s p.val with link := .lowpower } [linkCmd (port s p.val).gen p.val 0x21 0, .line p.val .idle] s u :=
  ⟨_, (exec_lpEnter h hl).trans (congrArg _ (if_neg (by rw [hq]; decide))),
    (((PortMoves.refl p.val s).link 0x21 0).mod fun x => { x with link := .lowpower }).emit (.line p.val .idle)⟩

theorem exec_wake (h : serves s = true) (hl : (port s p.val).link = .active) :
    exec (.wake p) s = .next { s with out := s.out ++ [linkCmd (port s p.val).gen p.val 0x31 0] } :=
  runs_of_guard (o := execWake p s) (s := s) (f := sendLink p.val 0x31 0) rfl (by rw [h, hl]; rfl)

theorem linkErrorLimit_recovers (h : serves s = true) (hl : (port s p.val).link = .active) (ht : (port s p.val).txn = none) :
    ∃ u, exec (.linkErrorLimit p) s = .next u ∧ PortMoves p.val (recovering { port s p.val with
        linkErrTotal := BitVec.ofNat 16 (min 0xFFFF ((port s p.val).linkErrTotal.toNat + 16)) }) [.line p.val .trainingSets] s u :=
  ⟨_, runs_of_guard (o := execLinkErrorLimit p s) (s := s) (f := fun s => linkRecovery p.val (modPort p.val (fun x => { x with
      linkErrTotal := BitVec.ofNat 16 (min 0xFFFF (x.linkErrTotal.toNat + 16)) }) s)) rfl (by rw [h, hl]; rfl),
    linkRecovery_moves (moves_modPort p.val (fun x => { x with linkErrTotal := BitVec.ofNat 16 (min 0xFFFF (x.linkErrTotal.toNat + 16)) }) s) ht⟩

theorem silence_enters (h : serves s = true) (hl : (port s p.val).link = .active) (hq : (port s p.val).silence = true)
    (hp : (port s p.val).suspended = true) : ∃ u, exec (.suspendSilenceExpiry p) s = .next u
      ∧ PortMoves p.val { port s p.val with silence := false, cmdWait := some (0x20, 1) } [linkCmd (port s p.val).gen p.val 0x20 0] s u :=
  ⟨_, runs_of_guard (o := execSuspendSilenceExpiry p s) (s := s)
      (f := fun s => sendCmd p.val cmdLpEnter (modPort p.val (fun x => { x with silence := false }) s)) rfl (by rw [h, hq, hp, hl]; rfl),
    (moves_modPort p.val (fun x => { x with silence := false }) s).cmd 0x20⟩

theorem lpAccept_idles {n : Nat} (h : serves s = true) (hw : (port s p.val).cmdWait = some (0x20, n)) : ∃ u, exec (.lpAccept p) s = .next u
    ∧ PortMoves p.val { port s p.val with link := .lowpower, cmdWait := none } [.line p.val .idle] s u :=
  ⟨_, runs_of_guard (o := execLpAccept p s) (s := s)
      (f := fun s => emit (.line p.val .idle) (modPort p.val (fun x => { x with link := .lowpower, cmdWait := none }) s)) rfl (by rw [h, hw]; rfl),
    (moves_modPort p.val (fun x => { x with link := .lowpower, cmdWait := none }) s).emit (.line p.val .idle)⟩

theorem lpReject_ends {n : Nat} (h : serves s = true) (hw : (port s p.val).cmdWait = some (0x20, n)) : ∃ u, exec (.lpReject p) s = .next u
    ∧ PortMoves p.val { port s p.val with cmdWait := none } [] s u :=
  ⟨_, runs_of_guard (o := execLpReject p s) (s := s) (f := fun s => modPort p.val (fun x => { x with cmdWait := none }) s) rfl
      (by rw [h, hw]; rfl),
    moves_modPort p.val (fun x => { x with cmdWait := none }) s⟩

/-! ### Commands without a reply (R83) -/

theorem wakeAck_replies (h : serves s = true) : ∃ u, exec (.wakeAck p) s = .next u ∧ PortMoves p.val (repliedPort 0x30 (port s p.val)) [] s u :=
  ⟨_, runs_of_guard (o := execWakeAck p s) (s := s) (f := replied p.val 0x30) rfl h, replied_moves (PortMoves.refl p.val s) 0x30⟩

theorem repliedPort_same {code n : Nat} (hw : x.cmdWait = some (code, n)) : repliedPort code x = { x with cmdWait := none } := by
  unfold repliedPort
  rw [hw]
  dsimp only
  rw [if_pos rfl]

theorem repliedPort_none (code : Nat) (hw : x.cmdWait = none) : repliedPort code x = x := by
  unfold repliedPort
  rw [hw]
  exact congrArg (fun c => { x with cmdWait := c }) hw.symm

/-- What LINK_CMD_TIMEOUT does. -/
def cmdTimesOut (p : PortId) (s : State) : State :=
  match (port s p.val).cmdWait with
  | none => s
  | some (code, n) =>
    if n < 4 then sendLink p.val code (cmdParam (port s p.val) code) (modPort p.val (fun x => { x with cmdWait := some (code, n + 1) }) s)
    else linkRecovery p.val s

theorem exec_linkCmdTimeout (h : serves s = true) : exec (.linkCmdTimeout p) s = .next (cmdTimesOut p s) :=
  runs_of_guard (o := execLinkCmdTimeout p s) (s := s) (f := cmdTimesOut p) rfl h

theorem cmdTimeout_none (h : serves s = true) (hw : (port s p.val).cmdWait = none) : exec (.linkCmdTimeout p) s = .next s := by
  rw [exec_linkCmdTimeout h]
  unfold cmdTimesOut
  rw [hw]

theorem exec_cmdTimeout_some {code n : Nat} (h : serves s = true) (hw : (port s p.val).cmdWait = some (code, n)) : exec (.linkCmdTimeout p) s
    = .next (if n < 4 then sendLink p.val code (cmdParam (port s p.val) code) (modPort p.val (fun x => { x with cmdWait := some (code, n + 1) }) s)
      else linkRecovery p.val s) := by
  rw [exec_linkCmdTimeout h]
  unfold cmdTimesOut
  rw [hw]

theorem cmdTimeout_again {code n : Nat} (h : serves s = true) (hw : (port s p.val).cmdWait = some (code, n)) (hn : n < 4) :
    ∃ u, exec (.linkCmdTimeout p) s = .next u ∧ PortMoves p.val { port s p.val with cmdWait := some (code, n + 1) }
      [linkCmd (port s p.val).gen p.val code (if code = 0x10 then ofBool (4 ≤ (port s p.val).genUse) + 2 else 0)] s u :=
  ⟨_, (exec_cmdTimeout_some h hw).trans (congrArg _ (if_pos hn)),
    (moves_modPort p.val (fun x => { x with cmdWait := some (code, n + 1) }) s).link code (cmdParam (port s p.val) code)⟩

theorem cmdTimeout_recovers {code n : Nat} (h : serves s = true) (hw : (port s p.val).cmdWait = some (code, n)) (hn : 4 ≤ n)
    (ht : (port s p.val).txn = none) : ∃ u, exec (.linkCmdTimeout p) s = .next u ∧ PortMoves p.val
      (recovering (port s p.val)) [.line p.val .trainingSets] s u :=
  ⟨_, (exec_cmdTimeout_some h hw).trans (congrArg _ (if_neg (by omega))), linkRecovery_moves (PortMoves.refl p.val s) ht⟩

theorem wakeTone_recovers (h : serves s = true) (hl : (port s p.val).link = .lowpower) (ht : (port s p.val).txn = none) :
    ∃ u, exec (.wakeTone p) s = .next u ∧ PortMoves p.val (recovering { port s p.val with fromLowPower := true }) [.line p.val .trainingSets] s u :=
  ⟨_, runs_of_guard (o := execWakeTone p s) (s := s) (f := fun s => linkRecovery p.val (modPort p.val (fun x => { x with fromLowPower := true }) s)) rfl
      (by rw [h, hl]; rfl),
    linkRecovery_moves (moves_modPort p.val (fun x => { x with fromLowPower := true }) s) ht⟩

/-! ### The loss of a link (R84, R113, R134) -/

theorem recoveryTimeout_detects (h : serves s = true) (hl : (port s p.val).link = .recovery) (hn : (port s p.val).trainings < 2) :
    ∃ u, exec (.recoveryTimeout p) s = .next u ∧ u.out = s.out ++ [.line p.val .detectPulse] ∧ OtherPorts p.val s u
      ∧ (port u p.val).trainings = (port s p.val).trainings + 1 ∧ (port u p.val).link = .detect ∧ (port u p.val).farEnd = false := by
  have hLost := moves_modPort p.val (fun x => { x with farEnd := false }) s
  obtain ⟨v, hv⟩ : ∃ v, v = modPort p.val (fun x => { x with farEnd := false }) s := ⟨_, rfl⟩
  rw [← hv] at hLost
  have hRun : exec (.recoveryTimeout p) s = .next (emit (.line p.val .detectPulse) (modPort p.val untrained v)) := by
    refine (runs_of_guard (o := execRecoveryTimeout p s) (s := s)
      (f := fun s => trainingFailed p.val (modPort p.val (fun x => { x with farEnd := false }) s)) rfl (by rw [h, hl]; rfl)).trans (congrArg _ ?_)
    rw [← hv, trainingFailed_eq, hLost.1]
    exact if_pos (show (port s p.val).trainings + 1 < 3 by omega)
  obtain ⟨hPort, hOut, hOthers⟩ := (hLost.mod untrained).emit (.line p.val .detectPulse)
  refine ⟨_, hRun, hOut, hOthers, ?_⟩
  rw [hPort]
  exact ⟨rfl, rfl, rfl⟩

/-- A root port that is disconnected is off. -/
theorem disconnect_off (p : PortId) (v : State) : (port (disconnect (.root p) v) p.val).enabled = false
    ∧ (port (disconnect (.root p) v) p.val).link = .disabled ∧ (port (disconnect (.root p) v) p.val).attach = .idle
    ∧ (port (disconnect (.root p) v) p.val).txn = none := by
  obtain ⟨x, hx, hTxn, -⟩ := port_of_portGone p stDeviceGone v
  have hPort : port (disconnect (.root p) v) p.val = { portIdle x with commanded := false, tries := 0 } := hx
  rw [hPort]
  exact ⟨rfl, rfl, rfl, hTxn⟩

theorem legacyBiasLoss_off (h : serves s = true) (he : (port s p.val).enabled = true) (hg : serdes (port s p.val).gen = false) :
    ∃ u, exec (.legacyBiasLoss p) s = .next u ∧ (port u p.val).enabled = false ∧ (port u p.val).link = .disabled
      ∧ (port u p.val).attach = .idle ∧ (port u p.val).txn = none :=
  ⟨_, runs_of_guard (o := execLegacyBiasLoss p s) (s := s)
      (f := fun s => disconnect (.root p) (modPort p.val (fun x => { x with bias := false }) s)) rfl (by rw [h, he, hg]; rfl), disconnect_off p _⟩

theorem linkDisconnect_off (h : serves s = true) (he : (port s p.val).enabled = true) (hg : serdes (port s p.val).gen = true)
    (hl : (port s p.val).link = .detect) (hf : (port s p.val).farEnd = false) : ∃ u, exec (.linkDisconnectTimeout p) s = .next u
      ∧ (port u p.val).enabled = false ∧ (port u p.val).link = .disabled ∧ (port u p.val).attach = .idle ∧ (port u p.val).txn = none :=
  ⟨_, runs_of_guard (o := execLinkDisconnectTimeout p s) (s := s) (f := disconnect (.root p)) rfl (by rw [h, he, hg, hl, hf]; rfl),
    disconnect_off p _⟩

end

/-- Settles O37: each row is a change of the one port with what goes out on it. -/
theorem linkTraining : Obligations.LinkTraining := by
  unfold Obligations.LinkTraining
  intro s p h
  exact ⟨fun hl => ⟨exec_detectPulse h hl, farEnd_polls h hl⟩, farEnd_noted h, lock_configures h, lock_recovers h, lock_ignored h,
    fun hl param => ⟨trainCap_again h hl param, trainCap_rate h hl param, trainCap_done h hl param⟩, trainDone_active h, trainDone_does h⟩

/-- Settles O38: each row is a change of the one port with what goes out on it, the tree gone where the link is lost. -/
theorem linkPowerAndLoss : Obligations.LinkPowerAndLoss := by
  unfold Obligations.LinkPowerAndLoss
  intro s p h
  exact ⟨fun hl => ⟨fun hq => (exec_lpEnter h hl).trans (congrArg _ (if_pos hq)), lpEnter_accepted h hl, exec_wake h hl,
      linkErrorLimit_recovers h hl, silence_enters h hl⟩,
    fun n hw => ⟨lpAccept_idles h hw, lpReject_ends h hw⟩,
    fun n hw => by
      obtain ⟨u, hRun, hu⟩ := wakeAck_replies (p := p) h
      exact ⟨u, hRun, hu.as (repliedPort_same hw) rfl⟩,
    fun hw => ⟨by
      obtain ⟨u, hRun, hu⟩ := wakeAck_replies (p := p) h
      exact ⟨u, hRun, hu.as (repliedPort_none 0x30 hw) rfl⟩, cmdTimeout_none h hw⟩,
    fun code n hw => ⟨cmdTimeout_again h hw, cmdTimeout_recovers h hw⟩, wakeTone_recovers h, recoveryTimeout_detects h, legacyBiasLoss_off h,
    linkDisconnect_off h⟩

end Sys2Proof.Machine
end

section
/-! PROOFS. The report ring, and the commands of a root port's control register (R118, R119, R121 to R123, R126 to R133). -/

namespace Sys2Proof.Machine

section
variable {s v : State} {p : PortId} {r : Report} {rest : List Report}

/-! ### The report ring (R118, R119) -/

theorem answerTopo_nobody (h : v.topo.waiting = []) (f : TopoPending → Bool) (res : Nat) : answerTopo f res v = v := by
  have hState : { v with topo := { v.topo with waiting := v.topo.waiting.filter fun w => !f w } } = v := by
    rw [h]
    have hTopo : { v.topo with waiting := [] } = v.topo := by rw [← h]
    exact congrArg (fun t => { v with topo := t }) hTopo
  unfold answerTopo
  dsimp only
  rw [hState, h]
  rfl

/-- Where no port is held and none waits for its line, room for a report lets nothing go on. -/
theorem releaseHeld_quiet (h : ∀ p, (port v p).attach ≠ .held ∧ Quiet v p) : releaseHeld v = v := by
  unfold releaseHeld
  split
  · rfl
  · dsimp only
    have hHeld : ∀ x s, (∀ p, port s p = port v p) → (if (port s x).attach == .held then attachRoot x s else s) = s := fun x s hs =>
      if_neg (by rw [hs]; simpa using (h x).1)
    have hStays : ∀ l : List Nat, each l (fun p s => if (port s p).attach == .held then attachRoot p s else s) v = v := by
      intro l
      induction l with
      | nil => rfl
      | cons x l ih =>
        rw [each_cons, hHeld x v fun _ => rfl]
        exact ih
    have hDue : ∀ l : List Nat, each l beginDue v = v := by
      intro l
      induction l with
      | nil => rfl
      | cons x l ih =>
        obtain ⟨hReset, hQueue, -⟩ := (h x).2
        rw [each_cons, beginDue_quiet hReset hQueue]
        exact ih
    rw [hStays, hDue]

/-- The place of the next record in the ring. -/
def recordPlace (s : State) : Nat := s.topo.base.toNat + 256 * (s.topo.prod.toNat % ringSize s)

/-- The record is in host memory, and PROD stands behind it. -/
def recordWritten (r : Report) (rest : List Report) (s : State) : State :=
  hostWrite 0 (recordPlace s) (reportBytes r) { s with topo := { s.topo with
    reports := rest, prod := s.topo.prod + 1
    waiting := s.topo.waiting.map fun w => { w with reports := w.reports - 1 } } }

/-- PF0 is told of the record. -/
def recordTold (r : Report) (rest : List Report) (s : State) : State :=
  postOut 0 ⟨BitVec.ofNat 64 (recordPlace s), Config.noticeSeq (recordWritten r rest s).free, 0x20⟩
    { recordWritten r rest s with free := (recordWritten r rest s).free + 1 }

/-- A device that is reported is marked so. -/
def markReported (r : Report) (s : State) : State :=
  if r.kind == 1 || r.kind == 4 then
    (if handleWord s (field r.handle 0 12) == r.handle then modDev (field r.handle 0 12) (fun d => { d with reported := true }) s else s)
  else s

theorem markReported_rest (r : Report) (v : State) : (markReported r v).out = v.out ∧ (markReported r v).mail = v.mail
    ∧ (markReported r v).topo.prod = v.topo.prod ∧ (markReported r v).topo.reports = v.topo.reports
    ∧ (markReported r v).topo.waiting = v.topo.waiting ∧ (markReported r v).topo.port = v.topo.port := by
  unfold markReported modDev
  split
  · split
    · split
      · exact ⟨rfl, rfl, rfl, rfl, rfl, rfl⟩
      · exact ⟨rfl, rfl, rfl, rfl, rfl, rfl⟩
    · exact ⟨rfl, rfl, rfl, rfl, rfl, rfl⟩
  · exact ⟨rfl, rfl, rfl, rfl, rfl, rfl⟩

theorem reportBytes_ne (r : Report) : reportBytes r ≠ [] := by
  unfold reportBytes
  simp

theorem recordWritten_eq (r : Report) (rest : List Report) (s : State) : recordWritten r rest s
    = emit (.hostWrite 0 (recordPlace s) (reportBytes r)) { s with topo := { s.topo with
        reports := rest, prod := s.topo.prod + 1
        waiting := s.topo.waiting.map fun w => { w with reports := w.reports - 1 } } } := by
  unfold recordWritten hostWrite
  rw [if_neg (by rw [List.isEmpty_iff]; exact reportBytes_ne r)]
  rfl

/-- With nobody waiting for the record, and no port held, what follows moves no port. -/
theorem writeReport_alone (hw : s.topo.waiting = []) (hq : ∀ p, (port s p).attach ≠ .held ∧ Quiet s p) :
    writeReport r rest s = markReported r (recordTold r rest s) := by
  have hTopo : (recordTold r rest s).topo = (recordWritten r rest s).topo := postOut_keeps (bl := .topo) _ _ (Keeps.refl .topo _) (by decide)
  obtain ⟨-, -, -, -, hWait, hPorts⟩ := markReported_rest r (recordTold r rest s)
  rw [hTopo, recordWritten_eq] at hWait hPorts
  obtain ⟨v, hv⟩ : ∃ v, v = markReported r (recordTold r rest s) := ⟨_, rfl⟩
  rw [← hv] at hWait hPorts
  have hNobody : v.topo.waiting = [] := by
    rw [hWait]
    show s.topo.waiting.map _ = []
    rw [hw]
    rfl
  have hSame : ∀ k, port v k = port s k := port_of_ports hPorts
  have hQuiet : ∀ k, (port v k).attach ≠ .held ∧ Quiet v k := fun k => by
    unfold Quiet
    rw [hSame]
    exact hq k
  rw [← hv]
  show releaseHeld (answerTopo _ 0 (answerTopo (answersReset (markReported r (recordTold r rest s)) r) 0 (markReported r (recordTold r rest s)))) = v
  rw [← hv, answerTopo_nobody hNobody, answerTopo_nobody hNobody, releaseHeld_quiet hQuiet]

theorem reportRecord_written (hl : live s = true) (hb : s.topo.base ≠ 0) (hbme : (fn s 0).bme = true) (hr : ringUsed s < ringSize s)
    (hs : s.topo.reports = r :: rest) (hw : s.topo.waiting = []) (hq : ∀ p, (port s p).attach ≠ .held ∧ Quiet s p) :
    ∃ u, exec .reportRecordWrite s = .next u ∧ u.topo.prod = s.topo.prod + 1 ∧ u.topo.reports = rest
      ∧ Output.hostWrite 0 (recordPlace s) (reportBytes r) ∈ u.out
      ∧ Posted 0 ⟨BitVec.ofNat 64 (recordPlace s), Config.noticeSeq s.free, 0x20⟩ u ∧ u.topo.port = s.topo.port := by
  have hRun : exec .reportRecordWrite s = .next (markReported r (recordTold r rest s)) := by
    show execReportRecordWrite s = _
    unfold execReportRecordWrite
    rw [guarded_of (by rw [hl, hbme]; simpa [hr] using hb), hs]
    exact congrArg _ (writeReport_alone hw hq)
  have hTopo : (recordTold r rest s).topo = (recordWritten r rest s).topo := postOut_keeps (bl := .topo) _ _ (Keeps.refl .topo _) (by decide)
  have hPosted : Posted 0 ⟨BitVec.ofNat 64 (recordPlace s), Config.noticeSeq s.free, 0x20⟩ (recordTold r rest s) := by
    unfold recordTold
    rw [recordWritten_eq]
    exact postOut_posted _ _ _
  have hSent : Output.hostWrite 0 (recordPlace s) (reportBytes r) ∈ (recordTold r rest s).out := by
    refine (postOut_grows _ _ _).mem ?_
    rw [recordWritten_eq]
    exact List.mem_append_right _ (List.mem_singleton.mpr rfl)
  obtain ⟨hOut, hMail, hProd, hReports, -, hPorts⟩ := markReported_rest r (recordTold r rest s)
  rw [hTopo, recordWritten_eq] at hProd hReports hPorts
  refine ⟨_, hRun, hProd, hReports, by rw [hOut]; exact hSent, ?_, hPorts⟩
  unfold Posted box at hPosted ⊢
  rw [hMail]
  exact hPosted

/-- CONS may take the value that is written. -/
def consOk (v : U32) (s : State) : Bool :=
  decide ((s.topo.prod - BitVec.ofNat 16 (field v 0 16)).toNat ≤ ringSize s
    ∧ (s.topo.prod - BitVec.ofNat 16 (field v 0 16)).toNat ≤ (s.topo.prod - BitVec.ofNat 16 (field s.topo.ring 0 16)).toNat)

/-- LOG2SIZE stays, or nothing is unread. -/
def sizeOk (v : U32) (s : State) : Bool :=
  field v 16 4 == field s.topo.ring 16 4 || s.topo.prod == BitVec.ofNat 16 (field s.topo.ring 0 16)

/-- The value of `GLB.TOPO_RING` behind a write: a field that breaks its rule stays. -/
def ringValue (v : U32) (s : State) : U32 :=
  setField (if consOk v s then setField s.topo.ring 0 16 (BitVec.ofNat 16 (field v 0 16)).toNat else s.topo.ring) 16 4
    (if sizeOk v s then field v 16 4 else field s.topo.ring 16 4)

def ringWritten (v : U32) (s : State) : State := { s with topo := { s.topo with ring := ringValue v s } }

/-- A raised DB_ERROR of PF0 is all that a refused write does besides. -/
theorem raiseQ_raises (v : State) (hs : SameFuncs s v) (he : ∀ j, evtWord v j = evtWord s j) :
    (raiseQ 0 3 v).topo = v.topo ∧ Raised (evtKey (.q 0)) 3 s (raiseQ 0 3 v) ∧ SameFuncs s (raiseQ 0 3 v) := by
  have hRaise : raiseQ 0 3 v = raise (.q 0) 3 v := by
    unfold raiseQ
    rw [dif_pos (by decide)]
    rfl
  rw [hRaise]
  refine ⟨raise_topo _ _ _, fun j => ?_, hs.trans (raise_sameFuncs _ _ _)⟩
  rw [raise_raised, he]

theorem topoRingWrite_eq (v : U32) (s : State) : topoRingWrite v s
    = if consOk v s && sizeOk v s then ringWritten v s else raiseQ 0 3 (ringWritten v s) := by
  unfold topoRingWrite ringWritten ringValue consOk sizeOk
  rfl

/-- Another value of `GLB.TOPO_RING` changes neither functions nor events. -/
theorem setRing_same (x : U32) (s : State) : SameFuncs s { s with topo := { s.topo with ring := x } }
    ∧ ∀ j, evtWord { s with topo := { s.topo with ring := x } } j = evtWord s j := ⟨sameFuncs_refl s, fun _ => rfl⟩

theorem topoRingWrite_does (h : hostReaches s 0 = true) (v : U32) : ∃ u, exec (.topoRingWrite v) s = .next u
    ∧ u.topo = (ringWritten v s).topo ∧ ((consOk v s && sizeOk v s) = true → u = ringWritten v s)
    ∧ ((consOk v s && sizeOk v s) = false → Raised (evtKey (.q 0)) 3 s u ∧ SameFuncs s u) := by
  have hRun : exec (.topoRingWrite v) s = .next (if consOk v s && sizeOk v s then ringWritten v s else raiseQ 0 3 (ringWritten v s)) :=
    (runs_of_guard (o := execTopoRingWrite v s) (s := s) (f := topoRingWrite v) rfl h).trans (congrArg _ (topoRingWrite_eq v s))
  cases hok : (consOk v s && sizeOk v s) with
  | true =>
    rw [hok, if_pos rfl] at hRun
    exact ⟨_, hRun, rfl, fun _ => rfl, fun hc => absurd hc (by decide)⟩
  | false =>
    rw [hok, if_neg (by decide)] at hRun
    obtain ⟨hFuncs, hEvents⟩ := setRing_same (ringValue v s) s
    obtain ⟨hTopo, hRest⟩ := raiseQ_raises (ringWritten v s) hFuncs hEvents
    exact ⟨_, hRun, hTopo, fun hc => absurd hc (by decide), fun _ => hRest⟩

theorem exec_topoBaseWrite (h : hostReaches s 0 = true) (v : U64) : exec (.topoBaseWrite v) s
    = .next (if s.topo.prod.toNat = field s.topo.ring 0 16 then { s with topo := { s.topo with base := setField v 0 8 0 } } else raiseQ 0 3 s) :=
  runs_of_guard (o := execTopoBaseWrite v s) (s := s) (f := topoBaseWrite v) rfl h

end

/-- Settles O39: the record written and told, and the fields that a write of the ring may change. -/
theorem reportRing : Obligations.ReportRing := by
  unfold Obligations.ReportRing
  intro s
  exact ⟨fun r rest hl hb hbme hr hs hw hq => reportRecord_written hl hb hbme hr hs hw hq,
    fun v h => topoRingWrite_does h v,
    fun v h => ⟨fun hu => (exec_topoBaseWrite h v).trans (congrArg _ (if_pos hu)),
      fun hu => ⟨_, (exec_topoBaseWrite h v).trans (congrArg _ (if_neg hu)), raiseQ_raises s (sameFuncs_refl s) fun _ => rfl⟩⟩⟩

section
variable {s v : State} {p : PortId} {y : Port} {l : List Output}

/-! ### RESET, DISABLE and ENABLE (R121, R122, R126) -/

/-- A root reset that is commanded waits for the transaction in progress, or is being signalled. -/
theorem portResetOp_commands (p : PortId) (s : State) : (port (portResetOp (.root p) s) p.val).commanded = true
    ∧ ((port (portResetOp (.root p) s) p.val).resetDue = true
      ∨ (port (portResetOp (.root p) s) p.val).resetting = true ∧ (port (portResetOp (.root p) s) p.val).attach = .signalling) := by
  obtain ⟨v, hv⟩ : ∃ v, portResetOp (.root p) s = startRootReset p.val (modPort p.val (fun x => { x with
      commanded := true, tries := 0, resumeAt := none, resumeEnded := false, resuming := false, wakeAt := none }) v) := ⟨_, rfl⟩
  obtain ⟨hCommanded, hState⟩ := startRootReset_does p.val (modPort p.val (fun x => { x with
      commanded := true, tries := 0, resumeAt := none, resumeEnded := false, resuming := false, wakeAt := none }) v)
  rw [hv]
  refine ⟨hCommanded.trans (by rw [modPort_port]), ?_⟩
  split at hState
  · exact Or.inl hState
  · obtain ⟨hSignal, hAttach, -⟩ := hState
    exact Or.inr ⟨hSignal, hAttach⟩

theorem portReset_commands (h : hostReaches s 0 = true) (hd : portDown (port s p.val) = false) : ∃ u, exec (.portReset p) s = .next u
    ∧ (port u p.val).commanded = true
    ∧ ((port u p.val).resetDue = true ∨ (port u p.val).resetting = true ∧ (port u p.val).attach = .signalling) :=
  ⟨_, runs_of_guard (o := execPortReset p s) (s := s) (f := portResetOp (.root p)) rfl (by rw [h, hd]; rfl), portResetOp_commands p s⟩

/-- The port that is disabled. -/
theorem disabled_port (p : PortId) (v : State) : ∃ x, x.txn = none
    ∧ port (modPort p.val (fun x => { x with wantEnable := false }) (disablePort p.val v)) p.val
      = { portIdle x with commanded := false, tries := 0, admin := false, wantEnable := false } := by
  obtain ⟨x, hx, hTxn, -⟩ := port_of_portGone p stPortReset v
  refine ⟨x, hTxn, ?_⟩
  unfold disablePort
  rw [modPort_port, modPort_port, hx]

theorem portDisable_disables (h : hostReaches s 0 = true) : ∃ u, exec (.portDisable p) s = .next u ∧ (port u p.val).admin = false
    ∧ (port u p.val).enabled = false ∧ (port u p.val).link = .disabled ∧ (port u p.val).txn = none := by
  have hRun : exec (.portDisable p) s = .next (modPort p.val (fun x => { x with wantEnable := false }) (disablePort p.val s)) :=
    runs_of_guard (o := execPortDisable p s) (s := s)
      (f := fun s => modPort p.val (fun x => { x with wantEnable := false }) (disablePort p.val s)) rfl h
  obtain ⟨x, hTxn, hPort⟩ := disabled_port p s
  refine ⟨_, hRun, ?_⟩
  rw [hPort]
  exact ⟨rfl, rfl, rfl, hTxn⟩

theorem exec_portEnable (h : hostReaches s 0 = true) : exec (.portEnable p) s = .next (portEnableOp p s) :=
  runs_of_guard (o := execPortEnable p s) (s := s) (f := portEnableOp p) rfl h

theorem portEnable_ignored (h : hostReaches s 0 = true)
    (hi : (((port s p.val).admin && !(port s p.val).held && (port s p.val).attach != .refused) || bit s.err.portFailed p.val || !s.front.ctxEn)
      = true) : exec (.portEnable p) s = .next s :=
  (exec_portEnable h).trans (congrArg _ (if_pos hi))

theorem portEnable_attaches (h : hostReaches s 0 = true) (ha : (port s p.val).admin = false) (hf : bit s.err.portFailed p.val = false)
    (hc : s.front.ctxEn = true) (hi : (port s p.val).attach = .idle) (hp : (port s p.val).pg = true) (he : (port s p.val).enabled = false) :
    ∃ u, exec (.portEnable p) s = .next u ∧ PortMoves p.val { port s p.val with
            admin := true, held := false, babbleDis := false, wantEnable := false, check := 0, timeouts := 0, babbles := 0
            linkErrTotal := 0, attach := .debounce, genUse := genCap (port s p.val), tries := 0, trainings := 0 } [] s u := by
  have hFreed := moves_modPort p.val (fun x => { x with
    admin := true, held := false, babbleDis := false, wantEnable := false, check := 0, timeouts := 0, babbles := 0,
    linkErrTotal := 0, attach := if x.attach == .refused then .idle else x.attach }) s
  have hRun : exec (.portEnable p) s = .next (debounceRoot p.val (modPort p.val (fun x => { x with
      admin := true, held := false, babbleDis := false, wantEnable := false, check := 0, timeouts := 0, babbles := 0,
      linkErrTotal := 0, attach := if x.attach == .refused then .idle else x.attach }) s)) :=
    (exec_portEnable h).trans (congrArg _ (if_neg (by rw [ha, hf, hc]; simp)))
  exact ⟨_, hRun, (debounceRoot_moves p.val hFreed hp rfl he (Or.inl (by dsimp only; rw [hi]; rfl))).as rfl rfl⟩

/-! ### SUSPEND and RESUME (R129 to R133) -/

theorem exec_portSuspend (h : hostReaches s 0 = true) (hd : portDown (port s p.val) = false) (hs : (port s p.val).suspended = false) :
    exec (.portSuspend p) s = .next (match suspendRefusal s (.root p) with
      | 0 => suspendOp (.root p) s
      | 0xA => s
      | _ => portEvent p.val 12 s) :=
  runs_of_guard (o := execPortSuspend p s) (s := s) (f := fun s => match suspendRefusal s (.root p) with
      | 0 => suspendOp (.root p) s
      | 0xA => s
      | _ => portEvent p.val 12 s) rfl (by rw [h, hd, hs]; rfl)

/-- The port that is suspended. -/
def suspendedPort (x : Port) : Port := { x with suspended := true, silence := serdes x.gen, wakeAt := none, sofHold := false }

theorem suspendOp_moves (p : PortId) (s : State) : PortMoves p.val (suspendedPort (port s p.val)) [] s (suspendOp (.root p) s) :=
  moves_modPort p.val suspendedPort s

theorem portSuspend_does (h : hostReaches s 0 = true) (hd : portDown (port s p.val) = false) (hs : (port s p.val).suspended = false) :
    (suspendRefusal s (.root p) = 0 → ∃ u, exec (.portSuspend p) s = .next u ∧ PortMoves p.val (suspendedPort (port s p.val)) [] s u)
      ∧ (suspendRefusal s (.root p) = 0xA → exec (.portSuspend p) s = .next s)
      ∧ (suspendRefusal s (.root p) = 2 ∨ suspendRefusal s (.root p) = 3 → ∃ u, exec (.portSuspend p) s = .next u
        ∧ (∀ k, port u k = port s k) ∧ bit (evtWord u p.val) 12 = true) := by
  have hRun := exec_portSuspend h hd hs
  refine ⟨fun hr => ?_, fun hr => ?_, fun hr => ?_⟩
  · rw [hr] at hRun
    exact ⟨_, hRun, suspendOp_moves p s⟩
  · rw [hr] at hRun
    exact hRun
  · refine ⟨portEvent p.val 12 s, ?_, port_of_portEvent _ _ _, portEvent_bit p 12 (by decide) _⟩
    rcases hr with hr | hr <;> · rw [hr] at hRun; exact hRun

/-- The port on which the part drives its resume. -/
def resumesAs (t : Nat) (byDevice coincident : Bool) (x : Port) : Port := { x with
  resuming := true, resumeAt := some t, resumeEnded := false, byDevice := byDevice, coincident := coincident, silence := false }

/-- What goes out on a port that resumes. -/
def resumeTone (p : Nat) (s : State) : List Output :=
  if serdes (port s p).gen then [Output.line p .wakeTone] else if highZ s p then [] else [.line p .resume]

theorem beginResume_moves (h : PortMoves p.val y [] s v) (hg : y.gen = (port s p.val).gen) (ht : now v = now s) (hd : v.slots = s.slots)
    (b c : Bool) : PortMoves p.val (resumesAs (now s) b c y) (resumeTone p.val s) s (beginResume (.root p) b c v) := by
  have hMarked : PortMoves p.val (resumesAs (now s) b c y) [] s (modPort p.val (resumesAs (now v) b c) v) := (h.mod _).as (by rw [ht]) rfl
  obtain ⟨w, hw⟩ : ∃ w, w = modPort p.val (resumesAs (now v) b c) v := ⟨_, rfl⟩
  have hSlots : w.slots = s.slots := by rw [hw]; exact hd
  rw [← hw] at hMarked
  have hGen : (port w p.val).gen = (port s p.val).gen := by
    rw [hMarked.1]
    exact hg
  have hHigh : highZ w p.val = highZ s p.val := by
    unfold highZ die
    rw [hGen, hSlots]
  have hState : beginResume (.root p) b c v = if serdes (port s p.val).gen then emit (.line p.val .wakeTone) w
      else if highZ s p.val then w else emit (.line p.val .resume) w := by
    rw [← hGen, ← hHigh, hw]
    rfl
  rw [hState]
  unfold resumeTone
  split
  · exact hMarked.emit _
  · split
    · exact hMarked
    · exact hMarked.emit _

theorem exec_portResume (h : hostReaches s 0 = true) (hd : portDown (port s p.val) = false) (hs : (port s p.val).suspended = true)
    (hr : (port s p.val).resetting = false) (hq : (port s p.val).resetDue = false) (ha : (port s p.val).resumeAt = none) :
    exec (.portResume p) s = .next (beginResume (.root p) false
      (match (port s p.val).wakeAt with | some t => decide (now s ≤ t + 400000) | none => false) s) := by
  have hRun : exec (.portResume p) s = .next (resumeOp (.root p) s) :=
    runs_of_guard (o := execPortResume p s) (s := s) (f := resumeOp (.root p)) rfl (by
      rw [h, hd, hs]
      simp [resetAt, hr, hq])
  rw [hRun]
  unfold resumeOp
  refine congrArg _ ((if_neg ?_).trans rfl)
  show ¬ (port s p.val).resumeAt.isSome = true
  rw [ha]
  decide

theorem portResume_does (h : hostReaches s 0 = true) (hd : portDown (port s p.val) = false) (hs : (port s p.val).suspended = true)
    (hr : (port s p.val).resetting = false) (hq : (port s p.val).resetDue = false) (ha : (port s p.val).resumeAt = none) :
    ((port s p.val).wakeAt = none → ∃ u, exec (.portResume p) s = .next u
        ∧ PortMoves p.val { resumesAs (now s) false false (port s p.val) with wakeAt := none } (resumeTone p.val s) s u)
      ∧ ∀ t, (port s p.val).wakeAt = some t → ∃ u, exec (.portResume p) s = .next u
        ∧ PortMoves p.val { resumesAs (now s) false (decide (now s ≤ t + 400000)) (port s p.val) with wakeAt := some t }
          (resumeTone p.val s) s u := by
  have hRun := exec_portResume h hd hs hr hq ha
  refine ⟨fun hw => ?_, fun t hw => ?_⟩
  · rw [hw] at hRun
    refine ⟨_, hRun, (beginResume_moves (PortMoves.refl p.val s) rfl rfl rfl false false).as ?_ rfl⟩
    exact congrArg (fun w => { resumesAs (now s) false false (port s p.val) with wakeAt := w }) hw
  · rw [hw] at hRun
    refine ⟨_, hRun, (beginResume_moves (PortMoves.refl p.val s) rfl rfl rfl false (decide (now s ≤ t + 400000))).as ?_ rfl⟩
    exact congrArg (fun w => { resumesAs (now s) false (decide (now s ≤ t + 400000)) (port s p.val) with wakeAt := w }) hw

/-! ### Remote wakes and the end of the host's resume (R131, R132) -/

theorem remoteWake_guard (h : serves s = true) (hs : (port s p.val).suspended = true) (hr : (port s p.val).resetting = false)
    (hq : (port s p.val).resetDue = false) :
    (serves s && locExists s (.root p) && suspendedAt s (.root p) && !resetAt s (.root p)) = true := by
  rw [h]
  simp [locExists, suspendedAt, resetAt, hs, hr, hq]

theorem remoteWake_resumes (h : serves s = true) (hs : (port s p.val).suspended = true) (hr : (port s p.val).resetting = false)
    (hq : (port s p.val).resetDue = false) (hp : s.pwr.st = .run) (ha : (port s p.val).resumeAt = none) :
    ∃ u, exec (.remoteWakeDetect (.root p)) s = .next u
      ∧ PortMoves p.val { resumesAs (now s) true false (port s p.val) with wakeAt := some (now s) } (resumeTone p.val s) s u := by
  have hRun : exec (.remoteWakeDetect (.root p)) s
      = .next (beginResume (.root p) true false (modPort p.val (fun x => { x with wakeAt := some (now s) }) s)) := by
    show execRemoteWakeDetect (.root p) s = _
    unfold execRemoteWakeDetect
    rw [guarded_of (remoteWake_guard h hs hr hq), if_neg (by rw [hp]; decide), if_neg]
    · rfl
    · show ¬ (port s p.val).resumeAt.isSome = true
      rw [ha]
      decide
  exact ⟨_, hRun, (beginResume_moves (moves_modPort p.val (fun x => { x with wakeAt := some (now s) }) s) rfl rfl rfl true false).as rfl rfl⟩

theorem remoteWake_noted (h : serves s = true) (hs : (port s p.val).suspended = true) (hr : (port s p.val).resetting = false)
    (hq : (port s p.val).resetDue = false) (hp : s.pwr.st ≠ .run) : ∃ u, exec (.remoteWakeDetect (.root p)) s = .next u
      ∧ Loc.root p ∈ u.pwr.wakes ∧ u.topo = s.topo := by
  obtain ⟨v, hv⟩ : ∃ v, v = if s.pwr.st == .watch then s else startWake 4 (locPort s (.root p)) s := ⟨_, rfl⟩
  have hTopo : v.topo = s.topo := by
    rw [hv]
    split
    · rfl
    · exact startWake_frame _ _ _ .topo (by decide)
  have hRun : exec (.remoteWakeDetect (.root p)) s = .next { v with pwr := { v.pwr with
      wakes := if v.pwr.wakes.contains (.root p) then v.pwr.wakes else v.pwr.wakes ++ [.root p] } } := by
    show execRemoteWakeDetect (.root p) s = _
    unfold execRemoteWakeDetect
    rw [guarded_of (remoteWake_guard h hs hr hq), if_pos (by simpa using hp), hv]
  refine ⟨_, hRun, ?_, hTopo⟩
  show Loc.root p ∈ (if v.pwr.wakes.contains (.root p) then v.pwr.wakes else v.pwr.wakes ++ [.root p])
  split
  · next hc => simpa using hc
  · simp

theorem hostResumeEnd_does (h : serves s = true) (ha : (port s p.val).resumeAt ≠ none) (he : (port s p.val).resumeEnded = false) :
    ((port s p.val).link ≠ .lowpower → (port s p.val).link ≠ .active → ∃ u, exec (.hostResumeEnd (.root p)) s = .next u
        ∧ PortMoves p.val { port s p.val with resumeEnded := true, wakeAt := none } [] s u)
      ∧ ((port s p.val).link = .lowpower ∨ (port s p.val).link = .active → (port s p.val).txn = none →
        ∃ u, exec (.hostResumeEnd (.root p)) s = .next u
          ∧ PortMoves p.val (recovering { port s p.val with resumeEnded := true, wakeAt := none, fromLowPower := true })
            [.line p.val .trainingSets] s u) := by
  have hEnded := moves_modPort p.val (fun x => { x with resumeEnded := true, wakeAt := none }) s
  obtain ⟨v, hv⟩ : ∃ v, v = modPort p.val (fun x => { x with resumeEnded := true, wakeAt := none }) s := ⟨_, rfl⟩
  rw [← hv] at hEnded
  have hRun : exec (.hostResumeEnd (.root p)) s = .next (if (port s p.val).link == .lowpower || (port s p.val).link == .active
      then linkRecovery p.val (modPort p.val (fun x => { x with fromLowPower := true }) v) else v) := by
    show execHostResumeEnd (.root p) s = _
    unfold execHostResumeEnd
    rw [guarded_of (by
      rw [h]
      simpa [locExists, resumingAt, resumeOver, he, Option.isSome_iff_ne_none] using ha)]
    dsimp only
    rw [← hv, hEnded.1]
  refine ⟨fun h1 h2 => ?_, fun hl ht => ?_⟩
  · rw [if_neg (by simp [h1, h2])] at hRun
    exact ⟨_, hRun, hEnded⟩
  · rw [if_pos (by simpa using hl)] at hRun
    exact ⟨_, hRun, linkRecovery_moves (hEnded.mod fun x => { x with fromLowPower := true }) ht⟩

end

/-- Settles O40: each command of the control register on its port, with what goes out on the line. -/
theorem portCommands : Obligations.PortCommands := by
  unfold Obligations.PortCommands
  intro s p
  exact ⟨fun h => ⟨portReset_commands h, portDisable_disables h, portEnable_ignored h, portEnable_attaches h,
      portSuspend_does h, portResume_does h⟩,
    remoteWake_resumes, remoteWake_noted, hostResumeEnd_does⟩

end Sys2Proof.Machine
end

section
/-! PROOFS. The topology commands of the mailbox and their refusals (R112, R124 to R131). -/

namespace Sys2Proof.Machine

section
variable {s v : State} {ctx : CmdCtx} {b : TopoBody} {code : Nat} {p : PortId} {f : Loc → State → State} {d : Device}

/-! ### Answers and places -/

/-- The command has been answered with the result, and the tree is as it was. -/
def TopoAnswered (ctx : CmdCtx) (code : Nat) (b : TopoBody) (res : Nat) (s u : State) : Prop :=
  Answered ctx code (topoReply s res b.port b.handle false) s u ∧ u.topo = s.topo

/-- A change of the tree that leaves functions, mailboxes and time may come before the answer. -/
theorem topoAnswer_answers (hf : v.fns = s.fns) (hm : v.mail.secOut = s.mail.secOut ∧ v.mail.i3cOut = s.mail.i3cOut) (ht : v.tb = s.tb) (res : Nat) :
    Answered ctx code (topoReply s res b.port b.handle false) s (topoAnswer ctx code b res v)
      ∧ (topoAnswer ctx code b res v).topo = v.topo := by
  have hBody : topoReply v res b.port b.handle false = topoReply s res b.port b.handle false := by
    unfold topoReply
    rw [epoch32_of_tb ht]
  refine ⟨?_, reply_topo _ _ _ _⟩
  unfold topoAnswer
  rw [hBody]
  exact reply_from hf hm

theorem topoAnswer_at_once (ctx : CmdCtx) (code : Nat) (b : TopoBody) (res : Nat) (s : State) :
    TopoAnswered ctx code b res s (topoAnswer ctx code b res (begun ctx code s)) :=
  topoAnswer_answers (v := begun ctx code s) rfl (begun_bufs ctx code s) rfl res

/-- What a command of a place does, by its sender and the place. -/
theorem topoAt_vf (hs : sender ctx.chan ≠ 0) (f : Loc → State → State) : topoAt ctx code b f s = topoAnswer ctx code b 8 (begun ctx code s) :=
  if_pos (by simpa using hs)

theorem topoAt_pf0 (hs : sender ctx.chan = 0) (f : Loc → State → State) : topoAt ctx code b f s = match bodyLoc s b with
    | none => topoAnswer ctx code b 1 (begun ctx code s)
    | some l => f l (begun ctx code s) := if_neg (by simp [hs])

theorem topoAt_nowhere (hs : sender ctx.chan = 0) (hl : bodyLoc s b = none) (f : Loc → State → State) :
    topoAt ctx code b f s = topoAnswer ctx code b 1 (begun ctx code s) := by
  rw [topoAt_pf0 hs, hl]

theorem topoAt_root (hs : sender ctx.chan = 0) (hl : bodyLoc s b = some (.root p)) (f : Loc → State → State) :
    topoAt ctx code b f s = f (.root p) (begun ctx code s) := by
  rw [topoAt_pf0 hs, hl]

/-! The four commands of a place. -/

/-- What each of the commands does with the place that it names. -/
def resetPlace (ctx : CmdCtx) (b : TopoBody) (l : Loc) (s : State) : State :=
  if (match l with | .root p => portDown (port s p.val) | .hub _ _ => false) then topoAnswer ctx 0x30 b 0xA s
  else portResetOp l (topoWaits ctx 0x30 b (.reset l) 0 s)

def suspendPlace (ctx : CmdCtx) (b : TopoBody) (l : Loc) (s : State) : State :=
  if suspendedAt s l && !resumingAt s l then topoAnswer ctx 0x32 b 0 s
  else
    match suspendRefusal s l with
    | 0 => topoAnswer ctx 0x32 b 0 (suspendOp l s)
    | c => topoAnswer ctx 0x32 b c (portEvent (locPort s l) 12 s)

def resumePlace (ctx : CmdCtx) (b : TopoBody) (l : Loc) (s : State) : State :=
  if !suspendedAt s l then topoAnswer ctx 0x33 b 6 s
  else if resetAt s l then topoAnswer ctx 0x33 b 9 s
  else resumeOp l (topoWaits ctx 0x33 b (.resume l) 0 s)

def disablePlace (ctx : CmdCtx) (b : TopoBody) (l : Loc) (s : State) : State :=
  if (disableAt l s).topo.reports.length = s.topo.reports.length then topoAnswer ctx 0x34 b 0 (disableAt l s)
  else topoWaits ctx 0x34 b (.disable l) (disableAt l s).topo.reports.length (disableAt l s)

theorem exec_topoPortReset (h : serves s = true) : exec (.topoPortReset ctx b) s = .next (topoAt ctx 0x30 b (resetPlace ctx b) s) :=
  runs_of_guard (o := execTopoPortReset ctx b s) (s := s) (f := topoPortResetOp ctx b) rfl h
theorem exec_topoPortSuspend (h : serves s = true) : exec (.topoPortSuspend ctx b) s = .next (topoAt ctx 0x32 b (suspendPlace ctx b) s) :=
  runs_of_guard (o := execTopoPortSuspend ctx b s) (s := s) (f := topoPortSuspendOp ctx b) rfl h
theorem exec_topoPortResume (h : serves s = true) : exec (.topoPortResume ctx b) s = .next (topoAt ctx 0x33 b (resumePlace ctx b) s) :=
  runs_of_guard (o := execTopoPortResume ctx b s) (s := s) (f := topoPortResumeOp ctx b) rfl h
theorem exec_topoPortDisable (h : serves s = true) : exec (.topoPortDisable ctx b) s = .next (topoAt ctx 0x34 b (disablePlace ctx b) s) :=
  runs_of_guard (o := execTopoPortDisable ctx b s) (s := s) (f := topoPortDisableOp ctx b) rfl h

/-- Each of the four commands is a command of a place, under its code. -/
theorem exec_places (h : serves s = true) {e : Nat × Instr} (he : e ∈ [(0x30, Instr.topoPortReset ctx b), (0x32, .topoPortSuspend ctx b),
    (0x33, .topoPortResume ctx b), (0x34, .topoPortDisable ctx b)]) : ∃ f, exec e.2 s = .next (topoAt ctx e.1 b f s) := by
  simp only [List.mem_cons, List.not_mem_nil, or_false] at he
  rcases he with rfl | rfl | rfl | rfl
  · exact ⟨_, exec_topoPortReset h⟩
  · exact ⟨_, exec_topoPortSuspend h⟩
  · exact ⟨_, exec_topoPortResume h⟩
  · exact ⟨_, exec_topoPortDisable h⟩

theorem places_vf (h : serves s = true) {e : Nat × Instr} (he : e ∈ [(0x30, Instr.topoPortReset ctx b), (0x32, .topoPortSuspend ctx b),
    (0x33, .topoPortResume ctx b), (0x34, .topoPortDisable ctx b)]) (hs : sender ctx.chan ≠ 0) :
    ∃ u, exec e.2 s = .next u ∧ TopoAnswered ctx e.1 b 8 s u := by
  obtain ⟨f, hRun⟩ := exec_places h he
  exact ⟨_, hRun.trans (congrArg _ (topoAt_vf hs f)), topoAnswer_at_once _ _ _ _ _⟩

theorem places_nowhere (h : serves s = true) {e : Nat × Instr} (he : e ∈ [(0x30, Instr.topoPortReset ctx b), (0x32, .topoPortSuspend ctx b),
    (0x33, .topoPortResume ctx b), (0x34, .topoPortDisable ctx b)]) (hs : sender ctx.chan = 0) (hl : bodyLoc s b = none) :
    ∃ u, exec e.2 s = .next u ∧ TopoAnswered ctx e.1 b 1 s u := by
  obtain ⟨f, hRun⟩ := exec_places h he
  exact ⟨_, hRun.trans (congrArg _ (topoAt_nowhere hs hl f)), topoAnswer_at_once _ _ _ _ _⟩

/-! ### Commands of a root port -/

theorem topoReset_down (h : serves s = true) (hs : sender ctx.chan = 0) (hl : bodyLoc s b = some (.root p)) (hd : portDown (port s p.val) = true) :
    ∃ u, exec (.topoPortReset ctx b) s = .next u ∧ TopoAnswered ctx 0x30 b 0xA s u :=
  ⟨_, (exec_topoPortReset h).trans (congrArg _ ((topoAt_root hs hl _).trans (if_pos hd))), topoAnswer_at_once _ _ _ _ _⟩

theorem topoReset_commands (h : serves s = true) (hs : sender ctx.chan = 0) (hl : bodyLoc s b = some (.root p))
    (hd : portDown (port s p.val) = false) : ∃ u, exec (.topoPortReset ctx b) s = .next u ∧ (port u p.val).commanded = true
      ∧ ((port u p.val).resetDue = true ∨ (port u p.val).resetting = true ∧ (port u p.val).attach = .signalling) :=
  ⟨_, (exec_topoPortReset h).trans (congrArg _ ((topoAt_root hs hl _).trans (if_neg (by show ¬ portDown (port s p.val) = true; rw [hd]; decide)))),
    portResetOp_commands p _⟩

theorem topoSuspend_already (h : serves s = true) (hs : sender ctx.chan = 0) (hl : bodyLoc s b = some (.root p))
    (hp : (port s p.val).suspended = true) (hr : (port s p.val).resumeAt = none) :
    ∃ u, exec (.topoPortSuspend ctx b) s = .next u ∧ TopoAnswered ctx 0x32 b 0 s u :=
  ⟨_, (exec_topoPortSuspend h).trans (congrArg _ ((topoAt_root hs hl _).trans (if_pos (by
      show ((port s p.val).suspended && !(port s p.val).resumeAt.isSome) = true
      rw [hp, hr]
      rfl)))), topoAnswer_at_once _ _ _ _ _⟩

theorem suspendRefusal_begun (ctx : CmdCtx) (code : Nat) (s : State) (l : Loc) : suspendRefusal (begun ctx code s) l = suspendRefusal s l := rfl

theorem topoSuspend_suspends (h : serves s = true) (hs : sender ctx.chan = 0) (hl : bodyLoc s b = some (.root p))
    (hp : (port s p.val).suspended = false) (hr : suspendRefusal s (.root p) = 0) : ∃ u, exec (.topoPortSuspend ctx b) s = .next u
      ∧ Answered ctx 0x32 (topoReply s 0 b.port b.handle false) s u
      ∧ port u p.val = suspendedPort (port s p.val) ∧ OtherPorts p.val s u := by
  have hRun : exec (.topoPortSuspend ctx b) s = .next (topoAnswer ctx 0x32 b 0 (suspendOp (.root p) (begun ctx 0x32 s))) := by
    refine (exec_topoPortSuspend h).trans (congrArg _ ((topoAt_root hs hl _).trans ?_))
    unfold suspendPlace
    rw [if_neg (by show ¬ ((port s p.val).suspended && !(port s p.val).resumeAt.isSome) = true; rw [hp]; simp), suspendRefusal_begun, hr]
    rfl
  obtain ⟨hAnswered, hTopo⟩ := topoAnswer_answers (ctx := ctx) (code := 0x32) (b := b) (s := s) (v := suspendOp (.root p) (begun ctx 0x32 s))
    rfl (begun_bufs ctx 0x32 s) rfl 0
  obtain ⟨hPort, -, hOthers⟩ := suspendOp_moves p (begun ctx 0x32 s)
  exact ⟨_, hRun, hAnswered, (port_of_topo hTopo _).trans hPort, fun k hk => (port_of_topo hTopo k).trans (hOthers k hk)⟩

theorem topoResume_running (h : serves s = true) (hs : sender ctx.chan = 0) (hl : bodyLoc s b = some (.root p))
    (hp : (port s p.val).suspended = false) : ∃ u, exec (.topoPortResume ctx b) s = .next u ∧ TopoAnswered ctx 0x33 b 6 s u :=
  ⟨_, (exec_topoPortResume h).trans (congrArg _ ((topoAt_root hs hl _).trans (if_pos (by
      show (!(port s p.val).suspended) = true
      rw [hp]
      rfl)))), topoAnswer_at_once _ _ _ _ _⟩

theorem exec_topoResume_suspended (h : serves s = true) (hs : sender ctx.chan = 0) (hl : bodyLoc s b = some (.root p))
    (hp : (port s p.val).suspended = true) : exec (.topoPortResume ctx b) s
      = .next (if (port s p.val).resetting || (port s p.val).resetDue then topoAnswer ctx 0x33 b 9 (begun ctx 0x33 s)
        else resumeOp (.root p) (topoWaits ctx 0x33 b (.resume (.root p)) 0 (begun ctx 0x33 s))) :=
  (exec_topoPortResume h).trans (congrArg _ ((topoAt_root hs hl _).trans (if_neg (by
    show ¬ (!(port s p.val).suspended) = true
    rw [hp]
    decide))))

theorem topoResume_reset (h : serves s = true) (hs : sender ctx.chan = 0) (hl : bodyLoc s b = some (.root p))
    (hp : (port s p.val).suspended = true) (hr : (port s p.val).resetting = true ∨ (port s p.val).resetDue = true) :
    ∃ u, exec (.topoPortResume ctx b) s = .next u ∧ TopoAnswered ctx 0x33 b 9 s u :=
  ⟨_, (exec_topoResume_suspended h hs hl hp).trans (congrArg _ (if_pos (by simpa using hr))), topoAnswer_at_once _ _ _ _ _⟩

/-- A resume of a root port touches that port and the line alone. -/
theorem beginResume_root (p : PortId) (b c : Bool) (v : State) : port (beginResume (.root p) b c v) p.val = resumesAs (now v) b c (port v p.val)
    ∧ (beginResume (.root p) b c v).topo.waiting = v.topo.waiting := by
  obtain ⟨hPort, -⟩ := beginResume_moves (PortMoves.refl p.val v) rfl rfl rfl b c
  refine ⟨hPort, ?_⟩
  unfold beginResume
  dsimp only
  split
  · rfl
  · split <;> rfl

theorem topoResume_waits (h : serves s = true) (hs : sender ctx.chan = 0) (hl : bodyLoc s b = some (.root p))
    (hp : (port s p.val).suspended = true) (hr : (port s p.val).resetting = false) (hq : (port s p.val).resetDue = false)
    (ha : (port s p.val).resumeAt = none) : ∃ u, exec (.topoPortResume ctx b) s = .next u
      ∧ (port u p.val).resuming = true ∧ (port u p.val).resumeAt = some (now s)
      ∧ u.topo.waiting = s.topo.waiting
        ++ [{ ctx := ctx, code := 0x33, port := b.port, handle := b.handle, wait := .resume (.root p), reports := 0 }] := by
  obtain ⟨v, hv⟩ : ∃ v, v = topoWaits ctx 0x33 b (.resume (.root p)) 0 (begun ctx 0x33 s) := ⟨_, rfl⟩
  have hRun : exec (.topoPortResume ctx b) s = .next (beginResume (.root p) false
      (match (wakeOf v (.root p)).1 with | some t => decide (now v ≤ t + 400000) | none => false) v) := by
    rw [exec_topoResume_suspended h hs hl hp, if_neg (by rw [hr, hq]; decide), ← hv]
    refine congrArg _ (if_neg ?_)
    show ¬ (port v p.val).resumeAt.isSome = true
    rw [show port v p.val = port s p.val from by rw [hv]; rfl, ha]
    decide
  obtain ⟨hPort, hWaiting⟩ := beginResume_root p false
    (match (wakeOf v (.root p)).1 with | some t => decide (now v ≤ t + 400000) | none => false) v
  refine ⟨_, hRun, by rw [hPort]; rfl, ?_, ?_⟩
  · rw [hPort, hv]
    rfl
  · rw [hWaiting, hv]
    rfl

theorem topoDisable_disables (h : serves s = true) (hs : sender ctx.chan = 0) (hl : bodyLoc s b = some (.root p)) :
    ∃ u, exec (.topoPortDisable ctx b) s = .next u ∧ (port u p.val).admin = false ∧ (port u p.val).enabled = false := by
  refine ⟨_, (exec_topoPortDisable h).trans (congrArg _ (topoAt_root hs hl _)), ?_⟩
  obtain ⟨v, hv⟩ : ∃ v, v = disableAt (.root p) (begun ctx 0x34 s) := ⟨_, rfl⟩
  obtain ⟨x, -, hPort⟩ := disabled_port p (begun ctx 0x34 s)
  have hOff : port v p.val = { portIdle x with commanded := false, tries := 0, admin := false, wantEnable := false } := by
    rw [hv]
    exact hPort
  unfold disablePlace
  rw [← hv]
  split
  · rw [show port (topoAnswer ctx 0x34 b 0 v) p.val = port v p.val from port_of_topo (reply_topo _ _ _ v) _, hOff]
    exact ⟨rfl, rfl⟩
  · rw [show port (topoWaits ctx 0x34 b (.disable (.root p)) v.topo.reports.length v) p.val = port v p.val from rfl, hOff]
    exact ⟨rfl, rfl⟩

/-! ### TOPO_BIND_SLOT (R112) -/

theorem exec_topoBindSlot (h : serves s = true) : exec (.topoBindSlot ctx b) s = .next (topoBindSlotOp ctx b s) :=
  runs_of_guard (o := execTopoBindSlot ctx b s) (s := s) (f := topoBindSlotOp ctx b) rfl h

theorem topoBind_vf (h : serves s = true) (hs : sender ctx.chan ≠ 0) :
    ∃ u, exec (.topoBindSlot ctx b) s = .next u ∧ TopoAnswered ctx 0x35 b 8 s u :=
  ⟨_, (exec_topoBindSlot h).trans (congrArg _ (if_pos (by simpa using hs))), topoAnswer_at_once _ _ _ _ _⟩

/-- What TOPO_BIND_SLOT does for the place that it names. -/
def bindPlace (ctx : CmdCtx) (b : TopoBody) (s : State) : Option Loc → State
  | some (.hub h q) =>
    if 64 ≤ b.slot.toNat then topoAnswer ctx 0x35 b 1 s
    else topoAnswer ctx 0x35 b 0 (modHubPort h.val q.val (fun x => { x with
      slot := some b.slot.toNat
      attach := if x.attach == .debounce && !(port s b.slot.toNat).pg then .idle else x.attach }) s)
  | _ => topoAnswer ctx 0x35 b 7 s

theorem topoBind_place (h : serves s = true) (hs : sender ctx.chan = 0) :
    exec (.topoBindSlot ctx b) s = .next (bindPlace ctx b (begun ctx 0x35 s) (bodyLoc s b)) := by
  rw [exec_topoBindSlot h]
  refine congrArg _ ((if_neg (by simp [hs])).trans ?_)
  rw [show bodyLoc (begun ctx codeBindSlot s) b = bodyLoc s b from rfl]
  generalize bodyLoc s b = l
  match l with
  | none => rfl
  | some (.root p) => rfl
  | some (.hub h q) => rfl

theorem topoBind_nowhere (h : serves s = true) (hs : sender ctx.chan = 0) (hl : bodyLoc s b = none ∨ bodyLoc s b = some (.root p)) :
    ∃ u, exec (.topoBindSlot ctx b) s = .next u ∧ TopoAnswered ctx 0x35 b 7 s u := by
  have hRun := topoBind_place (ctx := ctx) (b := b) h hs
  refine ⟨topoAnswer ctx 0x35 b 7 (begun ctx 0x35 s), ?_, topoAnswer_at_once _ _ _ _ _⟩
  rcases hl with hl | hl <;> · rw [hl] at hRun; exact hRun

theorem topoBind_hub {i : Fin 4096} {q : Fin 16} (h : serves s = true) (hs : sender ctx.chan = 0) (hl : bodyLoc s b = some (.hub i q)) :
    (64 ≤ b.slot.toNat → ∃ u, exec (.topoBindSlot ctx b) s = .next u ∧ TopoAnswered ctx 0x35 b 1 s u)
      ∧ (b.slot.toNat < 64 → (dev? s i.val).isSome = true → ∃ u, exec (.topoBindSlot ctx b) s = .next u
        ∧ Answered ctx 0x35 (topoReply s 0 b.port b.handle false) s u ∧ (hubPort u i.val q.val).slot = some b.slot.toNat) := by
  have hRun := topoBind_place (ctx := ctx) (b := b) h hs
  rw [hl] at hRun
  refine ⟨fun hn => ⟨_, hRun.trans (congrArg _ (if_pos hn)), topoAnswer_at_once _ _ _ _ _⟩, fun hn hd => ?_⟩
  obtain ⟨d, hd⟩ := Option.isSome_iff_exists.mp hd
  obtain ⟨v, hv⟩ : ∃ v, v = modHubPort i.val q.val (fun x => { x with
      slot := some b.slot.toNat
      attach := if x.attach == .debounce && !(port (begun ctx 0x35 s) b.slot.toNat).pg then .idle else x.attach }) (begun ctx 0x35 s) := ⟨_, rfl⟩
  have hRun : exec (.topoBindSlot ctx b) s = .next (topoAnswer ctx 0x35 b 0 v) := by
    rw [hRun, hv]
    exact congrArg _ (if_neg (by omega))
  have hBound : (hubPort v i.val q.val).slot = some b.slot.toNat := by
    rw [hv, hubPort_modHubPort (show dev? (begun ctx 0x35 s) i.val = some d from hd)]
  have hRest : v.fns = s.fns ∧ (v.mail.secOut = s.mail.secOut ∧ v.mail.i3cOut = s.mail.i3cOut) ∧ v.tb = s.tb := by
    rw [hv]
    unfold modHubPort modDev
    split
    · exact ⟨rfl, begun_bufs ctx 0x35 s, rfl⟩
    · exact ⟨rfl, begun_bufs ctx 0x35 s, rfl⟩
  obtain ⟨hFns, hMail, hTb⟩ := hRest
  obtain ⟨hAnswered, hTopo⟩ := topoAnswer_answers (b := b) hFns hMail hTb 0
  refine ⟨_, hRun, hAnswered, ?_⟩
  unfold hubPort dev? at hBound ⊢
  rw [hTopo]
  exact hBound

/-! ### TOPO_DEVICE_RESET (R126, R127) -/

theorem exec_topoDeviceReset (h : serves s = true) : exec (.topoDeviceReset ctx b) s = .next (topoDeviceResetOp ctx b s) :=
  runs_of_guard (o := execTopoDeviceReset ctx b s) (s := s) (f := topoDeviceResetOp ctx b) rfl h

theorem deviceReset_vf (h : serves s = true) (hs : sender ctx.chan ≠ 0) :
    ∃ u, exec (.topoDeviceReset ctx b) s = .next u ∧ TopoAnswered ctx 0x31 b 8 s u :=
  ⟨_, (exec_topoDeviceReset h).trans (congrArg _ (if_pos (by simpa using hs))), topoAnswer_at_once _ _ _ _ _⟩

theorem deviceReset_stale (h : serves s = true) (hs : sender ctx.chan = 0) (hc : handleCurrent s b.handle = false) :
    ∃ u, exec (.topoDeviceReset ctx b) s = .next u ∧ TopoAnswered ctx 0x31 b 5 s u :=
  ⟨_, (exec_topoDeviceReset h).trans (congrArg _ ((if_neg (by simp [hs])).trans (if_pos (by
      show (!handleCurrent s b.handle) = true
      rw [hc]
      rfl)))), topoAnswer_at_once _ _ _ _ _⟩

/-- The device's transfers have ended and its endpoints but endpoint 0 are closed. -/
def deviceClosed (ctx : CmdCtx) (b : TopoBody) (d : Device) (s : State) : State :=
  let n := field b.handle 0 12
  shutEps n (dropRes (fun r => field r.handle 0 12 == n) (parkAborts d.loc (itemsOf s [n]) (endDevice n stPortReset
    (topoWaits ctx 0x31 b (.device n) 0 (answerTopo (fun w => match w.wait with | .resume l => l == d.loc | _ => false) 9 s)))))

theorem deviceReset_device (h : serves s = true) (hs : sender ctx.chan = 0) (hc : handleCurrent s b.handle = true)
    (hd : dev? s (field b.handle 0 12) = some d) : exec (.topoDeviceReset ctx b) s
      = .next (if d.isHub then topoAnswer ctx 0x31 b 4 (begun ctx 0x31 s)
        else match d.loc with
          | .root p => startRootReset p.val (deviceClosed ctx b d (begun ctx 0x31 s))
          | .hub _ _ => queueHub d.loc (deviceClosed ctx b d (begun ctx 0x31 s))) := by
  rw [exec_topoDeviceReset h]
  refine congrArg _ ((if_neg (by simp [hs])).trans ((if_neg ?_).trans ?_))
  · show ¬ (!handleCurrent s b.handle) = true
    rw [hc]
    decide
  · rw [show dev? (begun ctx codeDeviceReset s) (field b.handle 0 12) = some d from hd]
    rfl

/-- A root reset that is due begins, or waits for the transaction in progress. -/
theorem startRootReset_begins (k : Nat) (v : State) : (port (startRootReset k v) k).resetDue = true
    ∨ (port (startRootReset k v) k).resetting = true ∧ (port (startRootReset k v) k).attach = .signalling := by
  obtain ⟨-, hState⟩ := startRootReset_does k v
  split at hState
  · exact Or.inl hState
  · obtain ⟨hSignal, hAttach, -⟩ := hState
    exact Or.inr ⟨hSignal, hAttach⟩

theorem deviceReset_does (h : serves s = true) (hs : sender ctx.chan = 0) (hc : handleCurrent s b.handle = true)
    (hd : dev? s (field b.handle 0 12) = some d) :
    (d.isHub = true → ∃ u, exec (.topoDeviceReset ctx b) s = .next u ∧ TopoAnswered ctx 0x31 b 4 s u)
      ∧ ∀ p, d.isHub = false → d.loc = .root p → ∃ u, exec (.topoDeviceReset ctx b) s = .next u
        ∧ ((port u p.val).resetDue = true ∨ (port u p.val).resetting = true ∧ (port u p.val).attach = .signalling) := by
  have hRun := deviceReset_device h hs hc hd
  refine ⟨fun hHub => ⟨_, hRun.trans (congrArg _ (if_pos hHub)), topoAnswer_at_once _ _ _ _ _⟩, fun p hHub hLoc => ?_⟩
  rw [if_neg (by rw [hHub]; decide)] at hRun
  refine ⟨startRootReset p.val (deviceClosed ctx b d (begun ctx 0x31 s)), ?_, startRootReset_begins _ _⟩
  rw [hRun, hLoc]

end

/-- Settles O41: the refusals answered with the tree as it was, and what each command does with the place it names. -/
theorem topoCommands : Obligations.TopoCommands := by
  unfold Obligations.TopoCommands
  intro s ctx b h
  exact ⟨fun e he hs => places_vf h he hs, fun hs => topoBind_vf h hs, fun hs hl => topoBind_nowhere (p := 0) h hs (Or.inl hl),
    fun e he hs hl => places_nowhere h he hs hl,
    fun p hs hl => ⟨topoReset_down h hs hl, topoReset_commands h hs hl, topoSuspend_already h hs hl, topoSuspend_suspends h hs hl,
      topoResume_running h hs hl, topoResume_reset h hs hl, topoResume_waits h hs hl, topoDisable_disables h hs hl,
      topoBind_nowhere h hs (Or.inr hl)⟩,
    fun i q hs hl => topoBind_hub h hs hl, fun hs => deviceReset_vf h hs, fun hs hc => deviceReset_stale h hs hc,
    fun d hs hc hd => deviceReset_does h hs hc hd⟩

end Sys2Proof.Machine
end

section
/-! PROOFS. The frame and microframe boundaries (R26, R137 to R139, R142 to R145, R386). -/

namespace Sys2Proof.Machine

section
variable {s t u v : State}

/-! ### What a change of mode leaves of the frame -/

/-- The frame in `u` is that of `v`: its epoch, its microframe, their instants and its length. -/
structure FrameSame (v u : State) : Prop where
  epoch : u.tb.epoch = v.tb.epoch
  uframe : u.tb.uframe = v.tb.uframe
  frameAt : u.tb.frameAt = v.tb.frameAt
  uframeAt : u.tb.uframeAt = v.tb.uframeAt
  flen : u.tb.flen = v.tb.flen

theorem FrameSame.refl (v : State) : FrameSame v v := ⟨rfl, rfl, rfl, rfl, rfl⟩

theorem FrameSame.trans (h : FrameSame v t) (k : FrameSame t u) : FrameSame v u :=
  ⟨k.epoch.trans h.epoch, k.uframe.trans h.uframe, k.frameAt.trans h.frameAt, k.uframeAt.trans h.uframeAt, k.flen.trans h.flen⟩

theorem raise_frameSame (r : EvtReg) (b : Nat) (v : State) : FrameSame v (raise r b v) := by
  have hTb : (raise r b v).tb = v.tb := raise_keeps (bl := .tb) r b (Keeps.refl .tb v) (by decide)
  exact ⟨by rw [hTb], by rw [hTb], by rw [hTb], by rw [hTb], by rw [hTb]⟩

theorem loseLock_frameSame (next : Lock) (v : State) : FrameSame v (loseLock next v) := by
  unfold loseLock
  dsimp only
  split
  · exact (show FrameSame v { v with tb := { v.tb with lock := next, passes := 0, inBand := 0 } } from ⟨rfl, rfl, rfl, rfl, rfl⟩).trans
      (raise_frameSame _ _ _)
  · exact ⟨rfl, rfl, rfl, rfl, rfl⟩

/-- The clamp is entered: the event is raised behind the note of its side. -/
theorem clamp_frameSame (long : Bool) (v : State) :
    FrameSame v (raise .tb 2 { loseLock .clamped v with tb := { (loseLock .clamped v).tb with clampLong := long } }) :=
  ((loseLock_frameSame .clamped v).trans
    (show FrameSame _ { loseLock .clamped v with tb := { (loseLock .clamped v).tb with clampLong := long } } from ⟨rfl, rfl, rfl, rfl, rfl⟩)).trans
    (raise_frameSame _ _ _)

theorem lockEval_frameSame (i : Nat) (cycle : Bool) (v : State) : FrameSame v (lockEval i cycle v) := by
  unfold lockEval
  dsimp only
  split
  · exact .refl v
  · split
    · exact .refl v
    · split
      · exact ⟨rfl, rfl, rfl, rfl, rfl⟩
      · split
        · exact .refl v
        · split
          · exact ⟨rfl, rfl, rfl, rfl, rfl⟩
          · exact ⟨rfl, rfl, rfl, rfl, rfl⟩
    · split
      · exact clamp_frameSame _ v
      · exact .refl v

/-- The mode that takes effect. -/
def modeNow (s : State) : BitVec 2 := if toAlwaysOn s then 0 else BitVec.ofNat 2 (field s.tb.ctl 0 2)

/-- MODE and AXSEL as they take effect. -/
def modeTaken (s : State) : State := { s with tb := { s.tb with mode := modeNow s, axsel := field s.tb.ctl 2 2 } }

/-- The lock state that follows, by the mode and the state before. -/
theorem takeMode_eq (s : State) : takeMode s = if modeNow s = 0 then
      if s.tb.lock == .free then modeTaken s
      else { loseLock .free (modeTaken s) with tb := { (loseLock .free (modeTaken s)).tb with clampLong := false } }
    else if s.tb.lock == .free then
      lockEval (field s.tb.ctl 2 2) false { modeTaken s with tb := { (modeTaken s).tb with lock := .acquire, passes := 0, inBand := 0 } }
    else if s.tb.axsel = field s.tb.ctl 2 2 then modeTaken s
    else lockEval (field s.tb.ctl 2 2) false (if s.tb.lock == .locked then loseLock .acquire (modeTaken s)
      else { modeTaken s with tb := { (modeTaken s).tb with passes := 0, inBand := 0 } }) := rfl

theorem takeMode_frameSame (s : State) : FrameSame s (takeMode s) := by
  have hTaken : FrameSame s (modeTaken s) := ⟨rfl, rfl, rfl, rfl, rfl⟩
  have hLost : ∀ k, FrameSame s (loseLock k (modeTaken s)) := fun k => hTaken.trans (loseLock_frameSame k _)
  have hEval : ∀ i w, FrameSame s w → FrameSame s (lockEval i false w) := fun i w hw => hw.trans (lockEval_frameSame i false w)
  rw [takeMode_eq]
  split
  · split
    · exact hTaken
    · exact (hLost .free).trans ⟨rfl, rfl, rfl, rfl, rfl⟩
  · split
    · exact hEval _ _ ⟨rfl, rfl, rfl, rfl, rfl⟩
    · split
      · exact hTaken
      · refine hEval _ _ ?_
        split
        · exact hLost .acquire
        · exact ⟨rfl, rfl, rfl, rfl, rfl⟩

theorem targetLen_frameSame (s : State) : FrameSame s (targetLen s).2 := by
  unfold targetLen
  split
  · exact .refl s
  · split
    · exact .refl s
    · split
      · exact .refl s
      · exact .refl s
      · exact ⟨rfl, rfl, rfl, rfl, rfl⟩

/-! ### The length of a frame (R137, R138) -/

theorem bandLen_bounds (n : Nat) : 376000 ≤ bandLen n ∧ bandLen n ≤ 424000 := by
  unfold bandLen
  omega

/-- A length in the band moves by at most 500 ppm and stays in the band. -/
theorem slew_bounds {n : Nat} (h1 : 376000 ≤ n) (h2 : n ≤ 424000) (target : Nat) : 376000 ≤ slew n target ∧ slew n target ≤ 424000
    ∧ slew n target ≤ n + n / 2000 ∧ n ≤ slew n target + n / 2000 := by
  obtain ⟨hLow, hHigh⟩ := bandLen_bounds target
  have hLim : n / 2000 / 8 * 8 ≤ n / 2000 := Nat.div_mul_le_self _ _
  unfold slew
  dsimp only
  split <;> omega

/-- The frame that begins: the next epoch, microframe 0, and a length that has slewed towards its target. -/
theorem beginFrame_does (s : State) : (beginFrame s).tb.epoch = s.tb.epoch + 1 ∧ (beginFrame s).tb.uframe = 0
    ∧ (beginFrame s).tb.uframeAt = (beginFrame s).tb.frameAt
    ∧ ∃ target, (beginFrame s).tb.flen = slew s.tb.flen target := by
  have hTaken := takeMode_frameSame (countFrame s)
  have hAll := hTaken.trans (targetLen_frameSame (takeMode (countFrame s)))
  refine ⟨hAll.epoch, hAll.uframe, hAll.uframeAt.trans hAll.frameAt.symm, (targetLen (takeMode (countFrame s))).1, ?_⟩
  show slew (takeMode (countFrame s)).tb.flen _ = _
  rw [hTaken.flen]
  rfl

theorem beginFrame_flen (h1 : 376000 ≤ s.tb.flen) (h2 : s.tb.flen ≤ 424000) : 376000 ≤ (beginFrame s).tb.flen
    ∧ (beginFrame s).tb.flen ≤ 424000 ∧ (beginFrame s).tb.flen ≤ s.tb.flen + s.tb.flen / 2000
    ∧ s.tb.flen ≤ (beginFrame s).tb.flen + s.tb.flen / 2000 := by
  obtain ⟨-, -, -, target, hLen⟩ := beginFrame_does s
  rw [hLen]
  exact slew_bounds h1 h2 target

/-! ### The boundaries -/

/-- The frame has begun: a part that hands over has yielded, and the banks have been swapped. -/
def frameBegun (s : State) : State :=
  let y := if yieldDue (beginFrame s) then enterYielded (beginFrame s) else beginFrame s
  swapIfPending { y with pwr := { y.pwr with moved := false, movedBefore := y.pwr.moved } }

theorem frameBoundary_eq (s : State) : frameBoundary s = sweepHandles (sendTime (ptmAutoStart
    (if serves (frameBegun s) then each (List.range 64) (boundarySof 0) (each (resumePlaces (frameBegun s)) endResume (frameBegun s))
      else frameBegun s))) := rfl

theorem exec_frameBoundary (h : live s = true) : exec .frameBoundary s = .next (frameBoundary s) :=
  (runs_of_guard (o := execFrameBoundary s) (s := s) (f := fun s => if live s then frameBoundary s else countFrame s) rfl
    (by rw [h]; rfl)).trans (congrArg _ (if_pos h))

theorem frameBoundary_quiet (h : live s = true) (hs : serves (frameBegun s) = false) :
    exec .frameBoundary s = .next (sweepHandles (sendTime (ptmAutoStart (frameBegun s)))) := by
  rw [exec_frameBoundary h, frameBoundary_eq, if_neg (by rw [hs]; decide)]

theorem frameBoundary_serves (h : live s = true) (hs : serves (frameBegun s) = true) : exec .frameBoundary s
    = .next (sweepHandles (sendTime (ptmAutoStart
      (each (List.range 64) (boundarySof 0) (each (resumePlaces (frameBegun s)) endResume (frameBegun s)))))) := by
  rw [exec_frameBoundary h, frameBoundary_eq, if_pos hs]

/-- A part that holds after a fatal error only counts. -/
theorem boundaries_held (hl : live s = false) (hh : holding s = true) : exec .frameBoundary s = .next (countFrame s)
    ∧ (timebaseRuns s = true → ∀ u : Fin 8, exec (.microframeBoundary u) s = .next (beginUframe u.val s)) :=
  ⟨(runs_of_guard (o := execFrameBoundary s) (s := s) (f := fun s => if live s then frameBoundary s else countFrame s) rfl
      (by rw [hl, hh]; rfl)).trans (congrArg _ (if_neg (by rw [hl]; decide))),
    fun ht u => (runs_of_guard (o := execMicroframeBoundary u s) (s := s) (f := fun s => if live s then microframe u.val s else beginUframe u.val s)
      rfl (by rw [hl, hh, ht]; rfl)).trans (congrArg _ (if_neg (by rw [hl]; decide)))⟩

/-- The microframe has begun, with what the last one left judged. -/
def uframeBegun (u : Nat) (s : State) : State :=
  let w := newUnits u (beginUframe u s)
  judgeIdle (if handoverDue u w then sendHandover 6 w else w)

/-- What the part that serves does at a microframe boundary. -/
def uframeServed (u : Nat) (z : State) : State :=
  let v := each (List.range 16) engineBoundary (dropLeft (if u = 0 then z else each (List.range 64) (boundarySof u) z))
  let y := beginSweep (openWindows
    (each (v.sch.live.filter fun e => e.2.kind != .float && isService e.2 (absUframe v)) (fun e s => beginService e.1 e.2 s) v))
  each ((y.topo.port.filter fun e => !e.2.lane.isEmpty).map Prod.fst) runLane y

theorem microframe_eq (u : Nat) (s : State) : microframe u s
    = beat u (if serves (uframeBegun u s) then uframeServed u (uframeBegun u s) else uframeBegun u s) := by
  unfold microframe uframeBegun uframeServed
  dsimp only

theorem exec_microframeBoundary (h : live s = true) (ht : timebaseRuns s = true) (u : Fin 8) :
    exec (.microframeBoundary u) s = .next (microframe u.val s) :=
  (runs_of_guard (o := execMicroframeBoundary u s) (s := s) (f := fun s => if live s then microframe u.val s else beginUframe u.val s) rfl
    (by rw [h, ht]; rfl)).trans (congrArg _ (if_pos h))

theorem microframe_quiet (h : live s = true) (ht : timebaseRuns s = true) (u : Fin 8) (hs : serves (uframeBegun u.val s) = false) :
    exec (.microframeBoundary u) s = .next (beat u.val (uframeBegun u.val s)) := by
  rw [exec_microframeBoundary h ht, microframe_eq, if_neg (by rw [hs]; decide)]

theorem microframe_serves (h : live s = true) (ht : timebaseRuns s = true) (u : Fin 8) (hs : serves (uframeBegun u.val s) = true) :
    exec (.microframeBoundary u) s = .next (beat u.val (uframeServed u.val (uframeBegun u.val s))) := by
  rw [exec_microframeBoundary h ht, microframe_eq, if_pos hs]

/-- The microframe that begins, in its frame. -/
theorem newUnits_begun (u : Nat) (s : State) : (newUnits u (beginUframe u s)).tb.uframe = u ∧ (newUnits u (beginUframe u s)).tb.epoch = s.tb.epoch :=
  ⟨rfl, rfl⟩

end

/-- Settles O42: the length slews within its band, and what each boundary does in order, by whether the part serves. -/
theorem boundaries : Obligations.Boundaries := by
  unfold Obligations.Boundaries
  intro s
  refine ⟨fun hl hh => boundaries_held hl hh, fun hl => ⟨?_, fun u ht => ?_⟩⟩
  · obtain ⟨hEpoch, hUframe, hAt, -⟩ := beginFrame_does s
    exact ⟨hEpoch, hUframe, hAt, beginFrame_flen, frameBoundary_quiet hl, frameBoundary_serves hl⟩
  · obtain ⟨hUframe, hEpoch⟩ := newUnits_begun u.val s
    refine ⟨hUframe, hEpoch, microframe_quiet hl ht u, fun hs => ?_⟩
    have hRun := microframe_serves hl ht u hs
    unfold uframeServed uframeBegun at hRun
    dsimp only at hRun ⊢
    exact hRun

end Sys2Proof.Machine
end

section
/-! PROOFS. Edges on the axis inputs, stalls, and a new count per cycle (R147 to R152). -/

namespace Sys2Proof.Machine

section
variable {s t u v : State} {i : Nat} {x y : Axis}

/-! ### What the compare units and the lock leave of the axes -/

/-- The axes and the instant in `u` are those of `v`. -/
structure AxesKept (v u : State) : Prop where
  ax : u.tb.ax = v.tb.ax
  tick : u.tb.tick = v.tb.tick

theorem AxesKept.refl (v : State) : AxesKept v v := ⟨rfl, rfl⟩

theorem AxesKept.trans (h : AxesKept v t) (k : AxesKept t u) : AxesKept v u := ⟨k.ax.trans h.ax, k.tick.trans h.tick⟩

theorem AxesKept.each {α : Type} (l : List α) (f : α → State → State) (h : ∀ x v, AxesKept v (f x v)) (v : State) :
    AxesKept v (each l f v) := by
  induction l generalizing v with
  | nil => exact .refl v
  | cons x l ih =>
    rw [each_cons]
    exact (h x v).trans (ih _)

theorem AxesKept.axis (h : AxesKept v u) (k : Nat) : axis u k = axis v k := by
  unfold Machine.axis
  rw [h.ax]

theorem AxesKept.now (h : AxesKept v u) : now u = now v := by
  unfold Machine.now
  rw [h.tick]

theorem raise_axes (r : EvtReg) (b : Nat) (v : State) : AxesKept v (raise r b v) := by
  have hTb : (raise r b v).tb = v.tb := raise_keeps (bl := .tb) r b (Keeps.refl .tb v) (by decide)
  exact ⟨by rw [hTb], by rw [hTb]⟩

theorem finish_axes (j : Nat) (st : Byte) (v : State) : AxesKept v (finish j st v) := by
  obtain ⟨_, _, _, _, _, hEnd⟩ := finish_ends j st v
  rw [hEnd]
  exact ⟨rfl, rfl⟩

theorem unitDone_axes (c : Nat) (v : State) : AxesKept v (unitDone c v) := ⟨rfl, rfl⟩

theorem noteEval_axes (b : Bool) (p c : Nat) (v : State) : AxesKept v (noteEval b p c v) := ⟨rfl, rfl⟩

theorem unitPend_axes (c : Nat) (v : State) : AxesKept v (unitPend c v) := by
  unfold unitPend
  split
  · exact raise_axes _ _ v
  · exact .refl v

theorem unitMiss_axes (c : Nat) (v : State) : AxesKept v (unitMiss c v) := by
  have hPend : AxesKept v (unitPend c (modUnit c (fun u => { u with missed := true }) v)) :=
    (show AxesKept v (modUnit c (fun u => { u with missed := true }) v) from ⟨rfl, rfl⟩).trans (unitPend_axes c _)
  unfold unitMiss
  dsimp only
  split
  · exact (hPend.trans (finish_axes _ _ _)).trans (unitDone_axes _ _)
  · exact hPend.trans (unitDone_axes _ _)

theorem unitJump_axes (p d : Nat) (cyc : U16) (r : Bool) (c : Nat) (v : State) : AxesKept v (unitJump p d cyc r c v) := by
  unfold unitJump
  dsimp only
  split
  · split
    · split
      · exact unitMiss_axes c v
      · exact .refl v
    · exact .refl v
  · exact .refl v

theorem unitSettle_axes (i c : Nat) (v : State) : AxesKept v (unitSettle i c v) := by
  unfold unitSettle
  dsimp only
  split
  · exact (unitJump_axes _ _ _ _ _ _).trans (noteEval_axes _ _ _ _)
  · exact .refl v

theorem unitsSettled_axes (i : Nat) (l : List Nat) (v : State) : AxesKept v (each l (unitSettle i) v) :=
  AxesKept.each l (unitSettle i) (unitSettle_axes i) v

theorem axisMoved_axes (i p d : Nat) (cyc : U16) (r : Bool) (v : State) : AxesKept v (axisMoved i p d cyc r v) :=
  AxesKept.each _ _ (fun c w => (unitJump_axes p d cyc r c w).trans (noteEval_axes _ _ _ _)) v

theorem loseLock_axes (next : Lock) (v : State) : AxesKept v (loseLock next v) := by
  have hNoted : AxesKept v { v with tb := { v.tb with lock := next, passes := 0, inBand := 0 } } := ⟨rfl, rfl⟩
  unfold loseLock
  dsimp only
  split
  · exact hNoted.trans (raise_axes _ _ _)
  · exact hNoted

theorem lockEval_axes (i : Nat) (cycle : Bool) (v : State) : AxesKept v (lockEval i cycle v) := by
  have hClamp : ∀ b, AxesKept v (raise .tb 2 { loseLock .clamped v with tb := { (loseLock .clamped v).tb with clampLong := b } }) := fun b =>
    ((loseLock_axes .clamped v).trans
      (show AxesKept _ { loseLock .clamped v with tb := { (loseLock .clamped v).tb with clampLong := b } } from ⟨rfl, rfl⟩)).trans (raise_axes _ _ _)
  unfold lockEval
  dsimp only
  split
  · exact .refl v
  · split
    · exact .refl v
    · split
      · exact ⟨rfl, rfl⟩
      · split
        · exact .refl v
        · split
          · exact ⟨rfl, rfl⟩
          · exact ⟨rfl, rfl⟩
    · split
      · exact hClamp _
      · exact .refl v

/-! ### One axis that moves -/

/-- From `s` to `u` axis `i` has become `y`, and the other axes and the instant are as they were. -/
def AxisIs (i : Nat) (y : Axis) (s u : State) : Prop := axis u i = y ∧ (∀ k, k ≠ i → axis u k = axis s k) ∧ now u = now s

theorem AxisIs.refl (i : Nat) (s : State) : AxisIs i (axis s i) s s := ⟨rfl, fun _ _ => rfl, rfl⟩

theorem AxisIs.kept (h : AxisIs i y s v) (k : AxesKept v u) : AxisIs i y s u := by
  obtain ⟨hAxis, hOthers, hNow⟩ := h
  exact ⟨(k.axis i).trans hAxis, fun j hj => (k.axis j).trans (hOthers j hj), k.now.trans hNow⟩

theorem AxisIs.mod (h : AxisIs i y s v) (g : Axis → Axis) : AxisIs i (g y) s (modAxis i g v) := by
  obtain ⟨hAxis, hOthers, hNow⟩ := h
  refine ⟨?_, fun j hj => ?_, hNow⟩
  · rw [axis_modAxis, if_pos rfl, hAxis]
  · rw [axis_modAxis, if_neg hj, hOthers j hj]

theorem AxisIs.as {z : Axis} (h : AxisIs i y s v) (e : y = z) : AxisIs i z s v := e ▸ h

theorem stepCycle_eq (i : Nat) (up : Bool) (v : State) : stepCycle i up v
    = if (up && (axis v i).cycle == 0xFFFF) || (!up && (axis v i).cycle == 0)
      then raiseAx i 0 (modAxis i (fun x => { x with cycle := if up then (axis v i).cycle + 1 else (axis v i).cycle - 1 }) v)
      else modAxis i (fun x => { x with cycle := if up then (axis v i).cycle + 1 else (axis v i).cycle - 1 }) v := rfl

/-- A step of the cycle count. -/
theorem AxisIs.stepCycle (h : AxisIs i y s v) (up : Bool) :
    AxisIs i { y with cycle := if up then y.cycle + 1 else y.cycle - 1 } s (stepCycle i up v) := by
  have hStep : AxisIs i { y with cycle := if up then y.cycle + 1 else y.cycle - 1 } s
      (modAxis i (fun x => { x with cycle := if up then (axis v i).cycle + 1 else (axis v i).cycle - 1 }) v) := by
    refine (h.mod _).as ?_
    rw [h.1]
  by_cases hc : ((up && (axis v i).cycle == 0xFFFF) || (!up && (axis v i).cycle == 0)) = true
  · rw [stepCycle_eq, if_pos hc]
    exact hStep.kept (raise_axes _ _ _)
  · rw [stepCycle_eq, if_neg hc]
    exact hStep

theorem AxisIs.startCycle (h : AxisIs i y s v) : AxisIs i (cycleBegun (now s) y) s (startCycle i v) := by
  have hNow := h.2.2
  unfold Machine.startCycle
  dsimp only
  rw [hNow]
  exact (h.mod _).stepCycle true

theorem AxisIs.timeEdge (h : AxisIs i y s v) (r : Bool) : AxisIs i (edgeTimed (now s) r y) s (timeEdge i r v) := by
  have hNow := h.2.2
  unfold Machine.timeEdge
  dsimp only
  rw [hNow]
  exact h.mod _

/-- The axis behind a forward count, its position not yet placed. -/
def upCount (t : Nat) (x : Axis) : Axis :=
  if x.count + 1 < axCpc x then { edgeTimed t false x with count := x.count + 1 }
  else cycleBegun t { edgeTimed t false x with count := 0, wraps := x.wraps + 1 }

/-- The axis behind a reverse count, its position not yet placed. -/
def downCount (t : Nat) (x : Axis) : Axis :=
  if x.count = 0 then { edgeTimed t true x with count := axCpc x - 1, wraps := x.wraps - 1, cycle := x.cycle - 1, cycleStart := none }
  else { edgeTimed t true x with count := x.count - 1, cycleStart := none }

theorem AxisIs.countForward (h : AxisIs i y s v) : AxisIs i (upCount (now s) y) s (countForward i v) := by
  unfold Machine.countForward upCount
  rw [h.1]
  dsimp only
  split
  · exact (h.timeEdge false).mod fun x => { x with count := x.count + 1 }
  · exact ((h.timeEdge false).mod fun x => { x with count := 0, wraps := x.wraps + 1 }).startCycle

theorem AxisIs.countReverse (h : AxisIs i y s v) : AxisIs i (downCount (now s) y) s (countReverse i v) := by
  have hTimed := (h.timeEdge true).mod fun x => { x with cycleStart := none }
  have hRaised : AxisIs i { edgeTimed (now s) true y with cycleStart := none } s (if y.reverse
      then modAxis i (fun x => { x with cycleStart := none }) (Machine.timeEdge i true v)
      else raiseAx i 4 (modAxis i (fun x => { x with cycleStart := none }) (Machine.timeEdge i true v))) := by
    split
    · exact hTimed
    · exact hTimed.kept (raise_axes _ _ _)
  unfold Machine.countReverse downCount
  rw [h.1]
  dsimp only
  split
  · exact (hRaised.mod fun x => { x with count := axCpc x - 1, wraps := x.wraps - 1 }).stepCycle false |>.as rfl
  · exact hRaised.mod fun x => { x with count := x.count - 1 }

/-- The axis with its position placed by its count. -/
def placed (x : Axis) : Axis := { x with pos := if axMode x = 3 then 0 else posOf x x.count }

/-- A counting step that is shown to the compare units and the lock. -/
theorem withMove_is {f : State → State} (hf : ∀ v, AxisIs i (axis s i) s v → AxisIs i y s (f v)) (r : Bool) (h : AxisIs i (axis s i) s v) :
    AxisIs i (placed y) s (withMove i r f v) := by
  have hCounted := hf _ (h.kept (unitsSettled_axes i (unitsOn v i) v))
  obtain ⟨w, hw⟩ : ∃ w, w = f (each (unitsOn v i) (unitSettle i) v) := ⟨_, rfl⟩
  rw [← hw] at hCounted
  have hPlaced : AxisIs i (placed y) s (modAxis i (fun x => { x with pos := if axMode (axis w i) = 3 then 0 else posOf (axis w i) (axis w i).count }) w) := by
    refine (hCounted.mod _).as ?_
    rw [hCounted.1]
    rfl
  unfold withMove
  dsimp only
  rw [← hw]
  exact (hPlaced.kept (axisMoved_axes _ _ _ _ _ _)).kept (lockEval_axes _ _ _)

theorem posOf_zero (x : Axis) : posOf x 0 = 0 := by
  unfold posOf
  rw [Nat.zero_mul, Nat.zero_div]

theorem placed_up (hm : axMode x ≠ 3) (t : Nat) : placed (upCount t x) = countedUp t x := by
  unfold upCount countedUp
  split
  · exact congrArg (fun p => { edgeTimed t false x with count := x.count + 1, pos := p }) (if_neg hm)
  · exact congrArg (fun p => { cycleBegun t { edgeTimed t false x with count := 0, wraps := x.wraps + 1 } with pos := p })
      ((if_neg hm).trans (posOf_zero _))

theorem placed_down (hm : axMode x ≠ 3) (t : Nat) : placed (downCount t x) = countedDown t x := by
  unfold downCount countedDown
  split
  · exact congrArg (fun p => { edgeTimed t true x with
      count := axCpc x - 1, wraps := x.wraps - 1, cycle := x.cycle - 1, cycleStart := none, pos := p }) (if_neg hm)
  · exact congrArg (fun p => { edgeTimed t true x with count := x.count - 1, cycleStart := none, pos := p }) (if_neg hm)

end

section
variable {s : State} {i : Fin 4} {a b : Bool}

/-! ### Count edges (R148, R149) -/

theorem exec_axisCountEdge (hl : live s = true) (ht : timebaseRuns s = true) (a b : Bool) :
    exec (.axisCountEdge i a b) s = .next (countEdge i.val a b s) :=
  runs_of_guard (o := execAxisCountEdge i a b s) (s := s) (f := countEdge i.val a b) rfl (by rw [hl, ht]; rfl)

/-- In this mode the levels show a count edge. -/
def isEdge (x : Axis) (a : Bool) : Bool := match axMode x with
  | 0 => false
  | 1 => true
  | _ => a

/-- What an edge that is not too soon does in quadrature. -/
def quadEdge (i : Nat) (a b : Bool) (s : State) : State :=
  if a == (axis s i).stA && b == (axis s i).stB then modAxis i (fun x => { x with stalled := false }) s
  else if a != (axis s i).stA && b != (axis s i).stB then raiseAx i 3 (modAxis i (fun x => { x with stalled := false }) s)
  else modAxis i (fun x => { x with stA := a, stB := b })
    (withMove i (!quadForward (axis s i) a b) (if quadForward (axis s i) a b then countForward i else countReverse i) s)

theorem countEdge_eq (i : Nat) (a b : Bool) (s : State) : countEdge i a b s = if !isEdge (axis s i) a then s
    else if tooSoon (axis s i) (now s) then raiseAx i 3 s
    else if axMode (axis s i) = 1 then quadEdge i a b s
    else if axMode (axis s i) = 2 then withMove i false (countForward i) s
    else withMove i false (fun s => startCycle i (timeEdge i false s)) s := by
  unfold countEdge isEdge quadEdge
  rfl

theorem axMode_lt (x : Axis) : axMode x < 4 := Nat.mod_lt _ (by decide)

theorem isEdge_none {x : Axis} (he : axMode x = 0 ∨ (2 ≤ axMode x ∧ a = false)) : isEdge x a = false := by
  have hLt := axMode_lt x
  unfold isEdge
  rcases he with he | ⟨he, ha⟩
  · rw [he]
    rfl
  · obtain h2 | h3 : axMode x = 2 ∨ axMode x = 3 := by omega
    · rw [h2, ha]
      rfl
    · rw [h3, ha]
      rfl

theorem isEdge_some {x : Axis} (he : axMode x = 1 ∨ (2 ≤ axMode x ∧ a = true)) : isEdge x a = true := by
  have hLt := axMode_lt x
  unfold isEdge
  rcases he with he | ⟨he, ha⟩
  · rw [he]
    rfl
  · obtain h2 | h3 : axMode x = 2 ∨ axMode x = 3 := by omega
    · rw [h2, ha]
      rfl
    · rw [h3, ha]
      rfl

theorem countEdge_none (hl : live s = true) (ht : timebaseRuns s = true)
    (he : axMode (axis s i.val) = 0 ∨ (2 ≤ axMode (axis s i.val) ∧ a = false)) : exec (.axisCountEdge i a b) s = .next s := by
  rw [exec_axisCountEdge hl ht, countEdge_eq, if_pos (by rw [isEdge_none he]; rfl)]

/-- An edge is accepted, or lost. -/
theorem countEdge_edge (hl : live s = true) (ht : timebaseRuns s = true)
    (he : axMode (axis s i.val) = 1 ∨ (2 ≤ axMode (axis s i.val) ∧ a = true)) (b : Bool) : exec (.axisCountEdge i a b) s
      = .next (if tooSoon (axis s i.val) (now s) then raiseAx i.val 3 s
        else if axMode (axis s i.val) = 1 then quadEdge i.val a b s
        else if axMode (axis s i.val) = 2 then withMove i.val false (countForward i.val) s
        else withMove i.val false (fun s => startCycle i.val (timeEdge i.val false s)) s) := by
  rw [exec_axisCountEdge hl ht, countEdge_eq, if_neg (by rw [isEdge_some he]; decide)]

/-- EDGE_LOST is raised for its axis. -/
theorem edgeLost_bit (i : Fin 4) (v : State) : bit (evtWord (raiseAx i.val 3 v) (128 + i.val)) 3 = true := by
  have hBit := raise_bit (.ax (Fin.ofNat 4 i.val)) 3 (by decide) v
  have hKey : evtKey (.ax (Fin.ofNat 4 i.val)) = 128 + i.val := by
    show 128 + i.val % 4 = _
    rw [Nat.mod_eq_of_lt i.isLt]
  rw [hKey] at hBit
  exact hBit

theorem countEdge_soon (hl : live s = true) (ht : timebaseRuns s = true)
    (he : axMode (axis s i.val) = 1 ∨ (2 ≤ axMode (axis s i.val) ∧ a = true)) (hs : tooSoon (axis s i.val) (now s) = true) :
    ∃ u, exec (.axisCountEdge i a b) s = .next u ∧ axis u = axis s ∧ bit (evtWord u (128 + i.val)) 3 = true := by
  have hRun := countEdge_edge hl ht he b
  rw [if_pos hs] at hRun
  exact ⟨_, hRun, funext (raise_axes _ _ s).axis, edgeLost_bit i s⟩

theorem countEdge_quad (hl : live s = true) (ht : timebaseRuns s = true) (hm : axMode (axis s i.val) = 1)
    (hs : tooSoon (axis s i.val) (now s) = false) (a b : Bool) : exec (.axisCountEdge i a b) s = .next (quadEdge i.val a b s) := by
  rw [countEdge_edge hl ht (Or.inl hm), if_neg (by rw [hs]; decide), if_pos hm]

theorem quadEdge_same (ha : a = (axis s i.val).stA) (hb : b = (axis s i.val).stB) :
    AxisIs i.val { axis s i.val with stalled := false } s (quadEdge i.val a b s) := by
  unfold quadEdge
  rw [if_pos (by simp [ha, hb])]
  exact (AxisIs.refl i.val s).mod fun x => { x with stalled := false }

theorem quadEdge_both (ha : a ≠ (axis s i.val).stA) (hb : b ≠ (axis s i.val).stB) :
    AxisIs i.val { axis s i.val with stalled := false } s (quadEdge i.val a b s)
      ∧ bit (evtWord (quadEdge i.val a b s) (128 + i.val)) 3 = true := by
  unfold quadEdge
  rw [if_neg (by simp [ha]), if_pos (by simp [ha, hb])]
  exact ⟨((AxisIs.refl i.val s).mod fun x => { x with stalled := false }).kept (raise_axes _ _ _), edgeLost_bit i _⟩

theorem quadEdge_one (hab : ((a == (axis s i.val).stA) != (b == (axis s i.val).stB)) = true) (hm : axMode (axis s i.val) = 1) {f : Bool}
    (hf : quadForward (axis s i.val) a b = f) : AxisIs i.val
      { (if f then countedUp (now s) (axis s i.val) else countedDown (now s) (axis s i.val)) with stA := a, stB := b } s
      (quadEdge i.val a b s) := by
  have hNotSame : ¬ (a == (axis s i.val).stA && b == (axis s i.val).stB) = true := by
    intro hc
    obtain ⟨h1, h2⟩ := Bool.and_eq_true_iff.mp hc
    rw [h1, h2] at hab
    exact absurd hab (by decide)
  have hNotBoth : ¬ (a != (axis s i.val).stA && b != (axis s i.val).stB) = true := by
    intro hc
    obtain ⟨h1, h2⟩ := Bool.and_eq_true_iff.mp hc
    rw [beq_false_of_ne (bne_iff_ne.mp h1), beq_false_of_ne (bne_iff_ne.mp h2)] at hab
    exact absurd hab (by decide)
  unfold quadEdge
  rw [if_neg hNotSame, if_neg hNotBoth, hf]
  cases f with
  | true =>
    have hUp := withMove_is (fun v hv => hv.countForward) (!true) (AxisIs.refl i.val s)
    rw [placed_up (by rw [hm]; decide)] at hUp
    exact hUp.mod fun x => { x with stA := a, stB := b }
  | false =>
    have hDown := withMove_is (fun v hv => hv.countReverse) (!false) (AxisIs.refl i.val s)
    rw [placed_down (by rw [hm]; decide)] at hDown
    exact hDown.mod fun x => { x with stA := a, stB := b }

theorem countEdge_step (hl : live s = true) (ht : timebaseRuns s = true) (he : axMode (axis s i.val) = 2 ∧ a = true)
    (hs : tooSoon (axis s i.val) (now s) = false) (b : Bool) :
    ∃ u, exec (.axisCountEdge i a b) s = .next u ∧ AxisIs i.val (countedUp (now s) (axis s i.val)) s u := by
  obtain ⟨hm, ha⟩ := he
  have hRun := countEdge_edge (i := i) hl ht (Or.inr ⟨by omega, ha⟩) b
  rw [if_neg (by rw [hs]; decide), if_neg (by omega), if_pos hm] at hRun
  have hUp := withMove_is (fun v hv => hv.countForward) false (AxisIs.refl i.val s)
  rw [placed_up (x := axis s i.val) (by omega)] at hUp
  exact ⟨_, hRun, hUp⟩

theorem countEdge_cycle (hl : live s = true) (ht : timebaseRuns s = true) (he : axMode (axis s i.val) = 3 ∧ a = true)
    (hs : tooSoon (axis s i.val) (now s) = false) (b : Bool) : ∃ u, exec (.axisCountEdge i a b) s = .next u
      ∧ AxisIs i.val { cycleBegun (now s) (edgeTimed (now s) false (axis s i.val)) with pos := 0 } s u := by
  obtain ⟨hm, ha⟩ := he
  have hRun := countEdge_edge (i := i) hl ht (Or.inr ⟨by omega, ha⟩) b
  rw [if_neg (by rw [hs]; decide), if_neg (by omega), if_neg (by omega)] at hRun
  have hCycle := withMove_is (f := fun s => startCycle i.val (timeEdge i.val false s)) (fun v hv => (hv.timeEdge false).startCycle) false
    (AxisIs.refl i.val s)
  exact ⟨_, hRun, hCycle.as (congrArg (fun p => { cycleBegun (now s) (edgeTimed (now s) false (axis s i.val)) with pos := p }) (if_pos hm))⟩

/-! ### The index edge, and a stalled axis (R150, R152) -/

/-- What a Z edge that moves forward does. -/
def indexes (i : Nat) (back : Bool) (wraps : Nat) (v : State) : State :=
  withMove i back (fun s => if 0 < wraps then modAxis i (fun x => { x with count := 0, wraps := 0 }) s
    else startCycle i (modAxis i (fun x => { x with count := 0, wraps := 0 }) s)) v

theorem exec_axisIndexEdge (hl : live s = true) (ht : timebaseRuns s = true) : exec (.axisIndexEdge i) s = .next (indexEdge i.val s) :=
  runs_of_guard (o := execAxisIndexEdge i s) (s := s) (f := indexEdge i.val) rfl (by rw [hl, ht]; rfl)

theorem indexEdge_ignored (hl : live s = true) (ht : timebaseRuns s = true)
    (h : axMode (axis s i.val) ≠ 1 ∨ axZsync (axis s i.val) = false ∨ (axis s i.val).reverse = true) :
    exec (.axisIndexEdge i) s = .next s := by
  refine (exec_axisIndexEdge hl ht).trans (congrArg _ (if_pos ?_))
  rcases h with h | h | h
  · simp [h]
  · simp [h]
  · simp [h]

theorem indexEdge_begins (hl : live s = true) (ht : timebaseRuns s = true) (hm : axMode (axis s i.val) = 1)
    (hz : axZsync (axis s i.val) = true) (hr : (axis s i.val).reverse = false) : ∃ u, exec (.axisIndexEdge i) s = .next u
      ∧ AxisIs i.val (if 0 < (axis s i.val).wraps then { axis s i.val with count := 0, wraps := 0, pos := 0 }
          else { cycleBegun (now s) { axis s i.val with count := 0, wraps := 0 } with pos := 0 }) s u := by
  obtain ⟨v, hv⟩ : ∃ v, v = if (axis s i.val).count = 0 || (axis s i.val).count + 1 = axCpc (axis s i.val) then s else raiseAx i.val 1 s := ⟨_, rfl⟩
  have hStart : AxisIs i.val (axis s i.val) s v := by
    rw [hv]
    split
    · exact .refl _ s
    · exact (AxisIs.refl _ s).kept (raise_axes _ _ _)
  obtain ⟨back, hBack⟩ : ∃ back, back = ((axis s i.val).count != 0 && (axis s i.val).count < axCpc (axis s i.val) / 2
    && decide (0 < (axis s i.val).wraps)) := ⟨_, rfl⟩
  have hRun : exec (.axisIndexEdge i) s = .next (indexes i.val back (axis s i.val).wraps v) := by
    rw [exec_axisIndexEdge hl ht]
    unfold indexEdge indexes
    dsimp only
    rw [if_neg (by simp [hm, hz, hr]), ← hv, hBack]
  refine ⟨_, hRun, ?_⟩
  unfold indexes
  split
  · next hw =>
    refine (withMove_is (fun w hw => hw.mod fun x => { x with count := 0, wraps := 0 }) back hStart).as ?_
    exact congrArg (fun p => { axis s i.val with count := 0, wraps := 0, pos := p }) ((if_neg (by show ¬ axMode (axis s i.val) = 3; omega)).trans (posOf_zero _))
  · next hw =>
    refine (withMove_is (fun w hw => (hw.mod fun x => { x with count := 0, wraps := 0 }).startCycle) back hStart).as ?_
    exact congrArg (fun p => { cycleBegun (now s) { axis s i.val with count := 0, wraps := 0 } with pos := p })
      ((if_neg (by show ¬ axMode (axis s i.val) = 3; omega)).trans (posOf_zero _))

theorem axisStall_holds (hl : live s = true) (ht : timebaseRuns s = true) (hm : axMode (axis s i.val) ≠ 0) (hTo : axStallTo (axis s i.val) ≠ 0)
    (hs : (axis s i.val).stalled = false) : ∃ u, exec (.axisStall i) s = .next u
      ∧ AxisIs i.val { axis s i.val with pos := posAt (axis s i.val) (now s), stalled := true, interval := none } s u := by
  have hRun : exec (.axisStall i) s = .next (lockEval i.val false (raiseAx i.val 2
      (modAxis i.val (fun x => { x with pos := posAt x (now s), stalled := true, interval := none })
        (each (unitsOn s i.val) (unitSettle i.val) s)))) :=
    runs_of_guard (o := execAxisStall i s) (s := s) (f := fun s => lockEval i.val false (raiseAx i.val 2
      (modAxis i.val (fun x => { x with pos := posAt x (now s), stalled := true, interval := none })
        (each (unitsOn s i.val) (unitSettle i.val) s)))) rfl (by rw [hl, ht, hs]; simp [hm, hTo])
  have hSettled := (AxisIs.refl i.val s).kept (unitsSettled_axes i.val (unitsOn s i.val) s)
  exact ⟨_, hRun, ((hSettled.mod fun x => { x with pos := posAt x (now s), stalled := true, interval := none }).kept (raise_axes _ _ _)).kept
    (lockEval_axes _ _ _)⟩

/-! ### Counts per cycle (R149) -/

/-- The axis whose count is placed anew in cycles of `c`. -/
def recounted (c : U32) (x : Axis) : Axis :=
  let n := x.count % max 1 (field c 0 24)
  { x with cpc := c, count := n, pos := n * cyclePos / max 1 (field c 0 24), period := 0xFFFFFFFF, cycleStart := none }

theorem exec_axCpcWrite (h : hostReaches s 0 = true) (v : U32) : exec (.axCpcWrite i v) s = .next (cpcWrite i.val v s) :=
  runs_of_guard (o := execAxCpcWrite i v s) (s := s) (f := cpcWrite i.val v) rfl h

theorem cpcWrite_does (h : hostReaches s 0 = true) (v : U32) :
    (axMode (axis s i.val) = 3 → ∃ u, exec (.axCpcWrite i v) s = .next u
        ∧ AxisIs i.val { axis s i.val with cpc := BitVec.ofNat 32 (field v 0 24) } s u)
      ∧ (axMode (axis s i.val) ≠ 3 → ∃ u, exec (.axCpcWrite i v) s = .next u
        ∧ AxisIs i.val (recounted (BitVec.ofNat 32 (field v 0 24)) (axis s i.val)) s u) := by
  have hSettled := (AxisIs.refl i.val s).kept (unitsSettled_axes i.val (unitsOn s i.val) s)
  obtain ⟨w, hw⟩ : ∃ w, w = each (unitsOn s i.val) (unitSettle i.val) s := ⟨_, rfl⟩
  rw [← hw] at hSettled
  have hRun := exec_axCpcWrite (i := i) h v
  unfold cpcWrite at hRun
  dsimp only at hRun
  rw [← hw, hSettled.1] at hRun
  refine ⟨fun hm => ?_, fun hm => ?_⟩
  · rw [if_pos hm] at hRun
    exact ⟨_, hRun, hSettled.mod fun x => { x with cpc := BitVec.ofNat 32 (field v 0 24) }⟩
  · rw [if_neg hm] at hRun
    exact ⟨_, hRun, ((hSettled.mod fun _ => recounted (BitVec.ofNat 32 (field v 0 24)) (axis s i.val)).kept
      (axisMoved_axes _ _ _ _ _ _)).kept (lockEval_axes _ _ _)⟩

/-- What the row leaves of the axes, in the form of the statement. -/
theorem axisTold {y : Axis} {o : Instr} (h : ∃ u, exec o s = .next u ∧ AxisIs i.val y s u) :
    ∃ u, exec o s = .next u ∧ axis u i.val = y ∧ ∀ k, k ≠ i.val → axis u k = axis s k := by
  obtain ⟨u, hRun, hAxis, hOthers, -⟩ := h
  exact ⟨u, hRun, hAxis, hOthers⟩

end

/-- Settles O43: what the units and the lock do leaves the axes, and a counting step moves one axis. -/
theorem axisEdges : Obligations.AxisEdges := by
  unfold Obligations.AxisEdges
  intro s i
  refine ⟨fun hl ht a b => ⟨fun he => countEdge_none hl ht he, fun he => ⟨fun hs => countEdge_soon hl ht he hs, fun hs => ?_⟩⟩,
    fun hl ht => ⟨indexEdge_ignored hl ht, fun hm hz hr => axisTold (indexEdge_begins hl ht hm hz hr),
      fun hm hTo hs => axisTold (axisStall_holds hl ht hm hTo hs)⟩,
    fun h v => ⟨fun hm => axisTold ((cpcWrite_does h v).1 hm), fun hm => axisTold ((cpcWrite_does h v).2 hm)⟩⟩
  have hQuad := fun hm => countEdge_quad hl ht hm hs a b
  refine ⟨fun hm ha hb => axisTold ⟨_, hQuad hm, quadEdge_same ha hb⟩, fun hm ha hb => ?_, fun hm hab hf => ?_, fun hm hab hf => ?_, fun hm => ?_, fun hm => ?_⟩
  · obtain ⟨⟨hAxis, -⟩, hBit⟩ := quadEdge_both ha hb
    exact ⟨_, hQuad hm, hAxis, hBit⟩
  · exact axisTold ⟨_, hQuad hm, quadEdge_one hab hm hf⟩
  · exact axisTold ⟨_, hQuad hm, quadEdge_one hab hm hf⟩
  · exact axisTold (countEdge_step hl ht ⟨hm, by rcases he with he | ⟨-, he⟩; (· omega); exact he⟩ hs b)
  · exact axisTold (countEdge_cycle hl ht ⟨hm, by rcases he with he | ⟨-, he⟩; (· omega); exact he⟩ hs b)

end Sys2Proof.Machine
end

section
/-! PROOFS. Compare units, and the registers of the timebase (R141, R143 to R146, R153 to R161, R166, R167, R470). -/

namespace Sys2Proof.Machine

section
variable {s v w : State} {c : Fin 256} {i : Nat} {e x : Item} {n u : CmpUnit}

/-! ### Firing (R154, R157, R159) -/

theorem exec_compareFire (hl : live s = true) (ht : timebaseRuns s = true) (hf : fires s c.val = true) :
    exec (.compareFire c) s = .next (unitFire c.val s) :=
  runs_of_guard (o := execCompareFire c s) (s := s) (f := unitFire c.val) rfl (by rw [hl, ht, hf]; rfl)

theorem fires_armed (hf : fires s c.val = true) : (cmpUnit s c.val).armed = true := by
  unfold fires at hf
  simp only [Bool.and_eq_true] at hf
  obtain ⟨⟨⟨⟨hArmed, -⟩, -⟩, -⟩, -⟩ := hf
  exact hArmed

/-- The unit that has fired at this instant. -/
def firedUnit (s : State) (u : CmpUnit) : CmpUnit :=
  { u with fired := true, time := now s, evalAt := now s, inside := true, evalPos := posAt (axis s u.axis) (now s) }

/-- The firing has been noted, with nothing reported yet. -/
def firingNoted (k : Nat) (s : State) : State :=
  noteEval true (posAt (axis s (cmpUnit s k).axis) (now s)) k (modUnit k (fun u => { u with fired := true, time := now s }) s)

theorem firingNoted_unit (k j : Nat) (s : State) :
    cmpUnit (firingNoted k s) j = if j = k then firedUnit s (cmpUnit s k) else cmpUnit s j := by
  unfold firingNoted noteEval
  rw [cmpUnit_modUnit]
  by_cases hj : j = k
  · rw [if_pos hj, if_pos hj, cmpUnit_modUnit, if_pos rfl]
    rfl
  · rw [if_neg hj, if_neg hj, cmpUnit_modUnit, if_neg hj]

theorem cmpUnit_of_tb (h : w.tb = v.tb) (k : Nat) : cmpUnit w k = cmpUnit v k := by
  unfold cmpUnit
  rw [h]

theorem raise_unit (r : EvtReg) (b : Nat) (v : State) (k : Nat) : cmpUnit (raise r b v) k = cmpUnit v k :=
  cmpUnit_of_tb (raise_keeps (bl := .tb) r b (Keeps.refl .tb v) (by decide)) k

/-- An EVENT unit that has fired: its pending bit is set, and it disarms unless any cycle keeps it armed. -/
theorem compareFire_event (hl : live s = true) (ht : timebaseRuns s = true) (hf : fires s c.val = true)
    (ha : unitAction (cmpUnit s c.val) = 1) (he : (cmpUnit s c.val).entry = none) : ∃ t, exec (.compareFire c) s = .next t
      ∧ (∀ k, k ≠ c.val → cmpUnit t k = cmpUnit s k)
      ∧ cmpUnit t c.val = { firedUnit s (cmpUnit s c.val) with armed := (cmpUnit s c.val).anyCycle }
      ∧ bit (evtWord t (132 + c.val / 32)) (c.val % 32) = true := by
  obtain ⟨w, hw⟩ : ∃ w, w = raise (.cmpPend (Fin.ofNat 8 (c.val / 32))) (c.val % 32) (firingNoted c.val s) := ⟨_, rfl⟩
  have hUnits : ∀ j, cmpUnit w j = if j = c.val then firedUnit s (cmpUnit s c.val) else cmpUnit s j := fun j => by
    rw [hw, raise_unit, firingNoted_unit]
  have hPend : unitPend c.val (firingNoted c.val s) = w := by
    unfold unitPend
    rw [firingNoted_unit, if_pos rfl, if_pos (show unitAction (firedUnit s (cmpUnit s c.val)) = actEvent from ha), hw]
  have hRun : exec (.compareFire c) s = .next (unitDone c.val w) := by
    refine (exec_compareFire hl ht hf).trans (congrArg _ ?_)
    unfold unitFire
    dsimp only
    rw [he, ← hPend]
    rfl
  have hKey : evtKey (.cmpPend (Fin.ofNat 8 (c.val / 32))) = 132 + c.val / 32 := by
    show 132 + c.val / 32 % 8 = _
    rw [Nat.mod_eq_of_lt (by have := c.isLt; omega)]
  refine ⟨_, hRun, fun k hk => ?_, ?_, ?_⟩
  · unfold unitDone
    rw [cmpUnit_modUnit, if_neg hk, hUnits, if_neg hk]
  · unfold unitDone
    rw [cmpUnit_modUnit, if_pos rfl, hUnits, if_pos rfl]
    have hAction : unitAction (firedUnit s (cmpUnit s c.val)) = actEvent := ha
    cases hAny : (cmpUnit s c.val).anyCycle with
    | true =>
      rw [if_pos (by rw [hAction]; exact hAny)]
      exact congrArg (fun b => { firedUnit s (cmpUnit s c.val) with armed := b }) (fires_armed hf)
    | false =>
      rw [if_neg (by rw [hAction]; show ¬ (true && (cmpUnit s c.val).anyCycle) = true; rw [hAny]; decide)]
      exact congrArg (fun o => { firedUnit s (cmpUnit s c.val) with armed := false, entry := o }) he.symm
  · have hBit := raise_bit (.cmpPend (Fin.ofNat 8 (c.val / 32))) (c.val % 32) (Nat.mod_lt _ (by decide)) (firingNoted c.val s)
    rw [hKey, ← hw] at hBit
    exact hBit

/-- The transfer of the unit that fires stands among those that wait for the port's floating reservation. -/
def handedOver (k : Nat) (port i : Nat) (t : Nat) (v : State) : State :=
  let w := modItem i (fun x => { x with fired := true, firedAt := t }) v
  unitDone k { w with sch := { w.sch with floatWait := tput w.sch.floatWait port (insertFired w k (tget ([] : List Nat) w.sch.floatWait port) i) } }

theorem insertFired_mem (v : State) (k : Nat) (l : List Nat) (i : Nat) : i ∈ insertFired v k l i := by
  unfold insertFired
  exact List.mem_append_right _ List.mem_cons_self

theorem cmpUnit_modItem (i : Nat) (g : Item → Item) (v : State) (k : Nat) : cmpUnit (modItem i g v) k = cmpUnit v k := by
  unfold modItem
  split
  · rfl
  · rfl

theorem compareFire_bind (hl : live s = true) (ht : timebaseRuns s = true) (hf : fires s c.val = true)
    (ha : unitAction (cmpUnit s c.val) ≠ 1) (he : (cmpUnit s c.val).entry = some i) : ∃ t, (∀ k, k ≠ c.val → cmpUnit t k = cmpUnit s k)
      ∧ exec (.compareFire c) s = .next (if tfind s.sch.floatIdle (cmpUnit s c.val).port = some (now s)
          then floatServe (cmpUnit s c.val).port t else t)
      ∧ cmpUnit t c.val = { firedUnit s (cmpUnit s c.val) with armed := false, entry := none }
      ∧ (∀ x, item? s i = some x → item? t i = some { x with fired := true, firedAt := now s })
      ∧ i ∈ tget [] t.sch.floatWait (cmpUnit s c.val).port := by
  have hUnits := firingNoted_unit c.val
  have hPend : unitPend c.val (firingNoted c.val s) = firingNoted c.val s := by
    unfold unitPend
    rw [hUnits, if_pos rfl, if_neg (show ¬ unitAction (firedUnit s (cmpUnit s c.val)) = actEvent from ha)]
  obtain ⟨w, hw⟩ : ∃ w, w = modItem i (fun x => { x with fired := true, firedAt := now s }) (firingNoted c.val s) := ⟨_, rfl⟩
  have hSch : w.sch = s.sch := by
    rw [hw]
    exact modItem_keeps (bl := .sch) _ _ (Keeps.refl .sch (firingNoted c.val s)) (by decide)
  have hHanded : ∀ j, cmpUnit w j = if j = c.val then firedUnit s (cmpUnit s c.val) else cmpUnit s j := fun j => by
    rw [hw, cmpUnit_modItem, hUnits]
  refine ⟨handedOver c.val (cmpUnit s c.val).port i (now s) (firingNoted c.val s), fun k hk => ?_, ?_, ?_, fun x hx => ?_, ?_⟩
  · unfold handedOver unitDone
    rw [cmpUnit_modUnit, if_neg hk]
    show cmpUnit (modItem i _ (firingNoted c.val s)) k = _
    rw [← hw, hHanded, if_neg hk]
  · refine (exec_compareFire hl ht hf).trans (congrArg _ ?_)
    have hIdle : (handedOver c.val (cmpUnit s c.val).port i (now s) (firingNoted c.val s)).sch.floatIdle = s.sch.floatIdle := by
      show (modItem i (fun x => { x with fired := true, firedAt := now s }) (firingNoted c.val s)).sch.floatIdle = _
      rw [← hw, hSch]
    unfold unitFire
    dsimp only
    rw [show noteEval true _ c.val (modUnit c.val _ s) = firingNoted c.val s from rfl, hPend, he]
    dsimp only
    rw [show unitDone c.val _ = handedOver c.val (cmpUnit s c.val).port i (now s) (firingNoted c.val s) from rfl, hIdle]
    simp only [beq_iff_eq]
  · unfold handedOver unitDone
    rw [cmpUnit_modUnit, if_pos rfl]
    show (if unitAction (cmpUnit (modItem i (fun x => { x with fired := true, firedAt := now s }) (firingNoted c.val s)) c.val) = actEvent
        && (cmpUnit (modItem i (fun x => { x with fired := true, firedAt := now s }) (firingNoted c.val s)) c.val).anyCycle then _ else _) = _
    rw [← hw, hHanded, if_pos rfl]
    have hAction : ¬ unitAction (firedUnit s (cmpUnit s c.val)) = actEvent := ha
    rw [decide_eq_false hAction, Bool.false_and]
    refine (if_neg Bool.false_ne_true).trans ?_
    show { cmpUnit w c.val with armed := false, entry := none } = _
    rw [hHanded, if_pos rfl]
  · show item? (modItem i (fun x => { x with fired := true, firedAt := now s }) (firingNoted c.val s)) i = _
    rw [item_modItem, if_pos rfl, show item? (firingNoted c.val s) i = some x from hx]
    rfl
  · show i ∈ tget [] (tput _ _ _) _
    rw [tget_tput_same]
    exact insertFired_mem _ _ _ _

/-! ### Arming (R158) -/

theorem exec_compareArmNext (hl : live s = true) (ha : unitAction (cmpUnit s c.val) = 2) :
    exec (.compareArmNext c) s = .next (armNext c.val s) :=
  runs_of_guard (o := execCompareArmNext c s) (s := s) (f := armNext c.val) rfl (by rw [hl, ha]; rfl)

/-- The cycle that the entry names has passed for the unit. -/
def leadPassed (s : State) (u : CmpUnit) (e : Item) : Bool :=
  !eAnyCycle e.raw && cyclePassed u (axis s u.axis) (now s) (ePosition e.raw) (winOf u.win) (eCycle e.raw)

/-- The unit that the entry arms. -/
def armedFor (s : State) (u : CmpUnit) (i : Nat) (rest : List Nat) (e : Item) : CmpUnit :=
  let v := { u with
    queue := rest, entry := some i, armed := true, pos := ePosition e.raw, cycle := eCycle e.raw,
    winNow := winOf u.win, anyNow := eAnyCycle e.raw }
  { v with evalAt := now s, inside := inWindow v (posAt (axis s u.axis) (now s)), evalPos := posAt (axis s u.axis) (now s) }

theorem armNext_eq {r : List Nat} (he : (cmpUnit s c.val).entry = none) (hq : (cmpUnit s c.val).queue = i :: r) (hi : item? s i = some e) :
    armNext c.val s = if leadPassed s (cmpUnit s c.val) e
      then finish i stMissedLead { s with sch := { s.sch with leadMiss := s.sch.leadMiss + 1 } }
      else modItem i (fun x => { x with armed := true }) (modUnit c.val (fun _ => armedFor s (cmpUnit s c.val) i r e) s) := by
  unfold armNext
  dsimp only
  rw [he, hq]
  dsimp only
  rw [hi]
  rfl

theorem armNext_missed {r : List Nat} (hl : live s = true) (ha : unitAction (cmpUnit s c.val) = 2) (he : (cmpUnit s c.val).entry = none)
    (hq : (cmpUnit s c.val).queue = i :: r) (hi : item? s i = some e) (hp : leadPassed s (cmpUnit s c.val) e = true) (hs : e.status = none)
    (ho : isOwn e = false) : ∃ t y, exec (.compareArmNext c) s = .next t ∧ t.sch.leadMiss = s.sch.leadMiss + 1
      ∧ item? t i = some y ∧ y.status = some stMissedLead := by
  have hRun := exec_compareArmNext (c := c) hl ha
  rw [armNext_eq he hq hi, if_pos hp] at hRun
  obtain ⟨⟨y, hItem, hStatus, -⟩, -⟩ := finish_completed (s := { s with sch := { s.sch with leadMiss := s.sch.leadMiss + 1 } }) hi ho (Or.inl hs)
    stMissedLead
  refine ⟨_, y, hRun, ?_, hItem, hStatus⟩
  obtain ⟨_, _, _, _, _, hEnd⟩ := finish_ends i stMissedLead { s with sch := { s.sch with leadMiss := s.sch.leadMiss + 1 } }
  rw [hEnd]

theorem armNext_arms {r : List Nat} (hl : live s = true) (ha : unitAction (cmpUnit s c.val) = 2) (he : (cmpUnit s c.val).entry = none)
    (hq : (cmpUnit s c.val).queue = i :: r) (hi : item? s i = some e) (hp : leadPassed s (cmpUnit s c.val) e = false) :
    ∃ t, exec (.compareArmNext c) s = .next t ∧ (∀ k, k ≠ c.val → cmpUnit t k = cmpUnit s k)
      ∧ item? t i = some { e with armed := true } ∧ cmpUnit t c.val = armedFor s (cmpUnit s c.val) i r e := by
  have hRun := exec_compareArmNext (c := c) hl ha
  rw [armNext_eq he hq hi, if_neg (by rw [hp]; decide)] at hRun
  refine ⟨_, hRun, fun k hk => ?_, ?_, ?_⟩
  · rw [cmpUnit_modItem, cmpUnit_modUnit, if_neg hk]
  · rw [item_modItem, if_pos rfl, show item? (modUnit c.val (fun _ => armedFor s (cmpUnit s c.val) i r e) s) i = some e from hi]
    rfl
  · rw [cmpUnit_modItem, cmpUnit_modUnit, if_pos rfl]

/-! ### Configuration and target (R161) -/

/-- The unit with a configuration that has been written. -/
def cfgUnit (v : U32) (u : CmpUnit) : CmpUnit :=
  { u with
    axis := field v 0 2, dir := BitVec.ofNat 2 (field v 2 2), action := BitVec.ofNat 2 (field v 4 2), anyCycle := bit v 6
    port := field v 8 6, owner := field v 16 7, fired := u.fired && !bit v 25, missed := u.missed && !bit v 26 }

/-- Nothing but flags differs. -/
def sameCfg (n u : CmpUnit) : Prop := n.axis = u.axis ∧ n.dir = u.dir ∧ n.action = u.action ∧ n.port = u.port ∧ n.owner = u.owner

/-- The entries of a unit have ended, where it was one of BIND. -/
def unitEmptied (u : CmpUnit) (s : State) : State :=
  if unitAction u = actBind then each ((match u.entry with | some i => [i] | none => []) ++ u.queue) (fun i => finish i stAbortedReset) s else s

theorem cmpCfgWrite_eq (h : field s.tb.cmpSel 0 8 = c.val) (v : U32) {n : CmpUnit} (hn : n = cfgUnit v (cmpUnit s c.val)) : cmpCfgWrite v s
    = if n.axis == (cmpUnit s c.val).axis && n.dir == (cmpUnit s c.val).dir && n.action == (cmpUnit s c.val).action
        && n.port == (cmpUnit s c.val).port && n.owner == (cmpUnit s c.val).owner then modUnit c.val (fun _ => n) s
      else modUnit c.val (fun _ => if unitAction n = actEvent
          then armEvent (unitEmptied (cmpUnit s c.val) s) { n with armed := false, entry := none, queue := [] }
          else { n with armed := false, entry := none, queue := [] }) (unitEmptied (cmpUnit s c.val) s) := by
  unfold cmpCfgWrite
  rw [h, hn]
  rfl

theorem exec_tbCmpCfgWrite (h : hostReaches s 0 = true) (v : U32) : exec (.tbCmpCfgWrite v) s = .next (cmpCfgWrite v s) :=
  runs_of_guard (o := execTbCmpCfgWrite v s) (s := s) (f := cmpCfgWrite v) rfl h

theorem cfgWrite_same (h : hostReaches s 0 = true) (hc : field s.tb.cmpSel 0 8 = c.val) {v : U32} (hn : n = cfgUnit v (cmpUnit s c.val))
    (hs : sameCfg n (cmpUnit s c.val)) : ∃ t, exec (.tbCmpCfgWrite v) s = .next t ∧ (∀ k, k ≠ c.val → cmpUnit t k = cmpUnit s k)
      ∧ cmpUnit t c.val = n := by
  obtain ⟨h1, h2, h3, h4, h5⟩ := hs
  have hRun := exec_tbCmpCfgWrite h v
  rw [cmpCfgWrite_eq hc v hn, if_pos (by simp [h1, h2, h3, h4, h5])] at hRun
  exact ⟨_, hRun, fun k hk => (cmpUnit_modUnit _ _ _ _).trans (if_neg hk), (cmpUnit_modUnit _ _ _ _).trans (if_pos rfl)⟩

theorem exec_cfgWrite_other (h : hostReaches s 0 = true) (hc : field s.tb.cmpSel 0 8 = c.val) {v : U32} (hn : n = cfgUnit v (cmpUnit s c.val))
    (hs : ¬ sameCfg n (cmpUnit s c.val)) : exec (.tbCmpCfgWrite v) s = .next (modUnit c.val (fun _ => if unitAction n = actEvent
          then armEvent (unitEmptied (cmpUnit s c.val) s) { n with armed := false, entry := none, queue := [] }
          else { n with armed := false, entry := none, queue := [] }) (unitEmptied (cmpUnit s c.val) s)) := by
  rw [exec_tbCmpCfgWrite h, cmpCfgWrite_eq hc v hn, if_neg]
  intro hb
  simp only [Bool.and_eq_true, beq_iff_eq] at hb
  obtain ⟨⟨⟨⟨h1, h2⟩, h3⟩, h4⟩, h5⟩ := hb
  exact hs ⟨h1, h2, h3, h4, h5⟩

/-- The unit with a target that has been written, where it is not one of BIND. -/
def targetUnit (s : State) (v : U64) (u : CmpUnit) : CmpUnit :=
  let n := { u with win := field v 24 24, pos := field v 0 24, cycle := BitVec.ofNat 16 (field v 48 16) }
  if unitAction n = actEvent && n.armed then armEvent s n else n

theorem targetUnit_fields (s : State) (v : U64) (u : CmpUnit) : (targetUnit s v u).win = field v 24 24
    ∧ (targetUnit s v u).pos = field v 0 24 ∧ (targetUnit s v u).cycle = BitVec.ofNat 16 (field v 48 16) := by
  unfold targetUnit
  dsimp only
  split
  · exact ⟨rfl, rfl, rfl⟩
  · exact ⟨rfl, rfl, rfl⟩

theorem cmpTargetWrite_eq (h : field s.tb.cmpSel 0 8 = c.val) (v : U64) : cmpTargetWrite v s
    = if unitAction (cmpUnit s c.val) = actBind then modUnit c.val (fun _ => { cmpUnit s c.val with win := field v 24 24 }) s
      else modUnit c.val (fun _ => targetUnit s v (cmpUnit s c.val)) s := by
  unfold cmpTargetWrite
  rw [h]
  rfl

theorem targetWrite_does (h : hostReaches s 0 = true) (hc : field s.tb.cmpSel 0 8 = c.val) (v : U64) :
    ∃ t, exec (.tbCmpTargetWrite v) s = .next t ∧ (∀ k, k ≠ c.val → cmpUnit t k = cmpUnit s k) ∧ (cmpUnit t c.val).win = field v 24 24
      ∧ (unitAction (cmpUnit s c.val) = 2 → cmpUnit t c.val = { cmpUnit s c.val with win := field v 24 24 })
      ∧ (unitAction (cmpUnit s c.val) ≠ 2 → (cmpUnit t c.val).pos = field v 0 24
        ∧ (cmpUnit t c.val).cycle = BitVec.ofNat 16 (field v 48 16)) := by
  have hRun : exec (.tbCmpTargetWrite v) s = .next (cmpTargetWrite v s) :=
    runs_of_guard (o := execTbCmpTargetWrite v s) (s := s) (f := cmpTargetWrite v) rfl h
  have hSelf : ∀ (g : CmpUnit → CmpUnit), cmpUnit (modUnit c.val g s) c.val = g (cmpUnit s c.val) := fun g =>
    (cmpUnit_modUnit _ _ _ _).trans (if_pos rfl)
  have hOthers : ∀ (g : CmpUnit → CmpUnit) k, k ≠ c.val → cmpUnit (modUnit c.val g s) k = cmpUnit s k := fun g k hk =>
    (cmpUnit_modUnit _ _ _ _).trans (if_neg hk)
  rw [cmpTargetWrite_eq hc] at hRun
  by_cases hb : unitAction (cmpUnit s c.val) = actBind
  · rw [if_pos hb] at hRun
    exact ⟨_, hRun, hOthers _, by rw [hSelf], fun _ => hSelf _, fun hn => absurd hb hn⟩
  · rw [if_neg hb] at hRun
    obtain ⟨hWin, hPos, hCycle⟩ := targetUnit_fields s v (cmpUnit s c.val)
    refine ⟨_, hRun, hOthers _, by rw [hSelf, hWin], fun hy => absurd hy hb, fun _ => ?_⟩
    rw [hSelf]
    exact ⟨hPos, hCycle⟩

end

/-- Settles O44: each unit's firing is read off its action, and its arming off the entry that heads its queue.. -/
theorem compareUnits : Obligations.CompareUnits := by
  unfold Obligations.CompareUnits
  intro s c
  refine ⟨fun hl ht hf => ⟨compareFire_event hl ht hf, fun i ha he => compareFire_bind hl ht hf ha he⟩,
    fun i r e hl ha he hq hi => ⟨armNext_missed hl ha he hq hi, fun hp => ?_⟩,
    fun h hc => ⟨fun v n hn => ⟨cfgWrite_same h hc hn, fun hs ha => ?_, fun hs ha => ?_⟩, targetWrite_does h hc⟩⟩
  · obtain ⟨t, hRun, hRest, hItem, hUnit⟩ := armNext_arms hl ha he hq hi hp
    refine ⟨t, hRun, hRest, hItem, ?_⟩
    rw [hUnit]
    exact ⟨rfl, rfl, rfl, rfl, rfl, rfl, rfl⟩
  · exact ⟨_, exec_cfgWrite_other h hc hn hs, (cmpUnit_modUnit _ _ _ _).trans ((if_pos rfl).trans (if_neg ha))⟩
  · refine ⟨_, exec_cfgWrite_other h hc hn hs, ?_⟩
    rw [cmpUnit_modUnit, if_pos rfl, if_pos (show unitAction n = actEvent from ha)]
    exact ⟨rfl, rfl, rfl, rfl⟩

section
variable {s u v : State} {r : LatchReg}

/-! ### FREE_LEN and PTM (R143, R166, R167) -/

theorem freeLen_banded (h : hostReaches s 0 = true) (v : U32) : ∃ n, exec (.tbFreeLenWrite v) s = .next { s with tb := { s.tb with freeLen := n } }
    ∧ 376000 ≤ n ∧ n ≤ 424000 ∧ n % 8 = 0
    ∧ (field v 0 19 % 8 = 0 → 376000 ≤ field v 0 19 → field v 0 19 ≤ 424000 → n = field v 0 19) := by
  obtain ⟨hLow, hHigh⟩ := bandLen_bounds (field v 0 19)
  refine ⟨bandLen (field v 0 19), runs_of_guard (o := execTbFreeLenWrite v s) (s := s)
    (f := fun s => { s with tb := { s.tb with freeLen := bandLen (field v 0 19) } }) rfl h, hLow, hHigh, ?_, fun h8 hl hh => ?_⟩
  · unfold bandLen
    omega
  · unfold bandLen
    omega

theorem exec_ptmStart (h : serves s = true) (ht : timebaseRuns s = true) (he : s.tb.ptmEn = true) :
    exec .ptmStart s = .next { s with tb := { s.tb with ptmBusy := true } } :=
  runs_of_guard (o := execPtmStart s) (s := s) (f := fun s => { s with tb := { s.tb with ptmBusy := true } }) rfl (by rw [h, ht, he]; rfl)

theorem ptmStart_off (he : s.tb.ptmEn = false) : exec .ptmStart s = .next s :=
  idle_of_no_guard (o := execPtmStart s) (s := s) (f := fun s => { s with tb := { s.tb with ptmBusy := true } }) rfl (by rw [he, Bool.and_false])

/-- An event of the timebase is all that is raised behind a change of its block. -/
theorem raise_tb (b : Nat) (hv : v.eic = s.eic) : Raised (evtKey .tb) b s (raise .tb b v) ∧ (raise .tb b v).tb = v.tb := by
  refine ⟨fun j => ?_, raise_keeps (bl := .tb) _ _ (Keeps.refl .tb v) (by decide)⟩
  rw [raise_raised, evtWord_of_eic hv]

theorem ptmResponse_latches (hl : live s = true) (hb : s.tb.ptmBusy = true) (m : U64) : ∃ u, exec (.ptmResponse m) s = .next u
    ∧ Raised (evtKey .tb) 3 s u ∧ u.tb = { s.tb with
        ptmBusy := false, ptmMaster := m, ptmTick := s.tb.tick, ptmEpoch := epochReg s, ptmFlen := s.tb.flen
        ptmSeq := s.tb.ptmSeq + 1, ptmValid := true } :=
  ⟨_, runs_of_guard (o := execPtmResponse m s) (s := s) (f := fun s => raise .tb 3 { s with tb := { s.tb with
      ptmBusy := false, ptmMaster := m, ptmTick := s.tb.tick, ptmEpoch := epochReg s, ptmFlen := s.tb.flen
      ptmSeq := s.tb.ptmSeq + 1, ptmValid := true } }) rfl (by rw [hl, hb]; rfl), raise_tb 3 rfl⟩

theorem ptmTimeout_reports (hl : live s = true) (hb : s.tb.ptmBusy = true) : ∃ u, exec .ptmTimeout s = .next u
    ∧ Raised (evtKey .tb) 4 s u ∧ u.tb = { s.tb with ptmBusy := false } :=
  ⟨_, runs_of_guard (o := execPtmTimeout s) (s := s) (f := fun s => raise .tb 4 { s with tb := { s.tb with ptmBusy := false } }) rfl
    (by rw [hl, hb]; rfl), raise_tb 4 rfl⟩

/-! ### Latched high words (R141, R470) -/

theorem exec_epochLowRead (hl : live s = true) (r : LatchReg) : exec (.epochLowRead r) s = .next { s with tb := { s.tb with
    latch := tput s.tb.latch (latchKey r) (BitVec.ofNat 32 (field (latchValue s r) 32 32)) } } :=
  runs_of_guard (o := execEpochLowRead r s) (s := s) (f := fun s => { s with tb := { s.tb with
    latch := tput s.tb.latch (latchKey r) (BitVec.ofNat 32 (field (latchValue s r) 32 32)) } }) rfl hl

theorem exec_epochLatchExpiry (hl : live s = true) (r : LatchReg) :
    exec (.epochLatchExpiry r) s = .next { s with tb := { s.tb with latch := tdel s.tb.latch (latchKey r) } } :=
  runs_of_guard (o := execEpochLatchExpiry r s) (s := s) (f := fun s => { s with tb := { s.tb with latch := tdel s.tb.latch (latchKey r) } }) rfl hl

/-- The windows of the slots, by address. -/
theorem pf0Read64_slot (v : State) {a : Nat} (h : 0x20000 ≤ a ∧ a < 0x28000) : pf0Read64 v a = slotRead64 v ((a - 0x20000) / 0x200) (a % 0x200) := by
  unfold pf0Read64
  rw [if_neg (by omega), if_neg (by omega), if_neg (by omega), if_neg (by omega), if_neg (by omega), if_neg (by omega), if_neg (by omega),
    if_neg (by omega), if_neg (by omega), if_pos h]

/-- A latched register stands at an offset of 8 bytes, and is a 64-bit register of PF0. -/
theorem latchAt_reg {a : Nat} (h : latchAt a = some r) (v : State) : a % 8 = 0 ∧ ∃ w, pf0Read64 v a = some w := by
  unfold latchAt at h
  split at h
  · next ha => subst ha; exact ⟨rfl, _, rfl⟩
  · split at h
    · next ha => subst ha; exact ⟨rfl, _, rfl⟩
    · split at h
      · next ha =>
        obtain rfl | rfl | rfl | rfl : a = 0x1108 ∨ a = 0x1148 ∨ a = 0x1188 ∨ a = 0x11C8 := by omega
        · exact ⟨rfl, _, rfl⟩
        · exact ⟨rfl, _, rfl⟩
        · exact ⟨rfl, _, rfl⟩
        · exact ⟨rfl, _, rfl⟩
      · split at h
        · next ha =>
          rw [pf0Read64_slot v ha]
          dsimp only at h
          split at h
          · next ho => exact ⟨by omega, by rw [ho]; exact ⟨_, rfl⟩⟩
          · next ho => exact ⟨by omega, by rw [ho]; exact ⟨_, rfl⟩⟩
          · next ho => exact ⟨by omega, by rw [ho]; exact ⟨_, rfl⟩⟩
          · next ho => exact ⟨by omega, by rw [ho]; exact ⟨_, rfl⟩⟩
          · cases h
        · cases h

/-- A read of the high word returns what is latched. -/
theorem highWord_latched {a : Nat} {l : U32} (ha : latchAt a = some r) (hl : tfind v.tb.latch (latchKey r) = some l)
    (hr : readAnswers v 0 (a + 4) = true) : registerRead v 0 (a + 4) 4 = BitVec.ofNat 64 l.toNat := by
  obtain ⟨h8, w, hw⟩ := latchAt_reg ha v
  have hHigh : highWord v 0 a w = l := by
    unfold highWord
    rw [show (if (0 : FuncId).val = 0 then (latchAt a).bind fun r => tfind v.tb.latch (latchKey r) else none) = some l from (if_pos rfl).trans (by
      rw [ha]
      exact hl)]
    rfl
  have hRead : read32 v 0 (a + 4) = l := by
    unfold read32
    rw [show (a + 4) / 8 * 8 = a from by omega, show reg64 v 0 a = some w from hw]
    dsimp only
    rw [if_pos (by omega), Nat.add_sub_cancel, hHigh]
  unfold registerRead
  rw [if_neg (by rw [hr]; decide), if_neg (by simp), if_neg (by decide), show (a + 4) / 4 * 4 = a + 4 from by omega, hRead,
    show (a + 4) % 4 = 0 from by omega]
  congr 1
  show l.toNat / 1 % 2 ^ 32 = l.toNat
  rw [Nat.div_one, Nat.mod_eq_of_lt l.isLt]

theorem highWord_read (hl : live s = true) {a : Nat} (ha : latchAt a = some r) (hRun : exec (.epochLowRead r) s = .next u)
    (hv : v.tb.latch = u.tb.latch) (hr : readAnswers v 0 (a + 4) = true) :
    registerRead v 0 (a + 4) 4 = BitVec.ofNat 64 (field (latchValue s r) 32 32) := by
  rw [exec_epochLowRead hl] at hRun
  cases hRun
  rw [highWord_latched ha (by rw [hv]; exact tfind_tput_same _ _ _) hr, BitVec.toNat_ofNat,
    Nat.mod_eq_of_lt (show field (latchValue s r) 32 32 < 2 ^ 32 from Nat.mod_lt _ (by decide))]

/-! ### A pass of LOCK_PHASE (R144 to R146) -/

theorem exec_axisLockPhasePass (hl : live s = true) (ht : timebaseRuns s = true) (hp : lockPhaseHere s = true) :
    exec .axisLockPhasePass s = .next (lockPass s) :=
  runs_of_guard (o := execAxisLockPhasePass s) (s := s) (f := lockPass) rfl (by rw [hl, ht, hp]; rfl)

theorem lockPhasePass_elsewhere (hp : lockPhaseHere s = false) : exec .axisLockPhasePass s = .next s :=
  idle_of_no_guard (o := execAxisLockPhasePass s) (s := s) (f := lockPass) rfl (by rw [hp, Bool.and_false])

/-- M and the phase error have been taken over. -/
def phaseNoted (s : State) : State := { s with tb := { s.tb with m := field s.tb.ctl 16 12 + 1, phaseErr := phaseError s } }

/-- What the pass does to the lock state, M and the phase error being noted. -/
def lockMoved (s : State) : State :=
  match s.tb.lock with
  | .acquire =>
    if (if phaseError s ≤ 64 then s.tb.passes + 1 else 0) < 4 then
      { phaseNoted s with tb := { (phaseNoted s).tb with passes := if phaseError s ≤ 64 then s.tb.passes + 1 else 0 } }
    else raise .tb 0 { phaseNoted s with tb := { (phaseNoted s).tb with
      lock := .locked, passes := if phaseError s ≤ 64 then s.tb.passes + 1 else 0 } }
  | .locked => if field s.tb.ctl 16 12 + 1 != s.tb.m || 4096 < phaseError s then loseLock .acquire (phaseNoted s) else phaseNoted s
  | _ => phaseNoted s

theorem lockPass_eq (s : State) : lockPass s = if s.tb.mode != 1 then phaseNoted s else lockEval (lockMoved s).tb.axsel false (lockMoved s) := rfl

/-- A lock state that is not CLAMPED stays while the axis is in band. -/
theorem lockEval_in (i : Nat) (hc : v.tb.lock = .acquire ∨ v.tb.lock = .locked) (ho : axisOut v (axis v i) = false) : lockEval i false v = v := by
  unfold lockEval
  dsimp only
  split
  · rfl
  · rcases hc with hc | hc
    · rw [hc]
      exact if_neg (by rw [ho]; decide)
    · rw [hc]
      exact if_neg (by rw [ho]; decide)

/-- What decides the band is the axis and M. -/
theorem axisOut_of (hm : v.tb.m = u.tb.m) (x : Axis) : axisOut v x = axisOut u x := by
  unfold axisOut axisFast axisSlow
  rw [hm]

theorem lockPass_in (hl : live s = true) (ht : timebaseRuns s = true) (hp : lockPhaseHere s = true) (hm : s.tb.mode = 1)
    (ho : axisOut { s with tb := { s.tb with m := field s.tb.ctl 16 12 + 1 } } (axis s s.tb.axsel) = false)
    (hMoved : lockMoved s = v) (hLock : v.tb.lock = .acquire ∨ v.tb.lock = .locked) (hM : v.tb.m = field s.tb.ctl 16 12 + 1)
    (hAx : v.tb.ax = s.tb.ax) (hSel : v.tb.axsel = s.tb.axsel) : exec .axisLockPhasePass s = .next v := by
  have hOut : axisOut v (axis v v.tb.axsel) = false := by
    rw [show axis v v.tb.axsel = axis s s.tb.axsel from by unfold axis; rw [hAx, hSel], axisOut_of (u := { s with tb := { s.tb with m := field s.tb.ctl 16 12 + 1 } }) hM]
    exact ho
  rw [exec_axisLockPhasePass hl ht hp, lockPass_eq, if_neg (by rw [hm]; decide), hMoved, lockEval_in _ hLock hOut]

theorem lockMoved_acquire (ha : s.tb.lock = .acquire) : lockMoved s
    = if (if phaseError s ≤ 64 then s.tb.passes + 1 else 0) < 4 then
        { phaseNoted s with tb := { (phaseNoted s).tb with passes := if phaseError s ≤ 64 then s.tb.passes + 1 else 0 } }
      else raise .tb 0 { phaseNoted s with tb := { (phaseNoted s).tb with
        lock := .locked, passes := if phaseError s ≤ 64 then s.tb.passes + 1 else 0 } } := by
  unfold lockMoved
  rw [ha]

theorem lockMoved_locked (ha : s.tb.lock = .locked) : lockMoved s
    = if field s.tb.ctl 16 12 + 1 != s.tb.m || 4096 < phaseError s then loseLock .acquire (phaseNoted s) else phaseNoted s := by
  unfold lockMoved
  rw [ha]

theorem lockPass_does (hl : live s = true) (ht : timebaseRuns s = true) (hp : lockPhaseHere s = true) (hm : s.tb.mode = 1)
    (ho : axisOut { s with tb := { s.tb with m := field s.tb.ctl 16 12 + 1 } } (axis s s.tb.axsel) = false) :
    (s.tb.lock = .acquire → s.tb.passes < 3 → phaseError s ≤ 64 → exec .axisLockPhasePass s
        = .next { s with tb := { s.tb with m := field s.tb.ctl 16 12 + 1, phaseErr := phaseError s, passes := s.tb.passes + 1 } })
      ∧ (s.tb.lock = .acquire → 64 < phaseError s → exec .axisLockPhasePass s
        = .next { s with tb := { s.tb with m := field s.tb.ctl 16 12 + 1, phaseErr := phaseError s, passes := 0 } })
      ∧ (s.tb.lock = .acquire → 3 ≤ s.tb.passes → phaseError s ≤ 64 → ∃ u, exec .axisLockPhasePass s = .next u
        ∧ u.tb.lock = .locked ∧ u.tb.m = field s.tb.ctl 16 12 + 1 ∧ u.tb.phaseErr = phaseError s ∧ Raised (evtKey .tb) 0 s u)
      ∧ (s.tb.lock = .locked → field s.tb.ctl 16 12 + 1 = s.tb.m → phaseError s ≤ 4096 → exec .axisLockPhasePass s
        = .next { s with tb := { s.tb with phaseErr := phaseError s } })
      ∧ (s.tb.lock = .locked → field s.tb.ctl 16 12 + 1 ≠ s.tb.m ∨ 4096 < phaseError s → ∃ u, exec .axisLockPhasePass s = .next u
        ∧ u.tb.lock = .acquire ∧ u.tb.m = field s.tb.ctl 16 12 + 1 ∧ u.tb.phaseErr = phaseError s ∧ Raised (evtKey .tb) 1 s u) := by
  refine ⟨fun ha hn he => ?_, fun ha he => ?_, fun ha hn he => ?_, fun ha hk he => ?_, fun ha hk => ?_⟩
  · refine lockPass_in hl ht hp hm ho ?_ (Or.inl ha) rfl rfl rfl
    rw [lockMoved_acquire ha, if_pos he, if_pos (by omega)]
    rfl
  · refine lockPass_in hl ht hp hm ho ?_ (Or.inl ha) rfl rfl rfl
    rw [lockMoved_acquire ha, if_neg (show ¬ phaseError s ≤ 64 by omega), if_pos (by decide)]
    rfl
  · obtain ⟨w, hw⟩ : ∃ w : State, w = { phaseNoted s with tb := { (phaseNoted s).tb with lock := .locked, passes := s.tb.passes + 1 } } := ⟨_, rfl⟩
    obtain ⟨hRaised, hTb⟩ := raise_tb (s := s) (v := w) 0 (by rw [hw]; rfl)
    rw [hw] at hTb
    refine ⟨raise .tb 0 w, lockPass_in hl ht hp hm ho ?_ ?_ ?_ ?_ ?_, ?_, ?_, ?_, hRaised⟩
    · rw [lockMoved_acquire ha, if_pos he, if_neg (by omega), hw]
    all_goals rw [hw, hTb]
    · exact Or.inr rfl
    all_goals rfl
  · have hNoted : phaseNoted s = { s with tb := { s.tb with phaseErr := phaseError s } } := by
      unfold phaseNoted
      rw [hk]
    refine lockPass_in hl ht hp hm ho ?_ (Or.inr ha) hk.symm rfl rfl
    rw [lockMoved_locked ha, if_neg (by simp [hk, he]), hNoted]
  · obtain ⟨w, hw⟩ : ∃ w : State, w = { phaseNoted s with tb := { (phaseNoted s).tb with lock := .acquire, passes := 0, inBand := 0 } } := ⟨_, rfl⟩
    obtain ⟨hRaised, hTb⟩ := raise_tb (s := s) (v := w) 1 (by rw [hw]; rfl)
    rw [hw] at hTb
    have hLost : loseLock .acquire (phaseNoted s) = raise .tb 1 w := by
      unfold loseLock
      rw [hw]
      exact if_pos (by show (s.tb.lock == .locked) = true; rw [ha]; rfl)
    refine ⟨raise .tb 1 w, lockPass_in hl ht hp hm ho ?_ ?_ ?_ ?_ ?_, ?_, ?_, ?_, hRaised⟩
    · rw [lockMoved_locked ha, if_pos (by simpa using hk), hLost]
    all_goals rw [hw, hTb]
    · exact Or.inl rfl
    all_goals rfl

end

/-- Settles O45: one lemma per command, the lock pass by the axis's state.. -/
theorem timebaseRegisters : Obligations.TimebaseRegisters := by
  unfold Obligations.TimebaseRegisters
  intro s
  exact ⟨freeLen_banded, exec_ptmStart, ptmStart_off, fun hl hb => ⟨ptmResponse_latches hl hb, ptmTimeout_reports hl hb⟩,
    fun hl r => ⟨exec_epochLowRead hl r, exec_epochLatchExpiry hl r, fun a u v ha hRun hv hr => highWord_read hl ha hRun hv hr⟩,
    lockPhasePass_elsewhere, fun hl ht hp => ⟨fun hm => (exec_axisLockPhasePass hl ht hp).trans
        (congrArg _ ((lockPass_eq s).trans (if_pos (by simpa using hm)))), lockPass_does hl ht hp⟩⟩

end Sys2Proof.Machine
end


section
/-! PROOFS. Periodic admission: ADMIT, RELEASE and QUERY, and the end of a compilation (R196, R209 to R213). A command
is begun first, which touches the mailboxes alone: what the checks read is what they read before. -/

namespace Sys2Proof.Machine

variable {s : State} {ctx : CmdCtx} {b : AdmitBody}

/-! ### What a begun command leaves for the checks -/

theorem fn_begun (code f : Nat) : fn (begun ctx code s) f = fn s f := rfl

theorem charged_begun (code : Nat) : charged (begun ctx code s) = charged s := rfl

theorem ownsDevice_begun (code f : Nat) (h : U16) : ownsDevice (begun ctx code s) f h = ownsDevice s f h := rfl

theorem admitCheck_begun (code f : Nat) : admitCheck (begun ctx code s) f b = admitCheck s f b := rfl

theorem shareInUse_begun (code f : Nat) : shareInUse (begun ctx code s) f = shareInUse s f := rfl

theorem freeCarve_begun (code f : Nat) : freeCarve (begun ctx code s) f = freeCarve s f := rfl

theorem sumRate_begun (code f : Nat) : sumRate (begun ctx code s) f = sumRate s f := rfl

/-! ### Refusals -/

/-- What the statement says of a refused command. -/
def Refused (ctx : CmdCtx) (b : AdmitBody) (c : Instr) (code res detail : Nat) (s : State) : Prop :=
  ∃ u, exec c s = .next u ∧ Answered ctx code (admitRefusal b res detail) s u ∧ u.sch = s.sch

theorem refused_of_reply {c : Instr} {code res detail : Nat}
    (h : exec c s = .next (reply ctx code (admitRefusal b res detail) (begun ctx code s))) : Refused ctx b c code res detail s :=
  ⟨_, h, (answered_at_once ctx code _ s).1, reply_sch ctx code _ _⟩

theorem exec_admitCmd (hl : live s = true) : exec (.admitCmd ctx b) s = .next (admitOp ctx b s) :=
  runs_of_guard (o := execAdmitCmd ctx b s) (s := s) (f := admitOp ctx b) rfl hl

theorem exec_release (hl : live s = true) : exec (.release ctx b) s = .next (releaseOp ctx b s) :=
  runs_of_guard (o := execRelease ctx b s) (s := s) (f := releaseOp ctx b) rfl hl

/-! ### ADMIT (R209 to R213) -/

/-- The state in which an ADMIT, placed as the entry `id` in `v`, waits for its swap. -/
def admitting (ctx : CmdCtx) (b : AdmitBody) (id : Nat) (v : State) : State :=
  modFn (sender ctx.chan) (fun x => { x with admitBusy := true })
    { v with sch := { v.sch with replies := v.sch.replies ++ [{ ctx := ctx, body := b, res := id, isAdmit := true }] } }

theorem admitOp_eq : admitOp ctx b s = match admitCheck s (sender ctx.chan) b with
    | .inr c => reply ctx 0x40 (admitRefusal b c 0) (begun ctx 0x40 s)
    | .inl r =>
      match tryAdmit (begun ctx 0x40 s) r with
      | .inr (c, d) => reply ctx 0x40 (admitRefusal b c d) (begun ctx 0x40 s)
      | .inl (id, t) => admitting ctx b id t := by
  unfold admitOp
  dsimp only
  rw [admitCheck_begun]
  rfl

theorem admitCmd_refused (hl : live s = true) {c : Nat} (hc : admitCheck s (sender ctx.chan) b = .inr c) :
    Refused ctx b (.admitCmd ctx b) 0x40 c 0 s :=
  refused_of_reply ((exec_admitCmd hl).trans (congrArg _ (by rw [admitOp_eq, hc])))

theorem admitCmd_unplaced (hl : live s = true) {r : Rung} {c d : Nat} (hc : admitCheck s (sender ctx.chan) b = .inl r)
    (ht : tryAdmit (begun ctx 0x40 s) r = .inr (c, d)) : Refused ctx b (.admitCmd ctx b) 0x40 c d s :=
  refused_of_reply ((exec_admitCmd hl).trans (congrArg _ (by rw [admitOp_eq, hc]; dsimp only; rw [ht])))

/-- A placed entry stands in the shadow bank as what was asked for; the live bank and the waiting replies stay. -/
theorem placeRung_places {v t : State} {r : Rung} {ph e c id : Nat} {moved : List Nat} (h : placeRung v r ph e c moved = (id, t)) :
    t.sch.live = v.sch.live ∧ t.sch.compiling = true ∧ t.sch.swapPend = false ∧ t.sch.replies = v.sch.replies
      ∧ ∃ g, tfind t.sch.shadow id = some g ∧ (g.handle, g.ep, g.dirIn, g.kind, g.func) = (r.handle, r.ep, r.dirIn, r.kind, r.func) := by
  obtain ⟨rfl, rfl⟩ := Prod.mk.inj h
  exact ⟨rfl, rfl, rfl, rfl, _, tfind_tput_same _ _ _, rfl⟩

theorem tryAdmit_places {v t : State} {r : Rung} {id : Nat} (h : tryAdmit v r = .inl (id, t)) :
    ∃ ph e c moved, placeRung v r ph e c moved = (id, t) := by
  unfold tryAdmit at h
  generalize choose (phases v r) = x at h
  obtain ⟨ph, fit⟩ := x
  cases fit with
  | no _ _ _ => exact absurd h (by simp)
  | yes _ _ _ e c moved => exact ⟨ph, e, c, moved, Sum.inl.inj h⟩

theorem admitCmd_accepted (hl : live s = true) {r : Rung} {id : Nat} {t : State} (hc : admitCheck s (sender ctx.chan) b = .inl r)
    (ht : tryAdmit (begun ctx 0x40 s) r = .inl (id, t)) : ∃ u, exec (.admitCmd ctx b) s = .next u
      ∧ u.sch.live = s.sch.live ∧ u.sch.compiling = true ∧ u.sch.swapPend = false ∧ (fn u (sender ctx.chan)).admitBusy = true
      ∧ u.sch.replies = s.sch.replies ++ [{ ctx := ctx, body := b, res := id, isAdmit := true }]
      ∧ ∃ g, tfind u.sch.shadow id = some g ∧ (g.handle, g.ep, g.dirIn, g.kind, g.func) = (r.handle, r.ep, r.dirIn, r.kind, r.func) := by
  obtain ⟨ph, e, c, moved, hPlace⟩ := tryAdmit_places ht
  obtain ⟨hLive, hCompiling, hSwap, hReplies, hFound⟩ := placeRung_places hPlace
  have hRun : exec (.admitCmd ctx b) s = .next (admitting ctx b id t) :=
    (exec_admitCmd hl).trans (congrArg _ (by rw [admitOp_eq, hc]; dsimp only; rw [ht]))
  refine ⟨_, hRun, hLive, hCompiling, hSwap, ?_, ?_, hFound⟩
  · unfold admitting
    rw [fn_modFn, if_pos rfl]
  · show t.sch.replies ++ _ = _
    rw [hReplies]
    rfl

/-! ### RELEASE (R209, R213) -/

/-- The admitted entry is the one that a RELEASE names. -/
def rungNamed (b : AdmitBody) (e : Nat × Rung) : Bool :=
  e.2.handle == b.handle && e.2.ep == field b.epaddr 0 4 && e.2.dirIn == bit b.epaddr 7 && kindOf b.kind.toNat == some e.2.kind

/-- The state in which a RELEASE of the entry `id` waits for its swap. -/
def releasing (ctx : CmdCtx) (b : AdmitBody) (id : Nat) (v : State) : State :=
  modFn (sender ctx.chan) (fun x => { x with admitBusy := true })
    { v with sch := { v.sch with
      shadow := tdel v.sch.shadow id, compiling := true, swapPend := false
      replies := v.sch.replies ++ [{ ctx := ctx, body := b, res := id, isAdmit := false }] } }

theorem releaseOp_eq : releaseOp ctx b s =
    if !(fn s (sender ctx.chan)).created then reply ctx 0x41 (admitRefusal b 0x11 0) (begun ctx 0x41 s)
    else if !ownsDevice s (sender ctx.chan) b.handle then reply ctx 0x41 (admitRefusal b 0x0A 0) (begun ctx 0x41 s)
    else match (charged s).find? (rungNamed b) with
      | none => reply ctx 0x41 (admitRefusal b 0x0B 0) (begun ctx 0x41 s)
      | some (id, _) =>
        if (fn s (sender ctx.chan)).admitBusy then reply ctx 0x41 (admitRefusal b 0x10 0) (begun ctx 0x41 s)
        else releasing ctx b id (begun ctx 0x41 s) := by
  unfold releaseOp
  dsimp only
  rw [fn_begun, ownsDevice_begun, charged_begun]
  rfl

theorem release_refused (hl : live s = true) {c : Nat}
    (h : releaseOp ctx b s = reply ctx 0x41 (admitRefusal b c 0) (begun ctx 0x41 s)) : Refused ctx b (.release ctx b) 0x41 c 0 s :=
  refused_of_reply ((exec_release hl).trans (congrArg _ h))

section
variable (hl : live s = true) (hn : (fn s (sender ctx.chan)).created = true) (ho : ownsDevice s (sender ctx.chan) b.handle = true)
include hl hn ho

theorem release_unknown (hf : (charged s).find? (rungNamed b) = none) : Refused ctx b (.release ctx b) 0x41 0x0B 0 s :=
  release_refused hl (by rw [releaseOp_eq, hn, ho, hf]; rfl)

theorem release_busy {e : Nat × Rung} (hf : (charged s).find? (rungNamed b) = some e)
    (hb : (fn s (sender ctx.chan)).admitBusy = true) : Refused ctx b (.release ctx b) 0x41 0x10 0 s :=
  release_refused hl (by rw [releaseOp_eq, hn, ho, hf, hb]; rfl)

theorem release_accepted {e : Nat × Rung} (hf : (charged s).find? (rungNamed b) = some e)
    (hb : (fn s (sender ctx.chan)).admitBusy = false) : ∃ u, exec (.release ctx b) s = .next u
      ∧ tfind u.sch.shadow e.1 = none ∧ u.sch.live = s.sch.live ∧ u.sch.compiling = true ∧ u.sch.swapPend = false
      ∧ (fn u (sender ctx.chan)).admitBusy = true
      ∧ u.sch.replies = s.sch.replies ++ [{ ctx := ctx, body := b, res := e.1, isAdmit := false }] := by
  have hRun : exec (.release ctx b) s = .next (releasing ctx b e.1 (begun ctx 0x41 s)) :=
    (exec_release hl).trans (congrArg _ (by rw [releaseOp_eq, hn, ho, hf, hb]; rfl))
  refine ⟨_, hRun, ?_, rfl, rfl, rfl, ?_, rfl⟩
  · show tfind (tdel s.sch.shadow e.1) e.1 = none
    rw [tfind_tdel, if_pos rfl]
  · unfold releasing
    rw [fn_modFn, if_pos rfl]

end

/-! ### QUERY (R212) -/

/-- The reply body of a QUERY that is refused. -/
def queryRefusal (res : Nat) : List Byte := zeros 4 ++ [BitVec.ofNat 8 res] ++ zeros 27

/-- The reply body of a QUERY: what is left of PSHARE, of the pages and of the spill entries, and the counts of entries. -/
def queryBody (s : State) (f : Nat) : List Byte :=
  zeros 8 ++ natLE 4 ((10 * (fn s f).pshare - shareInUse s f) / 10) ++ natLE 2 (freeCarve s f).length
    ++ natLE 2 ((charged s).filter fun e => e.2.func == f).length
    ++ natLE 4 ((fn s f).spillEntries - (fn s f).spillDepth * sumRate s f) ++ natLE 2 (8192 - (charged s).length) ++ zeros 10

theorem queryOp_eq : queryOp ctx s = reply ctx 0x42
    (if (if !(fn s (sender ctx.chan)).created then 0x11 else if (fn s (sender ctx.chan)).admitBusy then 0x10 else 0) != 0
      then queryRefusal (if !(fn s (sender ctx.chan)).created then 0x11 else if (fn s (sender ctx.chan)).admitBusy then 0x10 else 0)
      else queryBody s (sender ctx.chan)) (begun ctx 0x42 s) := by
  unfold queryOp
  dsimp only
  rw [fn_begun, shareInUse_begun, freeCarve_begun, sumRate_begun, charged_begun]
  rfl

theorem query_answers (hl : live s = true) {body : List Byte} (h : queryOp ctx s = reply ctx 0x42 body (begun ctx 0x42 s)) :
    ∃ u, exec (.query ctx) s = .next u ∧ Answered ctx 0x42 body s u :=
  ⟨_, (runs_of_guard (o := execQuery ctx s) (s := s) (f := queryOp ctx) rfl hl).trans (congrArg _ h),
    (answered_at_once ctx 0x42 body s).1⟩

theorem query_notCreated (hl : live s = true) (hn : (fn s (sender ctx.chan)).created = false) :
    ∃ u, exec (.query ctx) s = .next u ∧ Answered ctx 0x42 (queryRefusal 0x11) s u :=
  query_answers hl (by rw [queryOp_eq, hn]; rfl)

theorem query_busy (hl : live s = true) (hn : (fn s (sender ctx.chan)).created = true) (hb : (fn s (sender ctx.chan)).admitBusy = true) :
    ∃ u, exec (.query ctx) s = .next u ∧ Answered ctx 0x42 (queryRefusal 0x10) s u :=
  query_answers hl (by rw [queryOp_eq, hn, hb]; rfl)

theorem query_told (hl : live s = true) (hn : (fn s (sender ctx.chan)).created = true) (hb : (fn s (sender ctx.chan)).admitBusy = false) :
    ∃ u, exec (.query ctx) s = .next u ∧ Answered ctx 0x42 (queryBody s (sender ctx.chan)) s u :=
  query_answers hl (by rw [queryOp_eq, hn, hb]; rfl)

/-! ### The obligation -/

theorem admitCheck_notCreated {f : Nat} (hn : (fn s f).created = false) : admitCheck s f b = .inr 0x11 := by
  unfold admitCheck
  rw [hn]
  rfl

theorem admitCheck_notOwned {f : Nat} (hn : (fn s f).created = true) (ho : ownsDevice s f b.handle = false) :
    admitCheck s f b = .inr 0x0A := by
  unfold admitCheck
  rw [hn, ho]
  rfl

theorem compileDone_arms (hl : live s = true) (hc : s.sch.compiling = true) :
    exec .compileDone s = .next { s with sch := { s.sch with compiling := false, swapPend := true } } :=
  runs_of_guard (o := execCompileDone s) (s := s) (f := fun s => { s with sch := { s.sch with compiling := false, swapPend := true } })
    rfl (by rw [hl, hc]; rfl)

/-- Settles O46: each refusal by the order of the checks; what a begun command leaves untouched is said once.. -/
theorem admission : Obligations.Admission := fun _ _ _ hl =>
  ⟨fun hn => ⟨admitCmd_refused hl (admitCheck_notCreated hn), release_refused hl (by rw [releaseOp_eq, hn]; rfl)⟩,
    fun hn ho => ⟨admitCmd_refused hl (admitCheck_notOwned hn ho), release_refused hl (by rw [releaseOp_eq, hn, ho]; rfl)⟩,
    fun _ hc => admitCmd_refused hl hc,
    fun _ _ _ hc ht => admitCmd_unplaced hl hc ht,
    fun _ _ _ hc ht => admitCmd_accepted hl hc ht,
    fun hn ho => ⟨release_unknown hl hn ho, fun _ => release_busy hl hn ho, fun _ => release_accepted hl hn ho⟩,
    query_notCreated hl, query_busy hl, query_told hl, compileDone_arms hl⟩

end Sys2Proof.Machine
end


section
/-! PROOFS. CREATE, DESTROY and READ of a function window (R257 to R259). The result of each is read off the refusals in
their order; what a done operation changes is one change of the function. -/

namespace Sys2Proof.Machine

variable {s : State} {f : FuncId} {r : Nat}

/-! ### The end of an operation -/

/-- A function whose operation has ended with the result `r`. -/
def opPast (r : Nat) (y : Func) : Func := { y with busy := false, op := 0, result := BitVec.ofNat 3 r }

/-- The operation of function `f` has ended with the result `r`, `f` being as `y` but for `Q.CMD`; no other function has
changed. -/
def OpPast (f r : Nat) (y : Func) (s t : State) : Prop := fn t f = opPast r y ∧ ∀ g, g ≠ f → fn t g = fn s g

theorem qResult_past (f r : Nat) (s : State) : OpPast f r (fn s f) s (qResult f r s) :=
  ⟨(fn_modFn _ _ _ _).trans (if_pos rfl), fun _ hg => (fn_modFn _ _ _ _).trans (if_neg hg)⟩

theorem qResult_modFn_past (f r : Nat) (g : Func → Func) (s : State) :
    OpPast f r (g (fn s f)) s (qResult f r (modFn f g s)) := by
  obtain ⟨hHere, hThere⟩ := qResult_past f r (modFn f g s)
  exact ⟨hHere.trans (congrArg (opPast r) ((fn_modFn _ _ _ _).trans (if_pos rfl))),
    fun k hk => (hThere k hk).trans ((fn_modFn _ _ _ _).trans (if_neg hk))⟩

theorem qResult_frame (f r : Nat) (s : State) : Frame [.fns] s (qResult f r s) := fun _ hb => qResult_keeps f r (Keeps.refl _ s) hb

theorem modFn_frame (f : Nat) (g : Func → Func) (s : State) : Frame [.fns] s (modFn f g s) :=
  fun _ hb => modFn_keeps f g (Keeps.refl _ s) hb

/-- What the statement says of an operation that ends so. -/
def OpEnds (c : Instr) (f r : Nat) (y : Func) (s : State) : Prop := ∃ t, exec c s = .next t ∧ Frame [.fns] s t ∧ OpPast f r y s t

theorem opEnds_refused {c : Instr} (h : exec c s = .next (qResult f.val r s)) : OpEnds c f.val r (fn s f.val) s :=
  ⟨_, h, qResult_frame _ _ _, qResult_past _ _ _⟩

theorem opEnds_done {c : Instr} {g : Func → Func} (h : exec c s = .next (qResult f.val r (modFn f.val g s))) :
    OpEnds c f.val r (g (fn s f.val)) s :=
  ⟨_, h, (modFn_frame _ _ _).trans (qResult_frame _ _ _), qResult_modFn_past _ _ _ _⟩

theorem opAsked_of {op : Nat} (hl : live s = true) (hb : (fn s f.val).busy = true) (ho : (fn s f.val).op = op) :
    opAsked s f.val op = true := by
  unfold opAsked
  rw [hl, hb, ho, beq_self_eq_true]
  rfl

/-! ### CREATE (R258) -/

/-- The settings break a rule of R258 for an SQ of function `f`. -/
def sqCfgBad (f : Nat) (x : Func) : Prop :=
  cfgLog2 x.qCfgSq < 4 ∨ 5 < cfgPrio x.qCfgSq ∨ cfgWeight x.qCfgSq = 0
    ∨ (cfgMaint x.qCfgSq = true ∧ (f ≠ 0 ∨ cfgTimed x.qCfgSq = true))

/-- The CR that the settings of an SQ name is there. -/
def sqRingThere (s : State) (f : Nat) : Prop :=
  cfgCr (fn s f).qCfgSq < (fn s f).nCr ∧ (cr s f (cfgCr (fn s f).qCfgSq)).created = true

/-- The settings break a rule of R258 for a CR. -/
def crCfgBad (x : Func) : Prop := cfgLog2 x.qCfgCr < 4 ∨ x.nVec ≤ cfgVector x.qCfgCr

theorem createResult_notCreated {f : Nat} (h : (fn s f).created = false) : createResult s f = 2 := by
  simp [createResult, h]

theorem createResult_halted {f : Nat} (h : (fn s f).created = true) (hh : (fn s f).halted = true) : createResult s f = 7 := by
  simp [createResult, h, hh]

open Classical in
theorem createResult_sq {f : Nat} (h : (fn s f).created = true) (hh : (fn s f).halted = false) (hc : selCr (fn s f) = false) :
    createResult s f = if (fn s f).nSq ≤ selNum (fn s f) then 2 else if (sq s f (selNum (fn s f))).created = true then 3
      else if sqCfgBad f (fn s f) then 1 else if ¬ sqRingThere s f then 6 else 0 := by
  have hBad : (cfgLog2 (fn s f).qCfgSq < 4 || 5 < cfgPrio (fn s f).qCfgSq || cfgWeight (fn s f).qCfgSq = 0
      || (cfgMaint (fn s f).qCfgSq && (f != 0 || cfgTimed (fn s f).qCfgSq))) = true ↔ sqCfgBad f (fn s f) := by
    simp [sqCfgBad, or_assoc]
  have hRing : ((fn s f).nCr ≤ cfgCr (fn s f).qCfgSq || !(cr s f (cfgCr (fn s f).qCfgSq)).created) = true ↔ ¬ sqRingThere s f := by
    rw [sqRingThere, not_and_or, not_lt, Bool.not_eq_true, Bool.or_eq_true, decide_eq_true_iff, Bool.not_eq_true']
  unfold createResult
  dsimp only
  rw [h, hh, hc]
  simp only [hBad, hRing]
  rfl

open Classical in
theorem createResult_cr {f : Nat} (h : (fn s f).created = true) (hh : (fn s f).halted = false) (hc : selCr (fn s f) = true) :
    createResult s f = if (fn s f).nCr ≤ selNum (fn s f) then 2 else if (cr s f (selNum (fn s f))).created = true then 3
      else if crCfgBad (fn s f) then 1 else 0 := by
  have hBad : (cfgLog2 (fn s f).qCfgCr < 4 || (fn s f).nVec ≤ cfgVector (fn s f).qCfgCr) = true ↔ crCfgBad (fn s f) := by
    simp [crCfgBad]
  unfold createResult
  dsimp only
  rw [h, hh, hc]
  simp only [hBad]
  rfl

theorem createQueue_refused {f : Nat} (h : createResult s f = r) (hr : r ≠ 0) : createQueue f s = qResult f r s := by
  unfold createQueue
  dsimp only
  rw [h, if_neg hr]

theorem createQueue_sq {f : Nat} (h : createResult s f = 0) (hc : selCr (fn s f) = false) :
    createQueue f s = qResult f 0 (modFn f (fun y => { y with
      sq := tput y.sq (selNum (fn s f)) { created := true, base := (fn s f).qBase, cfg := (fn s f).qCfgSq } }) s) := by
  unfold createQueue
  dsimp only
  rw [h, hc]
  rfl

theorem createQueue_cr {f : Nat} (h : createResult s f = 0) (hc : selCr (fn s f) = true) :
    createQueue f s = qResult f 0 (modFn f (fun y => { y with
      cr := tput y.cr (selNum (fn s f)) { created := true, base := (fn s f).qBase, cfg := (fn s f).qCfgCr } }) s) := by
  unfold createQueue
  dsimp only
  rw [h, hc]
  rfl

section
variable (hl : live s = true) (hb : (fn s f.val).busy = true) (ho : (fn s f.val).op = 1)
include hl hb ho

theorem exec_qCreate : exec (.qCreate f) s = .next (createQueue f.val s) :=
  runs_of_guard (o := execQCreate f s) (s := s) (f := createQueue f.val) rfl (opAsked_of hl hb ho)

theorem qCreate_refused (h : createResult s f.val = r) (hr : r ≠ 0) : OpEnds (.qCreate f) f.val r (fn s f.val) s :=
  opEnds_refused ((exec_qCreate hl hb ho).trans (congrArg _ (createQueue_refused h hr)))

theorem qCreate_sq (hc : selCr (fn s f.val) = false) (h : createResult s f.val = 0) : OpEnds (.qCreate f) f.val 0
    { fn s f.val with
      sq := tput (fn s f.val).sq (selNum (fn s f.val)) { created := true, base := (fn s f.val).qBase, cfg := (fn s f.val).qCfgSq } } s :=
  opEnds_done (g := fun y => { y with
      sq := tput y.sq (selNum (fn s f.val)) { created := true, base := (fn s f.val).qBase, cfg := (fn s f.val).qCfgSq } })
    ((exec_qCreate hl hb ho).trans (congrArg _ (createQueue_sq h hc)))

theorem qCreate_cr (hc : selCr (fn s f.val) = true) (h : createResult s f.val = 0) : OpEnds (.qCreate f) f.val 0
    { fn s f.val with
      cr := tput (fn s f.val).cr (selNum (fn s f.val)) { created := true, base := (fn s f.val).qBase, cfg := (fn s f.val).qCfgCr } } s :=
  opEnds_done (g := fun y => { y with
      cr := tput y.cr (selNum (fn s f.val)) { created := true, base := (fn s f.val).qBase, cfg := (fn s f.val).qCfgCr } })
    ((exec_qCreate hl hb ho).trans (congrArg _ (createQueue_cr h hc)))

end

/-! ### DESTROY (R259) -/

/-- Something of the SQ that `Q.SEL` names is still open: an entry not completed, an item, or a completion that waits. -/
def sqBusy (s : State) (f : Nat) : Prop :=
  let n := selNum (fn s f)
  (sq s f n).c ≠ (sq s f n).p ∨ (∃ e ∈ s.front.items, e.2.func = f ∧ e.2.sq = n ∧ e.2.posted = none)
    ∨ ∃ e ∈ (fn s f).cr, ∃ w ∈ e.2.waiting, w.sqid.toNat = n ∧ w.flags &&& 8 = 0

/-- An SQ names the CR that `Q.SEL` names. -/
def crUsed (x : Func) : Prop := ∃ e ∈ x.sq, e.2.created = true ∧ cfgCr e.2.cfg = selNum x

theorem destroyResult_notCreated {f : Nat} (h : (fn s f).created = false) : destroyResult s f = 2 := by
  simp [destroyResult, h]

theorem destroyResult_halted {f : Nat} (h : (fn s f).created = true) (hh : (fn s f).halted = true) : destroyResult s f = 7 := by
  simp [destroyResult, h, hh]

open Classical in
theorem destroyResult_sq {f : Nat} (h : (fn s f).created = true) (hh : (fn s f).halted = false) (hc : selCr (fn s f) = false) :
    destroyResult s f = if (fn s f).nSq ≤ selNum (fn s f) then 2 else if (sq s f (selNum (fn s f))).created = false then 3
      else if sqBusy s f then 4 else 0 := by
  have hBusy : ((sq s f (selNum (fn s f))).c != (sq s f (selNum (fn s f))).p
      || (s.front.items.any fun e => e.2.func == f && e.2.sq == selNum (fn s f) && e.2.posted.isNone)
      || (fn s f).cr.any (fun e => e.2.waiting.any fun w => w.sqid.toNat == selNum (fn s f) && w.flags &&& 8 == 0)) = true
      ↔ sqBusy s f := by
    simp only [sqBusy, Bool.or_eq_true, List.any_eq_true, bne_iff_ne, Bool.and_eq_true, beq_iff_eq, Option.isNone_iff_eq_none,
      or_assoc, and_assoc]
  unfold destroyResult
  dsimp only
  rw [h, hh, hc]
  simp only [hBusy, Bool.not_eq_true']
  rfl

open Classical in
theorem destroyResult_cr {f : Nat} (h : (fn s f).created = true) (hh : (fn s f).halted = false) (hc : selCr (fn s f) = true) :
    destroyResult s f = if (fn s f).nCr ≤ selNum (fn s f) then 2 else if (cr s f (selNum (fn s f))).created = false then 3
      else if crUsed (fn s f) then 5 else if (cr s f (selNum (fn s f))).waiting ≠ [] then 4 else 0 := by
  have hUsed : ((fn s f).sq.any fun e => e.2.created && cfgCr e.2.cfg == selNum (fn s f)) = true ↔ crUsed (fn s f) := by
    simp only [crUsed, List.any_eq_true, Bool.and_eq_true, beq_iff_eq]
  have hWaits : ((!(cr s f (selNum (fn s f))).waiting.isEmpty) = true) = ((cr s f (selNum (fn s f))).waiting ≠ []) := by
    simp
  unfold destroyResult
  dsimp only
  rw [h, hh, hc]
  simp only [hUsed, hWaits, Bool.not_eq_true']
  rfl

theorem destroyQueue_refused {f : Nat} (h : destroyResult s f = r) (hr : r ≠ 0) : destroyQueue f s = qResult f r s := by
  unfold destroyQueue
  dsimp only
  rw [h, if_neg hr]

theorem destroyQueue_sq {f : Nat} (h : destroyResult s f = 0) (hc : selCr (fn s f) = false) :
    destroyQueue f s = qResult f 0 (modFn f (fun y => { y with sq := tdel y.sq (selNum (fn s f)) }) s) := by
  unfold destroyQueue
  dsimp only
  rw [h, hc]
  rfl

theorem destroyQueue_cr {f : Nat} (h : destroyResult s f = 0) (hc : selCr (fn s f) = true) :
    destroyQueue f s = qResult f 0 (modFn f (fun y => { y with cr := tdel y.cr (selNum (fn s f)) }) s) := by
  unfold destroyQueue
  dsimp only
  rw [h, hc]
  rfl

/-- What the statement says of a DESTROY that ends so; `b` says that an SQ has gone. -/
def QueueGone (f : FuncId) (r : Nat) (y : Func) (b : Bool) (s : State) : Prop :=
  ∃ t, exec (.qDestroy f) s = .next (sweepHandles t) ∧ fn t f.val = opPast r y ∧ (∀ g, g ≠ f.val → fn t g = fn s g)
    ∧ t.topo = if b then (forgetSq f.val (selNum (fn s f.val)) s).topo else s.topo

section
variable (hl : live s = true) (hb : (fn s f.val).busy = true) (ho : (fn s f.val).op = 2)
include hl hb ho

theorem exec_qDestroy : exec (.qDestroy f) s = .next (sweepHandles
    (if destroyResult s f.val == 0 && !selCr (fn s f.val) then forgetSq f.val (selNum (fn s f.val)) (destroyQueue f.val s)
      else destroyQueue f.val s)) :=
  runs_of_guard (o := execQDestroy f s) (s := s) (f := fun s => sweepHandles
    (if destroyResult s f.val == 0 && !selCr (fn s f.val) then forgetSq f.val (selNum (fn s f.val)) (destroyQueue f.val s)
      else destroyQueue f.val s)) rfl (opAsked_of hl hb ho)

theorem qDestroy_refused (h : destroyResult s f.val = r) (hr : r ≠ 0) : QueueGone f r (fn s f.val) false s := by
  obtain ⟨hHere, hThere⟩ := qResult_past f.val r s
  refine ⟨_, (exec_qDestroy hl hb ho).trans ?_, hHere, hThere, rfl⟩
  rw [h, beq_false_of_ne hr, Bool.false_and, if_neg Bool.false_ne_true, destroyQueue_refused h hr]

theorem qDestroy_cr (hc : selCr (fn s f.val) = true) (h : destroyResult s f.val = 0) :
    QueueGone f 0 { fn s f.val with cr := tdel (fn s f.val).cr (selNum (fn s f.val)) } false s := by
  obtain ⟨hHere, hThere⟩ := qResult_modFn_past f.val 0 (fun y => { y with cr := tdel y.cr (selNum (fn s f.val)) }) s
  refine ⟨_, (exec_qDestroy hl hb ho).trans ?_, hHere, hThere, rfl⟩
  rw [hc, Bool.not_true, Bool.and_false, if_neg Bool.false_ne_true, destroyQueue_cr h hc]

theorem qDestroy_sq (hc : selCr (fn s f.val) = false) (h : destroyResult s f.val = 0) :
    QueueGone f 0 { fn s f.val with sq := tdel (fn s f.val).sq (selNum (fn s f.val)) } true s := by
  obtain ⟨hHere, hThere⟩ := qResult_modFn_past f.val 0 (fun y => { y with sq := tdel y.sq (selNum (fn s f.val)) }) s
  refine ⟨forgetSq f.val (selNum (fn s f.val)) (qResult f.val 0 (modFn f.val (fun y => { y with sq := tdel y.sq (selNum (fn s f.val)) }) s)),
    (exec_qDestroy hl hb ho).trans ?_, hHere, hThere, rfl⟩
  rw [h, hc, destroyQueue_sq h hc]
  rfl

end

/-! ### READ (R257) -/

/-- RESULT of READ, 0 for DONE. -/
def readResult (s : State) (f : Nat) : Nat :=
  if !(fn s f).created || (if selCr (fn s f) then (fn s f).nCr ≤ selNum (fn s f) else (fn s f).nSq ≤ selNum (fn s f)) then 2
  else if !(if selCr (fn s f) then (cr s f (selNum (fn s f))).created else (sq s f (selNum (fn s f))).created) then 3 else 0

theorem readQueue_refused {f : Nat} (h : readResult s f = r) (hr : r ≠ 0) : readQueue f s = qResult f r s := by
  show qResult f (readResult s f) (if readResult s f = 0 then _ else s) = _
  rw [h, if_neg hr]

theorem readQueue_sq {f : Nat} (h : readResult s f = 0) (hc : selCr (fn s f) = false) :
    readQueue f s = qResult f 0 (modFn f (fun y => { y with
      qBase := (sq s f (selNum (fn s f))).base, qCfgSq := (sq s f (selNum (fn s f))).cfg, qState := queueState s f }) s) := by
  show qResult f (readResult s f) (if readResult s f = 0 then (if selCr (fn s f) then _ else _) else s) = _
  rw [h, hc]
  rfl

theorem readQueue_cr {f : Nat} (h : readResult s f = 0) (hc : selCr (fn s f) = true) :
    readQueue f s = qResult f 0 (modFn f (fun y => { y with
      qBase := (cr s f (selNum (fn s f))).base, qCfgCr := (cr s f (selNum (fn s f))).cfg, qState := queueState s f }) s) := by
  show qResult f (readResult s f) (if readResult s f = 0 then (if selCr (fn s f) then _ else _) else s) = _
  rw [h, hc]
  rfl

section
variable (hl : live s = true) (hb : (fn s f.val).busy = true) (ho : (fn s f.val).op = 3)
include hl hb ho

theorem exec_qRead : exec (.qRead f) s = .next (readQueue f.val s) :=
  runs_of_guard (o := execQRead f s) (s := s) (f := readQueue f.val) rfl (opAsked_of hl hb ho)

theorem qRead_refused (h : readResult s f.val = r) (hr : r ≠ 0) : OpEnds (.qRead f) f.val r (fn s f.val) s :=
  opEnds_refused ((exec_qRead hl hb ho).trans (congrArg _ (readQueue_refused h hr)))

theorem qRead_sq (hc : selCr (fn s f.val) = false) (h : readResult s f.val = 0) : OpEnds (.qRead f) f.val 0
    { fn s f.val with
      qBase := (sq s f.val (selNum (fn s f.val))).base, qCfgSq := (sq s f.val (selNum (fn s f.val))).cfg
      qState := queueState s f.val } s :=
  opEnds_done (g := fun y => { y with
      qBase := (sq s f.val (selNum (fn s f.val))).base, qCfgSq := (sq s f.val (selNum (fn s f.val))).cfg
      qState := queueState s f.val })
    ((exec_qRead hl hb ho).trans (congrArg _ (readQueue_sq h hc)))

theorem qRead_cr (hc : selCr (fn s f.val) = true) (h : readResult s f.val = 0) : OpEnds (.qRead f) f.val 0
    { fn s f.val with
      qBase := (cr s f.val (selNum (fn s f.val))).base, qCfgCr := (cr s f.val (selNum (fn s f.val))).cfg
      qState := queueState s f.val } s :=
  opEnds_done (g := fun y => { y with
      qBase := (cr s f.val (selNum (fn s f.val))).base, qCfgCr := (cr s f.val (selNum (fn s f.val))).cfg
      qState := queueState s f.val })
    ((exec_qRead hl hb ho).trans (congrArg _ (readQueue_cr h hc)))

end

theorem readResult_notCreated {f : Nat} (h : (fn s f).created = false) : readResult s f = 2 := by
  unfold readResult
  rw [h]
  rfl

theorem readResult_sq {f : Nat} (h : (fn s f).created = true) (hc : selCr (fn s f) = false) :
    readResult s f = if (fn s f).nSq ≤ selNum (fn s f) then 2 else if (sq s f (selNum (fn s f))).created = false then 3 else 0 := by
  unfold readResult
  rw [h, hc]
  simp only [Bool.not_true, Bool.false_or, if_neg Bool.false_ne_true, Bool.not_eq_true', decide_eq_true_iff]

theorem readResult_cr {f : Nat} (h : (fn s f).created = true) (hc : selCr (fn s f) = true) :
    readResult s f = if (fn s f).nCr ≤ selNum (fn s f) then 2 else if (cr s f (selNum (fn s f))).created = false then 3 else 0 := by
  unfold readResult
  rw [h, hc]
  simp only [Bool.not_true, Bool.false_or, if_true, Bool.not_eq_true', decide_eq_true_iff]

/-! ### The obligation -/

/-- Settles O47: the result of each operation is read off the refusals in their order, as one chain of conditions.. -/
theorem queueOperations : Obligations.QueueOperations := by
  intro s f hl hb
  refine ⟨fun ho => ⟨fun h => qCreate_refused hl hb ho (createResult_notCreated h) (by decide),
      fun h hh => qCreate_refused hl hb ho (createResult_halted h hh) (by decide), fun h hh hc => ?_, fun h hh hc => ?_⟩,
    fun ho => ⟨fun h => qDestroy_refused hl hb ho (destroyResult_notCreated h) (by decide),
      fun h hh => qDestroy_refused hl hb ho (destroyResult_halted h hh) (by decide), fun h hh hc => ?_, fun h hh hc => ?_⟩,
    fun ho => ⟨fun h => qRead_refused hl hb ho (readResult_notCreated h) (by decide), fun h hc => ?_, fun h hc => ?_⟩⟩
  case refine_1 =>
    have hRes := createResult_sq h hh hc
    refine ⟨fun hn => ?_, fun hn hm => ?_, fun hn hm => ?_⟩
    · exact qCreate_refused hl hb ho (hRes.trans (if_pos hn)) (by decide)
    · exact qCreate_refused hl hb ho (by rw [hRes, if_neg hn.not_ge, if_pos hm]) (by decide)
    · rw [if_neg hn.not_ge, if_neg (ne_true_of_eq_false hm)] at hRes
      refine ⟨fun hBad => ?_, fun hGood hRing => ?_, fun hGood hRing => ?_⟩
      · exact qCreate_refused hl hb ho (hRes.trans (if_pos hBad)) (by decide)
      · exact qCreate_refused hl hb ho (hRes.trans ((if_neg hGood).trans (if_pos hRing))) (by decide)
      · exact qCreate_sq hl hb ho hc (hRes.trans ((if_neg hGood).trans (if_neg (not_not.2 hRing))))
  case refine_2 =>
    have hRes := createResult_cr h hh hc
    refine ⟨fun hn => ?_, fun hn hm => ?_, fun hn hm => ?_⟩
    · exact qCreate_refused hl hb ho (hRes.trans (if_pos hn)) (by decide)
    · exact qCreate_refused hl hb ho (by rw [hRes, if_neg hn.not_ge, if_pos hm]) (by decide)
    · rw [if_neg hn.not_ge, if_neg (ne_true_of_eq_false hm)] at hRes
      exact ⟨fun hBad => qCreate_refused hl hb ho (hRes.trans (if_pos hBad)) (by decide),
        fun hGood => qCreate_cr hl hb ho hc (hRes.trans (if_neg hGood))⟩
  case refine_3 =>
    have hRes := destroyResult_sq h hh hc
    refine ⟨fun hn => ?_, fun hn hm => ?_, fun hn hm => ?_⟩
    · exact qDestroy_refused hl hb ho (hRes.trans (if_pos hn)) (by decide)
    · exact qDestroy_refused hl hb ho (by rw [hRes, if_neg hn.not_ge, if_pos hm]) (by decide)
    · rw [if_neg hn.not_ge, if_neg (ne_false_of_eq_true hm)] at hRes
      exact ⟨fun hBusy => qDestroy_refused hl hb ho (hRes.trans (if_pos hBusy)) (by decide),
        fun hFree => qDestroy_sq hl hb ho hc (hRes.trans (if_neg hFree))⟩
  case refine_4 =>
    have hRes := destroyResult_cr h hh hc
    refine ⟨fun hn => ?_, fun hn hm => ?_, fun hn hm => ?_⟩
    · exact qDestroy_refused hl hb ho (hRes.trans (if_pos hn)) (by decide)
    · exact qDestroy_refused hl hb ho (by rw [hRes, if_neg hn.not_ge, if_pos hm]) (by decide)
    · rw [if_neg hn.not_ge, if_neg (ne_false_of_eq_true hm)] at hRes
      refine ⟨fun hUsed => ?_, fun hFree hWaits => ?_, fun hFree hNone => ?_⟩
      · exact qDestroy_refused hl hb ho (hRes.trans (if_pos hUsed)) (by decide)
      · exact qDestroy_refused hl hb ho (hRes.trans ((if_neg hFree).trans (if_pos hWaits))) (by decide)
      · exact qDestroy_cr hl hb ho hc (hRes.trans ((if_neg hFree).trans (if_neg (not_not.2 hNone))))
  case refine_5 =>
    have hRes := readResult_sq h hc
    refine ⟨fun hn => ?_, fun hn hm => ?_, fun hn hm => ?_⟩
    · exact qRead_refused hl hb ho (hRes.trans (if_pos hn)) (by decide)
    · exact qRead_refused hl hb ho (by rw [hRes, if_neg hn.not_ge, if_pos hm]) (by decide)
    · exact qRead_sq hl hb ho hc (by rw [hRes, if_neg hn.not_ge, if_neg (ne_false_of_eq_true hm)])
  case refine_6 =>
    have hRes := readResult_cr h hc
    refine ⟨fun hn => ?_, fun hn hm => ?_, fun hn hm => ?_⟩
    · exact qRead_refused hl hb ho (hRes.trans (if_pos hn)) (by decide)
    · exact qRead_refused hl hb ho (by rw [hRes, if_neg hn.not_ge, if_pos hm]) (by decide)
    · exact qRead_cr hl hb ho hc (by rw [hRes, if_neg hn.not_ge, if_neg (ne_false_of_eq_true hm)])

end Sys2Proof.Machine
end


section
/-! PROOFS. Kicks and doorbell records (R264 to R269, R272, R277, R288, R289). -/

namespace Sys2Proof.Machine

section
variable {s t u : State} {f q r m : Nat} {v : U16}

/-! ### A producer value is taken (R265) -/

/-- The state in which SQ `q` has taken P = `v`, before anything is read. -/
def producerTaken (f q : Nat) (v : U16) (s : State) : State := modSq f q (fun y => { y with p := v }) s

theorem sq_producerTaken (f q : Nat) (v : U16) (s : State) : sq (producerTaken f q v s) f q = { sq s f q with p := v } :=
  (sq_modSq _ _ _ _ _ _).trans (if_pos ⟨rfl, rfl⟩)

/-- The SQ as the read of its next entry leaves it. -/
def readingFrom (m : Nat) (y : Sq) : Sq :=
  { y with reading := true, seenAt := noteSeen m y, kickAt := if y.reading then y.kickAt else m }

theorem startReading_idle (h : ((sq s f q).f != (sq s f q).p || !(sq s f q).inval.isEmpty) = false) :
    startReading f q m s = s := by
  unfold startReading
  dsimp only
  rw [h]
  rfl

theorem startReading_reads (h : ((sq s f q).f != (sq s f q).p || !(sq s f q).inval.isEmpty) = true) (hc : canFetch s f q = true) :
    startReading f q m s = readNext f q (modSq f q (readingFrom m) s) := by
  unfold startReading
  dsimp only
  rw [h, hc]
  rfl

theorem startReading_waits (h : ((sq s f q).f != (sq s f q).p || !(sq s f q).inval.isEmpty) = true) (hc : canFetch s f q = false) :
    startReading f q m s = leaveUnread f q s := by
  unfold startReading
  dsimp only
  rw [h, hc]
  rfl

/-- The read of the next entry asks for the place of the index that the SQ fetches next. -/
theorem out_readNext (h : sq t f q = readingFrom m (sq s f q)) (ho : t.out = s.out) : (readNext f q t).out
    = s.out ++ [.hostRead f ((sq s f q).base.toNat + 32 * ((nextIndex (sq s f q)).toNat % cfgSize (sq s f q).cfg)) 32] := by
  unfold readNext
  dsimp only
  rw [h, ← ho]
  rfl

theorem modSq_frame (f q : Nat) (g : Sq → Sq) (s : State) : Frame [.fns] s (modSq f q g s) :=
  fun _ hb => modSq_keeps f q g (Keeps.refl _ s) hb

/-- Taking a producer value is what the statement says of a kick. -/
theorem startReading_kicked (f q : Nat) (v : U16) (m : Nat) (s : State) :
    Kicked f q v m s (startReading f q m (producerTaken f q v s)) := by
  have hSq := sq_producerTaken f q v s
  have hOther : ∀ (g : Sq → Sq) k l, ¬ (k = f ∧ l = q) → sq (modSq f q g (producerTaken f q v s)) k l = sq s k l :=
    fun g k l h => ((sq_modSq _ _ _ _ _ _).trans (if_neg h)).trans ((sq_modSq _ _ _ _ _ _).trans (if_neg h))
  have hHere : ∀ g : Sq → Sq, sq (modSq f q g (producerTaken f q v s)) f q = g { sq s f q with p := v } :=
    fun g => (sq_modSq _ _ _ _ _ _).trans ((if_pos ⟨rfl, rfl⟩).trans (congrArg g hSq))
  have hFrame : ∀ g, Frame [.out, .fns] s (modSq f q g (producerTaken f q v s)) :=
    fun g => ((modSq_frame _ _ _ _).trans (modSq_frame _ _ _ _)).mono (by decide)
  have hMore : ((sq (producerTaken f q v s) f q).f != (sq (producerTaken f q v s) f q).p
      || !(sq (producerTaken f q v s) f q).inval.isEmpty) = ((sq s f q).f != v || !(sq s f q).inval.isEmpty) := by rw [hSq]
  unfold Kicked
  dsimp only
  cases hm : ((sq s f q).f != v || !(sq s f q).inval.isEmpty) with
  | false =>
    rw [startReading_idle (hMore.trans hm)]
    refine ⟨hSq, fun k l h => (sq_modSq _ _ _ _ _ _).trans (if_neg h), (modSq_frame _ _ _ _).mono (by decide), ?_⟩
    exact (List.append_nil _).symm
  | true =>
    rw [show canFetch (modSq f q (fun y => { y with p := v }) s) f q = canFetch (producerTaken f q v s) f q from rfl]
    cases hc : canFetch (producerTaken f q v s) f q with
    | false =>
      rw [startReading_waits (hMore.trans hm) hc]
      exact ⟨hHere _, hOther _, hFrame _, (List.append_nil _).symm⟩
    | true =>
      rw [startReading_reads (hMore.trans hm) hc]
      refine ⟨hHere _, hOther _, (hFrame (readingFrom m)).trans ((frame_emit _ _).mono (by decide)), ?_⟩
      rw [out_readNext (s := producerTaken f q v s) (m := m) ((hHere _).trans (congrArg _ hSq.symm)) rfl, hSq]
      rfl

/-! ### Kicks of an SQ (R269, R272, R288, R289) -/

/-- The function takes no producer values. -/
def kickIgnored (s : State) (f : Nat) : Prop := (fn s f).halted = true ∨ (fn s f).flrBusy = true

/-- The test of a producer value, as `inRing` says it. -/
theorem inRing_iff (x : Sq) (v : U16) :
    (decide ((v - x.c).toNat ≤ cfgSize x.cfg) && decide ((x.p - x.c).toNat ≤ (v - x.c).toNat)) = true ↔ inRing x v := by
  rw [Bool.and_eq_true, decide_eq_true_iff, decide_eq_true_iff]
  rfl

theorem created_of_sqLive (h : sqLive s f q = true) : (sq s f q).created = true := (Bool.and_eq_true_iff.1 h).2

theorem ignoring_of (hi : kickIgnored s f) : (!(sq s f q).created || (fn s f).halted || (fn s f).flrBusy) = true := by
  rcases hi with h | h
  · rw [h, Bool.or_true, Bool.true_or]
  · rw [h, Bool.or_true]

theorem taking_of (hc : (sq s f q).created = true) (hi : ¬ kickIgnored s f) :
    (!(sq s f q).created || (fn s f).halted || (fn s f).flrBusy) = false := by
  have hh : (fn s f).halted = false := Bool.eq_false_of_not_eq_true fun h => hi (Or.inl h)
  have hf : (fn s f).flrBusy = false := Bool.eq_false_of_not_eq_true fun h => hi (Or.inr h)
  rw [hc, hh, hf]
  rfl

theorem acceptP_ignored (hi : kickIgnored s f) : acceptP f q v m s = s := by
  unfold acceptP
  dsimp only
  rw [if_pos (ignoring_of hi)]

theorem kickInval_ignored (hi : kickIgnored s f) : kickInval f q v m s = s := by
  unfold kickInval
  dsimp only
  rw [if_pos (ignoring_of hi)]

theorem acceptP_taken (hc : (sq s f q).created = true) (hi : ¬ kickIgnored s f) (hv : inRing (sq s f q) v) :
    acceptP f q v m s = startReading f q m (producerTaken f q v s) := by
  unfold acceptP
  dsimp only
  rw [taking_of hc hi, if_neg Bool.false_ne_true, if_pos ((inRing_iff _ _).2 hv)]
  rfl

theorem kickInval_taken (hc : (sq s f q).created = true) (hi : ¬ kickIgnored s f) (hv : inRing (sq s f q) v) :
    kickInval f q v m s = invalidate f q m (producerTaken f q v s) := by
  unfold kickInval
  dsimp only
  rw [taking_of hc hi, if_neg Bool.false_ne_true, if_pos ((inRing_iff _ _).2 hv)]
  rfl

theorem acceptP_bad (hc : (sq s f q).created = true) (hi : ¬ kickIgnored s f) (hv : ¬ inRing (sq s f q) v) :
    acceptP f q v m s = badSqIndex f q s := by
  unfold acceptP
  dsimp only
  rw [taking_of hc hi, if_neg Bool.false_ne_true, if_neg fun h => hv ((inRing_iff _ _).1 h)]

theorem kickInval_bad (hc : (sq s f q).created = true) (hi : ¬ kickIgnored s f) (hv : ¬ inRing (sq s f q) v) :
    kickInval f q v m s = badSqIndex f q s := by
  unfold kickInval
  dsimp only
  rw [taking_of hc hi, if_neg Bool.false_ne_true, if_neg fun h => hv ((inRing_iff _ _).1 h)]

/-- A bad index ends in DB_ERROR of PF0, or halts the VF. -/
theorem badSqIndex_reports (hf : f < 128) : badSqIndex f q s = (if f = 0 then raiseQ 0 3 else haltFunc f 2) (noEntry f q s)
    ∧ if f = 0 then bit (evtWord (badSqIndex f q s) 256) 3 = true else (fn (badSqIndex f q s) f).halted = true := by
  unfold badSqIndex
  dsimp only
  by_cases h : f = 0
  · rw [if_pos h, if_pos h, if_pos h]
    refine ⟨rfl, ?_⟩
    unfold raiseQ
    rw [dif_pos (by decide)]
    exact raise_bit (.q 0) 3 (by decide) _
  · rw [if_neg h, if_neg h, if_neg h]
    exact ⟨rfl, haltFunc_halts f 2 hf _⟩

/-! ### Invalidation (R272) -/

/-- The cached entries of an SQ that have not begun. -/
def cached (s : State) (f q : Nat) : Tbl Item :=
  s.front.items.filter fun e => e.2.func == f && e.2.sq == q && e.2.posted.isNone && !hasBegun e.2

/-- A cached entry is dropped. -/
def uncache (e : Nat × Item) (s : State) : State := delItem (flowBack e.2.flow (dropStaged e.1 (dropFromUnit e.1 s))) e.1

theorem flowBack_rest (fl : Option Flow) (s : State) : (flowBack fl s).front = s.front ∧ (flowBack fl s).fns = s.fns :=
  ⟨flowBack_keeps (bl := .front) fl (Keeps.refl .front s) (by decide), flowBack_keeps (bl := .fns) fl (Keeps.refl .fns s) (by decide)⟩

theorem dropStaged_others (i : Nat) (s : State) {k : Nat} (hk : k ≠ i) : item? (dropStaged i s) k = item? s k :=
  (item_modItem i k _ s).trans (if_neg hk)

theorem uncache_item (e : Nat × Item) (s : State) (k : Nat) : item? (uncache e s) k = if k = e.1 then none else item? s k := by
  unfold uncache
  rw [item_delItem]
  by_cases hk : k = e.1
  · rw [if_pos hk, if_pos hk]
  · rw [if_neg hk, if_neg hk]
    exact (congrArg (fun x : Front => tfind x.items k) (flowBack_rest _ _).1).trans
      (dropStaged_others e.1 (dropFromUnit e.1 s) hk)

theorem uncache_fns (e : Nat × Item) (s : State) : (uncache e s).fns = s.fns :=
  ((flowBack_rest e.2.flow _).2).trans
    (dropStaged_keeps (bl := .fns) e.1 (Keeps.refl .fns (dropFromUnit e.1 s)) (by decide))

/-- What an invalidation notes of a dropped entry, to fetch it again. -/
def refetch (e : Nat × Item) : U16 × Option (Nat × Nat) :=
  (e.2.index, match e.2.slot, e.2.service with
    | .timed r, some m => some (r, m)
    | _, _ => none)

theorem invalidate_eq : invalidate f q m s = startReading f q m
    (modSq f q (fun y => { y with inval := (cached s f q).map refetch ++ y.inval, kickAt := m }) (each (cached s f q) uncache s)) := rfl

theorem invalidate_does (f q m : Nat) (s : State) :
    (∀ e ∈ cached s f q, item? (invalidate f q m s) e.1 = none)
    ∧ (∀ i, (∀ e ∈ cached s f q, e.1 ≠ i) → item? (invalidate f q m s) i = item? s i)
    ∧ (sq (invalidate f q m s) f q).inval.map Prod.fst = (cached s f q).map (fun e => e.2.index) ++ (sq s f q).inval.map Prod.fst
    ∧ (sq (invalidate f q m s) f q).p = (sq s f q).p ∧ (sq (invalidate f q m s) f q).c = (sq s f q).c
    ∧ (sq (invalidate f q m s) f q).f = (sq s f q).f := by
  obtain ⟨w, hw⟩ : ∃ w, w = each (cached s f q) uncache s := ⟨_, rfl⟩
  have hFns : w.fns = s.fns := hw ▸ each_unchanged (fun s : State => s.fns) _ _ (fun e _ => uncache_fns e) s
  have hSq : sq w f q = sq s f q := congrArg (fun x : Funcs => tget ({} : Sq) (tget (funcInit f) x.fn f).sq q) hFns
  have hGone : ∀ e ∈ cached s f q, item? w e.1 = none := hw ▸ each_establishes (fun e t => item? t e.1 = none) _ _
    (fun e _ t => (uncache_item e t e.1).trans (if_pos rfl))
    (fun x e _ t hx => by
      rw [uncache_item]
      exact ite_eq_left_iff.2 fun _ => hx) s
  have hStay : ∀ i, (∀ e ∈ cached s f q, e.1 ≠ i) → item? w i = item? s i := fun i hi =>
    hw ▸ each_unchanged (fun t => item? t i) _ _ (fun e he t => (uncache_item e t i).trans (if_neg (hi e he).symm)) s
  have hNoted : ∀ g : Sq → Sq, sq (modSq f q g w) f q = g (sq s f q) := fun g =>
    (sq_modSq _ _ _ _ _ _).trans ((if_pos ⟨rfl, rfl⟩).trans (congrArg g hSq))
  rw [invalidate_eq, ← hw]
  obtain ⟨hFront, hInval, hP, hC, hF⟩ := startReading_same f q m
    (modSq f q (fun y => { y with inval := (cached s f q).map refetch ++ y.inval, kickAt := m }) w)
  have hItems : ∀ i, item? (startReading f q m
      (modSq f q (fun y => { y with inval := (cached s f q).map refetch ++ y.inval, kickAt := m }) w)) i = item? w i :=
    fun i => congrArg (fun x : Front => tfind x.items i) hFront
  refine ⟨fun e he => (hItems _).trans (hGone e he), fun i hi => (hItems i).trans (hStay i hi), ?_, ?_, ?_, ?_⟩
  · rw [hInval, hNoted, List.map_append, List.map_map]
    rfl
  · rw [hP, hNoted]
  · rw [hC, hNoted]
  · rw [hF, hNoted]

/-! ### A consumer value is taken (R277, R284) -/

/-- The value `v` is a consumer value that the CR may take. -/
def inCrRing (x : Cr) (v : U16) : Prop := (x.p - v).toNat ≤ cfgSize x.cfg ∧ (x.p - v).toNat ≤ (x.p - x.c).toNat

/-- The state in which CR `r` has taken C = `v`, before anything is drained. -/
def consumerTaken (f r : Nat) (v : U16) (s : State) : State := modCr f r (fun y => { y with c := v }) s

theorem created_of_crLive (h : crLive s f r = true) : (cr s f r).created = true := (Bool.and_eq_true_iff.1 h).2

theorem acceptC_resetting (hf : (fn s f).flrBusy = true) : acceptC f r v m s = s := by
  unfold acceptC
  dsimp only
  rw [hf, Bool.or_true, if_pos rfl]

theorem acceptC_taken (hc : (cr s f r).created = true) (hf : (fn s f).flrBusy = false) (hv : inCrRing (cr s f r) v) :
    acceptC f r v m s = (if (cr (crDrain f r (consumerTaken f r v s)) f r).waiting.isEmpty && !(cr s f r).waiting.isEmpty
      then resumeSqs f r m (crDrain f r (consumerTaken f r v s)) else crDrain f r (consumerTaken f r v s)) := by
  unfold acceptC
  dsimp only
  rw [hc, hf, if_neg (by decide), if_pos (by rw [Bool.and_eq_true, decide_eq_true_iff, decide_eq_true_iff]; exact hv)]
  rfl

theorem acceptC_bad (hc : (cr s f r).created = true) (hf : (fn s f).flrBusy = false) (hv : ¬ inCrRing (cr s f r) v) :
    acceptC f r v m s = if f = 0 then raiseQ 0 3 s else haltFunc f 3 s := by
  unfold acceptC
  dsimp only
  rw [hc, hf, if_neg (by decide), if_neg (by rw [Bool.and_eq_true, decide_eq_true_iff, decide_eq_true_iff]; exact hv)]

theorem cr_consumerTaken (f r : Nat) (v : U16) (s : State) : cr (consumerTaken f r v s) f r = { cr s f r with c := v } :=
  (cr_modCr _ _ _ _ _ _).trans (if_pos ⟨rfl, rfl⟩)

/-- A CR in which nothing waits drains nothing. -/
theorem crDrain_empty (hw : (cr s f r).waiting = []) (hh : (cr s f r).spillHalt = false) : crDrain f r s = s := by
  unfold crDrain
  rw [hw]
  show (if (cr s f r).waiting.isEmpty && (cr s f r).spillHalt then _ else s) = s
  rw [hh, Bool.and_false, if_neg Bool.false_ne_true]

theorem acceptC_quiet (hc : (cr s f r).created = true) (hf : (fn s f).flrBusy = false) (hv : inCrRing (cr s f r) v)
    (hw : (cr s f r).waiting = []) (hh : (cr s f r).spillHalt = false) : acceptC f r v m s = consumerTaken f r v s := by
  have hTaken := cr_consumerTaken f r v s
  rw [acceptC_taken hc hf hv, crDrain_empty (by rw [hTaken]; exact hw) (by rw [hTaken]; exact hh), hw]
  show (if _ && false then _ else _) = _
  rw [Bool.and_false, if_neg Bool.false_ne_true]

theorem acceptC_drains (hc : (cr s f r).created = true) (hf : (fn s f).flrBusy = false) (hv : inCrRing (cr s f r) v)
    (hw : (cr s f r).waiting ≠ []) : acceptC f r v m s = (if (cr (crDrain f r (consumerTaken f r v s)) f r).waiting.isEmpty
      then resumeSqs f r m (crDrain f r (consumerTaken f r v s)) else crDrain f r (consumerTaken f r v s)) := by
  have hSome : (!(cr s f r).waiting.isEmpty) = true := by
    rw [List.isEmpty_eq_false_iff.2 hw]
    rfl
  rw [acceptC_taken hc hf hv, hSome, Bool.and_true]

end

/-! ### Kick commands (R269) -/

section
variable {s : State} {f : FuncId} {v : U16}

theorem exec_qKickSq {q : Fin 4096} (hr : hostReaches s f.val = true) (hq : sqLive s f.val q.val = true) :
    exec (.qKickSq f q v) s = .next (sweepHandles (acceptP f.val q.val v (absUframe s) s)) :=
  runs_of_guard (o := execQKickSq f q v s) (s := s) (f := fun s => sweepHandles (acceptP f.val q.val v (absUframe s) s)) rfl
    (by rw [hr, hq]; rfl)

theorem exec_qKickSqInval {q : Fin 4096} (hr : hostReaches s f.val = true) (hq : sqLive s f.val q.val = true) :
    exec (.qKickSqInval f q v) s = .next (sweepHandles (kickInval f.val q.val v (absUframe s) s)) :=
  runs_of_guard (o := execQKickSqInval f q v s) (s := s) (f := fun s => sweepHandles (kickInval f.val q.val v (absUframe s) s))
    rfl (by rw [hr, hq]; rfl)

theorem exec_qKickCr {r : Fin 4096} (hr : hostReaches s f.val = true) (hq : crLive s f.val r.val = true) :
    exec (.qKickCr f r v) s = .next (sweepHandles (acceptC f.val r.val v (absUframe s) s)) :=
  runs_of_guard (o := execQKickCr f r v s) (s := s) (f := fun s => sweepHandles (acceptC f.val r.val v (absUframe s) s)) rfl
    (by rw [hr, hq]; rfl)

/-- What the statement says of a kick with INVAL whose index is taken. -/
theorem kickInval_does {q : Nat} (hc : (sq s f.val q).created = true) (hi : ¬ kickIgnored s f.val) (hv : inRing (sq s f.val q) v) :
    let t := kickInval f.val q v (absUframe s) s
    (∀ e ∈ cached s f.val q, item? t e.1 = none) ∧ (∀ i, (∀ e ∈ cached s f.val q, e.1 ≠ i) → item? t i = item? s i)
    ∧ (sq t f.val q).inval.map Prod.fst = (cached s f.val q).map (fun e => e.2.index) ++ (sq s f.val q).inval.map Prod.fst
    ∧ (sq t f.val q).p = v ∧ (sq t f.val q).c = (sq s f.val q).c ∧ (sq t f.val q).f = (sq s f.val q).f := by
  have hSq := sq_producerTaken f.val q v s
  intro t
  obtain ⟨hGone, hStay, hInval, hP, hC, hF⟩ := invalidate_does f.val q (absUframe s) (producerTaken f.val q v s)
  rw [← kickInval_taken hc hi hv] at hGone hStay hInval hP hC hF
  exact ⟨hGone, hStay, hInval.trans (by rw [hSq]; rfl), hP.trans (by rw [hSq]), hC.trans (by rw [hSq]), hF.trans (by rw [hSq])⟩

/-- What the statement says of the two kicks of an SQ whose index is out of range. -/
theorem badKick_does {q : Fin 4096} (hr : hostReaches s f.val = true) (hq : sqLive s f.val q.val = true)
    (hi : ¬ kickIgnored s f.val) (hv : ¬ inRing (sq s f.val q.val) v) :
    ∀ c ∈ [Instr.qKickSq f q v, .qKickSqInval f q v], ∃ t, exec c s = .next (sweepHandles t)
      ∧ t = (if f.val = 0 then raiseQ 0 3 else haltFunc f.val 2) (noEntry f.val q.val s)
      ∧ if f.val = 0 then bit (evtWord t 256) 3 = true else (fn t f.val).halted = true := by
  have hc := created_of_sqLive hq
  have hDoes := badSqIndex_reports (s := s) (q := q.val) f.isLt
  intro c hMem
  rcases List.mem_cons.1 hMem with rfl | hMem
  · exact ⟨badSqIndex f.val q.val s, (exec_qKickSq hr hq).trans (by rw [acceptP_bad hc hi hv]), hDoes⟩
  · rw [List.mem_singleton.1 hMem]
    exact ⟨badSqIndex f.val q.val s, (exec_qKickSqInval hr hq).trans (by rw [kickInval_bad hc hi hv]), hDoes⟩

theorem kicksSq_does {q : Fin 4096} (hr : hostReaches s f.val = true) (hq : sqLive s f.val q.val = true) :
    (kickIgnored s f.val → exec (.qKickSq f q v) s = .next (sweepHandles s) ∧ exec (.qKickSqInval f q v) s = .next (sweepHandles s))
    ∧ (¬ kickIgnored s f.val → inRing (sq s f.val q.val) v →
      ∃ t, exec (.qKickSq f q v) s = .next (sweepHandles t) ∧ Kicked f.val q.val v (absUframe s) s t) := by
  have hc := created_of_sqLive hq
  refine ⟨fun hi => ⟨?_, ?_⟩, fun hi hv => ⟨_, ?_, startReading_kicked f.val q.val v (absUframe s) s⟩⟩
  · rw [exec_qKickSq hr hq, acceptP_ignored hi]
  · rw [exec_qKickSqInval hr hq, kickInval_ignored hi]
  · rw [exec_qKickSq hr hq, acceptP_taken hc hi hv]

theorem kicksCr_does {r : Fin 4096} (hr : hostReaches s f.val = true) (hq : crLive s f.val r.val = true) :
    ((fn s f.val).flrBusy = true → exec (.qKickCr f r v) s = .next (sweepHandles s))
    ∧ ((fn s f.val).flrBusy = false → inCrRing (cr s f.val r.val) v → (cr s f.val r.val).waiting = [] →
      (cr s f.val r.val).spillHalt = false → exec (.qKickCr f r v) s = .next (sweepHandles (consumerTaken f.val r.val v s)))
    ∧ ((fn s f.val).flrBusy = false → inCrRing (cr s f.val r.val) v → (cr s f.val r.val).waiting ≠ [] →
      exec (.qKickCr f r v) s = .next (sweepHandles
        (if (cr (crDrain f.val r.val (consumerTaken f.val r.val v s)) f.val r.val).waiting.isEmpty
          then resumeSqs f.val r.val (absUframe s) (crDrain f.val r.val (consumerTaken f.val r.val v s))
          else crDrain f.val r.val (consumerTaken f.val r.val v s))))
    ∧ ((fn s f.val).flrBusy = false → ¬ inCrRing (cr s f.val r.val) v →
      exec (.qKickCr f r v) s = .next (sweepHandles (if f.val = 0 then raiseQ 0 3 s else haltFunc f.val 3 s))) := by
  have hc := created_of_crLive hq
  refine ⟨fun hf => ?_, fun hf hv hw hh => ?_, fun hf hv hw => ?_, fun hf hv => ?_⟩
  · rw [exec_qKickCr hr hq, acceptC_resetting hf]
  · rw [exec_qKickCr hr hq, acceptC_quiet hc hf hv hw hh]
  · rw [exec_qKickCr hr hq, acceptC_drains hc hf hv hw]
  · rw [exec_qKickCr hr hq, acceptC_bad hc hf hv]

/-! ### Doorbell records (R267) -/

/-- The state in which the sweep no longer waits for the block. -/
def blockRead (f b : Nat) (s : State) : State :=
  { s with front := { s.front with sweep := s.front.sweep.filter (· != (f, b)) } }

variable {b : Fin 512} {l : List U32} {w : U32}

theorem exec_doorbellBlockReadDone (ok : Bool) (hs : serves s = true) (hb : (f.val, b.val) ∈ s.front.sweep) :
    exec (.doorbellBlockReadDone f b ok l) s = .next
      (if ok then sweepHandles (doorbellRecords f.val b.val 0 (l.take 16) (blockRead f.val b.val s))
        else emit (.aer f.val) (blockRead f.val b.val s)) :=
  runs_of_guard (o := execDoorbellBlockReadDone f b ok l s) (s := s)
    (f := fun s => if ok then sweepHandles (doorbellRecords f.val b.val 0 (l.take 16) (blockRead f.val b.val s))
      else emit (.aer f.val) (blockRead f.val b.val s)) rfl (by rw [hs, List.contains_iff_mem.2 hb]; rfl)

theorem doorbellRecord_sq {g n i : Nat} {x : U16} (hn : n < cdiv (fn s g).nSq 16) : doorbellRecord g n i x s =
    if sqLive s g (16 * n + i) then acceptP g (16 * n + i) x s.front.sweepAt s else s := by
  unfold doorbellRecord
  dsimp only
  rw [if_pos hn]

theorem doorbell_kicks (hs : serves s = true) (hb : (f.val, b.val) ∈ s.front.sweep) (hn : b.val < cdiv (fn s f.val).nSq 16)
    (hq : sqLive s f.val (16 * b.val) = true) (hi : ¬ kickIgnored s f.val)
    (hv : inRing (sq s f.val (16 * b.val)) (w.setWidth 16)) :
    ∃ t, exec (.doorbellBlockReadDone f b true [w]) s = .next (sweepHandles t)
      ∧ Kicked f.val (16 * b.val) (w.setWidth 16) s.front.sweepAt (blockRead f.val b.val s) t := by
  refine ⟨_, (exec_doorbellBlockReadDone true hs hb).trans ?_, startReading_kicked _ _ _ _ (blockRead f.val b.val s)⟩
  show Host.Outcome.next (sweepHandles (doorbellRecord f.val b.val 0 (w.setWidth 16) (blockRead f.val b.val s))) = _
  rw [doorbellRecord_sq (s := blockRead f.val b.val s) hn,
    if_pos (show sqLive (blockRead f.val b.val s) f.val (16 * b.val + 0) = true from hq)]
  exact congrArg (fun t => Host.Outcome.next (sweepHandles t))
    (acceptP_taken (s := blockRead f.val b.val s) (created_of_sqLive hq) hi hv)

theorem doorbell_notLive (hs : serves s = true) (hb : (f.val, b.val) ∈ s.front.sweep) (hn : b.val < cdiv (fn s f.val).nSq 16)
    (hq : sqLive s f.val (16 * b.val) = false) :
    exec (.doorbellBlockReadDone f b true [w]) s = .next (sweepHandles (blockRead f.val b.val s)) := by
  refine (exec_doorbellBlockReadDone true hs hb).trans ?_
  show Host.Outcome.next (sweepHandles (doorbellRecord f.val b.val 0 (w.setWidth 16) (blockRead f.val b.val s))) = _
  rw [doorbellRecord_sq (s := blockRead f.val b.val s) hn,
    if_neg (show ¬ sqLive (blockRead f.val b.val s) f.val (16 * b.val + 0) = true from ne_true_of_eq_false hq)]

end

/-! ### The obligation -/

/-- Settles O48: a producer value taken is `startReading_kicked`, an invalidation `invalidate_does`, a consumer value `acceptC_drains` and its kin.. -/
theorem kicks : Obligations.Kicks := by
  intro s f v
  refine ⟨fun q hr hq => ?_, fun r hr hq => kicksCr_does hr hq, fun b l hs hb => ⟨exec_doorbellBlockReadDone false hs hb,
    exec_doorbellBlockReadDone true hs hb, fun w hn hq hh hf hv => ?_, fun w hn hq => doorbell_notLive hs hb hn hq⟩⟩
  · obtain ⟨hIgnored, hTaken⟩ := kicksSq_does (v := v) hr hq
    exact ⟨hIgnored, hTaken, fun hi hv => ⟨_, exec_qKickSqInval hr hq, kickInval_does (created_of_sqLive hq) hi hv⟩,
      fun hi hv => badKick_does hr hq hi hv⟩
  · exact doorbell_kicks hs hb hn hq (fun h => h.elim (ne_true_of_eq_false hh) (ne_true_of_eq_false hf)) hv

end Sys2Proof.Machine
end


section
/-! PROOFS. A fetched entry: what it becomes, and what the acceptance checks make of it (R197 to R200, R271, R273, R292,
R293). -/

namespace Sys2Proof.Machine

section
variable {s v w : State} {i f q r m : Nat} {raw : BitVec 256} {x y : Item} {d : Verdict}

/-! ### The item of an entry -/

/-- The item is still that of the same entry, in the same slot. -/
def SameEntry (x y : Item) : Prop :=
  (y.func, y.sq, y.index, y.raw, y.slot, y.setup, y.poll) = (x.func, x.sq, x.index, x.raw, x.slot, x.setup, x.poll)

theorem SameEntry.trans {z : Item} (h : SameEntry x y) (h' : SameEntry y z) : SameEntry x z := Eq.trans h' h

theorem SameEntry.own (h : SameEntry x y) : isOwn y = isOwn x := by
  unfold SameEntry at h
  simp only [Prod.mk.injEq] at h
  obtain ⟨-, -, -, -, -, hSetup, hPoll⟩ := h
  unfold isOwn
  rw [hSetup, hPoll]

theorem SameEntry.names (h : SameEntry x y) : (y.func, y.sq, y.index, y.raw) = (x.func, x.sq, x.index, x.raw) := by
  unfold SameEntry at h
  simp only [Prod.mk.injEq] at h ⊢
  exact ⟨h.1, h.2.1, h.2.2.1, h.2.2.2.1⟩

theorem SameEntry.slot (h : SameEntry x y) : y.slot = x.slot := by
  unfold SameEntry at h
  simp only [Prod.mk.injEq] at h
  exact h.2.2.2.2.1

/-- The item `i` of the entry `x` is there, and `P` holds of it. -/
def EntryIs (i : Nat) (x : Item) (P : Item → Prop) (v : State) : Prop := ∃ y, item? v i = some y ∧ SameEntry x y ∧ P y

theorem EntryIs.mono {P Q : Item → Prop} (h : EntryIs i x P v) (hPQ : ∀ y, P y → Q y) : EntryIs i x Q v := by
  obtain ⟨y, hy, hSame, hP⟩ := h
  exact ⟨y, hy, hSame, hPQ y hP⟩

theorem EntryIs.of_front {P : Item → Prop} (h : EntryIs i x P v) (hf : w.front = v.front) : EntryIs i x P w := by
  obtain ⟨y, hy, hRest⟩ := h
  exact ⟨y, (congrArg (fun z : Front => tfind z.items i) hf).trans hy, hRest⟩

/-- An entry's item that ends has a status, the given one where it had none. -/
theorem finish_entry (st : Byte) (hi : item? v i = some x) (ho : isOwn x = false) :
    EntryIs i x (fun y => y.status ≠ none ∧ (x.status = none → y.status = some st)) (finish i st v) := by
  rw [finish_eq i st hi]
  by_cases hEnded : (x.status.isSome && !x.awaitFin) = true
  · rw [if_pos hEnded]
    have hSome : x.status ≠ none := Option.isSome_iff_ne_none.1 (Bool.and_eq_true_iff.1 hEnded).1
    exact ⟨x, hi, rfl, hSome, fun h => absurd h hSome⟩
  · rw [if_neg hEnded, ho, if_neg Bool.false_ne_true]
    have hPlaced : EntryIs i x (fun y => y.status = some st) (placedIn i st x v) :=
      ⟨_, (item_setItem _ _ _ _).trans (if_pos rfl), rfl, rfl⟩
    have hCleared : EntryIs i x (fun y => y.status = some st) (clearedIn i st x v) := by
      unfold clearedIn
      split
      · obtain ⟨y, hy, hSame, hSt⟩ := hPlaced
        refine ⟨{ y with segs := [], ended := true }, ?_, hSame, hSt⟩
        refine (item_modItem i i _ (placedIn i st x v)).trans ?_
        rw [if_pos rfl, hy]
        rfl
      · exact hPlaced
    exact hCleared.mono fun y hSt => ⟨by rw [hSt]; exact Option.some_ne_none _, fun _ => hSt⟩

/-- An entry's item that is stopped has ended, or ends with its transaction. -/
theorem stopItem_entry (st : Byte) (hi : item? v i = some x) (ho : isOwn x = false) :
    EntryIs i x (fun y => y.status ≠ none ∨ y.stopAs = some st) (stopItem st i v) := by
  unfold stopItem
  split
  · refine ⟨_, (item_modItem i i _ v).trans ((if_pos rfl).trans (congrArg _ hi)), ?_⟩
    dsimp only
    split
    · next hSome => exact ⟨rfl, Or.inl (Option.isSome_iff_ne_none.1 hSome)⟩
    · exact ⟨rfl, Or.inr rfl⟩
  · exact (finish_entry st hi ho).mono fun y h => Or.inl h.1

/-! ### What the checks make of an item (R198, R200, R273) -/

/-- The checks leave the functions as they are, and the item that of its entry, of which `P` holds then. -/
def Judged (i : Nat) (x : Item) (P : Item → Prop) (v w : State) : Prop := w.fns = v.fns ∧ EntryIs i x P w

theorem finish_judged (st : Byte) (hi : item? v i = some x) (ho : isOwn x = false) (hs : x.status = none) :
    Judged i x (fun y => y.status = some st) v (finish i st v) :=
  ⟨finish_fns _ _ _, (finish_entry st hi ho).mono fun _ h => h.2 hs⟩

theorem modItem_judged {g : Item → Item} {P : Item → Prop} (hi : item? v i = some x) (hSame : SameEntry x (g x)) (hP : P (g x)) :
    Judged i x P v (modItem i g v) :=
  ⟨modItem_keeps (bl := .fns) i g (Keeps.refl .fns v) (by decide),
    g x, (item_modItem i i g v).trans ((if_pos rfl).trans (congrArg _ hi)), hSame, hP⟩

/-- The service to which a periodic entry seen in microframe `m` is bound (R198). -/
def periodicTarget (v : State) (r m : Nat) (g : Rung) : Option Nat → Nat
  | some k => k
  | none =>
    if (pstate v r).streaming && !(pstate v r).ends then serviceAfter g (pstate v r).lastSvc
    else serviceFrom g (max (m + 2) ((pstate v r).lastSvc + 1))

/-- The endpoint streams, and its last service is at least the target. -/
def streamed (i r target : Nat) (v : State) : State :=
  modPstate r (fun y => { y with
    streaming := true, ends := false, lastSvc := max y.lastSvc target
    lastSq := match item? v i with | some x => x.sq | none => 0 }) v

theorem bindPeriodic_eq {g : Rung} (keep : Option Nat) (hg : tfind v.sch.live r = some g) : bindPeriodic i r m keep v =
    if m + 2 ≤ periodicTarget v r m g keep then
      modItem i (fun x => { x with service := some (periodicTarget v r m g keep) }) (streamed i r (periodicTarget v r m g keep) v)
    else finish i stMissedLead
      { streamed i r (periodicTarget v r m g keep) v with
        sch := { (streamed i r (periodicTarget v r m g keep) v).sch with
          leadMiss := (streamed i r (periodicTarget v r m g keep) v).sch.leadMiss + 1 } } := by
  unfold bindPeriodic
  rw [hg]
  cases keep <;> rfl

/-- A periodic entry is bound to its service, or completes MISSED_LEAD where the lead is too short. -/
theorem bindPeriodic_judged {g : Rung} (keep : Option Nat) (hi : item? v i = some x) (ho : isOwn x = false) (hs : x.status = none)
    (hg : tfind v.sch.live r = some g) : Judged i x (fun y =>
      if m + 2 ≤ periodicTarget v r m g keep then y.status = none ∧ y.service = some (periodicTarget v r m g keep)
      else y.status = some stMissedLead) v (bindPeriodic i r m keep v) := by
  rw [bindPeriodic_eq keep hg]
  by_cases hLead : m + 2 ≤ periodicTarget v r m g keep
  · simp only [if_pos hLead]
    exact modItem_judged (v := streamed i r (periodicTarget v r m g keep) v) hi rfl ⟨hs, rfl⟩
  · simp only [if_neg hLead]
    exact finish_judged (v := { streamed i r (periodicTarget v r m g keep) v with sch := _ }) stMissedLead hi ho hs

/-- An event entry is bound to a service. -/
theorem bindEvent_judged {g : Rung} (keep : Option Nat) (hi : item? v i = some x) (hs : x.status = none)
    (hg : tfind v.sch.live r = some g) :
    Judged i x (fun y => y.status = none ∧ ∃ k, y.service = some k) v (bindEvent i r m keep v) := by
  unfold bindEvent
  rw [hg]
  exact modItem_judged hi rfl ⟨hs, _, rfl⟩

theorem bindPeriodic_unadmitted (keep : Option Nat) (hi : item? v i = some x) (ho : isOwn x = false) (hs : x.status = none)
    (hg : tfind v.sch.live r = none) : Judged i x (fun _ => True) v (bindPeriodic i r m keep v) := by
  unfold bindPeriodic
  rw [hg]
  obtain ⟨hFns, hEntry⟩ := finish_judged stNotAdmitted hi ho hs
  exact ⟨hFns, hEntry.mono fun _ _ => trivial⟩

theorem bindEvent_unadmitted (keep : Option Nat) (hi : item? v i = some x) (ho : isOwn x = false) (hs : x.status = none)
    (hg : tfind v.sch.live r = none) : Judged i x (fun _ => True) v (bindEvent i r m keep v) := by
  unfold bindEvent
  rw [hg]
  obtain ⟨hFns, hEntry⟩ := finish_judged stNotAdmitted hi ho hs
  exact ⟨hFns, hEntry.mono fun _ _ => trivial⟩

/-- The status of a general entry: STALL on a halted endpoint, else none yet. -/
def generalStatus (v : State) (raw : BitVec 256) : Option Byte :=
  match ctx? v (eHandleNum raw) (eEp raw) (eDirIn raw) with
  | some c => if c.halted then some stStall else none
  | none => none

/-- What the verdict makes of the item, where no target is kept from an earlier fetch. -/
def Verdictly (m : Nat) (raw : BitVec 256) (v : State) (d : Verdict) (y : Item) : Prop :=
  match d with
  | .failed st => y.status = some st
  | .nop => y.status = some stSuccess
  | .general => y.status = generalStatus v raw
  | .per r => ∀ g, tfind v.sch.live r = some g → if m + 2 ≤ periodicTarget v r m g none
      then y.status = none ∧ y.service = some (periodicTarget v r m g none) else y.status = some stMissedLead
  | .evt r => ∀ g, tfind v.sch.live r = some g → y.status = none ∧ ∃ k, y.service = some k
  | .axis _ => y.status = none

/-- The verdict halts the function. -/
def haltsVf (f : Nat) (d : Verdict) : Prop := f ≠ 0 ∧ d = .failed stMalformed

theorem applyVerdict_failed {st : Byte} (hh : ¬ haltsVf f (.failed st)) (keep : Option (Nat × Nat)) :
    applyVerdict i f raw (.failed st) m keep v = finish i st v := by
  refine if_neg fun h => hh ?_
  obtain ⟨hSt, hf⟩ := Bool.and_eq_true_iff.1 h
  exact ⟨bne_iff_ne.1 hf, congrArg Verdict.failed (beq_iff_eq.1 hSt)⟩

theorem applyVerdict_general (keep : Option (Nat × Nat)) (hi : item? v i = some x) (ho : isOwn x = false) (hs : x.status = none) :
    Judged i x (fun y => y.status = generalStatus v raw) v (applyVerdict i f raw .general m keep v) := by
  show Judged i x _ v (match ctx? v (eHandleNum raw) (eEp raw) (eDirIn raw) with
    | some c => if c.halted then finish i stStall v else v
    | none => v)
  unfold generalStatus
  cases ctx? v (eHandleNum raw) (eEp raw) (eDirIn raw) with
  | none => exact ⟨rfl, x, hi, rfl, hs⟩
  | some c =>
    cases hc : c.halted with
    | false => exact ⟨by simp [hc], x, by simpa [hc] using hi, rfl, by simpa [hc] using hs⟩
    | true =>
      simp only [hc, if_true]
      exact finish_judged stStall hi ho hs

/-- A verdict that halts nothing leaves the functions, and the item that of its entry; where no target is kept from an
earlier fetch, or the entry is a general one, it makes of it what it says. -/
theorem applyVerdict_judged (keep : Option (Nat × Nat)) (hi : item? v i = some x) (ho : isOwn x = false) (hs : x.status = none)
    (hh : ¬ haltsVf f d) :
    Judged i x (fun y => keep = none ∨ d = .general → Verdictly m raw v d y) v (applyVerdict i f raw d m keep v) := by
  have hThen : ∀ {P Q : Item → Prop} {w}, Judged i x P v w → (∀ y, P y → Q y) → Judged i x Q v w :=
    fun h hPQ => ⟨h.1, h.2.mono hPQ⟩
  cases d with
  | failed st =>
    rw [applyVerdict_failed hh]
    exact hThen (finish_judged st hi ho hs) fun _ h _ => h
  | nop => exact hThen (finish_judged stSuccess hi ho hs) fun _ h _ => h
  | general => exact hThen (applyVerdict_general keep hi ho hs) fun _ h _ => h
  | axis r => exact ⟨rfl, x, hi, rfl, fun _ => hs⟩
  | per r =>
    cases hg : tfind v.sch.live r with
    | none =>
      exact hThen (bindPeriodic_unadmitted _ hi ho hs hg) fun _ _ _ g h => absurd (hg.symm.trans h) (by simp)
    | some g =>
      refine hThen (bindPeriodic_judged _ hi ho hs hg) fun y h hk g' hg' => ?_
      cases hg.symm.trans hg'
      rcases hk with rfl | hk
      · exact h
      · cases hk
  | evt r =>
    cases hg : tfind v.sch.live r with
    | none =>
      exact hThen (bindEvent_unadmitted _ hi ho hs hg) fun _ _ _ g h => absurd (hg.symm.trans h) (by simp)
    | some g => exact hThen (bindEvent_judged _ hi hs hg) fun y h _ _ _ => h

/-! ### An entry arrives (R271, R273) -/

/-- The slot that an entry takes. -/
def slotFor (cfg : U64) (d : Verdict) : Slot :=
  if cfgTimed cfg then (match d with | .per r | .evt r | .axis r => .timed r | _ => .check) else .work

/-- The flow that an entry joins. -/
def flowFor (raw : BitVec 256) (d : Verdict) : Option Flow := match d with | .nop => none | _ => some (flowOf raw)

/-- The item that an entry becomes. -/
def fetchedItem (f q : Nat) (raw : BitVec 256) (d : Verdict) (s : State) : Item :=
  { func := f, sq := q, index := nextIndex (sq s f q), raw := raw, slot := slotFor (sq s f q).cfg d
    level := cfgPrio (sq s f q).cfg
    port := match ctx? s (eHandleNum raw) (eEp raw) (eDirIn raw) with | some c => c.port | none => 0
    flow := flowFor raw d, flowSeq := s.front.nextFlowSeq, seen := seenOf (sq s f q)
    offer := (flowFor raw d).bind (affinityOf s) }

/-- The SQ that has had an entry fetched: one that was dropped, or the next. -/
def pastFetch (y : Sq) : Sq :=
  match y.inval with
  | _ :: rest => { y with inval := rest }
  | [] => { y with f := y.f + 1 }

/-- The state in which an entry has become an item, before its checks. -/
def acceptedIn (f q : Nat) (raw : BitVec 256) (d : Verdict) (s : State) : State :=
  flowIn (flowFor raw d) { modSq f q pastFetch s with
    front := { (modSq f q pastFetch s).front with
      items := tput s.front.items s.front.nextItem (fetchedItem f q raw d s), nextItem := s.front.nextItem + 1
      nextFlowSeq := s.front.nextFlowSeq + 1 } }

/-- The target kept from an earlier fetch. -/
def keptTarget (y : Sq) : Option (Nat × Nat) := match y.inval with | (_, k) :: _ => k | [] => none

/-- The state of an accepted entry behind its checks. -/
def judgedIn (f q : Nat) (raw : BitVec 256) (d : Verdict) (s : State) : State :=
  applyVerdict s.front.nextItem f raw d (seenOf (sq s f q)) (keptTarget (sq s f q)) (acceptedIn f q raw d s)

/-- The state behind an accepted entry. -/
def fetchedIn (f q : Nat) (raw : BitVec 256) (d : Verdict) (s : State) : State :=
  issueFetch f q (issueIndex s.front.nextItem (stopFetched s.front.nextItem f q (judgedIn f q raw d s)))

theorem fetchEntry_takes (hc : canFetch s f q = true) (hd : checkEntry s f q raw = d) (ht : takesSlot s f q d = true) :
    fetchEntry f q true raw s = fetchedIn f q raw d s := by
  unfold fetchEntry
  dsimp only
  rw [hc, hd, ht]
  rfl

theorem acceptedIn_rest : (acceptedIn f q raw d s).sch = s.sch ∧ (acceptedIn f q raw d s).tb = s.tb
    ∧ sq (acceptedIn f q raw d s) f q = pastFetch (sq s f q)
    ∧ item? (acceptedIn f q raw d s) s.front.nextItem = some (fetchedItem f q raw d s) := by
  obtain ⟨w, hw⟩ : ∃ w, w = ({ modSq f q pastFetch s with
    front := { (modSq f q pastFetch s).front with
      items := tput s.front.items s.front.nextItem (fetchedItem f q raw d s), nextItem := s.front.nextItem + 1
      nextFlowSeq := s.front.nextFlowSeq + 1 } } : State) := ⟨_, rfl⟩
  have hFns : (flowIn (flowFor raw d) w).fns = w.fns := flowIn_keeps (bl := .fns) _ (Keeps.refl .fns w) (by decide)
  have hFront : (flowIn (flowFor raw d) w).front = w.front := flowIn_keeps (bl := .front) _ (Keeps.refl .front w) (by decide)
  have hSch : (flowIn (flowFor raw d) w).sch = w.sch := flowIn_keeps (bl := .sch) _ (Keeps.refl .sch w) (by decide)
  have hTb : (flowIn (flowFor raw d) w).tb = w.tb := flowIn_keeps (bl := .tb) _ (Keeps.refl .tb w) (by decide)
  unfold acceptedIn
  rw [← hw]
  refine ⟨hSch.trans (hw ▸ rfl), hTb.trans (hw ▸ rfl), ?_, ?_⟩
  · refine (congrArg (fun z : Funcs => tget ({} : Sq) (tget (funcInit f) z.fn f).sq q) hFns).trans ?_
    show sq w f q = _
    rw [hw]
    exact (sq_modSq f q pastFetch s f q).trans (if_pos ⟨rfl, rfl⟩)
  · refine (congrArg (fun z : Front => tfind z.items s.front.nextItem) hFront).trans ?_
    rw [hw]
    exact tfind_tput_same _ _ _

theorem pastFetch_f (y : Sq) : (pastFetch y).f = if y.inval = [] then y.f + 1 else y.f := by
  unfold pastFetch
  cases y.inval <;> rfl

theorem pastFetch_stopped (y : Sq) : (pastFetch y).stopped = y.stopped := by
  unfold pastFetch
  cases y.inval <;> rfl

/-- Joining a flow leaves the halts of the endpoints. -/
theorem flowIn_halted (fl : Option Flow) (v : State) (num ep : Nat) (dirIn : Bool) :
    (ctx? (flowIn fl v) num ep dirIn).map Ctx.halted = (ctx? v num ep dirIn).map Ctx.halted := by
  cases fl with
  | none => rfl
  | some k =>
    refine (congrArg (Option.map Ctx.halted) (tfind_modCtx_all (flowKey k) (ctxKey num ep dirIn) _ v)).trans ?_
    split
    · next h =>
      rw [Option.map_map]
      exact congrArg (fun j => (tfind v.topo.ctx j).map Ctx.halted) h.symm
    · rfl

theorem generalStatus_of_halted (h : (ctx? w (eHandleNum raw) (eEp raw) (eDirIn raw)).map Ctx.halted
      = (ctx? v (eHandleNum raw) (eEp raw) (eDirIn raw)).map Ctx.halted) : generalStatus w raw = generalStatus v raw := by
  have hIs : ∀ u : State, generalStatus u raw = match (ctx? u (eHandleNum raw) (eEp raw) (eDirIn raw)).map Ctx.halted with
      | some b => if b then some stStall else none
      | none => none := fun u => by
    unfold generalStatus
    cases ctx? u (eHandleNum raw) (eEp raw) (eDirIn raw) <;> rfl
  rw [hIs, hIs, h]

/-- What the checks say of an item reads only what an entry that joins a flow leaves. -/
theorem verdictly_of (hs : w.sch = v.sch) (hc : generalStatus w raw = generalStatus v raw) (h : Verdictly m raw w d y) :
    Verdictly m raw v d y := by
  cases d with
  | failed st => exact h
  | nop => exact h
  | axis r => exact h
  | general => exact Eq.trans h hc
  | per r =>
    have hTarget : ∀ g, periodicTarget w r m g none = periodicTarget v r m g none := fun g => by
      unfold periodicTarget pstate
      rw [hs]
    intro g hg
    have hThen := h g (by rw [hs]; exact hg)
    rw [hTarget] at hThen
    exact hThen
  | evt r => exact fun g hg => h g (by rw [hs]; exact hg)

theorem stopFetched_running (h : f = 0 → (sq v f q).stopped = false) : stopFetched i f q v = v := by
  refine if_neg fun hStop => ?_
  obtain ⟨hf, hs⟩ := Bool.and_eq_true_iff.1 hStop
  exact absurd hs (ne_true_of_eq_false (h (beq_iff_eq.1 hf)))

/-- The QUEUE_STOP of the SQ waits for the item too. -/
def stopJoined (i q : Nat) (v : State) : State :=
  { v with front := { v.front with stops := v.front.stops.map fun e =>
    if e.2.2.1 == q then
      (e.1, e.2.1 ++ [i], q, e.2.2.2 + ofBool (match item? v i with | some x => x.status.isNone | none => false))
    else e } }

/-- What goes out behind an accepted entry leaves the items, the functions and the timebase. -/
theorem issued_same (f q i : Nat) (v : State) : (issueFetch f q (issueIndex i v)).front = v.front
    ∧ (issueFetch f q (issueIndex i v)).fns = v.fns ∧ (issueFetch f q (issueIndex i v)).tb = v.tb := by
  obtain ⟨hFront, hFns, hTb⟩ := issueFetch_same f q (issueIndex i v)
  obtain ⟨hFront', hFns', hTb'⟩ := issueIndex_same i v
  exact ⟨hFront.trans hFront', hFns.trans hFns', hTb.trans hTb'⟩

theorem sq_of_fns (h : w.fns = v.fns) (f q : Nat) : sq w f q = sq v f q :=
  congrArg (fun z : Funcs => tget ({} : Sq) (tget (funcInit f) z.fn f).sq q) h

end

/-! ### The obligation -/

section
variable {s : State} {f : FuncId} {q : Fin 4096} {raw : BitVec 256} {d : Verdict}

theorem exec_sqEntryFetched (ok : Bool) (hs : serves s = true) (hr : (sq s f.val q.val).reading = true) :
    exec (.sqEntryFetched f q ok raw) s = .next (fetchEntry f.val q.val ok raw s) :=
  runs_of_guard (o := execSqEntryFetched f q ok raw s) (s := s) (f := fetchEntry f.val q.val ok raw) rfl (by rw [hs, hr]; rfl)

theorem fetchEntry_paused {f q : Nat} (ok : Bool) (hc : canFetch s f q = false) : fetchEntry f q ok raw s = leaveUnread f q s := by
  unfold fetchEntry
  rw [hc]
  rfl

theorem fetchEntry_failed {f q : Nat} (hc : canFetch s f q = true) :
    fetchEntry f q false raw s = emit (.aer f) (leaveUnread f q s) := by
  unfold fetchEntry
  rw [hc]
  rfl

theorem fetchEntry_full {f q : Nat} (hc : canFetch s f q = true) (ht : takesSlot s f q (checkEntry s f q raw) = false) :
    fetchEntry f q true raw s = leaveUnread f q s := by
  unfold fetchEntry
  dsimp only
  rw [hc, ht]
  rfl

theorem judgedIn_judged {f q : Nat} (hh : ¬ haltsVf f d) : Judged s.front.nextItem (fetchedItem f q raw d s) (fun y =>
    keptTarget (sq s f q) = none ∨ d = .general → Verdictly (seenOf (sq s f q)) raw s d y)
    (acceptedIn f q raw d s) (judgedIn f q raw d s) := by
  obtain ⟨hSch, -, -, hItem⟩ := acceptedIn_rest (s := s) (f := f) (q := q) (raw := raw) (d := d)
  obtain ⟨hFns, hEntry⟩ := applyVerdict_judged (m := seenOf (sq s f q)) (raw := raw) (keptTarget (sq s f q)) hItem rfl rfl hh
  refine ⟨hFns, hEntry.mono fun y h hk => verdictly_of hSch (generalStatus_of_halted ?_) (h hk)⟩
  exact flowIn_halted _ _ _ _ _

theorem judgedIn_sq {f q : Nat} (hh : ¬ haltsVf f d) : sq (judgedIn f q raw d s) f q = pastFetch (sq s f q) := by
  obtain ⟨-, -, hSq, -⟩ := acceptedIn_rest (s := s) (f := f) (q := q) (raw := raw) (d := d)
  exact (sq_of_fns (judgedIn_judged hh).1 f q).trans hSq

/-- An axis-bound entry joins its unit behind the others. -/
theorem judgedIn_axis {f q r : Nat} : (cmpUnit (judgedIn f q raw (.axis r) s) (eUnit raw)).queue
    = (cmpUnit s (eUnit raw)).queue ++ [s.front.nextItem] := by
  obtain ⟨-, hTb, -, -⟩ := acceptedIn_rest (s := s) (f := f) (q := q) (raw := raw) (d := .axis r)
  refine (congrArg CmpUnit.queue ((cmpUnit_modUnit _ _ _ _).trans (if_pos rfl))).trans ?_
  exact congrArg (fun z : Timebase => (tget ({} : CmpUnit) z.cmp (eUnit raw)).queue ++ [s.front.nextItem]) hTb

theorem fetched_axis {r : Nat} (hs : f.val = 0 → (sq s f.val q.val).stopped = false) :
    (cmpUnit (fetchedIn f.val q.val raw (.axis r) s) (eUnit raw)).queue = (cmpUnit s (eUnit raw)).queue ++ [s.front.nextItem] := by
  unfold fetchedIn
  rw [stopFetched_running fun hf => by rw [judgedIn_sq (fun h => Verdict.noConfusion h.2), pastFetch_stopped]; exact hs hf]
  exact (congrArg (fun z : Timebase => (tget ({} : CmpUnit) z.cmp (eUnit raw)).queue) (issued_same _ _ _ _).2.2).trans judgedIn_axis

/-- A bad entry of a VF halts it. -/
theorem fetched_halts (hf : f.val ≠ 0) : (fn (fetchedIn f.val q.val raw (.failed stMalformed) s) f.val).halted = true := by
  unfold fetchedIn
  rw [stopFetched_running fun h => absurd h hf]
  refine (congrArg (fun z : Funcs => (tget (funcInit f.val) z.fn f.val).halted) (issued_same _ _ _ _).2.1).trans ?_
  unfold judgedIn applyVerdict
  dsimp only
  rw [if_pos (by rw [bne_iff_ne.2 hf]; rfl)]
  exact haltFunc_halts f.val 1 f.isLt _

theorem fetched_sq (hh : ¬ haltsVf f.val d) :
    sq (fetchedIn f.val q.val raw d s) f.val q.val = pastFetch (sq s f.val q.val) := by
  have hStop : (stopFetched s.front.nextItem f.val q.val (judgedIn f.val q.val raw d s)).fns = (judgedIn f.val q.val raw d s).fns :=
    stopFetched_keeps (bl := .fns) _ _ _ (Keeps.refl .fns _) (by decide)
  exact (sq_of_fns ((issued_same _ _ _ _).2.1.trans hStop) _ _).trans (judgedIn_sq hh)

/-- An entry that a refetch brings into a stopped SQ of PF0 has ended, or ends with its transaction. -/
theorem fetched_stopped (hf : f.val = 0) (hh : ¬ haltsVf f.val d) (hs : (sq s f.val q.val).stopped = true) :
    EntryIs s.front.nextItem (fetchedItem f.val q.val raw d s) (fun y => y.status ≠ none ∨ y.stopAs = some stAbortedReset)
      (fetchedIn f.val q.val raw d s) := by
  obtain ⟨y, hy, hSame, -⟩ := (judgedIn_judged (s := s) (q := q.val) (raw := raw) hh).2
  have hStops : (f.val == 0 && (sq (judgedIn f.val q.val raw d s) f.val q.val).stopped) = true := by
    rw [judgedIn_sq hh, pastFetch_stopped, hs, hf]
    rfl
  refine EntryIs.of_front ?_ (issued_same _ _ _ _).1
  have hItem : item? (stopJoined s.front.nextItem q.val (judgedIn f.val q.val raw d s)) s.front.nextItem = some y := hy
  obtain ⟨z, hz, hSame', hEnds⟩ := stopItem_entry stAbortedReset hItem hSame.own
  have hStop : stopFetched s.front.nextItem f.val q.val (judgedIn f.val q.val raw d s)
      = stopItem stAbortedReset s.front.nextItem (stopJoined s.front.nextItem q.val (judgedIn f.val q.val raw d s)) := if_pos hStops
  exact ⟨z, hStop ▸ hz, hSame.trans hSame', hEnds⟩

/-- An entry that no QUEUE_STOP ends is what its checks make of it. -/
theorem fetched_running (hh : ¬ haltsVf f.val d) (hk : (sq s f.val q.val).inval = [] ∨ d = .general)
    (hs : f.val = 0 → (sq s f.val q.val).stopped = false) :
    EntryIs s.front.nextItem (fetchedItem f.val q.val raw d s)
      (Verdictly (seenOf (sq s f.val q.val)) raw s d)
      (fetchedIn f.val q.val raw d s) := by
  unfold fetchedIn
  rw [stopFetched_running fun hf => by rw [judgedIn_sq hh, pastFetch_stopped]; exact hs hf]
  refine EntryIs.of_front ?_ (issued_same _ _ _ _).1
  refine (judgedIn_judged hh).2.mono fun y h => h (hk.imp_left fun hNone => ?_)
  unfold keptTarget
  rw [hNone]

end

/-- Settles O49: an accepted entry becomes an item (`acceptedIn_rest`), its checks make of it what `applyVerdict_judged` says, and what goes out behind it changes no item.. -/
theorem fetch : Obligations.Fetch := by
  intro s f q raw hs hr
  refine ⟨fun hc ok => ?_, fun hc => ?_, fun hc ht => ?_, fun hc ht => ?_⟩
  · rw [exec_sqEntryFetched ok hs hr, fetchEntry_paused ok hc]
    rfl
  · rw [exec_sqEntryFetched false hs hr, fetchEntry_failed hc]
    rfl
  · rw [exec_sqEntryFetched true hs hr, fetchEntry_full hc ht]
    rfl
  · obtain ⟨d, hd⟩ : ∃ d, checkEntry s f.val q.val raw = d := ⟨_, rfl⟩
    dsimp only at ht ⊢
    rw [hd] at ht ⊢
    refine ⟨_, (exec_sqEntryFetched true hs hr).trans (congrArg _ (fetchEntry_takes hc hd ht)), fun hf hBad => ?_, fun hGood => ?_⟩
    · rw [show d = .failed stMalformed from hBad]
      exact fetched_halts hf
    · have hh : ¬ haltsVf f.val d := fun h => hGood.elim h.1 fun hNot => hNot h.2
      refine ⟨(congrArg Sq.f (fetched_sq hh)).trans (pastFetch_f _), fun hf hStop => ?_, fun hk hRun => ?_⟩
      · obtain ⟨y, hy, hSame, hEnds⟩ := fetched_stopped (q := q) (raw := raw) hf hh hStop
        exact ⟨y, hy, hSame.names, hEnds⟩
      · obtain ⟨y, hy, hSame, hIs⟩ := fetched_running (raw := raw) hh hk hRun
        refine ⟨y, hy, hSame.names, ?_⟩
        cases d with
        | failed st => exact hIs
        | nop => exact hIs
        | general => exact ⟨hSame.slot, hIs⟩
        | per r => exact fun g hg => ⟨hSame.slot, hIs g hg⟩
        | evt r => exact hIs
        | axis r =>
          exact ⟨hIs, fetched_axis hRun⟩

end Sys2Proof.Machine
end


section
/-! PROOFS. The release of completions, and the stop and start of queues (R264, R275 to R285, R292, R293). -/

namespace Sys2Proof.Machine

section
variable {s t u v w : State} {i f q r n : Nat} {x : Item} {rec : WaitRec} {idx : U16}

/-! ### What the release reads -/

theorem flowOut_rest (fl : Option Flow) (v : State) : (flowOut fl v).fns = v.fns ∧ (flowOut fl v).front = v.front
    ∧ (flowOut fl v).sch = v.sch ∧ (flowOut fl v).out = v.out :=
  ⟨flowOut_keeps (bl := .fns) fl (Keeps.refl .fns v) (by decide), flowOut_keeps (bl := .front) fl (Keeps.refl .front v) (by decide),
    flowOut_keeps (bl := .sch) fl (Keeps.refl .sch v) (by decide), flowOut_keeps (bl := .out) fl (Keeps.refl .out v) (by decide)⟩

theorem fn_of_fns (h : w.fns = v.fns) (f : Nat) : fn w f = fn v f := congrArg (fun z : Funcs => tget (funcInit f) z.fn f) h

theorem cr_of_fns (h : w.fns = v.fns) (f r : Nat) : cr w f r = cr v f r :=
  congrArg (fun z : Funcs => tget ({} : Cr) (tget (funcInit f) z.fn f).cr r) h

theorem recordOf_of (h : w.fns = v.fns) (i : Nat) (x : Item) : recordOf w i x = recordOf v i x := by
  unfold recordOf
  rw [sq_of_fns h]

theorem sqCr_of (h : w.fns = v.fns) (f q : Nat) : sqCr w f q = sqCr v f q := congrArg (fun y : Sq => cfgCr y.cfg) (sq_of_fns h f q)

/-- The completion of an entry goes into its ring at once. -/
def writesNow (v : State) (f r : Nat) : Bool := (cr v f r).waiting.isEmpty && crRoom (cr v f r) && (fn v f).bme

/-- The record into which a completion of function `f` may be spilled. -/
def spillRecord (v : State) (f : Nat) (timed : Bool) : Option Nat :=
  if (fn v f).bme && spillAllowed v f timed then spillFree (fn v f) else none

theorem spillRecord_of (hF : SameFuncs v w) (hS : w.sch = v.sch) (f : Nat) (timed : Bool) :
    spillRecord w f timed = spillRecord v f timed := by
  have hBme : (fn w f).bme = (fn v f).bme := hF.proj Func.bme (fun _ _ => rfl) f
  have hFree : spillFree (fn w f) = spillFree (fn v f) := hF.proj spillFree (fun _ _ => rfl) f
  have hEntries : (fn w f).spillEntries = (fn v f).spillEntries := hF.proj Func.spillEntries (fun _ _ => rfl) f
  have hDepth : (fn w f).spillDepth = (fn v f).spillDepth := hF.proj Func.spillDepth (fun _ _ => rfl) f
  have hSpilled : (fn w f).spilled = (fn v f).spilled := hF.proj Func.spilled (fun _ _ => rfl) f
  have hRate : sumRate w f = sumRate v f := by
    unfold sumRate charged
    rw [hS]
  have hAllowed : spillAllowed w f timed = spillAllowed v f timed := by
    unfold spillAllowed
    dsimp only
    rw [hDepth, hEntries, hSpilled, hRate]
  unfold spillRecord
  rw [hBme, hFree, hAllowed]

/-! ### The three ways of a completion (R275, R282, R283) -/

/-- A completion with no room in its ring has raised the spill event, where it is the first. -/
def spillNoted (f r : Nat) (v : State) : State := if (cr v f r).waiting.isEmpty then raiseQ f 1 v else v

theorem spillNoted_same (f r : Nat) (v : State) : SameFuncs v (spillNoted f r v) ∧ (spillNoted f r v).front = v.front
    ∧ (spillNoted f r v).sch = v.sch := by
  obtain ⟨hF, -, hFront, hSch⟩ := raiseQ_same f 1 v
  unfold spillNoted
  split
  · exact ⟨hF, hFront, hSch⟩
  · exact ⟨sameFuncs_refl _, rfl, rfl⟩

/-- The state in which a completion has been spilled into the record `n`. -/
def spilledIn (f r n : Nat) (rec : WaitRec) (q : Nat) (v : State) : State :=
  modCr f r (fun y => { y with waiting := y.waiting ++ [{ rec with record := some n, head := sqHead v f q, item := none }] })
    (modFn f (fun y => { y with spilled := y.spilled ++ [n] })
      (hostWrite f ((fn v f).spillBase.toNat + 16 * n)
        (completionBytes { rec with record := some n, head := sqHead v f q } false false (sqHead v f q)) v))

theorem crPut_ring (hi : rec.item = some i) (hf : (fn v f).flrBusy = false) (hr : writesNow v f r = true) :
    crPut f r rec q (some idx) v
      = delItem (crWrite f r rec false (sqHead (retireIndex f q idx v) f q) (retireIndex f q idx v)) i := by
  unfold writesNow at hr
  unfold crPut
  dsimp only
  rw [hf, if_neg Bool.false_ne_true, if_pos hr, hi]
  rfl

/-- A completion that finds no room is spilled, or held. -/
theorem crPut_full (hf : (fn v f).flrBusy = false) (hr : writesNow v f r = false) :
    crPut f r rec q (some idx) v = match spillRecord v f rec.timed with
      | some n =>
        let u := spilledIn f r n rec q (retireIndex f q idx (spillNoted f r v))
        match rec.item with | some i => delItem u i | none => u
      | none =>
        let u := modCr f r (fun y => { y with waiting := y.waiting ++ [rec] }) (spillNoted f r v)
        let u := match rec.item with | some i => modItem i (fun y => { y with held := true }) u | none => u
        if rec.timed then enterSpillHalt f r u else u := by
  obtain ⟨hF, -, hSch⟩ := spillNoted_same f r v
  have hRec : spillRecord (spillNoted f r v) f rec.timed = spillRecord v f rec.timed := spillRecord_of hF hSch f rec.timed
  unfold writesNow at hr
  unfold crPut
  dsimp only
  rw [hf, if_neg Bool.false_ne_true, if_neg (ne_true_of_eq_false hr), ← hRec]
  unfold spillRecord
  rfl

theorem retireIndex_cr (f q : Nat) (idx : U16) (v : State) (k r : Nat) : cr (retireIndex f q idx v) k r = cr v k r := by
  refine (congrArg (fun y : Func => tget ({} : Cr) y.cr r) (fn_modFn _ _ _ _)).trans ?_
  split
  · next h => rw [h]; rfl
  · rfl

theorem retireIndex_spill (f q : Nat) (idx : U16) (v : State) :
    (fn (retireIndex f q idx v) f).spillBase = (fn v f).spillBase ∧ (retireIndex f q idx v).front = v.front := by
  refine ⟨?_, rfl⟩
  unfold retireIndex modSq
  rw [fn_modFn, if_pos rfl]

/-- A completion with room is written, with the head that its SQ then has. -/
theorem crPut_written (hi : rec.item = some i) (hf : (fn v f).flrBusy = false) (hr : writesNow v f r = true) :
    item? (crPut f r rec q (some idx) v) i = none ∧ (cr (crPut f r rec q (some idx) v) f r).p = (cr v f r).p + 1
    ∧ (cr (crPut f r rec q (some idx) v) f r).c = (cr v f r).c
    ∧ Output.hostWrite f ((cr v f r).base.toNat + 16 * ((cr v f r).p.toNat % cfgSize (cr v f r).cfg))
        (completionBytes rec (crPhase (cr v f r)) false (sq (crPut f r rec q (some idx) v) f q).c)
      ∈ (crPut f r rec q (some idx) v).out := by
  rw [crPut_ring hi hf hr]
  obtain ⟨w, hw⟩ : ∃ w, w = retireIndex f q idx v := ⟨_, rfl⟩
  have hCr : cr w f r = cr v f r := hw ▸ retireIndex_cr f q idx v f r
  rw [← hw]
  obtain ⟨-, hOut, hRing, hSq, -⟩ := crWrite_does f r rec false (sqHead w f q) w
  have hHead : (sq (delItem (crWrite f r rec false (sqHead w f q) w) i) f q).c = sqHead w f q :=
    congrArg (fun l => (tget ({} : Sq) l q).c) (hSq f)
  have hRing' : cr (delItem (crWrite f r rec false (sqHead w f q) w) i) f r = { cr v f r with p := (cr v f r).p + 1 } :=
    hRing.trans (by rw [hCr])
  refine ⟨(item_delItem _ _ _).trans (if_pos rfl), (congrArg Cr.p hRing' :), (congrArg Cr.c hRing' :), ?_⟩
  rw [hHead]
  rw [hCr] at hOut
  exact hOut

/-- A spilled completion stands in its record of host memory. -/
theorem spilledIn_does (f r n : Nat) (rec : WaitRec) (q : Nat) (v : State) :
    n ∈ (fn (spilledIn f r n rec q v) f).spilled ∧ Output.hostWrite f ((fn v f).spillBase.toNat + 16 * n)
      (completionBytes rec false false (sq (spilledIn f r n rec q v) f q).c) ∈ (spilledIn f r n rec q v).out := by
  obtain ⟨A, hA⟩ : ∃ A, A = (fn v f).spillBase.toNat + 16 * n := ⟨_, rfl⟩
  obtain ⟨D, hD⟩ : ∃ D, D = completionBytes rec false false (sqHead v f q) := ⟨_, rfl⟩
  have hNe : D ≠ [] := by
    rw [hD]
    unfold completionBytes
    simp [natLE]
  obtain ⟨w, hw⟩ : ∃ w, w = hostWrite f A D v := ⟨_, rfl⟩
  have hOut : Output.hostWrite f A D ∈ w.out := hw ▸ hostWrite_mem f A D v hNe
  have hSqs : (fn w f).sq = (fn v f).sq := hw ▸ hostWrite_proj Func.sq (fun _ _ _ => rfl) f A D v f
  have hIs : spilledIn f r n rec q v = modCr f r (fun y => { y with
      waiting := y.waiting ++ [{ rec with record := some n, head := sqHead v f q, item := none }] })
      (modFn f (fun y => { y with spilled := y.spilled ++ [n] }) w) := by
    rw [hw, hA, hD]
    rfl
  have hFn : fn (spilledIn f r n rec q v) f = { fn w f with
      spilled := (fn w f).spilled ++ [n]
      cr := tput (fn w f).cr r { tget ({} : Cr) (fn w f).cr r with
        waiting := (tget ({} : Cr) (fn w f).cr r).waiting ++ [{ rec with record := some n, head := sqHead v f q, item := none }] } } := by
    rw [hIs]
    unfold modCr
    rw [fn_modFn, if_pos rfl, fn_modFn, if_pos rfl]
  have hHead : (sq (spilledIn f r n rec q v) f q).c = sqHead v f q := by
    unfold sq
    rw [hFn]
    exact congrArg (fun l => (tget ({} : Sq) l q).c) hSqs
  refine ⟨?_, ?_⟩
  · rw [hFn]
    exact List.mem_append_right _ List.mem_cons_self
  · rw [hHead, ← hA, ← hD, hIs]
    exact hOut

theorem crPut_spilled (hi : rec.item = some i) (hf : (fn v f).flrBusy = false) (hr : writesNow v f r = false)
    (hn : spillRecord v f rec.timed = some n) : item? (crPut f r rec q (some idx) v) i = none
    ∧ n ∈ (fn (crPut f r rec q (some idx) v) f).spilled
    ∧ Output.hostWrite f ((fn v f).spillBase.toNat + 16 * n)
        (completionBytes rec false false (sq (crPut f r rec q (some idx) v) f q).c) ∈ (crPut f r rec q (some idx) v).out := by
  have hPut : crPut f r rec q (some idx) v = delItem (spilledIn f r n rec q (retireIndex f q idx (spillNoted f r v))) i := by
    rw [crPut_full hf hr, hn, hi]
  have hBase : (fn (retireIndex f q idx (spillNoted f r v)) f).spillBase = (fn v f).spillBase :=
    (retireIndex_spill f q idx _).1.trans ((spillNoted_same f r v).1.proj Func.spillBase (fun _ _ => rfl) f)
  obtain ⟨hRecord, hOut⟩ := spilledIn_does f r n rec q (retireIndex f q idx (spillNoted f r v))
  rw [hPut]
  rw [hBase] at hOut
  exact ⟨(item_delItem _ _ _).trans (if_pos rfl), hRecord, hOut⟩

theorem crPut_held (hi : rec.item = some i) (hx : item? v i = some x) (hf : (fn v f).flrBusy = false) (hr : writesNow v f r = false)
    (hn : spillRecord v f rec.timed = none) (ht : rec.timed = false) :
    item? (crPut f r rec q (some idx) v) i = some { x with held := true }
    ∧ (cr (crPut f r rec q (some idx) v) f r).waiting = (cr v f r).waiting ++ [rec] := by
  have hPut : crPut f r rec q (some idx) v = modItem i (fun y => { y with held := true })
      (modCr f r (fun y => { y with waiting := y.waiting ++ [rec] }) (spillNoted f r v)) := by
    rw [crPut_full hf hr, hn, hi, ht]
    rfl
  obtain ⟨hF, hFront, -⟩ := spillNoted_same f r v
  have hCr : cr (spillNoted f r v) f r = cr v f r := hF.proj (fun y => tget ({} : Cr) y.cr r) (fun _ _ => rfl) f
  have hItem : item? (modCr f r (fun y => { y with waiting := y.waiting ++ [rec] }) (spillNoted f r v)) i = some x :=
    (congrArg (fun z : Front => tfind z.items i) hFront).trans hx
  rw [hPut]
  refine ⟨(item_modItem _ _ _ _).trans ((if_pos rfl).trans (congrArg _ hItem)), ?_⟩
  rw [cr_of_fns (modItem_keeps (bl := .fns) i _ (Keeps.refl .fns _) (by decide)), cr_modCr, if_pos ⟨rfl, rfl⟩, hCr]

/-! ### The release (R225, R264, R300) -/

theorem exec_completionRelease (hl : live s = true) : exec (.completionRelease i) s = .next (sweepHandles (releaseItem i s)) :=
  runs_of_guard (o := execCompletionRelease i s) (s := s) (f := fun s => sweepHandles (releaseItem i s)) rfl hl

theorem releaseItem_absent (hi : item? s i = none) : releaseItem i s = s := by
  unfold releaseItem
  rw [hi]

theorem releaseItem_waits (hi : item? s i = some x) (hr : releasable s i x = false) : releaseItem i s = s := by
  unfold releaseItem
  rw [hi]
  dsimp only
  rw [hr, if_neg Bool.false_ne_true]

theorem releaseItem_posted (hi : item? s i = some x) (hr : releasable s i x = true) (hp : x.posted ≠ none) :
    releaseItem i s = postRequests (answerWaiters (delItem (flowOut x.flow s) i)) := by
  unfold releaseItem
  rw [hi]
  dsimp only
  rw [if_pos hr, if_pos (Option.isSome_iff_ne_none.2 hp)]
  rfl

theorem releaseItem_entry (hi : item? s i = some x) (hr : releasable s i x = true) (hp : x.posted = none) :
    releaseItem i s = postRequests (answerWaiters
      (crPut x.func (sqCr s x.func x.sq) (recordOf s i x) x.sq (some x.index) (flowOut x.flow s))) := by
  obtain ⟨hFns, -, -, -⟩ := flowOut_rest x.flow s
  unfold releaseItem
  rw [hi]
  dsimp only
  rw [if_pos hr, hp, if_neg (by decide), recordOf_of hFns, sqCr_of hFns]

theorem release_entry (hl : live s = true) (hi : item? s i = some x) (hr : releasable s i x = true) (hp : x.posted = none)
    (hf : (fn s x.func).flrBusy = false) : ∃ u, exec (.completionRelease i) s = .next (sweepHandles (postRequests (answerWaiters u)))
      ∧ (writesNow s x.func (sqCr s x.func x.sq) = true → item? u i = none
        ∧ (cr u x.func (sqCr s x.func x.sq)).p = (cr s x.func (sqCr s x.func x.sq)).p + 1
        ∧ (cr u x.func (sqCr s x.func x.sq)).c = (cr s x.func (sqCr s x.func x.sq)).c
        ∧ Output.hostWrite x.func ((cr s x.func (sqCr s x.func x.sq)).base.toNat
            + 16 * ((cr s x.func (sqCr s x.func x.sq)).p.toNat % cfgSize (cr s x.func (sqCr s x.func x.sq)).cfg))
          (completionBytes (recordOf s i x) (crPhase (cr s x.func (sqCr s x.func x.sq))) false (sq u x.func x.sq).c) ∈ u.out)
      ∧ (writesNow s x.func (sqCr s x.func x.sq) = false → ∀ n, spillRecord s x.func (recordOf s i x).timed = some n →
        item? u i = none ∧ n ∈ (fn u x.func).spilled
        ∧ Output.hostWrite x.func ((fn s x.func).spillBase.toNat + 16 * n)
          (completionBytes (recordOf s i x) false false (sq u x.func x.sq).c) ∈ u.out)
      ∧ (writesNow s x.func (sqCr s x.func x.sq) = false → spillRecord s x.func (recordOf s i x).timed = none →
        (recordOf s i x).timed = false → item? u i = some { x with held := true }
        ∧ (cr u x.func (sqCr s x.func x.sq)).waiting = (cr s x.func (sqCr s x.func x.sq)).waiting ++ [recordOf s i x]) := by
  obtain ⟨hFns, hFront, hSch, -⟩ := flowOut_rest x.flow s
  obtain ⟨v, hv⟩ : ∃ v, v = flowOut x.flow s := ⟨_, rfl⟩
  rw [← hv] at hFns hFront hSch
  have hItem : item? v i = some x := (congrArg (fun z : Front => tfind z.items i) hFront).trans hi
  have hCr : cr v x.func (sqCr s x.func x.sq) = cr s x.func (sqCr s x.func x.sq) := cr_of_fns hFns _ _
  have hFn : fn v x.func = fn s x.func := fn_of_fns hFns _
  have hBusy : (fn v x.func).flrBusy = false := by rw [hFn, hf]
  have hNow : writesNow v x.func (sqCr s x.func x.sq) = writesNow s x.func (sqCr s x.func x.sq) := by
    unfold writesNow
    rw [hCr, hFn]
  have hRec : ∀ b, spillRecord v x.func b = spillRecord s x.func b := fun b =>
    spillRecord_of (fun g => by rw [fn_of_fns hFns]) hSch x.func b
  refine ⟨crPut x.func (sqCr s x.func x.sq) (recordOf s i x) x.sq (some x.index) v,
    (exec_completionRelease hl).trans (by rw [releaseItem_entry hi hr hp, hv]), fun hRoom => ?_, fun hFull n hn => ?_,
    fun hFull hNone ht => ?_⟩
  · have hDone := crPut_written (q := x.sq) (idx := x.index) (rec := recordOf s i x) rfl hBusy (hNow.trans hRoom)
    rw [hCr] at hDone
    exact hDone
  · have hDone := crPut_spilled (q := x.sq) (idx := x.index) (rec := recordOf s i x) rfl hBusy (hNow.trans hFull) ((hRec _).trans hn)
    rw [hFn] at hDone
    exact hDone
  · have hDone := crPut_held (q := x.sq) (idx := x.index) (rec := recordOf s i x) rfl hItem hBusy (hNow.trans hFull)
      ((hRec _).trans hNone) ht
    rw [hCr] at hDone
    exact hDone

/-! ### Commands that are refused (R292) -/

/-- What the statement says of a refused queue command. -/
def QueueRefused (ctx : CmdCtx) (c : Instr) (code res : Nat) (s : State) : Prop :=
  ∃ t, exec c s = .next t ∧ Answered ctx code (BitVec.ofNat 8 res :: zeros 15) s t ∧ t.front = s.front

/-- The state in which a refused queue command has been answered. -/
def queueRefusal (ctx : CmdCtx) (code res : Nat) (s : State) : State :=
  reply ctx code (BitVec.ofNat 8 res :: zeros 15) (begun ctx code s)

variable {ctx : CmdCtx} {k : U16}

theorem queueRefused_of {c : Instr} {code res : Nat} (h : exec c s = .next (queueRefusal ctx code res s)) :
    QueueRefused ctx c code res s :=
  ⟨_, h, (answered_at_once ctx code _ s).1, reply_front ctx code _ _⟩

theorem exec_queueStop (hl : live s = true) : exec (.queueStop ctx k) s = .next (queueStopCmd ctx k.toNat s) :=
  runs_of_guard (o := execQueueStop ctx k s) (s := s) (f := queueStopCmd ctx k.toNat) rfl hl

theorem exec_queueStart (hl : live s = true) : exec (.queueStart ctx k) s = .next (queueStartCmd ctx k.toNat s) :=
  runs_of_guard (o := execQueueStart ctx k s) (s := s) (f := queueStartCmd ctx k.toNat) rfl hl

/-- The open entries of an SQ of PF0. -/
def openEntries (s : State) (q : Nat) : List Nat :=
  itemsWhere s fun x => x.func == 0 && x.sq == q && x.posted.isNone && x.status.isNone

/-- The state in which a QUEUE_STOP has ended the open entries, and waits for them. -/
def queueStopping (ctx : CmdCtx) (q : Nat) (s : State) : State :=
  let w := each (openEntries s q) (stopItem stAbortedReset) (modSq 0 q (fun y => { y with stopped := true }) (begun ctx 0x60 s))
  { w with front := { w.front with stops := w.front.stops ++ [(ctx, openEntries s q, q, (openEntries s q).length)] } }

/-- The state in which a QUEUE_START has set the front end reading. -/
def queueStarting (ctx : CmdCtx) (q : Nat) (s : State) : State :=
  startReading 0 q (absUframe s) (modSq 0 q (fun y => { y with stopped := false, seenAt := [] }) (begun ctx 0x61 s))

theorem queueStopCmd_eq (ctx : CmdCtx) (q : Nat) (s : State) : queueStopCmd ctx q s =
    if sender ctx.chan ≠ 0 then queueRefusal ctx 0x60 4 s
    else if sqLive s 0 q = false then queueRefusal ctx 0x60 1 s
    else if (sq s 0 q).stopped = true then queueRefusal ctx 0x60 2 s
    else answerWaiters (queueStopping ctx q s) := by
  unfold queueStopCmd
  dsimp only
  rw [show sqLive (begun ctx 0x60 s) 0 q = sqLive s 0 q from rfl, show sq (begun ctx 0x60 s) 0 q = sq s 0 q from rfl]
  simp only [bne_iff_ne, Bool.not_eq_true']
  rfl

theorem queueStartCmd_eq (ctx : CmdCtx) (q : Nat) (s : State) : queueStartCmd ctx q s =
    if sender ctx.chan ≠ 0 then queueRefusal ctx 0x61 4 s
    else if sqLive s 0 q = false then queueRefusal ctx 0x61 1 s
    else if (sq s 0 q).stopped = false then queueRefusal ctx 0x61 3 s
    else reply ctx 0x61 (queueReply (queueStarting ctx q s) 0 0 q) (queueStarting ctx q s) := by
  unfold queueStartCmd
  dsimp only
  rw [show sqLive (begun ctx 0x61 s) 0 q = sqLive s 0 q from rfl, show sq (begun ctx 0x61 s) 0 q = sq s 0 q from rfl]
  simp only [bne_iff_ne, Bool.not_eq_true']
  rfl

/-! ### QUEUE_START (R292) -/

/-- What the front end's reading of an SQ leaves of a function: all that its SQs do not show in. -/
theorem modSq_proj {α : Type} (π : Func → α) (hπ : ∀ x l, π { x with sq := l } = π x) (f q : Nat) (g : Sq → Sq) (v : State) (h : Nat) :
    π (fn (modSq f q g v) h) = π (fn v h) := by
  unfold modSq
  rw [fn_modFn]
  split
  · next hh => rw [hh, hπ]
  · rfl

theorem startReading_rest (f q m : Nat) (v : State) : (∀ g, (fn (startReading f q m v) g).bme = (fn v g).bme)
    ∧ (startReading f q m v).mail = v.mail ∧ (sq (startReading f q m v) f q).stopped = (sq v f q).stopped := by
  have hBme : ∀ g h, (fn (modSq f q g v) h).bme = (fn v h).bme := fun g => modSq_proj Func.bme (fun _ _ => rfl) f q g v
  have hStopped : ∀ g : Sq → Sq, (∀ y, (g y).stopped = y.stopped) → (sq (modSq f q g v) f q).stopped = (sq v f q).stopped :=
    fun g hg => (congrArg Sq.stopped ((sq_modSq f q g v f q).trans (if_pos ⟨rfl, rfl⟩))).trans (hg _)
  refine ⟨?_, startReading_keeps (bl := .mail) f q m (Keeps.refl .mail v) (by decide), ?_⟩
  · cases hm : ((sq v f q).f != (sq v f q).p || !(sq v f q).inval.isEmpty) with
    | false => rw [startReading_idle hm]; exact fun _ => rfl
    | true =>
      cases hc : canFetch v f q with
      | false => rw [startReading_waits hm hc]; exact hBme _
      | true => rw [startReading_reads hm hc]; exact hBme (readingFrom m)
  · cases hm : ((sq v f q).f != (sq v f q).p || !(sq v f q).inval.isEmpty) with
    | false => rw [startReading_idle hm]
    | true =>
      cases hc : canFetch v f q with
      | false => rw [startReading_waits hm hc]; exact hStopped _ fun _ => rfl
      | true => rw [startReading_reads hm hc]; exact hStopped (readingFrom m) fun _ => rfl

theorem queueStarting_does (ctx : CmdCtx) (q : Nat) (s : State) :
    let t := reply ctx 0x61 (queueReply (queueStarting ctx q s) 0 0 q) (queueStarting ctx q s)
    (sq t 0 q).stopped = false ∧ (sq t 0 q).f = (sq s 0 q).f ∧ (sq t 0 q).c = (sq s 0 q).c
      ∧ Answered ctx 0x61 (queueReply t 0 0 q) s t := by
  obtain ⟨w, hw⟩ : ∃ w, w = modSq 0 q (fun y => { y with stopped := false, seenAt := [] }) (begun ctx 0x61 s) := ⟨_, rfl⟩
  have hStart : queueStarting ctx q s = startReading 0 q (absUframe s) w := by
    rw [hw]
    rfl
  have hW : sq w 0 q = { sq s 0 q with stopped := false, seenAt := [] } :=
    hw ▸ (sq_modSq 0 q _ (begun ctx 0x61 s) 0 q).trans (if_pos ⟨rfl, rfl⟩)
  have hWBme : ∀ g, (fn w g).bme = (fn s g).bme := hw ▸ modSq_proj Func.bme (fun _ _ => rfl) 0 q _ (begun ctx 0x61 s)
  have hWMail : w.mail = (begun ctx 0x61 s).mail := hw ▸ rfl
  obtain ⟨hBme, hMail, hStopped⟩ := startReading_rest 0 q (absUframe s) w
  obtain ⟨-, -, -, hC, hF⟩ := startReading_same 0 q (absUframe s) w
  rw [hStart]
  obtain ⟨v, hv⟩ : ∃ v, v = startReading 0 q (absUframe s) w := ⟨_, rfl⟩
  rw [← hv] at hBme hMail hStopped hC hF ⊢
  intro t
  have hSq : sq t 0 q = sq v 0 q :=
    reply_proj (fun y => tget ({} : Sq) y.sq q) (fun _ _ _ => rfl) (fun _ _ => rfl) ctx 0x61 _ v 0
  have hReply : queueReply t 0 0 q = queueReply v 0 0 q := by
    unfold queueReply
    rw [hSq]
  refine ⟨?_, ?_, ?_, ?_⟩
  · rw [hSq, hStopped, hW]
  · rw [hSq, hF, hW]
  · rw [hSq, hC, hW]
  · rw [hReply]
    exact answered_from (reply_answered ctx 0x61 _ v) (fun g => (hBme g).trans (hWBme g))
      (by rw [hMail, hWMail]; exact begun_bufs ctx 0x61 s)

/-! ### QUEUE_STOP (R292) -/

/-- The item of an open entry, which nothing but a QUEUE_STOP has ended. -/
def Stoppable (i : Nat) (v : State) : Prop :=
  ∃ y, item? v i = some y ∧ isOwn y = false ∧ (y.status = none ∨ y.status = some stAbortedReset)

/-- The item has ended ABORTED_RESET, or ends so with its transaction. -/
def StopsSo (i : Nat) (v : State) : Prop :=
  ∃ y, item? v i = some y ∧ isOwn y = false ∧ (y.status = some stAbortedReset ∨ (y.status = none ∧ y.stopAs = some stAbortedReset))

theorem StopsSo.stoppable (h : StopsSo i v) : Stoppable i v := by
  obtain ⟨y, hy, ho, hEnds⟩ := h
  exact ⟨y, hy, ho, hEnds.elim Or.inr fun h => Or.inl h.1⟩

theorem stopItem_stops (h : Stoppable i v) : StopsSo i (stopItem stAbortedReset i v) := by
  obtain ⟨y, hy, ho, hs⟩ := h
  unfold stopItem
  split
  · refine ⟨_, (item_modItem i i _ v).trans ((if_pos rfl).trans (congrArg _ hy)), ?_⟩
    dsimp only
    rcases hs with hs | hs
    · rw [if_neg (by simp [hs])]
      exact ⟨ho, Or.inr ⟨hs, rfl⟩⟩
    · rw [if_pos (by simp [hs])]
      exact ⟨ho, Or.inl hs⟩
  · rw [finish_eq i _ hy]
    split
    · next hEnded =>
      refine ⟨y, hy, ho, hs.elim (fun hNone => ?_) Or.inl⟩
      rw [hNone] at hEnded
      exact absurd hEnded (by simp)
    · rw [ho, if_neg Bool.false_ne_true]
      exact ⟨_, (item_modItem i i _ (placedIn i stAbortedReset y v)).trans
        ((if_pos rfl).trans (congrArg _ ((item_setItem _ _ _ _).trans (if_pos rfl)))), ho, Or.inl rfl⟩

theorem stopItem_keeps_stops {j : Nat} (h : StopsSo i v) : StopsSo i (stopItem stAbortedReset j v) := by
  by_cases hj : i = j
  · exact hj ▸ stopItem_stops h.stoppable
  · obtain ⟨y, hy, hRest⟩ := h
    exact ⟨y, (stopItem_others _ _ _ _ hj).trans hy, hRest⟩

theorem stopItem_keeps_stoppable {j : Nat} (h : Stoppable i v) : Stoppable i (stopItem stAbortedReset j v) := by
  by_cases hj : i = j
  · exact hj ▸ (stopItem_stops h).stoppable
  · obtain ⟨y, hy, hRest⟩ := h
    exact ⟨y, (stopItem_others _ _ _ _ hj).trans hy, hRest⟩

theorem stopAll_stops (l : List Nat) (hi : i ∈ l) (h : Stoppable i v) : StopsSo i (each l (stopItem stAbortedReset) v) := by
  induction l generalizing v with
  | nil => cases hi
  | cons j l ih =>
    rw [each_cons]
    rcases List.mem_cons.1 hi with rfl | hi
    · exact each_preserves (StopsSo i) l _ (fun _ _ _ => stopItem_keeps_stops) _ (stopItem_stops h)
    · exact ih hi (stopItem_keeps_stoppable h)

/-- Ending an item leaves the commands that wait for items. -/
theorem clearedIn_waiters (i : Nat) (st : Byte) (x : Item) (v : State) : (clearedIn i st x v).front.stops = v.front.stops := by
  have hMod : ∀ (g : Item → Item) (w : State), (modItem i g w).front.stops = w.front.stops := fun g w => by
    unfold modItem
    split <;> rfl
  unfold clearedIn
  split
  · exact hMod _ (placedIn i st x v)
  · rfl

theorem stopItem_waiters (st : Byte) (j : Nat) (v : State) : (stopItem st j v).front.stops = v.front.stops := by
  unfold stopItem
  split
  · unfold modItem
    split <;> rfl
  · cases hj : item? v j with
    | none =>
      unfold finish
      rw [hj]
    | some y =>
      rw [finish_eq j st hj]
      split
      · rfl
      · split
        · exact (congrArg Front.stops (flowOut_rest y.flow (clearedIn j st y v)).2.1).trans (clearedIn_waiters j st y v)
        · exact clearedIn_waiters j st y v

theorem queueStopping_does (ctx : CmdCtx) (q : Nat) (s : State) : (sq (queueStopping ctx q s) 0 q).stopped = true
    ∧ (queueStopping ctx q s).front.stops = s.front.stops ++ [(ctx, openEntries s q, q, (openEntries s q).length)]
    ∧ ∀ i ∈ openEntries s q, ∀ x, item? s i = some x → isOwn x = false → x.status = none →
      ∃ y, item? (queueStopping ctx q s) i = some y
        ∧ (y.status = some stAbortedReset ∨ (y.status = none ∧ y.stopAs = some stAbortedReset)) := by
  obtain ⟨w, hw⟩ : ∃ w, w = modSq 0 q (fun y => { y with stopped := true }) (begun ctx 0x60 s) := ⟨_, rfl⟩
  have hIs : queueStopping ctx q s = { each (openEntries s q) (stopItem stAbortedReset) w with
      front := { (each (openEntries s q) (stopItem stAbortedReset) w).front with
        stops := (each (openEntries s q) (stopItem stAbortedReset) w).front.stops
          ++ [(ctx, openEntries s q, q, (openEntries s q).length)] } } := by
    rw [hw]
    rfl
  have hStopped : (sq w 0 q).stopped = true := by rw [hw, sq_modSq, if_pos ⟨rfl, rfl⟩]
  have hItems : ∀ i, item? w i = item? s i := fun i => hw ▸ rfl
  have hWaiters : w.front.stops = s.front.stops := hw ▸ rfl
  rw [hIs]
  refine ⟨?_, ?_, fun i hi x hx ho hs => ?_⟩
  · refine (congrArg Sq.stopped (?_ : _ = sq w 0 q)).trans hStopped
    exact sq_of_fns (stopAll_fns _ _ w) 0 q
  · show (each (openEntries s q) (stopItem stAbortedReset) w).front.stops ++ _ = _
    rw [each_unchanged (fun v : State => v.front.stops) _ _ (fun j _ v => stopItem_waiters stAbortedReset j v) w, hWaiters]
  · obtain ⟨y, hy, -, hEnds⟩ := stopAll_stops (openEntries s q) hi ⟨x, (hItems i).trans hx, ho, Or.inl hs⟩
    exact ⟨y, hy, hEnds⟩

/-! ### The obligation -/

theorem queueCommands_does (hl : live s = true) (ctx : CmdCtx) (k : U16) :
    (sender ctx.chan ≠ 0 → QueueRefused ctx (.queueStop ctx k) 0x60 4 s ∧ QueueRefused ctx (.queueStart ctx k) 0x61 4 s)
    ∧ (sender ctx.chan = 0 → sqLive s 0 k.toNat = false →
      QueueRefused ctx (.queueStop ctx k) 0x60 1 s ∧ QueueRefused ctx (.queueStart ctx k) 0x61 1 s)
    ∧ (sender ctx.chan = 0 → sqLive s 0 k.toNat = true → (sq s 0 k.toNat).stopped = true →
      QueueRefused ctx (.queueStop ctx k) 0x60 2 s ∧ exec (.queueStart ctx k) s
        = .next (reply ctx 0x61 (queueReply (queueStarting ctx k.toNat s) 0 0 k.toNat) (queueStarting ctx k.toNat s)))
    ∧ (sender ctx.chan = 0 → sqLive s 0 k.toNat = true → (sq s 0 k.toNat).stopped = false →
      QueueRefused ctx (.queueStart ctx k) 0x61 3 s
        ∧ exec (.queueStop ctx k) s = .next (answerWaiters (queueStopping ctx k.toNat s))) := by
  have hStop := (exec_queueStop (ctx := ctx) (k := k) hl).trans (congrArg _ (queueStopCmd_eq ctx k.toNat s))
  have hStart := (exec_queueStart (ctx := ctx) (k := k) hl).trans (congrArg _ (queueStartCmd_eq ctx k.toNat s))
  refine ⟨fun hc => ?_, fun hc hq => ?_, fun hc hq hs => ?_, fun hc hq hs => ?_⟩
  · rw [if_pos hc] at hStop hStart
    exact ⟨queueRefused_of hStop, queueRefused_of hStart⟩
  · rw [if_neg (not_not.2 hc), if_pos hq] at hStop hStart
    exact ⟨queueRefused_of hStop, queueRefused_of hStart⟩
  · rw [if_neg (not_not.2 hc), if_neg (ne_false_of_eq_true hq), if_pos hs] at hStop
    rw [if_neg (not_not.2 hc), if_neg (ne_false_of_eq_true hq), if_neg (ne_false_of_eq_true hs)] at hStart
    exact ⟨queueRefused_of hStop, hStart⟩
  · rw [if_neg (not_not.2 hc), if_neg (ne_false_of_eq_true hq), if_neg (ne_true_of_eq_false hs)] at hStop
    rw [if_neg (not_not.2 hc), if_neg (ne_false_of_eq_true hq), if_pos hs] at hStart
    exact ⟨queueRefused_of hStart, hStop⟩

end

/-- Settles O50: a completion's three ways are `crPut_written`, `crPut_spilled` and `crPut_held`; a QUEUE_STOP by induction over the open entries.. -/
theorem completions : Obligations.Completions := by
  intro s hl
  refine ⟨fun i => ⟨fun hi => ?_, fun x hi => ⟨fun hr => ?_, fun hr hp => ?_, fun hr hp hf => ?_⟩⟩, fun ctx k => ?_⟩
  · rw [exec_completionRelease hl, releaseItem_absent hi]
  · rw [exec_completionRelease hl, releaseItem_waits hi hr]
  · rw [exec_completionRelease hl, releaseItem_posted hi hr hp]
  · exact release_entry hl hi hr hp hf
  · obtain ⟨hVf, hGone, hStopped, hRuns⟩ := queueCommands_does hl ctx k
    refine ⟨hVf, hGone, fun hc hq hs => ⟨(hStopped hc hq hs).1, _, (hStopped hc hq hs).2, queueStarting_does ctx k.toNat s⟩,
      fun hc hq hs => ⟨(hRuns hc hq hs).1, _, (hRuns hc hq hs).2, queueStopping_does ctx k.toNat s⟩⟩

end Sys2Proof.Machine
end


section
/-! PROOFS. Read completions and drains of the DMA engine: where the staged bytes come to lie, and what goes on behind them
(R299, R300, R308 to R310). -/

namespace Sys2Proof.Machine

section
variable {s t u v : State} {i n key : Nat} {x y : Item} {m : Memory}

/-! ### Bytes stored at given places -/

/-- The bytes are stored, byte `k` of them at `place k`; they are counted from `start`. -/
def storeAt (place : Nat → Nat) (start : Nat) (l : List Byte) (m : Memory) : Memory :=
  (l.zipIdx start).foldl (fun m e => mput m (place e.2) e.1) m

theorem mget_storeAt_other (place : Nat → Nat) (start j : Nat) (l : List Byte) (m : Memory)
    (h : ∀ k, start ≤ k → k < start + l.length → place k ≠ j) : mget (storeAt place start l m) j = mget m j := by
  induction l generalizing start m with
  | nil => rfl
  | cons b l ih =>
    rw [List.length_cons] at h
    refine (ih (start + 1) (mput m (place start) b) fun k hk hk' => h k (by omega) (by omega)).trans ?_
    rw [mget_mput, if_neg (h start (by omega) (by omega)).symm]

/-- Places that differ hold what was stored at each. -/
theorem mget_storeAt (place : Nat → Nat) (start : Nat) (l : List Byte) (m : Memory)
    (hInj : ∀ j k, start ≤ j → j < start + l.length → start ≤ k → k < start + l.length → place j = place k → j = k)
    (k : Nat) (hk : k < l.length) : mget (storeAt place start l m) (place (start + k)) = l[k] := by
  induction l generalizing start m k with
  | nil => cases hk
  | cons b l ih =>
    rw [List.length_cons] at hInj
    cases k with
    | zero =>
      refine (mget_storeAt_other place (start + 1) (place start) l (mput m (place start) b) fun j hj hj' h => ?_).trans ?_
      · have := hInj j start (by omega) (by omega) (by omega) (by omega) h
        omega
      · rw [mget_mput, if_pos rfl]
        rfl
    | succ k =>
      rw [show start + (k + 1) = start + 1 + k by omega]
      exact ih (start + 1) (mput m (place start) b)
        (fun a c ha ha' hc hc' => hInj a c (by omega) (by omega) (by omega) (by omega)) k (Nat.lt_of_succ_lt_succ hk)

/-! ### Where staged bytes lie (R308 to R310) -/

theorem add_mod_inj {a b c p : Nat} (ha : a < p) (hb : b < p) (h : (c + a) % p = (c + b) % p) : a = b :=
  Nat.ModEq.eq_of_lt_of_lt (Nat.ModEq.add_left_cancel' c h) ha hb

/-- The pages of a ring are different ones, so its places are. -/
theorem stageAddr_inj {pages : List Nat} (offset pos : Nat) (hd : pages.Nodup) {j k : Nat} (hj : j < pages.length * 4096)
    (hk : k < pages.length * 4096) (h : stageAddr pages offset (pos + j) = stageAddr pages offset (pos + k)) : j = k := by
  have hPos : 0 < pages.length * 4096 := by omega
  obtain ⟨a, ha⟩ : ∃ a, a = (offset + (pos + j)) % (pages.length * 4096) := ⟨_, rfl⟩
  obtain ⟨b, hb⟩ : ∃ b, b = (offset + (pos + k)) % (pages.length * 4096) := ⟨_, rfl⟩
  have hA : a < pages.length * 4096 := ha ▸ Nat.mod_lt _ hPos
  have hB : b < pages.length * 4096 := hb ▸ Nat.mod_lt _ hPos
  unfold stageAddr at h
  dsimp only at h
  rw [← ha, ← hb] at h
  have hPage : pages.getD (a / 4096) 0 = pages.getD (b / 4096) 0 := by omega
  have hRest : a % 4096 = b % 4096 := by omega
  have hAt : a / 4096 < pages.length := by omega
  have hBt : b / 4096 < pages.length := by omega
  rw [List.getD_eq_getElem _ _ hAt, List.getD_eq_getElem _ _ hBt] at hPage
  have hIndex : a / 4096 = b / 4096 := hd.getElem_inj_iff.1 hPage
  refine add_mod_inj (c := offset + pos) hj hk ?_
  rw [Nat.add_assoc, Nat.add_assoc, ← ha, ← hb]
  omega

/-- Staging an item leaves all but the DMA engine's memory. -/
theorem stageWrite_rest (x : Item) (pos : Nat) (l : List Byte) (v : State) : (stageWrite x pos l v).front = v.front
    ∧ (stageWrite x pos l v).out = v.out
    ∧ ∀ k, { chan (stageWrite x pos l v) k with hold := [] } = { chan v k with hold := [] } := by
  unfold stageWrite
  split
  · refine ⟨rfl, rfl, fun k => ?_⟩
    rw [chan_modChan]
    split
    · next h => rw [h]
    · rfl
  · exact ⟨rfl, rfl, fun _ => rfl⟩

/-- What has been staged in the holding buffer of the context is read there again. -/
theorem stageRead_held (pos : Nat) (l : List Byte) (hp : x.pages = []) (hn : l.length ≤ 1024) :
    stageRead (stageWrite x pos l v) x pos l.length = l := by
  have hWrite : stageWrite x pos l v = modChan (itemChan x) (fun c => { c with
      hold := storeAt (fun k => (pos + k) % 1024) 0 l c.hold }) v := by
    unfold stageWrite
    rw [hp]
    rfl
  have hHold : (chan (stageWrite x pos l v) (itemChan x)).hold = storeAt (fun k => (pos + k) % 1024) 0 l (chan v (itemChan x)).hold := by
    rw [hWrite, chan_modChan, if_pos rfl]
  unfold stageRead
  refine List.ext_getElem (by simp) fun k hk hk' => ?_
  rw [List.getElem_map, List.getElem_range, if_pos (by rw [hp]; rfl), hHold]
  have hAt := mget_storeAt (fun k => (pos + k) % 1024) 0 l (chan v (itemChan x)).hold (fun a b _ ha _ hb h => by omega) k hk'
  rw [Nat.zero_add] at hAt
  exact hAt

/-- What has been staged in a ring of pages is read there again. -/
theorem stageRead_paged (pos : Nat) (l : List Byte) (hp : x.pages ≠ []) (hd : x.pages.Nodup) (hn : l.length ≤ x.pages.length * 4096) :
    stageRead (stageWrite x pos l v) x pos l.length = l := by
  have hSome : ¬ x.pages.isEmpty = true := fun h => hp (List.isEmpty_iff.1 h)
  have hBuf : (stageWrite x pos l v).dma.buf = storeAt (fun k => stageAddr x.pages x.offset (pos + k)) 0 l v.dma.buf := by
    unfold stageWrite
    rw [if_neg hSome]
    rfl
  unfold stageRead
  refine List.ext_getElem (by simp) fun k hk hk' => ?_
  rw [List.getElem_map, List.getElem_range, if_neg hSome, hBuf]
  have hAt := mget_storeAt (fun k => stageAddr x.pages x.offset (pos + k)) 0 l v.dma.buf (fun a b _ ha _ hb h =>
    stageAddr_inj x.offset pos hd (by omega) (by omega) h) k hk'
  rw [Nat.zero_add] at hAt
  exact hAt

/-! ### Read completions (R299) -/

/-- The context whose read has come. -/
def readOver (key : Nat) (v : State) : State :=
  modChan key (fun c => { c with reading := none, stale := false, state := if c.work == .none_ then .idle else .armed }) v

/-- The state in which what a read brought has been staged. -/
def readStaged (i key n : Nat) (x : Item) (l : List Byte) (v : State) : State :=
  modItem i (fun y => { y with staged := y.staged + n }) (stageWrite x x.staged l (readOver key v))

variable {ok : Bool} {l : List Byte}

theorem readDone_none (h : (chan s key).reading = none) : readDone key ok l s = s := by
  unfold readDone
  rw [h]

theorem readDone_some (h : (chan s key).reading = some (i, n)) (hi : item? s i = some x) : readDone key ok l s =
    if (chan s key).stale || x.status.isSome then readOver key s
    else if !ok || l.length != n then finish i stUnderrun (readOver key s) else readStaged i key n x l s := by
  have hItem : item? (readOver key s) i = some x := hi
  unfold readDone
  rw [h]
  dsimp only
  rw [show modChan key _ s = readOver key s from rfl, hItem]
  rfl

theorem readStaged_does (hi : item? s i = some x) (hl : l.length = n) :
    item? (readStaged i key n x l s) i = some { x with staged := x.staged + n } ∧ (chan (readStaged i key n x l s) key).reading = none
    ∧ OtherItems i s (readStaged i key n x l s) ∧ (readStaged i key n x l s).out = s.out
    ∧ (x.pages = [] → n ≤ 1024 → stageRead (readStaged i key n x l s) x x.staged n = l)
    ∧ (x.pages ≠ [] → x.pages.Nodup → n ≤ x.pages.length * 4096 → stageRead (readStaged i key n x l s) x x.staged n = l) := by
  subst hl
  obtain ⟨w, hw⟩ : ∃ w, w = stageWrite x x.staged l (readOver key s) := ⟨_, rfl⟩
  obtain ⟨hFront, hOut, hChan⟩ := stageWrite_rest x x.staged l (readOver key s)
  rw [← hw] at hFront hOut hChan
  have hItems : ∀ k, item? w k = item? s k := fun k => congrArg (fun z : Front => tfind z.items k) hFront
  have hDma : ∀ g, (modItem i g w).dma = w.dma := fun g => modItem_keeps (bl := .dma) i g (Keeps.refl .dma w) (by decide)
  have hRead : ∀ g pos k, stageRead (modItem i g w) x pos k = stageRead w x pos k := fun g pos k => by
    unfold stageRead chan
    rw [hDma]
  have hReading : (chan w key).reading = none := by
    refine Eq.trans (congrArg ChCtx.reading (hChan key) :) ?_
    unfold readOver
    rw [chan_modChan, if_pos rfl]
  unfold readStaged
  rw [← hw]
  refine ⟨(item_modItem _ _ _ _).trans ((if_pos rfl).trans (congrArg _ ((hItems i).trans hi))), ?_,
    fun j hj => ((item_modItem _ _ _ _).trans (if_neg hj)).trans (hItems j), ?_, fun hp hn => ?_, fun hp hd hn => ?_⟩
  · refine Eq.trans ?_ hReading
    unfold chan
    rw [hDma]
  · exact (show (modItem i _ w).out = w.out from modItem_keeps (bl := .out) i _ (Keeps.refl .out w) (by decide)).trans hOut
  · rw [hRead, hw]
    exact stageRead_held x.staged l hp hn
  · rw [hRead, hw]
    exact stageRead_paged x.staged l hp hd hn

end

/-! ### The commands -/

section
variable {s : State} {ch : Fin 144} {timed ok : Bool} {l : List Byte} {i n : Nat} {x : Item}

theorem exec_dmaReadCompletion (hl : live s = true) :
    exec (.dmaReadCompletion ch timed ok l) s = .next (lanesOn (readDone (ctxOf ch.val timed) ok l s)) :=
  runs_of_guard (o := execDmaReadCompletion ch timed ok l s) (s := s) (f := fun s => lanesOn (readDone (ctxOf ch.val timed) ok l s)) rfl hl

/-- What the statement says of a read completion. -/
theorem readCompletion_does (hl : live s = true) :
    ((chan s (ctxOf ch.val timed)).reading = none → exec (.dmaReadCompletion ch timed ok l) s = .next (lanesOn s))
    ∧ ∀ i n x, (chan s (ctxOf ch.val timed)).reading = some (i, n) → item? s i = some x →
      ((chan s (ctxOf ch.val timed)).stale = true ∨ x.status ≠ none →
        exec (.dmaReadCompletion ch timed ok l) s = .next (lanesOn (readOver (ctxOf ch.val timed) s)))
      ∧ ((ok = false ∨ l.length ≠ n) → isOwn x = false → (chan s (ctxOf ch.val timed)).stale = false → x.status = none →
        ∃ t, exec (.dmaReadCompletion ch timed ok l) s = .next (lanesOn t)
          ∧ Completed i x 0x0F (readOver (ctxOf ch.val timed) s) t)
      ∧ (ok = true → l.length = n → (chan s (ctxOf ch.val timed)).stale = false → x.status = none →
        exec (.dmaReadCompletion ch timed ok l) s = .next (lanesOn (readStaged i (ctxOf ch.val timed) n x l s))) := by
  have hRun := exec_dmaReadCompletion (ch := ch) (timed := timed) (ok := ok) (l := l) hl
  refine ⟨fun h => ?_, fun i n x h hi => ?_⟩
  · rw [hRun, readDone_none h]
  · rw [readDone_some h hi] at hRun
    refine ⟨fun hOld => ?_, fun hBad ho hOld hs => ?_, fun hok hn hOld hs => ?_⟩
    · have hGone : ((chan s (ctxOf ch.val timed)).stale || x.status.isSome) = true := by
        rw [Bool.or_eq_true, Option.isSome_iff_ne_none]
        exact hOld
      rw [hRun, if_pos hGone]
    · have hFails : (!ok || l.length != n) = true := by
        rw [Bool.or_eq_true, Bool.not_eq_true', bne_iff_ne]
        exact hBad
      rw [hOld, hs, if_neg (by decide), if_pos hFails] at hRun
      exact ⟨_, hRun, finish_completed (s := readOver (ctxOf ch.val timed) s) hi ho (Or.inl hs) _⟩
    · have hGood : (!ok || l.length != n) = false := by
        rw [hok, hn, bne_self_eq_false]
        rfl
      rw [hRun, hOld, hs, hGood]
      rfl

/-! ### Drains (R300, R310) -/

/-- A thread that waits in DRN for the context goes on. -/
def pastDrain (key : Nat) (r : Thread) : Thread :=
  if r.wait == .drn && r.armed == some key then advance { r with wait := .running } else r

/-- The state in which the threads that wait for the context have gone on. -/
def drainPassed (key : Nat) (s : State) : State :=
  { s with eng := { s.eng with eng := s.eng.eng.map fun e => (e.1, { e.2 with run := e.2.run.map (pastDrain key) }) } }

theorem drained_eq (key : Nat) (s : State) : drained key s =
    if armedOver s key then modChan key (fun c => { c with state := .idle, work := .none_ }) (drainPassed key s)
    else drainPassed key s := rfl

theorem drained_eng (key : Nat) (s : State) (e : Nat) :
    eng (drained key s) e = { eng s e with run := (eng s e).run.map (pastDrain key) } := by
  have hEng : (drained key s).eng = (drainPassed key s).eng := by
    rw [drained_eq]
    split <;> rfl
  unfold eng
  rw [hEng]
  exact tget_map ({} : Engine) (fun a : Engine => { a with run := a.run.map (pastDrain key) }) rfl s.eng.eng e

theorem drained_chan (key : Nat) (s : State) (k : Nat) : chan (drained key s) k
    = if k = key ∧ armedOver s key = true then { chan s k with state := .idle, work := .none_ } else chan s k := by
  rw [drained_eq]
  by_cases ha : armedOver s key = true
  · rw [if_pos ha, chan_modChan]
    by_cases hk : k = key
    · rw [if_pos hk, if_pos ⟨hk, ha⟩, hk]
      rfl
    · rw [if_neg hk, if_neg fun h => hk h.1]
      rfl
  · rw [if_neg ha, if_neg fun h => ha h.2]
    rfl

theorem exec_drainComplete (hl : live s = true) (hd : chanDrained s (ctxOf ch.val timed) = true) :
    exec (.drainComplete ch timed) s = .next (drained (ctxOf ch.val timed) s) :=
  runs_of_guard (o := execDrainComplete ch timed s) (s := s) (f := drained (ctxOf ch.val timed)) rfl (by rw [hl, hd]; rfl)

end
end Sys2Proof.Machine
end


section
/-! PROOFS. Requests of the DMA engine: which burst is served, and what it moves (R297, R301 to R305, R315, R514). -/

namespace Sys2Proof.Machine

section
variable {s t u v w : State} {i n k m key cut a e b : Nat} {x y z : Item} {rest : List (Nat × Nat)}

/-! ### Items that end (R315) -/

/-- An item that ends keeps its staged ranges, or loses them with its status. -/
theorem finish_ends_item (st : Byte) (hi : item? v i = some x) (ho : isOwn x = false) (hs : x.status = none) :
    (∃ y, item? (finish i st v) i = some y ∧ y.status = some st ∧ (x.segs = [] → y.segs = []))
      ∧ OtherItems i v (finish i st v) ∧ (finish i st v).out = v.out := by
  obtain ⟨-, hOthers, -, -, hOut, -, -⟩ := finish_completed hi ho (Or.inl hs) st
  refine ⟨?_, hOthers, hOut⟩
  rw [finish_eq i st hi, if_neg (by simp [hs]), ho, if_neg Bool.false_ne_true]
  have hPlaced := (item_setItem v i i { x with
    status := some st, awaitFin := false, stamp := if x.begun then x.stamp else nowStamp v x, wireDone := true, stopAs := none }).trans
    (if_pos rfl)
  unfold clearedIn
  split
  · exact ⟨_, (item_modItem i i _ (placedIn i st x v)).trans ((if_pos rfl).trans (congrArg _ hPlaced)), rfl, fun _ => rfl⟩
  · exact ⟨_, hPlaced, rfl, id⟩

/-- A transfer that loses its staged data ends with the status of R315. -/
theorem lostEnd_ends (hi : item? v i = some x) (ho : isOwn x = false) (hs : x.status = none) :
    (∃ y, item? (lostEnd i v) i = some y ∧ y.status = some (lostStatus x) ∧ y.segs = []) ∧ OtherItems i v (lostEnd i v)
      ∧ (lostEnd i v).out = v.out := by
  obtain ⟨w, hw⟩ : ∃ w, w = modItem i (fun y => { y with segs := [], ended := true }) v := ⟨_, rfl⟩
  have hEnd : lostEnd i v = finish i (lostStatus x) w := by
    unfold lostEnd
    rw [hi, hw]
  have hItem : item? w i = some { x with segs := [], ended := true } :=
    hw ▸ (item_modItem i i _ v).trans ((if_pos rfl).trans (congrArg _ hi))
  obtain ⟨⟨y, hy, hSt, hSegs⟩, hOthers, hOut⟩ := finish_ends_item (lostStatus x) hItem ho hs
  rw [hEnd]
  refine ⟨⟨y, hy, hSt, hSegs rfl⟩, fun j hj => (hOthers j hj).trans ?_, hOut.trans ?_⟩
  · rw [hw, item_modItem, if_neg hj]
  · rw [hw]
    exact modItem_keeps (bl := .out) i _ (Keeps.refl .out v) (by decide)

/-- What the statement says of a transfer that a malformed table ends. -/
def Malformed (i : Nat) (x : Item) (t : State) : Prop :=
  (x.func = 0 → isOwn x = false → ∃ y, item? t i = some y ∧ y.status = some stMalformed)
    ∧ (x.func ≠ 0 → x.func < 128 → (fn t x.func).halted = true)

theorem idxMalformed_ends (hi : item? v i = some z) (ho : isOwn z = isOwn x) (hs : z.status = none) :
    Malformed i x (idxMalformed i x v) := by
  have hItem : item? (modItem i (fun y => { y with ended := true }) v) i = some { z with ended := true } :=
    (item_modItem i i _ v).trans ((if_pos rfl).trans (congrArg _ hi))
  unfold idxMalformed
  dsimp only
  refine ⟨fun hf hOwn => ?_, fun hf hLt => ?_⟩
  · rw [hf, if_neg (by decide)]
    obtain ⟨⟨y, hy, hSt, -⟩, -, -⟩ := finish_ends_item stMalformed hItem (ho.trans hOwn) hs
    exact ⟨y, hy, hSt⟩
  · rw [if_pos (bne_iff_ne.2 hf)]
    exact haltFunc_halts x.func 1 hLt _

/-! ### The burst that is served (R301, R302) -/

/-- The class that is served: TIMED while a context of it may move. -/
def servedTimed (s : State) : Bool := !(movable s true).isEmpty

/-- The state in which channel `ch` has been served. -/
def turnTaken (ch : Nat) (s : State) : State :=
  { s with
    dma := { s.dma with lastServed := tput s.dma.lastServed (if servedTimed s then 0 else 2) ch }
    pwr := { s.pwr with moved := true } }

theorem dmaServe_none (h : nextBurst s (servedTimed s) = none) : dmaServe cut s = s := by
  unfold dmaServe
  dsimp only
  rw [show nextBurst s (!(movable s true).isEmpty) = none from h]

theorem dmaServe_some {ch : Nat} (h : nextBurst s (servedTimed s) = some (ch, i)) (hi : item? s i = some x) : dmaServe cut s =
    if eDataIn x.raw then burstIn (ctxOf ch (servedTimed s)) cut i x (turnTaken ch s)
    else burstOut (ctxOf ch (servedTimed s)) cut i x (turnTaken ch s) := by
  have hItem : item? (turnTaken ch s) i = some x := hi
  unfold dmaServe
  dsimp only
  rw [show nextBurst s (!(movable s true).isEmpty) = some (ch, i) from h]
  dsimp only
  rw [show item? { s with
    dma := { s.dma with lastServed := tput s.dma.lastServed (if !(movable s true).isEmpty then 0 else 2) ch }
    pwr := { s.pwr with moved := true } } i = some x from hItem]
  rfl

theorem exec_dmaRequest (hs : serves s = true) : exec (.dmaRequest cut) s = .next (lanesOn (dmaServe cut s)) :=
  runs_of_guard (o := execDmaRequest cut s) (s := s) (f := fun s => lanesOn (dmaServe cut s)) rfl hs

theorem ctxOf_timed (ch : Nat) (timed : Bool) : (ctxOf ch timed % 2 == 1) = timed := by
  unfold ctxOf
  cases timed
  · exact beq_false_of_ne (by simp [ofBool])
  · exact beq_iff_eq.2 (by simp [ofBool])

/-! ### IN bursts (R297, R302, R315, R514) -/

section
variable (hSegs : x.segs = (k, m) :: rest)
include hSegs

theorem burstIn_barred (hb : (fn v x.func).bme = false) : burstIn key cut i x v = lostEnd i v := by
  unfold burstIn
  rw [hSegs]
  dsimp only
  rw [hb]
  rfl

theorem burstIn_malformed (hb : (fn v x.func).bme = true) (hSpot : hostSpot x k = none) (hBad : atBad x k = true) :
    burstIn key cut i x v = idxMalformed i x v := by
  unfold burstIn
  rw [hSegs]
  dsimp only
  rw [hb, hSpot]
  dsimp only
  rw [hBad]
  rfl

/-- The bytes that a burst moves which starts where `k` lies. -/
theorem burstIn_moves (hb : (fn v x.func).bme = true) (hSpot : hostSpot x k = some (a, e)) : burstIn key cut i x v =
    match firstBad v x k (movedBytes (key % 2 == 1) cut a (burstLen v x k m)) with
    | some b => loseData i (modItem i (fun y => { y with drained := y.drained + (b - min b ((a + b) % 64)) })
        (hostWrite x.func a (stageRead v x k (b - min b ((a + b) % 64))) v))
    | none => afterBurst key (movedBytes (key % 2 == 1) cut a (burstLen v x k m)) (burstLen v x k m)
        (modItem i (fun y => { y with
          segs := takeSegs (movedBytes (key % 2 == 1) cut a (burstLen v x k m)) y.segs
          drained := y.drained + movedBytes (key % 2 == 1) cut a (burstLen v x k m) })
          (hostWrite x.func a (stageRead v x k (movedBytes (key % 2 == 1) cut a (burstLen v x k m))) v)) := by
  unfold burstIn
  rw [hSegs]
  dsimp only
  rw [hb, hSpot]
  rfl

end

theorem item_hostWrite (f a : Nat) (l : List Byte) (v : State) (j : Nat) : item? (hostWrite f a l v) j = item? v j :=
  congrArg (fun z : Front => tfind z.items j) (hostWrite_keeps (bl := .front) f a l (Keeps.refl .front v) (by decide))

/-- A whole or cut burst goes to the host, and is taken from what is staged. -/
theorem burst_sent (len : Nat) (hi : item? v i = some x) (hn : 0 < n) :
    let t := afterBurst key n len (modItem i (fun y => { y with segs := takeSegs n y.segs, drained := y.drained + n })
      (hostWrite x.func a (stageRead v x k n) v))
    Output.hostWrite x.func a (stageRead v x k n) ∈ t.out
      ∧ (chan t key).state = (if n < len then .preempted else if (chan v key).state == .preempted then .armed else (chan v key).state)
      ∧ item? t i = some { x with segs := takeSegs n x.segs, drained := x.drained + n } ∧ OtherItems i v t := by
  obtain ⟨l, hl⟩ : ∃ l, l = stageRead v x k n := ⟨_, rfl⟩
  have hNe : l ≠ [] := fun h => by
    have hLen : l.length = n := by
      rw [hl]
      unfold stageRead
      simp
    rw [h] at hLen
    exact absurd hLen (by simp; omega)
  obtain ⟨w, hw⟩ : ∃ w, w = hostWrite x.func a l v := ⟨_, rfl⟩
  have hOut : Output.hostWrite x.func a l ∈ w.out := hw ▸ hostWrite_mem _ _ _ _ hNe
  have hItems : ∀ j, item? w j = item? v j := hw ▸ item_hostWrite _ _ _ _
  have hDma : w.dma = v.dma := hw ▸ hostWrite_keeps (bl := .dma) x.func a l (Keeps.refl .dma v) (by decide)
  rw [← hl, ← hw]
  intro t
  have hKept : ∀ g, (modItem i g w).out = w.out ∧ (modItem i g w).dma = w.dma := fun g =>
    ⟨modItem_keeps (bl := .out) i g (Keeps.refl .out w) (by decide), modItem_keeps (bl := .dma) i g (Keeps.refl .dma w) (by decide)⟩
  refine ⟨(show t.out = w.out from (hKept _).1) ▸ hOut, ?_, ?_, fun j hj => ?_⟩
  · have hChan : chan (modItem i (fun y => { y with segs := takeSegs n y.segs, drained := y.drained + n }) w) key = chan v key := by
      unfold chan
      rw [(hKept _).2, hDma]
    show (chan (modChan key _ (modItem i _ w)) key).state = _
    rw [chan_modChan, if_pos rfl, hChan]
  · exact (item_modItem i i _ w).trans ((if_pos rfl).trans (congrArg _ ((hItems i).trans hi)))
  · exact ((item_modItem i j _ w).trans (if_neg hj)).trans (hItems j)

/-- A burst that meets a word that cannot be corrected ends the transfer, and raises the DMA engine's event. -/
theorem burst_lost (keep : Nat) (l : List Byte) (hi : item? v i = some x) (ho : isOwn x = false) (hs : x.status = none) :
    let t := loseData i (modItem i (fun y => { y with drained := y.drained + keep }) (hostWrite x.func a l v))
    bit (evtWord t 147) 1 = true ∧ (∃ y, item? t i = some y ∧ y.status = some (lostStatus x) ∧ y.segs = []) ∧ OtherItems i v t := by
  obtain ⟨w, hw⟩ : ∃ w, w = modItem i (fun y => { y with drained := y.drained + keep }) (hostWrite x.func a l v) := ⟨_, rfl⟩
  have hItem : item? w i = some { x with drained := x.drained + keep } :=
    hw ▸ (item_modItem i i _ _).trans ((if_pos rfl).trans (congrArg _ ((item_hostWrite _ _ _ _ _).trans hi)))
  have hOther : ∀ j, j ≠ i → item? w j = item? v j := fun j hj =>
    hw ▸ ((item_modItem i j _ _).trans (if_neg hj)).trans (item_hostWrite _ _ _ _ _)
  obtain ⟨⟨y, hy, hSt, hNone⟩, hOthers, -⟩ := lostEnd_ends hItem ho hs
  have hRaise : ∀ j, item? (raise .dma 1 (lostEnd i w)) j = item? (lostEnd i w) j := fun j =>
    congrArg (fun z : Front => tfind z.items j) (raise_keeps (bl := .front) .dma 1 (Keeps.refl .front (lostEnd i w)) (by decide))
  rw [← hw]
  exact ⟨raise_bit .dma 1 (by decide) _, ⟨y, (hRaise i).trans hy, hSt, hNone⟩,
    fun j hj => (hRaise j).trans ((hOthers j hj).trans (hOther j hj))⟩

/-! ### OUT bursts (R297, R302, R514) -/

theorem burstOut_barred (hb : (fn v x.func).bme = false) : burstOut key cut i x v = finish i stUnderrun v := by
  unfold burstOut
  rw [hb]
  rfl

theorem burstOut_malformed (hb : (fn v x.func).bme = true) (hSpot : hostSpot x x.asked = none) (hBad : atBad x x.asked = true) :
    burstOut key cut i x v = idxMalformed i x v := by
  unfold burstOut
  rw [hb, hSpot]
  dsimp only
  rw [hBad]
  rfl

/-- The state in which an OUT burst of `n` bytes has been asked for. -/
def burstAsked (key cut a n i : Nat) (x : Item) (v : State) : State :=
  modChan key (fun c => { c with
    reading := some (i, n)
    state := if movedBytes (key % 2 == 1) cut a n < n then .preempted else .moving })
    (modItem i (fun y => { y with asked := y.asked + n, pages := (stagePlace v x).1, offset := (stagePlace v x).2 })
      (emit (.hostRead x.func a n) v))

theorem burstOut_asks (hb : (fn v x.func).bme = true) (hSpot : hostSpot x x.asked = some (a, e)) :
    burstOut key cut i x v = burstAsked key cut a (burstLen v x x.asked (eLength x.raw - x.asked)) i x v := by
  unfold burstOut
  rw [hb, hSpot]
  rfl

theorem burstAsked_does (hi : item? v i = some x) : (burstAsked key cut a n i x v).out = v.out ++ [.hostRead x.func a n]
    ∧ (chan (burstAsked key cut a n i x v) key).reading = some (i, n)
    ∧ (chan (burstAsked key cut a n i x v) key).state = (if movedBytes (key % 2 == 1) cut a n < n then .preempted else .moving)
    ∧ item? (burstAsked key cut a n i x v) i
      = some { x with asked := x.asked + n, pages := (stagePlace v x).1, offset := (stagePlace v x).2 }
    ∧ OtherItems i v (burstAsked key cut a n i x v) := by
  obtain ⟨w, hw⟩ : ∃ w, w = emit (.hostRead x.func a n) v := ⟨_, rfl⟩
  have hItems : ∀ j, item? w j = item? v j := hw ▸ fun _ => rfl
  have hOut : w.out = v.out ++ [.hostRead x.func a n] := hw ▸ rfl
  unfold burstAsked
  rw [← hw]
  refine ⟨?_, ?_, ?_, (item_modItem i i _ w).trans ((if_pos rfl).trans (congrArg _ ((hItems i).trans hi))),
    fun j hj => ((item_modItem i j _ w).trans (if_neg hj)).trans (hItems j)⟩
  · exact (show (modItem i _ w).out = w.out from modItem_keeps (bl := .out) i _ (Keeps.refl .out w) (by decide)).trans hOut
  · rw [chan_modChan, if_pos rfl]
  · rw [chan_modChan, if_pos rfl]

end

/-! ### The command -/

section
variable {s : State} {cut ch i : Nat} {x : Item}

/-- What the statement says of a burst that a malformed table ends. -/
def RequestMalformed (cut i : Nat) (x : Item) (s : State) : Prop :=
  ∃ t, exec (.dmaRequest cut) s = .next (lanesOn t)
    ∧ (x.func = 0 → isOwn x = false → ∃ y, item? t i = some y ∧ y.status = some 0x0C)
    ∧ (x.func ≠ 0 → x.func < 128 → (fn t x.func).halted = true)

theorem request_in (hs : serves s = true) (hp : nextBurst s (servedTimed s) = some (ch, i)) (hi : item? s i = some x)
    (hIn : eDataIn x.raw = true) {k m : Nat} {rest : List (Nat × Nat)} (hSegs : x.segs = (k, m) :: rest) :
    ((fn s x.func).bme = true → hostSpot x k = none → atBad x k = true → x.status = none → RequestMalformed cut i x s)
    ∧ ((fn s x.func).bme = true → ∀ a e, hostSpot x k = some (a, e) →
      let len := burstLen s x k m
      let n := if servedTimed s || cut = 0 then len else min len (64 * cut - a % 64)
      (firstBad s x k n = none → 0 < n → ∃ t, exec (.dmaRequest cut) s = .next (lanesOn t)
        ∧ .hostWrite x.func a (stageRead s x k n) ∈ t.out
        ∧ (chan t (ctxOf ch (servedTimed s))).state = (if n < len then .preempted
          else if (chan s (ctxOf ch (servedTimed s))).state == .preempted then .armed else (chan s (ctxOf ch (servedTimed s))).state)
        ∧ item? t i = some { x with segs := takeSegs n x.segs, drained := x.drained + n } ∧ OtherItems i s t)
      ∧ (∀ b, firstBad s x k n = some b → isOwn x = false → x.status = none →
        ∃ t, exec (.dmaRequest cut) s = .next (lanesOn t) ∧ bit (evtWord t 147) 1 = true
        ∧ (∃ y, item? t i = some y ∧ y.status = some (lostStatus x) ∧ y.segs = []) ∧ OtherItems i s t))
    ∧ ((fn s x.func).bme = false → isOwn x = false → x.status = none → ∃ t, exec (.dmaRequest cut) s = .next (lanesOn t)
      ∧ (∃ y, item? t i = some y ∧ y.status = some (lostStatus x) ∧ y.segs = []) ∧ OtherItems i s t ∧ t.out = s.out) := by
  have hRun := (exec_dmaRequest (cut := cut) hs).trans (congrArg (fun t => Host.Outcome.next (lanesOn t)) (dmaServe_some hp hi))
  rw [if_pos hIn] at hRun
  obtain ⟨v, hv⟩ : ∃ v, v = turnTaken ch s := ⟨_, rfl⟩
  have hItem : item? v i = some x := hv ▸ hi
  have hOthers : ∀ t, OtherItems i v t → OtherItems i s t := fun t h => by rw [hv] at h; exact h
  rw [← hv] at hRun
  refine ⟨fun hb hSpot hBad hSt => ⟨idxMalformed i x v, ?_, idxMalformed_ends hItem rfl hSt⟩, fun hb a e hSpot => ?_,
    fun hb ho hSt => ?_⟩
  · rw [hRun, burstIn_malformed hSegs (by rw [hv]; exact hb) hSpot hBad]
  · have hMoves := burstIn_moves (key := ctxOf ch (servedTimed s)) (cut := cut) (i := i) (v := v) hSegs (by rw [hv]; exact hb) hSpot
    rw [ctxOf_timed, show burstLen v x k m = burstLen s x k m by rw [hv]; rfl] at hMoves
    obtain ⟨n, hn⟩ : ∃ n, n = movedBytes (servedTimed s) cut a (burstLen s x k m) := ⟨_, rfl⟩
    rw [← hn, show firstBad v x k n = firstBad s x k n by rw [hv]; rfl] at hMoves
    have hCut : (if servedTimed s || cut = 0 then burstLen s x k m else min (burstLen s x k m) (64 * cut - a % 64)) = n := hn.symm
    dsimp only
    rw [hCut]
    refine ⟨fun hGood hPos => ?_, fun b hBad ho hSt => ?_⟩
    · rw [hGood] at hMoves
      dsimp only at hMoves
      obtain ⟨hOut, hState, hDone, hRest⟩ := burst_sent (key := ctxOf ch (servedTimed s)) (a := a) (k := k) (burstLen s x k m) hItem hPos
      rw [hMoves] at hRun
      rw [show stageRead v x k n = stageRead s x k n by rw [hv]; rfl] at hOut hState hDone hRest hRun
      rw [show chan v (ctxOf ch (servedTimed s)) = chan s (ctxOf ch (servedTimed s)) by rw [hv]; rfl] at hState
      exact ⟨_, hRun, hOut, hState, hDone, hOthers _ hRest⟩
    · rw [hBad] at hMoves
      rw [hMoves] at hRun
      obtain ⟨hBit, hEnds, hRest⟩ := burst_lost (a := a) (b - min b ((a + b) % 64)) (stageRead v x k (b - min b ((a + b) % 64))) hItem ho hSt
      exact ⟨_, hRun, hBit, hEnds, hOthers _ hRest⟩
  · rw [burstIn_barred hSegs (by rw [hv]; exact hb)] at hRun
    obtain ⟨hEnds, hRest, hOut⟩ := lostEnd_ends hItem ho hSt
    exact ⟨_, hRun, hEnds, hOthers _ hRest, hOut.trans (by rw [hv]; rfl)⟩

theorem movedBytes_lt {timed : Bool} {cut a n : Nat} : (movedBytes timed cut a n < n)
    ↔ (!timed && cut ≠ 0 && min n (64 * cut - a % 64) < n) = true := by
  unfold movedBytes beatBytes
  cases timed
  · by_cases h : cut = 0
    · simp [h]
    · simp [h]
  · simp

theorem request_out (hs : serves s = true) (hp : nextBurst s (servedTimed s) = some (ch, i)) (hi : item? s i = some x)
    (hIn : eDataIn x.raw = false) :
    ((fn s x.func).bme = true → hostSpot x x.asked = none → atBad x x.asked = true → x.status = none → RequestMalformed cut i x s)
    ∧ ((fn s x.func).bme = true → ∀ a e, hostSpot x x.asked = some (a, e) →
      let n := burstLen s x x.asked (eLength x.raw - x.asked)
      ∃ t, exec (.dmaRequest cut) s = .next (lanesOn t) ∧ t.out = s.out ++ [.hostRead x.func a n]
      ∧ (chan t (ctxOf ch (servedTimed s))).reading = some (i, n)
      ∧ (chan t (ctxOf ch (servedTimed s))).state
        = (if !(servedTimed s) && cut ≠ 0 && min n (64 * cut - a % 64) < n then .preempted else .moving)
      ∧ item? t i = some { x with asked := x.asked + n, pages := (stagePlace s x).1, offset := (stagePlace s x).2 } ∧ OtherItems i s t)
    ∧ ((fn s x.func).bme = false → isOwn x = false → x.status = none →
      ∃ t, exec (.dmaRequest cut) s = .next (lanesOn t) ∧ Completed i x 0x0F (turnTaken ch s) t) := by
  have hRun := (exec_dmaRequest (cut := cut) hs).trans (congrArg (fun t => Host.Outcome.next (lanesOn t)) (dmaServe_some hp hi))
  rw [if_neg (ne_true_of_eq_false hIn)] at hRun
  obtain ⟨v, hv⟩ : ∃ v, v = turnTaken ch s := ⟨_, rfl⟩
  have hItem : item? v i = some x := hv ▸ hi
  rw [← hv] at hRun ⊢
  refine ⟨fun hb hSpot hBad hSt => ⟨idxMalformed i x v, ?_, idxMalformed_ends hItem rfl hSt⟩, fun hb a e hSpot => ?_,
    fun hb ho hSt => ⟨_, ?_, finish_completed hItem ho (Or.inl hSt) stUnderrun⟩⟩
  · rw [hRun, burstOut_malformed (by rw [hv]; exact hb) hSpot hBad]
  · obtain ⟨n, hn⟩ : ∃ n, n = burstLen s x x.asked (eLength x.raw - x.asked) := ⟨_, rfl⟩
    have hAsks := burstOut_asks (key := ctxOf ch (servedTimed s)) (cut := cut) (i := i) (v := v) (by rw [hv]; exact hb) hSpot
    rw [show burstLen v x x.asked (eLength x.raw - x.asked) = n by rw [hn, hv]; rfl] at hAsks
    rw [hAsks] at hRun
    obtain ⟨hOut, hReading, hState, hDone, hRest⟩ := burstAsked_does (key := ctxOf ch (servedTimed s)) (cut := cut) (a := a) (n := n) hItem
    rw [show stagePlace v x = stagePlace s x by rw [hv]; rfl] at hDone
    rw [ctxOf_timed] at hState
    dsimp only
    rw [← hn]
    refine ⟨_, hRun, hOut.trans (by rw [hv]; rfl), hReading, hState.trans ?_, hDone, fun j hj => (hRest j hj).trans (by rw [hv]; rfl)⟩
    simp only [movedBytes_lt]
  · rw [hRun, burstOut_barred (by rw [hv]; exact hb)]

end
end Sys2Proof.Machine
end


section
/-! PROOFS. Index tables of the DMA engine (R304, R305), and what the statement says of its moves. -/

namespace Sys2Proof.Machine

section
variable {s : State} {i first n : Nat} {ok : Bool} {l : List Byte} {x : Item} {d : IdxState} {os : List Nat}

/-! ### Windows of a table (R305) -/

/-- The elements of a window that belong to the table. -/
def tableWindow (x : Item) (d : IdxState) (os : List Nat) : List Nat := os.take (eIdxCount x.raw - d.offsets.length)

/-- Those of them before the first that extends past the address space. -/
def soundOf (x : Item) (d : IdxState) (os : List Nat) : List Nat := idxFits x d.base.toNat d.size d.offsets.length (tableWindow x d os)

/-- The item that has taken a window. -/
def windowTaken (x : Item) (d : IdxState) (os : List Nat) : Item :=
  { x with idx := some { d with
    offsets := d.offsets ++ soundOf x d os, bad := decide ((soundOf x d os).length < (tableWindow x d os).length) } }

/-- The read that asks for the window from element `n` on, where there is one. -/
def windowRead (x : Item) (n : Nat) : List Output :=
  if eIdxCount x.raw ≤ n then []
  else [Output.hostRead x.func (eAddr x.raw + 16 + 4 * n) (4 * min 64 (eIdxCount x.raw - n))]

theorem askWindow_asks (v : State) (hi : item? v i = some x) (hb : (fn v x.func).bme = true) :
    (askWindow i n v).front = v.front ∧ (askWindow i n v).out = v.out ++ windowRead x n := by
  unfold askWindow windowRead
  rw [hi]
  dsimp only
  by_cases hn : eIdxCount x.raw ≤ n
  · rw [if_pos hn, if_pos hn]
    exact ⟨rfl, (List.append_nil _).symm⟩
  · rw [if_neg hn, if_neg hn, if_pos hb]
    exact ⟨rfl, rfl⟩

theorem takeWindow_eq (i : Nat) (x : Item) (d : IdxState) (os : List Nat) (s : State) : takeWindow i x d os s =
    if (soundOf x d os).length < (tableWindow x d os).length then
      (if d.offsets ++ soundOf x d os = [] then idxMalformed i x (setItem s i (windowTaken x d os))
        else setItem s i (windowTaken x d os))
    else askWindow i (d.offsets.length + 64) (setItem s i (windowTaken x d os)) := by
  show (if (!decide ((soundOf x d os).length < (tableWindow x d os).length)) = true
      then askWindow i (d.offsets.length + 64) (setItem s i (windowTaken x d os))
    else if (d.offsets ++ soundOf x d os).isEmpty then idxMalformed i x (setItem s i (windowTaken x d os))
    else setItem s i (windowTaken x d os)) = _
  by_cases hBad : (soundOf x d os).length < (tableWindow x d os).length
  · rw [if_neg (by simp [hBad]), if_pos hBad]
    simp only [List.isEmpty_iff]
  · rw [if_pos (by simp [hBad]), if_neg hBad]

/-- What the statement says of a table that is malformed at its first element. -/
def TableMalformed (i first : Nat) (ok : Bool) (l : List Byte) (x : Item) (s : State) : Prop :=
  ∃ t, exec (.indexTableReadDone i first ok l) s = .next t
    ∧ (x.func = 0 → isOwn x = false → ∃ y, item? t i = some y ∧ y.status = some 0x0C)
    ∧ (x.func ≠ 0 → x.func < 128 → (fn t x.func).halted = true)

theorem tableMalformed_of {v : State} {z : Item} (h : exec (.indexTableReadDone i first ok l) s = .next (idxMalformed i x v))
    (hi : item? v i = some z) (ho : isOwn z = isOwn x) (hs : z.status = none) : TableMalformed i first ok l x s :=
  ⟨_, h, idxMalformed_ends hi ho hs⟩

/-- What the statement says of a window that is taken. -/
def WindowTakes (i first : Nat) (ok : Bool) (l : List Byte) (x : Item) (d : IdxState) (os : List Nat) (s : State) : Prop :=
  ((tableWindow x d os).length ≤ (soundOf x d os).length → (fn s x.func).bme = true →
    ∃ t, exec (.indexTableReadDone i first ok l) s = .next t ∧ item? t i = some (windowTaken x d os) ∧ OtherItems i s t
      ∧ t.out = s.out ++ windowRead x (d.offsets.length + 64))
  ∧ ((soundOf x d os).length < (tableWindow x d os).length → d.offsets ++ soundOf x d os ≠ [] →
    exec (.indexTableReadDone i first ok l) s = .next (setItem s i (windowTaken x d os)))
  ∧ ((soundOf x d os).length < (tableWindow x d os).length → d.offsets ++ soundOf x d os = [] → TableMalformed i first ok l x s)

theorem window_takes (h : exec (.indexTableReadDone i first ok l) s = .next (takeWindow i x d os s)) (hs : x.status = none) :
    WindowTakes i first ok l x d os s := by
  have hItem : ∀ j, item? (setItem s i (windowTaken x d os)) j = if j = i then some (windowTaken x d os) else item? s j :=
    fun j => item_setItem s i j _
  rw [takeWindow_eq] at h
  refine ⟨fun hGood hb => ?_, fun hBad hSome => ?_, fun hBad hNone => ?_⟩
  · rw [if_neg hGood.not_gt] at h
    obtain ⟨hFront, hOut⟩ := askWindow_asks (n := d.offsets.length + 64) (x := windowTaken x d os) (setItem s i (windowTaken x d os))
      ((hItem i).trans (if_pos rfl)) hb
    have hKept : ∀ j, item? (askWindow i (d.offsets.length + 64) (setItem s i (windowTaken x d os))) j
        = item? (setItem s i (windowTaken x d os)) j := fun j => congrArg (fun z : Front => tfind z.items j) hFront
    exact ⟨_, h, (hKept i).trans ((hItem i).trans (if_pos rfl)), fun j hj => (hKept j).trans ((hItem j).trans (if_neg hj)), hOut⟩
  · rw [if_pos hBad, if_neg hSome] at h
    exact h
  · rw [if_pos hBad, if_pos hNone] at h
    exact tableMalformed_of h ((hItem i).trans (if_pos rfl)) rfl hs

/-! ### Reads of a table (R305) -/

theorem exec_indexTableReadDone (hl : live s = true) : exec (.indexTableReadDone i first ok l) s = .next (idxRead i first ok l s) :=
  runs_of_guard (o := execIndexTableReadDone i first ok l s) (s := s) (f := idxRead i first ok l) rfl hl

theorem idxRead_absent (hi : item? s i = none) : idxRead i first ok l s = s := by
  unfold idxRead
  rw [hi]

section
variable (hi : item? s i = some x)
include hi

theorem idxRead_unwanted (h : eIdx x.raw = false ∨ x.status ≠ none) : idxRead i first ok l s = s := by
  unfold idxRead
  rw [hi]
  refine if_pos ?_
  rw [Bool.or_eq_true, Bool.not_eq_true', Option.isSome_iff_ne_none]
  exact h

variable (hx : eIdx x.raw = true) (hs : x.status = none) (hb : ok = true ∨ (fn s x.func).bme = true)
include hx hs hb

/-- A read of a table that its transfer still wants, and that its function may make. -/
theorem idxRead_wanted : idxRead i first ok l s =
    if first = 0 then
      (if !ok || !idxHeaderOk x (l.take 16) then idxMalformed i x s
        else takeWindow i x ⟨BitVec.ofNat 64 (leNat (l.take 8)), leNat ((l.drop 8).take 4), [], false⟩ (idxOffsets 64 (l.drop 16)) s)
    else match x.idx with
      | some d =>
        if d.offsets.length != first || d.bad then s
        else if !ok then setItem s i { x with idx := some { d with bad := true } }
        else takeWindow i x d (idxOffsets 64 l) s
      | none => s := by
  unfold idxRead
  rw [hi]
  refine (if_neg ?_).trans ((if_neg ?_).trans rfl)
  · rw [hx, hs]
    decide
  · rcases hb with h | h
    · rw [h, Bool.not_true, Bool.false_and]
      decide
    · rw [h, Bool.not_true, Bool.and_false]
      decide

theorem idxRead_header (hf : first = 0) (hGood : ok = true) (hHead : idxHeaderOk x (l.take 16) = true) : idxRead i first ok l s =
    takeWindow i x ⟨BitVec.ofNat 64 (leNat (l.take 8)), leNat ((l.drop 8).take 4), [], false⟩ (idxOffsets 64 (l.drop 16)) s := by
  rw [idxRead_wanted hi hx hs hb, if_pos hf, hGood, hHead]
  rfl

theorem idxRead_headerBad (hf : first = 0) (hBad : ok = false ∨ idxHeaderOk x (l.take 16) = false) :
    idxRead i first ok l s = idxMalformed i x s := by
  rw [idxRead_wanted hi hx hs hb, if_pos hf, if_pos]
  rw [Bool.or_eq_true, Bool.not_eq_true', Bool.not_eq_true']
  exact hBad

theorem idxRead_window (hf : first ≠ 0) (hd : x.idx = some d) : idxRead i first ok l s =
    if d.offsets.length ≠ first ∨ d.bad = true then s
    else if ok = false then setItem s i { x with idx := some { d with bad := true } }
    else takeWindow i x d (idxOffsets 64 l) s := by
  rw [idxRead_wanted hi hx hs hb, if_neg hf, hd]
  simp only [Bool.or_eq_true, bne_iff_ne, Bool.not_eq_true']

end

/-- What the statement says of a read of a table that its transfer still wants. -/
theorem indexRead_does (hl : live s = true) (hi : item? s i = some x) (hx : eIdx x.raw = true) (hs : x.status = none) :
    (ok = false → first = 0 → (fn s x.func).bme = true → TableMalformed i first ok l x s)
    ∧ (ok = true → first = 0 → idxHeaderOk x (l.take 16) = false → TableMalformed i first ok l x s)
    ∧ (ok = true → first = 0 → idxHeaderOk x (l.take 16) = true → WindowTakes i first ok l x
      ⟨BitVec.ofNat 64 (leNat (l.take 8)), leNat ((l.drop 8).take 4), [], false⟩ (idxOffsets 64 (l.drop 16)) s)
    ∧ (∀ d, first ≠ 0 → x.idx = some d →
      (d.offsets.length ≠ first ∨ d.bad = true → ok = true ∨ (fn s x.func).bme = true →
        exec (.indexTableReadDone i first ok l) s = .next s)
      ∧ (d.offsets.length = first → d.bad = false →
        (ok = false → (fn s x.func).bme = true →
          exec (.indexTableReadDone i first ok l) s = .next (setItem s i { x with idx := some { d with bad := true } }))
        ∧ (ok = true → WindowTakes i first ok l x d (idxOffsets 64 l) s))) := by
  have hRun := exec_indexTableReadDone (i := i) (first := first) (ok := ok) (l := l) hl
  refine ⟨fun hok hf hb => ?_, fun hok hf hHead => ?_, fun hok hf hHead => ?_, fun d hf hd =>
    ⟨fun hOld hb => ?_, fun hLen hBad => ⟨fun hok hb => ?_, fun hok => ?_⟩⟩⟩
  · rw [idxRead_headerBad hi hx hs (Or.inr hb) hf (Or.inl hok)] at hRun
    exact tableMalformed_of hRun hi rfl hs
  · rw [idxRead_headerBad hi hx hs (Or.inl hok) hf (Or.inr hHead)] at hRun
    exact tableMalformed_of hRun hi rfl hs
  · rw [idxRead_header hi hx hs (Or.inl hok) hf hok hHead] at hRun
    exact window_takes hRun hs
  · rw [hRun, idxRead_window hi hx hs hb hf hd, if_pos hOld]
  · have hFresh : ¬ (d.offsets.length ≠ first ∨ d.bad = true) := fun h => h.elim (absurd hLen) (ne_true_of_eq_false hBad)
    rw [hRun, idxRead_window hi hx hs (Or.inr hb) hf hd, if_neg hFresh, if_pos hok]
  · have hFresh : ¬ (d.offsets.length ≠ first ∨ d.bad = true) := fun h => h.elim (absurd hLen) (ne_true_of_eq_false hBad)
    rw [idxRead_window hi hx hs (Or.inl hok) hf hd, if_neg hFresh, if_neg (ne_false_of_eq_true hok)] at hRun
    exact window_takes hRun hs

end

/-! ### The obligation -/

/-- Settles O51: a read's bytes are found where they were stored (`stageRead_held`, `stageRead_paged`); a request's burst and a table's window by what each moves.. -/
theorem dataMoves : Obligations.DataMoves := by
  intro s hl
  refine ⟨fun ch timed ok l => ?_, fun cut => ?_, fun ch timed hd => ?_, fun i first ok l => ⟨fun hi => ?_, fun x hi => ⟨fun h => ?_,
    fun hx hs => indexRead_does hl hi hx hs⟩⟩⟩
  · obtain ⟨hNone, hSome⟩ := readCompletion_does (ch := ch) (timed := timed) (ok := ok) (l := l) hl
    refine ⟨hNone, fun i n x h hi => ?_⟩
    obtain ⟨hGone, hFails, hGood⟩ := hSome i n x h hi
    exact ⟨hGone, hFails, fun hok hn hOld hs => ⟨_, hGood hok hn hOld hs, readStaged_does hi hn⟩⟩
  · intro timed cls pick hs
    refine ⟨fun hNone => ?_, fun ch i x hPick hi => ⟨fun hIn k m rest hSegs => request_in hs hPick hi hIn hSegs,
      fun hOut => request_out hs hPick hi hOut⟩⟩
    rw [exec_dmaRequest hs, dmaServe_none hNone]
  · exact ⟨_, exec_drainComplete hl hd, drained_eng _ s, drained_chan _ s⟩
  · rw [exec_indexTableReadDone hl, idxRead_absent hi]
  · rw [exec_indexTableReadDone hl, idxRead_unwanted hi h]

end Sys2Proof.Machine
end


section
/-! PROOFS. The endpoint buffer memory: carve and release, scrubs and visits, and the context table's switch (R234, R307 to
R317). -/

namespace Sys2Proof.Machine

section
variable {s t u v w : State} {ctx : CmdCtx} {h : U16} {ep : Byte} {i k : Nat} {x : Item} {c : Ctx}

/-! ### Tables and pages -/

theorem mem_of_tfind {α : Type} {l : Tbl α} {k : Nat} {a : α} (h : tfind l k = some a) : (k, a) ∈ l := by
  induction l with
  | nil => exact absurd h (by simp [tfind])
  | cons e l ih =>
    obtain ⟨j, b⟩ := e
    unfold tfind at h
    by_cases hj : j = k
    · rw [if_pos hj] at h
      cases h
      rw [hj]
      exact List.mem_cons_self
    · rw [if_neg hj] at h
      exact List.mem_cons_of_mem _ (ih h)

theorem tget_of_tfind {α : Type} {l : Tbl α} {k : Nat} {a d : α} (h : tfind l k = some a) : tget d l k = a := by
  induction l with
  | nil => exact absurd h (by simp [tfind])
  | cons e l ih =>
    obtain ⟨j, b⟩ := e
    unfold tfind at h
    unfold tget
    by_cases hj : j = k
    · rw [if_pos hj] at h ⊢
      exact Option.some.inj h
    · rw [if_neg hj] at h ⊢
      exact ih h

theorem mem_itemsWhere {p : Item → Bool} (hi : item? s i = some x) (hp : p x = true) : i ∈ itemsWhere s p :=
  List.mem_map.2 ⟨(i, x), List.mem_filter.2 ⟨mem_of_tfind hi, hp⟩, rfl⟩

/-- Pages that are all set to the same. -/
theorem page_each (l : List Nat) (y : Page) (v : State) (p : Nat) :
    page (each l (fun n => setPage n y) v) p = if p ∈ l then y else page v p := by
  induction l generalizing v with
  | nil => rfl
  | cons n l ih =>
    rw [each_cons, ih, page_setPage]
    by_cases hp : p ∈ l
    · rw [if_pos hp, if_pos (List.mem_cons_of_mem _ hp)]
    · by_cases hn : p = n
      · rw [if_neg hp, if_pos hn, if_pos (hn ▸ List.mem_cons_self)]
      · rw [if_neg hp, if_neg hn, if_neg fun hm => (List.mem_cons.1 hm).elim hn hp]

theorem page_of_dma (h : w.dma = v.dma) (p : Nat) : page w p = page v p := congrArg (fun z : Dma => tget (pageInit p) z.page p) h

theorem carvedOf_of_dma (h : w.dma = v.dma) (f : Nat) : carvedOf w f = carvedOf v f := by
  unfold carvedOf pagesWhere
  exact List.filter_congr fun n _ => by rw [page_of_dma h]

theorem bufReply_of_dma (h : w.dma = v.dma) (f r n : Nat) : bufReply w f r n = bufReply v f r n := by
  unfold bufReply
  rw [carvedOf_of_dma h]

/-- Returned pages that were assigned are carved again. -/
theorem page_returned (l : List Nat) (v : State) {p : Nat} (hp : p ∈ l) (ha : (page v p).state = .assigned) :
    page (returnPages l v) p = ⟨.carved, (page v p).owner, none⟩ := by
  have hKeep : ∀ (l : List Nat) (v : State), page v p = ⟨.carved, (page v p).owner, none⟩ →
      page (returnPages l v) p = page v p := by
    intro l v hv
    refine each_preserves (fun u => page u p = page v p) l _ (fun n _ u hu => ?_) v rfl
    dsimp only
    by_cases hn : (page u n).state = .assigned
    · rw [if_pos (beq_iff_eq.2 hn), page_setPage, if_neg fun hpn => ?_]
      · exact hu
      · rw [← hpn, hu, hv] at hn
        cases hn
    · rw [if_neg fun h => hn (beq_iff_eq.1 h)]
      exact hu
  induction l generalizing v with
  | nil => cases hp
  | cons n l ih =>
    show page (returnPages l (if (page v n).state == .assigned then setPage n ⟨.carved, (page v n).owner, none⟩ v else v)) p = _
    by_cases hpn : p = n
    · rw [← hpn, if_pos (beq_iff_eq.2 ha)]
      have hNow : page (setPage p ⟨.carved, (page v p).owner, none⟩ v) p = ⟨.carved, (page v p).owner, none⟩ :=
        (page_setPage _ _ _ _).trans (if_pos rfl)
      rw [hKeep l _ (by rw [hNow]), hNow]
    · have hSame : page (if (page v n).state == .assigned then setPage n ⟨.carved, (page v n).owner, none⟩ v else v) p = page v p := by
        split
        · rw [page_setPage, if_neg hpn]
        · rfl
      rw [ih _ ((List.mem_cons.1 hp).resolve_left hpn) (by rw [hSame]; exact ha), hSame]

/-! ### Refusals (R311) -/

/-- The key of the context that a buffer command names. -/
def bufKey (h : U16) (ep : Byte) : Nat := ctxKey (field h 0 12) (field ep 0 4) (bit ep 7)

/-- The context that a buffer command names. -/
def bufCtx (s : State) (h : U16) (ep : Byte) : Ctx := tget {} s.topo.ctx (bufKey h ep)

/-- What the statement says of a refused buffer command. -/
def BufRefused (ctx : CmdCtx) (c : Instr) (code r : Nat) (s : State) : Prop :=
  ∃ t, exec c s = .next t ∧ Answered ctx code (bufReply s (sender ctx.chan) r 0) s t ∧ t.topo = s.topo ∧ t.dma = s.dma

theorem bufRefused_of {c : Instr} {code r : Nat}
    (hRun : exec c s = .next (reply ctx code (bufReply s (sender ctx.chan) r 0) (begun ctx code s))) : BufRefused ctx c code r s :=
  ⟨_, hRun, (answered_at_once ctx code _ s).1, reply_topo ctx code _ _, reply_dma ctx code _ _⟩

/-- A buffer command that is not refused names an open context. -/
theorem ctx_of_unrefused {f : Nat} (h0 : bufRefusal s f h ep = 0) : tfind s.topo.ctx (bufKey h ep) = some (bufCtx s h ep) := by
  unfold bufRefusal at h0
  split at h0
  · cases h0
  · split at h0
    · cases h0
    · split at h0
      · cases h0
      · cases hc : tfind s.topo.ctx (bufKey h ep) with
        | none =>
          rw [show ctx? s (field h 0 12) (field ep 0 4) (bit ep 7) = none from hc] at h0
          cases h0
        | some c => exact congrArg some (tget_of_tfind hc).symm

/-! ### BUF_CARVE -/

theorem exec_bufCarve (hl : live s = true) : exec (.bufCarve ctx h ep) s = .next (bufCarveCmd ctx h ep s) :=
  runs_of_guard (o := execBufCarve ctx h ep s) (s := s) (f := bufCarveCmd ctx h ep) rfl hl

theorem exec_bufRelease (hl : live s = true) : exec (.bufRelease ctx h ep) s = .next (bufReleaseCmd ctx h ep s) :=
  runs_of_guard (o := execBufRelease ctx h ep s) (s := s) (f := bufReleaseCmd ctx h ep) rfl hl

/-- The state in which `ps` have been carved for the endpoint. -/
def carvedIn (ctx : CmdCtx) (h : U16) (ep : Byte) (ps : List Nat) (s : State) : State :=
  assignPages ps (sender ctx.chan) (field h 0 12, bufKey h ep)
    (modCtx (bufKey h ep) (fun y => { y with pages := ps }) (begun ctx 0x70 s))

theorem bufCarveCmd_eq (ctx : CmdCtx) (h : U16) (ep : Byte) (s : State) : bufCarveCmd ctx h ep s =
    if bufRefusal s (sender ctx.chan) h ep ≠ 0 then
      reply ctx 0x70 (bufReply s (sender ctx.chan) (bufRefusal s (sender ctx.chan) h ep) 0) (begun ctx 0x70 s)
    else if (bufCtx s h ep).pages ≠ [] then reply ctx 0x70 (bufReply s (sender ctx.chan) 4 0) (begun ctx 0x70 s)
    else if (freeCarve s (sender ctx.chan)).length < dedicatedPages (bufCtx s h ep) then
      reply ctx 0x70 (bufReply s (sender ctx.chan) 3 0) (begun ctx 0x70 s)
    else reply ctx 0x70
      (bufReply (carvedIn ctx h ep ((freeCarve s (sender ctx.chan)).take (dedicatedPages (bufCtx s h ep))) s) (sender ctx.chan) 0
        (dedicatedPages (bufCtx s h ep)))
      (carvedIn ctx h ep ((freeCarve s (sender ctx.chan)).take (dedicatedPages (bufCtx s h ep))) s) := by
  unfold bufCarveCmd
  dsimp only
  rw [show bufRefusal (begun ctx 0x70 s) (sender ctx.chan) h ep = bufRefusal s (sender ctx.chan) h ep from rfl]
  refine ite_congr (by rw [bne_iff_ne]) (fun _ => rfl) fun _ => ?_
  refine ite_congr (by
    rw [Bool.not_eq_true', List.isEmpty_eq_false_iff]
    rfl) (fun _ => rfl) fun _ => ?_
  exact ite_congr rfl (fun _ => rfl) fun _ => rfl

theorem carvedIn_does (ctx : CmdCtx) (ps : List Nat) (hc : tfind s.topo.ctx (bufKey h ep) = some c) :
    (carvedIn ctx h ep ps s).fns = s.fns ∧ (carvedIn ctx h ep ps s).mail = (begun ctx 0x70 s).mail
    ∧ tfind (carvedIn ctx h ep ps s).topo.ctx (bufKey h ep) = some { c with pages := ps }
    ∧ ∀ p, page (carvedIn ctx h ep ps s) p = if p ∈ ps then ⟨.assigned, some (sender ctx.chan), some (field h 0 12, bufKey h ep)⟩ else page s p := by
  obtain ⟨v, hv⟩ : ∃ v, v = modCtx (bufKey h ep) (fun y => { y with pages := ps }) (begun ctx 0x70 s) := ⟨_, rfl⟩
  have hFns : v.fns = s.fns := hv ▸ modCtx_keeps (bl := .fns) _ _ (Keeps.refl .fns (begun ctx 0x70 s)) (by decide)
  have hMail : v.mail = (begun ctx 0x70 s).mail := hv ▸ modCtx_keeps (bl := .mail) _ _ (Keeps.refl .mail (begun ctx 0x70 s)) (by decide)
  have hDma : v.dma = s.dma := hv ▸ modCtx_keeps (bl := .dma) _ _ (Keeps.refl .dma (begun ctx 0x70 s)) (by decide)
  have hCtx : tfind v.topo.ctx (bufKey h ep) = some { c with pages := ps } := by
    rw [hv, tfind_modCtx_all, if_pos rfl, show tfind (begun ctx 0x70 s).topo.ctx (bufKey h ep) = some c from hc]
    rfl
  have hRest : ∀ {β : Type} (g : State → β), (∀ n y u, g (setPage n y u) = g u) →
      g (assignPages ps (sender ctx.chan) (field h 0 12, bufKey h ep) v) = g v := fun g hg => by
    unfold assignPages
    exact each_unchanged g ps _ (fun n _ u => hg n _ u) v
  unfold carvedIn
  rw [← hv]
  refine ⟨?_, ?_, ?_, fun p => ?_⟩
  · exact (hRest (fun u => u.fns) fun _ _ _ => rfl).trans hFns
  · exact (hRest (fun u => u.mail) fun _ _ _ => rfl).trans hMail
  · exact (congrArg (fun z : Topo => tfind z.ctx (bufKey h ep)) (hRest (fun u => u.topo) fun _ _ _ => rfl)).trans hCtx
  · refine (page_each ps _ v p).trans ?_
    rw [page_of_dma hDma]

theorem bufCarve_carves (hl : live s = true) (h0 : bufRefusal s (sender ctx.chan) h ep = 0) (hp : (bufCtx s h ep).pages = [])
    (hn : dedicatedPages (bufCtx s h ep) ≤ (freeCarve s (sender ctx.chan)).length) :
    ∃ t, exec (.bufCarve ctx h ep) s = .next t
      ∧ Answered ctx 0x70 (bufReply t (sender ctx.chan) 0 (dedicatedPages (bufCtx s h ep))) s t
      ∧ tfind t.topo.ctx (bufKey h ep)
        = some { bufCtx s h ep with pages := (freeCarve s (sender ctx.chan)).take (dedicatedPages (bufCtx s h ep)) }
      ∧ (∀ p ∈ (freeCarve s (sender ctx.chan)).take (dedicatedPages (bufCtx s h ep)),
        page t p = ⟨.assigned, some (sender ctx.chan), some (field h 0 12, bufKey h ep)⟩)
      ∧ ∀ p, p ∉ (freeCarve s (sender ctx.chan)).take (dedicatedPages (bufCtx s h ep)) → page t p = page s p := by
  obtain ⟨ps, hps⟩ : ∃ ps, ps = (freeCarve s (sender ctx.chan)).take (dedicatedPages (bufCtx s h ep)) := ⟨_, rfl⟩
  obtain ⟨hFns, hMail, hCtx, hPage⟩ := carvedIn_does ctx ps (ctx_of_unrefused h0)
  have hRun := (exec_bufCarve (ctx := ctx) (h := h) (ep := ep) hl).trans (congrArg _ (bufCarveCmd_eq ctx h ep s))
  rw [if_neg (not_not.2 h0), if_neg (not_not.2 hp), if_neg hn.not_gt, ← hps] at hRun
  rw [← hps]
  have hPage' : ∀ l p, page (reply ctx 0x70 l (carvedIn ctx h ep ps s)) p = page (carvedIn ctx h ep ps s) p := fun l =>
    page_of_dma (reply_dma ctx 0x70 l _)
  refine ⟨_, hRun, ?_, ?_, fun p hIn => ?_, fun p hOut => ?_⟩
  · rw [bufReply_of_dma (reply_dma ctx 0x70 _ (carvedIn ctx h ep ps s))]
    exact reply_from hFns (by rw [hMail]; exact begun_bufs ctx 0x70 s)
  · rw [reply_topo]
    exact hCtx
  · rw [hPage', hPage, if_pos hIn]
  · rw [hPage', hPage, if_neg hOut]

/-! ### BUF_RELEASE -/

/-- The item with nothing staged. -/
def unstaged (x : Item) : Item := { x with pages := [], asked := x.moved, staged := x.moved }

theorem unstage_item (j : Nat) (v : State) (i : Nat) :
    item? (unstage j v) i = if i = j then (item? v j).map unstaged else item? v i := item_modItem j i _ v

/-- Each item of the list has nothing staged at the end, however often the list names it. -/
theorem unstage_each (l : List Nat) (hi : i ∈ l) (hx : item? v i = some x ∨ item? v i = some (unstaged x)) :
    item? (each l unstage v) i = some (unstaged x) := by
  have hStep : ∀ j u, item? u i = some (unstaged x) → item? (unstage j u) i = some (unstaged x) := fun j u hu => by
    rw [unstage_item]
    split
    · next hj => rw [← hj, hu]; rfl
    · exact hu
  induction l generalizing v with
  | nil => cases hi
  | cons j l ih =>
    rw [each_cons]
    by_cases hj : i = j
    · refine each_preserves (fun u => item? u i = some (unstaged x)) l _ (fun n _ u hu => hStep n u hu) _ ?_
      rw [unstage_item, if_pos hj, ← hj]
      rcases hx with hx | hx <;> rw [hx] <;> rfl
    · exact ih ((List.mem_cons.1 hi).resolve_left hj) (by rw [unstage_item, if_neg hj]; exact hx)

theorem unstage_rest (j : Nat) (v : State) : (unstage j v).topo = v.topo ∧ (unstage j v).fns = v.fns ∧ (unstage j v).mail = v.mail
    ∧ ∀ p, page (unstage j v) p = page v p := by
  have hMod : ∀ g, (modItem j g v).topo = v.topo ∧ (modItem j g v).fns = v.fns ∧ (modItem j g v).mail = v.mail
      ∧ (modItem j g v).dma = v.dma := fun g =>
    ⟨modItem_keeps (bl := .topo) j g (Keeps.refl .topo v) (by decide), modItem_keeps (bl := .fns) j g (Keeps.refl .fns v) (by decide),
      modItem_keeps (bl := .mail) j g (Keeps.refl .mail v) (by decide), modItem_keeps (bl := .dma) j g (Keeps.refl .dma v) (by decide)⟩
  obtain ⟨hTopo, hFns, hMail, hDma⟩ := hMod fun x => { x with pages := [], asked := x.moved, staged := x.moved }
  exact ⟨hTopo, hFns, hMail, fun p => page_of_dma hDma p⟩

/-- The state in which a release has given the pages back. -/
def releasedIn (f : Nat) (h : U16) (ep : Byte) (v : State) : State :=
  modFn f (fun x => { x with bufBusy := false })
    (returnPages (bufCtx v h ep).pages
      (modCtx (bufKey h ep) (fun y => { y with pages := [], releasing := none }) (each (itemsWhere v (epStages h ep)) unstage v)))

theorem bufReleaseFinish_waits {f : Nat} (hw : (bufCtx v h ep).releasing = none
    ∨ ((bufCtx v h ep).releasing = some ctx ∧ (f ≠ sender ctx.chan ∨ epQuiet v h ep = false))) : bufReleaseFinish f h ep v = v := by
  unfold bufReleaseFinish
  dsimp only
  rcases hw with hNone | ⟨hSome, hWhy⟩
  · rw [show (tget {} v.topo.ctx (ctxKey (field h 0 12) (field ep 0 4) (bit ep 7)) : Ctx).releasing = none from hNone]
  · rw [show (tget {} v.topo.ctx (ctxKey (field h 0 12) (field ep 0 4) (bit ep 7)) : Ctx).releasing = some ctx from hSome]
    refine if_neg fun hBoth => ?_
    obtain ⟨hf, hq⟩ := Bool.and_eq_true_iff.1 hBoth
    exact hWhy.elim (fun hNe => hNe (beq_iff_eq.1 hf).symm) fun hNot => absurd hq (ne_true_of_eq_false hNot)

theorem bufReleaseFinish_ends {f : Nat} (hc : (bufCtx v h ep).releasing = some ctx) (hf : sender ctx.chan = f)
    (hq : epQuiet v h ep = true) : bufReleaseFinish f h ep v
      = reply ctx 0x71 (bufReply (releasedIn f h ep v) f 0 (bufCtx v h ep).pages.length) (releasedIn f h ep v) := by
  unfold bufReleaseFinish
  dsimp only
  rw [show (tget {} v.topo.ctx (ctxKey (field h 0 12) (field ep 0 4) (bit ep 7)) : Ctx).releasing = some ctx from hc]
  exact if_pos (by rw [hf, hq, beq_self_eq_true]; rfl)

/-- What a release that ends brings about: the pages are CARVED again, and the endpoint's items have nothing staged. -/
theorem releasedIn_does (f : Nat) (h : U16) (ep : Byte) (v : State) : (releasedIn f h ep v).mail = v.mail
    ∧ (∀ g, (fn (releasedIn f h ep v) g).bme = (fn v g).bme) ∧ (fn (releasedIn f h ep v) f).bufBusy = false
    ∧ (∀ y, tfind v.topo.ctx (bufKey h ep) = some y →
      tfind (releasedIn f h ep v).topo.ctx (bufKey h ep) = some { y with pages := [], releasing := none })
    ∧ (∀ p ∈ (bufCtx v h ep).pages, (page v p).state = .assigned →
      page (releasedIn f h ep v) p = ⟨.carved, (page v p).owner, none⟩)
    ∧ ∀ i x, item? v i = some x → epStages h ep x = true →
      item? (releasedIn f h ep v) i = some { x with pages := [], asked := x.moved, staged := x.moved } := by
  obtain ⟨w, hw⟩ : ∃ w, w = each (itemsWhere v (epStages h ep)) unstage v := ⟨_, rfl⟩
  have hTopo : w.topo = v.topo := hw ▸ each_unchanged (fun u : State => u.topo) _ _ (fun j _ u => (unstage_rest j u).1) v
  have hFns : w.fns = v.fns := hw ▸ each_unchanged (fun u : State => u.fns) _ _ (fun j _ u => (unstage_rest j u).2.1) v
  have hMail : w.mail = v.mail := hw ▸ each_unchanged (fun u : State => u.mail) _ _ (fun j _ u => (unstage_rest j u).2.2.1) v
  have hPage : ∀ p, page w p = page v p := fun p =>
    hw ▸ each_unchanged (fun u : State => page u p) _ _ (fun j _ u => (unstage_rest j u).2.2.2 p) v
  have hItem : ∀ i x, item? v i = some x → epStages h ep x = true →
      item? w i = some { x with pages := [], asked := x.moved, staged := x.moved } := fun i x hi hx => by
    refine hw ▸ unstage_each _ (mem_itemsWhere hi hx) (Or.inl hi)
  obtain ⟨z, hz⟩ : ∃ z, z = modCtx (bufKey h ep) (fun y => { y with pages := [], releasing := none }) w := ⟨_, rfl⟩
  have hZ : z.fns = w.fns ∧ z.mail = w.mail ∧ z.dma = w.dma ∧ z.front = w.front := hz ▸
    ⟨modCtx_keeps (bl := .fns) _ _ (Keeps.refl .fns w) (by decide), modCtx_keeps (bl := .mail) _ _ (Keeps.refl .mail w) (by decide),
      modCtx_keeps (bl := .dma) _ _ (Keeps.refl .dma w) (by decide), modCtx_keeps (bl := .front) _ _ (Keeps.refl .front w) (by decide)⟩
  obtain ⟨r, hr⟩ : ∃ r, r = returnPages (bufCtx v h ep).pages z := ⟨_, rfl⟩
  have hR : ∀ {β : Type} (g : State → β), (∀ n y u, g (setPage n y u) = g u) → g r = g z := fun g hg => by
    rw [hr]
    exact each_unchanged g _ _ (fun n _ u => by
      dsimp only
      split
      · exact hg _ _ _
      · rfl) z
  have hFn : ∀ g, fn r g = fn v g := fun g =>
    (hR (fun u => fn u g) fun _ _ _ => rfl).trans (fn_of_fns (hZ.1.trans hFns) g)
  unfold releasedIn
  rw [← hw, ← hz, ← hr]
  refine ⟨?_, fun g => ?_, ?_, fun y hy => ?_, fun p hp ha => ?_, fun i x hi hx => ?_⟩
  · exact (hR (fun u => u.mail) fun _ _ _ => rfl).trans (hZ.2.1.trans hMail)
  · rw [fn_modFn]
    split
    · next hg => rw [hg, hFn]
    · rw [hFn]
  · rw [fn_modFn, if_pos rfl]
  · show tfind r.topo.ctx (bufKey h ep) = _
    rw [hR (fun u => tfind u.topo.ctx (bufKey h ep)) fun _ _ _ => rfl, hz, tfind_modCtx_all, if_pos rfl, hTopo, hy]
    rfl
  · show page r p = _
    have hSame : page z p = page v p := (page_of_dma hZ.2.2.1 p).trans (hPage p)
    rw [hr, page_returned _ z hp (by rw [hSame]; exact ha), hSame]
  · show item? r i = _
    rw [hR (fun u => item? u i) fun _ _ _ => rfl, ← hItem i x hi hx]
    exact congrArg (fun q : Front => tfind q.items i) hZ.2.2.2

end
end Sys2Proof.Machine
end


section
/-! PROOFS. Releases of buffer pages that go through, scrubs and ECC visits, and the switch of the context table (R234, R311,
R313, R314). -/

namespace Sys2Proof.Machine

section
variable {s t u v w : State} {ctx : CmdCtx} {h : U16} {ep : Byte}

/-! ### BUF_RELEASE (R311) -/

/-- What the statement says of a release that has gone through. -/
def BufBack (ctx : CmdCtx) (h : U16) (ep : Byte) (s t : State) : Prop :=
  Answered ctx 0x71 (bufReply t (sender ctx.chan) 0 (bufCtx s h ep).pages.length) s t
    ∧ (∀ y, tfind s.topo.ctx (bufKey h ep) = some y →
      tfind t.topo.ctx (bufKey h ep) = some { y with pages := [], releasing := none })
    ∧ (fn t (sender ctx.chan)).bufBusy = false
    ∧ (∀ p ∈ (bufCtx s h ep).pages, (page s p).state = .assigned → page t p = ⟨.carved, (page s p).owner, none⟩)
    ∧ ∀ i x, item? s i = some x → epStages h ep x = true →
      item? t i = some { x with pages := [], asked := x.moved, staged := x.moved }

/-- The state in which a release has been asked for. -/
def releaseAsked (ctx : CmdCtx) (h : U16) (ep : Byte) (s : State) : State :=
  modCtx (bufKey h ep) (fun y => { y with releasing := some ctx })
    (modFn (sender ctx.chan) (fun x => { x with bufBusy := true }) (begun ctx 0x71 s))

theorem bufReleaseCmd_eq (ctx : CmdCtx) (h : U16) (ep : Byte) (s : State) : bufReleaseCmd ctx h ep s =
    if bufRefusal s (sender ctx.chan) h ep ≠ 0 then
      reply ctx 0x71 (bufReply s (sender ctx.chan) (bufRefusal s (sender ctx.chan) h ep) 0) (begun ctx 0x71 s)
    else if (bufCtx s h ep).pages = [] ∨ (bufCtx s h ep).releasing ≠ none then
      reply ctx 0x71 (bufReply s (sender ctx.chan) 5 0) (begun ctx 0x71 s)
    else bufReleaseFinish (sender ctx.chan) h ep (releaseAsked ctx h ep s) := by
  unfold bufReleaseCmd
  dsimp only
  rw [show bufRefusal (begun ctx 0x71 s) (sender ctx.chan) h ep = bufRefusal s (sender ctx.chan) h ep from rfl]
  refine ite_congr (by rw [bne_iff_ne]) (fun _ => rfl) fun _ => ?_
  refine ite_congr (by
    rw [Bool.or_eq_true, List.isEmpty_iff, Option.isSome_iff_ne_none]
    rfl) (fun _ => rfl) fun _ => rfl

/-- A release that ends in a state which differs from that before it only in its own marks. -/
theorem bufBack_of (hBme : ∀ g, (fn v g).bme = (fn s g).bme)
    (hBufs : v.mail.secOut = s.mail.secOut ∧ v.mail.i3cOut = s.mail.i3cOut)
    (hCtx : ∀ y, tfind s.topo.ctx (bufKey h ep) = some y → ∃ r, tfind v.topo.ctx (bufKey h ep) = some { y with releasing := r })
    (hPages : (bufCtx v h ep).pages = (bufCtx s h ep).pages) (hPage : ∀ p, page v p = page s p) (hItem : ∀ i, item? v i = item? s i) :
    BufBack ctx h ep s (reply ctx 0x71 (bufReply (releasedIn (sender ctx.chan) h ep v) (sender ctx.chan) 0 (bufCtx v h ep).pages.length)
      (releasedIn (sender ctx.chan) h ep v)) := by
  obtain ⟨hMail, hBme', hBusy, hCtx', hPage', hItem'⟩ := releasedIn_does (sender ctx.chan) h ep v
  obtain ⟨r, hr⟩ : ∃ r, r = releasedIn (sender ctx.chan) h ep v := ⟨_, rfl⟩
  rw [← hr] at hMail hBme' hBusy hCtx' hPage' hItem' ⊢
  rw [hPages] at hPage' ⊢
  refine ⟨?_, fun y hy => ?_, ?_, fun p hp ha => ?_, fun i x hi hx => ?_⟩
  · rw [bufReply_of_dma (reply_dma ctx 0x71 _ r)]
    exact answered_from (reply_answered ctx 0x71 _ r) (fun g => (hBme' g).trans (hBme g)) (by rw [hMail]; exact hBufs)
  · obtain ⟨a, ha⟩ := hCtx y hy
    have hGone := hCtx' _ ha
    rw [reply_topo]
    exact hGone
  · exact (reply_proj Func.bufBusy (fun _ _ _ => rfl) (fun _ _ => rfl) ctx 0x71 _ r _).trans hBusy
  · rw [page_of_dma (reply_dma ctx 0x71 _ r), hPage' p hp (by rw [hPage]; exact ha), hPage]
  · exact (congrArg (fun z : Front => tfind z.items i) (reply_front ctx 0x71 _ r)).trans (hItem' i x ((hItem i).trans hi) hx)

theorem releaseAsked_does (ctx : CmdCtx) (h : U16) (ep : Byte) (s : State) :
    (∀ g, (fn (releaseAsked ctx h ep s) g).bme = (fn s g).bme) ∧ (fn (releaseAsked ctx h ep s) (sender ctx.chan)).bufBusy = true
    ∧ (releaseAsked ctx h ep s).mail = (begun ctx 0x71 s).mail ∧ (releaseAsked ctx h ep s).dma = s.dma
    ∧ (releaseAsked ctx h ep s).front = s.front ∧ (releaseAsked ctx h ep s).out = s.out
    ∧ tfind (releaseAsked ctx h ep s).topo.ctx (bufKey h ep)
      = (tfind s.topo.ctx (bufKey h ep)).map fun y => { y with releasing := some ctx } := by
  obtain ⟨w, hw⟩ : ∃ w, w = modFn (sender ctx.chan) (fun x => { x with bufBusy := true }) (begun ctx 0x71 s) := ⟨_, rfl⟩
  have hFn : ∀ g, (fn w g).bme = (fn s g).bme := fun g => by
    rw [hw, fn_modFn]
    split
    · next hg => rw [hg]; rfl
    · rfl
  have hBusy : (fn w (sender ctx.chan)).bufBusy = true := by rw [hw, fn_modFn, if_pos rfl]
  have hTopo : w.topo = s.topo := hw ▸ rfl
  have hFns : (releaseAsked ctx h ep s).fns = w.fns := hw ▸ modCtx_keeps (bl := .fns) _ _ (Keeps.refl .fns _) (by decide)
  refine ⟨fun g => ?_, ?_, ?_, ?_, ?_, ?_, ?_⟩
  · rw [fn_of_fns hFns, hFn]
  · rw [fn_of_fns hFns, hBusy]
  · exact modCtx_keeps (bl := .mail) _ _ (Keeps.refl .mail _) (by decide)
  · exact modCtx_keeps (bl := .dma) _ _ (Keeps.refl .dma _) (by decide)
  · exact modCtx_keeps (bl := .front) _ _ (Keeps.refl .front _) (by decide)
  · exact modCtx_keeps (bl := .out) _ _ (Keeps.refl .out _) (by decide)
  · exact (tfind_modCtx_all _ _ _ _).trans (if_pos rfl)

theorem bufCtx_of {c : Ctx} (hc : tfind s.topo.ctx (bufKey h ep) = some c) : bufCtx s h ep = c := tget_of_tfind hc

/-- What the statement says of a release that is asked for of pages that no other release holds. -/
theorem bufRelease_does (hl : live s = true) (h0 : bufRefusal s (sender ctx.chan) h ep = 0) (hp : (bufCtx s h ep).pages ≠ [])
    (hr : (bufCtx s h ep).releasing = none) :
    (epQuiet s h ep = false → ∃ t, exec (.bufRelease ctx h ep) s = .next t
      ∧ tfind t.topo.ctx (bufKey h ep) = some { bufCtx s h ep with releasing := some ctx }
      ∧ (fn t (sender ctx.chan)).bufBusy = true ∧ t.dma = s.dma ∧ t.out = s.out)
    ∧ (epQuiet s h ep = true → ∃ t, exec (.bufRelease ctx h ep) s = .next t ∧ BufBack ctx h ep s t) := by
  obtain ⟨hBme, hBusy, hMail, hDma, hFront, hOut, hCtx⟩ := releaseAsked_does ctx h ep s
  have hFound := ctx_of_unrefused h0
  have hHere : tfind (releaseAsked ctx h ep s).topo.ctx (bufKey h ep) = some { bufCtx s h ep with releasing := some ctx } := by
    rw [hCtx, hFound]
    rfl
  have hIs := bufCtx_of hHere
  have hQuiet : epQuiet (releaseAsked ctx h ep s) h ep = epQuiet s h ep := by
    unfold epQuiet
    rw [hFront]
  have hRun := (exec_bufRelease (ctx := ctx) (h := h) (ep := ep) hl).trans (congrArg _ (bufReleaseCmd_eq ctx h ep s))
  rw [if_neg (not_not.2 h0), if_neg fun hOr => hOr.elim hp fun hNe => hNe hr] at hRun
  refine ⟨fun hq => ⟨_, hRun.trans (congrArg _ (bufReleaseFinish_waits (ctx := ctx) (Or.inr ⟨by rw [hIs], Or.inr ?_⟩))),
    hHere, hBusy, hDma, hOut⟩, fun hq => ⟨_, hRun.trans (congrArg _ (bufReleaseFinish_ends (by rw [hIs]) rfl ?_)), ?_⟩⟩
  · rw [hQuiet]
    exact hq
  · rw [hQuiet]
    exact hq
  · refine bufBack_of hBme (by rw [hMail]; exact begun_bufs ctx 0x71 s) (fun y hy => ⟨some ctx, by rw [hCtx, hy]; rfl⟩) (by rw [hIs])
      (page_of_dma hDma) fun i => congrArg (fun z : Front => tfind z.items i) hFront

theorem exec_bufReleaseComplete (hl : live s = true) (g : FuncId) :
    exec (.bufReleaseComplete g h ep) s = .next (bufReleaseFinish g.val h ep s) :=
  runs_of_guard (o := execBufReleaseComplete g h ep s) (s := s) (f := bufReleaseFinish g.val h ep) rfl hl

theorem bufReleaseComplete_does (hl : live s = true) :
    (∀ g : FuncId, ((bufCtx s h ep).releasing = none ∨ g.val ≠ sender ctx.chan ∨ epQuiet s h ep = false) →
      (bufCtx s h ep).releasing = some ctx ∨ (bufCtx s h ep).releasing = none → exec (.bufReleaseComplete g h ep) s = .next s)
    ∧ (∀ g : FuncId, g.val = sender ctx.chan → (bufCtx s h ep).releasing = some ctx → epQuiet s h ep = true →
      ∃ t, exec (.bufReleaseComplete g h ep) s = .next t ∧ BufBack ctx h ep s t) := by
  refine ⟨fun g hWhy hRel => ?_, fun g hg hRel hq => ⟨_, (exec_bufReleaseComplete hl g).trans (congrArg _
    ((congrArg (fun f => bufReleaseFinish f h ep s) hg).trans (bufReleaseFinish_ends hRel rfl hq))), ?_⟩⟩
  · rw [exec_bufReleaseComplete hl, bufReleaseFinish_waits (ctx := ctx) ?_]
    rcases hRel with hSome | hNone
    · exact Or.inr ⟨hSome, hWhy.resolve_left fun h => Option.some_ne_none _ (hSome.symm.trans h)⟩
    · exact Or.inl hNone
  · exact bufBack_of (fun _ => rfl) ⟨rfl, rfl⟩ (fun y hy => ⟨y.releasing, hy⟩) rfl (fun _ => rfl) fun _ => rfl

/-! ### Scrubs (R313) -/

theorem exec_pageScrubDone {p : Fin 3950} (hl : live s = true) (hq : pageQuiet s p.val = true) :
    exec (.pageScrubDone p) s = .next (scrubbed p.val s) :=
  runs_of_guard (o := execPageScrubDone p s) (s := s) (f := scrubbed p.val) rfl (by rw [hl, hq]; rfl)

/-- The owner to which a page goes once it is zeroed. -/
def scrubOwner (y : Page) : Page := match y.owner with | some f => ⟨.carved, some f, none⟩ | none => ⟨.free, none, none⟩

theorem scrubbed_eq (p : Nat) (s : State) : scrubbed p s =
    if (page s p).state = .scrubbing then zeroPage p (setPage p (scrubOwner (page s p)) s) else s :=
  ite_congr (by rw [beq_iff_eq]) (fun _ => rfl) fun _ => rfl

theorem pageScrubDone_zeroes {p : Fin 3950} (hl : live s = true) (hq : pageQuiet s p.val = true)
    (hs : (page s p.val).state = .scrubbing) : ∃ t, exec (.pageScrubDone p) s = .next t
      ∧ page t p.val = scrubOwner (page s p.val) ∧ (∀ k, k ≠ p.val → page t k = page s k)
      ∧ (∀ a, mget t.dma.buf a = if p.val * 4096 ≤ a ∧ a < p.val * 4096 + 4096 then 0 else mget s.dma.buf a)
      ∧ (∀ b, b ∈ t.dma.bad ↔ b ∈ s.dma.bad ∧ b.1 ≠ p.val) ∧ Frame [.dma] s t := by
  have hRun := exec_pageScrubDone hl hq
  rw [scrubbed_eq, if_pos hs] at hRun
  refine ⟨_, hRun, (page_setPage _ _ _ s).trans (if_pos rfl), fun k hk => (page_setPage _ _ _ s).trans (if_neg hk),
    fun a => mget_mclear _ _ _ a, fun b => List.mem_filter.trans (and_congr_right fun _ => bne_iff_ne),
    fun _ hb => zeroPage_keeps _ (setPage_keeps _ _ (Keeps.refl _ s) hb) hb⟩

/-! ### ECC visits (R314) -/

theorem exec_eccScrubVisit {p : Fin 4014} {k : Fin 512} {bad : EccResult} (hl : live s = true) :
    exec (.eccScrubVisit p k bad) s = .next (scrubVisit p.val k.val bad s) :=
  runs_of_guard (o := execEccScrubVisit p k bad s) (s := s) (f := scrubVisit p.val k.val bad) rfl hl

/-- The word is known as one that cannot be corrected. -/
def wordBad (p k : Nat) (s : State) : State := { s with dma := { s.dma with bad := s.dma.bad ++ [(p, k)] } }

theorem countError_stopped {c i kind : Nat} (hs : stoppedCounting s c i = true) : countError c i kind s = s := by
  unfold countError
  rw [hs, if_pos rfl]

/-- What the statement says of an error that is counted below its threshold. -/
theorem tallied_counts (i kind : Nat) (s : State) : (errClass (tallied 0 i kind s) 0).total = (errClass s 0).total + 1
    ∧ tget 0 (errClass (tallied 0 i kind s) 0).counts i = tget 0 (rolledClass s 0).counts i + 1
    ∧ (tallied 0 i kind s).err.last = BitVec.ofNat 64 (0 + kind * 2 ^ 4 + i * 2 ^ 8 + epoch32 s 0 * 2 ^ 32) := by
  rw [tallied_class]
  exact ⟨rfl, tget_tput_same _ _ _ _, rfl⟩

theorem notStopped_of {c i : Nat} (hs : stoppedCounting s c i = false) : i ∉ (errClass s c).stopped := fun h =>
  ne_true_of_eq_false hs (List.contains_iff_mem.2 h)

theorem eccVisit_does (hl : live s = true) (p : Fin 4014) (k : Fin 512) :
    exec (.eccScrubVisit p k .good) s = .next s
    ∧ (stoppedCounting s 0 p.val = true → exec (.eccScrubVisit p k .correctable) s = .next s
      ∧ exec (.eccScrubVisit p k .uncorrectable) s = .next (wordBad p.val k.val s))
    ∧ (stoppedCounting s 0 p.val = false → tget 0 (rolledClass s 0).counts p.val + 1 < errT (errClass s 0) →
      exec (.eccScrubVisit p k .correctable) s = .next (tallied 0 p.val 0 s)
      ∧ exec (.eccScrubVisit p k .uncorrectable) s = .next (tallied 0 p.val 1 (wordBad p.val k.val s))) := by
  refine ⟨exec_eccScrubVisit hl, fun hs => ⟨?_, ?_⟩, fun hs hn => ⟨?_, ?_⟩⟩
  · exact (exec_eccScrubVisit hl).trans (congrArg _ (countError_stopped hs))
  · exact (exec_eccScrubVisit hl).trans (congrArg _ (countError_stopped (s := wordBad p.val k.val s) hs))
  · exact (exec_eccScrubVisit hl).trans (congrArg _ (count_below 0 p.val 0 s (notStopped_of hs) hn))
  · exact (exec_eccScrubVisit hl).trans (congrArg _ (count_below 0 p.val 1 (wordBad p.val k.val s) (notStopped_of hs) hn))

/-! ### The switch of the context table (R234) -/

/-- The state in which the context table is on. -/
def ctxOn (s : State) : State := { s with front := { s.front with ctxEn := true } }

/-- A port that waited for the table is enabled. -/
def enableWaiting (p : Fin 64) (u : State) : State :=
  if (port u p.val).wantEnable then portEnableOp p (modPort p.val (fun x => { x with wantEnable := false }) u) else u

theorem exec_dspCtxCtlWrite (hr : hostReaches s 0 = true) (x : U32) : exec (.dspCtxCtlWrite x) s = .next (ctxCtlWrite x s) :=
  runs_of_guard (o := execDspCtxCtlWrite x s) (s := s) (f := ctxCtlWrite x) rfl hr

theorem each_id {α : Type} (l : List α) (f : α → State → State) (hf : ∀ a ∈ l, f a s = s) : each l f s = s := by
  induction l with
  | nil => rfl
  | cons a l ih =>
    rw [each_cons, hf a List.mem_cons_self]
    exact ih fun b hb => hf b (List.mem_cons_of_mem a hb)

theorem ctxCtlWrite_on {x : U32} (hb : bit x 0 = true) : ctxCtlWrite x s =
    if s.front.ctxBase = 0 ∨ s.front.ctxEn = true then s else each (List.finRange 64) enableWaiting (ctxOn s) := by
  unfold ctxCtlWrite
  rw [if_pos hb]
  exact ite_congr (by rw [Bool.or_eq_true, decide_eq_true_iff]) (fun _ => rfl) fun _ => rfl

theorem ctxCtl_does (hr : hostReaches s 0 = true) (x : U32) :
    (bit x 0 = true → (s.front.ctxBase = 0 ∨ s.front.ctxEn = true) → exec (.dspCtxCtlWrite x) s = .next s)
    ∧ (bit x 0 = true → s.front.ctxBase ≠ 0 → s.front.ctxEn = false → (∀ p < 64, (port s p).wantEnable = false) →
      exec (.dspCtxCtlWrite x) s = .next (ctxOn s))
    ∧ (bit x 0 = true → s.front.ctxBase ≠ 0 → s.front.ctxEn = false →
      exec (.dspCtxCtlWrite x) s = .next (each (List.finRange 64) enableWaiting (ctxOn s)))
    ∧ (bit x 0 = false → exec (.dspCtxCtlWrite x) s
      = .next (if ctxUnused s then { s with front := { s.front with ctxEn := false } } else s)) := by
  have hOn : bit x 0 = true → s.front.ctxBase ≠ 0 → s.front.ctxEn = false →
      exec (.dspCtxCtlWrite x) s = .next (each (List.finRange 64) enableWaiting (ctxOn s)) := fun hb h0 he => by
    rw [exec_dspCtxCtlWrite hr, ctxCtlWrite_on hb, if_neg fun hOr => hOr.elim h0 (ne_true_of_eq_false he)]
  refine ⟨fun hb hOr => ?_, fun hb h0 he hNone => ?_, hOn, fun hb => ?_⟩
  · rw [exec_dspCtxCtlWrite hr, ctxCtlWrite_on hb, if_pos hOr]
  · rw [hOn hb h0 he, each_id _ _ fun p _ => ?_]
    exact if_neg (ne_true_of_eq_false (hNone p.val p.isLt))
  · rw [exec_dspCtxCtlWrite hr]
    unfold ctxCtlWrite
    rw [if_neg (ne_true_of_eq_false hb)]

/-- What the statement says of the refusals. -/
theorem bufCommands_refused (hl : live s = true) :
    (bufRefusal s (sender ctx.chan) h ep ≠ 0 → BufRefused ctx (.bufCarve ctx h ep) 0x70 (bufRefusal s (sender ctx.chan) h ep) s
      ∧ BufRefused ctx (.bufRelease ctx h ep) 0x71 (bufRefusal s (sender ctx.chan) h ep) s)
    ∧ (bufRefusal s (sender ctx.chan) h ep = 0 → (bufCtx s h ep).pages ≠ [] → BufRefused ctx (.bufCarve ctx h ep) 0x70 4 s)
    ∧ (bufRefusal s (sender ctx.chan) h ep = 0 → (bufCtx s h ep).pages = [] →
      (freeCarve s (sender ctx.chan)).length < dedicatedPages (bufCtx s h ep) → BufRefused ctx (.bufCarve ctx h ep) 0x70 3 s)
    ∧ (bufRefusal s (sender ctx.chan) h ep = 0 → ((bufCtx s h ep).pages = [] ∨ (bufCtx s h ep).releasing ≠ none) →
      BufRefused ctx (.bufRelease ctx h ep) 0x71 5 s) := by
  have hCarve := (exec_bufCarve (ctx := ctx) (h := h) (ep := ep) hl).trans (congrArg _ (bufCarveCmd_eq ctx h ep s))
  have hRelease := (exec_bufRelease (ctx := ctx) (h := h) (ep := ep) hl).trans (congrArg _ (bufReleaseCmd_eq ctx h ep s))
  refine ⟨fun h0 => ?_, fun h0 hp => ?_, fun h0 hp hn => ?_, fun h0 hOr => ?_⟩
  · rw [if_pos h0] at hCarve hRelease
    exact ⟨bufRefused_of hCarve, bufRefused_of hRelease⟩
  · rw [if_neg (not_not.2 h0), if_pos hp] at hCarve
    exact bufRefused_of hCarve
  · rw [if_neg (not_not.2 h0), if_neg (not_not.2 hp), if_pos hn] at hCarve
    exact bufRefused_of hCarve
  · rw [if_neg (not_not.2 h0), if_pos hOr] at hRelease
    exact bufRefused_of hRelease

end

/-! ### The obligation -/

/-- Settles O52: carve, release, scrub, visit and switch, each by a lemma of its own over what the command leaves.. -/
theorem bufferMemory : Obligations.BufferMemory := by
  intro s hl
  refine ⟨fun ctx h ep => ?_, fun p hq => ⟨fun hs => ?_, pageScrubDone_zeroes hl hq⟩, fun p k => ?_, fun x hr => ctxCtl_does hr x⟩
  · obtain ⟨hIdle, hDone⟩ := bufReleaseComplete_does (ctx := ctx) (h := h) (ep := ep) hl
    obtain ⟨hBarred, hTaken, hShort, hFree⟩ := bufCommands_refused (ctx := ctx) (h := h) (ep := ep) hl
    exact ⟨hBarred, hTaken, hShort, fun h0 hp hn => bufCarve_carves hl h0 hp hn, hFree,
      fun h0 hp hr => (bufRelease_does hl h0 hp hr).1, fun h0 hp hr => (bufRelease_does hl h0 hp hr).2, hIdle, hDone⟩
  · rw [exec_pageScrubDone hl hq, scrubbed_eq, if_neg hs]
  · obtain ⟨hGood, hStopped, hCounts⟩ := eccVisit_does hl p k
    refine ⟨hGood, hStopped, fun hs hn => ?_⟩
    obtain ⟨hSoft, hHard⟩ := hCounts hs hn
    exact ⟨⟨_, hSoft, tallied_counts p.val 0 s⟩, ⟨_, hHard, tallied_counts p.val 1 (wordBad p.val k.val s)⟩⟩

end Sys2Proof.Machine
end


section
/-! PROOFS. The function commands that take and show resources: VF_CREATE, FUNC_MODIFY, FUNC_QUERY and DEV_QUERY (R324 to
R329, R335). -/

namespace Sys2Proof.Machine

section
variable {s t u v w : State} {ctx : CmdCtx} {d : FuncDesc}

/-! ### Answers (R326) -/

/-- What the statement says of a command that is answered and changes nothing of the devices, pages and entries. -/
def OnlyAnswered (ctx : CmdCtx) (c : Instr) (code : Nat) (b : List Byte) (s : State) : Prop :=
  ∃ t, exec c s = .next t ∧ Answered ctx code b s t ∧ t.topo = s.topo ∧ t.dma = s.dma ∧ t.front = s.front

theorem onlyAnswered_of {c : Instr} {code : Nat} {b : List Byte} (h : exec c s = .next (reply ctx code b (begun ctx code s))) :
    OnlyAnswered ctx c code b s :=
  ⟨_, h, (answered_at_once ctx code b s).1, reply_topo ctx code b _, reply_dma ctx code b _, reply_front ctx code b _⟩

theorem funcReply_begun (code r o f : Nat) : funcReply (begun ctx code s) r o f = funcReply s r o f := rfl

/-- What the statement says of a command that is answered from the state `u` in which it is done. -/
theorem funcReply_answers {code f : Nat} (hBme : ∀ g, (fn u g).bme = (fn s g).bme) (hMail : u.mail = (begun ctx code s).mail) :
    Answered ctx code (funcReply u 0 0 f) s (reply ctx code (funcReply u 0 0 f) u) :=
  answered_from (reply_answered ctx code _ u) hBme (by rw [hMail]; exact begun_bufs ctx code s)

/-! ### VF_CREATE (R327) -/

/-- The refusal of a command by its sender, or else by its own rules. -/
def refusalOf (s : State) (ctx : CmdCtx) (own : Nat × Nat) : Nat × Nat := if funcBar s ctx ≠ 0 then (funcBar s ctx, 0) else own

theorem refusalOf_barred {own : Nat × Nat} (h : funcBar s ctx ≠ 0) : refusalOf s ctx own = (funcBar s ctx, 0) := if_pos h

theorem refusalOf_own {own : Nat × Nat} (h : funcBar s ctx = 0) : refusalOf s ctx own = own := if_neg (not_not.2 h)

/-- The function that a descriptor creates. -/
def createdFunc (d : FuncDesc) (x : Func) : Func :=
  takeSettings d (fun _ => true) { x with created := true, nSq := d.nSQ.toNat, nCr := d.nCR.toNat, nVec := d.nVec.toNat }

/-- The state in which a VF has been created. -/
def createdIn (ctx : CmdCtx) (d : FuncDesc) (s : State) : State :=
  modFn d.func.toNat (createdFunc d)
    (scrubPages (freePages s d.pages.toNat) (some d.func.toNat) (begun ctx 0x80 s))

theorem vfCreateOp_eq (ctx : CmdCtx) (d : FuncDesc) (s : State) : vfCreateOp ctx d s =
    if (refusalOf s ctx (createRefusal s d)).1 ≠ 0 then
      reply ctx 0x80 (funcReply s (refusalOf s ctx (createRefusal s d)).1 (refusalOf s ctx (createRefusal s d)).2 d.func.toNat)
        (begun ctx 0x80 s)
    else reply ctx 0x80 (funcReply (createdIn ctx d s) 0 0 d.func.toNat) (createdIn ctx d s) := by
  have hRef : (if funcBar (begun ctx 0x80 s) ctx != 0 then (funcBar (begun ctx 0x80 s) ctx, 0) else createRefusal (begun ctx 0x80 s) d)
      = refusalOf s ctx (createRefusal s d) := ite_congr (by rw [bne_iff_ne]; rfl) (fun _ => rfl) fun _ => rfl
  unfold vfCreateOp
  dsimp only
  rw [hRef]
  exact ite_congr (by rw [bne_iff_ne]) (fun _ => rfl) fun _ => rfl

theorem exec_vfCreate (hl : live s = true) : exec (.vfCreate ctx d) s = .next (vfCreateOp ctx d s) :=
  runs_of_guard (o := execVfCreate ctx d s) (s := s) (f := vfCreateOp ctx d) rfl hl

theorem scrubPages_page (l : List Nat) (dst : Option Nat) (v : State) (p : Nat) :
    page (scrubPages l dst v) p = if p ∈ l then ⟨.scrubbing, dst, none⟩ else page v p := page_each l _ v p

theorem createdIn_does (ctx : CmdCtx) (d : FuncDesc) (s : State) : (createdIn ctx d s).mail = (begun ctx 0x80 s).mail
    ∧ fn (createdIn ctx d s) d.func.toNat = createdFunc d (fn s d.func.toNat)
    ∧ (∀ g, g ≠ d.func.toNat → fn (createdIn ctx d s) g = fn s g)
    ∧ ∀ p, page (createdIn ctx d s) p
      = if p ∈ freePages s d.pages.toNat then ⟨.scrubbing, some d.func.toNat, none⟩ else page s p := by
  obtain ⟨w, hw⟩ : ∃ w, w = scrubPages (freePages s d.pages.toNat) (some d.func.toNat) (begun ctx 0x80 s) := ⟨_, rfl⟩
  have hFns : w.fns = s.fns := hw ▸ scrubPages_keeps (bl := .fns) _ _ (Keeps.refl .fns (begun ctx 0x80 s)) (by decide)
  have hMail : w.mail = (begun ctx 0x80 s).mail :=
    hw ▸ scrubPages_keeps (bl := .mail) _ _ (Keeps.refl .mail (begun ctx 0x80 s)) (by decide)
  have hPage : ∀ p, page w p = if p ∈ freePages s d.pages.toNat then ⟨.scrubbing, some d.func.toNat, none⟩ else page s p := fun p =>
    hw ▸ scrubPages_page _ _ (begun ctx 0x80 s) p
  unfold createdIn
  rw [← hw]
  refine ⟨hMail, ?_, fun g hg => ?_, hPage⟩
  · rw [fn_modFn, if_pos rfl, fn_of_fns hFns]
  · rw [fn_modFn, if_neg hg, fn_of_fns hFns]

/-- What the statement says of a VF_CREATE that is not refused. -/
theorem vfCreate_creates (hl : live s = true) (hb : funcBar s ctx = 0) (hr : (createRefusal s d).1 = 0) :
    ∃ u, exec (.vfCreate ctx d) s = .next (reply ctx 0x80 (funcReply u 0 0 d.func.toNat) u)
      ∧ Answered ctx 0x80 (funcReply u 0 0 d.func.toNat) s (reply ctx 0x80 (funcReply u 0 0 d.func.toNat) u)
      ∧ fn u d.func.toNat = createdFunc d (fn s d.func.toNat) ∧ (∀ g, g ≠ d.func.toNat → fn u g = fn s g)
      ∧ ∀ p, page u p = if p ∈ freePages s d.pages.toNat then ⟨.scrubbing, some d.func.toNat, none⟩ else page s p := by
  obtain ⟨hMail, hHere, hThere, hPage⟩ := createdIn_does ctx d s
  refine ⟨createdIn ctx d s, ?_, funcReply_answers (fun g => ?_) hMail, hHere, hThere, hPage⟩
  · rw [exec_vfCreate hl, vfCreateOp_eq, refusalOf_own hb, if_neg (not_not.2 hr)]
  · by_cases hg : g = d.func.toNat
    · rw [hg, hHere]
      rfl
    · rw [hThere g hg]

/-! ### FUNC_MODIFY (R329) -/

/-- The state in which the settings that MASK selects have been taken, and the pages moved. -/
def settledIn (ctx : CmdCtx) (d : FuncDesc) (s : State) : State :=
  modFn d.func.toNat (takeSettings d (fun b => bit d.mask b))
    (if bit d.mask 0 then setPages d.func.toNat d.pages.toNat (begun ctx 0x82 s) else begun ctx 0x82 s)

/-- The same with RES_CHANGE raised, where anything was selected. -/
def modifiedIn (ctx : CmdCtx) (d : FuncDesc) (s : State) : State :=
  if d.mask = 0 then settledIn ctx d s else raiseVf d.func.toNat 1 (settledIn ctx d s)

theorem funcModifyOp_eq (ctx : CmdCtx) (d : FuncDesc) (s : State) : funcModifyOp ctx d s =
    if (refusalOf s ctx (modifyRefusal s d)).1 ≠ 0 then
      reply ctx 0x82 (funcReply s (refusalOf s ctx (modifyRefusal s d)).1 (refusalOf s ctx (modifyRefusal s d)).2 d.func.toNat)
        (begun ctx 0x82 s)
    else reply ctx 0x82 (funcReply (modifiedIn ctx d s) 0 0 d.func.toNat) (modifiedIn ctx d s) := by
  have hRef : (if funcBar (begun ctx 0x82 s) ctx != 0 then (funcBar (begun ctx 0x82 s) ctx, 0) else modifyRefusal (begun ctx 0x82 s) d)
      = refusalOf s ctx (modifyRefusal s d) := ite_congr (by rw [bne_iff_ne]; rfl) (fun _ => rfl) fun _ => rfl
  have hDone : (if d.mask == 0 then settledIn ctx d s else raiseVf d.func.toNat 1 (settledIn ctx d s)) = modifiedIn ctx d s :=
    ite_congr (by rw [beq_iff_eq]) (fun _ => rfl) fun _ => rfl
  unfold funcModifyOp
  dsimp only
  rw [hRef, show modFn d.func.toNat (takeSettings d fun b => bit d.mask b)
    (if bit d.mask 0 = true then setPages d.func.toNat d.pages.toNat (begun ctx 0x82 s) else begun ctx 0x82 s) = settledIn ctx d s from rfl,
    hDone]
  exact ite_congr (by rw [bne_iff_ne]) (fun _ => rfl) fun _ => rfl

theorem exec_funcModify (hl : live s = true) : exec (.funcModify ctx d) s = .next (funcModifyOp ctx d s) :=
  runs_of_guard (o := execFuncModify ctx d s) (s := s) (f := funcModifyOp ctx d) rfl hl

theorem setPages_page (f n : Nat) (v : State) (p : Nat) : page (setPages f n v) p =
    if p ∈ freePages v (n - (ownedPages v f).length) then ⟨.scrubbing, some f, none⟩
    else if p ∈ (freeCarve v f).take ((ownedPages v f).length - n) then ⟨.scrubbing, none, none⟩ else page v p := by
  unfold setPages
  dsimp only
  by_cases hn : (ownedPages v f).length ≤ n
  · rw [if_pos hn, scrubPages_page, Nat.sub_eq_zero_of_le hn]
    rfl
  · have hFree : freePages v (n - (ownedPages v f).length) = [] := by
      rw [Nat.sub_eq_zero_of_le (Nat.le_of_not_le hn)]
      rfl
    rw [if_neg hn, scrubPages_page, hFree]
    rfl

theorem raiseVf_same (f b : Nat) (v : State) : SameFuncs v (raiseVf f b v) := by
  unfold raiseVf
  split
  · split
    · exact sameFuncs_refl _
    · exact raise_sameFuncs _ _ _
  · exact sameFuncs_refl _

theorem raiseVf_bit {f b : Nat} (h0 : f ≠ 0) (hf : f < 128) (hb : b < 32) (v : State) :
    bit (evtWord (raiseVf f b v) (384 + f)) b = true := by
  unfold raiseVf
  rw [dif_pos hf, if_neg h0]
  exact raise_bit (.vf ⟨f, hf⟩) b hb v

theorem modifiedIn_does (ctx : CmdCtx) (d : FuncDesc) (s : State) : (modifiedIn ctx d s).mail = (begun ctx 0x82 s).mail
    ∧ (∀ g, (fn (modifiedIn ctx d s) g).bme = (fn s g).bme)
    ∧ { fn (modifiedIn ctx d s) d.func.toNat with vecs := [] }
      = { takeSettings d (fun b => bit d.mask b) (fn s d.func.toNat) with vecs := [] }
    ∧ (d.mask ≠ 0 → d.func.toNat ≠ 0 → d.func.toNat < 128 → bit (evtWord (modifiedIn ctx d s) (384 + d.func.toNat)) 1 = true)
    ∧ ∀ p, page (modifiedIn ctx d s) p = if bit d.mask 0 = false then page s p
      else if p ∈ freePages s (d.pages.toNat - (ownedPages s d.func.toNat).length) then ⟨.scrubbing, some d.func.toNat, none⟩
      else if p ∈ (freeCarve s d.func.toNat).take ((ownedPages s d.func.toNat).length - d.pages.toNat) then ⟨.scrubbing, none, none⟩
      else page s p := by
  obtain ⟨w, hw⟩ : ∃ w, w = (if bit d.mask 0 then setPages d.func.toNat d.pages.toNat (begun ctx 0x82 s) else begun ctx 0x82 s) := ⟨_, rfl⟩
  have hRest : w.fns = s.fns ∧ w.mail = (begun ctx 0x82 s).mail := by
    rw [hw]
    split
    · exact ⟨setPages_keeps (bl := .fns) _ _ (Keeps.refl .fns (begun ctx 0x82 s)) (by decide),
        setPages_keeps (bl := .mail) _ _ (Keeps.refl .mail (begun ctx 0x82 s)) (by decide)⟩
    · exact ⟨rfl, rfl⟩
  have hPage : ∀ p, page w p = if bit d.mask 0 = false then page s p
      else if p ∈ freePages s (d.pages.toNat - (ownedPages s d.func.toNat).length) then ⟨.scrubbing, some d.func.toNat, none⟩
      else if p ∈ (freeCarve s d.func.toNat).take ((ownedPages s d.func.toNat).length - d.pages.toNat) then ⟨.scrubbing, none, none⟩
      else page s p := fun p => by
    cases hb : bit d.mask 0 with
    | false =>
      rw [hw, hb]
      rfl
    | true =>
      rw [hw, hb, if_pos rfl, if_neg Bool.true_eq_false.mp]
      exact setPages_page _ _ (begun ctx 0x82 s) p
  have hSettled : settledIn ctx d s = modFn d.func.toNat (takeSettings d fun b => bit d.mask b) w := by
    rw [hw]
    rfl
  have hSame : SameFuncs (settledIn ctx d s) (modifiedIn ctx d s) := by
    unfold modifiedIn
    split
    · exact sameFuncs_refl _
    · exact raiseVf_same _ _ _
  have hKept : (modifiedIn ctx d s).mail = (settledIn ctx d s).mail ∧ (modifiedIn ctx d s).dma = (settledIn ctx d s).dma := by
    unfold modifiedIn
    split
    · exact ⟨rfl, rfl⟩
    · exact ⟨raiseVf_keeps (bl := .mail) _ _ (Keeps.refl .mail _) (by decide),
        raiseVf_keeps (bl := .dma) _ _ (Keeps.refl .dma _) (by decide)⟩
  refine ⟨hKept.1.trans (by rw [hSettled]; exact hRest.2), fun g => ?_, ?_, fun hm h0 hf => ?_, fun p => ?_⟩
  · rw [hSame.proj Func.bme (fun _ _ => rfl) g, hSettled, fn_modFn]
    split
    · next hg => rw [hg, fn_of_fns hRest.1]; rfl
    · rw [fn_of_fns hRest.1]
  · rw [hSame d.func.toNat, hSettled, fn_modFn, if_pos rfl, fn_of_fns hRest.1]
  · unfold modifiedIn
    rw [if_neg hm]
    exact raiseVf_bit h0 hf (by decide) _
  · rw [page_of_dma hKept.2, hSettled]
    exact hPage p

/-- What the statement says of a FUNC_MODIFY that is not refused. -/
theorem funcModify_modifies (hl : live s = true) (hb : funcBar s ctx = 0) (hr : (modifyRefusal s d).1 = 0) :
    exec (.funcModify ctx d) s = .next (reply ctx 0x82 (funcReply (modifiedIn ctx d s) 0 0 d.func.toNat) (modifiedIn ctx d s))
      ∧ Answered ctx 0x82 (funcReply (modifiedIn ctx d s) 0 0 d.func.toNat) s
        (reply ctx 0x82 (funcReply (modifiedIn ctx d s) 0 0 d.func.toNat) (modifiedIn ctx d s)) := by
  obtain ⟨hMail, hBme, -, -, -⟩ := modifiedIn_does ctx d s
  refine ⟨?_, funcReply_answers hBme hMail⟩
  rw [exec_funcModify hl, funcModifyOp_eq, refusalOf_own hb, if_neg (not_not.2 hr)]

/-- What the statement says of VF_CREATE and FUNC_MODIFY that are refused. -/
theorem funcCommands_refused (hl : live s = true) (d : FuncDesc) :
    (funcBar s ctx ≠ 0 → OnlyAnswered ctx (.vfCreate ctx d) 0x80 (funcReply s (funcBar s ctx) 0 d.func.toNat) s
      ∧ OnlyAnswered ctx (.funcModify ctx d) 0x82 (funcReply s (funcBar s ctx) 0 d.func.toNat) s)
    ∧ (funcBar s ctx = 0 → (createRefusal s d).1 ≠ 0 →
      OnlyAnswered ctx (.vfCreate ctx d) 0x80 (funcReply s (createRefusal s d).1 (createRefusal s d).2 d.func.toNat) s)
    ∧ (funcBar s ctx = 0 → (modifyRefusal s d).1 ≠ 0 →
      OnlyAnswered ctx (.funcModify ctx d) 0x82 (funcReply s (modifyRefusal s d).1 (modifyRefusal s d).2 d.func.toNat) s) := by
  have hCreate := (exec_vfCreate (ctx := ctx) (d := d) hl).trans (congrArg _ (vfCreateOp_eq ctx d s))
  have hModify := (exec_funcModify (ctx := ctx) (d := d) hl).trans (congrArg _ (funcModifyOp_eq ctx d s))
  refine ⟨fun hb => ?_, fun hb hr => ?_, fun hb hr => ?_⟩
  · rw [refusalOf_barred hb, if_pos hb] at hCreate hModify
    exact ⟨onlyAnswered_of hCreate, onlyAnswered_of hModify⟩
  · rw [refusalOf_own hb, if_pos hr] at hCreate
    exact onlyAnswered_of hCreate
  · rw [refusalOf_own hb, if_pos hr] at hModify
    exact onlyAnswered_of hModify

/-! ### FUNC_QUERY and DEV_QUERY (R324, R335) -/

theorem exec_funcQuery (hl : live s = true) (v : Byte) : exec (.funcQuery ctx v) s = .next (funcQueryOp ctx v.toNat s) :=
  runs_of_guard (o := execFuncQuery ctx v s) (s := s) (f := funcQueryOp ctx v.toNat) rfl hl

theorem funcQueryOp_eq (ctx : CmdCtx) (v : Nat) (s : State) : funcQueryOp ctx v s =
    reply ctx 0x83 (funcReply s (if funcBar s ctx ≠ 0 then funcBar s ctx else if v ≠ 0 ∧ vfThere s v = false then 2 else 0) 0 v)
      (begun ctx 0x83 s) := by
  have hRes : (if funcBar (begun ctx 0x83 s) ctx != 0 then funcBar (begun ctx 0x83 s) ctx
      else if v != 0 && !vfThere (begun ctx 0x83 s) v then 2 else 0)
      = if funcBar s ctx ≠ 0 then funcBar s ctx else if v ≠ 0 ∧ vfThere s v = false then 2 else 0 :=
    ite_congr (by rw [bne_iff_ne]; rfl) (fun _ => rfl) fun _ =>
      ite_congr (by rw [Bool.and_eq_true, bne_iff_ne, Bool.not_eq_true']; rfl) (fun _ => rfl) fun _ => rfl
  unfold funcQueryOp
  dsimp only
  rw [hRes, funcReply_begun]

theorem exec_devQuery (hl : live s = true) (f : Byte) (first : U16) :
    exec (.devQuery ctx f first) s = .next (devQueryOp ctx f.toNat first.toNat s) :=
  runs_of_guard (o := execDevQuery ctx f first s) (s := s) (f := devQueryOp ctx f.toNat first.toNat) rfl hl

/-- The sender asks about another function than itself, or has not been created. -/
def asksOther (s : State) (ctx : CmdCtx) (f : Nat) : Prop :=
  sender ctx.chan ≠ 0 ∧ (f ≠ sender ctx.chan ∨ (fn s (sender ctx.chan)).created = false)

/-- The devices that a DEV_QUERY shows. -/
def shownDevs (s : State) (f first : Nat) : List Nat := ((ownedHandles s f).drop first).take 64

/-- The reply body of a DEV_QUERY that is not refused. -/
def devBody (s : State) (f first : Nat) : List Byte :=
  [0, BitVec.ofNat 8 (shownDevs s f first).length] ++ natLE 2 (ownedHandles s f).length ++ zeros 12
    ++ (shownDevs s f first).flatMap (devRecord s)

open Classical in
theorem devQueryOp_eq (ctx : CmdCtx) (f first : Nat) (s : State) : devQueryOp ctx f first s = reply ctx 0x85
    (if asksOther s ctx f then BitVec.ofNat 8 1 :: zeros 15
      else if (fn s (sender ctx.chan)).cmdBusy = true then BitVec.ofNat 8 0x0B :: zeros 15
      else if f ≠ 0 ∧ vfThere s f = false then BitVec.ofNat 8 2 :: zeros 15
      else devBody s f first) (begun ctx 0x85 s) := by
  have hOther : (sender ctx.chan != 0 && (f != sender ctx.chan || !(fn (begun ctx 0x85 s) (sender ctx.chan)).created)) = true
      ↔ asksOther s ctx f := by
    rw [Bool.and_eq_true, Bool.or_eq_true, bne_iff_ne, bne_iff_ne, Bool.not_eq_true']
    rfl
  have hGone : (f != 0 && !vfThere (begun ctx 0x85 s) f) = true ↔ f ≠ 0 ∧ vfThere s f = false := by
    rw [Bool.and_eq_true, bne_iff_ne, Bool.not_eq_true']
    rfl
  unfold devQueryOp
  dsimp only
  by_cases h1 : asksOther s ctx f
  · rw [if_pos (hOther.2 h1), if_pos h1]
  · rw [if_neg fun h => h1 (hOther.1 h), if_neg h1]
    by_cases h2 : (fn s (sender ctx.chan)).cmdBusy = true
    · rw [if_pos (show (fn (begun ctx 0x85 s) (sender ctx.chan)).cmdBusy = true from h2), if_pos h2]
    · rw [if_neg (show ¬ (fn (begun ctx 0x85 s) (sender ctx.chan)).cmdBusy = true from h2), if_neg h2]
      by_cases h3 : f ≠ 0 ∧ vfThere s f = false
      · rw [if_pos (hGone.2 h3), if_pos h3]
      · rw [if_neg fun h => h3 (hGone.1 h), if_neg h3]
        rfl

/-- What the statement says of DEV_QUERY. -/
theorem devQuery_does (hl : live s = true) (f : Byte) (first : U16) :
    (asksOther s ctx f.toNat → OnlyAnswered ctx (.devQuery ctx f first) 0x85 (BitVec.ofNat 8 1 :: zeros 15) s)
    ∧ (¬ asksOther s ctx f.toNat → (fn s (sender ctx.chan)).cmdBusy = true →
      OnlyAnswered ctx (.devQuery ctx f first) 0x85 (BitVec.ofNat 8 0x0B :: zeros 15) s)
    ∧ (¬ asksOther s ctx f.toNat → (fn s (sender ctx.chan)).cmdBusy = false → f.toNat ≠ 0 → vfThere s f.toNat = false →
      OnlyAnswered ctx (.devQuery ctx f first) 0x85 (BitVec.ofNat 8 2 :: zeros 15) s)
    ∧ (¬ asksOther s ctx f.toNat → (fn s (sender ctx.chan)).cmdBusy = false → (f.toNat = 0 ∨ vfThere s f.toNat = true) →
      OnlyAnswered ctx (.devQuery ctx f first) 0x85 (devBody s f.toNat first.toNat) s) := by
  have hRun := (exec_devQuery (ctx := ctx) hl f first).trans (congrArg _ (devQueryOp_eq ctx f.toNat first.toNat s))
  refine ⟨fun h1 => ?_, fun h1 h2 => ?_, fun h1 h2 h3 h4 => ?_, fun h1 h2 h3 => ?_⟩
  · rw [if_pos h1] at hRun
    exact onlyAnswered_of hRun
  · rw [if_neg h1, if_pos h2] at hRun
    exact onlyAnswered_of hRun
  · rw [if_neg h1, if_neg (ne_true_of_eq_false h2), if_pos ⟨h3, h4⟩] at hRun
    exact onlyAnswered_of hRun
  · have hNot : ¬ (f.toNat ≠ 0 ∧ vfThere s f.toNat = false) := fun h => h3.elim h.1 (ne_true_of_eq_false h.2)
    rw [if_neg h1, if_neg (ne_true_of_eq_false h2), if_neg hNot] at hRun
    exact onlyAnswered_of hRun

end
end Sys2Proof.Machine
end


section
/-! PROOFS. The steps of a function's reset (R346, R350, R351): the function is not ready and busy, and its entries end
ABORTED_FLR. -/

namespace Sys2Proof.Machine

section
variable {s t u v w : State} {f i : Nat} {x : Item}

/-! ### The steps -/

/-- The step that marks the function and empties its rings. -/
def flrMarked (f : Nat) (s : State) : State :=
  modFn f (fun x => { x with
    ready := false, flrBusy := true, flrAt := now s, flrWritten := 0, flrCounted := 0
    flrSpill := ((fn s f).cr.flatMap fun e => e.2.waiting).length
    spilled := [], admitBusy := false, bufBusy := false
    cr := x.cr.map fun e => (e.1, { e.2 with waiting := [], spillHalt := false })
    sq := x.sq.map fun e => (e.1, { e.2 with reading := false }) }) s

/-- The items whose completions waited in the rings of the function. -/
def flrWaiting (f : Nat) (s : State) : List Nat := ((fn s f).cr.flatMap fun e => e.2.waiting).filterMap fun w => w.item

/-- The step that drops what waited, and the doorbell blocks still to be read. -/
def flrDropped (f : Nat) (s : State) : State :=
  { each (flrWaiting f s) freeItem (flrMarked f s) with
    front := { (each (flrWaiting f s) freeItem (flrMarked f s)).front with
      sweep := (each (flrWaiting f s) freeItem (flrMarked f s)).front.sweep.filter fun b => b.1 != f } }

/-- The step that ends the function's entries. -/
def flrAborted (f : Nat) (v : State) : State := each (itemsWhere v fun y => y.func == f && y.posted.isNone) abortFlr v

/-- The step that cancels its commands and its reservations. -/
def flrCancelled (f : Nat) (v : State) : State := dropRes (fun r => r.func == f && !hubRung v r) (cancelCmds f v)

/-- The step that gives back the pages of its contexts. -/
def flrFreed (f : Nat) (v : State) : State :=
  each (v.topo.ctx.filter fun e => e.2.owner == f && !e.2.pages.isEmpty) (fun e s => freeDedicated e.1 e.2 s) v

/-- The step that zeroes its pages. -/
def flrScrubbed (f : Nat) (v : State) : State :=
  scrubPages ((pagesWhere v fun p => p.owner == some f && (p.state == .carved || p.state == .assigned)).filter
    fun n => !((v.sch.shadow.filter fun e => hubRung v e.2).flatMap fun e => e.2.pages).contains n) (some f) v

/-- What the reset does behind the entries' ends. -/
def flrReleased (f : Nat) (v : State) : State := flrScrubbed f (flrFreed f (flrCancelled f v))

theorem flrBegin_eq (h : (fn s f).flrBusy = false) : flrBegin f s = flrReleased f (flrAborted f (flrDropped f s)) := by
  unfold flrBegin
  rw [if_neg (ne_true_of_eq_false h)]
  rfl

theorem flrBegin_merges (h : (fn s f).flrBusy = true) : flrBegin f s = s := if_pos h

/-! ### The function under reset -/

/-- What the reset says of its function. -/
def resetFlags (x : Func) : Bool × Bool := (x.flrBusy, x.ready)

theorem flags_of_fns (h : w.fns = v.fns) (g : Nat) : resetFlags (fn w g) = resetFlags (fn v g) := congrArg resetFlags (fn_of_fns h g)

theorem flags_modFn (k : Nat) (g : Func → Func) (hg : ∀ x, resetFlags (g x) = resetFlags x) (v : State) (f : Nat) :
    resetFlags (fn (modFn k g v) f) = resetFlags (fn v f) := by
  rw [fn_modFn]
  split
  · next h => rw [hg, h]
  · rfl

theorem flrMarked_flags (f : Nat) (s : State) : resetFlags (fn (flrMarked f s) f) = (true, false) := by
  unfold flrMarked
  rw [fn_modFn, if_pos rfl]
  rfl

theorem flrDropped_fns (f : Nat) (s : State) : (flrDropped f s).fns = (flrMarked f s).fns :=
  each_keeps (bl := .fns) (s0 := flrMarked f s) (flrWaiting f s) freeItem (fun i _ hv => freeItem_keeps (bl := .fns) i hv (by decide))
    (Keeps.refl .fns _)

theorem flrAborted_fns (f : Nat) (v : State) : (flrAborted f v).fns = v.fns :=
  each_keeps (bl := .fns) (s0 := v) _ abortFlr (fun i _ hv => abortFlr_keeps (bl := .fns) i hv (by decide)) (Keeps.refl .fns _)

/-- A function without the command that its destruction answers, where that command is the cancelled function's own. -/
def withoutDestroy (f : Nat) (x : Func) : Func :=
  match x.destroyCtx with
  | some c => if cameFrom f c then { x with destroyCtx := none } else x
  | none => x

theorem withoutDestroy_flags (f : Nat) (x : Func) : resetFlags (withoutDestroy f x) = resetFlags x := by
  unfold withoutDestroy
  split
  · split <;> rfl
  · rfl

theorem withoutDestroy_init (k f : Nat) : withoutDestroy k (funcInit f) = funcInit f := by
  by_cases h : f = 0
  · rw [h]
    rfl
  · rw [show funcInit f = { } from if_neg h]
    rfl

theorem cancelCmds_flags (k : Nat) (v : State) (f : Nat) : resetFlags (fn (cancelCmds k v) f) = resetFlags (fn v f) := by
  have hMap := tget_map (funcInit f) (withoutDestroy k) (withoutDestroy_init k f) v.fns.fn f
  unfold cancelCmds
  dsimp only
  rw [flags_modFn]
  · exact (congrArg resetFlags hMap).trans (withoutDestroy_flags k _)
  · exact fun _ => rfl

theorem flrCancelled_flags (k : Nat) (v : State) (f : Nat) : resetFlags (fn (flrCancelled k v) f) = resetFlags (fn v f) :=
  (flags_of_fns (dropRes_keeps (bl := .fns) _ (Keeps.refl .fns (cancelCmds k v)) (by decide)) f).trans (cancelCmds_flags k v f)

theorem freeDedicated_flags (k : Nat) (c : Ctx) (v : State) (f : Nat) :
    resetFlags (fn (freeDedicated k c v) f) = resetFlags (fn v f) := by
  obtain ⟨u, hu⟩ : ∃ u, u = returnPages c.pages (modCtx k (fun y => { y with pages := [], releasing := none }) v) := ⟨_, rfl⟩
  have hFns : u.fns = v.fns := hu ▸ returnPages_keeps (bl := .fns) _
    (modCtx_keeps (bl := .fns) k _ (Keeps.refl .fns v) (by decide)) (by decide)
  unfold freeDedicated
  dsimp only
  rw [← hu]
  split
  · rw [reply_proj resetFlags (fun _ _ _ => rfl) (fun _ _ => rfl), flags_modFn]
    · exact flags_of_fns hFns f
    · exact fun _ => rfl
  · exact flags_of_fns hFns f

theorem flrReleased_flags (k : Nat) (v : State) (f : Nat) : resetFlags (fn (flrReleased k v) f) = resetFlags (fn v f) := by
  unfold flrReleased flrScrubbed
  rw [flags_of_fns (scrubPages_keeps (bl := .fns) _ _ (Keeps.refl .fns (flrFreed k (flrCancelled k v))) (by decide)) f]
  unfold flrFreed
  rw [each_unchanged (fun z : State => resetFlags (fn z f)) _ _ (fun e _ z => freeDedicated_flags e.1 e.2 z f) _]
  exact flrCancelled_flags k v f

/-- A reset that begins leaves its function not ready and busy. -/
theorem flrBegin_flags (h : (fn s f).flrBusy = false) :
    (fn (flrBegin f s) f).flrBusy = true ∧ (fn (flrBegin f s) f).ready = false := by
  have hFlags : resetFlags (fn (flrBegin f s) f) = (true, false) := by
    rw [flrBegin_eq h, flrReleased_flags, flags_of_fns (flrAborted_fns f _), flags_of_fns (flrDropped_fns f s)]
    exact flrMarked_flags f s
  exact Prod.mk.inj hFlags

/-- A function is under reset behind the begin of its reset, whether that begins now or was under way. -/
theorem flrBegin_busy (f : Nat) (s : State) : (fn (flrBegin f s) f).flrBusy = true := by
  cases h : (fn s f).flrBusy with
  | true => rw [flrBegin_merges h, h]
  | false => exact (flrBegin_flags h).1

/-! ### Its entries -/

/-- The item of an entry that no DEV_ASSIGN has ended. -/
def Abortable (i : Nat) (v : State) : Prop :=
  (∃ y, item? v i = some y ∧ isOwn y = false) ∧ ∀ a ∈ v.front.assigns, i ∉ a.2.1

/-- The item has ended ABORTED_FLR, or ends so with its transaction. -/
def Aborted (i : Nat) (v : State) : Prop :=
  ∃ y, item? v i = some y ∧ ((y.status = some 0x0A ∧ y.awaitFin = false) ∨ (y.status = none ∧ y.stopAs = some 0x0A))

theorem modItem_assigns (i : Nat) (g : Item → Item) (v : State) : (modItem i g v).front.assigns = v.front.assigns := by
  unfold modItem
  split <;> rfl

theorem clearedIn_assigns (i : Nat) (st : Byte) (x : Item) (v : State) : (clearedIn i st x v).front.assigns = v.front.assigns := by
  unfold clearedIn
  split
  · exact modItem_assigns i _ (placedIn i st x v)
  · rfl

theorem stopItem_assigns (st : Byte) (j : Nat) (v : State) : (stopItem st j v).front.assigns = v.front.assigns := by
  unfold stopItem
  split
  · exact modItem_assigns j _ v
  · cases hj : item? v j with
    | none =>
      unfold finish
      rw [hj]
    | some y =>
      rw [finish_eq j st hj]
      split
      · rfl
      · split
        · exact (congrArg Front.assigns (flowOut_rest y.flow (clearedIn j st y v)).2.1).trans (clearedIn_assigns j st y v)
        · exact clearedIn_assigns j st y v

theorem abortFlr_assigns (j : Nat) (v : State) : (abortFlr j v).front.assigns = v.front.assigns := by
  unfold abortFlr
  split
  · rfl
  · rw [stopItem_assigns, modItem_assigns]

theorem abortFlr_others {j : Nat} (hj : i ≠ j) (v : State) : item? (abortFlr j v) i = item? v i := by
  unfold abortFlr
  split
  · rfl
  · rw [stopItem_others _ _ _ _ hj, item_modItem, if_neg hj]

/-- An entry that is aborted ends at once, or with its transaction. -/
theorem abortFlr_aborts (h : Abortable i v) : Aborted i (abortFlr i v) ∧ Abortable i (abortFlr i v) := by
  obtain ⟨⟨y, hy, ho⟩, hFree⟩ := h
  obtain ⟨u, hu⟩ : ∃ u, u = modItem i (fun x => { x with status := none, awaitFin := false, parked := none }) v := ⟨_, rfl⟩
  have hNow : item? u i = some { y with status := none, awaitFin := false, parked := none } := by
    rw [hu, item_modItem, if_pos rfl, hy]
    rfl
  have hIs : abortFlr i v = stopItem stAbortedFlr i u := by
    have hNone : (v.front.assigns.any fun a => a.2.1.contains i) = false := by
      rw [List.any_eq_false]
      intro a ha hi
      exact hFree a ha (List.contains_iff_mem.1 hi)
    unfold abortFlr
    rw [hNone, if_neg Bool.false_ne_true, hu]
  have hEnds : ∃ z, item? (stopItem stAbortedFlr i u) i = some z ∧ isOwn z = false
      ∧ ((z.status = some 0x0A ∧ z.awaitFin = false) ∨ (z.status = none ∧ z.stopAs = some 0x0A)) := by
    unfold stopItem
    split
    · exact ⟨_, (item_modItem i i _ u).trans ((if_pos rfl).trans (congrArg _ hNow)), ho, Or.inr ⟨rfl, rfl⟩⟩
    · obtain ⟨⟨z, hz, hSt, hFin, -, -, -, -⟩, -⟩ := finish_completed hNow ho (Or.inl rfl) stAbortedFlr
      obtain ⟨z', hz', hSame, -⟩ := finish_entry stAbortedFlr hNow ho
      rw [hz, Option.some.injEq] at hz'
      exact ⟨z, hz, (hz' ▸ hSame.own).trans ho, Or.inl ⟨hSt, hFin⟩⟩
  obtain ⟨z, hz, hzo, hzEnds⟩ := hEnds
  rw [hIs]
  refine ⟨⟨z, hz, hzEnds⟩, ⟨z, hz, hzo⟩, ?_⟩
  rw [stopItem_assigns, hu, modItem_assigns]
  exact hFree

theorem abortAll_aborts (l : List Nat) (hi : i ∈ l) (h : Abortable i v) : Aborted i (each l abortFlr v) := by
  have hStep : ∀ j, ∀ u : State, Abortable i u → Abortable i (abortFlr j u) := fun j u hu => by
    by_cases hj : i = j
    · exact hj ▸ (abortFlr_aborts hu).2
    · obtain ⟨⟨y, hy, ho⟩, hFree⟩ := hu
      refine ⟨⟨y, (abortFlr_others hj u).trans hy, ho⟩, ?_⟩
      rw [abortFlr_assigns]
      exact hFree
  have hEnded : ∀ j, ∀ u : State, Abortable i u ∧ Aborted i u → Abortable i (abortFlr j u) ∧ Aborted i (abortFlr j u) := fun j u hu => by
    refine ⟨hStep j u hu.1, ?_⟩
    by_cases hj : i = j
    · exact hj ▸ (abortFlr_aborts hu.1).1
    · obtain ⟨y, hy, hEnds⟩ := hu.2
      exact ⟨y, (abortFlr_others hj u).trans hy, hEnds⟩
  induction l generalizing v with
  | nil => cases hi
  | cons j l ih =>
    rw [each_cons]
    rcases List.mem_cons.1 hi with rfl | hi
    · have hNow := abortFlr_aborts h
      exact (each_preserves (fun u => Abortable i u ∧ Aborted i u) l _ (fun j _ => hEnded j) _ ⟨hNow.2, hNow.1⟩).2
    · exact ih hi (hStep j v h)

/-- What the reset does behind the entries' ends leaves the items as they are. -/
theorem flrReleased_items (f : Nat) (v : State) : (flrReleased f v).front.items = v.front.items := by
  have hFreed : ∀ u : State, (flrFreed f u).front = u.front := fun u =>
    each_keeps (bl := .front) (s0 := u) _ _ (fun e _ hv => freeDedicated_keeps (bl := .front) e.1 e.2 hv (by decide)) (Keeps.refl .front u)
  unfold flrReleased flrScrubbed
  calc (scrubPages _ _ (flrFreed f (flrCancelled f v))).front.items
    _ = (flrFreed f (flrCancelled f v)).front.items :=
      congrArg Front.items (scrubPages_keeps (bl := .front) _ _ (Keeps.refl .front _) (by decide))
    _ = (flrCancelled f v).front.items := congrArg Front.items (hFreed _)
    _ = (cancelCmds f v).front.items := congrArg Front.items (dropRes_keeps (bl := .front) _ (Keeps.refl .front _) (by decide))
    _ = v.front.items := rfl

/-- An item that waits in no ring of the function is there behind the drop, and no DEV_ASSIGN ends more than before. -/
theorem flrDropped_items (h : i ∉ flrWaiting f s) :
    item? (flrDropped f s) i = item? s i ∧ (flrDropped f s).front.assigns = s.front.assigns := by
  refine ⟨?_, ?_⟩
  · refine (each_unchanged (fun u : State => item? u i) (flrWaiting f s) freeItem (fun j hj u => ?_) (flrMarked f s)).trans rfl
    exact (item_delItem u j i).trans (if_neg fun hij : i = j => h (hij ▸ hj))
  · exact (each_unchanged (fun u : State => u.front.assigns) (flrWaiting f s) freeItem (fun _ _ _ => rfl) (flrMarked f s)).trans rfl

/-- What the statement says of the entries of a function under reset. -/
theorem flrBegin_aborts (h : (fn s f).flrBusy = false) (hi : item? s i = some x) (ho : isOwn x = false) (hf : x.func = f)
    (hp : x.posted = none) (hw : ∀ e ∈ (fn s f).cr, ∀ w ∈ e.2.waiting, w.item ≠ some i) (ha : ∀ a ∈ s.front.assigns, i ∉ a.2.1) :
    Aborted i (flrBegin f s) := by
  have hNot : i ∉ flrWaiting f s := fun hIn => by
    obtain ⟨w, hwIn, hwi⟩ := List.mem_filterMap.1 hIn
    obtain ⟨e, he, hwe⟩ := List.mem_flatMap.1 hwIn
    exact hw e he w hwe hwi
  obtain ⟨hHere, hAssigns⟩ := flrDropped_items hNot
  rw [hi] at hHere
  have hIn : i ∈ itemsWhere (flrDropped f s) fun y => y.func == f && y.posted.isNone :=
    mem_itemsWhere hHere (by rw [hf, hp, beq_self_eq_true]; rfl)
  obtain ⟨y, hy, hEnds⟩ := abortAll_aborts _ hIn ⟨⟨x, hHere, ho⟩, by rw [hAssigns]; exact ha⟩
  rw [flrBegin_eq h]
  refine ⟨y, ?_, hEnds⟩
  exact (congrArg (fun l : Tbl Item => tfind l i) (flrReleased_items f (flrAborted f (flrDropped f s)))).trans hy

end
end Sys2Proof.Machine
end


section
/-! PROOFS. VF_DESTROY and DEV_ASSIGN (R328, R331 to R337), and with them the function commands. -/

namespace Sys2Proof.Machine

section
variable {s t u v w : State} {ctx : CmdCtx}

/-! ### VF_DESTROY (R328) -/

/-- The refusal of a VF_DESTROY. -/
def destroyRefusal (s : State) (ctx : CmdCtx) (v : Nat) : Nat :=
  if funcBar s ctx ≠ 0 then funcBar s ctx else if v = 0 ∨ 128 ≤ v then 2 else if (fn s v).created = false then 4
  else if (fn s v).flrBusy = true then 0x0C else 0

/-- The state in which the reset that ends a VF has begun. -/
def destroyingIn (ctx : CmdCtx) (v : Nat) (s : State) : State :=
  modFn 0 (fun x => { x with cmdBusy := true })
    (modFn v (fun x => { x with destroy := true, destroyCtx := some ctx }) (flrBegin v (begun ctx 0x81 s)))

theorem vfDestroyOp_eq (ctx : CmdCtx) (v : Nat) (s : State) : vfDestroyOp ctx v s =
    if destroyRefusal s ctx v ≠ 0 then reply ctx 0x81 (funcReply s (destroyRefusal s ctx v) 0 v) (begun ctx 0x81 s)
    else destroyingIn ctx v s := by
  have hRef : (if funcBar (begun ctx 0x81 s) ctx != 0 then funcBar (begun ctx 0x81 s) ctx
      else if v = 0 || 128 ≤ v then 2 else if !(fn (begun ctx 0x81 s) v).created then 4
      else if (fn (begun ctx 0x81 s) v).flrBusy then 0x0C else 0) = destroyRefusal s ctx v :=
    ite_congr (by rw [bne_iff_ne]; rfl) (fun _ => rfl) fun _ =>
      ite_congr (by rw [Bool.or_eq_true, decide_eq_true_eq, decide_eq_true_eq]) (fun _ => rfl) fun _ =>
        ite_congr (by rw [Bool.not_eq_true']; rfl) (fun _ => rfl) fun _ => rfl
  unfold vfDestroyOp
  dsimp only
  rw [hRef]
  exact ite_congr (by rw [bne_iff_ne]) (fun _ => rfl) fun _ => rfl

theorem destroyingIn_does (ctx : CmdCtx) {v : Nat} (h0 : v ≠ 0) (s : State) :
    (fn (destroyingIn ctx v s) v).flrBusy = true ∧ (fn (destroyingIn ctx v s) v).destroy = true
      ∧ (fn (destroyingIn ctx v s) v).destroyCtx = some ctx ∧ (fn (destroyingIn ctx v s) 0).cmdBusy = true := by
  have hHere : fn (destroyingIn ctx v s) v
      = { fn (flrBegin v (begun ctx 0x81 s)) v with destroy := true, destroyCtx := some ctx } := by
    unfold destroyingIn
    rw [fn_modFn, if_neg h0, fn_modFn, if_pos rfl]
  refine ⟨by rw [hHere]; exact flrBegin_busy v _, by rw [hHere], by rw [hHere], ?_⟩
  unfold destroyingIn
  rw [fn_modFn, if_pos rfl]

/-- What the statement says of VF_DESTROY. -/
theorem vfDestroy_does (hl : live s = true) (v : Byte) :
    (destroyRefusal s ctx v.toNat ≠ 0 →
      OnlyAnswered ctx (.vfDestroy ctx v) 0x81 (funcReply s (destroyRefusal s ctx v.toNat) 0 v.toNat) s)
    ∧ (destroyRefusal s ctx v.toNat = 0 → ∃ t, exec (.vfDestroy ctx v) s = .next t ∧ (fn t v.toNat).flrBusy = true
      ∧ (fn t v.toNat).destroy = true ∧ (fn t v.toNat).destroyCtx = some ctx ∧ (fn t 0).cmdBusy = true) := by
  have hRun : exec (.vfDestroy ctx v) s = .next (vfDestroyOp ctx v.toNat s) :=
    runs_of_guard (o := execVfDestroy ctx v s) (s := s) (f := vfDestroyOp ctx v.toNat) rfl hl
  rw [vfDestroyOp_eq] at hRun
  refine ⟨fun hr => ?_, fun hr => ?_⟩
  · rw [if_pos hr] at hRun
    exact onlyAnswered_of hRun
  · rw [if_neg (not_not.2 hr)] at hRun
    refine ⟨_, hRun, destroyingIn_does ctx (fun h0 => ?_) s⟩
    unfold destroyRefusal at hr
    by_cases hBar : funcBar s ctx ≠ 0
    · rw [if_pos hBar] at hr
      exact hBar hr
    · rw [if_neg hBar, if_pos (Or.inl h0)] at hr
      exact absurd hr (by decide)

/-! ### The handle numbers of a device that moves (R93, R94, R331) -/

theorem EndsItems.handles (h : EndsItems v w) : w.topo.handle = v.topo.handle := by
  obtain ⟨_, _, _, _, _, rfl⟩ := h
  rfl

theorem modCtx_handles (k : Nat) (g : Ctx → Ctx) (v : State) : (modCtx k g v).topo.handle = v.topo.handle := by
  unfold modCtx
  split <;> rfl

theorem stopItem_handles (st : Byte) (i : Nat) (v : State) : (stopItem st i v).topo.handle = v.topo.handle := by
  unfold stopItem
  split
  · unfold modItem
    split <;> rfl
  · exact (finish_ends i st v).handles

theorem freeDedicated_handles (k : Nat) (c : Ctx) (v : State) : (freeDedicated k c v).topo.handle = v.topo.handle := by
  obtain ⟨u, hu⟩ : ∃ u, u = returnPages c.pages (modCtx k (fun y => { y with pages := [], releasing := none }) v) := ⟨_, rfl⟩
  have hTopo : u.topo.handle = v.topo.handle := by
    rw [hu, show (returnPages _ _).topo = _ from returnPages_keeps (bl := .topo) _ (Keeps.refl .topo _) (by decide), modCtx_handles]
  unfold freeDedicated
  dsimp only
  rw [← hu]
  split
  · rw [reply_topo]
    exact hTopo
  · exact hTopo

theorem setScript_handles (num n : Nat) (v : State) : (setScript num n v).topo.handle = v.topo.handle := by
  have hMod : ∀ g : Device → Device, (modDev num g v).topo.handle = v.topo.handle := fun g => by
    unfold modDev
    split <;> rfl
  unfold setScript
  dsimp only
  rw [each_unchanged (fun z : State => z.topo.handle) _ _ (fun k _ z =>
    congrArg Topo.handle (refreshWin_keeps (bl := .topo) k (Keeps.refl .topo z) (by decide))) _]
  exact hMod _

/-- The entry of a handle number that its device has left. -/
theorem leaveHandle_handle (m : Nat) (v : State) : ∃ l, ∀ k, handle (leaveHandle m v) k
    = if k = m then { handle v m with use := .waiting l, lastIdent := [] } else handle v k := by
  obtain ⟨stops, hStops⟩ : ∃ stops, stops = itemsWhere v fun x => match x.posted with
      | some b => b.handle == handleWord v m
      | none => eOpcode x.raw != 0 && eHandle x.raw == handleWord v m && x.status.isNone := ⟨_, rfl⟩
  obtain ⟨a, ha⟩ : ∃ a, a = each stops (stopItem stDeviceGone) v := ⟨_, rfl⟩
  obtain ⟨b, hb⟩ : ∃ b, b = setScript m 0 (endScripts m a) := ⟨_, rfl⟩
  obtain ⟨c, hc⟩ : ∃ c, c = each (b.topo.ctx.filter fun e => e.1 / 32 == m) (fun e s => freeDedicated e.1 e.2 s) b := ⟨_, rfl⟩
  have hA : a.topo.handle = v.topo.handle := by
    rw [ha]
    exact each_unchanged (fun z : State => z.topo.handle) _ _ (fun i _ z => stopItem_handles _ i z) v
  have hB : b.topo.handle = v.topo.handle := by
    rw [hb, setScript_handles]
    exact hA
  have hC : c.topo.handle = v.topo.handle := by
    rw [hc, each_unchanged (fun z : State => z.topo.handle) _ _ (fun e _ z => freeDedicated_handles e.1 e.2 z) b]
    exact hB
  have hIs : leaveHandle m v = modHandle m (fun h => { h with use := .waiting (recordSqs c (ownerOf v m)), lastIdent := [] }) c := by
    rw [hc, hb, ha, hStops]
    rfl
  refine ⟨recordSqs c (ownerOf v m), fun k => ?_⟩
  rw [hIs, handle_modHandle]
  split
  · rw [handle_of_handles hC]
  · exact handle_of_handles hC k

theorem takeHandle_handles {n : Nat} {v' : State} (h : takeHandle v = some (n, v')) : v'.topo.handle = v.topo.handle := by
  unfold takeHandle at h
  split at h
  · simp only [Option.some.injEq, Prod.mk.injEq] at h
    rw [← h.2]
  · split at h
    · simp only [Option.some.injEq, Prod.mk.injEq] at h
      rw [← h.2]
    · split at h
      · simp only [Option.some.injEq, Prod.mk.injEq] at h
        rw [← h.2]
      · cases h

/-- The numbers of a device that moves: the new one is live at its next generation for its owner, the old one waits. -/
def NumbersMoved (m n f : Nat) (s u : State) : Prop :=
  (handle u n).use = .live ∧ (handle u n).gen = (handle s n).gen + 1 ∧ ownerOf u n = f
    ∧ ∃ l, (handle u m).use = .waiting l ∧ (handle u m).gen = (handle s m).gen

theorem NumbersMoved.of_handles {m n f : Nat} (h : NumbersMoved m n f s v) (hw : w.topo.handle = v.topo.handle) : NumbersMoved m n f s w := by
  have hOwner : ownerOf w n = ownerOf v n := by
    unfold ownerOf ownerAt
    rw [handle_of_handles hw]
  unfold NumbersMoved
  rw [handle_of_handles hw n, handle_of_handles hw m, hOwner]
  exact h

theorem moveDevice_numbers {m n f : Nat} {v' : State} (ret : Bool) (ht : takeHandle v = some (n, v')) (hn : n ≠ m) :
    NumbersMoved m n f v (moveDevice m f ret v) := by
  obtain ⟨l, hLeft⟩ := leaveHandle_handle m v'
  have hTaken := takeHandle_handles ht
  obtain ⟨z, hz⟩ : ∃ z, z = enliven n f false (leaveHandle m v') := ⟨_, rfl⟩
  have hNew : handle z n = { handle v n with gen := (handle v n).gen + 1, use := .live
                                             owners := tput (handle v n).owners ((handle v n).gen + 1).toNat f } := by
    rw [hz]
    unfold enliven
    rw [handle_modHandle, if_pos rfl, hLeft, if_neg hn, handle_of_handles hTaken]
    rfl
  have hOld : handle z m = { handle v m with use := .waiting l, lastIdent := [] } := by
    rw [hz]
    unfold enliven
    rw [handle_modHandle, if_neg (Ne.symm hn), hLeft, if_pos rfl, handle_of_handles hTaken]
  have hHere : NumbersMoved m n f v z := by
    unfold NumbersMoved ownerOf ownerAt
    rw [hNew, hOld]
    exact ⟨rfl, rfl, by rw [tfind_tput, if_pos rfl]; rfl, l, rfl, rfl⟩
  unfold moveDevice
  rw [ht]
  subst hz
  exact hHere.of_handles rfl

/-! ### DEV_ASSIGN (R331 to R337) -/

/-- The items of the entries that name the old handles of devices that move. -/
def oldEntries (moves : List Nat) (s : State) : List Nat :=
  itemsWhere s fun x => x.posted.isNone && eOpcode x.raw != 0 && (moves.map (handleWord s)).contains (eHandle x.raw)

/-- The number that a device of `s` has in `u`. -/
def newNumber (num : Nat) (s u : State) : Nat :=
  match u.topo.dev.find? fun e => some e.2.loc == (dev? s num).map fun d => d.loc with
  | some e => e.1
  | none => num

/-- The state in which the devices have moved. -/
def devicesMoved (b : AssignBody) (s : State) : State :=
  each (assignMoves s b) (fun m => moveDevice m b.func.toNat (bit b.flags 2)) s

/-- The same with their functions told. -/
def assignMoved (b : AssignBody) (s : State) : State :=
  if (assignMoves s b).isEmpty then devicesMoved b s
  else refreshIso (devChange (b.func.toNat :: (assignMoves s b).map (ownerOf s)) (devicesMoved b s))

/-- The same with the error of a void domain raised. -/
def assignedIn (b : AssignBody) (s : State) (new : Nat) : State :=
  if bit b.flags 1 && !(assignMoves s b).isEmpty && isVoid (assignMoved b s) new then
    raise .vfr 1 { assignMoved b s with fns := { (assignMoved b s).fns with evtFunc := b.func.toNat } }
  else assignMoved b s

/-- The number of the device that a DEV_ASSIGN names, behind its move. -/
def assignedNumber (b : AssignBody) (s : State) : Nat :=
  newNumber (field b.handle 0 12) s (devicesMoved b s)

/-- The answer of a DEV_ASSIGN that is not refused, from the state in which it is done. -/
def assignAnswer (ctx : CmdCtx) (b : AssignBody) (s u : State) : State :=
  if (oldEntries (assignMoves s b) s).isEmpty then
    reply ctx 0x84 (assignReply 0 (assignMoves s b).length (handleWord u (assignedNumber b s))) u
  else modFn 0 (fun x => { x with cmdBusy := true }) { u with front := { u.front with
    assigns := u.front.assigns
      ++ [(ctx, oldEntries (assignMoves s b) s, assignReply 0 (assignMoves s b).length (handleWord u (assignedNumber b s)))] } }

theorem devAssignOp_eq (ctx : CmdCtx) (b : AssignBody) (s : State) : devAssignOp ctx b s =
    if assignRefusal s ctx b ≠ 0 then reply ctx 0x84 (assignReply (assignRefusal s ctx b) 0 0) (begun ctx 0x84 s)
    else assignAnswer ctx b (begun ctx 0x84 s) (assignedIn b (begun ctx 0x84 s) (assignedNumber b (begun ctx 0x84 s))) := by
  unfold devAssignOp
  dsimp only
  rw [show assignRefusal (begun ctx 0x84 s) ctx b = assignRefusal s ctx b from rfl]
  exact ite_congr (by rw [bne_iff_ne]) (fun _ => rfl) fun _ => rfl

theorem exec_devAssign (hl : live s = true) (b : AssignBody) : exec (.devAssign ctx b) s = .next (devAssignOp ctx b s) :=
  runs_of_guard (o := execDevAssign ctx b s) (s := s) (f := devAssignOp ctx b) rfl hl

theorem oldEntries_nil (s : State) : oldEntries [] s = [] := by
  unfold oldEntries itemsWhere
  rw [List.filter_eq_nil_iff.2]
  · rfl
  · simp

/-- A DEV_ASSIGN of devices that the function owns already changes nothing. -/
theorem assign_nothing {b : AssignBody} (hm : assignMoves s b = []) :
    assignAnswer ctx b s (assignedIn b s (assignedNumber b s))
      = reply ctx 0x84 (assignReply 0 0 (handleWord s (newNumber (field b.handle 0 12) s s))) s := by
  have hMoved : devicesMoved b s = s := by
    unfold devicesMoved
    rw [hm, each_nil]
  have hIn : ∀ k, assignedIn b s k = s := fun k => by
    unfold assignedIn assignMoved
    rw [hMoved, hm]
    simp
  unfold assignAnswer assignedNumber
  rw [hIn, hMoved, hm, oldEntries_nil]
  rfl

/-- The number by which the device of a place is found. -/
theorem newNumber_found {num : Nat} {d : Device} (hd : dev? s num = some d) :
    (s.topo.dev.find? fun e => e.2.loc == d.loc).map Prod.fst = some (newNumber num s s) := by
  have hFound : (s.topo.dev.find? fun e => e.2.loc == d.loc).isSome = true := by
    rw [List.find?_isSome]
    exact ⟨(num, d), mem_of_tfind hd, beq_self_eq_true _⟩
  have hSpot : (fun e : Nat × Device => some e.2.loc == (dev? s num).map fun d => d.loc) = fun e => e.2.loc == d.loc := by
    rw [hd]
    rfl
  unfold newNumber
  rw [hSpot]
  obtain ⟨e, he⟩ := Option.isSome_iff_exists.1 hFound
  rw [he]
  rfl

theorem takeHandle_begun {n code : Nat} {v' : State} (h : takeHandle s = some (n, v')) :
    ∃ z, takeHandle (begun ctx code s) = some (n, z) := by
  unfold takeHandle at h ⊢
  rw [show (begun ctx code s).topo = s.topo from rfl]
  revert h
  split
  · exact fun h => ⟨_, by rw [(Prod.mk.inj (Option.some.inj h)).1]⟩
  · split
    · exact fun h => ⟨_, by rw [(Prod.mk.inj (Option.some.inj h)).1]⟩
    · split
      · exact fun h => ⟨_, by rw [(Prod.mk.inj (Option.some.inj h)).1]⟩
      · exact fun h => absurd h (by simp)

theorem assignedIn_topo (b : AssignBody) (v : State) (k : Nat) : (assignedIn b v k).topo = (devicesMoved b v).topo := by
  have hMoved : (assignMoved b v).topo = (devicesMoved b v).topo := by
    unfold assignMoved
    split
    · rfl
    · exact refreshIso_keeps (bl := .topo) (devChange_keeps (bl := .topo) _ (Keeps.refl .topo _) (by decide)) (by decide)
  unfold assignedIn
  split
  · rw [raise_topo]
    exact hMoved
  · exact hMoved

/-- What the statement says of a DEV_ASSIGN that moves one device. -/
theorem devAssign_moves (hl : live s = true) {b : AssignBody} {m n : Nat} {v' : State} (hr : assignRefusal s ctx b = 0)
    (hm : assignMoves s b = [m]) (ht : takeHandle s = some (n, v')) (hn : n ≠ m) : ∃ u body l,
    (exec (.devAssign ctx b) s = .next (reply ctx 0x84 body u)
      ∨ ∃ waits, waits ≠ [] ∧ exec (.devAssign ctx b) s = .next (modFn 0 (fun x => { x with cmdBusy := true })
        { u with front := { u.front with assigns := u.front.assigns ++ [(ctx, waits, body)] } }))
      ∧ body.take 2 = [0, 1] ∧ (handle u n).use = .live ∧ (handle u n).gen = (handle s n).gen + 1 ∧ ownerOf u n = b.func.toNat
      ∧ (handle u m).use = .waiting l ∧ (handle u m).gen = (handle s m).gen := by
  obtain ⟨v, hv⟩ : ∃ v, v = begun ctx 0x84 s := ⟨_, rfl⟩
  have hMoves : assignMoves v b = [m] := hv ▸ hm
  obtain ⟨u, hu⟩ : ∃ u, u = assignedIn b v (assignedNumber b v) := ⟨_, rfl⟩
  have hRun : exec (.devAssign ctx b) s = .next (assignAnswer ctx b v u) := by
    rw [exec_devAssign hl, devAssignOp_eq, if_neg (not_not.2 hr), hu, hv]
  obtain ⟨z, hz⟩ := takeHandle_begun (ctx := ctx) (code := 0x84) ht
  have hNumbers : NumbersMoved m n b.func.toNat s u := by
    have hHere : NumbersMoved m n b.func.toNat v (devicesMoved b v) := by
      unfold devicesMoved
      rw [hMoves, each_cons, each_nil]
      exact moveDevice_numbers _ (hv ▸ hz) hn
    have hThere := hHere.of_handles (w := u) (by rw [hu, assignedIn_topo])
    rw [hv] at hThere
    exact hThere
  obtain ⟨hUse, hGen, hOwner, l, hOld, hOldGen⟩ := hNumbers
  refine ⟨u, assignReply 0 1 (handleWord u (assignedNumber b v)), l, ?_, rfl, hUse, hGen, hOwner, hOld, hOldGen⟩
  unfold assignAnswer at hRun
  rw [hMoves] at hRun
  by_cases hNone : (oldEntries [m] v).isEmpty = true
  · rw [if_pos hNone] at hRun
    exact Or.inl hRun
  · rw [if_neg hNone] at hRun
    exact Or.inr ⟨oldEntries [m] v, fun h => hNone (by rw [h]; rfl), hRun⟩

/-- What the statement says of a DEV_ASSIGN that is refused, or moves nothing. -/
theorem devAssign_stays (hl : live s = true) (b : AssignBody) :
    (assignRefusal s ctx b ≠ 0 → OnlyAnswered ctx (.devAssign ctx b) 0x84 (assignReply (assignRefusal s ctx b) 0 0) s)
    ∧ (assignRefusal s ctx b = 0 → assignMoves s b = [] → ∃ n, (∀ d, dev? s (field b.handle 0 12) = some d →
        (s.topo.dev.find? fun e => e.2.loc == d.loc).map Prod.fst = some n)
      ∧ OnlyAnswered ctx (.devAssign ctx b) 0x84 (assignReply 0 0 (handleWord s n)) s) := by
  have hRun := (exec_devAssign (ctx := ctx) hl b).trans (congrArg _ (devAssignOp_eq ctx b s))
  refine ⟨fun hr => ?_, fun hr hm => ⟨newNumber (field b.handle 0 12) s s, fun d hd => newNumber_found hd, ?_⟩⟩
  · rw [if_pos hr] at hRun
    exact onlyAnswered_of hRun
  · rw [if_neg (not_not.2 hr), assign_nothing (s := begun ctx 0x84 s) hm] at hRun
    exact onlyAnswered_of hRun

/-! ### The obligation -/

/-- Settles O53: each command is answered by its refusal, or done and answered from the state that its stages make. -/
theorem functionCommands : Obligations.FunctionCommands := by
  unfold Obligations.FunctionCommands
  intro s ctx hl
  refine ⟨fun d => ?_, fun v => ?_, vfDestroy_does hl, fun f first => devQuery_does hl f first, fun b => ?_⟩
  · obtain ⟨hBarred, hCreate, hModify⟩ := funcCommands_refused (ctx := ctx) hl d
    refine ⟨hBarred, hCreate, vfCreate_creates hl, hModify, fun hb hr => ?_⟩
    obtain ⟨hRun, hAnswer⟩ := funcModify_modifies hl hb hr
    obtain ⟨-, -, hDoes⟩ := modifiedIn_does ctx d s
    exact ⟨modifiedIn ctx d s, hRun, hAnswer, hDoes⟩
  · exact onlyAnswered_of ((exec_funcQuery hl v).trans (congrArg _ (funcQueryOp_eq ctx v.toNat s)))
  · obtain ⟨hRefused, hNothing⟩ := devAssign_stays (ctx := ctx) hl b
    exact ⟨hRefused, hNothing, fun m n v hr hm ht hn => devAssign_moves hl hr hm ht hn⟩

end
end Sys2Proof.Machine
end


section
/-! PROOFS. VF Enable, Bus Master Enable, the function resets and their last step (R318, R319, R345 to R351, R514). -/

namespace Sys2Proof.Machine

section
variable {s t u v w : State} {f i : Nat}

/-! ### Bus Master Enable (R514) -/

/-- Which functions may master the bus. -/
def masters (v : State) : Nat → Bool := fun k => (fn v k).bme

theorem masters_of_fns (h : w.fns = v.fns) : masters w = masters v := funext fun k => congrArg Func.bme (fn_of_fns h k)

theorem masters_of_same (h : SameFuncs v w) : masters w = masters v := funext fun k => h.proj Func.bme (fun _ _ => rfl) k

theorem masters_modFn (k : Nat) {g : Func → Func} (hg : ∀ x, (g x).bme = x.bme) (v : State) : masters (modFn k g v) = masters v := by
  funext j
  unfold masters
  rw [fn_modFn]
  split
  · next h => rw [hg, h]
  · rfl

theorem modCr_masters (f r : Nat) (g : Cr → Cr) (v : State) : masters (modCr f r g v) = masters v := by
  unfold modCr
  rw [masters_modFn]
  exact fun _ => rfl

theorem retireIndex_masters (f q : Nat) (x : U16) (v : State) : masters (retireIndex f q x v) = masters v := by
  unfold retireIndex modSq
  rw [masters_modFn]
  exact fun _ => rfl

theorem crWrite_masters (f r : Nat) (rec : WaitRec) (sp : Bool) (head : U16) (v : State) : masters (crWrite f r rec sp head v) = masters v := by
  have hFlush : masters (flushDirty f v) = masters v := funext fun k => flushDirty_proj Func.bme (fun _ _ _ => rfl) f v k
  have hWrite : ∀ a d (z : State), masters (hostWrite f a d z) = masters z := fun a d z =>
    funext fun k => hostWrite_proj Func.bme (fun _ _ _ => rfl) f a d z k
  have hCount : ∀ k (z : State), masters (countEvent f k z) = masters z := fun k z => masters_of_same (countEvent_sameFuncs f k z)
  unfold crWrite
  dsimp only
  split
  · rw [hCount, modCr_masters, hWrite, hFlush]
  · rw [modCr_masters, hWrite, hFlush]

theorem drainLoop_masters (f r n : Nat) (v : State) : masters (drainLoop f r n v) = masters v := by
  induction n generalizing v with
  | zero => rfl
  | succ n ih =>
    unfold drainLoop
    dsimp only
    split
    · rfl
    · next rec rest hWaits =>
      split
      · have hTaken : masters (modCr f r (fun y => { y with waiting := rest }) v) = masters v :=
          modCr_masters f r _ v
        split
        · rw [ih, crWrite_masters, masters_modFn]
          · exact hTaken
          · exact fun _ => rfl
        · split
          · rw [ih, masters_of_fns (freeItem_keeps (bl := .fns) _ (Keeps.refl .fns _) (by decide)), crWrite_masters]
            split
            · exact (retireIndex_masters _ _ _ _).trans hTaken
            · exact hTaken
          · rw [ih, crWrite_masters]
            exact hTaken
      · rfl

theorem crDrain_masters (f r : Nat) (v : State) : masters (crDrain f r v) = masters v := by
  unfold crDrain
  dsimp only
  split
  · rw [masters_of_fns (idleEndpoints_keeps (bl := .fns) f r (Keeps.refl .fns _) (by decide))]
    exact (modCr_masters f r _ _).trans (drainLoop_masters f r _ v)
  · exact drainLoop_masters f r _ v

theorem postOut_masters (k : Nat) (n : Notice) (v : State) : masters (postOut k n v) = masters v := by
  unfold postOut commitOut
  dsimp only
  split
  · rfl
  · split
    · split
      · exact masters_of_same (countEvent_sameFuncs _ _ _)
      · rfl
    · split
      · split
        · exact masters_of_same (countEvent_sameFuncs _ _ _)
        · rfl
      · split <;> rfl

/-- A reply of a function that may master the bus is written to its memory. -/
theorem writeReply_writes (hf : f < 128) (hb : masters v f = true) (a : U64) {bytes : List Byte} (hne : bytes ≠ []) (n : Notice) :
    Output.hostWrite f a.toNat bytes ∈ (writeReply f a bytes n v).out := by
  unfold writeReply
  rw [if_neg (by omega), if_neg (by omega), if_pos (show (fn v f).bme = true from hb)]
  exact (postOut_grows _ _ _).mem (hostWrite_mem f a.toNat bytes v hne)

theorem writeReply_sends (hf : f < 128) (hb : masters v f = true) (a : U64) (bytes : List Byte) (n : Notice) :
    masters (writeReply f a bytes n v) = masters v ∧ Grows v (writeReply f a bytes n v) := by
  unfold writeReply
  rw [if_neg (by omega), if_neg (by omega), if_pos (show (fn v f).bme = true from hb), postOut_masters]
  exact ⟨funext fun k => hostWrite_proj Func.bme (fun _ _ _ => rfl) f _ _ v k,
    (hostWrite_grows f _ _ v).trans (postOut_grows _ _ _)⟩

/-- The replies that waited go out. -/
theorem sendReplies_sends (hf : f < 128) (hb : masters v f = true) : masters (sendReplies f v) = masters v
    ∧ ∀ r ∈ (box v f).replies, r.2.1 ≠ [] → Output.hostWrite f r.1.toNat r.2.1 ∈ (sendReplies f v).out := by
  obtain ⟨send, hSend⟩ : ∃ send : U64 × List Byte × Notice → State → State,
      send = fun r s => writeReply f r.1 r.2.1 r.2.2 (answeredBox f r.2.2.seq r.2.2.typ s) := ⟨_, rfl⟩
  obtain ⟨z, hz⟩ : ∃ z, z = modBox f (fun b => { b with replies := [] }) v := ⟨_, rfl⟩
  have hIs : sendReplies f v = each (box v f).replies send z := by
    rw [hSend, hz]
    rfl
  have hStart : masters z = masters v := by
    rw [hz]
    rfl
  have hStep : ∀ r (u : State), masters u f = true → masters (send r u) = masters u ∧ Grows u (send r u) := fun r u hu => by
    rw [hSend]
    exact writeReply_sends (v := answeredBox f r.2.2.seq r.2.2.typ u) hf hu _ _ _
  have hAll : ∀ (l : List (U64 × List Byte × Notice)) (u : State), masters u f = true →
      masters (each l send u) = masters u ∧ Grows u (each l send u)
        ∧ ∀ r ∈ l, r.2.1 ≠ [] → Output.hostWrite f r.1.toNat r.2.1 ∈ (each l send u).out := fun l => by
    induction l with
    | nil => exact fun u _ => ⟨rfl, Grows.refl u, fun _ h => absurd h List.not_mem_nil⟩
    | cons r l ih =>
      intro u hu
      obtain ⟨hSame, hGrows⟩ := hStep r u hu
      obtain ⟨hRest, hRestGrows, hIn⟩ := ih (send r u) (by rw [hSame]; exact hu)
      rw [each_cons]
      refine ⟨hRest.trans hSame, hGrows.trans hRestGrows, fun a ha hne => ?_⟩
      rcases List.mem_cons.1 ha with rfl | ha
      · refine hRestGrows.mem ?_
        rw [hSend]
        exact writeReply_writes (v := answeredBox f a.2.2.seq a.2.2.typ u) hf hu _ hne _
      · exact hIn a ha hne
  obtain ⟨hSame, -, hIn⟩ := hAll (box v f).replies z (by rw [hStart]; exact hb)
  rw [hIs]
  exact ⟨hSame.trans hStart, hIn⟩

theorem msixRelease_sends (f k : Nat) (v : State) : masters (msixRelease f k v) = masters v ∧ Grows v (msixRelease f k v) := by
  unfold msixRelease
  dsimp only
  split
  · refine ⟨?_, emit_grows _ (modVec f k _ v)⟩
    show masters (modVec f k (fun y => { y with pend := false }) v) = masters v
    exact masters_of_same (modVec_sameFuncs f k _ v)
  · exact ⟨rfl, Grows.refl v⟩

/-- What the function's rings, mailbox and vectors send once it may master the bus. -/
def releasedFor (f : Nat) (v : State) : State :=
  each (tkeys (fn (sendReplies f (each (tkeys (fn v f).cr) (fun r => crDrain f r) v)) f).vecs) (fun k => msixRelease f k)
    (sendReplies f (each (tkeys (fn v f).cr) (fun r => crDrain f r) v))

theorem releasedFor_sends (hf : f < 128) (hb : masters v f = true) : masters (releasedFor f v) f = true
    ∧ ∀ r ∈ (box v f).replies, r.2.1 ≠ [] → Output.hostWrite f r.1.toNat r.2.1 ∈ (releasedFor f v).out := by
  obtain ⟨a, ha⟩ : ∃ a, a = each (tkeys (fn v f).cr) (fun r => crDrain f r) v := ⟨_, rfl⟩
  have hDrained : masters a = masters v := by
    rw [ha]
    exact each_unchanged masters _ _ (fun r _ z => crDrain_masters f r z) v
  have hBox : a.mail = v.mail := by
    rw [ha]
    exact each_keeps (bl := .mail) (s0 := v) _ _ (fun r _ hz => crDrain_keeps (bl := .mail) f r hz (by decide)) (Keeps.refl .mail v)
  have hReplies : (box a f).replies = (box v f).replies := congrArg MBox.replies (box_of_mail hBox f)
  obtain ⟨hSame, hIn⟩ := sendReplies_sends hf (v := a) (by rw [hDrained]; exact hb)
  unfold releasedFor
  rw [← ha]
  refine ⟨?_, fun r hr hne => ?_⟩
  · rw [each_unchanged masters _ _ (fun k _ z => (msixRelease_sends f k z).1) _, hSame, hDrained]
    exact hb
  · exact (each_grows _ _ _ fun k z => (msixRelease_sends f k z).2).mem (hIn r (by rw [hReplies]; exact hr) hne)

/-- What the statement says of a write of Bus Master Enable. -/
theorem busMaster_does (hl : live s = true) (f : FuncId) (he : (fn s f.val).enabled = true) :
    exec (.busMasterEnableChange f false) s = .next (modFn f.val (fun x => { x with bme := false }) s)
    ∧ ∃ t, exec (.busMasterEnableChange f true) s = .next t ∧ (fn t f.val).bme = true
      ∧ ∀ r ∈ (box s f.val).replies, r.2.1 ≠ [] → .hostWrite f.val r.1.toNat r.2.1 ∈ t.out := by
  have hGuard : (live s && (fn s f.val).enabled) = true := by rw [hl, he]; rfl
  obtain ⟨v, hv⟩ : ∃ v, v = modFn f.val (fun x => { x with bme := true }) s := ⟨_, rfl⟩
  have hOn : masters v f.val = true := by
    rw [hv]
    exact (congrArg Func.bme (fn_modFn _ _ _ _)).trans (by rw [if_pos rfl])
  have hRun : exec (.busMasterEnableChange f true) s = .next (releasedFor f.val v) := by
    rw [hv]
    exact runs_of_guard (o := execBusMasterEnableChange f true s) (s := s)
      (f := fun s => releasedFor f.val (modFn f.val (fun x => { x with bme := true }) s)) rfl hGuard
  obtain ⟨hBme, hSent⟩ := releasedFor_sends f.isLt hOn
  refine ⟨runs_of_guard (o := execBusMasterEnableChange f false s) (s := s)
    (f := modFn f.val fun x => { x with bme := false }) rfl hGuard, releasedFor f.val v, hRun, hBme, ?_⟩
  rw [hv] at hSent ⊢
  exact hSent

/-! ### VF Enable (R318, R319) -/

theorem frame_setFns (v : State) (x : Funcs) : Frame [.fns] v { v with fns := x } := fun bl hb => by
  cases bl
  case fns => exact absurd (by decide) hb
  all_goals rfl

/-- The functions of a list are enabled. -/
def enableAll (l : List Nat) (v : State) : State := each l (fun j => modFn j fun x => { x with enabled := true }) v

theorem fn_enableAll (l : List Nat) (v : State) (k : Nat) :
    fn (enableAll l v) k = if k ∈ l then { fn v k with enabled := true } else fn v k := by
  unfold enableAll
  induction l generalizing v with
  | nil => rw [each_nil, if_neg List.not_mem_nil]
  | cons j l ih =>
    rw [each_cons, ih, fn_modFn]
    by_cases hk : k = j
    · rw [if_pos hk, hk, if_pos List.mem_cons_self]
      split <;> rfl
    · rw [if_neg hk]
      exact if_congr (by rw [List.mem_cons, or_iff_right hk]) rfl rfl

theorem enableAll_rest (l : List Nat) (v : State) : (enableAll l v).fns.vfEnable = v.fns.vfEnable
    ∧ (enableAll l v).fns.numVfs = v.fns.numVfs ∧ Frame [.fns] v (enableAll l v) := by
  unfold enableAll
  exact ⟨each_unchanged (fun u : State => u.fns.vfEnable) l (fun j => modFn j fun x => { x with enabled := true }) (fun _ _ _ => rfl) v,
    each_unchanged (fun u : State => u.fns.numVfs) l (fun j => modFn j fun x => { x with enabled := true }) (fun _ _ _ => rfl) v,
    each_frame l _ (fun j u => modFn_frame j _ u) v⟩

/-- What the statement says of VF Enable that is set. -/
theorem vfEnableSet_does (hl : live s = true) (n : Fin 128) (he : s.fns.vfEnable = false) :
    ∃ t, exec (.vfEnableSet n) s = .next t ∧ t.fns.vfEnable = true ∧ t.fns.numVfs = n.val
      ∧ Frame [.fns] s t ∧ ∀ v, fn t v = if 1 ≤ v ∧ v ≤ n.val then { fn s v with enabled := true } else fn s v := by
  have hRun := runs_of_guard (o := execVfEnableSet n s) (s := s)
      (f := fun s => enableAll ((List.range n.val).map (· + 1)) { s with fns := { s.fns with vfEnable := true, numVfs := n.val } })
      rfl (by rw [hl, he]; rfl)
  obtain ⟨hSet, hNum, hFrame⟩ := enableAll_rest ((List.range n.val).map (· + 1))
    { s with fns := { s.fns with vfEnable := true, numVfs := n.val } }
  refine ⟨_, hRun, hSet, hNum, (frame_setFns s _).trans hFrame, fun v => (fn_enableAll _ _ v).trans (if_congr ?_ rfl rfl)⟩
  rw [List.mem_map]
  constructor
  · rintro ⟨j, hj, rfl⟩
    exact ⟨Nat.le_add_left 1 j, List.mem_range.1 hj⟩
  · exact fun h => ⟨v - 1, List.mem_range.2 (by omega), by omega⟩

theorem tget_mapKeys {α : Type} (d : α) (g : Nat → α → α) (l : Tbl α) (k : Nat) (hd : g k d = d) :
    tget d (l.map fun e => (e.1, g e.1 e.2)) k = g k (tget d l k) := by
  induction l with
  | nil => exact hd.symm
  | cons a l ih =>
    rw [List.map_cons]
    unfold tget
    rw [ih]
    split
    · next h => rw [h]
    · rfl

/-- A function of the number `k` without its enable, where that is a VF's. -/
def disabledVf (k : Nat) (x : Func) : Func := if k = 0 then x else { x with enabled := false }

theorem disabledVf_init (k : Nat) : disabledVf k (funcInit k) = funcInit k := by
  unfold disabledVf
  split
  · rfl
  · next h =>
    unfold funcInit
    rw [if_neg h]

/-- No VF is enabled behind the reset of them all. -/
theorem destroyAll_disables (s : State) : (destroyAll s).fns.vfEnable = false ∧ (destroyAll s).fns.numVfs = 0
    ∧ ∀ v, v ≠ 0 → (fn (destroyAll s) v).enabled = false := by
  refine ⟨rfl, rfl, fun v h0 => ?_⟩
  have hMap := fun l : Tbl Func => tget_mapKeys (funcInit v) disabledVf l v (disabledVf_init v)
  refine (congrArg Func.enabled (hMap _)).trans ?_
  unfold disabledVf
  rw [if_neg h0]

theorem exec_vfEnableClear (hl : live s = true) (he : s.fns.vfEnable = true) : exec .vfEnableClear s = .next (destroyAll s) :=
  runs_of_guard (o := execVfEnableClear s) (s := s) (f := destroyAll) rfl (by rw [hl, he]; rfl)

/-! ### The map marks (R344, R345) -/

theorem exec_dirtyMapWrite (hl : live s = true) (v : FuncId) {p : Nat} (hb : (fn s 0).bme = true) (hp : p ∈ (fn s v.val).dirty) :
    exec (.dirtyMapWrite v p) s = .next (emit (.hostWrite 0 ((fn s v.val).dirtyBase.toNat + p) [1])
      (setFn s v.val { fn s v.val with dirty := (fn s v.val).dirty.filter (· != p) })) :=
  runs_of_guard (o := execDirtyMapWrite v p s) (s := s) (f := fun s => emit (.hostWrite 0 ((fn s v.val).dirtyBase.toNat + p) [1])
    (setFn s v.val { fn s v.val with dirty := (fn s v.val).dirty.filter (· != p) })) rfl
    (by rw [hl, hb, List.contains_iff_mem.2 hp]; rfl)

/-! ### The resets of a function and of them all (R346, R350, R351) -/

/-- What the statement says of a function under reset. -/
def EndsFunc (s : State) (f : Nat) (t : State) : Prop := (fn t f).flrBusy = true ∧ (fn t f).ready = false
  ∧ ∀ i x, item? s i = some x → isOwn x = false → x.func = f → x.posted = none →
    (∀ e ∈ (fn s f).cr, ∀ w ∈ e.2.waiting, w.item ≠ some i) → (∀ a ∈ s.front.assigns, i ∉ a.2.1) → Aborted i t

theorem flrBegin_ends (h : (fn s f).flrBusy = false) : EndsFunc s f (flrBegin f s) :=
  ⟨(flrBegin_flags h).1, (flrBegin_flags h).2, fun _ _ hi ho hf hp hw ha => flrBegin_aborts h hi ho hf hp hw ha⟩

theorem exec_vfFlr (hl : live s = true) (ha : isActive s = true) (v : FuncId) (hv : vfThere s v.val = true) :
    exec (.vfFlr v) s = .next (flrBegin v.val s) :=
  runs_of_guard (o := execVfFlr v s) (s := s) (f := flrBegin v.val) rfl (by rw [hl, ha, hv]; rfl)

theorem exec_pf0Flr (hl : live s = true) (ha : isActive s = true) : exec .pf0Flr s = .next (flrBegin 0 (destroyAll s)) :=
  runs_of_guard (o := execPf0Flr s) (s := s) (f := fun s => flrBegin 0 (destroyAll s)) rfl (by rw [hl, ha]; rfl)

/-! ### The last step of a reset (R328, R346, R349) -/

/-- The step that clears the function's registers and queues and reports its figures. -/
def flrCleared (f : Nat) (s : State) : State :=
  modFn f (fun x => { clearFunc x with
      resetRpt := if f = 0 then x.resetRpt else resetReport (each ((fn s f).sq.map Prod.fst) (fun q s => forgetSq f q s) s) x })
    (each ((fn s f).sq.map Prod.fst) (fun q s => forgetSq f q s) s)

/-- The step that clears its event registers and reports a VF. -/
def flrReported (f : FuncId) (v : State) : State :=
  if f.val = 0 then setEvt (.q f) 0 v
  else raise (.flrDone ⟨f.val / 32, by omega⟩) (f.val % 32) (setEvt (.vf f) 0 (setEvt (.q f) 0 v))

/-- The step that takes its resources from a VF that is destroyed. -/
def flrDestroyed (f : Nat) (gone : Bool) (v : State) : State :=
  if gone then destroyVf f (modFn f (fun x => { x with destroy := false, destroyCtx := none }) v) else v

theorem flrEnd_eq (f : FuncId) (hc : (fn s f.val).destroyCtx = none) :
    flrEnd f.val s = sweepHandles (flrDestroyed f.val (fn s f.val).destroy (flrReported f (flrCleared f.val s))) := by
  unfold flrEnd
  dsimp only
  rw [hc, dif_pos f.isLt]
  rfl

/-- What the last step leaves of the function, vectors apart. -/
theorem flrCleared_func (f : Nat) (s : State) : fn (flrCleared f s) f
    = { clearFunc (fn s f) with resetRpt := if f = 0 then (fn s f).resetRpt else resetReport s (fn s f) } := by
  obtain ⟨w, hw⟩ : ∃ w, w = each ((fn s f).sq.map Prod.fst) (fun q s => forgetSq f q s) s := ⟨_, rfl⟩
  have hFns : w.fns = s.fns := by
    rw [hw]
    exact each_unchanged State.fns _ (fun q v => forgetSq f q v) (fun _ _ _ => rfl) s
  have hTb : w.tb = s.tb := by
    rw [hw]
    exact each_unchanged State.tb _ (fun q v => forgetSq f q v) (fun _ _ _ => rfl) s
  have hReport : ∀ x, resetReport w x = resetReport s x := fun x => by
    unfold resetReport
    rw [now_of_tb hTb]
  unfold flrCleared
  rw [← hw, fn_modFn, if_pos rfl, fn_of_fns hFns, hReport]

theorem flrReported_same (f : FuncId) (v : State) : SameFuncs v (flrReported f v) := by
  unfold flrReported
  split
  · exact setEvt_sameFuncs _ _ v
  · exact ((setEvt_sameFuncs _ _ v).trans (setEvt_sameFuncs _ _ _)).trans (raise_sameFuncs _ _ _)

/-- The event registers behind the last step. -/
theorem flrReported_events (f : FuncId) (v : State) : evtWord (flrReported f v) (256 + f.val) = 0
    ∧ (f.val ≠ 0 → bit (evtWord (flrReported f v) (140 + f.val / 32)) (f.val % 32) = true
      ∧ evtWord (flrReported f v) (384 + f.val) = 0) := by
  have hf := f.isLt
  have hQDone : 256 + f.val ≠ 140 + f.val / 32 := by omega
  have hQVf : 256 + f.val ≠ 384 + f.val := by omega
  have hVfDone : 384 + f.val ≠ 140 + f.val / 32 := by omega
  unfold flrReported
  split
  · next h0 => exact ⟨(evtWord_setEvt _ _ _ _).trans (if_pos rfl), fun h => absurd h0 h⟩
  · have hRaised := raise_raised (.flrDone ⟨f.val / 32, by omega⟩) (f.val % 32) (setEvt (.vf f) 0 (setEvt (.q f) 0 v))
    refine ⟨?_, fun _ => ⟨raise_bit (.flrDone ⟨f.val / 32, by omega⟩) _ (Nat.mod_lt _ (by decide)) _, ?_⟩⟩
    · rw [hRaised, if_neg (show ¬ (256 + f.val = evtKey (.flrDone ⟨f.val / 32, by omega⟩)) from hQDone), evtWord_setEvt,
        if_neg (show ¬ (256 + f.val = evtKey (.vf f)) from hQVf), evtWord_setEvt]
      exact if_pos rfl
    · rw [hRaised, if_neg (show ¬ (384 + f.val = evtKey (.flrDone ⟨f.val / 32, by omega⟩)) from hVfDone), evtWord_setEvt]
      exact if_pos rfl

/-- What a VF that is destroyed has of resources. -/
def allotted (x : Func) : Bool × Nat := (x.created, x.nSq)

theorem refreshIso_allotted (v : State) (k : Nat) : allotted (fn (refreshIso v) k) = allotted (fn v k) := by
  unfold refreshIso
  refine each_unchanged (fun z : State => allotted (fn z k)) _ _ (fun f _ z => ?_) v
  split
  · rw [(raiseVf_same f 2 _).proj allotted (fun _ _ => rfl) k, fn_modFn]
    split
    · next h => rw [h]; rfl
    · rfl
  · rfl

theorem destroyVf_allotted (f : Nat) (v : State) : allotted (fn (destroyVf f v) f) = allotted (clearFunc (funcInit f)) := by
  unfold destroyVf
  dsimp only
  rw [refreshIso_allotted, fn_setFn, if_pos rfl]
  rfl

/-- What the statement says of the last step of a reset. -/
theorem vfResetDone_does (hl : live s = true) (f : FuncId) (ho : flrOver s f.val = true) (hc : (fn s f.val).destroyCtx = none) :
    ∃ u, exec (.vfResetDone f) s = .next (sweepHandles u)
      ∧ ((fn s f.val).destroy = false → { fn u f.val with vecs := [] } = { clearFunc (fn s f.val) with
          resetRpt := if f.val = 0 then (fn s f.val).resetRpt else resetReport s (fn s f.val) }
        ∧ (f.val ≠ 0 → bit (evtWord u (140 + f.val / 32)) (f.val % 32) = true ∧ evtWord u (384 + f.val) = 0)
        ∧ evtWord u (256 + f.val) = 0)
      ∧ ((fn s f.val).destroy = true → f.val ≠ 0 → (fn u f.val).created = false ∧ (fn u f.val).nSq = (funcInit f.val).nSq) := by
  have hRun : exec (.vfResetDone f) s = .next (flrEnd f.val s) :=
    runs_of_guard (o := execVfResetDone f s) (s := s) (f := flrEnd f.val) rfl (by rw [hl, ho]; rfl)
  rw [flrEnd_eq f hc] at hRun
  refine ⟨_, hRun, fun hd => ?_, fun hd h0 => ?_⟩
  · obtain ⟨hQ, hVf⟩ := flrReported_events f (flrCleared f.val s)
    rw [hd]
    refine ⟨(flrReported_same f (flrCleared f.val s) f.val).trans ?_, hVf, hQ⟩
    rw [flrCleared_func]
    rfl
  · rw [hd]
    have hAllot := destroyVf_allotted f.val
      (modFn f.val (fun x => { x with destroy := false, destroyCtx := none }) (flrReported f (flrCleared f.val s)))
    obtain ⟨hCreated, hNSq⟩ := Prod.mk.inj hAllot
    refine ⟨hCreated.trans ?_, hNSq⟩
    unfold funcInit
    rw [if_neg h0]
    rfl

/-! ### The obligation -/

/-- Settles O54: a reset's steps are told apart, and each clause follows from the steps that it names. -/
theorem functionResets : Obligations.FunctionResets := by
  unfold Obligations.FunctionResets
  intro s hl
  refine ⟨vfEnableSet_does hl, fun he => ⟨destroyAll s, exec_vfEnableClear hl he, destroyAll_disables s⟩, busMaster_does hl,
    fun v p hb hp => exec_dirtyMapWrite hl v hb hp, fun ha v hv => ⟨fun hBusy => ?_, fun hFree => ?_⟩, fun ha _ => ?_,
    fun v ho hc => vfResetDone_does hl v ho hc⟩
  · rw [exec_vfFlr hl ha v hv, flrBegin_merges hBusy]
  · exact ⟨_, exec_vfFlr hl ha v hv, flrBegin_ends hFree⟩
  · obtain ⟨hEnable, -, hDisabled⟩ := destroyAll_disables s
    exact ⟨destroyAll s, _, exec_pf0Flr hl ha, rfl, flrBegin_busy 0 _, hEnable, hDisabled⟩

end
end Sys2Proof.Machine
end


section
/-! PROOFS. Event sources, their claims and latches (R416 to R425), and the vectors that tell the host (R426 to R428). -/

namespace Sys2Proof.Machine

section
variable {s t u v w : State} {f k n x : Nat}

/-! ### Claims (R420) -/

/-- The first of the entries with the highest priority is the best. -/
theorem bestClaim_first {l r : List (Nat × Nat)} {e : Nat × Nat} (hl : ∀ y ∈ l, y.2 < e.2) (hr : ∀ y ∈ r, y.2 ≤ e.2) :
    bestClaim (l ++ e :: r) = some e := by
  have hBest : ∀ m y, bestClaim m = some y → y ∈ m := fun m => by
    induction m with
    | nil => exact fun y h => by cases h
    | cons a m ih =>
      intro y h
      unfold bestClaim at h
      cases hm : bestClaim m with
      | none =>
        rw [hm] at h
        exact (Option.some.inj h) ▸ List.mem_cons_self
      | some z =>
        rw [hm] at h
        dsimp only at h
        split at h
        · exact (Option.some.inj h) ▸ List.mem_cons_of_mem a (ih z hm)
        · exact (Option.some.inj h) ▸ List.mem_cons_self
  induction l with
  | nil =>
    rw [List.nil_append]
    unfold bestClaim
    cases hm : bestClaim r with
    | none => rfl
    | some z => exact if_neg (Nat.not_lt.2 (hr z (hBest r z hm)))
  | cons a l ih =>
    rw [List.cons_append]
    unfold bestClaim
    rw [ih fun y hy => hl y (List.mem_cons_of_mem a hy)]
    exact if_pos (hl a List.mem_cons_self)

/-- The state in which a target has claimed a source. -/
def claimedBy (t : Fin 18) (x : Nat) (s : State) : State :=
  emit (.claimed t.val (BitVec.ofNat 16 (x + 32768))) (modTarget t.val (fun y => { y with last := BitVec.ofNat 10 x })
    (modSource x (fun c => { c with active := some t, soft := false }) s))

theorem claim_none {t : Fin 18} (h : claimable s t.val = []) : claim t s = emit (.claimed t.val 0) s := by
  unfold claim
  rw [h]
  rfl

theorem claim_first {t : Fin 18} {l r : List (Nat × Nat)} {p : Nat} (h : claimable s t.val = l ++ (x, p) :: r)
    (hl : ∀ y ∈ l, y.2 < p) (hr : ∀ y ∈ r, y.2 ≤ p) : claim t s = claimedBy t x s := by
  unfold claim
  rw [h, bestClaim_first (e := (x, p)) hl hr]
  rfl

/-- What a claimable source is. -/
theorem claimable_is {t p : Nat} (h : (x, p) ∈ claimable s t) :
    ∃ c, (x, c) ∈ s.eic.src ∧ isPending s x = true ∧ bit c.tmask t = true ∧ c.prio.toNat = p ∧ runLevel s t < p := by
  unfold claimable at h
  split at h
  · obtain ⟨⟨y, c⟩, hIn, hIs⟩ := List.mem_map.1 h
    obtain ⟨hSrc, hMay⟩ := List.mem_filter.1 hIn
    rw [Bool.and_eq_true, Bool.and_eq_true, decide_eq_true_eq] at hMay
    obtain ⟨⟨hPend, hMask⟩, hLevel⟩ := hMay
    obtain ⟨rfl, rfl⟩ := Prod.mk.inj hIs
    exact ⟨c, hSrc, hPend, hMask, rfl, hLevel⟩
  · cases h

theorem frame_setEic (v : State) (x : Eic) : Frame [.eic] v { v with eic := x } := fun bl hb => by
  cases bl
  case eic => exact absurd (by decide) hb
  all_goals rfl

/-- What the statement says of a claim that finds a source. -/
theorem claimedBy_does (t : Fin 18) (x : Nat) (s : State) :
    (claimedBy t x s).out = s.out ++ [.claimed t.val (BitVec.ofNat 16 (x + 32768))]
    ∧ (∀ y, source (claimedBy t x s) y = if y = x then { source s x with active := some t, soft := false } else source s y)
    ∧ (∀ y, target (claimedBy t x s) y = if y = t.val then { target s t.val with last := BitVec.ofNat 10 x } else target s y)
    ∧ Frame [.out, .eic] s (claimedBy t x s) := by
  obtain ⟨m, hm⟩ : ∃ m, m = modSource x (fun c => { c with active := some t, soft := false }) s := ⟨_, rfl⟩
  have hSource : ∀ y, source m y = if y = x then { source s x with active := some t, soft := false } else source s y := fun y => by
    rw [hm, source_modSource]
  have hTarget : ∀ y, target (modTarget t.val (fun y => { y with last := BitVec.ofNat 10 x }) m) y
      = if y = t.val then { target s t.val with last := BitVec.ofNat 10 x } else target s y := fun y => by
    rw [target_modTarget, hm]
    rfl
  refine ⟨rfl, fun y => ?_, fun y => ?_, ?_⟩
  · exact (hm ▸ hSource y :)
  · exact (hm ▸ hTarget y :)
  · exact ((frame_setEic s _).mono fun _ h => List.mem_cons_of_mem _ h).trans
      ((frame_emit _ _).mono fun b h => List.mem_singleton.1 h ▸ List.mem_cons_self)

/-! ### Writes of one word of sources (R417) -/

theorem mem_wordSources {w : Fin 32} {b : U32} : x ∈ wordSources w b ↔ (decide (x / 32 = w.val) && bit b (x % 32)) = true := by
  unfold wordSources
  rw [List.mem_map, Bool.and_eq_true, decide_eq_true_eq]
  constructor
  · rintro ⟨i, hi, rfl⟩
    obtain ⟨hRange, hBit⟩ := List.mem_filter.1 hi
    rw [List.mem_range] at hRange
    rw [Nat.mul_add_div (by decide), Nat.div_eq_of_lt hRange, Nat.mul_add_mod, Nat.mod_eq_of_lt hRange]
    exact ⟨rfl, hBit⟩
  · rintro ⟨hDiv, hBit⟩
    refine ⟨x % 32, List.mem_filter.2 ⟨List.mem_range.2 (Nat.mod_lt x (by decide)), hBit⟩, ?_⟩
    rw [← hDiv]
    exact Nat.div_add_mod x 32

/-- Sources that are each changed once more and no other read as one change of those of the list. -/
theorem source_each (l : List Nat) (step : Nat → State → State) (g : Source → Source) (hg : ∀ c, g (g c) = g c)
    (hStep : ∀ x v k, source (step x v) k = if k = x then g (source v x) else source v k) (v : State) (k : Nat) :
    source (each l step v) k = if k ∈ l then g (source v k) else source v k := by
  induction l generalizing v with
  | nil => rw [each_nil, if_neg List.not_mem_nil]
  | cons j l ih =>
    rw [each_cons, ih, hStep]
    by_cases hk : k = j
    · rw [if_pos hk, hk, hg, if_pos List.mem_cons_self, ite_self]
    · rw [if_neg hk]
      exact if_congr (by rw [List.mem_cons, or_iff_right hk]) rfl rfl

/-- The enables that a write sets, one source after the other. -/
def enSetStep (x : Nat) (v : State) : State := wakeTarget x (modSource x (fun c => { c with en := true }) v)

/-- The latches that a write sets, one source after the other. -/
def pendSetStep (x : Nat) : State → State := withRises [x] (modSource x fun c => { c with soft := true })

/-- A write of ones to a word of sources reads as one change of the sources of its bits. -/
theorem source_word (w : Fin 32) (b : U32) (step : Nat → State → State) (g : Source → Source) (hg : ∀ c, g (g c) = g c)
    (hStep : ∀ x v k, source (step x v) k = if k = x then g (source v x) else source v k) (v : State) (k : Nat) :
    source (each (wordSources w b) step v) k
      = if (decide (k / 32 = w.val) && bit b (k % 32)) = true then g (source v k) else source v k :=
  (source_each _ step g hg hStep v k).trans (if_congr mem_wordSources rfl rfl)

/-- The bit of a source in a word of sources. -/
def inWordOf (w : Fin 32) (b : U32) (x : Nat) : Bool := decide (x / 32 = w.val) && bit b (x % 32)

/-- What the statement says of a write that sets enables. -/
theorem enSet_does (hl : live s = true) (w : Fin 32) (b : U32) :
    ∃ u, exec (.enSet w b) s = .next u ∧ Frame [.eic] s u ∧ (∀ x, evtWord u x = evtWord s x)
      ∧ (∀ x, source u x = { source s x with en := (source s x).en || inWordOf w b x })
      ∧ ∀ x, wordSources w b = [x] → ∀ g, isPending (modSource x (fun c => { c with en := true }) s) x = true →
        offered (modSource x (fun c => { c with en := true }) s) x = some g → (target u g).asleep = false := by
  have hRun : exec (.enSet w b) s = .next (each (wordSources w b) enSetStep s) :=
    runs_of_guard (o := execEnSet w b s) (s := s) (f := each (wordSources w b) enSetStep) rfl hl
  refine ⟨_, hRun, ?_, fun x => ?_, fun x => ?_, fun x hx g hp ho => ?_⟩
  · exact each_frame _ _ (fun x v => (frame_setEic v _).trans
      (fun _ hb => wakeTarget_keeps x (Keeps.refl _ (modSource x (fun c => { c with en := true }) v)) hb)) s
  · have hEvt := each_unchanged (fun v : State => v.eic.evt) (wordSources w b) enSetStep (fun y _ v => wakeTarget_evt y _) s
    exact congrArg (fun l => tget 0 l x) hEvt
  · rw [source_word w b enSetStep (fun c => { c with en := true }) (fun _ => rfl)
      (fun y v j => (source_wakeTarget y _ j).trans (source_modSource y j _ v))]
    unfold inWordOf
    split
    · next h => rw [h, Bool.or_true]
    · next h => rw [Bool.eq_false_of_not_eq_true h, Bool.or_false]
  · rw [hx, each_cons, each_nil]
    exact wakeTarget_awake hp ho

/-- What the statement says of a write that clears enables. -/
theorem enClr_does (hl : live s = true) (w : Fin 32) (b : U32) :
    ∃ u, exec (.enClr w b) s = .next u ∧ Frame [.eic] s u
      ∧ (∀ x, source u x = { source s x with en := (source s x).en && !inWordOf w b x }) ∧ ∀ x, target u x = target s x := by
  have hRun : exec (.enClr w b) s = .next (each (wordSources w b) (fun x => modSource x fun c => { c with en := false }) s) :=
    (exec_enClr w b s).trans (guarded_of hl)
  refine ⟨_, hRun, each_frame _ _ (fun x v => frame_setEic v _) s, fun x => ?_, fun x => ?_⟩
  · rw [source_word w b _ (fun c => { c with en := false }) (fun _ => rfl) (fun y v j => source_modSource y j _ v)]
    unfold inWordOf
    split
    · next h => rw [h, Bool.not_true, Bool.and_false]
    · next h => rw [Bool.eq_false_of_not_eq_true h, Bool.not_false, Bool.and_true]
  · exact each_unchanged (fun v => target v x) (wordSources w b) (fun x => modSource x fun c => { c with en := false })
      (fun _ _ _ => rfl) s

/-- What the statement says of a write that clears latches. -/
theorem pendClr_does (hl : live s = true) (w : Fin 32) (b : U32) :
    ∃ u, exec (.pendClr w b) s = .next u ∧ Frame [.eic] s u
      ∧ (∀ x, source u x = { source s x with soft := (source s x).soft && !inWordOf w b x }) ∧ ∀ x, target u x = target s x := by
  have hRun : exec (.pendClr w b) s = .next (each (wordSources w b) (fun x => modSource x fun c => { c with soft := false }) s) :=
    runs_of_guard (o := execPendClr w b s) (s := s)
      (f := each (wordSources w b) fun x => modSource x fun c => { c with soft := false }) rfl hl
  refine ⟨_, hRun, each_frame _ _ (fun x v => frame_setEic v _) s, fun x => ?_, fun x => ?_⟩
  · rw [source_word w b _ (fun c => { c with soft := false }) (fun _ => rfl) (fun y v j => source_modSource y j _ v)]
    unfold inWordOf
    split
    · next h => rw [h, Bool.not_true, Bool.and_false]
    · next h => rw [Bool.eq_false_of_not_eq_true h, Bool.not_false, Bool.and_true]
  · exact each_unchanged (fun v => target v x) (wordSources w b) (fun x => modSource x fun c => { c with soft := false })
      (fun _ _ _ => rfl) s

/-! ### A message that falls due (R426 to R428) -/

theorem vec_modVec (f k : Nat) (g : Vec → Vec) (v : State) (h j : Nat) :
    vec (modVec f k g v) h j = if h = f ∧ j = k then g (vec v f k) else vec v h j := by
  unfold vec modVec
  rw [fn_modFn]
  by_cases hf : h = f
  · rw [if_pos hf]
    dsimp only
    rw [tget_tput, hf]
    exact if_congr (by rw [and_iff_right rfl]) rfl rfl
  · rw [if_neg hf, if_neg fun h => hf h.1]

theorem vecReady_modVec (f k : Nat) {g : Vec → Vec} (hg : ∀ y, (g y).ctrl = y.ctrl) (v : State) (h j : Nat) :
    vecReady (modVec f k g v) h j = vecReady v h j := by
  have hSame := modVec_sameFuncs f k g v
  have hCtrl : (vec (modVec f k g v) h j).ctrl = (vec v h j).ctrl := by
    rw [vec_modVec]
    split
    · next h => rw [hg, h.1, h.2]
    · rfl
  unfold vecReady
  dsimp only
  rw [hSame.proj Func.msixEn (fun _ _ => rfl), hSame.proj Func.bme (fun _ _ => rfl), hSame.proj Func.fmask (fun _ _ => rfl), hCtrl]

/-- What the statement says of a message that is due on a vector whose settings are those of `y`. -/
def DueFor (f k : Nat) (y : Vec) (s u : State) : Prop := SameFuncs s u ∧ (∀ j, j ≠ k → vec u f j = vec s f j)
  ∧ vec u f k = { y with counted := 0, running := false, pend := (vec s f k).pend || !vecReady s f k }
  ∧ u.out = s.out ++ (if vecReady s f k = true then [.msix f k (vec s f k).addr (vec s f k).data] else [])

theorem msixDue_due (f k : Nat) (s : State) : DueFor f k (vec s f k) s (msixDue f k s) := by
  obtain ⟨m, hm⟩ : ∃ m, m = modVec f k (fun y => { y with counted := 0, running := false }) s := ⟨_, rfl⟩
  have hReady : vecReady m f k = vecReady s f k := by
    rw [hm, vecReady_modVec]
    exact fun _ => rfl
  have hHere : vec m f k = { vec s f k with counted := 0, running := false } := by rw [hm, vec_modVec, if_pos ⟨rfl, rfl⟩]
  have hThere : ∀ j, j ≠ k → vec m f j = vec s f j := fun j hj => by rw [hm, vec_modVec, if_neg fun h => hj h.2]
  have hSame : SameFuncs s m := hm ▸ modVec_sameFuncs f k _ s
  have hOut : m.out = s.out := hm ▸ rfl
  have hIs : msixDue f k s = if vecReady m f k then emit (.msix f k (vec s f k).addr (vec s f k).data) m
      else modVec f k (fun y => { y with pend := true }) m := by
    rw [hm]
    rfl
  unfold DueFor
  rw [hIs, hReady]
  by_cases hr : vecReady s f k = true
  · rw [if_pos hr, if_pos hr, hr, Bool.not_true, Bool.or_false]
    exact ⟨hSame.trans (emit_sameFuncs _ _), hThere, hHere, congrArg (fun l => l ++ [Output.msix f k (vec s f k).addr (vec s f k).data]) hOut⟩
  · rw [if_neg hr, if_neg hr, Bool.eq_false_of_not_eq_true hr, Bool.not_false, Bool.or_true, List.append_nil]
    refine ⟨hSame.trans (modVec_sameFuncs f k _ m), fun j hj => ?_, ?_, hOut⟩
    · rw [vec_modVec, if_neg fun h => hj h.2, hThere j hj]
    · rw [vec_modVec, if_pos ⟨rfl, rfl⟩, hHere]

theorem exec_msixIntervalExpiry (hl : live s = true) (f : FuncId) (k : Fin 2048) : exec (.msixIntervalExpiry f k) s
    = .next (if (vec s f.val k.val).running = true then msixDue f.val k.val s else s) := by
  by_cases hr : (vec s f.val k.val).running = true
  · rw [if_pos hr]
    exact runs_of_guard (o := execMsixIntervalExpiry f k s) (s := s) (f := msixDue f.val k.val) rfl (by rw [hl, hr]; rfl)
  · rw [if_neg hr]
    exact idle_of_no_guard (o := execMsixIntervalExpiry f k s) (s := s) (f := msixDue f.val k.val) rfl
      (by rw [hl, Bool.eq_false_of_not_eq_true hr]; rfl)

/-- An event that counts on a free vector whose count it fills sends its message at once. -/
theorem countEvent_due (hp : (vec v f k).pend = false) (hc : (vec v f k).count.toNat ≤ 1) : countEvent f k v = msixDue f k v := by
  unfold countEvent
  dsimp only
  rw [hp, if_neg Bool.false_ne_true, if_pos]
  omega

theorem countEvent_sends (hp : (vec v f k).pend = false) (hc : (vec v f k).count.toNat ≤ 1) (hr : vecReady v f k = true) :
    (countEvent f k v).out = v.out ++ [.msix f k (vec v f k).addr (vec v f k).data] := by
  obtain ⟨-, -, -, hOut⟩ := msixDue_due f k v
  rw [countEvent_due hp hc, hOut, if_pos hr]

/-! ### Latches set (R416, R425) -/

/-- A rise that counts changes the outputs and the functions alone. -/
theorem hostRise_changes (x : Nat) (v : State) : ∃ o fs, hostRise x v = { v with out := o, fns := fs } := by
  unfold hostRise countEvent msixDue
  dsimp only
  split
  · split
    · exact ⟨_, _, rfl⟩
    · split
      · split <;> exact ⟨_, _, rfl⟩
      · exact ⟨_, _, rfl⟩
  · exact ⟨_, _, rfl⟩

theorem pendSetStep_eq (x : Nat) (v : State) : pendSetStep x v = wakeTarget x
    (if level v x = true then modSource x (fun c => { c with soft := true }) v
      else hostRise x (modSource x (fun c => { c with soft := true }) v)) := by
  have hHigh : level (modSource x (fun c => { c with soft := true }) v) x = true := by
    unfold level
    rw [source_modSource, if_pos rfl, Bool.or_true]
  unfold pendSetStep withRises
  rw [each_cons, each_nil, List.filter_cons, List.filter_nil, hHigh, Bool.and_true]
  by_cases h : level v x = true
  · rw [if_pos h, h, Bool.not_true, if_neg Bool.false_ne_true, each_nil]
  · rw [if_neg h, Bool.eq_false_of_not_eq_true h, Bool.not_false, if_pos rfl, each_cons, each_nil]

/-- The source is woken by what it is behind its rise. -/
theorem pendSetStep_wakes {g : Nat} (hp : isPending (modSource x (fun c => { c with soft := true }) v) x = true)
    (ho : offered (modSource x (fun c => { c with soft := true }) v) x = some g) : (target (pendSetStep x v) g).asleep = false := by
  rw [pendSetStep_eq]
  split
  · exact wakeTarget_awake hp ho
  · obtain ⟨o, fs, hRise⟩ := hostRise_changes x (modSource x (fun c => { c with soft := true }) v)
    rw [hRise]
    exact wakeTarget_awake hp ho

theorem pendSetStep_out (x : Nat) (v : State) : ((source v x).hosten = false ∨ level v x = true → (pendSetStep x v).out = v.out)
    ∧ ∀ h, (source v x).hosten = true → level v x = false → h = (source v x).hvec.toNat → (vec v 0 h).pend = false →
      (vec v 0 h).count.toNat ≤ 1 → vecReady v 0 h = true → (pendSetStep x v).out = v.out ++ [.msix 0 h (vec v 0 h).addr (vec v 0 h).data] := by
  obtain ⟨m, hm⟩ : ∃ m, m = modSource x (fun c => { c with soft := true }) v := ⟨_, rfl⟩
  have hHere : source m x = { source v x with soft := true } := by rw [hm, source_modSource, if_pos rfl]
  have hOut : m.out = v.out := hm ▸ rfl
  have hFns : m.fns = v.fns := hm ▸ rfl
  rw [pendSetStep_eq, wakeTarget_out, ← hm]
  refine ⟨fun h => ?_, fun h hHost hLow hVec hFree hCount hReady => ?_⟩
  · split
    · exact hOut
    · next hLow =>
      unfold hostRise
      rw [hHere, if_neg (ne_true_of_eq_false (h.resolve_right hLow))]
      exact hOut
  · have hNow : ∀ j, vec m 0 j = vec v 0 j := fun j => congrArg (fun y : Func => tget ({} : Vec) y.vecs j) (fn_of_fns hFns 0)
    have hNowReady : vecReady m 0 h = vecReady v 0 h := by
      unfold vecReady
      rw [hNow, fn_of_fns hFns 0]
    rw [if_neg (ne_true_of_eq_false hLow)]
    unfold hostRise
    rw [hHere, if_pos hHost, ← hVec, ← hOut, ← hNow h]
    exact countEvent_sends (by rw [hNow]; exact hFree) (by rw [hNow]; exact hCount) (by rw [hNowReady]; exact hReady)

/-- What the statement says of a write that sets latches. -/
theorem pendSet_does (hl : live s = true) (w : Fin 32) (b : U32) :
    ∃ u, exec (.pendSet w b) s = .next u ∧ Frame [.out, .eic, .fns] s u ∧ SameFuncs s u
      ∧ (∀ x, source u x = { source s x with soft := (source s x).soft || inWordOf w b x })
      ∧ ∀ x, wordSources w b = [x] →
        (∀ g, isPending (modSource x (fun c => { c with soft := true }) s) x = true →
          offered (modSource x (fun c => { c with soft := true }) s) x = some g → (target u g).asleep = false)
        ∧ ((source s x).hosten = false ∨ level s x = true → u.out = s.out)
        ∧ ∀ h, (source s x).hosten = true → level s x = false → h = (source s x).hvec.toNat → (vec s 0 h).pend = false →
          (vec s 0 h).count.toNat ≤ 1 → vecReady s 0 h = true → u.out = s.out ++ [.msix 0 h (vec s 0 h).addr (vec s 0 h).data] := by
  have hRun : exec (.pendSet w b) s = .next (each (wordSources w b) pendSetStep s) :=
    runs_of_guard (o := execPendSet w b s) (s := s) (f := each (wordSources w b) pendSetStep) rfl hl
  refine ⟨_, hRun, ?_, ?_, fun x => ?_, fun x hx => ?_⟩
  · refine each_frame _ _ (fun x v => ?_) s
    exact ((frame_setEic v _).mono fun _ h => List.mem_singleton.1 h ▸ List.mem_cons_of_mem _ List.mem_cons_self).trans
      fun bl hb => withRises_keeps_applied [x] (modSource x fun c => { c with soft := true }) v hb
  · exact each_sameFuncs _ _ s fun x v => withRises_sameFuncs [x] _ v fun _ => rfl
  · rw [source_word w b pendSetStep (fun c => { c with soft := true }) (fun _ => rfl)
      (fun y v j => (source_withRises [y] _ v j).trans (source_modSource y j _ v))]
    unfold inWordOf
    split
    · next h => rw [h, Bool.or_true]
    · next h => rw [Bool.eq_false_of_not_eq_true h, Bool.or_false]
  · rw [hx, each_cons, each_nil]
    exact ⟨fun g hp ho => pendSetStep_wakes hp ho, pendSetStep_out x s⟩

/-! ### `INT.VEC_MOD` and the masks (R427, R428) -/

/-- The vector that `INT.VEC_MOD` reaches. -/
def selectedVec (s : State) (f : Nat) : Nat := field (fn s f).vecSel 0 11

/-- A vector with the count and time of a write of `INT.VEC_MOD`. -/
def moderated (value : U64) (y : Vec) : Vec := { y with count := value.setWidth 8, time := BitVec.ofNat 10 (field value 8 10) }

/-- The write of the count and time, with which the interval has ended. -/
def modWritten (f k : Nat) (value : U64) : State → State :=
  modVec f k fun y => { moderated value y with counted := 0, running := false }

theorem vec_modWritten (f k : Nat) (value : U64) (v : State) (j : Nat) : vec (modWritten f k value v) f j
    = if j = k then { moderated value (vec v f k) with counted := 0, running := false } else vec v f j := by
  unfold modWritten
  rw [vec_modVec]
  exact if_congr (by rw [and_iff_right rfl]) rfl rfl

theorem exec_intVecModWrite {f : FuncId} (hr : hostReaches s f.val = true) (value : U64) : exec (.intVecModWrite f value) s
    = .next (if selectedVec s f.val < (fn s f.val).nVec then
        modWritten f.val (selectedVec s f.val) value
          (if (vec s f.val (selectedVec s f.val)).counted ≠ 0 then msixDue f.val (selectedVec s f.val) s else s)
      else s) := by
  refine (runs_of_guard (o := execIntVecModWrite f value s) (s := s) (f := vecModWrite f.val value) rfl hr).trans (congrArg _ ?_)
  unfold vecModWrite
  dsimp only
  refine ite_congr rfl (fun _ => congrArg (modWritten f.val (selectedVec s f.val) value) ?_) fun _ => rfl
  exact ite_congr (by rw [bne_iff_ne]; rfl) (fun _ => rfl) fun _ => rfl

/-- What the statement says of a write of `INT.VEC_MOD`. -/
theorem intVecModWrite_does (f : FuncId) (value : U64) (hr : hostReaches s f.val = true) :
    ((fn s f.val).nVec ≤ selectedVec s f.val → exec (.intVecModWrite f value) s = .next s)
    ∧ (selectedVec s f.val < (fn s f.val).nVec →
      ((vec s f.val (selectedVec s f.val)).counted ≠ 0 → ∃ u, exec (.intVecModWrite f value) s = .next u
        ∧ DueFor f.val (selectedVec s f.val) (moderated value (vec s f.val (selectedVec s f.val))) s u)
      ∧ ((vec s f.val (selectedVec s f.val)).counted = 0 → ∃ u, exec (.intVecModWrite f value) s = .next u ∧ u.out = s.out ∧ SameFuncs s u
        ∧ ∀ k, vec u f.val k = if k = selectedVec s f.val
          then { moderated value (vec s f.val (selectedVec s f.val)) with counted := 0, running := false } else vec s f.val k)) := by
  have hRun := exec_intVecModWrite hr value
  refine ⟨fun hFar => ?_, fun hNear => ⟨fun hCounted => ?_, fun hNone => ?_⟩⟩
  · rw [if_neg (Nat.not_lt.2 hFar)] at hRun
    exact hRun
  · rw [if_pos hNear, if_pos hCounted] at hRun
    obtain ⟨hSame, hThere, hHere, hOut⟩ := msixDue_due f.val (selectedVec s f.val) s
    refine ⟨_, hRun, hSame.trans (modVec_sameFuncs _ _ _ _), fun j hj => ?_, ?_, hOut⟩
    · rw [vec_modWritten, if_neg hj, hThere j hj]
    · rw [vec_modWritten, if_pos rfl, hHere]
      rfl
  · rw [if_pos hNear, if_neg (not_not.2 hNone)] at hRun
    exact ⟨_, hRun, rfl, modVec_sameFuncs _ _ _ _, fun k => vec_modWritten _ _ value s k⟩

/-- The state in which the masks have been lifted. -/
def unmaskedIn (f k : Nat) (s : State) : State :=
  modFn f (fun x => { x with msixEn := true, fmask := false }) (modVec f k (fun y => { y with ctrl := y.ctrl &&& 0xFFFFFFFE }) s)

theorem exec_msixUnmask (hl : live s = true) (f : FuncId) (k : Fin 2048) :
    exec (.msixUnmask f k) s = .next (releaseVectors f.val (unmaskedIn f.val k.val s)) :=
  runs_of_guard (o := execMsixUnmask f k s) (s := s) (f := fun s => releaseVectors f.val (unmaskedIn f.val k.val s)) rfl hl

theorem vec_unmaskedIn (f k : Nat) (s : State) (j : Nat) : vec (unmaskedIn f k s) f j
    = { vec s f j with ctrl := if j = k then (vec s f j).ctrl &&& 0xFFFFFFFE else (vec s f j).ctrl } := by
  obtain ⟨m, hm⟩ : ∃ m, m = modVec f k (fun y => { y with ctrl := y.ctrl &&& 0xFFFFFFFE }) s := ⟨_, rfl⟩
  have hHere : vec m f j = { vec s f j with ctrl := if j = k then (vec s f j).ctrl &&& 0xFFFFFFFE else (vec s f j).ctrl } := by
    rw [hm, vec_modVec]
    by_cases hj : j = k
    · rw [if_pos ⟨rfl, hj⟩, if_pos hj, hj]
    · rw [if_neg fun h => hj h.2, if_neg hj]
  unfold unmaskedIn
  rw [← hm, ← hHere]
  unfold vec
  rw [fn_modFn, if_pos rfl]

/-- What unmasking makes of the functions, vectors apart. -/
theorem unmaskedIn_funcs (f k : Nat) (s : State) :
    { fn (unmaskedIn f k s) f with vecs := [] } = { fn s f with msixEn := true, fmask := false, vecs := [] }
    ∧ ∀ g, g ≠ f → { fn (unmaskedIn f k s) g with vecs := [] } = { fn s g with vecs := [] } := by
  have hSame := modVec_sameFuncs f k (fun y => { y with ctrl := y.ctrl &&& 0xFFFFFFFE }) s
  unfold unmaskedIn
  refine ⟨?_, fun g hg => ?_⟩
  · rw [fn_modFn, if_pos rfl]
    exact (congrArg (fun x : Func => { x with msixEn := true, fmask := false }) (hSame f) :)
  · rw [fn_modFn, if_neg hg]
    exact hSame g

theorem msixRelease_same (f k : Nat) (v : State) : SameFuncs v (msixRelease f k v) := by
  unfold msixRelease
  dsimp only
  split
  · exact (modVec_sameFuncs f k _ v).trans (emit_sameFuncs _ _)
  · exact sameFuncs_refl v

/-- The vectors of the release are as they were, Pending Bits apart; that of another vector stays as it is. -/
theorem vec_msixRelease (f k : Nat) (v : State) (j : Nat) :
    { vec (msixRelease f k v) f j with pend := false } = { vec v f j with pend := false }
    ∧ (j ≠ k → vec (msixRelease f k v) f j = vec v f j) ∧ ((vec v f j).pend = false → vec (msixRelease f k v) f j = vec v f j)
    ∧ vecReady (msixRelease f k v) f j = vecReady v f j := by
  obtain ⟨m, hm⟩ : ∃ m, m = modVec f k (fun y => { y with pend := false }) v := ⟨_, rfl⟩
  have hVec : vec m f j = if j = k then { vec v f k with pend := false } else vec v f j := by
    rw [hm, vec_modVec]
    exact if_congr (by rw [and_iff_right rfl]) rfl rfl
  have hReady : vecReady m f j = vecReady v f j := by
    rw [hm, vecReady_modVec]
    exact fun _ => rfl
  unfold msixRelease
  dsimp only
  rw [← hm]
  split
  · refine ⟨?_, fun hj => hVec.trans (if_neg hj), fun hp => hVec.trans ?_, hReady⟩
    · refine (congrArg (fun y : Vec => { y with pend := false }) hVec).trans ?_
      split
      · next h => rw [h]
      · rfl
    · split
      · next h => rw [← h, ← hp]
      · rfl
  · exact ⟨rfl, fun _ => rfl, fun _ => rfl, rfl⟩

/-- A vector that nothing holds sends its message with the release. -/
theorem msixRelease_sends_held (hp : (vec v f k).pend = true) (hr : vecReady v f k = true) :
    (vec (msixRelease f k v) f k).pend = false
      ∧ Output.msix f k (vec v f k).addr (vec v f k).data ∈ (msixRelease f k v).out := by
  unfold msixRelease
  dsimp only
  rw [hp, hr, Bool.and_true, if_pos rfl]
  refine ⟨?_, List.mem_append_right _ (List.mem_singleton.2 rfl)⟩
  exact congrArg Vec.pend ((vec_modVec f k (fun y => { y with pend := false }) v f k).trans (if_pos ⟨rfl, rfl⟩))

/-- A vector of a list that nothing holds sends its message with the releases of the list. -/
theorem releases_send (l : List Nat) (hk : k ∈ l) (hp : (vec v f k).pend = true) (hr : vecReady v f k = true) :
    (vec (each l (msixRelease f) v) f k).pend = false
      ∧ Output.msix f k (vec v f k).addr (vec v f k).data ∈ (each l (msixRelease f) v).out := by
  induction l generalizing v with
  | nil => cases hk
  | cons j l ih =>
    rw [each_cons]
    by_cases hj : k = j
    · subst hj
      obtain ⟨hPast, hSent⟩ := msixRelease_sends_held hp hr
      refine ⟨?_, (each_grows l _ _ fun j u => (msixRelease_sends f j u).2).mem hSent⟩
      exact each_preserves (fun u => (vec u f k).pend = false) l _ (fun j _ u hu => by
        rw [(vec_msixRelease f j u k).2.2.1 hu]
        exact hu) _ hPast
    · obtain ⟨-, hStays, -, hReady⟩ := vec_msixRelease f j v k
      have hRest := ih ((List.mem_cons.1 hk).resolve_left hj) (v := msixRelease f j v) (by rw [hStays hj]; exact hp) (by rw [hReady]; exact hr)
      rw [hStays hj] at hRest
      exact hRest

theorem tfind_of_tget {α : Type} {l : Tbl α} {k : Nat} {d : α} (h : tget d l k ≠ d) : (k, tget d l k) ∈ l := by
  induction l with
  | nil => exact absurd rfl h
  | cons e l ih =>
    obtain ⟨j, y⟩ := e
    unfold tget at h ⊢
    split
    · next hj =>
      rw [hj]
      exact List.mem_cons_self
    · next hj =>
      rw [if_neg hj] at h
      exact List.mem_cons_of_mem _ (ih h)

/-- What the statement says of an unmask. -/
theorem msixUnmask_does (hl : live s = true) (f : FuncId) (k : Fin 2048) : ∃ u, exec (.msixUnmask f k) s = .next u ∧ Frame [.out, .fns] s u
    ∧ { fn u f.val with vecs := [] } = { fn s f.val with msixEn := true, fmask := false, vecs := [] }
    ∧ (∀ g, g ≠ f.val → { fn u g with vecs := [] } = { fn s g with vecs := [] })
    ∧ (∀ j, { vec u f.val j with pend := false }
      = { vec s f.val j with ctrl := if j = k.val then (vec s f.val j).ctrl &&& 0xFFFFFFFE else (vec s f.val j).ctrl, pend := false })
    ∧ ((vec s f.val k.val).pend = true → (fn s f.val).bme = true →
      (vec u f.val k.val).pend = false ∧ .msix f.val k.val (vec s f.val k.val).addr (vec s f.val k.val).data ∈ u.out)
    ∧ ((fn s f.val).bme = false → u.out = s.out ∧ ∀ j, (vec u f.val j).pend = (vec s f.val j).pend) := by
  obtain ⟨m, hm⟩ : ∃ m, m = unmaskedIn f.val k.val s := ⟨_, rfl⟩
  obtain ⟨l, hIs⟩ : ∃ l, l = ((fn m f.val).vecs.filter fun y => y.2.pend).map Prod.fst := ⟨_, rfl⟩
  have hRun : exec (.msixUnmask f k) s = .next (each l (msixRelease f.val) m) := by
    rw [exec_msixUnmask hl, hIs, hm]
    rfl
  have hVec : ∀ j, vec m f.val j
      = { vec s f.val j with ctrl := if j = k.val then (vec s f.val j).ctrl &&& 0xFFFFFFFE else (vec s f.val j).ctrl } :=
    fun j => hm ▸ vec_unmaskedIn f.val k.val s j
  obtain ⟨hHere, hThere⟩ := unmaskedIn_funcs f.val k.val s
  rw [← hm] at hHere hThere
  have hOut : m.out = s.out := hm ▸ rfl
  have hSame : SameFuncs m (each l (msixRelease f.val) m) := each_sameFuncs l _ m fun j v => msixRelease_same f.val j v
  have hBme : (fn m f.val).bme = (fn s f.val).bme := (congrArg Func.bme hHere :)
  have hEn : (fn m f.val).msixEn = true := (congrArg Func.msixEn hHere :)
  have hMask : (fn m f.val).fmask = false := (congrArg Func.fmask hHere :)
  refine ⟨_, hRun, ?_, (hSame f.val).trans hHere, fun g hg => (hSame g).trans (hThere g hg), fun j => ?_, fun hp hb => ?_, fun hb => ?_⟩
  · have hMasks : Frame [.fns] s m := by
      rw [hm]
      exact (modFn_frame _ _ _).trans (modFn_frame _ _ _)
    exact (hMasks.mono fun _ h => List.mem_cons_of_mem _ h).trans
      (each_frame l _ (fun j v bl hb => msixRelease_keeps f.val j (Keeps.refl bl v) hb) m)
  · exact (each_unchanged (fun v : State => { vec v f.val j with pend := false }) l (msixRelease f.val)
      (fun i _ v => (vec_msixRelease f.val i v j).1) m).trans (congrArg (fun y : Vec => { y with pend := false }) (hVec j))
  · have hPend : (vec m f.val k.val).pend = true := by rw [hVec]; exact hp
    have hIn : k.val ∈ l := by
      rw [hIs]
      refine List.mem_map.2 ⟨(k.val, vec m f.val k.val), List.mem_filter.2 ⟨tfind_of_tget fun h => ?_, hPend⟩, rfl⟩
      rw [show vec m f.val k.val = {} from h] at hPend
      cases hPend
    have hBit : bit ((vec s f.val k.val).ctrl &&& 0xFFFFFFFE) 0 = false := by
      unfold bit
      rw [BitVec.getLsbD_and]
      exact Bool.and_false _
    have hReady : vecReady m f.val k.val = true := by
      unfold vecReady
      dsimp only
      rw [hEn, hBme, hb, hMask, hVec, if_pos rfl, hBit]
      rfl
    have hSent := releases_send l hIn hPend hReady
    rw [show (vec m f.val k.val).addr = (vec s f.val k.val).addr from (congrArg Vec.addr (hVec k.val) :),
      show (vec m f.val k.val).data = (vec s f.val k.val).data from (congrArg Vec.data (hVec k.val) :)] at hSent
    exact hSent
  · have hId : each l (msixRelease f.val) m = m := each_id l _ fun j _ => by
      have hHeld : vecReady m f.val j = false := by
        unfold vecReady
        dsimp only
        rw [hBme, hb, Bool.and_false]
        rfl
      unfold msixRelease
      dsimp only
      rw [hHeld, Bool.and_false, if_neg Bool.false_ne_true]
    rw [hId]
    exact ⟨hOut, fun j => (congrArg Vec.pend (hVec j) :)⟩

/-! ### The obligation -/

/-- Settles O55: the claim takes the best of the claimable sources; a write of a word, a message that is due and the releases of an
unmask are each one step per source or vector. -/
theorem eventSources : Obligations.EventSources := by
  unfold Obligations.EventSources
  intro s
  refine ⟨fun hl => ⟨fun t => ?_, fun w b => ⟨enSet_does hl w b, enClr_does hl w b, pendSet_does hl w b, pendClr_does hl w b⟩,
    fun f k => ⟨fun hIdle => ?_, fun hRuns => ?_, msixUnmask_does hl f k⟩⟩, fun f value hr => intVecModWrite_does f value hr⟩
  · have hRun : exec (.eicClaim t) s = .next (claim t s) :=
      runs_of_guard (o := execEicClaim t s) (s := s) (f := claim t) rfl hl
    refine ⟨fun hNone => by rw [hRun, claim_none hNone], fun l r x p hIs hl hr => ?_⟩
    refine ⟨claimable_is (t := t.val) (by rw [hIs]; exact List.mem_append_right _ List.mem_cons_self), claimedBy t x s, ?_,
      claimedBy_does t x s⟩
    rw [hRun, claim_first hIs hl hr]
  · rw [exec_msixIntervalExpiry hl, if_neg (ne_true_of_eq_false hIdle)]
  · have hRun := exec_msixIntervalExpiry hl f k
    rw [if_pos hRuns] at hRun
    exact ⟨_, hRun, msixDue_due f.val k.val s⟩

end
end Sys2Proof.Machine
end


section
/-! PROOFS. Mailboxes: their notices, the commands that the firmware takes from them, and the I3C sideband (R430 to R441). -/

namespace Sys2Proof.Machine

section
variable {s t u v w : State} {b : Box} {n : Notice} {k : Nat}

/-- What the statement says of a change of one mailbox. -/
def OnlyBox (k : Nat) (y : MBox) (s u : State) : Prop := ∀ j, box u j = if j = k then y else box s j

theorem onlyBox_of_mail {g : MBox → MBox} (h : u.mail = (modBox k g s).mail) : OnlyBox k (g (box s k)) s u := fun j => by
  rw [show box u j = box (modBox k g s) j from congrArg (fun m : Mail => tget ({} : MBox) m.box j) h, box_modBox]

theorem frame_setMail (v : State) (x : Mail) : Frame [.mail] v { v with mail := x } := fun bl hb => by
  cases bl
  case mail => exact absurd (by decide) hb
  all_goals rfl

/-! ### Outbound notices (R432, R433) -/

/-- DONE takes the notice out of the slot. -/
theorem mbxOutDone_does (b : Box) : ((canCommit s b = false ∨ 130 ≤ boxKey b) → exec (.mbxOutDone b) s = .next s)
    ∧ (canCommit s b = true → boxKey b < 130 → ∃ u, exec (.mbxOutDone b) s = .next u ∧ Frame [.mail] s u
      ∧ OnlyBox (boxKey b) { box s (boxKey b) with outFull := false, outColl := false } s u) := by
  have hDone : ∀ k, Frame [.mail] s (outDone k s) ∧ OnlyBox k { box s k with outFull := false, outColl := false } s (outDone k s) :=
    fun k => ⟨frame_setMail s _, onlyBox_of_mail rfl⟩
  cases b with
  | func f =>
    refine ⟨fun h => ?_, fun h _ => ⟨_, (guarded_of h : guarded (hostReaches s f.val) s (outDone f.val) = _), hDone f.val⟩⟩
    exact (guarded_of_false (h.resolve_right (Nat.not_le.2 (Nat.lt_of_lt_of_le f.isLt (by decide)))) :
      guarded (hostReaches s f.val) s (outDone f.val) = _)
  | secure =>
    refine ⟨fun h => ?_, fun h _ => ⟨_, (guarded_of h : guarded (hostReaches s 0 && s.straps.secHost) s (outDone 128) = _), hDone 128⟩⟩
    exact (guarded_of_false (h.resolve_right (by decide)) : guarded (hostReaches s 0 && s.straps.secHost) s (outDone 128) = _)
  | i3c =>
    refine ⟨fun h => ?_, fun h _ => ⟨_, (guarded_of h : guarded (live s && s.mail.i3cAddr.isSome) s (outDone 129) = _), hDone 129⟩⟩
    exact (guarded_of_false (h.resolve_right (by decide)) : guarded (live s && s.mail.i3cAddr.isSome) s (outDone 129) = _)
  | toCores e => exact ⟨fun _ => rfl, fun _ h => absurd h (Nat.not_lt.2 (Nat.le_add_right 130 e.val))⟩
  | toEngine e => exact ⟨fun _ => rfl, fun _ h => absurd h (Nat.not_lt.2 (Nat.le_trans (by decide) (Nat.le_add_right 146 e.val)))⟩

/-- A mailbox with the notice in its outbound slot. -/
def slotted (n : Notice) (y : MBox) : MBox := { y with outSlot := n, outColl := y.outColl || y.outFull, outFull := true }

theorem commitOut_mail (k : Nat) (n : Notice) (v : State) : (commitOut k n v).mail = (modBox k (slotted n) v).mail := by
  unfold commitOut
  dsimp only
  split
  · split
    · exact countEvent_mail _ _ _
    · rfl
  · split
    · split
      · exact countEvent_mail _ _ _
      · rfl
    · split <;> rfl

theorem commitOut_ibi (n : Notice) (v : State) : (commitOut 129 n v).out = v.out ++ [.ibi n.typ] := rfl

/-- A notice of a function whose vector it fills at once sends its message. -/
theorem commitOut_sends (hk : k < 128) (hOn : bit (box v k).vec 15 = true) (hp : (vec v k (field (box v k).vec 0 11)).pend = false)
    (hc : (vec v k (field (box v k).vec 0 11)).count.toNat ≤ 1) (hr : vecReady v k (field (box v k).vec 0 11) = true) :
    (commitOut k n v).out = v.out ++ [.msix k (field (box v k).vec 0 11) (vec v k (field (box v k).vec 0 11)).addr
      (vec v k (field (box v k).vec 0 11)).data] := by
  have hVec : (box (modBox k (slotted n) v) k).vec = (box v k).vec := by
    rw [box_modBox, if_pos rfl]
    rfl
  have hIs : commitOut k n v = if k < 128 then
      if bit (box (modBox k (slotted n) v) k).vec 15 then
        countEvent k (field (box (modBox k (slotted n) v) k).vec 0 11) (modBox k (slotted n) v)
      else modBox k (slotted n) v
    else if k = 128 then
      if bit (box (modBox k (slotted n) v) k).vec 15 then
        countEvent 0 (field (box (modBox k (slotted n) v) k).vec 0 11) (modBox k (slotted n) v)
      else modBox k (slotted n) v
    else if k = 129 then emit (.ibi n.typ) (modBox k (slotted n) v) else modBox k (slotted n) v := rfl
  rw [hIs, if_pos hk, hVec, if_pos hOn]
  exact countEvent_sends (v := modBox k (slotted n) v) hp hc hr

theorem exec_mbxOutboundPost (hr : fwRuns s = true) (b : Box) : exec (.mbxOutboundPost b) s = .next (postWaiting (boxKey b) s) :=
  runs_of_guard (o := execMbxOutboundPost b s) (s := s) (f := postWaiting (boxKey b)) rfl hr

/-- What the statement says of the post of a notice that waits. -/
theorem mbxOutboundPost_does (hr : fwRuns s = true) (b : Box) :
    (((box s (boxKey b)).waiting = [] ∨ (box s (boxKey b)).outFull = true) → exec (.mbxOutboundPost b) s = .next s)
    ∧ ∀ n r, (box s (boxKey b)).waiting = n :: r → (box s (boxKey b)).outFull = false → ∃ u, exec (.mbxOutboundPost b) s = .next u
      ∧ Frame [.out, .mail, .fns] s u
      ∧ OnlyBox (boxKey b) { box s (boxKey b) with waiting := r, outSlot := n, outFull := true } s u
      ∧ (boxKey b = 129 → u.out = s.out ++ [.ibi n.typ])
      ∧ ∀ v, boxKey b < 128 → bit (box s (boxKey b)).vec 15 = true → v = field (box s (boxKey b)).vec 0 11 →
        (vec s (boxKey b) v).pend = false → (vec s (boxKey b) v).count.toNat ≤ 1 → vecReady s (boxKey b) v = true →
        u.out = s.out ++ [.msix (boxKey b) v (vec s (boxKey b) v).addr (vec s (boxKey b) v).data] := by
  have hRun := exec_mbxOutboundPost hr b
  obtain ⟨k, hk⟩ : ∃ k, k = boxKey b := ⟨_, rfl⟩
  rw [← hk] at hRun ⊢
  refine ⟨fun h => ?_, fun n r hWaits hEmpty => ?_⟩
  · rw [hRun]
    unfold postWaiting
    dsimp only
    split
    · next n r hWaits => rw [if_pos (h.resolve_left (by rw [hWaits]; exact List.cons_ne_nil n r))]
    · rfl
  · obtain ⟨z, hz⟩ : ∃ z, z = setBox s k { box s k with waiting := r } := ⟨_, rfl⟩
    have hIs : postWaiting k s = commitOut k n z := by
      unfold postWaiting
      dsimp only
      rw [hz, hWaits]
      dsimp only
      rw [hEmpty]
      exact if_neg Bool.false_ne_true
    have hBox : box z k = { box s k with waiting := r } := by rw [hz, box_setBox, if_pos rfl]
    rw [hIs] at hRun
    refine ⟨_, hRun, ?_, fun j => ?_, fun h129 => ?_, fun v hLow hOn hv hp hc hReady => ?_⟩
    · have hSet : Frame [.mail] s z := hz ▸ frame_setMail s _
      exact (hSet.mono fun _ h => List.mem_singleton.1 h ▸ List.mem_cons_of_mem _ List.mem_cons_self).trans
        fun bl hb => commitOut_keeps k n (Keeps.refl bl z) hb
    · rw [onlyBox_of_mail (commitOut_mail k n z) j, hBox]
      split
      · unfold slotted
        dsimp only
        rw [hEmpty, Bool.or_false]
      · next hj => rw [hz, box_setBox, if_neg hj]
    · rw [h129, commitOut_ibi, hz]
      rfl
    · have hVec : (box z k).vec = (box s k).vec := (congrArg MBox.vec hBox :)
      have hSent := commitOut_sends (v := z) (n := n) hLow (by rw [hVec]; exact hOn) (by rw [hVec, ← hv, hz]; exact hp)
        (by rw [hVec, ← hv, hz]; exact hc) (by rw [hVec, ← hv, hz]; exact hReady)
      rw [hVec, ← hv, hz] at hSent
      exact hz ▸ hSent

/-! ### Notices that the firmware takes (R432, R435) -/

/-- The slot that has been taken, and the rises of its sources. -/
def takenFrom (b : Box) (s : State) : State :=
  withRises (boxSrcs (boxKey b)) (modBox (boxKey b) fun x => { x with inFull := false }) s

theorem takenFrom_mail (b : Box) (s : State) :
    (takenFrom b s).mail = (modBox (boxKey b) (fun x => { x with inFull := false }) s).mail :=
  withRises_keeps_applied (bl := .mail) _ _ s (by decide)

theorem exec_mbxNoticeTake (b : Box) :
    exec (.mbxNoticeTake b) s = guarded (canTake s b) s fun s => startRead b (box s (boxKey b)).inSlot (takenFrom b s) := rfl

theorem badPtr_of_mail (h : u.mail.secIn = v.mail.secIn ∧ u.mail.i3cIn = v.mail.i3cIn) (b : Box) (n : Notice) :
    badPtr u b n = badPtr v b n := by
  have hChip : onChip u b = onChip v b := by
    cases b with
    | secure =>
      unfold onChip
      rw [h.1]
    | i3c =>
      unfold onChip
      rw [h.2]
    | func f => rfl
    | toCores e => rfl
    | toEngine e => rfl
  unfold badPtr
  rw [hChip]

theorem startRead_silent (hc : boxChan b = none) : startRead b n v = v := by
  unfold startRead
  rw [hc]

theorem startRead_bad (hc : boxChan b ≠ none) (hb : badPtr v b n = true) :
    startRead b n v = domainRests (postOut (boxKey b) ⟨n.ptr, n.seq, 0x01⟩ v) := by
  obtain ⟨c, hc⟩ := Option.ne_none_iff_exists'.1 hc
  unfold startRead
  rw [hc]
  exact if_pos hb

theorem startRead_reads (hc : boxChan b ≠ none) (hb : badPtr v b n = false) : ∃ o,
    startRead b n v = { modBox (boxKey b) (fun x => { x with taken := x.taken ++ [n] }) v with out := o }
      ∧ ∀ f, b = .func f → .hostRead f.val n.ptr.toNat (16 + (bodySize n.typ.toNat).getD 0) ∈ o := by
  obtain ⟨c, hc⟩ := Option.ne_none_iff_exists'.1 hc
  unfold startRead
  rw [hc]
  dsimp only
  rw [if_neg (ne_true_of_eq_false hb)]
  cases b with
  | func f =>
    refine ⟨_, rfl, fun g hg => ?_⟩
    cases hg
    exact List.mem_append_right _ (List.mem_singleton.2 rfl)
  | secure => exact ⟨_, rfl, fun f hf => by cases hf⟩
  | i3c => exact ⟨_, rfl, fun f hf => by cases hf⟩
  | toCores e => cases hc
  | toEngine e => cases hc

/-- A posted notice leaves what stands in the inbound half of its mailbox. -/
theorem postOut_inbound (k : Nat) (n : Notice) (v : State) : (box (postOut k n v) k).inFull = (box v k).inFull
    ∧ (box (postOut k n v) k).inColl = (box v k).inColl ∧ (box (postOut k n v) k).taken = (box v k).taken := by
  unfold postOut
  dsimp only
  split
  · rw [box_setBox, if_pos rfl]
    exact ⟨rfl, rfl, rfl⟩
  · rw [onlyBox_of_mail (commitOut_mail k n v) k, if_pos rfl]
    exact ⟨rfl, rfl, rfl⟩

/-- What the statement says of a notice that the firmware takes. -/
theorem mbxNoticeTake_does (b : Box) : (canTake s b = false → exec (.mbxNoticeTake b) s = .next s)
    ∧ (canTake s b = true → ∃ u, exec (.mbxNoticeTake b) s = .next u
      ∧ (boxChan b = none → OnlyBox (boxKey b) { box s (boxKey b) with inFull := false } s u)
      ∧ (boxChan b ≠ none → badPtr s b (box s (boxKey b)).inSlot = true → (box u (boxKey b)).inFull = false
        ∧ (box u (boxKey b)).inColl = (box s (boxKey b)).inColl ∧ (box u (boxKey b)).taken = (box s (boxKey b)).taken
        ∧ Posted (boxKey b) ⟨(box s (boxKey b)).inSlot.ptr, (box s (boxKey b)).inSlot.seq, 1⟩ u)
      ∧ (boxChan b ≠ none → badPtr s b (box s (boxKey b)).inSlot = false →
        OnlyBox (boxKey b) { box s (boxKey b) with
          inFull := false, taken := (box s (boxKey b)).taken ++ [(box s (boxKey b)).inSlot] } s u
        ∧ ∀ f, b = .func f → .hostRead f.val (box s (boxKey b)).inSlot.ptr.toNat
          (16 + (bodySize (box s (boxKey b)).inSlot.typ.toNat).getD 0) ∈ u.out)) := by
  obtain ⟨n, hn⟩ : ∃ n, n = (box s (boxKey b)).inSlot := ⟨_, rfl⟩
  rw [← hn]
  have hMail := takenFrom_mail b s
  have hHere := onlyBox_of_mail hMail
  have hBad : badPtr (takenFrom b s) b n = badPtr s b n := badPtr_of_mail (by rw [hMail]; exact ⟨rfl, rfl⟩) b n
  refine ⟨fun hc => (exec_mbxNoticeTake b).trans (guarded_of_false hc), fun hc => ⟨startRead b n (takenFrom b s), ?_, fun hNone => ?_, fun hChan hb => ?_,
    fun hChan hb => ?_⟩⟩
  · rw [exec_mbxNoticeTake, guarded_of hc, hn]
  · rw [startRead_silent hNone]
    exact hHere
  · obtain ⟨hFull, hColl, hTaken⟩ := postOut_inbound (boxKey b) ⟨n.ptr, n.seq, 0x01⟩ (takenFrom b s)
    rw [startRead_bad hChan (hBad.trans hb)]
    rw [hHere (boxKey b), if_pos rfl] at hFull hColl hTaken
    exact ⟨hFull, hColl, hTaken, postOut_posted _ _ _⟩
  · obtain ⟨o, hIs, hRead⟩ := startRead_reads hChan (hBad.trans hb)
    rw [hIs]
    refine ⟨fun j => ?_, hRead⟩
    have hBox : box (modBox (boxKey b) (fun x => { x with taken := x.taken ++ [n] }) (takenFrom b s)) j
        = if j = boxKey b then { box s (boxKey b) with inFull := false, taken := (box s (boxKey b)).taken ++ [n] } else box s j := by
      rw [box_modBox, hHere, hHere, if_pos rfl]
      split <;> rfl
    exact hBox

end
end Sys2Proof.Machine
end


section
/-! PROOFS. The commands that the firmware reads from a mailbox (R434 to R436). -/

namespace Sys2Proof.Machine

section
variable {s t u v w : State} {b : Box} {n : Notice} {k : Nat} {c : Chan} {h : BitVec 128} {body : List Byte} {ctx : CmdCtx}

/-! ### Numbers in a body -/

theorem leNat_lt (l : List Byte) : leNat l < 256 ^ l.length := by
  induction l with
  | nil => exact Nat.one_pos
  | cons x l ih =>
    have hx := x.isLt
    unfold leNat
    rw [List.length_cons, Nat.pow_succ]
    omega

theorem leNat_word (l : List Byte) : (BitVec.ofNat 32 (leNat (l.take 4))).toNat = leNat (l.take 4) := by
  have hLt := leNat_lt (l.take 4)
  have hPow : 256 ^ (l.take 4).length ≤ 256 ^ 4 := Nat.pow_le_pow_right (by decide) (List.length_take_le 4 l)
  rw [BitVec.toNat_ofNat]
  exact Nat.mod_eq_of_lt (Nat.lt_of_lt_of_le hLt hPow)

theorem dHalf_half (l : List Byte) (i : Nat) : (BitVec.ofNat 16 (dHalf l i)).toNat = dHalf l i := by
  have h0 := (l.getD i 0).isLt
  have h1 := (l.getD (i + 1) 0).isLt
  rw [BitVec.toNat_ofNat]
  refine Nat.mod_eq_of_lt ?_
  unfold dHalf dByte
  omega

/-! ### A good command does what its row does (R435, R436) -/

theorem live_of_fwRuns (h : fwRuns v = true) : live v = true := (Bool.and_eq_true_iff.1 h).1

/-- The kernel would compute the sizes of the flash if the two rows that write it were told apart by evaluation: hence a split. -/
theorem runCommand_fwWrite {code : Nat} (hc : code = 0xA1) : runCommand ctx code body v
    = fwWriteOp ctx (leNat (body.take 4)) ((body.drop 16).take (leNat ((body.drop 4).take 4))) v := by
  unfold runCommand
  split
  case h_28 => rfl
  case h_33 => contradiction
  all_goals omega

theorem runCommand_fwErase {code : Nat} (hc : code = 0xA2) : runCommand ctx code body v
    = fwEraseOp ctx (leNat (body.take 4)) (leNat ((body.drop 4).take 4)) v := by
  unfold runCommand
  split
  case h_29 => rfl
  case h_33 => contradiction
  all_goals omega

theorem fwWrite_runs (hf : fwRuns v = true) :
    exec (.fwWrite ctx (BitVec.ofNat 32 (leNat (body.take 4))) ((body.drop 16).take (leNat ((body.drop 4).take 4)))) v
      = .next (runCommand ctx 0xA1 body v) := by
  have hRun : exec (.fwWrite ctx (BitVec.ofNat 32 (leNat (body.take 4))) ((body.drop 16).take (leNat ((body.drop 4).take 4)))) v
      = .next (fwWriteOp ctx (BitVec.ofNat 32 (leNat (body.take 4))).toNat ((body.drop 16).take (leNat ((body.drop 4).take 4))) v) :=
    guarded_of hf
  rw [hRun, leNat_word, runCommand_fwWrite rfl]

theorem fwErase_runs (hf : fwRuns v = true) :
    exec (.fwErase ctx (BitVec.ofNat 32 (leNat (body.take 4))) (BitVec.ofNat 32 (leNat ((body.drop 4).take 4)))) v
      = .next (runCommand ctx 0xA2 body v) := by
  have hRun : exec (.fwErase ctx (BitVec.ofNat 32 (leNat (body.take 4))) (BitVec.ofNat 32 (leNat ((body.drop 4).take 4)))) v
      = .next (fwEraseOp ctx (BitVec.ofNat 32 (leNat (body.take 4))).toNat (BitVec.ofNat 32 (leNat ((body.drop 4).take 4))).toNat v) :=
    guarded_of hf
  rw [hRun, leNat_word, leNat_word, runCommand_fwErase rfl]

/-- A row runs where the part drives the bus (topology), where the core die runs (the functions' commands), or where the firmware
does (flash). -/
theorem commandRow_runs {code : Nat} {d : Instr} (hRow : CommandRow ctx code body d) (hs : code < 0xA0 → serves v = true)
    (hf : fwRuns v = true) : exec d v = .next (runCommand ctx code body v) := by
  have hl := live_of_fwRuns hf
  have hHalf := fun (g : Nat → State) i =>
    (congrArg (fun q => .next (g q)) (dHalf_half body i) : (_ : Host.Outcome State Fault Refusal) = _)
  unfold CommandRow at hRow
  rcases hRow with ⟨rfl, rfl⟩ | ⟨rfl, rfl⟩ | ⟨rfl, rfl⟩ | ⟨rfl, rfl⟩ | ⟨rfl, rfl⟩ | ⟨rfl, rfl⟩ | hRow
  iterate 6 exact guarded_of (hs (by decide))
  rcases hRow with ⟨rfl, rfl⟩ | ⟨rfl, rfl⟩ | ⟨rfl, rfl⟩ | ⟨rfl, rfl⟩ | ⟨rfl, rfl⟩ | ⟨rfl, rfl⟩ | ⟨rfl, rfl⟩ | ⟨rfl, rfl⟩ | hRow
  iterate 6 exact guarded_of hl
  · exact (guarded_of hl).trans (hHalf (queueStopCmd ctx · v) 0)
  · exact (guarded_of hl).trans (hHalf (queueStartCmd ctx · v) 0)
  rcases hRow with ⟨rfl, rfl⟩ | ⟨rfl, rfl⟩ | ⟨rfl, rfl⟩ | ⟨rfl, rfl⟩ | ⟨rfl, rfl⟩ | ⟨rfl, rfl⟩ | ⟨rfl, rfl⟩ | ⟨rfl, rfl⟩ | hRow
  iterate 7 exact guarded_of hl
  · exact (guarded_of hl).trans (hHalf (devQueryOp ctx (body.getD 0 0).toNat · v) 2)
  rcases hRow with ⟨rfl, rfl⟩ | ⟨rfl, rfl⟩ | ⟨rfl, rfl⟩ | ⟨rfl, rfl⟩ | ⟨rfl, rfl⟩ | ⟨rfl, rfl⟩ | ⟨rfl, rfl⟩ | ⟨rfl, rfl⟩
  iterate 3 exact guarded_of hl
  · exact guarded_of hf
  · exact fwWrite_runs hf
  · exact fwErase_runs hf
  · exact guarded_of hf
  · exact guarded_of hf

/-! ### Headers (R434, R435) -/

/-- The header check that fails first on what stands in the header alone. -/
def BadHeader (c : Chan) (n : Notice) (h : BitVec 128) : Prop := hdrByte h 0 ≠ n.typ.toNat ∨ hdrSeq h ≠ n.seq ∨ hdrByte h 1 ≠ 0
  ∨ hdrByte h 6 ≠ 0 ∨ hdrByte h 7 ≠ 0 ∨ replyAligned c h = false

/-- The channel does not take commands of the code. -/
def WrongChannel (c : Chan) (code : Nat) : Prop := 0xA0 ≤ code ↔ ∃ f, c = .nonSecure f

open Classical in
theorem headerStatus_eq (c : Chan) (n : Notice) (h : BitVec 128) (body : List Byte) : headerStatus c n h body =
    if BadHeader c n h then 1 else if bodySize n.typ.toNat = none then 2 else if WrongChannel c n.typ.toNat then 4
    else if lenOk c n.typ.toNat (hdrLen h) body = false then 3 else 0 := by
  unfold headerStatus
  refine ite_congr ?_ (fun _ => rfl) fun _ => ite_congr ?_ (fun _ => rfl) fun _ => ite_congr ?_ (fun _ => rfl) fun _ =>
    ite_congr ?_ (fun _ => rfl) fun _ => rfl
  · unfold BadHeader
    simp only [Bool.or_eq_true, bne_iff_ne, Bool.not_eq_true', or_assoc]
  · rw [Option.isNone_iff_eq_none]
  · unfold WrongChannel fwCode
    rw [beq_iff_eq, Bool.eq_iff_iff, decide_eq_true_eq]
    refine propext (iff_congr Iff.rfl ?_)
    cases c with
    | nonSecure f => exact ⟨fun _ => ⟨f, rfl⟩, fun _ => rfl⟩
    | secure => exact ⟨fun h => absurd h Bool.false_ne_true, fun hf => by obtain ⟨f, hf⟩ := hf; cases hf⟩
    | i3c => exact ⟨fun h => absurd h Bool.false_ne_true, fun hf => by obtain ⟨f, hf⟩ := hf; cases hf⟩
  · rw [Bool.not_eq_true']

/-! ### Refused headers (R435) -/

/-- Where the answer to a refused header is written. -/
def refusalPlace (c : Chan) (n : Notice) (h : BitVec 128) : U64 :=
  if c == .i3c then 0 else if !replyAligned c h || (hdrReply h = 0 && c != .secure) then n.ptr else hdrReply h

/-- The answer to a refused header. -/
def refusalBytes (c : Chan) (h : BitVec 128) (st : Nat) : List Byte :=
  replyHeader (hdrByte h 0) (hdrSeq h) 0 st (sender c) (hdrReply h)

/-- What the statement says of a header that is refused with a status. -/
def HeaderRefused (c : Chan) (n : Notice) (h : BitVec 128) (st : Nat) (s u : State) : Prop :=
  (∀ f, c = .nonSecure f → if (fn s f.val).bme then
      .hostWrite f.val (refusalPlace c n h).toNat (refusalBytes c h st) ∈ u.out ∧ Posted f.val ⟨refusalPlace c n h, n.seq, n.typ⟩ u
    else (refusalPlace c n h, refusalBytes c h st, ⟨refusalPlace c n h, n.seq, n.typ⟩) ∈ (box u f.val).replies)
  ∧ (c = .secure → u.mail.secOut = mwrite s.mail.secOut (refusalPlace c n h).toNat
      ((refusalBytes c h st).take (2048 - (refusalPlace c n h).toNat)) ∧ Posted 128 ⟨refusalPlace c n h, n.seq, n.typ⟩ u)
  ∧ (c = .i3c → u.mail.i3cOut = mwrite s.mail.i3cOut 0 ((refusalBytes c h st).take 256) ∧ Posted 129 ⟨refusalPlace c n h, n.seq, n.typ⟩ u)

theorem refuseHeader_eq (c : Chan) (n : Notice) (h : BitVec 128) (st : Nat) (v : State) : refuseHeader c n h st v
    = writeReply (chanKey c) (refusalPlace c n h) (refusalBytes c h st) ⟨refusalPlace c n h, n.seq, n.typ⟩ v := rfl

/-- A posted notice leaves the on-chip outbound buffers. -/
theorem postOut_buffers (k : Nat) (n : Notice) (v : State) :
    (postOut k n v).mail.secOut = v.mail.secOut ∧ (postOut k n v).mail.i3cOut = v.mail.i3cOut := by
  unfold postOut
  dsimp only
  split
  · exact ⟨rfl, rfl⟩
  · rw [commitOut_mail]
    exact ⟨rfl, rfl⟩

theorem writeReply_waits {f : Nat} (hf : f < 128) (hb : (fn v f).bme = false) (a : U64) (bytes : List Byte) (n : Notice) :
    (a, bytes, n) ∈ (box (writeReply f a bytes n v) f).replies := by
  unfold writeReply
  rw [if_neg (by omega), if_neg (by omega), if_neg (ne_true_of_eq_false hb), box_modBox, if_pos rfl]
  exact List.mem_append_right _ (List.mem_singleton.2 rfl)

theorem refuseHeader_does (c : Chan) (n : Notice) (h : BitVec 128) (st : Nat) (hFns : v.fns = s.fns)
    (hMail : v.mail.secOut = s.mail.secOut ∧ v.mail.i3cOut = s.mail.i3cOut) :
    HeaderRefused c n h st s (domainRests (refuseHeader c n h st v)) := by
  rw [refuseHeader_eq]
  cases c with
  | nonSecure f =>
    refine ⟨fun g hg => ?_, fun h => (by cases h), fun h => (by cases h)⟩
    cases hg
    cases hb : (fn s f.val).bme with
    | true =>
      have hOn : (fn v f.val).bme = true := by rw [fn_of_fns hFns, hb]
      have hWrite := writeReply_writes f.isLt (v := v) hOn (refusalPlace (.nonSecure f) n h)
        (bytes := refusalBytes (.nonSecure f) h st) (List.cons_ne_nil _ _) ⟨refusalPlace (.nonSecure f) n h, n.seq, n.typ⟩
      have hPost : writeReply f.val (refusalPlace (.nonSecure f) n h) (refusalBytes (.nonSecure f) h st)
          ⟨refusalPlace (.nonSecure f) n h, n.seq, n.typ⟩ v = postOut f.val ⟨refusalPlace (.nonSecure f) n h, n.seq, n.typ⟩
            (hostWrite f.val (refusalPlace (.nonSecure f) n h).toNat (refusalBytes (.nonSecure f) h st) v) := by
        have hf := f.isLt
        unfold writeReply
        rw [if_neg (by omega), if_neg (by omega), if_pos hOn]
      rw [if_pos rfl]
      refine ⟨hWrite, ?_⟩
      show Posted f.val _ (writeReply f.val _ _ _ v)
      rw [hPost]
      exact postOut_posted _ _ _
    | false =>
      rw [if_neg Bool.false_ne_true]
      exact writeReply_waits f.isLt (by rw [fn_of_fns hFns, hb]) _ _ _
  | secure =>
    refine ⟨fun f h => (by cases h), fun _ => ⟨?_, postOut_posted 128 _ _⟩, fun h => (by cases h)⟩
    refine (postOut_buffers 128 _ _).1.trans ?_
    rw [← hMail.1]
  | i3c =>
    refine ⟨fun f h => (by cases h), fun h => (by cases h), fun _ => ⟨?_, postOut_posted 129 _ _⟩⟩
    refine (postOut_buffers 129 _ _).2.trans ?_
    rw [← hMail.2]

/-! ### The command that is read (R435) -/

theorem gotBlock_refused {st : Nat} (k : Nat) (hSt : headerStatus c n h body = st) (h0 : st ≠ 0) :
    gotBlock k c n true h body v = refuseHeader c n h st v := by
  unfold gotBlock
  dsimp only
  rw [hSt, if_neg (by decide), if_pos (bne_iff_ne.2 h0)]

theorem gotBlock_runs (k : Nat) (hSt : headerStatus c n h body = 0) :
    gotBlock k c n true h body v = runCommand ⟨c, n.seq, n.ptr, hdrReply h⟩ n.typ.toNat body v := by
  unfold gotBlock
  dsimp only
  rw [hSt]
  rfl

/-- The block of an on-chip buffer, from the notice's pointer on. -/
def chipBlock (chip : Option (Memory × Nat)) (n : Notice) : List Byte :=
  match chip with
  | some m => mread m.1 n.ptr.toNat (m.2 - n.ptr.toNat)
  | none => []

/-- The header that is read: of the on-chip block, or what the host's memory gave. -/
def readHeader (chip : Option (Memory × Nat)) (n : Notice) (hdr : BitVec 128) : BitVec 128 :=
  if chip.isSome then BitVec.ofNat 128 (leNat ((chipBlock chip n).take 16)) else hdr

/-- The body that is read. -/
def readBody (chip : Option (Memory × Nat)) (n : Notice) (got : List Byte) : List Byte :=
  if chip.isSome then (chipBlock chip n).drop 16 else got

theorem exec_mbxCommandRead {rest : List Notice} (ok : Bool) (hdr : BitVec 128) (got : List Byte) (hc : boxChan b = some c)
    (ht : (box s (boxKey b)).taken = n :: rest) (hs : coresServe s b = true) : exec (.mbxCommandRead b ok hdr got) s
      = .next (domainRests (gotBlock (boxKey b) c n ((onChip s b).isSome || ok) (readHeader (onChip s b) n hdr)
        (readBody (onChip s b) n got) (modBox (boxKey b) (fun x => { x with taken := rest }) s))) := by
  have hChip : onChip (modBox (boxKey b) (fun x => { x with taken := rest }) s) b = onChip s b := by cases b <;> rfl
  show execMbxCommandRead b ok hdr got s = _
  unfold execMbxCommandRead
  rw [hc, ht]
  refine (guarded_of hs).trans (congrArg (fun w => Host.Outcome.next (domainRests w)) ?_)
  rw [hChip]
  cases onChip s b with
  | none => rfl
  | some m => rfl

theorem coresServe_runs (hs : coresServe s b = true) : fwRuns s = true ∧ ∀ f, b = .func f → serves s = true := by
  cases b with
  | func f =>
    obtain ⟨hAwake, hServes⟩ := Bool.and_eq_true_iff.1 hs
    exact ⟨(Bool.and_eq_true_iff.1 hAwake).1, fun _ _ => hServes⟩
  | secure => exact ⟨(Bool.and_eq_true_iff.1 hs).1, fun _ h => by cases h⟩
  | i3c => exact ⟨(Bool.and_eq_true_iff.1 hs).1, fun _ h => by cases h⟩
  | toCores e => exact ⟨(Bool.and_eq_true_iff.1 hs).1, fun _ h => by cases h⟩
  | toEngine e => exact ⟨(Bool.and_eq_true_iff.1 hs).1, fun _ h => by cases h⟩

theorem box_of_nonSecure {f : FuncId} (hc : boxChan b = some (.nonSecure f)) : b = .func f := by
  cases b with
  | func g =>
    cases hc
    rfl
  | secure => cases hc
  | i3c => cases hc
  | toCores e => cases hc
  | toEngine e => cases hc

/-- A good command does what its row does. -/
theorem command_runs {rest : List Notice} {d : Instr} (hc : boxChan b = some c) (hs : coresServe s b = true)
    (hWrong : ¬ WrongChannel c n.typ.toNat) (hRow : CommandRow ctx n.typ.toNat body d) :
    exec d (modBox (boxKey b) (fun x => { x with taken := rest }) s)
      = .next (runCommand ctx n.typ.toNat body (modBox (boxKey b) (fun x => { x with taken := rest }) s)) := by
  obtain ⟨hRuns, hServes⟩ := coresServe_runs hs
  refine commandRow_runs hRow (fun hLow => ?_) hRuns
  by_cases hFunc : ∃ f, c = .nonSecure f
  · obtain ⟨f, rfl⟩ := hFunc
    exact hServes f (box_of_nonSecure hc)
  · exact absurd (iff_of_false (Nat.not_le.2 hLow) hFunc) hWrong

/-- What the statement says of the read of a command whose block could be had. -/
theorem mbxCommandRead_does {rest : List Notice} (ok : Bool) (hdr : BitVec 128) (got : List Byte) (hc : boxChan b = some c)
    (ht : (box s (boxKey b)).taken = n :: rest) (hs : coresServe s b = true) (hGot : (onChip s b).isSome = true ∨ ok = true) :
    let refused := fun st => ∃ u, exec (.mbxCommandRead b ok hdr got) s = .next u
      ∧ HeaderRefused c n (readHeader (onChip s b) n hdr) st s u
    (BadHeader c n (readHeader (onChip s b) n hdr) → refused 1) ∧ (¬ BadHeader c n (readHeader (onChip s b) n hdr) →
      (bodySize n.typ.toNat = none → refused 2) ∧ (bodySize n.typ.toNat ≠ none → (WrongChannel c n.typ.toNat → refused 4)
        ∧ (¬ WrongChannel c n.typ.toNat →
          (lenOk c n.typ.toNat (hdrLen (readHeader (onChip s b) n hdr)) (readBody (onChip s b) n got) = false → refused 3)
          ∧ (lenOk c n.typ.toNat (hdrLen (readHeader (onChip s b) n hdr)) (readBody (onChip s b) n got) = true →
            ∀ d, CommandRow ⟨c, n.seq, n.ptr, hdrReply (readHeader (onChip s b) n hdr)⟩ n.typ.toNat (readBody (onChip s b) n got) d →
              ∃ w, exec d (modBox (boxKey b) (fun x => { x with taken := rest }) s) = .next w
                ∧ exec (.mbxCommandRead b ok hdr got) s = .next (domainRests w))))) := by
  have hRun := exec_mbxCommandRead ok hdr got hc ht hs
  have hOk : ((onChip s b).isSome || ok) = true := Bool.or_eq_true_iff.2 hGot
  rw [hOk] at hRun
  obtain ⟨hd, hHd⟩ : ∃ hd, hd = readHeader (onChip s b) n hdr := ⟨_, rfl⟩
  obtain ⟨bd, hBd⟩ : ∃ bd, bd = readBody (onChip s b) n got := ⟨_, rfl⟩
  rw [← hHd, ← hBd] at hRun ⊢
  have hStatus := headerStatus_eq c n hd bd
  have hRefused : ∀ st, headerStatus c n hd bd = st → st ≠ 0 → ∃ u, exec (.mbxCommandRead b ok hdr got) s = .next u
      ∧ HeaderRefused c n hd st s u := fun st hSt h0 => by
    rw [gotBlock_refused (boxKey b) hSt h0] at hRun
    exact ⟨_, hRun, refuseHeader_does c n hd st rfl ⟨rfl, rfl⟩⟩
  dsimp only
  refine ⟨fun h1 => ?_, fun h1 => ⟨fun h2 => ?_, fun h2 => ⟨fun h3 => ?_, fun h3 => ⟨fun h4 => ?_, fun h4 d hRow => ?_⟩⟩⟩⟩
  · exact hRefused 1 (hStatus.trans (if_pos h1)) (by decide)
  · rw [if_neg h1, if_pos h2] at hStatus
    exact hRefused 2 hStatus (by decide)
  · rw [if_neg h1, if_neg h2, if_pos h3] at hStatus
    exact hRefused 4 hStatus (by decide)
  · rw [if_neg h1, if_neg h2, if_neg h3, if_pos h4] at hStatus
    exact hRefused 3 hStatus (by decide)
  · rw [if_neg h1, if_neg h2, if_neg h3, if_neg (ne_false_of_eq_true h4)] at hStatus
    rw [gotBlock_runs (boxKey b) hStatus] at hRun
    exact ⟨_, command_runs hc hs h3 hRow, hRun⟩

end
end Sys2Proof.Machine
end


section
/-! PROOFS. The I3C sideband (R440), and with it the mailboxes. -/

namespace Sys2Proof.Machine

section
variable {s t u v w : State} {n : Notice}

/-! ### Bytes written (R440) -/

theorem i3cWriteByte_in {a : Nat} (ha : a < 256) (b : Byte) (v : State) :
    i3cWriteByte a b v = { v with mail := { v.mail with i3cIn := mput v.mail.i3cIn a b } } := if_pos ha

theorem i3cWriteByte_stage {a : Nat} (ha : 512 ≤ a) (hb : a < 522) (b : Byte) (v : State) :
    i3cWriteByte a b v = { v with mail := { v.mail with i3cStage := mput v.mail.i3cStage (a - 512) b } } :=
  (if_neg (by omega)).trans (if_pos ⟨ha, hb⟩)

theorem i3cWriteBytes_in (l : List Byte) {a : Nat} (ha : a + l.length ≤ 256) (v : State) :
    i3cWriteBytes a l v = { v with mail := { v.mail with i3cIn := mwrite v.mail.i3cIn a l } } := by
  induction l generalizing a v with
  | nil => rfl
  | cons b l ih =>
    rw [List.length_cons] at ha
    unfold i3cWriteBytes
    rw [i3cWriteByte_in (by omega), ih (by omega)]
    rfl

theorem i3cWriteBytes_stage (l : List Byte) {a : Nat} (ha : 512 ≤ a) (hb : a + l.length ≤ 522) (v : State) :
    i3cWriteBytes a l v = { v with mail := { v.mail with i3cStage := mwrite v.mail.i3cStage (a - 512) l } } := by
  induction l generalizing a v with
  | nil => rfl
  | cons b l ih =>
    rw [List.length_cons] at hb
    unfold i3cWriteBytes
    rw [i3cWriteByte_stage ha (by omega), ih (by omega) (by omega), show a + 1 - 512 = a - 512 + 1 by omega]
    rfl

/-- A mailbox with a notice in its inbound slot. -/
def slottedIn (n : Notice) (y : MBox) : MBox := { y with inSlot := n, inColl := y.inColl || y.inFull, inFull := true }

/-- A commit changes no more of the mail than one mailbox's slot. -/
theorem commitBox_mail (b : Box) (seq : U16) (typ : Byte) (v : State) : (commitBox b seq typ v).mail
    = (modBox (boxKey b) (slottedIn ⟨(box v (boxKey b)).inPtr, seq, typ⟩) v).mail :=
  (show (noticeWakes b (commitIn (boxKey b) ⟨(box v (boxKey b)).inPtr, seq, typ⟩ v)).mail = _ from
    noticeWakes_keeps (bl := .mail) b (Keeps.refl .mail _) (by decide)).trans
    (withRises_keeps_applied (bl := .mail) _ (modBox (boxKey b) (slottedIn ⟨(box v (boxKey b)).inPtr, seq, typ⟩)) v (by decide))

theorem i3cWriteByte_offset (a : Nat) (b : Byte) (v : State) : (i3cWriteByte a b v).mail.i3cOffset = v.mail.i3cOffset := by
  unfold i3cWriteByte
  dsimp only
  split
  · rfl
  · split
    · rfl
    · split
      · rw [commitBox_mail]
        rfl
      · split
        · split <;> rfl
        · split
          · split <;> rfl
          · rfl

theorem i3cWriteBytes_offset (l : List Byte) (a : Nat) (v : State) : (i3cWriteBytes a l v).mail.i3cOffset = v.mail.i3cOffset := by
  induction l generalizing a v with
  | nil => rfl
  | cons b l ih =>
    unfold i3cWriteBytes
    rw [ih, i3cWriteByte_offset]

/-- What the statement says of a notice that is committed. -/
def CommittedIn (b : Box) (n : Notice) (s u : State) : Prop :=
  (∀ e, b = .toEngine e → (eng u e.val).gated = false ∧ (target u e.val).asleep = false)
  ∧ (boxKey b < 146 → coresSleep s = true → u.pwr.domainAwake = true)
  ∧ OnlyBox (boxKey b) { box s (boxKey b) with
      inPtr := n.ptr, inSlot := n, inColl := (box s (boxKey b)).inColl || (box s (boxKey b)).inFull, inFull := true } s u

/-- The byte that ends a notice commits it with what is staged. -/
theorem i3cWriteByte_commits (typ : Byte) (v : State) : CommittedIn .i3c ⟨BitVec.ofNat 64 (leNat (mread v.mail.i3cStage 0 8)),
    BitVec.ofNat 16 (leNat (mread v.mail.i3cStage 8 2)), typ⟩ v (i3cWriteByte 0x20A typ v) := by
  obtain ⟨z, hz⟩ : ∃ z, z = modBox 129 (fun x => { x with inPtr := BitVec.ofNat 64 (leNat (mread v.mail.i3cStage 0 8)) }) v := ⟨_, rfl⟩
  obtain ⟨n, hn⟩ : ∃ n : Notice, n = ⟨BitVec.ofNat 64 (leNat (mread v.mail.i3cStage 0 8)),
    BitVec.ofNat 16 (leNat (mread v.mail.i3cStage 8 2)), typ⟩ := ⟨_, rfl⟩
  have hBox : ∀ j, box z j = if j = 129 then { box v 129 with inPtr := n.ptr } else box v j := fun j => by
    rw [hz, box_modBox, hn]
  have hIs : i3cWriteByte 0x20A typ v = noticeWakes .i3c (commitIn 129 n z) := by
    have hPtr : (box z 129).inPtr = n.ptr := by rw [hBox, if_pos rfl]
    have hBytes : i3cWriteByte 0x20A typ v = noticeWakes .i3c (commitIn 129 ⟨(box z 129).inPtr, n.seq, n.typ⟩ z) := by
      rw [hz, hn]
      rfl
    rw [hBytes, hPtr]
  have hSleep : coresSleep (commitIn 129 n z) = coresSleep v := by
    rw [coresSleep_commitIn, hz]
    rfl
  rw [← hn, hIs]
  refine ⟨fun e h => (by cases h), fun _ hs => noticeWakes_cores (b := .i3c) (by decide) (hSleep.trans hs), fun j => ?_⟩
  rw [box_noticeWakes, box_commitIn, hBox, hBox, if_pos rfl]
  show (if j = 129 then _ else _) = if j = 129 then _ else _
  split
  · rfl
  · rfl

theorem exec_i3cPrivateWrite (hl : live s = true) (ha : s.mail.i3cAddr ≠ none) (a : U16) (l : List Byte) :
    exec (.i3cPrivateWrite a l) s = .next (i3cWriteBytes a.toNat l { s with mail := { s.mail with i3cOffset := a } }) := by
  refine runs_of_guard (o := execI3cPrivateWrite a l s) (s := s)
    (f := fun s => i3cWriteBytes a.toNat l { s with mail := { s.mail with i3cOffset := a } }) rfl ?_
  unfold i3cHears
  rw [hl, Option.isSome_iff_ne_none.2 ha]
  rfl

/-- What the statement says of an I3C write. -/
theorem i3cPrivateWrite_does (hl : live s = true) (ha : s.mail.i3cAddr ≠ none) (a : U16) (l : List Byte) :
    ∃ u, exec (.i3cPrivateWrite a l) s = .next u ∧ u.mail.i3cOffset = a
      ∧ (a.toNat + l.length ≤ 256 → u.mail.i3cIn = mwrite s.mail.i3cIn a.toNat l ∧ Frame [.mail] s u)
      ∧ (512 ≤ a.toNat → a.toNat + l.length ≤ 522 → u.mail.i3cStage = mwrite s.mail.i3cStage (a.toNat - 512) l ∧ u.mail.i3cIn = s.mail.i3cIn)
      ∧ (∀ typ, a = 0x20A → l = [typ] → CommittedIn .i3c ⟨BitVec.ofNat 64 (leNat (mread s.mail.i3cStage 0 8)),
          BitVec.ofNat 16 (leNat (mread s.mail.i3cStage 8 2)), typ⟩ s u)
      ∧ (∀ x, a = 0x220 → l = [x] → OnlyBox 129 { box s 129 with inColl := (box s 129).inColl && !bit x 1 } s u)
      ∧ (a = 0x221 → l = [1] → OnlyBox 129 { box s 129 with outFull := false, outColl := false } s u) := by
  refine ⟨_, exec_i3cPrivateWrite hl ha a l, i3cWriteBytes_offset l _ _, fun hIn => ?_, fun hLow hHigh => ?_, fun typ hAt hTyp => ?_,
    fun x hAt hx => ?_, fun hAt hx => ?_⟩
  · rw [i3cWriteBytes_in l hIn]
    exact ⟨rfl, frame_setMail s _⟩
  · rw [i3cWriteBytes_stage l hLow hHigh]
    exact ⟨rfl, rfl⟩
  · rw [hAt, hTyp]
    exact i3cWriteByte_commits typ { s with mail := { s.mail with i3cOffset := 0x20A } }
  · rw [hAt, hx]
    intro j
    have hByte : i3cWriteBytes (0x220 : U16).toNat [x] { s with mail := { s.mail with i3cOffset := 0x220 } }
        = if bit x 1 then modBox 129 (fun y => { y with inColl := false }) { s with mail := { s.mail with i3cOffset := 0x220 } }
          else { s with mail := { s.mail with i3cOffset := 0x220 } } := rfl
    rw [hByte]
    cases hb : bit x 1 with
    | true =>
      rw [if_pos rfl, box_modBox, Bool.not_true, Bool.and_false]
      rfl
    | false =>
      rw [if_neg Bool.false_ne_true, Bool.not_false, Bool.and_true]
      show box s j = if j = 129 then box s 129 else box s j
      split
      · next h => rw [h]
      · rfl
  · rw [hAt, hx]
    have hByte : i3cWriteBytes (0x221 : U16).toNat [1] { s with mail := { s.mail with i3cOffset := 0x221 } }
        = outDone 129 { s with mail := { s.mail with i3cOffset := 0x221 } } := rfl
    rw [hByte]
    exact onlyBox_of_mail (s := { s with mail := { s.mail with i3cOffset := 0x221 } })
      (g := fun b => { b with outFull := false, outColl := false }) rfl

/-! ### Bytes read, addresses and resets (R440) -/

theorem noticeBytes_length (n : Notice) : (noticeBytes n).length = 11 := rfl

/-- The bytes that an I3C read returns. -/
def readBytes (s : State) (n : Nat) : List Byte := (List.range n).map fun i => i3cReadByte s (s.mail.i3cOffset.toNat + i)

theorem readBytes_at {k i : Nat} (hi : i < k) : (readBytes s k)[i]? = some (i3cReadByte s (s.mail.i3cOffset.toNat + i)) := by
  unfold readBytes
  rw [List.getElem?_map, List.getElem?_range hi]
  rfl

/-- What the bytes of the buffers, of the outbound notice and of the status read. -/
theorem i3cReadByte_is (s : State) (a : Nat) : (a < 0x100 → i3cReadByte s a = mget s.mail.i3cIn a)
    ∧ (0x100 ≤ a → a < 0x200 → i3cReadByte s a = mget s.mail.i3cOut (a - 0x100))
    ∧ (0x210 ≤ a → a < 0x21B → some (i3cReadByte s a) = (noticeBytes (box s 129).outSlot)[a - 0x210]?)
    ∧ (a = 0x220 → i3cReadByte s a = BitVec.ofNat 8 (i3cStatus s)) := by
  refine ⟨fun h => if_pos h, fun h k => (if_neg (by omega)).trans (if_pos k), fun h k => ?_, fun h => ?_⟩
  · have hByte : i3cReadByte s a = (noticeBytes (box s 129).outSlot).getD (a - 0x210) 0 :=
      (if_neg (by omega)).trans <| (if_neg (by omega)).trans <| (if_neg (by omega)).trans <| (if_neg (by omega)).trans (if_pos ⟨h, k⟩)
    have hIn : a - 0x210 < (noticeBytes (box s 129).outSlot).length := by
      rw [noticeBytes_length]
      omega
    rw [hByte, List.getElem?_eq_getElem hIn, List.getD_eq_getElem _ _ hIn]
  · rw [h]
    rfl

/-- What the statement says of an I3C read. -/
theorem i3cPrivateRead_does (hl : live s = true) (ha : s.mail.i3cAddr ≠ none) (k : Nat) :
    ∃ l, exec (.i3cPrivateRead k) s = .next (emit (.i3cData l) s) ∧ l.length = k ∧ ∀ i, i < k →
      (s.mail.i3cOffset.toNat + i < 0x100 → l[i]? = some (mget s.mail.i3cIn (s.mail.i3cOffset.toNat + i)))
      ∧ (0x100 ≤ s.mail.i3cOffset.toNat + i → s.mail.i3cOffset.toNat + i < 0x200 →
        l[i]? = some (mget s.mail.i3cOut (s.mail.i3cOffset.toNat + i - 0x100)))
      ∧ (0x210 ≤ s.mail.i3cOffset.toNat + i → s.mail.i3cOffset.toNat + i < 0x21B →
        l[i]? = (noticeBytes (box s 129).outSlot)[s.mail.i3cOffset.toNat + i - 0x210]?)
      ∧ (s.mail.i3cOffset.toNat + i = 0x220 → l[i]? = some (BitVec.ofNat 8 (i3cStatus s))) := by
  have hRun : exec (.i3cPrivateRead k) s = .next (emit (.i3cData (readBytes s k)) s) := by
    refine runs_of_guard (o := execI3cPrivateRead k s) (s := s) (f := fun s => emit (.i3cData (readBytes s k)) s) rfl ?_
    unfold i3cHears
    rw [hl, Option.isSome_iff_ne_none.2 ha]
    rfl
  refine ⟨readBytes s k, hRun, ?_, fun i hi => ?_⟩
  · unfold readBytes
    rw [List.length_map, List.length_range]
  · obtain ⟨hIn, hOut, hSlot, hStatus⟩ := i3cReadByte_is s (s.mail.i3cOffset.toNat + i)
    rw [readBytes_at hi]
    exact ⟨fun h => congrArg some (hIn h), fun h k => congrArg some (hOut h k), hSlot, fun h => congrArg some (hStatus h)⟩

theorem i3c_silent (h : live s = false ∨ s.mail.i3cAddr = none) :
    (∀ a l, exec (.i3cPrivateWrite a l) s = .next s) ∧ ∀ k, exec (.i3cPrivateRead k) s = .next s := by
  have hDeaf : i3cHears s = false := by
    unfold i3cHears
    rcases h with h | h
    · rw [h]
      rfl
    · rw [h]
      exact Bool.and_false _
  exact ⟨fun a l => idle_of_no_guard (o := execI3cPrivateWrite a l s) (s := s)
      (f := fun s => i3cWriteBytes a.toNat l { s with mail := { s.mail with i3cOffset := a } }) rfl hDeaf,
    fun k => idle_of_no_guard (o := execI3cPrivateRead k s) (s := s) (f := fun s => emit (.i3cData (readBytes s k)) s) rfl hDeaf⟩

theorem exec_entdaa (a : BitVec 7) : exec (.entdaa a) s = .next (if live s = true ∧ s.mail.i3cAddr = none then
    { s with mail := { s.mail with i3cAddr := some a } } else s) := by
  have hGuard : (live s && s.mail.i3cAddr.isNone) = true ↔ live s = true ∧ s.mail.i3cAddr = none := by
    rw [Bool.and_eq_true, Option.isNone_iff_eq_none]
  by_cases h : live s = true ∧ s.mail.i3cAddr = none
  · rw [if_pos h]
    exact runs_of_guard (o := execEntdaa a s) (s := s) (f := fun s => { s with mail := { s.mail with i3cAddr := some a } }) rfl (hGuard.2 h)
  · rw [if_neg h]
    exact idle_of_no_guard (o := execEntdaa a s) (s := s) (f := fun s => { s with mail := { s.mail with i3cAddr := some a } }) rfl
      (Bool.eq_false_of_not_eq_true fun k => h (hGuard.1 k))

/-- An I3C mailbox with both slots cleared. -/
def clearedSlots (y : MBox) : MBox := { y with
  inSlot := ⟨0, 0, 0⟩, inFull := false, inColl := false, outSlot := ⟨0, 0, 0⟩, outFull := false, outColl := false, inPtr := 0 }

/-- What the statement says of a bus reset. -/
theorem i3cBusReset_does (hl : live s = true) : ∃ u, exec .i3cBusReset s = .next u ∧ Frame [.out, .eic, .mail, .fns] s u
    ∧ u.mail.i3cAddr = s.mail.i3cAddr ∧ OnlyBox 129 (clearedSlots (box s 129)) s u := by
  obtain ⟨z, hz⟩ : ∃ z : State, z = { s with mail := { s.mail with i3cStage := [] } } := ⟨_, rfl⟩
  have hRun : exec .i3cBusReset s = .next (withRises [1022] (modBox 129 clearedSlots) z) := by
    rw [hz]
    exact runs_of_guard (o := execI3cBusReset s) (s := s)
      (f := fun s => withRises [1022] (modBox 129 clearedSlots) { s with mail := { s.mail with i3cStage := [] } }) rfl hl
  have hMail : (withRises [1022] (modBox 129 clearedSlots) z).mail = (modBox 129 clearedSlots z).mail :=
    withRises_keeps_applied (bl := .mail) _ _ z (by decide)
  have hCleared : Frame [.mail] s (modBox 129 clearedSlots z) := by
    rw [hz]
    exact (frame_setMail s _).trans (frame_setMail _ _)
  refine ⟨_, hRun, ?_, ?_, ?_⟩
  · have hOwn : ([.mail] : List Block) ⊆ [.out, .eic, .mail, .fns] := by decide
    have hRises : ([.out, .eic, .fns] : List Block) ⊆ [.out, .eic, .mail, .fns] := by decide
    exact (hCleared.mono hOwn).trans
      fun bl hb => withRises_keeps_applied [1022] (modBox 129 clearedSlots) z fun h => hb (hRises h)
  · rw [hMail, hz]
    rfl
  · have hOnly := onlyBox_of_mail hMail
    rw [hz] at hOnly ⊢
    exact hOnly

/-! ### The obligation -/

/-- Settles O57: a notice moves one mailbox's slots; a header is refused by the first check that fails, and a good command is run as
its row is; the I3C bytes are each one write or read at their offset. -/
theorem mailboxes : Obligations.Mailboxes := by
  unfold Obligations.Mailboxes
  intro s
  refine ⟨fun b => mbxOutDone_does b, fun b hr => mbxOutboundPost_does hr b, fun b => mbxNoticeTake_does b,
    fun b c n rest ok hdr got hc ht hs => ⟨fun hChip hOk => ?_, fun hGot => mbxCommandRead_does ok hdr got hc ht hs hGot⟩,
    i3c_silent, fun hl ha => ⟨i3cPrivateWrite_does hl ha, i3cPrivateRead_does hl ha⟩, exec_entdaa, fun hl => i3cBusReset_does hl⟩
  have hRun := exec_mbxCommandRead false hdr got hc ht hs
  rw [show onChip s b = none from hChip] at hRun
  rw [hOk]
  exact ⟨_, hRun, postOut_posted (boxKey b) ⟨n.ptr, n.seq, 1⟩ _⟩

end
end Sys2Proof.Machine
end


section
/-! PROOFS. The firmware and platform commands (R457 to R459). -/

namespace Sys2Proof.Machine

section
variable {s t u v w : State} {ctx : CmdCtx} {a n k : Nat}

/-! ### The ranges of the two slots (R457, R459) -/

/-- The first byte of a slot, its size counted out. -/
def slotFirst (b : Bool) : Nat := if b then 7340032 else 0

/-- The result for a range of flash, the sizes counted out. -/
def rangeResult (s : State) (a n : Nat) : Nat :=
  if (a < slotFirst s.pwr.slotB + 7340032 ∧ slotFirst s.pwr.slotB < a + n)
    ∨ (n = 0 ∧ slotFirst s.pwr.slotB ≤ a ∧ a < slotFirst s.pwr.slotB + 7340032) then 1
  else if slotFirst (!s.pwr.slotB) ≤ a ∧ a + n ≤ slotFirst (!s.pwr.slotB) + 7340032 then 0 else 2

theorem slotSize_counted : slotSize = 7340032 := by
  unfold slotSize
  norm_num

theorem slotBase_counted (b : Bool) : slotBase b = slotFirst b := by
  unfold slotBase slotFirst
  rw [slotSize_counted]

theorem flashRange_eq (s : State) (a n : Nat) : flashRange s a n = rangeResult s a n := by
  unfold flashRange rangeResult
  simp only [slotBase_counted, slotSize_counted]

theorem flashRange_begun (code : Nat) (s : State) : flashRange (begun ctx code s) = flashRange s := rfl

/-! ### The cells (R457) -/

/-- Programming a byte clears the bits that the byte has clear, and no other cell changes. -/
theorem mget_programByte (m : Memory) (a k : Nat) (b : Byte) :
    mget (programByte m a b) k = if k = a then mget m a ||| ~~~b else mget m k := by
  unfold programByte
  exact mget_mput m a k _

theorem mget_program (l : List Byte) (m : Memory) (a k : Nat) : ~~~mget (program m a l) k
    = if a ≤ k ∧ k < a + l.length then ~~~mget m k &&& l.getD (k - a) 0 else ~~~mget m k := by
  induction l generalizing m a with
  | nil => rw [if_neg fun h => by rw [List.length_nil] at h; omega]; rfl
  | cons b l ih =>
    unfold program
    rw [ih, mget_programByte, List.length_cons]
    by_cases hHere : k = a
    · rw [if_neg (by omega), if_pos hHere, if_pos (by omega), hHere, Nat.sub_self, List.getD_cons_zero, BitVec.not_or, BitVec.not_not]
    · rw [if_neg hHere]
      by_cases hThere : a + 1 ≤ k ∧ k < a + 1 + l.length
      · rw [if_pos hThere, if_pos (by omega), show k - a = k - (a + 1) + 1 by omega, List.getD_cons_succ]
      · rw [if_neg hThere, if_neg (by omega)]

/-! ### Replies of the firmware (R459) -/

/-- What the statement says of a command that is answered with a result from a state with the flash `x`. -/
def FlashEnds (ctx : CmdCtx) (code res : Nat) (x : Flash) (s u : State) : Prop :=
  (∃ rest, Answered ctx code (BitVec.ofNat 8 res :: rest) s u) ∧ Frame [.out, .free, .mail, .fns, .flash] s u ∧ u.flash = x

theorem fwReply_ends (ctx : CmdCtx) (code res : Nat) (x : Flash) (s : State) :
    FlashEnds ctx code res x s (fwReply ctx code res { begun ctx code s with flash := x }) := by
  obtain ⟨v, hv⟩ : ∃ v : State, v = { begun ctx code s with flash := x, free := s.free + 1 } := ⟨_, rfl⟩
  have hIs : fwReply ctx code res { begun ctx code s with flash := x }
      = reply ctx code (BitVec.ofNat 8 res :: Config.replyBytes s.free) v := by
    rw [hv]
    rfl
  have hFlash : Frame [.mail, .free, .flash] s v := by
    rw [hv]
    intro bl hb
    have hBegun := begun_frame ctx code s bl fun h => hb (List.mem_singleton.1 h ▸ List.mem_cons_self)
    refine hBegun.trans ?_
    cases bl
    case free => exact absurd (by decide) hb
    case flash => exact absurd (by decide) hb
    all_goals rfl
  have hSub : ([.mail, .free, .flash] : List Block) ⊆ [.out, .free, .mail, .fns, .flash] := by decide
  have hReplySub : ([.out, .mail, .fns] : List Block) ⊆ [.out, .free, .mail, .fns, .flash] := by decide
  rw [hIs]
  refine ⟨⟨_, reply_from (by rw [hv]; rfl) (by rw [hv]; exact begun_bufs ctx code s)⟩,
    (hFlash.mono hSub).trans ((reply_frame ctx code _ v).mono hReplySub), ?_⟩
  rw [reply_flash, hv]

/-- The same in the statement's words. -/
def FirmwareEnds (ctx : CmdCtx) (code res : Nat) (ver : Bool) (next : Option Bool) (cell : Nat → Byte) (s u : State) : Prop :=
  (∃ rest, Answered ctx code (BitVec.ofNat 8 res :: rest) s u) ∧ Frame [.out, .free, .mail, .fns, .flash] s u
    ∧ u.flash.verified = ver ∧ u.flash.next = next ∧ ∀ a, flashByte u a = cell a

theorem FlashEnds.reads {code res : Nat} {x : Flash} {cell : Nat → Byte} (h : FlashEnds ctx code res x s u)
    (hc : ∀ a, ~~~mget x.cells a = cell a) : FirmwareEnds ctx code res x.verified x.next cell s u := by
  obtain ⟨hAnswer, hFrame, hFlash⟩ := h
  refine ⟨hAnswer, hFrame, by rw [hFlash], by rw [hFlash], fun a => ?_⟩
  unfold flashByte
  rw [hFlash, hc]

/-- A command that leaves the flash. -/
theorem fwReply_same (ctx : CmdCtx) (code res : Nat) (s : State) :
    FirmwareEnds ctx code res s.flash.verified s.flash.next (flashByte s) s (fwReply ctx code res (begun ctx code s)) :=
  (fwReply_ends ctx code res s.flash s).reads fun _ => rfl

/-! ### The commands (R459) -/

/-- What the statement says of FW_WRITE. -/
theorem fwWrite_does (hr : fwRuns s = true) (a : U32) (data : List Byte) :
    (rangeResult s a.toNat data.length ≠ 0 → ∃ u, exec (.fwWrite ctx a data) s = .next u
      ∧ FirmwareEnds ctx 0xA1 (rangeResult s a.toNat data.length) s.flash.verified s.flash.next (flashByte s) s u)
    ∧ (rangeResult s a.toNat data.length = 0 → ∃ u, exec (.fwWrite ctx a data) s = .next u
      ∧ FirmwareEnds ctx 0xA1 0 false s.flash.next (fun k =>
        if a.toNat ≤ k ∧ k < a.toNat + data.length then flashByte s k &&& data.getD (k - a.toNat) 0 else flashByte s k) s u) := by
  have hRun : exec (.fwWrite ctx a data) s = .next (fwWriteOp ctx a.toNat data s) := guarded_of hr
  unfold fwWriteOp at hRun
  dsimp only at hRun
  rw [flashRange_begun, flashRange_eq] at hRun
  refine ⟨fun hBad => ?_, fun hGood => ?_⟩
  · rw [if_neg hBad] at hRun
    exact ⟨_, hRun, fwReply_same ctx 0xA1 _ s⟩
  · rw [if_pos hGood] at hRun
    refine ⟨_, hRun, (fwReply_ends ctx 0xA1 0 { s.flash with cells := program s.flash.cells a.toNat data, verified := false } s).reads
      fun k => ?_⟩
    exact mget_program data s.flash.cells a.toNat k

/-- The result of an erase: its offset is that of a sector. -/
def eraseResult (s : State) (a n : Nat) : Nat := if rangeResult s a (n * 4096) = 0 ∧ a % 4096 ≠ 0 then 2 else rangeResult s a (n * 4096)

theorem fwEraseOp_eq (ctx : CmdCtx) (a n : Nat) (s : State) : fwEraseOp ctx a n s =
    if eraseResult s a n = 0 then
      fwReply ctx 0xA2 0 { begun ctx 0xA2 s with flash :=
        { s.flash with cells := mclear s.flash.cells a (a + n * 4096), verified := false } }
    else fwReply ctx 0xA2 (eraseResult s a n) (begun ctx 0xA2 s) := by
  unfold fwEraseOp eraseResult
  dsimp only
  rw [flashRange_begun, flashRange_eq]
  rfl

/-- What the statement says of FW_ERASE. -/
theorem fwErase_does (hr : fwRuns s = true) (a n : U32) :
    (rangeResult s a.toNat (n.toNat * 4096) ≠ 0 → ∃ u, exec (.fwErase ctx a n) s = .next u
      ∧ FirmwareEnds ctx 0xA2 (rangeResult s a.toNat (n.toNat * 4096)) s.flash.verified s.flash.next (flashByte s) s u)
    ∧ (rangeResult s a.toNat (n.toNat * 4096) = 0 → a.toNat % 4096 ≠ 0 → ∃ u, exec (.fwErase ctx a n) s = .next u
      ∧ FirmwareEnds ctx 0xA2 2 s.flash.verified s.flash.next (flashByte s) s u)
    ∧ (rangeResult s a.toNat (n.toNat * 4096) = 0 → a.toNat % 4096 = 0 → ∃ u, exec (.fwErase ctx a n) s = .next u
      ∧ FirmwareEnds ctx 0xA2 0 false s.flash.next (fun k =>
        if a.toNat ≤ k ∧ k < a.toNat + n.toNat * 4096 then 0xFF else flashByte s k) s u) := by
  have hRun : exec (.fwErase ctx a n) s = .next (fwEraseOp ctx a.toNat n.toNat s) := guarded_of hr
  rw [fwEraseOp_eq] at hRun
  refine ⟨fun hBad => ?_, fun hGood hOff => ?_, fun hGood hOn => ?_⟩
  · have hResult : eraseResult s a.toNat n.toNat = rangeResult s a.toNat (n.toNat * 4096) := if_neg fun h => hBad h.1
    rw [hResult, if_neg hBad] at hRun
    exact ⟨_, hRun, fwReply_same ctx 0xA2 _ s⟩
  · have hResult : eraseResult s a.toNat n.toNat = 2 := if_pos ⟨hGood, hOff⟩
    rw [hResult, if_neg (by decide)] at hRun
    exact ⟨_, hRun, fwReply_same ctx 0xA2 2 s⟩
  · have hResult : eraseResult s a.toNat n.toNat = 0 := (if_neg fun h => h.2 hOn).trans hGood
    rw [if_pos hResult] at hRun
    refine ⟨_, hRun, (fwReply_ends ctx 0xA2 0 { s.flash with
      cells := mclear s.flash.cells a.toNat (a.toNat + n.toNat * 4096), verified := false } s).reads fun k => ?_⟩
    rw [mget_mclear]
    unfold flashByte
    split
    · rfl
    · rfl

/-- What the statement says of FW_VERIFY. -/
theorem fwVerify_does (hr : fwRuns s = true) : ∃ u, exec (.fwVerify ctx) s = .next u
    ∧ FirmwareEnds ctx 0xA3 (if slotValid s (!s.pwr.slotB) then 0 else 4) (slotValid s !s.pwr.slotB) s.flash.next (flashByte s) s u :=
  ⟨_, (guarded_of hr : exec (.fwVerify ctx) s = .next (fwVerifyOp ctx s)),
    (fwReply_ends ctx 0xA3 _ { s.flash with verified := slotValid s !s.pwr.slotB } s).reads fun _ => rfl⟩

/-- What the statement says of FW_ACTIVATE. -/
theorem fwActivate_does (hr : fwRuns s = true) :
    (s.flash.verified = true → ∃ u, exec (.fwActivate ctx) s = .next u
      ∧ FirmwareEnds ctx 0xA4 0 true (some !s.pwr.slotB) (flashByte s) s u)
    ∧ (s.flash.verified = false → ∃ u, exec (.fwActivate ctx) s = .next u
      ∧ FirmwareEnds ctx 0xA4 5 s.flash.verified s.flash.next (flashByte s) s u) := by
  have hRun : exec (.fwActivate ctx) s = .next (fwActivateOp ctx s) := guarded_of hr
  have hIs : fwActivateOp ctx s = if s.flash.verified then
      fwReply ctx 0xA4 0 { begun ctx 0xA4 s with flash := { s.flash with next := some (!s.pwr.slotB) } }
    else fwReply ctx 0xA4 5 (begun ctx 0xA4 s) := rfl
  rw [hIs] at hRun
  refine ⟨fun hv => ?_, fun hv => ?_⟩
  · rw [if_pos hv] at hRun
    have hEnds := (fwReply_ends ctx 0xA4 0 { s.flash with next := some (!s.pwr.slotB) } s).reads (cell := flashByte s) fun _ => rfl
    rw [show ({ s.flash with next := some (!s.pwr.slotB) } : Flash).verified = true from hv] at hEnds
    exact ⟨_, hRun, hEnds⟩
  · rw [if_neg (ne_true_of_eq_false hv)] at hRun
    exact ⟨_, hRun, fwReply_same ctx 0xA4 5 s⟩

/-- What the statement says of a command whose body is free. -/
theorem answered_now {code : Nat} {c : Instr} {body : List Byte} (h : exec c s = .next (reply ctx code body (begun ctx code s))) :
    ∃ u, exec c s = .next u ∧ Frame [.out, .mail, .fns] s u ∧ Answered ctx code body s u := by
  obtain ⟨hAnswer, hFrame⟩ := answered_at_once ctx code body s
  exact ⟨_, h, hFrame, hAnswer⟩

/-! ### The obligation -/

/-- Settles O60: the range decides a write or an erase, whose cells are told one by one; the other commands change the marks alone. -/
theorem firmwareCommands : Obligations.FirmwareCommands := by
  unfold Obligations.FirmwareCommands
  intro s ctx hr
  obtain ⟨hActivates, hRefuses⟩ := fwActivate_does (ctx := ctx) hr
  exact ⟨answered_now (guarded_of hr), fwWrite_does hr, fwErase_does hr, fwVerify_does hr, hActivates, hRefuses,
    fun _ _ => answered_now (guarded_of hr)⟩

end
end Sys2Proof.Machine
end


section
/-! PROOFS. Register writes of the host: what reaches the part, how accesses of the two sizes act, and the registers that have a row
of their own (R469 to R482). -/

namespace Sys2Proof.Machine

section
variable {s t u v w : State} {f : FuncId} {a : Nat}

/-! ### Accesses (R469) -/

theorem exec_registerWrite (f : FuncId) (a : Nat) (wide : Bool) (x : U64) :
    exec (.registerWrite f a wide x) s = guarded (writeReaches s f a && a % (if wide then 8 else 4) == 0) s
      (if wide then write64 f a x else write32 f a (x.setWidth 32)) := rfl

/-- A write that does not reach the part, or is not aligned, changes nothing. -/
theorem registerWrite_ignored (wide : Bool) (x : U64) (h : writeReaches s f a = false ∨ a % (if wide then 8 else 4) ≠ 0) :
    exec (.registerWrite f a wide x) s = .next s := by
  rw [exec_registerWrite]
  refine guarded_of_false ?_
  rcases h with h | h
  · rw [h, Bool.false_and]
  · rw [beq_eq_false_iff_ne.2 h, Bool.and_false]

theorem setWidth_narrow (x : U32) : (x.setWidth 64).setWidth 32 = x := by
  rw [BitVec.setWidth_setWidth_of_le x (by decide)]
  exact BitVec.setWidth_eq x

/-- A narrow write that reaches the part. -/
theorem narrow_write (hr : writeReaches s f a = true) (ha : a % 4 = 0) (x : U32) :
    exec (.registerWrite f a false (x.setWidth 64)) s = .next (write32 f a x s) := by
  rw [exec_registerWrite, if_neg Bool.false_ne_true, if_neg Bool.false_ne_true, setWidth_narrow]
  exact guarded_of (by rw [hr, ha]; rfl)

/-- A wide write that reaches the part. -/
theorem wide_write (hr : writeReaches s f a = true) (ha : a % 8 = 0) (x : U64) :
    exec (.registerWrite f a true x) s = .next (write64 f a x s) := by
  rw [exec_registerWrite, if_pos rfl, if_pos rfl]
  exact guarded_of (by rw [hr, ha]; rfl)

theorem high_half (x : U64) : (x >>> 32).setWidth 32 = BitVec.ofNat 32 (field x 32 32) := by
  apply BitVec.eq_of_toNat_eq
  rw [BitVec.toNat_setWidth, BitVec.toNat_ushiftRight, BitVec.toNat_ofNat, Nat.shiftRight_eq_div_pow]
  unfold field
  rw [Nat.mod_mod]

/-- A wide write of two narrow registers is two narrow writes, the lower first. -/
theorem wide_write_narrow (hr : writeReaches s f a = true) (ha : a % 8 = 0) (hn : get64 s f a = none) (x : U64) :
    ∃ u, exec (.registerWrite f a false ((x.setWidth 32).setWidth 64)) s = .next u
      ∧ (writeReaches u f (a + 4) = true →
        exec (.registerWrite f a true x) s = exec (.registerWrite f (a + 4) false (x >>> 32)) u) := by
  refine ⟨_, narrow_write hr (by omega) _, fun hu => ?_⟩
  have hWide : write64 f a x s = write32 f (a + 4) (BitVec.ofNat 32 (field x 32 32)) (write32 f a (x.setWidth 32) s) := by
    unfold write64
    rw [hn]
  rw [wide_write hr ha, hWide, exec_registerWrite, if_neg Bool.false_ne_true, if_neg Bool.false_ne_true, high_half]
  exact (guarded_of (by rw [hu, show (a + 4) % 4 = 0 by omega]; rfl)).symm

theorem writeReaches_of_host (h : hostReaches s f.val = true) (a : Nat) : writeReaches s f a = true := by
  unfold writeReaches
  rw [h]
  rfl

theorem write32_put {x : U32} (h1 : get64 s f a = none) (h2 : a % 8 = 4 → get64 s f (a - 4) = none) :
    write32 f a x s = put32 f a x s := by
  unfold write32
  rw [h1]
  dsimp only
  by_cases h : a % 8 = 4
  · rw [if_pos h, h2 h]
  · rw [if_neg h]

theorem write32_low {x : U32} {old : U64} (h : get64 s f a = some old) : write32 f a x s = put64 f a (withHalf old false x) s := by
  unfold write32
  rw [h]

theorem write32_high {x : U32} {old : U64} (h1 : get64 s f (a + 4) = none) (ha : a % 8 = 0) (h2 : get64 s f a = some old) :
    write32 f (a + 4) x s = put64 f a (withHalf old true x) s := by
  unfold write32
  rw [h1]
  dsimp only
  rw [if_pos (by omega), Nat.add_sub_cancel, h2]

theorem write64_put {x old : U64} (h : get64 s f a = some old) : write64 f a x s = put64 f a x s := by
  unfold write64
  rw [h]

/-! ### The narrow registers of PF0 (R474, R476 to R479) -/

/-- No 64-bit register of PF0 stands at the address. -/
@[reducible] def Narrow (a : Nat) : Prop := ¬ (0x100 ≤ a ∧ a < 0x150) ∧ a ≠ 0x10 ∧ a ≠ 0x1030 ∧ a ≠ 0x4010 ∧ a ≠ 0x8008
  ∧ ¬ (0x20000 ≤ a ∧ a < 0x28000) ∧ a ≠ 0x30090 ∧ a ≠ 0x38008 ∧ a ≠ 0x3C010 ∧ a ≠ 0x40000 ∧ a ≠ 0x41000
  ∧ ¬ (0x80040 ≤ a ∧ a < 0x82000)

theorem pf0Get_narrow (h : Narrow a) : pf0Get s a = none := by
  obtain ⟨h1, h2, h3, h4, h5, h6, h7, h8, h9, h10, h11, h12⟩ := h
  unfold pf0Get
  rw [if_neg h1, if_neg h2, if_neg h3, if_neg h4, if_neg h5, if_neg (by omega), if_neg h7, if_neg h8, if_neg h9, if_neg h10, if_neg h11,
    if_neg (by omega), if_neg (by omega)]

/-- A narrow write of a narrow register of PF0. -/
theorem pf0_narrow_write (hr : hostReaches s 0 = true) (ha : a % 4 = 0) (h : Narrow a) (hLow : a % 8 = 4 → Narrow (a - 4)) (x : U32) :
    exec (.registerWrite 0 a false (x.setWidth 64)) s = .next (pf0Write a x s) := by
  have hGet : ∀ k, Narrow k → get64 s 0 k = none := fun k hk => (if_pos rfl).trans (pf0Get_narrow hk)
  rw [narrow_write (writeReaches_of_host hr a) ha, write32_put (hGet a h) fun h => hGet _ (hLow h)]
  exact congrArg _ (if_pos rfl)

/-- Such a write of a literal address. -/
theorem pf0_literal_write (hr : hostReaches s 0 = true) {g : U32 → State → State} (ha : a % 4 = 0) (h : Narrow a)
    (hLow : a % 8 = 4 → Narrow (a - 4)) (hg : ∀ x, pf0Write a x s = g x s) (x : U32) :
    exec (.registerWrite 0 a false (x.setWidth 64)) s = .next (g x s) := by
  rw [pf0_narrow_write hr ha h hLow, hg]

/-- Event bits that are written 1 are cleared, and no other register of events changes. -/
theorem clearEvt_clears (r : EvtReg) (x : U32) (k : Nat) : evtWord (clearEvt r x s) k
    = if k = evtKey r then evtWord s (evtKey r) &&& ~~~x else evtWord s k := evtWord_setEvt r _ s k

/-- What the statement says of a write that clears event bits. -/
def Clears (f : FuncId) (a key : Nat) (s : State) (x : U32) : Prop := ∃ t, exec (.registerWrite f a false (x.setWidth 64)) s = .next t
  ∧ ∀ k, evtWord t k = if k = key then evtWord s key &&& ~~~x else evtWord s k

theorem clears_of {x : U32} {r : EvtReg} (h : exec (.registerWrite f a false (x.setWidth 64)) s = .next (clearEvt r x s)) :
    Clears f a (evtKey r) s x := ⟨_, h, clearEvt_clears r x⟩

/-- A wide write of a 64-bit register of PF0. -/
theorem pf0_wide_write (hr : hostReaches s 0 = true) (ha : a % 8 = 0) {old : U64} (h : pf0Get s a = some old) (x : U64) :
    exec (.registerWrite 0 a true x) s = .next (pf0Put a x s) := by
  have hGet : get64 s 0 a = some old := (if_pos rfl).trans h
  rw [wide_write (writeReaches_of_host hr a) ha, write64_put hGet]
  exact congrArg _ (if_pos rfl)

/-- The registers of PF0 that have a row of their own and one address. -/
theorem pf0_rows (hr : hostReaches s 0 = true) (x : U32) :
    exec (.registerWrite 0 0x018 false (x.setWidth 64)) s = exec (.topoRingWrite x) s
    ∧ exec (.registerWrite 0 0x010 true (x.setWidth 64)) s = exec (.topoBaseWrite (x.setWidth 64)) s
    ∧ exec (.registerWrite 0 0x1014 false (x.setWidth 64)) s = exec (.tbFreeLenWrite x) s
    ∧ exec (.registerWrite 0 0x1028 false (x.setWidth 64)) s = exec (.tbCmpCfgWrite x) s
    ∧ exec (.registerWrite 0 0x4018 false (x.setWidth 64)) s = exec (.dspCtxCtlWrite x) s
    ∧ exec (.registerWrite 0 0x3C000 false (x.setWidth 64)) s = exec (.pwrTargetWrite x) s := by
  have hRow : ∀ {c : Instr} {g : State → State} {w : State}, exec c s = guarded (hostReaches s 0) s g → w = g s → exec c s = .next w :=
    fun hc hw => by rw [hc, hw, guarded_of hr]
  refine ⟨?_, ?_, ?_, ?_, ?_, ?_⟩
  · exact (pf0_literal_write hr rfl (by decide) (fun h => absurd h (by decide)) (fun _ => rfl) x).trans
      (hRow (c := .topoRingWrite x) rfl rfl).symm
  · exact (pf0_wide_write hr rfl rfl _).trans (hRow (c := .topoBaseWrite (x.setWidth 64)) rfl rfl).symm
  · exact (pf0_literal_write hr rfl (by decide) (fun _ => by decide) (fun _ => rfl) x).trans
      (hRow (c := .tbFreeLenWrite x) rfl rfl).symm
  · exact (pf0_literal_write hr rfl (by decide) (fun h => absurd h (by decide)) (fun _ => rfl) x).trans
      (hRow (c := .tbCmpCfgWrite x) rfl rfl).symm
  · exact (pf0_literal_write hr rfl (by decide) (fun h => absurd h (by decide)) (fun _ => rfl) x).trans
      (hRow (c := .dspCtxCtlWrite x) rfl rfl).symm
  · exact (pf0_literal_write hr rfl (by decide) (fun h => absurd h (by decide)) (fun _ => rfl) x).trans
      (hRow (c := .pwrTargetWrite x) rfl rfl).symm

theorem pf0_wide_rows (hr : hostReaches s 0 = true) (x : U64) :
    exec (.registerWrite 0 0x1030 true x) s = exec (.tbCmpTargetWrite x) s
    ∧ exec (.registerWrite 0 0x30090 true x) s = exec (.errPortFailedClear x) s :=
  ⟨(pf0_wide_write hr rfl rfl x).trans (guarded_of hr : guarded (hostReaches s 0) s (cmpTargetWrite x) = _).symm,
    (pf0_wide_write hr rfl rfl x).trans (guarded_of hr : guarded (hostReaches s 0) s (portFailedClear x) = _).symm⟩

/-- `AX[i].CPC`. -/
theorem pf0Write_cpc (i : Fin 4) (x : U32) : pf0Write (0x1104 + 0x40 * i.val) x s = cpcWrite i.val x s := by
  have hi := i.isLt
  unfold pf0Write
  rw [if_neg (by omega), if_neg (by omega), if_pos (by omega)]
  unfold timebaseWrite
  rw [if_neg (by omega), if_pos (by omega), dif_pos (by omega), show (0x1104 + 0x40 * i.val - 0x1000) % 0x40 = 4 by omega]
  show cpcWrite ((0x1104 + 0x40 * i.val - 0x1000 - 0x100) / 0x40) x s = _
  rw [show (0x1104 + 0x40 * i.val - 0x1000 - 0x100) / 0x40 = i.val by omega]

/-- `ERR[c].CFG`. -/
theorem pf0Write_errCfg (c : Fin 7) (x : U32) : pf0Write (0x30000 + 0x10 * c.val) x s = errCfgWrite c.val x s := by
  have hc := c.isLt
  unfold pf0Write
  rw [if_neg (by omega), if_neg (by omega), if_neg (by omega), if_neg (by omega), if_neg (by omega), if_neg (by omega), if_neg (by omega),
    if_neg (by omega), if_pos (by omega)]
  unfold errWrite
  rw [if_pos (by omega), show (0x30000 + 0x10 * c.val - 0x30000) / 0x10 = c.val by omega]

/-- `PORT[p].EVT`. -/
theorem pf0Write_portEvt (p : PortId) (x : U32) : pf0Write (0x10008 + 0x400 * p.val) x s = clearEvt (.port p) x s := by
  have hp := p.isLt
  unfold pf0Write
  rw [if_neg (by omega), if_neg (by omega), if_neg (by omega), if_neg (by omega), if_neg (by omega), if_neg (by omega), if_pos (by omega),
    dif_pos (by omega), show (0x10008 + 0x400 * p.val) % 0x400 = 8 by omega]
  show clearEvt (.port ⟨(0x10008 + 0x400 * p.val - 0x10000) / 0x400, _⟩) x s = _
  have hIs : (⟨(0x10008 + 0x400 * p.val - 0x10000) / 0x400, by omega⟩ : PortId) = p := Fin.ext (by dsimp only; omega)
  rw [hIs]

theorem pf0_indexed_rows (hr : hostReaches s 0 = true) (x : U32) :
    (∀ i : Fin 4, exec (.registerWrite 0 (0x1104 + 0x40 * i.val) false (x.setWidth 64)) s = exec (.axCpcWrite i x) s)
    ∧ (∀ c : Fin 7, exec (.registerWrite 0 (0x30000 + 0x10 * c.val) false (x.setWidth 64)) s = exec (.errCfgWrite c x) s)
    ∧ ∀ p : PortId, Clears 0 (0x10008 + 0x400 * p.val) p.val s x := by
  refine ⟨fun i => ?_, fun c => ?_, fun p => ?_⟩
  · have hi := i.isLt
    rw [pf0_narrow_write hr (by omega) (by unfold Narrow; omega) (fun _ => by unfold Narrow; omega), pf0Write_cpc]
    exact (guarded_of hr : guarded (hostReaches s 0) s (cpcWrite i.val x) = _).symm
  · have hc := c.isLt
    rw [pf0_narrow_write hr (by omega) (by unfold Narrow; omega) (fun h => by omega), pf0Write_errCfg]
    exact (guarded_of hr : guarded (hostReaches s 0) s (errCfgWrite c.val x) = _).symm
  · have hp := p.isLt
    refine clears_of (r := .port p) ?_
    rw [pf0_narrow_write hr (by omega) (by unfold Narrow; omega) (fun h => by omega), pf0Write_portEvt]

/-- `PWR.CORE_RESET` resets the core die with its key, and with it alone. -/
theorem coreReset_write (hr : hostReaches s 0 = true) (x : U32) :
    (field x 0 8 = 0xA5 → exec (.registerWrite 0 0x3C018 false (x.setWidth 64)) s = exec .coreReset s)
    ∧ (field x 0 8 ≠ 0xA5 → exec (.registerWrite 0 0x3C018 false (x.setWidth 64)) s = .next s) := by
  have hRun := pf0_literal_write hr (a := 0x3C018) (g := coreResetWrite) rfl (by decide) (fun h => absurd h (by decide)) (fun _ => rfl) x
  have hNext : ∃ t, execCoreReset s = .next t := by
    unfold execCoreReset guarded
    split
    · exact ⟨_, rfl⟩
    · exact ⟨_, rfl⟩
  obtain ⟨t, ht⟩ := hNext
  unfold coreResetWrite at hRun
  refine ⟨fun h => ?_, fun h => ?_⟩
  · rw [if_pos h] at hRun
    unfold after at hRun
    rw [ht] at hRun
    exact hRun.trans ht.symm
  · rw [if_neg h] at hRun
    exact hRun

/-- The event registers of PF0's blocks. -/
theorem pf0_clears (hr : hostReaches s 0 = true) (x : U32) :
    ∀ e ∈ [(0x034, 147), (0x1020, 144), (0x4020, 145), (0x3009C, 148), (0x38020, 149), (0x80010, 146)], Clears 0 e.1 e.2 s x := by
  intro e he
  simp only [List.mem_cons, List.not_mem_nil, or_false] at he
  rcases he with rfl | rfl | rfl | rfl | rfl | rfl
  · exact clears_of (r := .dma) (pf0_literal_write hr rfl (by decide) (fun _ => by decide) (fun _ => rfl) x)
  · exact clears_of (r := .tb) (pf0_literal_write hr rfl (by decide) (fun h => absurd h (by decide)) (fun _ => rfl) x)
  · exact clears_of (r := .eng) (pf0_literal_write hr rfl (by decide) (fun h => absurd h (by decide)) (fun _ => rfl) x)
  · exact clears_of (r := .err) (pf0_literal_write hr rfl (by decide) (fun _ => by decide) (fun _ => rfl) x)
  · exact clears_of (r := .pair) (pf0_literal_write hr rfl (by decide) (fun h => absurd h (by decide)) (fun _ => rfl) x)
  · exact clears_of (r := .vfr) (pf0_literal_write hr rfl (by decide) (fun h => absurd h (by decide)) (fun _ => rfl) x)

end
end Sys2Proof.Machine
end


section
/-! PROOFS. Register writes of a function's window and mailbox (R430 to R433, R475, R480, R482), and with them the register map. -/

namespace Sys2Proof.Machine

section
variable {s t u v w : State} {f : FuncId} {a off : Nat}

/-! ### The function window (R475) -/

theorem get64_window (hOff : off < 0x50) : get64 s f (0x100 + off) = winGet s f.val off := by
  unfold get64
  split
  · next h0 =>
    unfold pf0Get
    rw [if_pos (by omega), Nat.add_sub_cancel_left, h0]
  · unfold vfGet
    rw [if_pos (by omega), Nat.add_sub_cancel_left]

theorem put64_window (hOff : off < 0x50) (x : U64) : put64 f (0x100 + off) x s = winPut f.val off x s := by
  unfold put64
  split
  · next h0 =>
    unfold pf0Put
    rw [if_pos (by omega), Nat.add_sub_cancel_left, h0]
  · unfold vfPut
    rw [if_pos (by omega), Nat.add_sub_cancel_left]

theorem put32_window (hOff : off < 0x50) (x : U32) : put32 f (0x100 + off) x s = winWrite f off x s := by
  unfold put32
  split
  · next h0 =>
    have hIs : f = 0 := Fin.ext h0
    unfold pf0Write
    rw [if_neg (by omega), if_pos (by omega), Nat.add_sub_cancel_left, hIs]
  · unfold vfWrite
    rw [if_neg (by omega), if_neg (by omega), if_pos (by omega), Nat.add_sub_cancel_left]

/-- A narrow write of a narrow register of a window. -/
theorem window_write (hr : hostReaches s f.val = true) (hOff : off < 0x50) (ha : off % 4 = 0) (hn : winGet s f.val off = none)
    (hLow : off % 8 = 4 → winGet s f.val (off - 4) = none) (x : U32) :
    exec (.registerWrite f (0x100 + off) false (x.setWidth 64)) s = .next (winWrite f off x s) := by
  have hBelow : (0x100 + off) % 8 = 4 → get64 s f (0x100 + off - 4) = none := fun h => by
    rw [show 0x100 + off - 4 = 0x100 + (off - 4) by omega, get64_window (by omega)]
    exact hLow (by omega)
  rw [narrow_write (writeReaches_of_host hr _) (by omega), write32_put ((get64_window hOff).trans hn) hBelow, put32_window hOff]

/-- An outcome that is a next state is the state after it. -/
theorem next_after {g : State → Host.Outcome State Fault Refusal} (h : ∃ t, g s = .next t) : Host.Outcome.next (after g s) = g s := by
  obtain ⟨t, ht⟩ := h
  unfold after
  rw [ht]

theorem guarded_nexts (b : Bool) (g : State → State) : ∃ t, (guarded b s g : Host.Outcome State Fault Refusal) = .next t := by
  cases b with
  | true => exact ⟨_, rfl⟩
  | false => exact ⟨_, rfl⟩

/-- `Q.KICK`. -/
theorem kick_write (hr : hostReaches s f.val = true) (x : U32) (n : Fin 4096) (hn : n.val = field x 0 12) :
    exec (.registerWrite f 0x11C false (x.setWidth 64)) s =
      if bit x 12 then exec (.qKickCr f n (BitVec.ofNat 16 (field x 16 16))) s
      else if bit x 13 then exec (.qKickSqInval f n (BitVec.ofNat 16 (field x 16 16))) s
      else exec (.qKickSq f n (BitVec.ofNat 16 (field x 16 16))) s := by
  have hRun := window_write hr (off := 0x1C) (by decide) rfl rfl (fun _ => rfl) x
  have hKick : winWrite f 0x1C x s = kickWrite f x s := rfl
  have hIs : (⟨field x 0 12, by unfold field; omega⟩ : Fin 4096) = n := Fin.ext hn.symm
  rw [hKick] at hRun
  unfold kickWrite at hRun
  rw [hIs] at hRun
  refine hRun.trans ?_
  dsimp only
  split
  · exact next_after (guarded_nexts _ _)
  · split
    · exact next_after (guarded_nexts _ _)
    · exact next_after (guarded_nexts _ _)

/-- `INT.VEC_MOD`. -/
theorem vecMod_write (hr : hostReaches s f.val = true) (x : U64) :
    exec (.registerWrite f 0x148 true x) s = exec (.intVecModWrite f x) s := by
  rw [wide_write (writeReaches_of_host hr _) rfl,
    write64_put (show get64 s f 0x148 = some _ from (get64_window (off := 0x48) (by decide)).trans rfl),
    show put64 f 0x148 x s = winPut f.val 0x48 x s from put64_window (off := 0x48) (by decide) x]
  exact (guarded_of hr : guarded (hostReaches s f.val) s (vecModWrite f.val x) = _).symm

/-- `Q.CMD` begins an operation unless one is in progress. -/
theorem qCmd_write (hr : hostReaches s f.val = true) (x : U32) : exec (.registerWrite f 0x104 false (x.setWidth 64)) s
    = .next (if (fn s f.val).busy = true ∨ field x 0 2 = 0 then s
      else modFn f.val (fun y => { y with busy := true, op := field x 0 2 }) s) := by
  have hRun := window_write hr (off := 0x04) (by decide) rfl rfl (fun _ => rfl) x
  refine hRun.trans (congrArg _ ?_)
  show qCmdWrite f.val x s = _
  unfold qCmdWrite
  exact ite_congr (by rw [Bool.or_eq_true, decide_eq_true_eq]) (fun _ => rfl) fun _ => rfl

theorem window_clears (hr : hostReaches s f.val = true) (x : U32) : Clears f 0x138 (256 + f.val) s x :=
  clears_of (r := .q f) (window_write hr (off := 0x38) (by decide) rfl rfl (fun h => absurd h (by decide)) x)

/-- `VF.EVT` of a VF. -/
theorem vf_clears (hr : hostReaches s f.val = true) (h0 : f.val ≠ 0) (x : U32) : Clears f 0x010 (384 + f.val) s x := by
  have hGet : get64 s f 0x010 = none := (if_neg h0).trans rfl
  have hPut : put32 f 0x010 x s = clearEvt (.vf f) x s := (if_neg h0).trans rfl
  refine clears_of (r := .vf f) ?_
  rw [narrow_write (writeReaches_of_host hr _) rfl, write32_put hGet fun h => absurd h (by decide), hPut]

/-! ### The mailbox set (R480) -/

/-- The first address of a function's mailbox set. -/
def mailBase (f : FuncId) : Nat := if f.val = 0 then 0x40000 else 0x200

theorem mailBase_aligned (f : FuncId) : mailBase f % 8 = 0 := by
  unfold mailBase
  split <;> rfl

theorem get64_mailBase : get64 s f (mailBase f) = some (box s f.val).inPtr := by
  unfold get64 mailBase
  split
  · next h0 => rw [h0]; rfl
  · rfl

theorem put64_mailBase (x : U64) : put64 f (mailBase f) x s = modBox f.val (fun y => { y with inPtr := x }) s := by
  unfold put64 mailBase
  split
  · next h0 => rw [h0]; rfl
  · rfl

theorem get64_mail (h0 : off ≠ 0) (hOff : off < 0x24) : get64 s f (mailBase f + off) = none := by
  unfold get64 mailBase
  split
  · exact pf0Get_narrow (by unfold Narrow; omega)
  · unfold vfGet
    rw [if_neg (by omega), if_neg (by omega)]

theorem put32_mail (hOff : off < 0x24) (x : U32) : put32 f (mailBase f + off) x s = mbxWrite (.func f) f.val off x s := by
  unfold put32 mailBase
  split
  · next h0 =>
    have hIs : f = 0 := Fin.ext h0
    unfold pf0Write
    rw [if_neg (by omega), if_neg (by omega), if_neg (by omega), if_neg (by omega), if_neg (by omega), if_neg (by omega), if_neg (by omega),
      if_neg (by omega), if_neg (by omega), if_neg (by omega), if_neg (by omega), if_pos (by omega), Nat.add_sub_cancel_left, hIs]
    rfl
  · unfold vfWrite
    rw [if_neg (by omega), if_neg (by omega), if_neg (by omega), if_pos (by omega), Nat.add_sub_cancel_left]

/-- A narrow write of a narrow register of a mailbox set. -/
theorem mail_write (hr : hostReaches s f.val = true) (h4 : 8 ≤ off) (hOff : off < 0x24) (ha : off % 4 = 0) (x : U32) :
    exec (.registerWrite f (mailBase f + off) false (x.setWidth 64)) s = .next (mbxWrite (.func f) f.val off x s) := by
  have hBase := mailBase_aligned f
  have hBelow : (mailBase f + off) % 8 = 4 → get64 s f (mailBase f + off - 4) = none := fun h => by
    rw [show mailBase f + off - 4 = mailBase f + (off - 4) by omega]
    exact get64_mail (by omega) (by omega)
  rw [narrow_write (writeReaches_of_host hr _) (by omega), write32_put (get64_mail (by omega) hOff) hBelow, put32_mail hOff]

/-- What the statement says of a write of the staged PTR. -/
def PtrStaged (f : FuncId) (o : Host.Outcome State Fault Refusal) (n : Nat) (s : State) : Prop := ∃ t, o = .next t ∧ Frame [.mail] s t
  ∧ ∀ k, box t k = if k = f.val then { box s f.val with inPtr := BitVec.ofNat 64 n } else box s k

theorem ptrStaged_of {o : Host.Outcome State Fault Refusal} {n : Nat} {x : U64} (h : o = .next (put64 f (mailBase f) x s))
    (hx : x = BitVec.ofNat 64 n) : PtrStaged f o n s := by
  rw [put64_mailBase, hx] at h
  exact ⟨_, h, frame_setMail s _, fun k => box_modBox f.val k _ s⟩

theorem withHalf_low (old : U64) (x : U32) : withHalf old false x = BitVec.ofNat 64 (old.toNat / 2 ^ 32 * 2 ^ 32 + x.toNat) := by
  have hx := x.isLt
  unfold withHalf setField
  rw [if_neg Bool.false_ne_true, Nat.mod_eq_of_lt hx, Nat.zero_add]
  congr 1
  omega

theorem withHalf_high (old : U64) (x : U32) : withHalf old true x = BitVec.ofNat 64 (x.toNat * 2 ^ 32 + old.toNat % 2 ^ 32) := by
  have hx := x.isLt
  have hOld := old.isLt
  unfold withHalf setField
  rw [if_pos rfl, Nat.mod_eq_of_lt hx, Nat.div_eq_of_lt hOld]
  congr 1
  omega

/-- What the statement says of a function's mailbox set. -/
theorem mail_rows (hr : hostReaches s f.val = true) :
    (∀ x : U64, PtrStaged f (exec (.registerWrite f (mailBase f) true x) s) x.toNat s)
    ∧ (∀ x : U32, PtrStaged f (exec (.registerWrite f (mailBase f) false (x.setWidth 64)) s)
        ((box s f.val).inPtr.toNat / 2 ^ 32 * 2 ^ 32 + x.toNat) s
      ∧ PtrStaged f (exec (.registerWrite f (mailBase f + 4) false (x.setWidth 64)) s)
        (x.toNat * 2 ^ 32 + (box s f.val).inPtr.toNat % 2 ^ 32) s)
    ∧ ∀ x : U32, exec (.registerWrite f (mailBase f + 8) false (x.setWidth 64)) s
        = exec (.mbxInCommit (.func f) (BitVec.ofNat 16 (field x 0 16)) (BitVec.ofNat 8 (field x 16 8))) s
      ∧ exec (.registerWrite f (mailBase f + 0x1C) false (x.setWidth 64)) s
        = if bit x 0 then exec (.mbxOutDone (.func f)) s else .next s := by
  have hBase := mailBase_aligned f
  refine ⟨fun x => ptrStaged_of (x := x) ?_ (BitVec.ofNat_toNat 64 x ▸ (BitVec.setWidth_eq x).symm), fun x => ⟨?_, ?_⟩, fun x => ⟨?_, ?_⟩⟩
  · rw [wide_write (writeReaches_of_host hr _) hBase, write64_put get64_mailBase]
  · refine ptrStaged_of ?_ (withHalf_low (box s f.val).inPtr x)
    rw [narrow_write (writeReaches_of_host hr _) (by omega), write32_low get64_mailBase]
  · refine ptrStaged_of ?_ (withHalf_high (box s f.val).inPtr x)
    rw [narrow_write (writeReaches_of_host hr _) (by omega), write32_high (get64_mail (by decide) (by decide)) hBase get64_mailBase]
  · rw [mail_write hr (by decide) (by decide) rfl]
    exact (guarded_of hr : guarded (hostReaches s f.val) s (commitBox (.func f) _ _) = _).symm
  · rw [mail_write hr (by decide) (by decide) rfl]
    show Host.Outcome.next (if bit x 0 then outDone f.val s else s) = _
    split
    · exact (guarded_of hr : guarded (hostReaches s f.val) s (outDone f.val) = _).symm
    · rfl

/-! ### The obligation -/

/-- Settles O59: an access acts on the register that stands at its address, which is told region by region; the registers with a row of
their own do what that row does. -/
theorem registerWrites : Obligations.RegisterWrites := by
  unfold Obligations.RegisterWrites
  intro s
  refine ⟨fun f a wide x h => registerWrite_ignored wide x h, fun f a x ha hr hn => wide_write_narrow hr ha hn x, fun hr => ?_, fun f hr => ?_⟩
  · exact ⟨fun x => pf0_rows hr x, fun x => pf0_wide_rows hr x, fun i x => (pf0_indexed_rows hr x).1 i,
      fun c x => (pf0_indexed_rows hr x).2.1 c, fun x => coreReset_write hr x, fun e he x => pf0_clears hr x e he,
      fun p x => (pf0_indexed_rows hr x).2.2 p⟩
  · obtain ⟨hWide, hHalves, hRows⟩ := mail_rows hr
    exact ⟨hWide, hHalves, hRows, fun x n hn => kick_write hr x n hn, fun x => vecMod_write hr x, fun x => window_clears hr x,
      fun h0 x => vf_clears hr h0 x, fun x => qCmd_write hr x⟩

end
end Sys2Proof.Machine
end
